-- ==== Sys2Proof/Word.lean ====
section
/-! DEFINITION. The word types of the block: a byte of memory and the 32-bit register word (R5, R6). -/

namespace Sys2Proof

/-- One byte of memory, of a descriptor, of a packet or of the exchange window. -/
abbrev Byte := BitVec 8

/-- One BAR0 register word (R6). -/
abbrev Word := BitVec 32

end Sys2Proof
end

