-- ==== Sys2Proof/Syntax.lean ====
section
/-! DEFINITION. The commands of the HN48 block (one constructor per row of the opcode table) and the structures of
their operands: what reaches the module from the host port, the fabric, its sensors and its physical parts. -/

namespace Sys2Proof

/-- Corrected ECC words of the exposure that ended, as the module measured them (R362, inputs 0 to 2). -/
structure EccCounts where
  hbm : Nat
  sram : Nat
  neg : Nat
  deriving DecidableEq, Repr

/-- The notices of the barrier tree: completion (R24, R330), fault and drained (R376). -/
inductive NoticeKind
  | completion | fault | drained
  deriving DecidableEq, Repr

/-- A barrier notice (R22, R330, R376): its kind, the sender's start exposure, the participants below it, the largest
fabric time combined, the origin, whether it travels down the tree, and its cause; and the port it came in on with the
32-byte header of its packet (R305). -/
structure Notice where
  kind : NoticeKind
  startExposure : Nat
  count : Nat
  time : Nat
  origin : Nat
  down : Bool
  cause : Nat
  port : Nat
  header : List Byte
  deriving DecidableEq, Repr

/-- A fabric packet as received: its 32-byte header (R305), its data, its AES-256-GCM tag if it carries one, and the
sender's packet count that its IV was made of (R420): the manual does not say how the count reaches the receiver (log
entry 30). -/
structure Packet where
  header : List Byte
  data : List Byte
  tag : List Byte
  count : Nat
  deriving DecidableEq, Repr

/-- A received FLIT after FEC (R303, R304): its header word, whether FEC corrected it, whether its CRC then held,
and the credit units it returns to the class of its header. -/
structure Flit where
  header : Word
  corrected : Bool
  crcOk : Bool
  credits : Nat
  deriving DecidableEq, Repr

/-- A control FLIT (R303): link credits per class, the four times of the exchange (R331), the lanes the neighbour holds
for failed, and the ranks of the neighbour's output channels per class (R315). -/
structure ControlFlit where
  credits : List Nat
  t1 : Nat
  t2 : Nat
  t3 : Nat
  t4 : Nat
  lanes : Nat
  outRank : List Nat
  deriving DecidableEq, Repr

/-- A tiling record (R164): array form, loop order, core grid, tile extents, folding, and the reference flag. -/
structure Tiling where
  form : Nat
  order : Nat
  gM : Nat
  gN : Nat
  mT : Nat
  nT : Nat
  kT : Nat
  folded : Bool
  reference : Bool
  deriving DecidableEq, Repr

/-- The hardware queue that a pointer mismatch or an uncorrectable error concerns: a plan queue of a partition by its
queue-table index, the token or credit port of a core, a port's buffer of a virtual channel, the input queue of an intake
unit or of a Developer (0..47), or the event path (R117, R119, R378). -/
inductive QueueRef
  | plan (p index : Nat)
  | tokenPort (core : Nat)
  | creditPort (core : Nat)
  | channel (port cls : Nat)
  | intake (unit : Nat)
  | developer (unit : Nat)
  | eventPath
  deriving DecidableEq, Repr

/-- Who read a word that failed its ECC (R378): a core's task, the Fixer, or no task. -/
inductive ErrorReader
  | core (c : Nat)
  | fixer
  | nobody
  deriving DecidableEq, Repr

/-- Where an uncorrectable ECC error was found (R378): a queue word, a decoder, a transfer, or a partition address of a
memory space, with the reader. -/
inductive ErrorPlace
  | queue (q : QueueRef)
  | decoder (p addr : Nat)
  | transfer (p port addr : Nat)
  | memory (p space addr : Nat) (reader : ErrorReader)
  deriving DecidableEq, Repr

/-- What the power manager measured for one evaluation of R392: bus voltage, input current and power, and the
temperature of every sensor in 0.1 °C, in the order of the table of R400. -/
structure PowerReadings where
  busMv : Nat
  current10mA : Nat
  powerW : Nat
  temps : List Int
  deriving DecidableEq, Repr

/-- A unit that has power states (R398, R399). -/
inductive PowerUnit
  | core (c : Nat)
  | staging (d : Nat)
  | stack (s : Nat)
  | port (n : Nat)
  deriving DecidableEq, Repr

/-- One item of the shut-down test record (R425): units tested and units failed. -/
structure BistItem where
  tested : Nat
  failed : Nat
  deriving DecidableEq, Repr

/-- What a start-up finds and measures (R410): active cores and trained stacks per die, I/O dies, Negative-store
packages, fabric ports present, the cores that failed the array test, whether the march test of every SRAM and the PLL
lock passed, and the results of the eight items of R427 that a full test adds (R426). -/
structure StartFacts where
  dieCores : List Nat
  dieStacks : List Nat
  ioDies : Nat
  negPackages : Nat
  ports : Nat
  failedCores : List Nat
  testPassed : Bool
  items : List BistItem
  deriving DecidableEq, Repr

/-- What the FINISH request proves (R418): whether its signature and HMAC verify, and the hash of the requester's
key. -/
structure FinishAuth where
  verified : Bool
  keyHash : List Byte
  deriving DecidableEq, Repr

/-- A protected range of SET_PROTECTED (R419): space, base and size in 2 MiB units. -/
structure ProtRange where
  space : Nat
  base : Nat
  size : Nat
  deriving DecidableEq, Repr


/-- A lane whose symbol error ratio is judged (R301): its number, and the symbol errors and the symbols of the 1 ms window. -/
structure LaneErrors where
  lane : Nat
  errors : Nat
  symbols : Nat
  deriving DecidableEq, Repr

/-- The two ends of a die-to-die interface (R53, R55): its compute die, and the die at its other end (the base die or the
compute die of that number, or the I/O die). -/
structure D2dEnds where
  die : Nat
  other : Nat
  deriving DecidableEq, Repr

/-- The commands of the block: one constructor per row of the opcode table, in table order, with what reaches the
block from outside as its operands. -/
inductive Instr
  /-- BAR0_BAD_SIZE_ACCESS (R6). -/
  | bar0BadSizeAccess (offset size : Nat) (write : Bool)
  /-- RESERVED_RANGE_ACCESS (R433). -/
  | reservedRangeAccess (offset : Nat) (write : Bool)
  /-- PAIR_LOW_READ (R7). -/
  | pairLowRead (offset : Nat)
  /-- PAIR_LOW_WRITE (R7). -/
  | pairLowWrite (offset : Nat) (value : Word)
  /-- PAIR_HIGH_WRITE (R7). -/
  | pairHighWrite (offset : Nat) (value : Word)
  /-- REGISTER_WRITE (R11). -/
  | registerWrite (offset : Nat) (value : Word)
  /-- COUNTER_CLEAR (R441). -/
  | counterClear (offset : Nat) (value : Word)
  /-- LAYER_REPLAYS_CLEAR (R152). -/
  | layerReplaysClear (value : Word)
  /-- TICK_START_WRITE (R27). -/
  | tickStartWrite (p : Nat) (hi : Word)
  /-- WITHDRAW (R26). -/
  | withdraw (p : Nat)
  /-- PLAN_WITHDRAWAL (R26). -/
  | planWithdrawal (p : Nat)
  /-- SHUTTER_TICK (R21). -/
  | shutterTick (p : Nat) (ecc : EccCounts)
  /-- STEP_ZERO_START (R26). -/
  | stepZeroStart (p : Nat)
  /-- STEP_END (R24). -/
  | stepEnd (p : Nat)
  /-- STEP_HELD (R41). -/
  | stepHeld (p : Nat)
  /-- STEP_HOLD_LIMIT (R41). -/
  | stepHoldLimit (p : Nat)
  /-- PROMOTION_EXPIRY (R142). -/
  | promotionExpiry (p layer : Nat)
  /-- COMPLETION_NOTICE (R446). -/
  | completionNotice (p : Nat) (n : Notice)
  /-- TIME_LOCK_TIMEOUT (R16). -/
  | timeLockTimeout (p : Nat)
  /-- DOORBELL_TAIL (R67). -/
  | doorbellTail (ring : Nat) (value : Word)
  /-- DOORBELL_COMPLETION_HEAD (R67). -/
  | doorbellCompletionHead (ring : Nat) (value : Word)
  /-- DOORBELL_BAD (R66). -/
  | doorbellBad (ring offset size value : Nat)
  /-- WIN_ACCESS_BAD (R63). -/
  | winAccessBad (bar offset : Nat) (write : Bool)
  /-- DESCRIPTOR_FETCH (R72). -/
  | descriptorFetch (ring : Nat) (bytes : List Byte) (hostStatus : Nat)
  /-- NOP (R70). -/
  | nop (ring : Nat)
  /-- LOAD_PLAN (R92). -/
  | loadPlan (ring : Nat)
  /-- ADMIT (R26). -/
  | admitPlan (ring : Nat)
  /-- LIGHT_METER_DONE (R30). -/
  | lightMeterDone (p : Nat)
  /-- UNLOAD_PLAN (R70). -/
  | unloadPlan (ring : Nat)
  /-- COPY_IN (R71). -/
  | copyIn (ring : Nat)
  /-- COPY_OUT (R71). -/
  | copyOut (ring : Nat)
  /-- COPY_DONE (R75). -/
  | copyDone (ring seq : Nat) (data : List Byte) (hostStatus : Nat)
  /-- FENCE (R70). -/
  | fence (ring : Nat)
  /-- CONTEXT_OPEN (R195). -/
  | contextOpen (ring : Nat)
  /-- CONTEXT_FORK (R195). -/
  | contextFork (ring : Nat)
  /-- CONTEXT_CLOSE (R195). -/
  | contextClose (ring : Nat)
  /-- CONTEXT_APPLY (R192). -/
  | contextApply (p : Nat)
  /-- CLEAR_TABLE_LOAD (R267). -/
  | clearTableLoad (ring : Nat)
  /-- CLEAR_TABLE_MAKE_CURRENT (R267). -/
  | clearTableMakeCurrent (ring : Nat)
  /-- CLEAR_TABLE_DISCARD (R267). -/
  | clearTableDiscard (ring : Nat)
  /-- CLEAR_TABLE_APPLY (R267). -/
  | clearTableApply (p : Nat)
  /-- CLEAR_GEN_FREED (R265). -/
  | clearGenFreed (p gen : Nat)
  /-- DICTIONARY_LOAD (R349). -/
  | dictionaryLoad (ring : Nat)
  /-- DICTIONARY_LOAD_DONE (R349). -/
  | dictionaryLoadDone (unit bank : Nat)
  /-- DICTIONARY_ACTIVATE (R349). -/
  | dictionaryActivate (ring : Nat)
  /-- DICTIONARY_ACTIVATE_APPLY (R349). -/
  | dictionaryActivateApply (p : Nat)
  /-- RESHARD_PREPARE (R333). -/
  | reshardPrepare (ring : Nat)
  /-- RESHARD_COMMIT (R333). -/
  | reshardCommit (ring : Nat)
  /-- RESHARD_CANCEL (R333). -/
  | reshardCancel (ring : Nat)
  /-- RESHARD_BOUNDARY (R334). -/
  | reshardBoundary (p : Nat)
  /-- EPOCH_DRAIN_TIMEOUT (R334). -/
  | epochDrainTimeout (p port : Nat)
  /-- SECURE (R388). -/
  | secure (ring : Nat)
  /-- COMPLETION_WRITE (R73). -/
  | completionWrite (ring hostStatus : Nat)
  /-- RING_RESET (R76). -/
  | ringReset (ring : Nat)
  /-- RING_RESET_DONE (R76). -/
  | ringResetDone (ring : Nat)
  /-- POOL_CONFIG_WRITE (R447). -/
  | poolConfigWrite (p pool : Nat) (value : Word)
  /-- SLOT_FLIP (R80). -/
  | slotFlip (p pool slot : Nat) (value : BitVec 64)
  /-- SLOT_TIMEOUT (R82). -/
  | slotTimeout (p pool slot : Nat)
  /-- WINDOW_WRITE (R78). -/
  | windowWrite (p offset : Nat) (bytes : List Byte)
  /-- WINDOW_READ (R81). -/
  | windowRead (p offset len : Nat)
  /-- TASK_ISSUE (R113). -/
  | taskIssue (core : Nat)
  /-- TOKEN_RECEIVED (R114). -/
  | tokenReceived (core graph task : Nat)
  /-- CREDIT_RECEIVED (R115). -/
  | creditReceived (p queue : Nat)
  /-- TASK_COMPLETION (R114). -/
  | taskCompletion (p graph task : Nat)
  /-- TILING_RECORD (R163). -/
  | tilingRecord (core delayNs : Nat)
  /-- SHAPE_SEARCH_DONE (R167). -/
  | shapeSearchDone (core : Nat) (tiling : Tiling)
  /-- MATRIX_PRODUCT (R104). -/
  | matrixProduct (core : Nat)
  /-- DATA_GRADIENT_PRODUCT (R153). -/
  | dataGradientProduct (core : Nat)
  /-- WEIGHT_GRADIENT_PRODUCT (R160). -/
  | weightGradientProduct (core : Nat)
  /-- ATTENTION_FORWARD (R175). -/
  | attentionForward (core : Nat)
  /-- ATTENTION_BACKWARD (R187). -/
  | attentionBackward (core : Nat)
  /-- CONV_FORWARD (R230). -/
  | convForward (core : Nat)
  /-- CONV_DATA_GRADIENT (R230). -/
  | convDataGradient (core : Nat)
  /-- CONV_WEIGHT_GRADIENT (R230). -/
  | convWeightGradient (core : Nat)
  /-- CROP_AND_RESIZE (R240). -/
  | cropAndResize (core : Nat)
  /-- CHANNEL_ARGMAX (R244). -/
  | channelArgmax (core : Nat)
  /-- VECTOR_KERNEL (R110). -/
  | vectorKernel (core : Nat)
  /-- GATHER (R111). -/
  | gather (core : Nat)
  /-- SCATTER (R111). -/
  | scatter (core : Nat)
  /-- SCATTER_ADD (R111). -/
  | scatterAdd (core : Nat)
  /-- EXPERT_DISPATCH (R210). -/
  | expertDispatch (core : Nat)
  /-- VARIANT_DISPATCH (R223). -/
  | variantDispatch (core : Nat)
  /-- EXPERT_DISPATCH_BACKWARD (R215). -/
  | expertDispatchBackward (core : Nat)
  /-- VARIANT_DISPATCH_BACKWARD (R223). -/
  | variantDispatchBackward (core : Nat)
  /-- EXPERT_COMBINE (R214). -/
  | expertCombine (core : Nat)
  /-- VARIANT_COMBINE (R223). -/
  | variantCombine (core : Nat)
  /-- EXPERT_COMBINE_BACKWARD (R215). -/
  | expertCombineBackward (core : Nat)
  /-- VARIANT_COMBINE_BACKWARD (R223). -/
  | variantCombineBackward (core : Nat)
  /-- OFFLOAD (R251). -/
  | offload (core : Nat)
  /-- FETCH (R251). -/
  | fetch (core : Nat)
  /-- ENCODE (R251). -/
  | encode (core : Nat)
  /-- DECODE (R251). -/
  | decode (core : Nat)
  /-- RECODE (R251). -/
  | recode (core : Nat)
  /-- FABRIC_SEND (R320). -/
  | fabricSend (core : Nat)
  /-- FABRIC_RECEIVE (R320). -/
  | fabricReceive (core : Nat)
  /-- LOCAL_COPY (R321). -/
  | localCopy (core : Nat)
  /-- REDUCTION (R326). -/
  | reduction (core : Nat)
  /-- GROUP_UPDATE (R285). -/
  | groupUpdate (core : Nat)
  /-- TAKE_BATCH (R353). -/
  | takeBatch (core : Nat)
  /-- EMIT_OUTPUT (R443). -/
  | emitOutput (core : Nat)
  /-- JOIN (R90). -/
  | join (core : Nat)
  /-- QUEUE_PTR_MISMATCH (R119). -/
  | queuePtrMismatch (q : QueueRef) (cause : Nat) (inTransfer : Nat)
  /-- CORE_FAILED (R51). -/
  | coreFailed (core : Nat)
  /-- D2D_TRANSFER_FAIL (R55): the interface's class (1 base bond, 2 compute ring, 3 compute to I/O) and its ends. -/
  | d2dTransferFail (iface : Nat) (ends : D2dEnds) (retry : Nat)
  /-- UNCORRECTABLE_ERROR (R378). -/
  | uncorrectableError (loc : ErrorPlace)
  /-- HBM_ROW_FAILURE (R381). -/
  | hbmRowFailure (stack page : Nat)
  /-- PORT_TRAINED (R302). -/
  | portTrained (port neighbour : Nat) (failedLanes : Nat)
  /-- PORT_TRAINING_TIMEOUT (R302). -/
  | portTrainingTimeout (port : Nat)
  /-- LANE_FAILURE (R301): a lane with the symbol errors and the symbols of its 1 ms window. -/
  | laneFailure (port : Nat) (lane : LaneErrors)
  /-- PORT_TAKE_DOWN (R302). -/
  | portTakeDown (port : Nat)
  /-- FLIT_RECEIVE (R304). -/
  | flitReceive (port : Nat) (flit : Flit)
  /-- FLIT_REPLAY (R304). -/
  | flitReplay (port seq : Nat)
  /-- CONTROL_FLIT (R303). -/
  | controlFlit (port : Nat) (ctl : ControlFlit)
  /-- OUTPUT_ARBITRATION (R310). -/
  | outputArbitration (port : Nat)
  /-- PACKET_RELAY (R316). -/
  | packetRelay (port : Nat) (pkt : Packet)
  /-- DATA_PACKET (R317). -/
  | dataPacket (port : Nat) (pkt : Packet)
  /-- REDUCTION_PARTIAL (R327). -/
  | reductionPartial (port : Nat) (pkt : Packet)
  /-- REDUCTION_RESULT (R327). -/
  | reductionResult (port : Nat) (pkt : Packet)
  /-- SIDEBAND (R328). -/
  | sideband (port : Nat) (pkt : Packet)
  /-- FENCE_MARKER (R334). -/
  | fenceMarker (port : Nat) (pkt : Packet)
  /-- ROUTE_SWITCH (R335). -/
  | routeSwitch (port : Nat) (pkt : Packet)
  /-- ROUTE_SWITCH_APPLY (R335). -/
  | routeSwitchApply (p position : Nat)
  /-- LANDING_CREDIT (R323). -/
  | landingCredit (port : Nat) (pkt : Packet)
  /-- SLOT_WINDOW_START (R319). -/
  | slotWindowStart (p slot : Nat)
  /-- LATE_TRANSMIT (R319). -/
  | lateTransmit (p slot : Nat)
  /-- BULK_MIRROR_DATA (R309). -/
  | bulkMirrorData (port : Nat) (pkt : Packet)
  /-- BULK_MIRROR_SEAL (R370). -/
  | bulkMirrorSeal (port : Nat) (pkt : Packet)
  /-- TAKEOVER_REQUEST (R383). -/
  | takeoverRequest (port : Nat) (pkt : Packet)
  /-- TAKEOVER_WRITE (R383). -/
  | takeoverWrite (value : Word)
  /-- ITEM_REQUEST (R309). -/
  | itemRequest (port : Nat) (pkt : Packet)
  /-- ITEM_DATA (R379). -/
  | itemData (port : Nat) (pkt : Packet)
  /-- ITEM_SEAL_RECORD (R369). -/
  | itemSealRecord (port : Nat) (pkt : Packet)
  /-- TAKEOVER_DONE (R384). -/
  | takeoverDone (p : Nat)
  /-- RECOVERY_IMAGE_REQUEST (R309). -/
  | recoveryImageRequest (port : Nat) (pkt : Packet)
  /-- RECOVERY_IMAGE_DATA (R412). -/
  | recoveryImageData (port : Nat) (pkt : Packet)
  /-- RECOVERY_IMAGE_END (R412). -/
  | recoveryImageEnd (port : Nat) (pkt : Packet)
  /-- RECOVERY_POLL (R412). -/
  | recoveryPoll
  /-- SAMPLE_START (R355). -/
  | sampleStart (unit : Nat)
  /-- SAMPLE_CONVERTED (R358). -/
  | sampleConverted (unit sample timeNs : Nat)
  /-- SAMPLE_SLOW (R358). -/
  | sampleSlow (unit sample : Nat)
  /-- RESERVE_COPY_DONE (R358). -/
  | reserveCopyDone (unit sample : Nat)
  /-- SWEEP_START (R373). -/
  | sweepStart (p : Nat)
  /-- SWEEP_DONE (R373). -/
  | sweepDone (p : Nat)
  /-- PRIVILEGED_COPY (R372). -/
  | privilegedCopy (p group : Nat)
  /-- SEAL_WRITTEN (R369). -/
  | sealWritten (p item : Nat)
  /-- MIRROR_SEND (R370). -/
  | mirrorSend (p item : Nat)
  /-- DRAIN_COMPLETE (R376). -/
  | drainComplete (p : Nat)
  /-- PLAN_RESUME (R376). -/
  | planResume (p : Nat)
  /-- HANDOVER_SENT (R383). -/
  | handoverSent (p : Nat)
  /-- ADMISSION_RESTORE_DONE (R387). -/
  | admissionRestoreDone (p : Nat)
  /-- NEG_STORE_WIPE_DONE (R273). -/
  | negStoreWipeDone
  /-- SEALED_SIZE_WRITE (R273). -/
  | sealedSizeWrite (value : Word)
  /-- GROUP_FREEZE_WRITE (R294). -/
  | groupFreezeWrite (value : Word)
  /-- THROTTLE_EVAL (R392). -/
  | throttleEval (r : PowerReadings)
  /-- POWER_CAP_WRITE (R393). -/
  | powerCapWrite (value : Word)
  /-- BUS_DROOP (R394). -/
  | busDroop (mv : Nat)
  /-- BUS_NORMAL (R394). -/
  | busNormal (mv : Nat)
  /-- BUS_LOW (R394). -/
  | busLow (mv : Nat)
  /-- BUS_LOW_RECOVER (R394). -/
  | busLowRecover (mv : Nat)
  /-- BUS_FAIL (R394). -/
  | busFail (mv cause : Nat)
  /-- BUS_SURGE (R394). -/
  | busSurge (mv durationUs : Nat)
  /-- BUS_RETURN (R394). -/
  | busReturn (mv : Nat)
  /-- THERMAL_TRIP (R400). -/
  | thermalTrip (sensor tenths : Nat)
  /-- COOLANT_CHECK (R401). -/
  | coolantCheck (flow : Nat) (inlet : Int)
  /-- POWER_STATE_ENTRY (R399). -/
  | powerStateEntry (unit : PowerUnit) (idleNs : Nat)
  /-- POWER_STATE_EXIT (R399). -/
  | powerStateExit (unit : PowerUnit) (unplanned : Bool)
  /-- ORDERLY_SHUTDOWN (R397). -/
  | orderlyShutdown (viaPldm : Bool) (test : List BistItem)
  /-- SHUTDOWN_TEST_DEFERRED (R427). -/
  | shutdownTestDeferred (cause : Nat) (done : List BistItem)
  /-- WARM_RESET (R404). -/
  | warmReset (value : Word) (viaPldm : Bool) (start : StartFacts)
  /-- WATCHDOG_RESET (R404). -/
  | watchdogReset (start : StartFacts)
  /-- START_UP (R410). -/
  | startUp (start : StartFacts)
  /-- HOST_PORT_RESET (R406). -/
  | hostPortReset (cause : Nat)
  /-- MBX_STATUS (R430). -/
  | mbxStatus
  /-- MBX_IMAGE_BEGIN (R412). -/
  | mbxImageBegin
  /-- MBX_IMAGE_DATA (R430). -/
  | mbxImageData
  /-- MBX_IMAGE_END (R412). -/
  | mbxImageEnd
  /-- MBX_ABORT (R430). -/
  | mbxAbort
  /-- PLDM_FIRMWARE_UPDATE (R413). -/
  | pldmFirmwareUpdate (image : List Byte)
  /-- GET_VERSION (R416). -/
  | getVersion (session : Nat)
  /-- GET_CAPABILITIES (R416). -/
  | getCapabilities (session : Nat)
  /-- NEGOTIATE_ALGORITHMS (R416). -/
  | negotiateAlgorithms (session algs : Nat)
  /-- GET_DIGESTS (R416). -/
  | getDigests (session : Nat)
  /-- GET_CERTIFICATE (R416). -/
  | getCertificate (session offset len : Nat)
  /-- CHALLENGE (R416). -/
  | challenge (session : Nat) (nonce : List Byte)
  /-- GET_MEASUREMENTS (R417). -/
  | getMeasurements (session index : Nat) (nonce : List Byte)
  /-- KEY_EXCHANGE (R418). -/
  | keyExchange (session : Nat) (exchange : List Byte)
  /-- FINISH (R418). -/
  | finish (session : Nat) (auth : FinishAuth)
  /-- HEARTBEAT (R418). -/
  | heartbeat (session : Nat)
  /-- HEARTBEAT_TIMEOUT (R418). -/
  | heartbeatTimeout (session : Nat)
  /-- KEY_UPDATE (R416). -/
  | keyUpdate (session op : Nat)
  /-- END_SESSION (R418). -/
  | endSession (session : Nat)
  /-- CHUNK_SEND (R416). -/
  | chunkSend (session seqNo : Nat) (last : Bool) (bytes : List Byte)
  /-- CHUNK_GET (R416). -/
  | chunkGet (session seqNo : Nat)
  /-- UNSUPPORTED_REQUEST (R416). -/
  | unsupportedRequest (session code : Nat)
  /-- BIND_PARTITION (R418). -/
  | bindPartition (session p : Nat)
  /-- SET_PROTECTED (R419). -/
  | setProtected (session p : Nat) (ranges : List ProtRange)
  /-- SET_FABRIC_KEY (R420). -/
  | setFabricKey (session p : Nat) (key : List Byte)
  /-- SEAL_BIND (R421). -/
  | sealBind (session : Nat)
  /-- UNSEAL (R421). -/
  | unsealRegion (session : Nat)
  /-- SET_VIEW (R423). -/
  | setView (session : Nat) (full : Bool)
  /-- SET_PARTITION_MAP (R422). -/
  | setPartitionMap (session map : Nat)
  /-- LIFECYCLE (R424). -/
  | lifecycle (session target : Nat) (start : StartFacts)
  /-- TAKE_OWNERSHIP (R424). -/
  | takeOwnership (session : Nat)
  /-- VENDOR_RESET (R404). -/
  | vendorReset (session : Nat) (start : StartFacts)
  /-- GRADE_RECORD (R412). -/
  | gradeRecord (session : Nat) (record : List Byte)
  /-- SCAN_ENABLE (R428). -/
  | scanEnable (session : Nat)
  /-- EVENT_COLLECT (R437). -/
  | eventCollect (pathFull : Bool)
  /-- INTERRUPT_COALESCE_DELAY (R96). -/
  | interruptCoalesceDelay (ring : Nat)
  deriving DecidableEq, Repr

end Sys2Proof
end

