-- ==== Sys2Proof/Config.lean ====
section
/-! DEFINITION. What an implementation fixes and the values the manual leaves open. An opaque constant has no body
the kernel can see: a claim that holds, holds for every value. -/

namespace Sys2Proof

/-- A free value: `Config.free w n` is the n-th value, `w` bits wide, that the manual leaves open (log entry 4). -/
opaque Config.free (w n : Nat) : BitVec w

/-- The order in which the module adds the terms of a sum where the manual leaves that order open (R151): the
Lehmer index of a permutation, given the number of terms and the number of the sum (log entry 5). -/
opaque Config.additionOrder (terms sum : Nat) : Nat

/-- The number of the first sum of a task that forms its sums again with one result: in a replay (R225), or on each of its
cores (R286). The parts name the partition, the step's exposure and the task (log entry 5). -/
opaque Config.heldOrder (parts : List Nat) : Nat

/-- A sum of fewer than two terms has one order, so the model never consults `Config.additionOrder` for it. -/
def Config.orderOf (terms sum : Nat) : Nat := if terms ≤ 1 then 0 else Config.additionOrder terms sum

/-- The mantissa of the NaN a unit writes in a format with several (R126 names no one of them; log entry 6). -/
opaque Config.nanMantissa (manBits : Nat) : Nat

/-- The sign of a NaN that an operation makes from operands that are no NaN (log entry 6). -/
opaque Config.nanNegative : Bool

/-- The transcendental functions of the vector unit and the attention pipeline on FP32 bits: the manual gives no
accuracy for them (log entry 7). -/
opaque Config.exp2 (x : BitVec 32) : BitVec 32
/-- Natural exponential on FP32 bits (log entry 7). -/
opaque Config.exp (x : BitVec 32) : BitVec 32
/-- Hyperbolic tangent on FP32 bits (log entry 7). -/
opaque Config.tanh (x : BitVec 32) : BitVec 32
/-- Base-2 logarithm on FP32 bits (log entry 7). -/
opaque Config.log2 (x : BitVec 32) : BitVec 32
/-- Sine of an angle on FP32 bits (log entry 7). -/
opaque Config.sin (x : BitVec 32) : BitVec 32
/-- Cosine of an angle on FP32 bits (log entry 7). -/
opaque Config.cos (x : BitVec 32) : BitVec 32
/-- Power x to the y on FP32 bits (log entry 7). -/
opaque Config.pow (x y : BitVec 32) : BitVec 32

/-- The ten-round block function of the generators (R150): a 128-bit key and a 64-bit counter give 128 bits. The
manual names its operations and not its constants (log entry 8). -/
opaque Config.generatorBlock (key : BitVec 128) (counter : BitVec 64) : BitVec 128

/-- The hash that chooses the set of a shape key (R167 leaves it open; log entry 20). -/
opaque Config.shapeSet (key : List Nat) : Nat

/-- The staging-SRAM bytes per core that a tiling record moves for a shape: R165 bounds them and gives no count of them for
a record (log entry 21); the arguments are the numbers of the key and of the record. -/
opaque Config.stagingMoved (record : List Nat) : Nat

/-- The layout epoch that an admission sets: the manual says that it sets one and not which (R334, R386; log entry 45); the
argument is the plan's identifier. -/
opaque Config.admissionEpoch (planId : Nat) : BitVec 12

/-- The CRC-64 of bytes 0 to 235 of a FLIT: R303 names the code and not its polynomial (log entry 55). -/
opaque Config.flitCrc (bytes : List Byte) : BitVec 64

/-- The check bytes of the three Reed-Solomon codewords over bytes 0 to 243 of a FLIT (R303; log entry 55). -/
opaque Config.flitFec (bytes : List Byte) : BitVec 96

/-- The payload of a control FLIT that carries these numbers: R303 names what it carries and not where (log entry 55). -/
opaque Config.controlPayload (values : List Nat) : List Byte

/-- SHA-512 (R369, R409, R417, R421): the manual names the digest and not its constants (log entry 30). -/
opaque Config.sha512 (data : List Byte) : BitVec 512

/-- RSASSA-PSS with SHA-512 under a modulus and exponent: message and signature (R408; log entry 30). -/
opaque Config.pssVerify (modulus : List Byte) (exponent : Nat) (message signature : List Byte) : Bool

/-- The hash of the image key in the fuses of the module as provisioned (R409, R414; log entry 30). -/
opaque Config.fuseKeyHash : List Byte

/-- The fuse root key of the module as provisioned (R415; log entry 30). -/
opaque Config.fuseRootKey : List Byte

/-- The identity key in the provisioning data of the module as provisioned, wrapped under a key derived from the fuse root
key (R407, R415; log entry 30). -/
opaque Config.wrappedIdentity : List Byte

/-- The firmware image as provisioning left it in flash (R407): fixed at manufacture (log entry 30). -/
opaque Config.provisionedImage : List Byte

/-- A wrapped identity key made by the key engine under a fuse root key, for the `n`th open value (R415; log entry 4). -/
opaque Config.newIdentity (root : List Byte) (n : Nat) : List Byte

/-- Grenvor's provisioning image is signed as MANUFACTURE needs it (R409, R424): before the fuses hold a key hash the manual
does not say by what (log entry 30). -/
opaque Config.provisionVerify (image : List Byte) : Bool

/-- The certificate chain that a provisioning image gives (R424; log entry 30). -/
opaque Config.provisionChain (image : List Byte) : List Byte

/-- The ordering code that a provisioning image gives, as cores, stacks, I/O dies and the map of active cores (R424; log
entry 30). -/
opaque Config.provisionCode (image : List Byte) : Nat × Nat × Nat × Nat

/-- What the shut-down test writes over the test regions, for the `n`th open value (R427; log entry 4). -/
opaque Config.testPattern (n : Nat) : List Byte

/-- The ordering code that a GRADE_RECORD names, as cores, stacks, I/O dies and the map of active cores: the manual does not
lay the record out (R412; log entry 30). -/
opaque Config.gradeCode (record : List Byte) : Nat × Nat × Nat × Nat

/-- Bytes of one chunk of a large SPDM response: the manual states no transfer size (R416; log entry 30). -/
opaque Config.chunkBytes : Nat

/-- The certificate chain of slot 0, from the identity key to the Grenvor root, as provisioned (R407, R416; log entry 30). -/
opaque Config.certificateChain : List Byte

/-- A signature with the identity key: the fuse root key, the wrapped identity key and the message (R415, R417; log entry
30). -/
opaque Config.identitySign (root wrapped message : List Byte) : List Byte

/-- The ROM of the root of trust, which measurement 1 measures (R417; log entry 30). -/
opaque Config.rom : List Byte

/-- The part of an image that measurements 3 and 4 measure: the components' places in the body are not stated (R417; log
entry 30). -/
opaque Config.imageComponent (index : Nat) (image : List Byte) : List Byte

/-- The encoding of the provisioning data, the life-cycle state, or the map and ranges that measurements 5 to 7 measure
(R417 does not state it; log entry 30). -/
opaque Config.measuredBytes (index : Nat) (values : List Nat) : List Byte

/-- A GRADE_RECORD that Grenvor signed with the image key: its signature holds (R412; log entry 30). -/
opaque Config.gradeVerify (keyHash record : List Byte) : Bool

/-- The calibration that the `n`th open value stands for: what a passed shut-down test measured (R425, R427; log entry 4). -/
opaque Config.calibration (n : Nat) : List Byte

/-- The key hash of a session is one of Grenvor's (R418, R428; log entry 59). -/
opaque Config.isGrenvor (keyHash : List Byte) : Bool

end Sys2Proof
end

