-- ==== Sys2Proof/Machine/Map.lean ====
section
/-! DEFINITION. Sparse maps as sorted association lists, and sparse memory in canonical form: addresses strictly
rising and no entry equal to what an unlisted key reads as, so that equal contents are equal data. -/

namespace Sys2Proof.Machine

/-- The value listed for key `k`, if any. -/
def lookup {α : Type} : List (Nat × α) → Nat → Option α
  | [], _ => none
  | (k', v) :: rest, k => if k = k' then some v else lookup rest k

/-- `l` with key `k` listed as `v`, keys kept rising. -/
def insertKey {α : Type} : List (Nat × α) → Nat → α → List (Nat × α)
  | [], k, v => [(k, v)]
  | (k', v') :: rest, k, v =>
    if k < k' then (k, v) :: (k', v') :: rest
    else if k = k' then (k, v) :: rest
    else (k', v') :: insertKey rest k v

/-- `l` without key `k`. -/
def eraseKey {α : Type} (l : List (Nat × α)) (k : Nat) : List (Nat × α) := l.filter (fun e => e.1 != k)

/-- The keys of `l` are strictly rising and all above `lo` (as lower bound, exclusive through `lo < k`). -/
def keysRise {α : Type} : List (Nat × α) → Nat → Bool
  | [], _ => true
  | (k, _) :: rest, lo => decide (lo ≤ k) && keysRise rest (k + 1)

/-- The map with a default: what key `k` reads as. -/
def readOr {α : Type} (d : α) (l : List (Nat × α)) (k : Nat) : α := (lookup l k).getD d

/-- The map with a default: write `v` at `k`; writing the default removes the entry. -/
def writeOr {α : Type} [DecidableEq α] (d : α) (l : List (Nat × α)) (k : Nat) (v : α) : List (Nat × α) :=
  if v = d then eraseKey l k else insertKey l k v

/-- Sparse memory: (address, byte) pairs. -/
abbrev Memory := List (Nat × Byte)

/-- What an unlisted address of memory reads as. -/
def Memory.default : Byte := 0

/-- The byte at address `a`. -/
def Memory.read (m : Memory) (a : Nat) : Byte := readOr Memory.default m a

/-- Write one byte. -/
def Memory.write (m : Memory) (a : Nat) (b : Byte) : Memory := writeOr Memory.default m a b

/-- The canonical form: addresses strictly rising, no entry equal to the default. -/
def Memory.wf (m : Memory) : Bool := keysRise m 0 && m.all (fun c => c.2 != Memory.default)

/-- Read `n` bytes from address `a`. -/
def Memory.readN (m : Memory) (a : Nat) : Nat → List Byte
  | 0 => []
  | n + 1 => m.read a :: Memory.readN m (a + 1) n

/-- Write the bytes `bs` from address `a` up. -/
def Memory.writeN (m : Memory) (a : Nat) : List Byte → Memory
  | [] => m
  | b :: bs => Memory.writeN (m.write a b) (a + 1) bs

/-- Erase every listed entry in the half-open range, so that it reads as the default. -/
def Memory.wipe (m : Memory) (lo hi : Nat) : Memory := m.filter (fun c => decide (c.1 < lo ∨ hi ≤ c.1))

end Sys2Proof.Machine
end

