-- ==== Sys2Proof/Machine/Bytes.lean ====
section
/-! DEFINITION. Byte strings: little-endian fields (R5), slices, and the CRC-32C of the manual. -/

namespace Sys2Proof.Machine

/-- The number a little-endian byte string spells (R5). -/
def leNat : List Byte → Nat
  | [] => 0
  | b :: bs => b.toNat + 256 * leNat bs

/-- `k` little-endian bytes of `n` (R5); higher bits of `n` are dropped. -/
def leBytes (n : Nat) : Nat → List Byte
  | 0 => []
  | k + 1 => BitVec.ofNat 8 n :: leBytes (n / 256) k

/-- The 64 bytes of a SHA-512 digest (R369, R409, R417, R421). -/
def sha512 (data : List Byte) : List Byte := leBytes (Config.sha512 data).toNat 64

/-- `n` bytes of `bs` from offset `off`; a byte beyond the end reads as zero. -/
def slice (bs : List Byte) (off n : Nat) : List Byte :=
  (List.range n).map (fun i => (bs[off + i]?).getD 0)

/-- The little-endian field of `n` bytes at offset `off`. -/
def fieldAt (bs : List Byte) (off n : Nat) : Nat := leNat (slice bs off n)

/-- The low `w` bits of `n` read as a two's-complement number. -/
def signed (w n : Nat) : Int :=
  let m := n % 2 ^ w
  if m < 2 ^ (w - 1) then (m : Int) else (m : Int) - 2 ^ w

/-- The two's complement of `i` in `w` bits. -/
def unsigned (w : Nat) (i : Int) : Nat := (i % (2 ^ w : Int)).toNat

/-- `n / d` rounded up. -/
def ceilDiv (n d : Nat) : Nat := if d = 0 then 0 else (n + d - 1) / d

/-- Bit `i` of `n`. -/
def bitAt (n i : Nat) : Nat := (n >>> i) % 2

/-- Bits `lo .. lo + w - 1` of `n`. -/
def bitsAt (n lo w : Nat) : Nat := (n >>> lo) % 2 ^ w

/-- One bit of the reflected CRC-32C shift register. -/
def crcStep (c : Nat) : Nat := if c % 2 = 1 then (c / 2) ^^^ 0x82F63B78 else c / 2

/-- One byte into the CRC-32C register. -/
def crcByte (c : Nat) (b : Byte) : Nat := (List.range 8).foldl (fun c _ => crcStep c) (c ^^^ b.toNat)

/-- CRC-32C (Castagnoli, reflected, preset and final complement): the check of plan images, slots and records. -/
def crc32c (bs : List Byte) : Nat := (bs.foldl crcByte 0xFFFFFFFF) ^^^ 0xFFFFFFFF

/-- `bs` with the bytes `new` put in place from offset `off`, no byte added. -/
def patch (bs : List Byte) (off : Nat) (new : List Byte) : List Byte :=
  (bs.take off) ++ (new.take (bs.length - off)) ++ bs.drop (off + new.length)

/-- All-zero test of the bytes `off .. off + n - 1`. -/
def zeroAt (bs : List Byte) (off n : Nat) : Bool := (slice bs off n).all (fun b => b == 0)

/-- Insert into a list that rises in `rank`, after the elements of the same rank. -/
def insertBy {α : Type} (rank : α → Nat) (a : α) : List α → List α
  | [] => [a]
  | b :: l => if rank a < rank b then a :: b :: l else b :: insertBy rank a l

/-- The list in rising order of `rank`, equal ranks in their old order. -/
def sortBy {α : Type} (rank : α → Nat) (l : List α) : List α := l.foldl (fun acc a => insertBy rank a acc) []

/-- Half-open ranges `[a, a+n)` and `[b, b+m)` overlap. -/
def overlaps (a n b m : Nat) : Bool := decide (0 < n ∧ 0 < m ∧ a < b + m ∧ b < a + n)

/-- Half-open range `[a, a+n)` lies within `[b, b+m)`. -/
def within (a n b m : Nat) : Bool := decide (b ≤ a ∧ a + n ≤ b + m)

end Sys2Proof.Machine
end

