-- ==== Sys2Proof/Machine/Cipher.lean ====
section
/-! DEFINITION. The ciphers that the manual names for fabric packets (AES-256-GCM, R420) and for protected ranges
(AES-256-XTS, R419). PRESUMED (log entry 30): the manual names them and gives no tables, so they are those of FIPS 197, NIST
SP 800-38D and IEEE 1619. Bytes stand as numbers below 256, a block as sixteen of them. -/

namespace Sys2Proof.Machine

/-! ### The block cipher -/

/-- The substitution box, 32 bytes in each number, the first in its low bits. -/
def sboxRows : List Nat :=
  [0xC072A49CAFA2D4ADF04759FA7DC982CA76ABD7FE2B670130C56F6BF27B777C63,
    0x75B227EBE28012079A059618C323C7041531D871F1E5A534CCF73F362693FDB7,
    0xCF584C4A39BECB6A5BB1FC20ED00D153842FE329B3D63B52A05A6E1B1A2C8309,
    0xD2F3FF1021DAB6BCF5389D928F40A351A89F3C507F02F94585334D43FBAAEFD0,
    0xDB0B5EDE14B8EE4688902A22DC4F816073195D643D7EA7C41744975FEC130CCD,
    0x08AE7A65EAF4566CA94ED58D6D37C8E779E4959162ACD3C25C2406490A3A32E0,
    0x9E1DC186B95735610EF6034866B53E708A8BBD4B1F74DDE8C6B4A61C2E2578BA,
    0x16BB54B00F2D99416842E6BF0D89A18CDF2855CEE9871E9B948ED9691198F8E1]

/-- A byte through the substitution box. -/
def sbox (b : Nat) : Nat := ((sboxRows[b / 32]?).getD 0 >>> (8 * (b % 32))) % 256

/-- A byte back through the substitution box. -/
def sboxBack (b : Nat) : Nat := ((List.range 256).find? (fun x => sbox x == b)).getD 0

/-- Byte by byte exclusive or. -/
def xorBytes (a b : List Nat) : List Nat := List.zipWith (· ^^^ ·) a b

/-- Twice a byte in the cipher's field. -/
def fieldDouble (a : Nat) : Nat := if a < 128 then 2 * a else (2 * a) ^^^ 0x11B

/-- The product of a byte and a constant below 16 in the cipher's field. -/
def fieldTimes (k a : Nat) : Nat :=
  let a2 := fieldDouble a
  let a4 := fieldDouble a2
  let a8 := fieldDouble a4
  (if bitAt k 0 = 1 then a else 0) ^^^ (if bitAt k 1 = 1 then a2 else 0) ^^^ (if bitAt k 2 = 1 then a4 else 0) ^^^
    (if bitAt k 3 = 1 then a8 else 0)

/-- A 256-bit key as its eight words of four bytes, the last first. -/
def keyWords (key : List Byte) : List (List Nat) :=
  ((List.range 8).map (fun i => (slice key (4 * i) 4).map (·.toNat))).reverse

/-- One more word of the key schedule: `l` holds the words so far, the last first, and `i` is the number of the next. -/
def nextKeyWord (l : List (List Nat)) (i : Nat) : List (List Nat) :=
  let last := (l[0]?).getD []
  let t :=
    if i % 8 = 0 then xorBytes ((last.drop 1 ++ last.take 1).map sbox) [2 ^ (i / 8 - 1), 0, 0, 0]
    else if i % 8 = 4 then last.map sbox
    else last
  xorBytes ((l[7]?).getD []) t :: l

/-- The fifteen round keys. -/
def roundKeys (key : List Byte) : List (List Nat) :=
  let w := (((List.range 52).map (· + 8)).foldl nextKeyWord (keyWords key)).reverse
  (List.range 15).map (fun r => ((w.drop (4 * r)).take 4).flatten)

/-- The rows of a block shifted: byte `i` comes from byte `k × i mod 16`, with `k` 5 forward and 13 back. -/
def shiftRows (k : Nat) (b : List Nat) : List Nat := (List.range 16).map (fun i => (b[k * i % 16]?).getD 0)

/-- The columns of a block mixed with the four constants of a row. -/
def mixColumns (row : List Nat) (b : List Nat) : List Nat :=
  (List.range 16).map (fun i =>
    (row.zipIdx.map (fun x => fieldTimes x.1 ((b[4 * (i / 4) + (i + x.2) % 4]?).getD 0))).foldl (· ^^^ ·) 0)

/-- One block enciphered under round keys. -/
def encipherBlock (ks : List (List Nat)) (b : List Nat) : List Nat :=
  let b := (((ks.drop 1).take 13)).foldl (fun b k => xorBytes (mixColumns [2, 3, 1, 1] (shiftRows 5 (b.map sbox))) k)
    (xorBytes b ((ks[0]?).getD []))
  xorBytes (shiftRows 5 (b.map sbox)) ((ks[14]?).getD [])

/-- One block deciphered under round keys. -/
def decipherBlock (ks : List (List Nat)) (b : List Nat) : List Nat :=
  let b := (shiftRows 13 (xorBytes b ((ks[14]?).getD []))).map sboxBack
  let b := ((ks.drop 1).take 13).reverse.foldl (fun b k =>
    (shiftRows 13 (mixColumns [14, 11, 13, 9] (xorBytes b k))).map sboxBack) b
  xorBytes b ((ks[0]?).getD [])

/-- A block as a number, its first byte lowest. -/
def blockNat (b : List Nat) : Nat := b.foldr (fun x n => x + 256 * n) 0

/-- The low `k` bytes of a number, the lowest first. -/
def natBytes (n k : Nat) : List Nat := (List.range k).map (fun i => (n >>> (8 * i)) % 256)

/-! ### XTS (R419) -/

/-- The tweak of the next block of a unit. -/
def nextTweak (t : Nat) : Nat := if t < 2 ^ 127 then 2 * t else (2 * t - 2 ^ 128) ^^^ 0x87

/-- One 64-byte unit enciphered, or deciphered, under the two halves of a memory key, with `tweak` as the tweak (R419). -/
def xtsUnit (seals : Bool) (key : List Byte) (tweak : Nat) (unit : List Byte) : List Byte :=
  let ks := roundKeys (slice key 0 32)
  let t0 := blockNat (encipherBlock (roundKeys (slice key 32 32)) (natBytes tweak 16))
  ((List.range 4).foldl (fun (acc : List Byte × Nat) j =>
    let t := natBytes acc.2 16
    let x := xorBytes ((slice unit (16 * j) 16).map (·.toNat)) t
    let y := xorBytes (if seals then encipherBlock ks x else decipherBlock ks x) t
    (acc.1 ++ y.map (BitVec.ofNat 8), nextTweak acc.2)) ([], t0)).1

/-! ### GCM (R420) -/

/-- A block as a number, its first byte highest. -/
def blockBig (b : List Nat) : Nat := b.foldl (fun n x => 256 * n + x) 0

/-- The low `k` bytes of a number, the highest first. -/
def bigBytes (n k : Nat) : List Nat := (natBytes n k).reverse

/-- The product in the field of the tag, its elements as 128-bit numbers with the first bit highest. -/
def tagTimes (x y : Nat) : Nat :=
  ((List.range 128).foldl (fun (acc : Nat × Nat) i =>
    (if bitAt x (127 - i) = 1 then acc.1 ^^^ acc.2 else acc.1,
      if acc.2 % 2 = 1 then (acc.2 / 2) ^^^ (0xE1 * 2 ^ 120) else acc.2 / 2)) (0, y)).1

/-- A byte string in 16-byte blocks, the last filled with zeros. -/
def blocksOf (bs : List Byte) : List Nat :=
  (List.range ((bs.length + 15) / 16)).map (fun i => blockBig ((slice bs (16 * i) 16).map (·.toNat)))

/-- Data under the key stream of a 96-bit IV: enciphering and deciphering are the same. -/
def gcmData (key : List Byte) (iv : Nat) (data : List Byte) : List Byte :=
  let ks := roundKeys key
  (List.range data.length).zipWith (fun i b =>
    b ^^^ BitVec.ofNat 8 (((encipherBlock ks (bigBytes (iv * 2 ^ 32 + 2 + i / 16) 16))[i % 16]?).getD 0)) data

/-- The 16-byte tag over a header and enciphered data. -/
def gcmTag (key : List Byte) (iv : Nat) (header data : List Byte) : List Byte :=
  let ks := roundKeys key
  let h := blockBig (encipherBlock ks (List.replicate 16 0))
  let g := (blocksOf header ++ blocksOf data ++ [8 * header.length * 2 ^ 64 + 8 * data.length]).foldl
    (fun y x => tagTimes (y ^^^ x) h) 0
  (bigBytes (g ^^^ blockBig (encipherBlock ks (bigBytes (iv * 2 ^ 32 + 1) 16))) 16).map (BitVec.ofNat 8)

end Sys2Proof.Machine
end

