-- ==== Sys2Proof/Machine/RegMap.lean ====
section
/-! DEFINITION. The BAR0 register map: every field of every register table of the manual, with its offset, bits,
access code, reset value and range (R8, R10, R432), its 64-bit pairs (R7), its statistic counters (R441) and the
clear register of each, and one named field per register field that the rules read or write. -/

namespace Sys2Proof.Machine

/-- The access codes of R8. -/
inductive Acc
  | rw | ro | w1c | wo | rwa
  deriving DecidableEq, Repr

/-- The Range column (R10): `free` any value of the field, `clamp lo hi step` clamped to the nearest legal value,
`clampS m hi` clamped to the signed range -m..hi (step 1), `refuse lo hi` refused outside, `check` a rule of its own. -/
inductive Rng
  | free
  | clamp (lo hi step : Nat)
  | clampS (negLo hi : Nat)
  | refuse (lo hi : Nat)
  | check
  deriving DecidableEq, Repr

/-- One field of a register table: offset in its block's instance, lowest bit, width, access, reset value, range. -/
structure FieldSpec where
  off : Nat
  lo : Nat
  width : Nat
  acc : Acc
  reset : Nat
  rng : Rng
  deriving DecidableEq, Repr

/-- One register block of R432: `count` instances at `base + stride * i`, each `extent` bytes, with its fields, the
low offsets of its 64-bit pairs (R7), of its counters (R441), and each clear register with the counters its bits
clear in table order. -/
structure BlockSpec where
  base : Nat
  stride : Nat
  count : Nat
  extent : Nat
  fields : List FieldSpec
  pairs : List Nat
  counters : List Nat
  clears : List (Nat × List Nat)
  deriving DecidableEq, Repr

/-- A named field: the BAR0 address of its register, its lowest bit and its width. -/
structure Fld where
  addr : Nat
  lo : Nat
  width : Nat
  deriving DecidableEq, Repr

/-- Fields of block sys. -/
def RegMap.sysFields : List FieldSpec :=
  [⟨0x100, 0, 7, .ro, 0, .free⟩,
   ⟨0x100, 8, 4, .ro, 0, .free⟩,
   ⟨0x100, 12, 3, .ro, 0, .free⟩,
   ⟨0x104, 0, 5, .ro, 0, .free⟩,
   ⟨0x104, 5, 5, .ro, 0, .free⟩,
   ⟨0x104, 10, 5, .ro, 0, .free⟩,
   ⟨0x104, 15, 5, .ro, 0, .free⟩,
   ⟨0x104, 20, 2, .ro, 0, .free⟩,
   ⟨0x104, 22, 2, .ro, 0, .free⟩,
   ⟨0x104, 24, 2, .ro, 0, .free⟩,
   ⟨0x104, 26, 2, .ro, 0, .free⟩,
   ⟨0x108, 0, 32, .ro, 0, .free⟩,
   ⟨0x10c, 0, 32, .ro, 0, .free⟩,
   ⟨0x110, 0, 32, .ro, 0, .free⟩,
   ⟨0x114, 0, 32, .ro, 0, .free⟩,
   ⟨0x118, 0, 16, .ro, 1024, .free⟩,
   ⟨0x118, 16, 5, .ro, 0, .free⟩,
   ⟨0x118, 21, 7, .ro, 64, .free⟩,
   ⟨0x11c, 0, 1, .ro, 0, .free⟩,
   ⟨0x11c, 1, 1, .ro, 0, .free⟩,
   ⟨0x11c, 2, 6, .ro, 0, .free⟩]

/-- Block sys (R432). -/
def RegMap.sysBlock : BlockSpec :=
  ⟨0x0, 0x0, 1, 0x100000, RegMap.sysFields,
   [0x108, 0x110], [], []⟩

/-- Fields of block tick. -/
def RegMap.tickFields : List FieldSpec :=
  [⟨0x0, 0, 32, .ro, 0, .free⟩,
   ⟨0x4, 0, 32, .ro, 0, .free⟩,
   ⟨0x8, 0, 32, .rwa, 0, .free⟩,
   ⟨0xc, 0, 32, .rwa, 0, .free⟩,
   ⟨0x10, 0, 15, .rwa, 500, .refuse 20 20000⟩,
   ⟨0x14, 0, 5, .rwa, 10, .clamp 5 30 1⟩,
   ⟨0x18, 0, 6, .rwa, 30, .clamp 24 36 1⟩,
   ⟨0x1c, 0, 16, .ro, 0, .free⟩,
   ⟨0x1c, 16, 13, .ro, 0, .free⟩,
   ⟨0x20, 0, 16, .rwa, 10000, .refuse 1000 65535⟩,
   ⟨0x24, 0, 13, .rw, 64, .refuse 1 4096⟩,
   ⟨0x2c, 0, 3, .ro, 0, .free⟩,
   ⟨0x2c, 3, 1, .ro, 0, .free⟩,
   ⟨0x2c, 4, 1, .ro, 0, .free⟩,
   ⟨0x2c, 5, 1, .w1c, 0, .free⟩,
   ⟨0x30, 0, 32, .ro, 0, .free⟩,
   ⟨0x34, 0, 32, .ro, 0, .free⟩,
   ⟨0x38, 0, 32, .ro, 0, .free⟩,
   ⟨0x3c, 0, 32, .ro, 0, .free⟩,
   ⟨0x40, 0, 17, .ro, 0, .free⟩,
   ⟨0x40, 31, 1, .ro, 0, .free⟩,
   ⟨0x44, 0, 32, .rw, 0, .check⟩,
   ⟨0x48, 0, 32, .rw, 0, .check⟩,
   ⟨0x4c, 0, 1, .wo, 0, .free⟩,
   ⟨0x50, 0, 32, .ro, 0, .free⟩,
   ⟨0x90, 0, 6, .wo, 0, .free⟩]

/-- Block tick (R432). -/
def RegMap.tickBlock : BlockSpec :=
  ⟨0x100000, 0x1000, 4, 0x1000, RegMap.tickFields,
   [0x0, 0x8, 0x30, 0x38, 0x44], [0x60, 0x68, 0x70, 0x78, 0x80, 0x88], [(0x90, [0x60, 0x68, 0x70, 0x78, 0x80, 0x88])]⟩

/-- Fields of block ring. -/
def RegMap.ringFields : List FieldSpec :=
  [⟨0x0, 0, 32, .rw, 0, .check⟩,
   ⟨0x4, 0, 32, .rw, 0, .check⟩,
   ⟨0x8, 0, 5, .rw, 6, .refuse 6 16⟩,
   ⟨0xc, 0, 32, .rw, 0, .check⟩,
   ⟨0x10, 0, 32, .rw, 0, .check⟩,
   ⟨0x14, 0, 5, .rw, 6, .refuse 6 16⟩,
   ⟨0x18, 0, 1, .rw, 0, .check⟩,
   ⟨0x18, 1, 1, .wo, 0, .free⟩,
   ⟨0x18, 2, 2, .rw, 0, .check⟩,
   ⟨0x18, 4, 1, .rw, 0, .free⟩,
   ⟨0x18, 5, 7, .rw, 0, .refuse 0 127⟩,
   ⟨0x1c, 0, 9, .rw, 1, .clamp 1 256 1⟩,
   ⟨0x1c, 16, 10, .rw, 0, .clamp 0 1000 1⟩,
   ⟨0x20, 0, 32, .ro, 0, .free⟩,
   ⟨0x24, 0, 32, .ro, 0, .free⟩,
   ⟨0x28, 0, 32, .ro, 0, .free⟩,
   ⟨0x2c, 0, 32, .ro, 0, .free⟩,
   ⟨0x30, 0, 2, .ro, 0, .free⟩,
   ⟨0x30, 2, 1, .w1c, 0, .free⟩,
   ⟨0x30, 3, 1, .w1c, 0, .free⟩,
   ⟨0x30, 4, 1, .ro, 0, .free⟩,
   ⟨0x60, 0, 3, .wo, 0, .free⟩]

/-- Block ring (R432). -/
def RegMap.ringBlock : BlockSpec :=
  ⟨0x200000, 0x100, 64, 0x100, RegMap.ringFields,
   [0x0, 0xc], [0x40, 0x48, 0x50], [(0x60, [0x40, 0x48, 0x50])]⟩

/-- Fields of block poolCnt. -/
def RegMap.poolCntFields : List FieldSpec :=
  [⟨0x20, 0, 4, .wo, 0, .free⟩]

/-- Block poolCnt of partition `p` (R97). -/
def RegMap.poolCntBlock (p : Nat) : BlockSpec :=
  ⟨0x300400 + 0x1000 * p, 0x40, 16, 0x24, RegMap.poolCntFields,
   [], [0x0, 0x8, 0x10, 0x18], [(0x20, [0x0, 0x8, 0x10, 0x18])]⟩

/-- Fields of block pool. -/
def RegMap.poolFields : List FieldSpec :=
  [⟨0x0, 0, 15, .rwa, 0, .refuse 0 32767⟩,
   ⟨0x4, 0, 17, .rwa, 1, .refuse 1 65536⟩,
   ⟨0x8, 0, 5, .rwa, 12, .refuse 12 30⟩,
   ⟨0x8, 8, 2, .rwa, 0, .check⟩,
   ⟨0x8, 10, 1, .rwa, 0, .check⟩,
   ⟨0xc, 0, 16, .rw, 1000, .clamp 1 60000 1⟩,
   ⟨0x10, 0, 17, .ro, 0, .free⟩]

/-- Block pool of partition `p` (R97). -/
def RegMap.poolBlock (p : Nat) : BlockSpec :=
  ⟨0x300100 + 0x1000 * p, 0x20, 16, 0x14, RegMap.poolFields,
   [], [], []⟩

/-- Fields of block win. -/
def RegMap.winFields : List FieldSpec :=
  [⟨0x0, 0, 32, .rwa, 0, .check⟩,
   ⟨0x4, 0, 32, .rwa, 0, .check⟩,
   ⟨0x8, 0, 16, .rwa, 0, .refuse 0 32768⟩,
   ⟨0xc, 0, 1, .ro, 0, .free⟩,
   ⟨0xc, 1, 1, .w1c, 0, .free⟩,
   ⟨0xc, 2, 1, .rw, 0, .free⟩,
   ⟨0xc, 3, 7, .rw, 0, .refuse 0 127⟩,
   ⟨0x10, 0, 32, .rwa, 0, .check⟩,
   ⟨0x14, 0, 5, .rwa, 7, .refuse 7 16⟩,
   ⟨0x18, 0, 32, .ro, 0, .free⟩,
   ⟨0x1c, 0, 32, .rw, 0, .check⟩,
   ⟨0x810, 0, 2, .wo, 0, .free⟩]

/-- Block win (R432). -/
def RegMap.winBlock : BlockSpec :=
  ⟨0x300000, 0x1000, 4, 0x1000, RegMap.winFields,
   [0x0], [0x800, 0x808], [(0x810, [0x800, 0x808])]⟩

/-- Fields of block num. -/
def RegMap.numFields : List FieldSpec :=
  [⟨0x0, 0, 21, .rwa, 65536, .clamp 4096 1048576 4096⟩,
   ⟨0x4, 0, 16, .rw, 64, .clamp 1 65535 1⟩,
   ⟨0x8, 0, 7, .rwa, 16, .refuse 1 64⟩,
   ⟨0x8, 7, 3, .rwa, 1, .clamp 0 4 1⟩,
   ⟨0x8, 10, 8, .rwa, 0, .clampS 64 64⟩,
   ⟨0xc, 0, 1, .w1c, 0, .free⟩,
   ⟨0xc, 1, 1, .w1c, 0, .free⟩,
   ⟨0x10, 0, 32, .rwa, 0, .free⟩,
   ⟨0x14, 0, 32, .rwa, 0, .free⟩,
   ⟨0x18, 0, 16, .ro, 0, .free⟩,
   ⟨0x18, 16, 2, .ro, 0, .free⟩,
   ⟨0x1c, 0, 16, .rw, 0, .refuse 0 65535⟩,
   ⟨0x20, 0, 2, .ro, 0, .free⟩,
   ⟨0x20, 2, 16, .ro, 0, .free⟩,
   ⟨0x20, 18, 1, .ro, 0, .free⟩,
   ⟨0x20, 19, 1, .ro, 0, .free⟩,
   ⟨0x24, 0, 8, .ro, 0, .free⟩,
   ⟨0x24, 8, 8, .ro, 0, .free⟩,
   ⟨0x24, 16, 8, .ro, 0, .free⟩,
   ⟨0x28, 0, 32, .ro, 0, .free⟩,
   ⟨0x2c, 0, 16, .ro, 0, .free⟩,
   ⟨0x70, 0, 6, .wo, 0, .free⟩,
   ⟨0x70, 6, 1, .wo, 0, .free⟩]

/-- Block num (R432). -/
def RegMap.numBlock : BlockSpec :=
  ⟨0x500000, 0x0, 1, 0x100000, RegMap.numFields,
   [0x10, 0x28], [0x40, 0x48, 0x50, 0x58, 0x60, 0x68], [(0x70, [0x40, 0x48, 0x50, 0x58, 0x60, 0x68])]⟩

/-- Fields of block mem. -/
def RegMap.memFields0 : List FieldSpec :=
  [⟨0x0, 0, 16, .rwa, 0, .check⟩,
   ⟨0x4, 0, 16, .ro, 0, .free⟩,
   ⟨0x8, 0, 5, .ro, 0, .free⟩,
   ⟨0x8, 5, 1, .ro, 0, .free⟩,
   ⟨0x8, 6, 1, .ro, 0, .free⟩,
   ⟨0x10, 0, 16, .rwa, 0, .check⟩,
   ⟨0x14, 0, 16, .rwa, 0, .check⟩,
   ⟨0x18, 0, 16, .rwa, 0, .check⟩,
   ⟨0x1c, 0, 16, .rwa, 0, .check⟩,
   ⟨0x20, 0, 16, .rwa, 0, .check⟩,
   ⟨0x24, 0, 16, .rwa, 0, .check⟩,
   ⟨0x28, 0, 16, .rwa, 0, .check⟩,
   ⟨0x2c, 0, 16, .rwa, 0, .check⟩,
   ⟨0x100, 0, 32, .ro, 0, .free⟩,
   ⟨0x104, 0, 32, .ro, 0, .free⟩,
   ⟨0x108, 0, 32, .ro, 0, .free⟩,
   ⟨0x10c, 0, 32, .ro, 0, .free⟩,
   ⟨0x110, 0, 16, .ro, 0, .free⟩,
   ⟨0x120, 0, 32, .ro, 0, .free⟩,
   ⟨0x124, 0, 32, .ro, 0, .free⟩,
   ⟨0x128, 0, 32, .ro, 0, .free⟩,
   ⟨0x12c, 0, 32, .ro, 0, .free⟩,
   ⟨0x130, 0, 16, .ro, 0, .free⟩,
   ⟨0x140, 0, 32, .ro, 0, .free⟩,
   ⟨0x144, 0, 32, .ro, 0, .free⟩,
   ⟨0x148, 0, 32, .ro, 0, .free⟩,
   ⟨0x14c, 0, 32, .ro, 0, .free⟩,
   ⟨0x150, 0, 16, .ro, 0, .free⟩,
   ⟨0x160, 0, 32, .ro, 0, .free⟩,
   ⟨0x164, 0, 32, .ro, 0, .free⟩,
   ⟨0x168, 0, 32, .ro, 0, .free⟩,
   ⟨0x16c, 0, 32, .ro, 0, .free⟩,
   ⟨0x170, 0, 16, .ro, 0, .free⟩,
   ⟨0x210, 0, 2, .wo, 0, .free⟩,
   ⟨0x4000, 0, 5, .rwa, 20, .refuse 16 24⟩,
   ⟨0x4010, 0, 32, .rwa, 0, .check⟩,
   ⟨0x4014, 0, 32, .rwa, 0, .check⟩,
   ⟨0x4018, 0, 25, .rwa, 0, .check⟩,
   ⟨0x4020, 0, 32, .rwa, 0, .check⟩,
   ⟨0x4024, 0, 32, .rwa, 0, .check⟩]

/-- Fields of block mem, continued. -/
def RegMap.memFields1 : List FieldSpec :=
  [⟨0x4028, 0, 25, .rwa, 0, .check⟩,
   ⟨0x4030, 0, 32, .rwa, 0, .check⟩,
   ⟨0x4034, 0, 32, .rwa, 0, .check⟩,
   ⟨0x4038, 0, 25, .rwa, 0, .check⟩,
   ⟨0x4040, 0, 32, .rwa, 0, .check⟩,
   ⟨0x4044, 0, 32, .rwa, 0, .check⟩,
   ⟨0x4048, 0, 25, .rwa, 0, .check⟩,
   ⟨0x4080, 0, 25, .ro, 0, .free⟩,
   ⟨0x4084, 0, 25, .ro, 0, .free⟩,
   ⟨0x4088, 0, 25, .ro, 0, .free⟩,
   ⟨0x408c, 0, 25, .ro, 0, .free⟩,
   ⟨0x4090, 0, 25, .ro, 0, .free⟩,
   ⟨0x4094, 0, 25, .ro, 0, .free⟩,
   ⟨0x4098, 0, 25, .ro, 0, .free⟩,
   ⟨0x409c, 0, 25, .ro, 0, .free⟩,
   ⟨0x40a0, 0, 12, .rw, 0, .clamp 0 4095 1⟩,
   ⟨0x40a4, 0, 2, .ro, 0, .free⟩,
   ⟨0x40a4, 2, 2, .ro, 0, .free⟩,
   ⟨0x40a4, 4, 2, .ro, 0, .free⟩,
   ⟨0x40a4, 6, 16, .ro, 0, .free⟩,
   ⟨0x40a8, 0, 32, .ro, 0, .free⟩,
   ⟨0x40ac, 0, 32, .ro, 0, .free⟩,
   ⟨0x40b0, 0, 32, .ro, 0, .free⟩,
   ⟨0x40b4, 0, 32, .ro, 0, .free⟩,
   ⟨0x40e0, 0, 4, .wo, 0, .free⟩]

/-- All fields of block mem. -/
def RegMap.memFields : List FieldSpec :=
  RegMap.memFields0 ++ RegMap.memFields1

/-- Block mem (R432). -/
def RegMap.memBlock : BlockSpec :=
  ⟨0x600000, 0x0, 1, 0x100000, RegMap.memFields,
   [0x100, 0x108, 0x120, 0x128, 0x140, 0x148, 0x160, 0x168, 0x4010, 0x4020, 0x4030, 0x4040], [0x200, 0x208, 0x40c0, 0x40c8, 0x40d0, 0x40d8], [(0x40e0, [0x40c0, 0x40c8, 0x40d0, 0x40d8]), (0x210, [0x200, 0x208])]⟩

/-- Fields of block codec. -/
def RegMap.codecFields : List FieldSpec :=
  [⟨0x0, 0, 4, .ro, 0, .free⟩,
   ⟨0x0, 4, 1, .ro, 0, .free⟩,
   ⟨0x0, 5, 4, .ro, 0, .free⟩,
   ⟨0x0, 9, 1, .ro, 0, .free⟩,
   ⟨0x4, 0, 2, .ro, 0, .free⟩,
   ⟨0x4, 2, 2, .ro, 0, .free⟩,
   ⟨0x4, 4, 2, .ro, 0, .free⟩,
   ⟨0x4, 6, 2, .ro, 0, .free⟩,
   ⟨0x4, 8, 2, .ro, 0, .free⟩,
   ⟨0x4, 10, 2, .ro, 0, .free⟩,
   ⟨0x4, 12, 2, .ro, 0, .free⟩,
   ⟨0x4, 14, 2, .ro, 0, .free⟩,
   ⟨0x4, 16, 2, .ro, 0, .free⟩,
   ⟨0x4, 18, 2, .ro, 0, .free⟩,
   ⟨0x4, 20, 2, .ro, 0, .free⟩,
   ⟨0x4, 22, 2, .ro, 0, .free⟩,
   ⟨0x4, 24, 2, .ro, 0, .free⟩,
   ⟨0x4, 26, 2, .ro, 0, .free⟩,
   ⟨0x4, 28, 2, .ro, 0, .free⟩,
   ⟨0x4, 30, 2, .ro, 0, .free⟩,
   ⟨0x8, 0, 4, .rw, 0, .clamp 0 15 1⟩,
   ⟨0xc, 0, 32, .ro, 0, .free⟩,
   ⟨0x10, 0, 32, .ro, 0, .free⟩,
   ⟨0x14, 0, 32, .ro, 0, .free⟩,
   ⟨0x18, 0, 2, .ro, 0, .free⟩,
   ⟨0x18, 2, 2, .ro, 0, .free⟩,
   ⟨0x18, 4, 1, .w1c, 0, .free⟩,
   ⟨0x70, 0, 6, .wo, 0, .free⟩]

/-- Block codec (R432). -/
def RegMap.codecBlock : BlockSpec :=
  ⟨0x700000, 0x1000, 4, 0x1000, RegMap.codecFields,
   [0x10], [0x40, 0x48, 0x50, 0x58, 0x60, 0x68], [(0x70, [0x40, 0x48, 0x50, 0x58, 0x60, 0x68])]⟩

/-- Fields of block dev. -/
def RegMap.devFields : List FieldSpec :=
  [⟨0x0, 0, 16, .rw, 0, .refuse 0 65535⟩,
   ⟨0x4, 0, 3, .ro, 0, .free⟩,
   ⟨0x4, 3, 1, .ro, 0, .free⟩,
   ⟨0x4, 4, 1, .ro, 0, .free⟩,
   ⟨0x4, 5, 1, .ro, 0, .free⟩,
   ⟨0x4, 6, 2, .ro, 0, .free⟩,
   ⟨0x4, 8, 3, .ro, 0, .free⟩,
   ⟨0x4, 11, 1, .ro, 0, .free⟩,
   ⟨0x8, 0, 32, .ro, 0, .free⟩,
   ⟨0xc, 0, 32, .ro, 0, .free⟩,
   ⟨0x10, 0, 32, .ro, 0, .free⟩,
   ⟨0x14, 0, 1, .rw, 0, .refuse 0 1⟩,
   ⟨0x18, 0, 1, .w1c, 0, .free⟩,
   ⟨0x18, 1, 1, .w1c, 0, .free⟩,
   ⟨0x1c, 0, 16, .ro, 0, .free⟩,
   ⟨0x1c, 16, 2, .ro, 0, .free⟩,
   ⟨0x80, 0, 7, .wo, 0, .free⟩]

/-- Block dev (R432). -/
def RegMap.devBlock : BlockSpec :=
  ⟨0x800000, 0x0, 1, 0x100000, RegMap.devFields,
   [], [0x40, 0x48, 0x50, 0x58, 0x60, 0x68, 0x70], [(0x80, [0x40, 0x48, 0x50, 0x58, 0x60, 0x68, 0x70])]⟩

/-- Fields of block portCnt. -/
def RegMap.portCntFields : List FieldSpec :=
  [⟨0x20, 0, 4, .wo, 0, .free⟩]

/-- Block portCnt (R432). -/
def RegMap.portCntBlock : BlockSpec :=
  ⟨0x901000, 0x40, 48, 0x24, RegMap.portCntFields,
   [], [0x0, 0x8, 0x10, 0x18], [(0x20, [0x0, 0x8, 0x10, 0x18])]⟩

/-- Fields of block port. -/
def RegMap.portFields : List FieldSpec :=
  [⟨0x0, 0, 3, .ro, 0, .free⟩,
   ⟨0x0, 3, 1, .ro, 0, .free⟩,
   ⟨0x0, 4, 9, .ro, 0, .free⟩,
   ⟨0x0, 13, 2, .ro, 0, .free⟩,
   ⟨0x4, 0, 2, .rwa, 0, .check⟩,
   ⟨0x4, 2, 1, .wo, 0, .free⟩,
   ⟨0x8, 0, 20, .ro, 0, .free⟩,
   ⟨0x8, 20, 1, .ro, 0, .free⟩]

/-- Block port (R432). -/
def RegMap.portBlock : BlockSpec :=
  ⟨0x900100, 0x10, 48, 0xc, RegMap.portFields,
   [], [], []⟩

/-- Fields of block fab. -/
def RegMap.fabFields : List FieldSpec :=
  [⟨0x0, 0, 20, .rwa, 0, .free⟩,
   ⟨0x4, 0, 12, .ro, 0, .free⟩,
   ⟨0x4, 12, 12, .ro, 0, .free⟩,
   ⟨0x4, 24, 2, .ro, 0, .free⟩,
   ⟨0x8, 0, 32, .ro, 0, .free⟩,
   ⟨0xc, 0, 32, .ro, 0, .free⟩,
   ⟨0x10, 0, 1, .rwa, 0, .free⟩,
   ⟨0x10, 1, 6, .rwa, 63, .check⟩,
   ⟨0x14, 0, 16, .ro, 0, .free⟩,
   ⟨0x18, 0, 16, .rw, 256, .clamp 1 65535 1⟩,
   ⟨0x18, 16, 8, .rw, 4, .clamp 1 255 1⟩,
   ⟨0x18, 24, 5, .rw, 6, .clamp 3 12 1⟩,
   ⟨0x1c, 0, 1, .ro, 0, .free⟩,
   ⟨0x1c, 1, 1, .ro, 0, .free⟩,
   ⟨0x1c, 2, 1, .ro, 0, .free⟩,
   ⟨0xb8, 0, 7, .wo, 0, .free⟩]

/-- Block fab (R432). -/
def RegMap.fabBlock : BlockSpec :=
  ⟨0x900000, 0x0, 1, 0x100000, RegMap.fabFields,
   [0x8], [0x80, 0x88, 0x90, 0x98, 0xa0, 0xa8, 0xb0], [(0xb8, [0x80, 0x88, 0x90, 0x98, 0xa0, 0xa8, 0xb0])]⟩

/-- Fields of block int. -/
def RegMap.intFields : List FieldSpec :=
  [⟨0x0, 0, 2, .rwa, 0, .check⟩,
   ⟨0x4, 0, 2, .ro, 0, .free⟩,
   ⟨0x4, 2, 2, .ro, 0, .free⟩,
   ⟨0x4, 4, 7, .ro, 0, .free⟩,
   ⟨0x4, 11, 7, .ro, 0, .free⟩,
   ⟨0x4, 18, 5, .ro, 0, .free⟩,
   ⟨0x8, 0, 8, .rw, 16, .clamp 2 255 1⟩,
   ⟨0x8, 8, 16, .rw, 100, .clamp 10 65535 1⟩,
   ⟨0xc, 0, 32, .ro, 0, .free⟩,
   ⟨0x10, 0, 32, .ro, 0, .free⟩,
   ⟨0x14, 0, 32, .ro, 0, .free⟩,
   ⟨0x20, 0, 32, .rwa, 0, .check⟩,
   ⟨0x24, 0, 32, .rwa, 1065353216, .check⟩,
   ⟨0x28, 0, 32, .rwa, 0, .check⟩,
   ⟨0x2c, 0, 32, .rwa, 1065353216, .check⟩,
   ⟨0x30, 0, 32, .rwa, 0, .check⟩,
   ⟨0x34, 0, 32, .rwa, 1065353216, .check⟩,
   ⟨0x40, 0, 1, .ro, 0, .free⟩,
   ⟨0x40, 1, 1, .ro, 0, .free⟩,
   ⟨0x40, 2, 2, .ro, 0, .free⟩,
   ⟨0x40, 4, 1, .ro, 0, .free⟩,
   ⟨0x44, 0, 32, .ro, 0, .free⟩,
   ⟨0x48, 0, 32, .ro, 0, .free⟩,
   ⟨0x50, 0, 32, .ro, 0, .free⟩,
   ⟨0x54, 0, 32, .ro, 0, .free⟩,
   ⟨0x58, 0, 3, .ro, 0, .free⟩,
   ⟨0x58, 3, 4, .ro, 0, .free⟩,
   ⟨0x58, 7, 1, .w1c, 0, .free⟩,
   ⟨0x160, 0, 11, .wo, 0, .free⟩]

/-- Block int (R432). -/
def RegMap.intBlock : BlockSpec :=
  ⟨0xa00000, 0x1000, 2, 0x1000, RegMap.intFields,
   [0x50], [0x100, 0x108, 0x110, 0x118, 0x120, 0x128, 0x130, 0x138, 0x140, 0x148, 0x150], [(0x160, [0x100, 0x108, 0x110, 0x118, 0x120, 0x128, 0x130, 0x138, 0x140, 0x148, 0x150])]⟩

/-- Fields of block surv. -/
def RegMap.survFields0 : List FieldSpec :=
  [⟨0x0, 0, 10, .ro, 0, .free⟩,
   ⟨0x0, 10, 1, .ro, 0, .free⟩,
   ⟨0x0, 11, 1, .ro, 1, .free⟩,
   ⟨0x0, 12, 1, .w1c, 0, .free⟩,
   ⟨0x4, 0, 10, .rw, 600, .clamp 1 1023 1⟩,
   ⟨0x4, 16, 10, .rw, 900, .clamp 1 1023 1⟩,
   ⟨0x8, 0, 10, .rw, 64, .clamp 0 1023 1⟩,
   ⟨0x8, 16, 16, .rw, 256, .clamp 1 65535 1⟩,
   ⟨0xc, 0, 1, .rw, 0, .free⟩,
   ⟨0xc, 1, 1, .rw, 0, .free⟩,
   ⟨0x10, 0, 16, .rwa, 1000, .clamp 1 60000 1⟩,
   ⟨0x14, 0, 3, .ro, 0, .free⟩,
   ⟨0x14, 3, 1, .ro, 0, .free⟩,
   ⟨0x14, 4, 1, .ro, 0, .free⟩,
   ⟨0x14, 5, 1, .ro, 0, .free⟩,
   ⟨0x14, 6, 1, .ro, 0, .free⟩,
   ⟨0x18, 0, 32, .ro, 0, .free⟩,
   ⟨0x1c, 0, 1, .rwa, 0, .free⟩,
   ⟨0x1c, 1, 1, .wo, 0, .free⟩,
   ⟨0x20, 0, 16, .ro, 0, .free⟩,
   ⟨0x20, 16, 1, .w1c, 0, .free⟩,
   ⟨0x24, 0, 32, .ro, 0, .free⟩,
   ⟨0x28, 0, 32, .ro, 0, .free⟩,
   ⟨0x2c, 0, 16, .ro, 0, .free⟩,
   ⟨0x2c, 16, 16, .ro, 0, .free⟩,
   ⟨0x100, 0, 10, .rw, 128, .clamp 0 1023 1⟩,
   ⟨0x104, 0, 24, .rw, 256, .clamp 1 16777215 1⟩,
   ⟨0x108, 0, 10, .ro, 0, .free⟩,
   ⟨0x10c, 0, 32, .ro, 0, .free⟩,
   ⟨0x110, 0, 10, .rw, 256, .clamp 0 1023 1⟩,
   ⟨0x114, 0, 24, .rw, 16, .clamp 1 16777215 1⟩,
   ⟨0x118, 0, 10, .ro, 0, .free⟩,
   ⟨0x11c, 0, 32, .ro, 0, .free⟩,
   ⟨0x120, 0, 10, .rw, 128, .clamp 0 1023 1⟩,
   ⟨0x124, 0, 24, .rw, 256, .clamp 1 16777215 1⟩,
   ⟨0x128, 0, 10, .ro, 0, .free⟩,
   ⟨0x12c, 0, 32, .ro, 0, .free⟩,
   ⟨0x130, 0, 10, .rw, 256, .clamp 0 1023 1⟩,
   ⟨0x134, 0, 24, .rw, 0, .free⟩,
   ⟨0x138, 0, 10, .ro, 0, .free⟩]

/-- Fields of block surv, continued. -/
def RegMap.survFields1 : List FieldSpec :=
  [⟨0x13c, 0, 32, .ro, 0, .free⟩,
   ⟨0x140, 0, 10, .rw, 64, .clamp 0 1023 1⟩,
   ⟨0x144, 0, 24, .rw, 65536, .clamp 1 16777215 1⟩,
   ⟨0x148, 0, 10, .ro, 0, .free⟩,
   ⟨0x14c, 0, 32, .ro, 0, .free⟩,
   ⟨0x150, 0, 10, .rw, 256, .clamp 0 1023 1⟩,
   ⟨0x154, 0, 24, .rw, 256, .clamp 1 16777215 1⟩,
   ⟨0x158, 0, 10, .ro, 0, .free⟩,
   ⟨0x15c, 0, 32, .ro, 0, .free⟩,
   ⟨0x160, 0, 10, .rw, 512, .clamp 0 1023 1⟩,
   ⟨0x164, 0, 24, .rw, 0, .free⟩,
   ⟨0x168, 0, 10, .ro, 0, .free⟩,
   ⟨0x16c, 0, 32, .ro, 0, .free⟩,
   ⟨0x170, 0, 10, .rw, 384, .clamp 0 1023 1⟩,
   ⟨0x174, 0, 24, .rw, 200, .clamp 1 16777215 1⟩,
   ⟨0x178, 0, 10, .ro, 0, .free⟩,
   ⟨0x17c, 0, 32, .ro, 0, .free⟩,
   ⟨0x180, 0, 10, .rw, 256, .clamp 0 1023 1⟩,
   ⟨0x184, 0, 24, .rw, 1, .clamp 1 16777215 1⟩,
   ⟨0x188, 0, 10, .ro, 0, .free⟩,
   ⟨0x18c, 0, 32, .ro, 0, .free⟩,
   ⟨0x190, 0, 10, .rw, 64, .clamp 0 1023 1⟩,
   ⟨0x194, 0, 24, .rw, 16, .clamp 1 16777215 1⟩,
   ⟨0x198, 0, 10, .ro, 0, .free⟩,
   ⟨0x19c, 0, 32, .ro, 0, .free⟩,
   ⟨0x1a0, 0, 10, .rw, 128, .clamp 0 1023 1⟩,
   ⟨0x1a4, 0, 24, .rw, 64, .clamp 1 16777215 1⟩,
   ⟨0x1a8, 0, 10, .ro, 0, .free⟩,
   ⟨0x1ac, 0, 32, .ro, 0, .free⟩,
   ⟨0x1b0, 0, 10, .rw, 512, .clamp 0 1023 1⟩,
   ⟨0x1b4, 0, 24, .rw, 1, .clamp 1 16777215 1⟩,
   ⟨0x1b8, 0, 10, .ro, 0, .free⟩,
   ⟨0x1bc, 0, 32, .ro, 0, .free⟩,
   ⟨0x250, 0, 10, .wo, 0, .free⟩]

/-- All fields of block surv. -/
def RegMap.survFields : List FieldSpec :=
  RegMap.survFields0 ++ RegMap.survFields1

/-- Block surv (R432). -/
def RegMap.survBlock : BlockSpec :=
  ⟨0xb00000, 0x0, 1, 0x100000, RegMap.survFields,
   [], [0x200, 0x208, 0x210, 0x218, 0x220, 0x228, 0x230, 0x238, 0x240, 0x248], [(0x250, [0x200, 0x208, 0x210, 0x218, 0x220, 0x228, 0x230, 0x238, 0x240, 0x248])]⟩

/-- Fields of block pwr. -/
def RegMap.pwrFields : List FieldSpec :=
  [⟨0x0, 0, 12, .rw, 2600, .clamp 600 2600 10⟩,
   ⟨0x4, 0, 16, .rw, 1000, .clamp 100 20000 100⟩,
   ⟨0x8, 0, 1, .wo, 0, .check⟩,
   ⟨0x8, 1, 1, .rw, 0, .free⟩,
   ⟨0xc, 0, 3, .ro, 0, .free⟩,
   ⟨0xc, 3, 1, .ro, 0, .free⟩,
   ⟨0xc, 4, 3, .ro, 0, .free⟩,
   ⟨0xc, 7, 1, .ro, 0, .free⟩,
   ⟨0xc, 8, 1, .w1c, 0, .free⟩,
   ⟨0xc, 9, 1, .ro, 0, .free⟩,
   ⟨0x10, 0, 6, .ro, 12, .free⟩,
   ⟨0x10, 8, 6, .ro, 12, .free⟩,
   ⟨0x14, 0, 16, .ro, 0, .free⟩,
   ⟨0x14, 16, 16, .ro, 0, .free⟩,
   ⟨0x18, 0, 16, .ro, 0, .free⟩,
   ⟨0x1c, 0, 16, .ro, 0, .free⟩,
   ⟨0x20, 0, 16, .ro, 0, .free⟩,
   ⟨0x20, 16, 7, .ro, 0, .free⟩,
   ⟨0x24, 0, 16, .ro, 0, .free⟩,
   ⟨0x24, 16, 16, .ro, 0, .free⟩,
   ⟨0x80, 0, 8, .wo, 0, .free⟩]

/-- Block pwr (R432). -/
def RegMap.pwrBlock : BlockSpec :=
  ⟨0xc00000, 0x0, 1, 0x100000, RegMap.pwrFields,
   [], [0x40, 0x48, 0x50, 0x58, 0x60, 0x68, 0x70, 0x78], [(0x80, [0x40, 0x48, 0x50, 0x58, 0x60, 0x68, 0x70, 0x78])]⟩

/-- Fields of block mbx. -/
def RegMap.mbxFields : List FieldSpec :=
  [⟨0x0, 0, 32, .rw, 0, .free⟩]

/-- Block mbx (R432). -/
def RegMap.mbxBlock : BlockSpec :=
  ⟨0xd01000, 0x4, 1024, 0x4, RegMap.mbxFields,
   [], [], []⟩

/-- Fields of block prot. -/
def RegMap.protFields0 : List FieldSpec :=
  [⟨0x0, 0, 31, .ro, 0, .free⟩,
   ⟨0x0, 31, 1, .ro, 0, .free⟩,
   ⟨0x4, 0, 32, .ro, 0, .free⟩,
   ⟨0x8, 0, 31, .ro, 0, .free⟩,
   ⟨0x8, 31, 1, .ro, 0, .free⟩,
   ⟨0xc, 0, 32, .ro, 0, .free⟩,
   ⟨0x10, 0, 31, .ro, 0, .free⟩,
   ⟨0x10, 31, 1, .ro, 0, .free⟩,
   ⟨0x14, 0, 32, .ro, 0, .free⟩,
   ⟨0x18, 0, 31, .ro, 0, .free⟩,
   ⟨0x18, 31, 1, .ro, 0, .free⟩,
   ⟨0x1c, 0, 32, .ro, 0, .free⟩,
   ⟨0x20, 0, 31, .ro, 0, .free⟩,
   ⟨0x20, 31, 1, .ro, 0, .free⟩,
   ⟨0x24, 0, 32, .ro, 0, .free⟩,
   ⟨0x28, 0, 31, .ro, 0, .free⟩,
   ⟨0x28, 31, 1, .ro, 0, .free⟩,
   ⟨0x2c, 0, 32, .ro, 0, .free⟩,
   ⟨0x30, 0, 31, .ro, 0, .free⟩,
   ⟨0x30, 31, 1, .ro, 0, .free⟩,
   ⟨0x34, 0, 32, .ro, 0, .free⟩,
   ⟨0x38, 0, 31, .ro, 0, .free⟩,
   ⟨0x38, 31, 1, .ro, 0, .free⟩,
   ⟨0x3c, 0, 32, .ro, 0, .free⟩,
   ⟨0x40, 0, 31, .ro, 0, .free⟩,
   ⟨0x40, 31, 1, .ro, 0, .free⟩,
   ⟨0x44, 0, 32, .ro, 0, .free⟩,
   ⟨0x48, 0, 31, .ro, 0, .free⟩,
   ⟨0x48, 31, 1, .ro, 0, .free⟩,
   ⟨0x4c, 0, 32, .ro, 0, .free⟩,
   ⟨0x50, 0, 31, .ro, 0, .free⟩,
   ⟨0x50, 31, 1, .ro, 0, .free⟩,
   ⟨0x54, 0, 32, .ro, 0, .free⟩,
   ⟨0x58, 0, 31, .ro, 0, .free⟩,
   ⟨0x58, 31, 1, .ro, 0, .free⟩,
   ⟨0x5c, 0, 32, .ro, 0, .free⟩,
   ⟨0x60, 0, 31, .ro, 0, .free⟩,
   ⟨0x60, 31, 1, .ro, 0, .free⟩,
   ⟨0x64, 0, 32, .ro, 0, .free⟩,
   ⟨0x68, 0, 31, .ro, 0, .free⟩]

/-- Fields of block prot, continued. -/
def RegMap.protFields1 : List FieldSpec :=
  [⟨0x68, 31, 1, .ro, 0, .free⟩,
   ⟨0x6c, 0, 32, .ro, 0, .free⟩,
   ⟨0x70, 0, 31, .ro, 0, .free⟩,
   ⟨0x70, 31, 1, .ro, 0, .free⟩,
   ⟨0x74, 0, 32, .ro, 0, .free⟩,
   ⟨0x78, 0, 31, .ro, 0, .free⟩,
   ⟨0x78, 31, 1, .ro, 0, .free⟩,
   ⟨0x7c, 0, 32, .ro, 0, .free⟩]

/-- All fields of block prot. -/
def RegMap.protFields : List FieldSpec :=
  RegMap.protFields0 ++ RegMap.protFields1

/-- Block prot (R432). -/
def RegMap.protBlock : BlockSpec :=
  ⟨0xd02000, 0x100, 4, 0x80, RegMap.protFields,
   [], [], []⟩

/-- Fields of block sec. -/
def RegMap.secFields0 : List FieldSpec :=
  [⟨0x0, 0, 3, .ro, 0, .free⟩,
   ⟨0x0, 3, 1, .ro, 0, .free⟩,
   ⟨0x0, 4, 1, .ro, 0, .free⟩,
   ⟨0x4, 0, 3, .ro, 0, .free⟩,
   ⟨0x4, 3, 1, .ro, 0, .free⟩,
   ⟨0x4, 4, 1, .ro, 0, .free⟩,
   ⟨0x4, 5, 1, .ro, 0, .free⟩,
   ⟨0x8, 0, 32, .ro, 0, .free⟩,
   ⟨0xc, 0, 32, .ro, 0, .free⟩,
   ⟨0x10, 0, 6, .ro, 0, .free⟩,
   ⟨0x10, 8, 6, .ro, 0, .free⟩,
   ⟨0x14, 0, 1, .wo, 0, .check⟩,
   ⟨0x14, 8, 8, .wo, 0, .refuse 165 165⟩,
   ⟨0x18, 0, 2, .ro, 0, .free⟩,
   ⟨0x18, 2, 2, .ro, 0, .free⟩,
   ⟨0x18, 4, 2, .ro, 0, .free⟩,
   ⟨0x18, 6, 2, .ro, 0, .free⟩,
   ⟨0x20, 0, 1, .ro, 0, .free⟩,
   ⟨0x20, 1, 1, .ro, 0, .free⟩,
   ⟨0x20, 2, 1, .ro, 0, .free⟩,
   ⟨0x20, 3, 1, .ro, 0, .free⟩,
   ⟨0x20, 4, 5, .ro, 0, .free⟩,
   ⟨0x24, 0, 1, .ro, 0, .free⟩,
   ⟨0x24, 1, 1, .ro, 0, .free⟩,
   ⟨0x24, 2, 1, .ro, 0, .free⟩,
   ⟨0x24, 3, 1, .ro, 0, .free⟩,
   ⟨0x24, 4, 5, .ro, 0, .free⟩,
   ⟨0x28, 0, 1, .ro, 0, .free⟩,
   ⟨0x28, 1, 1, .ro, 0, .free⟩,
   ⟨0x28, 2, 1, .ro, 0, .free⟩,
   ⟨0x28, 3, 1, .ro, 0, .free⟩,
   ⟨0x28, 4, 5, .ro, 0, .free⟩,
   ⟨0x2c, 0, 1, .ro, 0, .free⟩,
   ⟨0x2c, 1, 1, .ro, 0, .free⟩,
   ⟨0x2c, 2, 1, .ro, 0, .free⟩,
   ⟨0x2c, 3, 1, .ro, 0, .free⟩,
   ⟨0x2c, 4, 5, .ro, 0, .free⟩,
   ⟨0x30, 0, 1, .ro, 0, .free⟩,
   ⟨0x30, 1, 1, .ro, 0, .free⟩,
   ⟨0x40, 0, 8, .rw, 0, .refuse 1 5⟩]

/-- Fields of block sec, continued. -/
def RegMap.secFields1 : List FieldSpec :=
  [⟨0x40, 8, 13, .rw, 0, .refuse 0 4096⟩,
   ⟨0x40, 31, 1, .wo, 0, .free⟩,
   ⟨0x44, 0, 1, .ro, 0, .free⟩,
   ⟨0x44, 1, 8, .ro, 0, .free⟩,
   ⟨0x98, 0, 3, .wo, 0, .free⟩]

/-- All fields of block sec. -/
def RegMap.secFields : List FieldSpec :=
  RegMap.secFields0 ++ RegMap.secFields1

/-- Block sec (R432). -/
def RegMap.secBlock : BlockSpec :=
  ⟨0xd00000, 0x0, 1, 0x100000, RegMap.secFields,
   [0x8], [0x80, 0x88, 0x90], [(0x98, [0x80, 0x88, 0x90])]⟩

/-- Fields of block bist. -/
def RegMap.bistFields : List FieldSpec :=
  [⟨0x0, 0, 1, .rw, 1, .free⟩,
   ⟨0x0, 1, 1, .rw, 0, .free⟩,
   ⟨0x4, 0, 3, .ro, 0, .free⟩,
   ⟨0x4, 3, 4, .ro, 0, .free⟩,
   ⟨0x4, 8, 8, .ro, 0, .free⟩,
   ⟨0x10, 0, 16, .ro, 0, .free⟩,
   ⟨0x10, 16, 16, .ro, 0, .free⟩,
   ⟨0x14, 0, 16, .ro, 0, .free⟩,
   ⟨0x14, 16, 16, .ro, 0, .free⟩,
   ⟨0x18, 0, 16, .ro, 0, .free⟩,
   ⟨0x18, 16, 16, .ro, 0, .free⟩,
   ⟨0x1c, 0, 16, .ro, 0, .free⟩,
   ⟨0x1c, 16, 16, .ro, 0, .free⟩,
   ⟨0x20, 0, 16, .ro, 0, .free⟩,
   ⟨0x20, 16, 16, .ro, 0, .free⟩,
   ⟨0x24, 0, 16, .ro, 0, .free⟩,
   ⟨0x24, 16, 16, .ro, 0, .free⟩,
   ⟨0x28, 0, 16, .ro, 0, .free⟩,
   ⟨0x28, 16, 16, .ro, 0, .free⟩,
   ⟨0x2c, 0, 16, .ro, 0, .free⟩,
   ⟨0x2c, 16, 16, .ro, 0, .free⟩,
   ⟨0x30, 0, 1, .ro, 0, .free⟩,
   ⟨0x30, 1, 1, .ro, 0, .free⟩,
   ⟨0x30, 2, 12, .ro, 0, .free⟩,
   ⟨0x58, 0, 3, .wo, 0, .free⟩]

/-- Block bist (R432). -/
def RegMap.bistBlock : BlockSpec :=
  ⟨0xe00000, 0x0, 1, 0x100000, RegMap.bistFields,
   [], [0x40, 0x48, 0x50], [(0x58, [0x40, 0x48, 0x50])]⟩

/-- Fields of block evt. -/
def RegMap.evtFields : List FieldSpec :=
  [⟨0x0, 0, 24, .rwa, 0, .check⟩,
   ⟨0x4, 0, 5, .rwa, 7, .free⟩,
   ⟨0x4, 5, 1, .rwa, 0, .free⟩,
   ⟨0x8, 0, 32, .ro, 0, .free⟩,
   ⟨0xc, 0, 32, .rw, 0, .check⟩,
   ⟨0x10, 0, 3, .rw, 3, .clamp 0 5 1⟩,
   ⟨0x10, 3, 1, .rw, 0, .free⟩,
   ⟨0x10, 4, 7, .rw, 0, .refuse 0 127⟩,
   ⟨0x14, 0, 1, .w1c, 0, .free⟩,
   ⟨0x18, 0, 16, .ro, 0, .free⟩,
   ⟨0x18, 16, 4, .ro, 0, .free⟩,
   ⟨0x50, 0, 2, .wo, 0, .free⟩]

/-- Block evt (R432). -/
def RegMap.evtBlock : BlockSpec :=
  ⟨0xf00000, 0x1000, 4, 0x1000, RegMap.evtFields,
   [], [0x40, 0x48], [(0x50, [0x40, 0x48])]⟩

/-- Fields of block core. -/
def RegMap.coreFields : List FieldSpec :=
  [⟨0x0, 0, 1, .ro, 0, .free⟩,
   ⟨0x0, 1, 3, .ro, 0, .free⟩,
   ⟨0x0, 4, 3, .ro, 1, .free⟩,
   ⟨0x0, 7, 1, .ro, 0, .free⟩,
   ⟨0x0, 8, 1, .ro, 0, .free⟩,
   ⟨0x4, 0, 16, .ro, 0, .free⟩,
   ⟨0x4, 16, 4, .ro, 0, .free⟩,
   ⟨0x8, 0, 16, .ro, 0, .free⟩,
   ⟨0xc, 0, 17, .ro, 65536, .free⟩,
   ⟨0x10, 0, 13, .ro, 0, .free⟩,
   ⟨0x10, 13, 1, .w1c, 0, .free⟩,
   ⟨0x80, 0, 8, .wo, 0, .free⟩,
   ⟨0x90, 0, 3, .ro, 0, .free⟩,
   ⟨0x90, 3, 2, .ro, 0, .free⟩,
   ⟨0x90, 5, 1, .ro, 0, .free⟩,
   ⟨0x90, 6, 7, .ro, 0, .free⟩,
   ⟨0x90, 13, 7, .ro, 0, .free⟩,
   ⟨0x90, 20, 1, .ro, 0, .free⟩,
   ⟨0x94, 0, 32, .ro, 0, .free⟩,
   ⟨0x98, 0, 32, .ro, 0, .free⟩,
   ⟨0x9c, 0, 32, .ro, 0, .free⟩,
   ⟨0xc8, 0, 5, .wo, 0, .free⟩,
   ⟨0xf8, 0, 5, .wo, 0, .free⟩,
   ⟨0x130, 0, 6, .wo, 0, .free⟩,
   ⟨0x134, 0, 12, .ro, 0, .free⟩,
   ⟨0x134, 12, 8, .ro, 0, .free⟩,
   ⟨0x134, 20, 1, .w1c, 0, .free⟩,
   ⟨0x170, 0, 6, .wo, 0, .free⟩]

/-- Block core (R432). -/
def RegMap.coreBlock : BlockSpec :=
  ⟨0x1000000, 0x10000, 64, 0x10000, RegMap.coreFields,
   [], [0x40, 0x48, 0x50, 0x58, 0x60, 0x68, 0x70, 0x78, 0xa0, 0xa8, 0xb0, 0xb8, 0xc0, 0xd0, 0xd8, 0xe0, 0xe8, 0xf0, 0x100, 0x108, 0x110, 0x118, 0x120, 0x128, 0x140, 0x148, 0x150, 0x158, 0x160, 0x168], [(0x80, [0x40, 0x48, 0x50, 0x58, 0x60, 0x68, 0x70, 0x78]), (0xc8, [0xa0, 0xa8, 0xb0, 0xb8, 0xc0]), (0xf8, [0xd0, 0xd8, 0xe0, 0xe8, 0xf0]), (0x130, [0x100, 0x108, 0x110, 0x118, 0x120, 0x128]), (0x170, [0x140, 0x148, 0x150, 0x158, 0x160, 0x168])]⟩

/-- Every block, the narrower before the one that surrounds it. -/
def RegMap.blocks : List BlockSpec :=
  [RegMap.sysBlock,
   RegMap.tickBlock,
   RegMap.ringBlock,
   RegMap.poolCntBlock 0,
   RegMap.poolCntBlock 1,
   RegMap.poolCntBlock 2,
   RegMap.poolCntBlock 3,
   RegMap.poolBlock 0,
   RegMap.poolBlock 1,
   RegMap.poolBlock 2,
   RegMap.poolBlock 3,
   RegMap.winBlock,
   RegMap.numBlock,
   RegMap.memBlock,
   RegMap.codecBlock,
   RegMap.devBlock,
   RegMap.portCntBlock,
   RegMap.portBlock,
   RegMap.fabBlock,
   RegMap.intBlock,
   RegMap.survBlock,
   RegMap.pwrBlock,
   RegMap.mbxBlock,
   RegMap.protBlock,
   RegMap.secBlock,
   RegMap.bistBlock,
   RegMap.evtBlock,
   RegMap.coreBlock]

/-- SYS + 0x100 [6:0]. -/
def Reg.sysInvCode_cores : Fld := ⟨0x100, 0, 7⟩
/-- SYS + 0x100 [11:8]. -/
def Reg.sysInvCode_stacks : Fld := ⟨0x100, 8, 4⟩
/-- SYS + 0x100 [14:12]. -/
def Reg.sysInvCode_ioDies : Fld := ⟨0x100, 12, 3⟩
/-- SYS + 0x118 [15:0]. -/
def Reg.sysInvMem_hbmSystemMib : Fld := ⟨0x118, 0, 16⟩
/-- SYS + 0x118 [20:16]. -/
def Reg.sysInvMem_negPackages : Fld := ⟨0x118, 16, 5⟩
/-- SYS + 0x118 [27:21]. -/
def Reg.sysInvMem_negPackageGb : Fld := ⟨0x118, 21, 7⟩
/-- SYS + 0x11c [0:0]. -/
def Reg.sysInvStatus_mismatch : Fld := ⟨0x11c, 0, 1⟩
/-- SYS + 0x11c [1:1]. -/
def Reg.sysInvStatus_coreFailedAny : Fld := ⟨0x11c, 1, 1⟩
/-- SYS + 0x11c [7:2]. -/
def Reg.sysInvStatus_d2dDown : Fld := ⟨0x11c, 2, 6⟩
/-- Low address of the pair at SYS + 0x108. -/
def Reg.sysInvPhys : Nat := 0x108
/-- Low address of the pair at SYS + 0x110. -/
def Reg.sysInvCoreFailed : Nat := 0x110
/-- TICK + 0x10 [14:0]. -/
def Reg.tickExposureLen_lenUs (p : Nat) : Fld := ⟨0x100010 + 0x1000 * p, 0, 15⟩
/-- TICK + 0x14 [4:0]. -/
def Reg.tickReserve_reservePct (p : Nat) : Fld := ⟨0x100014 + 0x1000 * p, 0, 5⟩
/-- TICK + 0x18 [5:0]. -/
def Reg.tickClockFloor_floor100mhz (p : Nat) : Fld := ⟨0x100018 + 0x1000 * p, 0, 6⟩
/-- TICK + 0x1c [15:0]. -/
def Reg.tickStepShape_planned (p : Nat) : Fld := ⟨0x10001c + 0x1000 * p, 0, 16⟩
/-- TICK + 0x1c [28:16]. -/
def Reg.tickStepShape_spares (p : Nat) : Fld := ⟨0x10001c + 0x1000 * p, 16, 13⟩
/-- TICK + 0x20 [15:0]. -/
def Reg.tickBarrierGuard_guardNs (p : Nat) : Fld := ⟨0x100020 + 0x1000 * p, 0, 16⟩
/-- TICK + 0x24 [12:0]. -/
def Reg.tickHoldLimit_limit (p : Nat) : Fld := ⟨0x100024 + 0x1000 * p, 0, 13⟩
/-- TICK + 0x2c [2:0]. -/
def Reg.tickStatus_state (p : Nat) : Fld := ⟨0x10002c + 0x1000 * p, 0, 3⟩
/-- TICK + 0x2c [3:3]. -/
def Reg.tickStatus_timeLocked (p : Nat) : Fld := ⟨0x10002c + 0x1000 * p, 3, 1⟩
/-- TICK + 0x2c [4:4]. -/
def Reg.tickStatus_floorHeld (p : Nat) : Fld := ⟨0x10002c + 0x1000 * p, 4, 1⟩
/-- TICK + 0x2c [5:5]. -/
def Reg.tickStatus_seqSaturated (p : Nat) : Fld := ⟨0x10002c + 0x1000 * p, 5, 1⟩
/-- TICK + 0x40 [16:0]. -/
def Reg.tickStepPos_index (p : Nat) : Fld := ⟨0x100040 + 0x1000 * p, 0, 17⟩
/-- TICK + 0x40 [31:31]. -/
def Reg.tickStepPos_held (p : Nat) : Fld := ⟨0x100040 + 0x1000 * p, 31, 1⟩
/-- TICK + 0x4c [0:0]. -/
def Reg.tickPlanControl_withdraw (p : Nat) : Fld := ⟨0x10004c + 0x1000 * p, 0, 1⟩
/-- TICK + 0x50 [31:0]. -/
def Reg.tickWorstMargin_marginNs (p : Nat) : Fld := ⟨0x100050 + 0x1000 * p, 0, 32⟩
/-- TICK + 0x90 [5:0]. -/
def Reg.tickCounterClear_clear (p : Nat) : Fld := ⟨0x100090 + 0x1000 * p, 0, 6⟩
/-- Low address of the pair at TICK + 0x0. -/
def Reg.tickTime (p : Nat) : Nat := 0x100000 + 0x1000 * p
/-- Low address of the pair at TICK + 0x8. -/
def Reg.tickOrigin (p : Nat) : Nat := 0x100008 + 0x1000 * p
/-- Low address of the pair at TICK + 0x30. -/
def Reg.tickExposureNum (p : Nat) : Nat := 0x100030 + 0x1000 * p
/-- Low address of the pair at TICK + 0x38. -/
def Reg.tickStepNum (p : Nat) : Nat := 0x100038 + 0x1000 * p
/-- Low address of the pair at TICK + 0x44. -/
def Reg.tickStart (p : Nat) : Nat := 0x100044 + 0x1000 * p
/-- RING + 0x8 [4:0]. -/
def Reg.ringDescSize_log2Entries (n : Nat) : Fld := ⟨0x200008 + 0x100 * n, 0, 5⟩
/-- RING + 0x14 [4:0]. -/
def Reg.ringCplSize_log2Entries (n : Nat) : Fld := ⟨0x200014 + 0x100 * n, 0, 5⟩
/-- RING + 0x18 [0:0]. -/
def Reg.ringControl_enable (n : Nat) : Fld := ⟨0x200018 + 0x100 * n, 0, 1⟩
/-- RING + 0x18 [1:1]. -/
def Reg.ringControl_reset (n : Nat) : Fld := ⟨0x200018 + 0x100 * n, 1, 1⟩
/-- RING + 0x18 [3:2]. -/
def Reg.ringControl_partition (n : Nat) : Fld := ⟨0x200018 + 0x100 * n, 2, 2⟩
/-- RING + 0x18 [4:4]. -/
def Reg.ringControl_irqEnable (n : Nat) : Fld := ⟨0x200018 + 0x100 * n, 4, 1⟩
/-- RING + 0x18 [11:5]. -/
def Reg.ringControl_msixVector (n : Nat) : Fld := ⟨0x200018 + 0x100 * n, 5, 7⟩
/-- RING + 0x1c [8:0]. -/
def Reg.ringIrqCoalesce_count (n : Nat) : Fld := ⟨0x20001c + 0x100 * n, 0, 9⟩
/-- RING + 0x1c [25:16]. -/
def Reg.ringIrqCoalesce_delayUs (n : Nat) : Fld := ⟨0x20001c + 0x100 * n, 16, 10⟩
/-- RING + 0x60 [2:0]. -/
def Reg.ringCounterClear_clear (n : Nat) : Fld := ⟨0x200060 + 0x100 * n, 0, 3⟩
/-- RING + 0x20 [31:0]. -/
def Reg.ringHead (n : Nat) : Fld := ⟨0x200020 + 0x100 * n, 0, 32⟩
/-- RING + 0x24 [31:0]. -/
def Reg.ringTail (n : Nat) : Fld := ⟨0x200024 + 0x100 * n, 0, 32⟩
/-- RING + 0x28 [31:0]. -/
def Reg.ringCplTail (n : Nat) : Fld := ⟨0x200028 + 0x100 * n, 0, 32⟩
/-- RING + 0x2c [31:0]. -/
def Reg.ringCplHead (n : Nat) : Fld := ⟨0x20002c + 0x100 * n, 0, 32⟩
/-- RING + 0x30 [1:0]. -/
def Reg.ringStatus_state (n : Nat) : Fld := ⟨0x200030 + 0x100 * n, 0, 2⟩
/-- RING + 0x30 [2:2]. -/
def Reg.ringStatus_doorbellBad (n : Nat) : Fld := ⟨0x200030 + 0x100 * n, 2, 1⟩
/-- RING + 0x30 [3:3]. -/
def Reg.ringStatus_hostError (n : Nat) : Fld := ⟨0x200030 + 0x100 * n, 3, 1⟩
/-- RING + 0x30 [4:4]. -/
def Reg.ringStatus_cplFull (n : Nat) : Fld := ⟨0x200030 + 0x100 * n, 4, 1⟩
/-- Low address of the pair at RING + 0x0. -/
def Reg.ringDescBase (n : Nat) : Nat := 0x200000 + 0x100 * n
/-- Low address of the pair at RING + 0xc. -/
def Reg.ringCplBase (n : Nat) : Nat := 0x20000c + 0x100 * n
/-- POOLCNT + 0x20 [3:0]. -/
def Reg.winPoolCounterClear (p q : Nat) : Fld := ⟨0x300420 + 0x1000 * p + 0x40 * q, 0, 4⟩
/-- POOL + 0x0 [14:0]. -/
def Reg.winPool_base (p q : Nat) : Fld := ⟨0x300100 + 0x1000 * p + 0x20 * q, 0, 15⟩
/-- POOL + 0x4 [16:0]. -/
def Reg.winPool_slots (p q : Nat) : Fld := ⟨0x300104 + 0x1000 * p + 0x20 * q, 0, 17⟩
/-- POOL + 0x8 [4:0]. -/
def Reg.winPool_slotLog2 (p q : Nat) : Fld := ⟨0x300108 + 0x1000 * p + 0x20 * q, 0, 5⟩
/-- POOL + 0x8 [9:8]. -/
def Reg.winPool_use (p q : Nat) : Fld := ⟨0x300108 + 0x1000 * p + 0x20 * q, 8, 2⟩
/-- POOL + 0x8 [10:10]. -/
def Reg.winPool_intake (p q : Nat) : Fld := ⟨0x300108 + 0x1000 * p + 0x20 * q, 10, 1⟩
/-- POOL + 0xc [15:0]. -/
def Reg.winPool_timeoutMs (p q : Nat) : Fld := ⟨0x30010c + 0x1000 * p + 0x20 * q, 0, 16⟩
/-- POOL + 0x10 [16:0]. -/
def Reg.winPool_held (p q : Nat) : Fld := ⟨0x300110 + 0x1000 * p + 0x20 * q, 0, 17⟩
/-- WIN + 0x8 [15:0]. -/
def Reg.winSize_size2mib (p : Nat) : Fld := ⟨0x300008 + 0x1000 * p, 0, 16⟩
/-- WIN + 0xc [0:0]. -/
def Reg.winStatus_active (p : Nat) : Fld := ⟨0x30000c + 0x1000 * p, 0, 1⟩
/-- WIN + 0xc [1:1]. -/
def Reg.winStatus_accessBad (p : Nat) : Fld := ⟨0x30000c + 0x1000 * p, 1, 1⟩
/-- WIN + 0xc [2:2]. -/
def Reg.winStatus_irqEnable (p : Nat) : Fld := ⟨0x30000c + 0x1000 * p, 2, 1⟩
/-- WIN + 0xc [9:3]. -/
def Reg.winStatus_msixVector (p : Nat) : Fld := ⟨0x30000c + 0x1000 * p, 3, 7⟩
/-- WIN + 0x810 [1:0]. -/
def Reg.winCounterClear_clear (p : Nat) : Fld := ⟨0x300810 + 0x1000 * p, 0, 2⟩
/-- WIN + 0x10 [31:0]. -/
def Reg.winClampLog_offset (p : Nat) : Fld := ⟨0x300010 + 0x1000 * p, 0, 32⟩
/-- WIN + 0x14 [4:0]. -/
def Reg.winClampLog_sizeLog2 (p : Nat) : Fld := ⟨0x300014 + 0x1000 * p, 0, 5⟩
/-- WIN + 0x18 [31:0]. -/
def Reg.winClampLog_head (p : Nat) : Fld := ⟨0x300018 + 0x1000 * p, 0, 32⟩
/-- WIN + 0x1c [31:0]. -/
def Reg.winClampLog_tail (p : Nat) : Fld := ⟨0x30001c + 0x1000 * p, 0, 32⟩
/-- Low address of the pair at WIN + 0x0. -/
def Reg.winHbmBase (p : Nat) : Nat := 0x300000 + 0x1000 * p
/-- NUM + 0x0 [20:0]. -/
def Reg.numKLong_kLong : Fld := ⟨0x500000, 0, 21⟩
/-- NUM + 0x4 [15:0]. -/
def Reg.numPromotionHold_holdSteps : Fld := ⟨0x500004, 0, 16⟩
/-- NUM + 0x8 [6:0]. -/
def Reg.numGradScale_history : Fld := ⟨0x500008, 0, 7⟩
/-- NUM + 0x8 [9:7]. -/
def Reg.numGradScale_margin : Fld := ⟨0x500008, 7, 3⟩
/-- NUM + 0x8 [17:10]. -/
def Reg.numGradScale_eInit : Fld := ⟨0x500008, 10, 8⟩
/-- NUM + 0xc [0:0]. -/
def Reg.numStatus_fault : Fld := ⟨0x50000c, 0, 1⟩
/-- NUM + 0xc [1:1]. -/
def Reg.numStatus_srSaturated : Fld := ⟨0x50000c, 1, 1⟩
/-- NUM + 0x18 [15:0]. -/
def Reg.numLastReplay_layer : Fld := ⟨0x500018, 0, 16⟩
/-- NUM + 0x18 [17:16]. -/
def Reg.numLastReplay_rung : Fld := ⟨0x500018, 16, 2⟩
/-- NUM + 0x1c [15:0]. -/
def Reg.numLayerSelect_layer : Fld := ⟨0x50001c, 0, 16⟩
/-- NUM + 0x20 [1:0]. -/
def Reg.numLayerState_promotion : Fld := ⟨0x500020, 0, 2⟩
/-- NUM + 0x20 [17:2]. -/
def Reg.numLayerState_holdLeft : Fld := ⟨0x500020, 2, 16⟩
/-- NUM + 0x20 [18:18]. -/
def Reg.numLayerState_valid : Fld := ⟨0x500020, 18, 1⟩
/-- NUM + 0x20 [19:19]. -/
def Reg.numLayerState_remote : Fld := ⟨0x500020, 19, 1⟩
/-- NUM + 0x24 [7:0]. -/
def Reg.numLayerScale_e : Fld := ⟨0x500024, 0, 8⟩
/-- NUM + 0x24 [15:8]. -/
def Reg.numLayerScale_lastAmax : Fld := ⟨0x500024, 8, 8⟩
/-- NUM + 0x24 [23:16]. -/
def Reg.numLayerScale_gFormat : Fld := ⟨0x500024, 16, 8⟩
/-- NUM + 0x70 [5:0]. -/
def Reg.numCounterClear_clear : Fld := ⟨0x500070, 0, 6⟩
/-- NUM + 0x70 [6:6]. -/
def Reg.numCounterClear_clearLayer : Fld := ⟨0x500070, 6, 1⟩
/-- Low address of the pair at NUM + 0x10. -/
def Reg.numSeed : Nat := 0x500010
/-- Low address of the pair at NUM + 0x28. -/
def Reg.numLayerReplays : Nat := 0x500028
/-- MEM + 0x4000 [4:0]. -/
def Reg.kvPageSize_pageLog2 : Fld := ⟨0x604000, 0, 5⟩
/-- MEM + 0x40a0 [11:0]. -/
def Reg.ctxSelect_context : Fld := ⟨0x6040a0, 0, 12⟩
/-- MEM + 0x40a4 [1:0]. -/
def Reg.ctxState_state : Fld := ⟨0x6040a4, 0, 2⟩
/-- MEM + 0x40a4 [3:2]. -/
def Reg.ctxState_kind : Fld := ⟨0x6040a4, 2, 2⟩
/-- MEM + 0x40a4 [5:4]. -/
def Reg.ctxState_die : Fld := ⟨0x6040a4, 4, 2⟩
/-- MEM + 0x40a4 [21:6]. -/
def Reg.ctxState_parent : Fld := ⟨0x6040a4, 6, 16⟩
/-- MEM + 0x40e0 [3:0]. -/
def Reg.kvCounterClear_clear : Fld := ⟨0x6040e0, 0, 4⟩
/-- MEM + 0x0 [15:0]. -/
def Reg.memNegSealed_sealedGib : Fld := ⟨0x600000, 0, 16⟩
/-- MEM + 0x4 [15:0]. -/
def Reg.memNegUsable_usableGib : Fld := ⟨0x600004, 0, 16⟩
/-- MEM + 0x8 [4:0]. -/
def Reg.memNegStatus_packages : Fld := ⟨0x600008, 0, 5⟩
/-- MEM + 0x8 [5:5]. -/
def Reg.memNegStatus_sealedInUse : Fld := ⟨0x600008, 5, 1⟩
/-- MEM + 0x8 [6:6]. -/
def Reg.memNegStatus_wiped : Fld := ⟨0x600008, 6, 1⟩
/-- MEM + 0x210 [1:0]. -/
def Reg.memCounterClear_clear : Fld := ⟨0x600210, 0, 2⟩
/-- MEM + 0x40a8 [31:0]. -/
def Reg.ctxLength : Fld := ⟨0x6040a8, 0, 32⟩
/-- MEM + 0x40ac [31:0]. -/
def Reg.ctxMaxLen : Fld := ⟨0x6040ac, 0, 32⟩
/-- MEM + 0x40b0 [31:0]. -/
def Reg.ctxHeld : Fld := ⟨0x6040b0, 0, 32⟩
/-- MEM + 0x40b4 [31:0]. -/
def Reg.ctxReserved : Fld := ⟨0x6040b4, 0, 32⟩
/-- CODEC + 0x0 [3:0]. -/
def Reg.codecClearCurrent_current (p : Nat) : Fld := ⟨0x700000 + 0x1000 * p, 0, 4⟩
/-- CODEC + 0x0 [4:4]. -/
def Reg.codecClearCurrent_valid (p : Nat) : Fld := ⟨0x700000 + 0x1000 * p, 4, 1⟩
/-- CODEC + 0x0 [8:5]. -/
def Reg.codecClearCurrent_pending (p : Nat) : Fld := ⟨0x700000 + 0x1000 * p, 5, 4⟩
/-- CODEC + 0x0 [9:9]. -/
def Reg.codecClearCurrent_pendingValid (p : Nat) : Fld := ⟨0x700000 + 0x1000 * p, 9, 1⟩
/-- CODEC + 0x8 [3:0]. -/
def Reg.codecGenSelect_generation (p : Nat) : Fld := ⟨0x700008 + 0x1000 * p, 0, 4⟩
/-- CODEC + 0xc [31:0]. -/
def Reg.codecGenRefs_refs (p : Nat) : Fld := ⟨0x70000c + 0x1000 * p, 0, 32⟩
/-- CODEC + 0x70 [5:0]. -/
def Reg.codecCounterClear_clear (p : Nat) : Fld := ⟨0x700070 + 0x1000 * p, 0, 6⟩
/-- CODEC + 0x18 [1:0]. -/
def Reg.codecLastErrorInfo_space (p : Nat) : Fld := ⟨0x700018 + 0x1000 * p, 0, 2⟩
/-- CODEC + 0x18 [3:2]. -/
def Reg.codecLastErrorInfo_cause (p : Nat) : Fld := ⟨0x700018 + 0x1000 * p, 2, 2⟩
/-- CODEC + 0x18 [4:4]. -/
def Reg.codecLastErrorInfo_valid (p : Nat) : Fld := ⟨0x700018 + 0x1000 * p, 4, 1⟩
/-- Low address of the pair at CODEC + 0x10. -/
def Reg.codecLastError (p : Nat) : Nat := 0x700010 + 0x1000 * p
/-- DEV + 0x0 [15:0]. -/
def Reg.devGroupSelect_group : Fld := ⟨0x800000, 0, 16⟩
/-- DEV + 0x4 [2:0]. -/
def Reg.devGroupState_status : Fld := ⟨0x800004, 0, 3⟩
/-- DEV + 0x4 [3:3]. -/
def Reg.devGroupState_frozen : Fld := ⟨0x800004, 3, 1⟩
/-- DEV + 0x4 [4:4]. -/
def Reg.devGroupState_frozenAdmitted : Fld := ⟨0x800004, 4, 1⟩
/-- DEV + 0x4 [5:5]. -/
def Reg.devGroupState_pending : Fld := ⟨0x800004, 5, 1⟩
/-- DEV + 0x4 [7:6]. -/
def Reg.devGroupState_touchMode : Fld := ⟨0x800004, 6, 2⟩
/-- DEV + 0x4 [10:8]. -/
def Reg.devGroupState_rule : Fld := ⟨0x800004, 8, 3⟩
/-- DEV + 0x4 [11:11]. -/
def Reg.devGroupState_valid : Fld := ⟨0x800004, 11, 1⟩
/-- DEV + 0x14 [0:0]. -/
def Reg.devGroupControl_frozen : Fld := ⟨0x800014, 0, 1⟩
/-- DEV + 0x18 [0:0]. -/
def Reg.devStatus_torn : Fld := ⟨0x800018, 0, 1⟩
/-- DEV + 0x18 [1:1]. -/
def Reg.devStatus_partial : Fld := ⟨0x800018, 1, 1⟩
/-- DEV + 0x1c [15:0]. -/
def Reg.devLastTorn_group : Fld := ⟨0x80001c, 0, 16⟩
/-- DEV + 0x1c [17:16]. -/
def Reg.devLastTorn_cause : Fld := ⟨0x80001c, 16, 2⟩
/-- DEV + 0x80 [6:0]. -/
def Reg.devCounterClear_clear : Fld := ⟨0x800080, 0, 7⟩
/-- DEV + 0x8 [31:0]. -/
def Reg.devGroupStep : Fld := ⟨0x800008, 0, 32⟩
/-- DEV + 0xc [31:0]. -/
def Reg.devGroupLast : Fld := ⟨0x80000c, 0, 32⟩
/-- DEV + 0x10 [31:0]. -/
def Reg.devGroupEta : Fld := ⟨0x800010, 0, 32⟩
/-- PORTCNT + 0x20 [3:0]. -/
def Reg.fabPortCounterClear (n : Nat) : Fld := ⟨0x901020 + 0x40 * n, 0, 4⟩
/-- PORT + 0x0 [2:0]. -/
def Reg.fabPort_state (n : Nat) : Fld := ⟨0x900100 + 0x10 * n, 0, 3⟩
/-- PORT + 0x0 [3:3]. -/
def Reg.fabPort_spareUsed (n : Nat) : Fld := ⟨0x900100 + 0x10 * n, 3, 1⟩
/-- PORT + 0x0 [12:4]. -/
def Reg.fabPort_failedLanes (n : Nat) : Fld := ⟨0x900100 + 0x10 * n, 4, 9⟩
/-- PORT + 0x0 [14:13]. -/
def Reg.fabPort_attach (n : Nat) : Fld := ⟨0x900100 + 0x10 * n, 13, 2⟩
/-- PORT + 0x4 [1:0]. -/
def Reg.fabPort_partition (n : Nat) : Fld := ⟨0x900104 + 0x10 * n, 0, 2⟩
/-- PORT + 0x4 [2:2]. -/
def Reg.fabPort_takeDown (n : Nat) : Fld := ⟨0x900104 + 0x10 * n, 2, 1⟩
/-- PORT + 0x8 [19:0]. -/
def Reg.fabPort_neighbour (n : Nat) : Fld := ⟨0x900108 + 0x10 * n, 0, 20⟩
/-- PORT + 0x8 [20:20]. -/
def Reg.fabPort_neighbourValid (n : Nat) : Fld := ⟨0x900108 + 0x10 * n, 20, 1⟩
/-- FAB + 0x0 [19:0]. -/
def Reg.fabPosition_position : Fld := ⟨0x900000, 0, 20⟩
/-- FAB + 0x4 [11:0]. -/
def Reg.fabEpoch_epoch : Fld := ⟨0x900004, 0, 12⟩
/-- FAB + 0x4 [23:12]. -/
def Reg.fabEpoch_next : Fld := ⟨0x900004, 12, 12⟩
/-- FAB + 0x4 [25:24]. -/
def Reg.fabEpoch_reshard : Fld := ⟨0x900004, 24, 2⟩
/-- FAB + 0x10 [0:0]. -/
def Reg.fabTimeConfig_root : Fld := ⟨0x900010, 0, 1⟩
/-- FAB + 0x10 [6:1]. -/
def Reg.fabTimeConfig_parentPort : Fld := ⟨0x900010, 1, 6⟩
/-- FAB + 0x14 [15:0]. -/
def Reg.fabTimeOffset_offset : Fld := ⟨0x900014, 0, 16⟩
/-- FAB + 0x18 [15:0]. -/
def Reg.fabLimits_replayLimit : Fld := ⟨0x900018, 0, 16⟩
/-- FAB + 0x18 [23:16]. -/
def Reg.fabLimits_starveUs : Fld := ⟨0x900018, 16, 8⟩
/-- FAB + 0x18 [28:24]. -/
def Reg.fabLimits_laneSerExp : Fld := ⟨0x900018, 24, 5⟩
/-- FAB + 0x1c [0:0]. -/
def Reg.fabRouteStatus_loaded : Fld := ⟨0x90001c, 0, 1⟩
/-- FAB + 0x1c [1:1]. -/
def Reg.fabRouteStatus_neighboursAgreed : Fld := ⟨0x90001c, 1, 1⟩
/-- FAB + 0x1c [2:2]. -/
def Reg.fabRouteStatus_uniform : Fld := ⟨0x90001c, 2, 1⟩
/-- FAB + 0xb8 [6:0]. -/
def Reg.fabCounterClear_clear : Fld := ⟨0x9000b8, 0, 7⟩
/-- Low address of the pair at FAB + 0x8. -/
def Reg.fabReshardStep : Nat := 0x900008
/-- INT + 0x0 [1:0]. -/
def Reg.intUnitControl_partition (u : Nat) : Fld := ⟨0xa00000 + 0x1000 * u, 0, 2⟩
/-- INT + 0x4 [1:0]. -/
def Reg.intUnitStatus_kind (u : Nat) : Fld := ⟨0xa00004 + 0x1000 * u, 0, 2⟩
/-- INT + 0x4 [3:2]. -/
def Reg.intUnitStatus_class (u : Nat) : Fld := ⟨0xa00004 + 0x1000 * u, 2, 2⟩
/-- INT + 0x4 [10:4]. -/
def Reg.intUnitStatus_reserveDepth (u : Nat) : Fld := ⟨0xa00004 + 0x1000 * u, 4, 7⟩
/-- INT + 0x4 [17:11]. -/
def Reg.intUnitStatus_reserveCount (u : Nat) : Fld := ⟨0xa00004 + 0x1000 * u, 11, 7⟩
/-- INT + 0x4 [22:18]. -/
def Reg.intUnitStatus_complete (u : Nat) : Fld := ⟨0xa00004 + 0x1000 * u, 18, 5⟩
/-- INT + 0x8 [7:0]. -/
def Reg.intSlowBudget_mult (u : Nat) : Fld := ⟨0xa00008 + 0x1000 * u, 0, 8⟩
/-- INT + 0x8 [23:8]. -/
def Reg.intSlowBudget_floorUs (u : Nat) : Fld := ⟨0xa00008 + 0x1000 * u, 8, 16⟩
/-- INT + 0x40 [0:0]. -/
def Reg.intDictState_activeBank (u : Nat) : Fld := ⟨0xa00040 + 0x1000 * u, 0, 1⟩
/-- INT + 0x40 [1:1]. -/
def Reg.intDictState_activeValid (u : Nat) : Fld := ⟨0xa00040 + 0x1000 * u, 1, 1⟩
/-- INT + 0x40 [3:2]. -/
def Reg.intDictState_loaded (u : Nat) : Fld := ⟨0xa00040 + 0x1000 * u, 2, 2⟩
/-- INT + 0x40 [4:4]. -/
def Reg.intDictState_pending (u : Nat) : Fld := ⟨0xa00040 + 0x1000 * u, 4, 1⟩
/-- INT + 0x160 [10:0]. -/
def Reg.intCounterClear_clear (u : Nat) : Fld := ⟨0xa00160 + 0x1000 * u, 0, 11⟩
/-- INT + 0x58 [2:0]. -/
def Reg.intLastBadInfo_cause (u : Nat) : Fld := ⟨0xa00058 + 0x1000 * u, 0, 3⟩
/-- INT + 0x58 [6:3]. -/
def Reg.intLastBadInfo_pool (u : Nat) : Fld := ⟨0xa00058 + 0x1000 * u, 3, 4⟩
/-- INT + 0x58 [7:7]. -/
def Reg.intLastBadInfo_valid (u : Nat) : Fld := ⟨0xa00058 + 0x1000 * u, 7, 1⟩
/-- Low address of the pair at INT + 0x50. -/
def Reg.intLastBad (u : Nat) : Nat := 0xa00050 + 0x1000 * u
/-- SURV + 0x0 [9:0]. -/
def Reg.survRisk_risk : Fld := ⟨0xb00000, 0, 10⟩
/-- SURV + 0x0 [10:10]. -/
def Reg.survRisk_forced : Fld := ⟨0xb00000, 10, 1⟩
/-- SURV + 0x0 [11:11]. -/
def Reg.survRisk_armed : Fld := ⟨0xb00000, 11, 1⟩
/-- SURV + 0x0 [12:12]. -/
def Reg.survRisk_alarm : Fld := ⟨0xb00000, 12, 1⟩
/-- SURV + 0x4 [9:0]. -/
def Reg.survThresholds_secureAt : Fld := ⟨0xb00004, 0, 10⟩
/-- SURV + 0x4 [25:16]. -/
def Reg.survThresholds_alarmAt : Fld := ⟨0xb00004, 16, 10⟩
/-- SURV + 0x8 [9:0]. -/
def Reg.survRearm_hysteresis : Fld := ⟨0xb00008, 0, 10⟩
/-- SURV + 0x8 [31:16]. -/
def Reg.survRearm_resecureSteps : Fld := ⟨0xb00008, 16, 16⟩
/-- SURV + 0xc [0:0]. -/
def Reg.survPolicy_partial : Fld := ⟨0xb0000c, 0, 1⟩
/-- SURV + 0xc [1:1]. -/
def Reg.survPolicy_autoRetire : Fld := ⟨0xb0000c, 1, 1⟩
/-- SURV + 0x10 [15:0]. -/
def Reg.survStopLimit_limitMs : Fld := ⟨0xb00010, 0, 16⟩
/-- SURV + 0x14 [2:0]. -/
def Reg.survStatus_fixer : Fld := ⟨0xb00014, 0, 3⟩
/-- SURV + 0x14 [3:3]. -/
def Reg.survStatus_mirroring : Fld := ⟨0xb00014, 3, 1⟩
/-- SURV + 0x14 [4:4]. -/
def Reg.survStatus_restoring : Fld := ⟨0xb00014, 4, 1⟩
/-- SURV + 0x14 [5:5]. -/
def Reg.survStatus_unrecoverable : Fld := ⟨0xb00014, 5, 1⟩
/-- SURV + 0x14 [6:6]. -/
def Reg.survStatus_planInvalid : Fld := ⟨0xb00014, 6, 1⟩
/-- SURV + 0x18 [31:0]. -/
def Reg.survStopWindow_wUs : Fld := ⟨0xb00018, 0, 32⟩
/-- SURV + 0x1c [0:0]. -/
def Reg.survSpareControl_standby : Fld := ⟨0xb0001c, 0, 1⟩
/-- SURV + 0x1c [1:1]. -/
def Reg.survSpareControl_takeover : Fld := ⟨0xb0001c, 1, 1⟩
/-- SURV + 0x2c [15:0]. -/
def Reg.survRepair_rowsLeft : Fld := ⟨0xb0002c, 0, 16⟩
/-- SURV + 0x2c [31:16]. -/
def Reg.survRepair_pagesRetired : Fld := ⟨0xb0002c, 16, 16⟩
/-- SURV + 0x250 [9:0]. -/
def Reg.survCounterClear_clear : Fld := ⟨0xb00250, 0, 10⟩
/-- SURV + 0x20 [15:0]. -/
def Reg.survLastRestore_group : Fld := ⟨0xb00020, 0, 16⟩
/-- SURV + 0x20 [16:16]. -/
def Reg.survLastRestore_valid : Fld := ⟨0xb00020, 16, 1⟩
/-- SURV + 0x24 [31:0]. -/
def Reg.survLastRestoreFrom : Fld := ⟨0xb00024, 0, 32⟩
/-- SURV + 0x28 [31:0]. -/
def Reg.survLastRestoreTo : Fld := ⟨0xb00028, 0, 32⟩
/-- PWR + 0x0 [11:0]. -/
def Reg.pwrCap_capW : Fld := ⟨0xc00000, 0, 12⟩
/-- PWR + 0x4 [15:0]. -/
def Reg.pwrStateMargin_marginNs : Fld := ⟨0xc00004, 0, 16⟩
/-- PWR + 0x8 [0:0]. -/
def Reg.pwrControl_shutdown : Fld := ⟨0xc00008, 0, 1⟩
/-- PWR + 0x8 [1:1]. -/
def Reg.pwrControl_noDeep : Fld := ⟨0xc00008, 1, 1⟩
/-- PWR + 0xc [2:0]. -/
def Reg.pwrStatus_busState : Fld := ⟨0xc0000c, 0, 3⟩
/-- PWR + 0xc [3:3]. -/
def Reg.pwrStatus_emergency : Fld := ⟨0xc0000c, 3, 1⟩
/-- PWR + 0xc [6:4]. -/
def Reg.pwrStatus_limit : Fld := ⟨0xc0000c, 4, 3⟩
/-- PWR + 0xc [7:7]. -/
def Reg.pwrStatus_coolantBad : Fld := ⟨0xc0000c, 7, 1⟩
/-- PWR + 0xc [8:8]. -/
def Reg.pwrStatus_capExceeded : Fld := ⟨0xc0000c, 8, 1⟩
/-- PWR + 0xc [9:9]. -/
def Reg.pwrStatus_capBelowFloor : Fld := ⟨0xc0000c, 9, 1⟩
/-- PWR + 0x10 [5:0]. -/
def Reg.pwrClock_now100mhz : Fld := ⟨0xc00010, 0, 6⟩
/-- PWR + 0x10 [13:8]. -/
def Reg.pwrClock_target100mhz : Fld := ⟨0xc00010, 8, 6⟩
/-- PWR + 0x14 [15:0]. -/
def Reg.pwrBus_voltMv : Fld := ⟨0xc00014, 0, 16⟩
/-- PWR + 0x14 [31:16]. -/
def Reg.pwrBus_current10ma : Fld := ⟨0xc00014, 16, 16⟩
/-- PWR + 0x20 [15:0]. -/
def Reg.pwrThermal_margin : Fld := ⟨0xc00020, 0, 16⟩
/-- PWR + 0x20 [22:16]. -/
def Reg.pwrThermal_sensor : Fld := ⟨0xc00020, 16, 7⟩
/-- PWR + 0x24 [15:0]. -/
def Reg.pwrCoolant_flow : Fld := ⟨0xc00024, 0, 16⟩
/-- PWR + 0x24 [31:16]. -/
def Reg.pwrCoolant_inlet : Fld := ⟨0xc00024, 16, 16⟩
/-- PWR + 0x80 [7:0]. -/
def Reg.pwrCounterClear_clear : Fld := ⟨0xc00080, 0, 8⟩
/-- PWR + 0x18 [15:0]. -/
def Reg.pwrInput : Fld := ⟨0xc00018, 0, 16⟩
/-- PWR + 0x1c [15:0]. -/
def Reg.pwrEstimate : Fld := ⟨0xc0001c, 0, 16⟩
/-- MBX + 0x0 [31:0]. -/
def Reg.secMbxData (i : Nat) : Fld := ⟨0xd01000 + 0x4 * i, 0, 32⟩
/-- SEC + 0x0 [2:0]. -/
def Reg.secLifecycle_state : Fld := ⟨0xd00000, 0, 3⟩
/-- SEC + 0x0 [3:3]. -/
def Reg.secLifecycle_owned : Fld := ⟨0xd00000, 3, 1⟩
/-- SEC + 0x0 [4:4]. -/
def Reg.secLifecycle_scan : Fld := ⟨0xd00000, 4, 1⟩
/-- SEC + 0x4 [2:0]. -/
def Reg.secBootStatus_cause : Fld := ⟨0xd00004, 0, 3⟩
/-- SEC + 0x4 [3:3]. -/
def Reg.secBootStatus_ready : Fld := ⟨0xd00004, 3, 1⟩
/-- SEC + 0x4 [4:4]. -/
def Reg.secBootStatus_verifyFail : Fld := ⟨0xd00004, 4, 1⟩
/-- SEC + 0x4 [5:5]. -/
def Reg.secBootStatus_fullTest : Fld := ⟨0xd00004, 5, 1⟩
/-- SEC + 0x10 [5:0]. -/
def Reg.secFwSvn_imageSvn : Fld := ⟨0xd00010, 0, 6⟩
/-- SEC + 0x10 [13:8]. -/
def Reg.secFwSvn_fuseSvn : Fld := ⟨0xd00010, 8, 6⟩
/-- SEC + 0x14 [0:0]. -/
def Reg.secReset_warm : Fld := ⟨0xd00014, 0, 1⟩
/-- SEC + 0x14 [15:8]. -/
def Reg.secReset_key : Fld := ⟨0xd00014, 8, 8⟩
/-- SEC + 0x30 [0:0]. -/
def Reg.secView_fullView : Fld := ⟨0xd00030, 0, 1⟩
/-- SEC + 0x30 [1:1]. -/
def Reg.secView_ownerSession : Fld := ⟨0xd00030, 1, 1⟩
/-- SEC + 0x98 [2:0]. -/
def Reg.secCounterClear_clear : Fld := ⟨0xd00098, 0, 3⟩
/-- SEC + 0x40 [7:0]. -/
def Reg.secMbxControl_command : Fld := ⟨0xd00040, 0, 8⟩
/-- SEC + 0x40 [20:8]. -/
def Reg.secMbxControl_length : Fld := ⟨0xd00040, 8, 13⟩
/-- SEC + 0x40 [31:31]. -/
def Reg.secMbxControl_go : Fld := ⟨0xd00040, 31, 1⟩
/-- SEC + 0x44 [0:0]. -/
def Reg.secMbxStatus_busy : Fld := ⟨0xd00044, 0, 1⟩
/-- SEC + 0x44 [8:1]. -/
def Reg.secMbxStatus_result : Fld := ⟨0xd00044, 1, 8⟩
/-- Low address of the pair at SEC + 0x8. -/
def Reg.secFwVersion : Nat := 0xd00008
/-- BIST + 0x0 [0:0]. -/
def Reg.bistControl_atShutdown : Fld := ⟨0xe00000, 0, 1⟩
/-- BIST + 0x0 [1:1]. -/
def Reg.bistControl_fullNext : Fld := ⟨0xe00000, 1, 1⟩
/-- BIST + 0x4 [2:0]. -/
def Reg.bistRecord_state : Fld := ⟨0xe00004, 0, 3⟩
/-- BIST + 0x4 [6:3]. -/
def Reg.bistRecord_deferCause : Fld := ⟨0xe00004, 3, 4⟩
/-- BIST + 0x4 [15:8]. -/
def Reg.bistRecord_failedItems : Fld := ⟨0xe00004, 8, 8⟩
/-- BIST + 0x30 [0:0]. -/
def Reg.bistStartup_full : Fld := ⟨0xe00030, 0, 1⟩
/-- BIST + 0x30 [1:1]. -/
def Reg.bistStartup_passed : Fld := ⟨0xe00030, 1, 1⟩
/-- BIST + 0x30 [13:2]. -/
def Reg.bistStartup_durationMs : Fld := ⟨0xe00030, 2, 12⟩
/-- BIST + 0x58 [2:0]. -/
def Reg.bistCounterClear_clear : Fld := ⟨0xe00058, 0, 3⟩
/-- EVT + 0x0 [23:0]. -/
def Reg.evtRingOffset_offset4kib (p : Nat) : Fld := ⟨0xf00000 + 0x1000 * p, 0, 24⟩
/-- EVT + 0x4 [4:0]. -/
def Reg.evtRingSize_sizeLog2 (p : Nat) : Fld := ⟨0xf00004 + 0x1000 * p, 0, 5⟩
/-- EVT + 0x4 [5:5]. -/
def Reg.evtRingSize_enable (p : Nat) : Fld := ⟨0xf00004 + 0x1000 * p, 5, 1⟩
/-- EVT + 0x10 [2:0]. -/
def Reg.evtFilter_irqSeverity (p : Nat) : Fld := ⟨0xf00010 + 0x1000 * p, 0, 3⟩
/-- EVT + 0x10 [3:3]. -/
def Reg.evtFilter_irqEnable (p : Nat) : Fld := ⟨0xf00010 + 0x1000 * p, 3, 1⟩
/-- EVT + 0x10 [10:4]. -/
def Reg.evtFilter_msixVector (p : Nat) : Fld := ⟨0xf00010 + 0x1000 * p, 4, 7⟩
/-- EVT + 0x14 [0:0]. -/
def Reg.evtStatus_overrun (p : Nat) : Fld := ⟨0xf00014 + 0x1000 * p, 0, 1⟩
/-- EVT + 0x18 [15:0]. -/
def Reg.evtLast_code (p : Nat) : Fld := ⟨0xf00018 + 0x1000 * p, 0, 16⟩
/-- EVT + 0x18 [19:16]. -/
def Reg.evtLast_severity (p : Nat) : Fld := ⟨0xf00018 + 0x1000 * p, 16, 4⟩
/-- EVT + 0x50 [1:0]. -/
def Reg.evtCounterClear_clear (p : Nat) : Fld := ⟨0xf00050 + 0x1000 * p, 0, 2⟩
/-- EVT + 0x8 [31:0]. -/
def Reg.evtRingHead (p : Nat) : Fld := ⟨0xf00008 + 0x1000 * p, 0, 32⟩
/-- EVT + 0xc [31:0]. -/
def Reg.evtRingTail (p : Nat) : Fld := ⟨0xf0000c + 0x1000 * p, 0, 32⟩
/-- CORE + 0x0 [0:0]. -/
def Reg.coreStatus_present (c : Nat) : Fld := ⟨0x1000000 + 0x10000 * c, 0, 1⟩
/-- CORE + 0x0 [3:1]. -/
def Reg.coreStatus_state (c : Nat) : Fld := ⟨0x1000000 + 0x10000 * c, 1, 3⟩
/-- CORE + 0x0 [6:4]. -/
def Reg.coreStatus_form (c : Nat) : Fld := ⟨0x1000000 + 0x10000 * c, 4, 3⟩
/-- CORE + 0x0 [7:7]. -/
def Reg.coreStatus_longSum (c : Nat) : Fld := ⟨0x1000000 + 0x10000 * c, 7, 1⟩
/-- CORE + 0x0 [8:8]. -/
def Reg.coreStatus_creditWait (c : Nat) : Fld := ⟨0x1000000 + 0x10000 * c, 8, 1⟩
/-- CORE + 0x4 [15:0]. -/
def Reg.coreTask_task (c : Nat) : Fld := ⟨0x1000004 + 0x10000 * c, 0, 16⟩
/-- CORE + 0x4 [19:16]. -/
def Reg.coreTask_graph (c : Nat) : Fld := ⟨0x1000004 + 0x10000 * c, 16, 4⟩
/-- CORE + 0x8 [15:0]. -/
def Reg.coreTaskExposure_exposure (c : Nat) : Fld := ⟨0x1000008 + 0x10000 * c, 0, 16⟩
/-- CORE + 0xc [16:0]. -/
def Reg.coreTilespace_tileSpace64b (c : Nat) : Fld := ⟨0x100000c + 0x10000 * c, 0, 17⟩
/-- CORE + 0x10 [12:0]. -/
def Reg.coreQueueError_queue (c : Nat) : Fld := ⟨0x1000010 + 0x10000 * c, 0, 13⟩
/-- CORE + 0x10 [13:13]. -/
def Reg.coreQueueError_valid (c : Nat) : Fld := ⟨0x1000010 + 0x10000 * c, 13, 1⟩
/-- CORE + 0x80 [7:0]. -/
def Reg.coreCounterClear_clear (c : Nat) : Fld := ⟨0x1000080 + 0x10000 * c, 0, 8⟩
/-- CORE + 0x90 [2:0]. -/
def Reg.coreEnlTiling_form (c : Nat) : Fld := ⟨0x1000090 + 0x10000 * c, 0, 3⟩
/-- CORE + 0x90 [4:3]. -/
def Reg.coreEnlTiling_order (c : Nat) : Fld := ⟨0x1000090 + 0x10000 * c, 3, 2⟩
/-- CORE + 0x90 [5:5]. -/
def Reg.coreEnlTiling_reference (c : Nat) : Fld := ⟨0x1000090 + 0x10000 * c, 5, 1⟩
/-- CORE + 0x90 [12:6]. -/
def Reg.coreEnlTiling_gM (c : Nat) : Fld := ⟨0x1000090 + 0x10000 * c, 6, 7⟩
/-- CORE + 0x90 [19:13]. -/
def Reg.coreEnlTiling_gN (c : Nat) : Fld := ⟨0x1000090 + 0x10000 * c, 13, 7⟩
/-- CORE + 0x90 [20:20]. -/
def Reg.coreEnlTiling_folded (c : Nat) : Fld := ⟨0x1000090 + 0x10000 * c, 20, 1⟩
/-- CORE + 0xc8 [4:0]. -/
def Reg.coreEnlCounterClear_clear (c : Nat) : Fld := ⟨0x10000c8 + 0x10000 * c, 0, 5⟩
/-- CORE + 0xf8 [4:0]. -/
def Reg.coreAttnCounterClear_clear (c : Nat) : Fld := ⟨0x10000f8 + 0x10000 * c, 0, 5⟩
/-- CORE + 0x130 [5:0]. -/
def Reg.coreDspCounterClear_clear (c : Nat) : Fld := ⟨0x1000130 + 0x10000 * c, 0, 6⟩
/-- CORE + 0x134 [11:0]. -/
def Reg.coreDspLastOverflow_expert (c : Nat) : Fld := ⟨0x1000134 + 0x10000 * c, 0, 12⟩
/-- CORE + 0x134 [19:12]. -/
def Reg.coreDspLastOverflow_layer (c : Nat) : Fld := ⟨0x1000134 + 0x10000 * c, 12, 8⟩
/-- CORE + 0x134 [20:20]. -/
def Reg.coreDspLastOverflow_valid (c : Nat) : Fld := ⟨0x1000134 + 0x10000 * c, 20, 1⟩
/-- CORE + 0x170 [5:0]. -/
def Reg.coreImgCounterClear_clear (c : Nat) : Fld := ⟨0x1000170 + 0x10000 * c, 0, 6⟩
/-- CORE + 0x94 [31:0]. -/
def Reg.coreEnlTileM (c : Nat) : Fld := ⟨0x1000094 + 0x10000 * c, 0, 32⟩
/-- CORE + 0x98 [31:0]. -/
def Reg.coreEnlTileN (c : Nat) : Fld := ⟨0x1000098 + 0x10000 * c, 0, 32⟩
/-- CORE + 0x9c [31:0]. -/
def Reg.coreEnlTileK (c : Nat) : Fld := ⟨0x100009c + 0x10000 * c, 0, 32⟩

/-- Counter slip_count, TICK + 0x60 (R441). -/
def Ctr.tickSlipCount (p : Nat) : Nat := 0x100060 + 0x1000 * p
/-- Counter spare_used_count, TICK + 0x68 (R441). -/
def Ctr.tickSpareUsedCount (p : Nat) : Nat := 0x100068 + 0x1000 * p
/-- Counter hold_count, TICK + 0x70 (R441). -/
def Ctr.tickHoldCount (p : Nat) : Nat := 0x100070 + 0x1000 * p
/-- Counter refusal_count, TICK + 0x78 (R441). -/
def Ctr.tickRefusalCount (p : Nat) : Nat := 0x100078 + 0x1000 * p
/-- Counter floor_breach_count, TICK + 0x80 (R441). -/
def Ctr.tickFloorBreachCount (p : Nat) : Nat := 0x100080 + 0x1000 * p
/-- Counter barrier_late_count, TICK + 0x88 (R441). -/
def Ctr.tickBarrierLateCount (p : Nat) : Nat := 0x100088 + 0x1000 * p
/-- Counter done_count, RING + 0x40 (R441). -/
def Ctr.ringDoneCount (n : Nat) : Nat := 0x200040 + 0x100 * n
/-- Counter refused_count, RING + 0x48 (R441). -/
def Ctr.ringRefusedCount (n : Nat) : Nat := 0x200048 + 0x100 * n
/-- Counter doorbell_refused_count, RING + 0x50 (R441). -/
def Ctr.ringDoorbellRefusedCount (n : Nat) : Nat := 0x200050 + 0x100 * n
/-- Counter clamps_logged, WIN + 0x800 (R441). -/
def Ctr.winClampsLogged (p : Nat) : Nat := 0x300800 + 0x1000 * p
/-- Counter clamp_lost, WIN + 0x808 (R441). -/
def Ctr.winClampLost (p : Nat) : Nat := 0x300808 + 0x1000 * p
/-- Counter tasks_done_count, CORE + 0x40 (R441). -/
def Ctr.coreTasksDoneCount (c : Nat) : Nat := 0x1000040 + 0x10000 * c
/-- Counter tiles_issued_count, CORE + 0x48 (R441). -/
def Ctr.coreTilesIssuedCount (c : Nat) : Nat := 0x1000048 + 0x10000 * c
/-- Counter array_busy_count, CORE + 0x50 (R441). -/
def Ctr.coreArrayBusyCount (c : Nat) : Nat := 0x1000050 + 0x10000 * c
/-- Counter illegal_tile_count, CORE + 0x58 (R441). -/
def Ctr.coreIllegalTileCount (c : Nat) : Nat := 0x1000058 + 0x10000 * c
/-- Counter credit_wait_count, CORE + 0x60 (R441). -/
def Ctr.coreCreditWaitCount (c : Nat) : Nat := 0x1000060 + 0x10000 * c
/-- Counter blank_frame_count, CORE + 0x68 (R441). -/
def Ctr.coreBlankFrameCount (c : Nat) : Nat := 0x1000068 + 0x10000 * c
/-- Counter queue_reset_count, CORE + 0x70 (R441). -/
def Ctr.coreQueueResetCount (c : Nat) : Nat := 0x1000070 + 0x10000 * c
/-- Counter index_range_count, CORE + 0x78 (R441). -/
def Ctr.coreIndexRangeCount (c : Nat) : Nat := 0x1000078 + 0x10000 * c
/-- Counter replay_count, NUM + 0x40 (R441). -/
def Ctr.numReplayCount : Nat := 0x500040
/-- Counter hit_element_count, NUM + 0x48 (R441). -/
def Ctr.numHitElementCount : Nat := 0x500048
/-- Counter numeric_fault_count, NUM + 0x50 (R441). -/
def Ctr.numNumericFaultCount : Nat := 0x500050
/-- Counter promotion_expired_count, NUM + 0x58 (R441). -/
def Ctr.numPromotionExpiredCount : Nat := 0x500058
/-- Counter unlayered_hit_count, NUM + 0x60 (R441). -/
def Ctr.numUnlayeredHitCount : Nat := 0x500060
/-- Counter sr_saturated_count, NUM + 0x68 (R441). -/
def Ctr.numSrSaturatedCount : Nat := 0x500068
/-- Counter tilings_count, CORE + 0xa0 (R441). -/
def Ctr.coreTilingsCount (c : Nat) : Nat := 0x10000a0 + 0x10000 * c
/-- Counter cache_hit_count, CORE + 0xa8 (R441). -/
def Ctr.coreCacheHitCount (c : Nat) : Nat := 0x10000a8 + 0x10000 * c
/-- Counter reference_used_count, CORE + 0xb0 (R441). -/
def Ctr.coreReferenceUsedCount (c : Nat) : Nat := 0x10000b0 + 0x10000 * c
/-- Counter tiling_late_count, CORE + 0xb8 (R441). -/
def Ctr.coreTilingLateCount (c : Nat) : Nat := 0x10000b8 + 0x10000 * c
/-- Counter frozen_skip_count, CORE + 0xc0 (R441). -/
def Ctr.coreFrozenSkipCount (c : Nat) : Nat := 0x10000c0 + 0x10000 * c
/-- Counter attn_blocks_count, CORE + 0xd0 (R441). -/
def Ctr.coreAttnBlocksCount (c : Nat) : Nat := 0x10000d0 + 0x10000 * c
/-- Counter attn_skipped_count, CORE + 0xd8 (R441). -/
def Ctr.coreAttnSkippedCount (c : Nat) : Nat := 0x10000d8 + 0x10000 * c
/-- Counter attn_dropped_count, CORE + 0xe0 (R441). -/
def Ctr.coreAttnDroppedCount (c : Nat) : Nat := 0x10000e0 + 0x10000 * c
/-- Counter mask_error_count, CORE + 0xe8 (R441). -/
def Ctr.coreMaskErrorCount (c : Nat) : Nat := 0x10000e8 + 0x10000 * c
/-- Counter empty_row_count, CORE + 0xf0 (R441). -/
def Ctr.coreEmptyRowCount (c : Nat) : Nat := 0x10000f0 + 0x10000 * c
/-- Counter cow_copy_count, MEM + 0x40c0 (R441). -/
def Ctr.memCowCopyCount : Nat := 0x6040c0
/-- Counter context_full_count, MEM + 0x40c8 (R441). -/
def Ctr.memContextFullCount : Nat := 0x6040c8
/-- Counter context_refused_count, MEM + 0x40d0 (R441). -/
def Ctr.memContextRefusedCount : Nat := 0x6040d0
/-- Counter pages_freed_count, MEM + 0x40d8 (R441). -/
def Ctr.memPagesFreedCount : Nat := 0x6040d8
/-- Counter tokens_routed_count, CORE + 0x100 (R441). -/
def Ctr.coreTokensRoutedCount (c : Nat) : Nat := 0x1000100 + 0x10000 * c
/-- Counter choice_overflow_count, CORE + 0x108 (R441). -/
def Ctr.coreChoiceOverflowCount (c : Nat) : Nat := 0x1000108 + 0x10000 * c
/-- Counter residual_only_count, CORE + 0x110 (R441). -/
def Ctr.coreResidualOnlyCount (c : Nat) : Nat := 0x1000110 + 0x10000 * c
/-- Counter variant_rows_count, CORE + 0x118 (R441). -/
def Ctr.coreVariantRowsCount (c : Nat) : Nat := 0x1000118 + 0x10000 * c
/-- Counter variant_overflow_count, CORE + 0x120 (R441). -/
def Ctr.coreVariantOverflowCount (c : Nat) : Nat := 0x1000120 + 0x10000 * c
/-- Counter variant_unserved_count, CORE + 0x128 (R441). -/
def Ctr.coreVariantUnservedCount (c : Nat) : Nat := 0x1000128 + 0x10000 * c
/-- Counter halo_entries_count, CORE + 0x140 (R441). -/
def Ctr.coreHaloEntriesCount (c : Nat) : Nat := 0x1000140 + 0x10000 * c
/-- Counter dilation_shortcut_count, CORE + 0x148 (R441). -/
def Ctr.coreDilationShortcutCount (c : Nat) : Nat := 0x1000148 + 0x10000 * c
/-- Counter boxes_count, CORE + 0x150 (R441). -/
def Ctr.coreBoxesCount (c : Nat) : Nat := 0x1000150 + 0x10000 * c
/-- Counter box_clamped_count, CORE + 0x158 (R441). -/
def Ctr.coreBoxClampedCount (c : Nat) : Nat := 0x1000158 + 0x10000 * c
/-- Counter box_invalid_count, CORE + 0x160 (R441). -/
def Ctr.coreBoxInvalidCount (c : Nat) : Nat := 0x1000160 + 0x10000 * c
/-- Counter argmax_nan_count, CORE + 0x168 (R441). -/
def Ctr.coreArgmaxNanCount (c : Nat) : Nat := 0x1000168 + 0x10000 * c
/-- Counter neg_out_count, MEM + 0x200 (R441). -/
def Ctr.memNegOutCount : Nat := 0x600200
/-- Counter neg_in_count, MEM + 0x208 (R441). -/
def Ctr.memNegInCount : Nat := 0x600208
/-- Counter grain_written_count, CODEC + 0x40 (R441). -/
def Ctr.codecGrainWrittenCount (p : Nat) : Nat := 0x700040 + 0x1000 * p
/-- Counter grain_read_count, CODEC + 0x48 (R441). -/
def Ctr.codecGrainReadCount (p : Nat) : Nat := 0x700048 + 0x1000 * p
/-- Counter clear_coded_count, CODEC + 0x50 (R441). -/
def Ctr.codecClearCodedCount (p : Nat) : Nat := 0x700050 + 0x1000 * p
/-- Counter clear_raw_count, CODEC + 0x58 (R441). -/
def Ctr.codecClearRawCount (p : Nat) : Nat := 0x700058 + 0x1000 * p
/-- Counter clear_zero_count, CODEC + 0x60 (R441). -/
def Ctr.codecClearZeroCount (p : Nat) : Nat := 0x700060 + 0x1000 * p
/-- Counter codec_error_count, CODEC + 0x68 (R441). -/
def Ctr.codecCodecErrorCount (p : Nat) : Nat := 0x700068 + 0x1000 * p
/-- Counter update_tasks_count, DEV + 0x40 (R441). -/
def Ctr.devUpdateTasksCount : Nat := 0x800040
/-- Counter params_updated_count, DEV + 0x48 (R441). -/
def Ctr.devParamsUpdatedCount : Nat := 0x800048
/-- Counter frozen_discard_count, DEV + 0x50 (R441). -/
def Ctr.devFrozenDiscardCount : Nat := 0x800050
/-- Counter untouched_skip_count, DEV + 0x58 (R441). -/
def Ctr.devUntouchedSkipCount : Nat := 0x800058
/-- Counter rows_skipped_count, DEV + 0x60 (R441). -/
def Ctr.devRowsSkippedCount : Nat := 0x800060
/-- Counter rows_caught_up_count, DEV + 0x68 (R441). -/
def Ctr.devRowsCaughtUpCount : Nat := 0x800068
/-- Counter torn_count, DEV + 0x70 (R441). -/
def Ctr.devTornCount : Nat := 0x800070
/-- Counter slot_missed_count, FAB + 0x80 (R441). -/
def Ctr.fabSlotMissedCount : Nat := 0x900080
/-- Counter landing_wait_count, FAB + 0x88 (R441). -/
def Ctr.fabLandingWaitCount : Nat := 0x900088
/-- Counter reductions_count, FAB + 0x90 (R441). -/
def Ctr.fabReductionsCount : Nat := 0x900090
/-- Counter scale_mismatch_count, FAB + 0x98 (R441). -/
def Ctr.fabScaleMismatchCount : Nat := 0x900098
/-- Counter starve_grant_count, FAB + 0xa0 (R441). -/
def Ctr.fabStarveGrantCount : Nat := 0x9000a0
/-- Counter route_switch_count, FAB + 0xa8 (R441). -/
def Ctr.fabRouteSwitchCount : Nat := 0x9000a8
/-- Counter unroutable_count, FAB + 0xb0 (R441). -/
def Ctr.fabUnroutableCount : Nat := 0x9000b0
/-- Counter samples_count, INT + 0x100 (R441). -/
def Ctr.intSamplesCount (u : Nat) : Nat := 0xa00100 + 0x1000 * u
/-- Counter corrupt_crc_count, INT + 0x108 (R441). -/
def Ctr.intCorruptCrcCount (u : Nat) : Nat := 0xa00108 + 0x1000 * u
/-- Counter corrupt_header_count, INT + 0x110 (R441). -/
def Ctr.intCorruptHeaderCount (u : Nat) : Nat := 0xa00110 + 0x1000 * u
/-- Counter corrupt_decode_count, INT + 0x118 (R441). -/
def Ctr.intCorruptDecodeCount (u : Nat) : Nat := 0xa00118 + 0x1000 * u
/-- Counter slow_count, INT + 0x120 (R441). -/
def Ctr.intSlowCount (u : Nat) : Nat := 0xa00120 + 0x1000 * u
/-- Counter replaced_count, INT + 0x128 (R441). -/
def Ctr.intReplacedCount (u : Nat) : Nat := 0xa00128 + 0x1000 * u
/-- Counter padded_rows_count, INT + 0x130 (R441). -/
def Ctr.intPaddedRowsCount (u : Nat) : Nat := 0xa00130 + 0x1000 * u
/-- Counter serving_dropped_count, INT + 0x138 (R441). -/
def Ctr.intServingDroppedCount (u : Nat) : Nat := 0xa00138 + 0x1000 * u
/-- Counter truncated_count, INT + 0x140 (R441). -/
def Ctr.intTruncatedCount (u : Nat) : Nat := 0xa00140 + 0x1000 * u
/-- Counter fallback_bytes_count, INT + 0x148 (R441). -/
def Ctr.intFallbackBytesCount (u : Nat) : Nat := 0xa00148 + 0x1000 * u
/-- Counter takes_count, INT + 0x150 (R441). -/
def Ctr.intTakesCount (u : Nat) : Nat := 0xa00150 + 0x1000 * u
/-- Counter sweeps_count, SURV + 0x200 (R441). -/
def Ctr.survSweepsCount : Nat := 0xb00200
/-- Counter groups_sealed_count, SURV + 0x208 (R441). -/
def Ctr.survGroupsSealedCount : Nat := 0xb00208
/-- Counter mirror_seals_count, SURV + 0x210 (R441). -/
def Ctr.survMirrorSealsCount : Nat := 0xb00210
/-- Counter seal_invalid_count, SURV + 0x218 (R441). -/
def Ctr.survSealInvalidCount : Nat := 0xb00218
/-- Counter restores_count, SURV + 0x220 (R441). -/
def Ctr.survRestoresCount : Nat := 0xb00220
/-- Counter partial_steps_count, SURV + 0x228 (R441). -/
def Ctr.survPartialStepsCount : Nat := 0xb00228
/-- Counter ue_transient_count, SURV + 0x230 (R441). -/
def Ctr.survUeTransientCount : Nat := 0xb00230
/-- Counter ue_persistent_count, SURV + 0x238 (R441). -/
def Ctr.survUePersistentCount : Nat := 0xb00238
/-- Counter fixer_wait_count, SURV + 0x240 (R441). -/
def Ctr.survFixerWaitCount : Nat := 0xb00240
/-- Counter takeovers_count, SURV + 0x248 (R441). -/
def Ctr.survTakeoversCount : Nat := 0xb00248
/-- Counter droop_count, PWR + 0x40 (R441). -/
def Ctr.pwrDroopCount : Nat := 0xc00040
/-- Counter bus_low_count, PWR + 0x48 (R441). -/
def Ctr.pwrBusLowCount : Nat := 0xc00048
/-- Counter surge_count, PWR + 0x50 (R441). -/
def Ctr.pwrSurgeCount : Nat := 0xc00050
/-- Counter throttle_step_count, PWR + 0x58 (R441). -/
def Ctr.pwrThrottleStepCount : Nat := 0xc00058
/-- Counter thermal_throttle_count, PWR + 0x60 (R441). -/
def Ctr.pwrThermalThrottleCount : Nat := 0xc00060
/-- Counter cap_exceeded_count, PWR + 0x68 (R441). -/
def Ctr.pwrCapExceededCount : Nat := 0xc00068
/-- Counter c3_entry_count, PWR + 0x70 (R441). -/
def Ctr.pwrC3EntryCount : Nat := 0xc00070
/-- Counter lane_sleep_count, PWR + 0x78 (R441). -/
def Ctr.pwrLaneSleepCount : Nat := 0xc00078
/-- Counter sessions_count, SEC + 0x80 (R441). -/
def Ctr.secSessionsCount : Nat := 0xd00080
/-- Counter auth_fail_count, SEC + 0x88 (R441). -/
def Ctr.secAuthFailCount : Nat := 0xd00088
/-- Counter fabric_tag_fail_count, SEC + 0x90 (R441). -/
def Ctr.secFabricTagFailCount : Nat := 0xd00090
/-- Counter bist_run_count, BIST + 0x40 (R441). -/
def Ctr.bistBistRunCount : Nat := 0xe00040
/-- Counter bist_deferred_count, BIST + 0x48 (R441). -/
def Ctr.bistBistDeferredCount : Nat := 0xe00048
/-- Counter bist_failed_count, BIST + 0x50 (R441). -/
def Ctr.bistBistFailedCount : Nat := 0xe00050
/-- Counter events_written_count, EVT + 0x40 (R441). -/
def Ctr.evtEventsWrittenCount (p : Nat) : Nat := 0xf00040 + 0x1000 * p
/-- Counter events_lost_count, EVT + 0x48 (R441). -/
def Ctr.evtEventsLostCount (p : Nat) : Nat := 0xf00048 + 0x1000 * p
/-- Pool counter reclaim (R97). -/
def Ctr.poolReclaim (p q : Nat) : Nat := 0x300400 + 0x1000 * p + 0x40 * q
/-- Pool counter staleFlip (R97). -/
def Ctr.poolStaleFlip (p q : Nat) : Nat := 0x300408 + 0x1000 * p + 0x40 * q
/-- Pool counter dropped (R97). -/
def Ctr.poolDropped (p q : Nat) : Nat := 0x300410 + 0x1000 * p + 0x40 * q
/-- Pool counter consumed (R97). -/
def Ctr.poolConsumed (p q : Nat) : Nat := 0x300418 + 0x1000 * p + 0x40 * q
/-- Port counter fecCorrected (R339). -/
def Ctr.portFecCorrected (n : Nat) : Nat := 0x901000 + 0x40 * n
/-- Port counter flitReplay (R339). -/
def Ctr.portFlitReplay (n : Nat) : Nat := 0x901008 + 0x40 * n
/-- Port counter laneRetrain (R339). -/
def Ctr.portLaneRetrain (n : Nat) : Nat := 0x901010 + 0x40 * n
/-- Port counter staleDrop (R339). -/
def Ctr.portStaleDrop (n : Nat) : Nat := 0x901018 + 0x40 * n

/-- The block and the instance that a BAR0 address lies in. -/
def RegMap.locate (a : Nat) : Option (BlockSpec × Nat) :=
  RegMap.blocks.findSome? (fun b =>
    if b.base ≤ a then
      let i := if b.stride = 0 then 0 else (a - b.base) / b.stride
      if i < b.count ∧ a - b.base - i * b.stride < b.extent then some (b, i) else none
    else none)

/-- Offset of a BAR0 address in its instance. -/
def BlockSpec.offset (b : BlockSpec) (i a : Nat) : Nat := a - b.base - i * b.stride

/-- The fields of the register at BAR0 address `a`. -/
def RegMap.fieldsAt (a : Nat) : List FieldSpec :=
  match RegMap.locate a with
  | some (b, i) => b.fields.filter (fun f => f.off = b.offset i a)
  | none => []

/-- The reset value of the register at BAR0 address `a` (R7: the Reset column). -/
def RegMap.resetOf (a : Nat) : Nat :=
  (RegMap.fieldsAt a).foldl (fun acc f => acc + f.reset * 2 ^ f.lo) 0

/-- `a` is the low address of a 64-bit pair or of a counter (R7, R441). -/
def RegMap.isPairLo (a : Nat) : Bool :=
  match RegMap.locate a with
  | some (b, i) => b.pairs.contains (b.offset i a) || b.counters.contains (b.offset i a)
  | none => false

/-- `a` is the low address of a statistic counter (R441). -/
def RegMap.isCounterLo (a : Nat) : Bool :=
  match RegMap.locate a with
  | some (b, i) => b.counters.contains (b.offset i a)
  | none => false

/-- `a` is the high address of a pair or counter. -/
def RegMap.isPairHi (a : Nat) : Bool := decide (4 ≤ a) && RegMap.isPairLo (a - 4)

/-- The counters (their low BAR0 addresses) that the bits of the clear register at `a` clear, in bit order. -/
def RegMap.clearedBy (a : Nat) : Option (List Nat) :=
  match RegMap.locate a with
  | some (b, i) => (b.clears.find? (fun c => c.1 = b.offset i a)).map (fun c => c.2.map (fun o => b.base + b.stride * i + o))
  | none => none

end Sys2Proof.Machine
end

