-- ==== Sys2Proof/Machine/Indexed.lean ====
section
/-! DEFINITION. Named fields and pairs of the registers that repeat inside one block: per partition in MEM (R276), per
compute die (R204), per channel and class in INT (R361), per input in SURV (R389), and per partition in SEC (R430). -/

namespace Sys2Proof.Machine

/-- MEM_NEG_PART_BASE_p.base_gib (R276). -/
def Reg.memNegPartBase (p : Nat) : Fld := ⟨0x600010 + 8 * p, 0, 16⟩
/-- MEM_NEG_PART_SIZE_p.size_gib (R276). -/
def Reg.memNegPartSize (p : Nat) : Fld := ⟨0x600014 + 8 * p, 0, 16⟩
/-- MEM_LEDGER_p.peak_hbm (R276), low address of the pair. -/
def Reg.memPeakHbm (p : Nat) : Nat := 0x600100 + 0x20 * p
/-- MEM_LEDGER_p.peak_neg (R276), low address of the pair. -/
def Reg.memPeakNeg (p : Nat) : Nat := 0x600108 + 0x20 * p
/-- MEM_LEDGER_p.peak_exposure (R276). -/
def Reg.memPeakExposure (p : Nat) : Fld := ⟨0x600110 + 0x20 * p, 0, 16⟩
/-- KV_POOL_BASE_d (R205), low address of the pair. -/
def Reg.kvPoolBase (d : Nat) : Nat := 0x604010 + 0x10 * d
/-- KV_POOL_PAGES_d.pages (R205). -/
def Reg.kvPoolPages (d : Nat) : Fld := ⟨0x604018 + 0x10 * d, 0, 25⟩
/-- INT_MEAN_* of class `c` of intake unit `u` (R361): 0 frame, 1 Grain, 2 text. -/
def Reg.intMean (u c : Nat) : Fld := ⟨0xA0000C + 0x1000 * u + 4 * c, 0, 32⟩
/-- INT_NORM_MEAN_c of intake unit `u` (R361). -/
def Reg.intNormMean (u c : Nat) : Fld := ⟨0xA00020 + 0x1000 * u + 8 * c, 0, 32⟩
/-- INT_NORM_SCALE_c of intake unit `u` (R361). -/
def Reg.intNormScale (u c : Nat) : Fld := ⟨0xA00024 + 0x1000 * u + 8 * c, 0, 32⟩
/-- INT_DICT_ID_b of intake unit `u` (R361). -/
def Reg.intDictId (u b : Nat) : Fld := ⟨0xA00044 + 0x1000 * u + 4 * b, 0, 32⟩
/-- SURV_INPUT_i.weight (R389). -/
def Reg.survInputWeight (i : Nat) : Fld := ⟨0xB00100 + 0x10 * i, 0, 10⟩
/-- SURV_INPUT_i full scale (R389). -/
def Reg.survInputFull (i : Nat) : Fld := ⟨0xB00104 + 0x10 * i, 0, 24⟩
/-- SURV_INPUT_i contribution (R389). -/
def Reg.survInputScore (i : Nat) : Fld := ⟨0xB00108 + 0x10 * i, 0, 10⟩
/-- SURV_INPUT_i raw value (R389). -/
def Reg.survInputRaw (i : Nat) : Fld := ⟨0xB0010C + 0x10 * i, 0, 32⟩
/-- SEC_SESSION_p.bound (R430). -/
def Reg.secBound (p : Nat) : Fld := ⟨0xD00020 + 4 * p, 0, 1⟩
/-- SEC_SESSION_p.fabric_key (R430). -/
def Reg.secFabricKey (p : Nat) : Fld := ⟨0xD00020 + 4 * p, 1, 1⟩
/-- SEC_PARTITION_MAP: the partition of compute die `d` (R430). -/
def Reg.secDiePartition (d : Nat) : Fld := ⟨0xD00018, 2 * d, 2⟩

end Sys2Proof.Machine
end

