-- ==== Sys2Proof/Machine/EventCodes.lean ====
section
/-! DEFINITION. The event codes of R436: every mnemonic of the manual with its 16-bit code and its severity. -/

namespace Sys2Proof.Machine

/-- An event kind: its 16-bit code and its severity (R434, R436). -/
structure EvKind where
  code : Nat
  sev : Nat
  deriving DecidableEq, Repr

/-- EV_PLAN_ADMITTED. -/
def Ev.planAdmitted : EvKind := ⟨0x0101, 0⟩
/-- EV_PLAN_REFUSED. -/
def Ev.planRefused : EvKind := ⟨0x0102, 2⟩
/-- EV_PLAN_WITHDRAWN. -/
def Ev.planWithdrawn : EvKind := ⟨0x0103, 0⟩
/-- EV_CORE_SLIP. -/
def Ev.coreSlip : EvKind := ⟨0x0104, 1⟩
/-- EV_SPARE_USED. -/
def Ev.spareUsed : EvKind := ⟨0x0105, 1⟩
/-- EV_STEP_HELD. -/
def Ev.stepHeld : EvKind := ⟨0x0106, 2⟩
/-- EV_STEP_RELEASED. -/
def Ev.stepReleased : EvKind := ⟨0x0107, 1⟩
/-- EV_STEP_HOLD_LIMIT. -/
def Ev.stepHoldLimit : EvKind := ⟨0x0108, 4⟩
/-- EV_STEP_FAULT. -/
def Ev.stepFault : EvKind := ⟨0x0109, 4⟩
/-- EV_BARRIER_LATE. -/
def Ev.barrierLate : EvKind := ⟨0x010A, 1⟩
/-- EV_TIME_LOCK_LOST. -/
def Ev.timeLockLost : EvKind := ⟨0x010B, 3⟩
/-- EV_TIME_LOCKED. -/
def Ev.timeLocked : EvKind := ⟨0x010C, 0⟩
/-- EV_STAMP_SEQ_SATURATED. -/
def Ev.stampSeqSaturated : EvKind := ⟨0x010D, 2⟩
/-- EV_FLOOR_BREACH. -/
def Ev.floorBreach : EvKind := ⟨0x010E, 3⟩
/-- EV_REG_ACCESS_BAD. -/
def Ev.regAccessBad : EvKind := ⟨0x0201, 2⟩
/-- EV_REG_WRITE_REFUSED. -/
def Ev.regWriteRefused : EvKind := ⟨0x0202, 2⟩
/-- EV_FIELD_CLAMPED. -/
def Ev.fieldClamped : EvKind := ⟨0x0203, 1⟩
/-- EV_CLAMP_LOG_FULL. -/
def Ev.clampLogFull : EvKind := ⟨0x0204, 2⟩
/-- EV_DOORBELL_BAD. -/
def Ev.doorbellBad : EvKind := ⟨0x0205, 3⟩
/-- EV_RING_ERROR. -/
def Ev.ringError : EvKind := ⟨0x0206, 3⟩
/-- EV_WIN_ACCESS_BAD. -/
def Ev.winAccessBad : EvKind := ⟨0x0207, 2⟩
/-- EV_SLOT_FLIP_REFUSED. -/
def Ev.slotFlipRefused : EvKind := ⟨0x0208, 1⟩
/-- EV_SLOT_RECLAIMED. -/
def Ev.slotReclaimed : EvKind := ⟨0x0209, 1⟩
/-- EV_SLOT_STARVED. -/
def Ev.slotStarved : EvKind := ⟨0x020A, 2⟩
/-- EV_PLAN_LOADED. -/
def Ev.planLoaded : EvKind := ⟨0x020B, 0⟩
/-- EV_PLAN_LOAD_REFUSED. -/
def Ev.planLoadRefused : EvKind := ⟨0x020C, 2⟩
/-- EV_HOST_PORT_RESET. -/
def Ev.hostPortReset : EvKind := ⟨0x020D, 2⟩
/-- EV_COUNTER_SATURATED. -/
def Ev.counterSaturated : EvKind := ⟨0x020E, 2⟩
/-- EV_EVENT_LOG_OVERRUN. -/
def Ev.eventLogOverrun : EvKind := ⟨0x020F, 3⟩
/-- EV_CORE_FAILED. -/
def Ev.coreFailed : EvKind := ⟨0x0301, 3⟩
/-- EV_D2D_LINK_DOWN. -/
def Ev.d2dLinkDown : EvKind := ⟨0x0302, 5⟩
/-- EV_TILE_ILLEGAL. -/
def Ev.tileIllegal : EvKind := ⟨0x0303, 4⟩
/-- EV_INDEX_OUT_OF_RANGE. -/
def Ev.indexOutOfRange : EvKind := ⟨0x0304, 1⟩
/-- EV_CREDIT_WAIT. -/
def Ev.creditWait : EvKind := ⟨0x0305, 1⟩
/-- EV_QUEUE_PTR_MISMATCH. -/
def Ev.queuePtrMismatch : EvKind := ⟨0x0306, 3⟩
/-- EV_QUEUE_EMPTY_READ. -/
def Ev.queueEmptyRead : EvKind := ⟨0x0307, 0⟩
/-- EV_TILING_LATE. -/
def Ev.tilingLate : EvKind := ⟨0x0308, 2⟩
/-- EV_ATTN_MASK_ERROR. -/
def Ev.attnMaskError : EvKind := ⟨0x0309, 2⟩
/-- EV_ATTN_BLOCKS_DROPPED. -/
def Ev.attnBlocksDropped : EvKind := ⟨0x030A, 1⟩
/-- EV_EXPERT_OVERFLOW. -/
def Ev.expertOverflow : EvKind := ⟨0x030B, 1⟩
/-- EV_VARIANT_OVERFLOW. -/
def Ev.variantOverflow : EvKind := ⟨0x030C, 1⟩
/-- EV_VARIANT_UNSERVED. -/
def Ev.variantUnserved : EvKind := ⟨0x030D, 1⟩
/-- EV_BOX_INVALID. -/
def Ev.boxInvalid : EvKind := ⟨0x030E, 1⟩
/-- EV_BOX_CLAMPED. -/
def Ev.boxClamped : EvKind := ⟨0x030F, 1⟩
/-- EV_LAYER_REPLAY. -/
def Ev.layerReplay : EvKind := ⟨0x0401, 1⟩
/-- EV_PROMOTION_EXPIRED. -/
def Ev.promotionExpired : EvKind := ⟨0x0402, 0⟩
/-- EV_NUMERIC_FAULT. -/
def Ev.numericFault : EvKind := ⟨0x0403, 4⟩
/-- EV_NUMERIC_HIT_UNLAYERED. -/
def Ev.numericHitUnlayered : EvKind := ⟨0x0404, 1⟩
/-- EV_GRAD_SCALE_CHANGED. -/
def Ev.gradScaleChanged : EvKind := ⟨0x0405, 0⟩
/-- EV_SR_SATURATED. -/
def Ev.srSaturated : EvKind := ⟨0x0406, 2⟩
/-- EV_CODEC_TAG_ERROR. -/
def Ev.codecTagError : EvKind := ⟨0x0501, 3⟩
/-- EV_CODEC_STREAM_ERROR. -/
def Ev.codecStreamError : EvKind := ⟨0x0502, 3⟩
/-- EV_CLEAR_TABLE_LOADED. -/
def Ev.clearTableLoaded : EvKind := ⟨0x0503, 0⟩
/-- EV_CLEAR_GEN_CURRENT. -/
def Ev.clearGenCurrent : EvKind := ⟨0x0504, 0⟩
/-- EV_CLEAR_GEN_FREED. -/
def Ev.clearGenFreed : EvKind := ⟨0x0505, 0⟩
/-- EV_CLEAR_TABLE_REFUSED. -/
def Ev.clearTableRefused : EvKind := ⟨0x0506, 2⟩
/-- EV_CONTEXT_FULL. -/
def Ev.contextFull : EvKind := ⟨0x0507, 0⟩
/-- EV_CONTEXT_CLOSED. -/
def Ev.contextClosed : EvKind := ⟨0x0508, 0⟩
/-- EV_CONTEXT_REFUSED. -/
def Ev.contextRefused : EvKind := ⟨0x0509, 2⟩
/-- EV_UPDATE_DISCARDED. -/
def Ev.updateDiscarded : EvKind := ⟨0x0601, 0⟩
/-- EV_UPDATE_TORN. -/
def Ev.updateTorn : EvKind := ⟨0x0602, 3⟩
/-- EV_GROUP_FROZEN. -/
def Ev.groupFrozen : EvKind := ⟨0x0603, 0⟩
/-- EV_GROUP_STEP_SATURATED. -/
def Ev.groupStepSaturated : EvKind := ⟨0x0604, 2⟩
/-- EV_LANE_SPARED. -/
def Ev.laneSpared : EvKind := ⟨0x0701, 1⟩
/-- EV_PORT_DEGRADED. -/
def Ev.portDegraded : EvKind := ⟨0x0702, 2⟩
/-- EV_PORT_DOWN. -/
def Ev.portDown : EvKind := ⟨0x0703, 5⟩
/-- EV_LINK_REPLAY. -/
def Ev.linkReplay : EvKind := ⟨0x0704, 1⟩
/-- EV_PACKET_UNROUTABLE. -/
def Ev.packetUnroutable : EvKind := ⟨0x0705, 2⟩
/-- EV_SLOT_MISSED. -/
def Ev.slotMissed : EvKind := ⟨0x0706, 1⟩
/-- EV_LANDING_WAIT. -/
def Ev.landingWait : EvKind := ⟨0x0707, 1⟩
/-- EV_REDUCE_SCALE_MISMATCH. -/
def Ev.reduceScaleMismatch : EvKind := ⟨0x0708, 1⟩
/-- EV_RESHARD_REFUSED. -/
def Ev.reshardRefused : EvKind := ⟨0x0709, 2⟩
/-- EV_EPOCH_CHANGED. -/
def Ev.epochChanged : EvKind := ⟨0x070A, 0⟩
/-- EV_EPOCH_STALE_DROP. -/
def Ev.epochStaleDrop : EvKind := ⟨0x070B, 1⟩
/-- EV_EPOCH_DRAIN_FAIL. -/
def Ev.epochDrainFail : EvKind := ⟨0x070C, 4⟩
/-- EV_ROUTE_SWITCHED. -/
def Ev.routeSwitched : EvKind := ⟨0x070D, 2⟩
/-- EV_SAMPLE_CORRUPT. -/
def Ev.sampleCorrupt : EvKind := ⟨0x0801, 2⟩
/-- EV_SAMPLE_SLOW. -/
def Ev.sampleSlow : EvKind := ⟨0x0802, 2⟩
/-- EV_RESERVE_EMPTY. -/
def Ev.reserveEmpty : EvKind := ⟨0x0803, 2⟩
/-- EV_BATCH_PADDED. -/
def Ev.batchPadded : EvKind := ⟨0x0804, 1⟩
/-- EV_DICTIONARY_LOADED. -/
def Ev.dictionaryLoaded : EvKind := ⟨0x0805, 0⟩
/-- EV_DICTIONARY_ACTIVE. -/
def Ev.dictionaryActive : EvKind := ⟨0x0806, 0⟩
/-- EV_DICTIONARY_REFUSED. -/
def Ev.dictionaryRefused : EvKind := ⟨0x0807, 2⟩
/-- EV_INTAKE_NO_DICTIONARY. -/
def Ev.intakeNoDictionary : EvKind := ⟨0x0808, 2⟩
/-- EV_RISK_SECURE. -/
def Ev.riskSecure : EvKind := ⟨0x0901, 1⟩
/-- EV_RISK_ALARM. -/
def Ev.riskAlarm : EvKind := ⟨0x0902, 3⟩
/-- EV_SWEEP_START. -/
def Ev.sweepStart : EvKind := ⟨0x0903, 0⟩
/-- EV_SWEEP_DONE. -/
def Ev.sweepDone : EvKind := ⟨0x0904, 0⟩
/-- EV_SEAL_INVALID. -/
def Ev.sealInvalid : EvKind := ⟨0x0905, 3⟩
/-- EV_MIRROR_DONE. -/
def Ev.mirrorDone : EvKind := ⟨0x0906, 0⟩
/-- EV_FIXER_WAIT. -/
def Ev.fixerWait : EvKind := ⟨0x0907, 1⟩
/-- EV_STEP_PARTIAL. -/
def Ev.stepPartial : EvKind := ⟨0x0908, 3⟩
/-- EV_UE_TRANSIENT. -/
def Ev.ueTransient : EvKind := ⟨0x0909, 3⟩
/-- EV_UE_PERSISTENT. -/
def Ev.uePersistent : EvKind := ⟨0x090A, 3⟩
/-- EV_GROUP_RESTORED. -/
def Ev.groupRestored : EvKind := ⟨0x090B, 2⟩
/-- EV_RESTORE_FAILED. -/
def Ev.restoreFailed : EvKind := ⟨0x090C, 5⟩
/-- EV_PLAN_INVALID. -/
def Ev.planInvalid : EvKind := ⟨0x090D, 5⟩
/-- EV_PAGE_RETIRED. -/
def Ev.pageRetired : EvKind := ⟨0x090E, 3⟩
/-- EV_HANDOVER_SENT. -/
def Ev.handoverSent : EvKind := ⟨0x090F, 2⟩
/-- EV_TAKEOVER_START. -/
def Ev.takeoverStart : EvKind := ⟨0x0910, 2⟩
/-- EV_TAKEOVER_DONE. -/
def Ev.takeoverDone : EvKind := ⟨0x0911, 2⟩
/-- EV_BUS_DROOP. -/
def Ev.busDroop : EvKind := ⟨0x0A01, 2⟩
/-- EV_BUS_LOW. -/
def Ev.busLow : EvKind := ⟨0x0A02, 3⟩
/-- EV_BUS_SURGE. -/
def Ev.busSurge : EvKind := ⟨0x0A03, 2⟩
/-- EV_BUS_FAIL. -/
def Ev.busFail : EvKind := ⟨0x0A04, 5⟩
/-- EV_POWER_CAP_EXCEEDED. -/
def Ev.powerCapExceeded : EvKind := ⟨0x0A05, 2⟩
/-- EV_POWER_CAP_BELOW_FLOOR. -/
def Ev.powerCapBelowFloor : EvKind := ⟨0x0A06, 2⟩
/-- EV_THERMAL_THROTTLE. -/
def Ev.thermalThrottle : EvKind := ⟨0x0A07, 2⟩
/-- EV_THERMAL_TRIP. -/
def Ev.thermalTrip : EvKind := ⟨0x0A08, 5⟩
/-- EV_COOLANT_LIMIT. -/
def Ev.coolantLimit : EvKind := ⟨0x0A09, 2⟩
/-- EV_SHUTDOWN_DONE. -/
def Ev.shutdownDone : EvKind := ⟨0x0A0A, 0⟩
/-- EV_BOOT_DONE. -/
def Ev.bootDone : EvKind := ⟨0x0B01, 0⟩
/-- EV_BOOT_VERIFY_FAIL. -/
def Ev.bootVerifyFail : EvKind := ⟨0x0B02, 5⟩
/-- EV_RECOVERY_ENTERED. -/
def Ev.recoveryEntered : EvKind := ⟨0x0B03, 3⟩
/-- EV_IMAGE_INSTALLED. -/
def Ev.imageInstalled : EvKind := ⟨0x0B04, 1⟩
/-- EV_INVENTORY_MISMATCH. -/
def Ev.inventoryMismatch : EvKind := ⟨0x0B05, 3⟩
/-- EV_SESSION_AUTH_FAIL. -/
def Ev.sessionAuthFail : EvKind := ⟨0x0B06, 2⟩
/-- EV_SESSION_CLOSED. -/
def Ev.sessionClosed : EvKind := ⟨0x0B07, 0⟩
/-- EV_VENDOR_CMD_REFUSED. -/
def Ev.vendorCmdRefused : EvKind := ⟨0x0B08, 2⟩
/-- EV_FABRIC_AUTH_FAIL. -/
def Ev.fabricAuthFail : EvKind := ⟨0x0B09, 3⟩
/-- EV_SEAL_KEY_RELEASED. -/
def Ev.sealKeyReleased : EvKind := ⟨0x0B0A, 0⟩
/-- EV_SEAL_KEY_DESTROYED. -/
def Ev.sealKeyDestroyed : EvKind := ⟨0x0B0B, 1⟩
/-- EV_PARTITION_CHANGED. -/
def Ev.partitionChanged : EvKind := ⟨0x0B0C, 1⟩
/-- EV_LIFECYCLE_CHANGED. -/
def Ev.lifecycleChanged : EvKind := ⟨0x0B0D, 1⟩
/-- EV_BIST_DONE. -/
def Ev.bistDone : EvKind := ⟨0x0B0E, 0⟩
/-- EV_BIST_FAIL. -/
def Ev.bistFail : EvKind := ⟨0x0B0F, 3⟩
/-- EV_BIST_DEFERRED. -/
def Ev.bistDeferred : EvKind := ⟨0x0B10, 2⟩
/-- EV_BIST_INCOMPLETE. -/
def Ev.bistIncomplete : EvKind := ⟨0x0B11, 2⟩
/-- EV_SCAN_ENABLED. -/
def Ev.scanEnabled : EvKind := ⟨0x0B12, 2⟩

/-- Every event kind of R436, in table order. -/
def Ev.all : List EvKind :=
  [Ev.planAdmitted,
   Ev.planRefused,
   Ev.planWithdrawn,
   Ev.coreSlip,
   Ev.spareUsed,
   Ev.stepHeld,
   Ev.stepReleased,
   Ev.stepHoldLimit,
   Ev.stepFault,
   Ev.barrierLate,
   Ev.timeLockLost,
   Ev.timeLocked,
   Ev.stampSeqSaturated,
   Ev.floorBreach,
   Ev.regAccessBad,
   Ev.regWriteRefused,
   Ev.fieldClamped,
   Ev.clampLogFull,
   Ev.doorbellBad,
   Ev.ringError,
   Ev.winAccessBad,
   Ev.slotFlipRefused,
   Ev.slotReclaimed,
   Ev.slotStarved,
   Ev.planLoaded,
   Ev.planLoadRefused,
   Ev.hostPortReset,
   Ev.counterSaturated,
   Ev.eventLogOverrun,
   Ev.coreFailed,
   Ev.d2dLinkDown,
   Ev.tileIllegal,
   Ev.indexOutOfRange,
   Ev.creditWait,
   Ev.queuePtrMismatch,
   Ev.queueEmptyRead,
   Ev.tilingLate,
   Ev.attnMaskError,
   Ev.attnBlocksDropped,
   Ev.expertOverflow,
   Ev.variantOverflow,
   Ev.variantUnserved,
   Ev.boxInvalid,
   Ev.boxClamped,
   Ev.layerReplay,
   Ev.promotionExpired,
   Ev.numericFault,
   Ev.numericHitUnlayered,
   Ev.gradScaleChanged,
   Ev.srSaturated,
   Ev.codecTagError,
   Ev.codecStreamError,
   Ev.clearTableLoaded,
   Ev.clearGenCurrent,
   Ev.clearGenFreed,
   Ev.clearTableRefused,
   Ev.contextFull,
   Ev.contextClosed,
   Ev.contextRefused,
   Ev.updateDiscarded,
   Ev.updateTorn,
   Ev.groupFrozen,
   Ev.groupStepSaturated,
   Ev.laneSpared,
   Ev.portDegraded,
   Ev.portDown,
   Ev.linkReplay,
   Ev.packetUnroutable,
   Ev.slotMissed,
   Ev.landingWait,
   Ev.reduceScaleMismatch,
   Ev.reshardRefused,
   Ev.epochChanged,
   Ev.epochStaleDrop,
   Ev.epochDrainFail,
   Ev.routeSwitched,
   Ev.sampleCorrupt,
   Ev.sampleSlow,
   Ev.reserveEmpty,
   Ev.batchPadded,
   Ev.dictionaryLoaded,
   Ev.dictionaryActive,
   Ev.dictionaryRefused,
   Ev.intakeNoDictionary,
   Ev.riskSecure,
   Ev.riskAlarm,
   Ev.sweepStart,
   Ev.sweepDone,
   Ev.sealInvalid,
   Ev.mirrorDone,
   Ev.fixerWait,
   Ev.stepPartial,
   Ev.ueTransient,
   Ev.uePersistent,
   Ev.groupRestored,
   Ev.restoreFailed,
   Ev.planInvalid,
   Ev.pageRetired,
   Ev.handoverSent,
   Ev.takeoverStart,
   Ev.takeoverDone,
   Ev.busDroop,
   Ev.busLow,
   Ev.busSurge,
   Ev.busFail,
   Ev.powerCapExceeded,
   Ev.powerCapBelowFloor,
   Ev.thermalThrottle,
   Ev.thermalTrip,
   Ev.coolantLimit,
   Ev.shutdownDone,
   Ev.bootDone,
   Ev.bootVerifyFail,
   Ev.recoveryEntered,
   Ev.imageInstalled,
   Ev.inventoryMismatch,
   Ev.sessionAuthFail,
   Ev.sessionClosed,
   Ev.vendorCmdRefused,
   Ev.fabricAuthFail,
   Ev.sealKeyReleased,
   Ev.sealKeyDestroyed,
   Ev.partitionChanged,
   Ev.lifecycleChanged,
   Ev.bistDone,
   Ev.bistFail,
   Ev.bistDeferred,
   Ev.bistIncomplete,
   Ev.scanEnabled]

end Sys2Proof.Machine
end

