-- ==== Sys2Proof/Machine/Types.lean ====
section
/-! DEFINITION. The structures the state is made of: stamps, event records, rings and descriptors, window slots,
plan images as loaded, and the per-unit records of the later chapters. -/

namespace Sys2Proof.Machine

/-- What is fitted on the module (R1, R47, R50): active cores, HBM stacks, I/O dies, and the map of active physical
cores. -/
structure Fitted where
  ccc : Nat
  ss : Nat
  io : Nat
  phys : Nat
  deriving DecidableEq, Repr

/-- A 128-bit stamp (R17). -/
structure Stamp where
  time : Nat
  origin : Nat
  epoch : Nat
  seq : Nat
  kind : Nat
  deriving DecidableEq, Repr

/-- A stamp's 16 bytes, little-endian (R5, R17). -/
def Stamp.bytes (st : Stamp) : List Byte :=
  leBytes (st.kind % 2 ^ 8 + 2 ^ 8 * (st.seq % 2 ^ 24) + 2 ^ 32 * (st.epoch % 2 ^ 12) +
    2 ^ 44 * (st.origin % 2 ^ 20) + 2 ^ 64 * (st.time % 2 ^ 64)) 16

/-- Read a stamp from its 16 bytes (R17). -/
def Stamp.ofBytes (bs : List Byte) : Stamp :=
  let n := fieldAt bs 0 16
  ⟨bitsAt n 64 64, bitsAt n 44 20, bitsAt n 32 12, bitsAt n 8 24, bitsAt n 0 8⟩

/-- An event record (R434). -/
structure EventRec where
  stamp : Stamp
  code : Nat
  sev : Nat
  cls : Nat
  unit : Nat
  object : Nat
  value : Nat
  value2 : Nat
  cause : Nat
  deriving DecidableEq, Repr

/-- The record in the event path, with the partition it concerns where R438 does not settle ownership by class and
unit number alone. -/
structure PathRec where
  record : EventRec
  concern : Option Nat
  deriving DecidableEq, Repr

/-- The plan states of R26. -/
inductive PlanState
  | idle | checking | admitted | running | held | faulted
  deriving DecidableEq, Repr

/-- A descriptor that its ring has started (R72): its number in the ring, its 128 bytes, whether its effect at
start is done and its completion ready. -/
structure Started where
  seq : Nat
  bytes : List Byte
  begun : Bool
  deriving DecidableEq, Repr

/-- A completion that waits to be written (R73). -/
structure Completion where
  seq : Nat
  tag : Nat
  opcode : Nat
  flags : Nat
  status : Nat
  detail : Nat
  deriving DecidableEq, Repr

/-- The working state of one ring beside its registers: the descriptor fetched but held by its fence, the started
descriptors, the completions ready in completion order, the number of the next descriptor, and the completions
gathered for the pending interrupt. -/
structure Ring where
  waiting : Option Started
  started : List Started
  ready : List Completion
  nextSeq : Nat
  irqPending : Nat
  irqSince : Nat
  deriving DecidableEq, Repr

/-- The resting states of a slot (R79). -/
inductive SlotState
  | free | offered | filled | consuming | result | reclaimed
  deriving DecidableEq, Repr

/-- A slot header (R78) as typed fields; `pool` and `index` follow from where the slot stands. -/
structure Slot where
  state : SlotState
  gen : Nat
  deadline : Nat
  tag : Nat
  length : Nat
  crc : Nat
  format : Nat
  hflags : Nat
  variant : Nat
  deriving DecidableEq, Repr

/-- A window pool (R77): its slots while its use is non-zero, and the outputs it dropped in the current exposure (R83). -/
structure Pool where
  slots : List Slot
  dropped : Nat
  deriving DecidableEq, Repr

/-- A task record (R89). -/
structure Task where
  op : Nat
  rung : Nat
  flags : Nat
  exposure : Nat
  coreFirst : Nat
  coreCount : Nat
  layer : Nat
  preds : List Nat
  queueOut : Nat
  queueIn : Nat
  tensors : List Nat
  params : List Byte
  deriving DecidableEq, Repr

/-- A tensor descriptor (R91); `dims` and `strides` are cut at the rank. -/
structure Tensor where
  base : Nat
  dtype : Nat
  rank : Nat
  space : Nat
  policy : Nat
  grainRate : Nat
  flags : Nat
  dims : List Nat
  strides : List Nat
  scaleOffset : Nat
  deriving DecidableEq, Repr

/-- A resident graph (R86). -/
structure Graph where
  number : Nat
  tasks : List Task
  tensors : List Tensor
  deriving DecidableEq, Repr

/-- A loaded plan: its header, its graphs and its sections, the sections kept as the bytes of the plan store
(after the loader's clamps, R88). -/
structure Plan where
  planId : Nat
  partition : Nat
  planned : Nat
  spares : Nat
  storeBase : Nat
  storeSize : Nat
  graphs : List Graph
  sections : List (Nat × List Byte)
  deriving DecidableEq, Repr

/-- Data the module wrote into submitter memory through the host port: bus address and bytes. -/
structure HostWrite where
  addr : Nat
  data : List Byte
  deriving DecidableEq, Repr

/-- One task of the running step (R113, R114, R139, R141): the cores that finished their share, whether the task
completed, the hit elements of the current attempt, whether its output stage found a hit while it ran at rung 3,
whether an input held a non-finite element at load, whether EV_INDEX_OUT_OF_RANGE was raised (R112), and the FP32 bits of
output elements, by bit offset, whose block of an MX output another core's share completes, each with whether a saturated
operand makes it a hit (R126, R135, R164). -/
structure TaskRun where
  finished : List Nat
  completed : Bool
  hits : Nat
  hitAtTop : Bool
  badInput : Bool
  indexRaised : Bool
  parts : List (Nat × Nat × Bool)
  deriving DecidableEq, Repr

/-- An entry of a hardware queue (R118): its payload and its valid length; the sideband's idle bit and stamp of a
written entry are zero. -/
structure QueueItem where
  payload : List Byte
  length : Nat
  deriving DecidableEq, Repr

/-- A plan queue as it runs (R115 to R120): its entries, the free-entry credits its producer holds, and whether
EV_QUEUE_EMPTY_READ was raised in this exposure. -/
structure QueueRun where
  items : List QueueItem
  credits : Nat
  emptyRaised : Bool
  deriving DecidableEq, Repr

/-- A dependence token on its way to a core (R114). -/
structure Token where
  core : Nat
  graph : Nat
  task : Nat
  deriving DecidableEq, Repr

/-- A queue credit on its way to the producer of a queue of partition `p` (R115). -/
structure Credit where
  p : Nat
  queue : Nat
  deriving DecidableEq, Repr

/-- The working state of a core beside its registers: the task it runs, the missing predecessors of its tasks
(R114), the tasks it has started in this step, the tasks it must run again (R140), the tasks that wait only for
credits (R116), whether EV_CORE_SLIP and EV_CREDIT_WAIT were raised in this step, the counter of its generator
(R150), the tiling record in use (R164) with whether it is still awaited, whether EV_TILING_LATE was raised, the codes of
other events raised by the core that are raised once in a step, the halo bytes in its line-buffer window, by task
and side (R237, R238), the tiling records that arrived early, by task and effective rung (R163), and the halo queues, by
task and queue, whose credits it has returned (R238). -/
structure Core where
  running : Option (Nat × Nat)
  missing : List (Nat × Nat)
  started : List Nat
  replay : List Nat
  waiting : List Nat
  slipRaised : Bool
  waitRaised : Bool
  genCounter : Nat
  tiling : Option Tiling
  asked : Bool
  lateRaised : Bool
  once : List Nat
  window : List (Nat × Nat × List Byte)
  early : List (Nat × Nat × Tiling)
  paid : List (Nat × Nat)
  deriving DecidableEq, Repr

/-- An entry of the numeric layer table (R145); the history holds the newest exponent byte first, `amax` is the
largest gradient magnitude recorded in this step, as FP32 bits (R147), and `since` is the step from which the hold counts:
that of the last replay, or of the restore that brought the hold back (R142, R144). -/
structure LayerEntry where
  layer : Nat
  promotion : Nat
  e : Int
  hold : Nat
  partition : Nat
  history : List Nat
  histNext : Nat
  gFormat : Nat
  remote : Bool
  hasGrad : Bool
  lastPromotion : Nat
  replays : Nat
  amax : Option Nat
  since : Nat
  deriving DecidableEq, Repr

/-- The barrier of the running step (R24, R330, R376): the fabric time of the module's own notice, the notices of
its children, whether the combined notice went up, the fabric time of the combined completion notice, and the same
for drained notices; notices kept while ADMITTED (R446). -/
structure Barrier where
  own : Option Nat
  children : List Notice
  sent : Bool
  combined : Option Nat
  ownDrained : Option Nat
  drainedChildren : List Notice
  drainedSent : Bool
  drained : Option Nat
  departing : Bool
  kept : List Notice
  deriving DecidableEq, Repr

/-- What the module sends on a fabric port: a packet, a barrier notice, whose data layout the manual does not give (log
entry 16), the nak of a FLIT (R304), or its position in training (R300). -/
inductive FabOut
  | packet (pk : Packet)
  | notice (n : Notice)
  | nak (seq : Nat)
  | position (pos : Nat)
  deriving DecidableEq, Repr

/-- Something that waits at an output port (R310): its class, the fabric time since which it waits, the partition and
slot whose reserved window it may use, whether it is a late packet of a missed slot (R319), the input port in whose
buffer a relayed packet stands (R311), and the partition and item whose mirror it belongs to (R370). -/
structure PortItem where
  cls : Nat
  out : FabOut
  since : Nat
  slot : Option (Nat × Nat)
  late : Bool
  via : Option Nat
  mirror : Option (Nat × Nat)
  deriving DecidableEq, Repr

/-- What a control FLIT carries out (R303): link credits per class, the send time, the failed lanes, and the ranks of the
module's own output channels. -/
structure ControlOut where
  credits : List Nat
  time : Nat
  lanes : Nat
  ranks : List Nat
  deriving DecidableEq, Repr

/-- A FLIT as sent (R303): the fields of its header, the credits that ride in it (log entry 55), its payload, what it
carries if it is a control FLIT, its CRC and its FEC bytes. -/
structure SentFlit where
  seq : Nat
  ack : Bool
  nak : Bool
  acked : Nat
  cls : Nat
  kind : Nat
  credits : Nat
  payload : List Byte
  control : Option ControlOut
  crc : BitVec 64
  fec : BitVec 96
  deriving DecidableEq, Repr

/-- The link layer of a port (R303, R304, R311): the sequence of the next FLIT, the FLITs sent, the packet bytes that wait
for the rest of their FLIT, the replay buffer, the last FLIT received well and the FLIT to be naked, the FLIT that the
neighbour naked, and the units of its receive buffers that are in use and that were freed and not yet returned, per
class. -/
structure Link where
  seq : Nat
  sent : Nat
  stream : List Byte
  replay : List SentFlit
  received : Option Nat
  refused : Option Nat
  naked : Option Nat
  used : List Nat
  due : List Nat
  deriving DecidableEq, Repr

/-- The working state of a fabric port beside its registers (R301 to R311, R334): what waits, the link credits per class
in 64-byte units, the logical lane the spare serves, the half in use while DEGRADED, replay attempts by FLIT, replays,
retrains and FEC corrections in the exposure, replays in the step, stale drops in the step, the codes of events raised
once in a step, the fabric time of the last class-0 packet, the ranks of the neighbour's output channels, the lanes the
neighbour holds for failed, the epoch of the last fence marker per class, the packets and the barrier notices of the next
epoch that wait, and the link layer. -/
structure Port where
  queue : List PortItem
  credits : List Nat
  spareFor : Option Nat
  upperHalf : Bool
  attempts : List (Nat × Nat)
  exposureReplays : Nat
  exposureRetrains : Nat
  exposureFec : Nat
  stepReplays : Nat
  stale : Nat
  once : List Nat
  lastCtrl : Option Nat
  ranks : List Nat
  farLanes : Nat
  fence : List (Nat × Nat)
  waiting : List Packet
  notices : List (Nat × Notice)
  link : Link
  deriving DecidableEq, Repr

/-- What Safelight counts in an exposure of partition 0's grid (R362): layer replays, die-to-die retries, bus
disturbances and clock-floor breaches; and the steps ended since the last risk sweep while risk stayed high (R364). -/
structure Tally where
  replays : Nat
  d2d : Nat
  supply : Nat
  floor : Nat
  resecure : Nat
  deriving DecidableEq, Repr

/-- A packet still to be stamped and sent (R305). -/
structure PacketSpec where
  kind : Nat
  cls : Nat
  dest : Nat
  slot : Nat
  e : Nat
  last : Bool
  offset : Nat
  data : List Byte
  deriving DecidableEq, Repr

/-- A send slot in the current step (R319): its packets once the data are ready, whether its window began without them,
and whether they went out. -/
structure OutSlot where
  packets : Option (List PacketSpec)
  missed : Bool
  sent : Bool
  deriving DecidableEq, Repr

/-- An input of a reduction stripe (R327): its origin, its e, its offset in 64-byte units, and its data. -/
structure StripeInput where
  origin : Nat
  e : Int
  offset : Nat
  data : List Byte
  deriving DecidableEq, Repr

/-- A stripe of a reduction at this module (R325 to R328): graph, task and stripe; the children's inputs in arrival
order with the place of the own contribution in it; 64-byte units of the result received; the children's sidebands
(amax as FP32 bits, touch bit); the sideband from the parent; whether it was combined and whether its result stands. -/
structure StripeRun where
  g : Nat
  t : Nat
  k : Nat
  inputs : List StripeInput
  ownAt : Option Nat
  result : Nat
  sides : List (Nat × Nat)
  side : Option (Nat × Nat)
  combined : Bool
  done : Bool
  deriving DecidableEq, Repr

/-- A sweep that is due (R364, R373, R380, R388): its cause (1 risk, 2 SECURE, 3 drain), whether it covers every item, the
first step at whose end it may run, the SECURE descriptors that wait for it, and whether the module departs after it. -/
structure DueSweep where
  cause : Nat
  all : Bool
  step : Nat
  secures : List (Nat × Nat)
  retire : Bool
  deriving DecidableEq, Repr

/-- An item of a ward area as its mirrors describe it (R368, R370): the ward's position, the area's offset in 2 MiB units, the
item, and the bytes of its copy. -/
structure WardItem where
  ward : Nat
  off : Nat
  item : Nat
  bytes : Nat
  deriving DecidableEq, Repr

/-- Safelight's sweeps and the Fixer's work for a partition (R364, R370 to R387): the sweeps that are due; the one that
runs, since when, its size and the items left; privileged items whose copy is under way, with the step copied, the step
record under copy, and the items copied in this step; mirrors to be sent, and those in flight with the stamps of their
seals; items of the running sweep that are not mirrored yet, and the sizes of the sweeps that ended with the items each still waits
for; the departure
and the hand-over; a takeover under way and its exposure; items asked of the partner, those asked a second time, and what
has arrived of them, and in a takeover those that are in, as item, seal record and stream; the Clear generations that restored seals name and that wait for the step record; a restore at
admission; a restore that failed; groups whose next update waited; the step record's snapshot; the exposure at which a
route switch lets a departed plan resume; an invalid plan; and that the restores of the drain have begun. -/
structure Fixer where
  dues : List DueSweep
  sweep : Option DueSweep
  since : Nat
  size : Nat
  left : List Nat
  copying : List (Nat × Nat)
  recordCopy : List Byte
  copied : List Nat
  mirrors : List Nat
  inFlight : List (Nat × Nat)
  unmirrored : List Nat
  swept : List (Nat × List Nat)
  departing : Bool
  handed : Bool
  takeover : Bool
  takeAt : Nat
  asked : List Nat
  retried : List Nat
  stage : List (Nat × List (Nat × Byte))
  taken : List (Nat × List Byte × List Byte)
  needGens : Nat
  admission : Bool
  failed : Bool
  waited : List Nat
  snapshot : List Byte
  resumeAt : Option Nat
  invalid : Bool
  settled : Bool
  deriving DecidableEq, Repr

/-- A re-shard under way (R332 to R334): the prepared section, the step and epoch of a commit, and the descriptor
that waits for its boundary. -/
structure Reshard where
  prepared : Option (List Byte)
  step : Option Nat
  epoch : Nat
  ring : Nat
  seq : Nat
  deriving DecidableEq, Repr

/-- The states of a Clear table generation (R265). -/
inductive GenState
  | free | loaded | current | retiring
  deriving DecidableEq, Repr

/-- A table generation: its state and the 896 bytes of its seven tables (R264). -/
structure Gen where
  state : GenState
  tables : List Byte
  deriving DecidableEq, Repr

/-- Descriptors whose action waits for a step boundary: Clear tables (R267), contexts (R192), dictionaries (R349). -/
inductive RequestKind
  | clear | context | dictionary
  deriving DecidableEq, Repr

/-- A started descriptor that waits for its boundary: its ring and number, and whether the boundary has come. -/
structure Request where
  kind : RequestKind
  ring : Nat
  seq : Nat
  due : Bool
  deriving DecidableEq, Repr

/-- The state entry of a parameter group (R283): step, last, eta as FP32 bits, status, and the three flags; the pending
freeze is the value written (R294), and what was raised once: the saturated step, and in this step the discard and
the saturated rounding. -/
structure GroupState where
  step : Nat
  last : Nat
  eta : Nat
  status : Nat
  frozen : Bool
  frozenAtAdmission : Bool
  pending : Option Bool
  saturated : Bool
  discardRaised : Bool
  srRaised : Bool
  deriving DecidableEq, Repr

/-- The key of the shape cache (R166): the operand types are the stored codes per use, streaming then stationary. -/
structure ShapeKey where
  op : Nat
  product : Nat
  form : Nat
  flags : Nat
  rung : Nat
  types : List (Nat × Nat)
  outType : Nat
  m : Nat
  n : Nat
  k : Nat
  uses : List (Nat × Nat)
  counts : List Nat
  summed : List Bool
  cores : Nat
  tileSpace : Nat
  staging : Nat
  deriving DecidableEq, Repr

/-- An entry of a shape cache. -/
structure ShapeEntry where
  key : ShapeKey
  tiling : Tiling
  deriving DecidableEq, Repr

/-- The states of a sequence context (R191). -/
inductive CtxState
  | free | opened | full
  deriving DecidableEq, Repr

/-- A sequence context (R191): its kind (1 training, 2 serving), die, context-plan range, lengths, parent, reserved
pages, forked prefix, opening stamp, tag, the partition whose plan it belongs to, and its page directory (R198) as
(entry, page). -/
structure Ctx where
  state : CtxState
  kind : Nat
  die : Nat
  range : Nat
  length : Nat
  maxLen : Nat
  kvLayers : Nat
  parent : Nat
  reserved : Nat
  prefix_ : Nat
  stamp : Stamp
  tag : Nat
  partition : Nat
  dirAt : Nat
  directory : List (Nat × Nat)
  deriving DecidableEq, Repr

/-- What an intake unit adopted from an admitted plan (R340): the partition, the parameter block of op 0x0010 (R350), and
the partition address of the ring tensor. -/
structure Adopted where
  p : Nat
  par : List Byte
  ring : Nat
  deriving DecidableEq, Repr

/-- A row of a ring buffer (R355, R357): no sample yet, assigned to a sample or a copy, or settled with its status. -/
inductive RowState
  | unassigned | assigned | settled (status : Nat)
  deriving DecidableEq, Repr

/-- The states of a ring buffer (R356). -/
inductive BufferState
  | empty | assembling | complete | taking
  deriving DecidableEq, Repr

/-- A ring buffer of an intake unit. -/
structure IntakeBuffer where
  state : BufferState
  rows : List RowState
  deriving DecidableEq, Repr

/-- Where a sample in conversion is bound (R355): a row of a buffer, the reserve, or nowhere once its plan is withdrawn. -/
inductive SampleTarget
  | row (buffer row : Nat)
  | reserve
  | nowhere
  deriving DecidableEq, Repr

/-- A sample in conversion (R355): its pool and slot, the slot's header and payload, the take's parameters, where it is
bound, the dictionary bank it began with, and the fabric time of its start. -/
structure IntakeSample where
  p : Nat
  pool : Nat
  index : Nat
  header : Slot
  payload : List Byte
  par : List Byte
  target : SampleTarget
  bank : Nat
  since : Nat
  deriving DecidableEq, Repr

/-- A reserve entry on its way into a row (R358): the entry's bytes, and the status, cause and replaced tag of the row. -/
structure IntakeCopy where
  buffer : Nat
  row : Nat
  entry : List Byte
  status : Nat
  cause : Nat
  replaced : Nat
  deriving DecidableEq, Repr

/-- A dictionary bank (R348): its dict_id, the first fallback token, and the entries with their tokens. -/
structure DictBank where
  dictId : Nat
  byteBase : Nat
  entries : List (List Byte × Nat)
  deriving DecidableEq, Repr

/-- A dictionary load under way (R349): its descriptor, its slot, its bank and what the bank will hold. -/
structure DictLoad where
  ring : Nat
  seq : Nat
  p : Nat
  pool : Nat
  index : Nat
  bank : Nat
  dict : DictBank
  deriving DecidableEq, Repr

/-- A take under way (R356): its task, its buffer, and the places of the reserve entries it reads. -/
structure IntakeTake where
  key : Nat
  buffer : Nat
  places : List Nat
  deriving DecidableEq, Repr

/-- An intake unit (R340 to R361): what it adopted, the FILLED slots in flip order as (partition, pool, slot), its ring
buffers with the oldest one in use, the takes completed since admission, the reserve's entry places oldest first, the
samples in conversion, the reserve copies and the takes under way, the two dictionary banks, the active one, the loads
under way, and the codes of events raised once in a step. -/
structure IntakeUnit where
  adopted : Option Adopted
  queue : List (Nat × Nat × Nat)
  buffers : List IntakeBuffer
  head : Nat
  batchSeq : Nat
  reserve : List Nat
  samples : List IntakeSample
  copies : List IntakeCopy
  takes : List IntakeTake
  banks : List (Option DictBank)
  active : Option Nat
  loads : List DictLoad
  once : List Nat
  deriving DecidableEq, Repr

/-- The power manager beside its registers (R392 to R399): the cap and thermal limits in 100 MHz with the evaluations in a
row at which each was broken and at which it had room, the limit of a supply emergency, the events raised once
in a step with the number of the unit that raised each (R436), the readings of the last 100 ms as (W, mV, 10 mA), newest
first, the last reading of every temperature sensor in 0.1 °C (R400), whether the rails are off, whether an orderly
shut-down waits for descriptors (R397), whether the shut-down test runs, and the units that sleep with the depth of their
state. -/
structure Power where
  capLimit : Nat
  capOver : Nat
  capUnder : Nat
  heatLimit : Nat
  heatOver : Nat
  heatUnder : Nat
  emergency : Option Nat
  once : List (Nat × Nat)
  history : List (Nat × Nat × Nat)
  temps : List Int
  off : Bool
  offDue : Bool
  testing : Bool
  asleep : List (PowerUnit × Nat)
  deriving DecidableEq, Repr

/-- An SPDM session (R418): its number, whether its authentication is complete, the owner's or a tenant's, the partition
it is bound to, the SHA-512 of the requester's key, and its key generation (R416). -/
structure Session where
  id : Nat
  authed : Bool
  owner : Bool
  bound : Option Nat
  keyHash : List Byte
  keys : Nat
  deriving DecidableEq, Repr

/-- The capabilities of the SPDM responder (R416), in the order of its list. -/
inductive SpdmCap
  | cert | chal | measSigned | measFresh | keyEx | mutAuth | encap | encrypt | mac | hbeat | keyUpd | chunk
  deriving DecidableEq, Repr

/-- The encapsulated requests by which the responder asks the requester for its key (R416, R418). -/
inductive SpdmEncap
  | getDigests | getCertificate
  deriving DecidableEq, Repr

/-- What the SPDM responder answers (R416, R417): the manual names the responses and not their byte layouts, so they stand
as typed answers. -/
inductive SpdmReply
  | version (versions : List Nat)
  | capabilities (caps : List SpdmCap)
  | algorithms (algs : Nat)
  | digests (digest : List Byte)
  | certificate (bytes : List Byte)
  | challengeAuth (nonce signature : List Byte)
  | measurements (blocks : List (Nat × List Byte)) (signature : List Byte)
  | keyExchangeRsp (session : Nat)
  | encapsulated (session : Nat) (request : SpdmEncap)
  | finishRsp (session : Nat)
  | heartbeatAck
  | keyUpdateAck (op : Nat)
  | endSessionAck
  | chunkSendAck (seqNo : Nat)
  | chunkResponse (seqNo : Nat) (last : Bool) (bytes : List Byte)
  | vendorDone (code : Nat)
  | vendorRefused (code : Nat)
  | unsupported (code : Nat)
  | refused
  deriving DecidableEq, Repr

/-- The fields of the self-test record (R425). -/
structure BistRecord where
  state : Nat
  defer_ : Nat
  failed : Nat
  items : List BistItem
  stamp : Stamp
  calibration : List Byte
  deriving DecidableEq, Repr

/-- magic of a self-test record (R425). -/
def bistMagic : Nat := 0x4E484253

/-- The bytes of a self-test record that its digest covers (R425). -/
def BistRecord.bytes (r : BistRecord) : List Byte :=
  leBytes bistMagic 4 ++ leBytes r.state 1 ++ leBytes r.defer_ 1 ++ leBytes r.failed 2 ++
    (List.range 8).flatMap (fun i =>
      let x := (r.items[i]?).getD ⟨0, 0⟩
      leBytes (x.tested % 2 ^ 16 + 2 ^ 16 * (x.failed % 2 ^ 16)) 4) ++
    r.stamp.bytes ++ leBytes r.calibration.length 4 ++ List.replicate 68 0 ++ r.calibration

/-- A self-test record as it lies in flash, its digest at the end (R425). -/
def BistRecord.flash (r : BistRecord) : List Byte := r.bytes ++ sha512 r.bytes

/-- The fields of the self-test record that flash holds (R425). -/
def BistRecord.ofFlash (b : List Byte) : BistRecord :=
  ⟨fieldAt b 4 1, fieldAt b 5 1, fieldAt b 6 2,
    (List.range 8).map (fun i => ⟨fieldAt b (8 + 4 * i) 2, fieldAt b (10 + 4 * i) 2⟩),
    Stamp.ofBytes (slice b 40 16), slice b 128 (min (fieldAt b 56 4) 65536)⟩

/-- The flash holds a self-test record whose digest is good (R425, R426). -/
def bistDigestGood (b : List Byte) : Bool :=
  let n := 128 + fieldAt b 56 4
  fieldAt b 0 4 == bistMagic && decide (fieldAt b 56 4 ≤ 65536) && slice b n 64 == sha512 (b.take n)

/-- An image being delivered (R412): its source (1 mailbox, 2 PLDM, 3 fabric), the port it comes through, and what is
staged. -/
structure Delivery where
  source : Nat
  port : Nat
  staged : List (Nat × Byte)
  length : Nat
  deriving DecidableEq, Repr

/-- The root of trust beside its registers (R404 to R428): the start under way with its reset cause, the life-cycle fuse
counter and the counter recorded in the provisioning data; the key hash and the root key that the fuses hold (R414, R415);
of the provisioning data the wrapped identity key, the certificate chain, whether the ordering code stands there, and the
owner's key hash (R407); the sealed-region holder, whether the sealed-region key exists and the partition it is released
to; the memory keys by partition (each the number of the open value it is); the sessions and the next session number;
large requests as gathered, by session, and the large response being fetched; the image delivery and the ports whose
neighbours were asked; the image slot (none: erased) and an accepted image that is being written to it with its source
(R413); the self-test record as it lies in flash (R425); the calibration in use and the retained SRAM (R414, R427); the
test regions of the stacks and packages and their saved contents (R427), the parts that the last start found, and the
digest of each partition's last loaded image. -/
structure Trust where
  boot : Option Nat
  fuses : Nat
  recorded : Nat
  fuseHash : Option (List Byte)
  rootKey : Option (List Byte)
  identity : Option (List Byte)
  chain : List Byte
  coded : Bool
  owner : Option (List Byte)
  holder : Option (List Byte)
  sealKey : Bool
  unsealed : Option Nat
  memKeys : List (Nat × Nat)
  sessions : List Session
  nextSession : Nat
  chunks : List (Nat × List Byte)
  large : List Byte
  delivery : Option Delivery
  polled : List Nat
  image : Option (List Byte)
  writing : Option (List Byte × Nat)
  record : List Byte
  calibration : List Byte
  retained : List Byte
  testArea : Memory
  saved : Memory
  found : Option StartFacts
  planDigests : List (Nat × List Byte)
  deriving DecidableEq, Repr

end Sys2Proof.Machine
end

