-- ==== Sys2Proof/Machine/State.lean ====
section
/-! DEFINITION. The state of the block as plain data: every register, counter, memory, ring, slot, plan, core, port,
key and queue the manual gives the module, the waiting commands, and the state after reset. -/

namespace Sys2Proof.Machine

/-- Fabric time as the module keeps it (R14 to R16, R331): the count in 0.25 ns units, whether it ever locked, whether
time_locked reads 1, the fabric time at which lock was lost, the partitions whose 64 exposures since then are over, the offset
still to be slewed away, and the local units counted since the last slewed one. -/
structure TimeState where
  now : Nat
  everLocked : Bool
  locked : Bool
  lostAt : Option Nat
  overdue : List Nat
  slew : Int
  sinceSlew : Nat
  deriving DecidableEq, Repr

/-- Events on their way and at rest (R437 to R440): the event path, the module log, the flash event-log area, the
flash records that partition 0's ring has still to receive, whether that ring was enabled since the start, the flash
records appended since the start, and the records dropped per partition since its last EV_EVENT_LOG_OVERRUN. -/
structure EventState where
  path : List PathRec
  log : List EventRec
  flash : List EventRec
  backlog : List EventRec
  ring0Seen : Bool
  flashNew : Nat
  overrun : List Nat
  deriving DecidableEq, Repr

/-- One partition's tick and plan state (R21 to R46). `once` holds the events of units that are no port, core or intake
unit and were raised once in the step, with their unit; `areas` the own areas of the securing plans admitted since reset, where its
sealed copies lie, as space-2 module addresses (R265, R365); `slotsLate` that a slot missed its window for a fabric cause since
the last admission or re-shard (R337). -/
structure Part where
  phase : PlanState
  exposure : Nat
  nextTick : Nat
  started : Bool
  step : Nat
  index : Nat
  startExposure : Nat
  plan : Option Nat
  restarted : Bool
  admitRing : Nat
  admitSeq : Nat
  reportPool : Nat
  reportSlot : Nat
  worstMargin : Nat
  withdrawAsked : Bool
  withdrawDue : Bool
  startDue : Bool
  clampFull : Bool
  runs : List (Nat × TaskRun)
  queues : List QueueRun
  barrier : Barrier
  faultCause : Nat
  drainDone : Bool
  replaysRaised : List Nat
  sectionNow : Option (List Byte)
  reshard : Reshard
  switched : List Nat
  requests : List Request
  groups : List GroupState
  restoreDue : List Nat
  gens : List Gen
  touchedExperts : List Nat
  touchedSets : List Nat
  sectionOld : Option (List Byte)
  outSlots : List (Nat × OutSlot)
  arrived : List (Nat × Nat)
  stripes : List StripeRun
  landCredits : List (Nat × Nat)
  landGiven : List (Nat × Nat)
  landWaits : List Nat
  switches : List (Nat × Nat × Nat)
  fabricKey : Option (List Byte)
  fabricSent : Nat
  fixer : Fixer
  once : List (Nat × Nat)
  slotsLate : Bool
  areas : List (Nat × Nat)
  deriving DecidableEq, Repr

/-- What the module sent out: bytes written into submitter memory, interrupt vectors, packets by port and the FLITs that
carried them, the data of the last read answered to the host, the answers of the SPDM responder, the stamps it issued
for messages received, reduction contributions, blank frames and its own completion notices, in order of issue (R18), and
the reads of submitter memory it made, as bus address and bytes. -/
structure Outbox where
  host : List HostWrite
  irqs : List Nat
  reply : List Byte
  fabric : List (Nat × FabOut)
  spdm : List SpdmReply
  flits : List (Nat × SentFlit)
  stamps : List Stamp
  reads : List (Nat × Nat)
  deriving DecidableEq, Repr

/-- The state of the module. `wards` holds the items of the ward areas in the order in which mirrors first came (R368; log entry
31). `stamped` is the latest fabric time of a stamp in partition 0's exposure that stood ahead of the
local fabric time (R19, R20). `devQueues` holds the input queues of the Developers by number 4 × stack + u, an entry being
a core and the key of its update task (R278; log entry 65). `coarse` holds the counters that a reader without full view sees, as they stood at the last
shutter tick of their owner (R423). -/
structure State where
  fitted : Fitted
  regs : List (Nat × Nat)
  counters : List (Nat × Nat)
  coarse : List (Nat × Nat)
  latch : List (Nat × Nat)
  held : List (Nat × Nat)
  time : TimeState
  seq : Nat
  seqReported : Bool
  stamped : Nat
  events : EventState
  mem : Memory
  staging : Memory
  neg : Memory
  tags : List (Nat × Nat)
  negTags : List (Nat × Nat)
  rings : List Ring
  pools : List Pool
  plans : List Plan
  parts : List Part
  cores : List Core
  tokens : List Token
  credits : List Credit
  layers : List LayerEntry
  shapes : List (List ShapeEntry)
  searches : List (List ShapeKey)
  contexts : List (Nat × Ctx)
  pages : List (Nat × Nat)
  devDraws : List (Nat × Nat)
  devQueues : List (Nat × List (Nat × Nat))
  ports : List Port
  tally : Tally
  rowsUsed : List Nat
  retired : List (Nat × Nat)
  d2dDown : List (Nat × Nat × Nat)
  intake : List IntakeUnit
  power : Power
  trust : Trust
  wards : List WardItem
  out : Outbox
  freeCtr : Nat
  pending : List Instr
  deriving DecidableEq, Repr

/-- Why the machine could stop. Every command of the opcode table has an effect in the manual, so no meaning raises
a fault; the type is closed. -/
inductive Fault
  /-- Raised by nothing: kept so that the type has a name. Safe: a stop proves no false claim. -/
  | none
  deriving DecidableEq, Repr

/-- Why a command is turned away without a meaning. -/
inductive Refusal
  /-- Raised by the dispatch for a command whose meaning is not written yet. Safe: no state follows. -/
  | notModelled (mnemonic : String)
  deriving DecidableEq, Repr

/-- A ring at reset: disabled, with nothing fetched. -/
def Ring.init : Ring := ⟨none, [], [], 0, 0, 0⟩

/-- A pool at reset: use 0, no slots. -/
def Pool.init : Pool := ⟨[], 0⟩

/-- An intake unit that adopted nothing and has no dictionary. -/
def IntakeUnit.init : IntakeUnit :=
  { adopted := none, queue := [], buffers := [], head := 0, batchSeq := 0, reserve := [], samples := [], copies := []
    takes := [], banks := [none, none], active := none, loads := [], once := [] }

/-- No notice of the step is known. -/
def Barrier.init : Barrier := ⟨none, [], false, none, none, [], false, none, false, []⟩

/-- A table generation at reset: FREE, its tables wiped (R265). -/
def Gen.init : Gen := ⟨.free, []⟩

/-- A link that has carried nothing. -/
def Link.init : Link := ⟨0, 0, [], [], none, none, none, [0, 0, 0, 0, 0], [0, 0, 0, 0, 0]⟩

/-- A port with nothing waiting. -/
def Port.init : Port := ⟨[], [0, 0, 0, 0, 0], none, false, [], 0, 0, 0, 0, 0, [], none, [], 0, [], [], [], Link.init⟩

/-- The Fixer with nothing to do. -/
def Fixer.init : Fixer :=
  { dues := [], sweep := none, since := 0, size := 0, left := [], copying := [], recordCopy := [], copied := []
    mirrors := [], inFlight := [], unmirrored := [], swept := [], departing := false, handed := false, takeover := false
    takeAt := 0, asked := [], retried := [], stage := [], taken := [], needGens := 0, admission := false, failed := false, waited := []
    snapshot := [], resumeAt := none, invalid := false, settled := false }

/-- A partition at reset: IDLE, no exposure open. -/
def Part.init : Part :=
  { phase := .idle, exposure := 0, nextTick := 0, started := false, step := 0, index := 0, startExposure := 0
    plan := none, restarted := false, admitRing := 0, admitSeq := 0, reportPool := 0, reportSlot := 0
    worstMargin := 0, withdrawAsked := false, withdrawDue := false, startDue := false, clampFull := false, runs := [], queues := []
    barrier := Barrier.init, faultCause := 0, drainDone := false, replaysRaised := []
    sectionNow := none, reshard := ⟨none, none, 0, 0, 0⟩, switched := []
    requests := [], groups := [], restoreDue := [], gens := List.replicate 16 Gen.init
    touchedExperts := [], touchedSets := []
    sectionOld := none, outSlots := [], arrived := [], stripes := [], landCredits := [], landGiven := [], landWaits := []
    switches := [], fabricKey := none, fabricSent := 0, fixer := Fixer.init, once := []
    slotsLate := false, areas := [] }

/-- A core at reset: idle. -/
def Core.init : Core := ⟨none, [], [], [], [], false, false, 0, none, false, false, [], [], [], []⟩

/-- The power manager at reset: no limit in force. -/
def Power.init : Power :=
  { capLimit := 36, capOver := 0, capUnder := 0, heatLimit := 36, heatOver := 0, heatUnder := 0, emergency := none
    once := [], history := [], temps := [], off := false, offDue := false, testing := false, asleep := [] }

/-- The root of trust of a provisioned module at its first power (log entry 38): no owner, no holder, the image and the
record as provisioning left them, a cold start under way. -/
def Trust.init : Trust :=
  { boot := some 0, fuses := 0, recorded := 0, fuseHash := some Config.fuseKeyHash, rootKey := some Config.fuseRootKey
    identity := some Config.wrappedIdentity, chain := Config.certificateChain, coded := true, owner := none, holder := none
    sealKey := false, unsealed := none, memKeys := [], sessions := [], nextSession := 0, chunks := [], large := []
    delivery := none, polled := [], image := some Config.provisionedImage, writing := none
    record := (BistRecord.mk 2 0 0 [] ⟨0, 0, 0, 0, 0⟩ []).flash, calibration := [], retained := [], testArea := []
    saved := [], found := none, planDigests := [] }

/-- The registers whose reset value is "built" or kept, as a provisioned flagship module has them (log entry 38):
usable_gib and the packages of the Negative store (R271), every fabric port TRAINING (R302), the repair rows (log entry
32), the life-cycle state PROVISIONED (R424), and a self-test record that reads passed (R425). -/
def builtRegs : List (Nat × Nat) :=
  [(0x600004, 952), (0x600008, 16)] ++ (List.range 48).map (fun n => (0x900100 + 0x10 * n, 1)) ++
    [(0xB0002C, 1024), (0xD00000, 1), (0xE00004, 2)]

/-- The module as built and after reset: the flagship HN48-064-12-4 (R1), every register at its reset value. -/
def State.reset : State :=
  { fitted := ⟨64, 12, 4, 2 ^ 64 - 1⟩
    regs := builtRegs, counters := [], coarse := [], latch := [], held := []
    time := ⟨0, false, false, none, [], 0, 0⟩
    seq := 0, seqReported := false, stamped := 0
    events := ⟨[], [], [], [], false, 0, [0, 0, 0, 0]⟩
    mem := [], staging := [], neg := [], tags := [], negTags := []
    rings := List.replicate 64 Ring.init
    pools := List.replicate 64 Pool.init
    plans := []
    parts := List.replicate 4 Part.init
    ports := List.replicate 48 Port.init
    tally := ⟨0, 0, 0, 0, 0⟩
    rowsUsed := List.replicate 12 0, retired := [], d2dDown := [], intake := [IntakeUnit.init, IntakeUnit.init]
    power := Power.init, trust := Trust.init, wards := []
    out := ⟨[], [], [], [], [], [], [], []⟩
    cores := List.replicate 64 Core.init, tokens := [], credits := [], layers := []
    shapes := List.replicate 4 [], searches := List.replicate 8 []
    contexts := [], pages := [], devDraws := [], devQueues := []
    freeCtr := 0
    pending := [] }

end Sys2Proof.Machine
end

