-- ==== Sys2Proof/Machine/Ops.lean ====
section
/-! DEFINITION. The named operations over the state: registers and their fields, counters' homes, partitions and the
parts they own, the address spaces, and the outputs of the module. -/

namespace Sys2Proof.Machine

/-! ### Registers -/

/-- The register at BAR0 address `a`: its stored value, or its reset value (R7). -/
def State.reg (s : State) (a : Nat) : Nat := (lookup s.regs a).getD (RegMap.resetOf a)

/-- Store a register; a register at its reset value is not listed. -/
def State.setReg (s : State) (a v : Nat) : State :=
  { s with regs := writeOr (RegMap.resetOf a) s.regs a v }

/-- A field's bits within a register value. -/
def Fld.of (f : Fld) (w : Nat) : Nat := bitsAt w f.lo f.width

/-- A register value with the field's bits replaced. -/
def Fld.put (f : Fld) (w v : Nat) : Nat :=
  w % 2 ^ f.lo + (v % 2 ^ f.width) * 2 ^ f.lo + (w / 2 ^ (f.lo + f.width)) * 2 ^ (f.lo + f.width)

/-- Read a named field. -/
def State.get (s : State) (f : Fld) : Nat := f.of (s.reg f.addr)

/-- Write a named field, the module's own way: no access code applies. -/
def State.set (s : State) (f : Fld) (v : Nat) : State := s.setReg f.addr (f.put (s.reg f.addr) v)

/-- A field that reads non-zero. -/
def State.flag (s : State) (f : Fld) : Bool := s.get f != 0

/-- The module is ready (R410): until then the blocks of BAR0 other than SYS, SEC and BIST do not respond, and writes to them
are discarded (R411). -/
def State.ready (s : State) : Bool := s.flag Reg.secBootStatus_ready

/-- The 64-bit value of the pair whose low register is at `lo` (R7). -/
def State.pair (s : State) (lo : Nat) : Nat := s.reg lo + 2 ^ 32 * s.reg (lo + 4)

/-- Store a pair. -/
def State.setPair (s : State) (lo v : Nat) : State :=
  (s.setReg lo (v % 2 ^ 32)).setReg (lo + 4) (v / 2 ^ 32 % 2 ^ 32)

/-- The value of the statistic counter at low address `lo` (R441). -/
def State.counter (s : State) (lo : Nat) : Nat := readOr 0 s.counters lo

/-! ### Partitions -/

/-- Partition `p`. -/
def State.part (s : State) (p : Nat) : Part := (s.parts[p]?).getD Part.init

/-- Change partition `p`. -/
def State.modPart (s : State) (p : Nat) (f : Part → Part) : State := { s with parts := s.parts.modify p f }

/-- Compute die `d`'s partition (R422). -/
def State.diePart (s : State) (d : Nat) : Nat := bitsAt (s.reg 0xD00018) (2 * d) 2

/-- The compute dies of partition `p`, ascending (R422). -/
def State.diesOf (s : State) (p : Nat) : List Nat := (List.range 4).filter (fun d => s.diePart d = p)

/-- The partitions that own at least one die (R422). -/
def State.partExists (s : State) (p : Nat) : Bool := decide (p < 4) && (s.diesOf p).length != 0

/-- A plan of the partition counts as admitted (R9, R26). -/
def PlanState.isAdmitted : PlanState → Bool
  | .admitted | .running | .held | .faulted => true
  | .idle | .checking => false

/-- The code of a plan state in TICK_STATUS.state (R26). -/
def PlanState.code : PlanState → Nat
  | .idle => 0 | .checking => 1 | .admitted => 2 | .running => 3 | .held => 4 | .faulted => 5

/-- Partition `p` has an admitted plan (R9). -/
def State.admitted (s : State) (p : Nat) : Bool := (s.part p).phase.isAdmitted

/-- Some partition has an admitted plan (R45). -/
def State.anyAdmitted (s : State) : Bool := s.parts.any (fun q => q.phase.isAdmitted)

/-- Every partition's state is IDLE. -/
def State.allIdle (s : State) : Bool := s.parts.all (fun q => q.phase == .idle)

/-- Partition `p` is in RUNNING or HELD. -/
def State.inStep (s : State) (p : Nat) : Bool := (s.part p).phase == .running || (s.part p).phase == .held

/-- A command reaches a module whose rails are on (R396, R397); with the rails off nothing in it acts. The queue of
waiting commands is the step's own. -/
def State.whenOn (s : State) (f : State → State) : State :=
  if s.power.off then s else { f s with pending := s.pending }

/-! ### What is fitted -/

/-- The ordering code is one of the 27 defined parts (R1). -/
def Fitted.legal (f : Fitted) : Bool := [64, 60, 56].contains f.ccc && [8, 10, 12].contains f.ss && [2, 3, 4].contains f.io

/-- The map of active cores holds as many on each compute die as the grade has (R50). -/
def Fitted.mapOk (f : Fitted) : Bool :=
  (List.range 4).all (fun d => ((List.range 16).filter (fun k => bitAt f.phys (16 * d + k) == 1)).length == f.ccc / 4)

/-- The physical cores that are active, in the order of their logical numbers (R2, R50). -/
def Fitted.activeCores (f : Fitted) : List Nat := (List.range 64).filter (fun k => bitAt f.phys k == 1)

/-- The failed-core bits of `old` under the logical numbers of `new`: a bit stays with its physical core (R2, R51). -/
def Fitted.renumber (old new : Fitted) (failed : Nat) : Nat :=
  ((new.activeCores.zipIdx.filter (fun x => bitAt failed (old.activeCores.idxOf x.1) == 1)).map (fun x => 2 ^ x.2)).sum

/-- usable_gib of the ordering code (R271). -/
def Fitted.usableGib (f : Fitted) : Nat := 238 * f.io

/-- Active cores per compute die (R50). -/
def Fitted.coresPerDie (f : Fitted) : Nat := f.ccc / 4

/-- HBM stacks attached to compute die `d` (R48). -/
def Fitted.stacksOn (f : Fitted) (d : Nat) : Nat :=
  if f.ss = 12 then 3 else if f.ss = 10 then (if d < 2 then 3 else 2) else 2

/-- Stacks on the dies before die `d` (R48: stacks are numbered in die order). -/
def Fitted.stacksBefore (f : Fitted) (d : Nat) : Nat := ((List.range d).map f.stacksOn).sum

/-- The compute die of logical core `c` (R2, R50). -/
def Fitted.dieOf (f : Fitted) (c : Nat) : Nat := c / f.coresPerDie

/-- The compute die that stack `st` is attached to (R48). -/
def Fitted.dieOfStack (f : Fitted) (st : Nat) : Nat :=
  ((List.range 4).find? (fun d => st < f.stacksBefore (d + 1))).getD 3

/-- The partition of logical core `c` (R422). -/
def State.corePart (s : State) (c : Nat) : Nat := s.diePart (s.fitted.dieOf c)

/-- The partition of stack `st` (R422). -/
def State.stackPart (s : State) (st : Nat) : Nat := s.diePart (s.fitted.dieOfStack st)

/-! ### Address spaces -/

/-- Usable bytes of one stack: 64 GB less the 1 GiB system region (R49). -/
def stackUsable : Nat := 64 * 10 ^ 9 - 2 ^ 30

/-- Bytes of base-die staging SRAM per die (R47). -/
def stagingDie : Nat := 192 * 2 ^ 20

/-- Stacks of partition `p`. -/
def State.stacksOf (s : State) (p : Nat) : Nat := ((s.diesOf p).map s.fitted.stacksOn).sum

/-- Usable HBM bytes of partition `p`: the range of its partition addresses (R49, R70). -/
def State.hbmSize (s : State) (p : Nat) : Nat := s.stacksOf p * stackUsable

/-- The lowest die of partition `p`. -/
def State.firstDie (s : State) (p : Nat) : Nat := ((s.diesOf p).head?).getD 0

/-- The module address of partition address 0 (log entry 11). -/
def State.hbmBase (s : State) (p : Nat) : Nat := s.fitted.stacksBefore (s.firstDie p) * stackUsable

/-- Staging SRAM bytes of partition `p` (R91). -/
def State.stagingSize (s : State) (p : Nat) : Nat := (s.diesOf p).length * stagingDie

/-- The staging address, die by die, of partition staging address 0 (R91). -/
def State.stagingBase (s : State) (p : Nat) : Nat := s.firstDie p * stagingDie

/-- Read `n` bytes of partition HBM. -/
def State.readHbm (s : State) (p a n : Nat) : List Byte := s.mem.readN (s.hbmBase p + a) n

/-- `l` without the keys of the half-open range. -/
def dropKeys {α : Type} (l : List (Nat × α)) (lo hi : Nat) : List (Nat × α) :=
  l.filter (fun e => decide (e.1 < lo ∨ hi ≤ e.1))

/-- The tags of the 4 KiB blocks that a write of `n` bytes at module address `a` touches become 0x0000 (R260). -/
def untag (tags : List (Nat × Nat)) (a n : Nat) : List (Nat × Nat) :=
  if n = 0 then tags else dropKeys tags (a / 4096) ((a + n + 4095) / 4096)

/-- A write to HBM by module address that passes no Clear encoder (R260). -/
def State.rawHbm (s : State) (a : Nat) (bs : List Byte) : State :=
  { s with
    mem := s.mem.writeN a bs, tags := untag s.tags a bs.length }

/-- A write to the Negative store by space-2 module address that passes no Clear encoder (R260). -/
def State.rawNeg (s : State) (a : Nat) (bs : List Byte) : State :=
  { s with
    neg := s.neg.writeN a bs, negTags := untag s.negTags a bs.length }

/-- Write bytes into partition HBM. -/
def State.writeHbm (s : State) (p a : Nat) (bs : List Byte) : State := s.rawHbm (s.hbmBase p + a) bs

/-- The space-2 module address of partition address 0 of the Negative store (R272). -/
def State.negBase (s : State) (p : Nat) : Nat := s.get (Reg.memNegPartBase p) * 2 ^ 30

/-- The partition HBM address that backs window offset 0 (R97). -/
def State.winBase (s : State) (p : Nat) : Nat := s.pair (Reg.winHbmBase p)

/-- Backed window bytes of partition `p` (R97). -/
def State.winBytes (s : State) (p : Nat) : Nat := s.get (Reg.winSize_size2mib p) * 2 ^ 21

/-- Read `n` bytes of partition `p`'s window. -/
def State.readWin (s : State) (p off n : Nat) : List Byte := s.readHbm p (s.winBase p + off) n

/-- Write bytes into partition `p`'s window. -/
def State.writeWin (s : State) (p off : Nat) (bs : List Byte) : State := s.writeHbm p (s.winBase p + off) bs

/-! ### Sleeping units (R398, R399) -/

/-- The depth at which a unit sleeps; 0 is active. -/
def State.sleepOf (s : State) (u : PowerUnit) : Nat := ((s.power.asleep.find? (fun x => x.1 == u)).map (·.2)).getD 0

/-- Note the depth at which a unit sleeps. -/
def State.setSleep (s : State) (u : PowerUnit) (d : Nat) : State :=
  let rest := s.power.asleep.filter (fun x => !(x.1 == u))
  { s with power := { s.power with asleep := if d = 0 then rest else rest ++ [(u, d)] } }

/-- no_deep is set (R399, R403): a core deeper than C1 comes out to it, and every other unit becomes active. -/
def State.leaveDeep (s : State) : State :=
  { s with power := { s.power with
      asleep := s.power.asleep.filterMap (fun x => match x.1 with
        | .core c => some (.core c, min x.2 1)
        | _ => none) } }

/-- Units that unplanned work reaches leave their power states at once (R399). -/
def State.wake (s : State) (f : PowerUnit → Bool) : State :=
  { s with power := { s.power with asleep := s.power.asleep.filter (fun x => !f x.1) } }

/-- The unit is an HBM stack that holds bytes of the range of module addresses. -/
def PowerUnit.holds (a n : Nat) : PowerUnit → Bool
  | .stack st => decide (a < (st + 1) * stackUsable ∧ st * stackUsable < a + n)
  | _ => false

/-- An access that no plan predicts reaches `n` bytes of HBM at module address `a` (R399). -/
def State.wakeHbm (s : State) (a n : Nat) : State := s.wake (PowerUnit.holds a n)

/-! ### Rings, pools, plans -/

/-- Ring `n`. -/
def State.ring (s : State) (n : Nat) : Ring := (s.rings[n]?).getD Ring.init

/-- Change ring `n`. -/
def State.modRing (s : State) (n : Nat) (f : Ring → Ring) : State := { s with rings := s.rings.modify n f }

/-- The partition that owns ring `n` (R96). -/
def State.ringPart (s : State) (n : Nat) : Nat := s.get (Reg.ringControl_partition n)

/-- Pool `q` of partition `p`. -/
def State.pool (s : State) (p q : Nat) : Pool := (s.pools[16 * p + q]?).getD Pool.init

/-- Change pool `q` of partition `p`. -/
def State.modPool (s : State) (p q : Nat) (f : Pool → Pool) : State :=
  { s with pools := s.pools.modify (16 * p + q) f }

/-- A plan by its identifier. -/
def State.planById (s : State) (id : Nat) : Option Plan := s.plans.find? (fun pl => pl.planId == id)

/-- The plan partition `p` has admitted, or that drains after its withdrawal. -/
def State.planOf (s : State) (p : Nat) : Option Plan := (s.part p).plan.bind s.planById

/-- A section of a plan by its type (R87); an absent section reads as no bytes. -/
def Plan.section (pl : Plan) (ty : Nat) : List Byte := ((pl.sections.find? (fun x => x.1 == ty)).map (·.2)).getD []

/-- A plan carries a section of type `ty`. -/
def Plan.hasSection (pl : Plan) (ty : Nat) : Bool := pl.sections.any (fun x => x.1 == ty)

/-- A graph of a plan by its number. -/
def Plan.graph (pl : Plan) (g : Nat) : Option Graph := pl.graphs.find? (fun x => x.number == g)

/-! ### Outputs of the module -/

/-- Write bytes into submitter memory. -/
def State.hostWrite (s : State) (addr : Nat) (bs : List Byte) : State :=
  { s with out := { s.out with host := s.out.host ++ [⟨addr, bs⟩] } }

/-- Read bytes of submitter memory; what the read returns is an operand of the command. -/
def State.hostRead (s : State) (addr n : Nat) : State := { s with out := { s.out with reads := s.out.reads ++ [(addr, n)] } }

/-- Send the interrupt of vector `v`. -/
def State.sendIrq (s : State) (v : Nat) : State := { s with out := { s.out with irqs := s.out.irqs ++ [v] } }

/-- Answer a read of the host with these bytes. -/
def State.answer (s : State) (bs : List Byte) : State := { s with out := { s.out with reply := bs } }

/-- The Developers' queues hold no request of core `c` any longer (R278). -/
def State.leaveDevelopers (s : State) (c : Nat) : State :=
  { s with devQueues := s.devQueues.map (fun (x : Nat × List (Nat × Nat)) => (x.1, x.2.filter (fun e => e.1 != c))) }

/-- A value the manual leaves open, `w` bits wide, and the state with the next one in turn (log entry 4). -/
def State.takeFree (s : State) (w : Nat) : Nat × State :=
  ((Config.free w s.freeCtr).toNat, { s with freeCtr := s.freeCtr + 1 })

/-- `n` numbered open values have been used (log entry 4). -/
def State.useFree (s : State) (n : Nat) : State := { s with freeCtr := s.freeCtr + n }

end Sys2Proof.Machine
end

