-- ==== Sys2Proof/Machine/Flags.lean ====
section
/-! DEFINITION. Stamps and their sequence (R17 to R19), raising events (R434, R435, R437, R445), the counter rule
(R441), and the tick arithmetic of a partition (R21). -/

namespace Sys2Proof.Machine

/-! ### Stamps -/

/-- The module's position, the origin of its stamps (R17). -/
def State.position (s : State) : Nat := s.get Reg.fabPosition_position

/-- The layout epoch in force (R17). -/
def State.epoch (s : State) : Nat := s.get Reg.fabEpoch_epoch

/-- The sequence value of every stamp after the last distinct one (R19). -/
def seqFull : Nat := 0xFFFFFF

/-- The fabric time of the next stamp: the local one, and never earlier than a stamp already issued in the exposure (R19;
DEDUCED, log entry 62). -/
def State.stampTime (s : State) : Nat := max s.time.now s.stamped

/-- The stamp of the given kind with the next sequence value (R17, R19). -/
def State.stampNow (s : State) (kind : Nat) : Stamp := ⟨s.stampTime, s.position, s.epoch, s.seq, kind⟩

/-- Set seq_saturated in every instance of the TICK block (R19). -/
def State.setSeqSaturated (s : State) : State :=
  (List.range 4).foldl (fun s p => s.set (Reg.tickStatus_seqSaturated p) 1) s

/-- The number of the current exposure of partition 0's grid (R19). -/
def State.exposure0 (s : State) : Nat := (s.part 0).exposure

/-- Put a record at the end of the event path (R437). -/
def State.toPath (s : State) (r : PathRec) : State :=
  { s with events := { s.events with path := s.events.path ++ [r] } }

/-- The state after a stamp was issued: the sequence advances; the first stamp beyond the last distinct value sets
seq_saturated and raises EV_STAMP_SEQ_SATURATED once in the exposure (R19). -/
def State.stampUsed (s : State) : State :=
  if s.seq < seqFull then { s with seq := s.seq + 1 }
  else if s.seqReported then s
  else
    { s with seqReported := true }.setSeqSaturated.toPath
      ⟨⟨s.stampNow 1, Ev.stampSeqSaturated.code, Ev.stampSeqSaturated.sev, 0, 0, 0, s.exposure0 % 2 ^ 32, 0, 0⟩, none⟩

/-- A stamp of this kind goes with what leaves no other record in the state (R18); its fabric time is at least `time`. -/
def State.issueStamp (s : State) (kind time : Nat) : State :=
  let t := max time s.stampTime
  { s with
    stamped := t, out := { s.out with stamps := s.out.stamps ++ [{ s.stampNow kind with time := t }] } }.stampUsed

/-- The order of stamps (R20): by fabric time, then origin, then sequence. -/
def Stamp.before (a b : Stamp) : Bool :=
  decide (a.time < b.time ∨ a.time = b.time ∧ (a.origin < b.origin ∨ a.origin = b.origin ∧ a.seq < b.seq))

/-- The receipt stamp's fabric time: the local time, or one past the send stamp's, whichever is later (R20). -/
def State.receiptTime (s : State) (send : Stamp) : Nat := max s.time.now (send.time + 1)

/-- A message with this send stamp has been received (R18, R20). -/
def State.stampReceipt (s : State) (send : Stamp) : State := s.issueStamp 3 (s.receiptTime send)

/-! ### Events -/

/-- The unit that raises an event: its class and number (R435). -/
structure UnitId where
  cls : Nat
  num : Nat
  deriving DecidableEq, Repr

/-- The module as a whole. -/
def UnitId.module : UnitId := ⟨0, 0⟩
/-- A core. -/
def UnitId.core (c : Nat) : UnitId := ⟨1, c⟩
/-- An HBM stack. -/
def UnitId.stack (n : Nat) : UnitId := ⟨3, n⟩
/-- A Developer unit. -/
def UnitId.developer (n : Nat) : UnitId := ⟨4, n⟩
/-- A reduction engine. -/
def UnitId.engine (n : Nat) : UnitId := ⟨5, n⟩
/-- A fabric port. -/
def UnitId.port (n : Nat) : UnitId := ⟨6, n⟩
/-- An intake unit. -/
def UnitId.intake (n : Nat) : UnitId := ⟨7, n⟩
/-- A ring. -/
def UnitId.ring (n : Nat) : UnitId := ⟨8, n⟩
/-- A window pool. -/
def UnitId.pool (p q : Nat) : UnitId := ⟨9, 16 * p + q⟩
/-- A Negative-store package. -/
def UnitId.negPackage (n : Nat) : UnitId := ⟨10, n⟩
/-- The root of trust. -/
def UnitId.root : UnitId := ⟨11, 0⟩
/-- A partition. -/
def UnitId.partition (p : Nat) : UnitId := ⟨12, p⟩
/-- A temperature sensor. -/
def UnitId.sensor (n : Nat) : UnitId := ⟨13, n⟩
/-- A codec unit: of a stack, or 64 + Negative-store package. -/
def UnitId.codec (n : Nat) : UnitId := ⟨14, n⟩
/-- The power manager and input stage. -/
def UnitId.power : UnitId := ⟨15, 0⟩

/-- The details of an event (R434): object, value, value2 and cause; what a code does not name is zero. -/
structure Detail where
  object : Nat := 0
  value : Nat := 0
  value2 : Nat := 0
  cause : Nat := 0
  deriving DecidableEq, Repr

/-- The record of an event with this stamp; a quantity wider than its field holds its low bits (R434). -/
def EvKind.recordOf (e : EvKind) (st : Stamp) (u : UnitId) (d : Detail) : EventRec :=
  ⟨st, e.code, e.sev, u.cls, u.num, d.object % 2 ^ 16, d.value % 2 ^ 32, d.value2 % 2 ^ 32, d.cause % 2 ^ 8⟩

/-- Raise an event that concerns partition `concern` (R434, R437): its stamped record enters the event path. -/
def State.raiseFor (s : State) (concern : Option Nat) (e : EvKind) (u : UnitId) (d : Detail) : State :=
  s.stampUsed.toPath ⟨e.recordOf (s.stampNow 1) u d, concern⟩

/-- Raise an event whose owner follows from its unit alone (R438). -/
def State.raise (s : State) (e : EvKind) (u : UnitId) (d : Detail := {}) : State := s.raiseFor none e u d

/-- An event record's 32 bytes (R434). -/
def EventRec.bytes (r : EventRec) : List Byte :=
  r.stamp.bytes ++ leBytes r.code 2 ++ leBytes (r.sev % 16 + 16 * r.cls) 1 ++ leBytes r.unit 2 ++
    leBytes r.object 2 ++ leBytes r.value 4 ++ leBytes r.value2 4 ++ leBytes r.cause 1

/-! ### Counters -/

/-- The largest count of a statistic counter (R441). -/
def counterMax : Nat := 2 ^ 48 - 1

/-- The unit that raises EV_COUNTER_SATURATED for the counter at `lo`: the unit whose block holds it, the module for
a block of the whole module (log entry 12). -/
def counterUnit (lo : Nat) : UnitId :=
  if lo < 0x200000 then UnitId.partition ((lo - 0x100000) / 0x1000)
  else if lo < 0x300000 then UnitId.ring ((lo - 0x200000) / 0x100)
  else if lo < 0x400000 then
    let p := (lo - 0x300000) / 0x1000
    let o := (lo - 0x300000) % 0x1000
    if 0x400 ≤ o ∧ o < 0x800 then UnitId.pool p ((o - 0x400) / 0x40) else UnitId.partition p
  else if 0x700000 ≤ lo ∧ lo < 0x800000 then UnitId.partition ((lo - 0x700000) / 0x1000)
  else if 0x901000 ≤ lo ∧ lo < 0x902000 then UnitId.port ((lo - 0x901000) / 0x40)
  else if 0xA00000 ≤ lo ∧ lo < 0xB00000 then UnitId.intake ((lo - 0xA00000) / 0x1000)
  else if 0xC00000 ≤ lo ∧ lo < 0xD00000 then UnitId.power
  else if 0xD00000 ≤ lo ∧ lo < 0xF00000 then UnitId.root
  else if 0xF00000 ≤ lo ∧ lo < 0x1000000 then UnitId.partition ((lo - 0xF00000) / 0x1000)
  else if 0x1000000 ≤ lo then UnitId.core ((lo - 0x1000000) / 0x10000)
  else UnitId.module

/-- Add `n` to the counter at `lo` (R441): it stays at 2^48 - 1, and the increment that first reaches or passes
2^48 - 1 raises EV_COUNTER_SATURATED. -/
def State.count (s : State) (lo : Nat) (n : Nat := 1) : State :=
  let old := s.counter lo
  let s' := { s with counters := writeOr 0 s.counters lo (min (old + n) counterMax) }
  if old < counterMax ∧ counterMax ≤ old + n then s'.raise Ev.counterSaturated (counterUnit lo) { value := lo } else s'

/-- Set the counter at `lo` to 0; its saturation event is armed again (R441). -/
def State.clearCounter (s : State) (lo : Nat) : State := { s with counters := writeOr 0 s.counters lo 0 }

/-- Local units per unit of slew: 50 parts per million (R331). -/
def slewInterval : Nat := 20000

/-- One 0.25 ns unit of the local reference (R14, R331): fabric time counts it, and one unit in 20,000 is doubled or left
out while an offset beyond 1 ns is slewed away. -/
def TimeState.unit (t : TimeState) : TimeState :=
  if t.slew.natAbs ≤ 4 then { t with now := t.now + 1, sinceSlew := 0 }
  else if t.sinceSlew + 1 < slewInterval then { t with now := t.now + 1, sinceSlew := t.sinceSlew + 1 }
  else if 0 < t.slew then { t with now := t.now + 2, slew := t.slew - 1, sinceSlew := 0 }
  else { t with slew := t.slew + 1, sinceSlew := 0 }

/-- Fabric time counts one 0.25 ns unit once it has locked (R14; log entry 3). -/
def State.passTime (s : State) : State := if s.time.everLocked then { s with time := s.time.unit } else s

/-! ### The tick grid -/

/-- Exposure length L of partition `p` in fabric-time units (R21). -/
def State.exposureUnits (s : State) (p : Nat) : Nat := s.get (Reg.tickExposureLen_lenUs p) * 4000

/-- Fabric time of the tick that opens exposure `n` of partition `p`'s grid (R21). -/
def State.tickTime (s : State) (p n : Nat) : Nat := s.pair (Reg.tickOrigin p) + n * s.exposureUnits p

/-- The barrier guard G of partition `p` in fabric-time units (R24). -/
def State.guardUnits (s : State) (p : Nat) : Nat := s.get (Reg.tickBarrierGuard_guardNs p) * 4

/-- The next exposure whose tick is still to come on the grid as it now stands (R21). -/
def State.nextTickOf (s : State) (p : Nat) : Nat :=
  let o := s.pair (Reg.tickOrigin p)
  if s.time.now < o then 0 else (s.time.now - o) / s.exposureUnits p + 1

end Sys2Proof.Machine
end

