-- ==== Sys2Proof/Machine/Events.lean ====
section
/-! DEFINITION. The event collector (R437 to R440): the module log, the flash event log, the partitions' event rings
with their overrun records, and the interrupt of a ring. -/

namespace Sys2Proof.Machine

/-- Codes of the root of trust's records that go to every enabled ring (R438). -/
def rootToAll : List Nat := [Ev.partitionChanged.code]

/-- Codes of the root of trust's records that go to the ring of the partition concerned (R438). -/
def rootToConcerned : List Nat := [Ev.sessionClosed.code, Ev.vendorCmdRefused.code, Ev.sealKeyReleased.code]

/-- The partitions whose rings a record goes to, before the test that the ring is enabled (R438). -/
def State.owners (s : State) (r : PathRec) : List Nat :=
  let all := [0, 1, 2, 3]
  let named := match r.concern with
    | some p => [p]
    | none => all
  match r.record.cls with
  | 1 => [s.corePart r.record.unit]
  | 2 => [s.diePart (r.record.unit / 2)]
  | 3 => [s.stackPart r.record.unit]
  | 4 => [s.stackPart ((r.record.unit - 64) / 4)]
  | 5 => named
  | 6 => [s.get (Reg.fabPort_partition r.record.unit)]
  | 7 => [s.get (Reg.intUnitControl_partition r.record.unit)]
  | 8 => [s.ringPart r.record.unit]
  | 9 => [r.record.unit / 16]
  | 10 => named
  | 11 =>
    if rootToAll.contains r.record.code then all
    else if rootToConcerned.contains r.record.code then [r.concern.getD 0]
    else [0]
  | 12 => [r.record.unit]
  | 14 => if r.record.unit < 64 then [s.stackPart r.record.unit] else named
  | _ => all

/-- Records the event ring of partition `p` holds (R442). -/
def State.eventRingSize (s : State) (p : Nat) : Nat := 2 ^ s.get (Reg.evtRingSize_sizeLog2 p)

/-- Records written and not yet consumed (R439). -/
def State.eventRingUsed (s : State) (p : Nat) : Nat :=
  (s.get (Reg.evtRingHead p) + 2 ^ 32 - s.get (Reg.evtRingTail p)) % 2 ^ 32

/-- The ring has a free slot (R439). -/
def State.eventRingRoom (s : State) (p : Nat) : Bool := decide (s.eventRingUsed p < s.eventRingSize p)

/-- A signed 32-bit quantity rounded toward zero to a multiple of `k`, as 32 bits. -/
def towardZero (k v : Nat) : Nat :=
  let x := signed 32 v
  unsigned 32 (Int.tdiv x (k : Int) * k)

/-- The average of a quantity over the readings of the last 100 ms, or `v` where there is none (R423). -/
def State.lately (s : State) (f : Nat × Nat × Nat → Nat) (v : Nat) : Nat :=
  let h := s.power.history
  if h.isEmpty then v else (h.map f).sum / h.length

/-- A record as a tenant without full view sees it (R423, R434), coarsened as the registers of the same quantities are:
voltage and power by their averages of the last 100 ms, to 1 V and 50 W, and temperatures to 2 °C. -/
def State.coarseRecord (s : State) (r : EventRec) : EventRec :=
  if [Ev.busDroop.code, Ev.busLow.code, Ev.busSurge.code, Ev.busFail.code].contains r.code then
    { r with value := s.lately (·.2.1) r.value / 1000 * 1000 }
  else if r.code = Ev.powerCapExceeded.code then { r with value := s.lately (·.1) r.value / 50 * 50 }
  else if r.code = Ev.thermalThrottle.code then { r with value := towardZero 20 r.value }
  else if r.code = Ev.coolantLimit.code then { r with value2 := towardZero 20 r.value2 }
  else r

/-- Write one record into partition `p`'s ring: the record, then HEAD, the count, EVT_LAST, and the interrupt if the
filter asks for it (R439). -/
def State.writeEventRing (s : State) (p : Nat) (r : EventRec) : State :=
  let h := s.get (Reg.evtRingHead p)
  let off := s.get (Reg.evtRingOffset_offset4kib p) * 4096 + 32 * (h % s.eventRingSize p)
  let seen := if s.flag Reg.secView_fullView then r else s.coarseRecord r
  let s := (s.writeWin p off seen.bytes).set (Reg.evtRingHead p) (h + 1)
  let s := ((s.set (Reg.evtLast_code p) r.code).set (Reg.evtLast_severity p) r.sev).count (Ctr.evtEventsWrittenCount p)
  if s.flag (Reg.evtFilter_irqEnable p) && decide (s.get (Reg.evtFilter_irqSeverity p) ≤ r.sev) then
    s.sendIrq (s.get (Reg.evtFilter_msixVector p))
  else s

/-- Records dropped since the last EV_EVENT_LOG_OVERRUN of partition `p`. -/
def State.overrunOf (s : State) (p : Nat) : Nat := (s.events.overrun[p]?).getD 0

/-- Change that count. -/
def State.setOverrun (s : State) (p n : Nat) : State :=
  { s with events := { s.events with overrun := s.events.overrun.set p n } }

/-- Once a slot of an enabled ring is free, the overrun record goes in before any later record (R439). -/
def State.flushOverrun (s : State) (p : Nat) : State :=
  let n := s.overrunOf p
  if n = 0 || !s.flag (Reg.evtRingSize_enable p) || !s.eventRingRoom p then s
  else
    let r := Ev.eventLogOverrun.recordOf (s.stampNow 1) UnitId.module
      { object := p, value := min n (2 ^ 32 - 1) }
    (s.stampUsed.setOverrun p 0).writeEventRing p r

/-- Deliver a record to partition `p`'s ring: written if it fits, otherwise dropped and counted (R438, R439). -/
def State.deliver (s : State) (p : Nat) (r : EventRec) : State :=
  if !s.flag (Reg.evtRingSize_enable p) then s
  else
    let s := s.flushOverrun p
    if s.eventRingRoom p then s.writeEventRing p r
    else
      ((s.count (Ctr.evtEventsLostCount p)).set (Reg.evtStatus_overrun p) 1).setOverrun p (s.overrunOf p + 1)

/-- Records the module's event log holds (R437). -/
def logSize : Nat := 65536

/-- Records the flash event-log area holds (R407). -/
def flashLogSize : Nat := 64 * 2 ^ 20 / 32

/-- The newest `n` records of a log. -/
def newest (n : Nat) (l : List EventRec) : List EventRec := l.drop (l.length - n)

/-- The collector accepts a record: the module log, the flash log for severity 4 or 5, and the owning rings
(R437, R438, R440). -/
def State.accept (s : State) (r : PathRec) : State :=
  let ev := s.events
  let ev := { ev with log := newest logSize (ev.log ++ [r.record]) }
  let ev := if 4 ≤ r.record.sev then
      { ev with
        flash := newest flashLogSize (ev.flash ++ [r.record]), flashNew := ev.flashNew + 1 }
    else ev
  (s.owners r).foldl (fun s p => s.deliver p r.record) { s with events := ev }

/-- EVENT_COLLECT (R437): the collector drains one record from the event path; a record that found the path full
is counted in events_lost_count of partition 0. -/
def doEventCollect (pathFull : Bool) (s : State) : State :=
  match s.events.path with
  | [] => s
  | r :: rest =>
    let s := { s with events := { s.events with path := rest } }
    if pathFull then s.count (Ctr.evtEventsLostCount 0) else s.accept r

/-- Partition 0's ring is first enabled after a start: the flash records appended since the previous start, then
all records of the current start that the module log holds, whichever ring they were for (R440). -/
def State.firstEventRing (s : State) : State :=
  if s.events.ring0Seen then s
  else
    let old := s.events.backlog ++ s.events.log
    let s := { s with events := { s.events with ring0Seen := true, backlog := [] } }
    old.foldl (fun s r => s.deliver 0 r) s

end Sys2Proof.Machine
end

