-- ==== Sys2Proof/Machine/Window.lean ====
section
/-! DEFINITION. The exchange window: the clamp log (R93, R94), slot pools and their geometry (R77, R447), slot headers
(R78), flips (R80), the module's transitions (R82), time-outs, and the submitter's window accesses (R63, R81). -/

namespace Sys2Proof.Machine

/-! ### The clamp log -/

/-- Bytes of partition `p`'s clamp log (R94). -/
def State.clampLogBytes (s : State) (p : Nat) : Nat := 32 * 2 ^ s.get (Reg.winClampLog_sizeLog2 p)

/-- The clamp log lies wholly within the backed window (R94). -/
def State.clampLogBacked (s : State) (p : Nat) : Bool :=
  within (s.get (Reg.winClampLog_offset p)) (s.clampLogBytes p) 0 (s.winBytes p)

/-- A clamp the module made (R93): where, its source, the field's bits, the ring, and the values written and
stored. -/
structure Clamp where
  location : Nat
  source : Nat
  bitLow : Nat
  width : Nat
  ring : Nat
  written : Nat
  stored : Nat
  deriving DecidableEq, Repr

/-- The clamp-log entry of a clamp, with the stamp of its EV_FIELD_CLAMPED record (R93). -/
def Clamp.bytes (c : Clamp) (st : Stamp) : List Byte :=
  st.bytes ++ leBytes c.location 4 ++ leBytes c.source 1 ++ leBytes c.bitLow 1 ++ leBytes c.width 1 ++
    leBytes c.ring 1 ++ leBytes c.written 4 ++ leBytes c.stored 4

/-- Report one clamp to partition `p`'s log (R93, R94); `u` raises its event. -/
def State.reportClamp (s : State) (u : UnitId) (p : Nat) (c : Clamp) : State :=
  let st := s.stampNow 1
  let s := s.raise Ev.fieldClamped u { object := c.ring, value := c.location }
  let size := 2 ^ s.get (Reg.winClampLog_sizeLog2 p)
  let head := s.get (Reg.winClampLog_head p)
  let used := (head + 2 ^ 32 - s.get (Reg.winClampLog_tail p)) % 2 ^ 32
  if !s.clampLogBacked p then s.count (Ctr.winClampLost p)
  else if used < size then
    ((s.writeWin p (s.get (Reg.winClampLog_offset p) + 32 * (head % size)) (c.bytes st)).set
      (Reg.winClampLog_head p) (head + 1)).count (Ctr.winClampsLogged p)
  else
    let s := s.count (Ctr.winClampLost p)
    if (s.part p).clampFull then s
    else (s.modPart p (fun q => { q with clampFull := true })).raise Ev.clampLogFull (UnitId.partition p) { object := p }

/-! ### Pool geometry -/

/-- Round up to 2 MiB. -/
def up2Mib (n : Nat) : Nat := ceilDiv n (2 ^ 21) * 2 ^ 21

/-- Window offset of the pool's headers (R77). -/
def State.poolBase (s : State) (p q : Nat) : Nat := s.get (Reg.winPool_base p q) * 2 ^ 21

/-- Slots N of the pool (R97). -/
def State.poolCount (s : State) (p q : Nat) : Nat := s.get (Reg.winPool_slots p q)

/-- Payload bytes of a slot (R97). -/
def State.slotBytes (s : State) (p q : Nat) : Nat := 2 ^ s.get (Reg.winPool_slotLog2 p q)

/-- Use of the pool: 0 off, 1 intake, 2 command, 3 output (R97). -/
def State.poolUse (s : State) (p q : Nat) : Nat := s.get (Reg.winPool_use p q)

/-- Window offset of the pool's first payload (R77). -/
def State.payloadBase (s : State) (p q : Nat) : Nat := s.poolBase p q + up2Mib (64 * s.poolCount p q)

/-- Window offset of slot `i`'s payload (R77). -/
def State.payloadOf (s : State) (p q i : Nat) : Nat := s.payloadBase p q + i * s.slotBytes p q

/-- Bytes of the pool's extent (R77). -/
def State.poolExtent (s : State) (p q : Nat) : Nat :=
  up2Mib (64 * s.poolCount p q) + s.poolCount p q * s.slotBytes p q

/-- The window range `[a, a + n)` overlaps an enabled pool of partition `p` other than `except`. -/
def State.hitsPool (s : State) (p except a n : Nat) : Bool :=
  (List.range 16).any (fun q => q != except && s.poolUse p q != 0 &&
    overlaps a n (s.poolBase p q) (s.poolExtent p q))

/-- Slot `i` of the pool. -/
def State.slot (s : State) (p q i : Nat) : Slot :=
  ((s.pool p q).slots[i]?).getD ⟨.free, 0, 0, 0, 0, 0, 0, 0, 0⟩

/-- Change slot `i` of the pool. -/
def State.modSlot (s : State) (p q i : Nat) (f : Slot → Slot) : State :=
  s.modPool p q (fun pl => { pl with slots := pl.slots.modify i f })

/-- Codes of the slot states (R79). -/
def SlotState.code : SlotState → Nat
  | .free => 0 | .offered => 1 | .filled => 2 | .consuming => 3 | .result => 4 | .reclaimed => 5

/-- The 64 bytes of a slot header (R78). -/
def Slot.bytes (sl : Slot) (q i : Nat) : List Byte :=
  leBytes sl.state.code 4 ++ leBytes sl.gen 4 ++ leBytes q 2 ++ leBytes 0 2 ++ leBytes i 4 ++ leBytes sl.deadline 8 ++
    leBytes sl.tag 8 ++ leBytes sl.length 4 ++ leBytes sl.crc 4 ++ leBytes sl.format 1 ++ leBytes sl.hflags 1 ++
    leBytes sl.variant 2 ++ leBytes 0 20

/-- A slot whose submitter fields (offsets 24 to 43) are taken from header bytes (R78). -/
def Slot.withHeader (sl : Slot) (bs : List Byte) : Slot :=
  { sl with tag := fieldAt bs 24 8, length := fieldAt bs 32 4, crc := fieldAt bs 36 4, format := fieldAt bs 40 1,
            hflags := fieldAt bs 41 1, variant := fieldAt bs 42 2 }

/-! ### Transitions the module makes -/

/-- The deadline of a slot handed over now (R78, R82): none before fabric time first locked. -/
def State.newDeadline (s : State) (p q : Nat) : Nat :=
  if s.time.everLocked then s.time.now + s.get (Reg.winPool_timeoutMs p q) * 4000000 else 0

/-- The window interrupt (R82). -/
def State.winIrq (s : State) (p : Nat) : State :=
  if s.flag (Reg.winStatus_irqEnable p) then s.sendIrq (s.get (Reg.winStatus_msixVector p)) else s

/-- The window interrupts of `n` transitions. -/
def State.winIrqs (s : State) (p : Nat) : Nat → State
  | 0 => s
  | n + 1 => State.winIrqs (s.winIrq p) p n

/-- A transition into OFFERED or RESULT: the generation rises, the deadline is set, the window interrupt is sent
(R82). -/
def State.handOver (s : State) (p q i : Nat) (st : SlotState) : State :=
  let d := s.newDeadline p q
  (s.modSlot p q i (fun sl => { sl with state := st, gen := (sl.gen + 1) % 2 ^ 32, deadline := d })).winIrq p

/-- A FILLED slot is taken (R82): CONSUMING, and the pool's consumed count rises. -/
def State.consumeSlot (s : State) (p q i : Nat) : State :=
  (s.modSlot p q i (fun sl => { sl with state := .consuming, deadline := 0 })).count (Ctr.poolConsumed p q)

/-- The use of a slot ends: it is offered again (R82). -/
def State.releaseSlot (s : State) (p q i : Nat) : State :=
  if (s.slot p q i).state == .consuming then s.handOver p q i .offered else s

/-- The slot of a pool of the given use is FILLED (R84). -/
def State.slotFilled (s : State) (p q i use : Nat) : Bool :=
  decide (q < 16) && s.poolUse p q == use && decide (i < (s.pool p q).slots.length) && (s.slot p q i).state == .filled

/-- Every slot of a pool returned to FREE; the pool holds no slots while its use is 0 (R82). The outputs it dropped in the
exposure stay to be reported at its end (R83). -/
def State.disablePool (s : State) (p q : Nat) : State :=
  let units := s.intake.map (fun (u : IntakeUnit) =>
    { u with queue := u.queue.filter (fun x => !(x.1 == p && x.2.1 == q)) })
  { s with intake := units }.modPool p q (fun pl => { Pool.init with dropped := pl.dropped })

/-- A pool enabled (R82): intake and command slots are offered with generation 1, each with its window interrupt; output
slots are FREE with generation 0. DESIGN CHOICE (log entry 63): tag, length, crc32c, format, hflags and variant of the
headers are 0 then. -/
def State.enablePool (s : State) (p q use : Nat) : State :=
  let n := s.poolCount p q
  if use = 3 then
    s.modPool p q (fun pl => ⟨List.replicate n ⟨.free, 0, 0, 0, 0, 0, 0, 0, 0⟩, pl.dropped⟩)
  else
    let d := s.newDeadline p q
    (s.modPool p q (fun pl => ⟨List.replicate n ⟨.offered, 1, d, 0, 0, 0, 0, 0, 0⟩, pl.dropped⟩)).winIrqs p n

/-- The lowest-numbered FREE or RECLAIMED slot of an output pool (R82). -/
def State.freeOutput (s : State) (p q : Nat) : Option Nat :=
  (s.pool p q).slots.findIdx? (fun sl => sl.state == .free || sl.state == .reclaimed)

/-! ### The submitter's accesses -/

/-- What a byte of the window is: a header byte of a slot, a payload byte of a slot, or plain backing memory. -/
inductive WinByte
  | header (q i b : Nat)
  | payload (q i : Nat)
  | other
  deriving DecidableEq, Repr

/-- Classify the byte at a window offset (R77). -/
def State.winByte (s : State) (p off : Nat) : WinByte :=
  ((List.range 16).findSome? (fun q =>
    if s.poolUse p q = 0 then none
    else
      let n := (s.pool p q).slots.length
      if s.poolBase p q ≤ off ∧ off < s.poolBase p q + 64 * n then
        some (WinByte.header q ((off - s.poolBase p q) / 64) ((off - s.poolBase p q) % 64))
      else if s.payloadBase p q ≤ off ∧ off < s.payloadBase p q + n * s.slotBytes p q then
        some (WinByte.payload q ((off - s.payloadBase p q) / s.slotBytes p q))
      else none)).getD .other

/-- Record an access to the window that is not permitted (R63, R78; log entry 48). -/
def State.winBad (s : State) (p off : Nat) : State :=
  (s.set (Reg.winStatus_accessBad p) 1).raise Ev.winAccessBad (UnitId.partition p)
    { value := (p * 2 ^ 36 + off) / 64, cause := 1 }

/-- The submitter may write this byte now (R78, R81). -/
def State.mayWrite (s : State) (p off : Nat) : Bool :=
  decide (off < s.winBytes p) &&
    match s.winByte p off with
    | .header q i b => decide (24 ≤ b ∧ b < 44) && (s.slot p q i).state == .offered
    | .payload q i => (s.slot p q i).state == .offered
    | .other => true

/-- Store one permitted byte. -/
def State.putWinByte (s : State) (p off : Nat) (b : Byte) : State :=
  match s.winByte p off with
  | .header q i k => s.modSlot p q i (fun sl => sl.withHeader (patch (sl.bytes q i) k [b]))
  | _ => s.writeWin p off [b]

/-- What the submitter reads at a window offset (R63, R78, R81). -/
def State.seenWinByte (s : State) (p off : Nat) : Byte :=
  if s.winBytes p ≤ off then 0xFF
  else match s.winByte p off with
    | .header q i k => (((s.slot p q i).bytes q i)[k]?).getD 0
    | .payload q i =>
      if (s.slot p q i).state == .offered || (s.slot p q i).state == .result then
        s.mem.read (s.hbmBase p + s.winBase p + off)
      else 0xFF
    | .other => s.mem.read (s.hbmBase p + s.winBase p + off)

/-- An access through the exchange window wakes the stacks it reaches (R399). -/
def State.wakeWin (s : State) (p off n : Nat) : State := s.wakeHbm (s.hbmBase p + s.winBase p + off) n

/-- WINDOW_READ (R81): payload while OFFERED or RESULT, all ones otherwise and beyond the backed window. -/
def doWindowRead (p offset len : Nat) (s : State) : State :=
  let s := s.wakeWin p offset len
  let s' := s.answer ((List.range len).map (fun k => s.seenWinByte p (offset + k)))
  if s.winBytes p < offset + len then s'.winBad p offset else s'

/-- WIN_ACCESS_BAD (R63): a reserved BAR4 page, or BAR2 beyond the backed window: all ones, or discarded. -/
def doWinAccessBad (bar offset : Nat) (write : Bool) (s : State) : State :=
  let p := offset / 2 ^ 36
  let bad := if bar = 4 then decide (2 ^ 18 ≤ offset ∧ offset < 2 ^ 20)
    else bar == 2 && decide (p < 4) && decide (s.winBytes p ≤ offset % 2 ^ 36)
  if !bad then s
  else
    let s := if write then s else s.answer [0xFF, 0xFF, 0xFF, 0xFF]
    if bar = 4 then s.raise Ev.winAccessBad UnitId.module { value := offset / 64, cause := 2 }
    else s.winBad p (offset % 2 ^ 36)

/-! ### Flips and time-outs -/

/-- A flip that is discarded (R80). -/
def State.refuseFlip (s : State) (p q i gen : Nat) : State :=
  (s.count (Ctr.poolStaleFlip p q)).raise Ev.slotFlipRefused (UnitId.pool p q) { value := i, value2 := gen }

/-- The flip reached the window unit before the slot's time-out expired (R80). -/
def State.flipInTime (s : State) (sl : Slot) : Bool := sl.deadline == 0 || decide (s.time.now < sl.deadline)

/-- A filled slot joins the queue of the intake unit its pool feeds (R82, R340). -/
def State.joinIntake (s : State) (p q i : Nat) : State :=
  let units := s.intake.modify (s.get (Reg.winPool_intake p q)) (fun u => { u with queue := u.queue ++ [(p, q, i)] })
  { s with intake := units }

/-- One naturally aligned 64-bit write of a slot flag: the compare-and-set (R80, R82). DESIGN CHOICE (log entry 63): bits
31:8 of the value are ignored. -/
def State.flip (s : State) (p pool slot : Nat) (value : BitVec 64) : State :=
  let code := bitsAt value.toNat 0 8
  let gen := bitsAt value.toNat 32 32
  let sl := s.slot p pool slot
  let use := s.poolUse p pool
  if (s.pool p pool).slots.length ≤ slot then s
  else if gen != sl.gen || !s.flipInTime sl then s.refuseFlip p pool slot gen
  else match sl.state, code with
    | .offered, 2 =>
      let s := s.modSlot p pool slot (fun sl => { sl with state := .filled, deadline := 0 })
      if use = 1 then s.joinIntake p pool slot else s
    | .filled, 6 => if use = 2 then s.handOver p pool slot .offered else s.refuseFlip p pool slot gen
    | .result, 6 =>
      if use = 3 then s.modSlot p pool slot (fun sl => { sl with state := .free, deadline := 0 })
      else s.handOver p pool slot .offered
    | _, _ => s.refuseFlip p pool slot gen

/-- SLOT_FLIP (R80, R82): the compare-and-set of a slot flag. -/
def doSlotFlip (p pool slot : Nat) (value : BitVec 64) (s : State) : State := s.flip p pool slot value

/-- The byte lies in the flag field of a slot header (R78). -/
def State.flagByte (s : State) (p off : Nat) : Bool :=
  match s.winByte p off with
  | .header _ _ b => decide (b < 8)
  | _ => false

/-- Store the permitted bytes of a submitter write and discard the others. -/
def State.putWin (s : State) (p off : Nat) : List Byte → State
  | [] => s
  | b :: bs => State.putWin (if s.mayWrite p off then s.putWinByte p off b else s) p (off + 1) bs

/-- The generation that a partial write of slot `i`'s flag carries: the written bytes, the others 0. -/
def genWritten (flagOff off : Nat) (bytes : List Byte) : Nat :=
  (List.range 4).foldl (fun acc k =>
    let a := flagOff + 4 + k
    if a < off then acc else acc + (((bytes[a - off]?).getD 0).toNat) * 2 ^ (8 * k)) 0

/-- A write to flag fields that is not one aligned 64-bit write is discarded and counted for each slot it touches
(R80). -/
def State.refuseFlags (s : State) (p off : Nat) (bytes : List Byte) : State :=
  ((List.range bytes.length).filterMap (fun k =>
      match s.winByte p (off + k) with
      | .header q i b => if b < 8 ∧ (b = 0 ∨ k = 0) then some (q, i, off + k - b) else none
      | _ => none)).foldl
    (fun s x => s.refuseFlip p x.1 x.2.1 (genWritten x.2.2 off bytes)) s

/-- WINDOW_WRITE (R78, R80, R81): each byte is stored if permitted, otherwise discarded with EV_WIN_ACCESS_BAD; a
write to a flag field is a flip, refused unless it is one aligned 64-bit write. -/
def doWindowWrite (p offset : Nat) (bytes : List Byte) (s : State) : State :=
  match s.winByte p offset, decide (bytes.length = 8) with
  | .header q i 0, true => s.flip p q i (BitVec.ofNat 64 (fieldAt bytes 0 8))
  | _, _ =>
    let bad := (List.range bytes.length).any (fun k =>
      !s.mayWrite p (offset + k) && !s.flagByte p (offset + k))
    let s' := ((s.wakeWin p offset bytes.length).putWin p offset bytes).refuseFlags p offset bytes
    if bad then s'.winBad p offset else s'

/-- Fabric time moves on to `t` (R14); it never steps backwards (R331). -/
def State.advanceTo (s : State) (t : Nat) : State :=
  { s with time := { s.time with now := max s.time.now t } }

/-- SLOT_TIMEOUT (R82): fabric time reaches the slot's deadline. -/
def doSlotTimeout (p pool slot : Nat) (s : State) : State :=
  let sl := s.slot p pool slot
  if sl.deadline = 0 then s
  else
    let s := s.advanceTo sl.deadline
    match sl.state with
    | .offered => (s.handOver p pool slot .offered).count (Ctr.poolReclaim p pool)
    | .result =>
      let s := if s.poolUse p pool = 3 then
          s.modSlot p pool slot (fun sl => { sl with state := .reclaimed, gen := (sl.gen + 1) % 2 ^ 32, deadline := 0 })
        else s.handOver p pool slot .offered
      (s.count (Ctr.poolReclaim p pool)).raise Ev.slotReclaimed (UnitId.pool p pool)
        { value := slot, value2 := (sl.gen + 1) % 2 ^ 32 }
    | _ => s

/-! ### Outputs -/

/-- The fields of an output's slot header (R82, R443). -/
structure OutputHeader where
  tag : Nat
  length : Nat
  crc : Nat
  format : Nat
  hflags : Nat
  variant : Nat
  deriving DecidableEq, Repr

/-- Write one output into the lowest FREE or RECLAIMED slot of the pool, or discard it (R82, R83). -/
def State.emit (s : State) (p q : Nat) (h : OutputHeader) (payload : List Byte) : State :=
  match s.freeOutput p q with
  | none => (s.count (Ctr.poolDropped p q)).modPool p q (fun pl => { pl with dropped := pl.dropped + 1 })
  | some i =>
    let s := s.writeWin p (s.payloadOf p q i) payload
    let s := s.modSlot p q i (fun sl =>
      { sl with
        tag := h.tag, length := h.length, crc := h.crc, format := h.format, hflags := h.hflags, variant := h.variant })
    s.handOver p q i .result

/-- A report ends in its command slot (R82): length and format are set and the slot becomes RESULT. A slot whose pool was
switched off meanwhile is FREE and takes no report. -/
def State.writeReport (s : State) (p q i : Nat) (report : List Byte) : State :=
  if (s.slot p q i).state != .consuming then s else
  let s := s.writeWin p (s.payloadOf p q i) report
  let s := s.modSlot p q i (fun sl => { sl with length := report.length, format := 0x11 })
  s.handOver p q i .result

/-- At the tick that closes an exposure, each pool that dropped outputs in it raises EV_SLOT_STARVED once (R83). -/
def State.reportStarved (s : State) (p : Nat) : State :=
  (List.range 16).foldl (fun s q =>
    let n := (s.pool p q).dropped
    if n = 0 then s
    else (s.modPool p q (fun pl => { pl with dropped := 0 })).raise Ev.slotStarved (UnitId.pool p q)
      { value := min n (2 ^ 32 - 1) }) s

end Sys2Proof.Machine
end

