-- ==== Sys2Proof/Machine/Tensors.lean ====
section
/-! DEFINITION. Data-type codes (R13) and the geometry of a tensor in its space (R91): elements, strides, the bytes
it covers, the scale array of an MX type, and where a byte of each space lies in the module's memories. -/

namespace Sys2Proof.Machine

/-- The data-type codes of R13. -/
inductive DType
  | mxfp4 | mxfp6e2m3 | mxfp6e3m2 | e4m3 | e5m2 | mxfp8 | bf16 | fp16 | fp32 | int8 | uint8 | uint16 | int32 | uint32
  deriving DecidableEq, Repr

/-- Decode a data-type code; any other value is refused (R13). -/
def DType.ofCode : Nat → Option DType
  | 0x01 => some .mxfp4 | 0x02 => some .mxfp6e2m3 | 0x03 => some .mxfp6e3m2 | 0x04 => some .e4m3
  | 0x05 => some .e5m2 | 0x06 => some .mxfp8 | 0x07 => some .bf16 | 0x08 => some .fp16 | 0x09 => some .fp32
  | 0x10 => some .int8 | 0x11 => some .uint8 | 0x12 => some .uint16 | 0x13 => some .int32 | 0x14 => some .uint32
  | _ => none

/-- Element bits (R13). -/
def DType.bits : DType → Nat
  | .mxfp4 => 4 | .mxfp6e2m3 => 6 | .mxfp6e3m2 => 6 | .e4m3 => 8 | .e5m2 => 8 | .mxfp8 => 8 | .bf16 => 16
  | .fp16 => 16 | .fp32 => 32 | .int8 => 8 | .uint8 => 8 | .uint16 => 16 | .int32 => 32 | .uint32 => 32

/-- An MX type: one E8M0 scale per 32 elements (R13). -/
def DType.isMx : DType → Bool
  | .mxfp4 | .mxfp6e2m3 | .mxfp6e3m2 | .mxfp8 => true
  | _ => false

/-- The tensor's data type; a code outside R13 never passes the loader (check 15 of R92). -/
def Tensor.type (t : Tensor) : DType := (DType.ofCode t.dtype).getD .uint8

/-- Extent of dimension `d`, 1 above the rank. -/
def Tensor.dim (t : Tensor) (d : Nat) : Nat := if d < t.rank then (t.dims[d]?).getD 0 else 1

/-- Stride in bytes of dimension `d` of 1..5 (R91: units of 16 bytes). -/
def Tensor.strideBytes (t : Tensor) (d : Nat) : Nat := 16 * (t.strides[d - 1]?).getD 0

/-- Number of elements. -/
def Tensor.count (t : Tensor) : Nat := ((List.range t.rank).map t.dim).foldl (· * ·) 1

/-- A tensor with an extent of 0 (R91): every task that uses it completes at once. -/
def Tensor.empty (t : Tensor) : Bool := t.count == 0

/-- Bytes of one dense row of dimension 0. -/
def Tensor.rowBytes (t : Tensor) : Nat := ceilDiv (t.dim 0 * t.type.bits) 8

/-- Number of rows: the product of the extents above dimension 0. -/
def Tensor.rows (t : Tensor) : Nat := ((List.range (t.rank - 1)).map (fun k => t.dim (k + 1))).foldl (· * ·) 1

/-- Bytes from the base to the end of the last element. -/
def Tensor.elementSpan (t : Tensor) : Nat :=
  if t.empty then 0
  else t.rowBytes + ((List.range (t.rank - 1)).map (fun k => (t.dim (k + 1) - 1) * t.strideBytes (k + 1))).sum

/-- Scale bytes per row of an MX type: one per 32 elements of dimension 0. -/
def Tensor.scalesPerRow (t : Tensor) : Nat := ceilDiv (t.dim 0) 32

/-- Bytes of the scale array: one E8M0 byte per 32 elements, row after row (R91, R126). -/
def Tensor.scaleBytes (t : Tensor) : Nat := if t.type.isMx then t.scalesPerRow * t.rows else 0

/-- Bytes from the base to the end of the tensor, its scale array included. -/
def Tensor.span (t : Tensor) : Nat :=
  if t.type.isMx then max t.elementSpan (t.scaleOffset * 64 + t.scaleBytes) else t.elementSpan

/-- Index `i` of row-major order (dimension 0 innermost) as coordinates. -/
def Tensor.coords (t : Tensor) (i : Nat) : List Nat :=
  ((List.range t.rank).foldl (fun (acc : List Nat × Nat) d =>
    (acc.1 ++ [acc.2 % t.dim d], acc.2 / t.dim d)) ([], i)).1

/-- Row-major index of coordinates; coordinates above the rank are ignored. -/
def Tensor.index (t : Tensor) (c : List Nat) : Nat :=
  ((List.range t.rank).foldr (fun d acc => acc * t.dim d + ((c)[d]?).getD 0) 0)

/-- Byte offset from the base of the row with these coordinates of dimensions 1 and up. -/
def Tensor.rowOffset (t : Tensor) (c : List Nat) : Nat :=
  ((List.range (t.rank - 1)).map (fun k => ((c)[k + 1]?).getD 0 * t.strideBytes (k + 1))).sum

/-- Bit offset from the base of the element at these coordinates. -/
def Tensor.bitOffset (t : Tensor) (c : List Nat) : Nat := 8 * t.rowOffset c + ((c)[0]?).getD 0 * t.type.bits

/-- Byte offset from the base of the scale of the element at these coordinates (R126). -/
def Tensor.scaleOffsetOf (t : Tensor) (c : List Nat) : Nat :=
  t.scaleOffset * 64 + (t.index c / t.dim 0) * t.scalesPerRow + ((c)[0]?).getD 0 / 32

/-- The tensor is persistent: weights or optimiser state (R91). -/
def Tensor.persistent (t : Tensor) : Bool := bitAt t.flags 0 == 1
/-- The tensor lies in a protected region (R91). -/
def Tensor.isProtected (t : Tensor) : Bool := bitAt t.flags 1 == 1
/-- The tensor is stored Clear-compressed (R91). -/
def Tensor.clear (t : Tensor) : Bool := bitAt t.flags 2 == 1
/-- The tensor is stored as Grain (R91: policy 1). -/
def Tensor.grain (t : Tensor) : Bool := t.policy == 1

/-! ### The Grain form (R255) -/

/-- Blocks of 8 × 8 elements per segment for elements of `e` bytes (R255). -/
def grainSpb (e : Nat) : Nat := if e = 4 then 16 else 32

/-- Bytes of a Grain block (R255). -/
def grainBlockBytes (e rate : Nat) : Nat := 32 * e / rate * 2

/-- Bits per element (R255). -/
def grainBits (e rate : Nat) : Nat := (8 * grainBlockBytes e rate - 24) / 64

/-- Bytes of a Grain segment (R255). -/
def grainSegment (e rate : Nat) : Nat := grainSpb e * grainBlockBytes e rate

/-- Bytes of an element of a tensor of whole-byte type. -/
def Tensor.elemBytes (t : Tensor) : Nat := t.type.bits / 8

/-- Number of 8 × 8 blocks of a Grain tensor. -/
def Tensor.grainBlocks (t : Tensor) : Nat := t.count / 64

/-- Number of segments of a Grain tensor (R255). -/
def Tensor.grainSegments (t : Tensor) : Nat := ceilDiv t.grainBlocks (grainSpb t.elemBytes)

/-- Stored bytes of a tensor (R255): segments for Grain, otherwise its span. -/
def Tensor.stored (t : Tensor) : Nat :=
  if t.grain then t.grainSegments * grainSegment t.elemBytes t.grainRate else t.span

/-! ### Where a byte of a space lies -/

/-- Read `n` stored bytes of a space of partition `p` from address `a` (R91): 0 HBM, 1 staging, 2 Negative store,
3 window. -/
def State.readSpace (s : State) (p space a n : Nat) : List Byte :=
  match space with
  | 0 => s.mem.readN (s.hbmBase p + a) n
  | 1 => s.staging.readN (s.stagingBase p + a) n
  | 2 => s.neg.readN (s.negBase p + a) n
  | _ => s.mem.readN (s.hbmBase p + s.winBase p + a) n

/-- Write stored bytes of a space of partition `p` from address `a`, past no Clear encoder (R260). -/
def State.writeSpace (s : State) (p space a : Nat) (bs : List Byte) : State :=
  match space with
  | 0 => s.rawHbm (s.hbmBase p + a) bs
  | 1 => { s with staging := s.staging.writeN (s.stagingBase p + a) bs }
  | 2 => s.rawNeg (s.negBase p + a) bs
  | _ => s.rawHbm (s.hbmBase p + s.winBase p + a) bs

/-- The protected ranges of partition `p` as (space, base, size) in bytes (R419): registers SEC_PROT_p_n. -/
def State.protRanges (s : State) (p : Nat) : List (Nat × Nat × Nat) :=
  (List.range 16).filterMap (fun n =>
    let w := s.reg (0xD02000 + 0x100 * p + 8 * n)
    let size := s.reg (0xD02004 + 0x100 * p + 8 * n)
    if size = 0 then none else some (w / 2 ^ 31, w % 2 ^ 31 * 2 ^ 21, size * 2 ^ 21))

/-- The HBM range overlaps a protected range of the partition. -/
def State.hitsProtected (s : State) (p a n : Nat) : Bool :=
  (s.protRanges p).any (fun r => r.1 == 0 && overlaps a n r.2.1 r.2.2)

/-- The HBM range overlaps the store of a loaded plan of partition `p`. -/
def State.hitsStore (s : State) (p a n : Nat) : Bool :=
  s.plans.any (fun pl => pl.partition == p && overlaps a n pl.storeBase pl.storeSize)

/-- The HBM range overlaps the partition's backed window. -/
def State.hitsWindow (s : State) (p a n : Nat) : Bool := overlaps a n (s.winBase p) (s.winBytes p)

/-- The HBM range overlaps a space-0 tensor of the partition's admitted plan (R71). -/
def State.hitsTensor (s : State) (p a n : Nat) : Bool :=
  s.admitted p && match s.planOf p with
    | none => false
    | some pl => pl.graphs.any (fun g => g.tensors.any (fun t => t.space == 0 && overlaps a n t.base t.stored))

end Sys2Proof.Machine
end

