-- ==== Sys2Proof/Machine/Float.lean ====
section
/-! DEFINITION. Number formats (R123 to R126): exact finite values, rounding to nearest with ties to even, the bit
layouts of every format, FP32 arithmetic, the conversions with their saturation, MX blocks, and sr_bf16 (R132). -/

namespace Sys2Proof.Machine

/-- A floating-point value: a NaN or infinity with its sign, or the finite value ±m × 2^e. -/
inductive Fp
  | nan (neg : Bool)
  | inf (neg : Bool)
  | fin (neg : Bool) (m : Nat) (e : Int)
  deriving DecidableEq, Repr

/-- What a format does at its top exponent (R123): IEEE infinities and NaNs, the one NaN of E4M3, or neither. -/
inductive Specials
  | ieee | nanOnly | none
  deriving DecidableEq, Repr

/-- A floating-point format (R123). -/
structure Fmt where
  expBits : Nat
  manBits : Nat
  bias : Nat
  specials : Specials
  deriving DecidableEq, Repr

/-- E2M1 (R123). -/
def Fmt.e2m1 : Fmt := ⟨2, 1, 1, .none⟩
/-- E2M3 (R123). -/
def Fmt.e2m3 : Fmt := ⟨2, 3, 1, .none⟩
/-- E3M2 (R123). -/
def Fmt.e3m2 : Fmt := ⟨3, 2, 3, .none⟩
/-- E4M3 (R123). -/
def Fmt.e4m3 : Fmt := ⟨4, 3, 7, .nanOnly⟩
/-- E5M2 (R123). -/
def Fmt.e5m2 : Fmt := ⟨5, 2, 15, .ieee⟩
/-- BF16 (R123). -/
def Fmt.bf16 : Fmt := ⟨8, 7, 127, .ieee⟩
/-- FP16 (R123). -/
def Fmt.fp16 : Fmt := ⟨5, 10, 15, .ieee⟩
/-- FP32 (R123). -/
def Fmt.fp32 : Fmt := ⟨8, 23, 127, .ieee⟩

/-- The element format of a floating-point data type (R13, R123). -/
def DType.fmt : DType → Option Fmt
  | .mxfp4 => some .e2m1 | .mxfp6e2m3 => some .e2m3 | .mxfp6e3m2 => some .e3m2 | .e4m3 => some .e4m3
  | .e5m2 => some .e5m2 | .mxfp8 => some .e4m3 | .bf16 => some .bf16 | .fp16 => some .fp16 | .fp32 => some .fp32
  | _ => none

/-- Bits of an element of the format. -/
def Fmt.bits (f : Fmt) : Nat := 1 + f.expBits + f.manBits

/-- The largest exponent field a finite number uses. -/
def Fmt.topField (f : Fmt) : Nat := match f.specials with
  | .ieee => 2 ^ f.expBits - 2
  | _ => 2 ^ f.expBits - 1

/-- The largest mantissa at the top exponent field. -/
def Fmt.topMan (f : Fmt) : Nat := match f.specials with
  | .nanOnly => 2 ^ f.manBits - 2
  | _ => 2 ^ f.manBits - 1

/-- The largest finite value of the format, as m and e (R123). -/
def Fmt.maxM (f : Fmt) : Nat := 2 ^ f.manBits + f.topMan
/-- Its exponent of the last place. -/
def Fmt.maxE (f : Fmt) : Int := (f.topField : Int) - f.bias - f.manBits

/-- Floor of the base-2 logarithm of a positive number. -/
def flog2 (n : Nat) : Nat := Nat.log2 n

/-- `m / 2^k` rounded to the nearest whole number, ties to even. -/
def shiftRne (m k : Nat) : Nat :=
  let q := m >>> k
  let r := m % 2 ^ k
  if k = 0 then m
  else if 2 * r < 2 ^ k then q
  else if 2 ^ k < 2 * r then q + 1
  else q + q % 2

/-- `a * 2^e ≤ b * 2^f` for naturals and integer exponents. -/
def leScaled (a : Nat) (e : Int) (b : Nat) (f : Int) : Bool :=
  let lo := min e f
  decide (a * 2 ^ (e - lo).toNat ≤ b * 2 ^ (f - lo).toNat)

/-- Decode the bits of an element (R123). -/
def Fmt.decode (f : Fmt) (bits : Nat) : Fp :=
  let man := bitsAt bits 0 f.manBits
  let ex := bitsAt bits f.manBits f.expBits
  let neg := bitAt bits (f.manBits + f.expBits) == 1
  let top := 2 ^ f.expBits - 1
  match f.specials with
  | .ieee =>
    if ex = top then (if man = 0 then .inf neg else .nan neg)
    else if ex = 0 then .fin neg man (1 - (f.bias : Int) - f.manBits)
    else .fin neg (2 ^ f.manBits + man) ((ex : Int) - f.bias - f.manBits)
  | .nanOnly =>
    if ex = top ∧ man = 2 ^ f.manBits - 1 then .nan neg
    else if ex = 0 then .fin neg man (1 - (f.bias : Int) - f.manBits)
    else .fin neg (2 ^ f.manBits + man) ((ex : Int) - f.bias - f.manBits)
  | .none =>
    if ex = 0 then .fin neg man (1 - (f.bias : Int) - f.manBits)
    else .fin neg (2 ^ f.manBits + man) ((ex : Int) - f.bias - f.manBits)

/-- The finite value rounded to the format's precision with unbounded exponent above, ties to even (R126). -/
def Fmt.quantise (f : Fmt) (m : Nat) (e : Int) : Nat × Int :=
  if m = 0 then (0, 0)
  else
    let top := (flog2 m : Int) + e
    let q := max top (1 - (f.bias : Int)) - f.manBits
    if q ≤ e then (m, e) else (shiftRne m (q - e).toNat, q)

/-- The quantised value lies above the format's largest finite value. -/
def Fmt.exceeds (f : Fmt) (m : Nat) (e : Int) : Bool := !leScaled m e f.maxM f.maxE

/-- Round a value into the format (R126): a finite value beyond the largest saturates when `sat` is set, otherwise
becomes an infinity; an infinity stays where the format has one and saturates where it has none. -/
def Fmt.round (f : Fmt) (sat : Bool) : Fp → Fp
  | .nan n => .nan n
  | .inf n => if f.specials = .ieee then .inf n else .fin n f.maxM f.maxE
  | .fin n m e =>
    let q := f.quantise m e
    if f.exceeds q.1 q.2 then
      if sat || f.specials != .ieee then .fin n f.maxM f.maxE else .inf n
    else .fin n q.1 q.2

/-- A number that is `m × 2^e` with `e` the exponent of the format's last place for it, as (mantissa, exponent
field): the encoding of a value the format holds exactly. -/
def Fmt.fieldsOf (f : Fmt) (m : Nat) (e : Int) : Nat × Nat :=
  if m = 0 then (0, 0)
  else
    let top := (flog2 m : Int) + e
    let q := max top (1 - (f.bias : Int)) - f.manBits
    let man := if q ≤ e then m * 2 ^ (e - q).toNat else m >>> (q - e).toNat
    if man < 2 ^ f.manBits then (man, 0)
    else (man - 2 ^ f.manBits, (q + f.bias + f.manBits).toNat)

/-- The NaN mantissa the module writes in this format: the only one of E4M3, otherwise a non-zero one that the
manual does not fix (log entry 6). -/
def Fmt.nanMan (f : Fmt) : Nat := match f.specials with
  | .ieee => 1 + Config.nanMantissa f.manBits % (2 ^ f.manBits - 1)
  | _ => 2 ^ f.manBits - 1

/-- Encode a value that has been rounded into the format. -/
def Fmt.encode (f : Fmt) (v : Fp) : Nat :=
  let sign := fun (n : Bool) => if n then 2 ^ (f.manBits + f.expBits) else 0
  match v with
  | .nan n => sign n + (2 ^ f.expBits - 1) * 2 ^ f.manBits + f.nanMan
  | .inf n => sign n + (2 ^ f.expBits - 1) * 2 ^ f.manBits
  | .fin n m e => let p := f.fieldsOf m e; sign n + p.2 * 2 ^ f.manBits + p.1

/-- Convert to the format's bits (R126). -/
def Fmt.convert (f : Fmt) (v : Fp) : Nat := f.encode (f.round true v)

/-! ### FP32 arithmetic -/

/-- Round to FP32, overflow to infinity (R130). -/
def Fp.to32 (v : Fp) : Fp := Fmt.fp32.round false v

/-- The value 0. -/
def Fp.zero : Fp := .fin false 0 0
/-- The value 1. -/
def Fp.one : Fp := .fin false 1 0
/-- A whole number. -/
def Fp.ofNat (n : Nat) : Fp := .fin false n 0
/-- A signed whole number. -/
def Fp.ofInt (i : Int) : Fp := .fin (decide (i < 0)) i.natAbs 0

/-- The NaN of an invalid operation. -/
def Fp.invalid : Fp := .nan Config.nanNegative

/-- Not a NaN and not an infinity. -/
def Fp.finite : Fp → Bool
  | .fin _ _ _ => true
  | _ => false

/-- A NaN. -/
def Fp.isNan : Fp → Bool
  | .nan _ => true
  | _ => false

/-- Zero of either sign. -/
def Fp.isZero : Fp → Bool
  | .fin _ m _ => m == 0
  | _ => false

/-- Change the sign. -/
def Fp.neg : Fp → Fp
  | .nan n => .nan n
  | .inf n => .inf (!n)
  | .fin n m e => .fin (!n) m e

/-- The magnitude. -/
def Fp.abs : Fp → Fp
  | .nan n => .nan n
  | .inf _ => .inf false
  | .fin _ m e => .fin false m e

/-- The exact sum. -/
def Fp.addX : Fp → Fp → Fp
  | .nan n, _ => .nan n
  | _, .nan n => .nan n
  | .inf a, .inf b => if a = b then .inf a else Fp.invalid
  | .inf a, _ => .inf a
  | _, .inf b => .inf b
  | .fin n m e, .fin n' m' e' =>
    let lo := min e e'
    let a : Int := (if n then -1 else 1) * ((m * 2 ^ (e - lo).toNat : Nat) : Int)
    let b : Int := (if n' then -1 else 1) * ((m' * 2 ^ (e' - lo).toNat : Nat) : Int)
    let r := a + b
    if r = 0 then .fin (n && n') 0 lo else .fin (decide (r < 0)) r.natAbs lo

/-- The exact product (R130). -/
def Fp.mulX : Fp → Fp → Fp
  | .nan n, _ => .nan n
  | _, .nan n => .nan n
  | .inf a, .inf b => .inf (a != b)
  | .inf a, .fin b m _ => if m = 0 then Fp.invalid else .inf (a != b)
  | .fin b m _, .inf a => if m = 0 then Fp.invalid else .inf (a != b)
  | .fin n m e, .fin n' m' e' => .fin (n != n') (m * m') (e + e')

/-- FP32 addition. -/
def Fp.add (a b : Fp) : Fp := (a.addX b).to32
/-- FP32 subtraction. -/
def Fp.sub (a b : Fp) : Fp := (a.addX b.neg).to32
/-- FP32 multiplication. -/
def Fp.mul (a b : Fp) : Fp := (a.mulX b).to32
/-- FP32 fused multiply-add: a × b + c, rounded once. -/
def Fp.fma (a b c : Fp) : Fp := ((a.mulX b).addX c).to32

/-- Multiply by 2^k: the exponent alone changes (R146). -/
def Fp.scale2 (k : Int) : Fp → Fp
  | .fin n m e => .fin n m (e + k)
  | v => v

/-- An FP32 value multiplied by 2^k (R146): a result past the FP32 range is an infinity of its sign. -/
def Fp.scaled (k : Int) (v : Fp) : Fp := (v.scale2 k).to32

/-- FP32 division, rounded once. -/
def Fp.div : Fp → Fp → Fp
  | .nan n, _ => .nan n
  | _, .nan n => .nan n
  | .inf _, .inf _ => Fp.invalid
  | .inf a, .fin b _ _ => .inf (a != b)
  | .fin a _ _, .inf b => .fin (a != b) 0 0
  | .fin n m e, .fin n' m' e' =>
    if m' = 0 then (if m = 0 then Fp.invalid else .inf (n != n'))
    else if m = 0 then .fin (n != n') 0 0
    else
      let k := flog2 m' + 30
      let num := m * 2 ^ k
      let q := num / m'
      let sticky := if num % m' = 0 then 0 else 1
      (Fp.fin (n != n') (2 * q + sticky) (e - e' - k - 1)).to32

/-- One digit of the integer square root, from the bit `i` down. -/
def isqrtStep (n : Nat) : Nat → Nat → Nat
  | 0, r => if (r + 1) * (r + 1) ≤ n then r + 1 else r
  | i + 1, r => isqrtStep n i (if (r + 2 ^ (i + 1)) * (r + 2 ^ (i + 1)) ≤ n then r + 2 ^ (i + 1) else r)

/-- The integer square root. -/
def isqrt (n : Nat) : Nat := isqrtStep n (flog2 n / 2 + 1) 0

/-- FP32 square root, rounded once. -/
def Fp.sqrt : Fp → Fp
  | .nan n => .nan n
  | .inf n => if n then Fp.invalid else .inf false
  | .fin n m e =>
    if m = 0 then .fin n 0 0
    else if n then Fp.invalid
    else
      let sh : Nat := if e % 2 = 0 then 64 else 65
      let m' := m * 2 ^ sh
      let r := isqrt m'
      let sticky := if r * r = m' then 0 else 1
      (Fp.fin false (2 * r + sticky) ((e - (sh : Int)) / 2 - 1)).to32

/-- a ≤ b for values that are no NaN. -/
def Fp.le : Fp → Fp → Bool
  | .nan _, _ => false
  | _, .nan _ => false
  | .inf true, _ => true
  | _, .inf false => true
  | .inf false, _ => false
  | _, .inf true => false
  | .fin n m e, .fin n' m' e' =>
    if m = 0 ∧ m' = 0 then true
    else if m = 0 then !n'
    else if m' = 0 then n
    else match n, n' with
      | true, false => true
      | false, true => false
      | false, false => leScaled m e m' e'
      | true, true => leScaled m' e' m e

/-- a < b. -/
def Fp.lt (a b : Fp) : Bool := a.le b && !b.le a

/-- The larger of two values; a NaN wins. -/
def Fp.max (a b : Fp) : Fp := if a.isNan then a else if b.isNan then b else if a.le b then b else a

/-- FP32 bits of a value. -/
def Fp.bits32 (v : Fp) : Nat := Fmt.fp32.encode (v.to32)

/-- The value of FP32 bits. -/
def Fp.of32 (n : Nat) : Fp := Fmt.fp32.decode n

/-- Apply a function of FP32 bits. -/
def Fp.via (f : BitVec 32 → BitVec 32) (v : Fp) : Fp := Fp.of32 (f (BitVec.ofNat 32 v.bits32)).toNat

/-- floor(log2 a) of a finite non-zero value. -/
def Fp.exponent : Fp → Int
  | .fin _ m e => (flog2 m : Int) + e
  | _ => 128

/-! ### Conversions (R126) -/

/-- Round a value to the nearest whole number, ties to even. -/
def Fp.toInt : Fp → Option Int
  | .nan _ => none
  | .inf _ => none
  | .fin n m e =>
    let q : Nat := if 0 ≤ e then m * 2 ^ e.toNat else shiftRne m (-e).toNat
    some (if n then -(q : Int) else (q : Int))

/-- Clamp to a range. -/
def clampInt (lo hi x : Int) : Int := max lo (min hi x)

/-- The range of an integer code (R126). -/
def DType.intRange : DType → Int × Int
  | .int8 => (-128, 127) | .uint8 => (0, 255) | .uint16 => (0, 65535)
  | .int32 => (-2147483648, 2147483647) | _ => (0, 4294967295)

/-- Convert to an integer code: round, saturate, NaN to 0 (R126). -/
def DType.intOf (d : DType) (v : Fp) : Int :=
  match v with
  | .nan _ => 0
  | .inf n => if n then d.intRange.1 else d.intRange.2
  | .fin _ _ _ => clampInt d.intRange.1 d.intRange.2 (v.toInt.getD 0)

/-- Bits of one element of a non-MX type (R126). -/
def DType.encodeElem (d : DType) (v : Fp) : Nat :=
  match d.fmt with
  | some f => f.convert v
  | none => unsigned d.bits (d.intOf v)

/-- The value of one element's bits, its block scale not applied. -/
def DType.decodeElem (d : DType) (bits : Nat) : Fp :=
  match d.fmt with
  | some f => f.decode bits
  | none => match d with
    | .int8 => Fp.ofInt (signed 8 bits)
    | .int32 => Fp.ofInt (signed 32 bits)
    | _ => Fp.ofNat (bits % 2 ^ d.bits)

/-- An element of an MX block with its E8M0 scale (R123): 0xFF makes it NaN, of positive sign (DESIGN CHOICE, log entry 64:
R123 gives that NaN no sign). -/
def applyScale (scale : Nat) (v : Fp) : Fp := if scale = 255 then .nan false else v.scale2 ((scale : Int) - 127)

/-- emax of the MX element formats (R126). -/
def DType.emax : DType → Int
  | .mxfp4 => 2 | .mxfp6e2m3 => 2 | .mxfp6e3m2 => 4 | _ => 8

/-- The largest magnitude of a block; a NaN does not count. -/
def blockMax (vs : List Fp) : Fp := vs.foldl (fun a v => if v.isNan then a else a.max v.abs) Fp.zero

/-- The exponent of a block's scale before its clamp (R126): floor(log2 a) - emax; of an infinite magnitude, whose logarithm
R126 does not define, floor(log2 a) is taken as 128 (DESIGN CHOICE, log entry 64). -/
def DType.rawScale (d : DType) (vs : List Fp) : Int :=
  let a := blockMax vs
  if a.isZero then -127 else a.exponent - d.emax

/-- The E8M0 byte of a block (R126): clamped to 2^-127 below and to 2^127 above. -/
def DType.scaleByte (d : DType) (vs : List Fp) : Nat :=
  if d != .mxfp8 && vs.any Fp.isNan then 255 else (clampInt (-127) 127 (d.rawScale vs) + 127).toNat

/-- The element bits of a block of an MX type under its scale byte (R126). DESIGN CHOICE (log entry 68): in a block whose scale
becomes 0xFF the NaN elements are stored as 0 and the others under 2^128. -/
def DType.encodeBlock (d : DType) (vs : List Fp) : List Nat :=
  let sc := d.scaleByte vs
  let f := d.fmt.getD .e4m3
  vs.map (fun v => match v with
    | .nan n => if d = .mxfp8 then f.encode (.nan n) else 0
    | v => f.convert (v.scale2 (127 - (sc : Int))))

/-- The block's computed scale exceeds 2^127: its elements are hits (R135). -/
def DType.scaleOverflow (d : DType) (vs : List Fp) : Bool :=
  d.isMx && (decide (127 < d.rawScale vs) || vs.any (fun v => match v with | .inf _ => true | _ => false))

/-- The magnitude at which a conversion saturates (R135): the largest finite value plus half a unit in its last
place. -/
def Fmt.threshold (f : Fmt) : Fp := .fin false (2 * f.maxM + 1) (f.maxE - 1)

/-- The conversion of a value to this type saturates (R135); MX types and FP32 never do here. -/
def DType.saturates (d : DType) (v : Fp) : Bool :=
  if d.isMx || d = .fp32 then false
  else match d.fmt with
    | some f => (f.threshold).le v.abs
    | none => false

/-- sr_bf16 (R132): an FP32 value and a 16-bit draw. -/
def srBf16 (x : Fp) (r : Nat) : Fp :=
  match x with
  | .nan n => .nan n
  | .inf n => .inf n
  | v =>
    let b := v.bits32
    let mag := b % 2 ^ 31 + r % 2 ^ 16
    Fmt.bf16.decode (b / 2 ^ 31 * 2 ^ 15 + bitsAt mag 16 15)

/-! ### Sums whose order is open -/

/-- Take the element at index `i` of a list, and the list without it. -/
def pluck {α : Type} : List α → Nat → Option (α × List α)
  | [], _ => none
  | a :: l, 0 => some (a, l)
  | a :: l, i + 1 => (pluck l i).map (fun r => (r.1, a :: r.2))

/-- The permutation of a list with the given Lehmer index. -/
def permute {α : Type} (idx : Nat) (l : List α) : Nat → List α
  | 0 => []
  | k + 1 => match pluck l (idx % l.length) with
    | none => []
    | some (a, rest) => a :: permute (idx / l.length) rest k

/-- The terms of sum number `key` in the order the module adds them (R151). -/
def ordered {α : Type} (key : Nat) (l : List α) : List α := permute (Config.orderOf l.length key) l l.length

/-- An FP32 sum from `init`, rounded at each addition, its order open (R130, R151). -/
def Fp.sumFrom (key : Nat) (init : Fp) (terms : List Fp) : Fp := (ordered key terms).foldl Fp.add init

/-- An FP32 sum of its terms, rounded at each addition, its order open. -/
def Fp.sum (key : Nat) (terms : List Fp) : Fp := match ordered key terms with
  | [] => Fp.zero
  | t :: ts => ts.foldl Fp.add t

end Sys2Proof.Machine
end

