-- ==== Sys2Proof/Machine/Rings.lean ====
section
/-! DEFINITION. Descriptor rings (R64 to R76): doorbells, fetching and starting descriptors, completions with their
phase bit and interrupts, NOP, FENCE, COPY_IN, COPY_OUT, and the reset of a ring. -/

namespace Sys2Proof.Machine

/-! ### Counts and states -/

/-- Entries of the descriptor ring (R64). -/
def State.descSize (s : State) (n : Nat) : Nat := 2 ^ s.get (Reg.ringDescSize_log2Entries n)

/-- Entries of the completion ring (R64). -/
def State.cplSize (s : State) (n : Nat) : Nat := 2 ^ s.get (Reg.ringCplSize_log2Entries n)

/-- Difference of two free-running 32-bit counts (R65). -/
def countDiff (a b : Nat) : Nat := (a + 2 ^ 32 - b) % 2 ^ 32

/-- The completion ring is full (R73). -/
def State.cplFull (s : State) (n : Nat) : Bool :=
  decide (s.cplSize n ≤ countDiff (s.get (Reg.ringCplTail n)) (s.get (Reg.ringCplHead n)))

/-- RING_STATUS.cpl_full follows the counts (R73). -/
def State.noteFull (s : State) (n : Nat) : State :=
  s.set (Reg.ringStatus_cplFull n) (if s.cplFull n then 1 else 0)

/-- The ring's state: 0 disabled, 1 running, 2 error, 3 resetting (R96). -/
def State.ringState (s : State) (n : Nat) : Nat := s.get (Reg.ringStatus_state n)

/-- The ring enters its error state and stops fetching (R67, R75); a ring that resets goes on resetting. -/
def State.ringError (s : State) (n : Nat) : State :=
  if s.ringState n = 3 then s else s.set (Reg.ringStatus_state n) 2

/-- A refused doorbell write (R67). -/
def State.refuseDoorbell (s : State) (n value cause : Nat) : State :=
  (((s.ringError n).set (Reg.ringStatus_doorbellBad n) 1).count (Ctr.ringDoorbellRefusedCount n)).raise
    Ev.doorbellBad (UnitId.ring n) { value := value, cause := cause }

/-- DOORBELL_TAIL (R67). -/
def doDoorbellTail (ring : Nat) (value : Word) (s : State) : State :=
  let v := value.toNat
  if 64 ≤ ring then s
  else if s.flag (Reg.ringControl_enable ring) &&
      decide (countDiff v (s.get (Reg.ringHead ring)) ≤ s.descSize ring) &&
      decide (countDiff v (s.get (Reg.ringTail ring)) ≤ s.descSize ring) then
    s.set (Reg.ringTail ring) v
  else s.refuseDoorbell ring v 1

/-- DOORBELL_COMPLETION_HEAD (R67). -/
def doDoorbellCompletionHead (ring : Nat) (value : Word) (s : State) : State :=
  let v := value.toNat
  if 64 ≤ ring then s
  else if s.cplSize ring < countDiff (s.get (Reg.ringCplTail ring)) v then s.refuseDoorbell ring v 2
  else (s.set (Reg.ringCplHead ring) v).noteFull ring

/-- DOORBELL_BAD (R66): a doorbell write at another offset or of another size is discarded. -/
def doDoorbellBad (ring offset size value : Nat) (s : State) : State :=
  if ring < 64 ∧ ¬ ((offset = 0 ∨ offset = 8) ∧ size = 4) then
    s.raise Ev.doorbellBad (UnitId.ring ring) { value := value, cause := 3 }
  else s

/-! ### Descriptors -/

/-- Status codes of R74. -/
inductive Status
  | done | doneClamped | refused | badOpcode | badAddress | slotState | state | planRefused | hostError
  deriving DecidableEq, Repr

/-- The code of a status (R74). -/
def Status.code : Status → Nat
  | .done => 0 | .doneClamped => 1 | .refused => 2 | .badOpcode => 3 | .badAddress => 4 | .slotState => 5
  | .state => 6 | .planRefused => 7 | .hostError => 8

/-- The opcode of a descriptor (R69). -/
def Started.opcode (d : Started) : Nat := fieldAt d.bytes 0 1
/-- The flags of a descriptor (R69). -/
def Started.flags (d : Started) : Nat := fieldAt d.bytes 1 1
/-- The tag of a descriptor (R69). -/
def Started.tag (d : Started) : Nat := fieldAt d.bytes 8 8
/-- The operand field of `n` bytes at descriptor offset `off` (R69). -/
def Started.opd (d : Started) (off n : Nat) : Nat := fieldAt d.bytes off n

/-- The opcodes of R70. -/
def opcodes : List Nat := [0x01, 0x02, 0x03, 0x04, 0x05, 0x06, 0x07, 0x10, 0x11, 0x12, 0x13, 0x14]

/-- The first operand byte that no named range covers and that is not zero (R69). -/
def Started.strayOperand (d : Started) (named : List (Nat × Nat)) : Option Nat :=
  ((List.range 112).map (· + 16)).find? (fun k =>
    fieldAt d.bytes k 1 != 0 && !named.any (fun r => decide (r.1 ≤ k ∧ k < r.1 + r.2)))

/-- The offset of a pool operand that names none of the 16 pools (R74, R77). -/
def Started.badPool (d : Started) (off : Nat) : Option Nat := if fieldAt d.bytes off 2 < 16 then none else some off

/-- A descriptor's effect has ended: its completion is ready to be written (R73). -/
def State.finish (s : State) (n : Nat) (d : Started) (st : Status) (detail : Nat := 0) : State :=
  s.modRing n (fun r =>
    { r with
      started := r.started.filter (fun x => x.seq != d.seq)
      ready := r.ready ++ [⟨d.seq, d.tag, d.opcode, d.flags, st.code, detail % 2 ^ 32⟩] })

/-- The header fields that R69 fixes: the offset of the first that is not as stated. -/
def Started.badHeader (d : Started) : Option Nat :=
  if d.flags ≥ 4 then some 1 else if zeroAt d.bytes 2 6 then none else some 2

/-- A descriptor starts (R72): refused as a whole for its opcode or header, otherwise its effect is to begin. -/
def State.start (s : State) (n : Nat) (d : Started) : State :=
  let s := s.modRing n (fun r => { r with started := r.started ++ [d] })
  if !opcodes.contains d.opcode then s.finish n d .badOpcode d.opcode
  else match d.badHeader with
    | some off => s.finish n d .badAddress off
    | none => s

/-- Every earlier descriptor of the ring has completed: its completion is written. -/
def Ring.allDone (r : Ring) : Bool := r.started.isEmpty && r.ready.isEmpty

/-- A descriptor held by its fence starts once its condition holds (R72). -/
def State.startWaiting (s : State) (n : Nat) : State :=
  match (s.ring n).waiting with
  | some d => if (s.ring n).allDone then (s.modRing n (fun r => { r with waiting := none })).start n d else s
  | none => s

/-- A host-port error while fetching a descriptor or writing a completion (R75). -/
def State.hostFail (s : State) (n status : Nat) : State :=
  ((s.ringError n).set (Reg.ringStatus_hostError n) 1).raise Ev.ringError (UnitId.ring n) { value := status }

/-- The ring may fetch: it runs, an entry lies between head and tail, the completion ring has room, and the last
fetched descriptor has started (R72, R73). -/
def State.mayFetch (s : State) (n : Nat) : Bool :=
  s.ringState n == 1 && s.get (Reg.ringHead n) != s.get (Reg.ringTail n) && !s.cplFull n &&
    (s.ring n).waiting.isNone

/-- The bus address of the next descriptor: the head indexes the descriptor ring modulo its size (R64, R65). -/
def State.descAddress (s : State) (n : Nat) : Nat :=
  s.pair (Reg.ringDescBase n) + 128 * (s.get (Reg.ringHead n) % s.descSize n)

/-- DESCRIPTOR_FETCH (R65, R72): fetch the next descriptor and start it, at once or when its fence holds. -/
def doDescriptorFetch (ring : Nat) (bytes : List Byte) (hostStatus : Nat) (s : State) : State :=
  if 64 ≤ ring ∨ !s.mayFetch ring then s
  else
    let s := s.hostRead (s.descAddress ring) 128
    if hostStatus ≠ 0 then s.hostFail ring hostStatus
    else
    let d : Started := ⟨(s.ring ring).nextSeq, slice bytes 0 128, false⟩
    let s := s.set (Reg.ringHead ring) (s.get (Reg.ringHead ring) + 1)
    let s := s.modRing ring (fun r => { r with nextSeq := r.nextSeq + 1 })
    if bitAt d.flags 1 = 1 ∧ !(s.ring ring).allDone then s.modRing ring (fun r => { r with waiting := some d })
    else s.start ring d

/-- The oldest started descriptor with this opcode whose effect has not begun. -/
def State.findOp (s : State) (n op : Nat) : Option Started :=
  (s.ring n).started.find? (fun d => d.opcode == op && !d.begun)

/-- Mark a started descriptor's effect as begun. -/
def State.beginDesc (s : State) (n : Nat) (d : Started) : State :=
  s.modRing n (fun r => { r with started := r.started.map (fun x => if x.seq = d.seq then { x with begun := true } else x) })

/-! ### Completions -/

/-- The phase bit of a completion written with completion tail `t` (R74). -/
def phaseBit (t size : Nat) : Nat := if t / size % 2 = 0 then 1 else 0

/-- The 32 bytes of a completion (R73). -/
def Completion.bytes (c : Completion) (phase : Nat) (st : Stamp) : List Byte :=
  leBytes c.tag 8 ++ leBytes c.opcode 1 ++ leBytes phase 1 ++ leBytes c.status 2 ++ leBytes c.detail 4 ++ st.bytes

/-- Send the ring's pending interrupt (R96). -/
def State.sendRingIrq (s : State) (n : Nat) : State :=
  (s.modRing n (fun r => { r with irqPending := 0 })).sendIrq (s.get (Reg.ringControl_msixVector n))

/-- A completion with flags[0] set joins the pending interrupt, which is sent at the coalescing count (R96). -/
def State.gatherIrq (s : State) (n : Nat) (c : Completion) : State :=
  if bitAt c.flags 0 = 0 || !s.flag (Reg.ringControl_irqEnable n) then s
  else
    let first := (s.ring n).irqPending = 0
    let s := s.modRing n (fun r =>
      { r with irqPending := r.irqPending + 1, irqSince := if first then s.time.now else r.irqSince })
    if s.get (Reg.ringIrqCoalesce_count n) ≤ (s.ring n).irqPending then s.sendRingIrq n else s

/-- Write one completion into the completion ring (R73, R74). -/
def State.putCompletion (s : State) (n : Nat) (c : Completion) : State :=
  let t := s.get (Reg.ringCplTail n)
  let size := s.cplSize n
  let st := s.stampNow 9
  let s := s.stampUsed.hostWrite (s.pair (Reg.ringCplBase n) + 32 * (t % size)) (c.bytes (phaseBit t size) st)
  let s := (s.set (Reg.ringCplTail n) (t + 1)).noteFull n
  let s := s.count (Ctr.ringDoneCount n)
  let s := if c.status ≤ 1 then s else s.count (Ctr.ringRefusedCount n)
  s.gatherIrq n c

/-- COMPLETION_WRITE (R73): the oldest ready completion is written when the completion ring has room; a host-port
error puts the ring into its error state and leaves the completion to be written. -/
def doCompletionWrite (ring hostStatus : Nat) (s : State) : State :=
  match (s.ring ring).ready with
  | [] => s
  | c :: rest =>
    if s.cplFull ring then s
    else if hostStatus ≠ 0 then s.hostFail ring hostStatus
    else ((s.modRing ring (fun r => { r with ready := rest })).putCompletion ring c).startWaiting ring

/-- INTERRUPT_COALESCE_DELAY (R96): the pending interrupt has waited delay_us. -/
def doInterruptCoalesceDelay (ring : Nat) (s : State) : State :=
  if (s.ring ring).irqPending = 0 then s
  else (s.advanceTo ((s.ring ring).irqSince + s.get (Reg.ringIrqCoalesce_delayUs ring) * 4000)).sendRingIrq ring

/-! ### Reset -/

/-- A ring starts resetting (R76): it stops fetching and drops the descriptor fetched but not started. -/
def State.resetRing (s : State) (n : Nat) : State :=
  (s.set (Reg.ringStatus_state n) 3).modRing n (fun r => { r with waiting := none })

/-- RING_RESET (R76). -/
def doRingReset (ring : Nat) (s : State) : State := if ring < 64 ∧ s.ready then s.resetRing ring else s

/-- RING_RESET_DONE (R76): no started descriptor remains. -/
def doRingResetDone (ring : Nat) (s : State) : State :=
  if s.ringState ring = 3 ∧ (s.ring ring).allDone then
    let s := ((s.set (Reg.ringHead ring) 0).set (Reg.ringTail ring) 0).set (Reg.ringCplTail ring) 0
    let s := (s.set (Reg.ringCplHead ring) 0).set (Reg.ringControl_enable ring) 0
    (s.set (Reg.ringStatus_state ring) 0).noteFull ring
  else s

/-! ### NOP, FENCE and copies -/

/-- NOP (R70). -/
def doNop (ring : Nat) (s : State) : State :=
  match s.findOp ring 0x01 with
  | none => s
  | some d => match d.strayOperand [] with
    | some off => s.finish ring d .badAddress off
    | none => s.finish ring d .done

/-- FENCE (R70): completes when every earlier descriptor of its ring has completed. -/
def doFence (ring : Nat) (s : State) : State :=
  match s.findOp ring 0x07 with
  | none => s
  | some d => match d.strayOperand [] with
    | some off => s.finish ring d .badAddress off
    | none =>
      let r := s.ring ring
      if r.started.any (fun x => decide (x.seq < d.seq)) || r.ready.any (fun c => decide (c.seq < d.seq)) then s
      else s.finish ring d .done

/-- A copy descriptor's fields: offsets of its HBM address, its bus address, and their values (R70). -/
structure CopyFields where
  hbmOff : Nat
  busOff : Nat
  hbm : Nat
  bus : Nat
  length : Nat
  deriving DecidableEq, Repr

/-- The fields of COPY_IN (0x05) or COPY_OUT (0x06) (R70). -/
def Started.copyFields (d : Started) : CopyFields :=
  if d.opcode = 0x05 then ⟨24, 16, d.opd 24 8, d.opd 16 8, d.opd 32 8⟩
  else ⟨16, 24, d.opd 16 8, d.opd 24 8, d.opd 32 8⟩

/-- The HBM range of a copy breaks R71 or R419. -/
def State.copyRangeBad (s : State) (p : Nat) (f : CopyFields) (into : Bool) : Bool :=
  !within f.hbm f.length 0 (s.hbmSize p) || s.hitsWindow p f.hbm f.length ||
    s.hitsStore p f.hbm f.length || s.hitsProtected p f.hbm f.length || (into && s.hitsTensor p f.hbm f.length)

/-- The offset of the first failing field of a copy (R71): the fields that fail by themselves in ascending offset, then
the HBM range, then a stray operand (log entry 15). -/
def State.copyBad (s : State) (p : Nat) (d : Started) : Option Nat :=
  let f := d.copyFields
  let bus := if f.bus % 64 != 0 then some f.busOff else none
  let hbm := if f.hbm % 64 != 0 then some f.hbmOff else none
  let len := if f.length % 64 != 0 || decide (f.length < 64) || decide (2 ^ 40 < f.length) then some 32 else none
  let range := if s.copyRangeBad p f (d.opcode == 0x05) then some f.hbmOff else none
  let first := if f.busOff < f.hbmOff then bus.orElse (fun _ => hbm) else hbm.orElse (fun _ => bus)
  ((first.orElse (fun _ => len)).orElse (fun _ => range)).orElse (fun _ => d.strayOperand [(16, 24)])

/-- A copy starts after its address checks (R71). -/
def State.startCopy (s : State) (n op : Nat) : State :=
  match s.findOp n op with
  | none => s
  | some d => match s.copyBad (s.ringPart n) d with
    | some off => s.finish n d .badAddress off
    | none =>
      let s := if op = 0x05 then s.hostRead d.copyFields.bus d.copyFields.length else s
      s.beginDesc n d

/-- COPY_IN (R71). -/
def doCopyIn (ring : Nat) (s : State) : State := s.startCopy ring 0x05

/-- COPY_OUT (R71). -/
def doCopyOut (ring : Nat) (s : State) : State := s.startCopy ring 0x06

/-- COPY_DONE (R75): the copy's bytes move and the descriptor ends with DONE, or with HOST_ERROR. -/
def doCopyDone (ring seq : Nat) (data : List Byte) (hostStatus : Nat) (s : State) : State :=
  match (s.ring ring).started.find? (fun d => d.seq == seq && d.begun && (d.opcode == 0x05 || d.opcode == 0x06)) with
  | none => s
  | some d =>
    let f := d.copyFields
    let p := s.ringPart ring
    let s := s.wakeHbm (s.hbmBase p + f.hbm) f.length
    if hostStatus ≠ 0 then s.finish ring d .hostError hostStatus
    else if d.opcode = 0x05 then (s.writeHbm p f.hbm (slice data 0 f.length)).finish ring d .done
    else (s.hostWrite f.bus (s.readHbm p f.hbm f.length)).finish ring d .done

end Sys2Proof.Machine
end

