-- ==== Sys2Proof/Machine/Parse.lean ====
section
/-! DEFINITION. Reading a plan image (R85 to R91): header, graph headers, section table, task records and tensor
descriptors. -/

namespace Sys2Proof.Machine

/-- The plan header of an image (R85). -/
structure ImageHeader where
  magic : Nat
  version : Nat
  graphCount : Nat
  planId : Nat
  planned : Nat
  spares : Nat
  imageLength : Nat
  storeBase : Nat
  storeSize : Nat
  graphTable : Nat
  sectionTable : Nat
  sectionCount : Nat
  crc : Nat
  deriving DecidableEq, Repr

/-- Read the plan header (R85). -/
def ImageHeader.ofBytes (b : List Byte) : ImageHeader :=
  ⟨fieldAt b 0 4, fieldAt b 4 2, fieldAt b 6 2, fieldAt b 8 4, fieldAt b 12 2, fieldAt b 14 2, fieldAt b 16 8,
   fieldAt b 24 8, fieldAt b 32 8, fieldAt b 40 4, fieldAt b 44 4, fieldAt b 48 2, fieldAt b 52 4⟩

/-- A graph header (R86). -/
structure GraphHeader where
  graph : Nat
  taskCount : Nat
  tensorCount : Nat
  paramsLen : Nat
  tasks : Nat
  tensors : Nat
  params : Nat
  reservedZero : Bool
  deriving DecidableEq, Repr

/-- Read a graph header (R86). -/
def GraphHeader.ofBytes (b : List Byte) : GraphHeader :=
  ⟨fieldAt b 0 1, fieldAt b 4 4, fieldAt b 8 4, fieldAt b 12 4, fieldAt b 16 8, fieldAt b 24 8, fieldAt b 32 8,
   zeroAt b 1 3 && zeroAt b 40 24⟩

/-- The graph headers of an image; a count above 16 is cut at 16, and check 4 refuses it. -/
def graphHeaders (img : List Byte) (h : ImageHeader) : List GraphHeader :=
  (List.range (min h.graphCount 16)).map (fun i => GraphHeader.ofBytes (slice img (h.graphTable + 64 * i) 64))

/-- A section table entry (R87). -/
structure SectionEntry where
  type : Nat
  reserved : Nat
  length : Nat
  offset : Nat
  deriving DecidableEq, Repr

/-- The section table; a count above 32 is cut at 32. -/
def sectionEntries (img : List Byte) (h : ImageHeader) : List SectionEntry :=
  (List.range (if h.sectionCount ≤ 32 then h.sectionCount else 0)).map (fun i =>
    let b := slice img (h.sectionTable + 16 * i) 16
    ⟨fieldAt b 0 2, fieldAt b 2 2, fieldAt b 4 4, fieldAt b 8 8⟩)

/-- No tensor (R89). -/
def noTensor : Nat := 0xFFFFFFFF
/-- No queue (R89). -/
def noQueue : Nat := 0xFFFF
/-- No layer (R137). -/
def noLayer : Nat := 0xFFFFFFFF

/-- Read a task record with its parameter block from the parameter area (R89). -/
def Task.ofBytes (params b : List Byte) : Task :=
  { op := fieldAt b 0 2, rung := fieldAt b 2 1, flags := fieldAt b 3 1, exposure := fieldAt b 4 2
    coreFirst := fieldAt b 6 1, coreCount := fieldAt b 7 1, layer := fieldAt b 8 4
    preds := (List.range (min (fieldAt b 12 1) 8)).map (fun i => fieldAt b (16 + 2 * i) 2)
    queueOut := fieldAt b 14 2, queueIn := fieldAt b 54 2
    tensors := (List.range 4).map (fun i => fieldAt b (32 + 4 * i) 4)
    params := slice params (fieldAt b 48 4) (fieldAt b 52 2) }

/-- Read a tensor descriptor (R91). -/
def Tensor.ofBytes (b : List Byte) : Tensor :=
  let rank := fieldAt b 9 1
  { base := fieldAt b 0 8, dtype := fieldAt b 8 1, rank := rank, space := fieldAt b 10 1, policy := fieldAt b 11 1
    grainRate := fieldAt b 12 1, flags := fieldAt b 13 1
    dims := (List.range (min rank 6)).map (fun i => fieldAt b (16 + 4 * i) 4)
    strides := (List.range (min (rank - 1) 5)).map (fun i => fieldAt b (40 + 4 * i) 4)
    scaleOffset := fieldAt b 60 4 }

/-- Read a resident graph (R86). -/
def Graph.ofImage (img : List Byte) (g : GraphHeader) : Graph :=
  let params := slice img g.params g.paramsLen
  ⟨g.graph,
   (List.range g.taskCount).map (fun j => Task.ofBytes params (slice img (g.tasks + 64 * j) 64)),
   (List.range g.tensorCount).map (fun j => Tensor.ofBytes (slice img (g.tensors + 64 * j) 64))⟩

/-- Read a plan from its image (R85 to R91). -/
def Plan.ofImage (p : Nat) (img : List Byte) : Plan :=
  let h := ImageHeader.ofBytes img
  ⟨h.planId, p, h.planned, h.spares, h.storeBase, h.storeSize,
   (graphHeaders img h).map (Graph.ofImage img),
   (sectionEntries img h).map (fun e => (e.type, slice img e.offset e.length))⟩

/-- Tensor number `i` of a graph. -/
def Graph.tensor (g : Graph) (i : Nat) : Option Tensor := g.tensors[i]?

/-- The tensor in slot `k` (0..3) of a task: operand A, operand B, addend or auxiliary, output (R89). -/
def Graph.slotTensor (g : Graph) (t : Task) (k : Nat) : Option Tensor :=
  let i := (t.tensors[k]?).getD noTensor
  if i = noTensor then none else g.tensor i

/-- The task carries the commit flag (R89). -/
def Task.commits (t : Task) : Bool := bitAt t.flags 0 == 1

/-- The task belongs to a layer (R137). -/
def Task.layered (t : Task) : Bool := t.layer != noLayer

/-- Logical cores of the task's set, ascending (R89). -/
def Task.cores (t : Task) : List Nat := (List.range t.coreCount).map (· + t.coreFirst)

/-- A field of the task's parameter block. -/
def Task.par (t : Task) (off n : Nat) : Nat := fieldAt t.params off n

/-- Every (graph, task index, task) of a plan, graphs ascending, tasks ascending. -/
def Plan.allTasks (pl : Plan) : List (Nat × Nat × Task) :=
  (List.range 16).flatMap (fun gn => match pl.graph gn with
    | none => []
    | some g => (g.tasks.zipIdx).map (fun x => (gn, x.2, x.1)))

/-- A task of a plan by graph number and task index. -/
def Plan.task (pl : Plan) (g t : Nat) : Option Task := (pl.graph g).bind (fun gr => gr.tasks[t]?)

/-- The successors of task `t` of graph `g`: the tasks that name it as a predecessor. -/
def Plan.successors (pl : Plan) (g t : Nat) : List (Nat × Task) := match pl.graph g with
  | none => []
  | some gr => (gr.tasks.zipIdx.filter (fun x => x.1.preds.contains t)).map (fun x => (x.2, x.1))

/-- A queue-table entry (R117). -/
structure QueueEntry where
  producer : Nat
  consumer : Nat
  place : Nat
  reserved : Nat
  entryBytes : Nat
  entries : Nat
  offset : Nat
  writes : Nat
  reads : Nat
  reservedZero : Bool
  deriving DecidableEq, Repr

/-- Read a queue-table entry (R117). -/
def QueueEntry.ofBytes (b : List Byte) : QueueEntry :=
  ⟨fieldAt b 0 1, fieldAt b 1 1, fieldAt b 2 1, fieldAt b 3 1, fieldAt b 4 4, fieldAt b 8 4, fieldAt b 12 4,
   fieldAt b 16 2, fieldAt b 18 2, zeroAt b 20 12⟩

/-- The queue table of a plan (R117). -/
def Plan.queueTable (pl : Plan) : List QueueEntry :=
  let sec := pl.section 1
  (List.range (sec.length / 32)).map (fun i => QueueEntry.ofBytes (slice sec (32 * i) 32))

/-- Entry `q` of the queue table. -/
def Plan.queue (pl : Plan) (q : Nat) : Option QueueEntry := pl.queueTable[q]?

/-- Bytes of the queue regions of a place of core `c` (R117). -/
def Plan.regionBytes (pl : Plan) (c place : Nat) : Nat :=
  ((pl.queueTable.filter (fun q => q.place == place && q.consumer == c)).map (fun q => q.entries * q.entryBytes)).sum

/-- O_t of core `c` under a plan, in bytes (R99). -/
def Plan.tileSpace (pl : Plan) (c : Nat) : Nat := 2 ^ 22 - pl.regionBytes c 0

/-- LB_free of core `c` under a plan, in bytes (R229). -/
def Plan.lineBufferFree (pl : Plan) (c : Nat) : Nat := 2 ^ 19 - pl.regionBytes c 1

end Sys2Proof.Machine
end

