-- ==== Sys2Proof/Machine/Section2.lean ====
section
/-! DEFINITION. The fabric section of a plan, section type 2 (R312 to R325): ports, routes, slots, dependencies,
reduction groups with their stripes, landing rings and the barrier tree. -/

namespace Sys2Proof.Machine

/-- The header of the fabric section (R312). -/
structure FabHeader where
  version : Nat
  routeCount : Nat
  slotCount : Nat
  depCount : Nat
  groupCount : Nat
  landingCount : Nat
  barrierParent : Nat
  childCount : Nat
  participants : Nat
  dNs : Nat
  ports : Nat
  routes : Nat
  slots : Nat
  deps : Nat
  groups : Nat
  landings : Nat
  children : Nat
  deriving DecidableEq, Repr

/-- Read the header (R312). -/
def FabHeader.ofBytes (b : List Byte) : FabHeader :=
  ⟨fieldAt b 0 2, fieldAt b 4 4, fieldAt b 8 4, fieldAt b 12 4, fieldAt b 16 2, fieldAt b 18 2, fieldAt b 20 4,
   fieldAt b 24 2, fieldAt b 28 4, fieldAt b 32 4, fieldAt b 36 4, fieldAt b 40 4, fieldAt b 44 4, fieldAt b 48 4,
   fieldAt b 52 4, fieldAt b 56 4, fieldAt b 60 4⟩

/-- A port entry (R313). -/
structure FabPort where
  attach : Nat
  neighbour : Nat
  outRank : List Nat
  inRank : List Nat
  reservedZero : Bool
  deriving DecidableEq, Repr

/-- A route entry (R314). -/
structure FabRoute where
  dest : Nat
  port : Nat
  altPort : Nat
  relays : Nat
  altRelays : Nat
  switchNs : Nat
  altSwitchNs : Nat
  reserved : Nat
  relayIn : Nat
  deriving DecidableEq, Repr

/-- A slot entry (R317). -/
structure FabSlot where
  exposure : Nat
  cls : Nat
  role : Nat
  start : Nat
  stop : Nat
  guard : Nat
  portOut : Nat
  portIn : Nat
  peer : Nat
  peerSlot : Nat
  relays : Nat
  switchNs : Nat
  offsetNs : Nat
  depFirst : Nat
  depCount : Nat
  deriving DecidableEq, Repr

/-- Read a port entry (R313). -/
def FabPort.ofBytes (b : List Byte) : FabPort :=
  ⟨fieldAt b 0 1, fieldAt b 4 4, (List.range 5).map (fun c => fieldAt b (8 + 2 * c) 2),
   (List.range 5).map (fun c => fieldAt b (18 + 2 * c) 2), zeroAt b 1 3 && zeroAt b 28 4⟩

/-- Read a route entry (R314). -/
def FabRoute.ofBytes (b : List Byte) : FabRoute :=
  ⟨fieldAt b 0 4, fieldAt b 4 1, fieldAt b 5 1, fieldAt b 6 1, fieldAt b 7 1, fieldAt b 8 2, fieldAt b 10 2,
   fieldAt b 12 4, fieldAt b 16 8⟩

/-- Read a slot entry (R317). -/
def FabSlot.ofBytes (b : List Byte) : FabSlot :=
  ⟨fieldAt b 0 2, fieldAt b 2 1, fieldAt b 3 1, fieldAt b 4 4, fieldAt b 8 4, fieldAt b 12 2, fieldAt b 14 1,
   fieldAt b 15 1, fieldAt b 16 4, fieldAt b 20 2, fieldAt b 22 1, fieldAt b 24 2, fieldAt b 26 2,
   fieldAt b 23 1 * 65536 + fieldAt b 28 2, fieldAt b 30 2⟩

/-- `n` records of `size` bytes from offset `off` of a section. -/
def records (b : List Byte) (off size n : Nat) : List (List Byte) :=
  (List.range n).map (fun i => slice b (off + size * i) size)

/-- The fabric section's header. -/
def fabHeader (sec : List Byte) : FabHeader := FabHeader.ofBytes sec
/-- The 48 port entries. -/
def fabPorts (sec : List Byte) : List FabPort := (records sec (fabHeader sec).ports 32 48).map FabPort.ofBytes
/-- The route entries. -/
def fabRoutes (sec : List Byte) : List FabRoute :=
  (records sec (fabHeader sec).routes 24 (fabHeader sec).routeCount).map FabRoute.ofBytes
/-- The slot entries. -/
def fabSlots (sec : List Byte) : List FabSlot :=
  (records sec (fabHeader sec).slots 32 (fabHeader sec).slotCount).map FabSlot.ofBytes
/-- The dependency indices. -/
def fabDeps (sec : List Byte) : List Nat :=
  (records sec (fabHeader sec).deps 2 (fabHeader sec).depCount).map leNat
/-- The positions of the barrier children. -/
def fabChildren (sec : List Byte) : List Nat :=
  (records sec (fabHeader sec).children 4 (fabHeader sec).childCount).map leNat

/-- The route entry of a destination (R314). -/
def fabRoute (sec : List Byte) (dest : Nat) : Option FabRoute := (fabRoutes sec).find? (fun r => r.dest == dest)

/-- The barrier parent of a root (R312). -/
def noParent : Nat := 0xFFFFFFFF

/-- Positions that take part in the plan's step: 1 without a fabric section (R34). -/
def Plan.participants (pl : Plan) : Nat := if pl.hasSection 2 then (fabHeader (pl.section 2)).participants else 1

/-- The plan's barrier root, or a plan of one position. -/
def Plan.isRoot (pl : Plan) : Bool := !pl.hasSection 2 || (fabHeader (pl.section 2)).barrierParent == noParent

end Sys2Proof.Machine
end

