-- ==== Sys2Proof/Machine/Steps.lean ====
section
/-! DEFINITION. The barrier of a step (R24, R25, R330, R446), step faults and their notices (R26, R376), and the
beginning of a step (R24, R114). -/

namespace Sys2Proof.Machine

/-! ### Cores and the fabric section in force -/

/-- Core `c`. -/
def State.core (s : State) (c : Nat) : Core := (s.cores[c]?).getD Core.init

/-- Change core `c`. -/
def State.modCore (s : State) (c : Nat) (f : Core → Core) : State := { s with cores := s.cores.modify c f }

/-- The active cores of partition `p`, ascending (R2, R422). -/
def State.coresOf (s : State) (p : Nat) : List Nat :=
  (List.range s.fitted.ccc).filter (fun c => s.corePart c == p)

/-- Core `c` is marked failed (R51). -/
def State.coreFailed (s : State) (c : Nat) : Bool := bitAt (s.pair Reg.sysInvCoreFailed) c == 1

/-- The fabric section in force for partition `p` (R334), if the plan has one. -/
def State.fabSec (s : State) (p : Nat) : Option (List Byte) :=
  match (s.part p).sectionNow with
  | some b => some b
  | none => (s.planOf p).bind (fun pl => if pl.hasSection 2 then some (pl.section 2) else none)

/-- Participants of the step (R24, R312): 1 without a fabric section. -/
def State.participants (s : State) (p : Nat) : Nat := match s.fabSec p with
  | some b => (fabHeader b).participants
  | none => 1

/-- The module is the barrier root (R312), or the plan involves one position. -/
def State.isBarrierRoot (s : State) (p : Nat) : Bool := match s.fabSec p with
  | some b => (fabHeader b).barrierParent == noParent
  | none => true

/-- The positions of the barrier children. -/
def State.barrierChildren (s : State) (p : Nat) : List Nat := match s.fabSec p with
  | some b => fabChildren b
  | none => []

/-- The output port towards a destination: the primary port, or the alternate once its route is switched (R335). -/
def State.portTo (s : State) (p dest : Nat) : Option Nat :=
  (s.fabSec p).bind (fun b => (fabRoute b dest).map (fun r =>
    if (s.part p).switched.contains dest then r.altPort else r.port))

/-- Fabric port `n`. -/
def State.port (s : State) (n : Nat) : Port := (s.ports[n]?).getD Port.init

/-- Change port `n`. -/
def State.modPort (s : State) (n : Nat) (f : Port → Port) : State := { s with ports := s.ports.modify n f }

/-- Put something behind what waits at an output port (R310); `via` is the input port of a relayed packet. -/
def State.enqueueVia (s : State) (n cls : Nat) (o : FabOut) (slot : Option (Nat × Nat)) (late : Bool) (via : Option Nat) :
    State :=
  s.modPort n (fun p => { p with queue := p.queue ++ [⟨cls, o, s.time.now, slot, late, via, none⟩] })

/-- Put something that the module originates behind what waits at an output port (R310). -/
def State.enqueue (s : State) (n cls : Nat) (o : FabOut) (slot : Option (Nat × Nat)) (late : Bool) : State :=
  s.enqueueVia n cls o slot late none

/-- Put a class-0 item on an output port. -/
def State.sendFab (s : State) (port : Nat) (o : FabOut) : State := s.enqueue port 0 o none false

/-- The module is a standby second body (R382). -/
def State.standby (s : State) : Bool := s.flag Reg.survSpareControl_standby

/-- The module originates no packet for partition `p`: a standby second body (R382) but for the requests of a takeover under
way (R384), or a module after its hand-over (R383). -/
def State.silent (s : State) (p : Nat) : Bool :=
  (s.standby && !(s.part p).fixer.takeover) || (s.part p).fixer.handed

/-- The 32-byte header of a packet (R305). -/
def PacketSpec.header (x : PacketSpec) (epoch : Nat) (st : Stamp) : List Byte :=
  leBytes (x.dest % 2 ^ 20 + 2 ^ 20 * x.cls + 2 ^ 24 * x.kind) 4 ++ leBytes x.data.length 2 ++ leBytes epoch 2 ++
    leBytes x.slot 2 ++ leBytes x.e 1 ++ leBytes (if x.last then 1 else 0) 1 ++ leBytes x.offset 4 ++ st.bytes

/-- A notice with the header of its packet: kind 5, class 0, unslotted (R305); its contents stand typed beside it (log
entry 16). -/
def State.sealNotice (s : State) (dest : Nat) (n : Notice) : Notice :=
  { n with
    header := (⟨5, 0, dest, 0xFFFF, 0, true, 0, []⟩ : PacketSpec).header s.epoch (s.stampNow 2) }

/-- Send a notice to a position, if a route leads there. -/
def State.sendNotice (s : State) (p dest : Nat) (n : Notice) : State := match s.portTo p dest with
  | some port => if s.silent p then s else s.stampUsed.sendFab port (.notice (s.sealNotice dest n))
  | none => s

/-- Send a notice to every barrier child. -/
def State.noticeDown (s : State) (p : Nat) (n : Notice) : State :=
  (s.barrierChildren p).foldl (fun s c => s.sendNotice p c { n with down := true }) s

/-- Send a notice to the barrier parent. -/
def State.noticeUp (s : State) (p : Nat) (n : Notice) : State := match s.fabSec p with
  | some b => s.sendNotice p (fabHeader b).barrierParent { n with down := false }
  | none => s

/-! ### Step faults -/

/-- The causes of EV_STEP_FAULT (R436). -/
inductive FaultCause
  | numeric | uncorrectable | timeLock | holdLimit | frameMismatch | tileIllegal | epochDrain | spares | peer
  | power | thermal | route
  deriving DecidableEq, Repr

/-- The code of a step-fault cause (R436, code 0x0109). -/
def FaultCause.code : FaultCause → Nat
  | .numeric => 1 | .uncorrectable => 2 | .timeLock => 3 | .holdLimit => 4 | .frameMismatch => 5
  | .tileIllegal => 6 | .epochDrain => 7 | .spares => 8 | .peer => 9 | .power => 10 | .thermal => 11 | .route => 12

/-- The running step of partition `p` faults (R26, R376): EV_STEP_FAULT, no further task starts, and the fault
notice goes up the barrier tree, or down it from the root. Outside RUNNING and HELD there is no step to fault. -/
def State.stepFault (s : State) (p : Nat) (c : FaultCause) : State :=
  if !s.inStep p then s
  else
    let q := s.part p
    let s := s.raise Ev.stepFault (UnitId.partition p) { value := q.step % 2 ^ 32, cause := c.code }
    let s := s.modPart p (fun q => { q with phase := .faulted, faultCause := c.code, drainDone := false })
    let n : Notice := ⟨.fault, q.startExposure, 1, s.time.now, s.position, false, c.code, 0, []⟩
    if s.isBarrierRoot p then s.noticeDown p n else s.noticeUp p n

/-! ### The barrier -/

/-- Change the barrier of partition `p`. -/
def State.modBarrier (s : State) (p : Nat) (f : Barrier → Barrier) : State :=
  s.modPart p (fun q => { q with barrier := f q.barrier })

/-- The combined notice of the module's own completion and its children's (R330): count and largest fabric time. -/
def combineNotices (own : Nat) (children : List Notice) : Nat × Nat :=
  (1 + (children.map (·.count)).sum, (children.map (·.time)).foldl max own)

/-- When the module's own last task and every child's notice are in hand, the combined completion notice goes up,
or at the root, once its count equals participants, down (R330). -/
def State.tryCombine (s : State) (p : Nat) : State :=
  let b := (s.part p).barrier
  match b.own with
  | none => s
  | some own =>
    if b.sent || decide (b.children.length < (s.barrierChildren p).length) then s
    else
      let c := combineNotices own b.children
      let n : Notice := ⟨.completion, (s.part p).startExposure, c.1, c.2, s.position, false, 0, 0, []⟩
      if s.isBarrierRoot p then
        if c.1 = s.participants p then
          (s.modBarrier p (fun b => { b with sent := true, combined := some c.2 })).noticeDown p n
        else s
      else (s.modBarrier p (fun b => { b with sent := true })).noticeUp p n

/-- The same for drained notices (R376); `cause` 1 carries the departure flag (R385). -/
def State.tryCombineDrained (s : State) (p : Nat) : State :=
  let b := (s.part p).barrier
  match b.ownDrained with
  | none => s
  | some own =>
    if b.drainedSent || decide (b.drainedChildren.length < (s.barrierChildren p).length) then s
    else
      let c := combineNotices own b.drainedChildren
      let dep := if b.departing || b.drainedChildren.any (fun n => n.cause == 1) then 1 else 0
      let n : Notice := ⟨.drained, (s.part p).startExposure, c.1, c.2, s.position, false, dep, 0, []⟩
      if s.isBarrierRoot p then
        if c.1 = s.participants p then
          (s.modBarrier p (fun b => { b with drainedSent := true, drained := some c.2, departing := dep == 1 })).noticeDown p n
        else s
      else (s.modBarrier p (fun b => { b with drainedSent := true, departing := dep == 1 })).noticeUp p n

/-- The module's last task of the step has completed (R24): its completion notice is stamped now. -/
def State.ownNotice (s : State) (p : Nat) : State :=
  if (s.part p).barrier.own.isSome then s
  else
    let t := s.stampTime
    ((s.issueStamp 0x0A t).modBarrier p (fun b => { b with own := some t })).tryCombine p

/-- The fabric time of the tick that opened the current exposure of partition `p`. -/
def State.currentTick (s : State) (p : Nat) : Nat := s.tickTime p (s.part p).exposure

/-- P of the plan in a step. -/
def State.plannedOf (s : State) (p : Nat) : Nat := ((s.planOf p).map (·.planned)).getD 0
/-- S of the plan in a step. -/
def State.sparesOf (s : State) (p : Nat) : Nat := ((s.planOf p).map (·.spares)).getD 0

/-- The exposure whose opening tick ends the step, the last notice being stamped `t` (R24): the first from exposure P on
whose tick comes G after it or later. -/
def State.endExposure (s : State) (p t : Nat) : Nat :=
  max ((s.part p).startExposure + s.plannedOf p) (ceilDiv (t + s.guardUnits p - s.pair (Reg.tickOrigin p)) (s.exposureUnits p))

/-- The exposure with which the next step begins, at the earliest that the module knows (R24). -/
def State.nextStepAt (s : State) (p : Nat) : Nat := match (s.part p).barrier.combined with
  | some t => max ((s.part p).exposure + 1) (s.endExposure p t)
  | none => max ((s.part p).exposure + 1) ((s.part p).startExposure + s.plannedOf p)

/-- A completion notice came after the tick at which its step ends (R25). DESIGN CHOICE (log entry 62): the event and the
count come with the notice that makes the combined time known, so of several late notices of children only the last is
reported. -/
def State.noteLate (s : State) (p origin : Nat) : State := match (s.part p).barrier.combined with
  | none => s
  | some t =>
    let e := s.endExposure p t
    if (s.part p).exposure < e then s
    else
      (s.count (Ctr.tickBarrierLateCount p)).raise Ev.barrierLate (UnitId.partition p)
        { value := origin, value2 := (s.time.now - s.tickTime p e) / 4 }

/-- A completion notice received in RUNNING or HELD (R22, R24, R25, R330). -/
def State.completionNotice (s : State) (p : Nat) (n : Notice) : State :=
  let q := s.part p
  if n.startExposure ≠ q.startExposure then s.stepFault p .frameMismatch
  else if q.barrier.combined.isSome then s
  else if n.down then ((s.modBarrier p (fun b => { b with combined := some n.time })).noteLate p n.origin).noticeDown p n
  else ((s.modBarrier p (fun b => { b with children := b.children ++ [n] })).tryCombine p).noteLate p n.origin

/-- A fault notice (R376): the root passes it down the tree; a module in its step faults with cause "peer". -/
def State.faultNotice (s : State) (p : Nat) (n : Notice) : State :=
  let s := if n.down || s.isBarrierRoot p then s.noticeDown p n else s.noticeUp p n
  s.stepFault p .peer

/-- A drained notice (R376). -/
def State.drainedNotice (s : State) (p : Nat) (n : Notice) : State :=
  if n.down then
    (s.modBarrier p (fun b => { b with drained := some n.time, departing := n.cause == 1 })).noticeDown p n
  else (s.modBarrier p (fun b => { b with drainedChildren := b.drainedChildren ++ [n] })).tryCombineDrained p

/-- A barrier notice reaches partition `p` in a step or in FAULTED. -/
def State.applyNotice (s : State) (p : Nat) (n : Notice) : State :=
  match n.kind, (s.part p).phase with
  | .completion, .faulted => s
  | .completion, _ => s.completionNotice p n
  | .fault, _ => s.faultNotice p n
  | .drained, _ => s.drainedNotice p n

/-! ### The beginning of a step -/

/-- The key of task `t` of graph `g` in the tables of a step. -/
def taskKey (g t : Nat) : Nat := g * 65536 + t

/-- A task that has not run in this step. -/
def TaskRun.init : TaskRun := ⟨[], false, 0, false, false, false, []⟩

/-- The run of a task in the current step. -/
def State.run (s : State) (p g t : Nat) : TaskRun := (lookup (s.part p).runs (taskKey g t)).getD TaskRun.init

/-- Change the run of a task. -/
def State.modRun (s : State) (p g t : Nat) (f : TaskRun → TaskRun) : State :=
  s.modPart p (fun q =>
    { q with runs := insertKey q.runs (taskKey g t) (f ((lookup q.runs (taskKey g t)).getD TaskRun.init)) })

/-- The tasks of a plan placed on core `c`, as (graph, index, task). -/
def Plan.tasksOn (pl : Plan) (c : Nat) : List (Nat × Nat × Task) :=
  pl.allTasks.filter (fun x => decide (x.2.2.coreFirst ≤ c ∧ c < x.2.2.coreFirst + x.2.2.coreCount))

/-- The counts of missing predecessors of core `c` at the start of a step (R114). -/
def Plan.missingOn (pl : Plan) (c : Nat) : List (Nat × Nat) :=
  (pl.tasksOn c).map (fun x => (taskKey x.1 x.2.1, x.2.2.preds.length))

/-- A core at the start of a step of its plan (R114, R150): what it runs goes on. -/
def Core.atStep (k : Core) (missing : List (Nat × Nat)) : Core :=
  { k with
    missing := missing, started := [], replay := [], waiting := [], slipRaised := false, waitRaised := false
    genCounter := 0, lateRaised := false, once := [], window := [], early := [], paid := [] }

/-- Partition `p` begins a step at the tick that opened its exposure `e`, the current one unless the end of the last step was
learned late (R24, R25, R26). -/
def State.beginStep (s : State) (p step e : Nat) : State :=
  match s.planOf p with
  | none => s
  | some pl =>
    let kept := (s.part p).barrier.kept
    let s := s.modPart p (fun q =>
      { q with
        phase := .running, step := step, index := q.exposure - e, startExposure := e, runs := [], faultCause := 0
        drainDone := false, replaysRaised := [], barrier := Barrier.init, touchedExperts := [], touchedSets := []
        outSlots := [], arrived := [], stripes := [], landCredits := [], landGiven := [], landWaits := []
        fixer := { q.fixer with copied := [], waited := [], settled := false, resumeAt := none }, once := [] })
    let s := { s with ports := s.ports.zipIdx.map (fun (x : Port × Nat) =>
      if s.get (Reg.fabPort_partition x.2) = p then { x.1 with stepReplays := 0, stale := 0, once := [] } else x.1) }
    let s := { s with intake := s.intake.zipIdx.map (fun (x : IntakeUnit × Nat) =>
      if s.get (Reg.intUnitControl_partition x.2) = p then { x.1 with once := [] } else x.1) }
    let s := { s with power := { s.power with once := [] } }
    let s := { s with devDraws := s.devDraws.filter (fun e => s.stackPart ((e.1 - 64) / 4) != p) }
    let s := (s.coresOf p).foldl (fun s c => s.modCore c (fun k => k.atStep (pl.missingOn c))) s
    kept.foldl (fun s n => s.applyNotice p n) s

end Sys2Proof.Machine
end

