-- ==== Sys2Proof/Machine/Layers.lean ====
section
/-! DEFINITION. The numeric layer table (R145), effective rungs (R128), promotions and their expiry (R139, R142), and
the gradient scale (R146, R147). -/

namespace Sys2Proof.Machine

/-- The table entry of a layer. -/
def State.layer (s : State) (l : Nat) : Option LayerEntry := s.layers.find? (fun e => e.layer == l)

/-- Change the entry of a layer. -/
def State.modLayer (s : State) (l : Nat) (f : LayerEntry → LayerEntry) : State :=
  { s with layers := s.layers.map (fun e => if e.layer = l then f e else e) }

/-- The promotion of a layer, 0 without an entry. -/
def State.promotion (s : State) (l : Nat) : Nat := ((s.layer l).map (·.promotion)).getD 0

/-- The effective rung of a task (R128). -/
def State.effRung (s : State) (t : Task) : Nat :=
  if t.layered then min 3 (t.rung + s.promotion t.layer) else t.rung

/-- The gradient scale exponent of a layer, 0 without an entry (R146). -/
def State.gradScale (s : State) (l : Nat) : Int := ((s.layer l).map (·.e)).getD 0

/-- The tasks that write gradients: backward products, attention backward, backward convolutions, and the backward modes
of ops 0x000A and 0x000B (R146, R215). -/
def Task.backward (t : Task) : Bool :=
  t.op == 0x0002 || t.op == 0x0004 || (t.op == 0x0005 && (t.par 0 1 == 2 || t.par 0 1 == 3)) ||
    ((t.op == 0x000A || t.op == 0x000B) && decide (0x80 ≤ t.par 0 1))

/-- The table entry a layer of an admitted plan starts with (R145). -/
def newLayer (pl : Plan) (l : Nat) (e : Int) : LayerEntry :=
  let back := pl.allTasks.filter (fun x => x.2.2.layer == l && x.2.2.backward)
  { layer := l, promotion := 0, e := e, hold := 0, partition := pl.partition, history := [], histNext := 0
    gFormat := if back.any (fun x => decide (x.2.2.rung ≤ 1)) then 0x05 else 0x07
    remote := false, hasGrad := !back.isEmpty, lastPromotion := 0, replays := 0, amax := none, since := 0 }

/-- The initial exponent of NUM_GRAD_SCALE.e_init (R145). -/
def State.eInit (s : State) : Int := signed 8 (s.get Reg.numGradScale_eInit)

/-- The remote layers that the plan's gradient receives name (R145). -/
def Plan.remoteLayers (pl : Plan) : List Nat :=
  ((pl.allTasks.filter (fun x => x.2.2.op == 0x000D && x.2.2.par 0 1 == 2 && bitAt (x.2.2.par 2 1) 0 == 1)).map
    (fun x => x.2.2.par 44 2)).eraseDups

/-- Admitting a plan resets every entry and creates those of its layers and of the remote ones (R145). -/
def State.admitLayers (s : State) (pl : Plan) : State :=
  let e0 := s.eInit
  let own := ((pl.allTasks.map (fun x => x.2.2.layer)).filter (fun l => l != noLayer)).eraseDups
  let mine := (own ++ pl.remoteLayers).eraseDups
  let old := (s.layers.filter (fun x => !mine.contains x.layer)).map (fun x =>
    { x with
      promotion := 0, hold := 0, history := [], histNext := 0, e := e0
      amax := if x.partition = pl.partition then none else x.amax })
  { s with layers := old ++ mine.map (fun l =>
      { newLayer pl l e0 with
        remote := !own.contains l
        replays := ((s.layer l).map (·.replays)).getD 0 }) }

/-- The exponent byte of a recorded maximum (R145): floor(log2 a) + 127 within 1..254, 0 for zero. -/
def amaxByte (bits : Nat) : Nat :=
  let v := Fp.of32 bits
  if v.isZero then 0 else (clampInt 1 254 (v.exponent + 127)).toNat

/-- floor(log2 G_max) (R147). -/
def LayerEntry.gMaxLog (e : LayerEntry) : Int := if e.gFormat = 0x05 then 15 else 127

/-- The choice of e from the largest history byte (R147). -/
def chooseE (gLog : Int) (x margin : Nat) : Int := clampInt (-64) 64 ((gLog + 127 - x) - 1 - margin)

/-- A layer's entry after the end of a step in which it recorded a maximum (R147). -/
def LayerEntry.endStep (e : LayerEntry) (window margin : Nat) : LayerEntry := match e.amax with
  | none => e
  | some a =>
    let hist := (amaxByte a :: e.history).take window
    let x := hist.foldl max 0
    { e with
      history := hist, histNext := (e.histNext + 1) % (if window = 0 then 1 else window), amax := none
      e := if x = 0 then e.e else chooseE e.gMaxLog x margin }

/-- At the end of a step, every layer of the partition's plan with gradient outputs chooses e for the next step
(R147). -/
def State.endStepScales (s : State) (p : Nat) : State :=
  let window := s.get Reg.numGradScale_history
  let margin := s.get Reg.numGradScale_margin
  s.layers.foldl (fun s old =>
    if old.partition != p || !old.hasGrad then s
    else
      let new := old.endStep window margin
      let s := s.modLayer old.layer (fun _ => new)
      if new.e = old.e then s
      else s.raise Ev.gradScaleChanged (UnitId.partition p)
        { object := old.layer, value := unsigned 32 new.e, value2 := unsigned 32 old.e }) s

/-- Record a gradient magnitude at an output stage of a layer (R147): the stored value divided by 2^e. -/
def State.recordAmax (s : State) (l : Nat) (a : Fp) : State :=
  s.modLayer l (fun e =>
    let old := (e.amax.map Fp.of32).getD Fp.zero
    let m := old.max a.abs
    { e with amax := some (if m.isZero then 0 else max 1 m.bits32) })

/-- The newest byte of a layer's history (R145, R152). -/
def LayerEntry.newest (e : LayerEntry) : Nat := e.history.head?.getD 0

/-- Steps of hold remaining (R142). -/
def State.holdLeft (s : State) (e : LayerEntry) : Nat :=
  if e.promotion = 0 then 0 else e.since + e.hold - (s.part e.partition).step

/-- PROMOTION_EXPIRY (R142): at the start of step s + H + 1 the promotion returns to 0. -/
def doPromotionExpiry (p layer : Nat) (s : State) : State :=
  match s.layer layer with
  | none => s
  | some e =>
    if e.partition = p ∧ 0 < e.promotion ∧ e.since + e.hold < (s.part p).step then
      ((s.modLayer layer (fun e => { e with promotion := 0, hold := 0 })).count Ctr.numPromotionExpiredCount).raise
        Ev.promotionExpired (UnitId.partition p) { object := layer }
    else s

/-- A receiving module writes the e of a remote layer (R146). -/
def State.setRemoteScale (s : State) (p l : Nat) (e : Int) : State :=
  match s.layer l with
  | some _ => s.modLayer l (fun x => if x.remote then { x with e := e } else x)
  | none =>
    { s with layers := s.layers ++ [⟨l, 0, e, 0, p, [], 0, 0x05, true, false, 0, 0, none, 0⟩] }

end Sys2Proof.Machine
end

