-- ==== Sys2Proof/Machine/Groups.lean ====
section
/-! DEFINITION. The group table and the schedule table of a plan (R280, R288), the state entries of parameter groups and
the group step (R283, R284, R294), the learning rate (R289), torn groups, and uncorrectable errors in data (R378). -/

namespace Sys2Proof.Machine

/-! ### The tables -/

/-- An entry of the group table (R280). -/
structure GroupEntry where
  rule : Nat
  flags : Nat
  graph : Nat
  reserved : Nat
  layer : Nat
  curve : Nat
  weight : Nat
  grad : Nat
  master : Nat
  state1 : Nat
  state2 : Nat
  state3 : Nat
  rowstep : Nat
  touch : Nat
  gradMult : Nat
  touchIndex : Nat
  touchLocal : Nat
  stepInit : Nat
  lr : Nat
  beta1 : Nat
  beta2 : Nat
  eps : Nat
  decay : Nat
  eps2 : Nat
  reservedZero : Bool
  deriving DecidableEq, Repr

/-- Read a group table entry (R280). -/
def GroupEntry.ofBytes (b : List Byte) : GroupEntry :=
  { rule := fieldAt b 0 1, flags := fieldAt b 1 1, graph := fieldAt b 2 1, reserved := fieldAt b 3 1
    layer := fieldAt b 4 2, curve := fieldAt b 6 2, weight := fieldAt b 8 4, grad := fieldAt b 12 4
    master := fieldAt b 16 4, state1 := fieldAt b 20 4, state2 := fieldAt b 24 4, state3 := fieldAt b 28 4
    rowstep := fieldAt b 32 4, touch := fieldAt b 36 4, gradMult := fieldAt b 40 4, touchIndex := fieldAt b 44 2
    touchLocal := fieldAt b 46 2, stepInit := fieldAt b 48 4, lr := fieldAt b 52 4, beta1 := fieldAt b 56 4
    beta2 := fieldAt b 60 4, eps := fieldAt b 64 4, decay := fieldAt b 68 4, eps2 := fieldAt b 72 4
    reservedZero := zeroAt b 76 52 }

/-- Frozen by the plan (R280). -/
def GroupEntry.frozen (e : GroupEntry) : Bool := bitAt e.flags 0 == 1
/-- An FP32 master copy (R280). -/
def GroupEntry.hasMaster (e : GroupEntry) : Bool := bitAt e.flags 1 == 1
/-- Touch mode: 0 dense, 1 rows, 2 expert, 3 adapter set (R280). -/
def GroupEntry.touchMode (e : GroupEntry) : Nat := bitsAt e.flags 2 2
/-- Bias correction of rule 2 (R280). -/
def GroupEntry.biasCorrection (e : GroupEntry) : Bool := bitAt e.flags 4 == 1

/-- Every tensor that an update of the group reads (R280, R285). -/
def GroupEntry.operandIndices (e : GroupEntry) : List Nat :=
  [e.weight, e.grad, e.master, e.state1, e.state2, e.state3, e.rowstep, e.touch, e.gradMult].filter (fun i => i != noTensor)

/-- The group table of a section of type 3. -/
def groupEntries (sec : List Byte) : List GroupEntry :=
  (records sec 16 128 (fieldAt sec 0 4)).map GroupEntry.ofBytes

/-- The group table of a plan (R280). -/
def Plan.groups (pl : Plan) : List GroupEntry := if pl.hasSection 3 then groupEntries (pl.section 3) else []

/-- The state tensors of a group with its weight and master copy, in the order of the group copy (R366). -/
def GroupEntry.tensorIndices (e : GroupEntry) : List Nat :=
  [e.weight, e.master, e.state1, e.state2, e.state3, e.rowstep].filter (fun i => i != noTensor)

/-- The group that holds persistent tensor `i` of graph `g`, if one does. -/
def Plan.groupOf (pl : Plan) (g i : Nat) : Option Nat :=
  (pl.groups.zipIdx.find? (fun x => x.1.graph == g && x.1.tensorIndices.contains i)).map (·.2)

/-- A schedule segment (R288). -/
structure Segment where
  start : Nat
  stop : Nat
  kind : Nat
  v0 : Nat
  v1 : Nat
  reservedZero : Bool
  deriving DecidableEq, Repr

/-- Read a segment (R288). -/
def Segment.ofBytes (b : List Byte) : Segment :=
  ⟨fieldAt b 0 4, fieldAt b 4 4, fieldAt b 8 1, fieldAt b 12 4, fieldAt b 16 4, zeroAt b 9 3 && zeroAt b 20 12⟩

/-- A set-value command (R288). -/
structure SetValue where
  step : Nat
  group : Nat
  field : Nat
  value : Nat
  reservedZero : Bool
  deriving DecidableEq, Repr

/-- Read a set-value command (R288). -/
def SetValue.ofBytes (b : List Byte) : SetValue :=
  ⟨fieldAt b 0 4, fieldAt b 4 4, fieldAt b 8 1, fieldAt b 12 4, zeroAt b 9 3⟩

/-- Form of the schedule table: 1 curves, 2 commands, 0 without a table. -/
def schedForm (sec : List Byte) : Nat := fieldAt sec 0 1
/-- Curves of the schedule table. -/
def schedCurves (sec : List Byte) : Nat := fieldAt sec 2 2
/-- Segments or commands of the schedule table. -/
def schedItems (sec : List Byte) : Nat := fieldAt sec 4 4

/-- The segments of curve `k` (R288). -/
def curveSegments (sec : List Byte) (k : Nat) : List Segment :=
  let b := slice sec (16 + 8 * k) 8
  (records sec (16 + 8 * schedCurves sec + 32 * fieldAt b 0 4) 32 (fieldAt b 4 2)).map Segment.ofBytes

/-- The set-value commands of form 2. -/
def schedCommands (sec : List Byte) : List SetValue := (records sec 16 16 (schedItems sec)).map SetValue.ofBytes

/-- π in FP32. -/
def piFp : Fp := Fp.of32 0x40490FDB

/-- φ within a segment (R289). -/
def Segment.phi (g : Segment) (s : Nat) : Fp :=
  let x := if g.stop = g.start then Fp.zero else (Fp.ofNat (s - g.start)).to32.div (Fp.ofNat (g.stop - g.start)).to32
  let v0 := Fp.of32 g.v0
  let v1 := Fp.of32 g.v1
  if g.kind = 0 then v0.add ((v1.sub v0).mul x)
  else
    let c := Fp.via Config.cos (piFp.mul x)
    v1.add (((v0.sub v1).mul (Fp.one.add c)).div (Fp.ofNat 2))

/-- φ of a curve at group step `s` (R289). -/
def phi (segs : List Segment) (s : Nat) : Fp :=
  match segs.find? (fun g => decide (g.start ≤ s ∧ s ≤ g.stop)) with
  | some g => g.phi s
  | none => match (segs.filter (fun g => decide (g.stop < s))).getLast? with
    | some g => Fp.of32 g.v1
    | none => (segs.head?.map (fun g => Fp.of32 g.v0)).getD Fp.one

/-- The last command of a field of group `g` with step ≤ s (R289). -/
def lastSet (sec : List Byte) (g field s : Nat) : Option Nat :=
  if schedForm sec = 2 then
    ((schedCommands sec).filter (fun c => c.group == g && c.field == field && decide (c.step ≤ s))).getLast?.map (·.value)
  else none

/-- η of group `g` at step `s` (R289), as FP32 bits. -/
def Plan.eta (pl : Plan) (g s : Nat) (e : GroupEntry) : Nat :=
  let sec := pl.section 4
  let lr := (lastSet sec g 1 s).getD e.lr
  if schedForm sec = 1 ∧ e.curve ≠ 0xFFFF then ((Fp.of32 lr).mul (phi (curveSegments sec e.curve) s)).bits32 else lr

/-- λ of group `g` at step `s` (R289), as FP32 bits. -/
def Plan.lambda (pl : Plan) (g s : Nat) (e : GroupEntry) : Nat := (lastSet (pl.section 4) g 2 s).getD e.decay

/-! ### State entries -/

/-- A state entry of a group that the plan does not have. -/
def GroupState.none : GroupState := ⟨0, 0, 0, 0, false, false, Option.none, false, false, false⟩

/-- The state entry of group `g` of partition `p`. -/
def State.group (s : State) (p g : Nat) : GroupState := ((s.part p).groups[g]?).getD GroupState.none

/-- Change a state entry. -/
def State.modGroup (s : State) (p g : Nat) (f : GroupState → GroupState) : State :=
  s.modPart p (fun q => { q with groups := q.groups.modify g f })

/-- The 32 bytes of a state entry (R283). -/
def GroupState.bytes (x : GroupState) : List Byte :=
  leBytes x.step 4 ++ leBytes x.last 4 ++ leBytes x.eta 4 ++ leBytes x.status 1 ++
    leBytes ((if x.frozen then 1 else 0) + (if x.frozenAtAdmission then 2 else 0) + (if x.pending.isSome then 4 else 0)) 1 ++
    leBytes 0 18

/-- The largest group step. -/
def groupStepMax : Nat := 0xFFFFFFFF

/-- Admission sets the state entries of the plan's groups (R283, R294). -/
def State.admitGroups (s : State) (p : Nat) (pl : Plan) : State :=
  let old := (s.part p).groups
  s.modPart p (fun q => { q with
    groups := pl.groups.zipIdx.map (fun x =>
      let kept := ((old[x.2]?).map GroupState.step).getD 0
      let st := if x.1.stepInit = groupStepMax then kept else x.1.stepInit
      ⟨st, st, 0, 0, x.1.frozen, x.1.frozen, Option.none, false, false, false⟩) })

/-- The η of a group for the step after its group step (R289). -/
def State.setEta (s : State) (p g : Nat) (pl : Plan) (e : GroupEntry) : State :=
  s.modGroup p g (fun x => { x with eta := pl.eta g (x.step + 1) e })

/-- Evaluate η for every group of the partition (R289). -/
def State.evalEta (s : State) (p : Nat) (pl : Plan) : State :=
  pl.groups.zipIdx.foldl (fun s x => s.setEta p x.2 pl x.1) s

/-- A step boundary for one group (R284, R294): the step advances after an update or an untouched step, the status
returns to 0, and a pending freeze applies; a group left at status 0 marks the step partial (R299). -/
def State.groupBoundary (s : State) (p g : Nat) : State :=
  let x := s.group p g
  let full := x.step == groupStepMax
  let advances := x.status == 1 || x.status == 3
  let s := if advances && full && !x.saturated then
      s.raise Ev.groupStepSaturated (UnitId.partition p) { object := g } else s
  let s := if x.pending = some true && !x.frozen then s.raise Ev.groupFrozen (UnitId.partition p) { object := g } else s
  let s := if x.status == 0 && !x.frozen then s.set Reg.devStatus_partial 1 else s
  s.modGroup p g (fun x =>
    { x with
      step := if advances && !full then x.step + 1 else x.step
      saturated := x.saturated || (advances && full)
      status := 0, discardRaised := false, srRaised := false
      frozen := x.pending.getD x.frozen, pending := Option.none })

/-- The step boundary of every group (R284): steps and freezes, then η for the next step. -/
def State.groupsBoundary (s : State) (p : Nat) (pl : Plan) : State :=
  ((List.range (s.part p).groups.length).foldl (fun s g => s.groupBoundary p g) s).evalEta p pl

/-- A group reaches status 4 (R287, R298). -/
def State.tear (s : State) (p g cause : Nat) : State :=
  if (s.group p g).status = 4 then s
  else
    let s := (s.modGroup p g (fun x => { x with status := 4 })).raise Ev.updateTorn (UnitId.partition p)
      { object := g, cause := cause }
    ((((s.set Reg.devStatus_torn 1).set Reg.devLastTorn_group g).set Reg.devLastTorn_cause cause).count
      Ctr.devTornCount)

/-! ### Uncorrectable errors (R378) -/

/-- An uncorrectable error in transient data (R378): counted, raised, and the step faults. -/
def State.transientError (s : State) (p : Nat) (u : UnitId) (value cause : Nat) : State :=
  ((s.raiseFor (some p) Ev.ueTransient u { value := value, cause := cause }).count Ctr.survUeTransientCount).stepFault p
    .uncorrectable

/-- Put a group on the list of groups to be restored (R378). -/
def State.wantRestore (s : State) (p g : Nat) : State :=
  s.modPart p (fun q => if q.restoreDue.contains g then q else { q with restoreDue := q.restoreDue ++ [g] })

/-- How an uncorrectable error in persistent data was met (R378, R436). -/
inductive UeReader
  | task | unread | fixer
  deriving DecidableEq, Repr

/-- The code of the reader (R436). -/
def UeReader.code : UeReader → Nat
  | .task => 1 | .unread => 2 | .fixer => 3

/-- An uncorrectable error in a persistent tensor of group `g` (R378): raised and counted; a task's read faults the
step, and otherwise the restore runs at the step's end. -/
def State.persistentError (s : State) (p g : Nat) (u : UnitId) (by_ : UeReader) : State :=
  let s := (s.raiseFor (some p) Ev.uePersistent u { object := g, cause := by_.code }).count Ctr.survUePersistentCount
  match by_ with
  | .task => (s.wantRestore p g).stepFault p .uncorrectable
  | .unread => s.wantRestore p g
  | .fixer => s.wantRestore p g

/-! ### Units that no rule names -/

/-- Control core 0 of the partition's lowest compute die: the unit of the loader and of the Clear-table and context
descriptors (log entry 17). -/
def State.control (s : State) (p : Nat) : UnitId := ⟨2, 2 * s.firstDie p⟩

end Sys2Proof.Machine
end

