-- ==== Sys2Proof/Machine/Codec.lean ====
section
/-! DEFINITION. Grain (R254 to R257) and Clear (R259 to R266): block layouts, tags, prefix codes, table generations and
their reference counts, encoding and decoding of one block, and the errors of a decoder. -/

namespace Sys2Proof.Machine

/-! ### Grain -/

/-- Raw 4 KiB blocks of a tensor (R251): the segments of a Grain tensor. -/
def Tensor.rawBlocks (t : Tensor) : Nat := if t.grain then t.grainSegments else ceilDiv t.span 4096

/-- Block index β of the element at these coordinates (R255). -/
def Tensor.grainIndex (t : Tensor) (c : List Nat) : Nat :=
  let at_ := fun k => ((c)[k]?).getD 0
  let outer := (List.range (t.rank - 2)).foldr (fun k acc => acc * t.dim (k + 2) + at_ (k + 2)) 0
  at_ 0 / 8 + t.dim 0 / 8 * (at_ 1 / 8 + t.dim 1 / 8 * outer)

/-- The coordinates of element (u, v) of block β (R255). -/
def Tensor.grainCoords (t : Tensor) (b u v : Nat) : List Nat :=
  let nx := t.dim 0 / 8
  let ny := t.dim 1 / 8
  let outer := b / (nx * ny)
  let rest := ((List.range (t.rank - 2)).foldl (fun (acc : List Nat × Nat) k =>
    (acc.1 ++ [acc.2 % t.dim (k + 2)], acc.2 / t.dim (k + 2))) (([], outer) : List Nat × Nat)).1
  (b % nx * 8 + u) :: (b / nx % ny * 8 + v) :: rest

/-- Address of block β (R255). -/
def Tensor.grainAddress (t : Tensor) (b : Nat) : Nat :=
  let spb := grainSpb t.elemBytes
  t.base + b / spb * grainSegment t.elemBytes t.grainRate + b % spb * grainBlockBytes t.elemBytes t.grainRate

/-- The smallest x with m ≤ q × 2^x: ceil(log2(m / q)) of a positive value (R257; log entry 18). -/
def ceilLog2Ratio (m : Fp) (q : Nat) : Int := match m with
  | .fin _ a e =>
    let k : Int := (flog2 a : Int) + e - (flog2 q : Int)
    ((([k - 1, k, k + 1] : List Int).find? (fun x => leScaled a e q x)).getD (k + 2))
  | _ => 128

/-- The code of one Grain block (R257): x, mu as BF16 bits, and the 64 step counts. -/
structure GrainCode where
  x : Nat
  mu : Nat
  q : List Int
  deriving DecidableEq, Repr

/-- Encode 64 elements with `n` bits each (R257). -/
def grainEncode (n : Nat) (vs : List Fp) : GrainCode :=
  if vs.any (fun v => !v.finite) then ⟨255, 0, List.replicate 64 0⟩
  else
    let sum := vs.foldl Fp.addX Fp.zero
    let mu := Fmt.bf16.convert (sum.scale2 (-6))
    let rs := vs.map (fun v => v.sub (Fmt.bf16.decode mu))
    let m := rs.foldl (fun a r => a.max r.abs) Fp.zero
    let top : Nat := 2 ^ (n - 1) - 1
    let x := if m.isZero then 0 else (clampInt 0 254 (ceilLog2Ratio m top + 127)).toNat
    ⟨x, mu, rs.map (fun r => match r with
      | .fin _ _ _ => clampInt (-(top : Int)) top (((r.scale2 (127 - (x : Int))).toInt).getD 0)
      | .inf neg => if neg then -(top : Int) else top
      | .nan _ => 0)⟩

/-- The bytes of a Grain block (R256). -/
def GrainCode.bytes (c : GrainCode) (n size : Nat) : List Byte :=
  let qs := (c.q.foldr (fun q acc => unsigned n q + 2 ^ n * acc) 0 : Nat)
  leBytes (c.x + 2 ^ 8 * c.mu + 2 ^ 24 * qs) size

/-- The FP32 values of a Grain block (R257); `none` for a block of x = 0xFF. -/
def grainDecode (n : Nat) (bs : List Byte) : Option (List Fp) :=
  let w := leNat bs
  let x := bitsAt w 0 8
  if x = 255 then none
  else
    let mu := Fmt.bf16.decode (bitsAt w 8 16)
    some ((List.range 64).map (fun i =>
      mu.add ((Fp.ofInt (signed n (bitsAt w (24 + n * i) n))).scale2 ((x : Int) - 127))))

/-- The value of a decoded Grain element in the tensor's type (R257): a non-finite block gives the type's NaN, and 0
for type 0x12. -/
def grainValue (d : DType) (v : Option Fp) : Fp := match v with
  | some x => d.decodeElem (d.encodeElem x)
  | none => if d = .uint16 then Fp.zero else .nan false

/-! ### Tags -/

/-- A tag with its check bits (R259): mode, generation, length in 64-byte units modulo 64. -/
def tagOf (mode gen len : Nat) : Nat :=
  let b := mode % 4 + 4 * (gen % 16) + 64 * (len % 64)
  b + 4096 * (bitsAt b 0 4 ^^^ bitsAt b 4 4 ^^^ bitsAt b 8 4)

/-- Mode of a tag. -/
def tagMode (t : Nat) : Nat := bitsAt t 0 2
/-- Generation of a tag. -/
def tagGen (t : Nat) : Nat := bitsAt t 2 4
/-- Stored 64-byte units of a tag's block: a zero block stores none (R259). -/
def tagUnits (t : Nat) : Nat := if tagMode t = 2 then 0 else if bitsAt t 6 6 = 0 then 64 else bitsAt t 6 6

/-- A tag error (R259). -/
def tagBad (t : Nat) : Bool :=
  bitsAt t 12 4 != (bitsAt t 0 4 ^^^ bitsAt t 4 4 ^^^ bitsAt t 8 4) || tagMode t == 3 ||
    (tagMode t == 0 && bitsAt t 6 6 != 0)

/-- The tag of the 4 KiB block that holds address `a` of a space (R260). -/
def State.tagAt (s : State) (p space a : Nat) : Nat :=
  match space with
  | 0 => readOr 0 s.tags ((s.hbmBase p + a) / 4096)
  | 1 => 0
  | 2 => readOr 0 s.negTags ((s.negBase p + a) / 4096)
  | _ => readOr 0 s.tags ((s.hbmBase p + s.winBase p + a) / 4096)

/-- Set the tag of a block: the write of a Clear encoder (R261). -/
def State.setTag (s : State) (p space a v : Nat) : State :=
  match space with
  | 0 => { s with tags := writeOr 0 s.tags ((s.hbmBase p + a) / 4096) v }
  | 1 => s
  | 2 => { s with negTags := writeOr 0 s.negTags ((s.negBase p + a) / 4096) v }
  | _ => { s with tags := writeOr 0 s.tags ((s.hbmBase p + s.winBase p + a) / 4096) v }

/-! ### Prefix codes (R262, R264) -/

/-- The code length of byte value `v` in a table (R264). -/
def codeLen (table : List Byte) (v : Nat) : Nat := bitsAt (fieldAt table (v / 2) 1) (4 * (v % 2)) 4

/-- The first canonical code of each length 0..15 (RFC 1951, 3.2.2). -/
def firstCodes (table : List Byte) : List Nat :=
  let lens := (List.range 256).map (codeLen table)
  (List.range 15).foldl (fun (acc : List Nat) k =>
    let n := if k = 0 then 0 else (lens.filter (· == k)).length
    acc ++ [(((acc[k]?).getD 0) + n) * 2]) [0]

/-- The canonical code of a value that has one. -/
def codeOf (table : List Byte) (v : Nat) : Nat :=
  let l := codeLen table v
  ((firstCodes table)[l]?).getD 0 + ((List.range v).filter (fun u => codeLen table u == l)).length

/-- The value with this code of this length. -/
def valueOf (table : List Byte) (len code : Nat) : Option Nat :=
  if len = 0 then none
  else (List.range 256).find? (fun v => codeLen table v == len && codeOf table v == code)

/-- The bits of a byte string, least significant first. -/
def bitsOfBytes (bs : List Byte) : List Bool := bs.flatMap (fun b => (List.range 8).map (fun i => bitAt b.toNat i == 1))

/-- Pack bits into `k` bytes, least significant first; the rest is zero. -/
def bytesOfBits (bits : List Bool) (k : Nat) : List Byte :=
  leBytes (bits.foldr (fun b acc => (if b then 1 else 0) + 2 * acc) 0) k

/-- The bits of a code, most significant first. -/
def codeBits (len code : Nat) : List Bool := (List.range len).map (fun i => bitAt code (len - 1 - i) == 1)

/-- Read one code: the value and the rest of the bits. -/
def readCode (table : List Byte) : Nat → Nat → Nat → List Bool → Option (Nat × List Bool)
  | 0, _, _, _ => none
  | _ + 1, _, _, [] => none
  | n + 1, len, code, b :: bs =>
    let code := 2 * code + (if b then 1 else 0)
    match valueOf table (len + 1) code with
    | some v => some (v, bs)
    | none => readCode table n (len + 1) code bs

/-- Read `n` values of a coded plane. -/
def readPlane (table : List Byte) : Nat → List Bool → Option (List Byte)
  | 0, _ => some []
  | n + 1, bits => match readCode table 15 0 0 bits with
    | none => none
    | some (v, rest) => (readPlane table n rest).map (fun vs => BitVec.ofNat 8 v :: vs)

/-- A plane coded with a table (R263), if every byte has a code and the result is shorter than the plane. -/
def codePlane (table plane : List Byte) : Option (List Byte) :=
  if plane.any (fun b => codeLen table b.toNat == 0) then none
  else
    let bits := plane.flatMap (fun b => codeBits (codeLen table b.toNat) (codeOf table b.toNat))
    let n := ceilDiv bits.length 8
    if n < plane.length then some (bytesOfBits bits n) else none

/-! ### Blocks -/

/-- Element bytes w of a Clear tensor's planes (R262). -/
def DType.planeWidth (d : DType) : Nat := match d with
  | .bf16 | .fp16 | .uint16 => 2
  | .fp32 | .int32 | .uint32 => 4
  | _ => 1

/-- Table t of a generation (R264). -/
def Gen.table (g : Gen) (t : Nat) : List Byte := slice g.tables (128 * t) 128

/-- Plane p of a 4 KiB block of w-byte elements. -/
def planeOf (w p : Nat) (data : List Byte) : List Byte :=
  (List.range (4096 / w)).map (fun k => (data[w * k + p]?).getD 0)

/-- A block as it is stored: its tag and its stored bytes. -/
structure Coded where
  tag : Nat
  bytes : List Byte
  deriving DecidableEq, Repr

/-- The 16-byte header of a coded block (R262). -/
def codedHeader (w rawMask : Nat) (lens : List Nat) : List Byte :=
  leBytes (if w = 4 then 2 else if w = 2 then 1 else 0) 1 ++ leBytes rawMask 1 ++ leBytes 0 2 ++
    (List.range 4).flatMap (fun p => leBytes ((lens[p]?).getD 0) 2) ++ leBytes 0 4

/-- A raw block (R263). -/
def Coded.raw (data : List Byte) : Coded := ⟨0, data⟩

/-- Encode one 4 KiB block (R263): `gen` is the CURRENT generation, `plain` a protected range. -/
def clearEncode (gen : Option (Nat × Gen)) (plain : Bool) (w : Nat) (data : List Byte) : Coded :=
  match gen with
  | none => if !plain && data.all (· == 0) then ⟨tagOf 2 0 1, []⟩ else Coded.raw data
  | some (g, tables) =>
    if plain then Coded.raw data
    else if data.all (· == 0) then ⟨tagOf 2 0 1, []⟩
    else
      let planes := (List.range w).map (fun p =>
        let raw := planeOf w p data
        ((codePlane (tables.table (w - 1 + p)) raw), raw))
      let mask := (planes.zipIdx.map (fun x => if x.1.1.isNone then 2 ^ x.2 else 0)).sum
      let body := planes.map (fun x => x.1.getD x.2)
      let all := codedHeader w mask (body.map List.length) ++ body.flatten
      let units := ceilDiv all.length 64
      if 64 ≤ units then Coded.raw data
      else ⟨tagOf 1 g units, all ++ List.replicate (64 * units - all.length) 0⟩

/-- Why a decoder failed (R266, R277): 0 tag, 1 generation not resident, 2 header, 3 code stream. -/
abbrev CodecCause := Nat

/-- The header of a coded block is as R262 states for its width w. -/
def codedHeaderOk (w : Nat) (b : List Byte) : Bool :=
  decide (fieldAt b 0 1 ≤ 2) && decide (fieldAt b 1 1 < 2 ^ w) && fieldAt b 2 2 == 0 && fieldAt b 12 4 == 0 &&
    (List.range 4).all (fun p =>
      let len := fieldAt b (4 + 2 * p) 2
      if w ≤ p then len == 0 else if bitAt (fieldAt b 1 1) p == 1 then len == 4096 / w else decide (len ≤ 4096 / w))

/-- Interleave w planes into a block. -/
def joinPlanes (w : Nat) (planes : List (List Byte)) : List Byte :=
  (List.range 4096).map (fun k => (((planes[k % w]?).getD [])[k / w]?).getD 0)

/-- Decode one coded block with its generation's tables (R262, R266). -/
def codedDecode (g : Gen) (units : Nat) (b : List Byte) : Except CodecCause (List Byte) :=
  let w : Nat := 2 ^ fieldAt b 0 1
  if !codedHeaderOk w b then .error 2
  else
    let lens := (List.range w).map (fun p => fieldAt b (4 + 2 * p) 2)
    if 64 * units < 16 + lens.sum then .error 2
    else
      let planes := (List.range w).map (fun p =>
        let bytes := slice b (16 + (lens.take p).sum) ((lens[p]?).getD 0)
        if bitAt (fieldAt b 1 1) p = 1 then some bytes
        else readPlane (g.table (w - 1 + p)) (4096 / w) (bitsOfBytes bytes))
      if planes.any Option.isNone then .error 3 else .ok (joinPlanes w (planes.map (·.getD [])))

/-- A generation that decodes: CURRENT or RETIRING (R266). -/
def Gen.decodes (g : Gen) : Bool := g.state == .current || g.state == .retiring

/-- Generation `g` of partition `p`. -/
def State.gen (s : State) (p g : Nat) : Gen := ((s.part p).gens[g]?).getD Gen.init

/-- Change a generation. -/
def State.modGen (s : State) (p g : Nat) (f : Gen → Gen) : State :=
  s.modPart p (fun q => { q with gens := q.gens.modify g f })

/-- The CURRENT generation of partition `p`, if one is. -/
def State.currentGen (s : State) (p : Nat) : Option (Nat × Gen) :=
  ((s.part p).gens.zipIdx.find? (fun x => x.1.state == .current)).map (fun x => (x.2, x.1))

/-- Decode the block at a 4 KiB-aligned address of a space (R259, R266). -/
def State.decodeBlock (s : State) (p space a : Nat) : Except CodecCause (List Byte) :=
  let tag := s.tagAt p space a
  if tagBad tag then .error 0
  else if tagMode tag = 0 then .ok (s.readSpace p space a 4096)
  else if tagMode tag = 2 then .ok (List.replicate 4096 0)
  else
    let g := s.gen p (tagGen tag)
    if !g.decodes then .error 1 else codedDecode g (tagUnits tag) (s.readSpace p space a (64 * tagUnits tag))

/-- The address lies in a protected range of the partition (R270, R419). -/
def State.inProtected (s : State) (p space a : Nat) : Bool :=
  (s.protRanges p).any (fun r => (r.1 == 0 && space == 0 || r.1 == 1 && space == 2) && within a 4096 r.2.1 r.2.2)

/-- Store a block's bytes without touching its tag: the write of a Clear encoder. -/
def State.encoderWrite (s : State) (p space a : Nat) (bs : List Byte) : State :=
  match space with
  | 0 => { s with mem := s.mem.writeN (s.hbmBase p + a) bs }
  | 2 => { s with neg := s.neg.writeN (s.negBase p + a) bs }
  | _ => s

/-- Store a coded block and its tag at a 4 KiB-aligned address. -/
def State.putBlock (s : State) (p space a : Nat) (c : Coded) : State :=
  (s.encoderWrite p space a c.bytes).setTag p space a c.tag

/-- The counter that counts a block the encoder wrote (R263). -/
def Coded.counter (c : Coded) (p : Nat) : Nat :=
  if tagMode c.tag = 1 then Ctr.codecClearCodedCount p
  else if tagMode c.tag = 2 then Ctr.codecClearZeroCount p else Ctr.codecClearRawCount p

/-- Write one 4 KiB block through the Clear encoder of its memory (R261, R263, R270). -/
def State.clearWrite (s : State) (p space a w : Nat) (data : List Byte) : State :=
  let c := clearEncode (s.currentGen p) (s.inProtected p space a) w data
  (s.putBlock p space a c).count (c.counter p)

/-! ### Decoder errors (R266) -/

/-- Fitted Negative-store packages (R271). -/
def State.negPackages (s : State) : Nat := max 1 (s.get Reg.memNegStatus_packages)

/-- The codec unit of a block (R435). -/
def State.codecUnit (s : State) (p space a : Nat) : UnitId :=
  if space = 2 then UnitId.codec (64 + (s.negBase p + a) / 4096 % s.negPackages)
  else UnitId.codec ((s.hbmBase p + a) / stackUsable)

/-- A decoder met an error in the block at `a` (R266): `group` is the group of a persistent tensor. -/
def State.codecError (s : State) (p space a : Nat) (cause : CodecCause) (persistent : Bool) (group : Option Nat) : State :=
  let u := s.codecUnit p space a
  let s := if cause = 0 then
      s.raiseFor (some p) Ev.codecTagError u { value := a / 4096, cause := if space = 2 then 2 else 0 }
    else s.raiseFor (some p) Ev.codecStreamError u { value := a / 4096, value2 := cause }
  let s := (s.count (Ctr.codecCodecErrorCount p)).setPair (Reg.codecLastError p) a
  let s := ((s.set (Reg.codecLastErrorInfo_space p) (if space = 2 then 2 else 0)).set
    (Reg.codecLastErrorInfo_cause p) cause).set (Reg.codecLastErrorInfo_valid p) 1
  match persistent, group with
  | true, some g => s.persistentError p g u .task
  | _, _ => s.transientError p u (a / 4096) 2

/-! ### Reference counts (R265) -/

/-- The tag is a coded tag of generation `g`. -/
def namesGen (g tag : Nat) : Bool := tagMode tag == 1 && tagGen tag == g

/-- The own area of a securing plan in space-2 module addresses (R365): section type 8. -/
def State.ownArea (s : State) (pl : Plan) : Nat × Nat :=
  let sealed := (s.get Reg.memNegUsable_usableGib - s.get Reg.memNegSealed_sealedGib) * 2 ^ 30
  let b := pl.section 8
  (sealed + fieldAt b 20 4 * 2 ^ 21, fieldAt b 24 4 * 2 ^ 21)

/-- The reference count of generation `g` of partition `p` (R265): coded tags in its HBM, its allotment and its sealed
copies, which stay when their plan is unloaded; no block waits in a codec queue between commands. -/
def State.genRefs (s : State) (p g : Nat) : Nat :=
  let lo := s.hbmBase p
  let neg := s.negBase p
  let negSize := s.get (Reg.memNegPartSize p) * 2 ^ 30
  let areas := (s.part p).areas
  (s.tags.filter (fun e => namesGen g e.2 && within (e.1 * 4096) 1 lo (s.hbmSize p))).length +
    (s.negTags.filter (fun e => namesGen g e.2 && (within (e.1 * 4096) 1 neg negSize ||
      areas.any (fun r => within (e.1 * 4096) 1 r.1 r.2)))).length

end Sys2Proof.Machine
end

