-- ==== Sys2Proof/Machine/Tasks.lean ====
section
/-! DEFINITION. Which tasks are ready (R113 to R115), the hardware queues (R118 to R121), and the end of a core's share. -/

namespace Sys2Proof.Machine

/-! ### Queues -/

/-- A queue of partition `p` (R117). -/
def State.queueRun (s : State) (p q : Nat) : QueueRun := ((s.part p).queues[q]?).getD ⟨[], 0, false⟩

/-- Change a queue. -/
def State.modQueue (s : State) (p q : Nat) (f : QueueRun → QueueRun) : State :=
  s.modPart p (fun x => { x with queues := x.queues.modify q f })

/-- The queues of a plan when it is admitted: empty, with a free-entry credit for every entry (R115). -/
def Plan.initQueues (pl : Plan) : List QueueRun := pl.queueTable.map (fun e => ⟨[], e.entries, false⟩)

/-- One read of a queue by core `c` (R115, R120): an entry, whose credit goes back if `pays`, or a blank frame, whose stamp
of the read has kind 0x07. -/
def State.readQueue (s : State) (p q c : Nat) (pays : Bool) : Option QueueItem × State :=
  match (s.queueRun p q).items with
  | i :: rest =>
    (some i, { s.modQueue p q (fun x => { x with items := rest }) with
      credits := if pays then s.credits ++ [⟨p, q⟩] else s.credits })
  | [] =>
    let s := (s.issueStamp 7 s.time.now).count (Ctr.coreBlankFrameCount c)
    if (s.queueRun p q).emptyRaised then (none, s)
    else
      (none, (s.modQueue p q (fun x => { x with emptyRaised := true })).raise Ev.queueEmptyRead (UnitId.core c)
        { object := q })

/-- `n` reads of a queue, in order. -/
def State.readQueueN (s : State) (p q c : Nat) (pays : Bool) : Nat → List (Option QueueItem) × State
  | 0 => ([], s)
  | n + 1 =>
    let r := s.readQueue p q c pays
    let rest := State.readQueueN r.2 p q c pays n
    (r.1 :: rest.1, rest.2)

/-- Write an entry into a queue (R118). -/
def State.writeQueue (s : State) (p q : Nat) (i : QueueItem) : State :=
  s.modQueue p q (fun x => { x with items := x.items ++ [i] })

/-! ### Readiness and issue -/

/-- Core `c`'s count of missing predecessors of a task (R114). -/
def Core.missingOf (k : Core) (key : Nat) : Nat := (lookup k.missing key).getD 0

/-- The halo queues in two fields of a stripe task's block (R229, R236): none where no stripes are in use. -/
def Task.halo (t : Task) (off : Nat) : List Nat :=
  if t.op = 0x0005 ∧ t.par 52 2 ≠ 0 then [t.par off 2, t.par (off + 2) 2].filter (· != noQueue) else []

/-- The halo queues a stripe task reads: above, below. -/
def Task.haloIn (t : Task) : List Nat := t.halo 60
/-- The halo queues a stripe task writes: above, below. -/
def Task.haloOut (t : Task) : List Nat := t.halo 64

/-- The queues whose free entries a task needs to start (R113, R236): a replayed task holds those of its halos. -/
def Task.outQueues (t : Task) (replayed : Bool) : List Nat :=
  (if t.queueOut = noQueue then [] else [t.queueOut]) ++ if replayed then [] else t.haloOut

/-- Entries a task writes into a queue. -/
def State.writesOf (s : State) (p q : Nat) : Nat := (((s.planOf p).bind (fun pl => pl.queue q)).map (·.writes)).getD 0

/-- The credits a task needs are present (R113). -/
def State.hasCredits (s : State) (p : Nat) (t : Task) (replayed : Bool) : Bool :=
  (t.outQueues replayed).all (fun q => decide (s.writesOf p q ≤ (s.queueRun p q).credits))

/-- Earlier tasks of the core that are not started wait only for credits (R40). -/
def earlierDone (k : Core) (mine : List (Nat × Nat × Task)) (e : Nat) : Bool :=
  mine.all (fun y => decide (e ≤ y.2.2.exposure) || k.started.contains (taskKey y.1 y.2.1) ||
    k.missingOf (taskKey y.1 y.2.1) == 0)

/-- The tasks core `c` could start but for credits, in the order of R113, replayed tasks first (R140). -/
def State.readyTasks (s : State) (p c : Nat) (pl : Plan) : List (Nat × Nat × Task) :=
  let k := s.core c
  let mine := pl.tasksOn c
  let ready := mine.filter (fun x =>
    let key := taskKey x.1 x.2.1
    !k.started.contains key && k.missingOf key == 0 && decide (x.2.2.exposure ≤ (s.part p).index) &&
      (k.replay.contains key || earlierDone k mine x.2.2.exposure))
  let rank := fun (x : Nat × Nat × Task) =>
    (if k.replay.contains (taskKey x.1 x.2.1) then 0 else 2 ^ 48) + x.2.2.exposure * 2 ^ 24 + taskKey x.1 x.2.1
  sortBy rank ready

/-- Raise an event of core `c` that is raised once in a step. -/
def State.raiseOnce (s : State) (c : Nat) (e : EvKind) (d : Detail) : State :=
  if (s.core c).once.contains e.code then s
  else (s.modCore c (fun k => { k with once := k.once ++ [e.code] })).raise e (UnitId.core c) d

/-- The tasks that core `c` could start now, in order (R113): every condition holds, credits included. -/
def State.startable (s : State) (p c : Nat) (pl : Plan) : List (Nat × Nat × Task) :=
  (s.readyTasks p c pl).filter (fun x => s.hasCredits p x.2.2 ((s.core c).replay.contains (taskKey x.1 x.2.1)))

/-- Note a credit wait of a task at core `c` (R116). -/
def State.noteWait (s : State) (c key queue : Nat) : State :=
  if (s.core c).waiting.contains key then s
  else
    let raised := (s.core c).waitRaised
    let s := s.modCore c (fun k => { k with waiting := k.waiting ++ [key], waitRaised := true })
    let s := s.count (Ctr.coreCreditWaitCount c)
    if raised then s else s.raise Ev.creditWait (UnitId.core c) { object := queue }

/-- The tasks of core `c` that no longer lack a credit cease to wait (R116). -/
def State.endWaits (s : State) (p c : Nat) : State :=
  match s.planOf p with
  | none => s
  | some pl =>
    let still := fun key => ((pl.task (key / 65536) (key % 65536)).map (fun t =>
      !s.hasCredits p t ((s.core c).replay.contains key))).getD false
    s.modCore c (fun k => { k with waiting := k.waiting.filter still })

/-- Ops whose tasks are product tasks that ask the Enlarger for a tiling record (R163). -/
def Task.asksTiling (t : Task) : Bool := t.op == 0x0001 || t.op == 0x0002

/-- Remove the first element equal to `a`. -/
def dropFirst {α : Type} [DecidableEq α] (a : α) : List α → List α
  | [] => []
  | b :: l => if a = b then l else b :: dropFirst a l

/-- TOKEN_RECEIVED (R114): a token that is on its way reaches its core and decrements the successor's count. -/
def doTokenReceived (core graph task : Nat) (s : State) : State :=
  let tok : Token := ⟨core, graph, task⟩
  if !s.tokens.contains tok then s
  else
    let key := taskKey graph task
    { s with tokens := dropFirst tok s.tokens }.modCore core (fun k =>
      { k with missing := insertKey k.missing key (k.missingOf key - 1) })

/-! ### The end of a share -/

/-- Core `c` still has an unfinished task of an earlier exposure (R40). -/
def State.behind (s : State) (p c : Nat) : Bool := match s.planOf p with
  | none => false
  | some pl => (pl.tasksOn c).any (fun x =>
      decide (x.2.2.exposure < (s.part p).index) && !(s.run p x.1 x.2.1).finished.contains c)

/-- Core `c` has finished its share of task (g, t): `hits` hit elements, and whether an input was non-finite at load
(R114, R135, R136, R141, R143); long-sum mode ends (R131), and its update requests have left the Developers' queues. -/
def State.endShare (s : State) (p c g t : Nat) (task : Task) (hits : Nat) (bad : Bool) : State :=
  let rung := s.effRung task
  let before := (s.run p g t).hits
  let s := s.modRun p g t (fun r =>
    { r with
      finished := r.finished ++ [c], hits := r.hits + hits
      hitAtTop := r.hitAtTop || (decide (0 < hits) && rung == 3), badInput := r.badInput || bad })
  let s := (s.modCore c (fun k => { k with running := none, asked := false })).count (Ctr.coreTasksDoneCount c)
  let s := s.leaveDevelopers c
  let s := (s.set (Reg.coreStatus_state c) (if s.behind p c then 2 else 0)).set (Reg.coreStatus_longSum c) 0
  let s := if hits = 0 then s else s.count Ctr.numHitElementCount hits
  if hits = 0 ∨ task.layered then s
  else
    let s := s.count Ctr.numUnlayeredHitCount hits
    if before = 0 then s.raise Ev.numericHitUnlayered (UnitId.core c) { object := t, value := g } else s

/-- The task a core runs: its partition, plan, graph, graph number, task index and record. -/
structure Running where
  p : Nat
  plan : Plan
  graph : Graph
  g : Nat
  t : Nat
  task : Task
  deriving DecidableEq, Repr

/-- The tensor index in slot `k`. -/
def Task.slotIndex (t : Task) (k : Nat) : Nat := (t.tensors[k]?).getD noTensor

/-- Slot `k` of the task names a tensor. -/
def Task.hasSlot (t : Task) (k : Nat) : Bool := t.slotIndex k != noTensor

/-- The mode of a dispatch or combine task. -/
def Task.mode (t : Task) : Nat := t.par 0 1

/-! ### What a task reads and writes -/

/-- Tensor indices that an op's parameter block names as inputs. -/
def Task.extraReads (t : Task) : List Nat := match t.op with
  | 0x0002 => if t.par 0 1 = 2 then (List.range (t.par 24 1 - 1)).flatMap (fun i => [t.par (80 + 16 * i) 4, t.par (84 + 16 * i) 4]) else []
  | 0x0003 => [t.par 20 4]
  | 0x0004 => [t.par 20 4, t.par 24 4, t.par 40 4, t.par 44 4]
  | 0x000A => if t.mode ≥ 0x80 then [t.par 12 4] else []
  | 0x000B => [t.par 12 4]
  | 0x0010 => [t.par 24 4]
  | _ => []

/-- Tensor indices that an op's parameter block names as outputs. -/
def Task.extraWrites (t : Task) : List Nat := match t.op with
  | 0x0003 => [t.par 24 4]
  | 0x0004 => [t.par 48 4, t.par 52 4, t.par 56 4]
  | 0x000A => (if t.mode ≥ 0x80 then [] else [t.par 12 4]) ++ [t.par 16 4]
  | 0x000B => [t.par 16 4]
  | 0x0010 => [t.par 28 4, t.par 32 4, t.par 36 4, t.par 40 4]
  | _ => []

/-- Tensor indices that the task reads: slots 0 to 2, but slot 2 of an argmax, and the table that a scatter-add adds to; a
slot that an operation leaves unused counts where it names a tensor (R249). -/
def Task.readSet (t : Task) : List Nat :=
  ((if t.op = 0x0007 then [t.slotIndex 0, t.slotIndex 1] else [t.slotIndex 0, t.slotIndex 1, t.slotIndex 2]) ++
    (if t.op = 0x0009 ∧ t.par 0 1 = 3 then [t.slotIndex 3] else []) ++ t.extraReads).filter (· != noTensor)

/-- Tensor indices that the task writes. -/
def Task.writeSet (t : Task) : List Nat :=
  ([t.slotIndex 3] ++ (if t.op = 0x0007 then [t.slotIndex 2] else []) ++ t.extraWrites).filter (· != noTensor)

/-- The running task uses a tensor with an extent of 0 below its rank: it completes at once (R91). -/
def Running.usesEmpty (r : Running) : Bool :=
  (r.task.readSet ++ r.task.writeSet).any (fun i => ((r.graph.tensor i).map Tensor.empty).getD false)

/-- What core `c` runs now: a task of the admitted plan, or of a withdrawn one that drains (R26). No two loaded plans
share a graph number (R92). -/
def State.runningOn (s : State) (c : Nat) : Option Running :=
  match (s.core c).running with
  | none => none
  | some (g, t) =>
    let p := s.corePart c
    (s.plans.find? (fun pl => pl.partition == p && (pl.graph g).isSome)).bind (fun pl => (pl.graph g).bind (fun gr =>
      (gr.tasks[t]?).map (fun task => ⟨p, pl, gr, g, t, task⟩)))

/-- What a core runs as task `x` of a plan. -/
def Plan.runningOf (pl : Plan) (p : Nat) (x : Nat × Nat × Task) : Option Running :=
  (pl.graph x.1).map (fun gr => ⟨p, pl, gr, x.1, x.2.1, x.2.2⟩)

/-- The running task belongs to the partition's plan, and not to one that drains after its withdrawal. -/
def State.isCurrent (s : State) (r : Running) : Bool := (s.part r.p).plan == some r.plan.planId

/-- A task that writes nothing keeps the credits of the entries it does not write (R162; DEDUCED, log entry 64). -/
def State.keepCredits (s : State) (r : Running) : State :=
  if r.task.queueOut = noQueue ∨ !s.isCurrent r then s
  else s.modQueue r.p r.task.queueOut (fun y => { y with credits := y.credits + s.writesOf r.p r.task.queueOut })

/-- End the share of a running task without output (R107): it counts nothing and finds no hit. -/
def State.endEmpty (s : State) (c : Nat) (r : Running) : State := s.endShare r.p c r.g r.t r.task 0 false

end Sys2Proof.Machine
end

