-- ==== Sys2Proof/Machine/Operands.lean ====
section
/-! DEFINITION. How a core reads and writes tensor elements: runs of dimension 0 at byte places of a tensor, through the
Clear and Grain decoders (R258, R260), with the non-finite test at load (R136) and the output conversions (R126); the
output stage's overflow test (R135); queue reads and writes of a task (R115, R120); and the draws of a generator
(R150). -/

namespace Sys2Proof.Machine

/-! ### Places of elements -/

/-- `n` consecutive dimension-0 elements of a tensor, from bit `off` of its raw layout. -/
structure Run where
  off : Nat
  n : Nat
  deriving DecidableEq, Repr

/-- The coordinates of the element at bit `off` of the raw layout: each outer stride in turn, then dimension 0. -/
def Tensor.coordsAt (t : Tensor) (off : Nat) : List Nat :=
  let r := (List.range (t.rank - 1)).foldr (fun k (acc : List Nat × Nat) =>
    let st := t.strideBytes (k + 1)
    if st = 0 then (0 :: acc.1, acc.2) else (acc.2 / st :: acc.1, acc.2 % st)) ([], off / 8)
  (r.2 * 8 + off % 8) / t.type.bits :: r.1

/-- The runs of a whole tensor: its rows. -/
def Tensor.rowRuns (t : Tensor) : List Run :=
  (List.range t.rows).map (fun i => ⟨t.bitOffset (t.coords (i * t.dim 0)), t.dim 0⟩)

/-- The stored byte at offset `o` of a tensor's raw layout, decoded from its Clear block; lost data read as a free
value (R266; log entry 4). -/
def State.storedByte (s : State) (p : Nat) (t : Tensor) (o : Nat) : Byte :=
  let a := t.base + o
  if t.clear then match s.decodeBlock p t.space (a / 4096 * 4096) with
    | .ok bs => (bs[a % 4096]?).getD 0
    | .error _ => Config.free 8 (s.freeCtr + o)
  else ((s.readSpace p t.space a 1)[0]?).getD 0

/-- The bits of the element at bit `off`. -/
def State.elemBits (s : State) (p : Nat) (t : Tensor) (off : Nat) : Nat :=
  let w := t.type.bits
  let n := (off % 8 + w + 7) / 8
  bitsAt (leNat ((List.range n).map (fun i => s.storedByte p t (off / 8 + i)))) (off % 8) w

/-- Element (u, v) of a Grain block as stored; `none` in a block of x = 0xFF. -/
def State.grainElem (s : State) (p : Nat) (t : Tensor) (c : List Nat) : Option Fp :=
  let size := grainBlockBytes t.elemBytes t.grainRate
  let n := grainBits t.elemBytes t.grainRate
  (grainDecode n (s.readSpace p t.space (t.grainAddress (t.grainIndex c)) size)).map (fun vs =>
    (vs[((c)[0]?).getD 0 % 8 + 8 * (((c)[1]?).getD 0 % 8)]?).getD Fp.zero)

/-- The value of the element at bit `off` of a tensor, as it enters a unit. -/
def State.elemAt (s : State) (p : Nat) (t : Tensor) (off : Nat) : Fp :=
  if t.grain then grainValue t.type (s.grainElem p t (t.coordsAt off))
  else
    let v := t.type.decodeElem (s.elemBits p t off)
    if t.type.isMx then applyScale (s.storedByte p t (t.scaleOffsetOf (t.coordsAt off))).toNat v else v

/-- The value of the element at these coordinates. -/
def State.elem (s : State) (p : Nat) (t : Tensor) (c : List Nat) : Fp := s.elemAt p t (t.bitOffset c)

/-- The element at these coordinates of an integer tensor as a whole number. -/
def State.elemInt (s : State) (p : Nat) (t : Tensor) (c : List Nat) : Int :=
  match s.elem p t c with
  | .fin n m e => let k : Int := (m * 2 ^ e.toNat : Nat); if n then -k else k
  | _ => 0

/-- The values of a run. -/
def State.runValues (s : State) (p : Nat) (t : Tensor) (r : Run) : List Fp :=
  (List.range r.n).map (fun i => s.elemAt p t (r.off + i * t.type.bits))

/-! ### Loading -/

/-- An operand of a task: its tensor index and its tensor. -/
structure Operand where
  idx : Nat
  t : Tensor
  deriving DecidableEq, Repr

/-- The operand of tensor index `i` of the running task's graph. -/
def Running.operand (r : Running) (i : Nat) : Option Operand :=
  if i = noTensor then none else (r.graph.tensor i).map (fun t => ⟨i, t⟩)

/-- The operand in slot `k` (0..3) of the running task (R89). -/
def Running.slot (r : Running) (k : Nat) : Option Operand := r.operand ((r.task.tensors[k]?).getD noTensor)

/-- The Grain segments that runs touch (R258: a read of any part of a block reads the whole block). -/
def Tensor.segmentsOf (t : Tensor) (runs : List Run) : List Nat :=
  (runs.flatMap (fun r => (List.range r.n).map (fun i =>
    t.grainIndex (t.coordsAt (r.off + i * t.type.bits)) / grainSpb t.elemBytes))).eraseDups

/-- The 4 KiB blocks, by address, that runs of a Clear tensor touch, scales included. -/
def Tensor.blocksOf (t : Tensor) (runs : List Run) : List Nat :=
  (runs.flatMap (fun r => (List.range r.n).flatMap (fun i =>
    let off := r.off + i * t.type.bits
    let last := (off + t.type.bits - 1) / 8
    let here := [(t.base + off / 8) / 4096 * 4096, (t.base + last) / 4096 * 4096]
    if t.type.isMx then here ++ [(t.base + t.scaleOffsetOf (t.coordsAt off)) / 4096 * 4096] else here))).eraseDups

/-- The decoder errors of a read of these blocks (R266). -/
def State.readErrors (s : State) (r : Running) (o : Operand) (blocks : List Nat) : State :=
  blocks.foldl (fun s a => match s.decodeBlock r.p o.t.space a with
    | .ok _ => s
    | .error cause => s.codecError r.p o.t.space a cause o.t.persistent (r.plan.groupOf r.g o.idx)) s

/-- A core reads runs of an operand: Grain segments are counted, decoder errors raised (R258, R266). -/
def State.load (s : State) (r : Running) (o : Operand) (runs : List Run) : State :=
  if o.t.grain then s.count (Ctr.codecGrainReadCount r.p) (o.t.segmentsOf runs).length
  else if o.t.clear then s.readErrors r o (o.t.blocksOf runs) else s

/-- Some element of the runs is already NaN or infinite at load (R136); a Grain block of x = 0xFF counts (R258). -/
def State.badAtLoad (s : State) (p : Nat) (t : Tensor) (runs : List Run) : Bool :=
  runs.any (fun r => (List.range r.n).any (fun i =>
    let off := r.off + i * t.type.bits
    if t.grain then ((s.grainElem p t (t.coordsAt off)).map (fun v => !v.finite)).getD true
    else !(s.elemAt p t off).finite))

/-- Load several operands: the state after, and whether any held a non-finite element. -/
def State.loadAll (s : State) (r : Running) (reads : List (Operand × List Run)) : State × Bool :=
  (reads.foldl (fun s x => s.load r x.1 x.2) s, reads.any (fun x => s.badAtLoad r.p x.1.t x.2))

/-! ### Storing -/

/-- Values for a run: FP32 values, converted to the tensor's type as they are written. -/
structure Piece where
  off : Nat
  vals : List Fp
  deriving DecidableEq, Repr

/-- The run of a piece. -/
def Piece.run (x : Piece) : Run := ⟨x.off, x.vals.length⟩

/-- Write element bits at bit `off` of the raw layout. -/
def State.putBits (s : State) (p : Nat) (t : Tensor) (off : Nat) (codes : List Nat) : State :=
  let w := t.type.bits
  let a := t.base + off / 8
  let n := (off % 8 + w * codes.length + 7) / 8
  let old := leNat (s.readSpace p t.space a n)
  let v := codes.foldr (fun c acc => c % 2 ^ w + 2 ^ w * acc) 0
  let f : Fld := ⟨0, off % 8, w * codes.length⟩
  s.writeSpace p t.space a (leBytes (f.put old v) n)

/-- Write the part of a piece that lies in block `b` of 32 elements of its row, with the block's scale (R126). -/
def State.putMxBlock (s : State) (p : Nat) (t : Tensor) (x : Piece) (c0 b : Nat) : State :=
  let lo := max c0 (32 * b)
  let vs := (x.vals.drop (lo - c0)).take (32 * b + 32 - lo)
  let off := x.off + (lo - c0) * t.type.bits
  let s := s.putBits p t off (t.type.encodeBlock vs)
  s.writeSpace p t.space (t.base + t.scaleOffsetOf (t.coordsAt off)) [BitVec.ofNat 8 (t.type.scaleByte vs)]

/-- Write a piece of a raw tensor. -/
def State.putPiece (s : State) (p : Nat) (t : Tensor) (x : Piece) : State :=
  if x.vals.isEmpty then s
  else if t.type.isMx then
    let c0 := ((t.coordsAt x.off)[0]?).getD 0
    let first := c0 / 32
    let last := (c0 + x.vals.length - 1) / 32
    (List.range (last + 1 - first)).foldl (fun s k => s.putMxBlock p t x c0 (first + k)) s
  else s.putBits p t x.off (x.vals.map t.type.encodeElem)

/-- The value that pieces give the element at bit `off`, if one covers it. -/
def pieceValue (w : Nat) (xs : List Piece) (off : Nat) : Option Fp :=
  xs.findSome? (fun x => if x.off ≤ off ∧ off < x.off + w * x.vals.length then x.vals[(off - x.off) / w]? else none)

/-- Encode and write Grain block β with the pieces' values, converted to the tensor's type first (R257, R258; log
entry 18); elements no piece covers keep their decoded values. -/
def State.putGrainBlock (s : State) (p : Nat) (t : Tensor) (xs : List Piece) (b : Nat) : State :=
  let size := grainBlockBytes t.elemBytes t.grainRate
  let n := grainBits t.elemBytes t.grainRate
  let vals := (List.range 64).map (fun i =>
    let c := t.grainCoords b (i % 8) (i / 8)
    match pieceValue t.type.bits xs (t.bitOffset c) with
    | some v => t.type.decodeElem (t.type.encodeElem v)
    | none => grainValue t.type (s.grainElem p t c))
  s.writeSpace p t.space (t.grainAddress b) ((grainEncode n vals).bytes n size)

/-- The Grain blocks that pieces touch. -/
def Tensor.grainBlocksOf (t : Tensor) (xs : List Piece) : List Nat :=
  (xs.flatMap (fun x => (List.range x.vals.length).map (fun i =>
    t.grainIndex (t.coordsAt (x.off + i * t.type.bits))))).eraseDups

/-- A core writes pieces of an output tensor: raw, or through its Grain encoder (R258). -/
def State.store (s : State) (p : Nat) (t : Tensor) (xs : List Piece) : State :=
  if t.grain then
    let bs := t.grainBlocksOf xs
    (bs.foldl (fun s b => s.putGrainBlock p t xs b) s).count (Ctr.codecGrainWrittenCount p)
      ((bs.map (· / grainSpb t.elemBytes)).eraseDups).length
  else xs.foldl (fun s x => s.putPiece p t x) s

/-! ### The output stage -/

/-- A piece of an output, with the elements that a saturated operand makes hits (R135). -/
abbrev Marked := Piece × List Bool

/-- Hit elements among FP32 values written as type `d` (R135): non-finite, or beyond the threshold. -/
def valueHits (d : DType) (vs : List Fp) : List Bool := vs.map (fun v => !v.finite || d.saturates v)

/-- Hits of a piece of an output tensor (R135): `extra` marks elements that an operand's saturation makes hits; a block
whose computed scale exceeds 2^127 is all hits. -/
def Tensor.pieceHits (t : Tensor) (x : Piece) (extra : List Bool) : Nat :=
  let c0 := ((t.coordsAt x.off)[0]?).getD 0
  let above := fun (i : Nat) =>
    if !t.type.isMx then false
    else
      let b := (c0 + i) / 32
      let lo := max c0 (32 * b) - c0
      t.type.scaleOverflow ((x.vals.drop lo).take (32 * b + 32 - c0 - lo))
  let base := valueHits t.type x.vals
  ((List.range x.vals.length).filter (fun i =>
    (base[i]?).getD false || (extra[i]?).getD false || above i)).length

/-- The part of a piece in each block of 32 elements of its row, with the bit offset of the block's first element. -/
def Tensor.mxParts (t : Tensor) (x : Marked) : List (Nat × Marked) :=
  let w := t.type.bits
  let c0 := ((t.coordsAt x.1.off)[0]?).getD 0
  let first := c0 / 32
  if x.1.vals.isEmpty then []
  else (List.range ((c0 + x.1.vals.length - 1) / 32 + 1 - first)).map (fun k =>
    let b := 32 * (first + k)
    let lo := max c0 b
    let cut := fun {α : Type} (l : List α) => (l.drop (lo - c0)).take (b + 32 - lo)
    (x.1.off + w * b - w * c0, ⟨x.1.off + (lo - c0) * w, cut x.1.vals⟩, cut x.2))

/-- What a core has stored of a share: the runs that now stand, and the hits found in them. -/
structure Stored where
  runs : List Run
  hits : Nat
  deriving DecidableEq, Repr

/-- Both. -/
def Stored.join (a b : Stored) : Stored := ⟨a.runs ++ b.runs, a.hits + b.hits⟩

/-- Store the part of a share in one block of an MX output (R126, R164): a whole block is converted, tested and written; a
part of a block that other shares complete waits for them, for the block has one scale. -/
def State.putMxPart (s : State) (r : Running) (t : Tensor) (x : Nat × Marked) : State × Stored :=
  let w := t.type.bits
  let parts := x.2.1.vals.zipIdx.map (fun v => (x.2.1.off + w * v.2, v.1.bits32, (x.2.2[v.2]?).getD false)) ++
    (s.run r.p r.g r.t).parts
  let places := (List.range 32).map (fun i => x.1 + w * i)
  let block := places.filterMap (lookup parts)
  if block.length = 32 then
    let whole : Piece := ⟨x.1, block.map (fun y => Fp.of32 y.1)⟩
    ((s.putPiece r.p t whole).modRun r.p r.g r.t (fun y => { y with
      parts := y.parts.filter (fun z => !places.contains z.1) }), ⟨[whole.run], t.pieceHits whole (block.map (·.2))⟩)
  else (s.modRun r.p r.g r.t (fun y => { y with parts := parts }), ⟨[], 0⟩)

/-- A core tests and stores its share of an output (R133, R135): the runs that now stand stored, and the hits. -/
def State.storeShare (s : State) (r : Running) (t : Tensor) (xs : List Marked) : State × Stored :=
  if t.type.isMx then (xs.flatMap t.mxParts).foldl (fun acc x =>
    let y := acc.1.putMxPart r t x
    (y.1, acc.2.join y.2)) (s, ⟨[], 0⟩)
  else (s.store r.p t (xs.map (·.1)), ⟨xs.map (·.1.run), (xs.map (fun x => t.pieceHits x.1 x.2)).sum⟩)

/-- At an output stage that writes a gradient of the task's layer, record the largest magnitude of the true gradient
(R147): the largest value now stored in these runs of the output, divided by 2^e; where nothing was written, none. -/
def State.recordGrad (s : State) (r : Running) (t : Tensor) (runs : List Run) : State :=
  if r.task.layered && !runs.isEmpty then
    s.recordAmax r.task.layer ((blockMax (runs.flatMap (s.runValues r.p t))).scale2 (-(s.gradScale r.task.layer)))
  else s

/-- The exponent by which a task multiplies a gradient that it reads with source layer `src` (R146). -/
def State.gradShift (s : State) (t : Task) (src : Nat) : Int :=
  (if t.layered then s.gradScale t.layer else 0) - s.gradScale src

/-! ### Queues of a task -/

/-- The frames a task reads through queue_in (R115, R120): whether each of its reads_per_task frames is present. -/
def State.takeFrames (s : State) (c : Nat) (r : Running) : List (Option QueueItem) × State :=
  if r.task.queueIn = noQueue ∨ !s.isCurrent r then ([], s)
  else
    let n := ((r.plan.queue r.task.queueIn).map (·.reads)).getD 0
    s.readQueueN r.p r.task.queueIn c true n

/-- Row `i` of `rows` is absent: the frame that covers it was blank (R121). Frame j covers the j-th of equal contiguous
parts of the rows (log entry 19). -/
def rowAbsent (frames : List (Option QueueItem)) (rows i : Nat) : Bool :=
  if frames.isEmpty then false
  else ((frames[i / max 1 (ceilDiv rows frames.length)]?).getD none).isNone

/-- The bytes of a queue entry whose content the manual does not give (log entry 4). -/
def freeBytes (key n : Nat) : List Byte := (List.range n).map (fun i => Config.free 8 (key + i))

/-- A task writes its writes_per_task entries into its queue_out; what they hold the manual does not say for an op other
than those that define it (log entry 4). -/
def State.writeFrames (s : State) (r : Running) : State :=
  if r.task.queueOut = noQueue ∨ !s.isCurrent r then s
  else match r.plan.queue r.task.queueOut with
    | none => s
    | some q => (List.range q.writes).foldl (fun s _ =>
        (s.writeQueue r.p r.task.queueOut ⟨freeBytes s.freeCtr q.entryBytes, q.entryBytes⟩).useFree q.entryBytes) s

/-- A core ends its share: the queue entries are written, then the share counts as finished (R114). -/
def State.endTask (s : State) (c : Nat) (r : Running) (hits : Nat) (bad : Bool) : State :=
  (s.writeFrames r).endShare r.p c r.g r.t r.task hits bad

/-- The number of the first sum of a running task wherever the task forms them again in its step (R225, R286). -/
def State.heldKey (s : State) (r : Running) : Nat :=
  Config.heldOrder [r.p, (s.part r.p).startExposure, taskKey r.g r.t]

/-- The index of core `c` in the running task's set (R89). -/
def Running.coreIndex (r : Running) (c : Nat) : Nat := c - r.task.coreFirst

/-- The contiguous part of `q` units that the i-th of n cores takes: first unit and count (R251, R444). -/
def shareOf (q n i : Nat) : Nat × Nat :=
  let w := ceilDiv q n
  let lo := min q (w * i)
  (lo, min q (w * (i + 1)) - lo)

/-! ### Draws (R150) -/

/-- Draw `k` of a unit in a step: 16 bits of the generator's evaluation number k / 8, lowest bits first. How the parts of
the key lie in its 128 bits the manual does not say: here the seed is lowest, then 32 bits of the step number, the position
and the unit number (DESIGN CHOICE, log entry 64). -/
def State.draw (s : State) (step unit k : Nat) : Nat :=
  let key : Nat := s.pair Reg.numSeed % 2 ^ 64 + 2 ^ 64 * (step % 2 ^ 32) + 2 ^ 96 * (s.position % 2 ^ 20) +
    2 ^ 116 * (unit % 2 ^ 12)
  bitsAt (Config.generatorBlock (BitVec.ofNat 128 key) (BitVec.ofNat 64 (k / 8))).toNat (16 * (k % 8)) 16

end Sys2Proof.Machine
end

