-- ==== Sys2Proof/Machine/Requests.lean ====
section
/-! DEFINITION. Descriptors whose action waits for a step boundary (R192, R267, R349): requesting, becoming due, and
finding the next due one; and the checks of descriptors that report their first failing check. -/

namespace Sys2Proof.Machine

/-- The oldest started descriptor of a ring with this opcode whose effect has not begun and that satisfies `f`. -/
def State.findDesc (s : State) (n op : Nat) (f : Started → Bool) : Option Started :=
  (s.ring n).started.find? (fun d => d.opcode == op && !d.begun && f d)

/-- A started descriptor by its number. -/
def State.descOf (s : State) (n seq : Nat) : Option Started := (s.ring n).started.find? (fun d => d.seq == seq)

/-- A descriptor's action waits for its moment. -/
def State.request (s : State) (p : Nat) (k : RequestKind) (n : Nat) (d : Started) : State :=
  (s.beginDesc n d).modPart p (fun q => { q with requests := q.requests ++ [⟨k, n, d.seq, false⟩] })

/-- At a step boundary every waiting action of the partition becomes due. -/
def State.requestsDue (s : State) (p : Nat) : State :=
  s.modPart p (fun q => { q with requests := q.requests.map (fun r => { r with due := true }) })

/-- The next action of this kind to take effect, in the order the descriptors started: due at its boundary, or at once
outside RUNNING and HELD. -/
def State.nextRequest (s : State) (p : Nat) (k : RequestKind) : Option (Request × Started) :=
  match (s.part p).requests.find? (fun r => r.kind == k && (r.due || !s.inStep p)) with
  | none => none
  | some r => (s.descOf r.ring r.seq).map (fun d => (r, d))

/-- Take a request off the list. -/
def State.dropRequest (s : State) (p : Nat) (r : Request) : State :=
  s.modPart p (fun q => { q with requests := q.requests.filter (fun x => !(x.ring == r.ring && x.seq == r.seq)) })

/-- The numbers, from 1, of the checks that fail. -/
def failing (checks : List Bool) : List Nat := (checks.zipIdx.filter (fun x => !x.1)).map (fun x => x.2 + 1)

/-- The detail of a REFUSED completion: the first failing check and their count (R195, R267, R333, R349). -/
def refusedDetail (fails : List Nat) : Nat := fails.headD 0 + 2 ^ 16 * fails.length

end Sys2Proof.Machine
end

