-- ==== Sys2Proof/Machine/Tiling.lean ====
section
/-! DEFINITION. Products and their tilings: the parameter blocks of ops 0x0001 and 0x0002 (R104, R153 to R155), operand
formats of a rung (R128), array forms (R100, R103), the reference tiling (R168 to R170), tile legality (R108), and the
Enlarger with its shape cache (R163 to R171). -/

namespace Sys2Proof.Machine

/-! ### Parameter blocks -/

/-- One use of a product: its streaming and stationary matrices as tensor indices with the transposed reads of R153,
their loop strides, which of them is a gradient, the reduction length, and the layer whose scale the gradient
carries. -/
structure Use where
  stream : Nat
  streamT : Bool
  streamGrad : Bool
  strideS : List Nat
  stat : Nat
  statT : Bool
  statGrad : Bool
  strideT : List Nat
  k : Nat
  srcLayer : Nat
  deriving DecidableEq, Repr

/-- A product C of M rows and N columns (R104, R153): its uses, the array form asked for, the output type, the loops with
the strides of C, the accumulation mode, and the addend with the layer whose scale it carries. -/
structure Product where
  backward : Bool
  M : Nat
  N : Nat
  uses : List Use
  form : Nat
  out : Nat
  counts : List Nat
  strideC : List Nat
  longSum : Bool
  addend : Bool
  addendLayer : Nat
  deriving DecidableEq, Repr

/-- Three 4-byte values of a parameter block, cut at the loops in use. -/
def Task.par3 (t : Task) (off loops : Nat) : List Nat :=
  (List.range (min loops 3)).map (fun i => t.par (off + 4 * i) 4)

/-- The product of an op 0x0001 task (R104). -/
def Task.product1 (t : Task) : Product :=
  let loops := t.par 15 1
  let fl := t.par 13 1
  ⟨false, t.par 0 4, t.par 4 4,
   [⟨(t.tensors[0]?).getD noTensor, bitAt fl 0 == 1, false, t.par3 28 loops,
     (t.tensors[1]?).getD noTensor, bitAt fl 1 == 1, false, t.par3 40 loops, t.par 8 4, noLayer⟩],
   t.par 12 1, t.par 14 1, t.par3 16 loops, t.par3 52 loops, bitAt fl 3 == 1, bitAt fl 2 == 1, noLayer⟩

/-- A contribution of product 2 (R153): incoming gradient, activation, its flag, tie, rows and source layer. -/
def wgradUse (grad act : Nat) (actT tie : Bool) (sg sx : List Nat) (m layer : Nat) : Use :=
  if tie then ⟨grad, true, true, sg, act, actT, false, sx, m, layer⟩
  else ⟨act, !actT, false, sx, grad, false, true, sg, m, layer⟩

/-- The product of an op 0x0002 task (R153 to R155). -/
def Task.product2 (t : Task) : Product :=
  let loops := t.par 25 1
  let fl := t.par 2 1
  let sg := t.par3 40 loops
  let sx := t.par3 52 loops
  let s0 := (t.tensors[0]?).getD noTensor
  let s1 := (t.tensors[1]?).getD noTensor
  let data := t.par 0 1 == 1
  let first := if data then ⟨s0, false, true, sg, s1, bitAt fl 1 == 0, false, sx, t.par 8 4, t.par 16 2⟩
    else wgradUse s0 s1 (bitAt fl 0 == 1) (bitAt (t.par 26 1) 0 == 1) sg sx (t.par 4 4) (t.par 16 2)
  let more := (List.range (t.par 24 1 - 1)).map (fun i =>
    let o := 80 + 16 * i
    wgradUse (t.par o 4) (t.par (o + 4) 4) (bitAt (t.par (o + 14) 1) 1 == 1) (bitAt (t.par (o + 14) 1) 0 == 1) sg sx
      (t.par (o + 8) 4) (t.par (o + 12) 2))
  ⟨true, if data then t.par 4 4 else t.par 12 4, if data then t.par 12 4 else t.par 8 4,
   if data then [first] else first :: more,
   t.par 1 1, t.par 3 1, t.par3 28 loops, t.par3 64 loops, bitAt fl 3 == 1, bitAt fl 2 == 1, t.par 18 2⟩

/-- The product of a product task. -/
def Task.product (t : Task) : Product := if t.op = 0x0001 then t.product1 else t.product2

/-- Iterations of the loops in use. -/
def Product.iterations (q : Product) : Nat := q.counts.foldl (· * ·) 1

/-- The reduction length of R131 and R157. -/
def Product.lRed (q : Product) : Nat :=
  (q.uses.map (·.k)).sum * ((q.counts.zip q.strideC).map (fun x => if x.2 = 0 then x.1 else 1)).foldl (· * ·) 1

/-- Some extent or loop count is 0, or a tensor of the task is empty: the task completes at once (R107). -/
def Product.atOnce (q : Product) (ts : List Tensor) : Bool :=
  q.M == 0 || q.N == 0 || q.uses.any (fun u => u.k == 0) || q.counts.any (· == 0) || ts.any Tensor.empty

/-! ### Formats and forms -/

/-- The operand format of a rung (R128). -/
def rungFormat (rung : Nat) (stored : DType) (grad : Bool) : DType :=
  match rung with
  | 0 => if grad then .e5m2 else .mxfp4
  | 1 => if stored.isMx then .mxfp8 else if grad then .e5m2 else .e4m3
  | 2 => if stored = .fp16 then .fp16 else .bf16
  | _ => .fp32

/-- κ and ρ of a pair of operand formats (R100). -/
def kappaRho (a b : DType) : Nat × Nat :=
  let wide := fun d => d == DType.bf16 || d == DType.fp16
  if wide a || wide b then (1, 2) else if a == .mxfp4 && b == .mxfp4 then (2, 1) else (1, 1)

/-- Rows and columns of an array form (R103). -/
def formSize (form : Nat) : Nat × Nat := match form with
  | 2 => (64, 256) | 3 => (32, 512) | 4 => (16, 1024) | _ => (128, 128)

/-- Element bytes of R108 in 1/32 byte: the E8M0 scale of an MX type counts 1/32. -/
def DType.bytes32 (d : DType) : Nat := d.bits * 4 + if d.isMx then 1 else 0

/-- Stored bytes per element, in 1/32 byte, of a type at Grain rate `rate`, 0 for none (R31, R166). -/
def DType.stored32 (d : DType) (rate : Nat) : Nat :=
  if rate = 0 then d.bytes32 else 32 * (d.bits / 8) * grainSegment (d.bits / 8) rate / 4096

/-- One use as a tiling sees it: reduction length, transposed reads, operand formats and stored bytes (in 1/32 byte). -/
structure UseShape where
  k : Nat
  tA : Bool
  tB : Bool
  fA : DType
  fB : DType
  sA : Nat
  sB : Nat
  deriving DecidableEq, Repr

/-- A product as a tiling sees it (R168). -/
structure Shape where
  M : Nat
  N : Nat
  uses : List UseShape
  form : Nat
  longSum : Bool
  cores : Nat
  loops : Nat
  deriving DecidableEq, Repr

/-- lcm. -/
def lcm (a b : Nat) : Nat := if a = 0 ∨ b = 0 then 0 else a * b / Nat.gcd a b

/-- q of R168 for a use in a form of R rows. -/
def UseShape.q (u : UseShape) (R : Nat) : Nat :=
  let k := (kappaRho u.fA u.fB).1
  if u.fA.isMx || u.fB.isMx then lcm (k * R) 32 else k * R

/-- The transposed product that runs when N = 1 (R107, R168). -/
def Shape.turned (h : Shape) : Shape :=
  if h.N = 1 then
    { h with
      M := h.N, N := h.M
      uses := h.uses.map (fun u => ⟨u.k, u.tB, u.tA, u.fB, u.fA, u.sB, u.sA⟩) }
  else h

/-- The form a shape runs in (R107, R168): 16 × 1,024 when M = 1 or N = 1. -/
def Shape.formOf (h : Shape) : Nat := if h.M = 1 ∨ h.N = 1 then 4 else if h.form = 0 then 1 else h.form

/-- Accumulator entries (R108). -/
def Shape.acc (h : Shape) : Nat := if h.longSum then 524288 else 262144

/-- Array cycles of one tile (R102). -/
def tileCycles (form : Nat) (u : UseShape) (m n k : Nat) : Nat :=
  let R := (formSize form).1
  let W := (formSize form).2
  let kr := kappaRho u.fA u.fB
  ceilDiv k (kr.1 * R) * ceilDiv n W * max (kr.2 * m) R + R + W

/-! ### The reference tiling (R168) -/

/-- k_t of a use: the fewest equal parts of K_u whose tile fits the double buffer of `space` bytes. -/
def UseShape.kTile (u : UseShape) (R mT nT space : Nat) (tr : Bool) : Nat :=
  let q := u.q R
  let cut := fun j =>
    let k := min u.k (ceilDiv (ceilDiv u.k j) q * q)
    if tr then min k 128 else k
  let n := ceilDiv u.k q
  let fits := fun k => decide (2 * (mT * k * u.fA.bytes32 + k * nT * u.fB.bytes32) ≤ 32 * space)
  (((List.range n).map (fun i => cut (i + 1))).find? fits).getD (cut n)

/-- One candidate of the reference: grid, tile, k_t per use and cycles. -/
structure Cut where
  gM : Nat
  gN : Nat
  mC : Nat
  nC : Nat
  mT : Nat
  nT : Nat
  kTs : List Nat
  cycles : Nat
  deriving DecidableEq, Repr

/-- The tiling of one grid under R168, for a shape already turned. -/
def Shape.cutOf (h : Shape) (gM gN : Nat) : Cut :=
  let form := h.formOf
  let R := (formSize form).1
  let W := (formSize form).2
  let tA := h.uses.any (·.tA)
  let tB := h.uses.any (·.tB)
  let mC := ceilDiv h.M gM
  let nC := ceilDiv h.N gN
  let m0 := min mC (if tA then 128 else 512)
  let n0 := min nC (max W (W * (h.acc / (m0 * W))))
  let nT := if tB then min n0 128 else n0
  let mT := min m0 (h.acc / nT)
  let kTs := h.uses.map (fun u => u.kTile R mT nT (3 * 2 ^ 20) (tA || tB))
  let cyc := ((h.uses.zip kTs).map (fun x =>
    let kr := kappaRho x.1.fA x.1.fB
    let tiles := ceilDiv mC mT * ceilDiv nC nT * ceilDiv x.1.k x.2
    tiles * (ceilDiv x.2 (x.1.q R) * ceilDiv nT W * max (kr.2 * mT) R + R + W))).sum
  ⟨gM, gN, mC, nC, mT, nT, kTs, cyc⟩

/-- The better of two candidates (R168): fewer cycles; ties to the larger grid, then the larger g_n. -/
def Cut.better (a b : Cut) : Bool :=
  decide (a.cycles < b.cycles) || (a.cycles == b.cycles &&
    (decide (b.gM * b.gN < a.gM * a.gN) || (a.gM * a.gN == b.gM * b.gN && decide (b.gN < a.gN))))

/-- Every grid (g_m, g_n) of at most `cores` cells within M and N. -/
def grids (cores M N : Nat) : List (Nat × Nat) :=
  (List.range cores).flatMap (fun a => ((List.range cores).map (fun b => (a + 1, b + 1))).filter (fun g =>
    decide (g.1 * g.2 ≤ cores ∧ g.1 ≤ M ∧ g.2 ≤ N)))

/-- The reference cut of a shape already turned (R168). -/
def Shape.reference (h : Shape) : Cut :=
  ((grids h.cores h.M h.N).map (fun g => h.cutOf g.1 g.2)).foldl (fun (best : Option Cut) c =>
    match best with
    | none => some c
    | some b => some (if c.better b then c else b)) none |>.getD ⟨1, 1, h.M, h.N, 1, 1, [], 0⟩

/-- Operands that pass the reflex buffer, counted once for each use (R159). -/
def Shape.transposes (h : Shape) : Nat :=
  (h.uses.map (fun u => (if u.tA then 1 else 0) + (if u.tB then 1 else 0))).sum

/-- Nothing to do (R168). -/
def Shape.zero (h : Shape) : Bool := h.M == 0 || h.N == 0 || h.uses.any (fun u => u.k == 0) || h.loops == 0

/-- reference_cycles of R168. -/
def Shape.referenceCycles (h0 : Shape) : Nat :=
  let h := h0.turned
  if h.zero then 0 else h.loops * h.reference.cycles + 128 * h.transposes

/-- HBM bytes of a core's share for one cut and loop order (R169; N-outer mirrors M-outer, log entry 21): `e` is the
bytes of the output type, `staging` the share S of R170. -/
def Shape.bytesOf (h : Shape) (mC nC mT nT order e staging : Nat) (addend : Bool) : Nat :=
  let a := (h.uses.map (fun u => ceilDiv (mC * u.k * u.sA) 32)).sum
  let b := (h.uses.map (fun u => ceilDiv (u.k * nC * u.sB) 32)).sum
  let c := mC * nC * e
  let aPanel := (h.uses.map (fun u => ceilDiv (mT * u.k * u.sA) 32)).sum
  let bPanel := (h.uses.map (fun u => ceilDiv (u.k * nT * u.sB) 32)).sum
  let add := if addend then c else 0
  let rB := if aPanel + b ≤ staging then 1 else ceilDiv mC mT
  let rA := if aPanel ≤ staging then 1 else ceilDiv nC nT
  let rA' := if bPanel + a ≤ staging then 1 else ceilDiv nC nT
  let rB' := if bPanel ≤ staging then 1 else ceilDiv mC mT
  h.loops * (if order = 0 then a + b + c + add
    else if order = 1 then rA * a + rB * b + c + add
    else rA' * a + rB' * b + c + add)

/-- The loop order of the reference (R169): K-outer when the output share fits the accumulator memory. -/
def Shape.referenceOrder (h : Shape) (c : Cut) : Nat := if c.mC * c.nC ≤ h.acc then 0 else 1

/-- The reference HBM bytes of a share (R169). -/
def Shape.referenceBytes (h0 : Shape) (e staging : Nat) (addend : Bool) : Nat :=
  let h := h0.turned
  if h.zero then 0
  else
    let c := h.reference
    h.bytesOf c.mC c.nC c.mT c.nT (h.referenceOrder c) e staging addend

/-- The reference tiling as a record (R164). -/
def Shape.referenceTiling (h0 : Shape) : Tiling :=
  let h := h0.turned
  let c := h.reference
  ⟨h.formOf, h.referenceOrder c, c.gM, c.gN, c.mT, c.nT, c.kTs.foldl max 0, false, true⟩

/-! ### Legality (R108) -/

/-- A tile of one use is legal (R108). -/
def UseShape.legal (u : UseShape) (acc tileSpace m n k : Nat) : Bool :=
  decide (m * n ≤ acc) && decide (2 * (m * k * u.fA.bytes32 + k * n * u.fB.bytes32) ≤ 32 * tileSpace) &&
    (!u.tA || decide (m * k ≤ 16384 ∧ m ≤ 128 ∧ k ≤ 128)) && (!u.tB || decide (k * n ≤ 16384 ∧ k ≤ 128 ∧ n ≤ 128)) &&
    (!(u.fA.isMx || u.fB.isMx) || k % 32 == 0)

/-- The parts that a length is cut into: whole tiles and the rest. -/
def partsOf (len tile : Nat) : List Nat :=
  if tile = 0 then [] else List.replicate (len / tile) tile ++ (if len % tile = 0 then [] else [len % tile])

/-- The k tile a record gives a use: the reference keeps one per use, any other record caps it at K_u. -/
def Shape.kTileOf (h : Shape) (tl : Tiling) (u : UseShape) : Nat :=
  let tr := h.uses.any (fun u => u.tA || u.tB)
  if tl.reference then u.kTile (formSize tl.form).1 tl.mT tl.nT (3 * 2 ^ 20) tr else min u.k tl.kT

/-- Array cycles of a record for a full share, as the reference counts them. -/
def Shape.cyclesOf (h : Shape) (tl : Tiling) : Nat :=
  let mC := ceilDiv h.M tl.gM
  let nC := ceilDiv h.N tl.gN
  h.loops * (h.uses.map (fun u =>
    let k := h.kTileOf tl u
    ceilDiv mC tl.mT * ceilDiv nC tl.nT * ceilDiv u.k k * tileCycles tl.form u tl.mT tl.nT k)).sum + 128 * h.transposes

/-! ### The Enlarger -/

/-- O_t of core `c` in bytes, as CORE_TILESPACE reports it (R99): the whole store where no plan is admitted. -/
def State.tileSpace (s : State) (c : Nat) : Nat :=
  if s.admitted (s.corePart c) then ((s.planOf (s.corePart c)).map (fun pl => pl.tileSpace c)).getD (2 ^ 22) else 2 ^ 22

/-- Bytes of the tensors of space 1 that lie on compute die `d` under R91. -/
def State.stagingTensorBytes (s : State) (p d : Nat) (pl : Plan) : Nat :=
  let k := d - s.firstDie p
  ((pl.graphs.flatMap (·.tensors)).filter (fun t => t.space == 1)).map (fun t =>
    min (t.base + t.stored) ((k + 1) * stagingDie) - max t.base (k * stagingDie)) |>.sum

/-- Bytes of the queue regions of place 2 on compute die `d`. -/
def State.stagingQueueBytes (s : State) (d : Nat) (pl : Plan) : Nat :=
  ((pl.queueTable.filter (fun q => q.place == 2 && s.fitted.dieOf q.consumer == d)).map (fun q =>
    q.entries * q.entryBytes)).sum

/-- The staging share S of a core of die `d` under a plan (R170). -/
def State.stagingShare (s : State) (p d : Nat) (pl : Plan) : Nat :=
  (stagingDie - s.stagingTensorBytes p d pl - s.stagingQueueBytes d pl) / s.fitted.coresPerDie / 64 * 64

/-- The stored type of tensor `i` of the running task's graph. -/
def Graph.typeOf (g : Graph) (i : Nat) : DType := ((g.tensor i).map Tensor.type).getD .uint8

/-- The stored type of tensor `i` in a shape key (R166): its dtype, and above it the rate of a Grain tensor, whose stored
bytes differ (DEDUCED, log entry 21). -/
def Graph.storedCode (g : Graph) (i : Nat) : Nat :=
  ((g.tensor i).map (fun t => t.dtype + if t.grain then 256 * t.grainRate else 0)).getD 0

/-- The key of the running product task (R166). -/
def State.shapeKey (s : State) (c : Nat) (r : Running) : ShapeKey :=
  let t := r.task
  let q := t.product
  let code := r.graph.storedCode
  { op := t.op, product := if t.op = 0x0001 then 0 else t.par 0 1, form := q.form
    flags := if t.op = 0x0001 then t.par 13 1 else t.par 2 1
    rung := s.effRung t, types := q.uses.map (fun u => (code u.stream, code u.stat)), outType := q.out
    m := q.M, n := q.N, k := (q.uses.map (·.k)).sum
    uses := q.uses.map (fun u => (u.k, (if u.streamT then 1 else 0) + (if u.statT then 2 else 0) +
      (if u.streamGrad then 4 else 0) + (if u.statGrad then 8 else 0)))
    counts := q.counts, summed := q.strideC.map (· == 0), cores := t.coreCount
    tileSpace := r.plan.tileSpace c, staging := s.stagingShare r.p (s.fitted.dieOf c) r.plan }

/-- The shape that a key stands for. -/
def ShapeKey.shape (k : ShapeKey) : Shape :=
  ⟨k.m, k.n,
   (k.uses.zip k.types).map (fun x =>
     let f := x.1.2
     let a := (DType.ofCode (x.2.1 % 256)).getD .uint8
     let b := (DType.ofCode (x.2.2 % 256)).getD .uint8
     ⟨x.1.1, bitAt f 0 == 1, bitAt f 1 == 1, rungFormat k.rung a (bitAt f 2 == 1), rungFormat k.rung b (bitAt f 3 == 1),
      a.stored32 (x.2.1 / 256), b.stored32 (x.2.2 / 256)⟩),
   k.form, bitAt k.flags 3 == 1, k.cores, k.counts.foldl (· * ·) 1⟩

/-- The numbers of a key, for the hash of its set. -/
def ShapeKey.numbers (k : ShapeKey) : List Nat :=
  [k.op, k.product, k.form, k.flags, k.rung, k.outType, k.m, k.n, k.k, k.cores, k.tileSpace, k.staging] ++
    k.types.flatMap (fun x => [x.1, x.2]) ++ k.uses.flatMap (fun x => [x.1, x.2]) ++ k.counts ++
    k.summed.map (fun b => if b then 1 else 0)

/-- The numbers of a record. -/
def tilingNumbers (t : Tiling) : List Nat :=
  [t.form, t.order, t.gM, t.gN, t.mT, t.nT, t.kT, if t.folded then 1 else 0]

/-- The set of a key: 1,024 sets of four ways (R166, R167). -/
def ShapeKey.set (k : ShapeKey) : Nat := Config.shapeSet k.numbers % 1024

/-- The shape cache of die `d`, most recently used first. -/
def State.cache (s : State) (d : Nat) : List ShapeEntry := (s.shapes[d]?).getD []

/-- The cached tiling of a key on die `d`. -/
def State.cached (s : State) (d : Nat) (k : ShapeKey) : Option Tiling :=
  ((s.cache d).find? (fun e => e.key == k)).map (·.tiling)

/-- Move a key's entry to the front of its die's cache: least recently used replacement (R166). -/
def State.touchShape (s : State) (d : Nat) (k : ShapeKey) : State :=
  { s with shapes := s.shapes.modify d (fun l => l.filter (fun e => e.key == k) ++ l.filter (fun e => e.key != k)) }

/-- Enter a tiling: the least recently used entry of a full set leaves (R166). -/
def State.enterShape (s : State) (d : Nat) (e : ShapeEntry) : State :=
  { s with shapes := s.shapes.modify d (fun l =>
      let rest := l.filter (fun x => x.key != e.key)
      let same := rest.filter (fun x => x.key.set == e.key.set)
      if same.length < 4 then e :: rest
      else match same.getLast? with
        | some old => e :: rest.filter (fun x => x.key != old.key)
        | none => e :: rest) }

/-- The control core that serves core `c` (R163): 2 × die + 0 for the first half of the die's cores. -/
def State.controlOf (s : State) (c : Nat) : Nat :=
  let d := s.fitted.dieOf c
  2 * d + if c % s.fitted.coresPerDie < ceilDiv s.fitted.coresPerDie 2 then 0 else 1

/-- A weight-gradient product whose group is frozen in the group table is skipped (R162). -/
def Running.frozenSkip (r : Running) : Bool :=
  r.task.op == 0x0002 && r.task.par 0 1 == 2 &&
    (((r.plan.groups)[r.task.par 20 4]?).map GroupEntry.frozen).getD false

/-- The tensors of a product task. -/
def Running.productTensors (r : Running) : List Tensor :=
  let q := r.task.product
  let idx := q.uses.flatMap (fun u => [u.stream, u.stat]) ++ (if q.addend then [(r.task.tensors[2]?).getD noTensor] else []) ++
    [(r.task.tensors[3]?).getD noTensor]
  idx.filterMap (fun i => if i = noTensor then none else r.graph.tensor i)

/-- A product task asks for a tiling record (R163): it does not complete at once (R107) and does not skip its product (R162);
at rung 3 too, where the grid is that of R129 (log entry 22). -/
def Running.needsRecord (r : Running) : Bool :=
  r.task.asksTiling && !r.frozenSkip && !r.task.product.atOnce r.productTensors

/-- The registers show the running task's record (R172). -/
def State.showRecord (s : State) (c : Nat) (tl : Tiling) : State :=
  let b := fun (x : Bool) => if x then 1 else 0
  let s := ((s.set (Reg.coreEnlTiling_form c) tl.form).set (Reg.coreEnlTiling_order c) tl.order).set
    (Reg.coreEnlTiling_reference c) (b tl.reference)
  let s := ((s.set (Reg.coreEnlTiling_gM c) tl.gM).set (Reg.coreEnlTiling_gN c) tl.gN).set
    (Reg.coreEnlTiling_folded c) (b tl.folded)
  ((s.set (Reg.coreEnlTileM c) tl.mT).set (Reg.coreEnlTileN c) tl.nT).set (Reg.coreEnlTileK c) tl.kT

/-- A tiling record reaches core `c` (R163, R164, R172): for its running task, or early and kept until its task starts. -/
def State.giveRecord (s : State) (c : Nat) (early : Option (Nat × Nat)) (tl : Tiling) : State :=
  let s := match early with
    | none => (s.modCore c (fun k => { k with tiling := some tl, asked := false })).showRecord c tl
    | some (key, rung) => s.modCore c (fun k => { k with early := k.early.filter (fun (x : Nat × Nat × Tiling) => x.1 != key) ++ [(key, rung, tl)] })
  s.count (Ctr.coreTilingsCount c)

/-- A record later than 2 µs (R171). -/
def State.lateRecord (s : State) (c task delayNs : Nat) : State :=
  if delayNs ≤ 2000 then s
  else
    let raised := (s.core c).lateRaised
    let s := (s.modCore c (fun k => { k with lateRaised := true })).count (Ctr.coreTilingLateCount c)
    if raised then s else s.raise Ev.tilingLate (UnitId.core c) { object := task, value := delayNs - 2000 }

/-- The task whose record core `c` requests (R163): the running product task that waits for it; or, while another task
runs, the ready task it would start next, if no record of it at its effective rung has arrived early. The mark is the
key and rung of an early request. -/
def State.tilingRequest (s : State) (c : Nat) : Option (Running × Option (Nat × Nat)) :=
  match s.runningOn c with
  | none => none
  | some r =>
    if (s.core c).asked && r.needsRecord then some (r, none)
    else if !s.isCurrent r || !s.inStep r.p then none
    else
      let next := (s.startable r.p c r.plan).head?.bind (fun x => r.plan.runningOf r.p x)
      next.bind (fun n =>
        let mark := (taskKey n.g n.t, s.effRung n.task)
        if n.needsRecord && !(s.core c).early.any (fun x => (x.1, x.2.1) == mark) then some (n, some mark) else none)

/-- TILING_RECORD (R163, R166, R167): the record comes from the shape cache, or is the reference tiling on a miss, which
records the shape for a search. -/
def doTilingRecord (core delayNs : Nat) (s : State) : State :=
  match s.tilingRequest core with
  | none => s
  | some (r, early) =>
    let d := s.fitted.dieOf core
    let k := s.shapeKey core r
    let s := s.lateRecord core r.t delayNs
    match s.cached d k with
    | some tl => ((s.touchShape d k).giveRecord core early tl).count (Ctr.coreCacheHitCount core)
    | none =>
      let s := { s with searches := s.searches.modify (s.controlOf core) (fun l => if l.contains k then l else l ++ [k]) }
      (s.giveRecord core early k.shape.referenceTiling).count (Ctr.coreReferenceUsedCount core)

/-- Staging-SRAM bytes that a core may move for a shape (R165): 8.0 TB/s divided by the active cores of the die, times the
reference array time at the floor clock of `floor` × 100 MHz; in units of 1 / (cores × floor) byte. -/
def ShapeKey.stagingBound (k : ShapeKey) : Nat := 80000 * k.shape.referenceCycles

/-- The form of a record is one that the block allows (R103, R107): 16 × 1,024 when M or N is 1, otherwise the form its
field names, or any where it leaves the choice to the Enlarger. -/
def ShapeKey.formOk (k : ShapeKey) (form : Nat) : Bool :=
  if k.m = 1 ∨ k.n = 1 then form == 4 else decide (1 ≤ form ∧ form ≤ 4) && (k.form == 0 || form == k.form)

/-- A search result meets R165: its form, loop order and grid fit, every tile is legal, and neither its cycles nor its HBM
bytes exceed those of the reference, nor its staging bytes, which the manual leaves to the firmware (log entry 21), the
bound of a core of a die of `cores` cores at a clock of `floor` × 100 MHz. -/
def ShapeKey.accepts (k : ShapeKey) (cores floor : Nat) (tl : Tiling) : Bool :=
  let h := k.shape.turned
  let e := ((DType.ofCode k.outType).getD .uint8).bits / 8
  let mC := ceilDiv h.M tl.gM
  let nC := ceilDiv h.N tl.gN
  k.formOk tl.form && decide (tl.order ≤ 2) && (tl.order != 0 || decide (mC * nC ≤ h.acc)) &&
    decide (0 < tl.gM ∧ 0 < tl.gN ∧ tl.gM * tl.gN ≤ k.cores ∧ 0 < tl.mT ∧ 0 < tl.nT ∧ 0 < tl.kT) &&
    h.uses.all (fun u =>
      (partsOf mC tl.mT).all (fun m => (partsOf nC tl.nT).all (fun n =>
        (partsOf u.k (min u.k tl.kT)).all (fun kk => u.legal h.acc k.tileSpace m n kk)))) &&
    decide (h.cyclesOf { tl with reference := false } ≤ k.shape.referenceCycles) &&
    decide (h.bytesOf mC nC tl.mT tl.nT tl.order e k.staging (bitAt k.flags 2 == 1) ≤
      k.shape.referenceBytes e k.staging (bitAt k.flags 2 == 1)) &&
    decide (Config.stagingMoved (k.numbers ++ tilingNumbers tl) * cores * floor ≤ k.stagingBound)

/-- SHAPE_SEARCH_DONE (R167): the search of the oldest recorded shape of the core's control core completes while none of
its cores waits for a record; its result enters the die's cache if it meets R165. -/
def doShapeSearchDone (core : Nat) (tiling : Tiling) (s : State) : State :=
  let cc := s.controlOf core
  let waits := (List.range s.fitted.ccc).any (fun c => s.controlOf c == cc && (s.core c).asked &&
    ((s.runningOn c).map Running.needsRecord).getD false)
  match (s.searches[cc]?).getD [] with
  | [] => s
  | k :: rest =>
    if waits || s.fitted.ccc ≤ core then s
    else
      let s := { s with searches := s.searches.set cc rest }
      let ref := k.shape.referenceTiling
      if { tiling with reference := true } = ref then s.enterShape (s.fitted.dieOf core) ⟨k, ref⟩
      else if k.accepts s.fitted.coresPerDie (s.get (Reg.tickClockFloor_floor100mhz (s.corePart core))) tiling then s.enterShape (s.fitted.dieOf core) ⟨k, { tiling with reference := false }⟩
      else s

end Sys2Proof.Machine
end

