-- ==== Sys2Proof/Machine/Products.lean ====
section
/-! DEFINITION. Products on a core (R104 to R109, R128 to R131, R153 to R162): the share of a core, operands in the
rung's format, column sums and accumulation, the output stage, and products that complete at once. -/

namespace Sys2Proof.Machine

/-! ### Matrices and loops -/

/-- A matrix read from a tensor: the byte offset of its iteration, and whether it is read transposed (R105, R106). -/
structure Mat where
  t : Tensor
  off : Nat
  tr : Bool
  deriving DecidableEq, Repr

/-- Bit offset of element (i, j). -/
def Mat.bit (v : Mat) (i j : Nat) : Nat :=
  let row := if v.tr then j else i
  let col := if v.tr then i else j
  8 * (v.off + row * v.t.strideBytes 1) + col * v.t.type.bits

/-- The runs of a block of rows and columns, each as first index and count. -/
def Mat.runs (v : Mat) (rows cols : Nat × Nat) : List Run :=
  if v.tr then (List.range cols.2).map (fun j => ⟨v.bit rows.1 (cols.1 + j), rows.2⟩)
  else (List.range rows.2).map (fun i => ⟨v.bit (rows.1 + i) cols.1, cols.2⟩)

/-- Element (i, j) as it enters a unit. -/
def State.matElem (s : State) (p : Nat) (v : Mat) (i j : Nat) : Fp := s.elemAt p v.t (v.bit i j)

/-- All index tuples of loops with these counts, level 0 first and innermost. -/
def loopIndices : List Nat → List (List Nat)
  | [] => [[]]
  | n :: rest => (loopIndices rest).flatMap (fun r => (List.range n).map (fun i => i :: r))

/-- Byte offset of an iteration (R106). -/
def iterOffset (idx strides : List Nat) : Nat := ((idx.zip strides).map (fun x => x.1 * x.2 * 16)).sum

/-- The iterations that each write C, with the summed levels at 0 (R106). -/
def Product.outIters (q : Product) : List (List Nat) :=
  loopIndices ((q.counts.zip q.strideC).map (fun x => if x.2 = 0 then 1 else x.1))

/-- The iterations summed into one writing of C (R106). -/
def Product.sumIters (q : Product) : List (List Nat) :=
  loopIndices ((q.counts.zip q.strideC).map (fun x => if x.2 = 0 then x.1 else 1))

/-- Combine an output iteration and a summed one. -/
def joinIters (a b : List Nat) : List Nat := (a.zip b).map (fun x => x.1 + x.2)

/-! ### Operands in the rung's format -/

/-- Cut a list into pieces of `n`. -/
def chunksOf {α : Type} (n : Nat) (l : List α) : List (List α) :=
  (List.range (ceilDiv l.length n)).map (fun k => (l.drop (n * k)).take n)

/-- The widening of one MX type into another is exact (R126, R128). -/
def mxWidens (stored target : DType) : Bool := stored.isMx && (target == .mxfp8 || stored == target)

/-- A block converted to an MX format and read back (R126). -/
def DType.throughBlock (d : DType) (vs : List Fp) : List Fp :=
  let sc := d.scaleByte vs
  (d.encodeBlock vs).map (fun b => applyScale sc (d.decodeElem b))

/-- A row or column along the reduction in the rung's operand format (R128): blocks of an MX format are 32 consecutive
elements along the reduction (log entry 23). DESIGN CHOICE (log entry 68): a stored MX value beyond the FP32 range widens to
an infinity. -/
def toRung (stored target : DType) (vs : List Fp) : List Fp :=
  if target = .fp32 then vs.map Fp.to32
  else if target.isMx then
    if mxWidens stored target then vs else (chunksOf 32 vs).flatMap target.throughBlock
  else vs.map (fun v => target.decodeElem (target.encodeElem v))

/-- Some element saturated on that conversion (R135). -/
def rungSaturates (stored target : DType) (vs : List Fp) : Bool :=
  if target.isMx then !mxWidens stored target && (chunksOf 32 vs).any target.scaleOverflow
  else stored != target && vs.any target.saturates

/-! ### Sums -/

/-- A product beyond the FP32 range is an infinity of its sign (R130). -/
def Fp.capped : Fp → Fp
  | .fin n m e => if Fmt.fp32.exceeds m e then .inf n else .fin n m e
  | v => v

/-- The column sum of one pass (R130): rounded at each addition, from the top array row down; with two elements per cell
the manual does not place them, and the order is open. DESIGN CHOICE (log entry 68): each product of a cell is added to the
arriving sum in turn. -/
def columnSum (key kappa : Nat) (a b : List Fp) : Fp :=
  let terms := (a.zip b).map (fun x => (x.1.mulX x.2).capped)
  if kappa = 1 then terms.foldl Fp.add Fp.zero else Fp.sumFrom key Fp.zero terms

/-- The passes of a reduction of length `k`: k tiles of `kT`, each cut into passes of κR elements (R100, R102). -/
def passes (k kT kr : Nat) : List (Nat × Nat) :=
  let starts := (partsOf k kT).foldl (fun (acc : List (Nat × Nat) × Nat) n => (acc.1 ++ [(acc.2, n)], acc.2 + n)) ([], 0)
  starts.1.flatMap (fun x =>
    ((partsOf x.2 kr).foldl (fun (acc : List (Nat × Nat) × Nat) n => (acc.1 ++ [(acc.2, n)], acc.2 + n)) ([], x.1)).1)

/-- One contribution to an output element: the streaming row and the stationary column in the rung's format, κ, its
passes, and the exponent its column sums are scaled by (R161). -/
structure Contribution where
  row : List Fp
  col : List Fp
  kappa : Nat
  passes : List (Nat × Nat)
  scale : Int
  deriving DecidableEq, Repr

/-- The column sums of a contribution as they enter the accumulator memory. -/
def Contribution.sums (x : Contribution) (key : Nat) : List Fp :=
  x.passes.zipIdx.map (fun y =>
    (columnSum (key + y.2) x.kappa ((x.row.drop y.1.1).take y.1.2) ((x.col.drop y.1.1).take y.1.2)).scaled x.scale)

/-- Accumulate column sums into an entry (R130, R131): FP32, or BF16 with one stochastic rounding per addition. -/
def accumulate (key : Nat) (long : Bool) (draw : Nat → Nat) (init : Fp) (terms : List Fp) : Fp :=
  if long then
    ((ordered key terms).zipIdx).foldl (fun acc x => srBf16 (acc.add x.1) (draw x.2))
      (Fmt.bf16.decode (Fmt.bf16.convert init))
  else (ordered key terms).foldl Fp.add init

/-- A product element on the vector unit at rung 3 (R129): FP32 fused multiply-adds in an open order. DESIGN CHOICE (log entry
68): the factor 2^(e_l − e_i) of R161 is applied to the streaming element inside each of them. -/
def vectorElement (key : Nat) (init : Fp) (xs : List Contribution) : Fp :=
  let terms := xs.flatMap (fun x => (x.row.zip x.col).map (fun y => (y.1.scale2 x.scale, y.2)))
  (ordered key terms).foldl (fun acc y => Fp.fma y.1 y.2 acc) init

/-! ### A core's share -/

/-- Rows and columns of C that a core computes, each as first index and count. -/
structure Share where
  rows : Nat × Nat
  cols : Nat × Nat
  deriving DecidableEq, Repr

/-- Part `i` of `g` equal parts of `n` (R164). -/
def partOf (n g i : Nat) : Nat × Nat := shareOf n g i

/-- The share of the i-th core on a grid (R164), the grid being of the turned product when N = 1 (R168). -/
def gridShare (M N gM gN i : Nat) (turned : Bool) : Option Share :=
  if gM * gN ≤ i then none
  else if turned then some ⟨partOf M gN (i % gN), partOf N gM (i / gN)⟩
  else some ⟨partOf M gM (i / gN), partOf N gN (i % gN)⟩

/-- The grid of a product at rung 3 (R129): least share, ties to the larger grid and then the larger g_n. -/
def vectorGrid (cores M N : Nat) : Nat × Nat :=
  (grids cores M N).foldl (fun b g =>
    let sz := fun (x : Nat × Nat) => ceilDiv M x.1 * ceilDiv N x.2
    if sz g < sz b ∨ (sz g = sz b ∧ (b.1 * b.2 < g.1 * g.2 ∨ (b.1 * b.2 = g.1 * g.2 ∧ b.2 < g.2))) then g else b) (1, 1)

/-- The scale exponent of a use's column sums (R161): e_l - e_i for a backward product. -/
def State.useScale (s : State) (t : Task) (q : Product) (u : Use) : Int :=
  if q.backward then s.gradShift t u.srcLayer else 0

/-- The scale exponent of the addend (R161). -/
def State.addendScale (s : State) (t : Task) (q : Product) : Int :=
  if q.backward && q.addend then s.gradShift t q.addendLayer else 0

/-- The streaming matrix of a use at an iteration. -/
def Use.streamMat (u : Use) (g : Graph) (it : List Nat) : Option Mat :=
  (g.tensor u.stream).map (fun t => ⟨t, iterOffset it u.strideS, u.streamT⟩)

/-- The stationary matrix of a use at an iteration. -/
def Use.statMat (u : Use) (g : Graph) (it : List Nat) : Option Mat :=
  (g.tensor u.stat).map (fun t => ⟨t, iterOffset it u.strideT, u.statT⟩)

/-- What a product task computes with: rung, passes' row count, the k tile of each use, and its share. -/
structure ProductRun where
  q : Product
  rung : Nat
  rowsR : Nat
  kTile : Use → Nat
  share : Share

/-- A row (or column) of a use along the reduction, in the rung's format, with whether it saturated. -/
def State.rungVector (s : State) (p rung : Nat) (v : Mat) (grad : Bool) (k : Nat) (at_ : Nat → Nat × Nat) : List Fp × Bool :=
  let d := v.t.type
  let target := rungFormat rung d grad
  let raw := (List.range k).map (fun kk => s.matElem p v (at_ kk).1 (at_ kk).2)
  (toRung d target raw, rungSaturates d target raw)

/-- κ of a use at a rung (R100). -/
def Running.kappaOf (r : Running) (rung : Nat) (u : Use) : Nat :=
  (kappaRho (rungFormat rung (r.graph.typeOf u.stream) u.streamGrad) (rungFormat rung (r.graph.typeOf u.stat) u.statGrad)).1

/-- The contributions of one use at one iteration to element (i, j), with whether an operand saturated. -/
def State.contribution (s : State) (r : Running) (x : ProductRun) (u : Use) (it : List Nat) (i j : Nat) :
    Option (Contribution × Bool) :=
  match u.streamMat r.graph it, u.statMat r.graph it with
  | some a, some b =>
    let row := s.rungVector r.p x.rung a u.streamGrad u.k (fun k => (i, k))
    let col := s.rungVector r.p x.rung b u.statGrad u.k (fun k => (k, j))
    let kappa := r.kappaOf x.rung u
    some (⟨row.1, col.1, kappa, passes u.k (x.kTile u) (kappa * x.rowsR), s.useScale r.task x.q u⟩, row.2 || col.2)
  | _, _ => none

/-- Every contribution to element (i, j) of an output iteration. -/
def State.contributions (s : State) (r : Running) (x : ProductRun) (io : List Nat) (i j : Nat) : List (Contribution × Bool) :=
  x.q.sumIters.flatMap (fun is_ => x.q.uses.filterMap (fun u => s.contribution r x u (joinIters io is_) i j))

/-- The initial value of an entry: the fused addend in FP32, scaled under R161, or 0. -/
def State.initial (s : State) (r : Running) (x : ProductRun) (io : List Nat) (i j : Nat) : Fp :=
  if !x.q.addend then Fp.zero
  else match r.slot 2 with
    | some o => (s.matElem r.p ⟨o.t, iterOffset io x.q.strideC, false⟩ i j).to32.scaled (s.addendScale r.task x.q)
    | none => Fp.zero

/-- Column sums that enter each accumulator entry of this product: the draws of an element in long-sum mode (R131). -/
def ProductRun.terms (x : ProductRun) (r : Running) : Nat :=
  x.q.sumIters.length *
    (x.q.uses.map (fun u => (passes u.k (x.kTile u) (r.kappaOf x.rung u * x.rowsR)).length)).sum

/-- Output element (i, j) of an iteration in FP32 before the output conversion, with whether an operand that
contributed saturated. `e` numbers the element within the share. -/
def State.productElement (s : State) (c : Nat) (r : Running) (x : ProductRun) (io : List Nat) (i j e : Nat) : Fp × Bool :=
  let xs := s.contributions r x io i j
  let init := s.initial r x io i j
  let per := x.terms r
  let key := s.freeCtr + e * (per + 1)
  let sat := xs.any (·.2)
  if x.rung = 3 then (vectorElement key init (xs.map (·.1)), sat)
  else
    let terms := (xs.foldl (fun (acc : List Fp × Nat) y => (acc.1 ++ y.1.sums acc.2, acc.2 + y.1.passes.length)) ([], key + 1)).1
    let base := (s.core c).genCounter + e * per
    (accumulate key x.q.longSum (fun k => s.draw (s.part r.p).step c (base + k)) init terms, sat)

/-- One output row of a share as a piece of C, with its marks of saturated operands; `e0` numbers its first element. -/
def State.productRow (s : State) (c : Nat) (r : Running) (x : ProductRun) (out : Tensor) (io : List Nat) (i e0 : Nat) :
    Piece × List Bool :=
  let cs := x.share.cols
  let els := (List.range cs.2).map (fun k => s.productElement c r x io i (cs.1 + k) (e0 + k))
  (⟨(⟨out, iterOffset io x.q.strideC, false⟩ : Mat).bit i cs.1, els.map (·.1)⟩, els.map (·.2))

/-- The rows of a share that no blank frame makes absent (R121). DESIGN CHOICE (log entry 68): those of op 0x0002 too, which
R121 does not name. -/
def ProductRun.present (x : ProductRun) (frames : List (Option QueueItem)) : List Nat :=
  ((List.range x.share.rows.2).map (· + x.share.rows.1)).filter (fun i => !rowAbsent frames x.q.M i)

/-- Every output row of a share, `rows` being those present. -/
def State.productRows (s : State) (c : Nat) (r : Running) (x : ProductRun) (out : Tensor) (rows : List Nat) :
    List (Piece × List Bool) :=
  x.q.outIters.zipIdx.flatMap (fun io => rows.zipIdx.map (fun i =>
    s.productRow c r x out io.1 i.1 ((io.2 * rows.length + i.2) * x.share.cols.2)))

/-- Rising numbers as ranges of first and count. -/
def rangesOf (l : List Nat) : List (Nat × Nat) :=
  l.foldr (fun i acc => match acc with
    | (j, n) :: rest => if i + 1 = j then (i, n + 1) :: rest else (i, 1) :: acc
    | [] => [(i, 1)]) []

/-- What a share reads (R121, R258): the operand rows and columns and the addend's block of the rows present, over every
iteration; nothing where every row is absent. -/
def Running.productReads (r : Running) (x : ProductRun) (rows : List Nat) : List (Operand × List Run) :=
  let its := if rows.isEmpty then [] else loopIndices x.q.counts
  let ops := x.q.uses.flatMap (fun u =>
    let a := (its.filterMap (fun it => u.streamMat r.graph it)).flatMap (fun v =>
      (rangesOf rows).flatMap (fun n => v.runs n (0, u.k)))
    let b := (its.filterMap (fun it => u.statMat r.graph it)).flatMap (fun v => v.runs (0, u.k) x.share.cols)
    [(r.operand u.stream, a.eraseDups), (r.operand u.stat, b.eraseDups)])
  let add := if x.q.addend then
      [(r.slot 2, x.q.outIters.flatMap (fun io => match r.slot 2 with
        | some o => (rangesOf rows).flatMap (fun n =>
            (⟨o.t, iterOffset io x.q.strideC, false⟩ : Mat).runs n x.share.cols)
        | none => []))]
    else []
  (ops ++ add).filterMap (fun y => y.1.map (fun o => (o, y.2)))

/-- Run a share: load, compute, apply the overflow test, write C, and end (R130, R133, R147, R150, R160). -/
def State.runShare (s : State) (c : Nat) (r : Running) (x : ProductRun) : State :=
  let fr := s.takeFrames c r
  match r.slot 3 with
  | none => fr.2.endTask c r 0 false
  | some out =>
    let present := x.present fr.1
    let rows := fr.2.productRows c r x out.t present
    let ld := fr.2.loadAll r (r.productReads x present)
    let st := ld.1.storeShare r out.t rows
    let s := if x.q.backward then st.1.recordGrad r out.t st.2.runs else st.1
    let n := (rows.map (fun y => y.1.vals.length)).sum
    let terms := x.terms r
    let s := s.useFree (n * (terms + 1))
    let s := if x.q.longSum && decide (x.rung < 3) then
        s.modCore c (fun k => { k with genCounter := k.genCounter + n * terms }) else s
    s.endTask c r st.2.hits ld.2

/-! ### The whole task on a core -/

/-- The tile sizes of a share for one use, in the roles of the turned product. -/
def shareTiles (h : Shape) (tl : Tiling) (sh : Share) (turned : Bool) (u : UseShape) : List (Nat × Nat × Nat) :=
  let m := if turned then sh.cols.2 else sh.rows.2
  let n := if turned then sh.rows.2 else sh.cols.2
  (partsOf m tl.mT).flatMap (fun a => (partsOf n tl.nT).flatMap (fun b =>
    (partsOf u.k (h.kTileOf tl u)).map (fun k => (a, b, k))))

/-- A tile fails R108 at issue (R109): the task ends without writing C and the step faults. -/
def State.tileIllegal (s : State) (c : Nat) (r : Running) (x : Nat × Nat × Nat) : State :=
  let s := s.raise Ev.tileIllegal (UnitId.core c) { object := min x.2.2 0xFFFF, value := x.1, value2 := x.2.1 }
  ((s.count (Ctr.coreIllegalTileCount c)).stepFault r.p .tileIllegal).endTask c r 0 false

/-- A product on the array with its tiling record (R102, R108, R164). -/
def State.arrayProduct (s : State) (c : Nat) (r : Running) (q : Product) (tl : Tiling) : State :=
  let k := s.shapeKey c r
  let h := k.shape.turned
  let turned := q.N == 1
  match gridShare q.M q.N tl.gM tl.gN (r.coreIndex c) turned with
  | none => s.endTask c r 0 false
  | some sh =>
    if sh.rows.2 = 0 ∨ sh.cols.2 = 0 then s.endTask c r 0 false
    else
      let tiles := h.uses.flatMap (fun u => (shareTiles h tl sh turned u).map (fun t => (u, t)))
      let s := s.set (Reg.coreStatus_form c) tl.form
      match tiles.find? (fun x => !x.1.legal h.acc (r.plan.tileSpace c) x.2.1 x.2.2.1 x.2.2.2) with
      | some bad => s.tileIllegal c r bad.2
      | none =>
        let cyc := (tiles.map (fun x => tileCycles tl.form x.1 x.2.1 x.2.2.1 x.2.2.2)).sum
        let s := (s.count (Ctr.coreTilesIssuedCount c) (q.iterations * tiles.length)).count (Ctr.coreArrayBusyCount c)
          (q.iterations * cyc)
        s.runShare c r ⟨q, s.effRung r.task, (formSize tl.form).1,
          fun u => ((h.uses.zip q.uses).find? (fun y => y.2 == u)).elim u.k (fun y => h.kTileOf tl y.1), sh⟩

/-- A product at rung 3 on the vector unit, by the grid of R129. -/
def State.vectorProduct (s : State) (c : Nat) (r : Running) (q : Product) : State :=
  let g := vectorGrid r.task.coreCount q.M q.N
  match gridShare q.M q.N g.1 g.2 (r.coreIndex c) false with
  | none => s.endTask c r 0 false
  | some sh =>
    if sh.rows.2 = 0 ∨ sh.cols.2 = 0 then s.endTask c r 0 false
    else s.runShare c r ⟨q, 3, 1, fun u => u.k, sh⟩

/-- A product that completes at once (R107): with k = 0 alone, op 0x0001 writes C as its initial value, which the first
core of the set does (log entry 24); every other such task writes nothing. R107 says nothing of its queues: it writes its
queue_out entries, and reads those of queue_in only where it writes C (DESIGN CHOICE, log entry 64). -/
def State.productAtOnce (s : State) (c : Nat) (r : Running) (q : Product) : State :=
  let writes := r.task.op == 0x0001 && q.M != 0 && q.N != 0 && q.counts.all (· != 0) && q.uses.all (fun u => u.k == 0) &&
    r.coreIndex c == 0
  if writes then s.runShare c r ⟨q, s.effRung r.task, 1, fun _ => 0, ⟨(0, q.M), (0, q.N)⟩⟩ else s.endTask c r 0 false

/-- Run core `c`'s share of a product task (R104, R153), once it holds its tiling record (R163). -/
def State.productTask (s : State) (c : Nat) (ok : Task → Bool) : State :=
  match s.runningOn c with
  | none => s
  | some r =>
    let q := r.task.product
    if !ok r.task then s
    else if r.frozenSkip then ((s.count (Ctr.coreFrozenSkipCount c)).keepCredits r).endEmpty c r
    else if q.atOnce r.productTensors then s.productAtOnce c r q
    else match (s.core c).tiling with
      | none => s
      | some tl => if s.effRung r.task = 3 then s.vectorProduct c r q else s.arrayProduct c r q tl

/-- MATRIX_PRODUCT (R104, R107). -/
def doMatrixProduct (core : Nat) (s : State) : State := s.productTask core (fun t => t.op == 0x0001)

/-- DATA_GRADIENT_PRODUCT (R153, product 1). -/
def doDataGradientProduct (core : Nat) (s : State) : State :=
  s.productTask core (fun t => t.op == 0x0002 && t.par 0 1 == 1)

/-- WEIGHT_GRADIENT_PRODUCT (R153, R160, R162, product 2). -/
def doWeightGradientProduct (core : Nat) (s : State) : State :=
  s.productTask core (fun t => t.op == 0x0002 && t.par 0 1 == 2)

end Sys2Proof.Machine
end

