-- ==== Sys2Proof/Machine/Vector.lean ====
section
/-! DEFINITION. The vector unit: vector kernels (R110, R121, R444), and gathers and scatters at computed indices (R111,
R112, R444). -/

namespace Sys2Proof.Machine

/-! ### Kernels -/

/-- An FP32 value the manual does not state (log entry 4). -/
def freeFp (key : Nat) : Fp := Fp.of32 (Config.free 32 key).toNat

/-- An FP32 constant by its bits. -/
def fp (bits : Nat) : Fp := Fp.of32 bits

/-- GELU in its tanh form: 0.5 x (1 + tanh(√(2/π) (x + 0.044715 x³))) (R110). -/
def gelu (x : Fp) : Fp :=
  let x3 := (x.mul x).mul x
  let u := (fp 0x3F4C422A).mul (x.add ((fp 0x3D372713).mul x3))
  ((fp 0x3F000000).mul x).mul (Fp.one.add (Fp.via Config.tanh u))

/-- SiLU: x / (1 + exp(-x)) (R110). -/
def silu (x : Fp) : Fp := x.div (Fp.one.add (Fp.via Config.exp x.neg))

/-- The mean of a row in FP32. -/
def meanFp (key : Nat) (xs : List Fp) : Fp := (Fp.sum key xs).div (Fp.ofNat xs.length).to32

/-- RMS normalisation of a row with gain (R110). -/
def rmsNorm (key : Nat) (eps : Fp) (gain xs : List Fp) : List Fp :=
  let ms := meanFp key (xs.map (fun x => x.mul x))
  let d := (ms.add eps).sqrt
  (xs.zip gain).map (fun y => (y.1.div d).mul y.2)

/-- Layer normalisation of a row with gain and bias (R110). -/
def layerNorm (key : Nat) (eps : Fp) (gain bias xs : List Fp) : List Fp :=
  let m := meanFp key xs
  let cs := xs.map (fun x => x.sub m)
  let v := meanFp (key + 1) (cs.map (fun x => x.mul x))
  let d := (v.add eps).sqrt
  (cs.zip (gain.zip bias)).map (fun y => ((y.1.div d).mul y.2.1).add y.2.2)

/-- The largest of a row. -/
def rowMax (xs : List Fp) : Fp := match xs with
  | [] => .inf true
  | x :: rest => rest.foldl Fp.max x

/-- Soft-maximum of a row (R110). -/
def softMax (key : Nat) (xs : List Fp) : List Fp :=
  let m := rowMax xs
  let es := xs.map (fun x => Fp.via Config.exp (x.sub m))
  let t := Fp.sum key es
  es.map (fun e => e.div t)

/-- The kernel code without its backward bit. -/
def Task.kernel (t : Task) : Nat := t.par 0 1 % 128
/-- The backward form of a kernel (R110). -/
def Task.kernelBackward (t : Task) : Bool := decide (128 ≤ t.par 0 1)
/-- scalar0 as FP32. -/
def Task.scalar0 (t : Task) : Fp := Fp.of32 (t.par 4 4)
/-- scalar1 as FP32. -/
def Task.scalar1 (t : Task) : Fp := Fp.of32 (t.par 8 4)

/-- Kernel 0x02 on one element: add, subtract or multiply by scalar0; another scalar0 the manual gives no operation. -/
def elementwise (key : Nat) (sel x y : Fp) : Fp :=
  if sel.isZero then x.add y
  else if (sel.le Fp.one) && (Fp.one.le sel) then x.sub y
  else if (sel.le (Fp.ofNat 2)) && ((Fp.ofNat 2).le sel) then x.mul y
  else freeFp key

/-- The values of one output slice: `xs` the input slice, `ys` the second input's, `gain` and `bias` those of kernels 0x06
and 0x07. The backward forms and the rotary embedding, whose operands the manual does not give, yield free values
(log entry 25). -/
def kernelSlice (key : Nat) (t : Task) (xs : List Fp) (ys : List (Option Fp)) (gain bias : List Fp) (width : Nat) : List Fp :=
  let free := (List.range width).map (fun i => freeFp (key + i))
  if t.kernelBackward then free
  else match t.kernel with
    | 0x01 => xs
    | 0x02 => (xs.zip ys).zipIdx.map (fun y => match y.1.2 with
        | some b => elementwise (key + y.2) t.scalar0 y.1.1 b
        | none => freeFp (key + y.2))
    | 0x03 => (xs.zip ys).zipIdx.map (fun y => match y.1.2 with
        | some b => Fp.fma y.1.1 t.scalar0 b
        | none => freeFp (key + y.2))
    | 0x04 => xs.map gelu
    | 0x05 => xs.map silu
    | 0x06 => rmsNorm key t.scalar1 gain xs
    | 0x07 => layerNorm key t.scalar1 gain bias xs
    | 0x08 => softMax key xs
    | 0x09 =>
      if t.scalar0.isZero then [Fp.sum key xs]
      else if (t.scalar0.le Fp.one) && (Fp.one.le t.scalar0) then [rowMax xs]
      else [freeFp key]
    | _ => free

/-- The kernels whose unit of division is a slice of the input (R444). -/
def Task.inputSlices (t : Task) : Bool := (decide (0x06 ≤ t.kernel) && decide (t.kernel ≤ 0x09)) || t.kernel == 0x0B

/-- Coordinates of slice `k` of a tensor: those of its first element. -/
def Tensor.sliceCoords (t : Tensor) (k : Nat) : List Nat := 0 :: (t.coords (k * t.dim 0)).drop 1

/-- The run of slice `k`. -/
def Tensor.sliceRun (t : Tensor) (k : Nat) : Run := ⟨t.bitOffset (t.sliceCoords k), t.dim 0⟩

/-- The FP32 values of a run. -/
def State.runFp (s : State) (p : Nat) (t : Tensor) (r : Run) : List Fp := (s.runValues p t r).map Fp.to32

/-- The second input of a slice: slot 1, scalar0 for every element, or none (R110). With both flags set R110 does not say
which is meant: slot 1 is taken (DESIGN CHOICE, log entry 64). -/
def State.secondInput (s : State) (r : Running) (k n : Nat) : List (Option Fp) :=
  let fl := r.task.par 1 1
  if bitAt fl 0 = 1 then match r.slot 1 with
    | some o => (s.runFp r.p o.t (o.t.sliceRun k)).map some
    | none => List.replicate n none
  else if bitAt fl 1 = 1 then List.replicate n (some r.task.scalar0)
  else List.replicate n none

/-- A rank-1 operand's values, or none. -/
def State.vectorOf (s : State) (r : Running) (k : Nat) : List Fp := match r.slot k with
  | some o => s.runFp r.p o.t ⟨0, o.t.dim 0⟩
  | none => []

/-- Output slice `k` of a kernel as a piece. -/
def State.kernelPiece (s : State) (r : Running) (a out : Tensor) (k : Nat) : Piece :=
  let xs := s.runFp r.p a (a.sliceRun k)
  let vals := kernelSlice (s.freeCtr + 2 * k * (1 + out.dim 0)) r.task xs (s.secondInput r k xs.length) (s.vectorOf r 1)
    (s.vectorOf r 2) (out.dim 0)
  ⟨out.bitOffset (out.sliceCoords k), vals.take (out.dim 0)⟩

/-- What a kernel's share reads. -/
def Running.kernelReads (r : Running) (a : Operand) (ks : List Nat) : List (Operand × List Run) :=
  let second := if bitAt (r.task.par 1 1) 0 = 1 then (r.slot 1).toList.map (fun o => (o, ks.map o.t.sliceRun)) else []
  let norm := if r.task.kernel = 0x06 ∨ r.task.kernel = 0x07 then
      ((r.slot 1).toList ++ (if r.task.kernel = 0x07 then (r.slot 2).toList else [])).map (fun o => (o, o.t.rowRuns))
    else []
  (a, ks.map a.t.sliceRun) :: second ++ norm

/-- End a vector task's share with its pieces: load, overflow test, store (R133). -/
def State.endVector (s : State) (c : Nat) (r : Running) (reads : List (Operand × List Run)) (out : Tensor) (ps : List Piece)
    (free : Nat) : State :=
  let ld := s.loadAll r reads
  let hits := (ps.map (fun x => out.pieceHits x [])).sum
  let s := ld.1.store r.p out ps
  (s.useFree free).endTask c r hits ld.2

/-- Kernel 0x0B on the last core to run: the largest magnitude of the whole tensor, absent slices left out (R444). -/
def State.absMax (s : State) (r : Running) (a : Tensor) (frames : List (Option QueueItem)) : Fp :=
  ((List.range a.rows).filter (fun k => !rowAbsent frames a.rows k)).foldl (fun m k =>
    (s.runFp r.p a (a.sliceRun k)).foldl (fun m v => m.max v.abs) m) Fp.zero

/-- Every other core of the running task's set has finished its share. -/
def State.othersDone (s : State) (c : Nat) (r : Running) : Bool :=
  r.task.cores.all (fun x => x == c || (s.run r.p r.g r.t).finished.contains x)

/-- Core `c`'s share of kernel 0x0B (R444): the first core combines the partial maxima once the others have ended. -/
def State.absMaxShare (s : State) (c : Nat) (r : Running) (a : Operand) (out : Tensor) (ks : List Nat)
    (frames : List (Option QueueItem)) : State :=
  if r.coreIndex c = 0 then
    s.endVector c r [(a, ks.map a.t.sliceRun)] out [⟨0, [s.absMax r a.t frames]⟩] 0
  else
    let ld := s.loadAll r [(a, ks.map a.t.sliceRun)]
    ld.1.endTask c r 0 ld.2

/-- VECTOR_KERNEL (R110, R121, R444). -/
def doVectorKernel (core : Nat) (s : State) : State :=
  match s.runningOn core with
  | none => s
  | some r =>
    if r.task.op ≠ 0x0008 then s
    else match r.slot 0, r.slot 3 with
      | some a, some out =>
        let n := r.task.coreCount
        let q := if r.task.inputSlices then a.t.rows else out.t.rows
        let sh := shareOf q n (r.coreIndex core)
        if r.usesEmpty then s.endTask core r 0 false
        else if r.task.kernel = 0x0B ∧ r.coreIndex core = 0 ∧ !s.othersDone core r then s
        else
          let fr := s.takeFrames core r
          let s := fr.2
          let ks := ((List.range sh.2).map (· + sh.1)).filter (fun k => !rowAbsent fr.1 q k)
          if r.task.kernel = 0x0B then s.absMaxShare core r a out.t ks fr.1
          else s.endVector core r (r.kernelReads a ks) out.t (ks.map (fun k => s.kernelPiece r a.t out.t k))
            (2 * q * (1 + out.t.dim 0))
      | _, _ => s.endTask core r 0 false

/-! ### Gathers and scatters -/

/-- The stored index of entry `j` and the table row it selects (R111). -/
def State.indexOf (s : State) (r : Running) (o : Tensor) (j : Nat) : Int × Int :=
  let raw := s.elemInt r.p o [j]
  (raw, raw - signed 32 (r.task.par 4 4))

/-- The table row of an entry, if the table has it. -/
def rowOf (rows : Nat) (i : Int) : Option Nat := if 0 ≤ i ∧ i < rows then some i.toNat else none

/-- Count and report indices outside the table (R112). -/
def State.rangeErrors (s : State) (c : Nat) (r : Running) (bad : List Int) : State :=
  match bad with
  | [] => s
  | raw :: _ =>
    let raised := (s.run r.p r.g r.t).indexRaised
    let s := (s.count (Ctr.coreIndexRangeCount c) bad.length).modRun r.p r.g r.t (fun x => { x with indexRaised := true })
    if raised then s
    else s.raise Ev.indexOutOfRange (UnitId.core c) { object := r.t, value := unsigned 32 raw }

/-- A row of a rank-2 tensor as a run. -/
def Tensor.row2 (t : Tensor) (k : Nat) : Run := ⟨8 * (k * t.strideBytes 1), t.dim 0⟩


/-- Run an op 0x0009 share (R111, R444): `f` gives the pieces of the output and the runs read beside the indices. -/
def State.indexTask (s : State) (c mode : Nat)
    (f : State → Running → Tensor → Tensor → Tensor → List Nat → List Nat → List Piece × List Run) : State :=
  match s.runningOn c with
  | none => s
  | some r =>
    if r.task.op ≠ 0x0009 ∨ r.task.par 0 1 ≠ mode then s
    else match r.slot 0, r.slot 1, r.slot 3 with
      | some a, some b, some out =>
        if r.usesEmpty then s.endTask c r 0 false
        else
          let fr := s.takeFrames c r
          let s := fr.2
          let n := b.t.dim 0
          let sh := shareOf n r.task.coreCount (r.coreIndex c)
          let here := fun j => !rowAbsent fr.1 n j
          let mine := ((List.range sh.2).map (· + sh.1)).filter here
          let all := (List.range n).filter here
          let table := if mode = 1 then a.t.dim 1 else out.t.dim 1
          let bad := (mine.map (fun j => s.indexOf r b.t j)).filter (fun x => (rowOf table x.2).isNone)
          let x := f s r a.t b.t out.t mine all
          let s := s.rangeErrors c r (bad.map (·.1))
          s.endVector c r [(a, x.2), (b, [⟨sh.1 * b.t.type.bits, sh.2⟩])] out.t x.1 n
      | _, _, _ => s.endTask c r 0 false

/-- GATHER (R111 mode 1, R112). -/
def doGather (core : Nat) (s : State) : State :=
  s.indexTask core 1 (fun s r a b out mine _ =>
    let rows := mine.map (fun j => (j, rowOf (a.dim 1) (s.indexOf r b j).2))
    (rows.map (fun x => match x.2 with
      | some k => ⟨(out.row2 x.1).off, s.runFp r.p a (a.row2 k)⟩
      | none => ⟨(out.row2 x.1).off, List.replicate (out.dim 0) Fp.zero⟩),
     rows.filterMap (fun x => x.2.map a.row2)))

/-- SCATTER (R111 mode 2, R444): of the entries that select one row, the highest wins, whichever core holds it. -/
def doScatter (core : Nat) (s : State) : State :=
  s.indexTask core 2 (fun s r a b out mine all =>
    let row := fun j => rowOf (out.dim 1) (s.indexOf r b j).2
    let wins := mine.filter (fun j => (row j).isSome && !all.any (fun k => decide (j < k) && row k == row j))
    (wins.filterMap (fun j => (row j).map (fun k => ⟨(out.row2 k).off, s.runFp r.p a (a.row2 j)⟩)), mine.map a.row2))

/-- SCATTER_ADD (R111 mode 3, R444): the last core to end among those whose entries select a row adds every entry of the
row in FP32, in an open order, and rounds once. -/
def doScatterAdd (core : Nat) (s : State) : State :=
  s.indexTask core 3 (fun s r a b out mine all =>
    let row := fun j => rowOf (out.dim 1) (s.indexOf r b j).2
    let n := r.task.coreCount
    let ownerOf := fun j => r.task.coreFirst + j / max 1 (ceilDiv (b.dim 0) n)
    let done := (s.run r.p r.g r.t).finished
    let mineRows := (mine.filterMap row).eraseDups
    let last := mineRows.filter (fun k => (all.filter (fun j => row j == some k)).all (fun j =>
      ownerOf j == core || done.contains (ownerOf j)))
    (last.zipIdx.map (fun x =>
      let terms := (all.filter (fun j => row j == some x.1)).map (fun j => s.runFp r.p a (a.row2 j))
      let old := s.runFp r.p out (out.row2 x.1)
      ⟨(out.row2 x.1).off, old.zipIdx.map (fun y =>
        Fp.sum (s.freeCtr + x.2) (y.1 :: terms.map (fun l => (l[y.2]?).getD Fp.zero)))⟩), mine.map a.row2))

end Sys2Proof.Machine
end

