-- ==== Sys2Proof/Machine/Contexts.lean ====
section
/-! DEFINITION. Sequence contexts and the KV page pool (R191 to R203): the context plan, opening, forking and closing,
pages and their reference counts, and the end of a step. -/

namespace Sys2Proof.Machine

/-! ### The context plan (R193) -/

/-- A range entry of the context plan. -/
structure CtxRange where
  first : Nat
  count : Nat
  kind : Nat
  die : Nat
  aStep : Nat
  maxLen : Nat
  kvLayers : Nat
  reserved : Nat
  deriving DecidableEq, Repr

/-- Read a range entry (R193). -/
def CtxRange.ofBytes (b : List Byte) : CtxRange :=
  ⟨fieldAt b 0 2, fieldAt b 2 2, fieldAt b 4 1, fieldAt b 5 1, fieldAt b 6 2, fieldAt b 8 4, fieldAt b 12 2,
   fieldAt b 14 2⟩

/-- A KV layer entry of the context plan. -/
structure KvLayer where
  heads : Nat
  dim : Nat
  dtype : Nat
  reservedZero : Bool
  deriving DecidableEq, Repr

/-- Read a KV layer entry (R193). -/
def KvLayer.ofBytes (b : List Byte) : KvLayer := ⟨fieldAt b 0 2, fieldAt b 2 2, fieldAt b 4 1, zeroAt b 5 3⟩

/-- The ranges of a context plan section. -/
def ctxRanges (sec : List Byte) : List CtxRange := (records sec 16 16 (fieldAt sec 0 2)).map CtxRange.ofBytes

/-- The KV layers of a context plan section. -/
def kvLayerEntries (sec : List Byte) : List KvLayer :=
  (records sec (16 + 16 * fieldAt sec 0 2) 8 (fieldAt sec 2 2)).map KvLayer.ofBytes

/-- The ranges of a plan. -/
def Plan.ctxRanges (pl : Plan) : List CtxRange := if pl.hasSection 9 then Machine.ctxRanges (pl.section 9) else []

/-- The KV layers of a plan. -/
def Plan.kvLayers (pl : Plan) : List KvLayer := if pl.hasSection 9 then kvLayerEntries (pl.section 9) else []

/-- The range that holds context `c`, with its index. -/
def Plan.rangeOf (pl : Plan) (c : Nat) : Option (CtxRange × Nat) :=
  pl.ctxRanges.zipIdx.find? (fun x => decide (x.1.first ≤ c ∧ c < x.1.first + x.1.count))

/-! ### Contexts and pages -/

/-- The states of a context (R191). -/
def CtxState.code : CtxState → Nat
  | .free => 0 | .opened => 1 | .full => 2

/-- A FREE context: CTX_STATE reads 0 (R205). -/
def Ctx.init : Ctx := ⟨.free, 0, 0, 0, 0, 0, 0, 0, 0, 0, ⟨0, 0, 0, 0, 0⟩, 0, 0, 0, []⟩

/-- Context `c` (R191). -/
def State.ctx (s : State) (c : Nat) : Ctx := readOr Ctx.init s.contexts c

/-- Store context `c`. -/
def State.setCtx (s : State) (c : Nat) (x : Ctx) : State := { s with contexts := writeOr Ctx.init s.contexts c x }

/-- Pages of die `d`'s pool (R197). -/
def State.poolPages (s : State) (d : Nat) : Nat := s.get (Reg.kvPoolPages d)

/-- The first page number of die `d` (R197). -/
def State.firstPage (s : State) (d : Nat) : Nat := ((List.range d).map s.poolPages).sum

/-- The die of a page number (R197). -/
def State.pageDie (s : State) (n : Nat) : Nat :=
  ((List.range 4).find? (fun d => n < s.firstPage (d + 1))).getD 3

/-- Page bytes (R197). -/
def State.pageBytes (s : State) : Nat := 2 ^ s.get Reg.kvPageSize_pageLog2

/-- The module HBM address of a page: its pool's die-local base within the die's stacks (R197). -/
def State.pageAddr (s : State) (n : Nat) : Nat :=
  let d := s.pageDie n
  s.fitted.stacksBefore d * stackUsable + s.pair (Reg.kvPoolBase d) + (n - s.firstPage d) * s.pageBytes

/-- Reference count of a page (R198). -/
def State.pageRefs (s : State) (n : Nat) : Nat := readOr 0 s.pages n

/-- Set a reference count. -/
def State.setPageRefs (s : State) (n v : Nat) : State := { s with pages := writeOr 0 s.pages n v }

/-- Pages of die `d` in use (R205). -/
def State.pagesUsed (s : State) (d : Nat) : Nat :=
  (s.pages.filter (fun e => decide (s.firstPage d ≤ e.1 ∧ e.1 < s.firstPage d + s.poolPages d))).length

/-- Outstanding reservations on die `d` (R205). -/
def State.pagesReserved (s : State) (d : Nat) : Nat :=
  ((s.contexts.filter (fun e => e.2.state != .free && e.2.kind == 2 && e.2.die == d)).map (·.2.reserved)).sum

/-- Drop one reference of a page; a page whose count reaches 0 returns to the pool (R201). -/
def State.dropPage (s : State) (n : Nat) : State :=
  let v := s.pageRefs n
  let s := s.setPageRefs n (v - 1)
  if v = 1 then s.count Ctr.memPagesFreedCount else s

/-- A free page of die `d`: the manual does not say which, so a free value picks it (log entry 4). -/
def State.pickPage (s : State) (d : Nat) : Option Nat × State :=
  let free := ((List.range (s.poolPages d)).map (· + s.firstPage d)).filter (fun n => s.pageRefs n == 0)
  let r := s.takeFree 24
  (free[r.1 % max 1 free.length]?, r.2)

/-- The directory entry of a position (R198): layer-major, 256 positions a page. -/
def Ctx.entry (x : Ctx) (layer pos : Nat) : Nat := layer * (x.maxLen / 256) + pos / 256

/-- The page that holds a position, if one is allocated. -/
def Ctx.page (x : Ctx) (layer pos : Nat) : Option Nat := lookup x.directory (x.entry layer pos)

/-- The page directory as it stands in the system region (R198): one 4-byte word for each KV layer and 256 positions, with
the page number in [23:0] and valid in [31]. -/
def Ctx.directoryWords (x : Ctx) : List (BitVec 32) :=
  (List.range (x.kvLayers * (x.maxLen / 256))).map (fun e => match lookup x.directory e with
    | some n => BitVec.ofNat 32 (n % 2 ^ 24 + 2 ^ 31)
    | none => 0)

/-- The 64-byte entry of a context in the system region (R191). -/
def Ctx.bytes (x : Ctx) : List Byte :=
  leBytes x.state.code 1 ++ leBytes x.kind 1 ++ leBytes x.die 1 ++
    leBytes x.range 1 ++ leBytes x.length 4 ++ leBytes x.maxLen 4 ++ leBytes x.kvLayers 2 ++ leBytes x.parent 2 ++
    leBytes x.reserved 4 ++ leBytes x.directory.length 4 ++ leBytes x.dirAt 8 ++ leBytes x.prefix_ 4 ++ leBytes 0 4 ++
    x.stamp.bytes ++ leBytes x.tag 8

/-- Allocate a page for a directory entry from the context's reservation (R199, R200). -/
def State.allocPage (s : State) (c e : Nat) : Option Nat × State :=
  let x := s.ctx c
  match s.pickPage x.die with
  | (some n, s) =>
    (some n, (s.setPageRefs n 1).setCtx c
      { x with
        directory := insertKey x.directory e n, reserved := x.reserved - 1 })
  | (none, s) => (none, s)

/-- The private page to write a position of context `c` into: allocated at its first write, copied when shared
(R199, R200). -/
def State.pageToWrite (s : State) (c layer pos : Nat) : Option Nat × State :=
  let x := s.ctx c
  match x.page layer pos with
  | none => s.allocPage c (x.entry layer pos)
  | some old =>
    if s.pageRefs old ≤ 1 then (some old, s)
    else match s.allocPage c (x.entry layer pos) with
      | (some n, s) =>
        let bytes := s.mem.readN (s.pageAddr old) s.pageBytes
        (some n, ((s.rawHbm (s.pageAddr n) bytes).dropPage old).count Ctr.memCowCopyCount)
      | (none, s) => (none, s)

/-- Bytes of one row of a KV head in a page. -/
def KvLayer.rowBytes (l : KvLayer) : Nat := l.dim * ((DType.ofCode l.dtype).getD .bf16).bits / 8

/-- Byte offset in its page of the key or value row of a position and head (R197): keys of every head, then values; the
scales of type 0x06 follow the values in the same order (log entry 27). -/
def KvLayer.rowOffset (l : KvLayer) (value : Bool) (pos head : Nat) : Nat :=
  (if value then 256 * l.heads * l.rowBytes else 0) + (pos % 256 * l.heads + head) * l.rowBytes

/-- Byte offset in its page of the scales of a row of type 0x06 (log entry 27). -/
def KvLayer.scaleOffset (l : KvLayer) (value : Bool) (pos head : Nat) : Nat :=
  512 * l.heads * l.rowBytes + (if value then 256 * l.heads * (l.dim / 32) else 0) + (pos % 256 * l.heads + head) * (l.dim / 32)

/-- Read a row of a KV head; a position without a page holds values the manual does not state (log entry 4). -/
def State.kvRow (s : State) (c layer : Nat) (l : KvLayer) (value : Bool) (pos head : Nat) : List Fp :=
  match (s.ctx c).page layer pos with
  | none => (List.range l.dim).map (fun k => freeFp (s.freeCtr + k))
  | some n =>
    let d := (DType.ofCode l.dtype).getD .bf16
    let a := s.pageAddr n
    let e := d.bits / 8
    (List.range l.dim).map (fun k =>
      let v := d.decodeElem (leNat (s.mem.readN (a + l.rowOffset value pos head + e * k) e))
      if d.isMx then applyScale (s.mem.read (a + l.scaleOffset value pos head + k / 32)).toNat v else v)

/-- Write a row of a KV head. -/
def State.putKvRow (s : State) (c layer : Nat) (l : KvLayer) (value : Bool) (pos head : Nat) (vs : List Fp) : State :=
  match s.pageToWrite c layer pos with
  | (none, s) => s
  | (some n, s) =>
    let d := (DType.ofCode l.dtype).getD .bf16
    let a := s.pageAddr n
    let e := d.bits / 8
    if d.isMx then
      let blocks := chunksOf 32 vs
      let s := s.rawHbm (a + l.rowOffset value pos head) ((blocks.flatMap d.encodeBlock).flatMap (fun b => leBytes b e))
      s.rawHbm (a + l.scaleOffset value pos head) (blocks.map (fun b => BitVec.ofNat 8 (d.scaleByte b)))
    else s.rawHbm (a + l.rowOffset value pos head) ((vs.map d.encodeElem).flatMap (fun b => leBytes b e))

/-! ### Opening and closing (R192, R202) -/

/-- Pages that a forked context shares of its parent's partial page: 1 if prefix is no multiple of 256 (R202). -/
def partialPage (prefix_ : Nat) : Nat := if prefix_ % 256 = 0 then 0 else 1

/-- The reservation of an opened or forked context (R202). -/
def reservation (kvLayers maxLen prefix_ : Nat) (fork : Bool) : Nat :=
  if fork then kvLayers * (maxLen / 256 - prefix_ / 256 + partialPage prefix_) else kvLayers * (maxLen / 256)

/-- The HBM address at which a context's page directory is allocated: it lies in the system region (R198), and where is a
free value (log entry 52). -/
def State.directoryPlace (s : State) : Nat × State := s.takeFree 64

/-- Open context `c` of a serving range (R192). -/
def State.openCtx (s : State) (p c : Nat) (r : CtxRange) (idx maxLen tag : Nat) : State :=
  let st := s.stampNow 1
  let a := s.directoryPlace
  a.2.stampUsed.setCtx c ⟨.opened, 2, r.die, idx, 0, maxLen, r.kvLayers, 0xFFFF, reservation r.kvLayers maxLen 0 false, 0,
    st, tag, p, a.1, []⟩

/-- The directory entries a fork copies: those of positions below prefix, renumbered for its own max_len. -/
def forkEntries (parent : Ctx) (maxLen prefix_ : Nat) : List (Nat × Nat) :=
  parent.directory.filterMap (fun e =>
    let per := parent.maxLen / 256
    let layer := e.1 / max 1 per
    let slot := e.1 % max 1 per
    if 256 * slot < prefix_ then some (layer * (maxLen / 256) + slot, e.2) else none)

/-- Fork context `c` from `parent` (R192, R202): each copied page gains a reference; the shared partial pages are
credited to the parent's reservation. -/
def State.forkCtx (s : State) (p c parent : Nat) (r : CtxRange) (idx maxLen prefix_ tag : Nat) : State :=
  let par := s.ctx parent
  let entries := sortBy (·.1) (forkEntries par maxLen prefix_)
  let credit := r.kvLayers * partialPage prefix_
  let st := s.stampNow 1
  let a := s.directoryPlace
  let s := entries.foldl (fun s e => s.setPageRefs e.2 (s.pageRefs e.2 + 1)) a.2.stampUsed
  let s := s.setCtx parent { par with reserved := par.reserved + credit }
  s.setCtx c ⟨.opened, 2, r.die, idx, prefix_, maxLen, r.kvLayers, parent,
    reservation r.kvLayers maxLen prefix_ true - credit, prefix_, st, tag, p, a.1, entries⟩

/-- Close context `c` (R192): its pages lose a reference, its reservation is released. -/
def State.closeCtx (s : State) (c : Nat) : State :=
  let x := s.ctx c
  let freed := (x.directory.filter (fun e => s.pageRefs e.2 == 1)).length
  let s := x.directory.foldl (fun s e => s.dropPage e.2) s
  (s.setCtx c Ctx.init).raise Ev.contextClosed (s.control x.partition) { object := c, value := freed }

/-- Every context of partition `p` closes at a withdrawal (R192). -/
def State.closeAllCtx (s : State) (p : Nat) : State :=
  (s.contexts.filter (fun e => e.2.partition == p)).foldl (fun s e => s.closeCtx e.1) s

/-- Admission opens the FREE contexts of the training ranges (R192). -/
def State.openTraining (s : State) (p : Nat) (pl : Plan) : State :=
  pl.ctxRanges.zipIdx.foldl (fun s x =>
    if x.1.kind ≠ 1 then s
    else ((List.range x.1.count).map (· + x.1.first)).foldl (fun s c =>
      if (s.ctx c).state != .free then s
      else
        let st := s.stampNow 1
        s.stampUsed.setCtx c { Ctx.init with
          state := .opened, kind := 1, range := x.2, parent := 0xFFFF, stamp := st, partition := p }) s) s

/-- The end of a step for context `c` (R192, R199): the length rises by a_step, and a context at max_len is FULL. -/
def State.stepCtx (s : State) (c : Nat) (r : CtxRange) : State :=
  let x := s.ctx c
  if x.kind ≠ 2 ∨ x.state ≠ .opened then s
  else
    let len := min x.maxLen (x.length + r.aStep)
    let s := s.setCtx c { x with
      length := len, state := if len = x.maxLen then .full else .opened }
    if len = x.maxLen then
      (s.raise Ev.contextFull (s.control x.partition) { object := c }).count Ctr.memContextFullCount
    else s

/-- The end of a step for every open serving context of the partition (R199). -/
def State.stepContexts (s : State) (p : Nat) (pl : Plan) : State :=
  (s.contexts.filter (fun e => e.2.partition == p && e.2.kind == 2)).foldl (fun s e =>
    match pl.rangeOf e.1 with
    | some r => s.stepCtx e.1 r.1
    | none => s) s

/-! ### The CONTEXT descriptor (R195, R196) -/

/-- The first operand byte of a CONTEXT descriptor that must be zero and is not, or else the parent of a descriptor that is
no fork, where it is not 0xFFFF (R69, R195). -/
def Started.ctxStray (d : Started) : Option Nat :=
  (d.strayOperand [(16, 1), (18, 4), (24, 16)]).or (if d.opd 16 1 ≠ 2 ∧ d.opd 20 2 ≠ 0xFFFF then some 20 else none)

/-- The checks of R196, in order. -/
def State.ctxChecks (s : State) (p : Nat) (d : Started) : List Bool :=
  let act := d.opd 16 1
  let c := d.opd 18 2
  let par := d.opd 20 2
  let maxLen := d.opd 24 4
  let pre := d.opd 28 4
  let x := s.ctx c
  let px := s.ctx par
  let rg := if s.admitted p then (s.planOf p).bind (fun pl => pl.rangeOf c) else none
  let opens := act == 1 || act == 2
  let rangeMax := (rg.map (·.1.maxLen)).getD 0
  let layers := (rg.map (·.1.kvLayers)).getD 0
  let die := (rg.map (·.1.die)).getD 0
  let lenOk := decide (256 ≤ maxLen ∧ maxLen ≤ rangeMax) && maxLen % 256 == 0
  [act == 1 || act == 2 || act == 3,
   (rg.map (fun r => r.1.kind == 2)).getD false,
   if opens then x.state == .free else act != 3 || x.state == .opened || x.state == .full,
   if act = 1 then lenOk && pre == 0
   else if act = 2 then lenOk && decide (1 ≤ pre ∧ pre ≤ maxLen ∧ pre ≤ px.length)
   else (act != 3 || maxLen == 0) && pre == 0,
   act != 2 || ((px.state == .opened || px.state == .full) && decide (pre ≤ px.length) &&
     (rg.map (fun r => decide (r.1.first ≤ par ∧ par < r.1.first + r.1.count))).getD false),
   !opens || decide (s.pagesUsed die + s.pagesReserved die + reservation layers maxLen pre (act == 2) ≤ s.poolPages die)]

/-- A CONTEXT descriptor waits for its boundary (R192). -/
def State.requestCtx (s : State) (ring : Nat) (f : Nat → Bool) : State :=
  match s.findDesc ring 0x10 (fun d => f (d.opd 16 1)) with
  | none => s
  | some d => match d.ctxStray with
    | some off => s.finish ring d .badAddress off
    | none => s.request (s.ringPart ring) .context ring d

/-- CONTEXT_OPEN (R192, R195); an action outside 1..3 is refused by the same checks. -/
def doContextOpen (ring : Nat) (s : State) : State := s.requestCtx ring (fun a => a != 2 && a != 3)

/-- CONTEXT_FORK (R192, R195). -/
def doContextFork (ring : Nat) (s : State) : State := s.requestCtx ring (· == 2)

/-- CONTEXT_CLOSE (R192, R195). -/
def doContextClose (ring : Nat) (s : State) : State := s.requestCtx ring (· == 3)

/-- A CONTEXT descriptor that passed its checks takes effect (R192). -/
def State.applyCtx (s : State) (p : Nat) (d : Started) : State :=
  let c := d.opd 18 2
  match (s.planOf p).bind (fun pl => pl.rangeOf c) with
  | none => s
  | some (r, idx) =>
    if d.opd 16 1 = 1 then s.openCtx p c r idx (d.opd 24 4) (d.opd 32 8)
    else if d.opd 16 1 = 2 then s.forkCtx p c (d.opd 20 2) r idx (d.opd 24 4) (d.opd 28 4) (d.opd 32 8)
    else s.closeCtx c

/-- CONTEXT_APPLY (R192, R196): the next due CONTEXT descriptor is checked and takes effect. -/
def doContextApply (p : Nat) (s : State) : State :=
  match s.nextRequest p .context with
  | none => s
  | some (rq, d) =>
    let s := s.dropRequest p rq
    let fails := failing (s.ctxChecks p d)
    if fails.isEmpty then (s.applyCtx p d).finish rq.ring d .done
    else
      ((s.finish rq.ring d .refused (refusedDetail fails)).raise Ev.contextRefused (s.control p)
        { object := d.opd 18 2, value := fails.headD 0 }).count Ctr.memContextRefusedCount

end Sys2Proof.Machine
end

