-- ==== Sys2Proof/Machine/Attention.lean ====
section
/-! DEFINITION. Attention on a core (R173 to R190): the parameter block, the three masks and the live blocks, the
append of new keys and values, the forward pass and the backward pass. -/

namespace Sys2Proof.Machine

/-! ### The parameter block (R181, R186) -/

/-- The parameter block of ops 0x0003 and 0x0004; the last six fields belong to op 0x0004. -/
structure Attn where
  heads : Nat
  kvHeads : Nat
  d : Nat
  hc : Nat
  flags : Nat
  nq : Nat
  nk : Nat
  scale : Fp
  mask : Nat
  lse : Nat
  budget : Nat
  ctxFirst : Nat
  batch : Nat
  kvLayer : Nat
  srcLayer : Nat
  o : Nat
  dO : Nat
  dK : Nat
  dV : Nat
  scratch : Nat

/-- Read the parameter block. -/
def Task.attn (t : Task) : Attn :=
  ⟨t.par 0 2, t.par 2 2, t.par 4 2, t.par 6 1, t.par 7 1, t.par 8 4, t.par 12 4, Fp.of32 (t.par 16 4), t.par 20 4,
   t.par 24 4, t.par 28 4, t.par 32 2, t.par 34 2, t.par 36 2, t.par 36 2, t.par 40 4, t.par 44 4, t.par 48 4,
   t.par 52 4, t.par 56 4⟩

/-- flags[0]. -/
def Attn.paged (a : Attn) : Bool := bitAt a.flags 0 == 1
/-- flags[1]. -/
def Attn.append (a : Attn) : Bool := bitAt a.flags 1 == 1
/-- flags[2]. -/
def Attn.lengthMask (a : Attn) : Bool := bitAt a.flags 2 == 1
/-- flags[3]. -/
def Attn.writeLse (a : Attn) : Bool := bitAt a.flags 3 == 1
/-- flags[4]. -/
def Attn.causal (a : Attn) : Bool := bitAt a.flags 4 == 1
/-- Query heads that share one KV head. -/
def Attn.group (a : Attn) : Nat := max 1 (a.heads / a.kvHeads)
/-- Query blocks of one head (R183). -/
def Attn.queryBlocks (a : Attn) : Nat := ceilDiv a.nq 128

/-- The heads and query blocks of the i-th of n cores (R183), each as first index and count. -/
def Attn.shareOf (a : Attn) (n i : Nat) : (Nat × Nat) × (Nat × Nat) :=
  let groups := ceilDiv a.heads a.hc
  let cg := max 1 (n / max 1 groups)
  let g := i / cg
  let lo := g * a.hc
  ((lo, min a.heads (lo + a.hc) - lo), Machine.shareOf a.queryBlocks cg (i % cg))

/-- The i-th of n cores has no heads or no query blocks: it finishes at once (R183). -/
def Attn.idle (a : Attn) (n i : Nat) : Bool := (a.shareOf n i).1.2 == 0 || (a.shareOf n i).2.2 == 0

/-! ### Lengths and masks (R177 to R180) -/

/-- What one batch element attends over: its context, the keys there are, the position of its query row 0, the key
length, the query length, and the number of rows that exist. -/
structure Span where
  ctx : Nat
  keys : Nat
  origin : Int
  keyLen : Nat
  rows : Nat

/-- The span of batch element `b` (R177, R182, R190): in a paged task positions at or beyond max_len do not exist. -/
def State.span (s : State) (r : Running) (a : Attn) (b : Nat) : Span :=
  let c := a.ctxFirst + b
  let x := s.ctx c
  if a.paged then
    let step := ((r.plan.rangeOf c).map (·.1.aStep)).getD 0
    let keys := min x.maxLen (x.length + step)
    ⟨c, keys, x.length, keys, min a.nq (keys - x.length)⟩
  else
    let qLen := if a.lengthMask then ((x.length : Int) - (a.nk - a.nq)).toNat else a.nq
    ⟨c, a.nk, (a.nk : Int) - a.nq, if a.lengthMask then min a.nk x.length else a.nk, min a.nq qLen⟩

/-- The header of a mask tensor (R178). -/
structure MaskHeader where
  nk : Nat
  dir : Nat
  base : Nat
  tiles : Nat
  count : Nat

/-- `n` bytes of the mask tensor as a number. -/
def State.maskField (s : State) (p : Nat) (t : Tensor) (off n : Nat) : Nat :=
  leNat ((List.range n).map (fun i => s.storedByte p t (off + i)))

/-- Read the header of a mask tensor. -/
def State.maskHeader (s : State) (p : Nat) (t : Tensor) : MaskHeader :=
  ⟨s.maskField p t 4 4, s.maskField p t 8 8, s.maskField p t 16 8, s.maskField p t 24 8, s.maskField p t 32 4⟩

/-- The bitmap of one block: all zeros, all ones, or a tile at a byte offset; `bad` marks a malformed one. -/
inductive BlockMask
  | zeros
  | ones
  | tile (off : Nat)
  | bad
  deriving DecidableEq, Repr

/-- The bitmaps of the key blocks 0.. of query block `qb` (R178, R179). -/
def State.maskRow (s : State) (p : Nat) (m : Option Tensor) (qb blocks : Nat) : List BlockMask :=
  match m with
  | none => List.replicate blocks .ones
  | some t =>
    let h := s.maskHeader p t
    let first := s.maskField p t (h.base + 4 * qb) 4
    ((List.range blocks).foldl (fun (acc : List BlockMask × Nat) kb =>
      let w := s.maskField p t (h.dir + (qb * ceilDiv h.nk 32 + kb / 32) * 8) 8
      match bitsAt w (2 * (kb % 32)) 2 with
      | 0 => (acc.1 ++ [.zeros], acc.2)
      | 1 => (acc.1 ++ [.ones], acc.2)
      | 2 => (acc.1 ++ [if acc.2 < h.count then .tile (h.tiles + 2048 * acc.2) else .bad], acc.2 + 1)
      | _ => (acc.1 ++ [.bad], acc.2)) ([], first)).1

/-- A score of query row `q` and key `j` of a block survives the bitmap. -/
def State.maskBit (s : State) (p : Nat) (m : Option Tensor) (x : BlockMask) (q j : Nat) : Bool :=
  match x, m with
  | .ones, _ => true
  | .tile off, some t => bitAt (s.maskField p t (off + 16 * q + j / 8) 1) (j % 8) == 1
  | _, _ => false

/-- The keys of block `kb` that row `i` may attend: what all three masks leave (R177). -/
def State.openKeys (s : State) (p : Nat) (a : Attn) (m : Option Tensor) (sp : Span) (x : BlockMask) (i kb : Nat) : List Nat :=
  if sp.rows ≤ i then []
  else ((List.range 128).map (· + 128 * kb)).filter (fun j =>
    decide (j < sp.keys ∧ j < sp.keyLen) && (!a.causal || decide ((j : Int) ≤ sp.origin + i)) &&
    s.maskBit p m x (i % 128) (j % 128))

/-- One query block: the live key blocks that the budget keeps, each with the keys it leaves to each of the block's
rows, and how many blocks were skipped, dropped and malformed. -/
structure QueryBlock where
  qb : Nat
  live : List (Nat × List (Nat × List Nat))
  skipped : Nat
  dropped : Nat
  bad : Nat

/-- Query block `qb` of a batch element (R177 to R180). -/
def State.queryBlock (s : State) (p : Nat) (a : Attn) (m : Option Tensor) (sp : Span) (qb : Nat) : QueryBlock :=
  let blocks := ceilDiv sp.keys 128
  let masks := s.maskRow p m qb blocks
  let rows := ((List.range 128).map (· + 128 * qb)).filter (fun i => decide (i < a.nq))
  let all := masks.zipIdx.map (fun x => (x.2, rows.map (fun i => (i, s.openKeys p a m sp x.1 i x.2))))
  let live := all.filter (fun x => x.2.any (fun y => !y.2.isEmpty))
  let keep := if a.budget = 0 then live.length else min a.budget live.length
  ⟨qb, live.drop (live.length - keep), all.length - live.length, live.length - keep,
   (masks.filter (· == .bad)).length⟩

/-- The open keys of row `i`, block after block in ascending order. -/
def QueryBlock.keysOf (x : QueryBlock) (i : Nat) : List (List Nat) :=
  x.live.map (fun y => ((y.2.find? (fun z => z.1 == i)).map (·.2)).getD [])

/-- The rows of a query block that are present (R177). -/
def Attn.rowsOf (a : Attn) (sp : Span) (qb : Nat) : List Nat :=
  ((List.range 128).map (· + 128 * qb)).filter (fun i => decide (i < a.nq ∧ i < sp.rows))

/-! ### Rows of the operands -/

/-- The operand format of the rung (R174). -/
def attnFormat (rung : Nat) (grad : Bool) : DType :=
  match rung with
  | 1 => if grad then .e5m2 else .e4m3
  | 2 => .bf16
  | _ => .fp32

/-- The run of row `i` of head `h` and batch element `b`. -/
def attnRun (t : Tensor) (d i h b : Nat) : Run := ⟨t.bitOffset [0, i, h, b], d⟩

/-- A row as stored. -/
def State.attnRow (s : State) (p : Nat) (t : Tensor) (d i h b : Nat) : List Fp := s.runValues p t (attnRun t d i h b)

/-- The key or value row of position `j` of KV head `g` as stored: a tensor row, or a page row of a paged task. -/
def State.kvStored (s : State) (r : Running) (a : Attn) (sp : Span) (value : Bool) (b g j : Nat) : List Fp :=
  if a.paged then match r.plan.kvLayers[a.kvLayer]? with
    | some l => s.kvRow sp.ctx a.kvLayer l value j g
    | none => []
  else match r.slot (if value then 2 else 1) with
    | some o => s.attnRow r.p o.t a.d j g b
    | none => []

/-- Values in the rung's format, with whether each saturated on the way (R174, R176). -/
def toAttn (f : DType) (vs : List Fp) : List (Fp × Bool) :=
  vs.map (fun v => if f = .fp32 then (v.to32, false) else (f.decodeElem (f.encodeElem v), f.saturates v))

/-- The values. -/
def vals (xs : List (Fp × Bool)) : List Fp := xs.map (·.1)

/-- Some value saturated. -/
def satAny (xs : List (Fp × Bool)) : Bool := xs.any (·.2)

/-- A row of marked values as a piece of a tensor, each FP32 value multiplied by 2^k (R146). -/
def markedRow (t : Tensor) (d i h b : Nat) (k : Int) (xs : List (Fp × Bool)) : Marked :=
  (⟨(attnRun t d i h b).off, xs.map (fun v => v.1.scaled k)⟩, xs.map (·.2))

/-- A dot product in FP32, its order open. -/
def dot (key : Nat) (a b : List Fp) : Fp := Fp.sumFrom key Fp.zero ((a.zip b).map (fun x => (x.1.mulX x.2).capped))

/-- c of R175: scale × log2(e) in FP32. -/
def Attn.c (a : Attn) : Fp := a.scale.mul (Fp.of32 0x3FB8AA3B)

/-- exp2 of the pipeline; a power of minus infinity is 0 (log entry 7). -/
def exp2Fp (x : Fp) : Fp := match x with
  | .inf true => Fp.zero
  | x => Fp.via Config.exp2 x

/-! ### The forward pass (R175) -/

/-- The running values of a row: m, l and the accumulators with their saturation marks. -/
structure RowRun where
  m : Fp
  l : Fp
  acc : List (Fp × Bool)
  sat : Bool
  key : Nat

/-- One live block of a row: `ks` and `vs` are the keys' rows in the rung's format. -/
def RowRun.block (x : RowRun) (rung : Nat) (c : Fp) (q : List (Fp × Bool)) (ks vs : List (List (Fp × Bool))) : RowRun :=
  let sc := ks.zipIdx.map (fun k => (dot (x.key + k.2) (vals q) (vals k.1)).mul c)
  let mNew := sc.foldl Fp.max x.m
  let key := x.key + ks.length
  let sat := x.sat || satAny q || ks.any satAny
  match mNew with
  | .inf true => { x with key := key, sat := sat }
  | _ =>
    let ps := sc.map (fun v => exp2Fp (v.sub mNew))
    let alpha := exp2Fp (x.m.sub mNew)
    let pc := toAttn (attnFormat rung false) ps
    let acc := x.acc.zipIdx.map (fun e =>
      let col := vs.map (fun v => ((v[e.2]?).getD (Fp.zero, false)))
      ((alpha.mul e.1.1).add (dot (key + 1 + e.2) (vals pc) (vals col)), e.1.2 || satAny pc || satAny col))
    ⟨mNew, (alpha.mul x.l).add (Fp.sum key ps), acc, sat, key + 1 + x.acc.length⟩

/-- A finished row: o_i with its marks, and lse_i. -/
def RowRun.result (x : RowRun) : List (Fp × Bool) × Fp :=
  if x.l.isZero then (x.acc.map (fun _ => (Fp.zero, false)), .inf true)
  else (x.acc.map (fun a => (a.1.div x.l, a.2 || x.sat)), x.m.add (Fp.via Config.log2 x.l))

/-- Row `i` of head `h`: `keys` the open keys of each live block, `base` the number of its first sum. -/
def State.forwardRow (s : State) (r : Running) (a : Attn) (rung : Nat) (sp : Span) (b h i base : Nat) (keys : List (List Nat)) :
    List (Fp × Bool) × Fp :=
  let f := attnFormat rung false
  let q := match r.slot 0 with
    | some o => toAttn f (s.attnRow r.p o.t a.d i h b)
    | none => []
  let row := fun (value : Bool) (j : Nat) => toAttn f (s.kvStored r a sp value b (h / a.group) j)
  (keys.foldl (fun (x : RowRun) js =>
    if js.isEmpty then x else x.block rung a.c q (js.map (row false)) (js.map (row true)))
    ⟨.inf true, Fp.zero, List.replicate a.d (Fp.zero, false), false, base⟩).result

/-! ### What a share touches -/

/-- One head of one batch element with one query block of a share. -/
structure AttnCell where
  b : Nat
  h : Nat
  sp : Span
  x : QueryBlock

/-- The cells of a share (R183), batch element outermost. -/
def State.attnCells (s : State) (r : Running) (a : Attn) (i : Nat) : List AttnCell :=
  let sh := a.shareOf r.task.coreCount i
  let m := (r.operand a.mask).map (·.t)
  (List.range a.batch).flatMap (fun b =>
    let sp := s.span r a b
    let qs := (List.range sh.2.2).map (fun k => s.queryBlock r.p a m sp (sh.2.1 + k))
    (List.range sh.1.2).flatMap (fun k => qs.map (fun x => ⟨b, sh.1.1 + k, sp, x⟩)))

/-- The key blocks that the cells read, as batch element, KV head and block: once per query block of a KV head (R183), or
with `once` once in all (R187). -/
def keyBlocks (a : Attn) (cells : List AttnCell) (once : Bool) : List (Nat × Nat × Nat) :=
  ((cells.flatMap (fun c => c.x.live.map (fun y => (if once then 0 else c.x.qb, c.b, c.h / a.group, y.1)))).eraseDups).map
    (·.2)

/-- The runs of K or V that a key block covers in a non-paged task. -/
def Attn.keyRuns (a : Attn) (t : Tensor) (x : Nat × Nat × Nat) : List Run :=
  ((List.range 128).map (· + 128 * x.2.2)).filterMap (fun j =>
    if j < a.nk then some (attnRun t a.d j x.2.1 x.1) else none)

/-- The runs of a tensor shaped as Q that a cell's present rows cover. -/
def Attn.queryRuns (a : Attn) (t : Tensor) (c : AttnCell) : List Run :=
  (a.rowsOf c.sp c.x.qb).map (fun i => attnRun t a.d i c.h c.b)

/-- Reads of K and V, block by block, and of the mask tensor, whole. -/
def Running.keyReads (r : Running) (a : Attn) (cells : List AttnCell) (once : Bool) : List (Operand × List Run) :=
  let kv := if a.paged then [] else
    (keyBlocks a cells once).flatMap (fun x => ((r.slot 1).toList ++ (r.slot 2).toList).map (fun o => (o, a.keyRuns o.t x)))
  kv ++ (r.operand a.mask).toList.map (fun o => (o, [(⟨0, o.t.dim 0⟩ : Run)]))

/-- Reads of the rows of a cell from tensors shaped as Q. -/
def Attn.cellReads (a : Attn) (c : AttnCell) (os : List (Option Operand)) : List (Operand × List Run) :=
  os.filterMap (fun o => o.map (fun o => (o, a.queryRuns o.t c)))

/-- The reads of a share of op 0x0003 (R183, R185). -/
def Running.forwardReads (r : Running) (a : Attn) (cells : List AttnCell) : List (Operand × List Run) :=
  cells.flatMap (fun c => a.cellReads c [r.slot 0]) ++ r.keyReads a cells false

/-- The reads of a share of op 0x0004 (R187, R189): O and dO for D, Q and dO per live block, K and V per key block. -/
def Running.backwardReads (r : Running) (a : Attn) (cells : List AttnCell) : List (Operand × List Run) :=
  let o := r.operand a.o
  let dO := r.operand a.dO
  cells.flatMap (fun c => a.cellReads c [o, dO] ++ c.x.live.flatMap (fun _ => a.cellReads c [r.slot 0, dO])) ++
    r.keyReads a cells true

/-- A stored row of a page that the cells read holds a non-finite element (R136). -/
def State.badPages (s : State) (r : Running) (a : Attn) (cells : List AttnCell) : Bool :=
  a.paged && (keyBlocks a cells true).any (fun x =>
    let sp := s.span r a x.1
    (((List.range 128).map (· + 128 * x.2.2)).filter (fun j => decide (j < sp.keys))).any (fun j =>
      [false, true].any (fun v => (s.kvStored r a sp v x.1 x.2.1 j).any (fun e => !e.finite))))

/-- The attention counters and the events of a share (R179, R180, R204). -/
def State.attnCounts (s : State) (c : Nat) (r : Running) (cells : List AttnCell) : State :=
  let total := fun (f : QueryBlock → Nat) => (cells.map (fun k => f k.x)).sum
  let bad := total (·.bad)
  let dropped := total (·.dropped)
  let s := s.count (Ctr.coreAttnBlocksCount c) (total (fun x => x.live.length))
  let s := s.count (Ctr.coreAttnSkippedCount c) (total (·.skipped))
  let s := s.count (Ctr.coreAttnDroppedCount c) dropped
  let s := s.count (Ctr.coreMaskErrorCount c) bad
  let s := if bad = 0 then s else s.raiseOnce c Ev.attnMaskError { object := r.t }
  if dropped = 0 then s else s.raiseOnce c Ev.attnBlocksDropped { object := r.t, value := dropped }

/-! ### Append (R199, R200) -/

/-- The core writes the new keys and values of its KV heads into the pages of every context of the task. -/
def State.appendKv (s : State) (c : Nat) (r : Running) (a : Attn) : State :=
  if !(a.paged && a.append) then s
  else match r.slot 1, r.slot 2, r.plan.kvLayers[a.kvLayer]? with
    | some k, some v, some l =>
      let sh := (a.shareOf r.task.coreCount (r.coreIndex c)).1
      let gs := ((List.range sh.2).map (fun x => (sh.1 + x) / a.group)).eraseDups
      (List.range a.batch).foldl (fun s b =>
        let sp := s.span r a b
        gs.foldl (fun s g => (List.range sp.rows).foldl (fun s i =>
          let j := (s.ctx sp.ctx).length + i
          let s := s.putKvRow sp.ctx a.kvLayer l false j g (s.attnRow r.p k.t a.d i g b)
          s.putKvRow sp.ctx a.kvLayer l true j g (s.attnRow r.p v.t a.d i g b)) s) s) s
    | _, _, _ => s

/-- Reads of new keys and values by an append. -/
def Running.appendReads (r : Running) (a : Attn) (c : Nat) : List (Operand × List Run) :=
  if !(a.paged && a.append) then []
  else
    let sh := (a.shareOf r.task.coreCount (r.coreIndex c)).1
    let gs := ((List.range sh.2).map (fun x => (sh.1 + x) / a.group)).eraseDups
    ((r.slot 1).toList ++ (r.slot 2).toList).map (fun o =>
      (o, (List.range a.batch).flatMap (fun b => gs.flatMap (fun g =>
        (List.range a.nq).map (fun i => attnRun o.t a.d i g b)))))

/-! ### The forward task -/

/-- Sums numbered for one row of a span. -/
def Attn.sumsPerRow (a : Attn) (sp : Span) : Nat := sp.keys + (a.d + 1) * ceilDiv sp.keys 128

/-- The largest of them among the cells. -/
def Attn.sumsMax (a : Attn) (cells : List AttnCell) : Nat := (cells.map (fun c => a.sumsPerRow c.sp)).foldl max 0

/-- A computed row: its cell, its number, its values and its lse. -/
abbrev AttnRow := AttnCell × Nat × (List (Fp × Bool) × Fp)

/-- The rows of the cells, each with its number. -/
def State.forwardRows (s : State) (r : Running) (a : Attn) (rung : Nat) (cells : List AttnCell) :
    List AttnRow :=
  cells.zipIdx.flatMap (fun c =>
    (a.rowsOf c.1.sp c.1.x.qb).map (fun i =>
      let base := s.freeCtr + (c.2 * 128 + i % 128) * a.sumsMax cells
      (c.1, i, s.forwardRow r a rung c.1.sp c.1.b c.1.h i base (c.1.x.keysOf i))))

/-- ATTENTION_FORWARD (R175 to R183). -/
def doAttentionForward (core : Nat) (s : State) : State :=
  match s.runningOn core with
  | none => s
  | some r =>
    if r.task.op ≠ 0x0003 then s
    else match r.slot 0, r.slot 3 with
      | some _, some out =>
        let a := r.task.attn
        let rung := s.effRung r.task
        let tk := s.takeFrames core r
        let s := tk.2
        if r.usesEmpty || a.idle r.task.coreCount (r.coreIndex core) then s.endTask core r 0 false
        else
          let ap := s.loadAll r (r.appendReads a core)
          let s := ap.1.appendKv core r a
          let cells := s.attnCells r a (r.coreIndex core)
          let rows := s.forwardRows r a rung cells
          let badPage := s.badPages r a cells
          let ld := s.loadAll r (r.forwardReads a cells)
          let ps := rows.map (fun (x : AttnRow) => markedRow out.t a.d x.2.1 x.1.h x.1.b 0 x.2.2.1)
          let hits := (ps.map (fun (x : Marked) => out.t.pieceHits x.1 x.2)).sum
          let s := ld.1.store r.p out.t (ps.map (·.1))
          let s := match if a.writeLse then r.operand a.lse else none with
            | some o => s.store r.p o.t (rows.map (fun (x : AttnRow) => ⟨o.t.bitOffset [x.2.1, x.1.h, x.1.b], [x.2.2.2]⟩))
            | none => s
          let s := s.attnCounts core r cells
          let s := s.count (Ctr.coreEmptyRowCount core) (rows.filter (fun (x : AttnRow) => (x.1.x.keysOf x.2.1).all List.isEmpty)).length
          let used := cells.length * 128 * a.sumsMax cells
          (s.useFree used).endTask core r hits (ap.2 || ld.2 || badPage)
      | _, _ => s.endTask core r 0 false

/-! ### The backward task (R187, R188) -/

/-- One score of the backward pass: row, key, p and ds in the rung's formats, and whether a contributing operand
saturated. -/
structure BackScore where
  i : Nat
  j : Nat
  p : Fp
  ds : Fp
  satP : Bool
  sat : Bool

/-- What a core keeps of the rows of one head and batch element: D, and the rows in the rung's formats. -/
structure BackRows where
  q : Nat → List (Fp × Bool)
  dO : Nat → List (Fp × Bool)
  k : Nat → List (Fp × Bool)
  v : Nat → List (Fp × Bool)
  lse : Nat → Fp
  dSum : Nat → Fp

/-- The format in which O enters D (R174): BF16 at rung 2; rung 1 names no format for O, which enters in FP32 there (DEDUCED,
log entry 52). -/
def backOFormat (rung : Nat) : DType := if rung = 2 then .bf16 else .fp32

/-- The rows of head `h`, batch element `b`; the sums that make D are numbered from `base`. -/
def State.backRows (s : State) (r : Running) (a : Attn) (rung b h base : Nat) : BackRows :=
  let sp := s.span r a b
  let row := fun (o : Option Operand) (i : Nat) => match o with
    | some x => s.attnRow r.p x.t a.d i h b
    | none => []
  { q := fun i => toAttn (attnFormat rung false) (row (r.slot 0) i)
    dO := fun i => toAttn (attnFormat rung true) (row (r.operand a.dO) i)
    k := fun j => toAttn (attnFormat rung false) (s.kvStored r a sp false b (h / a.group) j)
    v := fun j => toAttn (attnFormat rung false) (s.kvStored r a sp true b (h / a.group) j)
    lse := fun i => match r.operand a.lse with
      | some o => s.elem r.p o.t [i, h, b]
      | none => .inf true
    dSum := fun i => dot (base + i) (vals (toAttn (attnFormat rung true) (row (r.operand a.dO) i)))
      (vals (toAttn (backOFormat rung) (row (r.operand a.o) i))) }

/-- The score of row `i` and key `j`. -/
def BackRows.score (x : BackRows) (a : Attn) (rung i j key : Nat) : BackScore :=
  let q := x.q i
  let k := x.k j
  let sc := (dot key (vals q) (vals k)).mul a.c
  let p := match x.lse i with
    | .inf true => Fp.zero
    | l => exp2Fp (sc.sub l)
  let dp := dot (key + 1) (vals (x.dO i)) (vals (x.v j))
  let ds := toAttn (attnFormat rung true) [(a.scale.mul p).mul (dp.sub (x.dSum i))]
  let pc := toAttn (attnFormat rung false) [p]
  let satP := satAny q || satAny k || satAny pc
  ⟨i, j, (vals pc).headD Fp.zero, (vals ds).headD Fp.zero, satP,
   satP || satAny ds || satAny (x.dO i) || satAny (x.v j)⟩

/-- The scores of one head that its live blocks leave open: per key block, per query block that has it live. -/
def backScores (a : Attn) (rung : Nat) (x : BackRows) (blocks : List QueryBlock) (keys kb base : Nat) : List (List BackScore) :=
  blocks.filterMap (fun qb => (qb.live.find? (fun y => y.1 == kb)).map (fun y =>
    y.2.flatMap (fun row => row.2.map (fun j => x.score a rung row.1 j (base + 2 * (row.1 * keys + j))))))

/-- Column `e` of a row. -/
def colAt (xs : List (Fp × Bool)) (e : Nat) : Fp × Bool := (xs[e]?).getD (Fp.zero, false)

/-- dK or dV of key `j`, column `e`, from one head: the products of each query block are added in turn. -/
def keyGrad (key e j : Nat) (w : BackScore → Fp × Bool) (rows : Nat → List (Fp × Bool)) (sc : List (List BackScore)) : Fp × Bool :=
  sc.zipIdx.foldl (fun (acc : Fp × Bool) b =>
    let mine := b.1.filter (fun y => y.j == j)
    (acc.1.add (dot (key + b.2) (mine.map (fun y => (w y).1)) (mine.map (fun y => (colAt (rows y.i) e).1))),
     acc.2 || mine.any (fun y => (w y).2 || (colAt (rows y.i) e).2))) (Fp.zero, false)

/-- The scratch value of row `i`, column `e`: over the key blocks in ascending order. -/
def rowGrad (key e i : Nat) (k : Nat → List (Fp × Bool)) (sc : List (List (List BackScore))) : Fp × Bool :=
  sc.zipIdx.foldl (fun (acc : Fp × Bool) b =>
    let mine := b.1.flatten.filter (fun y => y.i == i)
    if mine.isEmpty then acc
    else
      (acc.1.add (dot (key + b.2) (mine.map (·.ds)) (mine.map (fun y => (colAt (k y.j) e).1))),
       acc.2 || mine.any (fun y => y.sat || (colAt (k y.j) e).2))) (Fp.zero, false)

/-- What the backward pass of one KV head and batch element gives: rows of dQ, dK, dV and of the scratch tensor. -/
structure BackOut where
  dQ : List Marked
  dK : List Marked
  dV : List Marked
  scratch : List Piece

/-- The backward pass of KV head `g` of batch element `b` over its query heads. -/
def State.backHead (s : State) (r : Running) (a : Attn) (rung b g base : Nat) (k : Int) (cells : List AttnCell)
    (q dk dv scr : Tensor) : BackOut :=
  let sp := s.span r a b
  let hs := ((cells.filter (fun c => c.b == b && c.h / a.group == g)).map (·.h)).eraseDups
  let blocks := (cells.filter (fun c => c.b == b && hs.headD 0 == c.h)).map (·.x)
  let kbs := (List.range (ceilDiv sp.keys 128)).filter (fun kb => blocks.any (fun x => x.live.any (fun y => y.1 == kb)))
  let per := hs.zipIdx.map (fun h =>
    let bs := base + h.2 * (2 * (a.nq + 1) * (sp.keys + 1) + a.nq * (a.d + 2) * (kbs.length + 1))
    let x := s.backRows r a rung b h.1 bs
    (h.1, bs, x, kbs.map (fun kb => backScores a rung x blocks sp.keys kb (bs + a.nq))))
  let grad := fun (dt : Tensor) (w : BackScore → Fp × Bool) (rows : BackRows → Nat → List (Fp × Bool)) =>
    kbs.zipIdx.flatMap (fun kb =>
      (((List.range 128).map (· + 128 * kb.1)).filter (fun j => decide (j < sp.keys))).map (fun j =>
        markedRow dt a.d j g b k ((List.range a.d).map (fun e =>
          let parts := per.map (fun p => keyGrad (p.2.1 + j * a.d + e) e j w (rows p.2.2.1) ((p.2.2.2[kb.2]?).getD []))
          (Fp.sum (base + e) (vals parts), satAny parts)))))
  let rowVals := fun (p : Nat × Nat × BackRows × List (List (List BackScore))) (i : Nat) =>
    (List.range a.d).map (fun e => rowGrad (p.2.1 + i * a.d + e) e i p.2.2.1.k p.2.2.2)
  { dQ := per.flatMap (fun p => (List.range a.nq).map (fun i =>
      markedRow q a.d i p.1 b k (if i < sp.rows then rowVals p i else List.replicate a.d (Fp.zero, false))))
    dK := grad dk (fun y => (y.ds, y.sat)) (·.q)
    dV := grad dv (fun y => (y.p, y.satP)) (·.dO)
    scratch := per.flatMap (fun p => (List.range (min a.nq sp.rows)).map (fun i =>
      ⟨scr.bitOffset [0, i, p.1, b], vals (rowVals p i) ++ [p.2.2.1.dSum i]⟩)) }

/-- Store marked pieces as a gradient of the task's layer; the state and the hits. -/
def State.storeGrad (s : State) (r : Running) (t : Tensor) (xs : List Marked) : Nat × State :=
  let ps := xs.map (·.1)
  ((xs.map (fun x => t.pieceHits x.1 x.2)).sum, (s.store r.p t ps).recordGrad r t (ps.map Piece.run))

/-- ATTENTION_BACKWARD (R186 to R188). -/
def doAttentionBackward (core : Nat) (s : State) : State :=
  match s.runningOn core with
  | none => s
  | some r =>
    if r.task.op ≠ 0x0004 then s
    else
      let a := r.task.attn
      match r.slot 0, r.slot 3, r.operand a.dK, r.operand a.dV, r.operand a.scratch with
      | some _, some out, some dk, some dv, some scr =>
        let rung := s.effRung r.task
        let tk := s.takeFrames core r
        let s := tk.2
        if r.usesEmpty || a.idle r.task.coreCount (r.coreIndex core) then s.endTask core r 0 false
        else
          let cells := s.attnCells r a (r.coreIndex core)
          let groups := (cells.map (fun c => (c.b, c.h / a.group))).eraseDups
          let size := a.group * (2 * (a.nq + 1) * (a.nk + 1) + a.nq * (a.d + 2) * (ceilDiv a.nk 128 + 1)) + a.d
          let k := s.gradShift r.task a.srcLayer
          let outs := groups.zipIdx.map (fun x =>
            s.backHead r a rung x.1.1 x.1.2 (s.freeCtr + x.2 * size) k cells out.t dk.t dv.t scr.t)
          let ld := s.loadAll r (r.backwardReads a cells)
          let s := ld.1.store r.p scr.t (outs.flatMap (·.scratch))
          let x1 := s.storeGrad r out.t (outs.flatMap (·.dQ))
          let x2 := x1.2.storeGrad r dk.t (outs.flatMap (·.dK))
          let x3 := x2.2.storeGrad r dv.t (outs.flatMap (·.dV))
          let s := x3.2.attnCounts core r cells
          (s.useFree (groups.length * size)).endTask core r (x1.1 + x2.1 + x3.1) ld.2
      | _, _, _, _, _ => s.endTask core r 0 false

end Sys2Proof.Machine
end

