-- ==== Sys2Proof/Machine/Experts.lean ====
section
/-! DEFINITION. Expert dispatch and variant fine-tuning (R206 to R226): the capacity table, the adapter table, the
exchange layouts and tallies, routing, combining, and their backward forms. -/

namespace Sys2Proof.Machine

/-! ### The capacity table (R207, R208) -/

/-- An entry of the capacity table. -/
structure ExpertLayer where
  experts : Nat
  k : Nat
  score : Nat
  flags : Nat
  dtype : Nat
  reserved : Nat
  d : Nat
  sources : Nat
  capacityAt : Nat
  placementAt : Nat
  sourceAt : Nat
  reserved2 : Nat
  deriving DecidableEq, Repr

/-- Read an entry (R207). -/
def ExpertLayer.ofBytes (b : List Byte) : ExpertLayer :=
  ⟨fieldAt b 0 2, fieldAt b 2 1, fieldAt b 3 1, fieldAt b 4 1, fieldAt b 5 1, fieldAt b 6 2, fieldAt b 8 4, fieldAt b 12 4,
   fieldAt b 16 4, fieldAt b 20 4, fieldAt b 24 4, fieldAt b 28 4⟩

/-- The entries of a capacity table. -/
def expertLayers (sec : List Byte) : List ExpertLayer := (records sec 16 32 (fieldAt sec 0 2)).map ExpertLayer.ofBytes

/-- Gates are normalised over the chosen experts. -/
def ExpertLayer.normalised (x : ExpertLayer) : Bool := bitAt x.flags 0 == 1
/-- A selection bias is in use. -/
def ExpertLayer.biased (x : ExpertLayer) : Bool := bitAt x.flags 1 == 1

/-- An expert as placed: its number, its host, its local number, and its quota q_e (R207, R208). -/
structure Placed where
  e : Nat
  host : Nat
  loc : Nat
  quota : Nat
  deriving DecidableEq, Repr

/-- The capacity C_e of expert `e`. -/
def ExpertLayer.capacity (x : ExpertLayer) (sec : List Byte) (e : Nat) : Nat := fieldAt sec (x.capacityAt + 4 * e) 4

/-- The placed experts of a layer. -/
def ExpertLayer.placed (x : ExpertLayer) (sec : List Byte) : List Placed :=
  (List.range x.experts).map (fun e =>
    let w := fieldAt sec (x.placementAt + 4 * e) 4
    ⟨e, bitsAt w 0 20, bitsAt w 20 12, x.capacity sec e / max 1 x.sources⟩)

/-- The source positions of a layer. -/
def ExpertLayer.sourceList (x : ExpertLayer) (sec : List Byte) : List Nat :=
  (List.range x.sources).map (fun i => bitsAt (fieldAt sec (x.sourceAt + 4 * i) 4) 0 20)

/-- The host positions of placed experts, ascending. -/
def hostsOf (ps : List Placed) : List Nat := sortBy id ((ps.map (·.host)).eraseDups)

/-- The experts of a host in local order. -/
def expertsAt (ps : List Placed) (h : Nat) : List Placed := sortBy (·.loc) (ps.filter (fun p => p.host == h))

/-- Bytes of one row. -/
def ExpertLayer.rowBytes (x : ExpertLayer) : Nat := x.d * ((DType.ofCode x.dtype).getD .bf16).bits / 8

/-- Bytes of a host's chunk (R212), with or without its tallies. -/
def chunkBytes (row : Nat) (ps : List Placed) (h : Nat) (tallies : Bool) : Nat :=
  let es := expertsAt ps h
  (es.map (·.quota)).sum * row + if tallies then 64 * es.length else 0

/-- Byte offset of the chunk of host `h`. -/
def chunkOffset (row : Nat) (ps : List Placed) (h : Nat) (tallies : Bool) : Nat :=
  (((hostsOf ps).filter (· < h)).map (fun x => chunkBytes row ps x tallies)).sum

/-- Byte offset of row `pos` of expert `e` in a send or return buffer (R212). -/
def rowPlace (row : Nat) (ps : List Placed) (e pos : Nat) (tallies : Bool) : Nat :=
  match ps.find? (fun p => p.e == e) with
  | none => 0
  | some p => chunkOffset row ps p.host tallies +
      (((expertsAt ps p.host).filter (fun q => decide (q.loc < p.loc))).map (·.quota)).sum * row + pos * row

/-- Byte offset of the tally of expert `e` in a send buffer (R212). -/
def tallyPlace (row : Nat) (ps : List Placed) (e : Nat) : Nat :=
  match ps.find? (fun p => p.e == e) with
  | none => 0
  | some p => chunkOffset row ps p.host true + ((expertsAt ps p.host).map (·.quota)).sum * row + 64 * p.loc

/-- The sub-quota of core `i` of `n`: first row and rows (R208). -/
def subQuota (q n i : Nat) : Nat × Nat := (i * (q / n) + min i (q % n), q / n + if i < q % n then 1 else 0)

/-! ### The adapter table (R222) -/

/-- An adapter set. -/
structure AdapterSet where
  variant : Nat
  rank : Nat
  capacity : Nat
  scale : Nat
  groupA : Nat
  groupB : Nat
  reservedZero : Bool
  deriving DecidableEq, Repr

/-- Read a set entry. -/
def AdapterSet.ofBytes (b : List Byte) : AdapterSet :=
  ⟨fieldAt b 0 2, fieldAt b 2 2, fieldAt b 4 4, fieldAt b 8 4, fieldAt b 12 4, fieldAt b 16 4, zeroAt b 20 12⟩

/-- The entries of an adapter table. -/
def adapterSets (sec : List Byte) : List AdapterSet := (records sec 16 32 (fieldAt sec 0 2)).map AdapterSet.ofBytes

/-! ### Rows of buffers -/

/-- A row of a buffer or of a tensor: a view and the run within it. -/
abbrev RowRef := Tensor × Run

/-- The row of `d` elements of type `dtype` at byte `off` of a rank-1 buffer. -/
def bufferRow (t : Tensor) (dtype d off : Nat) : RowRef :=
  ({ t with base := t.base + off, dtype := dtype, rank := 1, dims := [d], strides := [] }, ⟨0, d⟩)

/-- Row `i` of a rank-2 tensor. -/
def tensorRow (t : Tensor) (i : Nat) : RowRef := (t, ⟨t.bitOffset [0, i], t.dim 0⟩)

/-- The FP32 values of a row. -/
def State.rowFp (s : State) (p : Nat) (x : RowRef) : List Fp := s.runFp p x.1 x.2

/-- Copy a row in its stored type; rows of different storage go through their values. -/
def State.copyRow (s : State) (p : Nat) (src dst : RowRef) : State :=
  if src.1.grain || dst.1.grain || src.1.dtype != dst.1.dtype then
    s.store p dst.1 [⟨dst.2.off, s.runValues p src.1 src.2⟩]
  else
    let w := src.1.type.bits
    let codes := (List.range src.2.n).map (fun i => s.elemBits p src.1 (src.2.off + i * w))
    let scales := if src.1.type.isMx then (List.range (ceilDiv src.2.n 32)).map (fun b =>
        (dst.1.base + dst.1.scaleOffsetOf (dst.1.coordsAt (dst.2.off + 32 * b * w)),
         s.storedByte p src.1 (src.1.scaleOffsetOf (src.1.coordsAt (src.2.off + 32 * b * w))))) else []
    scales.foldl (fun s x => s.writeSpace p dst.1.space x.1 [x.2]) (s.putBits p dst.1 dst.2.off codes)

/-- Write zeros into a row. -/
def State.zeroRow (s : State) (p : Nat) (dst : RowRef) : State :=
  s.store p dst.1 [⟨dst.2.off, List.replicate dst.2.n Fp.zero⟩]

/-- The operand of a row view, for its load. -/
def Operand.viewed (o : Operand) (x : RowRef) : Operand × List Run := (⟨o.idx, x.1⟩, [x.2])

/-! ### The task's layer and its buffers -/

/-- What a task of op 0x000A or 0x000B works on: the exchange layout of an expert layer, or the rows of adapter sets. -/
structure Exchange where
  variant : Bool
  index : Nat
  layer : ExpertLayer
  placed : List Placed
  sets : List AdapterSet
  k : Nat
  tokens : Nat
  n : Nat
  i : Nat

/-- The exchange of a task on core `c`. -/
def Running.exchange (r : Running) (c : Nat) : Exchange :=
  let variant := bitAt r.task.mode 1 == 1
  let idx := r.task.par 2 2
  let sec := r.plan.section 5
  let layer := ((expertLayers sec)[idx]?).getD (ExpertLayer.ofBytes [])
  { variant := variant, index := idx, layer := layer, placed := if variant then [] else layer.placed sec
    sets := ((adapterSets (r.plan.section 6)).drop idx).take (r.task.par 4 2)
    k := if variant then 1 else layer.k, tokens := r.task.par 8 4, n := r.task.coreCount, i := r.coreIndex c }

/-- The tokens of the core (R208): ceil(T / n) × i up to min(T, ceil(T / n) × (i + 1)) - 1. -/
def Exchange.mine (x : Exchange) : List Nat :=
  let sh := shareOf x.tokens x.n x.i
  (List.range sh.2).map (· + sh.1)

/-- The quota of expert or set `e`: q_e, or the capacity c. -/
def Exchange.quota (x : Exchange) (e : Nat) : Nat :=
  if x.variant then ((x.sets[e]?).map AdapterSet.capacity).getD 0
  else ((x.placed.find? (fun p => p.e == e)).map (fun p => p.quota)).getD 0

/-- Experts or sets of the task. -/
def Exchange.count (x : Exchange) : Nat := if x.variant then x.sets.length else x.layer.experts

/-- Row `pos` of expert or set `e` in a buffer (R212, R223); `tallies` where the buffer is a send buffer. -/
def Exchange.row (x : Exchange) (t : Tensor) (e pos : Nat) (tallies : Bool) : RowRef :=
  if x.variant then tensorRow t (e * x.quota 0 + pos)
  else bufferRow t x.layer.dtype x.layer.d (rowPlace x.layer.rowBytes x.placed e pos tallies)

/-- A choice of the route record (R211): token, choice index, expert or set, whether accepted, position, gate. -/
structure Choice where
  t : Nat
  j : Nat
  e : Nat
  accepted : Bool
  pos : Nat
  gate : Fp
  deriving DecidableEq, Repr

/-- The two words of a choice. -/
def Choice.words (x : Choice) : Nat × Nat :=
  (x.e % 2 ^ 12 + (if x.accepted then 2 ^ 12 else 0) + x.j % 8 * 2 ^ 13 + (if x.accepted then x.pos % 2 ^ 16 * 2 ^ 16 else 0),
   x.gate.bits32)

/-- Write choices into the route record. -/
def State.writeChoices (s : State) (p : Nat) (t : Tensor) (xs : List Choice) : State :=
  xs.foldl (fun s x =>
    (s.putBits p t (t.bitOffset [2 * x.j, x.t]) [x.words.1]).putBits p t (t.bitOffset [2 * x.j + 1, x.t]) [x.words.2]) s

/-- Read the choices of a token from the route record. -/
def State.readChoices (s : State) (p : Nat) (o : Operand) (k t : Nat) : List Choice :=
  (List.range k).map (fun j =>
    let w := (s.elemInt p o.t [2 * j, t]).toNat
    ⟨t, j, bitsAt w 0 12, bitAt w 12 == 1, bitsAt w 16 16, Fp.of32 (s.elemInt p o.t [2 * j + 1, t]).toNat⟩)

/-- The accepted choices of the core's tokens. -/
def State.acceptedOf (s : State) (p : Nat) (x : Exchange) (rec : Operand) : List (Nat × List Choice) :=
  x.mine.map (fun t => (t, (s.readChoices p rec x.k t).filter (·.accepted)))

/-! ### Routing (R209, R210) -/

/-- Indices of the `k` largest scores in descending order; equal scores go to the lower index, NaN is never chosen. -/
def topK (xs : List Fp) : Nat → List Nat
  | 0 => []
  | k + 1 =>
    let done := topK xs k
    let best := xs.zipIdx.foldl (fun (b : Option (Fp × Nat)) x =>
      if x.1.isNan || done.contains x.2 then b
      else match b with
        | none => some x
        | some y => if y.1.lt x.1 then some x else b) none
    match best with
    | none => done
    | some b => done ++ [b.2]

/-- The probabilities of a token from its logits (R209). -/
def ExpertLayer.probs (x : ExpertLayer) (key : Nat) (z : List Fp) : List Fp :=
  if x.score = 1 then softMax key z
  else z.map (fun v => (Fp.one.div (Fp.one.add (Fp.via Config.exp v.neg))).to32)

/-- The gates of chosen probabilities (R209). -/
def ExpertLayer.gates (x : ExpertLayer) (key : Nat) (ps : List Fp) : List Fp :=
  if x.normalised then let sum := Fp.sum key ps; ps.map (fun p => (p.div sum).to32) else ps

/-- The choices of a token before capacity is applied; a replay makes them again (R225). -/
def State.choose (s : State) (r : Running) (x : Exchange) (t : Nat) : List Choice :=
  let key := s.heldKey r + 2 * t
  let z := (r.slot 1).toList.flatMap (fun o => s.rowFp r.p (tensorRow o.t t))
  let p := x.layer.probs key z
  let b := if x.layer.biased then (r.slot 2).toList.flatMap (fun o => s.runFp r.p o.t ⟨0, o.t.dim 0⟩) else []
  let sel := p.zipIdx.map (fun v => if x.layer.biased then v.1.add ((b[v.2]?).getD Fp.zero) else v.1)
  let es := topK sel x.k
  let gs := x.layer.gates (key + 1) (es.map (fun e => (p[e]?).getD Fp.zero))
  (es.zip gs).zipIdx.map (fun y => ⟨t, y.2, y.1.1, false, 0, y.1.2⟩)

/-- Admit choices in the given order against the core's sub-quotas (R210). -/
def Exchange.admitWith (x : Exchange) (cs : List Choice) : List Choice :=
  (cs.foldl (fun (acc : List Choice × List (Nat × Nat)) ch =>
    let used := (lookup acc.2 ch.e).getD 0
    let sq := subQuota (x.quota ch.e) x.n x.i
    if used < sq.2 then
      (acc.1 ++ [{ ch with accepted := true, pos := sq.1 + used }], insertKey acc.2 ch.e (used + 1))
    else (acc.1 ++ [ch], acc.2)) ([], [])).1

/-- Choices in admission order: by choice index, and within one by token. -/
def byChoice (k : Nat) (cs : List Choice) : List Choice := (List.range k).flatMap (fun j => cs.filter (fun c => c.j == j))

/-! ### What every writer of a send buffer does (R212, R213) -/

/-- Zero every row of the core's sub-quotas that no choice of `cs` took. -/
def State.zeroFill (s : State) (p : Nat) (x : Exchange) (t : Tensor) (cs : List Choice) : State :=
  (List.range x.count).foldl (fun s e =>
    let sq := subQuota (x.quota e) x.n x.i
    ((List.range sq.2).map (· + sq.1)).foldl (fun s pos =>
      if cs.any (fun c => c.accepted && c.e == e && c.pos == pos) then s else s.zeroRow p (x.row t e pos true)) s) s

/-- The tally of expert `p` that the first core writes, its count words left out (R213). -/
def State.tallyTail (s : State) (r : Running) (x : Exchange) (q : Placed) (direction : Nat) : List Byte :=
  leBytes s.position 4 ++ leBytes x.index 2 ++ leBytes q.loc 2 ++ leBytes direction 1 ++ leBytes 0 3 ++
    leBytes ((s.part r.p).step % 2 ^ 32) 4 ++ leBytes r.task.exposure 2 ++ leBytes 0 14

/-- Write the tallies of a send buffer: each core its count word, the first core the rest. -/
def State.writeTallies (s : State) (r : Running) (x : Exchange) (t : Tensor) (cs : List Choice) (direction : Nat) : State :=
  if x.variant then s
  else x.placed.foldl (fun s q =>
    let a := t.base + tallyPlace x.layer.rowBytes x.placed q.e
    let n := (cs.filter (fun c => c.accepted && c.e == q.e)).length
    let s := s.writeSpace r.p t.space (a + 4 * x.i) (leBytes n 4)
    if x.i = 0 then
      (s.writeSpace r.p t.space (a + 4 * x.n) (List.replicate (32 - 4 * x.n) 0)).writeSpace r.p t.space (a + 32)
        (s.tallyTail r x q direction)
    else s) s

/-! ### Forward dispatch (R210, R223) -/

/-- The load statistics of a core (R217): choices made and accepted for each expert. -/
def State.writeLoads (s : State) (p : Nat) (x : Exchange) (t : Tensor) (cs : List Choice) : State :=
  (List.range x.layer.experts).foldl (fun s e =>
    let mine := cs.filter (fun c => c.e == e)
    (s.putBits p t (t.bitOffset [0, e, x.i]) [mine.length]).putBits p t (t.bitOffset [1, e, x.i])
      [(mine.filter (·.accepted)).length]) s

/-- Choices that overflowed are counted, and the first of a step raised (R210). -/
def State.noteOverflow (s : State) (c : Nat) (x : Exchange) (cs : List Choice) : State :=
  let above := cs.filter (fun ch => !ch.accepted)
  match above.head?, above.getLast? with
  | some a, some z =>
    let s := (s.count (Ctr.coreChoiceOverflowCount c) above.length).raiseOnce c Ev.expertOverflow
      { object := x.index, value := a.e }
    ((s.set (Reg.coreDspLastOverflow_expert c) z.e).set (Reg.coreDspLastOverflow_layer c) x.index).set
      (Reg.coreDspLastOverflow_valid c) 1
  | _, _ => s

/-- Record words of the choices a token did not make: nothing accepted, the rest open and numbered from `key` (log entry
4). -/
def Exchange.missingChoices (x : Exchange) (key : Nat) (made : List Choice) : List Choice :=
  x.mine.flatMap (fun t =>
    let m := (made.filter (fun c => c.t == t)).length
    ((List.range (x.k - m)).map (· + m)).map (fun j =>
      ⟨t, j, (Config.free 12 (key + 2 * (t * x.k + j))).toNat, false, 0,
       Fp.of32 (Config.free 32 (key + 2 * (t * x.k + j) + 1)).toNat⟩))

/-- Gates that the route record holds as FP32 and that are NaN or infinite are hits of a task in a layer (R133, R206). -/
def Exchange.gateHits (_ : Exchange) (cs : List Choice) : Nat := (cs.filter (fun c => !c.gate.finite)).length

/-- What a forward dispatch reads. -/
def Running.dispatchReads (r : Running) (x : Exchange) : List (Operand × List Run) :=
  let rows := fun (o : Operand) => (o, x.mine.map (fun t => (tensorRow o.t t).2))
  ((r.slot 0).toList ++ if x.variant then [] else (r.slot 1).toList).map rows ++
    (if x.variant then (r.slot 1).toList.map (fun o => (o, x.mine.map (fun t => (⟨t * o.t.type.bits, 1⟩ : Run))))
     else (if x.layer.biased then (r.slot 2).toList else []).map (fun o => (o, o.t.rowRuns)))

/-- A task of op `op` and mode `mode` on core `c` runs `f`, unless a tensor of it is empty (R91). -/
def State.exchangeTask (s : State) (c op mode : Nat) (f : State → Running → Exchange → Operand → State) : State :=
  match s.runningOn c with
  | none => s
  | some r =>
    if r.task.op ≠ op ∨ r.task.mode ≠ mode then s
    else
      let s := (s.takeFrames c r).2
      let x := r.exchange c
      match r.operand (r.task.par 12 4) with
      | none => s.endTask c r 0 false
      | some rec =>
        if r.usesEmpty then s.endTask c r 0 false
        else f s r x rec

/-- EXPERT_DISPATCH (R209 to R213). -/
def doExpertDispatch (core : Nat) (s : State) : State :=
  s.exchangeTask core 0x000A 0x01 (fun s r x rec =>
    match r.slot 0, r.slot 3 with
    | some rows, some out =>
      let ld := s.loadAll r (r.dispatchReads x)
      let made := x.mine.flatMap (fun t => s.choose r x t)
      let cs := x.admitWith (byChoice x.k made)
      let s := cs.foldl (fun s c => if c.accepted then s.copyRow r.p (tensorRow rows.t c.t) (x.row out.t c.e c.pos true) else s) ld.1
      let s := (s.zeroFill r.p x out.t cs).writeTallies r x out.t cs 1
      let s := (s.writeChoices r.p rec.t cs).writeChoices r.p rec.t (x.missingChoices (s.heldKey r) made)
      let s := if bitAt (r.task.par 1 1) 0 = 1 then
          (r.operand (r.task.par 16 4)).elim s (fun o => s.writeLoads r.p x o.t cs) else s
      let s := (s.noteOverflow core x cs).count (Ctr.coreTokensRoutedCount core) x.mine.length
      let alone := x.mine.filter (fun t => !cs.any (fun c => c.t == t && c.accepted))
      let s := s.count (Ctr.coreResidualOnlyCount core) alone.length
      s.endTask core r (x.k * x.mine.length - made.length + x.gateHits cs) ld.2
    | _, _ => s.endTask core r 0 false)

/-- The case of a row in a variant dispatch (R223): the mask code, and the set where one has the variant. -/
def Exchange.setOf (x : Exchange) (wide : Bool) (v : Nat) : Option (Option Nat) :=
  if v = (if wide then 0xFFFFFFFF else 0xFFFF) then none
  else some ((x.sets.zipIdx.find? (fun y => y.1.variant == v)).map (·.2))

/-- VARIANT_DISPATCH (R223, R224). -/
def doVariantDispatch (core : Nat) (s : State) : State :=
  s.exchangeTask core 0x000A 0x02 (fun s r x rec =>
    match r.slot 0, r.slot 1, r.slot 3 with
    | some rows, some vs, some out =>
      let ld := s.loadAll r (r.dispatchReads x)
      let vOf := fun (t : Nat) => (s.elemInt r.p vs.t [t]).toNat
      let setAt := fun (t : Nat) => x.setOf (vs.t.type == .uint32) (vOf t)
      let scale := fun (e : Nat) => Fp.of32 (((x.sets[e]?).map AdapterSet.scale).getD 0)
      let cs := x.admitWith (x.mine.filterMap (fun t => (setAt t).join.map (fun e => (⟨t, 0, e, false, 0, scale e⟩ : Choice))))
      let above := cs.filter (fun c => !c.accepted)
      let unserved := x.mine.filter (fun t => setAt t == some none)
      let mask := fun (t : Nat) => match setAt t with
        | none => 1
        | some none => 3
        | some (some _) => if cs.any (fun c => c.t == t && c.accepted) then 0 else 2
      let s := cs.foldl (fun s c => if c.accepted then s.copyRow r.p (tensorRow rows.t c.t) (x.row out.t c.e c.pos true) else s) ld.1
      let s := s.zeroFill r.p x out.t cs
      let s := (s.writeChoices r.p rec.t cs).writeChoices r.p rec.t (x.missingChoices (s.heldKey r) cs)
      let s := (r.operand (r.task.par 16 4)).elim s (fun o =>
        x.mine.foldl (fun s t => s.putBits r.p o.t (t * 8) [mask t]) s)
      let s := s.count (Ctr.coreVariantRowsCount core) (cs.filter (·.accepted)).length
      let s := match above.head? with
        | none => s
        | some c => (s.count (Ctr.coreVariantOverflowCount core) above.length).raiseOnce core Ev.variantOverflow { object := x.index + c.e }
      let s := match unserved.head? with
        | none => s
        | some t => (s.count (Ctr.coreVariantUnservedCount core) unserved.length).raiseOnce core Ev.variantUnserved { object := vOf t }
      let touched := ((cs.filter (·.accepted)).map (fun c => x.index + c.e)).eraseDups
      let s := s.modPart r.p (fun q => { q with
        touchedSets := q.touchedSets ++ touched.filter (fun e => !q.touchedSets.contains e) })
      s.endTask core r 0 ld.2
    | _, _, _ => s.endTask core r 0 false)

/-! ### Combine (R214, R223) -/

/-- The rows of buffer `o` that accepted choices name. -/
def Exchange.views (x : Exchange) (o : Operand) (acc : List (Nat × List Choice)) (tallies : Bool) : List (Operand × List Run) :=
  acc.flatMap (fun a => a.2.map (fun c => o.viewed (x.row o.t c.e c.pos tallies)))

/-- Write rows of a tensor shaped as the tokens, test them, and record gradients of the task's layer. -/
def State.putRows (s : State) (r : Running) (t : Tensor) (backward : Bool) (rows : List (Nat × List Fp)) : Nat × State :=
  let ps := rows.map (fun x => (⟨(tensorRow t x.1).2.off, x.2⟩ : Piece))
  let s := s.store r.p t ps
  ((ps.map (fun x => t.pieceHits x [])).sum, if backward then s.recordGrad r t (ps.map Piece.run) else s)

/-- A forward combine of either kind: y_t = r_t + Σ gate × ret (R214, R223). -/
def State.combine (s : State) (core mode : Nat) : State :=
  s.exchangeTask core 0x000B mode (fun s r x rec =>
    match r.slot 0, r.slot 3 with
    | some ret, some out =>
      let acc := s.acceptedOf r.p x rec
      let res := (r.slot 1).toList.map (fun o => (o, x.mine.map (fun t => (tensorRow o.t t).2)))
      let ld := s.loadAll r (x.views ret acc false ++ res)
      let rows := acc.map (fun a =>
        let base := match r.slot 1 with
          | some o => s.rowFp r.p (tensorRow o.t a.1)
          | none => List.replicate (out.t.dim 0) Fp.zero
        let terms := a.2.map (fun c => (s.rowFp r.p (x.row ret.t c.e c.pos false)).map (c.gate.mul))
        (a.1, base.zipIdx.map (fun b =>
          Fp.sumFrom (s.freeCtr + a.1 * out.t.dim 0 + b.2) b.1 (terms.map (fun v => (v[b.2]?).getD Fp.zero)))))
      let w := ld.1.putRows r out.t false rows
      (w.2.useFree (x.tokens * out.t.dim 0)).endTask core r w.1 ld.2
    | _, _ => s.endTask core r 0 false)

/-- EXPERT_COMBINE (R214). -/
def doExpertCombine (core : Nat) (s : State) : State := s.combine core 0x01

/-- VARIANT_COMBINE (R223). -/
def doVariantCombine (core : Nat) (s : State) : State := s.combine core 0x02

/-! ### The backward forms (R215) -/

/-- Combine backward of either kind: dgate for an expert layer, and the gated gradient rows with zero fill. -/
def State.combineBack (s : State) (core mode : Nat) : State :=
  s.exchangeTask core 0x000B mode (fun s r x rec =>
    match r.slot 0, r.slot 3 with
    | some dy, some out =>
      let k := s.gradShift r.task (r.task.par 6 2)
      let acc := s.acceptedOf r.p x rec
      let fwd := if x.variant then none else r.slot 1
      let ld := s.loadAll r ((dy, x.mine.map (fun t => (tensorRow dy.t t).2)) ::
        fwd.toList.flatMap (fun o => x.views o acc false))
      let dgates := fwd.toList.flatMap (fun o => x.mine.flatMap (fun t =>
        (s.readChoices r.p rec x.k t).map (fun c =>
          (t, c.j, if c.accepted then
            (Fp.sum (s.freeCtr + t * x.k + c.j) (((s.rowFp r.p (tensorRow dy.t t)).zip (s.rowFp r.p (x.row o.t c.e c.pos false))).map
              (fun y => y.1.mul y.2))).scaled k
           else Fp.zero))))
      let all := acc.flatMap (·.2)
      let rows := all.map (fun c =>
        let v := x.row out.t c.e c.pos true
        (v.1, (⟨v.2.off, (s.rowFp r.p (tensorRow dy.t c.t)).map (fun y => (c.gate.mul y).scaled k)⟩ : Piece)))
      let s := rows.foldl (fun s y => s.store r.p y.1 [y.2]) ld.1
      let s := (s.zeroFill r.p x out.t all).writeTallies r x out.t all 2
      let dps := match r.operand (r.task.par 16 4) with
        | some o => dgates.map (fun d => (o.t, (⟨o.t.bitOffset [d.2.1, d.1], [d.2.2]⟩ : Piece)))
        | none => []
      let s := dps.foldl (fun s y => s.store r.p y.1 [y.2]) s
      let s := (rows ++ dps).foldl (fun s y => s.recordGrad r y.1 [y.2.run]) s
      let hits := ((rows ++ dps).map (fun y => y.1.pieceHits y.2 [])).sum
      (s.useFree (x.tokens * x.k)).endTask core r hits ld.2
    | _, _ => s.endTask core r 0 false)

/-- EXPERT_COMBINE_BACKWARD (R215). -/
def doExpertCombineBackward (core : Nat) (s : State) : State := s.combineBack core 0x81

/-- VARIANT_COMBINE_BACKWARD (R215, R223). -/
def doVariantCombineBackward (core : Nat) (s : State) : State := s.combineBack core 0x82

/-- The gradient of the gate formula with respect to the logits (R215): `cs` the made choices, `dg` their dgate. -/
def ExpertLayer.logitGrads (x : ExpertLayer) (key : Nat) (z : List Fp) (cs : List Choice) (dg : List Fp) : List Fp :=
  let p := x.probs key z
  let at_ := fun (e : Nat) => (p[e]?).getD Fp.zero
  let sum := Fp.sum (key + 1) (cs.map (fun c => at_ c.e))
  let mix := Fp.sum (key + 2) ((cs.zip dg).map (fun y => y.2.mul ((at_ y.1.e).div sum).to32))
  let dp := (List.range p.length).map (fun e => match (cs.zip dg).find? (fun y => y.1.e == e) with
    | none => Fp.zero
    | some y => if x.normalised then ((y.2.sub mix).div sum).to32 else y.2)
  if x.score = 1 then
    let inner := Fp.sum (key + 3) ((dp.zip p).map (fun y => y.1.mul y.2))
    (dp.zip p).map (fun y => y.2.mul (y.1.sub inner))
  else (dp.zip p).map (fun y => (y.1.mul y.2).mul (Fp.one.sub y.2))

/-- The dlogits rows of an expert dispatch backward: dgate enters with the factor of aux_src_layer (R215). -/
def State.dlogits (s : State) (r : Running) (x : Exchange) (rec : Operand) : List (Nat × List Fp) :=
  match r.slot 1, r.slot 2 with
  | some lg, some dg =>
    let k := s.gradShift r.task (r.task.par 20 2)
    x.mine.map (fun t =>
      let cs := (s.readChoices r.p rec x.k t)
      let g := (s.rowFp r.p (tensorRow dg.t t)).map (fun v => v.scaled k)
      (t, x.layer.logitGrads (s.freeCtr + x.tokens * x.layer.d + 4 * t) (s.rowFp r.p (tensorRow lg.t t)) cs g))
  | _, _ => []

/-- Dispatch backward of either kind: dx_t, and dlogits for an expert layer. -/
def State.dispatchBack (s : State) (core mode : Nat) : State :=
  s.exchangeTask core 0x000A mode (fun s r x rec =>
    match r.slot 0, r.slot 3 with
    | some ret, some out =>
      let k := s.gradShift r.task (r.task.par 6 2)
      let acc := s.acceptedOf r.p x rec
      let more := (if x.variant then [] else (r.slot 1).toList ++ (r.slot 2).toList).map (fun o =>
        (o, x.mine.map (fun t => (tensorRow o.t t).2)))
      let ld := s.loadAll r (x.views ret acc false ++ more)
      let dx := acc.map (fun a =>
        let terms := a.2.map (fun c => s.rowFp r.p (x.row ret.t c.e c.pos false))
        (a.1, (List.range (out.t.dim 0)).map (fun e =>
          (Fp.sumFrom (s.freeCtr + a.1 * x.layer.d + e) Fp.zero (terms.map (fun v => (v[e]?).getD Fp.zero))).scaled k)))
      let dl := if x.variant then [] else s.dlogits r x rec
      let w := ld.1.putRows r out.t true dx
      let w2 := match if x.variant then none else r.operand (r.task.par 16 4) with
        | some o => w.2.putRows r o.t true dl
        | none => (0, w.2)
      (w2.2.useFree (x.tokens * (x.layer.d + 4))).endTask core r (w.1 + w2.1) ld.2
    | _, _ => s.endTask core r 0 false)

/-- EXPERT_DISPATCH_BACKWARD (R215). -/
def doExpertDispatchBackward (core : Nat) (s : State) : State := s.dispatchBack core 0x81

/-- VARIANT_DISPATCH_BACKWARD (R215, R223). -/
def doVariantDispatchBackward (core : Nat) (s : State) : State := s.dispatchBack core 0x82

/-! ### Touched experts (R221) -/

/-- A tally of a received forward chunk sets the touch bit of its local expert. -/
def State.touchTally (s : State) (p : Nat) (tally : List Byte) : State :=
  let counts := ((List.range 8).map (fun i => fieldAt tally (4 * i) 4)).sum
  let key := 4096 * fieldAt tally 36 2 + fieldAt tally 38 2
  if fieldAt tally 40 1 ≠ 1 ∨ counts = 0 then s
  else s.modPart p (fun q => { q with
    touchedExperts := if q.touchedExperts.contains key then q.touchedExperts else q.touchedExperts ++ [key] })

end Sys2Proof.Machine
end

