-- ==== Sys2Proof/Machine/Convolution.lean ====
section
/-! DEFINITION. Convolution on a core (R227 to R238): the parameter block, the taps of an element, the packed groups and
their shares, the dilation shortcut, and stripes with their halos. -/

namespace Sys2Proof.Machine

/-! ### The parameter block (R229) -/

/-- The parameter block of op 0x0005; triples are in the order w, h, t. -/
structure Conv where
  dir : Nat
  spatial : Nat
  form : Nat
  flags : Nat
  kernel : List Nat
  stride : List Nat
  dil : List Nat
  before : List Nat
  after : List Nat
  pad : Fp
  groups : Nat
  group : Nat
  srcLayer : Nat
  addendLayer : Nat
  stripeRows : Nat
  stripeIndex : Nat
  stripeCount : Nat
  deriving DecidableEq, Repr

/-- Read the parameter block; in two dimensions nothing lies along t, and no padding there counts (R228). -/
def Task.conv (t : Task) : Conv :=
  let third := fun (off : Nat) => if t.par 1 1 = 2 then 0 else t.par off 2
  ⟨t.par 0 1, t.par 1 1, t.par 2 1, t.par 3 1, [t.par 5 1, t.par 6 1, t.par 7 1], [t.par 8 1, t.par 9 1, t.par 10 1],
   [t.par 12 4, t.par 16 4, t.par 20 4], [t.par 24 2, t.par 26 2, third 28], [t.par 30 2, t.par 32 2, third 34],
   Fp.of32 (t.par 36 4), t.par 40 4, t.par 44 4, t.par 48 2, t.par 50 2, t.par 52 2, t.par 54 2, t.par 56 2⟩

/-- Component `d` of a triple. -/
def at3 (xs : List Nat) (d : Nat) : Nat := (xs[d]?).getD 1

/-- A fused addend from slot 2. -/
def Conv.addend (v : Conv) : Bool := bitAt v.flags 0 == 1
/-- Long-sum accumulation. -/
def Conv.longSum (v : Conv) : Bool := bitAt v.flags 1 == 1
/-- The vector engine (R233). -/
def Conv.vector (v : Conv) : Bool := bitAt v.flags 2 == 1
/-- Directions 2 and 3 write gradients. -/
def Conv.backward (v : Conv) : Bool := v.dir != 1

/-- Coordinates of an activation (R227): width, height, time, channel, sample. -/
structure Place where
  w : Nat
  h : Nat
  t : Nat
  c : Nat
  n : Nat
  deriving DecidableEq, Repr

/-- The coordinates in the tensor's dimensions. -/
def Conv.act (v : Conv) (x : Place) : List Nat := if v.spatial = 2 then [x.w, x.h, x.c, x.n] else [x.w, x.h, x.t, x.c, x.n]

/-- Filter coordinates of output channel `n` and tap (u, v, t) of input channel `c` in group `g`. -/
def Conv.fil (v : Conv) (n : Nat) (tap : List Nat) (c g : Nat) : List Nat :=
  [n, at3 tap 0, at3 tap 1] ++ (if v.spatial = 2 then [] else [at3 tap 2]) ++ [c, g]

/-- Extents of an activation tensor: W, H, T. -/
def Conv.extents (v : Conv) (t : Tensor) : List Nat := [t.dim 0, t.dim 1, if v.spatial = 2 then 1 else t.dim 2]
/-- Samples of an activation tensor. -/
def Conv.samples (v : Conv) (t : Tensor) : Nat := t.dim (if v.spatial = 2 then 3 else 4)
/-- Output channels of one group: N_g. -/
def Conv.ng (f : Tensor) : Nat := f.dim 0
/-- Input channels of one group. -/
def Conv.cg (v : Conv) (f : Tensor) : Nat := f.dim (if v.spatial = 2 then 3 else 4)

/-- The taps (u, v, t) of the kernel, u innermost. -/
def Conv.taps (v : Conv) : List (List Nat) :=
  (List.range (at3 v.kernel 2)).flatMap (fun t => (List.range (at3 v.kernel 1)).flatMap (fun y =>
    (List.range (at3 v.kernel 0)).map (fun x => [x, y, t])))

/-- The centre tap. -/
def Conv.centre (v : Conv) : List Nat := v.kernel.map (fun k => (k - 1) / 2)

/-- The output extent of R228 along one dimension. -/
def convOut (i pb pa dil k s : Nat) : Nat :=
  if i + pb + pa < dil * (k - 1) + 1 then 0 else (i + pb + pa - dil * (k - 1) - 1) / s + 1

/-- The input coordinate of output coordinate `o` at tap coordinate `j` along dimension `d` (R228). -/
def Conv.inAt (v : Conv) (d o j : Nat) : Int := (o * at3 v.stride d + j * at3 v.dil d : Nat) - (at3 v.before d : Nat)

/-- A coordinate inside 0..n - 1. -/
def inside (i : Int) (n : Nat) : Option Nat := if 0 ≤ i ∧ i < n then some i.toNat else none

/-- The input place of an output place at a tap; `none` in the padding. -/
def Conv.tapOf (v : Conv) (ext : List Nat) (o : Place) (c : Nat) (tap : List Nat) : Option Place :=
  match inside (v.inAt 0 o.w (at3 tap 0)) (at3 ext 0), inside (v.inAt 1 o.h (at3 tap 1)) (at3 ext 1),
      inside (v.inAt 2 o.t (at3 tap 2)) (at3 ext 2) with
  | some w, some h, some t => some ⟨w, h, t, c, o.n⟩
  | _, _, _ => none

/-- The output coordinate whose tap `j` reads input coordinate `i` along dimension `d`, inside an extent of `n`. -/
def Conv.outAt (v : Conv) (d i j n : Nat) : Option Nat :=
  let x : Int := (i + at3 v.before d : Nat) - (j * at3 v.dil d : Nat)
  if x % (at3 v.stride d : Nat) = 0 then inside (x / (at3 v.stride d : Nat)) n else none

/-- The output place whose tap reads an input place, if one does. -/
def Conv.backOf (v : Conv) (ext : List Nat) (i : Place) (c : Nat) (tap : List Nat) : Option Place :=
  match v.outAt 0 i.w (at3 tap 0) (at3 ext 0), v.outAt 1 i.h (at3 tap 1) (at3 ext 1), v.outAt 2 i.t (at3 tap 2) (at3 ext 2) with
  | some w, some h, some t => some ⟨w, h, t, c, i.n⟩
  | _, _, _ => none

/-- The convolution runs as a 1 × 1 product (R234). -/
def Conv.shortcut (v : Conv) (inExt outExt : List Nat) : Bool :=
  (List.range 3).all (fun d =>
    let k := at3 v.kernel d
    decide (k ≤ 1) || (k % 2 == 1 && decide (at3 inExt d ≤ at3 v.dil d) &&
      (List.range (at3 outExt d)).all (fun o => (inside (v.inAt d o ((k - 1) / 2)) (at3 inExt d)).isSome)))

/-! ### Stripes and halos (R235 to R237) -/

/-- Rows of the output that the task computes: first and count (R235). -/
def Conv.stripe (v : Conv) (h : Nat) : Nat × Nat :=
  if v.stripeRows = 0 then (0, h)
  else (min h (v.stripeIndex * v.stripeRows), min h ((v.stripeIndex + 1) * v.stripeRows) - min h (v.stripeIndex * v.stripeRows))

/-- The stripe's own input rows: first and end. -/
def Conv.ownRows (v : Conv) (h : Nat) : Nat × Nat :=
  (min h (v.stripeIndex * v.stripeRows * at3 v.stride 1), min h ((v.stripeIndex + 1) * v.stripeRows * at3 v.stride 1))

/-- Halo rows above and below: h_a and h_b. -/
def Conv.haloRows (v : Conv) : Nat × Nat :=
  let k := at3 v.kernel 1
  let reach := (k - 1) * at3 v.dil 1
  let pb := at3 v.before 1
  if v.dir = 1 then (pb, reach + 1 - pb - at3 v.stride 1) else (reach - pb, pb)

/-- The input rows of a halo: first and count; side 0 above, 1 below. Rows in the padding are not carried. -/
def Conv.halo (v : Conv) (h side : Nat) : Nat × Nat :=
  let own := v.ownRows h
  if side = 0 then let lo := own.1 - v.haloRows.1; (lo, own.1 - lo)
  else (own.2, min h (own.2 + v.haloRows.2) - own.2)

/-- Byte offset in a halo of row `h` of the activation lines: the tensor's order with the rows restricted. -/
def haloOffset (t : Tensor) (first count : Nat) (c : List Nat) : Nat :=
  let outer := t.index (0 :: 0 :: c.drop 2) / (t.dim 0 * t.dim 1)
  (outer * count + (((c)[1]?).getD 0 - first)) * t.rowBytes

/-- The bytes of a halo taken from a tensor: the element bits of each row. -/
def State.haloBytes (s : State) (p : Nat) (t : Tensor) (first count : Nat) : List Byte :=
  let outer := t.count / (t.dim 0 * t.dim 1)
  (List.range outer).flatMap (fun k => (List.range count).flatMap (fun r =>
    let c := 0 :: (first + r) :: (t.coords (k * (t.dim 0 * t.dim 1))).drop 2
    if t.grain then
      let codes := (List.range (t.dim 0)).map (fun w => t.type.encodeElem (grainValue t.type (s.grainElem p t (w :: c.drop 1))))
      leBytes (codes.foldr (fun x acc => x % 2 ^ t.type.bits + 2 ^ t.type.bits * acc) 0) t.rowBytes
    else (List.range t.rowBytes).map (fun i => s.storedByte p t (t.rowOffset c + i))))

/-- Entries of a queue that carry bytes, the last filled with zeros (R236). -/
def entriesOf (bytes : List Byte) (size n : Nat) : List QueueItem :=
  (List.range n).map (fun i =>
    let b := (bytes.drop (size * i)).take size
    ⟨b ++ List.replicate (size - b.length) 0, b.length⟩)

/-- The direct successor of stripe task `i` of graph `g` that reads halo queue `q`, and the side it reads on. -/
def Plan.haloReader (pl : Plan) (g i q : Nat) : Option (Task × Nat) :=
  (pl.successors g i).findSome? (fun x =>
    if !x.2.haloIn.contains q then none else some (x.2, if x.2.par 60 2 = q then 0 else 1))

/-- A stripe task writes its halos into its halo_out queues (R237): the rows that the reading stripe needs. Once the plan is
withdrawn, halos not yet written are never written (R238). -/
def State.writeHalos (s : State) (p : Nat) (pl : Plan) (g i : Nat) (t : Task) : State :=
  if !s.admitted p then s
  else t.haloOut.foldl (fun s q =>
    match pl.haloReader g i q, pl.queue q, (pl.graph g).bind (fun gr => gr.slotTensor t 3) with
    | some rd, some e, some out =>
      let h := rd.1.conv.halo (out.dim 1) rd.2
      let items := entriesOf (s.haloBytes p out h.1 h.2) e.entryBytes e.writes
      (items.foldl (fun s i => s.writeQueue p q i) s).count (Ctr.coreHaloEntriesCount t.coreFirst) items.length
    | _, _, _ => s) s

/-- A stripe task takes its halo entries into the core's line-buffer window at its start, once in a step (R237, R238); a
blank frame carries zeros (R120), and no credit goes back before the task completes. -/
def State.takeHalos (s : State) (c : Nat) (r : Running) : State :=
  let key := taskKey r.g r.t
  if (s.core c).window.any (fun x => x.1 == key) then s
  else [0, 1].foldl (fun s side =>
    let q := r.task.par (60 + 2 * side) 2
    if !r.task.haloIn.contains q then s
    else match r.plan.queue q with
      | none => s
      | some e =>
        let rd := s.readQueueN r.p q c false e.reads
        let bytes := rd.1.flatMap (fun i => (i.map (·.payload)).getD (List.replicate e.entryBytes 0))
        rd.2.modCore c (fun k => { k with window := k.window ++ [(key, side, bytes)] })) s

/-- A completed stripe task returns the credits of its halo entries, once (R237, R238). -/
def State.payHalos (s : State) (p : Nat) (pl : Plan) (g i : Nat) (t : Task) : State :=
  let key := taskKey g i
  t.haloIn.foldl (fun s q =>
    if (s.core t.coreFirst).paid.contains (key, q) then s
    else
      let n := ((pl.queue q).map (·.reads)).getD 0
      { s with credits := s.credits ++ List.replicate n (⟨p, q⟩ : Credit) }.modCore t.coreFirst (fun k => { k with
        paid := k.paid ++ [(key, q)] })) s

/-- The halo side whose window at core `c` carries this row of the streamed tensor, if one does. -/
def State.windowSide (s : State) (c : Nat) (r : Running) (v : Conv) (t : Tensor) (row : Nat) : Option (Nat × List Byte) :=
  ((s.core c).window.find? (fun e => e.1 == taskKey r.g r.t &&
    (let h := v.halo (t.dim 1) e.2.1; decide (h.1 ≤ row ∧ row < h.1 + h.2)))).map (·.2)

/-- The value of an input element of a stripe task: from its window where a halo carries the row, else from slot 0. -/
def State.convElem (s : State) (c : Nat) (r : Running) (v : Conv) (t : Tensor) (x : List Nat) : Fp :=
  match s.windowSide c r v t ((x[1]?).getD 0) with
  | none => s.elem r.p t x
  | some (side, bytes) =>
    let h := v.halo (t.dim 1) side
    let off := 8 * haloOffset t h.1 h.2 x + (x[0]?).getD 0 * t.type.bits
    let n := (off % 8 + t.type.bits + 7) / 8
    let val := t.type.decodeElem (bitsAt (fieldAt bytes (off / 8) n) (off % 8) t.type.bits)
    if t.type.isMx then applyScale (s.storedByte r.p t (t.scaleOffsetOf x)).toNat val else val

/-! ### The reduction of an element -/

/-- The three tensors of a convolution in their roles. -/
structure ConvTensors where
  x : Tensor
  f : Tensor
  y : Tensor

/-- The tensors of a task by direction (R227). -/
def Running.convTensors (r : Running) (v : Conv) : Option ConvTensors :=
  match r.slot 0, r.slot 1, r.slot 3 with
  | some a, some b, some o =>
    some (if v.dir = 1 then ⟨a.t, b.t, o.t⟩ else if v.dir = 2 then ⟨o.t, b.t, a.t⟩ else ⟨b.t, o.t, a.t⟩)
  | _, _, _ => none

/-- One term of an element's reduction: where its streaming element lies, or the padding, and where its stationary
element lies, or a zero of the packed load (R232). -/
structure Term where
  stream : Option (List Nat)
  stat : Option (List Nat)
  deriving DecidableEq, Repr

/-- The term as the columns of another group of a packed set meet it: their stationary elements are zero (R232). -/
def Term.other (t : Term) : Term := { t with stat := none }

/-- The terms of output channel `n` of group `g` at an output place, in the order of R227. -/
def Conv.forwardTerms (v : Conv) (z : ConvTensors) (taps : List (List Nat)) (o : Place) (g n : Nat) : List Term :=
  (List.range (v.cg z.f)).flatMap (fun c => taps.map (fun tap =>
    ⟨(v.tapOf (v.extents z.x) o (g * v.cg z.f + c) tap).map v.act, some (v.fil n tap c g)⟩))

/-- The terms of input channel `c` of group `g` at an input place. -/
def Conv.dataTerms (v : Conv) (z : ConvTensors) (taps : List (List Nat)) (i : Place) (g c : Nat) : List Term :=
  (List.range (Conv.ng z.f)).flatMap (fun n => taps.filterMap (fun tap =>
    (v.backOf (v.extents z.y) i (g * Conv.ng z.f + n) tap).map (fun o => ⟨some (v.act o), some (v.fil n tap c g)⟩)))

/-- Every place of an activation tensor, width innermost, for channel `c`. -/
def Conv.places (v : Conv) (t : Tensor) (c : Nat) : List Place :=
  let e := v.extents t
  (List.range (v.samples t)).flatMap (fun n => (List.range (at3 e 2)).flatMap (fun k =>
    (List.range (at3 e 1)).flatMap (fun h => (List.range (at3 e 0)).map (fun w => ⟨w, h, k, c, n⟩))))

/-- The terms of the weight of a tap of input channel `c`, output channel `n` and group `g`. -/
def Conv.weightTerms (v : Conv) (z : ConvTensors) (g n c : Nat) (tap : List Nat) : List Term :=
  (v.places z.y (g * Conv.ng z.f + n)).map (fun o =>
    ⟨(v.tapOf (v.extents z.x) o (g * v.cg z.f + c) tap).map v.act, some (v.act o)⟩)

/-- What a convolution share computes with: G_p groups packed (R232), the rows R of its form, its k tile, and whether it
runs as a 1 × 1 product (R234). -/
structure ConvRun where
  v : Conv
  z : ConvTensors
  rung : Nat
  gp : Nat
  rowsR : Nat
  kTile : Nat
  shortcut : Bool

/-- The share runs on the vector unit (R129, R233). -/
def ConvRun.onVector (k : ConvRun) : Bool := k.v.vector || k.rung == 3

/-- The streaming and stationary tensors of a direction. -/
def ConvRun.operands (k : ConvRun) : Tensor × Tensor :=
  if k.v.dir = 1 then (k.z.x, k.z.f) else if k.v.dir = 2 then (k.z.y, k.z.f) else (k.z.x, k.z.y)

/-- The rung's formats of the streaming and stationary operands (R128). -/
def ConvRun.formats (k : ConvRun) : DType × DType :=
  let o := k.operands
  (rungFormat k.rung o.1.type (k.v.dir == 2), rungFormat k.rung o.2.type (k.v.dir == 3))

/-- κ of the operands (R100). -/
def ConvRun.kappa (k : ConvRun) : Nat := (kappaRho k.formats.1 k.formats.2).1

/-- The passes of a reduction of `n` terms (R100, R102). -/
def ConvRun.passes (k : ConvRun) (n : Nat) : List (Nat × Nat) := Sys2Proof.Machine.passes n k.kTile (k.kappa * k.rowsR)

/-- The contribution of terms, with whether an operand of its row or column saturated. -/
def State.convContribution (s : State) (c : Nat) (r : Running) (k : ConvRun) (ts : List Term) : Contribution × Bool :=
  let o := k.operands
  let f := k.formats
  let a := ts.map (fun t => match t.stream with
    | some x => s.convElem c r k.v o.1 x
    | none => k.v.pad)
  let b := ts.map (fun t => match t.stat with
    | some x => s.elem r.p o.2 x
    | none => Fp.zero)
  let scale := if k.v.backward then s.gradShift r.task k.v.srcLayer else 0
  (⟨toRung o.1.type f.1 a, toRung o.2.type f.2 b, k.kappa, k.passes ts.length, scale⟩,
   rungSaturates o.1.type f.1 a || rungSaturates o.2.type f.2 b)

/-- One output element: its coordinates, its terms, the coordinates that the off-centre sum of R234 adds up, and its output
channel. -/
structure ConvElement where
  at_ : List Nat
  terms : List Term
  off : List (List Nat)
  channel : Nat

/-- The initial value of an element: the fused addend in FP32 (R229, R231). -/
def State.convAddend (s : State) (r : Running) (v : Conv) (e : ConvElement) : Fp :=
  if !v.addend then Fp.zero
  else match r.slot 2 with
    | none => Fp.zero
    | some o =>
      let at_ := if v.dir = 1 && o.t.rank == 1 then [e.channel] else e.at_
      (s.elem r.p o.t at_).to32.scaled (if v.backward then s.gradShift r.task v.addendLayer else 0)

/-- pad_value × the off-centre sum of R234, formed in FP32, with the gradient factor of a backward task. -/
def State.offCentre (s : State) (r : Running) (k : ConvRun) (e : ConvElement) : Fp :=
  let sum := Fp.sum s.freeCtr (e.off.map (fun x => (s.elem r.p k.operands.2 x).to32))
  (k.v.pad.mul sum).scaled (if k.v.backward then s.gradShift r.task k.v.srcLayer else 0)

/-- The value of an element in FP32 before its conversion, with whether a contributing operand saturated; `key` numbers its
sums and `draw` its first draw. -/
def State.convValue (s : State) (c : Nat) (r : Running) (k : ConvRun) (e : ConvElement) (key draw : Nat) : Fp × Bool :=
  let x := s.convContribution c r k e.terms
  let init := s.convAddend r k.v e
  let v := if k.onVector then vectorElement key init [x.1]
    else accumulate key k.v.longSum (fun i => s.draw (s.part r.p).step c (draw + i)) init (x.1.sums (key + 1))
  (if e.off.isEmpty then v else v.add (s.offCentre r k e), x.2)

/-! ### The elements of a share -/

/-- Groups packed into one stationary load (R232). -/
def packed (groups k n kr w : Nat) : Nat :=
  if k = 0 ∨ n = 0 then 1 else if k ≤ kr ∧ n ≤ w then max 1 (min groups (min (kr / k) (w / n))) else 1

/-- The block as it is counted: with the centre tap alone under R234. -/
def Conv.reduced (v : Conv) (shortcut : Bool) : Conv := if shortcut then { v with kernel := [1, 1, 1] } else v

/-- Terms of one channel of the reduction in directions 1 and 2 (R230). -/
def Conv.perChannel (v : Conv) : Nat :=
  if v.dir = 1 then v.kernel.foldl (· * ·) 1
  else ((List.range 3).map (fun d => ceilDiv (at3 v.kernel d) (at3 v.stride d))).foldl (· * ·) 1

/-- M, K'_g and N'_g of a task (R230). -/
def Conv.mkn (v : Conv) (z : ConvTensors) : Nat × Nat × Nat :=
  let out := if v.dir = 1 then z.y else z.x
  let e := v.extents out
  let pixels := v.samples out * at3 e 2 * (v.stripe (at3 e 1)).2 * at3 e 0
  if v.dir = 1 then (pixels, v.cg z.f * v.perChannel, Conv.ng z.f)
  else if v.dir = 2 then (pixels, Conv.ng z.f * v.perChannel, v.cg z.f)
  else (v.cg z.f * v.kernel.foldl (· * ·) 1, v.samples z.y * (v.extents z.y).foldl (· * ·) 1, Conv.ng z.f)

/-- The output place of pixel `m` of the task, width innermost. -/
def Conv.pixel (v : Conv) (out : Tensor) (m : Nat) : Place :=
  let e := v.extents out
  let st := v.stripe (at3 e 1)
  ⟨m % at3 e 0, st.1 + m / at3 e 0 % st.2, m / at3 e 0 / st.2 % at3 e 2, 0, m / at3 e 0 / st.2 / at3 e 2⟩

/-- The taps that a share computes with: the centre alone under R234. -/
def ConvRun.taps (k : ConvRun) : List (List Nat) := if k.shortcut then [k.v.centre] else k.v.taps

/-- The taps off the centre that R234 sums: none where pad_value is zero. -/
def ConvRun.offTaps (k : ConvRun) : List (List Nat) :=
  if k.shortcut && !k.v.pad.isZero then k.v.taps.filter (· != k.v.centre) else []

/-- The groups of packed set `set`. -/
def ConvRun.groupsOf (k : ConvRun) (set : Nat) : List Nat :=
  ((List.range k.gp).map (· + set * k.gp)).filter (fun g => decide (g < k.v.groups))

/-- The packed row of a set as the column of group `g` meets it (R232): the terms of every group of the set. -/
def ConvRun.packedTerms (k : ConvRun) (set g : Nat) (f : Nat → List Term) : List Term :=
  (k.groupsOf set).flatMap (fun j => if j = g then f j else (f j).map Term.other)

/-- Element (m, col) of packed set `set` in directions 1 and 2; columns of groups past the last are none. -/
def ConvRun.element (k : ConvRun) (set m col : Nat) : Option ConvElement :=
  let v := k.v
  let z := k.z
  let w := if v.dir = 1 then Conv.ng z.f else v.cg z.f
  let g := set * k.gp + col / w
  let n := col % w
  if v.groups ≤ g then none
  else if v.dir = 1 then
    let o := { v.pixel z.y m with c := g * w + n }
    some ⟨v.act o, k.packedTerms set g (fun j => v.forwardTerms z k.taps o j n),
      k.offTaps.flatMap (fun tap => (List.range (v.cg z.f)).map (fun c => v.fil n tap c g)), g * w + n⟩
  else
    let i := { v.pixel z.x m with c := g * w + n }
    some ⟨v.act i, k.packedTerms set g (fun j => v.dataTerms z k.taps i j n), [], g * w + n⟩

/-- The weight of output channel `n` at a tap of input channel `c` in group `g` (direction 3): off the centre under R234
it takes the sum of dy over the outputs of its channel. -/
def ConvRun.weight (k : ConvRun) (g n c : Nat) (tap : List Nat) : ConvElement :=
  let v := k.v
  if k.shortcut && tap != v.centre then
    ⟨v.fil n tap c g, [],
      if k.v.pad.isZero then [] else (v.places k.z.y (g * Conv.ng k.z.f + n)).map v.act, n⟩
  else ⟨v.fil n tap c g, v.weightTerms k.z g n c tap, [], n⟩

/-- The weights that row `m` of direction 3 writes: one tap of a channel, or under R234 every tap of channel `m`. -/
def ConvRun.weightsOf (k : ConvRun) (m : Nat) : List (Nat × List Nat) :=
  if k.shortcut then k.v.taps.map (fun tap => (m, tap))
  else [(m / k.v.taps.length, (k.v.taps[m % k.v.taps.length]?).getD [])]

/-- A share of one set as lines of elements along dimension 0 of the output. -/
def ConvRun.lines (k : ConvRun) (set : Nat) (sh : Share) : List (List ConvElement) :=
  let rows := (List.range sh.rows.2).map (· + sh.rows.1)
  let cols := (List.range sh.cols.2).map (· + sh.cols.1)
  if k.v.dir = 3 then
    rows.flatMap (fun m => (k.weightsOf m).map (fun x => cols.map (fun n => k.weight set n x.1 x.2)))
  else
    let w := at3 (k.v.extents (if k.v.dir = 1 then k.z.y else k.z.x)) 0
    cols.flatMap (fun n => ((rows.map (· / w)).eraseDups).map (fun l =>
      (rows.filter (fun m => m / w == l)).filterMap (fun m => k.element set m n)))

/-- Draws of an element: one per column sum added on the array in long-sum mode (R131, R150). -/
def ConvRun.sumsOf (k : ConvRun) (e : ConvElement) : Nat := if k.onVector then 0 else (k.passes e.terms.length).length

/-- A line as a piece with its marks; `n` and `sums` number its first element and its first column sum. -/
def State.convPiece (s : State) (c : Nat) (r : Running) (k : ConvRun) (out : Tensor) (line : List ConvElement)
    (n sums : Nat) : Marked :=
  let els := line.foldl (fun (acc : List (Fp × Bool) × Nat × Nat) e =>
    (acc.1 ++ [s.convValue c r k e (s.freeCtr + 1 + 2 * acc.2.1 + acc.2.2) ((s.core c).genCounter + acc.2.2)],
     acc.2.1 + 1, acc.2.2 + k.sumsOf e)) ([], n, sums)
  (⟨((line.head?).map (fun e => out.bitOffset e.at_)).getD 0, els.1.map (·.1)⟩, els.1.map (·.2))

/-- The pieces of the lines of a share. -/
def State.convPieces (s : State) (c : Nat) (r : Running) (k : ConvRun) (out : Tensor) (lines : List (List ConvElement)) :
    List Marked :=
  (lines.foldl (fun (acc : List Marked × Nat × Nat) l =>
    (acc.1 ++ [s.convPiece c r k out l acc.2.1 acc.2.2], acc.2.1 + l.length, acc.2.2 + (l.map k.sumsOf).sum)) ([], 0, 0)).1

/-- Rows of a tensor that coordinates lie in. -/
def rowsAt (t : Tensor) (cs : List (List Nat)) : List Run :=
  ((cs.map (fun c => (⟨t.bitOffset (0 :: c.drop 1), t.dim 0⟩ : Run)))).eraseDups

/-- The streamed elements of a share. -/
def streamedOf (els : List ConvElement) : List (List Nat) := els.flatMap (fun e => e.terms.filterMap (·.stream))

/-- The runs of single elements. -/
def cellsAt (t : Tensor) (cs : List (List Nat)) : List Run := (cs.eraseDups).map (fun c => ⟨t.bitOffset c, 1⟩)

/-- The stationary elements of a share, with those that R234 sums. -/
def stationaryOf (els : List ConvElement) : List (List Nat) := els.flatMap (fun e => e.terms.filterMap (·.stat) ++ e.off)

/-- What a share reads from its tensors: the streamed rows, the stationary elements, and the addend's. `held` tells whether
a halo delivered a streamed element's row, which is then not read again (R235). -/
structure ConvReads where
  stream : List (Operand × List Run)
  stat : List (Operand × List Run)
  add : List (Operand × List Run)

/-- All of them. -/
def ConvReads.all (x : ConvReads) : List (Operand × List Run) := x.stream ++ x.stat ++ x.add

/-- The reads of elements of a share. -/
def ConvRun.readsOf (k : ConvRun) (r : Running) (held : List Nat → Bool) (els : List ConvElement) : ConvReads :=
  let o := k.operands
  let slotOf := fun (t : Tensor) => (((r.slot 0).toList ++ (r.slot 1).toList).find? (fun x => x.t == t)).toList
  { stream := (slotOf o.1).map (fun x => (x, rowsAt x.t ((streamedOf els).filter (fun c => !held c))))
    stat := (slotOf o.2).map (fun x => (x, cellsAt x.t (stationaryOf els)))
    add := if k.v.addend then (r.slot 2).toList.map (fun x =>
        (x, if x.t.rank = 1 then cellsAt x.t (els.map (fun e => [e.channel])) else cellsAt x.t (els.map (·.at_))))
      else [] }

/-- What a share of core `c` reads: rows that a halo delivered are not read again (R235). -/
def State.convReads (s : State) (c : Nat) (r : Running) (k : ConvRun) (els : List ConvElement) : List (Operand × List Run) :=
  (k.readsOf r (fun x => (s.windowSide c r k.v k.operands.1 ((x[1]?).getD 0)).isSome) els).all

/-- Some element that a halo delivered is non-finite (R136). -/
def State.badWindow (s : State) (c : Nat) (r : Running) (k : ConvRun) (els : List ConvElement) : Bool :=
  let t := k.operands.1
  (streamedOf els).any (fun x =>
    (s.windowSide c r k.v t ((x[1]?).getD 0)).isSome && !(s.convElem c r k.v t x).finite)

/-- Run the lines of a share: load, compute, test, write and end (R150, R231). -/
def State.runConv (s : State) (c : Nat) (r : Running) (k : ConvRun) (out : Tensor) (lines : List (List ConvElement)) : State :=
  let els := lines.flatten
  let ps := s.convPieces c r k out lines
  let ld := s.loadAll r (s.convReads c r k els)
  let bad := ld.2 || s.badWindow c r k els
  let st := ld.1.storeShare r out ps
  let s := if k.v.backward then st.1.recordGrad r out st.2.runs else st.1
  let sums := (els.map k.sumsOf).sum
  let s := (s.useFree (1 + 2 * els.length + sums)).modCore c (fun x =>
    if k.v.longSum then { x with genCounter := x.genCounter + sums } else x)
  let s := if k.shortcut then s.count (Ctr.coreDilationShortcutCount c) else s
  s.endTask c r st.2.hits bad

/-! ### Tiles (R108, R230) -/

/-- The product of one set as a tiling sees it (R230, R232). -/
def ConvRun.shape (k : ConvRun) (cores : Nat) : Shape :=
  let x := (k.v.reduced k.shortcut).mkn k.z
  ⟨x.1, k.gp * x.2.2,
   [⟨k.gp * x.2.1, k.v.dir == 3, k.v.dir == 2, k.formats.1, k.formats.2, k.operands.1.type.bytes32, k.operands.2.type.bytes32⟩],
   k.v.form, k.v.longSum, cores, 1⟩

/-- A task's share before it is packed and tiled. -/
def Running.convRun (r : Running) (z : ConvTensors) (rung : Nat) : ConvRun :=
  let v := r.task.conv
  ⟨v, z, rung, 1, 1, 1, v.shortcut (v.extents z.x) (v.extents z.y)⟩

/-- G_p of a task (R232), in the form that its block names, or the form of one row where M = 1 (R168): none are packed on
the vector unit or in direction 3. -/
def ConvRun.packedGroups (k : ConvRun) : Nat :=
  if k.onVector || k.v.dir == 3 then 1
  else
    let x := (k.v.reduced k.shortcut).mkn k.z
    let f := formSize (if x.1 = 1 then 4 else if k.v.form = 0 then 1 else k.v.form)
    packed k.v.groups x.2.1 x.2.2 (k.kappa * f.1) f.2

/-- Line-buffer bytes, in 1/32 byte, of the input rows that a K tile of `n` terms needs (R229, R230): kh rows for each
channel and time tap of the tile, each as wide as the input (I_w). `t0` is the tensor of slot 0. -/
def ConvRun.lineBytes (k : ConvRun) (t0 : Tensor) (n : Nat) : Nat :=
  let v := k.v.reduced k.shortcut
  let channels := if v.dir = 3 then 1 else ceilDiv n v.perChannel
  channels * at3 v.kernel 1 * at3 v.kernel 2 * k.z.x.dim 0 * t0.type.bytes32

/-- The k tile of a share: that of the reference, cut to the whole channels whose rows the free line buffer holds (R230;
DESIGN CHOICE, log entry 64). -/
def ConvRun.fitTile (k : ConvRun) (t0 : Tensor) (free kT : Nat) : Nat :=
  let unit := (k.v.reduced k.shortcut).perChannel
  let step := if k.formats.1.isMx || k.formats.2.isMx then lcm unit 32 else unit
  if k.lineBytes t0 kT ≤ 32 * free ∨ k.v.dir = 3 then kT
  else
    let one := max 1 (k.lineBytes t0 1)
    let n := 32 * free / one * unit / max 1 step * step
    if n = 0 then kT else n

/-- The share with its groups packed, its form and its k tile, and its tiling: the reference's (R230). -/
def Running.convTiled (r : Running) (c : Nat) (k0 : ConvRun) (t0 : Tensor) : ConvRun × Tiling :=
  let k := { k0 with gp := k0.packedGroups }
  let h := (k.shape r.task.coreCount).turned
  let tl := (k.shape r.task.coreCount).referenceTiling
  let kT := (h.uses.map (fun u => h.kTileOf tl u)).foldl max 0
  let n := k.fitTile t0 (r.plan.lineBufferFree c) kT
  ({ k with rowsR := (formSize tl.form).1, kTile := n }, { tl with kT := n, reference := false })

/-- The share of core `c` (R230): a cell of the reference tiling's grid, or of R129's on the vector unit. -/
def Running.convShare (r : Running) (c : Nat) (k : ConvRun) (tl : Tiling) : Option Share :=
  let h := k.shape r.task.coreCount
  if k.onVector then
    let g := vectorGrid r.task.coreCount h.M h.N
    gridShare h.M h.N g.1 g.2 (r.coreIndex c) false
  else gridShare h.M h.N tl.gM tl.gN (r.coreIndex c) (h.N == 1)

/-- Every tile of a share on the array is legal, its line-buffer rows included (R108, R230): the tiles are counted, or the
first illegal one ends the task. -/
def State.convTiles (s : State) (c : Nat) (r : Running) (k : ConvRun) (tl : Tiling) (sh : Share) (t0 : Tensor) :
    State × Option (Nat × Nat × Nat) :=
  if k.onVector then (s, none)
  else
    let h0 := k.shape r.task.coreCount
    let h := h0.turned
    let tiles := h.uses.flatMap (fun u => (shareTiles h tl sh (h0.N == 1) u).map (fun t => (u, t)))
    let s := s.set (Reg.coreStatus_form c) tl.form
    let legal := fun (x : UseShape × Nat × Nat × Nat) =>
      x.1.legal h.acc (r.plan.tileSpace c) x.2.1 x.2.2.1 x.2.2.2 &&
        decide (k.lineBytes t0 x.2.2.2 ≤ 32 * r.plan.lineBufferFree c)
    match tiles.find? (fun x => !legal x) with
    | some bad => (s, some bad.2)
    | none =>
      let sets := ceilDiv k.v.groups k.gp
      let cyc := (tiles.map (fun x => tileCycles tl.form x.1 x.2.1 x.2.2.1 x.2.2.2)).sum
      ((s.count (Ctr.coreTilesIssuedCount c) (sets * tiles.length)).count (Ctr.coreArrayBusyCount c) (sets * cyc), none)

/-! ### The whole task on a core -/

/-- The task skips its product: direction 3 of a frozen group (R231). -/
def Running.convFrozen (r : Running) : Bool :=
  let v := r.task.conv
  v.dir == 3 && ((r.plan.groups[v.group]?).map GroupEntry.frozen).getD false

/-- The tensors of the task, none of them with an extent of 0 (R91). -/
def Running.convReady (r : Running) : Option ConvTensors :=
  (r.convTensors r.task.conv).filter (fun _ => !r.usesEmpty)

/-- The task computes nothing: its product is skipped, or a tensor is empty. -/
def Running.convSkips (r : Running) : Bool := r.convFrozen || r.convReady.isNone

/-- Run core `c`'s share of a convolution (R230 to R237). -/
def State.convTask (s : State) (c dir : Nat) : State :=
  match s.runningOn c with
  | none => s
  | some r =>
    if r.task.op ≠ 0x0005 ∨ r.task.conv.dir ≠ dir then s
    else
      let s := (s.takeFrames c r).2
      if r.convFrozen then ((s.count (Ctr.coreFrozenSkipCount c)).keepCredits r).endEmpty c r
      else match r.convReady, r.slot 0, r.slot 3 with
        | some z, some in0, some out =>
          let x := r.convTiled c (r.convRun z (s.effRung r.task)) in0.t
          match r.convShare c x.1 x.2 with
          | none => s.endTask c r 0 false
          | some sh =>
            if sh.rows.2 = 0 ∨ sh.cols.2 = 0 then s.endTask c r 0 false
            else match s.convTiles c r x.1 x.2 sh in0.t with
              | (s, some bad) => s.tileIllegal c r bad
              | (s, none) =>
                let lines := (List.range (ceilDiv x.1.v.groups x.1.gp)).flatMap (fun j => x.1.lines j sh)
                s.runConv c r x.1 out.t (lines.filter (fun l => !l.isEmpty))
        | _, _, _ => s.endTask c r 0 false

/-- CONV_FORWARD (R230, direction 1). -/
def doConvForward (core : Nat) (s : State) : State := s.convTask core 1

/-- CONV_DATA_GRADIENT (R230, direction 2). -/
def doConvDataGradient (core : Nat) (s : State) : State := s.convTask core 2

/-- CONV_WEIGHT_GRADIENT (R230, direction 3). -/
def doConvWeightGradient (core : Nat) (s : State) : State := s.convTask core 3

end Sys2Proof.Machine
end

