-- ==== Sys2Proof/Machine/Developer.lean ====
section
/-! DEFINITION. The Developer (R278 to R298): the update task of a parameter group, its rules, touched-only updates,
the check of new values, and the writing of weights and states; and the freeze control. -/

namespace Sys2Proof.Machine

/-! ### What an update works on -/

/-- What the update of a group works on: its entry and its tensors. -/
structure UpdateOps where
  e : GroupEntry
  w : Operand
  grad : Operand
  master : Option Operand
  st1 : Option Operand
  st2 : Option Operand
  st3 : Option Operand
  rowstep : Option Operand
  touch : Option Operand
  mult : Option Operand

/-- A group's update in the current step: its tensors, the gradient multiplier γ and exponent e (R285), η and λ, and s
(R284). -/
structure Update extends UpdateOps where
  gamma : Fp
  ex : Int
  eta : Fp
  lambda : Fp
  s : Nat
  last : Nat

/-- The FP32 value of element `i`, in row-major order, of an operand. -/
def State.value32 (s : State) (p : Nat) (o : Operand) (i : Nat) : Fp := (s.elem p o.t (o.t.coords i)).to32

/-- The tensors of group `g` of a plan, if it has a weight and a gradient. -/
def Plan.updateOps (pl : Plan) (g : Nat) : Option UpdateOps :=
  (pl.groups[g]?).bind (fun e => (pl.graph e.graph).bind (fun gr =>
    let op := fun (i : Nat) => if i = noTensor then none else (gr.tensor i).map (fun t => (⟨i, t⟩ : Operand))
    match op e.weight, op e.grad with
    | some w, some grad =>
      some { e := e, w := w, grad := grad, master := op e.master, st1 := op e.state1, st2 := op e.state2
             st3 := op e.state3, rowstep := op e.rowstep, touch := op e.touch, mult := op e.gradMult }
    | _, _ => none))

/-- The update of group `g`, if its tensors exist. -/
def State.updateOf (s : State) (r : Running) (g : Nat) : Option Update :=
  (r.plan.updateOps g).map (fun o =>
    let x := s.group r.p g
    { o with
      gamma := (o.mult.map (fun m => s.value32 r.p m 0)).getD Fp.one
      ex := if o.e.layer = 0xFFFF then 0 else s.gradScale o.e.layer
      eta := Fp.of32 x.eta, lambda := Fp.of32 (r.plan.lambda g (x.step + 1) o.e)
      s := x.step + 1, last := x.last })

/-- Columns of the weight: dims[0]. -/
def UpdateOps.cols (u : UpdateOps) : Nat := max 1 (u.w.t.dim 0)
/-- Rows of the weight. -/
def UpdateOps.rows (u : UpdateOps) : Nat := u.w.t.count / u.cols

/-- A factor of R285 for every element of the group: γ × 2^-e. -/
def Update.factor (u : Update) : Fp := (u.gamma.scale2 (-u.ex)).to32

/-- The true gradient of element `i` (R285). -/
def State.trueGrad (s : State) (p : Nat) (u : Update) (i : Nat) : Fp := u.factor.mul (s.value32 p u.grad i)

/-- base^k in FP32 as exp2(k × log2(base)); a base of 0 gives 0 (R292). -/
def Fp.pow (base : Fp) (k : Nat) : Fp :=
  if base.isZero then Fp.zero else Fp.via Config.exp2 ((Fp.ofNat k).to32.mul (Fp.via Config.log2 base))

/-- 1 - β. -/
def compl (b : Fp) : Fp := Fp.one.sub b

/-- β1 of the group. -/
def Update.b1 (u : Update) : Fp := Fp.of32 u.e.beta1
/-- β2 of the group. -/
def Update.b2 (u : Update) : Fp := Fp.of32 u.e.beta2

/-- An FP32 value clamped to 0..1. -/
def Fp.clamp01 (v : Fp) : Fp := if v.isNan then v else if v.lt Fp.zero then Fp.zero else if Fp.one.lt v then Fp.one else v

/-- b^k of R292. -/
def Update.decayPow (u : Update) (k : Nat) : Fp := (Fp.one.sub (u.eta.mul u.lambda)).clamp01.pow k

/-! ### The rules (R286, R292) -/

/-- An element's weight and states: before an update, or after. -/
structure Element where
  w : Fp
  m : Option Fp
  v : Option Fp
  deriving DecidableEq, Repr

/-- Every new value is finite (R287). -/
def Element.finite (x : Element) : Bool := x.w.finite && (x.m.map Fp.finite).getD true && (x.v.map Fp.finite).getD true

/-- The stored values of element `i`: the master copy stands for the weight where there is one (R285). -/
def State.element (s : State) (p : Nat) (u : Update) (i : Nat) : Element :=
  ⟨s.value32 p (u.master.getD u.w) i, u.st1.map (fun o => s.value32 p o i),
   if u.e.rule = 2 then u.st2.map (fun o => s.value32 p o i) else none⟩

/-- The catch-up of `k` skipped steps (R292). -/
def Update.catchUp (u : Update) (k : Nat) (x : Element) : Element :=
  if k = 0 then x
  else
    let mb := if u.e.rule = 3 then u.b2 else u.b1
    ⟨x.w.mul (u.decayPow k), x.m.map ((mb.pow k).mul), x.v.map ((u.b2.pow k).mul)⟩

/-- w - η·d - (η·λ)·w in the order of rule 1. -/
def Update.step1 (u : Update) (w ed : Fp) : Fp := (w.sub ed).sub ((u.eta.mul u.lambda).mul w)

/-- w - η·(d + λ·w). -/
def Update.step2 (u : Update) (w d : Fp) : Fp := w.sub (u.eta.mul (d.add (u.lambda.mul w)))

/-- sign(c), with sign(0) = 0. -/
def Fp.sign (c : Fp) : Fp := if c.isNan then c else if c.isZero then Fp.zero else if c.lt Fp.zero then Fp.one.neg else Fp.one

/-- Rule 1 (R285, R286); `gs` is the stored gradient. -/
def Update.rule1 (u : Update) (x : Element) (g gs : Fp) : Element :=
  match x.m with
  | some m =>
    let m := (u.b1.mul m).add g
    ⟨u.step1 x.w (u.eta.mul m), some m, none⟩
  | none => ⟨u.step1 x.w (((u.eta.mul u.gamma).scale2 (-u.ex)).to32.mul gs), none, none⟩

/-- Rule 2 (R286). -/
def Update.rule2 (u : Update) (x : Element) (g : Fp) : Element :=
  let m := (u.b1.mul (x.m.getD Fp.zero)).add ((compl u.b1).mul g)
  let v := (u.b2.mul (x.v.getD Fp.zero)).add ((compl u.b2).mul (g.mul g))
  let mh := if u.e.biasCorrection then (m.div (compl (u.b1.pow u.s))).to32 else m
  let vh := if u.e.biasCorrection then (v.div (compl (u.b2.pow u.s))).to32 else v
  ⟨u.step2 x.w ((mh.div (vh.sqrt.add (Fp.of32 u.e.eps))).to32), some m, some v⟩

/-- Rule 3 (R286). -/
def Update.rule3 (u : Update) (x : Element) (g : Fp) : Element :=
  let m := x.m.getD Fp.zero
  let c := (u.b1.mul m).add ((compl u.b1).mul g)
  ⟨u.step2 x.w c.sign, some ((u.b2.mul m).add ((compl u.b2).mul g)), none⟩

/-- Rule 4 with v̂ of the element (R286). -/
def Update.rule4 (u : Update) (x : Element) (g vh : Fp) : Element :=
  let d0 := (g.div vh.sqrt).to32
  match x.m with
  | some m =>
    let m := (u.b1.mul m).add ((compl u.b1).mul d0)
    ⟨u.step2 x.w m, some m, none⟩
  | none => ⟨u.step2 x.w d0, none, none⟩

/-- The new factors of rule 4: R per row, C per column, and mean_i(R_i) (R286); `k` skipped steps come first (R292). -/
structure Factors where
  R : List Fp
  C : List Fp
  meanR : Fp
  deriving DecidableEq, Repr

/-- The new factors of a group, one set for every core of its task (R286); `key` numbers the sums. -/
def State.factorsOf (s : State) (p : Nat) (u : Update) (key k : Nat) : Factors :=
  let sq := fun (i j : Nat) => let g := s.trueGrad p u (i * u.cols + j); (g.mul g).add (Fp.of32 u.e.eps2)
  let old := fun (o : Option Operand) (i : Nat) =>
    let v := (o.map (fun o => s.value32 p o i)).getD Fp.zero
    if k = 0 then v else (u.b2.pow k).mul v
  let R := (List.range u.rows).map (fun i =>
    (u.b2.mul (old u.st2 i)).add ((compl u.b2).mul (meanFp (key + i) ((List.range u.cols).map (fun j => sq i j)))))
  let C := (List.range u.cols).map (fun j =>
    (u.b2.mul (old u.st3 j)).add ((compl u.b2).mul (meanFp (key + u.rows + j) ((List.range u.rows).map (fun i => sq i j)))))
  ⟨R, C, meanFp (key + u.rows + u.cols) R⟩

/-- v̂ of element `i` under rule 4. -/
def Factors.vHat (f : Factors) (cols i : Nat) : Fp :=
  ((((f.R[i / cols]?).getD Fp.zero).mul ((f.C[i % cols]?).getD Fp.zero)).div f.meanR).to32

/-- The new values of element `i` after `k` skipped steps. -/
def State.newElement (s : State) (p : Nat) (u : Update) (f : Factors) (k i : Nat) : Element :=
  let x := u.catchUp k (s.element p u i)
  let g := s.trueGrad p u i
  match u.e.rule with
  | 1 => u.rule1 x g (s.value32 p u.grad i)
  | 2 => u.rule2 x g
  | 3 => u.rule3 x g
  | _ => u.rule4 x g (f.vHat u.cols i)

/-! ### Writing (R287) -/

/-- Write element codes of a tensor of space 0: through the Clear encoder of each 4 KiB block, or raw. `xs` gives the
row-major index and the bits of each element. -/
def State.putCodes (s : State) (p : Nat) (t : Tensor) (xs : List (Nat × Nat)) : State :=
  let n := t.type.bits / 8
  let at_ := fun (i : Nat) => t.base + t.bitOffset (t.coords i) / 8
  if t.clear then
    ((xs.map (fun x => at_ x.1 / 4096)).eraseDups).foldl (fun s b =>
      let old := (List.range 4096).map (fun o => s.storedByte p t (4096 * b + o - t.base))
      let new := (xs.filter (fun x => at_ x.1 / 4096 == b)).foldl (fun d x => patch d (at_ x.1 % 4096) (leBytes x.2 n)) old
      s.clearWrite p t.space (4096 * b) t.type.planeWidth new) s
  else xs.foldl (fun s x => s.writeSpace p t.space (at_ x.1) (leBytes x.2 n)) s

/-- The Developer that writes the weight element at byte `a` of partition HBM (R278): its unit number. -/
def State.developerOf (s : State) (p a : Nat) : Nat :=
  let m := s.hbmBase p + a
  64 + 4 * (m / stackUsable) + m % stackUsable / 4096 % 4

/-- Take the next draw of a Developer (R149, R150). -/
def State.devDraw (s : State) (p unit : Nat) : Nat × State :=
  let k := readOr 0 s.devDraws unit
  (s.draw (s.part p).step unit k, { s with devDraws := writeOr 0 s.devDraws unit (k + 1) })

/-- The largest finite BF16 value of the sign of `x`. -/
def bf16Max (x : Fp) : Fp := Fp.fin (x.lt Fp.zero) Fmt.bf16.maxM Fmt.bf16.maxE

/-- A stochastic rounding that carried into infinity was saturated (R149): counted, and raised once per group and
step. -/
def State.srSaturate (s : State) (p g : Nat) : State :=
  let raised := (s.group p g).srRaised
  let s := ((s.count Ctr.numSrSaturatedCount).set Reg.numStatus_srSaturated 1).modGroup p g (fun x => { x with srRaised := true })
  if raised then s else s.raise Ev.srSaturated (UnitId.partition p) { object := g }

/-- Round weights to BF16, one draw each (R149): the codes and the state. -/
def State.roundWeights (s : State) (p g : Nat) (t : Tensor) (xs : List (Nat × Fp)) : List (Nat × Nat) × State :=
  xs.foldl (fun (acc : List (Nat × Nat) × State) x =>
    let d := acc.2.devDraw p (acc.2.developerOf p (t.base + t.bitOffset (t.coords x.1) / 8))
    let v := srBf16 x.2 d.1
    if v.finite then (acc.1 ++ [(x.1, Fmt.bf16.encode v)], d.2)
    else (acc.1 ++ [(x.1, Fmt.bf16.encode (bf16Max x.2))], d.2.srSaturate p g)) ([], s)

/-- Write the new values of one weight block. -/
def State.writeBlock (s : State) (p g : Nat) (u : Update) (xs : List (Nat × Element)) : State :=
  let put := fun (s : State) (o : Option Operand) (f : Element → Option Fp) => match o with
    | none => s
    | some o => s.putCodes p o.t (xs.filterMap (fun x => (f x.2).map (fun v => (x.1, o.t.type.encodeElem v))))
  let s := put s u.master (fun x => some x.w)
  let s := if u.w.t.type = .bf16 then
      let ws := s.roundWeights p g u.w.t (xs.map (fun x => (x.1, x.2.w)))
      ws.2.putCodes p u.w.t ws.1
    else put s (some u.w) (fun x => some x.w)
  let s := put s u.st1 (·.m)
  let s := if u.e.rule = 2 then put s u.st2 (·.v) else s
  s.count Ctr.devParamsUpdatedCount xs.length

/-- Apply the update to elements, weight block after weight block; the group tears at the first block with a
non-finite value, and the blocks before it stay written (R287). -/
def State.applyBlocks (s : State) (p g : Nat) (u : Update) (els : List (Nat × Element)) : State :=
  let blockOf := fun (i : Nat) => (u.w.t.base + u.w.t.bitOffset (u.w.t.coords i) / 8) / 4096
  ((els.map (fun x => blockOf x.1)).eraseDups).foldl (fun (s : State) b =>
    if (s.group p g).status = 4 then s
    else
      let xs := els.filter (fun x => blockOf x.1 == b)
      if xs.all (fun x => x.2.finite) then s.writeBlock p g u xs else (s.tear p g 0).stepFault p .numeric) s

/-- Rule 4 writes its factors with the last share of its task. -/
def State.writeFactors (s : State) (p g : Nat) (u : Update) (f : Factors) : State :=
  if (s.group p g).status = 4 then s
  else
    let put := fun (s : State) (o : Option Operand) (vs : List Fp) => match o with
      | none => s
      | some o => s.putCodes p o.t (vs.zipIdx.map (fun x => (x.2, x.1.bits32)))
    put (put s u.st2 f.R) u.st3 f.C

/-! ### Touched-only updates (R290 to R292) -/

/-- Row `i` is touched (R290). -/
def State.rowTouched (s : State) (p : Nat) (u : Update) (i : Nat) : Bool := match u.touch with
  | some o => !(s.elem p o.t [0, i]).isZero
  | none => true

/-- Steps skipped by row `i` (R290) or, in modes 2 and 3, by the group (R291); none in dense groups. -/
def State.skipped (s : State) (p : Nat) (u : Update) (i : Nat) : Nat :=
  match u.e.touchMode with
  | 0 => 0
  | 1 => match u.rowstep with
    | some o => u.s - (s.elemInt p o.t [i]).toNat - 1
    | none => 0
  | _ => u.s - u.last - 1

/-- The touch bit that governs a group of mode 2 or 3 (R221, R224). -/
def State.touchBit (s : State) (p : Nat) (e : GroupEntry) : Bool :=
  if e.touchMode = 2 then (s.part p).touchedExperts.contains (4096 * e.touchIndex + e.touchLocal)
  else (s.part p).touchedSets.contains e.touchIndex

/-- The step counts of touched rows become s (R290). -/
def State.writeRowSteps (s : State) (p : Nat) (u : Update) (rows : List Nat) : State := match u.rowstep with
  | none => s
  | some o => s.putCodes p o.t (rows.map (fun i => (i, u.s)))

/-! ### The update task (R295, R296) -/

/-- The group of an update task. -/
def Task.group (t : Task) : Nat := t.par 0 4

/-- The elements of the i-th core's share (R295): first and count. -/
def Task.updateShare (t : Task) (unit i : Nat) : Nat × Nat :=
  let first := t.par 8 8
  let count := t.par 16 8
  let sh := shareOf (ceilDiv count unit) t.coreCount i
  let lo := min count (unit * sh.1)
  (first + lo, min count (unit * (sh.1 + sh.2)) - lo)

/-- The unit a of R295. -/
def UpdateOps.unit (u : UpdateOps) : Nat := if u.e.touchMode = 1 then lcm 2048 u.cols else 2048

/-- The runs of elements, by row-major index, of a tensor with the weight's extents. -/
def elementRuns (t : Tensor) (els : List Nat) : List Run := els.map (fun i => ⟨t.bitOffset (t.coords i), 1⟩)

/-- What a share reads (R285 to R290, R297): the gradient once for each sweep, the master copy or the weight, the
elementwise states, rule 4's factors, grad_mult, the touch byte of each of its rows and the step count of each touched
one. -/
def UpdateOps.reads (u : UpdateOps) (els rows touched : List Nat) : List (Operand × List Run) :=
  let each := fun (o : Operand) => (o, elementRuns o.t els)
  let whole := fun (o : Operand) => (o, o.t.rowRuns)
  let grads := if u.e.rule = 4 then [u.grad, u.grad] else [u.grad]
  let states := u.st1.toList ++ if u.e.rule = 2 then u.st2.toList else []
  let factors := if u.e.rule = 4 then u.st2.toList ++ u.st3.toList else []
  let steps := if u.e.touchMode = 1 then
      u.touch.toList.map (fun o => (o, rows.map (fun i => (⟨o.t.bitOffset [0, i], 1⟩ : Run)))) ++
        u.rowstep.toList.map (fun o => (o, touched.map (fun i => (⟨o.t.bitOffset [i], 1⟩ : Run))))
    else []
  (grads ++ [u.master.getD u.w] ++ states).map each ++ (factors ++ u.mult.toList).map whole ++ steps

/-- A Clear block that a read needs fails to decode (R298). -/
def State.readFails (s : State) (p : Nat) (reads : List (Operand × List Run)) : Bool :=
  reads.any (fun x => x.1.t.clear && (x.1.t.blocksOf x.2).any (fun a => match s.decodeBlock p x.1.t.space a with
    | .ok _ => false
    | .error _ => true))

/-- A new state value of rule 4 is non-finite: nothing is written (R287). -/
def Update.badFactors (u : Update) (f : Factors) : Bool := u.e.rule == 4 && !(f.R ++ f.C).all Fp.finite

/-- A share of an update that goes ahead. -/
def State.updateShare (s : State) (c : Nat) (r : Running) (g : Nat) (u : Update) : State :=
  let sh := r.task.updateShare u.unit (r.coreIndex c)
  let all := (List.range sh.2).map (· + sh.1)
  let mine := (all.map (· / u.cols)).eraseDups
  let rows := mine.filter (fun i => u.e.touchMode != 1 || s.rowTouched r.p u i)
  let els := if u.e.touchMode = 1 then all.filter (fun i => rows.contains (i / u.cols)) else all
  let untouched := if u.e.touchMode = 1 then mine.length - rows.length else 0
  let reads := u.reads els mine rows
  let failed := s.readFails r.p reads
  let s := if untouched = 0 then s else s.count Ctr.devRowsSkippedCount untouched
  let s := reads.foldl (fun s x => s.load r x.1 x.2) s
  if failed then s.tear r.p g 1
  else
    let f := if u.e.rule = 4 then s.factorsOf r.p u (s.heldKey r) (s.skipped r.p u 0) else ⟨[], [], Fp.zero⟩
    let vals := els.map (fun i => (i, s.newElement r.p u f (s.skipped r.p u (i / u.cols)) i))
    let caught := if u.e.touchMode = 1 then (rows.filter (fun i => decide (0 < s.skipped r.p u i))).length else 0
    if u.badFactors f then (s.tear r.p g 0).stepFault r.p .numeric
    else
      let s := s.applyBlocks r.p g u vals
      let s := if u.e.rule = 4 && s.othersDone c r then s.writeFactors r.p g u f else s
      if (s.group r.p g).status = 4 then s
      else
        let s := if caught = 0 then s else s.count Ctr.devRowsCaughtUpCount caught
        if u.e.touchMode = 1 then s.writeRowSteps r.p u rows else s

/-- The update tasks of group `g` in a plan. -/
def Plan.updateTasks (pl : Plan) (g : Nat) : List (Nat × Nat × Task) :=
  pl.allTasks.filter (fun x => x.2.2.op == 0x000F && x.2.2.group == g)

/-- Every core of a task but `c` in the running one has finished its share. -/
def State.taskEnds (s : State) (p c : Nat) (r : Running) (x : Nat × Nat × Task) : Bool :=
  x.2.2.cores.all (fun k => (s.run p x.1 x.2.1).finished.contains k || (x.1 == r.g && x.2.1 == r.t && k == c))

/-- The last share of the group's update tasks ends: status 1, and in modes 2 and 3 `last` becomes s and a group that
skipped steps counts as caught up (R290 to R292). -/
def State.groupUpdated (s : State) (c : Nat) (r : Running) (g : Nat) (u : Update) : State :=
  if (s.group r.p g).status = 0 && (r.plan.updateTasks g).all (s.taskEnds r.p c r) then
    let s := if decide (2 ≤ u.e.touchMode) && decide (0 < s.skipped r.p u 0) then s.count Ctr.devRowsCaughtUpCount else s
    s.modGroup r.p g (fun x => { x with status := 1, last := if decide (2 ≤ u.e.touchMode) then u.s else x.last })
  else s

/-- A frozen group's update task discards (R293): counted per task, raised once per group and step. -/
def State.discardUpdate (s : State) (c : Nat) (r : Running) (g : Nat) : State :=
  let raised := (s.group r.p g).discardRaised
  let s := s.modGroup r.p g (fun x => { x with status := 2, discardRaised := true })
  let s := if r.coreIndex c = 0 then s.count Ctr.devFrozenDiscardCount else s
  if raised then s else s.raise Ev.updateDiscarded (UnitId.partition r.p) { object := g }

/-- An untouched group's update (R291): status 3, counted once. -/
def State.skipUpdate (s : State) (p g : Nat) : State :=
  if (s.group p g).status = 3 then s
  else (s.modGroup p g (fun x => { x with status := 3 })).count Ctr.devUntouchedSkipCount

/-- What an update task does on one core before it ends. -/
def State.runUpdate (s : State) (c : Nat) (r : Running) (g : Nat) : State :=
  match s.updateOf r g with
  | none => s
  | some u =>
    let x := s.group r.p g
    if x.frozen then s.discardUpdate c r g
    else if x.status = 4 then s
    else if decide (2 ≤ u.e.touchMode) && !s.touchBit r.p u.e then s.skipUpdate r.p g
    else (s.updateShare c r g u).groupUpdated c r g u

/-- An update waits for the Fixer (R372): counted once, raised once in a step. -/
def State.noteFixerWait (s : State) (p g : Nat) : State :=
  let w := (s.part p).fixer.waited
  if w.contains g then s
  else
    let s := (s.modPart p (fun q => { q with fixer := { q.fixer with waited := w ++ [g] } })).count Ctr.survFixerWaitCount
    if w.isEmpty then s.raiseFor (some p) Ev.fixerWait (s.control p) { object := g } else s

/-- GROUP_UPDATE (R285 to R296). -/
def doGroupUpdate (core : Nat) (s : State) : State :=
  match s.runningOn core with
  | none => s
  | some r =>
    if r.task.op ≠ 0x000F then s
    else
      let tk := s.takeFrames core r
      let s := tk.2.runUpdate core r r.task.group
      let s := if s.taskEnds r.p core r (r.g, r.t, r.task) then s.count Ctr.devUpdateTasksCount else s
      s.endTask core r 0 false

/-! ### The freeze control (R294) -/

/-- The partition whose groups the DEV select registers show: the lowest with an admitted plan (log entry 28). -/
def State.devPart (s : State) : Nat := ((List.range 4).find? s.admitted).getD 0

end Sys2Proof.Machine
end

