-- ==== Sys2Proof/Machine/Issue.lean ====
section
/-! DEFINITION. A core starts a task by tokens and credits (R113, R116, R140): what it takes at its start, credit waits and
their end, and the update requests it puts into the Developers' queues (R278). -/

namespace Sys2Proof.Machine

/-- The running task of core `c` puts the accumulator memory in long-sum mode (R131): an array product or an array
convolution whose block asks for it. -/
def State.longSumOn (s : State) (r : Running) : Bool :=
  if r.task.asksTiling then r.needsRecord && decide (s.effRung r.task < 3) && r.task.product.longSum
  else r.task.op == 0x0005 && r.task.conv.longSum && !r.task.conv.vector && decide (s.effRung r.task < 3) && !r.convSkips

/-- The Developers of a compute die, by number 4 × stack + u (R278). -/
def Fitted.developersOf (f : Fitted) (die : Nat) : List Nat :=
  ((List.range f.ss).filter (fun st => f.dieOfStack st == die)).flatMap (fun st => (List.range 4).map (4 * st + ·))

/-- An update task that starts puts a request into each Developer of its core's die (R278; DESIGN CHOICE, log entry 65). -/
def State.feedDevelopers (s : State) (c : Nat) (r : Running) : State :=
  if r.task.op ≠ 0x000F then s
  else
    let put := fun (q : List (Nat × List (Nat × Nat))) u => insertKey q u ((lookup q u).getD [] ++ [(c, taskKey r.g r.t)])
    { s with devQueues := (s.fitted.developersOf (s.fitted.dieOf c)).foldl put s.devQueues }

/-! ### The units that a task uses (R398) -/

/-- The tensor indices that a task of this op may use: its four slots, or any tensor of its graph where its parameter block
names more. -/
def Task.mayUse (t : Task) (g : Graph) : List Tensor :=
  if [0x0001, 0x0002, 0x0005, 0x0008, 0x0009, 0x000D, 0x0011].contains t.op then
    t.tensors.filterMap (fun i => if i = noTensor then none else g.tensor i)
  else g.tensors

/-- A task with a core on die `d`. -/
def Task.onDie (t : Task) (f : Fitted) (d : Nat) : Bool := t.cores.any (fun c => f.dieOf c == d)

/-- A paged attention task reads and writes pages of a KV pool that lies on stack `st` (R193, R195). -/
def State.usesPool (s : State) (pl : Plan) (t : Task) (st : Nat) : Bool :=
  t.op == 0x0003 && t.attn.paged && match pl.rangeOf t.attn.ctxFirst with
    | none => false
    | some r => r.1.kind == 2 &&
      PowerUnit.holds (s.pageAddr (s.firstPage r.1.die)) (s.poolPages r.1.die * s.pageBytes) (.stack st)

/-- A task of die `d` reads or writes HBM stack `st`: a tensor there, or pages of its context's pool. -/
def State.usesStack (s : State) (p st d : Nat) (pl : Plan) (x : Nat × Nat × Task) : Bool :=
  x.2.2.onDie s.fitted d &&
    (((pl.graph x.1).map (fun g => (x.2.2.mayUse g).any (fun t =>
      t.space == 0 && PowerUnit.holds (s.hbmBase p + t.base) t.stored (.stack st)))).getD false || s.usesPool pl x.2.2 st)

/-- A task of die `d` uses the staging SRAM: a tensor there, or a queue of place 2. -/
def Task.usesStaging (f : Fitted) (d : Nat) (pl : Plan) (x : Nat × Nat × Task) : Bool :=
  x.2.2.onDie f d &&
    (((pl.graph x.1).map (fun g => (x.2.2.mayUse g).any (fun t => t.space == 1))).getD false ||
      [x.2.2.queueIn, x.2.2.queueOut].any (fun n => ((pl.queueTable[n]?).map (·.place)) == some 2))

/-- The task keeps this unit awake: its cores, and on their dies the staging SRAM and the stacks that it uses (R398, R399). -/
def State.awakeFor (s : State) (r : Running) (u : PowerUnit) : Bool := match u with
  | .core c => r.task.cores.contains c
  | .staging d => Task.usesStaging s.fitted d r.plan (r.g, r.t, r.task)
  | .stack st => s.usesStack r.p st (s.fitted.dieOfStack st) r.plan (r.g, r.t, r.task)
  | .port _ => false

/-- The early record of a task at its effective rung, if one has arrived (R163). -/
def Core.earlyRecord (k : Core) (key rung : Nat) : Option Tiling :=
  (k.early.find? (fun x => x.1 == key && x.2.1 == rung)).map (·.2.2)

/-- Core `c` starts a task (R113): it takes the credits of its writes, its halo entries (R237), and its tiling record if
that arrived early (R163); a core and memories that sleep wake (R399, R402). -/
def State.startTask (s : State) (c : Nat) (r : Running) : State :=
  let key := taskKey r.g r.t
  let rung := s.effRung r.task
  let s := s.wake (s.awakeFor r)
  let s := (r.task.outQueues ((s.core c).replay.contains key)).foldl (fun s q =>
    s.modQueue r.p q (fun y => { y with credits := y.credits - s.writesOf r.p q })) s
  let early := (s.core c).earlyRecord key rung
  let s := s.modCore c (fun k =>
    { k with
      running := some (r.g, r.t), started := k.started ++ [key], replay := k.replay.filter (· != key)
      waiting := k.waiting.filter (· != key), tiling := early, asked := r.task.asksTiling && early.isNone
      early := k.early.filter (fun (x : Nat × Nat × Tiling) => x.1 != key) })
  let s := if s.get (Reg.coreStatus_state c) = 2 then s else s.set (Reg.coreStatus_state c) 1
  let s := ((s.set (Reg.coreTask_task c) r.t).set (Reg.coreTask_graph c) r.g).set (Reg.coreTaskExposure_exposure c)
    r.task.exposure
  let s := s.set (Reg.coreStatus_longSum c) (if s.longSumOn r then 1 else 0)
  let s := match early with
    | some tl => s.showRecord c tl
    | none => s
  (s.takeHalos c r).feedDevelopers c r

/-- An update task must wait: the Fixer still reads the copy of its group that it owes from an earlier step (R372). -/
def State.copyHolds (s : State) (p : Nat) (t : Task) : Bool :=
  t.op == 0x000F && (s.part p).fixer.copying.any (fun x => x.1 == t.group && x.2 != (s.part p).step)

/-- TASK_ISSUE (R113, R116, R140): none while the Fixer sweeps (R373), and no update of a group whose copy is owed (R372). -/
def doTaskIssue (core : Nat) (s : State) : State :=
  let p := s.corePart core
  if s.fitted.ccc ≤ core || !s.inStep p || (s.core core).running.isSome || s.coreFailed core ||
      (s.part p).fixer.sweep.isSome then s
  else match s.planOf p with
    | none => s
    | some pl =>
      let again := fun (x : Nat × Nat × Task) => (s.core core).replay.contains (taskKey x.1 x.2.1)
      let short := fun (x : Nat × Nat × Task) => ((x.2.2.outQueues (again x)).find? (fun q =>
        decide ((s.queueRun p q).credits < s.writesOf p q))).getD noQueue
      let waits := ((s.readyTasks p core pl).filter (fun x => !s.hasCredits p x.2.2 (again x))).map (fun x =>
        (taskKey x.1 x.2.1, short x))
      let ready := s.startable p core pl
      let held := ready.filter (fun x => s.copyHolds p x.2.2)
      let next := (ready.find? (fun x => !s.copyHolds p x.2.2)).bind (fun x => pl.runningOf p x)
      let s := waits.foldl (fun s w => s.noteWait core w.1 w.2) s
      let s := held.foldl (fun s x => s.noteFixerWait p x.2.2.group) s
      match next with
      | none => s
      | some r => s.startTask core r

/-- CREDIT_RECEIVED (R115, R116): a credit on its way adds a free entry at the producer, and waits that it meets end. -/
def doCreditReceived (p queue : Nat) (s : State) : State :=
  let cr : Credit := ⟨p, queue⟩
  if !s.credits.contains cr then s
  else
    let s := { s with credits := dropFirst cr s.credits }.modQueue p queue (fun q => { q with credits := q.credits + 1 })
    match (s.planOf p).bind (fun pl => pl.queue queue) with
    | none => s
    | some e => s.endWaits p e.producer

end Sys2Proof.Machine
end

