-- ==== Sys2Proof/Machine/Images.lean ====
section
/-! DEFINITION. The image operators: crop-and-resize (R239 to R242) and channel argmax (R243, R244). -/

namespace Sys2Proof.Machine

/-! ### Crop-and-resize -/

/-- The parameter block of op 0x0006. -/
structure Crop where
  cw : Nat
  ch : Nat
  boxes : Nat
  spanLimit : Nat
  outside : Fp
  normalised : Bool

/-- Read the parameter block. -/
def Task.crop (t : Task) : Crop :=
  ⟨t.par 0 2, t.par 2 2, t.par 4 4, t.par 8 4, Fp.of32 (t.par 12 4), bitAt (t.par 16 1) 0 == 1⟩

/-- A box's corners in FP32. -/
structure Box where
  x0 : Fp
  y0 : Fp
  x1 : Fp
  y1 : Fp
  deriving DecidableEq, Repr

/-- Half of an FP32 value. -/
def Fp.half (v : Fp) : Fp := (v.scale2 (-1)).to32

/-- A coordinate that is NaN (R241). -/
def Box.bad (b : Box) : Bool := b.x0.isNan || b.y0.isNan || b.x1.isNan || b.y1.isNan

/-- Box corners in input pixels (R240). -/
def Crop.scaled (v : Crop) (w h : Nat) (b : Box) : Box :=
  if v.normalised then
    let fx := (Fp.ofNat (w - 1)).to32
    let fy := (Fp.ofNat (h - 1)).to32
    ⟨b.x0.mul fx, b.y0.mul fy, b.x1.mul fx, b.y1.mul fy⟩
  else b

/-- A box wider than span_limit (R241). -/
def Crop.wide (v : Crop) (b : Box) : Bool :=
  v.spanLimit != 0 && (Fp.ofNat v.spanLimit).lt (b.x1.sub b.x0).abs

/-- A wide box narrowed about its centre, the order of its sides kept (R241). -/
def Crop.narrow (v : Crop) (b : Box) : Box :=
  if !v.wide b then b
  else
    let mid := (b.x0.add b.x1).half
    let d := (Fp.ofNat v.spanLimit).half
    if b.x1.lt b.x0 then { b with x0 := mid.add d, x1 := mid.sub d } else { b with x0 := mid.sub d, x1 := mid.add d }

/-- Sample coordinate `j` of `n` between two corners (R240). -/
def sampleAt (a b : Fp) (j n : Nat) : Fp :=
  if n ≤ 1 then (a.add b).half
  else a.add ((((b.sub a).mul (Fp.ofNat j).to32).div (Fp.ofNat (n - 1)).to32))

/-- floor of a value that is at least 0. -/
def Fp.floorNat : Fp → Nat
  | .fin false m e => if 0 ≤ e then m * 2 ^ e.toNat else m / 2 ^ (-e).toNat
  | _ => 0

/-- A coordinate within 0..n - 1. -/
def insideImage (x : Fp) (n : Nat) : Bool := Fp.zero.le x && x.le (Fp.ofNat (n - 1))

/-- The bilinear sample of an image at (x, y), channel `c`, sample `k` (R240). -/
def State.sampleImage (s : State) (p : Nat) (t : Tensor) (v : Crop) (x y : Fp) (c k : Nat) : Fp :=
  if !insideImage x (t.dim 0) || !insideImage y (t.dim 1) then v.outside
  else
    let xl := x.floorNat
    let yl := y.floorNat
    let fx := x.sub (Fp.ofNat xl)
    let fy := y.sub (Fp.ofNat yl)
    let at_ := fun (w h : Nat) => (s.elem p t [min w (t.dim 0 - 1), min h (t.dim 1 - 1), c, k]).to32
    let gx := Fp.one.sub fx
    let row := fun (h : Nat) => (gx.mul (at_ xl h)).add (fx.mul (at_ (xl + 1) h))
    ((Fp.one.sub fy).mul (row yl)).add (fy.mul (row (yl + 1)))

/-- A box as the core treats it: its corners after R240 and R241, its image, whether it is invalid, whether it was wide. -/
structure CropBox where
  i : Nat
  b : Box
  image : Nat
  invalid : Bool
  wide : Bool

/-- Box `i`. -/
def State.cropBox (s : State) (p : Nat) (v : Crop) (img boxes idx : Tensor) (i : Nat) : CropBox :=
  let e := fun (k : Nat) => (s.elem p boxes [k, i]).to32
  let raw : Box := ⟨e 0, e 1, e 2, e 3⟩
  let image := (s.elemInt p idx [i]).toNat
  let b := v.scaled (img.dim 0) (img.dim 1) raw
  let bad := raw.bad || decide (img.dim 3 ≤ image)
  ⟨i, v.narrow b, image, bad, !bad && v.wide b⟩

/-- The output lines of a box. -/
def State.cropLines (s : State) (p : Nat) (v : Crop) (img out : Tensor) (b : CropBox) : List Piece :=
  (List.range (img.dim 2)).flatMap (fun c => (List.range v.ch).map (fun i =>
    ⟨out.bitOffset [0, i, c, b.i], (List.range v.cw).map (fun j =>
      if b.invalid then v.outside
      else s.sampleImage p img v (sampleAt b.b.x0 b.b.x1 j v.cw) (sampleAt b.b.y0 b.b.y1 i v.ch) c b.image)⟩))

/-- The columns that the samples of a box's rows touch, as first and count: none if every sample lies outside (R242). -/
def Crop.segment (v : Crop) (img : Tensor) (b : CropBox) : Option (Nat × Nat) :=
  let w := img.dim 0
  let xs := ((List.range v.cw).map (fun j => sampleAt b.b.x0 b.b.x1 j v.cw)).filter (fun x => insideImage x w)
  let ls := xs.map (fun x => min x.floorNat (w - 1))
  match ls with
  | [] => none
  | l :: rest =>
    let lo := rest.foldl min l
    some (lo, min (rest.foldl max l + 1) (w - 1) + 1 - lo)

/-- What a core reads of the image for a box (R242): for each output row and channel the two input row segments that the
row's samples touch. -/
def Crop.reads (v : Crop) (img : Operand) (b : CropBox) : List (Operand × List Run) :=
  match if b.invalid then none else v.segment img.t b with
  | none => []
  | some (lo, n) =>
    let h := img.t.dim 1
    let ys := ((List.range v.ch).map (fun i => sampleAt b.b.y0 b.b.y1 i v.ch)).filter (fun y => insideImage y h)
    ys.flatMap (fun y => (List.range (img.t.dim 2)).flatMap (fun c =>
      [min y.floorNat (h - 1), min (y.floorNat + 1) (h - 1)].map (fun row =>
        (img, [(⟨img.t.bitOffset [lo, row, c, b.image], n⟩ : Run)]))))

/-- CROP_AND_RESIZE (R239 to R242). -/
def doCropAndResize (core : Nat) (s : State) : State :=
  match s.runningOn core with
  | none => s
  | some r =>
    if r.task.op ≠ 0x0006 then s
    else
      let s := (s.takeFrames core r).2
      match r.slot 0, r.slot 1, r.slot 2, r.slot 3 with
      | some img, some boxes, some idx, some out =>
        if r.usesEmpty then s.endTask core r 0 false
        else
          let v := r.task.crop
          let mine := (List.range v.boxes).filter (fun i => i * r.task.coreCount / v.boxes == r.coreIndex core)
          let bs : List CropBox := mine.map (fun i => s.cropBox r.p v img.t boxes.t idx.t i)
          let ps := bs.flatMap (s.cropLines r.p v img.t out.t)
          let ld := s.loadAll r (bs.flatMap (v.reads img) ++ [(idx, mine.map (fun i => ⟨i * 32, 1⟩))])
          let s := (ld.1.load r boxes (mine.map (fun i => ⟨boxes.t.bitOffset [0, i], 4⟩))).store r.p out.t ps
          let s := s.count (Ctr.coreBoxesCount core) bs.length
          let s := match bs.find? (fun (b : CropBox) => b.invalid) with
            | none => s
            | some b => (s.count (Ctr.coreBoxInvalidCount core) (bs.filter (fun (b : CropBox) => b.invalid)).length).raiseOnce core Ev.boxInvalid
                { value := b.i }
          let s := match bs.find? (fun (b : CropBox) => b.wide) with
            | none => s
            | some b => (s.count (Ctr.coreBoxClampedCount core) (bs.filter (fun (b : CropBox) => b.wide)).length).raiseOnce core Ev.boxClamped
                { value := b.i }
          let hits := (ps.map (fun x => out.t.pieceHits x [])).sum
          s.endTask core r hits ld.2
      | _, _, _, _ => s.endTask core r 0 false

/-! ### Channel argmax -/

/-- The index of the largest value: the lowest of equal ones, and the lowest NaN before every number (R244). -/
def argmax (xs : List Fp) : Nat :=
  match xs.findIdx? Fp.isNan with
  | some i => i
  | none => (xs.zipIdx.foldl (fun (b : Option (Fp × Nat)) x => match b with
      | none => some x
      | some y => if y.1.lt x.1 then some x else b) none).elim 0 (·.2)

/-- The coordinates of an input along the axis at an output position. -/
def axisCoords (c : List Nat) (axis k : Nat) : List Nat := c.take axis ++ k :: c.drop axis

/-- CHANNEL_ARGMAX (R243, R244). -/
def doChannelArgmax (core : Nat) (s : State) : State :=
  match s.runningOn core with
  | none => s
  | some r =>
    if r.task.op ≠ 0x0007 then s
    else
      let s := (s.takeFrames core r).2
      match r.slot 0, r.slot 3 with
      | some a, some out =>
        if r.usesEmpty then s.endTask core r 0 false
        else
          let axis := r.task.par 0 1
          let sh := shareOf out.t.count r.task.coreCount (r.coreIndex core)
          let mine := (List.range sh.2).map (· + sh.1)
          let cols := fun (i : Nat) => (List.range (a.t.dim axis)).map (fun k => axisCoords (out.t.coords i) axis k)
          let best : List (Nat × Nat × Fp) := mine.map (fun i =>
            let xs := (cols i).map (fun c => s.elem r.p a.t c)
            let k := argmax xs
            (i, k, (xs[k]?).getD Fp.zero))
          let ld := s.loadAll r [(a, cellsAt a.t (mine.flatMap cols))]
          let nan := (best.filter (fun b => b.2.2.isNan)).length
          let s := best.foldl (fun s b => s.putBits r.p out.t (out.t.bitOffset (out.t.coords b.1)) [b.2.1]) ld.1
          let ps : List (Tensor × Piece) := match if bitAt (r.task.par 1 1) 0 = 1 then r.slot 2 else none with
            | none => []
            | some o => best.map (fun b => (o.t, (⟨o.t.bitOffset (o.t.coords b.1), [b.2.2]⟩ : Piece)))
          let s := ps.foldl (fun s x => s.store r.p x.1 [x.2]) s
          let s := if nan = 0 then s else s.count (Ctr.coreArgmaxNanCount core) nan
          s.endTask core r ((ps.map (fun x => x.1.pieceHits x.2 [])).sum) ld.2
      | _, _ => s.endTask core r 0 false

end Sys2Proof.Machine
end

