-- ==== Sys2Proof/Machine/Ports.lean ====
section
/-! DEFINITION. Fabric ports: lanes and states (R300 to R302), FLITs and replay (R303, R304), class credits and the
choice of the next packet (R308 to R311), the time exchange (R16, R331), and the invalidation of a plan (R380). -/

namespace Sys2Proof.Machine

/-! ### Packets -/

/-- The destination position of a packet (R305). -/
def pkDest (pk : Packet) : Nat := bitsAt (fieldAt pk.header 0 4) 0 20
/-- The class of a packet (R305). -/
def pkClass (pk : Packet) : Nat := bitsAt (fieldAt pk.header 0 4) 20 3
/-- The kind of a packet (R305). -/
def pkKind (pk : Packet) : Nat := fieldAt pk.header 3 1
/-- The sender's epoch (R305). -/
def pkEpoch (pk : Packet) : Nat := bitsAt (fieldAt pk.header 6 2) 0 12
/-- The sender's slot index (R305). -/
def pkSlot (pk : Packet) : Nat := fieldAt pk.header 8 2
/-- The gradient scale exponent the packet carries (R305). -/
def pkScale (pk : Packet) : Int := signed 8 (fieldAt pk.header 10 1)
/-- The last packet of its transfer (R305). -/
def pkLast (pk : Packet) : Bool := bitAt (fieldAt pk.header 11 1) 0 == 1
/-- The place of the data in the transfer, in 64-byte units (R305). -/
def pkOffset (pk : Packet) : Nat := fieldAt pk.header 12 4
/-- The send stamp (R305). -/
def pkStamp (pk : Packet) : Stamp := Stamp.ofBytes (slice pk.header 16 16)
/-- The data of a packet, as many bytes as its header says. -/
def pkData (pk : Packet) : List Byte := slice pk.data 0 (fieldAt pk.header 4 2)

/-- Bytes of an item on the link: header, data and tag (R305). -/
def FabOut.bytes : FabOut → Nat
  | .packet pk => 32 + pk.data.length + pk.tag.length
  | .notice _ => 32
  | .nak _ => 0
  | .position _ => 0

/-- Link credits that an item takes, in 64-byte units (R311). -/
def FabOut.units : FabOut → Nat
  | .packet pk => ceilDiv (FabOut.packet pk).bytes 64
  | .notice _ => 1
  | .nak _ => 0
  | .position _ => 0

/-! ### Port states -/

/-- The state of port `n` (R302): 0 ABSENT, 1 TRAINING, 2 UP, 3 DEGRADED, 4 DOWN. -/
def State.portState (s : State) (n : Nat) : Nat := s.get (Reg.fabPort_state n)

/-- Port `n` is UP or DEGRADED. -/
def State.portUp (s : State) (n : Nat) : Bool := s.portState n == 2 || s.portState n == 3

/-- The partition that owns port `n` (R339). -/
def State.portPart (s : State) (n : Nat) : Nat := s.get (Reg.fabPort_partition n)

/-- The position that replaces this one, of a plan's securing section (R365). -/
def Plan.secondBody (pl : Plan) : Nat := if pl.hasSection 8 then fieldAt (pl.section 8) 16 4 else 0xFFFFFFFF

/-- A packet with this destination is for the module: it names its position, or, at a standby second body, the place in the
fabric that its plan gives the second body (R365, R382). -/
def State.isFor (s : State) (p dest : Nat) : Bool :=
  dest == s.position || (s.standby && ((s.planOf p).map Plan.secondBody).getD 0xFFFFFFFF == dest)

/-- Raise an event of a port that is raised once in a step (R436). -/
def State.raisePort (s : State) (n : Nat) (e : EvKind) (d : Detail) : State :=
  if (s.port n).once.contains e.code then s
  else (s.modPort n (fun p => { p with once := p.once ++ [e.code] })).raise e (UnitId.port n) d

/-- Change the Fixer's state of partition `p`. -/
def State.modFixer (s : State) (p : Nat) (f : Fixer → Fixer) : State :=
  s.modPart p (fun q => { q with fixer := f q.fixer })

/-- A sweep falls due beside those that are: one of its step that has not started takes it in, and a sweep of the drain
gives it its cause (R373, R380). -/
def addDue (l : List DueSweep) (x : DueSweep) : List DueSweep :=
  if l.any (fun y => y.step == x.step) then
    l.map (fun y => if y.step = x.step then
      { y with
        cause := if x.cause = 3 then 3 else y.cause, all := y.all || x.all, secures := y.secures ++ x.secures
        retire := y.retire || x.retire } else y)
  else l ++ [x]

/-- The admitted plan of partition `p` becomes invalid (R363, R380): the module is forced, the step faults, a sweep of
every item is due in the drain, and the module departs if the plan names a second body. -/
def State.planInvalid (s : State) (p cause : Nat) : State :=
  if !s.admitted p then s
  else
    let departs := ((s.planOf p).map Plan.secondBody).getD 0xFFFFFFFF != 0xFFFFFFFF
    let s := s.raise Ev.planInvalid (UnitId.partition p) { cause := cause }
    let s := (s.set Reg.survStatus_planInvalid 1).set Reg.survRisk_forced 1
    let s := s.modFixer p (fun f => { f with
      dues := addDue f.dues ⟨3, true, (s.part p).step, [], false⟩, departing := f.departing || departs, invalid := true })
    s.stepFault p .spares

/-! ### Receive buffers (R311) -/

/-- Change the link layer of port `n`. -/
def State.modLink (s : State) (n : Nat) (f : Link → Link) : State := s.modPort n (fun p => { p with link := f p.link })

/-- Units enter the receive buffer of a class. -/
def State.takeBuffer (s : State) (n cls units : Nat) : State :=
  s.modLink n (fun k => { k with used := k.used.modify cls (· + units) })

/-- Units leave the receive buffer of a class: their credits are due to the neighbour. -/
def State.freeBuffer (s : State) (n cls units : Nat) : State :=
  s.modLink n (fun k => { k with used := k.used.modify cls (· - units), due := k.due.modify cls (· + units) })

/-- Units pass through the receive buffer of a class at once. -/
def State.passBuffer (s : State) (n cls units : Nat) : State := (s.takeBuffer n cls units).freeBuffer n cls units

/-- A packet stays in the receive buffer of its class. -/
def State.bufferPacket (s : State) (n : Nat) (pk : Packet) : State :=
  s.takeBuffer n (pkClass pk) (FabOut.packet pk).units

/-- A packet passes through the receive buffer of its class. -/
def State.passPacket (s : State) (n : Nat) (pk : Packet) : State :=
  s.passBuffer n (pkClass pk) (FabOut.packet pk).units

/-- The window of a slot on port `n`, in fabric time, guards left off (R317, R318): on its output port, or on its input
port; none if it does not use the port in the current exposure of partition `p`. -/
def State.slotWindow (s : State) (p n : Nat) (x : FabSlot) (out guarded : Bool) : Option (Nat × Nat) :=
  let shift := if out then (if x.role = 3 then x.offsetNs + 36 else 0) else x.offsetNs
  let g := if guarded then x.guard else 0
  let at_ := fun (ns : Nat) => s.currentTick p + 4 * (ns + shift)
  let uses := if out then x.role != 2 && x.portOut == n else x.role != 1 && x.portIn == n
  if s.inStep p && x.exposure == (s.part p).index && uses then some (at_ (x.start + g), at_ (x.stop - g)) else none

/-- The windows of a slot on port `n`, its exposure opening at fabric time `tick` (R317, R318). -/
def FabSlot.windowsAt (x : FabSlot) (n tick : Nat) : List (Nat × Nat) :=
  let at_ := fun (shift : Nat) => (tick + 4 * (x.start + shift), tick + 4 * (x.stop + shift))
  (if x.role != 2 && x.portOut == n then [at_ (if x.role = 3 then x.offsetNs + 36 else 0)] else []) ++
    if x.role != 1 && x.portIn == n then [at_ x.offsetNs] else []

/-- The reserved windows of port `n`, in fabric time, in the current and the later exposures of its partition's step and in
the next step, or in step 0 of a plan that is admitted (R318, R319, R398). -/
def State.windowsAhead (s : State) (n : Nat) : List (Nat × Nat) :=
  let p := s.portPart n
  let q := s.part p
  let slots := ((s.fabSec p).map fabSlots).getD []
  let from_ := fun (e : Nat) => slots.flatMap (fun x => x.windowsAt n (s.tickTime p (e + x.exposure)))
  if s.inStep p then
    (slots.filter (fun x => decide (q.index ≤ x.exposure))).flatMap (fun x =>
      x.windowsAt n (s.tickTime p (q.exposure + x.exposure - q.index))) ++ from_ (s.nextStepAt p)
  else if q.phase == .admitted then from_ (s.pair (Reg.tickStart p)) else []

/-- The fabric time lies in a window. -/
def inWindow (now : Nat) : Option (Nat × Nat) → Bool
  | some (lo, hi) => decide (lo ≤ now ∧ now ≤ hi)
  | none => false

/-- The slots of a partition's section in force. -/
def State.slotsNow (s : State) (p : Nat) : List FabSlot := ((s.fabSec p).map fabSlots).getD []

/-- The partition address of the tensor that a slot's transfer reads or writes (R320, R326), for the event of a lost
transfer; 0 for a relay slot. -/
def State.slotAddress (s : State) (p slot : Nat) : Nat := match s.planOf p with
  | none => 0
  | some pl =>
    let found := pl.allTasks.find? (fun x =>
      (x.2.2.op == 0x000D && decide (x.2.2.par 32 2 ≤ slot ∧ slot < x.2.2.par 32 2 + x.2.2.par 3 1)) ||
      (x.2.2.op == 0x000E && decide (x.2.2.par 14 2 ≤ slot ∧ slot < x.2.2.par 14 2 + x.2.2.par 24 2)))
    ((found.bind (fun x => (pl.graph x.1).bind (fun g =>
      if x.2.2.op = 0x000D ∧ x.2.2.par 0 1 = 1 then g.slotTensor x.2.2 0 else g.slotTensor x.2.2 3))).map (·.base)).getD 0

/-- The transfers that port `n` was carrying: slotted packets that wait there, and slots whose window is open in one
direction or the other. -/
def State.slotsInFlight (s : State) (n : Nat) : List Nat :=
  let p := s.portPart n
  let queued := (s.port n).queue.filterMap (fun x => x.slot.map (·.2))
  let opened := (s.slotsNow p).zipIdx.filter (fun x =>
    inWindow s.time.now (s.slotWindow p n x.1 true false) || inWindow s.time.now (s.slotWindow p n x.1 false false))
  (queued ++ opened.map (·.2)).eraseDups

/-- A restore that finds no valid copy (R379, R387): a step that still runs faults, and its plan stays FAULTED (log
entry 31). -/
def State.restoreFailed (s : State) (p item : Nat) : State :=
  let s := s.raise Ev.restoreFailed (UnitId.partition p) { object := item % 2 ^ 16 }
  ((s.set Reg.survStatus_unrecoverable 1).modFixer p (fun f => { f with failed := true })).stepFault p .uncorrectable

/-- The partner position of a plan's securing section (R365). -/
def Plan.partnerPos (pl : Plan) : Nat := if pl.hasSection 8 then fieldAt (pl.section 8) 8 4 else 0xFFFFFFFF

/-- The port towards the partner is lost: what was asked of the partner does not come (R389). A takeover ends with the first
item it misses (R384). -/
def State.partnerLost (s : State) (p n : Nat) : State :=
  let asked := (s.part p).fixer.asked
  if ((s.planOf p).bind (fun pl => s.portTo p pl.partnerPos)) ≠ some n then s
  else
    let lost := if (s.part p).fixer.takeover then asked.take 1 else asked
    (lost.foldl (fun s i => s.restoreFailed p i) s).modFixer p (fun f => { f with
      asked := [], taken := [], takeover := f.takeover && asked.isEmpty })

/-- A relayed packet has left, or is given up: its place in the buffer of its input port is free (R311). -/
def State.releaseVia (s : State) (x : PortItem) : State := match x.via with
  | some i => s.freeBuffer i x.cls x.out.units
  | none => s

/-- Port `n` goes down (R302, R338): what waits on it is lost, each transfer under way is an uncorrectable error in
transient data, and the admitted plan of its partition is invalid. -/
def State.portDown (s : State) (n cause : Nat) : State :=
  let p := s.portPart n
  let lost := s.slotsInFlight n
  let s := (s.port n).queue.foldl (fun s x => s.releaseVia x) s
  let s := (s.set (Reg.fabPort_state n) 4).modPort n (fun x =>
    { x with queue := [], credits := [0, 0, 0, 0, 0], waiting := [], notices := [], link := Link.init })
  let s := s.raise Ev.portDown (UnitId.port n) { cause := cause }
  let s := (s.planInvalid p 3).partnerLost p n
  lost.foldl (fun s k => s.transientError p (UnitId.port n) (s.slotAddress p k / 4096) 3) s

/-- Lanes set in a 9-bit map. -/
def laneCount (lanes : Nat) : Nat := ((List.range 9).filter (fun i => bitAt lanes i == 1)).length

/-- The link credits of a port that comes up (R311): 8 KiB for class 0, 64 KiB for each other class. -/
def linkCredits : List Nat := [128, 1024, 1024, 1024, 1024]

/-- PORT_TRAINED (R300, R302): eight lanes trained; a lane that failed to train leaves its place to the spare. Each end has
sent its position. -/
def doPortTrained (port neighbour failedLanes : Nat) (s : State) : State :=
  if s.portState port ≠ 1 ∨ 1 < laneCount failedLanes then s
  else
    let lane := (List.range 8).find? (fun i => bitAt failedLanes i == 1)
    let s := (s.set (Reg.fabPort_state port) 2).set (Reg.fabPort_failedLanes port) failedLanes
    let s := s.set (Reg.fabPort_spareUsed port) (if lane.isSome then 1 else 0)
    let s := (s.set (Reg.fabPort_neighbour port) neighbour).set (Reg.fabPort_neighbourValid port) 1
    let s := { s with out := { s.out with fabric := s.out.fabric ++ [(port, FabOut.position s.position)] } }
    s.modPort port (fun p => { p with spareFor := lane, credits := linkCredits, link := Link.init })

/-- PORT_TRAINING_TIMEOUT (R302): 100 ms without eight trained lanes. -/
def doPortTrainingTimeout (port : Nat) (s : State) : State :=
  if s.portState port = 1 then s.portDown port 1 else s

/-- PORT_TAKE_DOWN (R302): FAB_PORT_CONTROL.take_down is written with 1. -/
def doPortTakeDown (port : Nat) (s : State) : State := if s.ready && s.portUp port then s.portDown port 5 else s

/-! ### Lanes -/

/-- The logical lane that a physical lane carries, if it carries one (R301). -/
def Port.logical (p : Port) (lane : Nat) : Option Nat :=
  if lane = 8 then p.spareFor else if p.spareFor = some lane then none else some lane

/-- A physical lane of a DEGRADED port carries traffic. -/
def Port.activeLane (p : Port) (lane : Nat) : Bool := match p.logical lane with
  | none => false
  | some l => decide (4 ≤ l) == p.upperHalf

/-- r_slot of port `n` in tenths of GB/s: half of it while the port is DEGRADED (R306). -/
def State.slotRate (s : State) (n : Nat) : Nat := if s.portState n = 3 then 578 else 1157

/-- The port of this module whose rate bounds a slot's transfer: the output of a send, the input of a receive (R317). -/
def FabSlot.port (e : FabSlot) : Nat := if e.role = 2 then e.portIn else e.portOut

/-- Bytes a slot window carries at `rate` tenths of GB/s (R306, R318). -/
def FabSlot.capacity (x : FabSlot) (rate : Nat) : Nat := (x.stop - x.start - 2 * x.guard) * rate / 10

/-! ### FLITs -/

/-- Return credits to a class of a port (R311). -/
def State.addCredits (s : State) (n cls units : Nat) : State :=
  s.modPort n (fun p => { p with credits := p.credits.modify cls (· + units) })

/-- FLITs up to this sequence number are acknowledged: their replay attempts are forgotten (R303). -/
def dropAcked (acked : Nat) (l : List (Nat × Nat)) : List (Nat × Nat) :=
  l.filter (fun x => decide (2048 ≤ (acked + 4096 - x.1) % 4096))

/-- The header's acknowledgement (R303): FLITs up to it leave the replay buffer, and with nak the neighbour asks for it
again. -/
def Link.acknowledged (k : Link) (h : Nat) : Link :=
  let acked := bitsAt h 14 12
  let k := if bitAt h 12 = 1 then
      { k with replay := k.replay.filter (fun x => decide (2048 ≤ (acked + 4096 - x.seq) % 4096)) } else k
  if bitAt h 13 = 1 then { k with naked := some acked } else k

/-- The sequence of the FLIT that a link expects next (R303): the first of a link is 0. -/
def Link.expected (k : Link) : Nat := match k.received with
  | some q => (q + 1) % 4096
  | none => 0

/-- FLIT_RECEIVE (R303, R304): a corrected FLIT is counted, one whose CRC fails is naked, a good one returns its credits
and its acknowledgement. A FLIT that is not the next one is passed over: it comes again, since the neighbour replays from the
naked FLIT on, and nothing is taken out of order. -/
def doFlitReceive (port : Nat) (flit : Flit) (s : State) : State :=
  if !s.portUp port then s
  else
    let h := flit.header.toNat
    let next := (s.port port).link.expected
    let s := if flit.corrected then
        (s.count (Ctr.portFecCorrected port)).modPort port (fun p => { p with exposureFec := p.exposureFec + 1 })
      else s
    if !flit.crcOk then
      { s with
        out := { s.out with fabric := s.out.fabric ++ [(port, FabOut.nak next)] } }.modLink port
          (fun k => { k with refused := some next })
    else if bitsAt h 0 12 ≠ next then s
    else
      let s := if bitAt h 12 = 1 then
          s.modPort port (fun p => { p with attempts := dropAcked (bitsAt h 14 12) p.attempts }) else s
      let s := s.modLink port (fun k => { k.acknowledged h with received := some next })
      s.addCredits port (bitsAt h 26 3) flit.credits

/-- The FLITs of the replay buffer from this sequence on, in the order sent; none if it is not there (R304). -/
def Link.replayFrom (k : Link) (seq : Nat) : List SentFlit := k.replay.drop (k.replay.findIdx (fun x => x.seq == seq))

/-- Replay attempts with one more for each of these FLITs (R304). -/
def noteAttempts (l : List (Nat × Nat)) (fs : List SentFlit) : List (Nat × Nat) :=
  fs.foldl (fun l f => writeOr 0 l f.seq (readOr 0 l f.seq + 1)) l

/-- FLIT_REPLAY (R302, R304): the sender replays from the naked FLIT on out of the replay buffer, and each FLIT sent again
counts as an attempt of it; one whose eighth replay failed, or replays beyond the limit of the exposure, take the port down. -/
def doFlitReplay (port seq : Nat) (s : State) : State :=
  let again := (s.port port).link.replayFrom seq
  if !s.portUp port ∨ (s.port port).link.naked ≠ some seq ∨ again = [] then s
  else if 8 ≤ readOr 0 (s.port port).attempts seq then s.portDown port 2
  else
    let s : State := { s with out := { s.out with flits := s.out.flits ++ again.map (fun x => (port, x)) } }
    let s := s.modLink port (fun k => { k with naked := none })
    let s := s.modPort port (fun p => { p with
      attempts := noteAttempts p.attempts again, exposureReplays := p.exposureReplays + again.length
      stepReplays := p.stepReplays + again.length })
    let s := s.count (Ctr.portFlitReplay port) again.length
    let s := s.raisePort port Ev.linkReplay { value := (s.port port).stepReplays }
    if s.get Reg.fabLimits_replayLimit < (s.port port).exposureReplays then s.portDown port 3 else s

/-! ### The time exchange (R16, R331) -/

/-- The offset of the two-way exchange in 0.25 ns. -/
def timeOffset (c : ControlFlit) : Int :=
  (((c.t2 : Int) - c.t1) - ((c.t4 : Int) - c.t3)).tdiv 2

/-- The bound beyond which time lock is lost: 50 ns (R16). -/
def lockBound : Nat := 200

/-- The module's offset to its time parent is known anew (R15, R16, R331). DESIGN CHOICE (log entry 62): R16 names the 50 ns
at which lock is lost and not the error at which it returns; here lock returns at the first offset of 50 ns or less, and
sets time_locked and raises EV_TIME_LOCKED also after the 64 exposures of R16. -/
def State.timeExchange (s : State) (off : Int) : State :=
  let t := s.time
  let s := s.set Reg.fabTimeOffset_offset (unsigned 16 off)
  if !t.everLocked then
    { s with time := { t with now := t.now + off.toNat, everLocked := true, locked := true, lostAt := none, slew := 0 } }
  else
    let far := decide (lockBound < off.natAbs)
    if t.locked && far then
      { s with time := { t with locked := false, lostAt := some t.now, overdue := [], slew := off } }.raise Ev.timeLockLost
        UnitId.module { value := off.natAbs }
    else if !t.locked && !far then
      { s with time := { t with locked := true, lostAt := none, slew := off } }.raise Ev.timeLocked UnitId.module
    else { s with time := { t with slew := off } }

/-- CONTROL_FLIT (R303, R315, R331): link credits, the neighbour's ranks, and on the parent link the time exchange. -/
def doControlFlit (port : Nat) (ctl : ControlFlit) (s : State) : State :=
  if !s.portUp port then s
  else
    let s := ctl.credits.zipIdx.foldl (fun s (x : Nat × Nat) => s.addCredits port x.2 x.1) s
    let s := s.modPort port (fun p => { p with ranks := ctl.outRank, farLanes := ctl.lanes })
    if s.get Reg.fabTimeConfig_parentPort = port ∧ !s.flag Reg.fabTimeConfig_root then s.timeExchange (timeOffset ctl)
    else s

/-! ### FLITs sent (R303, R311) -/

/-- The class whose freed credits ride in the next header: the lowest with any (log entry 55). -/
def Link.creditClass (k : Link) : Nat := (k.due.findIdx? (fun x => decide (0 < x))).getD 0

/-- The header word of a FLIT (R303). -/
def SentFlit.header (f : SentFlit) : Nat :=
  f.seq + (if f.ack then 2 ^ 12 else 0) + (if f.nak then 2 ^ 13 else 0) + 2 ^ 14 * f.acked + 2 ^ 26 * f.cls + 2 ^ 29 * f.kind

/-- Bytes 0 to 235 of a FLIT (R303). -/
def SentFlit.body (f : SentFlit) : List Byte :=
  let load := match f.control with
    | some c => Config.controlPayload (c.credits ++ [c.time, c.lanes] ++ c.ranks)
    | none => f.payload
  leBytes f.header 4 ++ slice load 0 232

/-- A FLIT with its CRC and its FEC bytes (R303). -/
def SentFlit.coded (f : SentFlit) : SentFlit :=
  let crc := Config.flitCrc f.body
  { f with crc := crc, fec := Config.flitFec (f.body ++ leBytes crc.toNat 8) }

/-- The next FLIT of a link of a type with this payload (R303): its credits are those of one class. -/
def Link.flit (k : Link) (kind : Nat) (payload : List Byte) : SentFlit :=
  { seq := k.seq, ack := k.refused.isNone && k.received.isSome, nak := k.refused.isSome
    acked := ((k.refused).orElse (fun _ => k.received)).getD 0, cls := k.creditClass, kind := kind
    credits := (k.due[k.creditClass]?).getD 0, payload := payload, control := none, crc := 0, fec := 0 }

/-- The link once a FLIT has gone out: it stays in the replay buffer of 1,024 FLITs until it is acknowledged. -/
def Link.after (k : Link) (f : SentFlit) : Link :=
  let r := k.replay ++ [f]
  { k with
    seq := (k.seq + 1) % 4096, sent := k.sent + 1, replay := r.drop (r.length - 1024), refused := none
    due := if f.control.isSome then k.due.map (fun _ => 0) else k.due.modify f.cls (fun _ => 0) }

/-- The ranks of the module's own output channels of port `n` (R315). -/
def State.ownRanks (s : State) (n : Nat) : List Nat :=
  (((s.fabSec (s.portPart n)).bind (fun b => (fabPorts b)[n]?)).map (·.outRank)).getD []

/-- Send one FLIT on port `n`. -/
def State.putFlit (s : State) (n : Nat) (g : SentFlit) : State :=
  let f := g.coded
  { s with out := { s.out with flits := s.out.flits ++ [(n, f)] } }.modLink n (fun k => k.after f)

/-- Send one FLIT of type 1, or of type 0 where nothing is to be sent; every 1,024th FLIT of the link is a control FLIT and
goes first when its turn comes (R303). -/
def State.sendFlit (s : State) (n kind : Nat) (payload : List Byte) : State :=
  let k := (s.port n).link
  let s := if (k.sent + 1) % 1024 = 0 then
      s.putFlit n { k.flit 2 [] with
        credits := 0
        control := some ⟨k.due, s.time.now, s.get (Reg.fabPort_failedLanes n), s.ownRanks n⟩ }
    else s
  s.putFlit n ((s.port n).link.flit kind payload)

/-- The bytes of a packet as they stand on the link: header, data, tag; of a notice its header (log entry 16). -/
def FabOut.wire : FabOut → List Byte
  | .packet pk => pk.header ++ pk.data ++ pk.tag
  | .notice n => n.header
  | .nak _ => []
  | .position _ => []

/-- Send what an item holds in FLITs of 232 payload bytes, packets back to back: a FLIT that is not full waits for the
next packet if one waits, and is filled with zeros otherwise (log entry 55). -/
def State.sendWire (s : State) (n : Nat) (o : FabOut) : State :=
  let bs := (s.port n).link.stream ++ o.wire
  let whole := if (s.port n).queue.isEmpty then ceilDiv bs.length 232 else bs.length / 232
  let s := s.modLink n (fun k => { k with stream := bs.drop (232 * whole) })
  (List.range whole).foldl (fun s i => s.sendFlit n 1 (slice bs (232 * i) 232)) s

/-! ### The next packet (R310) -/

/-- The slot of partition `p` whose window on port `n` is open now, guards left off (R310, R317). -/
def State.openSlot (s : State) (p n : Nat) : Option Nat :=
  (s.slotsNow p).findIdx? (fun x => inWindow s.time.now (s.slotWindow p n x true true))

/-- The guard at one end of a window on port `n` runs now: no packet starts (R317). -/
def State.inGuard (s : State) (p n : Nat) : Bool :=
  (s.slotsNow p).any (fun x => inWindow s.time.now (s.slotWindow p n x true false) &&
    !inWindow s.time.now (s.slotWindow p n x true true))

/-- Class 0 may send: one packet of at most 64 bytes per µs (R310). -/
def State.ctrlFree (s : State) (n : Nat) : Bool := match (s.port n).lastCtrl with
  | none => true
  | some t => decide (t + 4000 ≤ s.time.now)

/-- Credits for the item are at hand (R311). -/
def Port.affords (p : Port) (x : PortItem) : Bool := decide (x.out.units ≤ (p.credits[x.cls]?).getD 0)

/-- The first waiting item of a class. -/
def firstOf (q : List PortItem) (cls : Nat) (f : PortItem → Bool) : Option PortItem := q.find? (fun x => x.cls == cls && f x)

/-- Whether the item has waited starve_us (R310). -/
def State.starved (s : State) (x : PortItem) : Bool :=
  decide (x.since + s.get Reg.fabLimits_starveUs * 4000 ≤ s.time.now)

/-- The next item of port `n` (R310), and whether the starvation guard grants it. Inside another slot's window a late
packet waits (R319), and in a guard no packet starts (R317). -/
def State.nextItem (s : State) (n : Nat) : Option (PortItem × Bool) :=
  if s.inGuard (s.portPart n) n then none else
  let p := s.port n
  let slot := s.openSlot (s.portPart n) n
  let heads := (List.range 5).filterMap (fun c => firstOf p.queue c (fun _ => true))
  let able := fun (x : PortItem) => p.affords x
  match (sortBy (·.since) heads).find? (fun x => s.starved x && able x) with
  | some x => some (x, true)
  | none =>
    let ctrl := (firstOf p.queue 0 able).filter (fun _ => s.ctrlFree n)
    let own := slot.bind (fun k => p.queue.find? (fun x => x.slot == some (s.portPart n, k) && !x.late && able x))
    let any := (List.range 4).findSome? (fun c =>
      (firstOf p.queue (c + 1) (fun x => !(x.late && slot.isSome))).filter able)
    ((ctrl.orElse (fun _ => own)).orElse (fun _ => any)).map (fun x => (x, false))

/-- The item is a fence marker (R334). -/
def PortItem.isMarker (x : PortItem) : Bool := match x.out with
  | .packet pk => pkKind pk == 6
  | _ => false

/-- FAB_EPOCH.reshard leaves "draining" once every fence marker has been sent (R334, R339). -/
def State.noteDrained (s : State) : State :=
  if s.get Reg.fabEpoch_reshard = 3 ∧ !s.ports.any (fun p => p.queue.any PortItem.isMarker) then
    s.set Reg.fabEpoch_reshard 0
  else s

/-- A packet of a slot that goes out after the end of its window, though its data were ready: the slot missed its window
for a fabric cause (R337). -/
def State.noteSlotLate (s : State) (n : Nat) (x : PortItem) : State := match x.slot with
  | some (p, k) =>
    let past := match (s.slotsNow p)[k]?.bind (fun e => s.slotWindow p n e true false) with
      | some (_, hi) => decide (hi < s.time.now)
      | none => true
    if past && !x.late && s.inStep p then s.modPart p (fun q => { q with slotsLate := true }) else s
  | none => s

/-- OUTPUT_ARBITRATION (R303, R310, R311): the port sends the next packet; one of classes 1 to 4 wakes its lanes (R398, R399).
With nothing to send it sends an idle FLIT, which returns credits and acknowledgements. -/
def doOutputArbitration (port : Nat) (s : State) : State :=
  if !s.portUp port then s
  else match s.nextItem port with
    | none => s.sendFlit port 0 []
    | some (x, granted) =>
      let s := if granted then s.count Ctr.fabStarveGrantCount else s
      let s := s.modPort port (fun p => { p with
        queue := dropFirst x p.queue, credits := p.credits.modify x.cls (fun c => c - x.out.units)
        lastCtrl := if x.cls = 0 then some s.time.now else p.lastCtrl })
      let s := s.releaseVia x
      let s := if x.cls = 0 then s else s.wake (fun u => u == .port port)
      let s := { s with out := { s.out with fabric := s.out.fabric ++ [(port, x.out)] } }.sendWire port x.out
      (s.noteSlotLate port x).noteDrained

end Sys2Proof.Machine
end

