-- ==== Sys2Proof/Machine/Fabric.lean ====
section
/-! DEFINITION. The fabric in a step (R305, R311, R314 to R324): landing rings, transfers and their placements, packets
sent and received, slots, relaying, landing credits, route switches, and epochs of packets (R334). -/

namespace Sys2Proof.Machine

/-! ### Transfers (R320, R321, R323) -/

/-- A landing entry (R323). -/
structure Landing where
  graph : Nat
  depth : Nat
  role : Nat
  reserved : Nat
  tensor : Nat
  buffer : Nat
  peer : Nat
  deriving DecidableEq, Repr

/-- Read a landing entry. -/
def Landing.ofBytes (b : List Byte) : Landing :=
  ⟨fieldAt b 0 1, fieldAt b 1 1, fieldAt b 2 1, fieldAt b 3 1, fieldAt b 4 4, fieldAt b 8 4, fieldAt b 12 4⟩

/-- The landing entries of a section. -/
def fabLandings (sec : List Byte) : List Landing :=
  (records sec (fabHeader sec).landings 16 (fabHeader sec).landingCount).map Landing.ofBytes

/-- The parameter block of op 0x000D (R320). -/
structure Transfer where
  mode : Nat
  placement : Nat
  flags : Nat
  ports : Nat
  peer : Nat
  src : Nat
  dst : Nat
  length : Nat
  slotFirst : Nat
  landing : Nat
  consumer : Nat
  seq : Nat
  gradLayer : Nat
  expertLayer : Nat
  deriving DecidableEq, Repr

/-- Read the block. -/
def Task.transfer (t : Task) : Transfer :=
  ⟨t.par 0 1, t.par 1 1, t.par 2 1, t.par 3 1, t.par 4 4, t.par 8 8, t.par 16 8, t.par 24 8, t.par 32 2, t.par 36 2,
   t.par 38 2, t.par 40 4, t.par 44 2, t.par 46 2⟩

/-- The transfer carries a gradient (R322). -/
def Transfer.gradient (x : Transfer) : Bool := bitAt x.flags 0 == 1

/-- 64-byte units of the transfer. -/
def Transfer.units (x : Transfer) : Nat := x.length / 64

/-- The units that part `i` of `n` carries: first, and one past the last (R320). -/
def partUnits (u n i : Nat) : Nat × Nat := (u * i / n, u * (i + 1) / n)

/-- Consecutive bytes of a tensor's raw layout. -/
structure Stretch where
  t : Tensor
  off : Nat
  n : Nat
  deriving DecidableEq, Repr

/-- The landing entry that a transfer names, of a section. -/
def Transfer.ring (x : Transfer) (sec : List Byte) : Option Landing :=
  if x.landing = 0xFFFF then none else (fabLandings sec)[x.landing]?

/-- Rows s × q to s × q + q - 1 of each local expert's matrix of host `h`, then with tallies the entries x × S + s (R212,
R321). -/
def hostStretches (t : Tensor) (row sources s : Nat) (es : List Placed) (tallies : Bool) : List Stretch :=
  let start := fun (k : Nat) => ((es.take k).map (fun e => sources * e.quota * row)).sum
  es.zipIdx.map (fun x => ⟨t, start x.2 + s * x.1.quota * row, x.1.quota * row⟩) ++
    if tallies then es.zipIdx.map (fun x => ⟨t, start es.length + 64 * (x.2 * sources + s), 64⟩) else []

/-- The stretches of a placement of R321: at a source the contiguous chunk of host `host`, at a host the strided rows of
source `source`. -/
def Transfer.chunk (x : Transfer) (cap : List Byte) (t : Tensor) (atHost : Bool) (host source : Nat) : List Stretch :=
  match (expertLayers cap)[x.expertLayer]? with
  | none => []
  | some l =>
    let ps := l.placed cap
    let tallies := x.placement == 1
    if atHost then
      hostStretches t l.rowBytes l.sources (((l.sourceList cap).findIdx? (· == source)).getD 0) (expertsAt ps host) tallies
    else [⟨t, chunkOffset l.rowBytes ps host tallies, chunkBytes l.rowBytes ps host tallies⟩]

/-- Where a transfer's bytes come from at the sending side (R321); `own` is the module's position. -/
def Transfer.source (x : Transfer) (cap : List Byte) (own : Nat) (t : Tensor) : List Stretch :=
  if x.placement = 1 then x.chunk cap t false x.peer own
  else if x.placement = 2 then x.chunk cap t true own x.peer
  else [⟨t, x.src, x.length⟩]

/-- Where a transfer's bytes go at the receiving side (R321, R323). -/
def Transfer.dest (x : Transfer) (cap : List Byte) (own : Nat) (t : Tensor) : List Stretch :=
  if x.placement = 1 then x.chunk cap t true own x.peer
  else if x.placement = 2 then x.chunk cap t false x.peer own
  else [⟨t, x.dst, x.length⟩]

/-- The bytes of stretches, decoded from Clear blocks (R322). -/
def State.readStretches (s : State) (p : Nat) (xs : List Stretch) : List Byte :=
  xs.flatMap (fun x => (List.range x.n).map (fun i => s.storedByte p x.t (x.off + i)))

/-- Write bytes at byte `o` of consecutive stretches, as raw blocks (R322). -/
def State.writeStretches (s : State) (p : Nat) : List Stretch → Nat → List Byte → State
  | [], _, _ => s
  | x :: xs, o, bs =>
    if x.n ≤ o then State.writeStretches s p xs (o - x.n) bs
    else
      State.writeStretches (s.writeSpace p x.t.space (x.t.base + x.off + o) (bs.take (x.n - o))) p xs 0 (bs.drop (x.n - o))

/-- The 4 KiB blocks of a Clear tensor that stretches touch. -/
def clearBlocks (xs : List Stretch) : List Nat :=
  (xs.flatMap (fun x => if !x.t.clear || x.n = 0 then [] else
    let lo := (x.t.base + x.off) / 4096
    (List.range ((x.t.base + x.off + x.n - 1) / 4096 + 1 - lo)).map (fun i => (lo + i) * 4096))).eraseDups

/-- The tallies of a received forward chunk, the latter half of its stretches, set touch bits (R221). -/
def State.touchChunk (s : State) (p : Nat) (x : Transfer) (xs : List Stretch) : State :=
  if x.placement ≠ 1 then s
  else (xs.drop (xs.length / 2)).foldl (fun s st => s.touchTally p (s.readStretches p [st])) s

/-! ### Slots in use -/

/-- A task of a plan by the slot it uses: op 0x000D in this mode, one of whose slots is `slot`. -/
def Plan.transferOf (pl : Plan) (mode slot : Nat) : Option (Nat × Nat × Task) :=
  pl.allTasks.find? (fun x => x.2.2.op == 0x000D && x.2.2.transfer.mode == mode &&
    decide (x.2.2.transfer.slotFirst ≤ slot ∧ slot < x.2.2.transfer.slotFirst + x.2.2.transfer.ports))

/-- The state of an output slot in this step. -/
def State.outSlot (s : State) (p slot : Nat) : OutSlot :=
  ((lookup (s.part p).outSlots slot)).getD ⟨none, false, false⟩

/-- Change the state of an output slot. -/
def State.modOutSlot (s : State) (p slot : Nat) (f : OutSlot → OutSlot) : State :=
  let x := f (s.outSlot p slot)
  s.modPart p (fun q => { q with outSlots := insertKey q.outSlots slot x })

/-- The packets of units lo .. hi of a transfer of `total` units (R305, R320): at most 4,096 data bytes each. -/
def unitPackets (proto : PacketSpec) (data : List Byte) (total lo hi : Nat) : List PacketSpec :=
  (List.range (ceilDiv (hi - lo) 64)).map (fun k =>
    let a := lo + 64 * k
    let b := min hi (a + 64)
    { proto with offset := a, last := b == total, data := slice data (64 * a) (64 * (b - a)) })

/-- Data become ready for `n` consecutive slots from `first`: the parts of R320. -/
def State.readySlots (s : State) (p first n : Nat) (proto : PacketSpec) (data : List Byte) : State :=
  let u := ceilDiv data.length 64
  (List.range n).foldl (fun s i =>
    let r := partUnits u n i
    s.modOutSlot p (first + i) (fun x =>
      { x with packets := some (unitPackets { proto with slot := first + i } data u r.1 r.2) })) s

/-- The 96-bit IV of a confidential packet (R420): the origin position in the high bits, and the sender's packet count. -/
def fabricIv (origin count : Nat) : Nat := origin * 2 ^ 76 + count % 2 ^ 64

/-- Stamp a packet (R17) and, with a fabric key installed, encrypt and tag it (R420). -/
def State.seal (s : State) (p : Nat) (x : PacketSpec) : Packet × State :=
  let h := x.header s.epoch (s.stampNow 2)
  let s := s.stampUsed
  match (s.part p).fabricKey with
  | none => (⟨h, x.data, [], 0⟩, s)
  | some key =>
    if x.cls = 0 then (⟨h, x.data, [], 0⟩, s)
    else
      let n := (s.part p).fabricSent
      let iv := fabricIv s.position n
      let c := gcmData key iv x.data
      (⟨h, c, gcmTag key iv h c, n⟩, s.modPart p (fun q => { q with fabricSent := q.fabricSent + 1 }))

/-- Put a packet that the module originates on a port. -/
def State.post (s : State) (p port : Nat) (x : PacketSpec) (slot : Option (Nat × Nat)) (late : Bool) : State :=
  let r := s.seal p x
  r.2.enqueue port x.cls (.packet r.1) slot late

/-- Send a packet outside slots by its route (R314), if the module may send and a route leads there. -/
def State.sendRouted (s : State) (p : Nat) (x : PacketSpec) : State := match s.portTo p x.dest with
  | some port => if s.portUp port && !s.silent p then s.post p port x none false else s
  | none => s

/-- Transmit the ready packets of a slot (R319). -/
def State.transmitSlot (s : State) (p slot : Nat) (late : Bool) : State :=
  let x := s.outSlot p slot
  let port := (((s.slotsNow p)[slot]?).map (·.portOut)).getD 0xFF
  let s := if s.portUp port && !s.silent p then
      (x.packets.getD []).foldl (fun s k => s.post p port k (some (p, slot)) late) s
    else s
  s.modOutSlot p slot (fun x => { x with sent := true })

/-- SLOT_WINDOW_START (R319): the start of a send slot's window: ready data go out, otherwise the slot is missed. -/
def doSlotWindowStart (p slot : Nat) (s : State) : State :=
  match (s.slotsNow p)[slot]? with
  | none => s
  | some e =>
    let x := s.outSlot p slot
    if e.role ≠ 1 || e.exposure != (s.part p).index || x.sent || x.missed || !(s.part p).phase.isAdmitted then s
    else
      let s := s.advanceTo (s.currentTick p + 4 * e.start)
      if x.packets.isSome then s.transmitSlot p slot false
      else if s.inStep p then
        ((s.modOutSlot p slot (fun x => { x with missed := true })).count Ctr.fabSlotMissedCount).raisePort e.portOut
          Ev.slotMissed { value := slot }
      else s

/-- LATE_TRANSMIT (R319): the data of a missed slot have become ready. -/
def doLateTransmit (p slot : Nat) (s : State) : State :=
  let x := s.outSlot p slot
  if x.missed && x.packets.isSome && !x.sent then s.transmitSlot p slot true else s

/-! ### Sending and receiving tasks (R320 to R323) -/

/-- The capacity table of the running plan. -/
def Running.capTable (r : Running) : List Byte := r.plan.section 5

/-- The credit that a transfer into a landing ring waits for: none if it needs none (R323). -/
def State.landingWait (s : State) (p : Nat) (x : Transfer) : Bool :=
  match (s.fabSec p).bind x.ring with
  | none => false
  | some l => decide (l.depth ≤ x.seq) && !(s.part p).landCredits.contains (x.landing, x.seq - l.depth)

/-- A send that waits for landing credit (R323): counted once, raised once in a step. -/
def State.noteLanding (s : State) (c : Nat) (r : Running) (x : Transfer) : State :=
  let key := taskKey r.g r.t
  if (s.part r.p).landWaits.contains key then s
  else
    let s := s.modPart r.p (fun q => { q with landWaits := q.landWaits ++ [key] })
    (s.count Ctr.fabLandingWaitCount).raiseOnce c Ev.landingWait { object := x.landing, value := x.seq }

/-- The data of a send are read and its slots are ready (R320, R322). -/
def State.prepareSend (s : State) (r : Running) (x : Transfer) (o : Operand) : State :=
  let xs := x.source r.capTable s.position o.t
  let s := s.readErrors r o (clearBlocks xs)
  let e := if x.gradient then unsigned 8 (s.gradScale x.gradLayer) else 0
  let cls := (((s.slotsNow r.p)[x.slotFirst]?).map (·.cls)).getD 3
  s.readySlots r.p x.slotFirst x.ports ⟨1, cls, x.peer, 0, e, false, 0, []⟩ (s.readStretches r.p xs)

/-- All slots of a range have been sent. -/
def State.slotsSent (s : State) (p first n : Nat) : Bool := (List.range n).all (fun i => (s.outSlot p (first + i)).sent)

/-- A core runs its share of op 0x000D in this mode. -/
def State.transferTask (s : State) (c mode : Nat) (f : State → Running → Transfer → State) : State :=
  match s.runningOn c with
  | none => s
  | some r =>
    let x := r.task.transfer
    if r.task.op ≠ 0x000D ∨ x.mode ≠ mode then s
    else if x.length = 0 then s.endEmpty c r
    else f s r x

/-- FABRIC_SEND (R320, R323): the data are made ready once the landing credit is there; the share ends when every slot of
the transfer has been sent. -/
def doFabricSend (core : Nat) (s : State) : State :=
  s.transferTask core 1 (fun s r x => match r.slot 0 with
    | none => s.endEmpty core r
    | some o =>
      if s.landingWait r.p x then s.noteLanding core r x
      else
        let s := if (s.outSlot r.p x.slotFirst).packets.isSome then s else s.prepareSend r x o
        if s.slotsSent r.p x.slotFirst x.ports then s.endTask core r 0 false else s)

/-- 64-byte units of a transfer that have arrived in this step. -/
def State.unitsIn (s : State) (p g t : Nat) : Nat := readOr 0 (s.part p).arrived (taskKey g t)

/-- FABRIC_RECEIVE (R320): the share ends when every byte of the transfer has been written. -/
def doFabricReceive (core : Nat) (s : State) : State :=
  s.transferTask core 2 (fun s r x =>
    if x.units ≤ s.unitsIn r.p r.g r.t then s.endTask core r 0 false else s)

/-- LOCAL_COPY (R321): both sides of a chunk whose host is the module itself; the first core to end moves the bytes. -/
def doLocalCopy (core : Nat) (s : State) : State :=
  s.transferTask core 3 (fun s r x => match r.slot 0, r.slot 3 with
    | some a, some b =>
      let s := if !(s.run r.p r.g r.t).finished.isEmpty then s
        else
          let from_ := x.source r.capTable s.position a.t
          let dst := x.dest r.capTable s.position b.t
          let s := s.readErrors r a (clearBlocks from_)
          (s.writeStretches r.p dst 0 (s.readStretches r.p from_)).touchChunk r.p x dst
      s.endTask core r 0 false
    | _, _ => s.endEmpty core r)

/-- Where the data of a receive task go: its landing buffer or its slot-3 tensor (R320, R323). -/
def State.landingPlace (s : State) (p : Nat) (pl : Plan) (sec : List Byte) (g : Nat) (t : Task) : List Stretch :=
  let x := t.transfer
  match x.ring sec with
  | some l => match (pl.graph l.graph).bind (fun gr => gr.tensor l.tensor) with
    | some b => x.dest (pl.section 5) s.position { b with base := b.base + (x.seq % max 1 l.depth) * l.buffer }
    | none => []
  | none => match (pl.graph g).bind (fun gr => gr.slotTensor t 3) with
    | some o => if p < 4 then x.dest (pl.section 5) s.position o else []
    | none => []

/-! ### Received packets -/

/-- The section that a received packet's slot refers to: the old one for an old-epoch packet (R334). -/
def State.sectionFor (s : State) (p : Nat) (pk : Packet) : Option (List Byte) :=
  if pkEpoch pk = s.epoch then s.fabSec p else ((s.part p).sectionOld).orElse (fun _ => s.fabSec p)

/-- The receive entry that a packet matches (R317). -/
def matchSlot (sec : List Byte) (pk : Packet) : Option Nat :=
  (fabSlots sec).findIdx? (fun x => x.role == 2 && x.peer == (pkStamp pk).origin && x.peerSlot == pkSlot pk)

/-- A packet with no matching receive slot, or a bulk packet not accepted, is discarded (R309, R317). -/
def State.dropUnmatched (s : State) (port : Nat) : State := s.count (Ctr.portStaleDrop port)

/-- An old-epoch packet after the port's marker is discarded (R334). -/
def State.dropStale (s : State) (port : Nat) : State :=
  let s := (s.count (Ctr.portStaleDrop port)).modPort port (fun p => { p with stale := p.stale + 1 })
  s.raisePort port Ev.epochStaleDrop { value := (s.port port).stale }

/-- What becomes of a received packet by its epoch (R334). -/
inductive Fate
  | take | wait | stale
  deriving DecidableEq, Repr

/-- A packet of the next epoch waits and one of the module's own is taken; of the others one is stale once the marker of its
class named another epoch than its own (R334). -/
def State.fate (s : State) (port : Nat) (pk : Packet) : Fate :=
  if pkEpoch pk = (s.epoch + 1) % 4096 then .wait
  else if pkEpoch pk = s.epoch then .take
  else match lookup (s.port port).fence (pkClass pk) with
    | some e => if e = pkEpoch pk then .take else .stale
    | none => .take

/-- The data of a packet once its tag holds (R420); none when the tag fails. -/
def State.opened (s : State) (p : Nat) (pk : Packet) : Option Packet :=
  match (s.part p).fabricKey with
  | none => some pk
  | some key =>
    if pkClass pk = 0 then some pk
    else
      let iv := fabricIv (pkStamp pk).origin pk.count
      if pk.tag = gcmTag key iv pk.header pk.data then some { pk with data := gcmData key iv pk.data } else none

/-- A packet whose tag fails (R420): discarded, and its transfer is incomplete. -/
def State.tagFailed (s : State) (port p : Nat) (pk : Packet) : State :=
  let s := (s.count Ctr.secFabricTagFailCount).raisePort port Ev.fabricAuthFail { value := (pkStamp pk).origin }
  let slot := (s.sectionFor p pk).bind (fun sec => matchSlot sec pk)
  s.transientError p (UnitId.port port) (s.slotAddress p (slot.getD 0xFFFF) / 4096) 3

/-- A packet for this module arrives on a port: it waits in its buffer, is stale, fails its tag, or is acted on (R311,
R334, R420), its receipt stamped (R20). -/
def State.receive (s : State) (port : Nat) (pk : Packet) (act : State → Nat → Packet → State) : State :=
  if !s.portUp port || !s.isFor (s.portPart port) (pkDest pk) then s
  else match s.fate port pk with
    | .wait => (s.bufferPacket port pk).modPort port (fun p => { p with waiting := p.waiting ++ [pk] })
    | .stale => (s.passPacket port pk).dropStale port
    | .take =>
      let p := s.portPart port
      let s := (s.passPacket port pk).stampReceipt (pkStamp pk)
      match s.opened p pk with
      | none => s.tagFailed port p pk
      | some k => act s p k

/-! ### Barrier notices -/

/-- A barrier notice that the module takes, by the state of its plan (R446, R24, R25, R330, R376). -/
def State.takeNotice (s : State) (p : Nat) (n : Notice) : State :=
  match (s.part p).phase with
  | .idle => s
  | .checking => s
  | .admitted =>
    if s.standby then s else s.modBarrier p (fun b => { b with kept := b.kept ++ [n] })
  | .running => s.applyNotice p n
  | .held => s.applyNotice p n
  | .faulted => s.applyNotice p n

/-- The packet of a notice, its contents apart (R305). -/
def noticePacket (n : Notice) : Packet := ⟨n.header, [], [], 0⟩

/-- COMPLETION_NOTICE (R446): a notice waits for the boundary of its epoch, is stale behind the fence marker of its port
(R334), or is stamped at its receipt (R20) and taken. -/
def doCompletionNotice (p : Nat) (n : Notice) (s : State) : State :=
  match s.fate n.port (noticePacket n) with
  | .wait => (s.takeBuffer n.port 0 1).modPort n.port (fun x => { x with notices := x.notices ++ [(p, n)] })
  | .stale => (s.passBuffer n.port 0 1).dropStale n.port
  | .take => ((s.passBuffer n.port 0 1).stampReceipt (pkStamp (noticePacket n))).takeNotice p n

/-! ### Data packets and relaying -/

/-- A data packet is written where its transfer goes (R317, R320, R322). -/
def State.dataIn (port : Nat) (s : State) (p : Nat) (pk : Packet) : State :=
  match s.planOf p, s.sectionFor p pk with
  | some pl, some sec =>
    match (matchSlot sec pk).bind (pl.transferOf 2) with
    | none => s.dropUnmatched port
    | some (g, t, task) =>
      let x := task.transfer
      let xs := s.landingPlace p pl sec g task
      let s := s.writeStretches p xs (64 * pkOffset pk) (pkData pk)
      let s := if x.gradient then s.setRemoteScale p x.gradLayer (pkScale pk) else s
      let n := s.unitsIn p g t + (pkData pk).length / 64
      let s := s.modPart p (fun q => { q with arrived := insertKey q.arrived (taskKey g t) n })
      if n = x.units then s.touchChunk p x xs else s
  | _, _ => s.dropUnmatched port

/-- DATA_PACKET (R317, R320). -/
def doDataPacket (port : Nat) (pkt : Packet) (s : State) : State :=
  if pkKind pkt = 1 then s.receive port pkt (State.dataIn port) else s

/-- A packet that cannot be routed is discarded (R316). -/
def State.unroutable (s : State) (port : Nat) (pk : Packet) (cause : Nat) : State :=
  (s.count Ctr.fabUnroutableCount).raisePort port Ev.packetUnroutable { value := pkDest pk, cause := cause }

/-- The relay slot that a packet travels in, if it has one (R317). -/
def State.relaySlot (s : State) (p : Nat) (pk : Packet) : Option Nat :=
  (s.slotsNow p).findIdx? (fun x => x.role == 3 && x.peer == (pkStamp pk).origin && x.peerSlot == pkSlot pk)

/-- A packet for another position goes on by its route entry (R316). -/
def State.relay (s : State) (port : Nat) (pk : Packet) : State :=
  let p := s.portPart port
  match (s.fabSec p).bind (fun b => fabRoute b (pkDest pk)) with
  | none => (s.passPacket port pk).unroutable port pk 1
  | some r =>
    let out := (s.portTo p (pkDest pk)).getD r.port
    if bitAt r.relayIn port = 0 then (s.passPacket port pk).unroutable port pk 2
    else if !s.portUp out then (s.passPacket port pk).unroutable port pk 3
    else (s.bufferPacket port pk).enqueueVia out (pkClass pk) (.packet pk) ((s.relaySlot p pk).map (fun k => (p, k))) false
      (some port)

/-- PACKET_RELAY (R316, R334): the packet keeps its place in the input buffer until it leaves (R311). -/
def doPacketRelay (port : Nat) (pkt : Packet) (s : State) : State :=
  if !s.portUp port || s.isFor (s.portPart port) (pkDest pkt) then s
  else match s.fate port pkt with
    | .wait => (s.bufferPacket port pkt).modPort port (fun p => { p with waiting := p.waiting ++ [pkt] })
    | .stale => (s.passPacket port pkt).dropStale port
    | .take => (s.stampReceipt (pkStamp pkt)).relay port pkt

/-! ### Landing credits (R323) -/

/-- The consumer of a landing buffer has completed: its credit goes back to the sender, once. -/
def State.giveLanding (s : State) (p : Nat) (sec : List Byte) (x : Transfer) : State :=
  let mark := (x.landing, x.seq)
  if (s.part p).landGiven.contains mark then s
  else
    let peerSlot := (((fabSlots sec)[x.slotFirst]?).map (·.peerSlot)).getD 0xFFFF
    let s := s.modPart p (fun q => { q with landGiven := q.landGiven ++ [mark] })
    s.sendRouted p ⟨8, 0, x.peer, 0xFFFF, 0, true, x.seq, leBytes peerSlot 4⟩

/-- A task has completed: the landing buffers it releases (R323). -/
def State.releaseLandings (s : State) (p : Nat) (pl : Plan) (g t : Nat) : State :=
  match s.fabSec p with
  | none => s
  | some sec =>
    let xs := ((pl.graph g).map (fun gr => (gr.tasks.filter (fun k => k.op == 0x000D && k.transfer.mode == 2 &&
      k.transfer.consumer == t && k.transfer.landing != 0xFFFF)).map Task.transfer)).getD []
    xs.foldl (fun s x => s.giveLanding p sec x) s

/-- A landing credit arrives (R323): its slot names the sending transfer, its offset field the buffer number (log
entry 16). -/
def State.landingIn (port : Nat) (s : State) (p : Nat) (pk : Packet) : State :=
  match (s.planOf p).bind (fun pl => pl.transferOf 1 (leNat (slice (pkData pk) 0 4))) with
  | some (_, _, t) =>
    if t.transfer.peer = (pkStamp pk).origin then
      s.modPart p (fun q => { q with landCredits := q.landCredits ++ [(t.transfer.landing, pkOffset pk)] })
    else s.dropUnmatched port
  | none => s.dropUnmatched port

/-! ### Route switches (R335) -/

/-- The data of a route switch packet: the position, whether it travels down the tree, and the exposure (log
entry 16). -/
def switchData (position exposure : Nat) (down : Bool) : List Byte :=
  leBytes position 4 ++ leBytes (if down then 1 else 0) 4 ++ leBytes exposure 8

/-- A route switch packet towards a position. -/
def switchSpec (dest position exposure : Nat) (down : Bool) : PacketSpec :=
  ⟨7, 0, dest, 0xFFFF, 0, true, 0, switchData position exposure down⟩

/-- A route switch is known here: it applies at the tick that opens its exposure, or at the next tick, and goes down the
barrier tree (R335). -/
def State.noteSwitch (s : State) (p position x : Nat) : State :=
  let at_ := max x ((s.part p).exposure + 1)
  let s := s.modPart p (fun q => { q with switches := q.switches ++ [(position, x, at_)] })
  (s.barrierChildren p).foldl (fun s c => s.sendRouted p (switchSpec c position x true)) s

/-- A route switch goes up towards the barrier root (R335). -/
def State.switchUp (s : State) (p position x : Nat) : State :=
  if s.isBarrierRoot p then s.noteSwitch p position x
  else match s.fabSec p with
    | some b => s.sendRouted p (switchSpec (fabHeader b).barrierParent position x false)
    | none => s

/-- A route switch packet arrives (R335): on its way down it is applied, on its way up it goes on to the root. -/
def State.switchIn (s : State) (p : Nat) (pk : Packet) : State :=
  let position := bitsAt (fieldAt pk.data 0 4) 0 20
  let x := fieldAt pk.data 8 8
  if fieldAt pk.data 4 4 = 1 then s.noteSwitch p position x else s.switchUp p position x

/-- ROUTE_SWITCH (R335). -/
def doRouteSwitch (port : Nat) (pkt : Packet) (s : State) : State :=
  if pkKind pkt = 7 then s.receive port pkt State.switchIn else s

/-- ROUTE_SWITCH_APPLY (R335): at its tick the route entry of the position goes to its alternate port. -/
def doRouteSwitchApply (p position : Nat) (s : State) : State :=
  match (s.part p).switches.find? (fun x => x.1 == position && decide (x.2.2 ≤ (s.part p).exposure)) with
  | none => s
  | some (pos, x, at_) =>
    let s := s.modPart p (fun q => { q with switches := dropFirst (pos, x, at_) q.switches })
    let ev := fun (s : State) (cause : Nat) => s.raiseFor (some p) Ev.routeSwitched UnitId.module
      { value := pos, value2 := x % 2 ^ 32, cause := cause }
    match (s.fabSec p).bind (fun b => fabRoute b pos) with
    | none => s.modPart p (fun q => { q with fixer := { q.fixer with resumeAt := some q.exposure } })
    | some r =>
      if r.altPort = 0xFF then (ev s 2).stepFault p .route
      else
        let s := s.modPart p (fun q => { q with
          switched := if q.switched.contains pos then q.switched else q.switched ++ [pos]
          fixer := { q.fixer with resumeAt := some q.exposure } })
        ev (s.count Ctr.fabRouteSwitchCount) (if at_ = x then 0 else 1)

/-! ### The slot check of a degraded port (R301, R318) -/

/-- Bytes of the packets that carry `u` 64-byte units, headers and tags included (R306). -/
def wireBytes (u : Nat) (tagged : Bool) : Nat := 64 * u + ceilDiv u 64 * if tagged then 48 else 32

/-- FENCE_MARKER (R334): every old-epoch packet of its class on that link has arrived. -/
def doFenceMarker (port : Nat) (pkt : Packet) (s : State) : State :=
  if pkKind pkt = 6 ∧ s.portUp port then
    ((s.passPacket port pkt).stampReceipt (pkStamp pkt)).modPort port (fun p => { p with fence := insertKey p.fence (pkClass pkt) (pkEpoch pkt) })
  else s

end Sys2Proof.Machine
end

