-- ==== Sys2Proof/Machine/Reduce.lean ====
section
/-! DEFINITION. Reductions (R325 to R328): groups and stripes, the slots of a reduction in order, the engines' sums,
maxima and ORs, results and sidebands; and the slot check of a degraded port (R301, R318). -/

namespace Sys2Proof.Machine

/-! ### Groups, stripes and slots (R325, R326) -/

/-- A group entry (R325). -/
structure RedGroup where
  members : Nat
  stripes : Nat
  first : Nat
  reservedZero : Bool
  deriving DecidableEq, Repr

/-- Read a group entry. -/
def RedGroup.ofBytes (b : List Byte) : RedGroup := ⟨fieldAt b 0 4, fieldAt b 4 1, fieldAt b 8 4, zeroAt b 5 3 && zeroAt b 12 4⟩

/-- The group entries of a section. -/
def fabGroups (sec : List Byte) : List RedGroup :=
  (records sec (fabHeader sec).groups 16 (fabHeader sec).groupCount).map RedGroup.ofBytes

/-- A stripe entry (R325). -/
structure Stripe where
  root : Nat
  parent : Nat
  childCount : Nat
  children : List Nat
  unused : Bool
  reservedZero : Bool
  deriving DecidableEq, Repr

/-- Read a stripe entry. -/
def Stripe.ofBytes (b : List Byte) : Stripe :=
  let n := fieldAt b 8 1
  let all := (List.range 8).map (fun i => fieldAt b (12 + 4 * i) 4)
  ⟨fieldAt b 0 4, fieldAt b 4 4, n, all.take n, (all.drop n).all (· == noParent), zeroAt b 9 3 && zeroAt b 44 4⟩

/-- The module is the root of the stripe. -/
def Stripe.isRoot (x : Stripe) : Bool := x.parent == noParent

/-- The stripe entries of a group; they follow the group entries. -/
def RedGroup.entries (x : RedGroup) (sec : List Byte) : List Stripe :=
  let base := (fabHeader sec).groups + 16 * (fabHeader sec).groupCount
  (records sec (base + 48 * x.first) 48 x.stripes).map Stripe.ofBytes

/-- The parameter block of op 0x000E (R326). -/
structure Reduce where
  op : Nat
  flags : Nat
  wire : Nat
  out : Nat
  group : Nat
  gradLayer : Nat
  touchKind : Nat
  ports : Nat
  touchIndex : Nat
  touchLocal : Nat
  slotFirst : Nat
  elements : Nat
  slotCount : Nat
  deriving DecidableEq, Repr

/-- Read the block. -/
def Task.reduce (t : Task) : Reduce :=
  ⟨t.par 0 1, t.par 1 1, t.par 2 1, t.par 3 1, t.par 4 2, t.par 6 2, t.par 8 1, t.par 9 1, t.par 10 2, t.par 12 2,
   t.par 14 2, t.par 16 8, t.par 24 2⟩

/-- Inputs are added in order of origin (R327). -/
def Reduce.ordered (x : Reduce) : Bool := bitAt x.flags 0 == 1
/-- The transfers carry a gradient (R328). -/
def Reduce.gradient (x : Reduce) : Bool := bitAt x.flags 1 == 1
/-- Sidebands are sent (R328). -/
def Reduce.sideband (x : Reduce) : Bool := bitAt x.flags 2 == 1 || bitAt x.flags 3 == 1
/-- The type on the wire going up. -/
def Reduce.wireType (x : Reduce) : DType := (DType.ofCode x.wire).getD .fp32
/-- The type of the result. -/
def Reduce.outType (x : Reduce) : DType := (DType.ofCode x.out).getD .fp32

/-- Elements of stripe `k` of `t`: first, and one past the last (R325). -/
def Reduce.range (x : Reduce) (t k : Nat) : Nat × Nat := (x.elements * k / t, x.elements * (k + 1) / t)

/-- What a run of p slots carries in a reduction (R326). -/
inductive LegKind
  | upIn | upOut | downIn | downOut
  deriving DecidableEq, Repr

/-- A logical transfer of a reduction: its stripe, kind, the other end, and its first slot. -/
structure Leg where
  k : Nat
  kind : LegKind
  peer : Nat
  first : Nat
  deriving DecidableEq, Repr

/-- The transfers of one stripe in the order of R326. -/
def Stripe.legs (x : Stripe) : List (LegKind × Nat) :=
  x.children.map (fun c => (LegKind.upIn, c)) ++
    (if x.isRoot then [] else [(LegKind.upOut, x.parent), (LegKind.downIn, x.parent)]) ++
    x.children.map (fun c => (LegKind.downOut, c))

/-- The transfers of a reduction with their slots. -/
def Reduce.legs (x : Reduce) (ss : List Stripe) : List Leg :=
  let all := ss.zipIdx.flatMap (fun y => y.1.legs.map (fun z => (y.2, z)))
  all.zipIdx.map (fun y => ⟨y.1.1, y.1.2.1, y.1.2.2, x.slotFirst + x.ports * y.2⟩)

/-- The stripes of a reduction, of a section. -/
def Reduce.stripesOf (x : Reduce) (sec : List Byte) : List Stripe :=
  (((fabGroups sec)[x.group]?).map (fun g => g.entries sec)).getD []

/-- A reduction task of the plan, as graph, task number and record. -/
structure RedTask where
  g : Nat
  t : Nat
  task : Task
  x : Reduce
  ss : List Stripe
  deriving DecidableEq, Repr

/-- The reduction tasks of a plan under a section. -/
def Plan.reductions (pl : Plan) (sec : List Byte) : List RedTask :=
  (pl.allTasks.filter (fun y => y.2.2.op == 0x000E)).map (fun y =>
    ⟨y.1, y.2.1, y.2.2, y.2.2.reduce, y.2.2.reduce.stripesOf sec⟩)

/-- The transfer of a reduction that uses a slot. -/
def Plan.legOf (pl : Plan) (sec : List Byte) (slot : Nat) : Option (RedTask × Leg) :=
  (pl.reductions sec).findSome? (fun r => ((r.x.legs r.ss).find? (fun l =>
    decide (l.first ≤ slot ∧ slot < l.first + r.x.ports))).map (fun l => (r, l)))

/-- Bytes of `n` elements of type `d` in a transfer of a reduction. DESIGN CHOICE (log entry 68): those of an MX type (a
maximum takes one, R326) are the element codes and behind them one scale byte for every 32 elements of the stripe. -/
def DType.stripeBytes (d : DType) (n : Nat) : Nat := if d.isMx then ceilDiv (n * d.bits) 8 + ceilDiv n 32 else n * d.bits / 8

/-- 64-byte units of stripe `k` in elements of type `d`. -/
def RedTask.units (r : RedTask) (k : Nat) (d : DType) : Nat :=
  let e := r.x.range r.ss.length k
  ceilDiv (d.stripeBytes (e.2 - e.1)) 64

/-! ### Stripes in progress -/

/-- A stripe of which nothing is known yet. -/
def StripeRun.init (g t k : Nat) : StripeRun := ⟨g, t, k, [], none, 0, [], none, false, false⟩

/-- A stripe in progress. -/
def State.stripe (s : State) (p g t k : Nat) : StripeRun :=
  ((s.part p).stripes.find? (fun x => x.g == g && x.t == t && x.k == k)).getD (StripeRun.init g t k)

/-- Change a stripe in progress. -/
def State.modStripe (s : State) (p g t k : Nat) (f : StripeRun → StripeRun) : State :=
  let x := f (s.stripe p g t k)
  s.modPart p (fun q => { q with
    stripes := q.stripes.filter (fun y => !(y.g == g && y.t == t && y.k == k)) ++ [x] })

/-- Units of a child's partial that have arrived. -/
def StripeRun.unitsOf (x : StripeRun) (origin : Nat) : Nat :=
  ((x.inputs.filter (fun i => i.origin == origin)).map (fun i => ceilDiv i.data.length 64)).sum

/-- The inputs of the 64-byte range `unit` (R327): in arrival order with the own contribution (`none`) in its place, or
in order of origin. -/
def StripeRun.order (x : StripeRun) (ordered : Bool) (own unit : Nat) : List (Option StripeInput) :=
  let covers := fun (i : StripeInput) => decide (i.offset ≤ unit ∧ 64 * unit < 64 * i.offset + i.data.length)
  let at_ := x.ownAt.getD x.inputs.length
  let items := ((x.inputs.take at_).filter covers).map some ++ [none] ++ ((x.inputs.drop at_).filter covers).map some
  if ordered then sortBy (fun (i : Option StripeInput) => (i.map (·.origin)).getD own) items else items

/-- The element bits of an input at element `i` of the stripe, in the wire type. -/
def StripeInput.bits (x : StripeInput) (d : DType) (i : Nat) : Nat :=
  let bit := i * d.bits
  let o := bit / 8 - 64 * x.offset
  bitsAt (fieldAt x.data o 4) (bit % 8) d.bits

/-- What a reduction works on: its operands at this module. -/
structure RedWork where
  p : Nat
  r : RedTask
  src : Tensor
  dst : Tensor
  position : Nat

/-- Byte `b` of what arrived of a stripe from `origin`. -/
def StripeRun.byteFrom (x : StripeRun) (origin b : Nat) : Byte :=
  (x.inputs.findSome? (fun i =>
    if i.origin = origin ∧ 64 * i.offset ≤ b then i.data[b - 64 * i.offset]? else none)).getD 0

/-- Element `i` of the `n` elements of an MX stripe that arrived from `origin`, under its block's scale. -/
def StripeRun.mxValue (x : StripeRun) (d : DType) (n origin i : Nat) : Fp :=
  let bit := i * d.bits
  let code := leNat ((List.range 2).map (fun j => x.byteFrom origin (bit / 8 + j)))
  applyScale (x.byteFrom origin (ceilDiv (n * d.bits) 8 + i / 32)).toNat (d.decodeElem (bitsAt code (bit % 8) d.bits))

/-- The value of the stripe's element `i` from one input (R328: rescaled to the own e). -/
def State.redValue (s : State) (w : RedWork) (k : Nat) (run : StripeRun) (inp : Option StripeInput) (i : Nat) : Fp := match inp with
  | none => s.elem w.p w.src (w.src.coords ((w.r.x.range w.r.ss.length k).1 + i))
  | some x =>
    let d := w.r.x.wireType
    let e := w.r.x.range w.r.ss.length k
    let v := if d.isMx then run.mxValue d (e.2 - e.1) x.origin i else d.decodeElem (x.bits d i)
    if w.r.x.gradient then v.scale2 (s.gradScale w.r.x.gradLayer - x.e) else v

/-- The bits of the stripe's element `i` from one input, for an OR. -/
def State.redBits (s : State) (w : RedWork) (k : Nat) (inp : Option StripeInput) (i : Nat) : Nat := match inp with
  | none => s.elemBits w.p w.src (w.src.bitOffset (w.src.coords ((w.r.x.range w.r.ss.length k).1 + i)))
  | some x => x.bits w.r.x.wireType i

/-- The combined value of the stripe's element `i`: a sum in FP32, or a maximum (R327). -/
def State.redElem (s : State) (w : RedWork) (k : Nat) (x : StripeRun) (i : Nat) : Fp :=
  let inputs := x.order w.r.x.ordered w.position (i * w.r.x.wireType.bits / 512)
  match inputs.map (fun y => s.redValue w k x y i) with
  | [] => Fp.zero
  | v :: vs => if w.r.x.op = 2 then vs.foldl Fp.max v else vs.foldl Fp.add v.to32

/-- The codes of a combined stripe in type `d`, and how many elements of a sum are not finite (R143, R327). -/
def State.redCodes (s : State) (w : RedWork) (k : Nat) (x : StripeRun) (d : DType) : List Nat × Nat :=
  let e := w.r.x.range w.r.ss.length k
  let idx := List.range (e.2 - e.1)
  if w.r.x.op = 3 then
    (idx.map (fun i => ((x.order false w.position (i * d.bits / 512)).map (fun y => s.redBits w k y i)).foldl (· ||| ·) 0), 0)
  else
    let vs := idx.map (fun i => s.redElem w k x i)
    (vs.map d.encodeElem, if w.r.x.op = 1 then (vs.filter (fun v => !v.finite)).length else 0)

/-- Element codes as consecutive bytes. -/
def packCodes (d : DType) (codes : List Nat) : List Byte :=
  leBytes (codes.foldr (fun c acc => c % 2 ^ d.bits + 2 ^ d.bits * acc) 0) (ceilDiv (codes.length * d.bits) 8)

/-- The elements of a stripe in blocks of 32, the last with what is left. -/
def stripeBlocks (vs : List Fp) : List (List Fp) :=
  (List.range (ceilDiv vs.length 32)).map (fun b => (vs.drop (32 * b)).take 32)

/-- The values of an MX stripe as bytes of a transfer (R126; log entry 68). -/
def mxStripe (d : DType) (vs : List Fp) : List Byte :=
  packCodes d ((stripeBlocks vs).flatMap d.encodeBlock) ++ (stripeBlocks vs).map (fun b => BitVec.ofNat 8 (d.scaleByte b))

/-- The bytes of a combined stripe in type `d` as they go on the wire. -/
def State.redBytes (s : State) (w : RedWork) (k : Nat) (x : StripeRun) (d : DType) (codes : List Nat) : List Byte :=
  let e := w.r.x.range w.r.ss.length k
  if d.isMx then mxStripe d ((List.range (e.2 - e.1)).map (fun i => s.redElem w k x i)) else packCodes d codes

/-- Write element codes into the result tensor from element `i` on: through the Clear encoder of its stack, or raw
(R261, R327). -/
def State.putResult (s : State) (p : Nat) (t : Tensor) (i : Nat) (codes : List Nat) : State :=
  if t.clear then s.putCodes p t (codes.zipIdx.map (fun x => (i + x.2, x.1)))
  else codes.zipIdx.foldl (fun s x => s.putBits p t (t.bitOffset (t.coords (i + x.2))) [x.1]) s

/-- Write values into an MX result tensor from element `first` on (R126): every block of 32 that they touch is converted
again as a whole, with one scale; elements of it that are not among them keep their values (log entry 68). -/
def State.putMxResult (s : State) (p : Nat) (t : Tensor) (first : Nat) (vs : List Fp) : State :=
  (List.range ((first + vs.length + 31) / 32 - first / 32)).foldl (fun s j =>
    let b := 32 * (first / 32 + j)
    let block := (List.range 32).map (fun i =>
      if b + i < first then s.elem p t (t.coords (b + i)) else (vs[b + i - first]?).getD (s.elem p t (t.coords (b + i))))
    (s.putResult p t b (t.type.encodeBlock block)).writeSpace p t.space (t.base + t.scaleOffsetOf (t.coords b))
      [BitVec.ofNat 8 (t.type.scaleByte block)]) s

/-! ### Sidebands (R328) -/

/-- The sideband of this module: its amax as FP32 bits and its touch bit. -/
def State.ownSide (s : State) (p : Nat) (x : Reduce) : Nat × Nat :=
  let a := if bitAt x.flags 2 = 1 then ((s.layer x.gradLayer).bind (·.amax)).getD 0 else 0
  let q := s.part p
  let t := if x.touchKind = 1 then q.touchedExperts.contains (4096 * x.touchIndex + x.touchLocal)
    else x.touchKind == 2 && q.touchedSets.contains x.touchIndex
  (a, if t then 1 else 0)

/-- The larger amax and the OR of the touch bits. -/
def joinSide (a b : Nat × Nat) : Nat × Nat := (((Fp.of32 a.1).max (Fp.of32 b.1)).bits32, a.2 ||| b.2)

/-- The 8 data bytes of a sideband. -/
def sideBytes (x : Nat × Nat) : List Byte := leBytes (x.1 % 2 ^ 32 + 2 ^ 32 * (x.2 % 2)) 8

/-- The module records the combined sideband (R147, R221, R224). -/
def State.recordSide (s : State) (p : Nat) (x : Reduce) (v : Nat × Nat) : State :=
  let s := if bitAt x.flags 2 = 1 then s.recordAmax x.gradLayer (Fp.of32 v.1) else s
  if bitAt x.flags 3 = 0 ∨ v.2 = 0 then s
  else
    let key := 4096 * x.touchIndex + x.touchLocal
    s.modPart p (fun q =>
      if x.touchKind = 1 then
        { q with touchedExperts := if q.touchedExperts.contains key then q.touchedExperts else q.touchedExperts ++ [key] }
      else if x.touchKind = 2 then
        { q with touchedSets := if q.touchedSets.contains x.touchIndex then q.touchedSets else q.touchedSets ++ [x.touchIndex] }
      else q)

/-! ### Moving a stripe on -/

/-- Make the p slots of a transfer ready, its sideband behind the last packet (R328). -/
def State.readyLeg (s : State) (p : Nat) (x : Reduce) (l : Leg) (kind cls e : Nat) (data : List Byte)
    (side : Option (Nat × Nat)) : State :=
  let proto : PacketSpec := ⟨kind, cls, l.peer, 0, e, false, 0, []⟩
  let s := s.readySlots p l.first x.ports proto (data ++ List.replicate (64 * ceilDiv data.length 64 - data.length) 0)
  match side with
  | none => s
  | some v =>
    let last := l.first + x.ports - 1
    s.modOutSlot p last (fun o => { o with packets := (o.packets.map (fun ps =>
      ps ++ [⟨4, 2, l.peer, last, 0, true, 0, sideBytes v⟩])) })

/-- Send a stripe's result down to the children with its sideband (R326). -/
def State.sendDown (s : State) (w : RedWork) (k : Nat) (data : List Byte) (side : Option (Nat × Nat)) : State :=
  let e := if w.r.x.gradient then unsigned 8 (s.gradScale w.r.x.gradLayer) else 0
  ((w.r.x.legs w.r.ss).filter (fun l => l.k == k && l.kind == .downOut)).foldl (fun s l =>
    s.readyLeg w.p w.r.x l 3 1 e data side) s

/-- Count the non-finite sums of a stripe as hits of the task (R143, R327). -/
def State.redHits (s : State) (w : RedWork) (hits : Nat) : State :=
  if hits = 0 then s
  else
    let before := (s.run w.p w.r.g w.r.t).hits
    let s := s.modRun w.p w.r.g w.r.t (fun r => { r with hits := r.hits + hits })
    let s := (s.count Ctr.numHitElementCount hits).count Ctr.numUnlayeredHitCount hits
    if before = 0 then
      s.raise Ev.numericHitUnlayered (UnitId.core w.r.task.coreFirst) { object := w.r.t, value := w.r.g }
    else s

/-- Combine a stripe once every input is in (R327, R328): the partial goes up, or at the root the result is written and
goes down. -/
def State.combineStripe (s : State) (w : RedWork) (k : Nat) (st : Stripe) : State :=
  let x := s.stripe w.p w.r.g w.r.t k
  let u := w.r.units k w.r.x.wireType
  let ready := x.ownAt.isSome && st.children.all (fun c => decide (u ≤ x.unitsOf c)) &&
    (!w.r.x.sideband || decide (st.children.length ≤ x.sides.length))
  if x.combined || !ready then s
  else
    let side := if w.r.x.sideband then some (x.sides.foldl joinSide (s.ownSide w.p w.r.x)) else none
    let d := if st.isRoot then w.r.x.outType else w.r.x.wireType
    let c := s.redCodes w k x d
    let data := s.redBytes w k x d c.1
    let n := (w.r.x.range w.r.ss.length k).2 - (w.r.x.range w.r.ss.length k).1
    let vs := if d.isMx then (List.range n).map (fun i => s.redElem w k x i) else []
    let s := (s.redHits w c.2).modStripe w.p w.r.g w.r.t k (fun x => { x with combined := true, done := st.isRoot })
    if st.isRoot then
      let first := (w.r.x.range w.r.ss.length k).1
      let s := if d.isMx then s.putMxResult w.p w.dst first vs else s.putResult w.p w.dst first c.1
      let s := match side with
        | some v => s.recordSide w.p w.r.x v
        | none => s
      s.sendDown w k data side
    else
      let e := if w.r.x.gradient then unsigned 8 (s.gradScale w.r.x.gradLayer) else 0
      ((w.r.x.legs w.r.ss).filter (fun l => l.k == k && l.kind == .upOut)).foldl (fun s l =>
        s.readyLeg w.p w.r.x l 2 2 e data side) s

/-- A stripe's result and sideband from the parent are complete (R327): they go down to the children. The result of an MX
stripe is written here, for its scales come last. -/
def State.finishStripe (s : State) (w : RedWork) (k parent : Nat) : State :=
  let x := s.stripe w.p w.r.g w.r.t k
  let d := w.r.x.outType
  if x.done || !x.combined || decide (x.result < w.r.units k d) || (w.r.x.sideband && x.side.isNone) then s
  else
    let e := w.r.x.range w.r.ss.length k
    let n := e.2 - e.1
    let codes := (List.range n).map (fun i => s.elemBits w.p w.dst (w.dst.bitOffset (w.dst.coords (e.1 + i))))
    let data := if d.isMx then (List.range (d.stripeBytes n)).map (x.byteFrom parent) else packCodes d codes
    let s := if d.isMx then s.putMxResult w.p w.dst e.1 ((List.range n).map (x.mxValue d n parent)) else s
    (s.modStripe w.p w.r.g w.r.t k (fun x => { x with done := true })).sendDown w k data x.side

/-- Move a stripe on as far as it can go. -/
def State.moveStripe (s : State) (w : RedWork) (k : Nat) : State := match w.r.ss[k]? with
  | some st => (s.combineStripe w k st).finishStripe w k st.parent
  | none => s

/-- The operands of a reduction of the plan. -/
def State.redWork (s : State) (p : Nat) (pl : Plan) (r : RedTask) : Option RedWork :=
  match (pl.graph r.g).bind (fun g => g.slotTensor r.task 0), (pl.graph r.g).bind (fun g => g.slotTensor r.task 3) with
  | some a, some b => some ⟨p, r, a, b, s.position⟩
  | _, _ => none

/-- The running task as a reduction. -/
def Running.redTask (r : Running) (sec : List Byte) : RedTask := ⟨r.g, r.t, r.task, r.task.reduce, r.task.reduce.stripesOf sec⟩

/-- Every stripe of the task stands and every slot it sends in has been sent. -/
def State.redDone (s : State) (w : RedWork) : Bool :=
  (List.range w.r.ss.length).all (fun k => (s.stripe w.p w.r.g w.r.t k).done) &&
    ((w.r.x.legs w.r.ss).filter (fun l => l.kind == .upOut || l.kind == .downOut)).all (fun l =>
      s.slotsSent w.p l.first w.r.x.ports)

/-- A contribution joins a reduction: it is stamped (R18). -/
def State.stampPart (s : State) : State := s.issueStamp 4 s.time.now

/-- REDUCTION (R326, R327): the own contribution joins every stripe; a share ends when every stripe stands. -/
def doReduction (core : Nat) (s : State) : State :=
  match s.runningOn core with
  | none => s
  | some r =>
    if r.task.op ≠ 0x000E then s
    else match s.fabSec r.p, r.slot 0, r.slot 3 with
      | some sec, some a, some b =>
        let w : RedWork := ⟨r.p, r.redTask sec, a.t, b.t, s.position⟩
        let join := w.r.ss.zipIdx.any (fun y => (s.stripe r.p r.g r.t y.2).ownAt.isNone)
        let s := if join then
            let s := s.load r a a.t.rowRuns
            (List.range w.r.ss.length).foldl (fun s k =>
              ((s.stampPart).modStripe r.p r.g r.t k (fun x => { x with ownAt := some x.inputs.length })).moveStripe w k) s
          else s
        if !s.redDone w then s
        else
          let s := if s.othersDone core r then s.count Ctr.fabReductionsCount else s
          s.endTask core r 0 false
      | _, _, _ => s.endEmpty core r

/-! ### Received partials, results and sidebands -/

/-- The reduction that a received packet belongs to, with its transfer. -/
def State.redOf (s : State) (p : Nat) (pk : Packet) (kind : LegKind) : Option (RedWork × Leg) :=
  match s.planOf p, s.sectionFor p pk with
  | some pl, some sec =>
    match (matchSlot sec pk).bind (pl.legOf sec) with
    | some (r, l) => if l.kind = kind then (s.redWork p pl r).map (fun w => (w, l)) else none
    | none => none
  | _, _ => none

/-- The reduction engine at a port that rescales an input: the first of its I/O die (log entry 29). -/
def engineAt (port : Nat) : UnitId := UnitId.engine (8 * (port / 12))

/-- A child's partial arrives (R327, R328). -/
def State.partialIn (port : Nat) (s : State) (p : Nat) (pk : Packet) : State :=
  match s.redOf p pk .upIn with
  | none => s.dropUnmatched port
  | some (w, l) =>
    let own := s.gradScale w.r.x.gradLayer
    let s := if w.r.x.gradient && pkOffset pk == 0 && pkScale pk != own then
        let s := s.count Ctr.fabScaleMismatchCount
        if (s.part p).once.contains (Ev.reduceScaleMismatch.code, (engineAt port).num) then s
        else (s.modPart p (fun q => { q with once := q.once ++ [(Ev.reduceScaleMismatch.code, (engineAt port).num)] })).raiseFor (some p)
          Ev.reduceScaleMismatch (engineAt port)
          { object := w.r.x.gradLayer, value := unsigned 32 (pkScale pk), value2 := unsigned 32 own }
      else s
    ((s.stampPart).modStripe p w.r.g w.r.t l.k (fun x => { x with
      inputs := x.inputs ++ [⟨(pkStamp pk).origin, pkScale pk, pkOffset pk, pkData pk⟩] })).moveStripe w l.k

/-- REDUCTION_PARTIAL (R327). -/
def doReductionPartial (port : Nat) (pkt : Packet) (s : State) : State :=
  if pkKind pkt = 2 then s.receive port pkt (State.partialIn port) else s

/-- A result packet from the parent is written into the result tensor (R327). -/
def State.resultIn (port : Nat) (s : State) (p : Nat) (pk : Packet) : State :=
  match s.redOf p pk .downIn with
  | none => s.dropUnmatched port
  | some (w, l) =>
    let d := w.r.x.outType
    let e := w.r.x.range w.r.ss.length l.k
    let first := 64 * 8 * pkOffset pk / d.bits
    let n := min (8 * (pkData pk).length / d.bits) (e.2 - e.1 - first)
    let bits := leNat (pkData pk)
    let codes := (List.range n).map (fun i => bitsAt bits (i * d.bits) d.bits)
    let s := if d.isMx then s else s.putResult p w.dst (e.1 + first) codes
    (s.modStripe p w.r.g w.r.t l.k (fun x =>
      { x with
        result := x.result + ceilDiv (pkData pk).length 64
        inputs := if d.isMx then x.inputs ++ [⟨l.peer, pkScale pk, pkOffset pk, pkData pk⟩] else x.inputs })).moveStripe w l.k

/-- REDUCTION_RESULT (R327). -/
def doReductionResult (port : Nat) (pkt : Packet) (s : State) : State :=
  if pkKind pkt = 3 then s.receive port pkt (State.resultIn port) else s

/-- A sideband arrives from a child, or from the parent and is recorded (R328). -/
def State.sideIn (port : Nat) (s : State) (p : Nat) (pk : Packet) : State :=
  let v := (fieldAt pk.data 0 4, fieldAt pk.data 4 1 % 2)
  match s.redOf p pk .upIn with
  | some (w, l) => (s.modStripe p w.r.g w.r.t l.k (fun x => { x with sides := x.sides ++ [v] })).moveStripe w l.k
  | none => match s.redOf p pk .downIn with
    | some (w, l) =>
      ((s.recordSide p w.r.x v).modStripe p w.r.g w.r.t l.k (fun x => { x with side := some v })).moveStripe w l.k
    | none => s.dropUnmatched port

/-- SIDEBAND (R328). -/
def doSideband (port : Nat) (pkt : Packet) (s : State) : State :=
  if pkKind pkt = 4 then s.receive port pkt (State.sideIn port) else s

/-! ### The slot check (R301, R318) -/

/-- 64-byte units that slot `slot` carries: its part of its transfer; 0 for a relay slot. -/
def Plan.slotUnits (pl : Plan) (sec : List Byte) (slot : Nat) : Nat :=
  let part := fun (u n i : Nat) => (partUnits u n i).2 - (partUnits u n i).1
  match (pl.transferOf 1 slot).orElse (fun _ => pl.transferOf 2 slot) with
  | some (_, _, t) => part t.transfer.units t.transfer.ports (slot - t.transfer.slotFirst)
  | none => match pl.legOf sec slot with
    | some (r, l) =>
      let d := if l.kind = .upIn ∨ l.kind = .upOut then r.x.wireType else r.x.outType
      part (r.units l.k d) r.x.ports (slot - l.first)
    | none => 0

/-- Every slot on the port carries its transfer at `rate` tenths of GB/s (R318). -/
def Plan.portFits (pl : Plan) (sec : List Byte) (port rate : Nat) (tagged : Bool) : Bool :=
  (fabSlots sec).zipIdx.all (fun x => (x.1.portOut != port && x.1.portIn != port) ||
    decide (wireBytes (pl.slotUnits sec x.2) tagged ≤ x.1.capacity rate))

/-- A port has become DEGRADED: its slots are checked again at 57.8 GB/s, and a slot that no longer fits makes the plan
invalid (R302, R318). -/
def State.recheckPort (s : State) (n : Nat) : State :=
  let p := s.portPart n
  match s.planOf p, s.fabSec p with
  | some pl, some sec =>
    if pl.portFits sec n (s.slotRate n) (s.part p).fabricKey.isSome then s else s.planInvalid p 3
  | _, _ => s

/-- The symbol error ratio of a window exceeds 10^-lane_ser_exp (R301). -/
def State.laneBad (s : State) (errors symbols : Nat) : Bool :=
  decide (symbols < errors * 10 ^ s.get Reg.fabLimits_laneSerExp)

/-- LANE_FAILURE (R301, R302): a lane whose error ratio is too high fails: the spare steps in, the port degrades to the
half without the failed lane, or a degraded port that loses an active lane goes down. -/
def doLaneFailure (port lane errors symbols : Nat) (s : State) : State :=
  let failed := s.get (Reg.fabPort_failedLanes port)
  if !s.portUp port || decide (9 ≤ lane) || bitAt failed lane == 1 || !s.laneBad errors symbols then s
  else
    let p := s.port port
    let s := s.set (Reg.fabPort_failedLanes port) (failed + 2 ^ lane)
    let spare := s.get (Reg.fabPort_spareUsed port) == 0 && bitAt failed 8 == 0
    if s.portState port = 3 then (if p.activeLane lane then s.portDown port 4 else s)
    else match p.logical lane with
      | none => s
      | some l =>
        let retrained := fun (s : State) => (s.count (Ctr.portLaneRetrain port)).modPort port (fun p =>
          { p with exposureRetrains := p.exposureRetrains + 1 })
        if spare then
          ((retrained ((s.set (Reg.fabPort_spareUsed port) 1).modPort port (fun p => { p with spareFor := some l }))).raise
            Ev.laneSpared (UnitId.port port) { value := lane })
        else
          let s := (s.set (Reg.fabPort_state port) 3).modPort port (fun p => { p with upperHalf := decide (l < 4) })
          ((retrained s).raise Ev.portDegraded (UnitId.port port)
            { value := s.get (Reg.fabPort_failedLanes port) }).recheckPort port

end Sys2Proof.Machine
end

