-- ==== Sys2Proof/Machine/Commit.lean ====
section
/-! DEFINITION. The completion of tasks, the commit or replay of a layer (R114, R137 to R143), and queue faults (R119). -/

namespace Sys2Proof.Machine

/-! ### Completion, commit and replay -/

/-- Tokens of a completed task to the successors that satisfy `to` (R114). -/
def State.sendTokens (s : State) (pl : Plan) (g t : Nat) (dst : Task → Bool) : State :=
  let toks := ((pl.successors g t).filter (fun x => dst x.2)).flatMap (fun x =>
    x.2.cores.map (fun c => (⟨c, g, x.1⟩ : Token)))
  { s with tokens := s.tokens ++ toks }

/-- The tasks of a layer in graph `g`. -/
def Plan.layerTasks (pl : Plan) (g l : Nat) : List (Nat × Task) := match pl.graph g with
  | none => []
  | some gr => (gr.tasks.zipIdx.filter (fun x => x.1.layer == l)).map (fun x => (x.2, x.1))

/-- The layer commits (R138): its halos are written (R237), and the held tokens of its tasks go to the tasks outside it. -/
def State.commitLayer (s : State) (p : Nat) (pl : Plan) (g l : Nat) : State :=
  let ts := pl.layerTasks g l
  let s := ts.foldl (fun s x => s.writeHalos p pl g x.1 x.2) s
  ts.foldl (fun s x => s.sendTokens pl g x.1 (fun t => t.layer != l)) s

/-- Put a task of a replayed layer back (R139): its run starts again and its cores hold it as a replayed task, with
as many missing predecessors as it has inside the layer; a sleeping core wakes (R399, R402). -/
def State.replayTask (s : State) (p g l : Nat) (pl : Plan) (x : Nat × Task) : State :=
  let key := taskKey g x.1
  let inner := (x.2.preds.filter (fun q => ((pl.task g q).map (·.layer)).getD noLayer == l)).length
  let s := (s.modRun p g x.1 (fun _ => TaskRun.init)).wake (fun u => x.2.cores.any (fun c => u == .core c))
  x.2.cores.foldl (fun s c => s.modCore c (fun k =>
    { k with
      started := k.started.filter (· != key), replay := k.replay ++ [key]
      missing := insertKey k.missing key inner })) s

/-- The layer replays one rung up (R139). -/
def State.replayLayer (s : State) (p g l : Nat) (pl : Plan) : State :=
  let hold := s.get Reg.numPromotionHold_holdSteps
  let step := (s.part p).step
  let tasks := pl.layerTasks g l
  let before := ((s.layer l).map (·.replays)).getD 0
  let s := s.modLayer l (fun e =>
    { e with
      promotion := e.promotion + 1, hold := hold, lastPromotion := step, since := step
      replays := min (e.replays + 1) counterMax })
  let s := if before + 1 = counterMax then s.raise Ev.counterSaturated (counterUnit 0x500028) { value := 0x500028 } else s
  let rung := (tasks.map (fun x => s.effRung x.2)).foldl max 0
  let first := ((tasks.find? (fun x => x.2.commits)).map (fun x => x.2.coreFirst)).getD 0
  let s := s.raise Ev.layerReplay (UnitId.core first) { object := l, value := rung, value2 := step % 2 ^ 32 }
  let s := { s with tally := { s.tally with replays := s.tally.replays + 1 } }
  let s := ((s.count Ctr.numReplayCount).set Reg.numLastReplay_layer l).set Reg.numLastReplay_rung rung
  tasks.foldl (fun s x => s.replayTask p g l pl x) s

/-- A numeric fault of a layer (R141): cause 1 a hit at rung 3, 2 a non-finite stored input. -/
def State.numericFault (s : State) (p l cause : Nat) : State :=
  let s := s.raise Ev.numericFault (UnitId.partition p) { object := l, cause := cause }
  ((s.set Reg.numStatus_fault 1).count Ctr.numNumericFaultCount).stepFault p .numeric

/-- The commit task of a layer has completed (R138, R139, R141): the layer faults the step, replays or commits; during
a drain it does none of these (R144). -/
def State.judgeLayer (s : State) (p g l : Nat) (pl : Plan) : State :=
  let runs := (pl.layerTasks g l).map (fun x => s.run p g x.1)
  if !s.inStep p then s
  else if runs.any (·.badInput) then s.numericFault p l 2
  else if runs.any (·.hitAtTop) then s.numericFault p l 1
  else if runs.any (fun r => decide (0 < r.hits)) then s.replayLayer p g l pl
  else s.commitLayer p pl g l

/-- Every task of the step has completed and none waits to run again. -/
def State.allTasksDone (s : State) (p : Nat) (pl : Plan) : Bool :=
  pl.allTasks.all (fun x => (s.run p x.1 x.2.1).completed)

/-- The next sweep due at the end of the running step (R373). -/
def State.dueNow (s : State) (p : Nat) : Option DueSweep :=
  (s.part p).fixer.dues.find? (fun x => decide (x.step ≤ (s.part p).step))

/-- Work of the Fixer that the step's end waits for: a sweep that is due or runs (R373), or groups to be restored and
copies asked of the partner (R378, R379). -/
def State.fixerHolds (s : State) (p : Nat) : Bool :=
  let f := (s.part p).fixer
  f.sweep.isSome || (s.dueNow p).isSome || !(s.part p).restoreDue.isEmpty || !f.asked.isEmpty || f.failed

/-- The module's last task of the step completed (R24): the notice is stamped, unless the Fixer's work comes first
(R373). -/
def State.stepWorkDone (s : State) (p : Nat) (pl : Plan) : State :=
  if s.inStep p && s.allTasksDone p pl && !s.fixerHolds p then s.ownNotice p else s

/-- TASK_COMPLETION (R114, R138, R139): every core of the task's set has finished its share. -/
def doTaskCompletion (p graph task : Nat) (s : State) : State :=
  match s.planOf p with
  | none => s
  | some pl => match pl.task graph task with
    | none => s
    | some t =>
      let r := s.run p graph task
      if r.completed || !t.cores.all (fun c => r.finished.contains c) then s
      else
        let s := s.modRun p graph task (fun r => { r with completed := true })
        let s := if t.layered then s.sendTokens pl graph task (fun x => x.layer == t.layer)
          else (s.writeHalos p pl graph task t).sendTokens pl graph task (fun _ => true)
        let s := s.payHalos p pl graph task t
        let s := s.releaseLandings p pl graph task
        let s := if t.layered && t.commits then s.judgeLayer p graph t.layer pl else s
        s.stepWorkDone p pl

/-! ### Queue faults -/

/-- The unit in whose domain a queue lives: its reader's (R117, R118). -/
def State.queueUnit (s : State) (q : QueueRef) : UnitId := match q with
  | .plan p i => UnitId.core ((((s.planOf p).bind (fun pl => pl.queue i)).map (·.consumer)).getD 0)
  | .tokenPort c => UnitId.core c
  | .creditPort c => UnitId.core c
  | .channel n _ => UnitId.port n
  | .intake u => UnitId.intake u
  | .developer u => UnitId.developer (64 + u)
  | .eventPath => UnitId.module

/-- The partition whose data a queue holds: that of its unit; the event path counts in partition 0 (R437; log entry 65). -/
def State.queuePart (s : State) (q : QueueRef) : Nat := match q with
  | .plan p _ => p
  | .tokenPort c => s.corePart c
  | .creditPort c => s.corePart c
  | .channel n _ => s.portPart n
  | .intake u => s.get (Reg.intUnitControl_partition u)
  | .developer u => s.stackPart (u / 4)
  | .eventPath => 0

/-- The core that counts a queue's resets: the one at which it lives, if it lives at a core (R119, R122). -/
def State.queueCore (s : State) (q : QueueRef) : Option Nat := match q with
  | .plan p i => ((s.planOf p).bind (fun pl => pl.queue i)).map (·.consumer)
  | .tokenPort c => some c
  | .creditPort c => some c
  | _ => none

/-- The number a queue carries in events (R119): its index in the queue table; all ones for any other queue (DESIGN CHOICE,
log entry 65). -/
def queueNumber : QueueRef → Nat
  | .plan _ i => i
  | _ => 0xFFFFFFFF

/-- The credit goes to the producer `c` of its queue (R115). -/
def State.creditFor (s : State) (c : Nat) (k : Credit) : Bool :=
  (((s.planOf k.p).bind (fun pl => pl.queue k.queue)).map (·.producer)) == some c

/-- A relayed packet stands in the receive buffer of this port and class (R311). -/
def PortItem.standsIn (x : PortItem) (n cls : Nat) : Bool := x.via == some n && x.cls == cls

/-- The entries a queue holds. -/
def State.queueHolds (s : State) (q : QueueRef) : Nat := match q with
  | .plan p i => (s.queueRun p i).items.length
  | .tokenPort c => (s.tokens.filter (fun k => k.core == c)).length
  | .creditPort c => (s.credits.filter (s.creditFor c)).length
  | .channel n cls =>
    ((s.port n).waiting.filter (fun pk => pkClass pk == cls)).length + (if cls = 0 then (s.port n).notices.length else 0) +
      (s.ports.map (fun x => (x.queue.filter (fun y => y.standsIn n cls)).length)).sum
  | .intake u => (((s.intake[u]?).map (·.queue)).getD []).length
  | .developer u => ((lookup s.devQueues u).getD []).length
  | .eventPath => s.events.path.length

/-- A plan queue loses its entries and its producer holds every credit (R119): halo entries already in a window return none
again. -/
def State.resetPlanQueue (s : State) (p i : Nat) : State := match (s.planOf p).bind (fun pl => pl.queue i) with
  | none => s
  | some e =>
    let s : State :=
      { s.modQueue p i (fun x => { x with items := [], credits := e.entries }) with
        credits := s.credits.filter (fun (k : Credit) => k != (⟨p, i⟩ : Credit)) }
    (s.modCore e.consumer (fun k =>
      { k with paid := k.paid ++ (k.window.map (fun w => (w.1, i))).filter (!k.paid.contains ·) })).endWaits p e.producer

/-- A receive buffer loses its packets, and its units are due to the neighbour (R119, R311). -/
def State.resetChannel (s : State) (n cls : Nat) : State :=
  let s : State := { s with ports := s.ports.map (fun x => { x with queue := x.queue.filter (fun y => !y.standsIn n cls) }) }
  let s := s.modPort n (fun x => { x with
    waiting := x.waiting.filter (fun pk => pkClass pk != cls), notices := if cls = 0 then [] else x.notices })
  s.freeBuffer n cls (((s.port n).link.used[cls]?).getD 0)

/-- A queue discards its entries and returns every credit to its producer (R119). -/
def State.resetQueue (s : State) (q : QueueRef) : State := match q with
  | .plan p i => s.resetPlanQueue p i
  | .tokenPort c => { s with tokens := s.tokens.filter (fun k => k.core != c) }
  | .creditPort c => { s with credits := s.credits.filter (fun k => !s.creditFor c k) }
  | .channel n cls => s.resetChannel n cls
  | .intake u => { s with intake := s.intake.modify u (fun x => { x with queue := [] }) }
  | .developer u => { s with devQueues := s.devQueues.filter (fun x => x.1 != u) }
  | .eventPath => { s with events := { s.events with path := [] } }

/-- A reset is counted at the core at which the queue lives, and noted there for a plan queue (R119, R122). -/
def State.noteReset (s : State) (q : QueueRef) : State := match s.queueCore q, q with
  | some c, .plan _ i => ((s.count (Ctr.coreQueueResetCount c)).set (Reg.coreQueueError_queue c) i).set
      (Reg.coreQueueError_valid c) 1
  | some c, _ => (s.count (Ctr.coreQueueResetCount c)).set (Reg.coreQueueError_valid c) 1
  | none, _ => s

/-- An entry of a queue is lost (R378). -/
def State.queueLoss (s : State) (q : QueueRef) : State :=
  s.transientError (s.queuePart q) (s.queueUnit q) (queueNumber q) 1

/-- QUEUE_PTR_MISMATCH (R119): the queue resets and returns its credits; lost entries are an uncorrectable error. -/
def doQueuePtrMismatch (q : QueueRef) (cause inTransfer : Nat) (s : State) : State :=
  let lost := s.queueHolds q
  let u := s.queueUnit q
  let s := ((s.resetQueue q).raiseFor (some (s.queuePart q)) Ev.queuePtrMismatch u
    { object := queueNumber q, value := lost, cause := cause }).noteReset q
  if lost = 0 ∧ inTransfer = 0 then s else s.queueLoss q

end Sys2Proof.Machine
end

