-- ==== Sys2Proof/Machine/Securing.lean ====
section
/-! DEFINITION. The Fixer's copies (R365 to R370, R379): the securing plan, the step record, group copies, seals and their
digests, the own and ward areas, mirrors, and restores from a seal. -/

namespace Sys2Proof.Machine

/-! ### The securing plan (R365, R368) -/

/-- The header of section type 8. -/
structure SecPlan where
  version : Nat
  flags : Nat
  reserved : Nat
  count : Nat
  partner : Nat
  ward : Nat
  second : Nat
  ownOff : Nat
  ownSize : Nat
  wardOff : Nat
  wardSize : Nat
  wardPriv : Nat
  restoreEpoch : Nat
  reservedZero : Bool
  deriving DecidableEq, Repr

/-- Read the header. -/
def SecPlan.ofBytes (b : List Byte) : SecPlan :=
  ⟨fieldAt b 0 2, fieldAt b 2 1, fieldAt b 3 1, fieldAt b 4 4, fieldAt b 8 4, fieldAt b 12 4, fieldAt b 16 4, fieldAt b 20 4,
   fieldAt b 24 4, fieldAt b 28 4, fieldAt b 32 4, fieldAt b 36 8, fieldAt b 44 2, zeroAt b 46 18⟩

/-- An entry of the securing plan: a group and whether it is privileged (class 2). -/
structure SecItem where
  group : Nat
  cls : Nat
  reservedZero : Bool
  deriving DecidableEq, Repr

/-- No position. -/
def noPosition : Nat := 0xFFFFFFFF
/-- The item number of the step record (R369). -/
def recordItem : Nat := 0xFFFFFFFF

/-- The securing plan of a plan, if it has one. -/
def Plan.securing (pl : Plan) : Option SecPlan :=
  if pl.hasSection 8 then some (SecPlan.ofBytes (pl.section 8)) else none

/-- The entries of the securing plan. -/
def Plan.secItems (pl : Plan) : List SecItem := match pl.securing with
  | none => []
  | some h => (records (pl.section 8) 64 8 h.count).map (fun b => ⟨fieldAt b 0 4, fieldAt b 4 1, zeroAt b 5 3⟩)

/-- The items of a sweep in entry order, the step record last (R373): risk items, or every item. -/
def Plan.sweepItems (pl : Plan) (all : Bool) : List Nat :=
  if pl.securing.isNone then [] else ((pl.secItems.filter (fun x => all || x.cls == 1)).map (·.group)) ++ [recordItem]

/-- Every item, the step record last. -/
def Plan.allItems (pl : Plan) : List Nat := pl.sweepItems true

/-- An item is privileged, as the step record is (R367). -/
def Plan.privileged (pl : Plan) (item : Nat) : Bool :=
  item == recordItem || pl.secItems.any (fun x => x.group == item && x.cls == 2)

/-- Where the sealed region begins in space 2 (R271). -/
def State.sealedBase (s : State) : Nat :=
  (s.get Reg.memNegUsable_usableGib - s.get Reg.memNegSealed_sealedGib) * 2 ^ 30

/-! ### The step record (R367) -/

/-- The history bytes in place: the newest at index histNext - 1 of a ring of `window` (R145). -/
def LayerEntry.historyBytes (e : LayerEntry) (window : Nat) : List Byte :=
  (List.range 64).map (fun i =>
    if window ≤ i then 0
    else BitVec.ofNat 8 ((e.history[(e.histNext + 2 * window - 1 - i) % window]?).getD 0))

/-- The 96 bytes of an entry of the numeric layer table (R145). -/
def State.layerBytes (s : State) (e : LayerEntry) : List Byte :=
  leBytes e.layer 4 ++ leBytes e.promotion 1 ++ leBytes (unsigned 8 e.e) 1 ++ leBytes (s.holdLeft e) 2 ++
    leBytes e.history.length 1 ++ leBytes e.histNext 1 ++ leBytes e.gFormat 1 ++
    leBytes ((if e.remote then 1 else 0) + if e.hasGrad then 2 else 0) 1 ++ leBytes e.lastPromotion 4 ++
    leBytes e.replays 8 ++ leBytes 0 8 ++ e.historyBytes (s.get Reg.numGradScale_history)

/-- Read an entry of the numeric layer table for partition `p` in step `now`, from which its hold counts (R144). -/
def layerOfBytes (p window now : Nat) (b : List Byte) : LayerEntry :=
  let len := fieldAt b 8 1
  let next := fieldAt b 9 1
  { layer := fieldAt b 0 4, promotion := fieldAt b 4 1, e := signed 8 (fieldAt b 5 1), hold := fieldAt b 6 2, partition := p
    history := (List.range len).map (fun j => fieldAt b (32 + (next + 2 * window - 1 - j) % max 1 window) 1)
    histNext := next, gFormat := fieldAt b 10 1, remote := bitAt (fieldAt b 11 1) 0 == 1
    hasGrad := bitAt (fieldAt b 11 1) 1 == 1, lastPromotion := fieldAt b 12 4, replays := fieldAt b 16 8, amax := none
    since := now }

/-- The generations of partition `p` that are not FREE. -/
def State.residentGens (s : State) (p : Nat) : List Nat :=
  (List.range 16).filter (fun g => (s.gen p g).state != .free)

/-- The step record (R367) in the model's layout (log entry 31): step, epoch, resident generations, seed, entry count, the
layer entries, and the images of the generations. -/
def State.recordBytes (s : State) (p : Nat) : List Byte :=
  let es := s.layers.filter (fun e => e.partition == p)
  let gs := s.residentGens p
  leBytes (s.part p).step 8 ++ leBytes s.epoch 2 ++ leBytes ((gs.map (2 ^ ·)).sum) 2 ++ leBytes es.length 4 ++
    leBytes (s.pair Reg.numSeed) 8 ++ leBytes 0 8 ++ es.flatMap s.layerBytes ++
    gs.flatMap (fun g => slice (s.gen p g).tables 0 896)

/-- The image of generation `g` in a step record. -/
def recordImage (b : List Byte) (g : Nat) : Option (List Byte) :=
  let mask := fieldAt b 10 2
  if bitAt mask g = 0 then none
  else
    let before := ((List.range g).filter (fun i => bitAt mask i == 1)).length
    some (slice b (32 + 96 * fieldAt b 12 4 + 896 * before) 896)

/-- A step boundary takes a snapshot of the step record (R367). -/
def State.snapshotRecord (s : State) (p : Nat) : State :=
  let b := s.recordBytes p
  s.modFixer p (fun f => { f with snapshot := b })

/-! ### Copies (R366) -/

/-- Bytes padded with zeros to 4 KiB. -/
def pad4k (b : List Byte) : List Byte := b ++ List.replicate (4096 * ceilDiv b.length 4096 - b.length) 0

/-- A copy: its blocks' bytes and their tags. -/
structure Copy where
  data : List Byte
  tags : List Nat
  deriving DecidableEq, Repr

/-- The tensors of a group's copy, in order. -/
def Plan.copyTensors (pl : Plan) (g : Nat) : List Tensor := match pl.groups[g]? with
  | none => []
  | some e => e.tensorIndices.filterMap (fun i => (pl.graph e.graph).bind (fun gr => gr.tensor i))

/-- The group step as R284 sets it at the end of step `n`: already set if that step has ended. -/
def State.sealedStep (s : State) (p g n : Nat) : Nat :=
  let x := s.group p g
  if n = (s.part p).step && (x.status == 1 || x.status == 3) && x.step != groupStepMax then x.step + 1 else x.step

/-- The copy of group `g` at the end of step `n` (R366): stored bytes with their tags, then the state entry with the step
that R284 sets and no status (log entry 31). -/
def State.groupCopy (s : State) (p g n : Nat) (pl : Plan) : Copy :=
  let ts := pl.copyTensors g
  let st := (s.group p g)
  let entry := { st with step := s.sealedStep p g n, status := 0 }
  let tags := ts.flatMap (fun t => (List.range (ceilDiv t.span 4096)).map (fun j => s.tagAt p t.space (t.base + 4096 * j)))
  ⟨ts.flatMap (fun t => pad4k (s.readSpace p t.space t.base t.span)) ++ pad4k entry.bytes, tags ++ [0]⟩

/-- The copy of an item at the end of step `n`; `rec` is the step record's snapshot (R367, R372). -/
def State.itemCopy (s : State) (p item n : Nat) (pl : Plan) (rec : List Byte) : Copy :=
  if item = recordItem then
    let b := pad4k rec
    ⟨b, List.replicate (b.length / 4096) 0⟩
  else s.groupCopy p item n pl

/-- The generations that coded blocks of a copy use, as a map of bits (R369). -/
def Copy.gens (c : Copy) : Nat := ((List.range 16).map (fun g => if c.tags.any (namesGen g) then 2 ^ g else 0)).sum

/-- A copy as one stream: its bytes, then its tags (log entry 31). -/
def Copy.stream (c : Copy) : List Byte := c.data ++ c.tags.flatMap (fun t => leBytes t 2)

/-- The copy that a stream spells. -/
def Copy.ofStream (b : List Byte) : Copy :=
  let n := b.length / 4098
  ⟨b.take (4096 * n), (List.range n).map (fun i => fieldAt b (4096 * n + 2 * i) 2)⟩

/-! ### Areas and seal records (R368, R369) -/

/-- A seal record. -/
structure SealRec where
  item : Nat
  slot : Nat
  state : Nat
  epoch : Nat
  groupStep : Nat
  bytes : Nat
  step : Nat
  stamp : List Byte
  digest : List Byte
  gens : Nat
  deriving DecidableEq, Repr

/-- The record's first 48 bytes. -/
def SealRec.head (r : SealRec) : List Byte :=
  leBytes r.item 4 ++ leBytes r.slot 1 ++ leBytes r.state 1 ++ leBytes r.epoch 2 ++ leBytes r.groupStep 4 ++ leBytes 0 4 ++
    leBytes r.bytes 8 ++ leBytes r.step 8 ++ slice r.stamp 0 16

/-- The record's 128 bytes. -/
def SealRec.toBytes (r : SealRec) : List Byte := r.head ++ slice r.digest 0 64 ++ leBytes r.gens 2 ++ leBytes 0 14

/-- Read a seal record. -/
def SealRec.ofBytes (b : List Byte) : SealRec :=
  ⟨fieldAt b 0 4, fieldAt b 4 1, fieldAt b 5 1, bitsAt (fieldAt b 6 2) 0 12, fieldAt b 8 4, fieldAt b 16 8, fieldAt b 24 8,
   slice b 32 16, slice b 48 64, fieldAt b 112 2⟩

/-- The digest of a copy under its record (R369): bytes, tags, then bytes 0..47 of the record. -/
def SealRec.digestOf (r : SealRec) (c : Copy) : List Byte := sha512 (c.stream ++ r.head)

/-- A place of one item: the address of its two records and of its two copy slots, in space 2. -/
structure ItemPlace where
  dir : Nat
  slot0 : Nat
  slot1 : Nat
  deriving DecidableEq, Repr

/-- Bytes of a group's copy, b_g (R366). -/
def Plan.copyBytes (pl : Plan) (g : Nat) : Nat :=
  ((pl.copyTensors g).map (fun t => 4096 * ceilDiv t.span 4096)).sum + 4096

/-- The largest step record of a plan of `n` layers: header, entries and sixteen images, rounded up to 4 KiB. -/
def recordSize (n : Nat) : Nat := 4096 * ceilDiv (32 + 96 * n + 896 * 16) 4096

/-- Layers of the numeric table that a plan's step record may hold: its own and the remote ones (R145). -/
def Plan.recordLayers (pl : Plan) : Nat :=
  (((pl.allTasks.map (fun x => x.2.2.layer)).filter (· != noLayer)) ++
    pl.remoteLayers).eraseDups.length

/-- b of an item. -/
def Plan.itemBytes (pl : Plan) (item : Nat) : Nat :=
  if item = recordItem then recordSize pl.recordLayers else pl.copyBytes item

/-- Bytes of an area's directory for `n` items (R368). -/
def dirBytes (n : Nat) : Nat := up2Mib (256 * (n + 1))

/-- The place of an item in the own area (R368). -/
def State.ownPlace (s : State) (pl : Plan) (item : Nat) : Option ItemPlace :=
  match pl.securing with
  | none => none
  | some h =>
    let items := pl.allItems
    (items.findIdx? (· == item)).map (fun k =>
      let base := s.sealedBase + h.ownOff * 2 ^ 21
      let at_ := base + dirBytes h.count + 2 * ((items.take k).map (fun i => up2Mib (pl.itemBytes i))).sum
      ⟨base + 256 * k, at_, at_ + up2Mib (pl.itemBytes item)⟩)

/-- The seal record in slot `i` of a place. -/
def State.sealAt (s : State) (a : ItemPlace) (i : Nat) : SealRec := SealRec.ofBytes (s.neg.readN (a.dir + 128 * i) 128)

/-- Where the copy of slot `i` lies. -/
def ItemPlace.slot (a : ItemPlace) (i : Nat) : Nat := if i = 0 then a.slot0 else a.slot1

/-- A rank by which the newer of two records is the greater: step, then stamp (R369). -/
def SealRec.rank (r : SealRec) : Nat := r.step * 2 ^ 128 + leNat r.stamp

/-- The slots of a place with a record of state 1 for the item, newest first. -/
def State.validSlots (s : State) (a : ItemPlace) (item : Nat) : List Nat :=
  let ok := fun (i : Nat) => (s.sealAt a i).state == 1 && (s.sealAt a i).item == item
  let l := [0, 1].filter ok
  if ok 0 && ok 1 && decide ((s.sealAt a 0).rank < (s.sealAt a 1).rank) then [1, 0] else l

/-- The copy of `n` blocks stored at a space-2 address, with its tags. -/
def State.storedCopy (s : State) (at_ n : Nat) : Copy :=
  ⟨s.neg.readN at_ (4096 * n), (List.range n).map (fun j => readOr 0 s.negTags (at_ / 4096 + j))⟩

/-- The copy stored in slot `i` of a place. -/
def State.copyAt (s : State) (a : ItemPlace) (i : Nat) : Copy := s.storedCopy (a.slot i) ((s.sealAt a i).bytes / 4096)

/-- Write tags of consecutive space-2 blocks. -/
def State.putNegTags (s : State) (block : Nat) (tags : List Nat) : State :=
  tags.zipIdx.foldl (fun s x => { s with negTags := writeOr 0 s.negTags (block + x.2) x.1 }) s

/-- Write a copy with its tags at a space-2 address. -/
def State.putCopy (s : State) (at_ : Nat) (c : Copy) : State := (s.rawNeg at_ c.data).putNegTags (at_ / 4096) c.tags

/-- Write a seal record with its state byte last: it replaces the record of its slot whole (R369), and the sealed region
holds a sealed copy (R276). -/
def State.putSeal (s : State) (a : ItemPlace) (r : SealRec) : State :=
  (s.rawNeg (a.dir + 128 * r.slot) r.toBytes).set Reg.memNegStatus_sealedInUse 1

/-- EV_SEAL_INVALID and its count (R369): a copy of the own area (`ward` 0), or one that stood in a ward area (1). -/
def State.noteInvalid (s : State) (p item ward : Nat) : State :=
  (s.raiseFor (some p) Ev.sealInvalid (s.control p)
    { object := if item = recordItem then 0 else item % 2 ^ 16, value := if item = recordItem then 1 else 0
      cause := ward }).count Ctr.survSealInvalidCount

/-- A copy whose digest differs is invalid: its record's state becomes 0 (R369). -/
def State.sealInvalid (s : State) (p item ward : Nat) (a : ItemPlace) (i : Nat) : State :=
  (s.noteInvalid p item ward).rawNeg (a.dir + 128 * i + 5) [0]

/-- The first of these slots whose copy keeps its digest, and the state after the checks; `ok` restricts the records
used. -/
def State.firstValid (s : State) (p item ward : Nat) (a : ItemPlace) (ok : SealRec → Bool) :
    List Nat → Option (SealRec × Copy) × State
  | [] => (none, s)
  | i :: rest =>
    let r := s.sealAt a i
    let c := s.copyAt a i
    if !ok r then State.firstValid s p item ward a ok rest
    else if r.digestOf c = r.digest then (some (r, c), s)
    else State.firstValid (s.sealInvalid p item ward a i) p item ward a ok rest

/-! ### Sealing -/

/-- The slot of a place that does not hold the item's newest valid seal (R369). -/
def State.freeSlot (s : State) (a : ItemPlace) (item : Nat) : Nat := match s.validSlots a item with
  | i :: _ => 1 - i
  | [] => 0

/-- The mirror of an item that is in flight is abandoned: what of it waits at a port does not go out (R370). -/
def State.abandonMirror (s : State) (p item : Nat) : State :=
  let s := { s with
    ports := s.ports.map (fun (x : Port) => { x with queue := x.queue.filter (fun y => y.mirror != some (p, item)) }) }
  s.modFixer p (fun f => { f with inFlight := f.inFlight.filter (fun x => x.1 != item) })

/-- A newer seal of an item is to be mirrored (R370); `inSweep` says that it is of a sweep. -/
def State.wantMirror (s : State) (p item : Nat) (pl : Plan) (inSweep : Bool) : State :=
  if !(pl.securing.map (fun h => bitAt h.flags 0 == 1 && h.partner != noPosition)).getD false then s
  else (s.abandonMirror p item).modFixer p (fun f => { f with
    mirrors := if f.mirrors.contains item then f.mirrors else f.mirrors ++ [item]
    unmirrored := if inSweep && !f.unmirrored.contains item then f.unmirrored ++ [item] else f.unmirrored })

/-- The Fixer writes the copy of an item and its seal (R369): into the slot without the newest valid seal. -/
def State.sealItem (s : State) (p item n : Nat) (pl : Plan) (rec : List Byte) (inSweep : Bool) : State :=
  match s.ownPlace pl item with
  | none => s
  | some a =>
    let slot := s.freeSlot a item
    let c := s.itemCopy p item n pl rec
    let st := s.stampNow 8
    let r : SealRec := ⟨item, slot, 1, s.epoch, if item = recordItem then 0 else s.sealedStep p item n, c.data.length, n,
      st.bytes, [], c.gens⟩
    let r := { r with digest := r.digestOf c }
    (((s.stampUsed.putCopy (a.slot slot) c).putSeal a r).count Ctr.survGroupsSealedCount).wantMirror p item pl inSweep

/-! ### Restoring (R379) -/

/-- Clear generations that a seal names and that are not resident come back from a step record's images (R379); those that
it has no image of wait for the step record that is still to be restored. -/
def State.loadGens (s : State) (p mask : Nat) (rec : List Byte) : State :=
  (List.range 16).foldl (fun s g =>
    if bitAt mask g = 1 ∧ (s.gen p g).state = .free then match recordImage rec g with
      | some b => s.modGen p g (fun _ => ⟨.retiring, b⟩)
      | none => s.modFixer p (fun f => { f with needGens := f.needGens ||| 2 ^ g })
    else s) s

/-- Some generation that a seal names is not resident. -/
def State.lacksGens (s : State) (p mask : Nat) : Bool :=
  (List.range 16).any (fun g => bitAt mask g == 1 && (s.gen p g).state == .free)

/-- The step record that a restore takes Clear generations from (R379), and the state after the checks of R369: the newest own
seal of it that keeps its digest, or else the snapshot. Where every generation is resident, none is used. -/
def State.recordFor (s : State) (p mask : Nat) (pl : Plan) : List Byte × State :=
  let here := (s.part p).fixer.snapshot
  if !s.lacksGens p mask then (here, s)
  else match s.ownPlace pl recordItem with
    | none => (here, s)
    | some a => match s.firstValid p recordItem 0 a (fun _ => true) (s.validSlots a recordItem) with
      | (some (_, c), s) => (c.data, s)
      | (none, s) => (here, s)

/-- Write the copy's blocks with their tags into the group's tensors. -/
def State.putTensors (s : State) (p : Nat) : List Tensor → Copy → State
  | [], _ => s
  | t :: ts, c =>
    let n := ceilDiv t.span 4096
    let s := s.writeSpace p t.space t.base ((c.data.take t.span))
    let s := if t.clear then
        (c.tags.take n).zipIdx.foldl (fun s x => s.setTag p t.space (t.base + 4096 * x.2) x.1) s
      else s
    State.putTensors s p ts ⟨c.data.drop (4096 * n), c.tags.drop n⟩

/-- The state entry at the end of a group's copy. -/
def Copy.entry (c : Copy) : GroupState :=
  let b := c.data.drop (c.data.length - 4096)
  { step := fieldAt b 0 4, last := fieldAt b 4 4, eta := fieldAt b 8 4, status := 0, frozen := bitAt (fieldAt b 13 1) 0 == 1
    frozenAtAdmission := bitAt (fieldAt b 13 1) 1 == 1
    pending := if bitAt (fieldAt b 13 1) 2 = 1 then some (bitAt (fieldAt b 13 1) 0 == 0) else none, saturated := false, discardRaised := false
    srRaised := false }

/-- A group returns from a copy (R298, R379): its blocks, its state entry, and η for its step. -/
def State.restoreGroup (s : State) (p g : Nat) (pl : Plan) (r : SealRec) (c : Copy) : State :=
  let old := s.group p g
  let e := c.entry
  let rf := s.recordFor p r.gens pl
  let s := (rf.2.loadGens p r.gens rf.1).putTensors p (pl.copyTensors g) c
  let s := s.modGroup p g (fun _ => e)
  let s := match pl.groups[g]? with
    | some x => s.setEta p g pl x
    | none => s
  if e.step = old.step then s
  else
    let s := s.raise Ev.groupRestored (UnitId.partition p) { object := g, value := old.step, value2 := e.step }
    let s := ((s.set Reg.survLastRestore_group g).set Reg.survLastRestore_valid 1).set Reg.survLastRestoreFrom old.step
    (s.set Reg.survLastRestoreTo e.step).count Ctr.survRestoresCount

/-- The step record returns (R367, R384): the layer entries, the seed, the snapshot with its step number, and the Clear
generations that groups restored before it wait for. -/
def State.restoreRecord (s : State) (p : Nat) (c : Copy) : State :=
  let b := c.data
  let n := fieldAt b 12 4
  let es := (List.range n).map (fun i => layerOfBytes p (s.get Reg.numGradScale_history) (s.part p).step (slice b (32 + 96 * i) 96))
  let s := { s with layers := s.layers.filter (fun (e : LayerEntry) => !es.any (fun x => x.layer == e.layer)) ++ es }
  let need := (s.part p).fixer.needGens
  ((s.setPair Reg.numSeed (fieldAt b 16 8)).modFixer p (fun f => { f with snapshot := b, needGens := 0 })).loadGens p need b

/-- An item returns from a copy. -/
def State.restoreItem (s : State) (p item : Nat) (pl : Plan) (r : SealRec) (c : Copy) : State :=
  if item = recordItem then s.restoreRecord p c else s.restoreGroup p item pl r c

/-- A bulk header (R309). -/
def bulkHeader (op : Nat) (last : Bool) (item offset total step : Nat) : List Byte :=
  leBytes op 1 ++ leBytes (if last then 1 else 0) 1 ++ leBytes 0 2 ++ leBytes item 4 ++ leBytes offset 8 ++ leBytes total 8 ++
    leBytes step 8 ++ leBytes 0 32

/-- A class-4 packet with a bulk header (R308, R309). -/
def bulkSpec (dest : Nat) (last : Bool) (header data : List Byte) : PacketSpec :=
  ⟨9, 4, dest, 0xFFFF, 0, last, 0, header ++ data⟩

/-- The packets of an item's stream and its seal record: bulk ops `op` and `op + 1` (R309). -/
def itemPackets (dest op item step : Nat) (stream : List Byte) (r : SealRec) : List PacketSpec :=
  let n := ceilDiv stream.length 4032
  (List.range n).map (fun k =>
    bulkSpec dest (k + 1 == n) (bulkHeader op (k + 1 == n) item (4032 * k) stream.length step) ((stream.drop (4032 * k)).take 4032)) ++
    [bulkSpec dest true (bulkHeader (op + 1) true item 0 0 step) r.toBytes]

/-- Send packets outside slots to a position. -/
def State.sendAll (s : State) (p : Nat) (xs : List PacketSpec) : State := xs.foldl (fun s x => s.sendRouted p x) s

/-- A route with a working port leads to the position. -/
def State.reaches (s : State) (p dest : Nat) : Bool := match s.portTo p dest with
  | some n => s.portUp n
  | none => false

/-- Ask the partner for an item (R379, R384), or fail where no partner can be reached. A second request asks for the older
mirror: its packet stands at offset 1 (DESIGN CHOICE, log entry 31). -/
def State.askPartner (s : State) (p item : Nat) (pl : Plan) (again : Bool) : State :=
  let partner := (pl.securing.map (·.partner)).getD noPosition
  if partner = noPosition ∨ !s.reaches p partner then s.restoreFailed p item
  else
    (s.sendRouted p { bulkSpec partner true (bulkHeader 4 true item 0 0 0) [] with offset := if again then 1 else 0 }).modFixer p (fun f =>
      { f with asked := f.asked ++ [item], stage := f.stage.filter (fun x => x.1 != item) })

/-- Restore one item from the own area, or ask the partner for it (R379); `ok` restricts the seals used (R387). -/
def State.restoreFrom (s : State) (p item : Nat) (pl : Plan) (ok : SealRec → Bool) : State :=
  let own := match s.ownPlace pl item with
    | some a => s.firstValid p item 0 a ok (s.validSlots a item)
    | none => (none, s)
  match own with
  | (some (r, c), s) => s.restoreItem p item pl r c
  | (none, s) => (s.modFixer p (fun f => { f with retried := f.retried.filter (· != item) })).askPartner p item pl false

/-- Restore groups from their newest valid seals (R377, R378). -/
def State.restoreGroups (s : State) (p : Nat) (pl : Plan) (gs : List Nat) : State :=
  gs.foldl (fun s g => s.restoreFrom p g pl (fun _ => true)) s

/-! ### The ward area (R309, R370) -/

/-- The items of a ward area that mirrors have described so far, with the bytes of their copies (R368; DESIGN CHOICE, log
entry 31: they stand in the order in which their mirrors first came). -/
def State.wardItems (s : State) (h : SecPlan) : List (Nat × Nat) :=
  (s.wards.filter (fun x => x.ward == h.ward && x.off == h.wardOff)).map (fun x => (x.item, x.bytes))

/-- The place of an item in the ward area: the same layout as an own area's, for the ward's items (R368). -/
def State.wardPlace (s : State) (h : SecPlan) (item : Nat) : Option ItemPlace :=
  let items := s.wardItems h
  (items.findIdx? (fun x => x.1 == item)).map (fun k =>
    let base := s.sealedBase + h.wardOff * 2 ^ 21
    let at_ := base + dirBytes (items.length - 1) + 2 * ((items.take k).map (fun x => up2Mib x.2)).sum
    ⟨base + 256 * k, at_, at_ + ((items[k]?).map (fun x => up2Mib x.2)).getD 0⟩)

/-- No item: what stands in a ward area for an item that has a copy of another size now. -/
def noItem : Nat := 2 ^ 32

/-- A mirror describes an item of the ward (R368): a new one takes the next place, and so does one whose copy has another
size than before. -/
def State.noteWard (s : State) (h : SecPlan) (item bytes : Nat) : State :=
  if (s.wardItems h).contains (item, bytes) then s
  else
    let old := s.wards.map (fun x =>
      if x.ward == h.ward && x.off == h.wardOff && x.item == item then { x with item := noItem } else x)
    { s with wards := old ++ [⟨h.ward, h.wardOff, item, bytes⟩] }

/-- The bulk operation of a packet (R309). -/
def bulkOp (pk : Packet) : Nat := fieldAt pk.data 0 1
/-- The item of a bulk packet. -/
def bulkItem (pk : Packet) : Nat := fieldAt pk.data 4 4

/-- The securing plan that names the packet's origin as its ward (R309, R370). -/
def State.wardPlan (s : State) (p : Nat) (pk : Packet) : Option SecPlan :=
  (s.planOf p).bind (fun pl => pl.securing.filter (fun h => h.ward == (pkStamp pk).origin))

/-- The bytes of a copy in a stream of `total` bytes. -/
def streamData (total : Nat) : Nat := total / 4098 * 4096

/-- Mirror data of the ward are written into the ward area (R370): bytes in place, tags in the tag store. -/
def State.mirrorIn (port : Nat) (s : State) (p : Nat) (pk : Packet) : State :=
  match s.wardPlan p pk with
  | none => s.dropUnmatched port
  | some h =>
    let off := fieldAt pk.data 8 8
    let b := streamData (fieldAt pk.data 16 8)
    let data := (pkData pk).drop 64
    let s := s.noteWard h (bulkItem pk) b
    let a := (s.wardPlace h (bulkItem pk)).getD ⟨0, 0, 0⟩
    let at_ := a.slot (s.freeSlot a (bulkItem pk))
    let s := s.rawNeg (at_ + off) (data.take (b - off))
    let rest := data.drop (b - off)
    let first := (max off b - b) / 2
    s.putNegTags (at_ / 4096 + first) ((List.range (rest.length / 2)).map (fun i => fieldAt rest (2 * i) 2))

/-- A bulk operation that the table of R309 does not give. -/
def bulkUnknown (pkt : Packet) : Bool := decide (bulkOp pkt = 0 ∨ 9 < bulkOp pkt)

/-- BULK_MIRROR_DATA (R309, R370); a bulk packet of no operation of R309 is discarded here and counted. -/
def doBulkMirrorData (port : Nat) (pkt : Packet) (s : State) : State :=
  if pkKind pkt = 9 ∧ bulkOp pkt = 1 then s.receive port pkt (State.mirrorIn port)
  else if pkKind pkt = 9 ∧ bulkUnknown pkt then s.receive port pkt (fun s _ _ => s.dropUnmatched port)
  else s

/-- The ward's seal record is written last, and a landing credit goes back with the seal's stamp (R370; log entry 16). The
copy's digest is recomputed first, and taken again over the record with the slot that the mirror is written into (R369). -/
def State.mirrorSealIn (port : Nat) (s : State) (p : Nat) (pk : Packet) : State :=
  let r := SealRec.ofBytes ((pkData pk).drop 64)
  match (s.wardPlan p pk).bind (fun h => s.wardPlace h r.item) with
  | none => s.dropUnmatched port
  | some a =>
    let slot := s.freeSlot a r.item
    let c := s.storedCopy (a.slot slot) (r.bytes / 4096)
    if r.digestOf c ≠ r.digest then s.sealInvalid p r.item 1 a slot
    else
      let r' := { r with slot := slot }
      (s.putSeal a { r' with digest := r'.digestOf c }).sendRouted p
        ⟨8, 0, (pkStamp pk).origin, 0xFFFF, 0, true, r.item, slice r.stamp 0 16⟩

/-- BULK_MIRROR_SEAL (R370). -/
def doBulkMirrorSeal (port : Nat) (pkt : Packet) (s : State) : State :=
  if pkKind pkt = 9 ∧ bulkOp pkt = 2 then s.receive port pkt (State.mirrorSealIn port) else s

/-- The items whose mirror comes before `item`'s: privileged ones before risk ones (R370). -/
def State.mirrorNext (s : State) (p : Nat) (pl : Plan) (item : Nat) : Bool :=
  let ms := (s.part p).fixer.mirrors
  ms.contains item && (pl.privileged item || !ms.any pl.privileged)

/-- Send the packets of an item's mirror to the partner (R370): each waits at its port as the mirror's. -/
def State.sendMirror (s : State) (p item : Nat) (xs : List PacketSpec) : State :=
  xs.foldl (fun s x => match s.portTo p x.dest with
    | some n =>
      let t := s.sendRouted p x
      if (s.port n).queue.length < (t.port n).queue.length then
        t.modPort n (fun y => { y with
          queue := y.queue.modify (y.queue.length - 1) (fun z => { z with mirror := some (p, item) }) })
      else t
    | none => s) s

/-- MIRROR_SEND (R370): the newest own seal of an item goes to the partner once its digest holds (R369); a newer seal of the
item starts it again. -/
def doMirrorSend (p item : Nat) (s : State) : State :=
  match s.planOf p with
  | none => s
  | some pl => match pl.securing, s.ownPlace pl item with
    | some h, some a =>
      if !s.mirrorNext p pl item then s
      else
        let s := s.modFixer p (fun f => { f with mirrors := f.mirrors.filter (· != item) })
        match s.firstValid p item 0 a (fun _ => true) (s.validSlots a item) with
        | (none, s) => s
        | (some (r, c), s) =>
          (s.modFixer p (fun f => { f with inFlight := f.inFlight ++ [(item, leNat r.stamp)] })).sendMirror p item
            (itemPackets h.partner 1 item r.step c.stream r)
    | _, _ => s

/-- EV_MIRROR_DONE for each sweep that has ended and all of whose items have been mirrored (R370). -/
def State.noteMirrored (s : State) (p : Nat) : State :=
  let f := (s.part p).fixer
  let s := (f.swept.filter (fun x => x.2.isEmpty)).foldl (fun s x =>
    s.raiseFor (some p) Ev.mirrorDone (s.control p) { value := x.1 }) s
  s.modFixer p (fun f => { f with swept := f.swept.filter (fun x => !x.2.isEmpty) })

/-- The partner's landing credit says that the mirror of an item stands (R370); one for a mirror that was abandoned says
nothing. -/
def State.mirrorStands (s : State) (p item stamp : Nat) : State :=
  if !(s.part p).fixer.inFlight.contains (item, stamp) then s
  else
    ((s.modFixer p (fun f => { f with
      inFlight := f.inFlight.filter (· != (item, stamp)), unmirrored := f.unmirrored.filter (· != item)
      swept := f.swept.map (fun x => (x.1, x.2.filter (· != item))) })).count Ctr.survMirrorSealsCount).noteMirrored p

/-- A class-0 credit: of a landing ring, or of a mirror (R323, R370). -/
def State.creditIn (port : Nat) (s : State) (p : Nat) (pk : Packet) : State :=
  if (pkData pk).length = 16 then s.mirrorStands p (pkOffset pk) (leNat (slice pk.data 0 16)) else s.landingIn port p pk

/-- LANDING_CREDIT (R323, R370). -/
def doLandingCredit (port : Nat) (pkt : Packet) (s : State) : State :=
  if pkKind pkt = 8 then s.receive port pkt (State.creditIn port) else s

/-- An item request is answered with the newest valid mirror as ops 5 and 6, and a second one with the older mirror (R379);
without one, with an empty record (log entry 31). -/
def State.itemRequestIn (port : Nat) (s : State) (p : Nat) (pk : Packet) : State :=
  match (s.planOf p).bind (fun pl => pl.securing.filter (fun h => h.ward != noPosition)) with
  | none => s.dropUnmatched port
  | some h =>
      let item := bulkItem pk
      let dest := (pkStamp pk).origin
      let look := match s.wardPlace h item with
        | none => (none, s)
        | some a => s.firstValid p item 1 a (fun _ => true) ((s.validSlots a item).drop (pkOffset pk))
      match look with
      | (some (r, c), s) => s.sendAll p (itemPackets dest 5 item r.step c.stream r)
      | (none, s) =>
        s.sendRouted p (bulkSpec dest true (bulkHeader 6 true item 0 0 0) (SealRec.ofBytes []).toBytes)

/-- ITEM_REQUEST (R309). -/
def doItemRequest (port : Nat) (pkt : Packet) (s : State) : State :=
  if pkKind pkt = 9 ∧ bulkOp pkt = 4 then s.receive port pkt (State.itemRequestIn port) else s

/-- What has arrived of an item asked of the partner. -/
def State.staged (s : State) (p item : Nat) : Memory :=
  (((s.part p).fixer.stage.find? (fun x => x.1 == item)).map (·.2)).getD []

/-- Data of an item asked for are kept until its seal record comes (R309, R379). -/
def State.itemDataIn (port : Nat) (s : State) (p : Nat) (pk : Packet) : State :=
  let item := bulkItem pk
  if !(s.part p).fixer.asked.contains item then s.dropUnmatched port
  else
    let m := Memory.writeN (s.staged p item) (fieldAt pk.data 8 8) ((pkData pk).drop 64)
    s.modFixer p (fun f => { f with stage := f.stage.filter (fun x => x.1 != item) ++ [(item, m)] })

/-- ITEM_DATA (R379). -/
def doItemData (port : Nat) (pkt : Packet) (s : State) : State :=
  if pkKind pkt = 9 ∧ bulkOp pkt = 5 then s.receive port pkt (State.itemDataIn port) else s

end Sys2Proof.Machine
end

