-- ==== Sys2Proof/Machine/Safelight.lean ====
section
/-! DEFINITION. Safelight, sweeps, the drain of a faulted step, restores, the second body and uncorrectable errors (R362 to
R389). -/

namespace Sys2Proof.Machine

/-! ### Sweeps (R364, R372, R373) -/

/-- The step at whose end a sweep that falls due now runs: the running one until the tick that opens exposure P - 1 or until the
module's completion notice is out, afterwards the following one (R373). -/
def State.sweepStep (s : State) (p : Nat) : Nat :=
  let planned := ((s.planOf p).map (·.planned)).getD 0
  if (s.part p).index + 1 < planned ∧ (s.part p).barrier.own = none then (s.part p).step else (s.part p).step + 1

/-- A sweep becomes due for partition `p`, with the SECURE descriptors that wait for it: one of the same step that has not
started takes it in; after the tick that opens exposure P - 1, and beside a running one, it is a sweep of its own (R373). -/
def State.sweepDue (s : State) (p cause : Nat) (all : Bool) (secures : List (Nat × Nat)) (retire : Bool) : State :=
  let n := s.sweepStep p
  s.modFixer p (fun f => { f with dues := addDue f.dues ⟨cause, all, n, secures, retire⟩ })

/-- SECURE (R388). -/
def doSecure (ring : Nat) (s : State) : State :=
  match s.findOp ring 0x14 with
  | none => s
  | some d =>
    let p := s.ringPart ring
    let scope := d.opd 16 1
    match d.strayOperand [(16, 1)] with
    | some off => s.finish ring d .badAddress off
    | none =>
      if !s.inStep p then s.finish ring d .state (s.part p).phase.code
      else if scope ≠ 1 ∧ scope ≠ 2 then s.finish ring d .refused 1
      else
        (s.beginDesc ring d).sweepDue p 2 (scope == 2) [(ring, d.seq)] false

/-- A core of partition `p` that works still runs a share. -/
def State.sharesRun (s : State) (p : Nat) : Bool :=
  (s.coresOf p).any (fun c => (s.core c).running.isSome && !s.coreFailed c)

/-- The Fixer may begin the work that the step's end waits for: the last task has completed, or the drain's last started
task has ended and its restores, which count as the last task, are in (R373, R376, R377). -/
def State.fixerMayStart (s : State) (p : Nat) : Bool := match s.planOf p with
  | none => false
  | some pl =>
    let q := s.part p
    q.fixer.sweep.isNone && q.fixer.asked.isEmpty && !q.fixer.failed &&
      if s.inStep p then s.allTasksDone p pl
      else q.phase == .faulted && !q.drainDone && !s.sharesRun p && q.fixer.settled

/-- The groups on the list of R378 are restored, and what the step's end waited for goes on. -/
def State.runRestores (s : State) (p : Nat) (pl : Plan) : State :=
  let gs := (s.part p).restoreDue
  ((s.modPart p (fun q => { q with restoreDue := [] })).restoreGroups p pl gs).stepWorkDone p pl

/-- SWEEP_START (R373, R378): groups to be restored are restored, so that no bad data are sealed; then the due sweep
starts. -/
def doSweepStart (p : Nat) (s : State) : State :=
  match s.planOf p with
  | none => s
  | some pl =>
    if !s.fixerMayStart p then s
    else if s.inStep p && !(s.part p).restoreDue.isEmpty then s.runRestores p pl
    else match s.dueNow p with
      | none => s
      | some d =>
        let items := pl.sweepItems d.all
        let now := s.time.now
        let s := s.raise Ev.sweepStart UnitId.module { value := items.length, cause := d.cause }
        s.modFixer p (fun f => { f with
          dues := f.dues.filter (· != d), sweep := some d, since := now, size := items.length, left := items, unmirrored := [] })

/-- The update tasks of a group have ended with status 1 or 3, and no copy of it was begun in this step (R372). The step
record is secured in every step (R367). -/
def State.copyReady (s : State) (p item : Nat) (pl : Plan) : Bool :=
  let f := (s.part p).fixer
  let fresh := !f.copied.contains item && !f.copying.any (fun x => x.1 == item)
  if item = recordItem then fresh && pl.securing.isSome && !f.snapshot.isEmpty
  else
    let st := (s.group p item).status
    fresh && pl.secItems.any (fun x => x.group == item && x.cls == 2) && (st == 1 || st == 3) &&
      (pl.updateTasks item).all (fun x => x.2.2.cores.all (fun c => (s.run p x.1 x.2.1).finished.contains c))

/-- The copy of an item begins, of the running step (R372): the step record's from its snapshot as it stands. -/
def State.beginCopy (s : State) (p item : Nat) : State :=
  let n := (s.part p).step
  s.modFixer p (fun f => { f with
    copying := f.copying ++ [(item, n)], copied := f.copied ++ [item]
    recordCopy := if item = recordItem then f.snapshot else f.recordCopy })

/-- PRIVILEGED_COPY (R372): the copy of a privileged group, or of the step record, begins. -/
def doPrivilegedCopy (p group : Nat) (s : State) : State :=
  match s.planOf p with
  | none => s
  | some pl => if s.inStep p && s.copyReady p group pl then s.beginCopy p group else s

/-- At the end of a step the copies that it still owes begin, so that no update of the next step comes before them
(R372). -/
def State.oweCopies (s : State) (p : Nat) (pl : Plan) : State :=
  (pl.allItems.filter (fun i => s.copyReady p i pl)).foldl (fun s i => s.beginCopy p i) s

/-- SEAL_WRITTEN (R369): a copy under way ends with its seal: a privileged item's, or the next item's of the sweep. -/
def doSealWritten (p item : Nat) (s : State) : State :=
  match s.planOf p with
  | none => s
  | some pl =>
    let f := (s.part p).fixer
    match f.copying.find? (fun x => x.1 == item) with
    | some (i, n) =>
      (s.sealItem p i n pl f.recordCopy false).modFixer p (fun f => { f with copying := f.copying.erase (i, n) })
    | none =>
      if f.sweep.isSome && f.left.head? == some item then
        (s.sealItem p item (s.part p).step pl f.snapshot true).modFixer p (fun f => { f with left := f.left.tail })
      else s

/-- Complete the SECURE descriptors of a sweep (R388). -/
def State.completeSecures (s : State) (d : DueSweep) : State :=
  d.secures.foldl (fun s x => match s.descOf x.1 x.2 with
    | some d => s.finish x.1 d .done
    | none => s) s

/-- The drained notice (R376): with the departure flag of a departing module (R383). -/
def State.sendDrained (s : State) (p : Nat) : State :=
  let now := s.time.now
  let dep := (s.part p).fixer.departing
  let s := s.modPart p (fun q => { q with drainDone := true })
  (s.stampUsed.modBarrier p (fun b => { b with ownDrained := some now, departing := b.departing || dep })).tryCombineDrained p

/-- Nothing of the Fixer's holds the drained notice back: its sweeps have ended, no copy is asked for, and no restore has failed
(R376, R379, R389). -/
def State.drainEnds (s : State) (p : Nat) : Bool :=
  let f := (s.part p).fixer
  (s.part p).phase == .faulted && !(s.part p).drainDone && f.settled && f.sweep.isNone && (s.dueNow p).isNone &&
    f.asked.isEmpty && !f.failed

/-- The drain ends: groups that errors met in the drain put on the list of R378 are restored first (R377). -/
def State.endDrain (s : State) (p : Nat) : State :=
  if !s.drainEnds p then s
  else
    let gs := (s.part p).restoreDue
    let s := match s.planOf p with
      | none => s
      | some pl => (s.modPart p (fun q => { q with restoreDue := [] })).restoreGroups p pl gs
    if s.drainEnds p then s.sendDrained p else s

/-- SWEEP_DONE (R373, R378): the sweep has sealed or passed every item; what the step's end, or the drain, waited for goes
on. After an alarm's sweep the module departs where the policy says so (R364). -/
def doSweepDone (p : Nat) (s : State) : State :=
  let f := (s.part p).fixer
  match s.planOf p, f.sweep with
  | some pl, some d =>
    if !f.left.isEmpty then s
    else
      let s := (s.raise Ev.sweepDone UnitId.module { value := (s.time.now - f.since) / 4000 }).count Ctr.survSweepsCount
      let s := if d.cause = 1 then { s with tally := { s.tally with resecure := 0 } } else s
      let mirrored := (pl.securing.map (fun h => bitAt h.flags 0 == 1 && h.partner != noPosition)).getD false
      let s := s.modFixer p (fun f => { f with
        sweep := none, swept := if mirrored then f.swept ++ [(f.size, f.unmirrored)] else f.swept, unmirrored := [], departing := f.departing || d.retire })
      let s := (s.noteMirrored p).completeSecures d
      if s.inStep p && d.retire then s.stepFault p .spares
      else if s.inStep p then s.runRestores p pl
      else s.endDrain p
  | _, _ => s

/-! ### The risk estimate (R362 to R364) -/

/-- The running rate of an input in 1/16 units after an exposure with count `c` (R362): r + (c - r) / 16. -/
def nextRate (r c : Nat) : Nat := min (r + c - r / 16) (2 ^ 32 - 1)

/-- The value of a rate input: min(1023, floor(1023 × r / F)). -/
def rateValue (r f : Nat) : Nat := min 1023 (1023 * r / (16 * max 1 f))

/-- Repair rows provisioned per stack (log entry 32). -/
def repairRows : Nat := 1024

/-- The counts of the rate inputs in the exposure that ended (R362). -/
def State.inputCount (s : State) (ecc : EccCounts) (i : Nat) : Nat :=
  let worst := fun (f : Port → Nat) => (s.ports.map f).foldl max 0
  match i with
  | 0 => ecc.hbm
  | 1 => ecc.sram
  | 2 => ecc.neg
  | 4 => worst (·.exposureFec)
  | 5 => worst (fun p => 64 * p.exposureRetrains + p.exposureReplays)
  | 8 => s.tally.supply
  | 9 => s.tally.replays
  | 10 => s.tally.d2d
  | 11 => s.tally.floor
  | _ => 0

/-- The least thermal margin in 0.1 °C that the module last measured (R362, R403). -/
def State.thermalMargin (s : State) : Int := signed 16 (s.get Reg.pwrThermal_margin)

/-- The value of a level input (R362). -/
def State.inputLevel (s : State) (i : Nat) : Nat :=
  if i = 3 then 1023 * (s.rowsUsed.foldl max 0) / repairRows
  else if i = 6 then
    1023 * ((List.range (12 * s.fitted.io)).filter (fun n => s.flag (Reg.fabPort_spareUsed n))).length / max 1 (12 * s.fitted.io)
  else
    let f := s.get (Reg.survInputFull 7)
    min 1023 (1023 * ((f : Int) - s.thermalMargin).toNat / max 1 f)

/-- Update one input at the tick (R362, R390). -/
def State.updateInput (s : State) (ecc : EccCounts) (i : Nat) : State :=
  if i = 3 ∨ i = 6 ∨ i = 7 then
    let x := s.inputLevel i
    (s.set (Reg.survInputScore i) x).set (Reg.survInputRaw i) x
  else
    let r := nextRate (s.get (Reg.survInputRaw i)) (s.inputCount ecc i)
    (s.set (Reg.survInputScore i) (rateValue r (s.get (Reg.survInputFull i)))).set (Reg.survInputRaw i) r

/-- The risk of the inputs as they stand (R363). -/
def State.riskNow (s : State) : Nat :=
  if s.flag Reg.survRisk_forced then 1023
  else min 1023 (((List.range 12).map (fun i => s.get (Reg.survInputWeight i) * s.get (Reg.survInputScore i))).sum / 256)

/-- The partitions whose plan a sweep secures: those with an admitted plan. The sweep comes at the end of the running step, in the
drain of a faulted one, or at the end of the first step (R373, R389). -/
def State.activeParts (s : State) : List Nat := (List.range 4).filter s.admitted

/-- The armed trigger after the tick (R364): a fall below, or the steps since the last risk sweep, re-arm it. -/
def State.rearm (s : State) (risk : Nat) : State :=
  let at_ := s.get Reg.survThresholds_secureAt
  let low := decide (risk < at_ - s.get Reg.survRearm_hysteresis)
  let long := decide (at_ ≤ risk) && decide (s.get Reg.survRearm_resecureSteps ≤ s.tally.resecure)
  let s := if risk < at_ then { s with tally := { s.tally with resecure := 0 } } else s
  if low || long then s.set Reg.survRisk_armed 1 else s

/-- Risk at or above secure_at (R364): the event when it is reached, and a risk sweep if the trigger is armed. -/
def State.secureRisk (s : State) (before risk : Nat) : State :=
  let at_ := s.get Reg.survThresholds_secureAt
  if risk < at_ then s
  else
    let s := if before < at_ then s.raise Ev.riskSecure UnitId.module { value := risk } else s
    if s.flag Reg.survRisk_armed then
      s.activeParts.foldl (fun s p => s.sweepDue p 1 false [] false)
        ({ s with tally := { s.tally with resecure := 0 } }.set Reg.survRisk_armed 0)
    else s

/-- Risk reaches alarm_at (R364): the event, the alarm bit, a sweep, and with auto_retire the departure. -/
def State.alarmRisk (s : State) (before risk : Nat) : State :=
  let at_ := s.get Reg.survThresholds_alarmAt
  if risk < at_ ∨ at_ ≤ before then s
  else
    let s := (s.raise Ev.riskAlarm UnitId.module { value := risk }).set Reg.survRisk_alarm 1
    let retire := s.flag Reg.survPolicy_autoRetire
    s.activeParts.foldl (fun s p =>
      let second := ((s.planOf p).map Plan.secondBody).getD noPosition
      s.sweepDue p 1 false [] (retire && second != noPosition && !(s.part p).fixer.departing)) s

/-- Safelight at a shutter tick of partition 0's grid (R362 to R364). -/
def State.safelight (s : State) (ecc : EccCounts) : State :=
  let before := s.get Reg.survRisk_risk
  let s := (List.range 12).foldl (fun s i => s.updateInput ecc i) s
  let risk := s.riskNow
  let s := (s.set Reg.survRisk_risk risk).rearm risk
  let s := (s.secureRisk before risk).alarmRisk before risk
  { s with tally := { s.tally with replays := 0, d2d := 0, supply := 0, floor := 0 } }

/-! ### The drain of a faulted step (R376, R377) -/

/-- A task has started on some core in this step: it has finished a share, or a core began one that it never ended (R51). -/
def State.hasStarted (s : State) (p : Nat) (x : Nat × Nat × Task) : Bool :=
  !(s.run p x.1 x.2.1).finished.isEmpty || x.2.2.cores.any (fun c => (s.core c).started.contains (taskKey x.1 x.2.1))

/-- A group whose update tasks started and did not all complete is torn with cause "partial" (R298). -/
def State.tearStarted (s : State) (p : Nat) (pl : Plan) : State :=
  (List.range pl.groups.length).foldl (fun s g =>
    if (s.group p g).status = 0 && (pl.updateTasks g).any (s.hasStarted p) then s.tear p g 2 else s) s

/-- The groups that the policy restores (R377), and those put on the list by R378. -/
def State.groupsToRestore (s : State) (p : Nat) (pl : Plan) : List Nat :=
  let strict := s.flag Reg.survPolicy_partial
  (List.range pl.groups.length).filter (fun g =>
    let st := (s.group p g).status
    st == 4 || (strict && st == 1) || (s.part p).restoreDue.contains g)

/-- DRAIN_COMPLETE (R376, R377): the started tasks have ended: groups left open are torn, the step may be partial, and the
restores run; due sweeps come after them (R373, R389). -/
def doDrainComplete (p : Nat) (s : State) : State :=
  let q := s.part p
  match s.planOf p with
  | none => s
  | some pl =>
    if q.phase != .faulted || q.drainDone || s.sharesRun p || q.fixer.sweep.isSome || q.fixer.settled ||
        !q.fixer.asked.isEmpty || q.fixer.failed then s
    else
      let s := (s.tearStarted p pl).modFixer p (fun f => { f with settled := true })
      let open_ := ((s.part p).groups.filter (fun g => g.status == 0 && !g.frozen)).length
      let partial_ := (s.part p).groups.any (fun g => (g.status == 0 && !g.frozen) || g.status == 4)
      let s := if partial_ then
          (s.raise Ev.stepPartial (UnitId.partition p) { value := open_ }).count Ctr.survPartialStepsCount
        else s
      let gs := s.groupsToRestore p pl
      ((s.modPart p (fun q => { q with restoreDue := [] })).restoreGroups p pl gs).endDrain p

/-- The exposure at whose tick a faulted plan goes on (R376): the one that the barrier of the drained notices names as R24
does, or after a departure the one of the route switch. -/
def State.resumeExposure (s : State) (p : Nat) : Nat :=
  let q := s.part p
  if q.barrier.departing then q.fixer.resumeAt.getD 0 else (q.barrier.drained.map (s.endExposure p)).getD 0

/-- The plan may resume (R376). -/
def State.mayResume (s : State) (p : Nat) : Bool :=
  let q := s.part p
  q.phase == .faulted && q.drainDone && !q.fixer.failed && !q.fixer.handed && !q.fixer.departing &&
    !q.fixer.invalid && (if q.barrier.departing then q.fixer.resumeAt else q.barrier.drained).isSome &&
    decide (s.resumeExposure p ≤ q.exposure)

/-- The end of a step for everything that a step boundary changes, and the beginning of the next one (R24, R147, R284,
R367). The steps that R364 counts are those of the lowest partition with an admitted plan (log entry 28). -/
def State.stepBoundary (s : State) (p : Nat) (pl : Plan) (e : Nat) : State :=
  let s := ((((s.oweCopies p pl).endStepScales p).groupsBoundary p pl).stepContexts p pl).requestsDue p
  let s := if (List.range 4).find? s.admitted = some p then
      { s with tally := { s.tally with resecure := s.tally.resecure + 1 } } else s
  (s.beginStep p ((s.part p).step + 1) e).snapshotRecord p

/-- PLAN_RESUME (R376): the faulted plan goes on with the next step. -/
def doPlanResume (p : Nat) (s : State) : State :=
  match s.planOf p with
  | none => s
  | some pl => if s.mayResume p then s.stepBoundary p pl (s.resumeExposure p) else s

/-! ### The second body (R382 to R385) -/

/-- HANDOVER_SENT (R383): every mirror stands; the takeover request goes out and the module falls silent. -/
def doHandoverSent (p : Nat) (s : State) : State :=
  let q := s.part p
  match s.planOf p with
  | none => s
  | some pl =>
    let f := q.fixer
    if !f.departing || !q.drainDone || f.handed || !f.mirrors.isEmpty || !f.inFlight.isEmpty then s
    else
      let second := pl.secondBody
      let s := s.sendRouted p (bulkSpec second true (bulkHeader 3 true s.position 0 0 0) [])
      (s.raise Ev.handoverSent UnitId.module { value := second }).modFixer p (fun f => { f with handed := true })

/-- A takeover ends without a route switch (R384). -/
def State.endTakeover (s : State) (p : Nat) : State :=
  s.modFixer p (fun f => { f with takeover := false, asked := [], taken := [] })

/-- A standby second body begins the takeover (R383, R384): it asks the partner for every item; one that cannot be asked for
ends it. -/
def State.beginTakeover (s : State) (p : Nat) : State :=
  match s.planOf p with
  | none => s
  | some pl =>
    if !s.standby || (s.part p).phase != .admitted || (s.part p).fixer.takeover then s
    else
      let s := s.raise Ev.takeoverStart UnitId.module { value := s.position }
      let s := s.modFixer p (fun f => { f with takeover := true, failed := false, asked := [], retried := [], stage := [], taken := [], needGens := 0 })
      let s := pl.allItems.foldl (fun s i => if (s.part p).fixer.failed then s else s.askPartner p i pl false) s
      if (s.part p).fixer.failed then s.endTakeover p else s

/-- A takeover request arrives: only a standby module acts on it (R309, R383). -/
def State.takeoverIn (port : Nat) (s : State) (p : Nat) (pk : Packet) : State :=
  if s.standby ∧ bulkItem pk = s.position then s.beginTakeover p else s.dropUnmatched port

/-- TAKEOVER_REQUEST (R383). -/
def doTakeoverRequest (port : Nat) (pkt : Packet) (s : State) : State :=
  if pkKind pkt = 9 ∧ bulkOp pkt = 3 then s.receive port pkt (State.takeoverIn port) else s

/-- The partition that a takeover by register concerns: the lowest with a plan in ADMITTED (log entry 28). -/
def State.takeoverPart (s : State) : Nat := ((List.range 4).find? (fun p => (s.part p).phase == .admitted)).getD 0

/-- TAKEOVER_WRITE (R383): 1 written to SURV_SPARE_CONTROL.takeover together with the standby bit it holds. -/
def doTakeoverWrite (value : Word) (s : State) : State :=
  if s.ready ∧ bitAt value.toNat 1 = 1 ∧ bitAt value.toNat 0 = 1 ∧ s.standby then s.beginTakeover s.takeoverPart else s

/-- The exposure that opens first at or after two exposures from now (R384). -/
def State.takeoverExposure (s : State) (p : Nat) : Nat :=
  ceilDiv (s.time.now + 2 * s.exposureUnits p - s.pair (Reg.tickOrigin p)) (s.exposureUnits p)

/-- Every item has been restored (R384): standby is cleared and the route switch goes out. -/
def State.takeoverRestored (s : State) (p : Nat) : State :=
  let x := s.takeoverExposure p
  let own := s.position
  let s := (s.set Reg.survSpareControl_standby 0).modFixer p (fun f => { f with takeAt := x })
  s.switchUp p own x

/-- The holds that a takeover restored run from the step of their record (R150, R384). -/
def State.rebaseHolds (s : State) (p step : Nat) : State :=
  { s with layers := s.layers.map (fun (e : LayerEntry) => if e.partition = p then { e with since := e.since + step } else e) }

/-- TAKEOVER_DONE (R384): at its exposure the second body begins the step after the faulted one. -/
def doTakeoverDone (p : Nat) (s : State) : State :=
  let q := s.part p
  match s.planOf p with
  | none => s
  | some pl =>
    if !q.fixer.takeover || s.standby || !q.fixer.asked.isEmpty || q.fixer.failed || q.phase != .admitted ||
        q.exposure != q.fixer.takeAt then s
    else
      let n := fieldAt q.fixer.snapshot 0 8 + 1
      let s := ((s.modFixer p (fun f => { f with takeover := false })).rebaseHolds p (n - 1)).evalEta p pl
      let s := (s.beginStep p n (s.part p).exposure).snapshotRecord p
      (s.raise Ev.takeoverDone UnitId.module { value := q.exposure % 2 ^ 32 }).count Ctr.survTakeoversCount

/-- An item asked for has no valid mirror (R379, R384, R387). -/
def State.itemLost (s : State) (p item : Nat) : State :=
  let s := s.restoreFailed p item
  if (s.part p).fixer.takeover then s.endTakeover p else s

/-- A takeover restores every item in entry order, the step record last (R384). -/
def State.restoreTaken (s : State) (p : Nat) (pl : Plan) : State :=
  let got := (s.part p).fixer.taken
  let s := pl.allItems.foldl (fun s i => match got.find? (fun x => x.1 == i) with
    | some (_, r, b) => s.restoreItem p i pl (SealRec.ofBytes r) (Copy.ofStream b)
    | none => s) s
  s.modFixer p (fun f => { f with taken := [] })

/-- What goes on once an item asked for is in: the takeover, the drain, or the end of the step. -/
def State.itemRestored (s : State) (p : Nat) (pl : Plan) : State :=
  let f := (s.part p).fixer
  if !f.asked.isEmpty || f.failed then s
  else if f.takeover then (s.restoreTaken p pl).takeoverRestored p
  else if (s.part p).phase == .faulted then s.endDrain p
  else s.stepWorkDone p pl

/-- An item asked for is in: restored at once, or in a takeover kept until all are in (R384). -/
def State.takeItem (s : State) (p item : Nat) (pl : Plan) (r : SealRec) (c : Copy) : State :=
  if (s.part p).fixer.takeover then s.modFixer p (fun f => { f with taken := f.taken ++ [(item, r.toBytes, c.stream)] })
  else s.restoreItem p item pl r c

/-- The seal record of an item asked for (R369, R379): its digest is checked, then the item is restored. A mirror that does
not serve is asked for once more, since the partner may hold an older one (log entry 31). -/
def State.itemSealIn (port : Nat) (s : State) (p : Nat) (pk : Packet) : State :=
  let item := bulkItem pk
  match s.planOf p with
  | none => s.dropUnmatched port
  | some pl =>
    if !(s.part p).fixer.asked.contains item then s.dropUnmatched port
    else
      let r := SealRec.ofBytes ((pkData pk).drop 64)
      let c := Copy.ofStream ((s.staged p item).readN 0 (r.bytes / 4096 * 4098))
      let s := s.modFixer p (fun f => { f with
        asked := f.asked.filter (· != item), stage := f.stage.filter (fun x => x.1 != item) })
      let admits := (s.part p).fixer.admission
      let want := ((pl.securing).map (·.restoreEpoch)).getD 0xFFFF
      if r.state ≠ 1 ∨ r.item ≠ item then s.itemLost p item
      else if r.digestOf c = r.digest ∧ (!admits ∨ want = 0xFFFF ∨ want = r.epoch) then
        (s.takeItem p item pl r c).itemRestored p pl
      else
        let s := if r.digestOf c = r.digest then s else s.noteInvalid p item 1
        if (s.part p).fixer.retried.contains item then s.itemLost p item
        else (s.modFixer p (fun f => { f with retried := f.retried ++ [item] })).askPartner p item pl true

/-- ITEM_SEAL_RECORD (R369, R379). -/
def doItemSealRecord (port : Nat) (pkt : Packet) (s : State) : State :=
  if pkKind pkt = 9 ∧ bulkOp pkt = 6 then s.receive port pkt (State.itemSealIn port) else s

/-! ### Uncorrectable errors and retired pages (R378, R381) -/

/-- The tensor of a plan that holds an address of a memory space, with graph and index. -/
def Plan.tensorAt (pl : Plan) (space a : Nat) : Option (Nat × Nat × Tensor) :=
  pl.graphs.findSome? (fun g => (g.tensors.zipIdx.find? (fun x => x.1.space == space && within a 1 x.1.base x.1.stored)).map
    (fun x => (g.number, x.2, x.1)))

/-- The unit whose memory holds an address (R435): an HBM stack, the window's among them, a Negative-store package, or for staging SRAM, which has no
unit, the partition (log entry 17). -/
def State.memoryUnit (s : State) (p space a : Nat) : UnitId :=
  if space = 0 then UnitId.stack ((s.hbmBase p + a) / stackUsable)
  else if space = 3 then UnitId.stack ((s.hbmBase p + s.winBase p + a) / stackUsable)
  else if space = 2 then UnitId.negPackage ((s.negBase p + a) / 4096 % s.negPackages)
  else UnitId.partition p

/-- An operand of a group holds an address of a memory space. -/
def Plan.groupReads (pl : Plan) (e : GroupEntry) (space a : Nat) : Bool := match pl.graph e.graph with
  | none => false
  | some g => e.operandIndices.any (fun i => ((g.tensor i).map (fun t => t.space == space && within a 1 t.base t.stored)).getD false)

/-- The failed word was an operand of the update that a core runs (R298): writes for its group stop, and it is torn with
cause "read". -/
def State.tearReader (s : State) (p core space a : Nat) : State := match s.runningOn core with
  | none => s
  | some r =>
    let reads := r.task.op == 0x000F && ((r.plan.groups[r.task.group]?).map (fun e => r.plan.groupReads e space a)).getD false
    if r.p = p ∧ reads then s.tear p r.task.group 1 else s

/-- How a reader met an error in persistent data (R378, R436). -/
def metBy : ErrorReader → UeReader
  | .core _ => .task
  | .fixer => .fixer
  | .nobody => .unread

/-- The Fixer's copy of an item ends without a seal (R378). -/
def Fixer.passes (f : Fixer) (item : Nat) : Fixer :=
  { f with left := f.left.filter (· != item), copying := f.copying.filter (fun x => x.1 != item) }

/-- A failed ECC word at an address of a memory space (R378). A persistent tensor that no group holds counts as transient
data (log entry 33). -/
def State.memoryError (s : State) (p space a : Nat) (reader : ErrorReader) : State :=
  match s.planOf p with
  | none => s
  | some pl => match pl.tensorAt space a with
    | none => s
    | some (g, i, t) =>
      let u := s.memoryUnit p space a
      let s := match reader with
        | .core c => s.tearReader p c space a
        | _ => s
      match (if t.persistent then pl.groupOf g i else none) with
      | some k =>
        let s := if reader = .fixer then s.modFixer p (fun f => f.passes k) else s
        s.persistentError p k u (metBy reader)
      | none => s.transientError p u ((if space = 3 then s.winBase p + a else a) / 4096) 4

/-- A decoder lost the block at an HBM address (R266): an error in persistent data where a tensor of the plan with flags[0] = 1
holds it, else in transient data. -/
def State.decoderError (s : State) (p a : Nat) : State :=
  let u := s.codecUnit p 0 a
  match (s.planOf p).bind (fun pl => (pl.tensorAt 0 a).bind (fun x => if x.2.2.persistent then pl.groupOf x.1 x.2.1 else none)) with
  | some k => s.persistentError p k u .task
  | none => s.transientError p u (a / 4096) 2

/-- UNCORRECTABLE_ERROR (R378): a transfer's error is detected by the port it came through (R445). -/
def doUncorrectableError (loc : ErrorPlace) (s : State) : State := match loc with
  | .queue q => s.queueLoss q
  | .decoder p a => s.decoderError p a
  | .transfer p port a => s.transientError p (UnitId.port port) (a / 4096) 3
  | .memory p space a reader => s.memoryError p space a reader

/-- A 2 MiB page holds a tensor or the store of the plan admitted in partition `p` (R380). -/
def State.pageInPlan (s : State) (p a : Nat) : Bool := s.admitted p && match s.planOf p with
  | none => false
  | some pl => overlaps a (2 ^ 21) pl.storeBase pl.storeSize ||
      pl.graphs.any (fun g => g.tensors.any (fun t => t.space == 0 && overlaps a (2 ^ 21) t.base t.span))

/-- HBM_ROW_FAILURE (R381): the row takes a repair row, or its page is retired. -/
def doHbmRowFailure (stack page : Nat) (s : State) : State :=
  let used := (s.rowsUsed[stack]?).getD repairRows
  if s.fitted.ss ≤ stack then s
  else if used < repairRows then
    let rows := s.rowsUsed.modify stack (· + 1)
    { s with rowsUsed := rows }.set Reg.survRepair_rowsLeft (repairRows - (rows.take s.fitted.ss).foldl max 0)
  else if s.retired.contains (stack, page) then s
  else
    let s := { s with retired := s.retired ++ [(stack, page)] }
    let s := (s.set Reg.survRepair_pagesRetired (s.get Reg.survRepair_pagesRetired + 1)).raise Ev.pageRetired
      (UnitId.stack stack) { object := stack, value := page }
    let p := s.stackPart stack
    let a := stack * stackUsable + page * 2 ^ 21
    if s.hbmBase p ≤ a && s.pageInPlan p (a - s.hbmBase p) then s.planInvalid p 4 else s

/-! ### Failures of the package (R51, R55) -/

/-- CORE_FAILED (R51): the core is marked, its share is abandoned, and an admitted plan is invalid. -/
def doCoreFailed (core : Nat) (s : State) : State :=
  if s.fitted.ccc ≤ core ∨ s.coreFailed core then s
  else
    let s := (s.setPair Reg.sysInvCoreFailed (s.pair Reg.sysInvCoreFailed + 2 ^ core)).raise Ev.coreFailed (UnitId.core core) {}
    ((s.modCore core (fun k => { k with running := none, asked := false })).leaveDevelopers core).planInvalid (s.corePart core) 1

/-- The package has this die-to-die interface (R53): each die's base bond, the ring 0-1, 1-3, 3-2, 2-0, and a link from
every compute die to every fitted I/O die. -/
def Fitted.hasLink (f : Fitted) (iface die other : Nat) : Bool :=
  decide (die < 4) &&
    match iface with
    | 1 => die == other
    | 2 => decide (other < 4 ∧ other ≠ die ∧ die + other ≠ 3)
    | 3 => decide (other < f.io)
    | _ => false

/-- The name of an interface: a ring link has one, whichever of its dies is named first. -/
def linkName (iface die other : Nat) : Nat × Nat × Nat :=
  if iface = 2 then (2, min die other, max die other) else (iface, die, other)

/-- The partitions whose dies an interface serves. -/
def State.linkParts (s : State) (iface die other : Nat) : List Nat :=
  (if iface = 2 then [s.diePart die, s.diePart other] else [s.diePart die]).eraseDups

/-- D2D_TRANSFER_FAIL (R55): a failed transfer is retried; the eighth failed retry takes the interface down, and the plans
of the partitions it serves are invalid. DESIGN CHOICE (log entry 17): the module raises EV_D2D_LINK_DOWN, for an interface
has no class of its own in R435. -/
def doD2dTransferFail (iface die other retry : Nat) (s : State) : State :=
  if !s.fitted.hasLink iface die other || s.d2dDown.contains (linkName iface die other) then s
  else if retry < 8 then { s with tally := { s.tally with d2d := s.tally.d2d + 1 } }
  else
    let s := { s with d2dDown := s.d2dDown ++ [linkName iface die other] }.raise Ev.d2dLinkDown UnitId.module
      { object := die, cause := iface }
    (s.linkParts iface die other).foldl (fun s p => s.planInvalid p 2) s

end Sys2Proof.Machine
end

