-- ==== Sys2Proof/Machine/Samples.lean ====
section
/-! DEFINITION. What an intake unit does with one sample: the take's parameters (R350) and the ring's layout (R352), the
sample formats (R342 to R344), their checks (R358), colour conversion and normalisation (R345, R346), and tokenising with
a dictionary (R347, R348). -/

namespace Sys2Proof.Machine

/-! ### The parameters of a take -/

/-- Round up to a multiple of 64. -/
def pad64 (n : Nat) : Nat := ceilDiv n 64 * 64

/-- The parameter block of op 0x0010 (R350). -/
structure TakePar where
  kind : Nat
  cls : Nat
  unit : Nat
  outType : Nat
  rows : Nat
  reserve : Nat
  flags : Nat
  width : Nat
  height : Nat
  frames : Nat
  depth : Nat
  seqLen : Nat
  pad : Nat
  ring : Nat
  rowMask : Nat
  tokenMask : Nat
  variants : Nat
  sheet : Nat
  ctxFirst : Nat
  bosToken : Nat
  eosToken : Nat
  deriving DecidableEq, Repr

/-- Read the block (R350). -/
def TakePar.ofBytes (b : List Byte) : TakePar :=
  { kind := fieldAt b 0 1, cls := fieldAt b 1 1, unit := fieldAt b 2 1, outType := fieldAt b 3 1, rows := fieldAt b 4 2
    reserve := fieldAt b 6 1, flags := fieldAt b 7 1, width := fieldAt b 8 2, height := fieldAt b 10 2
    frames := fieldAt b 12 2, depth := fieldAt b 14 1, seqLen := fieldAt b 16 4, pad := fieldAt b 20 4
    ring := fieldAt b 24 4, rowMask := fieldAt b 28 4, tokenMask := fieldAt b 32 4, variants := fieldAt b 36 4
    sheet := fieldAt b 40 4, ctxFirst := fieldAt b 44 2, bosToken := fieldAt b 48 4, eosToken := fieldAt b 52 4 }

/-- Text is taken (R350). -/
def TakePar.text (k : TakePar) : Bool := k.kind == 2
/-- The class is training (R350). -/
def TakePar.training (k : TakePar) : Bool := k.cls == 1
/-- The frames' element type. -/
def TakePar.type (k : TakePar) : DType := (DType.ofCode k.outType).getD .bf16

/-- Reserve size (R350, R355): the field, 0 meaning 64 for training; serving has none. -/
def TakePar.reserveSize (k : TakePar) : Nat :=
  if !k.training then 0 else if k.reserve = 0 then 64 else k.reserve

/-- Bytes rb of a row (R352). -/
def TakePar.rowBytes (k : TakePar) : Nat :=
  if k.text then 4 * k.seqLen else k.width * k.height * k.frames * 3 * (k.type.bits / 8)

/-- Offset of the row mask in a ring buffer (R352). -/
def TakePar.maskAt (k : TakePar) : Nat := pad64 (k.rows * k.rowBytes)
/-- Offset of the token mask. -/
def TakePar.tokenAt (k : TakePar) : Nat := k.maskAt + pad64 k.rows
/-- Offset of the variants. -/
def TakePar.variantAt (k : TakePar) : Nat := k.tokenAt + if k.text then pad64 (k.rows * k.seqLen) else 0
/-- Offset of the contact sheet. -/
def TakePar.sheetAt (k : TakePar) : Nat := k.variantAt + pad64 (4 * k.rows)
/-- Bytes b of a ring buffer (R352). -/
def TakePar.bufferBytes (k : TakePar) : Nat := k.sheetAt + 64 + 64 * k.rows
/-- Offset of the token mask in a reserve entry: the row's padded size ρ (R352). -/
def TakePar.rowPad (k : TakePar) : Nat := pad64 k.rowBytes
/-- Offset of the prototype sheet entry in a reserve entry. -/
def TakePar.protoAt (k : TakePar) : Nat := k.rowPad + if k.text then pad64 k.seqLen else 0
/-- Bytes r_e of a reserve entry (R352). -/
def TakePar.entryBytes (k : TakePar) : Nat := k.protoAt + 64

/-! ### Frames -/

/-- The header of a frame sample (R342). -/
structure FrameHeader where
  magic : Nat
  version : Nat
  chroma : Nat
  bits : Nat
  width : Nat
  height : Nat
  frames : Nat
  matrix : Nat
  range : Nat
  reservedZero : Bool
  deriving DecidableEq, Repr

/-- Read the header (R342). -/
def FrameHeader.ofBytes (b : List Byte) : FrameHeader :=
  ⟨fieldAt b 0 4, fieldAt b 4 2, fieldAt b 6 1, fieldAt b 7 1, fieldAt b 8 2, fieldAt b 10 2, fieldAt b 12 2,
   fieldAt b 14 1, fieldAt b 15 1, zeroAt b 20 44⟩

/-- Bytes of a sample of a plane. -/
def FrameHeader.sampleBytes (h : FrameHeader) : Nat := if h.bits = 10 then 2 else 1
/-- Width of a chroma plane (R342). -/
def FrameHeader.chromaWidth (h : FrameHeader) : Nat := if h.chroma = 2 then h.width else h.width / 2
/-- Height of a chroma plane (R342). -/
def FrameHeader.chromaHeight (h : FrameHeader) : Nat := if h.chroma = 0 then h.height / 2 else h.height
/-- Samples of one frame's three planes. -/
def FrameHeader.frameSamples (h : FrameHeader) : Nat := h.width * h.height + 2 * (h.chromaWidth * h.chromaHeight)
/-- The payload length of R342. -/
def FrameHeader.payload (h : FrameHeader) : Nat := 64 + h.frames * h.frameSamples * h.sampleBytes

/-- The fields of the header are as R342 states. -/
def FrameHeader.ok (h : FrameHeader) : Bool :=
  h.magic == 0x4E485946 && h.version == 1 && decide (h.chroma ≤ 2) && (h.bits == 8 || h.bits == 10) &&
    decide (1 ≤ h.width ∧ h.width ≤ 8192) && (h.chroma == 2 || h.width % 2 == 0) &&
    decide (1 ≤ h.height ∧ h.height ≤ 8192) && (h.chroma != 0 || h.height % 2 == 0) &&
    decide (1 ≤ h.frames ∧ h.frames ≤ 256) && decide (1 ≤ h.matrix ∧ h.matrix ≤ 3) && decide (h.range ≤ 1) &&
    h.reservedZero

/-- The sample at index `i` of plane `k` (0 Y′, 1 Cb, 2 Cr) of frame `f`. -/
def FrameHeader.sample (h : FrameHeader) (b : List Byte) (f k i : Nat) : Nat :=
  let luma := h.width * h.height
  let before := if k = 0 then 0 else luma + (k - 1) * (h.chromaWidth * h.chromaHeight)
  fieldAt b (64 + (f * h.frameSamples + before + i) * h.sampleBytes) h.sampleBytes

/-- Kr and Kb of a matrix as FP32 values (R345). -/
def matrixK (m : Nat) : Fp × Fp :=
  let q := fun (n : Nat) => (Fp.ofNat n).div (Fp.ofNat 10000)
  if m = 1 then (q 2990, q 1140) else if m = 2 then (q 2126, q 722) else (q 2627, q 593)

/-- (c - o) / d in FP32. -/
def scaledSample (c o d : Nat) : Fp := ((Fp.ofNat c).sub (Fp.ofNat o)).div (Fp.ofNat d)

/-- R′, G′ and B′ of one position, each operation of R345 rounded to FP32 in the order it is written (log entry 34). -/
def FrameHeader.rgb (h : FrameHeader) (y cb cr : Nat) : List Fp :=
  let ten := h.bits == 10
  let full := h.range == 1
  let yv := if full then scaledSample y 0 (if ten then 1023 else 255)
    else scaledSample y (if ten then 64 else 16) (if ten then 876 else 219)
  let ch := fun (c : Nat) => if full then scaledSample c (if ten then 512 else 128) (if ten then 1023 else 255)
    else scaledSample c (if ten then 512 else 128) (if ten then 896 else 224)
  let k := matrixK h.matrix
  let kg := (Fp.one.sub k.1).sub k.2
  let r := yv.add (((Fp.ofNat 2).mul (Fp.one.sub k.1)).mul (ch cr))
  let b := yv.add (((Fp.ofNat 2).mul (Fp.one.sub k.2)).mul (ch cb))
  let g := ((yv.sub (k.1.mul r)).sub (k.2.mul b)).div kg
  [r.clamp01, g.clamp01, b.clamp01]

/-- The value of channel `c` at (x, y) of frame `f`; each chroma sample serves every luma position it covers (R345). -/
def FrameHeader.value (h : FrameHeader) (b : List Byte) (c f y x : Nat) : Fp :=
  let cx := if h.chroma = 2 then x else x / 2
  let cy := if h.chroma = 0 then y / 2 else y
  let at_ := cy * h.chromaWidth + cx
  ((h.rgb (h.sample b f 0 (y * h.width + x)) (h.sample b f 1 at_) (h.sample b f 2 at_))[c]?).getD Fp.zero

/-- A 10-bit sample has a bit of [15:10] set (R358). -/
def FrameHeader.highBits (h : FrameHeader) (b : List Byte) : Bool :=
  h.bits == 10 && (List.range (h.frames * h.frameSamples)).any (fun i => decide (1024 ≤ fieldAt b (64 + 2 * i) 2))

/-! ### Grain samples -/

/-- The header of a Grain sample (R343). -/
structure GrainHeader where
  magic : Nat
  version : Nat
  dtype : Nat
  rate : Nat
  width : Nat
  height : Nat
  frames : Nat
  flags : Nat
  reservedZero : Bool
  deriving DecidableEq, Repr

/-- Read the header (R343). -/
def GrainHeader.ofBytes (b : List Byte) : GrainHeader :=
  ⟨fieldAt b 0 4, fieldAt b 4 2, fieldAt b 6 1, fieldAt b 7 1, fieldAt b 8 2, fieldAt b 10 2, fieldAt b 12 2,
   fieldAt b 14 1, zeroAt b 15 49⟩

/-- Blocks of a plane. -/
def GrainHeader.blocks (h : GrainHeader) : Nat := h.width / 8 * (h.height / 8)
/-- Bytes of a plane: its blocks fill whole segments (R343). -/
def GrainHeader.planeBytes (h : GrainHeader) : Nat := h.blocks * grainBlockBytes 2 h.rate
/-- The payload length of R343. -/
def GrainHeader.payload (h : GrainHeader) : Nat := 64 + h.frames * 3 * h.planeBytes

/-- The fields of the header are as R343 states. -/
def GrainHeader.ok (h : GrainHeader) : Bool :=
  h.magic == 0x4E485947 && h.version == 1 && (h.dtype == 0x07 || h.dtype == 0x12) &&
    decide (2 ≤ h.rate ∧ h.rate ≤ 4) && decide (8 ≤ h.width ∧ h.width ≤ 8192) && h.width % 8 == 0 &&
    decide (8 ≤ h.height ∧ h.height ≤ 8192) && h.height % 8 == 0 && decide (1 ≤ h.frames ∧ h.frames ≤ 256) &&
    decide (h.flags ≤ 1) && h.reservedZero && h.blocks % grainSpb 2 == 0

/-- The bytes of block `n` of plane `c` of frame `f`. -/
def GrainHeader.block (h : GrainHeader) (b : List Byte) (c f n : Nat) : List Byte :=
  let size := grainBlockBytes 2 h.rate
  slice b (64 + (f * 3 + c) * h.planeBytes + n * size) size

/-- Some block has x = 0xFF (R358). -/
def GrainHeader.badBlock (h : GrainHeader) (b : List Byte) : Bool :=
  (List.range (h.frames * 3 * h.blocks)).any (fun i => fieldAt b (64 + i * grainBlockBytes 2 h.rate) 1 == 255)

/-- The value of channel `c` at (x, y) of frame `f` before normalisation (R346). -/
def GrainHeader.value (h : GrainHeader) (b : List Byte) (c f y x : Nat) : Fp :=
  let d : DType := if h.dtype = 0x12 then .uint16 else .bf16
  let vs := (grainDecode (grainBits 2 h.rate) (h.block b c f (y / 8 * (h.width / 8) + x / 8))).getD []
  let v := grainValue d (vs[y % 8 * 8 + x % 8]?)
  if h.dtype = 0x12 then v.div (Fp.ofNat 1023) else v

/-! ### Normalisation -/

/-- Normalise a value of channel `c` (R346). -/
def State.normalise (s : State) (u c : Nat) (v : Fp) : Fp :=
  (v.sub (Fp.of32 (s.get (Reg.intNormMean u c)))).mul (Fp.of32 (s.get (Reg.intNormScale u c)))

/-- The elements of a converted frame row, width innermost, then height, frames and channels (R350). -/
def frameElements (width height frames : Nat) (value : Nat → Nat → Nat → Nat → Fp) : List Fp :=
  (List.range 3).flatMap (fun c => (List.range frames).flatMap (fun f => (List.range height).flatMap (fun y =>
    (List.range width).map (fun x => value c f y x))))

/-- The row of a frame or Grain sample in the batch's out_dtype (R345, R346). -/
def State.frameRow (s : State) (u : Nat) (k : TakePar) (format : Nat) (b : List Byte) : List Byte :=
  let vals := if format = 1 then
      let h := FrameHeader.ofBytes b
      frameElements h.width h.height h.frames (fun c f y x => s.normalise u c (h.value b c f y x))
    else
      let h := GrainHeader.ofBytes b
      frameElements h.width h.height h.frames (fun c f y x =>
        if bitAt h.flags 0 = 1 then h.value b c f y x else s.normalise u c (h.value b c f y x))
  vals.flatMap (fun v => leBytes (k.type.encodeElem v) (k.type.bits / 8))

/-! ### Text -/

/-- The longest entry whose bytes begin `b` (R347). -/
def DictBank.longest (d : DictBank) (b : List Byte) : Option (List Byte × Nat) :=
  d.entries.foldl (fun (best : Option (List Byte × Nat)) e =>
    if e.1.isPrefixOf b && decide (((best.map (·.1.length)).getD 0) < e.1.length) then some e else best) none

/-- The tokens of a byte string and the bytes tokenised by fallback (R347); `fuel` is the string's length. -/
def DictBank.tokens (d : DictBank) : Nat → List Byte → List Nat × Nat
  | 0, _ => ([], 0)
  | _ + 1, [] => ([], 0)
  | n + 1, b :: bs => match d.longest (b :: bs) with
    | some e =>
      let r := d.tokens n ((b :: bs).drop e.1.length)
      (e.2 :: r.1, r.2)
    | none =>
      let r := d.tokens n bs
      ((d.byteBase + b.toNat) :: r.1, r.2 + 1)

/-- A tokenised sample (R347): the tokens written, the bytes tokenised by fallback, and the tokens cut. -/
structure TextRow where
  tokens : List Nat
  fallback : Nat
  dropped : Nat
  deriving DecidableEq, Repr

/-- Tokenise a text sample (R347). -/
def TakePar.tokenise (k : TakePar) (d : DictBank) (b : List Byte) : TextRow :=
  let r := d.tokens b.length b
  let bos := if bitAt k.flags 0 = 1 then [k.bosToken] else []
  let eos := if bitAt k.flags 1 = 1 then [k.eosToken] else []
  let out := bos ++ r.1 ++ eos
  if out.length ≤ k.seqLen then ⟨out, r.2, 0⟩
  else
    let kept := if bitAt k.flags 1 = 1 then out.take (k.seqLen - 1) ++ [k.eosToken] else out.take k.seqLen
    ⟨kept, r.2, out.length - k.seqLen⟩

/-- The bytes of a text row: its tokens, then pad_token (R347). -/
def TakePar.textBytes (k : TakePar) (tokens : List Nat) : List Byte :=
  (tokens ++ List.replicate (k.seqLen - tokens.length) k.pad).flatMap (fun t => leBytes t 4)

/-- The token mask of a text row (R347). -/
def TakePar.tokenMaskBytes (k : TakePar) (n : Nat) : List Byte :=
  if k.text then List.replicate n 1 ++ List.replicate (k.seqLen - n) 0 else []

/-! ### Checks of a sample (R358) -/

/-- Formats a unit of this kind accepts (R340). -/
def TakePar.accepts (k : TakePar) (format : Nat) : Bool :=
  if k.text then format == 0x03 else format == 0x01 || format == 0x02

/-- The header, the dimensions and the length of a frame or Grain sample are as R342, R343 and the take state. -/
def TakePar.headerOk (k : TakePar) (format : Nat) (b : List Byte) (length : Nat) : Bool :=
  if format = 1 then
    let h := FrameHeader.ofBytes b
    h.ok && h.width == k.width && h.height == k.height && h.frames == k.frames && length == h.payload
  else if format = 2 then
    let h := GrainHeader.ofBytes b
    h.ok && h.width == k.width && h.height == k.height && h.frames == k.frames && length == h.payload
  else true

/-- The take parameters of a sample. -/
def IntakeSample.take (x : IntakeSample) : TakePar := TakePar.ofBytes x.par

/-- variant_valid is set (R78). -/
def IntakeSample.hasVariant (x : IntakeSample) : Bool := bitAt x.header.hflags 1 == 1

/-- The cause of a corrupt sample: 1 CRC, 2 header, 3 decode; 0 where it is sound (R358). A length beyond the slot's
payload counts as a header fault (log entry 35). -/
def IntakeSample.fault (x : IntakeSample) : Nat :=
  let k := x.take
  let h := x.header
  let b := x.payload
  if b.length < h.length then 2
  else if bitAt h.hflags 0 = 1 ∧ crc32c b ≠ h.crc then 1
  else if !k.accepts h.format || !k.headerOk h.format b h.length || (x.hasVariant && decide (1023 < h.variant)) then 2
  else if h.format = 1 ∧ (FrameHeader.ofBytes b).highBits b then 3
  else if h.format = 2 ∧ (GrainHeader.ofBytes b).badBlock b then 3
  else 0

/-- The variant field of a sheet entry: the sample's variant, or 0xFFFF (R359). -/
def IntakeSample.variant16 (x : IntakeSample) : Nat := if x.hasVariant then x.header.variant else 0xFFFF

/-- The variant of a row in the variants part: all ones for none (R352, R357). -/
def variant32 (v16 : Nat) : Nat := if v16 = 0xFFFF then 0xFFFFFFFF else v16

/-! ### The contact sheet (R359) -/

/-- An entry of the contact sheet. -/
structure SheetEntry where
  tag : Nat
  replaced : Nat
  row : Nat
  status : Nat
  cause : Nat
  variant : Nat
  length : Nat
  dropped : Nat
  pool : Nat
  bank : Nat
  format : Nat
  slot : Nat
  deriving DecidableEq, Repr

/-- The 64 bytes of an entry (R359). -/
def SheetEntry.bytes (e : SheetEntry) (st : Stamp) : List Byte :=
  st.bytes ++ leBytes e.tag 8 ++ leBytes e.replaced 8 ++ leBytes e.row 4 ++ leBytes e.status 1 ++ leBytes e.cause 1 ++
    leBytes e.variant 2 ++ leBytes e.length 4 ++ leBytes e.dropped 4 ++ leBytes e.pool 2 ++ leBytes e.bank 1 ++
    leBytes e.format 1 ++ leBytes e.slot 4 ++ leBytes 0 8

/-- Read an entry. -/
def SheetEntry.ofBytes (b : List Byte) : SheetEntry :=
  ⟨fieldAt b 16 8, fieldAt b 24 8, fieldAt b 32 4, fieldAt b 36 1, fieldAt b 37 1, fieldAt b 38 2, fieldAt b 40 4,
   fieldAt b 44 4, fieldAt b 48 2, fieldAt b 50 1, fieldAt b 51 1, fieldAt b 52 4⟩

/-- A tag of all ones: no sample. -/
def noTag : Nat := 2 ^ 64 - 1

/-- The entry of a sample for a row, with its tokens or frames and the tokens cut. -/
def IntakeSample.entry (x : IntakeSample) (row status cause length dropped : Nat) : SheetEntry :=
  { tag := x.header.tag, replaced := noTag, row := row, status := status, cause := cause, variant := x.variant16
    length := length, dropped := dropped, pool := x.pool, bank := if x.take.text then x.bank else 0xFF
    format := x.header.format, slot := x.index }

/-! ### Dictionary images (R348) -/

/-- The header of a dictionary image. -/
structure DictHeader where
  magic : Nat
  version : Nat
  dictId : Nat
  count : Nat
  byteBase : Nat
  entries : Nat
  strings : Nat
  stringsLen : Nat
  imageLen : Nat
  crc : Nat
  deriving DecidableEq, Repr

/-- Read the header (R348). -/
def DictHeader.ofBytes (b : List Byte) : DictHeader :=
  ⟨fieldAt b 0 4, fieldAt b 4 2, fieldAt b 8 4, fieldAt b 12 4, fieldAt b 16 4, fieldAt b 20 4, fieldAt b 24 4,
   fieldAt b 28 4, fieldAt b 32 4, fieldAt b 36 4⟩

/-- Lexicographic order of byte strings, a proper prefix first. -/
def bytesLt : List Byte → List Byte → Bool
  | _, [] => false
  | [], _ :: _ => true
  | a :: as, b :: bs => if a.toNat = b.toNat then bytesLt as bs else decide (a.toNat < b.toNat)

/-- Neighbouring strings rise strictly. -/
def bytesRise : List (List Byte) → Bool
  | a :: b :: l => bytesLt a b && bytesRise (b :: l)
  | _ => true

/-- The 16 bytes of entry `i`. -/
def DictHeader.entry (h : DictHeader) (b : List Byte) (i : Nat) : List Byte := slice b (h.entries + 16 * i) 16

/-- The string of entry `i`. -/
def DictHeader.string (h : DictHeader) (b : List Byte) (i : Nat) : List Byte :=
  let e := h.entry b i
  slice b (h.strings + fieldAt e 0 4) (fieldAt e 4 1)

/-- Magic, version, image_len and crc32c are as R348 states (check 3 of R349). -/
def DictHeader.imageOk (h : DictHeader) (b : List Byte) (length : Nat) : Bool :=
  h.magic == 0x4E485444 && h.version == 1 && decide (64 ≤ h.imageLen ∧ h.imageLen ≤ length) &&
    h.crc == crc32c (slice b 64 (h.imageLen - 64))

/-- One entry is as R348 states. -/
def DictHeader.entryOk (h : DictHeader) (b : List Byte) (i : Nat) : Bool :=
  let e := h.entry b i
  let len := fieldAt e 4 1
  decide (1 ≤ len ∧ len ≤ 64) && decide (fieldAt e 0 4 + len ≤ h.stringsLen) && zeroAt e 5 3 &&
    fieldAt e 8 4 != 0xFFFFFFFF && zeroAt e 12 4

/-- entry_count, byte_base and every entry are as R348 states, order included (check 4 of R349). -/
def DictHeader.entriesOk (h : DictHeader) (b : List Byte) : Bool :=
  decide (1 ≤ h.count ∧ h.count ≤ 262144) && decide (h.byteBase + 255 ≤ 0xFFFFFFFE) && h.entries % 16 == 0 &&
    decide (h.entries + 16 * h.count ≤ h.imageLen) && decide (h.strings + h.stringsLen ≤ h.imageLen) &&
    (List.range h.count).all (h.entryOk b) && bytesRise ((List.range h.count).map (h.string b))

/-- The bank that an image fills. -/
def DictHeader.bank (h : DictHeader) (b : List Byte) : DictBank :=
  ⟨h.dictId, h.byteBase, (List.range h.count).map (fun i => (h.string b i, fieldAt (h.entry b i) 8 4))⟩

end Sys2Proof.Machine
end

