-- ==== Sys2Proof/Machine/Intake.lean ====
section
/-! DEFINITION. The two intake units (R340 to R361): adopting a plan's take, starting and ending conversions, the reserve,
corrupt and slow samples, ring buffers and takes with their contact sheets, and the dictionaries. -/

namespace Sys2Proof.Machine

/-! ### Units -/

/-- Intake unit `u`. -/
def State.intakeUnit (s : State) (u : Nat) : IntakeUnit := (s.intake[u]?).getD IntakeUnit.init

/-- Change intake unit `u`. -/
def State.modIntake (s : State) (u : Nat) (f : IntakeUnit → IntakeUnit) : State :=
  { s with intake := s.intake.modify u f }

/-- Raise an event of an intake unit that is raised once per unit per step. -/
def State.intakeOnce (s : State) (u : Nat) (e : EvKind) (d : Detail) : State :=
  if (s.intakeUnit u).once.contains e.code then s
  else (s.modIntake u (fun x => { x with once := x.once ++ [e.code] })).raise e (UnitId.intake u) d

/-- The take parameters a unit adopted. -/
def Adopted.take (a : Adopted) : TakePar := TakePar.ofBytes a.par

/-- Reserve entries of a unit: those free to use and those a take under way reads (R356). -/
def IntakeUnit.reserveCount (x : IntakeUnit) : Nat := x.reserve.length + (x.takes.map (·.places.length)).sum

/-- Samples in conversion that are bound for the reserve. -/
def IntakeUnit.boundForReserve (x : IntakeUnit) : Nat := (x.samples.filter (fun y => y.target == .reserve)).length

/-- Index of the ASSEMBLING buffer. -/
def IntakeUnit.assembling (x : IntakeUnit) : Option Nat := x.buffers.findIdx? (fun b => b.state == .assembling)

/-- The rows of a buffer that begins to assemble: samples still converting may already hold its first rows (R356). -/
def IntakeUnit.freshRows (x : IntakeUnit) (buffer rows : Nat) : List RowState :=
  (List.range rows).map (fun r => if x.samples.any (fun y => y.target == .row buffer r) then .assigned else .unassigned)

/-- The next buffer in ring order becomes ASSEMBLING if it is EMPTY and none is ASSEMBLING (R356). -/
def IntakeUnit.openNext (x : IntakeUnit) (rows : Nat) : IntakeUnit :=
  if x.assembling.isSome then x
  else
    let n := x.buffers.length
    let order := (List.range n).map (fun k => (x.head + k) % n)
    match order.find? (fun i => ((x.buffers[i]?).map (fun b => b.state != .complete)).getD false) with
    | none => x
    | some i =>
      if ((x.buffers[i]?).map (fun b => b.state == .empty)).getD false then
        { x with buffers := x.buffers.set i ⟨.assembling, x.freshRows i rows⟩ }
      else x

/-! ### Adoption and withdrawal -/

/-- The op 0x0010 tasks of a plan that name unit `u`, as (graph, task). -/
def Plan.takesOf (pl : Plan) (u : Nat) : List (Nat × Task) :=
  (pl.allTasks.filter (fun x => x.2.2.op == 0x0010 && x.2.2.par 2 1 == u)).map (fun x => (x.1, x.2.2))

/-- An admitted plan's units adopt its takes (R340): the ring and the reserve are empty, the means start at 0, and
batches count from 0; the ring tensor is the one the plan's first take names. -/
def State.adoptIntake (s : State) (p : Nat) (pl : Plan) : State :=
  [0, 1].foldl (fun s u =>
    if s.get (Reg.intUnitControl_partition u) ≠ p then s
    else match (pl.takesOf u).head? with
      | none => s
      | some (g, t) =>
        let k := TakePar.ofBytes t.params
        let ring := (((pl.graph g).bind (fun gr => gr.tensor k.ring)).map (·.base)).getD 0
        let s := s.modIntake u (fun x =>
          { x with
            adopted := some ⟨p, t.params, ring⟩, buffers := List.replicate k.depth ⟨.empty, []⟩, head := 0
            batchSeq := 0, reserve := [], copies := [], takes := [] }.openNext k.rows)
        [0, 1, 2].foldl (fun s c => s.set (Reg.intMean u c) 0) s) s

/-- A plan's withdrawal empties its units' rings and reserves (R356): samples in conversion finish and appear in no
contact sheet (R360). -/
def State.dropIntake (s : State) (p : Nat) : State :=
  { s with intake := s.intake.map (fun (x : IntakeUnit) =>
      if (x.adopted.map (fun a => a.p == p)).getD false then
        { x with
          adopted := none, buffers := [], head := 0, reserve := [], copies := [], takes := []
          samples := x.samples.map (fun y => { y with target := .nowhere }) }
      else x) }

/-! ### The ring -/

/-- Partition address of a ring buffer (R352). -/
def Adopted.bufferAt (a : Adopted) (b : Nat) : Nat := a.ring + b * a.take.bufferBytes

/-- Partition address of a reserve entry's place: behind the buffers (R352). -/
def Adopted.placeAt (a : Adopted) (i : Nat) : Nat :=
  a.ring + a.take.depth * a.take.bufferBytes + i * a.take.entryBytes

/-- What a settled row holds: its samples, its mask, its token mask, its variant and its sheet entry. -/
structure RowData where
  samples : List Byte
  mask : Nat
  tokens : List Byte
  variant : Nat
  entry : SheetEntry
  deriving DecidableEq, Repr

/-- Write a row's parts into its buffer, the sheet entry stamped with kind 0x05 (R352, R359). -/
def State.writeRow (s : State) (a : Adopted) (b r : Nat) (d : RowData) : State :=
  let k := a.take
  let base := a.bufferAt b
  let st := s.stampNow 5
  let s := s.stampUsed.writeHbm a.p (base + r * k.rowBytes) d.samples
  let s := s.writeHbm a.p (base + k.maskAt + r) [BitVec.ofNat 8 d.mask]
  let s := if k.text then s.writeHbm a.p (base + k.tokenAt + r * k.seqLen) d.tokens else s
  let s := s.writeHbm a.p (base + k.variantAt + 4 * r) (leBytes d.variant 4)
  s.writeHbm a.p (base + k.sheetAt + 64 + 64 * r) (d.entry.bytes st)

/-- Mark a row settled; an ASSEMBLING buffer with every row settled is COMPLETE, and the next one opens (R356). -/
def IntakeUnit.markSettled (x : IntakeUnit) (b r status rows : Nat) : IntakeUnit :=
  let bufs := x.buffers.modify b (fun y => { y with rows := y.rows.set r (.settled status) })
  let x := { x with buffers := bufs }
  match x.buffers[b]? with
  | none => x
  | some y =>
    if y.state == .assembling && y.rows.all (fun q => match q with | .settled _ => true | _ => false) then
      { x with buffers := x.buffers.set b { y with state := .complete } }.openNext rows
    else x

/-- The counter of a settled row's status (R357, R358, R361). -/
def State.countStatus (s : State) (u status : Nat) : State :=
  if status = 0 then s
  else if status ≤ 3 then s.count (Ctr.intReplacedCount u)
  else if status = 4 then s.count (Ctr.intPaddedRowsCount u) else s.count (Ctr.intServingDroppedCount u)

/-- Settle a row (R357, R359). -/
def State.settle (s : State) (u : Nat) (a : Adopted) (b r : Nat) (d : RowData) : State :=
  ((s.writeRow a b r d).countStatus u d.entry.status).modIntake u (fun x =>
    x.markSettled b r d.entry.status a.take.rows)

/-- The data of a padded row (R357): mask 0, zeros or pad_token, variant all ones; what the manual does not say of its
entry is free (log entry 4). -/
def State.padData (s : State) (k : TakePar) (row cause replaced : Nat) : RowData :=
  let f := fun (i n : Nat) => (Config.free n (s.freeCtr + i)).toNat
  { samples := if k.text then k.textBytes [] else List.replicate k.rowBytes 0
    mask := 0, tokens := k.tokenMaskBytes 0, variant := 0xFFFFFFFF
    entry := { tag := noTag, replaced := replaced, row := row, status := 4, cause := cause, variant := 0xFFFF, length := 0
               dropped := 0, pool := f 0 16, bank := if k.text then f 1 8 else 0xFF, format := f 2 8, slot := f 3 32 } }

/-- Settle a row as padding (R357). -/
def State.padRow (s : State) (u : Nat) (a : Adopted) (b r cause replaced : Nat) : State :=
  let d := s.padData a.take r cause replaced
  (s.useFree 4).settle u a b r d

/-- The data of a row that takes a reserve entry (R357, R358). -/
def entryData (k : TakePar) (entry : List Byte) (row status cause replaced : Nat) : RowData :=
  let e := SheetEntry.ofBytes (slice entry k.protoAt 64)
  { samples := slice entry 0 k.rowBytes, mask := 1, tokens := if k.text then slice entry k.rowPad k.seqLen else []
    variant := variant32 e.variant
    entry := { e with
      row := row, status := status, cause := cause, replaced := replaced } }

/-- The bytes of the reserve entry at place `i`. -/
def State.reserveEntry (s : State) (a : Adopted) (i : Nat) : List Byte := s.readHbm a.p (a.placeAt i) a.take.entryBytes

/-! ### Starting a conversion -/

/-- The next row of the ASSEMBLING buffer that has no sample yet. -/
def IntakeUnit.nextRow (x : IntakeUnit) : Option (Nat × Nat) := match x.assembling with
  | none => none
  | some b => ((x.buffers[b]?).bind (fun y => y.rows.findIdx? (fun q => q == .unassigned))).map (fun r => (b, r))

/-- Where the next sample goes (R355): the reserve while it holds fewer entries than its size (log entry 36), otherwise
the next row; nowhere while no buffer is ASSEMBLING. -/
def IntakeUnit.nextTarget (x : IntakeUnit) (k : TakePar) : Option SampleTarget :=
  if x.assembling.isNone then none
  else if x.reserveCount + x.boundForReserve < k.reserveSize then some .reserve
  else x.nextRow.map (fun y => .row y.1 y.2)

/-- The unit can convert one more sample (R341): one frame or Grain sample, or four texts. -/
def IntakeUnit.idle (x : IntakeUnit) (k : TakePar) : Bool :=
  decide (x.samples.length < if k.text then 4 else 1)

/-- SAMPLE_START (R355): the oldest FILLED slot of the unit's pools is taken and its conversion starts. -/
def doSampleStart (unit : Nat) (s : State) : State :=
  let x := s.intakeUnit unit
  match x.adopted with
  | none => s
  | some a =>
    let k := a.take
    if k.text ∧ x.active.isNone then s.intakeOnce unit Ev.intakeNoDictionary {}
    else if !x.idle k then s
    else match x.nextTarget k, x.queue.find? (fun q => q.1 == a.p) with
      | some t, some (p, q, i) =>
        let h := s.slot p q i
        let bytes := s.readWin p (s.payloadOf p q i) (min h.length (s.slotBytes p q))
        let sample : IntakeSample := ⟨p, q, i, h, bytes, a.par, t, x.active.getD 0, s.time.now⟩
        let s := (s.consumeSlot p q i).modIntake unit (fun x =>
          { x with queue := x.queue.filter (fun y => !(y == (p, q, i))), samples := x.samples ++ [sample] })
        match t with
        | .row b r => s.modIntake unit (fun x =>
            { x with buffers := x.buffers.modify b (fun y => { y with rows := y.rows.set r .assigned }) })
        | _ => s
      | _, _ => s

/-! ### Corrupt and slow samples (R358) -/

/-- The counter of a sample's cause. -/
def causeCounter (u cause : Nat) : Nat :=
  if cause = 1 then Ctr.intCorruptCrcCount u else if cause = 2 then Ctr.intCorruptHeaderCount u
  else if cause = 3 then Ctr.intCorruptDecodeCount u else Ctr.intSlowCount u

/-- INT_LAST_BAD and the event of a bad sample (R358). -/
def State.noteBad (s : State) (u : Nat) (x : IntakeSample) (cause : Nat) : State :=
  let s := ((s.setPair (Reg.intLastBad u) x.header.tag).set (Reg.intLastBadInfo_cause u) cause).set
    (Reg.intLastBadInfo_pool u) x.pool
  (s.set (Reg.intLastBadInfo_valid u) 1).intakeOnce u (if cause = 4 then Ev.sampleSlow else Ev.sampleCorrupt)
    { object := x.pool, value := x.header.tag % 2 ^ 32, cause := cause }

/-- A training row whose sample is bad takes the oldest reserve entry through the copy engine, or becomes padding. -/
def State.replaceRow (s : State) (u : Nat) (a : Adopted) (b r cause tag : Nat) : State :=
  match (s.intakeUnit u).reserve with
  | [] => (s.intakeOnce u Ev.reserveEmpty {}).padRow u a b r cause tag
  | place :: rest =>
    let c : IntakeCopy := ⟨b, r, s.reserveEntry a place, if cause = 4 then 2 else 1, cause, tag⟩
    s.modIntake u (fun x => { x with reserve := rest, copies := x.copies ++ [c] })

/-- A serving row whose sample is bad is dropped: status 5, mask 0; what its samples hold is free (log entry 4). -/
def State.dropRow (s : State) (u : Nat) (a : Adopted) (x : IntakeSample) (b r cause : Nat) : State :=
  let k := a.take
  let n := k.rowBytes
  let d : RowData :=
    { samples := freeBytes s.freeCtr n, mask := 0, tokens := k.tokenMaskBytes 0, variant := variant32 x.variant16
      entry := x.entry r 5 cause 0 0 }
  (s.useFree n).settle u a b r d

/-- A corrupt or slow sample: its counter, INT_LAST_BAD, its event and its row; one bound for the reserve is discarded with
its counter only (R358). -/
def State.badSample (s : State) (u : Nat) (x : IntakeSample) (cause : Nat) : State :=
  let s := s.count (causeCounter u cause)
  match x.target, (s.intakeUnit u).adopted with
  | .reserve, _ => s
  | .row b r, some a =>
    let s := s.noteBad u x cause
    if a.take.training then s.replaceRow u a b r cause x.header.tag else s.dropRow u a x b r cause
  | _, _ => s.noteBad u x cause

/-! ### The end of a conversion -/

/-- The `i`-th sample in conversion, oldest first. -/
def State.converting (s : State) (u i : Nat) : Option IntakeSample := (s.intakeUnit u).samples[i]?

/-- The budget of R358 in nanoseconds; a format that no unit takes has no running mean, and no sample of it ever converted
without fault: the mean is 0. -/
def State.slowBudget (s : State) (u : Nat) (x : IntakeSample) : Nat :=
  let f := x.header.format
  let mean := if 1 ≤ f ∧ f ≤ 3 then s.get (Reg.intMean u (f - 1)) else 0
  max (s.get (Reg.intSlowBudget_floorUs u) * 1000) (s.get (Reg.intSlowBudget_mult u) * mean)

/-- A conversion ends: the sample leaves the unit and its slot returns to OFFERED, whatever the outcome (R355). -/
def State.endConversion (s : State) (u i : Nat) (x : IntakeSample) : State :=
  (s.modIntake u (fun y => { y with samples := y.samples.eraseIdx i })).releaseSlot x.p x.pool x.index

/-- mean ← mean + (t − mean) / 16 (R358); where the quotient is no whole number, a free value says whether the register
takes the next one down or up (log entry 4). -/
def State.updateMean (s : State) (u format t : Nat) : State :=
  let f := Reg.intMean u (format - 1)
  let d : Int := (t : Int) - s.get f
  let r := if d % 16 = 0 then (0, s) else s.takeFree 1
  r.2.set f ((s.get f : Int) + d / 16 + r.1).toNat

/-- The row that a sound sample gives: its bytes, its token mask, and its sheet entry. -/
def State.convert (s : State) (u : Nat) (x : IntakeSample) (row : Nat) : RowData × Option TextRow :=
  let k := x.take
  if k.text then
    let dict := (((s.intakeUnit u).banks[x.bank]?).getD none).getD ⟨0, 0, []⟩
    let t := k.tokenise dict x.payload
    (⟨k.textBytes t.tokens, 1, k.tokenMaskBytes t.tokens.length, variant32 x.variant16,
      x.entry row 0 0 t.tokens.length t.dropped⟩, some t)
  else
    (⟨s.frameRow u k x.header.format x.payload, 1, [], variant32 x.variant16, x.entry row 0 0 k.frames 0⟩, none)

/-- A place of the reserve that holds no entry. -/
def IntakeUnit.freePlace (x : IntakeUnit) (k : TakePar) : Nat :=
  ((List.range k.reserveSize).find? (fun i => !(x.reserve ++ x.takes.flatMap (·.places)).contains i)).getD 0

/-- A sound sample enters the reserve (R352, R355). -/
def State.enterReserve (s : State) (u : Nat) (a : Adopted) (d : RowData) : State :=
  let k := a.take
  let place := (s.intakeUnit u).freePlace k
  let at_ := a.placeAt place
  let s := s.writeHbm a.p at_ d.samples
  let s := if k.text then s.writeHbm a.p (at_ + k.rowPad) d.tokens else s
  let s := s.writeHbm a.p (at_ + k.protoAt) (d.entry.bytes ⟨0, 0, 0, 0, 0⟩)
  s.modIntake u (fun x => { x with reserve := x.reserve ++ [place] })

/-- A sound sample settles its row or enters the reserve. -/
def State.placeSample (s : State) (u : Nat) (x : IntakeSample) : State :=
  match x.target, (s.intakeUnit u).adopted with
  | .row b r, some a => s.settle u a b r (s.convert u x r).1
  | .reserve, some a => s.enterReserve u a (s.convert u x 0).1
  | _, _ => s

/-- The buffer a sample is bound for is ASSEMBLING, or it is bound for no buffer. -/
def State.targetOpen (s : State) (u : Nat) (x : IntakeSample) : Bool := match x.target with
  | .row b _ => (((s.intakeUnit u).buffers[b]?).map (fun y => y.state == .assembling)).getD false
  | _ => true

/-- The counts of a sound sample (R347, R361). -/
def State.countSample (s : State) (u : Nat) (x : IntakeSample) : State :=
  let s := s.count (Ctr.intSamplesCount u)
  match (s.convert u x 0).2 with
  | none => s
  | some t =>
    let s := if t.fallback = 0 then s else s.count (Ctr.intFallbackBytesCount u) t.fallback
    if t.dropped = 0 then s else s.count (Ctr.intTruncatedCount u)

/-- SAMPLE_CONVERTED (R358): the conversion of the `sample`-th sample ended after `timeNs`; one that ran longer than its
budget became slow before. -/
def doSampleConverted (unit sample timeNs : Nat) (s : State) : State :=
  match s.converting unit sample with
  | none => s
  | some x =>
    if s.slowBudget unit x < timeNs ∨ !s.targetOpen unit x then s
    else
      let s := if s.time.everLocked then s.advanceTo (x.since + 4 * timeNs) else s
      let s := s.endConversion unit sample x
      let cause := x.fault
      if cause = 0 then ((s.countSample unit x).updateMean unit x.header.format timeNs).placeSample unit x
      else s.badSample unit x cause

/-- SAMPLE_SLOW (R358): the conversion exceeds its budget and is abandoned with cause 4. -/
def doSampleSlow (unit sample : Nat) (s : State) : State :=
  match s.converting unit sample with
  | none => s
  | some x =>
    if !s.targetOpen unit x then s
    else
      let s := if s.time.everLocked then s.advanceTo (x.since + 4 * s.slowBudget unit x) else s
      (s.endConversion unit sample x).badSample unit x 4

/-- RESERVE_COPY_DONE (R358): the copy engine ends the `sample`-th copy under way, and its row settles. -/
def doReserveCopyDone (unit sample : Nat) (s : State) : State :=
  let x := s.intakeUnit unit
  match x.copies[sample]?, x.adopted with
  | some c, some a =>
    (s.modIntake unit (fun y => { y with copies := y.copies.eraseIdx sample })).settle unit a c.buffer c.row
      (entryData a.take c.entry c.row c.status c.cause c.replaced)
  | _, _ => s

/-! ### Takes (R353 to R357) -/

/-- Fill the unsettled rows of a closing buffer (R357), each with the oldest entry, or with padding: the places read. -/
def State.fillRows (s : State) (u : Nat) (a : Adopted) (b : Nat) :
    List Nat → List (Option Nat × List Byte) → List Nat → State × List Nat
  | [], _, used => (s, used)
  | r :: rs, [], used =>
    let s := if a.take.training then s.intakeOnce u Ev.reserveEmpty {} else s
    State.fillRows (s.padRow u a b r 5 noTag) u a b rs [] used
  | r :: rs, e :: es, used =>
    State.fillRows (s.settle u a b r (entryData a.take e.2 r 3 5 noTag)) u a b rs es (used ++ e.1.toList)

/-- The rows of a buffer that have not settled. -/
def IntakeBuffer.unsettled (y : IntakeBuffer) : List Nat :=
  (y.rows.zipIdx.filter (fun q => match q.1 with | .settled _ => false | _ => true)).map (·.2)

/-- Samples still converting for a closing buffer move, in order, to the first rows of the next one (R356). -/
def moveSamples (b next : Nat) : Nat → List IntakeSample → List IntakeSample
  | _, [] => []
  | n, x :: xs => match x.target with
    | .row b' _ => if b' = b then { x with target := .row next n } :: moveSamples b next (n + 1) xs else x :: moveSamples b next n xs
    | _ => x :: moveSamples b next n xs

/-- A closing take (R356): converting samples move on, and unsettled rows take reserve entries, those already on their way
into a row of the buffer first (log entry 37), or become padding. -/
def State.closeBuffer (s : State) (u : Nat) (a : Adopted) (b : Nat) (y : IntakeBuffer) : State × List Nat :=
  let x := s.intakeUnit u
  let moving := (x.copies.filter (fun c => c.buffer == b)).map (fun c => ((none : Option Nat), c.entry))
  let held := x.reserve.map (fun i => (some i, s.reserveEntry a i))
  let next := (b + 1) % max 1 x.buffers.length
  let s := s.modIntake u (fun x =>
    { x with copies := x.copies.filter (fun c => c.buffer != b), samples := moveSamples b next 0 x.samples })
  let r := s.fillRows u a b y.unsettled (moving ++ held) []
  (r.1.modIntake u (fun x => { x with reserve := x.reserve.filter (fun i => !r.2.contains i) }), r.2)

/-- The statuses of a buffer's rows. -/
def IntakeUnit.statuses (x : IntakeUnit) (b : Nat) : List Nat :=
  (((x.buffers[b]?).map (·.rows)).getD []).filterMap (fun q => match q with | .settled st => some st | _ => none)

/-- The take writes the sheet's header (R359). -/
def State.writeSheetHeader (s : State) (u : Nat) (a : Adopted) (b : Nat) : State :=
  let k := a.take
  let x := s.intakeUnit u
  let sts := x.statuses b
  let st := s.stampNow 5
  let bytes := leBytes 0x4E484353 4 ++ leBytes 1 2 ++ leBytes k.kind 1 ++ leBytes k.cls 1 ++ leBytes x.batchSeq 8 ++
    leBytes (s.part a.p).step 8 ++ leBytes k.rows 4 ++ leBytes u 1 ++ leBytes x.reserve.length 1 ++ leBytes 0 2 ++
    leBytes (sts.filter (fun q => decide (1 ≤ q ∧ q ≤ 3))).length 4 ++ leBytes (sts.filter (fun q => decide (4 ≤ q))).length 4 ++
    leBytes 0 8 ++ st.bytes
  s.stampUsed.writeHbm a.p (a.bufferAt b + k.sheetAt) bytes

/-- Write dense data, rows of dimension 0 one after another, into a tensor: as stored, or through its Grain encoder. -/
def State.putDense (s : State) (p : Nat) (t : Tensor) (bs : List Byte) : State :=
  let n := t.rowBytes
  if t.grain then
    s.store p t ((List.range t.rows).map (fun i =>
      ⟨t.bitOffset (t.coords (i * t.dim 0)), (List.range (t.dim 0)).map (fun j =>
        t.type.decodeElem (fieldAt bs (i * n + j * t.elemBytes) t.elemBytes))⟩))
  else
    (List.range t.rows).foldl (fun s i =>
      s.writeSpace p t.space (t.base + t.rowOffset (t.coords (i * t.dim 0))) (slice bs (i * n) n)) s

/-- The variants in the type of their tensor (R353). -/
def variantBytes (t : Tensor) (bs : List Byte) (rows : Nat) : List Byte :=
  (List.range rows).flatMap (fun j => leBytes (min (fieldAt bs (4 * j) 4) (2 ^ t.type.bits - 1)) t.elemBytes)

/-- Copy a part of a buffer into the tensor of an index, if the plan names one. -/
def State.takePart (s : State) (r : Running) (idx : Nat) (f : Tensor → List Byte) : State :=
  match r.operand idx with
  | some o => s.putDense r.p o.t (f o.t)
  | none => s

/-- For text with ctx_first, each row sets the length of its context (R353). -/
def State.takeContexts (s : State) (a : Adopted) (b : Nat) : State :=
  let k := a.take
  if !k.text || k.ctxFirst = 0xFFFF then s
  else (List.range k.rows).foldl (fun s j =>
    let e := SheetEntry.ofBytes (s.readHbm a.p (a.bufferAt b + k.sheetAt + 64 + 64 * j) 64)
    let mask := fieldAt (s.readHbm a.p (a.bufferAt b + k.maskAt + j) 1) 0 1
    let c := s.ctx (k.ctxFirst + j)
    s.setCtx (k.ctxFirst + j) { c with length := if mask = 0 then 0 else e.length }) s

/-- Copy a buffer's parts into the take's tensors (R353). -/
def State.copyBatch (s : State) (r : Running) (a : Adopted) (b : Nat) : State :=
  let k := TakePar.ofBytes r.task.params
  let at_ := a.bufferAt b
  let rd := fun (off n : Nat) => s.readHbm a.p (at_ + off) n
  let samples := rd 0 (k.rows * k.rowBytes)
  let s1 := match r.slot 3 with
    | some o => s.putDense r.p o.t samples
    | none => s
  let s1 := s1.takePart r k.rowMask (fun _ => rd k.maskAt k.rows)
  let s1 := if k.text then s1.takePart r k.tokenMask (fun _ => rd k.tokenAt (k.rows * k.seqLen)) else s1
  let s1 := s1.takePart r k.variants (fun t => variantBytes t (rd k.variantAt (4 * k.rows)) k.rows)
  (s1.takePart r k.sheet (fun _ => rd k.sheetAt (64 + 64 * k.rows))).takeContexts a b

/-- The buffer that a take starting now takes: the oldest one, COMPLETE or ASSEMBLING (R356). -/
def IntakeUnit.takeable (x : IntakeUnit) : Option (Nat × IntakeBuffer) :=
  match x.buffers[x.head]? with
  | some y => if y.state == .complete || y.state == .assembling then some (x.head, y) else none
  | none => none

/-- EV_BATCH_PADDED at a take of a batch with padded rows (R357). -/
def State.notePadded (s : State) (u b : Nat) : State :=
  let n := (((s.intakeUnit u).statuses b).filter (· == 4)).length
  if n = 0 then s else s.intakeOnce u Ev.batchPadded { value := n }

/-- A take starts (R353, R356). -/
def State.openTake (s : State) (r : Running) (u : Nat) (a : Adopted) : State :=
  let x := s.intakeUnit u
  match x.takeable with
  | none => s
  | some (b, y) =>
    let n := max 1 x.buffers.length
    let s := s.modIntake u (fun x =>
      { x with buffers := x.buffers.modify b (fun z => { z with state := .taking }), head := (b + 1) % n })
    let c := if y.state == .assembling then s.closeBuffer u a b y else (s, [])
    let take : IntakeTake := ⟨taskKey r.g r.t, b, c.2⟩
    let s := c.1.modIntake u (fun x => { x with takes := x.takes ++ [take] }.openNext a.take.rows)
    ((s.notePadded u b).writeSheetHeader u a b).copyBatch r a b

/-- A take completes (R356): its buffer is EMPTY, the reserve entries it read are freed, batch_seq rises. -/
def State.closeTake (s : State) (r : Running) (u : Nat) (a : Adopted) : State :=
  let key := taskKey r.g r.t
  match (s.intakeUnit u).takes.find? (fun t => t.key == key) with
  | none => s
  | some t =>
    (s.modIntake u (fun x =>
      { x with
        takes := x.takes.filter (fun y => y.key != key), batchSeq := x.batchSeq + 1
        buffers := x.buffers.set t.buffer ⟨.empty, []⟩ }.openNext a.take.rows)).count (Ctr.intTakesCount u)

/-- TAKE_BATCH (R353): the first core of the task starts the take, and the last to end its share completes it. -/
def doTakeBatch (core : Nat) (s : State) : State :=
  match s.runningOn core with
  | none => s
  | some r =>
    if r.task.op ≠ 0x0010 then s
    else
      let u := r.task.par 2 1
      match (s.intakeUnit u).adopted with
      | none => s.endTask core r 0 false
      | some a =>
        let s := if (s.run r.p r.g r.t).finished.isEmpty then s.openTake r u a else s
        let s := s.endTask core r 0 false
        if r.task.cores.all (fun c => (s.run r.p r.g r.t).finished.contains c) then s.closeTake r u a else s

/-! ### Dictionaries (R349) -/

/-- The checks of R349 for a DICTIONARY descriptor, in order. -/
def State.dictChecks (s : State) (p : Nat) (d : Started) : List Bool :=
  let load := d.opd 16 1 == 1
  let u := d.opd 17 1
  let b := d.opd 18 1
  let q := d.opd 20 2
  let i := d.opd 24 4
  let x := s.intakeUnit u
  let sl := s.slot p q i
  let img := s.readWin p (s.payloadOf p q i) (min sl.length (s.slotBytes p q))
  let h := DictHeader.ofBytes img
  [(load || d.opd 16 1 == 2) && decide (b < 2) && decide (u < 2) && s.get (Reg.intUnitControl_partition u) == p,
   !load || (x.active != some b && !x.samples.any (fun y => y.take.text && y.bank == b)),
   !load || (sl.format == 0x12 && h.imageOk img img.length),
   !load || h.entriesOk img,
   d.opd 16 1 != 2 || ((x.banks[b]?).getD none).isSome]

/-- The first operand byte of a DICTIONARY descriptor that must be zero and is not (R69, R349). -/
def Started.dictStray (d : Started) : Option Nat :=
  (d.strayOperand (if d.opd 16 1 = 2 then [(16, 3)] else [(16, 3), (20, 2), (24, 4)])).or
    (if d.opd 16 1 = 1 then d.badPool 20 else none)

/-- A DICTIONARY descriptor is refused (R349); a descriptor that names no unit is the module's own refusal. -/
def State.refuseDict (s : State) (n : Nat) (d : Started) (fails : List Nat) : State :=
  (s.finish n d .refused (refusedDetail fails)).raise Ev.dictionaryRefused
    (UnitId.intake (if d.opd 17 1 < 2 then d.opd 17 1 else 0)) { value := fails.headD 0 }

/-- DICTIONARY_LOAD (R349): a load is checked and starts; the bank it names is not loaded until it ends. -/
def doDictionaryLoad (ring : Nat) (s : State) : State :=
  match s.findDesc ring 0x12 (fun d => d.opd 16 1 != 2) with
  | none => s
  | some d => match d.dictStray with
    | some off => s.finish ring d .badAddress off
    | none =>
      let p := s.ringPart ring
      let q := d.opd 20 2
      let i := d.opd 24 4
      let fails := failing (s.dictChecks p d)
      if d.opd 16 1 ≠ 1 then s.refuseDict ring d fails
      else if !s.slotFilled p q i 2 then s.finish ring d .slotState 24
      else if !fails.isEmpty then ((s.consumeSlot p q i).refuseDict ring d fails).releaseSlot p q i
      else
        let sl := s.slot p q i
        let img := s.readWin p (s.payloadOf p q i) (min sl.length (s.slotBytes p q))
        let u := d.opd 17 1
        let b := d.opd 18 1
        let load : DictLoad := ⟨ring, d.seq, p, q, i, b, (DictHeader.ofBytes img).bank img⟩
        ((s.consumeSlot p q i).beginDesc ring d).modIntake u (fun x =>
          { x with loads := x.loads ++ [load], banks := x.banks.set b none })

/-- DICTIONARY_LOAD_DONE (R349): the match tables of the oldest load of the bank are built. -/
def doDictionaryLoadDone (unit bank : Nat) (s : State) : State :=
  match (s.intakeUnit unit).loads.find? (fun l => l.bank == bank) with
  | none => s
  | some l =>
    let s := s.modIntake unit (fun x =>
      { x with loads := x.loads.filter (fun y => !(y.ring == l.ring && y.seq == l.seq)), banks := x.banks.set bank (some l.dict) })
    let s := (s.set (Reg.intDictId unit bank) l.dict.dictId).releaseSlot l.p l.pool l.index
    let s := match s.descOf l.ring l.seq with
      | some d => s.finish l.ring d .done
      | none => s
    s.raise Ev.dictionaryLoaded (UnitId.intake unit) { object := bank, value := l.dict.dictId }

/-- DICTIONARY_ACTIVATE (R349): an activate waits for its moment. -/
def doDictionaryActivate (ring : Nat) (s : State) : State :=
  match s.findDesc ring 0x12 (fun d => d.opd 16 1 == 2) with
  | none => s
  | some d => match d.dictStray with
    | some off => s.finish ring d .badAddress off
    | none => s.request (s.ringPart ring) .dictionary ring d

/-- DICTIONARY_ACTIVATE_APPLY (R349): the next due activate is checked and takes effect. -/
def doDictionaryActivateApply (p : Nat) (s : State) : State :=
  match s.nextRequest p .dictionary with
  | none => s
  | some (rq, d) =>
    let s := s.dropRequest p rq
    let fails := failing (s.dictChecks p d)
    if !fails.isEmpty then s.refuseDict rq.ring d fails
    else
      let u := d.opd 17 1
      let b := d.opd 18 1
      ((s.modIntake u (fun x => { x with active := some b })).finish rq.ring d .done).raise Ev.dictionaryActive
        (UnitId.intake u) { object := b, value := s.get (Reg.intDictId u b) }

end Sys2Proof.Machine
end

