-- ==== Sys2Proof/Machine/Outputs.lean ====
section
/-! DEFINITION. Ops 0x0011 and 0x0012: emitting an output into an output pool (R443, R83), and joins (R90). -/

namespace Sys2Proof.Machine

/-- The parameter block of op 0x0011 (R443). -/
structure EmitPar where
  pool : Nat
  format : Nat
  flags : Nat
  variant : Nat
  tag : Nat
  offset : Nat
  length : Nat
  deriving DecidableEq, Repr

/-- Read the block (R443). -/
def EmitPar.ofBytes (b : List Byte) : EmitPar :=
  ⟨fieldAt b 0 2, fieldAt b 2 1, fieldAt b 3 1, fieldAt b 4 2, fieldAt b 8 8, fieldAt b 16 8, fieldAt b 24 8⟩

/-- The payload (R443): the raw bytes of a Clear-coded source through the decoders, any other source as stored. -/
def State.emitPayload (s : State) (p : Nat) (t : Tensor) (k : EmitPar) : List Byte :=
  if t.clear then (List.range k.length).map (fun i => s.storedByte p t (k.offset + i))
  else s.readSpace p t.space (t.base + k.offset) k.length

/-- The 4 KiB blocks of a Clear source that the payload touches. -/
def emitBlocks (t : Tensor) (k : EmitPar) : List Nat :=
  if !t.clear || k.length = 0 then []
  else
    let first := (t.base + k.offset) / 4096
    let last := (t.base + k.offset + k.length - 1) / 4096
    (List.range (last + 1 - first)).map (fun i => (first + i) * 4096)

/-- Tag and variant of the output: from the block, or from the header tensor (R443). -/
def State.emitTag (s : State) (r : Running) (k : EmitPar) : Nat × Nat :=
  match bitAt k.flags 1, r.slot 1 with
  | 1, some o =>
    let w := fun (i : Nat) => (s.elemInt r.p o.t [i]).toNat
    (w 0 + 2 ^ 32 * w 1, w 2 % 2 ^ 16)
  | _, _ => (k.tag, k.variant)

/-- EMIT_OUTPUT (R443): the output is written into a slot, or discarded, and the task ends. -/
def doEmitOutput (core : Nat) (s : State) : State :=
  match s.runningOn core with
  | none => s
  | some r =>
    if r.task.op ≠ 0x0011 then s
    else match r.slot 0 with
      | none => s.endEmpty core r
      | some o =>
        if r.usesEmpty then s.endEmpty core r
        else
          let k := EmitPar.ofBytes r.task.params
          let payload := s.emitPayload r.p o.t k
          let tv := s.emitTag r k
          let crc := bitAt k.flags 0
          let named := decide (tv.2 ≤ 1023)
          let h : OutputHeader := ⟨tv.1, k.length, if crc = 1 then crc32c payload else 0, k.format,
            crc + (if named then 2 else 0), if named then tv.2 else 0⟩
          let s := s.readErrors r o (emitBlocks o.t k)
          (s.emit r.p k.pool h payload).endTask core r 0 false

/-- JOIN (R90): a join completes as soon as it starts. -/
def doJoin (core : Nat) (s : State) : State :=
  match s.runningOn core with
  | none => s
  | some r => if r.task.op ≠ 0x0012 then s else s.endTask core r 0 false

end Sys2Proof.Machine
end

