-- ==== Sys2Proof/Machine/Power.lean ====
section
/-! DEFINITION. The power manager (R392, R393), the states of the 52 V bus short of failure (R394), the coolant (R401), and
the power states of the units (R398, R399). -/

namespace Sys2Proof.Machine

/-! ### The clock and its floor -/

/-- Change the power manager's working state. -/
def State.modPower (s : State) (f : Power → Power) : State := { s with power := f s.power }

/-- TICK_CLOCK_FLOOR of partition `p` in 100 MHz units (R46). -/
def State.clockFloor (s : State) (p : Nat) : Nat := s.get (Reg.tickClockFloor_floor100mhz p)

/-- The highest floor among partitions with an admitted plan (R42, R45). -/
def State.admittedFloor (s : State) : Option Nat :=
  let ps := (List.range 4).filter (fun p => s.admitted p)
  if ps.isEmpty then none else some ((ps.map s.clockFloor).foldl max 0)

/-- The floor that a low bus holds the clock to: the admitted floor, or with no plan the highest of the existing partitions'
floors (log entry 39). -/
def State.busFloor (s : State) : Nat :=
  (s.admittedFloor).getD ((((List.range 4).filter s.partExists).map s.clockFloor).foldl max 0)

/-- The ceiling of the arithmetic clock in 100 MHz units (R56). -/
def clockCeiling : Nat := 36
/-- The test clock of the shut-down test, 2.4 GHz, in 100 MHz units (R427). -/
def testClock : Nat := 24
/-- The lowest arithmetic clock in 100 MHz units (R392). -/
def clockLowest : Nat := 12

/-- Bus states (R394): 0 NORMAL, 1 DROOP, 2 LOW, 3 HOLDUP, 4 OFF. -/
def State.busState (s : State) : Nat := s.get Reg.pwrStatus_busState

/-- Raise an event of the power manager or of a temperature sensor that its unit raises once in a step (R436). -/
def State.powerOnce (s : State) (e : EvKind) (u : UnitId) (d : Detail) : State :=
  if s.power.once.contains (e.code, u.num) then s
  else (s.modPower (fun w => { w with once := w.once ++ [(e.code, u.num)] })).raise e u d

/-! ### The temperature sensors (R400) -/

/-- The throttle limit of every sensor in 0.1 °C (R400), in the order of its table: the compute dies, the cache base dies,
the stacks, the I/O dies, the Negative-store packages and the regulator phase groups there are. -/
def Fitted.throttleLimits (f : Fitted) : List Nat :=
  [(16, 1000), (4, 950), (f.ss, 950), (2 * f.io, 1000), (4 * f.io, 950), (8, 1150)].flatMap (fun x => List.replicate x.1 x.2)

/-- The trip limit of a sensor: every trip limit of R400's table is 10 °C above the throttle limit. -/
def Fitted.tripLimit (f : Fitted) (sensor : Nat) : Option Nat := f.throttleLimits[sensor]?.map (· + 100)

/-- The sensors with their thermal margins, each its throttle limit less its reading (R400). -/
def Fitted.margins (f : Fitted) (temps : List Int) : List (Nat × Int) :=
  ((f.throttleLimits.zip temps).map (fun x => (x.1 : Int) - x.2)).zipIdx.map (fun x => (x.2, x.1))

/-- The sensor with the least margin, the first of several, and that margin (R400). -/
def leastMargin : List (Nat × Int) → Option (Nat × Int)
  | [] => none
  | x :: l => match leastMargin l with
    | none => some x
    | some y => some (if y.2 < x.2 then y else x)

/-- One evaluation of a limit (R392): it falls one step in every ten evaluations in a row that break it, and rises one step
in every hundred in a row with room: the limit, the two counts, and whether it fell. -/
def limitStep (lo limit above under : Nat) (broken room : Bool) : Nat × Nat × Nat × Bool :=
  if broken then
    if above + 1 < 10 then (limit, above + 1, 0, false) else (max lo (limit - 1), 0, 0, decide (lo < limit))
  else if room then
    if under + 1 < 100 then (limit, 0, under + 1, false) else (min clockCeiling (limit + 1), 0, 0, false)
  else (limit, 0, 0, false)

/-- What the manager measured (R403), and the readings of the last 100 ms (R423). -/
def State.noteReadings (s : State) (r : PowerReadings) : State :=
  let s := ((s.set Reg.pwrBus_voltMv r.busMv).set Reg.pwrBus_current10ma r.current10mA).set Reg.pwrInput r.powerW
  let s := match leastMargin (s.fitted.margins r.temps) with
    | some x => (s.set Reg.pwrThermal_margin (unsigned 16 x.2)).set Reg.pwrThermal_sensor x.1
    | none => s
  s.modPower (fun w =>
    { w with history := ((r.powerW, r.busMv, r.current10mA) :: w.history).take 10000, temps := r.temps })

/-- Each sensor at or above its throttle limit raises EV_THERMAL_THROTTLE once in a step (R400, R436). -/
def State.raiseThrottle (s : State) (l : List (Nat × Int)) : State :=
  l.foldl (fun s x => if x.2 ≤ 0 then
      s.powerOnce Ev.thermalThrottle (UnitId.sensor x.1) { object := x.1, value := unsigned 32 x.2 }
    else s) s

/-- The cap and thermal limits of one evaluation (R392, R400). -/
def State.stepLimits (s : State) (r : PowerReadings) : State :=
  let lo := (s.admittedFloor).getD clockLowest
  let cap := s.get Reg.pwrCap_capW
  let c := limitStep lo s.power.capLimit s.power.capOver s.power.capUnder (decide (cap < r.powerW))
    (decide (r.powerW * 100 ≤ cap * 95))
  let m := s.fitted.margins r.temps
  let h := limitStep lo s.power.heatLimit s.power.heatOver s.power.heatUnder (m.any (fun x => decide (x.2 ≤ 0)))
    (m.all (fun x => decide (20 ≤ x.2)))
  let s := s.modPower (fun w =>
    { w with
      capLimit := c.1, capOver := c.2.1, capUnder := c.2.2.1, heatLimit := h.1, heatOver := h.2.1, heatUnder := h.2.2.1 })
  (if h.2.2.2 then s.count Ctr.pwrThermalThrottleCount else s).raiseThrottle m

/-- The supply emergency (R393): while the bus is LOW and the current exceeds 65 A the limit falls one step from the clock
it has; it stands until the bus leaves LOW (log entry 39). -/
def State.stepEmergency (s : State) (r : PowerReadings) : State :=
  let e := if s.busState ≠ 2 then none
    else if 6500 < r.current10mA then
      some (max clockLowest (min (s.power.emergency.getD clockCeiling) (s.get Reg.pwrClock_now100mhz) - 1))
    else s.power.emergency
  (s.modPower (fun w => { w with emergency := e })).set Reg.pwrStatus_emergency (if e.isSome then 1 else 0)

/-- The target of an evaluation and the limit that set it (R392, R403): 0 none, 1 cap, 2 thermal, 3 bus, 4 supply
emergency. During the shut-down test it is no higher than the test clock (R427). -/
def State.clockTarget (s : State) : Nat × Nat :=
  let w := s.power
  let bus := if s.busState = 2 ∨ s.busState = 3 then s.busFloor else clockCeiling
  let least := min (min (if w.testing then testClock else clockCeiling) bus) (min w.capLimit w.heatLimit)
  let held := max least ((s.admittedFloor).getD clockLowest)
  let code := if least = clockCeiling ∨ w.testing ∧ least = testClock then 0 else if w.capLimit = least then 1 else if w.heatLimit = least then 2 else 3
  match w.emergency with
  | some e => if e < held then (e, 4) else (held, code)
  | none => (held, code)

/-- The clock moves towards its target, one step in 2 µs (R392): every step down counts; below the floor with a plan
admitted is a breach (R42, R393). DESIGN CHOICE (log entry 62): the floor that is breached is the highest of the admitted
plans, and the breach adds 1 to the count of every partition with an admitted plan, also where its own floor still holds. -/
def State.moveClock (s : State) (target : Nat) : State :=
  let now := s.get Reg.pwrClock_now100mhz
  let next := if now ≤ target then min target (now + 5) else max target (now - 5)
  let s := s.set Reg.pwrClock_now100mhz next
  let s := if next < now then s.count Ctr.pwrThrottleStepCount (now - next) else s
  match s.admittedFloor with
  | none => s
  | some f =>
    if next < f ∧ f ≤ now then
      let s := s.raise Ev.floorBreach UnitId.power { object := next }
      let s := { s with tally := { s.tally with floor := s.tally.floor + 1 } }
      (List.range 4).foldl (fun s p => if s.admitted p then s.count (Ctr.tickFloorBreachCount p) else s) s
    else s

/-- The power that the readings show exceeds the cap while the clock is at the floor (R393). -/
def State.noteCap (s : State) (r : PowerReadings) : State := match s.admittedFloor with
  | none => s
  | some f =>
    if s.get Reg.pwrCap_capW < r.powerW ∧ s.get Reg.pwrClock_now100mhz ≤ f then
      let first := !s.power.once.contains (Ev.powerCapExceeded.code, UnitId.power.num)
      let s := (s.set Reg.pwrStatus_capExceeded 1).powerOnce Ev.powerCapExceeded UnitId.power { value := r.powerW }
      if first then s.count Ctr.pwrCapExceededCount else s
    else s

/-- THROTTLE_EVAL (R392, R393): one evaluation of the target clock, every 10 µs. -/
def doThrottleEval (r : PowerReadings) (s : State) : State :=
  if s.power.off then s
  else
    let s := (((s.noteReadings r).noteCap r).stepLimits r).stepEmergency r
    let t := s.clockTarget
    ((s.set Reg.pwrClock_target100mhz t.1).set Reg.pwrStatus_limit t.2).moveClock t.1

/-! ### The bus (R394) -/

/-- A bus disturbance counts for Safelight input 8 (R362, R394). -/
def State.supplyEvent (s : State) : State := { s with tally := { s.tally with supply := s.tally.supply + 1 } }

/-- BUS_DROOP (R394): the average falls below 44 V. -/
def doBusDroop (mv : Nat) (s : State) : State :=
  if s.busState ≠ 0 ∨ 44000 ≤ mv then s
  else (((s.set Reg.pwrStatus_busState 1).count Ctr.pwrDroopCount).raise Ev.busDroop UnitId.power { value := mv }).supplyEvent

/-- BUS_NORMAL (R394): the average is 45 V or above for 1 ms. -/
def doBusNormal (mv : Nat) (s : State) : State :=
  if s.busState ≠ 1 ∨ mv < 45000 then s else s.set Reg.pwrStatus_busState 0

/-- BUS_LOW (R394): the average is below 42 V for more than 1 ms. -/
def doBusLow (mv : Nat) (s : State) : State :=
  if s.busState ≠ 1 ∨ 42000 ≤ mv then s
  else (((s.set Reg.pwrStatus_busState 2).count Ctr.pwrBusLowCount).raise Ev.busLow UnitId.power { value := mv }).supplyEvent

/-- BUS_LOW_RECOVER (R394): the average is 43 V or above for 1 ms. -/
def doBusLowRecover (mv : Nat) (s : State) : State :=
  if s.busState ≠ 2 ∨ mv < 43000 then s
  else ((s.set Reg.pwrStatus_busState 1).modPower (fun w => { w with emergency := none })).set Reg.pwrStatus_emergency 0

/-- BUS_SURGE (R394): above 60 V for 100 µs or less, no higher than 80 V. -/
def doBusSurge (mv durationUs : Nat) (s : State) : State :=
  if 3 ≤ s.busState ∨ mv ≤ 60000 ∨ 80000 < mv ∨ 100 < durationUs then s
  else ((s.count Ctr.pwrSurgeCount).raise Ev.busSurge UnitId.power { value := mv }).supplyEvent

/-! ### Coolant (R401) -/

/-- COOLANT_CHECK (R401): flow in 0.01 L/min and inlet temperature in 0.1 °C, measured every 1 ms. -/
def doCoolantCheck (flow : Nat) (inlet : Int) (s : State) : State :=
  if s.power.off then s
  else
    let bad := decide (flow < 400) || decide (inlet < 150) || decide (450 < inlet)
    let s := (s.set Reg.pwrCoolant_flow flow).set Reg.pwrCoolant_inlet (unsigned 16 inlet)
    let s := s.set Reg.pwrStatus_coolantBad (if bad then 1 else 0)
    if bad then s.powerOnce Ev.coolantLimit UnitId.power { value := flow, value2 := unsigned 32 inlet } else s

/-! ### Power states (R398, R399) -/

/-- The tasks placed on core `c` in the current exposure that have not completed. -/
def State.coreBusy (s : State) (c : Nat) : Bool :=
  let p := s.corePart c
  s.inStep p && match s.planOf p with
    | none => false
    | some pl => (pl.tasksOn c).any (fun x =>
        decide (x.2.2.exposure ≤ (s.part p).index) && !(s.run p x.1 x.2.1).completed)

/-- Some core of die `d` holds a task of the current exposure. -/
def State.dieBusy (s : State) (d : Nat) : Bool :=
  ((List.range s.fitted.ccc).filter (fun c => s.fitted.dieOf c == d)).any s.coreBusy

/-- A task of the current exposure on the stack's die reads or writes the stack (R398). -/
def State.stackBusy (s : State) (st : Nat) : Bool :=
  let d := s.fitted.dieOfStack st
  let p := s.diePart d
  s.inStep p && match s.planOf p with
    | none => false
    | some pl => pl.allTasks.any (fun x =>
        decide (x.2.2.exposure ≤ (s.part p).index) && !(s.run p x.1 x.2.1).completed && s.usesStack p st d pl x)

/-- The fabric time of the tick that opens the next exposure with a task of this kind (R399): in the running step, or in the
next one, which begins at the earliest tick of R24, or in step 0 of a plan that is admitted; none where the module knows no
such tick. -/
def State.nextUse (s : State) (p : Nat) (uses : Plan → Nat × Nat × Task → Bool) : Option Nat := match s.planOf p with
  | none => none
  | some pl =>
    let es := (pl.allTasks.filter (uses pl)).map (·.2.2.exposure)
    let rest := es.filter (fun e => decide ((s.part p).index < e))
    let q := s.part p
    if s.inStep p && !rest.isEmpty then (rest.map (fun e => s.tickTime p (q.exposure + e - q.index))).min?
    else if s.inStep p then (es.map (fun e => s.tickTime p (s.nextStepAt p + e))).min?
    else if q.phase == .admitted then (es.map (fun e => s.tickTime p (s.pair (Reg.tickStart p) + e))).min?
    else none

/-- A queue of place 2 of the die's partition holds an entry (R398). -/
def State.placeTwoBusy (s : State) (d : Nat) : Bool :=
  let p := s.diePart d
  match s.planOf p with
  | none => false
  | some pl => pl.queueTable.zipIdx.any (fun x =>
      x.1.place == 2 && s.fitted.dieOf x.1.consumer == d && !(s.queueRun p x.2).items.isEmpty)

/-- The lanes of port `n` must be awake now: a reserved window runs, or starts within 1 µs (R319). -/
def State.inWindowNow (s : State) (n : Nat) : Bool :=
  (s.windowsAhead n).any (fun w => decide (w.1 ≤ s.time.now + 4000 ∧ s.time.now ≤ w.2))

/-- The fabric time of a unit's next known event (R399): the tick that opens the exposure of a core's next task, that of the
next one in which a task of the die uses the staging SRAM or the stack, or 1 µs before a port's next window. -/
def State.nextEvent (s : State) (u : PowerUnit) : Option Nat := match u with
  | .core c => s.nextUse (s.corePart c) (fun _ x => x.2.2.cores.contains c)
  | .staging d => s.nextUse (s.diePart d) (fun pl x => Task.usesStaging s.fitted d pl x)
  | .stack st =>
    let d := s.fitted.dieOfStack st
    let p := s.diePart d
    s.nextUse p (fun pl x => s.usesStack p st d pl x)
  | .port n => ((s.windowsAhead n).filterMap (fun w => if s.time.now + 4000 < w.1 then some (w.1 - 4000) else none)).min?

/-- t of R399, in ns: the time to the unit's next known event. Where the module knows none (no plan in a step, or a step of
which no end is known), it is the `idleNs` that the command brings (DESIGN CHOICE, log entry 69). -/
def State.idleTime (s : State) (u : PowerUnit) (idleNs : Nat) : Nat :=
  ((s.nextEvent u).map (fun t => (t - s.time.now) / 4)).getD idleNs

/-- Core `c` holds no ready task that has its credits (R398): it waits, or has nothing to do. -/
def State.coreWaits (s : State) (c : Nat) : Bool :=
  let p := s.corePart c
  (s.core c).running.isNone && (!s.inStep p || match s.planOf p with
    | none => true
    | some pl => (s.startable p c pl).isEmpty)

/-- Cycles of the arithmetic clock in ns. -/
def State.cyclesNs (s : State) (n : Nat) : Nat :=
  let f := max 1 (s.get Reg.pwrClock_now100mhz)
  (10 * n + f - 1) / f

/-- The exit latency of a unit's power state of a depth, in ns (R398). -/
def State.exitNs (s : State) (u : PowerUnit) (depth : Nat) : Nat := match u, depth with
  | .core _, 3 => 6000
  | .core _, 2 => 400
  | .core _, _ => s.cyclesNs 8
  | .staging _, _ => 2000
  | .stack _, _ => 3000
  | .port _, _ => 1000

/-- The break-even of a core's power state, in ns (R398). -/
def breakEven (u : PowerUnit) (depth : Nat) : Nat := match u, depth with
  | .core _, 3 => 80000
  | .core _, 2 => 5000
  | .core _, _ => 100
  | _, _ => 0

/-- The condition of a unit's power state of a depth (R398). -/
def State.sleepsAt (s : State) (u : PowerUnit) (depth : Nat) : Bool := match u, depth with
  | .core c, 1 => s.coreWaits c
  | .core c, _ => !s.coreBusy c && (s.core c).running.isNone
  | .staging d, _ => !s.dieBusy d && !s.placeTwoBusy d
  | .stack st, _ => !s.stackBusy st
  | .port n, _ => s.portUp n && !s.inWindowNow n && !(s.port n).queue.any (fun i => decide (1 ≤ i.cls))

/-- The depths that a unit may take, deepest first: with no_deep cores use C1 alone and no other unit sleeps (R399). -/
def State.depths (s : State) (u : PowerUnit) : List Nat := match u, s.flag Reg.pwrControl_noDeep with
  | .core _, false => [3, 2, 1]
  | .core _, true => [1]
  | _, false => [1]
  | _, true => []

/-- The deepest state for which all of R399 holds, the unit's next event being `t` ns away. -/
def State.deepest (s : State) (u : PowerUnit) (t : Nat) : Option Nat :=
  (s.depths u).find? (fun d => s.sleepsAt u d &&
    decide (s.exitNs u d + s.get Reg.pwrStateMargin_marginNs ≤ t ∧ breakEven u d ≤ t))

/-- The line-buffer window of core `c` in C3: its contents are lost (R398), but for the halo entries of a layer that has not
committed, which stay for a replay (R238; DEDUCED, log entry 69). -/
def State.keptWindow (s : State) (c : Nat) : List (Nat × Nat × List Byte) :=
  let p := s.corePart c
  (s.core c).window.filter (fun w => match s.planOf p with
    | none => false
    | some pl =>
      let g := w.1 / 65536
      let l := ((pl.task g (w.1 % 65536)).map (·.layer)).getD noLayer
      l != noLayer && !(pl.layerTasks g l).all (fun x => (s.run p g x.1).completed))

/-- POWER_STATE_ENTRY (R399): the unit enters the deepest state whose condition holds, whose exit latency and margin fit
before its next event, and whose break-even a core's wait reaches. -/
def doPowerStateEntry (unit : PowerUnit) (idleNs : Nat) (s : State) : State :=
  match s.deepest unit (s.idleTime unit idleNs) with
  | none => s
  | some depth =>
    if depth ≤ s.sleepOf unit then s
    else
      let kept := fun (c : Nat) => s.keptWindow c
      let s := s.setSleep unit depth
      match unit, depth with
      | .core c, 3 => (s.modCore c (fun k => { k with window := kept c })).count Ctr.pwrC3EntryCount
      | .port _, _ => s.count Ctr.pwrLaneSleepCount
      | _, _ => s

/-- A sleeping unit begins its exit now (R399): the exit latency and the margin reach to its next known event, or its state's
condition holds no longer; where the module knows no event, the command itself tells the moment (DESIGN CHOICE, log entry 69). -/
def State.exitDue (s : State) (u : PowerUnit) : Bool :=
  let d := s.sleepOf u
  !s.sleepsAt u d || match s.nextEvent u with
    | none => true
    | some t => decide (t - s.time.now ≤ 4 * (s.exitNs u d + s.get Reg.pwrStateMargin_marginNs))

/-- POWER_STATE_EXIT (R399): at the event time less exit latency and margin, or at once for unplanned work. -/
def doPowerStateExit (unit : PowerUnit) (unplanned : Bool) (s : State) : State :=
  if s.sleepOf unit != 0 && (unplanned || s.exitDue unit) then s.setSleep unit 0 else s

end Sys2Proof.Machine
end

