-- ==== Sys2Proof/Machine/Resets.lean ====
section
/-! DEFINITION. Resets (R404, R405), the life cycle (R424), the firmware image (R408, R409), the start-up (R410, R426), the
emergency and the orderly shut-down (R394, R396, R397, R400), the shut-down test (R425, R427), and the reset of the host
port (R406). -/

namespace Sys2Proof.Machine

/-- Change the root of trust's working state. -/
def State.modTrust (s : State) (f : Trust → Trust) : State := { s with trust := f s.trust }

/-- The life-cycle state (R424): 0 MANUFACTURE, 1 PROVISIONED, 2 SERVICE, 3 RECOVERY, 4 RETIRED. -/
def State.lifeState (s : State) : Nat := s.get Reg.secLifecycle_state

/-! ### What a reset keeps (R405) -/

/-- The fields marked "built" or "kept across resets" (R405) that have a register of their own; the state of each fabric
port apart. -/
def keptFields : List Fld :=
  [⟨Reg.sysInvCoreFailed, 0, 32⟩, ⟨Reg.sysInvCoreFailed + 4, 0, 32⟩, Reg.sysInvStatus_mismatch, Reg.memNegSealed_sealedGib,
    Reg.memNegUsable_usableGib, Reg.memNegStatus_packages, Reg.memNegStatus_sealedInUse, Reg.survRepair_rowsLeft,
    Reg.survRepair_pagesRetired, Reg.secLifecycle_state, Reg.secLifecycle_owned, Reg.secBootStatus_cause,
    Reg.secBootStatus_verifyFail, Reg.secBootStatus_fullTest, ⟨Reg.secFwVersion, 0, 32⟩, ⟨Reg.secFwVersion + 4, 0, 32⟩,
    Reg.secFwSvn_imageSvn, Reg.secFwSvn_fuseSvn, ⟨0xD00018, 0, 8⟩, Reg.bistControl_fullNext, Reg.bistRecord_state,
    Reg.bistRecord_deferCause, Reg.bistRecord_failedItems, Reg.bistStartup_full, Reg.bistStartup_passed,
    Reg.bistStartup_durationMs] ++ (List.range 8).map (fun i => ⟨0xE00010 + 4 * i, 0, 32⟩)

/-- The counters that a reset keeps (R431). -/
def keptCounters : List Nat := [Ctr.bistBistRunCount, Ctr.bistBistDeferredCount, Ctr.bistBistFailedCount]

/-- The registers after a reset (R405): every field at its reset value but for those kept; a port of a fitted I/O die
trains (R302). -/
def State.resetRegs (s : State) : List (Nat × Nat) :=
  let z := keptFields.foldl (fun (t : State) f => t.set f (s.get f)) { s with regs := [] }
  ((List.range 48).foldl (fun (t : State) n =>
    t.set (Reg.fabPort_state n) (if 12 * s.fitted.io ≤ n then 0 else 1)) z).regs

/-- The object of EV_SESSION_CLOSED (R436): the partition a tenant is bound to, 0xFFFF for the owner; for a tenant bound to
none the manual names no value. -/
def State.sessionObject (s : State) (x : Session) : Nat × State :=
  if x.owner then (0xFFFF, s) else match x.bound with
    | some p => (p, s)
    | none => s.takeFree 16

/-- A session has ended (R418). -/
def State.raiseClosed (s : State) (x : Session) (cause : Nat) : State :=
  let o := s.sessionObject x
  o.2.raiseFor x.bound Ev.sessionClosed UnitId.root { object := o.1, cause := cause }

/-- The root of trust after a reset (R405, R415, R418): the fuses, the provisioning data, the image slot, the self-test
record and the retained SRAM stay; every key slot, session, delivery and unfinished write of the slot is gone, and the
sealed-region key is wrapped again (R421). -/
def Trust.afterReset (t : Trust) (cause : Nat) : Trust :=
  { Trust.init with
    boot := some cause, fuses := t.fuses, recorded := t.recorded, fuseHash := t.fuseHash, rootKey := t.rootKey
    identity := t.identity, chain := t.chain, coded := t.coded, owner := t.owner, holder := t.holder
    sealKey := t.sealKey, image := t.image, record := t.record, retained := t.retained, found := t.found }

/-- The sealed region of the Negative store with its tags (R271, R405). -/
def State.sealedOnly (s : State) : Memory × List (Nat × Nat) :=
  (s.neg.filter (fun e => decide (s.sealedBase ≤ e.1)), s.negTags.filter (fun e => decide (s.sealedBase / 4096 ≤ e.1)))

/-- A reset of the given cause (R404, R405): everything the manual does not keep is wiped, and the start-up of R410 is
pending. Sessions that were open end with cause 3 (R418). -/
def State.resetModule (s : State) (cause : Nat) : State :=
  let kept := s.sealedOnly
  let ev := s.events
  let s' : State :=
    { State.reset with
      fitted := s.fitted, regs := s.resetRegs, counters := s.counters.filter (fun e => keptCounters.contains e.1)
      events := ⟨[], [], ev.flash, newest ev.flashNew ev.flash, false, 0, [0, 0, 0, 0]⟩
      neg := kept.1, negTags := kept.2, rowsUsed := s.rowsUsed, retired := s.retired
      trust := s.trust.afterReset cause, wards := s.wards, out := s.out, freeCtr := s.freeCtr, pending := s.pending }
  (s.trust.sessions.filter (·.authed)).foldl (fun t x => t.raiseClosed x 3) (s'.set Reg.secBootStatus_cause cause)

/-! ### The life cycle (R424) -/

/-- The sealed-region key is destroyed (R421): the sealed region is wiped with it, and no holder is left. -/
def State.destroySeal (s : State) : State :=
  let s := s.modTrust (fun t => { t with sealKey := false, unsealed := none, holder := none })
  let s := { s with
    neg := s.neg.filter (fun e => decide (e.1 < s.sealedBase))
    negTags := s.negTags.filter (fun e => decide (e.1 < s.sealedBase / 4096)), wards := [] }
  s.set Reg.memNegStatus_sealedInUse 0

/-- Provisioning data, fuses and flash at a transition into a state (R415, R424): the owner's key hash is erased by
PROVISIONED; RETIRED destroys the root key in the fuses and with it the identity key, and erases the flash but for its
event-log area. -/
def Trust.entering (t : Trust) (new : Nat) : Trust :=
  if new = 1 then { t with owner := none }
  else if new = 4 then
    { t with rootKey := none, identity := none, chain := [], coded := false, owner := none, image := none, record := [] }
  else t

/-- The module's own view of what RETIRED erases from the provisioning data (R407, R424): the failed-core bits and the
retired pages; and the record registers. -/
def State.eraseFlash (s : State) : State :=
  let s := ({ s with retired := [] }.setPair Reg.sysInvCoreFailed 0).set Reg.survRepair_pagesRetired 0
  ((s.set Reg.bistRecord_state 0).set Reg.bistRecord_deferCause 0).set Reg.bistRecord_failedItems 0

/-- A life-cycle transition (R424): the fuse counter advances and the state is recorded, the sealed-region key is destroyed,
a reset of cause 3 follows, and its events are raised after it. -/
def State.transition (s : State) (new : Nat) : State :=
  let old := s.lifeState
  let s := s.destroySeal.modTrust (fun t =>
    let t := t.entering new
    { t with fuses := t.fuses + 1, recorded := t.fuses + 1 })
  let s := (s.set Reg.secLifecycle_state new).set Reg.secLifecycle_owned (if s.trust.owner.isSome then 1 else 0)
  let s := if new = 4 then s.eraseFlash else s
  let s := s.resetModule 3
  let s := (s.raise Ev.sealKeyDestroyed UnitId.root).raise Ev.lifecycleChanged UnitId.root { object := new, value := old }
  if new = 3 then s.raise Ev.recoveryEntered UnitId.root else s

/-! ### The image (R408, R409) -/

/-- magic of an image header (R408). -/
def imageMagic : Nat := 0x4E48464D
/-- image_len of an image (R408). -/
def imageLen (b : List Byte) : Nat := fieldAt b 16 8
/-- svn of an image (R408). -/
def imageSvn (b : List Byte) : Nat := fieldAt b 8 4
/-- build of an image (R408). -/
def imageBuild (b : List Byte) : Nat := fieldAt b 24 8

/-- The signed bytes of an image (R408). -/
def imageSigned (b : List Byte) : List Byte := b.take 640 ++ (b.take (imageLen b)).drop 1152

/-- The header of an image is not as R408 states (R409). -/
def imageHeaderBad (b : List Byte) : Bool :=
  fieldAt b 0 4 != imageMagic || fieldAt b 4 2 != 1 || decide (imageLen b < 4096) || decide (100663296 < imageLen b)

/-- The checks of R409 on an image: 0 accepted, otherwise the cause of the first that fails (R436): 1 header, 2 key hash,
3 signature, 4 svn. An erased slot holds no header. -/
def imageVerdict (fuseSvn : Nat) (fuseHash b : List Byte) : Nat :=
  if imageHeaderBad b then 1
  else if sha512 (slice b 64 516) ≠ fuseHash then 2
  else if !Config.pssVerify (slice b 64 512) (fieldAt b 576 4) (imageSigned b) (slice b 640 512) then 3
  else if imageSvn b < fuseSvn then 4
  else 0

/-- What the image slot holds: nothing once it is erased (R407, R413). -/
def State.imageBytes (s : State) : List Byte := s.trust.image.getD []

/-- The verdict of R409 on an image under the fuses as they are. -/
def State.verdictOf (s : State) (b : List Byte) : Nat := imageVerdict (s.get Reg.secFwSvn_fuseSvn) (s.trust.fuseHash.getD []) b

/-! ### Start-up (R410) -/

/-- The parts that the ordering code promises (R1, R47, R48). -/
def Fitted.matches (f : Fitted) (x : StartFacts) : Bool :=
  x.dieCores == List.replicate 4 f.coresPerDie && x.dieStacks == (List.range 4).map f.stacksOn && x.ioDies == f.io &&
    x.negPackages == 4 * f.io && x.ports == 12 * f.io

/-- The start-up test is the full one (R426): it is brief after a record that reads passed and whose digest is good. -/
def State.wantsFull (s : State) : Bool :=
  s.get Reg.bistRecord_state != 2 || !bistDigestGood s.trust.record || s.flag Reg.bistControl_fullNext

/-- What the record says is reported before the test (R426). -/
def State.reportRecord (s : State) : State :=
  if s.get Reg.bistRecord_state = 1 then s.raise Ev.bistIncomplete UnitId.root
  else if s.get Reg.bistRecord_state = 4 then
    s.raise Ev.bistDeferred UnitId.root { cause := s.get Reg.bistRecord_deferCause }
  else s

/-- A core is marked failed or not (R51). -/
def State.markCore (s : State) (c : Nat) (failed : Bool) : State :=
  s.set ⟨Reg.sysInvCoreFailed + 4 * (c / 32), c % 32, 1⟩ (if failed then 1 else 0)

/-- The failed items of a test: a bit per item (R425). -/
def failedMap (items : List BistItem) : Nat :=
  ((items.zipIdx.filter (fun (x : BistItem × Nat) => x.1.failed != 0)).map (fun x => 2 ^ x.2)).sum

/-- The calibration that a start-up test leaves in use (R426): the brief test loads the record's, and the full one calibrates
from the start. -/
def State.startCalibration (s : State) (full : Bool) : State :=
  if full then (s.modTrust (fun t => { t with calibration := (Config.calibration s.freeCtr).take 65536 })).useFree 1
  else s.modTrust (fun t => { t with calibration := (BistRecord.ofFlash t.record).calibration })

/-- The start-up test (R426, R51): it clears full_next, marks each active core that fails the array test, and in MANUFACTURE
or RECOVERY a full test clears the bit of each core that passes. It takes 150 ms, or 2,500 ms with the items of R427. -/
def State.startTest (s : State) (x : StartFacts) : State :=
  let full := s.wantsFull
  let s := s.reportRecord.set Reg.bistControl_fullNext 0
  let clears := full && (s.lifeState == 0 || s.lifeState == 3)
  let s := (List.range s.fitted.ccc).foldl (fun s c =>
    if x.failedCores.contains c then (s.markCore c true).raise Ev.coreFailed (UnitId.core c)
    else if clears then s.markCore c false else s) s
  let s := (s.set Reg.secBootStatus_fullTest (if full then 1 else 0)).set Reg.bistStartup_full (if full then 1 else 0)
  let passed := x.testPassed && x.failedCores.isEmpty && (!full || failedMap x.items == 0)
  let s := s.set Reg.bistStartup_passed (if passed then 1 else 0)
  (s.set Reg.bistStartup_durationMs (if full then 2500 else 150)).startCalibration full

/-- The inventory is compared with the ordering code (R52). -/
def State.startInventory (s : State) (x : StartFacts) : State :=
  if s.fitted.matches x then s.set Reg.sysInvStatus_mismatch 0
  else (s.set Reg.sysInvStatus_mismatch 1).raise Ev.inventoryMismatch UnitId.root

/-- The running image's numbers, and the advance of the fuse security version (R409, R430). -/
def State.startImage (s : State) : State :=
  let b := s.imageBytes
  let s := (s.setPair Reg.secFwVersion (imageBuild b)).set Reg.secFwSvn_imageSvn (imageSvn b)
  if bitAt (fieldAt b 6 2) 0 = 1 ∧ s.get Reg.secFwSvn_fuseSvn < imageSvn b then s.set Reg.secFwSvn_fuseSvn (imageSvn b)
  else s

/-- The start has ended and the module is ready (R410). -/
def State.bootDone (s : State) (cause : Nat) : State :=
  (s.startImage.set Reg.secBootStatus_ready 1).raise Ev.bootDone UnitId.root
    { value := (s.startImage).pair Reg.secFwVersion % 2 ^ 32, cause := cause }

/-- A start-up (R409, R410, R424), which verifies the image in the slot: a transition ends it with another reset; RETIRED, RECOVERY and a MANUFACTURE module
without an image never become ready. -/
def State.startUp (s : State) (x : StartFacts) : State := match s.trust.boot with
  | none => s
  | some cause =>
    let life := s.lifeState
    let s := s.modTrust (fun t => { t with boot := none })
    if life = 4 then s
    else
      let v := s.verdictOf s.imageBytes
      let s := s.set Reg.secBootStatus_verifyFail (if v = 0 then 0 else 1)
      let s := if v = 0 then s else s.raise Ev.bootVerifyFail UnitId.root { cause := v }
      if (life = 1 ∨ life = 2) ∧ (v ≠ 0 ∨ s.trust.fuses ≠ s.trust.recorded) then s.transition 3
      else if life = 0 ∧ v ≠ 0 then s
      else
        let s := ((s.startTest x).startInventory x).modTrust (fun t => { t with found := some x })
        if life = 3 then s else s.bootDone cause

/-- START_UP (R410). -/
def doStartUp (start : StartFacts) (s : State) : State := if s.power.off then s else s.startUp start

/-- WARM_RESET (R404, R429, R430): SEC_RESET is written with the guard key while every partition is IDLE, or the PLDM
effecter asks. -/
def doWarmReset (value : Word) (viaPldm : Bool) (start : StartFacts) (s : State) : State :=
  if s.power.off then s
  else if viaPldm then (s.resetModule 1).startUp start
  else
    let v := value.toNat
    if bitsAt v 8 8 ≠ 0xA5 ∨ !s.allIdle then
      s.raise Ev.regWriteRefused UnitId.module { value := 0xD00014, value2 := v }
    else if bitAt v 0 = 1 then (s.resetModule 1).startUp start
    else s

/-- WATCHDOG_RESET (R404). -/
def doWatchdogReset (start : StartFacts) (s : State) : State :=
  if s.power.off then s else (s.resetModule 2).startUp start

/-- HOST_PORT_RESET (R406): every ring resets; slots and the admitted plan go on. -/
def doHostPortReset (cause : Nat) (s : State) : State :=
  ((List.range 64).foldl (fun s n => s.resetRing n) s).raise Ev.hostPortReset UnitId.module { cause := cause }

/-- NEG_STORE_WIPE_DONE (R273). -/
def doNegStoreWipeDone (s : State) : State := s.set Reg.memNegStatus_wiped 1

/-! ### The self-test record (R425) -/

/-- The record in flash (R425). -/
def State.selfTest (s : State) : BistRecord := BistRecord.ofFlash s.trust.record

/-- The record is written to flash with its digest, and the registers show it (R425, R431). -/
def State.putRecord (s : State) (r : BistRecord) : State :=
  let s := s.modTrust (fun t => { t with record := r.flash })
  let s := (s.set Reg.bistRecord_state r.state).set Reg.bistRecord_deferCause r.defer_
  let s := s.set Reg.bistRecord_failedItems r.failed
  r.items.zipIdx.foldl (fun s (x : BistItem × Nat) =>
    s.setReg (0xE00010 + 4 * x.2) (x.1.tested % 2 ^ 16 + 2 ^ 16 * (x.1.failed % 2 ^ 16))) s

/-! ### Power off (R396, R397) -/

/-- Records go to the flash event log as they stand (R440). -/
def State.toFlash (s : State) (rs : List EventRec) : State :=
  let ev := s.events
  { s with events := { ev with flash := newest flashLogSize (ev.flash ++ rs), flashNew := ev.flashNew + rs.length } }

/-- The event path and the whole module log are written to flash (R396, R397, R440). -/
def State.saveLog (s : State) : State :=
  let rs := s.events.path.map (·.record)
  let s := { s with events := { s.events with path := [], log := newest logSize (s.events.log ++ rs) } }
  s.toFlash s.events.log

/-- The records raised since are written to the log and to flash (R396, R397). -/
def State.savePath (s : State) : State :=
  let rs := s.events.path.map (·.record)
  { s with events := { s.events with path := [], log := newest logSize (s.events.log ++ rs) } }.toFlash rs

/-- EV_SHUTDOWN_DONE is the last record (R396, R397). -/
def State.lastRecord (s : State) (cause : Nat) : State :=
  let r := Ev.shutdownDone.recordOf (s.stampNow 1) UnitId.power { cause := cause }
  s.stampUsed.toFlash [r]

/-- The rails go off (R396): every memory without its own cells, and every key slot, is empty. -/
def State.railsOff (s : State) : State :=
  let kept := s.sealedOnly
  let s := { s with
    mem := [], staging := [], tags := [], neg := kept.1, negTags := kept.2
    power := { s.power with off := true, offDue := false, testing := false } }
  (s.modTrust (fun t => { t with
    sessions := [], memKeys := [], unsealed := none, delivery := none, writing := none, testArea := [], saved := []
    boot := none })).set Reg.secBootStatus_ready 0

/-- The sessions that an emergency shut-down or a reset cuts off end with cause 3 (R418). -/
def State.closeAll (s : State) : State := (s.trust.sessions.filter (·.authed)).foldl (fun t x => t.raiseClosed x 3) s

/-- The emergency shut-down (R394, R396): the steps fault, every UP port carries a fault notice, the sessions end (log entry
59), the records are saved, the self-test record reads "not run" unless a test was under way (R427, R429), and the rails go
off. -/
def State.emergencyStop (s : State) (c : FaultCause) (cause : Nat) : State :=
  let s := (List.range 4).foldl (fun s p => s.stepFault p c) s
  let s := (List.range 48).foldl (fun s n =>
    if s.portState n = 2 then
      let n' : Notice := ⟨.fault, (s.part (s.portPart n)).startExposure, 1, s.time.now, s.position, false, c.code, 0, []⟩
      let o := FabOut.notice (s.sealNotice (s.get (Reg.fabPort_neighbour n)) n')
      { s with out := { s.out with fabric := s.out.fabric ++ [(n, o)] } }.stampUsed.sendWire n o
    else s) s
  let s := if s.power.testing then s else s.putRecord { s.selfTest with state := 4, defer_ := 6 }
  (s.closeAll.saveLog.lastRecord cause).railsOff

/-- BUS_FAIL (R394): below 40 V, or an overvoltage beyond the withstood surge; the module enters HOLDUP and shuts down,
after which the bus state is OFF. -/
def doBusFail (mv cause : Nat) (s : State) : State :=
  if 3 ≤ s.busState ∨ s.power.off ∨ (cause = 1 ∧ 40000 ≤ mv) ∨ (cause = 2 ∧ mv ≤ 60000) ∨ ¬ (cause = 1 ∨ cause = 2) then s
  else
    (((s.set Reg.pwrStatus_busState 3).raise Ev.busFail UnitId.power { value := mv, cause := cause }).emergencyStop
      .power 2).set Reg.pwrStatus_busState 4

/-- BUS_RETURN (R394): 46 V or above for 100 ms in OFF: a cold start. -/
def doBusReturn (mv : Nat) (s : State) : State :=
  if (s.busState ≠ 4 ∧ !s.power.off) ∨ mv < 46000 then s else s.resetModule 0

/-- THERMAL_TRIP (R400): a sensor reaches its trip limit. -/
def doThermalTrip (sensor tenths : Nat) (s : State) : State := match s.fitted.tripLimit sensor with
  | none => s
  | some limit =>
    if s.power.off ∨ tenths < limit then s
    else (s.raise Ev.thermalTrip (UnitId.sensor sensor) { object := sensor }).emergencyStop .thermal 3

/-! ### The orderly shut-down (R397) and its test (R427) -/

/-- Step 3 of R397: sessions end, keys are destroyed, and every SRAM in the cores, base dies and I/O dies is wiped. -/
def State.clearSecrets (s : State) : State :=
  let s := (s.trust.sessions.filter (·.authed)).foldl (fun s x =>
    let c := s.takeFree 8
    c.2.raiseClosed x c.1) s
  let s := (List.range 4).foldl (fun s p =>
    let s := s.modPart p (fun q => { q with fabricKey := none, fabricSent := 0 })
    s.set ⟨0xD00020 + 4 * p, 0, 4⟩ 0) s
  let s := s.modTrust (fun t => { t with sessions := [], memKeys := [], unsealed := none, delivery := none, chunks := [], large := [] })
  { (s.set Reg.secView_fullView 0).set Reg.secView_ownerSession 0 with
    staging := [], cores := List.replicate 64 Core.init, intake := [IntakeUnit.init, IntakeUnit.init], devQueues := []
    ports := s.ports.map (fun x => { x with
      queue := [], waiting := [], notices := [], link := { x.link with stream := [], replay := [] } }) }

/-- Steps 5 and 6 of R397. -/
def State.orderlyOff (s : State) : State := (s.savePath.lastRecord 1).railsOff

/-- The shut-down test begins (R427): the calibration in use goes into the retained SRAM and the test regions of the stacks
and packages are saved, the clock goes to the test clock (DEDUCED; log entry 59), and the items write over the regions. -/
def State.saveForTest (s : State) : State :=
  let n := s.freeCtr
  let s := (s.modTrust (fun t => { t with
    retained := t.calibration, saved := t.testArea
    testArea := Memory.writeN [] 0 (Config.testPattern n) })).useFree 1
  ((s.set Reg.pwrClock_now100mhz testClock).set Reg.pwrClock_target100mhz testClock).modPower (fun w => { w with testing := true })

/-- What the test saved is put back, and compared (R427): it reads as it did. -/
def State.restoreTest (s : State) : State :=
  if !s.power.testing then s
  else s.modTrust (fun t => { t with calibration := t.retained, testArea := t.saved, saved := [] })

/-- The conditions of R427 that the state shows, as the cause that a broken one gives (R425): 1 the bus is not NORMAL or
reads outside 48 V to 56 V, 4 a sensor is less than 10 °C below its throttle limit, 5 the clock is not the test clock, or
before the test cannot be. A module that measured nothing since its reset is judged by the bus state alone. -/
def State.testCause (s : State) : Option Nat :=
  let mv := s.get Reg.pwrBus_voltMv
  let clock := if s.power.testing then s.get Reg.pwrClock_now100mhz == testClock else decide (testClock ≤ s.clockTarget.1)
  if s.busState ≠ 0 ∨ (!s.power.history.isEmpty) ∧ (mv < 48000 ∨ 56000 < mv) then some 1
  else if (s.fitted.margins s.power.temps).any (fun x => decide (x.2 < 100)) then some 4
  else if !clock then some 5
  else none

/-- A condition fails (R427): what was saved is restored, the record reads state 4 with its cause, and the shut-down goes
on. -/
def State.deferTest (s : State) (cause : Nat) (done : List BistItem) : State :=
  let s := s.restoreTest
  let st := s.stampNow 1
  let s := s.stampUsed.putRecord ⟨4, cause, failedMap done, done, st, s.selfTest.calibration⟩
  ((s.count Ctr.bistBistDeferredCount).raise Ev.bistDeferred UnitId.root { cause := cause }).orderlyOff

/-- The calibration after a shut-down test: the one measured if it passed (R425, R427). -/
def State.calibrated (s : State) (passed : Bool) : List Byte × State :=
  if passed then ((Config.calibration s.freeCtr).take 65536, s.useFree 1) else (s.selfTest.calibration, s)

/-- The shut-down test has run (R427): what it saved is restored, and the record holds its result. -/
def State.shutdownTest (s : State) (items : List BistItem) : State :=
  let s := s.restoreTest
  let failed := failedMap items
  let st := s.stampNow 1
  let c := s.stampUsed.calibrated (failed == 0)
  let s := c.2.putRecord ⟨if failed = 0 then 2 else 3, 0, failed, items, st, c.1⟩
  let s := s.count Ctr.bistBistRunCount
  if failed = 0 then s.raise Ev.bistDone UnitId.root
  else (s.count Ctr.bistBistFailedCount).raise Ev.bistFail UnitId.root { value := failed }

/-- The results of the shut-down test are there (R427): they count only if its conditions held throughout. -/
def State.endTest (s : State) (items : List BistItem) : State := match s.testCause with
  | some c => s.deferTest c items
  | none => (s.shutdownTest items).orderlyOff

/-- A descriptor of ring `n` is outstanding (R397): fetched and not completed, or submitted and still to be fetched. -/
def State.ringBusy (s : State) (n : Nat) : Bool :=
  !(s.ring n).allDone || (s.ring n).waiting.isSome ||
    (s.ringState n == 1 && s.get (Reg.ringHead n) != s.get (Reg.ringTail n))

/-- A descriptor of some ring is outstanding (R397). -/
def State.ringsBusy (s : State) : Bool := (List.range 64).any s.ringBusy

/-- Steps 2 to 6 of R397. With no results given, the test has begun (R427). -/
def State.goOff (s : State) (test : List BistItem) : State :=
  let s := (s.modPower (fun w => { w with offDue := false })).saveLog.clearSecrets
  if !s.flag Reg.bistControl_atShutdown then s.orderlyOff
  else
    let s := s.putRecord { s.selfTest with state := 1, defer_ := 0 }
    match s.testCause with
    | some c => s.deferTest c []
    | none => if test.isEmpty then s.saveForTest else s.saveForTest.endTest test

/-- An accepted orderly shut-down goes on once no descriptor is outstanding (R397). -/
def State.carryOff (s : State) (test : List BistItem) : State :=
  if !s.power.offDue || s.ringsBusy || !s.allIdle then s else s.goOff test

/-- ORDERLY_SHUTDOWN (R397): refused unless every partition is IDLE; accepted, it waits for outstanding descriptors, saves
the log, clears the secrets, runs the test, and goes off. A later one gives the results of the test that has begun. -/
def doOrderlyShutdown (viaPldm : Bool) (test : List BistItem) (s : State) : State :=
  if s.power.off || (!viaPldm && !s.ready) then s
  else if s.power.testing then s.endTest test
  else if s.power.offDue then s.carryOff test
  else if !s.allIdle then
    if viaPldm then s else s.raise Ev.regWriteRefused UnitId.module { value := 0xC00008, value2 := 1 }
  else (s.modPower (fun w => { w with offDue := true })).carryOff test

/-- SHUTDOWN_TEST_DEFERRED (R427): a condition fails; the record reads state 4 with its cause, and the shut-down goes on. -/
def doShutdownTestDeferred (cause : Nat) (done : List BistItem) (s : State) : State :=
  if !s.power.testing then s else s.deferTest cause done

end Sys2Proof.Machine
end

