-- ==== Sys2Proof/Machine/Trust.lean ====
section
/-! DEFINITION. The root of trust: image delivery by mailbox, PLDM and fabric (R412, R413, R430), the SPDM responder and
its sessions (R416 to R418), and the vendor commands (R418 to R424, R428). -/

namespace Sys2Proof.Machine

/-! ### Image delivery (R412, R413) -/

/-- The bytes a delivery has staged. -/
def Delivery.bytes (d : Delivery) : List Byte := Memory.readN d.staged 0 d.length

/-- A delivery with more bytes in place. -/
def Delivery.stage (d : Delivery) (off : Nat) (bs : List Byte) : Delivery :=
  { d with
    staged := Memory.writeN d.staged off bs, length := max d.length (off + bs.length) }

/-- Grenvor's provisioning completes in MANUFACTURE (R415, R424): the fuses take the root key and the key hash, the key engine
makes the identity key, and the certificate chain and the ordering code are written. -/
def State.provision (s : State) (b : List Byte) : State :=
  let n := s.freeCtr
  let root := leBytes (Config.free 256 n).toNat 32
  let c := Config.provisionCode b
  let f : Fitted := ⟨c.1, c.2.1, c.2.2.1, c.2.2.2⟩
  let s := (s.modTrust (fun t => { t with
    fuseHash := some (sha512 (slice b 64 516)), rootKey := some root, identity := some (Config.newIdentity root (n + 1))
    chain := Config.provisionChain b, coded := true })).useFree 2
  { s with fitted := if f.legal && f.mapOk then f else s.fitted }

/-- The slot has been written (R412, R413, R424): out of RECOVERY and MANUFACTURE a transition follows, in SERVICE a reset of
cause 4. -/
def State.installImage (s : State) (b : List Byte) (source : Nat) : State :=
  let s := s.modTrust (fun t => { t with image := some b, writing := none })
  let s := if s.lifeState = 3 then s.transition (if s.trust.owner.isSome then 2 else 1)
    else if s.lifeState = 0 then (s.provision b).transition 1
    else s.resetModule 4
  s.raise Ev.imageInstalled UnitId.root { value := imageBuild b % 2 ^ 32, cause := source }

/-- The verdict on a delivered image (R409): before the fuses hold a key hash, Grenvor's provisioning image is judged by its
header and its signature. -/
def State.acceptVerdict (s : State) (b : List Byte) : Nat :=
  if s.lifeState = 0 then (if imageHeaderBad b then 1 else if Config.provisionVerify b then 0 else 3) else s.verdictOf b

/-- A delivered image is checked (R409, R412, R413). One that passes is written to the slot, which is erased first: the write
ends when the block next idles (DESIGN CHOICE; log entry 3). One that fails raises EV_BOOT_VERIFY_FAIL and is discarded. -/
def State.judgeImage (s : State) (b : List Byte) (source : Nat) : State :=
  let v := s.acceptVerdict b
  if v = 0 then s.modTrust (fun t => { t with image := none, writing := some (b, source), delivery := none })
  else (s.modTrust (fun t => { t with delivery := none })).raise Ev.bootVerifyFail UnitId.root { cause := v }

/-- A write of the image slot under way ends (R413). -/
def State.finishWrite (s : State) : State := match s.trust.writing with
  | none => s
  | some x => s.installImage x.1 x.2

/-- Another source's delivery, or a write of the slot, is under way (R412). -/
def State.deliveryBusy (s : State) (source port : Nat) : Bool := s.trust.writing.isSome || match s.trust.delivery with
  | some d => d.source != source || d.port != port
  | none => false

/-- The module takes an image now: 0 yes (R412, R413; in MANUFACTURE the provisioning image, R424), 1 refused because a
partition is not IDLE (R413), 4 wrong life-cycle state. -/
def State.imageGate (s : State) : Nat :=
  if s.lifeState = 3 ∨ s.lifeState = 0 then 0 else if s.lifeState = 2 then (if s.allIdle then 0 else 1) else 4

/-- PLDM_FIRMWARE_UPDATE (R412, R413). -/
def doPldmFirmwareUpdate (image : List Byte) (s : State) : State :=
  if s.imageGate ≠ 0 ∨ s.deliveryBusy 2 0 then s else s.judgeImage image 2

/-! ### The SEC mailbox (R430) -/

/-- A mailbox command waits: go was written with this command. -/
def State.mbxWaits (s : State) (cmd : Nat) : Bool :=
  s.flag Reg.secMbxStatus_busy && s.get Reg.secMbxControl_command == cmd

/-- A mailbox command ends with a result. -/
def State.mbxEnd (s : State) (result : Nat) : State := (s.set Reg.secMbxStatus_busy 0).set Reg.secMbxStatus_result result

/-- The bytes of the mailbox data window. -/
def State.mbxData (s : State) : List Byte := (List.range 1024).flatMap (fun i => leBytes (s.get (Reg.secMbxData i)) 4)

/-- MBX_STATUS (R430): the loader's status as a result code (log entry 41). -/
def doMbxStatus (s : State) : State :=
  if !s.mbxWaits 1 then s else s.mbxEnd (if s.deliveryBusy 1 0 then 2 else s.imageGate)

/-- MBX_IMAGE_BEGIN (R412, R413). -/
def doMbxImageBegin (s : State) : State :=
  if !s.mbxWaits 2 then s
  else if s.imageGate ≠ 0 then s.mbxEnd s.imageGate
  else if s.deliveryBusy 1 0 then s.mbxEnd 2
  else (s.modTrust (fun t => { t with delivery := some ⟨1, 0, [], 0⟩ })).mbxEnd 0

/-- MBX_IMAGE_DATA (R430): an offset and up to 4,032 bytes; their places in the window are the model's (log entry 41). -/
def doMbxImageData (s : State) : State :=
  if !s.mbxWaits 3 then s
  else match s.trust.delivery with
    | none => s.mbxEnd 4
    | some d =>
      let len := s.get Reg.secMbxControl_length
      let w := s.mbxData
      let off := fieldAt w 0 8
      if d.source ≠ 1 then s.mbxEnd 2
      else if len < 64 ∨ 4096 < len ∨ 100663296 < off + (len - 64) then s.mbxEnd 1
      else (s.modTrust (fun t => { t with delivery := some (d.stage off ((w.drop 64).take (len - 64))) })).mbxEnd 0

/-- MBX_IMAGE_END (R412, R413): the staged image is checked, and written or discarded. -/
def doMbxImageEnd (s : State) : State :=
  if !s.mbxWaits 4 then s
  else match s.trust.delivery with
    | none => s.mbxEnd 4
    | some d =>
      if d.source ≠ 1 then s.mbxEnd 2
      else if s.imageGate ≠ 0 then s.mbxEnd s.imageGate
      else (s.mbxEnd (if s.acceptVerdict d.bytes = 0 then 0 else 3)).judgeImage d.bytes 1

/-- MBX_ABORT (R430). -/
def doMbxAbort (s : State) : State :=
  if !s.mbxWaits 5 then s
  else if s.trust.delivery.any (fun d => d.source == 1) then
    (s.modTrust (fun t => { t with delivery := none })).mbxEnd 0
  else s.mbxEnd 4

/-! ### Recovery over the fabric (R309, R412) -/

/-- A bulk packet to the neighbour of a port, if the module may send (R382). -/
def State.sendNeighbour (s : State) (port : Nat) (last : Bool) (header data : List Byte) : State :=
  if s.silent (s.portPart port) then s else s.post (s.portPart port) port (bulkSpec (s.get (Reg.fabPort_neighbour port)) last header data) none false

/-- RECOVERY_POLL (R412): every 10 s the loader trains the fitted ports and asks each UP neighbour, in port order. A port that
is DOWN trains again: no image runs (DEDUCED; log entry 59). -/
def doRecoveryPoll (s : State) : State :=
  if s.lifeState ≠ 3 ∨ s.trust.boot.isSome ∨ s.trust.delivery.isSome ∨ s.trust.writing.isSome then s
  else (List.range (min 48 (12 * s.fitted.io))).foldl (fun s n =>
    if s.portState n = 2 then
      (s.sendNeighbour n true (bulkHeader 7 true 0 0 0 0) (slice (s.trust.fuseHash.getD []) 0 64)).modTrust (fun t =>
        { t with polled := t.polled.filter (· != n) ++ [n] })
    else if s.portUp n then s
    else s.set (Reg.fabPort_state n) 1) s

/-- The module accepts the recovery data of this packet (R309, R412): in RECOVERY, of the neighbour that it sent op 7 to. -/
def State.takesImage (s : State) (port : Nat) (pk : Packet) : Bool :=
  s.lifeState == 3 && s.trust.polled.contains port && (pkStamp pk).origin == s.get (Reg.fabPort_neighbour port) &&
    !s.deliveryBusy 3 port

/-- A recovery packet of bulk operation `op` for this module is taken from the port's receive buffer and acted on; where
the module does not accept it, it is discarded (R305, R309, R412). Its epoch is not compared: the two modules share no
plan (log entry 55). -/
def State.takeRecovery (s : State) (port : Nat) (pk : Packet) (op : Nat) (accepts : Bool) (act : State → State) : State :=
  if pkKind pk ≠ 9 ∨ bulkOp pk ≠ op ∨ !s.isFor (s.portPart port) (pkDest pk) ∨ !s.portUp port then s
  else
    let s := (s.passPacket port pk).stampReceipt (pkStamp pk)
    if accepts then act s else s.dropUnmatched port

/-- RECOVERY_IMAGE_REQUEST (R309, R412): a module in SERVICE whose fuse key hash is the requester's sends its image. -/
def doRecoveryImageRequest (port : Nat) (pkt : Packet) (s : State) : State :=
  s.takeRecovery port pkt 7 (s.lifeState == 2 && slice pkt.data 64 64 == slice (s.trust.fuseHash.getD []) 0 64) (fun s =>
    let b := s.imageBytes
    let n := ceilDiv b.length 4032
    let s := (List.range n).foldl (fun s k =>
      s.sendNeighbour port (k + 1 == n) (bulkHeader 8 (k + 1 == n) 0 (4032 * k) b.length 0) ((b.drop (4032 * k)).take 4032)) s
    s.sendNeighbour port true (bulkHeader 9 true 0 0 0 0) [])

/-- RECOVERY_IMAGE_DATA (R412). -/
def doRecoveryImageData (port : Nat) (pkt : Packet) (s : State) : State :=
  s.takeRecovery port pkt 8 (s.takesImage port pkt) (fun s =>
    let d := s.trust.delivery.getD ⟨3, port, [], 0⟩
    s.modTrust (fun t => { t with delivery := some (d.stage (fieldAt pkt.data 8 8) ((pkData pkt).drop 64)) }))

/-- RECOVERY_IMAGE_END (R412): the staged image is checked, and written or discarded. -/
def doRecoveryImageEnd (port : Nat) (pkt : Packet) (s : State) : State :=
  s.takeRecovery port pkt 9 (s.takesImage port pkt && s.trust.delivery.isSome) (fun s => match s.trust.delivery with
    | none => s
    | some d => s.judgeImage d.bytes 3)

/-! ### SPDM requests outside sessions (R416, R417) -/

/-- Answer an SPDM request. -/
def State.reply (s : State) (r : SpdmReply) : State := { s with out := { s.out with spdm := s.out.spdm ++ [r] } }

/-- Answer a request that a RETIRED module does not answer (R424). -/
def State.replyAlive (s : State) (r : SpdmReply) : State := if s.lifeState = 4 then s else s.reply r

/-- A message signed with the identity key (R417); a module that holds none signs nothing. -/
def State.sign (s : State) (message : List Byte) : List Byte := match s.trust.rootKey, s.trust.identity with
  | some k, some w => Config.identitySign k w message
  | _, _ => []

/-- The version of the responder (R416): SPDM 1.2, its major and minor number in one byte. -/
def spdmVersion : Nat := 0x12

/-- The capabilities of the responder (R416). -/
def spdmCaps : List SpdmCap :=
  [.cert, .chal, .measSigned, .measFresh, .keyEx, .mutAuth, .encap, .encrypt, .mac, .hbeat, .keyUpd, .chunk]

/-- The algorithms that the responder chooses of those a requester names (R416). The bits stand for its row in order: 0 the
responder's RSASSA-PSS 4096, 1 the requester's RSASSA-PSS 4096, 2 its ECDSA P-384, 3 SHA-512, 4 secp384r1, 5 AES-256-GCM,
6 the DMTF measurement specification; of the requester's two signatures it takes the first (DESIGN CHOICE; log entry 30). -/
def chooseAlgorithms (algs : Nat) : Nat :=
  let a := algs % 2 ^ 7
  if bitAt a 1 = 1 ∧ bitAt a 2 = 1 then a - 4 else a

/-- GET_VERSION (R416). -/
def doGetVersion (_session : Nat) (s : State) : State := s.reply (.version [spdmVersion])

/-- GET_CAPABILITIES (R416). -/
def doGetCapabilities (_session : Nat) (s : State) : State := s.replyAlive (.capabilities spdmCaps)

/-- NEGOTIATE_ALGORITHMS (R416). -/
def doNegotiateAlgorithms (_session algs : Nat) (s : State) : State := s.replyAlive (.algorithms (chooseAlgorithms algs))

/-- GET_DIGESTS (R416): slot 0 only. -/
def doGetDigests (_session : Nat) (s : State) : State := s.replyAlive (.digests (sha512 s.trust.chain))

/-- GET_CERTIFICATE (R416): a portion of the chain of slot 0; a portion larger than one transfer is fetched in chunks. -/
def doGetCertificate (_session offset len : Nat) (s : State) : State :=
  let b := (s.trust.chain.drop offset).take len
  (s.replyAlive (.certificate b)).modTrust (fun t => if s.lifeState = 4 then t else { t with large := b })

/-- CHALLENGE (R416): a response signed with the identity key. -/
def doChallenge (_session : Nat) (nonce : List Byte) (s : State) : State :=
  s.replyAlive (.challengeAuth nonce (s.sign (nonce ++ sha512 s.trust.chain)))

/-- A session by its number. -/
def State.session (s : State) (n : Nat) : Option Session := s.trust.sessions.find? (fun x => x.id == n)

/-- The partition a requester's session is bound to. -/
def State.boundOf (s : State) (n : Nat) : Option Nat := (s.session n).bind (·.bound)

/-- The values that measurement 7 covers: the map and every partition's protected ranges (R417). -/
def State.mapValues (s : State) : List Nat :=
  s.reg 0xD00018 :: (List.range 4).flatMap (fun p => (List.range 16).flatMap (fun n =>
    [s.reg (0xD02000 + 0x100 * p + 8 * n), s.reg (0xD02004 + 0x100 * p + 8 * n)]))

/-- The provisioning data that measurement 5 covers (R407, R417): the ordering code, the failed cores, the retired pages. -/
def State.provisioned (s : State) : List Nat :=
  (if s.trust.coded then [s.fitted.ccc, s.fitted.ss, s.fitted.io, s.fitted.phys] else []) ++
    [s.pair Reg.sysInvCoreFailed] ++ s.retired.flatMap (fun x => [x.1, x.2])

/-- The inventory of R61 as the last start found it, which measurement 5 covers (R417). -/
def State.inventory (s : State) : List Nat :=
  [s.get Reg.sysInvStatus_mismatch] ++ s.d2dDown.flatMap (fun x => [x.1, x.2.1, x.2.2]) ++ match s.trust.found with
    | some x => x.dieCores ++ x.dieStacks ++ [x.ioDies, x.negPackages, x.ports] ++ x.failedCores
    | none => []

/-- The measurement of an index for the requester's session (R417). -/
def State.measure (s : State) (session index : Nat) : List Byte := match index with
  | 1 => sha512 Config.rom
  | 2 =>
    let b := s.imageBytes
    sha512 ((b.take (imageLen b)).drop 1152 ++ Config.measuredBytes 2 [imageSvn b, imageBuild b])
  | 3 => sha512 (Config.imageComponent 3 s.imageBytes)
  | 4 => sha512 (Config.imageComponent 4 s.imageBytes)
  | 5 => sha512 (Config.measuredBytes 5 (s.provisioned ++ s.inventory))
  | 6 => sha512 (Config.measuredBytes 6 [s.lifeState, s.get Reg.secFwSvn_fuseSvn, s.get Reg.secLifecycle_scan])
  | 7 => sha512 (Config.measuredBytes 7 s.mapValues)
  | _ => ((s.boundOf session).bind (fun p => lookup s.trust.planDigests p)).getD (List.replicate 64 0)

/-- GET_MEASUREMENTS (R417): one block, or all of them for index 0xFF; signed, but by a RETIRED module (R424). -/
def doGetMeasurements (session index : Nat) (nonce : List Byte) (s : State) : State :=
  let is_ := if index = 0xFF then [1, 2, 3, 4, 5, 6, 7, 8] else if 1 ≤ index ∧ index ≤ 8 then [index] else []
  if is_.isEmpty then s.reply .refused
  else
    let blocks := is_.map (fun i => (i, s.measure session i))
    let sig := if s.lifeState = 4 then [] else s.sign (nonce ++ blocks.flatMap (·.2))
    s.reply (.measurements blocks sig)

/-- UNSUPPORTED_REQUEST (R416). -/
def doUnsupportedRequest (_session code : Nat) (s : State) : State := s.replyAlive (.unsupported code)

/-! ### Sessions (R418) -/

/-- Change a session. -/
def State.modSession (s : State) (n : Nat) (f : Session → Session) : State :=
  s.modTrust (fun t => { t with sessions := t.sessions.map (fun x => if x.id = n then f x else x) })

/-- An authenticated session. -/
def State.openSession (s : State) (n : Nat) : Option Session := (s.session n).filter (·.authed)

/-- A session ends with a cause (R418): its registers follow, and the owner's view ends with it (R423). -/
def State.closeSession (s : State) (x : Session) (cause : Nat) : State :=
  let s := s.modTrust (fun t => { t with
    sessions := t.sessions.filter (fun y => y.id != x.id), chunks := t.chunks.filter (fun c => c.1 != x.id) })
  let s := if x.owner then (s.set Reg.secView_fullView 0).set Reg.secView_ownerSession 0
    else match x.bound with
      | some p => (s.set (Reg.secBound p) 0).set ⟨0xD00020 + 4 * p, 2, 1⟩ 0
      | none => s
  s.raiseClosed x cause

/-- KEY_EXCHANGE (R416, R418): a session begins, not yet authenticated, and for the mutual authentication the responder asks for
the requester's digests and certificate in encapsulated requests; what they bring stands in FINISH. -/
def doKeyExchange (_session : Nat) (_exchange : List Byte) (s : State) : State :=
  if s.lifeState = 4 then s
  else
    let n := s.trust.nextSession + 1
    (s.modTrust (fun t => { t with
      nextSession := n, sessions := t.sessions ++ [⟨n, false, false, none, [], 0⟩] })).reply (.keyExchangeRsp n)
    |>.reply (.encapsulated n .getDigests) |>.reply (.encapsulated n .getCertificate)

/-- FINISH (R418): the session is the owner's if the requester's key hash is the recorded one, otherwise a tenant's; a
failed authentication ends it. -/
def doFinish (session : Nat) (auth : FinishAuth) (s : State) : State :=
  match (s.session session).filter (fun x => !x.authed) with
  | none => s.replyAlive .refused
  | some _ =>
    let drop := fun (t : Trust) => { t with sessions := t.sessions.filter (fun x => x.id != session) }
    if !auth.verified then
      (((s.modTrust drop).count Ctr.secAuthFailCount).raise Ev.sessionAuthFail UnitId.root).reply .refused
    else
      let owner := decide (s.trust.owner = some auth.keyHash)
      if owner && s.trust.sessions.any (fun x => x.authed && x.owner) then (s.modTrust drop).reply .refused
      else
        let s := s.modSession session (fun x => { x with authed := true, owner := owner, keyHash := auth.keyHash })
        let s := if owner then s.set Reg.secView_ownerSession 1 else s
        (s.count Ctr.secSessionsCount).reply (.finishRsp session)

/-- HEARTBEAT (R418). -/
def doHeartbeat (session : Nat) (s : State) : State :=
  if (s.openSession session).isSome then s.reply .heartbeatAck else s.replyAlive .refused

/-- HEARTBEAT_TIMEOUT (R418): three heartbeats were missed. -/
def doHeartbeatTimeout (session : Nat) (s : State) : State := match s.openSession session with
  | some x => s.closeSession x 2
  | none => s

/-- KEY_UPDATE (R416): the keys of a session are updated. -/
def doKeyUpdate (session op : Nat) (s : State) : State :=
  if (s.openSession session).isSome then
    (s.modSession session (fun x => { x with keys := x.keys + 1 })).reply (.keyUpdateAck op)
  else s.replyAlive .refused

/-- END_SESSION (R418). -/
def doEndSession (session : Nat) (s : State) : State := match s.openSession session with
  | some x => (s.closeSession x 1).reply .endSessionAck
  | none => s.replyAlive .refused

/-- CHUNK_SEND (R416): chunks of a large request gather in order from number 0 on; the gathered request stays until the next
one begins, and what it asks is a command of its own (log entry 30). -/
def doChunkSend (session seqNo : Nat) (_last : Bool) (bytes : List Byte) (s : State) : State :=
  if s.lifeState = 4 then s
  else
    let old := if seqNo = 0 then [] else ((s.trust.chunks.find? (fun c => c.1 == session)).map (·.2)).getD []
    let rest := s.trust.chunks.filter (fun c => c.1 != session)
    (s.modTrust (fun t => { t with chunks := rest ++ [(session, old ++ bytes)] })).reply
      (.chunkSendAck seqNo)

/-- CHUNK_GET (R416): one chunk of the large response. -/
def doChunkGet (_session seqNo : Nat) (s : State) : State :=
  let n := Config.chunkBytes
  s.replyAlive (.chunkResponse seqNo (decide (s.trust.large.length ≤ (seqNo + 1) * n)) ((s.trust.large.drop (seqNo * n)).take n))

/-! ### Vendor commands (R418) -/

/-- A vendor command from a session: refused with EV_VENDOR_CMD_REFUSED unless the session may send it now (R418). -/
def State.vendor (s : State) (session code : Nat) (may : Session → Bool) (act : State → Session → State) : State :=
  if s.lifeState = 4 then s
  else match (s.openSession session).filter may with
    | some x => act (s.reply (.vendorDone code)) x
    | none => (s.raiseFor (s.boundOf session) Ev.vendorCmdRefused UnitId.root { object := code }).reply (.vendorRefused code)

/-- SEC_SESSION_p.seal_holder follows the holder and the bound session (R430). -/
def State.noteHolder (s : State) : State :=
  (List.range 4).foldl (fun s p =>
    s.set ⟨0xD00020 + 4 * p, 2, 1⟩
      (if s.trust.sessions.any (fun x => x.bound == some p && !x.owner && s.trust.holder == some x.keyHash) then 1 else 0)) s

/-- BIND_PARTITION (R418). -/
def doBindPartition (session p : Nat) (s : State) : State :=
  s.vendor session 0x01
    (fun x => !x.owner && x.bound.isNone && s.partExists p && !s.trust.sessions.any (fun y => y.bound == some p))
    (fun s x => ((s.modSession x.id (fun y => { y with bound := some p })).set (Reg.secBound p) 1).noteHolder)

/-- A protected range lies in the partition's usable HBM or working allotment, and off its window and plan stores (R419). -/
def State.rangeGood (s : State) (p : Nat) (r : ProtRange) : Bool :=
  let a := r.base * 2 ^ 21
  let n := r.size * 2 ^ 21
  if r.space = 0 then within a n 0 (s.hbmSize p) && !s.hitsWindow p a n && !s.hitsStore p a n
  else r.space == 1 && within a n 0 (s.get (Reg.memNegPartSize p) * 2 ^ 30)

/-- The memory key that an open value stands for: two 256-bit halves (R415). -/
def memoryKey (n : Nat) : List Byte := leBytes (Config.free 512 n).toNat 64

/-- One 64-byte unit as it reads once the partition's encryption of it begins or ends (R419): what lay there enciphered
is deciphered on every read from then on, and the other way round. -/
def Memory.turnUnit (m : Memory) (seals : Bool) (key a : Nat) : Memory :=
  let out := xtsUnit seals (memoryKey key) a (m.readN a 64)
  m.writeN a ((out ++ List.replicate 64 0).take 64)

/-- Every unit of a list of 2 MiB pages, from module address `base` on (R419). -/
def Memory.turnPages (m : Memory) (seals : Bool) (key base : Nat) (pages : List Nat) : Memory :=
  pages.foldl (fun m i => (List.range 32768).foldl (fun m k => m.turnUnit seals key (base + i * 2 ^ 21 + 64 * k)) m) m

/-- The 2 MiB pages of the protected ranges in a space, each once: ranges may overlap. -/
def protPages (space : Nat) (rs : List ProtRange) : List Nat :=
  ((rs.filter (fun r => r.space == space)).flatMap (fun r => (List.range r.size).map (r.base + ·))).eraseDups

/-- The protected ranges of partition `p` as they stand (R430). -/
def State.rangesNow (s : State) (p : Nat) : List ProtRange :=
  (s.protRanges p).map (fun r => ⟨r.1, r.2.1 / 2 ^ 21, r.2.2 / 2 ^ 21⟩)

/-- The memories as the module reads them once partition `p`'s protected ranges are those given (R419): a page that leaves
them reads as it lies there, enciphered, and one that enters them is deciphered. -/
def State.turnRanges (s : State) (p : Nat) (rs : List ProtRange) : State :=
  let key := (lookup s.trust.memKeys p).getD 0
  let turn := fun (m : Memory) (space base : Nat) =>
    let old := protPages space (s.rangesNow p)
    let new := protPages space rs
    (m.turnPages true key base (old.filter (!new.contains ·))).turnPages false key base (new.filter (!old.contains ·))
  { s with mem := turn s.mem 0 (s.hbmBase p), neg := turn s.neg 1 (s.negBase p) }

/-- The protected ranges of partition `p` (R419), as registers (R430). -/
def State.putRanges (s : State) (p : Nat) (rs : List ProtRange) : State :=
  let s := (List.range 16).foldl (fun s n =>
    let r := (rs[n]?).getD ⟨0, 0, 0⟩
    (s.setReg (0xD02000 + 0x100 * p + 8 * n) (r.base % 2 ^ 31 + 2 ^ 31 * (r.space % 2))).setReg
      (0xD02004 + 0x100 * p + 8 * n) (r.size % 2 ^ 32)) (s.turnRanges p rs)
  s.set ⟨0xD00020 + 4 * p, 4, 5⟩ (rs.filter (fun r => r.size != 0)).length

/-- The partition has a memory key (R415): a random one, made when its first range is set. -/
def State.makeMemoryKey (s : State) (p : Nat) : State :=
  if (lookup s.trust.memKeys p).isSome then s
  else (s.modTrust (fun t => { t with memKeys := t.memKeys ++ [(p, s.freeCtr)] })).useFree 1

/-- SET_PROTECTED (R418, R419): the first range of a partition makes its memory key (R415). -/
def doSetProtected (session p : Nat) (ranges : List ProtRange) (s : State) : State :=
  s.vendor session 0x02
    (fun x => x.bound == some p && (s.part p).phase == .idle && decide (ranges.length ≤ 16) && ranges.all (s.rangeGood p))
    (fun s _ => (if ranges.all (fun r => r.size == 0) then s else s.makeMemoryKey p).putRanges p ranges)

/-- SET_FABRIC_KEY (R418, R420). -/
def doSetFabricKey (session p : Nat) (key : List Byte) (s : State) : State :=
  s.vendor session 0x03 (fun x => x.bound == some p && (s.part p).phase == .idle && key.length == 32)
    (fun s _ => (s.modPart p (fun q => { q with fabricKey := some key, fabricSent := 0 })).set (Reg.secFabricKey p) 1)

/-- SEAL_BIND (R418, R421). -/
def doSealBind (session : Nat) (s : State) : State :=
  s.vendor session 0x04 (fun x => !x.owner && s.trust.holder.isNone)
    (fun s x => (s.modTrust (fun t => { t with holder := some x.keyHash, sealKey := true })).noteHolder)

/-- UNSEAL (R418, R421): the sealed-region key is released to the Fixer of the holder's partition. -/
def doUnsealRegion (session : Nat) (s : State) : State :=
  s.vendor session 0x05
    (fun x => !x.owner && x.bound.isSome && s.trust.sealKey && s.trust.holder == some x.keyHash)
    (fun s x =>
      let p := x.bound.getD 0
      ((s.modTrust (fun t => { t with unsealed := some p })).set ⟨0xD00020 + 4 * p, 3, 1⟩ 1).raiseFor (some p)
        Ev.sealKeyReleased UnitId.root { object := p })

/-- SET_VIEW (R418, R423). -/
def doSetView (session : Nat) (full : Bool) (s : State) : State :=
  s.vendor session 0x06 (·.owner) (fun s _ => s.set Reg.secView_fullView (if full then 1 else 0))

/-! ### The partition map (R422) -/

/-- A partition map that R422 allows. -/
def mapValid (map : Nat) : Bool :=
  decide (map < 256) && bitsAt map 0 2 == 0 &&
    (List.range 3).all (fun d => decide (bitsAt map (2 * d) 2 ≤ bitsAt map (2 * d + 2) 2))

/-- The keys and ranges of a partition are destroyed and its tenant session ends (R422); the manual names no cause for
that end. -/
def State.dropTenant (s : State) (p : Nat) : State :=
  let s := (s.putRanges p []).modTrust (fun t => { t with memKeys := t.memKeys.filter (fun x => x.1 != p) })
  (s.trust.sessions.filter (fun x => x.bound == some p)).foldl (fun s x =>
    let c := s.takeFree 8
    c.2.closeSession x c.1) s

/-- The memories of compute die `d` are wiped (R422). -/
def State.wipeDie (s : State) (d : Nat) : State :=
  let lo := s.fitted.stacksBefore d * stackUsable
  let hi := s.fitted.stacksBefore (d + 1) * stackUsable
  { s with
    mem := s.mem.wipe lo hi, tags := dropKeys s.tags (lo / 4096) ((hi + 4095) / 4096)
    staging := s.staging.wipe (d * stagingDie) ((d + 1) * stagingDie) }

/-- Fields that name a partition which no longer exists are set to 0 (R422). -/
def State.fixOwners (s : State) : State :=
  let fields := (List.range 64).map Reg.ringControl_partition ++ (List.range 48).map Reg.fabPort_partition ++
    (List.range 2).map Reg.intUnitControl_partition
  fields.foldl (fun s f => if s.partExists (s.get f) then s else s.set f 0) s

/-- A new map takes effect (R422): each die whose partition changes is wiped, both partitions lose their keys, ranges and
tenants, and EV_PARTITION_CHANGED is raised. -/
def State.changeMap (s : State) (map : Nat) : State :=
  let old := s.reg 0xD00018
  let s := (List.range 4).foldl (fun s d =>
    let a := bitsAt old (2 * d) 2
    let b := bitsAt map (2 * d) 2
    if a = b then s
    else (((s.dropTenant a).dropTenant b).wipeDie d).raise Ev.partitionChanged UnitId.root { value := map }) s
  (s.setReg 0xD00018 map).fixOwners

/-- SET_PARTITION_MAP (R418, R422). -/
def doSetPartitionMap (session map : Nat) (s : State) : State :=
  s.vendor session 0x07 (fun x => x.owner && s.allIdle && s.plans.isEmpty && mapValid map) (fun s _ => s.changeMap map)

/-! ### Life cycle, reset, grade and scan -/

/-- The transitions that LIFECYCLE may request (R424). -/
def lifecycleLegal (state target : Nat) : Bool :=
  (state == 2 && (target == 1 || target == 3)) || ((state == 1 || state == 2 || state == 3) && target == 4)

/-- LIFECYCLE (R418, R424): refused while any plan is admitted. -/
def doLifecycle (session target : Nat) (start : StartFacts) (s : State) : State :=
  s.vendor session 0x08 (fun x => x.owner && !s.anyAdmitted && lifecycleLegal s.lifeState target)
    (fun s _ => (s.transition target).startUp start)

/-- TAKE_OWNERSHIP (R418, R424): any session, in PROVISIONED. -/
def doTakeOwnership (session : Nat) (s : State) : State :=
  s.vendor session 0x09 (fun _ => s.lifeState == 1)
    (fun s x => (s.modTrust (fun t => { t with owner := some x.keyHash })).transition 2)

/-- VENDOR_RESET (R404, R418): a warm reset, also while a plan is admitted. -/
def doVendorReset (session : Nat) (start : StartFacts) (s : State) : State :=
  s.vendor session 0x0A (·.owner) (fun s _ => (s.resetModule 1).startUp start)

/-- The ordering code that a grade record names. -/
def gradeOf (record : List Byte) : Fitted :=
  let c := Config.gradeCode record
  ⟨c.1, c.2.1, c.2.2.1, c.2.2.2⟩

/-- A grade record is good (R1, R412): signed, a defined code lower than the one it replaces, and matched by the fitted
parts; the cores it keeps are active ones of the map recorded at manufacture (R50). -/
def State.gradeGood (s : State) (record : List Byte) : Bool :=
  let f := gradeOf record
  let old := s.fitted
  Config.gradeVerify (s.trust.fuseHash.getD []) record && f.legal && f.mapOk && f.phys &&& old.phys == f.phys && decide (f.ccc ≤ old.ccc ∧ f.ss ≤ old.ss ∧ f.io ≤ old.io) &&
    decide (f.ccc + f.ss + f.io < old.ccc + old.ss + old.io) && s.trust.found.any f.matches

/-- The registers that follow the ordering code (R47, R54, R61, R271): the failed bits of the cores there are, the packages
and usable space of the Negative store, and the ports of absent I/O dies ABSENT. -/
def State.showGrade (s : State) (old : Fitted) : State :=
  let s := s.setPair Reg.sysInvCoreFailed (old.renumber s.fitted (s.pair Reg.sysInvCoreFailed))
  let s := (s.set Reg.memNegStatus_packages (4 * s.fitted.io)).set Reg.memNegUsable_usableGib s.fitted.usableGib
  (List.range 48).foldl (fun s n => if n < 12 * s.fitted.io then s else
    ((s.set (Reg.fabPort_state n) 0).set (Reg.fabPort_neighbourValid n) 0).modPort n (fun _ => Port.init)) s

/-- GRADE_RECORD (R412, R418): the lower code is written and the inventory mismatch is cleared. -/
def doGradeRecord (session : Nat) (record : List Byte) (s : State) : State :=
  s.vendor session 0x0B (fun x => x.owner && s.lifeState == 3 && s.gradeGood record)
    (fun s _ => { (s.set Reg.sysInvStatus_mismatch 0) with fitted := gradeOf record }.showGrade s.fitted)

/-- Every SRAM and HBM is wiped (R428), with all that the model holds of them in fields of its own: plans and what runs of
them, the tables and the event log of the system region (R49), slot headers, contexts and tags. -/
def State.wipeAll (s : State) : State :=
  { s with
    mem := [], tags := [], plans := [], parts := List.replicate 4 Part.init, tokens := [], credits := [], layers := []
    shapes := List.replicate 4 [], searches := List.replicate 8 [], contexts := [], pages := [], devDraws := []
    events := { s.events with log := [] }
    pools := s.pools.map (fun x => { x with slots := x.slots.map (fun _ => ⟨.free, 0, 0, 0, 0, 0, 0, 0, 0⟩) }) }

/-- SCAN_ENABLE (R418, R428): every key is destroyed and every memory wiped before scan opens. -/
def doScanEnable (session : Nat) (s : State) : State :=
  s.vendor session 0x0C (fun x => (x.owner && s.lifeState == 3) || (Config.isGrenvor x.keyHash && s.lifeState == 0))
    (fun s _ =>
      let s := s.clearSecrets.wipeAll
      (s.set Reg.secLifecycle_scan 1).raise Ev.scanEnabled UnitId.root)

/-! ### What goes on by itself -/

/-- What the block does when no command waits: fabric time counts one unit, an accepted orderly shut-down goes on once its
descriptors are complete (R397), and a write of the image slot ends (R413; DESIGN CHOICE, log entry 3). -/
def State.idle (s : State) : State := (s.passTime.carryOff []).finishWrite

end Sys2Proof.Machine
end

