-- ==== Sys2Proof/Machine/Ticks.lean ====
section
/-! DEFINITION. The shutter tick and what happens at it (R19, R21, R40, R41), the end of a step, its hold and its limit
(R24, R26, R41), the loss of time lock (R16), and the withdrawal of a plan (R26). -/

namespace Sys2Proof.Machine

/-! ### The tick -/

/-- The tick that ends the step has come (R24). -/
def State.barrierMet (s : State) (p : Nat) : Bool := match (s.part p).barrier.combined with
  | some t => decide (s.endExposure p t ≤ (s.part p).exposure)
  | none => false

/-- The partition whose tick refreshes the coarse reading of the counter at `lo` (R423, R438): none outside the blocks that
are coarsened. -/
def State.coarseOwner (s : State) (lo : Nat) : Option Nat :=
  if 0x1000000 ≤ lo then some (s.corePart ((lo - 0x1000000) / 0x10000))
  else if 0x700000 ≤ lo ∧ lo < 0x800000 then some ((lo - 0x700000) / 0x1000)
  else if 0x901000 ≤ lo ∧ lo < 0xA00000 then some (s.portPart ((lo - 0x901000) / 0x40))
  else if 0xA00000 ≤ lo ∧ lo < 0xB00000 then some (s.get (Reg.intUnitControl_partition ((lo - 0xA00000) / 0x1000)))
  else if 0x500000 ≤ lo ∧ lo < 0xA00000 then some 0
  else none

/-- The coarse readings of the counters that partition `p` owns are taken anew (R423). -/
def State.refreshCoarse (s : State) (p : Nat) : State :=
  { s with
    coarse := s.coarse.filter (fun e => s.coarseOwner e.1 != some p) ++
      s.counters.filter (fun e => s.coarseOwner e.1 == some p) }

/-- Partition 0's tick (R19, R302, R362): Safelight counts the exposure that ended, and the sequence starts again. -/
def State.tickZero (s : State) (ecc : EccCounts) : State :=
  let s := { s with seq := 0, seqReported := false, stamped := 0 }.safelight ecc
  { s with ports := s.ports.map (fun x => { x with exposureFec := 0, exposureReplays := 0, exposureRetrains := 0 }) }

/-- Core `c` at a tick of its partition (R40): a slipped core counts, and raises its event once in a step. -/
def State.tickCore (s : State) (p c : Nat) : State :=
  if !s.behind p c then s
  else
    let raised := (s.core c).slipRaised
    let s := (s.count (Ctr.tickSlipCount p)).set (Reg.coreStatus_state c) 2
    if raised then s
    else (s.modCore c (fun k => { k with slipRaised := true })).raise Ev.coreSlip (UnitId.core c) { object := (s.part p).index }

/-- The exposures that open while a step goes on (R41): spare ones, then held ones until the limit. -/
def State.tickSpare (s : State) (p : Nat) : State :=
  let i := (s.part p).index
  let planned := s.plannedOf p
  let last := planned + s.sparesOf p
  if i < planned || s.barrierMet p then s
  else if i < last then
    (s.count (Ctr.tickSpareUsedCount p)).raise Ev.spareUsed (UnitId.partition p) { object := i }
  else if i < last + s.get (Reg.tickHoldLimit_limit p) then s.count (Ctr.tickHoldCount p)
  else s

/-- A tick within a step of partition `p`. -/
def State.tickStep (s : State) (p : Nat) : State :=
  if !s.inStep p then s
  else
    let s := s.modPart p (fun q =>
      { q with
        index := q.index + 1 })
    ((s.coresOf p).foldl (fun s c => s.tickCore p c) s).tickSpare p

/-- SHUTTER_TICK (R21): the next tick of partition `p`'s grid opens its exposure, once fabric time counts (R14); an empty
queue may raise its event again (R120). -/
def doShutterTick (p : Nat) (ecc : EccCounts) (s : State) : State :=
  if !s.time.everLocked ∨ 4 ≤ p then s
  else
    let n := (s.part p).nextTick
    let s := s.advanceTo (s.tickTime p n)
    let s := s.reportStarved p
    let s := s.modPart p (fun q =>
      { q with
        exposure := n, nextTick := n + 1, started := true
        queues := q.queues.map (fun x => { x with emptyRaised := false }) })
    let s := if p = 0 then s.tickZero ecc else s
    let s := s.modPart p (fun q => { q with startDue := q.phase == .admitted && n == s.pair (Reg.tickStart p) })
    let s := if (s.part p).withdrawAsked && s.admitted p then s.modPart p (fun q => { q with withdrawDue := true }) else s
    (s.tickStep p).refreshCoarse p

/-! ### The end of a step -/

/-- STEP_ZERO_START (R26): the tick that opens exposure TICK_START begins step 0; a standby second body starts none
(R382). -/
def doStepZeroStart (p : Nat) (s : State) : State :=
  let q := s.part p
  match s.planOf p with
  | none => s
  | some pl =>
    if q.phase != .admitted || !q.startDue || s.standby || q.withdrawDue then s
    else (((s.modPart p (fun q => { q with startDue := false })).evalEta p pl).beginStep p 0 q.exposure).snapshotRecord p

/-- STEP_END (R24, R26): at the first tick from exposure P on that meets the barrier the step ends and the next begins. -/
def doStepEnd (p : Nat) (s : State) : State :=
  let q := s.part p
  match s.planOf p with
  | none => s
  | some pl =>
    if !s.inStep p || !s.barrierMet p || q.withdrawDue then s
    else
      let e := (q.barrier.combined.map (s.endExposure p)).getD q.exposure
      let s := if q.phase == .held then
          s.raise Ev.stepReleased (UnitId.partition p) { value := e - (q.startExposure + pl.planned + pl.spares) }
        else s
      s.stepBoundary p pl e

/-- STEP_HELD (R26, R41): the tick that opens exposure P + S does not meet the barrier. -/
def doStepHeld (p : Nat) (s : State) : State :=
  let q := s.part p
  if q.phase != .running || decide (q.index < s.plannedOf p + s.sparesOf p) || s.barrierMet p || (s.planOf p).isNone then s
  else
    (s.modPart p (fun q => { q with phase := .held })).raise Ev.stepHeld (UnitId.partition p) { value := q.step % 2 ^ 32 }

/-- STEP_HOLD_LIMIT (R26, R41): the tick that opens exposure P + S + TICK_HOLD_LIMIT does not meet the barrier. -/
def doStepHoldLimit (p : Nat) (s : State) : State :=
  let q := s.part p
  let limit := s.get (Reg.tickHoldLimit_limit p)
  if q.phase != .held || decide (q.index < s.plannedOf p + s.sparesOf p + limit) || s.barrierMet p then s
  else (s.raise Ev.stepHoldLimit (UnitId.partition p) { value := limit }).stepFault p .holdLimit

/-- TIME_LOCK_TIMEOUT (R16): lock has been away for 64 exposures of partition `p`; the running step faults, once in the loss. -/
def doTimeLockTimeout (p : Nat) (s : State) : State := match s.time.lostAt with
  | none => s
  | some t =>
    if s.time.locked || s.time.overdue.contains p || decide (s.time.now < t + 64 * s.exposureUnits p) then s
    else { s with time := { s.time with overdue := s.time.overdue ++ [p] } }.stepFault p .timeLock

/-! ### Withdrawal (R26) -/

/-- WITHDRAW (R26): TICK_PLAN_CONTROL.withdraw is written with 1. -/
def doWithdraw (p : Nat) (s : State) : State :=
  if s.ready && s.admitted p then s.modPart p (fun q => { q with withdrawAsked := true }) else s

/-- Descriptors whose effect a withdrawal takes away complete with STATE (log entry 42). -/
def State.dropDescriptors (s : State) (p : Nat) : State :=
  let f := (s.part p).fixer
  let l := (f.dues ++ f.sweep.toList).flatMap (·.secures)
  l.foldl (fun s x => match s.descOf x.1 x.2 with
    | some d => s.finish x.1 d .state (s.part p).phase.code
    | none => s) s

/-- The re-shard of a plan that is withdrawn ends with it: a commit completes with STATE (log entry 42). -/
def State.dropReshard (s : State) (p : Nat) : State :=
  let r := (s.part p).reshard
  if r.prepared.isNone && r.step.isNone then s
  else
    let s := match r.step with
      | none => s
      | some _ => match s.descOf r.ring r.seq with
        | some d => s.finish r.ring d .state (s.part p).phase.code
        | none => s
    (((s.modPart p (fun q => { q with reshard := ⟨none, none, 0, 0, 0⟩ })).set Reg.fabEpoch_reshard 0).set Reg.fabEpoch_next 0).setPair
      Reg.fabReshardStep 0

/-- The Fixer's and Safelight's bits after a plan's departure (R389): they show the plans that are left. -/
def State.noteFixers (s : State) : State :=
  let bit := fun (f : Fixer → Bool) => if s.parts.any (fun q => f q.fixer) then 1 else 0
  ((s.set Reg.survStatus_planInvalid (bit (·.invalid))).set Reg.survStatus_unrecoverable (bit (·.failed))).set
    Reg.survStatus_restoring (bit (·.admission))

/-- What a withdrawal takes from the plan at once (R26, R192, R356, R415): contexts close, intake buffers empty, the fabric
key is destroyed, queues are reset with their credits (R238), and the Fixer forgets the plan. The plan itself drains. -/
def State.leavePlan (s : State) (p : Nat) : State :=
  let s := (((s.dropDescriptors p).dropReshard p).closeAllCtx p).dropIntake p
  let s := s.modPart p (fun q =>
    { q with
      phase := .idle, withdrawAsked := false, withdrawDue := false, startDue := false, fabricKey := none, fabricSent := 0
      fixer := Fixer.init, restoreDue := [], barrier := Barrier.init, drainDone := false, queues := [] })
  let s := { s with credits := s.credits.filter (fun x => x.p != p) }
  (s.set (Reg.secFabricKey p) 0).noteFixers

/-! ### The restore at admission (R387) -/

/-- ADMISSION_RESTORE_DONE (R387): items still to be restored are restored; once all are in, the restore ends, or fails and
the plan returns to IDLE. -/
def doAdmissionRestoreDone (p : Nat) (s : State) : State :=
  match s.planOf p with
  | none => s
  | some pl =>
    if !(s.part p).fixer.admission then s
    else
      let want := ((pl.securing).map (·.restoreEpoch)).getD 0xFFFF
      let items := (s.part p).fixer.left
      let s := s.modFixer p (fun f => { f with left := [] })
      let s := items.foldl (fun s i => if (s.part p).fixer.failed then s
        else s.restoreFrom p i pl (fun r => want == 0xFFFF || r.epoch == want)) s
      let f := (s.part p).fixer
      if f.failed then
        (s.leavePlan p).set Reg.survStatus_unrecoverable 1
      else if f.asked.isEmpty then (s.set Reg.survStatus_restoring 0).modFixer p (fun f => { f with admission := false })
      else s

/-! ### The withdrawal at its tick -/

/-- PLAN_WITHDRAWAL (R26): at the tick after the request the partition stops issuing tasks and returns to IDLE. -/
def doPlanWithdrawal (p : Nat) (s : State) : State :=
  if !(s.part p).withdrawDue || !s.admitted p then s
  else
    let id := ((s.part p).plan).getD 0
    (s.raise Ev.planWithdrawn (UnitId.partition p) { value := id }).leavePlan p

end Sys2Proof.Machine
end

