-- ==== Sys2Proof/Machine/Checks.lean ====
section
/-! DEFINITION. What the loader asks of the parameter blocks, operands and types of products, vector kernels, gathers
and joins (R104, R105, R107, R110, R111, R131, R134, R153 to R157), and the shared form of such checks. -/

namespace Sys2Proof.Machine

/-- What the loader finds of one task under the rules of its op: the operands that the op requires are present (check 12
of R92), its parameter block is legal (check 13), its queues keep the op's own rules (check 14), and the tensors whose
types the op refuses (check 15). -/
structure Verdict where
  operands : Bool
  params : Bool
  queues : Bool
  refused : List Nat
  deriving DecidableEq, Repr

/-- A task of an image as its checks see it: the partition, the plan, the graph, and the task with its index. -/
structure Site where
  p : Nat
  pl : Plan
  g : Graph
  i : Nat
  t : Task
  deriving DecidableEq, Repr

/-- The tensor in slot `k`, if the index is in range. -/
def Site.ten (x : Site) (k : Nat) : Option Tensor := x.g.slotTensor x.t k

/-- A test of the tensor in slot `k`; an absent slot passes, since check 12 judges presence. -/
def Site.on (x : Site) (k : Nat) (f : Tensor → Bool) : Bool := ((x.ten k).map f).getD true

/-- A test of tensor index `i`; an index that names no tensor passes, since other checks judge it. -/
def Site.onIndex (x : Site) (i : Nat) (f : Tensor → Bool) : Bool := ((x.g.tensor i).map f).getD true

/-- The index names a tensor of the graph. -/
def Site.inRange (x : Site) (i : Nat) : Bool := (x.g.tensor i).isSome

/-- The index is in range or absent. -/
def Site.optional (x : Site) (i : Nat) : Bool := i == noTensor || x.inRange i

/-- The slots of the list all name tensors, and those of `absent` name none. -/
def Task.slots (t : Task) (present : List Nat) (absent : List Nat := []) : Bool :=
  present.all t.hasSlot && absent.all (fun k => !t.hasSlot k)

/-- The tensors of these indices whose type code is not among the accepted ones. -/
def Site.refuse (x : Site) (accepts : List (Nat × List Nat)) : List Nat :=
  (accepts.filter (fun a => a.1 != noTensor && !x.onIndex a.1 (fun t => a.2.contains t.dtype))).map (·.1)

/-- The codes of R13 that the matrix array reads (R127). -/
def arrayTypes : List Nat := [1, 2, 3, 4, 5, 6, 7, 8, 9]

/-- A tensor is a matrix of `rows` rows of `row` elements and nothing more (R105, no loops). -/
def Tensor.isMatrix (t : Tensor) (rows row : Nat) : Bool :=
  t.dim 0 == row && t.dim 1 == rows && (List.range 4).all (fun k => t.dim (k + 2) == 1)

/-- Every iteration's matrix lies within its tensor, whose rows have `row` elements (R105, with loops). -/
def Tensor.reaches (t : Tensor) (rows row : Nat) (counts strides : List Nat) : Bool :=
  t.dim 0 == row && (decide (2 ≤ t.rank) || rows == 1) &&
    (counts.any (· == 0) || rows == 0 || row == 0 ||
      decide (((counts.zip strides).map (fun x => (x.1 - 1) * x.2 * 16)).sum +
        (if t.rank < 2 then 0 else (rows - 1) * t.strideBytes 1) + t.rowBytes ≤ t.elementSpan))

/-- Extents of one operand of a product (R105). -/
def Tensor.agrees (t : Tensor) (rows row : Nat) (turned : Bool) (counts strides : List Nat) : Bool :=
  let a := if turned then row else rows
  let b := if turned then rows else row
  if counts.isEmpty then t.isMatrix a b else t.reaches a b counts strides

/-- The loop fields of a product block (R104, R154): at most three levels, counts above them zero, their product at most
2^24. -/
def loopsLegal (t : Task) (loops off : Nat) : Bool :=
  decide (loops ≤ 3) && (List.range 3).all (fun k => decide (k < loops) || t.par (off + 4 * k) 4 == 0) &&
    decide ((t.par3 off loops).foldl (· * ·) 1 ≤ 2 ^ 24)

/-- The long-sum test of R131: flags[3], or a reduction length within NUM_K_LONG.k_long. -/
def State.longSumOk (s : State) (t : Task) : Bool :=
  t.product.longSum || decide (t.product.lRed ≤ s.get Reg.numKLong_kLong)

/-- A layer task writes no FP8 (R134). -/
def layerOut (t : Task) (out : Nat) : Bool := !t.layered || !(out == 0x04 || out == 0x05)

/-- Op 0x0001 (R104, R105, R131, R134). -/
def Site.product1 (x : Site) (s : State) : Verdict :=
  let t := x.t
  let fl := t.par 13 1
  let q := t.product1
  let loops := t.par 15 1
  let small := fun n => decide (n < 2 ^ 31)
  let k := t.par 8 4
  let block := t.params.length == 64 && small q.M && small q.N && small k && decide (t.par 12 1 ≤ 4) &&
    decide (fl < 16) && decide (4 ≤ q.out ∧ q.out ≤ 9) && loopsLegal t loops 16 && layerOut t q.out && s.longSumOk t
  let sa := t.par3 28 loops
  let sb := t.par3 40 loops
  let fits := x.on 0 (·.agrees q.M k (bitAt fl 0 == 1) q.counts sa) &&
    x.on 1 (·.agrees k q.N (bitAt fl 1 == 1) q.counts sb) && x.on 3 (·.agrees q.M q.N false q.counts q.strideC) &&
    (!q.addend || x.on 2 (·.agrees q.M q.N false q.counts q.strideC))
  ⟨t.slots [0, 1, 3] && (!q.addend || t.hasSlot 2), block && fits, true,
   x.refuse [(t.slotIndex 0, arrayTypes), (t.slotIndex 1, arrayTypes), (t.slotIndex 2, arrayTypes),
     (t.slotIndex 3, [q.out])]⟩

/-- The layers of a plan: those its tasks name, and those whose scale a received gradient carries (R145, R320; the
manual says a layer of the plan: the remote ones count as such). -/
def Plan.layerNumbers (pl : Plan) : List Nat :=
  ((pl.allTasks.map (fun x => x.2.2.layer)).filter (· != noLayer) ++
    (pl.allTasks.filter (fun x => x.2.2.op == 0x000D && x.2.2.transfer.mode == 2 && x.2.2.transfer.gradient)).map
      (fun x => x.2.2.transfer.gradLayer)).eraseDups

/-- The tensors of one use of a product-2 task and whether they agree (R156): the gradient and the activation, with the
activation's flag and the tie. -/
def Site.useAgrees (x : Site) (q : Product) (grad act m : Nat) (actT tie : Bool) (sg sx : List Nat) : Bool :=
  let t := x.t
  let n := t.par 8 4
  let k := t.par 12 4
  x.onIndex grad (·.agrees m (if tie then k else n) false q.counts sg) &&
    x.onIndex act (·.agrees m (if tie then n else k) actT q.counts sx)

/-- Op 0x0002 (R154 to R157). -/
def Site.product2 (x : Site) (s : State) : Verdict :=
  let t := x.t
  let q := t.product2
  let fl := t.par 2 1
  let which := t.par 0 1
  let uses := t.par 24 1
  let loops := t.par 25 1
  let small := fun n => decide (n < 2 ^ 31)
  let layers := x.pl.layerNumbers
  let entry := fun (i : Nat) => 80 + 16 * i
  let more := List.range (uses - 1)
  let m := t.par 4 4
  let n := t.par 8 4
  let k := t.par 12 4
  let data := which == 1
  let block := (which == 1 || which == 2) && decide (t.par 1 1 ≤ 4) && decide (fl < 16) &&
    decide (6 ≤ q.out ∧ q.out ≤ 9) && small m && small n && small k && decide (1 ≤ uses ∧ uses ≤ 8) &&
    (!data || uses == 1) && t.params.length == 80 + 16 * (uses - 1) && decide (t.par 26 1 ≤ if data then 0 else 1) &&
    t.par 27 1 == 0 && t.par 76 4 == 0 && loopsLegal t loops 28 && s.longSumOk t &&
    layers.contains (t.par 16 2) && (if q.addend then layers.contains (t.par 18 2) else t.par 18 2 == 0xFFFF) &&
    (if data then t.par 20 4 == noTensor else decide (t.par 20 4 < x.pl.groups.length)) &&
    more.all (fun i => small (t.par (entry i + 8) 4) && layers.contains (t.par (entry i + 12) 2) &&
      decide (t.par (entry i + 14) 1 < 4) && t.par (entry i + 15) 1 == 0 && x.inRange (t.par (entry i) 4) &&
      x.inRange (t.par (entry i + 4) 4))
  let sg := t.par3 40 loops
  let sx := t.par3 52 loops
  let aT := bitAt fl 0 == 1
  let bT := bitAt fl 1 == 1
  let tie := bitAt (t.par 26 1) 0 == 1
  let out := fun (u : Tensor) => if data then u.agrees m k false q.counts q.strideC else u.agrees k n false q.counts q.strideC
  let fits := (if data then
      x.on 0 (·.agrees m n false q.counts sg) && x.on 1 (·.agrees k n bT q.counts sx)
    else x.useAgrees q (t.slotIndex 0) (t.slotIndex 1) m aT tie sg sx) &&
    more.all (fun i => x.useAgrees q (t.par (entry i) 4) (t.par (entry i + 4) 4) (t.par (entry i + 8) 4)
      (bitAt (t.par (entry i + 14) 1) 1 == 1) (bitAt (t.par (entry i + 14) 1) 0 == 1) sg sx) &&
    x.on 3 out && (!q.addend || x.on 2 out)
  ⟨t.slots [0, 1, 3] && (!q.addend || t.hasSlot 2), block && fits, true,
   x.refuse ([(t.slotIndex 0, arrayTypes), (t.slotIndex 1, arrayTypes), (t.slotIndex 2, arrayTypes),
     (t.slotIndex 3, [q.out])] ++
     more.flatMap (fun i => [(t.par (entry i) 4, arrayTypes), (t.par (entry i + 4) 4, arrayTypes)]))⟩

/-- The kernel codes of R110: those of the table, and the backward forms of 0x04 to 0x08 and 0x0A. -/
def kernelCode (c : Nat) : Bool :=
  decide (1 ≤ c ∧ c ≤ 0x0B) || [0x84, 0x85, 0x86, 0x87, 0x88, 0x8A].contains c

/-- Op 0x0008 (R110). DESIGN CHOICE (log entry 68): a layered task of op 0x0008 or 0x0009 may have an output of type 0x04 or
0x05, for its block has no out_dtype for R134 to bind. -/
def Site.vector (x : Site) : Verdict :=
  let t := x.t
  let code := t.par 0 1
  let fl := t.par 1 1
  let kind := code % 0x80
  let norm := kind == 6 || kind == 7
  let n := ((x.ten 0).map (·.dim 0)).getD 0
  let gain := fun (u : Tensor) => u.rank == 1 && u.dim 0 == n
  ⟨t.slots [0, 3] && (bitAt fl 0 == 0 || t.hasSlot 1) && (!norm || t.hasSlot 1) && (kind != 7 || t.hasSlot 2),
   t.params.length == 16 && kernelCode code && decide (fl < 4) && t.par 2 2 == 0 && t.par 12 4 == 0 &&
     (!norm || (fl == 0 && x.on 1 gain)) && (kind != 7 || x.on 2 gain),
   true, []⟩

/-- Op 0x0009 (R111). -/
def Site.gather (x : Site) : Verdict :=
  let t := x.t
  let mode := t.par 0 1
  let table := if mode = 1 then 0 else 3
  let rows := if mode = 1 then 3 else 0
  let c := ((x.ten 1).map (·.dim 0)).getD 0
  let w := ((x.ten table).map (·.dim 0)).getD 0
  ⟨t.slots [0, 1, 3],
   t.params.length == 16 && decide (1 ≤ mode ∧ mode ≤ 3) && zeroAt t.params 1 3 && zeroAt t.params 8 8 &&
     x.on 1 (·.rank == 1) && x.on table (·.rank == 2) && x.on rows (fun u => u.rank == 2 && u.dim 0 == w && u.dim 1 == c),
   true, x.refuse [(t.slotIndex 1, [0x13, 0x14])]⟩

/-- Op 0x0012 (R90): no block, no tensors, no queues; check 13 also holds its params_offset at zero. -/
def Site.join (x : Site) : Verdict :=
  let t := x.t
  ⟨t.slots [] [0, 1, 2, 3] && t.queueIn == noQueue && t.queueOut == noQueue, t.params.isEmpty, true, []⟩

end Sys2Proof.Machine
end

