-- ==== Sys2Proof/Machine/ChecksAttention.lean ====
section
/-! DEFINITION. What the loader asks of attention tasks (R174, R178, R181 to R183, R186, R190). -/

namespace Sys2Proof.Machine

/-- The extents of a tensor are those of the list, and 1 above it. -/
def Tensor.extents (t : Tensor) (l : List Nat) : Bool := (List.range 6).all (fun k => t.dim k == (l[k]?).getD 1)

/-- The tensor of index `i` has these extents; an index out of range fails. -/
def Site.named (x : Site) (i : Nat) (l : List Nat) : Bool := ((x.g.tensor i).map (·.extents l)).getD false

/-- Head groups G (R183). -/
def Attn.groups (a : Attn) : Nat := ceilDiv a.heads a.hc

/-- The context-plan range of a paged task. -/
def Plan.attnRange (pl : Plan) (a : Attn) : Option CtxRange := (pl.rangeOf a.ctxFirst).map (·.1)

/-- The keys that a task's mask covers: n_k, or the largest max_len of the range of a paged task (R178, R184). -/
def Plan.attnKeys (pl : Plan) (a : Attn) : Nat :=
  if a.paged then ((pl.attnRange a).map (·.maxLen)).getD 0 else a.nk

/-- The mask tensor's rank, its extent and its header, read where it lies (R178). -/
def State.maskOk (s : State) (x : Site) (a : Attn) : Bool := match x.g.tensor a.mask with
  | none => a.mask == noTensor
  | some t =>
    let f := s.maskField x.p t
    let nq := a.queryBlocks
    let nk := ceilDiv (x.pl.attnKeys a) 128
    let n := t.dim 0
    t.rank == 1 && decide (64 ≤ n) && f 0 4 == nq && f 4 4 == nk && (List.range 7).all (fun k => f (36 + 4 * k) 4 == 0) &&
      [(f 8 8, nq * 8 * ceilDiv nk 32), (f 16 8, 4 * nq), (f 24 8, 2048 * f 32 4)].all (fun r =>
        r.1 % 64 == 0 && decide (r.1 + r.2 ≤ n))

/-- Two append tasks of one step name one KV layer with overlapping context sets (R182). -/
def Plan.appendClash (pl : Plan) (g i : Nat) (a : Attn) : Bool :=
  pl.allTasks.any (fun y =>
    let b := y.2.2.attn
    !(y.1 == g && y.2.1 == i) && y.2.2.op == 0x0003 && b.append && b.kvLayer == a.kvLayer &&
      overlaps a.ctxFirst a.batch b.ctxFirst b.batch)

/-- The fields that both attention blocks share (R181, R186, R190). -/
def State.attnCommon (s : State) (x : Site) (a : Attn) : Bool :=
  let t := x.t
  t.params.length == 64 && decide (1 ≤ t.rung) && decide (1 ≤ a.heads ∧ a.heads ≤ 512) && decide (1 ≤ a.kvHeads) &&
    a.heads % a.kvHeads == 0 && decide (a.kvHeads ≤ a.heads) && decide (32 ≤ a.d ∧ a.d ≤ 256) && a.d % 32 == 0 &&
    decide (1 ≤ a.hc ∧ a.hc ≤ 8) && decide (a.flags < 32) && decide (a.nq ≤ 2 ^ 20 ∧ a.nk ≤ 2 ^ 20) &&
    decide (a.budget ≤ 8192) && decide (1 ≤ a.batch ∧ a.batch ≤ 4096) &&
    (if a.paged || a.lengthMask then decide (a.ctxFirst + a.batch ≤ 4096) else a.ctxFirst == 0xFFFF) &&
    decide (6 ≤ t.par 38 1 ∧ t.par 38 1 ≤ 9) && s.maskOk x a

/-- The further rules of a paged task, or of one that is not (R182). -/
def State.pagedOk (s : State) (x : Site) (a : Attn) : Bool :=
  if a.paged then match x.pl.attnRange a with
    | none => false
    | some r => r.kind == 2 && decide (a.ctxFirst + a.batch ≤ r.first + r.count) && a.nk == 0 && a.nq == r.aStep &&
        decide (a.kvLayer < x.pl.kvLayers.length) && x.t.cores.all (fun c => s.fitted.dieOf c == r.die) &&
        !(a.append && x.pl.appendClash x.g.number x.i a)
  else !a.append && a.kvLayer == 0xFFFF

/-- Op 0x0003 (R181 to R183). -/
def Site.attention (x : Site) (s : State) : Verdict :=
  let t := x.t
  let a := t.attn
  let out := t.par 38 1
  let q := [a.d, a.nq, a.heads, a.batch]
  let k := if a.paged then [a.d, a.nq, a.kvHeads, a.batch] else [a.d, a.nk, a.kvHeads, a.batch]
  let reads := a.paged && !a.append
  ⟨t.slots (if reads then [0, 3] else [0, 1, 2, 3]) (if reads then [1, 2] else []),
   s.attnCommon x a && s.pagedOk x a && zeroAt t.params 39 25 && decide (0 < t.coreCount) &&
     t.coreCount % a.groups == 0 && (if a.writeLse then x.named a.lse [a.nq, a.heads, a.batch] else a.lse == noTensor) &&
     x.on 0 (·.extents q) && x.on 1 (·.extents k) && x.on 2 (·.extents k) && x.on 3 (·.extents q),
   true, x.refuse [(a.mask, [0x11]), (a.lse, [0x09]), (t.slotIndex 3, [out])]⟩

/-- Op 0x0004 (R186). -/
def Site.attentionBack (x : Site) (s : State) : Verdict :=
  let t := x.t
  let a := t.attn
  let out := t.par 38 1
  let q := [a.d, a.nq, a.heads, a.batch]
  let k := [a.d, a.nk, a.kvHeads, a.batch]
  ⟨t.slots [0, 1, 2, 3],
   s.attnCommon x a && !a.paged && !a.append && !a.writeLse && t.coreCount == a.groups && a.hc % a.group == 0 &&
     x.pl.layerNumbers.contains a.srcLayer && t.par 39 1 == 0 && t.par 60 4 == 0 &&
     x.named a.lse [a.nq, a.heads, a.batch] && x.named a.o q && x.named a.dO q && x.named a.dK k && x.named a.dV k &&
     x.named a.scratch [a.d + 16, a.nq, a.heads, a.batch] && x.on 0 (·.extents q) && x.on 1 (·.extents k) &&
     x.on 2 (·.extents k) && x.on 3 (·.extents q),
   true,
   x.refuse [(a.mask, [0x11]), (a.lse, [0x09]), (a.scratch, [0x09]), (t.slotIndex 3, [out]), (a.dK, [out]), (a.dV, [out])]⟩

end Sys2Proof.Machine
end

