-- ==== Sys2Proof/Machine/ChecksImages.lean ====
section
/-! DEFINITION. What the loader asks of convolutions with their halos and of the image operators (R227 to R229, R236,
R239, R243). -/

namespace Sys2Proof.Machine

/-! ### Convolution (R227 to R229) -/

/-- The tensors of a convolution in their roles, by direction (R227). -/
def Site.convTensors (x : Site) (v : Conv) : Option ConvTensors :=
  match x.ten 0, x.ten 1, x.ten 3 with
  | some a, some b, some o => some (if v.dir = 1 then ⟨a, b, o⟩ else if v.dir = 2 then ⟨o, b, a⟩ else ⟨b, o, a⟩)
  | _, _, _ => none

/-- Channels of an activation tensor. -/
def Conv.channels (v : Conv) (t : Tensor) : Nat := t.dim (if v.spatial = 2 then 2 else 3)

/-- The task's extents are those of R227 and R228. -/
def Conv.fits (v : Conv) (z : ConvTensors) : Bool :=
  let i := v.extents z.x
  let o := (List.range 3).map (fun d =>
    convOut (at3 i d) (at3 v.before d) (at3 v.after d) (at3 v.dil d) (at3 v.kernel d) (at3 v.stride d))
  let cut := fun (l : List Nat) => if v.spatial = 2 then l.take 2 else l
  let n := v.samples z.x
  v.channels z.x % v.groups == 0 && v.channels z.y % v.groups == 0 &&
    z.x.extents (cut i ++ [v.channels z.x, n]) && z.y.extents (cut o ++ [v.channels z.y, n]) &&
    z.f.extents ([v.channels z.y / v.groups] ++ cut v.kernel ++ [v.channels z.x / v.groups, v.groups])

/-- The block of a convolution that R234 reduces counts as that of a 1 × 1 kernel: the loader decides. -/
def Conv.counted (v : Conv) (z : ConvTensors) : Conv := v.reduced (v.shortcut (v.extents z.x) (v.extents z.y))

/-- The offsets of the halo fields (R229). -/
def haloFields : List Nat := [60, 62, 64, 66]

/-- The halo fields of a block are legal (R229): each a queue-table index or 0xFFFF, in use only with stripes, and not in
direction 2 with a vertical stride. -/
def Site.haloFieldsOk (x : Site) : Bool :=
  let v := x.t.conv
  haloFields.all (fun o => x.t.par o 2 == noQueue ||
    ((x.pl.queue (x.t.par o 2)).isSome && v.stripeRows != 0 && (v.dir != 2 || at3 v.stride 1 == 1)))

/-- The reduction length of R131 (R230). -/
def Conv.lRed (v : Conv) (z : ConvTensors) : Nat := ((v.counted z).mkn z).2.1

/-- The long-sum test of R131 for a convolution (R230). -/
def Site.convLongSum (x : Site) (s : State) : Bool :=
  let v := x.t.conv
  v.longSum || ((x.convTensors v).map (fun z => decide (v.lRed z ≤ s.get Reg.numKLong_kLong))).getD true

/-- The rows of one output row's kernel fit the free line buffer (R229). -/
def Site.lineFits (x : Site) (v : Conv) (z : ConvTensors) : Bool :=
  let e := ((x.ten 0).map (fun t => t.type.bytes32)).getD 0
  x.t.cores.all (fun c => decide (at3 v.kernel 1 * at3 v.kernel 2 * z.x.dim 0 * e ≤ 32 * x.pl.lineBufferFree c))

/-- Op 0x0005 (R227 to R230). -/
def Site.conv (x : Site) (s : State) : Verdict :=
  let t := x.t
  let v := t.conv
  let out := t.par 4 1
  let flat := fun (l : List Nat) => v.spatial == 3 || at3 l 2 == 1
  let layers := x.pl.layerNumbers
  let block := t.params.length == 96 && decide (1 ≤ v.dir ∧ v.dir ≤ 3) && decide (2 ≤ v.spatial ∧ v.spatial ≤ 3) &&
    decide (v.form ≤ 4) && decide (v.flags < 8) && decide (4 ≤ out ∧ out ≤ 9) && layerOut t out &&
    v.kernel.all (fun k => decide (1 ≤ k ∧ k ≤ 31)) && flat v.kernel && v.stride.all (fun k => decide (1 ≤ k ∧ k ≤ 8)) &&
    flat v.stride && t.par 11 1 == 0 && v.dil.all (fun k => decide (1 ≤ k ∧ k ≤ 2 ^ 20)) && flat v.dil &&
    decide (1 ≤ v.groups ∧ v.groups ≤ 65536) && (if v.dir = 3 then decide (v.group < x.pl.groups.length) else v.group == noTensor) &&
    (if v.dir = 1 then v.srcLayer == 0xFFFF else layers.contains v.srcLayer) &&
    (if v.dir ≠ 1 ∧ v.addend then layers.contains v.addendLayer else v.addendLayer == 0xFFFF) &&
    decide (v.stripeIndex < v.stripeCount ∧ v.stripeCount ≤ 64) && (v.stripeRows != 0 || v.stripeCount == 1) &&
    t.par 58 2 == 0 && zeroAt t.params 68 28
  let stripes := v.stripeRows == 0 || (v.dir != 3 && t.coreCount == 1)
  let fits := match x.convTensors v with
    | none => true
    | some z => v.fits z && x.lineFits v z && (!v.addend || x.on 2 (fun a =>
        if v.dir = 1 then a.extents z.y.dims || (a.rank == 1 && a.dim 0 == v.channels z.y)
        else if v.dir = 2 then a.extents z.x.dims else a.extents z.f.dims))
  ⟨t.slots [0, 1, 3] && (!v.addend || t.hasSlot 2),
   block && stripes && x.haloFieldsOk && (!v.vector || v.groups != 1) && fits && x.convLongSum s, true,
   x.refuse [(t.slotIndex 0, arrayTypes), (t.slotIndex 1, arrayTypes), (t.slotIndex 2, arrayTypes), (t.slotIndex 3, [out])]⟩

/-! ### Halos (R236) -/

/-- Queue `q` of a plan carries the halo that stripe task `c` reads on `side` (0 above, 1 below) from its direct
predecessor `w` (R236). -/
def Plan.haloPair (pl : Plan) (q side : Nat) (c w : Task) (slot0 : Option Tensor) : Bool :=
  let vc := c.conv
  let vw := w.conv
  let rows := if side = 0 then vc.haloRows.1 else vc.haloRows.2
  match pl.queue q, slot0 with
  | some e, some t =>
    let bytes := rows * t.rowBytes * ((List.range (t.rank - 2)).map (fun k => t.dim (k + 2))).foldl (· * ·) 1
    (e.place == 1 || e.place == 2) && e.consumer == c.coreFirst && e.producer == w.coreFirst && c.coreCount == 1 &&
      w.coreCount == 1 && w.op == 0x0005 && vw.stripeRows != 0 && w.par (if side = 0 then 66 else 64) 2 == q &&
      (if side = 0 then vw.stripeIndex + 1 == vc.stripeIndex else vw.stripeIndex == vc.stripeIndex + 1) &&
      e.writes == ceilDiv bytes e.entryBytes && e.reads == e.writes && w.slotIndex 3 == c.slotIndex 0
  | _, _ => false

/-- The halo fields of a task are legal and its halo queues as R236 requires: each one it reads is written by a direct
predecessor, each one it writes is read by a direct successor. -/
def Site.halosOk (x : Site) : Bool :=
  let t := x.t
  if t.op ≠ 0x0005 then true
  else if !x.haloFieldsOk then false
  else
    [0, 1].all (fun side =>
      let q := t.par (60 + 2 * side) 2
      q == 0xFFFF || t.preds.any (fun j => ((x.g.tasks[j]?).map (fun w => x.pl.haloPair q side t w (x.ten 0))).getD false)) &&
    [0, 1].all (fun side =>
      let q := t.par (66 - 2 * side) 2
      q == 0xFFFF || x.g.tasks.any (fun c => c.op == 0x0005 && c.conv.stripeRows != 0 && c.preds.contains x.i &&
        c.par (60 + 2 * side) 2 == q && x.pl.haloPair q side c t (x.g.slotTensor c 0)))

/-! ### Image operators -/

/-- Op 0x0006 (R239). -/
def Site.crop (x : Site) : Verdict :=
  let t := x.t
  let v := t.crop
  let out := t.par 17 1
  let c := ((x.ten 0).map (·.dim 2)).getD 0
  ⟨t.slots [0, 1, 2, 3],
   t.params.length == 32 && decide (1 ≤ v.cw ∧ v.cw ≤ 1024) && decide (1 ≤ v.ch ∧ v.ch ≤ 1024) &&
     decide (v.boxes ≤ 65536) && decide (v.spanLimit ≤ 8192) && decide (t.par 16 1 < 2) && decide (7 ≤ out ∧ out ≤ 9) &&
     zeroAt t.params 18 14 && x.on 0 (fun i => i.extents (i.dims.take 4)) && x.on 1 (·.extents [4, v.boxes]) &&
     x.on 2 (·.extents [v.boxes]) && x.on 3 (·.extents [v.cw, v.ch, c, v.boxes]),
   true,
   x.refuse [(t.slotIndex 0, [0x07, 0x08, 0x09, 0x11, 0x12]), (t.slotIndex 1, [0x09]), (t.slotIndex 2, [0x14]),
     (t.slotIndex 3, [out])]⟩

/-- The codes of R13 without the MX codes. -/
def plainTypes : List Nat := [0x04, 0x05, 0x07, 0x08, 0x09, 0x10, 0x11, 0x12, 0x13, 0x14]

/-- Op 0x0007 (R243). -/
def Site.argmax (x : Site) : Verdict :=
  let t := x.t
  let axis := t.par 0 1
  let value := bitAt (t.par 1 1) 0 == 1
  let out := t.par 2 1
  let less := ((x.ten 0).map (fun i => i.dims.eraseIdx axis)).getD []
  ⟨t.slots [0, 3] && (!value || t.hasSlot 2),
   t.params.length == 16 && decide (t.par 1 1 < 2) && zeroAt t.params 3 13 && (!value || layerOut t out) &&
     x.on 0 (fun i => decide (1 ≤ axis ∧ axis < i.rank) && (out == i.dtype || out == 0x09)) && x.on 3 (·.extents less) &&
     (!value || x.on 2 (·.extents less)),
   true,
   x.refuse ([(t.slotIndex 0, plainTypes), (t.slotIndex 3, [0x14])] ++ if value then [(t.slotIndex 2, [out])] else [])⟩

end Sys2Proof.Machine
end

