-- ==== Sys2Proof/Machine/ChecksMove.lean ====
section
/-! DEFINITION. What the loader asks of the tasks that move data: dispatch and combine (R206, R216 to R218), the ledger's
transfers (R251), fabric transfers and reductions (R318, R320 to R322, R326), updates (R295), takes (R350 to R352) and
outputs (R443). -/

namespace Sys2Proof.Machine

/-- A rank-1 tensor of type 0x11 of exactly `n` bytes (R212). -/
def Tensor.region (t : Tensor) (n : Nat) : Bool := t.rank == 1 && t.dtype == 0x11 && t.dim 0 == n

/-- The tensor has this type and these extents. -/
def Tensor.typed (t : Tensor) (dtype : Nat) (l : List Nat) : Bool := t.dtype == dtype && t.extents l

/-- The named tensor exists and passes the test. -/
def Site.has (x : Site) (i : Nat) (f : Tensor → Bool) : Bool := ((x.g.tensor i).map f).getD false

/-! ### Dispatch and combine -/

/-- What R206 and R216 fix for every mode of both ops: rung 3, 1 to 8 cores, and the fields index, set_count and
grad_src_layer. -/
def Site.exchangeCommon (x : Site) : Bool :=
  let t := x.t
  let mode := t.mode
  let variant := bitAt mode 1 == 1
  let sets := adapterSets (x.pl.section 6)
  let mine := (sets.drop (t.par 2 2)).take (t.par 4 2)
  t.rung == 3 && decide (1 ≤ t.coreCount ∧ t.coreCount ≤ 8) && [0x01, 0x02, 0x81, 0x82].contains mode &&
    decide (t.par 8 4 ≤ 2 ^ 24) &&
    (if mode < 0x80 then t.par 6 2 == 0xFFFF else x.pl.layerNumbers.contains (t.par 6 2)) &&
    (if variant then decide (1 ≤ t.par 4 2 ∧ t.par 4 2 ≤ 1024 ∧ t.par 2 2 + t.par 4 2 ≤ sets.length) &&
        mine.all (fun a => mine.all (fun b => a.rank == b.rank && a.capacity == b.capacity))
      else t.par 4 2 == 0 && decide (t.par 2 2 < (expertLayers (x.pl.section 5)).length))

/-- The expert layer a task names. -/
def Site.expertLayer (x : Site) : ExpertLayer :=
  ((expertLayers (x.pl.section 5))[x.t.par 2 2]?).getD (ExpertLayer.ofBytes [])

/-- Bytes of a send buffer (`tallies`) or a return buffer of a layer (R212). -/
def ExpertLayer.bufferBytes (l : ExpertLayer) (sec : List Byte) (tallies : Bool) : Nat :=
  let ps := l.placed sec
  ((hostsOf ps).map (fun h => chunkBytes l.rowBytes ps h tallies)).sum

/-- Rows of a variant buffer: n_s × c (R217). -/
def Site.variantRows (x : Site) : Nat :=
  let mine := ((adapterSets (x.pl.section 6)).drop (x.t.par 2 2)).take (x.t.par 4 2)
  mine.length * ((mine.head?).map AdapterSet.capacity).getD 0

/-- Slots that a task of op 0x000A or 0x000B must name and must leave absent (R217). -/
def Site.exchangeSlots (x : Site) : List Nat × List Nat :=
  let mode := x.t.mode
  if x.t.op = 0x000A then
    if mode = 0x01 then if x.expertLayer.biased then ([0, 1, 2, 3], []) else ([0, 1, 3], [2])
    else if mode = 0x02 then ([0, 1, 3], [2]) else if mode = 0x81 then ([0, 1, 2, 3], []) else ([0, 3], [1, 2])
  else if mode = 0x01 then ([0, 3], [2]) else if mode = 0x82 then ([0, 3], [1, 2]) else ([0, 1, 3], [2])

/-- Op 0x000A (R206, R216 to R218). -/
def Site.dispatch (x : Site) : Verdict :=
  let t := x.t
  let mode := t.mode
  let l := x.expertLayer
  let sec := x.pl.section 5
  let T := t.par 8 4
  let stats := bitAt (t.par 1 1) 0 == 1
  let aux := t.par 16 4
  let out := t.par 22 1
  let d0 := ((x.ten 0).map (·.dim 0)).getD 0
  let fields := t.params.length == 64 && decide (t.par 1 1 ≤ if mode = 0x01 then 1 else 0) && zeroAt t.params 23 41 &&
    (if mode = 0x81 then x.pl.layerNumbers.contains (t.par 20 2) else t.par 20 2 == 0xFFFF) &&
    (if mode < 0x80 then out == 0 else decide (7 ≤ out ∧ out ≤ 9))
  let logits := fun (z : Tensor) => (z.dtype == 0x07 || z.dtype == 0x09) && z.extents [l.experts, T]
  let shapes := if mode = 0x01 then
      x.on 0 (·.typed l.dtype [l.d, T]) && x.on 1 logits && (!l.biased || x.on 2 (·.typed 0x09 [l.experts])) &&
        x.on 3 (·.region (l.bufferBytes sec true)) &&
        (if stats then x.has aux (·.typed 0x14 [2, l.experts, t.coreCount]) else aux == noTensor)
    else if mode = 0x02 then
      x.on 0 (·.extents [d0, T]) && x.on 1 (fun v => (v.dtype == 0x12 || v.dtype == 0x14) && v.extents [T]) &&
        x.on 3 (·.extents [d0, x.variantRows]) && x.has aux (·.typed 0x11 [T])
    else if mode = 0x81 then
      x.on 0 (·.region (l.bufferBytes sec false)) && x.on 1 logits && x.on 2 (·.typed 0x09 [l.k, T]) &&
        x.on 3 (·.typed out [l.d, T]) && x.has aux (·.extents [l.experts, T])
    else x.on 0 (·.extents [d0, x.variantRows]) && x.on 3 (·.typed out [d0, T]) && aux == noTensor
  let record := x.has (t.par 12 4) (·.typed 0x14 [if bitAt mode 1 = 1 then 2 else 2 * l.k, T])
  ⟨t.slots x.exchangeSlots.1 x.exchangeSlots.2, x.exchangeCommon && fields && shapes && record, true, []⟩

/-- Op 0x000B (R206, R216 to R218). -/
def Site.combine (x : Site) : Verdict :=
  let t := x.t
  let mode := t.mode
  let l := x.expertLayer
  let sec := x.pl.section 5
  let T := t.par 8 4
  let dgate := t.par 16 4
  let out := t.par 20 1
  let dOut := ((x.ten 0).map (·.dim 0)).getD 0
  let fields := t.params.length == 32 && t.par 1 1 == 0 && zeroAt t.params 21 11 && decide (7 ≤ out ∧ out ≤ 9) &&
    (if mode = 0x81 then x.has dgate (·.typed 0x09 [l.k, T]) else dgate == noTensor)
  let shapes := if mode = 0x01 then
      x.on 0 (·.region (l.bufferBytes sec false)) && x.on 1 (·.extents [l.d, T]) && x.on 3 (·.typed out [l.d, T])
    else if mode = 0x02 then
      x.on 0 (·.extents [dOut, x.variantRows]) && x.on 1 (·.extents [dOut, T]) && x.on 3 (·.typed out [dOut, T])
    else if mode = 0x81 then
      x.on 0 (·.extents [l.d, T]) && x.on 1 (·.region (l.bufferBytes sec false)) &&
        x.on 3 (·.region (l.bufferBytes sec true))
    else x.on 0 (·.extents [dOut, T]) && x.on 3 (·.typed out [dOut, x.variantRows])
  let record := x.has (t.par 12 4) (·.typed 0x14 [if bitAt mode 1 = 1 then 2 else 2 * l.k, T])
  ⟨t.slots x.exchangeSlots.1 x.exchangeSlots.2, x.exchangeCommon && fields && shapes && record, true, []⟩

/-! ### The ledger's transfers (R251) -/

/-- A tensor stored raw: policy 0 or 2, not Clear. -/
def Tensor.raw (t : Tensor) : Bool := (t.policy == 0 || t.policy == 2) && !t.clear
/-- A tensor stored as Grain or Clear. -/
def Tensor.coded (t : Tensor) : Bool := t.grain || t.clear

/-- The two descriptors of a transfer combine as the table of R251 states for the mode. -/
def movePair (mode : Nat) (same : Bool) (a b : Tensor) : Bool :=
  let near := fun (t : Tensor) => t.space == 0 || t.space == 1
  let agree := a.dtype == b.dtype && a.dims == b.dims
  let stored := agree && a.grainRate == b.grainRate && a.clear == b.clear
  let homes := [a, b].all (fun t => !(t.space == 1 || t.space == 3) || !t.coded)
  homes && match mode with
    | 1 => near a && b.space == 2 && stored
    | 2 => a.space == 2 && near b && stored
    | 3 => a.raw && b.coded && agree
    | 4 => a.coded && b.raw && agree
    | 5 => a.clear && same
    | _ => false

/-- Op 0x000C (R251). -/
def Site.move (x : Site) : Verdict :=
  let t := x.t
  let mode := t.par 0 1
  let first := t.par 4 4
  let count := t.par 8 4
  let pair := match x.ten 0, x.ten 3 with
    | some a, some b => movePair mode (t.slotIndex 0 == t.slotIndex 3) a b && decide (first + count ≤ a.rawBlocks)
    | _, _ => true
  ⟨t.slots [0, 3] [1, 2],
   t.params.length == 16 && decide (1 ≤ mode ∧ mode ≤ 5) && zeroAt t.params 1 3 && zeroAt t.params 12 4 &&
     decide (1 ≤ count ∧ count ≤ 2 ^ 24) && pair, true, []⟩

/-! ### Fabric transfers (R318, R320 to R322) -/

/-- The `n` slots from `first` exist, have this role and this peer, and each carries its part of `u` 64-byte units at
r_slot (R306, R318). -/
def State.slotRun (s : State) (slots : List FabSlot) (first n role peer u : Nat) (tagged : Bool) : Bool :=
  (List.range n).all (fun i => match slots[first + i]? with
    | none => false
    | some e => e.role == role && e.peer == peer &&
        decide (wireBytes ((partUnits u n i).2 - (partUnits u n i).1) tagged ≤ e.capacity (s.slotRate e.port)))

/-- Bytes of the chunk that a transfer moves under R212 and R321: at a source the chunk of the peer host, at a host its own;
`own` is the module's position. -/
def Transfer.chunkLength (z : Transfer) (cap : List Byte) (own : Nat) : Option Nat :=
  ((expertLayers cap)[z.expertLayer]?).map (fun l =>
    let host := if z.mode == 3 then own else if (z.placement == 1) == (z.mode == 1) then z.peer else own
    chunkBytes l.rowBytes (l.placed cap) host (z.placement == 1))

/-- Of a Grain tensor, the offset and the length are multiples of its segment (R322). -/
def Tensor.segmented (t : Tensor) (off n : Nat) : Bool :=
  !t.grain || (off % grainSegment t.elemBytes t.grainRate == 0 && n % grainSegment t.elemBytes t.grainRate == 0)

/-- A range of a tensor's stored bytes; a Grain tensor's lies on segments (R322). -/
def Tensor.holds (t : Tensor) (off n : Nat) : Bool := decide (off + n ≤ t.stored) && t.segmented off n

/-- Op 0x000D (R320 to R323). -/
def Site.transfer (x : Site) (s : State) : Verdict :=
  let t := x.t
  let z := t.transfer
  let sec := x.pl.section 2
  let cap := x.pl.section 5
  let own := s.position
  let near := fun (u : Tensor) => u.space == 0 || u.space == 1
  let ring := if z.landing = 0xFFFF then none else (fabLandings sec)[z.landing]?
  let reads := z.mode != 2
  let writes := z.mode != 1
  let fields := t.params.length == 64 && decide (1 ≤ z.mode ∧ z.mode ≤ 3) && decide (z.placement ≤ 2) &&
    decide (z.flags < 2) && (if z.mode = 3 then z.ports == 0 && z.peer == own && z.slotFirst == 0xFFFF && z.landing == 0xFFFF
      else decide (1 ≤ z.ports ∧ z.ports ≤ 8)) && (reads || z.src == 0) && (writes || z.dst == 0) && z.length % 64 == 0 &&
    t.par 34 2 == 0 && zeroAt t.params 48 16 &&
    (z.landing == 0xFFFF || (ring.map (fun (r : Landing) => r.role == (if z.mode = 2 then 1 else 2) && r.peer == z.peer)).getD false) &&
    (if z.mode = 2 ∧ z.landing ≠ 0xFFFF then decide (z.consumer < x.g.tasks.length) else z.consumer == 0xFFFF) &&
    (if z.gradient then (z.mode != 1 || x.pl.layerNumbers.contains z.gradLayer) && z.gradLayer != 0xFFFF
      else z.gradLayer == 0xFFFF) &&
    (if z.placement = 0 then z.expertLayer == 0xFFFF else z.chunkLength cap own == some z.length)
  let slots := z.mode == 3 || s.slotRun (fabSlots sec) z.slotFirst z.ports z.mode z.peer z.units (s.part x.p).fabricKey.isSome
  let from_ := !reads || x.on 0 (fun u => near u && (z.placement != 0 || u.holds z.src z.length))
  let dst := !writes || match ring with
    | some r => decide (z.dst + z.length ≤ r.buffer) &&
        (((x.pl.graph r.graph).bind (fun g => g.tensor r.tensor)).map (fun u => z.placement != 0 ||
          (u.segmented z.dst z.length && u.segmented 0 r.buffer))).getD true
    | none => x.on 3 (fun u => near u && (z.placement != 0 || u.holds z.dst z.length))
  let same := z.mode != 3 || (match x.ten 0, x.ten 3 with
    | some a, some b => !(a.grain || b.grain) || (a.grain && b.grain && a.dtype == b.dtype && a.grainRate == b.grainRate)
    | _, _ => true)
  ⟨t.slots ((if reads then [0] else []) ++ if writes && ring.isNone then [3] else []), fields && slots && from_ && dst && same,
   true, []⟩

/-! ### Reductions (R326) -/

/-- Floating-point codes of R13. -/
def floatTypes : List Nat := arrayTypes

/-- The module's place in a stripe: its root, or a child of the parent it names (R326). -/
def Stripe.placed (e : Stripe) (own : Nat) : Bool := if e.isRoot then e.root == own else e.root != own

/-- Op 0x000E (R318, R325, R326). -/
def Site.reduction (x : Site) (s : State) : Verdict :=
  let t := x.t
  let z := t.reduce
  let sec := x.pl.section 2
  let ss := z.stripesOf sec
  let inType := ((x.ten 0).map (·.dtype)).getD 0
  let near := fun (u : Tensor) => u.space == 0 || u.space == 1
  let types := if z.op = 1 then (z.wire == 0x07 || z.wire == 0x09) && [0x05, 0x07, 0x09].contains z.out && floatTypes.contains inType
    else if z.op = 2 then z.wire == inType && z.out == inType else z.wire == inType && (z.out == 0x11 || z.out == 0x14)
  let scaled := bitAt z.flags 1 == 1 || bitAt z.flags 2 == 1
  let fields := t.params.length == 64 && decide (1 ≤ z.op ∧ z.op ≤ 3) && decide (z.flags < 16) && types &&
    decide (z.group < (fabHeader sec).groupCount) &&
    (if scaled then x.pl.layerNumbers.contains z.gradLayer else z.gradLayer == 0xFFFF) && decide (z.touchKind ≤ 2) &&
    (if z.touchKind = 1 then decide (z.touchIndex < (expertLayers (x.pl.section 5)).length) &&
        (((expertLayers (x.pl.section 5))[z.touchIndex]?).map (fun l =>
          (expertsAt (l.placed (x.pl.section 5)) s.position).any (fun e => e.loc == z.touchLocal))).getD false
      else z.touchLocal == 0xFFFF) &&
    (z.touchKind != 2 || decide (z.touchIndex < (adapterSets (x.pl.section 6)).length)) &&
    decide (1 ≤ z.ports ∧ z.ports ≤ 8) && zeroAt t.params 26 38
  let legs := z.legs ss
  let r : RedTask := ⟨x.g.number, x.i, t, z, ss⟩
  let slots := z.slotCount == z.ports * legs.length && legs.all (fun l =>
    let up := l.kind == .upIn || l.kind == .upOut
    s.slotRun (fabSlots sec) l.first z.ports (if l.kind = .upOut ∨ l.kind = .downOut then 1 else 2) l.peer
      (r.units l.k (if up then z.wireType else z.outType)) (s.part x.p).fabricKey.isSome)
  let data := x.on 0 (fun u => near u && !u.grain && decide (z.elements ≤ u.count)) &&
    x.on 3 (fun u => near u && !u.grain && decide (z.elements ≤ u.count))
  ⟨t.slots [0, 3], fields && ss.all (·.placed s.position) && slots && data, true, x.refuse [(t.slotIndex 3, [z.out])]⟩

/-! ### Updates (R295) -/

/-- The weight tensor of a group. -/
def Plan.groupWeight (pl : Plan) (e : GroupEntry) : Option Tensor := (pl.graph e.graph).bind (fun g => g.tensor e.weight)

/-- The update tasks of a group cover every element exactly once (R295). -/
def coversOnce (ranges : List (Nat × Nat)) (n : Nat) : Bool :=
  (sortBy Prod.fst (ranges.filter (fun r => r.2 != 0))).foldl (fun (at_ : Option Nat) r =>
    at_.bind (fun a => if a = r.1 then some (a + r.2) else none)) (some 0) == some n

/-- Op 0x000F (R295). -/
def Site.update (x : Site) : Verdict :=
  let t := x.t
  let first := t.par 8 8
  let count := t.par 16 8
  let ok := match x.pl.groups[t.group]? with
    | none => false
    | some e => match x.pl.groupWeight e with
      | none => true
      | some w =>
        let n := w.count
        let a := if e.touchMode = 1 then lcm 2048 (w.dim 0) else 2048
        let all := x.pl.updateTasks t.group
        first % a == 0 && (count % a == 0 || first + count == n) && decide (first + count ≤ n) &&
          (e.rule != 4 || (all.length == 1 && first == 0 && count == n)) &&
          (e.frozen || coversOnce (all.map (fun y => (y.2.2.par 8 8, y.2.2.par 16 8))) n)
  ⟨t.slots [] [0, 1, 2, 3], t.params.length == 32 && t.par 4 4 == 0 && zeroAt t.params 24 8 && decide (1 ≤ count) && ok,
   true, []⟩

/-! ### Takes (R350 to R352) -/

/-- The fields of a take's block without the tensor indices (R351). -/
def takeFields (b : List Byte) : List Byte := slice b 0 24 ++ slice b 44 20

/-- Op 0x0010 (R350 to R352). -/
def Site.take (x : Site) (s : State) : Verdict :=
  let t := x.t
  let k := TakePar.ofBytes t.params
  let range := fun (lo n hi : Nat) => decide (lo ≤ n ∧ n ≤ hi)
  let kinds := if k.text then
      k.outType == 0 && k.width == 0 && k.height == 0 && k.frames == 0 && range 1 k.seqLen (2 ^ 20) && decide (k.flags < 4)
    else k.kind == 1 && range 7 k.outType 9 && range 1 k.width 8192 && range 1 k.height 8192 && range 1 k.frames 256 &&
      k.seqLen == 0 && k.flags == 0 && k.tokenMask == noTensor
  let ctx := k.ctxFirst == 0xFFFF || (k.text && k.training && ((x.pl.rangeOf k.ctxFirst).map (fun r =>
    r.1.kind == 1 && decide (k.ctxFirst + k.rows ≤ r.1.first + r.1.count))).getD false)
  let fields := t.params.length == 64 && range 1 k.cls 2 && decide (k.unit < 2) && range 1 k.rows 4096 &&
    (if k.training then decide (k.reserve ≤ 64) else k.reserve == 0) && range 2 k.depth 16 && t.par 15 1 == 0 &&
    t.par 46 2 == 0 && zeroAt t.params 56 8 && kinds && ctx
  let others := x.pl.allTasks.filter (fun y => !(y.1 == x.g.number && y.2.1 == x.i) && y.2.2.op == 0x0010 &&
    y.2.2.par 2 1 == k.unit)
  let shapes := x.on 3 (fun u => if k.text then u.typed 0x14 [k.seqLen, k.rows]
      else u.typed k.outType [k.width, k.height, k.frames, 3, k.rows]) &&
    x.has k.rowMask (·.typed 0x11 [k.rows]) && (!k.text || x.has k.tokenMask (·.typed 0x11 [k.seqLen, k.rows])) &&
    (k.variants == noTensor || x.has k.variants (fun u => (u.dtype == 0x12 || u.dtype == 0x14) && u.extents [k.rows])) &&
    x.has k.sheet (·.typed 0x11 [64 + 64 * k.rows]) &&
    x.has k.ring (fun u => u.persistent && u.space == 0 && u.dtype == 0x11 && u.rank == 1 &&
      decide (k.depth * k.bufferBytes + k.reserveSize * k.entryBytes ≤ u.dim 0))
  ⟨t.slots [3] [0, 1, 2],
   fields && s.get (Reg.intUnitControl_partition k.unit) == x.p && shapes &&
     others.all (fun y => takeFields y.2.2.params == takeFields t.params && y.2.2.exposure != t.exposure), true, []⟩

/-! ### Outputs (R443) -/

/-- Op 0x0011 (R443). -/
def Site.emit (x : Site) : Verdict :=
  let t := x.t
  let k := EmitPar.ofBytes t.params
  let named := bitAt k.flags 1 == 1
  let near := fun (u : Tensor) => u.space == 0 || u.space == 1
  ⟨t.slots (if named then [0, 1] else [0]) (if named then [2, 3] else [1, 2, 3]),
   t.params.length == 32 && t.coreCount == 1 && decide (k.pool < 16) && (k.format == 0x20 || k.format == 0x21) &&
     decide (k.flags < 4) && t.par 6 2 == 0 &&
     (if named then k.variant == 0 && k.tag == 0 else decide (k.variant ≤ 1023) || k.variant == 0xFFFF) &&
     k.offset % 64 == 0 && decide (1 ≤ k.length ∧ k.length ≤ 2 ^ 30) &&
     x.on 0 (fun u => near u && decide (k.offset + k.length ≤ u.stored)) &&
     (!named || x.on 1 (fun u => near u && u.typed 0x14 [4] && u.rank == 1)),
   true, []⟩

end Sys2Proof.Machine
end

