-- ==== Sys2Proof/Machine/SectionChecks.lean ====
section
/-! DEFINITION. What the loader asks of the sections of a plan image (R117, R193, R207, R222, R247, R280 to R282, R288, R312
to R317, R323, R325, R365), and the clamps it makes in them (R88, R222, R282, R288). -/

namespace Sys2Proof.Machine

/-- No element occurs twice. -/
def distinct (l : List Nat) : Bool := l.eraseDups.length == l.length

/-- A list that rises strictly. -/
def rising : List Nat → Bool
  | a :: b :: l => decide (a < b) && rising (b :: l)
  | _ => true

/-- lo ≤ n ≤ hi. -/
def inRange (lo n hi : Nat) : Bool := decide (lo ≤ n ∧ n ≤ hi)

/-! ### The fabric section (R312 to R317, R323, R325) -/

/-- The header and the places of its tables (R312). -/
def fabHeaderOk (b : List Byte) : Bool :=
  let h := fabHeader b
  let tables := [(h.ports, 48 * 32), (h.routes, 24 * h.routeCount), (h.slots, 32 * h.slotCount), (h.deps, 2 * h.depCount),
    (h.groups, 16 * h.groupCount), (h.landings, 16 * h.landingCount), (h.children, 4 * h.childCount)]
  decide (64 ≤ b.length) && h.version == 1 && fieldAt b 2 2 == 0 && fieldAt b 26 2 == 0 && decide (h.routeCount ≤ 65536) &&
    decide (h.slotCount ≤ 65536) && decide (h.depCount ≤ 2 ^ 20) && decide (h.groupCount ≤ 1024) &&
    decide (h.landingCount ≤ 4096) && decide (h.childCount ≤ 64) && inRange 1 h.participants 65536 && inRange 1 h.dNs 65535 &&
    (h.barrierParent == noParent || decide (h.barrierParent < 2 ^ 20)) && (fabChildren b).all (fun c => decide (c < 2 ^ 20)) &&
    tables.all (fun t => t.1 % 8 == 0 && within t.1 t.2 0 b.length)

/-- A port entry (R313). -/
def State.fabPortOk (s : State) (p n : Nat) (e : FabPort) : Bool :=
  e.reservedZero && (if e.attach = 0 then e.neighbour == noParent && (e.outRank ++ e.inRank).all (· == 0)
    else decide (e.attach ≤ 2) && (e.attach == 1 || e.neighbour == noParent) && decide (n < 12 * s.fitted.io) &&
      s.portPart n == p)

/-- Port `n` is in use in the section. -/
def usedPort (ports : List FabPort) (n : Nat) : Bool := ((ports[n]?).map (fun e => e.attach != 0)).getD false

/-- A rank of a port in class `c`. -/
def rankOf (ranks : List Nat) (c : Nat) : Nat := (ranks[c]?).getD 0

/-- A route entry with its climbing ranks, which names no port at or above `fitted` (R54, R314, R315). -/
def fabRouteOk (ports : List FabPort) (own fitted : Nat) (r : FabRoute) : Bool :=
  let climbs := fun (out : Nat) => (List.range 48).all (fun i => bitAt r.relayIn i == 0 || (List.range 5).all (fun c =>
    match ports[i]?, ports[out]? with
    | some a, some b => decide (rankOf a.inRank c < rankOf b.outRank c)
    | _, _ => false))
  r.dest != own && usedPort ports r.port && (r.altPort == 0xFF || usedPort ports r.altPort) && decide (r.relays ≤ 4) &&
    decide (r.altRelays ≤ 4) && r.reserved == 0 && decide (r.relayIn < 2 ^ fitted) && climbs r.port &&
    (r.altPort == 0xFF || climbs r.altPort)

/-- A slot entry (R317). -/
def fabSlotOk (ports : List FabPort) (planned deps : Nat) (e : FabSlot) : Bool :=
  let out := e.role == 1 || e.role == 3
  let inn := e.role == 2 || e.role == 3
  decide (e.exposure < planned) && inRange 1 e.cls 3 && inRange 1 e.role 3 && inRange 16 e.guard 1000 &&
    decide (e.start + 2 * e.guard < e.stop) && (if out then usedPort ports e.portOut else e.portOut == 0xFF) &&
    (if inn then usedPort ports e.portIn else e.portIn == 0xFF) && (e.role != 1 || e.peerSlot == 0xFFFF) &&
    decide (e.relays ≤ 4) && (e.role != 1 || e.offsetNs == 0) && (e.role != 2 || e.offsetNs == 36 * e.relays + e.switchNs) &&
    decide (e.depCount ≤ 4096) && decide (e.depFirst + e.depCount ≤ deps)

/-- A reduction group with its stripe entries (R325). -/
def redGroupOk (b : List Byte) (g : RedGroup) : Bool :=
  let base := (fabHeader b).groups + 16 * (fabHeader b).groupCount
  inRange 2 g.members 65536 && inRange 1 g.stripes 16 && g.reservedZero &&
    decide (base + 48 * (g.first + g.stripes) ≤ b.length) &&
    (g.entries b).all (fun e => decide (e.childCount ≤ 8) && e.unused && e.reservedZero)

/-- A landing entry (R323). -/
def Plan.landingOk (pl : Plan) (l : Landing) : Bool :=
  inRange 1 l.depth 64 && inRange 1 l.role 2 && l.reserved == 0 && l.buffer % 64 == 0 && match pl.graph l.graph with
    | none => false
    | some g => if l.role = 2 then l.tensor == noTensor
      else ((g.tensor l.tensor).map (fun t => decide (l.depth * l.buffer ≤ t.stored))).getD false

/-- The fabric section as a whole. -/
def State.fabricOk (s : State) (p : Nat) (pl : Plan) (b : List Byte) : Bool :=
  fabHeaderOk b &&
    (let ports := fabPorts b
     let routes := fabRoutes b
     ports.zipIdx.all (fun e => s.fabPortOk p e.2 e.1) && rising (routes.map (·.dest)) &&
       routes.all (fabRouteOk ports s.position (12 * s.fitted.io)) && (fabSlots b).all (fabSlotOk ports pl.planned (fabHeader b).depCount) &&
       (fabDeps b).all (fun d => decide (d < (fabHeader b).slotCount)) && (fabGroups b).all (redGroupOk b) &&
       (fabLandings b).all pl.landingOk)

/-! ### The group table (R280, R281) -/

/-- A weight's rows. -/
def Tensor.rowCount (t : Tensor) : Nat := if t.dim 0 = 0 then 0 else t.count / t.dim 0

/-- A persistent tensor of these types and dims. -/
def Tensor.kept (t : Tensor) (types dims : List Nat) : Bool := t.persistent && types.contains t.dtype && t.extents dims

/-- The states of a group (R281, item 5). -/
def GroupEntry.statesOk (e : GroupEntry) (t : Nat → Option Tensor) (w : Tensor) : Bool :=
  let absent := fun (i : Nat) => i == noTensor
  let elementwise := fun (i : Nat) => ((t i).map (·.kept [0x07, 0x09] w.dims)).getD false
  let factor := fun (i n : Nat) => ((t i).map (fun x => x.kept [0x09] [n] && x.rank == 1)).getD false
  match e.rule with
  | 1 => (absent e.state1 || elementwise e.state1) && absent e.state2 && absent e.state3
  | 2 => elementwise e.state1 && elementwise e.state2 && absent e.state3
  | 3 => elementwise e.state1 && absent e.state2 && absent e.state3
  | 4 => decide (2 ≤ w.rank) && (absent e.state1 || elementwise e.state1) && factor e.state2 w.rowCount &&
      factor e.state3 (w.dim 0)
  | _ => false

/-- One entry under items 1 to 9 of R281; `k` is its number, `curves` the schedule's curve_count, `commanded` whether a
set-value command names it. -/
def Plan.groupOk (pl : Plan) (own curves k : Nat) (commanded : Bool) (e : GroupEntry) : Bool := match pl.graph e.graph with
  | none => false
  | some g =>
    let t := fun (i : Nat) => g.tensor i
    let named := [e.weight, e.grad, e.master, e.state1, e.state2, e.state3, e.rowstep, e.touch, e.gradMult]
    let homes := t e.weight != none && t e.grad != none &&
      (named.filter (· != noTensor)).all (fun i => ((t i).map (fun x => x.space == 0)).getD false)
    homes && match t e.weight, t e.grad with
      | some w, some grad =>
        let mode := e.touchMode
        let master := if e.hasMaster then w.dtype == 0x07 && ((t e.master).map (·.kept [0x09] w.dims)).getD false
          else e.master == noTensor
        let touch := if mode = 1 then
            e.rule != 4 && ((t e.rowstep).map (fun x => x.kept [0x14] [w.rowCount] && x.rank == 1)).getD false &&
              ((t e.touch).map (fun x => !x.persistent && x.typed 0x11 [16, w.rowCount])).getD false
          else e.rowstep == noTensor && e.touch == noTensor
        let cap := pl.section 5
        let governed := if mode = 2 then match (expertLayers cap)[e.touchIndex]? with
              | none => false
              | some l => decide (e.touchLocal < (expertsAt (l.placed cap) own).length)
          else e.touchLocal == 0xFFFF && (if mode = 3 then match (adapterSets (pl.section 6))[e.touchIndex]? with
              | none => false
              | some a => a.groupA == k || a.groupB == k
            else e.touchIndex == 0xFFFF)
        inRange 1 e.rule 4 && decide (e.flags < 32) && e.reserved == 0 && e.reservedZero && w.persistent &&
          (w.dtype == 0x07 || w.dtype == 0x09) && master && !grad.persistent && [0x05, 0x07, 0x09].contains grad.dtype &&
          grad.extents w.dims && e.statesOk t w && touch && governed &&
          (e.gradMult == noTensor || ((t e.gradMult).map (fun x => !x.persistent && x.rank == 1 && x.typed 0x09 [1])).getD false) &&
          (e.layer == 0xFFFF || pl.layerNumbers.contains e.layer) &&
          (e.curve == 0xFFFF || (decide (e.curve < curves) && !commanded))
      | _, _ => false

/-- Whether a persistent tensor is named twice (R281, item 10). -/
def Plan.groupsShare (pl : Plan) (es : List GroupEntry) : Bool :=
  let names := es.flatMap (fun e =>
    ([e.weight, e.grad, e.master, e.state1, e.state2, e.state3, e.rowstep, e.touch, e.gradMult].filter (fun i =>
      ((pl.graph e.graph).bind (fun g => g.tensor i)).map Tensor.persistent == some true)).map (fun i => e.graph * 2 ^ 32 + i))
  !distinct names

/-- The curve_count of a plan (R281, item 9). -/
def Plan.curveCount (pl : Plan) : Nat :=
  if pl.hasSection 4 ∧ schedForm (pl.section 4) = 1 then schedCurves (pl.section 4) else 0

/-- A set-value command names the group. -/
def Plan.commanded (pl : Plan) (k : Nat) : Bool :=
  pl.hasSection 4 && schedForm (pl.section 4) == 2 && (schedCommands (pl.section 4)).any (fun c => c.group == k)

/-- The group table as a whole (R281). -/
def State.groupTableOk (s : State) (pl : Plan) (b : List Byte) : Bool :=
  let n := fieldAt b 0 4
  inRange 1 n 65536 && zeroAt b 4 12 && decide (16 + 128 * n ≤ b.length) &&
    (let es := groupEntries b
     es.zipIdx.all (fun x => pl.groupOk s.position pl.curveCount x.2 (pl.commanded x.2) x.1) && !pl.groupsShare es)

/-! ### The schedule table (R288) -/

/-- The segments of one curve (R288). -/
def curveOk (b : List Byte) (k : Nat) : Bool :=
  let e := slice b (16 + 8 * k) 8
  let first := fieldAt e 0 4
  let n := fieldAt e 4 2
  inRange 1 n 4096 && fieldAt e 6 2 == 0 && decide (first + n ≤ schedItems b) &&
    (let ss := curveSegments b k
     (ss.zip ss.tail).all (fun x => decide (x.1.stop < x.2.start)))

/-- The schedule table as a whole (R288). -/
def Plan.scheduleOk (pl : Plan) (b : List Byte) : Bool :=
  let n := schedItems b
  let curves := schedCurves b
  decide (16 ≤ b.length) && fieldAt b 1 1 == 0 && zeroAt b 8 8 && decide (n ≤ 2 ^ 20) &&
    (if schedForm b = 1 then
      decide (16 + 8 * curves + 32 * n ≤ b.length) && (List.range curves).all (curveOk b) &&
        ((records b (16 + 8 * curves) 32 n).map Segment.ofBytes).all (fun g =>
          decide (g.start ≤ g.stop) && decide (g.kind ≤ 1) && g.reservedZero)
    else if schedForm b = 2 then
      curves == 0 && decide (16 + 16 * n ≤ b.length) &&
        (schedCommands b).all (fun c => decide (c.group < pl.groups.length) && inRange 1 c.field 2 && c.reservedZero) &&
        rising ((schedCommands b).map (fun c => (c.step * 2 ^ 32 + c.group) * 4 + c.field))
    else false)

/-! ### Capacity, adapters, ledger, securing and contexts -/

/-- An entry of the capacity table (R207). -/
def expertLayerOk (b : List Byte) (l : ExpertLayer) : Bool :=
  let array := fun (off n : Nat) => off % 4 == 0 && within off (4 * n) 0 b.length
  inRange 1 l.experts 4096 && inRange 1 l.k 8 && decide (l.k ≤ l.experts) && inRange 1 l.score 2 && decide (l.flags < 4) &&
    inRange 7 l.dtype 9 && l.reserved == 0 && inRange 32 l.d 65536 && l.rowBytes % 64 == 0 && inRange 1 l.sources 65536 &&
    l.reserved2 == 0 && array l.capacityAt l.experts && array l.placementAt l.experts && array l.sourceAt l.sources &&
    (List.range l.experts).all (fun e => l.capacity b e % l.sources == 0 && decide (l.capacity b e / l.sources ≤ 65536)) &&
    (List.range l.sources).all (fun i => decide (fieldAt b (l.sourceAt + 4 * i) 4 < 2 ^ 20)) && distinct (l.sourceList b)

/-- The capacity table as a whole (R207). -/
def capacityTableOk (b : List Byte) : Bool :=
  let n := fieldAt b 0 2
  inRange 1 n 256 && zeroAt b 2 14 && decide (16 + 32 * n ≤ b.length) && (expertLayers b).all (expertLayerOk b)

/-- The adapter table (R222). -/
def Plan.adapterTableOk (pl : Plan) (b : List Byte) : Bool :=
  let n := fieldAt b 0 2
  decide (n ≤ 1024) && zeroAt b 2 14 && decide (16 ≤ b.length ∧ 16 + 32 * n ≤ b.length) &&
    (adapterSets b).all (fun a => decide (a.variant ≤ 1023) && inRange 1 a.rank 256 && inRange 1 a.capacity 65536 &&
      decide (a.groupA < pl.groups.length ∧ a.groupB < pl.groups.length) && a.reservedZero) &&
    distinct ((adapterSets b).map (·.variant))

/-- The ledger plan (R247); which tensor an entry names and its intervals are judged at ADMIT (R249, case 1). -/
def ledgerPlanOk (b : List Byte) : Bool :=
  let n := fieldAt b 0 4
  decide (16 ≤ b.length) && decide (n ≤ 2 ^ 20) && zeroAt b 4 12 && decide (16 + 16 * n ≤ b.length) &&
    (records b 16 16 n).all (fun e => decide (fieldAt e 0 1 ≤ 15) && decide (fieldAt e 1 1 ≤ 3) && fieldAt e 2 2 == 0)

/-- The securing plan (R365). -/
def Plan.securingPlanOk (pl : Plan) (b : List Byte) : Bool :=
  let n := fieldAt b 4 4
  let place := fun (x : Nat) => decide (x < 2 ^ 20) || x == noParent
  place (fieldAt b 8 4) && place (fieldAt b 12 4) && place (fieldAt b 16 4) &&
    (decide (fieldAt b 44 2 < 4096) || fieldAt b 44 2 == 0xFFFF) &&
  decide (64 ≤ b.length) && fieldAt b 0 2 == 1 && decide (fieldAt b 2 1 < 4) && fieldAt b 3 1 == 0 && decide (n ≤ 65536) &&
    (fieldAt b 12 4 != noParent || fieldAt b 32 4 == 0) && zeroAt b 46 18 && decide (64 + 8 * n ≤ b.length) &&
    (records b 64 8 n).all (fun e => decide (fieldAt e 0 4 < pl.groups.length) && inRange 1 (fieldAt e 4 1) 2 && zeroAt e 5 3) &&
    distinct ((records b 64 8 n).map (fun e => fieldAt e 0 4))

/-- A range entry of the context plan (R193). -/
def State.ctxRangeOk (s : State) (p layers : Nat) (r : CtxRange) : Bool :=
  inRange 1 r.count 4096 && r.reserved == 0 && (if r.kind = 2 then
      decide (r.die < 4) && s.diePart r.die == p && inRange 1 r.aStep 8192 && inRange 256 r.maxLen (2 ^ 20) &&
        r.maxLen % 256 == 0 && inRange 1 r.kvLayers layers
    else r.kind == 1 && r.die == 0 && r.aStep == 0 && r.maxLen == 0 && r.kvLayers == 0)

/-- No two elements of a list satisfy the test. -/
def noPair {α : Type} (f : α → α → Bool) : List α → Bool
  | [] => true
  | a :: l => l.all (fun b => !f a b) && noPair f l

/-- The context plan (R193). -/
def State.contextPlanOk (s : State) (p : Nat) (b : List Byte) : Bool :=
  let n := fieldAt b 0 2
  let layers := fieldAt b 2 2
  decide (n ≤ 64) && decide (layers ≤ 512) && zeroAt b 4 12 && decide (16 ≤ b.length ∧ 16 + 16 * n + 8 * layers ≤ b.length) &&
    (ctxRanges b).all (s.ctxRangeOk p layers) && noPair (fun x y => overlaps x.first x.count y.first y.count) (ctxRanges b) &&
    (kvLayerEntries b).all (fun k => inRange 1 k.heads 512 && inRange 32 k.dim 256 && k.dim % 32 == 0 &&
      inRange 6 k.dtype 8 && k.reservedZero)

/-- The content of a section of this type (check 6 of R92); the queue table fails check 14 instead (R117). -/
def State.sectionOk (s : State) (p : Nat) (pl : Plan) (type : Nat) : Bool :=
  let b := pl.section type
  match type with
  | 2 => s.fabricOk p pl b
  | 3 => s.groupTableOk pl b
  | 4 => pl.scheduleOk b
  | 5 => capacityTableOk b
  | 6 => pl.adapterTableOk b
  | 7 => ledgerPlanOk b
  | 8 => pl.securingPlanOk b
  | 9 => s.contextPlanOk p b
  | _ => true

/-! ### The queue table (R117) -/

/-- Bytes of a queue's place: operand store, line buffer, or the staging SRAM of the die (R99, R117). -/
def QueueEntry.placeBytes (e : QueueEntry) : Nat :=
  if e.place = 0 then 4 * 2 ^ 20 else if e.place = 1 then 2 ^ 19 else stagingDie

/-- Two queue regions share a byte: the same core's place, or the staging SRAM of one die. -/
def State.queuesShare (s : State) (a b : QueueEntry) : Bool :=
  a.place == b.place && (if a.place = 2 then s.fitted.dieOf a.consumer == s.fitted.dieOf b.consumer else a.consumer == b.consumer) &&
    overlaps a.offset (a.entries * a.entryBytes) b.offset (b.entries * b.entryBytes)

/-- A staging region shares a byte with a tensor of space 1 (R91, R117). -/
def State.queueOnTensor (s : State) (p : Nat) (pl : Plan) (e : QueueEntry) : Bool :=
  let k := s.fitted.dieOf e.consumer - s.firstDie p
  e.place == 2 && pl.graphs.any (fun g => g.tensors.any (fun t => t.space == 1 &&
    overlaps (k * stagingDie + e.offset) (e.entries * e.entryBytes) t.base t.stored))

/-- A core number is an active core of the partition, not failed (R117). -/
def State.usableCore (s : State) (p c : Nat) : Bool := decide (c < s.fitted.ccc) && s.corePart c == p && !s.coreFailed c

/-- An entry of the queue table by itself (R117). -/
def State.queueOk (s : State) (p : Nat) (pl : Plan) (e : QueueEntry) : Bool :=
  s.usableCore p e.producer && s.usableCore p e.consumer && decide (e.place ≤ 2) && e.reserved == 0 &&
    inRange 64 e.entryBytes 4096 && e.entryBytes % 64 == 0 && inRange 2 e.entries 65536 &&
    (List.range 17).any (fun k => e.entries == 2 ^ k) && e.offset % 64 == 0 && inRange 1 e.writes e.entries &&
    inRange 1 e.reads e.entries && e.reservedZero && decide (e.offset + e.entries * e.entryBytes ≤ e.placeBytes) &&
    !s.queueOnTensor p pl e

/-- The queue entries that fail check 14, each counted once: by themselves, or by sharing a byte with an earlier one. -/
def State.badQueues (s : State) (p : Nat) (pl : Plan) : Nat :=
  let qs := pl.queueTable
  (qs.zipIdx.filter (fun x => !s.queueOk p pl x.1 || (qs.take x.2).any (fun y => s.queuesShare x.1 y))).length

/-- The cores whose queue regions exceed 1 MiB of their operand store, or 256 KiB of their line buffer (R99). -/
def Plan.crowdedCores (pl : Plan) : Nat :=
  ((List.range 64).filter (fun c => decide (2 ^ 20 < pl.regionBytes c 0 ∨ 2 ^ 18 < pl.regionBytes c 1))).length

/-- A task's queue fields (R117): the indices exist, and the task runs alone on the queue's core. -/
def Site.queuesOk (x : Site) : Bool :=
  let t := x.t
  let ok := fun (q : Nat) (core : QueueEntry → Nat) => q == noQueue ||
    ((x.pl.queue q).map (fun e => core e == t.coreFirst && t.coreCount == 1)).getD false
  ok t.queueOut (·.producer) && ok t.queueIn (·.consumer) && x.halosOk

/-! ### Clamps (R88, R10) -/

/-- A clamped field of an image: its byte offset in its section, the value written and the value stored. -/
structure ImageClamp where
  off : Nat
  written : Nat
  stored : Nat
  deriving DecidableEq, Repr

/-- An FP32 pattern clamped to `lo..hi`, both of them non-negative: NaN and negative values count as below (R222, R282). -/
def clampFp (lo hi bits : Nat) : Nat :=
  if bits = 0x80000000 then (if lo = 0 then bits else lo)
  else if bits ≥ 0x80000000 ∨ bits > 0x7F800000 then lo
  else if bits < lo then lo else if hi < bits then hi else bits

/-- The clamp of the FP32 field at a section offset, if its value lies outside the range. -/
def clampField (b : List Byte) (off lo hi : Nat) : List ImageClamp :=
  let w := fieldAt b off 4
  let v := clampFp lo hi w
  if v = w then [] else [⟨off, w, v⟩]

/-- 1, the largest β and 2^-126 as FP32 bits (R282). -/
def fpOne : Nat := 0x3F800000
/-- 1 - 2^-24. -/
def fpBeta : Nat := 0x3F7FFFFF
/-- 2^-126. -/
def fpTiny : Nat := 0x00800000

/-- The clamps of a section, in ascending offset (R222, R282, R288). -/
def sectionClamps (type : Nat) (b : List Byte) : List ImageClamp := match type with
  | 3 => (List.range (fieldAt b 0 4)).flatMap (fun g =>
      let o := 16 + 128 * g
      clampField b (o + 52) 0 fpOne ++ clampField b (o + 56) 0 fpBeta ++ clampField b (o + 60) 0 fpBeta ++
        clampField b (o + 64) fpTiny fpOne ++ clampField b (o + 68) 0 fpOne ++ clampField b (o + 72) fpTiny fpOne)
  | 4 => if schedForm b = 1 then (List.range (schedItems b)).flatMap (fun i =>
        let o := 16 + 8 * schedCurves b + 32 * i
        clampField b (o + 12) 0 0x47800000 ++ clampField b (o + 16) 0 0x47800000)
      else (List.range (schedItems b)).flatMap (fun i => clampField b (16 + 16 * i + 12) 0 fpOne)
  | 6 => (List.range (fieldAt b 0 2)).flatMap (fun i => clampField b (16 + 32 * i + 8) 0x37800000 0x47800000)
  | _ => []

/-- A section with its clamps made. -/
def applyClamps (b : List Byte) (cs : List ImageClamp) : List Byte :=
  cs.foldl (fun b c => patch b c.off (leBytes c.stored 4)) b

end Sys2Proof.Machine
end

