-- ==== Sys2Proof/Machine/Loader.lean ====
section
/-! DEFINITION. Loading and unloading a plan (R85 to R92): the loader's checks on the whole image, LOAD_PLAN with its clamps,
and UNLOAD_PLAN. -/

namespace Sys2Proof.Machine

/-! ### The image -/

/-- A task record with its bytes. -/
structure TaskRecord where
  site : Site
  raw : List Byte
  paramsLen : Nat
  deriving DecidableEq, Repr

/-- What the loader works on: the slot's length, the image, its header, and the plan made of the graphs and sections that
lie where they should. -/
structure Image where
  slotLength : Nat
  bytes : List Byte
  header : ImageHeader
  plan : Plan
  deriving DecidableEq, Repr

/-- The tables of a graph: offset and length. -/
def GraphHeader.tables (g : GraphHeader) : List (Nat × Nat) :=
  [(g.tasks, 64 * g.taskCount), (g.tensors, 64 * g.tensorCount), (g.params, g.paramsLen)]

/-- Graph header `i` is as R86 states, with its tables in the image and apart (check 7 of R92). -/
def graphHeaderOk (img : List Byte) (h : ImageHeader) (i : Nat) (g : GraphHeader) : Bool :=
  h.graphTable % 64 == 0 && decide (h.graphTable + 64 * i + 64 ≤ img.length) && g.reservedZero && decide (g.graph ≤ 15) &&
    inRange 1 g.taskCount 65536 && inRange 1 g.tensorCount (2 ^ 20) && g.paramsLen % 16 == 0 && decide (g.paramsLen ≤ 2 ^ 26) &&
    g.tables.all (fun t => t.1 % 64 == 0 && within t.1 t.2 0 img.length) &&
    noPair (fun a b => overlaps a.1 a.2 b.1 b.2) g.tables

/-- Section table entry `i` by itself (check 6 of R92): type known and not named before, reserved zero, inside the image. -/
def sectionEntryOk (img : List Byte) (h : ImageHeader) (es : List SectionEntry) (i : Nat) (e : SectionEntry) : Bool :=
  h.sectionTable % 64 == 0 && decide (h.sectionTable + 16 * i + 16 ≤ img.length) && inRange 1 e.type 9 && e.reserved == 0 &&
    e.offset % 64 == 0 && within e.offset e.length 0 img.length && (es.take i).all (fun x => x.type != e.type)

/-- The graph headers that pass check 7. -/
def goodHeaders (img : List Byte) (h : ImageHeader) : List GraphHeader :=
  ((graphHeaders img h).zipIdx.filter (fun x => graphHeaderOk img h x.2 x.1)).map (·.1)

/-- The section entries that stand where they should. -/
def goodEntries (img : List Byte) (h : ImageHeader) : List SectionEntry :=
  let es := sectionEntries img h
  (es.zipIdx.filter (fun x => sectionEntryOk img h es x.2 x.1)).map (·.1)

/-- Read an image of partition `p` from a slot of `slotLength` bytes (R85 to R91). -/
def Image.ofSlot (p slotLength : Nat) (slot : List Byte) : Image :=
  let h := ImageHeader.ofBytes slot
  let img := slot.take (min h.imageLength slotLength)
  ⟨slotLength, img, h,
   ⟨h.planId, p, h.planned, h.spares, h.storeBase, h.storeSize, (goodHeaders img h).map (Graph.ofImage img),
    (goodEntries img h).map (fun e => (e.type, slice img e.offset e.length))⟩⟩

/-- Every task record of the image. -/
def Image.records (m : Image) : List TaskRecord :=
  ((goodHeaders m.bytes m.header).zip m.plan.graphs).flatMap (fun y =>
    y.2.tasks.zipIdx.map (fun t => ⟨⟨m.plan.partition, m.plan, y.2, t.2, t.1⟩, slice m.bytes (y.1.tasks + 64 * t.2) 64, y.1.paramsLen⟩))

/-! ### Checks of the plan as a whole (1 to 7, 21, 22) -/

/-- Check 1. -/
def Image.lengthOk (m : Image) : Bool :=
  decide (64 ≤ m.header.imageLength ∧ m.header.imageLength ≤ m.slotLength) && m.bytes.length == m.header.imageLength &&
    crc32c (patch m.bytes 52 [0, 0, 0, 0]) == m.header.crc

/-- Check 2. -/
def Image.magicOk (m : Image) : Bool :=
  m.header.magic == 0x4E484C50 && m.header.version == 1 && zeroAt m.bytes 50 2 && zeroAt m.bytes 56 8

/-- Check 3. -/
def State.planIdOk (s : State) (m : Image) : Bool := m.header.planId != 0 && (s.planById m.header.planId).isNone

/-- Check 4. -/
def State.graphNumbersOk (s : State) (m : Image) : Bool :=
  let ns := (graphHeaders m.bytes m.header).map (·.graph)
  inRange 1 m.header.graphCount 16 && distinct ns && !s.plans.any (fun pl => pl.graphs.any (fun g => ns.contains g.number))

/-- Check 5. -/
def State.storeOk (s : State) (p : Nat) (m : Image) : Bool :=
  let b := m.header.storeBase
  let n := m.header.storeSize
  b % 2 ^ 21 == 0 && n % 2 ^ 21 == 0 && within b n 0 (s.hbmSize p) && !s.hitsWindow p b n && !s.hitsStore p b n

/-- Failures of check 6, one for each section, or one for a section table that cannot be read or stands at no multiple of
64 (R85). -/
def State.sectionFailures (s : State) (p : Nat) (m : Image) : Nat :=
  let es := sectionEntries m.bytes m.header
  (if 32 < m.header.sectionCount ∨ m.header.sectionCount = 0 ∧ m.header.sectionTable % 64 ≠ 0 then 1 else 0) +
    (es.zipIdx.filter (fun x => !(sectionEntryOk m.bytes m.header es x.2 x.1 && s.sectionOk p m.plan x.1.type))).length

/-- Bytes that the plan store must hold (check 22). DESIGN CHOICE (log entry 63): graph headers, task records, tensor
descriptors, parameter areas and sections count, each at its length in the image. -/
def Image.storeNeeds (m : Image) : Nat :=
  ((goodHeaders m.bytes m.header).map (fun g => 64 + 64 * g.taskCount + 64 * g.tensorCount + g.paramsLen)).sum +
    ((goodEntries m.bytes m.header).map (·.length)).sum

/-! ### Checks of a task (8 to 14) -/

/-- What R92 asks under the rules of the task's op. -/
def Site.verdict (x : Site) (s : State) : Verdict := match x.t.op with
  | 0x0001 => x.product1 s
  | 0x0002 => x.product2 s
  | 0x0003 => x.attention s
  | 0x0004 => x.attentionBack s
  | 0x0005 => x.conv s
  | 0x0006 => x.crop
  | 0x0007 => x.argmax
  | 0x0008 => x.vector
  | 0x0009 => x.gather
  | 0x000A => x.dispatch
  | 0x000B => x.combine
  | 0x000C => x.move
  | 0x000D => x.transfer s
  | 0x000E => x.reduction s
  | 0x000F => x.update
  | 0x0010 => x.take s
  | 0x0011 => x.emit
  | 0x0012 => x.join
  | _ => ⟨true, true, true, []⟩

/-- Check 9, with the reserved bytes of the record. -/
def TaskRecord.fieldsOk (r : TaskRecord) : Bool :=
  let t := r.site.t
  decide (t.rung ≤ 3) && decide (t.exposure < r.site.pl.planned) && decide (t.flags < 4) && zeroAt r.raw 13 1 && zeroAt r.raw 56 8

/-- Check 10, which ADMIT repeats. -/
def State.coresOk (s : State) (p : Nat) (t : Task) : Bool :=
  inRange 1 t.coreCount 64 && decide (t.coreFirst + t.coreCount ≤ s.fitted.ccc) && t.cores.all (s.usableCore p)

/-- The predecessors and the layer of one task (check 11). -/
def TaskRecord.predsOk (r : TaskRecord) : Bool :=
  let t := r.site.t
  let n := fieldAt r.raw 12 1
  decide (n ≤ 8) && t.preds.all (fun j => decide (j < r.site.g.tasks.length) && j != r.site.i) && distinct t.preds &&
    (List.range 8).all (fun i => decide (i < n) || fieldAt r.raw (16 + 2 * i) 2 == 0) &&
    (decide (t.layer ≤ 65535) || !t.layered) && (decide (t.op < 0x000C) || !t.layered)

/-- The indices done once every task whose predecessors are done has been taken, `k` rounds long. -/
def settle (ts : List Task) : Nat → List Nat → List Nat
  | 0, done => done
  | k + 1, done =>
    let new := (ts.zipIdx.filter (fun x => !done.contains x.2 && x.1.preds.all (fun j =>
      decide (ts.length ≤ j) || done.contains j))).map (·.2)
    if new.isEmpty then done else settle ts k (done ++ new)

/-- The predecessor relation of a graph is acyclic (check 11). -/
def Graph.acyclic (g : Graph) : Bool := (settle g.tasks g.tasks.length []).length == g.tasks.length

/-- The tasks of a list reached from `from_` by going back to predecessors, `k` rounds long. -/
def reachBack (ts : List (Nat × Task)) : Nat → List Nat → List Nat
  | 0, seen => seen
  | k + 1, seen =>
    let new := (ts.filter (fun x => !seen.contains x.1 && ts.any (fun y => seen.contains y.1 && y.2.preds.contains x.1))).map (·.1)
    if new.isEmpty then seen else reachBack ts k (seen ++ new)

/-- The tasks of layer `l` keep R137 (check 11). -/
def Plan.layerOk (pl : Plan) (l : Nat) : Bool :=
  let all := pl.allTasks.filter (fun x => x.2.2.layer == l)
  match all.head? with
  | none => true
  | some h =>
    let ts := all.map (fun x => (x.2.1, x.2.2))
    let commits := ts.filter (fun x => x.2.commits)
    all.all (fun x => x.1 == h.1 && x.2.2.exposure == h.2.2.exposure) && commits.length == 1 &&
      (let seen := reachBack ts ts.length (commits.map (·.1))
       ts.all (fun x => seen.contains x.1)) &&
      ts.all (fun a => a.2.readSet.all (fun i => ts.all (fun b => !b.2.writeSet.contains i)))

/-- The layer numbers of a plan's tasks. -/
def Plan.layersOf (pl : Plan) : List Nat :=
  (((pl.allTasks.map (fun x => x.2.2.layer)).filter (fun l => decide (l ≤ 65535)))).eraseDups

/-- Outputs and spaces that R261 allows the task (check 12). -/
def Site.codedOk (x : Site) : Bool :=
  let t := x.t
  (decide (t.op = 0 ∨ 0x000B < t.op) || t.writeSet.all (fun i => x.onIndex i (fun u => !u.clear))) &&
    (t.op == 0x000C || (t.readSet ++ t.writeSet).all (fun i => x.onIndex i (fun u => u.space != 2)))

/-- Check 12: indices in range, the operands that the op requires, and R261. -/
def Site.operandsOk (x : Site) (v : Verdict) : Bool := x.t.tensors.all x.optional && v.operands && x.codedOk

/-- Check 13: the parameter block's place, and the op's own rules. -/
def TaskRecord.paramsOk (r : TaskRecord) (v : Verdict) : Bool :=
  let off := fieldAt r.raw 48 4
  let n := fieldAt r.raw 52 2
  off % 16 == 0 && n % 16 == 0 && decide (n ≤ 4096) && decide (off + n ≤ r.paramsLen) && (r.site.t.op != 0x0012 || off == 0) &&
    v.params

/-- The checks 8 to 14 that a task fails. -/
def State.taskFailures (s : State) (r : TaskRecord) : List Nat :=
  let t := r.site.t
  let v := r.site.verdict s
  ([(8, inRange 1 t.op 0x0012), (9, r.fieldsOk), (10, s.coresOk r.site.p t), (11, r.predsOk), (12, r.site.operandsOk v),
    (13, r.paramsOk v), (14, r.site.queuesOk && v.queues)].filter (fun c => !c.2)).map (·.1)

/-! ### Checks of a tensor (15 to 20) -/

/-- Bytes of a space for a partition (check 19). -/
def State.spaceBytes (s : State) (p space : Nat) : Nat := match space with
  | 0 => s.hbmSize p
  | 1 => s.stagingSize p
  | 2 => s.get Reg.memNegUsable_usableGib * 2 ^ 30
  | _ => s.winBytes p

/-- A range of partition HBM holds a byte of a retired page (R381). -/
def State.onRetired (s : State) (p a n : Nat) : Bool :=
  s.retired.any (fun r => overlaps (s.hbmBase p + a) n (r.1 * stackUsable + r.2 * 2 ^ 21) (2 ^ 21))

/-- A window range lies within the payload of one command slot. -/
def State.inCommandSlot (s : State) (p a n : Nat) : Bool :=
  (List.range 16).any (fun q => s.poolUse p q == 2 && (List.range (s.poolCount p q)).any (fun i =>
    within a n (s.payloadOf p q i) (s.slotBytes p q)))

/-- Check 16. -/
def tensorShapeOk (raw : List Byte) (t : Tensor) : Bool :=
  inRange 1 t.rank 6 && (List.range 6).all (fun k => decide (k < t.rank) || fieldAt raw (16 + 4 * k) 4 == 0) &&
    (List.range 5).all (fun k => decide (k + 1 < t.rank) || fieldAt raw (40 + 4 * k) 4 == 0)

/-- Check 17. -/
def Tensor.stridesOk (t : Tensor) : Bool :=
  t.base % 64 == 0 && (List.range (t.rank - 1)).all (fun k =>
    decide ((if k = 0 then t.rowBytes else t.dim k * t.strideBytes k) ≤ t.strideBytes (k + 1)))

/-- Check 18. -/
def State.scalesOk (s : State) (p : Nat) (t : Tensor) : Bool :=
  if t.type.isMx then
    t.dim 0 % 32 == 0 && t.scaleOffset != 0 &&
      (decide (t.elementSpan ≤ 64 * t.scaleOffset) || (List.range t.rows).all (fun r =>
        let a := t.rowOffset (t.coords (r * t.dim 0))
        !overlaps a t.rowBytes (64 * t.scaleOffset) t.scaleBytes)) &&
      within (t.base + 64 * t.scaleOffset) t.scaleBytes 0 (s.spaceBytes p t.space)
  else t.scaleOffset == 0

/-- Check 19. -/
def State.tensorPlaceOk (s : State) (p : Nat) (t : Tensor) : Bool :=
  decide (t.space ≤ 3) && (if t.space = 3 then s.inCommandSlot p t.base t.stored
    else within t.base t.stored 0 (s.spaceBytes p t.space) && !(t.space == 0 && s.onRetired p t.base t.stored))

/-- The rules of a Grain tensor (R254). -/
def Tensor.grainOk (t : Tensor) : Bool :=
  [0x07, 0x08, 0x09, 0x12].contains t.dtype && decide (2 ≤ t.rank) && t.dim 0 % 8 == 0 && t.dim 1 % 8 == 0 &&
    (List.range (t.rank - 1)).all (fun k =>
      t.strideBytes (k + 1) == if k = 0 then t.rowBytes else t.dim k * t.strideBytes k) &&
    t.grainBlocks % grainSpb t.elemBytes == 0

/-- Check 20, with the reserved bytes of the descriptor and the spaces that hold no coded tensor (R251). -/
def tensorPolicyOk (raw : List Byte) (t : Tensor) : Bool :=
  (if t.persistent then t.policy == 0xFF else decide (t.policy ≤ 3)) &&
    (if t.policy = 1 then inRange 2 t.grainRate 4 && t.grainOk else t.grainRate == 0) &&
    (!t.isProtected || (t.policy != 1 && !t.clear)) && decide (t.flags < 8) && zeroAt raw 14 2 &&
    (!(t.space == 1 || t.space == 3) || !t.coded)

/-- The checks 16 to 20 that a tensor fails. -/
def State.tensorFailures (s : State) (p : Nat) (raw : List Byte) (t : Tensor) : List Nat :=
  ([(16, tensorShapeOk raw t), (17, t.stridesOk), (18, s.scalesOk p t), (19, s.tensorPlaceOk p t),
    (20, tensorPolicyOk raw t)].filter (fun c => !c.2)).map (·.1)

/-- Tensors of a graph that fail check 15: a code outside R13, or one that an op naming the tensor does not accept. -/
def State.typeFailures (s : State) (rs : List TaskRecord) (g : Graph) : Nat :=
  ((g.tensors.zipIdx.filterMap (fun x => if (DType.ofCode x.1.dtype).isNone then some x.2 else none)) ++
    (rs.filter (fun r => r.site.g.number == g.number)).flatMap (fun r => (r.site.verdict s).refused)).eraseDups.length

/-! ### The loader -/

/-- Every check that an image fails, once for each item that fails it. -/
def State.loadFailures (s : State) (p : Nat) (m : Image) : List Nat :=
  let one := fun (n : Nat) (ok : Bool) => if ok then [] else [n]
  let rs := m.records
  let hs := goodHeaders m.bytes m.header
  let bad := (graphHeaders m.bytes m.header).zipIdx.filter (fun x => !graphHeaderOk m.bytes m.header x.2 x.1)
  let qs := m.plan.section 1
  let table := !m.plan.hasSection 1 || (qs.length % 32 == 0 && inRange 1 (qs.length / 32) 8192)
  one 1 m.lengthOk ++ one 2 m.magicOk ++ one 3 (s.planIdOk m) ++ one 4 (s.graphNumbersOk m) ++ one 5 (s.storeOk p m) ++
    List.replicate (s.sectionFailures p m) 6 ++ bad.map (fun _ => 7) ++ rs.flatMap s.taskFailures ++
    (m.plan.graphs.filter (fun g => !g.acyclic)).map (fun _ => 11) ++
    (m.plan.layersOf.filter (fun l => !m.plan.layerOk l)).map (fun _ => 11) ++ one 14 table ++
    List.replicate (s.badQueues p m.plan + m.plan.crowdedCores) 14 ++
    m.plan.graphs.flatMap (fun g => List.replicate (s.typeFailures rs g) 15) ++
    (hs.zip m.plan.graphs).flatMap (fun y => y.2.tensors.zipIdx.flatMap (fun t =>
      s.tensorFailures p (slice m.bytes (y.1.tensors + 64 * t.2) 64) t.1)) ++
    one 21 (!s.flag Reg.sysInvStatus_mismatch) ++ one 22 (decide (m.storeNeeds ≤ m.header.storeSize))

/-- The detail of a refused load (R74): the lowest failing check and the number of failures, saturating. -/
def loadDetail (fails : List Nat) : Nat :=
  fails.foldl min 255 + 2 ^ 16 * min 65535 fails.length

/-- The clamps of an image: for each section, its offset in the image and its clamps, in ascending image offset. -/
def Image.clamps (m : Image) : List (Nat × Nat × ImageClamp) :=
  (sortBy SectionEntry.offset (goodEntries m.bytes m.header)).flatMap (fun e =>
    (sectionClamps e.type (m.plan.section e.type)).map (fun c => (e.offset, e.type, c)))

/-- The plan with its clamps made (R88). -/
def Image.clamped (m : Image) : Plan :=
  { m.plan with sections := m.plan.sections.map (fun x => (x.1, applyClamps x.2 (sectionClamps x.1 x.2))) }

/-- The plan is loaded: its graphs and sections stand in the plan store, its clamps are logged (R88, R92, R93), and the
digest of its image is kept (R417). DESIGN CHOICE (log entry 63): the store holds them as typed data; the manual lays out no
bytes of it. -/
def State.acceptPlan (s : State) (ring : Nat) (d : Started) (p : Nat) (m : Image) : State :=
  let s := { s with
    plans := s.plans ++ [m.clamped]
    trust := { s.trust with planDigests := insertKey s.trust.planDigests p (sha512 m.bytes) } }
  let s := m.clamps.foldl (fun s c => s.reportClamp (UnitId.partition p) p ⟨c.1 + c.2.2.off, 2, 0, 32, ring, c.2.2.written, c.2.2.stored⟩) s
  let s := s.raise Ev.planLoaded (UnitId.partition p) { value := m.header.planId }
  if m.clamps.isEmpty then s.finish ring d .done else s.finish ring d .doneClamped m.clamps.length

/-- LOAD_PLAN (R92). -/
def doLoadPlan (ring : Nat) (s : State) : State :=
  match s.findOp ring 0x02 with
  | none => s
  | some d =>
    let p := s.ringPart ring
    let q := d.opd 16 2
    let i := d.opd 20 4
    match (d.strayOperand [(16, 2), (20, 4)]).or (d.badPool 16) with
    | some off => s.finish ring d .badAddress off
    | none =>
      if !s.slotFilled p q i 2 then s.finish ring d .slotState 20
      else
        let len := min (s.slot p q i).length (s.slotBytes p q)
        let m := Image.ofSlot p len (s.readWin p (s.payloadOf p q i) len)
        let fails := s.loadFailures p m
        let s := s.consumeSlot p q i
        let s := if fails.isEmpty then s.acceptPlan ring d p m
          else (s.raise Ev.planLoadRefused (UnitId.partition p)
            { value := m.header.planId, value2 := fails.foldl min 255 }).finish ring d .refused (loadDetail fails)
        s.releaseSlot p q i

/-- A plan leaves the store. Shares of it that still drain after its withdrawal end without effect (log entry 47). -/
def State.dropPlan (s : State) (p id : Nat) : State :=
  let gone := (((s.planById id).map (·.graphs)).getD []).map (·.number)
  let s := (s.coresOf p).foldl (fun s c => match (s.core c).running with
    | some (g, _) => if gone.contains g then
        ((s.modCore c (fun k => { k with running := none })).leaveDevelopers c).set (Reg.coreStatus_state c) 0 else s
    | none => s) s
  let s := if (s.part p).plan = some id then s.modPart p (fun x => { x with plan := none }) else s
  { s with plans := s.plans.filter (fun pl => pl.planId != id) }

/-- UNLOAD_PLAN (R70, R72): a plan that no partition has admitted is freed; the admitted plan refuses with STATE. A plan_id
that no plan of the partition has ends with BAD_ADDRESS at its operand. -/
def doUnloadPlan (ring : Nat) (s : State) : State :=
  match s.findOp ring 0x04 with
  | none => s
  | some d =>
    let p := s.ringPart ring
    let id := d.opd 16 4
    match d.strayOperand [(16, 4)] with
    | some off => s.finish ring d .badAddress off
    | none =>
      if !s.plans.any (fun pl => pl.planId == id && pl.partition == p) then s.finish ring d .badAddress 16
      else if (s.part p).plan = some id ∧ (s.part p).phase ≠ .idle then s.finish ring d .state ((s.part p).phase.code)
      else (s.dropPlan p id).finish ring d .done

end Sys2Proof.Machine
end

