-- ==== Sys2Proof/Machine/MeterCounts.lean ====
section
/-! DEFINITION. What the light meter counts for a core's share of a task (R31, R32), op by op, and the worst-case time of
a task. Times are exact fractions of a nanosecond. -/

namespace Sys2Proof.Machine

/-! ### Exact fractions -/

/-- A non-negative fraction, in lowest terms. -/
structure Frac where
  num : Nat
  den : Nat
  deriving DecidableEq, Repr

/-- `n / d`; a divisor of 0 counts as 1. -/
def Frac.of (n d : Nat) : Frac :=
  let g := max 1 (Nat.gcd n d)
  ⟨n / g, max 1 d / g⟩

/-- A whole number. -/
def Frac.nat (n : Nat) : Frac := ⟨n, 1⟩
/-- Sum. -/
def Frac.add (a b : Frac) : Frac := Frac.of (a.num * b.den + b.num * a.den) (a.den * b.den)
/-- Strictly less. -/
def Frac.lt (a b : Frac) : Bool := decide (a.num * b.den < b.num * a.den)
/-- The larger. -/
def Frac.max (a b : Frac) : Frac := if a.lt b then b else a
/-- Product with `n / d`. -/
def Frac.times (a : Frac) (n d : Nat) : Frac := Frac.of (a.num * n) (a.den * d)
/-- Rounded up. -/
def Frac.up (a : Frac) : Nat := ceilDiv a.num a.den
/-- The largest of a list, 0 of none. -/
def maxFrac (l : List Frac) : Frac := l.foldl Frac.max (Frac.nat 0)
/-- The sum of a list. -/
def sumFrac (l : List Frac) : Frac := l.foldl Frac.add (Frac.nat 0)

/-! ### Counts -/

/-- What a share counts: array cycles, vector element operations, attention cycles, HBM bytes, decoded bytes,
parameters at the Developers (E × σ) and Negative-store bytes. -/
structure Counts where
  arr : Nat := 0
  vec : Nat := 0
  att : Nat := 0
  hbm : Frac := ⟨0, 1⟩
  dec : Frac := ⟨0, 1⟩
  upd : Nat := 0
  neg : Nat := 0
  deriving DecidableEq, Repr

/-- Stored bytes per element, in 1/32 byte: a Grain tensor at its fixed compressed size, a Clear tensor at its full
size (R31), an MX type with its scale. -/
def Tensor.storedRate (t : Tensor) : Nat := t.type.stored32 (if t.grain then t.grainRate else 0)

/-- Stored bytes per element that HBM moves: none for the staging SRAM and the Negative store. -/
def Tensor.hbmRate (t : Tensor) : Nat := if t.space = 1 ∨ t.space = 2 then 0 else t.storedRate

/-- HBM bytes, in 1/32 byte, that one access of these runs moves (R31, R258): whole blocks of a Grain tensor, each at its
compressed size; of any other tensor the elements at their stored rate. -/
def Tensor.movedOf (t : Tensor) (runs : List Run) : Nat :=
  if t.space = 1 ∨ t.space = 2 then 0
  else if t.grain then
    32 * grainBlockBytes t.elemBytes t.grainRate * ((runs.flatMap (fun r => (List.range r.n).map (fun i =>
      t.grainIndex (t.coordsAt (r.off + i * t.type.bits))))).eraseDups).length
  else (runs.map (·.n)).sum * t.storedRate

/-- The largest of numbers. -/
def maxOf (l : List Nat) : Nat := l.foldl max 0

/-- Bytes that the decoders deliver for one read of runs (R274): the raw size of every Grain segment and Clear block that it
touches, none in a protected range (R270). -/
def Tensor.decodedOf (t : Tensor) (runs : List Run) : Nat :=
  if t.isProtected then 0
  else if t.grain then 4096 * (t.segmentsOf runs).length
  else if t.clear then 4096 * (t.blocksOf runs).length
  else 0

/-- The most that one read of `n` elements along a row can make the decoders deliver. -/
def Tensor.worstRun (t : Tensor) (n : Nat) : Nat :=
  if !t.coded || t.isProtected then 0
  else maxOf (t.rowRuns.flatMap (fun r => (List.range (r.n + 1 - n)).map (fun i =>
    t.decodedOf [⟨r.off + i * t.type.bits, n⟩])))

/-- Decoded bytes of reads. -/
def decodedReads (xs : List (Operand × List Run)) : Nat := (xs.map (fun x => x.1.t.decodedOf x.2)).sum

/-- Decoded bytes of a read of an optional operand. -/
def decodedRuns (o : Option Operand) (f : Tensor → List Run) : Nat := (o.map (fun x => x.t.decodedOf (f x.t))).getD 0

/-- A rate of an optional tensor. -/
def rate (f : Tensor → Nat) (t : Option Tensor) : Nat := (t.map f).getD 0

/-- Elements moved of tensors as HBM bytes in 1/32 byte, with the rate that counts them. -/
def moved (hbm : Tensor → Nat) (xs : List (Option Tensor × Nat)) : Nat := (xs.map (fun x => rate hbm x.1 * x.2)).sum

/-- Counts of a share that only moves data, `hbm` in 1/32 byte, with vector work. -/
def Counts.ofMoved (vec hbm dec : Nat) (n : Nat := 1) : Counts := { vec := vec, hbm := Frac.of hbm (32 * n), dec := Frac.of dec n }

/-- A site as the core's running task. -/
def Site.running (x : Site) : Running := ⟨x.p, x.pl, x.g, x.g.number, x.i, x.t⟩

/-- The most that a core of the task's set counts, by its index. -/
def Site.overCores (x : Site) (f : Nat → Nat) : Nat := maxOf ((List.range x.t.coreCount).map f)

/-! ### Products (R129, R159, R168 to R170) -/

/-- The product of a task at its planned rung, with the stored bytes of its operands. -/
def Site.productShape (x : Site) : Shape :=
  let q := x.t.product
  let fmt := fun (i : Nat) (grad : Bool) => rungFormat x.t.rung (x.g.typeOf i) grad
  let st := fun (i : Nat) => rate Tensor.storedRate (x.g.tensor i)
  ⟨q.M, q.N, q.uses.map (fun u => ⟨u.k, u.streamT, u.statT, fmt u.stream u.streamGrad, fmt u.stat u.statGrad,
      st u.stream, st u.stat⟩), q.form, q.longSum, x.t.coreCount, q.iterations⟩

/-- Totals of a share's operands over the uses: Σ `n` × K × rate. -/
def Shape.total (h : Shape) (n : Nat) (f : UseShape → Nat) : Nat := (h.uses.map (fun u => n * u.k * f u)).sum

/-- How often the streaming and the stationary operand are read, and whether the addend counts as C_sh (R169). -/
def Shape.reads (h : Shape) (c : Cut) (panel b staging : Nat) : Nat × Nat × Bool :=
  if c.mC * c.nC ≤ h.acc then (1, 1, true)
  else (if panel ≤ 32 * staging then 1 else ceilDiv c.nC c.nT, if panel + b ≤ 32 * staging then 1 else ceilDiv c.mC c.mT, false)

/-- Decoded bytes of a product's share (R169, R274): every iteration reads its streaming rows `rA` times and its stationary
columns `rB` times, and the addend once. -/
def Site.productDecoded (x : Site) (sh : Share) (rA rB : Nat) : Nat :=
  let q := x.t.product
  let dec := fun (v : Option Mat) (rows cols : Nat × Nat) => (v.map (fun v => v.t.decodedOf (v.runs rows cols))).getD 0
  ((loopIndices q.counts).map (fun it =>
    (q.uses.map (fun u => rA * dec (u.streamMat x.g it) sh.rows (0, u.k) + rB * dec (u.statMat x.g it) (0, u.k) sh.cols)).sum +
      if q.addend then dec ((x.ten 2).map (fun t => ⟨t, iterOffset it q.strideC, false⟩)) sh.rows sh.cols else 0)).sum

/-- Ops 0x0001 and 0x0002, `staging` being the share S of R170. A frozen group's product counts nothing (R162), nor does
one that completes at once without writing (R107). -/
def Site.productCounts (x : Site) (staging : Nat) : Counts :=
  let q := x.t.product
  let zeroK := q.uses.any (fun u => u.k == 0)
  if x.running.frozenSkip || q.M == 0 || q.N == 0 || q.counts.any (· == 0) || x.running.productTensors.any Tensor.empty ||
      (zeroK && x.t.op == 0x0002) then {}
  else
    let plain := x.t.rung == 3 || zeroK
    let flip := !plain && q.N == 1
    let h := if plain then x.productShape else x.productShape.turned
    let g := vectorGrid x.t.coreCount h.M h.N
    let c := if plain then h.cutOf g.1 g.2 else h.reference
    let a := h.total c.mC (·.sA)
    let b := h.total c.nC (·.sB)
    let panel := h.total c.mT (·.sA)
    let r := h.reads c panel b staging
    let n := c.mC * c.nC
    let out := n * (((x.ten 3).map Tensor.storedRate).getD ((DType.ofCode q.out).getD .uint8).bytes32)
    let add := if q.addend then (if r.2.2 then out else n * rate Tensor.storedRate (x.ten 2)) else 0
    let loops := h.loops
    let dec := x.overCores (fun i => match gridShare q.M q.N c.gM c.gN i flip with
      | some sh => if flip then x.productDecoded sh r.2.1 r.1 else x.productDecoded sh r.1 r.2.1
      | none => 0)
    { arr := if plain then 0 else loops * c.cycles + 128 * h.transposes
      vec := if x.t.rung = 3 ∧ !zeroK then n * (h.uses.map (·.k)).sum * loops + 32768 * h.transposes else 0
      hbm := Frac.of (loops * (r.1 * a + r.2.1 * b + out + add)) 32
      dec := Frac.nat dec }

/-! ### Attention (R184, R185, R189) -/

/-- Numbers of a share of attention on core index `i`: its heads, its KV heads and its query blocks, each as first and
count. -/
def Attn.parts (a : Attn) (n i : Nat) : (Nat × Nat) × (Nat × Nat) × (Nat × Nat) :=
  let sh := a.shareOf n i
  let lo := sh.1.1 / a.group
  (sh.1, (lo, if sh.1.2 = 0 then 0 else (sh.1.1 + sh.1.2 - 1) / a.group + 1 - lo), sh.2)

/-- Indices `first` to `first + count - 1`. -/
def span (x : Nat × Nat) : List Nat := (List.range x.2).map (· + x.1)

/-- The sum of the `n` largest numbers. -/
def topSum (n : Nat) (l : List Nat) : Nat := ((sortBy (fun v => maxOf l - v) l).take n).sum

/-- Decoded bytes of the rows of query block `qb` of one head and batch element. -/
def Attn.blockDecoded (a : Attn) (o : Option Operand) (b h qb : Nat) : Nat :=
  decodedRuns o (fun t => ((List.range 128).map (· + 128 * qb)).filterMap (fun i =>
    if i < a.nq then some (attnRun t a.d i h b) else none))

/-- Decoded bytes of each key block of one KV head and batch element: K and V. -/
def Site.keysDecoded (x : Site) (a : Attn) (nkb b g : Nat) : List Nat :=
  (List.range nkb).map (fun kb => decodedRuns (x.running.slot 1) (fun t => a.keyRuns t (b, g, kb)) +
    decodedRuns (x.running.slot 2) (fun t => a.keyRuns t (b, g, kb)))

/-- Decoded bytes of the mask tensor, which a share reads whole. -/
def Site.maskDecoded (x : Site) (a : Attn) : Nat := decodedRuns (x.running.operand a.mask) (fun t => [⟨0, t.dim 0⟩])

/-- Decoded bytes of a share of op 0x0003: the live key blocks that count most, once per query block of each KV head
(R183). -/
def Site.attnDecoded (x : Site) (a : Attn) (nkb live i : Nat) : Nat :=
  let y := a.parts x.t.coreCount i
  let r := x.running
  x.maskDecoded a + ((List.range a.batch).map (fun b =>
    ((span y.1).map (fun h => ((span y.2.2).map (fun qb => a.blockDecoded (r.slot 0) b h qb)).sum)).sum +
    ((span y.2.1).map (fun g =>
      (if a.paged then 0 else y.2.2.2 * topSum live (x.keysDecoded a nkb b g)) +
      if a.append then ([1, 2].map (fun k => decodedRuns (r.slot k) (fun t =>
        (List.range a.nq).map (fun j => attnRun t a.d j g b)))).sum else 0)).sum)).sum

/-- Live blocks of a query block: the budget, or every key block. -/
def Attn.liveMost (a : Attn) (nkb : Nat) : Nat := if a.budget = 0 then nkb else a.budget

/-- Array cycles of a block product: c_prod of R184. -/
def Site.blockCycles (x : Site) (a : Attn) : Nat := if x.t.rung = 1 then 2 * a.d else 4 * a.d

/-- HBM bytes, in 1/32 byte, of core index `i`'s share of op 0x0003 (R185). -/
def Site.attnBytes (x : Site) (s : State) (a : Attn) (live i : Nat) : Nat :=
  let y := a.parts x.t.coreCount i
  if y.1.2 = 0 ∨ y.2.2.2 = 0 then 0
  else
    let rows := min a.nq (128 * (y.2.2.1 + y.2.2.2)) - 128 * y.2.2.1
    let layer := (x.pl.kvLayers[a.kvLayer]?).map (fun (l : KvLayer) => ((DType.ofCode l.dtype).getD .bf16).bytes32)
    let kvRate := if a.paged then 2 * layer.getD 0 else rate Tensor.storedRate (x.ten 1) + rate Tensor.storedRate (x.ten 2)
    let q := y.1.2 * rows * a.d
    let step := ((x.pl.attnRange a).map (·.aStep)).getD 0
    let append := if a.append then y.2.1.2 * step * a.d * kvRate + 32 * (2 * s.pageBytes) else 0
    let lse := if a.writeLse then 32 * (y.1.2 * rows * 4) else 0
    a.batch * (q * rate Tensor.storedRate (x.ten 0) + q * rate Tensor.storedRate (x.ten 3) + lse +
      y.2.1.2 * y.2.2.2 * live * 128 * a.d * kvRate + append)

/-- Forward attention: cycles and vector work of the first core, whose share has the most heads and query blocks; bytes of
the core that moves most. -/
def Site.attnCounts (x : Site) (s : State) : Counts :=
  let a := x.t.attn
  let y := a.parts x.t.coreCount 0
  if y.1.2 = 0 ∨ y.2.2.2 = 0 then {}
  else
    let nkb := ceilDiv (x.pl.attnKeys a) 128
    let live := a.liveMost nkb
    let units := a.batch * y.1.2 * y.2.2.2
    { att := if x.t.rung = 3 then 0 else 128 + units * (64 + ceilDiv nkb 64 + live * max (x.blockCycles a) 40)
      vec := if x.t.rung = 3 then units * live * (2 * 16384 * a.d + 16384 * 5) else 0
      hbm := Frac.of (x.overCores (x.attnBytes s a live)) 32
      dec := Frac.nat (x.overCores (x.attnDecoded a nkb live)) }

/-- Decoded bytes of a share of op 0x0004 (R187): O and dO for D; per live block Q, dO, lse and the scratch tensor; K and V
once per key block of each KV head; the scratch tensor again at the end. -/
def Site.attnBackDecoded (x : Site) (a : Attn) (nkb live i : Nat) : Nat :=
  let y := a.parts x.t.coreCount i
  let r := x.running
  let row := fun (o : Option Operand) (b h qb : Nat) => decodedRuns o (fun t =>
    ((List.range 128).map (· + 128 * qb)).filterMap (fun i =>
      if i < a.nq then some (⟨t.bitOffset [i, h, b], 1⟩ : Run) else none))
  let scr := fun (b h qb : Nat) => decodedRuns (r.operand a.scratch) (fun t =>
    ((List.range 128).map (· + 128 * qb)).filterMap (fun i =>
      if i < a.nq then some (attnRun t (a.d + 16) i h b) else none))
  x.maskDecoded a + ((List.range a.batch).map (fun b =>
    ((span y.1).map (fun h => ((span y.2.2).map (fun qb =>
      let blk := fun (o : Option Operand) => a.blockDecoded o b h qb
      blk (r.operand a.o) + blk (r.operand a.dO) + scr b h qb +
        live * (blk (r.slot 0) + blk (r.operand a.dO) + row (r.operand a.lse) b h qb + scr b h qb))).sum)).sum +
    ((span y.2.1).map (fun g => (x.keysDecoded a nkb b g).sum)).sum)).sum

/-- Backward attention: the share of the first core, which has the most heads. -/
def Site.attnBackCounts (x : Site) : Counts :=
  let a := x.t.attn
  let heads := (a.shareOf x.t.coreCount 0).1.2
  if heads = 0 ∨ a.nq = 0 then {}
  else
    let nqb := a.queryBlocks
    let nkb := ceilDiv (x.pl.attnKeys a) 128
    let live := a.liveMost nkb
    let blocks := nqb * live
    let st := fun (i : Nat) => rate Tensor.storedRate (x.g.tensor i)
    let sl := x.t.slotIndex
    let per := a.nq * a.d * (st a.o + st a.dO) + blocks * 128 * a.d * (st (sl 0) + st a.dO) + 32 * (blocks * 1024) +
      32 * (blocks * 2 * 128 * (a.d + 16) * 4) + a.nq * (32 * ((a.d + 16) * 4) + a.d * st (sl 3))
    let keys := nkb * 128 * a.d
    { att := if x.t.rung = 3 then 0
        else 128 + a.batch * heads * (nqb * (128 + ceilDiv nkb 64) + nkb * 64 + blocks * (ceilDiv (5 * x.blockCycles a) 2 + 40))
      vec := if x.t.rung = 3 then a.batch * heads * blocks * (5 * 16384 * a.d + 16384 * 8) else 0
      hbm := Frac.of (a.batch * heads * (per * a.group + keys * (st (sl 1) + st (sl 2) + st a.dK + st a.dV))) (32 * a.group)
      dec := Frac.nat (x.overCores (x.attnBackDecoded a nkb live)) }

/-! ### Convolution (R230 to R235) -/

/-- A halo queue delivers the row of a streamed element (R235). -/
def Site.haloHeld (x : Site) (k : ConvRun) (c : List Nat) : Bool :=
  let row := ((c)[1]?).getD 0
  [0, 1].any (fun side => x.t.haloIn.contains (x.t.par (60 + 2 * side) 2) &&
    (let h := k.v.halo (k.operands.1.dim 1) side; decide (h.1 ≤ row ∧ row < h.1 + h.2)))

/-- Rows that count for runs of whole rows: of a Grain tensor every row of the 8-row blocks touched (R258). -/
def Tensor.rowsCounted (t : Tensor) (runs : List Run) : Nat :=
  if !t.grain then runs.length
  else 8 * ((runs.map (fun r => match t.coordsAt r.off with
    | c0 :: c1 :: rest => (c0, c1 / 8, rest)
    | c => (0, 0, c))).eraseDups).length

/-- The reads of packed set `j` of a share. -/
def Site.setReads (x : Site) (k : ConvRun) (sh : Share) (j : Nat) : ConvReads :=
  k.readsOf x.running (x.haloHeld k) ((k.lines j sh).flatten)

/-- Op 0x0005: the cut is the reference tiling's, or R129's grid on the vector unit, and the rows read are those of the
core of the set that reads most. A set's fills count in each set, and the last set at full size (R232). -/
def Site.convCounts (x : Site) (staging : Nat) : Counts :=
  match if x.running.convFrozen then none else x.running.convReady with
  | none => {}
  | some z =>
    let k0 := x.running.convRun z x.t.rung
    let k := { k0 with gp := k0.packedGroups }
    let ops := k.operands
    let sets := ceilDiv k.v.groups k.gp
    let shape := k.shape x.t.coreCount
    let h0 : Shape := { shape with
      uses := shape.uses.map (fun u => ⟨u.k, u.tA, u.tB, u.fA, u.fB, ops.1.storedRate, ops.2.storedRate⟩) }
    let plain := k.onVector
    let flip := !plain && h0.N == 1
    let h := if plain then h0 else h0.turned
    let g := vectorGrid x.t.coreCount h.M h.N
    let c := if plain then h.cutOf g.1 g.2 else h.reference
    let above := fun (f : Share → Nat) => x.overCores (fun i => match gridShare h0.M h0.N c.gM c.gN i flip with
      | none => 0
      | some sh => if sh.rows.2 = 0 ∨ sh.cols.2 = 0 then 0 else f sh)
    let rows := above (fun sh => (((x.setReads k sh 0).stream).map (fun y => y.1.t.rowsCounted y.2)).sum)
    let kk := (h0.uses.map (·.k)).sum
    let stream := rows * ops.1.dim 0 * ops.1.storedRate
    let stat := kk * (if flip then c.mC else c.nC) * ops.2.storedRate
    let b := if flip then stream else stat
    let panel := c.mT * kk * if flip then ops.2.storedRate else ops.1.storedRate
    let rd := h.reads c panel b staging
    let rS := if flip then rd.2.1 else rd.1
    let rF := if flip then rd.1 else rd.2.1
    let n := c.mC * c.nC
    let out := n * rate Tensor.storedRate (x.ten 3)
    let add := if k.v.addend then (if rd.2.2 then out else n * rate Tensor.storedRate (x.ten 2)) else 0
    let dec := above (fun sh => ((List.range sets).map (fun j =>
      let y := x.setReads k sh j
      rS * decodedReads y.stream + rF * decodedReads y.stat + decodedReads y.add)).sum)
    { arr := if plain then 0 else sets * (c.cycles + 128 * h.transposes)
      vec := if plain then sets * (n * kk + if k.v.vector then 0 else 32768 * h.transposes) else 0
      hbm := Frac.of (sets * (rS * stream + rF * stat + out + add)) 32
      dec := Frac.nat dec }

/-! ### Vector kernels, gathers and image operators (R110, R111, R242, R244, R444) -/

/-- Element operations of a kernel (R110); the backward form counts twice. -/
def Task.kernelOps (t : Task) : Nat :=
  (match t.kernel with
    | 0x04 => 8 | 0x05 => 6 | 0x06 => 4 | 0x07 => 6 | 0x08 => 5 | 0x0A => 4 | _ => 1) * if t.kernelBackward then 2 else 1

/-- Op 0x0008: the largest share's slices, with the gain and bias in full and the combination of kernel 0x0B. -/
def Site.vectorCounts (x : Site) : Counts :=
  let t := x.t
  match x.ten 0, x.ten 3, x.running.slot 0 with
  | some a, some out, some in0 =>
    let base := if t.inputSlices then a else out
    let u := ceilDiv base.rows t.coreCount
    let whole := t.kernel == 0x0B
    let reduces := t.kernel == 0x09 || whole
    let reads := fun (i : Nat) => x.running.kernelReads in0 (span (shareOf base.rows t.coreCount i))
    let writes := fun (i : Nat) =>
      if whole then out.rowRuns
      else (span (shareOf base.rows t.coreCount i)).map (fun k =>
        if reduces then ⟨out.bitOffset (out.coords k), 1⟩ else out.sliceRun k)
    Counts.ofMoved (t.kernelOps * (u * (if reduces then a.dim 0 else out.dim 0)) + if whole then t.coreCount else 0)
      (x.overCores (fun i => ((reads i).map (fun y => y.1.t.movedOf y.2)).sum + out.movedOf (writes i)))
      (x.overCores (fun i => decodedReads (reads i)))
  | _, _, _ => {}

/-- Op 0x0009: the largest share's entries; a scatter-add also reads the rows it adds to. A row at a computed index counts as
the row of its tensor that decodes most. -/
def Site.gatherCounts (x : Site) : Counts :=
  match x.ten 0, x.ten 1, x.ten 3 with
  | some a, some idx, some out =>
    let mode := x.t.par 0 1
    let share := fun (i : Nat) => shareOf (idx.dim 0) x.t.coreCount i
    let entries := fun (sh : Nat × Nat) => [(⟨sh.1 * idx.type.bits, sh.2⟩ : Run)]
    let anyRow := fun (t : Tensor) => maxOf ((List.range (t.dim 1)).map (fun k => t.movedOf [t.row2 k]))
    let rows := fun (t : Tensor) (sh : Nat × Nat) => (span sh).map t.row2
    Counts.ofMoved (16 * (ceilDiv (idx.dim 0) x.t.coreCount * a.dim 0))
      (x.overCores (fun i =>
        let sh := share i
        idx.movedOf (entries sh) + (if mode = 1 then sh.2 * anyRow a + out.movedOf (rows out sh)
          else a.movedOf (rows a sh) + (if mode = 3 then 2 else 1) * (sh.2 * anyRow out))))
      (x.overCores (fun i =>
        let sh := share i
        idx.decodedOf (entries sh) + (if mode = 1 then sh.2 * a.worstRun (a.dim 0) else a.decodedOf (rows a sh)) +
          if mode = 3 then sh.2 * out.worstRun (out.dim 0) else 0))
  | _, _, _ => {}

/-- Boxes of the i-th core of an op 0x0006 task (R239). -/
def Crop.boxesOf (v : Crop) (n i : Nat) : List Nat := (List.range v.boxes).filter (fun b => b * n / v.boxes == i)

/-- Op 0x0006 (R242). -/
def Site.cropCounts (x : Site) : Counts :=
  let v := x.t.crop
  match x.ten 0, x.ten 1, x.ten 2, x.ten 3 with
  | some img, some boxes, some idx, some out =>
    let nb := ceilDiv v.boxes x.t.coreCount
    let ch := img.dim 2
    let cols := min (img.dim 0) ((if v.spanLimit = 0 then img.dim 0 else v.spanLimit) + 2)
    let n := nb * v.cw * v.ch * ch
    let segments := fun (b : Nat) => b * v.ch * ch * 2
    Counts.ofMoved (8 * n) (segments nb * cols * img.storedRate + n * out.storedRate + 32 * (20 * nb))
      (x.overCores (fun i =>
        let mine := v.boxesOf x.t.coreCount i
        segments mine.length * img.worstRun cols + boxes.decodedOf (mine.map (fun b => ⟨boxes.bitOffset [0, b], 4⟩)) +
          idx.decodedOf (mine.map (fun b => ⟨b * 32, 1⟩))))
  | _, _, _, _ => {}

/-- Op 0x0007 (R244). -/
def Site.argmaxCounts (x : Site) : Counts :=
  match x.ten 0, x.ten 3 with
  | some a, some out =>
    let axis := x.t.par 0 1
    let u := ceilDiv out.count x.t.coreCount
    let n := u * a.dim axis
    let value := if bitAt (x.t.par 1 1) 0 = 1 then rate Tensor.storedRate (x.ten 2) else 0
    Counts.ofMoved n (n * a.storedRate + u * (out.storedRate + value))
      (x.overCores (fun i => a.decodedOf (cellsAt a ((span (shareOf out.count x.t.coreCount i)).flatMap (fun e =>
        (List.range (a.dim axis)).map (fun k => axisCoords (out.coords e) axis k))))))
  | _, _ => {}

/-! ### Dispatch and combine (R219) -/

/-- Decoded bytes of a share of op 0x000A or 0x000B. A row of an exchange buffer that a choice names counts as the one that
decodes most. -/
def Site.exchangeDecoded (x : Site) (i : Nat) : Nat :=
  let r := x.running
  let mode := x.t.mode
  let e := r.exchange (x.t.coreFirst + i)
  let rows := fun (o : Option Operand) => decodedRuns o (fun t => e.mine.map (fun k => (tensorRow t k).2))
  let buffer := fun (o : Option Operand) => (o.map (fun o => e.mine.length * e.k * maxOf ((List.range e.count).flatMap (fun j =>
    (List.range (e.quota j)).map (fun pos => let y := e.row o.t j pos false; y.1.decodedOf [y.2]))))).getD 0
  let route := rows (r.operand (x.t.par 12 4))
  if x.t.op = 0x000A then match mode with
    | 0x01 => rows (r.slot 1) + e.k * rows (r.slot 0) +
        if e.layer.biased then decodedRuns (r.slot 2) Tensor.rowRuns else 0
    | 0x02 => decodedRuns (r.slot 1) (fun t => e.mine.map (fun k => ⟨k * t.type.bits, 1⟩)) + rows (r.slot 0)
    | 0x81 => route + buffer (r.slot 0) + rows (r.slot 1) + rows (r.slot 2)
    | _ => route + buffer (r.slot 0)
  else match mode with
    | 0x01 => route + buffer (r.slot 0) + rows (r.slot 1)
    | 0x02 => route + buffer (r.slot 0) + rows (r.slot 1)
    | 0x81 => route + rows (r.slot 0) + buffer (r.slot 1)
    | _ => route + rows (r.slot 0)

/-- Ops 0x000A and 0x000B. -/
def Site.exchangeCounts (x : Site) : Counts :=
  let t := x.t
  let mode := t.mode
  let e := x.running.exchange t.coreFirst
  let n := t.coreCount
  let l := e.layer
  let tc := ceilDiv e.tokens n
  let k := l.k
  let row := 32 * l.rowBytes
  let rowOf := fun (j : Nat) => rate (fun (u : Tensor) => u.storedRate * u.dim 0) (x.ten j)
  let d0 := rate (fun (u : Tensor) => u.dim 0) (x.ten 0)
  let q := ((List.range l.experts).map (fun i => ceilDiv (e.quota i) n)).sum * row
  let v := fun (j : Nat) => e.count * ceilDiv (e.quota 0) n * rowOf j
  let logits := tc * rowOf 1
  let b := fun (bytes : Nat) => 32 * bytes
  let stats := if bitAt (t.par 1 1) 0 = 1 then b (8 * l.experts) else 0
  let bias := if l.biased then b (4 * l.experts) else 0
  let work := fun (vec hbm : Nat) => Counts.ofMoved vec hbm (x.overCores x.exchangeDecoded)
  if e.tokens = 0 then {}
  else if t.op = 0x000A then
    if mode = 0x01 then work (tc * (l.experts * (k + 5) + 16 * k))
      (logits + tc * k * rowOf 0 + q + b (64 * l.experts) + b (8 * k * tc) + stats + bias)
    else if mode = 0x02 then work (tc * 16)
      (tc * rate Tensor.storedRate (x.ten 1) + tc * rowOf 0 + v 3 + b (8 * tc) + b tc)
    else if mode = 0x81 then work (tc * (8 * l.experts + l.d * k))
      (logits + tc * k * row + b (4 * k * tc) + b (8 * k * tc) + tc * rowOf 3 + b (4 * l.experts * tc))
    else work (tc * d0) (tc * rowOf 0 + b (8 * tc) + tc * rowOf 3)
  else if mode = 0x01 then work (tc * (l.d * (k + 1))) (tc * k * row + tc * rowOf 1 + tc * rowOf 3 + b (8 * k * tc))
  else if mode = 0x02 then work (tc * (2 * d0)) (tc * (rowOf 0 + rowOf 1 + rowOf 3) + b (8 * tc))
  else if mode = 0x81 then work (tc * (2 * l.d * k))
    (tc * rowOf 0 + tc * k * row + q + b (64 * l.experts) + b (8 * k * tc) + b (4 * k * tc))
  else work (tc * d0) (tc * rowOf 0 + v 3 + b (8 * tc))

/-! ### Transfers of the ledger (R253) -/

/-- Bytes of the raw blocks `lo` to `hi` - 1 of a tensor as it is stored: Grain segments, or 4 KiB each, the last block of
a raw tensor cut at its end. -/
def Tensor.blockBytes (t : Tensor) (lo hi : Nat) : Nat :=
  if t.grain then (hi - lo) * grainSegment t.elemBytes t.grainRate
  else if t.clear then (hi - lo) * 4096
  else min (hi * 4096) t.stored - min (lo * 4096) t.stored

/-- HBM bytes, Negative-store bytes and decoded bytes of blocks `lo` to `hi` - 1 of an op 0x000C task. A space-2 source is
decoded in its package, which counts no term (R268). -/
def Site.moveBytes (x : Site) (lo hi : Nat) : Nat × Nat × Nat :=
  match x.ten 0, x.ten 3 with
  | some a, some b =>
    let at_ := fun (ok : Nat → Bool) => (if ok a.space then a.blockBytes lo hi else 0) + if ok b.space then b.blockBytes lo hi else 0
    let decodes := 4 ≤ x.t.par 0 1 ∧ a.space = 0 ∧ a.coded ∧ !a.isProtected
    (at_ (fun sp => sp == 0 || sp == 3), at_ (· == 2), if decodes then (hi - lo) * 4096 else 0)
  | _, _ => (0, 0, 0)

/-- The blocks of the whole task. -/
def Site.moveRange (x : Site) : Nat × Nat := (x.t.par 4 4, x.t.par 4 4 + x.t.par 8 4)

/-- Op 0x000C: the first core's blocks. -/
def Site.moveCounts (x : Site) : Counts :=
  let r := x.moveRange
  let y := x.moveBytes r.1 (min r.2 (r.1 + ceilDiv (x.t.par 8 4) x.t.coreCount))
  { hbm := Frac.nat y.1, dec := Frac.nat y.2.2, neg := y.2.1 }

/-- The task touches the Negative store (R253). -/
def Site.touchesNeg (x : Site) : Bool := x.t.op == 0x000C && [x.ten 0, x.ten 3].any (fun t => rate (·.space) t == 2)

/-! ### Fabric, updates, takes and outputs (R297, R324, R329, R354, R443) -/

/-- Op 0x000D: `own` is the module's position. -/
def Site.transferCounts (x : Site) (own : Nat) : Counts :=
  let z := x.t.transfer
  let blocks := match x.ten 0 with
    | some t => if z.mode = 2 ∨ t.isProtected then 0 else (clearBlocks (z.source x.running.capTable own t)).length
    | none => 0
  { hbm := Frac.of ((if z.mode = 3 then 2 else 1) * z.length) x.t.coreCount
    dec := Frac.of (4096 * blocks) x.t.coreCount }

/-- Op 0x000E. -/
def Site.reductionCounts (x : Site) : Counts :=
  let n := x.t.reduce.elements
  Counts.ofMoved 0 (n * (rate Tensor.storedRate (x.ten 0) + rate Tensor.storedRate (x.ten 3)))
    (decodedRuns (x.running.slot 0) Tensor.rowRuns) x.t.coreCount

/-- Op 0x000F: the first core's units (R295); a group frozen in the plan counts nothing. -/
def Site.updateCounts (x : Site) : Counts :=
  match x.pl.updateOps x.t.group with
  | none => {}
  | some u =>
    let e := u.e
    if e.frozen then {}
    else
      let n := (x.t.updateShare u.unit 0).2
      let sigma := if e.rule = 4 then 2 else 1
      let t := fun (o : Option Operand) => o.map (·.t)
      let kept := ((u.st1.toList ++ if e.rule = 2 then u.st2.toList else []).map (fun o => (some o.t, n)))
      let master := if e.hasMaster then [(t u.master, n)] else []
      let bytes := moved Tensor.storedRate ((some u.grad.t, n * sigma) :: (if e.hasMaster then master else [(some u.w.t, n)]) ++
        kept ++ (some u.w.t, n) :: master ++ kept)
      let more := (if e.touchMode = 1 then 24 * ceilDiv n u.cols else 0) + (if e.rule = 4 then 16 * (u.w.t.rowCount + u.cols) else 0) +
        if e.gradMult = noTensor then 0 else 64
      let dec := x.overCores (fun i =>
        let els := span (x.t.updateShare u.unit i)
        let rows := (els.map (· / u.cols)).eraseDups
        decodedReads (u.reads els rows rows))
      { Counts.ofMoved 0 (bytes + 32 * more) dec with upd := n * sigma }

/-- Op 0x0010. -/
def Site.takeCounts (x : Site) : Counts :=
  let k := TakePar.ofBytes x.t.params
  { hbm := Frac.of (2 * k.bufferBytes + if k.text && k.ctxFirst != 0xFFFF then 64 * k.rows else 0) x.t.coreCount }

/-- Op 0x0011: the payload's blocks, and those of a header tensor. -/
def Site.emitCounts (x : Site) : Counts :=
  let k := EmitPar.ofBytes x.t.params
  let payload := match x.ten 0 with
    | some t => if t.isProtected then 0 else 4096 * (emitBlocks t k).length
    | none => 0
  let header := if bitAt k.flags 1 = 1 then decodedRuns (x.running.slot 1) (fun _ => [⟨0, 3⟩]) else 0
  { hbm := Frac.nat (2 * k.length), dec := Frac.nat (payload + header) }

/-- The counts of a task's largest share for cores of compute die `d`. -/
def Site.counts (x : Site) (s : State) (d : Nat) : Counts :=
  let staging := s.stagingShare x.p d x.pl
  if x.running.usesEmpty && x.t.op != 0x0001 && x.t.op != 0x0002 then {}
  else match x.t.op with
  | 0x0001 | 0x0002 => x.productCounts staging
  | 0x0003 => x.attnCounts s
  | 0x0004 => x.attnBackCounts
  | 0x0005 => x.convCounts staging
  | 0x0006 => x.cropCounts
  | 0x0007 => x.argmaxCounts
  | 0x0008 => x.vectorCounts
  | 0x0009 => x.gatherCounts
  | 0x000A | 0x000B => x.exchangeCounts
  | 0x000C => x.moveCounts
  | 0x000D => x.transferCounts s.position
  | 0x000E => x.reductionCounts
  | 0x000F => x.updateCounts
  | 0x0010 => x.takeCounts
  | 0x0011 => x.emitCounts
  | _ => {}

/-! ### Times -/

/-- B_neg in bytes per ns (Dies, Stacks, Grades and Assembly Ratios). -/
def Fitted.negRate (f : Fitted) : Nat := if f.io = 2 then 540 else if f.io = 3 then 810 else 1090

/-- The worst-case time of counts in ns on a core of die `d` (R31): clock floor `f` in 100 MHz units; `sharers` is c_e of
R253; h_core is 2.56 TB/s × 0.80 a stack, d_core 16 × 128 B × 1.8 GHz × 0.80 and D_core 4 × 24 × 1.8 GHz, each divided
among the die's cores. -/
def State.worstTime (s : State) (p d f sharers : Nat) (k : Counts) : Frac :=
  let cores := s.fitted.coresPerDie
  let stackIds := s.fitted.stacksOn d
  let cycles := fun (n : Nat) => Frac.of (10 * n) f
  let negShare := Frac.of (k.neg * sharers * 4 * 10) (s.fitted.negRate * (s.diesOf p).length * 8)
  ((Frac.nat 2000).add (cycles 512)).add (maxFrac
    [cycles k.arr, Frac.of (10 * k.vec) (256 * f), cycles k.att, k.hbm.times cores (2048 * stackIds),
     Frac.of (k.upd * cores * 10) (1728 * stackIds), k.dec.times (100 * cores) (294912 * stackIds), negShare])

/-- The compute dies of a task's cores. -/
def State.taskDies (s : State) (t : Task) : List Nat := (t.cores.map s.fitted.dieOf).eraseDups

/-- wc of a task (R31, R34): its largest share on the slowest die of its set. -/
def State.wc (s : State) (f sharers : Nat) (x : Site) : Frac :=
  maxFrac ((s.taskDies x.t).map (fun d => s.worstTime x.p d f sharers (x.counts s d)))

end Sys2Proof.Machine
end

