-- ==== Sys2Proof/Machine/Meter.lean ====
section
/-! DEFINITION. The light meter (R30 to R39): the finish bound of every task and slot, the checks of an exposure, queue and
landing credits, and the entries of the refusal report. -/

namespace Sys2Proof.Machine

/-! ### Report entries (R39) -/

/-- An entry of the refusal report; a field that does not apply holds all ones. -/
structure MeterEntry where
  reason : Nat
  detail : Nat := 0
  graph : Nat := 0xFF
  task : Nat := 0xFFFF
  core : Nat := 0xFFFF
  exposure : Nat := 0xFFFF
  port : Nat := 0xFFFF
  resource : Nat := 0xFFFFFFFF
  bound : Nat := 0xFFFFFFFF
  limit : Nat := 0xFFFFFFFF
  deriving DecidableEq, Repr

/-- The 32 bytes of an entry; a bound or limit past 32 bits saturates. -/
def MeterEntry.bytes (e : MeterEntry) : List Byte :=
  let top := fun (n : Nat) => min n 0xFFFFFFFF
  leBytes e.reason 1 ++ leBytes e.detail 1 ++ leBytes e.graph 1 ++ leBytes 0 1 ++ leBytes e.task 2 ++ leBytes e.core 2 ++
    leBytes e.exposure 2 ++ leBytes e.port 2 ++ leBytes e.resource 4 ++ leBytes (top e.bound) 4 ++ leBytes (top e.limit) 4 ++
    leBytes 0 8

/-- Reason codes of R39. -/
inductive Reason
  | taskTooLong | exposureOverrun | slotNotReady | slotOverlap | slotPastBudget | barrierGuard | guardTooShort
  | negStoreBudget | creditWait | laterDependence | stepShape | timeNotLocked | floorNotSustained | structural | subsystem
  deriving DecidableEq, Repr

/-- The code of a reason. -/
def Reason.code : Reason → Nat
  | .taskTooLong => 1 | .exposureOverrun => 2 | .slotNotReady => 3 | .slotOverlap => 4 | .slotPastBudget => 5
  | .barrierGuard => 6 | .guardTooShort => 7 | .negStoreBudget => 8 | .creditWait => 9 | .laterDependence => 10
  | .stepShape => 11 | .timeNotLocked => 12 | .floorNotSustained => 13 | .structural => 14 | .subsystem => 15

/-! ### What a check works on -/

/-- The values a check takes as they stand (R26): partition, plan, clock floor in 100 MHz, L in ns, the budget B of R34 and
G. -/
structure Check where
  p : Nat
  pl : Plan
  floor : Nat
  len : Nat
  budget : Nat
  guard : Nat
  deriving DecidableEq, Repr

/-- The check of a plan of partition `p` under the registers. -/
def State.checkOf (s : State) (p : Nat) (pl : Plan) : Check :=
  let l := s.get (Reg.tickExposureLen_lenUs p)
  ⟨p, pl, s.clockFloor p, l * 1000, l * 10 * (100 - s.get (Reg.tickReserve_reservePct p)), s.get (Reg.tickBarrierGuard_guardNs p)⟩

/-- Every task of a plan, in ascending graph and task. -/
def Check.sites (k : Check) : List Site :=
  k.pl.allTasks.filterMap (fun x => (k.pl.graph x.1).map (fun g => ⟨k.p, k.pl, g, x.2.1, x.2.2⟩))

/-- The fabric section. -/
def Check.sec (k : Check) : List Byte := k.pl.section 2

/-- The slot entries. -/
def Check.slots (k : Check) : List FabSlot := if k.pl.hasSection 2 then fabSlots k.sec else []

/-- The plan's dies' part of B_neg, times four: B_neg × dies (R252). -/
def State.negRate4 (s : State) (p : Nat) : Nat := s.fitted.negRate * (s.diesOf p).length

/-! ### Slots (R33, R317, R318) -/

/-- The slots that a task sends in, and those whose data it receives. -/
def Site.slotsOf (x : Site) (sec : List Byte) : List Nat × List Nat :=
  match x.t.op with
  | 0x000D =>
    let z := x.t.transfer
    let l := (List.range z.ports).map (· + z.slotFirst)
    if z.mode = 1 then (l, []) else if z.mode = 2 then ([], l) else ([], [])
  | 0x000E =>
    let z := x.t.reduce
    let legs := z.legs (z.stripesOf sec)
    let of := fun (out : Bool) => (legs.filter (fun l => (l.kind == .upOut || l.kind == .downOut) == out)).flatMap (fun l =>
      (List.range z.ports).map (· + l.first))
    (of true, of false)
  | _ => ([], [])

/-- When a slot's data are present at the consumer (R33). -/
def FabSlot.arrival (e : FabSlot) : Nat := e.stop + 300 + 36 * e.relays + e.switchNs

/-- The windows of a slot on this module's ports: port, direction (0 in, 1 out), start, end (R318). -/
def FabSlot.windows (e : FabSlot) : List (Nat × Nat × Nat × Nat) :=
  let inside := (e.portIn, 0, e.start + e.offsetNs, e.stop + e.offsetNs)
  match e.role with
  | 1 => [(e.portOut, 1, e.start, e.stop)]
  | 2 => [inside]
  | _ => [inside, (e.portOut, 1, e.start + e.offsetNs + 36, e.stop + e.offsetNs + 36)]

/-- The end of a slot's last window. -/
def FabSlot.finish (e : FabSlot) : Nat := (e.windows.map (·.2.2.2)).foldl max 0

/-! ### Finish bounds (R33, R34) -/

/-- A task with its wc, the lowest core of its set with the largest S, and its finish bound F, in ns. -/
structure Timed where
  x : Site
  wc : Frac
  core : Nat
  fin : Frac

/-- δ between two tasks: 40 ns when every core of both lies on one compute die, 120 ns otherwise. -/
def State.delta (s : State) (a b : Task) : Nat := if ((s.taskDies a) ++ s.taskDies b).eraseDups.length ≤ 1 then 40 else 120

/-- The bound of one task after those before it: a is the latest token and the latest slot's data, and a sending task
ends no earlier than its last send slot (R318). -/
def State.timeTask (s : State) (k : Check) (sums : List Frac) (done : List Timed) (x : Site) (wc : Frac) : Timed :=
  let inE := fun (l : List Nat) => l.filterMap (fun i => (k.slots[i]?).filter (fun e => e.exposure == x.t.exposure))
  let sl := x.slotsOf k.sec
  let tokens := (done.filter (fun d => d.x.g.number == x.g.number && x.t.preds.contains d.x.i)).map (fun d =>
    d.fin.add (Frac.nat (s.delta d.x.t x.t)))
  let a := maxFrac (tokens ++ (inE sl.2).map (fun e => Frac.nat e.arrival))
  let sum := fun (c : Nat) => (sums[c]?).getD (Frac.nat 0)
  let core := x.t.cores.foldl (fun b c => if (sum b).lt (sum c) then c else b) x.t.coreFirst
  ⟨x, wc, core, maxFrac ((a.add (sum core)) :: (inE sl.1).map (fun e => Frac.nat e.stop))⟩

/-- The next task in topological order: the first of the rest whose predecessors in the exposure are all done. -/
def nextReady (rest : List (Site × Frac)) : Option (Site × Frac) :=
  rest.find? (fun x => !rest.any (fun y => y.1.g.number == x.1.g.number && x.1.t.preds.contains y.1.i))

/-- The bounds of the tasks of an exposure in topological order, `n` of them. -/
def State.timeTasks (s : State) (k : Check) (sums : List Frac) : Nat → List (Site × Frac) → List Timed → List Timed
  | 0, _, done => done
  | n + 1, rest, done =>
    match nextReady rest with
    | none => done
    | some x => s.timeTasks k sums n (rest.filter (fun y => !(y.1.g.number == x.1.g.number && y.1.i == x.1.i)))
        (done ++ [s.timeTask k sums done x.1 x.2])

/-- The bounds of exposure `e`. -/
def State.timeExposure (s : State) (k : Check) (sites : List Site) (e : Nat) : List Timed :=
  let ts := sites.filter (fun x => x.t.exposure == e)
  let sharers := ((ts.filter Site.touchesNeg).flatMap (fun x => x.t.cores)).eraseDups.length
  let ws := ts.map (fun x => (x, s.wc k.floor sharers x))
  let sums := (List.range s.fitted.ccc).map (fun c => sumFrac ((ws.filter (fun x => x.1.t.cores.contains c)).map (·.2)))
  s.timeTasks k sums ws.length ws []

/-! ### The checks of an exposure (item 6 of R30) -/

/-- TASK_TOO_LONG and EXPOSURE_OVERRUN of a task. -/
def Check.taskEntries (k : Check) (t : Timed) : List MeterEntry :=
  let one := fun (r : Reason) (v : Frac) => if k.budget < v.up then
      [({ reason := r.code, graph := t.x.g.number, task := t.x.i, core := t.core, exposure := t.x.t.exposure
          bound := v.up, limit := k.budget } : MeterEntry)] else []
  one .taskTooLong t.wc ++ one .exposureOverrun t.fin

/-- When what a slot sends can be at its port: the largest F of the sending task's predecessors, and each dependency's
arrival, plus 200 ns (R318); a dependency of an earlier exposure may arrive after the tick. -/
def Check.readyAt (k : Check) (ts : List Timed) (i : Nat) (e : FabSlot) : Frac :=
  let sender := ts.find? (fun t => (t.x.slotsOf k.sec).1.contains i)
  let own := match sender with
    | none => []
    | some t => (ts.filter (fun d => d.x.g.number == t.x.g.number && t.x.t.preds.contains d.x.i)).map (fun d =>
        d.fin.add (Frac.nat 200))
  let deps := (((fabDeps k.sec).drop e.depFirst).take e.depCount).filterMap (fun d => (k.slots[d]?).map (fun x =>
    Frac.nat (x.arrival + 200 + x.exposure * k.len - e.exposure * k.len)))
  maxFrac (own ++ deps)

/-- SLOT_NOT_READY and SLOT_PAST_BUDGET of a slot. -/
def Check.slotEntries (k : Check) (ts : List Timed) (i : Nat) (e : FabSlot) : List MeterEntry :=
  let r := (k.readyAt ts i e).up
  let base : MeterEntry := { reason := 0, exposure := e.exposure, port := e.port, resource := i }
  (if e.start < r then [{ base with reason := Reason.slotNotReady.code, bound := r, limit := e.start }] else []) ++
    if k.budget < e.finish then [{ base with reason := Reason.slotPastBudget.code, bound := e.finish, limit := k.budget }] else []

/-- SLOT_OVERLAP: each window of an exposure that another of a lower slot meets on its port and direction; bound is the
end of the other, limit this window's start. -/
def Check.overlapEntries (k : Check) (e : Nat) : List MeterEntry :=
  let ws := (k.slots.zipIdx.filter (fun x => x.1.exposure == e)).flatMap (fun x => x.1.windows.map (fun w => (x.2, w)))
  let order := sortBy (fun (x : Nat × Nat × Nat × Nat × Nat) => (x.2.1 * 2 + x.2.2.1) * 65536 + x.1) ws
  order.filterMap (fun x =>
    let meets := ws.filter (fun y => decide (y.1 < x.1) && y.2.1 == x.2.1 && y.2.2.1 == x.2.2.1 &&
      decide (y.2.2.2.1 < x.2.2.2.2 ∧ x.2.2.2.1 < y.2.2.2.2))
    if meets.isEmpty then none
    else some { reason := Reason.slotOverlap.code, exposure := e, port := x.2.1, resource := x.1
                bound := (meets.map (·.2.2.2.2)).foldl max 0, limit := x.2.2.2.1 })

/-- Negative-store bytes of an exposure (R253). -/
def negBytes (ts : List Timed) : Nat :=
  ((ts.filter (fun t => t.x.touchesNeg)).map (fun t => (t.x.moveBytes t.x.moveRange.1 t.x.moveRange.2).2.1)).sum

/-- NEG_STORE_BUDGET: 0.80 × B_neg × dies / 4 × budget bytes, in 64-byte units. -/
def State.negEntries (s : State) (k : Check) (e : Nat) (ts : List Timed) : List MeterEntry :=
  let n := negBytes ts
  let room := s.negRate4 k.p * k.budget
  if n * 5 ≤ room then []
  else [{ reason := Reason.negStoreBudget.code, exposure := e, bound := ceilDiv n 64, limit := room / (5 * 64) }]

/-! ### Margins (R38) -/

/-- A margin with its exposure and core. -/
structure Margin where
  ns : Int
  exposure : Nat
  core : Nat
  deriving DecidableEq, Repr

/-- The smaller margin; ties to the lower exposure, then to the lower core. -/
def Margin.min (a b : Margin) : Margin :=
  if b.ns < a.ns ∨ (b.ns = a.ns ∧ (b.exposure < a.exposure ∨ (b.exposure = a.exposure ∧ b.core < a.core))) then b else a

/-- The task of an exposure with the largest F. DESIGN CHOICE (log entry 67): of several the first in topological order, whose
core is then worst_core. -/
def latest (ts : List Timed) : Option Timed :=
  ts.foldl (fun (b : Option Timed) t => match b with
    | none => some t
    | some x => if x.fin.lt t.fin then some t else some x) none

/-- The bound of exposure P - 1: its largest F plus G. -/
def Check.lastBound (k : Check) (ts : List Timed) : Nat := (((latest ts).map (·.fin)).getD (Frac.nat 0)).up + k.guard

/-- The margins of an exposure's tasks and slots. -/
def Check.margins (k : Check) (e : Nat) (ts : List Timed) : List Margin :=
  ts.map (fun t => ⟨(k.budget : Int) - t.fin.up, e, t.core⟩) ++
    (k.slots.filter (fun x => x.exposure == e)).map (fun x => ⟨(k.budget : Int) - x.finish, e, 0xFFFFFFFF⟩)

/-! ### Credits (R35, R115, R323) -/

/-- Distinct numbers of a list in rising order. -/
def inOrder (l : List Nat) : List Nat := sortBy id l.eraseDups

/-- CREDIT_WAIT of a queue: the writes of tasks that name it on their write side against its entries. DESIGN CHOICE (log entry
67): an entry stands for each exposure that holds writes of the queue, and none for a later one without. -/
def queueEntries (sites : List Site) (q : Nat) (e : QueueEntry) : List MeterEntry :=
  let times := fun (f : Task → Bool) => (sites.filter (fun x => f x.t)).map (·.t.exposure)
  let ws := times (fun t => t.queueOut == q || t.haloOut.contains q)
  let rs := times (fun t => t.queueIn == q || t.haloIn.contains q)
  let upTo := fun (l : List Nat) (n : Nat) => (l.filter (fun x => decide (x < n))).length
  let at_ := (inOrder ws).filterMap (fun x =>
    let own := (ws.filter (· == x)).length * e.writes
    let above := upTo ws (x + 1) * e.writes - upTo rs x * e.reads
    let b := max above (if rs.contains x then own else 0)
    if b ≤ e.entries then none
    else some ({ reason := Reason.creditWait.code, core := e.producer, exposure := x, resource := q, bound := b
                 limit := e.entries } : MeterEntry))
  at_ ++ if ws.length * e.writes = rs.length * e.reads then []
    else [{ reason := Reason.creditWait.code, core := e.producer, resource := q, bound := ws.length * e.writes
            limit := rs.length * e.reads }]

/-- CREDIT_WAIT of a landing entry of this module as receiver. -/
def Check.landingEntries (k : Check) (sites : List Site) (i : Nat) (l : Landing) : List MeterEntry :=
  if l.role ≠ 1 then []
  else
    let rs := sites.filter (fun x => x.t.op == 0x000D && x.t.transfer.mode == 2 && x.t.transfer.landing == i)
    let recv := rs.map (·.t.exposure)
    let cons := ((rs.map (fun x => (x.g.number, x.t.transfer.consumer))).eraseDups).filterMap (fun c =>
      (k.pl.task c.1 c.2).map (·.exposure))
    let upTo := fun (l : List Nat) (n : Nat) => (l.filter (fun x => decide (x < n))).length
    let at_ := (inOrder recv).filterMap (fun x =>
      let b := upTo recv (x + 1) - upTo cons x
      if b ≤ l.depth then none
      else some ({ reason := Reason.creditWait.code, exposure := x, resource := i, bound := b, limit := l.depth } : MeterEntry))
    at_ ++ if recv.length = cons.length then []
      else [{ reason := Reason.creditWait.code, resource := i, bound := recv.length, limit := cons.length }]

/-! ### Structural entries (item 4 of R30) -/

/-- The partition's ports whose neighbour or whose ranks differ from what training and the control FLITs gave (R315). -/
def State.strangePorts (s : State) (k : Check) : List Nat :=
  if !k.pl.hasSection 2 then []
  else ((fabPorts k.sec).zipIdx.filter (fun x => x.1.attach == 1 &&
    !(s.flag (Reg.fabPort_neighbourValid x.2) && s.get (Reg.fabPort_neighbour x.2) == x.1.neighbour &&
      (s.port x.2).ranks == x.1.inRank))).map (·.2)

/-- An op 0x0011 task whose pool is no output pool, or too small for its output (R443). -/
def State.badEmit (s : State) (x : Site) : Bool :=
  x.t.op == 0x0011 && (let e := EmitPar.ofBytes x.t.params
    s.poolUse x.p e.pool != 3 || decide (s.slotBytes x.p e.pool < e.length))

/-- A long sum of more than K_LONG products without long-sum mode (R131, R230). -/
def State.longSumBad (s : State) (x : Site) : Bool :=
  ((x.t.op == 0x0001 || x.t.op == 0x0002) && !s.longSumOk x.t) || (x.t.op == 0x0005 && !x.convLongSum s)

/-- The STRUCTURAL entries. -/
def State.structuralEntries (s : State) (k : Check) (sites : List Site) : List MeterEntry :=
  let of := fun (n core : Nat) (x : Site) => (
    { reason := Reason.structural.code, detail := n, graph := x.g.number, task := x.i
      core := core, exposure := x.t.exposure } : MeterEntry)
  (s.strangePorts k).map (fun n => { reason := Reason.structural.code, detail := 6, port := n }) ++
    (sites.filter (fun x => !s.coresOk k.p x.t)).map (fun x =>
      of 10 ((x.t.cores.find? (fun c => !s.usableCore k.p c)).getD 0xFFFF) x) ++
    (sites.filter (fun x => s.longSumBad x || s.badEmit x)).map (fun x => of 13 x.t.coreFirst x) ++
    if s.flag Reg.sysInvStatus_mismatch then [{ reason := Reason.structural.code, detail := 21 }] else []

/-- LATER_DEPENDENCE entries (R28). -/
def Check.laterEntries (k : Check) (sites : List Site) : List MeterEntry :=
  sites.flatMap (fun x => x.t.preds.filterMap (fun j => (k.pl.task x.g.number j).bind (fun q =>
    if q.exposure ≤ x.t.exposure then none
    else some { reason := Reason.laterDependence.code, graph := x.g.number, task := x.i, core := x.t.coreFirst
                exposure := x.t.exposure, resource := j, bound := q.exposure, limit := x.t.exposure })))

/-! ### Power at the floor (R391) -/

/-- P_est(f) in W, `f` in 100 MHz. -/
def Fitted.estimate (x : Fitted) (f : Nat) : Frac :=
  Frac.of (1086 * (x.ccc * 1797 * f * f + 129600 * (x.ss * 35 + x.io * 105 + 220))) 129600000

/-- The highest floor among the plan's partition and every partition with an admitted plan. -/
def State.highestFloor (s : State) (k : Check) : Nat := max k.floor (s.admittedFloor.getD 0)

end Sys2Proof.Machine
end

