-- ==== Sys2Proof/Machine/Accounts.lean ====
section
/-! DEFINITION. The capacity accounts of the light meter (R37): the activation ledger (R247 to R250), expert capacity (R220),
contexts and KV pages (R194), and the stop-bath window with the privileged allowance (R374, R375). -/

namespace Sys2Proof.Machine

/-- An entry of an account. -/
def account (detail : Nat) : MeterEntry := { reason := Reason.subsystem.code, detail := detail }

/-! ### The activation ledger -/

/-- An entry of the ledger plan (R247). -/
structure LedgerEntry where
  graph : Nat
  policy : Nat
  tensor : Nat
  live : Nat × Nat
  reprint : Nat × Nat
  deriving DecidableEq, Repr

/-- Read an entry. -/
def LedgerEntry.ofBytes (b : List Byte) : LedgerEntry :=
  ⟨fieldAt b 0 1, fieldAt b 1 1, fieldAt b 4 4, (fieldAt b 8 2, fieldAt b 10 2), (fieldAt b 12 2, fieldAt b 14 2)⟩

/-- The ledger plan's entries. -/
def Plan.ledger (pl : Plan) : List LedgerEntry :=
  if pl.hasSection 7 then (records (pl.section 7) 16 16 (fieldAt (pl.section 7) 0 4)).map LedgerEntry.ofBytes else []

/-- An entry as case 1 of R249 asks, `before` being the entries above it. -/
def Plan.ledgerEntryOk (pl : Plan) (before : List LedgerEntry) (e : LedgerEntry) : Bool :=
  match (pl.graph e.graph).bind (fun g => g.tensor e.tensor) with
  | none => false
  | some t => !t.persistent && t.policy == e.policy && before.all (fun x => !(x.graph == e.graph && x.tensor == e.tensor)) &&
      decide (e.live.1 ≤ e.live.2 ∧ e.live.2 < pl.planned) &&
      if e.policy = 3 then decide (e.live.2 < e.reprint.1 ∧ e.reprint.1 ≤ e.reprint.2 ∧ e.reprint.2 < pl.planned)
      else e.reprint == (0xFFFF, 0xFFFF)

/-- The entries of a ledger plan with whether each is as case 1 asks. -/
def Plan.judgedLedger (pl : Plan) : List (LedgerEntry × Bool) :=
  let es := pl.ledger
  es.zipIdx.map (fun x => (x.1, pl.ledgerEntryOk (es.take x.2) x.1))

/-- The intervals that an entry gives. -/
def LedgerEntry.intervals (e : LedgerEntry) : List (Nat × Nat) := if e.policy = 3 then [e.live, e.reprint] else [e.live]

/-- A tensor of the plan with its place and its intervals; none for a persistent one (R248). -/
structure Held where
  graph : Nat
  i : Nat
  t : Tensor
  live : Option (List (Nat × Nat))

/-- Every tensor of the plan, in rising space and base. -/
def Plan.heldTensors (pl : Plan) : List Held :=
  let es := (pl.judgedLedger.filter (·.2)).map (·.1)
  let all := (List.range 16).flatMap (fun gn => match pl.graph gn with
    | none => []
    | some g => g.tensors.zipIdx.map (fun x =>
        let iv := ((es.find? (fun e => e.graph == gn && e.tensor == x.2)).map LedgerEntry.intervals).getD [(0, pl.planned - 1)]
        (⟨gn, x.2, x.1, if x.1.persistent then none else some iv⟩ : Held)))
  sortBy (fun h => h.t.space * 2 ^ 64 + h.t.base) all

/-- The resource field of R249: case and tensor. -/
def ledgerCase (case graph i : Nat) : MeterEntry := { account 1 with graph := graph, resource := case * 2 ^ 24 + i % 2 ^ 24 }

/-- The end of the interval nearest an exposure outside them all. -/
def nearestEnd (iv : List (Nat × Nat)) (e : Nat) : Nat :=
  let ends := iv.flatMap (fun x => [x.1, x.2])
  let dist := fun (a : Nat) => (a - e) + (e - a)
  ends.foldl (fun b a => if dist a < dist b then a else b) ((ends.head?).getD 0)

/-- The first exposure that two tensors share: 0 with a persistent one. -/
def sharedExposure (a b : Held) : Option Nat := match a.live, b.live with
  | some x, some y =>
    ((x.flatMap (fun u => y.filterMap (fun v =>
      if max u.1 v.1 ≤ min u.2 v.2 then some (max u.1 v.1) else none))).foldl (fun (m : Option Nat) n => match m with
        | none => some n
        | some k => some (min k n)) none)
  | _, _ => some 0

/-- Case 2: a task that names a tensor outside its intervals. -/
def Plan.caseTwo (pl : Plan) : List MeterEntry :=
  let es := (pl.judgedLedger.filter (·.2)).map (·.1)
  pl.allTasks.flatMap (fun x => (inOrder (x.2.2.readSet ++ x.2.2.writeSet)).filterMap (fun i =>
    (es.find? (fun e => e.graph == x.1 && e.tensor == i)).bind (fun e =>
      let n := x.2.2.exposure
      if e.intervals.any (fun v => decide (v.1 ≤ n ∧ n ≤ v.2)) then none
      else some { ledgerCase 2 x.1 i with exposure := n, bound := n, limit := nearestEnd e.intervals n })))

/-- Case 3: two tensors that share a byte while both live; the entry names the one that lies higher. -/
def caseThree (hs : List Held) : List MeterEntry :=
  hs.zipIdx.flatMap (fun x => (hs.drop (x.2 + 1)).filterMap (fun b =>
    let a := x.1
    if a.t.space != b.t.space || !overlaps a.t.base a.t.stored b.t.base b.t.stored then none
    else (sharedExposure a b).map (fun e => { ledgerCase 3 b.graph b.i with exposure := e, bound := e })))

/-- A tensor and the protected ranges (case 5). -/
def State.protectionOk (s : State) (p : Nat) (t : Tensor) : Bool :=
  let rs := (s.protRanges p).filter (fun r => r.1 == (if t.space = 2 then 1 else 0))
  let here := t.space == 0 || t.space == 2
  if t.isProtected then here && rs.any (fun r => within t.base t.stored r.2.1 r.2.2)
  else !(here && rs.any (fun r => overlaps t.base t.stored r.2.1 r.2.2))

/-- The activation account (detail 1), in ascending resource. -/
def State.ledgerEntries (s : State) (k : Check) : List MeterEntry :=
  let hs := k.pl.heldTensors
  let allot := s.get (Reg.memNegPartSize k.p) * 2 ^ 30
  let neg := hs.filter (fun h => h.t.space == 2)
  let one := (k.pl.judgedLedger.filter (fun x => !x.2)).map (fun x => ledgerCase 1 x.1.graph x.1.tensor)
  let four := (neg.filter (fun h => decide (allot < h.t.base + h.t.stored))).map (fun h =>
    { ledgerCase 4 h.graph h.i with bound := ceilDiv (h.t.base + h.t.stored) 64, limit := allot / 64 })
  let five := (hs.filter (fun h => !s.protectionOk k.p h.t)).map (fun h => { ledgerCase 5 h.graph h.i with bound := h.t.base / 64 })
  let six := if s.flag Reg.memNegStatus_wiped then [] else neg.map (fun h => ledgerCase 6 h.graph h.i)
  sortBy (·.resource) (one ++ k.pl.caseTwo ++ caseThree hs ++ four ++ five ++ six)

/-- Live bytes of a space in an exposure at stored extents (R250). -/
def liveBytes (hs : List Held) (space e : Nat) : Nat :=
  ((hs.filter (fun h => h.t.space == space && match h.live with
    | none => true
    | some iv => iv.any (fun v => decide (v.1 ≤ e ∧ e ≤ v.2)))).map (fun h => h.t.stored)).sum

/-- The peaks of R250: HBM bytes, Negative-store bytes and the first exposure of the HBM peak. The largest value is
reached at an exposure at which some interval starts. -/
def Plan.ledgerPeaks (pl : Plan) : Nat × Nat × Nat :=
  let hs := pl.heldTensors
  let es := inOrder (0 :: (hs.flatMap (fun h => (h.live.getD []).map (·.1))))
  let hbm := es.foldl (fun (b : Nat × Nat) e => if b.1 < liveBytes hs 0 e then (liveBytes hs 0 e, e) else b) (liveBytes hs 0 0, 0)
  (hbm.1, (es.map (liveBytes hs 2)).foldl max 0, hbm.2)

/-! ### Expert capacity (R220) -/

/-- The most payload bytes that a slot carries at `rate` tenths of GB/s (R306). -/
def FabSlot.payload (e : FabSlot) (rate : Nat) (tagged : Bool) : Nat :=
  let head := if tagged then 48 else 32
  let cap := e.capacity rate
  let rest := cap % (4096 + head)
  64 * (64 * (cap / (4096 + head)) + if head < rest then (rest - head) / 64 else 0)

/-- Bytes that the reserved slots of each transfer of a chunk hold: the transfers of this mode, placement, layer and peer. -/
def State.chunkCarried (s : State) (k : Check) (mode placement layer peer : Nat) : List Nat :=
  let tagged := (s.part k.p).fabricKey.isSome
  let xs := k.sites.filter (fun x => x.t.op == 0x000D && x.t.transfer.mode == mode && x.t.transfer.placement == placement &&
    x.t.transfer.expertLayer == layer && x.t.transfer.peer == peer)
  xs.map (fun x =>
    (((x.slotsOf k.sec).1 ++ (x.slotsOf k.sec).2).map (fun i =>
      ((k.slots[i]?).map (fun e => e.payload (s.slotRate e.port) tagged)).getD 0)).sum)

/-- The cases of R220 for layer `i`, which `tasks` of the module dispatch forward and `named` dispatch in either mode. Case 4
tests every transfer of a chunk that the plan has; a chunk of a layer that the module dispatches or hosts and that no
transfer carries counts as carried by 0 bytes. -/
def State.expertCases (s : State) (k : Check) (i : Nat) (l : ExpertLayer) (named tasks : List Site) : List MeterEntry :=
  let sec := k.pl.section 5
  let ps := l.placed sec
  let own := s.position
  let entry := fun (j bound limit : Nat) => { account 2 with resource := i * 65536 + j, bound := bound, limit := limit }
  let srcs := l.sourceList sec
  let mine := (srcs.filter (· == own)).length
  let one := if named.isEmpty || mine == 1 then [] else [entry 0xFFFF mine 1]
  let known := fun (h : Nat) => h == own || (k.pl.hasSection 2 && (fabRoute k.sec h).isSome)
  let two := (ps.filter (fun q => !known q.host)).map (fun q => entry q.e 1 0)
  let three := (hostsOf ps).filterMap (fun h =>
    let es := expertsAt ps h
    let ok := (es.zipIdx.filter (fun x => x.1.loc == x.2)).length
    if ok = es.length then none else some (entry ((es.head?).map (·.e) |>.getD 0) es.length ok))
  let carry := fun (must : Bool) (mode placement peer j : Nat) (need : Nat) =>
    let cs := s.chunkCarried k mode placement i peer
    ((if must && cs.isEmpty then [0] else cs).filter (fun c => decide (c < need))).map (entry j need)
  let bytes := fun (h : Nat) (t : Bool) => chunkBytes l.rowBytes ps h t
  let first := fun (h : Nat) => ((expertsAt ps h).head?).map (·.e) |>.getD 0
  let out := ((hostsOf ps).filter (· != own)).flatMap (fun h =>
    let must := !named.isEmpty
    carry must 1 1 h (first h) (bytes h true) ++ carry must 2 2 h (first h) (bytes h false))
  let hosted := if (expertsAt ps own).isEmpty then [] else (srcs.zipIdx.filter (fun x => x.1 != own)).flatMap (fun x =>
    carry true 2 1 x.1 x.2 (bytes own true) ++ carry true 1 2 x.1 x.2 (bytes own false))
  let five := (inOrder (tasks.map (·.t.exposure))).filterMap (fun e =>
    let n := (tasks.filter (fun x => x.t.exposure == e)).length
    if n < 2 then none else some { entry 0xFFFF n 1 with exposure := e })
  one ++ two ++ three ++ out ++ hosted ++ five

/-- The expert account (detail 2), in ascending resource. -/
def State.expertEntries (s : State) (k : Check) : List MeterEntry :=
  let disp := k.sites.filter (fun x => x.t.op == 0x000A && (x.t.mode == 0x01 || x.t.mode == 0x81))
  sortBy (·.resource) (if !k.pl.hasSection 5 then []
    else (expertLayers (k.pl.section 5)).zipIdx.flatMap (fun y =>
      let named := disp.filter (fun x => x.t.par 2 2 == y.2)
      s.expertCases k y.2 y.1 named (named.filter (fun x => x.t.mode == 0x01))))

/-! ### Contexts and KV pages (R194) -/

/-- The context account (detail 3). -/
def State.contextEntries (s : State) (k : Check) : List MeterEntry :=
  let rs := k.pl.ctxRanges
  let e := account 3
  let size := fun (l : KvLayer) => ceilDiv (256 * 2 * l.heads * l.dim * ((DType.ofCode l.dtype).getD .bf16).bytes32) 32
  (if 4096 < (rs.map (·.count)).sum || rs.any (fun r => decide (4096 < r.first + r.count)) then [e] else []) ++
    (rs.filter (fun r => r.kind == 2 && s.poolPages r.die == 0)).map (fun _ => e) ++
    (k.pl.kvLayers.filter (fun l => decide (s.pageBytes < size l))).map (fun _ => e) ++
    (k.sites.filter (fun x => x.t.op == 0x0003 && x.t.attn.paged &&
      !(((k.pl.attnRange x.t.attn).map (fun r => decide (x.t.attn.kvLayer < r.kvLayers))).getD false))).map (fun x =>
        { e with graph := x.g.number, task := x.i, exposure := x.t.exposure })

/-! ### The stop-bath window and the privileged allowance (R374, R375) -/

/-- W_sb in ns (R374); 0 without a securing plan. -/
def State.stopWindow (s : State) (p : Nat) (pl : Plan) : Frac :=
  if pl.securing.isNone then Frac.nat 0
  else
    let bytes := ((pl.sweepItems false).map pl.itemBytes).sum
    (Frac.nat 20000).add (Frac.of (bytes * 5) (s.negRate4 p))

/-- W_sb in whole µs. -/
def State.stopWindowUs (s : State) (p : Nat) (pl : Plan) : Nat := ((s.stopWindow p pl).times 1 1000).up

/-- Case 2 of R375 under a hold limit `limit` fails. -/
def Check.sweepHolds (k : Check) (w : Frac) (limit : Nat) : Bool :=
  let n := (Frac.of (((Frac.nat (k.budget + k.guard)).add w).num) (((Frac.nat (k.budget + k.guard)).add w).den * k.len)).up
  decide (limit + k.pl.planned + k.pl.spares ≤ k.pl.planned + n - 1)

/-- Bytes of an area's layout (R368): its directory, and two copy slots for each of these copies, the step record's last. -/
def layoutBytes (sizes : List Nat) : Nat := dirBytes (sizes.length - 1) + 2 * (sizes.map up2Mib).sum

/-- An area of the sealed region in 2 MiB units. -/
def areaEntries (off size need region : Nat) : List MeterEntry :=
  let e := account 4
  (if region < off + size then [{ e with bound := off + size, limit := region }] else []) ++
    if size < need then [{ e with bound := need, limit := size }] else []

/-- The stop-bath account (detail 4). The sealed region has no size for a partition that its key is not released to (R421). -/
def State.stopEntries (s : State) (k : Check) : List MeterEntry := match k.pl.securing with
  | none => []
  | some h =>
    let w := s.stopWindow k.p k.pl
    let us := s.stopWindowUs k.p k.pl
    let stop := s.get Reg.survStopLimit_limitMs * 1000
    let hold := s.get (Reg.tickHoldLimit_limit k.p)
    let region := if s.trust.unsealed = some k.p then s.get Reg.memNegSealed_sealedGib * 512 else 0
    let need := layoutBytes (k.pl.allItems.map k.pl.itemBytes) / 2 ^ 21
    let wardNeed := if h.ward = noPosition then 0
      else layoutBytes ((s.wardItems h).map (·.2)) / 2 ^ 21
    let both := overlaps h.ownOff h.ownSize h.wardOff h.wardSize
    let e := account 4
    (if stop < us then [{ e with bound := us, limit := stop }] else []) ++
      (if k.sweepHolds w hold then
        [{ e with bound := us, limit := ((hold + k.pl.spares) * k.len - k.budget - k.guard) / 1000 }] else []) ++
      areaEntries h.ownOff h.ownSize need region ++ areaEntries h.wardOff h.wardSize wardNeed region ++
      (if both then [{ e with bound := min h.ownOff h.wardOff + (if h.ownOff ≤ h.wardOff then h.ownSize else h.wardSize)
                              limit := max h.ownOff h.wardOff }] else []) ++
      if bitAt h.flags 1 == 1 && !s.flag Reg.memNegStatus_sealedInUse then [e] else []

/-- Time that reserved windows of a step cover on a port's output. -/
def Check.reservedOn (k : Check) (port : Nat) : Nat :=
  ((k.slots.flatMap FabSlot.windows).filter (fun w => w.1 == port && w.2.1 == 1)).map (fun w => w.2.2.2 - w.2.2.1) |>.sum

/-- The privileged account (detail 5), in 64-byte units. -/
def State.privilegedEntries (s : State) (k : Check) : List MeterEntry := match k.pl.securing with
  | none => []
  | some h =>
    let x := ((k.pl.allItems.filter k.pl.privileged).map k.pl.itemBytes).sum
    let step := k.pl.planned * k.len
    let need := 2 * x + h.wardPriv
    let room := s.negRate4 k.p * step / 20
    let busy := match (fabRoute k.sec h.partner).map (·.port) with
      | none => step
      | some n => k.reservedOn n
    let rate := ((fabRoute k.sec h.partner).map (fun r => s.slotRate r.port)).getD 1157
    let wire := (step - busy) * rate * 4 / 50
    (if room < need then [{ account 5 with bound := ceilDiv need 64, limit := room / 64 }] else []) ++
      if bitAt h.flags 0 == 1 && decide (wire < x) then [{ account 5 with bound := ceilDiv x 64, limit := wire / 64 }] else []

end Sys2Proof.Machine
end

