-- ==== Sys2Proof/Machine/Admit.lean ====
section
/-! DEFINITION. Admission (R26, R30, R38): ADMIT, the end of the light meter's check with its report, and what an admission
sets up (R99, R145, R250, R280, R363, R374, R387, R391). -/

namespace Sys2Proof.Machine

/-! ### The check as a whole (R30) -/

/-- What a check found: its entries in the order of R30 and the smallest margin. -/
structure MeterResult where
  entries : List MeterEntry
  worst : Margin
  deriving DecidableEq, Repr

/-- The exposures that hold a task or a slot. -/
def Check.exposures (k : Check) (sites : List Site) : List Nat :=
  (inOrder (sites.map (·.t.exposure) ++ k.slots.map (·.exposure))).filter (fun e => decide (e < k.pl.planned))

/-- The entries of one exposure (item 6 of R30). -/
def State.exposureEntries (s : State) (k : Check) (e : Nat) (ts : List Timed) : List MeterEntry :=
  ts.flatMap k.taskEntries ++
    (k.slots.zipIdx.filter (fun x => x.1.exposure == e)).flatMap (fun x => k.slotEntries ts x.2 x.1) ++
    k.overlapEntries e ++ s.negEntries k e ts

/-- BARRIER_GUARD and GUARD_TOO_SHORT (items 7 and 8). DESIGN CHOICE (log entry 67): a GUARD_TOO_SHORT entry gives G in bound
and D in limit. -/
def Check.guardEntries (k : Check) (last : List Timed) : List MeterEntry :=
  let b := k.lastBound last
  let d := if k.pl.hasSection 2 then (fabHeader k.sec).dNs else 0
  let base : MeterEntry := { reason := Reason.barrierGuard.code, exposure := k.pl.planned - 1, bound := b, limit := k.budget }
  (if b ≤ k.budget then [] else [match latest last with
    | none => base
    | some t => { base with graph := t.x.g.number, task := t.x.i, core := t.core }]) ++
    if d ≤ k.guard then [] else [{ reason := Reason.guardTooShort.code, bound := k.guard, limit := d }]

/-- The bounds of every exposure that holds a task or a slot. -/
def State.timeAll (s : State) (k : Check) : List (Nat × List Timed) :=
  (k.exposures k.sites).map (fun e => (e, s.timeExposure k k.sites e))

/-- The bounds of exposure P - 1. -/
def Check.lastOf (k : Check) (all : List (Nat × List Timed)) : List Timed :=
  ((all.find? (fun x => x.1 + 1 == k.pl.planned)).map (·.2)).getD []

/-- The whole check. -/
def State.meter (s : State) (k : Check) : MeterResult :=
  let sites := k.sites
  let all := s.timeAll k
  let last := k.lastOf all
  let cap := s.get Reg.pwrCap_capW
  let est := (s.fitted.estimate (s.highestFloor k)).up
  let shape := decide (1 ≤ k.pl.planned ∧ k.pl.planned ≤ 65535 ∧ 1 ≤ k.pl.spares ∧ k.pl.spares ≤ 4096)
  let alone := !k.pl.hasSection 2 || decide ((fabHeader k.sec).participants ≤ 1)
  let queues := k.pl.queueTable.zipIdx.flatMap (fun q => queueEntries sites q.2 q.1)
  let landings := if k.pl.hasSection 2 then (fabLandings k.sec).zipIdx.flatMap (fun l => k.landingEntries sites l.2 l.1) else []
  let entries := (if shape then [] else [{ reason := Reason.stepShape.code, bound := k.pl.planned, limit := k.pl.spares }]) ++
    (if s.time.locked || alone then [] else [{ reason := Reason.timeNotLocked.code }]) ++
    (if est ≤ cap then [] else [{ reason := Reason.floorNotSustained.code, bound := est, limit := cap }]) ++
    s.structuralEntries k sites ++ k.laterEntries sites ++ all.flatMap (fun x => s.exposureEntries k x.1 x.2) ++
    k.guardEntries last ++ queues ++ landings ++ s.ledgerEntries k ++ s.expertEntries k ++ s.contextEntries k ++
    s.stopEntries k ++ s.privilegedEntries k
  let end_ : Margin := ⟨(k.budget : Int) - k.lastBound last, k.pl.planned - 1, ((latest last).map (·.core)).getD 0⟩
  ⟨entries, (all.flatMap (fun x => k.margins x.1 x.2)).foldl Margin.min end_⟩

/-- The report (R38): as many entries as fit the buffer, after the header. DESIGN CHOICE (log entry 67): entries_written holds
their count modulo 2^16. -/
def MeterResult.report (r : MeterResult) (k : Check) (reserve capacity : Nat) (restarted : Bool) (st : Stamp) : List Byte :=
  let n := r.entries.length
  let w := min n capacity
  leBytes k.pl.planId 4 ++ leBytes (if n = 0 then 0 else 1) 2 ++ leBytes (min n 65535) 2 ++ leBytes w 2 ++
    leBytes ((if capacity < n then 1 else 0) + if restarted then 2 else 0) 1 ++ leBytes k.floor 1 ++ leBytes (k.len / 1000) 4 ++
    leBytes reserve 1 ++ leBytes 0 3 ++ leBytes r.worst.exposure 4 ++ leBytes r.worst.core 4 ++
    leBytes (unsigned 32 r.worst.ns) 4 ++ st.bytes ++ leBytes 0 16 ++ (r.entries.take w).flatMap MeterEntry.bytes

/-! ### ADMIT -/

/-- ADMIT (R26, R38, R70, R72): the check of a loaded plan starts, with its report buffer taken. Of an unknown plan_id or a
stray operand outside IDLE, where BAD_ADDRESS and STATE both hold, R72 does not say which completes it: BAD_ADDRESS comes
first here (DESIGN CHOICE, log entry 63). -/
def doAdmitPlan (ring : Nat) (s : State) : State :=
  match s.findOp ring 0x03 with
  | none => s
  | some d =>
    let p := s.ringPart ring
    let id := d.opd 16 4
    let q := d.opd 20 2
    let i := d.opd 24 4
    match (d.strayOperand [(16, 4), (20, 2), (24, 4)]).or (d.badPool 20) with
    | some off => s.finish ring d .badAddress off
    | none =>
      if !s.plans.any (fun pl => pl.planId == id && pl.partition == p) then s.finish ring d .badAddress 16
      else if (s.part p).phase ≠ .idle then s.finish ring d .state (s.part p).phase.code
      else if !s.slotFilled p q i 2 then s.finish ring d .slotState 24
      else
        ((s.consumeSlot p q i).beginDesc ring d).modPart p (fun x =>
          { x with
            phase := .checking, plan := some id, restarted := false, admitRing := ring, admitSeq := d.seq
            reportPool := q, reportSlot := i })

/-! ### What an admission sets up -/

/-- The registers that show an admitted plan: the stop-bath window (R374), the route section's state (R315). -/
def State.showPlan (s : State) (p : Nat) (pl : Plan) : State :=
  let s := s.set Reg.survStopWindow_wUs (s.stopWindowUs p pl)
  if pl.hasSection 2 then s.set Reg.fabRouteStatus_neighboursAgreed 1 else s

/-- The restore at admission begins (R387). -/
def State.beginRestore (s : State) (p : Nat) (pl : Plan) : State :=
  let wants := ((pl.securing).map (fun h => bitAt h.flags 1 == 1)).getD false
  let s := s.modPart p (fun x => { x with fixer := { Fixer.init with
    admission := wants
    left := if wants then pl.allItems else [] } })
  s.noteFixers

/-- The plan is admitted (R26). -/
def State.admitPlan (s : State) (p : Nat) (pl : Plan) (margin : Int) : State :=
  let s := s.modPart p (fun x =>
    { x with
      phase := .admitted, step := 0, slotsLate := false, index := 0, worstMargin := unsigned 32 margin, withdrawAsked := false, withdrawDue := false
      runs := [], queues := pl.initQueues, barrier := Barrier.init, faultCause := 0, drainDone := false, replaysRaised := []
      sectionNow := if pl.hasSection 2 then some (pl.section 2) else none
      areas := if pl.hasSection 8 then (x.areas.filter (· != s.ownArea pl)) ++ [s.ownArea pl] else x.areas
      sectionOld := none, reshard := ⟨none, none, 0, 0, 0⟩, switched := [], touchedExperts := [], touchedSets := []
      outSlots := [], arrived := [], stripes := [], landCredits := [], landGiven := [], landWaits := [], restoreDue := [] })
  let s := { s with
    tokens := s.tokens.filter (fun t => s.corePart t.core != p)
    credits := s.credits.filter (fun c => c.p != p) }
  let s := (((s.admitLayers pl).admitGroups p pl).openTraining p pl).adoptIntake p pl
  let s := (s.showPlan p pl).beginRestore p pl
  let s := if pl.hasSection 2 then s.set Reg.fabEpoch_epoch (Config.admissionEpoch pl.planId).toNat else s
  s.set Reg.survRisk_forced 0

/-- The peaks of the activation account (R250): written whenever that account passes. -/
def State.notePeaks (s : State) (k : Check) : State :=
  if !(s.ledgerEntries k).isEmpty then s
  else
    let x := k.pl.ledgerPeaks
    ((s.setPair (Reg.memPeakHbm k.p) x.1).setPair (Reg.memPeakNeg k.p) x.2.1).set (Reg.memPeakExposure k.p) x.2.2

/-- LIGHT_METER_DONE (R26, R30, R38): the check ends; the report is written, the plan admitted or refused. -/
def doLightMeterDone (p : Nat) (s : State) : State :=
  let x := s.part p
  match x.plan.bind s.planById with
  | none => s
  | some pl =>
    if x.phase ≠ .checking then s
    else
      let k := s.checkOf p pl
      let r := s.meter k
      let n := min r.entries.length 65535
      let cap := (s.slotBytes p x.reportPool - 64) / 32
      let st := s.stampNow 1
      let s := s.stampUsed.writeReport p x.reportPool x.reportSlot
        (r.report k (s.get (Reg.tickReserve_reservePct p)) cap x.restarted st)
      let s := s.notePeaks k
      let d := s.descOf x.admitRing x.admitSeq
      let finish := fun (s : State) (c : Status) (v : Nat) => match d with
        | none => s
        | some d => s.finish x.admitRing d c v
      if r.entries.isEmpty then
        finish ((s.admitPlan p pl r.worst.ns).raise Ev.planAdmitted (UnitId.partition p)
          { value := pl.planId, value2 := unsigned 32 r.worst.ns }) .done 0
      else
        let s := (s.modPart p (fun x => { x with phase := .idle, plan := none })).count (Ctr.tickRefusalCount p)
        finish (s.raise Ev.planRefused (UnitId.partition p) { value := pl.planId, value2 := n }) .planRefused n

end Sys2Proof.Machine
end

