-- ==== Sys2Proof/Machine/Ledger.lean ====
section
/-! DEFINITION. The activation ledger at run time: codec transfers of op 0x000C (R251, R261) and the CLEAR_TABLE
descriptors with the table generations (R264, R265, R267). -/

namespace Sys2Proof.Machine

/-! ### Moving one raw block -/

/-- Count 64-byte units that op 0x000C moved to or from space 2 (R276). -/
def State.countNeg (s : State) (src dst : Tensor) (readUnits writeUnits : Nat) : State :=
  let s := if src.space = 2 then s.count Ctr.memNegInCount readUnits else s
  if dst.space = 2 then s.count Ctr.memNegOutCount writeUnits else s

/-- Bytes of raw block `j` that the tensor holds. -/
def Tensor.blockLen (t : Tensor) (j : Nat) : Nat := min 4096 (t.span - 4096 * j)

/-- Copy the stored bytes of block `j` (R251 modes 1 and 2): a Grain segment, a Clear block with its tag, or raw. -/
def State.copyBlock (s : State) (p : Nat) (src dst : Tensor) (j : Nat) : State :=
  if src.grain then
    let n := grainSegment src.elemBytes src.grainRate
    let bs := s.readSpace p src.space (src.base + j * n) n
    (s.writeSpace p dst.space (dst.base + j * n) bs).countNeg src dst (ceilDiv n 64) (ceilDiv n 64)
  else if src.clear then
    let tag := s.tagAt p src.space (src.base + 4096 * j)
    let bs := s.readSpace p src.space (src.base + 4096 * j) (64 * tagUnits tag)
    (s.putBlock p dst.space (dst.base + 4096 * j) ⟨tag, bs⟩).countNeg src dst (tagUnits tag) (tagUnits tag)
  else
    let n := src.blockLen j
    let bs := s.readSpace p src.space (src.base + 4096 * j) n
    (s.writeSpace p dst.space (dst.base + 4096 * j) bs).countNeg src dst (ceilDiv n 64) (ceilDiv n 64)

/-- The 4,096 raw bytes of block `j` as its decoder delivers them. -/
def State.rawBlock (s : State) (p : Nat) (t : Tensor) (j : Nat) : List Byte :=
  (List.range 4096).map (fun k => s.storedByte p t (4096 * j + k))

/-- The elements of Grain segment `j` as pieces of the raw layout of `dst`. -/
def State.segmentPieces (s : State) (p : Nat) (src dst : Tensor) (j : Nat) : List Piece :=
  let spb := grainSpb src.elemBytes
  (List.range (min spb (src.grainBlocks - spb * j))).flatMap (fun i =>
    (List.range 8).map (fun v =>
      let b := spb * j + i
      ⟨dst.bitOffset (src.grainCoords b 0 v),
       (List.range 8).map (fun u => s.elem p src (src.grainCoords b u v))⟩))

/-- 64-byte units of raw data of Grain segment `j`: its blocks are 64 elements each. -/
def Tensor.segmentUnits (t : Tensor) (j : Nat) : Nat :=
  let spb := grainSpb t.elemBytes
  min spb (t.grainBlocks - spb * j) * t.elemBytes

/-- Encode block `j` (R251 mode 3): as a Grain segment or through the Clear encoder of the destination's memory. -/
def State.encodeBlockAt (s : State) (p : Nat) (src dst : Tensor) (j : Nat) : State :=
  if dst.grain then
    let n := grainSegment dst.elemBytes dst.grainRate
    let spb := grainSpb dst.elemBytes
    let raw := (List.range (min spb (dst.grainBlocks - spb * j))).flatMap (fun i =>
      (List.range 8).map (fun v =>
        (⟨dst.bitOffset (dst.grainCoords (spb * j + i) 0 v),
          (List.range 8).map (fun u => s.elem p src (dst.grainCoords (spb * j + i) u v))⟩ : Piece)))
    (s.store p dst raw).countNeg src dst (dst.segmentUnits j) (ceilDiv n 64)
  else
    let data := s.rawBlock p src j
    let s := s.clearWrite p dst.space (dst.base + 4096 * j) dst.type.planeWidth data
    s.countNeg src dst (ceilDiv (src.blockLen j) 64) (tagUnits (s.tagAt p dst.space (dst.base + 4096 * j)))

/-- A decoder reads block `j` of a Grain or Clear tensor: its count or its error (R258, R266). -/
def State.decoderReads (s : State) (r : Running) (o : Operand) (j : Nat) : State :=
  if o.t.grain then s.count (Ctr.codecGrainReadCount r.p)
  else if o.t.clear then s.readErrors r o [o.t.base + 4096 * j] else s

/-- Decode block `j` to a raw tensor (R251 mode 4). -/
def State.decodeBlockAt (s : State) (r : Running) (o : Operand) (dst : Tensor) (j : Nat) : State :=
  let src := o.t
  let units := if src.grain then ceilDiv (grainSegment src.elemBytes src.grainRate) 64
    else tagUnits (s.tagAt r.p src.space (src.base + 4096 * j))
  let s' := if src.grain then s.store r.p dst (s.segmentPieces r.p src dst j)
    else s.writeSpace r.p dst.space (dst.base + 4096 * j) ((s.rawBlock r.p src j).take (dst.blockLen j))
  let out := if src.grain then src.segmentUnits j else ceilDiv (dst.blockLen j) 64
  (s'.decoderReads r o j).countNeg src dst units out

/-- Re-encode block `j` of a Clear tensor with the current generation (R251 mode 5). -/
def State.recodeBlockAt (s : State) (r : Running) (o : Operand) (j : Nat) : State :=
  let a := o.t.base + 4096 * j
  let units := tagUnits (s.tagAt r.p o.t.space a)
  let data := s.rawBlock r.p o.t j
  let s := (s.decoderReads r o j).clearWrite r.p o.t.space a o.t.type.planeWidth data
  s.countNeg o.t o.t units (tagUnits (s.tagAt r.p o.t.space a))

/-! ### Op 0x000C -/

/-- The raw blocks that core `c` moves (R251). -/
def Running.blockRange (r : Running) (c : Nat) : List Nat :=
  let sh := shareOf (r.task.par 8 4) r.task.coreCount (r.coreIndex c)
  (List.range sh.2).map (fun k => r.task.par 4 4 + sh.1 + k)

/-- Run core `c`'s share of an op 0x000C task of this mode (R251); the op has no output stage, so it finds no hit. -/
def State.codecTask (s : State) (c mode : Nat) (move : State → Running → Operand → Operand → Nat → State) : State :=
  match s.runningOn c with
  | none => s
  | some r =>
    if r.task.op ≠ 0x000C ∨ r.task.par 0 1 ≠ mode then s
    else match r.slot 0, r.slot 3 with
      | some a, some d =>
        if r.usesEmpty then s.endTask c r 0 false
        else ((r.blockRange c).foldl (fun s j => move s r a d j) s).endTask c r 0 false
      | _, _ => s.endTask c r 0 false

/-- OFFLOAD (R251 mode 1). -/
def doOffload (core : Nat) (s : State) : State :=
  s.codecTask core 1 (fun s r a d j => s.copyBlock r.p a.t d.t j)

/-- FETCH (R251 mode 2). -/
def doFetch (core : Nat) (s : State) : State :=
  s.codecTask core 2 (fun s r a d j => s.copyBlock r.p a.t d.t j)

/-- ENCODE (R251 mode 3). -/
def doEncode (core : Nat) (s : State) : State :=
  s.codecTask core 3 (fun s r a d j => s.encodeBlockAt r.p a.t d.t j)

/-- DECODE (R251 mode 4). -/
def doDecode (core : Nat) (s : State) : State :=
  s.codecTask core 4 (fun s r a d j => s.decodeBlockAt r a d.t j)

/-- RECODE (R251 mode 5). -/
def doRecode (core : Nat) (s : State) : State :=
  s.codecTask core 5 (fun s r a _ j => s.recodeBlockAt r a j)

/-! ### Generations -/

/-- CODEC_CLEAR_CURRENT follows the generations and the waiting make-currents (R277). -/
def State.noteCurrent (s : State) (p : Nat) : State :=
  let cur := s.currentGen p
  let waits := (s.part p).requests.filterMap (fun r =>
    if r.kind == .clear then (s.descOf r.ring r.seq).bind (fun d => if d.opd 16 1 = 2 then some (d.opd 17 1) else none)
    else none)
  let s := (s.set (Reg.codecClearCurrent_current p) ((cur.map (·.1)).getD 0)).set (Reg.codecClearCurrent_valid p)
    (if cur.isSome then 1 else 0)
  (s.set (Reg.codecClearCurrent_pending p) (waits.headD 0)).set (Reg.codecClearCurrent_pendingValid p)
    (if waits.isEmpty then 0 else 1)

/-- A RETIRING generation whose reference count is 0 becomes FREE (R265). -/
def State.freeGen (s : State) (p g : Nat) : State :=
  if (s.gen p g).state == .retiring && s.genRefs p g == 0 then
    ((s.modGen p g (fun _ => Gen.init)).raise Ev.clearGenFreed (s.control p) { object := g }).noteCurrent p
  else s

/-- CLEAR_GEN_FREED (R265). -/
def doClearGenFreed (p gen : Nat) (s : State) : State := s.freeGen p gen

/-- A generation becomes CURRENT; the previous one becomes RETIRING, or FREE if its count is 0 (R265). -/
def State.makeCurrent (s : State) (p g : Nat) : State :=
  if (s.gen p g).state == .current then s
  else
    let prev := (s.currentGen p).map (·.1)
    let s := match prev with
      | some o => s.modGen p o (fun x => if s.genRefs p o = 0 then Gen.init else { x with state := .retiring })
      | none => s
    (s.modGen p g (fun x => { x with state := .current })).raise Ev.clearGenCurrent (s.control p)
      { object := g, value := prev.getD 0xFFFFFFFF }

/-- Every table of a generation image satisfies check 4 of R267: the sum of 2^-L is at most 1. -/
def tablesOk (tables : List Byte) : Bool :=
  (List.range 7).all (fun t =>
    let tab := slice tables (128 * t) 128
    decide (((List.range 256).map (fun v => let l := codeLen tab v; if l = 0 then 0 else 2 ^ (15 - l))).sum ≤ 2 ^ 15))

/-- The generation image in a command slot (R264). -/
def State.genImage (s : State) (p q i : Nat) : List Byte := s.readWin p (s.payloadOf p q i) 912

/-- The image is as R264 states (check 3 of R267). -/
def State.genImageOk (s : State) (p q i : Nat) : Bool :=
  let sl := s.slot p q i
  let b := s.genImage p q i
  sl.format == 0x12 && decide (912 ≤ sl.length) && fieldAt b 0 4 == 0x4E484354 && fieldAt b 4 2 == 1 &&
    fieldAt b 8 4 == crc32c (b.drop 16)

/-- The checks of R267 for a descriptor, in order. -/
def State.clearChecks (s : State) (p : Nat) (d : Started) : List Bool :=
  let act := d.opd 16 1
  let g := d.opd 17 1
  let st := (s.gen p g).state
  let q := d.opd 18 2
  let i := d.opd 20 4
  [(act == 1 || act == 2 || act == 3) && decide (g < 16),
   act != 1 || st == .free,
   act != 1 || s.genImageOk p q i,
   act != 1 || tablesOk ((s.genImage p q i).drop 16),
   act != 2 || st == .loaded || st == .retiring || st == .current,
   act != 3 || st == .loaded]

/-- The first operand byte of a CLEAR_TABLE descriptor that must be zero and is not (R69, R267). -/
def Started.clearStray (d : Started) : Option Nat :=
  (d.strayOperand (if d.opd 16 1 = 1 then [(16, 8)] else [(16, 2)])).or (if d.opd 16 1 = 1 then d.badPool 18 else none)

/-- A CLEAR_TABLE descriptor is refused (R267). -/
def State.refuseClear (s : State) (n p : Nat) (d : Started) (fails : List Nat) : State :=
  (s.finish n d .refused (refusedDetail fails)).raise Ev.clearTableRefused (s.control p)
    { object := d.opd 17 1, value := fails.headD 0 }

/-- CLEAR_TABLE_LOAD (R267): takes effect at once; the slot returns to OFFERED. -/
def doClearTableLoad (ring : Nat) (s : State) : State :=
  match s.findDesc ring 0x11 (fun d => d.opd 16 1 != 2 && d.opd 16 1 != 3) with
  | none => s
  | some d =>
    let p := s.ringPart ring
    let q := d.opd 18 2
    let i := d.opd 20 4
    match d.clearStray with
    | some off => s.finish ring d .badAddress off
    | none =>
      if d.opd 16 1 = 1 ∧ !s.slotFilled p q i 2 then s.finish ring d .slotState 20
      else
        let fails := failing (s.clearChecks p d)
        let img := (s.genImage p q i).drop 16
        let g := d.opd 17 1
        if d.opd 16 1 ≠ 1 then s.refuseClear ring p d fails
        else
          let s := s.consumeSlot p q i
          let s := if fails.isEmpty then
              ((s.modGen p g (fun _ => ⟨.loaded, img⟩)).raise Ev.clearTableLoaded (s.control p) { object := g }).finish
                ring d .done
            else s.refuseClear ring p d fails
          s.releaseSlot p q i

/-- A make-current or discard descriptor waits for its boundary (R267). -/
def State.requestClear (s : State) (ring act : Nat) : State :=
  match s.findDesc ring 0x11 (fun d => d.opd 16 1 == act) with
  | none => s
  | some d => match d.clearStray with
    | some off => s.finish ring d .badAddress off
    | none => (s.request (s.ringPart ring) .clear ring d).noteCurrent (s.ringPart ring)

/-- CLEAR_TABLE_MAKE_CURRENT (R267). -/
def doClearTableMakeCurrent (ring : Nat) (s : State) : State := s.requestClear ring 2

/-- CLEAR_TABLE_DISCARD (R267). -/
def doClearTableDiscard (ring : Nat) (s : State) : State := s.requestClear ring 3

/-- CLEAR_TABLE_APPLY (R267): the next due make-current or discard is checked and takes effect. -/
def doClearTableApply (p : Nat) (s : State) : State :=
  match s.nextRequest p .clear with
  | none => s
  | some (rq, d) =>
    let s := s.dropRequest p rq
    let fails := failing (s.clearChecks p d)
    let g := d.opd 17 1
    let s := if !fails.isEmpty then s.refuseClear rq.ring p d fails
      else if d.opd 16 1 = 2 then (s.makeCurrent p g).finish rq.ring d .done
      else (s.modGen p g (fun _ => Gen.init)).finish rq.ring d .done
    s.noteCurrent p

end Sys2Proof.Machine
end

