-- ==== Sys2Proof/Machine/Reshard.lean ====
section
/-! DEFINITION. Layout epochs (R332 to R334): RESHARD in its three actions, the boundary at which a committed section takes
effect, and a fence that does not drain in time. -/

namespace Sys2Proof.Machine

/-! ### What is checked (R333) -/

/-- A plan with another fabric section. -/
def Plan.withFabric (pl : Plan) (b : List Byte) : Plan :=
  { pl with sections := pl.sections.filter (fun x => x.1 != 2) ++ [(2, b)] }

/-- Every slot, group and landing index that a task names exists in the section. -/
def Plan.fabricNames (pl : Plan) (b : List Byte) : Bool :=
  let h := fabHeader b
  pl.allTasks.all (fun x =>
    let t := x.2.2
    if t.op = 0x000D then
      let z := t.transfer
      (z.mode == 3 || decide (z.slotFirst + z.ports ≤ h.slotCount)) && (z.landing == 0xFFFF || decide (z.landing < h.landingCount))
    else if t.op = 0x000E then
      let z := t.reduce
      decide (z.group < h.groupCount) && decide (z.slotFirst + z.slotCount ≤ h.slotCount)
    else true)

/-- The light meter's fabric checks of a plan: the bounds of every exposure under its slots, the guard, the landing rings,
and the neighbours with their ranks (R34, R315, R318, R323). -/
def State.fabricMeter (s : State) (k : Check) : Bool :=
  let sites := k.sites
  let all := s.timeAll k
  (all.all (fun x => (s.exposureEntries k x.1 x.2).isEmpty)) && (k.guardEntries (k.lastOf all)).isEmpty &&
    ((fabLandings k.sec).zipIdx.all (fun l => (k.landingEntries sites l.2 l.1).isEmpty)) && (s.strangePorts k).isEmpty

/-- Check 2 of R333. -/
def State.prepareOk (s : State) (p : Nat) (b : List Byte) : Bool := match s.planOf p with
  | none => false
  | some pl => s.fabricOk p pl b && pl.fabricNames b && s.fabricMeter (s.checkOf p (pl.withFabric b))

/-- A section is prepared and not yet committed. -/
def Reshard.isPrepared (r : Reshard) : Bool := r.prepared.isSome && r.step.isNone

/-- Old-epoch class-4 bytes that wait on port `n`. -/
def State.bulkBytes (s : State) (n : Nat) : Nat :=
  (((s.port n).queue.filter (fun x => x.cls == 4)).map (fun x => x.out.bytes)).sum

/-- The longest time, in ns, in which a port of partition `p` sends its class-4 bytes: at 115.7 GB/s, or 57.8 GB/s while
DEGRADED (R318). -/
def State.bulkTime (s : State) (p : Nat) : Nat :=
  (((List.range 48).filter (fun n => s.portPart n == p)).map (fun n =>
    ceilDiv (10 * s.bulkBytes n) (s.slotRate n))).foldl max 0

/-- Check 4 of R333: with 200 ns for each reduction stripe that an engine has not finished (R318). -/
def State.commitFits (s : State) (p : Nat) : Bool :=
  let work := 200 * ((s.part p).stripes.filter (fun x => !x.done)).length
  decide (s.bulkTime p + work ≤ 4000 * s.get (Reg.tickExposureLen_lenUs p))

/-- The checks of R333 that fail. -/
def failedChecks (checks : List (Nat × Bool)) : List Nat := (checks.filter (fun c => !c.2)).map (·.1)

/-- A RESHARD that fails its checks (R333). -/
def State.refuseReshard (s : State) (ring : Nat) (d : Started) (fails : List Nat) : State :=
  (s.raise Ev.reshardRefused (UnitId.partition (s.ringPart ring)) { value := fails.foldl min 255 }).finish ring d .refused
    (loadDetail fails)

/-- Check 1 of R333. -/
def State.reshardTime (s : State) (p action : Nat) : Bool := inRange 1 action 3 && s.inStep p

/-- A RESHARD descriptor's action (R332). -/
def Started.action (d : Started) : Nat := d.opd 16 1

/-- The first operand byte outside the fields of R332 that is not zero. -/
def Started.strayReshard (d : Started) : Option Nat := d.strayOperand [(16, 1), (18, 2), (20, 4), (24, 8), (32, 2)]

/-- A RESHARD descriptor of a ring with an action that the test takes. -/
def State.findReshard (s : State) (ring : Nat) (f : Nat → Bool) : Option Started :=
  (s.findOp ring 0x13).filter (fun d => f d.action)

/-! ### The three actions -/

/-- RESHARD_PREPARE (R332, R333): a section that passes is held prepared; an action that R332 does not give fails check
1, and a slot of another format than 0x12 fails check 2 (DEDUCED, log entry 45). -/
def doReshardPrepare (ring : Nat) (s : State) : State :=
  match s.findReshard ring (fun a => a != 2 && a != 3) with
  | none => s
  | some d =>
    let p := s.ringPart ring
    let q := d.opd 18 2
    let i := d.opd 20 4
    match (d.strayReshard).or (d.badPool 18) with
    | some off => s.finish ring d .badAddress off
    | none =>
      if d.action ≠ 1 then s.refuseReshard ring d [1]
      else if !s.slotFilled p q i 2 then s.finish ring d .slotState 20
      else
        let b := s.readWin p (s.payloadOf p q i) (min (s.slot p q i).length (s.slotBytes p q))
        let form := (s.slot p q i).format == 0x12
        let s := s.consumeSlot p q i
        let fails := failedChecks [(1, s.reshardTime p d.action), (2, form && s.prepareOk p b)]
        let s := if fails.isEmpty then
            let s := s.modPart p (fun x => { x with reshard := { x.reshard with prepared := some b } })
            (if (s.part p).reshard.step.isNone then s.set Reg.fabEpoch_reshard 1 else s).finish ring d .done
          else s.refuseReshard ring d fails
        s.releaseSlot p q i

/-- RESHARD_COMMIT (R332, R333): the prepared section waits for its step; the descriptor completes at the boundary. -/
def doReshardCommit (ring : Nat) (s : State) : State :=
  match s.findReshard ring (· == 2) with
  | none => s
  | some d =>
    let p := s.ringPart ring
    let q := s.part p
    let step := d.opd 24 8
    let epoch := d.opd 32 2
    match d.strayReshard with
    | some off => s.finish ring d .badAddress off
    | none =>
      let named := q.reshard.isPrepared && decide (q.step + 2 ≤ step) && epoch == (s.epoch + 1) % 4096
      let fails := failedChecks [(1, s.reshardTime p d.action), (3, named), (4, s.commitFits p)]
      if fails.isEmpty then
        let s := (s.beginDesc ring d).modPart p (fun x => { x with
          reshard := { x.reshard with step := some step, epoch := epoch, ring := ring, seq := d.seq } })
        ((s.set Reg.fabEpoch_reshard 2).set Reg.fabEpoch_next epoch).setPair Reg.fabReshardStep step
      else s.refuseReshard ring d fails

/-- RESHARD_CANCEL (R332, R333): a prepared section that is not committed is given up. -/
def doReshardCancel (ring : Nat) (s : State) : State :=
  match s.findReshard ring (· == 3) with
  | none => s
  | some d =>
    let p := s.ringPart ring
    match d.strayReshard with
    | some off => s.finish ring d .badAddress off
    | none =>
      let fails := failedChecks [(1, s.reshardTime p d.action), (5, (s.part p).reshard.isPrepared)]
      if fails.isEmpty then
        ((s.modPart p (fun x => { x with reshard := { x.reshard with prepared := none } })).set Reg.fabEpoch_reshard 0).finish ring d .done
      else s.refuseReshard ring d fails

/-! ### The boundary (R334) -/

/-- A fence marker of a class: kind 6, to the neighbour, without data. -/
def markerSpec (neighbour cls : Nat) : PacketSpec := ⟨6, cls, neighbour, 0xFFFF, 0, true, 0, []⟩

/-- The five markers of a port, each behind the last packet of its class. -/
def State.fencePort (s : State) (p n : Nat) : State :=
  if !s.portUp n || s.silent p then s
  else (List.range 5).foldl (fun s c => s.post p n (markerSpec (s.get (Reg.fabPort_neighbour n)) c) none false) s

/-- The ports of partition `p`. -/
def State.portsOf (s : State) (p : Nat) : List Nat := (List.range s.ports.length).filter (fun n => s.portPart n == p)

/-- A packet that waited for the boundary is acted on by its kind (R309, R316, R334). -/
def State.redeliver (s : State) (n : Nat) (pk : Packet) : State :=
  if !s.isFor (s.portPart n) (pkDest pk) then doPacketRelay n pk s
  else match pkKind pk, bulkOp pk with
    | 1, _ => doDataPacket n pk s
    | 2, _ => doReductionPartial n pk s
    | 3, _ => doReductionResult n pk s
    | 4, _ => doSideband n pk s
    | 7, _ => doRouteSwitch n pk s
    | 8, _ => doLandingCredit n pk s
    | 9, 1 => doBulkMirrorData n pk s
    | 9, 2 => doBulkMirrorSeal n pk s
    | 9, 3 => doTakeoverRequest n pk s
    | 9, 4 => doItemRequest n pk s
    | 9, 5 => doItemData n pk s
    | 9, 6 => doItemSealRecord n pk s
    | _, _ => s

/-- The packets of the new epoch that waited on a port. -/
def State.deliverPort (s : State) (n : Nat) : State :=
  let w := (s.port n).waiting
  let ns := (s.port n).notices
  let s := s.modPort n (fun x => { x with waiting := [], notices := [] })
  let s := s.modLink n (fun k => { k with
    used := k.used.zipIdx.map (fun u => u.1 - ((w.filter (fun pk => pkClass pk == u.2)).map (fun pk => (FabOut.packet pk).units)).sum -
      if u.2 = 0 then ns.length else 0) })
  let s := ns.foldl (fun s x => doCompletionNotice x.1 x.2 s) s
  w.foldl (fun s pk => s.redeliver n pk) s

/-- RESHARD_BOUNDARY (R334): at the tick that begins the named step the section and the epoch change, markers go out
behind the old epoch, and the commit completes. -/
def doReshardBoundary (p : Nat) (s : State) : State :=
  let q := s.part p
  let r := q.reshard
  match r.step, r.prepared with
  | some step, some b =>
    if !s.inStep p || q.step != step || q.index != 0 then s
    else
      let s := s.modPart p (fun x => { x with
        sectionOld := x.sectionNow, sectionNow := some b, switched := [], reshard := ⟨none, none, 0, 0, 0⟩
        slotsLate := false })
      let s := (s.set Reg.fabEpoch_epoch r.epoch).set Reg.fabEpoch_reshard 3
      let s := s.raise Ev.epochChanged (UnitId.partition p) { object := r.epoch, value := step % 2 ^ 32 }
      let s := ((s.portsOf p).foldl (fun s n => s.fencePort p n) s).noteDrained
      let s := match s.descOf r.ring r.seq with
        | some d => s.finish r.ring d .done
        | none => s
      (s.portsOf p).foldl (fun s n => s.deliverPort n) s
  | _, _ => s

/-! ### A fence that does not drain (R334) -/

/-- The items of a queue that stand ahead of the marker of their class, and the rest. -/
def aheadOfMarker : List PortItem → List PortItem × List PortItem
  | [] => ([], [])
  | x :: l =>
    let r := aheadOfMarker l
    if !x.isMarker && l.any (fun y => y.isMarker && y.cls == x.cls) then (x :: r.1, r.2) else (r.1, x :: r.2)

/-- A marker on the port has waited 4 exposures since its boundary. -/
def State.fenceLate (s : State) (p n : Nat) : Bool :=
  (s.port n).queue.any (fun x => x.isMarker && decide (x.since + 4 * s.exposureUnits p ≤ s.time.now))

/-- EPOCH_DRAIN_TIMEOUT (R311, R334): the port's old-epoch packets are discarded, and the running step faults. -/
def doEpochDrainTimeout (p port : Nat) (s : State) : State :=
  if s.portPart port ≠ p ∨ !s.fenceLate p port then s
  else
    let x := aheadOfMarker (s.port port).queue
    let s := x.1.foldl (fun s i => s.releaseVia i) (s.modPort port (fun q => { q with queue := x.2 }))
    (s.raiseFor (some p) Ev.epochDrainFail (UnitId.port port) { value := x.1.length }).stepFault p .epochDrain

end Sys2Proof.Machine
end

