-- ==== Sys2Proof/Machine/Views.lean ====
section
/-! DEFINITION. What a read of BAR0 returns: registers that show state kept elsewhere, coarsened readings (R423), statistic
counters (R441), the latch of a pair (R7), and the ranges that do not answer (R2, R411, R433). -/

namespace Sys2Proof.Machine

/-! ### Registers that show other state -/

/-- A flag as a bit. -/
def bit (b : Bool) : Nat := if b then 1 else 0

/-- An average over the last 100 ms of readings (R423). -/
def average (l : List Nat) : Nat := if l.isEmpty then 0 else l.sum / l.length

/-- A signed 16-bit quantity rounded toward zero to a multiple of `k`. -/
def towardZero16 (k v : Nat) : Nat := unsigned 16 (Int.tdiv (signed 16 v) (k : Int) * k)

/-- Whether readings are coarsened (R423). -/
def State.coarsened (s : State) : Bool := !s.flag Reg.secView_fullView

/-- TICK_TIME of partition `p`: fabric time, or that of its last shutter tick for a coarsened reading (R46, R423). -/
def State.viewTime (s : State) (p : Nat) : Nat :=
  if !s.coarsened then s.time.now else if (s.part p).started then s.tickTime p (s.part p).exposure else 0

/-- TICK registers (R46). -/
def State.viewTick (s : State) (p off : Nat) : Option Nat :=
  let q := s.part p
  match off with
  | 0x00 => some (s.viewTime p % 2 ^ 32)
  | 0x04 => some (s.viewTime p / 2 ^ 32)
  | 0x1C => some (if s.admitted p then s.plannedOf p % 2 ^ 16 + 2 ^ 16 * (s.sparesOf p % 2 ^ 13) else 0)
  | 0x2C => some (q.phase.code + 8 * bit s.time.locked +
      16 * bit (s.admitted p && decide (s.clockFloor p ≤ s.get Reg.pwrClock_now100mhz)) + 32 * s.get (Reg.tickStatus_seqSaturated p))
  | 0x30 => some (if q.started then q.exposure % 2 ^ 32 else 0)
  | 0x34 => some (if q.started then q.exposure / 2 ^ 32 else 0)
  | 0x38 => some (q.step % 2 ^ 32)
  | 0x3C => some (q.step / 2 ^ 32)
  | 0x40 => some (q.index % 2 ^ 17 + 2 ^ 31 * bit (q.phase == .held))
  | 0x50 => some (if s.admitted p then q.worstMargin else 0)
  | _ => none

/-- The cores marked failed (R61): bits at and above ccc read 0. -/
def State.coreFailures (s : State) : Nat := s.pair Reg.sysInvCoreFailed % 2 ^ s.fitted.ccc

/-- SYS registers (R61): what is fitted, and what has failed. -/
def State.viewSys (s : State) (off : Nat) : Option Nat :=
  let f := s.fitted
  let dies := fun (g : Nat → Nat) => ((List.range 4).map g).sum
  match off with
  | 0x100 => some (f.ccc + 2 ^ 8 * f.ss + 2 ^ 12 * f.io)
  | 0x104 => some (dies (fun d => f.coresPerDie * 2 ^ (5 * d)) + dies (fun d => f.stacksOn d * 2 ^ (20 + 2 * d)))
  | 0x108 => some (f.phys % 2 ^ 32)
  | 0x10C => some (f.phys / 2 ^ 32)
  | 0x118 => some (1024 + 2 ^ 16 * (4 * f.io) + 2 ^ 21 * 64)
  | 0x110 => some (s.coreFailures % 2 ^ 32)
  | 0x114 => some (s.coreFailures / 2 ^ 32)
  | 0x11C => some (s.get Reg.sysInvStatus_mismatch + 2 * bit (s.coreFailures != 0) +
      ((List.range 3).map (fun i => bit (s.d2dDown.any (fun x => x.1 == i + 1)) * 2 ^ (2 + i))).sum)
  | _ => none

/-- CORE registers of core `c` (R122): its presence, its credit waits, its failure, and its tile space. -/
def State.viewCore (s : State) (c off : Nat) : Option Nat := match off with
  | 0x00 =>
    let w := s.reg (0x1000000 + 0x10000 * c) / 2 * 2 + 1
    let w := (Reg.coreStatus_creditWait c).put w (bit (s.inStep (s.corePart c) && !(s.core c).waiting.isEmpty))
    some (if s.coreFailed c then (Reg.coreStatus_state c).put w 3 else w)
  | 0x0C => some (s.tileSpace c / 64)
  | _ => none

/-- The table entry of the layer that NUM_LAYER_SELECT names (R152). -/
def State.layerShown (s : State) : Option LayerEntry := s.layer (s.get Reg.numLayerSelect_layer)

/-- NUM registers (R152): the selected layer. -/
def State.viewNum (s : State) (off : Nat) : Option Nat :=
  let show_ := fun (f : LayerEntry → Nat) => some ((s.layerShown.map f).getD 0)
  match off with
  | 0x20 => show_ (fun e => e.promotion + 4 * (s.holdLeft e % 2 ^ 16) + 2 ^ 18 + 2 ^ 19 * bit e.remote)
  | 0x24 => show_ (fun e => unsigned 8 e.e + 2 ^ 8 * e.newest + 2 ^ 16 * e.gFormat)
  | 0x28 => show_ (fun e => e.replays % 2 ^ 32)
  | 0x2C => show_ (fun e => e.replays / 2 ^ 32 % 2 ^ 16)
  | _ => none

/-- MEM registers (R205): page pools and the selected context. -/
def State.viewMem (s : State) (off : Nat) : Option Nat :=
  let x := s.ctx (s.get Reg.ctxSelect_context)
  if 0x4080 ≤ off ∧ off < 0x40A0 then
    let d := (off - 0x4080) / 8
    some (if off % 8 = 0 then s.pagesUsed d else s.pagesReserved d)
  else match off with
    | 0x40A4 => some (x.state.code + 4 * x.kind + 16 * x.die + 64 * x.parent)
    | 0x40A8 => some x.length
    | 0x40AC => some x.maxLen
    | 0x40B0 => some x.directory.length
    | 0x40B4 => some x.reserved
    | _ => none

/-- The states of a generation (R265). -/
def GenState.code : GenState → Nat
  | .free => 0 | .loaded => 1 | .current => 2 | .retiring => 3

/-- CODEC registers of partition `p` (R277). -/
def State.viewCodec (s : State) (p off : Nat) : Option Nat := match off with
  | 0x04 => some (((List.range 16).map (fun g => (s.gen p g).state.code * 4 ^ g)).sum)
  | 0x0C => some (s.genRefs p (s.get (Reg.codecGenSelect_generation p)))
  | _ => none

/-- The partition whose group DEV_GROUP_SELECT shows: the lowest with an admitted plan that has the group (log entry
28). -/
def State.groupPart (s : State) : Option Nat :=
  let g := s.get Reg.devGroupSelect_group
  (List.range 4).find? (fun p => s.admitted p && decide (g < (s.part p).groups.length))

/-- DEV registers (R299): the selected group. -/
def State.viewDev (s : State) (off : Nat) : Option Nat :=
  let g := s.get Reg.devGroupSelect_group
  let show_ := fun (f : Nat → GroupState → Nat) => some ((s.groupPart.map (fun p => f p (s.group p g))).getD 0)
  match off with
  | 0x04 => show_ (fun p x =>
      let e := (s.planOf p).bind (fun pl => pl.groups[g]?)
      x.status + 8 * bit x.frozen + 16 * bit x.frozenAtAdmission + 32 * bit x.pending.isSome +
        64 * (e.map (·.touchMode)).getD 0 + 256 * (e.map (·.rule)).getD 0 + 2048)
  | 0x08 => show_ (fun _ x => x.step)
  | 0x0C => show_ (fun _ x => x.last)
  | 0x10 => show_ (fun _ x => x.eta)
  | 0x14 => show_ (fun _ x => bit (x.pending.getD x.frozen))
  | _ => none

/-- The section in force under an admitted plan of partition `p` (R339). -/
def State.inForce (s : State) (p : Nat) : Option (List Byte) := if s.admitted p then s.fabSec p else none

/-- The module sees nothing that breaks R337: its ports in use are UP with 8 lanes, no route has switched, and its estimated
time error lies within the bounds of R15, and no slot has missed its window for a fabric cause since the plan's admission or
the last re-shard. -/
def State.uniform (s : State) : Bool :=
  s.time.locked && decide ((signed 16 (s.get Reg.fabTimeOffset_offset)).natAbs ≤ 8) &&
    (List.range 4).all (fun p => match s.inForce p with
      | none => true
      | some b => (s.part p).switched.isEmpty && !(s.part p).slotsLate && (fabPorts b).zipIdx.all (fun x => x.1.attach == 0 || s.portState x.2 == 2))

/-- FAB registers (R339). -/
def State.viewFab (s : State) (off : Nat) : Option Nat := match off with
  | 0x1C => some (bit ((List.range 4).any (fun p => (s.inForce p).isSome)) + 2 * s.get Reg.fabRouteStatus_neighboursAgreed +
      4 * bit s.uniform)
  | _ => none

/-- FAB_PORT_STATUS of port `n` (R339): with attach of the section in force. -/
def State.viewPort (s : State) (n off : Nat) : Option Nat := match off with
  | 0x00 =>
    let a := ((s.inForce (s.portPart n)).bind (fun b => (fabPorts b)[n]?)).map (·.attach)
    some ((Reg.fabPort_attach n).put (s.reg (0x900100 + 0x10 * n)) (a.getD 0))
  | _ => none

/-- INT registers of unit `u` (R361). -/
def State.viewInt (s : State) (u off : Nat) : Option Nat :=
  let x := (s.intake[u]?).getD IntakeUnit.init
  let take := x.adopted.map Adopted.take
  let of := fun (f : TakePar → Nat) => (take.map f).getD 0
  match off with
  | 0x04 => some (of (·.kind) + 4 * of (·.cls) + 16 * (of (·.reserveSize) % 128) + 2 ^ 11 * (x.reserveCount % 128) +
      2 ^ 18 * (x.buffers.filter (fun b => b.state == .complete)).length)
  | 0x40 =>
    let waits := s.parts.any (fun q => q.requests.any (fun r => r.kind == .dictionary &&
      ((s.descOf r.ring r.seq).map (fun d => d.opd 17 1 == u)).getD false))
    some (x.active.getD 0 + 2 * bit x.active.isSome + ((x.banks.zipIdx.map (fun b => bit b.1.isSome * 2 ^ (2 + b.2))).sum) +
      16 * bit waits)
  | 0x44 => some (((x.banks[0]?.bind id).map (·.dictId)).getD 0)
  | 0x48 => some (((x.banks[1]?.bind id).map (·.dictId)).getD 0)
  | _ => none

/-- What the Fixer of a partition does, as SURV_STATUS.fixer codes it (R390). -/
def Part.fixerCode (q : Part) : Nat :=
  let f := q.fixer
  if f.takeover then 4 else if f.sweep.isSome then 2 else if f.admission || !f.asked.isEmpty then 3
  else if !f.dues.isEmpty then 1 else 0

/-- SURV registers (R363, R390, R423). -/
def State.viewSurv (s : State) (off : Nat) : Option Nat := match off with
  | 0x00 => if s.flag Reg.survRisk_forced then some (Reg.survRisk_risk.put (s.reg 0xB00000) 1023) else none
  | 0x14 => some ((s.parts.map Part.fixerCode).foldl max 0 + 8 * bit (s.parts.any (fun q => !q.fixer.inFlight.isEmpty)) +
      16 * s.get Reg.survStatus_restoring + 32 * s.get Reg.survStatus_unrecoverable + 64 * s.get Reg.survStatus_planInvalid)
  | 0x178 =>
    let x := s.get (Reg.survInputScore 7)
    let f := max 1 (s.get (Reg.survInputFull 7))
    some (if s.coarsened then x * f / 20460 * 20460 / f else x)
  | _ => none

/-- PWR_ESTIMATE: the bound of the admitted plans (R391). -/
def State.powerEstimate (s : State) : Nat := (s.admittedFloor.map (fun f => (s.fitted.estimate f).up)).getD 0

/-- What a PLDM power sensor reads (R423): the input power, without full view the average of the last 100 ms rounded down to
50 W. The table has no command for such a reading. -/
def State.pldmPower (s : State) : Nat :=
  if s.coarsened then average (s.power.history.map (·.1)) / 50 * 50 else s.get Reg.pwrInput

/-- What the PLDM sensor of a temperature reads in 0.1 °C (R400, R423): without full view rounded toward zero to 2 °C. -/
def State.pldmTemperature (s : State) (sensor : Nat) : Option Int :=
  s.power.temps[sensor]?.map (fun t => if s.coarsened then t.tdiv 20 * 20 else t)

/-- PWR registers (R403, R423). -/
def State.viewPwr (s : State) (off : Nat) : Option Nat :=
  let h := s.power.history
  match off with
  | 0x0C => some ((Reg.pwrStatus_capBelowFloor).put (s.reg 0xC0000C) (bit (decide (s.get Reg.pwrCap_capW < s.powerEstimate))))
  | 0x14 => if s.coarsened then
      some (average (h.map (·.2.1)) / 1000 * 1000 + 2 ^ 16 * (average (h.map (·.2.2)) / 100 * 100)) else none
  | 0x18 => if s.coarsened then some (average (h.map (·.1)) / 50 * 50) else none
  | 0x1C => some s.powerEstimate
  | 0x20 => if s.coarsened then
      some ((Reg.pwrThermal_margin).put (s.reg 0xC00020) (towardZero16 20 (s.get Reg.pwrThermal_margin))) else none
  | 0x24 => if s.coarsened then
      some ((Reg.pwrCoolant_inlet).put (s.reg 0xC00024) (towardZero16 20 (s.get Reg.pwrCoolant_inlet))) else none
  | _ => none

/-- WIN registers of partition `p` (R97): the window's activity and the slots a pool has handed out. -/
def State.viewWin (s : State) (p off : Nat) : Option Nat :=
  if off = 0x0C then some (s.reg (0x30000C + 0x1000 * p) / 2 * 2 + bit (s.winBytes p != 0))
  else if 0x100 ≤ off ∧ off < 0x300 ∧ off % 0x20 = 0x10 then
    some (((s.pool p ((off - 0x100) / 0x20)).slots.filter (fun x => x.state == .offered || x.state == .result)).length)
  else none

/-- The value shown by the register at `a` where it is state kept elsewhere. -/
def State.view (s : State) (a : Nat) : Option Nat :=
  if a < 0x100000 then s.viewSys a
  else if a < 0x200000 then (if a < 0x104000 then s.viewTick ((a - 0x100000) / 0x1000) ((a - 0x100000) % 0x1000) else none)
  else if a < 0x300000 then none
  else if a < 0x304000 then s.viewWin ((a - 0x300000) / 0x1000) ((a - 0x300000) % 0x1000)
  else if 0x500000 ≤ a ∧ a < 0x600000 then s.viewNum (a - 0x500000)
  else if 0x600000 ≤ a ∧ a < 0x700000 then s.viewMem (a - 0x600000)
  else if 0x700000 ≤ a ∧ a < 0x704000 then s.viewCodec ((a - 0x700000) / 0x1000) ((a - 0x700000) % 0x1000)
  else if 0x800000 ≤ a ∧ a < 0x900000 then s.viewDev (a - 0x800000)
  else if 0x900100 ≤ a ∧ a < 0x900400 then s.viewPort ((a - 0x900100) / 0x10) ((a - 0x900100) % 0x10)
  else if 0x900000 ≤ a ∧ a < 0xA00000 then s.viewFab (a - 0x900000)
  else if 0xA00000 ≤ a ∧ a < 0xA02000 then s.viewInt ((a - 0xA00000) / 0x1000) ((a - 0xA00000) % 0x1000)
  else if 0xB00000 ≤ a ∧ a < 0xC00000 then s.viewSurv (a - 0xB00000)
  else if 0xC00000 ≤ a ∧ a < 0xD00000 then s.viewPwr (a - 0xC00000)
  else if 0x1000000 ≤ a ∧ a < 0x1400000 then s.viewCore ((a - 0x1000000) / 0x10000) ((a - 0x1000000) % 0x10000)
  else none

/-! ### A read (R2, R7, R411, R423, R433, R441) -/

/-- The value of a counter as a reader sees it (R423, R441). -/
def State.counterSeen (s : State) (lo : Nat) : Nat :=
  if s.coarsened && (s.coarseOwner lo).isSome then readOr 0 s.coarse lo else s.counter lo

/-- The current value of the register at `a`: shown state, a half of a counter, or what is stored. -/
def State.wordNow (s : State) (a : Nat) : Nat :=
  if RegMap.isCounterLo a then s.counterSeen a % 2 ^ 32
  else if decide (4 ≤ a) && RegMap.isCounterLo (a - 4) then s.counterSeen (a - 4) / 2 ^ 32
  else (s.view a).getD (s.reg a)

/-- `a` lies in a reserved range of R432. -/
def isReserved (a : Nat) : Bool := decide ((0x400000 ≤ a ∧ a < 0x500000) ∨ 0x1400000 ≤ a)

/-- Until ready only SYS, SEC and BIST answer (R411). -/
def State.answers (s : State) (a : Nat) : Bool :=
  s.flag Reg.secBootStatus_ready || decide (a < 0x100000 ∨ (0xD00000 ≤ a ∧ a < 0xF00000))

/-- A core slot above ccc - 1 (R2). -/
def State.noCore (s : State) (a : Nat) : Bool :=
  decide (0x1000000 ≤ a ∧ a < 0x1400000 ∧ s.fitted.ccc ≤ (a - 0x1000000) / 0x10000)

/-- The data of a naturally aligned 32-bit read at `a`; the upper register of a pair shows the pair's latch. -/
def State.readWord (s : State) (a : Nat) : Nat :=
  if !s.answers a then 0xFFFFFFFF
  else if isReserved a || s.noCore a || (RegMap.locate a).isNone then 0
  else if RegMap.isPairHi a then readOr 0 s.latch (a - 4)
  else s.wordNow a

end Sys2Proof.Machine
end

