-- ==== Sys2Proof/Machine/Registers.lean ====
section
/-! DEFINITION. Writes to BAR0: access codes and ranges (R8 to R12), clamps (R10, R93), the RWA rule (R9, R26, R45), what a
write is refused for in each block (R27, R77, R95, R205, R273, R294, R375, R442, R447), its effects, and the commands of the
register space (R6, R7, R433, R441). -/

namespace Sys2Proof.Machine

/-! ### Ranges (R10, R11) -/

/-- What the Range column makes of a value. -/
inductive Ranged
  | keep (v : Nat)
  | clamp (v : Nat)
  | refuse
  deriving DecidableEq, Repr

/-- The nearest value in `lo..hi` on the step, the lower of two as near (R10). -/
def nearest (lo hi step v : Nat) : Nat :=
  let c := min (max v lo) hi
  let k := (c - lo) / step
  let r := (c - lo) % step
  if step < 2 * r ∧ lo + (k + 1) * step ≤ hi then lo + (k + 1) * step else lo + k * step

/-- A value kept or clamped. -/
def ranged (w v : Nat) : Ranged := if v = w then .keep w else .clamp v

/-- An FP32 mean clamped to -65,536..65,536; NaN counts as below (R361). -/
def clampMean (w : Nat) : Nat :=
  let m := w % 2 ^ 31
  if 0x7F800000 < m then 0xC7800000
  else if 0x47800000 < m then (if 2 ^ 31 ≤ w then 0xC7800000 else 0x47800000)
  else w

/-- The FP32 registers INT_NORM_MEAN_c and INT_NORM_SCALE_c (R361): their clamped value. -/
def clampNorm (a w : Nat) : Option Nat :=
  if 0xA00000 ≤ a ∧ a < 0xA02000 ∧ 0x20 ≤ a % 0x1000 ∧ a % 0x1000 < 0x38 then
    some (if a % 8 = 0 then clampMean w else clampFp 0x37800000 0x47800000 w)
  else none

/-- The Range of a field applied to a value; ranges with a rule of their own are judged with the register (R10). -/
def FieldSpec.judge (f : FieldSpec) (a w : Nat) : Ranged := match f.rng with
  | .free => .keep w
  | .check => ranged w ((clampNorm a w).getD w)
  | .clamp lo hi step => ranged w (nearest lo hi step w)
  | .clampS m hi =>
    let x := signed f.width w
    ranged w (unsigned f.width (max (-(m : Int)) (min (hi : Int) x)))
  | .refuse lo hi => if lo ≤ w ∧ w ≤ hi then .keep w else .refuse

/-! ### Owners (R45, R93) -/

/-- The partition that an RWA register belongs to; none for one of the module (R45). -/
def State.regOwner (s : State) (a : Nat) : Option Nat :=
  if 0x100000 ≤ a ∧ a < 0x200000 then some ((a - 0x100000) / 0x1000)
  else if 0x300000 ≤ a ∧ a < 0x400000 then some ((a - 0x300000) / 0x1000)
  else if 0x600010 ≤ a ∧ a < 0x600030 then some ((a - 0x600010) / 8)
  else if 0x604010 ≤ a ∧ a < 0x604050 then some (s.diePart ((a - 0x604010) / 0x10))
  else if 0x900100 ≤ a ∧ a < 0x900400 then some (s.portPart ((a - 0x900100) / 0x10))
  else if 0xA00000 ≤ a ∧ a < 0xB00000 then some (s.get (Reg.intUnitControl_partition ((a - 0xA00000) / 0x1000)))
  else if 0xF00000 ≤ a ∧ a < 0x1000000 then some ((a - 0xF00000) / 0x1000)
  else none

/-- The partition whose clamp log takes a clamp of this register (R92, R93). -/
def State.clampOwner (s : State) (a : Nat) : Nat :=
  if 0x200000 ≤ a ∧ a < 0x300000 then s.ringPart ((a - 0x200000) / 0x100) else (s.regOwner a).getD 0

/-- The unit that raises the events of a write to this register: the partition whose register, ring or core it is, or the
module (R435; log entry 48). -/
def State.regUnit (s : State) (a : Nat) : UnitId :=
  if 0x200000 ≤ a ∧ a < 0x300000 then UnitId.partition (s.ringPart ((a - 0x200000) / 0x100))
  else if 0x700000 ≤ a ∧ a < 0x800000 then UnitId.partition ((a - 0x700000) / 0x1000)
  else if 0x1000000 ≤ a ∧ a < 0x1400000 then UnitId.partition (s.corePart ((a - 0x1000000) / 0x10000))
  else match s.regOwner a with
    | some p => UnitId.partition p
    | none => UnitId.module

/-- A plan is admitted that the register waits for (R9, R45). -/
def State.rwaBlocked (s : State) (a : Nat) : Bool := match s.regOwner a with
  | some p => s.admitted p
  | none => s.anyAdmitted

/-- An RWA write restarts the checks that the register belongs to (R9, R26). -/
def State.restartChecks (s : State) (a : Nat) : State :=
  (List.range 4).foldl (fun s p =>
    if (s.part p).phase == .checking && (s.regOwner a).all (· == p) then s.modPart p (fun q => { q with restarted := true })
    else s) s

/-! ### What a write is refused for -/

/-- A ring that may be enabled (R95): both bases 4 KiB-aligned and not zero, and its address ranges apart. -/
def State.ringSound (s : State) (n : Nat) : Bool :=
  let d := s.pair (Reg.ringDescBase n)
  let c := s.pair (Reg.ringCplBase n)
  d != 0 && c != 0 && d % 4096 == 0 && c % 4096 == 0 && !overlaps d (128 * s.descSize n) c (32 * s.cplSize n)

/-- RING registers (R95, R96). -/
def State.ringUnsound (s : State) (n off new : Nat) : Bool :=
  let on := s.flag (Reg.ringControl_enable n)
  match off with
  | 0x08 | 0x14 => on
  | 0x18 =>
    let p := bitsAt new 2 2
    !s.partExists p || (on && p != s.ringPart n) || (bitAt new 0 == 1 && !s.ringSound n)
  | _ => false

/-- The partition HBM address of die `d`'s KV pool (R197). -/
def State.kvAddr (s : State) (d base : Nat) : Nat :=
  (s.fitted.stacksBefore d - s.fitted.stacksBefore (s.firstDie (s.diePart d))) * stackUsable + base

/-- The HBM range of partition `p` overlaps a KV pool of its dies (R205, R447). -/
def State.hitsKvPool (s : State) (p a n : Nat) : Bool :=
  (s.diesOf p).any (fun d => overlaps a n (s.kvAddr d (s.pair (Reg.kvPoolBase d))) (s.poolPages d * s.pageBytes))

/-- Bytes of partition `p`'s event ring under this size (R442). -/
def ringBytes (log : Nat) : Nat := 32 * 2 ^ log

/-- Window offset of the event ring. -/
def State.eventRingAt (s : State) (p : Nat) : Nat := s.get (Reg.evtRingOffset_offset4kib p) * 4096

/-- A window at `base` of `size` bytes is refused (R97, R447). -/
def State.windowUnsound (s : State) (p base size : Nat) : Bool :=
  base % 2 ^ 21 != 0 || decide (s.hbmSize p < base + size) ||
    (List.range 16).any (fun q => s.poolUse p q != 0 && !within (s.poolBase p q) (s.poolExtent p q) 0 size) ||
    (s.flag (Reg.evtRingSize_enable p) &&
      !within (s.eventRingAt p) (ringBytes (s.get (Reg.evtRingSize_sizeLog2 p))) 0 size) ||
    s.hitsProtected p base size || s.hitsStore p base size || s.hitsKvPool p base size

/-- A clamp log at `off` of this size is refused (R97). -/
def State.logUnsound (s : State) (p off log : Nat) : Bool :=
  off % 4096 != 0 || !within off (ringBytes log) 0 (s.winBytes p) || s.hitsPool p 16 off (ringBytes log)

/-- A pool's new configuration is refused (R77, R97, R447). -/
def State.poolUnsound (s : State) (p q new : Nat) : Bool :=
  let old := s.reg ((Reg.winPool_use p q).addr)
  let use := bitsAt new 8 2
  let unit := bitAt new 10
  let strange := s.get (Reg.intUnitControl_partition unit) != p
  if bitsAt old 8 2 ≠ 0 ∧ use ≠ 0 then
    (Reg.winPool_slotLog2 p q).of old != bitsAt new 0 5 || bitAt old 10 != unit || bitsAt old 8 2 != use
  else (bitAt old 10 != unit && strange) || (use != 0 &&
    (let base := s.poolBase p q
     let n := up2Mib (64 * s.poolCount p q) + s.poolCount p q * 2 ^ bitsAt new 0 5
     !within base n 0 (s.winBytes p) || s.hitsPool p q base n ||
       overlaps base n (s.get (Reg.winClampLog_offset p)) (s.clampLogBytes p) ||
       (s.flag (Reg.evtRingSize_enable p) &&
         overlaps base n (s.eventRingAt p) (ringBytes (s.get (Reg.evtRingSize_sizeLog2 p)))) ||
       (use == 1 && strange)))

/-- WIN registers (R97, R447). -/
def State.winUnsound (s : State) (p off new : Nat) : Bool :=
  if 0x100 ≤ off ∧ off < 0x300 then
    let q := (off - 0x100) / 0x20
    match off % 0x20 with
    | 0x00 | 0x04 => s.poolUse p q != 0
    | 0x08 => s.poolUnsound p q new
    | _ => false
  else match off with
    | 0x08 => decide (32768 < bitsAt new 0 16) || s.windowUnsound p (s.winBase p) (bitsAt new 0 16 * 2 ^ 21)
    | 0x10 => s.logUnsound p new (s.get (Reg.winClampLog_sizeLog2 p))
    | 0x1C => decide (2 ^ s.get (Reg.winClampLog_sizeLog2 p) < countDiff (s.get (Reg.winClampLog_head p)) new)
    | _ => false

/-- A partition's allotment of the Negative store is refused (R272, R276). -/
def State.allotUnsound (s : State) (p base size : Nat) : Bool :=
  size != 0 && (decide (s.get Reg.memNegUsable_usableGib < s.get Reg.memNegSealed_sealedGib + base + size) ||
    (List.range 4).any (fun q => q != p && overlaps base size (s.get (Reg.memNegPartBase q)) (s.get (Reg.memNegPartSize q))))

/-- A sealed region size is refused (R273, R276). -/
def State.sealedUnsound (s : State) (new : Nat) : Bool :=
  let usable := s.get Reg.memNegUsable_usableGib
  decide (usable < new) || (new != s.get Reg.memNegSealed_sealedGib && (s.flag Reg.memNegStatus_sealedInUse ||
    (List.range 4).any (fun p => s.get (Reg.memNegPartSize p) != 0 &&
      decide (usable - new < s.get (Reg.memNegPartBase p) + s.get (Reg.memNegPartSize p)))))

/-- A KV pool of die `d` is refused (R205). -/
def State.kvUnsound (s : State) (d base pages : Nat) : Bool :=
  let p := s.diePart d
  let a := s.kvAddr d base
  let n := pages * s.pageBytes
  base % s.pageBytes != 0 || decide (s.fitted.stacksOn d * stackUsable < base + n) || s.hitsWindow p a n || s.hitsStore p a n ||
    decide (2 ^ 24 < pages + (((List.range 4).filter (· != d)).map s.poolPages).sum)

/-- MEM registers (R205, R273, R276). -/
def State.memUnsound (s : State) (off new : Nat) : Bool :=
  if off = 0 then s.sealedUnsound (bitsAt new 0 16)
  else if 0x10 ≤ off ∧ off < 0x30 then
    let p := (off - 0x10) / 8
    if off % 8 = 0 then s.allotUnsound p (bitsAt new 0 16) (s.get (Reg.memNegPartSize p))
    else s.allotUnsound p (s.get (Reg.memNegPartBase p)) (bitsAt new 0 16)
  else if 0x4010 ≤ off ∧ off < 0x4050 ∧ off % 0x10 = 8 then
    let d := (off - 0x4010) / 0x10
    s.kvUnsound d (s.pair (Reg.kvPoolBase d)) (bitsAt new 0 25)
  else false

/-- An event ring at `off` of this size is misplaced (R442). -/
def State.eventRingUnsound (s : State) (p off log : Nat) : Bool :=
  !within off (ringBytes log) 0 (s.winBytes p) || s.hitsPool p 16 off (ringBytes log) ||
    overlaps off (ringBytes log) (s.get (Reg.winClampLog_offset p)) (s.clampLogBytes p)

/-- EVT registers (R442). -/
def State.evtUnsound (s : State) (p off new : Nat) : Bool := match off with
  | 0x00 => s.flag (Reg.evtRingSize_enable p) && s.eventRingUnsound p (bitsAt new 0 24 * 4096) (s.get (Reg.evtRingSize_sizeLog2 p))
  | 0x04 => bitAt new 5 == 1 && (decide (bitsAt new 0 5 < 7 ∨ 20 < bitsAt new 0 5) ||
    s.eventRingUnsound p (s.eventRingAt p) (bitsAt new 0 5))
  | 0x0C => decide (s.eventRingSize p < countDiff (s.get (Reg.evtRingHead p)) new)
  | _ => false

/-- TICK_HOLD_LIMIT fails case 2 of R375 for the admitted plan (R46). -/
def State.holdUnsound (s : State) (p limit : Nat) : Bool := match s.planOf p with
  | some pl => s.admitted p && (s.checkOf p pl).sweepHolds (s.stopWindow p pl) limit
  | none => false

/-- A register's new value `new`, written as `w`, is refused by a rule of its block. -/
def State.unsound (s : State) (a new w : Nat) : Bool :=
  if 0x100000 ≤ a ∧ a < 0x200000 then a % 0x1000 == 0x24 && s.holdUnsound ((a - 0x100000) / 0x1000) (bitsAt new 0 13)
  else if 0x200000 ≤ a ∧ a < 0x300000 then s.ringUnsound ((a - 0x200000) / 0x100) (a % 0x100) new
  else if 0x300000 ≤ a ∧ a < 0x400000 then s.winUnsound ((a - 0x300000) / 0x1000) (a % 0x1000) new
  else if 0x600000 ≤ a ∧ a < 0x700000 then s.memUnsound (a - 0x600000) new
  else if 0x900100 ≤ a ∧ a < 0x900400 then a % 0x10 == 4 && !s.partExists (bitsAt new 0 2)
  else if a = 0x900010 then bitsAt new 1 6 != 63 && decide (12 * s.fitted.io ≤ bitsAt new 1 6)
  else if 0xA00000 ≤ a ∧ a < 0xB00000 then a % 0x1000 == 0 && !s.partExists (bitsAt new 0 2)
  else if a = 0xC00008 then bitAt w 0 == 1 && !s.allIdle
  else if 0xF00000 ≤ a ∧ a < 0x1000000 then s.evtUnsound ((a - 0xF00000) / 0x1000) (a % 0x1000) new
  else false

/-! ### Effects of a write -/

/-- The grid of partition `p` as its origin and length now stand (R21). -/
def State.regrid (s : State) (p : Nat) : State :=
  if !s.time.everLocked then s
  else
    let n := s.nextTickOf p
    s.modPart p (fun q => { q with nextTick := n, exposure := n - 1, started := decide (0 < n) })

/-- RING_CONTROL.enable runs a disabled ring, or stops a running one (R96). -/
def State.ringSwitched (s : State) (n old : Nat) : State :=
  let now := s.get (Reg.ringControl_enable n)
  if bitAt old 0 = 0 ∧ now = 1 ∧ s.ringState n = 0 then s.set (Reg.ringStatus_state n) 1
  else if bitAt old 0 = 1 ∧ now = 0 ∧ s.ringState n = 1 then s.set (Reg.ringStatus_state n) 0
  else s

/-- A pool is enabled or disabled (R82). -/
def State.poolSwitched (s : State) (p q old : Nat) : State :=
  let use := s.poolUse p q
  if use = 0 then s.disablePool p q else if bitsAt old 8 2 = 0 then s.enablePool p q use else s

/-- A change of sealed_gib wipes the working region again (R273); the ward areas, which begin elsewhere now, hold no mirror. -/
def State.sealedChanged (s : State) : State :=
  let kept := s.sealedOnly
  { s with neg := kept.1, negTags := kept.2, wards := [] }.set Reg.memNegStatus_wiped 0

/-- The module becomes the time root: fabric time counts from its own reference (R331). -/
def State.becomeRoot (s : State) : State :=
  let lost := s.time.everLocked && !s.time.locked
  let s := { s with time := { s.time with everLocked := true, locked := true, lostAt := none, slew := 0 } }
  if lost then s.raise Ev.timeLocked UnitId.module else s

/-- An event ring moved or resized starts anew, its slots free (R439, R442); partition 0's ring enabled first receives what waited (R440, R442). -/
def State.eventRingChanged (s : State) (p : Nat) (moved : Bool) : State :=
  let s := if moved then ((s.set (Reg.evtRingHead p) 0).set (Reg.evtRingTail p) 0).flushOverrun p else s
  if p = 0 && s.flag (Reg.evtRingSize_enable p) then s.firstEventRing else s

/-- A write to PWR_CAP below the admitted estimate (R393). -/
def State.capWritten (s : State) : State :=
  let est := s.powerEstimate
  if s.get Reg.pwrCap_capW < est then
    s.raise Ev.powerCapBelowFloor UnitId.power { value := s.get Reg.pwrCap_capW, value2 := est }
  else s

/-- What a write of a register outside the per-unit blocks brings about at once (the second half of
`State.afterWrite`): a sealed size (R365), a new root of the fabric's time (R332), a new power cap (R393),
`no_deep` (R399), the mailbox of the root of trust (R411) and the event rings (R442). -/
def State.afterModuleWrite (s : State) (a old w : Nat) : State :=
  if a = 0x600000 then (if old = s.reg a then s else s.sealedChanged)
  else if a = 0x900010 then (if bitAt old 0 = 0 ∧ s.flag Reg.fabTimeConfig_root then s.becomeRoot else s)
  else if a = 0xC00000 then s.capWritten
  else if a = 0xC00008 then (if s.flag Reg.pwrControl_noDeep then s.leaveDeep else s)
  else if a = 0xD00040 then (if bitAt w 31 = 1 then s.set Reg.secMbxStatus_busy 1 else s)
  else if 0xF00000 ≤ a ∧ a < 0x1000000 then
    let p := (a - 0xF00000) / 0x1000
    match a % 0x1000 with
    | 0x00 => s.eventRingChanged p (old != s.reg a)
    | 0x04 => s.eventRingChanged p (bitsAt old 0 5 != s.get (Reg.evtRingSize_sizeLog2 p))
    | 0x0C => s.flushOverrun p
    | _ => s
  else s

/-- What a write does beside storing its fields, `old` being the register before: the cores, rings and partitions first. -/
def State.afterWrite (s : State) (a old w : Nat) : State :=
  if 0x100000 ≤ a ∧ a < 0x200000 ∧ a % 0x1000 = 0x10 then
    (if old = s.reg a then s else s.regrid ((a - 0x100000) / 0x1000))
  else if 0x200000 ≤ a ∧ a < 0x300000 ∧ a % 0x100 = 0x18 then s.ringSwitched ((a - 0x200000) / 0x100) old
  else if 0x200000 ≤ a ∧ a < 0x300000 ∧ a % 0x100 = 0x14 then s.noteFull ((a - 0x200000) / 0x100)
  else if 0x300000 ≤ a ∧ a < 0x400000 then
    let p := (a - 0x300000) / 0x1000
    if a % 0x1000 = 0x1C then (if old = s.reg a then s else s.modPart p (fun q => { q with clampFull := false }))
    else if 0x100 ≤ a % 0x1000 ∧ a % 0x1000 < 0x300 ∧ a % 0x20 = 8 then s.poolSwitched p ((a % 0x1000 - 0x100) / 0x20) old
    else s
  else s.afterModuleWrite a old w

/-! ### One write (R8 to R12) -/

/-- A write worked out field by field: the value to store, whether a field refuses it, whether it would change an RWA field,
and the fields clamped as (field, written, stored). -/
structure Attempt where
  value : Nat
  refused : Bool
  rwa : Bool
  clamps : List (FieldSpec × Nat × Nat)
  deriving DecidableEq, Repr

/-- The bits of a field's register. -/
def FieldSpec.fld (f : FieldSpec) (a : Nat) : Fld := ⟨a, f.lo, f.width⟩

/-- One field of a write. -/
def Attempt.field (t : Attempt) (a old w : Nat) (f : FieldSpec) : Attempt :=
  let g := f.fld a
  let v := g.of w
  let put := fun (x : Nat) => { t with value := g.put t.value x, rwa := t.rwa || (f.acc == .rwa && x != g.of old) }
  match f.acc with
  | .ro | .wo => t
  | .w1c => { t with value := g.put t.value (g.of old - (g.of old &&& v)) }
  | .rw | .rwa => match f.judge a v with
    | .keep x => put x
    | .clamp x => { put x with clamps := t.clamps ++ [(f, v, x)] }
    | .refuse => { t with refused := true }

/-- A write of `w` to the register at `a` that holds `old`. -/
def attempt (a old w : Nat) : Attempt := (RegMap.fieldsAt a).foldl (fun t f => t.field a old w f) ⟨old, false, false, []⟩

/-- A refused write (R11). -/
def State.refuseWrite (s : State) (a w : Nat) : State := 
  s.raise Ev.regWriteRefused (s.regUnit a) { value := a, value2 := w }

/-- The clamp reports of a write (R11, R93). -/
def State.reportClamps (s : State) (a : Nat) (l : List (FieldSpec × Nat × Nat)) : State :=
  l.foldl (fun s x => s.reportClamp (s.regUnit a) (s.clampOwner a) ⟨a, 1, x.1.lo, x.1.width, 0xFF, x.2.1, x.2.2⟩) s

/-- A write of `w` to the register at `a`. -/
def State.writeReg (s : State) (a w : Nat) : State :=
  let old := s.reg a
  let t := attempt a old w
  if t.refused || (t.rwa && s.rwaBlocked a) || s.unsound a t.value w then s.refuseWrite a w
  else
    let s := (s.setReg a t.value).reportClamps a t.clamps
    let s := s.afterWrite a old w
    if t.rwa then s.restartChecks a else s

/-- A register write reaches its block (R2, R411, R433). -/
def State.takesWrite (s : State) (a : Nat) : Bool :=
  a % 4 == 0 && s.answers a && !isReserved a && !s.noCore a && (RegMap.locate a).isSome

/-! ### The commands of the register space -/

/-- BAR0_BAD_SIZE_ACCESS (R6). -/
def doBar0BadSizeAccess (offset size : Nat) (write : Bool) (s : State) : State :=
  if size = 4 ∧ offset % 4 = 0 then s
  else
    let t := if write then s else s.answer (List.replicate size 0xFF)
    if s.answers offset then t.raise Ev.regAccessBad UnitId.module { value := offset, cause := 1 } else t

/-- RESERVED_RANGE_ACCESS (R433). -/
def doReservedRangeAccess (offset : Nat) (write : Bool) (s : State) : State :=
  if offset % 4 ≠ 0 ∨ !isReserved offset then s
  else
    let t := if write then s else s.answer (leBytes (s.readWord offset) 4)
    if s.answers offset then t.raise Ev.regAccessBad UnitId.module { value := offset, cause := 2 } else t

/-- PAIR_LOW_READ (R7): the lower half is returned, and the upper half goes into the latch. -/
def doPairLowRead (offset : Nat) (s : State) : State :=
  if offset % 4 ≠ 0 ∨ !RegMap.isPairLo offset then s
  else
    let t := s.answer (leBytes (s.readWord offset) 4)
    if s.takesWrite offset then { t with latch := writeOr 0 t.latch offset (s.wordNow (offset + 4)) } else t

/-- The access code of a pair's halves: a pair that is written (R7, R8). -/
def pairWritten (lo : Nat) : Bool :=
  RegMap.isPairLo lo && (RegMap.fieldsAt lo).any (fun f => f.acc == .rw || f.acc == .rwa)

/-- PAIR_LOW_WRITE (R7): the lower half is held. -/
def doPairLowWrite (offset : Nat) (value : Word) (s : State) : State :=
  if s.takesWrite offset && pairWritten offset then { s with held := insertKey s.held offset value.toNat } else s

/-- The value that a write of the upper half forms (R7). -/
def State.formed (s : State) (lo hi : Nat) : Nat := hi * 2 ^ 32 + (lookup s.held lo).getD (s.reg lo)

/-- The pair takes effect. -/
def State.takePair (s : State) (lo v : Nat) : State :=
  let s := s.setPair lo v
  { s with held := eraseKey s.held lo }

/-- A pair's new value is refused by a rule of its block (R95, R97, R205, R447). -/
def State.pairUnsound (s : State) (lo v : Nat) : Bool :=
  if 0x200000 ≤ lo ∧ lo < 0x300000 then v % 4096 != 0 || s.flag (Reg.ringControl_enable ((lo - 0x200000) / 0x100))
  else if 0x300000 ≤ lo ∧ lo < 0x400000 then
    let p := (lo - 0x300000) / 0x1000
    s.windowUnsound p v (s.winBytes p)
  else if 0x604010 ≤ lo ∧ lo < 0x604050 then
    let d := (lo - 0x604010) / 0x10
    s.kvUnsound d v (s.poolPages d)
  else false

/-- A write to the upper half of a pair (R7, R9). -/
def State.writePair (s : State) (lo hi : Nat) : State :=
  let v := s.formed lo hi
  let rwa := (RegMap.fieldsAt lo).any (fun f => f.acc == .rwa) && v != s.pair lo
  if (rwa && s.rwaBlocked lo) || s.pairUnsound lo v then s.refuseWrite lo hi
  else
    let t := s.takePair lo v
    let t := if rwa && decide (lo < 0x200000) then t.regrid ((lo - 0x100000) / 0x1000) else t
    if rwa then t.restartChecks lo else t

/-- PAIR_HIGH_WRITE (R7, R11); TICK_START has a row of its own. -/
def doPairHighWrite (offset : Nat) (value : Word) (s : State) : State :=
  if offset < 4 ∨ !s.takesWrite offset ∨ !pairWritten (offset - 4) ∨
      (List.range 4).any (fun p => Reg.tickStart p == offset - 4) then s
  else s.writePair (offset - 4) value.toNat

/-- TICK_START_WRITE (R27, R382, R387). -/
def doTickStartWrite (p : Nat) (hi : Word) (s : State) : State :=
  let lo := Reg.tickStart p
  if 4 ≤ p ∨ !s.takesWrite lo then s
  else
    let v := s.formed lo hi.toNat
    let q := s.part p
    let now := if q.started then q.exposure else 0
    if q.phase != .admitted || decide (v < now + 2) || s.standby || q.fixer.admission then s.refuseWrite lo hi.toNat
    else s.takePair lo v

/-- Registers that a row of their own writes: PWR_CAP, MEM_NEG_SEALED, DEV_GROUP_CONTROL, SEC_RESET, WIN_POOL_CONFIG, and the
clear registers. -/
def ownRow (a : Nat) : Bool :=
  [0xC00000, 0x600000, 0x800014, 0xD00014].contains a || (RegMap.clearedBy a).isSome ||
    (decide (0x300000 ≤ a ∧ a < 0x400000) && decide (0x100 ≤ a % 0x1000 ∧ a % 0x1000 < 0x300) && a % 0x20 == 8)

/-- REGISTER_WRITE (R8 to R12): a register without a row of its own. -/
def doRegisterWrite (offset : Nat) (value : Word) (s : State) : State :=
  if s.takesWrite offset && !RegMap.isPairLo offset && !RegMap.isPairHi offset && !ownRow offset then s.writeReg offset value.toNat
  else s

/-- POOL_CONFIG_WRITE (R77, R82, R447). -/
def doPoolConfigWrite (p pool : Nat) (value : Word) (s : State) : State :=
  let a := (Reg.winPool_use p pool).addr
  if p < 4 ∧ pool < 16 ∧ s.takesWrite a then s.writeReg a value.toNat else s

/-- SEALED_SIZE_WRITE (R273). -/
def doSealedSizeWrite (value : Word) (s : State) : State := if s.takesWrite 0x600000 then s.writeReg 0x600000 value.toNat else s

/-- POWER_CAP_WRITE (R393). -/
def doPowerCapWrite (value : Word) (s : State) : State := if s.takesWrite 0xC00000 then s.writeReg 0xC00000 value.toNat else s

/-- GROUP_FREEZE_WRITE (R294): the selected group's frozen state from the next boundary; 0 is refused for a group frozen at
admission. -/
def doGroupFreezeWrite (value : Word) (s : State) : State :=
  if !s.takesWrite 0x800014 then s
  else match s.groupPart with
    | none => s
    | some p =>
      let g := s.get Reg.devGroupSelect_group
      let want := bitAt value.toNat 0 == 1
      if !want && (s.group p g).frozenAtAdmission then s.refuseWrite 0x800014 value.toNat
      else s.modGroup p g (fun x => { x with pending := if want == x.frozen then none else some want })

/-- COUNTER_CLEAR (R441). -/
def doCounterClear (offset : Nat) (value : Word) (s : State) : State :=
  if !s.takesWrite offset then s
  else match RegMap.clearedBy offset with
    | none => s
    | some l => l.zipIdx.foldl (fun s x => if bitAt value.toNat x.2 = 1 then s.clearCounter x.1 else s) s

/-- LAYER_REPLAYS_CLEAR (R152): the replay count of the selected layer. -/
def doLayerReplaysClear (value : Word) (s : State) : State :=
  if s.takesWrite 0x500070 && bitAt value.toNat 6 == 1 then
    s.modLayer (s.get Reg.numLayerSelect_layer) (fun e => { e with replays := 0 })
  else s

end Sys2Proof.Machine
end

