-- ==== Sys2Proof/Machine/Meanings.lean ====
section
/-! DEFINITION. The meaning of each command as the outcome of its step: every command of the block goes on to a next
state, which its family's file defines under the same name; with its rails off (R396) the module does nothing but return
(R394). -/

namespace Sys2Proof.Machine

/-- BAR0_BAD_SIZE_ACCESS (R6). -/
def execBar0BadSizeAccess (offset size : Nat) (write : Bool) (s : State) : Host.Outcome State Fault Refusal :=
  .next (s.whenOn (doBar0BadSizeAccess offset size write))

/-- RESERVED_RANGE_ACCESS (R433). -/
def execReservedRangeAccess (offset : Nat) (write : Bool) (s : State) : Host.Outcome State Fault Refusal :=
  .next (s.whenOn (doReservedRangeAccess offset write))

/-- PAIR_LOW_READ (R7). -/
def execPairLowRead (offset : Nat) (s : State) : Host.Outcome State Fault Refusal :=
  .next (s.whenOn (doPairLowRead offset))

/-- PAIR_LOW_WRITE (R7). -/
def execPairLowWrite (offset : Nat) (value : Word) (s : State) : Host.Outcome State Fault Refusal :=
  .next (s.whenOn (doPairLowWrite offset value))

/-- PAIR_HIGH_WRITE (R7). -/
def execPairHighWrite (offset : Nat) (value : Word) (s : State) : Host.Outcome State Fault Refusal :=
  .next (s.whenOn (doPairHighWrite offset value))

/-- REGISTER_WRITE (R11). -/
def execRegisterWrite (offset : Nat) (value : Word) (s : State) : Host.Outcome State Fault Refusal :=
  .next (s.whenOn (doRegisterWrite offset value))

/-- COUNTER_CLEAR (R441). -/
def execCounterClear (offset : Nat) (value : Word) (s : State) : Host.Outcome State Fault Refusal :=
  .next (s.whenOn (doCounterClear offset value))

/-- LAYER_REPLAYS_CLEAR (R152). -/
def execLayerReplaysClear (value : Word) (s : State) : Host.Outcome State Fault Refusal :=
  .next (s.whenOn (doLayerReplaysClear value))

/-- TICK_START_WRITE (R27). -/
def execTickStartWrite (p : Nat) (hi : Word) (s : State) : Host.Outcome State Fault Refusal :=
  .next (s.whenOn (doTickStartWrite p hi))

/-- WITHDRAW (R26). -/
def execWithdraw (p : Nat) (s : State) : Host.Outcome State Fault Refusal :=
  .next (s.whenOn (doWithdraw p))

/-- PLAN_WITHDRAWAL (R26). -/
def execPlanWithdrawal (p : Nat) (s : State) : Host.Outcome State Fault Refusal :=
  .next (s.whenOn (doPlanWithdrawal p))

/-- SHUTTER_TICK (R21). -/
def execShutterTick (p : Nat) (ecc : EccCounts) (s : State) : Host.Outcome State Fault Refusal :=
  .next (s.whenOn (doShutterTick p ecc))

/-- STEP_ZERO_START (R26). -/
def execStepZeroStart (p : Nat) (s : State) : Host.Outcome State Fault Refusal :=
  .next (s.whenOn (doStepZeroStart p))

/-- STEP_END (R24). -/
def execStepEnd (p : Nat) (s : State) : Host.Outcome State Fault Refusal :=
  .next (s.whenOn (doStepEnd p))

/-- STEP_HELD (R41). -/
def execStepHeld (p : Nat) (s : State) : Host.Outcome State Fault Refusal :=
  .next (s.whenOn (doStepHeld p))

/-- STEP_HOLD_LIMIT (R41). -/
def execStepHoldLimit (p : Nat) (s : State) : Host.Outcome State Fault Refusal :=
  .next (s.whenOn (doStepHoldLimit p))

/-- PROMOTION_EXPIRY (R142). -/
def execPromotionExpiry (p layer : Nat) (s : State) : Host.Outcome State Fault Refusal :=
  .next (s.whenOn (doPromotionExpiry p layer))

/-- COMPLETION_NOTICE (R446). -/
def execCompletionNotice (p : Nat) (n : Notice) (s : State) : Host.Outcome State Fault Refusal :=
  .next (s.whenOn (doCompletionNotice p n))

/-- TIME_LOCK_TIMEOUT (R16). -/
def execTimeLockTimeout (p : Nat) (s : State) : Host.Outcome State Fault Refusal :=
  .next (s.whenOn (doTimeLockTimeout p))

/-- DOORBELL_TAIL (R67). -/
def execDoorbellTail (ring : Nat) (value : Word) (s : State) : Host.Outcome State Fault Refusal :=
  .next (s.whenOn (doDoorbellTail ring value))

/-- DOORBELL_COMPLETION_HEAD (R67). -/
def execDoorbellCompletionHead (ring : Nat) (value : Word) (s : State) : Host.Outcome State Fault Refusal :=
  .next (s.whenOn (doDoorbellCompletionHead ring value))

/-- DOORBELL_BAD (R66). -/
def execDoorbellBad (ring offset size value : Nat) (s : State) : Host.Outcome State Fault Refusal :=
  .next (s.whenOn (doDoorbellBad ring offset size value))

/-- WIN_ACCESS_BAD (R63). -/
def execWinAccessBad (bar offset : Nat) (write : Bool) (s : State) : Host.Outcome State Fault Refusal :=
  .next (s.whenOn (doWinAccessBad bar offset write))

/-- DESCRIPTOR_FETCH (R72). -/
def execDescriptorFetch (ring : Nat) (bytes : List Byte) (hostStatus : Nat) (s : State) : Host.Outcome State Fault Refusal :=
  .next (s.whenOn (doDescriptorFetch ring bytes hostStatus))

/-- NOP (R70). -/
def execNop (ring : Nat) (s : State) : Host.Outcome State Fault Refusal :=
  .next (s.whenOn (doNop ring))

/-- LOAD_PLAN (R92). -/
def execLoadPlan (ring : Nat) (s : State) : Host.Outcome State Fault Refusal :=
  .next (s.whenOn (doLoadPlan ring))

/-- ADMIT (R26). -/
def execAdmitPlan (ring : Nat) (s : State) : Host.Outcome State Fault Refusal :=
  .next (s.whenOn (doAdmitPlan ring))

/-- LIGHT_METER_DONE (R30). -/
def execLightMeterDone (p : Nat) (s : State) : Host.Outcome State Fault Refusal :=
  .next (s.whenOn (doLightMeterDone p))

/-- UNLOAD_PLAN (R70). -/
def execUnloadPlan (ring : Nat) (s : State) : Host.Outcome State Fault Refusal :=
  .next (s.whenOn (doUnloadPlan ring))

/-- COPY_IN (R71). -/
def execCopyIn (ring : Nat) (s : State) : Host.Outcome State Fault Refusal :=
  .next (s.whenOn (doCopyIn ring))

/-- COPY_OUT (R71). -/
def execCopyOut (ring : Nat) (s : State) : Host.Outcome State Fault Refusal :=
  .next (s.whenOn (doCopyOut ring))

/-- COPY_DONE (R75). -/
def execCopyDone (ring seq : Nat) (data : List Byte) (hostStatus : Nat) (s : State) : Host.Outcome State Fault Refusal :=
  .next (s.whenOn (doCopyDone ring seq data hostStatus))

/-- FENCE (R70). -/
def execFence (ring : Nat) (s : State) : Host.Outcome State Fault Refusal :=
  .next (s.whenOn (doFence ring))

/-- CONTEXT_OPEN (R195). -/
def execContextOpen (ring : Nat) (s : State) : Host.Outcome State Fault Refusal :=
  .next (s.whenOn (doContextOpen ring))

/-- CONTEXT_FORK (R195). -/
def execContextFork (ring : Nat) (s : State) : Host.Outcome State Fault Refusal :=
  .next (s.whenOn (doContextFork ring))

/-- CONTEXT_CLOSE (R195). -/
def execContextClose (ring : Nat) (s : State) : Host.Outcome State Fault Refusal :=
  .next (s.whenOn (doContextClose ring))

/-- CONTEXT_APPLY (R192). -/
def execContextApply (p : Nat) (s : State) : Host.Outcome State Fault Refusal :=
  .next (s.whenOn (doContextApply p))

/-- CLEAR_TABLE_LOAD (R267). -/
def execClearTableLoad (ring : Nat) (s : State) : Host.Outcome State Fault Refusal :=
  .next (s.whenOn (doClearTableLoad ring))

/-- CLEAR_TABLE_MAKE_CURRENT (R267). -/
def execClearTableMakeCurrent (ring : Nat) (s : State) : Host.Outcome State Fault Refusal :=
  .next (s.whenOn (doClearTableMakeCurrent ring))

/-- CLEAR_TABLE_DISCARD (R267). -/
def execClearTableDiscard (ring : Nat) (s : State) : Host.Outcome State Fault Refusal :=
  .next (s.whenOn (doClearTableDiscard ring))

/-- CLEAR_TABLE_APPLY (R267). -/
def execClearTableApply (p : Nat) (s : State) : Host.Outcome State Fault Refusal :=
  .next (s.whenOn (doClearTableApply p))

/-- CLEAR_GEN_FREED (R265). -/
def execClearGenFreed (p gen : Nat) (s : State) : Host.Outcome State Fault Refusal :=
  .next (s.whenOn (doClearGenFreed p gen))

/-- DICTIONARY_LOAD (R349). -/
def execDictionaryLoad (ring : Nat) (s : State) : Host.Outcome State Fault Refusal :=
  .next (s.whenOn (doDictionaryLoad ring))

/-- DICTIONARY_LOAD_DONE (R349). -/
def execDictionaryLoadDone (unit bank : Nat) (s : State) : Host.Outcome State Fault Refusal :=
  .next (s.whenOn (doDictionaryLoadDone unit bank))

/-- DICTIONARY_ACTIVATE (R349). -/
def execDictionaryActivate (ring : Nat) (s : State) : Host.Outcome State Fault Refusal :=
  .next (s.whenOn (doDictionaryActivate ring))

/-- DICTIONARY_ACTIVATE_APPLY (R349). -/
def execDictionaryActivateApply (p : Nat) (s : State) : Host.Outcome State Fault Refusal :=
  .next (s.whenOn (doDictionaryActivateApply p))

/-- RESHARD_PREPARE (R333). -/
def execReshardPrepare (ring : Nat) (s : State) : Host.Outcome State Fault Refusal :=
  .next (s.whenOn (doReshardPrepare ring))

/-- RESHARD_COMMIT (R333). -/
def execReshardCommit (ring : Nat) (s : State) : Host.Outcome State Fault Refusal :=
  .next (s.whenOn (doReshardCommit ring))

/-- RESHARD_CANCEL (R333). -/
def execReshardCancel (ring : Nat) (s : State) : Host.Outcome State Fault Refusal :=
  .next (s.whenOn (doReshardCancel ring))

/-- RESHARD_BOUNDARY (R334). -/
def execReshardBoundary (p : Nat) (s : State) : Host.Outcome State Fault Refusal :=
  .next (s.whenOn (doReshardBoundary p))

/-- EPOCH_DRAIN_TIMEOUT (R334). -/
def execEpochDrainTimeout (p port : Nat) (s : State) : Host.Outcome State Fault Refusal :=
  .next (s.whenOn (doEpochDrainTimeout p port))

/-- SECURE (R388). -/
def execSecure (ring : Nat) (s : State) : Host.Outcome State Fault Refusal :=
  .next (s.whenOn (doSecure ring))

/-- COMPLETION_WRITE (R73). -/
def execCompletionWrite (ring hostStatus : Nat) (s : State) : Host.Outcome State Fault Refusal :=
  .next (s.whenOn (doCompletionWrite ring hostStatus))

/-- RING_RESET (R76). -/
def execRingReset (ring : Nat) (s : State) : Host.Outcome State Fault Refusal :=
  .next (s.whenOn (doRingReset ring))

/-- RING_RESET_DONE (R76). -/
def execRingResetDone (ring : Nat) (s : State) : Host.Outcome State Fault Refusal :=
  .next (s.whenOn (doRingResetDone ring))

/-- POOL_CONFIG_WRITE (R447). -/
def execPoolConfigWrite (p pool : Nat) (value : Word) (s : State) : Host.Outcome State Fault Refusal :=
  .next (s.whenOn (doPoolConfigWrite p pool value))

/-- SLOT_FLIP (R80). -/
def execSlotFlip (p pool slot : Nat) (value : BitVec 64) (s : State) : Host.Outcome State Fault Refusal :=
  .next (s.whenOn (doSlotFlip p pool slot value))

/-- SLOT_TIMEOUT (R82). -/
def execSlotTimeout (p pool slot : Nat) (s : State) : Host.Outcome State Fault Refusal :=
  .next (s.whenOn (doSlotTimeout p pool slot))

/-- WINDOW_WRITE (R78). -/
def execWindowWrite (p offset : Nat) (bytes : List Byte) (s : State) : Host.Outcome State Fault Refusal :=
  .next (s.whenOn (doWindowWrite p offset bytes))

/-- WINDOW_READ (R81). -/
def execWindowRead (p offset len : Nat) (s : State) : Host.Outcome State Fault Refusal :=
  .next (s.whenOn (doWindowRead p offset len))

/-- TASK_ISSUE (R113). -/
def execTaskIssue (core : Nat) (s : State) : Host.Outcome State Fault Refusal :=
  .next (s.whenOn (doTaskIssue core))

/-- TOKEN_RECEIVED (R114). -/
def execTokenReceived (core graph task : Nat) (s : State) : Host.Outcome State Fault Refusal :=
  .next (s.whenOn (doTokenReceived core graph task))

/-- CREDIT_RECEIVED (R115). -/
def execCreditReceived (p queue : Nat) (s : State) : Host.Outcome State Fault Refusal :=
  .next (s.whenOn (doCreditReceived p queue))

/-- TASK_COMPLETION (R114). -/
def execTaskCompletion (p graph task : Nat) (s : State) : Host.Outcome State Fault Refusal :=
  .next (s.whenOn (doTaskCompletion p graph task))

/-- TILING_RECORD (R163). -/
def execTilingRecord (core delayNs : Nat) (s : State) : Host.Outcome State Fault Refusal :=
  .next (s.whenOn (doTilingRecord core delayNs))

/-- SHAPE_SEARCH_DONE (R167). -/
def execShapeSearchDone (core : Nat) (tiling : Tiling) (s : State) : Host.Outcome State Fault Refusal :=
  .next (s.whenOn (doShapeSearchDone core tiling))

/-- MATRIX_PRODUCT (R104). -/
def execMatrixProduct (core : Nat) (s : State) : Host.Outcome State Fault Refusal :=
  .next (s.whenOn (doMatrixProduct core))

/-- DATA_GRADIENT_PRODUCT (R153). -/
def execDataGradientProduct (core : Nat) (s : State) : Host.Outcome State Fault Refusal :=
  .next (s.whenOn (doDataGradientProduct core))

/-- WEIGHT_GRADIENT_PRODUCT (R160). -/
def execWeightGradientProduct (core : Nat) (s : State) : Host.Outcome State Fault Refusal :=
  .next (s.whenOn (doWeightGradientProduct core))

/-- ATTENTION_FORWARD (R175). -/
def execAttentionForward (core : Nat) (s : State) : Host.Outcome State Fault Refusal :=
  .next (s.whenOn (doAttentionForward core))

/-- ATTENTION_BACKWARD (R187). -/
def execAttentionBackward (core : Nat) (s : State) : Host.Outcome State Fault Refusal :=
  .next (s.whenOn (doAttentionBackward core))

/-- CONV_FORWARD (R230). -/
def execConvForward (core : Nat) (s : State) : Host.Outcome State Fault Refusal :=
  .next (s.whenOn (doConvForward core))

/-- CONV_DATA_GRADIENT (R230). -/
def execConvDataGradient (core : Nat) (s : State) : Host.Outcome State Fault Refusal :=
  .next (s.whenOn (doConvDataGradient core))

/-- CONV_WEIGHT_GRADIENT (R230). -/
def execConvWeightGradient (core : Nat) (s : State) : Host.Outcome State Fault Refusal :=
  .next (s.whenOn (doConvWeightGradient core))

/-- CROP_AND_RESIZE (R240). -/
def execCropAndResize (core : Nat) (s : State) : Host.Outcome State Fault Refusal :=
  .next (s.whenOn (doCropAndResize core))

/-- CHANNEL_ARGMAX (R244). -/
def execChannelArgmax (core : Nat) (s : State) : Host.Outcome State Fault Refusal :=
  .next (s.whenOn (doChannelArgmax core))

/-- VECTOR_KERNEL (R110). -/
def execVectorKernel (core : Nat) (s : State) : Host.Outcome State Fault Refusal :=
  .next (s.whenOn (doVectorKernel core))

/-- GATHER (R111). -/
def execGather (core : Nat) (s : State) : Host.Outcome State Fault Refusal :=
  .next (s.whenOn (doGather core))

/-- SCATTER (R111). -/
def execScatter (core : Nat) (s : State) : Host.Outcome State Fault Refusal :=
  .next (s.whenOn (doScatter core))

/-- SCATTER_ADD (R111). -/
def execScatterAdd (core : Nat) (s : State) : Host.Outcome State Fault Refusal :=
  .next (s.whenOn (doScatterAdd core))

/-- EXPERT_DISPATCH (R210). -/
def execExpertDispatch (core : Nat) (s : State) : Host.Outcome State Fault Refusal :=
  .next (s.whenOn (doExpertDispatch core))

/-- VARIANT_DISPATCH (R223). -/
def execVariantDispatch (core : Nat) (s : State) : Host.Outcome State Fault Refusal :=
  .next (s.whenOn (doVariantDispatch core))

/-- EXPERT_DISPATCH_BACKWARD (R215). -/
def execExpertDispatchBackward (core : Nat) (s : State) : Host.Outcome State Fault Refusal :=
  .next (s.whenOn (doExpertDispatchBackward core))

/-- VARIANT_DISPATCH_BACKWARD (R223). -/
def execVariantDispatchBackward (core : Nat) (s : State) : Host.Outcome State Fault Refusal :=
  .next (s.whenOn (doVariantDispatchBackward core))

/-- EXPERT_COMBINE (R214). -/
def execExpertCombine (core : Nat) (s : State) : Host.Outcome State Fault Refusal :=
  .next (s.whenOn (doExpertCombine core))

/-- VARIANT_COMBINE (R223). -/
def execVariantCombine (core : Nat) (s : State) : Host.Outcome State Fault Refusal :=
  .next (s.whenOn (doVariantCombine core))

/-- EXPERT_COMBINE_BACKWARD (R215). -/
def execExpertCombineBackward (core : Nat) (s : State) : Host.Outcome State Fault Refusal :=
  .next (s.whenOn (doExpertCombineBackward core))

/-- VARIANT_COMBINE_BACKWARD (R223). -/
def execVariantCombineBackward (core : Nat) (s : State) : Host.Outcome State Fault Refusal :=
  .next (s.whenOn (doVariantCombineBackward core))

/-- OFFLOAD (R251). -/
def execOffload (core : Nat) (s : State) : Host.Outcome State Fault Refusal :=
  .next (s.whenOn (doOffload core))

/-- FETCH (R251). -/
def execFetch (core : Nat) (s : State) : Host.Outcome State Fault Refusal :=
  .next (s.whenOn (doFetch core))

/-- ENCODE (R251). -/
def execEncode (core : Nat) (s : State) : Host.Outcome State Fault Refusal :=
  .next (s.whenOn (doEncode core))

/-- DECODE (R251). -/
def execDecode (core : Nat) (s : State) : Host.Outcome State Fault Refusal :=
  .next (s.whenOn (doDecode core))

/-- RECODE (R251). -/
def execRecode (core : Nat) (s : State) : Host.Outcome State Fault Refusal :=
  .next (s.whenOn (doRecode core))

/-- FABRIC_SEND (R320). -/
def execFabricSend (core : Nat) (s : State) : Host.Outcome State Fault Refusal :=
  .next (s.whenOn (doFabricSend core))

/-- FABRIC_RECEIVE (R320). -/
def execFabricReceive (core : Nat) (s : State) : Host.Outcome State Fault Refusal :=
  .next (s.whenOn (doFabricReceive core))

/-- LOCAL_COPY (R321). -/
def execLocalCopy (core : Nat) (s : State) : Host.Outcome State Fault Refusal :=
  .next (s.whenOn (doLocalCopy core))

/-- REDUCTION (R326). -/
def execReduction (core : Nat) (s : State) : Host.Outcome State Fault Refusal :=
  .next (s.whenOn (doReduction core))

/-- GROUP_UPDATE (R285). -/
def execGroupUpdate (core : Nat) (s : State) : Host.Outcome State Fault Refusal :=
  .next (s.whenOn (doGroupUpdate core))

/-- TAKE_BATCH (R353). -/
def execTakeBatch (core : Nat) (s : State) : Host.Outcome State Fault Refusal :=
  .next (s.whenOn (doTakeBatch core))

/-- EMIT_OUTPUT (R443). -/
def execEmitOutput (core : Nat) (s : State) : Host.Outcome State Fault Refusal :=
  .next (s.whenOn (doEmitOutput core))

/-- JOIN (R90). -/
def execJoin (core : Nat) (s : State) : Host.Outcome State Fault Refusal :=
  .next (s.whenOn (doJoin core))

/-- QUEUE_PTR_MISMATCH (R119). -/
def execQueuePtrMismatch (q : QueueRef) (cause : Nat) (inTransfer : Nat) (s : State) : Host.Outcome State Fault Refusal :=
  .next (s.whenOn (doQueuePtrMismatch q cause inTransfer))

/-- CORE_FAILED (R51). -/
def execCoreFailed (core : Nat) (s : State) : Host.Outcome State Fault Refusal :=
  .next (s.whenOn (doCoreFailed core))

/-- D2D_TRANSFER_FAIL (R55). -/
def execD2dTransferFail (iface : Nat) (ends : D2dEnds) (retry : Nat) (s : State) : Host.Outcome State Fault Refusal :=
  .next (s.whenOn (doD2dTransferFail iface ends.die ends.other retry))

/-- UNCORRECTABLE_ERROR (R378). -/
def execUncorrectableError (loc : ErrorPlace) (s : State) : Host.Outcome State Fault Refusal :=
  .next (s.whenOn (doUncorrectableError loc))

/-- HBM_ROW_FAILURE (R381). -/
def execHbmRowFailure (stack page : Nat) (s : State) : Host.Outcome State Fault Refusal :=
  .next (s.whenOn (doHbmRowFailure stack page))

/-- PORT_TRAINED (R302). -/
def execPortTrained (port neighbour : Nat) (failedLanes : Nat) (s : State) : Host.Outcome State Fault Refusal :=
  .next (s.whenOn (doPortTrained port neighbour failedLanes))

/-- PORT_TRAINING_TIMEOUT (R302). -/
def execPortTrainingTimeout (port : Nat) (s : State) : Host.Outcome State Fault Refusal :=
  .next (s.whenOn (doPortTrainingTimeout port))

/-- LANE_FAILURE (R301). -/
def execLaneFailure (port : Nat) (lane : LaneErrors) (s : State) : Host.Outcome State Fault Refusal :=
  .next (s.whenOn (doLaneFailure port lane.lane lane.errors lane.symbols))

/-- PORT_TAKE_DOWN (R302). -/
def execPortTakeDown (port : Nat) (s : State) : Host.Outcome State Fault Refusal :=
  .next (s.whenOn (doPortTakeDown port))

/-- FLIT_RECEIVE (R304). -/
def execFlitReceive (port : Nat) (flit : Flit) (s : State) : Host.Outcome State Fault Refusal :=
  .next (s.whenOn (doFlitReceive port flit))

/-- FLIT_REPLAY (R304). -/
def execFlitReplay (port seq : Nat) (s : State) : Host.Outcome State Fault Refusal :=
  .next (s.whenOn (doFlitReplay port seq))

/-- CONTROL_FLIT (R303). -/
def execControlFlit (port : Nat) (ctl : ControlFlit) (s : State) : Host.Outcome State Fault Refusal :=
  .next (s.whenOn (doControlFlit port ctl))

/-- OUTPUT_ARBITRATION (R310). -/
def execOutputArbitration (port : Nat) (s : State) : Host.Outcome State Fault Refusal :=
  .next (s.whenOn (doOutputArbitration port))

/-- PACKET_RELAY (R316). -/
def execPacketRelay (port : Nat) (pkt : Packet) (s : State) : Host.Outcome State Fault Refusal :=
  .next (s.whenOn (doPacketRelay port pkt))

/-- DATA_PACKET (R317). -/
def execDataPacket (port : Nat) (pkt : Packet) (s : State) : Host.Outcome State Fault Refusal :=
  .next (s.whenOn (doDataPacket port pkt))

/-- REDUCTION_PARTIAL (R327). -/
def execReductionPartial (port : Nat) (pkt : Packet) (s : State) : Host.Outcome State Fault Refusal :=
  .next (s.whenOn (doReductionPartial port pkt))

/-- REDUCTION_RESULT (R327). -/
def execReductionResult (port : Nat) (pkt : Packet) (s : State) : Host.Outcome State Fault Refusal :=
  .next (s.whenOn (doReductionResult port pkt))

/-- SIDEBAND (R328). -/
def execSideband (port : Nat) (pkt : Packet) (s : State) : Host.Outcome State Fault Refusal :=
  .next (s.whenOn (doSideband port pkt))

/-- FENCE_MARKER (R334). -/
def execFenceMarker (port : Nat) (pkt : Packet) (s : State) : Host.Outcome State Fault Refusal :=
  .next (s.whenOn (doFenceMarker port pkt))

/-- ROUTE_SWITCH (R335). -/
def execRouteSwitch (port : Nat) (pkt : Packet) (s : State) : Host.Outcome State Fault Refusal :=
  .next (s.whenOn (doRouteSwitch port pkt))

/-- ROUTE_SWITCH_APPLY (R335). -/
def execRouteSwitchApply (p position : Nat) (s : State) : Host.Outcome State Fault Refusal :=
  .next (s.whenOn (doRouteSwitchApply p position))

/-- LANDING_CREDIT (R323). -/
def execLandingCredit (port : Nat) (pkt : Packet) (s : State) : Host.Outcome State Fault Refusal :=
  .next (s.whenOn (doLandingCredit port pkt))

/-- SLOT_WINDOW_START (R319). -/
def execSlotWindowStart (p slot : Nat) (s : State) : Host.Outcome State Fault Refusal :=
  .next (s.whenOn (doSlotWindowStart p slot))

/-- LATE_TRANSMIT (R319). -/
def execLateTransmit (p slot : Nat) (s : State) : Host.Outcome State Fault Refusal :=
  .next (s.whenOn (doLateTransmit p slot))

/-- BULK_MIRROR_DATA (R309). -/
def execBulkMirrorData (port : Nat) (pkt : Packet) (s : State) : Host.Outcome State Fault Refusal :=
  .next (s.whenOn (doBulkMirrorData port pkt))

/-- BULK_MIRROR_SEAL (R370). -/
def execBulkMirrorSeal (port : Nat) (pkt : Packet) (s : State) : Host.Outcome State Fault Refusal :=
  .next (s.whenOn (doBulkMirrorSeal port pkt))

/-- TAKEOVER_REQUEST (R383). -/
def execTakeoverRequest (port : Nat) (pkt : Packet) (s : State) : Host.Outcome State Fault Refusal :=
  .next (s.whenOn (doTakeoverRequest port pkt))

/-- TAKEOVER_WRITE (R383). -/
def execTakeoverWrite (value : Word) (s : State) : Host.Outcome State Fault Refusal :=
  .next (s.whenOn (doTakeoverWrite value))

/-- ITEM_REQUEST (R309). -/
def execItemRequest (port : Nat) (pkt : Packet) (s : State) : Host.Outcome State Fault Refusal :=
  .next (s.whenOn (doItemRequest port pkt))

/-- ITEM_DATA (R379). -/
def execItemData (port : Nat) (pkt : Packet) (s : State) : Host.Outcome State Fault Refusal :=
  .next (s.whenOn (doItemData port pkt))

/-- ITEM_SEAL_RECORD (R369). -/
def execItemSealRecord (port : Nat) (pkt : Packet) (s : State) : Host.Outcome State Fault Refusal :=
  .next (s.whenOn (doItemSealRecord port pkt))

/-- TAKEOVER_DONE (R384). -/
def execTakeoverDone (p : Nat) (s : State) : Host.Outcome State Fault Refusal :=
  .next (s.whenOn (doTakeoverDone p))

/-- RECOVERY_IMAGE_REQUEST (R309). -/
def execRecoveryImageRequest (port : Nat) (pkt : Packet) (s : State) : Host.Outcome State Fault Refusal :=
  .next (s.whenOn (doRecoveryImageRequest port pkt))

/-- RECOVERY_IMAGE_DATA (R412). -/
def execRecoveryImageData (port : Nat) (pkt : Packet) (s : State) : Host.Outcome State Fault Refusal :=
  .next (s.whenOn (doRecoveryImageData port pkt))

/-- RECOVERY_IMAGE_END (R412). -/
def execRecoveryImageEnd (port : Nat) (pkt : Packet) (s : State) : Host.Outcome State Fault Refusal :=
  .next (s.whenOn (doRecoveryImageEnd port pkt))

/-- RECOVERY_POLL (R412). -/
def execRecoveryPoll (s : State) : Host.Outcome State Fault Refusal :=
  .next (s.whenOn doRecoveryPoll)

/-- SAMPLE_START (R355). -/
def execSampleStart (unit : Nat) (s : State) : Host.Outcome State Fault Refusal :=
  .next (s.whenOn (doSampleStart unit))

/-- SAMPLE_CONVERTED (R358). -/
def execSampleConverted (unit sample timeNs : Nat) (s : State) : Host.Outcome State Fault Refusal :=
  .next (s.whenOn (doSampleConverted unit sample timeNs))

/-- SAMPLE_SLOW (R358). -/
def execSampleSlow (unit sample : Nat) (s : State) : Host.Outcome State Fault Refusal :=
  .next (s.whenOn (doSampleSlow unit sample))

/-- RESERVE_COPY_DONE (R358). -/
def execReserveCopyDone (unit sample : Nat) (s : State) : Host.Outcome State Fault Refusal :=
  .next (s.whenOn (doReserveCopyDone unit sample))

/-- SWEEP_START (R373). -/
def execSweepStart (p : Nat) (s : State) : Host.Outcome State Fault Refusal :=
  .next (s.whenOn (doSweepStart p))

/-- SWEEP_DONE (R373). -/
def execSweepDone (p : Nat) (s : State) : Host.Outcome State Fault Refusal :=
  .next (s.whenOn (doSweepDone p))

/-- PRIVILEGED_COPY (R372). -/
def execPrivilegedCopy (p group : Nat) (s : State) : Host.Outcome State Fault Refusal :=
  .next (s.whenOn (doPrivilegedCopy p group))

/-- SEAL_WRITTEN (R369). -/
def execSealWritten (p item : Nat) (s : State) : Host.Outcome State Fault Refusal :=
  .next (s.whenOn (doSealWritten p item))

/-- MIRROR_SEND (R370). -/
def execMirrorSend (p item : Nat) (s : State) : Host.Outcome State Fault Refusal :=
  .next (s.whenOn (doMirrorSend p item))

/-- DRAIN_COMPLETE (R376). -/
def execDrainComplete (p : Nat) (s : State) : Host.Outcome State Fault Refusal :=
  .next (s.whenOn (doDrainComplete p))

/-- PLAN_RESUME (R376). -/
def execPlanResume (p : Nat) (s : State) : Host.Outcome State Fault Refusal :=
  .next (s.whenOn (doPlanResume p))

/-- HANDOVER_SENT (R383). -/
def execHandoverSent (p : Nat) (s : State) : Host.Outcome State Fault Refusal :=
  .next (s.whenOn (doHandoverSent p))

/-- ADMISSION_RESTORE_DONE (R387). -/
def execAdmissionRestoreDone (p : Nat) (s : State) : Host.Outcome State Fault Refusal :=
  .next (s.whenOn (doAdmissionRestoreDone p))

/-- NEG_STORE_WIPE_DONE (R273). -/
def execNegStoreWipeDone (s : State) : Host.Outcome State Fault Refusal :=
  .next (s.whenOn doNegStoreWipeDone)

/-- SEALED_SIZE_WRITE (R273). -/
def execSealedSizeWrite (value : Word) (s : State) : Host.Outcome State Fault Refusal :=
  .next (s.whenOn (doSealedSizeWrite value))

/-- GROUP_FREEZE_WRITE (R294). -/
def execGroupFreezeWrite (value : Word) (s : State) : Host.Outcome State Fault Refusal :=
  .next (s.whenOn (doGroupFreezeWrite value))

/-- THROTTLE_EVAL (R392). -/
def execThrottleEval (r : PowerReadings) (s : State) : Host.Outcome State Fault Refusal :=
  .next (s.whenOn (doThrottleEval r))

/-- POWER_CAP_WRITE (R393). -/
def execPowerCapWrite (value : Word) (s : State) : Host.Outcome State Fault Refusal :=
  .next (s.whenOn (doPowerCapWrite value))

/-- BUS_DROOP (R394). -/
def execBusDroop (mv : Nat) (s : State) : Host.Outcome State Fault Refusal :=
  .next (s.whenOn (doBusDroop mv))

/-- BUS_NORMAL (R394). -/
def execBusNormal (mv : Nat) (s : State) : Host.Outcome State Fault Refusal :=
  .next (s.whenOn (doBusNormal mv))

/-- BUS_LOW (R394). -/
def execBusLow (mv : Nat) (s : State) : Host.Outcome State Fault Refusal :=
  .next (s.whenOn (doBusLow mv))

/-- BUS_LOW_RECOVER (R394). -/
def execBusLowRecover (mv : Nat) (s : State) : Host.Outcome State Fault Refusal :=
  .next (s.whenOn (doBusLowRecover mv))

/-- BUS_FAIL (R394). -/
def execBusFail (mv cause : Nat) (s : State) : Host.Outcome State Fault Refusal :=
  .next (s.whenOn (doBusFail mv cause))

/-- BUS_SURGE (R394). -/
def execBusSurge (mv durationUs : Nat) (s : State) : Host.Outcome State Fault Refusal :=
  .next (s.whenOn (doBusSurge mv durationUs))

/-- BUS_RETURN (R394). -/
def execBusReturn (mv : Nat) (s : State) : Host.Outcome State Fault Refusal :=
  .next (doBusReturn mv s)

/-- THERMAL_TRIP (R400). -/
def execThermalTrip (sensor tenths : Nat) (s : State) : Host.Outcome State Fault Refusal :=
  .next (s.whenOn (doThermalTrip sensor tenths))

/-- COOLANT_CHECK (R401). -/
def execCoolantCheck (flow : Nat) (inlet : Int) (s : State) : Host.Outcome State Fault Refusal :=
  .next (s.whenOn (doCoolantCheck flow inlet))

/-- POWER_STATE_ENTRY (R399). -/
def execPowerStateEntry (unit : PowerUnit) (idleNs : Nat) (s : State) : Host.Outcome State Fault Refusal :=
  .next (s.whenOn (doPowerStateEntry unit idleNs))

/-- POWER_STATE_EXIT (R399). -/
def execPowerStateExit (unit : PowerUnit) (unplanned : Bool) (s : State) : Host.Outcome State Fault Refusal :=
  .next (s.whenOn (doPowerStateExit unit unplanned))

/-- ORDERLY_SHUTDOWN (R397). -/
def execOrderlyShutdown (viaPldm : Bool) (test : List BistItem) (s : State) : Host.Outcome State Fault Refusal :=
  .next (s.whenOn (doOrderlyShutdown viaPldm test))

/-- SHUTDOWN_TEST_DEFERRED (R427). -/
def execShutdownTestDeferred (cause : Nat) (done : List BistItem) (s : State) : Host.Outcome State Fault Refusal :=
  .next (s.whenOn (doShutdownTestDeferred cause done))

/-- WARM_RESET (R404). -/
def execWarmReset (value : Word) (viaPldm : Bool) (start : StartFacts) (s : State) : Host.Outcome State Fault Refusal :=
  .next (s.whenOn (doWarmReset value viaPldm start))

/-- WATCHDOG_RESET (R404). -/
def execWatchdogReset (start : StartFacts) (s : State) : Host.Outcome State Fault Refusal :=
  .next (s.whenOn (doWatchdogReset start))

/-- START_UP (R410). -/
def execStartUp (start : StartFacts) (s : State) : Host.Outcome State Fault Refusal :=
  .next (s.whenOn (doStartUp start))

/-- HOST_PORT_RESET (R406). -/
def execHostPortReset (cause : Nat) (s : State) : Host.Outcome State Fault Refusal :=
  .next (s.whenOn (doHostPortReset cause))

/-- MBX_STATUS (R430). -/
def execMbxStatus (s : State) : Host.Outcome State Fault Refusal :=
  .next (s.whenOn doMbxStatus)

/-- MBX_IMAGE_BEGIN (R412). -/
def execMbxImageBegin (s : State) : Host.Outcome State Fault Refusal :=
  .next (s.whenOn doMbxImageBegin)

/-- MBX_IMAGE_DATA (R430). -/
def execMbxImageData (s : State) : Host.Outcome State Fault Refusal :=
  .next (s.whenOn doMbxImageData)

/-- MBX_IMAGE_END (R412). -/
def execMbxImageEnd (s : State) : Host.Outcome State Fault Refusal :=
  .next (s.whenOn doMbxImageEnd)

/-- MBX_ABORT (R430). -/
def execMbxAbort (s : State) : Host.Outcome State Fault Refusal :=
  .next (s.whenOn doMbxAbort)

/-- PLDM_FIRMWARE_UPDATE (R413). -/
def execPldmFirmwareUpdate (image : List Byte) (s : State) : Host.Outcome State Fault Refusal :=
  .next (s.whenOn (doPldmFirmwareUpdate image))

/-- GET_VERSION (R416). -/
def execGetVersion (session : Nat) (s : State) : Host.Outcome State Fault Refusal :=
  .next (s.whenOn (doGetVersion session))

/-- GET_CAPABILITIES (R416). -/
def execGetCapabilities (session : Nat) (s : State) : Host.Outcome State Fault Refusal :=
  .next (s.whenOn (doGetCapabilities session))

/-- NEGOTIATE_ALGORITHMS (R416). -/
def execNegotiateAlgorithms (session algs : Nat) (s : State) : Host.Outcome State Fault Refusal :=
  .next (s.whenOn (doNegotiateAlgorithms session algs))

/-- GET_DIGESTS (R416). -/
def execGetDigests (session : Nat) (s : State) : Host.Outcome State Fault Refusal :=
  .next (s.whenOn (doGetDigests session))

/-- GET_CERTIFICATE (R416). -/
def execGetCertificate (session offset len : Nat) (s : State) : Host.Outcome State Fault Refusal :=
  .next (s.whenOn (doGetCertificate session offset len))

/-- CHALLENGE (R416). -/
def execChallenge (session : Nat) (nonce : List Byte) (s : State) : Host.Outcome State Fault Refusal :=
  .next (s.whenOn (doChallenge session nonce))

/-- GET_MEASUREMENTS (R417). -/
def execGetMeasurements (session index : Nat) (nonce : List Byte) (s : State) : Host.Outcome State Fault Refusal :=
  .next (s.whenOn (doGetMeasurements session index nonce))

/-- KEY_EXCHANGE (R418). -/
def execKeyExchange (session : Nat) (exchange : List Byte) (s : State) : Host.Outcome State Fault Refusal :=
  .next (s.whenOn (doKeyExchange session exchange))

/-- FINISH (R418). -/
def execFinish (session : Nat) (auth : FinishAuth) (s : State) : Host.Outcome State Fault Refusal :=
  .next (s.whenOn (doFinish session auth))

/-- HEARTBEAT (R418). -/
def execHeartbeat (session : Nat) (s : State) : Host.Outcome State Fault Refusal :=
  .next (s.whenOn (doHeartbeat session))

/-- HEARTBEAT_TIMEOUT (R418). -/
def execHeartbeatTimeout (session : Nat) (s : State) : Host.Outcome State Fault Refusal :=
  .next (s.whenOn (doHeartbeatTimeout session))

/-- KEY_UPDATE (R416). -/
def execKeyUpdate (session op : Nat) (s : State) : Host.Outcome State Fault Refusal :=
  .next (s.whenOn (doKeyUpdate session op))

/-- END_SESSION (R418). -/
def execEndSession (session : Nat) (s : State) : Host.Outcome State Fault Refusal :=
  .next (s.whenOn (doEndSession session))

/-- CHUNK_SEND (R416). -/
def execChunkSend (session seqNo : Nat) (last : Bool) (bytes : List Byte) (s : State) : Host.Outcome State Fault Refusal :=
  .next (s.whenOn (doChunkSend session seqNo last bytes))

/-- CHUNK_GET (R416). -/
def execChunkGet (session seqNo : Nat) (s : State) : Host.Outcome State Fault Refusal :=
  .next (s.whenOn (doChunkGet session seqNo))

/-- UNSUPPORTED_REQUEST (R416). -/
def execUnsupportedRequest (session code : Nat) (s : State) : Host.Outcome State Fault Refusal :=
  .next (s.whenOn (doUnsupportedRequest session code))

/-- BIND_PARTITION (R418). -/
def execBindPartition (session p : Nat) (s : State) : Host.Outcome State Fault Refusal :=
  .next (s.whenOn (doBindPartition session p))

/-- SET_PROTECTED (R419). -/
def execSetProtected (session p : Nat) (ranges : List ProtRange) (s : State) : Host.Outcome State Fault Refusal :=
  .next (s.whenOn (doSetProtected session p ranges))

/-- SET_FABRIC_KEY (R420). -/
def execSetFabricKey (session p : Nat) (key : List Byte) (s : State) : Host.Outcome State Fault Refusal :=
  .next (s.whenOn (doSetFabricKey session p key))

/-- SEAL_BIND (R421). -/
def execSealBind (session : Nat) (s : State) : Host.Outcome State Fault Refusal :=
  .next (s.whenOn (doSealBind session))

/-- UNSEAL (R421). -/
def execUnsealRegion (session : Nat) (s : State) : Host.Outcome State Fault Refusal :=
  .next (s.whenOn (doUnsealRegion session))

/-- SET_VIEW (R423). -/
def execSetView (session : Nat) (full : Bool) (s : State) : Host.Outcome State Fault Refusal :=
  .next (s.whenOn (doSetView session full))

/-- SET_PARTITION_MAP (R422). -/
def execSetPartitionMap (session map : Nat) (s : State) : Host.Outcome State Fault Refusal :=
  .next (s.whenOn (doSetPartitionMap session map))

/-- LIFECYCLE (R424). -/
def execLifecycle (session target : Nat) (start : StartFacts) (s : State) : Host.Outcome State Fault Refusal :=
  .next (s.whenOn (doLifecycle session target start))

/-- TAKE_OWNERSHIP (R424). -/
def execTakeOwnership (session : Nat) (s : State) : Host.Outcome State Fault Refusal :=
  .next (s.whenOn (doTakeOwnership session))

/-- VENDOR_RESET (R404). -/
def execVendorReset (session : Nat) (start : StartFacts) (s : State) : Host.Outcome State Fault Refusal :=
  .next (s.whenOn (doVendorReset session start))

/-- GRADE_RECORD (R412). -/
def execGradeRecord (session : Nat) (record : List Byte) (s : State) : Host.Outcome State Fault Refusal :=
  .next (s.whenOn (doGradeRecord session record))

/-- SCAN_ENABLE (R428). -/
def execScanEnable (session : Nat) (s : State) : Host.Outcome State Fault Refusal :=
  .next (s.whenOn (doScanEnable session))

/-- EVENT_COLLECT (R437). -/
def execEventCollect (pathFull : Bool) (s : State) : Host.Outcome State Fault Refusal :=
  .next (s.whenOn (doEventCollect pathFull))

/-- INTERRUPT_COALESCE_DELAY (R96). -/
def execInterruptCoalesceDelay (ring : Nat) (s : State) : Host.Outcome State Fault Refusal :=
  .next (s.whenOn (doInterruptCoalesceDelay ring))

end Sys2Proof.Machine
end

