-- ==== Sys2Proof/Machine/Dispatch.lean ====
section
/-! DEFINITION. The dispatch of a command to its meaning: one arm per constructor. -/

namespace Sys2Proof.Machine

def exec (i : Instr) (s : State) : Host.Outcome State Fault Refusal :=
  match i with
  | .bar0BadSizeAccess offset size write => Sys2Proof.Machine.execBar0BadSizeAccess offset size write s
  | .reservedRangeAccess offset write => Sys2Proof.Machine.execReservedRangeAccess offset write s
  | .pairLowRead offset => Sys2Proof.Machine.execPairLowRead offset s
  | .pairLowWrite offset value => Sys2Proof.Machine.execPairLowWrite offset value s
  | .pairHighWrite offset value => Sys2Proof.Machine.execPairHighWrite offset value s
  | .registerWrite offset value => Sys2Proof.Machine.execRegisterWrite offset value s
  | .counterClear offset value => Sys2Proof.Machine.execCounterClear offset value s
  | .layerReplaysClear value => Sys2Proof.Machine.execLayerReplaysClear value s
  | .tickStartWrite p hi => Sys2Proof.Machine.execTickStartWrite p hi s
  | .withdraw p => Sys2Proof.Machine.execWithdraw p s
  | .planWithdrawal p => Sys2Proof.Machine.execPlanWithdrawal p s
  | .shutterTick p ecc => Sys2Proof.Machine.execShutterTick p ecc s
  | .stepZeroStart p => Sys2Proof.Machine.execStepZeroStart p s
  | .stepEnd p => Sys2Proof.Machine.execStepEnd p s
  | .stepHeld p => Sys2Proof.Machine.execStepHeld p s
  | .stepHoldLimit p => Sys2Proof.Machine.execStepHoldLimit p s
  | .promotionExpiry p layer => Sys2Proof.Machine.execPromotionExpiry p layer s
  | .completionNotice p n => Sys2Proof.Machine.execCompletionNotice p n s
  | .timeLockTimeout p => Sys2Proof.Machine.execTimeLockTimeout p s
  | .doorbellTail ring value => Sys2Proof.Machine.execDoorbellTail ring value s
  | .doorbellCompletionHead ring value => Sys2Proof.Machine.execDoorbellCompletionHead ring value s
  | .doorbellBad ring offset size value => Sys2Proof.Machine.execDoorbellBad ring offset size value s
  | .winAccessBad bar offset write => Sys2Proof.Machine.execWinAccessBad bar offset write s
  | .descriptorFetch ring bytes hostStatus => Sys2Proof.Machine.execDescriptorFetch ring bytes hostStatus s
  | .nop ring => Sys2Proof.Machine.execNop ring s
  | .loadPlan ring => Sys2Proof.Machine.execLoadPlan ring s
  | .admitPlan ring => Sys2Proof.Machine.execAdmitPlan ring s
  | .lightMeterDone p => Sys2Proof.Machine.execLightMeterDone p s
  | .unloadPlan ring => Sys2Proof.Machine.execUnloadPlan ring s
  | .copyIn ring => Sys2Proof.Machine.execCopyIn ring s
  | .copyOut ring => Sys2Proof.Machine.execCopyOut ring s
  | .copyDone ring seq data hostStatus => Sys2Proof.Machine.execCopyDone ring seq data hostStatus s
  | .fence ring => Sys2Proof.Machine.execFence ring s
  | .contextOpen ring => Sys2Proof.Machine.execContextOpen ring s
  | .contextFork ring => Sys2Proof.Machine.execContextFork ring s
  | .contextClose ring => Sys2Proof.Machine.execContextClose ring s
  | .contextApply p => Sys2Proof.Machine.execContextApply p s
  | .clearTableLoad ring => Sys2Proof.Machine.execClearTableLoad ring s
  | .clearTableMakeCurrent ring => Sys2Proof.Machine.execClearTableMakeCurrent ring s
  | .clearTableDiscard ring => Sys2Proof.Machine.execClearTableDiscard ring s
  | .clearTableApply p => Sys2Proof.Machine.execClearTableApply p s
  | .clearGenFreed p gen => Sys2Proof.Machine.execClearGenFreed p gen s
  | .dictionaryLoad ring => Sys2Proof.Machine.execDictionaryLoad ring s
  | .dictionaryLoadDone unit bank => Sys2Proof.Machine.execDictionaryLoadDone unit bank s
  | .dictionaryActivate ring => Sys2Proof.Machine.execDictionaryActivate ring s
  | .dictionaryActivateApply p => Sys2Proof.Machine.execDictionaryActivateApply p s
  | .reshardPrepare ring => Sys2Proof.Machine.execReshardPrepare ring s
  | .reshardCommit ring => Sys2Proof.Machine.execReshardCommit ring s
  | .reshardCancel ring => Sys2Proof.Machine.execReshardCancel ring s
  | .reshardBoundary p => Sys2Proof.Machine.execReshardBoundary p s
  | .epochDrainTimeout p port => Sys2Proof.Machine.execEpochDrainTimeout p port s
  | .secure ring => Sys2Proof.Machine.execSecure ring s
  | .completionWrite ring hostStatus => Sys2Proof.Machine.execCompletionWrite ring hostStatus s
  | .ringReset ring => Sys2Proof.Machine.execRingReset ring s
  | .ringResetDone ring => Sys2Proof.Machine.execRingResetDone ring s
  | .poolConfigWrite p pool value => Sys2Proof.Machine.execPoolConfigWrite p pool value s
  | .slotFlip p pool slot value => Sys2Proof.Machine.execSlotFlip p pool slot value s
  | .slotTimeout p pool slot => Sys2Proof.Machine.execSlotTimeout p pool slot s
  | .windowWrite p offset bytes => Sys2Proof.Machine.execWindowWrite p offset bytes s
  | .windowRead p offset len => Sys2Proof.Machine.execWindowRead p offset len s
  | .taskIssue core => Sys2Proof.Machine.execTaskIssue core s
  | .tokenReceived core graph task => Sys2Proof.Machine.execTokenReceived core graph task s
  | .creditReceived p queue => Sys2Proof.Machine.execCreditReceived p queue s
  | .taskCompletion p graph task => Sys2Proof.Machine.execTaskCompletion p graph task s
  | .tilingRecord core delayNs => Sys2Proof.Machine.execTilingRecord core delayNs s
  | .shapeSearchDone core tiling => Sys2Proof.Machine.execShapeSearchDone core tiling s
  | .matrixProduct core => Sys2Proof.Machine.execMatrixProduct core s
  | .dataGradientProduct core => Sys2Proof.Machine.execDataGradientProduct core s
  | .weightGradientProduct core => Sys2Proof.Machine.execWeightGradientProduct core s
  | .attentionForward core => Sys2Proof.Machine.execAttentionForward core s
  | .attentionBackward core => Sys2Proof.Machine.execAttentionBackward core s
  | .convForward core => Sys2Proof.Machine.execConvForward core s
  | .convDataGradient core => Sys2Proof.Machine.execConvDataGradient core s
  | .convWeightGradient core => Sys2Proof.Machine.execConvWeightGradient core s
  | .cropAndResize core => Sys2Proof.Machine.execCropAndResize core s
  | .channelArgmax core => Sys2Proof.Machine.execChannelArgmax core s
  | .vectorKernel core => Sys2Proof.Machine.execVectorKernel core s
  | .gather core => Sys2Proof.Machine.execGather core s
  | .scatter core => Sys2Proof.Machine.execScatter core s
  | .scatterAdd core => Sys2Proof.Machine.execScatterAdd core s
  | .expertDispatch core => Sys2Proof.Machine.execExpertDispatch core s
  | .variantDispatch core => Sys2Proof.Machine.execVariantDispatch core s
  | .expertDispatchBackward core => Sys2Proof.Machine.execExpertDispatchBackward core s
  | .variantDispatchBackward core => Sys2Proof.Machine.execVariantDispatchBackward core s
  | .expertCombine core => Sys2Proof.Machine.execExpertCombine core s
  | .variantCombine core => Sys2Proof.Machine.execVariantCombine core s
  | .expertCombineBackward core => Sys2Proof.Machine.execExpertCombineBackward core s
  | .variantCombineBackward core => Sys2Proof.Machine.execVariantCombineBackward core s
  | .offload core => Sys2Proof.Machine.execOffload core s
  | .fetch core => Sys2Proof.Machine.execFetch core s
  | .encode core => Sys2Proof.Machine.execEncode core s
  | .decode core => Sys2Proof.Machine.execDecode core s
  | .recode core => Sys2Proof.Machine.execRecode core s
  | .fabricSend core => Sys2Proof.Machine.execFabricSend core s
  | .fabricReceive core => Sys2Proof.Machine.execFabricReceive core s
  | .localCopy core => Sys2Proof.Machine.execLocalCopy core s
  | .reduction core => Sys2Proof.Machine.execReduction core s
  | .groupUpdate core => Sys2Proof.Machine.execGroupUpdate core s
  | .takeBatch core => Sys2Proof.Machine.execTakeBatch core s
  | .emitOutput core => Sys2Proof.Machine.execEmitOutput core s
  | .join core => Sys2Proof.Machine.execJoin core s
  | .queuePtrMismatch q cause inTransfer => Sys2Proof.Machine.execQueuePtrMismatch q cause inTransfer s
  | .coreFailed core => Sys2Proof.Machine.execCoreFailed core s
  | .d2dTransferFail iface ends retry => Sys2Proof.Machine.execD2dTransferFail iface ends retry s
  | .uncorrectableError loc => Sys2Proof.Machine.execUncorrectableError loc s
  | .hbmRowFailure stack page => Sys2Proof.Machine.execHbmRowFailure stack page s
  | .portTrained port neighbour failedLanes => Sys2Proof.Machine.execPortTrained port neighbour failedLanes s
  | .portTrainingTimeout port => Sys2Proof.Machine.execPortTrainingTimeout port s
  | .laneFailure port lane => Sys2Proof.Machine.execLaneFailure port lane s
  | .portTakeDown port => Sys2Proof.Machine.execPortTakeDown port s
  | .flitReceive port flit => Sys2Proof.Machine.execFlitReceive port flit s
  | .flitReplay port seq => Sys2Proof.Machine.execFlitReplay port seq s
  | .controlFlit port ctl => Sys2Proof.Machine.execControlFlit port ctl s
  | .outputArbitration port => Sys2Proof.Machine.execOutputArbitration port s
  | .packetRelay port pkt => Sys2Proof.Machine.execPacketRelay port pkt s
  | .dataPacket port pkt => Sys2Proof.Machine.execDataPacket port pkt s
  | .reductionPartial port pkt => Sys2Proof.Machine.execReductionPartial port pkt s
  | .reductionResult port pkt => Sys2Proof.Machine.execReductionResult port pkt s
  | .sideband port pkt => Sys2Proof.Machine.execSideband port pkt s
  | .fenceMarker port pkt => Sys2Proof.Machine.execFenceMarker port pkt s
  | .routeSwitch port pkt => Sys2Proof.Machine.execRouteSwitch port pkt s
  | .routeSwitchApply p position => Sys2Proof.Machine.execRouteSwitchApply p position s
  | .landingCredit port pkt => Sys2Proof.Machine.execLandingCredit port pkt s
  | .slotWindowStart p slot => Sys2Proof.Machine.execSlotWindowStart p slot s
  | .lateTransmit p slot => Sys2Proof.Machine.execLateTransmit p slot s
  | .bulkMirrorData port pkt => Sys2Proof.Machine.execBulkMirrorData port pkt s
  | .bulkMirrorSeal port pkt => Sys2Proof.Machine.execBulkMirrorSeal port pkt s
  | .takeoverRequest port pkt => Sys2Proof.Machine.execTakeoverRequest port pkt s
  | .takeoverWrite value => Sys2Proof.Machine.execTakeoverWrite value s
  | .itemRequest port pkt => Sys2Proof.Machine.execItemRequest port pkt s
  | .itemData port pkt => Sys2Proof.Machine.execItemData port pkt s
  | .itemSealRecord port pkt => Sys2Proof.Machine.execItemSealRecord port pkt s
  | .takeoverDone p => Sys2Proof.Machine.execTakeoverDone p s
  | .recoveryImageRequest port pkt => Sys2Proof.Machine.execRecoveryImageRequest port pkt s
  | .recoveryImageData port pkt => Sys2Proof.Machine.execRecoveryImageData port pkt s
  | .recoveryImageEnd port pkt => Sys2Proof.Machine.execRecoveryImageEnd port pkt s
  | .recoveryPoll => Sys2Proof.Machine.execRecoveryPoll s
  | .sampleStart unit => Sys2Proof.Machine.execSampleStart unit s
  | .sampleConverted unit sample timeNs => Sys2Proof.Machine.execSampleConverted unit sample timeNs s
  | .sampleSlow unit sample => Sys2Proof.Machine.execSampleSlow unit sample s
  | .reserveCopyDone unit sample => Sys2Proof.Machine.execReserveCopyDone unit sample s
  | .sweepStart p => Sys2Proof.Machine.execSweepStart p s
  | .sweepDone p => Sys2Proof.Machine.execSweepDone p s
  | .privilegedCopy p group => Sys2Proof.Machine.execPrivilegedCopy p group s
  | .sealWritten p item => Sys2Proof.Machine.execSealWritten p item s
  | .mirrorSend p item => Sys2Proof.Machine.execMirrorSend p item s
  | .drainComplete p => Sys2Proof.Machine.execDrainComplete p s
  | .planResume p => Sys2Proof.Machine.execPlanResume p s
  | .handoverSent p => Sys2Proof.Machine.execHandoverSent p s
  | .admissionRestoreDone p => Sys2Proof.Machine.execAdmissionRestoreDone p s
  | .negStoreWipeDone => Sys2Proof.Machine.execNegStoreWipeDone s
  | .sealedSizeWrite value => Sys2Proof.Machine.execSealedSizeWrite value s
  | .groupFreezeWrite value => Sys2Proof.Machine.execGroupFreezeWrite value s
  | .throttleEval r => Sys2Proof.Machine.execThrottleEval r s
  | .powerCapWrite value => Sys2Proof.Machine.execPowerCapWrite value s
  | .busDroop mv => Sys2Proof.Machine.execBusDroop mv s
  | .busNormal mv => Sys2Proof.Machine.execBusNormal mv s
  | .busLow mv => Sys2Proof.Machine.execBusLow mv s
  | .busLowRecover mv => Sys2Proof.Machine.execBusLowRecover mv s
  | .busFail mv cause => Sys2Proof.Machine.execBusFail mv cause s
  | .busSurge mv durationUs => Sys2Proof.Machine.execBusSurge mv durationUs s
  | .busReturn mv => Sys2Proof.Machine.execBusReturn mv s
  | .thermalTrip sensor tenths => Sys2Proof.Machine.execThermalTrip sensor tenths s
  | .coolantCheck flow inlet => Sys2Proof.Machine.execCoolantCheck flow inlet s
  | .powerStateEntry unit idleNs => Sys2Proof.Machine.execPowerStateEntry unit idleNs s
  | .powerStateExit unit unplanned => Sys2Proof.Machine.execPowerStateExit unit unplanned s
  | .orderlyShutdown viaPldm test => Sys2Proof.Machine.execOrderlyShutdown viaPldm test s
  | .shutdownTestDeferred cause done => Sys2Proof.Machine.execShutdownTestDeferred cause done s
  | .warmReset value viaPldm start => Sys2Proof.Machine.execWarmReset value viaPldm start s
  | .watchdogReset start => Sys2Proof.Machine.execWatchdogReset start s
  | .startUp start => Sys2Proof.Machine.execStartUp start s
  | .hostPortReset cause => Sys2Proof.Machine.execHostPortReset cause s
  | .mbxStatus => Sys2Proof.Machine.execMbxStatus s
  | .mbxImageBegin => Sys2Proof.Machine.execMbxImageBegin s
  | .mbxImageData => Sys2Proof.Machine.execMbxImageData s
  | .mbxImageEnd => Sys2Proof.Machine.execMbxImageEnd s
  | .mbxAbort => Sys2Proof.Machine.execMbxAbort s
  | .pldmFirmwareUpdate image => Sys2Proof.Machine.execPldmFirmwareUpdate image s
  | .getVersion session => Sys2Proof.Machine.execGetVersion session s
  | .getCapabilities session => Sys2Proof.Machine.execGetCapabilities session s
  | .negotiateAlgorithms session algs => Sys2Proof.Machine.execNegotiateAlgorithms session algs s
  | .getDigests session => Sys2Proof.Machine.execGetDigests session s
  | .getCertificate session offset len => Sys2Proof.Machine.execGetCertificate session offset len s
  | .challenge session nonce => Sys2Proof.Machine.execChallenge session nonce s
  | .getMeasurements session index nonce => Sys2Proof.Machine.execGetMeasurements session index nonce s
  | .keyExchange session exchange => Sys2Proof.Machine.execKeyExchange session exchange s
  | .finish session auth => Sys2Proof.Machine.execFinish session auth s
  | .heartbeat session => Sys2Proof.Machine.execHeartbeat session s
  | .heartbeatTimeout session => Sys2Proof.Machine.execHeartbeatTimeout session s
  | .keyUpdate session op => Sys2Proof.Machine.execKeyUpdate session op s
  | .endSession session => Sys2Proof.Machine.execEndSession session s
  | .chunkSend session seqNo last bytes => Sys2Proof.Machine.execChunkSend session seqNo last bytes s
  | .chunkGet session seqNo => Sys2Proof.Machine.execChunkGet session seqNo s
  | .unsupportedRequest session code => Sys2Proof.Machine.execUnsupportedRequest session code s
  | .bindPartition session p => Sys2Proof.Machine.execBindPartition session p s
  | .setProtected session p ranges => Sys2Proof.Machine.execSetProtected session p ranges s
  | .setFabricKey session p key => Sys2Proof.Machine.execSetFabricKey session p key s
  | .sealBind session => Sys2Proof.Machine.execSealBind session s
  | .unsealRegion session => Sys2Proof.Machine.execUnsealRegion session s
  | .setView session full => Sys2Proof.Machine.execSetView session full s
  | .setPartitionMap session map => Sys2Proof.Machine.execSetPartitionMap session map s
  | .lifecycle session target start => Sys2Proof.Machine.execLifecycle session target start s
  | .takeOwnership session => Sys2Proof.Machine.execTakeOwnership session s
  | .vendorReset session start => Sys2Proof.Machine.execVendorReset session start s
  | .gradeRecord session record => Sys2Proof.Machine.execGradeRecord session record s
  | .scanEnable session => Sys2Proof.Machine.execScanEnable session s
  | .eventCollect pathFull => Sys2Proof.Machine.execEventCollect pathFull s
  | .interruptCoalesceDelay ring => Sys2Proof.Machine.execInterruptCoalesceDelay ring s

end Sys2Proof.Machine
end

