-- ==== Sys2Proof/Safety.lean ====
section
/-! DEFINITION. What a sound state of the block is, in the terms the claims use. -/

namespace Sys2Proof.Machine

/-- The memories and the register file are in canonical form (keys strictly rising, no entry equal to what an unlisted
one reads as), no statistic counter passes 2^48 - 1 (R441), the stamp sequence does not pass its last value (R19), and
the module is one of the 27 defined parts (R1). -/
structure State.Sound (s : State) : Prop where
  mem : s.mem.wf = true
  staging : s.staging.wf = true
  neg : s.neg.wf = true
  regs : keysRise s.regs 0 = true
  regsListed : ∀ e ∈ s.regs, e.2 ≠ RegMap.resetOf e.1
  counters : keysRise s.counters 0 = true
  countersLow : ∀ e ∈ s.counters, e.2 ≤ counterMax
  seq : s.seq ≤ seqFull
  fitted : s.fitted.legal = true

/-- The address of a TICK_STATUS register, which holds seq_saturated (R19). -/
def isTickStatus (a : Nat) : Bool := [0x10002C, 0x10102C, 0x10202C, 0x10302C].contains a

/-- A record of this event, from this unit with these details, stands in the event path. -/
def State.pathHas (s : State) (e : EvKind) (u : UnitId) (d : Detail) : Prop :=
  ∃ st c, (⟨e.recordOf st u d, c⟩ : PathRec) ∈ s.events.path

/-- Every register but those listed reads as before; seq_saturated of TICK_STATUS is left out, since any stamp may set
it (R19). -/
def State.keepsRegs (s t : State) (l : List Nat) : Prop := ∀ a, l.contains a = false → isTickStatus a = false → t.reg a = s.reg a

/-- Every statistic counter but those listed reads as before. -/
def State.keepsCounters (s t : State) (l : List Nat) : Prop := ∀ c, l.contains c = false → t.counter c = s.counter c

/-- Two states hold the same bytes and tags in HBM, staging SRAM and the Negative store. -/
def State.sameMem (s t : State) : Prop :=
  t.mem = s.mem ∧ t.staging = s.staging ∧ t.neg = s.neg ∧ t.tags = s.tags ∧ t.negTags = s.negTags

/-- A safe step: the machine goes on. -/
def State.goesOn (s : State) : Prop := ∃ t, step s = .next t

/-! ### What a command may change -/

/-- The fields of the state but the queue of waiting commands. -/
inductive Field
  | fitted | regs | counters | coarse | latch | held | time | seq | seqReported | stamped | events | mem | staging | neg
  | tags | negTags | rings | pools | plans | parts | cores | tokens | credits | layers | shapes | searches | contexts
  | pages | devDraws | devQueues | ports | tally | rowsUsed | retired | d2dDown | intake | power | trust | wards | out
  | freeCtr
  deriving DecidableEq, Repr

/-- Two states agree on a field. -/
def State.agree (s t : State) : Field → Prop
  | .fitted => t.fitted = s.fitted
  | .regs => t.regs = s.regs
  | .counters => t.counters = s.counters
  | .coarse => t.coarse = s.coarse
  | .latch => t.latch = s.latch
  | .held => t.held = s.held
  | .time => t.time = s.time
  | .seq => t.seq = s.seq
  | .seqReported => t.seqReported = s.seqReported
  | .stamped => t.stamped = s.stamped
  | .events => t.events = s.events
  | .mem => t.mem = s.mem
  | .staging => t.staging = s.staging
  | .neg => t.neg = s.neg
  | .tags => t.tags = s.tags
  | .negTags => t.negTags = s.negTags
  | .rings => t.rings = s.rings
  | .pools => t.pools = s.pools
  | .plans => t.plans = s.plans
  | .parts => t.parts = s.parts
  | .cores => t.cores = s.cores
  | .tokens => t.tokens = s.tokens
  | .credits => t.credits = s.credits
  | .layers => t.layers = s.layers
  | .shapes => t.shapes = s.shapes
  | .searches => t.searches = s.searches
  | .contexts => t.contexts = s.contexts
  | .pages => t.pages = s.pages
  | .devDraws => t.devDraws = s.devDraws
  | .devQueues => t.devQueues = s.devQueues
  | .ports => t.ports = s.ports
  | .tally => t.tally = s.tally
  | .rowsUsed => t.rowsUsed = s.rowsUsed
  | .retired => t.retired = s.retired
  | .d2dDown => t.d2dDown = s.d2dDown
  | .intake => t.intake = s.intake
  | .power => t.power = s.power
  | .trust => t.trust = s.trust
  | .wards => t.wards = s.wards
  | .out => t.out = s.out
  | .freeCtr => t.freeCtr = s.freeCtr

/-- Two states agree on every field but those listed. -/
structure State.same (L : List Field) (s t : State) : Prop where
  on : ∀ k, L.contains k = false → s.agree t k

/-- Raising an event touches these fields (R434, R437): the stamp sequence, the event path, and through seq_saturated
the registers (R19). -/
def eventFields : List Field := [.regs, .seq, .seqReported, .events]

/-- Counting touches these fields (R441). -/
def countFields : List Field := .counters :: eventFields

/-- The memories and their tags. -/
def memFields : List Field := [.mem, .staging, .neg, .tags, .negTags]

/-- What ends a core's share beside its tensors: its counters, events and status bits, the numbers its draws and open
values took, its layer's amax record, and the run of its task. -/
def shareFields : List Field := countFields ++ [.freeCtr, .layers, .cores, .parts]

/-- The outcome of a share's command: the share ends as R114 says (State.endTask) with these hits and this load test,
and beside the bookkeeping of a share the machine is as in `m`, the state in which the tensors are written. -/
def State.shareEnds (s : State) (c : Nat) (r : Running) (hits : Nat) (bad : Bool) (m : State)
    (o : Host.Outcome State Fault Refusal) : Prop :=
  ∃ u, o = .next { u.endTask c r hits bad with pending := s.pending } ∧ m.same shareFields u

/-- The fields a command may change; it leaves every other as it was. -/
def mayChange : Instr → List Field
  | .ringResetDone .. | .negStoreWipeDone .. | .busNormal .. | .mbxStatus .. =>
      [.regs]
  | .counterClear .. =>
      [.counters]
  | .pairLowWrite .. =>
      [.held]
  | .nop .. | .fence .. =>
      [.rings]
  | .withdraw .. | .privilegedCopy .. =>
      [.parts]
  | .layerReplaysClear .. =>
      [.layers]
  | .powerStateExit .. =>
      [.power]
  | .getVersion .. | .getCapabilities .. | .negotiateAlgorithms .. | .getDigests .. | .challenge .. |
    .getMeasurements .. | .heartbeat .. | .chunkGet .. | .unsupportedRequest .. =>
      [.out]
  | .ringReset .. =>
      [.regs, .rings]
  | .busLowRecover .. =>
      [.regs, .power]
  | .mbxImageBegin .. | .mbxImageData .. | .mbxAbort .. =>
      [.regs, .trust]
  | .pairLowRead .. =>
      [.latch, .out]
  | .contextOpen .. | .contextFork .. | .contextClose .. | .dictionaryActivate .. | .secure .. =>
      [.rings, .parts]
  | .copyIn .. | .copyOut .. =>
      [.rings, .out]
  | .tokenReceived .. =>
      [.cores, .tokens]
  | .shapeSearchDone .. =>
      [.shapes, .searches]
  | .getCertificate .. | .keyExchange .. | .keyUpdate .. | .chunkSend .. =>
      [.trust, .out]
  | .clearTableMakeCurrent .. | .clearTableDiscard .. =>
      [.regs, .rings, .parts]
  | .portTrained .. =>
      [.regs, .ports, .out]
  | .interruptCoalesceDelay .. =>
      [.time, .rings, .out]
  | .creditReceived .. =>
      [.parts, .cores, .credits]
  | .doorbellBad .. =>
      eventFields
  | .doorbellTail .. | .doorbellCompletionHead .. =>
      countFields
  | .tickStartWrite .. =>
      eventFields ++ [.held]
  | .hostPortReset .. =>
      eventFields ++ [.rings]
  | .stepHeld .. | .clearGenFreed .. | .groupFreezeWrite .. =>
      eventFields ++ [.parts]
  | .coolantCheck .. =>
      eventFields ++ [.power]
  | .mbxImageEnd .. | .pldmFirmwareUpdate .. =>
      eventFields ++ [.trust]
  | .bar0BadSizeAccess .. | .reservedRangeAccess .. | .winAccessBad .. | .setView .. =>
      eventFields ++ [.out]
  | .copyDone .. =>
      [.mem, .tags, .rings, .power, .out]
  | .promotionExpiry .. =>
      countFields ++ [.layers]
  | .busDroop .. | .busLow .. | .busSurge .. =>
      countFields ++ [.tally]
  | .pairHighWrite .. =>
      eventFields ++ [.held, .parts]
  | .controlFlit .. =>
      eventFields ++ [.time, .ports]
  | .clearTableApply .. | .reshardCommit .. | .reshardCancel .. =>
      eventFields ++ [.rings, .parts]
  | .descriptorFetch .. =>
      eventFields ++ [.rings, .out]
  | .stepHoldLimit .. | .epochDrainTimeout .. | .lateTransmit .. | .takeoverWrite .. | .handoverSent .. =>
      eventFields ++ [.parts, .ports]
  | .setFabricKey .. =>
      eventFields ++ [.parts, .out]
  | .windowRead .. =>
      eventFields ++ [.power, .out]
  | .bindPartition .. | .sealBind .. | .unsealRegion .. =>
      eventFields ++ [.trust, .out]
  | .heartbeatTimeout .. =>
      eventFields ++ [.trust, .freeCtr]
  | .unloadPlan .. =>
      [.regs, .rings, .plans, .parts, .cores, .devQueues]
  | .gradeRecord .. =>
      eventFields ++ [.fitted, .ports, .out]
  | .completionWrite .. =>
      countFields ++ [.rings, .out]
  | .sampleStart .. =>
      countFields ++ [.pools, .intake]
  | .uncorrectableError .. | .portTrainingTimeout .. | .laneFailure .. | .portTakeDown .. |
    .routeSwitchApply .. =>
      countFields ++ [.parts, .ports]
  | .powerStateEntry .. =>
      countFields ++ [.cores, .power]
  | .flitReceive .. =>
      countFields ++ [.ports, .out]
  | .throttleEval .. =>
      countFields ++ [.tally, .power]
  | .finish .. =>
      countFields ++ [.trust, .out]
  | .timeLockTimeout .. =>
      eventFields ++ [.time, .parts, .ports]
  | .fenceMarker .. =>
      eventFields ++ [.stamped, .ports, .out]
  | .dictionaryActivateApply .. =>
      eventFields ++ [.rings, .parts, .intake]
  | .recoveryPoll .. =>
      eventFields ++ [.parts, .ports, .trust]
  | .endSession .. =>
      eventFields ++ [.trust, .out, .freeCtr]
  | .slotTimeout .. =>
      countFields ++ [.time, .pools, .out]
  | .slotWindowStart .. =>
      countFields ++ [.time, .parts, .ports]
  | .packetRelay .. =>
      countFields ++ [.stamped, .ports, .out]
  | .reserveCopyDone .. =>
      countFields ++ [.mem, .tags, .intake]
  | .eventCollect .. =>
      countFields ++ [.mem, .tags, .out]
  | .admitPlan .. =>
      countFields ++ [.rings, .pools, .parts]
  | .slotFlip .. =>
      countFields ++ [.pools, .intake, .out]
  | .flitReplay .. =>
      countFields ++ [.parts, .ports, .out]
  | .tilingRecord .. =>
      countFields ++ [.cores, .shapes, .searches]
  | .dictionaryLoadDone .. =>
      eventFields ++ [.rings, .pools, .intake, .out]
  | .coreFailed .. =>
      eventFields ++ [.parts, .cores, .devQueues, .ports]
  | .d2dTransferFail .. =>
      eventFields ++ [.parts, .ports, .tally, .d2dDown]
  | .hbmRowFailure .. =>
      eventFields ++ [.parts, .ports, .rowsUsed, .retired]
  | .completionNotice .. | .routeSwitch .. | .landingCredit .. | .takeoverRequest .. | .itemData .. |
    .recoveryImageRequest .. =>
      countFields ++ [.stamped, .parts, .ports, .out]
  | .recoveryImageData .. | .recoveryImageEnd .. =>
      countFields ++ [.stamped, .ports, .trust, .out]
  | .sealWritten .. | .mirrorSend .. =>
      countFields ++ [.neg, .negTags, .parts, .ports]
  | .clearTableLoad .. | .reshardPrepare .. =>
      countFields ++ [.rings, .pools, .parts, .out]
  | .dictionaryLoad .. =>
      countFields ++ [.rings, .pools, .intake, .out]
  | .fabricReceive .. | .join .. =>
      countFields ++ [.parts, .cores, .devQueues, .freeCtr]
  | .outputArbitration .. =>
      countFields ++ [.parts, .ports, .power, .out]
  | .setProtected .. =>
      eventFields ++ [.mem, .neg, .trust, .out, .freeCtr]
  | .contextApply .. =>
      countFields ++ [.rings, .parts, .contexts, .pages, .freeCtr]
  | .fabricSend .. =>
      countFields ++ [.parts, .cores, .devQueues, .ports, .freeCtr]
  | .bulkMirrorSeal .. | .itemRequest .. =>
      countFields ++ [.stamped, .neg, .negTags, .parts, .ports, .out]
  | .windowWrite .. =>
      countFields ++ [.mem, .tags, .pools, .intake, .power, .out]
  | .planWithdrawal .. =>
      countFields ++ [.rings, .parts, .credits, .contexts, .pages, .intake]
  | .stepZeroStart .. =>
      countFields ++ [.parts, .cores, .devDraws, .ports, .intake, .power]
  | .setPartitionMap .. =>
      eventFields ++ [.mem, .staging, .neg, .tags, .trust, .out, .freeCtr]
  | .sampleConverted .. | .sampleSlow .. =>
      countFields ++ [.time, .mem, .tags, .pools, .intake, .out, .freeCtr]
  | .bulkMirrorData .. =>
      countFields ++ [.stamped, .neg, .negTags, .parts, .ports, .wards, .out]
  | .taskIssue .. =>
      countFields ++ [.stamped, .parts, .cores, .credits, .devQueues, .power, .out]
  | .shutdownTestDeferred .. =>
      countFields ++ memFields ++ [.power, .trust]
  | .queuePtrMismatch .. =>
      countFields ++ [.parts, .cores, .tokens, .credits, .devQueues, .ports, .intake]
  | .takeoverDone .. =>
      countFields ++ [.parts, .cores, .layers, .devDraws, .ports, .intake, .power]
  | .shutterTick .. =>
      countFields ++ [.coarse, .time, .stamped, .pools, .parts, .cores, .ports, .tally]
  | .drainComplete .. =>
      countFields ++ memFields ++ [.parts, .layers, .ports]
  | .loadPlan .. =>
      countFields ++ [.mem, .tags, .rings, .pools, .plans, .parts, .trust, .out]
  | .offload .. | .fetch .. | .encode .. =>
      countFields ++ memFields ++ [.parts, .cores, .devQueues, .freeCtr]
  | .recode .. =>
      countFields ++ [.mem, .neg, .tags, .negTags, .parts, .cores, .devQueues, .ports, .freeCtr]
  | .emitOutput .. =>
      countFields ++ [.mem, .tags, .pools, .parts, .cores, .devQueues, .ports, .out, .freeCtr]
  | .stepEnd .. | .planResume .. =>
      countFields ++ [.parts, .cores, .layers, .contexts, .devDraws, .ports, .tally, .intake, .power]
  | .dataPacket .. | .reductionPartial .. | .reductionResult .. | .sideband .. | .itemSealRecord .. |
    .sweepStart .. =>
      countFields ++ memFields ++ [.stamped, .parts, .layers, .ports, .out]
  | .taskCompletion .. =>
      countFields ++ [.stamped, .parts, .cores, .tokens, .credits, .layers, .ports, .tally, .power, .out]
  | .decode .. | .localCopy .. =>
      countFields ++ memFields ++ [.parts, .cores, .devQueues, .ports, .freeCtr]
  | .busFail .. | .thermalTrip .. =>
      eventFields ++ memFields ++ [.parts, .ports, .power, .trust, .out, .freeCtr]
  | .registerWrite .. | .poolConfigWrite .. | .sealedSizeWrite .. | .powerCapWrite .. =>
      countFields ++ [.time, .mem, .neg, .tags, .negTags, .pools, .parts, .intake, .power, .wards, .out]
  | .takeBatch .. =>
      countFields ++ memFields ++ [.parts, .cores, .contexts, .devQueues, .intake, .freeCtr]
  | .lightMeterDone .. =>
      countFields ++ [.mem, .tags, .rings, .pools, .parts, .tokens, .credits, .layers, .contexts, .intake, .out]
  | .sweepDone .. =>
      countFields ++ memFields ++ [.stamped, .rings, .parts, .layers, .ports, .tally, .out]
  | .reshardBoundary .. =>
      countFields ++ memFields ++ [.stamped, .rings, .parts, .layers, .ports, .wards, .out]
  | .cropAndResize .. | .channelArgmax .. | .vectorKernel .. | .gather .. | .scatter .. | .scatterAdd .. |
    .expertDispatch .. | .variantDispatch .. =>
      countFields ++ memFields ++ [.stamped, .parts, .cores, .credits, .devQueues, .ports, .out, .freeCtr]
  | .reduction .. =>
      countFields ++ memFields ++ [.stamped, .parts, .cores, .layers, .devQueues, .ports, .out, .freeCtr]
  | .admissionRestoreDone .. =>
      countFields ++ memFields ++ [.rings, .parts, .credits, .layers, .contexts, .pages, .ports, .intake]
  | .orderlyShutdown .. =>
      countFields ++ memFields ++ [.parts, .cores, .devQueues, .ports, .intake, .power, .trust, .freeCtr]
  | .matrixProduct .. | .dataGradientProduct .. | .weightGradientProduct .. | .attentionBackward .. |
    .convForward .. | .convDataGradient .. | .convWeightGradient .. | .expertDispatchBackward .. |
    .variantDispatchBackward .. | .expertCombine .. | .variantCombine .. | .expertCombineBackward .. |
    .variantCombineBackward .. =>
      countFields ++ memFields ++ [.stamped, .parts, .cores, .credits, .layers, .devQueues, .ports, .out, .freeCtr]
  | .groupUpdate .. =>
      countFields ++ memFields ++ [.stamped, .parts, .cores, .credits, .devDraws, .devQueues, .ports, .out, .freeCtr]
  | .attentionForward .. =>
      countFields ++ memFields ++ [.stamped, .parts, .cores, .credits, .contexts, .pages, .devQueues, .ports, .out,
        .freeCtr]
  | .scanEnable .. =>
      eventFields ++ [.mem, .staging, .tags, .pools, .plans, .parts, .cores, .tokens, .credits, .layers, .shapes,
        .searches, .contexts, .pages, .devDraws, .devQueues, .ports, .intake, .trust, .out, .freeCtr]
  | .busReturn .. =>
      countFields ++ memFields ++ [.coarse, .latch, .held, .time, .stamped, .rings, .pools, .plans, .parts, .cores,
        .tokens, .credits, .layers, .shapes, .searches, .contexts, .pages, .devDraws, .devQueues, .ports, .tally,
        .d2dDown, .intake, .power, .trust, .freeCtr]
  | .warmReset .. | .watchdogReset .. | .startUp .. =>
      countFields ++ memFields ++ [.coarse, .latch, .held, .time, .stamped, .rings, .pools, .plans, .parts, .cores,
        .tokens, .credits, .layers, .shapes, .searches, .contexts, .pages, .devDraws, .devQueues, .ports, .tally,
        .retired, .d2dDown, .intake, .power, .trust, .wards, .freeCtr]
  | .lifecycle .. | .takeOwnership .. | .vendorReset .. =>
      countFields ++ memFields ++ [.coarse, .latch, .held, .time, .stamped, .rings, .pools, .plans, .parts, .cores,
        .tokens, .credits, .layers, .shapes, .searches, .contexts, .pages, .devDraws, .devQueues, .ports, .tally,
        .retired, .d2dDown, .intake, .power, .trust, .wards, .out, .freeCtr]

end Sys2Proof.Machine
end

