-- ==== Sys2Proof/Certificates/Slice0/Obligations.lean ====
section
/-! DEFINITION. The statements for the provers: one `def Obligations.<Name> : Prop` each. -/

open Sys2Proof Sys2Proof.Machine

/-- The block's own step, and log entry 3 for the empty queue: a step runs the command at the front of the queue on the
state with the queue's rest; with no command waiting only fabric time moves, one unit once it has locked and not before,
unless an orderly shut-down is due or a write of the image slot ends. -/
def Obligations.StepRunsTheFrontCommand : Prop :=
  (∀ (s : State) (c : Instr) (rest : List Instr), s.pending = c :: rest → step s = exec c { s with pending := rest }) ∧
  (∀ (s : State), s.pending = [] → ∃ t, step s = .next t ∧ t.pending = []) ∧
  (∀ (s : State), s.pending = [] → s.power.offDue = false → s.trust.writing = none →
    ∃ t, step s = .next t ∧ s.same [.time] t ∧
      (s.time.everLocked = false → t = s) ∧ (s.time.everLocked = true → s.time.slew = 0 → t.time.now = s.time.now + 1))

/-- Every command completes on every state and operands, and leaves the queue of the waiting commands alone; with the
rails off (R396) no command but the return of the bus has an effect, and that one only from 46 V (R394, R410). That the
rails being off stops every other command is log entry 58. -/
def Obligations.EveryCommandCompletes : Prop :=
  (∀ (c : Instr) (s : State), ∃ t, exec c s = .next t ∧ t.pending = s.pending) ∧
  (∀ (c : Instr) (s : State), s.power.off = true → (∀ mv, c ≠ .busReturn mv) → exec c s = .next s) ∧
  (∀ (s : State) (mv : Nat), mv < 46000 → exec (.busReturn mv) s = .next s)

/-- The frame of every command of the table: whatever the operands and the state, a command changes no field of the
state but those that `mayChange` lists for it, and never the queue. -/
def Obligations.EveryCommandKeepsItsFrame : Prop :=
  ∀ (c : Instr) (s t : State), exec c s = .next t →
    (∀ k, (mayChange c).contains k = false → s.agree t k) ∧ t.pending = s.pending

/-- The invariant of the block: a step of a sound state is sound. The memories and registers keep their canonical form,
no counter passes 2^48 - 1 (R441), no stamp sequence its last value (R19), and the part stays one of the defined ones
(R1). -/
def Obligations.EveryStepKeepsSoundness : Prop :=
  ∀ (s t : State), s.Sound → step s = .next t → t.Sound

/-- R1, R405, R406: the state after reset is sound; every partition is IDLE with no plan, no context is open, nothing is
listed in a memory, every counter reads 0, and every register reads the reset value of its table but for those whose
reset value is "built" or kept. Those values, and the part fitted, are the model's choices (log entry 38). -/
def Obligations.ResetStateIsSound : Prop :=
  State.reset.Sound ∧ State.reset.allIdle = true ∧ State.reset.plans = [] ∧ State.reset.contexts = [] ∧
    State.reset.mem = [] ∧ State.reset.staging = [] ∧ State.reset.neg = [] ∧ State.reset.pending = [] ∧
    (∀ a, State.reset.counter a = 0) ∧
    (∀ a, lookup builtRegs a = none → State.reset.reg a = RegMap.resetOf a) ∧ State.reset.trust.boot = some 0

/-- Memory (the list form and what an unlisted address reads as are log entry 9). A write of bytes keeps the canonical
form; reading them back gives them; every byte outside them reads as before; a wiped range reads as an unlisted address
does and nothing else changes. -/
def Obligations.MemoryReadsWhatWasWritten : Prop :=
  (∀ (m : Memory) (a : Nat) (bs : List Byte), m.wf = true →
    (m.writeN a bs).wf = true ∧ (m.writeN a bs).readN a bs.length = bs ∧
    (∀ x, (x < a ∨ a + bs.length ≤ x) → (m.writeN a bs).read x = m.read x)) ∧
  (∀ (m : Memory) (lo hi : Nat), m.wf = true →
    (m.wipe lo hi).wf = true ∧ (∀ x, lo ≤ x → x < hi → (m.wipe lo hi).read x = Memory.default) ∧
    (∀ x, (x < lo ∨ hi ≤ x) → (m.wipe lo hi).read x = m.read x))

/-- R17, R19, R434, R437: raising an event appends one record to the event path, with the event's code, severity, unit
and details and a stamp of kind 1 with the sequence value it takes; the sequence rises by one up to its last value,
where the first stamp is reported once by EV_STAMP_SEQ_SATURATED. Nothing else of the machine changes. -/
def Obligations.EventsAreStamped : Prop :=
  (∀ (s : State) (e : EvKind) (u : UnitId) (d : Detail), s.seq < seqFull →
    (s.raise e u d).events.path = s.events.path ++ [⟨e.recordOf ⟨s.time.now, s.position, s.epoch, s.seq, 1⟩ u d, none⟩] ∧
    (s.raise e u d).seq = s.seq + 1 ∧ s.same [.seq, .events] (s.raise e u d)) ∧
  (∀ (s : State) (e : EvKind) (u : UnitId) (d : Detail), s.seq = seqFull → s.seqReported = false →
    ∃ r, (s.raise e u d).events.path = s.events.path ++
        [r, ⟨e.recordOf ⟨s.time.now, s.position, s.epoch, seqFull, 1⟩ u d, none⟩] ∧
      r.record.code = Ev.stampSeqSaturated.code ∧ (s.raise e u d).seqReported = true ∧ (s.raise e u d).seq = seqFull ∧
      (∀ p, p < 4 → (s.raise e u d).get (Reg.tickStatus_seqSaturated p) = 1)) ∧
  (∀ (s : State) (e : EvKind) (u : UnitId) (d : Detail), s.seq = seqFull → s.seqReported = true →
    (s.raise e u d).events.path = s.events.path ++ [⟨e.recordOf ⟨s.time.now, s.position, s.epoch, seqFull, 1⟩ u d, none⟩] ∧
    s.same [.events] (s.raise e u d))

/-- R441: an increment of a statistic counter adds to it and to no other, and leaves it at 2^48 - 1 when it would pass
that; the increment that first reaches or passes 2^48 - 1 raises EV_COUNTER_SATURATED, and a later one does not until a
clear. The unit that raises it is log entry 12. R441, R152: a clear register sets to 0 exactly the counters whose bits
are written as 1, in table order, and changes nothing else; NUM_COUNTER_CLEAR.clear_layer sets the replay count of the
selected layer to 0. -/
def Obligations.CountersSaturate : Prop :=
  ((∀ (s : State) (c n : Nat), (s.count c n).counter c = min (s.counter c + n) counterMax ∧
     (∀ d, d ≠ c → (s.count c n).counter d = s.counter d)) ∧
   (∀ (s : State) (c n : Nat), s.counter c + n < counterMax → s.same [.counters] (s.count c n)) ∧
   (∀ (s : State) (c n : Nat), s.counter c < counterMax → counterMax ≤ s.counter c + n →
     (s.count c n).pathHas Ev.counterSaturated (counterUnit c) { value := c }) ∧
   (∀ (s : State) (c n : Nat), s.counter c = counterMax → s.same [.counters] (s.count c n)) ∧
   (∀ (s : State) (c : Nat), (s.clearCounter c).counter c = 0 ∧ s.same [.counters] (s.clearCounter c))) ∧
  ((∀ (s : State) (a : Nat) (w : Word) (l : List Nat), s.power.off = false → s.takesWrite a = true →
     RegMap.clearedBy a = some l →
     ∃ t, exec (.counterClear a w) s = .next t ∧ s.same [.counters] t ∧
       (∀ c, (∃ i, l[i]? = some c ∧ bitAt w.toNat i = 1) → t.counter c = 0) ∧
       (∀ c, (¬ ∃ i, l[i]? = some c ∧ bitAt w.toNat i = 1) → t.counter c = s.counter c)) ∧
   (∀ (s : State) (w : Word), s.power.off = false → s.takesWrite 0x500070 = true → bitAt w.toNat 6 = 1 →
     exec (.layerReplaysClear w) s = .next
       { s.modLayer (s.get Reg.numLayerSelect_layer) (fun e => { e with replays := 0 }) with pending := s.pending }))

/-- R123, R126, R132, R135: the number formats. The largest finite codes and the smallest subnormals of the table of
R123 decode to its values, the thresholds of R135 are half a unit in the last place above the largest finite values, and
sr_bf16 keeps NaNs and infinities, adds the draw to the magnitude and truncates it. -/
def Obligations.FormatsHaveTheirLimits : Prop :=
  (Fmt.e2m1.decode 0x7 = .fin false 3 1 ∧ Fmt.e2m3.decode 0x1F = .fin false 15 (-1) ∧ Fmt.e3m2.decode 0x1F = .fin false 7 2 ∧
    Fmt.e4m3.decode 0x7E = .fin false 14 5 ∧ Fmt.e5m2.decode 0x7B = .fin false 7 13 ∧ Fmt.bf16.decode 0x7F7F = .fin false 255 120 ∧
    Fmt.fp16.decode 0x7BFF = .fin false 2047 5 ∧ Fmt.fp32.decode 0x7F7FFFFF = .fin false 16777215 104) ∧
  (Fmt.e2m1.decode 1 = .fin false 1 (-1) ∧ Fmt.e2m3.decode 1 = .fin false 1 (-3) ∧ Fmt.e3m2.decode 1 = .fin false 1 (-4) ∧
    Fmt.e4m3.decode 1 = .fin false 1 (-9) ∧ Fmt.e5m2.decode 1 = .fin false 1 (-16) ∧ Fmt.bf16.decode 1 = .fin false 1 (-133) ∧
    Fmt.fp16.decode 1 = .fin false 1 (-24) ∧ Fmt.fp32.decode 1 = .fin false 1 (-149)) ∧
  (Fmt.e4m3.decode 0x7F = .nan false ∧ Fmt.e5m2.decode 0xFC = .inf true ∧ Fmt.e5m2.decode 0x7D = .nan false) ∧
  (Fmt.e4m3.threshold = .fin false 29 4 ∧ Fmt.e5m2.threshold = .fin false 15 12 ∧ Fmt.fp16.threshold = .fin false 4095 4 ∧
    Fmt.bf16.threshold = .fin false 511 119) ∧
  (∀ n r, srBf16 (.nan n) r = .nan n ∧ srBf16 (.inf n) r = .inf n) ∧
  (∀ (n : Bool) (m : Nat) (e : Int) (r : Nat), r < 2 ^ 16 →
    srBf16 (.fin n m e) r = Fmt.bf16.decode ((Fp.fin n m e).bits32 / 2 ^ 31 * 2 ^ 15 +
      ((Fp.fin n m e).bits32 % 2 ^ 31 + r) / 2 ^ 16 % 2 ^ 15))

/-- R6, R411, R432, R433: a register access of the wrong size or place does nothing but answer all ones, or zero in a
reserved range, and raise EV_REG_ACCESS_BAD from the module with cause 1 or 2. In a block that does not answer yet, a
read answers all ones and no event is raised. The unit is the model's choice (log entry 48). -/
def Obligations.BadRegisterAccessesOnlyReport : Prop :=
  (∀ (s : State) (off size : Nat) (w : Bool), s.power.off = false → ¬(size = 4 ∧ off % 4 = 0) → s.answers off = true →
    exec (.bar0BadSizeAccess off size w) s = .next
      { (if w then s else s.answer (List.replicate size 0xFF)).raise Ev.regAccessBad UnitId.module
          { value := off, cause := 1 } with pending := s.pending }) ∧
  (∀ (s : State) (off : Nat) (w : Bool), s.power.off = false → off % 4 = 0 → isReserved off = true → s.answers off = true →
    exec (.reservedRangeAccess off w) s = .next
      { (if w then s else s.answer (leBytes 0 4)).raise Ev.regAccessBad UnitId.module
          { value := off, cause := 2 } with pending := s.pending }) ∧
  (∀ (s : State) (off size : Nat) (w : Bool), s.power.off = false → s.answers off = false →
    (¬(size = 4 ∧ off % 4 = 0) → exec (.bar0BadSizeAccess off size w) s = .next
      { (if w then s else s.answer (List.replicate size 0xFF)) with pending := s.pending }) ∧
    (off % 4 = 0 → isReserved off = true → exec (.reservedRangeAccess off w) s = .next
      { (if w then s else s.answer (leBytes 0xFFFFFFFF 4)) with pending := s.pending }))

/-- R63: a read of a reserved BAR4 page, or of a BAR2 offset beyond the backed size of its partition's window, answers
all ones, a write there is discarded, and both raise EV_WIN_ACCESS_BAD. The units are the model's choice (log entry 48),
the address in units of 64 bytes and the causes those of R436. -/
def Obligations.WindowEdgesAnswerAllOnes : Prop :=
  (∀ (s : State) (off : Nat) (w : Bool), s.power.off = false → 2 ^ 18 ≤ off → off < 2 ^ 20 →
    exec (.winAccessBad 4 off w) s = .next
      { (if w then s else s.answer (List.replicate 4 0xFF)).raise Ev.winAccessBad UnitId.module
          { value := off / 64, cause := 2 } with pending := s.pending }) ∧
  (∀ (s : State) (p off : Nat) (w : Bool), s.power.off = false → p < 4 → off < 2 ^ 36 → s.winBytes p ≤ off →
    exec (.winAccessBad 2 (p * 2 ^ 36 + off) w) s = .next
      { ((if w then s else s.answer (List.replicate 4 0xFF)).set (Reg.winStatus_accessBad p) 1).raise Ev.winAccessBad
          (UnitId.partition p) { value := (p * 2 ^ 36 + off) / 64, cause := 1 } with pending := s.pending })

/-- R7: the halves of a 64-bit pair act as one register. A read of the lower half answers it and latches the upper half,
which the next read of the upper register shows; a write of the lower half is held and changes nothing that can be read;
a write of the upper half then stores both at once, or is refused by the pair's own rules or by an admitted plan that
rests on its value, when no register changes. That a refusal names the low offset with the upper word is log entry 14,
its unit log entry 48. -/
def Obligations.PairsActAsOne : Prop :=
  (∀ (s : State) (lo : Nat), s.power.off = false → lo % 4 = 0 → RegMap.isPairLo lo = true → s.takesWrite lo = true →
    s.takesWrite (lo + 4) = true →
    ∃ t, exec (.pairLowRead lo) s = .next t ∧ t.out.reply = leBytes (s.readWord lo) 4 ∧
      t.readWord (lo + 4) = s.wordNow (lo + 4) ∧ s.same [.latch, .out] t) ∧
  (∀ (s : State) (lo : Nat) (v : Word), s.power.off = false → s.takesWrite lo = true → pairWritten lo = true →
    ∃ t, exec (.pairLowWrite lo v) s = .next t ∧ lookup t.held lo = some v.toNat ∧ s.same [.held] t) ∧
  (∀ (s : State) (lo : Nat) (hi : Word), s.power.off = false → s.takesWrite (lo + 4) = true → pairWritten lo = true →
    (List.range 4).any (fun p => Reg.tickStart p == lo) = false → (lookup s.held lo).getD (s.reg lo) < 2 ^ 32 →
    ((RegMap.fieldsAt lo).any (fun f => f.acc == .rwa) = false ∨ s.formed lo hi.toNat = s.pair lo ∨
      s.rwaBlocked lo = false) →
    s.pairUnsound lo (s.formed lo hi.toNat) = false →
    ∃ t, exec (.pairHighWrite (lo + 4) hi) s = .next t ∧
      t.reg (lo + 4) = hi.toNat ∧ t.reg lo = (lookup s.held lo).getD (s.reg lo) ∧ lookup t.held lo = none ∧
      s.keepsRegs t [lo, lo + 4] ∧ s.same [.regs, .held, .parts] t) ∧
  (∀ (s : State) (lo : Nat) (hi : Word), s.power.off = false → s.takesWrite (lo + 4) = true → pairWritten lo = true →
    (List.range 4).any (fun p => Reg.tickStart p == lo) = false →
    (s.pairUnsound lo (s.formed lo hi.toNat) = true ∨ ((RegMap.fieldsAt lo).any (fun f => f.acc == .rwa) = true ∧
      s.formed lo hi.toNat ≠ s.pair lo ∧ s.rwaBlocked lo = true)) →
    ∃ t, exec (.pairHighWrite (lo + 4) hi) s = .next t ∧
      t.pathHas Ev.regWriteRefused (s.regUnit lo) { value := lo, value2 := hi.toNat } ∧ s.keepsRegs t [] ∧
      s.same eventFields t)

/-- R8, R10, R11: what a write makes of each field of a register. A read-only or write-only field keeps its bits; a
write-one-to-clear field loses the bits written as 1; a writable field takes the value its Range column makes of the
written one, and a value outside a range that refuses turns the whole write away. -/
def Obligations.WritesFollowAccessCodes : Prop :=
  ∀ (a old w : Nat) (f : FieldSpec), f ∈ RegMap.fieldsAt a →
    ((f.acc = .ro ∨ f.acc = .wo) → (f.fld a).of (attempt a old w).value = (f.fld a).of old) ∧
    (f.acc = .w1c → (f.fld a).of (attempt a old w).value = (f.fld a).of old - ((f.fld a).of old &&& (f.fld a).of w)) ∧
    ((f.acc = .rw ∨ f.acc = .rwa) →
      (∀ x, f.judge a ((f.fld a).of w) = .keep x ∨ f.judge a ((f.fld a).of w) = .clamp x →
        (f.fld a).of (attempt a old w).value = x % 2 ^ f.width) ∧
      (f.judge a ((f.fld a).of w) = .refuse → (attempt a old w).refused = true))

/-- R8 to R12: a register write that no field, no admitted plan and no rule of its block refuses stores the fields,
reports its clamps (R11, R93) and has the effects of its register; any other write changes nothing but for
EV_REG_WRITE_REFUSED with the offset and the value (R11). The three registers with rows of their own are written by the
same rules. The unit of a refusal is log entry 48; which registers have rows of their own, and what restarts checks, is
log entry 14. -/
def Obligations.RegisterWriteStores : Prop :=
  (∀ (s : State) (a : Nat) (w : Word), s.power.off = false → s.takesWrite a = true → RegMap.isPairLo a = false →
    RegMap.isPairHi a = false → ownRow a = false → (attempt a (s.reg a) w.toNat).refused = false →
    ((attempt a (s.reg a) w.toNat).rwa = true → s.rwaBlocked a = false) →
    s.unsound a (attempt a (s.reg a) w.toNat).value w.toNat = false →
    exec (.registerWrite a w) s = .next
      { (let t := attempt a (s.reg a) w.toNat
         let u := ((s.setReg a t.value).reportClamps a t.clamps).afterWrite a (s.reg a) w.toNat
         if t.rwa then u.restartChecks a else u) with pending := s.pending }) ∧
  (∀ (s : State) (a : Nat) (w : Word), s.power.off = false → s.takesWrite a = true → RegMap.isPairLo a = false →
    RegMap.isPairHi a = false → ownRow a = false →
    ((attempt a (s.reg a) w.toNat).refused = true ∨
      ((attempt a (s.reg a) w.toNat).rwa = true ∧ s.rwaBlocked a = true) ∨
      s.unsound a (attempt a (s.reg a) w.toNat).value w.toNat = true) →
    exec (.registerWrite a w) s = .next
      { s.raise Ev.regWriteRefused (s.regUnit a) { value := a, value2 := w.toNat } with pending := s.pending }) ∧
  (∀ (s : State) (p q : Nat) (w : Word), s.power.off = false → p < 4 → q < 16 →
    s.takesWrite (0x300108 + 0x1000 * p + 0x20 * q) = true →
    exec (.poolConfigWrite p q w) s = .next
      { s.writeReg (0x300108 + 0x1000 * p + 0x20 * q) w.toNat with pending := s.pending }) ∧
  (∀ (s : State) (w : Word), s.power.off = false → s.takesWrite 0x600000 = true →
    exec (.sealedSizeWrite w) s = .next { s.writeReg 0x600000 w.toNat with pending := s.pending }) ∧
  (∀ (s : State) (w : Word), s.power.off = false → s.takesWrite 0xC00000 = true →
    exec (.powerCapWrite w) s = .next { s.writeReg 0xC00000 w.toNat with pending := s.pending })

/-- R27: a write to the TICK_START pair takes effect, storing the exposure number written, in ADMITTED for an exposure
at least two ahead of the present one, on a module that does not stand by (R382) and has no restore pending (R387); it
is refused otherwise, changing nothing but for EV_REG_WRITE_REFUSED (R11). The present exposure of a partition whose
grid has not begun counts as 0. The event's unit is log entry 48; that it names the pair's low offset and the upper word
is log entry 14. -/
def Obligations.TickStartNeedsTwoExposures : Prop :=
  (∀ (s : State) (p : Nat) (hi : Word), s.power.off = false → p < 4 → s.takesWrite (Reg.tickStart p) = true →
    (s.part p).phase = .admitted →
    (if (s.part p).started then (s.part p).exposure else 0) + 2 ≤ s.formed (Reg.tickStart p) hi.toNat → s.standby = false → (s.part p).fixer.admission = false →
    exec (.tickStartWrite p hi) s = .next
      { s.takePair (Reg.tickStart p) (s.formed (Reg.tickStart p) hi.toNat) with pending := s.pending }) ∧
  (∀ (s : State) (p : Nat) (hi : Word), s.power.off = false → p < 4 → s.takesWrite (Reg.tickStart p) = true →
    ((s.part p).phase ≠ .admitted ∨
      s.formed (Reg.tickStart p) hi.toNat < (if (s.part p).started then (s.part p).exposure else 0) + 2 ∨
      s.standby = true ∨ (s.part p).fixer.admission = true) →
    exec (.tickStartWrite p hi) s = .next
      { s.raise Ev.regWriteRefused (s.regUnit (Reg.tickStart p)) { value := Reg.tickStart p, value2 := hi.toNat }
        with pending := s.pending })

/-- R66, R67: the doorbells. A tail at most one ring size ahead of the head and of the previous tail moves TAIL of an
enabled ring; a completion head at most one completion ring size behind the completion tail moves CPL_HEAD and cpl_full
with it; any other value puts the ring into its error state (a ring that is resetting stays so), sets doorbell_bad, is
counted, and raises EV_DOORBELL_BAD with cause 1 (tail) or 2 (completion head); a write elsewhere on the page or of
another size only raises it with cause 3. R76, R96, R411: a ring's reset command does nothing while ready reads 0; else
a reset puts a ring into its resetting state, in which it fetches nothing, and drops the descriptor fetched but not
started; once no descriptor is unfinished the four counts are 0, the ring is disabled, its state is 0 and only registers
change. When its coalescing delay is over, a pending interrupt goes out on the ring's vector. -/
def Obligations.RingsFollowTheirDoorbells : Prop :=
  ((∀ (s : State) (n : Nat) (v : Word), s.power.off = false → n < 64 → s.flag (Reg.ringControl_enable n) = true →
     countDiff v.toNat (s.get (Reg.ringHead n)) ≤ s.descSize n → countDiff v.toNat (s.get (Reg.ringTail n)) ≤ s.descSize n →
     exec (.doorbellTail n v) s = .next { s.set (Reg.ringTail n) v.toNat with pending := s.pending }) ∧
   (∀ (s : State) (n : Nat) (v : Word), s.power.off = false → n < 64 →
     (s.flag (Reg.ringControl_enable n) = false ∨ s.descSize n < countDiff v.toNat (s.get (Reg.ringHead n)) ∨
       s.descSize n < countDiff v.toNat (s.get (Reg.ringTail n))) →
     exec (.doorbellTail n v) s = .next
       { (((s.ringError n).set (Reg.ringStatus_doorbellBad n) 1).count (Ctr.ringDoorbellRefusedCount n)).raise
           Ev.doorbellBad (UnitId.ring n) { value := v.toNat, cause := 1 } with pending := s.pending }) ∧
   (∀ (s : State) (n : Nat) (v : Word), s.power.off = false → n < 64 →
     countDiff (s.get (Reg.ringCplTail n)) v.toNat ≤ s.cplSize n →
     exec (.doorbellCompletionHead n v) s = .next
       { (s.set (Reg.ringCplHead n) v.toNat).noteFull n with pending := s.pending }) ∧
   (∀ (s : State) (n : Nat) (v : Word), s.power.off = false → n < 64 →
     s.cplSize n < countDiff (s.get (Reg.ringCplTail n)) v.toNat →
     exec (.doorbellCompletionHead n v) s = .next
       { (((s.ringError n).set (Reg.ringStatus_doorbellBad n) 1).count (Ctr.ringDoorbellRefusedCount n)).raise
           Ev.doorbellBad (UnitId.ring n) { value := v.toNat, cause := 2 } with pending := s.pending }) ∧
   (∀ (s : State) (n off size v : Nat), s.power.off = false → n < 64 → ¬((off = 0 ∨ off = 8) ∧ size = 4) →
     exec (.doorbellBad n off size v) s = .next
       { s.raise Ev.doorbellBad (UnitId.ring n) { value := v, cause := 3 } with pending := s.pending })) ∧
  ((∀ (s : State) (n : Nat), s.power.off = false → s.ready = false → exec (.ringReset n) s = .next s) ∧
   (∀ (s : State) (n : Nat), s.power.off = false → n < 64 → s.ready = true →
     exec (.ringReset n) s = .next
       { (s.set (Reg.ringStatus_state n) 3).modRing n (fun r => { r with waiting := none }) with pending := s.pending }) ∧
   (∀ (s : State) (n : Nat), s.power.off = false → s.get (Reg.ringStatus_state n) = 3 → (s.ring n).allDone = true →
     ∃ t, exec (.ringResetDone n) s = .next t ∧ t.get (Reg.ringHead n) = 0 ∧ t.get (Reg.ringTail n) = 0 ∧
       t.get (Reg.ringCplTail n) = 0 ∧ t.get (Reg.ringCplHead n) = 0 ∧ t.get (Reg.ringControl_enable n) = 0 ∧
       t.get (Reg.ringStatus_state n) = 0 ∧ s.same [.regs] t) ∧
   (∀ (s : State) (n : Nat), s.power.off = false → (s.ring n).irqPending ≠ 0 →
     exec (.interruptCoalesceDelay n) s = .next
       { ((s.advanceTo ((s.ring n).irqSince + s.get (Reg.ringIrqCoalesce_delayUs n) * 4000)).modRing n
           (fun r => { r with irqPending := 0 })).sendIrq (s.get (Reg.ringControl_msixVector n)) with pending := s.pending }))

/-- R69, R72, R75: a ring that may fetch reads its next descriptor, the 128 bytes at base + 128 × (head mod size). HEAD
advances by one, and the descriptor starts at once, or waits while its fence bit is set and an earlier one has not
completed; an unknown opcode ends with BAD_OPCODE, header fields that are not as stated with BAD_ADDRESS at their
offset; a host-port error stops the ring with EV_RING_ERROR. R70: NOP completes at once with DONE; FENCE completes once
no earlier descriptor of its ring is unfinished; either with a non-zero operand byte ends with BAD_ADDRESS at that byte.
-/
def Obligations.DescriptorsAreFetchedAndStarted : Prop :=
  ((∀ (s : State) (n : Nat) (bs : List Byte), s.power.off = false → n < 64 → s.mayFetch n = true → bs.length = 128 →
     (bitAt (fieldAt bs 1 1) 1 = 0 ∨ (s.ring n).allDone = true) →
     ∃ t, exec (.descriptorFetch n bs 0) s = .next t ∧
       (let d : Started := ⟨(s.ring n).nextSeq, bs, false⟩
        let v := s.hostRead (s.descAddress n) 128
        let u := (v.set (Reg.ringHead n) (s.get (Reg.ringHead n) + 1)).modRing n (fun r => { r with nextSeq := r.nextSeq + 1 })
        t = { u.start n d with pending := s.pending } ∧
        (d.opcode ∈ opcodes → d.badHeader = none →
          t = { u.modRing n (fun r => { r with started := r.started ++ [d] }) with pending := s.pending }) ∧
        (∀ off, d.opcode ∈ opcodes → d.badHeader = some off →
          t = { (u.modRing n (fun r => { r with started := r.started ++ [d] })).finish n d .badAddress off
            with pending := s.pending }) ∧
        (d.opcode ∉ opcodes → t = { (u.modRing n (fun r => { r with started := r.started ++ [d] })).finish n d
          .badOpcode d.opcode with pending := s.pending }))) ∧
   (∀ (s : State) (n : Nat) (bs : List Byte), s.power.off = false → n < 64 → s.mayFetch n = true → bs.length = 128 →
     bitAt (fieldAt bs 1 1) 1 = 1 → (s.ring n).allDone = false →
     exec (.descriptorFetch n bs 0) s = .next
       { (((s.hostRead (s.descAddress n) 128).set (Reg.ringHead n) (s.get (Reg.ringHead n) + 1)).modRing n
           (fun r => { r with nextSeq := r.nextSeq + 1 })).modRing n
           (fun r => { r with waiting := some ⟨(s.ring n).nextSeq, bs, false⟩ }) with pending := s.pending }) ∧
   (∀ (s : State) (n st : Nat) (bs : List Byte), s.power.off = false → n < 64 → s.mayFetch n = true → st ≠ 0 →
     exec (.descriptorFetch n bs st) s = .next
       { (((s.hostRead (s.descAddress n) 128).ringError n).set (Reg.ringStatus_hostError n) 1).raise Ev.ringError (UnitId.ring n) { value := st }
         with pending := s.pending })) ∧
  ((∀ (s : State) (n : Nat) (d : Started), s.power.off = false → s.findOp n 0x01 = some d → d.strayOperand [] = none →
     exec (.nop n) s = .next { s.finish n d .done with pending := s.pending }) ∧
   (∀ (s : State) (n off : Nat) (d : Started), s.power.off = false → s.findOp n 0x01 = some d → d.strayOperand [] = some off →
     exec (.nop n) s = .next { s.finish n d .badAddress off with pending := s.pending }) ∧
   (∀ (s : State) (n off : Nat) (d : Started), s.power.off = false → s.findOp n 0x07 = some d → d.strayOperand [] = some off →
     exec (.fence n) s = .next { s.finish n d .badAddress off with pending := s.pending }) ∧
   (∀ (s : State) (n : Nat) (d : Started), s.power.off = false → s.findOp n 0x07 = some d → d.strayOperand [] = none →
     (∀ x ∈ (s.ring n).started, d.seq ≤ x.seq) → (∀ x ∈ (s.ring n).ready, d.seq ≤ x.seq) →
     exec (.fence n) s = .next { s.finish n d .done with pending := s.pending }) ∧
   (∀ (s : State) (n : Nat) (d x : Started), s.power.off = false → s.findOp n 0x07 = some d → d.strayOperand [] = none →
     x ∈ (s.ring n).started → x.seq < d.seq → exec (.fence n) s = .next s))

/-- R71, R75: a copy whose fields pass is under way (COPY_IN asks the host port for its bytes); when its bytes have
moved, COPY_IN has written them to HBM with their tags cleared and COPY_OUT has sent the HBM bytes to the bus address,
each ending with DONE; a field that fails ends it with BAD_ADDRESS at the field's offset, a host-port error with
HOST_ERROR and its status. The access ends the sleep of the HBM stack it touches (R399). R73, R74, R96: the oldest ready
completion goes out when the completion ring has room: 32 bytes with the tag, opcode, phase bit, status, detail and a
stamp of kind 9 at base + 32 × (tail mod size), CPL_TAIL one further, the done count one higher, and the refused count
too for a status above 1; a full ring waits, and a host-port error stops the ring. -/
def Obligations.CopiesAndCompletions : Prop :=
  ((∀ (s : State) (n : Nat) (d : Started), s.power.off = false → s.findOp n 0x05 = some d →
     exec (.copyIn n) s = .next
       { (match s.copyBad (s.ringPart n) d with
          | some off => s.finish n d .badAddress off
          | none => (s.hostRead d.copyFields.bus d.copyFields.length).beginDesc n d) with pending := s.pending }) ∧
   (∀ (s : State) (n : Nat) (d : Started), s.power.off = false → s.findOp n 0x06 = some d →
     exec (.copyOut n) s = .next
       { (match s.copyBad (s.ringPart n) d with
          | some off => s.finish n d .badAddress off
          | none => s.beginDesc n d) with pending := s.pending }) ∧
   (∀ (s : State) (n seq st : Nat) (d : Started) (bs : List Byte), s.power.off = false →
     (s.ring n).started.find? (fun d => d.seq == seq && d.begun && (d.opcode == 0x05 || d.opcode == 0x06)) = some d →
     (let u := s.wakeHbm (s.hbmBase (s.ringPart n) + d.copyFields.hbm) (d.opd 32 8)
      (d.opcode = 0x05 → bs.length = d.opd 32 8 →
       exec (.copyDone n seq bs 0) s = .next
         { (u.rawHbm (s.hbmBase (s.ringPart n) + d.opd 24 8) bs).finish n d .done with pending := s.pending }) ∧
      (d.opcode = 0x06 →
       exec (.copyDone n seq bs 0) s = .next
         { (u.hostWrite (d.opd 24 8) (s.mem.readN (s.hbmBase (s.ringPart n) + d.opd 16 8) (d.opd 32 8))).finish n d .done
           with pending := s.pending }) ∧
      (st ≠ 0 → exec (.copyDone n seq bs st) s = .next { u.finish n d .hostError st with pending := s.pending })))) ∧
  ((∀ (s : State) (n : Nat) (c : Completion) (l : List Completion), s.power.off = false → (s.ring n).ready = c :: l →
     s.cplFull n = false →
     ∃ t, exec (.completionWrite n 0) s = .next t ∧
       t.out.host = s.out.host ++
         [⟨s.pair (Reg.ringCplBase n) + 32 * (s.get (Reg.ringCplTail n) % s.cplSize n),
           leBytes c.tag 8 ++ leBytes c.opcode 1 ++ leBytes (if s.get (Reg.ringCplTail n) / s.cplSize n % 2 = 0 then 1 else 0) 1 ++
             leBytes c.status 2 ++ leBytes c.detail 4 ++ (s.stampNow 9).bytes⟩] ∧
       t.get (Reg.ringCplTail n) = (s.get (Reg.ringCplTail n) + 1) % 2 ^ 32 ∧
       t.counter (Ctr.ringDoneCount n) = min (s.counter (Ctr.ringDoneCount n) + 1) counterMax ∧
       t.counter (Ctr.ringRefusedCount n) = (if c.status ≤ 1 then s.counter (Ctr.ringRefusedCount n)
         else min (s.counter (Ctr.ringRefusedCount n) + 1) counterMax) ∧
       s.keepsCounters t [Ctr.ringDoneCount n, Ctr.ringRefusedCount n]) ∧
   (∀ (s : State) (n st : Nat), s.power.off = false → s.cplFull n = true → exec (.completionWrite n st) s = .next s) ∧
   (∀ (s : State) (n st : Nat) (c : Completion) (l : List Completion), s.power.off = false → (s.ring n).ready = c :: l →
     s.cplFull n = false → st ≠ 0 →
     exec (.completionWrite n st) s = .next
       { ((s.ringError n).set (Reg.ringStatus_hostError n) 1).raise Ev.ringError (UnitId.ring n) { value := st }
         with pending := s.pending }))

/-- R80, R82: a flip is a compare-and-set. With the slot's generation, in time, an OFFERED slot becomes FILLED (and
joins the queue of its intake unit in an intake pool); a FILLED command slot taken back, and a RESULT slot released, are
handed over again with the next generation; a RESULT slot of an output pool becomes FREE. Any other flip changes no
slot, is counted and raises EV_SLOT_FLIP_REFUSED with the slot and the generation written. R82: at a slot's deadline an
OFFERED slot is offered again with the next generation and counted; a RESULT slot is offered again, or RECLAIMED in an
output pool, counted, and EV_SLOT_RECLAIMED names it with its new generation; a slot without a deadline is left alone.
-/
def Obligations.SlotsAreFlippedAndReclaimed : Prop :=
  (∀ (s : State) (p q i : Nat) (v : BitVec 64), s.power.off = false → i < (s.pool p q).slots.length →
     let code := bitsAt v.toNat 0 8
     let ok := bitsAt v.toNat 32 32 = (s.slot p q i).gen ∧ ((s.slot p q i).deadline = 0 ∨ s.time.now < (s.slot p q i).deadline)
     (ok → (s.slot p q i).state = .offered → code = 2 → s.poolUse p q = 1 →
       exec (.slotFlip p q i v) s = .next
         { (s.modSlot p q i (fun x => { x with state := .filled, deadline := 0 })).joinIntake p q i with pending := s.pending }) ∧
     (ok → (s.slot p q i).state = .offered → code = 2 → s.poolUse p q ≠ 1 →
       exec (.slotFlip p q i v) s = .next
         { s.modSlot p q i (fun x => { x with state := .filled, deadline := 0 }) with pending := s.pending }) ∧
     (ok → (s.slot p q i).state = .filled → code = 6 → s.poolUse p q = 2 →
       exec (.slotFlip p q i v) s = .next { s.handOver p q i .offered with pending := s.pending }) ∧
     (ok → (s.slot p q i).state = .result → code = 6 → s.poolUse p q ≠ 3 →
       exec (.slotFlip p q i v) s = .next { s.handOver p q i .offered with pending := s.pending }) ∧
     (ok → (s.slot p q i).state = .result → code = 6 → s.poolUse p q = 3 →
       exec (.slotFlip p q i v) s = .next
         { s.modSlot p q i (fun x => { x with state := .free, deadline := 0 }) with pending := s.pending }) ∧
     (¬(ok ∧ (((s.slot p q i).state = .offered ∧ code = 2) ∨ ((s.slot p q i).state = .filled ∧ code = 6 ∧ s.poolUse p q = 2) ∨
         ((s.slot p q i).state = .result ∧ code = 6))) →
       exec (.slotFlip p q i v) s = .next
         { (s.count (Ctr.poolStaleFlip p q)).raise Ev.slotFlipRefused (UnitId.pool p q)
             { value := i, value2 := bitsAt v.toNat 32 32 } with pending := s.pending })) ∧
  ((∀ (s : State) (p q i : Nat), s.power.off = false → (s.slot p q i).deadline ≠ 0 → (s.slot p q i).state = .offered →
     exec (.slotTimeout p q i) s = .next
       { ((s.advanceTo (s.slot p q i).deadline).handOver p q i .offered).count (Ctr.poolReclaim p q)
         with pending := s.pending }) ∧
   (∀ (s : State) (p q i : Nat), s.power.off = false → (s.slot p q i).deadline ≠ 0 → (s.slot p q i).state = .result →
     exec (.slotTimeout p q i) s = .next
       { ((let u := s.advanceTo (s.slot p q i).deadline
           if s.poolUse p q = 3 then u.modSlot p q i (fun x =>
             { x with state := .reclaimed, gen := (x.gen + 1) % 2 ^ 32, deadline := 0 })
           else u.handOver p q i .offered).count (Ctr.poolReclaim p q)).raise Ev.slotReclaimed (UnitId.pool p q)
           { value := i, value2 := ((s.slot p q i).gen + 1) % 2 ^ 32 } with pending := s.pending }) ∧
   (∀ (s : State) (p q i : Nat), s.power.off = false → (s.slot p q i).deadline = 0 →
     exec (.slotTimeout p q i) s = .next s))

/-- R63, R78, R80, R81: a window read answers for each byte what the submitter may see of it, and reports a read beyond
the backed window. An aligned write of a whole flag field is a flip. Of any other write, each byte the submitter may
write (a payload byte of an OFFERED slot, byte 24 to 43 of its header, a byte outside the slots) reads back as written,
every other byte of the window and of memory stays as it was, a discarded byte sets access_bad and raises
EV_WIN_ACCESS_BAD from the partition, and a flag field touched raises EV_SLOT_FLIP_REFUSED; a write of bytes that are
all the submitter's raises nothing. An access ends the sleep of the HBM stack it touches (R399). The units are the
model's choice (log entry 48). -/
def Obligations.WindowAccesses : Prop :=
  (∀ (s : State) (p off n : Nat), s.power.off = false → off + n ≤ s.winBytes p →
    exec (.windowRead p off n) s = .next
      { (s.wakeWin p off n).answer ((List.range n).map (fun k => s.seenWinByte p (off + k))) with pending := s.pending }) ∧
  (∀ (s : State) (p off n : Nat), s.power.off = false → s.winBytes p < off + n →
    exec (.windowRead p off n) s = .next
      { (((s.wakeWin p off n).answer ((List.range n).map (fun k => s.seenWinByte p (off + k)))).set (Reg.winStatus_accessBad p) 1).raise
          Ev.winAccessBad (UnitId.partition p) { value := (p * 2 ^ 36 + off) / 64, cause := 1 } with pending := s.pending }) ∧
  (∀ (s : State) (p off q i : Nat) (bs : List Byte), s.power.off = false → s.winByte p off = .header q i 0 → bs.length = 8 →
    exec (.windowWrite p off bs) s = exec (.slotFlip p q i (BitVec.ofNat 64 (fieldAt bs 0 8))) s) ∧
  (∀ (s : State) (p off : Nat) (bs : List Byte), s.power.off = false →
    ¬ (bs.length = 8 ∧ ∃ q i, s.winByte p off = .header q i 0) →
    ∃ t, exec (.windowWrite p off bs) s = .next t ∧
      (∀ k b, bs[k]? = some b → s.mayWrite p (off + k) = true → t.seenWinByte p (off + k) = b) ∧
      (∀ a, (a < off ∨ off + bs.length ≤ a ∨ s.mayWrite p a = false) → t.seenWinByte p a = s.seenWinByte p a) ∧
      (∀ a, (∀ k, k < bs.length → s.mayWrite p (off + k) = true → a = s.hbmBase p + (s.winBase p + (off + k)) →
        ∃ q i b, s.winByte p (off + k) = .header q i b) → t.mem.read a = s.mem.read a) ∧
      (∀ k, k < bs.length → s.mayWrite p (off + k) = false → s.flagByte p (off + k) = false →
        t.get (Reg.winStatus_accessBad p) = 1 ∧
        t.pathHas Ev.winAccessBad (UnitId.partition p) { value := (p * 2 ^ 36 + off) / 64, cause := 1 }) ∧
      (∀ k q i b, k < bs.length → s.winByte p (off + k) = .header q i b → b < 8 → (b = 0 ∨ k = 0) →
        t.pathHas Ev.slotFlipRefused (UnitId.pool p q) { value := i, value2 := genWritten (off + k - b) off bs }) ∧
      ((∀ k, k < bs.length → s.mayWrite p (off + k) = true) → s.same [.mem, .tags, .pools, .power] t) ∧
      s.same (countFields ++ [.mem, .tags, .pools, .power]) t)

/-- R21, R14: a shutter tick opens the next exposure of its partition's grid: the exposure number becomes that of the
tick, the next tick is the one after, and fabric time is not before origin + n × L. No other partition's exposure moves.
-/
def Obligations.TickOpensTheNextExposure : Prop :=
  ∀ (s : State) (p : Nat) (ecc : EccCounts) (q : Part), s.power.off = false → s.time.everLocked = true → p < 4 →
    s.parts[p]? = some q →
    ∃ t, exec (.shutterTick p ecc) s = .next t ∧ (t.part p).exposure = q.nextTick ∧ (t.part p).nextTick = q.nextTick + 1 ∧
      (t.part p).started = true ∧ t.time.now = max s.time.now (s.pair (Reg.tickOrigin p) + q.nextTick * s.exposureUnits p) ∧
      (∀ r, r ≠ p → (t.part r).exposure = (s.part r).exposure ∧ (t.part r).nextTick = (s.part r).nextTick)

/-- R24, R26: the tick of exposure TICK_START begins step 0 of an admitted plan; at the tick that meets the barrier a
step ends at its boundary, with EV_STEP_RELEASED and the exposures held if it was held. Neither happens while a
withdrawal is due, and step 0 not on a standby second body. R24: the tick that ends a step is the first, not before the
tick of exposure P, that comes the barrier guard after the last completion notice. -/
def Obligations.StepsBeginAndEnd : Prop :=
  ((∀ (s : State) (p : Nat) (pl : Plan), s.power.off = false → s.planOf p = some pl → (s.part p).phase = .admitted →
     (s.part p).startDue = true → s.standby = false → (s.part p).withdrawDue = false →
     exec (.stepZeroStart p) s = .next
       { (((s.modPart p (fun q => { q with startDue := false })).evalEta p pl).beginStep p 0 (s.part p).exposure).snapshotRecord p
         with pending := s.pending }) ∧
   (∀ (s : State) (p e : Nat) (pl : Plan), s.power.off = false → s.planOf p = some pl → (s.part p).phase = .running →
     (s.part p).barrier.combined = some e → s.endExposure p e ≤ (s.part p).exposure → (s.part p).withdrawDue = false →
     exec (.stepEnd p) s = .next { s.stepBoundary p pl (s.endExposure p e) with pending := s.pending }) ∧
   (∀ (s : State) (p e : Nat) (pl : Plan), s.power.off = false → s.planOf p = some pl → (s.part p).phase = .held →
     (s.part p).barrier.combined = some e → s.endExposure p e ≤ (s.part p).exposure → (s.part p).withdrawDue = false →
     exec (.stepEnd p) s = .next
       { (s.raise Ev.stepReleased (UnitId.partition p)
           { value := s.endExposure p e - ((s.part p).startExposure + pl.planned + pl.spares) }).stepBoundary p pl
             (s.endExposure p e) with pending := s.pending }) ∧
   (∀ (s : State) (p : Nat), s.power.off = false → (s.part p).withdrawDue = true →
     exec (.stepZeroStart p) s = .next s ∧ exec (.stepEnd p) s = .next s) ∧
   (∀ (s : State) (p : Nat), s.power.off = false → s.standby = true → exec (.stepZeroStart p) s = .next s)) ∧
  (∀ (s : State) (p e : Nat), 0 < s.exposureUnits p →
     (s.part p).startExposure + s.plannedOf p ≤ s.endExposure p e ∧
     e + s.guardUnits p ≤ s.tickTime p (s.endExposure p e) ∧
     (∀ k, (s.part p).startExposure + s.plannedOf p ≤ k → e + s.guardUnits p ≤ s.tickTime p k → s.endExposure p e ≤ k))

/-- R26, R41: a step whose barrier is not met by exposure P + S, be it that no combined notice is known or that the
barrier guard after it has not passed, is held with EV_STEP_HELD and its step number (log entry 46); by exposure P + S +
TICK_HOLD_LIMIT it faults with cause 4 after EV_STEP_HOLD_LIMIT; a time lock lost for 64 exposures faults the running
step once with cause 3 (R16). -/
def Obligations.StepsAreHeldAndFault : Prop :=
  (∀ (s : State) (p : Nat) (pl : Plan), s.power.off = false → s.planOf p = some pl → (s.part p).phase = .running →
    pl.planned + pl.spares ≤ (s.part p).index →
    (∀ e, (s.part p).barrier.combined = some e → (s.part p).exposure < s.endExposure p e) →
    exec (.stepHeld p) s = .next
      { (s.modPart p (fun q => { q with phase := .held })).raise Ev.stepHeld (UnitId.partition p)
          { value := (s.part p).step % 2 ^ 32 } with pending := s.pending }) ∧
  (∀ (s : State) (p : Nat), s.power.off = false → (s.part p).phase = .held →
    s.plannedOf p + s.sparesOf p + s.get (Reg.tickHoldLimit_limit p) ≤ (s.part p).index →
    (∀ e, (s.part p).barrier.combined = some e → (s.part p).exposure < s.endExposure p e) →
    exec (.stepHoldLimit p) s = .next
      { (s.raise Ev.stepHoldLimit (UnitId.partition p) { value := s.get (Reg.tickHoldLimit_limit p) }).stepFault p .holdLimit
        with pending := s.pending }) ∧
  (∀ (s : State) (p l : Nat), s.power.off = false → s.time.lostAt = some l → s.time.locked = false →
    s.time.overdue.contains p = false → l + 64 * s.exposureUnits p ≤ s.time.now →
    exec (.timeLockTimeout p) s = .next
      { ({ s with time := { s.time with overdue := s.time.overdue ++ [p] } } : State).stepFault p .timeLock
        with pending := s.pending })

/-- R26, R376: a step fault stops a partition only in RUNNING or HELD. It raises EV_STEP_FAULT with the step number and
the cause and puts the partition in FAULTED; beside the fault notice on its ports it changes no memory, no register, no
queue of a core, no counter and no other partition. -/
def Obligations.StepFaultsStopTheStep : Prop :=
  (∀ (s : State) (p : Nat) (c : FaultCause), s.inStep p = false → s.stepFault p c = s) ∧
  (∀ (s : State) (p : Nat) (c : FaultCause) (q : Part), s.parts[p]? = some q → s.inStep p = true →
    ((s.stepFault p c).part p).phase = .faulted ∧ ((s.stepFault p c).part p).faultCause = c.code ∧
    (s.stepFault p c).pathHas Ev.stepFault (UnitId.partition p) { value := q.step % 2 ^ 32, cause := c.code } ∧
    (∀ r, r ≠ p → (s.stepFault p c).part r = s.part r) ∧
    s.keepsRegs (s.stepFault p c) [] ∧ s.same [.regs, .seq, .seqReported, .events, .parts, .ports] (s.stepFault p c))

/-- R26, R411: a withdrawal is asked for only while a plan is admitted and ready reads 1; when it is due,
EV_PLAN_WITHDRAWN names the plan and the partition returns to IDLE with its fabric key forgotten, HBM and the loaded
plans as before. A restore at admission (R387) ends when nothing is left of it and nothing is asked of the partner. -/
def Obligations.WithdrawalsAndRestores : Prop :=
  (∀ (s : State) (p : Nat), s.power.off = false → s.ready = true → s.admitted p = true →
    exec (.withdraw p) s = .next { s.modPart p (fun q => { q with withdrawAsked := true }) with pending := s.pending }) ∧
  (∀ (s : State) (p : Nat), s.power.off = false → (s.admitted p = false ∨ s.ready = false) →
    exec (.withdraw p) s = .next s) ∧
  (∀ (s : State) (p : Nat), s.power.off = false → s.admitted p = true → (s.part p).withdrawDue = true →
    ∃ t, exec (.planWithdrawal p) s = .next t ∧ (t.part p).phase = .idle ∧
      t.pathHas Ev.planWithdrawn (UnitId.partition p) { value := ((s.part p).plan).getD 0 } ∧
      (t.part p).fabricKey = none ∧ t.get (Reg.secFabricKey p) = 0 ∧ t.mem = s.mem ∧ t.plans = s.plans) ∧
  (∀ (s : State) (p : Nat) (pl : Plan), s.power.off = false → s.planOf p = some pl → (s.part p).fixer.admission = true →
    (s.part p).fixer.left = [] → (s.part p).fixer.failed = false → (s.part p).fixer.asked = [] →
    exec (.admissionRestoreDone p) s = .next
      { (((s.modFixer p (fun f => { f with left := [] })).set Reg.survStatus_restoring 0).modFixer p
          (fun f => { f with admission := false })) with pending := s.pending })

/-- R113, R116, R140, R372: an idle, working core in a step starts the first task in the order of R113 whose credits are
present and which waits for no copy of the Fixer, after it has noted a credit wait for each ready task that lacks its
credits, with the queue it waits for, and a Fixer wait for the group of each update held back; with no such task it only
notes the waits. A core that runs a task, is failed, whose partition is in no step or sweeps (R373) starts nothing.
R114, R115, R116: a token on its way takes one from its successor's count of missing predecessors at its core, once; a
credit on its way gives its queue's producer one free entry, and ends each wait of that producer whose credits are now
present; a token or credit that is not on its way changes nothing. R119: a queue whose pointers disagree resets. An
empty plan queue with no transfer in progress has all its credits again, a window that read it pays none for it, each
wait of its producer whose credits are now present ends, the event names the queue, the number lost and the cause, and
CORE_QUEUE_ERROR shows it; a queue of any kind that loses entries, or resets in a transfer, is also an uncorrectable
error in transient data (R378). What a Developer's input queue holds is log entry 65. -/
def Obligations.CoresQueuesAndTokens : Prop :=
  ((∀ (s : State) (c : Nat) (pl : Plan), s.power.off = false → c < s.fitted.ccc → s.inStep (s.corePart c) = true →
     (s.core c).running = none → s.coreFailed c = false → s.planOf (s.corePart c) = some pl →
     (s.part (s.corePart c)).fixer.sweep = none →
     let p := s.corePart c
     let again := fun (y : Nat × Nat × Machine.Task) => (s.core c).replay.contains (taskKey y.1 y.2.1)
     let lacking := fun (y : Nat × Nat × Machine.Task) => ((y.2.2.outQueues (again y)).find? (fun q =>
       decide ((s.queueRun p q).credits < s.writesOf p q))).getD noQueue
     let v := ((s.readyTasks p c pl).filter (fun y => !s.hasCredits p y.2.2 (again y))).foldl (fun u y =>
       u.noteWait c (taskKey y.1 y.2.1) (lacking y)) s
     let w := ((s.readyTasks p c pl).filter (fun y => s.hasCredits p y.2.2 (again y) && s.copyHolds p y.2.2)).foldl
       (fun u y => u.noteFixerWait p y.2.2.group) v
     (∀ x r, ((s.readyTasks p c pl).filter (fun y => s.hasCredits p y.2.2 (again y) && !s.copyHolds p y.2.2)).head? = some x →
       pl.runningOf p x = some r → exec (.taskIssue c) s = .next { w.startTask c r with pending := s.pending }) ∧
     ((∀ y ∈ s.readyTasks p c pl, s.hasCredits p y.2.2 (again y) = true → s.copyHolds p y.2.2 = true) →
       exec (.taskIssue c) s = .next { w with pending := s.pending })) ∧
   (∀ (s : State) (c : Nat), s.power.off = false →
     ((s.core c).running ≠ none ∨ s.coreFailed c = true ∨ s.inStep (s.corePart c) = false ∨
       (s.part (s.corePart c)).fixer.sweep ≠ none) →
     exec (.taskIssue c) s = .next s)) ∧
  ((∀ (s : State) (c g t : Nat), s.power.off = false → (⟨c, g, t⟩ : Token) ∈ s.tokens →
     ∃ u, exec (.tokenReceived c g t) s = .next u ∧ u.tokens = dropFirst ⟨c, g, t⟩ s.tokens ∧
       (∀ k, s.cores[c]? = some k → (u.core c).missingOf (taskKey g t) = k.missingOf (taskKey g t) - 1) ∧
       (∀ d, d ≠ c → u.core d = s.core d) ∧ s.same [.cores, .tokens] u) ∧
   (∀ (s : State) (c g t : Nat), s.power.off = false → (⟨c, g, t⟩ : Token) ∉ s.tokens →
     exec (.tokenReceived c g t) s = .next s) ∧
   (∀ (s : State) (p q : Nat) (pl : Plan) (e : QueueEntry), s.power.off = false → (⟨p, q⟩ : Credit) ∈ s.credits →
     s.planOf p = some pl → pl.queue q = some e →
     exec (.creditReceived p q) s = .next
       { (({ s with credits := dropFirst ⟨p, q⟩ s.credits } : State).modQueue p q
           (fun x => { x with credits := x.credits + 1 })).endWaits p e.producer with pending := s.pending }) ∧
   (∀ (s : State) (p q : Nat), s.power.off = false → (⟨p, q⟩ : Credit) ∉ s.credits →
     exec (.creditReceived p q) s = .next s)) ∧
  ((∀ (s : State) (p i cause : Nat) (pl : Plan) (e : QueueEntry), s.power.off = false → s.planOf p = some pl →
     pl.queue i = some e → (s.queueRun p i).items = [] →
     exec (.queuePtrMismatch (.plan p i) cause 0) s = .next
       { ((((((({ s.modQueue p i (fun x => { x with items := [], credits := e.entries }) with
                 credits := s.credits.filter (fun k => k != ⟨p, i⟩) } : State).modCore e.consumer (fun k => { k with
               paid := k.paid ++ (k.window.map (fun w => (w.1, i))).filter (!k.paid.contains ·) })).endWaits p
             e.producer).raiseFor (some p)
             Ev.queuePtrMismatch (UnitId.core e.consumer) { object := i, value := 0, cause := cause }).count
           (Ctr.coreQueueResetCount e.consumer)).set (Reg.coreQueueError_queue e.consumer) i).set
         (Reg.coreQueueError_valid e.consumer) 1) with pending := s.pending }) ∧
   (∀ (s : State) (q : QueueRef) (cause n : Nat), s.power.off = false → (0 < s.queueHolds q ∨ 0 < n) →
     let v := ((s.resetQueue q).raiseFor (some (s.queuePart q)) Ev.queuePtrMismatch (s.queueUnit q)
       { object := queueNumber q, value := s.queueHolds q, cause := cause }).noteReset q
     exec (.queuePtrMismatch q cause n) s = .next
       { v.transientError (v.queuePart q) (v.queueUnit q) (queueNumber q) 1 with pending := s.pending }))

/-- R114, R138, R139, R141, R237: when every core of a task has finished its share the task completes. Outside a layer
its halo rows and its tokens go out at once; the credits of the halo rows it read, and its landing entries, go back. A
layer's commit task then judges the layer: a non-finite input or a hit at rung 3 faults the step, any other hit replays
the layer, and no hit commits it. -/
def Obligations.CompletionCommitsOrReplays : Prop :=
  (∀ (s : State) (p g i : Nat) (pl : Plan) (t : Machine.Task), s.power.off = false → s.planOf p = some pl → pl.task g i = some t →
    (s.run p g i).completed = false → (∀ c ∈ t.cores, c ∈ (s.run p g i).finished) → t.layered = false →
    exec (.taskCompletion p g i) s = .next
      { (((((s.modRun p g i (fun r => { r with completed := true })).writeHalos p pl g i t).sendTokens pl g i
          (fun _ => true)).payHalos p pl g i t).releaseLandings p pl g i).stepWorkDone p pl with pending := s.pending }) ∧
  (∀ (s : State) (p g i : Nat) (pl : Plan) (t : Machine.Task), s.power.off = false → s.planOf p = some pl → pl.task g i = some t →
    (s.run p g i).completed = false → (∀ c ∈ t.cores, c ∈ (s.run p g i).finished) → t.layered = true → t.commits = true →
    exec (.taskCompletion p g i) s = .next
      { (((((s.modRun p g i (fun r => { r with completed := true })).sendTokens pl g i (fun x => x.layer == t.layer)).payHalos
          p pl g i t).releaseLandings p pl g i).judgeLayer p g t.layer pl).stepWorkDone p pl with pending := s.pending }) ∧
  (∀ (s : State) (p g l : Nat) (pl : Plan), s.inStep p = true →
    let runs := (pl.layerTasks g l).map (fun x => s.run p g x.1)
    ((∃ r ∈ runs, r.badInput = true) → s.judgeLayer p g l pl = s.numericFault p l 2) ∧
    ((∀ r ∈ runs, r.badInput = false) → (∃ r ∈ runs, r.hitAtTop = true) → s.judgeLayer p g l pl = s.numericFault p l 1) ∧
    ((∀ r ∈ runs, r.badInput = false ∧ r.hitAtTop = false) → (∃ r ∈ runs, 0 < r.hits) →
      s.judgeLayer p g l pl = s.replayLayer p g l pl) ∧
    ((∀ r ∈ runs, r.badInput = false ∧ r.hitAtTop = false ∧ r.hits = 0) →
      s.judgeLayer p g l pl = s.commitLayer p pl g l))

/-- R142: a promotion made in step s, at a replay, takes its hold H from NUM_PROMOTION_HOLD as it stands then and lasts
through step s + H; at the start of step s + H + 1 it returns to 0 with EV_PROMOTION_EXPIRED and its count, and not
earlier; a further replay raises it again and restarts the hold; a write of NUM_PROMOTION_HOLD changes no layer. -/
def Obligations.PromotionsExpire : Prop :=
  (∀ (s : State) (p g l : Nat) (pl : Plan) (e : LayerEntry), s.layer l = some e →
    ∃ x, (s.replayLayer p g l pl).layer l = some x ∧ x.promotion = e.promotion + 1 ∧ x.lastPromotion = (s.part p).step ∧
      x.hold = s.get Reg.numPromotionHold_holdSteps) ∧
  (∀ (s : State) (p l : Nat) (e : LayerEntry), s.power.off = false → s.layer l = some e → e.partition = p → 0 < e.promotion →
    e.lastPromotion + e.hold < (s.part p).step →
    ∃ t, exec (.promotionExpiry p l) s = .next t ∧ (∀ x, t.layer l = some x → x.promotion = 0) ∧
      (∀ m, m ≠ l → t.layer m = s.layer m) ∧
      t.counter Ctr.numPromotionExpiredCount = min (s.counter Ctr.numPromotionExpiredCount + 1) counterMax ∧
      s.keepsCounters t [Ctr.numPromotionExpiredCount] ∧
      t.pathHas Ev.promotionExpired (UnitId.partition p) { object := l } ∧ s.keepsRegs t []) ∧
  (∀ (s : State) (p l : Nat) (e : LayerEntry), s.power.off = false → s.layer l = some e →
    (s.part p).step ≤ e.lastPromotion + e.hold → exec (.promotionExpiry p l) s = .next s) ∧
  (∀ (s t : State) (w : Word), exec (.registerWrite 0x500004 w) s = .next t → t.layers = s.layers)

/-- R22, R24, R330, R334, R376, R446: a notice reaches a partition in a step, RUNNING or HELD. It is stamped with a
receipt; then one whose start exposure differs faults the step with cause 5 (frame mismatch), one from the parent sets
the combined time and passes down, one from a child is combined, and a fault notice faults the step with cause 9. Before
the step starts notices are kept, after a fault a completion notice has no effect, with no plan they are dropped, and
one with a stale epoch is discarded and counted. -/
def Obligations.NoticesDriveTheBarrier : Prop :=
  (∀ (s : State) (p : Nat) (n : Notice), s.power.off = false → s.fate n.port (noticePacket n) = .take →
    let v := (s.passBuffer n.port 0 1).stampReceipt (pkStamp (noticePacket n))
    let inStep := (s.part p).phase = .running ∨ (s.part p).phase = .held
    (inStep → n.kind = .completion → n.startExposure ≠ (s.part p).startExposure →
      exec (.completionNotice p n) s = .next { v.stepFault p .frameMismatch with pending := s.pending }) ∧
    (inStep → n.kind = .completion → n.startExposure = (s.part p).startExposure →
      (s.part p).barrier.combined = none → n.down = true →
      exec (.completionNotice p n) s = .next
        { ((v.modBarrier p (fun b => { b with combined := some n.time })).noteLate p n.origin).noticeDown p n
          with pending := s.pending }) ∧
    (inStep → n.kind = .completion → n.startExposure = (s.part p).startExposure →
      (s.part p).barrier.combined = none → n.down = false →
      exec (.completionNotice p n) s = .next
        { ((v.modBarrier p (fun b => { b with children := b.children ++ [n] })).tryCombine p).noteLate p n.origin
          with pending := s.pending }) ∧
    (inStep → n.kind = .fault →
      exec (.completionNotice p n) s = .next
        { (if n.down || v.isBarrierRoot p then v.noticeDown p n else v.noticeUp p n).stepFault p .peer
          with pending := s.pending }) ∧
    ((s.part p).phase = .admitted → s.standby = false →
      exec (.completionNotice p n) s = .next
        { v.modBarrier p (fun b => { b with kept := b.kept ++ [n] }) with pending := s.pending }) ∧
    ((s.part p).phase = .faulted → n.kind = .completion → exec (.completionNotice p n) s = .next { v with pending := s.pending }) ∧
    ((s.part p).phase = .idle → exec (.completionNotice p n) s = .next { v with pending := s.pending })) ∧
  (∀ (s : State) (p : Nat) (n : Notice), s.power.off = false → s.fate n.port (noticePacket n) = .stale →
    exec (.completionNotice p n) s = .next
      { (s.passBuffer n.port 0 1).dropStale n.port with pending := s.pending })

/-- R114, R135, R136, R141, R143: the end of a core's share of a task without an output queue. The core is idle again;
the task's run records the core, the hit elements and a non-finite input; the core's done count and, with hits, the hit
count rise; a task outside every layer counts its hits as unlayered and raises EV_NUMERIC_HIT_UNLAYERED at its first. No
memory changes. -/
def Obligations.SharesEnd : Prop :=
  ∀ (s : State) (c : Nat) (r : Running) (hits : Nat) (bad : Bool) (k : Core) (q : Part),
    s.cores[c]? = some k → s.parts[r.p]? = some q → r.task.queueOut = noQueue →
    let t := s.endTask c r hits bad
    (t.core c).running = none ∧
    (t.run r.p r.g r.t).finished = (s.run r.p r.g r.t).finished ++ [c] ∧
    (t.run r.p r.g r.t).hits = (s.run r.p r.g r.t).hits + hits ∧
    (t.run r.p r.g r.t).badInput = ((s.run r.p r.g r.t).badInput || bad) ∧
    t.counter (Ctr.coreTasksDoneCount c) = min (s.counter (Ctr.coreTasksDoneCount c) + 1) counterMax ∧
    t.counter Ctr.numHitElementCount = (if hits = 0 then s.counter Ctr.numHitElementCount
      else min (s.counter Ctr.numHitElementCount + hits) counterMax) ∧
    (0 < hits → r.task.layered = false → (s.run r.p r.g r.t).hits = 0 →
      t.pathHas Ev.numericHitUnlayered (UnitId.core c) { object := r.t, value := r.g }) ∧
    s.sameMem t

/-- R104, R107, R128 to R130, R153, R295: a product task computes its core's share of C once its tiling record has come.
At rung 3 the share is a cell of R129's grid; below it, with a record whose tiles are all legal (R108), a cell of the
record's grid (R164), and the status shows the form. Its present rows, in FP32 with the fused addend, go through the
output conversion into C and nowhere else; elements that hit R135 are counted (those of an MX block by the core that
writes its last part), and a non-finite operand at load is noted (R136). The order of the additions is open (log entry
5). Without its record the task waits; one that R107 ends at once needs none, and one whose gradients R295 skips is
counted and ends without writing anything, the credits of its queue kept (R162). -/
def Obligations.ProductsWriteTheirShare : Prop :=
  ∀ (s : State) (c : Nat) (r : Running) (out : Operand), s.power.off = false → s.runningOn c = some r →
    r.slot 3 = some out →
    let q := r.task.product
    (r.frozenSkip = false → q.atOnce r.productTensors = false → s.effRung r.task = 3 → (s.core c).tiling ≠ none →
      ∀ sh, gridShare q.M q.N (vectorGrid r.task.coreCount q.M q.N).1 (vectorGrid r.task.coreCount q.M q.N).2
          (r.coreIndex c) false = some sh → sh.rows.2 ≠ 0 → sh.cols.2 ≠ 0 →
        let x : ProductRun := ⟨q, 3, 1, fun u => u.k, sh⟩
        let fr := s.takeFrames c r
        let rows := fr.2.productRows c r x out.t (x.present fr.1)
        let ld := fr.2.loadAll r (r.productReads x (x.present fr.1))
        let m := ld.1.storeShare r out.t rows
        (r.task.op = 0x0001 → s.shareEnds c r m.2.hits ld.2 m.1 (exec (.matrixProduct c) s)) ∧
        (r.task.op = 0x0002 → r.task.par 0 1 = 1 → s.shareEnds c r m.2.hits ld.2 m.1 (exec (.dataGradientProduct c) s)) ∧
        (r.task.op = 0x0002 → r.task.par 0 1 = 2 → s.shareEnds c r m.2.hits ld.2 m.1 (exec (.weightGradientProduct c) s))) ∧
    (r.frozenSkip = false → q.atOnce r.productTensors = false → s.effRung r.task < 3 →
      ∀ tl sh, (s.core c).tiling = some tl →
        gridShare q.M q.N tl.gM tl.gN (r.coreIndex c) (q.N == 1) = some sh → sh.rows.2 ≠ 0 → sh.cols.2 ≠ 0 →
        (∀ x ∈ (s.shapeKey c r).shape.turned.uses.flatMap (fun u =>
            (shareTiles (s.shapeKey c r).shape.turned tl sh (q.N == 1) u).map (fun t => (u, t))),
          x.1.legal (s.shapeKey c r).shape.turned.acc (r.plan.tileSpace c) x.2.1 x.2.2.1 x.2.2.2 = true) →
        let cell := fun (u : State) (x : ProductRun) => x.q = q ∧ x.share = sh ∧ x.rung = s.effRung r.task ∧
          x.rowsR = (formSize tl.form).1 ∧ u.get (Reg.coreStatus_form c) = tl.form % 8 ∧ s.same countFields u
        (r.task.op = 0x0001 → ∃ u x,
          exec (.matrixProduct c) s = .next { u.runShare c r x with pending := s.pending } ∧ cell u x) ∧
        (r.task.op = 0x0002 → r.task.par 0 1 = 1 → ∃ u x,
          exec (.dataGradientProduct c) s = .next { u.runShare c r x with pending := s.pending } ∧ cell u x) ∧
        (r.task.op = 0x0002 → r.task.par 0 1 = 2 → ∃ u x,
          exec (.weightGradientProduct c) s = .next { u.runShare c r x with pending := s.pending } ∧ cell u x)) ∧
    (r.frozenSkip = false → q.atOnce r.productTensors = true →
      (r.task.op = 0x0001 → exec (.matrixProduct c) s = .next { s.productAtOnce c r q with pending := s.pending }) ∧
      (r.task.op = 0x0002 → r.task.par 0 1 = 1 →
        exec (.dataGradientProduct c) s = .next { s.endTask c r 0 false with pending := s.pending }) ∧
      (r.task.op = 0x0002 → r.task.par 0 1 = 2 →
        exec (.weightGradientProduct c) s = .next { s.endTask c r 0 false with pending := s.pending })) ∧
    (r.frozenSkip = true → r.task.op = 0x0002 → r.task.par 0 1 = 2 →
      exec (.weightGradientProduct c) s = .next
        { ((s.count (Ctr.coreFrozenSkipCount c)).keepCredits r).endEmpty c r with pending := s.pending }) ∧
    (r.frozenSkip = false → q.atOnce r.productTensors = false → (s.core c).tiling = none →
      (r.task.op = 0x0001 → exec (.matrixProduct c) s = .next s) ∧
      (r.task.op = 0x0002 → r.task.par 0 1 = 1 → exec (.dataGradientProduct c) s = .next s) ∧
      (r.task.op = 0x0002 → r.task.par 0 1 = 2 → exec (.weightGradientProduct c) s = .next s))

/-- R110, R121, R444: a vector kernel computes its core's share of the output slices, a slice whose frame was blank left
out, and writes each in place; kernel 0x0B writes one value, the largest magnitude, by the first core of the set after
the others have ended, and its other cores write nothing. A task with an empty tensor only ends (R91). R111, R112, R444:
with every index in the table, gather mode copies to output row j the table row that index j selects; scatter mode
writes to each selected table row the row of its highest entry; scatter-add mode adds to a row every entry that selects
it, in one sum of open order (log entry 5), by the last core to end among those that hold such entries. An index outside
the table yields a zero row in a gather and no write in a scatter. A task with an empty tensor only ends (R91). -/
def Obligations.VectorTasksWriteTheirShare : Prop :=
  (∀ (s : State) (c : Nat) (r : Running) (a out : Operand), s.power.off = false → s.runningOn c = some r → r.task.op = 0x0008 →
     r.slot 0 = some a → r.slot 3 = some out →
     let q := if r.task.inputSlices then a.t.rows else out.t.rows
     let sh := shareOf q r.task.coreCount (r.coreIndex c)
     let fr := s.takeFrames c r
     let ks := ((List.range sh.2).map (· + sh.1)).filter (fun k => !rowAbsent fr.1 q k)
     (r.usesEmpty = true → exec (.vectorKernel c) s = .next { s.endTask c r 0 false with pending := s.pending }) ∧
     (r.usesEmpty = false → r.task.kernel ≠ 0x0B →
       let ps := ks.map (fun k => fr.2.kernelPiece r a.t out.t k)
       let ld := fr.2.loadAll r (r.kernelReads a ks)
       s.shareEnds c r ((ps.map (fun x => out.t.pieceHits x [])).sum) ld.2 (ld.1.store r.p out.t ps) (exec (.vectorKernel c) s)) ∧
     (r.usesEmpty = false → r.task.kernel = 0x0B → r.coreIndex c = 0 → s.othersDone c r = true →
       let ps : List Piece := [⟨0, [fr.2.absMax r a.t fr.1]⟩]
       let ld := fr.2.loadAll r [(a, ks.map a.t.sliceRun)]
       s.shareEnds c r ((ps.map (fun x => out.t.pieceHits x [])).sum) ld.2 (ld.1.store r.p out.t ps) (exec (.vectorKernel c) s)) ∧
     (r.usesEmpty = false → r.task.kernel = 0x0B → r.coreIndex c = 0 → s.othersDone c r = false → exec (.vectorKernel c) s = .next s) ∧
     (r.usesEmpty = false → r.task.kernel = 0x0B → r.coreIndex c ≠ 0 →
       let ld := fr.2.loadAll r [(a, ks.map a.t.sliceRun)]
       s.shareEnds c r 0 ld.2 ld.1 (exec (.vectorKernel c) s))) ∧
  (∀ (s : State) (c : Nat) (r : Running) (a b out : Operand), s.power.off = false → s.runningOn c = some r → r.task.op = 0x0009 →
     r.slot 0 = some a → r.slot 1 = some b → r.slot 3 = some out →
     let fr := s.takeFrames c r
     let u := fr.2
     let n := b.t.dim 0
     let sh := shareOf n r.task.coreCount (r.coreIndex c)
     let all := (List.range n).filter (fun j => !rowAbsent fr.1 n j)
     let mine := ((List.range sh.2).map (· + sh.1)).filter (fun j => !rowAbsent fr.1 n j)
     let table := if r.task.par 0 1 = 1 then a.t.dim 1 else out.t.dim 1
     let row := fun j => rowOf table (u.indexOf r b.t j).2
     let bad := ((mine.map (fun j => u.indexOf r b.t j)).filter (fun x => (rowOf table x.2).isNone)).map (·.1)
     let v := u.rangeErrors c r bad
     let ld := fun (reads : List Run) => v.loadAll r [(a, reads), (b, [⟨sh.1 * b.t.type.bits, sh.2⟩])]
     let hits := fun (ps : List Piece) => (ps.map (fun x => out.t.pieceHits x [])).sum
     (r.usesEmpty = true → ∀ i, (r.task.par 0 1 = 1 ∧ i = Instr.gather c ∨ r.task.par 0 1 = 2 ∧ i = .scatter c ∨
       r.task.par 0 1 = 3 ∧ i = .scatterAdd c) → exec i s = .next { s.endTask c r 0 false with pending := s.pending }) ∧
     (r.usesEmpty = false → r.task.par 0 1 = 1 →
       let reads := (mine.map (fun j => (j, row j))).filterMap (fun x => x.2.map a.t.row2)
       let ps : List Piece := (mine.map (fun j => (j, row j))).map (fun x => match x.2 with
         | some k => ⟨(out.t.row2 x.1).off, u.runFp r.p a.t (a.t.row2 k)⟩
         | none => ⟨(out.t.row2 x.1).off, List.replicate (out.t.dim 0) Fp.zero⟩)
       s.shareEnds c r (hits ps) (ld reads).2 ((ld reads).1.store r.p out.t ps) (exec (.gather c) s)) ∧
     (r.usesEmpty = false → r.task.par 0 1 = 2 →
       let ps : List Piece := (mine.filter (fun j => (row j).isSome &&
         !all.any (fun k => decide (j < k) && row k == row j))).filterMap (fun j =>
           (row j).map (fun k => ⟨(out.t.row2 k).off, u.runFp r.p a.t (a.t.row2 j)⟩))
       s.shareEnds c r (hits ps) (ld (mine.map a.t.row2)).2 ((ld (mine.map a.t.row2)).1.store r.p out.t ps)
         (exec (.scatter c) s)) ∧
     (r.usesEmpty = false → r.task.par 0 1 = 3 →
       let owner := fun j => r.task.coreFirst + j / max 1 (ceilDiv n r.task.coreCount)
       let last := ((mine.filterMap row).eraseDups).filter (fun k => (all.filter (fun j => row j == some k)).all (fun j =>
         owner j == c || (u.run r.p r.g r.t).finished.contains (owner j)))
       let ps : List Piece := last.zipIdx.map (fun x =>
         ⟨(out.t.row2 x.1).off, (u.runFp r.p out.t (out.t.row2 x.1)).zipIdx.map (fun y =>
           Fp.sum (u.freeCtr + x.2) (y.1 :: ((all.filter (fun j => row j == some x.1)).map (fun j =>
             u.runFp r.p a.t (a.t.row2 j))).map (fun l => (l[y.2]?).getD Fp.zero)))⟩)
       s.shareEnds c r (hits ps) (ld (mine.map a.t.row2)).2 ((ld (mine.map a.t.row2)).1.store r.p out.t ps)
         (exec (.scatterAdd c) s)))

/-- R163, R166, R169: a tiling record arrives for the task that asked for one. A shape in the die's cache gives its
tiling and counts a cache hit; another joins the searches of its control core, and the reference tiling serves
meanwhile. A record that comes for the next task while one runs is kept for it. R165, R169: a search that ends leaves
the queue of its control core; its shape enters the die's cache with the reference tiling, or with a tiling that R165
accepts, and with any other tiling nothing enters. -/
def Obligations.TilingsAreSearchedAndCached : Prop :=
  ((∀ (s : State) (c ns : Nat) (r : Running), s.power.off = false → s.runningOn c = some r → (s.core c).asked = true →
     r.needsRecord = true →
     (∀ tl, s.cached (s.fitted.dieOf c) (s.shapeKey c r) = some tl →
       ∃ t, exec (.tilingRecord c ns) s = .next t ∧ (∀ k, s.cores[c]? = some k → (t.core c).tiling = some tl) ∧
         t.counter (Ctr.coreCacheHitCount c) = min ((s.lateRecord c r.t ns).counter (Ctr.coreCacheHitCount c) + 1) counterMax ∧
         t.searches = s.searches ∧ s.sameMem t) ∧
     (s.cached (s.fitted.dieOf c) (s.shapeKey c r) = none →
       ∃ t, exec (.tilingRecord c ns) s = .next t ∧
         (∀ k, s.cores[c]? = some k → (t.core c).tiling = some (s.shapeKey c r).shape.referenceTiling) ∧
         t.counter (Ctr.coreReferenceUsedCount c) =
           min ((s.lateRecord c r.t ns).counter (Ctr.coreReferenceUsedCount c) + 1) counterMax ∧
         (∀ l, s.searches[s.controlOf c]? = some l → s.shapeKey c r ∈ (t.searches[s.controlOf c]?).getD []) ∧
         t.shapes = s.shapes ∧ s.sameMem t)) ∧
   (∀ (s : State) (c ns key rung : Nat) (r : Running) (tl : Tiling), s.power.off = false →
     s.tilingRequest c = some (r, some (key, rung)) → s.cached (s.fitted.dieOf c) (s.shapeKey c r) = some tl →
     ∃ t, exec (.tilingRecord c ns) s = .next t ∧ (∀ k, s.cores[c]? = some k → (key, rung, tl) ∈ (t.core c).early) ∧
       (t.core c).tiling = (s.core c).tiling ∧ s.sameMem t)) ∧
  (∀ (s : State) (c : Nat) (tl : Tiling) (k : ShapeKey) (rest : List ShapeKey), s.power.off = false → c < s.fitted.ccc →
     s.searches[s.controlOf c]? = some (k :: rest) →
     (∀ d, d < s.fitted.ccc → s.controlOf d = s.controlOf c → (s.core d).asked = false) →
     (({ tl with reference := true } : Tiling) = k.shape.referenceTiling →
       exec (.shapeSearchDone c tl) s = .next
         { ({ s with searches := s.searches.set (s.controlOf c) rest } : State).enterShape (s.fitted.dieOf c)
             ⟨k, k.shape.referenceTiling⟩ with pending := s.pending }) ∧
     (({ tl with reference := true } : Tiling) ≠ k.shape.referenceTiling → 
       k.accepts s.fitted.coresPerDie (s.get (Reg.tickClockFloor_floor100mhz (s.corePart c))) tl = true →
       exec (.shapeSearchDone c tl) s = .next
         { ({ s with searches := s.searches.set (s.controlOf c) rest } : State).enterShape (s.fitted.dieOf c)
             ⟨k, { tl with reference := false }⟩ with pending := s.pending }) ∧
     (({ tl with reference := true } : Tiling) ≠ k.shape.referenceTiling → 
       k.accepts s.fitted.coresPerDie (s.get (Reg.tickClockFloor_floor100mhz (s.corePart c))) tl = false →
       exec (.shapeSearchDone c tl) s = .next { s with searches := s.searches.set (s.controlOf c) rest }))

/-- R91, R175 to R183, R199: a core with no cell of the task, or a task with an empty tensor, finishes at once. Any
other core's share of an attention task appends its new keys and values first, in the page rows of its contexts; every
cell of the share gives a row of the output and, where asked, its log-sum-exp; nothing else is written. Hits and
non-finite operands are counted at the end of the share. The order of the additions is log entry 5. R186 to R188, R147:
the backward task writes dQ, dK and dV and its scratch tensor and nothing else, each KV head and batch element of its
share in turn, with the gradients at the factor of R146; a core with no cell of the task, or a task with an empty
tensor, finishes at once (R91). -/
def Obligations.AttentionWritesItsShare : Prop :=
  (∀ (s : State) (c : Nat) (r : Running) (q out : Operand), s.power.off = false → s.runningOn c = some r → r.task.op = 0x0003 →
     r.slot 0 = some q → r.slot 3 = some out →
     let a := r.task.attn
     let fr := (s.takeFrames c r).2
     (r.usesEmpty = true ∨ a.idle r.task.coreCount (r.coreIndex c) = true →
       exec (.attentionForward c) s = .next { fr.endTask c r 0 false with pending := s.pending }) ∧
     (r.usesEmpty = false → a.idle r.task.coreCount (r.coreIndex c) = false →
       let ap := fr.loadAll r (r.appendReads a c)
       let u := ap.1.appendKv c r a
       let cells := u.attnCells r a (r.coreIndex c)
       let rows := u.forwardRows r a (s.effRung r.task) cells
       let ld := u.loadAll r (r.forwardReads a cells)
       let ps := rows.map (fun (x : AttnRow) => markedRow out.t a.d x.2.1 x.1.h x.1.b 0 x.2.2.1)
       let m := ld.1.store r.p out.t (ps.map (·.1))
       s.shareEnds c r ((ps.map (fun (x : Marked) => out.t.pieceHits x.1 x.2)).sum) (ap.2 || ld.2 || u.badPages r a cells)
         (match if a.writeLse then r.operand a.lse else none with
           | some o => m.store r.p o.t (rows.map (fun (x : AttnRow) => ⟨o.t.bitOffset [x.2.1, x.1.h, x.1.b], [x.2.2.2]⟩))
           | none => m) (exec (.attentionForward c) s))) ∧
  (∀ (s : State) (c : Nat) (r : Running) (q out dk dv scr : Operand), s.power.off = false → s.runningOn c = some r →
     r.task.op = 0x0004 → r.slot 0 = some q → r.slot 3 = some out → r.operand r.task.attn.dK = some dk →
     r.operand r.task.attn.dV = some dv → r.operand r.task.attn.scratch = some scr →
     let a := r.task.attn
     let u := (s.takeFrames c r).2
     (r.usesEmpty = true ∨ a.idle r.task.coreCount (r.coreIndex c) = true →
       exec (.attentionBackward c) s = .next { u.endTask c r 0 false with pending := s.pending }) ∧
     (r.usesEmpty = false → a.idle r.task.coreCount (r.coreIndex c) = false →
       let cells := u.attnCells r a (r.coreIndex c)
       let groups := (cells.map (fun k => (k.b, k.h / a.group))).eraseDups
       let size := a.group * (2 * (a.nq + 1) * (a.nk + 1) + a.nq * (a.d + 2) * (ceilDiv a.nk 128 + 1)) + a.d
       let outs := groups.zipIdx.map (fun x => u.backHead r a (s.effRung r.task) x.1.1 x.1.2 (u.freeCtr + x.2 * size)
         (u.gradShift r.task a.srcLayer) cells out.t dk.t dv.t scr.t)
       let ld := u.loadAll r (r.backwardReads a cells)
       let x1 := (ld.1.store r.p scr.t (outs.flatMap (·.scratch))).storeGrad r out.t (outs.flatMap (·.dQ))
       let x2 := x1.2.storeGrad r dk.t (outs.flatMap (·.dK))
       let x3 := x2.2.storeGrad r dv.t (outs.flatMap (·.dV))
       s.shareEnds c r (x1.1 + x2.1 + x3.1) ld.2 x3.2 (exec (.attentionBackward c) s)))

/-- R230 to R237: a convolution task of any of the three directions computes its core's share of the output elements,
line by line along dimension 0, in the products of every packed set of groups, when the tiles of its share are legal; a
weight gradient whose group the table freezes writes nothing and is counted (R162), and a core with no part of the
output, or a task with an empty tensor (R91), only ends its share. Which convolution is the shortcut is log entry 50.
R239 to R241, R243, R244: crop and resize samples each box of its share from its image, a box outside rule taking the
outside value; channel argmax writes, at each output position of its share, the index of the largest value along the
axis and, where asked, the value itself; either with an empty tensor only ends its share (R91). -/
def Obligations.ConvolutionsAndImagesWriteTheirShare : Prop :=
  (∀ (s : State) (c : Nat) (r : Running), s.power.off = false → s.runningOn c = some r → r.task.op = 0x0005 →
     let u := (s.takeFrames c r).2
     (r.convFrozen = true → r.task.conv.dir = 3 → exec (.convWeightGradient c) s = .next
       { ((u.count (Ctr.coreFrozenSkipCount c)).keepCredits r).endEmpty c r with pending := s.pending }) ∧
     (r.convFrozen = false → r.convReady = none → ∀ i, (r.task.conv.dir = 1 ∧ i = Instr.convForward c ∨
       r.task.conv.dir = 2 ∧ i = .convDataGradient c ∨ r.task.conv.dir = 3 ∧ i = .convWeightGradient c) →
       exec i s = .next { u.endTask c r 0 false with pending := s.pending }) ∧
     (∀ (z : ConvTensors) (in0 out : Operand), r.convFrozen = false → r.convReady = some z → r.slot 0 = some in0 →
       r.slot 3 = some out →
       let x := r.convTiled c (r.convRun z (u.effRung r.task)) in0.t
       (r.convShare c x.1 x.2 = none →
         (r.task.conv.dir = 1 → exec (.convForward c) s = .next { u.endTask c r 0 false with pending := s.pending }) ∧
         (r.task.conv.dir = 2 → exec (.convDataGradient c) s = .next { u.endTask c r 0 false with pending := s.pending }) ∧
         (r.task.conv.dir = 3 → exec (.convWeightGradient c) s = .next { u.endTask c r 0 false with pending := s.pending })) ∧
       (∀ sh, r.convShare c x.1 x.2 = some sh → sh.rows.2 ≠ 0 → sh.cols.2 ≠ 0 → (u.convTiles c r x.1 x.2 sh in0.t).2 = none →
         let w := (u.convTiles c r x.1 x.2 sh in0.t).1
         let lines := ((List.range (ceilDiv x.1.v.groups x.1.gp)).flatMap (fun j => x.1.lines j sh)).filter (fun l => !l.isEmpty)
         let ps := w.convPieces c r x.1 out.t lines
         let ld := w.loadAll r (w.convReads c r x.1 lines.flatten)
         let bad := ld.2 || w.badWindow c r x.1 lines.flatten
         let m := ld.1.storeShare r out.t ps
         (r.task.conv.dir = 1 → s.shareEnds c r m.2.hits bad m.1 (exec (.convForward c) s)) ∧
         (r.task.conv.dir = 2 → s.shareEnds c r m.2.hits bad m.1 (exec (.convDataGradient c) s)) ∧
         (r.task.conv.dir = 3 → s.shareEnds c r m.2.hits bad m.1 (exec (.convWeightGradient c) s))))) ∧
  ((∀ (s : State) (c : Nat) (r : Running) (img boxes idx out : Operand), s.power.off = false → s.runningOn c = some r →
     r.task.op = 0x0006 → r.slot 0 = some img → r.slot 1 = some boxes → r.slot 2 = some idx → r.slot 3 = some out →
     r.usesEmpty = false →
     let u := (s.takeFrames c r).2
     let v := r.task.crop
     let mine := (List.range v.boxes).filter (fun i => i * r.task.coreCount / v.boxes == r.coreIndex c)
     let bs : List CropBox := mine.map (fun i => u.cropBox r.p v img.t boxes.t idx.t i)
     let ps := bs.flatMap (u.cropLines r.p v img.t out.t)
     let ld := u.loadAll r (bs.flatMap (v.reads img) ++ [(idx, mine.map (fun i => ⟨i * 32, 1⟩))])
     s.shareEnds c r ((ps.map (fun x => out.t.pieceHits x [])).sum) ld.2
       ((ld.1.load r boxes (mine.map (fun i => ⟨boxes.t.bitOffset [0, i], 4⟩))).store r.p out.t ps) (exec (.cropAndResize c) s)) ∧
   (∀ (s : State) (c : Nat) (r : Running) (a out : Operand), s.power.off = false → s.runningOn c = some r →
     r.task.op = 0x0007 → r.slot 0 = some a → r.slot 3 = some out → r.usesEmpty = false →
     let u := (s.takeFrames c r).2
     let axis := r.task.par 0 1
     let sh := shareOf out.t.count r.task.coreCount (r.coreIndex c)
     let mine := (List.range sh.2).map (· + sh.1)
     let cols := fun (i : Nat) => (List.range (a.t.dim axis)).map (fun k => axisCoords (out.t.coords i) axis k)
     let ld := u.loadAll r [(a, cellsAt a.t (mine.flatMap cols))]
     let best : List (Nat × Nat × Fp) := mine.map (fun i =>
       let xs := (cols i).map (fun k => u.elem r.p a.t k)
       (i, argmax xs, (xs[argmax xs]?).getD Fp.zero))
     let ps : List (Tensor × Piece) := match if bitAt (r.task.par 1 1) 0 = 1 then r.slot 2 else none with
       | none => []
       | some o => best.map (fun b => (o.t, (⟨o.t.bitOffset (o.t.coords b.1), [b.2.2]⟩ : Piece)))
     s.shareEnds c r ((ps.map (fun x => x.1.pieceHits x.2 [])).sum) ld.2
       (ps.foldl (fun m x => m.store r.p x.1 [x.2])
         (best.foldl (fun m b => m.putBits r.p out.t (out.t.bitOffset (out.t.coords b.1)) [b.2.1]) ld.1))
       (exec (.channelArgmax c) s)) ∧
   (∀ (s : State) (c : Nat) (r : Running) (i : Instr), s.power.off = false → s.runningOn c = some r → r.usesEmpty = true →
     (r.task.op = 0x0006 ∧ i = .cropAndResize c ∨ r.task.op = 0x0007 ∧ i = .channelArgmax c) →
     exec i s = .next { (s.takeFrames c r).2.endTask c r 0 false with pending := s.pending }))

/-- R209 to R213, R217, R223: a dispatch task routes the tokens of its core. Each choice that its core's part of a quota
still takes copies the token's row into the send buffer, the rest of the core's rows are zeroed, the tallies and the
route record are written; a choice beyond the quota is recorded as not accepted, and one that the rule makes no element
for takes open values (R210). A variant dispatch does so for the adapter set that serves each row's variant, and writes
the case of each row in the mask. An exchange task of any kind with an empty tensor only ends its share (R91). Which
rows a core zeroes is log entry 51. R214, R223: a combine task of either kind adds to each token's residual the gated
rows that its accepted choices name, in FP32 and an open order (log entry 5), writes the sums as the output rows of its
tokens, and nothing else. -/
def Obligations.ExpertForwardRoutesRows : Prop :=
  ((∀ (s : State) (c : Nat) (r : Running) (rows out rec : Operand), s.power.off = false → s.runningOn c = some r →
      r.task.op = 0x000A → r.slot 0 = some rows → r.slot 3 = some out → r.operand (r.task.par 12 4) = some rec →
      r.usesEmpty = false →
      let u := (s.takeFrames c r).2
      let x := r.exchange c
      let ld := u.loadAll r (r.dispatchReads x)
      let sent := fun (m : State) (cs : List Choice) =>
        cs.foldl (fun m k => if k.accepted then m.copyRow r.p (tensorRow rows.t k.t) (x.row out.t k.e k.pos true) else m) m
      (r.task.mode = 0x01 →
        let made := x.mine.flatMap (fun t => u.choose r x t)
        let cs := x.admitWith (byChoice x.k made)
        let z := ((sent ld.1 cs).zeroFill r.p x out.t cs).writeTallies r x out.t cs 1
        let m := (z.writeChoices r.p rec.t cs).writeChoices r.p rec.t (x.missingChoices (z.heldKey r) made)
        s.shareEnds c r (x.k * x.mine.length - made.length + x.gateHits cs) ld.2
          (if bitAt (r.task.par 1 1) 0 = 1 then (r.operand (r.task.par 16 4)).elim m (fun o => m.writeLoads r.p x o.t cs) else m)
          (exec (.expertDispatch c) s)) ∧
      (∀ vs, r.task.mode = 0x02 → r.slot 1 = some vs →
        let vOf := fun (t : Nat) => (u.elemInt r.p vs.t [t]).toNat
        let setAt := fun (t : Nat) => x.setOf (vs.t.type == .uint32) (vOf t)
        let scale := fun (e : Nat) => Fp.of32 (((x.sets[e]?).map AdapterSet.scale).getD 0)
        let cs := x.admitWith (x.mine.filterMap (fun t => (setAt t).join.map (fun e => (⟨t, 0, e, false, 0, scale e⟩ : Choice))))
        let mask := fun (t : Nat) => match setAt t with
          | none => 1
          | some none => 3
          | some (some _) => if cs.any (fun k => k.t == t && k.accepted) then 0 else 2
        let z := (sent ld.1 cs).zeroFill r.p x out.t cs
        let m := (z.writeChoices r.p rec.t cs).writeChoices r.p rec.t (x.missingChoices (z.heldKey r) cs)
        s.shareEnds c r 0 ld.2
          ((r.operand (r.task.par 16 4)).elim m (fun o => x.mine.foldl (fun m t => m.putBits r.p o.t (t * 8) [mask t]) m))
          (exec (.variantDispatch c) s))) ∧
   (∀ (s : State) (c : Nat) (r : Running) (rec : Operand) (i : Instr), s.power.off = false → s.runningOn c = some r →
     r.usesEmpty = true → r.operand (r.task.par 12 4) = some rec →
     ((r.task.op = 0x000A ∧ (r.task.mode = 0x01 ∧ i = .expertDispatch c ∨ r.task.mode = 0x81 ∧ i = .expertDispatchBackward c ∨
         r.task.mode = 0x02 ∧ i = .variantDispatch c ∨ r.task.mode = 0x82 ∧ i = .variantDispatchBackward c)) ∨
      (r.task.op = 0x000B ∧ (r.task.mode = 0x01 ∧ i = .expertCombine c ∨ r.task.mode = 0x81 ∧ i = .expertCombineBackward c ∨
         r.task.mode = 0x02 ∧ i = .variantCombine c ∨ r.task.mode = 0x82 ∧ i = .variantCombineBackward c))) →
     exec i s = .next { (s.takeFrames c r).2.endTask c r 0 false with pending := s.pending })) ∧
  (∀ (s : State) (c : Nat) (r : Running) (ret out rec : Operand), s.power.off = false →
     s.runningOn c = some r → r.task.op = 0x000B → r.slot 0 = some ret → r.slot 3 = some out →
     r.operand (r.task.par 12 4) = some rec → r.usesEmpty = false →
     let u := (s.takeFrames c r).2
     let x := r.exchange c
     let acc := u.acceptedOf r.p x rec
     let ld := u.loadAll r (x.views ret acc false ++ (r.slot 1).toList.map (fun o => (o, x.mine.map (fun t => (tensorRow o.t t).2))))
     let rows := acc.map (fun a =>
       let base := match r.slot 1 with
         | some o => u.rowFp r.p (tensorRow o.t a.1)
         | none => List.replicate (out.t.dim 0) Fp.zero
       let terms := a.2.map (fun k => (u.rowFp r.p (x.row ret.t k.e k.pos false)).map (k.gate.mul))
       (a.1, base.zipIdx.map (fun b =>
         Fp.sumFrom (u.freeCtr + a.1 * out.t.dim 0 + b.2) b.1 (terms.map (fun v => (v[b.2]?).getD Fp.zero)))))
     let ps := rows.map (fun x => (⟨(tensorRow out.t x.1).2.off, x.2⟩ : Piece))
     let hits := (ps.map (fun x => out.t.pieceHits x [])).sum
     let m := ld.1.store r.p out.t ps
     (r.task.mode = 0x01 → s.shareEnds c r hits ld.2 m (exec (.expertCombine c) s)) ∧
     (r.task.mode = 0x02 → s.shareEnds c r hits ld.2 m (exec (.variantCombine c) s)))

/-- R215, R223: the backward of a dispatch gives each token the sum of the rows that came back for its accepted choices,
at the gradient factor of R146, and an expert layer's logits the gradient of the gate formula. The order of the
additions is log entry 5. R215, R223: the backward of a combine sends each accepted choice's gradient row, scaled by its
gate and the factor of R146, into the send buffer with zero fill and tallies, and gives an expert layer the gradient of
each gate: the product of the output gradient with the returned row, zero for a choice that was not accepted. -/
def Obligations.ExpertBackwardRoutesGradients : Prop :=
  (∀ (s : State) (c : Nat) (r : Running) (ret out rec : Operand), s.power.off = false →
     s.runningOn c = some r → r.task.op = 0x000A → r.slot 0 = some ret → r.slot 3 = some out →
     r.operand (r.task.par 12 4) = some rec → r.usesEmpty = false →
     let u := (s.takeFrames c r).2
     let x := r.exchange c
     let k := u.gradShift r.task (r.task.par 6 2)
     let acc := u.acceptedOf r.p x rec
     let more := (if x.variant then [] else (r.slot 1).toList ++ (r.slot 2).toList).map (fun o =>
       (o, x.mine.map (fun t => (tensorRow o.t t).2)))
     let ld := u.loadAll r (x.views ret acc false ++ more)
     let dx := acc.map (fun a =>
       let terms := a.2.map (fun k => u.rowFp r.p (x.row ret.t k.e k.pos false))
       (a.1, (List.range (out.t.dim 0)).map (fun e =>
         (Fp.sumFrom (u.freeCtr + a.1 * x.layer.d + e) Fp.zero (terms.map (fun v => (v[e]?).getD Fp.zero))).scaled k)))
     let w := ld.1.putRows r out.t true dx
     let w2 := match if x.variant then none else r.operand (r.task.par 16 4) with
       | some o => w.2.putRows r o.t true (if x.variant then [] else u.dlogits r x rec)
       | none => (0, w.2)
     let hits := w.1 + w2.1
     let m := w2.2
     (r.task.mode = 0x81 → s.shareEnds c r hits ld.2 m (exec (.expertDispatchBackward c) s)) ∧
     (r.task.mode = 0x82 → s.shareEnds c r hits ld.2 m (exec (.variantDispatchBackward c) s))) ∧
  (∀ (s : State) (c : Nat) (r : Running) (dy out rec : Operand), s.power.off = false →
     s.runningOn c = some r → r.task.op = 0x000B → r.slot 0 = some dy → r.slot 3 = some out →
     r.operand (r.task.par 12 4) = some rec → r.usesEmpty = false →
     let u := (s.takeFrames c r).2
     let x := r.exchange c
     let k := u.gradShift r.task (r.task.par 6 2)
     let acc := u.acceptedOf r.p x rec
     let all := acc.flatMap (·.2)
     let fwd := if x.variant then none else r.slot 1
     let ld := u.loadAll r ((dy, x.mine.map (fun t => (tensorRow dy.t t).2)) :: fwd.toList.flatMap (fun o => x.views o acc false))
     let dgates := fwd.toList.flatMap (fun o => x.mine.flatMap (fun t => (u.readChoices r.p rec x.k t).map (fun q =>
       (t, q.j, if q.accepted then
         (Fp.sum (u.freeCtr + t * x.k + q.j) (((u.rowFp r.p (tensorRow dy.t t)).zip (u.rowFp r.p (x.row o.t q.e q.pos false))).map
           (fun y => y.1.mul y.2))).scaled k
         else Fp.zero))))
     let rows := all.map (fun q => ((x.row out.t q.e q.pos true).1,
       (⟨(x.row out.t q.e q.pos true).2.off, (u.rowFp r.p (tensorRow dy.t q.t)).map (fun y => (q.gate.mul y).scaled k)⟩ : Piece)))
     let dps := match r.operand (r.task.par 16 4) with
       | some o => dgates.map (fun d => (o.t, (⟨o.t.bitOffset [d.2.1, d.1], [d.2.2]⟩ : Piece)))
       | none => []
     let sent := ((rows.foldl (fun m y => m.store r.p y.1 [y.2]) ld.1).zeroFill r.p x out.t all).writeTallies r x out.t all 2
     let hits := ((rows ++ dps).map (fun y => y.1.pieceHits y.2 [])).sum
     let m := dps.foldl (fun m y => m.store r.p y.1 [y.2]) sent
     (r.task.mode = 0x81 → s.shareEnds c r hits ld.2 m (exec (.expertCombineBackward c) s)) ∧
     (r.task.mode = 0x82 → s.shareEnds c r hits ld.2 m (exec (.variantCombineBackward c) s)))

/-- R251, R258, R261: a codec transfer moves the raw blocks of its core's share, in order: an offload or a fetch copies
stored bytes, an encode writes the encoder's output, a decode the decoder's, a recode encodes anew in place. The op has
no output stage, so its share ends with no hit. With an empty tensor it only ends (R91). R264, R265, R267: CLEAR_TABLE.
A load with a good image makes a FREE generation LOADED with EV_CLEAR_TABLE_LOADED and returns the slot; make-current
and discard wait for their boundary, where a check that fails refuses them with the first failing check's number; a
make-current that passes makes the generation CURRENT and a discard that passes makes it FREE; a RETIRING generation
that nothing refers to becomes FREE with EV_CLEAR_GEN_FREED. Which boundary an IDLE partition has is log entry 17. -/
def Obligations.LedgerMovesBlocksAndGenerations : Prop :=
  ((∀ (s : State) (c : Nat) (r : Running) (i : Instr), s.power.off = false → s.runningOn c = some r → r.task.op = 0x000C →
     r.usesEmpty = true → (r.task.par 0 1 = 1 ∧ i = .offload c ∨ r.task.par 0 1 = 2 ∧ i = .fetch c ∨
       r.task.par 0 1 = 3 ∧ i = .encode c ∨ r.task.par 0 1 = 4 ∧ i = .decode c ∨ r.task.par 0 1 = 5 ∧ i = .recode c) →
     exec i s = .next { s.endTask c r 0 false with pending := s.pending }) ∧
   ∀ (s : State) (c : Nat) (r : Running) (a d : Operand), s.power.off = false → s.runningOn c = some r → r.task.op = 0x000C →
     r.slot 0 = some a → r.slot 3 = some d → r.usesEmpty = false →
     let sh := shareOf (r.task.par 8 4) r.task.coreCount (r.coreIndex c)
     let js := (List.range sh.2).map (fun k => r.task.par 4 4 + sh.1 + k)
     (r.task.par 0 1 = 1 → exec (.offload c) s = .next
       { (js.foldl (fun s j => s.copyBlock r.p a.t d.t j) s).endTask c r 0 false with pending := s.pending }) ∧
     (r.task.par 0 1 = 2 → exec (.fetch c) s = .next
       { (js.foldl (fun s j => s.copyBlock r.p a.t d.t j) s).endTask c r 0 false with pending := s.pending }) ∧
     (r.task.par 0 1 = 3 → exec (.encode c) s = .next
       { (js.foldl (fun s j => s.encodeBlockAt r.p a.t d.t j) s).endTask c r 0 false with pending := s.pending }) ∧
     (r.task.par 0 1 = 4 → exec (.decode c) s = .next
       { (js.foldl (fun s j => s.decodeBlockAt r a d.t j) s).endTask c r 0 false with pending := s.pending }) ∧
     (r.task.par 0 1 = 5 → exec (.recode c) s = .next
       { (js.foldl (fun s j => s.recodeBlockAt r a j) s).endTask c r 0 false with pending := s.pending })) ∧
  ((∀ (s : State) (ring : Nat) (d : Started), s.power.off = false →
     s.findDesc ring 0x11 (fun d => d.opd 16 1 != 2 && d.opd 16 1 != 3) = some d → d.clearStray = none → d.opd 16 1 = 1 →
     s.slotFilled (s.ringPart ring) (d.opd 18 2) (d.opd 20 4) 2 = true → failing (s.clearChecks (s.ringPart ring) d) = [] →
     let u := s.consumeSlot (s.ringPart ring) (d.opd 18 2) (d.opd 20 4)
     exec (.clearTableLoad ring) s = .next
       { ((((u.modGen (s.ringPart ring) (d.opd 17 1)
             (fun _ => ⟨.loaded, (s.genImage (s.ringPart ring) (d.opd 18 2) (d.opd 20 4)).drop 16⟩)).raise Ev.clearTableLoaded
             (u.control (s.ringPart ring)) { object := d.opd 17 1 }).finish ring d .done).releaseSlot (s.ringPart ring)
             (d.opd 18 2) (d.opd 20 4)) with pending := s.pending }) ∧
   (∀ (s : State) (ring : Nat) (d : Started), s.power.off = false → s.findDesc ring 0x11 (fun d => d.opd 16 1 == 2) = some d →
     d.clearStray = none → exec (.clearTableMakeCurrent ring) s = .next
       { (s.request (s.ringPart ring) .clear ring d).noteCurrent (s.ringPart ring) with pending := s.pending }) ∧
   (∀ (s : State) (ring : Nat) (d : Started), s.power.off = false → s.findDesc ring 0x11 (fun d => d.opd 16 1 == 3) = some d →
     d.clearStray = none → exec (.clearTableDiscard ring) s = .next
       { (s.request (s.ringPart ring) .clear ring d).noteCurrent (s.ringPart ring) with pending := s.pending }) ∧
   (∀ (s : State) (p : Nat) (rq : Request) (d : Started), s.power.off = false → s.nextRequest p .clear = some (rq, d) →
     let u := s.dropRequest p rq
     (∀ f fs, failing (u.clearChecks p d) = f :: fs → exec (.clearTableApply p) s = .next
       { ((u.finish rq.ring d .refused (refusedDetail (f :: fs))).raise Ev.clearTableRefused (u.control p)
           { object := d.opd 17 1, value := f }).noteCurrent p with pending := s.pending }) ∧
     (failing (u.clearChecks p d) = [] → d.opd 16 1 = 2 → exec (.clearTableApply p) s = .next
       { ((u.makeCurrent p (d.opd 17 1)).finish rq.ring d .done).noteCurrent p with pending := s.pending }) ∧
     (failing (u.clearChecks p d) = [] → d.opd 16 1 = 3 → exec (.clearTableApply p) s = .next
       { ((u.modGen p (d.opd 17 1) (fun _ => Gen.init)).finish rq.ring d .done).noteCurrent p with pending := s.pending })) ∧
   (∀ (s : State) (p g : Nat), s.power.off = false → (s.gen p g).state = .retiring → s.genRefs p g = 0 →
     exec (.clearGenFreed p g) s = .next
       { (((s.modGen p g (fun _ => Gen.init)).raise Ev.clearGenFreed (s.control p) { object := g }).noteCurrent p)
         with pending := s.pending }))

/-- R285 to R296: a group update runs its core's share and ends it (one whose copy the Fixer still reads is not issued,
R372). A frozen group's update is discarded, and one whose rows no touch map names is skipped; neither changes memory.
How a skipped or discarded update is counted, and the draws of its rounding, are log entry 54. R294: a freeze of the
selected group waits for the next boundary, and the thaw of a group frozen at admission is refused. The group is that of
the partition which the select register means (log entry 28); the refusal's form is log entries 14 and 48. -/
def Obligations.GroupsFreezeAndUpdate : Prop :=
  ((∀ (s : State) (c : Nat) (r : Running) (w : Update), s.power.off = false → s.runningOn c = some r → r.task.op = 0x000F →
     let u := (s.takeFrames c r).2
     let g := r.task.group
     u.updateOf r g = some w →
     let ends := fun (v : State) => exec (.groupUpdate c) s = .next
       { (if v.taskEnds r.p c r (r.g, r.t, r.task) then v.count Ctr.devUpdateTasksCount else v).endTask c r 0 false
         with pending := s.pending }
     ((u.group r.p g).frozen = true → ends (u.discardUpdate c r g) ∧ u.sameMem (u.discardUpdate c r g)) ∧
     ((u.group r.p g).frozen = false → (u.group r.p g).status ≠ 4 → w.e.touchMode < 2 →
       ends ((u.updateShare c r g w).groupUpdated c r g w)) ∧
     ((u.group r.p g).frozen = false → (u.group r.p g).status ≠ 4 → 2 ≤ w.e.touchMode → u.touchBit r.p w.e = false →
       ends (u.skipUpdate r.p g) ∧ u.sameMem (u.skipUpdate r.p g)))) ∧
  ((∀ (s : State) (p : Nat) (w : Word), s.power.off = false → s.takesWrite 0x800014 = true → s.groupPart = some p →
     (bitAt w.toNat 0 = 1 ∨ (s.group p (s.get Reg.devGroupSelect_group)).frozenAtAdmission = false) →
     exec (.groupFreezeWrite w) s = .next
       { s.modGroup p (s.get Reg.devGroupSelect_group) (fun x =>
           { x with pending := if (bitAt w.toNat 0 == 1) = x.frozen then none else some (bitAt w.toNat 0 == 1) })
         with pending := s.pending }) ∧
   (∀ (s : State) (p : Nat) (w : Word), s.power.off = false → s.takesWrite 0x800014 = true → s.groupPart = some p →
     bitAt w.toNat 0 ≠ 1 → (s.group p (s.get Reg.devGroupSelect_group)).frozenAtAdmission = true →
     exec (.groupFreezeWrite w) s = .next
       { s.raise Ev.regWriteRefused (s.regUnit 0x800014) { value := 0x800014, value2 := w.toNat }
         with pending := s.pending }))

/-- R192, R195, R196, R202: CONTEXT descriptors wait for their boundary. There a descriptor that fails a check is
refused with EV_CONTEXT_REFUSED and the first failing check's number, counted; an opened context is empty with its
max_len, its tag, its reservation of pages and a page directory at an open address (log entry 52). A fork takes its
parent's pages below the prefix, one count more on each, and its reservation, of which the partial page is credited to
the parent; a close takes one count from each page of the context, sets it FREE and raises EV_CONTEXT_CLOSED with the
pages freed. Which boundary a descriptor waits for is log entry 17. -/
def Obligations.ContextsOpenAtBoundaries : Prop :=
  (∀ (s : State) (ring : Nat) (d : Started), s.power.off = false →
    s.findDesc ring 0x10 (fun d => d.opd 16 1 != 2 && d.opd 16 1 != 3) = some d → d.ctxStray = none →
    exec (.contextOpen ring) s = .next { s.request (s.ringPart ring) .context ring d with pending := s.pending }) ∧
  (∀ (s : State) (ring : Nat) (d : Started), s.power.off = false → s.findDesc ring 0x10 (fun d => d.opd 16 1 == 2) = some d →
    d.ctxStray = none →
    exec (.contextFork ring) s = .next { s.request (s.ringPart ring) .context ring d with pending := s.pending }) ∧
  (∀ (s : State) (ring : Nat) (d : Started), s.power.off = false → s.findDesc ring 0x10 (fun d => d.opd 16 1 == 3) = some d →
    d.ctxStray = none →
    exec (.contextClose ring) s = .next { s.request (s.ringPart ring) .context ring d with pending := s.pending }) ∧
  (∀ (s : State) (p : Nat) (rq : Request) (d : Started), s.power.off = false → s.nextRequest p .context = some (rq, d) →
    let u := s.dropRequest p rq
    (∀ f fs, failing (u.ctxChecks p d) = f :: fs →
      exec (.contextApply p) s = .next
        { ((u.finish rq.ring d .refused (refusedDetail (f :: fs))).raise Ev.contextRefused (u.control p)
            { object := d.opd 18 2, value := f }).count
              Ctr.memContextRefusedCount with pending := s.pending }) ∧
    (∀ pl x i, failing (u.ctxChecks p d) = [] → u.planOf p = some pl → pl.rangeOf (d.opd 18 2) = some (x, i) →
      d.opd 16 1 = 1 →
      exec (.contextApply p) s = .next
        { (u.directoryPlace.2.stampUsed.setCtx (d.opd 18 2) ⟨.opened, 2, x.die, i, 0, d.opd 24 4, x.kvLayers, 0xFFFF,
            x.kvLayers * (d.opd 24 4 / 256), 0, u.stampNow 1, d.opd 32 8, p,
            u.directoryPlace.1, []⟩).finish rq.ring d .done with pending := s.pending }) ∧
    (∀ pl x i, failing (u.ctxChecks p d) = [] → u.planOf p = some pl → pl.rangeOf (d.opd 18 2) = some (x, i) →
      (d.opd 16 1 = 2 → exec (.contextApply p) s = .next
        { (u.forkCtx p (d.opd 18 2) (d.opd 20 2) x i (d.opd 24 4) (d.opd 28 4) (d.opd 32 8)).finish rq.ring d .done
          with pending := s.pending }) ∧
      (d.opd 16 1 = 3 → exec (.contextApply p) s = .next
        { (u.closeCtx (d.opd 18 2)).finish rq.ring d .done with pending := s.pending }))) ∧
  (∀ (s : State) (p c parent i maxLen kept tag : Nat) (x : CtxRange), c ≠ parent →
    let t := s.forkCtx p c parent x i maxLen kept tag
    let shared := if kept % 256 = 0 then 0 else 1
    (t.ctx c).state = .opened ∧ (t.ctx c).kind = 2 ∧ (t.ctx c).length = kept ∧ (t.ctx c).maxLen = maxLen ∧
      (t.ctx c).parent = parent ∧ (t.ctx c).tag = tag ∧ (t.ctx c).partition = p ∧
      (t.ctx c).reserved = x.kvLayers * (maxLen / 256 - kept / 256 + shared) - x.kvLayers * shared ∧
      t.ctx parent = { s.ctx parent with reserved := (s.ctx parent).reserved + x.kvLayers * shared } ∧
      (∀ layer k page, k < (s.ctx parent).maxLen / 256 → 256 * k < kept →
        (layer * ((s.ctx parent).maxLen / 256) + k, page) ∈ (s.ctx parent).directory →
        (layer * (maxLen / 256) + k, page) ∈ (t.ctx c).directory) ∧
      (∀ page, t.pageRefs page = s.pageRefs page + ((t.ctx c).directory.filter (fun e => e.2 == page)).length) ∧
      (∀ k, k ≠ c → k ≠ parent → t.ctx k = s.ctx k)) ∧
  (∀ (s : State) (c : Nat),
    let t := s.closeCtx c
    t.ctx c = Ctx.init ∧ (∀ k, k ≠ c → t.ctx k = s.ctx k) ∧
      (∀ page, t.pageRefs page = s.pageRefs page - ((s.ctx c).directory.filter (fun e => e.2 == page)).length) ∧
      t.pathHas Ev.contextClosed (s.control (s.ctx c).partition)
        { object := c, value := ((s.ctx c).directory.filter (fun e => s.pageRefs e.2 == 1)).length })

/-- R70, R72, R74, R92: LOAD_PLAN. An image that fails no check is stored with its clamps made, with EV_PLAN_LOADED; one
that fails is refused with EV_PLAN_LOAD_REFUSED and the lowest failing check, and no plan is stored. UNLOAD_PLAN frees a
plan of an IDLE partition and refuses the admitted one with STATE. R26, R30, R38: ADMIT in IDLE starts the check of a
loaded plan; when the check ends, a plan with no entry is admitted, with EV_PLAN_ADMITTED and the smallest margin;
otherwise the partition returns to IDLE with EV_PLAN_REFUSED and the number of entries, and the refusal is counted. -/
def Obligations.PlansAreLoadedAndAdmitted : Prop :=
  ((∀ (s : State) (ring : Nat) (d : Started), s.power.off = false → s.findOp ring 0x02 = some d →
     d.strayOperand [(16, 2), (20, 4)] = none → d.badPool 16 = none →
     let p := s.ringPart ring
     let q := d.opd 16 2
     let i := d.opd 20 4
     s.slotFilled p q i 2 = true →
     let len := min (s.slot p q i).length (s.slotBytes p q)
     let m := Image.ofSlot p len (s.readWin p (s.payloadOf p q i) len)
     ∃ t, exec (.loadPlan ring) s = .next t ∧
       (if s.loadFailures p m = [] then
         t = { ((s.consumeSlot p q i).acceptPlan ring d p m).releaseSlot p q i with pending := s.pending } ∧
           t.plans = s.plans ++ [m.clamped]
       else t.plans = s.plans ∧ t.pathHas Ev.planLoadRefused (UnitId.partition p)
           { value := m.header.planId, value2 := (s.loadFailures p m).foldl min 255 })) ∧
   (∀ (s : State) (ring : Nat) (d : Started), s.power.off = false → s.findOp ring 0x04 = some d →
     d.strayOperand [(16, 4)] = none →
     s.plans.any (fun pl => pl.planId == d.opd 16 4 && pl.partition == s.ringPart ring) = true →
     (((s.part (s.ringPart ring)).plan = some (d.opd 16 4) ∧ (s.part (s.ringPart ring)).phase ≠ .idle) →
       exec (.unloadPlan ring) s = .next
         { s.finish ring d .state (s.part (s.ringPart ring)).phase.code with pending := s.pending }) ∧
     ((s.part (s.ringPart ring)).phase = .idle →
       ∃ t, exec (.unloadPlan ring) s = .next t ∧ t.plans = s.plans.filter (fun pl => pl.planId != d.opd 16 4) ∧
         s.sameMem t))) ∧
  ((∀ (s : State) (ring : Nat) (d : Started) (q : Part), s.power.off = false → s.findOp ring 0x03 = some d →
     d.strayOperand [(16, 4), (20, 2), (24, 4)] = none → d.badPool 20 = none → s.parts[s.ringPart ring]? = some q →
     s.plans.any (fun pl => pl.planId == d.opd 16 4 && pl.partition == s.ringPart ring) = true →
     (q.phase ≠ .idle →
       exec (.admitPlan ring) s = .next { s.finish ring d .state q.phase.code with pending := s.pending }) ∧
     (q.phase = .idle → s.slotFilled (s.ringPart ring) (d.opd 20 2) (d.opd 24 4) 2 = true →
       ∃ t, exec (.admitPlan ring) s = .next t ∧ (t.part (s.ringPart ring)).phase = .checking ∧
         (t.part (s.ringPart ring)).plan = some (d.opd 16 4) ∧ (∀ r, r ≠ s.ringPart ring → t.part r = s.part r) ∧
         s.sameMem t)) ∧
   (∀ (s : State) (p : Nat) (pl : Plan) (q : Part), s.power.off = false → s.parts[p]? = some q → q.phase = .checking →
     q.plan.bind s.planById = some pl →
     let r := s.meter (s.checkOf p pl)
     ∃ t, exec (.lightMeterDone p) s = .next t ∧
       (if r.entries = [] then (t.part p).phase = .admitted ∧ (t.part p).step = 0 ∧
         t.pathHas Ev.planAdmitted (UnitId.partition p) { value := pl.planId, value2 := unsigned 32 r.worst.ns }
       else (t.part p).phase = .idle ∧ (t.part p).plan = none ∧
         t.counter (Ctr.tickRefusalCount p) = min (s.counter (Ctr.tickRefusalCount p) + 1) counterMax ∧
         t.pathHas Ev.planRefused (UnitId.partition p) { value := pl.planId, value2 := min r.entries.length 65535 })))

/-- R18, R20, R317, R334, R420: a packet for this module that arrives on a working port. One of the next epoch waits in
its buffer, a stale one is discarded and counted; any other is stamped with a receipt, and then one whose tag fails is
discarded with EV_FABRIC_AUTH_FAIL, and the rest are acted on by their kind and, in class 4, their bulk operation; one
of an unknown bulk operation is discarded and counted. A packet for another module, or on a port that is down, changes
nothing here. -/
def Obligations.ArrivingPacketsAreActedOn : Prop :=
  ∀ (s : State) (n : Nat) (pk : Packet), s.power.off = false →
    let p := s.portPart n
    let v := (s.passPacket n pk).stampReceipt (pkStamp pk)
    let got := fun (act : State → Nat → Packet → State) =>
      if s.portUp n = false ∨ s.isFor p (pkDest pk) = false then s
      else if s.fate n pk = .wait then
        (s.bufferPacket n pk).modPort n (fun q => { q with waiting := q.waiting ++ [pk] })
      else if s.fate n pk = .stale then (s.passPacket n pk).dropStale n
      else match v.opened p pk with
        | none => v.tagFailed n p pk
        | some k => act v p k
    (pkKind pk = 1 → exec (.dataPacket n pk) s = .next { got (State.dataIn n) with pending := s.pending }) ∧
    (pkKind pk = 2 → exec (.reductionPartial n pk) s = .next { got (State.partialIn n) with pending := s.pending }) ∧
    (pkKind pk = 3 → exec (.reductionResult n pk) s = .next { got (State.resultIn n) with pending := s.pending }) ∧
    (pkKind pk = 4 → exec (.sideband n pk) s = .next { got (State.sideIn n) with pending := s.pending }) ∧
    (pkKind pk = 7 → exec (.routeSwitch n pk) s = .next { got (State.switchIn) with pending := s.pending }) ∧
    (pkKind pk = 8 → exec (.landingCredit n pk) s = .next { got (State.creditIn n) with pending := s.pending }) ∧
    (pkKind pk = 9 → bulkOp pk = 1 → exec (.bulkMirrorData n pk) s = .next { got (State.mirrorIn n) with pending := s.pending }) ∧
    (pkKind pk = 9 → bulkOp pk = 2 → exec (.bulkMirrorSeal n pk) s = .next { got (State.mirrorSealIn n) with pending := s.pending }) ∧
    (pkKind pk = 9 → bulkOp pk = 3 → exec (.takeoverRequest n pk) s = .next { got (State.takeoverIn n) with pending := s.pending }) ∧
    (pkKind pk = 9 → bulkOp pk = 4 → exec (.itemRequest n pk) s = .next { got (State.itemRequestIn n) with pending := s.pending }) ∧
    (pkKind pk = 9 → bulkOp pk = 5 → exec (.itemData n pk) s = .next { got (State.itemDataIn n) with pending := s.pending }) ∧
    (pkKind pk = 9 → bulkOp pk = 6 → exec (.itemSealRecord n pk) s = .next { got (State.itemSealIn n) with pending := s.pending }) ∧
    (pkKind pk = 9 → bulkUnknown pk = true →
      exec (.bulkMirrorData n pk) s = .next { got (fun v _ _ => v.dropUnmatched n) with pending := s.pending })

/-- R317, R320 to R323, R326 to R328: what a matched packet does. The data of a transfer go to its place at the packet's
offset and count as arrived; a child's partial is stamped and joins the inputs of its stripe, the parent's result is
written at its elements (an MX result is kept until its blocks are whole), a sideband is noted, and the stripe moves on.
A packet that matches no slot or leg, whether a plan is admitted or not, is discarded and counted, and changes nothing
else. -/
def Obligations.MatchedPacketsLand : Prop :=
  (∀ (s : State) (n p g t : Nat) (pk : Packet) (pl : Plan) (sec : List Byte) (task : Machine.Task), s.planOf p = some pl →
    s.sectionFor p pk = some sec → (matchSlot sec pk).bind (pl.transferOf 2) = some (g, t, task) →
    let xs := s.landingPlace p pl sec g task
    let w := s.writeStretches p xs (64 * pkOffset pk) (pkData pk)
    let v := if task.transfer.gradient then w.setRemoteScale p task.transfer.gradLayer (pkScale pk) else w
    let units := v.unitsIn p g t + (pkData pk).length / 64
    let u := v.modPart p (fun q => { q with arrived := insertKey q.arrived (taskKey g t) units })
    s.dataIn n p pk = if units = task.transfer.units then u.touchChunk p task.transfer xs else u) ∧
  (∀ (s : State) (n p : Nat) (pk : Packet) (w : RedWork) (l : Leg), s.redOf p pk .upIn = some (w, l) →
    (w.r.x.gradient = false ∨ pkOffset pk ≠ 0 ∨ pkScale pk = s.gradScale w.r.x.gradLayer) →
    s.partialIn n p pk = (s.stampPart.modStripe p w.r.g w.r.t l.k (fun x => { x with
      inputs := x.inputs ++ [⟨(pkStamp pk).origin, pkScale pk, pkOffset pk, pkData pk⟩] })).moveStripe w l.k) ∧
  (∀ (s : State) (n p : Nat) (pk : Packet) (w : RedWork) (l : Leg), s.redOf p pk .downIn = some (w, l) →
    let d := w.r.x.outType
    let e := w.r.x.range w.r.ss.length l.k
    let first := 64 * 8 * pkOffset pk / d.bits
    let codes := (List.range (min (8 * (pkData pk).length / d.bits) (e.2 - e.1 - first))).map (fun i =>
      bitsAt (leNat (pkData pk)) (i * d.bits) d.bits)
    let u := if d.isMx then s else s.putResult p w.dst (e.1 + first) codes
    s.resultIn n p pk = (u.modStripe p w.r.g w.r.t l.k (fun x =>
      { x with
        result := x.result + ceilDiv (pkData pk).length 64
        inputs := if d.isMx then x.inputs ++ [⟨l.peer, pkScale pk, pkOffset pk, pkData pk⟩] else x.inputs })).moveStripe
          w l.k) ∧
  (∀ (s : State) (n p : Nat) (pk : Packet) (w : RedWork) (l : Leg), s.redOf p pk .upIn = some (w, l) →
    s.sideIn n p pk = (s.modStripe p w.r.g w.r.t l.k (fun x =>
      { x with sides := x.sides ++ [(fieldAt pk.data 0 4, fieldAt pk.data 4 1 % 2)] })).moveStripe w l.k) ∧
  (∀ (s : State) (n p : Nat) (pk : Packet),
    ((∀ pl sec, s.planOf p = some pl → s.sectionFor p pk = some sec → (matchSlot sec pk).bind (pl.transferOf 2) = none) →
      s.dataIn n p pk = s.count (Ctr.portStaleDrop n)) ∧
    (s.redOf p pk .upIn = none → s.partialIn n p pk = s.count (Ctr.portStaleDrop n)) ∧
    (s.redOf p pk .downIn = none → s.resultIn n p pk = s.count (Ctr.portStaleDrop n)) ∧
    (s.redOf p pk .upIn = none → s.redOf p pk .downIn = none → s.sideIn n p pk = s.count (Ctr.portStaleDrop n)))

/-- R319 to R323: a send waits for its landing credit, counted once; then its data are made ready in its slots, and its
share ends when every slot has been sent. A receive ends when every unit has been written, and not before. A local copy
moves the bytes once. A transfer of no bytes ends at once. At the start of a send slot's window ready data go out, and
data that are not ready miss the slot, with EV_SLOT_MISSED and its count; they go out late when they become ready. R326,
R327: a reduction task's own contribution joins every stripe once, behind the inputs that have arrived; its share ends
when every stripe stands and every slot has been sent, counted once for the task; before that it goes on. -/
def Obligations.TransfersAndReductionsUseTheirSlots : Prop :=
  ((∀ (s : State) (c : Nat) (r : Running) (o : Operand), s.power.off = false → s.runningOn c = some r → r.task.op = 0x000D →
     r.task.transfer.mode = 1 → r.task.transfer.length ≠ 0 → r.slot 0 = some o →
     let x := r.task.transfer
     let u := if (s.outSlot r.p x.slotFirst).packets.isSome then s else s.prepareSend r x o
     exec (.fabricSend c) s = .next
       { (if s.landingWait r.p x then s.noteLanding c r x
         else if u.slotsSent r.p x.slotFirst x.ports then u.endTask c r 0 false else u) with pending := s.pending }) ∧
   (∀ (s : State) (c : Nat) (r : Running), s.power.off = false → s.runningOn c = some r → r.task.op = 0x000D →
     r.task.transfer.mode = 2 → r.task.transfer.length ≠ 0 →
     exec (.fabricReceive c) s = .next
       { (if r.task.transfer.units ≤ s.unitsIn r.p r.g r.t then s.endTask c r 0 false else s) with pending := s.pending }) ∧
   (∀ (s : State) (c : Nat) (r : Running) (a b : Operand), s.power.off = false → s.runningOn c = some r → r.task.op = 0x000D →
     r.task.transfer.mode = 3 → r.task.transfer.length ≠ 0 → r.slot 0 = some a → r.slot 3 = some b →
     let x := r.task.transfer
     let from_ := x.source r.capTable s.position a.t
     let dst := x.dest r.capTable s.position b.t
     let u := s.readErrors r a (clearBlocks from_)
     exec (.localCopy c) s = .next
       { (if (s.run r.p r.g r.t).finished = [] then
           (u.writeStretches r.p dst 0 (u.readStretches r.p from_)).touchChunk r.p x dst else s).endTask c r 0 false
         with pending := s.pending }) ∧
   (∀ (s : State) (c : Nat) (r : Running) (i : Instr), s.power.off = false → s.runningOn c = some r → r.task.op = 0x000D →
     r.task.transfer.length = 0 → (r.task.transfer.mode = 1 ∧ i = .fabricSend c ∨ r.task.transfer.mode = 2 ∧ i = .fabricReceive c ∨
       r.task.transfer.mode = 3 ∧ i = .localCopy c) → exec i s = .next { s.endEmpty c r with pending := s.pending }) ∧
   (∀ (s : State) (p k : Nat) (e : FabSlot), s.power.off = false → (s.slotsNow p)[k]? = some e → e.role = 1 →
     e.exposure = (s.part p).index → (s.outSlot p k).sent = false → (s.outSlot p k).missed = false →
     (s.part p).phase = .running →
     let u := s.advanceTo (s.currentTick p + 4 * e.start)
     exec (.slotWindowStart p k) s = .next
       { (if (s.outSlot p k).packets.isSome then u.transmitSlot p k false
         else ((u.modOutSlot p k (fun x => { x with missed := true })).count Ctr.fabSlotMissedCount).raisePort e.portOut
           Ev.slotMissed { value := k }) with pending := s.pending }) ∧
   (∀ (s : State) (p k : Nat), s.power.off = false → (s.outSlot p k).missed = true → (s.outSlot p k).packets.isSome = true →
     (s.outSlot p k).sent = false →
     exec (.lateTransmit p k) s = .next { s.transmitSlot p k true with pending := s.pending })) ∧
  (∀ (s : State) (c : Nat) (r : Running) (sec : List Byte) (a b : Operand), s.power.off = false → s.runningOn c = some r →
     r.task.op = 0x000E → s.fabSec r.p = some sec → r.slot 0 = some a → r.slot 3 = some b →
     let w : RedWork := ⟨r.p, r.redTask sec, a.t, b.t, s.position⟩
     let ends := fun (u : State) => if u.redDone w = false then u
       else (if u.othersDone c r then u.count Ctr.fabReductionsCount else u).endTask c r 0 false
     ((∃ k, k < w.r.ss.length ∧ (s.stripe r.p r.g r.t k).ownAt = none) →
       exec (.reduction c) s = .next
         { ends ((List.range w.r.ss.length).foldl (fun u k =>
             (u.stampPart.modStripe r.p r.g r.t k (fun x => { x with ownAt := some x.inputs.length })).moveStripe w k)
             (s.load r a a.t.rowRuns)) with pending := s.pending }) ∧
     ((∀ k, k < w.r.ss.length → (s.stripe r.p r.g r.t k).ownAt ≠ none) →
       exec (.reduction c) s = .next { ends s with pending := s.pending }))

/-- R310, R311, R316, R334, R335: a packet for another position is stamped with a receipt and goes on by its route,
holding its buffer until it leaves, or is discarded as unroutable with the cause; a fence marker notes the epoch of its
class; the arbiter sends the next item when its credits suffice, which it takes, or an idle FLIT where it has none; a
route switch at its tick changes the route to its alternate port, or raises the event with cause 2 and faults the step
with cause route where there is none (log entry 55). -/
def Obligations.PacketsAreRouted : Prop :=
  (∀ (s : State) (n : Nat) (pk : Packet), s.power.off = false → s.portUp n = true → s.isFor (s.portPart n) (pkDest pk) = false →
    s.fate n pk = .take →
    let v := s.stampReceipt (pkStamp pk)
    let p := v.portPart n
    (∀ r, (v.fabSec p).bind (fun b => fabRoute b (pkDest pk)) = some r →
      let out := (v.portTo p (pkDest pk)).getD r.port
      exec (.packetRelay n pk) s = .next
        { (if bitAt r.relayIn n = 0 then (v.passPacket n pk).unroutable n pk 2
          else if v.portUp out = false then (v.passPacket n pk).unroutable n pk 3
          else (v.bufferPacket n pk).enqueueVia out (pkClass pk) (.packet pk) ((v.relaySlot p pk).map (fun k => (p, k))) false
            (some n)) with pending := s.pending }) ∧
    ((v.fabSec p).bind (fun b => fabRoute b (pkDest pk)) = none →
      exec (.packetRelay n pk) s = .next { (v.passPacket n pk).unroutable n pk 1 with pending := s.pending })) ∧
  (∀ (s : State) (n : Nat) (pk : Packet), s.power.off = false → s.portUp n = true → pkKind pk = 6 →
    exec (.fenceMarker n pk) s = .next
      { ((s.passPacket n pk).stampReceipt (pkStamp pk)).modPort n (fun q => { q with
          fence := insertKey q.fence (pkClass pk) (pkEpoch pk) }) with pending := s.pending }) ∧
  (∀ (s : State) (n : Nat) (x : PortItem) (granted : Bool), s.power.off = false → s.portUp n = true →
    s.nextItem n = some (x, granted) →
    ∃ t, exec (.outputArbitration n) s = .next t ∧ t.out.fabric = s.out.fabric ++ [(n, x.out)] ∧
      (∀ q, s.ports[n]? = some q → (t.port n).queue = dropFirst x q.queue ∧
        (t.port n).credits = q.credits.modify x.cls (fun c => c - x.out.units)) ∧
      (∀ m, m ≠ n → (t.port m).queue = (s.port m).queue ∧ (t.port m).credits = (s.port m).credits) ∧
      t.counter Ctr.fabStarveGrantCount = (if granted then min (s.counter Ctr.fabStarveGrantCount + 1) counterMax
        else s.counter Ctr.fabStarveGrantCount)) ∧
  (∀ (s : State) (p pos x tick : Nat) (r : FabRoute), s.power.off = false →
    (s.part p).switches.find? (fun y => y.1 == pos && decide (y.2.2 ≤ (s.part p).exposure)) = some (pos, x, tick) →
    (s.fabSec p).bind (fun b => fabRoute b pos) = some r →
    ∃ t, exec (.routeSwitchApply p pos) s = .next t ∧
      (if r.altPort = 0xFF then t.pathHas Ev.routeSwitched UnitId.module { value := pos, value2 := x % 2 ^ 32, cause := 2 } ∧
        (s.inStep p = true → (t.part p).phase = .faulted ∧ (t.part p).faultCause = FaultCause.route.code ∧
          ∀ q, s.parts[p]? = some q → t.pathHas Ev.stepFault (UnitId.partition p)
            { value := q.step % 2 ^ 32, cause := FaultCause.route.code })
      else t.counter Ctr.fabRouteSwitchCount = min (s.counter Ctr.fabRouteSwitchCount + 1) counterMax ∧
        (∀ q, s.parts[p]? = some q → (t.part p).switched.contains pos = true) ∧
        t.pathHas Ev.routeSwitched UnitId.module
          { value := pos, value2 := x % 2 ^ 32, cause := if tick = x then 0 else 1 })) ∧
  (∀ (s : State) (p pos x tick : Nat), s.power.off = false →
    (s.part p).switches.find? (fun y => y.1 == pos && decide (y.2.2 ≤ (s.part p).exposure)) = some (pos, x, tick) →
    (s.fabSec p).bind (fun b => fabRoute b pos) = none →
    ∃ t, exec (.routeSwitchApply p pos) s = .next t ∧ s.same [.parts] t ∧
      ∀ q, s.parts[p]? = some q → (t.part p).fixer.resumeAt = some q.exposure) ∧
  (∀ (s : State) (n : Nat), s.power.off = false → s.portUp n = true → s.nextItem n = none →
    exec (.outputArbitration n) s = .next { s.sendFlit n 0 [] with pending := s.pending })

/-- R300 to R304, R311, R315: a port that trains with at most one failed lane comes up with its neighbour and fresh
credits, and sends its own position; training that times out, or software, takes it down, with EV_PORT_DOWN and its
cause; a lane of an ACTIVE port above its error ratio is spared while the spare is free; a FLIT whose CRC fails is
answered by a nak of the sequence number awaited, a good one that is the one awaited ends the replays that it
acknowledges and returns its credits, and any other is dropped; a nak sends again every FLIT from the one it names on,
one that has failed eight replays takes the port down, and so do more replays in an exposure than the limit; a control
FLIT brings credits and ranks. -/
def Obligations.PortsTrainAndFail : Prop :=
  (∀ (s : State) (n nb lanes : Nat), s.power.off = false → s.portState n = 1 → laneCount lanes ≤ 1 → lanes < 2 ^ 9 →
    nb < 2 ^ 20 →
    ∃ t, exec (.portTrained n nb lanes) s = .next t ∧ t.portState n = 2 ∧ t.get (Reg.fabPort_failedLanes n) = lanes ∧
      t.get (Reg.fabPort_neighbour n) = nb ∧ (∀ q, s.ports[n]? = some q → (t.port n).credits = [128, 1024, 1024, 1024, 1024]) ∧
      t.out.fabric = s.out.fabric ++ [(n, FabOut.position s.position)] ∧ s.same [.regs, .ports, .out] t) ∧
  (∀ (s : State) (n : Nat), s.power.off = false → s.portState n = 1 →
    exec (.portTrainingTimeout n) s = .next { s.portDown n 1 with pending := s.pending }) ∧
  (∀ (s : State) (n : Nat), s.power.off = false →
    exec (.portTakeDown n) s = .next { (if s.ready && s.portUp n then s.portDown n 5 else s) with pending := s.pending }) ∧
  (∀ (s : State) (n cause : Nat), n < 48 → (s.portDown n cause).portState n = 4 ∧
    (s.portDown n cause).pathHas Ev.portDown (UnitId.port n) { cause := cause }) ∧
  (∀ (s : State) (n lane l errors symbols : Nat), s.power.off = false → n < 48 → s.portState n = 2 → lane < 8 → s.laneBad errors symbols = true →
    bitAt (s.get (Reg.fabPort_failedLanes n)) lane = 0 → (s.port n).logical lane = some l →
    s.get (Reg.fabPort_spareUsed n) = 0 → bitAt (s.get (Reg.fabPort_failedLanes n)) 8 = 0 →
    ∃ t, exec (.laneFailure n ⟨lane, errors, symbols⟩) s = .next t ∧ t.portState n = 2 ∧ t.get (Reg.fabPort_spareUsed n) = 1 ∧
      t.counter (Ctr.portLaneRetrain n) = min (s.counter (Ctr.portLaneRetrain n) + 1) counterMax ∧
      t.pathHas Ev.laneSpared (UnitId.port n) { value := lane }) ∧
  (∀ (s : State) (n : Nat) (flit : Flit), s.power.off = false → s.portUp n = true →
    let h := flit.header.toNat
    let next := (s.port n).link.expected
    let u := if flit.corrected then
      (s.count (Ctr.portFecCorrected n)).modPort n (fun q => { q with exposureFec := q.exposureFec + 1 }) else s
    (flit.crcOk = false → exec (.flitReceive n flit) s = .next
      { ({ u with out := { u.out with fabric := u.out.fabric ++ [(n, FabOut.nak next)] } } : State).modLink n
          (fun k => { k with refused := some next }) with pending := s.pending }) ∧
    (flit.crcOk = true → bitsAt h 0 12 ≠ next → exec (.flitReceive n flit) s = .next { u with pending := s.pending }) ∧
    (flit.crcOk = true → bitsAt h 0 12 = next → exec (.flitReceive n flit) s = .next
      { (((if bitAt h 12 = 1 then u.modPort n (fun q => { q with attempts := dropAcked (bitsAt h 14 12) q.attempts })
          else u).modLink n (fun k => { k.acknowledged h with received := some next })).addCredits n (bitsAt h 26 3)
            flit.credits) with pending := s.pending })) ∧
  (∀ (s : State) (n seq : Nat), s.power.off = false → n < 48 → s.portUp n = true →
    let again := (s.port n).link.replayFrom seq
    ((s.port n).link.naked ≠ some seq ∨ again = [] → exec (.flitReplay n seq) s = .next s) ∧
    ((s.port n).link.naked = some seq → again ≠ [] → 8 ≤ readOr 0 (s.port n).attempts seq →
      exec (.flitReplay n seq) s = .next { s.portDown n 2 with pending := s.pending }) ∧
    ((s.port n).link.naked = some seq → again ≠ [] → readOr 0 (s.port n).attempts seq < 8 →
      ∃ t, exec (.flitReplay n seq) s = .next t ∧ t.out.flits = s.out.flits ++ again.map (fun f => (n, f)) ∧
        t.counter (Ctr.portFlitReplay n) = min (s.counter (Ctr.portFlitReplay n) + again.length) counterMax ∧
        (∀ q, s.ports[n]? = some q → (t.port n).exposureReplays = q.exposureReplays + again.length ∧
          t.portState n = (if q.exposureReplays + again.length ≤ s.get Reg.fabLimits_replayLimit then s.portState n
            else 4)))) ∧
  (∀ (s : State) (n : Nat) (ctl : ControlFlit), s.power.off = false → s.portUp n = true →
    ∃ t, exec (.controlFlit n ctl) s = .next t ∧
      (∀ q, s.ports[n]? = some q → (t.port n).ranks = ctl.outRank ∧
        (t.port n).credits = (ctl.credits.zipIdx.foldl (fun l x => l.modify x.2 (· + x.1)) q.credits)) ∧
      ((s.get Reg.fabTimeConfig_parentPort ≠ n ∨ s.flag Reg.fabTimeConfig_root = true) → t.time = s.time))

/-- R332 to R334: RESHARD. A section that passes its checks is held prepared and the slot returns; a commit of it for a
step at least two ahead and the next epoch waits for its step; a cancel gives a prepared section up; every failed check
refuses with EV_RESHARD_REFUSED and the lowest one. At the tick that begins the named step the section and the epoch
change, with EV_EPOCH_CHANGED; a fence that has waited 4 exposures discards what stands ahead of it, whose input buffers
become free, and faults the step. Where the instants of a re-shard lie between commands is log entry 45. -/
def Obligations.ReshardingSwitchesSections : Prop :=
  (∀ (s : State) (ring : Nat) (d : Started), s.power.off = false →
    s.findReshard ring (fun a => a != 2 && a != 3) = some d → d.strayReshard = none → d.badPool 18 = none → d.action = 1 →
    let p := s.ringPart ring
    let q := d.opd 18 2
    let i := d.opd 20 4
    s.slotFilled p q i 2 = true →
    let b := s.readWin p (s.payloadOf p q i) (min (s.slot p q i).length (s.slotBytes p q))
    let u := s.consumeSlot p q i
    let fails := failedChecks [(1, u.reshardTime p 1), (2, (s.slot p q i).format == 0x12 && u.prepareOk p b)]
    let v := u.modPart p (fun x => { x with reshard := { x.reshard with prepared := some b } })
    exec (.reshardPrepare ring) s = .next
      { (if fails.isEmpty then
            (if (v.part p).reshard.step.isNone then v.set Reg.fabEpoch_reshard 1 else v).finish ring d .done
          else u.refuseReshard ring d fails).releaseSlot p q i with pending := s.pending }) ∧
  (∀ (s : State) (ring : Nat) (d : Started), s.power.off = false → s.findReshard ring (· == 2) = some d →
    d.strayReshard = none →
    let p := s.ringPart ring
    let q := s.part p
    let fails := failedChecks [(1, s.reshardTime p d.action),
      (3, q.reshard.isPrepared && decide (q.step + 2 ≤ d.opd 24 8) && d.opd 32 2 == (s.epoch + 1) % 4096), (4, s.commitFits p)]
    exec (.reshardCommit ring) s = .next
      { (if fails.isEmpty then
          ((((s.beginDesc ring d).modPart p (fun x => { x with
            reshard := { x.reshard with step := some (d.opd 24 8), epoch := d.opd 32 2, ring := ring, seq := d.seq } })).set
              Reg.fabEpoch_reshard 2).set Reg.fabEpoch_next (d.opd 32 2)).setPair Reg.fabReshardStep (d.opd 24 8)
        else s.refuseReshard ring d fails) with pending := s.pending }) ∧
  (∀ (s : State) (ring : Nat) (d : Started), s.power.off = false → s.findReshard ring (· == 3) = some d →
    d.strayReshard = none →
    let p := s.ringPart ring
    let fails := failedChecks [(1, s.reshardTime p d.action), (5, (s.part p).reshard.isPrepared)]
    exec (.reshardCancel ring) s = .next
      { (if fails.isEmpty then
          ((s.modPart p (fun x => { x with reshard := { x.reshard with prepared := none } })).set Reg.fabEpoch_reshard 0).finish
            ring d .done
        else s.refuseReshard ring d fails) with pending := s.pending }) ∧
  (∀ (s : State) (p step : Nat) (b : List Byte) (q : Part), s.power.off = false → s.parts[p]? = some q → s.inStep p = true →
    q.reshard.step = some step → q.reshard.prepared = some b → q.step = step → q.index = 0 →
    (∀ n, (s.port n).waiting = [] ∧ (s.port n).notices = []) →
    ∃ t, exec (.reshardBoundary p) s = .next t ∧ (t.part p).sectionNow = some b ∧ (t.part p).sectionOld = q.sectionNow ∧
      (t.part p).reshard.step = none ∧ t.get Reg.fabEpoch_epoch = q.reshard.epoch % 4096 ∧
      t.pathHas Ev.epochChanged (UnitId.partition p) { object := q.reshard.epoch, value := step % 2 ^ 32 }) ∧
  (∀ (s : State) (p n : Nat), s.power.off = false → s.portPart n = p → s.fenceLate p n = true →
    exec (.epochDrainTimeout p n) s = .next
      { (((aheadOfMarker (s.port n).queue).1.foldl (fun u x => u.releaseVia x)
          (s.modPort n (fun q => { q with queue := (aheadOfMarker (s.port n).queue).2 }))).raiseFor (some p) Ev.epochDrainFail
            (UnitId.port n) { value := (aheadOfMarker (s.port n).queue).1.length }).stepFault p .epochDrain
        with pending := s.pending })

/-- R369, R370, R372, R373, R388: securing. SECURE in a step asks for a sweep of its scope and its descriptor waits for
that sweep; outside a step it ends with STATE and the state, an unknown scope with REFUSED and detail 1, a stray operand
byte with BAD_ADDRESS. When the Fixer may start and restores nothing first, a due sweep starts with EV_SWEEP_START, its
cause and its number of items, all of which are then left; one with no item left ends with EV_SWEEP_DONE and its length
in microseconds, is counted, and completes its SECURE descriptors. A copy of a group, or of the record, begins in a step
when it is ready, for the step's number, and not otherwise. A copy that was begun, or else the first item left of a
sweep, is sealed and then no longer waits. A mirror whose turn it is goes to the partner from the newest copy whose seal
holds, as its data and then its seal record, and is in flight under that record's stamp. Which partition's Fixer a
command means, the sweep's cause and the units are log entries 17 and 28. -/
def Obligations.TheFixerSeals : Prop :=
  (∀ (s : State) (ring : Nat) (d : Started), s.power.off = false → s.findOp ring 0x14 = some d →
    let p := s.ringPart ring
    let scope := d.opd 16 1
    (∀ off, d.strayOperand [(16, 1)] = some off →
      exec (.secure ring) s = .next { s.finish ring d .badAddress off with pending := s.pending }) ∧
    (d.strayOperand [(16, 1)] = none → s.inStep p = false →
      exec (.secure ring) s = .next { s.finish ring d .state (s.part p).phase.code with pending := s.pending }) ∧
    (d.strayOperand [(16, 1)] = none → s.inStep p = true → scope ≠ 1 → scope ≠ 2 →
      exec (.secure ring) s = .next { s.finish ring d .refused 1 with pending := s.pending }) ∧
    (d.strayOperand [(16, 1)] = none → s.inStep p = true → (scope = 1 ∨ scope = 2) →
      exec (.secure ring) s = .next
        { (s.beginDesc ring d).sweepDue p 2 (scope == 2) [(ring, d.seq)] false with pending := s.pending })) ∧
  (∀ (s : State) (p : Nat) (pl : Plan) (d : DueSweep), s.power.off = false → s.planOf p = some pl →
    s.fixerMayStart p = true → (s.inStep p = false ∨ (s.part p).restoreDue = []) → s.dueNow p = some d →
    let items := pl.sweepItems d.all
    exec (.sweepStart p) s = .next
      { (s.raise Ev.sweepStart UnitId.module { value := items.length, cause := d.cause }).modFixer p (fun f =>
          { f with dues := f.dues.filter (· != d), sweep := some d, since := s.time.now, size := items.length, left := items,
                   unmirrored := [] }) with pending := s.pending }) ∧
  (∀ (s : State) (p : Nat) (pl : Plan) (d : DueSweep), s.power.off = false → s.planOf p = some pl →
    (s.part p).fixer.sweep = some d → (s.part p).fixer.left = [] →
    let u := (s.raise Ev.sweepDone UnitId.module { value := (s.time.now - (s.part p).fixer.since) / 4000 }).count
      Ctr.survSweepsCount
    let v := if d.cause = 1 then { u with tally := { u.tally with resecure := 0 } } else u
    let mirrored := (pl.securing.map (fun h => bitAt h.flags 0 == 1 && h.partner != noPosition)).getD false
    let w := ((v.modFixer p (fun f => { f with
      sweep := none, swept := if mirrored then f.swept ++ [(f.size, f.unmirrored)] else f.swept, unmirrored := [],
      departing := (s.part p).fixer.departing || d.retire })).noteMirrored p).completeSecures d
    exec (.sweepDone p) s = .next
      { (if w.inStep p then (if d.retire then w.stepFault p .spares else w.runRestores p pl) else w.endDrain p)
        with pending := s.pending }) ∧
  (∀ (s : State) (p g : Nat) (pl : Plan), s.power.off = false → s.planOf p = some pl →
    (s.inStep p = true → s.copyReady p g pl = true →
      exec (.privilegedCopy p g) s = .next
        { s.modFixer p (fun f => { f with
            copying := f.copying ++ [(g, (s.part p).step)], copied := f.copied ++ [g],
            recordCopy := if g = recordItem then f.snapshot else f.recordCopy }) with pending := s.pending }) ∧
    ((s.inStep p = false ∨ s.copyReady p g pl = false) → exec (.privilegedCopy p g) s = .next s)) ∧
  (∀ (s : State) (p i : Nat) (pl : Plan), s.power.off = false → s.planOf p = some pl →
    (∀ n, (s.part p).fixer.copying.find? (fun x => x.1 == i) = some (i, n) →
      exec (.sealWritten p i) s = .next
        { (s.sealItem p i n pl (s.part p).fixer.recordCopy false).modFixer p (fun f => { f with
            copying := f.copying.erase (i, n) }) with pending := s.pending }) ∧
    ((s.part p).fixer.copying.find? (fun x => x.1 == i) = none → (s.part p).fixer.sweep.isSome = true →
      (s.part p).fixer.left.head? = some i →
      exec (.sealWritten p i) s = .next
        { (s.sealItem p i (s.part p).step pl (s.part p).fixer.snapshot true).modFixer p (fun f => { f with
            left := f.left.tail }) with pending := s.pending })) ∧
  (∀ (s : State) (p i : Nat) (pl : Plan) (h : SecPlan) (a : ItemPlace), s.power.off = false →
    s.planOf p = some pl → pl.securing = some h → s.ownPlace pl i = some a → s.mirrorNext p pl i = true →
    let u := s.modFixer p (fun f => { f with mirrors := f.mirrors.filter (· != i) })
    (∀ r c v, u.firstValid p i 0 a (fun _ => true) (u.validSlots a i) = (some (r, c), v) →
      exec (.mirrorSend p i) s = .next
        { (v.modFixer p (fun f => { f with inFlight := f.inFlight ++ [(i, leNat r.stamp)] })).sendMirror p i
            (itemPackets h.partner 1 i r.step c.stream r) with pending := s.pending }) ∧
    (∀ v, u.firstValid p i 0 a (fun _ => true) (u.validSlots a i) = (none, v) →
      exec (.mirrorSend p i) s = .next { v with pending := s.pending }))

/-- R298, R376, R377, R382 to R385: after the drain of a faulted step the started groups that did not end are torn, a
step left partial is counted and raised, and the policy's groups are restored; the plan goes on with the next step at
its exposure. A departing module hands over, with EV_HANDOVER_SENT, when every mirror stands; a standby second body
begins the takeover by its register, and at its exposure runs the step after the sealed one, its layers' holds counted
on from there, with EV_TAKEOVER_DONE and its count. Where a departing module's drain waits is log entry 28. -/
def Obligations.DrainsResumeOrHandOver : Prop :=
  (∀ (s : State) (p : Nat) (pl : Plan), s.power.off = false → s.planOf p = some pl → (s.part p).phase = .faulted →
    (s.part p).drainDone = false → s.sharesRun p = false → (s.part p).fixer.sweep = none →
    (s.part p).fixer.settled = false → (s.part p).fixer.asked = [] → (s.part p).fixer.failed = false →
    let u := (s.tearStarted p pl).modFixer p (fun f => { f with settled := true })
    let open_ := ((u.part p).groups.filter (fun g => g.status == 0 && !g.frozen)).length
    let v := if (u.part p).groups.any (fun g => (g.status == 0 && !g.frozen) || g.status == 4) then
        (u.raise Ev.stepPartial (UnitId.partition p) { value := open_ }).count Ctr.survPartialStepsCount else u
    exec (.drainComplete p) s = .next
      { ((v.modPart p (fun q => { q with restoreDue := [] })).restoreGroups p pl (v.groupsToRestore p pl)).endDrain p
        with pending := s.pending }) ∧
  (∀ (s : State) (p : Nat) (pl : Plan), s.power.off = false → s.planOf p = some pl → s.mayResume p = true →
    exec (.planResume p) s = .next { s.stepBoundary p pl (s.resumeExposure p) with pending := s.pending }) ∧
  (∀ (s : State) (p : Nat) (pl : Plan), s.power.off = false → s.planOf p = some pl → (s.part p).fixer.departing = true →
    (s.part p).drainDone = true → (s.part p).fixer.handed = false → (s.part p).fixer.mirrors = [] →
    (s.part p).fixer.inFlight = [] → (∃ q, s.parts[p]? = some q) →
    ∃ t, exec (.handoverSent p) s = .next t ∧ (t.part p).fixer.handed = true ∧
      t.pathHas Ev.handoverSent UnitId.module { value := pl.secondBody } ∧ s.sameMem t) ∧
  (∀ (s : State) (v : Word), s.power.off = false →
    exec (.takeoverWrite v) s = .next
      { (if s.ready = true ∧ bitAt v.toNat 1 = 1 ∧ bitAt v.toNat 0 = 1 ∧ s.standby = true then s.beginTakeover s.takeoverPart else s)
        with pending := s.pending }) ∧
  (∀ (s : State) (p : Nat) (pl : Plan), s.power.off = false → s.planOf p = some pl → (s.part p).fixer.takeover = true →
    s.standby = false → (s.part p).fixer.asked = [] → (s.part p).fixer.failed = false → (s.part p).phase = .admitted →
    (s.part p).exposure = (s.part p).fixer.takeAt →
    let n := fieldAt (s.part p).fixer.snapshot 0 8 + 1
    let u := ((s.modFixer p (fun f => { f with takeover := false })).rebaseHolds p (n - 1)).evalEta p pl
    exec (.takeoverDone p) s = .next
      { ((((u.beginStep p n (u.part p).exposure).snapshotRecord p).raise
          Ev.takeoverDone UnitId.module { value := (s.part p).exposure % 2 ^ 32 }).count Ctr.survTakeoversCount)
        with pending := s.pending })

/-- R309, R369, R370, R379, R384: the packets of class 4. Mirror data go into the ward's free copy slot at their offset;
the seal record after them is kept and acknowledged when its digest matches that copy, and is invalid otherwise. The
partner's acknowledgement with the stamp of a mirror in flight ends that mirror, counted; any other acknowledgement
changes nothing. An item that was asked for gathers, and with a seal record of its own whose digest it has it is
restored; a first digest that fails is noted and asked for again, a second one or no record makes the item lost. Packets
that no plan accounts for are discarded and counted. The acknowledgement's form, and where a ward's items lie, are log
entries 16 and 31. -/
def Obligations.BulkPacketsMoveItems : Prop :=
  (∀ (s : State) (n p : Nat) (pk : Packet) (h : SecPlan), s.wardPlan p pk = some h →
    let off := fieldAt pk.data 8 8
    let size := streamData (fieldAt pk.data 16 8)
    let data := (pkData pk).drop 64
    let v := s.noteWard h (bulkItem pk) size
    (v.wardItems h).contains (bulkItem pk, size) = true ∧
    ∃ a, v.wardPlace h (bulkItem pk) = some a ∧
      (off + data.length ≤ size →
        s.mirrorIn n p pk = v.rawNeg (a.slot (v.freeSlot a (bulkItem pk)) + off) data) ∧
      (off = size → ∃ m, s.mirrorIn n p pk = m ∧ m.neg = v.neg ∧
        (∀ i, i < data.length / 2 → readOr 0 m.negTags ((a.slot (v.freeSlot a (bulkItem pk))) / 4096 + i) = fieldAt data (2 * i) 2))) ∧
  (∀ (s : State) (n p : Nat) (pk : Packet), s.wardPlan p pk = none →
    s.mirrorIn n p pk = s.count (Ctr.portStaleDrop n) ∧ s.mirrorSealIn n p pk = s.count (Ctr.portStaleDrop n)) ∧
  (∀ (s : State) (n p : Nat) (pk : Packet) (a : ItemPlace),
    let r := SealRec.ofBytes ((pkData pk).drop 64)
    (s.wardPlan p pk).bind (fun h => s.wardPlace h r.item) = some a →
    let slot := s.freeSlot a r.item
    let c := s.storedCopy (a.slot slot) (r.bytes / 4096)
    (r.digestOf c = r.digest →
      s.mirrorSealIn n p pk = (s.putSeal a { r with slot := slot, digest := ({ r with slot := slot } : SealRec).digestOf c }).sendRouted p
        ⟨8, 0, (pkStamp pk).origin, 0xFFFF, 0, true, r.item, slice r.stamp 0 16⟩) ∧
    (r.digestOf c ≠ r.digest → s.mirrorSealIn n p pk = s.sealInvalid p r.item 1 a slot)) ∧
  (∀ (s : State) (n p : Nat) (pk : Packet), (pkData pk).length = 16 →
    let m := (pkOffset pk, leNat (slice pk.data 0 16))
    ((s.part p).fixer.inFlight.contains m = true →
      s.creditIn n p pk = ((s.modFixer p (fun f => { f with
        inFlight := f.inFlight.filter (· != m), unmirrored := f.unmirrored.filter (· != pkOffset pk),
        swept := f.swept.map (fun x => (x.1, x.2.filter (· != pkOffset pk))) })).count
          Ctr.survMirrorSealsCount).noteMirrored p) ∧
    ((s.part p).fixer.inFlight.contains m = false → s.creditIn n p pk = s)) ∧
  (∀ (s : State) (n p : Nat) (pk : Packet), (s.part p).fixer.asked.contains (bulkItem pk) = true →
    s.itemDataIn n p pk = s.modFixer p (fun f => { f with stage := f.stage.filter (fun x => x.1 != bulkItem pk) ++
      [(bulkItem pk, Memory.writeN (s.staged p (bulkItem pk)) (fieldAt pk.data 8 8) ((pkData pk).drop 64))] })) ∧
  (∀ (s : State) (n p : Nat) (pk : Packet) (pl : Plan), s.planOf p = some pl →
    (s.part p).fixer.asked.contains (bulkItem pk) = true → (s.part p).fixer.admission = false →
    let item := bulkItem pk
    let r := SealRec.ofBytes ((pkData pk).drop 64)
    let c := Copy.ofStream ((s.staged p item).readN 0 (r.bytes / 4096 * 4098))
    let u := s.modFixer p (fun f => { f with
      asked := f.asked.filter (· != item), stage := f.stage.filter (fun x => x.1 != item) })
    ((r.state ≠ 1 ∨ r.item ≠ item) → s.itemSealIn n p pk = u.itemLost p item) ∧
    (r.state = 1 → r.item = item → r.digestOf c = r.digest →
      s.itemSealIn n p pk = (u.takeItem p item pl r c).itemRestored p pl) ∧
    (r.state = 1 → r.item = item → r.digestOf c ≠ r.digest →
      (((u.noteInvalid p item 1).part p).fixer.retried.contains item = false →
        s.itemSealIn n p pk = ((u.noteInvalid p item 1).modFixer p (fun f => { f with
          retried := f.retried ++ [item] })).askPartner p item pl true) ∧
      (((u.noteInvalid p item 1).part p).fixer.retried.contains item = true →
        s.itemSealIn n p pk = (u.noteInvalid p item 1).itemLost p item))) ∧
  (∀ (s : State) (n p : Nat) (pk : Packet), (s.part p).fixer.asked.contains (bulkItem pk) = false →
    s.itemDataIn n p pk = s.count (Ctr.portStaleDrop n) ∧ s.itemSealIn n p pk = s.count (Ctr.portStaleDrop n)) ∧
  (∀ (s : State) (n p : Nat) (pk : Packet), (s.standby = false ∨ bulkItem pk ≠ s.position) →
    s.takeoverIn n p pk = s.count (Ctr.portStaleDrop n))

/-- R51, R55, R266, R378, R380, R381: a core that fails is marked and drops its share and its requests, and its
partition's plan is invalid; a link whose transfer fails after its eighth retry goes down, and the plans of its
partitions are invalid; an earlier failure is only counted; a row without a repair row retires its page, once. An
uncorrectable error in the bytes of a group, met by a decoder or any other reader, goes to that group: it is counted,
its restore is wanted and, if a task met it, the step faults; any other is one in transient data with its place. The
units, and what an error in no tensor does, are log entries 17 and 53. -/
def Obligations.FailuresReachTheirPlans : Prop :=
  (∀ (s : State) (c : Nat), s.power.off = false → c < s.fitted.ccc → s.coreFailed c = false →
    let u := (s.setPair Reg.sysInvCoreFailed (s.pair Reg.sysInvCoreFailed + 2 ^ c)).raise Ev.coreFailed (UnitId.core c) {}
    exec (.coreFailed c) s = .next
      { ((u.modCore c (fun k => { k with running := none, asked := false })).leaveDevelopers c).planInvalid (u.corePart c) 1
        with pending := s.pending }) ∧
  (∀ (s : State) (c : Nat), s.power.off = false → (s.coreFailed c = true ∨ s.fitted.ccc ≤ c) →
    exec (.coreFailed c) s = .next s) ∧
  (∀ (s : State) (i d e retry : Nat), s.power.off = false → s.fitted.hasLink i d e = true →
    s.d2dDown.contains (linkName i d e) = false →
    (retry < 8 → exec (.d2dTransferFail i ⟨d, e⟩ retry) s = .next
      { s with tally := { s.tally with d2d := s.tally.d2d + 1 } }) ∧
    (8 ≤ retry →
      let u := ({ s with d2dDown := s.d2dDown ++ [linkName i d e] } : State).raise Ev.d2dLinkDown UnitId.module
        { object := d, cause := i }
      exec (.d2dTransferFail i ⟨d, e⟩ retry) s = .next
        { (u.linkParts i d e).foldl (fun v p => v.planInvalid p 2) u with pending := s.pending })) ∧
  (∀ (s : State) (i d e retry : Nat), s.power.off = false →
    (s.fitted.hasLink i d e = false ∨ s.d2dDown.contains (linkName i d e) = true) →
    exec (.d2dTransferFail i ⟨d, e⟩ retry) s = .next s) ∧
  (∀ (s : State) (st page used : Nat), s.power.off = false → st < s.fitted.ss → s.rowsUsed[st]? = some used →
    ∃ t, exec (.hbmRowFailure st page) s = .next t ∧
      (used < repairRows → t.rowsUsed = s.rowsUsed.modify st (· + 1) ∧ t.retired = s.retired ∧ s.same [.rowsUsed, .regs] t) ∧
      (repairRows ≤ used → s.retired.contains (st, page) = true → t = s) ∧
      (repairRows ≤ used → s.retired.contains (st, page) = false → t.retired = s.retired ++ [(st, page)] ∧
        t.pathHas Ev.pageRetired (UnitId.stack st) { object := st, value := page })) ∧
  (∀ (s : State) (p a : Nat), s.power.off = false →
    let owner := (s.planOf p).bind (fun pl => (pl.tensorAt 0 a).bind (fun x =>
      if x.2.2.persistent then pl.groupOf x.1 x.2.1 else none))
    (∀ k, owner = some k → exec (.uncorrectableError (.decoder p a)) s = .next
      { s.persistentError p k (s.codecUnit p 0 a) .task with pending := s.pending }) ∧
    (owner = none → exec (.uncorrectableError (.decoder p a)) s = .next
      { s.transientError p (s.codecUnit p 0 a) (a / 4096) 2 with pending := s.pending })) ∧
  (∀ (s : State) (p port a : Nat) (q : QueueRef), s.power.off = false →
    exec (.uncorrectableError (.transfer p port a)) s = .next
      { s.transientError p (UnitId.port port) (a / 4096) 3 with pending := s.pending } ∧
    exec (.uncorrectableError (.queue q)) s = .next
      { s.transientError (s.queuePart q) (s.queueUnit q) (queueNumber q) 1 with pending := s.pending }) ∧
  (∀ (s : State) (p space a g i : Nat) (t : Tensor) (pl : Plan) (reader : ErrorReader), s.power.off = false →
    s.planOf p = some pl → pl.tensorAt space a = some (g, i, t) →
    let v := match reader with
      | .core c => s.tearReader p c space a
      | _ => s
    exec (.uncorrectableError (.memory p space a reader)) s = .next
      { (match (if t.persistent then pl.groupOf g i else none) with
          | some k => (if reader = ErrorReader.fixer then v.modFixer p (fun f => { f with
                left := f.left.filter (· != k), copying := f.copying.filter (fun x => x.1 != k) }) else v).persistentError p k
              (s.memoryUnit p space a) (metBy reader)
          | none => v.transientError p (s.memoryUnit p space a) ((if space = 3 then s.winBase p + a else a) / 4096) 4)
        with pending := s.pending }) ∧
  (∀ (s : State) (p g : Nat) (u : UnitId) (by_ : UeReader),
    let v := (s.raiseFor (some p) Ev.uePersistent u { object := g, cause := by_.code }).count Ctr.survUePersistentCount
    s.persistentError p g u by_ = (if by_ = .task then (v.wantRestore p g).stepFault p .uncorrectable else v.wantRestore p g))

/-- R353, R355 to R358: the intake. An idle unit takes its oldest filled slot into conversion; a conversion that ends in
time releases the slot and settles its row, or goes to the sample's fault; one that exceeds its budget is abandoned with
cause 4; a reserve copy that ends settles its row. The first core of a take opens it and the last to end completes it.
Which conversion is slow and what padding holds are log entry 57. R349: dictionaries. A load that passes its checks
takes the slot and empties the bank; when its tables are built the bank holds it, with EV_DICTIONARY_LOADED; an activate
waits for its boundary, where it makes the bank the active one, with EV_DICTIONARY_ACTIVE, or is refused. -/
def Obligations.IntakeSettlesRowsAndBanks : Prop :=
  ((∀ (s : State) (u p q i : Nat) (a : Adopted) (t : SampleTarget), s.power.off = false → (s.intakeUnit u).adopted = some a →
     (a.take.text = false ∨ (s.intakeUnit u).active.isSome = true) → (s.intakeUnit u).idle a.take = true →
     (s.intakeUnit u).nextTarget a.take = some t → (s.intakeUnit u).queue.find? (fun y => y.1 == a.p) = some (p, q, i) →
     let h := s.slot p q i
     let v := (s.consumeSlot p q i).modIntake u (fun x => { x with
       queue := x.queue.filter (fun y => !(y == (p, q, i)))
       samples := x.samples ++ [⟨p, q, i, h, s.readWin p (s.payloadOf p q i) (min h.length (s.slotBytes p q)), a.par, t,
         (s.intakeUnit u).active.getD 0, s.time.now⟩] })
     exec (.sampleStart u) s = .next
       { (match t with
           | .row b r => v.modIntake u (fun x =>
               { x with buffers := x.buffers.modify b (fun y => { y with rows := y.rows.set r .assigned }) })
           | _ => v) with pending := s.pending }) ∧
   (∀ (s : State) (u i ns : Nat) (x : IntakeSample), s.power.off = false → s.converting u i = some x →
     ns ≤ s.slowBudget u x → s.targetOpen u x = true →
     let v := (if s.time.everLocked then s.advanceTo (x.since + 4 * ns) else s).endConversion u i x
     exec (.sampleConverted u i ns) s = .next
       { (if x.fault = 0 then ((v.countSample u x).updateMean u x.header.format ns).placeSample u x
         else v.badSample u x x.fault) with pending := s.pending }) ∧
   (∀ (s : State) (u i : Nat) (x : IntakeSample), s.power.off = false → s.converting u i = some x → s.targetOpen u x = true →
     exec (.sampleSlow u i) s = .next
       { ((if s.time.everLocked then s.advanceTo (x.since + 4 * s.slowBudget u x) else s).endConversion u i x).badSample u x 4
         with pending := s.pending }) ∧
   (∀ (s : State) (u i : Nat) (c : IntakeCopy) (a : Adopted), s.power.off = false → (s.intakeUnit u).copies[i]? = some c →
     (s.intakeUnit u).adopted = some a →
     exec (.reserveCopyDone u i) s = .next
       { (s.modIntake u (fun y => { y with copies := y.copies.eraseIdx i })).settle u a c.buffer c.row
           (entryData a.take c.entry c.row c.status c.cause c.replaced) with pending := s.pending }) ∧
   (∀ (s : State) (c : Nat) (r : Running) (a : Adopted), s.power.off = false → s.runningOn c = some r → r.task.op = 0x0010 →
     (s.intakeUnit (r.task.par 2 1)).adopted = some a →
     let u := r.task.par 2 1
     let v := (if (s.run r.p r.g r.t).finished.isEmpty then s.openTake r u a else s).endTask c r 0 false
     exec (.takeBatch c) s = .next
       { (if r.task.cores.all (fun k => (v.run r.p r.g r.t).finished.contains k) then v.closeTake r u a else v)
         with pending := s.pending })) ∧
  ((∀ (s : State) (ring : Nat) (d : Started), s.power.off = false →
     s.findDesc ring 0x12 (fun d => d.opd 16 1 != 2) = some d → d.dictStray = none → d.opd 16 1 = 1 →
     let p := s.ringPart ring
     let q := d.opd 20 2
     let i := d.opd 24 4
     s.slotFilled p q i 2 = true →
     let img := s.readWin p (s.payloadOf p q i) (min (s.slot p q i).length (s.slotBytes p q))
     exec (.dictionaryLoad ring) s = .next
       { (if failing (s.dictChecks p d) = [] then ((s.consumeSlot p q i).beginDesc ring d).modIntake (d.opd 17 1) (fun x =>
             { x with loads := x.loads ++ [⟨ring, d.seq, p, q, i, d.opd 18 1, (DictHeader.ofBytes img).bank img⟩]
                      banks := x.banks.set (d.opd 18 1) none })
           else ((s.consumeSlot p q i).refuseDict ring d (failing (s.dictChecks p d))).releaseSlot p q i)
         with pending := s.pending }) ∧
   (∀ (s : State) (u b : Nat) (l : DictLoad) (x : IntakeUnit), s.power.off = false → u < 2 → b < 2 → s.intake[u]? = some x →
     x.loads.find? (fun l => l.bank == b) = some l → b < x.banks.length →
     ∃ t, exec (.dictionaryLoadDone u b) s = .next t ∧ (t.intakeUnit u).banks[b]? = some (some l.dict) ∧
       t.get (Reg.intDictId u b) = l.dict.dictId % 2 ^ 32 ∧
       t.pathHas Ev.dictionaryLoaded (UnitId.intake u) { object := b, value := l.dict.dictId }) ∧
   (∀ (s : State) (ring : Nat) (d : Started), s.power.off = false → s.findDesc ring 0x12 (fun d => d.opd 16 1 == 2) = some d →
     d.dictStray = none →
     exec (.dictionaryActivate ring) s = .next
       { s.request (s.ringPart ring) .dictionary ring d with pending := s.pending }) ∧
   (∀ (s : State) (p : Nat) (rq : Request) (d : Started), s.power.off = false → s.nextRequest p .dictionary = some (rq, d) →
     let v := s.dropRequest p rq
     exec (.dictionaryActivateApply p) s = .next
       { (if failing (v.dictChecks p d) = [] then
           ((v.modIntake (d.opd 17 1) (fun x => { x with active := some (d.opd 18 1) })).finish rq.ring d .done).raise
             Ev.dictionaryActive (UnitId.intake (d.opd 17 1))
             { object := d.opd 18 1
               value := ((v.modIntake (d.opd 17 1) (fun x => { x with active := some (d.opd 18 1) })).finish rq.ring d .done).get
                 (Reg.intDictId (d.opd 17 1) (d.opd 18 1)) }
         else v.refuseDict rq.ring d (failing (v.dictChecks p d))) with pending := s.pending }))

/-- R90, R437, R443: an emit task writes its header and payload into an output slot, or discards them, and ends; with an
empty tensor it only ends; a join ends as soon as it starts; the collector takes the oldest record of the event path,
delivers it, or counts it as lost where the path was full. -/
def Obligations.OutputsAndRecordsLeave : Prop :=
  (∀ (s : State) (c : Nat) (r : Running) (o : Operand), s.power.off = false → s.runningOn c = some r → r.task.op = 0x0011 →
    r.slot 0 = some o → r.usesEmpty = false →
    let k := EmitPar.ofBytes r.task.params
    let payload := s.emitPayload r.p o.t k
    let tv := s.emitTag r k
    let h : OutputHeader := ⟨tv.1, k.length, if bitAt k.flags 0 = 1 then crc32c payload else 0, k.format,
      bitAt k.flags 0 + (if tv.2 ≤ 1023 then 2 else 0), if tv.2 ≤ 1023 then tv.2 else 0⟩
    exec (.emitOutput c) s = .next
      { ((s.readErrors r o (emitBlocks o.t k)).emit r.p k.pool h payload).endTask c r 0 false with pending := s.pending }) ∧
  (∀ (s : State) (c : Nat) (r : Running), s.power.off = false → s.runningOn c = some r → r.task.op = 0x0011 →
    (r.usesEmpty = true ∨ r.slot 0 = none) → exec (.emitOutput c) s = .next { s.endEmpty c r with pending := s.pending }) ∧
  (∀ (s : State) (c : Nat) (r : Running), s.power.off = false → s.runningOn c = some r → r.task.op = 0x0012 →
    exec (.join c) s = .next { s.endTask c r 0 false with pending := s.pending }) ∧
  (∀ (s : State) (r : PathRec) (rest : List PathRec), s.power.off = false → s.events.path = r :: rest →
    exec (.eventCollect false) s = .next
      { ({ s with events := { s.events with path := rest } } : State).accept r with pending := s.pending } ∧
    ∃ t, exec (.eventCollect true) s = .next t ∧
      t.counter (Ctr.evtEventsLostCount 0) = min (s.counter (Ctr.evtEventsLostCount 0) + 1) counterMax ∧
      t.out = s.out ∧ t.events.log = s.events.log) ∧
  (∀ (s : State) (b : Bool), s.power.off = false → s.events.path = [] → exec (.eventCollect b) s = .next s)

/-- R394: the bus below failure. A droop, a low bus and a surge each raise their event and count, and the state of the
bus follows; a recovery brings it back to DROOP and ends the supply emergency; outside its condition a command of the
bus changes nothing. R392, R393, R398, R399, R401, R403: the power manager. An evaluation records the readings, moves
the clock at most 0.5 GHz towards its target and shows the target and the limit that set it; the coolant check shows
flow and inlet temperature and the flag of its limits. A sensor at its throttle limit raises its own event once per step
(R400, R436). A unit whose next event is far enough enters the deepest state of R398 that fits, and leaves it when its
exit is due or unplanned work comes (log entry 69). -/
def Obligations.PowerIsWatchedAndManaged : Prop :=
  ((∀ (s : State) (mv : Nat), s.power.off = false →
     (s.busState = 0 → mv < 44000 →
       ∃ t, exec (.busDroop mv) s = .next t ∧ t.busState = 1 ∧ t.tally.supply = s.tally.supply + 1 ∧
         t.counter Ctr.pwrDroopCount = min (s.counter Ctr.pwrDroopCount + 1) counterMax ∧
         t.pathHas Ev.busDroop UnitId.power { value := mv } ∧ s.same (countFields ++ [.tally]) t) ∧
     ((s.busState ≠ 0 ∨ 44000 ≤ mv) → exec (.busDroop mv) s = .next s)) ∧
   (∀ (s : State) (mv : Nat), s.power.off = false →
     (s.busState = 1 → mv < 42000 →
       ∃ t, exec (.busLow mv) s = .next t ∧ t.busState = 2 ∧
         t.counter Ctr.pwrBusLowCount = min (s.counter Ctr.pwrBusLowCount + 1) counterMax ∧
         t.pathHas Ev.busLow UnitId.power { value := mv } ∧ s.same (countFields ++ [.tally]) t) ∧
     ((s.busState ≠ 1 ∨ 42000 ≤ mv) → exec (.busLow mv) s = .next s)) ∧
   (∀ (s : State) (mv : Nat), s.power.off = false → s.busState = 1 → 45000 ≤ mv →
     exec (.busNormal mv) s = .next { s.set Reg.pwrStatus_busState 0 with pending := s.pending }) ∧
   (∀ (s : State) (mv : Nat), s.power.off = false → ((s.busState ≠ 1 ∨ mv < 45000) → exec (.busNormal mv) s = .next s) ∧
     ((s.busState ≠ 2 ∨ mv < 43000) → exec (.busLowRecover mv) s = .next s)) ∧
   (∀ (s : State) (mv : Nat), s.power.off = false → s.busState = 2 → 43000 ≤ mv →
     ∃ t, exec (.busLowRecover mv) s = .next t ∧ t.busState = 1 ∧ t.power.emergency = none ∧
       t.get Reg.pwrStatus_emergency = 0 ∧ s.same [.regs, .power] t) ∧
   (∀ (s : State) (mv us : Nat), s.power.off = false →
     (s.busState < 3 → 60000 < mv → mv ≤ 80000 → us ≤ 100 →
       ∃ t, exec (.busSurge mv us) s = .next t ∧ t.busState = s.busState ∧
         t.counter Ctr.pwrSurgeCount = min (s.counter Ctr.pwrSurgeCount + 1) counterMax ∧
         t.pathHas Ev.busSurge UnitId.power { value := mv } ∧ s.same (countFields ++ [.tally]) t) ∧
     ((3 ≤ s.busState ∨ mv ≤ 60000 ∨ 80000 < mv ∨ 100 < us) → exec (.busSurge mv us) s = .next s))) ∧
  ((∀ (s : State) (r : PowerReadings), s.power.off = false →
     let v := (((s.noteReadings r).noteCap r).stepLimits r).stepEmergency r
     exec (.throttleEval r) s = .next
       { ((v.set Reg.pwrClock_target100mhz v.clockTarget.1).set Reg.pwrStatus_limit v.clockTarget.2).moveClock
           v.clockTarget.1 with pending := s.pending }) ∧
   (∀ (s : State) (r : PowerReadings), (∀ x ∈ s.fitted.margins r.temps, 0 < x.2) → s.power.heatLimit = clockCeiling →
     (s.stepLimits r).power.heatLimit = clockCeiling ∧
       (s.stepLimits r).counter Ctr.pwrThermalThrottleCount = s.counter Ctr.pwrThermalThrottleCount ∧
       (s.stepLimits r).events.path = s.events.path) ∧
   (∀ (s : State) (r : PowerReadings) (n : Nat) (x : Int), (n, x) ∈ s.fitted.margins r.temps → x ≤ 0 →
     s.power.once.contains (Ev.thermalThrottle.code, n) = false →
     (s.stepLimits r).pathHas Ev.thermalThrottle (UnitId.sensor n) { object := n, value := unsigned 32 x }) ∧
   (∀ (s : State) (target : Nat), target ≤ 63 → s.get Reg.pwrClock_now100mhz ≤ 63 →
     (s.moveClock target).get Reg.pwrClock_now100mhz =
       (if s.get Reg.pwrClock_now100mhz ≤ target then min target (s.get Reg.pwrClock_now100mhz + 5)
         else max target (s.get Reg.pwrClock_now100mhz - 5))) ∧
   (∀ (s : State) (flow : Nat) (inlet : Int), s.power.off = false → flow < 2 ^ 16 →
     ∃ t, exec (.coolantCheck flow inlet) s = .next t ∧ t.get Reg.pwrCoolant_flow = flow ∧
       t.get Reg.pwrCoolant_inlet = unsigned 16 inlet ∧
       t.get Reg.pwrStatus_coolantBad = (if flow < 400 ∨ inlet < 150 ∨ 450 < inlet then 1 else 0) ∧
       (flow < 400 → s.power.once.contains (Ev.coolantLimit.code, UnitId.power.num) = false →
         t.pathHas Ev.coolantLimit UnitId.power { value := flow, value2 := unsigned 32 inlet }) ∧
       s.same (eventFields ++ [.power]) t) ∧
   (∀ (s : State) (u : PowerUnit) (idle depth : Nat), s.power.off = false →
     s.deepest u (s.idleTime u idle) = some depth → s.sleepOf u < depth →
     ∃ t, exec (.powerStateEntry u idle) s = .next t ∧ t.sleepOf u = depth ∧
       (∀ c, u = .core c → depth = 3 → t.counter Ctr.pwrC3EntryCount = min (s.counter Ctr.pwrC3EntryCount + 1) counterMax) ∧
       (∀ n, u = .port n → t.counter Ctr.pwrLaneSleepCount = min (s.counter Ctr.pwrLaneSleepCount + 1) counterMax) ∧
       s.same (countFields ++ [.cores, .power]) t) ∧
   (∀ (s : State) (u : PowerUnit) (t d : Nat), s.deepest u t = some d →
     d ∈ s.depths u ∧ s.sleepsAt u d = true ∧ s.exitNs u d + s.get Reg.pwrStateMargin_marginNs ≤ t ∧ breakEven u d ≤ t ∧
       (s.flag Reg.pwrControl_noDeep = true → d = 1 ∧ ∃ c, u = .core c) ∧
       ∀ e ∈ s.depths u, d < e → s.sleepsAt u e = false ∨ t < s.exitNs u e + s.get Reg.pwrStateMargin_marginNs ∨ t < breakEven u e) ∧
   (∀ (s : State) (u : PowerUnit) (unplanned : Bool), s.power.off = false → s.sleepOf u ≠ 0 →
     (unplanned = true ∨ s.exitDue u = true →
       ∃ t, exec (.powerStateExit u unplanned) s = .next t ∧ t.sleepOf u = 0 ∧ s.same [.power] t) ∧
     (unplanned = false → s.exitDue u = false → exec (.powerStateExit u unplanned) s = .next s)))

/-- R273, R394, R396, R400, R406: a bus failure and a thermal trip end in the emergency shut-down: the module goes off,
with HBM and staging SRAM empty and the bus state OFF, and only the sealed region of the Negative store stays. A reset
of the host port resets every ring; the end of the wipe shows in its register. What an emergency shut-down saves is log
entry 58. R397, R427: the orderly shut-down by the register is refused unless every partition is IDLE, and waits for the
rings: it goes on at the first idle step at which none is busy (log entry 3). Without the test it goes off at once. With
the test, a condition of R427 that does not hold defers it, which turns the module off and which the record shows with
its cause; else the calibration and the test area are saved, and the test is under way until its results, with state 2
or 3, or its deferral. The unit of the refusal is log entry 48. -/
def Obligations.ShutDownsGoOff : Prop :=
  ((∀ (s : State) (mv cause : Nat), s.power.off = false → s.busState < 3 →
     ((cause = 1 ∧ mv < 40000) ∨ (cause = 2 ∧ 60000 < mv)) →
     ∃ t, exec (.busFail mv cause) s = .next t ∧ t.power.off = true ∧ t.busState = 4 ∧ t.mem = [] ∧ t.staging = [] ∧
       t.neg = s.sealedOnly.1 ∧ t.trust.sessions = [] ∧ t.trust.memKeys = []) ∧
   (∀ (s : State) (sensor tenths limit : Nat), s.power.off = false → s.fitted.tripLimit sensor = some limit → limit ≤ tenths →
     ∃ t, exec (.thermalTrip sensor tenths) s = .next t ∧ t.power.off = true ∧ t.mem = [] ∧ t.neg = s.sealedOnly.1) ∧
   (∀ (s : State) (sensor tenths limit : Nat), s.power.off = false → s.fitted.tripLimit sensor = some limit → tenths < limit →
     exec (.thermalTrip sensor tenths) s = .next s) ∧
   (∀ (s : State) (cause : Nat), s.power.off = false →
     exec (.hostPortReset cause) s = .next
       { ((List.range 64).foldl (fun s n => s.resetRing n) s).raise Ev.hostPortReset UnitId.module { cause := cause }
         with pending := s.pending }) ∧
   (∀ (s : State), s.power.off = false →
     exec .negStoreWipeDone s = .next { s.set Reg.memNegStatus_wiped 1 with pending := s.pending })) ∧
  ((∀ (s : State) (test : List BistItem), s.power.off = false → s.ready = true → s.power.testing = false →
     s.power.offDue = false → s.allIdle = false →
     exec (.orderlyShutdown false test) s = .next
       { s.raise Ev.regWriteRefused UnitId.module { value := 0xC00008, value2 := 1 } with pending := s.pending }) ∧
   (∀ (s : State) (test : List BistItem), s.power.off = false → s.ready = false → exec (.orderlyShutdown false test) s = .next s) ∧
   (∀ (s : State) (pldm : Bool) (test : List BistItem), s.power.off = false → (pldm = true ∨ s.ready = true) →
     s.power.testing = false → s.power.offDue = false → s.allIdle = true → s.ringsBusy = true →
     exec (.orderlyShutdown pldm test) s =
       .next { s.modPower (fun w => { w with offDue := true }) with pending := s.pending }) ∧
   (∀ (s : State), s.power.off = false → s.pending = [] → s.power.offDue = true → s.allIdle = true → s.ringsBusy = false →
     s.flag Reg.bistControl_atShutdown = false → ∃ t, step s = .next t ∧ t.power.off = true) ∧
   (∀ (s : State) (pldm : Bool), s.power.off = false → (pldm = true ∨ s.ready = true) → s.allIdle = true →
     s.ringsBusy = false → s.power.testing = false →
     (s.flag Reg.bistControl_atShutdown = false →
       ∃ t, exec (.orderlyShutdown pldm []) s = .next t ∧ t.power.off = true ∧ t.mem = [] ∧ t.neg = s.sealedOnly.1) ∧
     (s.flag Reg.bistControl_atShutdown = true → s.testCause = none →
       ∃ t, exec (.orderlyShutdown pldm []) s = .next t ∧ t.power.off = false ∧ t.power.testing = true ∧
         t.get Reg.bistRecord_state = 1 ∧ t.trust.retained = t.trust.calibration ∧ t.trust.saved = s.trust.testArea) ∧
     (∀ c, s.flag Reg.bistControl_atShutdown = true → s.testCause = some c →
       ∃ t, exec (.orderlyShutdown pldm []) s = .next t ∧ t.power.off = true ∧ t.get Reg.bistRecord_state = 4 ∧
         t.get Reg.bistRecord_deferCause = c)) ∧
   (∀ (s : State) (pldm : Bool) (test : List BistItem), s.power.off = false → (pldm = true ∨ s.ready = true) →
     s.power.testing = true → s.testCause = none →
     ∃ t, exec (.orderlyShutdown pldm test) s = .next t ∧ t.power.off = true ∧
       t.get Reg.bistRecord_state = (if failedMap test = 0 then 2 else 3)) ∧
   (∀ (s : State) (cause : Nat) (done : List BistItem), s.power.off = false → s.power.testing = true → cause < 16 →
     ∃ t, exec (.shutdownTestDeferred cause done) s = .next t ∧ t.power.off = true ∧ t.get Reg.bistRecord_state = 4 ∧
       t.get Reg.bistRecord_deferCause = cause))

/-- R404, R405, R410, R424, R429: resets. A watchdog reset, a warm reset by its register with every partition IDLE, and
the return of the bus reset the module under their cause, the first two with the start-up after them. With no session
open, a reset empties HBM and staging SRAM and drops the plans and contexts, and keeps the sealed region, the part, its
repair rows and retired pages, the owner and the image. A start-up in PROVISIONED or SERVICE makes the module ready if
its image passes R409 and the fuses agree with the recorded state, and else enters RECOVERY; in MANUFACTURE a bad image
leaves the module waiting, in RECOVERY no start makes it ready, and in RETIRED nothing runs. Where the image is checked
is log entry 40. A warm reset with a partition that is not IDLE is refused. -/
def Obligations.ResetsKeepWhatTheyKeep : Prop :=
  (∀ (s : State) (x : StartFacts), s.power.off = false →
    exec (.watchdogReset x) s = .next { (s.resetModule 2).startUp x with pending := s.pending }) ∧
  (∀ (s : State) (v : Word) (x : StartFacts), s.power.off = false → bitsAt v.toNat 8 8 = 0xA5 → bitAt v.toNat 0 = 1 →
    exec (.warmReset v false x) s = .next
      { (if s.allIdle then (s.resetModule 1).startUp x
        else s.raise Ev.regWriteRefused UnitId.module { value := 0xD00014, value2 := v.toNat }) with pending := s.pending }) ∧
  (∀ (s : State) (mv : Nat), (s.busState = 4 ∨ s.power.off = true) → 46000 ≤ mv →
    exec (.busReturn mv) s = .next (s.resetModule 0)) ∧
  (∀ (s : State) (cause : Nat), s.trust.sessions = [] →
    (s.resetModule cause).mem = [] ∧ (s.resetModule cause).staging = [] ∧ (s.resetModule cause).neg = s.sealedOnly.1 ∧
    (s.resetModule cause).plans = [] ∧ (s.resetModule cause).contexts = [] ∧ (s.resetModule cause).power.off = false ∧
    (s.resetModule cause).trust.boot = some cause ∧ (s.resetModule cause).trust.owner = s.trust.owner ∧
    (s.resetModule cause).trust.image = s.trust.image ∧ (s.resetModule cause).fitted = s.fitted ∧
    (s.resetModule cause).rowsUsed = s.rowsUsed ∧ (s.resetModule cause).retired = s.retired ∧
    (s.resetModule cause).pending = s.pending) ∧
  (∀ (s : State) (x : StartFacts) (cause : Nat), s.power.off = false → s.fitted.legal = true → s.trust.boot = some cause →
    let v := s.verdictOf s.imageBytes
    ((s.lifeState = 1 ∨ s.lifeState = 2) → ∃ t, exec (.startUp x) s = .next t ∧
      (if v = 0 ∧ s.trust.fuses = s.trust.recorded then
        t.get Reg.secBootStatus_ready = 1 ∧ t.trust.boot = none ∧ t.get Reg.secBootStatus_verifyFail = 0 ∧
          t.lifeState = s.lifeState ∧ t.trust.found = some x
      else t.lifeState = 3 ∧ t.trust.boot = some 3 ∧ t.trust.sealKey = false ∧ t.trust.fuses = s.trust.fuses + 1 ∧
          t.pathHas Ev.recoveryEntered UnitId.root {})) ∧
    (s.lifeState = 0 → ∃ t, exec (.startUp x) s = .next t ∧ t.lifeState = 0 ∧ t.trust.boot = none ∧
      t.get Reg.secBootStatus_verifyFail = (if v = 0 then 0 else 1) ∧
      t.get Reg.secBootStatus_ready = (if v = 0 then 1 else s.get Reg.secBootStatus_ready) ∧
      (v ≠ 0 → t.pathHas Ev.bootVerifyFail UnitId.root { cause := v })) ∧
    (s.lifeState = 3 → ∃ t, exec (.startUp x) s = .next t ∧ t.lifeState = 3 ∧
      t.get Reg.secBootStatus_ready = s.get Reg.secBootStatus_ready ∧ t.trust.found = some x ∧
      t.get Reg.secBootStatus_verifyFail = (if v = 0 then 0 else 1)) ∧
    (s.lifeState = 4 → exec (.startUp x) s = .next { s.modTrust (fun t => { t with boot := none }) with pending := s.pending })) ∧
  (∀ (s : State) (x : StartFacts), s.power.off = false → s.trust.boot = none → exec (.startUp x) s = .next s)

/-- R409, R412, R413, R430: the delivery of an image. Nothing is taken while the life-cycle state or a partition forbids
it; a mailbox delivery begins, gathers bytes, and is checked at its end with result 0 or 3, like an image over PLDM or
the fabric. One that passes is written to the slot, which is erased first; one that fails is discarded with
EV_BOOT_VERIFY_FAIL. The write ends when the block next idles (log entry 3) and the life-cycle state follows. A module
in RECOVERY asks its UP neighbours and trains its other ports (log entry 59), and one in SERVICE answers with its image.
Which refusal ends with which mailbox result, and the layout of the data window, are log entry 41. -/
def Obligations.ImagesAreDelivered : Prop :=
  (∀ (s : State) (b : List Byte), s.power.off = false →
    exec (.pldmFirmwareUpdate b) s = .next
      { (if s.imageGate = 0 ∧ s.deliveryBusy 2 0 = false then s.judgeImage b 2 else s) with pending := s.pending }) ∧
  (∀ (s : State) (b : List Byte) (src : Nat),
    if s.acceptVerdict b = 0 then
      (s.judgeImage b src).trust.writing = some (b, src) ∧ (s.judgeImage b src).trust.image = none ∧
        (s.judgeImage b src).trust.delivery = none ∧ s.same [.trust] (s.judgeImage b src)
    else (s.judgeImage b src).trust = { s.trust with delivery := none } ∧
      (s.judgeImage b src).pathHas Ev.bootVerifyFail UnitId.root { cause := s.acceptVerdict b }) ∧
  (∀ (s : State) (b : List Byte) (src : Nat), s.pending = [] → s.power.offDue = false → s.trust.writing = some (b, src) →
    ∃ t, step s = .next t ∧ t.trust.image = some b ∧ t.trust.writing = none ∧
      (s.lifeState = 3 → t.lifeState = if s.trust.owner.isSome then 2 else 1) ∧ (s.lifeState = 0 → t.lifeState = 1) ∧
      (s.lifeState = 2 → t.lifeState = 2 ∧ t.trust.boot = some 4) ∧
      t.pathHas Ev.imageInstalled UnitId.root { value := imageBuild b % 2 ^ 32, cause := src }) ∧
  (∀ (s : State), s.power.off = false →
    (s.mbxWaits 1 = true → exec .mbxStatus s = .next
      { s.mbxEnd (if s.deliveryBusy 1 0 then 2 else s.imageGate) with pending := s.pending }) ∧
    (s.mbxWaits 2 = true → exec .mbxImageBegin s = .next
      { (if s.imageGate ≠ 0 then s.mbxEnd s.imageGate else if s.deliveryBusy 1 0 then s.mbxEnd 2
          else (s.modTrust (fun t => { t with delivery := some ⟨1, 0, [], 0⟩ })).mbxEnd 0) with pending := s.pending }) ∧
    (∀ d, s.mbxWaits 3 = true → s.trust.delivery = some d → d.source = 1 → 64 ≤ s.get Reg.secMbxControl_length →
      s.get Reg.secMbxControl_length ≤ 4096 →
      fieldAt s.mbxData 0 8 + (s.get Reg.secMbxControl_length - 64) ≤ 100663296 →
      exec .mbxImageData s = .next
        { (s.modTrust (fun t => { t with delivery := some (d.stage (fieldAt s.mbxData 0 8)
            ((s.mbxData.drop 64).take (s.get Reg.secMbxControl_length - 64))) })).mbxEnd 0 with pending := s.pending }) ∧
    (∀ d, s.mbxWaits 4 = true → s.trust.delivery = some d → d.source = 1 → s.imageGate = 0 →
      exec .mbxImageEnd s = .next
        { (s.mbxEnd (if s.acceptVerdict d.bytes = 0 then 0 else 3)).judgeImage d.bytes 1 with pending := s.pending }) ∧
    (∀ d, s.mbxWaits 5 = true → s.trust.delivery = some d → d.source = 1 →
      exec .mbxAbort s = .next
        { (s.modTrust (fun t => { t with delivery := none })).mbxEnd 0 with pending := s.pending })) ∧
  (∀ (s : State) (n : Nat) (pk : Packet), s.power.off = false → pkKind pk = 9 → s.portUp n = true →
    s.isFor (s.portPart n) (pkDest pk) = true →
    let v := (s.passPacket n pk).stampReceipt (pkStamp pk)
    (bulkOp pk = 7 → exec (.recoveryImageRequest n pk) s = .next
      { (if s.lifeState = 2 ∧ slice pk.data 64 64 = slice (s.trust.fuseHash.getD []) 0 64 then
          let b := v.imageBytes
          ((List.range (ceilDiv b.length 4032)).foldl (fun u k =>
            u.sendNeighbour n (k + 1 == ceilDiv b.length 4032) (bulkHeader 8 (k + 1 == ceilDiv b.length 4032) 0 (4032 * k) b.length 0)
              ((b.drop (4032 * k)).take 4032)) v).sendNeighbour n true (bulkHeader 9 true 0 0 0 0) []
        else v.count (Ctr.portStaleDrop n)) with pending := s.pending }) ∧
    (bulkOp pk = 8 → exec (.recoveryImageData n pk) s = .next
      { (if s.takesImage n pk then v.modTrust (fun t => { t with
            delivery := some ((v.trust.delivery.getD ⟨3, n, [], 0⟩).stage (fieldAt pk.data 8 8) ((pkData pk).drop 64)) })
        else v.count (Ctr.portStaleDrop n)) with pending := s.pending }) ∧
    (∀ d, bulkOp pk = 9 → s.takesImage n pk = true → s.trust.delivery = some d → v.trust.delivery = some d →
      exec (.recoveryImageEnd n pk) s = .next
        { v.judgeImage d.bytes 3 with pending := s.pending })) ∧
  (∀ (s : State), s.power.off = false → s.lifeState = 3 → s.trust.boot = none → s.trust.delivery = none →
    s.trust.writing = none →
    exec .recoveryPoll s = .next
      { (List.range (min 48 (12 * s.fitted.io))).foldl (fun s n =>
          if s.portState n = 2 then
            (s.sendNeighbour n true (bulkHeader 7 true 0 0 0 0) (slice (s.trust.fuseHash.getD []) 0 64)).modTrust (fun t =>
              { t with polled := t.polled.filter (· != n) ++ [n] })
          else if s.portUp n then s
          else s.set (Reg.fabPort_state n) 1) s with pending := s.pending })

/-- R416, R417: the requests outside sessions. Each is answered, GET_VERSION always and the others by any module that is
not RETIRED; a request for measurements is answered with the block or the eight blocks asked for, signed, and refused
for any other index. A RETIRED module answers GET_VERSION and GET_MEASUREMENTS, unsigned. The chunks of a request gather
from number 0 on. An answer changes nothing but what goes out, the chunks and the large response. The forms of the
replies are log entry 30. R418: sessions. KEY_EXCHANGE begins one that is not authenticated and asks for the requester's
digests and certificate; FINISH with a verified signature opens it, counted, as the owner's if the key hash is the
owner's; a failed one ends it with EV_SESSION_AUTH_FAIL and its count; heartbeats and key updates are acknowledged in an
open session; END_SESSION and three missed heartbeats close it with EV_SESSION_CLOSED and its cause. The cause of an end
that no rule names is log entry 59. -/
def Obligations.RequestsAndSessions : Prop :=
  ((∀ (s : State) (n : Nat), s.power.off = false → s.lifeState ≠ 4 →
     let answers := fun (t : State) (r : SpdmReply) => t.out.spdm = s.out.spdm ++ [r] ∧ s.same [.out, .trust] t ∧
       t.trust.sessions = s.trust.sessions ∧ t.trust.delivery = s.trust.delivery
     (∃ t, exec (.getVersion n) s = .next t ∧ answers t (.version [spdmVersion])) ∧
     (∃ t, exec (.getCapabilities n) s = .next t ∧ answers t (.capabilities spdmCaps)) ∧
     (∀ a, ∃ t, exec (.negotiateAlgorithms n a) s = .next t ∧ answers t (.algorithms (chooseAlgorithms a))) ∧
     (∃ t, exec (.getDigests n) s = .next t ∧ answers t (.digests (sha512 s.trust.chain))) ∧
     (∀ o l, ∃ t, exec (.getCertificate n o l) s = .next t ∧ answers t (.certificate ((s.trust.chain.drop o).take l))) ∧
     (∀ b, ∃ t, exec (.challenge n b) s = .next t ∧
       answers t (.challengeAuth b (s.sign (b ++ sha512 s.trust.chain)))) ∧
     (∀ i b, 1 ≤ i → i ≤ 8 → ∃ t, exec (.getMeasurements n i b) s = .next t ∧
       answers t (.measurements [(i, s.measure n i)] (s.sign (b ++ s.measure n i)))) ∧
     (∀ b, ∃ t, exec (.getMeasurements n 0xFF b) s = .next t ∧
       answers t (.measurements ([1, 2, 3, 4, 5, 6, 7, 8].map (fun i => (i, s.measure n i)))
         (s.sign (b ++ [1, 2, 3, 4, 5, 6, 7, 8].flatMap (fun i => s.measure n i))))) ∧
     (∀ i b, (i = 0 ∨ (8 < i ∧ i ≠ 0xFF)) → ∃ t, exec (.getMeasurements n i b) s = .next t ∧ answers t .refused) ∧
     (∀ k l b, ∃ t, exec (.chunkSend n k l b) s = .next t ∧ answers t (.chunkSendAck k) ∧
       (t.trust.chunks.find? (fun c => c.1 == n)).map (·.2) = some
         ((if k = 0 then [] else ((s.trust.chunks.find? (fun c => c.1 == n)).map (·.2)).getD []) ++ b)) ∧
     (∀ k, ∃ t, exec (.chunkGet n k) s = .next t ∧
       answers t (.chunkResponse k (decide (s.trust.large.length ≤ (k + 1) * Config.chunkBytes))
         ((s.trust.large.drop (k * Config.chunkBytes)).take Config.chunkBytes))) ∧
     (∀ c, ∃ t, exec (.unsupportedRequest n c) s = .next t ∧ answers t (.unsupported c))) ∧
   (∀ (s : State) (n a : Nat), s.power.off = false → s.lifeState = 4 →
     exec (.getCapabilities n) s = .next s ∧ exec (.getDigests n) s = .next s ∧ exec (.negotiateAlgorithms n a) s = .next s ∧
     (∀ i b, 1 ≤ i → i ≤ 8 → ∃ t, exec (.getMeasurements n i b) s = .next t ∧
       t.out.spdm = s.out.spdm ++ [.measurements [(i, s.measure n i)] []] ∧ s.same [.out] t) ∧
     ∃ t, exec (.getVersion n) s = .next t ∧ t.out.spdm = s.out.spdm ++ [.version [spdmVersion]] ∧ s.same [.out] t)) ∧
  ((∀ (s : State) (n : Nat) (b : List Byte), s.power.off = false → s.lifeState ≠ 4 →
     ∃ t, exec (.keyExchange n b) s = .next t ∧
       t.trust.sessions = s.trust.sessions ++ [⟨s.trust.nextSession + 1, false, false, none, [], 0⟩] ∧
       t.out.spdm = s.out.spdm ++ [.keyExchangeRsp (s.trust.nextSession + 1),
         .encapsulated (s.trust.nextSession + 1) .getDigests, .encapsulated (s.trust.nextSession + 1) .getCertificate] ∧ s.same [.trust, .out] t) ∧
   (∀ (s : State) (n : Nat) (a : FinishAuth) (x : Session), s.power.off = false → s.session n = some x → x.authed = false →
     (a.verified = false →
       ∃ t, exec (.finish n a) s = .next t ∧ t.trust.sessions = s.trust.sessions.filter (fun y => y.id != n) ∧
         t.counter Ctr.secAuthFailCount = min (s.counter Ctr.secAuthFailCount + 1) counterMax ∧
         t.pathHas Ev.sessionAuthFail UnitId.root {}) ∧
     (a.verified = true → s.trust.owner ≠ some a.keyHash →
       ∃ t, exec (.finish n a) s = .next t ∧
         t.trust.sessions = s.trust.sessions.map (fun y =>
           if y.id = n then { y with authed := true, owner := false, keyHash := a.keyHash } else y) ∧
         t.counter Ctr.secSessionsCount = min (s.counter Ctr.secSessionsCount + 1) counterMax ∧
         t.out.spdm = s.out.spdm ++ [.finishRsp n]) ∧
     (a.verified = true → s.trust.owner = some a.keyHash → (∀ y ∈ s.trust.sessions, y.authed = true → y.owner = false) →
       ∃ t, exec (.finish n a) s = .next t ∧ t.get Reg.secView_ownerSession = 1 ∧
         t.trust.sessions = s.trust.sessions.map (fun y =>
           if y.id = n then { y with authed := true, owner := true, keyHash := a.keyHash } else y))) ∧
   (∀ (s : State) (n op : Nat) (x : Session), s.power.off = false → s.openSession n = some x →
     exec (.heartbeat n) s = .next { s.reply .heartbeatAck with pending := s.pending } ∧
     exec (.keyUpdate n op) s = .next
       { (s.modSession n (fun y => { y with keys := y.keys + 1 })).reply (.keyUpdateAck op) with pending := s.pending } ∧
     exec (.endSession n) s = .next { (s.closeSession x 1).reply .endSessionAck with pending := s.pending } ∧
     exec (.heartbeatTimeout n) s = .next { s.closeSession x 2 with pending := s.pending }) ∧
   (∀ (s : State) (x : Session) (cause : Nat), x.owner = true →
     (s.closeSession x cause).get Reg.secView_fullView = 0 ∧ (s.closeSession x cause).get Reg.secView_ownerSession = 0 ∧
     (s.closeSession x cause).trust.sessions = s.trust.sessions.filter (fun y => y.id != x.id) ∧
     (s.closeSession x cause).pathHas Ev.sessionClosed UnitId.root { object := 0xFFFF, cause := cause }))

/-- R418 to R424, R428: the vendor commands. A session that may send the command has its effect, answered as done;
without an open session, or with one of the wrong kind or binding or in the wrong state, it is refused with
EV_VENDOR_CMD_REFUSED and the command's code, and nothing else changes. The commands of MANUFACTURE are Grenvor's, whose
keys an open predicate knows (log entry 59). -/
def Obligations.VendorCommandsNeedTheirSession : Prop :=
  (∀ (s : State) (n : Nat), s.power.off = false → s.lifeState ≠ 4 → s.openSession n = none →
    let no := fun (code : Nat) => ({ (s.raiseFor (s.boundOf n) Ev.vendorCmdRefused UnitId.root { object := code }).reply
      (.vendorRefused code) with pending := s.pending } : State)
    (∀ p, exec (.bindPartition n p) s = .next (no 0x01)) ∧ (∀ p l, exec (.setProtected n p l) s = .next (no 0x02)) ∧
    (∀ p k, exec (.setFabricKey n p k) s = .next (no 0x03)) ∧ exec (.sealBind n) s = .next (no 0x04) ∧
    exec (.unsealRegion n) s = .next (no 0x05) ∧ (∀ f, exec (.setView n f) s = .next (no 0x06)) ∧
    (∀ m, exec (.setPartitionMap n m) s = .next (no 0x07)) ∧ (∀ l x, exec (.lifecycle n l x) s = .next (no 0x08)) ∧
    exec (.takeOwnership n) s = .next (no 0x09) ∧ (∀ x, exec (.vendorReset n x) s = .next (no 0x0A)) ∧
    (∀ b, exec (.gradeRecord n b) s = .next (no 0x0B)) ∧ exec (.scanEnable n) s = .next (no 0x0C)) ∧
  (∀ (s : State) (n : Nat) (x : Session), s.power.off = false → s.lifeState ≠ 4 → s.openSession n = some x →
    let no := fun (code : Nat) => ({ (s.raiseFor (s.boundOf n) Ev.vendorCmdRefused UnitId.root { object := code }).reply
      (.vendorRefused code) with pending := s.pending } : State)
    (∀ p, (x.owner = true ∨ x.bound ≠ none ∨ s.partExists p = false ∨ s.trust.sessions.any (fun y => y.bound == some p) = true) →
      exec (.bindPartition n p) s = .next (no 0x01)) ∧
    (∀ p rs, (x.bound ≠ some p ∨ (s.part p).phase ≠ .idle ∨ 16 < rs.length ∨ rs.all (s.rangeGood p) = false) →
      exec (.setProtected n p rs) s = .next (no 0x02)) ∧
    (∀ p k, (x.bound ≠ some p ∨ (s.part p).phase ≠ .idle ∨ k.length ≠ 32) → exec (.setFabricKey n p k) s = .next (no 0x03)) ∧
    ((x.owner = true ∨ s.trust.holder ≠ none) → exec (.sealBind n) s = .next (no 0x04)) ∧
    ((x.owner = true ∨ x.bound = none ∨ s.trust.sealKey = false ∨ s.trust.holder ≠ some x.keyHash) →
      exec (.unsealRegion n) s = .next (no 0x05)) ∧
    (∀ f, x.owner = false → exec (.setView n f) s = .next (no 0x06)) ∧
    (∀ m, (x.owner = false ∨ s.allIdle = false ∨ s.plans ≠ [] ∨ mapValid m = false) →
      exec (.setPartitionMap n m) s = .next (no 0x07)) ∧
    (∀ l w, (x.owner = false ∨ s.anyAdmitted = true ∨ lifecycleLegal s.lifeState l = false) →
      exec (.lifecycle n l w) s = .next (no 0x08)) ∧
    (s.lifeState ≠ 1 → exec (.takeOwnership n) s = .next (no 0x09)) ∧
    (∀ w, x.owner = false → exec (.vendorReset n w) s = .next (no 0x0A)) ∧
    (∀ b, (x.owner = false ∨ s.lifeState ≠ 3 ∨ s.gradeGood b = false) → exec (.gradeRecord n b) s = .next (no 0x0B)) ∧
    ((x.owner = false ∨ s.lifeState ≠ 3) → (Config.isGrenvor x.keyHash = false ∨ s.lifeState ≠ 0) →
      exec (.scanEnable n) s = .next (no 0x0C))) ∧
  (∀ (s : State) (n : Nat) (x : Session), s.power.off = false → s.lifeState ≠ 4 → s.openSession n = some x →
    (∀ p, p < 4 → x.owner = false → x.bound = none → s.partExists p = true →
      s.trust.sessions.any (fun y => y.bound == some p) = false →
      exec (.bindPartition n p) s = .next
        { ((((s.reply (.vendorDone 0x01)).modSession x.id (fun y => { y with bound := some p })).set (Reg.secBound p) 1).noteHolder)
          with pending := s.pending }) ∧
    (∀ p rs, x.bound = some p → (s.part p).phase = .idle → rs.length ≤ 16 → rs.all (s.rangeGood p) = true →
      exec (.setProtected n p rs) s = .next
        { (if rs.all (fun r => r.size == 0) then s.reply (.vendorDone 0x02)
            else (s.reply (.vendorDone 0x02)).makeMemoryKey p).putRanges p rs with pending := s.pending }) ∧
    (∀ p k, x.bound = some p → (s.part p).phase = .idle → k.length = 32 →
      exec (.setFabricKey n p k) s = .next
        { ((s.reply (.vendorDone 0x03)).modPart p (fun q => { q with fabricKey := some k, fabricSent := 0 })).set
            (Reg.secFabricKey p) 1 with pending := s.pending }) ∧
    (x.owner = false → s.trust.holder = none →
      exec (.sealBind n) s = .next
        { ((s.reply (.vendorDone 0x04)).modTrust (fun t => { t with holder := some x.keyHash, sealKey := true })).noteHolder
          with pending := s.pending }) ∧
    (∀ p, x.owner = false → x.bound = some p → s.trust.sealKey = true → s.trust.holder = some x.keyHash →
      ∃ t, exec (.unsealRegion n) s = .next t ∧ t.trust.unsealed = some p ∧
        t.pathHas Ev.sealKeyReleased UnitId.root { object := p }) ∧
    (∀ full, x.owner = true →
      exec (.setView n full) s = .next
        { (s.reply (.vendorDone 0x06)).set Reg.secView_fullView (if full then 1 else 0) with pending := s.pending }) ∧
    (∀ m, x.owner = true → s.allIdle = true → s.plans = [] → mapValid m = true →
      exec (.setPartitionMap n m) s = .next { (s.reply (.vendorDone 0x07)).changeMap m with pending := s.pending }) ∧
    (∀ target w, x.owner = true → s.anyAdmitted = false → lifecycleLegal s.lifeState target = true →
      exec (.lifecycle n target w) s = .next
        { ((s.reply (.vendorDone 0x08)).transition target).startUp w with pending := s.pending }) ∧
    (s.lifeState = 1 →
      exec (.takeOwnership n) s = .next
        { ((s.reply (.vendorDone 0x09)).modTrust (fun t => { t with owner := some x.keyHash })).transition 2
          with pending := s.pending }) ∧
    (∀ w, x.owner = true →
      exec (.vendorReset n w) s = .next
        { ((s.reply (.vendorDone 0x0A)).resetModule 1).startUp w with pending := s.pending }) ∧
    (∀ b, x.owner = true → s.lifeState = 3 →
      exec (.gradeRecord n b) s = .next
        { (if s.gradeGood b then
            ({ ((s.reply (.vendorDone 0x0B)).set Reg.sysInvStatus_mismatch 0) with fitted := gradeOf b } : State).showGrade s.fitted
          else (s.raiseFor (s.boundOf n) Ev.vendorCmdRefused UnitId.root { object := 0x0B }).reply (.vendorRefused 0x0B))
          with pending := s.pending }) ∧
    ((x.owner = true ∧ s.lifeState = 3 ∨ Config.isGrenvor x.keyHash = true ∧ s.lifeState = 0) →
      ∃ t, exec (.scanEnable n) s = .next t ∧ t.mem = [] ∧ t.staging = [] ∧ t.plans = [] ∧ t.contexts = [] ∧ t.trust.sessions = [] ∧
        t.get Reg.secLifecycle_scan = 1 ∧ t.pathHas Ev.scanEnabled UnitId.root {}))

/-- R411: until ready reads 1 only the SYS, SEC and BIST blocks of BAR0 respond. A read of a register of any other block
answers all ones, latches nothing and raises no event, whatever its size and place; a write to one is discarded, with no
effect and no event, the writes that have rows of their own among them. -/
def Obligations.OtherBlocksWaitForReady : Prop :=
  ∀ (s : State), s.power.off = false → s.get Reg.secBootStatus_ready = 0 →
    let first := fun (a : Nat) => a < 0x100000 ∨ (0xD00000 ≤ a ∧ a < 0xF00000)
    (∀ a, first a → s.answers a = true ∧
      (a % 4 = 0 → RegMap.isPairHi a = false → isReserved a = false → s.noCore a = false → (RegMap.locate a).isSome = true →
        s.takesWrite a = true ∧ s.readWord a = s.wordNow a)) ∧
    (∀ a, ¬ first a → s.readWord a = 0xFFFFFFFF ∧
      (a % 4 = 0 → RegMap.isPairLo a = true → exec (.pairLowRead a) s = .next
        { s.answer (leBytes 0xFFFFFFFF 4) with pending := s.pending }) ∧
      (∀ size, ¬(size = 4 ∧ a % 4 = 0) → exec (.bar0BadSizeAccess a size false) s = .next
          { s.answer (List.replicate size 0xFF) with pending := s.pending } ∧
        exec (.bar0BadSizeAccess a size true) s = .next s) ∧
      (a % 4 = 0 → isReserved a = true → exec (.reservedRangeAccess a false) s = .next
          { s.answer (leBytes 0xFFFFFFFF 4) with pending := s.pending } ∧
        exec (.reservedRangeAccess a true) s = .next s) ∧
      (∀ w, exec (.registerWrite a w) s = .next s ∧ exec (.counterClear a w) s = .next s ∧
        exec (.pairLowWrite a w) s = .next s ∧ exec (.pairHighWrite a w) s = .next s)) ∧
    (∀ p q w, exec (.poolConfigWrite p q w) s = .next s ∧ exec (.tickStartWrite p w) s = .next s) ∧
    (∀ w, exec (.sealedSizeWrite w) s = .next s ∧ exec (.powerCapWrite w) s = .next s ∧
      exec (.layerReplaysClear w) s = .next s ∧ exec (.groupFreezeWrite w) s = .next s ∧
      exec (.takeoverWrite w) s = .next s) ∧
    (∀ n, exec (.ringReset n) s = .next s ∧ exec (.withdraw n) s = .next s ∧ exec (.portTakeDown n) s = .next s) ∧
    (∀ test, exec (.orderlyShutdown false test) s = .next s)
end

