-- ==== Sys2Proof/Laws/KeepsBase.lean ====
section
/-! SUPPORT. States that agree but for some fields: a record update, a fold, and what lets one list of fields stand for
another. -/

set_option Elab.async false

namespace Sys2Proof.Machine

/-- Every field of one list is in the other. -/
def covers (A B : List Field) : Bool := A.all B.contains

theorem covers_trans {A B C : List Field} (h : covers A B = true) (h2 : covers B C = true) : covers A C = true := by
  simp only [covers, List.all_eq_true] at *
  intro x hx
  have := h x hx
  exact h2 x (List.contains_iff_mem.mp (by simpa using this))

theorem mem_of_covers {A B : List Field} {k : Field} (h2 : covers A B = true) (h : A.contains k = true) : B.contains k = true := by
  simp only [covers, List.all_eq_true] at *
  exact h2 k (List.contains_iff_mem.mp h)

theorem State.same_refl (L : List Field) (s : State) : s.same L s := ⟨fun k _ => by cases k <;> rfl⟩

theorem State.mk_keeps {s0 s : State} {L : List Field} {x0 x1 x2 x3 x4 x5 x6 x7 x8 x9 x10 x11 x12 x13 x14 x15 x16 x17 x18 x19 x20 x21 x22 x23 x24 x25 x26 x27 x28 x29 x30 x31 x32 x33 x34 x35 x36 x37 x38 x39 x40 x41}
    (h0 : x0 = s.fitted ∨ L.contains Field.fitted = true)
    (h1 : x1 = s.regs ∨ L.contains Field.regs = true)
    (h2 : x2 = s.counters ∨ L.contains Field.counters = true)
    (h3 : x3 = s.coarse ∨ L.contains Field.coarse = true)
    (h4 : x4 = s.latch ∨ L.contains Field.latch = true)
    (h5 : x5 = s.held ∨ L.contains Field.held = true)
    (h6 : x6 = s.time ∨ L.contains Field.time = true)
    (h7 : x7 = s.seq ∨ L.contains Field.seq = true)
    (h8 : x8 = s.seqReported ∨ L.contains Field.seqReported = true)
    (h9 : x9 = s.stamped ∨ L.contains Field.stamped = true)
    (h10 : x10 = s.events ∨ L.contains Field.events = true)
    (h11 : x11 = s.mem ∨ L.contains Field.mem = true)
    (h12 : x12 = s.staging ∨ L.contains Field.staging = true)
    (h13 : x13 = s.neg ∨ L.contains Field.neg = true)
    (h14 : x14 = s.tags ∨ L.contains Field.tags = true)
    (h15 : x15 = s.negTags ∨ L.contains Field.negTags = true)
    (h16 : x16 = s.rings ∨ L.contains Field.rings = true)
    (h17 : x17 = s.pools ∨ L.contains Field.pools = true)
    (h18 : x18 = s.plans ∨ L.contains Field.plans = true)
    (h19 : x19 = s.parts ∨ L.contains Field.parts = true)
    (h20 : x20 = s.cores ∨ L.contains Field.cores = true)
    (h21 : x21 = s.tokens ∨ L.contains Field.tokens = true)
    (h22 : x22 = s.credits ∨ L.contains Field.credits = true)
    (h23 : x23 = s.layers ∨ L.contains Field.layers = true)
    (h24 : x24 = s.shapes ∨ L.contains Field.shapes = true)
    (h25 : x25 = s.searches ∨ L.contains Field.searches = true)
    (h26 : x26 = s.contexts ∨ L.contains Field.contexts = true)
    (h27 : x27 = s.pages ∨ L.contains Field.pages = true)
    (h28 : x28 = s.devDraws ∨ L.contains Field.devDraws = true)
    (h29 : x29 = s.devQueues ∨ L.contains Field.devQueues = true)
    (h30 : x30 = s.ports ∨ L.contains Field.ports = true)
    (h31 : x31 = s.tally ∨ L.contains Field.tally = true)
    (h32 : x32 = s.rowsUsed ∨ L.contains Field.rowsUsed = true)
    (h33 : x33 = s.retired ∨ L.contains Field.retired = true)
    (h34 : x34 = s.d2dDown ∨ L.contains Field.d2dDown = true)
    (h35 : x35 = s.intake ∨ L.contains Field.intake = true)
    (h36 : x36 = s.power ∨ L.contains Field.power = true)
    (h37 : x37 = s.trust ∨ L.contains Field.trust = true)
    (h38 : x38 = s.wards ∨ L.contains Field.wards = true)
    (h39 : x39 = s.out ∨ L.contains Field.out = true)
    (h40 : x40 = s.freeCtr ∨ L.contains Field.freeCtr = true)
    (h : s0.same L s) : s0.same L (State.mk x0 x1 x2 x3 x4 x5 x6 x7 x8 x9 x10 x11 x12 x13 x14 x15 x16 x17 x18 x19 x20 x21 x22 x23 x24 x25 x26 x27 x28 x29 x30 x31 x32 x33 x34 x35 x36 x37 x38 x39 x40 x41) := by
  refine ⟨fun k hk => ?_⟩
  have hs := h.on k hk
  cases k
  · exact (h0.resolve_right (by rw [hk]; exact Bool.false_ne_true)).trans hs
  · exact (h1.resolve_right (by rw [hk]; exact Bool.false_ne_true)).trans hs
  · exact (h2.resolve_right (by rw [hk]; exact Bool.false_ne_true)).trans hs
  · exact (h3.resolve_right (by rw [hk]; exact Bool.false_ne_true)).trans hs
  · exact (h4.resolve_right (by rw [hk]; exact Bool.false_ne_true)).trans hs
  · exact (h5.resolve_right (by rw [hk]; exact Bool.false_ne_true)).trans hs
  · exact (h6.resolve_right (by rw [hk]; exact Bool.false_ne_true)).trans hs
  · exact (h7.resolve_right (by rw [hk]; exact Bool.false_ne_true)).trans hs
  · exact (h8.resolve_right (by rw [hk]; exact Bool.false_ne_true)).trans hs
  · exact (h9.resolve_right (by rw [hk]; exact Bool.false_ne_true)).trans hs
  · exact (h10.resolve_right (by rw [hk]; exact Bool.false_ne_true)).trans hs
  · exact (h11.resolve_right (by rw [hk]; exact Bool.false_ne_true)).trans hs
  · exact (h12.resolve_right (by rw [hk]; exact Bool.false_ne_true)).trans hs
  · exact (h13.resolve_right (by rw [hk]; exact Bool.false_ne_true)).trans hs
  · exact (h14.resolve_right (by rw [hk]; exact Bool.false_ne_true)).trans hs
  · exact (h15.resolve_right (by rw [hk]; exact Bool.false_ne_true)).trans hs
  · exact (h16.resolve_right (by rw [hk]; exact Bool.false_ne_true)).trans hs
  · exact (h17.resolve_right (by rw [hk]; exact Bool.false_ne_true)).trans hs
  · exact (h18.resolve_right (by rw [hk]; exact Bool.false_ne_true)).trans hs
  · exact (h19.resolve_right (by rw [hk]; exact Bool.false_ne_true)).trans hs
  · exact (h20.resolve_right (by rw [hk]; exact Bool.false_ne_true)).trans hs
  · exact (h21.resolve_right (by rw [hk]; exact Bool.false_ne_true)).trans hs
  · exact (h22.resolve_right (by rw [hk]; exact Bool.false_ne_true)).trans hs
  · exact (h23.resolve_right (by rw [hk]; exact Bool.false_ne_true)).trans hs
  · exact (h24.resolve_right (by rw [hk]; exact Bool.false_ne_true)).trans hs
  · exact (h25.resolve_right (by rw [hk]; exact Bool.false_ne_true)).trans hs
  · exact (h26.resolve_right (by rw [hk]; exact Bool.false_ne_true)).trans hs
  · exact (h27.resolve_right (by rw [hk]; exact Bool.false_ne_true)).trans hs
  · exact (h28.resolve_right (by rw [hk]; exact Bool.false_ne_true)).trans hs
  · exact (h29.resolve_right (by rw [hk]; exact Bool.false_ne_true)).trans hs
  · exact (h30.resolve_right (by rw [hk]; exact Bool.false_ne_true)).trans hs
  · exact (h31.resolve_right (by rw [hk]; exact Bool.false_ne_true)).trans hs
  · exact (h32.resolve_right (by rw [hk]; exact Bool.false_ne_true)).trans hs
  · exact (h33.resolve_right (by rw [hk]; exact Bool.false_ne_true)).trans hs
  · exact (h34.resolve_right (by rw [hk]; exact Bool.false_ne_true)).trans hs
  · exact (h35.resolve_right (by rw [hk]; exact Bool.false_ne_true)).trans hs
  · exact (h36.resolve_right (by rw [hk]; exact Bool.false_ne_true)).trans hs
  · exact (h37.resolve_right (by rw [hk]; exact Bool.false_ne_true)).trans hs
  · exact (h38.resolve_right (by rw [hk]; exact Bool.false_ne_true)).trans hs
  · exact (h39.resolve_right (by rw [hk]; exact Bool.false_ne_true)).trans hs
  · exact (h40.resolve_right (by rw [hk]; exact Bool.false_ne_true)).trans hs

theorem foldl_keeps {α : Type} {s0 s : State} {L : List Field} (f : State → α → State) (l : List α)
    (hf : ∀ s x, s0.same L s → s0.same L (f s x)) (h : s0.same L s) : s0.same L (l.foldl f s) := by
  induction l generalizing s with
  | nil => exact h
  | cons x l ih => exact ih (hf _ _ h)

theorem foldl_fst_keeps {α β : Type} {s0 : State} {L : List Field} (f : State × β → α → State × β) (l : List α)
    {a : State × β} (hf : ∀ a x, s0.same L a.1 → s0.same L (f a x).1) (h : s0.same L a.1) : s0.same L (l.foldl f a).1 := by
  induction l generalizing a with
  | nil => exact h
  | cons x l ih => exact ih (hf _ _ h)

theorem foldl_snd_keeps {α β : Type} {s0 : State} {L : List Field} (f : β × State → α → β × State) (l : List α)
    {a : β × State} (hf : ∀ a x, s0.same L a.2 → s0.same L (f a x).2) (h : s0.same L a.2) : s0.same L (l.foldl f a).2 := by
  induction l generalizing a with
  | nil => exact h
  | cons x l ih => exact ih (hf _ _ h)

end Sys2Proof.Machine
end

