-- ==== Sys2Proof/Laws/Keeps1.lean ====
section
/-! SUPPORT. The fields an operation leaves alone, for the operations in Ops.lean, Flags.lean, Events.lean, Window.lean, Tensors.lean, Rings.lean. -/

set_option Elab.async false

namespace Sys2Proof.Machine

theorem State.setReg_keeps {s : State} {a : Nat} {v : Nat} {s0 : State} {L : List Field} (hL : covers [.regs] L = true) (h : s0.same L s) : s0.same L (State.setReg s a v) := by
  unfold State.setReg
  try dsimp only
  repeat' first
    | with_reducible assumption
    | with_reducible apply foldl_keeps
    | (intro _; intros; try dsimp only)
    | split
    | (with_reducible apply State.mk_keeps <;> first | exact Or.inr (mem_of_covers hL rfl) | with_reducible exact Or.inl rfl | skip)

theorem State.set_keeps {s : State} {f : Fld} {v : Nat} {s0 : State} {L : List Field} (hL : covers [.regs] L = true) (h : s0.same L s) : s0.same L (State.set s f v) := by
  unfold State.set
  try dsimp only
  repeat' first
    | with_reducible assumption
    | with_reducible apply State.setReg_keeps (covers_trans rfl hL)
    | with_reducible apply foldl_keeps
    | (intro _; intros; try dsimp only)
    | split
    | (with_reducible apply State.mk_keeps <;> first | exact Or.inr (mem_of_covers hL rfl) | with_reducible exact Or.inl rfl | skip)

theorem State.setPair_keeps {s : State} {lo : Nat} {v : Nat} {s0 : State} {L : List Field} (hL : covers [.regs] L = true) (h : s0.same L s) : s0.same L (State.setPair s lo v) := by
  unfold State.setPair
  try dsimp only
  repeat' first
    | with_reducible assumption
    | with_reducible apply State.setReg_keeps (covers_trans rfl hL)
    | with_reducible apply foldl_keeps
    | (intro _; intros; try dsimp only)
    | split
    | (with_reducible apply State.mk_keeps <;> first | exact Or.inr (mem_of_covers hL rfl) | with_reducible exact Or.inl rfl | skip)

theorem State.modPart_keeps {s : State} {p : Nat} {f : Part → Part} {s0 : State} {L : List Field} (hL : covers [.parts] L = true) (h : s0.same L s) : s0.same L (State.modPart s p f) := by
  unfold State.modPart
  try dsimp only
  repeat' first
    | with_reducible assumption
    | with_reducible apply foldl_keeps
    | (intro _; intros; try dsimp only)
    | split
    | (with_reducible apply State.mk_keeps <;> first | exact Or.inr (mem_of_covers hL rfl) | with_reducible exact Or.inl rfl | skip)

theorem State.whenOn_keeps {s : State} {f : State → State} {s0 : State} {L : List Field} (hL : covers [] L = true) (h : s0.same L s) (hf : ∀ (y0 : State), s0.same L y0 → s0.same L (f y0)) : s0.same L (State.whenOn s f) := by
  unfold State.whenOn
  try dsimp only
  repeat' first
    | with_reducible assumption
    | with_reducible apply hf
    | with_reducible apply foldl_keeps
    | (intro _; intros; try dsimp only)
    | split
    | (with_reducible apply State.mk_keeps <;> first | exact Or.inr (mem_of_covers hL rfl) | with_reducible exact Or.inl rfl | skip)

theorem State.rawHbm_keeps {s : State} {a : Nat} {bs : List Byte} {s0 : State} {L : List Field} (hL : covers [.mem, .tags] L = true) (h : s0.same L s) : s0.same L (State.rawHbm s a bs) := by
  unfold State.rawHbm
  try dsimp only
  repeat' first
    | with_reducible assumption
    | with_reducible apply foldl_keeps
    | (intro _; intros; try dsimp only)
    | split
    | (with_reducible apply State.mk_keeps <;> first | exact Or.inr (mem_of_covers hL rfl) | with_reducible exact Or.inl rfl | skip)

theorem State.rawNeg_keeps {s : State} {a : Nat} {bs : List Byte} {s0 : State} {L : List Field} (hL : covers [.neg, .negTags] L = true) (h : s0.same L s) : s0.same L (State.rawNeg s a bs) := by
  unfold State.rawNeg
  try dsimp only
  repeat' first
    | with_reducible assumption
    | with_reducible apply foldl_keeps
    | (intro _; intros; try dsimp only)
    | split
    | (with_reducible apply State.mk_keeps <;> first | exact Or.inr (mem_of_covers hL rfl) | with_reducible exact Or.inl rfl | skip)

theorem State.writeHbm_keeps {s : State} {p : Nat} {a : Nat} {bs : List Byte} {s0 : State} {L : List Field} (hL : covers [.mem, .tags] L = true) (h : s0.same L s) : s0.same L (State.writeHbm s p a bs) := by
  unfold State.writeHbm
  try dsimp only
  repeat' first
    | with_reducible assumption
    | with_reducible apply State.rawHbm_keeps (covers_trans rfl hL)
    | with_reducible apply foldl_keeps
    | (intro _; intros; try dsimp only)
    | split
    | (with_reducible apply State.mk_keeps <;> first | exact Or.inr (mem_of_covers hL rfl) | with_reducible exact Or.inl rfl | skip)

theorem State.writeWin_keeps {s : State} {p : Nat} {off : Nat} {bs : List Byte} {s0 : State} {L : List Field} (hL : covers [.mem, .tags] L = true) (h : s0.same L s) : s0.same L (State.writeWin s p off bs) := by
  unfold State.writeWin
  try dsimp only
  repeat' first
    | with_reducible assumption
    | with_reducible apply State.writeHbm_keeps (covers_trans rfl hL)
    | with_reducible apply foldl_keeps
    | (intro _; intros; try dsimp only)
    | split
    | (with_reducible apply State.mk_keeps <;> first | exact Or.inr (mem_of_covers hL rfl) | with_reducible exact Or.inl rfl | skip)

theorem State.setSleep_keeps {s : State} {u : PowerUnit} {d : Nat} {s0 : State} {L : List Field} (hL : covers [.power] L = true) (h : s0.same L s) : s0.same L (State.setSleep s u d) := by
  unfold State.setSleep
  try dsimp only
  repeat' first
    | with_reducible assumption
    | with_reducible apply foldl_keeps
    | (intro _; intros; try dsimp only)
    | split
    | (with_reducible apply State.mk_keeps <;> first | exact Or.inr (mem_of_covers hL rfl) | with_reducible exact Or.inl rfl | skip)

theorem State.leaveDeep_keeps {s : State} {s0 : State} {L : List Field} (hL : covers [.power] L = true) (h : s0.same L s) : s0.same L (State.leaveDeep s) := by
  unfold State.leaveDeep
  try dsimp only
  repeat' first
    | with_reducible assumption
    | with_reducible apply foldl_keeps
    | (intro _; intros; try dsimp only)
    | split
    | (with_reducible apply State.mk_keeps <;> first | exact Or.inr (mem_of_covers hL rfl) | with_reducible exact Or.inl rfl | skip)

theorem State.wake_keeps {s : State} {f : PowerUnit → Bool} {s0 : State} {L : List Field} (hL : covers [.power] L = true) (h : s0.same L s) : s0.same L (State.wake s f) := by
  unfold State.wake
  try dsimp only
  repeat' first
    | with_reducible assumption
    | with_reducible apply foldl_keeps
    | (intro _; intros; try dsimp only)
    | split
    | (with_reducible apply State.mk_keeps <;> first | exact Or.inr (mem_of_covers hL rfl) | with_reducible exact Or.inl rfl | skip)

theorem State.wakeHbm_keeps {s : State} {a : Nat} {n : Nat} {s0 : State} {L : List Field} (hL : covers [.power] L = true) (h : s0.same L s) : s0.same L (State.wakeHbm s a n) := by
  unfold State.wakeHbm
  try dsimp only
  repeat' first
    | with_reducible assumption
    | with_reducible apply State.wake_keeps (covers_trans rfl hL)
    | with_reducible apply foldl_keeps
    | (intro _; intros; try dsimp only)
    | split
    | (with_reducible apply State.mk_keeps <;> first | exact Or.inr (mem_of_covers hL rfl) | with_reducible exact Or.inl rfl | skip)

theorem State.modRing_keeps {s : State} {n : Nat} {f : Ring → Ring} {s0 : State} {L : List Field} (hL : covers [.rings] L = true) (h : s0.same L s) : s0.same L (State.modRing s n f) := by
  unfold State.modRing
  try dsimp only
  repeat' first
    | with_reducible assumption
    | with_reducible apply foldl_keeps
    | (intro _; intros; try dsimp only)
    | split
    | (with_reducible apply State.mk_keeps <;> first | exact Or.inr (mem_of_covers hL rfl) | with_reducible exact Or.inl rfl | skip)

theorem State.modPool_keeps {s : State} {p : Nat} {q : Nat} {f : Pool → Pool} {s0 : State} {L : List Field} (hL : covers [.pools] L = true) (h : s0.same L s) : s0.same L (State.modPool s p q f) := by
  unfold State.modPool
  try dsimp only
  repeat' first
    | with_reducible assumption
    | with_reducible apply foldl_keeps
    | (intro _; intros; try dsimp only)
    | split
    | (with_reducible apply State.mk_keeps <;> first | exact Or.inr (mem_of_covers hL rfl) | with_reducible exact Or.inl rfl | skip)

theorem State.hostWrite_keeps {s : State} {addr : Nat} {bs : List Byte} {s0 : State} {L : List Field} (hL : covers [.out] L = true) (h : s0.same L s) : s0.same L (State.hostWrite s addr bs) := by
  unfold State.hostWrite
  try dsimp only
  repeat' first
    | with_reducible assumption
    | with_reducible apply foldl_keeps
    | (intro _; intros; try dsimp only)
    | split
    | (with_reducible apply State.mk_keeps <;> first | exact Or.inr (mem_of_covers hL rfl) | with_reducible exact Or.inl rfl | skip)

theorem State.hostRead_keeps {s : State} {addr : Nat} {n : Nat} {s0 : State} {L : List Field} (hL : covers [.out] L = true) (h : s0.same L s) : s0.same L (State.hostRead s addr n) := by
  unfold State.hostRead
  try dsimp only
  repeat' first
    | with_reducible assumption
    | with_reducible apply foldl_keeps
    | (intro _; intros; try dsimp only)
    | split
    | (with_reducible apply State.mk_keeps <;> first | exact Or.inr (mem_of_covers hL rfl) | with_reducible exact Or.inl rfl | skip)

theorem State.sendIrq_keeps {s : State} {v : Nat} {s0 : State} {L : List Field} (hL : covers [.out] L = true) (h : s0.same L s) : s0.same L (State.sendIrq s v) := by
  unfold State.sendIrq
  try dsimp only
  repeat' first
    | with_reducible assumption
    | with_reducible apply foldl_keeps
    | (intro _; intros; try dsimp only)
    | split
    | (with_reducible apply State.mk_keeps <;> first | exact Or.inr (mem_of_covers hL rfl) | with_reducible exact Or.inl rfl | skip)

theorem State.answer_keeps {s : State} {bs : List Byte} {s0 : State} {L : List Field} (hL : covers [.out] L = true) (h : s0.same L s) : s0.same L (State.answer s bs) := by
  unfold State.answer
  try dsimp only
  repeat' first
    | with_reducible assumption
    | with_reducible apply foldl_keeps
    | (intro _; intros; try dsimp only)
    | split
    | (with_reducible apply State.mk_keeps <;> first | exact Or.inr (mem_of_covers hL rfl) | with_reducible exact Or.inl rfl | skip)

theorem State.leaveDevelopers_keeps {s : State} {c : Nat} {s0 : State} {L : List Field} (hL : covers [.devQueues] L = true) (h : s0.same L s) : s0.same L (State.leaveDevelopers s c) := by
  unfold State.leaveDevelopers
  try dsimp only
  repeat' first
    | with_reducible assumption
    | with_reducible apply foldl_keeps
    | (intro _; intros; try dsimp only)
    | split
    | (with_reducible apply State.mk_keeps <;> first | exact Or.inr (mem_of_covers hL rfl) | with_reducible exact Or.inl rfl | skip)

theorem State.takeFree_keeps {s : State} {w : Nat} {s0 : State} {L : List Field} (hL : covers [.freeCtr] L = true) (h : s0.same L s) : s0.same L (State.takeFree s w).2 := by
  unfold State.takeFree
  try dsimp only
  repeat' first
    | with_reducible assumption
    | with_reducible apply foldl_keeps
    | (intro _; intros; try dsimp only)
    | split
    | (with_reducible apply State.mk_keeps <;> first | exact Or.inr (mem_of_covers hL rfl) | with_reducible exact Or.inl rfl | skip)

theorem State.useFree_keeps {s : State} {n : Nat} {s0 : State} {L : List Field} (hL : covers [.freeCtr] L = true) (h : s0.same L s) : s0.same L (State.useFree s n) := by
  unfold State.useFree
  try dsimp only
  repeat' first
    | with_reducible assumption
    | with_reducible apply foldl_keeps
    | (intro _; intros; try dsimp only)
    | split
    | (with_reducible apply State.mk_keeps <;> first | exact Or.inr (mem_of_covers hL rfl) | with_reducible exact Or.inl rfl | skip)

theorem State.setSeqSaturated_keeps {s : State} {s0 : State} {L : List Field} (hL : covers [.regs] L = true) (h : s0.same L s) : s0.same L (State.setSeqSaturated s) := by
  unfold State.setSeqSaturated
  try dsimp only
  repeat' first
    | with_reducible assumption
    | with_reducible apply State.set_keeps (covers_trans rfl hL)
    | with_reducible apply foldl_keeps
    | (intro _; intros; try dsimp only)
    | split
    | (with_reducible apply State.mk_keeps <;> first | exact Or.inr (mem_of_covers hL rfl) | with_reducible exact Or.inl rfl | skip)

theorem State.toPath_keeps {s : State} {r : PathRec} {s0 : State} {L : List Field} (hL : covers [.events] L = true) (h : s0.same L s) : s0.same L (State.toPath s r) := by
  unfold State.toPath
  try dsimp only
  repeat' first
    | with_reducible assumption
    | with_reducible apply foldl_keeps
    | (intro _; intros; try dsimp only)
    | split
    | (with_reducible apply State.mk_keeps <;> first | exact Or.inr (mem_of_covers hL rfl) | with_reducible exact Or.inl rfl | skip)

theorem State.stampUsed_keeps {s : State} {s0 : State} {L : List Field} (hL : covers [.regs, .seq, .seqReported, .events] L = true) (h : s0.same L s) : s0.same L (State.stampUsed s) := by
  unfold State.stampUsed
  try dsimp only
  repeat' first
    | with_reducible assumption
    | with_reducible apply State.toPath_keeps (covers_trans rfl hL)
    | with_reducible apply State.setSeqSaturated_keeps (covers_trans rfl hL)
    | with_reducible apply foldl_keeps
    | (intro _; intros; try dsimp only)
    | split
    | (with_reducible apply State.mk_keeps <;> first | exact Or.inr (mem_of_covers hL rfl) | with_reducible exact Or.inl rfl | skip)

theorem State.issueStamp_keeps {s : State} {kind : Nat} {time : Nat} {s0 : State} {L : List Field} (hL : covers [.regs, .seq, .seqReported, .stamped, .events, .out] L = true) (h : s0.same L s) : s0.same L (State.issueStamp s kind time) := by
  unfold State.issueStamp
  try dsimp only
  repeat' first
    | with_reducible assumption
    | with_reducible apply State.stampUsed_keeps (covers_trans rfl hL)
    | with_reducible apply foldl_keeps
    | (intro _; intros; try dsimp only)
    | split
    | (with_reducible apply State.mk_keeps <;> first | exact Or.inr (mem_of_covers hL rfl) | with_reducible exact Or.inl rfl | skip)

theorem State.stampReceipt_keeps {s : State} {send : Stamp} {s0 : State} {L : List Field} (hL : covers [.regs, .seq, .seqReported, .stamped, .events, .out] L = true) (h : s0.same L s) : s0.same L (State.stampReceipt s send) := by
  unfold State.stampReceipt
  try dsimp only
  repeat' first
    | with_reducible assumption
    | with_reducible apply State.issueStamp_keeps (covers_trans rfl hL)
    | with_reducible apply foldl_keeps
    | (intro _; intros; try dsimp only)
    | split
    | (with_reducible apply State.mk_keeps <;> first | exact Or.inr (mem_of_covers hL rfl) | with_reducible exact Or.inl rfl | skip)

theorem State.raiseFor_keeps {s : State} {concern : Option Nat} {e : EvKind} {u : UnitId} {d : Detail} {s0 : State} {L : List Field} (hL : covers [.regs, .seq, .seqReported, .events] L = true) (h : s0.same L s) : s0.same L (State.raiseFor s concern e u d) := by
  unfold State.raiseFor
  try dsimp only
  repeat' first
    | with_reducible assumption
    | with_reducible apply State.toPath_keeps (covers_trans rfl hL)
    | with_reducible apply State.stampUsed_keeps (covers_trans rfl hL)
    | with_reducible apply foldl_keeps
    | (intro _; intros; try dsimp only)
    | split
    | (with_reducible apply State.mk_keeps <;> first | exact Or.inr (mem_of_covers hL rfl) | with_reducible exact Or.inl rfl | skip)

theorem State.raise_keeps {s : State} {e : EvKind} {u : UnitId} {d : optParam Detail { }} {s0 : State} {L : List Field} (hL : covers [.regs, .seq, .seqReported, .events] L = true) (h : s0.same L s) : s0.same L (State.raise s e u d) := by
  unfold State.raise
  try dsimp only
  repeat' first
    | with_reducible assumption
    | with_reducible apply State.raiseFor_keeps (covers_trans rfl hL)
    | with_reducible apply foldl_keeps
    | (intro _; intros; try dsimp only)
    | split
    | (with_reducible apply State.mk_keeps <;> first | exact Or.inr (mem_of_covers hL rfl) | with_reducible exact Or.inl rfl | skip)

theorem State.count_keeps {s : State} {lo : Nat} {n : optParam Nat 1} {s0 : State} {L : List Field} (hL : covers [.regs, .counters, .seq, .seqReported, .events] L = true) (h : s0.same L s) : s0.same L (State.count s lo n) := by
  unfold State.count
  try dsimp only
  repeat' first
    | with_reducible assumption
    | with_reducible apply State.raise_keeps (covers_trans rfl hL)
    | with_reducible apply foldl_keeps
    | (intro _; intros; try dsimp only)
    | split
    | (with_reducible apply State.mk_keeps <;> first | exact Or.inr (mem_of_covers hL rfl) | with_reducible exact Or.inl rfl | skip)

theorem State.clearCounter_keeps {s : State} {lo : Nat} {s0 : State} {L : List Field} (hL : covers [.counters] L = true) (h : s0.same L s) : s0.same L (State.clearCounter s lo) := by
  unfold State.clearCounter
  try dsimp only
  repeat' first
    | with_reducible assumption
    | with_reducible apply foldl_keeps
    | (intro _; intros; try dsimp only)
    | split
    | (with_reducible apply State.mk_keeps <;> first | exact Or.inr (mem_of_covers hL rfl) | with_reducible exact Or.inl rfl | skip)

theorem State.passTime_keeps {s : State} {s0 : State} {L : List Field} (hL : covers [.time] L = true) (h : s0.same L s) : s0.same L (State.passTime s) := by
  unfold State.passTime
  try dsimp only
  repeat' first
    | with_reducible assumption
    | with_reducible apply foldl_keeps
    | (intro _; intros; try dsimp only)
    | split
    | (with_reducible apply State.mk_keeps <;> first | exact Or.inr (mem_of_covers hL rfl) | with_reducible exact Or.inl rfl | skip)

theorem State.writeEventRing_keeps {s : State} {p : Nat} {r : EventRec} {s0 : State} {L : List Field} (hL : covers [.regs, .counters, .seq, .seqReported, .events, .mem, .tags, .out] L = true) (h : s0.same L s) : s0.same L (State.writeEventRing s p r) := by
  unfold State.writeEventRing
  try dsimp only
  repeat' first
    | with_reducible assumption
    | with_reducible apply State.set_keeps (covers_trans rfl hL)
    | with_reducible apply State.writeWin_keeps (covers_trans rfl hL)
    | with_reducible apply State.count_keeps (covers_trans rfl hL)
    | with_reducible apply State.sendIrq_keeps (covers_trans rfl hL)
    | with_reducible apply foldl_keeps
    | (intro _; intros; try dsimp only)
    | split
    | (with_reducible apply State.mk_keeps <;> first | exact Or.inr (mem_of_covers hL rfl) | with_reducible exact Or.inl rfl | skip)

theorem State.setOverrun_keeps {s : State} {p : Nat} {n : Nat} {s0 : State} {L : List Field} (hL : covers [.events] L = true) (h : s0.same L s) : s0.same L (State.setOverrun s p n) := by
  unfold State.setOverrun
  try dsimp only
  repeat' first
    | with_reducible assumption
    | with_reducible apply foldl_keeps
    | (intro _; intros; try dsimp only)
    | split
    | (with_reducible apply State.mk_keeps <;> first | exact Or.inr (mem_of_covers hL rfl) | with_reducible exact Or.inl rfl | skip)

theorem State.flushOverrun_keeps {s : State} {p : Nat} {s0 : State} {L : List Field} (hL : covers [.regs, .counters, .seq, .seqReported, .events, .mem, .tags, .out] L = true) (h : s0.same L s) : s0.same L (State.flushOverrun s p) := by
  unfold State.flushOverrun
  try dsimp only
  repeat' first
    | with_reducible assumption
    | with_reducible apply State.writeEventRing_keeps (covers_trans rfl hL)
    | with_reducible apply State.setOverrun_keeps (covers_trans rfl hL)
    | with_reducible apply State.stampUsed_keeps (covers_trans rfl hL)
    | with_reducible apply foldl_keeps
    | (intro _; intros; try dsimp only)
    | split
    | (with_reducible apply State.mk_keeps <;> first | exact Or.inr (mem_of_covers hL rfl) | with_reducible exact Or.inl rfl | skip)

theorem State.deliver_keeps {s : State} {p : Nat} {r : EventRec} {s0 : State} {L : List Field} (hL : covers [.regs, .counters, .seq, .seqReported, .events, .mem, .tags, .out] L = true) (h : s0.same L s) : s0.same L (State.deliver s p r) := by
  unfold State.deliver
  try dsimp only
  repeat' first
    | with_reducible assumption
    | with_reducible apply State.flushOverrun_keeps (covers_trans rfl hL)
    | with_reducible apply State.writeEventRing_keeps (covers_trans rfl hL)
    | with_reducible apply State.setOverrun_keeps (covers_trans rfl hL)
    | with_reducible apply State.set_keeps (covers_trans rfl hL)
    | with_reducible apply State.count_keeps (covers_trans rfl hL)
    | with_reducible apply foldl_keeps
    | (intro _; intros; try dsimp only)
    | split
    | (with_reducible apply State.mk_keeps <;> first | exact Or.inr (mem_of_covers hL rfl) | with_reducible exact Or.inl rfl | skip)

theorem State.accept_keeps {s : State} {r : PathRec} {s0 : State} {L : List Field} (hL : covers [.regs, .counters, .seq, .seqReported, .events, .mem, .tags, .out] L = true) (h : s0.same L s) : s0.same L (State.accept s r) := by
  unfold State.accept
  try dsimp only
  repeat' first
    | with_reducible assumption
    | with_reducible apply State.deliver_keeps (covers_trans rfl hL)
    | with_reducible apply foldl_keeps
    | (intro _; intros; try dsimp only)
    | split
    | (with_reducible apply State.mk_keeps <;> first | exact Or.inr (mem_of_covers hL rfl) | with_reducible exact Or.inl rfl | skip)

theorem doEventCollect_keeps {pathFull : Bool} {s : State} {s0 : State} {L : List Field} (hL : covers [.regs, .counters, .seq, .seqReported, .events, .mem, .tags, .out] L = true) (h : s0.same L s) : s0.same L (doEventCollect pathFull s) := by
  unfold doEventCollect
  try dsimp only
  repeat' first
    | with_reducible assumption
    | with_reducible apply State.count_keeps (covers_trans rfl hL)
    | with_reducible apply State.accept_keeps (covers_trans rfl hL)
    | with_reducible apply foldl_keeps
    | (intro _; intros; try dsimp only)
    | split
    | (with_reducible apply State.mk_keeps <;> first | exact Or.inr (mem_of_covers hL rfl) | with_reducible exact Or.inl rfl | skip)

theorem State.firstEventRing_keeps {s : State} {s0 : State} {L : List Field} (hL : covers [.regs, .counters, .seq, .seqReported, .events, .mem, .tags, .out] L = true) (h : s0.same L s) : s0.same L (State.firstEventRing s) := by
  unfold State.firstEventRing
  try dsimp only
  repeat' first
    | with_reducible assumption
    | with_reducible apply State.deliver_keeps (covers_trans rfl hL)
    | with_reducible apply foldl_keeps
    | (intro _; intros; try dsimp only)
    | split
    | (with_reducible apply State.mk_keeps <;> first | exact Or.inr (mem_of_covers hL rfl) | with_reducible exact Or.inl rfl | skip)

theorem State.reportClamp_keeps {s : State} {u : UnitId} {p : Nat} {c : Clamp} {s0 : State} {L : List Field} (hL : covers [.regs, .counters, .seq, .seqReported, .events, .mem, .tags, .parts] L = true) (h : s0.same L s) : s0.same L (State.reportClamp s u p c) := by
  unfold State.reportClamp
  try dsimp only
  repeat' first
    | with_reducible assumption
    | with_reducible apply State.raise_keeps (covers_trans rfl hL)
    | with_reducible apply State.count_keeps (covers_trans rfl hL)
    | with_reducible apply State.set_keeps (covers_trans rfl hL)
    | with_reducible apply State.writeWin_keeps (covers_trans rfl hL)
    | with_reducible apply State.modPart_keeps (covers_trans rfl hL)
    | with_reducible apply foldl_keeps
    | (intro _; intros; try dsimp only)
    | split
    | (with_reducible apply State.mk_keeps <;> first | exact Or.inr (mem_of_covers hL rfl) | with_reducible exact Or.inl rfl | skip)

theorem State.modSlot_keeps {s : State} {p : Nat} {q : Nat} {i : Nat} {f : Slot → Slot} {s0 : State} {L : List Field} (hL : covers [.pools] L = true) (h : s0.same L s) : s0.same L (State.modSlot s p q i f) := by
  unfold State.modSlot
  try dsimp only
  repeat' first
    | with_reducible assumption
    | with_reducible apply State.modPool_keeps (covers_trans rfl hL)
    | with_reducible apply foldl_keeps
    | (intro _; intros; try dsimp only)
    | split
    | (with_reducible apply State.mk_keeps <;> first | exact Or.inr (mem_of_covers hL rfl) | with_reducible exact Or.inl rfl | skip)

theorem State.winIrq_keeps {s : State} {p : Nat} {s0 : State} {L : List Field} (hL : covers [.out] L = true) (h : s0.same L s) : s0.same L (State.winIrq s p) := by
  unfold State.winIrq
  try dsimp only
  repeat' first
    | with_reducible assumption
    | with_reducible apply State.sendIrq_keeps (covers_trans rfl hL)
    | with_reducible apply foldl_keeps
    | (intro _; intros; try dsimp only)
    | split
    | (with_reducible apply State.mk_keeps <;> first | exact Or.inr (mem_of_covers hL rfl) | with_reducible exact Or.inl rfl | skip)

theorem State.winIrqs_keeps {s : State} {p : Nat} {a : Nat} {s0 : State} {L : List Field} (hL : covers [.out] L = true) (h : s0.same L s) : s0.same L (State.winIrqs s p a) := by
  induction a generalizing s with
  | zero => exact h
  | succ n ih => exact ih (State.winIrq_keeps (covers_trans rfl hL) h)

theorem State.handOver_keeps {s : State} {p : Nat} {q : Nat} {i : Nat} {st : SlotState} {s0 : State} {L : List Field} (hL : covers [.pools, .out] L = true) (h : s0.same L s) : s0.same L (State.handOver s p q i st) := by
  unfold State.handOver
  try dsimp only
  repeat' first
    | with_reducible assumption
    | with_reducible apply State.winIrq_keeps (covers_trans rfl hL)
    | with_reducible apply State.modSlot_keeps (covers_trans rfl hL)
    | with_reducible apply foldl_keeps
    | (intro _; intros; try dsimp only)
    | split
    | (with_reducible apply State.mk_keeps <;> first | exact Or.inr (mem_of_covers hL rfl) | with_reducible exact Or.inl rfl | skip)

theorem State.consumeSlot_keeps {s : State} {p : Nat} {q : Nat} {i : Nat} {s0 : State} {L : List Field} (hL : covers [.regs, .counters, .seq, .seqReported, .events, .pools] L = true) (h : s0.same L s) : s0.same L (State.consumeSlot s p q i) := by
  unfold State.consumeSlot
  try dsimp only
  repeat' first
    | with_reducible assumption
    | with_reducible apply State.count_keeps (covers_trans rfl hL)
    | with_reducible apply State.modSlot_keeps (covers_trans rfl hL)
    | with_reducible apply foldl_keeps
    | (intro _; intros; try dsimp only)
    | split
    | (with_reducible apply State.mk_keeps <;> first | exact Or.inr (mem_of_covers hL rfl) | with_reducible exact Or.inl rfl | skip)

theorem State.releaseSlot_keeps {s : State} {p : Nat} {q : Nat} {i : Nat} {s0 : State} {L : List Field} (hL : covers [.pools, .out] L = true) (h : s0.same L s) : s0.same L (State.releaseSlot s p q i) := by
  unfold State.releaseSlot
  try dsimp only
  repeat' first
    | with_reducible assumption
    | with_reducible apply State.handOver_keeps (covers_trans rfl hL)
    | with_reducible apply foldl_keeps
    | (intro _; intros; try dsimp only)
    | split
    | (with_reducible apply State.mk_keeps <;> first | exact Or.inr (mem_of_covers hL rfl) | with_reducible exact Or.inl rfl | skip)

theorem State.disablePool_keeps {s : State} {p : Nat} {q : Nat} {s0 : State} {L : List Field} (hL : covers [.pools, .intake] L = true) (h : s0.same L s) : s0.same L (State.disablePool s p q) := by
  unfold State.disablePool
  try dsimp only
  repeat' first
    | with_reducible assumption
    | with_reducible apply State.modPool_keeps (covers_trans rfl hL)
    | with_reducible apply foldl_keeps
    | (intro _; intros; try dsimp only)
    | split
    | (with_reducible apply State.mk_keeps <;> first | exact Or.inr (mem_of_covers hL rfl) | with_reducible exact Or.inl rfl | skip)

theorem State.enablePool_keeps {s : State} {p : Nat} {q : Nat} {use : Nat} {s0 : State} {L : List Field} (hL : covers [.pools, .out] L = true) (h : s0.same L s) : s0.same L (State.enablePool s p q use) := by
  unfold State.enablePool
  try dsimp only
  repeat' first
    | with_reducible assumption
    | with_reducible apply State.modPool_keeps (covers_trans rfl hL)
    | with_reducible apply State.winIrqs_keeps (covers_trans rfl hL)
    | with_reducible apply foldl_keeps
    | (intro _; intros; try dsimp only)
    | split
    | (with_reducible apply State.mk_keeps <;> first | exact Or.inr (mem_of_covers hL rfl) | with_reducible exact Or.inl rfl | skip)

theorem State.winBad_keeps {s : State} {p : Nat} {off : Nat} {s0 : State} {L : List Field} (hL : covers [.regs, .seq, .seqReported, .events] L = true) (h : s0.same L s) : s0.same L (State.winBad s p off) := by
  unfold State.winBad
  try dsimp only
  repeat' first
    | with_reducible assumption
    | with_reducible apply State.raise_keeps (covers_trans rfl hL)
    | with_reducible apply State.set_keeps (covers_trans rfl hL)
    | with_reducible apply foldl_keeps
    | (intro _; intros; try dsimp only)
    | split
    | (with_reducible apply State.mk_keeps <;> first | exact Or.inr (mem_of_covers hL rfl) | with_reducible exact Or.inl rfl | skip)

theorem State.putWinByte_keeps {s : State} {p : Nat} {off : Nat} {b : Byte} {s0 : State} {L : List Field} (hL : covers [.mem, .tags, .pools] L = true) (h : s0.same L s) : s0.same L (State.putWinByte s p off b) := by
  unfold State.putWinByte
  try dsimp only
  repeat' first
    | with_reducible assumption
    | with_reducible apply State.modSlot_keeps (covers_trans rfl hL)
    | with_reducible apply State.writeWin_keeps (covers_trans rfl hL)
    | with_reducible apply foldl_keeps
    | (intro _; intros; try dsimp only)
    | split
    | (with_reducible apply State.mk_keeps <;> first | exact Or.inr (mem_of_covers hL rfl) | with_reducible exact Or.inl rfl | skip)

theorem State.wakeWin_keeps {s : State} {p : Nat} {off : Nat} {n : Nat} {s0 : State} {L : List Field} (hL : covers [.power] L = true) (h : s0.same L s) : s0.same L (State.wakeWin s p off n) := by
  unfold State.wakeWin
  try dsimp only
  repeat' first
    | with_reducible assumption
    | with_reducible apply State.wakeHbm_keeps (covers_trans rfl hL)
    | with_reducible apply foldl_keeps
    | (intro _; intros; try dsimp only)
    | split
    | (with_reducible apply State.mk_keeps <;> first | exact Or.inr (mem_of_covers hL rfl) | with_reducible exact Or.inl rfl | skip)

theorem doWindowRead_keeps {p : Nat} {offset : Nat} {len : Nat} {s : State} {s0 : State} {L : List Field} (hL : covers [.regs, .seq, .seqReported, .events, .power, .out] L = true) (h : s0.same L s) : s0.same L (doWindowRead p offset len s) := by
  unfold doWindowRead
  try dsimp only
  repeat' first
    | with_reducible assumption
    | with_reducible apply State.wakeWin_keeps (covers_trans rfl hL)
    | with_reducible apply State.answer_keeps (covers_trans rfl hL)
    | with_reducible apply State.winBad_keeps (covers_trans rfl hL)
    | with_reducible apply foldl_keeps
    | (intro _; intros; try dsimp only)
    | split
    | (with_reducible apply State.mk_keeps <;> first | exact Or.inr (mem_of_covers hL rfl) | with_reducible exact Or.inl rfl | skip)

theorem doWinAccessBad_keeps {bar : Nat} {offset : Nat} {write : Bool} {s : State} {s0 : State} {L : List Field} (hL : covers [.regs, .seq, .seqReported, .events, .out] L = true) (h : s0.same L s) : s0.same L (doWinAccessBad bar offset write s) := by
  unfold doWinAccessBad
  try dsimp only
  repeat' first
    | with_reducible assumption
    | with_reducible apply State.answer_keeps (covers_trans rfl hL)
    | with_reducible apply State.raise_keeps (covers_trans rfl hL)
    | with_reducible apply State.winBad_keeps (covers_trans rfl hL)
    | with_reducible apply foldl_keeps
    | (intro _; intros; try dsimp only)
    | split
    | (with_reducible apply State.mk_keeps <;> first | exact Or.inr (mem_of_covers hL rfl) | with_reducible exact Or.inl rfl | skip)

theorem State.refuseFlip_keeps {s : State} {p : Nat} {q : Nat} {i : Nat} {gen : Nat} {s0 : State} {L : List Field} (hL : covers [.regs, .counters, .seq, .seqReported, .events] L = true) (h : s0.same L s) : s0.same L (State.refuseFlip s p q i gen) := by
  unfold State.refuseFlip
  try dsimp only
  repeat' first
    | with_reducible assumption
    | with_reducible apply State.raise_keeps (covers_trans rfl hL)
    | with_reducible apply State.count_keeps (covers_trans rfl hL)
    | with_reducible apply foldl_keeps
    | (intro _; intros; try dsimp only)
    | split
    | (with_reducible apply State.mk_keeps <;> first | exact Or.inr (mem_of_covers hL rfl) | with_reducible exact Or.inl rfl | skip)

theorem State.joinIntake_keeps {s : State} {p : Nat} {q : Nat} {i : Nat} {s0 : State} {L : List Field} (hL : covers [.intake] L = true) (h : s0.same L s) : s0.same L (State.joinIntake s p q i) := by
  unfold State.joinIntake
  try dsimp only
  repeat' first
    | with_reducible assumption
    | with_reducible apply foldl_keeps
    | (intro _; intros; try dsimp only)
    | split
    | (with_reducible apply State.mk_keeps <;> first | exact Or.inr (mem_of_covers hL rfl) | with_reducible exact Or.inl rfl | skip)

theorem State.flip_keeps {s : State} {p : Nat} {pool : Nat} {slot : Nat} {value : BitVec 64} {s0 : State} {L : List Field} (hL : covers [.regs, .counters, .seq, .seqReported, .events, .pools, .intake, .out] L = true) (h : s0.same L s) : s0.same L (State.flip s p pool slot value) := by
  unfold State.flip
  try dsimp only
  repeat' first
    | with_reducible assumption
    | with_reducible apply State.refuseFlip_keeps (covers_trans rfl hL)
    | with_reducible apply State.modSlot_keeps (covers_trans rfl hL)
    | with_reducible apply State.joinIntake_keeps (covers_trans rfl hL)
    | with_reducible apply State.handOver_keeps (covers_trans rfl hL)
    | with_reducible apply foldl_keeps
    | (intro _; intros; try dsimp only)
    | split
    | (with_reducible apply State.mk_keeps <;> first | exact Or.inr (mem_of_covers hL rfl) | with_reducible exact Or.inl rfl | skip)

theorem doSlotFlip_keeps {p : Nat} {pool : Nat} {slot : Nat} {value : BitVec 64} {s : State} {s0 : State} {L : List Field} (hL : covers [.regs, .counters, .seq, .seqReported, .events, .pools, .intake, .out] L = true) (h : s0.same L s) : s0.same L (doSlotFlip p pool slot value s) := by
  unfold doSlotFlip
  try dsimp only
  repeat' first
    | with_reducible assumption
    | with_reducible apply State.flip_keeps (covers_trans rfl hL)
    | with_reducible apply foldl_keeps
    | (intro _; intros; try dsimp only)
    | split
    | (with_reducible apply State.mk_keeps <;> first | exact Or.inr (mem_of_covers hL rfl) | with_reducible exact Or.inl rfl | skip)

theorem State.putWin_keeps {s : State} {p : Nat} {off : Nat} {a : List Byte} {s0 : State} {L : List Field} (hL : covers [.mem, .tags, .pools] L = true) (h : s0.same L s) : s0.same L (State.putWin s p off a) := by
  induction a generalizing s off with
  | nil => exact h
  | cons b bs ih =>
    simp only [State.putWin]
    apply ih
    split
    · exact State.putWinByte_keeps (covers_trans rfl hL) h
    · exact h

theorem State.refuseFlags_keeps {s : State} {p : Nat} {off : Nat} {bytes : List Byte} {s0 : State} {L : List Field} (hL : covers [.regs, .counters, .seq, .seqReported, .events] L = true) (h : s0.same L s) : s0.same L (State.refuseFlags s p off bytes) := by
  unfold State.refuseFlags
  try dsimp only
  repeat' first
    | with_reducible assumption
    | with_reducible apply State.refuseFlip_keeps (covers_trans rfl hL)
    | with_reducible apply foldl_keeps
    | (intro _; intros; try dsimp only)
    | split
    | (with_reducible apply State.mk_keeps <;> first | exact Or.inr (mem_of_covers hL rfl) | with_reducible exact Or.inl rfl | skip)

theorem doWindowWrite_keeps {p : Nat} {offset : Nat} {bytes : List Byte} {s : State} {s0 : State} {L : List Field} (hL : covers [.regs, .counters, .seq, .seqReported, .events, .mem, .tags, .pools, .intake, .power, .out] L = true) (h : s0.same L s) : s0.same L (doWindowWrite p offset bytes s) := by
  unfold doWindowWrite
  try dsimp only
  repeat' first
    | with_reducible assumption
    | with_reducible apply State.flip_keeps (covers_trans rfl hL)
    | with_reducible apply State.refuseFlags_keeps (covers_trans rfl hL)
    | with_reducible apply State.putWin_keeps (covers_trans rfl hL)
    | with_reducible apply State.wakeWin_keeps (covers_trans rfl hL)
    | with_reducible apply State.winBad_keeps (covers_trans rfl hL)
    | with_reducible apply foldl_keeps
    | (intro _; intros; try dsimp only)
    | split
    | (with_reducible apply State.mk_keeps <;> first | exact Or.inr (mem_of_covers hL rfl) | with_reducible exact Or.inl rfl | skip)

theorem State.advanceTo_keeps {s : State} {t : Nat} {s0 : State} {L : List Field} (hL : covers [.time] L = true) (h : s0.same L s) : s0.same L (State.advanceTo s t) := by
  unfold State.advanceTo
  try dsimp only
  repeat' first
    | with_reducible assumption
    | with_reducible apply foldl_keeps
    | (intro _; intros; try dsimp only)
    | split
    | (with_reducible apply State.mk_keeps <;> first | exact Or.inr (mem_of_covers hL rfl) | with_reducible exact Or.inl rfl | skip)

theorem doSlotTimeout_keeps {p : Nat} {pool : Nat} {slot : Nat} {s : State} {s0 : State} {L : List Field} (hL : covers [.regs, .counters, .time, .seq, .seqReported, .events, .pools, .out] L = true) (h : s0.same L s) : s0.same L (doSlotTimeout p pool slot s) := by
  unfold doSlotTimeout
  try dsimp only
  repeat' first
    | with_reducible assumption
    | with_reducible apply State.advanceTo_keeps (covers_trans rfl hL)
    | with_reducible apply State.count_keeps (covers_trans rfl hL)
    | with_reducible apply State.handOver_keeps (covers_trans rfl hL)
    | with_reducible apply State.modSlot_keeps (covers_trans rfl hL)
    | with_reducible apply State.raise_keeps (covers_trans rfl hL)
    | with_reducible apply foldl_keeps
    | (intro _; intros; try dsimp only)
    | split
    | (with_reducible apply State.mk_keeps <;> first | exact Or.inr (mem_of_covers hL rfl) | with_reducible exact Or.inl rfl | skip)

theorem State.emit_keeps {s : State} {p : Nat} {q : Nat} {x3 : OutputHeader} {payload : List Byte} {s0 : State} {L : List Field} (hL : covers [.regs, .counters, .seq, .seqReported, .events, .mem, .tags, .pools, .out] L = true) (h : s0.same L s) : s0.same L (State.emit s p q x3 payload) := by
  unfold State.emit
  try dsimp only
  repeat' first
    | with_reducible assumption
    | with_reducible apply State.modPool_keeps (covers_trans rfl hL)
    | with_reducible apply State.count_keeps (covers_trans rfl hL)
    | with_reducible apply State.writeWin_keeps (covers_trans rfl hL)
    | with_reducible apply State.modSlot_keeps (covers_trans rfl hL)
    | with_reducible apply State.handOver_keeps (covers_trans rfl hL)
    | with_reducible apply foldl_keeps
    | (intro _; intros; try dsimp only)
    | split
    | (with_reducible apply State.mk_keeps <;> first | exact Or.inr (mem_of_covers hL rfl) | with_reducible exact Or.inl rfl | skip)

theorem State.writeReport_keeps {s : State} {p : Nat} {q : Nat} {i : Nat} {report : List Byte} {s0 : State} {L : List Field} (hL : covers [.mem, .tags, .pools, .out] L = true) (h : s0.same L s) : s0.same L (State.writeReport s p q i report) := by
  unfold State.writeReport
  try dsimp only
  repeat' first
    | with_reducible assumption
    | with_reducible apply State.writeWin_keeps (covers_trans rfl hL)
    | with_reducible apply State.modSlot_keeps (covers_trans rfl hL)
    | with_reducible apply State.handOver_keeps (covers_trans rfl hL)
    | with_reducible apply foldl_keeps
    | (intro _; intros; try dsimp only)
    | split
    | (with_reducible apply State.mk_keeps <;> first | exact Or.inr (mem_of_covers hL rfl) | with_reducible exact Or.inl rfl | skip)

theorem State.reportStarved_keeps {s : State} {p : Nat} {s0 : State} {L : List Field} (hL : covers [.regs, .seq, .seqReported, .events, .pools] L = true) (h : s0.same L s) : s0.same L (State.reportStarved s p) := by
  unfold State.reportStarved
  try dsimp only
  repeat' first
    | with_reducible assumption
    | with_reducible apply State.raise_keeps (covers_trans rfl hL)
    | with_reducible apply State.modPool_keeps (covers_trans rfl hL)
    | with_reducible apply foldl_keeps
    | (intro _; intros; try dsimp only)
    | split
    | (with_reducible apply State.mk_keeps <;> first | exact Or.inr (mem_of_covers hL rfl) | with_reducible exact Or.inl rfl | skip)

theorem State.writeSpace_keeps {s : State} {p : Nat} {space : Nat} {a : Nat} {bs : List Byte} {s0 : State} {L : List Field} (hL : covers [.mem, .staging, .neg, .tags, .negTags] L = true) (h : s0.same L s) : s0.same L (State.writeSpace s p space a bs) := by
  unfold State.writeSpace
  try dsimp only
  repeat' first
    | with_reducible assumption
    | with_reducible apply State.rawHbm_keeps (covers_trans rfl hL)
    | with_reducible apply State.rawNeg_keeps (covers_trans rfl hL)
    | with_reducible apply foldl_keeps
    | (intro _; intros; try dsimp only)
    | split
    | (with_reducible apply State.mk_keeps <;> first | exact Or.inr (mem_of_covers hL rfl) | with_reducible exact Or.inl rfl | skip)

theorem State.noteFull_keeps {s : State} {n : Nat} {s0 : State} {L : List Field} (hL : covers [.regs] L = true) (h : s0.same L s) : s0.same L (State.noteFull s n) := by
  unfold State.noteFull
  try dsimp only
  repeat' first
    | with_reducible assumption
    | with_reducible apply State.set_keeps (covers_trans rfl hL)
    | with_reducible apply foldl_keeps
    | (intro _; intros; try dsimp only)
    | split
    | (with_reducible apply State.mk_keeps <;> first | exact Or.inr (mem_of_covers hL rfl) | with_reducible exact Or.inl rfl | skip)

theorem State.ringError_keeps {s : State} {n : Nat} {s0 : State} {L : List Field} (hL : covers [.regs] L = true) (h : s0.same L s) : s0.same L (State.ringError s n) := by
  unfold State.ringError
  try dsimp only
  repeat' first
    | with_reducible assumption
    | with_reducible apply State.set_keeps (covers_trans rfl hL)
    | with_reducible apply foldl_keeps
    | (intro _; intros; try dsimp only)
    | split
    | (with_reducible apply State.mk_keeps <;> first | exact Or.inr (mem_of_covers hL rfl) | with_reducible exact Or.inl rfl | skip)

theorem State.refuseDoorbell_keeps {s : State} {n : Nat} {value : Nat} {cause : Nat} {s0 : State} {L : List Field} (hL : covers [.regs, .counters, .seq, .seqReported, .events] L = true) (h : s0.same L s) : s0.same L (State.refuseDoorbell s n value cause) := by
  unfold State.refuseDoorbell
  try dsimp only
  repeat' first
    | with_reducible assumption
    | with_reducible apply State.raise_keeps (covers_trans rfl hL)
    | with_reducible apply State.count_keeps (covers_trans rfl hL)
    | with_reducible apply State.set_keeps (covers_trans rfl hL)
    | with_reducible apply State.ringError_keeps (covers_trans rfl hL)
    | with_reducible apply foldl_keeps
    | (intro _; intros; try dsimp only)
    | split
    | (with_reducible apply State.mk_keeps <;> first | exact Or.inr (mem_of_covers hL rfl) | with_reducible exact Or.inl rfl | skip)

theorem doDoorbellTail_keeps {ring : Nat} {value : Word} {s : State} {s0 : State} {L : List Field} (hL : covers [.regs, .counters, .seq, .seqReported, .events] L = true) (h : s0.same L s) : s0.same L (doDoorbellTail ring value s) := by
  unfold doDoorbellTail
  try dsimp only
  repeat' first
    | with_reducible assumption
    | with_reducible apply State.set_keeps (covers_trans rfl hL)
    | with_reducible apply State.refuseDoorbell_keeps (covers_trans rfl hL)
    | with_reducible apply foldl_keeps
    | (intro _; intros; try dsimp only)
    | split
    | (with_reducible apply State.mk_keeps <;> first | exact Or.inr (mem_of_covers hL rfl) | with_reducible exact Or.inl rfl | skip)

theorem doDoorbellCompletionHead_keeps {ring : Nat} {value : Word} {s : State} {s0 : State} {L : List Field} (hL : covers [.regs, .counters, .seq, .seqReported, .events] L = true) (h : s0.same L s) : s0.same L (doDoorbellCompletionHead ring value s) := by
  unfold doDoorbellCompletionHead
  try dsimp only
  repeat' first
    | with_reducible assumption
    | with_reducible apply State.refuseDoorbell_keeps (covers_trans rfl hL)
    | with_reducible apply State.noteFull_keeps (covers_trans rfl hL)
    | with_reducible apply State.set_keeps (covers_trans rfl hL)
    | with_reducible apply foldl_keeps
    | (intro _; intros; try dsimp only)
    | split
    | (with_reducible apply State.mk_keeps <;> first | exact Or.inr (mem_of_covers hL rfl) | with_reducible exact Or.inl rfl | skip)

theorem doDoorbellBad_keeps {ring : Nat} {offset : Nat} {size : Nat} {value : Nat} {s : State} {s0 : State} {L : List Field} (hL : covers [.regs, .seq, .seqReported, .events] L = true) (h : s0.same L s) : s0.same L (doDoorbellBad ring offset size value s) := by
  unfold doDoorbellBad
  try dsimp only
  repeat' first
    | with_reducible assumption
    | with_reducible apply State.raise_keeps (covers_trans rfl hL)
    | with_reducible apply foldl_keeps
    | (intro _; intros; try dsimp only)
    | split
    | (with_reducible apply State.mk_keeps <;> first | exact Or.inr (mem_of_covers hL rfl) | with_reducible exact Or.inl rfl | skip)

theorem State.finish_keeps {s : State} {n : Nat} {d : Started} {st : Status} {detail : optParam Nat 0} {s0 : State} {L : List Field} (hL : covers [.rings] L = true) (h : s0.same L s) : s0.same L (State.finish s n d st detail) := by
  unfold State.finish
  try dsimp only
  repeat' first
    | with_reducible assumption
    | with_reducible apply State.modRing_keeps (covers_trans rfl hL)
    | with_reducible apply foldl_keeps
    | (intro _; intros; try dsimp only)
    | split
    | (with_reducible apply State.mk_keeps <;> first | exact Or.inr (mem_of_covers hL rfl) | with_reducible exact Or.inl rfl | skip)

theorem State.start_keeps {s : State} {n : Nat} {d : Started} {s0 : State} {L : List Field} (hL : covers [.rings] L = true) (h : s0.same L s) : s0.same L (State.start s n d) := by
  unfold State.start
  try dsimp only
  repeat' first
    | with_reducible assumption
    | with_reducible apply State.modRing_keeps (covers_trans rfl hL)
    | with_reducible apply State.finish_keeps (covers_trans rfl hL)
    | with_reducible apply foldl_keeps
    | (intro _; intros; try dsimp only)
    | split
    | (with_reducible apply State.mk_keeps <;> first | exact Or.inr (mem_of_covers hL rfl) | with_reducible exact Or.inl rfl | skip)

theorem State.startWaiting_keeps {s : State} {n : Nat} {s0 : State} {L : List Field} (hL : covers [.rings] L = true) (h : s0.same L s) : s0.same L (State.startWaiting s n) := by
  unfold State.startWaiting
  try dsimp only
  repeat' first
    | with_reducible assumption
    | with_reducible apply State.start_keeps (covers_trans rfl hL)
    | with_reducible apply State.modRing_keeps (covers_trans rfl hL)
    | with_reducible apply foldl_keeps
    | (intro _; intros; try dsimp only)
    | split
    | (with_reducible apply State.mk_keeps <;> first | exact Or.inr (mem_of_covers hL rfl) | with_reducible exact Or.inl rfl | skip)

theorem State.hostFail_keeps {s : State} {n : Nat} {status : Nat} {s0 : State} {L : List Field} (hL : covers [.regs, .seq, .seqReported, .events] L = true) (h : s0.same L s) : s0.same L (State.hostFail s n status) := by
  unfold State.hostFail
  try dsimp only
  repeat' first
    | with_reducible assumption
    | with_reducible apply State.raise_keeps (covers_trans rfl hL)
    | with_reducible apply State.set_keeps (covers_trans rfl hL)
    | with_reducible apply State.ringError_keeps (covers_trans rfl hL)
    | with_reducible apply foldl_keeps
    | (intro _; intros; try dsimp only)
    | split
    | (with_reducible apply State.mk_keeps <;> first | exact Or.inr (mem_of_covers hL rfl) | with_reducible exact Or.inl rfl | skip)

theorem doDescriptorFetch_keeps {ring : Nat} {bytes : List Byte} {hostStatus : Nat} {s : State} {s0 : State} {L : List Field} (hL : covers [.regs, .seq, .seqReported, .events, .rings, .out] L = true) (h : s0.same L s) : s0.same L (doDescriptorFetch ring bytes hostStatus s) := by
  unfold doDescriptorFetch
  try dsimp only
  repeat' first
    | with_reducible assumption
    | with_reducible apply State.hostRead_keeps (covers_trans rfl hL)
    | with_reducible apply State.hostFail_keeps (covers_trans rfl hL)
    | with_reducible apply State.set_keeps (covers_trans rfl hL)
    | with_reducible apply State.modRing_keeps (covers_trans rfl hL)
    | with_reducible apply State.start_keeps (covers_trans rfl hL)
    | with_reducible apply foldl_keeps
    | (intro _; intros; try dsimp only)
    | split
    | (with_reducible apply State.mk_keeps <;> first | exact Or.inr (mem_of_covers hL rfl) | with_reducible exact Or.inl rfl | skip)

theorem State.beginDesc_keeps {s : State} {n : Nat} {d : Started} {s0 : State} {L : List Field} (hL : covers [.rings] L = true) (h : s0.same L s) : s0.same L (State.beginDesc s n d) := by
  unfold State.beginDesc
  try dsimp only
  repeat' first
    | with_reducible assumption
    | with_reducible apply State.modRing_keeps (covers_trans rfl hL)
    | with_reducible apply foldl_keeps
    | (intro _; intros; try dsimp only)
    | split
    | (with_reducible apply State.mk_keeps <;> first | exact Or.inr (mem_of_covers hL rfl) | with_reducible exact Or.inl rfl | skip)

theorem State.sendRingIrq_keeps {s : State} {n : Nat} {s0 : State} {L : List Field} (hL : covers [.rings, .out] L = true) (h : s0.same L s) : s0.same L (State.sendRingIrq s n) := by
  unfold State.sendRingIrq
  try dsimp only
  repeat' first
    | with_reducible assumption
    | with_reducible apply State.sendIrq_keeps (covers_trans rfl hL)
    | with_reducible apply State.modRing_keeps (covers_trans rfl hL)
    | with_reducible apply foldl_keeps
    | (intro _; intros; try dsimp only)
    | split
    | (with_reducible apply State.mk_keeps <;> first | exact Or.inr (mem_of_covers hL rfl) | with_reducible exact Or.inl rfl | skip)

theorem State.gatherIrq_keeps {s : State} {n : Nat} {c : Completion} {s0 : State} {L : List Field} (hL : covers [.rings, .out] L = true) (h : s0.same L s) : s0.same L (State.gatherIrq s n c) := by
  unfold State.gatherIrq
  try dsimp only
  repeat' first
    | with_reducible assumption
    | with_reducible apply State.modRing_keeps (covers_trans rfl hL)
    | with_reducible apply State.sendRingIrq_keeps (covers_trans rfl hL)
    | with_reducible apply foldl_keeps
    | (intro _; intros; try dsimp only)
    | split
    | (with_reducible apply State.mk_keeps <;> first | exact Or.inr (mem_of_covers hL rfl) | with_reducible exact Or.inl rfl | skip)

theorem State.putCompletion_keeps {s : State} {n : Nat} {c : Completion} {s0 : State} {L : List Field} (hL : covers [.regs, .counters, .seq, .seqReported, .events, .rings, .out] L = true) (h : s0.same L s) : s0.same L (State.putCompletion s n c) := by
  unfold State.putCompletion
  try dsimp only
  repeat' first
    | with_reducible assumption
    | with_reducible apply State.hostWrite_keeps (covers_trans rfl hL)
    | with_reducible apply State.stampUsed_keeps (covers_trans rfl hL)
    | with_reducible apply State.noteFull_keeps (covers_trans rfl hL)
    | with_reducible apply State.set_keeps (covers_trans rfl hL)
    | with_reducible apply State.count_keeps (covers_trans rfl hL)
    | with_reducible apply State.gatherIrq_keeps (covers_trans rfl hL)
    | with_reducible apply foldl_keeps
    | (intro _; intros; try dsimp only)
    | split
    | (with_reducible apply State.mk_keeps <;> first | exact Or.inr (mem_of_covers hL rfl) | with_reducible exact Or.inl rfl | skip)

theorem doCompletionWrite_keeps {ring : Nat} {hostStatus : Nat} {s : State} {s0 : State} {L : List Field} (hL : covers [.regs, .counters, .seq, .seqReported, .events, .rings, .out] L = true) (h : s0.same L s) : s0.same L (doCompletionWrite ring hostStatus s) := by
  unfold doCompletionWrite
  try dsimp only
  repeat' first
    | with_reducible assumption
    | with_reducible apply State.hostFail_keeps (covers_trans rfl hL)
    | with_reducible apply State.startWaiting_keeps (covers_trans rfl hL)
    | with_reducible apply State.putCompletion_keeps (covers_trans rfl hL)
    | with_reducible apply State.modRing_keeps (covers_trans rfl hL)
    | with_reducible apply foldl_keeps
    | (intro _; intros; try dsimp only)
    | split
    | (with_reducible apply State.mk_keeps <;> first | exact Or.inr (mem_of_covers hL rfl) | with_reducible exact Or.inl rfl | skip)

theorem doInterruptCoalesceDelay_keeps {ring : Nat} {s : State} {s0 : State} {L : List Field} (hL : covers [.time, .rings, .out] L = true) (h : s0.same L s) : s0.same L (doInterruptCoalesceDelay ring s) := by
  unfold doInterruptCoalesceDelay
  try dsimp only
  repeat' first
    | with_reducible assumption
    | with_reducible apply State.sendRingIrq_keeps (covers_trans rfl hL)
    | with_reducible apply State.advanceTo_keeps (covers_trans rfl hL)
    | with_reducible apply foldl_keeps
    | (intro _; intros; try dsimp only)
    | split
    | (with_reducible apply State.mk_keeps <;> first | exact Or.inr (mem_of_covers hL rfl) | with_reducible exact Or.inl rfl | skip)

theorem State.resetRing_keeps {s : State} {n : Nat} {s0 : State} {L : List Field} (hL : covers [.regs, .rings] L = true) (h : s0.same L s) : s0.same L (State.resetRing s n) := by
  unfold State.resetRing
  try dsimp only
  repeat' first
    | with_reducible assumption
    | with_reducible apply State.modRing_keeps (covers_trans rfl hL)
    | with_reducible apply State.set_keeps (covers_trans rfl hL)
    | with_reducible apply foldl_keeps
    | (intro _; intros; try dsimp only)
    | split
    | (with_reducible apply State.mk_keeps <;> first | exact Or.inr (mem_of_covers hL rfl) | with_reducible exact Or.inl rfl | skip)

theorem doRingReset_keeps {ring : Nat} {s : State} {s0 : State} {L : List Field} (hL : covers [.regs, .rings] L = true) (h : s0.same L s) : s0.same L (doRingReset ring s) := by
  unfold doRingReset
  try dsimp only
  repeat' first
    | with_reducible assumption
    | with_reducible apply State.resetRing_keeps (covers_trans rfl hL)
    | with_reducible apply foldl_keeps
    | (intro _; intros; try dsimp only)
    | split
    | (with_reducible apply State.mk_keeps <;> first | exact Or.inr (mem_of_covers hL rfl) | with_reducible exact Or.inl rfl | skip)

theorem doRingResetDone_keeps {ring : Nat} {s : State} {s0 : State} {L : List Field} (hL : covers [.regs] L = true) (h : s0.same L s) : s0.same L (doRingResetDone ring s) := by
  unfold doRingResetDone
  try dsimp only
  repeat' first
    | with_reducible assumption
    | with_reducible apply State.set_keeps (covers_trans rfl hL)
    | with_reducible apply State.noteFull_keeps (covers_trans rfl hL)
    | with_reducible apply foldl_keeps
    | (intro _; intros; try dsimp only)
    | split
    | (with_reducible apply State.mk_keeps <;> first | exact Or.inr (mem_of_covers hL rfl) | with_reducible exact Or.inl rfl | skip)

theorem doNop_keeps {ring : Nat} {s : State} {s0 : State} {L : List Field} (hL : covers [.rings] L = true) (h : s0.same L s) : s0.same L (doNop ring s) := by
  unfold doNop
  try dsimp only
  repeat' first
    | with_reducible assumption
    | with_reducible apply State.finish_keeps (covers_trans rfl hL)
    | with_reducible apply foldl_keeps
    | (intro _; intros; try dsimp only)
    | split
    | (with_reducible apply State.mk_keeps <;> first | exact Or.inr (mem_of_covers hL rfl) | with_reducible exact Or.inl rfl | skip)

theorem doFence_keeps {ring : Nat} {s : State} {s0 : State} {L : List Field} (hL : covers [.rings] L = true) (h : s0.same L s) : s0.same L (doFence ring s) := by
  unfold doFence
  try dsimp only
  repeat' first
    | with_reducible assumption
    | with_reducible apply State.finish_keeps (covers_trans rfl hL)
    | with_reducible apply foldl_keeps
    | (intro _; intros; try dsimp only)
    | split
    | (with_reducible apply State.mk_keeps <;> first | exact Or.inr (mem_of_covers hL rfl) | with_reducible exact Or.inl rfl | skip)

theorem State.startCopy_keeps {s : State} {n : Nat} {op : Nat} {s0 : State} {L : List Field} (hL : covers [.rings, .out] L = true) (h : s0.same L s) : s0.same L (State.startCopy s n op) := by
  unfold State.startCopy
  try dsimp only
  repeat' first
    | with_reducible assumption
    | with_reducible apply State.finish_keeps (covers_trans rfl hL)
    | with_reducible apply State.hostRead_keeps (covers_trans rfl hL)
    | with_reducible apply State.beginDesc_keeps (covers_trans rfl hL)
    | with_reducible apply foldl_keeps
    | (intro _; intros; try dsimp only)
    | split
    | (with_reducible apply State.mk_keeps <;> first | exact Or.inr (mem_of_covers hL rfl) | with_reducible exact Or.inl rfl | skip)

theorem doCopyIn_keeps {ring : Nat} {s : State} {s0 : State} {L : List Field} (hL : covers [.rings, .out] L = true) (h : s0.same L s) : s0.same L (doCopyIn ring s) := by
  unfold doCopyIn
  try dsimp only
  repeat' first
    | with_reducible assumption
    | with_reducible apply State.startCopy_keeps (covers_trans rfl hL)
    | with_reducible apply foldl_keeps
    | (intro _; intros; try dsimp only)
    | split
    | (with_reducible apply State.mk_keeps <;> first | exact Or.inr (mem_of_covers hL rfl) | with_reducible exact Or.inl rfl | skip)

theorem doCopyOut_keeps {ring : Nat} {s : State} {s0 : State} {L : List Field} (hL : covers [.rings, .out] L = true) (h : s0.same L s) : s0.same L (doCopyOut ring s) := by
  unfold doCopyOut
  try dsimp only
  repeat' first
    | with_reducible assumption
    | with_reducible apply State.startCopy_keeps (covers_trans rfl hL)
    | with_reducible apply foldl_keeps
    | (intro _; intros; try dsimp only)
    | split
    | (with_reducible apply State.mk_keeps <;> first | exact Or.inr (mem_of_covers hL rfl) | with_reducible exact Or.inl rfl | skip)

theorem doCopyDone_keeps {ring : Nat} {seq : Nat} {data : List Byte} {hostStatus : Nat} {s : State} {s0 : State} {L : List Field} (hL : covers [.mem, .tags, .rings, .power, .out] L = true) (h : s0.same L s) : s0.same L (doCopyDone ring seq data hostStatus s) := by
  unfold doCopyDone
  try dsimp only
  repeat' first
    | with_reducible assumption
    | with_reducible apply State.wakeHbm_keeps (covers_trans rfl hL)
    | with_reducible apply State.finish_keeps (covers_trans rfl hL)
    | with_reducible apply State.writeHbm_keeps (covers_trans rfl hL)
    | with_reducible apply State.hostWrite_keeps (covers_trans rfl hL)
    | with_reducible apply foldl_keeps
    | (intro _; intros; try dsimp only)
    | split
    | (with_reducible apply State.mk_keeps <;> first | exact Or.inr (mem_of_covers hL rfl) | with_reducible exact Or.inl rfl | skip)

end Sys2Proof.Machine
end

