-- ==== Sys2Proof/Laws/Keeps2.lean ====
section
/-! SUPPORT. The fields an operation leaves alone, for the operations in Steps.lean, Layers.lean, Groups.lean, Codec.lean, Tasks.lean, Operands.lean, Tiling.lean, Products.lean. -/

set_option Elab.async false

namespace Sys2Proof.Machine

theorem State.modCore_keeps {s : State} {c : Nat} {f : Core → Core} {s0 : State} {L : List Field} (hL : covers [.cores] L = true) (h : s0.same L s) : s0.same L (State.modCore s c f) := by
  unfold State.modCore
  try dsimp only
  repeat' first
    | with_reducible assumption
    | with_reducible apply foldl_keeps
    | (intro _; intros; try dsimp only)
    | split
    | (with_reducible apply State.mk_keeps <;> first | exact Or.inr (mem_of_covers hL rfl) | with_reducible exact Or.inl rfl | skip)

theorem State.modPort_keeps {s : State} {n : Nat} {f : Port → Port} {s0 : State} {L : List Field} (hL : covers [.ports] L = true) (h : s0.same L s) : s0.same L (State.modPort s n f) := by
  unfold State.modPort
  try dsimp only
  repeat' first
    | with_reducible assumption
    | with_reducible apply foldl_keeps
    | (intro _; intros; try dsimp only)
    | split
    | (with_reducible apply State.mk_keeps <;> first | exact Or.inr (mem_of_covers hL rfl) | with_reducible exact Or.inl rfl | skip)

theorem State.enqueueVia_keeps {s : State} {n : Nat} {cls : Nat} {o : FabOut} {slot : Option (Nat × Nat)} {late : Bool} {via : Option Nat} {s0 : State} {L : List Field} (hL : covers [.ports] L = true) (h : s0.same L s) : s0.same L (State.enqueueVia s n cls o slot late via) := by
  unfold State.enqueueVia
  try dsimp only
  repeat' first
    | with_reducible assumption
    | with_reducible apply State.modPort_keeps (covers_trans rfl hL)
    | with_reducible apply foldl_keeps
    | (intro _; intros; try dsimp only)
    | split
    | (with_reducible apply State.mk_keeps <;> first | exact Or.inr (mem_of_covers hL rfl) | with_reducible exact Or.inl rfl | skip)

theorem State.enqueue_keeps {s : State} {n : Nat} {cls : Nat} {o : FabOut} {slot : Option (Nat × Nat)} {late : Bool} {s0 : State} {L : List Field} (hL : covers [.ports] L = true) (h : s0.same L s) : s0.same L (State.enqueue s n cls o slot late) := by
  unfold State.enqueue
  try dsimp only
  repeat' first
    | with_reducible assumption
    | with_reducible apply State.enqueueVia_keeps (covers_trans rfl hL)
    | with_reducible apply foldl_keeps
    | (intro _; intros; try dsimp only)
    | split
    | (with_reducible apply State.mk_keeps <;> first | exact Or.inr (mem_of_covers hL rfl) | with_reducible exact Or.inl rfl | skip)

theorem State.sendFab_keeps {s : State} {port : Nat} {o : FabOut} {s0 : State} {L : List Field} (hL : covers [.ports] L = true) (h : s0.same L s) : s0.same L (State.sendFab s port o) := by
  unfold State.sendFab
  try dsimp only
  repeat' first
    | with_reducible assumption
    | with_reducible apply State.enqueue_keeps (covers_trans rfl hL)
    | with_reducible apply foldl_keeps
    | (intro _; intros; try dsimp only)
    | split
    | (with_reducible apply State.mk_keeps <;> first | exact Or.inr (mem_of_covers hL rfl) | with_reducible exact Or.inl rfl | skip)

theorem State.sendNotice_keeps {s : State} {p : Nat} {dest : Nat} {n : Notice} {s0 : State} {L : List Field} (hL : covers [.regs, .seq, .seqReported, .events, .ports] L = true) (h : s0.same L s) : s0.same L (State.sendNotice s p dest n) := by
  unfold State.sendNotice
  try dsimp only
  repeat' first
    | with_reducible assumption
    | with_reducible apply State.sendFab_keeps (covers_trans rfl hL)
    | with_reducible apply State.stampUsed_keeps (covers_trans rfl hL)
    | with_reducible apply foldl_keeps
    | (intro _; intros; try dsimp only)
    | split
    | (with_reducible apply State.mk_keeps <;> first | exact Or.inr (mem_of_covers hL rfl) | with_reducible exact Or.inl rfl | skip)

theorem State.noticeDown_keeps {s : State} {p : Nat} {n : Notice} {s0 : State} {L : List Field} (hL : covers [.regs, .seq, .seqReported, .events, .ports] L = true) (h : s0.same L s) : s0.same L (State.noticeDown s p n) := by
  unfold State.noticeDown
  try dsimp only
  repeat' first
    | with_reducible assumption
    | with_reducible apply State.sendNotice_keeps (covers_trans rfl hL)
    | with_reducible apply foldl_keeps
    | (intro _; intros; try dsimp only)
    | split
    | (with_reducible apply State.mk_keeps <;> first | exact Or.inr (mem_of_covers hL rfl) | with_reducible exact Or.inl rfl | skip)

theorem State.noticeUp_keeps {s : State} {p : Nat} {n : Notice} {s0 : State} {L : List Field} (hL : covers [.regs, .seq, .seqReported, .events, .ports] L = true) (h : s0.same L s) : s0.same L (State.noticeUp s p n) := by
  unfold State.noticeUp
  try dsimp only
  repeat' first
    | with_reducible assumption
    | with_reducible apply State.sendNotice_keeps (covers_trans rfl hL)
    | with_reducible apply foldl_keeps
    | (intro _; intros; try dsimp only)
    | split
    | (with_reducible apply State.mk_keeps <;> first | exact Or.inr (mem_of_covers hL rfl) | with_reducible exact Or.inl rfl | skip)

theorem State.stepFault_keeps {s : State} {p : Nat} {c : FaultCause} {s0 : State} {L : List Field} (hL : covers [.regs, .seq, .seqReported, .events, .parts, .ports] L = true) (h : s0.same L s) : s0.same L (State.stepFault s p c) := by
  unfold State.stepFault
  try dsimp only
  repeat' first
    | with_reducible assumption
    | with_reducible apply State.raise_keeps (covers_trans rfl hL)
    | with_reducible apply State.modPart_keeps (covers_trans rfl hL)
    | with_reducible apply State.noticeDown_keeps (covers_trans rfl hL)
    | with_reducible apply State.noticeUp_keeps (covers_trans rfl hL)
    | with_reducible apply foldl_keeps
    | (intro _; intros; try dsimp only)
    | split
    | (with_reducible apply State.mk_keeps <;> first | exact Or.inr (mem_of_covers hL rfl) | with_reducible exact Or.inl rfl | skip)

theorem State.modBarrier_keeps {s : State} {p : Nat} {f : Barrier → Barrier} {s0 : State} {L : List Field} (hL : covers [.parts] L = true) (h : s0.same L s) : s0.same L (State.modBarrier s p f) := by
  unfold State.modBarrier
  try dsimp only
  repeat' first
    | with_reducible assumption
    | with_reducible apply State.modPart_keeps (covers_trans rfl hL)
    | with_reducible apply foldl_keeps
    | (intro _; intros; try dsimp only)
    | split
    | (with_reducible apply State.mk_keeps <;> first | exact Or.inr (mem_of_covers hL rfl) | with_reducible exact Or.inl rfl | skip)

theorem State.tryCombine_keeps {s : State} {p : Nat} {s0 : State} {L : List Field} (hL : covers [.regs, .seq, .seqReported, .events, .parts, .ports] L = true) (h : s0.same L s) : s0.same L (State.tryCombine s p) := by
  unfold State.tryCombine
  try dsimp only
  repeat' first
    | with_reducible assumption
    | with_reducible apply State.noticeDown_keeps (covers_trans rfl hL)
    | with_reducible apply State.modBarrier_keeps (covers_trans rfl hL)
    | with_reducible apply State.noticeUp_keeps (covers_trans rfl hL)
    | with_reducible apply foldl_keeps
    | (intro _; intros; try dsimp only)
    | split
    | (with_reducible apply State.mk_keeps <;> first | exact Or.inr (mem_of_covers hL rfl) | with_reducible exact Or.inl rfl | skip)

theorem State.tryCombineDrained_keeps {s : State} {p : Nat} {s0 : State} {L : List Field} (hL : covers [.regs, .seq, .seqReported, .events, .parts, .ports] L = true) (h : s0.same L s) : s0.same L (State.tryCombineDrained s p) := by
  unfold State.tryCombineDrained
  try dsimp only
  repeat' first
    | with_reducible assumption
    | with_reducible apply State.noticeDown_keeps (covers_trans rfl hL)
    | with_reducible apply State.modBarrier_keeps (covers_trans rfl hL)
    | with_reducible apply State.noticeUp_keeps (covers_trans rfl hL)
    | with_reducible apply foldl_keeps
    | (intro _; intros; try dsimp only)
    | split
    | (with_reducible apply State.mk_keeps <;> first | exact Or.inr (mem_of_covers hL rfl) | with_reducible exact Or.inl rfl | skip)

theorem State.ownNotice_keeps {s : State} {p : Nat} {s0 : State} {L : List Field} (hL : covers [.regs, .seq, .seqReported, .stamped, .events, .parts, .ports, .out] L = true) (h : s0.same L s) : s0.same L (State.ownNotice s p) := by
  unfold State.ownNotice
  try dsimp only
  repeat' first
    | with_reducible assumption
    | with_reducible apply State.tryCombine_keeps (covers_trans rfl hL)
    | with_reducible apply State.modBarrier_keeps (covers_trans rfl hL)
    | with_reducible apply State.issueStamp_keeps (covers_trans rfl hL)
    | with_reducible apply foldl_keeps
    | (intro _; intros; try dsimp only)
    | split
    | (with_reducible apply State.mk_keeps <;> first | exact Or.inr (mem_of_covers hL rfl) | with_reducible exact Or.inl rfl | skip)

theorem State.noteLate_keeps {s : State} {p : Nat} {origin : Nat} {s0 : State} {L : List Field} (hL : covers [.regs, .counters, .seq, .seqReported, .events] L = true) (h : s0.same L s) : s0.same L (State.noteLate s p origin) := by
  unfold State.noteLate
  try dsimp only
  repeat' first
    | with_reducible assumption
    | with_reducible apply State.raise_keeps (covers_trans rfl hL)
    | with_reducible apply State.count_keeps (covers_trans rfl hL)
    | with_reducible apply foldl_keeps
    | (intro _; intros; try dsimp only)
    | split
    | (with_reducible apply State.mk_keeps <;> first | exact Or.inr (mem_of_covers hL rfl) | with_reducible exact Or.inl rfl | skip)

theorem State.completionNotice_keeps {s : State} {p : Nat} {n : Notice} {s0 : State} {L : List Field} (hL : covers [.regs, .counters, .seq, .seqReported, .events, .parts, .ports] L = true) (h : s0.same L s) : s0.same L (State.completionNotice s p n) := by
  unfold State.completionNotice
  try dsimp only
  repeat' first
    | with_reducible assumption
    | with_reducible apply State.stepFault_keeps (covers_trans rfl hL)
    | with_reducible apply State.noticeDown_keeps (covers_trans rfl hL)
    | with_reducible apply State.noteLate_keeps (covers_trans rfl hL)
    | with_reducible apply State.modBarrier_keeps (covers_trans rfl hL)
    | with_reducible apply State.tryCombine_keeps (covers_trans rfl hL)
    | with_reducible apply foldl_keeps
    | (intro _; intros; try dsimp only)
    | split
    | (with_reducible apply State.mk_keeps <;> first | exact Or.inr (mem_of_covers hL rfl) | with_reducible exact Or.inl rfl | skip)

theorem State.faultNotice_keeps {s : State} {p : Nat} {n : Notice} {s0 : State} {L : List Field} (hL : covers [.regs, .seq, .seqReported, .events, .parts, .ports] L = true) (h : s0.same L s) : s0.same L (State.faultNotice s p n) := by
  unfold State.faultNotice
  try dsimp only
  repeat' first
    | with_reducible assumption
    | with_reducible apply State.noticeDown_keeps (covers_trans rfl hL)
    | with_reducible apply State.noticeUp_keeps (covers_trans rfl hL)
    | with_reducible apply State.stepFault_keeps (covers_trans rfl hL)
    | with_reducible apply foldl_keeps
    | (intro _; intros; try dsimp only)
    | split
    | (with_reducible apply State.mk_keeps <;> first | exact Or.inr (mem_of_covers hL rfl) | with_reducible exact Or.inl rfl | skip)

theorem State.drainedNotice_keeps {s : State} {p : Nat} {n : Notice} {s0 : State} {L : List Field} (hL : covers [.regs, .seq, .seqReported, .events, .parts, .ports] L = true) (h : s0.same L s) : s0.same L (State.drainedNotice s p n) := by
  unfold State.drainedNotice
  try dsimp only
  repeat' first
    | with_reducible assumption
    | with_reducible apply State.noticeDown_keeps (covers_trans rfl hL)
    | with_reducible apply State.modBarrier_keeps (covers_trans rfl hL)
    | with_reducible apply State.tryCombineDrained_keeps (covers_trans rfl hL)
    | with_reducible apply foldl_keeps
    | (intro _; intros; try dsimp only)
    | split
    | (with_reducible apply State.mk_keeps <;> first | exact Or.inr (mem_of_covers hL rfl) | with_reducible exact Or.inl rfl | skip)

theorem State.applyNotice_keeps {s : State} {p : Nat} {n : Notice} {s0 : State} {L : List Field} (hL : covers [.regs, .counters, .seq, .seqReported, .events, .parts, .ports] L = true) (h : s0.same L s) : s0.same L (State.applyNotice s p n) := by
  unfold State.applyNotice
  try dsimp only
  repeat' first
    | with_reducible assumption
    | with_reducible apply State.completionNotice_keeps (covers_trans rfl hL)
    | with_reducible apply State.faultNotice_keeps (covers_trans rfl hL)
    | with_reducible apply State.drainedNotice_keeps (covers_trans rfl hL)
    | with_reducible apply foldl_keeps
    | (intro _; intros; try dsimp only)
    | split
    | (with_reducible apply State.mk_keeps <;> first | exact Or.inr (mem_of_covers hL rfl) | with_reducible exact Or.inl rfl | skip)

theorem State.modRun_keeps {s : State} {p : Nat} {g : Nat} {t : Nat} {f : TaskRun → TaskRun} {s0 : State} {L : List Field} (hL : covers [.parts] L = true) (h : s0.same L s) : s0.same L (State.modRun s p g t f) := by
  unfold State.modRun
  try dsimp only
  repeat' first
    | with_reducible assumption
    | with_reducible apply State.modPart_keeps (covers_trans rfl hL)
    | with_reducible apply foldl_keeps
    | (intro _; intros; try dsimp only)
    | split
    | (with_reducible apply State.mk_keeps <;> first | exact Or.inr (mem_of_covers hL rfl) | with_reducible exact Or.inl rfl | skip)

theorem State.beginStep_keeps {s : State} {p : Nat} {step : Nat} {e : Nat} {s0 : State} {L : List Field} (hL : covers [.regs, .counters, .seq, .seqReported, .events, .parts, .cores, .devDraws, .ports, .intake, .power] L = true) (h : s0.same L s) : s0.same L (State.beginStep s p step e) := by
  unfold State.beginStep
  try dsimp only
  repeat' first
    | with_reducible assumption
    | with_reducible apply State.modPart_keeps (covers_trans rfl hL)
    | with_reducible apply State.modCore_keeps (covers_trans rfl hL)
    | with_reducible apply State.applyNotice_keeps (covers_trans rfl hL)
    | with_reducible apply foldl_keeps
    | (intro _; intros; try dsimp only)
    | split
    | (with_reducible apply State.mk_keeps <;> first | exact Or.inr (mem_of_covers hL rfl) | with_reducible exact Or.inl rfl | skip)

theorem State.modLayer_keeps {s : State} {l : Nat} {f : LayerEntry → LayerEntry} {s0 : State} {L : List Field} (hL : covers [.layers] L = true) (h : s0.same L s) : s0.same L (State.modLayer s l f) := by
  unfold State.modLayer
  try dsimp only
  repeat' first
    | with_reducible assumption
    | with_reducible apply foldl_keeps
    | (intro _; intros; try dsimp only)
    | split
    | (with_reducible apply State.mk_keeps <;> first | exact Or.inr (mem_of_covers hL rfl) | with_reducible exact Or.inl rfl | skip)

theorem State.admitLayers_keeps {s : State} {pl : Plan} {s0 : State} {L : List Field} (hL : covers [.layers] L = true) (h : s0.same L s) : s0.same L (State.admitLayers s pl) := by
  unfold State.admitLayers
  try dsimp only
  repeat' first
    | with_reducible assumption
    | with_reducible apply foldl_keeps
    | (intro _; intros; try dsimp only)
    | split
    | (with_reducible apply State.mk_keeps <;> first | exact Or.inr (mem_of_covers hL rfl) | with_reducible exact Or.inl rfl | skip)

theorem State.endStepScales_keeps {s : State} {p : Nat} {s0 : State} {L : List Field} (hL : covers [.regs, .seq, .seqReported, .events, .layers] L = true) (h : s0.same L s) : s0.same L (State.endStepScales s p) := by
  unfold State.endStepScales
  try dsimp only
  repeat' first
    | with_reducible assumption
    | with_reducible apply State.modLayer_keeps (covers_trans rfl hL)
    | with_reducible apply State.raise_keeps (covers_trans rfl hL)
    | with_reducible apply foldl_keeps
    | (intro _; intros; try dsimp only)
    | split
    | (with_reducible apply State.mk_keeps <;> first | exact Or.inr (mem_of_covers hL rfl) | with_reducible exact Or.inl rfl | skip)

theorem State.recordAmax_keeps {s : State} {l : Nat} {a : Fp} {s0 : State} {L : List Field} (hL : covers [.layers] L = true) (h : s0.same L s) : s0.same L (State.recordAmax s l a) := by
  unfold State.recordAmax
  try dsimp only
  repeat' first
    | with_reducible assumption
    | with_reducible apply State.modLayer_keeps (covers_trans rfl hL)
    | with_reducible apply foldl_keeps
    | (intro _; intros; try dsimp only)
    | split
    | (with_reducible apply State.mk_keeps <;> first | exact Or.inr (mem_of_covers hL rfl) | with_reducible exact Or.inl rfl | skip)

theorem doPromotionExpiry_keeps {p : Nat} {layer : Nat} {s : State} {s0 : State} {L : List Field} (hL : covers [.regs, .counters, .seq, .seqReported, .events, .layers] L = true) (h : s0.same L s) : s0.same L (doPromotionExpiry p layer s) := by
  unfold doPromotionExpiry
  try dsimp only
  repeat' first
    | with_reducible assumption
    | with_reducible apply State.raise_keeps (covers_trans rfl hL)
    | with_reducible apply State.count_keeps (covers_trans rfl hL)
    | with_reducible apply State.modLayer_keeps (covers_trans rfl hL)
    | with_reducible apply foldl_keeps
    | (intro _; intros; try dsimp only)
    | split
    | (with_reducible apply State.mk_keeps <;> first | exact Or.inr (mem_of_covers hL rfl) | with_reducible exact Or.inl rfl | skip)

theorem State.setRemoteScale_keeps {s : State} {p : Nat} {l : Nat} {e : Int} {s0 : State} {L : List Field} (hL : covers [.layers] L = true) (h : s0.same L s) : s0.same L (State.setRemoteScale s p l e) := by
  unfold State.setRemoteScale
  try dsimp only
  repeat' first
    | with_reducible assumption
    | with_reducible apply State.modLayer_keeps (covers_trans rfl hL)
    | with_reducible apply foldl_keeps
    | (intro _; intros; try dsimp only)
    | split
    | (with_reducible apply State.mk_keeps <;> first | exact Or.inr (mem_of_covers hL rfl) | with_reducible exact Or.inl rfl | skip)

theorem State.modGroup_keeps {s : State} {p : Nat} {g : Nat} {f : GroupState → GroupState} {s0 : State} {L : List Field} (hL : covers [.parts] L = true) (h : s0.same L s) : s0.same L (State.modGroup s p g f) := by
  unfold State.modGroup
  try dsimp only
  repeat' first
    | with_reducible assumption
    | with_reducible apply State.modPart_keeps (covers_trans rfl hL)
    | with_reducible apply foldl_keeps
    | (intro _; intros; try dsimp only)
    | split
    | (with_reducible apply State.mk_keeps <;> first | exact Or.inr (mem_of_covers hL rfl) | with_reducible exact Or.inl rfl | skip)

theorem State.admitGroups_keeps {s : State} {p : Nat} {pl : Plan} {s0 : State} {L : List Field} (hL : covers [.parts] L = true) (h : s0.same L s) : s0.same L (State.admitGroups s p pl) := by
  unfold State.admitGroups
  try dsimp only
  repeat' first
    | with_reducible assumption
    | with_reducible apply State.modPart_keeps (covers_trans rfl hL)
    | with_reducible apply foldl_keeps
    | (intro _; intros; try dsimp only)
    | split
    | (with_reducible apply State.mk_keeps <;> first | exact Or.inr (mem_of_covers hL rfl) | with_reducible exact Or.inl rfl | skip)

theorem State.setEta_keeps {s : State} {p : Nat} {g : Nat} {pl : Plan} {e : GroupEntry} {s0 : State} {L : List Field} (hL : covers [.parts] L = true) (h : s0.same L s) : s0.same L (State.setEta s p g pl e) := by
  unfold State.setEta
  try dsimp only
  repeat' first
    | with_reducible assumption
    | with_reducible apply State.modGroup_keeps (covers_trans rfl hL)
    | with_reducible apply foldl_keeps
    | (intro _; intros; try dsimp only)
    | split
    | (with_reducible apply State.mk_keeps <;> first | exact Or.inr (mem_of_covers hL rfl) | with_reducible exact Or.inl rfl | skip)

theorem State.evalEta_keeps {s : State} {p : Nat} {pl : Plan} {s0 : State} {L : List Field} (hL : covers [.parts] L = true) (h : s0.same L s) : s0.same L (State.evalEta s p pl) := by
  unfold State.evalEta
  try dsimp only
  repeat' first
    | with_reducible assumption
    | with_reducible apply State.setEta_keeps (covers_trans rfl hL)
    | with_reducible apply foldl_keeps
    | (intro _; intros; try dsimp only)
    | split
    | (with_reducible apply State.mk_keeps <;> first | exact Or.inr (mem_of_covers hL rfl) | with_reducible exact Or.inl rfl | skip)

theorem State.groupBoundary_keeps {s : State} {p : Nat} {g : Nat} {s0 : State} {L : List Field} (hL : covers [.regs, .seq, .seqReported, .events, .parts] L = true) (h : s0.same L s) : s0.same L (State.groupBoundary s p g) := by
  unfold State.groupBoundary
  try dsimp only
  repeat' first
    | with_reducible assumption
    | with_reducible apply State.raise_keeps (covers_trans rfl hL)
    | with_reducible apply State.set_keeps (covers_trans rfl hL)
    | with_reducible apply State.modGroup_keeps (covers_trans rfl hL)
    | with_reducible apply foldl_keeps
    | (intro _; intros; try dsimp only)
    | split
    | (with_reducible apply State.mk_keeps <;> first | exact Or.inr (mem_of_covers hL rfl) | with_reducible exact Or.inl rfl | skip)

theorem State.groupsBoundary_keeps {s : State} {p : Nat} {pl : Plan} {s0 : State} {L : List Field} (hL : covers [.regs, .seq, .seqReported, .events, .parts] L = true) (h : s0.same L s) : s0.same L (State.groupsBoundary s p pl) := by
  unfold State.groupsBoundary
  try dsimp only
  repeat' first
    | with_reducible assumption
    | with_reducible apply State.evalEta_keeps (covers_trans rfl hL)
    | with_reducible apply State.groupBoundary_keeps (covers_trans rfl hL)
    | with_reducible apply foldl_keeps
    | (intro _; intros; try dsimp only)
    | split
    | (with_reducible apply State.mk_keeps <;> first | exact Or.inr (mem_of_covers hL rfl) | with_reducible exact Or.inl rfl | skip)

theorem State.tear_keeps {s : State} {p : Nat} {g : Nat} {cause : Nat} {s0 : State} {L : List Field} (hL : covers [.regs, .counters, .seq, .seqReported, .events, .parts] L = true) (h : s0.same L s) : s0.same L (State.tear s p g cause) := by
  unfold State.tear
  try dsimp only
  repeat' first
    | with_reducible assumption
    | with_reducible apply State.raise_keeps (covers_trans rfl hL)
    | with_reducible apply State.modGroup_keeps (covers_trans rfl hL)
    | with_reducible apply State.count_keeps (covers_trans rfl hL)
    | with_reducible apply State.set_keeps (covers_trans rfl hL)
    | with_reducible apply foldl_keeps
    | (intro _; intros; try dsimp only)
    | split
    | (with_reducible apply State.mk_keeps <;> first | exact Or.inr (mem_of_covers hL rfl) | with_reducible exact Or.inl rfl | skip)

theorem State.transientError_keeps {s : State} {p : Nat} {u : UnitId} {value : Nat} {cause : Nat} {s0 : State} {L : List Field} (hL : covers [.regs, .counters, .seq, .seqReported, .events, .parts, .ports] L = true) (h : s0.same L s) : s0.same L (State.transientError s p u value cause) := by
  unfold State.transientError
  try dsimp only
  repeat' first
    | with_reducible assumption
    | with_reducible apply State.stepFault_keeps (covers_trans rfl hL)
    | with_reducible apply State.count_keeps (covers_trans rfl hL)
    | with_reducible apply State.raiseFor_keeps (covers_trans rfl hL)
    | with_reducible apply foldl_keeps
    | (intro _; intros; try dsimp only)
    | split
    | (with_reducible apply State.mk_keeps <;> first | exact Or.inr (mem_of_covers hL rfl) | with_reducible exact Or.inl rfl | skip)

theorem State.wantRestore_keeps {s : State} {p : Nat} {g : Nat} {s0 : State} {L : List Field} (hL : covers [.parts] L = true) (h : s0.same L s) : s0.same L (State.wantRestore s p g) := by
  unfold State.wantRestore
  try dsimp only
  repeat' first
    | with_reducible assumption
    | with_reducible apply State.modPart_keeps (covers_trans rfl hL)
    | with_reducible apply foldl_keeps
    | (intro _; intros; try dsimp only)
    | split
    | (with_reducible apply State.mk_keeps <;> first | exact Or.inr (mem_of_covers hL rfl) | with_reducible exact Or.inl rfl | skip)

theorem State.persistentError_keeps {s : State} {p : Nat} {g : Nat} {u : UnitId} {by_ : UeReader} {s0 : State} {L : List Field} (hL : covers [.regs, .counters, .seq, .seqReported, .events, .parts, .ports] L = true) (h : s0.same L s) : s0.same L (State.persistentError s p g u by_) := by
  unfold State.persistentError
  try dsimp only
  repeat' first
    | with_reducible assumption
    | with_reducible apply State.count_keeps (covers_trans rfl hL)
    | with_reducible apply State.raiseFor_keeps (covers_trans rfl hL)
    | with_reducible apply State.stepFault_keeps (covers_trans rfl hL)
    | with_reducible apply State.wantRestore_keeps (covers_trans rfl hL)
    | with_reducible apply foldl_keeps
    | (intro _; intros; try dsimp only)
    | split
    | (with_reducible apply State.mk_keeps <;> first | exact Or.inr (mem_of_covers hL rfl) | with_reducible exact Or.inl rfl | skip)

theorem State.setTag_keeps {s : State} {p : Nat} {space : Nat} {a : Nat} {v : Nat} {s0 : State} {L : List Field} (hL : covers [.tags, .negTags] L = true) (h : s0.same L s) : s0.same L (State.setTag s p space a v) := by
  unfold State.setTag
  try dsimp only
  repeat' first
    | with_reducible assumption
    | with_reducible apply foldl_keeps
    | (intro _; intros; try dsimp only)
    | split
    | (with_reducible apply State.mk_keeps <;> first | exact Or.inr (mem_of_covers hL rfl) | with_reducible exact Or.inl rfl | skip)

theorem State.modGen_keeps {s : State} {p : Nat} {g : Nat} {f : Gen → Gen} {s0 : State} {L : List Field} (hL : covers [.parts] L = true) (h : s0.same L s) : s0.same L (State.modGen s p g f) := by
  unfold State.modGen
  try dsimp only
  repeat' first
    | with_reducible assumption
    | with_reducible apply State.modPart_keeps (covers_trans rfl hL)
    | with_reducible apply foldl_keeps
    | (intro _; intros; try dsimp only)
    | split
    | (with_reducible apply State.mk_keeps <;> first | exact Or.inr (mem_of_covers hL rfl) | with_reducible exact Or.inl rfl | skip)

theorem State.encoderWrite_keeps {s : State} {p : Nat} {space : Nat} {a : Nat} {bs : List Byte} {s0 : State} {L : List Field} (hL : covers [.mem, .neg] L = true) (h : s0.same L s) : s0.same L (State.encoderWrite s p space a bs) := by
  unfold State.encoderWrite
  try dsimp only
  repeat' first
    | with_reducible assumption
    | with_reducible apply foldl_keeps
    | (intro _; intros; try dsimp only)
    | split
    | (with_reducible apply State.mk_keeps <;> first | exact Or.inr (mem_of_covers hL rfl) | with_reducible exact Or.inl rfl | skip)

theorem State.putBlock_keeps {s : State} {p : Nat} {space : Nat} {a : Nat} {c : Coded} {s0 : State} {L : List Field} (hL : covers [.mem, .neg, .tags, .negTags] L = true) (h : s0.same L s) : s0.same L (State.putBlock s p space a c) := by
  unfold State.putBlock
  try dsimp only
  repeat' first
    | with_reducible assumption
    | with_reducible apply State.setTag_keeps (covers_trans rfl hL)
    | with_reducible apply State.encoderWrite_keeps (covers_trans rfl hL)
    | with_reducible apply foldl_keeps
    | (intro _; intros; try dsimp only)
    | split
    | (with_reducible apply State.mk_keeps <;> first | exact Or.inr (mem_of_covers hL rfl) | with_reducible exact Or.inl rfl | skip)

theorem State.clearWrite_keeps {s : State} {p : Nat} {space : Nat} {a : Nat} {w : Nat} {data : List Byte} {s0 : State} {L : List Field} (hL : covers [.regs, .counters, .seq, .seqReported, .events, .mem, .neg, .tags, .negTags] L = true) (h : s0.same L s) : s0.same L (State.clearWrite s p space a w data) := by
  unfold State.clearWrite
  try dsimp only
  repeat' first
    | with_reducible assumption
    | with_reducible apply State.count_keeps (covers_trans rfl hL)
    | with_reducible apply State.putBlock_keeps (covers_trans rfl hL)
    | with_reducible apply foldl_keeps
    | (intro _; intros; try dsimp only)
    | split
    | (with_reducible apply State.mk_keeps <;> first | exact Or.inr (mem_of_covers hL rfl) | with_reducible exact Or.inl rfl | skip)

theorem State.codecError_keeps {s : State} {p : Nat} {space : Nat} {a : Nat} {cause : CodecCause} {persistent : Bool} {group : Option Nat} {s0 : State} {L : List Field} (hL : covers [.regs, .counters, .seq, .seqReported, .events, .parts, .ports] L = true) (h : s0.same L s) : s0.same L (State.codecError s p space a cause persistent group) := by
  unfold State.codecError
  try dsimp only
  repeat' first
    | with_reducible assumption
    | with_reducible apply State.raiseFor_keeps (covers_trans rfl hL)
    | with_reducible apply State.setPair_keeps (covers_trans rfl hL)
    | with_reducible apply State.count_keeps (covers_trans rfl hL)
    | with_reducible apply State.set_keeps (covers_trans rfl hL)
    | with_reducible apply State.persistentError_keeps (covers_trans rfl hL)
    | with_reducible apply State.transientError_keeps (covers_trans rfl hL)
    | with_reducible apply foldl_keeps
    | (intro _; intros; try dsimp only)
    | split
    | (with_reducible apply State.mk_keeps <;> first | exact Or.inr (mem_of_covers hL rfl) | with_reducible exact Or.inl rfl | skip)

theorem State.modQueue_keeps {s : State} {p : Nat} {q : Nat} {f : QueueRun → QueueRun} {s0 : State} {L : List Field} (hL : covers [.parts] L = true) (h : s0.same L s) : s0.same L (State.modQueue s p q f) := by
  unfold State.modQueue
  try dsimp only
  repeat' first
    | with_reducible assumption
    | with_reducible apply State.modPart_keeps (covers_trans rfl hL)
    | with_reducible apply foldl_keeps
    | (intro _; intros; try dsimp only)
    | split
    | (with_reducible apply State.mk_keeps <;> first | exact Or.inr (mem_of_covers hL rfl) | with_reducible exact Or.inl rfl | skip)

theorem State.readQueue_keeps {s : State} {p : Nat} {q : Nat} {c : Nat} {pays : Bool} {s0 : State} {L : List Field} (hL : covers [.regs, .counters, .seq, .seqReported, .stamped, .events, .parts, .credits, .out] L = true) (h : s0.same L s) : s0.same L (State.readQueue s p q c pays).2 := by
  unfold State.readQueue
  try dsimp only
  repeat' first
    | with_reducible assumption
    | with_reducible apply State.modQueue_keeps (covers_trans rfl hL)
    | with_reducible apply State.count_keeps (covers_trans rfl hL)
    | with_reducible apply State.issueStamp_keeps (covers_trans rfl hL)
    | with_reducible apply State.raise_keeps (covers_trans rfl hL)
    | with_reducible apply foldl_keeps
    | (intro _; intros; try dsimp only)
    | split
    | (with_reducible apply State.mk_keeps <;> first | exact Or.inr (mem_of_covers hL rfl) | with_reducible exact Or.inl rfl | skip)

theorem State.readQueueN_keeps {s : State} {p : Nat} {q : Nat} {c : Nat} {pays : Bool} {a : Nat} {s0 : State} {L : List Field} (hL : covers [.regs, .counters, .seq, .seqReported, .stamped, .events, .parts, .credits, .out] L = true) (h : s0.same L s) : s0.same L (State.readQueueN s p q c pays a).2 := by
  induction a generalizing s with
  | zero => exact h
  | succ n ih =>
    simp only [State.readQueueN]
    exact ih (State.readQueue_keeps (covers_trans rfl hL) h)

theorem State.writeQueue_keeps {s : State} {p : Nat} {q : Nat} {i : QueueItem} {s0 : State} {L : List Field} (hL : covers [.parts] L = true) (h : s0.same L s) : s0.same L (State.writeQueue s p q i) := by
  unfold State.writeQueue
  try dsimp only
  repeat' first
    | with_reducible assumption
    | with_reducible apply State.modQueue_keeps (covers_trans rfl hL)
    | with_reducible apply foldl_keeps
    | (intro _; intros; try dsimp only)
    | split
    | (with_reducible apply State.mk_keeps <;> first | exact Or.inr (mem_of_covers hL rfl) | with_reducible exact Or.inl rfl | skip)

theorem State.raiseOnce_keeps {s : State} {c : Nat} {e : EvKind} {d : Detail} {s0 : State} {L : List Field} (hL : covers [.regs, .seq, .seqReported, .events, .cores] L = true) (h : s0.same L s) : s0.same L (State.raiseOnce s c e d) := by
  unfold State.raiseOnce
  try dsimp only
  repeat' first
    | with_reducible assumption
    | with_reducible apply State.raise_keeps (covers_trans rfl hL)
    | with_reducible apply State.modCore_keeps (covers_trans rfl hL)
    | with_reducible apply foldl_keeps
    | (intro _; intros; try dsimp only)
    | split
    | (with_reducible apply State.mk_keeps <;> first | exact Or.inr (mem_of_covers hL rfl) | with_reducible exact Or.inl rfl | skip)

theorem State.noteWait_keeps {s : State} {c : Nat} {key : Nat} {queue : Nat} {s0 : State} {L : List Field} (hL : covers [.regs, .counters, .seq, .seqReported, .events, .cores] L = true) (h : s0.same L s) : s0.same L (State.noteWait s c key queue) := by
  unfold State.noteWait
  try dsimp only
  repeat' first
    | with_reducible assumption
    | with_reducible apply State.modCore_keeps (covers_trans rfl hL)
    | with_reducible apply State.count_keeps (covers_trans rfl hL)
    | with_reducible apply State.raise_keeps (covers_trans rfl hL)
    | with_reducible apply foldl_keeps
    | (intro _; intros; try dsimp only)
    | split
    | (with_reducible apply State.mk_keeps <;> first | exact Or.inr (mem_of_covers hL rfl) | with_reducible exact Or.inl rfl | skip)

theorem State.endWaits_keeps {s : State} {p : Nat} {c : Nat} {s0 : State} {L : List Field} (hL : covers [.cores] L = true) (h : s0.same L s) : s0.same L (State.endWaits s p c) := by
  unfold State.endWaits
  try dsimp only
  repeat' first
    | with_reducible assumption
    | with_reducible apply State.modCore_keeps (covers_trans rfl hL)
    | with_reducible apply foldl_keeps
    | (intro _; intros; try dsimp only)
    | split
    | (with_reducible apply State.mk_keeps <;> first | exact Or.inr (mem_of_covers hL rfl) | with_reducible exact Or.inl rfl | skip)

theorem doTokenReceived_keeps {core : Nat} {graph : Nat} {task : Nat} {s : State} {s0 : State} {L : List Field} (hL : covers [.cores, .tokens] L = true) (h : s0.same L s) : s0.same L (doTokenReceived core graph task s) := by
  unfold doTokenReceived
  try dsimp only
  repeat' first
    | with_reducible assumption
    | with_reducible apply State.modCore_keeps (covers_trans rfl hL)
    | with_reducible apply foldl_keeps
    | (intro _; intros; try dsimp only)
    | split
    | (with_reducible apply State.mk_keeps <;> first | exact Or.inr (mem_of_covers hL rfl) | with_reducible exact Or.inl rfl | skip)

theorem State.endShare_keeps {s : State} {p : Nat} {c : Nat} {g : Nat} {t : Nat} {task : Task} {hits : Nat} {bad : Bool} {s0 : State} {L : List Field} (hL : covers [.regs, .counters, .seq, .seqReported, .events, .parts, .cores, .devQueues] L = true) (h : s0.same L s) : s0.same L (State.endShare s p c g t task hits bad) := by
  unfold State.endShare
  try dsimp only
  repeat' first
    | with_reducible assumption
    | with_reducible apply State.modRun_keeps (covers_trans rfl hL)
    | with_reducible apply State.count_keeps (covers_trans rfl hL)
    | with_reducible apply State.modCore_keeps (covers_trans rfl hL)
    | with_reducible apply State.leaveDevelopers_keeps (covers_trans rfl hL)
    | with_reducible apply State.set_keeps (covers_trans rfl hL)
    | with_reducible apply State.raise_keeps (covers_trans rfl hL)
    | with_reducible apply foldl_keeps
    | (intro _; intros; try dsimp only)
    | split
    | (with_reducible apply State.mk_keeps <;> first | exact Or.inr (mem_of_covers hL rfl) | with_reducible exact Or.inl rfl | skip)

theorem State.keepCredits_keeps {s : State} {r : Running} {s0 : State} {L : List Field} (hL : covers [.parts] L = true) (h : s0.same L s) : s0.same L (State.keepCredits s r) := by
  unfold State.keepCredits
  try dsimp only
  repeat' first
    | with_reducible assumption
    | with_reducible apply State.modQueue_keeps (covers_trans rfl hL)
    | with_reducible apply foldl_keeps
    | (intro _; intros; try dsimp only)
    | split
    | (with_reducible apply State.mk_keeps <;> first | exact Or.inr (mem_of_covers hL rfl) | with_reducible exact Or.inl rfl | skip)

theorem State.endEmpty_keeps {s : State} {c : Nat} {r : Running} {s0 : State} {L : List Field} (hL : covers [.regs, .counters, .seq, .seqReported, .events, .parts, .cores, .devQueues] L = true) (h : s0.same L s) : s0.same L (State.endEmpty s c r) := by
  unfold State.endEmpty
  try dsimp only
  repeat' first
    | with_reducible assumption
    | with_reducible apply State.endShare_keeps (covers_trans rfl hL)
    | with_reducible apply foldl_keeps
    | (intro _; intros; try dsimp only)
    | split
    | (with_reducible apply State.mk_keeps <;> first | exact Or.inr (mem_of_covers hL rfl) | with_reducible exact Or.inl rfl | skip)

theorem State.readErrors_keeps {s : State} {r : Running} {o : Operand} {blocks : List Nat} {s0 : State} {L : List Field} (hL : covers [.regs, .counters, .seq, .seqReported, .events, .parts, .ports] L = true) (h : s0.same L s) : s0.same L (State.readErrors s r o blocks) := by
  unfold State.readErrors
  try dsimp only
  repeat' first
    | with_reducible assumption
    | with_reducible apply State.codecError_keeps (covers_trans rfl hL)
    | with_reducible apply foldl_keeps
    | (intro _; intros; try dsimp only)
    | split
    | (with_reducible apply State.mk_keeps <;> first | exact Or.inr (mem_of_covers hL rfl) | with_reducible exact Or.inl rfl | skip)

theorem State.load_keeps {s : State} {r : Running} {o : Operand} {runs : List Run} {s0 : State} {L : List Field} (hL : covers [.regs, .counters, .seq, .seqReported, .events, .parts, .ports] L = true) (h : s0.same L s) : s0.same L (State.load s r o runs) := by
  unfold State.load
  try dsimp only
  repeat' first
    | with_reducible assumption
    | with_reducible apply State.count_keeps (covers_trans rfl hL)
    | with_reducible apply State.readErrors_keeps (covers_trans rfl hL)
    | with_reducible apply foldl_keeps
    | (intro _; intros; try dsimp only)
    | split
    | (with_reducible apply State.mk_keeps <;> first | exact Or.inr (mem_of_covers hL rfl) | with_reducible exact Or.inl rfl | skip)

theorem State.loadAll_keeps {s : State} {r : Running} {reads : List (Operand × List Run)} {s0 : State} {L : List Field} (hL : covers [.regs, .counters, .seq, .seqReported, .events, .parts, .ports] L = true) (h : s0.same L s) : s0.same L (State.loadAll s r reads).1 := by
  unfold State.loadAll
  try dsimp only
  repeat' first
    | with_reducible assumption
    | with_reducible apply State.load_keeps (covers_trans rfl hL)
    | with_reducible apply foldl_keeps
    | (intro _; intros; try dsimp only)
    | split
    | (with_reducible apply State.mk_keeps <;> first | exact Or.inr (mem_of_covers hL rfl) | with_reducible exact Or.inl rfl | skip)

theorem State.putBits_keeps {s : State} {p : Nat} {t : Tensor} {off : Nat} {codes : List Nat} {s0 : State} {L : List Field} (hL : covers [.mem, .staging, .neg, .tags, .negTags] L = true) (h : s0.same L s) : s0.same L (State.putBits s p t off codes) := by
  unfold State.putBits
  try dsimp only
  repeat' first
    | with_reducible assumption
    | with_reducible apply State.writeSpace_keeps (covers_trans rfl hL)
    | with_reducible apply foldl_keeps
    | (intro _; intros; try dsimp only)
    | split
    | (with_reducible apply State.mk_keeps <;> first | exact Or.inr (mem_of_covers hL rfl) | with_reducible exact Or.inl rfl | skip)

theorem State.putMxBlock_keeps {s : State} {p : Nat} {t : Tensor} {x : Piece} {c0 : Nat} {b : Nat} {s0 : State} {L : List Field} (hL : covers [.mem, .staging, .neg, .tags, .negTags] L = true) (h : s0.same L s) : s0.same L (State.putMxBlock s p t x c0 b) := by
  unfold State.putMxBlock
  try dsimp only
  repeat' first
    | with_reducible assumption
    | with_reducible apply State.putBits_keeps (covers_trans rfl hL)
    | with_reducible apply State.writeSpace_keeps (covers_trans rfl hL)
    | with_reducible apply foldl_keeps
    | (intro _; intros; try dsimp only)
    | split
    | (with_reducible apply State.mk_keeps <;> first | exact Or.inr (mem_of_covers hL rfl) | with_reducible exact Or.inl rfl | skip)

theorem State.putPiece_keeps {s : State} {p : Nat} {t : Tensor} {x : Piece} {s0 : State} {L : List Field} (hL : covers [.mem, .staging, .neg, .tags, .negTags] L = true) (h : s0.same L s) : s0.same L (State.putPiece s p t x) := by
  unfold State.putPiece
  try dsimp only
  repeat' first
    | with_reducible assumption
    | with_reducible apply State.putMxBlock_keeps (covers_trans rfl hL)
    | with_reducible apply State.putBits_keeps (covers_trans rfl hL)
    | with_reducible apply foldl_keeps
    | (intro _; intros; try dsimp only)
    | split
    | (with_reducible apply State.mk_keeps <;> first | exact Or.inr (mem_of_covers hL rfl) | with_reducible exact Or.inl rfl | skip)

theorem State.putGrainBlock_keeps {s : State} {p : Nat} {t : Tensor} {xs : List Piece} {b : Nat} {s0 : State} {L : List Field} (hL : covers [.mem, .staging, .neg, .tags, .negTags] L = true) (h : s0.same L s) : s0.same L (State.putGrainBlock s p t xs b) := by
  unfold State.putGrainBlock
  try dsimp only
  repeat' first
    | with_reducible assumption
    | with_reducible apply State.writeSpace_keeps (covers_trans rfl hL)
    | with_reducible apply foldl_keeps
    | (intro _; intros; try dsimp only)
    | split
    | (with_reducible apply State.mk_keeps <;> first | exact Or.inr (mem_of_covers hL rfl) | with_reducible exact Or.inl rfl | skip)

theorem State.store_keeps {s : State} {p : Nat} {t : Tensor} {xs : List Piece} {s0 : State} {L : List Field} (hL : covers [.regs, .counters, .seq, .seqReported, .events, .mem, .staging, .neg, .tags, .negTags] L = true) (h : s0.same L s) : s0.same L (State.store s p t xs) := by
  unfold State.store
  try dsimp only
  repeat' first
    | with_reducible assumption
    | with_reducible apply State.count_keeps (covers_trans rfl hL)
    | with_reducible apply State.putGrainBlock_keeps (covers_trans rfl hL)
    | with_reducible apply State.putPiece_keeps (covers_trans rfl hL)
    | with_reducible apply foldl_keeps
    | (intro _; intros; try dsimp only)
    | split
    | (with_reducible apply State.mk_keeps <;> first | exact Or.inr (mem_of_covers hL rfl) | with_reducible exact Or.inl rfl | skip)

theorem State.putMxPart_keeps {s : State} {r : Running} {t : Tensor} {x : Nat × Marked} {s0 : State} {L : List Field} (hL : covers [.mem, .staging, .neg, .tags, .negTags, .parts] L = true) (h : s0.same L s) : s0.same L (State.putMxPart s r t x).1 := by
  unfold State.putMxPart
  try dsimp only
  repeat' first
    | with_reducible assumption
    | with_reducible apply State.modRun_keeps (covers_trans rfl hL)
    | with_reducible apply State.putPiece_keeps (covers_trans rfl hL)
    | with_reducible apply foldl_keeps
    | (intro _; intros; try dsimp only)
    | split
    | (with_reducible apply State.mk_keeps <;> first | exact Or.inr (mem_of_covers hL rfl) | with_reducible exact Or.inl rfl | skip)

theorem State.storeShare_keeps {s : State} {r : Running} {t : Tensor} {xs : List Marked} {s0 : State} {L : List Field} (hL : covers [.regs, .counters, .seq, .seqReported, .events, .mem, .staging, .neg, .tags, .negTags, .parts] L = true) (h : s0.same L s) : s0.same L (State.storeShare s r t xs).1 := by
  unfold State.storeShare
  try dsimp only
  repeat' first
    | with_reducible assumption
    | with_reducible apply State.putMxPart_keeps (covers_trans rfl hL)
    | with_reducible apply State.store_keeps (covers_trans rfl hL)
    | with_reducible apply foldl_fst_keeps
    | with_reducible apply foldl_snd_keeps
    | with_reducible apply foldl_keeps
    | (intro _; intros; try dsimp only)
    | split
    | (with_reducible apply State.mk_keeps <;> first | exact Or.inr (mem_of_covers hL rfl) | with_reducible exact Or.inl rfl | skip)

theorem State.recordGrad_keeps {s : State} {r : Running} {t : Tensor} {runs : List Run} {s0 : State} {L : List Field} (hL : covers [.layers] L = true) (h : s0.same L s) : s0.same L (State.recordGrad s r t runs) := by
  unfold State.recordGrad
  try dsimp only
  repeat' first
    | with_reducible assumption
    | with_reducible apply State.recordAmax_keeps (covers_trans rfl hL)
    | with_reducible apply foldl_keeps
    | (intro _; intros; try dsimp only)
    | split
    | (with_reducible apply State.mk_keeps <;> first | exact Or.inr (mem_of_covers hL rfl) | with_reducible exact Or.inl rfl | skip)

theorem State.takeFrames_keeps {s : State} {c : Nat} {r : Running} {s0 : State} {L : List Field} (hL : covers [.regs, .counters, .seq, .seqReported, .stamped, .events, .parts, .credits, .out] L = true) (h : s0.same L s) : s0.same L (State.takeFrames s c r).2 := by
  unfold State.takeFrames
  try dsimp only
  repeat' first
    | with_reducible assumption
    | with_reducible apply State.readQueueN_keeps (covers_trans rfl hL)
    | with_reducible apply foldl_keeps
    | (intro _; intros; try dsimp only)
    | split
    | (with_reducible apply State.mk_keeps <;> first | exact Or.inr (mem_of_covers hL rfl) | with_reducible exact Or.inl rfl | skip)

theorem State.writeFrames_keeps {s : State} {r : Running} {s0 : State} {L : List Field} (hL : covers [.parts, .freeCtr] L = true) (h : s0.same L s) : s0.same L (State.writeFrames s r) := by
  unfold State.writeFrames
  try dsimp only
  repeat' first
    | with_reducible assumption
    | with_reducible apply State.useFree_keeps (covers_trans rfl hL)
    | with_reducible apply State.writeQueue_keeps (covers_trans rfl hL)
    | with_reducible apply foldl_keeps
    | (intro _; intros; try dsimp only)
    | split
    | (with_reducible apply State.mk_keeps <;> first | exact Or.inr (mem_of_covers hL rfl) | with_reducible exact Or.inl rfl | skip)

theorem State.endTask_keeps {s : State} {c : Nat} {r : Running} {hits : Nat} {bad : Bool} {s0 : State} {L : List Field} (hL : covers [.regs, .counters, .seq, .seqReported, .events, .parts, .cores, .devQueues, .freeCtr] L = true) (h : s0.same L s) : s0.same L (State.endTask s c r hits bad) := by
  unfold State.endTask
  try dsimp only
  repeat' first
    | with_reducible assumption
    | with_reducible apply State.endShare_keeps (covers_trans rfl hL)
    | with_reducible apply State.writeFrames_keeps (covers_trans rfl hL)
    | with_reducible apply foldl_keeps
    | (intro _; intros; try dsimp only)
    | split
    | (with_reducible apply State.mk_keeps <;> first | exact Or.inr (mem_of_covers hL rfl) | with_reducible exact Or.inl rfl | skip)

theorem State.touchShape_keeps {s : State} {d : Nat} {k : ShapeKey} {s0 : State} {L : List Field} (hL : covers [.shapes] L = true) (h : s0.same L s) : s0.same L (State.touchShape s d k) := by
  unfold State.touchShape
  try dsimp only
  repeat' first
    | with_reducible assumption
    | with_reducible apply foldl_keeps
    | (intro _; intros; try dsimp only)
    | split
    | (with_reducible apply State.mk_keeps <;> first | exact Or.inr (mem_of_covers hL rfl) | with_reducible exact Or.inl rfl | skip)

theorem State.enterShape_keeps {s : State} {d : Nat} {e : ShapeEntry} {s0 : State} {L : List Field} (hL : covers [.shapes] L = true) (h : s0.same L s) : s0.same L (State.enterShape s d e) := by
  unfold State.enterShape
  try dsimp only
  repeat' first
    | with_reducible assumption
    | with_reducible apply foldl_keeps
    | (intro _; intros; try dsimp only)
    | split
    | (with_reducible apply State.mk_keeps <;> first | exact Or.inr (mem_of_covers hL rfl) | with_reducible exact Or.inl rfl | skip)

theorem State.showRecord_keeps {s : State} {c : Nat} {tl : Tiling} {s0 : State} {L : List Field} (hL : covers [.regs] L = true) (h : s0.same L s) : s0.same L (State.showRecord s c tl) := by
  unfold State.showRecord
  try dsimp only
  repeat' first
    | with_reducible assumption
    | with_reducible apply State.set_keeps (covers_trans rfl hL)
    | with_reducible apply foldl_keeps
    | (intro _; intros; try dsimp only)
    | split
    | (with_reducible apply State.mk_keeps <;> first | exact Or.inr (mem_of_covers hL rfl) | with_reducible exact Or.inl rfl | skip)

theorem State.giveRecord_keeps {s : State} {c : Nat} {early : Option (Nat × Nat)} {tl : Tiling} {s0 : State} {L : List Field} (hL : covers [.regs, .counters, .seq, .seqReported, .events, .cores] L = true) (h : s0.same L s) : s0.same L (State.giveRecord s c early tl) := by
  unfold State.giveRecord
  try dsimp only
  repeat' first
    | with_reducible assumption
    | with_reducible apply State.showRecord_keeps (covers_trans rfl hL)
    | with_reducible apply State.modCore_keeps (covers_trans rfl hL)
    | with_reducible apply State.count_keeps (covers_trans rfl hL)
    | with_reducible apply foldl_keeps
    | (intro _; intros; try dsimp only)
    | split
    | (with_reducible apply State.mk_keeps <;> first | exact Or.inr (mem_of_covers hL rfl) | with_reducible exact Or.inl rfl | skip)

theorem State.lateRecord_keeps {s : State} {c : Nat} {task : Nat} {delayNs : Nat} {s0 : State} {L : List Field} (hL : covers [.regs, .counters, .seq, .seqReported, .events, .cores] L = true) (h : s0.same L s) : s0.same L (State.lateRecord s c task delayNs) := by
  unfold State.lateRecord
  try dsimp only
  repeat' first
    | with_reducible assumption
    | with_reducible apply State.count_keeps (covers_trans rfl hL)
    | with_reducible apply State.modCore_keeps (covers_trans rfl hL)
    | with_reducible apply State.raise_keeps (covers_trans rfl hL)
    | with_reducible apply foldl_keeps
    | (intro _; intros; try dsimp only)
    | split
    | (with_reducible apply State.mk_keeps <;> first | exact Or.inr (mem_of_covers hL rfl) | with_reducible exact Or.inl rfl | skip)

theorem doTilingRecord_keeps {core : Nat} {delayNs : Nat} {s : State} {s0 : State} {L : List Field} (hL : covers [.regs, .counters, .seq, .seqReported, .events, .cores, .shapes, .searches] L = true) (h : s0.same L s) : s0.same L (doTilingRecord core delayNs s) := by
  unfold doTilingRecord
  try dsimp only
  repeat' first
    | with_reducible assumption
    | with_reducible apply State.lateRecord_keeps (covers_trans rfl hL)
    | with_reducible apply State.count_keeps (covers_trans rfl hL)
    | with_reducible apply State.giveRecord_keeps (covers_trans rfl hL)
    | with_reducible apply State.touchShape_keeps (covers_trans rfl hL)
    | with_reducible apply foldl_keeps
    | (intro _; intros; try dsimp only)
    | split
    | (with_reducible apply State.mk_keeps <;> first | exact Or.inr (mem_of_covers hL rfl) | with_reducible exact Or.inl rfl | skip)

theorem doShapeSearchDone_keeps {core : Nat} {tiling : Tiling} {s : State} {s0 : State} {L : List Field} (hL : covers [.shapes, .searches] L = true) (h : s0.same L s) : s0.same L (doShapeSearchDone core tiling s) := by
  unfold doShapeSearchDone
  try dsimp only
  repeat' first
    | with_reducible assumption
    | with_reducible apply State.enterShape_keeps (covers_trans rfl hL)
    | with_reducible apply foldl_keeps
    | (intro _; intros; try dsimp only)
    | split
    | (with_reducible apply State.mk_keeps <;> first | exact Or.inr (mem_of_covers hL rfl) | with_reducible exact Or.inl rfl | skip)

theorem State.runShare_keeps {s : State} {c : Nat} {r : Running} {x : ProductRun} {s0 : State} {L : List Field} (hL : covers [.regs, .counters, .seq, .seqReported, .stamped, .events, .mem, .staging, .neg, .tags, .negTags, .parts, .cores, .credits, .layers, .devQueues, .ports, .out, .freeCtr] L = true) (h : s0.same L s) : s0.same L (State.runShare s c r x) := by
  unfold State.runShare
  try dsimp only
  repeat' first
    | with_reducible assumption
    | with_reducible apply State.takeFrames_keeps (covers_trans rfl hL)
    | with_reducible apply State.endTask_keeps (covers_trans rfl hL)
    | with_reducible apply State.loadAll_keeps (covers_trans rfl hL)
    | with_reducible apply State.storeShare_keeps (covers_trans rfl hL)
    | with_reducible apply State.recordGrad_keeps (covers_trans rfl hL)
    | with_reducible apply State.useFree_keeps (covers_trans rfl hL)
    | with_reducible apply State.modCore_keeps (covers_trans rfl hL)
    | with_reducible apply foldl_keeps
    | (intro _; intros; try dsimp only)
    | split
    | (with_reducible apply State.mk_keeps <;> first | exact Or.inr (mem_of_covers hL rfl) | with_reducible exact Or.inl rfl | skip)

theorem State.tileIllegal_keeps {s : State} {c : Nat} {r : Running} {x : Nat × Nat × Nat} {s0 : State} {L : List Field} (hL : covers [.regs, .counters, .seq, .seqReported, .events, .parts, .cores, .devQueues, .ports, .freeCtr] L = true) (h : s0.same L s) : s0.same L (State.tileIllegal s c r x) := by
  unfold State.tileIllegal
  try dsimp only
  repeat' first
    | with_reducible assumption
    | with_reducible apply State.raise_keeps (covers_trans rfl hL)
    | with_reducible apply State.endTask_keeps (covers_trans rfl hL)
    | with_reducible apply State.stepFault_keeps (covers_trans rfl hL)
    | with_reducible apply State.count_keeps (covers_trans rfl hL)
    | with_reducible apply foldl_keeps
    | (intro _; intros; try dsimp only)
    | split
    | (with_reducible apply State.mk_keeps <;> first | exact Or.inr (mem_of_covers hL rfl) | with_reducible exact Or.inl rfl | skip)

theorem State.arrayProduct_keeps {s : State} {c : Nat} {r : Running} {q : Product} {tl : Tiling} {s0 : State} {L : List Field} (hL : covers [.regs, .counters, .seq, .seqReported, .stamped, .events, .mem, .staging, .neg, .tags, .negTags, .parts, .cores, .credits, .layers, .devQueues, .ports, .out, .freeCtr] L = true) (h : s0.same L s) : s0.same L (State.arrayProduct s c r q tl) := by
  unfold State.arrayProduct
  try dsimp only
  repeat' first
    | with_reducible assumption
    | with_reducible apply State.endTask_keeps (covers_trans rfl hL)
    | with_reducible apply State.set_keeps (covers_trans rfl hL)
    | with_reducible apply State.tileIllegal_keeps (covers_trans rfl hL)
    | with_reducible apply State.count_keeps (covers_trans rfl hL)
    | with_reducible apply State.runShare_keeps (covers_trans rfl hL)
    | with_reducible apply foldl_keeps
    | (intro _; intros; try dsimp only)
    | split
    | (with_reducible apply State.mk_keeps <;> first | exact Or.inr (mem_of_covers hL rfl) | with_reducible exact Or.inl rfl | skip)

theorem State.vectorProduct_keeps {s : State} {c : Nat} {r : Running} {q : Product} {s0 : State} {L : List Field} (hL : covers [.regs, .counters, .seq, .seqReported, .stamped, .events, .mem, .staging, .neg, .tags, .negTags, .parts, .cores, .credits, .layers, .devQueues, .ports, .out, .freeCtr] L = true) (h : s0.same L s) : s0.same L (State.vectorProduct s c r q) := by
  unfold State.vectorProduct
  try dsimp only
  repeat' first
    | with_reducible assumption
    | with_reducible apply State.endTask_keeps (covers_trans rfl hL)
    | with_reducible apply State.runShare_keeps (covers_trans rfl hL)
    | with_reducible apply foldl_keeps
    | (intro _; intros; try dsimp only)
    | split
    | (with_reducible apply State.mk_keeps <;> first | exact Or.inr (mem_of_covers hL rfl) | with_reducible exact Or.inl rfl | skip)

theorem State.productAtOnce_keeps {s : State} {c : Nat} {r : Running} {q : Product} {s0 : State} {L : List Field} (hL : covers [.regs, .counters, .seq, .seqReported, .stamped, .events, .mem, .staging, .neg, .tags, .negTags, .parts, .cores, .credits, .layers, .devQueues, .ports, .out, .freeCtr] L = true) (h : s0.same L s) : s0.same L (State.productAtOnce s c r q) := by
  unfold State.productAtOnce
  try dsimp only
  repeat' first
    | with_reducible assumption
    | with_reducible apply State.runShare_keeps (covers_trans rfl hL)
    | with_reducible apply State.endTask_keeps (covers_trans rfl hL)
    | with_reducible apply foldl_keeps
    | (intro _; intros; try dsimp only)
    | split
    | (with_reducible apply State.mk_keeps <;> first | exact Or.inr (mem_of_covers hL rfl) | with_reducible exact Or.inl rfl | skip)

theorem State.productTask_keeps {s : State} {c : Nat} {ok : Task → Bool} {s0 : State} {L : List Field} (hL : covers [.regs, .counters, .seq, .seqReported, .stamped, .events, .mem, .staging, .neg, .tags, .negTags, .parts, .cores, .credits, .layers, .devQueues, .ports, .out, .freeCtr] L = true) (h : s0.same L s) : s0.same L (State.productTask s c ok) := by
  unfold State.productTask
  try dsimp only
  repeat' first
    | with_reducible assumption
    | with_reducible apply State.endEmpty_keeps (covers_trans rfl hL)
    | with_reducible apply State.keepCredits_keeps (covers_trans rfl hL)
    | with_reducible apply State.count_keeps (covers_trans rfl hL)
    | with_reducible apply State.productAtOnce_keeps (covers_trans rfl hL)
    | with_reducible apply State.vectorProduct_keeps (covers_trans rfl hL)
    | with_reducible apply State.arrayProduct_keeps (covers_trans rfl hL)
    | with_reducible apply foldl_keeps
    | (intro _; intros; try dsimp only)
    | split
    | (with_reducible apply State.mk_keeps <;> first | exact Or.inr (mem_of_covers hL rfl) | with_reducible exact Or.inl rfl | skip)

theorem doMatrixProduct_keeps {core : Nat} {s : State} {s0 : State} {L : List Field} (hL : covers [.regs, .counters, .seq, .seqReported, .stamped, .events, .mem, .staging, .neg, .tags, .negTags, .parts, .cores, .credits, .layers, .devQueues, .ports, .out, .freeCtr] L = true) (h : s0.same L s) : s0.same L (doMatrixProduct core s) := by
  unfold doMatrixProduct
  try dsimp only
  repeat' first
    | with_reducible assumption
    | with_reducible apply State.productTask_keeps (covers_trans rfl hL)
    | with_reducible apply foldl_keeps
    | (intro _; intros; try dsimp only)
    | split
    | (with_reducible apply State.mk_keeps <;> first | exact Or.inr (mem_of_covers hL rfl) | with_reducible exact Or.inl rfl | skip)

theorem doDataGradientProduct_keeps {core : Nat} {s : State} {s0 : State} {L : List Field} (hL : covers [.regs, .counters, .seq, .seqReported, .stamped, .events, .mem, .staging, .neg, .tags, .negTags, .parts, .cores, .credits, .layers, .devQueues, .ports, .out, .freeCtr] L = true) (h : s0.same L s) : s0.same L (doDataGradientProduct core s) := by
  unfold doDataGradientProduct
  try dsimp only
  repeat' first
    | with_reducible assumption
    | with_reducible apply State.productTask_keeps (covers_trans rfl hL)
    | with_reducible apply foldl_keeps
    | (intro _; intros; try dsimp only)
    | split
    | (with_reducible apply State.mk_keeps <;> first | exact Or.inr (mem_of_covers hL rfl) | with_reducible exact Or.inl rfl | skip)

theorem doWeightGradientProduct_keeps {core : Nat} {s : State} {s0 : State} {L : List Field} (hL : covers [.regs, .counters, .seq, .seqReported, .stamped, .events, .mem, .staging, .neg, .tags, .negTags, .parts, .cores, .credits, .layers, .devQueues, .ports, .out, .freeCtr] L = true) (h : s0.same L s) : s0.same L (doWeightGradientProduct core s) := by
  unfold doWeightGradientProduct
  try dsimp only
  repeat' first
    | with_reducible assumption
    | with_reducible apply State.productTask_keeps (covers_trans rfl hL)
    | with_reducible apply foldl_keeps
    | (intro _; intros; try dsimp only)
    | split
    | (with_reducible apply State.mk_keeps <;> first | exact Or.inr (mem_of_covers hL rfl) | with_reducible exact Or.inl rfl | skip)

end Sys2Proof.Machine
end

