-- ==== Sys2Proof/Laws/Keeps3.lean ====
section
/-! SUPPORT. The fields an operation leaves alone, for the operations in Vector.lean, Developer.lean, Requests.lean, Contexts.lean, Attention.lean, Experts.lean. -/

set_option Elab.async false

namespace Sys2Proof.Machine

theorem State.endVector_keeps {s : State} {c : Nat} {r : Running} {reads : List (Operand × List Run)} {out : Tensor} {ps : List Piece} {free : Nat} {s0 : State} {L : List Field} (hL : covers [.regs, .counters, .seq, .seqReported, .events, .mem, .staging, .neg, .tags, .negTags, .parts, .cores, .devQueues, .ports, .freeCtr] L = true) (h : s0.same L s) : s0.same L (State.endVector s c r reads out ps free) := by
  unfold State.endVector
  try dsimp only
  repeat' first
    | with_reducible assumption
    | with_reducible apply State.loadAll_keeps (covers_trans rfl hL)
    | with_reducible apply State.store_keeps (covers_trans rfl hL)
    | with_reducible apply State.endTask_keeps (covers_trans rfl hL)
    | with_reducible apply State.useFree_keeps (covers_trans rfl hL)
    | with_reducible apply foldl_keeps
    | (intro _; intros; try dsimp only)
    | split
    | (with_reducible apply State.mk_keeps <;> first | exact Or.inr (mem_of_covers hL rfl) | with_reducible exact Or.inl rfl | skip)

theorem State.absMaxShare_keeps {s : State} {c : Nat} {r : Running} {a : Operand} {out : Tensor} {ks : List Nat} {frames : List (Option QueueItem)} {s0 : State} {L : List Field} (hL : covers [.regs, .counters, .seq, .seqReported, .events, .mem, .staging, .neg, .tags, .negTags, .parts, .cores, .devQueues, .ports, .freeCtr] L = true) (h : s0.same L s) : s0.same L (State.absMaxShare s c r a out ks frames) := by
  unfold State.absMaxShare
  try dsimp only
  repeat' first
    | with_reducible assumption
    | with_reducible apply State.endVector_keeps (covers_trans rfl hL)
    | with_reducible apply State.loadAll_keeps (covers_trans rfl hL)
    | with_reducible apply State.endTask_keeps (covers_trans rfl hL)
    | with_reducible apply foldl_keeps
    | (intro _; intros; try dsimp only)
    | split
    | (with_reducible apply State.mk_keeps <;> first | exact Or.inr (mem_of_covers hL rfl) | with_reducible exact Or.inl rfl | skip)

theorem doVectorKernel_keeps {core : Nat} {s : State} {s0 : State} {L : List Field} (hL : covers [.regs, .counters, .seq, .seqReported, .stamped, .events, .mem, .staging, .neg, .tags, .negTags, .parts, .cores, .credits, .devQueues, .ports, .out, .freeCtr] L = true) (h : s0.same L s) : s0.same L (doVectorKernel core s) := by
  unfold doVectorKernel
  try dsimp only
  repeat' first
    | with_reducible assumption
    | with_reducible apply State.endTask_keeps (covers_trans rfl hL)
    | with_reducible apply State.takeFrames_keeps (covers_trans rfl hL)
    | with_reducible apply State.absMaxShare_keeps (covers_trans rfl hL)
    | with_reducible apply State.endVector_keeps (covers_trans rfl hL)
    | with_reducible apply foldl_keeps
    | (intro _; intros; try dsimp only)
    | split
    | (with_reducible apply State.mk_keeps <;> first | exact Or.inr (mem_of_covers hL rfl) | with_reducible exact Or.inl rfl | skip)

theorem State.rangeErrors_keeps {s : State} {c : Nat} {r : Running} {bad : List Int} {s0 : State} {L : List Field} (hL : covers [.regs, .counters, .seq, .seqReported, .events, .parts] L = true) (h : s0.same L s) : s0.same L (State.rangeErrors s c r bad) := by
  unfold State.rangeErrors
  try dsimp only
  repeat' first
    | with_reducible assumption
    | with_reducible apply State.modRun_keeps (covers_trans rfl hL)
    | with_reducible apply State.count_keeps (covers_trans rfl hL)
    | with_reducible apply State.raise_keeps (covers_trans rfl hL)
    | with_reducible apply foldl_keeps
    | (intro _; intros; try dsimp only)
    | split
    | (with_reducible apply State.mk_keeps <;> first | exact Or.inr (mem_of_covers hL rfl) | with_reducible exact Or.inl rfl | skip)

theorem State.indexTask_keeps {s : State} {c : Nat} {mode : Nat} {f : State →   Running →     Tensor →       Tensor →         Tensor → List Nat → List Nat → List Piece × List Run} {s0 : State} {L : List Field} (hL : covers [.regs, .counters, .seq, .seqReported, .stamped, .events, .mem, .staging, .neg, .tags, .negTags, .parts, .cores, .credits, .devQueues, .ports, .out, .freeCtr] L = true) (h : s0.same L s) : s0.same L (State.indexTask s c mode f) := by
  unfold State.indexTask
  try dsimp only
  repeat' first
    | with_reducible assumption
    | with_reducible apply State.endTask_keeps (covers_trans rfl hL)
    | with_reducible apply State.takeFrames_keeps (covers_trans rfl hL)
    | with_reducible apply State.rangeErrors_keeps (covers_trans rfl hL)
    | with_reducible apply State.endVector_keeps (covers_trans rfl hL)
    | with_reducible apply foldl_keeps
    | (intro _; intros; try dsimp only)
    | split
    | (with_reducible apply State.mk_keeps <;> first | exact Or.inr (mem_of_covers hL rfl) | with_reducible exact Or.inl rfl | skip)

theorem doGather_keeps {core : Nat} {s : State} {s0 : State} {L : List Field} (hL : covers [.regs, .counters, .seq, .seqReported, .stamped, .events, .mem, .staging, .neg, .tags, .negTags, .parts, .cores, .credits, .devQueues, .ports, .out, .freeCtr] L = true) (h : s0.same L s) : s0.same L (doGather core s) := by
  unfold doGather
  try dsimp only
  repeat' first
    | with_reducible assumption
    | with_reducible apply State.indexTask_keeps (covers_trans rfl hL)
    | with_reducible apply foldl_keeps
    | (intro _; intros; try dsimp only)
    | split
    | (with_reducible apply State.mk_keeps <;> first | exact Or.inr (mem_of_covers hL rfl) | with_reducible exact Or.inl rfl | skip)

theorem doScatter_keeps {core : Nat} {s : State} {s0 : State} {L : List Field} (hL : covers [.regs, .counters, .seq, .seqReported, .stamped, .events, .mem, .staging, .neg, .tags, .negTags, .parts, .cores, .credits, .devQueues, .ports, .out, .freeCtr] L = true) (h : s0.same L s) : s0.same L (doScatter core s) := by
  unfold doScatter
  try dsimp only
  repeat' first
    | with_reducible assumption
    | with_reducible apply State.indexTask_keeps (covers_trans rfl hL)
    | with_reducible apply foldl_keeps
    | (intro _; intros; try dsimp only)
    | split
    | (with_reducible apply State.mk_keeps <;> first | exact Or.inr (mem_of_covers hL rfl) | with_reducible exact Or.inl rfl | skip)

theorem doScatterAdd_keeps {core : Nat} {s : State} {s0 : State} {L : List Field} (hL : covers [.regs, .counters, .seq, .seqReported, .stamped, .events, .mem, .staging, .neg, .tags, .negTags, .parts, .cores, .credits, .devQueues, .ports, .out, .freeCtr] L = true) (h : s0.same L s) : s0.same L (doScatterAdd core s) := by
  unfold doScatterAdd
  try dsimp only
  repeat' first
    | with_reducible assumption
    | with_reducible apply State.indexTask_keeps (covers_trans rfl hL)
    | with_reducible apply foldl_keeps
    | (intro _; intros; try dsimp only)
    | split
    | (with_reducible apply State.mk_keeps <;> first | exact Or.inr (mem_of_covers hL rfl) | with_reducible exact Or.inl rfl | skip)

theorem State.putCodes_keeps {s : State} {p : Nat} {t : Tensor} {xs : List (Nat × Nat)} {s0 : State} {L : List Field} (hL : covers [.regs, .counters, .seq, .seqReported, .events, .mem, .staging, .neg, .tags, .negTags] L = true) (h : s0.same L s) : s0.same L (State.putCodes s p t xs) := by
  unfold State.putCodes
  try dsimp only
  repeat' first
    | with_reducible assumption
    | with_reducible apply State.clearWrite_keeps (covers_trans rfl hL)
    | with_reducible apply State.writeSpace_keeps (covers_trans rfl hL)
    | with_reducible apply foldl_keeps
    | (intro _; intros; try dsimp only)
    | split
    | (with_reducible apply State.mk_keeps <;> first | exact Or.inr (mem_of_covers hL rfl) | with_reducible exact Or.inl rfl | skip)

theorem State.devDraw_keeps {s : State} {p : Nat} {unit : Nat} {s0 : State} {L : List Field} (hL : covers [.devDraws] L = true) (h : s0.same L s) : s0.same L (State.devDraw s p unit).2 := by
  unfold State.devDraw
  try dsimp only
  repeat' first
    | with_reducible assumption
    | with_reducible apply foldl_keeps
    | (intro _; intros; try dsimp only)
    | split
    | (with_reducible apply State.mk_keeps <;> first | exact Or.inr (mem_of_covers hL rfl) | with_reducible exact Or.inl rfl | skip)

theorem State.srSaturate_keeps {s : State} {p : Nat} {g : Nat} {s0 : State} {L : List Field} (hL : covers [.regs, .counters, .seq, .seqReported, .events, .parts] L = true) (h : s0.same L s) : s0.same L (State.srSaturate s p g) := by
  unfold State.srSaturate
  try dsimp only
  repeat' first
    | with_reducible assumption
    | with_reducible apply State.modGroup_keeps (covers_trans rfl hL)
    | with_reducible apply State.set_keeps (covers_trans rfl hL)
    | with_reducible apply State.count_keeps (covers_trans rfl hL)
    | with_reducible apply State.raise_keeps (covers_trans rfl hL)
    | with_reducible apply foldl_keeps
    | (intro _; intros; try dsimp only)
    | split
    | (with_reducible apply State.mk_keeps <;> first | exact Or.inr (mem_of_covers hL rfl) | with_reducible exact Or.inl rfl | skip)

theorem State.roundWeights_keeps {s : State} {p : Nat} {g : Nat} {t : Tensor} {xs : List (Nat × Fp)} {s0 : State} {L : List Field} (hL : covers [.regs, .counters, .seq, .seqReported, .events, .parts, .devDraws] L = true) (h : s0.same L s) : s0.same L (State.roundWeights s p g t xs).2 := by
  unfold State.roundWeights
  try dsimp only
  repeat' first
    | with_reducible assumption
    | with_reducible apply State.devDraw_keeps (covers_trans rfl hL)
    | with_reducible apply State.srSaturate_keeps (covers_trans rfl hL)
    | with_reducible apply foldl_fst_keeps
    | with_reducible apply foldl_snd_keeps
    | with_reducible apply foldl_keeps
    | (intro _; intros; try dsimp only)
    | split
    | (with_reducible apply State.mk_keeps <;> first | exact Or.inr (mem_of_covers hL rfl) | with_reducible exact Or.inl rfl | skip)

theorem State.writeBlock_keeps {s : State} {p : Nat} {g : Nat} {u : Update} {xs : List (Nat × Element)} {s0 : State} {L : List Field} (hL : covers [.regs, .counters, .seq, .seqReported, .events, .mem, .staging, .neg, .tags, .negTags, .parts, .devDraws] L = true) (h : s0.same L s) : s0.same L (State.writeBlock s p g u xs) := by
  unfold State.writeBlock
  try dsimp only
  repeat' first
    | with_reducible assumption
    | with_reducible apply State.putCodes_keeps (covers_trans rfl hL)
    | with_reducible apply State.roundWeights_keeps (covers_trans rfl hL)
    | with_reducible apply State.count_keeps (covers_trans rfl hL)
    | with_reducible apply foldl_keeps
    | (intro _; intros; try dsimp only)
    | split
    | (with_reducible apply State.mk_keeps <;> first | exact Or.inr (mem_of_covers hL rfl) | with_reducible exact Or.inl rfl | skip)

theorem State.applyBlocks_keeps {s : State} {p : Nat} {g : Nat} {u : Update} {els : List (Nat × Element)} {s0 : State} {L : List Field} (hL : covers [.regs, .counters, .seq, .seqReported, .events, .mem, .staging, .neg, .tags, .negTags, .parts, .devDraws, .ports] L = true) (h : s0.same L s) : s0.same L (State.applyBlocks s p g u els) := by
  unfold State.applyBlocks
  try dsimp only
  repeat' first
    | with_reducible assumption
    | with_reducible apply State.writeBlock_keeps (covers_trans rfl hL)
    | with_reducible apply State.stepFault_keeps (covers_trans rfl hL)
    | with_reducible apply State.tear_keeps (covers_trans rfl hL)
    | with_reducible apply foldl_keeps
    | (intro _; intros; try dsimp only)
    | split
    | (with_reducible apply State.mk_keeps <;> first | exact Or.inr (mem_of_covers hL rfl) | with_reducible exact Or.inl rfl | skip)

theorem State.writeFactors_keeps {s : State} {p : Nat} {g : Nat} {u : Update} {f : Factors} {s0 : State} {L : List Field} (hL : covers [.regs, .counters, .seq, .seqReported, .events, .mem, .staging, .neg, .tags, .negTags] L = true) (h : s0.same L s) : s0.same L (State.writeFactors s p g u f) := by
  unfold State.writeFactors
  try dsimp only
  repeat' first
    | with_reducible assumption
    | with_reducible apply State.putCodes_keeps (covers_trans rfl hL)
    | with_reducible apply foldl_keeps
    | (intro _; intros; try dsimp only)
    | split
    | (with_reducible apply State.mk_keeps <;> first | exact Or.inr (mem_of_covers hL rfl) | with_reducible exact Or.inl rfl | skip)

theorem State.writeRowSteps_keeps {s : State} {p : Nat} {u : Update} {rows : List Nat} {s0 : State} {L : List Field} (hL : covers [.regs, .counters, .seq, .seqReported, .events, .mem, .staging, .neg, .tags, .negTags] L = true) (h : s0.same L s) : s0.same L (State.writeRowSteps s p u rows) := by
  unfold State.writeRowSteps
  try dsimp only
  repeat' first
    | with_reducible assumption
    | with_reducible apply State.putCodes_keeps (covers_trans rfl hL)
    | with_reducible apply foldl_keeps
    | (intro _; intros; try dsimp only)
    | split
    | (with_reducible apply State.mk_keeps <;> first | exact Or.inr (mem_of_covers hL rfl) | with_reducible exact Or.inl rfl | skip)

theorem State.updateShare_keeps {s : State} {c : Nat} {r : Running} {g : Nat} {u : Update} {s0 : State} {L : List Field} (hL : covers [.regs, .counters, .seq, .seqReported, .events, .mem, .staging, .neg, .tags, .negTags, .parts, .devDraws, .ports] L = true) (h : s0.same L s) : s0.same L (State.updateShare s c r g u) := by
  unfold State.updateShare
  extract_lets sh all mine rows els untouched reads failed s1 s2 f vals caught s3 s4 s5
  have h1 : s0.same L s1 := by
    unfold s1
    split
    · exact h
    · exact State.count_keeps (covers_trans rfl hL) h
  have h2 : s0.same L s2 := foldl_keeps _ _ (fun _ _ h => State.load_keeps (covers_trans rfl hL) h) h1
  split
  · exact State.tear_keeps (covers_trans rfl hL) h2
  · split
    · exact State.stepFault_keeps (covers_trans rfl hL) (State.tear_keeps (covers_trans rfl hL) h2)
    · have h3 : s0.same L s3 := State.applyBlocks_keeps (covers_trans rfl hL) h2
      have h4 : s0.same L s4 := by
        unfold s4
        split
        · exact State.writeFactors_keeps (covers_trans rfl hL) h3
        · exact h3
      split
      · exact h4
      · have h5 : s0.same L s5 := by
          unfold s5
          split
          · exact h4
          · exact State.count_keeps (covers_trans rfl hL) h4
        split
        · exact State.writeRowSteps_keeps (covers_trans rfl hL) h5
        · exact h5

theorem State.groupUpdated_keeps {s : State} {c : Nat} {r : Running} {g : Nat} {u : Update} {s0 : State} {L : List Field} (hL : covers [.regs, .counters, .seq, .seqReported, .events, .parts] L = true) (h : s0.same L s) : s0.same L (State.groupUpdated s c r g u) := by
  unfold State.groupUpdated
  try dsimp only
  repeat' first
    | with_reducible assumption
    | with_reducible apply State.count_keeps (covers_trans rfl hL)
    | with_reducible apply State.modGroup_keeps (covers_trans rfl hL)
    | with_reducible apply foldl_keeps
    | (intro _; intros; try dsimp only)
    | split
    | (with_reducible apply State.mk_keeps <;> first | exact Or.inr (mem_of_covers hL rfl) | with_reducible exact Or.inl rfl | skip)

theorem State.discardUpdate_keeps {s : State} {c : Nat} {r : Running} {g : Nat} {s0 : State} {L : List Field} (hL : covers [.regs, .counters, .seq, .seqReported, .events, .parts] L = true) (h : s0.same L s) : s0.same L (State.discardUpdate s c r g) := by
  unfold State.discardUpdate
  try dsimp only
  repeat' first
    | with_reducible assumption
    | with_reducible apply State.modGroup_keeps (covers_trans rfl hL)
    | with_reducible apply State.count_keeps (covers_trans rfl hL)
    | with_reducible apply State.raise_keeps (covers_trans rfl hL)
    | with_reducible apply foldl_keeps
    | (intro _; intros; try dsimp only)
    | split
    | (with_reducible apply State.mk_keeps <;> first | exact Or.inr (mem_of_covers hL rfl) | with_reducible exact Or.inl rfl | skip)

theorem State.skipUpdate_keeps {s : State} {p : Nat} {g : Nat} {s0 : State} {L : List Field} (hL : covers [.regs, .counters, .seq, .seqReported, .events, .parts] L = true) (h : s0.same L s) : s0.same L (State.skipUpdate s p g) := by
  unfold State.skipUpdate
  try dsimp only
  repeat' first
    | with_reducible assumption
    | with_reducible apply State.count_keeps (covers_trans rfl hL)
    | with_reducible apply State.modGroup_keeps (covers_trans rfl hL)
    | with_reducible apply foldl_keeps
    | (intro _; intros; try dsimp only)
    | split
    | (with_reducible apply State.mk_keeps <;> first | exact Or.inr (mem_of_covers hL rfl) | with_reducible exact Or.inl rfl | skip)

theorem State.runUpdate_keeps {s : State} {c : Nat} {r : Running} {g : Nat} {s0 : State} {L : List Field} (hL : covers [.regs, .counters, .seq, .seqReported, .events, .mem, .staging, .neg, .tags, .negTags, .parts, .devDraws, .ports] L = true) (h : s0.same L s) : s0.same L (State.runUpdate s c r g) := by
  unfold State.runUpdate
  try dsimp only
  repeat' first
    | with_reducible assumption
    | with_reducible apply State.discardUpdate_keeps (covers_trans rfl hL)
    | with_reducible apply State.skipUpdate_keeps (covers_trans rfl hL)
    | with_reducible apply State.groupUpdated_keeps (covers_trans rfl hL)
    | with_reducible apply State.updateShare_keeps (covers_trans rfl hL)
    | with_reducible apply foldl_keeps
    | (intro _; intros; try dsimp only)
    | split
    | (with_reducible apply State.mk_keeps <;> first | exact Or.inr (mem_of_covers hL rfl) | with_reducible exact Or.inl rfl | skip)

theorem State.noteFixerWait_keeps {s : State} {p : Nat} {g : Nat} {s0 : State} {L : List Field} (hL : covers [.regs, .counters, .seq, .seqReported, .events, .parts] L = true) (h : s0.same L s) : s0.same L (State.noteFixerWait s p g) := by
  unfold State.noteFixerWait
  try dsimp only
  repeat' first
    | with_reducible assumption
    | with_reducible apply State.count_keeps (covers_trans rfl hL)
    | with_reducible apply State.modPart_keeps (covers_trans rfl hL)
    | with_reducible apply State.raiseFor_keeps (covers_trans rfl hL)
    | with_reducible apply foldl_keeps
    | (intro _; intros; try dsimp only)
    | split
    | (with_reducible apply State.mk_keeps <;> first | exact Or.inr (mem_of_covers hL rfl) | with_reducible exact Or.inl rfl | skip)

theorem doGroupUpdate_keeps {core : Nat} {s : State} {s0 : State} {L : List Field} (hL : covers [.regs, .counters, .seq, .seqReported, .stamped, .events, .mem, .staging, .neg, .tags, .negTags, .parts, .cores, .credits, .devDraws, .devQueues, .ports, .out, .freeCtr] L = true) (h : s0.same L s) : s0.same L (doGroupUpdate core s) := by
  unfold doGroupUpdate
  try dsimp only
  repeat' first
    | with_reducible assumption
    | with_reducible apply State.takeFrames_keeps (covers_trans rfl hL)
    | with_reducible apply State.runUpdate_keeps (covers_trans rfl hL)
    | with_reducible apply State.count_keeps (covers_trans rfl hL)
    | with_reducible apply State.endTask_keeps (covers_trans rfl hL)
    | with_reducible apply foldl_keeps
    | (intro _; intros; try dsimp only)
    | split
    | (with_reducible apply State.mk_keeps <;> first | exact Or.inr (mem_of_covers hL rfl) | with_reducible exact Or.inl rfl | skip)

theorem State.request_keeps {s : State} {p : Nat} {k : RequestKind} {n : Nat} {d : Started} {s0 : State} {L : List Field} (hL : covers [.rings, .parts] L = true) (h : s0.same L s) : s0.same L (State.request s p k n d) := by
  unfold State.request
  try dsimp only
  repeat' first
    | with_reducible assumption
    | with_reducible apply State.modPart_keeps (covers_trans rfl hL)
    | with_reducible apply State.beginDesc_keeps (covers_trans rfl hL)
    | with_reducible apply foldl_keeps
    | (intro _; intros; try dsimp only)
    | split
    | (with_reducible apply State.mk_keeps <;> first | exact Or.inr (mem_of_covers hL rfl) | with_reducible exact Or.inl rfl | skip)

theorem State.requestsDue_keeps {s : State} {p : Nat} {s0 : State} {L : List Field} (hL : covers [.parts] L = true) (h : s0.same L s) : s0.same L (State.requestsDue s p) := by
  unfold State.requestsDue
  try dsimp only
  repeat' first
    | with_reducible assumption
    | with_reducible apply State.modPart_keeps (covers_trans rfl hL)
    | with_reducible apply foldl_keeps
    | (intro _; intros; try dsimp only)
    | split
    | (with_reducible apply State.mk_keeps <;> first | exact Or.inr (mem_of_covers hL rfl) | with_reducible exact Or.inl rfl | skip)

theorem State.dropRequest_keeps {s : State} {p : Nat} {r : Request} {s0 : State} {L : List Field} (hL : covers [.parts] L = true) (h : s0.same L s) : s0.same L (State.dropRequest s p r) := by
  unfold State.dropRequest
  try dsimp only
  repeat' first
    | with_reducible assumption
    | with_reducible apply State.modPart_keeps (covers_trans rfl hL)
    | with_reducible apply foldl_keeps
    | (intro _; intros; try dsimp only)
    | split
    | (with_reducible apply State.mk_keeps <;> first | exact Or.inr (mem_of_covers hL rfl) | with_reducible exact Or.inl rfl | skip)

theorem State.setCtx_keeps {s : State} {c : Nat} {x : Ctx} {s0 : State} {L : List Field} (hL : covers [.contexts] L = true) (h : s0.same L s) : s0.same L (State.setCtx s c x) := by
  unfold State.setCtx
  try dsimp only
  repeat' first
    | with_reducible assumption
    | with_reducible apply foldl_keeps
    | (intro _; intros; try dsimp only)
    | split
    | (with_reducible apply State.mk_keeps <;> first | exact Or.inr (mem_of_covers hL rfl) | with_reducible exact Or.inl rfl | skip)

theorem State.setPageRefs_keeps {s : State} {n : Nat} {v : Nat} {s0 : State} {L : List Field} (hL : covers [.pages] L = true) (h : s0.same L s) : s0.same L (State.setPageRefs s n v) := by
  unfold State.setPageRefs
  try dsimp only
  repeat' first
    | with_reducible assumption
    | with_reducible apply foldl_keeps
    | (intro _; intros; try dsimp only)
    | split
    | (with_reducible apply State.mk_keeps <;> first | exact Or.inr (mem_of_covers hL rfl) | with_reducible exact Or.inl rfl | skip)

theorem State.dropPage_keeps {s : State} {n : Nat} {s0 : State} {L : List Field} (hL : covers [.regs, .counters, .seq, .seqReported, .events, .pages] L = true) (h : s0.same L s) : s0.same L (State.dropPage s n) := by
  unfold State.dropPage
  try dsimp only
  repeat' first
    | with_reducible assumption
    | with_reducible apply State.setPageRefs_keeps (covers_trans rfl hL)
    | with_reducible apply State.count_keeps (covers_trans rfl hL)
    | with_reducible apply foldl_keeps
    | (intro _; intros; try dsimp only)
    | split
    | (with_reducible apply State.mk_keeps <;> first | exact Or.inr (mem_of_covers hL rfl) | with_reducible exact Or.inl rfl | skip)

theorem State.pickPage_keeps {s : State} {d : Nat} {s0 : State} {L : List Field} (hL : covers [.freeCtr] L = true) (h : s0.same L s) : s0.same L (State.pickPage s d).2 := by
  unfold State.pickPage
  try dsimp only
  repeat' first
    | with_reducible assumption
    | with_reducible apply State.takeFree_keeps (covers_trans rfl hL)
    | with_reducible apply foldl_keeps
    | (intro _; intros; try dsimp only)
    | split
    | (with_reducible apply State.mk_keeps <;> first | exact Or.inr (mem_of_covers hL rfl) | with_reducible exact Or.inl rfl | skip)

theorem State.allocPage_keeps {s : State} {c : Nat} {e : Nat} {s0 : State} {L : List Field} (hL : covers [.contexts, .pages, .freeCtr] L = true) (h : s0.same L s) : s0.same L (State.allocPage s c e).2 := by
  unfold State.allocPage
  have h2 := State.pickPage_keeps (covers_trans rfl hL) (d := (s.ctx c).die) h
  revert h2
  dsimp only
  rcases s.pickPage (s.ctx c).die with ⟨_ | n, s'⟩
  · exact fun h2 => h2
  · exact fun h2 => State.setCtx_keeps (covers_trans rfl hL) (State.setPageRefs_keeps (covers_trans rfl hL) h2)

theorem State.pageToWrite_keeps {s : State} {c : Nat} {layer : Nat} {pos : Nat} {s0 : State} {L : List Field} (hL : covers [.regs, .counters, .seq, .seqReported, .events, .mem, .tags, .contexts, .pages, .freeCtr] L = true) (h : s0.same L s) : s0.same L (State.pageToWrite s c layer pos).2 := by
  unfold State.pageToWrite
  dsimp only
  split
  · exact State.allocPage_keeps (covers_trans rfl hL) h
  · split
    · exact h
    · have h2 := State.allocPage_keeps (covers_trans rfl hL) (c := c) (e := (s.ctx c).entry layer pos) h
      revert h2
      rcases s.allocPage c ((s.ctx c).entry layer pos) with ⟨_ | n, s'⟩
      · exact fun h2 => h2
      · exact fun h2 => State.count_keeps (covers_trans rfl hL) (State.dropPage_keeps (covers_trans rfl hL) (State.rawHbm_keeps (covers_trans rfl hL) h2))

theorem State.putKvRow_keeps {s : State} {c : Nat} {layer : Nat} {l : KvLayer} {value : Bool} {pos : Nat} {head : Nat} {vs : List Fp} {s0 : State} {L : List Field} (hL : covers [.regs, .counters, .seq, .seqReported, .events, .mem, .tags, .contexts, .pages, .freeCtr] L = true) (h : s0.same L s) : s0.same L (State.putKvRow s c layer l value pos head vs) := by
  unfold State.putKvRow
  have h2 := State.pageToWrite_keeps (covers_trans rfl hL) (c := c) (layer := layer) (pos := pos) h
  revert h2
  rcases s.pageToWrite c layer pos with ⟨_ | n, s'⟩
  · exact fun h2 => h2
  · intro h2
    dsimp only
    split
    · exact State.rawHbm_keeps (covers_trans rfl hL) (State.rawHbm_keeps (covers_trans rfl hL) h2)
    · exact State.rawHbm_keeps (covers_trans rfl hL) h2

theorem State.directoryPlace_keeps {s : State} {s0 : State} {L : List Field} (hL : covers [.freeCtr] L = true) (h : s0.same L s) : s0.same L (State.directoryPlace s).2 := by
  unfold State.directoryPlace
  try dsimp only
  repeat' first
    | with_reducible assumption
    | with_reducible apply State.takeFree_keeps (covers_trans rfl hL)
    | with_reducible apply foldl_keeps
    | (intro _; intros; try dsimp only)
    | split
    | (with_reducible apply State.mk_keeps <;> first | exact Or.inr (mem_of_covers hL rfl) | with_reducible exact Or.inl rfl | skip)

theorem State.openCtx_keeps {s : State} {p : Nat} {c : Nat} {r : CtxRange} {idx : Nat} {maxLen : Nat} {tag : Nat} {s0 : State} {L : List Field} (hL : covers [.regs, .seq, .seqReported, .events, .contexts, .freeCtr] L = true) (h : s0.same L s) : s0.same L (State.openCtx s p c r idx maxLen tag) := by
  unfold State.openCtx
  try dsimp only
  repeat' first
    | with_reducible assumption
    | with_reducible apply State.directoryPlace_keeps (covers_trans rfl hL)
    | with_reducible apply State.setCtx_keeps (covers_trans rfl hL)
    | with_reducible apply State.stampUsed_keeps (covers_trans rfl hL)
    | with_reducible apply foldl_keeps
    | (intro _; intros; try dsimp only)
    | split
    | (with_reducible apply State.mk_keeps <;> first | exact Or.inr (mem_of_covers hL rfl) | with_reducible exact Or.inl rfl | skip)

theorem State.forkCtx_keeps {s : State} {p : Nat} {c : Nat} {parent : Nat} {r : CtxRange} {idx : Nat} {maxLen : Nat} {prefix_ : Nat} {tag : Nat} {s0 : State} {L : List Field} (hL : covers [.regs, .seq, .seqReported, .events, .contexts, .pages, .freeCtr] L = true) (h : s0.same L s) : s0.same L (State.forkCtx s p c parent r idx maxLen prefix_ tag) := by
  unfold State.forkCtx
  try dsimp only
  repeat' first
    | with_reducible assumption
    | with_reducible apply State.directoryPlace_keeps (covers_trans rfl hL)
    | with_reducible apply State.setPageRefs_keeps (covers_trans rfl hL)
    | with_reducible apply State.stampUsed_keeps (covers_trans rfl hL)
    | with_reducible apply State.setCtx_keeps (covers_trans rfl hL)
    | with_reducible apply foldl_keeps
    | (intro _; intros; try dsimp only)
    | split
    | (with_reducible apply State.mk_keeps <;> first | exact Or.inr (mem_of_covers hL rfl) | with_reducible exact Or.inl rfl | skip)

theorem State.closeCtx_keeps {s : State} {c : Nat} {s0 : State} {L : List Field} (hL : covers [.regs, .counters, .seq, .seqReported, .events, .contexts, .pages] L = true) (h : s0.same L s) : s0.same L (State.closeCtx s c) := by
  unfold State.closeCtx
  try dsimp only
  repeat' first
    | with_reducible assumption
    | with_reducible apply State.dropPage_keeps (covers_trans rfl hL)
    | with_reducible apply State.raise_keeps (covers_trans rfl hL)
    | with_reducible apply State.setCtx_keeps (covers_trans rfl hL)
    | with_reducible apply foldl_keeps
    | (intro _; intros; try dsimp only)
    | split
    | (with_reducible apply State.mk_keeps <;> first | exact Or.inr (mem_of_covers hL rfl) | with_reducible exact Or.inl rfl | skip)

theorem State.closeAllCtx_keeps {s : State} {p : Nat} {s0 : State} {L : List Field} (hL : covers [.regs, .counters, .seq, .seqReported, .events, .contexts, .pages] L = true) (h : s0.same L s) : s0.same L (State.closeAllCtx s p) := by
  unfold State.closeAllCtx
  try dsimp only
  repeat' first
    | with_reducible assumption
    | with_reducible apply State.closeCtx_keeps (covers_trans rfl hL)
    | with_reducible apply foldl_keeps
    | (intro _; intros; try dsimp only)
    | split
    | (with_reducible apply State.mk_keeps <;> first | exact Or.inr (mem_of_covers hL rfl) | with_reducible exact Or.inl rfl | skip)

theorem State.openTraining_keeps {s : State} {p : Nat} {pl : Plan} {s0 : State} {L : List Field} (hL : covers [.regs, .seq, .seqReported, .events, .contexts] L = true) (h : s0.same L s) : s0.same L (State.openTraining s p pl) := by
  unfold State.openTraining
  try dsimp only
  repeat' first
    | with_reducible assumption
    | with_reducible apply State.setCtx_keeps (covers_trans rfl hL)
    | with_reducible apply State.stampUsed_keeps (covers_trans rfl hL)
    | with_reducible apply foldl_keeps
    | (intro _; intros; try dsimp only)
    | split
    | (with_reducible apply State.mk_keeps <;> first | exact Or.inr (mem_of_covers hL rfl) | with_reducible exact Or.inl rfl | skip)

theorem State.stepCtx_keeps {s : State} {c : Nat} {r : CtxRange} {s0 : State} {L : List Field} (hL : covers [.regs, .counters, .seq, .seqReported, .events, .contexts] L = true) (h : s0.same L s) : s0.same L (State.stepCtx s c r) := by
  unfold State.stepCtx
  try dsimp only
  repeat' first
    | with_reducible assumption
    | with_reducible apply State.setCtx_keeps (covers_trans rfl hL)
    | with_reducible apply State.count_keeps (covers_trans rfl hL)
    | with_reducible apply State.raise_keeps (covers_trans rfl hL)
    | with_reducible apply foldl_keeps
    | (intro _; intros; try dsimp only)
    | split
    | (with_reducible apply State.mk_keeps <;> first | exact Or.inr (mem_of_covers hL rfl) | with_reducible exact Or.inl rfl | skip)

theorem State.stepContexts_keeps {s : State} {p : Nat} {pl : Plan} {s0 : State} {L : List Field} (hL : covers [.regs, .counters, .seq, .seqReported, .events, .contexts] L = true) (h : s0.same L s) : s0.same L (State.stepContexts s p pl) := by
  unfold State.stepContexts
  try dsimp only
  repeat' first
    | with_reducible assumption
    | with_reducible apply State.stepCtx_keeps (covers_trans rfl hL)
    | with_reducible apply foldl_keeps
    | (intro _; intros; try dsimp only)
    | split
    | (with_reducible apply State.mk_keeps <;> first | exact Or.inr (mem_of_covers hL rfl) | with_reducible exact Or.inl rfl | skip)

theorem State.requestCtx_keeps {s : State} {ring : Nat} {f : Nat → Bool} {s0 : State} {L : List Field} (hL : covers [.rings, .parts] L = true) (h : s0.same L s) : s0.same L (State.requestCtx s ring f) := by
  unfold State.requestCtx
  try dsimp only
  repeat' first
    | with_reducible assumption
    | with_reducible apply State.finish_keeps (covers_trans rfl hL)
    | with_reducible apply State.request_keeps (covers_trans rfl hL)
    | with_reducible apply foldl_keeps
    | (intro _; intros; try dsimp only)
    | split
    | (with_reducible apply State.mk_keeps <;> first | exact Or.inr (mem_of_covers hL rfl) | with_reducible exact Or.inl rfl | skip)

theorem doContextOpen_keeps {ring : Nat} {s : State} {s0 : State} {L : List Field} (hL : covers [.rings, .parts] L = true) (h : s0.same L s) : s0.same L (doContextOpen ring s) := by
  unfold doContextOpen
  try dsimp only
  repeat' first
    | with_reducible assumption
    | with_reducible apply State.requestCtx_keeps (covers_trans rfl hL)
    | with_reducible apply foldl_keeps
    | (intro _; intros; try dsimp only)
    | split
    | (with_reducible apply State.mk_keeps <;> first | exact Or.inr (mem_of_covers hL rfl) | with_reducible exact Or.inl rfl | skip)

theorem doContextFork_keeps {ring : Nat} {s : State} {s0 : State} {L : List Field} (hL : covers [.rings, .parts] L = true) (h : s0.same L s) : s0.same L (doContextFork ring s) := by
  unfold doContextFork
  try dsimp only
  repeat' first
    | with_reducible assumption
    | with_reducible apply State.requestCtx_keeps (covers_trans rfl hL)
    | with_reducible apply foldl_keeps
    | (intro _; intros; try dsimp only)
    | split
    | (with_reducible apply State.mk_keeps <;> first | exact Or.inr (mem_of_covers hL rfl) | with_reducible exact Or.inl rfl | skip)

theorem doContextClose_keeps {ring : Nat} {s : State} {s0 : State} {L : List Field} (hL : covers [.rings, .parts] L = true) (h : s0.same L s) : s0.same L (doContextClose ring s) := by
  unfold doContextClose
  try dsimp only
  repeat' first
    | with_reducible assumption
    | with_reducible apply State.requestCtx_keeps (covers_trans rfl hL)
    | with_reducible apply foldl_keeps
    | (intro _; intros; try dsimp only)
    | split
    | (with_reducible apply State.mk_keeps <;> first | exact Or.inr (mem_of_covers hL rfl) | with_reducible exact Or.inl rfl | skip)

theorem State.applyCtx_keeps {s : State} {p : Nat} {d : Started} {s0 : State} {L : List Field} (hL : covers [.regs, .counters, .seq, .seqReported, .events, .contexts, .pages, .freeCtr] L = true) (h : s0.same L s) : s0.same L (State.applyCtx s p d) := by
  unfold State.applyCtx
  try dsimp only
  repeat' first
    | with_reducible assumption
    | with_reducible apply State.openCtx_keeps (covers_trans rfl hL)
    | with_reducible apply State.forkCtx_keeps (covers_trans rfl hL)
    | with_reducible apply State.closeCtx_keeps (covers_trans rfl hL)
    | with_reducible apply foldl_keeps
    | (intro _; intros; try dsimp only)
    | split
    | (with_reducible apply State.mk_keeps <;> first | exact Or.inr (mem_of_covers hL rfl) | with_reducible exact Or.inl rfl | skip)

theorem doContextApply_keeps {p : Nat} {s : State} {s0 : State} {L : List Field} (hL : covers [.regs, .counters, .seq, .seqReported, .events, .rings, .parts, .contexts, .pages, .freeCtr] L = true) (h : s0.same L s) : s0.same L (doContextApply p s) := by
  unfold doContextApply
  try dsimp only
  repeat' first
    | with_reducible assumption
    | with_reducible apply State.dropRequest_keeps (covers_trans rfl hL)
    | with_reducible apply State.finish_keeps (covers_trans rfl hL)
    | with_reducible apply State.applyCtx_keeps (covers_trans rfl hL)
    | with_reducible apply State.count_keeps (covers_trans rfl hL)
    | with_reducible apply State.raise_keeps (covers_trans rfl hL)
    | with_reducible apply foldl_keeps
    | (intro _; intros; try dsimp only)
    | split
    | (with_reducible apply State.mk_keeps <;> first | exact Or.inr (mem_of_covers hL rfl) | with_reducible exact Or.inl rfl | skip)

theorem State.attnCounts_keeps {s : State} {c : Nat} {r : Running} {cells : List AttnCell} {s0 : State} {L : List Field} (hL : covers [.regs, .counters, .seq, .seqReported, .events, .cores] L = true) (h : s0.same L s) : s0.same L (State.attnCounts s c r cells) := by
  unfold State.attnCounts
  try dsimp only
  repeat' first
    | with_reducible assumption
    | with_reducible apply State.count_keeps (covers_trans rfl hL)
    | with_reducible apply State.raiseOnce_keeps (covers_trans rfl hL)
    | with_reducible apply foldl_keeps
    | (intro _; intros; try dsimp only)
    | split
    | (with_reducible apply State.mk_keeps <;> first | exact Or.inr (mem_of_covers hL rfl) | with_reducible exact Or.inl rfl | skip)

theorem State.appendKv_keeps {s : State} {c : Nat} {r : Running} {a : Attn} {s0 : State} {L : List Field} (hL : covers [.regs, .counters, .seq, .seqReported, .events, .mem, .tags, .contexts, .pages, .freeCtr] L = true) (h : s0.same L s) : s0.same L (State.appendKv s c r a) := by
  unfold State.appendKv
  try dsimp only
  repeat' first
    | with_reducible assumption
    | with_reducible apply State.putKvRow_keeps (covers_trans rfl hL)
    | with_reducible apply foldl_keeps
    | (intro _; intros; try dsimp only)
    | split
    | (with_reducible apply State.mk_keeps <;> first | exact Or.inr (mem_of_covers hL rfl) | with_reducible exact Or.inl rfl | skip)

theorem doAttentionForward_keeps {core : Nat} {s : State} {s0 : State} {L : List Field} (hL : covers [.regs, .counters, .seq, .seqReported, .stamped, .events, .mem, .staging, .neg, .tags, .negTags, .parts, .cores, .credits, .contexts, .pages, .devQueues, .ports, .out, .freeCtr] L = true) (h : s0.same L s) : s0.same L (doAttentionForward core s) := by
  unfold doAttentionForward
  try dsimp only
  repeat' first
    | with_reducible assumption
    | with_reducible apply State.takeFrames_keeps (covers_trans rfl hL)
    | with_reducible apply State.endTask_keeps (covers_trans rfl hL)
    | with_reducible apply State.loadAll_keeps (covers_trans rfl hL)
    | with_reducible apply State.appendKv_keeps (covers_trans rfl hL)
    | with_reducible apply State.store_keeps (covers_trans rfl hL)
    | with_reducible apply State.attnCounts_keeps (covers_trans rfl hL)
    | with_reducible apply State.count_keeps (covers_trans rfl hL)
    | with_reducible apply State.useFree_keeps (covers_trans rfl hL)
    | with_reducible apply foldl_keeps
    | (intro _; intros; try dsimp only)
    | split
    | (with_reducible apply State.mk_keeps <;> first | exact Or.inr (mem_of_covers hL rfl) | with_reducible exact Or.inl rfl | skip)

theorem State.storeGrad_keeps {s : State} {r : Running} {t : Tensor} {xs : List Marked} {s0 : State} {L : List Field} (hL : covers [.regs, .counters, .seq, .seqReported, .events, .mem, .staging, .neg, .tags, .negTags, .layers] L = true) (h : s0.same L s) : s0.same L (State.storeGrad s r t xs).2 := by
  unfold State.storeGrad
  try dsimp only
  repeat' first
    | with_reducible assumption
    | with_reducible apply State.recordGrad_keeps (covers_trans rfl hL)
    | with_reducible apply State.store_keeps (covers_trans rfl hL)
    | with_reducible apply foldl_keeps
    | (intro _; intros; try dsimp only)
    | split
    | (with_reducible apply State.mk_keeps <;> first | exact Or.inr (mem_of_covers hL rfl) | with_reducible exact Or.inl rfl | skip)

theorem doAttentionBackward_keeps {core : Nat} {s : State} {s0 : State} {L : List Field} (hL : covers [.regs, .counters, .seq, .seqReported, .stamped, .events, .mem, .staging, .neg, .tags, .negTags, .parts, .cores, .credits, .layers, .devQueues, .ports, .out, .freeCtr] L = true) (h : s0.same L s) : s0.same L (doAttentionBackward core s) := by
  unfold doAttentionBackward
  try dsimp only
  repeat' first
    | with_reducible assumption
    | with_reducible apply State.takeFrames_keeps (covers_trans rfl hL)
    | with_reducible apply State.endTask_keeps (covers_trans rfl hL)
    | with_reducible apply State.loadAll_keeps (covers_trans rfl hL)
    | with_reducible apply State.store_keeps (covers_trans rfl hL)
    | with_reducible apply State.storeGrad_keeps (covers_trans rfl hL)
    | with_reducible apply State.attnCounts_keeps (covers_trans rfl hL)
    | with_reducible apply State.useFree_keeps (covers_trans rfl hL)
    | with_reducible apply foldl_keeps
    | (intro _; intros; try dsimp only)
    | split
    | (with_reducible apply State.mk_keeps <;> first | exact Or.inr (mem_of_covers hL rfl) | with_reducible exact Or.inl rfl | skip)

theorem State.copyRow_keeps {s : State} {p : Nat} {src : RowRef} {dst : RowRef} {s0 : State} {L : List Field} (hL : covers [.regs, .counters, .seq, .seqReported, .events, .mem, .staging, .neg, .tags, .negTags] L = true) (h : s0.same L s) : s0.same L (State.copyRow s p src dst) := by
  unfold State.copyRow
  try dsimp only
  repeat' first
    | with_reducible assumption
    | with_reducible apply State.store_keeps (covers_trans rfl hL)
    | with_reducible apply State.writeSpace_keeps (covers_trans rfl hL)
    | with_reducible apply State.putBits_keeps (covers_trans rfl hL)
    | with_reducible apply foldl_keeps
    | (intro _; intros; try dsimp only)
    | split
    | (with_reducible apply State.mk_keeps <;> first | exact Or.inr (mem_of_covers hL rfl) | with_reducible exact Or.inl rfl | skip)

theorem State.zeroRow_keeps {s : State} {p : Nat} {dst : RowRef} {s0 : State} {L : List Field} (hL : covers [.regs, .counters, .seq, .seqReported, .events, .mem, .staging, .neg, .tags, .negTags] L = true) (h : s0.same L s) : s0.same L (State.zeroRow s p dst) := by
  unfold State.zeroRow
  try dsimp only
  repeat' first
    | with_reducible assumption
    | with_reducible apply State.store_keeps (covers_trans rfl hL)
    | with_reducible apply foldl_keeps
    | (intro _; intros; try dsimp only)
    | split
    | (with_reducible apply State.mk_keeps <;> first | exact Or.inr (mem_of_covers hL rfl) | with_reducible exact Or.inl rfl | skip)

theorem State.writeChoices_keeps {s : State} {p : Nat} {t : Tensor} {xs : List Choice} {s0 : State} {L : List Field} (hL : covers [.mem, .staging, .neg, .tags, .negTags] L = true) (h : s0.same L s) : s0.same L (State.writeChoices s p t xs) := by
  unfold State.writeChoices
  try dsimp only
  repeat' first
    | with_reducible assumption
    | with_reducible apply State.putBits_keeps (covers_trans rfl hL)
    | with_reducible apply foldl_keeps
    | (intro _; intros; try dsimp only)
    | split
    | (with_reducible apply State.mk_keeps <;> first | exact Or.inr (mem_of_covers hL rfl) | with_reducible exact Or.inl rfl | skip)

theorem State.zeroFill_keeps {s : State} {p : Nat} {x : Exchange} {t : Tensor} {cs : List Choice} {s0 : State} {L : List Field} (hL : covers [.regs, .counters, .seq, .seqReported, .events, .mem, .staging, .neg, .tags, .negTags] L = true) (h : s0.same L s) : s0.same L (State.zeroFill s p x t cs) := by
  unfold State.zeroFill
  try dsimp only
  repeat' first
    | with_reducible assumption
    | with_reducible apply State.zeroRow_keeps (covers_trans rfl hL)
    | with_reducible apply foldl_keeps
    | (intro _; intros; try dsimp only)
    | split
    | (with_reducible apply State.mk_keeps <;> first | exact Or.inr (mem_of_covers hL rfl) | with_reducible exact Or.inl rfl | skip)

theorem State.writeTallies_keeps {s : State} {r : Running} {x : Exchange} {t : Tensor} {cs : List Choice} {direction : Nat} {s0 : State} {L : List Field} (hL : covers [.mem, .staging, .neg, .tags, .negTags] L = true) (h : s0.same L s) : s0.same L (State.writeTallies s r x t cs direction) := by
  unfold State.writeTallies
  try dsimp only
  repeat' first
    | with_reducible assumption
    | with_reducible apply State.writeSpace_keeps (covers_trans rfl hL)
    | with_reducible apply foldl_keeps
    | (intro _; intros; try dsimp only)
    | split
    | (with_reducible apply State.mk_keeps <;> first | exact Or.inr (mem_of_covers hL rfl) | with_reducible exact Or.inl rfl | skip)

theorem State.writeLoads_keeps {s : State} {p : Nat} {x : Exchange} {t : Tensor} {cs : List Choice} {s0 : State} {L : List Field} (hL : covers [.mem, .staging, .neg, .tags, .negTags] L = true) (h : s0.same L s) : s0.same L (State.writeLoads s p x t cs) := by
  unfold State.writeLoads
  try dsimp only
  repeat' first
    | with_reducible assumption
    | with_reducible apply State.putBits_keeps (covers_trans rfl hL)
    | with_reducible apply foldl_keeps
    | (intro _; intros; try dsimp only)
    | split
    | (with_reducible apply State.mk_keeps <;> first | exact Or.inr (mem_of_covers hL rfl) | with_reducible exact Or.inl rfl | skip)

theorem State.noteOverflow_keeps {s : State} {c : Nat} {x : Exchange} {cs : List Choice} {s0 : State} {L : List Field} (hL : covers [.regs, .counters, .seq, .seqReported, .events, .cores] L = true) (h : s0.same L s) : s0.same L (State.noteOverflow s c x cs) := by
  unfold State.noteOverflow
  try dsimp only
  repeat' first
    | with_reducible assumption
    | with_reducible apply State.raiseOnce_keeps (covers_trans rfl hL)
    | with_reducible apply State.count_keeps (covers_trans rfl hL)
    | with_reducible apply State.set_keeps (covers_trans rfl hL)
    | with_reducible apply foldl_keeps
    | (intro _; intros; try dsimp only)
    | split
    | (with_reducible apply State.mk_keeps <;> first | exact Or.inr (mem_of_covers hL rfl) | with_reducible exact Or.inl rfl | skip)

theorem State.exchangeTask_keeps {s : State} {c : Nat} {op : Nat} {mode : Nat} {f : State →   Running → Exchange → Operand → State} {s0 : State} {L : List Field} (hL : covers [.regs, .counters, .seq, .seqReported, .stamped, .events, .parts, .cores, .credits, .devQueues, .out, .freeCtr] L = true) (h : s0.same L s) (hf : ∀ (y0 : State) (y1 : Running) (y2 : Exchange) (y3 : Operand), s0.same L y0 → s0.same L (f y0 y1 y2 y3)) : s0.same L (State.exchangeTask s c op mode f) := by
  unfold State.exchangeTask
  try dsimp only
  repeat' first
    | with_reducible assumption
    | with_reducible apply State.takeFrames_keeps (covers_trans rfl hL)
    | with_reducible apply State.endTask_keeps (covers_trans rfl hL)
    | with_reducible apply hf
    | with_reducible apply foldl_keeps
    | (intro _; intros; try dsimp only)
    | split
    | (with_reducible apply State.mk_keeps <;> first | exact Or.inr (mem_of_covers hL rfl) | with_reducible exact Or.inl rfl | skip)

theorem doExpertDispatch_keeps {core : Nat} {s : State} {s0 : State} {L : List Field} (hL : covers [.regs, .counters, .seq, .seqReported, .stamped, .events, .mem, .staging, .neg, .tags, .negTags, .parts, .cores, .credits, .devQueues, .ports, .out, .freeCtr] L = true) (h : s0.same L s) : s0.same L (doExpertDispatch core s) := by
  unfold doExpertDispatch
  apply State.exchangeTask_keeps (covers_trans rfl hL) h
  intro s r x rec hs
  split
  · extract_lets ld made cs s1 s2 s3 s4 s5 alone s6
    have h0 : s0.same L ld.1 := State.loadAll_keeps (covers_trans rfl hL) hs
    have h1 : s0.same L s1 := by
      refine foldl_keeps _ _ (fun s c hs => ?_) h0
      split
      · exact State.copyRow_keeps (covers_trans rfl hL) hs
      · exact hs
    have h3 : s0.same L s3 := State.writeChoices_keeps (covers_trans rfl hL) (State.writeChoices_keeps (covers_trans rfl hL) (State.writeTallies_keeps (covers_trans rfl hL) (State.zeroFill_keeps (covers_trans rfl hL) h1)))
    have h4 : s0.same L s4 := by
      unfold s4
      split
      · cases r.operand (r.task.par 16 4) with
        | none => exact h3
        | some o => exact State.writeLoads_keeps (covers_trans rfl hL) h3
      · exact h3
    have h6 : s0.same L s6 := State.count_keeps (covers_trans rfl hL) (State.count_keeps (covers_trans rfl hL) (State.noteOverflow_keeps (covers_trans rfl hL) h4))
    refine State.endTask_keeps (covers_trans rfl hL) ?_
    (with_reducible apply State.mk_keeps <;> first | exact Or.inr (mem_of_covers hL rfl) | with_reducible exact Or.inl rfl | with_reducible assumption)
  · exact State.endTask_keeps (covers_trans rfl hL) hs

theorem doVariantDispatch_keeps {core : Nat} {s : State} {s0 : State} {L : List Field} (hL : covers [.regs, .counters, .seq, .seqReported, .stamped, .events, .mem, .staging, .neg, .tags, .negTags, .parts, .cores, .credits, .devQueues, .ports, .out, .freeCtr] L = true) (h : s0.same L s) : s0.same L (doVariantDispatch core s) := by
  unfold doVariantDispatch
  apply State.exchangeTask_keeps (covers_trans rfl hL) h
  intro s r x rec hs
  split
  · extract_lets ld vOf setAt scale cs above unserved mask s1 s2 s3 s4 s5 s6 s7 touched s8
    have h0 : s0.same L ld.1 := State.loadAll_keeps (covers_trans rfl hL) hs
    have h1 : s0.same L s1 := by
      refine foldl_keeps _ _ (fun s c hs => ?_) h0
      split
      · exact State.copyRow_keeps (covers_trans rfl hL) hs
      · exact hs
    have h3 : s0.same L s3 := State.writeChoices_keeps (covers_trans rfl hL) (State.writeChoices_keeps (covers_trans rfl hL) (State.zeroFill_keeps (covers_trans rfl hL) h1))
    have h4 : s0.same L s4 := by
      unfold s4
      cases r.operand (r.task.par 16 4) with
      | none => exact h3
      | some o => exact foldl_keeps _ _ (fun _ _ h => State.putBits_keeps (covers_trans rfl hL) h) h3
    have h5 : s0.same L s5 := State.count_keeps (covers_trans rfl hL) h4
    have h6 : s0.same L s6 := by
      unfold s6
      split
      · exact h5
      · exact State.raiseOnce_keeps (covers_trans rfl hL) (State.count_keeps (covers_trans rfl hL) h5)
    have h7 : s0.same L s7 := by
      unfold s7
      split
      · exact h6
      · exact State.raiseOnce_keeps (covers_trans rfl hL) (State.count_keeps (covers_trans rfl hL) h6)
    exact State.endTask_keeps (covers_trans rfl hL) (State.modPart_keeps (covers_trans rfl hL) h7)
  · exact State.endTask_keeps (covers_trans rfl hL) hs

theorem State.putRows_keeps {s : State} {r : Running} {t : Tensor} {backward : Bool} {rows : List (Nat × List Fp)} {s0 : State} {L : List Field} (hL : covers [.regs, .counters, .seq, .seqReported, .events, .mem, .staging, .neg, .tags, .negTags, .layers] L = true) (h : s0.same L s) : s0.same L (State.putRows s r t backward rows).2 := by
  unfold State.putRows
  try dsimp only
  repeat' first
    | with_reducible assumption
    | with_reducible apply State.store_keeps (covers_trans rfl hL)
    | with_reducible apply State.recordGrad_keeps (covers_trans rfl hL)
    | with_reducible apply foldl_keeps
    | (intro _; intros; try dsimp only)
    | split
    | (with_reducible apply State.mk_keeps <;> first | exact Or.inr (mem_of_covers hL rfl) | with_reducible exact Or.inl rfl | skip)

theorem State.combine_keeps {s : State} {core : Nat} {mode : Nat} {s0 : State} {L : List Field} (hL : covers [.regs, .counters, .seq, .seqReported, .stamped, .events, .mem, .staging, .neg, .tags, .negTags, .parts, .cores, .credits, .layers, .devQueues, .ports, .out, .freeCtr] L = true) (h : s0.same L s) : s0.same L (State.combine s core mode) := by
  unfold State.combine
  try dsimp only
  repeat' first
    | with_reducible assumption
    | with_reducible apply State.exchangeTask_keeps (covers_trans rfl hL)
    | with_reducible apply State.loadAll_keeps (covers_trans rfl hL)
    | with_reducible apply State.putRows_keeps (covers_trans rfl hL)
    | with_reducible apply State.endTask_keeps (covers_trans rfl hL)
    | with_reducible apply State.useFree_keeps (covers_trans rfl hL)
    | with_reducible apply foldl_keeps
    | (intro _; intros; try dsimp only)
    | split
    | (with_reducible apply State.mk_keeps <;> first | exact Or.inr (mem_of_covers hL rfl) | with_reducible exact Or.inl rfl | skip)

theorem doExpertCombine_keeps {core : Nat} {s : State} {s0 : State} {L : List Field} (hL : covers [.regs, .counters, .seq, .seqReported, .stamped, .events, .mem, .staging, .neg, .tags, .negTags, .parts, .cores, .credits, .layers, .devQueues, .ports, .out, .freeCtr] L = true) (h : s0.same L s) : s0.same L (doExpertCombine core s) := by
  unfold doExpertCombine
  try dsimp only
  repeat' first
    | with_reducible assumption
    | with_reducible apply State.combine_keeps (covers_trans rfl hL)
    | with_reducible apply foldl_keeps
    | (intro _; intros; try dsimp only)
    | split
    | (with_reducible apply State.mk_keeps <;> first | exact Or.inr (mem_of_covers hL rfl) | with_reducible exact Or.inl rfl | skip)

theorem doVariantCombine_keeps {core : Nat} {s : State} {s0 : State} {L : List Field} (hL : covers [.regs, .counters, .seq, .seqReported, .stamped, .events, .mem, .staging, .neg, .tags, .negTags, .parts, .cores, .credits, .layers, .devQueues, .ports, .out, .freeCtr] L = true) (h : s0.same L s) : s0.same L (doVariantCombine core s) := by
  unfold doVariantCombine
  try dsimp only
  repeat' first
    | with_reducible assumption
    | with_reducible apply State.combine_keeps (covers_trans rfl hL)
    | with_reducible apply foldl_keeps
    | (intro _; intros; try dsimp only)
    | split
    | (with_reducible apply State.mk_keeps <;> first | exact Or.inr (mem_of_covers hL rfl) | with_reducible exact Or.inl rfl | skip)

theorem State.combineBack_keeps {s : State} {core : Nat} {mode : Nat} {s0 : State} {L : List Field} (hL : covers [.regs, .counters, .seq, .seqReported, .stamped, .events, .mem, .staging, .neg, .tags, .negTags, .parts, .cores, .credits, .layers, .devQueues, .ports, .out, .freeCtr] L = true) (h : s0.same L s) : s0.same L (State.combineBack s core mode) := by
  unfold State.combineBack
  try dsimp only
  repeat' first
    | with_reducible assumption
    | with_reducible apply State.exchangeTask_keeps (covers_trans rfl hL)
    | with_reducible apply State.loadAll_keeps (covers_trans rfl hL)
    | with_reducible apply State.store_keeps (covers_trans rfl hL)
    | with_reducible apply State.writeTallies_keeps (covers_trans rfl hL)
    | with_reducible apply State.zeroFill_keeps (covers_trans rfl hL)
    | with_reducible apply State.recordGrad_keeps (covers_trans rfl hL)
    | with_reducible apply State.endTask_keeps (covers_trans rfl hL)
    | with_reducible apply State.useFree_keeps (covers_trans rfl hL)
    | with_reducible apply foldl_keeps
    | (intro _; intros; try dsimp only)
    | split
    | (with_reducible apply State.mk_keeps <;> first | exact Or.inr (mem_of_covers hL rfl) | with_reducible exact Or.inl rfl | skip)

theorem doExpertCombineBackward_keeps {core : Nat} {s : State} {s0 : State} {L : List Field} (hL : covers [.regs, .counters, .seq, .seqReported, .stamped, .events, .mem, .staging, .neg, .tags, .negTags, .parts, .cores, .credits, .layers, .devQueues, .ports, .out, .freeCtr] L = true) (h : s0.same L s) : s0.same L (doExpertCombineBackward core s) := by
  unfold doExpertCombineBackward
  try dsimp only
  repeat' first
    | with_reducible assumption
    | with_reducible apply State.combineBack_keeps (covers_trans rfl hL)
    | with_reducible apply foldl_keeps
    | (intro _; intros; try dsimp only)
    | split
    | (with_reducible apply State.mk_keeps <;> first | exact Or.inr (mem_of_covers hL rfl) | with_reducible exact Or.inl rfl | skip)

theorem doVariantCombineBackward_keeps {core : Nat} {s : State} {s0 : State} {L : List Field} (hL : covers [.regs, .counters, .seq, .seqReported, .stamped, .events, .mem, .staging, .neg, .tags, .negTags, .parts, .cores, .credits, .layers, .devQueues, .ports, .out, .freeCtr] L = true) (h : s0.same L s) : s0.same L (doVariantCombineBackward core s) := by
  unfold doVariantCombineBackward
  try dsimp only
  repeat' first
    | with_reducible assumption
    | with_reducible apply State.combineBack_keeps (covers_trans rfl hL)
    | with_reducible apply foldl_keeps
    | (intro _; intros; try dsimp only)
    | split
    | (with_reducible apply State.mk_keeps <;> first | exact Or.inr (mem_of_covers hL rfl) | with_reducible exact Or.inl rfl | skip)

theorem State.dispatchBack_keeps {s : State} {core : Nat} {mode : Nat} {s0 : State} {L : List Field} (hL : covers [.regs, .counters, .seq, .seqReported, .stamped, .events, .mem, .staging, .neg, .tags, .negTags, .parts, .cores, .credits, .layers, .devQueues, .ports, .out, .freeCtr] L = true) (h : s0.same L s) : s0.same L (State.dispatchBack s core mode) := by
  unfold State.dispatchBack
  try dsimp only
  repeat' first
    | with_reducible assumption
    | with_reducible apply State.exchangeTask_keeps (covers_trans rfl hL)
    | with_reducible apply State.loadAll_keeps (covers_trans rfl hL)
    | with_reducible apply State.putRows_keeps (covers_trans rfl hL)
    | with_reducible apply State.endTask_keeps (covers_trans rfl hL)
    | with_reducible apply State.useFree_keeps (covers_trans rfl hL)
    | with_reducible apply foldl_keeps
    | (intro _; intros; try dsimp only)
    | split
    | (with_reducible apply State.mk_keeps <;> first | exact Or.inr (mem_of_covers hL rfl) | with_reducible exact Or.inl rfl | skip)

theorem doExpertDispatchBackward_keeps {core : Nat} {s : State} {s0 : State} {L : List Field} (hL : covers [.regs, .counters, .seq, .seqReported, .stamped, .events, .mem, .staging, .neg, .tags, .negTags, .parts, .cores, .credits, .layers, .devQueues, .ports, .out, .freeCtr] L = true) (h : s0.same L s) : s0.same L (doExpertDispatchBackward core s) := by
  unfold doExpertDispatchBackward
  try dsimp only
  repeat' first
    | with_reducible assumption
    | with_reducible apply State.dispatchBack_keeps (covers_trans rfl hL)
    | with_reducible apply foldl_keeps
    | (intro _; intros; try dsimp only)
    | split
    | (with_reducible apply State.mk_keeps <;> first | exact Or.inr (mem_of_covers hL rfl) | with_reducible exact Or.inl rfl | skip)

theorem doVariantDispatchBackward_keeps {core : Nat} {s : State} {s0 : State} {L : List Field} (hL : covers [.regs, .counters, .seq, .seqReported, .stamped, .events, .mem, .staging, .neg, .tags, .negTags, .parts, .cores, .credits, .layers, .devQueues, .ports, .out, .freeCtr] L = true) (h : s0.same L s) : s0.same L (doVariantDispatchBackward core s) := by
  unfold doVariantDispatchBackward
  try dsimp only
  repeat' first
    | with_reducible assumption
    | with_reducible apply State.dispatchBack_keeps (covers_trans rfl hL)
    | with_reducible apply foldl_keeps
    | (intro _; intros; try dsimp only)
    | split
    | (with_reducible apply State.mk_keeps <;> first | exact Or.inr (mem_of_covers hL rfl) | with_reducible exact Or.inl rfl | skip)

theorem State.touchTally_keeps {s : State} {p : Nat} {tally : List Byte} {s0 : State} {L : List Field} (hL : covers [.parts] L = true) (h : s0.same L s) : s0.same L (State.touchTally s p tally) := by
  unfold State.touchTally
  try dsimp only
  repeat' first
    | with_reducible assumption
    | with_reducible apply State.modPart_keeps (covers_trans rfl hL)
    | with_reducible apply foldl_keeps
    | (intro _; intros; try dsimp only)
    | split
    | (with_reducible apply State.mk_keeps <;> first | exact Or.inr (mem_of_covers hL rfl) | with_reducible exact Or.inl rfl | skip)

end Sys2Proof.Machine
end

