-- ==== Sys2Proof/Laws/Keeps4.lean ====
section
/-! SUPPORT. The fields an operation leaves alone, for the operations in Convolution.lean, Images.lean, Ports.lean, Fabric.lean. -/

set_option Elab.async false

namespace Sys2Proof.Machine

theorem State.writeHalos_keeps {s : State} {p : Nat} {pl : Plan} {g : Nat} {i : Nat} {t : Task} {s0 : State} {L : List Field} (hL : covers [.regs, .counters, .seq, .seqReported, .events, .parts] L = true) (h : s0.same L s) : s0.same L (State.writeHalos s p pl g i t) := by
  unfold State.writeHalos
  try dsimp only
  repeat' first
    | with_reducible assumption
    | with_reducible apply State.count_keeps (covers_trans rfl hL)
    | with_reducible apply State.writeQueue_keeps (covers_trans rfl hL)
    | with_reducible apply foldl_keeps
    | (intro _; intros; try dsimp only)
    | split
    | (with_reducible apply State.mk_keeps <;> first | exact Or.inr (mem_of_covers hL rfl) | with_reducible exact Or.inl rfl | skip)

theorem State.takeHalos_keeps {s : State} {c : Nat} {r : Running} {s0 : State} {L : List Field} (hL : covers [.regs, .counters, .seq, .seqReported, .stamped, .events, .parts, .cores, .credits, .out] L = true) (h : s0.same L s) : s0.same L (State.takeHalos s c r) := by
  unfold State.takeHalos
  try dsimp only
  repeat' first
    | with_reducible assumption
    | with_reducible apply State.readQueueN_keeps (covers_trans rfl hL)
    | with_reducible apply State.modCore_keeps (covers_trans rfl hL)
    | with_reducible apply foldl_keeps
    | (intro _; intros; try dsimp only)
    | split
    | (with_reducible apply State.mk_keeps <;> first | exact Or.inr (mem_of_covers hL rfl) | with_reducible exact Or.inl rfl | skip)

theorem State.payHalos_keeps {s : State} {p : Nat} {pl : Plan} {g : Nat} {i : Nat} {t : Task} {s0 : State} {L : List Field} (hL : covers [.cores, .credits] L = true) (h : s0.same L s) : s0.same L (State.payHalos s p pl g i t) := by
  unfold State.payHalos
  try dsimp only
  repeat' first
    | with_reducible assumption
    | with_reducible apply State.modCore_keeps (covers_trans rfl hL)
    | with_reducible apply foldl_keeps
    | (intro _; intros; try dsimp only)
    | split
    | (with_reducible apply State.mk_keeps <;> first | exact Or.inr (mem_of_covers hL rfl) | with_reducible exact Or.inl rfl | skip)

theorem State.runConv_keeps {s : State} {c : Nat} {r : Running} {k : ConvRun} {out : Tensor} {lines : List (List ConvElement)} {s0 : State} {L : List Field} (hL : covers [.regs, .counters, .seq, .seqReported, .events, .mem, .staging, .neg, .tags, .negTags, .parts, .cores, .layers, .devQueues, .ports, .freeCtr] L = true) (h : s0.same L s) : s0.same L (State.runConv s c r k out lines) := by
  unfold State.runConv
  try dsimp only
  repeat' first
    | with_reducible assumption
    | with_reducible apply State.loadAll_keeps (covers_trans rfl hL)
    | with_reducible apply State.storeShare_keeps (covers_trans rfl hL)
    | with_reducible apply State.recordGrad_keeps (covers_trans rfl hL)
    | with_reducible apply State.modCore_keeps (covers_trans rfl hL)
    | with_reducible apply State.useFree_keeps (covers_trans rfl hL)
    | with_reducible apply State.count_keeps (covers_trans rfl hL)
    | with_reducible apply State.endTask_keeps (covers_trans rfl hL)
    | with_reducible apply foldl_keeps
    | (intro _; intros; try dsimp only)
    | split
    | (with_reducible apply State.mk_keeps <;> first | exact Or.inr (mem_of_covers hL rfl) | with_reducible exact Or.inl rfl | skip)

theorem State.convTiles_keeps {s : State} {c : Nat} {r : Running} {k : ConvRun} {tl : Tiling} {sh : Share} {t0 : Tensor} {s0 : State} {L : List Field} (hL : covers [.regs, .counters, .seq, .seqReported, .events] L = true) (h : s0.same L s) : s0.same L (State.convTiles s c r k tl sh t0).1 := by
  unfold State.convTiles
  try dsimp only
  repeat' first
    | with_reducible assumption
    | with_reducible apply State.set_keeps (covers_trans rfl hL)
    | with_reducible apply State.count_keeps (covers_trans rfl hL)
    | with_reducible apply foldl_keeps
    | (intro _; intros; try dsimp only)
    | split
    | (with_reducible apply State.mk_keeps <;> first | exact Or.inr (mem_of_covers hL rfl) | with_reducible exact Or.inl rfl | skip)

theorem State.convTask_keeps {s : State} {c : Nat} {dir : Nat} {s0 : State} {L : List Field} (hL : covers [.regs, .counters, .seq, .seqReported, .stamped, .events, .mem, .staging, .neg, .tags, .negTags, .parts, .cores, .credits, .layers, .devQueues, .ports, .out, .freeCtr] L = true) (h : s0.same L s) : s0.same L (State.convTask s c dir) := by
  unfold State.convTask
  split
  · exact h
  · next r _ =>
    split
    · exact h
    · extract_lets s1
      have h1 : s0.same L s1 := State.takeFrames_keeps (covers_trans rfl hL) h
      split
      · exact State.endEmpty_keeps (covers_trans rfl hL) (State.keepCredits_keeps (covers_trans rfl hL) (State.count_keeps (covers_trans rfl hL) h1))
      · split
        · next z in0 out _ _ _ =>
          extract_lets x
          split
          · exact State.endTask_keeps (covers_trans rfl hL) h1
          · next sh _ =>
            split
            · exact State.endTask_keeps (covers_trans rfl hL) h1
            · have h2 := State.convTiles_keeps (covers_trans rfl hL) (c := c) (r := r) (k := x.1) (tl := x.2) (sh := sh) (t0 := in0.t) h1
              revert h2
              generalize s1.convTiles c r x.1 x.2 sh in0.t = y
              rcases y with ⟨s', _ | bad⟩
              · exact fun h2 => State.runConv_keeps (covers_trans rfl hL) h2
              · exact fun h2 => State.tileIllegal_keeps (covers_trans rfl hL) h2
        · exact State.endTask_keeps (covers_trans rfl hL) h1

theorem doConvForward_keeps {core : Nat} {s : State} {s0 : State} {L : List Field} (hL : covers [.regs, .counters, .seq, .seqReported, .stamped, .events, .mem, .staging, .neg, .tags, .negTags, .parts, .cores, .credits, .layers, .devQueues, .ports, .out, .freeCtr] L = true) (h : s0.same L s) : s0.same L (doConvForward core s) := by
  unfold doConvForward
  try dsimp only
  repeat' first
    | with_reducible assumption
    | with_reducible apply State.convTask_keeps (covers_trans rfl hL)
    | with_reducible apply foldl_keeps
    | (intro _; intros; try dsimp only)
    | split
    | (with_reducible apply State.mk_keeps <;> first | exact Or.inr (mem_of_covers hL rfl) | with_reducible exact Or.inl rfl | skip)

theorem doConvDataGradient_keeps {core : Nat} {s : State} {s0 : State} {L : List Field} (hL : covers [.regs, .counters, .seq, .seqReported, .stamped, .events, .mem, .staging, .neg, .tags, .negTags, .parts, .cores, .credits, .layers, .devQueues, .ports, .out, .freeCtr] L = true) (h : s0.same L s) : s0.same L (doConvDataGradient core s) := by
  unfold doConvDataGradient
  try dsimp only
  repeat' first
    | with_reducible assumption
    | with_reducible apply State.convTask_keeps (covers_trans rfl hL)
    | with_reducible apply foldl_keeps
    | (intro _; intros; try dsimp only)
    | split
    | (with_reducible apply State.mk_keeps <;> first | exact Or.inr (mem_of_covers hL rfl) | with_reducible exact Or.inl rfl | skip)

theorem doConvWeightGradient_keeps {core : Nat} {s : State} {s0 : State} {L : List Field} (hL : covers [.regs, .counters, .seq, .seqReported, .stamped, .events, .mem, .staging, .neg, .tags, .negTags, .parts, .cores, .credits, .layers, .devQueues, .ports, .out, .freeCtr] L = true) (h : s0.same L s) : s0.same L (doConvWeightGradient core s) := by
  unfold doConvWeightGradient
  try dsimp only
  repeat' first
    | with_reducible assumption
    | with_reducible apply State.convTask_keeps (covers_trans rfl hL)
    | with_reducible apply foldl_keeps
    | (intro _; intros; try dsimp only)
    | split
    | (with_reducible apply State.mk_keeps <;> first | exact Or.inr (mem_of_covers hL rfl) | with_reducible exact Or.inl rfl | skip)

theorem doCropAndResize_keeps {core : Nat} {s : State} {s0 : State} {L : List Field} (hL : covers [.regs, .counters, .seq, .seqReported, .stamped, .events, .mem, .staging, .neg, .tags, .negTags, .parts, .cores, .credits, .devQueues, .ports, .out, .freeCtr] L = true) (h : s0.same L s) : s0.same L (doCropAndResize core s) := by
  unfold doCropAndResize
  try dsimp only
  repeat' first
    | with_reducible assumption
    | with_reducible apply State.takeFrames_keeps (covers_trans rfl hL)
    | with_reducible apply State.endTask_keeps (covers_trans rfl hL)
    | with_reducible apply State.loadAll_keeps (covers_trans rfl hL)
    | with_reducible apply State.store_keeps (covers_trans rfl hL)
    | with_reducible apply State.load_keeps (covers_trans rfl hL)
    | with_reducible apply State.count_keeps (covers_trans rfl hL)
    | with_reducible apply State.raiseOnce_keeps (covers_trans rfl hL)
    | with_reducible apply foldl_keeps
    | (intro _; intros; try dsimp only)
    | split
    | (with_reducible apply State.mk_keeps <;> first | exact Or.inr (mem_of_covers hL rfl) | with_reducible exact Or.inl rfl | skip)

theorem doChannelArgmax_keeps {core : Nat} {s : State} {s0 : State} {L : List Field} (hL : covers [.regs, .counters, .seq, .seqReported, .stamped, .events, .mem, .staging, .neg, .tags, .negTags, .parts, .cores, .credits, .devQueues, .ports, .out, .freeCtr] L = true) (h : s0.same L s) : s0.same L (doChannelArgmax core s) := by
  unfold doChannelArgmax
  try dsimp only
  repeat' first
    | with_reducible assumption
    | with_reducible apply State.takeFrames_keeps (covers_trans rfl hL)
    | with_reducible apply State.endTask_keeps (covers_trans rfl hL)
    | with_reducible apply State.loadAll_keeps (covers_trans rfl hL)
    | with_reducible apply State.putBits_keeps (covers_trans rfl hL)
    | with_reducible apply State.store_keeps (covers_trans rfl hL)
    | with_reducible apply State.count_keeps (covers_trans rfl hL)
    | with_reducible apply foldl_keeps
    | (intro _; intros; try dsimp only)
    | split
    | (with_reducible apply State.mk_keeps <;> first | exact Or.inr (mem_of_covers hL rfl) | with_reducible exact Or.inl rfl | skip)

theorem State.raisePort_keeps {s : State} {n : Nat} {e : EvKind} {d : Detail} {s0 : State} {L : List Field} (hL : covers [.regs, .seq, .seqReported, .events, .ports] L = true) (h : s0.same L s) : s0.same L (State.raisePort s n e d) := by
  unfold State.raisePort
  try dsimp only
  repeat' first
    | with_reducible assumption
    | with_reducible apply State.raise_keeps (covers_trans rfl hL)
    | with_reducible apply State.modPort_keeps (covers_trans rfl hL)
    | with_reducible apply foldl_keeps
    | (intro _; intros; try dsimp only)
    | split
    | (with_reducible apply State.mk_keeps <;> first | exact Or.inr (mem_of_covers hL rfl) | with_reducible exact Or.inl rfl | skip)

theorem State.modFixer_keeps {s : State} {p : Nat} {f : Fixer → Fixer} {s0 : State} {L : List Field} (hL : covers [.parts] L = true) (h : s0.same L s) : s0.same L (State.modFixer s p f) := by
  unfold State.modFixer
  try dsimp only
  repeat' first
    | with_reducible assumption
    | with_reducible apply State.modPart_keeps (covers_trans rfl hL)
    | with_reducible apply foldl_keeps
    | (intro _; intros; try dsimp only)
    | split
    | (with_reducible apply State.mk_keeps <;> first | exact Or.inr (mem_of_covers hL rfl) | with_reducible exact Or.inl rfl | skip)

theorem State.planInvalid_keeps {s : State} {p : Nat} {cause : Nat} {s0 : State} {L : List Field} (hL : covers [.regs, .seq, .seqReported, .events, .parts, .ports] L = true) (h : s0.same L s) : s0.same L (State.planInvalid s p cause) := by
  unfold State.planInvalid
  try dsimp only
  repeat' first
    | with_reducible assumption
    | with_reducible apply State.raise_keeps (covers_trans rfl hL)
    | with_reducible apply State.set_keeps (covers_trans rfl hL)
    | with_reducible apply State.modFixer_keeps (covers_trans rfl hL)
    | with_reducible apply State.stepFault_keeps (covers_trans rfl hL)
    | with_reducible apply foldl_keeps
    | (intro _; intros; try dsimp only)
    | split
    | (with_reducible apply State.mk_keeps <;> first | exact Or.inr (mem_of_covers hL rfl) | with_reducible exact Or.inl rfl | skip)

theorem State.modLink_keeps {s : State} {n : Nat} {f : Link → Link} {s0 : State} {L : List Field} (hL : covers [.ports] L = true) (h : s0.same L s) : s0.same L (State.modLink s n f) := by
  unfold State.modLink
  try dsimp only
  repeat' first
    | with_reducible assumption
    | with_reducible apply State.modPort_keeps (covers_trans rfl hL)
    | with_reducible apply foldl_keeps
    | (intro _; intros; try dsimp only)
    | split
    | (with_reducible apply State.mk_keeps <;> first | exact Or.inr (mem_of_covers hL rfl) | with_reducible exact Or.inl rfl | skip)

theorem State.takeBuffer_keeps {s : State} {n : Nat} {cls : Nat} {units : Nat} {s0 : State} {L : List Field} (hL : covers [.ports] L = true) (h : s0.same L s) : s0.same L (State.takeBuffer s n cls units) := by
  unfold State.takeBuffer
  try dsimp only
  repeat' first
    | with_reducible assumption
    | with_reducible apply State.modLink_keeps (covers_trans rfl hL)
    | with_reducible apply foldl_keeps
    | (intro _; intros; try dsimp only)
    | split
    | (with_reducible apply State.mk_keeps <;> first | exact Or.inr (mem_of_covers hL rfl) | with_reducible exact Or.inl rfl | skip)

theorem State.freeBuffer_keeps {s : State} {n : Nat} {cls : Nat} {units : Nat} {s0 : State} {L : List Field} (hL : covers [.ports] L = true) (h : s0.same L s) : s0.same L (State.freeBuffer s n cls units) := by
  unfold State.freeBuffer
  try dsimp only
  repeat' first
    | with_reducible assumption
    | with_reducible apply State.modLink_keeps (covers_trans rfl hL)
    | with_reducible apply foldl_keeps
    | (intro _; intros; try dsimp only)
    | split
    | (with_reducible apply State.mk_keeps <;> first | exact Or.inr (mem_of_covers hL rfl) | with_reducible exact Or.inl rfl | skip)

theorem State.passBuffer_keeps {s : State} {n : Nat} {cls : Nat} {units : Nat} {s0 : State} {L : List Field} (hL : covers [.ports] L = true) (h : s0.same L s) : s0.same L (State.passBuffer s n cls units) := by
  unfold State.passBuffer
  try dsimp only
  repeat' first
    | with_reducible assumption
    | with_reducible apply State.freeBuffer_keeps (covers_trans rfl hL)
    | with_reducible apply State.takeBuffer_keeps (covers_trans rfl hL)
    | with_reducible apply foldl_keeps
    | (intro _; intros; try dsimp only)
    | split
    | (with_reducible apply State.mk_keeps <;> first | exact Or.inr (mem_of_covers hL rfl) | with_reducible exact Or.inl rfl | skip)

theorem State.bufferPacket_keeps {s : State} {n : Nat} {pk : Packet} {s0 : State} {L : List Field} (hL : covers [.ports] L = true) (h : s0.same L s) : s0.same L (State.bufferPacket s n pk) := by
  unfold State.bufferPacket
  try dsimp only
  repeat' first
    | with_reducible assumption
    | with_reducible apply State.takeBuffer_keeps (covers_trans rfl hL)
    | with_reducible apply foldl_keeps
    | (intro _; intros; try dsimp only)
    | split
    | (with_reducible apply State.mk_keeps <;> first | exact Or.inr (mem_of_covers hL rfl) | with_reducible exact Or.inl rfl | skip)

theorem State.passPacket_keeps {s : State} {n : Nat} {pk : Packet} {s0 : State} {L : List Field} (hL : covers [.ports] L = true) (h : s0.same L s) : s0.same L (State.passPacket s n pk) := by
  unfold State.passPacket
  try dsimp only
  repeat' first
    | with_reducible assumption
    | with_reducible apply State.passBuffer_keeps (covers_trans rfl hL)
    | with_reducible apply foldl_keeps
    | (intro _; intros; try dsimp only)
    | split
    | (with_reducible apply State.mk_keeps <;> first | exact Or.inr (mem_of_covers hL rfl) | with_reducible exact Or.inl rfl | skip)

theorem State.restoreFailed_keeps {s : State} {p : Nat} {item : Nat} {s0 : State} {L : List Field} (hL : covers [.regs, .seq, .seqReported, .events, .parts, .ports] L = true) (h : s0.same L s) : s0.same L (State.restoreFailed s p item) := by
  unfold State.restoreFailed
  try dsimp only
  repeat' first
    | with_reducible assumption
    | with_reducible apply State.raise_keeps (covers_trans rfl hL)
    | with_reducible apply State.stepFault_keeps (covers_trans rfl hL)
    | with_reducible apply State.modFixer_keeps (covers_trans rfl hL)
    | with_reducible apply State.set_keeps (covers_trans rfl hL)
    | with_reducible apply foldl_keeps
    | (intro _; intros; try dsimp only)
    | split
    | (with_reducible apply State.mk_keeps <;> first | exact Or.inr (mem_of_covers hL rfl) | with_reducible exact Or.inl rfl | skip)

theorem State.partnerLost_keeps {s : State} {p : Nat} {n : Nat} {s0 : State} {L : List Field} (hL : covers [.regs, .seq, .seqReported, .events, .parts, .ports] L = true) (h : s0.same L s) : s0.same L (State.partnerLost s p n) := by
  unfold State.partnerLost
  try dsimp only
  repeat' first
    | with_reducible assumption
    | with_reducible apply State.modFixer_keeps (covers_trans rfl hL)
    | with_reducible apply State.restoreFailed_keeps (covers_trans rfl hL)
    | with_reducible apply foldl_keeps
    | (intro _; intros; try dsimp only)
    | split
    | (with_reducible apply State.mk_keeps <;> first | exact Or.inr (mem_of_covers hL rfl) | with_reducible exact Or.inl rfl | skip)

theorem State.releaseVia_keeps {s : State} {x : PortItem} {s0 : State} {L : List Field} (hL : covers [.ports] L = true) (h : s0.same L s) : s0.same L (State.releaseVia s x) := by
  unfold State.releaseVia
  try dsimp only
  repeat' first
    | with_reducible assumption
    | with_reducible apply State.freeBuffer_keeps (covers_trans rfl hL)
    | with_reducible apply foldl_keeps
    | (intro _; intros; try dsimp only)
    | split
    | (with_reducible apply State.mk_keeps <;> first | exact Or.inr (mem_of_covers hL rfl) | with_reducible exact Or.inl rfl | skip)

theorem State.portDown_keeps {s : State} {n : Nat} {cause : Nat} {s0 : State} {L : List Field} (hL : covers [.regs, .counters, .seq, .seqReported, .events, .parts, .ports] L = true) (h : s0.same L s) : s0.same L (State.portDown s n cause) := by
  unfold State.portDown
  try dsimp only
  repeat' first
    | with_reducible assumption
    | with_reducible apply State.releaseVia_keeps (covers_trans rfl hL)
    | with_reducible apply State.modPort_keeps (covers_trans rfl hL)
    | with_reducible apply State.set_keeps (covers_trans rfl hL)
    | with_reducible apply State.raise_keeps (covers_trans rfl hL)
    | with_reducible apply State.partnerLost_keeps (covers_trans rfl hL)
    | with_reducible apply State.planInvalid_keeps (covers_trans rfl hL)
    | with_reducible apply State.transientError_keeps (covers_trans rfl hL)
    | with_reducible apply foldl_keeps
    | (intro _; intros; try dsimp only)
    | split
    | (with_reducible apply State.mk_keeps <;> first | exact Or.inr (mem_of_covers hL rfl) | with_reducible exact Or.inl rfl | skip)

theorem doPortTrained_keeps {port : Nat} {neighbour : Nat} {failedLanes : Nat} {s : State} {s0 : State} {L : List Field} (hL : covers [.regs, .ports, .out] L = true) (h : s0.same L s) : s0.same L (doPortTrained port neighbour failedLanes s) := by
  unfold doPortTrained
  try dsimp only
  repeat' first
    | with_reducible assumption
    | with_reducible apply State.set_keeps (covers_trans rfl hL)
    | with_reducible apply State.modPort_keeps (covers_trans rfl hL)
    | with_reducible apply foldl_keeps
    | (intro _; intros; try dsimp only)
    | split
    | (with_reducible apply State.mk_keeps <;> first | exact Or.inr (mem_of_covers hL rfl) | with_reducible exact Or.inl rfl | skip)

theorem doPortTrainingTimeout_keeps {port : Nat} {s : State} {s0 : State} {L : List Field} (hL : covers [.regs, .counters, .seq, .seqReported, .events, .parts, .ports] L = true) (h : s0.same L s) : s0.same L (doPortTrainingTimeout port s) := by
  unfold doPortTrainingTimeout
  try dsimp only
  repeat' first
    | with_reducible assumption
    | with_reducible apply State.portDown_keeps (covers_trans rfl hL)
    | with_reducible apply foldl_keeps
    | (intro _; intros; try dsimp only)
    | split
    | (with_reducible apply State.mk_keeps <;> first | exact Or.inr (mem_of_covers hL rfl) | with_reducible exact Or.inl rfl | skip)

theorem doPortTakeDown_keeps {port : Nat} {s : State} {s0 : State} {L : List Field} (hL : covers [.regs, .counters, .seq, .seqReported, .events, .parts, .ports] L = true) (h : s0.same L s) : s0.same L (doPortTakeDown port s) := by
  unfold doPortTakeDown
  try dsimp only
  repeat' first
    | with_reducible assumption
    | with_reducible apply State.portDown_keeps (covers_trans rfl hL)
    | with_reducible apply foldl_keeps
    | (intro _; intros; try dsimp only)
    | split
    | (with_reducible apply State.mk_keeps <;> first | exact Or.inr (mem_of_covers hL rfl) | with_reducible exact Or.inl rfl | skip)

theorem State.addCredits_keeps {s : State} {n : Nat} {cls : Nat} {units : Nat} {s0 : State} {L : List Field} (hL : covers [.ports] L = true) (h : s0.same L s) : s0.same L (State.addCredits s n cls units) := by
  unfold State.addCredits
  try dsimp only
  repeat' first
    | with_reducible assumption
    | with_reducible apply State.modPort_keeps (covers_trans rfl hL)
    | with_reducible apply foldl_keeps
    | (intro _; intros; try dsimp only)
    | split
    | (with_reducible apply State.mk_keeps <;> first | exact Or.inr (mem_of_covers hL rfl) | with_reducible exact Or.inl rfl | skip)

theorem doFlitReceive_keeps {port : Nat} {flit : Flit} {s : State} {s0 : State} {L : List Field} (hL : covers [.regs, .counters, .seq, .seqReported, .events, .ports, .out] L = true) (h : s0.same L s) : s0.same L (doFlitReceive port flit s) := by
  unfold doFlitReceive
  try dsimp only
  repeat' first
    | with_reducible assumption
    | with_reducible apply State.modPort_keeps (covers_trans rfl hL)
    | with_reducible apply State.count_keeps (covers_trans rfl hL)
    | with_reducible apply State.modLink_keeps (covers_trans rfl hL)
    | with_reducible apply State.addCredits_keeps (covers_trans rfl hL)
    | with_reducible apply foldl_keeps
    | (intro _; intros; try dsimp only)
    | split
    | (with_reducible apply State.mk_keeps <;> first | exact Or.inr (mem_of_covers hL rfl) | with_reducible exact Or.inl rfl | skip)

theorem doFlitReplay_keeps {port : Nat} {seq : Nat} {s : State} {s0 : State} {L : List Field} (hL : covers [.regs, .counters, .seq, .seqReported, .events, .parts, .ports, .out] L = true) (h : s0.same L s) : s0.same L (doFlitReplay port seq s) := by
  unfold doFlitReplay
  try dsimp only
  repeat' first
    | with_reducible assumption
    | with_reducible apply State.portDown_keeps (covers_trans rfl hL)
    | with_reducible apply State.modLink_keeps (covers_trans rfl hL)
    | with_reducible apply State.modPort_keeps (covers_trans rfl hL)
    | with_reducible apply State.count_keeps (covers_trans rfl hL)
    | with_reducible apply State.raisePort_keeps (covers_trans rfl hL)
    | with_reducible apply foldl_keeps
    | (intro _; intros; try dsimp only)
    | split
    | (with_reducible apply State.mk_keeps <;> first | exact Or.inr (mem_of_covers hL rfl) | with_reducible exact Or.inl rfl | skip)

theorem State.timeExchange_keeps {s : State} {off : Int} {s0 : State} {L : List Field} (hL : covers [.regs, .time, .seq, .seqReported, .events] L = true) (h : s0.same L s) : s0.same L (State.timeExchange s off) := by
  unfold State.timeExchange
  try dsimp only
  repeat' first
    | with_reducible assumption
    | with_reducible apply State.set_keeps (covers_trans rfl hL)
    | with_reducible apply State.raise_keeps (covers_trans rfl hL)
    | with_reducible apply foldl_keeps
    | (intro _; intros; try dsimp only)
    | split
    | (with_reducible apply State.mk_keeps <;> first | exact Or.inr (mem_of_covers hL rfl) | with_reducible exact Or.inl rfl | skip)

theorem doControlFlit_keeps {port : Nat} {ctl : ControlFlit} {s : State} {s0 : State} {L : List Field} (hL : covers [.regs, .time, .seq, .seqReported, .events, .ports] L = true) (h : s0.same L s) : s0.same L (doControlFlit port ctl s) := by
  unfold doControlFlit
  try dsimp only
  repeat' first
    | with_reducible assumption
    | with_reducible apply State.addCredits_keeps (covers_trans rfl hL)
    | with_reducible apply State.modPort_keeps (covers_trans rfl hL)
    | with_reducible apply State.timeExchange_keeps (covers_trans rfl hL)
    | with_reducible apply foldl_keeps
    | (intro _; intros; try dsimp only)
    | split
    | (with_reducible apply State.mk_keeps <;> first | exact Or.inr (mem_of_covers hL rfl) | with_reducible exact Or.inl rfl | skip)

theorem State.putFlit_keeps {s : State} {n : Nat} {g : SentFlit} {s0 : State} {L : List Field} (hL : covers [.ports, .out] L = true) (h : s0.same L s) : s0.same L (State.putFlit s n g) := by
  unfold State.putFlit
  try dsimp only
  repeat' first
    | with_reducible assumption
    | with_reducible apply State.modLink_keeps (covers_trans rfl hL)
    | with_reducible apply foldl_keeps
    | (intro _; intros; try dsimp only)
    | split
    | (with_reducible apply State.mk_keeps <;> first | exact Or.inr (mem_of_covers hL rfl) | with_reducible exact Or.inl rfl | skip)

theorem State.sendFlit_keeps {s : State} {n : Nat} {kind : Nat} {payload : List Byte} {s0 : State} {L : List Field} (hL : covers [.ports, .out] L = true) (h : s0.same L s) : s0.same L (State.sendFlit s n kind payload) := by
  unfold State.sendFlit
  try dsimp only
  repeat' first
    | with_reducible assumption
    | with_reducible apply State.putFlit_keeps (covers_trans rfl hL)
    | with_reducible apply foldl_keeps
    | (intro _; intros; try dsimp only)
    | split
    | (with_reducible apply State.mk_keeps <;> first | exact Or.inr (mem_of_covers hL rfl) | with_reducible exact Or.inl rfl | skip)

theorem State.sendWire_keeps {s : State} {n : Nat} {o : FabOut} {s0 : State} {L : List Field} (hL : covers [.ports, .out] L = true) (h : s0.same L s) : s0.same L (State.sendWire s n o) := by
  unfold State.sendWire
  try dsimp only
  repeat' first
    | with_reducible assumption
    | with_reducible apply State.modLink_keeps (covers_trans rfl hL)
    | with_reducible apply State.sendFlit_keeps (covers_trans rfl hL)
    | with_reducible apply foldl_keeps
    | (intro _; intros; try dsimp only)
    | split
    | (with_reducible apply State.mk_keeps <;> first | exact Or.inr (mem_of_covers hL rfl) | with_reducible exact Or.inl rfl | skip)

theorem State.noteDrained_keeps {s : State} {s0 : State} {L : List Field} (hL : covers [.regs] L = true) (h : s0.same L s) : s0.same L (State.noteDrained s) := by
  unfold State.noteDrained
  try dsimp only
  repeat' first
    | with_reducible assumption
    | with_reducible apply State.set_keeps (covers_trans rfl hL)
    | with_reducible apply foldl_keeps
    | (intro _; intros; try dsimp only)
    | split
    | (with_reducible apply State.mk_keeps <;> first | exact Or.inr (mem_of_covers hL rfl) | with_reducible exact Or.inl rfl | skip)

theorem State.noteSlotLate_keeps {s : State} {n : Nat} {x : PortItem} {s0 : State} {L : List Field} (hL : covers [.parts] L = true) (h : s0.same L s) : s0.same L (State.noteSlotLate s n x) := by
  unfold State.noteSlotLate
  try dsimp only
  repeat' first
    | with_reducible assumption
    | with_reducible apply State.modPart_keeps (covers_trans rfl hL)
    | with_reducible apply foldl_keeps
    | (intro _; intros; try dsimp only)
    | split
    | (with_reducible apply State.mk_keeps <;> first | exact Or.inr (mem_of_covers hL rfl) | with_reducible exact Or.inl rfl | skip)

theorem doOutputArbitration_keeps {port : Nat} {s : State} {s0 : State} {L : List Field} (hL : covers [.regs, .counters, .seq, .seqReported, .events, .parts, .ports, .power, .out] L = true) (h : s0.same L s) : s0.same L (doOutputArbitration port s) := by
  unfold doOutputArbitration
  try dsimp only
  repeat' first
    | with_reducible assumption
    | with_reducible apply State.sendFlit_keeps (covers_trans rfl hL)
    | with_reducible apply State.count_keeps (covers_trans rfl hL)
    | with_reducible apply State.modPort_keeps (covers_trans rfl hL)
    | with_reducible apply State.releaseVia_keeps (covers_trans rfl hL)
    | with_reducible apply State.wake_keeps (covers_trans rfl hL)
    | with_reducible apply State.sendWire_keeps (covers_trans rfl hL)
    | with_reducible apply State.noteDrained_keeps (covers_trans rfl hL)
    | with_reducible apply State.noteSlotLate_keeps (covers_trans rfl hL)
    | with_reducible apply foldl_keeps
    | (intro _; intros; try dsimp only)
    | split
    | (with_reducible apply State.mk_keeps <;> first | exact Or.inr (mem_of_covers hL rfl) | with_reducible exact Or.inl rfl | skip)

theorem State.writeStretches_keeps {s : State} {p : Nat} {a : List Stretch} {x3 : Nat} {x4 : List Byte} {s0 : State} {L : List Field} (hL : covers [.mem, .staging, .neg, .tags, .negTags] L = true) (h : s0.same L s) : s0.same L (State.writeStretches s p a x3 x4) := by
  induction a generalizing s x3 x4 with
  | nil => exact h
  | cons x xs ih =>
    simp only [State.writeStretches]
    split
    · exact ih h
    · exact ih (State.writeSpace_keeps (covers_trans rfl hL) h)

theorem State.touchChunk_keeps {s : State} {p : Nat} {x : Transfer} {xs : List Stretch} {s0 : State} {L : List Field} (hL : covers [.parts] L = true) (h : s0.same L s) : s0.same L (State.touchChunk s p x xs) := by
  unfold State.touchChunk
  try dsimp only
  repeat' first
    | with_reducible assumption
    | with_reducible apply State.touchTally_keeps (covers_trans rfl hL)
    | with_reducible apply foldl_keeps
    | (intro _; intros; try dsimp only)
    | split
    | (with_reducible apply State.mk_keeps <;> first | exact Or.inr (mem_of_covers hL rfl) | with_reducible exact Or.inl rfl | skip)

theorem State.modOutSlot_keeps {s : State} {p : Nat} {slot : Nat} {f : OutSlot → OutSlot} {s0 : State} {L : List Field} (hL : covers [.parts] L = true) (h : s0.same L s) : s0.same L (State.modOutSlot s p slot f) := by
  unfold State.modOutSlot
  try dsimp only
  repeat' first
    | with_reducible assumption
    | with_reducible apply State.modPart_keeps (covers_trans rfl hL)
    | with_reducible apply foldl_keeps
    | (intro _; intros; try dsimp only)
    | split
    | (with_reducible apply State.mk_keeps <;> first | exact Or.inr (mem_of_covers hL rfl) | with_reducible exact Or.inl rfl | skip)

theorem State.readySlots_keeps {s : State} {p : Nat} {first : Nat} {n : Nat} {proto : PacketSpec} {data : List Byte} {s0 : State} {L : List Field} (hL : covers [.parts] L = true) (h : s0.same L s) : s0.same L (State.readySlots s p first n proto data) := by
  unfold State.readySlots
  try dsimp only
  repeat' first
    | with_reducible assumption
    | with_reducible apply State.modOutSlot_keeps (covers_trans rfl hL)
    | with_reducible apply foldl_keeps
    | (intro _; intros; try dsimp only)
    | split
    | (with_reducible apply State.mk_keeps <;> first | exact Or.inr (mem_of_covers hL rfl) | with_reducible exact Or.inl rfl | skip)

theorem State.seal_keeps {s : State} {p : Nat} {x : PacketSpec} {s0 : State} {L : List Field} (hL : covers [.regs, .seq, .seqReported, .events, .parts] L = true) (h : s0.same L s) : s0.same L (State.seal s p x).2 := by
  unfold State.seal
  try dsimp only
  repeat' first
    | with_reducible assumption
    | with_reducible apply State.stampUsed_keeps (covers_trans rfl hL)
    | with_reducible apply State.modPart_keeps (covers_trans rfl hL)
    | with_reducible apply foldl_keeps
    | (intro _; intros; try dsimp only)
    | split
    | (with_reducible apply State.mk_keeps <;> first | exact Or.inr (mem_of_covers hL rfl) | with_reducible exact Or.inl rfl | skip)

theorem State.post_keeps {s : State} {p : Nat} {port : Nat} {x : PacketSpec} {slot : Option (Nat × Nat)} {late : Bool} {s0 : State} {L : List Field} (hL : covers [.regs, .seq, .seqReported, .events, .parts, .ports] L = true) (h : s0.same L s) : s0.same L (State.post s p port x slot late) := by
  unfold State.post
  try dsimp only
  repeat' first
    | with_reducible assumption
    | with_reducible apply State.seal_keeps (covers_trans rfl hL)
    | with_reducible apply State.enqueue_keeps (covers_trans rfl hL)
    | with_reducible apply foldl_keeps
    | (intro _; intros; try dsimp only)
    | split
    | (with_reducible apply State.mk_keeps <;> first | exact Or.inr (mem_of_covers hL rfl) | with_reducible exact Or.inl rfl | skip)

theorem State.sendRouted_keeps {s : State} {p : Nat} {x : PacketSpec} {s0 : State} {L : List Field} (hL : covers [.regs, .seq, .seqReported, .events, .parts, .ports] L = true) (h : s0.same L s) : s0.same L (State.sendRouted s p x) := by
  unfold State.sendRouted
  try dsimp only
  repeat' first
    | with_reducible assumption
    | with_reducible apply State.post_keeps (covers_trans rfl hL)
    | with_reducible apply foldl_keeps
    | (intro _; intros; try dsimp only)
    | split
    | (with_reducible apply State.mk_keeps <;> first | exact Or.inr (mem_of_covers hL rfl) | with_reducible exact Or.inl rfl | skip)

theorem State.transmitSlot_keeps {s : State} {p : Nat} {slot : Nat} {late : Bool} {s0 : State} {L : List Field} (hL : covers [.regs, .seq, .seqReported, .events, .parts, .ports] L = true) (h : s0.same L s) : s0.same L (State.transmitSlot s p slot late) := by
  unfold State.transmitSlot
  try dsimp only
  repeat' first
    | with_reducible assumption
    | with_reducible apply State.post_keeps (covers_trans rfl hL)
    | with_reducible apply State.modOutSlot_keeps (covers_trans rfl hL)
    | with_reducible apply foldl_keeps
    | (intro _; intros; try dsimp only)
    | split
    | (with_reducible apply State.mk_keeps <;> first | exact Or.inr (mem_of_covers hL rfl) | with_reducible exact Or.inl rfl | skip)

theorem doSlotWindowStart_keeps {p : Nat} {slot : Nat} {s : State} {s0 : State} {L : List Field} (hL : covers [.regs, .counters, .time, .seq, .seqReported, .events, .parts, .ports] L = true) (h : s0.same L s) : s0.same L (doSlotWindowStart p slot s) := by
  unfold doSlotWindowStart
  try dsimp only
  repeat' first
    | with_reducible assumption
    | with_reducible apply State.advanceTo_keeps (covers_trans rfl hL)
    | with_reducible apply State.transmitSlot_keeps (covers_trans rfl hL)
    | with_reducible apply State.raisePort_keeps (covers_trans rfl hL)
    | with_reducible apply State.count_keeps (covers_trans rfl hL)
    | with_reducible apply State.modOutSlot_keeps (covers_trans rfl hL)
    | with_reducible apply foldl_keeps
    | (intro _; intros; try dsimp only)
    | split
    | (with_reducible apply State.mk_keeps <;> first | exact Or.inr (mem_of_covers hL rfl) | with_reducible exact Or.inl rfl | skip)

theorem doLateTransmit_keeps {p : Nat} {slot : Nat} {s : State} {s0 : State} {L : List Field} (hL : covers [.regs, .seq, .seqReported, .events, .parts, .ports] L = true) (h : s0.same L s) : s0.same L (doLateTransmit p slot s) := by
  unfold doLateTransmit
  try dsimp only
  repeat' first
    | with_reducible assumption
    | with_reducible apply State.transmitSlot_keeps (covers_trans rfl hL)
    | with_reducible apply foldl_keeps
    | (intro _; intros; try dsimp only)
    | split
    | (with_reducible apply State.mk_keeps <;> first | exact Or.inr (mem_of_covers hL rfl) | with_reducible exact Or.inl rfl | skip)

theorem State.noteLanding_keeps {s : State} {c : Nat} {r : Running} {x : Transfer} {s0 : State} {L : List Field} (hL : covers [.regs, .counters, .seq, .seqReported, .events, .parts, .cores] L = true) (h : s0.same L s) : s0.same L (State.noteLanding s c r x) := by
  unfold State.noteLanding
  try dsimp only
  repeat' first
    | with_reducible assumption
    | with_reducible apply State.modPart_keeps (covers_trans rfl hL)
    | with_reducible apply State.raiseOnce_keeps (covers_trans rfl hL)
    | with_reducible apply State.count_keeps (covers_trans rfl hL)
    | with_reducible apply foldl_keeps
    | (intro _; intros; try dsimp only)
    | split
    | (with_reducible apply State.mk_keeps <;> first | exact Or.inr (mem_of_covers hL rfl) | with_reducible exact Or.inl rfl | skip)

theorem State.prepareSend_keeps {s : State} {r : Running} {x : Transfer} {o : Operand} {s0 : State} {L : List Field} (hL : covers [.regs, .counters, .seq, .seqReported, .events, .parts, .ports] L = true) (h : s0.same L s) : s0.same L (State.prepareSend s r x o) := by
  unfold State.prepareSend
  try dsimp only
  repeat' first
    | with_reducible assumption
    | with_reducible apply State.readErrors_keeps (covers_trans rfl hL)
    | with_reducible apply State.readySlots_keeps (covers_trans rfl hL)
    | with_reducible apply foldl_keeps
    | (intro _; intros; try dsimp only)
    | split
    | (with_reducible apply State.mk_keeps <;> first | exact Or.inr (mem_of_covers hL rfl) | with_reducible exact Or.inl rfl | skip)

theorem State.transferTask_keeps {s : State} {c : Nat} {mode : Nat} {f : State → Running → Transfer → State} {s0 : State} {L : List Field} (hL : covers [.regs, .counters, .seq, .seqReported, .events, .parts, .cores, .devQueues] L = true) (h : s0.same L s) (hf : ∀ (y0 : State) (y1 : Running) (y2 : Transfer), s0.same L y0 → s0.same L (f y0 y1 y2)) : s0.same L (State.transferTask s c mode f) := by
  unfold State.transferTask
  try dsimp only
  repeat' first
    | with_reducible assumption
    | with_reducible apply State.endEmpty_keeps (covers_trans rfl hL)
    | with_reducible apply hf
    | with_reducible apply foldl_keeps
    | (intro _; intros; try dsimp only)
    | split
    | (with_reducible apply State.mk_keeps <;> first | exact Or.inr (mem_of_covers hL rfl) | with_reducible exact Or.inl rfl | skip)

theorem doFabricSend_keeps {core : Nat} {s : State} {s0 : State} {L : List Field} (hL : covers [.regs, .counters, .seq, .seqReported, .events, .parts, .cores, .devQueues, .ports, .freeCtr] L = true) (h : s0.same L s) : s0.same L (doFabricSend core s) := by
  unfold doFabricSend
  try dsimp only
  repeat' first
    | with_reducible assumption
    | with_reducible apply State.transferTask_keeps (covers_trans rfl hL)
    | with_reducible apply State.endEmpty_keeps (covers_trans rfl hL)
    | with_reducible apply State.noteLanding_keeps (covers_trans rfl hL)
    | with_reducible apply State.prepareSend_keeps (covers_trans rfl hL)
    | with_reducible apply State.endTask_keeps (covers_trans rfl hL)
    | with_reducible apply foldl_keeps
    | (intro _; intros; try dsimp only)
    | split
    | (with_reducible apply State.mk_keeps <;> first | exact Or.inr (mem_of_covers hL rfl) | with_reducible exact Or.inl rfl | skip)

theorem doFabricReceive_keeps {core : Nat} {s : State} {s0 : State} {L : List Field} (hL : covers [.regs, .counters, .seq, .seqReported, .events, .parts, .cores, .devQueues, .freeCtr] L = true) (h : s0.same L s) : s0.same L (doFabricReceive core s) := by
  unfold doFabricReceive
  try dsimp only
  repeat' first
    | with_reducible assumption
    | with_reducible apply State.transferTask_keeps (covers_trans rfl hL)
    | with_reducible apply State.endTask_keeps (covers_trans rfl hL)
    | with_reducible apply foldl_keeps
    | (intro _; intros; try dsimp only)
    | split
    | (with_reducible apply State.mk_keeps <;> first | exact Or.inr (mem_of_covers hL rfl) | with_reducible exact Or.inl rfl | skip)

theorem doLocalCopy_keeps {core : Nat} {s : State} {s0 : State} {L : List Field} (hL : covers [.regs, .counters, .seq, .seqReported, .events, .mem, .staging, .neg, .tags, .negTags, .parts, .cores, .devQueues, .ports, .freeCtr] L = true) (h : s0.same L s) : s0.same L (doLocalCopy core s) := by
  unfold doLocalCopy
  try dsimp only
  repeat' first
    | with_reducible assumption
    | with_reducible apply State.transferTask_keeps (covers_trans rfl hL)
    | with_reducible apply State.readErrors_keeps (covers_trans rfl hL)
    | with_reducible apply State.touchChunk_keeps (covers_trans rfl hL)
    | with_reducible apply State.writeStretches_keeps (covers_trans rfl hL)
    | with_reducible apply State.endTask_keeps (covers_trans rfl hL)
    | with_reducible apply State.endEmpty_keeps (covers_trans rfl hL)
    | with_reducible apply foldl_keeps
    | (intro _; intros; try dsimp only)
    | split
    | (with_reducible apply State.mk_keeps <;> first | exact Or.inr (mem_of_covers hL rfl) | with_reducible exact Or.inl rfl | skip)

theorem State.dropUnmatched_keeps {s : State} {port : Nat} {s0 : State} {L : List Field} (hL : covers [.regs, .counters, .seq, .seqReported, .events] L = true) (h : s0.same L s) : s0.same L (State.dropUnmatched s port) := by
  unfold State.dropUnmatched
  try dsimp only
  repeat' first
    | with_reducible assumption
    | with_reducible apply State.count_keeps (covers_trans rfl hL)
    | with_reducible apply foldl_keeps
    | (intro _; intros; try dsimp only)
    | split
    | (with_reducible apply State.mk_keeps <;> first | exact Or.inr (mem_of_covers hL rfl) | with_reducible exact Or.inl rfl | skip)

theorem State.dropStale_keeps {s : State} {port : Nat} {s0 : State} {L : List Field} (hL : covers [.regs, .counters, .seq, .seqReported, .events, .ports] L = true) (h : s0.same L s) : s0.same L (State.dropStale s port) := by
  unfold State.dropStale
  try dsimp only
  repeat' first
    | with_reducible assumption
    | with_reducible apply State.modPort_keeps (covers_trans rfl hL)
    | with_reducible apply State.count_keeps (covers_trans rfl hL)
    | with_reducible apply State.raisePort_keeps (covers_trans rfl hL)
    | with_reducible apply foldl_keeps
    | (intro _; intros; try dsimp only)
    | split
    | (with_reducible apply State.mk_keeps <;> first | exact Or.inr (mem_of_covers hL rfl) | with_reducible exact Or.inl rfl | skip)

theorem State.tagFailed_keeps {s : State} {port : Nat} {p : Nat} {pk : Packet} {s0 : State} {L : List Field} (hL : covers [.regs, .counters, .seq, .seqReported, .events, .parts, .ports] L = true) (h : s0.same L s) : s0.same L (State.tagFailed s port p pk) := by
  unfold State.tagFailed
  try dsimp only
  repeat' first
    | with_reducible assumption
    | with_reducible apply State.raisePort_keeps (covers_trans rfl hL)
    | with_reducible apply State.count_keeps (covers_trans rfl hL)
    | with_reducible apply State.transientError_keeps (covers_trans rfl hL)
    | with_reducible apply foldl_keeps
    | (intro _; intros; try dsimp only)
    | split
    | (with_reducible apply State.mk_keeps <;> first | exact Or.inr (mem_of_covers hL rfl) | with_reducible exact Or.inl rfl | skip)

theorem State.receive_keeps {s : State} {port : Nat} {pk : Packet} {act : State → Nat → Packet → State} {s0 : State} {L : List Field} (hL : covers [.regs, .counters, .seq, .seqReported, .stamped, .events, .parts, .ports, .out] L = true) (h : s0.same L s) (hact : ∀ (y0 : State) (y1 : Nat) (y2 : Packet), s0.same L y0 → s0.same L (act y0 y1 y2)) : s0.same L (State.receive s port pk act) := by
  unfold State.receive
  try dsimp only
  repeat' first
    | with_reducible assumption
    | with_reducible apply State.modPort_keeps (covers_trans rfl hL)
    | with_reducible apply State.bufferPacket_keeps (covers_trans rfl hL)
    | with_reducible apply State.dropStale_keeps (covers_trans rfl hL)
    | with_reducible apply State.passPacket_keeps (covers_trans rfl hL)
    | with_reducible apply State.stampReceipt_keeps (covers_trans rfl hL)
    | with_reducible apply State.tagFailed_keeps (covers_trans rfl hL)
    | with_reducible apply hact
    | with_reducible apply foldl_keeps
    | (intro _; intros; try dsimp only)
    | split
    | (with_reducible apply State.mk_keeps <;> first | exact Or.inr (mem_of_covers hL rfl) | with_reducible exact Or.inl rfl | skip)

theorem State.takeNotice_keeps {s : State} {p : Nat} {n : Notice} {s0 : State} {L : List Field} (hL : covers [.regs, .counters, .seq, .seqReported, .events, .parts, .ports] L = true) (h : s0.same L s) : s0.same L (State.takeNotice s p n) := by
  unfold State.takeNotice
  try dsimp only
  repeat' first
    | with_reducible assumption
    | with_reducible apply State.modBarrier_keeps (covers_trans rfl hL)
    | with_reducible apply State.applyNotice_keeps (covers_trans rfl hL)
    | with_reducible apply foldl_keeps
    | (intro _; intros; try dsimp only)
    | split
    | (with_reducible apply State.mk_keeps <;> first | exact Or.inr (mem_of_covers hL rfl) | with_reducible exact Or.inl rfl | skip)

theorem doCompletionNotice_keeps {p : Nat} {n : Notice} {s : State} {s0 : State} {L : List Field} (hL : covers [.regs, .counters, .seq, .seqReported, .stamped, .events, .parts, .ports, .out] L = true) (h : s0.same L s) : s0.same L (doCompletionNotice p n s) := by
  unfold doCompletionNotice
  try dsimp only
  repeat' first
    | with_reducible assumption
    | with_reducible apply State.modPort_keeps (covers_trans rfl hL)
    | with_reducible apply State.takeBuffer_keeps (covers_trans rfl hL)
    | with_reducible apply State.dropStale_keeps (covers_trans rfl hL)
    | with_reducible apply State.passBuffer_keeps (covers_trans rfl hL)
    | with_reducible apply State.takeNotice_keeps (covers_trans rfl hL)
    | with_reducible apply State.stampReceipt_keeps (covers_trans rfl hL)
    | with_reducible apply foldl_keeps
    | (intro _; intros; try dsimp only)
    | split
    | (with_reducible apply State.mk_keeps <;> first | exact Or.inr (mem_of_covers hL rfl) | with_reducible exact Or.inl rfl | skip)

theorem State.dataIn_keeps {port : Nat} {s : State} {p : Nat} {pk : Packet} {s0 : State} {L : List Field} (hL : covers [.regs, .counters, .seq, .seqReported, .events, .mem, .staging, .neg, .tags, .negTags, .parts, .layers] L = true) (h : s0.same L s) : s0.same L (State.dataIn port s p pk) := by
  unfold State.dataIn
  try dsimp only
  repeat' first
    | with_reducible assumption
    | with_reducible apply State.dropUnmatched_keeps (covers_trans rfl hL)
    | with_reducible apply State.writeStretches_keeps (covers_trans rfl hL)
    | with_reducible apply State.setRemoteScale_keeps (covers_trans rfl hL)
    | with_reducible apply State.modPart_keeps (covers_trans rfl hL)
    | with_reducible apply State.touchChunk_keeps (covers_trans rfl hL)
    | with_reducible apply foldl_keeps
    | (intro _; intros; try dsimp only)
    | split
    | (with_reducible apply State.mk_keeps <;> first | exact Or.inr (mem_of_covers hL rfl) | with_reducible exact Or.inl rfl | skip)

theorem doDataPacket_keeps {port : Nat} {pkt : Packet} {s : State} {s0 : State} {L : List Field} (hL : covers [.regs, .counters, .seq, .seqReported, .stamped, .events, .mem, .staging, .neg, .tags, .negTags, .parts, .layers, .ports, .out] L = true) (h : s0.same L s) : s0.same L (doDataPacket port pkt s) := by
  unfold doDataPacket
  try dsimp only
  repeat' first
    | with_reducible assumption
    | with_reducible apply State.receive_keeps (covers_trans rfl hL)
    | with_reducible apply State.dataIn_keeps (covers_trans rfl hL)
    | with_reducible apply foldl_keeps
    | (intro _; intros; try dsimp only)
    | split
    | (with_reducible apply State.mk_keeps <;> first | exact Or.inr (mem_of_covers hL rfl) | with_reducible exact Or.inl rfl | skip)

theorem State.unroutable_keeps {s : State} {port : Nat} {pk : Packet} {cause : Nat} {s0 : State} {L : List Field} (hL : covers [.regs, .counters, .seq, .seqReported, .events, .ports] L = true) (h : s0.same L s) : s0.same L (State.unroutable s port pk cause) := by
  unfold State.unroutable
  try dsimp only
  repeat' first
    | with_reducible assumption
    | with_reducible apply State.raisePort_keeps (covers_trans rfl hL)
    | with_reducible apply State.count_keeps (covers_trans rfl hL)
    | with_reducible apply foldl_keeps
    | (intro _; intros; try dsimp only)
    | split
    | (with_reducible apply State.mk_keeps <;> first | exact Or.inr (mem_of_covers hL rfl) | with_reducible exact Or.inl rfl | skip)

theorem State.relay_keeps {s : State} {port : Nat} {pk : Packet} {s0 : State} {L : List Field} (hL : covers [.regs, .counters, .seq, .seqReported, .events, .ports] L = true) (h : s0.same L s) : s0.same L (State.relay s port pk) := by
  unfold State.relay
  try dsimp only
  repeat' first
    | with_reducible assumption
    | with_reducible apply State.unroutable_keeps (covers_trans rfl hL)
    | with_reducible apply State.passPacket_keeps (covers_trans rfl hL)
    | with_reducible apply State.enqueueVia_keeps (covers_trans rfl hL)
    | with_reducible apply State.bufferPacket_keeps (covers_trans rfl hL)
    | with_reducible apply foldl_keeps
    | (intro _; intros; try dsimp only)
    | split
    | (with_reducible apply State.mk_keeps <;> first | exact Or.inr (mem_of_covers hL rfl) | with_reducible exact Or.inl rfl | skip)

theorem doPacketRelay_keeps {port : Nat} {pkt : Packet} {s : State} {s0 : State} {L : List Field} (hL : covers [.regs, .counters, .seq, .seqReported, .stamped, .events, .ports, .out] L = true) (h : s0.same L s) : s0.same L (doPacketRelay port pkt s) := by
  unfold doPacketRelay
  try dsimp only
  repeat' first
    | with_reducible assumption
    | with_reducible apply State.modPort_keeps (covers_trans rfl hL)
    | with_reducible apply State.bufferPacket_keeps (covers_trans rfl hL)
    | with_reducible apply State.dropStale_keeps (covers_trans rfl hL)
    | with_reducible apply State.passPacket_keeps (covers_trans rfl hL)
    | with_reducible apply State.relay_keeps (covers_trans rfl hL)
    | with_reducible apply State.stampReceipt_keeps (covers_trans rfl hL)
    | with_reducible apply foldl_keeps
    | (intro _; intros; try dsimp only)
    | split
    | (with_reducible apply State.mk_keeps <;> first | exact Or.inr (mem_of_covers hL rfl) | with_reducible exact Or.inl rfl | skip)

theorem State.giveLanding_keeps {s : State} {p : Nat} {sec : List Byte} {x : Transfer} {s0 : State} {L : List Field} (hL : covers [.regs, .seq, .seqReported, .events, .parts, .ports] L = true) (h : s0.same L s) : s0.same L (State.giveLanding s p sec x) := by
  unfold State.giveLanding
  try dsimp only
  repeat' first
    | with_reducible assumption
    | with_reducible apply State.modPart_keeps (covers_trans rfl hL)
    | with_reducible apply State.sendRouted_keeps (covers_trans rfl hL)
    | with_reducible apply foldl_keeps
    | (intro _; intros; try dsimp only)
    | split
    | (with_reducible apply State.mk_keeps <;> first | exact Or.inr (mem_of_covers hL rfl) | with_reducible exact Or.inl rfl | skip)

theorem State.releaseLandings_keeps {s : State} {p : Nat} {pl : Plan} {g : Nat} {t : Nat} {s0 : State} {L : List Field} (hL : covers [.regs, .seq, .seqReported, .events, .parts, .ports] L = true) (h : s0.same L s) : s0.same L (State.releaseLandings s p pl g t) := by
  unfold State.releaseLandings
  try dsimp only
  repeat' first
    | with_reducible assumption
    | with_reducible apply State.giveLanding_keeps (covers_trans rfl hL)
    | with_reducible apply foldl_keeps
    | (intro _; intros; try dsimp only)
    | split
    | (with_reducible apply State.mk_keeps <;> first | exact Or.inr (mem_of_covers hL rfl) | with_reducible exact Or.inl rfl | skip)

theorem State.landingIn_keeps {port : Nat} {s : State} {p : Nat} {pk : Packet} {s0 : State} {L : List Field} (hL : covers [.regs, .counters, .seq, .seqReported, .events, .parts] L = true) (h : s0.same L s) : s0.same L (State.landingIn port s p pk) := by
  unfold State.landingIn
  try dsimp only
  repeat' first
    | with_reducible assumption
    | with_reducible apply State.modPart_keeps (covers_trans rfl hL)
    | with_reducible apply State.dropUnmatched_keeps (covers_trans rfl hL)
    | with_reducible apply foldl_keeps
    | (intro _; intros; try dsimp only)
    | split
    | (with_reducible apply State.mk_keeps <;> first | exact Or.inr (mem_of_covers hL rfl) | with_reducible exact Or.inl rfl | skip)

theorem State.noteSwitch_keeps {s : State} {p : Nat} {position : Nat} {x : Nat} {s0 : State} {L : List Field} (hL : covers [.regs, .seq, .seqReported, .events, .parts, .ports] L = true) (h : s0.same L s) : s0.same L (State.noteSwitch s p position x) := by
  unfold State.noteSwitch
  try dsimp only
  repeat' first
    | with_reducible assumption
    | with_reducible apply State.modPart_keeps (covers_trans rfl hL)
    | with_reducible apply State.sendRouted_keeps (covers_trans rfl hL)
    | with_reducible apply foldl_keeps
    | (intro _; intros; try dsimp only)
    | split
    | (with_reducible apply State.mk_keeps <;> first | exact Or.inr (mem_of_covers hL rfl) | with_reducible exact Or.inl rfl | skip)

theorem State.switchUp_keeps {s : State} {p : Nat} {position : Nat} {x : Nat} {s0 : State} {L : List Field} (hL : covers [.regs, .seq, .seqReported, .events, .parts, .ports] L = true) (h : s0.same L s) : s0.same L (State.switchUp s p position x) := by
  unfold State.switchUp
  try dsimp only
  repeat' first
    | with_reducible assumption
    | with_reducible apply State.noteSwitch_keeps (covers_trans rfl hL)
    | with_reducible apply State.sendRouted_keeps (covers_trans rfl hL)
    | with_reducible apply foldl_keeps
    | (intro _; intros; try dsimp only)
    | split
    | (with_reducible apply State.mk_keeps <;> first | exact Or.inr (mem_of_covers hL rfl) | with_reducible exact Or.inl rfl | skip)

theorem State.switchIn_keeps {s : State} {p : Nat} {pk : Packet} {s0 : State} {L : List Field} (hL : covers [.regs, .seq, .seqReported, .events, .parts, .ports] L = true) (h : s0.same L s) : s0.same L (State.switchIn s p pk) := by
  unfold State.switchIn
  try dsimp only
  repeat' first
    | with_reducible assumption
    | with_reducible apply State.noteSwitch_keeps (covers_trans rfl hL)
    | with_reducible apply State.switchUp_keeps (covers_trans rfl hL)
    | with_reducible apply foldl_keeps
    | (intro _; intros; try dsimp only)
    | split
    | (with_reducible apply State.mk_keeps <;> first | exact Or.inr (mem_of_covers hL rfl) | with_reducible exact Or.inl rfl | skip)

theorem doRouteSwitch_keeps {port : Nat} {pkt : Packet} {s : State} {s0 : State} {L : List Field} (hL : covers [.regs, .counters, .seq, .seqReported, .stamped, .events, .parts, .ports, .out] L = true) (h : s0.same L s) : s0.same L (doRouteSwitch port pkt s) := by
  unfold doRouteSwitch
  try dsimp only
  repeat' first
    | with_reducible assumption
    | with_reducible apply State.receive_keeps (covers_trans rfl hL)
    | with_reducible apply State.switchIn_keeps (covers_trans rfl hL)
    | with_reducible apply foldl_keeps
    | (intro _; intros; try dsimp only)
    | split
    | (with_reducible apply State.mk_keeps <;> first | exact Or.inr (mem_of_covers hL rfl) | with_reducible exact Or.inl rfl | skip)

theorem doRouteSwitchApply_keeps {p : Nat} {position : Nat} {s : State} {s0 : State} {L : List Field} (hL : covers [.regs, .counters, .seq, .seqReported, .events, .parts, .ports] L = true) (h : s0.same L s) : s0.same L (doRouteSwitchApply p position s) := by
  unfold doRouteSwitchApply
  try dsimp only
  repeat' first
    | with_reducible assumption
    | with_reducible apply State.modPart_keeps (covers_trans rfl hL)
    | with_reducible apply State.raiseFor_keeps (covers_trans rfl hL)
    | with_reducible apply State.stepFault_keeps (covers_trans rfl hL)
    | with_reducible apply State.count_keeps (covers_trans rfl hL)
    | with_reducible apply foldl_keeps
    | (intro _; intros; try dsimp only)
    | split
    | (with_reducible apply State.mk_keeps <;> first | exact Or.inr (mem_of_covers hL rfl) | with_reducible exact Or.inl rfl | skip)

theorem doFenceMarker_keeps {port : Nat} {pkt : Packet} {s : State} {s0 : State} {L : List Field} (hL : covers [.regs, .seq, .seqReported, .stamped, .events, .ports, .out] L = true) (h : s0.same L s) : s0.same L (doFenceMarker port pkt s) := by
  unfold doFenceMarker
  try dsimp only
  repeat' first
    | with_reducible assumption
    | with_reducible apply State.modPort_keeps (covers_trans rfl hL)
    | with_reducible apply State.stampReceipt_keeps (covers_trans rfl hL)
    | with_reducible apply State.passPacket_keeps (covers_trans rfl hL)
    | with_reducible apply foldl_keeps
    | (intro _; intros; try dsimp only)
    | split
    | (with_reducible apply State.mk_keeps <;> first | exact Or.inr (mem_of_covers hL rfl) | with_reducible exact Or.inl rfl | skip)

end Sys2Proof.Machine
end

