-- ==== Sys2Proof/Laws/Keeps5.lean ====
section
/-! SUPPORT. The fields an operation leaves alone, for the operations in Reduce.lean, Commit.lean, Securing.lean. -/

set_option Elab.async false

namespace Sys2Proof.Machine

theorem State.modStripe_keeps {s : State} {p : Nat} {g : Nat} {t : Nat} {k : Nat} {f : StripeRun → StripeRun} {s0 : State} {L : List Field} (hL : covers [.parts] L = true) (h : s0.same L s) : s0.same L (State.modStripe s p g t k f) := by
  unfold State.modStripe
  try dsimp only
  repeat' first
    | with_reducible assumption
    | with_reducible apply State.modPart_keeps (covers_trans rfl hL)
    | with_reducible apply foldl_keeps
    | (intro _; intros; try dsimp only)
    | split
    | (with_reducible apply State.mk_keeps <;> first | exact Or.inr (mem_of_covers hL rfl) | with_reducible exact Or.inl rfl | skip)

theorem State.putResult_keeps {s : State} {p : Nat} {t : Tensor} {i : Nat} {codes : List Nat} {s0 : State} {L : List Field} (hL : covers [.regs, .counters, .seq, .seqReported, .events, .mem, .staging, .neg, .tags, .negTags] L = true) (h : s0.same L s) : s0.same L (State.putResult s p t i codes) := by
  unfold State.putResult
  try dsimp only
  repeat' first
    | with_reducible assumption
    | with_reducible apply State.putCodes_keeps (covers_trans rfl hL)
    | with_reducible apply State.putBits_keeps (covers_trans rfl hL)
    | with_reducible apply foldl_keeps
    | (intro _; intros; try dsimp only)
    | split
    | (with_reducible apply State.mk_keeps <;> first | exact Or.inr (mem_of_covers hL rfl) | with_reducible exact Or.inl rfl | skip)

theorem State.putMxResult_keeps {s : State} {p : Nat} {t : Tensor} {first : Nat} {vs : List Fp} {s0 : State} {L : List Field} (hL : covers [.regs, .counters, .seq, .seqReported, .events, .mem, .staging, .neg, .tags, .negTags] L = true) (h : s0.same L s) : s0.same L (State.putMxResult s p t first vs) := by
  unfold State.putMxResult
  try dsimp only
  repeat' first
    | with_reducible assumption
    | with_reducible apply State.writeSpace_keeps (covers_trans rfl hL)
    | with_reducible apply State.putResult_keeps (covers_trans rfl hL)
    | with_reducible apply foldl_keeps
    | (intro _; intros; try dsimp only)
    | split
    | (with_reducible apply State.mk_keeps <;> first | exact Or.inr (mem_of_covers hL rfl) | with_reducible exact Or.inl rfl | skip)

theorem State.recordSide_keeps {s : State} {p : Nat} {x : Reduce} {v : Nat × Nat} {s0 : State} {L : List Field} (hL : covers [.parts, .layers] L = true) (h : s0.same L s) : s0.same L (State.recordSide s p x v) := by
  unfold State.recordSide
  try dsimp only
  repeat' first
    | with_reducible assumption
    | with_reducible apply State.recordAmax_keeps (covers_trans rfl hL)
    | with_reducible apply State.modPart_keeps (covers_trans rfl hL)
    | with_reducible apply foldl_keeps
    | (intro _; intros; try dsimp only)
    | split
    | (with_reducible apply State.mk_keeps <;> first | exact Or.inr (mem_of_covers hL rfl) | with_reducible exact Or.inl rfl | skip)

theorem State.readyLeg_keeps {s : State} {p : Nat} {x : Reduce} {l : Leg} {kind : Nat} {cls : Nat} {e : Nat} {data : List Byte} {side : Option (Nat × Nat)} {s0 : State} {L : List Field} (hL : covers [.parts] L = true) (h : s0.same L s) : s0.same L (State.readyLeg s p x l kind cls e data side) := by
  unfold State.readyLeg
  try dsimp only
  repeat' first
    | with_reducible assumption
    | with_reducible apply State.readySlots_keeps (covers_trans rfl hL)
    | with_reducible apply State.modOutSlot_keeps (covers_trans rfl hL)
    | with_reducible apply foldl_keeps
    | (intro _; intros; try dsimp only)
    | split
    | (with_reducible apply State.mk_keeps <;> first | exact Or.inr (mem_of_covers hL rfl) | with_reducible exact Or.inl rfl | skip)

theorem State.sendDown_keeps {s : State} {w : RedWork} {k : Nat} {data : List Byte} {side : Option (Nat × Nat)} {s0 : State} {L : List Field} (hL : covers [.parts] L = true) (h : s0.same L s) : s0.same L (State.sendDown s w k data side) := by
  unfold State.sendDown
  try dsimp only
  repeat' first
    | with_reducible assumption
    | with_reducible apply State.readyLeg_keeps (covers_trans rfl hL)
    | with_reducible apply foldl_keeps
    | (intro _; intros; try dsimp only)
    | split
    | (with_reducible apply State.mk_keeps <;> first | exact Or.inr (mem_of_covers hL rfl) | with_reducible exact Or.inl rfl | skip)

theorem State.redHits_keeps {s : State} {w : RedWork} {hits : Nat} {s0 : State} {L : List Field} (hL : covers [.regs, .counters, .seq, .seqReported, .events, .parts] L = true) (h : s0.same L s) : s0.same L (State.redHits s w hits) := by
  unfold State.redHits
  try dsimp only
  repeat' first
    | with_reducible assumption
    | with_reducible apply State.modRun_keeps (covers_trans rfl hL)
    | with_reducible apply State.count_keeps (covers_trans rfl hL)
    | with_reducible apply State.raise_keeps (covers_trans rfl hL)
    | with_reducible apply foldl_keeps
    | (intro _; intros; try dsimp only)
    | split
    | (with_reducible apply State.mk_keeps <;> first | exact Or.inr (mem_of_covers hL rfl) | with_reducible exact Or.inl rfl | skip)

theorem State.combineStripe_keeps {s : State} {w : RedWork} {k : Nat} {st : Stripe} {s0 : State} {L : List Field} (hL : covers [.regs, .counters, .seq, .seqReported, .events, .mem, .staging, .neg, .tags, .negTags, .parts, .layers] L = true) (h : s0.same L s) : s0.same L (State.combineStripe s w k st) := by
  unfold State.combineStripe
  try dsimp only
  repeat' first
    | with_reducible assumption
    | with_reducible apply State.modStripe_keeps (covers_trans rfl hL)
    | with_reducible apply State.redHits_keeps (covers_trans rfl hL)
    | with_reducible apply State.putMxResult_keeps (covers_trans rfl hL)
    | with_reducible apply State.putResult_keeps (covers_trans rfl hL)
    | with_reducible apply State.recordSide_keeps (covers_trans rfl hL)
    | with_reducible apply State.sendDown_keeps (covers_trans rfl hL)
    | with_reducible apply State.readyLeg_keeps (covers_trans rfl hL)
    | with_reducible apply foldl_keeps
    | (intro _; intros; try dsimp only)
    | split
    | (with_reducible apply State.mk_keeps <;> first | exact Or.inr (mem_of_covers hL rfl) | with_reducible exact Or.inl rfl | skip)

theorem State.finishStripe_keeps {s : State} {w : RedWork} {k : Nat} {parent : Nat} {s0 : State} {L : List Field} (hL : covers [.regs, .counters, .seq, .seqReported, .events, .mem, .staging, .neg, .tags, .negTags, .parts] L = true) (h : s0.same L s) : s0.same L (State.finishStripe s w k parent) := by
  unfold State.finishStripe
  try dsimp only
  repeat' first
    | with_reducible assumption
    | with_reducible apply State.putMxResult_keeps (covers_trans rfl hL)
    | with_reducible apply State.sendDown_keeps (covers_trans rfl hL)
    | with_reducible apply State.modStripe_keeps (covers_trans rfl hL)
    | with_reducible apply foldl_keeps
    | (intro _; intros; try dsimp only)
    | split
    | (with_reducible apply State.mk_keeps <;> first | exact Or.inr (mem_of_covers hL rfl) | with_reducible exact Or.inl rfl | skip)

theorem State.moveStripe_keeps {s : State} {w : RedWork} {k : Nat} {s0 : State} {L : List Field} (hL : covers [.regs, .counters, .seq, .seqReported, .events, .mem, .staging, .neg, .tags, .negTags, .parts, .layers] L = true) (h : s0.same L s) : s0.same L (State.moveStripe s w k) := by
  unfold State.moveStripe
  try dsimp only
  repeat' first
    | with_reducible assumption
    | with_reducible apply State.finishStripe_keeps (covers_trans rfl hL)
    | with_reducible apply State.combineStripe_keeps (covers_trans rfl hL)
    | with_reducible apply foldl_keeps
    | (intro _; intros; try dsimp only)
    | split
    | (with_reducible apply State.mk_keeps <;> first | exact Or.inr (mem_of_covers hL rfl) | with_reducible exact Or.inl rfl | skip)

theorem State.stampPart_keeps {s : State} {s0 : State} {L : List Field} (hL : covers [.regs, .seq, .seqReported, .stamped, .events, .out] L = true) (h : s0.same L s) : s0.same L (State.stampPart s) := by
  unfold State.stampPart
  try dsimp only
  repeat' first
    | with_reducible assumption
    | with_reducible apply State.issueStamp_keeps (covers_trans rfl hL)
    | with_reducible apply foldl_keeps
    | (intro _; intros; try dsimp only)
    | split
    | (with_reducible apply State.mk_keeps <;> first | exact Or.inr (mem_of_covers hL rfl) | with_reducible exact Or.inl rfl | skip)

theorem doReduction_keeps {core : Nat} {s : State} {s0 : State} {L : List Field} (hL : covers [.regs, .counters, .seq, .seqReported, .stamped, .events, .mem, .staging, .neg, .tags, .negTags, .parts, .cores, .layers, .devQueues, .ports, .out, .freeCtr] L = true) (h : s0.same L s) : s0.same L (doReduction core s) := by
  unfold doReduction
  try dsimp only
  repeat' first
    | with_reducible assumption
    | with_reducible apply State.load_keeps (covers_trans rfl hL)
    | with_reducible apply State.moveStripe_keeps (covers_trans rfl hL)
    | with_reducible apply State.modStripe_keeps (covers_trans rfl hL)
    | with_reducible apply State.stampPart_keeps (covers_trans rfl hL)
    | with_reducible apply State.count_keeps (covers_trans rfl hL)
    | with_reducible apply State.endTask_keeps (covers_trans rfl hL)
    | with_reducible apply State.endEmpty_keeps (covers_trans rfl hL)
    | with_reducible apply foldl_keeps
    | (intro _; intros; try dsimp only)
    | split
    | (with_reducible apply State.mk_keeps <;> first | exact Or.inr (mem_of_covers hL rfl) | with_reducible exact Or.inl rfl | skip)

theorem State.partialIn_keeps {port : Nat} {s : State} {p : Nat} {pk : Packet} {s0 : State} {L : List Field} (hL : covers [.regs, .counters, .seq, .seqReported, .stamped, .events, .mem, .staging, .neg, .tags, .negTags, .parts, .layers, .out] L = true) (h : s0.same L s) : s0.same L (State.partialIn port s p pk) := by
  unfold State.partialIn
  try dsimp only
  repeat' first
    | with_reducible assumption
    | with_reducible apply State.dropUnmatched_keeps (covers_trans rfl hL)
    | with_reducible apply State.count_keeps (covers_trans rfl hL)
    | with_reducible apply State.raiseFor_keeps (covers_trans rfl hL)
    | with_reducible apply State.modPart_keeps (covers_trans rfl hL)
    | with_reducible apply State.moveStripe_keeps (covers_trans rfl hL)
    | with_reducible apply State.modStripe_keeps (covers_trans rfl hL)
    | with_reducible apply State.stampPart_keeps (covers_trans rfl hL)
    | with_reducible apply foldl_keeps
    | (intro _; intros; try dsimp only)
    | split
    | (with_reducible apply State.mk_keeps <;> first | exact Or.inr (mem_of_covers hL rfl) | with_reducible exact Or.inl rfl | skip)

theorem doReductionPartial_keeps {port : Nat} {pkt : Packet} {s : State} {s0 : State} {L : List Field} (hL : covers [.regs, .counters, .seq, .seqReported, .stamped, .events, .mem, .staging, .neg, .tags, .negTags, .parts, .layers, .ports, .out] L = true) (h : s0.same L s) : s0.same L (doReductionPartial port pkt s) := by
  unfold doReductionPartial
  try dsimp only
  repeat' first
    | with_reducible assumption
    | with_reducible apply State.receive_keeps (covers_trans rfl hL)
    | with_reducible apply State.partialIn_keeps (covers_trans rfl hL)
    | with_reducible apply foldl_keeps
    | (intro _; intros; try dsimp only)
    | split
    | (with_reducible apply State.mk_keeps <;> first | exact Or.inr (mem_of_covers hL rfl) | with_reducible exact Or.inl rfl | skip)

theorem State.resultIn_keeps {port : Nat} {s : State} {p : Nat} {pk : Packet} {s0 : State} {L : List Field} (hL : covers [.regs, .counters, .seq, .seqReported, .events, .mem, .staging, .neg, .tags, .negTags, .parts, .layers] L = true) (h : s0.same L s) : s0.same L (State.resultIn port s p pk) := by
  unfold State.resultIn
  try dsimp only
  repeat' first
    | with_reducible assumption
    | with_reducible apply State.dropUnmatched_keeps (covers_trans rfl hL)
    | with_reducible apply State.putResult_keeps (covers_trans rfl hL)
    | with_reducible apply State.moveStripe_keeps (covers_trans rfl hL)
    | with_reducible apply State.modStripe_keeps (covers_trans rfl hL)
    | with_reducible apply foldl_keeps
    | (intro _; intros; try dsimp only)
    | split
    | (with_reducible apply State.mk_keeps <;> first | exact Or.inr (mem_of_covers hL rfl) | with_reducible exact Or.inl rfl | skip)

theorem doReductionResult_keeps {port : Nat} {pkt : Packet} {s : State} {s0 : State} {L : List Field} (hL : covers [.regs, .counters, .seq, .seqReported, .stamped, .events, .mem, .staging, .neg, .tags, .negTags, .parts, .layers, .ports, .out] L = true) (h : s0.same L s) : s0.same L (doReductionResult port pkt s) := by
  unfold doReductionResult
  try dsimp only
  repeat' first
    | with_reducible assumption
    | with_reducible apply State.receive_keeps (covers_trans rfl hL)
    | with_reducible apply State.resultIn_keeps (covers_trans rfl hL)
    | with_reducible apply foldl_keeps
    | (intro _; intros; try dsimp only)
    | split
    | (with_reducible apply State.mk_keeps <;> first | exact Or.inr (mem_of_covers hL rfl) | with_reducible exact Or.inl rfl | skip)

theorem State.sideIn_keeps {port : Nat} {s : State} {p : Nat} {pk : Packet} {s0 : State} {L : List Field} (hL : covers [.regs, .counters, .seq, .seqReported, .events, .mem, .staging, .neg, .tags, .negTags, .parts, .layers] L = true) (h : s0.same L s) : s0.same L (State.sideIn port s p pk) := by
  unfold State.sideIn
  try dsimp only
  repeat' first
    | with_reducible assumption
    | with_reducible apply State.moveStripe_keeps (covers_trans rfl hL)
    | with_reducible apply State.modStripe_keeps (covers_trans rfl hL)
    | with_reducible apply State.recordSide_keeps (covers_trans rfl hL)
    | with_reducible apply State.dropUnmatched_keeps (covers_trans rfl hL)
    | with_reducible apply foldl_keeps
    | (intro _; intros; try dsimp only)
    | split
    | (with_reducible apply State.mk_keeps <;> first | exact Or.inr (mem_of_covers hL rfl) | with_reducible exact Or.inl rfl | skip)

theorem doSideband_keeps {port : Nat} {pkt : Packet} {s : State} {s0 : State} {L : List Field} (hL : covers [.regs, .counters, .seq, .seqReported, .stamped, .events, .mem, .staging, .neg, .tags, .negTags, .parts, .layers, .ports, .out] L = true) (h : s0.same L s) : s0.same L (doSideband port pkt s) := by
  unfold doSideband
  try dsimp only
  repeat' first
    | with_reducible assumption
    | with_reducible apply State.receive_keeps (covers_trans rfl hL)
    | with_reducible apply State.sideIn_keeps (covers_trans rfl hL)
    | with_reducible apply foldl_keeps
    | (intro _; intros; try dsimp only)
    | split
    | (with_reducible apply State.mk_keeps <;> first | exact Or.inr (mem_of_covers hL rfl) | with_reducible exact Or.inl rfl | skip)

theorem State.recheckPort_keeps {s : State} {n : Nat} {s0 : State} {L : List Field} (hL : covers [.regs, .seq, .seqReported, .events, .parts, .ports] L = true) (h : s0.same L s) : s0.same L (State.recheckPort s n) := by
  unfold State.recheckPort
  try dsimp only
  repeat' first
    | with_reducible assumption
    | with_reducible apply State.planInvalid_keeps (covers_trans rfl hL)
    | with_reducible apply foldl_keeps
    | (intro _; intros; try dsimp only)
    | split
    | (with_reducible apply State.mk_keeps <;> first | exact Or.inr (mem_of_covers hL rfl) | with_reducible exact Or.inl rfl | skip)

theorem doLaneFailure_keeps {port : Nat} {lane : Nat} {errors : Nat} {symbols : Nat} {s : State} {s0 : State} {L : List Field} (hL : covers [.regs, .counters, .seq, .seqReported, .events, .parts, .ports] L = true) (h : s0.same L s) : s0.same L (doLaneFailure port lane errors symbols s) := by
  unfold doLaneFailure
  try dsimp only
  repeat' first
    | with_reducible assumption
    | with_reducible apply State.set_keeps (covers_trans rfl hL)
    | with_reducible apply State.portDown_keeps (covers_trans rfl hL)
    | with_reducible apply State.modPort_keeps (covers_trans rfl hL)
    | with_reducible apply State.count_keeps (covers_trans rfl hL)
    | with_reducible apply State.raise_keeps (covers_trans rfl hL)
    | with_reducible apply State.recheckPort_keeps (covers_trans rfl hL)
    | with_reducible apply foldl_keeps
    | (intro _; intros; try dsimp only)
    | split
    | (with_reducible apply State.mk_keeps <;> first | exact Or.inr (mem_of_covers hL rfl) | with_reducible exact Or.inl rfl | skip)

theorem State.sendTokens_keeps {s : State} {pl : Plan} {g : Nat} {t : Nat} {dst : Task → Bool} {s0 : State} {L : List Field} (hL : covers [.tokens] L = true) (h : s0.same L s) : s0.same L (State.sendTokens s pl g t dst) := by
  unfold State.sendTokens
  try dsimp only
  repeat' first
    | with_reducible assumption
    | with_reducible apply foldl_keeps
    | (intro _; intros; try dsimp only)
    | split
    | (with_reducible apply State.mk_keeps <;> first | exact Or.inr (mem_of_covers hL rfl) | with_reducible exact Or.inl rfl | skip)

theorem State.commitLayer_keeps {s : State} {p : Nat} {pl : Plan} {g : Nat} {l : Nat} {s0 : State} {L : List Field} (hL : covers [.regs, .counters, .seq, .seqReported, .events, .parts, .tokens] L = true) (h : s0.same L s) : s0.same L (State.commitLayer s p pl g l) := by
  unfold State.commitLayer
  try dsimp only
  repeat' first
    | with_reducible assumption
    | with_reducible apply State.writeHalos_keeps (covers_trans rfl hL)
    | with_reducible apply State.sendTokens_keeps (covers_trans rfl hL)
    | with_reducible apply foldl_keeps
    | (intro _; intros; try dsimp only)
    | split
    | (with_reducible apply State.mk_keeps <;> first | exact Or.inr (mem_of_covers hL rfl) | with_reducible exact Or.inl rfl | skip)

theorem State.replayTask_keeps {s : State} {p : Nat} {g : Nat} {l : Nat} {pl : Plan} {x : Nat × Task} {s0 : State} {L : List Field} (hL : covers [.parts, .cores, .power] L = true) (h : s0.same L s) : s0.same L (State.replayTask s p g l pl x) := by
  unfold State.replayTask
  try dsimp only
  repeat' first
    | with_reducible assumption
    | with_reducible apply State.wake_keeps (covers_trans rfl hL)
    | with_reducible apply State.modRun_keeps (covers_trans rfl hL)
    | with_reducible apply State.modCore_keeps (covers_trans rfl hL)
    | with_reducible apply foldl_keeps
    | (intro _; intros; try dsimp only)
    | split
    | (with_reducible apply State.mk_keeps <;> first | exact Or.inr (mem_of_covers hL rfl) | with_reducible exact Or.inl rfl | skip)

theorem State.replayLayer_keeps {s : State} {p : Nat} {g : Nat} {l : Nat} {pl : Plan} {s0 : State} {L : List Field} (hL : covers [.regs, .counters, .seq, .seqReported, .events, .parts, .cores, .layers, .tally, .power] L = true) (h : s0.same L s) : s0.same L (State.replayLayer s p g l pl) := by
  unfold State.replayLayer
  try dsimp only
  repeat' first
    | with_reducible assumption
    | with_reducible apply State.modLayer_keeps (covers_trans rfl hL)
    | with_reducible apply State.raise_keeps (covers_trans rfl hL)
    | with_reducible apply State.set_keeps (covers_trans rfl hL)
    | with_reducible apply State.count_keeps (covers_trans rfl hL)
    | with_reducible apply State.replayTask_keeps (covers_trans rfl hL)
    | with_reducible apply foldl_keeps
    | (intro _; intros; try dsimp only)
    | split
    | (with_reducible apply State.mk_keeps <;> first | exact Or.inr (mem_of_covers hL rfl) | with_reducible exact Or.inl rfl | skip)

theorem State.numericFault_keeps {s : State} {p : Nat} {l : Nat} {cause : Nat} {s0 : State} {L : List Field} (hL : covers [.regs, .counters, .seq, .seqReported, .events, .parts, .ports] L = true) (h : s0.same L s) : s0.same L (State.numericFault s p l cause) := by
  unfold State.numericFault
  try dsimp only
  repeat' first
    | with_reducible assumption
    | with_reducible apply State.raise_keeps (covers_trans rfl hL)
    | with_reducible apply State.stepFault_keeps (covers_trans rfl hL)
    | with_reducible apply State.count_keeps (covers_trans rfl hL)
    | with_reducible apply State.set_keeps (covers_trans rfl hL)
    | with_reducible apply foldl_keeps
    | (intro _; intros; try dsimp only)
    | split
    | (with_reducible apply State.mk_keeps <;> first | exact Or.inr (mem_of_covers hL rfl) | with_reducible exact Or.inl rfl | skip)

theorem State.judgeLayer_keeps {s : State} {p : Nat} {g : Nat} {l : Nat} {pl : Plan} {s0 : State} {L : List Field} (hL : covers [.regs, .counters, .seq, .seqReported, .events, .parts, .cores, .tokens, .layers, .ports, .tally, .power] L = true) (h : s0.same L s) : s0.same L (State.judgeLayer s p g l pl) := by
  unfold State.judgeLayer
  try dsimp only
  repeat' first
    | with_reducible assumption
    | with_reducible apply State.numericFault_keeps (covers_trans rfl hL)
    | with_reducible apply State.replayLayer_keeps (covers_trans rfl hL)
    | with_reducible apply State.commitLayer_keeps (covers_trans rfl hL)
    | with_reducible apply foldl_keeps
    | (intro _; intros; try dsimp only)
    | split
    | (with_reducible apply State.mk_keeps <;> first | exact Or.inr (mem_of_covers hL rfl) | with_reducible exact Or.inl rfl | skip)

theorem State.stepWorkDone_keeps {s : State} {p : Nat} {pl : Plan} {s0 : State} {L : List Field} (hL : covers [.regs, .seq, .seqReported, .stamped, .events, .parts, .ports, .out] L = true) (h : s0.same L s) : s0.same L (State.stepWorkDone s p pl) := by
  unfold State.stepWorkDone
  try dsimp only
  repeat' first
    | with_reducible assumption
    | with_reducible apply State.ownNotice_keeps (covers_trans rfl hL)
    | with_reducible apply foldl_keeps
    | (intro _; intros; try dsimp only)
    | split
    | (with_reducible apply State.mk_keeps <;> first | exact Or.inr (mem_of_covers hL rfl) | with_reducible exact Or.inl rfl | skip)

theorem doTaskCompletion_keeps {p : Nat} {graph : Nat} {task : Nat} {s : State} {s0 : State} {L : List Field} (hL : covers [.regs, .counters, .seq, .seqReported, .stamped, .events, .parts, .cores, .tokens, .credits, .layers, .ports, .tally, .power, .out] L = true) (h : s0.same L s) : s0.same L (doTaskCompletion p graph task s) := by
  unfold doTaskCompletion
  try dsimp only
  repeat' first
    | with_reducible assumption
    | with_reducible apply State.modRun_keeps (covers_trans rfl hL)
    | with_reducible apply State.sendTokens_keeps (covers_trans rfl hL)
    | with_reducible apply State.writeHalos_keeps (covers_trans rfl hL)
    | with_reducible apply State.payHalos_keeps (covers_trans rfl hL)
    | with_reducible apply State.releaseLandings_keeps (covers_trans rfl hL)
    | with_reducible apply State.judgeLayer_keeps (covers_trans rfl hL)
    | with_reducible apply State.stepWorkDone_keeps (covers_trans rfl hL)
    | with_reducible apply foldl_keeps
    | (intro _; intros; try dsimp only)
    | split
    | (with_reducible apply State.mk_keeps <;> first | exact Or.inr (mem_of_covers hL rfl) | with_reducible exact Or.inl rfl | skip)

theorem State.resetPlanQueue_keeps {s : State} {p : Nat} {i : Nat} {s0 : State} {L : List Field} (hL : covers [.parts, .cores, .credits] L = true) (h : s0.same L s) : s0.same L (State.resetPlanQueue s p i) := by
  unfold State.resetPlanQueue
  try dsimp only
  repeat' first
    | with_reducible assumption
    | with_reducible apply State.modQueue_keeps (covers_trans rfl hL)
    | with_reducible apply State.endWaits_keeps (covers_trans rfl hL)
    | with_reducible apply State.modCore_keeps (covers_trans rfl hL)
    | with_reducible apply foldl_keeps
    | (intro _; intros; try dsimp only)
    | split
    | (with_reducible apply State.mk_keeps <;> first | exact Or.inr (mem_of_covers hL rfl) | with_reducible exact Or.inl rfl | skip)

theorem State.resetChannel_keeps {s : State} {n : Nat} {cls : Nat} {s0 : State} {L : List Field} (hL : covers [.ports] L = true) (h : s0.same L s) : s0.same L (State.resetChannel s n cls) := by
  unfold State.resetChannel
  try dsimp only
  repeat' first
    | with_reducible assumption
    | with_reducible apply State.modPort_keeps (covers_trans rfl hL)
    | with_reducible apply State.freeBuffer_keeps (covers_trans rfl hL)
    | with_reducible apply foldl_keeps
    | (intro _; intros; try dsimp only)
    | split
    | (with_reducible apply State.mk_keeps <;> first | exact Or.inr (mem_of_covers hL rfl) | with_reducible exact Or.inl rfl | skip)

theorem State.resetQueue_keeps {s : State} {q : QueueRef} {s0 : State} {L : List Field} (hL : covers [.events, .parts, .cores, .tokens, .credits, .devQueues, .ports, .intake] L = true) (h : s0.same L s) : s0.same L (State.resetQueue s q) := by
  unfold State.resetQueue
  try dsimp only
  repeat' first
    | with_reducible assumption
    | with_reducible apply State.resetPlanQueue_keeps (covers_trans rfl hL)
    | with_reducible apply State.resetChannel_keeps (covers_trans rfl hL)
    | with_reducible apply foldl_keeps
    | (intro _; intros; try dsimp only)
    | split
    | (with_reducible apply State.mk_keeps <;> first | exact Or.inr (mem_of_covers hL rfl) | with_reducible exact Or.inl rfl | skip)

theorem State.noteReset_keeps {s : State} {q : QueueRef} {s0 : State} {L : List Field} (hL : covers [.regs, .counters, .seq, .seqReported, .events] L = true) (h : s0.same L s) : s0.same L (State.noteReset s q) := by
  unfold State.noteReset
  try dsimp only
  repeat' first
    | with_reducible assumption
    | with_reducible apply State.set_keeps (covers_trans rfl hL)
    | with_reducible apply State.count_keeps (covers_trans rfl hL)
    | with_reducible apply foldl_keeps
    | (intro _; intros; try dsimp only)
    | split
    | (with_reducible apply State.mk_keeps <;> first | exact Or.inr (mem_of_covers hL rfl) | with_reducible exact Or.inl rfl | skip)

theorem State.queueLoss_keeps {s : State} {q : QueueRef} {s0 : State} {L : List Field} (hL : covers [.regs, .counters, .seq, .seqReported, .events, .parts, .ports] L = true) (h : s0.same L s) : s0.same L (State.queueLoss s q) := by
  unfold State.queueLoss
  try dsimp only
  repeat' first
    | with_reducible assumption
    | with_reducible apply State.transientError_keeps (covers_trans rfl hL)
    | with_reducible apply foldl_keeps
    | (intro _; intros; try dsimp only)
    | split
    | (with_reducible apply State.mk_keeps <;> first | exact Or.inr (mem_of_covers hL rfl) | with_reducible exact Or.inl rfl | skip)

theorem doQueuePtrMismatch_keeps {q : QueueRef} {cause : Nat} {inTransfer : Nat} {s : State} {s0 : State} {L : List Field} (hL : covers [.regs, .counters, .seq, .seqReported, .events, .parts, .cores, .tokens, .credits, .devQueues, .ports, .intake] L = true) (h : s0.same L s) : s0.same L (doQueuePtrMismatch q cause inTransfer s) := by
  unfold doQueuePtrMismatch
  try dsimp only
  repeat' first
    | with_reducible assumption
    | with_reducible apply State.noteReset_keeps (covers_trans rfl hL)
    | with_reducible apply State.raiseFor_keeps (covers_trans rfl hL)
    | with_reducible apply State.resetQueue_keeps (covers_trans rfl hL)
    | with_reducible apply State.queueLoss_keeps (covers_trans rfl hL)
    | with_reducible apply foldl_keeps
    | (intro _; intros; try dsimp only)
    | split
    | (with_reducible apply State.mk_keeps <;> first | exact Or.inr (mem_of_covers hL rfl) | with_reducible exact Or.inl rfl | skip)

theorem State.snapshotRecord_keeps {s : State} {p : Nat} {s0 : State} {L : List Field} (hL : covers [.parts] L = true) (h : s0.same L s) : s0.same L (State.snapshotRecord s p) := by
  unfold State.snapshotRecord
  try dsimp only
  repeat' first
    | with_reducible assumption
    | with_reducible apply State.modFixer_keeps (covers_trans rfl hL)
    | with_reducible apply foldl_keeps
    | (intro _; intros; try dsimp only)
    | split
    | (with_reducible apply State.mk_keeps <;> first | exact Or.inr (mem_of_covers hL rfl) | with_reducible exact Or.inl rfl | skip)

theorem State.putNegTags_keeps {s : State} {block : Nat} {tags : List Nat} {s0 : State} {L : List Field} (hL : covers [.negTags] L = true) (h : s0.same L s) : s0.same L (State.putNegTags s block tags) := by
  unfold State.putNegTags
  try dsimp only
  repeat' first
    | with_reducible assumption
    | with_reducible apply foldl_keeps
    | (intro _; intros; try dsimp only)
    | split
    | (with_reducible apply State.mk_keeps <;> first | exact Or.inr (mem_of_covers hL rfl) | with_reducible exact Or.inl rfl | skip)

theorem State.putCopy_keeps {s : State} {at_ : Nat} {c : Copy} {s0 : State} {L : List Field} (hL : covers [.neg, .negTags] L = true) (h : s0.same L s) : s0.same L (State.putCopy s at_ c) := by
  unfold State.putCopy
  try dsimp only
  repeat' first
    | with_reducible assumption
    | with_reducible apply State.putNegTags_keeps (covers_trans rfl hL)
    | with_reducible apply State.rawNeg_keeps (covers_trans rfl hL)
    | with_reducible apply foldl_keeps
    | (intro _; intros; try dsimp only)
    | split
    | (with_reducible apply State.mk_keeps <;> first | exact Or.inr (mem_of_covers hL rfl) | with_reducible exact Or.inl rfl | skip)

theorem State.putSeal_keeps {s : State} {a : ItemPlace} {r : SealRec} {s0 : State} {L : List Field} (hL : covers [.regs, .neg, .negTags] L = true) (h : s0.same L s) : s0.same L (State.putSeal s a r) := by
  unfold State.putSeal
  try dsimp only
  repeat' first
    | with_reducible assumption
    | with_reducible apply State.set_keeps (covers_trans rfl hL)
    | with_reducible apply State.rawNeg_keeps (covers_trans rfl hL)
    | with_reducible apply foldl_keeps
    | (intro _; intros; try dsimp only)
    | split
    | (with_reducible apply State.mk_keeps <;> first | exact Or.inr (mem_of_covers hL rfl) | with_reducible exact Or.inl rfl | skip)

theorem State.noteInvalid_keeps {s : State} {p : Nat} {item : Nat} {ward : Nat} {s0 : State} {L : List Field} (hL : covers [.regs, .counters, .seq, .seqReported, .events] L = true) (h : s0.same L s) : s0.same L (State.noteInvalid s p item ward) := by
  unfold State.noteInvalid
  try dsimp only
  repeat' first
    | with_reducible assumption
    | with_reducible apply State.count_keeps (covers_trans rfl hL)
    | with_reducible apply State.raiseFor_keeps (covers_trans rfl hL)
    | with_reducible apply foldl_keeps
    | (intro _; intros; try dsimp only)
    | split
    | (with_reducible apply State.mk_keeps <;> first | exact Or.inr (mem_of_covers hL rfl) | with_reducible exact Or.inl rfl | skip)

theorem State.sealInvalid_keeps {s : State} {p : Nat} {item : Nat} {ward : Nat} {a : ItemPlace} {i : Nat} {s0 : State} {L : List Field} (hL : covers [.regs, .counters, .seq, .seqReported, .events, .neg, .negTags] L = true) (h : s0.same L s) : s0.same L (State.sealInvalid s p item ward a i) := by
  unfold State.sealInvalid
  try dsimp only
  repeat' first
    | with_reducible assumption
    | with_reducible apply State.rawNeg_keeps (covers_trans rfl hL)
    | with_reducible apply State.noteInvalid_keeps (covers_trans rfl hL)
    | with_reducible apply foldl_keeps
    | (intro _; intros; try dsimp only)
    | split
    | (with_reducible apply State.mk_keeps <;> first | exact Or.inr (mem_of_covers hL rfl) | with_reducible exact Or.inl rfl | skip)

theorem State.firstValid_keeps {s : State} {p : Nat} {item : Nat} {ward : Nat} {a : ItemPlace} {ok : SealRec → Bool} {x6 : List Nat} {s0 : State} {L : List Field} (hL : covers [.regs, .counters, .seq, .seqReported, .events, .neg, .negTags] L = true) (h : s0.same L s) : s0.same L (State.firstValid s p item ward a ok x6).2 := by
  induction x6 generalizing s with
  | nil => exact h
  | cons i rest ih =>
    simp only [State.firstValid]
    split
    · exact ih h
    · split
      · exact h
      · exact ih (State.sealInvalid_keeps (covers_trans rfl hL) h)

theorem State.abandonMirror_keeps {s : State} {p : Nat} {item : Nat} {s0 : State} {L : List Field} (hL : covers [.parts, .ports] L = true) (h : s0.same L s) : s0.same L (State.abandonMirror s p item) := by
  unfold State.abandonMirror
  try dsimp only
  repeat' first
    | with_reducible assumption
    | with_reducible apply State.modFixer_keeps (covers_trans rfl hL)
    | with_reducible apply foldl_keeps
    | (intro _; intros; try dsimp only)
    | split
    | (with_reducible apply State.mk_keeps <;> first | exact Or.inr (mem_of_covers hL rfl) | with_reducible exact Or.inl rfl | skip)

theorem State.wantMirror_keeps {s : State} {p : Nat} {item : Nat} {pl : Plan} {inSweep : Bool} {s0 : State} {L : List Field} (hL : covers [.parts, .ports] L = true) (h : s0.same L s) : s0.same L (State.wantMirror s p item pl inSweep) := by
  unfold State.wantMirror
  try dsimp only
  repeat' first
    | with_reducible assumption
    | with_reducible apply State.modFixer_keeps (covers_trans rfl hL)
    | with_reducible apply State.abandonMirror_keeps (covers_trans rfl hL)
    | with_reducible apply foldl_keeps
    | (intro _; intros; try dsimp only)
    | split
    | (with_reducible apply State.mk_keeps <;> first | exact Or.inr (mem_of_covers hL rfl) | with_reducible exact Or.inl rfl | skip)

theorem State.sealItem_keeps {s : State} {p : Nat} {item : Nat} {n : Nat} {pl : Plan} {rec : List Byte} {inSweep : Bool} {s0 : State} {L : List Field} (hL : covers [.regs, .counters, .seq, .seqReported, .events, .neg, .negTags, .parts, .ports] L = true) (h : s0.same L s) : s0.same L (State.sealItem s p item n pl rec inSweep) := by
  unfold State.sealItem
  try dsimp only
  repeat' first
    | with_reducible assumption
    | with_reducible apply State.wantMirror_keeps (covers_trans rfl hL)
    | with_reducible apply State.count_keeps (covers_trans rfl hL)
    | with_reducible apply State.putSeal_keeps (covers_trans rfl hL)
    | with_reducible apply State.putCopy_keeps (covers_trans rfl hL)
    | with_reducible apply State.stampUsed_keeps (covers_trans rfl hL)
    | with_reducible apply foldl_keeps
    | (intro _; intros; try dsimp only)
    | split
    | (with_reducible apply State.mk_keeps <;> first | exact Or.inr (mem_of_covers hL rfl) | with_reducible exact Or.inl rfl | skip)

theorem State.loadGens_keeps {s : State} {p : Nat} {mask : Nat} {rec : List Byte} {s0 : State} {L : List Field} (hL : covers [.parts] L = true) (h : s0.same L s) : s0.same L (State.loadGens s p mask rec) := by
  unfold State.loadGens
  try dsimp only
  repeat' first
    | with_reducible assumption
    | with_reducible apply State.modGen_keeps (covers_trans rfl hL)
    | with_reducible apply State.modFixer_keeps (covers_trans rfl hL)
    | with_reducible apply foldl_keeps
    | (intro _; intros; try dsimp only)
    | split
    | (with_reducible apply State.mk_keeps <;> first | exact Or.inr (mem_of_covers hL rfl) | with_reducible exact Or.inl rfl | skip)

theorem State.recordFor_keeps {s : State} {p : Nat} {mask : Nat} {pl : Plan} {s0 : State} {L : List Field} (hL : covers [.regs, .counters, .seq, .seqReported, .events, .neg, .negTags] L = true) (h : s0.same L s) : s0.same L (State.recordFor s p mask pl).2 := by
  unfold State.recordFor
  dsimp only
  split
  · exact h
  · split
    · exact h
    · next a _ =>
      have h2 := State.firstValid_keeps (covers_trans rfl hL) (p := p) (item := recordItem) (ward := 0) (a := a) (ok := fun _ => true)
        (x6 := s.validSlots a recordItem) h
      revert h2
      rcases s.firstValid p recordItem 0 a (fun _ => true) (s.validSlots a recordItem) with ⟨_ | ⟨r, c⟩, s'⟩
      · exact fun h2 => h2
      · exact fun h2 => h2

theorem State.putTensors_keeps {s : State} {p : Nat} {a : List Tensor} {x3 : Copy} {s0 : State} {L : List Field} (hL : covers [.mem, .staging, .neg, .tags, .negTags] L = true) (h : s0.same L s) : s0.same L (State.putTensors s p a x3) := by
  induction a generalizing s x3 with
  | nil => exact h
  | cons t ts ih =>
    simp only [State.putTensors]
    apply ih
    split
    · exact foldl_keeps _ _ (fun _ _ h => State.setTag_keeps (covers_trans rfl hL) h) (State.writeSpace_keeps (covers_trans rfl hL) h)
    · exact State.writeSpace_keeps (covers_trans rfl hL) h

theorem State.restoreGroup_keeps {s : State} {p : Nat} {g : Nat} {pl : Plan} {r : SealRec} {c : Copy} {s0 : State} {L : List Field} (hL : covers [.regs, .counters, .seq, .seqReported, .events, .mem, .staging, .neg, .tags, .negTags, .parts] L = true) (h : s0.same L s) : s0.same L (State.restoreGroup s p g pl r c) := by
  unfold State.restoreGroup
  try dsimp only
  repeat' first
    | with_reducible assumption
    | with_reducible apply State.recordFor_keeps (covers_trans rfl hL)
    | with_reducible apply State.putTensors_keeps (covers_trans rfl hL)
    | with_reducible apply State.loadGens_keeps (covers_trans rfl hL)
    | with_reducible apply State.modGroup_keeps (covers_trans rfl hL)
    | with_reducible apply State.setEta_keeps (covers_trans rfl hL)
    | with_reducible apply State.raise_keeps (covers_trans rfl hL)
    | with_reducible apply State.set_keeps (covers_trans rfl hL)
    | with_reducible apply State.count_keeps (covers_trans rfl hL)
    | with_reducible apply foldl_keeps
    | (intro _; intros; try dsimp only)
    | split
    | (with_reducible apply State.mk_keeps <;> first | exact Or.inr (mem_of_covers hL rfl) | with_reducible exact Or.inl rfl | skip)

theorem State.restoreRecord_keeps {s : State} {p : Nat} {c : Copy} {s0 : State} {L : List Field} (hL : covers [.regs, .parts, .layers] L = true) (h : s0.same L s) : s0.same L (State.restoreRecord s p c) := by
  unfold State.restoreRecord
  try dsimp only
  repeat' first
    | with_reducible assumption
    | with_reducible apply State.loadGens_keeps (covers_trans rfl hL)
    | with_reducible apply State.modFixer_keeps (covers_trans rfl hL)
    | with_reducible apply State.setPair_keeps (covers_trans rfl hL)
    | with_reducible apply foldl_keeps
    | (intro _; intros; try dsimp only)
    | split
    | (with_reducible apply State.mk_keeps <;> first | exact Or.inr (mem_of_covers hL rfl) | with_reducible exact Or.inl rfl | skip)

theorem State.restoreItem_keeps {s : State} {p : Nat} {item : Nat} {pl : Plan} {r : SealRec} {c : Copy} {s0 : State} {L : List Field} (hL : covers [.regs, .counters, .seq, .seqReported, .events, .mem, .staging, .neg, .tags, .negTags, .parts, .layers] L = true) (h : s0.same L s) : s0.same L (State.restoreItem s p item pl r c) := by
  unfold State.restoreItem
  try dsimp only
  repeat' first
    | with_reducible assumption
    | with_reducible apply State.restoreRecord_keeps (covers_trans rfl hL)
    | with_reducible apply State.restoreGroup_keeps (covers_trans rfl hL)
    | with_reducible apply foldl_keeps
    | (intro _; intros; try dsimp only)
    | split
    | (with_reducible apply State.mk_keeps <;> first | exact Or.inr (mem_of_covers hL rfl) | with_reducible exact Or.inl rfl | skip)

theorem State.sendAll_keeps {s : State} {p : Nat} {xs : List PacketSpec} {s0 : State} {L : List Field} (hL : covers [.regs, .seq, .seqReported, .events, .parts, .ports] L = true) (h : s0.same L s) : s0.same L (State.sendAll s p xs) := by
  unfold State.sendAll
  try dsimp only
  repeat' first
    | with_reducible assumption
    | with_reducible apply State.sendRouted_keeps (covers_trans rfl hL)
    | with_reducible apply foldl_keeps
    | (intro _; intros; try dsimp only)
    | split
    | (with_reducible apply State.mk_keeps <;> first | exact Or.inr (mem_of_covers hL rfl) | with_reducible exact Or.inl rfl | skip)

theorem State.askPartner_keeps {s : State} {p : Nat} {item : Nat} {pl : Plan} {again : Bool} {s0 : State} {L : List Field} (hL : covers [.regs, .seq, .seqReported, .events, .parts, .ports] L = true) (h : s0.same L s) : s0.same L (State.askPartner s p item pl again) := by
  unfold State.askPartner
  try dsimp only
  repeat' first
    | with_reducible assumption
    | with_reducible apply State.restoreFailed_keeps (covers_trans rfl hL)
    | with_reducible apply State.modFixer_keeps (covers_trans rfl hL)
    | with_reducible apply State.sendRouted_keeps (covers_trans rfl hL)
    | with_reducible apply foldl_keeps
    | (intro _; intros; try dsimp only)
    | split
    | (with_reducible apply State.mk_keeps <;> first | exact Or.inr (mem_of_covers hL rfl) | with_reducible exact Or.inl rfl | skip)

theorem State.restoreFrom_keeps {s : State} {p : Nat} {item : Nat} {pl : Plan} {ok : SealRec → Bool} {s0 : State} {L : List Field} (hL : covers [.regs, .counters, .seq, .seqReported, .events, .mem, .staging, .neg, .tags, .negTags, .parts, .layers, .ports] L = true) (h : s0.same L s) : s0.same L (State.restoreFrom s p item pl ok) := by
  unfold State.restoreFrom
  extract_lets own
  have h2 : s0.same L own.2 := by
    unfold own
    split
    · exact State.firstValid_keeps (covers_trans rfl hL) h
    · exact h
  clear_value own
  rcases own with ⟨_ | ⟨r, c⟩, s'⟩
  · exact State.askPartner_keeps (covers_trans rfl hL) (State.modFixer_keeps (covers_trans rfl hL) (s := s') h2)
  · exact State.restoreItem_keeps (covers_trans rfl hL) (s := s') h2

theorem State.restoreGroups_keeps {s : State} {p : Nat} {pl : Plan} {gs : List Nat} {s0 : State} {L : List Field} (hL : covers [.regs, .counters, .seq, .seqReported, .events, .mem, .staging, .neg, .tags, .negTags, .parts, .layers, .ports] L = true) (h : s0.same L s) : s0.same L (State.restoreGroups s p pl gs) := by
  unfold State.restoreGroups
  try dsimp only
  repeat' first
    | with_reducible assumption
    | with_reducible apply State.restoreFrom_keeps (covers_trans rfl hL)
    | with_reducible apply foldl_keeps
    | (intro _; intros; try dsimp only)
    | split
    | (with_reducible apply State.mk_keeps <;> first | exact Or.inr (mem_of_covers hL rfl) | with_reducible exact Or.inl rfl | skip)

theorem State.noteWard_keeps {s : State} {x1 : SecPlan} {item : Nat} {bytes : Nat} {s0 : State} {L : List Field} (hL : covers [.wards] L = true) (h : s0.same L s) : s0.same L (State.noteWard s x1 item bytes) := by
  unfold State.noteWard
  try dsimp only
  repeat' first
    | with_reducible assumption
    | with_reducible apply foldl_keeps
    | (intro _; intros; try dsimp only)
    | split
    | (with_reducible apply State.mk_keeps <;> first | exact Or.inr (mem_of_covers hL rfl) | with_reducible exact Or.inl rfl | skip)

theorem State.mirrorIn_keeps {port : Nat} {s : State} {p : Nat} {pk : Packet} {s0 : State} {L : List Field} (hL : covers [.regs, .counters, .seq, .seqReported, .events, .neg, .negTags, .wards] L = true) (h : s0.same L s) : s0.same L (State.mirrorIn port s p pk) := by
  unfold State.mirrorIn
  try dsimp only
  repeat' first
    | with_reducible assumption
    | with_reducible apply State.dropUnmatched_keeps (covers_trans rfl hL)
    | with_reducible apply State.noteWard_keeps (covers_trans rfl hL)
    | with_reducible apply State.rawNeg_keeps (covers_trans rfl hL)
    | with_reducible apply State.putNegTags_keeps (covers_trans rfl hL)
    | with_reducible apply foldl_keeps
    | (intro _; intros; try dsimp only)
    | split
    | (with_reducible apply State.mk_keeps <;> first | exact Or.inr (mem_of_covers hL rfl) | with_reducible exact Or.inl rfl | skip)

theorem doBulkMirrorData_keeps {port : Nat} {pkt : Packet} {s : State} {s0 : State} {L : List Field} (hL : covers [.regs, .counters, .seq, .seqReported, .stamped, .events, .neg, .negTags, .parts, .ports, .wards, .out] L = true) (h : s0.same L s) : s0.same L (doBulkMirrorData port pkt s) := by
  unfold doBulkMirrorData
  try dsimp only
  repeat' first
    | with_reducible assumption
    | with_reducible apply State.receive_keeps (covers_trans rfl hL)
    | with_reducible apply State.mirrorIn_keeps (covers_trans rfl hL)
    | with_reducible apply State.dropUnmatched_keeps (covers_trans rfl hL)
    | with_reducible apply foldl_keeps
    | (intro _; intros; try dsimp only)
    | split
    | (with_reducible apply State.mk_keeps <;> first | exact Or.inr (mem_of_covers hL rfl) | with_reducible exact Or.inl rfl | skip)

theorem State.mirrorSealIn_keeps {port : Nat} {s : State} {p : Nat} {pk : Packet} {s0 : State} {L : List Field} (hL : covers [.regs, .counters, .seq, .seqReported, .events, .neg, .negTags, .parts, .ports] L = true) (h : s0.same L s) : s0.same L (State.mirrorSealIn port s p pk) := by
  unfold State.mirrorSealIn
  try dsimp only
  repeat' first
    | with_reducible assumption
    | with_reducible apply State.dropUnmatched_keeps (covers_trans rfl hL)
    | with_reducible apply State.sealInvalid_keeps (covers_trans rfl hL)
    | with_reducible apply State.sendRouted_keeps (covers_trans rfl hL)
    | with_reducible apply State.putSeal_keeps (covers_trans rfl hL)
    | with_reducible apply foldl_keeps
    | (intro _; intros; try dsimp only)
    | split
    | (with_reducible apply State.mk_keeps <;> first | exact Or.inr (mem_of_covers hL rfl) | with_reducible exact Or.inl rfl | skip)

theorem doBulkMirrorSeal_keeps {port : Nat} {pkt : Packet} {s : State} {s0 : State} {L : List Field} (hL : covers [.regs, .counters, .seq, .seqReported, .stamped, .events, .neg, .negTags, .parts, .ports, .out] L = true) (h : s0.same L s) : s0.same L (doBulkMirrorSeal port pkt s) := by
  unfold doBulkMirrorSeal
  try dsimp only
  repeat' first
    | with_reducible assumption
    | with_reducible apply State.receive_keeps (covers_trans rfl hL)
    | with_reducible apply State.mirrorSealIn_keeps (covers_trans rfl hL)
    | with_reducible apply foldl_keeps
    | (intro _; intros; try dsimp only)
    | split
    | (with_reducible apply State.mk_keeps <;> first | exact Or.inr (mem_of_covers hL rfl) | with_reducible exact Or.inl rfl | skip)

theorem State.sendMirror_keeps {s : State} {p : Nat} {item : Nat} {xs : List PacketSpec} {s0 : State} {L : List Field} (hL : covers [.regs, .seq, .seqReported, .events, .parts, .ports] L = true) (h : s0.same L s) : s0.same L (State.sendMirror s p item xs) := by
  unfold State.sendMirror
  try dsimp only
  repeat' first
    | with_reducible assumption
    | with_reducible apply State.sendRouted_keeps (covers_trans rfl hL)
    | with_reducible apply State.modPort_keeps (covers_trans rfl hL)
    | with_reducible apply foldl_keeps
    | (intro _; intros; try dsimp only)
    | split
    | (with_reducible apply State.mk_keeps <;> first | exact Or.inr (mem_of_covers hL rfl) | with_reducible exact Or.inl rfl | skip)

theorem doMirrorSend_keeps {p : Nat} {item : Nat} {s : State} {s0 : State} {L : List Field} (hL : covers [.regs, .counters, .seq, .seqReported, .events, .neg, .negTags, .parts, .ports] L = true) (h : s0.same L s) : s0.same L (doMirrorSend p item s) := by
  unfold doMirrorSend
  split
  · exact h
  · split
    · next hd a _ _ =>
      split
      · exact h
      · extract_lets s1
        have h2 := State.firstValid_keeps (covers_trans rfl hL) (p := p) (item := item) (ward := 0) (a := a) (ok := fun _ => true)
          (x6 := s1.validSlots a item) (s := s1) (State.modFixer_keeps (covers_trans rfl hL) h)
        revert h2
        generalize s1.firstValid p item 0 a (fun _ => true) (s1.validSlots a item) = x
        rcases x with ⟨_ | ⟨r, c⟩, s'⟩
        · exact fun h2 => h2
        · exact fun h2 => State.sendMirror_keeps (covers_trans rfl hL) (State.modFixer_keeps (covers_trans rfl hL) h2)
    · exact h

theorem State.noteMirrored_keeps {s : State} {p : Nat} {s0 : State} {L : List Field} (hL : covers [.regs, .seq, .seqReported, .events, .parts] L = true) (h : s0.same L s) : s0.same L (State.noteMirrored s p) := by
  unfold State.noteMirrored
  try dsimp only
  repeat' first
    | with_reducible assumption
    | with_reducible apply State.raiseFor_keeps (covers_trans rfl hL)
    | with_reducible apply State.modFixer_keeps (covers_trans rfl hL)
    | with_reducible apply foldl_keeps
    | (intro _; intros; try dsimp only)
    | split
    | (with_reducible apply State.mk_keeps <;> first | exact Or.inr (mem_of_covers hL rfl) | with_reducible exact Or.inl rfl | skip)

theorem State.mirrorStands_keeps {s : State} {p : Nat} {item : Nat} {stamp : Nat} {s0 : State} {L : List Field} (hL : covers [.regs, .counters, .seq, .seqReported, .events, .parts] L = true) (h : s0.same L s) : s0.same L (State.mirrorStands s p item stamp) := by
  unfold State.mirrorStands
  try dsimp only
  repeat' first
    | with_reducible assumption
    | with_reducible apply State.noteMirrored_keeps (covers_trans rfl hL)
    | with_reducible apply State.count_keeps (covers_trans rfl hL)
    | with_reducible apply State.modFixer_keeps (covers_trans rfl hL)
    | with_reducible apply foldl_keeps
    | (intro _; intros; try dsimp only)
    | split
    | (with_reducible apply State.mk_keeps <;> first | exact Or.inr (mem_of_covers hL rfl) | with_reducible exact Or.inl rfl | skip)

theorem State.creditIn_keeps {port : Nat} {s : State} {p : Nat} {pk : Packet} {s0 : State} {L : List Field} (hL : covers [.regs, .counters, .seq, .seqReported, .events, .parts] L = true) (h : s0.same L s) : s0.same L (State.creditIn port s p pk) := by
  unfold State.creditIn
  try dsimp only
  repeat' first
    | with_reducible assumption
    | with_reducible apply State.mirrorStands_keeps (covers_trans rfl hL)
    | with_reducible apply State.landingIn_keeps (covers_trans rfl hL)
    | with_reducible apply foldl_keeps
    | (intro _; intros; try dsimp only)
    | split
    | (with_reducible apply State.mk_keeps <;> first | exact Or.inr (mem_of_covers hL rfl) | with_reducible exact Or.inl rfl | skip)

theorem doLandingCredit_keeps {port : Nat} {pkt : Packet} {s : State} {s0 : State} {L : List Field} (hL : covers [.regs, .counters, .seq, .seqReported, .stamped, .events, .parts, .ports, .out] L = true) (h : s0.same L s) : s0.same L (doLandingCredit port pkt s) := by
  unfold doLandingCredit
  try dsimp only
  repeat' first
    | with_reducible assumption
    | with_reducible apply State.receive_keeps (covers_trans rfl hL)
    | with_reducible apply State.creditIn_keeps (covers_trans rfl hL)
    | with_reducible apply foldl_keeps
    | (intro _; intros; try dsimp only)
    | split
    | (with_reducible apply State.mk_keeps <;> first | exact Or.inr (mem_of_covers hL rfl) | with_reducible exact Or.inl rfl | skip)

theorem State.itemRequestIn_keeps {port : Nat} {s : State} {p : Nat} {pk : Packet} {s0 : State} {L : List Field} (hL : covers [.regs, .counters, .seq, .seqReported, .events, .neg, .negTags, .parts, .ports] L = true) (h : s0.same L s) : s0.same L (State.itemRequestIn port s p pk) := by
  unfold State.itemRequestIn
  split
  · exact State.dropUnmatched_keeps (covers_trans rfl hL) h
  · next hd _ =>
    extract_lets item dest look
    have h2 : s0.same L look.2 := by
      unfold look
      split
      · exact h
      · exact State.firstValid_keeps (covers_trans rfl hL) h
    clear_value look
    rcases look with ⟨_ | ⟨r, c⟩, s'⟩
    · exact State.sendRouted_keeps (covers_trans rfl hL) (s := s') h2
    · exact State.sendAll_keeps (covers_trans rfl hL) (s := s') h2

theorem doItemRequest_keeps {port : Nat} {pkt : Packet} {s : State} {s0 : State} {L : List Field} (hL : covers [.regs, .counters, .seq, .seqReported, .stamped, .events, .neg, .negTags, .parts, .ports, .out] L = true) (h : s0.same L s) : s0.same L (doItemRequest port pkt s) := by
  unfold doItemRequest
  try dsimp only
  repeat' first
    | with_reducible assumption
    | with_reducible apply State.receive_keeps (covers_trans rfl hL)
    | with_reducible apply State.itemRequestIn_keeps (covers_trans rfl hL)
    | with_reducible apply foldl_keeps
    | (intro _; intros; try dsimp only)
    | split
    | (with_reducible apply State.mk_keeps <;> first | exact Or.inr (mem_of_covers hL rfl) | with_reducible exact Or.inl rfl | skip)

theorem State.itemDataIn_keeps {port : Nat} {s : State} {p : Nat} {pk : Packet} {s0 : State} {L : List Field} (hL : covers [.regs, .counters, .seq, .seqReported, .events, .parts] L = true) (h : s0.same L s) : s0.same L (State.itemDataIn port s p pk) := by
  unfold State.itemDataIn
  try dsimp only
  repeat' first
    | with_reducible assumption
    | with_reducible apply State.dropUnmatched_keeps (covers_trans rfl hL)
    | with_reducible apply State.modFixer_keeps (covers_trans rfl hL)
    | with_reducible apply foldl_keeps
    | (intro _; intros; try dsimp only)
    | split
    | (with_reducible apply State.mk_keeps <;> first | exact Or.inr (mem_of_covers hL rfl) | with_reducible exact Or.inl rfl | skip)

theorem doItemData_keeps {port : Nat} {pkt : Packet} {s : State} {s0 : State} {L : List Field} (hL : covers [.regs, .counters, .seq, .seqReported, .stamped, .events, .parts, .ports, .out] L = true) (h : s0.same L s) : s0.same L (doItemData port pkt s) := by
  unfold doItemData
  try dsimp only
  repeat' first
    | with_reducible assumption
    | with_reducible apply State.receive_keeps (covers_trans rfl hL)
    | with_reducible apply State.itemDataIn_keeps (covers_trans rfl hL)
    | with_reducible apply foldl_keeps
    | (intro _; intros; try dsimp only)
    | split
    | (with_reducible apply State.mk_keeps <;> first | exact Or.inr (mem_of_covers hL rfl) | with_reducible exact Or.inl rfl | skip)

end Sys2Proof.Machine
end

