-- ==== Sys2Proof/Laws/Keeps6.lean ====
section
/-! SUPPORT. The fields an operation leaves alone, for the operations in Safelight.lean, Intake.lean, Outputs.lean. -/

set_option Elab.async false

namespace Sys2Proof.Machine

theorem State.sweepDue_keeps {s : State} {p : Nat} {cause : Nat} {all : Bool} {secures : List (Nat × Nat)} {retire : Bool} {s0 : State} {L : List Field} (hL : covers [.parts] L = true) (h : s0.same L s) : s0.same L (State.sweepDue s p cause all secures retire) := by
  unfold State.sweepDue
  try dsimp only
  repeat' first
    | with_reducible assumption
    | with_reducible apply State.modFixer_keeps (covers_trans rfl hL)
    | with_reducible apply foldl_keeps
    | (intro _; intros; try dsimp only)
    | split
    | (with_reducible apply State.mk_keeps <;> first | exact Or.inr (mem_of_covers hL rfl) | with_reducible exact Or.inl rfl | skip)

theorem doSecure_keeps {ring : Nat} {s : State} {s0 : State} {L : List Field} (hL : covers [.rings, .parts] L = true) (h : s0.same L s) : s0.same L (doSecure ring s) := by
  unfold doSecure
  try dsimp only
  repeat' first
    | with_reducible assumption
    | with_reducible apply State.finish_keeps (covers_trans rfl hL)
    | with_reducible apply State.sweepDue_keeps (covers_trans rfl hL)
    | with_reducible apply State.beginDesc_keeps (covers_trans rfl hL)
    | with_reducible apply foldl_keeps
    | (intro _; intros; try dsimp only)
    | split
    | (with_reducible apply State.mk_keeps <;> first | exact Or.inr (mem_of_covers hL rfl) | with_reducible exact Or.inl rfl | skip)

theorem State.runRestores_keeps {s : State} {p : Nat} {pl : Plan} {s0 : State} {L : List Field} (hL : covers [.regs, .counters, .seq, .seqReported, .stamped, .events, .mem, .staging, .neg, .tags, .negTags, .parts, .layers, .ports, .out] L = true) (h : s0.same L s) : s0.same L (State.runRestores s p pl) := by
  unfold State.runRestores
  try dsimp only
  repeat' first
    | with_reducible assumption
    | with_reducible apply State.stepWorkDone_keeps (covers_trans rfl hL)
    | with_reducible apply State.restoreGroups_keeps (covers_trans rfl hL)
    | with_reducible apply State.modPart_keeps (covers_trans rfl hL)
    | with_reducible apply foldl_keeps
    | (intro _; intros; try dsimp only)
    | split
    | (with_reducible apply State.mk_keeps <;> first | exact Or.inr (mem_of_covers hL rfl) | with_reducible exact Or.inl rfl | skip)

theorem doSweepStart_keeps {p : Nat} {s : State} {s0 : State} {L : List Field} (hL : covers [.regs, .counters, .seq, .seqReported, .stamped, .events, .mem, .staging, .neg, .tags, .negTags, .parts, .layers, .ports, .out] L = true) (h : s0.same L s) : s0.same L (doSweepStart p s) := by
  unfold doSweepStart
  try dsimp only
  repeat' first
    | with_reducible assumption
    | with_reducible apply State.runRestores_keeps (covers_trans rfl hL)
    | with_reducible apply State.raise_keeps (covers_trans rfl hL)
    | with_reducible apply State.modFixer_keeps (covers_trans rfl hL)
    | with_reducible apply foldl_keeps
    | (intro _; intros; try dsimp only)
    | split
    | (with_reducible apply State.mk_keeps <;> first | exact Or.inr (mem_of_covers hL rfl) | with_reducible exact Or.inl rfl | skip)

theorem State.beginCopy_keeps {s : State} {p : Nat} {item : Nat} {s0 : State} {L : List Field} (hL : covers [.parts] L = true) (h : s0.same L s) : s0.same L (State.beginCopy s p item) := by
  unfold State.beginCopy
  try dsimp only
  repeat' first
    | with_reducible assumption
    | with_reducible apply State.modFixer_keeps (covers_trans rfl hL)
    | with_reducible apply foldl_keeps
    | (intro _; intros; try dsimp only)
    | split
    | (with_reducible apply State.mk_keeps <;> first | exact Or.inr (mem_of_covers hL rfl) | with_reducible exact Or.inl rfl | skip)

theorem doPrivilegedCopy_keeps {p : Nat} {group : Nat} {s : State} {s0 : State} {L : List Field} (hL : covers [.parts] L = true) (h : s0.same L s) : s0.same L (doPrivilegedCopy p group s) := by
  unfold doPrivilegedCopy
  try dsimp only
  repeat' first
    | with_reducible assumption
    | with_reducible apply State.beginCopy_keeps (covers_trans rfl hL)
    | with_reducible apply foldl_keeps
    | (intro _; intros; try dsimp only)
    | split
    | (with_reducible apply State.mk_keeps <;> first | exact Or.inr (mem_of_covers hL rfl) | with_reducible exact Or.inl rfl | skip)

theorem State.oweCopies_keeps {s : State} {p : Nat} {pl : Plan} {s0 : State} {L : List Field} (hL : covers [.parts] L = true) (h : s0.same L s) : s0.same L (State.oweCopies s p pl) := by
  unfold State.oweCopies
  try dsimp only
  repeat' first
    | with_reducible assumption
    | with_reducible apply State.beginCopy_keeps (covers_trans rfl hL)
    | with_reducible apply foldl_keeps
    | (intro _; intros; try dsimp only)
    | split
    | (with_reducible apply State.mk_keeps <;> first | exact Or.inr (mem_of_covers hL rfl) | with_reducible exact Or.inl rfl | skip)

theorem doSealWritten_keeps {p : Nat} {item : Nat} {s : State} {s0 : State} {L : List Field} (hL : covers [.regs, .counters, .seq, .seqReported, .events, .neg, .negTags, .parts, .ports] L = true) (h : s0.same L s) : s0.same L (doSealWritten p item s) := by
  unfold doSealWritten
  try dsimp only
  repeat' first
    | with_reducible assumption
    | with_reducible apply State.modFixer_keeps (covers_trans rfl hL)
    | with_reducible apply State.sealItem_keeps (covers_trans rfl hL)
    | with_reducible apply foldl_keeps
    | (intro _; intros; try dsimp only)
    | split
    | (with_reducible apply State.mk_keeps <;> first | exact Or.inr (mem_of_covers hL rfl) | with_reducible exact Or.inl rfl | skip)

theorem State.completeSecures_keeps {s : State} {d : DueSweep} {s0 : State} {L : List Field} (hL : covers [.rings] L = true) (h : s0.same L s) : s0.same L (State.completeSecures s d) := by
  unfold State.completeSecures
  try dsimp only
  repeat' first
    | with_reducible assumption
    | with_reducible apply State.finish_keeps (covers_trans rfl hL)
    | with_reducible apply foldl_keeps
    | (intro _; intros; try dsimp only)
    | split
    | (with_reducible apply State.mk_keeps <;> first | exact Or.inr (mem_of_covers hL rfl) | with_reducible exact Or.inl rfl | skip)

theorem State.sendDrained_keeps {s : State} {p : Nat} {s0 : State} {L : List Field} (hL : covers [.regs, .seq, .seqReported, .events, .parts, .ports] L = true) (h : s0.same L s) : s0.same L (State.sendDrained s p) := by
  unfold State.sendDrained
  try dsimp only
  repeat' first
    | with_reducible assumption
    | with_reducible apply State.modPart_keeps (covers_trans rfl hL)
    | with_reducible apply State.tryCombineDrained_keeps (covers_trans rfl hL)
    | with_reducible apply State.modBarrier_keeps (covers_trans rfl hL)
    | with_reducible apply State.stampUsed_keeps (covers_trans rfl hL)
    | with_reducible apply foldl_keeps
    | (intro _; intros; try dsimp only)
    | split
    | (with_reducible apply State.mk_keeps <;> first | exact Or.inr (mem_of_covers hL rfl) | with_reducible exact Or.inl rfl | skip)

theorem State.endDrain_keeps {s : State} {p : Nat} {s0 : State} {L : List Field} (hL : covers [.regs, .counters, .seq, .seqReported, .events, .mem, .staging, .neg, .tags, .negTags, .parts, .layers, .ports] L = true) (h : s0.same L s) : s0.same L (State.endDrain s p) := by
  unfold State.endDrain
  try dsimp only
  repeat' first
    | with_reducible assumption
    | with_reducible apply State.restoreGroups_keeps (covers_trans rfl hL)
    | with_reducible apply State.modPart_keeps (covers_trans rfl hL)
    | with_reducible apply State.sendDrained_keeps (covers_trans rfl hL)
    | with_reducible apply foldl_keeps
    | (intro _; intros; try dsimp only)
    | split
    | (with_reducible apply State.mk_keeps <;> first | exact Or.inr (mem_of_covers hL rfl) | with_reducible exact Or.inl rfl | skip)

theorem doSweepDone_keeps {p : Nat} {s : State} {s0 : State} {L : List Field} (hL : covers [.regs, .counters, .seq, .seqReported, .stamped, .events, .mem, .staging, .neg, .tags, .negTags, .rings, .parts, .layers, .ports, .tally, .out] L = true) (h : s0.same L s) : s0.same L (doSweepDone p s) := by
  unfold doSweepDone
  try dsimp only
  repeat' first
    | with_reducible assumption
    | with_reducible apply State.count_keeps (covers_trans rfl hL)
    | with_reducible apply State.raise_keeps (covers_trans rfl hL)
    | with_reducible apply State.modFixer_keeps (covers_trans rfl hL)
    | with_reducible apply State.completeSecures_keeps (covers_trans rfl hL)
    | with_reducible apply State.noteMirrored_keeps (covers_trans rfl hL)
    | with_reducible apply State.stepFault_keeps (covers_trans rfl hL)
    | with_reducible apply State.runRestores_keeps (covers_trans rfl hL)
    | with_reducible apply State.endDrain_keeps (covers_trans rfl hL)
    | with_reducible apply foldl_keeps
    | (intro _; intros; try dsimp only)
    | split
    | (with_reducible apply State.mk_keeps <;> first | exact Or.inr (mem_of_covers hL rfl) | with_reducible exact Or.inl rfl | skip)

theorem State.updateInput_keeps {s : State} {ecc : EccCounts} {i : Nat} {s0 : State} {L : List Field} (hL : covers [.regs] L = true) (h : s0.same L s) : s0.same L (State.updateInput s ecc i) := by
  unfold State.updateInput
  try dsimp only
  repeat' first
    | with_reducible assumption
    | with_reducible apply State.set_keeps (covers_trans rfl hL)
    | with_reducible apply foldl_keeps
    | (intro _; intros; try dsimp only)
    | split
    | (with_reducible apply State.mk_keeps <;> first | exact Or.inr (mem_of_covers hL rfl) | with_reducible exact Or.inl rfl | skip)

theorem State.rearm_keeps {s : State} {risk : Nat} {s0 : State} {L : List Field} (hL : covers [.regs, .tally] L = true) (h : s0.same L s) : s0.same L (State.rearm s risk) := by
  unfold State.rearm
  try dsimp only
  repeat' first
    | with_reducible assumption
    | with_reducible apply State.set_keeps (covers_trans rfl hL)
    | with_reducible apply foldl_keeps
    | (intro _; intros; try dsimp only)
    | split
    | (with_reducible apply State.mk_keeps <;> first | exact Or.inr (mem_of_covers hL rfl) | with_reducible exact Or.inl rfl | skip)

theorem State.secureRisk_keeps {s : State} {before : Nat} {risk : Nat} {s0 : State} {L : List Field} (hL : covers [.regs, .seq, .seqReported, .events, .parts, .tally] L = true) (h : s0.same L s) : s0.same L (State.secureRisk s before risk) := by
  unfold State.secureRisk
  try dsimp only
  repeat' first
    | with_reducible assumption
    | with_reducible apply State.raise_keeps (covers_trans rfl hL)
    | with_reducible apply State.sweepDue_keeps (covers_trans rfl hL)
    | with_reducible apply State.set_keeps (covers_trans rfl hL)
    | with_reducible apply foldl_keeps
    | (intro _; intros; try dsimp only)
    | split
    | (with_reducible apply State.mk_keeps <;> first | exact Or.inr (mem_of_covers hL rfl) | with_reducible exact Or.inl rfl | skip)

theorem State.alarmRisk_keeps {s : State} {before : Nat} {risk : Nat} {s0 : State} {L : List Field} (hL : covers [.regs, .seq, .seqReported, .events, .parts] L = true) (h : s0.same L s) : s0.same L (State.alarmRisk s before risk) := by
  unfold State.alarmRisk
  try dsimp only
  repeat' first
    | with_reducible assumption
    | with_reducible apply State.set_keeps (covers_trans rfl hL)
    | with_reducible apply State.raise_keeps (covers_trans rfl hL)
    | with_reducible apply State.sweepDue_keeps (covers_trans rfl hL)
    | with_reducible apply foldl_keeps
    | (intro _; intros; try dsimp only)
    | split
    | (with_reducible apply State.mk_keeps <;> first | exact Or.inr (mem_of_covers hL rfl) | with_reducible exact Or.inl rfl | skip)

theorem State.safelight_keeps {s : State} {ecc : EccCounts} {s0 : State} {L : List Field} (hL : covers [.regs, .seq, .seqReported, .events, .parts, .tally] L = true) (h : s0.same L s) : s0.same L (State.safelight s ecc) := by
  unfold State.safelight
  try dsimp only
  repeat' first
    | with_reducible assumption
    | with_reducible apply State.updateInput_keeps (covers_trans rfl hL)
    | with_reducible apply State.rearm_keeps (covers_trans rfl hL)
    | with_reducible apply State.set_keeps (covers_trans rfl hL)
    | with_reducible apply State.alarmRisk_keeps (covers_trans rfl hL)
    | with_reducible apply State.secureRisk_keeps (covers_trans rfl hL)
    | with_reducible apply foldl_keeps
    | (intro _; intros; try dsimp only)
    | split
    | (with_reducible apply State.mk_keeps <;> first | exact Or.inr (mem_of_covers hL rfl) | with_reducible exact Or.inl rfl | skip)

theorem State.tearStarted_keeps {s : State} {p : Nat} {pl : Plan} {s0 : State} {L : List Field} (hL : covers [.regs, .counters, .seq, .seqReported, .events, .parts] L = true) (h : s0.same L s) : s0.same L (State.tearStarted s p pl) := by
  unfold State.tearStarted
  try dsimp only
  repeat' first
    | with_reducible assumption
    | with_reducible apply State.tear_keeps (covers_trans rfl hL)
    | with_reducible apply foldl_keeps
    | (intro _; intros; try dsimp only)
    | split
    | (with_reducible apply State.mk_keeps <;> first | exact Or.inr (mem_of_covers hL rfl) | with_reducible exact Or.inl rfl | skip)

theorem doDrainComplete_keeps {p : Nat} {s : State} {s0 : State} {L : List Field} (hL : covers [.regs, .counters, .seq, .seqReported, .events, .mem, .staging, .neg, .tags, .negTags, .parts, .layers, .ports] L = true) (h : s0.same L s) : s0.same L (doDrainComplete p s) := by
  unfold doDrainComplete
  try dsimp only
  repeat' first
    | with_reducible assumption
    | with_reducible apply State.modFixer_keeps (covers_trans rfl hL)
    | with_reducible apply State.tearStarted_keeps (covers_trans rfl hL)
    | with_reducible apply State.count_keeps (covers_trans rfl hL)
    | with_reducible apply State.raise_keeps (covers_trans rfl hL)
    | with_reducible apply State.endDrain_keeps (covers_trans rfl hL)
    | with_reducible apply State.restoreGroups_keeps (covers_trans rfl hL)
    | with_reducible apply State.modPart_keeps (covers_trans rfl hL)
    | with_reducible apply foldl_keeps
    | (intro _; intros; try dsimp only)
    | split
    | (with_reducible apply State.mk_keeps <;> first | exact Or.inr (mem_of_covers hL rfl) | with_reducible exact Or.inl rfl | skip)

theorem State.stepBoundary_keeps {s : State} {p : Nat} {pl : Plan} {e : Nat} {s0 : State} {L : List Field} (hL : covers [.regs, .counters, .seq, .seqReported, .events, .parts, .cores, .layers, .contexts, .devDraws, .ports, .tally, .intake, .power] L = true) (h : s0.same L s) : s0.same L (State.stepBoundary s p pl e) := by
  unfold State.stepBoundary
  try dsimp only
  repeat' first
    | with_reducible assumption
    | with_reducible apply State.requestsDue_keeps (covers_trans rfl hL)
    | with_reducible apply State.stepContexts_keeps (covers_trans rfl hL)
    | with_reducible apply State.groupsBoundary_keeps (covers_trans rfl hL)
    | with_reducible apply State.endStepScales_keeps (covers_trans rfl hL)
    | with_reducible apply State.oweCopies_keeps (covers_trans rfl hL)
    | with_reducible apply State.snapshotRecord_keeps (covers_trans rfl hL)
    | with_reducible apply State.beginStep_keeps (covers_trans rfl hL)
    | with_reducible apply foldl_keeps
    | (intro _; intros; try dsimp only)
    | split
    | (with_reducible apply State.mk_keeps <;> first | exact Or.inr (mem_of_covers hL rfl) | with_reducible exact Or.inl rfl | skip)

theorem doPlanResume_keeps {p : Nat} {s : State} {s0 : State} {L : List Field} (hL : covers [.regs, .counters, .seq, .seqReported, .events, .parts, .cores, .layers, .contexts, .devDraws, .ports, .tally, .intake, .power] L = true) (h : s0.same L s) : s0.same L (doPlanResume p s) := by
  unfold doPlanResume
  try dsimp only
  repeat' first
    | with_reducible assumption
    | with_reducible apply State.stepBoundary_keeps (covers_trans rfl hL)
    | with_reducible apply foldl_keeps
    | (intro _; intros; try dsimp only)
    | split
    | (with_reducible apply State.mk_keeps <;> first | exact Or.inr (mem_of_covers hL rfl) | with_reducible exact Or.inl rfl | skip)

theorem doHandoverSent_keeps {p : Nat} {s : State} {s0 : State} {L : List Field} (hL : covers [.regs, .seq, .seqReported, .events, .parts, .ports] L = true) (h : s0.same L s) : s0.same L (doHandoverSent p s) := by
  unfold doHandoverSent
  try dsimp only
  repeat' first
    | with_reducible assumption
    | with_reducible apply State.sendRouted_keeps (covers_trans rfl hL)
    | with_reducible apply State.modFixer_keeps (covers_trans rfl hL)
    | with_reducible apply State.raise_keeps (covers_trans rfl hL)
    | with_reducible apply foldl_keeps
    | (intro _; intros; try dsimp only)
    | split
    | (with_reducible apply State.mk_keeps <;> first | exact Or.inr (mem_of_covers hL rfl) | with_reducible exact Or.inl rfl | skip)

theorem State.endTakeover_keeps {s : State} {p : Nat} {s0 : State} {L : List Field} (hL : covers [.parts] L = true) (h : s0.same L s) : s0.same L (State.endTakeover s p) := by
  unfold State.endTakeover
  try dsimp only
  repeat' first
    | with_reducible assumption
    | with_reducible apply State.modFixer_keeps (covers_trans rfl hL)
    | with_reducible apply foldl_keeps
    | (intro _; intros; try dsimp only)
    | split
    | (with_reducible apply State.mk_keeps <;> first | exact Or.inr (mem_of_covers hL rfl) | with_reducible exact Or.inl rfl | skip)

theorem State.beginTakeover_keeps {s : State} {p : Nat} {s0 : State} {L : List Field} (hL : covers [.regs, .seq, .seqReported, .events, .parts, .ports] L = true) (h : s0.same L s) : s0.same L (State.beginTakeover s p) := by
  unfold State.beginTakeover
  try dsimp only
  repeat' first
    | with_reducible assumption
    | with_reducible apply State.raise_keeps (covers_trans rfl hL)
    | with_reducible apply State.modFixer_keeps (covers_trans rfl hL)
    | with_reducible apply State.askPartner_keeps (covers_trans rfl hL)
    | with_reducible apply State.endTakeover_keeps (covers_trans rfl hL)
    | with_reducible apply foldl_keeps
    | (intro _; intros; try dsimp only)
    | split
    | (with_reducible apply State.mk_keeps <;> first | exact Or.inr (mem_of_covers hL rfl) | with_reducible exact Or.inl rfl | skip)

theorem State.takeoverIn_keeps {port : Nat} {s : State} {p : Nat} {pk : Packet} {s0 : State} {L : List Field} (hL : covers [.regs, .counters, .seq, .seqReported, .events, .parts, .ports] L = true) (h : s0.same L s) : s0.same L (State.takeoverIn port s p pk) := by
  unfold State.takeoverIn
  try dsimp only
  repeat' first
    | with_reducible assumption
    | with_reducible apply State.beginTakeover_keeps (covers_trans rfl hL)
    | with_reducible apply State.dropUnmatched_keeps (covers_trans rfl hL)
    | with_reducible apply foldl_keeps
    | (intro _; intros; try dsimp only)
    | split
    | (with_reducible apply State.mk_keeps <;> first | exact Or.inr (mem_of_covers hL rfl) | with_reducible exact Or.inl rfl | skip)

theorem doTakeoverRequest_keeps {port : Nat} {pkt : Packet} {s : State} {s0 : State} {L : List Field} (hL : covers [.regs, .counters, .seq, .seqReported, .stamped, .events, .parts, .ports, .out] L = true) (h : s0.same L s) : s0.same L (doTakeoverRequest port pkt s) := by
  unfold doTakeoverRequest
  try dsimp only
  repeat' first
    | with_reducible assumption
    | with_reducible apply State.receive_keeps (covers_trans rfl hL)
    | with_reducible apply State.takeoverIn_keeps (covers_trans rfl hL)
    | with_reducible apply foldl_keeps
    | (intro _; intros; try dsimp only)
    | split
    | (with_reducible apply State.mk_keeps <;> first | exact Or.inr (mem_of_covers hL rfl) | with_reducible exact Or.inl rfl | skip)

theorem doTakeoverWrite_keeps {value : Word} {s : State} {s0 : State} {L : List Field} (hL : covers [.regs, .seq, .seqReported, .events, .parts, .ports] L = true) (h : s0.same L s) : s0.same L (doTakeoverWrite value s) := by
  unfold doTakeoverWrite
  try dsimp only
  repeat' first
    | with_reducible assumption
    | with_reducible apply State.beginTakeover_keeps (covers_trans rfl hL)
    | with_reducible apply foldl_keeps
    | (intro _; intros; try dsimp only)
    | split
    | (with_reducible apply State.mk_keeps <;> first | exact Or.inr (mem_of_covers hL rfl) | with_reducible exact Or.inl rfl | skip)

theorem State.takeoverRestored_keeps {s : State} {p : Nat} {s0 : State} {L : List Field} (hL : covers [.regs, .seq, .seqReported, .events, .parts, .ports] L = true) (h : s0.same L s) : s0.same L (State.takeoverRestored s p) := by
  unfold State.takeoverRestored
  try dsimp only
  repeat' first
    | with_reducible assumption
    | with_reducible apply State.modFixer_keeps (covers_trans rfl hL)
    | with_reducible apply State.set_keeps (covers_trans rfl hL)
    | with_reducible apply State.switchUp_keeps (covers_trans rfl hL)
    | with_reducible apply foldl_keeps
    | (intro _; intros; try dsimp only)
    | split
    | (with_reducible apply State.mk_keeps <;> first | exact Or.inr (mem_of_covers hL rfl) | with_reducible exact Or.inl rfl | skip)

theorem State.rebaseHolds_keeps {s : State} {p : Nat} {step : Nat} {s0 : State} {L : List Field} (hL : covers [.layers] L = true) (h : s0.same L s) : s0.same L (State.rebaseHolds s p step) := by
  unfold State.rebaseHolds
  try dsimp only
  repeat' first
    | with_reducible assumption
    | with_reducible apply foldl_keeps
    | (intro _; intros; try dsimp only)
    | split
    | (with_reducible apply State.mk_keeps <;> first | exact Or.inr (mem_of_covers hL rfl) | with_reducible exact Or.inl rfl | skip)

theorem doTakeoverDone_keeps {p : Nat} {s : State} {s0 : State} {L : List Field} (hL : covers [.regs, .counters, .seq, .seqReported, .events, .parts, .cores, .layers, .devDraws, .ports, .intake, .power] L = true) (h : s0.same L s) : s0.same L (doTakeoverDone p s) := by
  unfold doTakeoverDone
  try dsimp only
  repeat' first
    | with_reducible assumption
    | with_reducible apply State.evalEta_keeps (covers_trans rfl hL)
    | with_reducible apply State.rebaseHolds_keeps (covers_trans rfl hL)
    | with_reducible apply State.modFixer_keeps (covers_trans rfl hL)
    | with_reducible apply State.snapshotRecord_keeps (covers_trans rfl hL)
    | with_reducible apply State.beginStep_keeps (covers_trans rfl hL)
    | with_reducible apply State.count_keeps (covers_trans rfl hL)
    | with_reducible apply State.raise_keeps (covers_trans rfl hL)
    | with_reducible apply foldl_keeps
    | (intro _; intros; try dsimp only)
    | split
    | (with_reducible apply State.mk_keeps <;> first | exact Or.inr (mem_of_covers hL rfl) | with_reducible exact Or.inl rfl | skip)

theorem State.itemLost_keeps {s : State} {p : Nat} {item : Nat} {s0 : State} {L : List Field} (hL : covers [.regs, .seq, .seqReported, .events, .parts, .ports] L = true) (h : s0.same L s) : s0.same L (State.itemLost s p item) := by
  unfold State.itemLost
  try dsimp only
  repeat' first
    | with_reducible assumption
    | with_reducible apply State.restoreFailed_keeps (covers_trans rfl hL)
    | with_reducible apply State.endTakeover_keeps (covers_trans rfl hL)
    | with_reducible apply foldl_keeps
    | (intro _; intros; try dsimp only)
    | split
    | (with_reducible apply State.mk_keeps <;> first | exact Or.inr (mem_of_covers hL rfl) | with_reducible exact Or.inl rfl | skip)

theorem State.restoreTaken_keeps {s : State} {p : Nat} {pl : Plan} {s0 : State} {L : List Field} (hL : covers [.regs, .counters, .seq, .seqReported, .events, .mem, .staging, .neg, .tags, .negTags, .parts, .layers] L = true) (h : s0.same L s) : s0.same L (State.restoreTaken s p pl) := by
  unfold State.restoreTaken
  try dsimp only
  repeat' first
    | with_reducible assumption
    | with_reducible apply State.restoreItem_keeps (covers_trans rfl hL)
    | with_reducible apply State.modFixer_keeps (covers_trans rfl hL)
    | with_reducible apply foldl_keeps
    | (intro _; intros; try dsimp only)
    | split
    | (with_reducible apply State.mk_keeps <;> first | exact Or.inr (mem_of_covers hL rfl) | with_reducible exact Or.inl rfl | skip)

theorem State.itemRestored_keeps {s : State} {p : Nat} {pl : Plan} {s0 : State} {L : List Field} (hL : covers [.regs, .counters, .seq, .seqReported, .stamped, .events, .mem, .staging, .neg, .tags, .negTags, .parts, .layers, .ports, .out] L = true) (h : s0.same L s) : s0.same L (State.itemRestored s p pl) := by
  unfold State.itemRestored
  try dsimp only
  repeat' first
    | with_reducible assumption
    | with_reducible apply State.takeoverRestored_keeps (covers_trans rfl hL)
    | with_reducible apply State.restoreTaken_keeps (covers_trans rfl hL)
    | with_reducible apply State.endDrain_keeps (covers_trans rfl hL)
    | with_reducible apply State.stepWorkDone_keeps (covers_trans rfl hL)
    | with_reducible apply foldl_keeps
    | (intro _; intros; try dsimp only)
    | split
    | (with_reducible apply State.mk_keeps <;> first | exact Or.inr (mem_of_covers hL rfl) | with_reducible exact Or.inl rfl | skip)

theorem State.takeItem_keeps {s : State} {p : Nat} {item : Nat} {pl : Plan} {r : SealRec} {c : Copy} {s0 : State} {L : List Field} (hL : covers [.regs, .counters, .seq, .seqReported, .events, .mem, .staging, .neg, .tags, .negTags, .parts, .layers] L = true) (h : s0.same L s) : s0.same L (State.takeItem s p item pl r c) := by
  unfold State.takeItem
  try dsimp only
  repeat' first
    | with_reducible assumption
    | with_reducible apply State.modFixer_keeps (covers_trans rfl hL)
    | with_reducible apply State.restoreItem_keeps (covers_trans rfl hL)
    | with_reducible apply foldl_keeps
    | (intro _; intros; try dsimp only)
    | split
    | (with_reducible apply State.mk_keeps <;> first | exact Or.inr (mem_of_covers hL rfl) | with_reducible exact Or.inl rfl | skip)

theorem State.itemSealIn_keeps {port : Nat} {s : State} {p : Nat} {pk : Packet} {s0 : State} {L : List Field} (hL : covers [.regs, .counters, .seq, .seqReported, .stamped, .events, .mem, .staging, .neg, .tags, .negTags, .parts, .layers, .ports, .out] L = true) (h : s0.same L s) : s0.same L (State.itemSealIn port s p pk) := by
  unfold State.itemSealIn
  try dsimp only
  repeat' first
    | with_reducible assumption
    | with_reducible apply State.dropUnmatched_keeps (covers_trans rfl hL)
    | with_reducible apply State.modFixer_keeps (covers_trans rfl hL)
    | with_reducible apply State.itemLost_keeps (covers_trans rfl hL)
    | with_reducible apply State.itemRestored_keeps (covers_trans rfl hL)
    | with_reducible apply State.takeItem_keeps (covers_trans rfl hL)
    | with_reducible apply State.noteInvalid_keeps (covers_trans rfl hL)
    | with_reducible apply State.askPartner_keeps (covers_trans rfl hL)
    | with_reducible apply foldl_keeps
    | (intro _; intros; try dsimp only)
    | split
    | (with_reducible apply State.mk_keeps <;> first | exact Or.inr (mem_of_covers hL rfl) | with_reducible exact Or.inl rfl | skip)

theorem doItemSealRecord_keeps {port : Nat} {pkt : Packet} {s : State} {s0 : State} {L : List Field} (hL : covers [.regs, .counters, .seq, .seqReported, .stamped, .events, .mem, .staging, .neg, .tags, .negTags, .parts, .layers, .ports, .out] L = true) (h : s0.same L s) : s0.same L (doItemSealRecord port pkt s) := by
  unfold doItemSealRecord
  try dsimp only
  repeat' first
    | with_reducible assumption
    | with_reducible apply State.receive_keeps (covers_trans rfl hL)
    | with_reducible apply State.itemSealIn_keeps (covers_trans rfl hL)
    | with_reducible apply foldl_keeps
    | (intro _; intros; try dsimp only)
    | split
    | (with_reducible apply State.mk_keeps <;> first | exact Or.inr (mem_of_covers hL rfl) | with_reducible exact Or.inl rfl | skip)

theorem State.tearReader_keeps {s : State} {p : Nat} {core : Nat} {space : Nat} {a : Nat} {s0 : State} {L : List Field} (hL : covers [.regs, .counters, .seq, .seqReported, .events, .parts] L = true) (h : s0.same L s) : s0.same L (State.tearReader s p core space a) := by
  unfold State.tearReader
  try dsimp only
  repeat' first
    | with_reducible assumption
    | with_reducible apply State.tear_keeps (covers_trans rfl hL)
    | with_reducible apply foldl_keeps
    | (intro _; intros; try dsimp only)
    | split
    | (with_reducible apply State.mk_keeps <;> first | exact Or.inr (mem_of_covers hL rfl) | with_reducible exact Or.inl rfl | skip)

theorem State.memoryError_keeps {s : State} {p : Nat} {space : Nat} {a : Nat} {reader : ErrorReader} {s0 : State} {L : List Field} (hL : covers [.regs, .counters, .seq, .seqReported, .events, .parts, .ports] L = true) (h : s0.same L s) : s0.same L (State.memoryError s p space a reader) := by
  unfold State.memoryError
  try dsimp only
  repeat' first
    | with_reducible assumption
    | with_reducible apply State.tearReader_keeps (covers_trans rfl hL)
    | with_reducible apply State.modFixer_keeps (covers_trans rfl hL)
    | with_reducible apply State.persistentError_keeps (covers_trans rfl hL)
    | with_reducible apply State.transientError_keeps (covers_trans rfl hL)
    | with_reducible apply foldl_keeps
    | (intro _; intros; try dsimp only)
    | split
    | (with_reducible apply State.mk_keeps <;> first | exact Or.inr (mem_of_covers hL rfl) | with_reducible exact Or.inl rfl | skip)

theorem State.decoderError_keeps {s : State} {p : Nat} {a : Nat} {s0 : State} {L : List Field} (hL : covers [.regs, .counters, .seq, .seqReported, .events, .parts, .ports] L = true) (h : s0.same L s) : s0.same L (State.decoderError s p a) := by
  unfold State.decoderError
  try dsimp only
  repeat' first
    | with_reducible assumption
    | with_reducible apply State.persistentError_keeps (covers_trans rfl hL)
    | with_reducible apply State.transientError_keeps (covers_trans rfl hL)
    | with_reducible apply foldl_keeps
    | (intro _; intros; try dsimp only)
    | split
    | (with_reducible apply State.mk_keeps <;> first | exact Or.inr (mem_of_covers hL rfl) | with_reducible exact Or.inl rfl | skip)

theorem doUncorrectableError_keeps {loc : ErrorPlace} {s : State} {s0 : State} {L : List Field} (hL : covers [.regs, .counters, .seq, .seqReported, .events, .parts, .ports] L = true) (h : s0.same L s) : s0.same L (doUncorrectableError loc s) := by
  unfold doUncorrectableError
  try dsimp only
  repeat' first
    | with_reducible assumption
    | with_reducible apply State.queueLoss_keeps (covers_trans rfl hL)
    | with_reducible apply State.decoderError_keeps (covers_trans rfl hL)
    | with_reducible apply State.transientError_keeps (covers_trans rfl hL)
    | with_reducible apply State.memoryError_keeps (covers_trans rfl hL)
    | with_reducible apply foldl_keeps
    | (intro _; intros; try dsimp only)
    | split
    | (with_reducible apply State.mk_keeps <;> first | exact Or.inr (mem_of_covers hL rfl) | with_reducible exact Or.inl rfl | skip)

theorem doHbmRowFailure_keeps {stack : Nat} {page : Nat} {s : State} {s0 : State} {L : List Field} (hL : covers [.regs, .seq, .seqReported, .events, .parts, .ports, .rowsUsed, .retired] L = true) (h : s0.same L s) : s0.same L (doHbmRowFailure stack page s) := by
  unfold doHbmRowFailure
  try dsimp only
  repeat' first
    | with_reducible assumption
    | with_reducible apply State.set_keeps (covers_trans rfl hL)
    | with_reducible apply State.raise_keeps (covers_trans rfl hL)
    | with_reducible apply State.planInvalid_keeps (covers_trans rfl hL)
    | with_reducible apply foldl_keeps
    | (intro _; intros; try dsimp only)
    | split
    | (with_reducible apply State.mk_keeps <;> first | exact Or.inr (mem_of_covers hL rfl) | with_reducible exact Or.inl rfl | skip)

theorem doCoreFailed_keeps {core : Nat} {s : State} {s0 : State} {L : List Field} (hL : covers [.regs, .seq, .seqReported, .events, .parts, .cores, .devQueues, .ports] L = true) (h : s0.same L s) : s0.same L (doCoreFailed core s) := by
  unfold doCoreFailed
  try dsimp only
  repeat' first
    | with_reducible assumption
    | with_reducible apply State.raise_keeps (covers_trans rfl hL)
    | with_reducible apply State.setPair_keeps (covers_trans rfl hL)
    | with_reducible apply State.planInvalid_keeps (covers_trans rfl hL)
    | with_reducible apply State.leaveDevelopers_keeps (covers_trans rfl hL)
    | with_reducible apply State.modCore_keeps (covers_trans rfl hL)
    | with_reducible apply foldl_keeps
    | (intro _; intros; try dsimp only)
    | split
    | (with_reducible apply State.mk_keeps <;> first | exact Or.inr (mem_of_covers hL rfl) | with_reducible exact Or.inl rfl | skip)

theorem doD2dTransferFail_keeps {iface : Nat} {die : Nat} {other : Nat} {retry : Nat} {s : State} {s0 : State} {L : List Field} (hL : covers [.regs, .seq, .seqReported, .events, .parts, .ports, .tally, .d2dDown] L = true) (h : s0.same L s) : s0.same L (doD2dTransferFail iface die other retry s) := by
  unfold doD2dTransferFail
  try dsimp only
  repeat' first
    | with_reducible assumption
    | with_reducible apply State.raise_keeps (covers_trans rfl hL)
    | with_reducible apply State.planInvalid_keeps (covers_trans rfl hL)
    | with_reducible apply foldl_keeps
    | (intro _; intros; try dsimp only)
    | split
    | (with_reducible apply State.mk_keeps <;> first | exact Or.inr (mem_of_covers hL rfl) | with_reducible exact Or.inl rfl | skip)

theorem State.modIntake_keeps {s : State} {u : Nat} {f : IntakeUnit → IntakeUnit} {s0 : State} {L : List Field} (hL : covers [.intake] L = true) (h : s0.same L s) : s0.same L (State.modIntake s u f) := by
  unfold State.modIntake
  try dsimp only
  repeat' first
    | with_reducible assumption
    | with_reducible apply foldl_keeps
    | (intro _; intros; try dsimp only)
    | split
    | (with_reducible apply State.mk_keeps <;> first | exact Or.inr (mem_of_covers hL rfl) | with_reducible exact Or.inl rfl | skip)

theorem State.intakeOnce_keeps {s : State} {u : Nat} {e : EvKind} {d : Detail} {s0 : State} {L : List Field} (hL : covers [.regs, .seq, .seqReported, .events, .intake] L = true) (h : s0.same L s) : s0.same L (State.intakeOnce s u e d) := by
  unfold State.intakeOnce
  try dsimp only
  repeat' first
    | with_reducible assumption
    | with_reducible apply State.raise_keeps (covers_trans rfl hL)
    | with_reducible apply State.modIntake_keeps (covers_trans rfl hL)
    | with_reducible apply foldl_keeps
    | (intro _; intros; try dsimp only)
    | split
    | (with_reducible apply State.mk_keeps <;> first | exact Or.inr (mem_of_covers hL rfl) | with_reducible exact Or.inl rfl | skip)

theorem State.adoptIntake_keeps {s : State} {p : Nat} {pl : Plan} {s0 : State} {L : List Field} (hL : covers [.regs, .intake] L = true) (h : s0.same L s) : s0.same L (State.adoptIntake s p pl) := by
  unfold State.adoptIntake
  try dsimp only
  repeat' first
    | with_reducible assumption
    | with_reducible apply State.modIntake_keeps (covers_trans rfl hL)
    | with_reducible apply State.set_keeps (covers_trans rfl hL)
    | with_reducible apply foldl_keeps
    | (intro _; intros; try dsimp only)
    | split
    | (with_reducible apply State.mk_keeps <;> first | exact Or.inr (mem_of_covers hL rfl) | with_reducible exact Or.inl rfl | skip)

theorem State.dropIntake_keeps {s : State} {p : Nat} {s0 : State} {L : List Field} (hL : covers [.intake] L = true) (h : s0.same L s) : s0.same L (State.dropIntake s p) := by
  unfold State.dropIntake
  try dsimp only
  repeat' first
    | with_reducible assumption
    | with_reducible apply foldl_keeps
    | (intro _; intros; try dsimp only)
    | split
    | (with_reducible apply State.mk_keeps <;> first | exact Or.inr (mem_of_covers hL rfl) | with_reducible exact Or.inl rfl | skip)

theorem State.writeRow_keeps {s : State} {a : Adopted} {b : Nat} {r : Nat} {d : RowData} {s0 : State} {L : List Field} (hL : covers [.regs, .seq, .seqReported, .events, .mem, .tags] L = true) (h : s0.same L s) : s0.same L (State.writeRow s a b r d) := by
  unfold State.writeRow
  try dsimp only
  repeat' first
    | with_reducible assumption
    | with_reducible apply State.writeHbm_keeps (covers_trans rfl hL)
    | with_reducible apply State.stampUsed_keeps (covers_trans rfl hL)
    | with_reducible apply foldl_keeps
    | (intro _; intros; try dsimp only)
    | split
    | (with_reducible apply State.mk_keeps <;> first | exact Or.inr (mem_of_covers hL rfl) | with_reducible exact Or.inl rfl | skip)

theorem State.countStatus_keeps {s : State} {u : Nat} {status : Nat} {s0 : State} {L : List Field} (hL : covers [.regs, .counters, .seq, .seqReported, .events] L = true) (h : s0.same L s) : s0.same L (State.countStatus s u status) := by
  unfold State.countStatus
  try dsimp only
  repeat' first
    | with_reducible assumption
    | with_reducible apply State.count_keeps (covers_trans rfl hL)
    | with_reducible apply foldl_keeps
    | (intro _; intros; try dsimp only)
    | split
    | (with_reducible apply State.mk_keeps <;> first | exact Or.inr (mem_of_covers hL rfl) | with_reducible exact Or.inl rfl | skip)

theorem State.settle_keeps {s : State} {u : Nat} {a : Adopted} {b : Nat} {r : Nat} {d : RowData} {s0 : State} {L : List Field} (hL : covers [.regs, .counters, .seq, .seqReported, .events, .mem, .tags, .intake] L = true) (h : s0.same L s) : s0.same L (State.settle s u a b r d) := by
  unfold State.settle
  try dsimp only
  repeat' first
    | with_reducible assumption
    | with_reducible apply State.modIntake_keeps (covers_trans rfl hL)
    | with_reducible apply State.countStatus_keeps (covers_trans rfl hL)
    | with_reducible apply State.writeRow_keeps (covers_trans rfl hL)
    | with_reducible apply foldl_keeps
    | (intro _; intros; try dsimp only)
    | split
    | (with_reducible apply State.mk_keeps <;> first | exact Or.inr (mem_of_covers hL rfl) | with_reducible exact Or.inl rfl | skip)

theorem State.padRow_keeps {s : State} {u : Nat} {a : Adopted} {b : Nat} {r : Nat} {cause : Nat} {replaced : Nat} {s0 : State} {L : List Field} (hL : covers [.regs, .counters, .seq, .seqReported, .events, .mem, .tags, .intake, .freeCtr] L = true) (h : s0.same L s) : s0.same L (State.padRow s u a b r cause replaced) := by
  unfold State.padRow
  try dsimp only
  repeat' first
    | with_reducible assumption
    | with_reducible apply State.settle_keeps (covers_trans rfl hL)
    | with_reducible apply State.useFree_keeps (covers_trans rfl hL)
    | with_reducible apply foldl_keeps
    | (intro _; intros; try dsimp only)
    | split
    | (with_reducible apply State.mk_keeps <;> first | exact Or.inr (mem_of_covers hL rfl) | with_reducible exact Or.inl rfl | skip)

theorem doSampleStart_keeps {unit : Nat} {s : State} {s0 : State} {L : List Field} (hL : covers [.regs, .counters, .seq, .seqReported, .events, .pools, .intake] L = true) (h : s0.same L s) : s0.same L (doSampleStart unit s) := by
  unfold doSampleStart
  try dsimp only
  repeat' first
    | with_reducible assumption
    | with_reducible apply State.intakeOnce_keeps (covers_trans rfl hL)
    | with_reducible apply State.modIntake_keeps (covers_trans rfl hL)
    | with_reducible apply State.consumeSlot_keeps (covers_trans rfl hL)
    | with_reducible apply foldl_keeps
    | (intro _; intros; try dsimp only)
    | split
    | (with_reducible apply State.mk_keeps <;> first | exact Or.inr (mem_of_covers hL rfl) | with_reducible exact Or.inl rfl | skip)

theorem State.noteBad_keeps {s : State} {u : Nat} {x : IntakeSample} {cause : Nat} {s0 : State} {L : List Field} (hL : covers [.regs, .seq, .seqReported, .events, .intake] L = true) (h : s0.same L s) : s0.same L (State.noteBad s u x cause) := by
  unfold State.noteBad
  try dsimp only
  repeat' first
    | with_reducible assumption
    | with_reducible apply State.set_keeps (covers_trans rfl hL)
    | with_reducible apply State.setPair_keeps (covers_trans rfl hL)
    | with_reducible apply State.intakeOnce_keeps (covers_trans rfl hL)
    | with_reducible apply foldl_keeps
    | (intro _; intros; try dsimp only)
    | split
    | (with_reducible apply State.mk_keeps <;> first | exact Or.inr (mem_of_covers hL rfl) | with_reducible exact Or.inl rfl | skip)

theorem State.replaceRow_keeps {s : State} {u : Nat} {a : Adopted} {b : Nat} {r : Nat} {cause : Nat} {tag : Nat} {s0 : State} {L : List Field} (hL : covers [.regs, .counters, .seq, .seqReported, .events, .mem, .tags, .intake, .freeCtr] L = true) (h : s0.same L s) : s0.same L (State.replaceRow s u a b r cause tag) := by
  unfold State.replaceRow
  try dsimp only
  repeat' first
    | with_reducible assumption
    | with_reducible apply State.padRow_keeps (covers_trans rfl hL)
    | with_reducible apply State.intakeOnce_keeps (covers_trans rfl hL)
    | with_reducible apply State.modIntake_keeps (covers_trans rfl hL)
    | with_reducible apply foldl_keeps
    | (intro _; intros; try dsimp only)
    | split
    | (with_reducible apply State.mk_keeps <;> first | exact Or.inr (mem_of_covers hL rfl) | with_reducible exact Or.inl rfl | skip)

theorem State.dropRow_keeps {s : State} {u : Nat} {a : Adopted} {x : IntakeSample} {b : Nat} {r : Nat} {cause : Nat} {s0 : State} {L : List Field} (hL : covers [.regs, .counters, .seq, .seqReported, .events, .mem, .tags, .intake, .freeCtr] L = true) (h : s0.same L s) : s0.same L (State.dropRow s u a x b r cause) := by
  unfold State.dropRow
  try dsimp only
  repeat' first
    | with_reducible assumption
    | with_reducible apply State.settle_keeps (covers_trans rfl hL)
    | with_reducible apply State.useFree_keeps (covers_trans rfl hL)
    | with_reducible apply foldl_keeps
    | (intro _; intros; try dsimp only)
    | split
    | (with_reducible apply State.mk_keeps <;> first | exact Or.inr (mem_of_covers hL rfl) | with_reducible exact Or.inl rfl | skip)

theorem State.badSample_keeps {s : State} {u : Nat} {x : IntakeSample} {cause : Nat} {s0 : State} {L : List Field} (hL : covers [.regs, .counters, .seq, .seqReported, .events, .mem, .tags, .intake, .freeCtr] L = true) (h : s0.same L s) : s0.same L (State.badSample s u x cause) := by
  unfold State.badSample
  try dsimp only
  repeat' first
    | with_reducible assumption
    | with_reducible apply State.count_keeps (covers_trans rfl hL)
    | with_reducible apply State.noteBad_keeps (covers_trans rfl hL)
    | with_reducible apply State.replaceRow_keeps (covers_trans rfl hL)
    | with_reducible apply State.dropRow_keeps (covers_trans rfl hL)
    | with_reducible apply foldl_keeps
    | (intro _; intros; try dsimp only)
    | split
    | (with_reducible apply State.mk_keeps <;> first | exact Or.inr (mem_of_covers hL rfl) | with_reducible exact Or.inl rfl | skip)

theorem State.endConversion_keeps {s : State} {u : Nat} {i : Nat} {x : IntakeSample} {s0 : State} {L : List Field} (hL : covers [.pools, .intake, .out] L = true) (h : s0.same L s) : s0.same L (State.endConversion s u i x) := by
  unfold State.endConversion
  try dsimp only
  repeat' first
    | with_reducible assumption
    | with_reducible apply State.releaseSlot_keeps (covers_trans rfl hL)
    | with_reducible apply State.modIntake_keeps (covers_trans rfl hL)
    | with_reducible apply foldl_keeps
    | (intro _; intros; try dsimp only)
    | split
    | (with_reducible apply State.mk_keeps <;> first | exact Or.inr (mem_of_covers hL rfl) | with_reducible exact Or.inl rfl | skip)

theorem State.updateMean_keeps {s : State} {u : Nat} {format : Nat} {t : Nat} {s0 : State} {L : List Field} (hL : covers [.regs, .freeCtr] L = true) (h : s0.same L s) : s0.same L (State.updateMean s u format t) := by
  unfold State.updateMean
  try dsimp only
  repeat' first
    | with_reducible assumption
    | with_reducible apply State.takeFree_keeps (covers_trans rfl hL)
    | with_reducible apply State.set_keeps (covers_trans rfl hL)
    | with_reducible apply foldl_keeps
    | (intro _; intros; try dsimp only)
    | split
    | (with_reducible apply State.mk_keeps <;> first | exact Or.inr (mem_of_covers hL rfl) | with_reducible exact Or.inl rfl | skip)

theorem State.enterReserve_keeps {s : State} {u : Nat} {a : Adopted} {d : RowData} {s0 : State} {L : List Field} (hL : covers [.mem, .tags, .intake] L = true) (h : s0.same L s) : s0.same L (State.enterReserve s u a d) := by
  unfold State.enterReserve
  try dsimp only
  repeat' first
    | with_reducible assumption
    | with_reducible apply State.writeHbm_keeps (covers_trans rfl hL)
    | with_reducible apply State.modIntake_keeps (covers_trans rfl hL)
    | with_reducible apply foldl_keeps
    | (intro _; intros; try dsimp only)
    | split
    | (with_reducible apply State.mk_keeps <;> first | exact Or.inr (mem_of_covers hL rfl) | with_reducible exact Or.inl rfl | skip)

theorem State.placeSample_keeps {s : State} {u : Nat} {x : IntakeSample} {s0 : State} {L : List Field} (hL : covers [.regs, .counters, .seq, .seqReported, .events, .mem, .tags, .intake] L = true) (h : s0.same L s) : s0.same L (State.placeSample s u x) := by
  unfold State.placeSample
  try dsimp only
  repeat' first
    | with_reducible assumption
    | with_reducible apply State.settle_keeps (covers_trans rfl hL)
    | with_reducible apply State.enterReserve_keeps (covers_trans rfl hL)
    | with_reducible apply foldl_keeps
    | (intro _; intros; try dsimp only)
    | split
    | (with_reducible apply State.mk_keeps <;> first | exact Or.inr (mem_of_covers hL rfl) | with_reducible exact Or.inl rfl | skip)

theorem State.countSample_keeps {s : State} {u : Nat} {x : IntakeSample} {s0 : State} {L : List Field} (hL : covers [.regs, .counters, .seq, .seqReported, .events] L = true) (h : s0.same L s) : s0.same L (State.countSample s u x) := by
  unfold State.countSample
  try dsimp only
  repeat' first
    | with_reducible assumption
    | with_reducible apply State.count_keeps (covers_trans rfl hL)
    | with_reducible apply foldl_keeps
    | (intro _; intros; try dsimp only)
    | split
    | (with_reducible apply State.mk_keeps <;> first | exact Or.inr (mem_of_covers hL rfl) | with_reducible exact Or.inl rfl | skip)

theorem doSampleConverted_keeps {unit : Nat} {sample : Nat} {timeNs : Nat} {s : State} {s0 : State} {L : List Field} (hL : covers [.regs, .counters, .time, .seq, .seqReported, .events, .mem, .tags, .pools, .intake, .out, .freeCtr] L = true) (h : s0.same L s) : s0.same L (doSampleConverted unit sample timeNs s) := by
  unfold doSampleConverted
  try dsimp only
  repeat' first
    | with_reducible assumption
    | with_reducible apply State.advanceTo_keeps (covers_trans rfl hL)
    | with_reducible apply State.endConversion_keeps (covers_trans rfl hL)
    | with_reducible apply State.placeSample_keeps (covers_trans rfl hL)
    | with_reducible apply State.updateMean_keeps (covers_trans rfl hL)
    | with_reducible apply State.countSample_keeps (covers_trans rfl hL)
    | with_reducible apply State.badSample_keeps (covers_trans rfl hL)
    | with_reducible apply foldl_keeps
    | (intro _; intros; try dsimp only)
    | split
    | (with_reducible apply State.mk_keeps <;> first | exact Or.inr (mem_of_covers hL rfl) | with_reducible exact Or.inl rfl | skip)

theorem doSampleSlow_keeps {unit : Nat} {sample : Nat} {s : State} {s0 : State} {L : List Field} (hL : covers [.regs, .counters, .time, .seq, .seqReported, .events, .mem, .tags, .pools, .intake, .out, .freeCtr] L = true) (h : s0.same L s) : s0.same L (doSampleSlow unit sample s) := by
  unfold doSampleSlow
  try dsimp only
  repeat' first
    | with_reducible assumption
    | with_reducible apply State.advanceTo_keeps (covers_trans rfl hL)
    | with_reducible apply State.badSample_keeps (covers_trans rfl hL)
    | with_reducible apply State.endConversion_keeps (covers_trans rfl hL)
    | with_reducible apply foldl_keeps
    | (intro _; intros; try dsimp only)
    | split
    | (with_reducible apply State.mk_keeps <;> first | exact Or.inr (mem_of_covers hL rfl) | with_reducible exact Or.inl rfl | skip)

theorem doReserveCopyDone_keeps {unit : Nat} {sample : Nat} {s : State} {s0 : State} {L : List Field} (hL : covers [.regs, .counters, .seq, .seqReported, .events, .mem, .tags, .intake] L = true) (h : s0.same L s) : s0.same L (doReserveCopyDone unit sample s) := by
  unfold doReserveCopyDone
  try dsimp only
  repeat' first
    | with_reducible assumption
    | with_reducible apply State.settle_keeps (covers_trans rfl hL)
    | with_reducible apply State.modIntake_keeps (covers_trans rfl hL)
    | with_reducible apply foldl_keeps
    | (intro _; intros; try dsimp only)
    | split
    | (with_reducible apply State.mk_keeps <;> first | exact Or.inr (mem_of_covers hL rfl) | with_reducible exact Or.inl rfl | skip)

theorem State.fillRows_keeps {s : State} {u : Nat} {a : Adopted} {b : Nat} {x4 : List Nat} {x5 : List (Option Nat × List Byte)} {x6 : List Nat} {s0 : State} {L : List Field} (hL : covers [.regs, .counters, .seq, .seqReported, .events, .mem, .tags, .intake, .freeCtr] L = true) (h : s0.same L s) : s0.same L (State.fillRows s u a b x4 x5 x6).1 := by
  induction x4 generalizing s x5 x6 with
  | nil => exact h
  | cons r rs ih =>
    cases x5 with
    | nil =>
      simp only [State.fillRows]
      apply ih
      apply State.padRow_keeps (covers_trans rfl hL)
      split
      · exact State.intakeOnce_keeps (covers_trans rfl hL) h
      · exact h
    | cons e es =>
      simp only [State.fillRows]
      exact ih (State.settle_keeps (covers_trans rfl hL) h)

theorem State.closeBuffer_keeps {s : State} {u : Nat} {a : Adopted} {b : Nat} {y : IntakeBuffer} {s0 : State} {L : List Field} (hL : covers [.regs, .counters, .seq, .seqReported, .events, .mem, .tags, .intake, .freeCtr] L = true) (h : s0.same L s) : s0.same L (State.closeBuffer s u a b y).1 := by
  unfold State.closeBuffer
  try dsimp only
  repeat' first
    | with_reducible assumption
    | with_reducible apply State.modIntake_keeps (covers_trans rfl hL)
    | with_reducible apply State.fillRows_keeps (covers_trans rfl hL)
    | with_reducible apply foldl_keeps
    | (intro _; intros; try dsimp only)
    | split
    | (with_reducible apply State.mk_keeps <;> first | exact Or.inr (mem_of_covers hL rfl) | with_reducible exact Or.inl rfl | skip)

theorem State.writeSheetHeader_keeps {s : State} {u : Nat} {a : Adopted} {b : Nat} {s0 : State} {L : List Field} (hL : covers [.regs, .seq, .seqReported, .events, .mem, .tags] L = true) (h : s0.same L s) : s0.same L (State.writeSheetHeader s u a b) := by
  unfold State.writeSheetHeader
  try dsimp only
  repeat' first
    | with_reducible assumption
    | with_reducible apply State.writeHbm_keeps (covers_trans rfl hL)
    | with_reducible apply State.stampUsed_keeps (covers_trans rfl hL)
    | with_reducible apply foldl_keeps
    | (intro _; intros; try dsimp only)
    | split
    | (with_reducible apply State.mk_keeps <;> first | exact Or.inr (mem_of_covers hL rfl) | with_reducible exact Or.inl rfl | skip)

theorem State.putDense_keeps {s : State} {p : Nat} {t : Tensor} {bs : List Byte} {s0 : State} {L : List Field} (hL : covers [.regs, .counters, .seq, .seqReported, .events, .mem, .staging, .neg, .tags, .negTags] L = true) (h : s0.same L s) : s0.same L (State.putDense s p t bs) := by
  unfold State.putDense
  try dsimp only
  repeat' first
    | with_reducible assumption
    | with_reducible apply State.store_keeps (covers_trans rfl hL)
    | with_reducible apply State.writeSpace_keeps (covers_trans rfl hL)
    | with_reducible apply foldl_keeps
    | (intro _; intros; try dsimp only)
    | split
    | (with_reducible apply State.mk_keeps <;> first | exact Or.inr (mem_of_covers hL rfl) | with_reducible exact Or.inl rfl | skip)

theorem State.takePart_keeps {s : State} {r : Running} {idx : Nat} {f : Tensor → List Byte} {s0 : State} {L : List Field} (hL : covers [.regs, .counters, .seq, .seqReported, .events, .mem, .staging, .neg, .tags, .negTags] L = true) (h : s0.same L s) : s0.same L (State.takePart s r idx f) := by
  unfold State.takePart
  try dsimp only
  repeat' first
    | with_reducible assumption
    | with_reducible apply State.putDense_keeps (covers_trans rfl hL)
    | with_reducible apply foldl_keeps
    | (intro _; intros; try dsimp only)
    | split
    | (with_reducible apply State.mk_keeps <;> first | exact Or.inr (mem_of_covers hL rfl) | with_reducible exact Or.inl rfl | skip)

theorem State.takeContexts_keeps {s : State} {a : Adopted} {b : Nat} {s0 : State} {L : List Field} (hL : covers [.contexts] L = true) (h : s0.same L s) : s0.same L (State.takeContexts s a b) := by
  unfold State.takeContexts
  try dsimp only
  repeat' first
    | with_reducible assumption
    | with_reducible apply State.setCtx_keeps (covers_trans rfl hL)
    | with_reducible apply foldl_keeps
    | (intro _; intros; try dsimp only)
    | split
    | (with_reducible apply State.mk_keeps <;> first | exact Or.inr (mem_of_covers hL rfl) | with_reducible exact Or.inl rfl | skip)

theorem State.copyBatch_keeps {s : State} {r : Running} {a : Adopted} {b : Nat} {s0 : State} {L : List Field} (hL : covers [.regs, .counters, .seq, .seqReported, .events, .mem, .staging, .neg, .tags, .negTags, .contexts] L = true) (h : s0.same L s) : s0.same L (State.copyBatch s r a b) := by
  unfold State.copyBatch
  try dsimp only
  repeat' first
    | with_reducible assumption
    | with_reducible apply State.putDense_keeps (covers_trans rfl hL)
    | with_reducible apply State.takePart_keeps (covers_trans rfl hL)
    | with_reducible apply State.takeContexts_keeps (covers_trans rfl hL)
    | with_reducible apply foldl_keeps
    | (intro _; intros; try dsimp only)
    | split
    | (with_reducible apply State.mk_keeps <;> first | exact Or.inr (mem_of_covers hL rfl) | with_reducible exact Or.inl rfl | skip)

theorem State.notePadded_keeps {s : State} {u : Nat} {b : Nat} {s0 : State} {L : List Field} (hL : covers [.regs, .seq, .seqReported, .events, .intake] L = true) (h : s0.same L s) : s0.same L (State.notePadded s u b) := by
  unfold State.notePadded
  try dsimp only
  repeat' first
    | with_reducible assumption
    | with_reducible apply State.intakeOnce_keeps (covers_trans rfl hL)
    | with_reducible apply foldl_keeps
    | (intro _; intros; try dsimp only)
    | split
    | (with_reducible apply State.mk_keeps <;> first | exact Or.inr (mem_of_covers hL rfl) | with_reducible exact Or.inl rfl | skip)

theorem State.openTake_keeps {s : State} {r : Running} {u : Nat} {a : Adopted} {s0 : State} {L : List Field} (hL : covers [.regs, .counters, .seq, .seqReported, .events, .mem, .staging, .neg, .tags, .negTags, .contexts, .intake, .freeCtr] L = true) (h : s0.same L s) : s0.same L (State.openTake s r u a) := by
  unfold State.openTake
  try dsimp only
  repeat' first
    | with_reducible assumption
    | with_reducible apply State.modIntake_keeps (covers_trans rfl hL)
    | with_reducible apply State.closeBuffer_keeps (covers_trans rfl hL)
    | with_reducible apply State.copyBatch_keeps (covers_trans rfl hL)
    | with_reducible apply State.writeSheetHeader_keeps (covers_trans rfl hL)
    | with_reducible apply State.notePadded_keeps (covers_trans rfl hL)
    | with_reducible apply foldl_keeps
    | (intro _; intros; try dsimp only)
    | split
    | (with_reducible apply State.mk_keeps <;> first | exact Or.inr (mem_of_covers hL rfl) | with_reducible exact Or.inl rfl | skip)

theorem State.closeTake_keeps {s : State} {r : Running} {u : Nat} {a : Adopted} {s0 : State} {L : List Field} (hL : covers [.regs, .counters, .seq, .seqReported, .events, .intake] L = true) (h : s0.same L s) : s0.same L (State.closeTake s r u a) := by
  unfold State.closeTake
  try dsimp only
  repeat' first
    | with_reducible assumption
    | with_reducible apply State.count_keeps (covers_trans rfl hL)
    | with_reducible apply State.modIntake_keeps (covers_trans rfl hL)
    | with_reducible apply foldl_keeps
    | (intro _; intros; try dsimp only)
    | split
    | (with_reducible apply State.mk_keeps <;> first | exact Or.inr (mem_of_covers hL rfl) | with_reducible exact Or.inl rfl | skip)

theorem doTakeBatch_keeps {core : Nat} {s : State} {s0 : State} {L : List Field} (hL : covers [.regs, .counters, .seq, .seqReported, .events, .mem, .staging, .neg, .tags, .negTags, .parts, .cores, .contexts, .devQueues, .intake, .freeCtr] L = true) (h : s0.same L s) : s0.same L (doTakeBatch core s) := by
  unfold doTakeBatch
  try dsimp only
  repeat' first
    | with_reducible assumption
    | with_reducible apply State.endTask_keeps (covers_trans rfl hL)
    | with_reducible apply State.openTake_keeps (covers_trans rfl hL)
    | with_reducible apply State.closeTake_keeps (covers_trans rfl hL)
    | with_reducible apply foldl_keeps
    | (intro _; intros; try dsimp only)
    | split
    | (with_reducible apply State.mk_keeps <;> first | exact Or.inr (mem_of_covers hL rfl) | with_reducible exact Or.inl rfl | skip)

theorem State.refuseDict_keeps {s : State} {n : Nat} {d : Started} {fails : List Nat} {s0 : State} {L : List Field} (hL : covers [.regs, .seq, .seqReported, .events, .rings] L = true) (h : s0.same L s) : s0.same L (State.refuseDict s n d fails) := by
  unfold State.refuseDict
  try dsimp only
  repeat' first
    | with_reducible assumption
    | with_reducible apply State.raise_keeps (covers_trans rfl hL)
    | with_reducible apply State.finish_keeps (covers_trans rfl hL)
    | with_reducible apply foldl_keeps
    | (intro _; intros; try dsimp only)
    | split
    | (with_reducible apply State.mk_keeps <;> first | exact Or.inr (mem_of_covers hL rfl) | with_reducible exact Or.inl rfl | skip)

theorem doDictionaryLoad_keeps {ring : Nat} {s : State} {s0 : State} {L : List Field} (hL : covers [.regs, .counters, .seq, .seqReported, .events, .rings, .pools, .intake, .out] L = true) (h : s0.same L s) : s0.same L (doDictionaryLoad ring s) := by
  unfold doDictionaryLoad
  try dsimp only
  repeat' first
    | with_reducible assumption
    | with_reducible apply State.finish_keeps (covers_trans rfl hL)
    | with_reducible apply State.refuseDict_keeps (covers_trans rfl hL)
    | with_reducible apply State.releaseSlot_keeps (covers_trans rfl hL)
    | with_reducible apply State.consumeSlot_keeps (covers_trans rfl hL)
    | with_reducible apply State.modIntake_keeps (covers_trans rfl hL)
    | with_reducible apply State.beginDesc_keeps (covers_trans rfl hL)
    | with_reducible apply foldl_keeps
    | (intro _; intros; try dsimp only)
    | split
    | (with_reducible apply State.mk_keeps <;> first | exact Or.inr (mem_of_covers hL rfl) | with_reducible exact Or.inl rfl | skip)

theorem doDictionaryLoadDone_keeps {unit : Nat} {bank : Nat} {s : State} {s0 : State} {L : List Field} (hL : covers [.regs, .seq, .seqReported, .events, .rings, .pools, .intake, .out] L = true) (h : s0.same L s) : s0.same L (doDictionaryLoadDone unit bank s) := by
  unfold doDictionaryLoadDone
  try dsimp only
  repeat' first
    | with_reducible assumption
    | with_reducible apply State.modIntake_keeps (covers_trans rfl hL)
    | with_reducible apply State.releaseSlot_keeps (covers_trans rfl hL)
    | with_reducible apply State.set_keeps (covers_trans rfl hL)
    | with_reducible apply State.finish_keeps (covers_trans rfl hL)
    | with_reducible apply State.raise_keeps (covers_trans rfl hL)
    | with_reducible apply foldl_keeps
    | (intro _; intros; try dsimp only)
    | split
    | (with_reducible apply State.mk_keeps <;> first | exact Or.inr (mem_of_covers hL rfl) | with_reducible exact Or.inl rfl | skip)

theorem doDictionaryActivate_keeps {ring : Nat} {s : State} {s0 : State} {L : List Field} (hL : covers [.rings, .parts] L = true) (h : s0.same L s) : s0.same L (doDictionaryActivate ring s) := by
  unfold doDictionaryActivate
  try dsimp only
  repeat' first
    | with_reducible assumption
    | with_reducible apply State.finish_keeps (covers_trans rfl hL)
    | with_reducible apply State.request_keeps (covers_trans rfl hL)
    | with_reducible apply foldl_keeps
    | (intro _; intros; try dsimp only)
    | split
    | (with_reducible apply State.mk_keeps <;> first | exact Or.inr (mem_of_covers hL rfl) | with_reducible exact Or.inl rfl | skip)

theorem doDictionaryActivateApply_keeps {p : Nat} {s : State} {s0 : State} {L : List Field} (hL : covers [.regs, .seq, .seqReported, .events, .rings, .parts, .intake] L = true) (h : s0.same L s) : s0.same L (doDictionaryActivateApply p s) := by
  unfold doDictionaryActivateApply
  try dsimp only
  repeat' first
    | with_reducible assumption
    | with_reducible apply State.dropRequest_keeps (covers_trans rfl hL)
    | with_reducible apply State.refuseDict_keeps (covers_trans rfl hL)
    | with_reducible apply State.raise_keeps (covers_trans rfl hL)
    | with_reducible apply State.finish_keeps (covers_trans rfl hL)
    | with_reducible apply State.modIntake_keeps (covers_trans rfl hL)
    | with_reducible apply foldl_keeps
    | (intro _; intros; try dsimp only)
    | split
    | (with_reducible apply State.mk_keeps <;> first | exact Or.inr (mem_of_covers hL rfl) | with_reducible exact Or.inl rfl | skip)

theorem doEmitOutput_keeps {core : Nat} {s : State} {s0 : State} {L : List Field} (hL : covers [.regs, .counters, .seq, .seqReported, .events, .mem, .tags, .pools, .parts, .cores, .devQueues, .ports, .out, .freeCtr] L = true) (h : s0.same L s) : s0.same L (doEmitOutput core s) := by
  unfold doEmitOutput
  try dsimp only
  repeat' first
    | with_reducible assumption
    | with_reducible apply State.endEmpty_keeps (covers_trans rfl hL)
    | with_reducible apply State.readErrors_keeps (covers_trans rfl hL)
    | with_reducible apply State.endTask_keeps (covers_trans rfl hL)
    | with_reducible apply State.emit_keeps (covers_trans rfl hL)
    | with_reducible apply foldl_keeps
    | (intro _; intros; try dsimp only)
    | split
    | (with_reducible apply State.mk_keeps <;> first | exact Or.inr (mem_of_covers hL rfl) | with_reducible exact Or.inl rfl | skip)

theorem doJoin_keeps {core : Nat} {s : State} {s0 : State} {L : List Field} (hL : covers [.regs, .counters, .seq, .seqReported, .events, .parts, .cores, .devQueues, .freeCtr] L = true) (h : s0.same L s) : s0.same L (doJoin core s) := by
  unfold doJoin
  try dsimp only
  repeat' first
    | with_reducible assumption
    | with_reducible apply State.endTask_keeps (covers_trans rfl hL)
    | with_reducible apply foldl_keeps
    | (intro _; intros; try dsimp only)
    | split
    | (with_reducible apply State.mk_keeps <;> first | exact Or.inr (mem_of_covers hL rfl) | with_reducible exact Or.inl rfl | skip)

end Sys2Proof.Machine
end

