-- ==== Sys2Proof/Laws/Keeps7.lean ====
section
/-! SUPPORT. The fields an operation leaves alone, for the operations in Power.lean, Resets.lean. -/

set_option Elab.async false

namespace Sys2Proof.Machine

theorem State.modPower_keeps {s : State} {f : Power → Power} {s0 : State} {L : List Field} (hL : covers [.power] L = true) (h : s0.same L s) : s0.same L (State.modPower s f) := by
  unfold State.modPower
  try dsimp only
  repeat' first
    | with_reducible assumption
    | with_reducible apply foldl_keeps
    | (intro _; intros; try dsimp only)
    | split
    | (with_reducible apply State.mk_keeps <;> first | exact Or.inr (mem_of_covers hL rfl) | with_reducible exact Or.inl rfl | skip)

theorem State.powerOnce_keeps {s : State} {e : EvKind} {u : UnitId} {d : Detail} {s0 : State} {L : List Field} (hL : covers [.regs, .seq, .seqReported, .events, .power] L = true) (h : s0.same L s) : s0.same L (State.powerOnce s e u d) := by
  unfold State.powerOnce
  try dsimp only
  repeat' first
    | with_reducible assumption
    | with_reducible apply State.raise_keeps (covers_trans rfl hL)
    | with_reducible apply State.modPower_keeps (covers_trans rfl hL)
    | with_reducible apply foldl_keeps
    | (intro _; intros; try dsimp only)
    | split
    | (with_reducible apply State.mk_keeps <;> first | exact Or.inr (mem_of_covers hL rfl) | with_reducible exact Or.inl rfl | skip)

theorem State.noteReadings_keeps {s : State} {r : PowerReadings} {s0 : State} {L : List Field} (hL : covers [.regs, .power] L = true) (h : s0.same L s) : s0.same L (State.noteReadings s r) := by
  unfold State.noteReadings
  try dsimp only
  repeat' first
    | with_reducible assumption
    | with_reducible apply State.set_keeps (covers_trans rfl hL)
    | with_reducible apply State.modPower_keeps (covers_trans rfl hL)
    | with_reducible apply foldl_keeps
    | (intro _; intros; try dsimp only)
    | split
    | (with_reducible apply State.mk_keeps <;> first | exact Or.inr (mem_of_covers hL rfl) | with_reducible exact Or.inl rfl | skip)

theorem State.raiseThrottle_keeps {s : State} {l : List (Nat × Int)} {s0 : State} {L : List Field} (hL : covers [.regs, .seq, .seqReported, .events, .power] L = true) (h : s0.same L s) : s0.same L (State.raiseThrottle s l) := by
  unfold State.raiseThrottle
  try dsimp only
  repeat' first
    | with_reducible assumption
    | with_reducible apply State.powerOnce_keeps (covers_trans rfl hL)
    | with_reducible apply foldl_keeps
    | (intro _; intros; try dsimp only)
    | split
    | (with_reducible apply State.mk_keeps <;> first | exact Or.inr (mem_of_covers hL rfl) | with_reducible exact Or.inl rfl | skip)

theorem State.stepLimits_keeps {s : State} {r : PowerReadings} {s0 : State} {L : List Field} (hL : covers [.regs, .counters, .seq, .seqReported, .events, .power] L = true) (h : s0.same L s) : s0.same L (State.stepLimits s r) := by
  unfold State.stepLimits
  try dsimp only
  repeat' first
    | with_reducible assumption
    | with_reducible apply State.modPower_keeps (covers_trans rfl hL)
    | with_reducible apply State.raiseThrottle_keeps (covers_trans rfl hL)
    | with_reducible apply State.count_keeps (covers_trans rfl hL)
    | with_reducible apply foldl_keeps
    | (intro _; intros; try dsimp only)
    | split
    | (with_reducible apply State.mk_keeps <;> first | exact Or.inr (mem_of_covers hL rfl) | with_reducible exact Or.inl rfl | skip)

theorem State.stepEmergency_keeps {s : State} {r : PowerReadings} {s0 : State} {L : List Field} (hL : covers [.regs, .power] L = true) (h : s0.same L s) : s0.same L (State.stepEmergency s r) := by
  unfold State.stepEmergency
  try dsimp only
  repeat' first
    | with_reducible assumption
    | with_reducible apply State.set_keeps (covers_trans rfl hL)
    | with_reducible apply State.modPower_keeps (covers_trans rfl hL)
    | with_reducible apply foldl_keeps
    | (intro _; intros; try dsimp only)
    | split
    | (with_reducible apply State.mk_keeps <;> first | exact Or.inr (mem_of_covers hL rfl) | with_reducible exact Or.inl rfl | skip)

theorem State.moveClock_keeps {s : State} {target : Nat} {s0 : State} {L : List Field} (hL : covers [.regs, .counters, .seq, .seqReported, .events, .tally] L = true) (h : s0.same L s) : s0.same L (State.moveClock s target) := by
  unfold State.moveClock
  try dsimp only
  repeat' first
    | with_reducible assumption
    | with_reducible apply State.set_keeps (covers_trans rfl hL)
    | with_reducible apply State.count_keeps (covers_trans rfl hL)
    | with_reducible apply State.raise_keeps (covers_trans rfl hL)
    | with_reducible apply foldl_keeps
    | (intro _; intros; try dsimp only)
    | split
    | (with_reducible apply State.mk_keeps <;> first | exact Or.inr (mem_of_covers hL rfl) | with_reducible exact Or.inl rfl | skip)

theorem State.noteCap_keeps {s : State} {r : PowerReadings} {s0 : State} {L : List Field} (hL : covers [.regs, .counters, .seq, .seqReported, .events, .power] L = true) (h : s0.same L s) : s0.same L (State.noteCap s r) := by
  unfold State.noteCap
  try dsimp only
  repeat' first
    | with_reducible assumption
    | with_reducible apply State.powerOnce_keeps (covers_trans rfl hL)
    | with_reducible apply State.set_keeps (covers_trans rfl hL)
    | with_reducible apply State.count_keeps (covers_trans rfl hL)
    | with_reducible apply foldl_keeps
    | (intro _; intros; try dsimp only)
    | split
    | (with_reducible apply State.mk_keeps <;> first | exact Or.inr (mem_of_covers hL rfl) | with_reducible exact Or.inl rfl | skip)

theorem doThrottleEval_keeps {r : PowerReadings} {s : State} {s0 : State} {L : List Field} (hL : covers [.regs, .counters, .seq, .seqReported, .events, .tally, .power] L = true) (h : s0.same L s) : s0.same L (doThrottleEval r s) := by
  unfold doThrottleEval
  try dsimp only
  repeat' first
    | with_reducible assumption
    | with_reducible apply State.stepEmergency_keeps (covers_trans rfl hL)
    | with_reducible apply State.stepLimits_keeps (covers_trans rfl hL)
    | with_reducible apply State.noteCap_keeps (covers_trans rfl hL)
    | with_reducible apply State.noteReadings_keeps (covers_trans rfl hL)
    | with_reducible apply State.moveClock_keeps (covers_trans rfl hL)
    | with_reducible apply State.set_keeps (covers_trans rfl hL)
    | with_reducible apply foldl_keeps
    | (intro _; intros; try dsimp only)
    | split
    | (with_reducible apply State.mk_keeps <;> first | exact Or.inr (mem_of_covers hL rfl) | with_reducible exact Or.inl rfl | skip)

theorem State.supplyEvent_keeps {s : State} {s0 : State} {L : List Field} (hL : covers [.tally] L = true) (h : s0.same L s) : s0.same L (State.supplyEvent s) := by
  unfold State.supplyEvent
  try dsimp only
  repeat' first
    | with_reducible assumption
    | with_reducible apply foldl_keeps
    | (intro _; intros; try dsimp only)
    | split
    | (with_reducible apply State.mk_keeps <;> first | exact Or.inr (mem_of_covers hL rfl) | with_reducible exact Or.inl rfl | skip)

theorem doBusDroop_keeps {mv : Nat} {s : State} {s0 : State} {L : List Field} (hL : covers [.regs, .counters, .seq, .seqReported, .events, .tally] L = true) (h : s0.same L s) : s0.same L (doBusDroop mv s) := by
  unfold doBusDroop
  try dsimp only
  repeat' first
    | with_reducible assumption
    | with_reducible apply State.supplyEvent_keeps (covers_trans rfl hL)
    | with_reducible apply State.raise_keeps (covers_trans rfl hL)
    | with_reducible apply State.count_keeps (covers_trans rfl hL)
    | with_reducible apply State.set_keeps (covers_trans rfl hL)
    | with_reducible apply foldl_keeps
    | (intro _; intros; try dsimp only)
    | split
    | (with_reducible apply State.mk_keeps <;> first | exact Or.inr (mem_of_covers hL rfl) | with_reducible exact Or.inl rfl | skip)

theorem doBusNormal_keeps {mv : Nat} {s : State} {s0 : State} {L : List Field} (hL : covers [.regs] L = true) (h : s0.same L s) : s0.same L (doBusNormal mv s) := by
  unfold doBusNormal
  try dsimp only
  repeat' first
    | with_reducible assumption
    | with_reducible apply State.set_keeps (covers_trans rfl hL)
    | with_reducible apply foldl_keeps
    | (intro _; intros; try dsimp only)
    | split
    | (with_reducible apply State.mk_keeps <;> first | exact Or.inr (mem_of_covers hL rfl) | with_reducible exact Or.inl rfl | skip)

theorem doBusLow_keeps {mv : Nat} {s : State} {s0 : State} {L : List Field} (hL : covers [.regs, .counters, .seq, .seqReported, .events, .tally] L = true) (h : s0.same L s) : s0.same L (doBusLow mv s) := by
  unfold doBusLow
  try dsimp only
  repeat' first
    | with_reducible assumption
    | with_reducible apply State.supplyEvent_keeps (covers_trans rfl hL)
    | with_reducible apply State.raise_keeps (covers_trans rfl hL)
    | with_reducible apply State.count_keeps (covers_trans rfl hL)
    | with_reducible apply State.set_keeps (covers_trans rfl hL)
    | with_reducible apply foldl_keeps
    | (intro _; intros; try dsimp only)
    | split
    | (with_reducible apply State.mk_keeps <;> first | exact Or.inr (mem_of_covers hL rfl) | with_reducible exact Or.inl rfl | skip)

theorem doBusLowRecover_keeps {mv : Nat} {s : State} {s0 : State} {L : List Field} (hL : covers [.regs, .power] L = true) (h : s0.same L s) : s0.same L (doBusLowRecover mv s) := by
  unfold doBusLowRecover
  try dsimp only
  repeat' first
    | with_reducible assumption
    | with_reducible apply State.set_keeps (covers_trans rfl hL)
    | with_reducible apply State.modPower_keeps (covers_trans rfl hL)
    | with_reducible apply foldl_keeps
    | (intro _; intros; try dsimp only)
    | split
    | (with_reducible apply State.mk_keeps <;> first | exact Or.inr (mem_of_covers hL rfl) | with_reducible exact Or.inl rfl | skip)

theorem doBusSurge_keeps {mv : Nat} {durationUs : Nat} {s : State} {s0 : State} {L : List Field} (hL : covers [.regs, .counters, .seq, .seqReported, .events, .tally] L = true) (h : s0.same L s) : s0.same L (doBusSurge mv durationUs s) := by
  unfold doBusSurge
  try dsimp only
  repeat' first
    | with_reducible assumption
    | with_reducible apply State.supplyEvent_keeps (covers_trans rfl hL)
    | with_reducible apply State.raise_keeps (covers_trans rfl hL)
    | with_reducible apply State.count_keeps (covers_trans rfl hL)
    | with_reducible apply foldl_keeps
    | (intro _; intros; try dsimp only)
    | split
    | (with_reducible apply State.mk_keeps <;> first | exact Or.inr (mem_of_covers hL rfl) | with_reducible exact Or.inl rfl | skip)

theorem doCoolantCheck_keeps {flow : Nat} {inlet : Int} {s : State} {s0 : State} {L : List Field} (hL : covers [.regs, .seq, .seqReported, .events, .power] L = true) (h : s0.same L s) : s0.same L (doCoolantCheck flow inlet s) := by
  unfold doCoolantCheck
  try dsimp only
  repeat' first
    | with_reducible assumption
    | with_reducible apply State.set_keeps (covers_trans rfl hL)
    | with_reducible apply State.powerOnce_keeps (covers_trans rfl hL)
    | with_reducible apply foldl_keeps
    | (intro _; intros; try dsimp only)
    | split
    | (with_reducible apply State.mk_keeps <;> first | exact Or.inr (mem_of_covers hL rfl) | with_reducible exact Or.inl rfl | skip)

theorem doPowerStateEntry_keeps {unit : PowerUnit} {idleNs : Nat} {s : State} {s0 : State} {L : List Field} (hL : covers [.regs, .counters, .seq, .seqReported, .events, .cores, .power] L = true) (h : s0.same L s) : s0.same L (doPowerStateEntry unit idleNs s) := by
  unfold doPowerStateEntry
  try dsimp only
  repeat' first
    | with_reducible assumption
    | with_reducible apply State.setSleep_keeps (covers_trans rfl hL)
    | with_reducible apply State.count_keeps (covers_trans rfl hL)
    | with_reducible apply State.modCore_keeps (covers_trans rfl hL)
    | with_reducible apply foldl_keeps
    | (intro _; intros; try dsimp only)
    | split
    | (with_reducible apply State.mk_keeps <;> first | exact Or.inr (mem_of_covers hL rfl) | with_reducible exact Or.inl rfl | skip)

theorem doPowerStateExit_keeps {unit : PowerUnit} {unplanned : Bool} {s : State} {s0 : State} {L : List Field} (hL : covers [.power] L = true) (h : s0.same L s) : s0.same L (doPowerStateExit unit unplanned s) := by
  unfold doPowerStateExit
  try dsimp only
  repeat' first
    | with_reducible assumption
    | with_reducible apply State.setSleep_keeps (covers_trans rfl hL)
    | with_reducible apply foldl_keeps
    | (intro _; intros; try dsimp only)
    | split
    | (with_reducible apply State.mk_keeps <;> first | exact Or.inr (mem_of_covers hL rfl) | with_reducible exact Or.inl rfl | skip)

theorem State.modTrust_keeps {s : State} {f : Trust → Trust} {s0 : State} {L : List Field} (hL : covers [.trust] L = true) (h : s0.same L s) : s0.same L (State.modTrust s f) := by
  unfold State.modTrust
  try dsimp only
  repeat' first
    | with_reducible assumption
    | with_reducible apply foldl_keeps
    | (intro _; intros; try dsimp only)
    | split
    | (with_reducible apply State.mk_keeps <;> first | exact Or.inr (mem_of_covers hL rfl) | with_reducible exact Or.inl rfl | skip)

theorem State.sessionObject_keeps {s : State} {x : Session} {s0 : State} {L : List Field} (hL : covers [.freeCtr] L = true) (h : s0.same L s) : s0.same L (State.sessionObject s x).2 := by
  unfold State.sessionObject
  try dsimp only
  repeat' first
    | with_reducible assumption
    | with_reducible apply State.takeFree_keeps (covers_trans rfl hL)
    | with_reducible apply foldl_keeps
    | (intro _; intros; try dsimp only)
    | split
    | (with_reducible apply State.mk_keeps <;> first | exact Or.inr (mem_of_covers hL rfl) | with_reducible exact Or.inl rfl | skip)

theorem State.raiseClosed_keeps {s : State} {x : Session} {cause : Nat} {s0 : State} {L : List Field} (hL : covers [.regs, .seq, .seqReported, .events, .freeCtr] L = true) (h : s0.same L s) : s0.same L (State.raiseClosed s x cause) := by
  unfold State.raiseClosed
  try dsimp only
  repeat' first
    | with_reducible assumption
    | with_reducible apply State.sessionObject_keeps (covers_trans rfl hL)
    | with_reducible apply State.raiseFor_keeps (covers_trans rfl hL)
    | with_reducible apply foldl_keeps
    | (intro _; intros; try dsimp only)
    | split
    | (with_reducible apply State.mk_keeps <;> first | exact Or.inr (mem_of_covers hL rfl) | with_reducible exact Or.inl rfl | skip)

theorem State.resetModule_keeps {s : State} {cause : Nat} {s0 : State} {L : List Field} (hL : covers [.regs, .counters, .coarse, .latch, .held, .time, .seq, .seqReported, .stamped, .events, .mem, .staging, .neg, .tags, .negTags, .rings, .pools, .plans, .parts, .cores, .tokens, .credits, .layers, .shapes, .searches, .contexts, .pages, .devDraws, .devQueues, .ports, .tally, .d2dDown, .intake, .power, .trust, .freeCtr] L = true) (h : s0.same L s) : s0.same L (State.resetModule s cause) := by
  unfold State.resetModule
  try dsimp only
  repeat' first
    | with_reducible assumption
    | with_reducible apply State.raiseClosed_keeps (covers_trans rfl hL)
    | with_reducible apply State.set_keeps (covers_trans rfl hL)
    | with_reducible apply foldl_keeps
    | (intro _; intros; try dsimp only)
    | split
    | (with_reducible apply State.mk_keeps <;> first | exact Or.inr (mem_of_covers hL rfl) | with_reducible exact Or.inl rfl | skip)

theorem State.destroySeal_keeps {s : State} {s0 : State} {L : List Field} (hL : covers [.regs, .neg, .negTags, .trust, .wards] L = true) (h : s0.same L s) : s0.same L (State.destroySeal s) := by
  unfold State.destroySeal
  try dsimp only
  repeat' first
    | with_reducible assumption
    | with_reducible apply State.modTrust_keeps (covers_trans rfl hL)
    | with_reducible apply State.set_keeps (covers_trans rfl hL)
    | with_reducible apply foldl_keeps
    | (intro _; intros; try dsimp only)
    | split
    | (with_reducible apply State.mk_keeps <;> first | exact Or.inr (mem_of_covers hL rfl) | with_reducible exact Or.inl rfl | skip)

theorem State.eraseFlash_keeps {s : State} {s0 : State} {L : List Field} (hL : covers [.regs, .retired] L = true) (h : s0.same L s) : s0.same L (State.eraseFlash s) := by
  unfold State.eraseFlash
  try dsimp only
  repeat' first
    | with_reducible assumption
    | with_reducible apply State.set_keeps (covers_trans rfl hL)
    | with_reducible apply State.setPair_keeps (covers_trans rfl hL)
    | with_reducible apply foldl_keeps
    | (intro _; intros; try dsimp only)
    | split
    | (with_reducible apply State.mk_keeps <;> first | exact Or.inr (mem_of_covers hL rfl) | with_reducible exact Or.inl rfl | skip)

theorem State.transition_keeps {s : State} {new : Nat} {s0 : State} {L : List Field} (hL : covers [.regs, .counters, .coarse, .latch, .held, .time, .seq, .seqReported, .stamped, .events, .mem, .staging, .neg, .tags, .negTags, .rings, .pools, .plans, .parts, .cores, .tokens, .credits, .layers, .shapes, .searches, .contexts, .pages, .devDraws, .devQueues, .ports, .tally, .retired, .d2dDown, .intake, .power, .trust, .wards, .freeCtr] L = true) (h : s0.same L s) : s0.same L (State.transition s new) := by
  unfold State.transition
  try dsimp only
  repeat' first
    | with_reducible assumption
    | with_reducible apply State.modTrust_keeps (covers_trans rfl hL)
    | with_reducible apply State.destroySeal_keeps (covers_trans rfl hL)
    | with_reducible apply State.set_keeps (covers_trans rfl hL)
    | with_reducible apply State.eraseFlash_keeps (covers_trans rfl hL)
    | with_reducible apply State.resetModule_keeps (covers_trans rfl hL)
    | with_reducible apply State.raise_keeps (covers_trans rfl hL)
    | with_reducible apply foldl_keeps
    | (intro _; intros; try dsimp only)
    | split
    | (with_reducible apply State.mk_keeps <;> first | exact Or.inr (mem_of_covers hL rfl) | with_reducible exact Or.inl rfl | skip)

theorem State.reportRecord_keeps {s : State} {s0 : State} {L : List Field} (hL : covers [.regs, .seq, .seqReported, .events] L = true) (h : s0.same L s) : s0.same L (State.reportRecord s) := by
  unfold State.reportRecord
  try dsimp only
  repeat' first
    | with_reducible assumption
    | with_reducible apply State.raise_keeps (covers_trans rfl hL)
    | with_reducible apply foldl_keeps
    | (intro _; intros; try dsimp only)
    | split
    | (with_reducible apply State.mk_keeps <;> first | exact Or.inr (mem_of_covers hL rfl) | with_reducible exact Or.inl rfl | skip)

theorem State.markCore_keeps {s : State} {c : Nat} {failed : Bool} {s0 : State} {L : List Field} (hL : covers [.regs] L = true) (h : s0.same L s) : s0.same L (State.markCore s c failed) := by
  unfold State.markCore
  try dsimp only
  repeat' first
    | with_reducible assumption
    | with_reducible apply State.set_keeps (covers_trans rfl hL)
    | with_reducible apply foldl_keeps
    | (intro _; intros; try dsimp only)
    | split
    | (with_reducible apply State.mk_keeps <;> first | exact Or.inr (mem_of_covers hL rfl) | with_reducible exact Or.inl rfl | skip)

theorem State.startCalibration_keeps {s : State} {full : Bool} {s0 : State} {L : List Field} (hL : covers [.trust, .freeCtr] L = true) (h : s0.same L s) : s0.same L (State.startCalibration s full) := by
  unfold State.startCalibration
  try dsimp only
  repeat' first
    | with_reducible assumption
    | with_reducible apply State.useFree_keeps (covers_trans rfl hL)
    | with_reducible apply State.modTrust_keeps (covers_trans rfl hL)
    | with_reducible apply foldl_keeps
    | (intro _; intros; try dsimp only)
    | split
    | (with_reducible apply State.mk_keeps <;> first | exact Or.inr (mem_of_covers hL rfl) | with_reducible exact Or.inl rfl | skip)

theorem State.startTest_keeps {s : State} {x : StartFacts} {s0 : State} {L : List Field} (hL : covers [.regs, .seq, .seqReported, .events, .trust, .freeCtr] L = true) (h : s0.same L s) : s0.same L (State.startTest s x) := by
  unfold State.startTest
  try dsimp only
  repeat' first
    | with_reducible assumption
    | with_reducible apply State.set_keeps (covers_trans rfl hL)
    | with_reducible apply State.reportRecord_keeps (covers_trans rfl hL)
    | with_reducible apply State.raise_keeps (covers_trans rfl hL)
    | with_reducible apply State.markCore_keeps (covers_trans rfl hL)
    | with_reducible apply State.startCalibration_keeps (covers_trans rfl hL)
    | with_reducible apply foldl_keeps
    | (intro _; intros; try dsimp only)
    | split
    | (with_reducible apply State.mk_keeps <;> first | exact Or.inr (mem_of_covers hL rfl) | with_reducible exact Or.inl rfl | skip)

theorem State.startInventory_keeps {s : State} {x : StartFacts} {s0 : State} {L : List Field} (hL : covers [.regs, .seq, .seqReported, .events] L = true) (h : s0.same L s) : s0.same L (State.startInventory s x) := by
  unfold State.startInventory
  try dsimp only
  repeat' first
    | with_reducible assumption
    | with_reducible apply State.set_keeps (covers_trans rfl hL)
    | with_reducible apply State.raise_keeps (covers_trans rfl hL)
    | with_reducible apply foldl_keeps
    | (intro _; intros; try dsimp only)
    | split
    | (with_reducible apply State.mk_keeps <;> first | exact Or.inr (mem_of_covers hL rfl) | with_reducible exact Or.inl rfl | skip)

theorem State.startImage_keeps {s : State} {s0 : State} {L : List Field} (hL : covers [.regs] L = true) (h : s0.same L s) : s0.same L (State.startImage s) := by
  unfold State.startImage
  try dsimp only
  repeat' first
    | with_reducible assumption
    | with_reducible apply State.set_keeps (covers_trans rfl hL)
    | with_reducible apply State.setPair_keeps (covers_trans rfl hL)
    | with_reducible apply foldl_keeps
    | (intro _; intros; try dsimp only)
    | split
    | (with_reducible apply State.mk_keeps <;> first | exact Or.inr (mem_of_covers hL rfl) | with_reducible exact Or.inl rfl | skip)

theorem State.bootDone_keeps {s : State} {cause : Nat} {s0 : State} {L : List Field} (hL : covers [.regs, .seq, .seqReported, .events] L = true) (h : s0.same L s) : s0.same L (State.bootDone s cause) := by
  unfold State.bootDone
  try dsimp only
  repeat' first
    | with_reducible assumption
    | with_reducible apply State.raise_keeps (covers_trans rfl hL)
    | with_reducible apply State.set_keeps (covers_trans rfl hL)
    | with_reducible apply State.startImage_keeps (covers_trans rfl hL)
    | with_reducible apply foldl_keeps
    | (intro _; intros; try dsimp only)
    | split
    | (with_reducible apply State.mk_keeps <;> first | exact Or.inr (mem_of_covers hL rfl) | with_reducible exact Or.inl rfl | skip)

theorem State.startUp_keeps {s : State} {x : StartFacts} {s0 : State} {L : List Field} (hL : covers [.regs, .counters, .coarse, .latch, .held, .time, .seq, .seqReported, .stamped, .events, .mem, .staging, .neg, .tags, .negTags, .rings, .pools, .plans, .parts, .cores, .tokens, .credits, .layers, .shapes, .searches, .contexts, .pages, .devDraws, .devQueues, .ports, .tally, .retired, .d2dDown, .intake, .power, .trust, .wards, .freeCtr] L = true) (h : s0.same L s) : s0.same L (State.startUp s x) := by
  unfold State.startUp
  try dsimp only
  repeat' first
    | with_reducible assumption
    | with_reducible apply State.modTrust_keeps (covers_trans rfl hL)
    | with_reducible apply State.set_keeps (covers_trans rfl hL)
    | with_reducible apply State.raise_keeps (covers_trans rfl hL)
    | with_reducible apply State.transition_keeps (covers_trans rfl hL)
    | with_reducible apply State.startInventory_keeps (covers_trans rfl hL)
    | with_reducible apply State.startTest_keeps (covers_trans rfl hL)
    | with_reducible apply State.bootDone_keeps (covers_trans rfl hL)
    | with_reducible apply foldl_keeps
    | (intro _; intros; try dsimp only)
    | split
    | (with_reducible apply State.mk_keeps <;> first | exact Or.inr (mem_of_covers hL rfl) | with_reducible exact Or.inl rfl | skip)

theorem doStartUp_keeps {start : StartFacts} {s : State} {s0 : State} {L : List Field} (hL : covers [.regs, .counters, .coarse, .latch, .held, .time, .seq, .seqReported, .stamped, .events, .mem, .staging, .neg, .tags, .negTags, .rings, .pools, .plans, .parts, .cores, .tokens, .credits, .layers, .shapes, .searches, .contexts, .pages, .devDraws, .devQueues, .ports, .tally, .retired, .d2dDown, .intake, .power, .trust, .wards, .freeCtr] L = true) (h : s0.same L s) : s0.same L (doStartUp start s) := by
  unfold doStartUp
  try dsimp only
  repeat' first
    | with_reducible assumption
    | with_reducible apply State.startUp_keeps (covers_trans rfl hL)
    | with_reducible apply foldl_keeps
    | (intro _; intros; try dsimp only)
    | split
    | (with_reducible apply State.mk_keeps <;> first | exact Or.inr (mem_of_covers hL rfl) | with_reducible exact Or.inl rfl | skip)

theorem doWarmReset_keeps {value : Word} {viaPldm : Bool} {start : StartFacts} {s : State} {s0 : State} {L : List Field} (hL : covers [.regs, .counters, .coarse, .latch, .held, .time, .seq, .seqReported, .stamped, .events, .mem, .staging, .neg, .tags, .negTags, .rings, .pools, .plans, .parts, .cores, .tokens, .credits, .layers, .shapes, .searches, .contexts, .pages, .devDraws, .devQueues, .ports, .tally, .retired, .d2dDown, .intake, .power, .trust, .wards, .freeCtr] L = true) (h : s0.same L s) : s0.same L (doWarmReset value viaPldm start s) := by
  unfold doWarmReset
  try dsimp only
  repeat' first
    | with_reducible assumption
    | with_reducible apply State.startUp_keeps (covers_trans rfl hL)
    | with_reducible apply State.resetModule_keeps (covers_trans rfl hL)
    | with_reducible apply State.raise_keeps (covers_trans rfl hL)
    | with_reducible apply foldl_keeps
    | (intro _; intros; try dsimp only)
    | split
    | (with_reducible apply State.mk_keeps <;> first | exact Or.inr (mem_of_covers hL rfl) | with_reducible exact Or.inl rfl | skip)

theorem doWatchdogReset_keeps {start : StartFacts} {s : State} {s0 : State} {L : List Field} (hL : covers [.regs, .counters, .coarse, .latch, .held, .time, .seq, .seqReported, .stamped, .events, .mem, .staging, .neg, .tags, .negTags, .rings, .pools, .plans, .parts, .cores, .tokens, .credits, .layers, .shapes, .searches, .contexts, .pages, .devDraws, .devQueues, .ports, .tally, .retired, .d2dDown, .intake, .power, .trust, .wards, .freeCtr] L = true) (h : s0.same L s) : s0.same L (doWatchdogReset start s) := by
  unfold doWatchdogReset
  try dsimp only
  repeat' first
    | with_reducible assumption
    | with_reducible apply State.startUp_keeps (covers_trans rfl hL)
    | with_reducible apply State.resetModule_keeps (covers_trans rfl hL)
    | with_reducible apply foldl_keeps
    | (intro _; intros; try dsimp only)
    | split
    | (with_reducible apply State.mk_keeps <;> first | exact Or.inr (mem_of_covers hL rfl) | with_reducible exact Or.inl rfl | skip)

theorem doHostPortReset_keeps {cause : Nat} {s : State} {s0 : State} {L : List Field} (hL : covers [.regs, .seq, .seqReported, .events, .rings] L = true) (h : s0.same L s) : s0.same L (doHostPortReset cause s) := by
  unfold doHostPortReset
  try dsimp only
  repeat' first
    | with_reducible assumption
    | with_reducible apply State.raise_keeps (covers_trans rfl hL)
    | with_reducible apply State.resetRing_keeps (covers_trans rfl hL)
    | with_reducible apply foldl_keeps
    | (intro _; intros; try dsimp only)
    | split
    | (with_reducible apply State.mk_keeps <;> first | exact Or.inr (mem_of_covers hL rfl) | with_reducible exact Or.inl rfl | skip)

theorem doNegStoreWipeDone_keeps {s : State} {s0 : State} {L : List Field} (hL : covers [.regs] L = true) (h : s0.same L s) : s0.same L (doNegStoreWipeDone s) := by
  unfold doNegStoreWipeDone
  try dsimp only
  repeat' first
    | with_reducible assumption
    | with_reducible apply State.set_keeps (covers_trans rfl hL)
    | with_reducible apply foldl_keeps
    | (intro _; intros; try dsimp only)
    | split
    | (with_reducible apply State.mk_keeps <;> first | exact Or.inr (mem_of_covers hL rfl) | with_reducible exact Or.inl rfl | skip)

theorem State.putRecord_keeps {s : State} {r : BistRecord} {s0 : State} {L : List Field} (hL : covers [.regs, .trust] L = true) (h : s0.same L s) : s0.same L (State.putRecord s r) := by
  unfold State.putRecord
  try dsimp only
  repeat' first
    | with_reducible assumption
    | with_reducible apply State.modTrust_keeps (covers_trans rfl hL)
    | with_reducible apply State.set_keeps (covers_trans rfl hL)
    | with_reducible apply State.setReg_keeps (covers_trans rfl hL)
    | with_reducible apply foldl_keeps
    | (intro _; intros; try dsimp only)
    | split
    | (with_reducible apply State.mk_keeps <;> first | exact Or.inr (mem_of_covers hL rfl) | with_reducible exact Or.inl rfl | skip)

theorem State.toFlash_keeps {s : State} {rs : List EventRec} {s0 : State} {L : List Field} (hL : covers [.events] L = true) (h : s0.same L s) : s0.same L (State.toFlash s rs) := by
  unfold State.toFlash
  try dsimp only
  repeat' first
    | with_reducible assumption
    | with_reducible apply foldl_keeps
    | (intro _; intros; try dsimp only)
    | split
    | (with_reducible apply State.mk_keeps <;> first | exact Or.inr (mem_of_covers hL rfl) | with_reducible exact Or.inl rfl | skip)

theorem State.saveLog_keeps {s : State} {s0 : State} {L : List Field} (hL : covers [.events] L = true) (h : s0.same L s) : s0.same L (State.saveLog s) := by
  unfold State.saveLog
  try dsimp only
  repeat' first
    | with_reducible assumption
    | with_reducible apply State.toFlash_keeps (covers_trans rfl hL)
    | with_reducible apply foldl_keeps
    | (intro _; intros; try dsimp only)
    | split
    | (with_reducible apply State.mk_keeps <;> first | exact Or.inr (mem_of_covers hL rfl) | with_reducible exact Or.inl rfl | skip)

theorem State.savePath_keeps {s : State} {s0 : State} {L : List Field} (hL : covers [.events] L = true) (h : s0.same L s) : s0.same L (State.savePath s) := by
  unfold State.savePath
  try dsimp only
  repeat' first
    | with_reducible assumption
    | with_reducible apply State.toFlash_keeps (covers_trans rfl hL)
    | with_reducible apply foldl_keeps
    | (intro _; intros; try dsimp only)
    | split
    | (with_reducible apply State.mk_keeps <;> first | exact Or.inr (mem_of_covers hL rfl) | with_reducible exact Or.inl rfl | skip)

theorem State.lastRecord_keeps {s : State} {cause : Nat} {s0 : State} {L : List Field} (hL : covers [.regs, .seq, .seqReported, .events] L = true) (h : s0.same L s) : s0.same L (State.lastRecord s cause) := by
  unfold State.lastRecord
  try dsimp only
  repeat' first
    | with_reducible assumption
    | with_reducible apply State.toFlash_keeps (covers_trans rfl hL)
    | with_reducible apply State.stampUsed_keeps (covers_trans rfl hL)
    | with_reducible apply foldl_keeps
    | (intro _; intros; try dsimp only)
    | split
    | (with_reducible apply State.mk_keeps <;> first | exact Or.inr (mem_of_covers hL rfl) | with_reducible exact Or.inl rfl | skip)

theorem State.railsOff_keeps {s : State} {s0 : State} {L : List Field} (hL : covers [.regs, .mem, .staging, .neg, .tags, .negTags, .power, .trust] L = true) (h : s0.same L s) : s0.same L (State.railsOff s) := by
  unfold State.railsOff
  try dsimp only
  repeat' first
    | with_reducible assumption
    | with_reducible apply State.set_keeps (covers_trans rfl hL)
    | with_reducible apply State.modTrust_keeps (covers_trans rfl hL)
    | with_reducible apply foldl_keeps
    | (intro _; intros; try dsimp only)
    | split
    | (with_reducible apply State.mk_keeps <;> first | exact Or.inr (mem_of_covers hL rfl) | with_reducible exact Or.inl rfl | skip)

theorem State.closeAll_keeps {s : State} {s0 : State} {L : List Field} (hL : covers [.regs, .seq, .seqReported, .events, .freeCtr] L = true) (h : s0.same L s) : s0.same L (State.closeAll s) := by
  unfold State.closeAll
  try dsimp only
  repeat' first
    | with_reducible assumption
    | with_reducible apply State.raiseClosed_keeps (covers_trans rfl hL)
    | with_reducible apply foldl_keeps
    | (intro _; intros; try dsimp only)
    | split
    | (with_reducible apply State.mk_keeps <;> first | exact Or.inr (mem_of_covers hL rfl) | with_reducible exact Or.inl rfl | skip)

theorem State.emergencyStop_keeps {s : State} {c : FaultCause} {cause : Nat} {s0 : State} {L : List Field} (hL : covers [.regs, .seq, .seqReported, .events, .mem, .staging, .neg, .tags, .negTags, .parts, .ports, .power, .trust, .out, .freeCtr] L = true) (h : s0.same L s) : s0.same L (State.emergencyStop s c cause) := by
  unfold State.emergencyStop
  try dsimp only
  repeat' first
    | with_reducible assumption
    | with_reducible apply State.stepFault_keeps (covers_trans rfl hL)
    | with_reducible apply State.sendWire_keeps (covers_trans rfl hL)
    | with_reducible apply State.stampUsed_keeps (covers_trans rfl hL)
    | with_reducible apply State.putRecord_keeps (covers_trans rfl hL)
    | with_reducible apply State.railsOff_keeps (covers_trans rfl hL)
    | with_reducible apply State.lastRecord_keeps (covers_trans rfl hL)
    | with_reducible apply State.saveLog_keeps (covers_trans rfl hL)
    | with_reducible apply State.closeAll_keeps (covers_trans rfl hL)
    | with_reducible apply foldl_keeps
    | (intro _; intros; try dsimp only)
    | split
    | (with_reducible apply State.mk_keeps <;> first | exact Or.inr (mem_of_covers hL rfl) | with_reducible exact Or.inl rfl | skip)

theorem doBusFail_keeps {mv : Nat} {cause : Nat} {s : State} {s0 : State} {L : List Field} (hL : covers [.regs, .seq, .seqReported, .events, .mem, .staging, .neg, .tags, .negTags, .parts, .ports, .power, .trust, .out, .freeCtr] L = true) (h : s0.same L s) : s0.same L (doBusFail mv cause s) := by
  unfold doBusFail
  try dsimp only
  repeat' first
    | with_reducible assumption
    | with_reducible apply State.set_keeps (covers_trans rfl hL)
    | with_reducible apply State.emergencyStop_keeps (covers_trans rfl hL)
    | with_reducible apply State.raise_keeps (covers_trans rfl hL)
    | with_reducible apply foldl_keeps
    | (intro _; intros; try dsimp only)
    | split
    | (with_reducible apply State.mk_keeps <;> first | exact Or.inr (mem_of_covers hL rfl) | with_reducible exact Or.inl rfl | skip)

theorem doBusReturn_keeps {mv : Nat} {s : State} {s0 : State} {L : List Field} (hL : covers [.regs, .counters, .coarse, .latch, .held, .time, .seq, .seqReported, .stamped, .events, .mem, .staging, .neg, .tags, .negTags, .rings, .pools, .plans, .parts, .cores, .tokens, .credits, .layers, .shapes, .searches, .contexts, .pages, .devDraws, .devQueues, .ports, .tally, .d2dDown, .intake, .power, .trust, .freeCtr] L = true) (h : s0.same L s) : s0.same L (doBusReturn mv s) := by
  unfold doBusReturn
  try dsimp only
  repeat' first
    | with_reducible assumption
    | with_reducible apply State.resetModule_keeps (covers_trans rfl hL)
    | with_reducible apply foldl_keeps
    | (intro _; intros; try dsimp only)
    | split
    | (with_reducible apply State.mk_keeps <;> first | exact Or.inr (mem_of_covers hL rfl) | with_reducible exact Or.inl rfl | skip)

theorem doThermalTrip_keeps {sensor : Nat} {tenths : Nat} {s : State} {s0 : State} {L : List Field} (hL : covers [.regs, .seq, .seqReported, .events, .mem, .staging, .neg, .tags, .negTags, .parts, .ports, .power, .trust, .out, .freeCtr] L = true) (h : s0.same L s) : s0.same L (doThermalTrip sensor tenths s) := by
  unfold doThermalTrip
  try dsimp only
  repeat' first
    | with_reducible assumption
    | with_reducible apply State.emergencyStop_keeps (covers_trans rfl hL)
    | with_reducible apply State.raise_keeps (covers_trans rfl hL)
    | with_reducible apply foldl_keeps
    | (intro _; intros; try dsimp only)
    | split
    | (with_reducible apply State.mk_keeps <;> first | exact Or.inr (mem_of_covers hL rfl) | with_reducible exact Or.inl rfl | skip)

theorem State.clearSecrets_keeps {s : State} {s0 : State} {L : List Field} (hL : covers [.regs, .seq, .seqReported, .events, .staging, .parts, .cores, .devQueues, .ports, .intake, .trust, .freeCtr] L = true) (h : s0.same L s) : s0.same L (State.clearSecrets s) := by
  unfold State.clearSecrets
  try dsimp only
  repeat' first
    | with_reducible assumption
    | with_reducible apply State.takeFree_keeps (covers_trans rfl hL)
    | with_reducible apply State.raiseClosed_keeps (covers_trans rfl hL)
    | with_reducible apply State.modPart_keeps (covers_trans rfl hL)
    | with_reducible apply State.set_keeps (covers_trans rfl hL)
    | with_reducible apply State.modTrust_keeps (covers_trans rfl hL)
    | with_reducible apply foldl_keeps
    | (intro _; intros; try dsimp only)
    | split
    | (with_reducible apply State.mk_keeps <;> first | exact Or.inr (mem_of_covers hL rfl) | with_reducible exact Or.inl rfl | skip)

theorem State.orderlyOff_keeps {s : State} {s0 : State} {L : List Field} (hL : covers [.regs, .seq, .seqReported, .events, .mem, .staging, .neg, .tags, .negTags, .power, .trust] L = true) (h : s0.same L s) : s0.same L (State.orderlyOff s) := by
  unfold State.orderlyOff
  try dsimp only
  repeat' first
    | with_reducible assumption
    | with_reducible apply State.railsOff_keeps (covers_trans rfl hL)
    | with_reducible apply State.lastRecord_keeps (covers_trans rfl hL)
    | with_reducible apply State.savePath_keeps (covers_trans rfl hL)
    | with_reducible apply foldl_keeps
    | (intro _; intros; try dsimp only)
    | split
    | (with_reducible apply State.mk_keeps <;> first | exact Or.inr (mem_of_covers hL rfl) | with_reducible exact Or.inl rfl | skip)

theorem State.saveForTest_keeps {s : State} {s0 : State} {L : List Field} (hL : covers [.regs, .power, .trust, .freeCtr] L = true) (h : s0.same L s) : s0.same L (State.saveForTest s) := by
  unfold State.saveForTest
  try dsimp only
  repeat' first
    | with_reducible assumption
    | with_reducible apply State.useFree_keeps (covers_trans rfl hL)
    | with_reducible apply State.modTrust_keeps (covers_trans rfl hL)
    | with_reducible apply State.modPower_keeps (covers_trans rfl hL)
    | with_reducible apply State.set_keeps (covers_trans rfl hL)
    | with_reducible apply foldl_keeps
    | (intro _; intros; try dsimp only)
    | split
    | (with_reducible apply State.mk_keeps <;> first | exact Or.inr (mem_of_covers hL rfl) | with_reducible exact Or.inl rfl | skip)

theorem State.restoreTest_keeps {s : State} {s0 : State} {L : List Field} (hL : covers [.trust] L = true) (h : s0.same L s) : s0.same L (State.restoreTest s) := by
  unfold State.restoreTest
  try dsimp only
  repeat' first
    | with_reducible assumption
    | with_reducible apply State.modTrust_keeps (covers_trans rfl hL)
    | with_reducible apply foldl_keeps
    | (intro _; intros; try dsimp only)
    | split
    | (with_reducible apply State.mk_keeps <;> first | exact Or.inr (mem_of_covers hL rfl) | with_reducible exact Or.inl rfl | skip)

theorem State.deferTest_keeps {s : State} {cause : Nat} {done : List BistItem} {s0 : State} {L : List Field} (hL : covers [.regs, .counters, .seq, .seqReported, .events, .mem, .staging, .neg, .tags, .negTags, .power, .trust] L = true) (h : s0.same L s) : s0.same L (State.deferTest s cause done) := by
  unfold State.deferTest
  try dsimp only
  repeat' first
    | with_reducible assumption
    | with_reducible apply State.restoreTest_keeps (covers_trans rfl hL)
    | with_reducible apply State.putRecord_keeps (covers_trans rfl hL)
    | with_reducible apply State.stampUsed_keeps (covers_trans rfl hL)
    | with_reducible apply State.orderlyOff_keeps (covers_trans rfl hL)
    | with_reducible apply State.raise_keeps (covers_trans rfl hL)
    | with_reducible apply State.count_keeps (covers_trans rfl hL)
    | with_reducible apply foldl_keeps
    | (intro _; intros; try dsimp only)
    | split
    | (with_reducible apply State.mk_keeps <;> first | exact Or.inr (mem_of_covers hL rfl) | with_reducible exact Or.inl rfl | skip)

theorem State.calibrated_keeps {s : State} {passed : Bool} {s0 : State} {L : List Field} (hL : covers [.freeCtr] L = true) (h : s0.same L s) : s0.same L (State.calibrated s passed).2 := by
  unfold State.calibrated
  try dsimp only
  repeat' first
    | with_reducible assumption
    | with_reducible apply State.useFree_keeps (covers_trans rfl hL)
    | with_reducible apply foldl_keeps
    | (intro _; intros; try dsimp only)
    | split
    | (with_reducible apply State.mk_keeps <;> first | exact Or.inr (mem_of_covers hL rfl) | with_reducible exact Or.inl rfl | skip)

theorem State.shutdownTest_keeps {s : State} {items : List BistItem} {s0 : State} {L : List Field} (hL : covers [.regs, .counters, .seq, .seqReported, .events, .trust, .freeCtr] L = true) (h : s0.same L s) : s0.same L (State.shutdownTest s items) := by
  unfold State.shutdownTest
  try dsimp only
  repeat' first
    | with_reducible assumption
    | with_reducible apply State.restoreTest_keeps (covers_trans rfl hL)
    | with_reducible apply State.calibrated_keeps (covers_trans rfl hL)
    | with_reducible apply State.stampUsed_keeps (covers_trans rfl hL)
    | with_reducible apply State.putRecord_keeps (covers_trans rfl hL)
    | with_reducible apply State.count_keeps (covers_trans rfl hL)
    | with_reducible apply State.raise_keeps (covers_trans rfl hL)
    | with_reducible apply foldl_keeps
    | (intro _; intros; try dsimp only)
    | split
    | (with_reducible apply State.mk_keeps <;> first | exact Or.inr (mem_of_covers hL rfl) | with_reducible exact Or.inl rfl | skip)

theorem State.endTest_keeps {s : State} {items : List BistItem} {s0 : State} {L : List Field} (hL : covers [.regs, .counters, .seq, .seqReported, .events, .mem, .staging, .neg, .tags, .negTags, .power, .trust, .freeCtr] L = true) (h : s0.same L s) : s0.same L (State.endTest s items) := by
  unfold State.endTest
  try dsimp only
  repeat' first
    | with_reducible assumption
    | with_reducible apply State.deferTest_keeps (covers_trans rfl hL)
    | with_reducible apply State.orderlyOff_keeps (covers_trans rfl hL)
    | with_reducible apply State.shutdownTest_keeps (covers_trans rfl hL)
    | with_reducible apply foldl_keeps
    | (intro _; intros; try dsimp only)
    | split
    | (with_reducible apply State.mk_keeps <;> first | exact Or.inr (mem_of_covers hL rfl) | with_reducible exact Or.inl rfl | skip)

theorem State.goOff_keeps {s : State} {test : List BistItem} {s0 : State} {L : List Field} (hL : covers [.regs, .counters, .seq, .seqReported, .events, .mem, .staging, .neg, .tags, .negTags, .parts, .cores, .devQueues, .ports, .intake, .power, .trust, .freeCtr] L = true) (h : s0.same L s) : s0.same L (State.goOff s test) := by
  unfold State.goOff
  try dsimp only
  repeat' first
    | with_reducible assumption
    | with_reducible apply State.clearSecrets_keeps (covers_trans rfl hL)
    | with_reducible apply State.saveLog_keeps (covers_trans rfl hL)
    | with_reducible apply State.modPower_keeps (covers_trans rfl hL)
    | with_reducible apply State.orderlyOff_keeps (covers_trans rfl hL)
    | with_reducible apply State.putRecord_keeps (covers_trans rfl hL)
    | with_reducible apply State.deferTest_keeps (covers_trans rfl hL)
    | with_reducible apply State.saveForTest_keeps (covers_trans rfl hL)
    | with_reducible apply State.endTest_keeps (covers_trans rfl hL)
    | with_reducible apply foldl_keeps
    | (intro _; intros; try dsimp only)
    | split
    | (with_reducible apply State.mk_keeps <;> first | exact Or.inr (mem_of_covers hL rfl) | with_reducible exact Or.inl rfl | skip)

theorem State.carryOff_keeps {s : State} {test : List BistItem} {s0 : State} {L : List Field} (hL : covers [.regs, .counters, .seq, .seqReported, .events, .mem, .staging, .neg, .tags, .negTags, .parts, .cores, .devQueues, .ports, .intake, .power, .trust, .freeCtr] L = true) (h : s0.same L s) : s0.same L (State.carryOff s test) := by
  unfold State.carryOff
  try dsimp only
  repeat' first
    | with_reducible assumption
    | with_reducible apply State.goOff_keeps (covers_trans rfl hL)
    | with_reducible apply foldl_keeps
    | (intro _; intros; try dsimp only)
    | split
    | (with_reducible apply State.mk_keeps <;> first | exact Or.inr (mem_of_covers hL rfl) | with_reducible exact Or.inl rfl | skip)

theorem doOrderlyShutdown_keeps {viaPldm : Bool} {test : List BistItem} {s : State} {s0 : State} {L : List Field} (hL : covers [.regs, .counters, .seq, .seqReported, .events, .mem, .staging, .neg, .tags, .negTags, .parts, .cores, .devQueues, .ports, .intake, .power, .trust, .freeCtr] L = true) (h : s0.same L s) : s0.same L (doOrderlyShutdown viaPldm test s) := by
  unfold doOrderlyShutdown
  try dsimp only
  repeat' first
    | with_reducible assumption
    | with_reducible apply State.endTest_keeps (covers_trans rfl hL)
    | with_reducible apply State.carryOff_keeps (covers_trans rfl hL)
    | with_reducible apply State.raise_keeps (covers_trans rfl hL)
    | with_reducible apply State.modPower_keeps (covers_trans rfl hL)
    | with_reducible apply foldl_keeps
    | (intro _; intros; try dsimp only)
    | split
    | (with_reducible apply State.mk_keeps <;> first | exact Or.inr (mem_of_covers hL rfl) | with_reducible exact Or.inl rfl | skip)

theorem doShutdownTestDeferred_keeps {cause : Nat} {done : List BistItem} {s : State} {s0 : State} {L : List Field} (hL : covers [.regs, .counters, .seq, .seqReported, .events, .mem, .staging, .neg, .tags, .negTags, .power, .trust] L = true) (h : s0.same L s) : s0.same L (doShutdownTestDeferred cause done s) := by
  unfold doShutdownTestDeferred
  try dsimp only
  repeat' first
    | with_reducible assumption
    | with_reducible apply State.deferTest_keeps (covers_trans rfl hL)
    | with_reducible apply foldl_keeps
    | (intro _; intros; try dsimp only)
    | split
    | (with_reducible apply State.mk_keeps <;> first | exact Or.inr (mem_of_covers hL rfl) | with_reducible exact Or.inl rfl | skip)

end Sys2Proof.Machine
end

