-- ==== Sys2Proof/Laws/Keeps8.lean ====
section
/-! SUPPORT. The fields an operation leaves alone, for the operations in Trust.lean, Ticks.lean, Loader.lean. -/

set_option Elab.async false

namespace Sys2Proof.Machine

theorem State.provision_keeps {s : State} {b : List Byte} {s0 : State} {L : List Field} (hL : covers [.fitted, .trust, .freeCtr] L = true) (h : s0.same L s) : s0.same L (State.provision s b) := by
  unfold State.provision
  try dsimp only
  repeat' first
    | with_reducible assumption
    | with_reducible apply State.useFree_keeps (covers_trans rfl hL)
    | with_reducible apply State.modTrust_keeps (covers_trans rfl hL)
    | with_reducible apply foldl_keeps
    | (intro _; intros; try dsimp only)
    | split
    | (with_reducible apply State.mk_keeps <;> first | exact Or.inr (mem_of_covers hL rfl) | with_reducible exact Or.inl rfl | skip)

theorem State.installImage_keeps {s : State} {b : List Byte} {source : Nat} {s0 : State} {L : List Field} (hL : covers [.fitted, .regs, .counters, .coarse, .latch, .held, .time, .seq, .seqReported, .stamped, .events, .mem, .staging, .neg, .tags, .negTags, .rings, .pools, .plans, .parts, .cores, .tokens, .credits, .layers, .shapes, .searches, .contexts, .pages, .devDraws, .devQueues, .ports, .tally, .retired, .d2dDown, .intake, .power, .trust, .wards, .freeCtr] L = true) (h : s0.same L s) : s0.same L (State.installImage s b source) := by
  unfold State.installImage
  try dsimp only
  repeat' first
    | with_reducible assumption
    | with_reducible apply State.modTrust_keeps (covers_trans rfl hL)
    | with_reducible apply State.transition_keeps (covers_trans rfl hL)
    | with_reducible apply State.provision_keeps (covers_trans rfl hL)
    | with_reducible apply State.resetModule_keeps (covers_trans rfl hL)
    | with_reducible apply State.raise_keeps (covers_trans rfl hL)
    | with_reducible apply foldl_keeps
    | (intro _; intros; try dsimp only)
    | split
    | (with_reducible apply State.mk_keeps <;> first | exact Or.inr (mem_of_covers hL rfl) | with_reducible exact Or.inl rfl | skip)

theorem State.judgeImage_keeps {s : State} {b : List Byte} {source : Nat} {s0 : State} {L : List Field} (hL : covers [.regs, .seq, .seqReported, .events, .trust] L = true) (h : s0.same L s) : s0.same L (State.judgeImage s b source) := by
  unfold State.judgeImage
  try dsimp only
  repeat' first
    | with_reducible assumption
    | with_reducible apply State.modTrust_keeps (covers_trans rfl hL)
    | with_reducible apply State.raise_keeps (covers_trans rfl hL)
    | with_reducible apply foldl_keeps
    | (intro _; intros; try dsimp only)
    | split
    | (with_reducible apply State.mk_keeps <;> first | exact Or.inr (mem_of_covers hL rfl) | with_reducible exact Or.inl rfl | skip)

theorem State.finishWrite_keeps {s : State} {s0 : State} {L : List Field} (hL : covers [.fitted, .regs, .counters, .coarse, .latch, .held, .time, .seq, .seqReported, .stamped, .events, .mem, .staging, .neg, .tags, .negTags, .rings, .pools, .plans, .parts, .cores, .tokens, .credits, .layers, .shapes, .searches, .contexts, .pages, .devDraws, .devQueues, .ports, .tally, .retired, .d2dDown, .intake, .power, .trust, .wards, .freeCtr] L = true) (h : s0.same L s) : s0.same L (State.finishWrite s) := by
  unfold State.finishWrite
  try dsimp only
  repeat' first
    | with_reducible assumption
    | with_reducible apply State.installImage_keeps (covers_trans rfl hL)
    | with_reducible apply foldl_keeps
    | (intro _; intros; try dsimp only)
    | split
    | (with_reducible apply State.mk_keeps <;> first | exact Or.inr (mem_of_covers hL rfl) | with_reducible exact Or.inl rfl | skip)

theorem doPldmFirmwareUpdate_keeps {image : List Byte} {s : State} {s0 : State} {L : List Field} (hL : covers [.regs, .seq, .seqReported, .events, .trust] L = true) (h : s0.same L s) : s0.same L (doPldmFirmwareUpdate image s) := by
  unfold doPldmFirmwareUpdate
  try dsimp only
  repeat' first
    | with_reducible assumption
    | with_reducible apply State.judgeImage_keeps (covers_trans rfl hL)
    | with_reducible apply foldl_keeps
    | (intro _; intros; try dsimp only)
    | split
    | (with_reducible apply State.mk_keeps <;> first | exact Or.inr (mem_of_covers hL rfl) | with_reducible exact Or.inl rfl | skip)

theorem State.mbxEnd_keeps {s : State} {result : Nat} {s0 : State} {L : List Field} (hL : covers [.regs] L = true) (h : s0.same L s) : s0.same L (State.mbxEnd s result) := by
  unfold State.mbxEnd
  try dsimp only
  repeat' first
    | with_reducible assumption
    | with_reducible apply State.set_keeps (covers_trans rfl hL)
    | with_reducible apply foldl_keeps
    | (intro _; intros; try dsimp only)
    | split
    | (with_reducible apply State.mk_keeps <;> first | exact Or.inr (mem_of_covers hL rfl) | with_reducible exact Or.inl rfl | skip)

theorem doMbxStatus_keeps {s : State} {s0 : State} {L : List Field} (hL : covers [.regs] L = true) (h : s0.same L s) : s0.same L (doMbxStatus s) := by
  unfold doMbxStatus
  try dsimp only
  repeat' first
    | with_reducible assumption
    | with_reducible apply State.mbxEnd_keeps (covers_trans rfl hL)
    | with_reducible apply foldl_keeps
    | (intro _; intros; try dsimp only)
    | split
    | (with_reducible apply State.mk_keeps <;> first | exact Or.inr (mem_of_covers hL rfl) | with_reducible exact Or.inl rfl | skip)

theorem doMbxImageBegin_keeps {s : State} {s0 : State} {L : List Field} (hL : covers [.regs, .trust] L = true) (h : s0.same L s) : s0.same L (doMbxImageBegin s) := by
  unfold doMbxImageBegin
  try dsimp only
  repeat' first
    | with_reducible assumption
    | with_reducible apply State.mbxEnd_keeps (covers_trans rfl hL)
    | with_reducible apply State.modTrust_keeps (covers_trans rfl hL)
    | with_reducible apply foldl_keeps
    | (intro _; intros; try dsimp only)
    | split
    | (with_reducible apply State.mk_keeps <;> first | exact Or.inr (mem_of_covers hL rfl) | with_reducible exact Or.inl rfl | skip)

theorem doMbxImageData_keeps {s : State} {s0 : State} {L : List Field} (hL : covers [.regs, .trust] L = true) (h : s0.same L s) : s0.same L (doMbxImageData s) := by
  unfold doMbxImageData
  try dsimp only
  repeat' first
    | with_reducible assumption
    | with_reducible apply State.mbxEnd_keeps (covers_trans rfl hL)
    | with_reducible apply State.modTrust_keeps (covers_trans rfl hL)
    | with_reducible apply foldl_keeps
    | (intro _; intros; try dsimp only)
    | split
    | (with_reducible apply State.mk_keeps <;> first | exact Or.inr (mem_of_covers hL rfl) | with_reducible exact Or.inl rfl | skip)

theorem doMbxImageEnd_keeps {s : State} {s0 : State} {L : List Field} (hL : covers [.regs, .seq, .seqReported, .events, .trust] L = true) (h : s0.same L s) : s0.same L (doMbxImageEnd s) := by
  unfold doMbxImageEnd
  try dsimp only
  repeat' first
    | with_reducible assumption
    | with_reducible apply State.mbxEnd_keeps (covers_trans rfl hL)
    | with_reducible apply State.judgeImage_keeps (covers_trans rfl hL)
    | with_reducible apply foldl_keeps
    | (intro _; intros; try dsimp only)
    | split
    | (with_reducible apply State.mk_keeps <;> first | exact Or.inr (mem_of_covers hL rfl) | with_reducible exact Or.inl rfl | skip)

theorem doMbxAbort_keeps {s : State} {s0 : State} {L : List Field} (hL : covers [.regs, .trust] L = true) (h : s0.same L s) : s0.same L (doMbxAbort s) := by
  unfold doMbxAbort
  try dsimp only
  repeat' first
    | with_reducible assumption
    | with_reducible apply State.mbxEnd_keeps (covers_trans rfl hL)
    | with_reducible apply State.modTrust_keeps (covers_trans rfl hL)
    | with_reducible apply foldl_keeps
    | (intro _; intros; try dsimp only)
    | split
    | (with_reducible apply State.mk_keeps <;> first | exact Or.inr (mem_of_covers hL rfl) | with_reducible exact Or.inl rfl | skip)

theorem State.sendNeighbour_keeps {s : State} {port : Nat} {last : Bool} {header : List Byte} {data : List Byte} {s0 : State} {L : List Field} (hL : covers [.regs, .seq, .seqReported, .events, .parts, .ports] L = true) (h : s0.same L s) : s0.same L (State.sendNeighbour s port last header data) := by
  unfold State.sendNeighbour
  try dsimp only
  repeat' first
    | with_reducible assumption
    | with_reducible apply State.post_keeps (covers_trans rfl hL)
    | with_reducible apply foldl_keeps
    | (intro _; intros; try dsimp only)
    | split
    | (with_reducible apply State.mk_keeps <;> first | exact Or.inr (mem_of_covers hL rfl) | with_reducible exact Or.inl rfl | skip)

theorem doRecoveryPoll_keeps {s : State} {s0 : State} {L : List Field} (hL : covers [.regs, .seq, .seqReported, .events, .parts, .ports, .trust] L = true) (h : s0.same L s) : s0.same L (doRecoveryPoll s) := by
  unfold doRecoveryPoll
  try dsimp only
  repeat' first
    | with_reducible assumption
    | with_reducible apply State.modTrust_keeps (covers_trans rfl hL)
    | with_reducible apply State.sendNeighbour_keeps (covers_trans rfl hL)
    | with_reducible apply State.set_keeps (covers_trans rfl hL)
    | with_reducible apply foldl_keeps
    | (intro _; intros; try dsimp only)
    | split
    | (with_reducible apply State.mk_keeps <;> first | exact Or.inr (mem_of_covers hL rfl) | with_reducible exact Or.inl rfl | skip)

theorem State.takeRecovery_keeps {s : State} {port : Nat} {pk : Packet} {op : Nat} {accepts : Bool} {act : State → State} {s0 : State} {L : List Field} (hL : covers [.regs, .counters, .seq, .seqReported, .stamped, .events, .ports, .out] L = true) (h : s0.same L s) (hact : ∀ (y0 : State), s0.same L y0 → s0.same L (act y0)) : s0.same L (State.takeRecovery s port pk op accepts act) := by
  unfold State.takeRecovery
  try dsimp only
  repeat' first
    | with_reducible assumption
    | with_reducible apply State.stampReceipt_keeps (covers_trans rfl hL)
    | with_reducible apply State.passPacket_keeps (covers_trans rfl hL)
    | with_reducible apply State.dropUnmatched_keeps (covers_trans rfl hL)
    | with_reducible apply hact
    | with_reducible apply foldl_keeps
    | (intro _; intros; try dsimp only)
    | split
    | (with_reducible apply State.mk_keeps <;> first | exact Or.inr (mem_of_covers hL rfl) | with_reducible exact Or.inl rfl | skip)

theorem doRecoveryImageRequest_keeps {port : Nat} {pkt : Packet} {s : State} {s0 : State} {L : List Field} (hL : covers [.regs, .counters, .seq, .seqReported, .stamped, .events, .parts, .ports, .out] L = true) (h : s0.same L s) : s0.same L (doRecoveryImageRequest port pkt s) := by
  unfold doRecoveryImageRequest
  try dsimp only
  repeat' first
    | with_reducible assumption
    | with_reducible apply State.takeRecovery_keeps (covers_trans rfl hL)
    | with_reducible apply State.sendNeighbour_keeps (covers_trans rfl hL)
    | with_reducible apply foldl_keeps
    | (intro _; intros; try dsimp only)
    | split
    | (with_reducible apply State.mk_keeps <;> first | exact Or.inr (mem_of_covers hL rfl) | with_reducible exact Or.inl rfl | skip)

theorem doRecoveryImageData_keeps {port : Nat} {pkt : Packet} {s : State} {s0 : State} {L : List Field} (hL : covers [.regs, .counters, .seq, .seqReported, .stamped, .events, .ports, .trust, .out] L = true) (h : s0.same L s) : s0.same L (doRecoveryImageData port pkt s) := by
  unfold doRecoveryImageData
  try dsimp only
  repeat' first
    | with_reducible assumption
    | with_reducible apply State.takeRecovery_keeps (covers_trans rfl hL)
    | with_reducible apply State.modTrust_keeps (covers_trans rfl hL)
    | with_reducible apply foldl_keeps
    | (intro _; intros; try dsimp only)
    | split
    | (with_reducible apply State.mk_keeps <;> first | exact Or.inr (mem_of_covers hL rfl) | with_reducible exact Or.inl rfl | skip)

theorem doRecoveryImageEnd_keeps {port : Nat} {pkt : Packet} {s : State} {s0 : State} {L : List Field} (hL : covers [.regs, .counters, .seq, .seqReported, .stamped, .events, .ports, .trust, .out] L = true) (h : s0.same L s) : s0.same L (doRecoveryImageEnd port pkt s) := by
  unfold doRecoveryImageEnd
  try dsimp only
  repeat' first
    | with_reducible assumption
    | with_reducible apply State.takeRecovery_keeps (covers_trans rfl hL)
    | with_reducible apply State.judgeImage_keeps (covers_trans rfl hL)
    | with_reducible apply foldl_keeps
    | (intro _; intros; try dsimp only)
    | split
    | (with_reducible apply State.mk_keeps <;> first | exact Or.inr (mem_of_covers hL rfl) | with_reducible exact Or.inl rfl | skip)

theorem State.reply_keeps {s : State} {r : SpdmReply} {s0 : State} {L : List Field} (hL : covers [.out] L = true) (h : s0.same L s) : s0.same L (State.reply s r) := by
  unfold State.reply
  try dsimp only
  repeat' first
    | with_reducible assumption
    | with_reducible apply foldl_keeps
    | (intro _; intros; try dsimp only)
    | split
    | (with_reducible apply State.mk_keeps <;> first | exact Or.inr (mem_of_covers hL rfl) | with_reducible exact Or.inl rfl | skip)

theorem State.replyAlive_keeps {s : State} {r : SpdmReply} {s0 : State} {L : List Field} (hL : covers [.out] L = true) (h : s0.same L s) : s0.same L (State.replyAlive s r) := by
  unfold State.replyAlive
  try dsimp only
  repeat' first
    | with_reducible assumption
    | with_reducible apply State.reply_keeps (covers_trans rfl hL)
    | with_reducible apply foldl_keeps
    | (intro _; intros; try dsimp only)
    | split
    | (with_reducible apply State.mk_keeps <;> first | exact Or.inr (mem_of_covers hL rfl) | with_reducible exact Or.inl rfl | skip)

theorem doGetVersion_keeps {_session : Nat} {s : State} {s0 : State} {L : List Field} (hL : covers [.out] L = true) (h : s0.same L s) : s0.same L (doGetVersion _session s) := by
  unfold doGetVersion
  try dsimp only
  repeat' first
    | with_reducible assumption
    | with_reducible apply State.reply_keeps (covers_trans rfl hL)
    | with_reducible apply foldl_keeps
    | (intro _; intros; try dsimp only)
    | split
    | (with_reducible apply State.mk_keeps <;> first | exact Or.inr (mem_of_covers hL rfl) | with_reducible exact Or.inl rfl | skip)

theorem doGetCapabilities_keeps {_session : Nat} {s : State} {s0 : State} {L : List Field} (hL : covers [.out] L = true) (h : s0.same L s) : s0.same L (doGetCapabilities _session s) := by
  unfold doGetCapabilities
  try dsimp only
  repeat' first
    | with_reducible assumption
    | with_reducible apply State.replyAlive_keeps (covers_trans rfl hL)
    | with_reducible apply foldl_keeps
    | (intro _; intros; try dsimp only)
    | split
    | (with_reducible apply State.mk_keeps <;> first | exact Or.inr (mem_of_covers hL rfl) | with_reducible exact Or.inl rfl | skip)

theorem doNegotiateAlgorithms_keeps {_session : Nat} {algs : Nat} {s : State} {s0 : State} {L : List Field} (hL : covers [.out] L = true) (h : s0.same L s) : s0.same L (doNegotiateAlgorithms _session algs s) := by
  unfold doNegotiateAlgorithms
  try dsimp only
  repeat' first
    | with_reducible assumption
    | with_reducible apply State.replyAlive_keeps (covers_trans rfl hL)
    | with_reducible apply foldl_keeps
    | (intro _; intros; try dsimp only)
    | split
    | (with_reducible apply State.mk_keeps <;> first | exact Or.inr (mem_of_covers hL rfl) | with_reducible exact Or.inl rfl | skip)

theorem doGetDigests_keeps {_session : Nat} {s : State} {s0 : State} {L : List Field} (hL : covers [.out] L = true) (h : s0.same L s) : s0.same L (doGetDigests _session s) := by
  unfold doGetDigests
  try dsimp only
  repeat' first
    | with_reducible assumption
    | with_reducible apply State.replyAlive_keeps (covers_trans rfl hL)
    | with_reducible apply foldl_keeps
    | (intro _; intros; try dsimp only)
    | split
    | (with_reducible apply State.mk_keeps <;> first | exact Or.inr (mem_of_covers hL rfl) | with_reducible exact Or.inl rfl | skip)

theorem doGetCertificate_keeps {_session : Nat} {offset : Nat} {len : Nat} {s : State} {s0 : State} {L : List Field} (hL : covers [.trust, .out] L = true) (h : s0.same L s) : s0.same L (doGetCertificate _session offset len s) := by
  unfold doGetCertificate
  try dsimp only
  repeat' first
    | with_reducible assumption
    | with_reducible apply State.modTrust_keeps (covers_trans rfl hL)
    | with_reducible apply State.replyAlive_keeps (covers_trans rfl hL)
    | with_reducible apply foldl_keeps
    | (intro _; intros; try dsimp only)
    | split
    | (with_reducible apply State.mk_keeps <;> first | exact Or.inr (mem_of_covers hL rfl) | with_reducible exact Or.inl rfl | skip)

theorem doChallenge_keeps {_session : Nat} {nonce : List Byte} {s : State} {s0 : State} {L : List Field} (hL : covers [.out] L = true) (h : s0.same L s) : s0.same L (doChallenge _session nonce s) := by
  unfold doChallenge
  try dsimp only
  repeat' first
    | with_reducible assumption
    | with_reducible apply State.replyAlive_keeps (covers_trans rfl hL)
    | with_reducible apply foldl_keeps
    | (intro _; intros; try dsimp only)
    | split
    | (with_reducible apply State.mk_keeps <;> first | exact Or.inr (mem_of_covers hL rfl) | with_reducible exact Or.inl rfl | skip)

theorem doGetMeasurements_keeps {session : Nat} {index : Nat} {nonce : List Byte} {s : State} {s0 : State} {L : List Field} (hL : covers [.out] L = true) (h : s0.same L s) : s0.same L (doGetMeasurements session index nonce s) := by
  unfold doGetMeasurements
  try dsimp only
  repeat' first
    | with_reducible assumption
    | with_reducible apply State.reply_keeps (covers_trans rfl hL)
    | with_reducible apply foldl_keeps
    | (intro _; intros; try dsimp only)
    | split
    | (with_reducible apply State.mk_keeps <;> first | exact Or.inr (mem_of_covers hL rfl) | with_reducible exact Or.inl rfl | skip)

theorem doUnsupportedRequest_keeps {_session : Nat} {code : Nat} {s : State} {s0 : State} {L : List Field} (hL : covers [.out] L = true) (h : s0.same L s) : s0.same L (doUnsupportedRequest _session code s) := by
  unfold doUnsupportedRequest
  try dsimp only
  repeat' first
    | with_reducible assumption
    | with_reducible apply State.replyAlive_keeps (covers_trans rfl hL)
    | with_reducible apply foldl_keeps
    | (intro _; intros; try dsimp only)
    | split
    | (with_reducible apply State.mk_keeps <;> first | exact Or.inr (mem_of_covers hL rfl) | with_reducible exact Or.inl rfl | skip)

theorem State.modSession_keeps {s : State} {n : Nat} {f : Session → Session} {s0 : State} {L : List Field} (hL : covers [.trust] L = true) (h : s0.same L s) : s0.same L (State.modSession s n f) := by
  unfold State.modSession
  try dsimp only
  repeat' first
    | with_reducible assumption
    | with_reducible apply State.modTrust_keeps (covers_trans rfl hL)
    | with_reducible apply foldl_keeps
    | (intro _; intros; try dsimp only)
    | split
    | (with_reducible apply State.mk_keeps <;> first | exact Or.inr (mem_of_covers hL rfl) | with_reducible exact Or.inl rfl | skip)

theorem State.closeSession_keeps {s : State} {x : Session} {cause : Nat} {s0 : State} {L : List Field} (hL : covers [.regs, .seq, .seqReported, .events, .trust, .freeCtr] L = true) (h : s0.same L s) : s0.same L (State.closeSession s x cause) := by
  unfold State.closeSession
  try dsimp only
  repeat' first
    | with_reducible assumption
    | with_reducible apply State.modTrust_keeps (covers_trans rfl hL)
    | with_reducible apply State.set_keeps (covers_trans rfl hL)
    | with_reducible apply State.raiseClosed_keeps (covers_trans rfl hL)
    | with_reducible apply foldl_keeps
    | (intro _; intros; try dsimp only)
    | split
    | (with_reducible apply State.mk_keeps <;> first | exact Or.inr (mem_of_covers hL rfl) | with_reducible exact Or.inl rfl | skip)

theorem doKeyExchange_keeps {_session : Nat} {_exchange : List Byte} {s : State} {s0 : State} {L : List Field} (hL : covers [.trust, .out] L = true) (h : s0.same L s) : s0.same L (doKeyExchange _session _exchange s) := by
  unfold doKeyExchange
  try dsimp only
  repeat' first
    | with_reducible assumption
    | with_reducible apply State.reply_keeps (covers_trans rfl hL)
    | with_reducible apply State.modTrust_keeps (covers_trans rfl hL)
    | with_reducible apply foldl_keeps
    | (intro _; intros; try dsimp only)
    | split
    | (with_reducible apply State.mk_keeps <;> first | exact Or.inr (mem_of_covers hL rfl) | with_reducible exact Or.inl rfl | skip)

theorem doFinish_keeps {session : Nat} {auth : FinishAuth} {s : State} {s0 : State} {L : List Field} (hL : covers [.regs, .counters, .seq, .seqReported, .events, .trust, .out] L = true) (h : s0.same L s) : s0.same L (doFinish session auth s) := by
  unfold doFinish
  try dsimp only
  repeat' first
    | with_reducible assumption
    | with_reducible apply State.replyAlive_keeps (covers_trans rfl hL)
    | with_reducible apply State.reply_keeps (covers_trans rfl hL)
    | with_reducible apply State.raise_keeps (covers_trans rfl hL)
    | with_reducible apply State.count_keeps (covers_trans rfl hL)
    | with_reducible apply State.modTrust_keeps (covers_trans rfl hL)
    | with_reducible apply State.modSession_keeps (covers_trans rfl hL)
    | with_reducible apply State.set_keeps (covers_trans rfl hL)
    | with_reducible apply foldl_keeps
    | (intro _; intros; try dsimp only)
    | split
    | (with_reducible apply State.mk_keeps <;> first | exact Or.inr (mem_of_covers hL rfl) | with_reducible exact Or.inl rfl | skip)

theorem doHeartbeat_keeps {session : Nat} {s : State} {s0 : State} {L : List Field} (hL : covers [.out] L = true) (h : s0.same L s) : s0.same L (doHeartbeat session s) := by
  unfold doHeartbeat
  try dsimp only
  repeat' first
    | with_reducible assumption
    | with_reducible apply State.reply_keeps (covers_trans rfl hL)
    | with_reducible apply State.replyAlive_keeps (covers_trans rfl hL)
    | with_reducible apply foldl_keeps
    | (intro _; intros; try dsimp only)
    | split
    | (with_reducible apply State.mk_keeps <;> first | exact Or.inr (mem_of_covers hL rfl) | with_reducible exact Or.inl rfl | skip)

theorem doHeartbeatTimeout_keeps {session : Nat} {s : State} {s0 : State} {L : List Field} (hL : covers [.regs, .seq, .seqReported, .events, .trust, .freeCtr] L = true) (h : s0.same L s) : s0.same L (doHeartbeatTimeout session s) := by
  unfold doHeartbeatTimeout
  try dsimp only
  repeat' first
    | with_reducible assumption
    | with_reducible apply State.closeSession_keeps (covers_trans rfl hL)
    | with_reducible apply foldl_keeps
    | (intro _; intros; try dsimp only)
    | split
    | (with_reducible apply State.mk_keeps <;> first | exact Or.inr (mem_of_covers hL rfl) | with_reducible exact Or.inl rfl | skip)

theorem doKeyUpdate_keeps {session : Nat} {op : Nat} {s : State} {s0 : State} {L : List Field} (hL : covers [.trust, .out] L = true) (h : s0.same L s) : s0.same L (doKeyUpdate session op s) := by
  unfold doKeyUpdate
  try dsimp only
  repeat' first
    | with_reducible assumption
    | with_reducible apply State.reply_keeps (covers_trans rfl hL)
    | with_reducible apply State.modSession_keeps (covers_trans rfl hL)
    | with_reducible apply State.replyAlive_keeps (covers_trans rfl hL)
    | with_reducible apply foldl_keeps
    | (intro _; intros; try dsimp only)
    | split
    | (with_reducible apply State.mk_keeps <;> first | exact Or.inr (mem_of_covers hL rfl) | with_reducible exact Or.inl rfl | skip)

theorem doEndSession_keeps {session : Nat} {s : State} {s0 : State} {L : List Field} (hL : covers [.regs, .seq, .seqReported, .events, .trust, .out, .freeCtr] L = true) (h : s0.same L s) : s0.same L (doEndSession session s) := by
  unfold doEndSession
  try dsimp only
  repeat' first
    | with_reducible assumption
    | with_reducible apply State.reply_keeps (covers_trans rfl hL)
    | with_reducible apply State.closeSession_keeps (covers_trans rfl hL)
    | with_reducible apply State.replyAlive_keeps (covers_trans rfl hL)
    | with_reducible apply foldl_keeps
    | (intro _; intros; try dsimp only)
    | split
    | (with_reducible apply State.mk_keeps <;> first | exact Or.inr (mem_of_covers hL rfl) | with_reducible exact Or.inl rfl | skip)

theorem doChunkSend_keeps {session : Nat} {seqNo : Nat} {_last : Bool} {bytes : List Byte} {s : State} {s0 : State} {L : List Field} (hL : covers [.trust, .out] L = true) (h : s0.same L s) : s0.same L (doChunkSend session seqNo _last bytes s) := by
  unfold doChunkSend
  try dsimp only
  repeat' first
    | with_reducible assumption
    | with_reducible apply State.reply_keeps (covers_trans rfl hL)
    | with_reducible apply State.modTrust_keeps (covers_trans rfl hL)
    | with_reducible apply foldl_keeps
    | (intro _; intros; try dsimp only)
    | split
    | (with_reducible apply State.mk_keeps <;> first | exact Or.inr (mem_of_covers hL rfl) | with_reducible exact Or.inl rfl | skip)

theorem doChunkGet_keeps {_session : Nat} {seqNo : Nat} {s : State} {s0 : State} {L : List Field} (hL : covers [.out] L = true) (h : s0.same L s) : s0.same L (doChunkGet _session seqNo s) := by
  unfold doChunkGet
  try dsimp only
  repeat' first
    | with_reducible assumption
    | with_reducible apply State.replyAlive_keeps (covers_trans rfl hL)
    | with_reducible apply foldl_keeps
    | (intro _; intros; try dsimp only)
    | split
    | (with_reducible apply State.mk_keeps <;> first | exact Or.inr (mem_of_covers hL rfl) | with_reducible exact Or.inl rfl | skip)

theorem State.vendor_keeps {s : State} {session : Nat} {code : Nat} {may : Session → Bool} {act : State → Session → State} {s0 : State} {L : List Field} (hL : covers [.regs, .seq, .seqReported, .events, .out] L = true) (h : s0.same L s) (hact : ∀ (y0 : State) (y1 : Session), s0.same L y0 → s0.same L (act y0 y1)) : s0.same L (State.vendor s session code may act) := by
  unfold State.vendor
  try dsimp only
  repeat' first
    | with_reducible assumption
    | with_reducible apply State.reply_keeps (covers_trans rfl hL)
    | with_reducible apply State.raiseFor_keeps (covers_trans rfl hL)
    | with_reducible apply hact
    | with_reducible apply foldl_keeps
    | (intro _; intros; try dsimp only)
    | split
    | (with_reducible apply State.mk_keeps <;> first | exact Or.inr (mem_of_covers hL rfl) | with_reducible exact Or.inl rfl | skip)

theorem State.noteHolder_keeps {s : State} {s0 : State} {L : List Field} (hL : covers [.regs] L = true) (h : s0.same L s) : s0.same L (State.noteHolder s) := by
  unfold State.noteHolder
  try dsimp only
  repeat' first
    | with_reducible assumption
    | with_reducible apply State.set_keeps (covers_trans rfl hL)
    | with_reducible apply foldl_keeps
    | (intro _; intros; try dsimp only)
    | split
    | (with_reducible apply State.mk_keeps <;> first | exact Or.inr (mem_of_covers hL rfl) | with_reducible exact Or.inl rfl | skip)

theorem doBindPartition_keeps {session : Nat} {p : Nat} {s : State} {s0 : State} {L : List Field} (hL : covers [.regs, .seq, .seqReported, .events, .trust, .out] L = true) (h : s0.same L s) : s0.same L (doBindPartition session p s) := by
  unfold doBindPartition
  try dsimp only
  repeat' first
    | with_reducible assumption
    | with_reducible apply State.vendor_keeps (covers_trans rfl hL)
    | with_reducible apply State.noteHolder_keeps (covers_trans rfl hL)
    | with_reducible apply State.set_keeps (covers_trans rfl hL)
    | with_reducible apply State.modSession_keeps (covers_trans rfl hL)
    | with_reducible apply foldl_keeps
    | (intro _; intros; try dsimp only)
    | split
    | (with_reducible apply State.mk_keeps <;> first | exact Or.inr (mem_of_covers hL rfl) | with_reducible exact Or.inl rfl | skip)

theorem State.turnRanges_keeps {s : State} {p : Nat} {rs : List ProtRange} {s0 : State} {L : List Field} (hL : covers [.mem, .neg] L = true) (h : s0.same L s) : s0.same L (State.turnRanges s p rs) := by
  unfold State.turnRanges
  try dsimp only
  repeat' first
    | with_reducible assumption
    | with_reducible apply foldl_keeps
    | (intro _; intros; try dsimp only)
    | split
    | (with_reducible apply State.mk_keeps <;> first | exact Or.inr (mem_of_covers hL rfl) | with_reducible exact Or.inl rfl | skip)

theorem State.putRanges_keeps {s : State} {p : Nat} {rs : List ProtRange} {s0 : State} {L : List Field} (hL : covers [.regs, .mem, .neg] L = true) (h : s0.same L s) : s0.same L (State.putRanges s p rs) := by
  unfold State.putRanges
  try dsimp only
  repeat' first
    | with_reducible assumption
    | with_reducible apply State.setReg_keeps (covers_trans rfl hL)
    | with_reducible apply State.turnRanges_keeps (covers_trans rfl hL)
    | with_reducible apply State.set_keeps (covers_trans rfl hL)
    | with_reducible apply foldl_keeps
    | (intro _; intros; try dsimp only)
    | split
    | (with_reducible apply State.mk_keeps <;> first | exact Or.inr (mem_of_covers hL rfl) | with_reducible exact Or.inl rfl | skip)

theorem State.makeMemoryKey_keeps {s : State} {p : Nat} {s0 : State} {L : List Field} (hL : covers [.trust, .freeCtr] L = true) (h : s0.same L s) : s0.same L (State.makeMemoryKey s p) := by
  unfold State.makeMemoryKey
  try dsimp only
  repeat' first
    | with_reducible assumption
    | with_reducible apply State.useFree_keeps (covers_trans rfl hL)
    | with_reducible apply State.modTrust_keeps (covers_trans rfl hL)
    | with_reducible apply foldl_keeps
    | (intro _; intros; try dsimp only)
    | split
    | (with_reducible apply State.mk_keeps <;> first | exact Or.inr (mem_of_covers hL rfl) | with_reducible exact Or.inl rfl | skip)

theorem doSetProtected_keeps {session : Nat} {p : Nat} {ranges : List ProtRange} {s : State} {s0 : State} {L : List Field} (hL : covers [.regs, .seq, .seqReported, .events, .mem, .neg, .trust, .out, .freeCtr] L = true) (h : s0.same L s) : s0.same L (doSetProtected session p ranges s) := by
  unfold doSetProtected
  try dsimp only
  repeat' first
    | with_reducible assumption
    | with_reducible apply State.vendor_keeps (covers_trans rfl hL)
    | with_reducible apply State.putRanges_keeps (covers_trans rfl hL)
    | with_reducible apply State.makeMemoryKey_keeps (covers_trans rfl hL)
    | with_reducible apply foldl_keeps
    | (intro _; intros; try dsimp only)
    | split
    | (with_reducible apply State.mk_keeps <;> first | exact Or.inr (mem_of_covers hL rfl) | with_reducible exact Or.inl rfl | skip)

theorem doSetFabricKey_keeps {session : Nat} {p : Nat} {key : List Byte} {s : State} {s0 : State} {L : List Field} (hL : covers [.regs, .seq, .seqReported, .events, .parts, .out] L = true) (h : s0.same L s) : s0.same L (doSetFabricKey session p key s) := by
  unfold doSetFabricKey
  try dsimp only
  repeat' first
    | with_reducible assumption
    | with_reducible apply State.vendor_keeps (covers_trans rfl hL)
    | with_reducible apply State.set_keeps (covers_trans rfl hL)
    | with_reducible apply State.modPart_keeps (covers_trans rfl hL)
    | with_reducible apply foldl_keeps
    | (intro _; intros; try dsimp only)
    | split
    | (with_reducible apply State.mk_keeps <;> first | exact Or.inr (mem_of_covers hL rfl) | with_reducible exact Or.inl rfl | skip)

theorem doSealBind_keeps {session : Nat} {s : State} {s0 : State} {L : List Field} (hL : covers [.regs, .seq, .seqReported, .events, .trust, .out] L = true) (h : s0.same L s) : s0.same L (doSealBind session s) := by
  unfold doSealBind
  try dsimp only
  repeat' first
    | with_reducible assumption
    | with_reducible apply State.vendor_keeps (covers_trans rfl hL)
    | with_reducible apply State.noteHolder_keeps (covers_trans rfl hL)
    | with_reducible apply State.modTrust_keeps (covers_trans rfl hL)
    | with_reducible apply foldl_keeps
    | (intro _; intros; try dsimp only)
    | split
    | (with_reducible apply State.mk_keeps <;> first | exact Or.inr (mem_of_covers hL rfl) | with_reducible exact Or.inl rfl | skip)

theorem doUnsealRegion_keeps {session : Nat} {s : State} {s0 : State} {L : List Field} (hL : covers [.regs, .seq, .seqReported, .events, .trust, .out] L = true) (h : s0.same L s) : s0.same L (doUnsealRegion session s) := by
  unfold doUnsealRegion
  try dsimp only
  repeat' first
    | with_reducible assumption
    | with_reducible apply State.vendor_keeps (covers_trans rfl hL)
    | with_reducible apply State.raiseFor_keeps (covers_trans rfl hL)
    | with_reducible apply State.set_keeps (covers_trans rfl hL)
    | with_reducible apply State.modTrust_keeps (covers_trans rfl hL)
    | with_reducible apply foldl_keeps
    | (intro _; intros; try dsimp only)
    | split
    | (with_reducible apply State.mk_keeps <;> first | exact Or.inr (mem_of_covers hL rfl) | with_reducible exact Or.inl rfl | skip)

theorem doSetView_keeps {session : Nat} {full : Bool} {s : State} {s0 : State} {L : List Field} (hL : covers [.regs, .seq, .seqReported, .events, .out] L = true) (h : s0.same L s) : s0.same L (doSetView session full s) := by
  unfold doSetView
  try dsimp only
  repeat' first
    | with_reducible assumption
    | with_reducible apply State.vendor_keeps (covers_trans rfl hL)
    | with_reducible apply State.set_keeps (covers_trans rfl hL)
    | with_reducible apply foldl_keeps
    | (intro _; intros; try dsimp only)
    | split
    | (with_reducible apply State.mk_keeps <;> first | exact Or.inr (mem_of_covers hL rfl) | with_reducible exact Or.inl rfl | skip)

theorem State.dropTenant_keeps {s : State} {p : Nat} {s0 : State} {L : List Field} (hL : covers [.regs, .seq, .seqReported, .events, .mem, .neg, .trust, .freeCtr] L = true) (h : s0.same L s) : s0.same L (State.dropTenant s p) := by
  unfold State.dropTenant
  try dsimp only
  repeat' first
    | with_reducible assumption
    | with_reducible apply State.modTrust_keeps (covers_trans rfl hL)
    | with_reducible apply State.putRanges_keeps (covers_trans rfl hL)
    | with_reducible apply State.takeFree_keeps (covers_trans rfl hL)
    | with_reducible apply State.closeSession_keeps (covers_trans rfl hL)
    | with_reducible apply foldl_keeps
    | (intro _; intros; try dsimp only)
    | split
    | (with_reducible apply State.mk_keeps <;> first | exact Or.inr (mem_of_covers hL rfl) | with_reducible exact Or.inl rfl | skip)

theorem State.wipeDie_keeps {s : State} {d : Nat} {s0 : State} {L : List Field} (hL : covers [.mem, .staging, .tags] L = true) (h : s0.same L s) : s0.same L (State.wipeDie s d) := by
  unfold State.wipeDie
  try dsimp only
  repeat' first
    | with_reducible assumption
    | with_reducible apply foldl_keeps
    | (intro _; intros; try dsimp only)
    | split
    | (with_reducible apply State.mk_keeps <;> first | exact Or.inr (mem_of_covers hL rfl) | with_reducible exact Or.inl rfl | skip)

theorem State.fixOwners_keeps {s : State} {s0 : State} {L : List Field} (hL : covers [.regs] L = true) (h : s0.same L s) : s0.same L (State.fixOwners s) := by
  unfold State.fixOwners
  try dsimp only
  repeat' first
    | with_reducible assumption
    | with_reducible apply State.set_keeps (covers_trans rfl hL)
    | with_reducible apply foldl_keeps
    | (intro _; intros; try dsimp only)
    | split
    | (with_reducible apply State.mk_keeps <;> first | exact Or.inr (mem_of_covers hL rfl) | with_reducible exact Or.inl rfl | skip)

theorem State.changeMap_keeps {s : State} {map : Nat} {s0 : State} {L : List Field} (hL : covers [.regs, .seq, .seqReported, .events, .mem, .staging, .neg, .tags, .trust, .freeCtr] L = true) (h : s0.same L s) : s0.same L (State.changeMap s map) := by
  unfold State.changeMap
  try dsimp only
  repeat' first
    | with_reducible assumption
    | with_reducible apply State.raise_keeps (covers_trans rfl hL)
    | with_reducible apply State.wipeDie_keeps (covers_trans rfl hL)
    | with_reducible apply State.dropTenant_keeps (covers_trans rfl hL)
    | with_reducible apply State.fixOwners_keeps (covers_trans rfl hL)
    | with_reducible apply State.setReg_keeps (covers_trans rfl hL)
    | with_reducible apply foldl_keeps
    | (intro _; intros; try dsimp only)
    | split
    | (with_reducible apply State.mk_keeps <;> first | exact Or.inr (mem_of_covers hL rfl) | with_reducible exact Or.inl rfl | skip)

theorem doSetPartitionMap_keeps {session : Nat} {map : Nat} {s : State} {s0 : State} {L : List Field} (hL : covers [.regs, .seq, .seqReported, .events, .mem, .staging, .neg, .tags, .trust, .out, .freeCtr] L = true) (h : s0.same L s) : s0.same L (doSetPartitionMap session map s) := by
  unfold doSetPartitionMap
  try dsimp only
  repeat' first
    | with_reducible assumption
    | with_reducible apply State.vendor_keeps (covers_trans rfl hL)
    | with_reducible apply State.changeMap_keeps (covers_trans rfl hL)
    | with_reducible apply foldl_keeps
    | (intro _; intros; try dsimp only)
    | split
    | (with_reducible apply State.mk_keeps <;> first | exact Or.inr (mem_of_covers hL rfl) | with_reducible exact Or.inl rfl | skip)

theorem doLifecycle_keeps {session : Nat} {target : Nat} {start : StartFacts} {s : State} {s0 : State} {L : List Field} (hL : covers [.regs, .counters, .coarse, .latch, .held, .time, .seq, .seqReported, .stamped, .events, .mem, .staging, .neg, .tags, .negTags, .rings, .pools, .plans, .parts, .cores, .tokens, .credits, .layers, .shapes, .searches, .contexts, .pages, .devDraws, .devQueues, .ports, .tally, .retired, .d2dDown, .intake, .power, .trust, .wards, .out, .freeCtr] L = true) (h : s0.same L s) : s0.same L (doLifecycle session target start s) := by
  unfold doLifecycle
  try dsimp only
  repeat' first
    | with_reducible assumption
    | with_reducible apply State.vendor_keeps (covers_trans rfl hL)
    | with_reducible apply State.startUp_keeps (covers_trans rfl hL)
    | with_reducible apply State.transition_keeps (covers_trans rfl hL)
    | with_reducible apply foldl_keeps
    | (intro _; intros; try dsimp only)
    | split
    | (with_reducible apply State.mk_keeps <;> first | exact Or.inr (mem_of_covers hL rfl) | with_reducible exact Or.inl rfl | skip)

theorem doTakeOwnership_keeps {session : Nat} {s : State} {s0 : State} {L : List Field} (hL : covers [.regs, .counters, .coarse, .latch, .held, .time, .seq, .seqReported, .stamped, .events, .mem, .staging, .neg, .tags, .negTags, .rings, .pools, .plans, .parts, .cores, .tokens, .credits, .layers, .shapes, .searches, .contexts, .pages, .devDraws, .devQueues, .ports, .tally, .retired, .d2dDown, .intake, .power, .trust, .wards, .out, .freeCtr] L = true) (h : s0.same L s) : s0.same L (doTakeOwnership session s) := by
  unfold doTakeOwnership
  try dsimp only
  repeat' first
    | with_reducible assumption
    | with_reducible apply State.vendor_keeps (covers_trans rfl hL)
    | with_reducible apply State.transition_keeps (covers_trans rfl hL)
    | with_reducible apply State.modTrust_keeps (covers_trans rfl hL)
    | with_reducible apply foldl_keeps
    | (intro _; intros; try dsimp only)
    | split
    | (with_reducible apply State.mk_keeps <;> first | exact Or.inr (mem_of_covers hL rfl) | with_reducible exact Or.inl rfl | skip)

theorem doVendorReset_keeps {session : Nat} {start : StartFacts} {s : State} {s0 : State} {L : List Field} (hL : covers [.regs, .counters, .coarse, .latch, .held, .time, .seq, .seqReported, .stamped, .events, .mem, .staging, .neg, .tags, .negTags, .rings, .pools, .plans, .parts, .cores, .tokens, .credits, .layers, .shapes, .searches, .contexts, .pages, .devDraws, .devQueues, .ports, .tally, .retired, .d2dDown, .intake, .power, .trust, .wards, .out, .freeCtr] L = true) (h : s0.same L s) : s0.same L (doVendorReset session start s) := by
  unfold doVendorReset
  try dsimp only
  repeat' first
    | with_reducible assumption
    | with_reducible apply State.vendor_keeps (covers_trans rfl hL)
    | with_reducible apply State.startUp_keeps (covers_trans rfl hL)
    | with_reducible apply State.resetModule_keeps (covers_trans rfl hL)
    | with_reducible apply foldl_keeps
    | (intro _; intros; try dsimp only)
    | split
    | (with_reducible apply State.mk_keeps <;> first | exact Or.inr (mem_of_covers hL rfl) | with_reducible exact Or.inl rfl | skip)

theorem State.showGrade_keeps {s : State} {old : Fitted} {s0 : State} {L : List Field} (hL : covers [.regs, .ports] L = true) (h : s0.same L s) : s0.same L (State.showGrade s old) := by
  unfold State.showGrade
  try dsimp only
  repeat' first
    | with_reducible assumption
    | with_reducible apply State.setPair_keeps (covers_trans rfl hL)
    | with_reducible apply State.set_keeps (covers_trans rfl hL)
    | with_reducible apply State.modPort_keeps (covers_trans rfl hL)
    | with_reducible apply foldl_keeps
    | (intro _; intros; try dsimp only)
    | split
    | (with_reducible apply State.mk_keeps <;> first | exact Or.inr (mem_of_covers hL rfl) | with_reducible exact Or.inl rfl | skip)

theorem doGradeRecord_keeps {session : Nat} {record : List Byte} {s : State} {s0 : State} {L : List Field} (hL : covers [.fitted, .regs, .seq, .seqReported, .events, .ports, .out] L = true) (h : s0.same L s) : s0.same L (doGradeRecord session record s) := by
  unfold doGradeRecord
  try dsimp only
  repeat' first
    | with_reducible assumption
    | with_reducible apply State.vendor_keeps (covers_trans rfl hL)
    | with_reducible apply State.showGrade_keeps (covers_trans rfl hL)
    | with_reducible apply State.set_keeps (covers_trans rfl hL)
    | with_reducible apply foldl_keeps
    | (intro _; intros; try dsimp only)
    | split
    | (with_reducible apply State.mk_keeps <;> first | exact Or.inr (mem_of_covers hL rfl) | with_reducible exact Or.inl rfl | skip)

theorem State.wipeAll_keeps {s : State} {s0 : State} {L : List Field} (hL : covers [.events, .mem, .tags, .pools, .plans, .parts, .tokens, .credits, .layers, .shapes, .searches, .contexts, .pages, .devDraws] L = true) (h : s0.same L s) : s0.same L (State.wipeAll s) := by
  unfold State.wipeAll
  try dsimp only
  repeat' first
    | with_reducible assumption
    | with_reducible apply foldl_keeps
    | (intro _; intros; try dsimp only)
    | split
    | (with_reducible apply State.mk_keeps <;> first | exact Or.inr (mem_of_covers hL rfl) | with_reducible exact Or.inl rfl | skip)

theorem doScanEnable_keeps {session : Nat} {s : State} {s0 : State} {L : List Field} (hL : covers [.regs, .seq, .seqReported, .events, .mem, .staging, .tags, .pools, .plans, .parts, .cores, .tokens, .credits, .layers, .shapes, .searches, .contexts, .pages, .devDraws, .devQueues, .ports, .intake, .trust, .out, .freeCtr] L = true) (h : s0.same L s) : s0.same L (doScanEnable session s) := by
  unfold doScanEnable
  try dsimp only
  repeat' first
    | with_reducible assumption
    | with_reducible apply State.vendor_keeps (covers_trans rfl hL)
    | with_reducible apply State.wipeAll_keeps (covers_trans rfl hL)
    | with_reducible apply State.clearSecrets_keeps (covers_trans rfl hL)
    | with_reducible apply State.raise_keeps (covers_trans rfl hL)
    | with_reducible apply State.set_keeps (covers_trans rfl hL)
    | with_reducible apply foldl_keeps
    | (intro _; intros; try dsimp only)
    | split
    | (with_reducible apply State.mk_keeps <;> first | exact Or.inr (mem_of_covers hL rfl) | with_reducible exact Or.inl rfl | skip)

theorem State.idle_keeps {s : State} {s0 : State} {L : List Field} (hL : covers [.fitted, .regs, .counters, .coarse, .latch, .held, .time, .seq, .seqReported, .stamped, .events, .mem, .staging, .neg, .tags, .negTags, .rings, .pools, .plans, .parts, .cores, .tokens, .credits, .layers, .shapes, .searches, .contexts, .pages, .devDraws, .devQueues, .ports, .tally, .retired, .d2dDown, .intake, .power, .trust, .wards, .freeCtr] L = true) (h : s0.same L s) : s0.same L (State.idle s) := by
  unfold State.idle
  try dsimp only
  repeat' first
    | with_reducible assumption
    | with_reducible apply State.finishWrite_keeps (covers_trans rfl hL)
    | with_reducible apply State.carryOff_keeps (covers_trans rfl hL)
    | with_reducible apply State.passTime_keeps (covers_trans rfl hL)
    | with_reducible apply foldl_keeps
    | (intro _; intros; try dsimp only)
    | split
    | (with_reducible apply State.mk_keeps <;> first | exact Or.inr (mem_of_covers hL rfl) | with_reducible exact Or.inl rfl | skip)

theorem State.refreshCoarse_keeps {s : State} {p : Nat} {s0 : State} {L : List Field} (hL : covers [.coarse] L = true) (h : s0.same L s) : s0.same L (State.refreshCoarse s p) := by
  unfold State.refreshCoarse
  try dsimp only
  repeat' first
    | with_reducible assumption
    | with_reducible apply foldl_keeps
    | (intro _; intros; try dsimp only)
    | split
    | (with_reducible apply State.mk_keeps <;> first | exact Or.inr (mem_of_covers hL rfl) | with_reducible exact Or.inl rfl | skip)

theorem State.tickZero_keeps {s : State} {ecc : EccCounts} {s0 : State} {L : List Field} (hL : covers [.regs, .seq, .seqReported, .stamped, .events, .parts, .ports, .tally] L = true) (h : s0.same L s) : s0.same L (State.tickZero s ecc) := by
  unfold State.tickZero
  try dsimp only
  repeat' first
    | with_reducible assumption
    | with_reducible apply State.safelight_keeps (covers_trans rfl hL)
    | with_reducible apply foldl_keeps
    | (intro _; intros; try dsimp only)
    | split
    | (with_reducible apply State.mk_keeps <;> first | exact Or.inr (mem_of_covers hL rfl) | with_reducible exact Or.inl rfl | skip)

theorem State.tickCore_keeps {s : State} {p : Nat} {c : Nat} {s0 : State} {L : List Field} (hL : covers [.regs, .counters, .seq, .seqReported, .events, .cores] L = true) (h : s0.same L s) : s0.same L (State.tickCore s p c) := by
  unfold State.tickCore
  try dsimp only
  repeat' first
    | with_reducible assumption
    | with_reducible apply State.set_keeps (covers_trans rfl hL)
    | with_reducible apply State.count_keeps (covers_trans rfl hL)
    | with_reducible apply State.raise_keeps (covers_trans rfl hL)
    | with_reducible apply State.modCore_keeps (covers_trans rfl hL)
    | with_reducible apply foldl_keeps
    | (intro _; intros; try dsimp only)
    | split
    | (with_reducible apply State.mk_keeps <;> first | exact Or.inr (mem_of_covers hL rfl) | with_reducible exact Or.inl rfl | skip)

theorem State.tickSpare_keeps {s : State} {p : Nat} {s0 : State} {L : List Field} (hL : covers [.regs, .counters, .seq, .seqReported, .events] L = true) (h : s0.same L s) : s0.same L (State.tickSpare s p) := by
  unfold State.tickSpare
  try dsimp only
  repeat' first
    | with_reducible assumption
    | with_reducible apply State.raise_keeps (covers_trans rfl hL)
    | with_reducible apply State.count_keeps (covers_trans rfl hL)
    | with_reducible apply foldl_keeps
    | (intro _; intros; try dsimp only)
    | split
    | (with_reducible apply State.mk_keeps <;> first | exact Or.inr (mem_of_covers hL rfl) | with_reducible exact Or.inl rfl | skip)

theorem State.tickStep_keeps {s : State} {p : Nat} {s0 : State} {L : List Field} (hL : covers [.regs, .counters, .seq, .seqReported, .events, .parts, .cores] L = true) (h : s0.same L s) : s0.same L (State.tickStep s p) := by
  unfold State.tickStep
  try dsimp only
  repeat' first
    | with_reducible assumption
    | with_reducible apply State.modPart_keeps (covers_trans rfl hL)
    | with_reducible apply State.tickSpare_keeps (covers_trans rfl hL)
    | with_reducible apply State.tickCore_keeps (covers_trans rfl hL)
    | with_reducible apply foldl_keeps
    | (intro _; intros; try dsimp only)
    | split
    | (with_reducible apply State.mk_keeps <;> first | exact Or.inr (mem_of_covers hL rfl) | with_reducible exact Or.inl rfl | skip)

theorem doShutterTick_keeps {p : Nat} {ecc : EccCounts} {s : State} {s0 : State} {L : List Field} (hL : covers [.regs, .counters, .coarse, .time, .seq, .seqReported, .stamped, .events, .pools, .parts, .cores, .ports, .tally] L = true) (h : s0.same L s) : s0.same L (doShutterTick p ecc s) := by
  unfold doShutterTick
  try dsimp only
  repeat' first
    | with_reducible assumption
    | with_reducible apply State.advanceTo_keeps (covers_trans rfl hL)
    | with_reducible apply State.reportStarved_keeps (covers_trans rfl hL)
    | with_reducible apply State.modPart_keeps (covers_trans rfl hL)
    | with_reducible apply State.tickZero_keeps (covers_trans rfl hL)
    | with_reducible apply State.refreshCoarse_keeps (covers_trans rfl hL)
    | with_reducible apply State.tickStep_keeps (covers_trans rfl hL)
    | with_reducible apply foldl_keeps
    | (intro _; intros; try dsimp only)
    | split
    | (with_reducible apply State.mk_keeps <;> first | exact Or.inr (mem_of_covers hL rfl) | with_reducible exact Or.inl rfl | skip)

theorem doStepZeroStart_keeps {p : Nat} {s : State} {s0 : State} {L : List Field} (hL : covers [.regs, .counters, .seq, .seqReported, .events, .parts, .cores, .devDraws, .ports, .intake, .power] L = true) (h : s0.same L s) : s0.same L (doStepZeroStart p s) := by
  unfold doStepZeroStart
  try dsimp only
  repeat' first
    | with_reducible assumption
    | with_reducible apply State.snapshotRecord_keeps (covers_trans rfl hL)
    | with_reducible apply State.beginStep_keeps (covers_trans rfl hL)
    | with_reducible apply State.evalEta_keeps (covers_trans rfl hL)
    | with_reducible apply State.modPart_keeps (covers_trans rfl hL)
    | with_reducible apply foldl_keeps
    | (intro _; intros; try dsimp only)
    | split
    | (with_reducible apply State.mk_keeps <;> first | exact Or.inr (mem_of_covers hL rfl) | with_reducible exact Or.inl rfl | skip)

theorem doStepEnd_keeps {p : Nat} {s : State} {s0 : State} {L : List Field} (hL : covers [.regs, .counters, .seq, .seqReported, .events, .parts, .cores, .layers, .contexts, .devDraws, .ports, .tally, .intake, .power] L = true) (h : s0.same L s) : s0.same L (doStepEnd p s) := by
  unfold doStepEnd
  try dsimp only
  repeat' first
    | with_reducible assumption
    | with_reducible apply State.raise_keeps (covers_trans rfl hL)
    | with_reducible apply State.stepBoundary_keeps (covers_trans rfl hL)
    | with_reducible apply foldl_keeps
    | (intro _; intros; try dsimp only)
    | split
    | (with_reducible apply State.mk_keeps <;> first | exact Or.inr (mem_of_covers hL rfl) | with_reducible exact Or.inl rfl | skip)

theorem doStepHeld_keeps {p : Nat} {s : State} {s0 : State} {L : List Field} (hL : covers [.regs, .seq, .seqReported, .events, .parts] L = true) (h : s0.same L s) : s0.same L (doStepHeld p s) := by
  unfold doStepHeld
  try dsimp only
  repeat' first
    | with_reducible assumption
    | with_reducible apply State.raise_keeps (covers_trans rfl hL)
    | with_reducible apply State.modPart_keeps (covers_trans rfl hL)
    | with_reducible apply foldl_keeps
    | (intro _; intros; try dsimp only)
    | split
    | (with_reducible apply State.mk_keeps <;> first | exact Or.inr (mem_of_covers hL rfl) | with_reducible exact Or.inl rfl | skip)

theorem doStepHoldLimit_keeps {p : Nat} {s : State} {s0 : State} {L : List Field} (hL : covers [.regs, .seq, .seqReported, .events, .parts, .ports] L = true) (h : s0.same L s) : s0.same L (doStepHoldLimit p s) := by
  unfold doStepHoldLimit
  try dsimp only
  repeat' first
    | with_reducible assumption
    | with_reducible apply State.stepFault_keeps (covers_trans rfl hL)
    | with_reducible apply State.raise_keeps (covers_trans rfl hL)
    | with_reducible apply foldl_keeps
    | (intro _; intros; try dsimp only)
    | split
    | (with_reducible apply State.mk_keeps <;> first | exact Or.inr (mem_of_covers hL rfl) | with_reducible exact Or.inl rfl | skip)

theorem doTimeLockTimeout_keeps {p : Nat} {s : State} {s0 : State} {L : List Field} (hL : covers [.regs, .time, .seq, .seqReported, .events, .parts, .ports] L = true) (h : s0.same L s) : s0.same L (doTimeLockTimeout p s) := by
  unfold doTimeLockTimeout
  try dsimp only
  repeat' first
    | with_reducible assumption
    | with_reducible apply State.stepFault_keeps (covers_trans rfl hL)
    | with_reducible apply foldl_keeps
    | (intro _; intros; try dsimp only)
    | split
    | (with_reducible apply State.mk_keeps <;> first | exact Or.inr (mem_of_covers hL rfl) | with_reducible exact Or.inl rfl | skip)

theorem doWithdraw_keeps {p : Nat} {s : State} {s0 : State} {L : List Field} (hL : covers [.parts] L = true) (h : s0.same L s) : s0.same L (doWithdraw p s) := by
  unfold doWithdraw
  try dsimp only
  repeat' first
    | with_reducible assumption
    | with_reducible apply State.modPart_keeps (covers_trans rfl hL)
    | with_reducible apply foldl_keeps
    | (intro _; intros; try dsimp only)
    | split
    | (with_reducible apply State.mk_keeps <;> first | exact Or.inr (mem_of_covers hL rfl) | with_reducible exact Or.inl rfl | skip)

theorem State.dropDescriptors_keeps {s : State} {p : Nat} {s0 : State} {L : List Field} (hL : covers [.rings] L = true) (h : s0.same L s) : s0.same L (State.dropDescriptors s p) := by
  unfold State.dropDescriptors
  try dsimp only
  repeat' first
    | with_reducible assumption
    | with_reducible apply State.finish_keeps (covers_trans rfl hL)
    | with_reducible apply foldl_keeps
    | (intro _; intros; try dsimp only)
    | split
    | (with_reducible apply State.mk_keeps <;> first | exact Or.inr (mem_of_covers hL rfl) | with_reducible exact Or.inl rfl | skip)

theorem State.dropReshard_keeps {s : State} {p : Nat} {s0 : State} {L : List Field} (hL : covers [.regs, .rings, .parts] L = true) (h : s0.same L s) : s0.same L (State.dropReshard s p) := by
  unfold State.dropReshard
  try dsimp only
  repeat' first
    | with_reducible assumption
    | with_reducible apply State.finish_keeps (covers_trans rfl hL)
    | with_reducible apply State.setPair_keeps (covers_trans rfl hL)
    | with_reducible apply State.set_keeps (covers_trans rfl hL)
    | with_reducible apply State.modPart_keeps (covers_trans rfl hL)
    | with_reducible apply foldl_keeps
    | (intro _; intros; try dsimp only)
    | split
    | (with_reducible apply State.mk_keeps <;> first | exact Or.inr (mem_of_covers hL rfl) | with_reducible exact Or.inl rfl | skip)

theorem State.noteFixers_keeps {s : State} {s0 : State} {L : List Field} (hL : covers [.regs] L = true) (h : s0.same L s) : s0.same L (State.noteFixers s) := by
  unfold State.noteFixers
  try dsimp only
  repeat' first
    | with_reducible assumption
    | with_reducible apply State.set_keeps (covers_trans rfl hL)
    | with_reducible apply foldl_keeps
    | (intro _; intros; try dsimp only)
    | split
    | (with_reducible apply State.mk_keeps <;> first | exact Or.inr (mem_of_covers hL rfl) | with_reducible exact Or.inl rfl | skip)

theorem State.leavePlan_keeps {s : State} {p : Nat} {s0 : State} {L : List Field} (hL : covers [.regs, .counters, .seq, .seqReported, .events, .rings, .parts, .credits, .contexts, .pages, .intake] L = true) (h : s0.same L s) : s0.same L (State.leavePlan s p) := by
  unfold State.leavePlan
  try dsimp only
  repeat' first
    | with_reducible assumption
    | with_reducible apply State.dropIntake_keeps (covers_trans rfl hL)
    | with_reducible apply State.closeAllCtx_keeps (covers_trans rfl hL)
    | with_reducible apply State.dropReshard_keeps (covers_trans rfl hL)
    | with_reducible apply State.dropDescriptors_keeps (covers_trans rfl hL)
    | with_reducible apply State.modPart_keeps (covers_trans rfl hL)
    | with_reducible apply State.noteFixers_keeps (covers_trans rfl hL)
    | with_reducible apply State.set_keeps (covers_trans rfl hL)
    | with_reducible apply foldl_keeps
    | (intro _; intros; try dsimp only)
    | split
    | (with_reducible apply State.mk_keeps <;> first | exact Or.inr (mem_of_covers hL rfl) | with_reducible exact Or.inl rfl | skip)

theorem doAdmissionRestoreDone_keeps {p : Nat} {s : State} {s0 : State} {L : List Field} (hL : covers [.regs, .counters, .seq, .seqReported, .events, .mem, .staging, .neg, .tags, .negTags, .rings, .parts, .credits, .layers, .contexts, .pages, .ports, .intake] L = true) (h : s0.same L s) : s0.same L (doAdmissionRestoreDone p s) := by
  unfold doAdmissionRestoreDone
  try dsimp only
  repeat' first
    | with_reducible assumption
    | with_reducible apply State.modFixer_keeps (covers_trans rfl hL)
    | with_reducible apply State.restoreFrom_keeps (covers_trans rfl hL)
    | with_reducible apply State.set_keeps (covers_trans rfl hL)
    | with_reducible apply State.leavePlan_keeps (covers_trans rfl hL)
    | with_reducible apply foldl_keeps
    | (intro _; intros; try dsimp only)
    | split
    | (with_reducible apply State.mk_keeps <;> first | exact Or.inr (mem_of_covers hL rfl) | with_reducible exact Or.inl rfl | skip)

theorem doPlanWithdrawal_keeps {p : Nat} {s : State} {s0 : State} {L : List Field} (hL : covers [.regs, .counters, .seq, .seqReported, .events, .rings, .parts, .credits, .contexts, .pages, .intake] L = true) (h : s0.same L s) : s0.same L (doPlanWithdrawal p s) := by
  unfold doPlanWithdrawal
  try dsimp only
  repeat' first
    | with_reducible assumption
    | with_reducible apply State.leavePlan_keeps (covers_trans rfl hL)
    | with_reducible apply State.raise_keeps (covers_trans rfl hL)
    | with_reducible apply foldl_keeps
    | (intro _; intros; try dsimp only)
    | split
    | (with_reducible apply State.mk_keeps <;> first | exact Or.inr (mem_of_covers hL rfl) | with_reducible exact Or.inl rfl | skip)

theorem State.acceptPlan_keeps {s : State} {ring : Nat} {d : Started} {p : Nat} {m : Image} {s0 : State} {L : List Field} (hL : covers [.regs, .counters, .seq, .seqReported, .events, .mem, .tags, .rings, .plans, .parts, .trust] L = true) (h : s0.same L s) : s0.same L (State.acceptPlan s ring d p m) := by
  unfold State.acceptPlan
  try dsimp only
  repeat' first
    | with_reducible assumption
    | with_reducible apply State.reportClamp_keeps (covers_trans rfl hL)
    | with_reducible apply State.raise_keeps (covers_trans rfl hL)
    | with_reducible apply State.finish_keeps (covers_trans rfl hL)
    | with_reducible apply foldl_keeps
    | (intro _; intros; try dsimp only)
    | split
    | (with_reducible apply State.mk_keeps <;> first | exact Or.inr (mem_of_covers hL rfl) | with_reducible exact Or.inl rfl | skip)

theorem doLoadPlan_keeps {ring : Nat} {s : State} {s0 : State} {L : List Field} (hL : covers [.regs, .counters, .seq, .seqReported, .events, .mem, .tags, .rings, .pools, .plans, .parts, .trust, .out] L = true) (h : s0.same L s) : s0.same L (doLoadPlan ring s) := by
  unfold doLoadPlan
  try dsimp only
  repeat' first
    | with_reducible assumption
    | with_reducible apply State.finish_keeps (covers_trans rfl hL)
    | with_reducible apply State.consumeSlot_keeps (covers_trans rfl hL)
    | with_reducible apply State.acceptPlan_keeps (covers_trans rfl hL)
    | with_reducible apply State.raise_keeps (covers_trans rfl hL)
    | with_reducible apply State.releaseSlot_keeps (covers_trans rfl hL)
    | with_reducible apply foldl_keeps
    | (intro _; intros; try dsimp only)
    | split
    | (with_reducible apply State.mk_keeps <;> first | exact Or.inr (mem_of_covers hL rfl) | with_reducible exact Or.inl rfl | skip)

theorem State.dropPlan_keeps {s : State} {p : Nat} {id : Nat} {s0 : State} {L : List Field} (hL : covers [.regs, .plans, .parts, .cores, .devQueues] L = true) (h : s0.same L s) : s0.same L (State.dropPlan s p id) := by
  unfold State.dropPlan
  try dsimp only
  repeat' first
    | with_reducible assumption
    | with_reducible apply State.set_keeps (covers_trans rfl hL)
    | with_reducible apply State.leaveDevelopers_keeps (covers_trans rfl hL)
    | with_reducible apply State.modCore_keeps (covers_trans rfl hL)
    | with_reducible apply State.modPart_keeps (covers_trans rfl hL)
    | with_reducible apply foldl_keeps
    | (intro _; intros; try dsimp only)
    | split
    | (with_reducible apply State.mk_keeps <;> first | exact Or.inr (mem_of_covers hL rfl) | with_reducible exact Or.inl rfl | skip)

theorem doUnloadPlan_keeps {ring : Nat} {s : State} {s0 : State} {L : List Field} (hL : covers [.regs, .rings, .plans, .parts, .cores, .devQueues] L = true) (h : s0.same L s) : s0.same L (doUnloadPlan ring s) := by
  unfold doUnloadPlan
  try dsimp only
  repeat' first
    | with_reducible assumption
    | with_reducible apply State.finish_keeps (covers_trans rfl hL)
    | with_reducible apply State.dropPlan_keeps (covers_trans rfl hL)
    | with_reducible apply foldl_keeps
    | (intro _; intros; try dsimp only)
    | split
    | (with_reducible apply State.mk_keeps <;> first | exact Or.inr (mem_of_covers hL rfl) | with_reducible exact Or.inl rfl | skip)

end Sys2Proof.Machine
end

