-- ==== Sys2Proof/Laws/Keeps9.lean ====
section
/-! SUPPORT. The fields an operation leaves alone, for the operations in Admit.lean, Issue.lean, Ledger.lean, Reshard.lean, Registers.lean, Step.lean. -/

set_option Elab.async false

namespace Sys2Proof.Machine

theorem doAdmitPlan_keeps {ring : Nat} {s : State} {s0 : State} {L : List Field} (hL : covers [.regs, .counters, .seq, .seqReported, .events, .rings, .pools, .parts] L = true) (h : s0.same L s) : s0.same L (doAdmitPlan ring s) := by
  unfold doAdmitPlan
  try dsimp only
  repeat' first
    | with_reducible assumption
    | with_reducible apply State.finish_keeps (covers_trans rfl hL)
    | with_reducible apply State.modPart_keeps (covers_trans rfl hL)
    | with_reducible apply State.beginDesc_keeps (covers_trans rfl hL)
    | with_reducible apply State.consumeSlot_keeps (covers_trans rfl hL)
    | with_reducible apply foldl_keeps
    | (intro _; intros; try dsimp only)
    | split
    | (with_reducible apply State.mk_keeps <;> first | exact Or.inr (mem_of_covers hL rfl) | with_reducible exact Or.inl rfl | skip)

theorem State.showPlan_keeps {s : State} {p : Nat} {pl : Plan} {s0 : State} {L : List Field} (hL : covers [.regs] L = true) (h : s0.same L s) : s0.same L (State.showPlan s p pl) := by
  unfold State.showPlan
  try dsimp only
  repeat' first
    | with_reducible assumption
    | with_reducible apply State.set_keeps (covers_trans rfl hL)
    | with_reducible apply foldl_keeps
    | (intro _; intros; try dsimp only)
    | split
    | (with_reducible apply State.mk_keeps <;> first | exact Or.inr (mem_of_covers hL rfl) | with_reducible exact Or.inl rfl | skip)

theorem State.beginRestore_keeps {s : State} {p : Nat} {pl : Plan} {s0 : State} {L : List Field} (hL : covers [.regs, .parts] L = true) (h : s0.same L s) : s0.same L (State.beginRestore s p pl) := by
  unfold State.beginRestore
  try dsimp only
  repeat' first
    | with_reducible assumption
    | with_reducible apply State.modPart_keeps (covers_trans rfl hL)
    | with_reducible apply State.noteFixers_keeps (covers_trans rfl hL)
    | with_reducible apply foldl_keeps
    | (intro _; intros; try dsimp only)
    | split
    | (with_reducible apply State.mk_keeps <;> first | exact Or.inr (mem_of_covers hL rfl) | with_reducible exact Or.inl rfl | skip)

theorem State.admitPlan_keeps {s : State} {p : Nat} {pl : Plan} {margin : Int} {s0 : State} {L : List Field} (hL : covers [.regs, .seq, .seqReported, .events, .parts, .tokens, .credits, .layers, .contexts, .intake] L = true) (h : s0.same L s) : s0.same L (State.admitPlan s p pl margin) := by
  unfold State.admitPlan
  try dsimp only
  repeat' first
    | with_reducible assumption
    | with_reducible apply State.modPart_keeps (covers_trans rfl hL)
    | with_reducible apply State.adoptIntake_keeps (covers_trans rfl hL)
    | with_reducible apply State.openTraining_keeps (covers_trans rfl hL)
    | with_reducible apply State.admitGroups_keeps (covers_trans rfl hL)
    | with_reducible apply State.admitLayers_keeps (covers_trans rfl hL)
    | with_reducible apply State.beginRestore_keeps (covers_trans rfl hL)
    | with_reducible apply State.showPlan_keeps (covers_trans rfl hL)
    | with_reducible apply State.set_keeps (covers_trans rfl hL)
    | with_reducible apply foldl_keeps
    | (intro _; intros; try dsimp only)
    | split
    | (with_reducible apply State.mk_keeps <;> first | exact Or.inr (mem_of_covers hL rfl) | with_reducible exact Or.inl rfl | skip)

theorem State.notePeaks_keeps {s : State} {k : Check} {s0 : State} {L : List Field} (hL : covers [.regs] L = true) (h : s0.same L s) : s0.same L (State.notePeaks s k) := by
  unfold State.notePeaks
  try dsimp only
  repeat' first
    | with_reducible assumption
    | with_reducible apply State.set_keeps (covers_trans rfl hL)
    | with_reducible apply State.setPair_keeps (covers_trans rfl hL)
    | with_reducible apply foldl_keeps
    | (intro _; intros; try dsimp only)
    | split
    | (with_reducible apply State.mk_keeps <;> first | exact Or.inr (mem_of_covers hL rfl) | with_reducible exact Or.inl rfl | skip)

theorem doLightMeterDone_keeps {p : Nat} {s : State} {s0 : State} {L : List Field} (hL : covers [.regs, .counters, .seq, .seqReported, .events, .mem, .tags, .rings, .pools, .parts, .tokens, .credits, .layers, .contexts, .intake, .out] L = true) (h : s0.same L s) : s0.same L (doLightMeterDone p s) := by
  unfold doLightMeterDone
  try dsimp only
  repeat' first
    | with_reducible assumption
    | with_reducible apply State.writeReport_keeps (covers_trans rfl hL)
    | with_reducible apply State.stampUsed_keeps (covers_trans rfl hL)
    | with_reducible apply State.notePeaks_keeps (covers_trans rfl hL)
    | with_reducible apply State.finish_keeps (covers_trans rfl hL)
    | with_reducible apply State.raise_keeps (covers_trans rfl hL)
    | with_reducible apply State.admitPlan_keeps (covers_trans rfl hL)
    | with_reducible apply State.count_keeps (covers_trans rfl hL)
    | with_reducible apply State.modPart_keeps (covers_trans rfl hL)
    | with_reducible apply foldl_keeps
    | (intro _; intros; try dsimp only)
    | split
    | (with_reducible apply State.mk_keeps <;> first | exact Or.inr (mem_of_covers hL rfl) | with_reducible exact Or.inl rfl | skip)

theorem State.feedDevelopers_keeps {s : State} {c : Nat} {r : Running} {s0 : State} {L : List Field} (hL : covers [.devQueues] L = true) (h : s0.same L s) : s0.same L (State.feedDevelopers s c r) := by
  unfold State.feedDevelopers
  try dsimp only
  repeat' first
    | with_reducible assumption
    | with_reducible apply foldl_keeps
    | (intro _; intros; try dsimp only)
    | split
    | (with_reducible apply State.mk_keeps <;> first | exact Or.inr (mem_of_covers hL rfl) | with_reducible exact Or.inl rfl | skip)

theorem State.startTask_keeps {s : State} {c : Nat} {r : Running} {s0 : State} {L : List Field} (hL : covers [.regs, .counters, .seq, .seqReported, .stamped, .events, .parts, .cores, .credits, .devQueues, .power, .out] L = true) (h : s0.same L s) : s0.same L (State.startTask s c r) := by
  unfold State.startTask
  try dsimp only
  repeat' first
    | with_reducible assumption
    | with_reducible apply State.wake_keeps (covers_trans rfl hL)
    | with_reducible apply State.modQueue_keeps (covers_trans rfl hL)
    | with_reducible apply State.modCore_keeps (covers_trans rfl hL)
    | with_reducible apply State.set_keeps (covers_trans rfl hL)
    | with_reducible apply State.showRecord_keeps (covers_trans rfl hL)
    | with_reducible apply State.feedDevelopers_keeps (covers_trans rfl hL)
    | with_reducible apply State.takeHalos_keeps (covers_trans rfl hL)
    | with_reducible apply foldl_keeps
    | (intro _; intros; try dsimp only)
    | split
    | (with_reducible apply State.mk_keeps <;> first | exact Or.inr (mem_of_covers hL rfl) | with_reducible exact Or.inl rfl | skip)

theorem doTaskIssue_keeps {core : Nat} {s : State} {s0 : State} {L : List Field} (hL : covers [.regs, .counters, .seq, .seqReported, .stamped, .events, .parts, .cores, .credits, .devQueues, .power, .out] L = true) (h : s0.same L s) : s0.same L (doTaskIssue core s) := by
  unfold doTaskIssue
  try dsimp only
  repeat' first
    | with_reducible assumption
    | with_reducible apply State.noteWait_keeps (covers_trans rfl hL)
    | with_reducible apply State.noteFixerWait_keeps (covers_trans rfl hL)
    | with_reducible apply State.startTask_keeps (covers_trans rfl hL)
    | with_reducible apply foldl_keeps
    | (intro _; intros; try dsimp only)
    | split
    | (with_reducible apply State.mk_keeps <;> first | exact Or.inr (mem_of_covers hL rfl) | with_reducible exact Or.inl rfl | skip)

theorem doCreditReceived_keeps {p : Nat} {queue : Nat} {s : State} {s0 : State} {L : List Field} (hL : covers [.parts, .cores, .credits] L = true) (h : s0.same L s) : s0.same L (doCreditReceived p queue s) := by
  unfold doCreditReceived
  try dsimp only
  repeat' first
    | with_reducible assumption
    | with_reducible apply State.modQueue_keeps (covers_trans rfl hL)
    | with_reducible apply State.endWaits_keeps (covers_trans rfl hL)
    | with_reducible apply foldl_keeps
    | (intro _; intros; try dsimp only)
    | split
    | (with_reducible apply State.mk_keeps <;> first | exact Or.inr (mem_of_covers hL rfl) | with_reducible exact Or.inl rfl | skip)

theorem State.countNeg_keeps {s : State} {src : Tensor} {dst : Tensor} {readUnits : Nat} {writeUnits : Nat} {s0 : State} {L : List Field} (hL : covers [.regs, .counters, .seq, .seqReported, .events] L = true) (h : s0.same L s) : s0.same L (State.countNeg s src dst readUnits writeUnits) := by
  unfold State.countNeg
  try dsimp only
  repeat' first
    | with_reducible assumption
    | with_reducible apply State.count_keeps (covers_trans rfl hL)
    | with_reducible apply foldl_keeps
    | (intro _; intros; try dsimp only)
    | split
    | (with_reducible apply State.mk_keeps <;> first | exact Or.inr (mem_of_covers hL rfl) | with_reducible exact Or.inl rfl | skip)

theorem State.copyBlock_keeps {s : State} {p : Nat} {src : Tensor} {dst : Tensor} {j : Nat} {s0 : State} {L : List Field} (hL : covers [.regs, .counters, .seq, .seqReported, .events, .mem, .staging, .neg, .tags, .negTags] L = true) (h : s0.same L s) : s0.same L (State.copyBlock s p src dst j) := by
  unfold State.copyBlock
  try dsimp only
  repeat' first
    | with_reducible assumption
    | with_reducible apply State.countNeg_keeps (covers_trans rfl hL)
    | with_reducible apply State.writeSpace_keeps (covers_trans rfl hL)
    | with_reducible apply State.putBlock_keeps (covers_trans rfl hL)
    | with_reducible apply foldl_keeps
    | (intro _; intros; try dsimp only)
    | split
    | (with_reducible apply State.mk_keeps <;> first | exact Or.inr (mem_of_covers hL rfl) | with_reducible exact Or.inl rfl | skip)

theorem State.encodeBlockAt_keeps {s : State} {p : Nat} {src : Tensor} {dst : Tensor} {j : Nat} {s0 : State} {L : List Field} (hL : covers [.regs, .counters, .seq, .seqReported, .events, .mem, .staging, .neg, .tags, .negTags] L = true) (h : s0.same L s) : s0.same L (State.encodeBlockAt s p src dst j) := by
  unfold State.encodeBlockAt
  try dsimp only
  repeat' first
    | with_reducible assumption
    | with_reducible apply State.countNeg_keeps (covers_trans rfl hL)
    | with_reducible apply State.store_keeps (covers_trans rfl hL)
    | with_reducible apply State.clearWrite_keeps (covers_trans rfl hL)
    | with_reducible apply foldl_keeps
    | (intro _; intros; try dsimp only)
    | split
    | (with_reducible apply State.mk_keeps <;> first | exact Or.inr (mem_of_covers hL rfl) | with_reducible exact Or.inl rfl | skip)

theorem State.decoderReads_keeps {s : State} {r : Running} {o : Operand} {j : Nat} {s0 : State} {L : List Field} (hL : covers [.regs, .counters, .seq, .seqReported, .events, .parts, .ports] L = true) (h : s0.same L s) : s0.same L (State.decoderReads s r o j) := by
  unfold State.decoderReads
  try dsimp only
  repeat' first
    | with_reducible assumption
    | with_reducible apply State.count_keeps (covers_trans rfl hL)
    | with_reducible apply State.readErrors_keeps (covers_trans rfl hL)
    | with_reducible apply foldl_keeps
    | (intro _; intros; try dsimp only)
    | split
    | (with_reducible apply State.mk_keeps <;> first | exact Or.inr (mem_of_covers hL rfl) | with_reducible exact Or.inl rfl | skip)

theorem State.decodeBlockAt_keeps {s : State} {r : Running} {o : Operand} {dst : Tensor} {j : Nat} {s0 : State} {L : List Field} (hL : covers [.regs, .counters, .seq, .seqReported, .events, .mem, .staging, .neg, .tags, .negTags, .parts, .ports] L = true) (h : s0.same L s) : s0.same L (State.decodeBlockAt s r o dst j) := by
  unfold State.decodeBlockAt
  try dsimp only
  repeat' first
    | with_reducible assumption
    | with_reducible apply State.store_keeps (covers_trans rfl hL)
    | with_reducible apply State.writeSpace_keeps (covers_trans rfl hL)
    | with_reducible apply State.countNeg_keeps (covers_trans rfl hL)
    | with_reducible apply State.decoderReads_keeps (covers_trans rfl hL)
    | with_reducible apply foldl_keeps
    | (intro _; intros; try dsimp only)
    | split
    | (with_reducible apply State.mk_keeps <;> first | exact Or.inr (mem_of_covers hL rfl) | with_reducible exact Or.inl rfl | skip)

theorem State.recodeBlockAt_keeps {s : State} {r : Running} {o : Operand} {j : Nat} {s0 : State} {L : List Field} (hL : covers [.regs, .counters, .seq, .seqReported, .events, .mem, .neg, .tags, .negTags, .parts, .ports] L = true) (h : s0.same L s) : s0.same L (State.recodeBlockAt s r o j) := by
  unfold State.recodeBlockAt
  try dsimp only
  repeat' first
    | with_reducible assumption
    | with_reducible apply State.clearWrite_keeps (covers_trans rfl hL)
    | with_reducible apply State.decoderReads_keeps (covers_trans rfl hL)
    | with_reducible apply State.countNeg_keeps (covers_trans rfl hL)
    | with_reducible apply foldl_keeps
    | (intro _; intros; try dsimp only)
    | split
    | (with_reducible apply State.mk_keeps <;> first | exact Or.inr (mem_of_covers hL rfl) | with_reducible exact Or.inl rfl | skip)

theorem State.codecTask_keeps {s : State} {c : Nat} {mode : Nat} {move : State →   Running → Operand → Operand → Nat → State} {s0 : State} {L : List Field} (hL : covers [.regs, .counters, .seq, .seqReported, .events, .parts, .cores, .devQueues, .freeCtr] L = true) (h : s0.same L s) (hmove : ∀ (y0 : State) (y1 : Running) (y2 : Operand) (y3 : Operand) (y4 : Nat), s0.same L y0 → s0.same L (move y0 y1 y2 y3 y4)) : s0.same L (State.codecTask s c mode move) := by
  unfold State.codecTask
  try dsimp only
  repeat' first
    | with_reducible assumption
    | with_reducible apply State.endTask_keeps (covers_trans rfl hL)
    | with_reducible apply hmove
    | with_reducible apply foldl_keeps
    | (intro _; intros; try dsimp only)
    | split
    | (with_reducible apply State.mk_keeps <;> first | exact Or.inr (mem_of_covers hL rfl) | with_reducible exact Or.inl rfl | skip)

theorem doOffload_keeps {core : Nat} {s : State} {s0 : State} {L : List Field} (hL : covers [.regs, .counters, .seq, .seqReported, .events, .mem, .staging, .neg, .tags, .negTags, .parts, .cores, .devQueues, .freeCtr] L = true) (h : s0.same L s) : s0.same L (doOffload core s) := by
  unfold doOffload
  try dsimp only
  repeat' first
    | with_reducible assumption
    | with_reducible apply State.codecTask_keeps (covers_trans rfl hL)
    | with_reducible apply State.copyBlock_keeps (covers_trans rfl hL)
    | with_reducible apply foldl_keeps
    | (intro _; intros; try dsimp only)
    | split
    | (with_reducible apply State.mk_keeps <;> first | exact Or.inr (mem_of_covers hL rfl) | with_reducible exact Or.inl rfl | skip)

theorem doFetch_keeps {core : Nat} {s : State} {s0 : State} {L : List Field} (hL : covers [.regs, .counters, .seq, .seqReported, .events, .mem, .staging, .neg, .tags, .negTags, .parts, .cores, .devQueues, .freeCtr] L = true) (h : s0.same L s) : s0.same L (doFetch core s) := by
  unfold doFetch
  try dsimp only
  repeat' first
    | with_reducible assumption
    | with_reducible apply State.codecTask_keeps (covers_trans rfl hL)
    | with_reducible apply State.copyBlock_keeps (covers_trans rfl hL)
    | with_reducible apply foldl_keeps
    | (intro _; intros; try dsimp only)
    | split
    | (with_reducible apply State.mk_keeps <;> first | exact Or.inr (mem_of_covers hL rfl) | with_reducible exact Or.inl rfl | skip)

theorem doEncode_keeps {core : Nat} {s : State} {s0 : State} {L : List Field} (hL : covers [.regs, .counters, .seq, .seqReported, .events, .mem, .staging, .neg, .tags, .negTags, .parts, .cores, .devQueues, .freeCtr] L = true) (h : s0.same L s) : s0.same L (doEncode core s) := by
  unfold doEncode
  try dsimp only
  repeat' first
    | with_reducible assumption
    | with_reducible apply State.codecTask_keeps (covers_trans rfl hL)
    | with_reducible apply State.encodeBlockAt_keeps (covers_trans rfl hL)
    | with_reducible apply foldl_keeps
    | (intro _; intros; try dsimp only)
    | split
    | (with_reducible apply State.mk_keeps <;> first | exact Or.inr (mem_of_covers hL rfl) | with_reducible exact Or.inl rfl | skip)

theorem doDecode_keeps {core : Nat} {s : State} {s0 : State} {L : List Field} (hL : covers [.regs, .counters, .seq, .seqReported, .events, .mem, .staging, .neg, .tags, .negTags, .parts, .cores, .devQueues, .ports, .freeCtr] L = true) (h : s0.same L s) : s0.same L (doDecode core s) := by
  unfold doDecode
  try dsimp only
  repeat' first
    | with_reducible assumption
    | with_reducible apply State.codecTask_keeps (covers_trans rfl hL)
    | with_reducible apply State.decodeBlockAt_keeps (covers_trans rfl hL)
    | with_reducible apply foldl_keeps
    | (intro _; intros; try dsimp only)
    | split
    | (with_reducible apply State.mk_keeps <;> first | exact Or.inr (mem_of_covers hL rfl) | with_reducible exact Or.inl rfl | skip)

theorem doRecode_keeps {core : Nat} {s : State} {s0 : State} {L : List Field} (hL : covers [.regs, .counters, .seq, .seqReported, .events, .mem, .neg, .tags, .negTags, .parts, .cores, .devQueues, .ports, .freeCtr] L = true) (h : s0.same L s) : s0.same L (doRecode core s) := by
  unfold doRecode
  try dsimp only
  repeat' first
    | with_reducible assumption
    | with_reducible apply State.codecTask_keeps (covers_trans rfl hL)
    | with_reducible apply State.recodeBlockAt_keeps (covers_trans rfl hL)
    | with_reducible apply foldl_keeps
    | (intro _; intros; try dsimp only)
    | split
    | (with_reducible apply State.mk_keeps <;> first | exact Or.inr (mem_of_covers hL rfl) | with_reducible exact Or.inl rfl | skip)

theorem State.noteCurrent_keeps {s : State} {p : Nat} {s0 : State} {L : List Field} (hL : covers [.regs] L = true) (h : s0.same L s) : s0.same L (State.noteCurrent s p) := by
  unfold State.noteCurrent
  try dsimp only
  repeat' first
    | with_reducible assumption
    | with_reducible apply State.set_keeps (covers_trans rfl hL)
    | with_reducible apply foldl_keeps
    | (intro _; intros; try dsimp only)
    | split
    | (with_reducible apply State.mk_keeps <;> first | exact Or.inr (mem_of_covers hL rfl) | with_reducible exact Or.inl rfl | skip)

theorem State.freeGen_keeps {s : State} {p : Nat} {g : Nat} {s0 : State} {L : List Field} (hL : covers [.regs, .seq, .seqReported, .events, .parts] L = true) (h : s0.same L s) : s0.same L (State.freeGen s p g) := by
  unfold State.freeGen
  try dsimp only
  repeat' first
    | with_reducible assumption
    | with_reducible apply State.noteCurrent_keeps (covers_trans rfl hL)
    | with_reducible apply State.raise_keeps (covers_trans rfl hL)
    | with_reducible apply State.modGen_keeps (covers_trans rfl hL)
    | with_reducible apply foldl_keeps
    | (intro _; intros; try dsimp only)
    | split
    | (with_reducible apply State.mk_keeps <;> first | exact Or.inr (mem_of_covers hL rfl) | with_reducible exact Or.inl rfl | skip)

theorem doClearGenFreed_keeps {p : Nat} {gen : Nat} {s : State} {s0 : State} {L : List Field} (hL : covers [.regs, .seq, .seqReported, .events, .parts] L = true) (h : s0.same L s) : s0.same L (doClearGenFreed p gen s) := by
  unfold doClearGenFreed
  try dsimp only
  repeat' first
    | with_reducible assumption
    | with_reducible apply State.freeGen_keeps (covers_trans rfl hL)
    | with_reducible apply foldl_keeps
    | (intro _; intros; try dsimp only)
    | split
    | (with_reducible apply State.mk_keeps <;> first | exact Or.inr (mem_of_covers hL rfl) | with_reducible exact Or.inl rfl | skip)

theorem State.makeCurrent_keeps {s : State} {p : Nat} {g : Nat} {s0 : State} {L : List Field} (hL : covers [.regs, .seq, .seqReported, .events, .parts] L = true) (h : s0.same L s) : s0.same L (State.makeCurrent s p g) := by
  unfold State.makeCurrent
  try dsimp only
  repeat' first
    | with_reducible assumption
    | with_reducible apply State.modGen_keeps (covers_trans rfl hL)
    | with_reducible apply State.raise_keeps (covers_trans rfl hL)
    | with_reducible apply foldl_keeps
    | (intro _; intros; try dsimp only)
    | split
    | (with_reducible apply State.mk_keeps <;> first | exact Or.inr (mem_of_covers hL rfl) | with_reducible exact Or.inl rfl | skip)

theorem State.refuseClear_keeps {s : State} {n : Nat} {p : Nat} {d : Started} {fails : List Nat} {s0 : State} {L : List Field} (hL : covers [.regs, .seq, .seqReported, .events, .rings] L = true) (h : s0.same L s) : s0.same L (State.refuseClear s n p d fails) := by
  unfold State.refuseClear
  try dsimp only
  repeat' first
    | with_reducible assumption
    | with_reducible apply State.raise_keeps (covers_trans rfl hL)
    | with_reducible apply State.finish_keeps (covers_trans rfl hL)
    | with_reducible apply foldl_keeps
    | (intro _; intros; try dsimp only)
    | split
    | (with_reducible apply State.mk_keeps <;> first | exact Or.inr (mem_of_covers hL rfl) | with_reducible exact Or.inl rfl | skip)

theorem doClearTableLoad_keeps {ring : Nat} {s : State} {s0 : State} {L : List Field} (hL : covers [.regs, .counters, .seq, .seqReported, .events, .rings, .pools, .parts, .out] L = true) (h : s0.same L s) : s0.same L (doClearTableLoad ring s) := by
  unfold doClearTableLoad
  try dsimp only
  repeat' first
    | with_reducible assumption
    | with_reducible apply State.finish_keeps (covers_trans rfl hL)
    | with_reducible apply State.refuseClear_keeps (covers_trans rfl hL)
    | with_reducible apply State.consumeSlot_keeps (covers_trans rfl hL)
    | with_reducible apply State.raise_keeps (covers_trans rfl hL)
    | with_reducible apply State.modGen_keeps (covers_trans rfl hL)
    | with_reducible apply State.releaseSlot_keeps (covers_trans rfl hL)
    | with_reducible apply foldl_keeps
    | (intro _; intros; try dsimp only)
    | split
    | (with_reducible apply State.mk_keeps <;> first | exact Or.inr (mem_of_covers hL rfl) | with_reducible exact Or.inl rfl | skip)

theorem State.requestClear_keeps {s : State} {ring : Nat} {act : Nat} {s0 : State} {L : List Field} (hL : covers [.regs, .rings, .parts] L = true) (h : s0.same L s) : s0.same L (State.requestClear s ring act) := by
  unfold State.requestClear
  try dsimp only
  repeat' first
    | with_reducible assumption
    | with_reducible apply State.finish_keeps (covers_trans rfl hL)
    | with_reducible apply State.noteCurrent_keeps (covers_trans rfl hL)
    | with_reducible apply State.request_keeps (covers_trans rfl hL)
    | with_reducible apply foldl_keeps
    | (intro _; intros; try dsimp only)
    | split
    | (with_reducible apply State.mk_keeps <;> first | exact Or.inr (mem_of_covers hL rfl) | with_reducible exact Or.inl rfl | skip)

theorem doClearTableMakeCurrent_keeps {ring : Nat} {s : State} {s0 : State} {L : List Field} (hL : covers [.regs, .rings, .parts] L = true) (h : s0.same L s) : s0.same L (doClearTableMakeCurrent ring s) := by
  unfold doClearTableMakeCurrent
  try dsimp only
  repeat' first
    | with_reducible assumption
    | with_reducible apply State.requestClear_keeps (covers_trans rfl hL)
    | with_reducible apply foldl_keeps
    | (intro _; intros; try dsimp only)
    | split
    | (with_reducible apply State.mk_keeps <;> first | exact Or.inr (mem_of_covers hL rfl) | with_reducible exact Or.inl rfl | skip)

theorem doClearTableDiscard_keeps {ring : Nat} {s : State} {s0 : State} {L : List Field} (hL : covers [.regs, .rings, .parts] L = true) (h : s0.same L s) : s0.same L (doClearTableDiscard ring s) := by
  unfold doClearTableDiscard
  try dsimp only
  repeat' first
    | with_reducible assumption
    | with_reducible apply State.requestClear_keeps (covers_trans rfl hL)
    | with_reducible apply foldl_keeps
    | (intro _; intros; try dsimp only)
    | split
    | (with_reducible apply State.mk_keeps <;> first | exact Or.inr (mem_of_covers hL rfl) | with_reducible exact Or.inl rfl | skip)

theorem doClearTableApply_keeps {p : Nat} {s : State} {s0 : State} {L : List Field} (hL : covers [.regs, .seq, .seqReported, .events, .rings, .parts] L = true) (h : s0.same L s) : s0.same L (doClearTableApply p s) := by
  unfold doClearTableApply
  try dsimp only
  repeat' first
    | with_reducible assumption
    | with_reducible apply State.dropRequest_keeps (covers_trans rfl hL)
    | with_reducible apply State.refuseClear_keeps (covers_trans rfl hL)
    | with_reducible apply State.finish_keeps (covers_trans rfl hL)
    | with_reducible apply State.makeCurrent_keeps (covers_trans rfl hL)
    | with_reducible apply State.modGen_keeps (covers_trans rfl hL)
    | with_reducible apply State.noteCurrent_keeps (covers_trans rfl hL)
    | with_reducible apply foldl_keeps
    | (intro _; intros; try dsimp only)
    | split
    | (with_reducible apply State.mk_keeps <;> first | exact Or.inr (mem_of_covers hL rfl) | with_reducible exact Or.inl rfl | skip)

theorem State.refuseReshard_keeps {s : State} {ring : Nat} {d : Started} {fails : List Nat} {s0 : State} {L : List Field} (hL : covers [.regs, .seq, .seqReported, .events, .rings] L = true) (h : s0.same L s) : s0.same L (State.refuseReshard s ring d fails) := by
  unfold State.refuseReshard
  try dsimp only
  repeat' first
    | with_reducible assumption
    | with_reducible apply State.finish_keeps (covers_trans rfl hL)
    | with_reducible apply State.raise_keeps (covers_trans rfl hL)
    | with_reducible apply foldl_keeps
    | (intro _; intros; try dsimp only)
    | split
    | (with_reducible apply State.mk_keeps <;> first | exact Or.inr (mem_of_covers hL rfl) | with_reducible exact Or.inl rfl | skip)

theorem doReshardPrepare_keeps {ring : Nat} {s : State} {s0 : State} {L : List Field} (hL : covers [.regs, .counters, .seq, .seqReported, .events, .rings, .pools, .parts, .out] L = true) (h : s0.same L s) : s0.same L (doReshardPrepare ring s) := by
  unfold doReshardPrepare
  try dsimp only
  repeat' first
    | with_reducible assumption
    | with_reducible apply State.finish_keeps (covers_trans rfl hL)
    | with_reducible apply State.refuseReshard_keeps (covers_trans rfl hL)
    | with_reducible apply State.consumeSlot_keeps (covers_trans rfl hL)
    | with_reducible apply State.modPart_keeps (covers_trans rfl hL)
    | with_reducible apply State.set_keeps (covers_trans rfl hL)
    | with_reducible apply State.releaseSlot_keeps (covers_trans rfl hL)
    | with_reducible apply foldl_keeps
    | (intro _; intros; try dsimp only)
    | split
    | (with_reducible apply State.mk_keeps <;> first | exact Or.inr (mem_of_covers hL rfl) | with_reducible exact Or.inl rfl | skip)

theorem doReshardCommit_keeps {ring : Nat} {s : State} {s0 : State} {L : List Field} (hL : covers [.regs, .seq, .seqReported, .events, .rings, .parts] L = true) (h : s0.same L s) : s0.same L (doReshardCommit ring s) := by
  unfold doReshardCommit
  try dsimp only
  repeat' first
    | with_reducible assumption
    | with_reducible apply State.finish_keeps (covers_trans rfl hL)
    | with_reducible apply State.modPart_keeps (covers_trans rfl hL)
    | with_reducible apply State.beginDesc_keeps (covers_trans rfl hL)
    | with_reducible apply State.setPair_keeps (covers_trans rfl hL)
    | with_reducible apply State.set_keeps (covers_trans rfl hL)
    | with_reducible apply State.refuseReshard_keeps (covers_trans rfl hL)
    | with_reducible apply foldl_keeps
    | (intro _; intros; try dsimp only)
    | split
    | (with_reducible apply State.mk_keeps <;> first | exact Or.inr (mem_of_covers hL rfl) | with_reducible exact Or.inl rfl | skip)

theorem doReshardCancel_keeps {ring : Nat} {s : State} {s0 : State} {L : List Field} (hL : covers [.regs, .seq, .seqReported, .events, .rings, .parts] L = true) (h : s0.same L s) : s0.same L (doReshardCancel ring s) := by
  unfold doReshardCancel
  try dsimp only
  repeat' first
    | with_reducible assumption
    | with_reducible apply State.finish_keeps (covers_trans rfl hL)
    | with_reducible apply State.set_keeps (covers_trans rfl hL)
    | with_reducible apply State.modPart_keeps (covers_trans rfl hL)
    | with_reducible apply State.refuseReshard_keeps (covers_trans rfl hL)
    | with_reducible apply foldl_keeps
    | (intro _; intros; try dsimp only)
    | split
    | (with_reducible apply State.mk_keeps <;> first | exact Or.inr (mem_of_covers hL rfl) | with_reducible exact Or.inl rfl | skip)

theorem State.fencePort_keeps {s : State} {p : Nat} {n : Nat} {s0 : State} {L : List Field} (hL : covers [.regs, .seq, .seqReported, .events, .parts, .ports] L = true) (h : s0.same L s) : s0.same L (State.fencePort s p n) := by
  unfold State.fencePort
  try dsimp only
  repeat' first
    | with_reducible assumption
    | with_reducible apply State.post_keeps (covers_trans rfl hL)
    | with_reducible apply foldl_keeps
    | (intro _; intros; try dsimp only)
    | split
    | (with_reducible apply State.mk_keeps <;> first | exact Or.inr (mem_of_covers hL rfl) | with_reducible exact Or.inl rfl | skip)

theorem State.redeliver_keeps {s : State} {n : Nat} {pk : Packet} {s0 : State} {L : List Field} (hL : covers [.regs, .counters, .seq, .seqReported, .stamped, .events, .mem, .staging, .neg, .tags, .negTags, .parts, .layers, .ports, .wards, .out] L = true) (h : s0.same L s) : s0.same L (State.redeliver s n pk) := by
  unfold State.redeliver
  try dsimp only
  repeat' first
    | with_reducible assumption
    | with_reducible apply doPacketRelay_keeps (covers_trans rfl hL)
    | with_reducible apply doDataPacket_keeps (covers_trans rfl hL)
    | with_reducible apply doReductionPartial_keeps (covers_trans rfl hL)
    | with_reducible apply doReductionResult_keeps (covers_trans rfl hL)
    | with_reducible apply doSideband_keeps (covers_trans rfl hL)
    | with_reducible apply doRouteSwitch_keeps (covers_trans rfl hL)
    | with_reducible apply doLandingCredit_keeps (covers_trans rfl hL)
    | with_reducible apply doBulkMirrorData_keeps (covers_trans rfl hL)
    | with_reducible apply doBulkMirrorSeal_keeps (covers_trans rfl hL)
    | with_reducible apply doTakeoverRequest_keeps (covers_trans rfl hL)
    | with_reducible apply doItemRequest_keeps (covers_trans rfl hL)
    | with_reducible apply doItemData_keeps (covers_trans rfl hL)
    | with_reducible apply doItemSealRecord_keeps (covers_trans rfl hL)
    | with_reducible apply foldl_keeps
    | (intro _; intros; try dsimp only)
    | split
    | (with_reducible apply State.mk_keeps <;> first | exact Or.inr (mem_of_covers hL rfl) | with_reducible exact Or.inl rfl | skip)

theorem State.deliverPort_keeps {s : State} {n : Nat} {s0 : State} {L : List Field} (hL : covers [.regs, .counters, .seq, .seqReported, .stamped, .events, .mem, .staging, .neg, .tags, .negTags, .parts, .layers, .ports, .wards, .out] L = true) (h : s0.same L s) : s0.same L (State.deliverPort s n) := by
  unfold State.deliverPort
  try dsimp only
  repeat' first
    | with_reducible assumption
    | with_reducible apply State.modPort_keeps (covers_trans rfl hL)
    | with_reducible apply State.modLink_keeps (covers_trans rfl hL)
    | with_reducible apply doCompletionNotice_keeps (covers_trans rfl hL)
    | with_reducible apply State.redeliver_keeps (covers_trans rfl hL)
    | with_reducible apply foldl_keeps
    | (intro _; intros; try dsimp only)
    | split
    | (with_reducible apply State.mk_keeps <;> first | exact Or.inr (mem_of_covers hL rfl) | with_reducible exact Or.inl rfl | skip)

theorem doReshardBoundary_keeps {p : Nat} {s : State} {s0 : State} {L : List Field} (hL : covers [.regs, .counters, .seq, .seqReported, .stamped, .events, .mem, .staging, .neg, .tags, .negTags, .rings, .parts, .layers, .ports, .wards, .out] L = true) (h : s0.same L s) : s0.same L (doReshardBoundary p s) := by
  unfold doReshardBoundary
  try dsimp only
  repeat' first
    | with_reducible assumption
    | with_reducible apply State.modPart_keeps (covers_trans rfl hL)
    | with_reducible apply State.set_keeps (covers_trans rfl hL)
    | with_reducible apply State.raise_keeps (covers_trans rfl hL)
    | with_reducible apply State.noteDrained_keeps (covers_trans rfl hL)
    | with_reducible apply State.fencePort_keeps (covers_trans rfl hL)
    | with_reducible apply State.finish_keeps (covers_trans rfl hL)
    | with_reducible apply State.deliverPort_keeps (covers_trans rfl hL)
    | with_reducible apply foldl_keeps
    | (intro _; intros; try dsimp only)
    | split
    | (with_reducible apply State.mk_keeps <;> first | exact Or.inr (mem_of_covers hL rfl) | with_reducible exact Or.inl rfl | skip)

theorem doEpochDrainTimeout_keeps {p : Nat} {port : Nat} {s : State} {s0 : State} {L : List Field} (hL : covers [.regs, .seq, .seqReported, .events, .parts, .ports] L = true) (h : s0.same L s) : s0.same L (doEpochDrainTimeout p port s) := by
  unfold doEpochDrainTimeout
  try dsimp only
  repeat' first
    | with_reducible assumption
    | with_reducible apply State.releaseVia_keeps (covers_trans rfl hL)
    | with_reducible apply State.modPort_keeps (covers_trans rfl hL)
    | with_reducible apply State.stepFault_keeps (covers_trans rfl hL)
    | with_reducible apply State.raiseFor_keeps (covers_trans rfl hL)
    | with_reducible apply foldl_keeps
    | (intro _; intros; try dsimp only)
    | split
    | (with_reducible apply State.mk_keeps <;> first | exact Or.inr (mem_of_covers hL rfl) | with_reducible exact Or.inl rfl | skip)

theorem State.restartChecks_keeps {s : State} {a : Nat} {s0 : State} {L : List Field} (hL : covers [.parts] L = true) (h : s0.same L s) : s0.same L (State.restartChecks s a) := by
  unfold State.restartChecks
  try dsimp only
  repeat' first
    | with_reducible assumption
    | with_reducible apply State.modPart_keeps (covers_trans rfl hL)
    | with_reducible apply foldl_keeps
    | (intro _; intros; try dsimp only)
    | split
    | (with_reducible apply State.mk_keeps <;> first | exact Or.inr (mem_of_covers hL rfl) | with_reducible exact Or.inl rfl | skip)

theorem State.regrid_keeps {s : State} {p : Nat} {s0 : State} {L : List Field} (hL : covers [.parts] L = true) (h : s0.same L s) : s0.same L (State.regrid s p) := by
  unfold State.regrid
  try dsimp only
  repeat' first
    | with_reducible assumption
    | with_reducible apply State.modPart_keeps (covers_trans rfl hL)
    | with_reducible apply foldl_keeps
    | (intro _; intros; try dsimp only)
    | split
    | (with_reducible apply State.mk_keeps <;> first | exact Or.inr (mem_of_covers hL rfl) | with_reducible exact Or.inl rfl | skip)

theorem State.ringSwitched_keeps {s : State} {n : Nat} {old : Nat} {s0 : State} {L : List Field} (hL : covers [.regs] L = true) (h : s0.same L s) : s0.same L (State.ringSwitched s n old) := by
  unfold State.ringSwitched
  try dsimp only
  repeat' first
    | with_reducible assumption
    | with_reducible apply State.set_keeps (covers_trans rfl hL)
    | with_reducible apply foldl_keeps
    | (intro _; intros; try dsimp only)
    | split
    | (with_reducible apply State.mk_keeps <;> first | exact Or.inr (mem_of_covers hL rfl) | with_reducible exact Or.inl rfl | skip)

theorem State.poolSwitched_keeps {s : State} {p : Nat} {q : Nat} {old : Nat} {s0 : State} {L : List Field} (hL : covers [.pools, .intake, .out] L = true) (h : s0.same L s) : s0.same L (State.poolSwitched s p q old) := by
  unfold State.poolSwitched
  try dsimp only
  repeat' first
    | with_reducible assumption
    | with_reducible apply State.disablePool_keeps (covers_trans rfl hL)
    | with_reducible apply State.enablePool_keeps (covers_trans rfl hL)
    | with_reducible apply foldl_keeps
    | (intro _; intros; try dsimp only)
    | split
    | (with_reducible apply State.mk_keeps <;> first | exact Or.inr (mem_of_covers hL rfl) | with_reducible exact Or.inl rfl | skip)

theorem State.sealedChanged_keeps {s : State} {s0 : State} {L : List Field} (hL : covers [.regs, .neg, .negTags, .wards] L = true) (h : s0.same L s) : s0.same L (State.sealedChanged s) := by
  unfold State.sealedChanged
  try dsimp only
  repeat' first
    | with_reducible assumption
    | with_reducible apply State.set_keeps (covers_trans rfl hL)
    | with_reducible apply foldl_keeps
    | (intro _; intros; try dsimp only)
    | split
    | (with_reducible apply State.mk_keeps <;> first | exact Or.inr (mem_of_covers hL rfl) | with_reducible exact Or.inl rfl | skip)

theorem State.becomeRoot_keeps {s : State} {s0 : State} {L : List Field} (hL : covers [.regs, .time, .seq, .seqReported, .events] L = true) (h : s0.same L s) : s0.same L (State.becomeRoot s) := by
  unfold State.becomeRoot
  try dsimp only
  repeat' first
    | with_reducible assumption
    | with_reducible apply State.raise_keeps (covers_trans rfl hL)
    | with_reducible apply foldl_keeps
    | (intro _; intros; try dsimp only)
    | split
    | (with_reducible apply State.mk_keeps <;> first | exact Or.inr (mem_of_covers hL rfl) | with_reducible exact Or.inl rfl | skip)

theorem State.eventRingChanged_keeps {s : State} {p : Nat} {moved : Bool} {s0 : State} {L : List Field} (hL : covers [.regs, .counters, .seq, .seqReported, .events, .mem, .tags, .out] L = true) (h : s0.same L s) : s0.same L (State.eventRingChanged s p moved) := by
  unfold State.eventRingChanged
  try dsimp only
  repeat' first
    | with_reducible assumption
    | with_reducible apply State.flushOverrun_keeps (covers_trans rfl hL)
    | with_reducible apply State.set_keeps (covers_trans rfl hL)
    | with_reducible apply State.firstEventRing_keeps (covers_trans rfl hL)
    | with_reducible apply foldl_keeps
    | (intro _; intros; try dsimp only)
    | split
    | (with_reducible apply State.mk_keeps <;> first | exact Or.inr (mem_of_covers hL rfl) | with_reducible exact Or.inl rfl | skip)

theorem State.capWritten_keeps {s : State} {s0 : State} {L : List Field} (hL : covers [.regs, .seq, .seqReported, .events] L = true) (h : s0.same L s) : s0.same L (State.capWritten s) := by
  unfold State.capWritten
  try dsimp only
  repeat' first
    | with_reducible assumption
    | with_reducible apply State.raise_keeps (covers_trans rfl hL)
    | with_reducible apply foldl_keeps
    | (intro _; intros; try dsimp only)
    | split
    | (with_reducible apply State.mk_keeps <;> first | exact Or.inr (mem_of_covers hL rfl) | with_reducible exact Or.inl rfl | skip)

theorem State.afterModuleWrite_keeps {s : State} {a : Nat} {old : Nat} {w : Nat} {s0 : State} {L : List Field} (hL : covers [.regs, .counters, .time, .seq, .seqReported, .events, .mem, .neg, .tags, .negTags, .power, .wards, .out] L = true) (h : s0.same L s) : s0.same L (State.afterModuleWrite s a old w) := by
  unfold State.afterModuleWrite
  try dsimp only
  repeat' first
    | with_reducible assumption
    | with_reducible apply State.sealedChanged_keeps (covers_trans rfl hL)
    | with_reducible apply State.becomeRoot_keeps (covers_trans rfl hL)
    | with_reducible apply State.capWritten_keeps (covers_trans rfl hL)
    | with_reducible apply State.leaveDeep_keeps (covers_trans rfl hL)
    | with_reducible apply State.set_keeps (covers_trans rfl hL)
    | with_reducible apply State.eventRingChanged_keeps (covers_trans rfl hL)
    | with_reducible apply State.flushOverrun_keeps (covers_trans rfl hL)
    | with_reducible apply foldl_keeps
    | (intro _; intros; try dsimp only)
    | split
    | (with_reducible apply State.mk_keeps <;> first | exact Or.inr (mem_of_covers hL rfl) | with_reducible exact Or.inl rfl | skip)

theorem State.afterWrite_keeps {s : State} {a : Nat} {old : Nat} {w : Nat} {s0 : State} {L : List Field} (hL : covers [.regs, .counters, .time, .seq, .seqReported, .events, .mem, .neg, .tags, .negTags, .pools, .parts, .intake, .power, .wards, .out] L = true) (h : s0.same L s) : s0.same L (State.afterWrite s a old w) := by
  unfold State.afterWrite
  try dsimp only
  repeat' first
    | with_reducible assumption
    | with_reducible apply State.regrid_keeps (covers_trans rfl hL)
    | with_reducible apply State.ringSwitched_keeps (covers_trans rfl hL)
    | with_reducible apply State.noteFull_keeps (covers_trans rfl hL)
    | with_reducible apply State.modPart_keeps (covers_trans rfl hL)
    | with_reducible apply State.poolSwitched_keeps (covers_trans rfl hL)
    | with_reducible apply State.afterModuleWrite_keeps (covers_trans rfl hL)
    | with_reducible apply foldl_keeps
    | (intro _; intros; try dsimp only)
    | split
    | (with_reducible apply State.mk_keeps <;> first | exact Or.inr (mem_of_covers hL rfl) | with_reducible exact Or.inl rfl | skip)

theorem State.refuseWrite_keeps {s : State} {a : Nat} {w : Nat} {s0 : State} {L : List Field} (hL : covers [.regs, .seq, .seqReported, .events] L = true) (h : s0.same L s) : s0.same L (State.refuseWrite s a w) := by
  unfold State.refuseWrite
  try dsimp only
  repeat' first
    | with_reducible assumption
    | with_reducible apply State.raise_keeps (covers_trans rfl hL)
    | with_reducible apply foldl_keeps
    | (intro _; intros; try dsimp only)
    | split
    | (with_reducible apply State.mk_keeps <;> first | exact Or.inr (mem_of_covers hL rfl) | with_reducible exact Or.inl rfl | skip)

theorem State.reportClamps_keeps {s : State} {a : Nat} {l : List (FieldSpec × Nat × Nat)} {s0 : State} {L : List Field} (hL : covers [.regs, .counters, .seq, .seqReported, .events, .mem, .tags, .parts] L = true) (h : s0.same L s) : s0.same L (State.reportClamps s a l) := by
  unfold State.reportClamps
  try dsimp only
  repeat' first
    | with_reducible assumption
    | with_reducible apply State.reportClamp_keeps (covers_trans rfl hL)
    | with_reducible apply foldl_keeps
    | (intro _; intros; try dsimp only)
    | split
    | (with_reducible apply State.mk_keeps <;> first | exact Or.inr (mem_of_covers hL rfl) | with_reducible exact Or.inl rfl | skip)

theorem State.writeReg_keeps {s : State} {a : Nat} {w : Nat} {s0 : State} {L : List Field} (hL : covers [.regs, .counters, .time, .seq, .seqReported, .events, .mem, .neg, .tags, .negTags, .pools, .parts, .intake, .power, .wards, .out] L = true) (h : s0.same L s) : s0.same L (State.writeReg s a w) := by
  unfold State.writeReg
  try dsimp only
  repeat' first
    | with_reducible assumption
    | with_reducible apply State.refuseWrite_keeps (covers_trans rfl hL)
    | with_reducible apply State.reportClamps_keeps (covers_trans rfl hL)
    | with_reducible apply State.setReg_keeps (covers_trans rfl hL)
    | with_reducible apply State.afterWrite_keeps (covers_trans rfl hL)
    | with_reducible apply State.restartChecks_keeps (covers_trans rfl hL)
    | with_reducible apply foldl_keeps
    | (intro _; intros; try dsimp only)
    | split
    | (with_reducible apply State.mk_keeps <;> first | exact Or.inr (mem_of_covers hL rfl) | with_reducible exact Or.inl rfl | skip)

theorem doBar0BadSizeAccess_keeps {offset : Nat} {size : Nat} {write : Bool} {s : State} {s0 : State} {L : List Field} (hL : covers [.regs, .seq, .seqReported, .events, .out] L = true) (h : s0.same L s) : s0.same L (doBar0BadSizeAccess offset size write s) := by
  unfold doBar0BadSizeAccess
  try dsimp only
  repeat' first
    | with_reducible assumption
    | with_reducible apply State.answer_keeps (covers_trans rfl hL)
    | with_reducible apply State.raise_keeps (covers_trans rfl hL)
    | with_reducible apply foldl_keeps
    | (intro _; intros; try dsimp only)
    | split
    | (with_reducible apply State.mk_keeps <;> first | exact Or.inr (mem_of_covers hL rfl) | with_reducible exact Or.inl rfl | skip)

theorem doReservedRangeAccess_keeps {offset : Nat} {write : Bool} {s : State} {s0 : State} {L : List Field} (hL : covers [.regs, .seq, .seqReported, .events, .out] L = true) (h : s0.same L s) : s0.same L (doReservedRangeAccess offset write s) := by
  unfold doReservedRangeAccess
  try dsimp only
  repeat' first
    | with_reducible assumption
    | with_reducible apply State.answer_keeps (covers_trans rfl hL)
    | with_reducible apply State.raise_keeps (covers_trans rfl hL)
    | with_reducible apply foldl_keeps
    | (intro _; intros; try dsimp only)
    | split
    | (with_reducible apply State.mk_keeps <;> first | exact Or.inr (mem_of_covers hL rfl) | with_reducible exact Or.inl rfl | skip)

theorem doPairLowRead_keeps {offset : Nat} {s : State} {s0 : State} {L : List Field} (hL : covers [.latch, .out] L = true) (h : s0.same L s) : s0.same L (doPairLowRead offset s) := by
  unfold doPairLowRead
  try dsimp only
  repeat' first
    | with_reducible assumption
    | with_reducible apply State.answer_keeps (covers_trans rfl hL)
    | with_reducible apply foldl_keeps
    | (intro _; intros; try dsimp only)
    | split
    | (with_reducible apply State.mk_keeps <;> first | exact Or.inr (mem_of_covers hL rfl) | with_reducible exact Or.inl rfl | skip)

theorem doPairLowWrite_keeps {offset : Nat} {value : Word} {s : State} {s0 : State} {L : List Field} (hL : covers [.held] L = true) (h : s0.same L s) : s0.same L (doPairLowWrite offset value s) := by
  unfold doPairLowWrite
  try dsimp only
  repeat' first
    | with_reducible assumption
    | with_reducible apply foldl_keeps
    | (intro _; intros; try dsimp only)
    | split
    | (with_reducible apply State.mk_keeps <;> first | exact Or.inr (mem_of_covers hL rfl) | with_reducible exact Or.inl rfl | skip)

theorem State.takePair_keeps {s : State} {lo : Nat} {v : Nat} {s0 : State} {L : List Field} (hL : covers [.regs, .held] L = true) (h : s0.same L s) : s0.same L (State.takePair s lo v) := by
  unfold State.takePair
  try dsimp only
  repeat' first
    | with_reducible assumption
    | with_reducible apply State.setPair_keeps (covers_trans rfl hL)
    | with_reducible apply foldl_keeps
    | (intro _; intros; try dsimp only)
    | split
    | (with_reducible apply State.mk_keeps <;> first | exact Or.inr (mem_of_covers hL rfl) | with_reducible exact Or.inl rfl | skip)

theorem State.writePair_keeps {s : State} {lo : Nat} {hi : Nat} {s0 : State} {L : List Field} (hL : covers [.regs, .held, .seq, .seqReported, .events, .parts] L = true) (h : s0.same L s) : s0.same L (State.writePair s lo hi) := by
  unfold State.writePair
  try dsimp only
  repeat' first
    | with_reducible assumption
    | with_reducible apply State.refuseWrite_keeps (covers_trans rfl hL)
    | with_reducible apply State.takePair_keeps (covers_trans rfl hL)
    | with_reducible apply State.regrid_keeps (covers_trans rfl hL)
    | with_reducible apply State.restartChecks_keeps (covers_trans rfl hL)
    | with_reducible apply foldl_keeps
    | (intro _; intros; try dsimp only)
    | split
    | (with_reducible apply State.mk_keeps <;> first | exact Or.inr (mem_of_covers hL rfl) | with_reducible exact Or.inl rfl | skip)

theorem doPairHighWrite_keeps {offset : Nat} {value : Word} {s : State} {s0 : State} {L : List Field} (hL : covers [.regs, .held, .seq, .seqReported, .events, .parts] L = true) (h : s0.same L s) : s0.same L (doPairHighWrite offset value s) := by
  unfold doPairHighWrite
  try dsimp only
  repeat' first
    | with_reducible assumption
    | with_reducible apply State.writePair_keeps (covers_trans rfl hL)
    | with_reducible apply foldl_keeps
    | (intro _; intros; try dsimp only)
    | split
    | (with_reducible apply State.mk_keeps <;> first | exact Or.inr (mem_of_covers hL rfl) | with_reducible exact Or.inl rfl | skip)

theorem doTickStartWrite_keeps {p : Nat} {hi : Word} {s : State} {s0 : State} {L : List Field} (hL : covers [.regs, .held, .seq, .seqReported, .events] L = true) (h : s0.same L s) : s0.same L (doTickStartWrite p hi s) := by
  unfold doTickStartWrite
  try dsimp only
  repeat' first
    | with_reducible assumption
    | with_reducible apply State.refuseWrite_keeps (covers_trans rfl hL)
    | with_reducible apply State.takePair_keeps (covers_trans rfl hL)
    | with_reducible apply foldl_keeps
    | (intro _; intros; try dsimp only)
    | split
    | (with_reducible apply State.mk_keeps <;> first | exact Or.inr (mem_of_covers hL rfl) | with_reducible exact Or.inl rfl | skip)

theorem doRegisterWrite_keeps {offset : Nat} {value : Word} {s : State} {s0 : State} {L : List Field} (hL : covers [.regs, .counters, .time, .seq, .seqReported, .events, .mem, .neg, .tags, .negTags, .pools, .parts, .intake, .power, .wards, .out] L = true) (h : s0.same L s) : s0.same L (doRegisterWrite offset value s) := by
  unfold doRegisterWrite
  try dsimp only
  repeat' first
    | with_reducible assumption
    | with_reducible apply State.writeReg_keeps (covers_trans rfl hL)
    | with_reducible apply foldl_keeps
    | (intro _; intros; try dsimp only)
    | split
    | (with_reducible apply State.mk_keeps <;> first | exact Or.inr (mem_of_covers hL rfl) | with_reducible exact Or.inl rfl | skip)

theorem doPoolConfigWrite_keeps {p : Nat} {pool : Nat} {value : Word} {s : State} {s0 : State} {L : List Field} (hL : covers [.regs, .counters, .time, .seq, .seqReported, .events, .mem, .neg, .tags, .negTags, .pools, .parts, .intake, .power, .wards, .out] L = true) (h : s0.same L s) : s0.same L (doPoolConfigWrite p pool value s) := by
  unfold doPoolConfigWrite
  try dsimp only
  repeat' first
    | with_reducible assumption
    | with_reducible apply State.writeReg_keeps (covers_trans rfl hL)
    | with_reducible apply foldl_keeps
    | (intro _; intros; try dsimp only)
    | split
    | (with_reducible apply State.mk_keeps <;> first | exact Or.inr (mem_of_covers hL rfl) | with_reducible exact Or.inl rfl | skip)

theorem doSealedSizeWrite_keeps {value : Word} {s : State} {s0 : State} {L : List Field} (hL : covers [.regs, .counters, .time, .seq, .seqReported, .events, .mem, .neg, .tags, .negTags, .pools, .parts, .intake, .power, .wards, .out] L = true) (h : s0.same L s) : s0.same L (doSealedSizeWrite value s) := by
  unfold doSealedSizeWrite
  try dsimp only
  repeat' first
    | with_reducible assumption
    | with_reducible apply State.writeReg_keeps (covers_trans rfl hL)
    | with_reducible apply foldl_keeps
    | (intro _; intros; try dsimp only)
    | split
    | (with_reducible apply State.mk_keeps <;> first | exact Or.inr (mem_of_covers hL rfl) | with_reducible exact Or.inl rfl | skip)

theorem doPowerCapWrite_keeps {value : Word} {s : State} {s0 : State} {L : List Field} (hL : covers [.regs, .counters, .time, .seq, .seqReported, .events, .mem, .neg, .tags, .negTags, .pools, .parts, .intake, .power, .wards, .out] L = true) (h : s0.same L s) : s0.same L (doPowerCapWrite value s) := by
  unfold doPowerCapWrite
  try dsimp only
  repeat' first
    | with_reducible assumption
    | with_reducible apply State.writeReg_keeps (covers_trans rfl hL)
    | with_reducible apply foldl_keeps
    | (intro _; intros; try dsimp only)
    | split
    | (with_reducible apply State.mk_keeps <;> first | exact Or.inr (mem_of_covers hL rfl) | with_reducible exact Or.inl rfl | skip)

theorem doGroupFreezeWrite_keeps {value : Word} {s : State} {s0 : State} {L : List Field} (hL : covers [.regs, .seq, .seqReported, .events, .parts] L = true) (h : s0.same L s) : s0.same L (doGroupFreezeWrite value s) := by
  unfold doGroupFreezeWrite
  try dsimp only
  repeat' first
    | with_reducible assumption
    | with_reducible apply State.refuseWrite_keeps (covers_trans rfl hL)
    | with_reducible apply State.modGroup_keeps (covers_trans rfl hL)
    | with_reducible apply foldl_keeps
    | (intro _; intros; try dsimp only)
    | split
    | (with_reducible apply State.mk_keeps <;> first | exact Or.inr (mem_of_covers hL rfl) | with_reducible exact Or.inl rfl | skip)

theorem doCounterClear_keeps {offset : Nat} {value : Word} {s : State} {s0 : State} {L : List Field} (hL : covers [.counters] L = true) (h : s0.same L s) : s0.same L (doCounterClear offset value s) := by
  unfold doCounterClear
  try dsimp only
  repeat' first
    | with_reducible assumption
    | with_reducible apply State.clearCounter_keeps (covers_trans rfl hL)
    | with_reducible apply foldl_keeps
    | (intro _; intros; try dsimp only)
    | split
    | (with_reducible apply State.mk_keeps <;> first | exact Or.inr (mem_of_covers hL rfl) | with_reducible exact Or.inl rfl | skip)

theorem doLayerReplaysClear_keeps {value : Word} {s : State} {s0 : State} {L : List Field} (hL : covers [.layers] L = true) (h : s0.same L s) : s0.same L (doLayerReplaysClear value s) := by
  unfold doLayerReplaysClear
  try dsimp only
  repeat' first
    | with_reducible assumption
    | with_reducible apply State.modLayer_keeps (covers_trans rfl hL)
    | with_reducible apply foldl_keeps
    | (intro _; intros; try dsimp only)
    | split
    | (with_reducible apply State.mk_keeps <;> first | exact Or.inr (mem_of_covers hL rfl) | with_reducible exact Or.inl rfl | skip)

theorem State.withFetchWord_keeps {s : State} {nbits : Nat} {w : Nat} {s0 : State} {L : List Field} (hL : covers [] L = true) (h : s0.same L s) : s0.same L (State.withFetchWord s nbits w) := by
  unfold State.withFetchWord
  try dsimp only
  repeat' first
    | with_reducible assumption
    | with_reducible apply foldl_keeps
    | (intro _; intros; try dsimp only)
    | split
    | (with_reducible apply State.mk_keeps <;> first | exact Or.inr (mem_of_covers hL rfl) | with_reducible exact Or.inl rfl | skip)

end Sys2Proof.Machine
end

