-- ==== Sys2Proof/Laws/Map.lean ====
section
/-! SUPPORT. Laws of the sparse maps and of sparse memory: a read after a write, and that every operation keeps the
canonical form. -/

set_option Elab.async false

namespace Sys2Proof.Machine

/-! ### Lookups -/

theorem lookup_insertKey {α : Type} (l : List (Nat × α)) (k : Nat) (v : α) (j : Nat) :
    lookup (insertKey l k v) j = if j = k then some v else lookup l j := by
  induction l with
  | nil => rfl
  | cons e rest ih =>
    obtain ⟨k', v'⟩ := e
    simp only [insertKey]
    split
    · rfl
    · split
      · subst_vars
        simp only [lookup]
        split <;> rfl
      · simp only [lookup, ih]
        split
        · subst_vars
          rw [if_neg (Ne.symm ‹_›)]
        · rfl

theorem lookup_eraseKey {α : Type} (l : List (Nat × α)) (k j : Nat) :
    lookup (eraseKey l k) j = if j = k then none else lookup l j := by
  induction l with
  | nil => simp [eraseKey, lookup]
  | cons e rest ih =>
    obtain ⟨k', v'⟩ := e
    by_cases h : k' = k
    · have he : eraseKey ((k', v') :: rest) k = eraseKey rest k := by simp [eraseKey, h]
      rw [he, ih]
      simp only [lookup]
      split
      · rfl
      · rw [if_neg (by omega)]
    · have he : eraseKey ((k', v') :: rest) k = (k', v') :: eraseKey rest k := by simp [eraseKey, h]
      rw [he]
      simp only [lookup, ih]
      split
      · rw [if_neg (by omega)]
      · rfl

/-- What a key reads as after a write. -/
theorem readOr_writeOr {α : Type} [DecidableEq α] (d : α) (l : List (Nat × α)) (k : Nat) (v : α) (j : Nat) :
    readOr d (writeOr d l k v) j = if j = k then v else readOr d l j := by
  unfold readOr writeOr
  by_cases hv : v = d <;> by_cases hj : j = k <;> simp [hv, hj, lookup_insertKey, lookup_eraseKey]

@[simp] theorem Memory.read_write (m : Memory) (a : Nat) (b : Byte) (j : Nat) :
    (m.write a b).read j = if j = a then b else m.read j := readOr_writeOr ..

/-- What an address reads as after bytes were written from `a` up. -/
theorem Memory.read_writeN (bs : List Byte) (m : Memory) (a j : Nat) :
    (m.writeN a bs).read j = if a ≤ j ∧ j < a + bs.length then (bs[j - a]?).getD 0 else m.read j := by
  induction bs generalizing m a with
  | nil =>
    simp only [Memory.writeN, List.length_nil]
    rw [if_neg (by omega)]
  | cons b bs ih =>
    simp only [Memory.writeN, ih, Memory.read_write, List.length_cons]
    by_cases h1 : j = a
    · subst h1
      rw [if_neg (by omega), if_pos rfl, if_pos (by omega), Nat.sub_self]
      rfl
    · by_cases h2 : a + 1 ≤ j ∧ j < a + 1 + bs.length
      · rw [if_pos h2, if_pos (by omega)]
        have : j - a = (j - (a + 1)) + 1 := by omega
        rw [this]
        simp
      · rw [if_neg h2, if_neg h1, if_neg (by omega)]

/-! ### The canonical form -/

theorem keysRise_mono {α : Type} (l : List (Nat × α)) (a b : Nat) (h : a ≤ b) (hl : keysRise l b = true) :
    keysRise l a = true := by
  cases l with
  | nil => rfl
  | cons e rest =>
    simp only [keysRise, Bool.and_eq_true, decide_eq_true_eq] at hl ⊢
    exact ⟨by omega, hl.2⟩

theorem keysRise_insertKey {α : Type} (l : List (Nat × α)) (lo k : Nat) (v : α) (hk : lo ≤ k)
    (hl : keysRise l lo = true) : keysRise (insertKey l k v) lo = true := by
  induction l generalizing lo with
  | nil => simp [insertKey, keysRise, hk]
  | cons e rest ih =>
    obtain ⟨k', v'⟩ := e
    simp only [keysRise, Bool.and_eq_true, decide_eq_true_eq] at hl
    simp only [insertKey]
    split
    · simp only [keysRise, Bool.and_eq_true, decide_eq_true_eq]
      exact ⟨hk, by omega, hl.2⟩
    · split
      · subst_vars
        simp only [keysRise, Bool.and_eq_true, decide_eq_true_eq]
        exact hl
      · simp only [keysRise, Bool.and_eq_true, decide_eq_true_eq]
        exact ⟨hl.1, ih (k' + 1) (by omega) hl.2⟩

theorem keysRise_filter {α : Type} (f : Nat × α → Bool) (l : List (Nat × α)) (lo : Nat)
    (hl : keysRise l lo = true) : keysRise (l.filter f) lo = true := by
  induction l generalizing lo with
  | nil => rfl
  | cons e rest ih =>
    simp only [keysRise, Bool.and_eq_true, decide_eq_true_eq] at hl
    rw [List.filter_cons]
    split
    · simp only [keysRise, Bool.and_eq_true, decide_eq_true_eq]
      exact ⟨hl.1, ih _ hl.2⟩
    · exact keysRise_mono _ _ (e.1 + 1) (by omega) (ih _ hl.2)

theorem keysRise_writeOr {α : Type} [DecidableEq α] (d : α) (l : List (Nat × α)) (k : Nat) (v : α)
    (hl : keysRise l 0 = true) : keysRise (writeOr d l k v) 0 = true := by
  unfold writeOr
  split
  · exact keysRise_filter _ _ _ hl
  · exact keysRise_insertKey _ _ _ _ (Nat.zero_le _) hl

/-- An entry of a map after an insertion was there before or is the new one. -/
theorem mem_insertKey {α : Type} (l : List (Nat × α)) (k : Nat) (v : α) (e : Nat × α) (he : e ∈ insertKey l k v) :
    e = (k, v) ∨ e ∈ l := by
  induction l with
  | nil => simpa [insertKey] using he
  | cons x rest ih =>
    obtain ⟨k', v'⟩ := x
    simp only [insertKey] at he
    split at he
    · simpa using he
    · split at he
      · simp only [List.mem_cons] at he ⊢
        exact he.elim Or.inl (fun h => Or.inr (Or.inr h))
      · simp only [List.mem_cons] at he ⊢
        rcases he with he | he
        · exact Or.inr (Or.inl he)
        · exact (ih he).elim Or.inl (fun h => Or.inr (Or.inr h))

/-- An entry after a write was there before, or is the written one and not the default. -/
theorem mem_writeOr {α : Type} [DecidableEq α] (d : α) (l : List (Nat × α)) (k : Nat) (v : α) (e : Nat × α)
    (he : e ∈ writeOr d l k v) : (e = (k, v) ∧ v ≠ d) ∨ e ∈ l := by
  unfold writeOr at he
  split at he
  · exact Or.inr ((List.mem_filter.mp he).1)
  · rcases mem_insertKey _ _ _ _ he with h | h
    · exact Or.inl ⟨h, ‹_›⟩
    · exact Or.inr h

theorem Memory.wf_iff (m : Memory) : m.wf = true ↔ keysRise m 0 = true ∧ ∀ c ∈ m, c.2 ≠ Memory.default := by
  simp [Memory.wf]

theorem Memory.wf_write (m : Memory) (a : Nat) (b : Byte) (h : m.wf = true) : (m.write a b).wf = true := by
  rw [Memory.wf_iff] at h ⊢
  refine ⟨keysRise_writeOr _ _ _ _ h.1, fun c hc => ?_⟩
  rcases mem_writeOr _ _ _ _ _ hc with ⟨rfl, hv⟩ | hc
  · exact hv
  · exact h.2 c hc

theorem Memory.wf_writeN (bs : List Byte) (m : Memory) (a : Nat) (h : m.wf = true) : (m.writeN a bs).wf = true := by
  induction bs generalizing m a with
  | nil => exact h
  | cons b bs ih => exact ih _ _ (Memory.wf_write _ _ _ h)

theorem Memory.wf_filter (f : Nat × Byte → Bool) (m : Memory) (h : m.wf = true) : Memory.wf (m.filter f) = true := by
  rw [Memory.wf_iff] at h ⊢
  exact ⟨keysRise_filter _ _ _ h.1, fun c hc => h.2 c ((List.mem_filter.mp hc).1)⟩

theorem Memory.wf_wipe (m : Memory) (lo hi : Nat) (h : m.wf = true) : (m.wipe lo hi).wf = true := Memory.wf_filter _ _ h

end Sys2Proof.Machine
end

