-- ==== Sys2Proof/Laws/PerInstr.lean ====
section
/-! SUPPORT. A lemma for each command: no word of the opcode table's bits spells it, since the table gives its row none. -/

set_option Elab.async false

namespace Sys2Proof.Laws.NoWord

/-- No word spells the command. -/
def Statement (i : Instr) : Prop := ∀ nbits w, decodeTableWord nbits w ≠ some i

theorem bar0BadSizeAccess : ∀ offset size write, Statement (.bar0BadSizeAccess offset size write) := fun _ _ _ _ _ h => nomatch h
theorem reservedRangeAccess : ∀ offset write, Statement (.reservedRangeAccess offset write) := fun _ _ _ _ h => nomatch h
theorem pairLowRead : ∀ offset, Statement (.pairLowRead offset) := fun _ _ _ h => nomatch h
theorem pairLowWrite : ∀ offset value, Statement (.pairLowWrite offset value) := fun _ _ _ _ h => nomatch h
theorem pairHighWrite : ∀ offset value, Statement (.pairHighWrite offset value) := fun _ _ _ _ h => nomatch h
theorem registerWrite : ∀ offset value, Statement (.registerWrite offset value) := fun _ _ _ _ h => nomatch h
theorem counterClear : ∀ offset value, Statement (.counterClear offset value) := fun _ _ _ _ h => nomatch h
theorem layerReplaysClear : ∀ value, Statement (.layerReplaysClear value) := fun _ _ _ h => nomatch h
theorem tickStartWrite : ∀ p hi, Statement (.tickStartWrite p hi) := fun _ _ _ _ h => nomatch h
theorem withdraw : ∀ p, Statement (.withdraw p) := fun _ _ _ h => nomatch h
theorem planWithdrawal : ∀ p, Statement (.planWithdrawal p) := fun _ _ _ h => nomatch h
theorem shutterTick : ∀ p ecc, Statement (.shutterTick p ecc) := fun _ _ _ _ h => nomatch h
theorem stepZeroStart : ∀ p, Statement (.stepZeroStart p) := fun _ _ _ h => nomatch h
theorem stepEnd : ∀ p, Statement (.stepEnd p) := fun _ _ _ h => nomatch h
theorem stepHeld : ∀ p, Statement (.stepHeld p) := fun _ _ _ h => nomatch h
theorem stepHoldLimit : ∀ p, Statement (.stepHoldLimit p) := fun _ _ _ h => nomatch h
theorem promotionExpiry : ∀ p layer, Statement (.promotionExpiry p layer) := fun _ _ _ _ h => nomatch h
theorem completionNotice : ∀ p n, Statement (.completionNotice p n) := fun _ _ _ _ h => nomatch h
theorem timeLockTimeout : ∀ p, Statement (.timeLockTimeout p) := fun _ _ _ h => nomatch h
theorem doorbellTail : ∀ ring value, Statement (.doorbellTail ring value) := fun _ _ _ _ h => nomatch h
theorem doorbellCompletionHead : ∀ ring value, Statement (.doorbellCompletionHead ring value) := fun _ _ _ _ h => nomatch h
theorem doorbellBad : ∀ ring offset size value, Statement (.doorbellBad ring offset size value) := fun _ _ _ _ _ _ h => nomatch h
theorem winAccessBad : ∀ bar offset write, Statement (.winAccessBad bar offset write) := fun _ _ _ _ _ h => nomatch h
theorem descriptorFetch : ∀ ring bytes hostStatus, Statement (.descriptorFetch ring bytes hostStatus) := fun _ _ _ _ _ h => nomatch h
theorem nop : ∀ ring, Statement (.nop ring) := fun _ _ _ h => nomatch h
theorem loadPlan : ∀ ring, Statement (.loadPlan ring) := fun _ _ _ h => nomatch h
theorem admitPlan : ∀ ring, Statement (.admitPlan ring) := fun _ _ _ h => nomatch h
theorem lightMeterDone : ∀ p, Statement (.lightMeterDone p) := fun _ _ _ h => nomatch h
theorem unloadPlan : ∀ ring, Statement (.unloadPlan ring) := fun _ _ _ h => nomatch h
theorem copyIn : ∀ ring, Statement (.copyIn ring) := fun _ _ _ h => nomatch h
theorem copyOut : ∀ ring, Statement (.copyOut ring) := fun _ _ _ h => nomatch h
theorem copyDone : ∀ ring seq data hostStatus, Statement (.copyDone ring seq data hostStatus) := fun _ _ _ _ _ _ h => nomatch h
theorem fence : ∀ ring, Statement (.fence ring) := fun _ _ _ h => nomatch h
theorem contextOpen : ∀ ring, Statement (.contextOpen ring) := fun _ _ _ h => nomatch h
theorem contextFork : ∀ ring, Statement (.contextFork ring) := fun _ _ _ h => nomatch h
theorem contextClose : ∀ ring, Statement (.contextClose ring) := fun _ _ _ h => nomatch h
theorem contextApply : ∀ p, Statement (.contextApply p) := fun _ _ _ h => nomatch h
theorem clearTableLoad : ∀ ring, Statement (.clearTableLoad ring) := fun _ _ _ h => nomatch h
theorem clearTableMakeCurrent : ∀ ring, Statement (.clearTableMakeCurrent ring) := fun _ _ _ h => nomatch h
theorem clearTableDiscard : ∀ ring, Statement (.clearTableDiscard ring) := fun _ _ _ h => nomatch h
theorem clearTableApply : ∀ p, Statement (.clearTableApply p) := fun _ _ _ h => nomatch h
theorem clearGenFreed : ∀ p gen, Statement (.clearGenFreed p gen) := fun _ _ _ _ h => nomatch h
theorem dictionaryLoad : ∀ ring, Statement (.dictionaryLoad ring) := fun _ _ _ h => nomatch h
theorem dictionaryLoadDone : ∀ unit bank, Statement (.dictionaryLoadDone unit bank) := fun _ _ _ _ h => nomatch h
theorem dictionaryActivate : ∀ ring, Statement (.dictionaryActivate ring) := fun _ _ _ h => nomatch h
theorem dictionaryActivateApply : ∀ p, Statement (.dictionaryActivateApply p) := fun _ _ _ h => nomatch h
theorem reshardPrepare : ∀ ring, Statement (.reshardPrepare ring) := fun _ _ _ h => nomatch h
theorem reshardCommit : ∀ ring, Statement (.reshardCommit ring) := fun _ _ _ h => nomatch h
theorem reshardCancel : ∀ ring, Statement (.reshardCancel ring) := fun _ _ _ h => nomatch h
theorem reshardBoundary : ∀ p, Statement (.reshardBoundary p) := fun _ _ _ h => nomatch h
theorem epochDrainTimeout : ∀ p port, Statement (.epochDrainTimeout p port) := fun _ _ _ _ h => nomatch h
theorem secure : ∀ ring, Statement (.secure ring) := fun _ _ _ h => nomatch h
theorem completionWrite : ∀ ring hostStatus, Statement (.completionWrite ring hostStatus) := fun _ _ _ _ h => nomatch h
theorem ringReset : ∀ ring, Statement (.ringReset ring) := fun _ _ _ h => nomatch h
theorem ringResetDone : ∀ ring, Statement (.ringResetDone ring) := fun _ _ _ h => nomatch h
theorem poolConfigWrite : ∀ p pool value, Statement (.poolConfigWrite p pool value) := fun _ _ _ _ _ h => nomatch h
theorem slotFlip : ∀ p pool slot value, Statement (.slotFlip p pool slot value) := fun _ _ _ _ _ _ h => nomatch h
theorem slotTimeout : ∀ p pool slot, Statement (.slotTimeout p pool slot) := fun _ _ _ _ _ h => nomatch h
theorem windowWrite : ∀ p offset bytes, Statement (.windowWrite p offset bytes) := fun _ _ _ _ _ h => nomatch h
theorem windowRead : ∀ p offset len, Statement (.windowRead p offset len) := fun _ _ _ _ _ h => nomatch h
theorem taskIssue : ∀ core, Statement (.taskIssue core) := fun _ _ _ h => nomatch h
theorem tokenReceived : ∀ core graph task, Statement (.tokenReceived core graph task) := fun _ _ _ _ _ h => nomatch h
theorem creditReceived : ∀ p queue, Statement (.creditReceived p queue) := fun _ _ _ _ h => nomatch h
theorem taskCompletion : ∀ p graph task, Statement (.taskCompletion p graph task) := fun _ _ _ _ _ h => nomatch h
theorem tilingRecord : ∀ core delayNs, Statement (.tilingRecord core delayNs) := fun _ _ _ _ h => nomatch h
theorem shapeSearchDone : ∀ core tiling, Statement (.shapeSearchDone core tiling) := fun _ _ _ _ h => nomatch h
theorem matrixProduct : ∀ core, Statement (.matrixProduct core) := fun _ _ _ h => nomatch h
theorem dataGradientProduct : ∀ core, Statement (.dataGradientProduct core) := fun _ _ _ h => nomatch h
theorem weightGradientProduct : ∀ core, Statement (.weightGradientProduct core) := fun _ _ _ h => nomatch h
theorem attentionForward : ∀ core, Statement (.attentionForward core) := fun _ _ _ h => nomatch h
theorem attentionBackward : ∀ core, Statement (.attentionBackward core) := fun _ _ _ h => nomatch h
theorem convForward : ∀ core, Statement (.convForward core) := fun _ _ _ h => nomatch h
theorem convDataGradient : ∀ core, Statement (.convDataGradient core) := fun _ _ _ h => nomatch h
theorem convWeightGradient : ∀ core, Statement (.convWeightGradient core) := fun _ _ _ h => nomatch h
theorem cropAndResize : ∀ core, Statement (.cropAndResize core) := fun _ _ _ h => nomatch h
theorem channelArgmax : ∀ core, Statement (.channelArgmax core) := fun _ _ _ h => nomatch h
theorem vectorKernel : ∀ core, Statement (.vectorKernel core) := fun _ _ _ h => nomatch h
theorem gather : ∀ core, Statement (.gather core) := fun _ _ _ h => nomatch h
theorem scatter : ∀ core, Statement (.scatter core) := fun _ _ _ h => nomatch h
theorem scatterAdd : ∀ core, Statement (.scatterAdd core) := fun _ _ _ h => nomatch h
theorem expertDispatch : ∀ core, Statement (.expertDispatch core) := fun _ _ _ h => nomatch h
theorem variantDispatch : ∀ core, Statement (.variantDispatch core) := fun _ _ _ h => nomatch h
theorem expertDispatchBackward : ∀ core, Statement (.expertDispatchBackward core) := fun _ _ _ h => nomatch h
theorem variantDispatchBackward : ∀ core, Statement (.variantDispatchBackward core) := fun _ _ _ h => nomatch h
theorem expertCombine : ∀ core, Statement (.expertCombine core) := fun _ _ _ h => nomatch h
theorem variantCombine : ∀ core, Statement (.variantCombine core) := fun _ _ _ h => nomatch h
theorem expertCombineBackward : ∀ core, Statement (.expertCombineBackward core) := fun _ _ _ h => nomatch h
theorem variantCombineBackward : ∀ core, Statement (.variantCombineBackward core) := fun _ _ _ h => nomatch h
theorem offload : ∀ core, Statement (.offload core) := fun _ _ _ h => nomatch h
theorem fetch : ∀ core, Statement (.fetch core) := fun _ _ _ h => nomatch h
theorem encode : ∀ core, Statement (.encode core) := fun _ _ _ h => nomatch h
theorem decode : ∀ core, Statement (.decode core) := fun _ _ _ h => nomatch h
theorem recode : ∀ core, Statement (.recode core) := fun _ _ _ h => nomatch h
theorem fabricSend : ∀ core, Statement (.fabricSend core) := fun _ _ _ h => nomatch h
theorem fabricReceive : ∀ core, Statement (.fabricReceive core) := fun _ _ _ h => nomatch h
theorem localCopy : ∀ core, Statement (.localCopy core) := fun _ _ _ h => nomatch h
theorem reduction : ∀ core, Statement (.reduction core) := fun _ _ _ h => nomatch h
theorem groupUpdate : ∀ core, Statement (.groupUpdate core) := fun _ _ _ h => nomatch h
theorem takeBatch : ∀ core, Statement (.takeBatch core) := fun _ _ _ h => nomatch h
theorem emitOutput : ∀ core, Statement (.emitOutput core) := fun _ _ _ h => nomatch h
theorem join : ∀ core, Statement (.join core) := fun _ _ _ h => nomatch h
theorem queuePtrMismatch : ∀ q cause inTransfer, Statement (.queuePtrMismatch q cause inTransfer) := fun _ _ _ _ _ h => nomatch h
theorem coreFailed : ∀ core, Statement (.coreFailed core) := fun _ _ _ h => nomatch h
theorem d2dTransferFail : ∀ iface ends retry, Statement (.d2dTransferFail iface ends retry) := fun _ _ _ _ _ h => nomatch h
theorem uncorrectableError : ∀ loc, Statement (.uncorrectableError loc) := fun _ _ _ h => nomatch h
theorem hbmRowFailure : ∀ stack page, Statement (.hbmRowFailure stack page) := fun _ _ _ _ h => nomatch h
theorem portTrained : ∀ port neighbour failedLanes, Statement (.portTrained port neighbour failedLanes) := fun _ _ _ _ _ h => nomatch h
theorem portTrainingTimeout : ∀ port, Statement (.portTrainingTimeout port) := fun _ _ _ h => nomatch h
theorem laneFailure : ∀ port lane, Statement (.laneFailure port lane) := fun _ _ _ _ h => nomatch h
theorem portTakeDown : ∀ port, Statement (.portTakeDown port) := fun _ _ _ h => nomatch h
theorem flitReceive : ∀ port flit, Statement (.flitReceive port flit) := fun _ _ _ _ h => nomatch h
theorem flitReplay : ∀ port seq, Statement (.flitReplay port seq) := fun _ _ _ _ h => nomatch h
theorem controlFlit : ∀ port ctl, Statement (.controlFlit port ctl) := fun _ _ _ _ h => nomatch h
theorem outputArbitration : ∀ port, Statement (.outputArbitration port) := fun _ _ _ h => nomatch h
theorem packetRelay : ∀ port pkt, Statement (.packetRelay port pkt) := fun _ _ _ _ h => nomatch h
theorem dataPacket : ∀ port pkt, Statement (.dataPacket port pkt) := fun _ _ _ _ h => nomatch h
theorem reductionPartial : ∀ port pkt, Statement (.reductionPartial port pkt) := fun _ _ _ _ h => nomatch h
theorem reductionResult : ∀ port pkt, Statement (.reductionResult port pkt) := fun _ _ _ _ h => nomatch h
theorem sideband : ∀ port pkt, Statement (.sideband port pkt) := fun _ _ _ _ h => nomatch h
theorem fenceMarker : ∀ port pkt, Statement (.fenceMarker port pkt) := fun _ _ _ _ h => nomatch h
theorem routeSwitch : ∀ port pkt, Statement (.routeSwitch port pkt) := fun _ _ _ _ h => nomatch h
theorem routeSwitchApply : ∀ p position, Statement (.routeSwitchApply p position) := fun _ _ _ _ h => nomatch h
theorem landingCredit : ∀ port pkt, Statement (.landingCredit port pkt) := fun _ _ _ _ h => nomatch h
theorem slotWindowStart : ∀ p slot, Statement (.slotWindowStart p slot) := fun _ _ _ _ h => nomatch h
theorem lateTransmit : ∀ p slot, Statement (.lateTransmit p slot) := fun _ _ _ _ h => nomatch h
theorem bulkMirrorData : ∀ port pkt, Statement (.bulkMirrorData port pkt) := fun _ _ _ _ h => nomatch h
theorem bulkMirrorSeal : ∀ port pkt, Statement (.bulkMirrorSeal port pkt) := fun _ _ _ _ h => nomatch h
theorem takeoverRequest : ∀ port pkt, Statement (.takeoverRequest port pkt) := fun _ _ _ _ h => nomatch h
theorem takeoverWrite : ∀ value, Statement (.takeoverWrite value) := fun _ _ _ h => nomatch h
theorem itemRequest : ∀ port pkt, Statement (.itemRequest port pkt) := fun _ _ _ _ h => nomatch h
theorem itemData : ∀ port pkt, Statement (.itemData port pkt) := fun _ _ _ _ h => nomatch h
theorem itemSealRecord : ∀ port pkt, Statement (.itemSealRecord port pkt) := fun _ _ _ _ h => nomatch h
theorem takeoverDone : ∀ p, Statement (.takeoverDone p) := fun _ _ _ h => nomatch h
theorem recoveryImageRequest : ∀ port pkt, Statement (.recoveryImageRequest port pkt) := fun _ _ _ _ h => nomatch h
theorem recoveryImageData : ∀ port pkt, Statement (.recoveryImageData port pkt) := fun _ _ _ _ h => nomatch h
theorem recoveryImageEnd : ∀ port pkt, Statement (.recoveryImageEnd port pkt) := fun _ _ _ _ h => nomatch h
theorem recoveryPoll : Statement .recoveryPoll := fun _ _ h => nomatch h
theorem sampleStart : ∀ unit, Statement (.sampleStart unit) := fun _ _ _ h => nomatch h
theorem sampleConverted : ∀ unit sample timeNs, Statement (.sampleConverted unit sample timeNs) := fun _ _ _ _ _ h => nomatch h
theorem sampleSlow : ∀ unit sample, Statement (.sampleSlow unit sample) := fun _ _ _ _ h => nomatch h
theorem reserveCopyDone : ∀ unit sample, Statement (.reserveCopyDone unit sample) := fun _ _ _ _ h => nomatch h
theorem sweepStart : ∀ p, Statement (.sweepStart p) := fun _ _ _ h => nomatch h
theorem sweepDone : ∀ p, Statement (.sweepDone p) := fun _ _ _ h => nomatch h
theorem privilegedCopy : ∀ p group, Statement (.privilegedCopy p group) := fun _ _ _ _ h => nomatch h
theorem sealWritten : ∀ p item, Statement (.sealWritten p item) := fun _ _ _ _ h => nomatch h
theorem mirrorSend : ∀ p item, Statement (.mirrorSend p item) := fun _ _ _ _ h => nomatch h
theorem drainComplete : ∀ p, Statement (.drainComplete p) := fun _ _ _ h => nomatch h
theorem planResume : ∀ p, Statement (.planResume p) := fun _ _ _ h => nomatch h
theorem handoverSent : ∀ p, Statement (.handoverSent p) := fun _ _ _ h => nomatch h
theorem admissionRestoreDone : ∀ p, Statement (.admissionRestoreDone p) := fun _ _ _ h => nomatch h
theorem negStoreWipeDone : Statement .negStoreWipeDone := fun _ _ h => nomatch h
theorem sealedSizeWrite : ∀ value, Statement (.sealedSizeWrite value) := fun _ _ _ h => nomatch h
theorem groupFreezeWrite : ∀ value, Statement (.groupFreezeWrite value) := fun _ _ _ h => nomatch h
theorem throttleEval : ∀ r, Statement (.throttleEval r) := fun _ _ _ h => nomatch h
theorem powerCapWrite : ∀ value, Statement (.powerCapWrite value) := fun _ _ _ h => nomatch h
theorem busDroop : ∀ mv, Statement (.busDroop mv) := fun _ _ _ h => nomatch h
theorem busNormal : ∀ mv, Statement (.busNormal mv) := fun _ _ _ h => nomatch h
theorem busLow : ∀ mv, Statement (.busLow mv) := fun _ _ _ h => nomatch h
theorem busLowRecover : ∀ mv, Statement (.busLowRecover mv) := fun _ _ _ h => nomatch h
theorem busFail : ∀ mv cause, Statement (.busFail mv cause) := fun _ _ _ _ h => nomatch h
theorem busSurge : ∀ mv durationUs, Statement (.busSurge mv durationUs) := fun _ _ _ _ h => nomatch h
theorem busReturn : ∀ mv, Statement (.busReturn mv) := fun _ _ _ h => nomatch h
theorem thermalTrip : ∀ sensor tenths, Statement (.thermalTrip sensor tenths) := fun _ _ _ _ h => nomatch h
theorem coolantCheck : ∀ flow inlet, Statement (.coolantCheck flow inlet) := fun _ _ _ _ h => nomatch h
theorem powerStateEntry : ∀ unit idleNs, Statement (.powerStateEntry unit idleNs) := fun _ _ _ _ h => nomatch h
theorem powerStateExit : ∀ unit unplanned, Statement (.powerStateExit unit unplanned) := fun _ _ _ _ h => nomatch h
theorem orderlyShutdown : ∀ viaPldm test, Statement (.orderlyShutdown viaPldm test) := fun _ _ _ _ h => nomatch h
theorem shutdownTestDeferred : ∀ cause done, Statement (.shutdownTestDeferred cause done) := fun _ _ _ _ h => nomatch h
theorem warmReset : ∀ value viaPldm start, Statement (.warmReset value viaPldm start) := fun _ _ _ _ _ h => nomatch h
theorem watchdogReset : ∀ start, Statement (.watchdogReset start) := fun _ _ _ h => nomatch h
theorem startUp : ∀ start, Statement (.startUp start) := fun _ _ _ h => nomatch h
theorem hostPortReset : ∀ cause, Statement (.hostPortReset cause) := fun _ _ _ h => nomatch h
theorem mbxStatus : Statement .mbxStatus := fun _ _ h => nomatch h
theorem mbxImageBegin : Statement .mbxImageBegin := fun _ _ h => nomatch h
theorem mbxImageData : Statement .mbxImageData := fun _ _ h => nomatch h
theorem mbxImageEnd : Statement .mbxImageEnd := fun _ _ h => nomatch h
theorem mbxAbort : Statement .mbxAbort := fun _ _ h => nomatch h
theorem pldmFirmwareUpdate : ∀ image, Statement (.pldmFirmwareUpdate image) := fun _ _ _ h => nomatch h
theorem getVersion : ∀ session, Statement (.getVersion session) := fun _ _ _ h => nomatch h
theorem getCapabilities : ∀ session, Statement (.getCapabilities session) := fun _ _ _ h => nomatch h
theorem negotiateAlgorithms : ∀ session algs, Statement (.negotiateAlgorithms session algs) := fun _ _ _ _ h => nomatch h
theorem getDigests : ∀ session, Statement (.getDigests session) := fun _ _ _ h => nomatch h
theorem getCertificate : ∀ session offset len, Statement (.getCertificate session offset len) := fun _ _ _ _ _ h => nomatch h
theorem challenge : ∀ session nonce, Statement (.challenge session nonce) := fun _ _ _ _ h => nomatch h
theorem getMeasurements : ∀ session index nonce, Statement (.getMeasurements session index nonce) := fun _ _ _ _ _ h => nomatch h
theorem keyExchange : ∀ session exchange, Statement (.keyExchange session exchange) := fun _ _ _ _ h => nomatch h
theorem finish : ∀ session auth, Statement (.finish session auth) := fun _ _ _ _ h => nomatch h
theorem heartbeat : ∀ session, Statement (.heartbeat session) := fun _ _ _ h => nomatch h
theorem heartbeatTimeout : ∀ session, Statement (.heartbeatTimeout session) := fun _ _ _ h => nomatch h
theorem keyUpdate : ∀ session op, Statement (.keyUpdate session op) := fun _ _ _ _ h => nomatch h
theorem endSession : ∀ session, Statement (.endSession session) := fun _ _ _ h => nomatch h
theorem chunkSend : ∀ session seqNo last bytes, Statement (.chunkSend session seqNo last bytes) := fun _ _ _ _ _ _ h => nomatch h
theorem chunkGet : ∀ session seqNo, Statement (.chunkGet session seqNo) := fun _ _ _ _ h => nomatch h
theorem unsupportedRequest : ∀ session code, Statement (.unsupportedRequest session code) := fun _ _ _ _ h => nomatch h
theorem bindPartition : ∀ session p, Statement (.bindPartition session p) := fun _ _ _ _ h => nomatch h
theorem setProtected : ∀ session p ranges, Statement (.setProtected session p ranges) := fun _ _ _ _ _ h => nomatch h
theorem setFabricKey : ∀ session p key, Statement (.setFabricKey session p key) := fun _ _ _ _ _ h => nomatch h
theorem sealBind : ∀ session, Statement (.sealBind session) := fun _ _ _ h => nomatch h
theorem unsealRegion : ∀ session, Statement (.unsealRegion session) := fun _ _ _ h => nomatch h
theorem setView : ∀ session full, Statement (.setView session full) := fun _ _ _ _ h => nomatch h
theorem setPartitionMap : ∀ session map, Statement (.setPartitionMap session map) := fun _ _ _ _ h => nomatch h
theorem lifecycle : ∀ session target start, Statement (.lifecycle session target start) := fun _ _ _ _ _ h => nomatch h
theorem takeOwnership : ∀ session, Statement (.takeOwnership session) := fun _ _ _ h => nomatch h
theorem vendorReset : ∀ session start, Statement (.vendorReset session start) := fun _ _ _ _ h => nomatch h
theorem gradeRecord : ∀ session record, Statement (.gradeRecord session record) := fun _ _ _ _ h => nomatch h
theorem scanEnable : ∀ session, Statement (.scanEnable session) := fun _ _ _ h => nomatch h
theorem eventCollect : ∀ pathFull, Statement (.eventCollect pathFull) := fun _ _ _ h => nomatch h
theorem interruptCoalesceDelay : ∀ ring, Statement (.interruptCoalesceDelay ring) := fun _ _ _ h => nomatch h

end Sys2Proof.Laws.NoWord
end

