-- ==== Sys2Proof/Laws/State.lean ====
section
/-! SUPPORT. Laws of the named operations: what each leaves of the state's other fields, and what a register, a field, a
counter and the event path read as after it. -/

set_option Elab.async false

namespace Sys2Proof.Machine

/-! ### Fields an operation leaves -/

@[simp] theorem State.setReg_fitted (s : State) (a v : Nat) : (s.setReg a v).fitted = s.fitted := rfl
@[simp] theorem State.setReg_counters (s : State) (a v : Nat) : (s.setReg a v).counters = s.counters := rfl
@[simp] theorem State.setReg_coarse (s : State) (a v : Nat) : (s.setReg a v).coarse = s.coarse := rfl
@[simp] theorem State.setReg_latch (s : State) (a v : Nat) : (s.setReg a v).latch = s.latch := rfl
@[simp] theorem State.setReg_held (s : State) (a v : Nat) : (s.setReg a v).held = s.held := rfl
@[simp] theorem State.setReg_time (s : State) (a v : Nat) : (s.setReg a v).time = s.time := rfl
@[simp] theorem State.setReg_seq (s : State) (a v : Nat) : (s.setReg a v).seq = s.seq := rfl
@[simp] theorem State.setReg_seqReported (s : State) (a v : Nat) : (s.setReg a v).seqReported = s.seqReported := rfl
@[simp] theorem State.setReg_events (s : State) (a v : Nat) : (s.setReg a v).events = s.events := rfl
@[simp] theorem State.setReg_mem (s : State) (a v : Nat) : (s.setReg a v).mem = s.mem := rfl
@[simp] theorem State.setReg_staging (s : State) (a v : Nat) : (s.setReg a v).staging = s.staging := rfl
@[simp] theorem State.setReg_neg (s : State) (a v : Nat) : (s.setReg a v).neg = s.neg := rfl
@[simp] theorem State.setReg_tags (s : State) (a v : Nat) : (s.setReg a v).tags = s.tags := rfl
@[simp] theorem State.setReg_negTags (s : State) (a v : Nat) : (s.setReg a v).negTags = s.negTags := rfl
@[simp] theorem State.setReg_rings (s : State) (a v : Nat) : (s.setReg a v).rings = s.rings := rfl
@[simp] theorem State.setReg_pools (s : State) (a v : Nat) : (s.setReg a v).pools = s.pools := rfl
@[simp] theorem State.setReg_plans (s : State) (a v : Nat) : (s.setReg a v).plans = s.plans := rfl
@[simp] theorem State.setReg_parts (s : State) (a v : Nat) : (s.setReg a v).parts = s.parts := rfl
@[simp] theorem State.setReg_cores (s : State) (a v : Nat) : (s.setReg a v).cores = s.cores := rfl
@[simp] theorem State.setReg_tokens (s : State) (a v : Nat) : (s.setReg a v).tokens = s.tokens := rfl
@[simp] theorem State.setReg_credits (s : State) (a v : Nat) : (s.setReg a v).credits = s.credits := rfl
@[simp] theorem State.setReg_layers (s : State) (a v : Nat) : (s.setReg a v).layers = s.layers := rfl
@[simp] theorem State.setReg_shapes (s : State) (a v : Nat) : (s.setReg a v).shapes = s.shapes := rfl
@[simp] theorem State.setReg_searches (s : State) (a v : Nat) : (s.setReg a v).searches = s.searches := rfl
@[simp] theorem State.setReg_contexts (s : State) (a v : Nat) : (s.setReg a v).contexts = s.contexts := rfl
@[simp] theorem State.setReg_pages (s : State) (a v : Nat) : (s.setReg a v).pages = s.pages := rfl
@[simp] theorem State.setReg_devDraws (s : State) (a v : Nat) : (s.setReg a v).devDraws = s.devDraws := rfl
@[simp] theorem State.setReg_devQueues (s : State) (a v : Nat) : (s.setReg a v).devQueues = s.devQueues := rfl
@[simp] theorem State.setReg_ports (s : State) (a v : Nat) : (s.setReg a v).ports = s.ports := rfl
@[simp] theorem State.setReg_tally (s : State) (a v : Nat) : (s.setReg a v).tally = s.tally := rfl
@[simp] theorem State.setReg_rowsUsed (s : State) (a v : Nat) : (s.setReg a v).rowsUsed = s.rowsUsed := rfl
@[simp] theorem State.setReg_retired (s : State) (a v : Nat) : (s.setReg a v).retired = s.retired := rfl
@[simp] theorem State.setReg_stamped (s : State) (a v : Nat) : (s.setReg a v).stamped = s.stamped := rfl
@[simp] theorem State.setReg_wards (s : State) (a v : Nat) : (s.setReg a v).wards = s.wards := rfl
@[simp] theorem State.setReg_d2dDown (s : State) (a v : Nat) : (s.setReg a v).d2dDown = s.d2dDown := rfl
@[simp] theorem State.setReg_intake (s : State) (a v : Nat) : (s.setReg a v).intake = s.intake := rfl
@[simp] theorem State.setReg_power (s : State) (a v : Nat) : (s.setReg a v).power = s.power := rfl
@[simp] theorem State.setReg_trust (s : State) (a v : Nat) : (s.setReg a v).trust = s.trust := rfl
@[simp] theorem State.setReg_out (s : State) (a v : Nat) : (s.setReg a v).out = s.out := rfl
@[simp] theorem State.setReg_freeCtr (s : State) (a v : Nat) : (s.setReg a v).freeCtr = s.freeCtr := rfl
@[simp] theorem State.setReg_pending (s : State) (a v : Nat) : (s.setReg a v).pending = s.pending := rfl

@[simp] theorem State.set_fitted (s : State) (f : Fld) (v : Nat) : (s.set f v).fitted = s.fitted := rfl
@[simp] theorem State.set_counters (s : State) (f : Fld) (v : Nat) : (s.set f v).counters = s.counters := rfl
@[simp] theorem State.set_coarse (s : State) (f : Fld) (v : Nat) : (s.set f v).coarse = s.coarse := rfl
@[simp] theorem State.set_latch (s : State) (f : Fld) (v : Nat) : (s.set f v).latch = s.latch := rfl
@[simp] theorem State.set_held (s : State) (f : Fld) (v : Nat) : (s.set f v).held = s.held := rfl
@[simp] theorem State.set_time (s : State) (f : Fld) (v : Nat) : (s.set f v).time = s.time := rfl
@[simp] theorem State.set_seq (s : State) (f : Fld) (v : Nat) : (s.set f v).seq = s.seq := rfl
@[simp] theorem State.set_seqReported (s : State) (f : Fld) (v : Nat) : (s.set f v).seqReported = s.seqReported := rfl
@[simp] theorem State.set_events (s : State) (f : Fld) (v : Nat) : (s.set f v).events = s.events := rfl
@[simp] theorem State.set_mem (s : State) (f : Fld) (v : Nat) : (s.set f v).mem = s.mem := rfl
@[simp] theorem State.set_staging (s : State) (f : Fld) (v : Nat) : (s.set f v).staging = s.staging := rfl
@[simp] theorem State.set_neg (s : State) (f : Fld) (v : Nat) : (s.set f v).neg = s.neg := rfl
@[simp] theorem State.set_tags (s : State) (f : Fld) (v : Nat) : (s.set f v).tags = s.tags := rfl
@[simp] theorem State.set_negTags (s : State) (f : Fld) (v : Nat) : (s.set f v).negTags = s.negTags := rfl
@[simp] theorem State.set_rings (s : State) (f : Fld) (v : Nat) : (s.set f v).rings = s.rings := rfl
@[simp] theorem State.set_pools (s : State) (f : Fld) (v : Nat) : (s.set f v).pools = s.pools := rfl
@[simp] theorem State.set_plans (s : State) (f : Fld) (v : Nat) : (s.set f v).plans = s.plans := rfl
@[simp] theorem State.set_parts (s : State) (f : Fld) (v : Nat) : (s.set f v).parts = s.parts := rfl
@[simp] theorem State.set_cores (s : State) (f : Fld) (v : Nat) : (s.set f v).cores = s.cores := rfl
@[simp] theorem State.set_tokens (s : State) (f : Fld) (v : Nat) : (s.set f v).tokens = s.tokens := rfl
@[simp] theorem State.set_credits (s : State) (f : Fld) (v : Nat) : (s.set f v).credits = s.credits := rfl
@[simp] theorem State.set_layers (s : State) (f : Fld) (v : Nat) : (s.set f v).layers = s.layers := rfl
@[simp] theorem State.set_shapes (s : State) (f : Fld) (v : Nat) : (s.set f v).shapes = s.shapes := rfl
@[simp] theorem State.set_searches (s : State) (f : Fld) (v : Nat) : (s.set f v).searches = s.searches := rfl
@[simp] theorem State.set_contexts (s : State) (f : Fld) (v : Nat) : (s.set f v).contexts = s.contexts := rfl
@[simp] theorem State.set_pages (s : State) (f : Fld) (v : Nat) : (s.set f v).pages = s.pages := rfl
@[simp] theorem State.set_devDraws (s : State) (f : Fld) (v : Nat) : (s.set f v).devDraws = s.devDraws := rfl
@[simp] theorem State.set_devQueues (s : State) (f : Fld) (v : Nat) : (s.set f v).devQueues = s.devQueues := rfl
@[simp] theorem State.set_ports (s : State) (f : Fld) (v : Nat) : (s.set f v).ports = s.ports := rfl
@[simp] theorem State.set_tally (s : State) (f : Fld) (v : Nat) : (s.set f v).tally = s.tally := rfl
@[simp] theorem State.set_rowsUsed (s : State) (f : Fld) (v : Nat) : (s.set f v).rowsUsed = s.rowsUsed := rfl
@[simp] theorem State.set_retired (s : State) (f : Fld) (v : Nat) : (s.set f v).retired = s.retired := rfl
@[simp] theorem State.set_stamped (s : State) (f : Fld) (v : Nat) : (s.set f v).stamped = s.stamped := rfl
@[simp] theorem State.set_wards (s : State) (f : Fld) (v : Nat) : (s.set f v).wards = s.wards := rfl
@[simp] theorem State.set_d2dDown (s : State) (f : Fld) (v : Nat) : (s.set f v).d2dDown = s.d2dDown := rfl
@[simp] theorem State.set_intake (s : State) (f : Fld) (v : Nat) : (s.set f v).intake = s.intake := rfl
@[simp] theorem State.set_power (s : State) (f : Fld) (v : Nat) : (s.set f v).power = s.power := rfl
@[simp] theorem State.set_trust (s : State) (f : Fld) (v : Nat) : (s.set f v).trust = s.trust := rfl
@[simp] theorem State.set_out (s : State) (f : Fld) (v : Nat) : (s.set f v).out = s.out := rfl
@[simp] theorem State.set_freeCtr (s : State) (f : Fld) (v : Nat) : (s.set f v).freeCtr = s.freeCtr := rfl
@[simp] theorem State.set_pending (s : State) (f : Fld) (v : Nat) : (s.set f v).pending = s.pending := rfl

@[simp] theorem State.setPair_fitted (s : State) (lo v : Nat) : (s.setPair lo v).fitted = s.fitted := rfl
@[simp] theorem State.setPair_counters (s : State) (lo v : Nat) : (s.setPair lo v).counters = s.counters := rfl
@[simp] theorem State.setPair_coarse (s : State) (lo v : Nat) : (s.setPair lo v).coarse = s.coarse := rfl
@[simp] theorem State.setPair_latch (s : State) (lo v : Nat) : (s.setPair lo v).latch = s.latch := rfl
@[simp] theorem State.setPair_held (s : State) (lo v : Nat) : (s.setPair lo v).held = s.held := rfl
@[simp] theorem State.setPair_time (s : State) (lo v : Nat) : (s.setPair lo v).time = s.time := rfl
@[simp] theorem State.setPair_seq (s : State) (lo v : Nat) : (s.setPair lo v).seq = s.seq := rfl
@[simp] theorem State.setPair_seqReported (s : State) (lo v : Nat) : (s.setPair lo v).seqReported = s.seqReported := rfl
@[simp] theorem State.setPair_events (s : State) (lo v : Nat) : (s.setPair lo v).events = s.events := rfl
@[simp] theorem State.setPair_mem (s : State) (lo v : Nat) : (s.setPair lo v).mem = s.mem := rfl
@[simp] theorem State.setPair_staging (s : State) (lo v : Nat) : (s.setPair lo v).staging = s.staging := rfl
@[simp] theorem State.setPair_neg (s : State) (lo v : Nat) : (s.setPair lo v).neg = s.neg := rfl
@[simp] theorem State.setPair_tags (s : State) (lo v : Nat) : (s.setPair lo v).tags = s.tags := rfl
@[simp] theorem State.setPair_negTags (s : State) (lo v : Nat) : (s.setPair lo v).negTags = s.negTags := rfl
@[simp] theorem State.setPair_rings (s : State) (lo v : Nat) : (s.setPair lo v).rings = s.rings := rfl
@[simp] theorem State.setPair_pools (s : State) (lo v : Nat) : (s.setPair lo v).pools = s.pools := rfl
@[simp] theorem State.setPair_plans (s : State) (lo v : Nat) : (s.setPair lo v).plans = s.plans := rfl
@[simp] theorem State.setPair_parts (s : State) (lo v : Nat) : (s.setPair lo v).parts = s.parts := rfl
@[simp] theorem State.setPair_cores (s : State) (lo v : Nat) : (s.setPair lo v).cores = s.cores := rfl
@[simp] theorem State.setPair_tokens (s : State) (lo v : Nat) : (s.setPair lo v).tokens = s.tokens := rfl
@[simp] theorem State.setPair_credits (s : State) (lo v : Nat) : (s.setPair lo v).credits = s.credits := rfl
@[simp] theorem State.setPair_layers (s : State) (lo v : Nat) : (s.setPair lo v).layers = s.layers := rfl
@[simp] theorem State.setPair_shapes (s : State) (lo v : Nat) : (s.setPair lo v).shapes = s.shapes := rfl
@[simp] theorem State.setPair_searches (s : State) (lo v : Nat) : (s.setPair lo v).searches = s.searches := rfl
@[simp] theorem State.setPair_contexts (s : State) (lo v : Nat) : (s.setPair lo v).contexts = s.contexts := rfl
@[simp] theorem State.setPair_pages (s : State) (lo v : Nat) : (s.setPair lo v).pages = s.pages := rfl
@[simp] theorem State.setPair_devDraws (s : State) (lo v : Nat) : (s.setPair lo v).devDraws = s.devDraws := rfl
@[simp] theorem State.setPair_devQueues (s : State) (lo v : Nat) : (s.setPair lo v).devQueues = s.devQueues := rfl
@[simp] theorem State.setPair_ports (s : State) (lo v : Nat) : (s.setPair lo v).ports = s.ports := rfl
@[simp] theorem State.setPair_tally (s : State) (lo v : Nat) : (s.setPair lo v).tally = s.tally := rfl
@[simp] theorem State.setPair_rowsUsed (s : State) (lo v : Nat) : (s.setPair lo v).rowsUsed = s.rowsUsed := rfl
@[simp] theorem State.setPair_retired (s : State) (lo v : Nat) : (s.setPair lo v).retired = s.retired := rfl
@[simp] theorem State.setPair_stamped (s : State) (lo v : Nat) : (s.setPair lo v).stamped = s.stamped := rfl
@[simp] theorem State.setPair_wards (s : State) (lo v : Nat) : (s.setPair lo v).wards = s.wards := rfl
@[simp] theorem State.setPair_d2dDown (s : State) (lo v : Nat) : (s.setPair lo v).d2dDown = s.d2dDown := rfl
@[simp] theorem State.setPair_intake (s : State) (lo v : Nat) : (s.setPair lo v).intake = s.intake := rfl
@[simp] theorem State.setPair_power (s : State) (lo v : Nat) : (s.setPair lo v).power = s.power := rfl
@[simp] theorem State.setPair_trust (s : State) (lo v : Nat) : (s.setPair lo v).trust = s.trust := rfl
@[simp] theorem State.setPair_out (s : State) (lo v : Nat) : (s.setPair lo v).out = s.out := rfl
@[simp] theorem State.setPair_freeCtr (s : State) (lo v : Nat) : (s.setPair lo v).freeCtr = s.freeCtr := rfl
@[simp] theorem State.setPair_pending (s : State) (lo v : Nat) : (s.setPair lo v).pending = s.pending := rfl

@[simp] theorem State.clearCounter_fitted (s : State) (lo : Nat) : (s.clearCounter lo).fitted = s.fitted := rfl
@[simp] theorem State.clearCounter_regs (s : State) (lo : Nat) : (s.clearCounter lo).regs = s.regs := rfl
@[simp] theorem State.clearCounter_coarse (s : State) (lo : Nat) : (s.clearCounter lo).coarse = s.coarse := rfl
@[simp] theorem State.clearCounter_latch (s : State) (lo : Nat) : (s.clearCounter lo).latch = s.latch := rfl
@[simp] theorem State.clearCounter_held (s : State) (lo : Nat) : (s.clearCounter lo).held = s.held := rfl
@[simp] theorem State.clearCounter_time (s : State) (lo : Nat) : (s.clearCounter lo).time = s.time := rfl
@[simp] theorem State.clearCounter_seq (s : State) (lo : Nat) : (s.clearCounter lo).seq = s.seq := rfl
@[simp] theorem State.clearCounter_seqReported (s : State) (lo : Nat) : (s.clearCounter lo).seqReported = s.seqReported := rfl
@[simp] theorem State.clearCounter_events (s : State) (lo : Nat) : (s.clearCounter lo).events = s.events := rfl
@[simp] theorem State.clearCounter_mem (s : State) (lo : Nat) : (s.clearCounter lo).mem = s.mem := rfl
@[simp] theorem State.clearCounter_staging (s : State) (lo : Nat) : (s.clearCounter lo).staging = s.staging := rfl
@[simp] theorem State.clearCounter_neg (s : State) (lo : Nat) : (s.clearCounter lo).neg = s.neg := rfl
@[simp] theorem State.clearCounter_tags (s : State) (lo : Nat) : (s.clearCounter lo).tags = s.tags := rfl
@[simp] theorem State.clearCounter_negTags (s : State) (lo : Nat) : (s.clearCounter lo).negTags = s.negTags := rfl
@[simp] theorem State.clearCounter_rings (s : State) (lo : Nat) : (s.clearCounter lo).rings = s.rings := rfl
@[simp] theorem State.clearCounter_pools (s : State) (lo : Nat) : (s.clearCounter lo).pools = s.pools := rfl
@[simp] theorem State.clearCounter_plans (s : State) (lo : Nat) : (s.clearCounter lo).plans = s.plans := rfl
@[simp] theorem State.clearCounter_parts (s : State) (lo : Nat) : (s.clearCounter lo).parts = s.parts := rfl
@[simp] theorem State.clearCounter_cores (s : State) (lo : Nat) : (s.clearCounter lo).cores = s.cores := rfl
@[simp] theorem State.clearCounter_tokens (s : State) (lo : Nat) : (s.clearCounter lo).tokens = s.tokens := rfl
@[simp] theorem State.clearCounter_credits (s : State) (lo : Nat) : (s.clearCounter lo).credits = s.credits := rfl
@[simp] theorem State.clearCounter_layers (s : State) (lo : Nat) : (s.clearCounter lo).layers = s.layers := rfl
@[simp] theorem State.clearCounter_shapes (s : State) (lo : Nat) : (s.clearCounter lo).shapes = s.shapes := rfl
@[simp] theorem State.clearCounter_searches (s : State) (lo : Nat) : (s.clearCounter lo).searches = s.searches := rfl
@[simp] theorem State.clearCounter_contexts (s : State) (lo : Nat) : (s.clearCounter lo).contexts = s.contexts := rfl
@[simp] theorem State.clearCounter_pages (s : State) (lo : Nat) : (s.clearCounter lo).pages = s.pages := rfl
@[simp] theorem State.clearCounter_devDraws (s : State) (lo : Nat) : (s.clearCounter lo).devDraws = s.devDraws := rfl
@[simp] theorem State.clearCounter_devQueues (s : State) (lo : Nat) : (s.clearCounter lo).devQueues = s.devQueues := rfl
@[simp] theorem State.clearCounter_ports (s : State) (lo : Nat) : (s.clearCounter lo).ports = s.ports := rfl
@[simp] theorem State.clearCounter_tally (s : State) (lo : Nat) : (s.clearCounter lo).tally = s.tally := rfl
@[simp] theorem State.clearCounter_rowsUsed (s : State) (lo : Nat) : (s.clearCounter lo).rowsUsed = s.rowsUsed := rfl
@[simp] theorem State.clearCounter_retired (s : State) (lo : Nat) : (s.clearCounter lo).retired = s.retired := rfl
@[simp] theorem State.clearCounter_stamped (s : State) (lo : Nat) : (s.clearCounter lo).stamped = s.stamped := rfl
@[simp] theorem State.clearCounter_wards (s : State) (lo : Nat) : (s.clearCounter lo).wards = s.wards := rfl
@[simp] theorem State.clearCounter_d2dDown (s : State) (lo : Nat) : (s.clearCounter lo).d2dDown = s.d2dDown := rfl
@[simp] theorem State.clearCounter_intake (s : State) (lo : Nat) : (s.clearCounter lo).intake = s.intake := rfl
@[simp] theorem State.clearCounter_power (s : State) (lo : Nat) : (s.clearCounter lo).power = s.power := rfl
@[simp] theorem State.clearCounter_trust (s : State) (lo : Nat) : (s.clearCounter lo).trust = s.trust := rfl
@[simp] theorem State.clearCounter_out (s : State) (lo : Nat) : (s.clearCounter lo).out = s.out := rfl
@[simp] theorem State.clearCounter_freeCtr (s : State) (lo : Nat) : (s.clearCounter lo).freeCtr = s.freeCtr := rfl
@[simp] theorem State.clearCounter_pending (s : State) (lo : Nat) : (s.clearCounter lo).pending = s.pending := rfl

@[simp] theorem State.modPart_fitted (s : State) (p : Nat) (f : Part → Part) : (s.modPart p f).fitted = s.fitted := rfl
@[simp] theorem State.modPart_regs (s : State) (p : Nat) (f : Part → Part) : (s.modPart p f).regs = s.regs := rfl
@[simp] theorem State.modPart_counters (s : State) (p : Nat) (f : Part → Part) : (s.modPart p f).counters = s.counters := rfl
@[simp] theorem State.modPart_coarse (s : State) (p : Nat) (f : Part → Part) : (s.modPart p f).coarse = s.coarse := rfl
@[simp] theorem State.modPart_latch (s : State) (p : Nat) (f : Part → Part) : (s.modPart p f).latch = s.latch := rfl
@[simp] theorem State.modPart_held (s : State) (p : Nat) (f : Part → Part) : (s.modPart p f).held = s.held := rfl
@[simp] theorem State.modPart_time (s : State) (p : Nat) (f : Part → Part) : (s.modPart p f).time = s.time := rfl
@[simp] theorem State.modPart_seq (s : State) (p : Nat) (f : Part → Part) : (s.modPart p f).seq = s.seq := rfl
@[simp] theorem State.modPart_seqReported (s : State) (p : Nat) (f : Part → Part) : (s.modPart p f).seqReported = s.seqReported := rfl
@[simp] theorem State.modPart_events (s : State) (p : Nat) (f : Part → Part) : (s.modPart p f).events = s.events := rfl
@[simp] theorem State.modPart_mem (s : State) (p : Nat) (f : Part → Part) : (s.modPart p f).mem = s.mem := rfl
@[simp] theorem State.modPart_staging (s : State) (p : Nat) (f : Part → Part) : (s.modPart p f).staging = s.staging := rfl
@[simp] theorem State.modPart_neg (s : State) (p : Nat) (f : Part → Part) : (s.modPart p f).neg = s.neg := rfl
@[simp] theorem State.modPart_tags (s : State) (p : Nat) (f : Part → Part) : (s.modPart p f).tags = s.tags := rfl
@[simp] theorem State.modPart_negTags (s : State) (p : Nat) (f : Part → Part) : (s.modPart p f).negTags = s.negTags := rfl
@[simp] theorem State.modPart_rings (s : State) (p : Nat) (f : Part → Part) : (s.modPart p f).rings = s.rings := rfl
@[simp] theorem State.modPart_pools (s : State) (p : Nat) (f : Part → Part) : (s.modPart p f).pools = s.pools := rfl
@[simp] theorem State.modPart_plans (s : State) (p : Nat) (f : Part → Part) : (s.modPart p f).plans = s.plans := rfl
@[simp] theorem State.modPart_cores (s : State) (p : Nat) (f : Part → Part) : (s.modPart p f).cores = s.cores := rfl
@[simp] theorem State.modPart_tokens (s : State) (p : Nat) (f : Part → Part) : (s.modPart p f).tokens = s.tokens := rfl
@[simp] theorem State.modPart_credits (s : State) (p : Nat) (f : Part → Part) : (s.modPart p f).credits = s.credits := rfl
@[simp] theorem State.modPart_layers (s : State) (p : Nat) (f : Part → Part) : (s.modPart p f).layers = s.layers := rfl
@[simp] theorem State.modPart_shapes (s : State) (p : Nat) (f : Part → Part) : (s.modPart p f).shapes = s.shapes := rfl
@[simp] theorem State.modPart_searches (s : State) (p : Nat) (f : Part → Part) : (s.modPart p f).searches = s.searches := rfl
@[simp] theorem State.modPart_contexts (s : State) (p : Nat) (f : Part → Part) : (s.modPart p f).contexts = s.contexts := rfl
@[simp] theorem State.modPart_pages (s : State) (p : Nat) (f : Part → Part) : (s.modPart p f).pages = s.pages := rfl
@[simp] theorem State.modPart_devDraws (s : State) (p : Nat) (f : Part → Part) : (s.modPart p f).devDraws = s.devDraws := rfl
@[simp] theorem State.modPart_devQueues (s : State) (p : Nat) (f : Part → Part) : (s.modPart p f).devQueues = s.devQueues := rfl
@[simp] theorem State.modPart_ports (s : State) (p : Nat) (f : Part → Part) : (s.modPart p f).ports = s.ports := rfl
@[simp] theorem State.modPart_tally (s : State) (p : Nat) (f : Part → Part) : (s.modPart p f).tally = s.tally := rfl
@[simp] theorem State.modPart_rowsUsed (s : State) (p : Nat) (f : Part → Part) : (s.modPart p f).rowsUsed = s.rowsUsed := rfl
@[simp] theorem State.modPart_retired (s : State) (p : Nat) (f : Part → Part) : (s.modPart p f).retired = s.retired := rfl
@[simp] theorem State.modPart_stamped (s : State) (p : Nat) (f : Part → Part) : (s.modPart p f).stamped = s.stamped := rfl
@[simp] theorem State.modPart_wards (s : State) (p : Nat) (f : Part → Part) : (s.modPart p f).wards = s.wards := rfl
@[simp] theorem State.modPart_d2dDown (s : State) (p : Nat) (f : Part → Part) : (s.modPart p f).d2dDown = s.d2dDown := rfl
@[simp] theorem State.modPart_intake (s : State) (p : Nat) (f : Part → Part) : (s.modPart p f).intake = s.intake := rfl
@[simp] theorem State.modPart_power (s : State) (p : Nat) (f : Part → Part) : (s.modPart p f).power = s.power := rfl
@[simp] theorem State.modPart_trust (s : State) (p : Nat) (f : Part → Part) : (s.modPart p f).trust = s.trust := rfl
@[simp] theorem State.modPart_out (s : State) (p : Nat) (f : Part → Part) : (s.modPart p f).out = s.out := rfl
@[simp] theorem State.modPart_freeCtr (s : State) (p : Nat) (f : Part → Part) : (s.modPart p f).freeCtr = s.freeCtr := rfl
@[simp] theorem State.modPart_pending (s : State) (p : Nat) (f : Part → Part) : (s.modPart p f).pending = s.pending := rfl

@[simp] theorem State.modRing_fitted (s : State) (n : Nat) (f : Ring → Ring) : (s.modRing n f).fitted = s.fitted := rfl
@[simp] theorem State.modRing_regs (s : State) (n : Nat) (f : Ring → Ring) : (s.modRing n f).regs = s.regs := rfl
@[simp] theorem State.modRing_counters (s : State) (n : Nat) (f : Ring → Ring) : (s.modRing n f).counters = s.counters := rfl
@[simp] theorem State.modRing_coarse (s : State) (n : Nat) (f : Ring → Ring) : (s.modRing n f).coarse = s.coarse := rfl
@[simp] theorem State.modRing_latch (s : State) (n : Nat) (f : Ring → Ring) : (s.modRing n f).latch = s.latch := rfl
@[simp] theorem State.modRing_held (s : State) (n : Nat) (f : Ring → Ring) : (s.modRing n f).held = s.held := rfl
@[simp] theorem State.modRing_time (s : State) (n : Nat) (f : Ring → Ring) : (s.modRing n f).time = s.time := rfl
@[simp] theorem State.modRing_seq (s : State) (n : Nat) (f : Ring → Ring) : (s.modRing n f).seq = s.seq := rfl
@[simp] theorem State.modRing_seqReported (s : State) (n : Nat) (f : Ring → Ring) : (s.modRing n f).seqReported = s.seqReported := rfl
@[simp] theorem State.modRing_events (s : State) (n : Nat) (f : Ring → Ring) : (s.modRing n f).events = s.events := rfl
@[simp] theorem State.modRing_mem (s : State) (n : Nat) (f : Ring → Ring) : (s.modRing n f).mem = s.mem := rfl
@[simp] theorem State.modRing_staging (s : State) (n : Nat) (f : Ring → Ring) : (s.modRing n f).staging = s.staging := rfl
@[simp] theorem State.modRing_neg (s : State) (n : Nat) (f : Ring → Ring) : (s.modRing n f).neg = s.neg := rfl
@[simp] theorem State.modRing_tags (s : State) (n : Nat) (f : Ring → Ring) : (s.modRing n f).tags = s.tags := rfl
@[simp] theorem State.modRing_negTags (s : State) (n : Nat) (f : Ring → Ring) : (s.modRing n f).negTags = s.negTags := rfl
@[simp] theorem State.modRing_pools (s : State) (n : Nat) (f : Ring → Ring) : (s.modRing n f).pools = s.pools := rfl
@[simp] theorem State.modRing_plans (s : State) (n : Nat) (f : Ring → Ring) : (s.modRing n f).plans = s.plans := rfl
@[simp] theorem State.modRing_parts (s : State) (n : Nat) (f : Ring → Ring) : (s.modRing n f).parts = s.parts := rfl
@[simp] theorem State.modRing_cores (s : State) (n : Nat) (f : Ring → Ring) : (s.modRing n f).cores = s.cores := rfl
@[simp] theorem State.modRing_tokens (s : State) (n : Nat) (f : Ring → Ring) : (s.modRing n f).tokens = s.tokens := rfl
@[simp] theorem State.modRing_credits (s : State) (n : Nat) (f : Ring → Ring) : (s.modRing n f).credits = s.credits := rfl
@[simp] theorem State.modRing_layers (s : State) (n : Nat) (f : Ring → Ring) : (s.modRing n f).layers = s.layers := rfl
@[simp] theorem State.modRing_shapes (s : State) (n : Nat) (f : Ring → Ring) : (s.modRing n f).shapes = s.shapes := rfl
@[simp] theorem State.modRing_searches (s : State) (n : Nat) (f : Ring → Ring) : (s.modRing n f).searches = s.searches := rfl
@[simp] theorem State.modRing_contexts (s : State) (n : Nat) (f : Ring → Ring) : (s.modRing n f).contexts = s.contexts := rfl
@[simp] theorem State.modRing_pages (s : State) (n : Nat) (f : Ring → Ring) : (s.modRing n f).pages = s.pages := rfl
@[simp] theorem State.modRing_devDraws (s : State) (n : Nat) (f : Ring → Ring) : (s.modRing n f).devDraws = s.devDraws := rfl
@[simp] theorem State.modRing_devQueues (s : State) (n : Nat) (f : Ring → Ring) : (s.modRing n f).devQueues = s.devQueues := rfl
@[simp] theorem State.modRing_ports (s : State) (n : Nat) (f : Ring → Ring) : (s.modRing n f).ports = s.ports := rfl
@[simp] theorem State.modRing_tally (s : State) (n : Nat) (f : Ring → Ring) : (s.modRing n f).tally = s.tally := rfl
@[simp] theorem State.modRing_rowsUsed (s : State) (n : Nat) (f : Ring → Ring) : (s.modRing n f).rowsUsed = s.rowsUsed := rfl
@[simp] theorem State.modRing_retired (s : State) (n : Nat) (f : Ring → Ring) : (s.modRing n f).retired = s.retired := rfl
@[simp] theorem State.modRing_stamped (s : State) (n : Nat) (f : Ring → Ring) : (s.modRing n f).stamped = s.stamped := rfl
@[simp] theorem State.modRing_wards (s : State) (n : Nat) (f : Ring → Ring) : (s.modRing n f).wards = s.wards := rfl
@[simp] theorem State.modRing_d2dDown (s : State) (n : Nat) (f : Ring → Ring) : (s.modRing n f).d2dDown = s.d2dDown := rfl
@[simp] theorem State.modRing_intake (s : State) (n : Nat) (f : Ring → Ring) : (s.modRing n f).intake = s.intake := rfl
@[simp] theorem State.modRing_power (s : State) (n : Nat) (f : Ring → Ring) : (s.modRing n f).power = s.power := rfl
@[simp] theorem State.modRing_trust (s : State) (n : Nat) (f : Ring → Ring) : (s.modRing n f).trust = s.trust := rfl
@[simp] theorem State.modRing_out (s : State) (n : Nat) (f : Ring → Ring) : (s.modRing n f).out = s.out := rfl
@[simp] theorem State.modRing_freeCtr (s : State) (n : Nat) (f : Ring → Ring) : (s.modRing n f).freeCtr = s.freeCtr := rfl
@[simp] theorem State.modRing_pending (s : State) (n : Nat) (f : Ring → Ring) : (s.modRing n f).pending = s.pending := rfl

@[simp] theorem State.modPool_fitted (s : State) (p q : Nat) (f : Pool → Pool) : (s.modPool p q f).fitted = s.fitted := rfl
@[simp] theorem State.modPool_regs (s : State) (p q : Nat) (f : Pool → Pool) : (s.modPool p q f).regs = s.regs := rfl
@[simp] theorem State.modPool_counters (s : State) (p q : Nat) (f : Pool → Pool) : (s.modPool p q f).counters = s.counters := rfl
@[simp] theorem State.modPool_coarse (s : State) (p q : Nat) (f : Pool → Pool) : (s.modPool p q f).coarse = s.coarse := rfl
@[simp] theorem State.modPool_latch (s : State) (p q : Nat) (f : Pool → Pool) : (s.modPool p q f).latch = s.latch := rfl
@[simp] theorem State.modPool_held (s : State) (p q : Nat) (f : Pool → Pool) : (s.modPool p q f).held = s.held := rfl
@[simp] theorem State.modPool_time (s : State) (p q : Nat) (f : Pool → Pool) : (s.modPool p q f).time = s.time := rfl
@[simp] theorem State.modPool_seq (s : State) (p q : Nat) (f : Pool → Pool) : (s.modPool p q f).seq = s.seq := rfl
@[simp] theorem State.modPool_seqReported (s : State) (p q : Nat) (f : Pool → Pool) : (s.modPool p q f).seqReported = s.seqReported := rfl
@[simp] theorem State.modPool_events (s : State) (p q : Nat) (f : Pool → Pool) : (s.modPool p q f).events = s.events := rfl
@[simp] theorem State.modPool_mem (s : State) (p q : Nat) (f : Pool → Pool) : (s.modPool p q f).mem = s.mem := rfl
@[simp] theorem State.modPool_staging (s : State) (p q : Nat) (f : Pool → Pool) : (s.modPool p q f).staging = s.staging := rfl
@[simp] theorem State.modPool_neg (s : State) (p q : Nat) (f : Pool → Pool) : (s.modPool p q f).neg = s.neg := rfl
@[simp] theorem State.modPool_tags (s : State) (p q : Nat) (f : Pool → Pool) : (s.modPool p q f).tags = s.tags := rfl
@[simp] theorem State.modPool_negTags (s : State) (p q : Nat) (f : Pool → Pool) : (s.modPool p q f).negTags = s.negTags := rfl
@[simp] theorem State.modPool_rings (s : State) (p q : Nat) (f : Pool → Pool) : (s.modPool p q f).rings = s.rings := rfl
@[simp] theorem State.modPool_plans (s : State) (p q : Nat) (f : Pool → Pool) : (s.modPool p q f).plans = s.plans := rfl
@[simp] theorem State.modPool_parts (s : State) (p q : Nat) (f : Pool → Pool) : (s.modPool p q f).parts = s.parts := rfl
@[simp] theorem State.modPool_cores (s : State) (p q : Nat) (f : Pool → Pool) : (s.modPool p q f).cores = s.cores := rfl
@[simp] theorem State.modPool_tokens (s : State) (p q : Nat) (f : Pool → Pool) : (s.modPool p q f).tokens = s.tokens := rfl
@[simp] theorem State.modPool_credits (s : State) (p q : Nat) (f : Pool → Pool) : (s.modPool p q f).credits = s.credits := rfl
@[simp] theorem State.modPool_layers (s : State) (p q : Nat) (f : Pool → Pool) : (s.modPool p q f).layers = s.layers := rfl
@[simp] theorem State.modPool_shapes (s : State) (p q : Nat) (f : Pool → Pool) : (s.modPool p q f).shapes = s.shapes := rfl
@[simp] theorem State.modPool_searches (s : State) (p q : Nat) (f : Pool → Pool) : (s.modPool p q f).searches = s.searches := rfl
@[simp] theorem State.modPool_contexts (s : State) (p q : Nat) (f : Pool → Pool) : (s.modPool p q f).contexts = s.contexts := rfl
@[simp] theorem State.modPool_pages (s : State) (p q : Nat) (f : Pool → Pool) : (s.modPool p q f).pages = s.pages := rfl
@[simp] theorem State.modPool_devDraws (s : State) (p q : Nat) (f : Pool → Pool) : (s.modPool p q f).devDraws = s.devDraws := rfl
@[simp] theorem State.modPool_devQueues (s : State) (p q : Nat) (f : Pool → Pool) : (s.modPool p q f).devQueues = s.devQueues := rfl
@[simp] theorem State.modPool_ports (s : State) (p q : Nat) (f : Pool → Pool) : (s.modPool p q f).ports = s.ports := rfl
@[simp] theorem State.modPool_tally (s : State) (p q : Nat) (f : Pool → Pool) : (s.modPool p q f).tally = s.tally := rfl
@[simp] theorem State.modPool_rowsUsed (s : State) (p q : Nat) (f : Pool → Pool) : (s.modPool p q f).rowsUsed = s.rowsUsed := rfl
@[simp] theorem State.modPool_retired (s : State) (p q : Nat) (f : Pool → Pool) : (s.modPool p q f).retired = s.retired := rfl
@[simp] theorem State.modPool_stamped (s : State) (p q : Nat) (f : Pool → Pool) : (s.modPool p q f).stamped = s.stamped := rfl
@[simp] theorem State.modPool_wards (s : State) (p q : Nat) (f : Pool → Pool) : (s.modPool p q f).wards = s.wards := rfl
@[simp] theorem State.modPool_d2dDown (s : State) (p q : Nat) (f : Pool → Pool) : (s.modPool p q f).d2dDown = s.d2dDown := rfl
@[simp] theorem State.modPool_intake (s : State) (p q : Nat) (f : Pool → Pool) : (s.modPool p q f).intake = s.intake := rfl
@[simp] theorem State.modPool_power (s : State) (p q : Nat) (f : Pool → Pool) : (s.modPool p q f).power = s.power := rfl
@[simp] theorem State.modPool_trust (s : State) (p q : Nat) (f : Pool → Pool) : (s.modPool p q f).trust = s.trust := rfl
@[simp] theorem State.modPool_out (s : State) (p q : Nat) (f : Pool → Pool) : (s.modPool p q f).out = s.out := rfl
@[simp] theorem State.modPool_freeCtr (s : State) (p q : Nat) (f : Pool → Pool) : (s.modPool p q f).freeCtr = s.freeCtr := rfl
@[simp] theorem State.modPool_pending (s : State) (p q : Nat) (f : Pool → Pool) : (s.modPool p q f).pending = s.pending := rfl

@[simp] theorem State.modSlot_fitted (s : State) (p q i : Nat) (f : Slot → Slot) : (s.modSlot p q i f).fitted = s.fitted := rfl
@[simp] theorem State.modSlot_regs (s : State) (p q i : Nat) (f : Slot → Slot) : (s.modSlot p q i f).regs = s.regs := rfl
@[simp] theorem State.modSlot_counters (s : State) (p q i : Nat) (f : Slot → Slot) : (s.modSlot p q i f).counters = s.counters := rfl
@[simp] theorem State.modSlot_coarse (s : State) (p q i : Nat) (f : Slot → Slot) : (s.modSlot p q i f).coarse = s.coarse := rfl
@[simp] theorem State.modSlot_latch (s : State) (p q i : Nat) (f : Slot → Slot) : (s.modSlot p q i f).latch = s.latch := rfl
@[simp] theorem State.modSlot_held (s : State) (p q i : Nat) (f : Slot → Slot) : (s.modSlot p q i f).held = s.held := rfl
@[simp] theorem State.modSlot_time (s : State) (p q i : Nat) (f : Slot → Slot) : (s.modSlot p q i f).time = s.time := rfl
@[simp] theorem State.modSlot_seq (s : State) (p q i : Nat) (f : Slot → Slot) : (s.modSlot p q i f).seq = s.seq := rfl
@[simp] theorem State.modSlot_seqReported (s : State) (p q i : Nat) (f : Slot → Slot) : (s.modSlot p q i f).seqReported = s.seqReported := rfl
@[simp] theorem State.modSlot_events (s : State) (p q i : Nat) (f : Slot → Slot) : (s.modSlot p q i f).events = s.events := rfl
@[simp] theorem State.modSlot_mem (s : State) (p q i : Nat) (f : Slot → Slot) : (s.modSlot p q i f).mem = s.mem := rfl
@[simp] theorem State.modSlot_staging (s : State) (p q i : Nat) (f : Slot → Slot) : (s.modSlot p q i f).staging = s.staging := rfl
@[simp] theorem State.modSlot_neg (s : State) (p q i : Nat) (f : Slot → Slot) : (s.modSlot p q i f).neg = s.neg := rfl
@[simp] theorem State.modSlot_tags (s : State) (p q i : Nat) (f : Slot → Slot) : (s.modSlot p q i f).tags = s.tags := rfl
@[simp] theorem State.modSlot_negTags (s : State) (p q i : Nat) (f : Slot → Slot) : (s.modSlot p q i f).negTags = s.negTags := rfl
@[simp] theorem State.modSlot_rings (s : State) (p q i : Nat) (f : Slot → Slot) : (s.modSlot p q i f).rings = s.rings := rfl
@[simp] theorem State.modSlot_plans (s : State) (p q i : Nat) (f : Slot → Slot) : (s.modSlot p q i f).plans = s.plans := rfl
@[simp] theorem State.modSlot_parts (s : State) (p q i : Nat) (f : Slot → Slot) : (s.modSlot p q i f).parts = s.parts := rfl
@[simp] theorem State.modSlot_cores (s : State) (p q i : Nat) (f : Slot → Slot) : (s.modSlot p q i f).cores = s.cores := rfl
@[simp] theorem State.modSlot_tokens (s : State) (p q i : Nat) (f : Slot → Slot) : (s.modSlot p q i f).tokens = s.tokens := rfl
@[simp] theorem State.modSlot_credits (s : State) (p q i : Nat) (f : Slot → Slot) : (s.modSlot p q i f).credits = s.credits := rfl
@[simp] theorem State.modSlot_layers (s : State) (p q i : Nat) (f : Slot → Slot) : (s.modSlot p q i f).layers = s.layers := rfl
@[simp] theorem State.modSlot_shapes (s : State) (p q i : Nat) (f : Slot → Slot) : (s.modSlot p q i f).shapes = s.shapes := rfl
@[simp] theorem State.modSlot_searches (s : State) (p q i : Nat) (f : Slot → Slot) : (s.modSlot p q i f).searches = s.searches := rfl
@[simp] theorem State.modSlot_contexts (s : State) (p q i : Nat) (f : Slot → Slot) : (s.modSlot p q i f).contexts = s.contexts := rfl
@[simp] theorem State.modSlot_pages (s : State) (p q i : Nat) (f : Slot → Slot) : (s.modSlot p q i f).pages = s.pages := rfl
@[simp] theorem State.modSlot_devDraws (s : State) (p q i : Nat) (f : Slot → Slot) : (s.modSlot p q i f).devDraws = s.devDraws := rfl
@[simp] theorem State.modSlot_devQueues (s : State) (p q i : Nat) (f : Slot → Slot) : (s.modSlot p q i f).devQueues = s.devQueues := rfl
@[simp] theorem State.modSlot_ports (s : State) (p q i : Nat) (f : Slot → Slot) : (s.modSlot p q i f).ports = s.ports := rfl
@[simp] theorem State.modSlot_tally (s : State) (p q i : Nat) (f : Slot → Slot) : (s.modSlot p q i f).tally = s.tally := rfl
@[simp] theorem State.modSlot_rowsUsed (s : State) (p q i : Nat) (f : Slot → Slot) : (s.modSlot p q i f).rowsUsed = s.rowsUsed := rfl
@[simp] theorem State.modSlot_retired (s : State) (p q i : Nat) (f : Slot → Slot) : (s.modSlot p q i f).retired = s.retired := rfl
@[simp] theorem State.modSlot_stamped (s : State) (p q i : Nat) (f : Slot → Slot) : (s.modSlot p q i f).stamped = s.stamped := rfl
@[simp] theorem State.modSlot_wards (s : State) (p q i : Nat) (f : Slot → Slot) : (s.modSlot p q i f).wards = s.wards := rfl
@[simp] theorem State.modSlot_d2dDown (s : State) (p q i : Nat) (f : Slot → Slot) : (s.modSlot p q i f).d2dDown = s.d2dDown := rfl
@[simp] theorem State.modSlot_intake (s : State) (p q i : Nat) (f : Slot → Slot) : (s.modSlot p q i f).intake = s.intake := rfl
@[simp] theorem State.modSlot_power (s : State) (p q i : Nat) (f : Slot → Slot) : (s.modSlot p q i f).power = s.power := rfl
@[simp] theorem State.modSlot_trust (s : State) (p q i : Nat) (f : Slot → Slot) : (s.modSlot p q i f).trust = s.trust := rfl
@[simp] theorem State.modSlot_out (s : State) (p q i : Nat) (f : Slot → Slot) : (s.modSlot p q i f).out = s.out := rfl
@[simp] theorem State.modSlot_freeCtr (s : State) (p q i : Nat) (f : Slot → Slot) : (s.modSlot p q i f).freeCtr = s.freeCtr := rfl
@[simp] theorem State.modSlot_pending (s : State) (p q i : Nat) (f : Slot → Slot) : (s.modSlot p q i f).pending = s.pending := rfl

@[simp] theorem State.modCore_fitted (s : State) (c : Nat) (f : Core → Core) : (s.modCore c f).fitted = s.fitted := rfl
@[simp] theorem State.modCore_regs (s : State) (c : Nat) (f : Core → Core) : (s.modCore c f).regs = s.regs := rfl
@[simp] theorem State.modCore_counters (s : State) (c : Nat) (f : Core → Core) : (s.modCore c f).counters = s.counters := rfl
@[simp] theorem State.modCore_coarse (s : State) (c : Nat) (f : Core → Core) : (s.modCore c f).coarse = s.coarse := rfl
@[simp] theorem State.modCore_latch (s : State) (c : Nat) (f : Core → Core) : (s.modCore c f).latch = s.latch := rfl
@[simp] theorem State.modCore_held (s : State) (c : Nat) (f : Core → Core) : (s.modCore c f).held = s.held := rfl
@[simp] theorem State.modCore_time (s : State) (c : Nat) (f : Core → Core) : (s.modCore c f).time = s.time := rfl
@[simp] theorem State.modCore_seq (s : State) (c : Nat) (f : Core → Core) : (s.modCore c f).seq = s.seq := rfl
@[simp] theorem State.modCore_seqReported (s : State) (c : Nat) (f : Core → Core) : (s.modCore c f).seqReported = s.seqReported := rfl
@[simp] theorem State.modCore_events (s : State) (c : Nat) (f : Core → Core) : (s.modCore c f).events = s.events := rfl
@[simp] theorem State.modCore_mem (s : State) (c : Nat) (f : Core → Core) : (s.modCore c f).mem = s.mem := rfl
@[simp] theorem State.modCore_staging (s : State) (c : Nat) (f : Core → Core) : (s.modCore c f).staging = s.staging := rfl
@[simp] theorem State.modCore_neg (s : State) (c : Nat) (f : Core → Core) : (s.modCore c f).neg = s.neg := rfl
@[simp] theorem State.modCore_tags (s : State) (c : Nat) (f : Core → Core) : (s.modCore c f).tags = s.tags := rfl
@[simp] theorem State.modCore_negTags (s : State) (c : Nat) (f : Core → Core) : (s.modCore c f).negTags = s.negTags := rfl
@[simp] theorem State.modCore_rings (s : State) (c : Nat) (f : Core → Core) : (s.modCore c f).rings = s.rings := rfl
@[simp] theorem State.modCore_pools (s : State) (c : Nat) (f : Core → Core) : (s.modCore c f).pools = s.pools := rfl
@[simp] theorem State.modCore_plans (s : State) (c : Nat) (f : Core → Core) : (s.modCore c f).plans = s.plans := rfl
@[simp] theorem State.modCore_parts (s : State) (c : Nat) (f : Core → Core) : (s.modCore c f).parts = s.parts := rfl
@[simp] theorem State.modCore_tokens (s : State) (c : Nat) (f : Core → Core) : (s.modCore c f).tokens = s.tokens := rfl
@[simp] theorem State.modCore_credits (s : State) (c : Nat) (f : Core → Core) : (s.modCore c f).credits = s.credits := rfl
@[simp] theorem State.modCore_layers (s : State) (c : Nat) (f : Core → Core) : (s.modCore c f).layers = s.layers := rfl
@[simp] theorem State.modCore_shapes (s : State) (c : Nat) (f : Core → Core) : (s.modCore c f).shapes = s.shapes := rfl
@[simp] theorem State.modCore_searches (s : State) (c : Nat) (f : Core → Core) : (s.modCore c f).searches = s.searches := rfl
@[simp] theorem State.modCore_contexts (s : State) (c : Nat) (f : Core → Core) : (s.modCore c f).contexts = s.contexts := rfl
@[simp] theorem State.modCore_pages (s : State) (c : Nat) (f : Core → Core) : (s.modCore c f).pages = s.pages := rfl
@[simp] theorem State.modCore_devDraws (s : State) (c : Nat) (f : Core → Core) : (s.modCore c f).devDraws = s.devDraws := rfl
@[simp] theorem State.modCore_devQueues (s : State) (c : Nat) (f : Core → Core) : (s.modCore c f).devQueues = s.devQueues := rfl
@[simp] theorem State.modCore_ports (s : State) (c : Nat) (f : Core → Core) : (s.modCore c f).ports = s.ports := rfl
@[simp] theorem State.modCore_tally (s : State) (c : Nat) (f : Core → Core) : (s.modCore c f).tally = s.tally := rfl
@[simp] theorem State.modCore_rowsUsed (s : State) (c : Nat) (f : Core → Core) : (s.modCore c f).rowsUsed = s.rowsUsed := rfl
@[simp] theorem State.modCore_retired (s : State) (c : Nat) (f : Core → Core) : (s.modCore c f).retired = s.retired := rfl
@[simp] theorem State.modCore_stamped (s : State) (c : Nat) (f : Core → Core) : (s.modCore c f).stamped = s.stamped := rfl
@[simp] theorem State.modCore_wards (s : State) (c : Nat) (f : Core → Core) : (s.modCore c f).wards = s.wards := rfl
@[simp] theorem State.modCore_d2dDown (s : State) (c : Nat) (f : Core → Core) : (s.modCore c f).d2dDown = s.d2dDown := rfl
@[simp] theorem State.modCore_intake (s : State) (c : Nat) (f : Core → Core) : (s.modCore c f).intake = s.intake := rfl
@[simp] theorem State.modCore_power (s : State) (c : Nat) (f : Core → Core) : (s.modCore c f).power = s.power := rfl
@[simp] theorem State.modCore_trust (s : State) (c : Nat) (f : Core → Core) : (s.modCore c f).trust = s.trust := rfl
@[simp] theorem State.modCore_out (s : State) (c : Nat) (f : Core → Core) : (s.modCore c f).out = s.out := rfl
@[simp] theorem State.modCore_freeCtr (s : State) (c : Nat) (f : Core → Core) : (s.modCore c f).freeCtr = s.freeCtr := rfl
@[simp] theorem State.modCore_pending (s : State) (c : Nat) (f : Core → Core) : (s.modCore c f).pending = s.pending := rfl

@[simp] theorem State.modPort_fitted (s : State) (n : Nat) (f : Port → Port) : (s.modPort n f).fitted = s.fitted := rfl
@[simp] theorem State.modPort_regs (s : State) (n : Nat) (f : Port → Port) : (s.modPort n f).regs = s.regs := rfl
@[simp] theorem State.modPort_counters (s : State) (n : Nat) (f : Port → Port) : (s.modPort n f).counters = s.counters := rfl
@[simp] theorem State.modPort_coarse (s : State) (n : Nat) (f : Port → Port) : (s.modPort n f).coarse = s.coarse := rfl
@[simp] theorem State.modPort_latch (s : State) (n : Nat) (f : Port → Port) : (s.modPort n f).latch = s.latch := rfl
@[simp] theorem State.modPort_held (s : State) (n : Nat) (f : Port → Port) : (s.modPort n f).held = s.held := rfl
@[simp] theorem State.modPort_time (s : State) (n : Nat) (f : Port → Port) : (s.modPort n f).time = s.time := rfl
@[simp] theorem State.modPort_seq (s : State) (n : Nat) (f : Port → Port) : (s.modPort n f).seq = s.seq := rfl
@[simp] theorem State.modPort_seqReported (s : State) (n : Nat) (f : Port → Port) : (s.modPort n f).seqReported = s.seqReported := rfl
@[simp] theorem State.modPort_events (s : State) (n : Nat) (f : Port → Port) : (s.modPort n f).events = s.events := rfl
@[simp] theorem State.modPort_mem (s : State) (n : Nat) (f : Port → Port) : (s.modPort n f).mem = s.mem := rfl
@[simp] theorem State.modPort_staging (s : State) (n : Nat) (f : Port → Port) : (s.modPort n f).staging = s.staging := rfl
@[simp] theorem State.modPort_neg (s : State) (n : Nat) (f : Port → Port) : (s.modPort n f).neg = s.neg := rfl
@[simp] theorem State.modPort_tags (s : State) (n : Nat) (f : Port → Port) : (s.modPort n f).tags = s.tags := rfl
@[simp] theorem State.modPort_negTags (s : State) (n : Nat) (f : Port → Port) : (s.modPort n f).negTags = s.negTags := rfl
@[simp] theorem State.modPort_rings (s : State) (n : Nat) (f : Port → Port) : (s.modPort n f).rings = s.rings := rfl
@[simp] theorem State.modPort_pools (s : State) (n : Nat) (f : Port → Port) : (s.modPort n f).pools = s.pools := rfl
@[simp] theorem State.modPort_plans (s : State) (n : Nat) (f : Port → Port) : (s.modPort n f).plans = s.plans := rfl
@[simp] theorem State.modPort_parts (s : State) (n : Nat) (f : Port → Port) : (s.modPort n f).parts = s.parts := rfl
@[simp] theorem State.modPort_cores (s : State) (n : Nat) (f : Port → Port) : (s.modPort n f).cores = s.cores := rfl
@[simp] theorem State.modPort_tokens (s : State) (n : Nat) (f : Port → Port) : (s.modPort n f).tokens = s.tokens := rfl
@[simp] theorem State.modPort_credits (s : State) (n : Nat) (f : Port → Port) : (s.modPort n f).credits = s.credits := rfl
@[simp] theorem State.modPort_layers (s : State) (n : Nat) (f : Port → Port) : (s.modPort n f).layers = s.layers := rfl
@[simp] theorem State.modPort_shapes (s : State) (n : Nat) (f : Port → Port) : (s.modPort n f).shapes = s.shapes := rfl
@[simp] theorem State.modPort_searches (s : State) (n : Nat) (f : Port → Port) : (s.modPort n f).searches = s.searches := rfl
@[simp] theorem State.modPort_contexts (s : State) (n : Nat) (f : Port → Port) : (s.modPort n f).contexts = s.contexts := rfl
@[simp] theorem State.modPort_pages (s : State) (n : Nat) (f : Port → Port) : (s.modPort n f).pages = s.pages := rfl
@[simp] theorem State.modPort_devDraws (s : State) (n : Nat) (f : Port → Port) : (s.modPort n f).devDraws = s.devDraws := rfl
@[simp] theorem State.modPort_devQueues (s : State) (n : Nat) (f : Port → Port) : (s.modPort n f).devQueues = s.devQueues := rfl
@[simp] theorem State.modPort_tally (s : State) (n : Nat) (f : Port → Port) : (s.modPort n f).tally = s.tally := rfl
@[simp] theorem State.modPort_rowsUsed (s : State) (n : Nat) (f : Port → Port) : (s.modPort n f).rowsUsed = s.rowsUsed := rfl
@[simp] theorem State.modPort_retired (s : State) (n : Nat) (f : Port → Port) : (s.modPort n f).retired = s.retired := rfl
@[simp] theorem State.modPort_stamped (s : State) (n : Nat) (f : Port → Port) : (s.modPort n f).stamped = s.stamped := rfl
@[simp] theorem State.modPort_wards (s : State) (n : Nat) (f : Port → Port) : (s.modPort n f).wards = s.wards := rfl
@[simp] theorem State.modPort_d2dDown (s : State) (n : Nat) (f : Port → Port) : (s.modPort n f).d2dDown = s.d2dDown := rfl
@[simp] theorem State.modPort_intake (s : State) (n : Nat) (f : Port → Port) : (s.modPort n f).intake = s.intake := rfl
@[simp] theorem State.modPort_power (s : State) (n : Nat) (f : Port → Port) : (s.modPort n f).power = s.power := rfl
@[simp] theorem State.modPort_trust (s : State) (n : Nat) (f : Port → Port) : (s.modPort n f).trust = s.trust := rfl
@[simp] theorem State.modPort_out (s : State) (n : Nat) (f : Port → Port) : (s.modPort n f).out = s.out := rfl
@[simp] theorem State.modPort_freeCtr (s : State) (n : Nat) (f : Port → Port) : (s.modPort n f).freeCtr = s.freeCtr := rfl
@[simp] theorem State.modPort_pending (s : State) (n : Nat) (f : Port → Port) : (s.modPort n f).pending = s.pending := rfl

@[simp] theorem State.modFixer_fitted (s : State) (p : Nat) (f : Fixer → Fixer) : (s.modFixer p f).fitted = s.fitted := rfl
@[simp] theorem State.modFixer_regs (s : State) (p : Nat) (f : Fixer → Fixer) : (s.modFixer p f).regs = s.regs := rfl
@[simp] theorem State.modFixer_counters (s : State) (p : Nat) (f : Fixer → Fixer) : (s.modFixer p f).counters = s.counters := rfl
@[simp] theorem State.modFixer_coarse (s : State) (p : Nat) (f : Fixer → Fixer) : (s.modFixer p f).coarse = s.coarse := rfl
@[simp] theorem State.modFixer_latch (s : State) (p : Nat) (f : Fixer → Fixer) : (s.modFixer p f).latch = s.latch := rfl
@[simp] theorem State.modFixer_held (s : State) (p : Nat) (f : Fixer → Fixer) : (s.modFixer p f).held = s.held := rfl
@[simp] theorem State.modFixer_time (s : State) (p : Nat) (f : Fixer → Fixer) : (s.modFixer p f).time = s.time := rfl
@[simp] theorem State.modFixer_seq (s : State) (p : Nat) (f : Fixer → Fixer) : (s.modFixer p f).seq = s.seq := rfl
@[simp] theorem State.modFixer_seqReported (s : State) (p : Nat) (f : Fixer → Fixer) : (s.modFixer p f).seqReported = s.seqReported := rfl
@[simp] theorem State.modFixer_events (s : State) (p : Nat) (f : Fixer → Fixer) : (s.modFixer p f).events = s.events := rfl
@[simp] theorem State.modFixer_mem (s : State) (p : Nat) (f : Fixer → Fixer) : (s.modFixer p f).mem = s.mem := rfl
@[simp] theorem State.modFixer_staging (s : State) (p : Nat) (f : Fixer → Fixer) : (s.modFixer p f).staging = s.staging := rfl
@[simp] theorem State.modFixer_neg (s : State) (p : Nat) (f : Fixer → Fixer) : (s.modFixer p f).neg = s.neg := rfl
@[simp] theorem State.modFixer_tags (s : State) (p : Nat) (f : Fixer → Fixer) : (s.modFixer p f).tags = s.tags := rfl
@[simp] theorem State.modFixer_negTags (s : State) (p : Nat) (f : Fixer → Fixer) : (s.modFixer p f).negTags = s.negTags := rfl
@[simp] theorem State.modFixer_rings (s : State) (p : Nat) (f : Fixer → Fixer) : (s.modFixer p f).rings = s.rings := rfl
@[simp] theorem State.modFixer_pools (s : State) (p : Nat) (f : Fixer → Fixer) : (s.modFixer p f).pools = s.pools := rfl
@[simp] theorem State.modFixer_plans (s : State) (p : Nat) (f : Fixer → Fixer) : (s.modFixer p f).plans = s.plans := rfl
@[simp] theorem State.modFixer_cores (s : State) (p : Nat) (f : Fixer → Fixer) : (s.modFixer p f).cores = s.cores := rfl
@[simp] theorem State.modFixer_tokens (s : State) (p : Nat) (f : Fixer → Fixer) : (s.modFixer p f).tokens = s.tokens := rfl
@[simp] theorem State.modFixer_credits (s : State) (p : Nat) (f : Fixer → Fixer) : (s.modFixer p f).credits = s.credits := rfl
@[simp] theorem State.modFixer_layers (s : State) (p : Nat) (f : Fixer → Fixer) : (s.modFixer p f).layers = s.layers := rfl
@[simp] theorem State.modFixer_shapes (s : State) (p : Nat) (f : Fixer → Fixer) : (s.modFixer p f).shapes = s.shapes := rfl
@[simp] theorem State.modFixer_searches (s : State) (p : Nat) (f : Fixer → Fixer) : (s.modFixer p f).searches = s.searches := rfl
@[simp] theorem State.modFixer_contexts (s : State) (p : Nat) (f : Fixer → Fixer) : (s.modFixer p f).contexts = s.contexts := rfl
@[simp] theorem State.modFixer_pages (s : State) (p : Nat) (f : Fixer → Fixer) : (s.modFixer p f).pages = s.pages := rfl
@[simp] theorem State.modFixer_devDraws (s : State) (p : Nat) (f : Fixer → Fixer) : (s.modFixer p f).devDraws = s.devDraws := rfl
@[simp] theorem State.modFixer_devQueues (s : State) (p : Nat) (f : Fixer → Fixer) : (s.modFixer p f).devQueues = s.devQueues := rfl
@[simp] theorem State.modFixer_ports (s : State) (p : Nat) (f : Fixer → Fixer) : (s.modFixer p f).ports = s.ports := rfl
@[simp] theorem State.modFixer_tally (s : State) (p : Nat) (f : Fixer → Fixer) : (s.modFixer p f).tally = s.tally := rfl
@[simp] theorem State.modFixer_rowsUsed (s : State) (p : Nat) (f : Fixer → Fixer) : (s.modFixer p f).rowsUsed = s.rowsUsed := rfl
@[simp] theorem State.modFixer_retired (s : State) (p : Nat) (f : Fixer → Fixer) : (s.modFixer p f).retired = s.retired := rfl
@[simp] theorem State.modFixer_stamped (s : State) (p : Nat) (f : Fixer → Fixer) : (s.modFixer p f).stamped = s.stamped := rfl
@[simp] theorem State.modFixer_wards (s : State) (p : Nat) (f : Fixer → Fixer) : (s.modFixer p f).wards = s.wards := rfl
@[simp] theorem State.modFixer_d2dDown (s : State) (p : Nat) (f : Fixer → Fixer) : (s.modFixer p f).d2dDown = s.d2dDown := rfl
@[simp] theorem State.modFixer_intake (s : State) (p : Nat) (f : Fixer → Fixer) : (s.modFixer p f).intake = s.intake := rfl
@[simp] theorem State.modFixer_power (s : State) (p : Nat) (f : Fixer → Fixer) : (s.modFixer p f).power = s.power := rfl
@[simp] theorem State.modFixer_trust (s : State) (p : Nat) (f : Fixer → Fixer) : (s.modFixer p f).trust = s.trust := rfl
@[simp] theorem State.modFixer_out (s : State) (p : Nat) (f : Fixer → Fixer) : (s.modFixer p f).out = s.out := rfl
@[simp] theorem State.modFixer_freeCtr (s : State) (p : Nat) (f : Fixer → Fixer) : (s.modFixer p f).freeCtr = s.freeCtr := rfl
@[simp] theorem State.modFixer_pending (s : State) (p : Nat) (f : Fixer → Fixer) : (s.modFixer p f).pending = s.pending := rfl

@[simp] theorem State.modPower_fitted (s : State) (f : Power → Power) : (s.modPower f).fitted = s.fitted := rfl
@[simp] theorem State.modPower_regs (s : State) (f : Power → Power) : (s.modPower f).regs = s.regs := rfl
@[simp] theorem State.modPower_counters (s : State) (f : Power → Power) : (s.modPower f).counters = s.counters := rfl
@[simp] theorem State.modPower_coarse (s : State) (f : Power → Power) : (s.modPower f).coarse = s.coarse := rfl
@[simp] theorem State.modPower_latch (s : State) (f : Power → Power) : (s.modPower f).latch = s.latch := rfl
@[simp] theorem State.modPower_held (s : State) (f : Power → Power) : (s.modPower f).held = s.held := rfl
@[simp] theorem State.modPower_time (s : State) (f : Power → Power) : (s.modPower f).time = s.time := rfl
@[simp] theorem State.modPower_seq (s : State) (f : Power → Power) : (s.modPower f).seq = s.seq := rfl
@[simp] theorem State.modPower_seqReported (s : State) (f : Power → Power) : (s.modPower f).seqReported = s.seqReported := rfl
@[simp] theorem State.modPower_events (s : State) (f : Power → Power) : (s.modPower f).events = s.events := rfl
@[simp] theorem State.modPower_mem (s : State) (f : Power → Power) : (s.modPower f).mem = s.mem := rfl
@[simp] theorem State.modPower_staging (s : State) (f : Power → Power) : (s.modPower f).staging = s.staging := rfl
@[simp] theorem State.modPower_neg (s : State) (f : Power → Power) : (s.modPower f).neg = s.neg := rfl
@[simp] theorem State.modPower_tags (s : State) (f : Power → Power) : (s.modPower f).tags = s.tags := rfl
@[simp] theorem State.modPower_negTags (s : State) (f : Power → Power) : (s.modPower f).negTags = s.negTags := rfl
@[simp] theorem State.modPower_rings (s : State) (f : Power → Power) : (s.modPower f).rings = s.rings := rfl
@[simp] theorem State.modPower_pools (s : State) (f : Power → Power) : (s.modPower f).pools = s.pools := rfl
@[simp] theorem State.modPower_plans (s : State) (f : Power → Power) : (s.modPower f).plans = s.plans := rfl
@[simp] theorem State.modPower_parts (s : State) (f : Power → Power) : (s.modPower f).parts = s.parts := rfl
@[simp] theorem State.modPower_cores (s : State) (f : Power → Power) : (s.modPower f).cores = s.cores := rfl
@[simp] theorem State.modPower_tokens (s : State) (f : Power → Power) : (s.modPower f).tokens = s.tokens := rfl
@[simp] theorem State.modPower_credits (s : State) (f : Power → Power) : (s.modPower f).credits = s.credits := rfl
@[simp] theorem State.modPower_layers (s : State) (f : Power → Power) : (s.modPower f).layers = s.layers := rfl
@[simp] theorem State.modPower_shapes (s : State) (f : Power → Power) : (s.modPower f).shapes = s.shapes := rfl
@[simp] theorem State.modPower_searches (s : State) (f : Power → Power) : (s.modPower f).searches = s.searches := rfl
@[simp] theorem State.modPower_contexts (s : State) (f : Power → Power) : (s.modPower f).contexts = s.contexts := rfl
@[simp] theorem State.modPower_pages (s : State) (f : Power → Power) : (s.modPower f).pages = s.pages := rfl
@[simp] theorem State.modPower_devDraws (s : State) (f : Power → Power) : (s.modPower f).devDraws = s.devDraws := rfl
@[simp] theorem State.modPower_devQueues (s : State) (f : Power → Power) : (s.modPower f).devQueues = s.devQueues := rfl
@[simp] theorem State.modPower_ports (s : State) (f : Power → Power) : (s.modPower f).ports = s.ports := rfl
@[simp] theorem State.modPower_tally (s : State) (f : Power → Power) : (s.modPower f).tally = s.tally := rfl
@[simp] theorem State.modPower_rowsUsed (s : State) (f : Power → Power) : (s.modPower f).rowsUsed = s.rowsUsed := rfl
@[simp] theorem State.modPower_retired (s : State) (f : Power → Power) : (s.modPower f).retired = s.retired := rfl
@[simp] theorem State.modPower_stamped (s : State) (f : Power → Power) : (s.modPower f).stamped = s.stamped := rfl
@[simp] theorem State.modPower_wards (s : State) (f : Power → Power) : (s.modPower f).wards = s.wards := rfl
@[simp] theorem State.modPower_d2dDown (s : State) (f : Power → Power) : (s.modPower f).d2dDown = s.d2dDown := rfl
@[simp] theorem State.modPower_intake (s : State) (f : Power → Power) : (s.modPower f).intake = s.intake := rfl
@[simp] theorem State.modPower_trust (s : State) (f : Power → Power) : (s.modPower f).trust = s.trust := rfl
@[simp] theorem State.modPower_out (s : State) (f : Power → Power) : (s.modPower f).out = s.out := rfl
@[simp] theorem State.modPower_freeCtr (s : State) (f : Power → Power) : (s.modPower f).freeCtr = s.freeCtr := rfl
@[simp] theorem State.modPower_pending (s : State) (f : Power → Power) : (s.modPower f).pending = s.pending := rfl

@[simp] theorem State.modTrust_fitted (s : State) (f : Trust → Trust) : (s.modTrust f).fitted = s.fitted := rfl
@[simp] theorem State.modTrust_regs (s : State) (f : Trust → Trust) : (s.modTrust f).regs = s.regs := rfl
@[simp] theorem State.modTrust_counters (s : State) (f : Trust → Trust) : (s.modTrust f).counters = s.counters := rfl
@[simp] theorem State.modTrust_coarse (s : State) (f : Trust → Trust) : (s.modTrust f).coarse = s.coarse := rfl
@[simp] theorem State.modTrust_latch (s : State) (f : Trust → Trust) : (s.modTrust f).latch = s.latch := rfl
@[simp] theorem State.modTrust_held (s : State) (f : Trust → Trust) : (s.modTrust f).held = s.held := rfl
@[simp] theorem State.modTrust_time (s : State) (f : Trust → Trust) : (s.modTrust f).time = s.time := rfl
@[simp] theorem State.modTrust_seq (s : State) (f : Trust → Trust) : (s.modTrust f).seq = s.seq := rfl
@[simp] theorem State.modTrust_seqReported (s : State) (f : Trust → Trust) : (s.modTrust f).seqReported = s.seqReported := rfl
@[simp] theorem State.modTrust_events (s : State) (f : Trust → Trust) : (s.modTrust f).events = s.events := rfl
@[simp] theorem State.modTrust_mem (s : State) (f : Trust → Trust) : (s.modTrust f).mem = s.mem := rfl
@[simp] theorem State.modTrust_staging (s : State) (f : Trust → Trust) : (s.modTrust f).staging = s.staging := rfl
@[simp] theorem State.modTrust_neg (s : State) (f : Trust → Trust) : (s.modTrust f).neg = s.neg := rfl
@[simp] theorem State.modTrust_tags (s : State) (f : Trust → Trust) : (s.modTrust f).tags = s.tags := rfl
@[simp] theorem State.modTrust_negTags (s : State) (f : Trust → Trust) : (s.modTrust f).negTags = s.negTags := rfl
@[simp] theorem State.modTrust_rings (s : State) (f : Trust → Trust) : (s.modTrust f).rings = s.rings := rfl
@[simp] theorem State.modTrust_pools (s : State) (f : Trust → Trust) : (s.modTrust f).pools = s.pools := rfl
@[simp] theorem State.modTrust_plans (s : State) (f : Trust → Trust) : (s.modTrust f).plans = s.plans := rfl
@[simp] theorem State.modTrust_parts (s : State) (f : Trust → Trust) : (s.modTrust f).parts = s.parts := rfl
@[simp] theorem State.modTrust_cores (s : State) (f : Trust → Trust) : (s.modTrust f).cores = s.cores := rfl
@[simp] theorem State.modTrust_tokens (s : State) (f : Trust → Trust) : (s.modTrust f).tokens = s.tokens := rfl
@[simp] theorem State.modTrust_credits (s : State) (f : Trust → Trust) : (s.modTrust f).credits = s.credits := rfl
@[simp] theorem State.modTrust_layers (s : State) (f : Trust → Trust) : (s.modTrust f).layers = s.layers := rfl
@[simp] theorem State.modTrust_shapes (s : State) (f : Trust → Trust) : (s.modTrust f).shapes = s.shapes := rfl
@[simp] theorem State.modTrust_searches (s : State) (f : Trust → Trust) : (s.modTrust f).searches = s.searches := rfl
@[simp] theorem State.modTrust_contexts (s : State) (f : Trust → Trust) : (s.modTrust f).contexts = s.contexts := rfl
@[simp] theorem State.modTrust_pages (s : State) (f : Trust → Trust) : (s.modTrust f).pages = s.pages := rfl
@[simp] theorem State.modTrust_devDraws (s : State) (f : Trust → Trust) : (s.modTrust f).devDraws = s.devDraws := rfl
@[simp] theorem State.modTrust_devQueues (s : State) (f : Trust → Trust) : (s.modTrust f).devQueues = s.devQueues := rfl
@[simp] theorem State.modTrust_ports (s : State) (f : Trust → Trust) : (s.modTrust f).ports = s.ports := rfl
@[simp] theorem State.modTrust_tally (s : State) (f : Trust → Trust) : (s.modTrust f).tally = s.tally := rfl
@[simp] theorem State.modTrust_rowsUsed (s : State) (f : Trust → Trust) : (s.modTrust f).rowsUsed = s.rowsUsed := rfl
@[simp] theorem State.modTrust_retired (s : State) (f : Trust → Trust) : (s.modTrust f).retired = s.retired := rfl
@[simp] theorem State.modTrust_stamped (s : State) (f : Trust → Trust) : (s.modTrust f).stamped = s.stamped := rfl
@[simp] theorem State.modTrust_wards (s : State) (f : Trust → Trust) : (s.modTrust f).wards = s.wards := rfl
@[simp] theorem State.modTrust_d2dDown (s : State) (f : Trust → Trust) : (s.modTrust f).d2dDown = s.d2dDown := rfl
@[simp] theorem State.modTrust_intake (s : State) (f : Trust → Trust) : (s.modTrust f).intake = s.intake := rfl
@[simp] theorem State.modTrust_power (s : State) (f : Trust → Trust) : (s.modTrust f).power = s.power := rfl
@[simp] theorem State.modTrust_out (s : State) (f : Trust → Trust) : (s.modTrust f).out = s.out := rfl
@[simp] theorem State.modTrust_freeCtr (s : State) (f : Trust → Trust) : (s.modTrust f).freeCtr = s.freeCtr := rfl
@[simp] theorem State.modTrust_pending (s : State) (f : Trust → Trust) : (s.modTrust f).pending = s.pending := rfl

@[simp] theorem State.modQueue_fitted (s : State) (p q : Nat) (f : QueueRun → QueueRun) : (s.modQueue p q f).fitted = s.fitted := rfl
@[simp] theorem State.modQueue_regs (s : State) (p q : Nat) (f : QueueRun → QueueRun) : (s.modQueue p q f).regs = s.regs := rfl
@[simp] theorem State.modQueue_counters (s : State) (p q : Nat) (f : QueueRun → QueueRun) : (s.modQueue p q f).counters = s.counters := rfl
@[simp] theorem State.modQueue_coarse (s : State) (p q : Nat) (f : QueueRun → QueueRun) : (s.modQueue p q f).coarse = s.coarse := rfl
@[simp] theorem State.modQueue_latch (s : State) (p q : Nat) (f : QueueRun → QueueRun) : (s.modQueue p q f).latch = s.latch := rfl
@[simp] theorem State.modQueue_held (s : State) (p q : Nat) (f : QueueRun → QueueRun) : (s.modQueue p q f).held = s.held := rfl
@[simp] theorem State.modQueue_time (s : State) (p q : Nat) (f : QueueRun → QueueRun) : (s.modQueue p q f).time = s.time := rfl
@[simp] theorem State.modQueue_seq (s : State) (p q : Nat) (f : QueueRun → QueueRun) : (s.modQueue p q f).seq = s.seq := rfl
@[simp] theorem State.modQueue_seqReported (s : State) (p q : Nat) (f : QueueRun → QueueRun) : (s.modQueue p q f).seqReported = s.seqReported := rfl
@[simp] theorem State.modQueue_events (s : State) (p q : Nat) (f : QueueRun → QueueRun) : (s.modQueue p q f).events = s.events := rfl
@[simp] theorem State.modQueue_mem (s : State) (p q : Nat) (f : QueueRun → QueueRun) : (s.modQueue p q f).mem = s.mem := rfl
@[simp] theorem State.modQueue_staging (s : State) (p q : Nat) (f : QueueRun → QueueRun) : (s.modQueue p q f).staging = s.staging := rfl
@[simp] theorem State.modQueue_neg (s : State) (p q : Nat) (f : QueueRun → QueueRun) : (s.modQueue p q f).neg = s.neg := rfl
@[simp] theorem State.modQueue_tags (s : State) (p q : Nat) (f : QueueRun → QueueRun) : (s.modQueue p q f).tags = s.tags := rfl
@[simp] theorem State.modQueue_negTags (s : State) (p q : Nat) (f : QueueRun → QueueRun) : (s.modQueue p q f).negTags = s.negTags := rfl
@[simp] theorem State.modQueue_rings (s : State) (p q : Nat) (f : QueueRun → QueueRun) : (s.modQueue p q f).rings = s.rings := rfl
@[simp] theorem State.modQueue_pools (s : State) (p q : Nat) (f : QueueRun → QueueRun) : (s.modQueue p q f).pools = s.pools := rfl
@[simp] theorem State.modQueue_plans (s : State) (p q : Nat) (f : QueueRun → QueueRun) : (s.modQueue p q f).plans = s.plans := rfl
@[simp] theorem State.modQueue_cores (s : State) (p q : Nat) (f : QueueRun → QueueRun) : (s.modQueue p q f).cores = s.cores := rfl
@[simp] theorem State.modQueue_tokens (s : State) (p q : Nat) (f : QueueRun → QueueRun) : (s.modQueue p q f).tokens = s.tokens := rfl
@[simp] theorem State.modQueue_credits (s : State) (p q : Nat) (f : QueueRun → QueueRun) : (s.modQueue p q f).credits = s.credits := rfl
@[simp] theorem State.modQueue_layers (s : State) (p q : Nat) (f : QueueRun → QueueRun) : (s.modQueue p q f).layers = s.layers := rfl
@[simp] theorem State.modQueue_shapes (s : State) (p q : Nat) (f : QueueRun → QueueRun) : (s.modQueue p q f).shapes = s.shapes := rfl
@[simp] theorem State.modQueue_searches (s : State) (p q : Nat) (f : QueueRun → QueueRun) : (s.modQueue p q f).searches = s.searches := rfl
@[simp] theorem State.modQueue_contexts (s : State) (p q : Nat) (f : QueueRun → QueueRun) : (s.modQueue p q f).contexts = s.contexts := rfl
@[simp] theorem State.modQueue_pages (s : State) (p q : Nat) (f : QueueRun → QueueRun) : (s.modQueue p q f).pages = s.pages := rfl
@[simp] theorem State.modQueue_devDraws (s : State) (p q : Nat) (f : QueueRun → QueueRun) : (s.modQueue p q f).devDraws = s.devDraws := rfl
@[simp] theorem State.modQueue_devQueues (s : State) (p q : Nat) (f : QueueRun → QueueRun) : (s.modQueue p q f).devQueues = s.devQueues := rfl
@[simp] theorem State.modQueue_ports (s : State) (p q : Nat) (f : QueueRun → QueueRun) : (s.modQueue p q f).ports = s.ports := rfl
@[simp] theorem State.modQueue_tally (s : State) (p q : Nat) (f : QueueRun → QueueRun) : (s.modQueue p q f).tally = s.tally := rfl
@[simp] theorem State.modQueue_rowsUsed (s : State) (p q : Nat) (f : QueueRun → QueueRun) : (s.modQueue p q f).rowsUsed = s.rowsUsed := rfl
@[simp] theorem State.modQueue_retired (s : State) (p q : Nat) (f : QueueRun → QueueRun) : (s.modQueue p q f).retired = s.retired := rfl
@[simp] theorem State.modQueue_stamped (s : State) (p q : Nat) (f : QueueRun → QueueRun) : (s.modQueue p q f).stamped = s.stamped := rfl
@[simp] theorem State.modQueue_wards (s : State) (p q : Nat) (f : QueueRun → QueueRun) : (s.modQueue p q f).wards = s.wards := rfl
@[simp] theorem State.modQueue_d2dDown (s : State) (p q : Nat) (f : QueueRun → QueueRun) : (s.modQueue p q f).d2dDown = s.d2dDown := rfl
@[simp] theorem State.modQueue_intake (s : State) (p q : Nat) (f : QueueRun → QueueRun) : (s.modQueue p q f).intake = s.intake := rfl
@[simp] theorem State.modQueue_power (s : State) (p q : Nat) (f : QueueRun → QueueRun) : (s.modQueue p q f).power = s.power := rfl
@[simp] theorem State.modQueue_trust (s : State) (p q : Nat) (f : QueueRun → QueueRun) : (s.modQueue p q f).trust = s.trust := rfl
@[simp] theorem State.modQueue_out (s : State) (p q : Nat) (f : QueueRun → QueueRun) : (s.modQueue p q f).out = s.out := rfl
@[simp] theorem State.modQueue_freeCtr (s : State) (p q : Nat) (f : QueueRun → QueueRun) : (s.modQueue p q f).freeCtr = s.freeCtr := rfl
@[simp] theorem State.modQueue_pending (s : State) (p q : Nat) (f : QueueRun → QueueRun) : (s.modQueue p q f).pending = s.pending := rfl

@[simp] theorem State.modGroup_fitted (s : State) (p g : Nat) (f : GroupState → GroupState) : (s.modGroup p g f).fitted = s.fitted := rfl
@[simp] theorem State.modGroup_regs (s : State) (p g : Nat) (f : GroupState → GroupState) : (s.modGroup p g f).regs = s.regs := rfl
@[simp] theorem State.modGroup_counters (s : State) (p g : Nat) (f : GroupState → GroupState) : (s.modGroup p g f).counters = s.counters := rfl
@[simp] theorem State.modGroup_coarse (s : State) (p g : Nat) (f : GroupState → GroupState) : (s.modGroup p g f).coarse = s.coarse := rfl
@[simp] theorem State.modGroup_latch (s : State) (p g : Nat) (f : GroupState → GroupState) : (s.modGroup p g f).latch = s.latch := rfl
@[simp] theorem State.modGroup_held (s : State) (p g : Nat) (f : GroupState → GroupState) : (s.modGroup p g f).held = s.held := rfl
@[simp] theorem State.modGroup_time (s : State) (p g : Nat) (f : GroupState → GroupState) : (s.modGroup p g f).time = s.time := rfl
@[simp] theorem State.modGroup_seq (s : State) (p g : Nat) (f : GroupState → GroupState) : (s.modGroup p g f).seq = s.seq := rfl
@[simp] theorem State.modGroup_seqReported (s : State) (p g : Nat) (f : GroupState → GroupState) : (s.modGroup p g f).seqReported = s.seqReported := rfl
@[simp] theorem State.modGroup_events (s : State) (p g : Nat) (f : GroupState → GroupState) : (s.modGroup p g f).events = s.events := rfl
@[simp] theorem State.modGroup_mem (s : State) (p g : Nat) (f : GroupState → GroupState) : (s.modGroup p g f).mem = s.mem := rfl
@[simp] theorem State.modGroup_staging (s : State) (p g : Nat) (f : GroupState → GroupState) : (s.modGroup p g f).staging = s.staging := rfl
@[simp] theorem State.modGroup_neg (s : State) (p g : Nat) (f : GroupState → GroupState) : (s.modGroup p g f).neg = s.neg := rfl
@[simp] theorem State.modGroup_tags (s : State) (p g : Nat) (f : GroupState → GroupState) : (s.modGroup p g f).tags = s.tags := rfl
@[simp] theorem State.modGroup_negTags (s : State) (p g : Nat) (f : GroupState → GroupState) : (s.modGroup p g f).negTags = s.negTags := rfl
@[simp] theorem State.modGroup_rings (s : State) (p g : Nat) (f : GroupState → GroupState) : (s.modGroup p g f).rings = s.rings := rfl
@[simp] theorem State.modGroup_pools (s : State) (p g : Nat) (f : GroupState → GroupState) : (s.modGroup p g f).pools = s.pools := rfl
@[simp] theorem State.modGroup_plans (s : State) (p g : Nat) (f : GroupState → GroupState) : (s.modGroup p g f).plans = s.plans := rfl
@[simp] theorem State.modGroup_cores (s : State) (p g : Nat) (f : GroupState → GroupState) : (s.modGroup p g f).cores = s.cores := rfl
@[simp] theorem State.modGroup_tokens (s : State) (p g : Nat) (f : GroupState → GroupState) : (s.modGroup p g f).tokens = s.tokens := rfl
@[simp] theorem State.modGroup_credits (s : State) (p g : Nat) (f : GroupState → GroupState) : (s.modGroup p g f).credits = s.credits := rfl
@[simp] theorem State.modGroup_layers (s : State) (p g : Nat) (f : GroupState → GroupState) : (s.modGroup p g f).layers = s.layers := rfl
@[simp] theorem State.modGroup_shapes (s : State) (p g : Nat) (f : GroupState → GroupState) : (s.modGroup p g f).shapes = s.shapes := rfl
@[simp] theorem State.modGroup_searches (s : State) (p g : Nat) (f : GroupState → GroupState) : (s.modGroup p g f).searches = s.searches := rfl
@[simp] theorem State.modGroup_contexts (s : State) (p g : Nat) (f : GroupState → GroupState) : (s.modGroup p g f).contexts = s.contexts := rfl
@[simp] theorem State.modGroup_pages (s : State) (p g : Nat) (f : GroupState → GroupState) : (s.modGroup p g f).pages = s.pages := rfl
@[simp] theorem State.modGroup_devDraws (s : State) (p g : Nat) (f : GroupState → GroupState) : (s.modGroup p g f).devDraws = s.devDraws := rfl
@[simp] theorem State.modGroup_devQueues (s : State) (p g : Nat) (f : GroupState → GroupState) : (s.modGroup p g f).devQueues = s.devQueues := rfl
@[simp] theorem State.modGroup_ports (s : State) (p g : Nat) (f : GroupState → GroupState) : (s.modGroup p g f).ports = s.ports := rfl
@[simp] theorem State.modGroup_tally (s : State) (p g : Nat) (f : GroupState → GroupState) : (s.modGroup p g f).tally = s.tally := rfl
@[simp] theorem State.modGroup_rowsUsed (s : State) (p g : Nat) (f : GroupState → GroupState) : (s.modGroup p g f).rowsUsed = s.rowsUsed := rfl
@[simp] theorem State.modGroup_retired (s : State) (p g : Nat) (f : GroupState → GroupState) : (s.modGroup p g f).retired = s.retired := rfl
@[simp] theorem State.modGroup_stamped (s : State) (p g : Nat) (f : GroupState → GroupState) : (s.modGroup p g f).stamped = s.stamped := rfl
@[simp] theorem State.modGroup_wards (s : State) (p g : Nat) (f : GroupState → GroupState) : (s.modGroup p g f).wards = s.wards := rfl
@[simp] theorem State.modGroup_d2dDown (s : State) (p g : Nat) (f : GroupState → GroupState) : (s.modGroup p g f).d2dDown = s.d2dDown := rfl
@[simp] theorem State.modGroup_intake (s : State) (p g : Nat) (f : GroupState → GroupState) : (s.modGroup p g f).intake = s.intake := rfl
@[simp] theorem State.modGroup_power (s : State) (p g : Nat) (f : GroupState → GroupState) : (s.modGroup p g f).power = s.power := rfl
@[simp] theorem State.modGroup_trust (s : State) (p g : Nat) (f : GroupState → GroupState) : (s.modGroup p g f).trust = s.trust := rfl
@[simp] theorem State.modGroup_out (s : State) (p g : Nat) (f : GroupState → GroupState) : (s.modGroup p g f).out = s.out := rfl
@[simp] theorem State.modGroup_freeCtr (s : State) (p g : Nat) (f : GroupState → GroupState) : (s.modGroup p g f).freeCtr = s.freeCtr := rfl
@[simp] theorem State.modGroup_pending (s : State) (p g : Nat) (f : GroupState → GroupState) : (s.modGroup p g f).pending = s.pending := rfl

@[simp] theorem State.modLayer_fitted (s : State) (l : Nat) (f : LayerEntry → LayerEntry) : (s.modLayer l f).fitted = s.fitted := rfl
@[simp] theorem State.modLayer_regs (s : State) (l : Nat) (f : LayerEntry → LayerEntry) : (s.modLayer l f).regs = s.regs := rfl
@[simp] theorem State.modLayer_counters (s : State) (l : Nat) (f : LayerEntry → LayerEntry) : (s.modLayer l f).counters = s.counters := rfl
@[simp] theorem State.modLayer_coarse (s : State) (l : Nat) (f : LayerEntry → LayerEntry) : (s.modLayer l f).coarse = s.coarse := rfl
@[simp] theorem State.modLayer_latch (s : State) (l : Nat) (f : LayerEntry → LayerEntry) : (s.modLayer l f).latch = s.latch := rfl
@[simp] theorem State.modLayer_held (s : State) (l : Nat) (f : LayerEntry → LayerEntry) : (s.modLayer l f).held = s.held := rfl
@[simp] theorem State.modLayer_time (s : State) (l : Nat) (f : LayerEntry → LayerEntry) : (s.modLayer l f).time = s.time := rfl
@[simp] theorem State.modLayer_seq (s : State) (l : Nat) (f : LayerEntry → LayerEntry) : (s.modLayer l f).seq = s.seq := rfl
@[simp] theorem State.modLayer_seqReported (s : State) (l : Nat) (f : LayerEntry → LayerEntry) : (s.modLayer l f).seqReported = s.seqReported := rfl
@[simp] theorem State.modLayer_events (s : State) (l : Nat) (f : LayerEntry → LayerEntry) : (s.modLayer l f).events = s.events := rfl
@[simp] theorem State.modLayer_mem (s : State) (l : Nat) (f : LayerEntry → LayerEntry) : (s.modLayer l f).mem = s.mem := rfl
@[simp] theorem State.modLayer_staging (s : State) (l : Nat) (f : LayerEntry → LayerEntry) : (s.modLayer l f).staging = s.staging := rfl
@[simp] theorem State.modLayer_neg (s : State) (l : Nat) (f : LayerEntry → LayerEntry) : (s.modLayer l f).neg = s.neg := rfl
@[simp] theorem State.modLayer_tags (s : State) (l : Nat) (f : LayerEntry → LayerEntry) : (s.modLayer l f).tags = s.tags := rfl
@[simp] theorem State.modLayer_negTags (s : State) (l : Nat) (f : LayerEntry → LayerEntry) : (s.modLayer l f).negTags = s.negTags := rfl
@[simp] theorem State.modLayer_rings (s : State) (l : Nat) (f : LayerEntry → LayerEntry) : (s.modLayer l f).rings = s.rings := rfl
@[simp] theorem State.modLayer_pools (s : State) (l : Nat) (f : LayerEntry → LayerEntry) : (s.modLayer l f).pools = s.pools := rfl
@[simp] theorem State.modLayer_plans (s : State) (l : Nat) (f : LayerEntry → LayerEntry) : (s.modLayer l f).plans = s.plans := rfl
@[simp] theorem State.modLayer_parts (s : State) (l : Nat) (f : LayerEntry → LayerEntry) : (s.modLayer l f).parts = s.parts := rfl
@[simp] theorem State.modLayer_cores (s : State) (l : Nat) (f : LayerEntry → LayerEntry) : (s.modLayer l f).cores = s.cores := rfl
@[simp] theorem State.modLayer_tokens (s : State) (l : Nat) (f : LayerEntry → LayerEntry) : (s.modLayer l f).tokens = s.tokens := rfl
@[simp] theorem State.modLayer_credits (s : State) (l : Nat) (f : LayerEntry → LayerEntry) : (s.modLayer l f).credits = s.credits := rfl
@[simp] theorem State.modLayer_shapes (s : State) (l : Nat) (f : LayerEntry → LayerEntry) : (s.modLayer l f).shapes = s.shapes := rfl
@[simp] theorem State.modLayer_searches (s : State) (l : Nat) (f : LayerEntry → LayerEntry) : (s.modLayer l f).searches = s.searches := rfl
@[simp] theorem State.modLayer_contexts (s : State) (l : Nat) (f : LayerEntry → LayerEntry) : (s.modLayer l f).contexts = s.contexts := rfl
@[simp] theorem State.modLayer_pages (s : State) (l : Nat) (f : LayerEntry → LayerEntry) : (s.modLayer l f).pages = s.pages := rfl
@[simp] theorem State.modLayer_devDraws (s : State) (l : Nat) (f : LayerEntry → LayerEntry) : (s.modLayer l f).devDraws = s.devDraws := rfl
@[simp] theorem State.modLayer_devQueues (s : State) (l : Nat) (f : LayerEntry → LayerEntry) : (s.modLayer l f).devQueues = s.devQueues := rfl
@[simp] theorem State.modLayer_ports (s : State) (l : Nat) (f : LayerEntry → LayerEntry) : (s.modLayer l f).ports = s.ports := rfl
@[simp] theorem State.modLayer_tally (s : State) (l : Nat) (f : LayerEntry → LayerEntry) : (s.modLayer l f).tally = s.tally := rfl
@[simp] theorem State.modLayer_rowsUsed (s : State) (l : Nat) (f : LayerEntry → LayerEntry) : (s.modLayer l f).rowsUsed = s.rowsUsed := rfl
@[simp] theorem State.modLayer_retired (s : State) (l : Nat) (f : LayerEntry → LayerEntry) : (s.modLayer l f).retired = s.retired := rfl
@[simp] theorem State.modLayer_stamped (s : State) (l : Nat) (f : LayerEntry → LayerEntry) : (s.modLayer l f).stamped = s.stamped := rfl
@[simp] theorem State.modLayer_wards (s : State) (l : Nat) (f : LayerEntry → LayerEntry) : (s.modLayer l f).wards = s.wards := rfl
@[simp] theorem State.modLayer_d2dDown (s : State) (l : Nat) (f : LayerEntry → LayerEntry) : (s.modLayer l f).d2dDown = s.d2dDown := rfl
@[simp] theorem State.modLayer_intake (s : State) (l : Nat) (f : LayerEntry → LayerEntry) : (s.modLayer l f).intake = s.intake := rfl
@[simp] theorem State.modLayer_power (s : State) (l : Nat) (f : LayerEntry → LayerEntry) : (s.modLayer l f).power = s.power := rfl
@[simp] theorem State.modLayer_trust (s : State) (l : Nat) (f : LayerEntry → LayerEntry) : (s.modLayer l f).trust = s.trust := rfl
@[simp] theorem State.modLayer_out (s : State) (l : Nat) (f : LayerEntry → LayerEntry) : (s.modLayer l f).out = s.out := rfl
@[simp] theorem State.modLayer_freeCtr (s : State) (l : Nat) (f : LayerEntry → LayerEntry) : (s.modLayer l f).freeCtr = s.freeCtr := rfl
@[simp] theorem State.modLayer_pending (s : State) (l : Nat) (f : LayerEntry → LayerEntry) : (s.modLayer l f).pending = s.pending := rfl

@[simp] theorem State.modIntake_fitted (s : State) (u : Nat) (f : IntakeUnit → IntakeUnit) : (s.modIntake u f).fitted = s.fitted := rfl
@[simp] theorem State.modIntake_regs (s : State) (u : Nat) (f : IntakeUnit → IntakeUnit) : (s.modIntake u f).regs = s.regs := rfl
@[simp] theorem State.modIntake_counters (s : State) (u : Nat) (f : IntakeUnit → IntakeUnit) : (s.modIntake u f).counters = s.counters := rfl
@[simp] theorem State.modIntake_coarse (s : State) (u : Nat) (f : IntakeUnit → IntakeUnit) : (s.modIntake u f).coarse = s.coarse := rfl
@[simp] theorem State.modIntake_latch (s : State) (u : Nat) (f : IntakeUnit → IntakeUnit) : (s.modIntake u f).latch = s.latch := rfl
@[simp] theorem State.modIntake_held (s : State) (u : Nat) (f : IntakeUnit → IntakeUnit) : (s.modIntake u f).held = s.held := rfl
@[simp] theorem State.modIntake_time (s : State) (u : Nat) (f : IntakeUnit → IntakeUnit) : (s.modIntake u f).time = s.time := rfl
@[simp] theorem State.modIntake_seq (s : State) (u : Nat) (f : IntakeUnit → IntakeUnit) : (s.modIntake u f).seq = s.seq := rfl
@[simp] theorem State.modIntake_seqReported (s : State) (u : Nat) (f : IntakeUnit → IntakeUnit) : (s.modIntake u f).seqReported = s.seqReported := rfl
@[simp] theorem State.modIntake_events (s : State) (u : Nat) (f : IntakeUnit → IntakeUnit) : (s.modIntake u f).events = s.events := rfl
@[simp] theorem State.modIntake_mem (s : State) (u : Nat) (f : IntakeUnit → IntakeUnit) : (s.modIntake u f).mem = s.mem := rfl
@[simp] theorem State.modIntake_staging (s : State) (u : Nat) (f : IntakeUnit → IntakeUnit) : (s.modIntake u f).staging = s.staging := rfl
@[simp] theorem State.modIntake_neg (s : State) (u : Nat) (f : IntakeUnit → IntakeUnit) : (s.modIntake u f).neg = s.neg := rfl
@[simp] theorem State.modIntake_tags (s : State) (u : Nat) (f : IntakeUnit → IntakeUnit) : (s.modIntake u f).tags = s.tags := rfl
@[simp] theorem State.modIntake_negTags (s : State) (u : Nat) (f : IntakeUnit → IntakeUnit) : (s.modIntake u f).negTags = s.negTags := rfl
@[simp] theorem State.modIntake_rings (s : State) (u : Nat) (f : IntakeUnit → IntakeUnit) : (s.modIntake u f).rings = s.rings := rfl
@[simp] theorem State.modIntake_pools (s : State) (u : Nat) (f : IntakeUnit → IntakeUnit) : (s.modIntake u f).pools = s.pools := rfl
@[simp] theorem State.modIntake_plans (s : State) (u : Nat) (f : IntakeUnit → IntakeUnit) : (s.modIntake u f).plans = s.plans := rfl
@[simp] theorem State.modIntake_parts (s : State) (u : Nat) (f : IntakeUnit → IntakeUnit) : (s.modIntake u f).parts = s.parts := rfl
@[simp] theorem State.modIntake_cores (s : State) (u : Nat) (f : IntakeUnit → IntakeUnit) : (s.modIntake u f).cores = s.cores := rfl
@[simp] theorem State.modIntake_tokens (s : State) (u : Nat) (f : IntakeUnit → IntakeUnit) : (s.modIntake u f).tokens = s.tokens := rfl
@[simp] theorem State.modIntake_credits (s : State) (u : Nat) (f : IntakeUnit → IntakeUnit) : (s.modIntake u f).credits = s.credits := rfl
@[simp] theorem State.modIntake_layers (s : State) (u : Nat) (f : IntakeUnit → IntakeUnit) : (s.modIntake u f).layers = s.layers := rfl
@[simp] theorem State.modIntake_shapes (s : State) (u : Nat) (f : IntakeUnit → IntakeUnit) : (s.modIntake u f).shapes = s.shapes := rfl
@[simp] theorem State.modIntake_searches (s : State) (u : Nat) (f : IntakeUnit → IntakeUnit) : (s.modIntake u f).searches = s.searches := rfl
@[simp] theorem State.modIntake_contexts (s : State) (u : Nat) (f : IntakeUnit → IntakeUnit) : (s.modIntake u f).contexts = s.contexts := rfl
@[simp] theorem State.modIntake_pages (s : State) (u : Nat) (f : IntakeUnit → IntakeUnit) : (s.modIntake u f).pages = s.pages := rfl
@[simp] theorem State.modIntake_devDraws (s : State) (u : Nat) (f : IntakeUnit → IntakeUnit) : (s.modIntake u f).devDraws = s.devDraws := rfl
@[simp] theorem State.modIntake_devQueues (s : State) (u : Nat) (f : IntakeUnit → IntakeUnit) : (s.modIntake u f).devQueues = s.devQueues := rfl
@[simp] theorem State.modIntake_ports (s : State) (u : Nat) (f : IntakeUnit → IntakeUnit) : (s.modIntake u f).ports = s.ports := rfl
@[simp] theorem State.modIntake_tally (s : State) (u : Nat) (f : IntakeUnit → IntakeUnit) : (s.modIntake u f).tally = s.tally := rfl
@[simp] theorem State.modIntake_rowsUsed (s : State) (u : Nat) (f : IntakeUnit → IntakeUnit) : (s.modIntake u f).rowsUsed = s.rowsUsed := rfl
@[simp] theorem State.modIntake_retired (s : State) (u : Nat) (f : IntakeUnit → IntakeUnit) : (s.modIntake u f).retired = s.retired := rfl
@[simp] theorem State.modIntake_stamped (s : State) (u : Nat) (f : IntakeUnit → IntakeUnit) : (s.modIntake u f).stamped = s.stamped := rfl
@[simp] theorem State.modIntake_wards (s : State) (u : Nat) (f : IntakeUnit → IntakeUnit) : (s.modIntake u f).wards = s.wards := rfl
@[simp] theorem State.modIntake_d2dDown (s : State) (u : Nat) (f : IntakeUnit → IntakeUnit) : (s.modIntake u f).d2dDown = s.d2dDown := rfl
@[simp] theorem State.modIntake_power (s : State) (u : Nat) (f : IntakeUnit → IntakeUnit) : (s.modIntake u f).power = s.power := rfl
@[simp] theorem State.modIntake_trust (s : State) (u : Nat) (f : IntakeUnit → IntakeUnit) : (s.modIntake u f).trust = s.trust := rfl
@[simp] theorem State.modIntake_out (s : State) (u : Nat) (f : IntakeUnit → IntakeUnit) : (s.modIntake u f).out = s.out := rfl
@[simp] theorem State.modIntake_freeCtr (s : State) (u : Nat) (f : IntakeUnit → IntakeUnit) : (s.modIntake u f).freeCtr = s.freeCtr := rfl
@[simp] theorem State.modIntake_pending (s : State) (u : Nat) (f : IntakeUnit → IntakeUnit) : (s.modIntake u f).pending = s.pending := rfl

@[simp] theorem State.hostWrite_fitted (s : State) (a : Nat) (bs : List Byte) : (s.hostWrite a bs).fitted = s.fitted := rfl
@[simp] theorem State.hostWrite_regs (s : State) (a : Nat) (bs : List Byte) : (s.hostWrite a bs).regs = s.regs := rfl
@[simp] theorem State.hostWrite_counters (s : State) (a : Nat) (bs : List Byte) : (s.hostWrite a bs).counters = s.counters := rfl
@[simp] theorem State.hostWrite_coarse (s : State) (a : Nat) (bs : List Byte) : (s.hostWrite a bs).coarse = s.coarse := rfl
@[simp] theorem State.hostWrite_latch (s : State) (a : Nat) (bs : List Byte) : (s.hostWrite a bs).latch = s.latch := rfl
@[simp] theorem State.hostWrite_held (s : State) (a : Nat) (bs : List Byte) : (s.hostWrite a bs).held = s.held := rfl
@[simp] theorem State.hostWrite_time (s : State) (a : Nat) (bs : List Byte) : (s.hostWrite a bs).time = s.time := rfl
@[simp] theorem State.hostWrite_seq (s : State) (a : Nat) (bs : List Byte) : (s.hostWrite a bs).seq = s.seq := rfl
@[simp] theorem State.hostWrite_seqReported (s : State) (a : Nat) (bs : List Byte) : (s.hostWrite a bs).seqReported = s.seqReported := rfl
@[simp] theorem State.hostWrite_events (s : State) (a : Nat) (bs : List Byte) : (s.hostWrite a bs).events = s.events := rfl
@[simp] theorem State.hostWrite_mem (s : State) (a : Nat) (bs : List Byte) : (s.hostWrite a bs).mem = s.mem := rfl
@[simp] theorem State.hostWrite_staging (s : State) (a : Nat) (bs : List Byte) : (s.hostWrite a bs).staging = s.staging := rfl
@[simp] theorem State.hostWrite_neg (s : State) (a : Nat) (bs : List Byte) : (s.hostWrite a bs).neg = s.neg := rfl
@[simp] theorem State.hostWrite_tags (s : State) (a : Nat) (bs : List Byte) : (s.hostWrite a bs).tags = s.tags := rfl
@[simp] theorem State.hostWrite_negTags (s : State) (a : Nat) (bs : List Byte) : (s.hostWrite a bs).negTags = s.negTags := rfl
@[simp] theorem State.hostWrite_rings (s : State) (a : Nat) (bs : List Byte) : (s.hostWrite a bs).rings = s.rings := rfl
@[simp] theorem State.hostWrite_pools (s : State) (a : Nat) (bs : List Byte) : (s.hostWrite a bs).pools = s.pools := rfl
@[simp] theorem State.hostWrite_plans (s : State) (a : Nat) (bs : List Byte) : (s.hostWrite a bs).plans = s.plans := rfl
@[simp] theorem State.hostWrite_parts (s : State) (a : Nat) (bs : List Byte) : (s.hostWrite a bs).parts = s.parts := rfl
@[simp] theorem State.hostWrite_cores (s : State) (a : Nat) (bs : List Byte) : (s.hostWrite a bs).cores = s.cores := rfl
@[simp] theorem State.hostWrite_tokens (s : State) (a : Nat) (bs : List Byte) : (s.hostWrite a bs).tokens = s.tokens := rfl
@[simp] theorem State.hostWrite_credits (s : State) (a : Nat) (bs : List Byte) : (s.hostWrite a bs).credits = s.credits := rfl
@[simp] theorem State.hostWrite_layers (s : State) (a : Nat) (bs : List Byte) : (s.hostWrite a bs).layers = s.layers := rfl
@[simp] theorem State.hostWrite_shapes (s : State) (a : Nat) (bs : List Byte) : (s.hostWrite a bs).shapes = s.shapes := rfl
@[simp] theorem State.hostWrite_searches (s : State) (a : Nat) (bs : List Byte) : (s.hostWrite a bs).searches = s.searches := rfl
@[simp] theorem State.hostWrite_contexts (s : State) (a : Nat) (bs : List Byte) : (s.hostWrite a bs).contexts = s.contexts := rfl
@[simp] theorem State.hostWrite_pages (s : State) (a : Nat) (bs : List Byte) : (s.hostWrite a bs).pages = s.pages := rfl
@[simp] theorem State.hostWrite_devDraws (s : State) (a : Nat) (bs : List Byte) : (s.hostWrite a bs).devDraws = s.devDraws := rfl
@[simp] theorem State.hostWrite_devQueues (s : State) (a : Nat) (bs : List Byte) : (s.hostWrite a bs).devQueues = s.devQueues := rfl
@[simp] theorem State.hostWrite_ports (s : State) (a : Nat) (bs : List Byte) : (s.hostWrite a bs).ports = s.ports := rfl
@[simp] theorem State.hostWrite_tally (s : State) (a : Nat) (bs : List Byte) : (s.hostWrite a bs).tally = s.tally := rfl
@[simp] theorem State.hostWrite_rowsUsed (s : State) (a : Nat) (bs : List Byte) : (s.hostWrite a bs).rowsUsed = s.rowsUsed := rfl
@[simp] theorem State.hostWrite_retired (s : State) (a : Nat) (bs : List Byte) : (s.hostWrite a bs).retired = s.retired := rfl
@[simp] theorem State.hostWrite_stamped (s : State) (a : Nat) (bs : List Byte) : (s.hostWrite a bs).stamped = s.stamped := rfl
@[simp] theorem State.hostWrite_wards (s : State) (a : Nat) (bs : List Byte) : (s.hostWrite a bs).wards = s.wards := rfl
@[simp] theorem State.hostWrite_d2dDown (s : State) (a : Nat) (bs : List Byte) : (s.hostWrite a bs).d2dDown = s.d2dDown := rfl
@[simp] theorem State.hostWrite_intake (s : State) (a : Nat) (bs : List Byte) : (s.hostWrite a bs).intake = s.intake := rfl
@[simp] theorem State.hostWrite_power (s : State) (a : Nat) (bs : List Byte) : (s.hostWrite a bs).power = s.power := rfl
@[simp] theorem State.hostWrite_trust (s : State) (a : Nat) (bs : List Byte) : (s.hostWrite a bs).trust = s.trust := rfl
@[simp] theorem State.hostWrite_freeCtr (s : State) (a : Nat) (bs : List Byte) : (s.hostWrite a bs).freeCtr = s.freeCtr := rfl
@[simp] theorem State.hostWrite_pending (s : State) (a : Nat) (bs : List Byte) : (s.hostWrite a bs).pending = s.pending := rfl

@[simp] theorem State.sendIrq_fitted (s : State) (v : Nat) : (s.sendIrq v).fitted = s.fitted := rfl
@[simp] theorem State.sendIrq_regs (s : State) (v : Nat) : (s.sendIrq v).regs = s.regs := rfl
@[simp] theorem State.sendIrq_counters (s : State) (v : Nat) : (s.sendIrq v).counters = s.counters := rfl
@[simp] theorem State.sendIrq_coarse (s : State) (v : Nat) : (s.sendIrq v).coarse = s.coarse := rfl
@[simp] theorem State.sendIrq_latch (s : State) (v : Nat) : (s.sendIrq v).latch = s.latch := rfl
@[simp] theorem State.sendIrq_held (s : State) (v : Nat) : (s.sendIrq v).held = s.held := rfl
@[simp] theorem State.sendIrq_time (s : State) (v : Nat) : (s.sendIrq v).time = s.time := rfl
@[simp] theorem State.sendIrq_seq (s : State) (v : Nat) : (s.sendIrq v).seq = s.seq := rfl
@[simp] theorem State.sendIrq_seqReported (s : State) (v : Nat) : (s.sendIrq v).seqReported = s.seqReported := rfl
@[simp] theorem State.sendIrq_events (s : State) (v : Nat) : (s.sendIrq v).events = s.events := rfl
@[simp] theorem State.sendIrq_mem (s : State) (v : Nat) : (s.sendIrq v).mem = s.mem := rfl
@[simp] theorem State.sendIrq_staging (s : State) (v : Nat) : (s.sendIrq v).staging = s.staging := rfl
@[simp] theorem State.sendIrq_neg (s : State) (v : Nat) : (s.sendIrq v).neg = s.neg := rfl
@[simp] theorem State.sendIrq_tags (s : State) (v : Nat) : (s.sendIrq v).tags = s.tags := rfl
@[simp] theorem State.sendIrq_negTags (s : State) (v : Nat) : (s.sendIrq v).negTags = s.negTags := rfl
@[simp] theorem State.sendIrq_rings (s : State) (v : Nat) : (s.sendIrq v).rings = s.rings := rfl
@[simp] theorem State.sendIrq_pools (s : State) (v : Nat) : (s.sendIrq v).pools = s.pools := rfl
@[simp] theorem State.sendIrq_plans (s : State) (v : Nat) : (s.sendIrq v).plans = s.plans := rfl
@[simp] theorem State.sendIrq_parts (s : State) (v : Nat) : (s.sendIrq v).parts = s.parts := rfl
@[simp] theorem State.sendIrq_cores (s : State) (v : Nat) : (s.sendIrq v).cores = s.cores := rfl
@[simp] theorem State.sendIrq_tokens (s : State) (v : Nat) : (s.sendIrq v).tokens = s.tokens := rfl
@[simp] theorem State.sendIrq_credits (s : State) (v : Nat) : (s.sendIrq v).credits = s.credits := rfl
@[simp] theorem State.sendIrq_layers (s : State) (v : Nat) : (s.sendIrq v).layers = s.layers := rfl
@[simp] theorem State.sendIrq_shapes (s : State) (v : Nat) : (s.sendIrq v).shapes = s.shapes := rfl
@[simp] theorem State.sendIrq_searches (s : State) (v : Nat) : (s.sendIrq v).searches = s.searches := rfl
@[simp] theorem State.sendIrq_contexts (s : State) (v : Nat) : (s.sendIrq v).contexts = s.contexts := rfl
@[simp] theorem State.sendIrq_pages (s : State) (v : Nat) : (s.sendIrq v).pages = s.pages := rfl
@[simp] theorem State.sendIrq_devDraws (s : State) (v : Nat) : (s.sendIrq v).devDraws = s.devDraws := rfl
@[simp] theorem State.sendIrq_devQueues (s : State) (v : Nat) : (s.sendIrq v).devQueues = s.devQueues := rfl
@[simp] theorem State.sendIrq_ports (s : State) (v : Nat) : (s.sendIrq v).ports = s.ports := rfl
@[simp] theorem State.sendIrq_tally (s : State) (v : Nat) : (s.sendIrq v).tally = s.tally := rfl
@[simp] theorem State.sendIrq_rowsUsed (s : State) (v : Nat) : (s.sendIrq v).rowsUsed = s.rowsUsed := rfl
@[simp] theorem State.sendIrq_retired (s : State) (v : Nat) : (s.sendIrq v).retired = s.retired := rfl
@[simp] theorem State.sendIrq_stamped (s : State) (v : Nat) : (s.sendIrq v).stamped = s.stamped := rfl
@[simp] theorem State.sendIrq_wards (s : State) (v : Nat) : (s.sendIrq v).wards = s.wards := rfl
@[simp] theorem State.sendIrq_d2dDown (s : State) (v : Nat) : (s.sendIrq v).d2dDown = s.d2dDown := rfl
@[simp] theorem State.sendIrq_intake (s : State) (v : Nat) : (s.sendIrq v).intake = s.intake := rfl
@[simp] theorem State.sendIrq_power (s : State) (v : Nat) : (s.sendIrq v).power = s.power := rfl
@[simp] theorem State.sendIrq_trust (s : State) (v : Nat) : (s.sendIrq v).trust = s.trust := rfl
@[simp] theorem State.sendIrq_freeCtr (s : State) (v : Nat) : (s.sendIrq v).freeCtr = s.freeCtr := rfl
@[simp] theorem State.sendIrq_pending (s : State) (v : Nat) : (s.sendIrq v).pending = s.pending := rfl

@[simp] theorem State.answer_fitted (s : State) (bs : List Byte) : (s.answer bs).fitted = s.fitted := rfl
@[simp] theorem State.answer_regs (s : State) (bs : List Byte) : (s.answer bs).regs = s.regs := rfl
@[simp] theorem State.answer_counters (s : State) (bs : List Byte) : (s.answer bs).counters = s.counters := rfl
@[simp] theorem State.answer_coarse (s : State) (bs : List Byte) : (s.answer bs).coarse = s.coarse := rfl
@[simp] theorem State.answer_latch (s : State) (bs : List Byte) : (s.answer bs).latch = s.latch := rfl
@[simp] theorem State.answer_held (s : State) (bs : List Byte) : (s.answer bs).held = s.held := rfl
@[simp] theorem State.answer_time (s : State) (bs : List Byte) : (s.answer bs).time = s.time := rfl
@[simp] theorem State.answer_seq (s : State) (bs : List Byte) : (s.answer bs).seq = s.seq := rfl
@[simp] theorem State.answer_seqReported (s : State) (bs : List Byte) : (s.answer bs).seqReported = s.seqReported := rfl
@[simp] theorem State.answer_events (s : State) (bs : List Byte) : (s.answer bs).events = s.events := rfl
@[simp] theorem State.answer_mem (s : State) (bs : List Byte) : (s.answer bs).mem = s.mem := rfl
@[simp] theorem State.answer_staging (s : State) (bs : List Byte) : (s.answer bs).staging = s.staging := rfl
@[simp] theorem State.answer_neg (s : State) (bs : List Byte) : (s.answer bs).neg = s.neg := rfl
@[simp] theorem State.answer_tags (s : State) (bs : List Byte) : (s.answer bs).tags = s.tags := rfl
@[simp] theorem State.answer_negTags (s : State) (bs : List Byte) : (s.answer bs).negTags = s.negTags := rfl
@[simp] theorem State.answer_rings (s : State) (bs : List Byte) : (s.answer bs).rings = s.rings := rfl
@[simp] theorem State.answer_pools (s : State) (bs : List Byte) : (s.answer bs).pools = s.pools := rfl
@[simp] theorem State.answer_plans (s : State) (bs : List Byte) : (s.answer bs).plans = s.plans := rfl
@[simp] theorem State.answer_parts (s : State) (bs : List Byte) : (s.answer bs).parts = s.parts := rfl
@[simp] theorem State.answer_cores (s : State) (bs : List Byte) : (s.answer bs).cores = s.cores := rfl
@[simp] theorem State.answer_tokens (s : State) (bs : List Byte) : (s.answer bs).tokens = s.tokens := rfl
@[simp] theorem State.answer_credits (s : State) (bs : List Byte) : (s.answer bs).credits = s.credits := rfl
@[simp] theorem State.answer_layers (s : State) (bs : List Byte) : (s.answer bs).layers = s.layers := rfl
@[simp] theorem State.answer_shapes (s : State) (bs : List Byte) : (s.answer bs).shapes = s.shapes := rfl
@[simp] theorem State.answer_searches (s : State) (bs : List Byte) : (s.answer bs).searches = s.searches := rfl
@[simp] theorem State.answer_contexts (s : State) (bs : List Byte) : (s.answer bs).contexts = s.contexts := rfl
@[simp] theorem State.answer_pages (s : State) (bs : List Byte) : (s.answer bs).pages = s.pages := rfl
@[simp] theorem State.answer_devDraws (s : State) (bs : List Byte) : (s.answer bs).devDraws = s.devDraws := rfl
@[simp] theorem State.answer_devQueues (s : State) (bs : List Byte) : (s.answer bs).devQueues = s.devQueues := rfl
@[simp] theorem State.answer_ports (s : State) (bs : List Byte) : (s.answer bs).ports = s.ports := rfl
@[simp] theorem State.answer_tally (s : State) (bs : List Byte) : (s.answer bs).tally = s.tally := rfl
@[simp] theorem State.answer_rowsUsed (s : State) (bs : List Byte) : (s.answer bs).rowsUsed = s.rowsUsed := rfl
@[simp] theorem State.answer_retired (s : State) (bs : List Byte) : (s.answer bs).retired = s.retired := rfl
@[simp] theorem State.answer_stamped (s : State) (bs : List Byte) : (s.answer bs).stamped = s.stamped := rfl
@[simp] theorem State.answer_wards (s : State) (bs : List Byte) : (s.answer bs).wards = s.wards := rfl
@[simp] theorem State.answer_d2dDown (s : State) (bs : List Byte) : (s.answer bs).d2dDown = s.d2dDown := rfl
@[simp] theorem State.answer_intake (s : State) (bs : List Byte) : (s.answer bs).intake = s.intake := rfl
@[simp] theorem State.answer_power (s : State) (bs : List Byte) : (s.answer bs).power = s.power := rfl
@[simp] theorem State.answer_trust (s : State) (bs : List Byte) : (s.answer bs).trust = s.trust := rfl
@[simp] theorem State.answer_freeCtr (s : State) (bs : List Byte) : (s.answer bs).freeCtr = s.freeCtr := rfl
@[simp] theorem State.answer_pending (s : State) (bs : List Byte) : (s.answer bs).pending = s.pending := rfl

@[simp] theorem State.advanceTo_fitted (s : State) (t : Nat) : (s.advanceTo t).fitted = s.fitted := rfl
@[simp] theorem State.advanceTo_regs (s : State) (t : Nat) : (s.advanceTo t).regs = s.regs := rfl
@[simp] theorem State.advanceTo_counters (s : State) (t : Nat) : (s.advanceTo t).counters = s.counters := rfl
@[simp] theorem State.advanceTo_coarse (s : State) (t : Nat) : (s.advanceTo t).coarse = s.coarse := rfl
@[simp] theorem State.advanceTo_latch (s : State) (t : Nat) : (s.advanceTo t).latch = s.latch := rfl
@[simp] theorem State.advanceTo_held (s : State) (t : Nat) : (s.advanceTo t).held = s.held := rfl
@[simp] theorem State.advanceTo_seq (s : State) (t : Nat) : (s.advanceTo t).seq = s.seq := rfl
@[simp] theorem State.advanceTo_seqReported (s : State) (t : Nat) : (s.advanceTo t).seqReported = s.seqReported := rfl
@[simp] theorem State.advanceTo_events (s : State) (t : Nat) : (s.advanceTo t).events = s.events := rfl
@[simp] theorem State.advanceTo_mem (s : State) (t : Nat) : (s.advanceTo t).mem = s.mem := rfl
@[simp] theorem State.advanceTo_staging (s : State) (t : Nat) : (s.advanceTo t).staging = s.staging := rfl
@[simp] theorem State.advanceTo_neg (s : State) (t : Nat) : (s.advanceTo t).neg = s.neg := rfl
@[simp] theorem State.advanceTo_tags (s : State) (t : Nat) : (s.advanceTo t).tags = s.tags := rfl
@[simp] theorem State.advanceTo_negTags (s : State) (t : Nat) : (s.advanceTo t).negTags = s.negTags := rfl
@[simp] theorem State.advanceTo_rings (s : State) (t : Nat) : (s.advanceTo t).rings = s.rings := rfl
@[simp] theorem State.advanceTo_pools (s : State) (t : Nat) : (s.advanceTo t).pools = s.pools := rfl
@[simp] theorem State.advanceTo_plans (s : State) (t : Nat) : (s.advanceTo t).plans = s.plans := rfl
@[simp] theorem State.advanceTo_parts (s : State) (t : Nat) : (s.advanceTo t).parts = s.parts := rfl
@[simp] theorem State.advanceTo_cores (s : State) (t : Nat) : (s.advanceTo t).cores = s.cores := rfl
@[simp] theorem State.advanceTo_tokens (s : State) (t : Nat) : (s.advanceTo t).tokens = s.tokens := rfl
@[simp] theorem State.advanceTo_credits (s : State) (t : Nat) : (s.advanceTo t).credits = s.credits := rfl
@[simp] theorem State.advanceTo_layers (s : State) (t : Nat) : (s.advanceTo t).layers = s.layers := rfl
@[simp] theorem State.advanceTo_shapes (s : State) (t : Nat) : (s.advanceTo t).shapes = s.shapes := rfl
@[simp] theorem State.advanceTo_searches (s : State) (t : Nat) : (s.advanceTo t).searches = s.searches := rfl
@[simp] theorem State.advanceTo_contexts (s : State) (t : Nat) : (s.advanceTo t).contexts = s.contexts := rfl
@[simp] theorem State.advanceTo_pages (s : State) (t : Nat) : (s.advanceTo t).pages = s.pages := rfl
@[simp] theorem State.advanceTo_devDraws (s : State) (t : Nat) : (s.advanceTo t).devDraws = s.devDraws := rfl
@[simp] theorem State.advanceTo_devQueues (s : State) (t : Nat) : (s.advanceTo t).devQueues = s.devQueues := rfl
@[simp] theorem State.advanceTo_ports (s : State) (t : Nat) : (s.advanceTo t).ports = s.ports := rfl
@[simp] theorem State.advanceTo_tally (s : State) (t : Nat) : (s.advanceTo t).tally = s.tally := rfl
@[simp] theorem State.advanceTo_rowsUsed (s : State) (t : Nat) : (s.advanceTo t).rowsUsed = s.rowsUsed := rfl
@[simp] theorem State.advanceTo_retired (s : State) (t : Nat) : (s.advanceTo t).retired = s.retired := rfl
@[simp] theorem State.advanceTo_stamped (s : State) (t : Nat) : (s.advanceTo t).stamped = s.stamped := rfl
@[simp] theorem State.advanceTo_wards (s : State) (t : Nat) : (s.advanceTo t).wards = s.wards := rfl
@[simp] theorem State.advanceTo_d2dDown (s : State) (t : Nat) : (s.advanceTo t).d2dDown = s.d2dDown := rfl
@[simp] theorem State.advanceTo_intake (s : State) (t : Nat) : (s.advanceTo t).intake = s.intake := rfl
@[simp] theorem State.advanceTo_power (s : State) (t : Nat) : (s.advanceTo t).power = s.power := rfl
@[simp] theorem State.advanceTo_trust (s : State) (t : Nat) : (s.advanceTo t).trust = s.trust := rfl
@[simp] theorem State.advanceTo_out (s : State) (t : Nat) : (s.advanceTo t).out = s.out := rfl
@[simp] theorem State.advanceTo_freeCtr (s : State) (t : Nat) : (s.advanceTo t).freeCtr = s.freeCtr := rfl
@[simp] theorem State.advanceTo_pending (s : State) (t : Nat) : (s.advanceTo t).pending = s.pending := rfl

@[simp] theorem State.toPath_fitted (s : State) (r : PathRec) : (s.toPath r).fitted = s.fitted := rfl
@[simp] theorem State.toPath_regs (s : State) (r : PathRec) : (s.toPath r).regs = s.regs := rfl
@[simp] theorem State.toPath_counters (s : State) (r : PathRec) : (s.toPath r).counters = s.counters := rfl
@[simp] theorem State.toPath_coarse (s : State) (r : PathRec) : (s.toPath r).coarse = s.coarse := rfl
@[simp] theorem State.toPath_latch (s : State) (r : PathRec) : (s.toPath r).latch = s.latch := rfl
@[simp] theorem State.toPath_held (s : State) (r : PathRec) : (s.toPath r).held = s.held := rfl
@[simp] theorem State.toPath_time (s : State) (r : PathRec) : (s.toPath r).time = s.time := rfl
@[simp] theorem State.toPath_seq (s : State) (r : PathRec) : (s.toPath r).seq = s.seq := rfl
@[simp] theorem State.toPath_seqReported (s : State) (r : PathRec) : (s.toPath r).seqReported = s.seqReported := rfl
@[simp] theorem State.toPath_mem (s : State) (r : PathRec) : (s.toPath r).mem = s.mem := rfl
@[simp] theorem State.toPath_staging (s : State) (r : PathRec) : (s.toPath r).staging = s.staging := rfl
@[simp] theorem State.toPath_neg (s : State) (r : PathRec) : (s.toPath r).neg = s.neg := rfl
@[simp] theorem State.toPath_tags (s : State) (r : PathRec) : (s.toPath r).tags = s.tags := rfl
@[simp] theorem State.toPath_negTags (s : State) (r : PathRec) : (s.toPath r).negTags = s.negTags := rfl
@[simp] theorem State.toPath_rings (s : State) (r : PathRec) : (s.toPath r).rings = s.rings := rfl
@[simp] theorem State.toPath_pools (s : State) (r : PathRec) : (s.toPath r).pools = s.pools := rfl
@[simp] theorem State.toPath_plans (s : State) (r : PathRec) : (s.toPath r).plans = s.plans := rfl
@[simp] theorem State.toPath_parts (s : State) (r : PathRec) : (s.toPath r).parts = s.parts := rfl
@[simp] theorem State.toPath_cores (s : State) (r : PathRec) : (s.toPath r).cores = s.cores := rfl
@[simp] theorem State.toPath_tokens (s : State) (r : PathRec) : (s.toPath r).tokens = s.tokens := rfl
@[simp] theorem State.toPath_credits (s : State) (r : PathRec) : (s.toPath r).credits = s.credits := rfl
@[simp] theorem State.toPath_layers (s : State) (r : PathRec) : (s.toPath r).layers = s.layers := rfl
@[simp] theorem State.toPath_shapes (s : State) (r : PathRec) : (s.toPath r).shapes = s.shapes := rfl
@[simp] theorem State.toPath_searches (s : State) (r : PathRec) : (s.toPath r).searches = s.searches := rfl
@[simp] theorem State.toPath_contexts (s : State) (r : PathRec) : (s.toPath r).contexts = s.contexts := rfl
@[simp] theorem State.toPath_pages (s : State) (r : PathRec) : (s.toPath r).pages = s.pages := rfl
@[simp] theorem State.toPath_devDraws (s : State) (r : PathRec) : (s.toPath r).devDraws = s.devDraws := rfl
@[simp] theorem State.toPath_devQueues (s : State) (r : PathRec) : (s.toPath r).devQueues = s.devQueues := rfl
@[simp] theorem State.toPath_ports (s : State) (r : PathRec) : (s.toPath r).ports = s.ports := rfl
@[simp] theorem State.toPath_tally (s : State) (r : PathRec) : (s.toPath r).tally = s.tally := rfl
@[simp] theorem State.toPath_rowsUsed (s : State) (r : PathRec) : (s.toPath r).rowsUsed = s.rowsUsed := rfl
@[simp] theorem State.toPath_retired (s : State) (r : PathRec) : (s.toPath r).retired = s.retired := rfl
@[simp] theorem State.toPath_stamped (s : State) (r : PathRec) : (s.toPath r).stamped = s.stamped := rfl
@[simp] theorem State.toPath_wards (s : State) (r : PathRec) : (s.toPath r).wards = s.wards := rfl
@[simp] theorem State.toPath_d2dDown (s : State) (r : PathRec) : (s.toPath r).d2dDown = s.d2dDown := rfl
@[simp] theorem State.toPath_intake (s : State) (r : PathRec) : (s.toPath r).intake = s.intake := rfl
@[simp] theorem State.toPath_power (s : State) (r : PathRec) : (s.toPath r).power = s.power := rfl
@[simp] theorem State.toPath_trust (s : State) (r : PathRec) : (s.toPath r).trust = s.trust := rfl
@[simp] theorem State.toPath_out (s : State) (r : PathRec) : (s.toPath r).out = s.out := rfl
@[simp] theorem State.toPath_freeCtr (s : State) (r : PathRec) : (s.toPath r).freeCtr = s.freeCtr := rfl
@[simp] theorem State.toPath_pending (s : State) (r : PathRec) : (s.toPath r).pending = s.pending := rfl

@[simp] theorem State.rawHbm_fitted (s : State) (a : Nat) (bs : List Byte) : (s.rawHbm a bs).fitted = s.fitted := rfl
@[simp] theorem State.rawHbm_regs (s : State) (a : Nat) (bs : List Byte) : (s.rawHbm a bs).regs = s.regs := rfl
@[simp] theorem State.rawHbm_counters (s : State) (a : Nat) (bs : List Byte) : (s.rawHbm a bs).counters = s.counters := rfl
@[simp] theorem State.rawHbm_coarse (s : State) (a : Nat) (bs : List Byte) : (s.rawHbm a bs).coarse = s.coarse := rfl
@[simp] theorem State.rawHbm_latch (s : State) (a : Nat) (bs : List Byte) : (s.rawHbm a bs).latch = s.latch := rfl
@[simp] theorem State.rawHbm_held (s : State) (a : Nat) (bs : List Byte) : (s.rawHbm a bs).held = s.held := rfl
@[simp] theorem State.rawHbm_time (s : State) (a : Nat) (bs : List Byte) : (s.rawHbm a bs).time = s.time := rfl
@[simp] theorem State.rawHbm_seq (s : State) (a : Nat) (bs : List Byte) : (s.rawHbm a bs).seq = s.seq := rfl
@[simp] theorem State.rawHbm_seqReported (s : State) (a : Nat) (bs : List Byte) : (s.rawHbm a bs).seqReported = s.seqReported := rfl
@[simp] theorem State.rawHbm_events (s : State) (a : Nat) (bs : List Byte) : (s.rawHbm a bs).events = s.events := rfl
@[simp] theorem State.rawHbm_staging (s : State) (a : Nat) (bs : List Byte) : (s.rawHbm a bs).staging = s.staging := rfl
@[simp] theorem State.rawHbm_neg (s : State) (a : Nat) (bs : List Byte) : (s.rawHbm a bs).neg = s.neg := rfl
@[simp] theorem State.rawHbm_negTags (s : State) (a : Nat) (bs : List Byte) : (s.rawHbm a bs).negTags = s.negTags := rfl
@[simp] theorem State.rawHbm_rings (s : State) (a : Nat) (bs : List Byte) : (s.rawHbm a bs).rings = s.rings := rfl
@[simp] theorem State.rawHbm_pools (s : State) (a : Nat) (bs : List Byte) : (s.rawHbm a bs).pools = s.pools := rfl
@[simp] theorem State.rawHbm_plans (s : State) (a : Nat) (bs : List Byte) : (s.rawHbm a bs).plans = s.plans := rfl
@[simp] theorem State.rawHbm_parts (s : State) (a : Nat) (bs : List Byte) : (s.rawHbm a bs).parts = s.parts := rfl
@[simp] theorem State.rawHbm_cores (s : State) (a : Nat) (bs : List Byte) : (s.rawHbm a bs).cores = s.cores := rfl
@[simp] theorem State.rawHbm_tokens (s : State) (a : Nat) (bs : List Byte) : (s.rawHbm a bs).tokens = s.tokens := rfl
@[simp] theorem State.rawHbm_credits (s : State) (a : Nat) (bs : List Byte) : (s.rawHbm a bs).credits = s.credits := rfl
@[simp] theorem State.rawHbm_layers (s : State) (a : Nat) (bs : List Byte) : (s.rawHbm a bs).layers = s.layers := rfl
@[simp] theorem State.rawHbm_shapes (s : State) (a : Nat) (bs : List Byte) : (s.rawHbm a bs).shapes = s.shapes := rfl
@[simp] theorem State.rawHbm_searches (s : State) (a : Nat) (bs : List Byte) : (s.rawHbm a bs).searches = s.searches := rfl
@[simp] theorem State.rawHbm_contexts (s : State) (a : Nat) (bs : List Byte) : (s.rawHbm a bs).contexts = s.contexts := rfl
@[simp] theorem State.rawHbm_pages (s : State) (a : Nat) (bs : List Byte) : (s.rawHbm a bs).pages = s.pages := rfl
@[simp] theorem State.rawHbm_devDraws (s : State) (a : Nat) (bs : List Byte) : (s.rawHbm a bs).devDraws = s.devDraws := rfl
@[simp] theorem State.rawHbm_devQueues (s : State) (a : Nat) (bs : List Byte) : (s.rawHbm a bs).devQueues = s.devQueues := rfl
@[simp] theorem State.rawHbm_ports (s : State) (a : Nat) (bs : List Byte) : (s.rawHbm a bs).ports = s.ports := rfl
@[simp] theorem State.rawHbm_tally (s : State) (a : Nat) (bs : List Byte) : (s.rawHbm a bs).tally = s.tally := rfl
@[simp] theorem State.rawHbm_rowsUsed (s : State) (a : Nat) (bs : List Byte) : (s.rawHbm a bs).rowsUsed = s.rowsUsed := rfl
@[simp] theorem State.rawHbm_retired (s : State) (a : Nat) (bs : List Byte) : (s.rawHbm a bs).retired = s.retired := rfl
@[simp] theorem State.rawHbm_stamped (s : State) (a : Nat) (bs : List Byte) : (s.rawHbm a bs).stamped = s.stamped := rfl
@[simp] theorem State.rawHbm_wards (s : State) (a : Nat) (bs : List Byte) : (s.rawHbm a bs).wards = s.wards := rfl
@[simp] theorem State.rawHbm_d2dDown (s : State) (a : Nat) (bs : List Byte) : (s.rawHbm a bs).d2dDown = s.d2dDown := rfl
@[simp] theorem State.rawHbm_intake (s : State) (a : Nat) (bs : List Byte) : (s.rawHbm a bs).intake = s.intake := rfl
@[simp] theorem State.rawHbm_power (s : State) (a : Nat) (bs : List Byte) : (s.rawHbm a bs).power = s.power := rfl
@[simp] theorem State.rawHbm_trust (s : State) (a : Nat) (bs : List Byte) : (s.rawHbm a bs).trust = s.trust := rfl
@[simp] theorem State.rawHbm_out (s : State) (a : Nat) (bs : List Byte) : (s.rawHbm a bs).out = s.out := rfl
@[simp] theorem State.rawHbm_freeCtr (s : State) (a : Nat) (bs : List Byte) : (s.rawHbm a bs).freeCtr = s.freeCtr := rfl
@[simp] theorem State.rawHbm_pending (s : State) (a : Nat) (bs : List Byte) : (s.rawHbm a bs).pending = s.pending := rfl

@[simp] theorem State.writeHbm_fitted (s : State) (p a : Nat) (bs : List Byte) : (s.writeHbm p a bs).fitted = s.fitted := rfl
@[simp] theorem State.writeHbm_regs (s : State) (p a : Nat) (bs : List Byte) : (s.writeHbm p a bs).regs = s.regs := rfl
@[simp] theorem State.writeHbm_counters (s : State) (p a : Nat) (bs : List Byte) : (s.writeHbm p a bs).counters = s.counters := rfl
@[simp] theorem State.writeHbm_coarse (s : State) (p a : Nat) (bs : List Byte) : (s.writeHbm p a bs).coarse = s.coarse := rfl
@[simp] theorem State.writeHbm_latch (s : State) (p a : Nat) (bs : List Byte) : (s.writeHbm p a bs).latch = s.latch := rfl
@[simp] theorem State.writeHbm_held (s : State) (p a : Nat) (bs : List Byte) : (s.writeHbm p a bs).held = s.held := rfl
@[simp] theorem State.writeHbm_time (s : State) (p a : Nat) (bs : List Byte) : (s.writeHbm p a bs).time = s.time := rfl
@[simp] theorem State.writeHbm_seq (s : State) (p a : Nat) (bs : List Byte) : (s.writeHbm p a bs).seq = s.seq := rfl
@[simp] theorem State.writeHbm_seqReported (s : State) (p a : Nat) (bs : List Byte) : (s.writeHbm p a bs).seqReported = s.seqReported := rfl
@[simp] theorem State.writeHbm_events (s : State) (p a : Nat) (bs : List Byte) : (s.writeHbm p a bs).events = s.events := rfl
@[simp] theorem State.writeHbm_staging (s : State) (p a : Nat) (bs : List Byte) : (s.writeHbm p a bs).staging = s.staging := rfl
@[simp] theorem State.writeHbm_neg (s : State) (p a : Nat) (bs : List Byte) : (s.writeHbm p a bs).neg = s.neg := rfl
@[simp] theorem State.writeHbm_negTags (s : State) (p a : Nat) (bs : List Byte) : (s.writeHbm p a bs).negTags = s.negTags := rfl
@[simp] theorem State.writeHbm_rings (s : State) (p a : Nat) (bs : List Byte) : (s.writeHbm p a bs).rings = s.rings := rfl
@[simp] theorem State.writeHbm_pools (s : State) (p a : Nat) (bs : List Byte) : (s.writeHbm p a bs).pools = s.pools := rfl
@[simp] theorem State.writeHbm_plans (s : State) (p a : Nat) (bs : List Byte) : (s.writeHbm p a bs).plans = s.plans := rfl
@[simp] theorem State.writeHbm_parts (s : State) (p a : Nat) (bs : List Byte) : (s.writeHbm p a bs).parts = s.parts := rfl
@[simp] theorem State.writeHbm_cores (s : State) (p a : Nat) (bs : List Byte) : (s.writeHbm p a bs).cores = s.cores := rfl
@[simp] theorem State.writeHbm_tokens (s : State) (p a : Nat) (bs : List Byte) : (s.writeHbm p a bs).tokens = s.tokens := rfl
@[simp] theorem State.writeHbm_credits (s : State) (p a : Nat) (bs : List Byte) : (s.writeHbm p a bs).credits = s.credits := rfl
@[simp] theorem State.writeHbm_layers (s : State) (p a : Nat) (bs : List Byte) : (s.writeHbm p a bs).layers = s.layers := rfl
@[simp] theorem State.writeHbm_shapes (s : State) (p a : Nat) (bs : List Byte) : (s.writeHbm p a bs).shapes = s.shapes := rfl
@[simp] theorem State.writeHbm_searches (s : State) (p a : Nat) (bs : List Byte) : (s.writeHbm p a bs).searches = s.searches := rfl
@[simp] theorem State.writeHbm_contexts (s : State) (p a : Nat) (bs : List Byte) : (s.writeHbm p a bs).contexts = s.contexts := rfl
@[simp] theorem State.writeHbm_pages (s : State) (p a : Nat) (bs : List Byte) : (s.writeHbm p a bs).pages = s.pages := rfl
@[simp] theorem State.writeHbm_devDraws (s : State) (p a : Nat) (bs : List Byte) : (s.writeHbm p a bs).devDraws = s.devDraws := rfl
@[simp] theorem State.writeHbm_devQueues (s : State) (p a : Nat) (bs : List Byte) : (s.writeHbm p a bs).devQueues = s.devQueues := rfl
@[simp] theorem State.writeHbm_ports (s : State) (p a : Nat) (bs : List Byte) : (s.writeHbm p a bs).ports = s.ports := rfl
@[simp] theorem State.writeHbm_tally (s : State) (p a : Nat) (bs : List Byte) : (s.writeHbm p a bs).tally = s.tally := rfl
@[simp] theorem State.writeHbm_rowsUsed (s : State) (p a : Nat) (bs : List Byte) : (s.writeHbm p a bs).rowsUsed = s.rowsUsed := rfl
@[simp] theorem State.writeHbm_retired (s : State) (p a : Nat) (bs : List Byte) : (s.writeHbm p a bs).retired = s.retired := rfl
@[simp] theorem State.writeHbm_stamped (s : State) (p a : Nat) (bs : List Byte) : (s.writeHbm p a bs).stamped = s.stamped := rfl
@[simp] theorem State.writeHbm_wards (s : State) (p a : Nat) (bs : List Byte) : (s.writeHbm p a bs).wards = s.wards := rfl
@[simp] theorem State.writeHbm_d2dDown (s : State) (p a : Nat) (bs : List Byte) : (s.writeHbm p a bs).d2dDown = s.d2dDown := rfl
@[simp] theorem State.writeHbm_intake (s : State) (p a : Nat) (bs : List Byte) : (s.writeHbm p a bs).intake = s.intake := rfl
@[simp] theorem State.writeHbm_power (s : State) (p a : Nat) (bs : List Byte) : (s.writeHbm p a bs).power = s.power := rfl
@[simp] theorem State.writeHbm_trust (s : State) (p a : Nat) (bs : List Byte) : (s.writeHbm p a bs).trust = s.trust := rfl
@[simp] theorem State.writeHbm_out (s : State) (p a : Nat) (bs : List Byte) : (s.writeHbm p a bs).out = s.out := rfl
@[simp] theorem State.writeHbm_freeCtr (s : State) (p a : Nat) (bs : List Byte) : (s.writeHbm p a bs).freeCtr = s.freeCtr := rfl
@[simp] theorem State.writeHbm_pending (s : State) (p a : Nat) (bs : List Byte) : (s.writeHbm p a bs).pending = s.pending := rfl

@[simp] theorem State.writeWin_fitted (s : State) (p a : Nat) (bs : List Byte) : (s.writeWin p a bs).fitted = s.fitted := rfl
@[simp] theorem State.writeWin_regs (s : State) (p a : Nat) (bs : List Byte) : (s.writeWin p a bs).regs = s.regs := rfl
@[simp] theorem State.writeWin_counters (s : State) (p a : Nat) (bs : List Byte) : (s.writeWin p a bs).counters = s.counters := rfl
@[simp] theorem State.writeWin_coarse (s : State) (p a : Nat) (bs : List Byte) : (s.writeWin p a bs).coarse = s.coarse := rfl
@[simp] theorem State.writeWin_latch (s : State) (p a : Nat) (bs : List Byte) : (s.writeWin p a bs).latch = s.latch := rfl
@[simp] theorem State.writeWin_held (s : State) (p a : Nat) (bs : List Byte) : (s.writeWin p a bs).held = s.held := rfl
@[simp] theorem State.writeWin_time (s : State) (p a : Nat) (bs : List Byte) : (s.writeWin p a bs).time = s.time := rfl
@[simp] theorem State.writeWin_seq (s : State) (p a : Nat) (bs : List Byte) : (s.writeWin p a bs).seq = s.seq := rfl
@[simp] theorem State.writeWin_seqReported (s : State) (p a : Nat) (bs : List Byte) : (s.writeWin p a bs).seqReported = s.seqReported := rfl
@[simp] theorem State.writeWin_events (s : State) (p a : Nat) (bs : List Byte) : (s.writeWin p a bs).events = s.events := rfl
@[simp] theorem State.writeWin_staging (s : State) (p a : Nat) (bs : List Byte) : (s.writeWin p a bs).staging = s.staging := rfl
@[simp] theorem State.writeWin_neg (s : State) (p a : Nat) (bs : List Byte) : (s.writeWin p a bs).neg = s.neg := rfl
@[simp] theorem State.writeWin_negTags (s : State) (p a : Nat) (bs : List Byte) : (s.writeWin p a bs).negTags = s.negTags := rfl
@[simp] theorem State.writeWin_rings (s : State) (p a : Nat) (bs : List Byte) : (s.writeWin p a bs).rings = s.rings := rfl
@[simp] theorem State.writeWin_pools (s : State) (p a : Nat) (bs : List Byte) : (s.writeWin p a bs).pools = s.pools := rfl
@[simp] theorem State.writeWin_plans (s : State) (p a : Nat) (bs : List Byte) : (s.writeWin p a bs).plans = s.plans := rfl
@[simp] theorem State.writeWin_parts (s : State) (p a : Nat) (bs : List Byte) : (s.writeWin p a bs).parts = s.parts := rfl
@[simp] theorem State.writeWin_cores (s : State) (p a : Nat) (bs : List Byte) : (s.writeWin p a bs).cores = s.cores := rfl
@[simp] theorem State.writeWin_tokens (s : State) (p a : Nat) (bs : List Byte) : (s.writeWin p a bs).tokens = s.tokens := rfl
@[simp] theorem State.writeWin_credits (s : State) (p a : Nat) (bs : List Byte) : (s.writeWin p a bs).credits = s.credits := rfl
@[simp] theorem State.writeWin_layers (s : State) (p a : Nat) (bs : List Byte) : (s.writeWin p a bs).layers = s.layers := rfl
@[simp] theorem State.writeWin_shapes (s : State) (p a : Nat) (bs : List Byte) : (s.writeWin p a bs).shapes = s.shapes := rfl
@[simp] theorem State.writeWin_searches (s : State) (p a : Nat) (bs : List Byte) : (s.writeWin p a bs).searches = s.searches := rfl
@[simp] theorem State.writeWin_contexts (s : State) (p a : Nat) (bs : List Byte) : (s.writeWin p a bs).contexts = s.contexts := rfl
@[simp] theorem State.writeWin_pages (s : State) (p a : Nat) (bs : List Byte) : (s.writeWin p a bs).pages = s.pages := rfl
@[simp] theorem State.writeWin_devDraws (s : State) (p a : Nat) (bs : List Byte) : (s.writeWin p a bs).devDraws = s.devDraws := rfl
@[simp] theorem State.writeWin_devQueues (s : State) (p a : Nat) (bs : List Byte) : (s.writeWin p a bs).devQueues = s.devQueues := rfl
@[simp] theorem State.writeWin_ports (s : State) (p a : Nat) (bs : List Byte) : (s.writeWin p a bs).ports = s.ports := rfl
@[simp] theorem State.writeWin_tally (s : State) (p a : Nat) (bs : List Byte) : (s.writeWin p a bs).tally = s.tally := rfl
@[simp] theorem State.writeWin_rowsUsed (s : State) (p a : Nat) (bs : List Byte) : (s.writeWin p a bs).rowsUsed = s.rowsUsed := rfl
@[simp] theorem State.writeWin_retired (s : State) (p a : Nat) (bs : List Byte) : (s.writeWin p a bs).retired = s.retired := rfl
@[simp] theorem State.writeWin_stamped (s : State) (p a : Nat) (bs : List Byte) : (s.writeWin p a bs).stamped = s.stamped := rfl
@[simp] theorem State.writeWin_wards (s : State) (p a : Nat) (bs : List Byte) : (s.writeWin p a bs).wards = s.wards := rfl
@[simp] theorem State.writeWin_d2dDown (s : State) (p a : Nat) (bs : List Byte) : (s.writeWin p a bs).d2dDown = s.d2dDown := rfl
@[simp] theorem State.writeWin_intake (s : State) (p a : Nat) (bs : List Byte) : (s.writeWin p a bs).intake = s.intake := rfl
@[simp] theorem State.writeWin_power (s : State) (p a : Nat) (bs : List Byte) : (s.writeWin p a bs).power = s.power := rfl
@[simp] theorem State.writeWin_trust (s : State) (p a : Nat) (bs : List Byte) : (s.writeWin p a bs).trust = s.trust := rfl
@[simp] theorem State.writeWin_out (s : State) (p a : Nat) (bs : List Byte) : (s.writeWin p a bs).out = s.out := rfl
@[simp] theorem State.writeWin_freeCtr (s : State) (p a : Nat) (bs : List Byte) : (s.writeWin p a bs).freeCtr = s.freeCtr := rfl
@[simp] theorem State.writeWin_pending (s : State) (p a : Nat) (bs : List Byte) : (s.writeWin p a bs).pending = s.pending := rfl

@[simp] theorem State.setSeqSaturated_fitted (s : State) : (s.setSeqSaturated ).fitted = s.fitted := rfl
@[simp] theorem State.setSeqSaturated_counters (s : State) : (s.setSeqSaturated ).counters = s.counters := rfl
@[simp] theorem State.setSeqSaturated_coarse (s : State) : (s.setSeqSaturated ).coarse = s.coarse := rfl
@[simp] theorem State.setSeqSaturated_latch (s : State) : (s.setSeqSaturated ).latch = s.latch := rfl
@[simp] theorem State.setSeqSaturated_held (s : State) : (s.setSeqSaturated ).held = s.held := rfl
@[simp] theorem State.setSeqSaturated_time (s : State) : (s.setSeqSaturated ).time = s.time := rfl
@[simp] theorem State.setSeqSaturated_seq (s : State) : (s.setSeqSaturated ).seq = s.seq := rfl
@[simp] theorem State.setSeqSaturated_seqReported (s : State) : (s.setSeqSaturated ).seqReported = s.seqReported := rfl
@[simp] theorem State.setSeqSaturated_events (s : State) : (s.setSeqSaturated ).events = s.events := rfl
@[simp] theorem State.setSeqSaturated_mem (s : State) : (s.setSeqSaturated ).mem = s.mem := rfl
@[simp] theorem State.setSeqSaturated_staging (s : State) : (s.setSeqSaturated ).staging = s.staging := rfl
@[simp] theorem State.setSeqSaturated_neg (s : State) : (s.setSeqSaturated ).neg = s.neg := rfl
@[simp] theorem State.setSeqSaturated_tags (s : State) : (s.setSeqSaturated ).tags = s.tags := rfl
@[simp] theorem State.setSeqSaturated_negTags (s : State) : (s.setSeqSaturated ).negTags = s.negTags := rfl
@[simp] theorem State.setSeqSaturated_rings (s : State) : (s.setSeqSaturated ).rings = s.rings := rfl
@[simp] theorem State.setSeqSaturated_pools (s : State) : (s.setSeqSaturated ).pools = s.pools := rfl
@[simp] theorem State.setSeqSaturated_plans (s : State) : (s.setSeqSaturated ).plans = s.plans := rfl
@[simp] theorem State.setSeqSaturated_parts (s : State) : (s.setSeqSaturated ).parts = s.parts := rfl
@[simp] theorem State.setSeqSaturated_cores (s : State) : (s.setSeqSaturated ).cores = s.cores := rfl
@[simp] theorem State.setSeqSaturated_tokens (s : State) : (s.setSeqSaturated ).tokens = s.tokens := rfl
@[simp] theorem State.setSeqSaturated_credits (s : State) : (s.setSeqSaturated ).credits = s.credits := rfl
@[simp] theorem State.setSeqSaturated_layers (s : State) : (s.setSeqSaturated ).layers = s.layers := rfl
@[simp] theorem State.setSeqSaturated_shapes (s : State) : (s.setSeqSaturated ).shapes = s.shapes := rfl
@[simp] theorem State.setSeqSaturated_searches (s : State) : (s.setSeqSaturated ).searches = s.searches := rfl
@[simp] theorem State.setSeqSaturated_contexts (s : State) : (s.setSeqSaturated ).contexts = s.contexts := rfl
@[simp] theorem State.setSeqSaturated_pages (s : State) : (s.setSeqSaturated ).pages = s.pages := rfl
@[simp] theorem State.setSeqSaturated_devDraws (s : State) : (s.setSeqSaturated ).devDraws = s.devDraws := rfl
@[simp] theorem State.setSeqSaturated_devQueues (s : State) : (s.setSeqSaturated ).devQueues = s.devQueues := rfl
@[simp] theorem State.setSeqSaturated_ports (s : State) : (s.setSeqSaturated ).ports = s.ports := rfl
@[simp] theorem State.setSeqSaturated_tally (s : State) : (s.setSeqSaturated ).tally = s.tally := rfl
@[simp] theorem State.setSeqSaturated_rowsUsed (s : State) : (s.setSeqSaturated ).rowsUsed = s.rowsUsed := rfl
@[simp] theorem State.setSeqSaturated_retired (s : State) : (s.setSeqSaturated ).retired = s.retired := rfl
@[simp] theorem State.setSeqSaturated_stamped (s : State) : (s.setSeqSaturated ).stamped = s.stamped := rfl
@[simp] theorem State.setSeqSaturated_wards (s : State) : (s.setSeqSaturated ).wards = s.wards := rfl
@[simp] theorem State.setSeqSaturated_d2dDown (s : State) : (s.setSeqSaturated ).d2dDown = s.d2dDown := rfl
@[simp] theorem State.setSeqSaturated_intake (s : State) : (s.setSeqSaturated ).intake = s.intake := rfl
@[simp] theorem State.setSeqSaturated_power (s : State) : (s.setSeqSaturated ).power = s.power := rfl
@[simp] theorem State.setSeqSaturated_trust (s : State) : (s.setSeqSaturated ).trust = s.trust := rfl
@[simp] theorem State.setSeqSaturated_out (s : State) : (s.setSeqSaturated ).out = s.out := rfl
@[simp] theorem State.setSeqSaturated_freeCtr (s : State) : (s.setSeqSaturated ).freeCtr = s.freeCtr := rfl
@[simp] theorem State.setSeqSaturated_pending (s : State) : (s.setSeqSaturated ).pending = s.pending := rfl

@[simp] theorem State.stampUsed_fitted (s : State) : (s.stampUsed ).fitted = s.fitted := by
  unfold State.stampUsed
  split
  · rfl
  · split <;> rfl
@[simp] theorem State.stampUsed_counters (s : State) : (s.stampUsed ).counters = s.counters := by
  unfold State.stampUsed
  split
  · rfl
  · split <;> rfl
@[simp] theorem State.stampUsed_coarse (s : State) : (s.stampUsed ).coarse = s.coarse := by
  unfold State.stampUsed
  split
  · rfl
  · split <;> rfl
@[simp] theorem State.stampUsed_latch (s : State) : (s.stampUsed ).latch = s.latch := by
  unfold State.stampUsed
  split
  · rfl
  · split <;> rfl
@[simp] theorem State.stampUsed_held (s : State) : (s.stampUsed ).held = s.held := by
  unfold State.stampUsed
  split
  · rfl
  · split <;> rfl
@[simp] theorem State.stampUsed_time (s : State) : (s.stampUsed ).time = s.time := by
  unfold State.stampUsed
  split
  · rfl
  · split <;> rfl
@[simp] theorem State.stampUsed_mem (s : State) : (s.stampUsed ).mem = s.mem := by
  unfold State.stampUsed
  split
  · rfl
  · split <;> rfl
@[simp] theorem State.stampUsed_staging (s : State) : (s.stampUsed ).staging = s.staging := by
  unfold State.stampUsed
  split
  · rfl
  · split <;> rfl
@[simp] theorem State.stampUsed_neg (s : State) : (s.stampUsed ).neg = s.neg := by
  unfold State.stampUsed
  split
  · rfl
  · split <;> rfl
@[simp] theorem State.stampUsed_tags (s : State) : (s.stampUsed ).tags = s.tags := by
  unfold State.stampUsed
  split
  · rfl
  · split <;> rfl
@[simp] theorem State.stampUsed_negTags (s : State) : (s.stampUsed ).negTags = s.negTags := by
  unfold State.stampUsed
  split
  · rfl
  · split <;> rfl
@[simp] theorem State.stampUsed_rings (s : State) : (s.stampUsed ).rings = s.rings := by
  unfold State.stampUsed
  split
  · rfl
  · split <;> rfl
@[simp] theorem State.stampUsed_pools (s : State) : (s.stampUsed ).pools = s.pools := by
  unfold State.stampUsed
  split
  · rfl
  · split <;> rfl
@[simp] theorem State.stampUsed_plans (s : State) : (s.stampUsed ).plans = s.plans := by
  unfold State.stampUsed
  split
  · rfl
  · split <;> rfl
@[simp] theorem State.stampUsed_parts (s : State) : (s.stampUsed ).parts = s.parts := by
  unfold State.stampUsed
  split
  · rfl
  · split <;> rfl
@[simp] theorem State.stampUsed_cores (s : State) : (s.stampUsed ).cores = s.cores := by
  unfold State.stampUsed
  split
  · rfl
  · split <;> rfl
@[simp] theorem State.stampUsed_tokens (s : State) : (s.stampUsed ).tokens = s.tokens := by
  unfold State.stampUsed
  split
  · rfl
  · split <;> rfl
@[simp] theorem State.stampUsed_credits (s : State) : (s.stampUsed ).credits = s.credits := by
  unfold State.stampUsed
  split
  · rfl
  · split <;> rfl
@[simp] theorem State.stampUsed_layers (s : State) : (s.stampUsed ).layers = s.layers := by
  unfold State.stampUsed
  split
  · rfl
  · split <;> rfl
@[simp] theorem State.stampUsed_shapes (s : State) : (s.stampUsed ).shapes = s.shapes := by
  unfold State.stampUsed
  split
  · rfl
  · split <;> rfl
@[simp] theorem State.stampUsed_searches (s : State) : (s.stampUsed ).searches = s.searches := by
  unfold State.stampUsed
  split
  · rfl
  · split <;> rfl
@[simp] theorem State.stampUsed_contexts (s : State) : (s.stampUsed ).contexts = s.contexts := by
  unfold State.stampUsed
  split
  · rfl
  · split <;> rfl
@[simp] theorem State.stampUsed_pages (s : State) : (s.stampUsed ).pages = s.pages := by
  unfold State.stampUsed
  split
  · rfl
  · split <;> rfl
@[simp] theorem State.stampUsed_devDraws (s : State) : (s.stampUsed ).devDraws = s.devDraws := by
  unfold State.stampUsed
  split
  · rfl
  · split <;> rfl
@[simp] theorem State.stampUsed_devQueues (s : State) : (s.stampUsed ).devQueues = s.devQueues := by
  unfold State.stampUsed
  split
  · rfl
  · split <;> rfl
@[simp] theorem State.stampUsed_ports (s : State) : (s.stampUsed ).ports = s.ports := by
  unfold State.stampUsed
  split
  · rfl
  · split <;> rfl
@[simp] theorem State.stampUsed_tally (s : State) : (s.stampUsed ).tally = s.tally := by
  unfold State.stampUsed
  split
  · rfl
  · split <;> rfl
@[simp] theorem State.stampUsed_rowsUsed (s : State) : (s.stampUsed ).rowsUsed = s.rowsUsed := by
  unfold State.stampUsed
  split
  · rfl
  · split <;> rfl
@[simp] theorem State.stampUsed_retired (s : State) : (s.stampUsed ).retired = s.retired := by
  unfold State.stampUsed
  split
  · rfl
  · split <;> rfl
@[simp] theorem State.stampUsed_stamped (s : State) : (s.stampUsed ).stamped = s.stamped := by
  unfold State.stampUsed
  split
  · rfl
  · split <;> rfl
@[simp] theorem State.stampUsed_wards (s : State) : (s.stampUsed ).wards = s.wards := by
  unfold State.stampUsed
  split
  · rfl
  · split <;> rfl
@[simp] theorem State.stampUsed_d2dDown (s : State) : (s.stampUsed ).d2dDown = s.d2dDown := by
  unfold State.stampUsed
  split
  · rfl
  · split <;> rfl
@[simp] theorem State.stampUsed_intake (s : State) : (s.stampUsed ).intake = s.intake := by
  unfold State.stampUsed
  split
  · rfl
  · split <;> rfl
@[simp] theorem State.stampUsed_power (s : State) : (s.stampUsed ).power = s.power := by
  unfold State.stampUsed
  split
  · rfl
  · split <;> rfl
@[simp] theorem State.stampUsed_trust (s : State) : (s.stampUsed ).trust = s.trust := by
  unfold State.stampUsed
  split
  · rfl
  · split <;> rfl
@[simp] theorem State.stampUsed_out (s : State) : (s.stampUsed ).out = s.out := by
  unfold State.stampUsed
  split
  · rfl
  · split <;> rfl
@[simp] theorem State.stampUsed_freeCtr (s : State) : (s.stampUsed ).freeCtr = s.freeCtr := by
  unfold State.stampUsed
  split
  · rfl
  · split <;> rfl
@[simp] theorem State.stampUsed_pending (s : State) : (s.stampUsed ).pending = s.pending := by
  unfold State.stampUsed
  split
  · rfl
  · split <;> rfl

@[simp] theorem State.raiseFor_fitted (s : State) (c : Option Nat) (e : EvKind) (u : UnitId) (d : Detail) : (s.raiseFor c e u d).fitted = s.fitted := s.stampUsed_fitted
@[simp] theorem State.raiseFor_counters (s : State) (c : Option Nat) (e : EvKind) (u : UnitId) (d : Detail) : (s.raiseFor c e u d).counters = s.counters := s.stampUsed_counters
@[simp] theorem State.raiseFor_coarse (s : State) (c : Option Nat) (e : EvKind) (u : UnitId) (d : Detail) : (s.raiseFor c e u d).coarse = s.coarse := s.stampUsed_coarse
@[simp] theorem State.raiseFor_latch (s : State) (c : Option Nat) (e : EvKind) (u : UnitId) (d : Detail) : (s.raiseFor c e u d).latch = s.latch := s.stampUsed_latch
@[simp] theorem State.raiseFor_held (s : State) (c : Option Nat) (e : EvKind) (u : UnitId) (d : Detail) : (s.raiseFor c e u d).held = s.held := s.stampUsed_held
@[simp] theorem State.raiseFor_time (s : State) (c : Option Nat) (e : EvKind) (u : UnitId) (d : Detail) : (s.raiseFor c e u d).time = s.time := s.stampUsed_time
@[simp] theorem State.raiseFor_mem (s : State) (c : Option Nat) (e : EvKind) (u : UnitId) (d : Detail) : (s.raiseFor c e u d).mem = s.mem := s.stampUsed_mem
@[simp] theorem State.raiseFor_staging (s : State) (c : Option Nat) (e : EvKind) (u : UnitId) (d : Detail) : (s.raiseFor c e u d).staging = s.staging := s.stampUsed_staging
@[simp] theorem State.raiseFor_neg (s : State) (c : Option Nat) (e : EvKind) (u : UnitId) (d : Detail) : (s.raiseFor c e u d).neg = s.neg := s.stampUsed_neg
@[simp] theorem State.raiseFor_tags (s : State) (c : Option Nat) (e : EvKind) (u : UnitId) (d : Detail) : (s.raiseFor c e u d).tags = s.tags := s.stampUsed_tags
@[simp] theorem State.raiseFor_negTags (s : State) (c : Option Nat) (e : EvKind) (u : UnitId) (d : Detail) : (s.raiseFor c e u d).negTags = s.negTags := s.stampUsed_negTags
@[simp] theorem State.raiseFor_rings (s : State) (c : Option Nat) (e : EvKind) (u : UnitId) (d : Detail) : (s.raiseFor c e u d).rings = s.rings := s.stampUsed_rings
@[simp] theorem State.raiseFor_pools (s : State) (c : Option Nat) (e : EvKind) (u : UnitId) (d : Detail) : (s.raiseFor c e u d).pools = s.pools := s.stampUsed_pools
@[simp] theorem State.raiseFor_plans (s : State) (c : Option Nat) (e : EvKind) (u : UnitId) (d : Detail) : (s.raiseFor c e u d).plans = s.plans := s.stampUsed_plans
@[simp] theorem State.raiseFor_parts (s : State) (c : Option Nat) (e : EvKind) (u : UnitId) (d : Detail) : (s.raiseFor c e u d).parts = s.parts := s.stampUsed_parts
@[simp] theorem State.raiseFor_cores (s : State) (c : Option Nat) (e : EvKind) (u : UnitId) (d : Detail) : (s.raiseFor c e u d).cores = s.cores := s.stampUsed_cores
@[simp] theorem State.raiseFor_tokens (s : State) (c : Option Nat) (e : EvKind) (u : UnitId) (d : Detail) : (s.raiseFor c e u d).tokens = s.tokens := s.stampUsed_tokens
@[simp] theorem State.raiseFor_credits (s : State) (c : Option Nat) (e : EvKind) (u : UnitId) (d : Detail) : (s.raiseFor c e u d).credits = s.credits := s.stampUsed_credits
@[simp] theorem State.raiseFor_layers (s : State) (c : Option Nat) (e : EvKind) (u : UnitId) (d : Detail) : (s.raiseFor c e u d).layers = s.layers := s.stampUsed_layers
@[simp] theorem State.raiseFor_shapes (s : State) (c : Option Nat) (e : EvKind) (u : UnitId) (d : Detail) : (s.raiseFor c e u d).shapes = s.shapes := s.stampUsed_shapes
@[simp] theorem State.raiseFor_searches (s : State) (c : Option Nat) (e : EvKind) (u : UnitId) (d : Detail) : (s.raiseFor c e u d).searches = s.searches := s.stampUsed_searches
@[simp] theorem State.raiseFor_contexts (s : State) (c : Option Nat) (e : EvKind) (u : UnitId) (d : Detail) : (s.raiseFor c e u d).contexts = s.contexts := s.stampUsed_contexts
@[simp] theorem State.raiseFor_pages (s : State) (c : Option Nat) (e : EvKind) (u : UnitId) (d : Detail) : (s.raiseFor c e u d).pages = s.pages := s.stampUsed_pages
@[simp] theorem State.raiseFor_devDraws (s : State) (c : Option Nat) (e : EvKind) (u : UnitId) (d : Detail) : (s.raiseFor c e u d).devDraws = s.devDraws := s.stampUsed_devDraws
@[simp] theorem State.raiseFor_devQueues (s : State) (c : Option Nat) (e : EvKind) (u : UnitId) (d : Detail) : (s.raiseFor c e u d).devQueues = s.devQueues := s.stampUsed_devQueues
@[simp] theorem State.raiseFor_ports (s : State) (c : Option Nat) (e : EvKind) (u : UnitId) (d : Detail) : (s.raiseFor c e u d).ports = s.ports := s.stampUsed_ports
@[simp] theorem State.raiseFor_tally (s : State) (c : Option Nat) (e : EvKind) (u : UnitId) (d : Detail) : (s.raiseFor c e u d).tally = s.tally := s.stampUsed_tally
@[simp] theorem State.raiseFor_rowsUsed (s : State) (c : Option Nat) (e : EvKind) (u : UnitId) (d : Detail) : (s.raiseFor c e u d).rowsUsed = s.rowsUsed := s.stampUsed_rowsUsed
@[simp] theorem State.raiseFor_retired (s : State) (c : Option Nat) (e : EvKind) (u : UnitId) (d : Detail) : (s.raiseFor c e u d).retired = s.retired := s.stampUsed_retired
@[simp] theorem State.raiseFor_stamped (s : State) (c : Option Nat) (e : EvKind) (u : UnitId) (d : Detail) : (s.raiseFor c e u d).stamped = s.stamped := s.stampUsed_stamped
@[simp] theorem State.raiseFor_wards (s : State) (c : Option Nat) (e : EvKind) (u : UnitId) (d : Detail) : (s.raiseFor c e u d).wards = s.wards := s.stampUsed_wards
@[simp] theorem State.raiseFor_d2dDown (s : State) (c : Option Nat) (e : EvKind) (u : UnitId) (d : Detail) : (s.raiseFor c e u d).d2dDown = s.d2dDown := s.stampUsed_d2dDown
@[simp] theorem State.raiseFor_intake (s : State) (c : Option Nat) (e : EvKind) (u : UnitId) (d : Detail) : (s.raiseFor c e u d).intake = s.intake := s.stampUsed_intake
@[simp] theorem State.raiseFor_power (s : State) (c : Option Nat) (e : EvKind) (u : UnitId) (d : Detail) : (s.raiseFor c e u d).power = s.power := s.stampUsed_power
@[simp] theorem State.raiseFor_trust (s : State) (c : Option Nat) (e : EvKind) (u : UnitId) (d : Detail) : (s.raiseFor c e u d).trust = s.trust := s.stampUsed_trust
@[simp] theorem State.raiseFor_out (s : State) (c : Option Nat) (e : EvKind) (u : UnitId) (d : Detail) : (s.raiseFor c e u d).out = s.out := s.stampUsed_out
@[simp] theorem State.raiseFor_freeCtr (s : State) (c : Option Nat) (e : EvKind) (u : UnitId) (d : Detail) : (s.raiseFor c e u d).freeCtr = s.freeCtr := s.stampUsed_freeCtr
@[simp] theorem State.raiseFor_pending (s : State) (c : Option Nat) (e : EvKind) (u : UnitId) (d : Detail) : (s.raiseFor c e u d).pending = s.pending := s.stampUsed_pending

@[simp] theorem State.raise_fitted (s : State) (e : EvKind) (u : UnitId) (d : Detail) : (s.raise e u d).fitted = s.fitted := s.stampUsed_fitted
@[simp] theorem State.raise_counters (s : State) (e : EvKind) (u : UnitId) (d : Detail) : (s.raise e u d).counters = s.counters := s.stampUsed_counters
@[simp] theorem State.raise_coarse (s : State) (e : EvKind) (u : UnitId) (d : Detail) : (s.raise e u d).coarse = s.coarse := s.stampUsed_coarse
@[simp] theorem State.raise_latch (s : State) (e : EvKind) (u : UnitId) (d : Detail) : (s.raise e u d).latch = s.latch := s.stampUsed_latch
@[simp] theorem State.raise_held (s : State) (e : EvKind) (u : UnitId) (d : Detail) : (s.raise e u d).held = s.held := s.stampUsed_held
@[simp] theorem State.raise_time (s : State) (e : EvKind) (u : UnitId) (d : Detail) : (s.raise e u d).time = s.time := s.stampUsed_time
@[simp] theorem State.raise_mem (s : State) (e : EvKind) (u : UnitId) (d : Detail) : (s.raise e u d).mem = s.mem := s.stampUsed_mem
@[simp] theorem State.raise_staging (s : State) (e : EvKind) (u : UnitId) (d : Detail) : (s.raise e u d).staging = s.staging := s.stampUsed_staging
@[simp] theorem State.raise_neg (s : State) (e : EvKind) (u : UnitId) (d : Detail) : (s.raise e u d).neg = s.neg := s.stampUsed_neg
@[simp] theorem State.raise_tags (s : State) (e : EvKind) (u : UnitId) (d : Detail) : (s.raise e u d).tags = s.tags := s.stampUsed_tags
@[simp] theorem State.raise_negTags (s : State) (e : EvKind) (u : UnitId) (d : Detail) : (s.raise e u d).negTags = s.negTags := s.stampUsed_negTags
@[simp] theorem State.raise_rings (s : State) (e : EvKind) (u : UnitId) (d : Detail) : (s.raise e u d).rings = s.rings := s.stampUsed_rings
@[simp] theorem State.raise_pools (s : State) (e : EvKind) (u : UnitId) (d : Detail) : (s.raise e u d).pools = s.pools := s.stampUsed_pools
@[simp] theorem State.raise_plans (s : State) (e : EvKind) (u : UnitId) (d : Detail) : (s.raise e u d).plans = s.plans := s.stampUsed_plans
@[simp] theorem State.raise_parts (s : State) (e : EvKind) (u : UnitId) (d : Detail) : (s.raise e u d).parts = s.parts := s.stampUsed_parts
@[simp] theorem State.raise_cores (s : State) (e : EvKind) (u : UnitId) (d : Detail) : (s.raise e u d).cores = s.cores := s.stampUsed_cores
@[simp] theorem State.raise_tokens (s : State) (e : EvKind) (u : UnitId) (d : Detail) : (s.raise e u d).tokens = s.tokens := s.stampUsed_tokens
@[simp] theorem State.raise_credits (s : State) (e : EvKind) (u : UnitId) (d : Detail) : (s.raise e u d).credits = s.credits := s.stampUsed_credits
@[simp] theorem State.raise_layers (s : State) (e : EvKind) (u : UnitId) (d : Detail) : (s.raise e u d).layers = s.layers := s.stampUsed_layers
@[simp] theorem State.raise_shapes (s : State) (e : EvKind) (u : UnitId) (d : Detail) : (s.raise e u d).shapes = s.shapes := s.stampUsed_shapes
@[simp] theorem State.raise_searches (s : State) (e : EvKind) (u : UnitId) (d : Detail) : (s.raise e u d).searches = s.searches := s.stampUsed_searches
@[simp] theorem State.raise_contexts (s : State) (e : EvKind) (u : UnitId) (d : Detail) : (s.raise e u d).contexts = s.contexts := s.stampUsed_contexts
@[simp] theorem State.raise_pages (s : State) (e : EvKind) (u : UnitId) (d : Detail) : (s.raise e u d).pages = s.pages := s.stampUsed_pages
@[simp] theorem State.raise_devDraws (s : State) (e : EvKind) (u : UnitId) (d : Detail) : (s.raise e u d).devDraws = s.devDraws := s.stampUsed_devDraws
@[simp] theorem State.raise_devQueues (s : State) (e : EvKind) (u : UnitId) (d : Detail) : (s.raise e u d).devQueues = s.devQueues := s.stampUsed_devQueues
@[simp] theorem State.raise_ports (s : State) (e : EvKind) (u : UnitId) (d : Detail) : (s.raise e u d).ports = s.ports := s.stampUsed_ports
@[simp] theorem State.raise_tally (s : State) (e : EvKind) (u : UnitId) (d : Detail) : (s.raise e u d).tally = s.tally := s.stampUsed_tally
@[simp] theorem State.raise_rowsUsed (s : State) (e : EvKind) (u : UnitId) (d : Detail) : (s.raise e u d).rowsUsed = s.rowsUsed := s.stampUsed_rowsUsed
@[simp] theorem State.raise_retired (s : State) (e : EvKind) (u : UnitId) (d : Detail) : (s.raise e u d).retired = s.retired := s.stampUsed_retired
@[simp] theorem State.raise_stamped (s : State) (e : EvKind) (u : UnitId) (d : Detail) : (s.raise e u d).stamped = s.stamped := s.stampUsed_stamped
@[simp] theorem State.raise_wards (s : State) (e : EvKind) (u : UnitId) (d : Detail) : (s.raise e u d).wards = s.wards := s.stampUsed_wards
@[simp] theorem State.raise_d2dDown (s : State) (e : EvKind) (u : UnitId) (d : Detail) : (s.raise e u d).d2dDown = s.d2dDown := s.stampUsed_d2dDown
@[simp] theorem State.raise_intake (s : State) (e : EvKind) (u : UnitId) (d : Detail) : (s.raise e u d).intake = s.intake := s.stampUsed_intake
@[simp] theorem State.raise_power (s : State) (e : EvKind) (u : UnitId) (d : Detail) : (s.raise e u d).power = s.power := s.stampUsed_power
@[simp] theorem State.raise_trust (s : State) (e : EvKind) (u : UnitId) (d : Detail) : (s.raise e u d).trust = s.trust := s.stampUsed_trust
@[simp] theorem State.raise_out (s : State) (e : EvKind) (u : UnitId) (d : Detail) : (s.raise e u d).out = s.out := s.stampUsed_out
@[simp] theorem State.raise_freeCtr (s : State) (e : EvKind) (u : UnitId) (d : Detail) : (s.raise e u d).freeCtr = s.freeCtr := s.stampUsed_freeCtr
@[simp] theorem State.raise_pending (s : State) (e : EvKind) (u : UnitId) (d : Detail) : (s.raise e u d).pending = s.pending := s.stampUsed_pending

@[simp] theorem State.count_fitted (s : State) (lo n : Nat) : (s.count lo n).fitted = s.fitted := by
  unfold State.count
  dsimp only
  split
  · exact State.raise_fitted ..
  · rfl
@[simp] theorem State.count_coarse (s : State) (lo n : Nat) : (s.count lo n).coarse = s.coarse := by
  unfold State.count
  dsimp only
  split
  · exact State.raise_coarse ..
  · rfl
@[simp] theorem State.count_latch (s : State) (lo n : Nat) : (s.count lo n).latch = s.latch := by
  unfold State.count
  dsimp only
  split
  · exact State.raise_latch ..
  · rfl
@[simp] theorem State.count_held (s : State) (lo n : Nat) : (s.count lo n).held = s.held := by
  unfold State.count
  dsimp only
  split
  · exact State.raise_held ..
  · rfl
@[simp] theorem State.count_time (s : State) (lo n : Nat) : (s.count lo n).time = s.time := by
  unfold State.count
  dsimp only
  split
  · exact State.raise_time ..
  · rfl
@[simp] theorem State.count_mem (s : State) (lo n : Nat) : (s.count lo n).mem = s.mem := by
  unfold State.count
  dsimp only
  split
  · exact State.raise_mem ..
  · rfl
@[simp] theorem State.count_staging (s : State) (lo n : Nat) : (s.count lo n).staging = s.staging := by
  unfold State.count
  dsimp only
  split
  · exact State.raise_staging ..
  · rfl
@[simp] theorem State.count_neg (s : State) (lo n : Nat) : (s.count lo n).neg = s.neg := by
  unfold State.count
  dsimp only
  split
  · exact State.raise_neg ..
  · rfl
@[simp] theorem State.count_tags (s : State) (lo n : Nat) : (s.count lo n).tags = s.tags := by
  unfold State.count
  dsimp only
  split
  · exact State.raise_tags ..
  · rfl
@[simp] theorem State.count_negTags (s : State) (lo n : Nat) : (s.count lo n).negTags = s.negTags := by
  unfold State.count
  dsimp only
  split
  · exact State.raise_negTags ..
  · rfl
@[simp] theorem State.count_rings (s : State) (lo n : Nat) : (s.count lo n).rings = s.rings := by
  unfold State.count
  dsimp only
  split
  · exact State.raise_rings ..
  · rfl
@[simp] theorem State.count_pools (s : State) (lo n : Nat) : (s.count lo n).pools = s.pools := by
  unfold State.count
  dsimp only
  split
  · exact State.raise_pools ..
  · rfl
@[simp] theorem State.count_plans (s : State) (lo n : Nat) : (s.count lo n).plans = s.plans := by
  unfold State.count
  dsimp only
  split
  · exact State.raise_plans ..
  · rfl
@[simp] theorem State.count_parts (s : State) (lo n : Nat) : (s.count lo n).parts = s.parts := by
  unfold State.count
  dsimp only
  split
  · exact State.raise_parts ..
  · rfl
@[simp] theorem State.count_cores (s : State) (lo n : Nat) : (s.count lo n).cores = s.cores := by
  unfold State.count
  dsimp only
  split
  · exact State.raise_cores ..
  · rfl
@[simp] theorem State.count_tokens (s : State) (lo n : Nat) : (s.count lo n).tokens = s.tokens := by
  unfold State.count
  dsimp only
  split
  · exact State.raise_tokens ..
  · rfl
@[simp] theorem State.count_credits (s : State) (lo n : Nat) : (s.count lo n).credits = s.credits := by
  unfold State.count
  dsimp only
  split
  · exact State.raise_credits ..
  · rfl
@[simp] theorem State.count_layers (s : State) (lo n : Nat) : (s.count lo n).layers = s.layers := by
  unfold State.count
  dsimp only
  split
  · exact State.raise_layers ..
  · rfl
@[simp] theorem State.count_shapes (s : State) (lo n : Nat) : (s.count lo n).shapes = s.shapes := by
  unfold State.count
  dsimp only
  split
  · exact State.raise_shapes ..
  · rfl
@[simp] theorem State.count_searches (s : State) (lo n : Nat) : (s.count lo n).searches = s.searches := by
  unfold State.count
  dsimp only
  split
  · exact State.raise_searches ..
  · rfl
@[simp] theorem State.count_contexts (s : State) (lo n : Nat) : (s.count lo n).contexts = s.contexts := by
  unfold State.count
  dsimp only
  split
  · exact State.raise_contexts ..
  · rfl
@[simp] theorem State.count_pages (s : State) (lo n : Nat) : (s.count lo n).pages = s.pages := by
  unfold State.count
  dsimp only
  split
  · exact State.raise_pages ..
  · rfl
@[simp] theorem State.count_devDraws (s : State) (lo n : Nat) : (s.count lo n).devDraws = s.devDraws := by
  unfold State.count
  dsimp only
  split
  · exact State.raise_devDraws ..
  · rfl
@[simp] theorem State.count_devQueues (s : State) (lo n : Nat) : (s.count lo n).devQueues = s.devQueues := by
  unfold State.count
  dsimp only
  split
  · exact State.raise_devQueues ..
  · rfl
@[simp] theorem State.count_ports (s : State) (lo n : Nat) : (s.count lo n).ports = s.ports := by
  unfold State.count
  dsimp only
  split
  · exact State.raise_ports ..
  · rfl
@[simp] theorem State.count_tally (s : State) (lo n : Nat) : (s.count lo n).tally = s.tally := by
  unfold State.count
  dsimp only
  split
  · exact State.raise_tally ..
  · rfl
@[simp] theorem State.count_rowsUsed (s : State) (lo n : Nat) : (s.count lo n).rowsUsed = s.rowsUsed := by
  unfold State.count
  dsimp only
  split
  · exact State.raise_rowsUsed ..
  · rfl
@[simp] theorem State.count_retired (s : State) (lo n : Nat) : (s.count lo n).retired = s.retired := by
  unfold State.count
  dsimp only
  split
  · exact State.raise_retired ..
  · rfl
@[simp] theorem State.count_stamped (s : State) (lo n : Nat) : (s.count lo n).stamped = s.stamped := by
  unfold State.count
  dsimp only
  split
  · exact State.raise_stamped ..
  · rfl
@[simp] theorem State.count_wards (s : State) (lo n : Nat) : (s.count lo n).wards = s.wards := by
  unfold State.count
  dsimp only
  split
  · exact State.raise_wards ..
  · rfl
@[simp] theorem State.count_d2dDown (s : State) (lo n : Nat) : (s.count lo n).d2dDown = s.d2dDown := by
  unfold State.count
  dsimp only
  split
  · exact State.raise_d2dDown ..
  · rfl
@[simp] theorem State.count_intake (s : State) (lo n : Nat) : (s.count lo n).intake = s.intake := by
  unfold State.count
  dsimp only
  split
  · exact State.raise_intake ..
  · rfl
@[simp] theorem State.count_power (s : State) (lo n : Nat) : (s.count lo n).power = s.power := by
  unfold State.count
  dsimp only
  split
  · exact State.raise_power ..
  · rfl
@[simp] theorem State.count_trust (s : State) (lo n : Nat) : (s.count lo n).trust = s.trust := by
  unfold State.count
  dsimp only
  split
  · exact State.raise_trust ..
  · rfl
@[simp] theorem State.count_out (s : State) (lo n : Nat) : (s.count lo n).out = s.out := by
  unfold State.count
  dsimp only
  split
  · exact State.raise_out ..
  · rfl
@[simp] theorem State.count_freeCtr (s : State) (lo n : Nat) : (s.count lo n).freeCtr = s.freeCtr := by
  unfold State.count
  dsimp only
  split
  · exact State.raise_freeCtr ..
  · rfl
@[simp] theorem State.count_pending (s : State) (lo n : Nat) : (s.count lo n).pending = s.pending := by
  unfold State.count
  dsimp only
  split
  · exact State.raise_pending ..
  · rfl
end Sys2Proof.Machine
end

