-- ==== Sys2Proof/Laws/Registers.lean ====
section
/-! SUPPORT. Laws of registers, fields, statistic counters and raised events: what each reads as after an operation. -/

set_option Elab.async false

namespace Sys2Proof.Machine

/-! ### Bits -/

theorem bitsAt_eq (n lo w : Nat) : bitsAt n lo w = n / 2 ^ lo % 2 ^ w := by
  rw [bitsAt, Nat.shiftRight_eq_div_pow]

theorem testBit_bitsAt (n lo w i : Nat) : (bitsAt n lo w).testBit i = (decide (i < w) && n.testBit (lo + i)) := by
  rw [bitsAt, Nat.testBit_mod_two_pow, Nat.testBit_shiftRight]

/-- The bits of a register value after a field was replaced. -/
theorem Fld.testBit_put (f : Fld) (w v i : Nat) : (f.put w v).testBit i =
    if i < f.lo then w.testBit i else if i < f.lo + f.width then v.testBit (i - f.lo) else w.testBit i := by
  have e : f.put w v = 2 ^ f.lo * (2 ^ f.width * (w / 2 ^ (f.lo + f.width)) + v % 2 ^ f.width) + w % 2 ^ f.lo := by
    rw [Fld.put, Nat.pow_add, Nat.mul_add]
    simp only [Nat.mul_comm, Nat.add_comm, Nat.mul_assoc, Nat.add_assoc]
  rw [e, Nat.testBit_two_pow_mul_add _ (Nat.mod_lt _ (Nat.two_pow_pos _)),
    Nat.testBit_two_pow_mul_add _ (Nat.mod_lt _ (Nat.two_pow_pos _)), Nat.testBit_mod_two_pow,
    Nat.testBit_mod_two_pow, Nat.testBit_div_two_pow]
  by_cases h1 : i < f.lo
  · simp [h1]
  · by_cases h2 : i < f.lo + f.width
    · rw [if_neg h1, if_neg h1, if_pos h2, if_pos (by omega)]
      simp; omega
    · rw [if_neg h1, if_neg h1, if_neg h2, if_neg (by omega)]
      congr 1
      omega

/-- Two fields share no bit of a register. -/
def Fld.apart (f g : Fld) : Prop := f.addr ≠ g.addr ∨ g.lo + g.width ≤ f.lo ∨ f.lo + f.width ≤ g.lo

theorem Fld.of_put (f : Fld) (w v : Nat) : f.of (f.put w v) = v % 2 ^ f.width := by
  apply Nat.eq_of_testBit_eq
  intro i
  rw [Fld.of, testBit_bitsAt, Fld.testBit_put, Nat.testBit_mod_two_pow, if_neg (by omega)]
  by_cases h : i < f.width
  · rw [if_pos (by omega), Nat.add_sub_cancel_left]
  · simp [h]

theorem Fld.of_put_apart (f g : Fld) (w v : Nat) (h : g.lo + g.width ≤ f.lo ∨ f.lo + f.width ≤ g.lo) :
    g.of (f.put w v) = g.of w := by
  apply Nat.eq_of_testBit_eq
  intro i
  rw [Fld.of, Fld.of, testBit_bitsAt, testBit_bitsAt, Fld.testBit_put]
  by_cases hi : i < g.width
  · rcases h with h | h
    · rw [if_pos (by omega)]
    · rw [if_neg (by omega), if_neg (by omega)]
  · simp [hi]

/-! ### Registers -/

theorem State.reg_setReg (s : State) (a v b : Nat) : (s.setReg a v).reg b = if b = a then v else s.reg b := by
  have h := readOr_writeOr (RegMap.resetOf a) s.regs a v b
  unfold readOr at h
  by_cases hb : b = a
  · subst hb
    rw [if_pos rfl] at h ⊢
    exact h
  · rw [if_neg hb]
    unfold State.reg State.setReg writeOr
    dsimp only
    split <;> simp [lookup_eraseKey, lookup_insertKey, hb]

theorem State.reg_set (s : State) (f : Fld) (v b : Nat) :
    (s.set f v).reg b = if b = f.addr then f.put (s.reg f.addr) v else s.reg b := State.reg_setReg ..

theorem State.reg_set_other (s : State) (f : Fld) (v b : Nat) (h : b ≠ f.addr) : (s.set f v).reg b = s.reg b := by
  rw [State.reg_set, if_neg h]

@[simp] theorem State.get_set_self (s : State) (f : Fld) (v : Nat) : (s.set f v).get f = v % 2 ^ f.width := by
  rw [State.get, State.reg_set, if_pos rfl, Fld.of_put]

theorem State.get_set_apart (s : State) (f g : Fld) (v : Nat) (h : f.apart g) : (s.set f v).get g = s.get g := by
  rw [State.get, State.get, State.reg_set]
  split
  · next e => rw [Fld.of_put_apart _ _ _ _ (h.resolve_left (fun hn => hn e.symm)), ← e]
  · rfl

theorem State.get_setReg_other (s : State) (a v : Nat) (g : Fld) (h : g.addr ≠ a) : (s.setReg a v).get g = s.get g := by
  rw [State.get, State.get, State.reg_setReg, if_neg h]

theorem State.get_congr {s t : State} (f : Fld) (h : t.regs = s.regs) : t.get f = s.get f := by
  rw [State.get, State.get, State.reg, State.reg, h]

theorem State.reg_congr {s t : State} (a : Nat) (h : t.regs = s.regs) : t.reg a = s.reg a := by
  rw [State.reg, State.reg, h]

/-! ### What raising an event leaves of the registers -/

theorem State.reg_setSeqSaturated (s : State) (a : Nat) (h : isTickStatus a = false) :
    s.setSeqSaturated.reg a = s.reg a := by
  simp only [isTickStatus, List.contains_cons, List.contains_nil, Bool.or_false, Bool.or_eq_false_iff, beq_eq_false_iff_ne] at h
  obtain ⟨h0, h1, h2, h3⟩ := h
  simp only [State.setSeqSaturated, List.range, List.range.loop, List.foldl]
  rw [State.reg_set_other _ _ _ _ h3, State.reg_set_other _ _ _ _ h2, State.reg_set_other _ _ _ _ h1,
    State.reg_set_other _ _ _ _ h0]

theorem State.reg_stampUsed (s : State) (a : Nat) (h : isTickStatus a = false) : s.stampUsed.reg a = s.reg a := by
  unfold State.stampUsed
  split
  · rfl
  · split
    · rfl
    · exact State.reg_setSeqSaturated _ _ h

theorem State.reg_raise (s : State) (e : EvKind) (u : UnitId) (d : Detail) (a : Nat) (h : isTickStatus a = false) :
    (s.raise e u d).reg a = s.reg a := State.reg_stampUsed s a h

theorem State.reg_raiseFor (s : State) (c : Option Nat) (e : EvKind) (u : UnitId) (d : Detail) (a : Nat)
    (h : isTickStatus a = false) : (s.raiseFor c e u d).reg a = s.reg a := State.reg_stampUsed s a h

theorem State.reg_count (s : State) (lo n a : Nat) (h : isTickStatus a = false) : (s.count lo n).reg a = s.reg a := by
  unfold State.count
  dsimp only
  split
  · exact State.reg_raise _ _ _ _ _ h
  · rfl

theorem State.get_stampUsed (s : State) (f : Fld) (h : isTickStatus f.addr = false) : s.stampUsed.get f = s.get f := by
  rw [State.get, State.get, State.reg_stampUsed _ _ h]

theorem State.get_raise (s : State) (e : EvKind) (u : UnitId) (d : Detail) (f : Fld) (h : isTickStatus f.addr = false) :
    (s.raise e u d).get f = s.get f := by
  rw [State.get, State.get, State.reg_raise _ _ _ _ _ h]

theorem State.get_raiseFor (s : State) (c : Option Nat) (e : EvKind) (u : UnitId) (d : Detail) (f : Fld)
    (h : isTickStatus f.addr = false) : (s.raiseFor c e u d).get f = s.get f := by
  rw [State.get, State.get, State.reg_raiseFor _ _ _ _ _ _ h]

theorem State.get_count (s : State) (lo n : Nat) (f : Fld) (h : isTickStatus f.addr = false) :
    (s.count lo n).get f = s.get f := by
  rw [State.get, State.get, State.reg_count _ _ _ _ h]

/-! ### Counters -/

theorem State.counter_congr {s t : State} (lo : Nat) (h : t.counters = s.counters) : t.counter lo = s.counter lo := by
  rw [State.counter, State.counter, h]

/-- What a counter reads as after a count (R441). -/
theorem State.counter_count (s : State) (lo n c : Nat) :
    (s.count lo n).counter c = if c = lo then min (s.counter lo + n) counterMax else s.counter c := by
  have h : ∀ t : State, t.counters = writeOr 0 s.counters lo (min (s.counter lo + n) counterMax) →
      t.counter c = if c = lo then min (s.counter lo + n) counterMax else s.counter c := by
    intro t ht
    rw [State.counter, ht, readOr_writeOr]
    rfl
  unfold State.count
  dsimp only
  split
  · exact h _ (State.raise_counters ..)
  · exact h _ rfl

theorem State.counter_clearCounter (s : State) (lo c : Nat) :
    (s.clearCounter lo).counter c = if c = lo then 0 else s.counter c := by
  rw [State.counter, State.clearCounter, readOr_writeOr]
  rfl

/-! ### Events -/

theorem State.pathHas_raiseFor (s : State) (c : Option Nat) (e : EvKind) (u : UnitId) (d : Detail) :
    (s.raiseFor c e u d).pathHas e u d := by
  refine ⟨s.stampNow 1, c, ?_⟩
  show _ ∈ s.stampUsed.events.path ++ [_]
  exact List.mem_append_right _ (List.mem_singleton.mpr rfl)

theorem State.pathHas_raise (s : State) (e : EvKind) (u : UnitId) (d : Detail) : (s.raise e u d).pathHas e u d :=
  State.pathHas_raiseFor s none e u d

/-- The event path only grows at its end when a stamp is issued. -/
theorem State.path_stampUsed (s : State) : ∃ l, s.stampUsed.events.path = s.events.path ++ l := by
  unfold State.stampUsed
  split
  · exact ⟨[], (List.append_nil _).symm⟩
  · split
    · exact ⟨[], (List.append_nil _).symm⟩
    · exact ⟨_, rfl⟩

theorem State.pathHas_congr {s t : State} {e : EvKind} {u : UnitId} {d : Detail} (h : t.events = s.events)
    (hs : s.pathHas e u d) : t.pathHas e u d := by
  rw [State.pathHas, h]
  exact hs

theorem State.pathHas_raiseFor_mono (s : State) (c : Option Nat) (e e' : EvKind) (u u' : UnitId) (d d' : Detail)
    (h : s.pathHas e u d) : (s.raiseFor c e' u' d').pathHas e u d := by
  obtain ⟨st, k, hk⟩ := h
  obtain ⟨l, hl⟩ := s.path_stampUsed
  refine ⟨st, k, ?_⟩
  show _ ∈ s.stampUsed.events.path ++ [_]
  rw [hl, List.append_assoc]
  exact List.mem_append_left _ hk

theorem State.pathHas_raise_mono (s : State) (e e' : EvKind) (u u' : UnitId) (d d' : Detail)
    (h : s.pathHas e u d) : (s.raise e' u' d').pathHas e u d := State.pathHas_raiseFor_mono s none e e' u u' d d' h

theorem State.pathHas_count_mono (s : State) (lo n : Nat) (e : EvKind) (u : UnitId) (d : Detail)
    (h : s.pathHas e u d) : (s.count lo n).pathHas e u d := by
  unfold State.count
  dsimp only
  split
  · exact State.pathHas_raise_mono _ _ _ _ _ _ _ h
  · exact h

end Sys2Proof.Machine
end

