-- ==== Sys2Proof/Laws/SoundBase.lean ====
section
/-! SUPPORT. What keeps a state sound: a register write, a fold, a write of canonical memories, and every update that
leaves the memories, the registers, the counters, the stamp sequence and the fitted part alone. -/

set_option Elab.async false

namespace Sys2Proof.Machine
variable {s t : State}

theorem State.setReg_sound (a v : Nat) (h : s.Sound) : (s.setReg a v).Sound where
  mem := h.mem
  staging := h.staging
  neg := h.neg
  regs := keysRise_writeOr _ _ _ _ h.regs
  regsListed := fun e he => by
    rcases mem_writeOr _ _ _ _ _ he with ⟨rfl, hv⟩ | he
    · exact hv
    · exact h.regsListed e he
  counters := h.counters
  countersLow := h.countersLow
  seq := h.seq
  fitted := h.fitted

theorem State.set_sound (f : Fld) (v : Nat) (h : s.Sound) : (s.set f v).Sound := State.setReg_sound _ _ h

theorem foldl_sound {α : Type} (f : State → α → State) (l : List α) (hf : ∀ s x, s.Sound → (f s x).Sound)
    (h : s.Sound) : (l.foldl f s).Sound := by
  induction l generalizing s with
  | nil => exact h
  | cons x l ih => exact ih (hf _ _ h)

theorem foldl_fst_sound {α β : Type} (f : State × β → α → State × β) (l : List α) {a : State × β}
    (hf : ∀ a x, a.1.Sound → (f a x).1.Sound) (h : a.1.Sound) : (l.foldl f a).1.Sound := by
  induction l generalizing a with
  | nil => exact h
  | cons x l ih => exact ih (hf _ _ h)

theorem foldl_snd_sound {α β : Type} (f : β × State → α → β × State) (l : List α) {a : β × State}
    (hf : ∀ a x, a.2.Sound → (f a x).2.Sound) (h : a.2.Sound) : (l.foldl f a).2.Sound := by
  induction l generalizing a with
  | nil => exact h
  | cons x l ih => exact ih (hf _ _ h)

theorem State.mk_sound (h : s.Sound) {x3 x4 x5 x6 x8 x9 x10 x14 x15 x16 x17 x18 x19 x20 x21 x22 x23 x24 x25 x26 x27 x28 x29 x30 x31 x32 x33 x34 x35 x36 x37 x38 x39 x40 x41} :
    (State.mk s.fitted s.regs s.counters x3 x4 x5 x6 s.seq x8 x9 x10 s.mem s.staging s.neg x14 x15 x16 x17 x18 x19 x20 x21 x22 x23 x24 x25 x26 x27 x28 x29 x30 x31 x32 x33 x34 x35 x36 x37 x38 x39 x40 x41).Sound :=
  ⟨h.mem, h.staging, h.neg, h.regs, h.regsListed, h.counters, h.countersLow, h.seq, h.fitted⟩

theorem sound_cut {x y : State} (hx : x.Sound) (hy : x.Sound → y.Sound) : y.Sound := hy hx

theorem State.mk_mem_sound {s : State} (h : s.Sound) {m g n} {x3 x4 x5 x6 x8 x9 x10 x14 x15 x16 x17 x18 x19 x20 x21 x22 x23 x24 x25 x26 x27 x28 x29 x30 x31 x32 x33 x34 x35 x36 x37 x38 x39 x40 x41}
    (hm : Memory.wf m = true) (hg : Memory.wf g = true) (hn : Memory.wf n = true) :
    (State.mk s.fitted s.regs s.counters x3 x4 x5 x6 s.seq x8 x9 x10 m g n x14 x15 x16 x17 x18 x19 x20 x21 x22 x23 x24 x25 x26 x27 x28 x29 x30 x31 x32 x33 x34 x35 x36 x37 x38 x39 x40 x41).Sound :=
  ⟨hm, hg, hn, h.regs, h.regsListed, h.counters, h.countersLow, h.seq, h.fitted⟩

theorem Memory.wf_turnUnit (m : Memory) (b : Bool) (k a : Nat) (h : m.wf = true) : (m.turnUnit b k a).wf = true :=
  Memory.wf_writeN _ _ _ h

theorem Memory.wf_turnPages (m : Memory) (b : Bool) (k a : Nat) {l : List Nat} (h : m.wf = true) :
    (m.turnPages b k a l).wf = true := by
  suffices hu : ∀ (f : Nat → Nat) (u : List Nat) (m : Memory), m.wf = true →
      (u.foldl (fun m j => m.turnUnit b k (f j)) m).wf = true by
    unfold Memory.turnPages
    generalize List.range 32768 = v
    induction l generalizing m with
    | nil => exact h
    | cons i l ih => exact ih _ (hu (fun j => a + i * 2 ^ 21 + 64 * j) v m h)
  intro f u
  induction u with
  | nil => exact fun _ h => h
  | cons j u ih => exact fun m h => ih _ (Memory.wf_turnUnit m b k _ h)

end Sys2Proof.Machine
end

