-- ==== Sys2Proof/Laws/Sound1.lean ====
section
/-! SUPPORT. Every operation that answers a state keeps a sound state sound, for the operations in State.lean, Ops.lean, Flags.lean, Events.lean, Window.lean, Tensors.lean, Rings.lean, Steps.lean, Layers.lean, Groups.lean, Codec.lean, Tasks.lean. -/

set_option Elab.async false

namespace Sys2Proof.Machine

theorem State.reset_sound : State.reset.Sound := by
  exact ⟨rfl, rfl, rfl, by decide, by decide, rfl, by decide, by decide, by decide⟩

theorem State.setPair_sound {s : State} {lo : Nat} {v : Nat} (h : s.Sound) : (State.setPair s lo v).Sound := by
  unfold State.setPair
  try dsimp only
  repeat' first
    | with_reducible assumption
    | with_reducible apply State.setReg_sound
    | with_reducible apply foldl_sound
    | (intro _; intros; try dsimp only)
    | split
    | with_reducible apply State.mk_sound

theorem State.modPart_sound {s : State} {p : Nat} {f : Part → Part} (h : s.Sound) : (State.modPart s p f).Sound := by
  unfold State.modPart
  try dsimp only
  repeat' first
    | with_reducible assumption
    | with_reducible apply foldl_sound
    | (intro _; intros; try dsimp only)
    | split
    | with_reducible apply State.mk_sound

theorem State.whenOn_sound {s : State} {f : State → State} (h : s.Sound) (hf : ∀ (y0 : State), y0.Sound → (f y0).Sound) : (State.whenOn s f).Sound := by
  unfold State.whenOn
  try dsimp only
  repeat' first
    | with_reducible assumption
    | with_reducible apply hf
    | with_reducible apply foldl_sound
    | (intro _; intros; try dsimp only)
    | split
    | with_reducible apply State.mk_sound

theorem State.rawHbm_sound {s : State} {a : Nat} {bs : List Byte} (h : s.Sound) : (State.rawHbm s a bs).Sound := by
  exact State.mk_mem_sound h (Memory.wf_writeN _ _ _ h.mem) h.staging h.neg

theorem State.rawNeg_sound {s : State} {a : Nat} {bs : List Byte} (h : s.Sound) : (State.rawNeg s a bs).Sound := by
  exact State.mk_mem_sound h h.mem h.staging (Memory.wf_writeN _ _ _ h.neg)

theorem State.writeHbm_sound {s : State} {p : Nat} {a : Nat} {bs : List Byte} (h : s.Sound) : (State.writeHbm s p a bs).Sound := by
  unfold State.writeHbm
  try dsimp only
  repeat' first
    | with_reducible assumption
    | with_reducible apply State.rawHbm_sound
    | with_reducible apply foldl_sound
    | (intro _; intros; try dsimp only)
    | split
    | with_reducible apply State.mk_sound

theorem State.writeWin_sound {s : State} {p : Nat} {off : Nat} {bs : List Byte} (h : s.Sound) : (State.writeWin s p off bs).Sound := by
  unfold State.writeWin
  try dsimp only
  repeat' first
    | with_reducible assumption
    | with_reducible apply State.writeHbm_sound
    | with_reducible apply foldl_sound
    | (intro _; intros; try dsimp only)
    | split
    | with_reducible apply State.mk_sound

theorem State.setSleep_sound {s : State} {u : PowerUnit} {d : Nat} (h : s.Sound) : (State.setSleep s u d).Sound := by
  unfold State.setSleep
  try dsimp only
  repeat' first
    | with_reducible assumption
    | with_reducible apply foldl_sound
    | (intro _; intros; try dsimp only)
    | split
    | with_reducible apply State.mk_sound

theorem State.leaveDeep_sound {s : State} (h : s.Sound) : (State.leaveDeep s).Sound := by
  unfold State.leaveDeep
  try dsimp only
  repeat' first
    | with_reducible assumption
    | with_reducible apply foldl_sound
    | (intro _; intros; try dsimp only)
    | split
    | with_reducible apply State.mk_sound

theorem State.wake_sound {s : State} {f : PowerUnit → Bool} (h : s.Sound) : (State.wake s f).Sound := by
  unfold State.wake
  try dsimp only
  repeat' first
    | with_reducible assumption
    | with_reducible apply foldl_sound
    | (intro _; intros; try dsimp only)
    | split
    | with_reducible apply State.mk_sound

theorem State.wakeHbm_sound {s : State} {a : Nat} {n : Nat} (h : s.Sound) : (State.wakeHbm s a n).Sound := by
  unfold State.wakeHbm
  try dsimp only
  repeat' first
    | with_reducible assumption
    | with_reducible apply State.wake_sound
    | with_reducible apply foldl_sound
    | (intro _; intros; try dsimp only)
    | split
    | with_reducible apply State.mk_sound

theorem State.modRing_sound {s : State} {n : Nat} {f : Ring → Ring} (h : s.Sound) : (State.modRing s n f).Sound := by
  unfold State.modRing
  try dsimp only
  repeat' first
    | with_reducible assumption
    | with_reducible apply foldl_sound
    | (intro _; intros; try dsimp only)
    | split
    | with_reducible apply State.mk_sound

theorem State.modPool_sound {s : State} {p : Nat} {q : Nat} {f : Pool → Pool} (h : s.Sound) : (State.modPool s p q f).Sound := by
  unfold State.modPool
  try dsimp only
  repeat' first
    | with_reducible assumption
    | with_reducible apply foldl_sound
    | (intro _; intros; try dsimp only)
    | split
    | with_reducible apply State.mk_sound

theorem State.hostWrite_sound {s : State} {addr : Nat} {bs : List Byte} (h : s.Sound) : (State.hostWrite s addr bs).Sound := by
  unfold State.hostWrite
  try dsimp only
  repeat' first
    | with_reducible assumption
    | with_reducible apply foldl_sound
    | (intro _; intros; try dsimp only)
    | split
    | with_reducible apply State.mk_sound

theorem State.hostRead_sound {s : State} {addr : Nat} {n : Nat} (h : s.Sound) : (State.hostRead s addr n).Sound := by
  unfold State.hostRead
  try dsimp only
  repeat' first
    | with_reducible assumption
    | with_reducible apply foldl_sound
    | (intro _; intros; try dsimp only)
    | split
    | with_reducible apply State.mk_sound

theorem State.sendIrq_sound {s : State} {v : Nat} (h : s.Sound) : (State.sendIrq s v).Sound := by
  unfold State.sendIrq
  try dsimp only
  repeat' first
    | with_reducible assumption
    | with_reducible apply foldl_sound
    | (intro _; intros; try dsimp only)
    | split
    | with_reducible apply State.mk_sound

theorem State.answer_sound {s : State} {bs : List Byte} (h : s.Sound) : (State.answer s bs).Sound := by
  unfold State.answer
  try dsimp only
  repeat' first
    | with_reducible assumption
    | with_reducible apply foldl_sound
    | (intro _; intros; try dsimp only)
    | split
    | with_reducible apply State.mk_sound

theorem State.leaveDevelopers_sound {s : State} {c : Nat} (h : s.Sound) : (State.leaveDevelopers s c).Sound := by
  unfold State.leaveDevelopers
  try dsimp only
  repeat' first
    | with_reducible assumption
    | with_reducible apply foldl_sound
    | (intro _; intros; try dsimp only)
    | split
    | with_reducible apply State.mk_sound

theorem State.takeFree_sound {s : State} {w : Nat} (h : s.Sound) : (State.takeFree s w).2.Sound := by
  unfold State.takeFree
  try dsimp only
  repeat' first
    | with_reducible assumption
    | with_reducible apply foldl_sound
    | (intro _; intros; try dsimp only)
    | split
    | with_reducible apply State.mk_sound

theorem State.useFree_sound {s : State} {n : Nat} (h : s.Sound) : (State.useFree s n).Sound := by
  unfold State.useFree
  try dsimp only
  repeat' first
    | with_reducible assumption
    | with_reducible apply foldl_sound
    | (intro _; intros; try dsimp only)
    | split
    | with_reducible apply State.mk_sound

theorem State.setSeqSaturated_sound {s : State} (h : s.Sound) : (State.setSeqSaturated s).Sound := by
  unfold State.setSeqSaturated
  try dsimp only
  repeat' first
    | with_reducible assumption
    | with_reducible apply State.set_sound
    | with_reducible apply foldl_sound
    | (intro _; intros; try dsimp only)
    | split
    | with_reducible apply State.mk_sound

theorem State.toPath_sound {s : State} {r : PathRec} (h : s.Sound) : (State.toPath s r).Sound := by
  unfold State.toPath
  try dsimp only
  repeat' first
    | with_reducible assumption
    | with_reducible apply foldl_sound
    | (intro _; intros; try dsimp only)
    | split
    | with_reducible apply State.mk_sound

theorem State.stampUsed_sound {s : State} (h : s.Sound) : (State.stampUsed s).Sound := by
  unfold State.stampUsed
  split
  · exact ⟨h.mem, h.staging, h.neg, h.regs, h.regsListed, h.counters, h.countersLow, by simp only; omega, h.fitted⟩
  · split
    · exact h
    · exact State.toPath_sound (State.setSeqSaturated_sound (State.mk_sound h))

theorem State.issueStamp_sound {s : State} {kind : Nat} {time : Nat} (h : s.Sound) : (State.issueStamp s kind time).Sound := by
  unfold State.issueStamp
  try dsimp only
  repeat' first
    | with_reducible assumption
    | with_reducible apply State.stampUsed_sound
    | with_reducible apply foldl_sound
    | (intro _; intros; try dsimp only)
    | split
    | with_reducible apply State.mk_sound

theorem State.stampReceipt_sound {s : State} {send : Stamp} (h : s.Sound) : (State.stampReceipt s send).Sound := by
  unfold State.stampReceipt
  try dsimp only
  repeat' first
    | with_reducible assumption
    | with_reducible apply State.issueStamp_sound
    | with_reducible apply foldl_sound
    | (intro _; intros; try dsimp only)
    | split
    | with_reducible apply State.mk_sound

theorem State.raiseFor_sound {s : State} {concern : Option Nat} {e : EvKind} {u : UnitId} {d : Detail} (h : s.Sound) : (State.raiseFor s concern e u d).Sound := by
  unfold State.raiseFor
  try dsimp only
  repeat' first
    | with_reducible assumption
    | with_reducible apply State.toPath_sound
    | with_reducible apply State.stampUsed_sound
    | with_reducible apply foldl_sound
    | (intro _; intros; try dsimp only)
    | split
    | with_reducible apply State.mk_sound

theorem State.raise_sound {s : State} {e : EvKind} {u : UnitId} {d : optParam Detail { }} (h : s.Sound) : (State.raise s e u d).Sound := by
  unfold State.raise
  try dsimp only
  repeat' first
    | with_reducible assumption
    | with_reducible apply State.raiseFor_sound
    | with_reducible apply foldl_sound
    | (intro _; intros; try dsimp only)
    | split
    | with_reducible apply State.mk_sound

theorem State.count_sound {s : State} {lo : Nat} {n : optParam Nat 1} (h : s.Sound) : (State.count s lo n).Sound := by
  unfold State.count
  extract_lets old t
  have ht : t.Sound := by
    refine ⟨h.mem, h.staging, h.neg, h.regs, h.regsListed, keysRise_writeOr _ _ _ _ h.counters, fun e he => ?_, h.seq, h.fitted⟩
    rcases mem_writeOr _ _ _ _ _ he with ⟨rfl, _⟩ | he
    · exact Nat.min_le_right _ _
    · exact h.countersLow e he
  split
  · exact State.raise_sound ht
  · exact ht

theorem State.clearCounter_sound {s : State} {lo : Nat} (h : s.Sound) : (State.clearCounter s lo).Sound := by
  unfold State.clearCounter
  refine ⟨h.mem, h.staging, h.neg, h.regs, h.regsListed, by exact keysRise_writeOr 0 s.counters lo 0 h.counters, fun e he => ?_, h.seq, h.fitted⟩
  rcases mem_writeOr 0 s.counters lo 0 e he with ⟨rfl, _⟩ | he
  · exact Nat.zero_le _
  · exact h.countersLow e he

theorem State.passTime_sound {s : State} (h : s.Sound) : (State.passTime s).Sound := by
  unfold State.passTime
  try dsimp only
  repeat' first
    | with_reducible assumption
    | with_reducible apply foldl_sound
    | (intro _; intros; try dsimp only)
    | split
    | with_reducible apply State.mk_sound

theorem State.writeEventRing_sound {s : State} {p : Nat} {r : EventRec} (h : s.Sound) : (State.writeEventRing s p r).Sound := by
  unfold State.writeEventRing
  try dsimp only
  repeat' first
    | with_reducible assumption
    | with_reducible apply State.set_sound
    | with_reducible apply State.writeWin_sound
    | with_reducible apply State.count_sound
    | with_reducible apply State.sendIrq_sound
    | with_reducible apply foldl_sound
    | (intro _; intros; try dsimp only)
    | split
    | with_reducible apply State.mk_sound

theorem State.setOverrun_sound {s : State} {p : Nat} {n : Nat} (h : s.Sound) : (State.setOverrun s p n).Sound := by
  unfold State.setOverrun
  try dsimp only
  repeat' first
    | with_reducible assumption
    | with_reducible apply foldl_sound
    | (intro _; intros; try dsimp only)
    | split
    | with_reducible apply State.mk_sound

theorem State.flushOverrun_sound {s : State} {p : Nat} (h : s.Sound) : (State.flushOverrun s p).Sound := by
  unfold State.flushOverrun
  try dsimp only
  repeat' first
    | with_reducible assumption
    | with_reducible apply State.writeEventRing_sound
    | with_reducible apply State.setOverrun_sound
    | with_reducible apply State.stampUsed_sound
    | with_reducible apply foldl_sound
    | (intro _; intros; try dsimp only)
    | split
    | with_reducible apply State.mk_sound

theorem State.deliver_sound {s : State} {p : Nat} {r : EventRec} (h : s.Sound) : (State.deliver s p r).Sound := by
  unfold State.deliver
  try dsimp only
  repeat' first
    | with_reducible assumption
    | with_reducible apply State.flushOverrun_sound
    | with_reducible apply State.writeEventRing_sound
    | with_reducible apply State.setOverrun_sound
    | with_reducible apply State.set_sound
    | with_reducible apply State.count_sound
    | with_reducible apply foldl_sound
    | (intro _; intros; try dsimp only)
    | split
    | with_reducible apply State.mk_sound

theorem State.accept_sound {s : State} {r : PathRec} (h : s.Sound) : (State.accept s r).Sound := by
  unfold State.accept
  try dsimp only
  repeat' first
    | with_reducible assumption
    | with_reducible apply State.deliver_sound
    | with_reducible apply foldl_sound
    | (intro _; intros; try dsimp only)
    | split
    | with_reducible apply State.mk_sound

theorem doEventCollect_sound {pathFull : Bool} {s : State} (h : s.Sound) : (doEventCollect pathFull s).Sound := by
  unfold doEventCollect
  try dsimp only
  repeat' first
    | with_reducible assumption
    | with_reducible apply State.count_sound
    | with_reducible apply State.accept_sound
    | with_reducible apply foldl_sound
    | (intro _; intros; try dsimp only)
    | split
    | with_reducible apply State.mk_sound

theorem State.firstEventRing_sound {s : State} (h : s.Sound) : (State.firstEventRing s).Sound := by
  unfold State.firstEventRing
  try dsimp only
  repeat' first
    | with_reducible assumption
    | with_reducible apply State.deliver_sound
    | with_reducible apply foldl_sound
    | (intro _; intros; try dsimp only)
    | split
    | with_reducible apply State.mk_sound

theorem State.reportClamp_sound {s : State} {u : UnitId} {p : Nat} {c : Clamp} (h : s.Sound) : (State.reportClamp s u p c).Sound := by
  unfold State.reportClamp
  try dsimp only
  repeat' first
    | with_reducible assumption
    | with_reducible apply State.raise_sound
    | with_reducible apply State.count_sound
    | with_reducible apply State.set_sound
    | with_reducible apply State.writeWin_sound
    | with_reducible apply State.modPart_sound
    | with_reducible apply foldl_sound
    | (intro _; intros; try dsimp only)
    | split
    | with_reducible apply State.mk_sound

theorem State.modSlot_sound {s : State} {p : Nat} {q : Nat} {i : Nat} {f : Slot → Slot} (h : s.Sound) : (State.modSlot s p q i f).Sound := by
  unfold State.modSlot
  try dsimp only
  repeat' first
    | with_reducible assumption
    | with_reducible apply State.modPool_sound
    | with_reducible apply foldl_sound
    | (intro _; intros; try dsimp only)
    | split
    | with_reducible apply State.mk_sound

theorem State.winIrq_sound {s : State} {p : Nat} (h : s.Sound) : (State.winIrq s p).Sound := by
  unfold State.winIrq
  try dsimp only
  repeat' first
    | with_reducible assumption
    | with_reducible apply State.sendIrq_sound
    | with_reducible apply foldl_sound
    | (intro _; intros; try dsimp only)
    | split
    | with_reducible apply State.mk_sound

theorem State.winIrqs_sound {s : State} {p : Nat} {a : Nat} (h : s.Sound) : (State.winIrqs s p a).Sound := by
  induction a generalizing s with
  | zero => exact h
  | succ n ih => exact ih (State.winIrq_sound h)

theorem State.handOver_sound {s : State} {p : Nat} {q : Nat} {i : Nat} {st : SlotState} (h : s.Sound) : (State.handOver s p q i st).Sound := by
  unfold State.handOver
  try dsimp only
  repeat' first
    | with_reducible assumption
    | with_reducible apply State.winIrq_sound
    | with_reducible apply State.modSlot_sound
    | with_reducible apply foldl_sound
    | (intro _; intros; try dsimp only)
    | split
    | with_reducible apply State.mk_sound

theorem State.consumeSlot_sound {s : State} {p : Nat} {q : Nat} {i : Nat} (h : s.Sound) : (State.consumeSlot s p q i).Sound := by
  unfold State.consumeSlot
  try dsimp only
  repeat' first
    | with_reducible assumption
    | with_reducible apply State.count_sound
    | with_reducible apply State.modSlot_sound
    | with_reducible apply foldl_sound
    | (intro _; intros; try dsimp only)
    | split
    | with_reducible apply State.mk_sound

theorem State.releaseSlot_sound {s : State} {p : Nat} {q : Nat} {i : Nat} (h : s.Sound) : (State.releaseSlot s p q i).Sound := by
  unfold State.releaseSlot
  try dsimp only
  repeat' first
    | with_reducible assumption
    | with_reducible apply State.handOver_sound
    | with_reducible apply foldl_sound
    | (intro _; intros; try dsimp only)
    | split
    | with_reducible apply State.mk_sound

theorem State.disablePool_sound {s : State} {p : Nat} {q : Nat} (h : s.Sound) : (State.disablePool s p q).Sound := by
  unfold State.disablePool
  try dsimp only
  repeat' first
    | with_reducible assumption
    | with_reducible apply State.modPool_sound
    | with_reducible apply foldl_sound
    | (intro _; intros; try dsimp only)
    | split
    | with_reducible apply State.mk_sound

theorem State.enablePool_sound {s : State} {p : Nat} {q : Nat} {use : Nat} (h : s.Sound) : (State.enablePool s p q use).Sound := by
  unfold State.enablePool
  try dsimp only
  repeat' first
    | with_reducible assumption
    | with_reducible apply State.modPool_sound
    | with_reducible apply State.winIrqs_sound
    | with_reducible apply foldl_sound
    | (intro _; intros; try dsimp only)
    | split
    | with_reducible apply State.mk_sound

theorem State.winBad_sound {s : State} {p : Nat} {off : Nat} (h : s.Sound) : (State.winBad s p off).Sound := by
  unfold State.winBad
  try dsimp only
  repeat' first
    | with_reducible assumption
    | with_reducible apply State.raise_sound
    | with_reducible apply State.set_sound
    | with_reducible apply foldl_sound
    | (intro _; intros; try dsimp only)
    | split
    | with_reducible apply State.mk_sound

theorem State.putWinByte_sound {s : State} {p : Nat} {off : Nat} {b : Byte} (h : s.Sound) : (State.putWinByte s p off b).Sound := by
  unfold State.putWinByte
  try dsimp only
  repeat' first
    | with_reducible assumption
    | with_reducible apply State.modSlot_sound
    | with_reducible apply State.writeWin_sound
    | with_reducible apply foldl_sound
    | (intro _; intros; try dsimp only)
    | split
    | with_reducible apply State.mk_sound

theorem State.wakeWin_sound {s : State} {p : Nat} {off : Nat} {n : Nat} (h : s.Sound) : (State.wakeWin s p off n).Sound := by
  unfold State.wakeWin
  try dsimp only
  repeat' first
    | with_reducible assumption
    | with_reducible apply State.wakeHbm_sound
    | with_reducible apply foldl_sound
    | (intro _; intros; try dsimp only)
    | split
    | with_reducible apply State.mk_sound

theorem doWindowRead_sound {p : Nat} {offset : Nat} {len : Nat} {s : State} (h : s.Sound) : (doWindowRead p offset len s).Sound := by
  unfold doWindowRead
  try dsimp only
  repeat' first
    | with_reducible assumption
    | with_reducible apply State.wakeWin_sound
    | with_reducible apply State.answer_sound
    | with_reducible apply State.winBad_sound
    | with_reducible apply foldl_sound
    | (intro _; intros; try dsimp only)
    | split
    | with_reducible apply State.mk_sound

theorem doWinAccessBad_sound {bar : Nat} {offset : Nat} {write : Bool} {s : State} (h : s.Sound) : (doWinAccessBad bar offset write s).Sound := by
  unfold doWinAccessBad
  try dsimp only
  repeat' first
    | with_reducible assumption
    | with_reducible apply State.answer_sound
    | with_reducible apply State.raise_sound
    | with_reducible apply State.winBad_sound
    | with_reducible apply foldl_sound
    | (intro _; intros; try dsimp only)
    | split
    | with_reducible apply State.mk_sound

theorem State.refuseFlip_sound {s : State} {p : Nat} {q : Nat} {i : Nat} {gen : Nat} (h : s.Sound) : (State.refuseFlip s p q i gen).Sound := by
  unfold State.refuseFlip
  try dsimp only
  repeat' first
    | with_reducible assumption
    | with_reducible apply State.raise_sound
    | with_reducible apply State.count_sound
    | with_reducible apply foldl_sound
    | (intro _; intros; try dsimp only)
    | split
    | with_reducible apply State.mk_sound

theorem State.joinIntake_sound {s : State} {p : Nat} {q : Nat} {i : Nat} (h : s.Sound) : (State.joinIntake s p q i).Sound := by
  unfold State.joinIntake
  try dsimp only
  repeat' first
    | with_reducible assumption
    | with_reducible apply foldl_sound
    | (intro _; intros; try dsimp only)
    | split
    | with_reducible apply State.mk_sound

theorem State.flip_sound {s : State} {p : Nat} {pool : Nat} {slot : Nat} {value : BitVec 64} (h : s.Sound) : (State.flip s p pool slot value).Sound := by
  unfold State.flip
  try dsimp only
  repeat' first
    | with_reducible assumption
    | with_reducible apply State.refuseFlip_sound
    | with_reducible apply State.modSlot_sound
    | with_reducible apply State.joinIntake_sound
    | with_reducible apply State.handOver_sound
    | with_reducible apply foldl_sound
    | (intro _; intros; try dsimp only)
    | split
    | with_reducible apply State.mk_sound

theorem doSlotFlip_sound {p : Nat} {pool : Nat} {slot : Nat} {value : BitVec 64} {s : State} (h : s.Sound) : (doSlotFlip p pool slot value s).Sound := by
  unfold doSlotFlip
  try dsimp only
  repeat' first
    | with_reducible assumption
    | with_reducible apply State.flip_sound
    | with_reducible apply foldl_sound
    | (intro _; intros; try dsimp only)
    | split
    | with_reducible apply State.mk_sound

theorem State.putWin_sound {s : State} {p : Nat} {off : Nat} {a : List Byte} (h : s.Sound) : (State.putWin s p off a).Sound := by
  induction a generalizing s off with
  | nil => exact h
  | cons b bs ih =>
    simp only [State.putWin]
    apply ih
    split
    · exact State.putWinByte_sound h
    · exact h

theorem State.refuseFlags_sound {s : State} {p : Nat} {off : Nat} {bytes : List Byte} (h : s.Sound) : (State.refuseFlags s p off bytes).Sound := by
  unfold State.refuseFlags
  try dsimp only
  repeat' first
    | with_reducible assumption
    | with_reducible apply State.refuseFlip_sound
    | with_reducible apply foldl_sound
    | (intro _; intros; try dsimp only)
    | split
    | with_reducible apply State.mk_sound

theorem doWindowWrite_sound {p : Nat} {offset : Nat} {bytes : List Byte} {s : State} (h : s.Sound) : (doWindowWrite p offset bytes s).Sound := by
  unfold doWindowWrite
  try dsimp only
  repeat' first
    | with_reducible assumption
    | with_reducible apply State.flip_sound
    | with_reducible apply State.refuseFlags_sound
    | with_reducible apply State.putWin_sound
    | with_reducible apply State.wakeWin_sound
    | with_reducible apply State.winBad_sound
    | with_reducible apply foldl_sound
    | (intro _; intros; try dsimp only)
    | split
    | with_reducible apply State.mk_sound

theorem State.advanceTo_sound {s : State} {t : Nat} (h : s.Sound) : (State.advanceTo s t).Sound := by
  unfold State.advanceTo
  try dsimp only
  repeat' first
    | with_reducible assumption
    | with_reducible apply foldl_sound
    | (intro _; intros; try dsimp only)
    | split
    | with_reducible apply State.mk_sound

theorem doSlotTimeout_sound {p : Nat} {pool : Nat} {slot : Nat} {s : State} (h : s.Sound) : (doSlotTimeout p pool slot s).Sound := by
  unfold doSlotTimeout
  try dsimp only
  repeat' first
    | with_reducible assumption
    | with_reducible apply State.advanceTo_sound
    | with_reducible apply State.count_sound
    | with_reducible apply State.handOver_sound
    | with_reducible apply State.modSlot_sound
    | with_reducible apply State.raise_sound
    | with_reducible apply foldl_sound
    | (intro _; intros; try dsimp only)
    | split
    | with_reducible apply State.mk_sound

theorem State.emit_sound {s : State} {p : Nat} {q : Nat} {x3 : OutputHeader} {payload : List Byte} (h : s.Sound) : (State.emit s p q x3 payload).Sound := by
  unfold State.emit
  try dsimp only
  repeat' first
    | with_reducible assumption
    | with_reducible apply State.modPool_sound
    | with_reducible apply State.count_sound
    | with_reducible apply State.writeWin_sound
    | with_reducible apply State.modSlot_sound
    | with_reducible apply State.handOver_sound
    | with_reducible apply foldl_sound
    | (intro _; intros; try dsimp only)
    | split
    | with_reducible apply State.mk_sound

theorem State.writeReport_sound {s : State} {p : Nat} {q : Nat} {i : Nat} {report : List Byte} (h : s.Sound) : (State.writeReport s p q i report).Sound := by
  unfold State.writeReport
  try dsimp only
  repeat' first
    | with_reducible assumption
    | with_reducible apply State.writeWin_sound
    | with_reducible apply State.modSlot_sound
    | with_reducible apply State.handOver_sound
    | with_reducible apply foldl_sound
    | (intro _; intros; try dsimp only)
    | split
    | with_reducible apply State.mk_sound

theorem State.reportStarved_sound {s : State} {p : Nat} (h : s.Sound) : (State.reportStarved s p).Sound := by
  unfold State.reportStarved
  try dsimp only
  repeat' first
    | with_reducible assumption
    | with_reducible apply State.raise_sound
    | with_reducible apply State.modPool_sound
    | with_reducible apply foldl_sound
    | (intro _; intros; try dsimp only)
    | split
    | with_reducible apply State.mk_sound

theorem State.writeSpace_sound {s : State} {p : Nat} {space : Nat} {a : Nat} {bs : List Byte} (h : s.Sound) : (State.writeSpace s p space a bs).Sound := by
  unfold State.writeSpace
  split
  · exact State.rawHbm_sound h
  · exact State.mk_mem_sound h h.mem (Memory.wf_writeN _ _ _ h.staging) h.neg
  · exact State.rawNeg_sound h
  · exact State.rawHbm_sound h

theorem State.noteFull_sound {s : State} {n : Nat} (h : s.Sound) : (State.noteFull s n).Sound := by
  unfold State.noteFull
  try dsimp only
  repeat' first
    | with_reducible assumption
    | with_reducible apply State.set_sound
    | with_reducible apply foldl_sound
    | (intro _; intros; try dsimp only)
    | split
    | with_reducible apply State.mk_sound

theorem State.ringError_sound {s : State} {n : Nat} (h : s.Sound) : (State.ringError s n).Sound := by
  unfold State.ringError
  try dsimp only
  repeat' first
    | with_reducible assumption
    | with_reducible apply State.set_sound
    | with_reducible apply foldl_sound
    | (intro _; intros; try dsimp only)
    | split
    | with_reducible apply State.mk_sound

theorem State.refuseDoorbell_sound {s : State} {n : Nat} {value : Nat} {cause : Nat} (h : s.Sound) : (State.refuseDoorbell s n value cause).Sound := by
  unfold State.refuseDoorbell
  try dsimp only
  repeat' first
    | with_reducible assumption
    | with_reducible apply State.raise_sound
    | with_reducible apply State.count_sound
    | with_reducible apply State.set_sound
    | with_reducible apply State.ringError_sound
    | with_reducible apply foldl_sound
    | (intro _; intros; try dsimp only)
    | split
    | with_reducible apply State.mk_sound

theorem doDoorbellTail_sound {ring : Nat} {value : Word} {s : State} (h : s.Sound) : (doDoorbellTail ring value s).Sound := by
  unfold doDoorbellTail
  try dsimp only
  repeat' first
    | with_reducible assumption
    | with_reducible apply State.set_sound
    | with_reducible apply State.refuseDoorbell_sound
    | with_reducible apply foldl_sound
    | (intro _; intros; try dsimp only)
    | split
    | with_reducible apply State.mk_sound

theorem doDoorbellCompletionHead_sound {ring : Nat} {value : Word} {s : State} (h : s.Sound) : (doDoorbellCompletionHead ring value s).Sound := by
  unfold doDoorbellCompletionHead
  try dsimp only
  repeat' first
    | with_reducible assumption
    | with_reducible apply State.refuseDoorbell_sound
    | with_reducible apply State.noteFull_sound
    | with_reducible apply State.set_sound
    | with_reducible apply foldl_sound
    | (intro _; intros; try dsimp only)
    | split
    | with_reducible apply State.mk_sound

theorem doDoorbellBad_sound {ring : Nat} {offset : Nat} {size : Nat} {value : Nat} {s : State} (h : s.Sound) : (doDoorbellBad ring offset size value s).Sound := by
  unfold doDoorbellBad
  try dsimp only
  repeat' first
    | with_reducible assumption
    | with_reducible apply State.raise_sound
    | with_reducible apply foldl_sound
    | (intro _; intros; try dsimp only)
    | split
    | with_reducible apply State.mk_sound

theorem State.finish_sound {s : State} {n : Nat} {d : Started} {st : Status} {detail : optParam Nat 0} (h : s.Sound) : (State.finish s n d st detail).Sound := by
  unfold State.finish
  try dsimp only
  repeat' first
    | with_reducible assumption
    | with_reducible apply State.modRing_sound
    | with_reducible apply foldl_sound
    | (intro _; intros; try dsimp only)
    | split
    | with_reducible apply State.mk_sound

theorem State.start_sound {s : State} {n : Nat} {d : Started} (h : s.Sound) : (State.start s n d).Sound := by
  unfold State.start
  try dsimp only
  repeat' first
    | with_reducible assumption
    | with_reducible apply State.modRing_sound
    | with_reducible apply State.finish_sound
    | with_reducible apply foldl_sound
    | (intro _; intros; try dsimp only)
    | split
    | with_reducible apply State.mk_sound

theorem State.startWaiting_sound {s : State} {n : Nat} (h : s.Sound) : (State.startWaiting s n).Sound := by
  unfold State.startWaiting
  try dsimp only
  repeat' first
    | with_reducible assumption
    | with_reducible apply State.start_sound
    | with_reducible apply State.modRing_sound
    | with_reducible apply foldl_sound
    | (intro _; intros; try dsimp only)
    | split
    | with_reducible apply State.mk_sound

theorem State.hostFail_sound {s : State} {n : Nat} {status : Nat} (h : s.Sound) : (State.hostFail s n status).Sound := by
  unfold State.hostFail
  try dsimp only
  repeat' first
    | with_reducible assumption
    | with_reducible apply State.raise_sound
    | with_reducible apply State.set_sound
    | with_reducible apply State.ringError_sound
    | with_reducible apply foldl_sound
    | (intro _; intros; try dsimp only)
    | split
    | with_reducible apply State.mk_sound

theorem doDescriptorFetch_sound {ring : Nat} {bytes : List Byte} {hostStatus : Nat} {s : State} (h : s.Sound) : (doDescriptorFetch ring bytes hostStatus s).Sound := by
  unfold doDescriptorFetch
  try dsimp only
  repeat' first
    | with_reducible assumption
    | with_reducible apply State.hostRead_sound
    | with_reducible apply State.hostFail_sound
    | with_reducible apply State.set_sound
    | with_reducible apply State.modRing_sound
    | with_reducible apply State.start_sound
    | with_reducible apply foldl_sound
    | (intro _; intros; try dsimp only)
    | split
    | with_reducible apply State.mk_sound

theorem State.beginDesc_sound {s : State} {n : Nat} {d : Started} (h : s.Sound) : (State.beginDesc s n d).Sound := by
  unfold State.beginDesc
  try dsimp only
  repeat' first
    | with_reducible assumption
    | with_reducible apply State.modRing_sound
    | with_reducible apply foldl_sound
    | (intro _; intros; try dsimp only)
    | split
    | with_reducible apply State.mk_sound

theorem State.sendRingIrq_sound {s : State} {n : Nat} (h : s.Sound) : (State.sendRingIrq s n).Sound := by
  unfold State.sendRingIrq
  try dsimp only
  repeat' first
    | with_reducible assumption
    | with_reducible apply State.sendIrq_sound
    | with_reducible apply State.modRing_sound
    | with_reducible apply foldl_sound
    | (intro _; intros; try dsimp only)
    | split
    | with_reducible apply State.mk_sound

theorem State.gatherIrq_sound {s : State} {n : Nat} {c : Completion} (h : s.Sound) : (State.gatherIrq s n c).Sound := by
  unfold State.gatherIrq
  try dsimp only
  repeat' first
    | with_reducible assumption
    | with_reducible apply State.modRing_sound
    | with_reducible apply State.sendRingIrq_sound
    | with_reducible apply foldl_sound
    | (intro _; intros; try dsimp only)
    | split
    | with_reducible apply State.mk_sound

theorem State.putCompletion_sound {s : State} {n : Nat} {c : Completion} (h : s.Sound) : (State.putCompletion s n c).Sound := by
  unfold State.putCompletion
  try dsimp only
  repeat' first
    | with_reducible assumption
    | with_reducible apply State.hostWrite_sound
    | with_reducible apply State.stampUsed_sound
    | with_reducible apply State.noteFull_sound
    | with_reducible apply State.set_sound
    | with_reducible apply State.count_sound
    | with_reducible apply State.gatherIrq_sound
    | with_reducible apply foldl_sound
    | (intro _; intros; try dsimp only)
    | split
    | with_reducible apply State.mk_sound

theorem doCompletionWrite_sound {ring : Nat} {hostStatus : Nat} {s : State} (h : s.Sound) : (doCompletionWrite ring hostStatus s).Sound := by
  unfold doCompletionWrite
  try dsimp only
  repeat' first
    | with_reducible assumption
    | with_reducible apply State.hostFail_sound
    | with_reducible apply State.startWaiting_sound
    | with_reducible apply State.putCompletion_sound
    | with_reducible apply State.modRing_sound
    | with_reducible apply foldl_sound
    | (intro _; intros; try dsimp only)
    | split
    | with_reducible apply State.mk_sound

theorem doInterruptCoalesceDelay_sound {ring : Nat} {s : State} (h : s.Sound) : (doInterruptCoalesceDelay ring s).Sound := by
  unfold doInterruptCoalesceDelay
  try dsimp only
  repeat' first
    | with_reducible assumption
    | with_reducible apply State.sendRingIrq_sound
    | with_reducible apply State.advanceTo_sound
    | with_reducible apply foldl_sound
    | (intro _; intros; try dsimp only)
    | split
    | with_reducible apply State.mk_sound

theorem State.resetRing_sound {s : State} {n : Nat} (h : s.Sound) : (State.resetRing s n).Sound := by
  unfold State.resetRing
  try dsimp only
  repeat' first
    | with_reducible assumption
    | with_reducible apply State.modRing_sound
    | with_reducible apply State.set_sound
    | with_reducible apply foldl_sound
    | (intro _; intros; try dsimp only)
    | split
    | with_reducible apply State.mk_sound

theorem doRingReset_sound {ring : Nat} {s : State} (h : s.Sound) : (doRingReset ring s).Sound := by
  unfold doRingReset
  try dsimp only
  repeat' first
    | with_reducible assumption
    | with_reducible apply State.resetRing_sound
    | with_reducible apply foldl_sound
    | (intro _; intros; try dsimp only)
    | split
    | with_reducible apply State.mk_sound

theorem doRingResetDone_sound {ring : Nat} {s : State} (h : s.Sound) : (doRingResetDone ring s).Sound := by
  unfold doRingResetDone
  try dsimp only
  repeat' first
    | with_reducible assumption
    | with_reducible apply State.set_sound
    | with_reducible apply State.noteFull_sound
    | with_reducible apply foldl_sound
    | (intro _; intros; try dsimp only)
    | split
    | with_reducible apply State.mk_sound

theorem doNop_sound {ring : Nat} {s : State} (h : s.Sound) : (doNop ring s).Sound := by
  unfold doNop
  try dsimp only
  repeat' first
    | with_reducible assumption
    | with_reducible apply State.finish_sound
    | with_reducible apply foldl_sound
    | (intro _; intros; try dsimp only)
    | split
    | with_reducible apply State.mk_sound

theorem doFence_sound {ring : Nat} {s : State} (h : s.Sound) : (doFence ring s).Sound := by
  unfold doFence
  try dsimp only
  repeat' first
    | with_reducible assumption
    | with_reducible apply State.finish_sound
    | with_reducible apply foldl_sound
    | (intro _; intros; try dsimp only)
    | split
    | with_reducible apply State.mk_sound

theorem State.startCopy_sound {s : State} {n : Nat} {op : Nat} (h : s.Sound) : (State.startCopy s n op).Sound := by
  unfold State.startCopy
  try dsimp only
  repeat' first
    | with_reducible assumption
    | with_reducible apply State.finish_sound
    | with_reducible apply State.hostRead_sound
    | with_reducible apply State.beginDesc_sound
    | with_reducible apply foldl_sound
    | (intro _; intros; try dsimp only)
    | split
    | with_reducible apply State.mk_sound

theorem doCopyIn_sound {ring : Nat} {s : State} (h : s.Sound) : (doCopyIn ring s).Sound := by
  unfold doCopyIn
  try dsimp only
  repeat' first
    | with_reducible assumption
    | with_reducible apply State.startCopy_sound
    | with_reducible apply foldl_sound
    | (intro _; intros; try dsimp only)
    | split
    | with_reducible apply State.mk_sound

theorem doCopyOut_sound {ring : Nat} {s : State} (h : s.Sound) : (doCopyOut ring s).Sound := by
  unfold doCopyOut
  try dsimp only
  repeat' first
    | with_reducible assumption
    | with_reducible apply State.startCopy_sound
    | with_reducible apply foldl_sound
    | (intro _; intros; try dsimp only)
    | split
    | with_reducible apply State.mk_sound

theorem doCopyDone_sound {ring : Nat} {seq : Nat} {data : List Byte} {hostStatus : Nat} {s : State} (h : s.Sound) : (doCopyDone ring seq data hostStatus s).Sound := by
  unfold doCopyDone
  try dsimp only
  repeat' first
    | with_reducible assumption
    | with_reducible apply State.wakeHbm_sound
    | with_reducible apply State.finish_sound
    | with_reducible apply State.writeHbm_sound
    | with_reducible apply State.hostWrite_sound
    | with_reducible apply foldl_sound
    | (intro _; intros; try dsimp only)
    | split
    | with_reducible apply State.mk_sound

theorem State.modCore_sound {s : State} {c : Nat} {f : Core → Core} (h : s.Sound) : (State.modCore s c f).Sound := by
  unfold State.modCore
  try dsimp only
  repeat' first
    | with_reducible assumption
    | with_reducible apply foldl_sound
    | (intro _; intros; try dsimp only)
    | split
    | with_reducible apply State.mk_sound

theorem State.modPort_sound {s : State} {n : Nat} {f : Port → Port} (h : s.Sound) : (State.modPort s n f).Sound := by
  unfold State.modPort
  try dsimp only
  repeat' first
    | with_reducible assumption
    | with_reducible apply foldl_sound
    | (intro _; intros; try dsimp only)
    | split
    | with_reducible apply State.mk_sound

theorem State.enqueueVia_sound {s : State} {n : Nat} {cls : Nat} {o : FabOut} {slot : Option (Nat × Nat)} {late : Bool} {via : Option Nat} (h : s.Sound) : (State.enqueueVia s n cls o slot late via).Sound := by
  unfold State.enqueueVia
  try dsimp only
  repeat' first
    | with_reducible assumption
    | with_reducible apply State.modPort_sound
    | with_reducible apply foldl_sound
    | (intro _; intros; try dsimp only)
    | split
    | with_reducible apply State.mk_sound

theorem State.enqueue_sound {s : State} {n : Nat} {cls : Nat} {o : FabOut} {slot : Option (Nat × Nat)} {late : Bool} (h : s.Sound) : (State.enqueue s n cls o slot late).Sound := by
  unfold State.enqueue
  try dsimp only
  repeat' first
    | with_reducible assumption
    | with_reducible apply State.enqueueVia_sound
    | with_reducible apply foldl_sound
    | (intro _; intros; try dsimp only)
    | split
    | with_reducible apply State.mk_sound

theorem State.sendFab_sound {s : State} {port : Nat} {o : FabOut} (h : s.Sound) : (State.sendFab s port o).Sound := by
  unfold State.sendFab
  try dsimp only
  repeat' first
    | with_reducible assumption
    | with_reducible apply State.enqueue_sound
    | with_reducible apply foldl_sound
    | (intro _; intros; try dsimp only)
    | split
    | with_reducible apply State.mk_sound

theorem State.sendNotice_sound {s : State} {p : Nat} {dest : Nat} {n : Notice} (h : s.Sound) : (State.sendNotice s p dest n).Sound := by
  unfold State.sendNotice
  try dsimp only
  repeat' first
    | with_reducible assumption
    | with_reducible apply State.sendFab_sound
    | with_reducible apply State.stampUsed_sound
    | with_reducible apply foldl_sound
    | (intro _; intros; try dsimp only)
    | split
    | with_reducible apply State.mk_sound

theorem State.noticeDown_sound {s : State} {p : Nat} {n : Notice} (h : s.Sound) : (State.noticeDown s p n).Sound := by
  unfold State.noticeDown
  try dsimp only
  repeat' first
    | with_reducible assumption
    | with_reducible apply State.sendNotice_sound
    | with_reducible apply foldl_sound
    | (intro _; intros; try dsimp only)
    | split
    | with_reducible apply State.mk_sound

theorem State.noticeUp_sound {s : State} {p : Nat} {n : Notice} (h : s.Sound) : (State.noticeUp s p n).Sound := by
  unfold State.noticeUp
  try dsimp only
  repeat' first
    | with_reducible assumption
    | with_reducible apply State.sendNotice_sound
    | with_reducible apply foldl_sound
    | (intro _; intros; try dsimp only)
    | split
    | with_reducible apply State.mk_sound

theorem State.stepFault_sound {s : State} {p : Nat} {c : FaultCause} (h : s.Sound) : (State.stepFault s p c).Sound := by
  unfold State.stepFault
  try dsimp only
  repeat' first
    | with_reducible assumption
    | with_reducible apply State.raise_sound
    | with_reducible apply State.modPart_sound
    | with_reducible apply State.noticeDown_sound
    | with_reducible apply State.noticeUp_sound
    | with_reducible apply foldl_sound
    | (intro _; intros; try dsimp only)
    | split
    | with_reducible apply State.mk_sound

theorem State.modBarrier_sound {s : State} {p : Nat} {f : Barrier → Barrier} (h : s.Sound) : (State.modBarrier s p f).Sound := by
  unfold State.modBarrier
  try dsimp only
  repeat' first
    | with_reducible assumption
    | with_reducible apply State.modPart_sound
    | with_reducible apply foldl_sound
    | (intro _; intros; try dsimp only)
    | split
    | with_reducible apply State.mk_sound

theorem State.tryCombine_sound {s : State} {p : Nat} (h : s.Sound) : (State.tryCombine s p).Sound := by
  unfold State.tryCombine
  try dsimp only
  repeat' first
    | with_reducible assumption
    | with_reducible apply State.noticeDown_sound
    | with_reducible apply State.modBarrier_sound
    | with_reducible apply State.noticeUp_sound
    | with_reducible apply foldl_sound
    | (intro _; intros; try dsimp only)
    | split
    | with_reducible apply State.mk_sound

theorem State.tryCombineDrained_sound {s : State} {p : Nat} (h : s.Sound) : (State.tryCombineDrained s p).Sound := by
  unfold State.tryCombineDrained
  try dsimp only
  repeat' first
    | with_reducible assumption
    | with_reducible apply State.noticeDown_sound
    | with_reducible apply State.modBarrier_sound
    | with_reducible apply State.noticeUp_sound
    | with_reducible apply foldl_sound
    | (intro _; intros; try dsimp only)
    | split
    | with_reducible apply State.mk_sound

theorem State.ownNotice_sound {s : State} {p : Nat} (h : s.Sound) : (State.ownNotice s p).Sound := by
  unfold State.ownNotice
  try dsimp only
  repeat' first
    | with_reducible assumption
    | with_reducible apply State.tryCombine_sound
    | with_reducible apply State.modBarrier_sound
    | with_reducible apply State.issueStamp_sound
    | with_reducible apply foldl_sound
    | (intro _; intros; try dsimp only)
    | split
    | with_reducible apply State.mk_sound

theorem State.noteLate_sound {s : State} {p : Nat} {origin : Nat} (h : s.Sound) : (State.noteLate s p origin).Sound := by
  unfold State.noteLate
  try dsimp only
  repeat' first
    | with_reducible assumption
    | with_reducible apply State.raise_sound
    | with_reducible apply State.count_sound
    | with_reducible apply foldl_sound
    | (intro _; intros; try dsimp only)
    | split
    | with_reducible apply State.mk_sound

theorem State.completionNotice_sound {s : State} {p : Nat} {n : Notice} (h : s.Sound) : (State.completionNotice s p n).Sound := by
  unfold State.completionNotice
  try dsimp only
  repeat' first
    | with_reducible assumption
    | with_reducible apply State.stepFault_sound
    | with_reducible apply State.noticeDown_sound
    | with_reducible apply State.noteLate_sound
    | with_reducible apply State.modBarrier_sound
    | with_reducible apply State.tryCombine_sound
    | with_reducible apply foldl_sound
    | (intro _; intros; try dsimp only)
    | split
    | with_reducible apply State.mk_sound

theorem State.faultNotice_sound {s : State} {p : Nat} {n : Notice} (h : s.Sound) : (State.faultNotice s p n).Sound := by
  unfold State.faultNotice
  try dsimp only
  repeat' first
    | with_reducible assumption
    | with_reducible apply State.noticeDown_sound
    | with_reducible apply State.noticeUp_sound
    | with_reducible apply State.stepFault_sound
    | with_reducible apply foldl_sound
    | (intro _; intros; try dsimp only)
    | split
    | with_reducible apply State.mk_sound

theorem State.drainedNotice_sound {s : State} {p : Nat} {n : Notice} (h : s.Sound) : (State.drainedNotice s p n).Sound := by
  unfold State.drainedNotice
  try dsimp only
  repeat' first
    | with_reducible assumption
    | with_reducible apply State.noticeDown_sound
    | with_reducible apply State.modBarrier_sound
    | with_reducible apply State.tryCombineDrained_sound
    | with_reducible apply foldl_sound
    | (intro _; intros; try dsimp only)
    | split
    | with_reducible apply State.mk_sound

theorem State.applyNotice_sound {s : State} {p : Nat} {n : Notice} (h : s.Sound) : (State.applyNotice s p n).Sound := by
  unfold State.applyNotice
  try dsimp only
  repeat' first
    | with_reducible assumption
    | with_reducible apply State.completionNotice_sound
    | with_reducible apply State.faultNotice_sound
    | with_reducible apply State.drainedNotice_sound
    | with_reducible apply foldl_sound
    | (intro _; intros; try dsimp only)
    | split
    | with_reducible apply State.mk_sound

theorem State.modRun_sound {s : State} {p : Nat} {g : Nat} {t : Nat} {f : TaskRun → TaskRun} (h : s.Sound) : (State.modRun s p g t f).Sound := by
  unfold State.modRun
  try dsimp only
  repeat' first
    | with_reducible assumption
    | with_reducible apply State.modPart_sound
    | with_reducible apply foldl_sound
    | (intro _; intros; try dsimp only)
    | split
    | with_reducible apply State.mk_sound

theorem State.beginStep_sound {s : State} {p : Nat} {step : Nat} {e : Nat} (h : s.Sound) : (State.beginStep s p step e).Sound := by
  unfold State.beginStep
  try dsimp only
  repeat' first
    | with_reducible assumption
    | with_reducible apply State.modPart_sound
    | with_reducible apply State.modCore_sound
    | with_reducible apply State.applyNotice_sound
    | with_reducible apply foldl_sound
    | (intro _; intros; try dsimp only)
    | split
    | with_reducible apply State.mk_sound

theorem State.modLayer_sound {s : State} {l : Nat} {f : LayerEntry → LayerEntry} (h : s.Sound) : (State.modLayer s l f).Sound := by
  unfold State.modLayer
  try dsimp only
  repeat' first
    | with_reducible assumption
    | with_reducible apply foldl_sound
    | (intro _; intros; try dsimp only)
    | split
    | with_reducible apply State.mk_sound

theorem State.admitLayers_sound {s : State} {pl : Plan} (h : s.Sound) : (State.admitLayers s pl).Sound := by
  unfold State.admitLayers
  try dsimp only
  repeat' first
    | with_reducible assumption
    | with_reducible apply foldl_sound
    | (intro _; intros; try dsimp only)
    | split
    | with_reducible apply State.mk_sound

theorem State.endStepScales_sound {s : State} {p : Nat} (h : s.Sound) : (State.endStepScales s p).Sound := by
  unfold State.endStepScales
  try dsimp only
  repeat' first
    | with_reducible assumption
    | with_reducible apply State.modLayer_sound
    | with_reducible apply State.raise_sound
    | with_reducible apply foldl_sound
    | (intro _; intros; try dsimp only)
    | split
    | with_reducible apply State.mk_sound

theorem State.recordAmax_sound {s : State} {l : Nat} {a : Fp} (h : s.Sound) : (State.recordAmax s l a).Sound := by
  unfold State.recordAmax
  try dsimp only
  repeat' first
    | with_reducible assumption
    | with_reducible apply State.modLayer_sound
    | with_reducible apply foldl_sound
    | (intro _; intros; try dsimp only)
    | split
    | with_reducible apply State.mk_sound

theorem doPromotionExpiry_sound {p : Nat} {layer : Nat} {s : State} (h : s.Sound) : (doPromotionExpiry p layer s).Sound := by
  unfold doPromotionExpiry
  try dsimp only
  repeat' first
    | with_reducible assumption
    | with_reducible apply State.raise_sound
    | with_reducible apply State.count_sound
    | with_reducible apply State.modLayer_sound
    | with_reducible apply foldl_sound
    | (intro _; intros; try dsimp only)
    | split
    | with_reducible apply State.mk_sound

theorem State.setRemoteScale_sound {s : State} {p : Nat} {l : Nat} {e : Int} (h : s.Sound) : (State.setRemoteScale s p l e).Sound := by
  unfold State.setRemoteScale
  try dsimp only
  repeat' first
    | with_reducible assumption
    | with_reducible apply State.modLayer_sound
    | with_reducible apply foldl_sound
    | (intro _; intros; try dsimp only)
    | split
    | with_reducible apply State.mk_sound

theorem State.modGroup_sound {s : State} {p : Nat} {g : Nat} {f : GroupState → GroupState} (h : s.Sound) : (State.modGroup s p g f).Sound := by
  unfold State.modGroup
  try dsimp only
  repeat' first
    | with_reducible assumption
    | with_reducible apply State.modPart_sound
    | with_reducible apply foldl_sound
    | (intro _; intros; try dsimp only)
    | split
    | with_reducible apply State.mk_sound

theorem State.admitGroups_sound {s : State} {p : Nat} {pl : Plan} (h : s.Sound) : (State.admitGroups s p pl).Sound := by
  unfold State.admitGroups
  try dsimp only
  repeat' first
    | with_reducible assumption
    | with_reducible apply State.modPart_sound
    | with_reducible apply foldl_sound
    | (intro _; intros; try dsimp only)
    | split
    | with_reducible apply State.mk_sound

theorem State.setEta_sound {s : State} {p : Nat} {g : Nat} {pl : Plan} {e : GroupEntry} (h : s.Sound) : (State.setEta s p g pl e).Sound := by
  unfold State.setEta
  try dsimp only
  repeat' first
    | with_reducible assumption
    | with_reducible apply State.modGroup_sound
    | with_reducible apply foldl_sound
    | (intro _; intros; try dsimp only)
    | split
    | with_reducible apply State.mk_sound

theorem State.evalEta_sound {s : State} {p : Nat} {pl : Plan} (h : s.Sound) : (State.evalEta s p pl).Sound := by
  unfold State.evalEta
  try dsimp only
  repeat' first
    | with_reducible assumption
    | with_reducible apply State.setEta_sound
    | with_reducible apply foldl_sound
    | (intro _; intros; try dsimp only)
    | split
    | with_reducible apply State.mk_sound

theorem State.groupBoundary_sound {s : State} {p : Nat} {g : Nat} (h : s.Sound) : (State.groupBoundary s p g).Sound := by
  unfold State.groupBoundary
  try dsimp only
  repeat' first
    | with_reducible assumption
    | with_reducible apply State.raise_sound
    | with_reducible apply State.set_sound
    | with_reducible apply State.modGroup_sound
    | with_reducible apply foldl_sound
    | (intro _; intros; try dsimp only)
    | split
    | with_reducible apply State.mk_sound

theorem State.groupsBoundary_sound {s : State} {p : Nat} {pl : Plan} (h : s.Sound) : (State.groupsBoundary s p pl).Sound := by
  unfold State.groupsBoundary
  try dsimp only
  repeat' first
    | with_reducible assumption
    | with_reducible apply State.evalEta_sound
    | with_reducible apply State.groupBoundary_sound
    | with_reducible apply foldl_sound
    | (intro _; intros; try dsimp only)
    | split
    | with_reducible apply State.mk_sound

theorem State.tear_sound {s : State} {p : Nat} {g : Nat} {cause : Nat} (h : s.Sound) : (State.tear s p g cause).Sound := by
  unfold State.tear
  try dsimp only
  repeat' first
    | with_reducible assumption
    | with_reducible apply State.raise_sound
    | with_reducible apply State.modGroup_sound
    | with_reducible apply State.count_sound
    | with_reducible apply State.set_sound
    | with_reducible apply foldl_sound
    | (intro _; intros; try dsimp only)
    | split
    | with_reducible apply State.mk_sound

theorem State.transientError_sound {s : State} {p : Nat} {u : UnitId} {value : Nat} {cause : Nat} (h : s.Sound) : (State.transientError s p u value cause).Sound := by
  unfold State.transientError
  try dsimp only
  repeat' first
    | with_reducible assumption
    | with_reducible apply State.stepFault_sound
    | with_reducible apply State.count_sound
    | with_reducible apply State.raiseFor_sound
    | with_reducible apply foldl_sound
    | (intro _; intros; try dsimp only)
    | split
    | with_reducible apply State.mk_sound

theorem State.wantRestore_sound {s : State} {p : Nat} {g : Nat} (h : s.Sound) : (State.wantRestore s p g).Sound := by
  unfold State.wantRestore
  try dsimp only
  repeat' first
    | with_reducible assumption
    | with_reducible apply State.modPart_sound
    | with_reducible apply foldl_sound
    | (intro _; intros; try dsimp only)
    | split
    | with_reducible apply State.mk_sound

theorem State.persistentError_sound {s : State} {p : Nat} {g : Nat} {u : UnitId} {by_ : UeReader} (h : s.Sound) : (State.persistentError s p g u by_).Sound := by
  unfold State.persistentError
  try dsimp only
  repeat' first
    | with_reducible assumption
    | with_reducible apply State.count_sound
    | with_reducible apply State.raiseFor_sound
    | with_reducible apply State.stepFault_sound
    | with_reducible apply State.wantRestore_sound
    | with_reducible apply foldl_sound
    | (intro _; intros; try dsimp only)
    | split
    | with_reducible apply State.mk_sound

theorem State.setTag_sound {s : State} {p : Nat} {space : Nat} {a : Nat} {v : Nat} (h : s.Sound) : (State.setTag s p space a v).Sound := by
  unfold State.setTag
  try dsimp only
  repeat' first
    | with_reducible assumption
    | with_reducible apply foldl_sound
    | (intro _; intros; try dsimp only)
    | split
    | with_reducible apply State.mk_sound

theorem State.modGen_sound {s : State} {p : Nat} {g : Nat} {f : Gen → Gen} (h : s.Sound) : (State.modGen s p g f).Sound := by
  unfold State.modGen
  try dsimp only
  repeat' first
    | with_reducible assumption
    | with_reducible apply State.modPart_sound
    | with_reducible apply foldl_sound
    | (intro _; intros; try dsimp only)
    | split
    | with_reducible apply State.mk_sound

theorem State.encoderWrite_sound {s : State} {p : Nat} {space : Nat} {a : Nat} {bs : List Byte} (h : s.Sound) : (State.encoderWrite s p space a bs).Sound := by
  unfold State.encoderWrite
  split
  · exact State.mk_mem_sound h (Memory.wf_writeN _ _ _ h.mem) h.staging h.neg
  · exact State.mk_mem_sound h h.mem h.staging (Memory.wf_writeN _ _ _ h.neg)
  · exact h

theorem State.putBlock_sound {s : State} {p : Nat} {space : Nat} {a : Nat} {c : Coded} (h : s.Sound) : (State.putBlock s p space a c).Sound := by
  unfold State.putBlock
  try dsimp only
  repeat' first
    | with_reducible assumption
    | with_reducible apply State.setTag_sound
    | with_reducible apply State.encoderWrite_sound
    | with_reducible apply foldl_sound
    | (intro _; intros; try dsimp only)
    | split
    | with_reducible apply State.mk_sound

theorem State.clearWrite_sound {s : State} {p : Nat} {space : Nat} {a : Nat} {w : Nat} {data : List Byte} (h : s.Sound) : (State.clearWrite s p space a w data).Sound := by
  unfold State.clearWrite
  try dsimp only
  repeat' first
    | with_reducible assumption
    | with_reducible apply State.count_sound
    | with_reducible apply State.putBlock_sound
    | with_reducible apply foldl_sound
    | (intro _; intros; try dsimp only)
    | split
    | with_reducible apply State.mk_sound

theorem State.codecError_sound {s : State} {p : Nat} {space : Nat} {a : Nat} {cause : CodecCause} {persistent : Bool} {group : Option Nat} (h : s.Sound) : (State.codecError s p space a cause persistent group).Sound := by
  unfold State.codecError
  try dsimp only
  repeat' first
    | with_reducible assumption
    | with_reducible apply State.raiseFor_sound
    | with_reducible apply State.setPair_sound
    | with_reducible apply State.count_sound
    | with_reducible apply State.set_sound
    | with_reducible apply State.persistentError_sound
    | with_reducible apply State.transientError_sound
    | with_reducible apply foldl_sound
    | (intro _; intros; try dsimp only)
    | split
    | with_reducible apply State.mk_sound

theorem State.modQueue_sound {s : State} {p : Nat} {q : Nat} {f : QueueRun → QueueRun} (h : s.Sound) : (State.modQueue s p q f).Sound := by
  unfold State.modQueue
  try dsimp only
  repeat' first
    | with_reducible assumption
    | with_reducible apply State.modPart_sound
    | with_reducible apply foldl_sound
    | (intro _; intros; try dsimp only)
    | split
    | with_reducible apply State.mk_sound

theorem State.readQueue_sound {s : State} {p : Nat} {q : Nat} {c : Nat} {pays : Bool} (h : s.Sound) : (State.readQueue s p q c pays).2.Sound := by
  unfold State.readQueue
  try dsimp only
  repeat' first
    | with_reducible assumption
    | with_reducible apply State.modQueue_sound
    | with_reducible apply State.count_sound
    | with_reducible apply State.issueStamp_sound
    | with_reducible apply State.raise_sound
    | with_reducible apply foldl_sound
    | (intro _; intros; try dsimp only)
    | split
    | with_reducible apply State.mk_sound

theorem State.readQueueN_sound {s : State} {p : Nat} {q : Nat} {c : Nat} {pays : Bool} {a : Nat} (h : s.Sound) : (State.readQueueN s p q c pays a).2.Sound := by
  induction a generalizing s with
  | zero => exact h
  | succ n ih =>
    simp only [State.readQueueN]
    exact ih (State.readQueue_sound h)

theorem State.writeQueue_sound {s : State} {p : Nat} {q : Nat} {i : QueueItem} (h : s.Sound) : (State.writeQueue s p q i).Sound := by
  unfold State.writeQueue
  try dsimp only
  repeat' first
    | with_reducible assumption
    | with_reducible apply State.modQueue_sound
    | with_reducible apply foldl_sound
    | (intro _; intros; try dsimp only)
    | split
    | with_reducible apply State.mk_sound

theorem State.raiseOnce_sound {s : State} {c : Nat} {e : EvKind} {d : Detail} (h : s.Sound) : (State.raiseOnce s c e d).Sound := by
  unfold State.raiseOnce
  try dsimp only
  repeat' first
    | with_reducible assumption
    | with_reducible apply State.raise_sound
    | with_reducible apply State.modCore_sound
    | with_reducible apply foldl_sound
    | (intro _; intros; try dsimp only)
    | split
    | with_reducible apply State.mk_sound

theorem State.noteWait_sound {s : State} {c : Nat} {key : Nat} {queue : Nat} (h : s.Sound) : (State.noteWait s c key queue).Sound := by
  unfold State.noteWait
  try dsimp only
  repeat' first
    | with_reducible assumption
    | with_reducible apply State.modCore_sound
    | with_reducible apply State.count_sound
    | with_reducible apply State.raise_sound
    | with_reducible apply foldl_sound
    | (intro _; intros; try dsimp only)
    | split
    | with_reducible apply State.mk_sound

theorem State.endWaits_sound {s : State} {p : Nat} {c : Nat} (h : s.Sound) : (State.endWaits s p c).Sound := by
  unfold State.endWaits
  try dsimp only
  repeat' first
    | with_reducible assumption
    | with_reducible apply State.modCore_sound
    | with_reducible apply foldl_sound
    | (intro _; intros; try dsimp only)
    | split
    | with_reducible apply State.mk_sound

theorem doTokenReceived_sound {core : Nat} {graph : Nat} {task : Nat} {s : State} (h : s.Sound) : (doTokenReceived core graph task s).Sound := by
  unfold doTokenReceived
  try dsimp only
  repeat' first
    | with_reducible assumption
    | with_reducible apply State.modCore_sound
    | with_reducible apply foldl_sound
    | (intro _; intros; try dsimp only)
    | split
    | with_reducible apply State.mk_sound

theorem State.endShare_sound {s : State} {p : Nat} {c : Nat} {g : Nat} {t : Nat} {task : Task} {hits : Nat} {bad : Bool} (h : s.Sound) : (State.endShare s p c g t task hits bad).Sound := by
  unfold State.endShare
  try dsimp only
  repeat' first
    | with_reducible assumption
    | with_reducible apply State.modRun_sound
    | with_reducible apply State.count_sound
    | with_reducible apply State.modCore_sound
    | with_reducible apply State.leaveDevelopers_sound
    | with_reducible apply State.set_sound
    | with_reducible apply State.raise_sound
    | with_reducible apply foldl_sound
    | (intro _; intros; try dsimp only)
    | split
    | with_reducible apply State.mk_sound

theorem State.keepCredits_sound {s : State} {r : Running} (h : s.Sound) : (State.keepCredits s r).Sound := by
  unfold State.keepCredits
  try dsimp only
  repeat' first
    | with_reducible assumption
    | with_reducible apply State.modQueue_sound
    | with_reducible apply foldl_sound
    | (intro _; intros; try dsimp only)
    | split
    | with_reducible apply State.mk_sound

theorem State.endEmpty_sound {s : State} {c : Nat} {r : Running} (h : s.Sound) : (State.endEmpty s c r).Sound := by
  unfold State.endEmpty
  try dsimp only
  repeat' first
    | with_reducible assumption
    | with_reducible apply State.endShare_sound
    | with_reducible apply foldl_sound
    | (intro _; intros; try dsimp only)
    | split
    | with_reducible apply State.mk_sound

end Sys2Proof.Machine
end

