-- ==== Sys2Proof/Laws/Sound2.lean ====
section
/-! SUPPORT. Every operation that answers a state keeps a sound state sound, for the operations in Operands.lean, Tiling.lean, Products.lean, Vector.lean, Developer.lean, Requests.lean, Contexts.lean, Attention.lean, Experts.lean, Convolution.lean, Images.lean. -/

set_option Elab.async false

namespace Sys2Proof.Machine

theorem State.readErrors_sound {s : State} {r : Running} {o : Operand} {blocks : List Nat} (h : s.Sound) : (State.readErrors s r o blocks).Sound := by
  unfold State.readErrors
  try dsimp only
  repeat' first
    | with_reducible assumption
    | with_reducible apply State.codecError_sound
    | with_reducible apply foldl_sound
    | (intro _; intros; try dsimp only)
    | split
    | with_reducible apply State.mk_sound

theorem State.load_sound {s : State} {r : Running} {o : Operand} {runs : List Run} (h : s.Sound) : (State.load s r o runs).Sound := by
  unfold State.load
  try dsimp only
  repeat' first
    | with_reducible assumption
    | with_reducible apply State.count_sound
    | with_reducible apply State.readErrors_sound
    | with_reducible apply foldl_sound
    | (intro _; intros; try dsimp only)
    | split
    | with_reducible apply State.mk_sound

theorem State.loadAll_sound {s : State} {r : Running} {reads : List (Operand × List Run)} (h : s.Sound) : (State.loadAll s r reads).1.Sound := by
  unfold State.loadAll
  try dsimp only
  repeat' first
    | with_reducible assumption
    | with_reducible apply State.load_sound
    | with_reducible apply foldl_sound
    | (intro _; intros; try dsimp only)
    | split
    | with_reducible apply State.mk_sound

theorem State.putBits_sound {s : State} {p : Nat} {t : Tensor} {off : Nat} {codes : List Nat} (h : s.Sound) : (State.putBits s p t off codes).Sound := by
  unfold State.putBits
  try dsimp only
  repeat' first
    | with_reducible assumption
    | with_reducible apply State.writeSpace_sound
    | with_reducible apply foldl_sound
    | (intro _; intros; try dsimp only)
    | split
    | with_reducible apply State.mk_sound

theorem State.putMxBlock_sound {s : State} {p : Nat} {t : Tensor} {x : Piece} {c0 : Nat} {b : Nat} (h : s.Sound) : (State.putMxBlock s p t x c0 b).Sound := by
  unfold State.putMxBlock
  try dsimp only
  repeat' first
    | with_reducible assumption
    | with_reducible apply State.putBits_sound
    | with_reducible apply State.writeSpace_sound
    | with_reducible apply foldl_sound
    | (intro _; intros; try dsimp only)
    | split
    | with_reducible apply State.mk_sound

theorem State.putPiece_sound {s : State} {p : Nat} {t : Tensor} {x : Piece} (h : s.Sound) : (State.putPiece s p t x).Sound := by
  unfold State.putPiece
  try dsimp only
  repeat' first
    | with_reducible assumption
    | with_reducible apply State.putMxBlock_sound
    | with_reducible apply State.putBits_sound
    | with_reducible apply foldl_sound
    | (intro _; intros; try dsimp only)
    | split
    | with_reducible apply State.mk_sound

theorem State.putGrainBlock_sound {s : State} {p : Nat} {t : Tensor} {xs : List Piece} {b : Nat} (h : s.Sound) : (State.putGrainBlock s p t xs b).Sound := by
  unfold State.putGrainBlock
  try dsimp only
  repeat' first
    | with_reducible assumption
    | with_reducible apply State.writeSpace_sound
    | with_reducible apply foldl_sound
    | (intro _; intros; try dsimp only)
    | split
    | with_reducible apply State.mk_sound

theorem State.store_sound {s : State} {p : Nat} {t : Tensor} {xs : List Piece} (h : s.Sound) : (State.store s p t xs).Sound := by
  unfold State.store
  try dsimp only
  repeat' first
    | with_reducible assumption
    | with_reducible apply State.count_sound
    | with_reducible apply State.putGrainBlock_sound
    | with_reducible apply State.putPiece_sound
    | with_reducible apply foldl_sound
    | (intro _; intros; try dsimp only)
    | split
    | with_reducible apply State.mk_sound

theorem State.putMxPart_sound {s : State} {r : Running} {t : Tensor} {x : Nat × Marked} (h : s.Sound) : (State.putMxPart s r t x).1.Sound := by
  unfold State.putMxPart
  try dsimp only
  repeat' first
    | with_reducible assumption
    | with_reducible apply State.modRun_sound
    | with_reducible apply State.putPiece_sound
    | with_reducible apply foldl_sound
    | (intro _; intros; try dsimp only)
    | split
    | with_reducible apply State.mk_sound

theorem State.storeShare_sound {s : State} {r : Running} {t : Tensor} {xs : List Marked} (h : s.Sound) : (State.storeShare s r t xs).1.Sound := by
  unfold State.storeShare
  try dsimp only
  repeat' first
    | with_reducible assumption
    | with_reducible apply State.putMxPart_sound
    | with_reducible apply State.store_sound
    | with_reducible apply foldl_fst_sound
    | with_reducible apply foldl_snd_sound
    | with_reducible apply foldl_sound
    | (intro _; intros; try dsimp only)
    | split
    | with_reducible apply State.mk_sound

theorem State.recordGrad_sound {s : State} {r : Running} {t : Tensor} {runs : List Run} (h : s.Sound) : (State.recordGrad s r t runs).Sound := by
  unfold State.recordGrad
  try dsimp only
  repeat' first
    | with_reducible assumption
    | with_reducible apply State.recordAmax_sound
    | with_reducible apply foldl_sound
    | (intro _; intros; try dsimp only)
    | split
    | with_reducible apply State.mk_sound

theorem State.takeFrames_sound {s : State} {c : Nat} {r : Running} (h : s.Sound) : (State.takeFrames s c r).2.Sound := by
  unfold State.takeFrames
  try dsimp only
  repeat' first
    | with_reducible assumption
    | with_reducible apply State.readQueueN_sound
    | with_reducible apply foldl_sound
    | (intro _; intros; try dsimp only)
    | split
    | with_reducible apply State.mk_sound

theorem State.writeFrames_sound {s : State} {r : Running} (h : s.Sound) : (State.writeFrames s r).Sound := by
  unfold State.writeFrames
  try dsimp only
  repeat' first
    | with_reducible assumption
    | with_reducible apply State.useFree_sound
    | with_reducible apply State.writeQueue_sound
    | with_reducible apply foldl_sound
    | (intro _; intros; try dsimp only)
    | split
    | with_reducible apply State.mk_sound

theorem State.endTask_sound {s : State} {c : Nat} {r : Running} {hits : Nat} {bad : Bool} (h : s.Sound) : (State.endTask s c r hits bad).Sound := by
  unfold State.endTask
  try dsimp only
  repeat' first
    | with_reducible assumption
    | with_reducible apply State.endShare_sound
    | with_reducible apply State.writeFrames_sound
    | with_reducible apply foldl_sound
    | (intro _; intros; try dsimp only)
    | split
    | with_reducible apply State.mk_sound

theorem State.touchShape_sound {s : State} {d : Nat} {k : ShapeKey} (h : s.Sound) : (State.touchShape s d k).Sound := by
  unfold State.touchShape
  try dsimp only
  repeat' first
    | with_reducible assumption
    | with_reducible apply foldl_sound
    | (intro _; intros; try dsimp only)
    | split
    | with_reducible apply State.mk_sound

theorem State.enterShape_sound {s : State} {d : Nat} {e : ShapeEntry} (h : s.Sound) : (State.enterShape s d e).Sound := by
  unfold State.enterShape
  try dsimp only
  repeat' first
    | with_reducible assumption
    | with_reducible apply foldl_sound
    | (intro _; intros; try dsimp only)
    | split
    | with_reducible apply State.mk_sound

theorem State.showRecord_sound {s : State} {c : Nat} {tl : Tiling} (h : s.Sound) : (State.showRecord s c tl).Sound := by
  unfold State.showRecord
  try dsimp only
  repeat' first
    | with_reducible assumption
    | with_reducible apply State.set_sound
    | with_reducible apply foldl_sound
    | (intro _; intros; try dsimp only)
    | split
    | with_reducible apply State.mk_sound

theorem State.giveRecord_sound {s : State} {c : Nat} {early : Option (Nat × Nat)} {tl : Tiling} (h : s.Sound) : (State.giveRecord s c early tl).Sound := by
  unfold State.giveRecord
  try dsimp only
  repeat' first
    | with_reducible assumption
    | with_reducible apply State.showRecord_sound
    | with_reducible apply State.modCore_sound
    | with_reducible apply State.count_sound
    | with_reducible apply foldl_sound
    | (intro _; intros; try dsimp only)
    | split
    | with_reducible apply State.mk_sound

theorem State.lateRecord_sound {s : State} {c : Nat} {task : Nat} {delayNs : Nat} (h : s.Sound) : (State.lateRecord s c task delayNs).Sound := by
  unfold State.lateRecord
  try dsimp only
  repeat' first
    | with_reducible assumption
    | with_reducible apply State.count_sound
    | with_reducible apply State.modCore_sound
    | with_reducible apply State.raise_sound
    | with_reducible apply foldl_sound
    | (intro _; intros; try dsimp only)
    | split
    | with_reducible apply State.mk_sound

theorem doTilingRecord_sound {core : Nat} {delayNs : Nat} {s : State} (h : s.Sound) : (doTilingRecord core delayNs s).Sound := by
  unfold doTilingRecord
  try dsimp only
  repeat' first
    | with_reducible assumption
    | with_reducible apply State.lateRecord_sound
    | with_reducible apply State.count_sound
    | with_reducible apply State.giveRecord_sound
    | with_reducible apply State.touchShape_sound
    | with_reducible apply foldl_sound
    | (intro _; intros; try dsimp only)
    | split
    | with_reducible apply State.mk_sound

theorem doShapeSearchDone_sound {core : Nat} {tiling : Tiling} {s : State} (h : s.Sound) : (doShapeSearchDone core tiling s).Sound := by
  unfold doShapeSearchDone
  try dsimp only
  repeat' first
    | with_reducible assumption
    | with_reducible apply State.enterShape_sound
    | with_reducible apply foldl_sound
    | (intro _; intros; try dsimp only)
    | split
    | with_reducible apply State.mk_sound

theorem State.runShare_sound {s : State} {c : Nat} {r : Running} {x : ProductRun} (h : s.Sound) : (State.runShare s c r x).Sound := by
  unfold State.runShare
  try dsimp only
  repeat' first
    | with_reducible assumption
    | with_reducible apply State.takeFrames_sound
    | with_reducible apply State.endTask_sound
    | with_reducible apply State.loadAll_sound
    | with_reducible apply State.storeShare_sound
    | with_reducible apply State.recordGrad_sound
    | with_reducible apply State.useFree_sound
    | with_reducible apply State.modCore_sound
    | with_reducible apply foldl_sound
    | (intro _; intros; try dsimp only)
    | split
    | with_reducible apply State.mk_sound

theorem State.tileIllegal_sound {s : State} {c : Nat} {r : Running} {x : Nat × Nat × Nat} (h : s.Sound) : (State.tileIllegal s c r x).Sound := by
  unfold State.tileIllegal
  try dsimp only
  repeat' first
    | with_reducible assumption
    | with_reducible apply State.raise_sound
    | with_reducible apply State.endTask_sound
    | with_reducible apply State.stepFault_sound
    | with_reducible apply State.count_sound
    | with_reducible apply foldl_sound
    | (intro _; intros; try dsimp only)
    | split
    | with_reducible apply State.mk_sound

theorem State.arrayProduct_sound {s : State} {c : Nat} {r : Running} {q : Product} {tl : Tiling} (h : s.Sound) : (State.arrayProduct s c r q tl).Sound := by
  unfold State.arrayProduct
  try dsimp only
  repeat' first
    | with_reducible assumption
    | with_reducible apply State.endTask_sound
    | with_reducible apply State.set_sound
    | with_reducible apply State.tileIllegal_sound
    | with_reducible apply State.count_sound
    | with_reducible apply State.runShare_sound
    | with_reducible apply foldl_sound
    | (intro _; intros; try dsimp only)
    | split
    | with_reducible apply State.mk_sound

theorem State.vectorProduct_sound {s : State} {c : Nat} {r : Running} {q : Product} (h : s.Sound) : (State.vectorProduct s c r q).Sound := by
  unfold State.vectorProduct
  try dsimp only
  repeat' first
    | with_reducible assumption
    | with_reducible apply State.endTask_sound
    | with_reducible apply State.runShare_sound
    | with_reducible apply foldl_sound
    | (intro _; intros; try dsimp only)
    | split
    | with_reducible apply State.mk_sound

theorem State.productAtOnce_sound {s : State} {c : Nat} {r : Running} {q : Product} (h : s.Sound) : (State.productAtOnce s c r q).Sound := by
  unfold State.productAtOnce
  try dsimp only
  repeat' first
    | with_reducible assumption
    | with_reducible apply State.runShare_sound
    | with_reducible apply State.endTask_sound
    | with_reducible apply foldl_sound
    | (intro _; intros; try dsimp only)
    | split
    | with_reducible apply State.mk_sound

theorem State.productTask_sound {s : State} {c : Nat} {ok : Task → Bool} (h : s.Sound) : (State.productTask s c ok).Sound := by
  unfold State.productTask
  try dsimp only
  repeat' first
    | with_reducible assumption
    | with_reducible apply State.endEmpty_sound
    | with_reducible apply State.keepCredits_sound
    | with_reducible apply State.count_sound
    | with_reducible apply State.productAtOnce_sound
    | with_reducible apply State.vectorProduct_sound
    | with_reducible apply State.arrayProduct_sound
    | with_reducible apply foldl_sound
    | (intro _; intros; try dsimp only)
    | split
    | with_reducible apply State.mk_sound

theorem doMatrixProduct_sound {core : Nat} {s : State} (h : s.Sound) : (doMatrixProduct core s).Sound := by
  unfold doMatrixProduct
  try dsimp only
  repeat' first
    | with_reducible assumption
    | with_reducible apply State.productTask_sound
    | with_reducible apply foldl_sound
    | (intro _; intros; try dsimp only)
    | split
    | with_reducible apply State.mk_sound

theorem doDataGradientProduct_sound {core : Nat} {s : State} (h : s.Sound) : (doDataGradientProduct core s).Sound := by
  unfold doDataGradientProduct
  try dsimp only
  repeat' first
    | with_reducible assumption
    | with_reducible apply State.productTask_sound
    | with_reducible apply foldl_sound
    | (intro _; intros; try dsimp only)
    | split
    | with_reducible apply State.mk_sound

theorem doWeightGradientProduct_sound {core : Nat} {s : State} (h : s.Sound) : (doWeightGradientProduct core s).Sound := by
  unfold doWeightGradientProduct
  try dsimp only
  repeat' first
    | with_reducible assumption
    | with_reducible apply State.productTask_sound
    | with_reducible apply foldl_sound
    | (intro _; intros; try dsimp only)
    | split
    | with_reducible apply State.mk_sound

theorem State.endVector_sound {s : State} {c : Nat} {r : Running} {reads : List (Operand × List Run)} {out : Tensor} {ps : List Piece} {free : Nat} (h : s.Sound) : (State.endVector s c r reads out ps free).Sound := by
  unfold State.endVector
  try dsimp only
  repeat' first
    | with_reducible assumption
    | with_reducible apply State.loadAll_sound
    | with_reducible apply State.store_sound
    | with_reducible apply State.endTask_sound
    | with_reducible apply State.useFree_sound
    | with_reducible apply foldl_sound
    | (intro _; intros; try dsimp only)
    | split
    | with_reducible apply State.mk_sound

theorem State.absMaxShare_sound {s : State} {c : Nat} {r : Running} {a : Operand} {out : Tensor} {ks : List Nat} {frames : List (Option QueueItem)} (h : s.Sound) : (State.absMaxShare s c r a out ks frames).Sound := by
  unfold State.absMaxShare
  try dsimp only
  repeat' first
    | with_reducible assumption
    | with_reducible apply State.endVector_sound
    | with_reducible apply State.loadAll_sound
    | with_reducible apply State.endTask_sound
    | with_reducible apply foldl_sound
    | (intro _; intros; try dsimp only)
    | split
    | with_reducible apply State.mk_sound

theorem doVectorKernel_sound {core : Nat} {s : State} (h : s.Sound) : (doVectorKernel core s).Sound := by
  unfold doVectorKernel
  try dsimp only
  repeat' first
    | with_reducible assumption
    | with_reducible apply State.endTask_sound
    | with_reducible apply State.takeFrames_sound
    | with_reducible apply State.absMaxShare_sound
    | with_reducible apply State.endVector_sound
    | with_reducible apply foldl_sound
    | (intro _; intros; try dsimp only)
    | split
    | with_reducible apply State.mk_sound

theorem State.rangeErrors_sound {s : State} {c : Nat} {r : Running} {bad : List Int} (h : s.Sound) : (State.rangeErrors s c r bad).Sound := by
  unfold State.rangeErrors
  try dsimp only
  repeat' first
    | with_reducible assumption
    | with_reducible apply State.modRun_sound
    | with_reducible apply State.count_sound
    | with_reducible apply State.raise_sound
    | with_reducible apply foldl_sound
    | (intro _; intros; try dsimp only)
    | split
    | with_reducible apply State.mk_sound

theorem State.indexTask_sound {s : State} {c : Nat} {mode : Nat} {f : State →   Running →     Tensor →       Tensor →         Tensor → List Nat → List Nat → List Piece × List Run} (h : s.Sound) : (State.indexTask s c mode f).Sound := by
  unfold State.indexTask
  try dsimp only
  repeat' first
    | with_reducible assumption
    | with_reducible apply State.endTask_sound
    | with_reducible apply State.takeFrames_sound
    | with_reducible apply State.rangeErrors_sound
    | with_reducible apply State.endVector_sound
    | with_reducible apply foldl_sound
    | (intro _; intros; try dsimp only)
    | split
    | with_reducible apply State.mk_sound

theorem doGather_sound {core : Nat} {s : State} (h : s.Sound) : (doGather core s).Sound := by
  unfold doGather
  try dsimp only
  repeat' first
    | with_reducible assumption
    | with_reducible apply State.indexTask_sound
    | with_reducible apply foldl_sound
    | (intro _; intros; try dsimp only)
    | split
    | with_reducible apply State.mk_sound

theorem doScatter_sound {core : Nat} {s : State} (h : s.Sound) : (doScatter core s).Sound := by
  unfold doScatter
  try dsimp only
  repeat' first
    | with_reducible assumption
    | with_reducible apply State.indexTask_sound
    | with_reducible apply foldl_sound
    | (intro _; intros; try dsimp only)
    | split
    | with_reducible apply State.mk_sound

theorem doScatterAdd_sound {core : Nat} {s : State} (h : s.Sound) : (doScatterAdd core s).Sound := by
  unfold doScatterAdd
  try dsimp only
  repeat' first
    | with_reducible assumption
    | with_reducible apply State.indexTask_sound
    | with_reducible apply foldl_sound
    | (intro _; intros; try dsimp only)
    | split
    | with_reducible apply State.mk_sound

theorem State.putCodes_sound {s : State} {p : Nat} {t : Tensor} {xs : List (Nat × Nat)} (h : s.Sound) : (State.putCodes s p t xs).Sound := by
  unfold State.putCodes
  try dsimp only
  repeat' first
    | with_reducible assumption
    | with_reducible apply State.clearWrite_sound
    | with_reducible apply State.writeSpace_sound
    | with_reducible apply foldl_sound
    | (intro _; intros; try dsimp only)
    | split
    | with_reducible apply State.mk_sound

theorem State.devDraw_sound {s : State} {p : Nat} {unit : Nat} (h : s.Sound) : (State.devDraw s p unit).2.Sound := by
  unfold State.devDraw
  try dsimp only
  repeat' first
    | with_reducible assumption
    | with_reducible apply foldl_sound
    | (intro _; intros; try dsimp only)
    | split
    | with_reducible apply State.mk_sound

theorem State.srSaturate_sound {s : State} {p : Nat} {g : Nat} (h : s.Sound) : (State.srSaturate s p g).Sound := by
  unfold State.srSaturate
  try dsimp only
  repeat' first
    | with_reducible assumption
    | with_reducible apply State.modGroup_sound
    | with_reducible apply State.set_sound
    | with_reducible apply State.count_sound
    | with_reducible apply State.raise_sound
    | with_reducible apply foldl_sound
    | (intro _; intros; try dsimp only)
    | split
    | with_reducible apply State.mk_sound

theorem State.roundWeights_sound {s : State} {p : Nat} {g : Nat} {t : Tensor} {xs : List (Nat × Fp)} (h : s.Sound) : (State.roundWeights s p g t xs).2.Sound := by
  unfold State.roundWeights
  try dsimp only
  repeat' first
    | with_reducible assumption
    | with_reducible apply State.devDraw_sound
    | with_reducible apply State.srSaturate_sound
    | with_reducible apply foldl_fst_sound
    | with_reducible apply foldl_snd_sound
    | with_reducible apply foldl_sound
    | (intro _; intros; try dsimp only)
    | split
    | with_reducible apply State.mk_sound

theorem State.writeBlock_sound {s : State} {p : Nat} {g : Nat} {u : Update} {xs : List (Nat × Element)} (h : s.Sound) : (State.writeBlock s p g u xs).Sound := by
  unfold State.writeBlock
  try dsimp only
  repeat' first
    | with_reducible assumption
    | with_reducible apply State.putCodes_sound
    | with_reducible apply State.roundWeights_sound
    | with_reducible apply State.count_sound
    | with_reducible apply foldl_sound
    | (intro _; intros; try dsimp only)
    | split
    | with_reducible apply State.mk_sound

theorem State.applyBlocks_sound {s : State} {p : Nat} {g : Nat} {u : Update} {els : List (Nat × Element)} (h : s.Sound) : (State.applyBlocks s p g u els).Sound := by
  unfold State.applyBlocks
  try dsimp only
  repeat' first
    | with_reducible assumption
    | with_reducible apply State.writeBlock_sound
    | with_reducible apply State.stepFault_sound
    | with_reducible apply State.tear_sound
    | with_reducible apply foldl_sound
    | (intro _; intros; try dsimp only)
    | split
    | with_reducible apply State.mk_sound

theorem State.writeFactors_sound {s : State} {p : Nat} {g : Nat} {u : Update} {f : Factors} (h : s.Sound) : (State.writeFactors s p g u f).Sound := by
  unfold State.writeFactors
  try dsimp only
  repeat' first
    | with_reducible assumption
    | with_reducible apply State.putCodes_sound
    | with_reducible apply foldl_sound
    | (intro _; intros; try dsimp only)
    | split
    | with_reducible apply State.mk_sound

theorem State.writeRowSteps_sound {s : State} {p : Nat} {u : Update} {rows : List Nat} (h : s.Sound) : (State.writeRowSteps s p u rows).Sound := by
  unfold State.writeRowSteps
  try dsimp only
  repeat' first
    | with_reducible assumption
    | with_reducible apply State.putCodes_sound
    | with_reducible apply foldl_sound
    | (intro _; intros; try dsimp only)
    | split
    | with_reducible apply State.mk_sound

theorem State.updateShare_sound {s : State} {c : Nat} {r : Running} {g : Nat} {u : Update} (h : s.Sound) : (State.updateShare s c r g u).Sound := by
  unfold State.updateShare
  extract_lets sh all mine rows els untouched reads failed s1 s2 f vals caught s3 s4 s5
  have h1 : s1.Sound := by
    unfold s1
    split
    · exact h
    · exact State.count_sound h
  have h2 : s2.Sound := foldl_sound _ _ (fun _ _ h => State.load_sound h) h1
  split
  · exact State.tear_sound h2
  · split
    · exact State.stepFault_sound (State.tear_sound h2)
    · have h3 : s3.Sound := State.applyBlocks_sound h2
      have h4 : s4.Sound := by
        unfold s4
        split
        · exact State.writeFactors_sound h3
        · exact h3
      split
      · exact h4
      · have h5 : s5.Sound := by
          unfold s5
          split
          · exact h4
          · exact State.count_sound h4
        split
        · exact State.writeRowSteps_sound h5
        · exact h5

theorem State.groupUpdated_sound {s : State} {c : Nat} {r : Running} {g : Nat} {u : Update} (h : s.Sound) : (State.groupUpdated s c r g u).Sound := by
  unfold State.groupUpdated
  try dsimp only
  repeat' first
    | with_reducible assumption
    | with_reducible apply State.count_sound
    | with_reducible apply State.modGroup_sound
    | with_reducible apply foldl_sound
    | (intro _; intros; try dsimp only)
    | split
    | with_reducible apply State.mk_sound

theorem State.discardUpdate_sound {s : State} {c : Nat} {r : Running} {g : Nat} (h : s.Sound) : (State.discardUpdate s c r g).Sound := by
  unfold State.discardUpdate
  try dsimp only
  repeat' first
    | with_reducible assumption
    | with_reducible apply State.modGroup_sound
    | with_reducible apply State.count_sound
    | with_reducible apply State.raise_sound
    | with_reducible apply foldl_sound
    | (intro _; intros; try dsimp only)
    | split
    | with_reducible apply State.mk_sound

theorem State.skipUpdate_sound {s : State} {p : Nat} {g : Nat} (h : s.Sound) : (State.skipUpdate s p g).Sound := by
  unfold State.skipUpdate
  try dsimp only
  repeat' first
    | with_reducible assumption
    | with_reducible apply State.count_sound
    | with_reducible apply State.modGroup_sound
    | with_reducible apply foldl_sound
    | (intro _; intros; try dsimp only)
    | split
    | with_reducible apply State.mk_sound

theorem State.runUpdate_sound {s : State} {c : Nat} {r : Running} {g : Nat} (h : s.Sound) : (State.runUpdate s c r g).Sound := by
  unfold State.runUpdate
  try dsimp only
  repeat' first
    | with_reducible assumption
    | with_reducible apply State.discardUpdate_sound
    | with_reducible apply State.skipUpdate_sound
    | with_reducible apply State.groupUpdated_sound
    | with_reducible apply State.updateShare_sound
    | with_reducible apply foldl_sound
    | (intro _; intros; try dsimp only)
    | split
    | with_reducible apply State.mk_sound

theorem State.noteFixerWait_sound {s : State} {p : Nat} {g : Nat} (h : s.Sound) : (State.noteFixerWait s p g).Sound := by
  unfold State.noteFixerWait
  try dsimp only
  repeat' first
    | with_reducible assumption
    | with_reducible apply State.count_sound
    | with_reducible apply State.modPart_sound
    | with_reducible apply State.raiseFor_sound
    | with_reducible apply foldl_sound
    | (intro _; intros; try dsimp only)
    | split
    | with_reducible apply State.mk_sound

theorem doGroupUpdate_sound {core : Nat} {s : State} (h : s.Sound) : (doGroupUpdate core s).Sound := by
  unfold doGroupUpdate
  try dsimp only
  repeat' first
    | with_reducible assumption
    | with_reducible apply State.takeFrames_sound
    | with_reducible apply State.runUpdate_sound
    | with_reducible apply State.count_sound
    | with_reducible apply State.endTask_sound
    | with_reducible apply foldl_sound
    | (intro _; intros; try dsimp only)
    | split
    | with_reducible apply State.mk_sound

theorem State.request_sound {s : State} {p : Nat} {k : RequestKind} {n : Nat} {d : Started} (h : s.Sound) : (State.request s p k n d).Sound := by
  unfold State.request
  try dsimp only
  repeat' first
    | with_reducible assumption
    | with_reducible apply State.modPart_sound
    | with_reducible apply State.beginDesc_sound
    | with_reducible apply foldl_sound
    | (intro _; intros; try dsimp only)
    | split
    | with_reducible apply State.mk_sound

theorem State.requestsDue_sound {s : State} {p : Nat} (h : s.Sound) : (State.requestsDue s p).Sound := by
  unfold State.requestsDue
  try dsimp only
  repeat' first
    | with_reducible assumption
    | with_reducible apply State.modPart_sound
    | with_reducible apply foldl_sound
    | (intro _; intros; try dsimp only)
    | split
    | with_reducible apply State.mk_sound

theorem State.dropRequest_sound {s : State} {p : Nat} {r : Request} (h : s.Sound) : (State.dropRequest s p r).Sound := by
  unfold State.dropRequest
  try dsimp only
  repeat' first
    | with_reducible assumption
    | with_reducible apply State.modPart_sound
    | with_reducible apply foldl_sound
    | (intro _; intros; try dsimp only)
    | split
    | with_reducible apply State.mk_sound

theorem State.setCtx_sound {s : State} {c : Nat} {x : Ctx} (h : s.Sound) : (State.setCtx s c x).Sound := by
  unfold State.setCtx
  try dsimp only
  repeat' first
    | with_reducible assumption
    | with_reducible apply foldl_sound
    | (intro _; intros; try dsimp only)
    | split
    | with_reducible apply State.mk_sound

theorem State.setPageRefs_sound {s : State} {n : Nat} {v : Nat} (h : s.Sound) : (State.setPageRefs s n v).Sound := by
  unfold State.setPageRefs
  try dsimp only
  repeat' first
    | with_reducible assumption
    | with_reducible apply foldl_sound
    | (intro _; intros; try dsimp only)
    | split
    | with_reducible apply State.mk_sound

theorem State.dropPage_sound {s : State} {n : Nat} (h : s.Sound) : (State.dropPage s n).Sound := by
  unfold State.dropPage
  try dsimp only
  repeat' first
    | with_reducible assumption
    | with_reducible apply State.setPageRefs_sound
    | with_reducible apply State.count_sound
    | with_reducible apply foldl_sound
    | (intro _; intros; try dsimp only)
    | split
    | with_reducible apply State.mk_sound

theorem State.pickPage_sound {s : State} {d : Nat} (h : s.Sound) : (State.pickPage s d).2.Sound := by
  unfold State.pickPage
  try dsimp only
  repeat' first
    | with_reducible assumption
    | with_reducible apply State.takeFree_sound
    | with_reducible apply foldl_sound
    | (intro _; intros; try dsimp only)
    | split
    | with_reducible apply State.mk_sound

theorem State.allocPage_sound {s : State} {c : Nat} {e : Nat} (h : s.Sound) : (State.allocPage s c e).2.Sound := by
  unfold State.allocPage
  have h2 := State.pickPage_sound (d := (s.ctx c).die) h
  revert h2
  dsimp only
  rcases s.pickPage (s.ctx c).die with ⟨_ | n, s'⟩
  · exact fun h2 => h2
  · exact fun h2 => State.setCtx_sound (State.setPageRefs_sound h2)

theorem State.pageToWrite_sound {s : State} {c : Nat} {layer : Nat} {pos : Nat} (h : s.Sound) : (State.pageToWrite s c layer pos).2.Sound := by
  unfold State.pageToWrite
  dsimp only
  split
  · exact State.allocPage_sound h
  · split
    · exact h
    · have h2 := State.allocPage_sound (c := c) (e := (s.ctx c).entry layer pos) h
      revert h2
      rcases s.allocPage c ((s.ctx c).entry layer pos) with ⟨_ | n, s'⟩
      · exact fun h2 => h2
      · exact fun h2 => State.count_sound (State.dropPage_sound (State.rawHbm_sound h2))

theorem State.putKvRow_sound {s : State} {c : Nat} {layer : Nat} {l : KvLayer} {value : Bool} {pos : Nat} {head : Nat} {vs : List Fp} (h : s.Sound) : (State.putKvRow s c layer l value pos head vs).Sound := by
  unfold State.putKvRow
  have h2 := State.pageToWrite_sound (c := c) (layer := layer) (pos := pos) h
  revert h2
  rcases s.pageToWrite c layer pos with ⟨_ | n, s'⟩
  · exact fun h2 => h2
  · intro h2
    dsimp only
    split
    · exact State.rawHbm_sound (State.rawHbm_sound h2)
    · exact State.rawHbm_sound h2

theorem State.directoryPlace_sound {s : State} (h : s.Sound) : (State.directoryPlace s).2.Sound := by
  unfold State.directoryPlace
  try dsimp only
  repeat' first
    | with_reducible assumption
    | with_reducible apply State.takeFree_sound
    | with_reducible apply foldl_sound
    | (intro _; intros; try dsimp only)
    | split
    | with_reducible apply State.mk_sound

theorem State.openCtx_sound {s : State} {p : Nat} {c : Nat} {r : CtxRange} {idx : Nat} {maxLen : Nat} {tag : Nat} (h : s.Sound) : (State.openCtx s p c r idx maxLen tag).Sound := by
  unfold State.openCtx
  try dsimp only
  repeat' first
    | with_reducible assumption
    | with_reducible apply State.directoryPlace_sound
    | with_reducible apply State.setCtx_sound
    | with_reducible apply State.stampUsed_sound
    | with_reducible apply foldl_sound
    | (intro _; intros; try dsimp only)
    | split
    | with_reducible apply State.mk_sound

theorem State.forkCtx_sound {s : State} {p : Nat} {c : Nat} {parent : Nat} {r : CtxRange} {idx : Nat} {maxLen : Nat} {prefix_ : Nat} {tag : Nat} (h : s.Sound) : (State.forkCtx s p c parent r idx maxLen prefix_ tag).Sound := by
  unfold State.forkCtx
  try dsimp only
  repeat' first
    | with_reducible assumption
    | with_reducible apply State.directoryPlace_sound
    | with_reducible apply State.setPageRefs_sound
    | with_reducible apply State.stampUsed_sound
    | with_reducible apply State.setCtx_sound
    | with_reducible apply foldl_sound
    | (intro _; intros; try dsimp only)
    | split
    | with_reducible apply State.mk_sound

theorem State.closeCtx_sound {s : State} {c : Nat} (h : s.Sound) : (State.closeCtx s c).Sound := by
  unfold State.closeCtx
  try dsimp only
  repeat' first
    | with_reducible assumption
    | with_reducible apply State.dropPage_sound
    | with_reducible apply State.raise_sound
    | with_reducible apply State.setCtx_sound
    | with_reducible apply foldl_sound
    | (intro _; intros; try dsimp only)
    | split
    | with_reducible apply State.mk_sound

theorem State.closeAllCtx_sound {s : State} {p : Nat} (h : s.Sound) : (State.closeAllCtx s p).Sound := by
  unfold State.closeAllCtx
  try dsimp only
  repeat' first
    | with_reducible assumption
    | with_reducible apply State.closeCtx_sound
    | with_reducible apply foldl_sound
    | (intro _; intros; try dsimp only)
    | split
    | with_reducible apply State.mk_sound

theorem State.openTraining_sound {s : State} {p : Nat} {pl : Plan} (h : s.Sound) : (State.openTraining s p pl).Sound := by
  unfold State.openTraining
  try dsimp only
  repeat' first
    | with_reducible assumption
    | with_reducible apply State.setCtx_sound
    | with_reducible apply State.stampUsed_sound
    | with_reducible apply foldl_sound
    | (intro _; intros; try dsimp only)
    | split
    | with_reducible apply State.mk_sound

theorem State.stepCtx_sound {s : State} {c : Nat} {r : CtxRange} (h : s.Sound) : (State.stepCtx s c r).Sound := by
  unfold State.stepCtx
  try dsimp only
  repeat' first
    | with_reducible assumption
    | with_reducible apply State.setCtx_sound
    | with_reducible apply State.count_sound
    | with_reducible apply State.raise_sound
    | with_reducible apply foldl_sound
    | (intro _; intros; try dsimp only)
    | split
    | with_reducible apply State.mk_sound

theorem State.stepContexts_sound {s : State} {p : Nat} {pl : Plan} (h : s.Sound) : (State.stepContexts s p pl).Sound := by
  unfold State.stepContexts
  try dsimp only
  repeat' first
    | with_reducible assumption
    | with_reducible apply State.stepCtx_sound
    | with_reducible apply foldl_sound
    | (intro _; intros; try dsimp only)
    | split
    | with_reducible apply State.mk_sound

theorem State.requestCtx_sound {s : State} {ring : Nat} {f : Nat → Bool} (h : s.Sound) : (State.requestCtx s ring f).Sound := by
  unfold State.requestCtx
  try dsimp only
  repeat' first
    | with_reducible assumption
    | with_reducible apply State.finish_sound
    | with_reducible apply State.request_sound
    | with_reducible apply foldl_sound
    | (intro _; intros; try dsimp only)
    | split
    | with_reducible apply State.mk_sound

theorem doContextOpen_sound {ring : Nat} {s : State} (h : s.Sound) : (doContextOpen ring s).Sound := by
  unfold doContextOpen
  try dsimp only
  repeat' first
    | with_reducible assumption
    | with_reducible apply State.requestCtx_sound
    | with_reducible apply foldl_sound
    | (intro _; intros; try dsimp only)
    | split
    | with_reducible apply State.mk_sound

theorem doContextFork_sound {ring : Nat} {s : State} (h : s.Sound) : (doContextFork ring s).Sound := by
  unfold doContextFork
  try dsimp only
  repeat' first
    | with_reducible assumption
    | with_reducible apply State.requestCtx_sound
    | with_reducible apply foldl_sound
    | (intro _; intros; try dsimp only)
    | split
    | with_reducible apply State.mk_sound

theorem doContextClose_sound {ring : Nat} {s : State} (h : s.Sound) : (doContextClose ring s).Sound := by
  unfold doContextClose
  try dsimp only
  repeat' first
    | with_reducible assumption
    | with_reducible apply State.requestCtx_sound
    | with_reducible apply foldl_sound
    | (intro _; intros; try dsimp only)
    | split
    | with_reducible apply State.mk_sound

theorem State.applyCtx_sound {s : State} {p : Nat} {d : Started} (h : s.Sound) : (State.applyCtx s p d).Sound := by
  unfold State.applyCtx
  try dsimp only
  repeat' first
    | with_reducible assumption
    | with_reducible apply State.openCtx_sound
    | with_reducible apply State.forkCtx_sound
    | with_reducible apply State.closeCtx_sound
    | with_reducible apply foldl_sound
    | (intro _; intros; try dsimp only)
    | split
    | with_reducible apply State.mk_sound

theorem doContextApply_sound {p : Nat} {s : State} (h : s.Sound) : (doContextApply p s).Sound := by
  unfold doContextApply
  try dsimp only
  repeat' first
    | with_reducible assumption
    | with_reducible apply State.dropRequest_sound
    | with_reducible apply State.finish_sound
    | with_reducible apply State.applyCtx_sound
    | with_reducible apply State.count_sound
    | with_reducible apply State.raise_sound
    | with_reducible apply foldl_sound
    | (intro _; intros; try dsimp only)
    | split
    | with_reducible apply State.mk_sound

theorem State.attnCounts_sound {s : State} {c : Nat} {r : Running} {cells : List AttnCell} (h : s.Sound) : (State.attnCounts s c r cells).Sound := by
  unfold State.attnCounts
  try dsimp only
  repeat' first
    | with_reducible assumption
    | with_reducible apply State.count_sound
    | with_reducible apply State.raiseOnce_sound
    | with_reducible apply foldl_sound
    | (intro _; intros; try dsimp only)
    | split
    | with_reducible apply State.mk_sound

theorem State.appendKv_sound {s : State} {c : Nat} {r : Running} {a : Attn} (h : s.Sound) : (State.appendKv s c r a).Sound := by
  unfold State.appendKv
  try dsimp only
  repeat' first
    | with_reducible assumption
    | with_reducible apply State.putKvRow_sound
    | with_reducible apply foldl_sound
    | (intro _; intros; try dsimp only)
    | split
    | with_reducible apply State.mk_sound

theorem doAttentionForward_sound {core : Nat} {s : State} (h : s.Sound) : (doAttentionForward core s).Sound := by
  unfold doAttentionForward
  try dsimp only
  repeat' first
    | with_reducible assumption
    | with_reducible apply State.takeFrames_sound
    | with_reducible apply State.endTask_sound
    | with_reducible apply State.loadAll_sound
    | with_reducible apply State.appendKv_sound
    | with_reducible apply State.store_sound
    | with_reducible apply State.attnCounts_sound
    | with_reducible apply State.count_sound
    | with_reducible apply State.useFree_sound
    | with_reducible apply foldl_sound
    | (intro _; intros; try dsimp only)
    | split
    | with_reducible apply State.mk_sound

theorem State.storeGrad_sound {s : State} {r : Running} {t : Tensor} {xs : List Marked} (h : s.Sound) : (State.storeGrad s r t xs).2.Sound := by
  unfold State.storeGrad
  try dsimp only
  repeat' first
    | with_reducible assumption
    | with_reducible apply State.recordGrad_sound
    | with_reducible apply State.store_sound
    | with_reducible apply foldl_sound
    | (intro _; intros; try dsimp only)
    | split
    | with_reducible apply State.mk_sound

theorem doAttentionBackward_sound {core : Nat} {s : State} (h : s.Sound) : (doAttentionBackward core s).Sound := by
  unfold doAttentionBackward
  try dsimp only
  repeat' first
    | with_reducible assumption
    | with_reducible apply State.takeFrames_sound
    | with_reducible apply State.endTask_sound
    | with_reducible apply State.loadAll_sound
    | with_reducible apply State.store_sound
    | with_reducible apply State.storeGrad_sound
    | with_reducible apply State.attnCounts_sound
    | with_reducible apply State.useFree_sound
    | with_reducible apply foldl_sound
    | (intro _; intros; try dsimp only)
    | split
    | with_reducible apply State.mk_sound

theorem State.copyRow_sound {s : State} {p : Nat} {src : RowRef} {dst : RowRef} (h : s.Sound) : (State.copyRow s p src dst).Sound := by
  unfold State.copyRow
  try dsimp only
  repeat' first
    | with_reducible assumption
    | with_reducible apply State.store_sound
    | with_reducible apply State.writeSpace_sound
    | with_reducible apply State.putBits_sound
    | with_reducible apply foldl_sound
    | (intro _; intros; try dsimp only)
    | split
    | with_reducible apply State.mk_sound

theorem State.zeroRow_sound {s : State} {p : Nat} {dst : RowRef} (h : s.Sound) : (State.zeroRow s p dst).Sound := by
  unfold State.zeroRow
  try dsimp only
  repeat' first
    | with_reducible assumption
    | with_reducible apply State.store_sound
    | with_reducible apply foldl_sound
    | (intro _; intros; try dsimp only)
    | split
    | with_reducible apply State.mk_sound

theorem State.writeChoices_sound {s : State} {p : Nat} {t : Tensor} {xs : List Choice} (h : s.Sound) : (State.writeChoices s p t xs).Sound := by
  unfold State.writeChoices
  try dsimp only
  repeat' first
    | with_reducible assumption
    | with_reducible apply State.putBits_sound
    | with_reducible apply foldl_sound
    | (intro _; intros; try dsimp only)
    | split
    | with_reducible apply State.mk_sound

theorem State.zeroFill_sound {s : State} {p : Nat} {x : Exchange} {t : Tensor} {cs : List Choice} (h : s.Sound) : (State.zeroFill s p x t cs).Sound := by
  unfold State.zeroFill
  try dsimp only
  repeat' first
    | with_reducible assumption
    | with_reducible apply State.zeroRow_sound
    | with_reducible apply foldl_sound
    | (intro _; intros; try dsimp only)
    | split
    | with_reducible apply State.mk_sound

theorem State.writeTallies_sound {s : State} {r : Running} {x : Exchange} {t : Tensor} {cs : List Choice} {direction : Nat} (h : s.Sound) : (State.writeTallies s r x t cs direction).Sound := by
  unfold State.writeTallies
  try dsimp only
  repeat' first
    | with_reducible assumption
    | with_reducible apply State.writeSpace_sound
    | with_reducible apply foldl_sound
    | (intro _; intros; try dsimp only)
    | split
    | with_reducible apply State.mk_sound

theorem State.writeLoads_sound {s : State} {p : Nat} {x : Exchange} {t : Tensor} {cs : List Choice} (h : s.Sound) : (State.writeLoads s p x t cs).Sound := by
  unfold State.writeLoads
  try dsimp only
  repeat' first
    | with_reducible assumption
    | with_reducible apply State.putBits_sound
    | with_reducible apply foldl_sound
    | (intro _; intros; try dsimp only)
    | split
    | with_reducible apply State.mk_sound

theorem State.noteOverflow_sound {s : State} {c : Nat} {x : Exchange} {cs : List Choice} (h : s.Sound) : (State.noteOverflow s c x cs).Sound := by
  unfold State.noteOverflow
  try dsimp only
  repeat' first
    | with_reducible assumption
    | with_reducible apply State.raiseOnce_sound
    | with_reducible apply State.count_sound
    | with_reducible apply State.set_sound
    | with_reducible apply foldl_sound
    | (intro _; intros; try dsimp only)
    | split
    | with_reducible apply State.mk_sound

theorem State.exchangeTask_sound {s : State} {c : Nat} {op : Nat} {mode : Nat} {f : State →   Running → Exchange → Operand → State} (h : s.Sound) (hf : ∀ (y0 : State) (y1 : Running) (y2 : Exchange) (y3 : Operand), y0.Sound → (f y0 y1 y2 y3).Sound) : (State.exchangeTask s c op mode f).Sound := by
  unfold State.exchangeTask
  try dsimp only
  repeat' first
    | with_reducible assumption
    | with_reducible apply State.takeFrames_sound
    | with_reducible apply State.endTask_sound
    | with_reducible apply hf
    | with_reducible apply foldl_sound
    | (intro _; intros; try dsimp only)
    | split
    | with_reducible apply State.mk_sound

theorem doExpertDispatch_sound {core : Nat} {s : State} (h : s.Sound) : (doExpertDispatch core s).Sound := by
  unfold doExpertDispatch
  apply State.exchangeTask_sound h
  intro s r x rec hs
  split
  · extract_lets ld made cs s1 s2 s3 s4 s5 alone s6
    have h0 : ld.1.Sound := State.loadAll_sound hs
    have h1 : s1.Sound := by
      refine foldl_sound _ _ (fun s c hs => ?_) h0
      split
      · exact State.copyRow_sound hs
      · exact hs
    have h3 : s3.Sound := State.writeChoices_sound (State.writeChoices_sound (State.writeTallies_sound (State.zeroFill_sound h1)))
    have h4 : s4.Sound := by
      unfold s4
      split
      · cases r.operand (r.task.par 16 4) with
        | none => exact h3
        | some o => exact State.writeLoads_sound h3
      · exact h3
    have h6 : s6.Sound := State.count_sound (State.count_sound (State.noteOverflow_sound h4))
    exact State.endTask_sound (State.mk_sound h6)
  · exact State.endTask_sound hs

theorem doVariantDispatch_sound {core : Nat} {s : State} (h : s.Sound) : (doVariantDispatch core s).Sound := by
  unfold doVariantDispatch
  apply State.exchangeTask_sound h
  intro s r x rec hs
  split
  · extract_lets ld vOf setAt scale cs above unserved mask s1 s2 s3 s4 s5 s6 s7 touched s8
    have h0 : ld.1.Sound := State.loadAll_sound hs
    have h1 : s1.Sound := by
      refine foldl_sound _ _ (fun s c hs => ?_) h0
      split
      · exact State.copyRow_sound hs
      · exact hs
    have h3 : s3.Sound := State.writeChoices_sound (State.writeChoices_sound (State.zeroFill_sound h1))
    have h4 : s4.Sound := by
      unfold s4
      cases r.operand (r.task.par 16 4) with
      | none => exact h3
      | some o => exact foldl_sound _ _ (fun _ _ h => State.putBits_sound h) h3
    have h5 : s5.Sound := State.count_sound h4
    have h6 : s6.Sound := by
      unfold s6
      split
      · exact h5
      · exact State.raiseOnce_sound (State.count_sound h5)
    have h7 : s7.Sound := by
      unfold s7
      split
      · exact h6
      · exact State.raiseOnce_sound (State.count_sound h6)
    exact State.endTask_sound (State.modPart_sound h7)
  · exact State.endTask_sound hs

theorem State.putRows_sound {s : State} {r : Running} {t : Tensor} {backward : Bool} {rows : List (Nat × List Fp)} (h : s.Sound) : (State.putRows s r t backward rows).2.Sound := by
  unfold State.putRows
  try dsimp only
  repeat' first
    | with_reducible assumption
    | with_reducible apply State.store_sound
    | with_reducible apply State.recordGrad_sound
    | with_reducible apply foldl_sound
    | (intro _; intros; try dsimp only)
    | split
    | with_reducible apply State.mk_sound

theorem State.combine_sound {s : State} {core : Nat} {mode : Nat} (h : s.Sound) : (State.combine s core mode).Sound := by
  unfold State.combine
  try dsimp only
  repeat' first
    | with_reducible assumption
    | with_reducible apply State.exchangeTask_sound
    | with_reducible apply State.loadAll_sound
    | with_reducible apply State.putRows_sound
    | with_reducible apply State.endTask_sound
    | with_reducible apply State.useFree_sound
    | with_reducible apply foldl_sound
    | (intro _; intros; try dsimp only)
    | split
    | with_reducible apply State.mk_sound

theorem doExpertCombine_sound {core : Nat} {s : State} (h : s.Sound) : (doExpertCombine core s).Sound := by
  unfold doExpertCombine
  try dsimp only
  repeat' first
    | with_reducible assumption
    | with_reducible apply State.combine_sound
    | with_reducible apply foldl_sound
    | (intro _; intros; try dsimp only)
    | split
    | with_reducible apply State.mk_sound

theorem doVariantCombine_sound {core : Nat} {s : State} (h : s.Sound) : (doVariantCombine core s).Sound := by
  unfold doVariantCombine
  try dsimp only
  repeat' first
    | with_reducible assumption
    | with_reducible apply State.combine_sound
    | with_reducible apply foldl_sound
    | (intro _; intros; try dsimp only)
    | split
    | with_reducible apply State.mk_sound

theorem State.combineBack_sound {s : State} {core : Nat} {mode : Nat} (h : s.Sound) : (State.combineBack s core mode).Sound := by
  unfold State.combineBack
  try dsimp only
  repeat' first
    | with_reducible assumption
    | with_reducible apply State.exchangeTask_sound
    | with_reducible apply State.loadAll_sound
    | with_reducible apply State.store_sound
    | with_reducible apply State.writeTallies_sound
    | with_reducible apply State.zeroFill_sound
    | with_reducible apply State.recordGrad_sound
    | with_reducible apply State.endTask_sound
    | with_reducible apply State.useFree_sound
    | with_reducible apply foldl_sound
    | (intro _; intros; try dsimp only)
    | split
    | with_reducible apply State.mk_sound

theorem doExpertCombineBackward_sound {core : Nat} {s : State} (h : s.Sound) : (doExpertCombineBackward core s).Sound := by
  unfold doExpertCombineBackward
  try dsimp only
  repeat' first
    | with_reducible assumption
    | with_reducible apply State.combineBack_sound
    | with_reducible apply foldl_sound
    | (intro _; intros; try dsimp only)
    | split
    | with_reducible apply State.mk_sound

theorem doVariantCombineBackward_sound {core : Nat} {s : State} (h : s.Sound) : (doVariantCombineBackward core s).Sound := by
  unfold doVariantCombineBackward
  try dsimp only
  repeat' first
    | with_reducible assumption
    | with_reducible apply State.combineBack_sound
    | with_reducible apply foldl_sound
    | (intro _; intros; try dsimp only)
    | split
    | with_reducible apply State.mk_sound

theorem State.dispatchBack_sound {s : State} {core : Nat} {mode : Nat} (h : s.Sound) : (State.dispatchBack s core mode).Sound := by
  unfold State.dispatchBack
  try dsimp only
  repeat' first
    | with_reducible assumption
    | with_reducible apply State.exchangeTask_sound
    | with_reducible apply State.loadAll_sound
    | with_reducible apply State.putRows_sound
    | with_reducible apply State.endTask_sound
    | with_reducible apply State.useFree_sound
    | with_reducible apply foldl_sound
    | (intro _; intros; try dsimp only)
    | split
    | with_reducible apply State.mk_sound

theorem doExpertDispatchBackward_sound {core : Nat} {s : State} (h : s.Sound) : (doExpertDispatchBackward core s).Sound := by
  unfold doExpertDispatchBackward
  try dsimp only
  repeat' first
    | with_reducible assumption
    | with_reducible apply State.dispatchBack_sound
    | with_reducible apply foldl_sound
    | (intro _; intros; try dsimp only)
    | split
    | with_reducible apply State.mk_sound

theorem doVariantDispatchBackward_sound {core : Nat} {s : State} (h : s.Sound) : (doVariantDispatchBackward core s).Sound := by
  unfold doVariantDispatchBackward
  try dsimp only
  repeat' first
    | with_reducible assumption
    | with_reducible apply State.dispatchBack_sound
    | with_reducible apply foldl_sound
    | (intro _; intros; try dsimp only)
    | split
    | with_reducible apply State.mk_sound

theorem State.touchTally_sound {s : State} {p : Nat} {tally : List Byte} (h : s.Sound) : (State.touchTally s p tally).Sound := by
  unfold State.touchTally
  try dsimp only
  repeat' first
    | with_reducible assumption
    | with_reducible apply State.modPart_sound
    | with_reducible apply foldl_sound
    | (intro _; intros; try dsimp only)
    | split
    | with_reducible apply State.mk_sound

theorem State.writeHalos_sound {s : State} {p : Nat} {pl : Plan} {g : Nat} {i : Nat} {t : Task} (h : s.Sound) : (State.writeHalos s p pl g i t).Sound := by
  unfold State.writeHalos
  try dsimp only
  repeat' first
    | with_reducible assumption
    | with_reducible apply State.count_sound
    | with_reducible apply State.writeQueue_sound
    | with_reducible apply foldl_sound
    | (intro _; intros; try dsimp only)
    | split
    | with_reducible apply State.mk_sound

theorem State.takeHalos_sound {s : State} {c : Nat} {r : Running} (h : s.Sound) : (State.takeHalos s c r).Sound := by
  unfold State.takeHalos
  try dsimp only
  repeat' first
    | with_reducible assumption
    | with_reducible apply State.readQueueN_sound
    | with_reducible apply State.modCore_sound
    | with_reducible apply foldl_sound
    | (intro _; intros; try dsimp only)
    | split
    | with_reducible apply State.mk_sound

theorem State.payHalos_sound {s : State} {p : Nat} {pl : Plan} {g : Nat} {i : Nat} {t : Task} (h : s.Sound) : (State.payHalos s p pl g i t).Sound := by
  unfold State.payHalos
  try dsimp only
  repeat' first
    | with_reducible assumption
    | with_reducible apply State.modCore_sound
    | with_reducible apply foldl_sound
    | (intro _; intros; try dsimp only)
    | split
    | with_reducible apply State.mk_sound

theorem State.runConv_sound {s : State} {c : Nat} {r : Running} {k : ConvRun} {out : Tensor} {lines : List (List ConvElement)} (h : s.Sound) : (State.runConv s c r k out lines).Sound := by
  unfold State.runConv
  try dsimp only
  repeat' first
    | with_reducible assumption
    | with_reducible apply State.loadAll_sound
    | with_reducible apply State.storeShare_sound
    | with_reducible apply State.recordGrad_sound
    | with_reducible apply State.modCore_sound
    | with_reducible apply State.useFree_sound
    | with_reducible apply State.count_sound
    | with_reducible apply State.endTask_sound
    | with_reducible apply foldl_sound
    | (intro _; intros; try dsimp only)
    | split
    | with_reducible apply State.mk_sound

theorem State.convTiles_sound {s : State} {c : Nat} {r : Running} {k : ConvRun} {tl : Tiling} {sh : Share} {t0 : Tensor} (h : s.Sound) : (State.convTiles s c r k tl sh t0).1.Sound := by
  unfold State.convTiles
  try dsimp only
  repeat' first
    | with_reducible assumption
    | with_reducible apply State.set_sound
    | with_reducible apply State.count_sound
    | with_reducible apply foldl_sound
    | (intro _; intros; try dsimp only)
    | split
    | with_reducible apply State.mk_sound

theorem State.convTask_sound {s : State} {c : Nat} {dir : Nat} (h : s.Sound) : (State.convTask s c dir).Sound := by
  unfold State.convTask
  split
  · exact h
  · next r _ =>
    split
    · exact h
    · extract_lets s1
      have h1 : s1.Sound := State.takeFrames_sound h
      split
      · exact State.endEmpty_sound (State.keepCredits_sound (State.count_sound h1))
      · split
        · next z in0 out _ _ _ =>
          extract_lets x
          split
          · exact State.endTask_sound h1
          · next sh _ =>
            split
            · exact State.endTask_sound h1
            · have h2 := State.convTiles_sound (c := c) (r := r) (k := x.1) (tl := x.2) (sh := sh) (t0 := in0.t) h1
              revert h2
              generalize s1.convTiles c r x.1 x.2 sh in0.t = y
              rcases y with ⟨s', _ | bad⟩
              · exact fun h2 => State.runConv_sound h2
              · exact fun h2 => State.tileIllegal_sound h2
        · exact State.endTask_sound h1

theorem doConvForward_sound {core : Nat} {s : State} (h : s.Sound) : (doConvForward core s).Sound := by
  unfold doConvForward
  try dsimp only
  repeat' first
    | with_reducible assumption
    | with_reducible apply State.convTask_sound
    | with_reducible apply foldl_sound
    | (intro _; intros; try dsimp only)
    | split
    | with_reducible apply State.mk_sound

theorem doConvDataGradient_sound {core : Nat} {s : State} (h : s.Sound) : (doConvDataGradient core s).Sound := by
  unfold doConvDataGradient
  try dsimp only
  repeat' first
    | with_reducible assumption
    | with_reducible apply State.convTask_sound
    | with_reducible apply foldl_sound
    | (intro _; intros; try dsimp only)
    | split
    | with_reducible apply State.mk_sound

theorem doConvWeightGradient_sound {core : Nat} {s : State} (h : s.Sound) : (doConvWeightGradient core s).Sound := by
  unfold doConvWeightGradient
  try dsimp only
  repeat' first
    | with_reducible assumption
    | with_reducible apply State.convTask_sound
    | with_reducible apply foldl_sound
    | (intro _; intros; try dsimp only)
    | split
    | with_reducible apply State.mk_sound

theorem doCropAndResize_sound {core : Nat} {s : State} (h : s.Sound) : (doCropAndResize core s).Sound := by
  unfold doCropAndResize
  try dsimp only
  repeat' first
    | with_reducible assumption
    | with_reducible apply State.takeFrames_sound
    | with_reducible apply State.endTask_sound
    | with_reducible apply State.loadAll_sound
    | with_reducible apply State.store_sound
    | with_reducible apply State.load_sound
    | with_reducible apply State.count_sound
    | with_reducible apply State.raiseOnce_sound
    | with_reducible apply foldl_sound
    | (intro _; intros; try dsimp only)
    | split
    | with_reducible apply State.mk_sound

theorem doChannelArgmax_sound {core : Nat} {s : State} (h : s.Sound) : (doChannelArgmax core s).Sound := by
  unfold doChannelArgmax
  try dsimp only
  repeat' first
    | with_reducible assumption
    | with_reducible apply State.takeFrames_sound
    | with_reducible apply State.endTask_sound
    | with_reducible apply State.loadAll_sound
    | with_reducible apply State.putBits_sound
    | with_reducible apply State.store_sound
    | with_reducible apply State.count_sound
    | with_reducible apply foldl_sound
    | (intro _; intros; try dsimp only)
    | split
    | with_reducible apply State.mk_sound

end Sys2Proof.Machine
end

