-- ==== Sys2Proof/Laws/Sound3.lean ====
section
/-! SUPPORT. Every operation that answers a state keeps a sound state sound, for the operations in Ports.lean, Fabric.lean, Reduce.lean, Commit.lean. -/

set_option Elab.async false

namespace Sys2Proof.Machine

theorem State.raisePort_sound {s : State} {n : Nat} {e : EvKind} {d : Detail} (h : s.Sound) : (State.raisePort s n e d).Sound := by
  unfold State.raisePort
  try dsimp only
  repeat' first
    | with_reducible assumption
    | with_reducible apply State.raise_sound
    | with_reducible apply State.modPort_sound
    | with_reducible apply foldl_sound
    | (intro _; intros; try dsimp only)
    | split
    | with_reducible apply State.mk_sound

theorem State.modFixer_sound {s : State} {p : Nat} {f : Fixer → Fixer} (h : s.Sound) : (State.modFixer s p f).Sound := by
  unfold State.modFixer
  try dsimp only
  repeat' first
    | with_reducible assumption
    | with_reducible apply State.modPart_sound
    | with_reducible apply foldl_sound
    | (intro _; intros; try dsimp only)
    | split
    | with_reducible apply State.mk_sound

theorem State.planInvalid_sound {s : State} {p : Nat} {cause : Nat} (h : s.Sound) : (State.planInvalid s p cause).Sound := by
  unfold State.planInvalid
  try dsimp only
  repeat' first
    | with_reducible assumption
    | with_reducible apply State.raise_sound
    | with_reducible apply State.set_sound
    | with_reducible apply State.modFixer_sound
    | with_reducible apply State.stepFault_sound
    | with_reducible apply foldl_sound
    | (intro _; intros; try dsimp only)
    | split
    | with_reducible apply State.mk_sound

theorem State.modLink_sound {s : State} {n : Nat} {f : Link → Link} (h : s.Sound) : (State.modLink s n f).Sound := by
  unfold State.modLink
  try dsimp only
  repeat' first
    | with_reducible assumption
    | with_reducible apply State.modPort_sound
    | with_reducible apply foldl_sound
    | (intro _; intros; try dsimp only)
    | split
    | with_reducible apply State.mk_sound

theorem State.takeBuffer_sound {s : State} {n : Nat} {cls : Nat} {units : Nat} (h : s.Sound) : (State.takeBuffer s n cls units).Sound := by
  unfold State.takeBuffer
  try dsimp only
  repeat' first
    | with_reducible assumption
    | with_reducible apply State.modLink_sound
    | with_reducible apply foldl_sound
    | (intro _; intros; try dsimp only)
    | split
    | with_reducible apply State.mk_sound

theorem State.freeBuffer_sound {s : State} {n : Nat} {cls : Nat} {units : Nat} (h : s.Sound) : (State.freeBuffer s n cls units).Sound := by
  unfold State.freeBuffer
  try dsimp only
  repeat' first
    | with_reducible assumption
    | with_reducible apply State.modLink_sound
    | with_reducible apply foldl_sound
    | (intro _; intros; try dsimp only)
    | split
    | with_reducible apply State.mk_sound

theorem State.passBuffer_sound {s : State} {n : Nat} {cls : Nat} {units : Nat} (h : s.Sound) : (State.passBuffer s n cls units).Sound := by
  unfold State.passBuffer
  try dsimp only
  repeat' first
    | with_reducible assumption
    | with_reducible apply State.freeBuffer_sound
    | with_reducible apply State.takeBuffer_sound
    | with_reducible apply foldl_sound
    | (intro _; intros; try dsimp only)
    | split
    | with_reducible apply State.mk_sound

theorem State.bufferPacket_sound {s : State} {n : Nat} {pk : Packet} (h : s.Sound) : (State.bufferPacket s n pk).Sound := by
  unfold State.bufferPacket
  try dsimp only
  repeat' first
    | with_reducible assumption
    | with_reducible apply State.takeBuffer_sound
    | with_reducible apply foldl_sound
    | (intro _; intros; try dsimp only)
    | split
    | with_reducible apply State.mk_sound

theorem State.passPacket_sound {s : State} {n : Nat} {pk : Packet} (h : s.Sound) : (State.passPacket s n pk).Sound := by
  unfold State.passPacket
  try dsimp only
  repeat' first
    | with_reducible assumption
    | with_reducible apply State.passBuffer_sound
    | with_reducible apply foldl_sound
    | (intro _; intros; try dsimp only)
    | split
    | with_reducible apply State.mk_sound

theorem State.restoreFailed_sound {s : State} {p : Nat} {item : Nat} (h : s.Sound) : (State.restoreFailed s p item).Sound := by
  unfold State.restoreFailed
  try dsimp only
  repeat' first
    | with_reducible assumption
    | with_reducible apply State.raise_sound
    | with_reducible apply State.stepFault_sound
    | with_reducible apply State.modFixer_sound
    | with_reducible apply State.set_sound
    | with_reducible apply foldl_sound
    | (intro _; intros; try dsimp only)
    | split
    | with_reducible apply State.mk_sound

theorem State.partnerLost_sound {s : State} {p : Nat} {n : Nat} (h : s.Sound) : (State.partnerLost s p n).Sound := by
  unfold State.partnerLost
  try dsimp only
  repeat' first
    | with_reducible assumption
    | with_reducible apply State.modFixer_sound
    | with_reducible apply State.restoreFailed_sound
    | with_reducible apply foldl_sound
    | (intro _; intros; try dsimp only)
    | split
    | with_reducible apply State.mk_sound

theorem State.releaseVia_sound {s : State} {x : PortItem} (h : s.Sound) : (State.releaseVia s x).Sound := by
  unfold State.releaseVia
  try dsimp only
  repeat' first
    | with_reducible assumption
    | with_reducible apply State.freeBuffer_sound
    | with_reducible apply foldl_sound
    | (intro _; intros; try dsimp only)
    | split
    | with_reducible apply State.mk_sound

theorem State.portDown_sound {s : State} {n : Nat} {cause : Nat} (h : s.Sound) : (State.portDown s n cause).Sound := by
  unfold State.portDown
  try dsimp only
  repeat' first
    | with_reducible assumption
    | with_reducible apply State.releaseVia_sound
    | with_reducible apply State.modPort_sound
    | with_reducible apply State.set_sound
    | with_reducible apply State.raise_sound
    | with_reducible apply State.partnerLost_sound
    | with_reducible apply State.planInvalid_sound
    | with_reducible apply State.transientError_sound
    | with_reducible apply foldl_sound
    | (intro _; intros; try dsimp only)
    | split
    | with_reducible apply State.mk_sound

theorem doPortTrained_sound {port : Nat} {neighbour : Nat} {failedLanes : Nat} {s : State} (h : s.Sound) : (doPortTrained port neighbour failedLanes s).Sound := by
  unfold doPortTrained
  try dsimp only
  repeat' first
    | with_reducible assumption
    | with_reducible apply State.set_sound
    | with_reducible apply State.modPort_sound
    | with_reducible apply foldl_sound
    | (intro _; intros; try dsimp only)
    | split
    | with_reducible apply State.mk_sound

theorem doPortTrainingTimeout_sound {port : Nat} {s : State} (h : s.Sound) : (doPortTrainingTimeout port s).Sound := by
  unfold doPortTrainingTimeout
  try dsimp only
  repeat' first
    | with_reducible assumption
    | with_reducible apply State.portDown_sound
    | with_reducible apply foldl_sound
    | (intro _; intros; try dsimp only)
    | split
    | with_reducible apply State.mk_sound

theorem doPortTakeDown_sound {port : Nat} {s : State} (h : s.Sound) : (doPortTakeDown port s).Sound := by
  unfold doPortTakeDown
  try dsimp only
  repeat' first
    | with_reducible assumption
    | with_reducible apply State.portDown_sound
    | with_reducible apply foldl_sound
    | (intro _; intros; try dsimp only)
    | split
    | with_reducible apply State.mk_sound

theorem State.addCredits_sound {s : State} {n : Nat} {cls : Nat} {units : Nat} (h : s.Sound) : (State.addCredits s n cls units).Sound := by
  unfold State.addCredits
  try dsimp only
  repeat' first
    | with_reducible assumption
    | with_reducible apply State.modPort_sound
    | with_reducible apply foldl_sound
    | (intro _; intros; try dsimp only)
    | split
    | with_reducible apply State.mk_sound

theorem doFlitReceive_sound {port : Nat} {flit : Flit} {s : State} (h : s.Sound) : (doFlitReceive port flit s).Sound := by
  unfold doFlitReceive
  try dsimp only
  repeat' first
    | with_reducible assumption
    | with_reducible apply State.modPort_sound
    | with_reducible apply State.count_sound
    | with_reducible apply State.modLink_sound
    | with_reducible apply State.addCredits_sound
    | with_reducible apply foldl_sound
    | (intro _; intros; try dsimp only)
    | split
    | with_reducible apply State.mk_sound

theorem doFlitReplay_sound {port : Nat} {seq : Nat} {s : State} (h : s.Sound) : (doFlitReplay port seq s).Sound := by
  unfold doFlitReplay
  try dsimp only
  repeat' first
    | with_reducible assumption
    | with_reducible apply State.portDown_sound
    | with_reducible apply State.modLink_sound
    | with_reducible apply State.modPort_sound
    | with_reducible apply State.count_sound
    | with_reducible apply State.raisePort_sound
    | with_reducible apply foldl_sound
    | (intro _; intros; try dsimp only)
    | split
    | with_reducible apply State.mk_sound

theorem State.timeExchange_sound {s : State} {off : Int} (h : s.Sound) : (State.timeExchange s off).Sound := by
  unfold State.timeExchange
  try dsimp only
  repeat' first
    | with_reducible assumption
    | with_reducible apply State.set_sound
    | with_reducible apply State.raise_sound
    | with_reducible apply foldl_sound
    | (intro _; intros; try dsimp only)
    | split
    | with_reducible apply State.mk_sound

theorem doControlFlit_sound {port : Nat} {ctl : ControlFlit} {s : State} (h : s.Sound) : (doControlFlit port ctl s).Sound := by
  unfold doControlFlit
  try dsimp only
  repeat' first
    | with_reducible assumption
    | with_reducible apply State.addCredits_sound
    | with_reducible apply State.modPort_sound
    | with_reducible apply State.timeExchange_sound
    | with_reducible apply foldl_sound
    | (intro _; intros; try dsimp only)
    | split
    | with_reducible apply State.mk_sound

theorem State.putFlit_sound {s : State} {n : Nat} {g : SentFlit} (h : s.Sound) : (State.putFlit s n g).Sound := by
  unfold State.putFlit
  try dsimp only
  repeat' first
    | with_reducible assumption
    | with_reducible apply State.modLink_sound
    | with_reducible apply foldl_sound
    | (intro _; intros; try dsimp only)
    | split
    | with_reducible apply State.mk_sound

theorem State.sendFlit_sound {s : State} {n : Nat} {kind : Nat} {payload : List Byte} (h : s.Sound) : (State.sendFlit s n kind payload).Sound := by
  unfold State.sendFlit
  try dsimp only
  repeat' first
    | with_reducible assumption
    | with_reducible apply State.putFlit_sound
    | with_reducible apply foldl_sound
    | (intro _; intros; try dsimp only)
    | split
    | with_reducible apply State.mk_sound

theorem State.sendWire_sound {s : State} {n : Nat} {o : FabOut} (h : s.Sound) : (State.sendWire s n o).Sound := by
  unfold State.sendWire
  try dsimp only
  repeat' first
    | with_reducible assumption
    | with_reducible apply State.modLink_sound
    | with_reducible apply State.sendFlit_sound
    | with_reducible apply foldl_sound
    | (intro _; intros; try dsimp only)
    | split
    | with_reducible apply State.mk_sound

theorem State.noteDrained_sound {s : State} (h : s.Sound) : (State.noteDrained s).Sound := by
  unfold State.noteDrained
  try dsimp only
  repeat' first
    | with_reducible assumption
    | with_reducible apply State.set_sound
    | with_reducible apply foldl_sound
    | (intro _; intros; try dsimp only)
    | split
    | with_reducible apply State.mk_sound

theorem State.noteSlotLate_sound {s : State} {n : Nat} {x : PortItem} (h : s.Sound) : (State.noteSlotLate s n x).Sound := by
  unfold State.noteSlotLate
  try dsimp only
  repeat' first
    | with_reducible assumption
    | with_reducible apply State.modPart_sound
    | with_reducible apply foldl_sound
    | (intro _; intros; try dsimp only)
    | split
    | with_reducible apply State.mk_sound

theorem doOutputArbitration_sound {port : Nat} {s : State} (h : s.Sound) : (doOutputArbitration port s).Sound := by
  unfold doOutputArbitration
  try dsimp only
  repeat' first
    | with_reducible assumption
    | with_reducible apply State.sendFlit_sound
    | with_reducible apply State.count_sound
    | with_reducible apply State.modPort_sound
    | with_reducible apply State.releaseVia_sound
    | with_reducible apply State.wake_sound
    | with_reducible apply State.sendWire_sound
    | with_reducible apply State.noteDrained_sound
    | with_reducible apply State.noteSlotLate_sound
    | with_reducible apply foldl_sound
    | (intro _; intros; try dsimp only)
    | split
    | with_reducible apply State.mk_sound

theorem State.writeStretches_sound {s : State} {p : Nat} {a : List Stretch} {x3 : Nat} {x4 : List Byte} (h : s.Sound) : (State.writeStretches s p a x3 x4).Sound := by
  induction a generalizing s x3 x4 with
  | nil => exact h
  | cons x xs ih =>
    simp only [State.writeStretches]
    split
    · exact ih h
    · exact ih (State.writeSpace_sound h)

theorem State.touchChunk_sound {s : State} {p : Nat} {x : Transfer} {xs : List Stretch} (h : s.Sound) : (State.touchChunk s p x xs).Sound := by
  unfold State.touchChunk
  try dsimp only
  repeat' first
    | with_reducible assumption
    | with_reducible apply State.touchTally_sound
    | with_reducible apply foldl_sound
    | (intro _; intros; try dsimp only)
    | split
    | with_reducible apply State.mk_sound

theorem State.modOutSlot_sound {s : State} {p : Nat} {slot : Nat} {f : OutSlot → OutSlot} (h : s.Sound) : (State.modOutSlot s p slot f).Sound := by
  unfold State.modOutSlot
  try dsimp only
  repeat' first
    | with_reducible assumption
    | with_reducible apply State.modPart_sound
    | with_reducible apply foldl_sound
    | (intro _; intros; try dsimp only)
    | split
    | with_reducible apply State.mk_sound

theorem State.readySlots_sound {s : State} {p : Nat} {first : Nat} {n : Nat} {proto : PacketSpec} {data : List Byte} (h : s.Sound) : (State.readySlots s p first n proto data).Sound := by
  unfold State.readySlots
  try dsimp only
  repeat' first
    | with_reducible assumption
    | with_reducible apply State.modOutSlot_sound
    | with_reducible apply foldl_sound
    | (intro _; intros; try dsimp only)
    | split
    | with_reducible apply State.mk_sound

theorem State.seal_sound {s : State} {p : Nat} {x : PacketSpec} (h : s.Sound) : (State.seal s p x).2.Sound := by
  unfold State.seal
  try dsimp only
  repeat' first
    | with_reducible assumption
    | with_reducible apply State.stampUsed_sound
    | with_reducible apply State.modPart_sound
    | with_reducible apply foldl_sound
    | (intro _; intros; try dsimp only)
    | split
    | with_reducible apply State.mk_sound

theorem State.post_sound {s : State} {p : Nat} {port : Nat} {x : PacketSpec} {slot : Option (Nat × Nat)} {late : Bool} (h : s.Sound) : (State.post s p port x slot late).Sound := by
  unfold State.post
  try dsimp only
  repeat' first
    | with_reducible assumption
    | with_reducible apply State.seal_sound
    | with_reducible apply State.enqueue_sound
    | with_reducible apply foldl_sound
    | (intro _; intros; try dsimp only)
    | split
    | with_reducible apply State.mk_sound

theorem State.sendRouted_sound {s : State} {p : Nat} {x : PacketSpec} (h : s.Sound) : (State.sendRouted s p x).Sound := by
  unfold State.sendRouted
  try dsimp only
  repeat' first
    | with_reducible assumption
    | with_reducible apply State.post_sound
    | with_reducible apply foldl_sound
    | (intro _; intros; try dsimp only)
    | split
    | with_reducible apply State.mk_sound

theorem State.transmitSlot_sound {s : State} {p : Nat} {slot : Nat} {late : Bool} (h : s.Sound) : (State.transmitSlot s p slot late).Sound := by
  unfold State.transmitSlot
  try dsimp only
  repeat' first
    | with_reducible assumption
    | with_reducible apply State.post_sound
    | with_reducible apply State.modOutSlot_sound
    | with_reducible apply foldl_sound
    | (intro _; intros; try dsimp only)
    | split
    | with_reducible apply State.mk_sound

theorem doSlotWindowStart_sound {p : Nat} {slot : Nat} {s : State} (h : s.Sound) : (doSlotWindowStart p slot s).Sound := by
  unfold doSlotWindowStart
  try dsimp only
  repeat' first
    | with_reducible assumption
    | with_reducible apply State.advanceTo_sound
    | with_reducible apply State.transmitSlot_sound
    | with_reducible apply State.raisePort_sound
    | with_reducible apply State.count_sound
    | with_reducible apply State.modOutSlot_sound
    | with_reducible apply foldl_sound
    | (intro _; intros; try dsimp only)
    | split
    | with_reducible apply State.mk_sound

theorem doLateTransmit_sound {p : Nat} {slot : Nat} {s : State} (h : s.Sound) : (doLateTransmit p slot s).Sound := by
  unfold doLateTransmit
  try dsimp only
  repeat' first
    | with_reducible assumption
    | with_reducible apply State.transmitSlot_sound
    | with_reducible apply foldl_sound
    | (intro _; intros; try dsimp only)
    | split
    | with_reducible apply State.mk_sound

theorem State.noteLanding_sound {s : State} {c : Nat} {r : Running} {x : Transfer} (h : s.Sound) : (State.noteLanding s c r x).Sound := by
  unfold State.noteLanding
  try dsimp only
  repeat' first
    | with_reducible assumption
    | with_reducible apply State.modPart_sound
    | with_reducible apply State.raiseOnce_sound
    | with_reducible apply State.count_sound
    | with_reducible apply foldl_sound
    | (intro _; intros; try dsimp only)
    | split
    | with_reducible apply State.mk_sound

theorem State.prepareSend_sound {s : State} {r : Running} {x : Transfer} {o : Operand} (h : s.Sound) : (State.prepareSend s r x o).Sound := by
  unfold State.prepareSend
  try dsimp only
  repeat' first
    | with_reducible assumption
    | with_reducible apply State.readErrors_sound
    | with_reducible apply State.readySlots_sound
    | with_reducible apply foldl_sound
    | (intro _; intros; try dsimp only)
    | split
    | with_reducible apply State.mk_sound

theorem State.transferTask_sound {s : State} {c : Nat} {mode : Nat} {f : State → Running → Transfer → State} (h : s.Sound) (hf : ∀ (y0 : State) (y1 : Running) (y2 : Transfer), y0.Sound → (f y0 y1 y2).Sound) : (State.transferTask s c mode f).Sound := by
  unfold State.transferTask
  try dsimp only
  repeat' first
    | with_reducible assumption
    | with_reducible apply State.endEmpty_sound
    | with_reducible apply hf
    | with_reducible apply foldl_sound
    | (intro _; intros; try dsimp only)
    | split
    | with_reducible apply State.mk_sound

theorem doFabricSend_sound {core : Nat} {s : State} (h : s.Sound) : (doFabricSend core s).Sound := by
  unfold doFabricSend
  try dsimp only
  repeat' first
    | with_reducible assumption
    | with_reducible apply State.transferTask_sound
    | with_reducible apply State.endEmpty_sound
    | with_reducible apply State.noteLanding_sound
    | with_reducible apply State.prepareSend_sound
    | with_reducible apply State.endTask_sound
    | with_reducible apply foldl_sound
    | (intro _; intros; try dsimp only)
    | split
    | with_reducible apply State.mk_sound

theorem doFabricReceive_sound {core : Nat} {s : State} (h : s.Sound) : (doFabricReceive core s).Sound := by
  unfold doFabricReceive
  try dsimp only
  repeat' first
    | with_reducible assumption
    | with_reducible apply State.transferTask_sound
    | with_reducible apply State.endTask_sound
    | with_reducible apply foldl_sound
    | (intro _; intros; try dsimp only)
    | split
    | with_reducible apply State.mk_sound

theorem doLocalCopy_sound {core : Nat} {s : State} (h : s.Sound) : (doLocalCopy core s).Sound := by
  unfold doLocalCopy
  try dsimp only
  repeat' first
    | with_reducible assumption
    | with_reducible apply State.transferTask_sound
    | with_reducible apply State.readErrors_sound
    | with_reducible apply State.touchChunk_sound
    | with_reducible apply State.writeStretches_sound
    | with_reducible apply State.endTask_sound
    | with_reducible apply State.endEmpty_sound
    | with_reducible apply foldl_sound
    | (intro _; intros; try dsimp only)
    | split
    | with_reducible apply State.mk_sound

theorem State.dropUnmatched_sound {s : State} {port : Nat} (h : s.Sound) : (State.dropUnmatched s port).Sound := by
  unfold State.dropUnmatched
  try dsimp only
  repeat' first
    | with_reducible assumption
    | with_reducible apply State.count_sound
    | with_reducible apply foldl_sound
    | (intro _; intros; try dsimp only)
    | split
    | with_reducible apply State.mk_sound

theorem State.dropStale_sound {s : State} {port : Nat} (h : s.Sound) : (State.dropStale s port).Sound := by
  unfold State.dropStale
  try dsimp only
  repeat' first
    | with_reducible assumption
    | with_reducible apply State.modPort_sound
    | with_reducible apply State.count_sound
    | with_reducible apply State.raisePort_sound
    | with_reducible apply foldl_sound
    | (intro _; intros; try dsimp only)
    | split
    | with_reducible apply State.mk_sound

theorem State.tagFailed_sound {s : State} {port : Nat} {p : Nat} {pk : Packet} (h : s.Sound) : (State.tagFailed s port p pk).Sound := by
  unfold State.tagFailed
  try dsimp only
  repeat' first
    | with_reducible assumption
    | with_reducible apply State.raisePort_sound
    | with_reducible apply State.count_sound
    | with_reducible apply State.transientError_sound
    | with_reducible apply foldl_sound
    | (intro _; intros; try dsimp only)
    | split
    | with_reducible apply State.mk_sound

theorem State.receive_sound {s : State} {port : Nat} {pk : Packet} {act : State → Nat → Packet → State} (h : s.Sound) (hact : ∀ (y0 : State) (y1 : Nat) (y2 : Packet), y0.Sound → (act y0 y1 y2).Sound) : (State.receive s port pk act).Sound := by
  unfold State.receive
  try dsimp only
  repeat' first
    | with_reducible assumption
    | with_reducible apply State.modPort_sound
    | with_reducible apply State.bufferPacket_sound
    | with_reducible apply State.dropStale_sound
    | with_reducible apply State.passPacket_sound
    | with_reducible apply State.stampReceipt_sound
    | with_reducible apply State.tagFailed_sound
    | with_reducible apply hact
    | with_reducible apply foldl_sound
    | (intro _; intros; try dsimp only)
    | split
    | with_reducible apply State.mk_sound

theorem State.takeNotice_sound {s : State} {p : Nat} {n : Notice} (h : s.Sound) : (State.takeNotice s p n).Sound := by
  unfold State.takeNotice
  try dsimp only
  repeat' first
    | with_reducible assumption
    | with_reducible apply State.modBarrier_sound
    | with_reducible apply State.applyNotice_sound
    | with_reducible apply foldl_sound
    | (intro _; intros; try dsimp only)
    | split
    | with_reducible apply State.mk_sound

theorem doCompletionNotice_sound {p : Nat} {n : Notice} {s : State} (h : s.Sound) : (doCompletionNotice p n s).Sound := by
  unfold doCompletionNotice
  try dsimp only
  repeat' first
    | with_reducible assumption
    | with_reducible apply State.modPort_sound
    | with_reducible apply State.takeBuffer_sound
    | with_reducible apply State.dropStale_sound
    | with_reducible apply State.passBuffer_sound
    | with_reducible apply State.takeNotice_sound
    | with_reducible apply State.stampReceipt_sound
    | with_reducible apply foldl_sound
    | (intro _; intros; try dsimp only)
    | split
    | with_reducible apply State.mk_sound

theorem State.dataIn_sound {port : Nat} {s : State} {p : Nat} {pk : Packet} (h : s.Sound) : (State.dataIn port s p pk).Sound := by
  unfold State.dataIn
  try dsimp only
  repeat' first
    | with_reducible assumption
    | with_reducible apply State.dropUnmatched_sound
    | with_reducible apply State.writeStretches_sound
    | with_reducible apply State.setRemoteScale_sound
    | with_reducible apply State.modPart_sound
    | with_reducible apply State.touchChunk_sound
    | with_reducible apply foldl_sound
    | (intro _; intros; try dsimp only)
    | split
    | with_reducible apply State.mk_sound

theorem doDataPacket_sound {port : Nat} {pkt : Packet} {s : State} (h : s.Sound) : (doDataPacket port pkt s).Sound := by
  unfold doDataPacket
  try dsimp only
  repeat' first
    | with_reducible assumption
    | with_reducible apply State.receive_sound
    | with_reducible apply State.dataIn_sound
    | with_reducible apply foldl_sound
    | (intro _; intros; try dsimp only)
    | split
    | with_reducible apply State.mk_sound

theorem State.unroutable_sound {s : State} {port : Nat} {pk : Packet} {cause : Nat} (h : s.Sound) : (State.unroutable s port pk cause).Sound := by
  unfold State.unroutable
  try dsimp only
  repeat' first
    | with_reducible assumption
    | with_reducible apply State.raisePort_sound
    | with_reducible apply State.count_sound
    | with_reducible apply foldl_sound
    | (intro _; intros; try dsimp only)
    | split
    | with_reducible apply State.mk_sound

theorem State.relay_sound {s : State} {port : Nat} {pk : Packet} (h : s.Sound) : (State.relay s port pk).Sound := by
  unfold State.relay
  try dsimp only
  repeat' first
    | with_reducible assumption
    | with_reducible apply State.unroutable_sound
    | with_reducible apply State.passPacket_sound
    | with_reducible apply State.enqueueVia_sound
    | with_reducible apply State.bufferPacket_sound
    | with_reducible apply foldl_sound
    | (intro _; intros; try dsimp only)
    | split
    | with_reducible apply State.mk_sound

theorem doPacketRelay_sound {port : Nat} {pkt : Packet} {s : State} (h : s.Sound) : (doPacketRelay port pkt s).Sound := by
  unfold doPacketRelay
  try dsimp only
  repeat' first
    | with_reducible assumption
    | with_reducible apply State.modPort_sound
    | with_reducible apply State.bufferPacket_sound
    | with_reducible apply State.dropStale_sound
    | with_reducible apply State.passPacket_sound
    | with_reducible apply State.relay_sound
    | with_reducible apply State.stampReceipt_sound
    | with_reducible apply foldl_sound
    | (intro _; intros; try dsimp only)
    | split
    | with_reducible apply State.mk_sound

theorem State.giveLanding_sound {s : State} {p : Nat} {sec : List Byte} {x : Transfer} (h : s.Sound) : (State.giveLanding s p sec x).Sound := by
  unfold State.giveLanding
  try dsimp only
  repeat' first
    | with_reducible assumption
    | with_reducible apply State.modPart_sound
    | with_reducible apply State.sendRouted_sound
    | with_reducible apply foldl_sound
    | (intro _; intros; try dsimp only)
    | split
    | with_reducible apply State.mk_sound

theorem State.releaseLandings_sound {s : State} {p : Nat} {pl : Plan} {g : Nat} {t : Nat} (h : s.Sound) : (State.releaseLandings s p pl g t).Sound := by
  unfold State.releaseLandings
  try dsimp only
  repeat' first
    | with_reducible assumption
    | with_reducible apply State.giveLanding_sound
    | with_reducible apply foldl_sound
    | (intro _; intros; try dsimp only)
    | split
    | with_reducible apply State.mk_sound

theorem State.landingIn_sound {port : Nat} {s : State} {p : Nat} {pk : Packet} (h : s.Sound) : (State.landingIn port s p pk).Sound := by
  unfold State.landingIn
  try dsimp only
  repeat' first
    | with_reducible assumption
    | with_reducible apply State.modPart_sound
    | with_reducible apply State.dropUnmatched_sound
    | with_reducible apply foldl_sound
    | (intro _; intros; try dsimp only)
    | split
    | with_reducible apply State.mk_sound

theorem State.noteSwitch_sound {s : State} {p : Nat} {position : Nat} {x : Nat} (h : s.Sound) : (State.noteSwitch s p position x).Sound := by
  unfold State.noteSwitch
  try dsimp only
  repeat' first
    | with_reducible assumption
    | with_reducible apply State.modPart_sound
    | with_reducible apply State.sendRouted_sound
    | with_reducible apply foldl_sound
    | (intro _; intros; try dsimp only)
    | split
    | with_reducible apply State.mk_sound

theorem State.switchUp_sound {s : State} {p : Nat} {position : Nat} {x : Nat} (h : s.Sound) : (State.switchUp s p position x).Sound := by
  unfold State.switchUp
  try dsimp only
  repeat' first
    | with_reducible assumption
    | with_reducible apply State.noteSwitch_sound
    | with_reducible apply State.sendRouted_sound
    | with_reducible apply foldl_sound
    | (intro _; intros; try dsimp only)
    | split
    | with_reducible apply State.mk_sound

theorem State.switchIn_sound {s : State} {p : Nat} {pk : Packet} (h : s.Sound) : (State.switchIn s p pk).Sound := by
  unfold State.switchIn
  try dsimp only
  repeat' first
    | with_reducible assumption
    | with_reducible apply State.noteSwitch_sound
    | with_reducible apply State.switchUp_sound
    | with_reducible apply foldl_sound
    | (intro _; intros; try dsimp only)
    | split
    | with_reducible apply State.mk_sound

theorem doRouteSwitch_sound {port : Nat} {pkt : Packet} {s : State} (h : s.Sound) : (doRouteSwitch port pkt s).Sound := by
  unfold doRouteSwitch
  try dsimp only
  repeat' first
    | with_reducible assumption
    | with_reducible apply State.receive_sound
    | with_reducible apply State.switchIn_sound
    | with_reducible apply foldl_sound
    | (intro _; intros; try dsimp only)
    | split
    | with_reducible apply State.mk_sound

theorem doRouteSwitchApply_sound {p : Nat} {position : Nat} {s : State} (h : s.Sound) : (doRouteSwitchApply p position s).Sound := by
  unfold doRouteSwitchApply
  try dsimp only
  repeat' first
    | with_reducible assumption
    | with_reducible apply State.modPart_sound
    | with_reducible apply State.raiseFor_sound
    | with_reducible apply State.stepFault_sound
    | with_reducible apply State.count_sound
    | with_reducible apply foldl_sound
    | (intro _; intros; try dsimp only)
    | split
    | with_reducible apply State.mk_sound

theorem doFenceMarker_sound {port : Nat} {pkt : Packet} {s : State} (h : s.Sound) : (doFenceMarker port pkt s).Sound := by
  unfold doFenceMarker
  try dsimp only
  repeat' first
    | with_reducible assumption
    | with_reducible apply State.modPort_sound
    | with_reducible apply State.stampReceipt_sound
    | with_reducible apply State.passPacket_sound
    | with_reducible apply foldl_sound
    | (intro _; intros; try dsimp only)
    | split
    | with_reducible apply State.mk_sound

theorem State.modStripe_sound {s : State} {p : Nat} {g : Nat} {t : Nat} {k : Nat} {f : StripeRun → StripeRun} (h : s.Sound) : (State.modStripe s p g t k f).Sound := by
  unfold State.modStripe
  try dsimp only
  repeat' first
    | with_reducible assumption
    | with_reducible apply State.modPart_sound
    | with_reducible apply foldl_sound
    | (intro _; intros; try dsimp only)
    | split
    | with_reducible apply State.mk_sound

theorem State.putResult_sound {s : State} {p : Nat} {t : Tensor} {i : Nat} {codes : List Nat} (h : s.Sound) : (State.putResult s p t i codes).Sound := by
  unfold State.putResult
  try dsimp only
  repeat' first
    | with_reducible assumption
    | with_reducible apply State.putCodes_sound
    | with_reducible apply State.putBits_sound
    | with_reducible apply foldl_sound
    | (intro _; intros; try dsimp only)
    | split
    | with_reducible apply State.mk_sound

theorem State.putMxResult_sound {s : State} {p : Nat} {t : Tensor} {first : Nat} {vs : List Fp} (h : s.Sound) : (State.putMxResult s p t first vs).Sound := by
  unfold State.putMxResult
  try dsimp only
  repeat' first
    | with_reducible assumption
    | with_reducible apply State.writeSpace_sound
    | with_reducible apply State.putResult_sound
    | with_reducible apply foldl_sound
    | (intro _; intros; try dsimp only)
    | split
    | with_reducible apply State.mk_sound

theorem State.recordSide_sound {s : State} {p : Nat} {x : Reduce} {v : Nat × Nat} (h : s.Sound) : (State.recordSide s p x v).Sound := by
  unfold State.recordSide
  try dsimp only
  repeat' first
    | with_reducible assumption
    | with_reducible apply State.recordAmax_sound
    | with_reducible apply State.modPart_sound
    | with_reducible apply foldl_sound
    | (intro _; intros; try dsimp only)
    | split
    | with_reducible apply State.mk_sound

theorem State.readyLeg_sound {s : State} {p : Nat} {x : Reduce} {l : Leg} {kind : Nat} {cls : Nat} {e : Nat} {data : List Byte} {side : Option (Nat × Nat)} (h : s.Sound) : (State.readyLeg s p x l kind cls e data side).Sound := by
  unfold State.readyLeg
  try dsimp only
  repeat' first
    | with_reducible assumption
    | with_reducible apply State.readySlots_sound
    | with_reducible apply State.modOutSlot_sound
    | with_reducible apply foldl_sound
    | (intro _; intros; try dsimp only)
    | split
    | with_reducible apply State.mk_sound

theorem State.sendDown_sound {s : State} {w : RedWork} {k : Nat} {data : List Byte} {side : Option (Nat × Nat)} (h : s.Sound) : (State.sendDown s w k data side).Sound := by
  unfold State.sendDown
  try dsimp only
  repeat' first
    | with_reducible assumption
    | with_reducible apply State.readyLeg_sound
    | with_reducible apply foldl_sound
    | (intro _; intros; try dsimp only)
    | split
    | with_reducible apply State.mk_sound

theorem State.redHits_sound {s : State} {w : RedWork} {hits : Nat} (h : s.Sound) : (State.redHits s w hits).Sound := by
  unfold State.redHits
  try dsimp only
  repeat' first
    | with_reducible assumption
    | with_reducible apply State.modRun_sound
    | with_reducible apply State.count_sound
    | with_reducible apply State.raise_sound
    | with_reducible apply foldl_sound
    | (intro _; intros; try dsimp only)
    | split
    | with_reducible apply State.mk_sound

theorem State.combineStripe_sound {s : State} {w : RedWork} {k : Nat} {st : Stripe} (h : s.Sound) : (State.combineStripe s w k st).Sound := by
  unfold State.combineStripe
  try dsimp only
  repeat' first
    | with_reducible assumption
    | with_reducible apply State.modStripe_sound
    | with_reducible apply State.redHits_sound
    | with_reducible apply State.putMxResult_sound
    | with_reducible apply State.putResult_sound
    | with_reducible apply State.recordSide_sound
    | with_reducible apply State.sendDown_sound
    | with_reducible apply State.readyLeg_sound
    | with_reducible apply foldl_sound
    | (intro _; intros; try dsimp only)
    | split
    | with_reducible apply State.mk_sound

theorem State.finishStripe_sound {s : State} {w : RedWork} {k : Nat} {parent : Nat} (h : s.Sound) : (State.finishStripe s w k parent).Sound := by
  unfold State.finishStripe
  try dsimp only
  repeat' first
    | with_reducible assumption
    | with_reducible apply State.putMxResult_sound
    | with_reducible apply State.sendDown_sound
    | with_reducible apply State.modStripe_sound
    | with_reducible apply foldl_sound
    | (intro _; intros; try dsimp only)
    | split
    | with_reducible apply State.mk_sound

theorem State.moveStripe_sound {s : State} {w : RedWork} {k : Nat} (h : s.Sound) : (State.moveStripe s w k).Sound := by
  unfold State.moveStripe
  try dsimp only
  repeat' first
    | with_reducible assumption
    | with_reducible apply State.finishStripe_sound
    | with_reducible apply State.combineStripe_sound
    | with_reducible apply foldl_sound
    | (intro _; intros; try dsimp only)
    | split
    | with_reducible apply State.mk_sound

theorem State.stampPart_sound {s : State} (h : s.Sound) : (State.stampPart s).Sound := by
  unfold State.stampPart
  try dsimp only
  repeat' first
    | with_reducible assumption
    | with_reducible apply State.issueStamp_sound
    | with_reducible apply foldl_sound
    | (intro _; intros; try dsimp only)
    | split
    | with_reducible apply State.mk_sound

theorem doReduction_sound {core : Nat} {s : State} (h : s.Sound) : (doReduction core s).Sound := by
  unfold doReduction
  try dsimp only
  repeat' first
    | with_reducible assumption
    | with_reducible apply State.load_sound
    | with_reducible apply State.moveStripe_sound
    | with_reducible apply State.modStripe_sound
    | with_reducible apply State.stampPart_sound
    | with_reducible apply State.count_sound
    | with_reducible apply State.endTask_sound
    | with_reducible apply State.endEmpty_sound
    | with_reducible apply foldl_sound
    | (intro _; intros; try dsimp only)
    | split
    | with_reducible apply State.mk_sound

theorem State.partialIn_sound {port : Nat} {s : State} {p : Nat} {pk : Packet} (h : s.Sound) : (State.partialIn port s p pk).Sound := by
  unfold State.partialIn
  try dsimp only
  repeat' first
    | with_reducible assumption
    | with_reducible apply State.dropUnmatched_sound
    | with_reducible apply State.count_sound
    | with_reducible apply State.raiseFor_sound
    | with_reducible apply State.modPart_sound
    | with_reducible apply State.moveStripe_sound
    | with_reducible apply State.modStripe_sound
    | with_reducible apply State.stampPart_sound
    | with_reducible apply foldl_sound
    | (intro _; intros; try dsimp only)
    | split
    | with_reducible apply State.mk_sound

theorem doReductionPartial_sound {port : Nat} {pkt : Packet} {s : State} (h : s.Sound) : (doReductionPartial port pkt s).Sound := by
  unfold doReductionPartial
  try dsimp only
  repeat' first
    | with_reducible assumption
    | with_reducible apply State.receive_sound
    | with_reducible apply State.partialIn_sound
    | with_reducible apply foldl_sound
    | (intro _; intros; try dsimp only)
    | split
    | with_reducible apply State.mk_sound

theorem State.resultIn_sound {port : Nat} {s : State} {p : Nat} {pk : Packet} (h : s.Sound) : (State.resultIn port s p pk).Sound := by
  unfold State.resultIn
  try dsimp only
  repeat' first
    | with_reducible assumption
    | with_reducible apply State.dropUnmatched_sound
    | with_reducible apply State.putResult_sound
    | with_reducible apply State.moveStripe_sound
    | with_reducible apply State.modStripe_sound
    | with_reducible apply foldl_sound
    | (intro _; intros; try dsimp only)
    | split
    | with_reducible apply State.mk_sound

theorem doReductionResult_sound {port : Nat} {pkt : Packet} {s : State} (h : s.Sound) : (doReductionResult port pkt s).Sound := by
  unfold doReductionResult
  try dsimp only
  repeat' first
    | with_reducible assumption
    | with_reducible apply State.receive_sound
    | with_reducible apply State.resultIn_sound
    | with_reducible apply foldl_sound
    | (intro _; intros; try dsimp only)
    | split
    | with_reducible apply State.mk_sound

theorem State.sideIn_sound {port : Nat} {s : State} {p : Nat} {pk : Packet} (h : s.Sound) : (State.sideIn port s p pk).Sound := by
  unfold State.sideIn
  try dsimp only
  repeat' first
    | with_reducible assumption
    | with_reducible apply State.moveStripe_sound
    | with_reducible apply State.modStripe_sound
    | with_reducible apply State.recordSide_sound
    | with_reducible apply State.dropUnmatched_sound
    | with_reducible apply foldl_sound
    | (intro _; intros; try dsimp only)
    | split
    | with_reducible apply State.mk_sound

theorem doSideband_sound {port : Nat} {pkt : Packet} {s : State} (h : s.Sound) : (doSideband port pkt s).Sound := by
  unfold doSideband
  try dsimp only
  repeat' first
    | with_reducible assumption
    | with_reducible apply State.receive_sound
    | with_reducible apply State.sideIn_sound
    | with_reducible apply foldl_sound
    | (intro _; intros; try dsimp only)
    | split
    | with_reducible apply State.mk_sound

theorem State.recheckPort_sound {s : State} {n : Nat} (h : s.Sound) : (State.recheckPort s n).Sound := by
  unfold State.recheckPort
  try dsimp only
  repeat' first
    | with_reducible assumption
    | with_reducible apply State.planInvalid_sound
    | with_reducible apply foldl_sound
    | (intro _; intros; try dsimp only)
    | split
    | with_reducible apply State.mk_sound

theorem doLaneFailure_sound {port : Nat} {lane : Nat} {errors : Nat} {symbols : Nat} {s : State} (h : s.Sound) : (doLaneFailure port lane errors symbols s).Sound := by
  unfold doLaneFailure
  try dsimp only
  repeat' first
    | with_reducible assumption
    | with_reducible apply State.set_sound
    | with_reducible apply State.portDown_sound
    | with_reducible apply State.modPort_sound
    | with_reducible apply State.count_sound
    | with_reducible apply State.raise_sound
    | with_reducible apply State.recheckPort_sound
    | with_reducible apply foldl_sound
    | (intro _; intros; try dsimp only)
    | split
    | with_reducible apply State.mk_sound

theorem State.sendTokens_sound {s : State} {pl : Plan} {g : Nat} {t : Nat} {dst : Task → Bool} (h : s.Sound) : (State.sendTokens s pl g t dst).Sound := by
  unfold State.sendTokens
  try dsimp only
  repeat' first
    | with_reducible assumption
    | with_reducible apply foldl_sound
    | (intro _; intros; try dsimp only)
    | split
    | with_reducible apply State.mk_sound

theorem State.commitLayer_sound {s : State} {p : Nat} {pl : Plan} {g : Nat} {l : Nat} (h : s.Sound) : (State.commitLayer s p pl g l).Sound := by
  unfold State.commitLayer
  try dsimp only
  repeat' first
    | with_reducible assumption
    | with_reducible apply State.writeHalos_sound
    | with_reducible apply State.sendTokens_sound
    | with_reducible apply foldl_sound
    | (intro _; intros; try dsimp only)
    | split
    | with_reducible apply State.mk_sound

theorem State.replayTask_sound {s : State} {p : Nat} {g : Nat} {l : Nat} {pl : Plan} {x : Nat × Task} (h : s.Sound) : (State.replayTask s p g l pl x).Sound := by
  unfold State.replayTask
  try dsimp only
  repeat' first
    | with_reducible assumption
    | with_reducible apply State.wake_sound
    | with_reducible apply State.modRun_sound
    | with_reducible apply State.modCore_sound
    | with_reducible apply foldl_sound
    | (intro _; intros; try dsimp only)
    | split
    | with_reducible apply State.mk_sound

theorem State.replayLayer_sound {s : State} {p : Nat} {g : Nat} {l : Nat} {pl : Plan} (h : s.Sound) : (State.replayLayer s p g l pl).Sound := by
  unfold State.replayLayer
  try dsimp only
  repeat' first
    | with_reducible assumption
    | with_reducible apply State.modLayer_sound
    | with_reducible apply State.raise_sound
    | with_reducible apply State.set_sound
    | with_reducible apply State.count_sound
    | with_reducible apply State.replayTask_sound
    | with_reducible apply foldl_sound
    | (intro _; intros; try dsimp only)
    | split
    | with_reducible apply State.mk_sound

theorem State.numericFault_sound {s : State} {p : Nat} {l : Nat} {cause : Nat} (h : s.Sound) : (State.numericFault s p l cause).Sound := by
  unfold State.numericFault
  try dsimp only
  repeat' first
    | with_reducible assumption
    | with_reducible apply State.raise_sound
    | with_reducible apply State.stepFault_sound
    | with_reducible apply State.count_sound
    | with_reducible apply State.set_sound
    | with_reducible apply foldl_sound
    | (intro _; intros; try dsimp only)
    | split
    | with_reducible apply State.mk_sound

theorem State.judgeLayer_sound {s : State} {p : Nat} {g : Nat} {l : Nat} {pl : Plan} (h : s.Sound) : (State.judgeLayer s p g l pl).Sound := by
  unfold State.judgeLayer
  try dsimp only
  repeat' first
    | with_reducible assumption
    | with_reducible apply State.numericFault_sound
    | with_reducible apply State.replayLayer_sound
    | with_reducible apply State.commitLayer_sound
    | with_reducible apply foldl_sound
    | (intro _; intros; try dsimp only)
    | split
    | with_reducible apply State.mk_sound

theorem State.stepWorkDone_sound {s : State} {p : Nat} {pl : Plan} (h : s.Sound) : (State.stepWorkDone s p pl).Sound := by
  unfold State.stepWorkDone
  try dsimp only
  repeat' first
    | with_reducible assumption
    | with_reducible apply State.ownNotice_sound
    | with_reducible apply foldl_sound
    | (intro _; intros; try dsimp only)
    | split
    | with_reducible apply State.mk_sound

theorem doTaskCompletion_sound {p : Nat} {graph : Nat} {task : Nat} {s : State} (h : s.Sound) : (doTaskCompletion p graph task s).Sound := by
  unfold doTaskCompletion
  try dsimp only
  repeat' first
    | with_reducible assumption
    | with_reducible apply State.modRun_sound
    | with_reducible apply State.sendTokens_sound
    | with_reducible apply State.writeHalos_sound
    | with_reducible apply State.payHalos_sound
    | with_reducible apply State.releaseLandings_sound
    | with_reducible apply State.judgeLayer_sound
    | with_reducible apply State.stepWorkDone_sound
    | with_reducible apply foldl_sound
    | (intro _; intros; try dsimp only)
    | split
    | with_reducible apply State.mk_sound

theorem State.resetPlanQueue_sound {s : State} {p : Nat} {i : Nat} (h : s.Sound) : (State.resetPlanQueue s p i).Sound := by
  unfold State.resetPlanQueue
  try dsimp only
  repeat' first
    | with_reducible assumption
    | with_reducible apply State.modQueue_sound
    | with_reducible apply State.endWaits_sound
    | with_reducible apply State.modCore_sound
    | with_reducible apply foldl_sound
    | (intro _; intros; try dsimp only)
    | split
    | with_reducible apply State.mk_sound

theorem State.resetChannel_sound {s : State} {n : Nat} {cls : Nat} (h : s.Sound) : (State.resetChannel s n cls).Sound := by
  unfold State.resetChannel
  try dsimp only
  repeat' first
    | with_reducible assumption
    | with_reducible apply State.modPort_sound
    | with_reducible apply State.freeBuffer_sound
    | with_reducible apply foldl_sound
    | (intro _; intros; try dsimp only)
    | split
    | with_reducible apply State.mk_sound

theorem State.resetQueue_sound {s : State} {q : QueueRef} (h : s.Sound) : (State.resetQueue s q).Sound := by
  unfold State.resetQueue
  try dsimp only
  repeat' first
    | with_reducible assumption
    | with_reducible apply State.resetPlanQueue_sound
    | with_reducible apply State.resetChannel_sound
    | with_reducible apply foldl_sound
    | (intro _; intros; try dsimp only)
    | split
    | with_reducible apply State.mk_sound

theorem State.noteReset_sound {s : State} {q : QueueRef} (h : s.Sound) : (State.noteReset s q).Sound := by
  unfold State.noteReset
  try dsimp only
  repeat' first
    | with_reducible assumption
    | with_reducible apply State.set_sound
    | with_reducible apply State.count_sound
    | with_reducible apply foldl_sound
    | (intro _; intros; try dsimp only)
    | split
    | with_reducible apply State.mk_sound

theorem State.queueLoss_sound {s : State} {q : QueueRef} (h : s.Sound) : (State.queueLoss s q).Sound := by
  unfold State.queueLoss
  try dsimp only
  repeat' first
    | with_reducible assumption
    | with_reducible apply State.transientError_sound
    | with_reducible apply foldl_sound
    | (intro _; intros; try dsimp only)
    | split
    | with_reducible apply State.mk_sound

theorem doQueuePtrMismatch_sound {q : QueueRef} {cause : Nat} {inTransfer : Nat} {s : State} (h : s.Sound) : (doQueuePtrMismatch q cause inTransfer s).Sound := by
  unfold doQueuePtrMismatch
  try dsimp only
  repeat' first
    | with_reducible assumption
    | with_reducible apply State.noteReset_sound
    | with_reducible apply State.raiseFor_sound
    | with_reducible apply State.resetQueue_sound
    | with_reducible apply State.queueLoss_sound
    | with_reducible apply foldl_sound
    | (intro _; intros; try dsimp only)
    | split
    | with_reducible apply State.mk_sound

end Sys2Proof.Machine
end

