-- ==== Sys2Proof/Laws/Sound4.lean ====
section
/-! SUPPORT. Every operation that answers a state keeps a sound state sound, for the operations in Securing.lean, Safelight.lean, Intake.lean, Outputs.lean. -/

set_option Elab.async false

namespace Sys2Proof.Machine

theorem State.snapshotRecord_sound {s : State} {p : Nat} (h : s.Sound) : (State.snapshotRecord s p).Sound := by
  unfold State.snapshotRecord
  try dsimp only
  repeat' first
    | with_reducible assumption
    | with_reducible apply State.modFixer_sound
    | with_reducible apply foldl_sound
    | (intro _; intros; try dsimp only)
    | split
    | with_reducible apply State.mk_sound

theorem State.putNegTags_sound {s : State} {block : Nat} {tags : List Nat} (h : s.Sound) : (State.putNegTags s block tags).Sound := by
  unfold State.putNegTags
  try dsimp only
  repeat' first
    | with_reducible assumption
    | with_reducible apply foldl_sound
    | (intro _; intros; try dsimp only)
    | split
    | with_reducible apply State.mk_sound

theorem State.putCopy_sound {s : State} {at_ : Nat} {c : Copy} (h : s.Sound) : (State.putCopy s at_ c).Sound := by
  unfold State.putCopy
  try dsimp only
  repeat' first
    | with_reducible assumption
    | with_reducible apply State.putNegTags_sound
    | with_reducible apply State.rawNeg_sound
    | with_reducible apply foldl_sound
    | (intro _; intros; try dsimp only)
    | split
    | with_reducible apply State.mk_sound

theorem State.putSeal_sound {s : State} {a : ItemPlace} {r : SealRec} (h : s.Sound) : (State.putSeal s a r).Sound := by
  unfold State.putSeal
  try dsimp only
  repeat' first
    | with_reducible assumption
    | with_reducible apply State.set_sound
    | with_reducible apply State.rawNeg_sound
    | with_reducible apply foldl_sound
    | (intro _; intros; try dsimp only)
    | split
    | with_reducible apply State.mk_sound

theorem State.noteInvalid_sound {s : State} {p : Nat} {item : Nat} {ward : Nat} (h : s.Sound) : (State.noteInvalid s p item ward).Sound := by
  unfold State.noteInvalid
  try dsimp only
  repeat' first
    | with_reducible assumption
    | with_reducible apply State.count_sound
    | with_reducible apply State.raiseFor_sound
    | with_reducible apply foldl_sound
    | (intro _; intros; try dsimp only)
    | split
    | with_reducible apply State.mk_sound

theorem State.sealInvalid_sound {s : State} {p : Nat} {item : Nat} {ward : Nat} {a : ItemPlace} {i : Nat} (h : s.Sound) : (State.sealInvalid s p item ward a i).Sound := by
  unfold State.sealInvalid
  try dsimp only
  repeat' first
    | with_reducible assumption
    | with_reducible apply State.rawNeg_sound
    | with_reducible apply State.noteInvalid_sound
    | with_reducible apply foldl_sound
    | (intro _; intros; try dsimp only)
    | split
    | with_reducible apply State.mk_sound

theorem State.firstValid_sound {s : State} {p : Nat} {item : Nat} {ward : Nat} {a : ItemPlace} {ok : SealRec → Bool} {x6 : List Nat} (h : s.Sound) : (State.firstValid s p item ward a ok x6).2.Sound := by
  induction x6 generalizing s with
  | nil => exact h
  | cons i rest ih =>
    simp only [State.firstValid]
    split
    · exact ih h
    · split
      · exact h
      · exact ih (State.sealInvalid_sound h)

theorem State.abandonMirror_sound {s : State} {p : Nat} {item : Nat} (h : s.Sound) : (State.abandonMirror s p item).Sound := by
  unfold State.abandonMirror
  try dsimp only
  repeat' first
    | with_reducible assumption
    | with_reducible apply State.modFixer_sound
    | with_reducible apply foldl_sound
    | (intro _; intros; try dsimp only)
    | split
    | with_reducible apply State.mk_sound

theorem State.wantMirror_sound {s : State} {p : Nat} {item : Nat} {pl : Plan} {inSweep : Bool} (h : s.Sound) : (State.wantMirror s p item pl inSweep).Sound := by
  unfold State.wantMirror
  try dsimp only
  repeat' first
    | with_reducible assumption
    | with_reducible apply State.modFixer_sound
    | with_reducible apply State.abandonMirror_sound
    | with_reducible apply foldl_sound
    | (intro _; intros; try dsimp only)
    | split
    | with_reducible apply State.mk_sound

theorem State.sealItem_sound {s : State} {p : Nat} {item : Nat} {n : Nat} {pl : Plan} {rec : List Byte} {inSweep : Bool} (h : s.Sound) : (State.sealItem s p item n pl rec inSweep).Sound := by
  unfold State.sealItem
  try dsimp only
  repeat' first
    | with_reducible assumption
    | with_reducible apply State.wantMirror_sound
    | with_reducible apply State.count_sound
    | with_reducible apply State.putSeal_sound
    | with_reducible apply State.putCopy_sound
    | with_reducible apply State.stampUsed_sound
    | with_reducible apply foldl_sound
    | (intro _; intros; try dsimp only)
    | split
    | with_reducible apply State.mk_sound

theorem State.loadGens_sound {s : State} {p : Nat} {mask : Nat} {rec : List Byte} (h : s.Sound) : (State.loadGens s p mask rec).Sound := by
  unfold State.loadGens
  try dsimp only
  repeat' first
    | with_reducible assumption
    | with_reducible apply State.modGen_sound
    | with_reducible apply State.modFixer_sound
    | with_reducible apply foldl_sound
    | (intro _; intros; try dsimp only)
    | split
    | with_reducible apply State.mk_sound

theorem State.recordFor_sound {s : State} {p : Nat} {mask : Nat} {pl : Plan} (h : s.Sound) : (State.recordFor s p mask pl).2.Sound := by
  unfold State.recordFor
  dsimp only
  split
  · exact h
  · split
    · exact h
    · next a _ =>
      have h2 := State.firstValid_sound (p := p) (item := recordItem) (ward := 0) (a := a) (ok := fun _ => true)
        (x6 := s.validSlots a recordItem) h
      revert h2
      rcases s.firstValid p recordItem 0 a (fun _ => true) (s.validSlots a recordItem) with ⟨_ | ⟨r, c⟩, s'⟩
      · exact fun h2 => h2
      · exact fun h2 => h2

theorem State.putTensors_sound {s : State} {p : Nat} {a : List Tensor} {x3 : Copy} (h : s.Sound) : (State.putTensors s p a x3).Sound := by
  induction a generalizing s x3 with
  | nil => exact h
  | cons t ts ih =>
    simp only [State.putTensors]
    apply ih
    split
    · exact foldl_sound _ _ (fun _ _ h => State.setTag_sound h) (State.writeSpace_sound h)
    · exact State.writeSpace_sound h

theorem State.restoreGroup_sound {s : State} {p : Nat} {g : Nat} {pl : Plan} {r : SealRec} {c : Copy} (h : s.Sound) : (State.restoreGroup s p g pl r c).Sound := by
  unfold State.restoreGroup
  try dsimp only
  repeat' first
    | with_reducible assumption
    | with_reducible apply State.recordFor_sound
    | with_reducible apply State.putTensors_sound
    | with_reducible apply State.loadGens_sound
    | with_reducible apply State.modGroup_sound
    | with_reducible apply State.setEta_sound
    | with_reducible apply State.raise_sound
    | with_reducible apply State.set_sound
    | with_reducible apply State.count_sound
    | with_reducible apply foldl_sound
    | (intro _; intros; try dsimp only)
    | split
    | with_reducible apply State.mk_sound

theorem State.restoreRecord_sound {s : State} {p : Nat} {c : Copy} (h : s.Sound) : (State.restoreRecord s p c).Sound := by
  unfold State.restoreRecord
  try dsimp only
  repeat' first
    | with_reducible assumption
    | with_reducible apply State.loadGens_sound
    | with_reducible apply State.modFixer_sound
    | with_reducible apply State.setPair_sound
    | with_reducible apply foldl_sound
    | (intro _; intros; try dsimp only)
    | split
    | with_reducible apply State.mk_sound

theorem State.restoreItem_sound {s : State} {p : Nat} {item : Nat} {pl : Plan} {r : SealRec} {c : Copy} (h : s.Sound) : (State.restoreItem s p item pl r c).Sound := by
  unfold State.restoreItem
  try dsimp only
  repeat' first
    | with_reducible assumption
    | with_reducible apply State.restoreRecord_sound
    | with_reducible apply State.restoreGroup_sound
    | with_reducible apply foldl_sound
    | (intro _; intros; try dsimp only)
    | split
    | with_reducible apply State.mk_sound

theorem State.sendAll_sound {s : State} {p : Nat} {xs : List PacketSpec} (h : s.Sound) : (State.sendAll s p xs).Sound := by
  unfold State.sendAll
  try dsimp only
  repeat' first
    | with_reducible assumption
    | with_reducible apply State.sendRouted_sound
    | with_reducible apply foldl_sound
    | (intro _; intros; try dsimp only)
    | split
    | with_reducible apply State.mk_sound

theorem State.askPartner_sound {s : State} {p : Nat} {item : Nat} {pl : Plan} {again : Bool} (h : s.Sound) : (State.askPartner s p item pl again).Sound := by
  unfold State.askPartner
  try dsimp only
  repeat' first
    | with_reducible assumption
    | with_reducible apply State.restoreFailed_sound
    | with_reducible apply State.modFixer_sound
    | with_reducible apply State.sendRouted_sound
    | with_reducible apply foldl_sound
    | (intro _; intros; try dsimp only)
    | split
    | with_reducible apply State.mk_sound

theorem State.restoreFrom_sound {s : State} {p : Nat} {item : Nat} {pl : Plan} {ok : SealRec → Bool} (h : s.Sound) : (State.restoreFrom s p item pl ok).Sound := by
  unfold State.restoreFrom
  extract_lets own
  have h2 : own.2.Sound := by
    unfold own
    split
    · exact State.firstValid_sound h
    · exact h
  clear_value own
  rcases own with ⟨_ | ⟨r, c⟩, s'⟩
  · exact State.askPartner_sound (State.modFixer_sound (s := s') h2)
  · exact State.restoreItem_sound (s := s') h2

theorem State.restoreGroups_sound {s : State} {p : Nat} {pl : Plan} {gs : List Nat} (h : s.Sound) : (State.restoreGroups s p pl gs).Sound := by
  unfold State.restoreGroups
  try dsimp only
  repeat' first
    | with_reducible assumption
    | with_reducible apply State.restoreFrom_sound
    | with_reducible apply foldl_sound
    | (intro _; intros; try dsimp only)
    | split
    | with_reducible apply State.mk_sound

theorem State.noteWard_sound {s : State} {x1 : SecPlan} {item : Nat} {bytes : Nat} (h : s.Sound) : (State.noteWard s x1 item bytes).Sound := by
  unfold State.noteWard
  try dsimp only
  repeat' first
    | with_reducible assumption
    | with_reducible apply foldl_sound
    | (intro _; intros; try dsimp only)
    | split
    | with_reducible apply State.mk_sound

theorem State.mirrorIn_sound {port : Nat} {s : State} {p : Nat} {pk : Packet} (h : s.Sound) : (State.mirrorIn port s p pk).Sound := by
  unfold State.mirrorIn
  try dsimp only
  repeat' first
    | with_reducible assumption
    | with_reducible apply State.dropUnmatched_sound
    | with_reducible apply State.noteWard_sound
    | with_reducible apply State.rawNeg_sound
    | with_reducible apply State.putNegTags_sound
    | with_reducible apply foldl_sound
    | (intro _; intros; try dsimp only)
    | split
    | with_reducible apply State.mk_sound

theorem doBulkMirrorData_sound {port : Nat} {pkt : Packet} {s : State} (h : s.Sound) : (doBulkMirrorData port pkt s).Sound := by
  unfold doBulkMirrorData
  try dsimp only
  repeat' first
    | with_reducible assumption
    | with_reducible apply State.receive_sound
    | with_reducible apply State.mirrorIn_sound
    | with_reducible apply State.dropUnmatched_sound
    | with_reducible apply foldl_sound
    | (intro _; intros; try dsimp only)
    | split
    | with_reducible apply State.mk_sound

theorem State.mirrorSealIn_sound {port : Nat} {s : State} {p : Nat} {pk : Packet} (h : s.Sound) : (State.mirrorSealIn port s p pk).Sound := by
  unfold State.mirrorSealIn
  try dsimp only
  repeat' first
    | with_reducible assumption
    | with_reducible apply State.dropUnmatched_sound
    | with_reducible apply State.sealInvalid_sound
    | with_reducible apply State.sendRouted_sound
    | with_reducible apply State.putSeal_sound
    | with_reducible apply foldl_sound
    | (intro _; intros; try dsimp only)
    | split
    | with_reducible apply State.mk_sound

theorem doBulkMirrorSeal_sound {port : Nat} {pkt : Packet} {s : State} (h : s.Sound) : (doBulkMirrorSeal port pkt s).Sound := by
  unfold doBulkMirrorSeal
  try dsimp only
  repeat' first
    | with_reducible assumption
    | with_reducible apply State.receive_sound
    | with_reducible apply State.mirrorSealIn_sound
    | with_reducible apply foldl_sound
    | (intro _; intros; try dsimp only)
    | split
    | with_reducible apply State.mk_sound

theorem State.sendMirror_sound {s : State} {p : Nat} {item : Nat} {xs : List PacketSpec} (h : s.Sound) : (State.sendMirror s p item xs).Sound := by
  unfold State.sendMirror
  try dsimp only
  repeat' first
    | with_reducible assumption
    | with_reducible apply State.sendRouted_sound
    | with_reducible apply State.modPort_sound
    | with_reducible apply foldl_sound
    | (intro _; intros; try dsimp only)
    | split
    | with_reducible apply State.mk_sound

theorem doMirrorSend_sound {p : Nat} {item : Nat} {s : State} (h : s.Sound) : (doMirrorSend p item s).Sound := by
  unfold doMirrorSend
  split
  · exact h
  · split
    · next hd a _ _ =>
      split
      · exact h
      · extract_lets s1
        have h2 := State.firstValid_sound (p := p) (item := item) (ward := 0) (a := a) (ok := fun _ => true)
          (x6 := s1.validSlots a item) (s := s1) (State.modFixer_sound h)
        revert h2
        generalize s1.firstValid p item 0 a (fun _ => true) (s1.validSlots a item) = x
        rcases x with ⟨_ | ⟨r, c⟩, s'⟩
        · exact fun h2 => h2
        · exact fun h2 => State.sendMirror_sound (State.modFixer_sound h2)
    · exact h

theorem State.noteMirrored_sound {s : State} {p : Nat} (h : s.Sound) : (State.noteMirrored s p).Sound := by
  unfold State.noteMirrored
  try dsimp only
  repeat' first
    | with_reducible assumption
    | with_reducible apply State.raiseFor_sound
    | with_reducible apply State.modFixer_sound
    | with_reducible apply foldl_sound
    | (intro _; intros; try dsimp only)
    | split
    | with_reducible apply State.mk_sound

theorem State.mirrorStands_sound {s : State} {p : Nat} {item : Nat} {stamp : Nat} (h : s.Sound) : (State.mirrorStands s p item stamp).Sound := by
  unfold State.mirrorStands
  try dsimp only
  repeat' first
    | with_reducible assumption
    | with_reducible apply State.noteMirrored_sound
    | with_reducible apply State.count_sound
    | with_reducible apply State.modFixer_sound
    | with_reducible apply foldl_sound
    | (intro _; intros; try dsimp only)
    | split
    | with_reducible apply State.mk_sound

theorem State.creditIn_sound {port : Nat} {s : State} {p : Nat} {pk : Packet} (h : s.Sound) : (State.creditIn port s p pk).Sound := by
  unfold State.creditIn
  try dsimp only
  repeat' first
    | with_reducible assumption
    | with_reducible apply State.mirrorStands_sound
    | with_reducible apply State.landingIn_sound
    | with_reducible apply foldl_sound
    | (intro _; intros; try dsimp only)
    | split
    | with_reducible apply State.mk_sound

theorem doLandingCredit_sound {port : Nat} {pkt : Packet} {s : State} (h : s.Sound) : (doLandingCredit port pkt s).Sound := by
  unfold doLandingCredit
  try dsimp only
  repeat' first
    | with_reducible assumption
    | with_reducible apply State.receive_sound
    | with_reducible apply State.creditIn_sound
    | with_reducible apply foldl_sound
    | (intro _; intros; try dsimp only)
    | split
    | with_reducible apply State.mk_sound

theorem State.itemRequestIn_sound {port : Nat} {s : State} {p : Nat} {pk : Packet} (h : s.Sound) : (State.itemRequestIn port s p pk).Sound := by
  unfold State.itemRequestIn
  split
  · exact State.dropUnmatched_sound h
  · next hd _ =>
    extract_lets item dest look
    have h2 : look.2.Sound := by
      unfold look
      split
      · exact h
      · exact State.firstValid_sound h
    clear_value look
    rcases look with ⟨_ | ⟨r, c⟩, s'⟩
    · exact State.sendRouted_sound (s := s') h2
    · exact State.sendAll_sound (s := s') h2

theorem doItemRequest_sound {port : Nat} {pkt : Packet} {s : State} (h : s.Sound) : (doItemRequest port pkt s).Sound := by
  unfold doItemRequest
  try dsimp only
  repeat' first
    | with_reducible assumption
    | with_reducible apply State.receive_sound
    | with_reducible apply State.itemRequestIn_sound
    | with_reducible apply foldl_sound
    | (intro _; intros; try dsimp only)
    | split
    | with_reducible apply State.mk_sound

theorem State.itemDataIn_sound {port : Nat} {s : State} {p : Nat} {pk : Packet} (h : s.Sound) : (State.itemDataIn port s p pk).Sound := by
  unfold State.itemDataIn
  try dsimp only
  repeat' first
    | with_reducible assumption
    | with_reducible apply State.dropUnmatched_sound
    | with_reducible apply State.modFixer_sound
    | with_reducible apply foldl_sound
    | (intro _; intros; try dsimp only)
    | split
    | with_reducible apply State.mk_sound

theorem doItemData_sound {port : Nat} {pkt : Packet} {s : State} (h : s.Sound) : (doItemData port pkt s).Sound := by
  unfold doItemData
  try dsimp only
  repeat' first
    | with_reducible assumption
    | with_reducible apply State.receive_sound
    | with_reducible apply State.itemDataIn_sound
    | with_reducible apply foldl_sound
    | (intro _; intros; try dsimp only)
    | split
    | with_reducible apply State.mk_sound

theorem State.sweepDue_sound {s : State} {p : Nat} {cause : Nat} {all : Bool} {secures : List (Nat × Nat)} {retire : Bool} (h : s.Sound) : (State.sweepDue s p cause all secures retire).Sound := by
  unfold State.sweepDue
  try dsimp only
  repeat' first
    | with_reducible assumption
    | with_reducible apply State.modFixer_sound
    | with_reducible apply foldl_sound
    | (intro _; intros; try dsimp only)
    | split
    | with_reducible apply State.mk_sound

theorem doSecure_sound {ring : Nat} {s : State} (h : s.Sound) : (doSecure ring s).Sound := by
  unfold doSecure
  try dsimp only
  repeat' first
    | with_reducible assumption
    | with_reducible apply State.finish_sound
    | with_reducible apply State.sweepDue_sound
    | with_reducible apply State.beginDesc_sound
    | with_reducible apply foldl_sound
    | (intro _; intros; try dsimp only)
    | split
    | with_reducible apply State.mk_sound

theorem State.runRestores_sound {s : State} {p : Nat} {pl : Plan} (h : s.Sound) : (State.runRestores s p pl).Sound := by
  unfold State.runRestores
  try dsimp only
  repeat' first
    | with_reducible assumption
    | with_reducible apply State.stepWorkDone_sound
    | with_reducible apply State.restoreGroups_sound
    | with_reducible apply State.modPart_sound
    | with_reducible apply foldl_sound
    | (intro _; intros; try dsimp only)
    | split
    | with_reducible apply State.mk_sound

theorem doSweepStart_sound {p : Nat} {s : State} (h : s.Sound) : (doSweepStart p s).Sound := by
  unfold doSweepStart
  try dsimp only
  repeat' first
    | with_reducible assumption
    | with_reducible apply State.runRestores_sound
    | with_reducible apply State.raise_sound
    | with_reducible apply State.modFixer_sound
    | with_reducible apply foldl_sound
    | (intro _; intros; try dsimp only)
    | split
    | with_reducible apply State.mk_sound

theorem State.beginCopy_sound {s : State} {p : Nat} {item : Nat} (h : s.Sound) : (State.beginCopy s p item).Sound := by
  unfold State.beginCopy
  try dsimp only
  repeat' first
    | with_reducible assumption
    | with_reducible apply State.modFixer_sound
    | with_reducible apply foldl_sound
    | (intro _; intros; try dsimp only)
    | split
    | with_reducible apply State.mk_sound

theorem doPrivilegedCopy_sound {p : Nat} {group : Nat} {s : State} (h : s.Sound) : (doPrivilegedCopy p group s).Sound := by
  unfold doPrivilegedCopy
  try dsimp only
  repeat' first
    | with_reducible assumption
    | with_reducible apply State.beginCopy_sound
    | with_reducible apply foldl_sound
    | (intro _; intros; try dsimp only)
    | split
    | with_reducible apply State.mk_sound

theorem State.oweCopies_sound {s : State} {p : Nat} {pl : Plan} (h : s.Sound) : (State.oweCopies s p pl).Sound := by
  unfold State.oweCopies
  try dsimp only
  repeat' first
    | with_reducible assumption
    | with_reducible apply State.beginCopy_sound
    | with_reducible apply foldl_sound
    | (intro _; intros; try dsimp only)
    | split
    | with_reducible apply State.mk_sound

theorem doSealWritten_sound {p : Nat} {item : Nat} {s : State} (h : s.Sound) : (doSealWritten p item s).Sound := by
  unfold doSealWritten
  try dsimp only
  repeat' first
    | with_reducible assumption
    | with_reducible apply State.modFixer_sound
    | with_reducible apply State.sealItem_sound
    | with_reducible apply foldl_sound
    | (intro _; intros; try dsimp only)
    | split
    | with_reducible apply State.mk_sound

theorem State.completeSecures_sound {s : State} {d : DueSweep} (h : s.Sound) : (State.completeSecures s d).Sound := by
  unfold State.completeSecures
  try dsimp only
  repeat' first
    | with_reducible assumption
    | with_reducible apply State.finish_sound
    | with_reducible apply foldl_sound
    | (intro _; intros; try dsimp only)
    | split
    | with_reducible apply State.mk_sound

theorem State.sendDrained_sound {s : State} {p : Nat} (h : s.Sound) : (State.sendDrained s p).Sound := by
  unfold State.sendDrained
  try dsimp only
  repeat' first
    | with_reducible assumption
    | with_reducible apply State.modPart_sound
    | with_reducible apply State.tryCombineDrained_sound
    | with_reducible apply State.modBarrier_sound
    | with_reducible apply State.stampUsed_sound
    | with_reducible apply foldl_sound
    | (intro _; intros; try dsimp only)
    | split
    | with_reducible apply State.mk_sound

theorem State.endDrain_sound {s : State} {p : Nat} (h : s.Sound) : (State.endDrain s p).Sound := by
  unfold State.endDrain
  try dsimp only
  repeat' first
    | with_reducible assumption
    | with_reducible apply State.restoreGroups_sound
    | with_reducible apply State.modPart_sound
    | with_reducible apply State.sendDrained_sound
    | with_reducible apply foldl_sound
    | (intro _; intros; try dsimp only)
    | split
    | with_reducible apply State.mk_sound

theorem doSweepDone_sound {p : Nat} {s : State} (h : s.Sound) : (doSweepDone p s).Sound := by
  unfold doSweepDone
  try dsimp only
  repeat' first
    | with_reducible assumption
    | with_reducible apply State.count_sound
    | with_reducible apply State.raise_sound
    | with_reducible apply State.modFixer_sound
    | with_reducible apply State.completeSecures_sound
    | with_reducible apply State.noteMirrored_sound
    | with_reducible apply State.stepFault_sound
    | with_reducible apply State.runRestores_sound
    | with_reducible apply State.endDrain_sound
    | with_reducible apply foldl_sound
    | (intro _; intros; try dsimp only)
    | split
    | with_reducible apply State.mk_sound

theorem State.updateInput_sound {s : State} {ecc : EccCounts} {i : Nat} (h : s.Sound) : (State.updateInput s ecc i).Sound := by
  unfold State.updateInput
  try dsimp only
  repeat' first
    | with_reducible assumption
    | with_reducible apply State.set_sound
    | with_reducible apply foldl_sound
    | (intro _; intros; try dsimp only)
    | split
    | with_reducible apply State.mk_sound

theorem State.rearm_sound {s : State} {risk : Nat} (h : s.Sound) : (State.rearm s risk).Sound := by
  unfold State.rearm
  try dsimp only
  repeat' first
    | with_reducible assumption
    | with_reducible apply State.set_sound
    | with_reducible apply foldl_sound
    | (intro _; intros; try dsimp only)
    | split
    | with_reducible apply State.mk_sound

theorem State.secureRisk_sound {s : State} {before : Nat} {risk : Nat} (h : s.Sound) : (State.secureRisk s before risk).Sound := by
  unfold State.secureRisk
  try dsimp only
  repeat' first
    | with_reducible assumption
    | with_reducible apply State.raise_sound
    | with_reducible apply State.sweepDue_sound
    | with_reducible apply State.set_sound
    | with_reducible apply foldl_sound
    | (intro _; intros; try dsimp only)
    | split
    | with_reducible apply State.mk_sound

theorem State.alarmRisk_sound {s : State} {before : Nat} {risk : Nat} (h : s.Sound) : (State.alarmRisk s before risk).Sound := by
  unfold State.alarmRisk
  try dsimp only
  repeat' first
    | with_reducible assumption
    | with_reducible apply State.set_sound
    | with_reducible apply State.raise_sound
    | with_reducible apply State.sweepDue_sound
    | with_reducible apply foldl_sound
    | (intro _; intros; try dsimp only)
    | split
    | with_reducible apply State.mk_sound

theorem State.safelight_sound {s : State} {ecc : EccCounts} (h : s.Sound) : (State.safelight s ecc).Sound := by
  unfold State.safelight
  try dsimp only
  repeat' first
    | with_reducible assumption
    | with_reducible apply State.updateInput_sound
    | with_reducible apply State.rearm_sound
    | with_reducible apply State.set_sound
    | with_reducible apply State.alarmRisk_sound
    | with_reducible apply State.secureRisk_sound
    | with_reducible apply foldl_sound
    | (intro _; intros; try dsimp only)
    | split
    | with_reducible apply State.mk_sound

theorem State.tearStarted_sound {s : State} {p : Nat} {pl : Plan} (h : s.Sound) : (State.tearStarted s p pl).Sound := by
  unfold State.tearStarted
  try dsimp only
  repeat' first
    | with_reducible assumption
    | with_reducible apply State.tear_sound
    | with_reducible apply foldl_sound
    | (intro _; intros; try dsimp only)
    | split
    | with_reducible apply State.mk_sound

theorem doDrainComplete_sound {p : Nat} {s : State} (h : s.Sound) : (doDrainComplete p s).Sound := by
  unfold doDrainComplete
  try dsimp only
  repeat' first
    | with_reducible assumption
    | with_reducible apply State.modFixer_sound
    | with_reducible apply State.tearStarted_sound
    | with_reducible apply State.count_sound
    | with_reducible apply State.raise_sound
    | with_reducible apply State.endDrain_sound
    | with_reducible apply State.restoreGroups_sound
    | with_reducible apply State.modPart_sound
    | with_reducible apply foldl_sound
    | (intro _; intros; try dsimp only)
    | split
    | with_reducible apply State.mk_sound

theorem State.stepBoundary_sound {s : State} {p : Nat} {pl : Plan} {e : Nat} (h : s.Sound) : (State.stepBoundary s p pl e).Sound := by
  unfold State.stepBoundary
  try dsimp only
  repeat' first
    | with_reducible assumption
    | with_reducible apply State.requestsDue_sound
    | with_reducible apply State.stepContexts_sound
    | with_reducible apply State.groupsBoundary_sound
    | with_reducible apply State.endStepScales_sound
    | with_reducible apply State.oweCopies_sound
    | with_reducible apply State.snapshotRecord_sound
    | with_reducible apply State.beginStep_sound
    | with_reducible apply foldl_sound
    | (intro _; intros; try dsimp only)
    | split
    | with_reducible apply State.mk_sound

theorem doPlanResume_sound {p : Nat} {s : State} (h : s.Sound) : (doPlanResume p s).Sound := by
  unfold doPlanResume
  try dsimp only
  repeat' first
    | with_reducible assumption
    | with_reducible apply State.stepBoundary_sound
    | with_reducible apply foldl_sound
    | (intro _; intros; try dsimp only)
    | split
    | with_reducible apply State.mk_sound

theorem doHandoverSent_sound {p : Nat} {s : State} (h : s.Sound) : (doHandoverSent p s).Sound := by
  unfold doHandoverSent
  try dsimp only
  repeat' first
    | with_reducible assumption
    | with_reducible apply State.sendRouted_sound
    | with_reducible apply State.modFixer_sound
    | with_reducible apply State.raise_sound
    | with_reducible apply foldl_sound
    | (intro _; intros; try dsimp only)
    | split
    | with_reducible apply State.mk_sound

theorem State.endTakeover_sound {s : State} {p : Nat} (h : s.Sound) : (State.endTakeover s p).Sound := by
  unfold State.endTakeover
  try dsimp only
  repeat' first
    | with_reducible assumption
    | with_reducible apply State.modFixer_sound
    | with_reducible apply foldl_sound
    | (intro _; intros; try dsimp only)
    | split
    | with_reducible apply State.mk_sound

theorem State.beginTakeover_sound {s : State} {p : Nat} (h : s.Sound) : (State.beginTakeover s p).Sound := by
  unfold State.beginTakeover
  try dsimp only
  repeat' first
    | with_reducible assumption
    | with_reducible apply State.raise_sound
    | with_reducible apply State.modFixer_sound
    | with_reducible apply State.askPartner_sound
    | with_reducible apply State.endTakeover_sound
    | with_reducible apply foldl_sound
    | (intro _; intros; try dsimp only)
    | split
    | with_reducible apply State.mk_sound

theorem State.takeoverIn_sound {port : Nat} {s : State} {p : Nat} {pk : Packet} (h : s.Sound) : (State.takeoverIn port s p pk).Sound := by
  unfold State.takeoverIn
  try dsimp only
  repeat' first
    | with_reducible assumption
    | with_reducible apply State.beginTakeover_sound
    | with_reducible apply State.dropUnmatched_sound
    | with_reducible apply foldl_sound
    | (intro _; intros; try dsimp only)
    | split
    | with_reducible apply State.mk_sound

theorem doTakeoverRequest_sound {port : Nat} {pkt : Packet} {s : State} (h : s.Sound) : (doTakeoverRequest port pkt s).Sound := by
  unfold doTakeoverRequest
  try dsimp only
  repeat' first
    | with_reducible assumption
    | with_reducible apply State.receive_sound
    | with_reducible apply State.takeoverIn_sound
    | with_reducible apply foldl_sound
    | (intro _; intros; try dsimp only)
    | split
    | with_reducible apply State.mk_sound

theorem doTakeoverWrite_sound {value : Word} {s : State} (h : s.Sound) : (doTakeoverWrite value s).Sound := by
  unfold doTakeoverWrite
  try dsimp only
  repeat' first
    | with_reducible assumption
    | with_reducible apply State.beginTakeover_sound
    | with_reducible apply foldl_sound
    | (intro _; intros; try dsimp only)
    | split
    | with_reducible apply State.mk_sound

theorem State.takeoverRestored_sound {s : State} {p : Nat} (h : s.Sound) : (State.takeoverRestored s p).Sound := by
  unfold State.takeoverRestored
  try dsimp only
  repeat' first
    | with_reducible assumption
    | with_reducible apply State.modFixer_sound
    | with_reducible apply State.set_sound
    | with_reducible apply State.switchUp_sound
    | with_reducible apply foldl_sound
    | (intro _; intros; try dsimp only)
    | split
    | with_reducible apply State.mk_sound

theorem State.rebaseHolds_sound {s : State} {p : Nat} {step : Nat} (h : s.Sound) : (State.rebaseHolds s p step).Sound := by
  unfold State.rebaseHolds
  try dsimp only
  repeat' first
    | with_reducible assumption
    | with_reducible apply foldl_sound
    | (intro _; intros; try dsimp only)
    | split
    | with_reducible apply State.mk_sound

theorem doTakeoverDone_sound {p : Nat} {s : State} (h : s.Sound) : (doTakeoverDone p s).Sound := by
  unfold doTakeoverDone
  try dsimp only
  repeat' first
    | with_reducible assumption
    | with_reducible apply State.evalEta_sound
    | with_reducible apply State.rebaseHolds_sound
    | with_reducible apply State.modFixer_sound
    | with_reducible apply State.snapshotRecord_sound
    | with_reducible apply State.beginStep_sound
    | with_reducible apply State.count_sound
    | with_reducible apply State.raise_sound
    | with_reducible apply foldl_sound
    | (intro _; intros; try dsimp only)
    | split
    | with_reducible apply State.mk_sound

theorem State.itemLost_sound {s : State} {p : Nat} {item : Nat} (h : s.Sound) : (State.itemLost s p item).Sound := by
  unfold State.itemLost
  try dsimp only
  repeat' first
    | with_reducible assumption
    | with_reducible apply State.restoreFailed_sound
    | with_reducible apply State.endTakeover_sound
    | with_reducible apply foldl_sound
    | (intro _; intros; try dsimp only)
    | split
    | with_reducible apply State.mk_sound

theorem State.restoreTaken_sound {s : State} {p : Nat} {pl : Plan} (h : s.Sound) : (State.restoreTaken s p pl).Sound := by
  unfold State.restoreTaken
  try dsimp only
  repeat' first
    | with_reducible assumption
    | with_reducible apply State.restoreItem_sound
    | with_reducible apply State.modFixer_sound
    | with_reducible apply foldl_sound
    | (intro _; intros; try dsimp only)
    | split
    | with_reducible apply State.mk_sound

theorem State.itemRestored_sound {s : State} {p : Nat} {pl : Plan} (h : s.Sound) : (State.itemRestored s p pl).Sound := by
  unfold State.itemRestored
  try dsimp only
  repeat' first
    | with_reducible assumption
    | with_reducible apply State.takeoverRestored_sound
    | with_reducible apply State.restoreTaken_sound
    | with_reducible apply State.endDrain_sound
    | with_reducible apply State.stepWorkDone_sound
    | with_reducible apply foldl_sound
    | (intro _; intros; try dsimp only)
    | split
    | with_reducible apply State.mk_sound

theorem State.takeItem_sound {s : State} {p : Nat} {item : Nat} {pl : Plan} {r : SealRec} {c : Copy} (h : s.Sound) : (State.takeItem s p item pl r c).Sound := by
  unfold State.takeItem
  try dsimp only
  repeat' first
    | with_reducible assumption
    | with_reducible apply State.modFixer_sound
    | with_reducible apply State.restoreItem_sound
    | with_reducible apply foldl_sound
    | (intro _; intros; try dsimp only)
    | split
    | with_reducible apply State.mk_sound

theorem State.itemSealIn_sound {port : Nat} {s : State} {p : Nat} {pk : Packet} (h : s.Sound) : (State.itemSealIn port s p pk).Sound := by
  unfold State.itemSealIn
  try dsimp only
  repeat' first
    | with_reducible assumption
    | with_reducible apply State.dropUnmatched_sound
    | with_reducible apply State.modFixer_sound
    | with_reducible apply State.itemLost_sound
    | with_reducible apply State.itemRestored_sound
    | with_reducible apply State.takeItem_sound
    | with_reducible apply State.noteInvalid_sound
    | with_reducible apply State.askPartner_sound
    | with_reducible apply foldl_sound
    | (intro _; intros; try dsimp only)
    | split
    | with_reducible apply State.mk_sound

theorem doItemSealRecord_sound {port : Nat} {pkt : Packet} {s : State} (h : s.Sound) : (doItemSealRecord port pkt s).Sound := by
  unfold doItemSealRecord
  try dsimp only
  repeat' first
    | with_reducible assumption
    | with_reducible apply State.receive_sound
    | with_reducible apply State.itemSealIn_sound
    | with_reducible apply foldl_sound
    | (intro _; intros; try dsimp only)
    | split
    | with_reducible apply State.mk_sound

theorem State.tearReader_sound {s : State} {p : Nat} {core : Nat} {space : Nat} {a : Nat} (h : s.Sound) : (State.tearReader s p core space a).Sound := by
  unfold State.tearReader
  try dsimp only
  repeat' first
    | with_reducible assumption
    | with_reducible apply State.tear_sound
    | with_reducible apply foldl_sound
    | (intro _; intros; try dsimp only)
    | split
    | with_reducible apply State.mk_sound

theorem State.memoryError_sound {s : State} {p : Nat} {space : Nat} {a : Nat} {reader : ErrorReader} (h : s.Sound) : (State.memoryError s p space a reader).Sound := by
  unfold State.memoryError
  try dsimp only
  repeat' first
    | with_reducible assumption
    | with_reducible apply State.tearReader_sound
    | with_reducible apply State.modFixer_sound
    | with_reducible apply State.persistentError_sound
    | with_reducible apply State.transientError_sound
    | with_reducible apply foldl_sound
    | (intro _; intros; try dsimp only)
    | split
    | with_reducible apply State.mk_sound

theorem State.decoderError_sound {s : State} {p : Nat} {a : Nat} (h : s.Sound) : (State.decoderError s p a).Sound := by
  unfold State.decoderError
  try dsimp only
  repeat' first
    | with_reducible assumption
    | with_reducible apply State.persistentError_sound
    | with_reducible apply State.transientError_sound
    | with_reducible apply foldl_sound
    | (intro _; intros; try dsimp only)
    | split
    | with_reducible apply State.mk_sound

theorem doUncorrectableError_sound {loc : ErrorPlace} {s : State} (h : s.Sound) : (doUncorrectableError loc s).Sound := by
  unfold doUncorrectableError
  try dsimp only
  repeat' first
    | with_reducible assumption
    | with_reducible apply State.queueLoss_sound
    | with_reducible apply State.decoderError_sound
    | with_reducible apply State.transientError_sound
    | with_reducible apply State.memoryError_sound
    | with_reducible apply foldl_sound
    | (intro _; intros; try dsimp only)
    | split
    | with_reducible apply State.mk_sound

theorem doHbmRowFailure_sound {stack : Nat} {page : Nat} {s : State} (h : s.Sound) : (doHbmRowFailure stack page s).Sound := by
  unfold doHbmRowFailure
  try dsimp only
  repeat' first
    | with_reducible assumption
    | with_reducible apply State.set_sound
    | with_reducible apply State.raise_sound
    | with_reducible apply State.planInvalid_sound
    | with_reducible apply foldl_sound
    | (intro _; intros; try dsimp only)
    | split
    | with_reducible apply State.mk_sound

theorem doCoreFailed_sound {core : Nat} {s : State} (h : s.Sound) : (doCoreFailed core s).Sound := by
  unfold doCoreFailed
  try dsimp only
  repeat' first
    | with_reducible assumption
    | with_reducible apply State.raise_sound
    | with_reducible apply State.setPair_sound
    | with_reducible apply State.planInvalid_sound
    | with_reducible apply State.leaveDevelopers_sound
    | with_reducible apply State.modCore_sound
    | with_reducible apply foldl_sound
    | (intro _; intros; try dsimp only)
    | split
    | with_reducible apply State.mk_sound

theorem doD2dTransferFail_sound {iface : Nat} {die : Nat} {other : Nat} {retry : Nat} {s : State} (h : s.Sound) : (doD2dTransferFail iface die other retry s).Sound := by
  unfold doD2dTransferFail
  try dsimp only
  repeat' first
    | with_reducible assumption
    | with_reducible apply State.raise_sound
    | with_reducible apply State.planInvalid_sound
    | with_reducible apply foldl_sound
    | (intro _; intros; try dsimp only)
    | split
    | with_reducible apply State.mk_sound

theorem State.modIntake_sound {s : State} {u : Nat} {f : IntakeUnit → IntakeUnit} (h : s.Sound) : (State.modIntake s u f).Sound := by
  unfold State.modIntake
  try dsimp only
  repeat' first
    | with_reducible assumption
    | with_reducible apply foldl_sound
    | (intro _; intros; try dsimp only)
    | split
    | with_reducible apply State.mk_sound

theorem State.intakeOnce_sound {s : State} {u : Nat} {e : EvKind} {d : Detail} (h : s.Sound) : (State.intakeOnce s u e d).Sound := by
  unfold State.intakeOnce
  try dsimp only
  repeat' first
    | with_reducible assumption
    | with_reducible apply State.raise_sound
    | with_reducible apply State.modIntake_sound
    | with_reducible apply foldl_sound
    | (intro _; intros; try dsimp only)
    | split
    | with_reducible apply State.mk_sound

theorem State.adoptIntake_sound {s : State} {p : Nat} {pl : Plan} (h : s.Sound) : (State.adoptIntake s p pl).Sound := by
  unfold State.adoptIntake
  try dsimp only
  repeat' first
    | with_reducible assumption
    | with_reducible apply State.modIntake_sound
    | with_reducible apply State.set_sound
    | with_reducible apply foldl_sound
    | (intro _; intros; try dsimp only)
    | split
    | with_reducible apply State.mk_sound

theorem State.dropIntake_sound {s : State} {p : Nat} (h : s.Sound) : (State.dropIntake s p).Sound := by
  unfold State.dropIntake
  try dsimp only
  repeat' first
    | with_reducible assumption
    | with_reducible apply foldl_sound
    | (intro _; intros; try dsimp only)
    | split
    | with_reducible apply State.mk_sound

theorem State.writeRow_sound {s : State} {a : Adopted} {b : Nat} {r : Nat} {d : RowData} (h : s.Sound) : (State.writeRow s a b r d).Sound := by
  unfold State.writeRow
  try dsimp only
  repeat' first
    | with_reducible assumption
    | with_reducible apply State.writeHbm_sound
    | with_reducible apply State.stampUsed_sound
    | with_reducible apply foldl_sound
    | (intro _; intros; try dsimp only)
    | split
    | with_reducible apply State.mk_sound

theorem State.countStatus_sound {s : State} {u : Nat} {status : Nat} (h : s.Sound) : (State.countStatus s u status).Sound := by
  unfold State.countStatus
  try dsimp only
  repeat' first
    | with_reducible assumption
    | with_reducible apply State.count_sound
    | with_reducible apply foldl_sound
    | (intro _; intros; try dsimp only)
    | split
    | with_reducible apply State.mk_sound

theorem State.settle_sound {s : State} {u : Nat} {a : Adopted} {b : Nat} {r : Nat} {d : RowData} (h : s.Sound) : (State.settle s u a b r d).Sound := by
  unfold State.settle
  try dsimp only
  repeat' first
    | with_reducible assumption
    | with_reducible apply State.modIntake_sound
    | with_reducible apply State.countStatus_sound
    | with_reducible apply State.writeRow_sound
    | with_reducible apply foldl_sound
    | (intro _; intros; try dsimp only)
    | split
    | with_reducible apply State.mk_sound

theorem State.padRow_sound {s : State} {u : Nat} {a : Adopted} {b : Nat} {r : Nat} {cause : Nat} {replaced : Nat} (h : s.Sound) : (State.padRow s u a b r cause replaced).Sound := by
  unfold State.padRow
  try dsimp only
  repeat' first
    | with_reducible assumption
    | with_reducible apply State.settle_sound
    | with_reducible apply State.useFree_sound
    | with_reducible apply foldl_sound
    | (intro _; intros; try dsimp only)
    | split
    | with_reducible apply State.mk_sound

theorem doSampleStart_sound {unit : Nat} {s : State} (h : s.Sound) : (doSampleStart unit s).Sound := by
  unfold doSampleStart
  try dsimp only
  repeat' first
    | with_reducible assumption
    | with_reducible apply State.intakeOnce_sound
    | with_reducible apply State.modIntake_sound
    | with_reducible apply State.consumeSlot_sound
    | with_reducible apply foldl_sound
    | (intro _; intros; try dsimp only)
    | split
    | with_reducible apply State.mk_sound

theorem State.noteBad_sound {s : State} {u : Nat} {x : IntakeSample} {cause : Nat} (h : s.Sound) : (State.noteBad s u x cause).Sound := by
  unfold State.noteBad
  try dsimp only
  repeat' first
    | with_reducible assumption
    | with_reducible apply State.set_sound
    | with_reducible apply State.setPair_sound
    | with_reducible apply State.intakeOnce_sound
    | with_reducible apply foldl_sound
    | (intro _; intros; try dsimp only)
    | split
    | with_reducible apply State.mk_sound

theorem State.replaceRow_sound {s : State} {u : Nat} {a : Adopted} {b : Nat} {r : Nat} {cause : Nat} {tag : Nat} (h : s.Sound) : (State.replaceRow s u a b r cause tag).Sound := by
  unfold State.replaceRow
  try dsimp only
  repeat' first
    | with_reducible assumption
    | with_reducible apply State.padRow_sound
    | with_reducible apply State.intakeOnce_sound
    | with_reducible apply State.modIntake_sound
    | with_reducible apply foldl_sound
    | (intro _; intros; try dsimp only)
    | split
    | with_reducible apply State.mk_sound

theorem State.dropRow_sound {s : State} {u : Nat} {a : Adopted} {x : IntakeSample} {b : Nat} {r : Nat} {cause : Nat} (h : s.Sound) : (State.dropRow s u a x b r cause).Sound := by
  unfold State.dropRow
  try dsimp only
  repeat' first
    | with_reducible assumption
    | with_reducible apply State.settle_sound
    | with_reducible apply State.useFree_sound
    | with_reducible apply foldl_sound
    | (intro _; intros; try dsimp only)
    | split
    | with_reducible apply State.mk_sound

theorem State.badSample_sound {s : State} {u : Nat} {x : IntakeSample} {cause : Nat} (h : s.Sound) : (State.badSample s u x cause).Sound := by
  unfold State.badSample
  try dsimp only
  repeat' first
    | with_reducible assumption
    | with_reducible apply State.count_sound
    | with_reducible apply State.noteBad_sound
    | with_reducible apply State.replaceRow_sound
    | with_reducible apply State.dropRow_sound
    | with_reducible apply foldl_sound
    | (intro _; intros; try dsimp only)
    | split
    | with_reducible apply State.mk_sound

theorem State.endConversion_sound {s : State} {u : Nat} {i : Nat} {x : IntakeSample} (h : s.Sound) : (State.endConversion s u i x).Sound := by
  unfold State.endConversion
  try dsimp only
  repeat' first
    | with_reducible assumption
    | with_reducible apply State.releaseSlot_sound
    | with_reducible apply State.modIntake_sound
    | with_reducible apply foldl_sound
    | (intro _; intros; try dsimp only)
    | split
    | with_reducible apply State.mk_sound

theorem State.updateMean_sound {s : State} {u : Nat} {format : Nat} {t : Nat} (h : s.Sound) : (State.updateMean s u format t).Sound := by
  unfold State.updateMean
  try dsimp only
  repeat' first
    | with_reducible assumption
    | with_reducible apply State.takeFree_sound
    | with_reducible apply State.set_sound
    | with_reducible apply foldl_sound
    | (intro _; intros; try dsimp only)
    | split
    | with_reducible apply State.mk_sound

theorem State.enterReserve_sound {s : State} {u : Nat} {a : Adopted} {d : RowData} (h : s.Sound) : (State.enterReserve s u a d).Sound := by
  unfold State.enterReserve
  try dsimp only
  repeat' first
    | with_reducible assumption
    | with_reducible apply State.writeHbm_sound
    | with_reducible apply State.modIntake_sound
    | with_reducible apply foldl_sound
    | (intro _; intros; try dsimp only)
    | split
    | with_reducible apply State.mk_sound

theorem State.placeSample_sound {s : State} {u : Nat} {x : IntakeSample} (h : s.Sound) : (State.placeSample s u x).Sound := by
  unfold State.placeSample
  try dsimp only
  repeat' first
    | with_reducible assumption
    | with_reducible apply State.settle_sound
    | with_reducible apply State.enterReserve_sound
    | with_reducible apply foldl_sound
    | (intro _; intros; try dsimp only)
    | split
    | with_reducible apply State.mk_sound

theorem State.countSample_sound {s : State} {u : Nat} {x : IntakeSample} (h : s.Sound) : (State.countSample s u x).Sound := by
  unfold State.countSample
  try dsimp only
  repeat' first
    | with_reducible assumption
    | with_reducible apply State.count_sound
    | with_reducible apply foldl_sound
    | (intro _; intros; try dsimp only)
    | split
    | with_reducible apply State.mk_sound

theorem doSampleConverted_sound {unit : Nat} {sample : Nat} {timeNs : Nat} {s : State} (h : s.Sound) : (doSampleConverted unit sample timeNs s).Sound := by
  unfold doSampleConverted
  try dsimp only
  repeat' first
    | with_reducible assumption
    | with_reducible apply State.advanceTo_sound
    | with_reducible apply State.endConversion_sound
    | with_reducible apply State.placeSample_sound
    | with_reducible apply State.updateMean_sound
    | with_reducible apply State.countSample_sound
    | with_reducible apply State.badSample_sound
    | with_reducible apply foldl_sound
    | (intro _; intros; try dsimp only)
    | split
    | with_reducible apply State.mk_sound

theorem doSampleSlow_sound {unit : Nat} {sample : Nat} {s : State} (h : s.Sound) : (doSampleSlow unit sample s).Sound := by
  unfold doSampleSlow
  try dsimp only
  repeat' first
    | with_reducible assumption
    | with_reducible apply State.advanceTo_sound
    | with_reducible apply State.badSample_sound
    | with_reducible apply State.endConversion_sound
    | with_reducible apply foldl_sound
    | (intro _; intros; try dsimp only)
    | split
    | with_reducible apply State.mk_sound

theorem doReserveCopyDone_sound {unit : Nat} {sample : Nat} {s : State} (h : s.Sound) : (doReserveCopyDone unit sample s).Sound := by
  unfold doReserveCopyDone
  try dsimp only
  repeat' first
    | with_reducible assumption
    | with_reducible apply State.settle_sound
    | with_reducible apply State.modIntake_sound
    | with_reducible apply foldl_sound
    | (intro _; intros; try dsimp only)
    | split
    | with_reducible apply State.mk_sound

theorem State.fillRows_sound {s : State} {u : Nat} {a : Adopted} {b : Nat} {x4 : List Nat} {x5 : List (Option Nat × List Byte)} {x6 : List Nat} (h : s.Sound) : (State.fillRows s u a b x4 x5 x6).1.Sound := by
  induction x4 generalizing s x5 x6 with
  | nil => exact h
  | cons r rs ih =>
    cases x5 with
    | nil =>
      simp only [State.fillRows]
      apply ih
      apply State.padRow_sound
      split
      · exact State.intakeOnce_sound h
      · exact h
    | cons e es =>
      simp only [State.fillRows]
      exact ih (State.settle_sound h)

theorem State.closeBuffer_sound {s : State} {u : Nat} {a : Adopted} {b : Nat} {y : IntakeBuffer} (h : s.Sound) : (State.closeBuffer s u a b y).1.Sound := by
  unfold State.closeBuffer
  try dsimp only
  repeat' first
    | with_reducible assumption
    | with_reducible apply State.modIntake_sound
    | with_reducible apply State.fillRows_sound
    | with_reducible apply foldl_sound
    | (intro _; intros; try dsimp only)
    | split
    | with_reducible apply State.mk_sound

theorem State.writeSheetHeader_sound {s : State} {u : Nat} {a : Adopted} {b : Nat} (h : s.Sound) : (State.writeSheetHeader s u a b).Sound := by
  unfold State.writeSheetHeader
  try dsimp only
  repeat' first
    | with_reducible assumption
    | with_reducible apply State.writeHbm_sound
    | with_reducible apply State.stampUsed_sound
    | with_reducible apply foldl_sound
    | (intro _; intros; try dsimp only)
    | split
    | with_reducible apply State.mk_sound

theorem State.putDense_sound {s : State} {p : Nat} {t : Tensor} {bs : List Byte} (h : s.Sound) : (State.putDense s p t bs).Sound := by
  unfold State.putDense
  try dsimp only
  repeat' first
    | with_reducible assumption
    | with_reducible apply State.store_sound
    | with_reducible apply State.writeSpace_sound
    | with_reducible apply foldl_sound
    | (intro _; intros; try dsimp only)
    | split
    | with_reducible apply State.mk_sound

theorem State.takePart_sound {s : State} {r : Running} {idx : Nat} {f : Tensor → List Byte} (h : s.Sound) : (State.takePart s r idx f).Sound := by
  unfold State.takePart
  try dsimp only
  repeat' first
    | with_reducible assumption
    | with_reducible apply State.putDense_sound
    | with_reducible apply foldl_sound
    | (intro _; intros; try dsimp only)
    | split
    | with_reducible apply State.mk_sound

theorem State.takeContexts_sound {s : State} {a : Adopted} {b : Nat} (h : s.Sound) : (State.takeContexts s a b).Sound := by
  unfold State.takeContexts
  try dsimp only
  repeat' first
    | with_reducible assumption
    | with_reducible apply State.setCtx_sound
    | with_reducible apply foldl_sound
    | (intro _; intros; try dsimp only)
    | split
    | with_reducible apply State.mk_sound

theorem State.copyBatch_sound {s : State} {r : Running} {a : Adopted} {b : Nat} (h : s.Sound) : (State.copyBatch s r a b).Sound := by
  unfold State.copyBatch
  try dsimp only
  repeat' first
    | with_reducible assumption
    | with_reducible apply State.putDense_sound
    | with_reducible apply State.takePart_sound
    | with_reducible apply State.takeContexts_sound
    | with_reducible apply foldl_sound
    | (intro _; intros; try dsimp only)
    | split
    | with_reducible apply State.mk_sound

theorem State.notePadded_sound {s : State} {u : Nat} {b : Nat} (h : s.Sound) : (State.notePadded s u b).Sound := by
  unfold State.notePadded
  try dsimp only
  repeat' first
    | with_reducible assumption
    | with_reducible apply State.intakeOnce_sound
    | with_reducible apply foldl_sound
    | (intro _; intros; try dsimp only)
    | split
    | with_reducible apply State.mk_sound

theorem State.openTake_sound {s : State} {r : Running} {u : Nat} {a : Adopted} (h : s.Sound) : (State.openTake s r u a).Sound := by
  unfold State.openTake
  try dsimp only
  repeat' first
    | with_reducible assumption
    | with_reducible apply State.modIntake_sound
    | with_reducible apply State.closeBuffer_sound
    | with_reducible apply State.copyBatch_sound
    | with_reducible apply State.writeSheetHeader_sound
    | with_reducible apply State.notePadded_sound
    | with_reducible apply foldl_sound
    | (intro _; intros; try dsimp only)
    | split
    | with_reducible apply State.mk_sound

theorem State.closeTake_sound {s : State} {r : Running} {u : Nat} {a : Adopted} (h : s.Sound) : (State.closeTake s r u a).Sound := by
  unfold State.closeTake
  try dsimp only
  repeat' first
    | with_reducible assumption
    | with_reducible apply State.count_sound
    | with_reducible apply State.modIntake_sound
    | with_reducible apply foldl_sound
    | (intro _; intros; try dsimp only)
    | split
    | with_reducible apply State.mk_sound

theorem doTakeBatch_sound {core : Nat} {s : State} (h : s.Sound) : (doTakeBatch core s).Sound := by
  unfold doTakeBatch
  try dsimp only
  repeat' first
    | with_reducible assumption
    | with_reducible apply State.endTask_sound
    | with_reducible apply State.openTake_sound
    | with_reducible apply State.closeTake_sound
    | with_reducible apply foldl_sound
    | (intro _; intros; try dsimp only)
    | split
    | with_reducible apply State.mk_sound

theorem State.refuseDict_sound {s : State} {n : Nat} {d : Started} {fails : List Nat} (h : s.Sound) : (State.refuseDict s n d fails).Sound := by
  unfold State.refuseDict
  try dsimp only
  repeat' first
    | with_reducible assumption
    | with_reducible apply State.raise_sound
    | with_reducible apply State.finish_sound
    | with_reducible apply foldl_sound
    | (intro _; intros; try dsimp only)
    | split
    | with_reducible apply State.mk_sound

theorem doDictionaryLoad_sound {ring : Nat} {s : State} (h : s.Sound) : (doDictionaryLoad ring s).Sound := by
  unfold doDictionaryLoad
  try dsimp only
  repeat' first
    | with_reducible assumption
    | with_reducible apply State.finish_sound
    | with_reducible apply State.refuseDict_sound
    | with_reducible apply State.releaseSlot_sound
    | with_reducible apply State.consumeSlot_sound
    | with_reducible apply State.modIntake_sound
    | with_reducible apply State.beginDesc_sound
    | with_reducible apply foldl_sound
    | (intro _; intros; try dsimp only)
    | split
    | with_reducible apply State.mk_sound

theorem doDictionaryLoadDone_sound {unit : Nat} {bank : Nat} {s : State} (h : s.Sound) : (doDictionaryLoadDone unit bank s).Sound := by
  unfold doDictionaryLoadDone
  try dsimp only
  repeat' first
    | with_reducible assumption
    | with_reducible apply State.modIntake_sound
    | with_reducible apply State.releaseSlot_sound
    | with_reducible apply State.set_sound
    | with_reducible apply State.finish_sound
    | with_reducible apply State.raise_sound
    | with_reducible apply foldl_sound
    | (intro _; intros; try dsimp only)
    | split
    | with_reducible apply State.mk_sound

theorem doDictionaryActivate_sound {ring : Nat} {s : State} (h : s.Sound) : (doDictionaryActivate ring s).Sound := by
  unfold doDictionaryActivate
  try dsimp only
  repeat' first
    | with_reducible assumption
    | with_reducible apply State.finish_sound
    | with_reducible apply State.request_sound
    | with_reducible apply foldl_sound
    | (intro _; intros; try dsimp only)
    | split
    | with_reducible apply State.mk_sound

theorem doDictionaryActivateApply_sound {p : Nat} {s : State} (h : s.Sound) : (doDictionaryActivateApply p s).Sound := by
  unfold doDictionaryActivateApply
  try dsimp only
  repeat' first
    | with_reducible assumption
    | with_reducible apply State.dropRequest_sound
    | with_reducible apply State.refuseDict_sound
    | with_reducible apply State.raise_sound
    | with_reducible apply State.finish_sound
    | with_reducible apply State.modIntake_sound
    | with_reducible apply foldl_sound
    | (intro _; intros; try dsimp only)
    | split
    | with_reducible apply State.mk_sound

theorem doEmitOutput_sound {core : Nat} {s : State} (h : s.Sound) : (doEmitOutput core s).Sound := by
  unfold doEmitOutput
  try dsimp only
  repeat' first
    | with_reducible assumption
    | with_reducible apply State.endEmpty_sound
    | with_reducible apply State.readErrors_sound
    | with_reducible apply State.endTask_sound
    | with_reducible apply State.emit_sound
    | with_reducible apply foldl_sound
    | (intro _; intros; try dsimp only)
    | split
    | with_reducible apply State.mk_sound

theorem doJoin_sound {core : Nat} {s : State} (h : s.Sound) : (doJoin core s).Sound := by
  unfold doJoin
  try dsimp only
  repeat' first
    | with_reducible assumption
    | with_reducible apply State.endTask_sound
    | with_reducible apply foldl_sound
    | (intro _; intros; try dsimp only)
    | split
    | with_reducible apply State.mk_sound

end Sys2Proof.Machine
end

