-- ==== Sys2Proof/Laws/Sound5.lean ====
section
/-! SUPPORT. Every operation that answers a state keeps a sound state sound, for the operations in Power.lean, Resets.lean, Trust.lean, Ticks.lean, Loader.lean. -/

set_option Elab.async false

namespace Sys2Proof.Machine

theorem State.modPower_sound {s : State} {f : Power → Power} (h : s.Sound) : (State.modPower s f).Sound := by
  unfold State.modPower
  try dsimp only
  repeat' first
    | with_reducible assumption
    | with_reducible apply foldl_sound
    | (intro _; intros; try dsimp only)
    | split
    | with_reducible apply State.mk_sound

theorem State.powerOnce_sound {s : State} {e : EvKind} {u : UnitId} {d : Detail} (h : s.Sound) : (State.powerOnce s e u d).Sound := by
  unfold State.powerOnce
  try dsimp only
  repeat' first
    | with_reducible assumption
    | with_reducible apply State.raise_sound
    | with_reducible apply State.modPower_sound
    | with_reducible apply foldl_sound
    | (intro _; intros; try dsimp only)
    | split
    | with_reducible apply State.mk_sound

theorem State.noteReadings_sound {s : State} {r : PowerReadings} (h : s.Sound) : (State.noteReadings s r).Sound := by
  unfold State.noteReadings
  try dsimp only
  repeat' first
    | with_reducible assumption
    | with_reducible apply State.set_sound
    | with_reducible apply State.modPower_sound
    | with_reducible apply foldl_sound
    | (intro _; intros; try dsimp only)
    | split
    | with_reducible apply State.mk_sound

theorem State.raiseThrottle_sound {s : State} {l : List (Nat × Int)} (h : s.Sound) : (State.raiseThrottle s l).Sound := by
  unfold State.raiseThrottle
  try dsimp only
  repeat' first
    | with_reducible assumption
    | with_reducible apply State.powerOnce_sound
    | with_reducible apply foldl_sound
    | (intro _; intros; try dsimp only)
    | split
    | with_reducible apply State.mk_sound

theorem State.stepLimits_sound {s : State} {r : PowerReadings} (h : s.Sound) : (State.stepLimits s r).Sound := by
  unfold State.stepLimits
  try dsimp only
  repeat' first
    | with_reducible assumption
    | with_reducible apply State.modPower_sound
    | with_reducible apply State.raiseThrottle_sound
    | with_reducible apply State.count_sound
    | with_reducible apply foldl_sound
    | (intro _; intros; try dsimp only)
    | split
    | with_reducible apply State.mk_sound

theorem State.stepEmergency_sound {s : State} {r : PowerReadings} (h : s.Sound) : (State.stepEmergency s r).Sound := by
  unfold State.stepEmergency
  try dsimp only
  repeat' first
    | with_reducible assumption
    | with_reducible apply State.set_sound
    | with_reducible apply State.modPower_sound
    | with_reducible apply foldl_sound
    | (intro _; intros; try dsimp only)
    | split
    | with_reducible apply State.mk_sound

theorem State.moveClock_sound {s : State} {target : Nat} (h : s.Sound) : (State.moveClock s target).Sound := by
  unfold State.moveClock
  try dsimp only
  repeat' first
    | with_reducible assumption
    | with_reducible apply State.set_sound
    | with_reducible apply State.count_sound
    | with_reducible apply State.raise_sound
    | with_reducible apply foldl_sound
    | (intro _; intros; try dsimp only)
    | split
    | with_reducible apply State.mk_sound

theorem State.noteCap_sound {s : State} {r : PowerReadings} (h : s.Sound) : (State.noteCap s r).Sound := by
  unfold State.noteCap
  try dsimp only
  repeat' first
    | with_reducible assumption
    | with_reducible apply State.powerOnce_sound
    | with_reducible apply State.set_sound
    | with_reducible apply State.count_sound
    | with_reducible apply foldl_sound
    | (intro _; intros; try dsimp only)
    | split
    | with_reducible apply State.mk_sound

theorem doThrottleEval_sound {r : PowerReadings} {s : State} (h : s.Sound) : (doThrottleEval r s).Sound := by
  unfold doThrottleEval
  try dsimp only
  repeat' first
    | with_reducible assumption
    | with_reducible apply State.stepEmergency_sound
    | with_reducible apply State.stepLimits_sound
    | with_reducible apply State.noteCap_sound
    | with_reducible apply State.noteReadings_sound
    | with_reducible apply State.moveClock_sound
    | with_reducible apply State.set_sound
    | with_reducible apply foldl_sound
    | (intro _; intros; try dsimp only)
    | split
    | with_reducible apply State.mk_sound

theorem State.supplyEvent_sound {s : State} (h : s.Sound) : (State.supplyEvent s).Sound := by
  unfold State.supplyEvent
  try dsimp only
  repeat' first
    | with_reducible assumption
    | with_reducible apply foldl_sound
    | (intro _; intros; try dsimp only)
    | split
    | with_reducible apply State.mk_sound

theorem doBusDroop_sound {mv : Nat} {s : State} (h : s.Sound) : (doBusDroop mv s).Sound := by
  unfold doBusDroop
  try dsimp only
  repeat' first
    | with_reducible assumption
    | with_reducible apply State.supplyEvent_sound
    | with_reducible apply State.raise_sound
    | with_reducible apply State.count_sound
    | with_reducible apply State.set_sound
    | with_reducible apply foldl_sound
    | (intro _; intros; try dsimp only)
    | split
    | with_reducible apply State.mk_sound

theorem doBusNormal_sound {mv : Nat} {s : State} (h : s.Sound) : (doBusNormal mv s).Sound := by
  unfold doBusNormal
  try dsimp only
  repeat' first
    | with_reducible assumption
    | with_reducible apply State.set_sound
    | with_reducible apply foldl_sound
    | (intro _; intros; try dsimp only)
    | split
    | with_reducible apply State.mk_sound

theorem doBusLow_sound {mv : Nat} {s : State} (h : s.Sound) : (doBusLow mv s).Sound := by
  unfold doBusLow
  try dsimp only
  repeat' first
    | with_reducible assumption
    | with_reducible apply State.supplyEvent_sound
    | with_reducible apply State.raise_sound
    | with_reducible apply State.count_sound
    | with_reducible apply State.set_sound
    | with_reducible apply foldl_sound
    | (intro _; intros; try dsimp only)
    | split
    | with_reducible apply State.mk_sound

theorem doBusLowRecover_sound {mv : Nat} {s : State} (h : s.Sound) : (doBusLowRecover mv s).Sound := by
  unfold doBusLowRecover
  try dsimp only
  repeat' first
    | with_reducible assumption
    | with_reducible apply State.set_sound
    | with_reducible apply State.modPower_sound
    | with_reducible apply foldl_sound
    | (intro _; intros; try dsimp only)
    | split
    | with_reducible apply State.mk_sound

theorem doBusSurge_sound {mv : Nat} {durationUs : Nat} {s : State} (h : s.Sound) : (doBusSurge mv durationUs s).Sound := by
  unfold doBusSurge
  try dsimp only
  repeat' first
    | with_reducible assumption
    | with_reducible apply State.supplyEvent_sound
    | with_reducible apply State.raise_sound
    | with_reducible apply State.count_sound
    | with_reducible apply foldl_sound
    | (intro _; intros; try dsimp only)
    | split
    | with_reducible apply State.mk_sound

theorem doCoolantCheck_sound {flow : Nat} {inlet : Int} {s : State} (h : s.Sound) : (doCoolantCheck flow inlet s).Sound := by
  unfold doCoolantCheck
  try dsimp only
  repeat' first
    | with_reducible assumption
    | with_reducible apply State.set_sound
    | with_reducible apply State.powerOnce_sound
    | with_reducible apply foldl_sound
    | (intro _; intros; try dsimp only)
    | split
    | with_reducible apply State.mk_sound

theorem doPowerStateEntry_sound {unit : PowerUnit} {idleNs : Nat} {s : State} (h : s.Sound) : (doPowerStateEntry unit idleNs s).Sound := by
  unfold doPowerStateEntry
  try dsimp only
  repeat' first
    | with_reducible assumption
    | with_reducible apply State.setSleep_sound
    | with_reducible apply State.count_sound
    | with_reducible apply State.modCore_sound
    | with_reducible apply foldl_sound
    | (intro _; intros; try dsimp only)
    | split
    | with_reducible apply State.mk_sound

theorem doPowerStateExit_sound {unit : PowerUnit} {unplanned : Bool} {s : State} (h : s.Sound) : (doPowerStateExit unit unplanned s).Sound := by
  unfold doPowerStateExit
  try dsimp only
  repeat' first
    | with_reducible assumption
    | with_reducible apply State.setSleep_sound
    | with_reducible apply foldl_sound
    | (intro _; intros; try dsimp only)
    | split
    | with_reducible apply State.mk_sound

theorem State.modTrust_sound {s : State} {f : Trust → Trust} (h : s.Sound) : (State.modTrust s f).Sound := by
  unfold State.modTrust
  try dsimp only
  repeat' first
    | with_reducible assumption
    | with_reducible apply foldl_sound
    | (intro _; intros; try dsimp only)
    | split
    | with_reducible apply State.mk_sound

theorem State.sessionObject_sound {s : State} {x : Session} (h : s.Sound) : (State.sessionObject s x).2.Sound := by
  unfold State.sessionObject
  try dsimp only
  repeat' first
    | with_reducible assumption
    | with_reducible apply State.takeFree_sound
    | with_reducible apply foldl_sound
    | (intro _; intros; try dsimp only)
    | split
    | with_reducible apply State.mk_sound

theorem State.raiseClosed_sound {s : State} {x : Session} {cause : Nat} (h : s.Sound) : (State.raiseClosed s x cause).Sound := by
  unfold State.raiseClosed
  try dsimp only
  repeat' first
    | with_reducible assumption
    | with_reducible apply State.sessionObject_sound
    | with_reducible apply State.raiseFor_sound
    | with_reducible apply foldl_sound
    | (intro _; intros; try dsimp only)
    | split
    | with_reducible apply State.mk_sound

theorem State.resetModule_sound {s : State} {cause : Nat} (h : s.Sound) : (State.resetModule s cause).Sound := by
  unfold State.resetModule
  dsimp only
  apply foldl_sound _ _ (fun _ _ h => State.raiseClosed_sound h)
  apply State.set_sound
  have hr : ∀ t : State, t.Sound → ∀ l : List Fld, ∀ u : State, u.Sound → (l.foldl (fun (t : State) f => t.set f (s.get f)) u).Sound :=
    fun _ _ l u hu => foldl_sound _ l (fun _ _ h => State.set_sound _ _ h) hu
  have h0 : State.Sound { s with regs := [] } :=
    ⟨h.mem, h.staging, h.neg, rfl, fun e he => absurd he (List.not_mem_nil), h.counters, h.countersLow, h.seq, h.fitted⟩
  have h1 : State.Sound ((List.range 48).foldl (fun (t : State) n =>
      t.set (Reg.fabPort_state n) (if 12 * s.fitted.io ≤ n then 0 else 1))
      (keptFields.foldl (fun (t : State) f => t.set f (s.get f)) { s with regs := [] })) :=
    foldl_sound _ _ (fun _ _ h => State.set_sound _ _ h) (foldl_sound _ _ (fun _ _ h => State.set_sound _ _ h) h0)
  exact ⟨rfl, rfl, Memory.wf_filter _ _ h.neg, h1.regs, h1.regsListed, keysRise_filter _ _ _ h.counters,
    fun e he => h.countersLow e (List.mem_filter.mp he).1, Nat.zero_le _, h.fitted⟩

theorem State.destroySeal_sound {s : State} (h : s.Sound) : (State.destroySeal s).Sound := by
  exact State.set_sound _ _ (State.mk_mem_sound (State.modTrust_sound h) h.mem h.staging (Memory.wf_filter _ _ h.neg))

theorem State.eraseFlash_sound {s : State} (h : s.Sound) : (State.eraseFlash s).Sound := by
  unfold State.eraseFlash
  try dsimp only
  repeat' first
    | with_reducible assumption
    | with_reducible apply State.set_sound
    | with_reducible apply State.setPair_sound
    | with_reducible apply foldl_sound
    | (intro _; intros; try dsimp only)
    | split
    | with_reducible apply State.mk_sound

theorem State.transition_sound {s : State} {new : Nat} (h : s.Sound) : (State.transition s new).Sound := by
  unfold State.transition
  try dsimp only
  repeat' first
    | with_reducible assumption
    | with_reducible apply State.modTrust_sound
    | with_reducible apply State.destroySeal_sound
    | with_reducible apply State.set_sound
    | with_reducible apply State.eraseFlash_sound
    | with_reducible apply State.resetModule_sound
    | with_reducible apply State.raise_sound
    | with_reducible apply foldl_sound
    | (intro _; intros; try dsimp only)
    | split
    | with_reducible apply State.mk_sound

theorem State.reportRecord_sound {s : State} (h : s.Sound) : (State.reportRecord s).Sound := by
  unfold State.reportRecord
  try dsimp only
  repeat' first
    | with_reducible assumption
    | with_reducible apply State.raise_sound
    | with_reducible apply foldl_sound
    | (intro _; intros; try dsimp only)
    | split
    | with_reducible apply State.mk_sound

theorem State.markCore_sound {s : State} {c : Nat} {failed : Bool} (h : s.Sound) : (State.markCore s c failed).Sound := by
  unfold State.markCore
  try dsimp only
  repeat' first
    | with_reducible assumption
    | with_reducible apply State.set_sound
    | with_reducible apply foldl_sound
    | (intro _; intros; try dsimp only)
    | split
    | with_reducible apply State.mk_sound

theorem State.startCalibration_sound {s : State} {full : Bool} (h : s.Sound) : (State.startCalibration s full).Sound := by
  unfold State.startCalibration
  try dsimp only
  repeat' first
    | with_reducible assumption
    | with_reducible apply State.useFree_sound
    | with_reducible apply State.modTrust_sound
    | with_reducible apply foldl_sound
    | (intro _; intros; try dsimp only)
    | split
    | with_reducible apply State.mk_sound

theorem State.startTest_sound {s : State} {x : StartFacts} (h : s.Sound) : (State.startTest s x).Sound := by
  unfold State.startTest
  try dsimp only
  repeat' first
    | with_reducible assumption
    | with_reducible apply State.set_sound
    | with_reducible apply State.reportRecord_sound
    | with_reducible apply State.raise_sound
    | with_reducible apply State.markCore_sound
    | with_reducible apply State.startCalibration_sound
    | with_reducible apply foldl_sound
    | (intro _; intros; try dsimp only)
    | split
    | with_reducible apply State.mk_sound

theorem State.startInventory_sound {s : State} {x : StartFacts} (h : s.Sound) : (State.startInventory s x).Sound := by
  unfold State.startInventory
  try dsimp only
  repeat' first
    | with_reducible assumption
    | with_reducible apply State.set_sound
    | with_reducible apply State.raise_sound
    | with_reducible apply foldl_sound
    | (intro _; intros; try dsimp only)
    | split
    | with_reducible apply State.mk_sound

theorem State.startImage_sound {s : State} (h : s.Sound) : (State.startImage s).Sound := by
  unfold State.startImage
  try dsimp only
  repeat' first
    | with_reducible assumption
    | with_reducible apply State.set_sound
    | with_reducible apply State.setPair_sound
    | with_reducible apply foldl_sound
    | (intro _; intros; try dsimp only)
    | split
    | with_reducible apply State.mk_sound

theorem State.bootDone_sound {s : State} {cause : Nat} (h : s.Sound) : (State.bootDone s cause).Sound := by
  unfold State.bootDone
  try dsimp only
  repeat' first
    | with_reducible assumption
    | with_reducible apply State.raise_sound
    | with_reducible apply State.set_sound
    | with_reducible apply State.startImage_sound
    | with_reducible apply foldl_sound
    | (intro _; intros; try dsimp only)
    | split
    | with_reducible apply State.mk_sound

theorem State.startUp_sound {s : State} {x : StartFacts} (h : s.Sound) : (State.startUp s x).Sound := by
  unfold State.startUp
  try dsimp only
  repeat' first
    | with_reducible assumption
    | with_reducible apply State.modTrust_sound
    | with_reducible apply State.set_sound
    | with_reducible apply State.raise_sound
    | with_reducible apply State.transition_sound
    | with_reducible apply State.startInventory_sound
    | with_reducible apply State.startTest_sound
    | with_reducible apply State.bootDone_sound
    | with_reducible apply foldl_sound
    | (intro _; intros; try dsimp only)
    | split
    | with_reducible apply State.mk_sound

theorem doStartUp_sound {start : StartFacts} {s : State} (h : s.Sound) : (doStartUp start s).Sound := by
  unfold doStartUp
  try dsimp only
  repeat' first
    | with_reducible assumption
    | with_reducible apply State.startUp_sound
    | with_reducible apply foldl_sound
    | (intro _; intros; try dsimp only)
    | split
    | with_reducible apply State.mk_sound

theorem doWarmReset_sound {value : Word} {viaPldm : Bool} {start : StartFacts} {s : State} (h : s.Sound) : (doWarmReset value viaPldm start s).Sound := by
  unfold doWarmReset
  try dsimp only
  repeat' first
    | with_reducible assumption
    | with_reducible apply State.startUp_sound
    | with_reducible apply State.resetModule_sound
    | with_reducible apply State.raise_sound
    | with_reducible apply foldl_sound
    | (intro _; intros; try dsimp only)
    | split
    | with_reducible apply State.mk_sound

theorem doWatchdogReset_sound {start : StartFacts} {s : State} (h : s.Sound) : (doWatchdogReset start s).Sound := by
  unfold doWatchdogReset
  try dsimp only
  repeat' first
    | with_reducible assumption
    | with_reducible apply State.startUp_sound
    | with_reducible apply State.resetModule_sound
    | with_reducible apply foldl_sound
    | (intro _; intros; try dsimp only)
    | split
    | with_reducible apply State.mk_sound

theorem doHostPortReset_sound {cause : Nat} {s : State} (h : s.Sound) : (doHostPortReset cause s).Sound := by
  unfold doHostPortReset
  try dsimp only
  repeat' first
    | with_reducible assumption
    | with_reducible apply State.raise_sound
    | with_reducible apply State.resetRing_sound
    | with_reducible apply foldl_sound
    | (intro _; intros; try dsimp only)
    | split
    | with_reducible apply State.mk_sound

theorem doNegStoreWipeDone_sound {s : State} (h : s.Sound) : (doNegStoreWipeDone s).Sound := by
  unfold doNegStoreWipeDone
  try dsimp only
  repeat' first
    | with_reducible assumption
    | with_reducible apply State.set_sound
    | with_reducible apply foldl_sound
    | (intro _; intros; try dsimp only)
    | split
    | with_reducible apply State.mk_sound

theorem State.putRecord_sound {s : State} {r : BistRecord} (h : s.Sound) : (State.putRecord s r).Sound := by
  unfold State.putRecord
  try dsimp only
  repeat' first
    | with_reducible assumption
    | with_reducible apply State.modTrust_sound
    | with_reducible apply State.set_sound
    | with_reducible apply State.setReg_sound
    | with_reducible apply foldl_sound
    | (intro _; intros; try dsimp only)
    | split
    | with_reducible apply State.mk_sound

theorem State.toFlash_sound {s : State} {rs : List EventRec} (h : s.Sound) : (State.toFlash s rs).Sound := by
  unfold State.toFlash
  try dsimp only
  repeat' first
    | with_reducible assumption
    | with_reducible apply foldl_sound
    | (intro _; intros; try dsimp only)
    | split
    | with_reducible apply State.mk_sound

theorem State.saveLog_sound {s : State} (h : s.Sound) : (State.saveLog s).Sound := by
  unfold State.saveLog
  try dsimp only
  repeat' first
    | with_reducible assumption
    | with_reducible apply State.toFlash_sound
    | with_reducible apply foldl_sound
    | (intro _; intros; try dsimp only)
    | split
    | with_reducible apply State.mk_sound

theorem State.savePath_sound {s : State} (h : s.Sound) : (State.savePath s).Sound := by
  unfold State.savePath
  try dsimp only
  repeat' first
    | with_reducible assumption
    | with_reducible apply State.toFlash_sound
    | with_reducible apply foldl_sound
    | (intro _; intros; try dsimp only)
    | split
    | with_reducible apply State.mk_sound

theorem State.lastRecord_sound {s : State} {cause : Nat} (h : s.Sound) : (State.lastRecord s cause).Sound := by
  unfold State.lastRecord
  try dsimp only
  repeat' first
    | with_reducible assumption
    | with_reducible apply State.toFlash_sound
    | with_reducible apply State.stampUsed_sound
    | with_reducible apply foldl_sound
    | (intro _; intros; try dsimp only)
    | split
    | with_reducible apply State.mk_sound

theorem State.railsOff_sound {s : State} (h : s.Sound) : (State.railsOff s).Sound := by
  exact State.set_sound _ _ (State.modTrust_sound (State.mk_mem_sound h rfl rfl (Memory.wf_filter _ _ h.neg)))

theorem State.closeAll_sound {s : State} (h : s.Sound) : (State.closeAll s).Sound := by
  unfold State.closeAll
  try dsimp only
  repeat' first
    | with_reducible assumption
    | with_reducible apply State.raiseClosed_sound
    | with_reducible apply foldl_sound
    | (intro _; intros; try dsimp only)
    | split
    | with_reducible apply State.mk_sound

theorem State.emergencyStop_sound {s : State} {c : FaultCause} {cause : Nat} (h : s.Sound) : (State.emergencyStop s c cause).Sound := by
  unfold State.emergencyStop
  try dsimp only
  repeat' first
    | with_reducible assumption
    | with_reducible apply State.stepFault_sound
    | with_reducible apply State.sendWire_sound
    | with_reducible apply State.stampUsed_sound
    | with_reducible apply State.putRecord_sound
    | with_reducible apply State.railsOff_sound
    | with_reducible apply State.lastRecord_sound
    | with_reducible apply State.saveLog_sound
    | with_reducible apply State.closeAll_sound
    | with_reducible apply foldl_sound
    | (intro _; intros; try dsimp only)
    | split
    | with_reducible apply State.mk_sound

theorem doBusFail_sound {mv : Nat} {cause : Nat} {s : State} (h : s.Sound) : (doBusFail mv cause s).Sound := by
  unfold doBusFail
  try dsimp only
  repeat' first
    | with_reducible assumption
    | with_reducible apply State.set_sound
    | with_reducible apply State.emergencyStop_sound
    | with_reducible apply State.raise_sound
    | with_reducible apply foldl_sound
    | (intro _; intros; try dsimp only)
    | split
    | with_reducible apply State.mk_sound

theorem doBusReturn_sound {mv : Nat} {s : State} (h : s.Sound) : (doBusReturn mv s).Sound := by
  unfold doBusReturn
  try dsimp only
  repeat' first
    | with_reducible assumption
    | with_reducible apply State.resetModule_sound
    | with_reducible apply foldl_sound
    | (intro _; intros; try dsimp only)
    | split
    | with_reducible apply State.mk_sound

theorem doThermalTrip_sound {sensor : Nat} {tenths : Nat} {s : State} (h : s.Sound) : (doThermalTrip sensor tenths s).Sound := by
  unfold doThermalTrip
  try dsimp only
  repeat' first
    | with_reducible assumption
    | with_reducible apply State.emergencyStop_sound
    | with_reducible apply State.raise_sound
    | with_reducible apply foldl_sound
    | (intro _; intros; try dsimp only)
    | split
    | with_reducible apply State.mk_sound

theorem State.clearSecrets_sound {s : State} (h : s.Sound) : (State.clearSecrets s).Sound := by
  unfold State.clearSecrets
  dsimp only
  refine State.mk_mem_sound (s := (State.set (State.set _ _ _) _ _)) ?_ (State.Sound.mem ?_) rfl (State.Sound.neg ?_)
  all_goals
    repeat' first
    | with_reducible assumption
    | with_reducible apply State.set_sound
    | with_reducible apply State.setReg_sound
    | with_reducible apply State.modPart_sound
    | with_reducible apply State.modTrust_sound
    | with_reducible apply State.raiseClosed_sound
    | with_reducible apply State.takeFree_sound
    | with_reducible apply foldl_sound
    | (intro _; intros; try dsimp only)

theorem State.orderlyOff_sound {s : State} (h : s.Sound) : (State.orderlyOff s).Sound := by
  unfold State.orderlyOff
  try dsimp only
  repeat' first
    | with_reducible assumption
    | with_reducible apply State.railsOff_sound
    | with_reducible apply State.lastRecord_sound
    | with_reducible apply State.savePath_sound
    | with_reducible apply foldl_sound
    | (intro _; intros; try dsimp only)
    | split
    | with_reducible apply State.mk_sound

theorem State.saveForTest_sound {s : State} (h : s.Sound) : (State.saveForTest s).Sound := by
  unfold State.saveForTest
  try dsimp only
  repeat' first
    | with_reducible assumption
    | with_reducible apply State.useFree_sound
    | with_reducible apply State.modTrust_sound
    | with_reducible apply State.modPower_sound
    | with_reducible apply State.set_sound
    | with_reducible apply foldl_sound
    | (intro _; intros; try dsimp only)
    | split
    | with_reducible apply State.mk_sound

theorem State.restoreTest_sound {s : State} (h : s.Sound) : (State.restoreTest s).Sound := by
  unfold State.restoreTest
  try dsimp only
  repeat' first
    | with_reducible assumption
    | with_reducible apply State.modTrust_sound
    | with_reducible apply foldl_sound
    | (intro _; intros; try dsimp only)
    | split
    | with_reducible apply State.mk_sound

theorem State.deferTest_sound {s : State} {cause : Nat} {done : List BistItem} (h : s.Sound) : (State.deferTest s cause done).Sound := by
  unfold State.deferTest
  try dsimp only
  repeat' first
    | with_reducible assumption
    | with_reducible apply State.restoreTest_sound
    | with_reducible apply State.putRecord_sound
    | with_reducible apply State.stampUsed_sound
    | with_reducible apply State.orderlyOff_sound
    | with_reducible apply State.raise_sound
    | with_reducible apply State.count_sound
    | with_reducible apply foldl_sound
    | (intro _; intros; try dsimp only)
    | split
    | with_reducible apply State.mk_sound

theorem State.calibrated_sound {s : State} {passed : Bool} (h : s.Sound) : (State.calibrated s passed).2.Sound := by
  unfold State.calibrated
  try dsimp only
  repeat' first
    | with_reducible assumption
    | with_reducible apply State.useFree_sound
    | with_reducible apply foldl_sound
    | (intro _; intros; try dsimp only)
    | split
    | with_reducible apply State.mk_sound

theorem State.shutdownTest_sound {s : State} {items : List BistItem} (h : s.Sound) : (State.shutdownTest s items).Sound := by
  unfold State.shutdownTest
  try dsimp only
  repeat' first
    | with_reducible assumption
    | with_reducible apply State.restoreTest_sound
    | with_reducible apply State.calibrated_sound
    | with_reducible apply State.stampUsed_sound
    | with_reducible apply State.putRecord_sound
    | with_reducible apply State.count_sound
    | with_reducible apply State.raise_sound
    | with_reducible apply foldl_sound
    | (intro _; intros; try dsimp only)
    | split
    | with_reducible apply State.mk_sound

theorem State.endTest_sound {s : State} {items : List BistItem} (h : s.Sound) : (State.endTest s items).Sound := by
  unfold State.endTest
  try dsimp only
  repeat' first
    | with_reducible assumption
    | with_reducible apply State.deferTest_sound
    | with_reducible apply State.orderlyOff_sound
    | with_reducible apply State.shutdownTest_sound
    | with_reducible apply foldl_sound
    | (intro _; intros; try dsimp only)
    | split
    | with_reducible apply State.mk_sound

theorem State.goOff_sound {s : State} {test : List BistItem} (h : s.Sound) : (State.goOff s test).Sound := by
  unfold State.goOff
  try dsimp only
  repeat' first
    | with_reducible assumption
    | with_reducible apply State.clearSecrets_sound
    | with_reducible apply State.saveLog_sound
    | with_reducible apply State.modPower_sound
    | with_reducible apply State.orderlyOff_sound
    | with_reducible apply State.putRecord_sound
    | with_reducible apply State.deferTest_sound
    | with_reducible apply State.saveForTest_sound
    | with_reducible apply State.endTest_sound
    | with_reducible apply foldl_sound
    | (intro _; intros; try dsimp only)
    | split
    | with_reducible apply State.mk_sound

theorem State.carryOff_sound {s : State} {test : List BistItem} (h : s.Sound) : (State.carryOff s test).Sound := by
  unfold State.carryOff
  try dsimp only
  repeat' first
    | with_reducible assumption
    | with_reducible apply State.goOff_sound
    | with_reducible apply foldl_sound
    | (intro _; intros; try dsimp only)
    | split
    | with_reducible apply State.mk_sound

theorem doOrderlyShutdown_sound {viaPldm : Bool} {test : List BistItem} {s : State} (h : s.Sound) : (doOrderlyShutdown viaPldm test s).Sound := by
  unfold doOrderlyShutdown
  try dsimp only
  repeat' first
    | with_reducible assumption
    | with_reducible apply State.endTest_sound
    | with_reducible apply State.carryOff_sound
    | with_reducible apply State.raise_sound
    | with_reducible apply State.modPower_sound
    | with_reducible apply foldl_sound
    | (intro _; intros; try dsimp only)
    | split
    | with_reducible apply State.mk_sound

theorem doShutdownTestDeferred_sound {cause : Nat} {done : List BistItem} {s : State} (h : s.Sound) : (doShutdownTestDeferred cause done s).Sound := by
  unfold doShutdownTestDeferred
  try dsimp only
  repeat' first
    | with_reducible assumption
    | with_reducible apply State.deferTest_sound
    | with_reducible apply foldl_sound
    | (intro _; intros; try dsimp only)
    | split
    | with_reducible apply State.mk_sound

theorem State.provision_sound {s : State} {b : List Byte} (h : s.Sound) : (State.provision s b).Sound := by
  unfold State.provision
  extract_lets n root c f t
  have ht : t.Sound := State.useFree_sound (State.modTrust_sound h)
  clear_value t
  split
  · next hf => exact { ht with fitted := (Bool.and_eq_true_iff.mp hf).1 }
  · exact ht

theorem State.installImage_sound {s : State} {b : List Byte} {source : Nat} (h : s.Sound) : (State.installImage s b source).Sound := by
  unfold State.installImage
  try dsimp only
  repeat' first
    | with_reducible assumption
    | with_reducible apply State.modTrust_sound
    | with_reducible apply State.transition_sound
    | with_reducible apply State.provision_sound
    | with_reducible apply State.resetModule_sound
    | with_reducible apply State.raise_sound
    | with_reducible apply foldl_sound
    | (intro _; intros; try dsimp only)
    | split
    | with_reducible apply State.mk_sound

theorem State.judgeImage_sound {s : State} {b : List Byte} {source : Nat} (h : s.Sound) : (State.judgeImage s b source).Sound := by
  unfold State.judgeImage
  try dsimp only
  repeat' first
    | with_reducible assumption
    | with_reducible apply State.modTrust_sound
    | with_reducible apply State.raise_sound
    | with_reducible apply foldl_sound
    | (intro _; intros; try dsimp only)
    | split
    | with_reducible apply State.mk_sound

theorem State.finishWrite_sound {s : State} (h : s.Sound) : (State.finishWrite s).Sound := by
  unfold State.finishWrite
  try dsimp only
  repeat' first
    | with_reducible assumption
    | with_reducible apply State.installImage_sound
    | with_reducible apply foldl_sound
    | (intro _; intros; try dsimp only)
    | split
    | with_reducible apply State.mk_sound

theorem doPldmFirmwareUpdate_sound {image : List Byte} {s : State} (h : s.Sound) : (doPldmFirmwareUpdate image s).Sound := by
  unfold doPldmFirmwareUpdate
  try dsimp only
  repeat' first
    | with_reducible assumption
    | with_reducible apply State.judgeImage_sound
    | with_reducible apply foldl_sound
    | (intro _; intros; try dsimp only)
    | split
    | with_reducible apply State.mk_sound

theorem State.mbxEnd_sound {s : State} {result : Nat} (h : s.Sound) : (State.mbxEnd s result).Sound := by
  unfold State.mbxEnd
  try dsimp only
  repeat' first
    | with_reducible assumption
    | with_reducible apply State.set_sound
    | with_reducible apply foldl_sound
    | (intro _; intros; try dsimp only)
    | split
    | with_reducible apply State.mk_sound

theorem doMbxStatus_sound {s : State} (h : s.Sound) : (doMbxStatus s).Sound := by
  unfold doMbxStatus
  try dsimp only
  repeat' first
    | with_reducible assumption
    | with_reducible apply State.mbxEnd_sound
    | with_reducible apply foldl_sound
    | (intro _; intros; try dsimp only)
    | split
    | with_reducible apply State.mk_sound

theorem doMbxImageBegin_sound {s : State} (h : s.Sound) : (doMbxImageBegin s).Sound := by
  unfold doMbxImageBegin
  try dsimp only
  repeat' first
    | with_reducible assumption
    | with_reducible apply State.mbxEnd_sound
    | with_reducible apply State.modTrust_sound
    | with_reducible apply foldl_sound
    | (intro _; intros; try dsimp only)
    | split
    | with_reducible apply State.mk_sound

theorem doMbxImageData_sound {s : State} (h : s.Sound) : (doMbxImageData s).Sound := by
  unfold doMbxImageData
  try dsimp only
  repeat' first
    | with_reducible assumption
    | with_reducible apply State.mbxEnd_sound
    | with_reducible apply State.modTrust_sound
    | with_reducible apply foldl_sound
    | (intro _; intros; try dsimp only)
    | split
    | with_reducible apply State.mk_sound

theorem doMbxImageEnd_sound {s : State} (h : s.Sound) : (doMbxImageEnd s).Sound := by
  unfold doMbxImageEnd
  try dsimp only
  repeat' first
    | with_reducible assumption
    | with_reducible apply State.mbxEnd_sound
    | with_reducible apply State.judgeImage_sound
    | with_reducible apply foldl_sound
    | (intro _; intros; try dsimp only)
    | split
    | with_reducible apply State.mk_sound

theorem doMbxAbort_sound {s : State} (h : s.Sound) : (doMbxAbort s).Sound := by
  unfold doMbxAbort
  try dsimp only
  repeat' first
    | with_reducible assumption
    | with_reducible apply State.mbxEnd_sound
    | with_reducible apply State.modTrust_sound
    | with_reducible apply foldl_sound
    | (intro _; intros; try dsimp only)
    | split
    | with_reducible apply State.mk_sound

theorem State.sendNeighbour_sound {s : State} {port : Nat} {last : Bool} {header : List Byte} {data : List Byte} (h : s.Sound) : (State.sendNeighbour s port last header data).Sound := by
  unfold State.sendNeighbour
  try dsimp only
  repeat' first
    | with_reducible assumption
    | with_reducible apply State.post_sound
    | with_reducible apply foldl_sound
    | (intro _; intros; try dsimp only)
    | split
    | with_reducible apply State.mk_sound

theorem doRecoveryPoll_sound {s : State} (h : s.Sound) : (doRecoveryPoll s).Sound := by
  unfold doRecoveryPoll
  try dsimp only
  repeat' first
    | with_reducible assumption
    | with_reducible apply State.modTrust_sound
    | with_reducible apply State.sendNeighbour_sound
    | with_reducible apply State.set_sound
    | with_reducible apply foldl_sound
    | (intro _; intros; try dsimp only)
    | split
    | with_reducible apply State.mk_sound

theorem State.takeRecovery_sound {s : State} {port : Nat} {pk : Packet} {op : Nat} {accepts : Bool} {act : State → State} (h : s.Sound) (hact : ∀ (y0 : State), y0.Sound → (act y0).Sound) : (State.takeRecovery s port pk op accepts act).Sound := by
  unfold State.takeRecovery
  try dsimp only
  repeat' first
    | with_reducible assumption
    | with_reducible apply State.stampReceipt_sound
    | with_reducible apply State.passPacket_sound
    | with_reducible apply State.dropUnmatched_sound
    | with_reducible apply hact
    | with_reducible apply foldl_sound
    | (intro _; intros; try dsimp only)
    | split
    | with_reducible apply State.mk_sound

theorem doRecoveryImageRequest_sound {port : Nat} {pkt : Packet} {s : State} (h : s.Sound) : (doRecoveryImageRequest port pkt s).Sound := by
  unfold doRecoveryImageRequest
  try dsimp only
  repeat' first
    | with_reducible assumption
    | with_reducible apply State.takeRecovery_sound
    | with_reducible apply State.sendNeighbour_sound
    | with_reducible apply foldl_sound
    | (intro _; intros; try dsimp only)
    | split
    | with_reducible apply State.mk_sound

theorem doRecoveryImageData_sound {port : Nat} {pkt : Packet} {s : State} (h : s.Sound) : (doRecoveryImageData port pkt s).Sound := by
  unfold doRecoveryImageData
  try dsimp only
  repeat' first
    | with_reducible assumption
    | with_reducible apply State.takeRecovery_sound
    | with_reducible apply State.modTrust_sound
    | with_reducible apply foldl_sound
    | (intro _; intros; try dsimp only)
    | split
    | with_reducible apply State.mk_sound

theorem doRecoveryImageEnd_sound {port : Nat} {pkt : Packet} {s : State} (h : s.Sound) : (doRecoveryImageEnd port pkt s).Sound := by
  unfold doRecoveryImageEnd
  try dsimp only
  repeat' first
    | with_reducible assumption
    | with_reducible apply State.takeRecovery_sound
    | with_reducible apply State.judgeImage_sound
    | with_reducible apply foldl_sound
    | (intro _; intros; try dsimp only)
    | split
    | with_reducible apply State.mk_sound

theorem State.reply_sound {s : State} {r : SpdmReply} (h : s.Sound) : (State.reply s r).Sound := by
  unfold State.reply
  try dsimp only
  repeat' first
    | with_reducible assumption
    | with_reducible apply foldl_sound
    | (intro _; intros; try dsimp only)
    | split
    | with_reducible apply State.mk_sound

theorem State.replyAlive_sound {s : State} {r : SpdmReply} (h : s.Sound) : (State.replyAlive s r).Sound := by
  unfold State.replyAlive
  try dsimp only
  repeat' first
    | with_reducible assumption
    | with_reducible apply State.reply_sound
    | with_reducible apply foldl_sound
    | (intro _; intros; try dsimp only)
    | split
    | with_reducible apply State.mk_sound

theorem doGetVersion_sound {_session : Nat} {s : State} (h : s.Sound) : (doGetVersion _session s).Sound := by
  unfold doGetVersion
  try dsimp only
  repeat' first
    | with_reducible assumption
    | with_reducible apply State.reply_sound
    | with_reducible apply foldl_sound
    | (intro _; intros; try dsimp only)
    | split
    | with_reducible apply State.mk_sound

theorem doGetCapabilities_sound {_session : Nat} {s : State} (h : s.Sound) : (doGetCapabilities _session s).Sound := by
  unfold doGetCapabilities
  try dsimp only
  repeat' first
    | with_reducible assumption
    | with_reducible apply State.replyAlive_sound
    | with_reducible apply foldl_sound
    | (intro _; intros; try dsimp only)
    | split
    | with_reducible apply State.mk_sound

theorem doNegotiateAlgorithms_sound {_session : Nat} {algs : Nat} {s : State} (h : s.Sound) : (doNegotiateAlgorithms _session algs s).Sound := by
  unfold doNegotiateAlgorithms
  try dsimp only
  repeat' first
    | with_reducible assumption
    | with_reducible apply State.replyAlive_sound
    | with_reducible apply foldl_sound
    | (intro _; intros; try dsimp only)
    | split
    | with_reducible apply State.mk_sound

theorem doGetDigests_sound {_session : Nat} {s : State} (h : s.Sound) : (doGetDigests _session s).Sound := by
  unfold doGetDigests
  try dsimp only
  repeat' first
    | with_reducible assumption
    | with_reducible apply State.replyAlive_sound
    | with_reducible apply foldl_sound
    | (intro _; intros; try dsimp only)
    | split
    | with_reducible apply State.mk_sound

theorem doGetCertificate_sound {_session : Nat} {offset : Nat} {len : Nat} {s : State} (h : s.Sound) : (doGetCertificate _session offset len s).Sound := by
  unfold doGetCertificate
  try dsimp only
  repeat' first
    | with_reducible assumption
    | with_reducible apply State.modTrust_sound
    | with_reducible apply State.replyAlive_sound
    | with_reducible apply foldl_sound
    | (intro _; intros; try dsimp only)
    | split
    | with_reducible apply State.mk_sound

theorem doChallenge_sound {_session : Nat} {nonce : List Byte} {s : State} (h : s.Sound) : (doChallenge _session nonce s).Sound := by
  unfold doChallenge
  try dsimp only
  repeat' first
    | with_reducible assumption
    | with_reducible apply State.replyAlive_sound
    | with_reducible apply foldl_sound
    | (intro _; intros; try dsimp only)
    | split
    | with_reducible apply State.mk_sound

theorem doGetMeasurements_sound {session : Nat} {index : Nat} {nonce : List Byte} {s : State} (h : s.Sound) : (doGetMeasurements session index nonce s).Sound := by
  unfold doGetMeasurements
  try dsimp only
  repeat' first
    | with_reducible assumption
    | with_reducible apply State.reply_sound
    | with_reducible apply foldl_sound
    | (intro _; intros; try dsimp only)
    | split
    | with_reducible apply State.mk_sound

theorem doUnsupportedRequest_sound {_session : Nat} {code : Nat} {s : State} (h : s.Sound) : (doUnsupportedRequest _session code s).Sound := by
  unfold doUnsupportedRequest
  try dsimp only
  repeat' first
    | with_reducible assumption
    | with_reducible apply State.replyAlive_sound
    | with_reducible apply foldl_sound
    | (intro _; intros; try dsimp only)
    | split
    | with_reducible apply State.mk_sound

theorem State.modSession_sound {s : State} {n : Nat} {f : Session → Session} (h : s.Sound) : (State.modSession s n f).Sound := by
  unfold State.modSession
  try dsimp only
  repeat' first
    | with_reducible assumption
    | with_reducible apply State.modTrust_sound
    | with_reducible apply foldl_sound
    | (intro _; intros; try dsimp only)
    | split
    | with_reducible apply State.mk_sound

theorem State.closeSession_sound {s : State} {x : Session} {cause : Nat} (h : s.Sound) : (State.closeSession s x cause).Sound := by
  unfold State.closeSession
  try dsimp only
  repeat' first
    | with_reducible assumption
    | with_reducible apply State.modTrust_sound
    | with_reducible apply State.set_sound
    | with_reducible apply State.raiseClosed_sound
    | with_reducible apply foldl_sound
    | (intro _; intros; try dsimp only)
    | split
    | with_reducible apply State.mk_sound

theorem doKeyExchange_sound {_session : Nat} {_exchange : List Byte} {s : State} (h : s.Sound) : (doKeyExchange _session _exchange s).Sound := by
  unfold doKeyExchange
  try dsimp only
  repeat' first
    | with_reducible assumption
    | with_reducible apply State.reply_sound
    | with_reducible apply State.modTrust_sound
    | with_reducible apply foldl_sound
    | (intro _; intros; try dsimp only)
    | split
    | with_reducible apply State.mk_sound

theorem doFinish_sound {session : Nat} {auth : FinishAuth} {s : State} (h : s.Sound) : (doFinish session auth s).Sound := by
  unfold doFinish
  try dsimp only
  repeat' first
    | with_reducible assumption
    | with_reducible apply State.replyAlive_sound
    | with_reducible apply State.reply_sound
    | with_reducible apply State.raise_sound
    | with_reducible apply State.count_sound
    | with_reducible apply State.modTrust_sound
    | with_reducible apply State.modSession_sound
    | with_reducible apply State.set_sound
    | with_reducible apply foldl_sound
    | (intro _; intros; try dsimp only)
    | split
    | with_reducible apply State.mk_sound

theorem doHeartbeat_sound {session : Nat} {s : State} (h : s.Sound) : (doHeartbeat session s).Sound := by
  unfold doHeartbeat
  try dsimp only
  repeat' first
    | with_reducible assumption
    | with_reducible apply State.reply_sound
    | with_reducible apply State.replyAlive_sound
    | with_reducible apply foldl_sound
    | (intro _; intros; try dsimp only)
    | split
    | with_reducible apply State.mk_sound

theorem doHeartbeatTimeout_sound {session : Nat} {s : State} (h : s.Sound) : (doHeartbeatTimeout session s).Sound := by
  unfold doHeartbeatTimeout
  try dsimp only
  repeat' first
    | with_reducible assumption
    | with_reducible apply State.closeSession_sound
    | with_reducible apply foldl_sound
    | (intro _; intros; try dsimp only)
    | split
    | with_reducible apply State.mk_sound

theorem doKeyUpdate_sound {session : Nat} {op : Nat} {s : State} (h : s.Sound) : (doKeyUpdate session op s).Sound := by
  unfold doKeyUpdate
  try dsimp only
  repeat' first
    | with_reducible assumption
    | with_reducible apply State.reply_sound
    | with_reducible apply State.modSession_sound
    | with_reducible apply State.replyAlive_sound
    | with_reducible apply foldl_sound
    | (intro _; intros; try dsimp only)
    | split
    | with_reducible apply State.mk_sound

theorem doEndSession_sound {session : Nat} {s : State} (h : s.Sound) : (doEndSession session s).Sound := by
  unfold doEndSession
  try dsimp only
  repeat' first
    | with_reducible assumption
    | with_reducible apply State.reply_sound
    | with_reducible apply State.closeSession_sound
    | with_reducible apply State.replyAlive_sound
    | with_reducible apply foldl_sound
    | (intro _; intros; try dsimp only)
    | split
    | with_reducible apply State.mk_sound

theorem doChunkSend_sound {session : Nat} {seqNo : Nat} {_last : Bool} {bytes : List Byte} {s : State} (h : s.Sound) : (doChunkSend session seqNo _last bytes s).Sound := by
  unfold doChunkSend
  try dsimp only
  repeat' first
    | with_reducible assumption
    | with_reducible apply State.reply_sound
    | with_reducible apply State.modTrust_sound
    | with_reducible apply foldl_sound
    | (intro _; intros; try dsimp only)
    | split
    | with_reducible apply State.mk_sound

theorem doChunkGet_sound {_session : Nat} {seqNo : Nat} {s : State} (h : s.Sound) : (doChunkGet _session seqNo s).Sound := by
  unfold doChunkGet
  try dsimp only
  repeat' first
    | with_reducible assumption
    | with_reducible apply State.replyAlive_sound
    | with_reducible apply foldl_sound
    | (intro _; intros; try dsimp only)
    | split
    | with_reducible apply State.mk_sound

theorem State.vendor_sound {s : State} {session : Nat} {code : Nat} {may : Session → Bool} {act : State → Session → State} (h : s.Sound) (hact : ∀ (y0 : State) (y1 : Session), y0.Sound → (act y0 y1).Sound) : (State.vendor s session code may act).Sound := by
  unfold State.vendor
  try dsimp only
  repeat' first
    | with_reducible assumption
    | with_reducible apply State.reply_sound
    | with_reducible apply State.raiseFor_sound
    | with_reducible apply hact
    | with_reducible apply foldl_sound
    | (intro _; intros; try dsimp only)
    | split
    | with_reducible apply State.mk_sound

theorem State.noteHolder_sound {s : State} (h : s.Sound) : (State.noteHolder s).Sound := by
  unfold State.noteHolder
  try dsimp only
  repeat' first
    | with_reducible assumption
    | with_reducible apply State.set_sound
    | with_reducible apply foldl_sound
    | (intro _; intros; try dsimp only)
    | split
    | with_reducible apply State.mk_sound

theorem doBindPartition_sound {session : Nat} {p : Nat} {s : State} (h : s.Sound) : (doBindPartition session p s).Sound := by
  unfold doBindPartition
  try dsimp only
  repeat' first
    | with_reducible assumption
    | with_reducible apply State.vendor_sound
    | with_reducible apply State.noteHolder_sound
    | with_reducible apply State.set_sound
    | with_reducible apply State.modSession_sound
    | with_reducible apply foldl_sound
    | (intro _; intros; try dsimp only)
    | split
    | with_reducible apply State.mk_sound

theorem State.turnRanges_sound {s : State} {p : Nat} {rs : List ProtRange} (h : s.Sound) : (State.turnRanges s p rs).Sound := by
  exact State.mk_mem_sound h (Memory.wf_turnPages _ _ _ _ (Memory.wf_turnPages _ _ _ _ h.mem)) h.staging
    (Memory.wf_turnPages _ _ _ _ (Memory.wf_turnPages _ _ _ _ h.neg))

theorem State.putRanges_sound {s : State} {p : Nat} {rs : List ProtRange} (h : s.Sound) : (State.putRanges s p rs).Sound := by
  unfold State.putRanges
  try dsimp only
  repeat' first
    | with_reducible assumption
    | with_reducible apply State.setReg_sound
    | with_reducible apply State.turnRanges_sound
    | with_reducible apply State.set_sound
    | with_reducible apply foldl_sound
    | (intro _; intros; try dsimp only)
    | split
    | with_reducible apply State.mk_sound

theorem State.makeMemoryKey_sound {s : State} {p : Nat} (h : s.Sound) : (State.makeMemoryKey s p).Sound := by
  unfold State.makeMemoryKey
  try dsimp only
  repeat' first
    | with_reducible assumption
    | with_reducible apply State.useFree_sound
    | with_reducible apply State.modTrust_sound
    | with_reducible apply foldl_sound
    | (intro _; intros; try dsimp only)
    | split
    | with_reducible apply State.mk_sound

theorem doSetProtected_sound {session : Nat} {p : Nat} {ranges : List ProtRange} {s : State} (h : s.Sound) : (doSetProtected session p ranges s).Sound := by
  unfold doSetProtected
  try dsimp only
  repeat' first
    | with_reducible assumption
    | with_reducible apply State.vendor_sound
    | with_reducible apply State.putRanges_sound
    | with_reducible apply State.makeMemoryKey_sound
    | with_reducible apply foldl_sound
    | (intro _; intros; try dsimp only)
    | split
    | with_reducible apply State.mk_sound

theorem doSetFabricKey_sound {session : Nat} {p : Nat} {key : List Byte} {s : State} (h : s.Sound) : (doSetFabricKey session p key s).Sound := by
  unfold doSetFabricKey
  try dsimp only
  repeat' first
    | with_reducible assumption
    | with_reducible apply State.vendor_sound
    | with_reducible apply State.set_sound
    | with_reducible apply State.modPart_sound
    | with_reducible apply foldl_sound
    | (intro _; intros; try dsimp only)
    | split
    | with_reducible apply State.mk_sound

theorem doSealBind_sound {session : Nat} {s : State} (h : s.Sound) : (doSealBind session s).Sound := by
  unfold doSealBind
  try dsimp only
  repeat' first
    | with_reducible assumption
    | with_reducible apply State.vendor_sound
    | with_reducible apply State.noteHolder_sound
    | with_reducible apply State.modTrust_sound
    | with_reducible apply foldl_sound
    | (intro _; intros; try dsimp only)
    | split
    | with_reducible apply State.mk_sound

theorem doUnsealRegion_sound {session : Nat} {s : State} (h : s.Sound) : (doUnsealRegion session s).Sound := by
  unfold doUnsealRegion
  try dsimp only
  repeat' first
    | with_reducible assumption
    | with_reducible apply State.vendor_sound
    | with_reducible apply State.raiseFor_sound
    | with_reducible apply State.set_sound
    | with_reducible apply State.modTrust_sound
    | with_reducible apply foldl_sound
    | (intro _; intros; try dsimp only)
    | split
    | with_reducible apply State.mk_sound

theorem doSetView_sound {session : Nat} {full : Bool} {s : State} (h : s.Sound) : (doSetView session full s).Sound := by
  unfold doSetView
  try dsimp only
  repeat' first
    | with_reducible assumption
    | with_reducible apply State.vendor_sound
    | with_reducible apply State.set_sound
    | with_reducible apply foldl_sound
    | (intro _; intros; try dsimp only)
    | split
    | with_reducible apply State.mk_sound

theorem State.dropTenant_sound {s : State} {p : Nat} (h : s.Sound) : (State.dropTenant s p).Sound := by
  unfold State.dropTenant
  try dsimp only
  repeat' first
    | with_reducible assumption
    | with_reducible apply State.modTrust_sound
    | with_reducible apply State.putRanges_sound
    | with_reducible apply State.takeFree_sound
    | with_reducible apply State.closeSession_sound
    | with_reducible apply foldl_sound
    | (intro _; intros; try dsimp only)
    | split
    | with_reducible apply State.mk_sound

theorem State.wipeDie_sound {s : State} {d : Nat} (h : s.Sound) : (State.wipeDie s d).Sound := by
  exact State.mk_mem_sound h (Memory.wf_wipe _ _ _ h.mem) (Memory.wf_wipe _ _ _ h.staging) h.neg

theorem State.fixOwners_sound {s : State} (h : s.Sound) : (State.fixOwners s).Sound := by
  unfold State.fixOwners
  try dsimp only
  repeat' first
    | with_reducible assumption
    | with_reducible apply State.set_sound
    | with_reducible apply foldl_sound
    | (intro _; intros; try dsimp only)
    | split
    | with_reducible apply State.mk_sound

theorem State.changeMap_sound {s : State} {map : Nat} (h : s.Sound) : (State.changeMap s map).Sound := by
  unfold State.changeMap
  try dsimp only
  repeat' first
    | with_reducible assumption
    | with_reducible apply State.raise_sound
    | with_reducible apply State.wipeDie_sound
    | with_reducible apply State.dropTenant_sound
    | with_reducible apply State.fixOwners_sound
    | with_reducible apply State.setReg_sound
    | with_reducible apply foldl_sound
    | (intro _; intros; try dsimp only)
    | split
    | with_reducible apply State.mk_sound

theorem doSetPartitionMap_sound {session : Nat} {map : Nat} {s : State} (h : s.Sound) : (doSetPartitionMap session map s).Sound := by
  unfold doSetPartitionMap
  try dsimp only
  repeat' first
    | with_reducible assumption
    | with_reducible apply State.vendor_sound
    | with_reducible apply State.changeMap_sound
    | with_reducible apply foldl_sound
    | (intro _; intros; try dsimp only)
    | split
    | with_reducible apply State.mk_sound

theorem doLifecycle_sound {session : Nat} {target : Nat} {start : StartFacts} {s : State} (h : s.Sound) : (doLifecycle session target start s).Sound := by
  unfold doLifecycle
  try dsimp only
  repeat' first
    | with_reducible assumption
    | with_reducible apply State.vendor_sound
    | with_reducible apply State.startUp_sound
    | with_reducible apply State.transition_sound
    | with_reducible apply foldl_sound
    | (intro _; intros; try dsimp only)
    | split
    | with_reducible apply State.mk_sound

theorem doTakeOwnership_sound {session : Nat} {s : State} (h : s.Sound) : (doTakeOwnership session s).Sound := by
  unfold doTakeOwnership
  try dsimp only
  repeat' first
    | with_reducible assumption
    | with_reducible apply State.vendor_sound
    | with_reducible apply State.transition_sound
    | with_reducible apply State.modTrust_sound
    | with_reducible apply foldl_sound
    | (intro _; intros; try dsimp only)
    | split
    | with_reducible apply State.mk_sound

theorem doVendorReset_sound {session : Nat} {start : StartFacts} {s : State} (h : s.Sound) : (doVendorReset session start s).Sound := by
  unfold doVendorReset
  try dsimp only
  repeat' first
    | with_reducible assumption
    | with_reducible apply State.vendor_sound
    | with_reducible apply State.startUp_sound
    | with_reducible apply State.resetModule_sound
    | with_reducible apply foldl_sound
    | (intro _; intros; try dsimp only)
    | split
    | with_reducible apply State.mk_sound

theorem State.showGrade_sound {s : State} {old : Fitted} (h : s.Sound) : (State.showGrade s old).Sound := by
  unfold State.showGrade
  try dsimp only
  repeat' first
    | with_reducible assumption
    | with_reducible apply State.setPair_sound
    | with_reducible apply State.set_sound
    | with_reducible apply State.modPort_sound
    | with_reducible apply foldl_sound
    | (intro _; intros; try dsimp only)
    | split
    | with_reducible apply State.mk_sound

theorem doGradeRecord_sound {session : Nat} {record : List Byte} {s : State} (h : s.Sound) : (doGradeRecord session record s).Sound := by
  unfold doGradeRecord State.vendor
  split
  · exact h
  · split
    · next x hx =>
      have h3 := (Option.filter_eq_some_iff.mp hx).2
      rw [Bool.and_eq_true] at h3
      have h4 := h3.2
      unfold State.gradeGood at h4
      simp only [Bool.and_eq_true] at h4
      have hl : (gradeOf record).legal = true := h4.1.1.1.1.1.2
      have hr := State.set_sound Reg.sysInvStatus_mismatch 0 (State.reply_sound (r := .vendorDone 0x0B) h)
      exact State.showGrade_sound ⟨hr.mem, hr.staging, hr.neg, hr.regs, hr.regsListed, hr.counters, hr.countersLow, hr.seq, hl⟩
    · exact State.reply_sound (State.raiseFor_sound h)

theorem State.wipeAll_sound {s : State} (h : s.Sound) : (State.wipeAll s).Sound := by
  exact State.mk_mem_sound h rfl h.staging h.neg

theorem doScanEnable_sound {session : Nat} {s : State} (h : s.Sound) : (doScanEnable session s).Sound := by
  unfold doScanEnable
  apply State.vendor_sound h
  intro s x hs
  exact State.raise_sound (State.set_sound _ _ (State.wipeAll_sound (State.clearSecrets_sound hs)))

theorem State.idle_sound {s : State} (h : s.Sound) : (State.idle s).Sound := by
  unfold State.idle
  try dsimp only
  repeat' first
    | with_reducible assumption
    | with_reducible apply State.finishWrite_sound
    | with_reducible apply State.carryOff_sound
    | with_reducible apply State.passTime_sound
    | with_reducible apply foldl_sound
    | (intro _; intros; try dsimp only)
    | split
    | with_reducible apply State.mk_sound

theorem State.refreshCoarse_sound {s : State} {p : Nat} (h : s.Sound) : (State.refreshCoarse s p).Sound := by
  unfold State.refreshCoarse
  try dsimp only
  repeat' first
    | with_reducible assumption
    | with_reducible apply foldl_sound
    | (intro _; intros; try dsimp only)
    | split
    | with_reducible apply State.mk_sound

theorem State.tickZero_sound {s : State} {ecc : EccCounts} (h : s.Sound) : (State.tickZero s ecc).Sound := by
  have h2 : State.Sound { s with seq := 0, seqReported := false, stamped := 0 } :=
    ⟨h.mem, h.staging, h.neg, h.regs, h.regsListed, h.counters, h.countersLow, Nat.zero_le _, h.fitted⟩
  exact State.mk_sound (State.safelight_sound h2)

theorem State.tickCore_sound {s : State} {p : Nat} {c : Nat} (h : s.Sound) : (State.tickCore s p c).Sound := by
  unfold State.tickCore
  try dsimp only
  repeat' first
    | with_reducible assumption
    | with_reducible apply State.set_sound
    | with_reducible apply State.count_sound
    | with_reducible apply State.raise_sound
    | with_reducible apply State.modCore_sound
    | with_reducible apply foldl_sound
    | (intro _; intros; try dsimp only)
    | split
    | with_reducible apply State.mk_sound

theorem State.tickSpare_sound {s : State} {p : Nat} (h : s.Sound) : (State.tickSpare s p).Sound := by
  unfold State.tickSpare
  try dsimp only
  repeat' first
    | with_reducible assumption
    | with_reducible apply State.raise_sound
    | with_reducible apply State.count_sound
    | with_reducible apply foldl_sound
    | (intro _; intros; try dsimp only)
    | split
    | with_reducible apply State.mk_sound

theorem State.tickStep_sound {s : State} {p : Nat} (h : s.Sound) : (State.tickStep s p).Sound := by
  unfold State.tickStep
  try dsimp only
  repeat' first
    | with_reducible assumption
    | with_reducible apply State.modPart_sound
    | with_reducible apply State.tickSpare_sound
    | with_reducible apply State.tickCore_sound
    | with_reducible apply foldl_sound
    | (intro _; intros; try dsimp only)
    | split
    | with_reducible apply State.mk_sound

theorem doShutterTick_sound {p : Nat} {ecc : EccCounts} {s : State} (h : s.Sound) : (doShutterTick p ecc s).Sound := by
  unfold doShutterTick
  try dsimp only
  repeat' first
    | with_reducible assumption
    | with_reducible apply State.advanceTo_sound
    | with_reducible apply State.reportStarved_sound
    | with_reducible apply State.modPart_sound
    | with_reducible apply State.tickZero_sound
    | with_reducible apply State.refreshCoarse_sound
    | with_reducible apply State.tickStep_sound
    | with_reducible apply foldl_sound
    | (intro _; intros; try dsimp only)
    | split
    | with_reducible apply State.mk_sound

theorem doStepZeroStart_sound {p : Nat} {s : State} (h : s.Sound) : (doStepZeroStart p s).Sound := by
  unfold doStepZeroStart
  try dsimp only
  repeat' first
    | with_reducible assumption
    | with_reducible apply State.snapshotRecord_sound
    | with_reducible apply State.beginStep_sound
    | with_reducible apply State.evalEta_sound
    | with_reducible apply State.modPart_sound
    | with_reducible apply foldl_sound
    | (intro _; intros; try dsimp only)
    | split
    | with_reducible apply State.mk_sound

theorem doStepEnd_sound {p : Nat} {s : State} (h : s.Sound) : (doStepEnd p s).Sound := by
  unfold doStepEnd
  try dsimp only
  repeat' first
    | with_reducible assumption
    | with_reducible apply State.raise_sound
    | with_reducible apply State.stepBoundary_sound
    | with_reducible apply foldl_sound
    | (intro _; intros; try dsimp only)
    | split
    | with_reducible apply State.mk_sound

theorem doStepHeld_sound {p : Nat} {s : State} (h : s.Sound) : (doStepHeld p s).Sound := by
  unfold doStepHeld
  try dsimp only
  repeat' first
    | with_reducible assumption
    | with_reducible apply State.raise_sound
    | with_reducible apply State.modPart_sound
    | with_reducible apply foldl_sound
    | (intro _; intros; try dsimp only)
    | split
    | with_reducible apply State.mk_sound

theorem doStepHoldLimit_sound {p : Nat} {s : State} (h : s.Sound) : (doStepHoldLimit p s).Sound := by
  unfold doStepHoldLimit
  try dsimp only
  repeat' first
    | with_reducible assumption
    | with_reducible apply State.stepFault_sound
    | with_reducible apply State.raise_sound
    | with_reducible apply foldl_sound
    | (intro _; intros; try dsimp only)
    | split
    | with_reducible apply State.mk_sound

theorem doTimeLockTimeout_sound {p : Nat} {s : State} (h : s.Sound) : (doTimeLockTimeout p s).Sound := by
  unfold doTimeLockTimeout
  try dsimp only
  repeat' first
    | with_reducible assumption
    | with_reducible apply State.stepFault_sound
    | with_reducible apply foldl_sound
    | (intro _; intros; try dsimp only)
    | split
    | with_reducible apply State.mk_sound

theorem doWithdraw_sound {p : Nat} {s : State} (h : s.Sound) : (doWithdraw p s).Sound := by
  unfold doWithdraw
  try dsimp only
  repeat' first
    | with_reducible assumption
    | with_reducible apply State.modPart_sound
    | with_reducible apply foldl_sound
    | (intro _; intros; try dsimp only)
    | split
    | with_reducible apply State.mk_sound

theorem State.dropDescriptors_sound {s : State} {p : Nat} (h : s.Sound) : (State.dropDescriptors s p).Sound := by
  unfold State.dropDescriptors
  try dsimp only
  repeat' first
    | with_reducible assumption
    | with_reducible apply State.finish_sound
    | with_reducible apply foldl_sound
    | (intro _; intros; try dsimp only)
    | split
    | with_reducible apply State.mk_sound

theorem State.dropReshard_sound {s : State} {p : Nat} (h : s.Sound) : (State.dropReshard s p).Sound := by
  unfold State.dropReshard
  try dsimp only
  repeat' first
    | with_reducible assumption
    | with_reducible apply State.finish_sound
    | with_reducible apply State.setPair_sound
    | with_reducible apply State.set_sound
    | with_reducible apply State.modPart_sound
    | with_reducible apply foldl_sound
    | (intro _; intros; try dsimp only)
    | split
    | with_reducible apply State.mk_sound

theorem State.noteFixers_sound {s : State} (h : s.Sound) : (State.noteFixers s).Sound := by
  unfold State.noteFixers
  try dsimp only
  repeat' first
    | with_reducible assumption
    | with_reducible apply State.set_sound
    | with_reducible apply foldl_sound
    | (intro _; intros; try dsimp only)
    | split
    | with_reducible apply State.mk_sound

theorem State.leavePlan_sound {s : State} {p : Nat} (h : s.Sound) : (State.leavePlan s p).Sound := by
  unfold State.leavePlan
  try dsimp only
  repeat' first
    | with_reducible assumption
    | with_reducible apply State.dropIntake_sound
    | with_reducible apply State.closeAllCtx_sound
    | with_reducible apply State.dropReshard_sound
    | with_reducible apply State.dropDescriptors_sound
    | with_reducible apply State.modPart_sound
    | with_reducible apply State.noteFixers_sound
    | with_reducible apply State.set_sound
    | with_reducible apply foldl_sound
    | (intro _; intros; try dsimp only)
    | split
    | with_reducible apply State.mk_sound

theorem doAdmissionRestoreDone_sound {p : Nat} {s : State} (h : s.Sound) : (doAdmissionRestoreDone p s).Sound := by
  unfold doAdmissionRestoreDone
  try dsimp only
  repeat' first
    | with_reducible assumption
    | with_reducible apply State.modFixer_sound
    | with_reducible apply State.restoreFrom_sound
    | with_reducible apply State.set_sound
    | with_reducible apply State.leavePlan_sound
    | with_reducible apply foldl_sound
    | (intro _; intros; try dsimp only)
    | split
    | with_reducible apply State.mk_sound

theorem doPlanWithdrawal_sound {p : Nat} {s : State} (h : s.Sound) : (doPlanWithdrawal p s).Sound := by
  unfold doPlanWithdrawal
  try dsimp only
  repeat' first
    | with_reducible assumption
    | with_reducible apply State.leavePlan_sound
    | with_reducible apply State.raise_sound
    | with_reducible apply foldl_sound
    | (intro _; intros; try dsimp only)
    | split
    | with_reducible apply State.mk_sound

theorem State.acceptPlan_sound {s : State} {ring : Nat} {d : Started} {p : Nat} {m : Image} (h : s.Sound) : (State.acceptPlan s ring d p m).Sound := by
  unfold State.acceptPlan
  try dsimp only
  repeat' first
    | with_reducible assumption
    | with_reducible apply State.reportClamp_sound
    | with_reducible apply State.raise_sound
    | with_reducible apply State.finish_sound
    | with_reducible apply foldl_sound
    | (intro _; intros; try dsimp only)
    | split
    | with_reducible apply State.mk_sound

theorem doLoadPlan_sound {ring : Nat} {s : State} (h : s.Sound) : (doLoadPlan ring s).Sound := by
  unfold doLoadPlan
  try dsimp only
  repeat' first
    | with_reducible assumption
    | with_reducible apply State.finish_sound
    | with_reducible apply State.consumeSlot_sound
    | with_reducible apply State.acceptPlan_sound
    | with_reducible apply State.raise_sound
    | with_reducible apply State.releaseSlot_sound
    | with_reducible apply foldl_sound
    | (intro _; intros; try dsimp only)
    | split
    | with_reducible apply State.mk_sound

theorem State.dropPlan_sound {s : State} {p : Nat} {id : Nat} (h : s.Sound) : (State.dropPlan s p id).Sound := by
  unfold State.dropPlan
  try dsimp only
  repeat' first
    | with_reducible assumption
    | with_reducible apply State.set_sound
    | with_reducible apply State.leaveDevelopers_sound
    | with_reducible apply State.modCore_sound
    | with_reducible apply State.modPart_sound
    | with_reducible apply foldl_sound
    | (intro _; intros; try dsimp only)
    | split
    | with_reducible apply State.mk_sound

theorem doUnloadPlan_sound {ring : Nat} {s : State} (h : s.Sound) : (doUnloadPlan ring s).Sound := by
  unfold doUnloadPlan
  try dsimp only
  repeat' first
    | with_reducible assumption
    | with_reducible apply State.finish_sound
    | with_reducible apply State.dropPlan_sound
    | with_reducible apply foldl_sound
    | (intro _; intros; try dsimp only)
    | split
    | with_reducible apply State.mk_sound

end Sys2Proof.Machine
end

