-- ==== Sys2Proof/Laws/Sound6.lean ====
section
/-! SUPPORT. Every operation that answers a state keeps a sound state sound, for the operations in Admit.lean, Issue.lean, Ledger.lean, Reshard.lean, Registers.lean, Step.lean. -/

set_option Elab.async false

namespace Sys2Proof.Machine

theorem doAdmitPlan_sound {ring : Nat} {s : State} (h : s.Sound) : (doAdmitPlan ring s).Sound := by
  unfold doAdmitPlan
  try dsimp only
  repeat' first
    | with_reducible assumption
    | with_reducible apply State.finish_sound
    | with_reducible apply State.modPart_sound
    | with_reducible apply State.beginDesc_sound
    | with_reducible apply State.consumeSlot_sound
    | with_reducible apply foldl_sound
    | (intro _; intros; try dsimp only)
    | split
    | with_reducible apply State.mk_sound

theorem State.showPlan_sound {s : State} {p : Nat} {pl : Plan} (h : s.Sound) : (State.showPlan s p pl).Sound := by
  unfold State.showPlan
  try dsimp only
  repeat' first
    | with_reducible assumption
    | with_reducible apply State.set_sound
    | with_reducible apply foldl_sound
    | (intro _; intros; try dsimp only)
    | split
    | with_reducible apply State.mk_sound

theorem State.beginRestore_sound {s : State} {p : Nat} {pl : Plan} (h : s.Sound) : (State.beginRestore s p pl).Sound := by
  unfold State.beginRestore
  try dsimp only
  repeat' first
    | with_reducible assumption
    | with_reducible apply State.modPart_sound
    | with_reducible apply State.noteFixers_sound
    | with_reducible apply foldl_sound
    | (intro _; intros; try dsimp only)
    | split
    | with_reducible apply State.mk_sound

theorem State.admitPlan_sound {s : State} {p : Nat} {pl : Plan} {margin : Int} (h : s.Sound) : (State.admitPlan s p pl margin).Sound := by
  unfold State.admitPlan
  try dsimp only
  repeat' first
    | with_reducible assumption
    | with_reducible apply State.modPart_sound
    | with_reducible apply State.adoptIntake_sound
    | with_reducible apply State.openTraining_sound
    | with_reducible apply State.admitGroups_sound
    | with_reducible apply State.admitLayers_sound
    | with_reducible apply State.beginRestore_sound
    | with_reducible apply State.showPlan_sound
    | with_reducible apply State.set_sound
    | with_reducible apply foldl_sound
    | (intro _; intros; try dsimp only)
    | split
    | with_reducible apply State.mk_sound

theorem State.notePeaks_sound {s : State} {k : Check} (h : s.Sound) : (State.notePeaks s k).Sound := by
  unfold State.notePeaks
  try dsimp only
  repeat' first
    | with_reducible assumption
    | with_reducible apply State.set_sound
    | with_reducible apply State.setPair_sound
    | with_reducible apply foldl_sound
    | (intro _; intros; try dsimp only)
    | split
    | with_reducible apply State.mk_sound

theorem doLightMeterDone_sound {p : Nat} {s : State} (h : s.Sound) : (doLightMeterDone p s).Sound := by
  unfold doLightMeterDone
  try dsimp only
  repeat' first
    | with_reducible assumption
    | with_reducible apply State.writeReport_sound
    | with_reducible apply State.stampUsed_sound
    | with_reducible apply State.notePeaks_sound
    | with_reducible apply State.finish_sound
    | with_reducible apply State.raise_sound
    | with_reducible apply State.admitPlan_sound
    | with_reducible apply State.count_sound
    | with_reducible apply State.modPart_sound
    | with_reducible apply foldl_sound
    | (intro _; intros; try dsimp only)
    | split
    | with_reducible apply State.mk_sound

theorem State.feedDevelopers_sound {s : State} {c : Nat} {r : Running} (h : s.Sound) : (State.feedDevelopers s c r).Sound := by
  unfold State.feedDevelopers
  try dsimp only
  repeat' first
    | with_reducible assumption
    | with_reducible apply foldl_sound
    | (intro _; intros; try dsimp only)
    | split
    | with_reducible apply State.mk_sound

theorem State.startTask_sound {s : State} {c : Nat} {r : Running} (h : s.Sound) : (State.startTask s c r).Sound := by
  unfold State.startTask
  try dsimp only
  repeat' first
    | with_reducible assumption
    | with_reducible apply State.wake_sound
    | with_reducible apply State.modQueue_sound
    | with_reducible apply State.modCore_sound
    | with_reducible apply State.set_sound
    | with_reducible apply State.showRecord_sound
    | with_reducible apply State.feedDevelopers_sound
    | with_reducible apply State.takeHalos_sound
    | with_reducible apply foldl_sound
    | (intro _; intros; try dsimp only)
    | split
    | with_reducible apply State.mk_sound

theorem doTaskIssue_sound {core : Nat} {s : State} (h : s.Sound) : (doTaskIssue core s).Sound := by
  unfold doTaskIssue
  try dsimp only
  repeat' first
    | with_reducible assumption
    | with_reducible apply State.noteWait_sound
    | with_reducible apply State.noteFixerWait_sound
    | with_reducible apply State.startTask_sound
    | with_reducible apply foldl_sound
    | (intro _; intros; try dsimp only)
    | split
    | with_reducible apply State.mk_sound

theorem doCreditReceived_sound {p : Nat} {queue : Nat} {s : State} (h : s.Sound) : (doCreditReceived p queue s).Sound := by
  unfold doCreditReceived
  try dsimp only
  repeat' first
    | with_reducible assumption
    | with_reducible apply State.modQueue_sound
    | with_reducible apply State.endWaits_sound
    | with_reducible apply foldl_sound
    | (intro _; intros; try dsimp only)
    | split
    | with_reducible apply State.mk_sound

theorem State.countNeg_sound {s : State} {src : Tensor} {dst : Tensor} {readUnits : Nat} {writeUnits : Nat} (h : s.Sound) : (State.countNeg s src dst readUnits writeUnits).Sound := by
  unfold State.countNeg
  try dsimp only
  repeat' first
    | with_reducible assumption
    | with_reducible apply State.count_sound
    | with_reducible apply foldl_sound
    | (intro _; intros; try dsimp only)
    | split
    | with_reducible apply State.mk_sound

theorem State.copyBlock_sound {s : State} {p : Nat} {src : Tensor} {dst : Tensor} {j : Nat} (h : s.Sound) : (State.copyBlock s p src dst j).Sound := by
  unfold State.copyBlock
  try dsimp only
  repeat' first
    | with_reducible assumption
    | with_reducible apply State.countNeg_sound
    | with_reducible apply State.writeSpace_sound
    | with_reducible apply State.putBlock_sound
    | with_reducible apply foldl_sound
    | (intro _; intros; try dsimp only)
    | split
    | with_reducible apply State.mk_sound

theorem State.encodeBlockAt_sound {s : State} {p : Nat} {src : Tensor} {dst : Tensor} {j : Nat} (h : s.Sound) : (State.encodeBlockAt s p src dst j).Sound := by
  unfold State.encodeBlockAt
  try dsimp only
  repeat' first
    | with_reducible assumption
    | with_reducible apply State.countNeg_sound
    | with_reducible apply State.store_sound
    | with_reducible apply State.clearWrite_sound
    | with_reducible apply foldl_sound
    | (intro _; intros; try dsimp only)
    | split
    | with_reducible apply State.mk_sound

theorem State.decoderReads_sound {s : State} {r : Running} {o : Operand} {j : Nat} (h : s.Sound) : (State.decoderReads s r o j).Sound := by
  unfold State.decoderReads
  try dsimp only
  repeat' first
    | with_reducible assumption
    | with_reducible apply State.count_sound
    | with_reducible apply State.readErrors_sound
    | with_reducible apply foldl_sound
    | (intro _; intros; try dsimp only)
    | split
    | with_reducible apply State.mk_sound

theorem State.decodeBlockAt_sound {s : State} {r : Running} {o : Operand} {dst : Tensor} {j : Nat} (h : s.Sound) : (State.decodeBlockAt s r o dst j).Sound := by
  unfold State.decodeBlockAt
  try dsimp only
  repeat' first
    | with_reducible assumption
    | with_reducible apply State.store_sound
    | with_reducible apply State.writeSpace_sound
    | with_reducible apply State.countNeg_sound
    | with_reducible apply State.decoderReads_sound
    | with_reducible apply foldl_sound
    | (intro _; intros; try dsimp only)
    | split
    | with_reducible apply State.mk_sound

theorem State.recodeBlockAt_sound {s : State} {r : Running} {o : Operand} {j : Nat} (h : s.Sound) : (State.recodeBlockAt s r o j).Sound := by
  unfold State.recodeBlockAt
  try dsimp only
  repeat' first
    | with_reducible assumption
    | with_reducible apply State.clearWrite_sound
    | with_reducible apply State.decoderReads_sound
    | with_reducible apply State.countNeg_sound
    | with_reducible apply foldl_sound
    | (intro _; intros; try dsimp only)
    | split
    | with_reducible apply State.mk_sound

theorem State.codecTask_sound {s : State} {c : Nat} {mode : Nat} {move : State →   Running → Operand → Operand → Nat → State} (h : s.Sound) (hmove : ∀ (y0 : State) (y1 : Running) (y2 : Operand) (y3 : Operand) (y4 : Nat), y0.Sound → (move y0 y1 y2 y3 y4).Sound) : (State.codecTask s c mode move).Sound := by
  unfold State.codecTask
  try dsimp only
  repeat' first
    | with_reducible assumption
    | with_reducible apply State.endTask_sound
    | with_reducible apply hmove
    | with_reducible apply foldl_sound
    | (intro _; intros; try dsimp only)
    | split
    | with_reducible apply State.mk_sound

theorem doOffload_sound {core : Nat} {s : State} (h : s.Sound) : (doOffload core s).Sound := by
  unfold doOffload
  try dsimp only
  repeat' first
    | with_reducible assumption
    | with_reducible apply State.codecTask_sound
    | with_reducible apply State.copyBlock_sound
    | with_reducible apply foldl_sound
    | (intro _; intros; try dsimp only)
    | split
    | with_reducible apply State.mk_sound

theorem doFetch_sound {core : Nat} {s : State} (h : s.Sound) : (doFetch core s).Sound := by
  unfold doFetch
  try dsimp only
  repeat' first
    | with_reducible assumption
    | with_reducible apply State.codecTask_sound
    | with_reducible apply State.copyBlock_sound
    | with_reducible apply foldl_sound
    | (intro _; intros; try dsimp only)
    | split
    | with_reducible apply State.mk_sound

theorem doEncode_sound {core : Nat} {s : State} (h : s.Sound) : (doEncode core s).Sound := by
  unfold doEncode
  try dsimp only
  repeat' first
    | with_reducible assumption
    | with_reducible apply State.codecTask_sound
    | with_reducible apply State.encodeBlockAt_sound
    | with_reducible apply foldl_sound
    | (intro _; intros; try dsimp only)
    | split
    | with_reducible apply State.mk_sound

theorem doDecode_sound {core : Nat} {s : State} (h : s.Sound) : (doDecode core s).Sound := by
  unfold doDecode
  try dsimp only
  repeat' first
    | with_reducible assumption
    | with_reducible apply State.codecTask_sound
    | with_reducible apply State.decodeBlockAt_sound
    | with_reducible apply foldl_sound
    | (intro _; intros; try dsimp only)
    | split
    | with_reducible apply State.mk_sound

theorem doRecode_sound {core : Nat} {s : State} (h : s.Sound) : (doRecode core s).Sound := by
  unfold doRecode
  try dsimp only
  repeat' first
    | with_reducible assumption
    | with_reducible apply State.codecTask_sound
    | with_reducible apply State.recodeBlockAt_sound
    | with_reducible apply foldl_sound
    | (intro _; intros; try dsimp only)
    | split
    | with_reducible apply State.mk_sound

theorem State.noteCurrent_sound {s : State} {p : Nat} (h : s.Sound) : (State.noteCurrent s p).Sound := by
  unfold State.noteCurrent
  try dsimp only
  repeat' first
    | with_reducible assumption
    | with_reducible apply State.set_sound
    | with_reducible apply foldl_sound
    | (intro _; intros; try dsimp only)
    | split
    | with_reducible apply State.mk_sound

theorem State.freeGen_sound {s : State} {p : Nat} {g : Nat} (h : s.Sound) : (State.freeGen s p g).Sound := by
  unfold State.freeGen
  try dsimp only
  repeat' first
    | with_reducible assumption
    | with_reducible apply State.noteCurrent_sound
    | with_reducible apply State.raise_sound
    | with_reducible apply State.modGen_sound
    | with_reducible apply foldl_sound
    | (intro _; intros; try dsimp only)
    | split
    | with_reducible apply State.mk_sound

theorem doClearGenFreed_sound {p : Nat} {gen : Nat} {s : State} (h : s.Sound) : (doClearGenFreed p gen s).Sound := by
  unfold doClearGenFreed
  try dsimp only
  repeat' first
    | with_reducible assumption
    | with_reducible apply State.freeGen_sound
    | with_reducible apply foldl_sound
    | (intro _; intros; try dsimp only)
    | split
    | with_reducible apply State.mk_sound

theorem State.makeCurrent_sound {s : State} {p : Nat} {g : Nat} (h : s.Sound) : (State.makeCurrent s p g).Sound := by
  unfold State.makeCurrent
  try dsimp only
  repeat' first
    | with_reducible assumption
    | with_reducible apply State.modGen_sound
    | with_reducible apply State.raise_sound
    | with_reducible apply foldl_sound
    | (intro _; intros; try dsimp only)
    | split
    | with_reducible apply State.mk_sound

theorem State.refuseClear_sound {s : State} {n : Nat} {p : Nat} {d : Started} {fails : List Nat} (h : s.Sound) : (State.refuseClear s n p d fails).Sound := by
  unfold State.refuseClear
  try dsimp only
  repeat' first
    | with_reducible assumption
    | with_reducible apply State.raise_sound
    | with_reducible apply State.finish_sound
    | with_reducible apply foldl_sound
    | (intro _; intros; try dsimp only)
    | split
    | with_reducible apply State.mk_sound

theorem doClearTableLoad_sound {ring : Nat} {s : State} (h : s.Sound) : (doClearTableLoad ring s).Sound := by
  unfold doClearTableLoad
  try dsimp only
  repeat' first
    | with_reducible assumption
    | with_reducible apply State.finish_sound
    | with_reducible apply State.refuseClear_sound
    | with_reducible apply State.consumeSlot_sound
    | with_reducible apply State.raise_sound
    | with_reducible apply State.modGen_sound
    | with_reducible apply State.releaseSlot_sound
    | with_reducible apply foldl_sound
    | (intro _; intros; try dsimp only)
    | split
    | with_reducible apply State.mk_sound

theorem State.requestClear_sound {s : State} {ring : Nat} {act : Nat} (h : s.Sound) : (State.requestClear s ring act).Sound := by
  unfold State.requestClear
  try dsimp only
  repeat' first
    | with_reducible assumption
    | with_reducible apply State.finish_sound
    | with_reducible apply State.noteCurrent_sound
    | with_reducible apply State.request_sound
    | with_reducible apply foldl_sound
    | (intro _; intros; try dsimp only)
    | split
    | with_reducible apply State.mk_sound

theorem doClearTableMakeCurrent_sound {ring : Nat} {s : State} (h : s.Sound) : (doClearTableMakeCurrent ring s).Sound := by
  unfold doClearTableMakeCurrent
  try dsimp only
  repeat' first
    | with_reducible assumption
    | with_reducible apply State.requestClear_sound
    | with_reducible apply foldl_sound
    | (intro _; intros; try dsimp only)
    | split
    | with_reducible apply State.mk_sound

theorem doClearTableDiscard_sound {ring : Nat} {s : State} (h : s.Sound) : (doClearTableDiscard ring s).Sound := by
  unfold doClearTableDiscard
  try dsimp only
  repeat' first
    | with_reducible assumption
    | with_reducible apply State.requestClear_sound
    | with_reducible apply foldl_sound
    | (intro _; intros; try dsimp only)
    | split
    | with_reducible apply State.mk_sound

theorem doClearTableApply_sound {p : Nat} {s : State} (h : s.Sound) : (doClearTableApply p s).Sound := by
  unfold doClearTableApply
  try dsimp only
  repeat' first
    | with_reducible assumption
    | with_reducible apply State.dropRequest_sound
    | with_reducible apply State.refuseClear_sound
    | with_reducible apply State.finish_sound
    | with_reducible apply State.makeCurrent_sound
    | with_reducible apply State.modGen_sound
    | with_reducible apply State.noteCurrent_sound
    | with_reducible apply foldl_sound
    | (intro _; intros; try dsimp only)
    | split
    | with_reducible apply State.mk_sound

theorem State.refuseReshard_sound {s : State} {ring : Nat} {d : Started} {fails : List Nat} (h : s.Sound) : (State.refuseReshard s ring d fails).Sound := by
  unfold State.refuseReshard
  try dsimp only
  repeat' first
    | with_reducible assumption
    | with_reducible apply State.finish_sound
    | with_reducible apply State.raise_sound
    | with_reducible apply foldl_sound
    | (intro _; intros; try dsimp only)
    | split
    | with_reducible apply State.mk_sound

theorem doReshardPrepare_sound {ring : Nat} {s : State} (h : s.Sound) : (doReshardPrepare ring s).Sound := by
  unfold doReshardPrepare
  try dsimp only
  repeat' first
    | with_reducible assumption
    | with_reducible apply State.finish_sound
    | with_reducible apply State.refuseReshard_sound
    | with_reducible apply State.consumeSlot_sound
    | with_reducible apply State.modPart_sound
    | with_reducible apply State.set_sound
    | with_reducible apply State.releaseSlot_sound
    | with_reducible apply foldl_sound
    | (intro _; intros; try dsimp only)
    | split
    | with_reducible apply State.mk_sound

theorem doReshardCommit_sound {ring : Nat} {s : State} (h : s.Sound) : (doReshardCommit ring s).Sound := by
  unfold doReshardCommit
  try dsimp only
  repeat' first
    | with_reducible assumption
    | with_reducible apply State.finish_sound
    | with_reducible apply State.modPart_sound
    | with_reducible apply State.beginDesc_sound
    | with_reducible apply State.setPair_sound
    | with_reducible apply State.set_sound
    | with_reducible apply State.refuseReshard_sound
    | with_reducible apply foldl_sound
    | (intro _; intros; try dsimp only)
    | split
    | with_reducible apply State.mk_sound

theorem doReshardCancel_sound {ring : Nat} {s : State} (h : s.Sound) : (doReshardCancel ring s).Sound := by
  unfold doReshardCancel
  try dsimp only
  repeat' first
    | with_reducible assumption
    | with_reducible apply State.finish_sound
    | with_reducible apply State.set_sound
    | with_reducible apply State.modPart_sound
    | with_reducible apply State.refuseReshard_sound
    | with_reducible apply foldl_sound
    | (intro _; intros; try dsimp only)
    | split
    | with_reducible apply State.mk_sound

theorem State.fencePort_sound {s : State} {p : Nat} {n : Nat} (h : s.Sound) : (State.fencePort s p n).Sound := by
  unfold State.fencePort
  try dsimp only
  repeat' first
    | with_reducible assumption
    | with_reducible apply State.post_sound
    | with_reducible apply foldl_sound
    | (intro _; intros; try dsimp only)
    | split
    | with_reducible apply State.mk_sound

theorem State.redeliver_sound {s : State} {n : Nat} {pk : Packet} (h : s.Sound) : (State.redeliver s n pk).Sound := by
  unfold State.redeliver
  try dsimp only
  repeat' first
    | with_reducible assumption
    | with_reducible apply doPacketRelay_sound
    | with_reducible apply doDataPacket_sound
    | with_reducible apply doReductionPartial_sound
    | with_reducible apply doReductionResult_sound
    | with_reducible apply doSideband_sound
    | with_reducible apply doRouteSwitch_sound
    | with_reducible apply doLandingCredit_sound
    | with_reducible apply doBulkMirrorData_sound
    | with_reducible apply doBulkMirrorSeal_sound
    | with_reducible apply doTakeoverRequest_sound
    | with_reducible apply doItemRequest_sound
    | with_reducible apply doItemData_sound
    | with_reducible apply doItemSealRecord_sound
    | with_reducible apply foldl_sound
    | (intro _; intros; try dsimp only)
    | split
    | with_reducible apply State.mk_sound

theorem State.deliverPort_sound {s : State} {n : Nat} (h : s.Sound) : (State.deliverPort s n).Sound := by
  unfold State.deliverPort
  try dsimp only
  repeat' first
    | with_reducible assumption
    | with_reducible apply State.modPort_sound
    | with_reducible apply State.modLink_sound
    | with_reducible apply doCompletionNotice_sound
    | with_reducible apply State.redeliver_sound
    | with_reducible apply foldl_sound
    | (intro _; intros; try dsimp only)
    | split
    | with_reducible apply State.mk_sound

theorem doReshardBoundary_sound {p : Nat} {s : State} (h : s.Sound) : (doReshardBoundary p s).Sound := by
  unfold doReshardBoundary
  try dsimp only
  repeat' first
    | with_reducible assumption
    | with_reducible apply State.modPart_sound
    | with_reducible apply State.set_sound
    | with_reducible apply State.raise_sound
    | with_reducible apply State.noteDrained_sound
    | with_reducible apply State.fencePort_sound
    | with_reducible apply State.finish_sound
    | with_reducible apply State.deliverPort_sound
    | with_reducible apply foldl_sound
    | (intro _; intros; try dsimp only)
    | split
    | with_reducible apply State.mk_sound

theorem doEpochDrainTimeout_sound {p : Nat} {port : Nat} {s : State} (h : s.Sound) : (doEpochDrainTimeout p port s).Sound := by
  unfold doEpochDrainTimeout
  try dsimp only
  repeat' first
    | with_reducible assumption
    | with_reducible apply State.releaseVia_sound
    | with_reducible apply State.modPort_sound
    | with_reducible apply State.stepFault_sound
    | with_reducible apply State.raiseFor_sound
    | with_reducible apply foldl_sound
    | (intro _; intros; try dsimp only)
    | split
    | with_reducible apply State.mk_sound

theorem State.restartChecks_sound {s : State} {a : Nat} (h : s.Sound) : (State.restartChecks s a).Sound := by
  unfold State.restartChecks
  try dsimp only
  repeat' first
    | with_reducible assumption
    | with_reducible apply State.modPart_sound
    | with_reducible apply foldl_sound
    | (intro _; intros; try dsimp only)
    | split
    | with_reducible apply State.mk_sound

theorem State.regrid_sound {s : State} {p : Nat} (h : s.Sound) : (State.regrid s p).Sound := by
  unfold State.regrid
  try dsimp only
  repeat' first
    | with_reducible assumption
    | with_reducible apply State.modPart_sound
    | with_reducible apply foldl_sound
    | (intro _; intros; try dsimp only)
    | split
    | with_reducible apply State.mk_sound

theorem State.ringSwitched_sound {s : State} {n : Nat} {old : Nat} (h : s.Sound) : (State.ringSwitched s n old).Sound := by
  unfold State.ringSwitched
  try dsimp only
  repeat' first
    | with_reducible assumption
    | with_reducible apply State.set_sound
    | with_reducible apply foldl_sound
    | (intro _; intros; try dsimp only)
    | split
    | with_reducible apply State.mk_sound

theorem State.poolSwitched_sound {s : State} {p : Nat} {q : Nat} {old : Nat} (h : s.Sound) : (State.poolSwitched s p q old).Sound := by
  unfold State.poolSwitched
  try dsimp only
  repeat' first
    | with_reducible assumption
    | with_reducible apply State.disablePool_sound
    | with_reducible apply State.enablePool_sound
    | with_reducible apply foldl_sound
    | (intro _; intros; try dsimp only)
    | split
    | with_reducible apply State.mk_sound

theorem State.sealedChanged_sound {s : State} (h : s.Sound) : (State.sealedChanged s).Sound := by
  exact State.set_sound _ _ (State.mk_mem_sound h h.mem h.staging (Memory.wf_filter _ _ h.neg))

theorem State.becomeRoot_sound {s : State} (h : s.Sound) : (State.becomeRoot s).Sound := by
  unfold State.becomeRoot
  try dsimp only
  repeat' first
    | with_reducible assumption
    | with_reducible apply State.raise_sound
    | with_reducible apply foldl_sound
    | (intro _; intros; try dsimp only)
    | split
    | with_reducible apply State.mk_sound

theorem State.eventRingChanged_sound {s : State} {p : Nat} {moved : Bool} (h : s.Sound) : (State.eventRingChanged s p moved).Sound := by
  unfold State.eventRingChanged
  try dsimp only
  repeat' first
    | with_reducible assumption
    | with_reducible apply State.flushOverrun_sound
    | with_reducible apply State.set_sound
    | with_reducible apply State.firstEventRing_sound
    | with_reducible apply foldl_sound
    | (intro _; intros; try dsimp only)
    | split
    | with_reducible apply State.mk_sound

theorem State.capWritten_sound {s : State} (h : s.Sound) : (State.capWritten s).Sound := by
  unfold State.capWritten
  try dsimp only
  repeat' first
    | with_reducible assumption
    | with_reducible apply State.raise_sound
    | with_reducible apply foldl_sound
    | (intro _; intros; try dsimp only)
    | split
    | with_reducible apply State.mk_sound

theorem State.afterModuleWrite_sound {s : State} {a : Nat} {old : Nat} {w : Nat} (h : s.Sound) : (State.afterModuleWrite s a old w).Sound := by
  unfold State.afterModuleWrite
  try dsimp only
  repeat' first
    | with_reducible assumption
    | with_reducible apply State.sealedChanged_sound
    | with_reducible apply State.becomeRoot_sound
    | with_reducible apply State.capWritten_sound
    | with_reducible apply State.leaveDeep_sound
    | with_reducible apply State.set_sound
    | with_reducible apply State.eventRingChanged_sound
    | with_reducible apply State.flushOverrun_sound
    | with_reducible apply foldl_sound
    | (intro _; intros; try dsimp only)
    | split
    | with_reducible apply State.mk_sound

theorem State.afterWrite_sound {s : State} {a : Nat} {old : Nat} {w : Nat} (h : s.Sound) : (State.afterWrite s a old w).Sound := by
  unfold State.afterWrite
  try dsimp only
  repeat' first
    | with_reducible assumption
    | with_reducible apply State.regrid_sound
    | with_reducible apply State.ringSwitched_sound
    | with_reducible apply State.noteFull_sound
    | with_reducible apply State.modPart_sound
    | with_reducible apply State.poolSwitched_sound
    | with_reducible apply State.afterModuleWrite_sound
    | with_reducible apply foldl_sound
    | (intro _; intros; try dsimp only)
    | split
    | with_reducible apply State.mk_sound

theorem State.refuseWrite_sound {s : State} {a : Nat} {w : Nat} (h : s.Sound) : (State.refuseWrite s a w).Sound := by
  unfold State.refuseWrite
  try dsimp only
  repeat' first
    | with_reducible assumption
    | with_reducible apply State.raise_sound
    | with_reducible apply foldl_sound
    | (intro _; intros; try dsimp only)
    | split
    | with_reducible apply State.mk_sound

theorem State.reportClamps_sound {s : State} {a : Nat} {l : List (FieldSpec × Nat × Nat)} (h : s.Sound) : (State.reportClamps s a l).Sound := by
  unfold State.reportClamps
  try dsimp only
  repeat' first
    | with_reducible assumption
    | with_reducible apply State.reportClamp_sound
    | with_reducible apply foldl_sound
    | (intro _; intros; try dsimp only)
    | split
    | with_reducible apply State.mk_sound

theorem State.writeReg_sound {s : State} {a : Nat} {w : Nat} (h : s.Sound) : (State.writeReg s a w).Sound := by
  unfold State.writeReg
  try dsimp only
  repeat' first
    | with_reducible assumption
    | with_reducible apply State.refuseWrite_sound
    | with_reducible apply State.reportClamps_sound
    | with_reducible apply State.setReg_sound
    | with_reducible apply State.afterWrite_sound
    | with_reducible apply State.restartChecks_sound
    | with_reducible apply foldl_sound
    | (intro _; intros; try dsimp only)
    | split
    | with_reducible apply State.mk_sound

theorem doBar0BadSizeAccess_sound {offset : Nat} {size : Nat} {write : Bool} {s : State} (h : s.Sound) : (doBar0BadSizeAccess offset size write s).Sound := by
  unfold doBar0BadSizeAccess
  try dsimp only
  repeat' first
    | with_reducible assumption
    | with_reducible apply State.answer_sound
    | with_reducible apply State.raise_sound
    | with_reducible apply foldl_sound
    | (intro _; intros; try dsimp only)
    | split
    | with_reducible apply State.mk_sound

theorem doReservedRangeAccess_sound {offset : Nat} {write : Bool} {s : State} (h : s.Sound) : (doReservedRangeAccess offset write s).Sound := by
  unfold doReservedRangeAccess
  try dsimp only
  repeat' first
    | with_reducible assumption
    | with_reducible apply State.answer_sound
    | with_reducible apply State.raise_sound
    | with_reducible apply foldl_sound
    | (intro _; intros; try dsimp only)
    | split
    | with_reducible apply State.mk_sound

theorem doPairLowRead_sound {offset : Nat} {s : State} (h : s.Sound) : (doPairLowRead offset s).Sound := by
  unfold doPairLowRead
  try dsimp only
  repeat' first
    | with_reducible assumption
    | with_reducible apply State.answer_sound
    | with_reducible apply foldl_sound
    | (intro _; intros; try dsimp only)
    | split
    | with_reducible apply State.mk_sound

theorem doPairLowWrite_sound {offset : Nat} {value : Word} {s : State} (h : s.Sound) : (doPairLowWrite offset value s).Sound := by
  unfold doPairLowWrite
  try dsimp only
  repeat' first
    | with_reducible assumption
    | with_reducible apply foldl_sound
    | (intro _; intros; try dsimp only)
    | split
    | with_reducible apply State.mk_sound

theorem State.takePair_sound {s : State} {lo : Nat} {v : Nat} (h : s.Sound) : (State.takePair s lo v).Sound := by
  unfold State.takePair
  try dsimp only
  repeat' first
    | with_reducible assumption
    | with_reducible apply State.setPair_sound
    | with_reducible apply foldl_sound
    | (intro _; intros; try dsimp only)
    | split
    | with_reducible apply State.mk_sound

theorem State.writePair_sound {s : State} {lo : Nat} {hi : Nat} (h : s.Sound) : (State.writePair s lo hi).Sound := by
  unfold State.writePair
  try dsimp only
  repeat' first
    | with_reducible assumption
    | with_reducible apply State.refuseWrite_sound
    | with_reducible apply State.takePair_sound
    | with_reducible apply State.regrid_sound
    | with_reducible apply State.restartChecks_sound
    | with_reducible apply foldl_sound
    | (intro _; intros; try dsimp only)
    | split
    | with_reducible apply State.mk_sound

theorem doPairHighWrite_sound {offset : Nat} {value : Word} {s : State} (h : s.Sound) : (doPairHighWrite offset value s).Sound := by
  unfold doPairHighWrite
  try dsimp only
  repeat' first
    | with_reducible assumption
    | with_reducible apply State.writePair_sound
    | with_reducible apply foldl_sound
    | (intro _; intros; try dsimp only)
    | split
    | with_reducible apply State.mk_sound

theorem doTickStartWrite_sound {p : Nat} {hi : Word} {s : State} (h : s.Sound) : (doTickStartWrite p hi s).Sound := by
  unfold doTickStartWrite
  try dsimp only
  repeat' first
    | with_reducible assumption
    | with_reducible apply State.refuseWrite_sound
    | with_reducible apply State.takePair_sound
    | with_reducible apply foldl_sound
    | (intro _; intros; try dsimp only)
    | split
    | with_reducible apply State.mk_sound

theorem doRegisterWrite_sound {offset : Nat} {value : Word} {s : State} (h : s.Sound) : (doRegisterWrite offset value s).Sound := by
  unfold doRegisterWrite
  try dsimp only
  repeat' first
    | with_reducible assumption
    | with_reducible apply State.writeReg_sound
    | with_reducible apply foldl_sound
    | (intro _; intros; try dsimp only)
    | split
    | with_reducible apply State.mk_sound

theorem doPoolConfigWrite_sound {p : Nat} {pool : Nat} {value : Word} {s : State} (h : s.Sound) : (doPoolConfigWrite p pool value s).Sound := by
  unfold doPoolConfigWrite
  try dsimp only
  repeat' first
    | with_reducible assumption
    | with_reducible apply State.writeReg_sound
    | with_reducible apply foldl_sound
    | (intro _; intros; try dsimp only)
    | split
    | with_reducible apply State.mk_sound

theorem doSealedSizeWrite_sound {value : Word} {s : State} (h : s.Sound) : (doSealedSizeWrite value s).Sound := by
  unfold doSealedSizeWrite
  try dsimp only
  repeat' first
    | with_reducible assumption
    | with_reducible apply State.writeReg_sound
    | with_reducible apply foldl_sound
    | (intro _; intros; try dsimp only)
    | split
    | with_reducible apply State.mk_sound

theorem doPowerCapWrite_sound {value : Word} {s : State} (h : s.Sound) : (doPowerCapWrite value s).Sound := by
  unfold doPowerCapWrite
  try dsimp only
  repeat' first
    | with_reducible assumption
    | with_reducible apply State.writeReg_sound
    | with_reducible apply foldl_sound
    | (intro _; intros; try dsimp only)
    | split
    | with_reducible apply State.mk_sound

theorem doGroupFreezeWrite_sound {value : Word} {s : State} (h : s.Sound) : (doGroupFreezeWrite value s).Sound := by
  unfold doGroupFreezeWrite
  try dsimp only
  repeat' first
    | with_reducible assumption
    | with_reducible apply State.refuseWrite_sound
    | with_reducible apply State.modGroup_sound
    | with_reducible apply foldl_sound
    | (intro _; intros; try dsimp only)
    | split
    | with_reducible apply State.mk_sound

theorem doCounterClear_sound {offset : Nat} {value : Word} {s : State} (h : s.Sound) : (doCounterClear offset value s).Sound := by
  unfold doCounterClear
  try dsimp only
  repeat' first
    | with_reducible assumption
    | with_reducible apply State.clearCounter_sound
    | with_reducible apply foldl_sound
    | (intro _; intros; try dsimp only)
    | split
    | with_reducible apply State.mk_sound

theorem doLayerReplaysClear_sound {value : Word} {s : State} (h : s.Sound) : (doLayerReplaysClear value s).Sound := by
  unfold doLayerReplaysClear
  try dsimp only
  repeat' first
    | with_reducible assumption
    | with_reducible apply State.modLayer_sound
    | with_reducible apply foldl_sound
    | (intro _; intros; try dsimp only)
    | split
    | with_reducible apply State.mk_sound

theorem State.withFetchWord_sound {s : State} {nbits : Nat} {w : Nat} (h : s.Sound) : (State.withFetchWord s nbits w).Sound := by
  unfold State.withFetchWord
  try dsimp only
  repeat' first
    | with_reducible assumption
    | with_reducible apply foldl_sound
    | (intro _; intros; try dsimp only)
    | split
    | with_reducible apply State.mk_sound

end Sys2Proof.Machine
end

