-- ==== Sys2Proof/WellFormed.lean ====
section
/-! DEFINITION. Well-formed commands: the numbers of units, partitions, rings, ports, pools and graphs that exist on
some module of the series (R1), BAR0 offsets inside its 64 MiB (R62), and byte strings of the lengths the manual gives. -/

namespace Sys2Proof

/-- A packet's header is 32 bytes, its data at most 4,096 bytes and its tag absent or 16 bytes (R305). -/
def Packet.wf (k : Packet) : Bool :=
  decide (k.header.length = 32) && decide (k.data.length ≤ 4096) && (k.tag.isEmpty || k.tag.length == 16)

/-- The operands of a command name things that exist. -/
def Instr.wf (i : Instr) : Bool :=
  match i with
  | .bar0BadSizeAccess offset _ _ => decide (offset < 2 ^ 26)
  | .reservedRangeAccess offset _ => decide (offset < 2 ^ 26)
  | .pairLowRead offset => decide (offset < 2 ^ 26)
  | .pairLowWrite offset _ => decide (offset < 2 ^ 26)
  | .pairHighWrite offset _ => decide (offset < 2 ^ 26)
  | .registerWrite offset _ => decide (offset < 2 ^ 26)
  | .counterClear offset _ => decide (offset < 2 ^ 26)
  | .layerReplaysClear _ => true
  | .tickStartWrite p _ => decide (p < 4)
  | .withdraw p => decide (p < 4)
  | .planWithdrawal p => decide (p < 4)
  | .shutterTick p _ => decide (p < 4)
  | .stepZeroStart p => decide (p < 4)
  | .stepEnd p => decide (p < 4)
  | .stepHeld p => decide (p < 4)
  | .stepHoldLimit p => decide (p < 4)
  | .promotionExpiry p _ => decide (p < 4)
  | .completionNotice p _ => decide (p < 4)
  | .timeLockTimeout p => decide (p < 4)
  | .doorbellTail ring _ => decide (ring < 64)
  | .doorbellCompletionHead ring _ => decide (ring < 64)
  | .doorbellBad ring _ _ _ => decide (ring < 64)
  | .winAccessBad _ _ _ => true
  | .descriptorFetch ring bytes _ => decide (ring < 64) && decide (bytes.length = 128)
  | .nop ring => decide (ring < 64)
  | .loadPlan ring => decide (ring < 64)
  | .admitPlan ring => decide (ring < 64)
  | .lightMeterDone p => decide (p < 4)
  | .unloadPlan ring => decide (ring < 64)
  | .copyIn ring => decide (ring < 64)
  | .copyOut ring => decide (ring < 64)
  | .copyDone ring _ _ _ => decide (ring < 64)
  | .fence ring => decide (ring < 64)
  | .contextOpen ring => decide (ring < 64)
  | .contextFork ring => decide (ring < 64)
  | .contextClose ring => decide (ring < 64)
  | .contextApply p => decide (p < 4)
  | .clearTableLoad ring => decide (ring < 64)
  | .clearTableMakeCurrent ring => decide (ring < 64)
  | .clearTableDiscard ring => decide (ring < 64)
  | .clearTableApply p => decide (p < 4)
  | .clearGenFreed p gen => decide (p < 4) && decide (gen < 16)
  | .dictionaryLoad ring => decide (ring < 64)
  | .dictionaryLoadDone unit bank => decide (unit < 2) && decide (bank < 2)
  | .dictionaryActivate ring => decide (ring < 64)
  | .dictionaryActivateApply p => decide (p < 4)
  | .reshardPrepare ring => decide (ring < 64)
  | .reshardCommit ring => decide (ring < 64)
  | .reshardCancel ring => decide (ring < 64)
  | .reshardBoundary p => decide (p < 4)
  | .epochDrainTimeout p port => decide (p < 4) && decide (port < 48)
  | .secure ring => decide (ring < 64)
  | .completionWrite ring _ => decide (ring < 64)
  | .ringReset ring => decide (ring < 64)
  | .ringResetDone ring => decide (ring < 64)
  | .poolConfigWrite p pool _ => decide (p < 4) && decide (pool < 16)
  | .slotFlip p pool _ _ => decide (p < 4) && decide (pool < 16)
  | .slotTimeout p pool _ => decide (p < 4) && decide (pool < 16)
  | .windowWrite p _ _ => decide (p < 4)
  | .windowRead p _ _ => decide (p < 4)
  | .taskIssue core => decide (core < 64)
  | .tokenReceived core graph _ => decide (core < 64) && decide (graph < 16)
  | .creditReceived p _ => decide (p < 4)
  | .taskCompletion p graph _ => decide (p < 4) && decide (graph < 16)
  | .tilingRecord core _ => decide (core < 64)
  | .shapeSearchDone core _ => decide (core < 64)
  | .matrixProduct core => decide (core < 64)
  | .dataGradientProduct core => decide (core < 64)
  | .weightGradientProduct core => decide (core < 64)
  | .attentionForward core => decide (core < 64)
  | .attentionBackward core => decide (core < 64)
  | .convForward core => decide (core < 64)
  | .convDataGradient core => decide (core < 64)
  | .convWeightGradient core => decide (core < 64)
  | .cropAndResize core => decide (core < 64)
  | .channelArgmax core => decide (core < 64)
  | .vectorKernel core => decide (core < 64)
  | .gather core => decide (core < 64)
  | .scatter core => decide (core < 64)
  | .scatterAdd core => decide (core < 64)
  | .expertDispatch core => decide (core < 64)
  | .variantDispatch core => decide (core < 64)
  | .expertDispatchBackward core => decide (core < 64)
  | .variantDispatchBackward core => decide (core < 64)
  | .expertCombine core => decide (core < 64)
  | .variantCombine core => decide (core < 64)
  | .expertCombineBackward core => decide (core < 64)
  | .variantCombineBackward core => decide (core < 64)
  | .offload core => decide (core < 64)
  | .fetch core => decide (core < 64)
  | .encode core => decide (core < 64)
  | .decode core => decide (core < 64)
  | .recode core => decide (core < 64)
  | .fabricSend core => decide (core < 64)
  | .fabricReceive core => decide (core < 64)
  | .localCopy core => decide (core < 64)
  | .reduction core => decide (core < 64)
  | .groupUpdate core => decide (core < 64)
  | .takeBatch core => decide (core < 64)
  | .emitOutput core => decide (core < 64)
  | .join core => decide (core < 64)
  | .queuePtrMismatch _ _ _ => true
  | .coreFailed core => decide (core < 64)
  | .d2dTransferFail _ ends _ => decide (ends.die < 4) && decide (ends.other < 4)
  | .uncorrectableError _ => true
  | .hbmRowFailure stack _ => decide (stack < 12)
  | .portTrained port _ _ => decide (port < 48)
  | .portTrainingTimeout port => decide (port < 48)
  | .laneFailure port lane => decide (port < 48) && decide (lane.lane < 9)
  | .portTakeDown port => decide (port < 48)
  | .flitReceive port _ => decide (port < 48)
  | .flitReplay port _ => decide (port < 48)
  | .controlFlit port _ => decide (port < 48)
  | .outputArbitration port => decide (port < 48)
  | .packetRelay port pkt => decide (port < 48) && pkt.wf
  | .dataPacket port pkt => decide (port < 48) && pkt.wf
  | .reductionPartial port pkt => decide (port < 48) && pkt.wf
  | .reductionResult port pkt => decide (port < 48) && pkt.wf
  | .sideband port pkt => decide (port < 48) && pkt.wf
  | .fenceMarker port pkt => decide (port < 48) && pkt.wf
  | .routeSwitch port pkt => decide (port < 48) && pkt.wf
  | .routeSwitchApply p _ => decide (p < 4)
  | .landingCredit port pkt => decide (port < 48) && pkt.wf
  | .slotWindowStart p _ => decide (p < 4)
  | .lateTransmit p _ => decide (p < 4)
  | .bulkMirrorData port pkt => decide (port < 48) && pkt.wf
  | .bulkMirrorSeal port pkt => decide (port < 48) && pkt.wf
  | .takeoverRequest port pkt => decide (port < 48) && pkt.wf
  | .takeoverWrite _ => true
  | .itemRequest port pkt => decide (port < 48) && pkt.wf
  | .itemData port pkt => decide (port < 48) && pkt.wf
  | .itemSealRecord port pkt => decide (port < 48) && pkt.wf
  | .takeoverDone p => decide (p < 4)
  | .recoveryImageRequest port pkt => decide (port < 48) && pkt.wf
  | .recoveryImageData port pkt => decide (port < 48) && pkt.wf
  | .recoveryImageEnd port pkt => decide (port < 48) && pkt.wf
  | .recoveryPoll => true
  | .sampleStart unit => decide (unit < 2)
  | .sampleConverted unit _ _ => decide (unit < 2)
  | .sampleSlow unit _ => decide (unit < 2)
  | .reserveCopyDone unit _ => decide (unit < 2)
  | .sweepStart p => decide (p < 4)
  | .sweepDone p => decide (p < 4)
  | .privilegedCopy p _ => decide (p < 4)
  | .sealWritten p _ => decide (p < 4)
  | .mirrorSend p _ => decide (p < 4)
  | .drainComplete p => decide (p < 4)
  | .planResume p => decide (p < 4)
  | .handoverSent p => decide (p < 4)
  | .admissionRestoreDone p => decide (p < 4)
  | .negStoreWipeDone => true
  | .sealedSizeWrite _ => true
  | .groupFreezeWrite _ => true
  | .throttleEval _ => true
  | .powerCapWrite _ => true
  | .busDroop _ => true
  | .busNormal _ => true
  | .busLow _ => true
  | .busLowRecover _ => true
  | .busFail _ _ => true
  | .busSurge _ _ => true
  | .busReturn _ => true
  | .thermalTrip sensor _ => decide (sensor < 128)
  | .coolantCheck _ _ => true
  | .powerStateEntry _ _ => true
  | .powerStateExit _ _ => true
  | .orderlyShutdown _ _ => true
  | .shutdownTestDeferred _ _ => true
  | .warmReset _ _ _ => true
  | .watchdogReset _ => true
  | .startUp _ => true
  | .hostPortReset _ => true
  | .mbxStatus => true
  | .mbxImageBegin => true
  | .mbxImageData => true
  | .mbxImageEnd => true
  | .mbxAbort => true
  | .pldmFirmwareUpdate _ => true
  | .getVersion _ => true
  | .getCapabilities _ => true
  | .negotiateAlgorithms _ _ => true
  | .getDigests _ => true
  | .getCertificate _ _ _ => true
  | .challenge _ _ => true
  | .getMeasurements _ _ _ => true
  | .keyExchange _ _ => true
  | .finish _ _ => true
  | .heartbeat _ => true
  | .heartbeatTimeout _ => true
  | .keyUpdate _ _ => true
  | .endSession _ => true
  | .chunkSend _ _ _ _ => true
  | .chunkGet _ _ => true
  | .unsupportedRequest _ _ => true
  | .bindPartition _ p => decide (p < 4)
  | .setProtected _ p _ => decide (p < 4)
  | .setFabricKey _ p _ => decide (p < 4)
  | .sealBind _ => true
  | .unsealRegion _ => true
  | .setView _ _ => true
  | .setPartitionMap _ _ => true
  | .lifecycle _ _ _ => true
  | .takeOwnership _ => true
  | .vendorReset _ _ => true
  | .gradeRecord _ _ => true
  | .scanEnable _ => true
  | .eventCollect _ => true
  | .interruptCoalesceDelay ring => decide (ring < 64)

end Sys2Proof
end

