-- ==== Sys2Proof/Tests/Slice0.lean ====
section
/-! SUPPORT. Tests: ill-formed commands that WellFormed refuses, and for every statement that has hypotheses a concrete
state and operands that meet them. -/

set_option Elab.async false

open Sys2Proof Sys2Proof.Machine

namespace Sys2Proof.Tests

/-! ### Small states -/

/-- The module after reset, ready. -/
def ready : State := State.reset.set Reg.secBootStatus_ready 1

/-- The module with a field of its registers changed. -/
def withField (f : Fld) (v : Nat) : State := ready.set f v

/-- Partition 0 of the ready module changed. -/
def withPart (f : Part → Part) : State := ready.modPart 0 f

/-- A task on core 0 alone, in exposure 0, outside every layer. -/
def task (op : Nat) (params : List Byte) (tensors : List Nat) : Machine.Task :=
  ⟨op, 0, 0, 0, 0, 1, noLayer, [], noQueue, noQueue, tensors, params⟩

/-- A dense tensor in HBM. -/
def tensor (base dtype : Nat) (dims : List Nat) : Tensor :=
  ⟨base, dtype, dims.length, 0, 0, 0, 0, dims, (dims.foldl (fun (a : List Nat × Nat) d => (a.1 ++ [a.2], a.2 * d)) ([], 1)).1, 0⟩

/-- A plan of one graph, for partition 0. -/
def plan (tasks : List Machine.Task) (tensors : List Tensor) (sections : List (Nat × List Byte) := []) : Plan :=
  ⟨1, 0, 4, 2, 0, 0, [⟨0, tasks, tensors⟩], sections⟩

/-- Partition 0 runs a step of a plan. -/
def inStep (pl : Plan) (f : Part → Part := id) : State :=
  { ready with plans := [pl] }.modPart 0 (fun q => f { q with phase := .running, plan := some 1, started := true })

/-- Core 0 runs task 0 of graph 0 of that plan. -/
def runs (pl : Plan) (f : Part → Part := id) : State :=
  (inStep pl f).modCore 0 (fun k => { k with running := some (0, 0) })

/-- Bytes with little-endian fields: offset, width and value. -/
def fields (n : Nat) (fs : List (Nat × Nat × Nat)) : List Byte :=
  fs.foldl (fun b f => patch b f.1 (leBytes f.2.2 f.2.1)) (List.replicate n 0)

/-! ### Ill-formed commands -/

/-- A packet whose header is short. -/
def shortPacket : Packet := ⟨[], [], [], 0⟩

theorem test_wf_refuses :
    (Instr.registerWrite (2 ^ 26) 0).wf = false ∧ (Instr.shutterTick 4 ⟨0, 0, 0⟩).wf = false ∧ (Instr.doorbellTail 64 0).wf = false ∧
    (Instr.descriptorFetch 0 [] 0).wf = false ∧ (Instr.clearGenFreed 0 16).wf = false ∧ (Instr.dictionaryLoadDone 2 0).wf = false ∧
    (Instr.dictionaryLoadDone 0 2).wf = false ∧ (Instr.slotFlip 0 16 0 0).wf = false ∧ (Instr.taskIssue 64).wf = false ∧
    (Instr.tokenReceived 0 16 0).wf = false ∧ (Instr.d2dTransferFail 0 ⟨4, 0⟩ 0).wf = false ∧ (Instr.hbmRowFailure 12 0).wf = false ∧
    (Instr.portTrained 48 0 0).wf = false ∧ (Instr.laneFailure 0 ⟨9, 0, 0⟩).wf = false ∧ (Instr.dataPacket 0 shortPacket).wf = false ∧
    (Instr.dataPacket 0 { shortPacket with header := List.replicate 32 0, tag := [0] }).wf = false ∧
    (Instr.thermalTrip 128 0).wf = false ∧ (Instr.sampleStart 2).wf = false := by decide

theorem test_wf_accepts :
    (Instr.registerWrite (2 ^ 26 - 4) 0).wf = true ∧ (Instr.doorbellTail 63 0).wf = true ∧ (Instr.taskIssue 63).wf = true ∧
    (Instr.dataPacket 47 { shortPacket with header := List.replicate 32 0 }).wf = true ∧
    (Instr.descriptorFetch 0 (List.replicate 128 0) 0).wf = true := by decide

/-! ### Worked examples of the manual -/

/-- The example of 17_events_index.md: the bytes of an EV_LAYER_REPLAY record (R17, R434). -/
theorem test_event_record_bytes :
    let b := (EventRec.bytes ⟨⟨0, 0x203, 5, 0x11, 1⟩, 0x0401, 1, 1, 20, 3301, 2, 18400, 0⟩).map BitVec.toNat
    b.take 8 = [0x01, 0x11, 0x00, 0x00, 0x05, 0x30, 0x20, 0x00] ∧
    b.drop 16 = [0x01, 0x04, 0x11, 0x14, 0x00, 0xE5, 0x0C, 0x02, 0, 0, 0, 0xE0, 0x47, 0, 0, 0] ∧
    Ev.layerReplay.code = 0x0401 := by decide

/-- The example of 05_numerics.md: the choice of a layer's gradient scale (R147). -/
theorem test_gradient_scale : chooseE 15 118 1 = 22 := by decide

/-- The example of 10_activation_ledger.md: the tag of a coded block (R259). -/
theorem test_block_tag : tagOf 1 5 47 = 0x3BD5 ∧ tagBad 0x3BD5 = false ∧ tagUnits 0x3BD5 = 47 := by decide

/-- The example of 13_intake.md: the sizes of a frame sample, a ring buffer and a reserve entry (R342, R352). -/
theorem test_intake_sizes :
    (FrameHeader.payload ⟨0, 1, 0, 8, 512, 512, 32, 0, 0, true⟩ = 12582976) ∧
    (let k := TakePar.ofBytes (fields 64 [(0, 1, 1), (1, 1, 1), (3, 1, 0x08), (4, 2, 8), (6, 1, 8), (8, 2, 512), (10, 2, 512),
        (12, 2, 32), (14, 1, 2)])
     k.rowBytes = 50331648 ∧ k.bufferBytes = 402653888 ∧ k.entryBytes = 50331712) := by decide +kernel

/-- The example of 14_survival.md: the risk of two exposures with the default weights (R363). -/
theorem test_risk :
    let s := (((State.reset.set (Reg.survInputScore 0) 200).set (Reg.survInputScore 6) 85).set (Reg.survInputScore 7) 256).set
      (Reg.survInputScore 9) 63
    (s.set (Reg.survInputScore 3) 640).riskNow = 1023 ∧ s.riskNow = 669 := by decide +kernel

/-- The example of 15_power.md: the power estimate of a flagship at two floors, in whole watts rounded up (R391). -/
theorem test_power_estimate :
    (State.reset.fitted.estimate 30).up = 2019 ∧ (State.reset.fitted.estimate 29).up = 1962 := by decide +kernel

/-- The example of FIPS 197, appendix C.3, on the block cipher of R419 and R420 (log entry 30). -/
theorem test_block_cipher :
    let ks := roundKeys ((List.range 32).map (BitVec.ofNat 8))
    let plain := (List.range 16).map (· * 0x11)
    let coded := [0x8E, 0xA2, 0xB7, 0xCA, 0x51, 0x67, 0x45, 0xBF, 0xEA, 0xFC, 0x49, 0x90, 0x4B, 0x49, 0x60, 0x89]
    encipherBlock ks plain = coded ∧ decipherBlock ks coded = plain := by decide +kernel

/-- What reset leaves (R21, R405): no partition has a plan, nothing waits, and the rings are disabled. -/
theorem test_reset :
    State.reset.allIdle = true ∧ State.reset.pending = [] ∧ State.reset.flag (Reg.ringControl_enable 0) = false := by decide +kernel

/-- An empty queue: the block idles, and fabric time stands until it is locked (log entry 3). -/
theorem test_step_idle : step State.reset = .next State.reset := rfl

/-! ### The step, its frame and its invariant -/

theorem witness_StepRunsTheFrontCommand :
    ({ ready with pending := [.nop 0] } : State).pending = .nop 0 :: [] ∧ ready.pending = [] ∧ ready.time.everLocked = false ∧
    ready.power.offDue = false ∧ ready.trust.writing = none ∧
    (let s := { ready with time := { ready.time with everLocked := true } }
     s.pending = [] ∧ s.power.offDue = false ∧ s.trust.writing = none ∧ s.time.everLocked = true ∧ s.time.slew = 0) := by decide +kernel

theorem witness_EveryCommandCompletes :
    ({ ready with power := { ready.power with off := true } } : State).power.off = true ∧
    (∀ mv, Instr.nop 0 ≠ .busReturn mv) ∧ 45999 < 46000 :=
  ⟨rfl, fun _ h => Instr.noConfusion h, by decide⟩

theorem witness_EveryCommandKeepsItsFrame : exec (.nop 0) State.reset = .next State.reset := rfl

theorem witness_EveryStepKeepsSoundness : State.reset.Sound ∧ step State.reset = .next State.reset :=
  ⟨State.reset_sound, rfl⟩

theorem witness_ResetStateIsSound : lookup builtRegs 0x100010 = none ∧ RegMap.resetOf 0x100010 = 500 := by decide +kernel

theorem witness_FormatsHaveTheirLimits : 0xFFFF < 2 ^ 16 := by decide

/-! ### Registers, events and counters -/

theorem witness_MemoryReadsWhatWasWritten : Memory.wf [(4, 7)] = true := by decide +kernel

theorem witness_EventsAreStamped : ready.seq < seqFull ∧
    ({ ready with seq := seqFull } : State).seq = seqFull ∧ ({ ready with seq := seqFull } : State).seqReported = false ∧
    ({ ready with seq := seqFull, seqReported := true } : State).seqReported = true := by decide +kernel

/-- One counter of the module stands at `n`. -/
def counting (n : Nat) : State := { ready with counters := [(Ctr.numReplayCount, n)] }

theorem witness_CountersSaturate : (counting 5).counter Ctr.numReplayCount + 1 < counterMax ∧
    (counting 5).counter Ctr.numReplayCount < counterMax ∧ counterMax ≤ (counting 5).counter Ctr.numReplayCount + counterMax ∧
    (counting counterMax).counter Ctr.numReplayCount = counterMax := by decide +kernel

theorem witness_CountersSaturate_clear : ready.power.off = false ∧ ready.takesWrite 0x500070 = true ∧
    (∃ l, RegMap.clearedBy 0x500070 = some l ∧ l[0]? = some Ctr.numReplayCount) ∧ bitAt 0x41 0 = 1 ∧ bitAt 0x41 6 = 1 := by
  refine ⟨by decide +kernel, by decide +kernel, ⟨_, rfl, by decide +kernel⟩, by decide +kernel, by decide +kernel⟩

theorem witness_BadRegisterAccessesOnlyReport : ready.power.off = false ∧ ¬ (2 = 4 ∧ 0 % 4 = 0) ∧ ready.answers 0 = true ∧
    0x400000 % 4 = 0 ∧ isReserved 0x400000 = true ∧ ready.answers 0x400000 = true ∧
    State.reset.power.off = false ∧ State.reset.answers 0x400000 = false := by decide +kernel

theorem witness_WindowEdgesAnswerAllOnes : ready.power.off = false ∧ 2 ^ 18 ≤ 2 ^ 18 ∧ 2 ^ 18 < 2 ^ 20 ∧ 3 < 4 ∧
    2 ^ 36 - 1 < 2 ^ 36 ∧ ready.winBytes 3 ≤ 2 ^ 36 - 1 ∧ ready.winBytes 3 ≤ 0 := by decide +kernel

theorem witness_PairsActAsOne : ready.power.off = false ∧ 0x200000 % 4 = 0 ∧ RegMap.isPairLo 0x200000 = true ∧
    ready.takesWrite 0x200000 = true ∧ ready.takesWrite 0x200004 = true ∧ pairWritten 0x200000 = true ∧
    (List.range 4).any (fun p => Reg.tickStart p == 0x200000) = false ∧
    (lookup ready.held 0x200000).getD (ready.reg 0x200000) < 2 ^ 32 ∧ ready.rwaBlocked 0x200000 = false ∧
    ready.pairUnsound 0x200000 (ready.formed 0x200000 1) = false := by decide +kernel

/-- The pair TICK_ORIGIN of partition 0, an RWA pair: stored while no plan is admitted, kept its value, refused else. -/
theorem witness_PairsActAsOne_rwa :
    let s := inStep (plan [] [])
    (RegMap.fieldsAt 0x100008).any (fun f => f.acc == .rwa) = true ∧ pairWritten 0x100008 = true ∧
    s.takesWrite 0x10000C = true ∧ (List.range 4).any (fun p => Reg.tickStart p == 0x100008) = false ∧
    ready.rwaBlocked 0x100008 = false ∧ s.formed 0x100008 0 = s.pair 0x100008 ∧
    s.formed 0x100008 1 ≠ s.pair 0x100008 ∧ s.rwaBlocked 0x100008 = true := by decide +kernel

theorem witness_PairsActAsOne_refused :
    (withField (Reg.ringControl_enable 0) 1).takesWrite 0x200004 = true ∧ pairWritten 0x200000 = true ∧
    (List.range 4).any (fun p => Reg.tickStart p == 0x200000) = false ∧
    (withField (Reg.ringControl_enable 0) 1).pairUnsound 0x200000
      ((withField (Reg.ringControl_enable 0) 1).formed 0x200000 1) = true := by decide +kernel

theorem witness_WritesFollowAccessCodes :
    (∃ f ∈ RegMap.fieldsAt 0x10002C, f.acc = .ro) ∧ (∃ f ∈ RegMap.fieldsAt 0x10002C, f.acc = .w1c) ∧
    (∃ f ∈ RegMap.fieldsAt 0x500004, f.acc = .rw ∧ f.judge 0x500004 65535 = .keep 65535 ∧ f.judge 0x500004 0 = .clamp 1) ∧
    (∃ f ∈ RegMap.fieldsAt 0x100010, f.acc = .rwa ∧ f.judge 0x100010 20 = .keep 20 ∧ f.judge 0x100010 19 = .refuse) := by
  decide +kernel

theorem witness_RegisterWriteStores : ready.power.off = false ∧ ready.takesWrite 0x500004 = true ∧
    RegMap.isPairLo 0x500004 = false ∧ RegMap.isPairHi 0x500004 = false ∧ ownRow 0x500004 = false ∧
    (attempt 0x500004 (ready.reg 0x500004) 8).refused = false ∧ (attempt 0x500004 (ready.reg 0x500004) 8).rwa = false ∧
    ready.unsound 0x500004 (attempt 0x500004 (ready.reg 0x500004) 8).value 8 = false := by decide +kernel

theorem witness_RegisterWriteStores_refused : ready.takesWrite 0x100010 = true ∧ RegMap.isPairLo 0x100010 = false ∧
    RegMap.isPairHi 0x100010 = false ∧ ownRow 0x100010 = false ∧
    (attempt 0x100010 (ready.reg 0x100010) 19).refused = true ∧
    (attempt 0x100010 (ready.reg 0x100010) 20).rwa = true ∧ (inStep (plan [] [])).rwaBlocked 0x100010 = true := by decide +kernel

theorem witness_RegisterWriteStores_rows : ready.takesWrite (0x300108 + 0x1000 * 3 + 0x20 * 15) = true ∧
    ready.takesWrite 0x600000 = true ∧ ready.takesWrite 0xC00000 = true := by decide +kernel

/-- Partition 0 ADMITTED, in exposure 7. -/
def admitted (pl : Plan) (f : Part → Part := id) : State :=
  { ready with plans := [pl] }.modPart 0 (fun q => f { q with
    phase := .admitted, plan := some 1, started := true, exposure := 7, nextTick := 8 })

theorem witness_TickStartNeedsTwoExposures :
    let s := admitted (plan [] [])
    let late := { s with held := [(Reg.tickStart 0, 9)] }
    let early := { s with held := [(Reg.tickStart 0, 8)] }
    s.power.off = false ∧ s.takesWrite (Reg.tickStart 0) = true ∧ (s.part 0).phase = .admitted ∧ (s.part 0).started = true ∧
    (s.part 0).exposure + 2 ≤ late.formed (Reg.tickStart 0) 0 ∧ s.standby = false ∧ (s.part 0).fixer.admission = false ∧
    early.formed (Reg.tickStart 0) 0 < (s.part 0).exposure + 2 ∧ (ready.part 0).phase ≠ .admitted ∧
    s.formed (Reg.tickStart 0) 0 < 2 ∧
    (let t := { admitted (plan [] []) (fun q => { q with started := false }) with held := [(Reg.tickStart 0, 2)] }
     (t.part 0).phase = .admitted ∧ (t.part 0).started = false ∧ 0 + 2 ≤ t.formed (Reg.tickStart 0) 0) ∧
    (late.set Reg.survSpareControl_standby 1).standby = true ∧
    ((admitted (plan [] []) (fun q => { q with fixer := { q.fixer with admission := true } })).part 0).fixer.admission = true := by decide +kernel

/-! ### Rings, copies and slots -/

/-- Ring 0 enabled and running for partition 0, with room for completions, changed. -/
def ring (f : Ring → Ring) : State :=
  ((((ready.set (Reg.ringControl_enable 0) 1).set (Reg.ringStatus_state 0) 1).set (Reg.ringTail 0) 1).modRing 0 f)

/-- A started descriptor with these bytes. -/
def desc (bs : List Nat) (begun : Bool := false) : Started := ⟨0, (bs.map (BitVec.ofNat 8)) ++ List.replicate (128 - bs.length) 0, begun⟩

/-- Ring 0 has started that descriptor. -/
def started (bs : List Nat) (begun : Bool := false) : State := ring (fun r => { r with started := [desc bs begun], nextSeq := 1 })

theorem witness_RingsFollowTheirDoorbells :
    let s := ring id
    s.power.off = false ∧ s.flag (Reg.ringControl_enable 63) = false ∧ s.flag (Reg.ringControl_enable 0) = true ∧
    countDiff (s.descSize 0) (s.get (Reg.ringHead 0)) ≤ s.descSize 0 ∧
    countDiff (s.descSize 0) (s.get (Reg.ringTail 0)) ≤ s.descSize 0 ∧
    s.descSize 0 < countDiff (s.descSize 0 + 1) (s.get (Reg.ringHead 0)) ∧
    countDiff (s.get (Reg.ringCplTail 0)) 0 ≤ s.cplSize 0 ∧ s.cplSize 0 < countDiff (s.get (Reg.ringCplTail 0)) 1 ∧
    ¬ ((4 = 0 ∨ 4 = 8) ∧ 4 = 4) := by decide +kernel

theorem witness_RingsFollowTheirDoorbells_reset :
    (withField (Reg.ringStatus_state 0) 3).get (Reg.ringStatus_state 0) = 3 ∧
    ((withField (Reg.ringStatus_state 0) 3).ring 0).allDone = true ∧
    ((ring (fun r => { r with irqPending := 1 })).ring 0).irqPending ≠ 0 := by decide +kernel

theorem witness_DescriptorsAreFetchedAndStarted :
    let s := ring id
    s.power.off = false ∧ s.mayFetch 0 = true ∧ (desc [1]).bytes.length = 128 ∧
    bitAt (fieldAt (desc [1]).bytes 1 1) 1 = 0 ∧ (desc [1]).opcode ∈ opcodes ∧ (desc [1]).badHeader = none ∧
    (desc [0xFF]).opcode ∉ opcodes ∧ (desc [1, 4]).opcode ∈ opcodes ∧ (desc [1, 4]).badHeader = some 1 ∧
    bitAt (fieldAt (desc [1, 4]).bytes 1 1) 1 = 0 := by decide +kernel

theorem witness_DescriptorsAreFetchedAndStarted_fenced :
    let s := started [1]
    s.mayFetch 0 = true ∧ bitAt (fieldAt (desc [1, 2]).bytes 1 1) 1 = 1 ∧ (s.ring 0).allDone = false := by decide +kernel

theorem witness_DescriptorsAreFetchedAndStarted_nop :
    (started [1]).findOp 0 0x01 = some (desc [1]) ∧ (desc [1]).strayOperand [] = none ∧
    (desc (List.replicate 17 1)).strayOperand [] = some 16 ∧
    (started (List.replicate 17 1)).findOp 0 0x01 = some (desc (List.replicate 17 1)) := by decide +kernel

theorem witness_DescriptorsAreFetchedAndStarted_fence :
    let s := ring (fun r => { r with started := [desc [1], { desc [7] with seq := 1 }] })
    (started [7]).findOp 0 0x07 = some (desc [7]) ∧ (desc [7]).strayOperand [] = none ∧
    (∀ x ∈ ((started [7]).ring 0).started, (desc [7]).seq ≤ x.seq) ∧ ((started [7]).ring 0).ready = [] ∧
    s.findOp 0 0x07 = some { desc [7] with seq := 1 } ∧ desc [1] ∈ (s.ring 0).started ∧ (desc [1]).seq < 1 ∧
    (started (7 :: List.replicate 16 1)).findOp 0 0x07 = some (desc (7 :: List.replicate 16 1)) ∧
    (desc (7 :: List.replicate 16 1)).strayOperand [] = some 16 := by decide +kernel

theorem witness_CopiesAndCompletions :
    (started [5]).findOp 0 0x05 = some (desc [5]) ∧ (started [6]).findOp 0 0x06 = some (desc [6]) ∧
    ((started [5] true).ring 0).started.find? (fun d => d.seq == 0 && d.begun && (d.opcode == 0x05 || d.opcode == 0x06)) =
      some (desc [5] true) ∧ (desc [5] true).opd 32 8 = 0 ∧
    ((started [6] true).ring 0).started.find? (fun d => d.seq == 0 && d.begun && (d.opcode == 0x05 || d.opcode == 0x06)) =
      some (desc [6] true) := by decide +kernel

theorem witness_CopiesAndCompletions_out :
    let s := ring (fun r => { r with ready := [⟨0, 0, 1, 1, 1, 0⟩] })
    (s.ring 0).ready = [⟨0, 0, 1, 1, 1, 0⟩] ∧ s.cplFull 0 = false ∧
    ((s.set (Reg.ringCplTail 0) (s.cplSize 0))).cplFull 0 = true := by decide +kernel

/-- Slot 0 of pool 0 of partition 0 in a pool of this use. -/
def slot (use : Nat) (x : Slot) : State :=
  { (ready.set (Reg.winPool_use 0 0) use) with pools := [⟨[x], 0⟩] }

/-- A slot in this state, of generation 5, without a deadline. -/
def slotIn (st : SlotState) (deadline : Nat := 0) : Slot := ⟨st, 5, deadline, 0, 0, 0, 0, 0, 0⟩

theorem witness_SlotsAreFlippedAndReclaimed :
    0 < ((slot 1 (slotIn .offered)).pool 0 0).slots.length ∧ bitsAt (5 * 2 ^ 32 + 2) 32 32 = ((slot 1 (slotIn .offered)).slot 0 0 0).gen ∧
    ((slot 1 (slotIn .offered)).slot 0 0 0).deadline = 0 ∧ bitsAt (5 * 2 ^ 32 + 2) 0 8 = 2 ∧
    (slot 1 (slotIn .offered)).poolUse 0 0 = 1 ∧ (slot 2 (slotIn .offered)).poolUse 0 0 ≠ 1 ∧
    ((slot 2 (slotIn .filled)).slot 0 0 0).state = .filled ∧ bitsAt (5 * 2 ^ 32 + 6) 0 8 = 6 ∧
    (slot 2 (slotIn .filled)).poolUse 0 0 = 2 ∧ ((slot 2 (slotIn .result)).slot 0 0 0).state = .result ∧
    (slot 3 (slotIn .result)).poolUse 0 0 = 3 ∧ ((slot 3 (slotIn .result)).slot 0 0 0).state = .result := by decide +kernel

/-- A flip of an OFFERED slot with an old generation, or with a state that is none, is refused. -/
theorem witness_SlotsAreFlippedAndReclaimed_refused :
    bitsAt (4 * 2 ^ 32 + 2) 32 32 ≠ ((slot 1 (slotIn .offered)).slot 0 0 0).gen ∧ bitsAt (5 * 2 ^ 32 + 1) 0 8 = 1 := by
  decide +kernel

theorem witness_SlotsAreFlippedAndReclaimed_late :
    ((slot 1 (slotIn .offered 4)).slot 0 0 0).deadline ≠ 0 ∧ ((slot 1 (slotIn .offered 4)).slot 0 0 0).state = .offered ∧
    ((slot 3 (slotIn .result 4)).slot 0 0 0).state = .result ∧ ((slot 3 (slotIn .result)).slot 0 0 0).deadline = 0 := by
  decide +kernel

theorem witness_WindowAccesses :
    let s := (slot 2 (slotIn .filled)).set (Reg.winSize_size2mib 0) 1
    s.power.off = false ∧ 0 + 64 ≤ s.winBytes 0 ∧ s.winBytes 0 < 2 ^ 21 + 1 ∧ s.winByte 0 0 = .header 0 0 0 ∧
    (∀ k, k < 8 → s.mayWrite 0 (2 ^ 21 - 8 + k) = true ∧ s.winByte 0 (2 ^ 21 - 8 + k) = .other) := by decide +kernel

/-! ### Exposures, steps and cores -/

/-- A plan whose one task is a join on core 0. -/
def joins : Plan := plan [task 0x0012 [] [noTensor, noTensor, noTensor, noTensor]] []

theorem witness_TickOpensTheNextExposure :
    let s := { ready with time := { ready.time with everLocked := true } }
    s.power.off = false ∧ s.time.everLocked = true ∧ s.parts[3]? = some Part.init := by decide +kernel

/-- The step of `joins` at index `i` of its step, with its barrier at `e`. -/
def stepping (ph : PlanState) (i : Nat) (e : Option Nat) : State :=
  inStep joins (fun q => { q with phase := ph, index := i, exposure := i, barrier := { q.barrier with combined := e } })

theorem witness_StepsBeginAndEnd :
    (admitted joins (fun q => { q with startDue := true })).planOf 0 = some joins ∧
    ((admitted joins (fun q => { q with startDue := true })).part 0).phase = .admitted ∧
    ((admitted joins (fun q => { q with startDue := true })).part 0).startDue = true ∧
    (admitted joins (fun q => { q with startDue := true })).standby = false ∧
    ((admitted joins (fun q => { q with startDue := true })).part 0).withdrawDue = false ∧
    0 < ready.exposureUnits 0 ∧
    ((admitted joins (fun q => { q with withdrawDue := true })).part 0).withdrawDue = true ∧
    (withField Reg.survSpareControl_standby 1).standby = true := by decide +kernel

theorem witness_StepsBeginAndEnd_end :
    (stepping .running 9 (some 0)).planOf 0 = some joins ∧ ((stepping .running 9 (some 0)).part 0).phase = .running ∧
    ((stepping .running 9 (some 0)).part 0).barrier.combined = some 0 ∧
    (stepping .running 9 (some 0)).endExposure 0 0 ≤ ((stepping .running 9 (some 0)).part 0).exposure ∧
    ((stepping .running 9 (some 0)).part 0).withdrawDue = false ∧
    ((stepping .held 9 (some 0)).part 0).phase = .held ∧
    (stepping .held 9 (some 0)).endExposure 0 0 ≤ ((stepping .held 9 (some 0)).part 0).exposure := by decide +kernel

theorem witness_StepsAreHeldAndFault :
    (stepping .running 6 none).planOf 0 = some joins ∧ joins.planned + joins.spares ≤ ((stepping .running 6 none).part 0).index ∧
    ((stepping .running 6 none).part 0).barrier.combined = none ∧ ((stepping .held 70 none).part 0).phase = .held ∧
    (stepping .held 70 none).plannedOf 0 + (stepping .held 70 none).sparesOf 0 +
      (stepping .held 70 none).get (Reg.tickHoldLimit_limit 0) ≤ ((stepping .held 70 none).part 0).index ∧
    (let s := { stepping .running 0 none with time := ⟨2 ^ 40, true, false, some 0, [], 0, 0⟩ }
     s.time.lostAt = some 0 ∧ s.time.locked = false ∧ s.time.overdue.contains 0 = false ∧
     0 + 64 * s.exposureUnits 0 ≤ s.time.now) := by decide +kernel

/-- A step whose combined notice is known while its guard has not passed at exposure P + S, and at the hold limit. -/
theorem witness_StepsAreHeldAndFault_guard :
    ∀ x ∈ [(PlanState.running, 6), (.held, 70)],
      let s := stepping x.1 x.2 (some (2 ^ 60))
      s.planOf 0 = some joins ∧ (s.part 0).phase = x.1 ∧ (s.part 0).barrier.combined = some (2 ^ 60) ∧
      joins.planned + joins.spares ≤ (s.part 0).index ∧ (s.part 0).exposure < s.endExposure 0 (2 ^ 60) := by decide +kernel

theorem witness_StepFaultsStopTheStep : ready.inStep 0 = false ∧ (stepping .running 0 none).inStep 0 = true ∧
    (∃ q, (stepping .running 0 none).parts[0]? = some q) := by
  refine ⟨by decide +kernel, by decide +kernel, ⟨_, rfl⟩⟩

theorem witness_WithdrawalsAndRestores :
    (admitted joins).power.off = false ∧ (admitted joins).ready = true ∧ (admitted joins).admitted 0 = true ∧
    ready.admitted 0 = false ∧ State.reset.ready = false ∧
    ((admitted joins (fun q => { q with withdrawDue := true })).part 0).withdrawDue = true ∧
    (let s := admitted joins (fun q => { q with fixer := { q.fixer with admission := true } })
     s.planOf 0 = some joins ∧ (s.part 0).fixer.admission = true ∧ (s.part 0).fixer.left = [] ∧
     (s.part 0).fixer.failed = false ∧ (s.part 0).fixer.asked = []) := by decide +kernel

theorem witness_CoresQueuesAndTokens :
    let s := inStep joins
    s.power.off = false ∧ 0 < s.fitted.ccc ∧ s.inStep (s.corePart 0) = true ∧ (s.core 0).running = none ∧
    s.coreFailed 0 = false ∧ s.planOf (s.corePart 0) = some joins ∧
    s.readyTasks (s.corePart 0) 0 joins = [(0, 0, task 0x0012 [] [noTensor, noTensor, noTensor, noTensor])] ∧
    s.hasCredits (s.corePart 0) (task 0x0012 [] [noTensor, noTensor, noTensor, noTensor])
      ((s.core 0).replay.contains (taskKey 0 0)) = true ∧
    s.copyHolds (s.corePart 0) (task 0x0012 [] [noTensor, noTensor, noTensor, noTensor]) = false ∧
    (s.part (s.corePart 0)).fixer.sweep = none ∧
    (joins.runningOf 0 (0, 0, task 0x0012 [] [noTensor, noTensor, noTensor, noTensor])).isSome = true ∧
    ((inStep joins (fun q => { q with fixer := { q.fixer with sweep := some ⟨2, true, 0, [], false⟩ } })).part 0).fixer.sweep ≠ none ∧
    ((runs joins).core 0).running ≠ none ∧ ready.inStep (ready.corePart 0) = false := by decide +kernel

/-- A plan whose one task writes an entry of queue 0. -/
def writes : Plan := plan [{ task 0x0012 [] [noTensor, noTensor, noTensor, noTensor] with queueOut := 0 }] []
  [(1, fields 32 [(16, 2, 1)])]

/-- No credit: the one ready task of core 0 waits. -/
theorem witness_CoresQueuesAndTokens_waits :
    let s := inStep writes
    (s.readyTasks 0 0 writes).length = 1 ∧
    (∀ y ∈ s.readyTasks 0 0 writes, s.hasCredits 0 y.2.2 ((s.core 0).replay.contains (taskKey y.1 y.2.1)) = false) := by
  decide +kernel

/-- The one ready task of core 0 is an update of group 0, whose copy of an earlier step the Fixer still reads (R372). -/
theorem witness_CoresQueuesAndTokens_copy :
    let u := task 0x000F (fields 16 []) []
    let pl := plan [u] []
    let s := inStep pl (fun q => { q with step := 1, fixer := { q.fixer with copying := [(0, 0)] } })
    s.planOf (s.corePart 0) = some pl ∧ s.readyTasks 0 0 pl = [(0, 0, u)] ∧ s.hasCredits 0 u false = true ∧
    s.copyHolds 0 u = true := by decide +kernel

theorem witness_CoresQueuesAndTokens_way :
    (⟨0, 0, 0⟩ : Token) ∈ ({ ready with tokens := [⟨0, 0, 0⟩] } : State).tokens ∧ (⟨0, 0, 0⟩ : Token) ∉ ready.tokens ∧
    ready.cores[0]? = some (ready.core 0) ∧
    (let s := { inStep writes with credits := [⟨0, 0⟩] }
     (⟨0, 0⟩ : Credit) ∈ s.credits ∧ s.planOf 0 = some writes ∧ (writes.queue 0).isSome = true) ∧
    (⟨0, 0⟩ : Credit) ∉ ready.credits := by
  decide +kernel

theorem witness_CoresQueuesAndTokens_reset :
    let pl := plan [] [] [(1, List.replicate 32 0)]
    (inStep pl).planOf 0 = some pl ∧ pl.queue 0 = some ⟨0, 0, 0, 0, 0, 0, 0, 0, 0, true⟩ ∧
    ((inStep pl).queueRun 0 0).items = [] ∧ 0 < 1 := by decide +kernel

/-- A task of layer 3, the layer's commit task if the flag says so. -/
def layered : Machine.Task := { task 0x0008 [] [noTensor, noTensor, noTensor, noTensor] with layer := 3, flags := 1 }

/-- A run of task 0 of graph 0 in a step of `pl`. -/
def ran (pl : Plan) (r : TaskRun) : State := inStep pl (fun q => { q with runs := [(taskKey 0 0, r)] })

theorem witness_CompletionCommitsOrReplays :
    let pl := plan [layered] []
    (ran joins ⟨[0], false, 0, false, false, false, []⟩).planOf 0 = some joins ∧
    (∃ t, joins.task 0 0 = some t ∧ t.cores = [0] ∧ t.layered = false) ∧
    ((ran joins ⟨[0], false, 0, false, false, false, []⟩).run 0 0 0).completed = false ∧
    0 ∈ ((ran joins ⟨[0], false, 0, false, false, false, []⟩).run 0 0 0).finished ∧
    pl.task 0 0 = some layered ∧ layered.cores = [0] ∧ layered.layered = true ∧ layered.commits = true ∧
    (ran pl ⟨[0], false, 0, false, false, false, []⟩).inStep 0 = true := by
  refine ⟨by decide +kernel, ⟨_, rfl, by decide +kernel, by decide +kernel⟩, ?_⟩
  decide +kernel

theorem witness_CompletionCommitsOrReplays_judged :
    let pl := plan [layered] []
    let runsOf := fun (r : TaskRun) => (pl.layerTasks 0 3).map (fun x => (ran pl r).run 0 0 x.1)
    (∃ r ∈ runsOf ⟨[0], false, 0, false, true, false, []⟩, r.badInput = true) ∧
    ((∀ r ∈ runsOf ⟨[0], false, 1, true, false, false, []⟩, r.badInput = false) ∧
      ∃ r ∈ runsOf ⟨[0], false, 1, true, false, false, []⟩, r.hitAtTop = true) ∧
    ((∀ r ∈ runsOf ⟨[0], false, 1, false, false, false, []⟩, r.badInput = false ∧ r.hitAtTop = false) ∧
      ∃ r ∈ runsOf ⟨[0], false, 1, false, false, false, []⟩, 0 < r.hits) ∧
    (∀ r ∈ runsOf ⟨[0], false, 0, false, false, false, []⟩, r.badInput = false ∧ r.hitAtTop = false ∧ r.hits = 0) := by
  decide +kernel

/-- An entry of the layer table with a promotion made in step 1, held for 4 steps, while partition 0 is in step `n`. -/
def promoted (n : Nat) : State :=
  { inStep joins (fun q => { q with step := n }) with
    layers := [⟨3, 1, 0, 4, 0, [], 0, 5, false, false, 1, 1, none, 1⟩] }

theorem witness_PromotionsExpire :
    (promoted 6).power.off = false ∧ (promoted 6).layer 3 = some ⟨3, 1, 0, 4, 0, [], 0, 5, false, false, 1, 1, none, 1⟩ ∧
    0 < 1 ∧ 1 + 4 < ((promoted 6).part 0).step ∧ ((promoted 5).part 0).step ≤ 1 + 4 := by decide +kernel

/-- A notice of the step that began in exposure `x`. -/
def notice (k : NoticeKind) (x : Nat) (down : Bool) (epoch : Nat := 0) : Notice :=
  ⟨k, x, 1, 40, 2, down, 0, 0, fields 32 [(6, 2, epoch)]⟩

theorem witness_NoticesDriveTheBarrier :
    let s := stepping .running 0 none
    s.power.off = false ∧ s.fate 0 (noticePacket (notice .completion 1 true)) = .take ∧
    ((stepping .held 6 none).part 0).phase = .held ∧
    (stepping .held 6 none).fate 0 (noticePacket (notice .completion 1 true)) = .take ∧
    (notice .completion 0 true).startExposure = ((stepping .held 6 none).part 0).startExposure ∧
    ((stepping .held 6 none).part 0).barrier.combined = none ∧ ((stepping .faulted 6 none).part 0).phase = .faulted ∧
    (s.modPort 0 (fun q => { q with fence := [(0, 0)] })).fate 0 (noticePacket (notice .completion 0 true 4095)) = .stale ∧
    (s.part 0).phase = .running ∧ (notice .completion 1 true).kind = .completion ∧
    (notice .completion 1 true).startExposure ≠ (s.part 0).startExposure ∧
    (notice .completion 0 true).startExposure = (s.part 0).startExposure ∧ (s.part 0).barrier.combined = none ∧
    (notice .completion 0 true).down = true ∧ (notice .completion 0 false).down = false ∧
    (notice .fault 0 false).kind = .fault ∧ ((admitted joins).part 0).phase = .admitted ∧ (admitted joins).standby = false ∧
    (ready.part 0).phase = .idle := by decide +kernel

/-! ### Shares of tasks -/

/-- Core 0 runs this task of a plan with these tensors and sections. -/
def share (t : Machine.Task) (ts : List Tensor) (sections : List (Nat × List Byte) := []) (f : Part → Part := id) : State :=
  runs (plan [t] ts sections) f

/-- What core 0 runs in that state. -/
def running (t : Machine.Task) (ts : List Tensor) (sections : List (Nat × List Byte) := []) : Running :=
  ⟨0, plan [t] ts sections, ⟨0, [t], ts⟩, 0, 0, t⟩

/-- A small FP32 tensor. -/
def cell : Tensor := tensor 0 0x09 [1]

theorem witness_SharesEnd : (∃ k, ready.cores[0]? = some k) ∧ (∃ q, ready.parts[(running (task 0x0012 [] []) []).p]? = some q) ∧
    (running (task 0x0012 [] []) []).task.queueOut = noQueue := by
  refine ⟨⟨_, rfl⟩, ⟨_, rfl⟩, by decide +kernel⟩

/-- A product of one element. -/
def product (op mode rung : Nat) : Machine.Task :=
  { task op (fields 128 (if op = 1 then [(0, 4, 1), (4, 4, 1), (8, 4, 1)]
      else [(0, 1, mode), (4, 4, 1), (8, 4, 1), (12, 4, 1), (24, 1, 1)])) [0, 1, noTensor, 2] with rung := rung }

/-- The operands of that product. -/
def operands : List Tensor := [tensor 0 0x09 [1, 1], tensor 64 0x09 [1, 1], tensor 128 0x09 [1, 1]]

theorem witness_ProductsWriteTheirShare :
    ∀ x ∈ [(1, 0), (2, 1), (2, 2)],
      let t := product x.1 x.2 3
      let s := share t operands
      let r := running t operands
      s.power.off = false ∧ s.runningOn 0 = some r ∧ r.slot 3 = some ⟨2, tensor 128 0x09 [1, 1]⟩ ∧ r.task.op = x.1 ∧
      (x.1 = 2 → r.task.par 0 1 = x.2) ∧ r.frozenSkip = false ∧ r.task.product.atOnce r.productTensors = false ∧
      s.effRung r.task = 3 ∧
      ((s.modCore 0 (fun k => { k with tiling := some (s.shapeKey 0 r).shape.referenceTiling })).core 0).tiling ≠ none ∧
      (s.core 0).tiling = none ∧
      gridShare r.task.product.M r.task.product.N (vectorGrid r.task.coreCount r.task.product.M r.task.product.N).1
        (vectorGrid r.task.coreCount r.task.product.M r.task.product.N).2 (r.coreIndex 0) false = some ⟨(0, 1), (0, 1)⟩ := by
  decide +kernel

theorem witness_ProductsWriteTheirShare_array :
    let t := product 1 0 2
    let r := running t operands
    let tl := ((share t operands).shapeKey 0 r).shape.referenceTiling
    let s := (share t operands).modCore 0 (fun k => { k with tiling := some tl })
    s.runningOn 0 = some r ∧ s.effRung r.task < 3 ∧ (s.core 0).tiling = some tl ∧
    gridShare r.task.product.M r.task.product.N tl.gM tl.gN (r.coreIndex 0) (r.task.product.N == 1) = some ⟨(0, 1), (0, 1)⟩ ∧
    (∀ x ∈ (s.shapeKey 0 r).shape.turned.uses.flatMap (fun u =>
        (shareTiles (s.shapeKey 0 r).shape.turned tl ⟨(0, 1), (0, 1)⟩ (r.task.product.N == 1) u).map (fun t => (u, t))),
      x.1.legal (s.shapeKey 0 r).shape.turned.acc (r.plan.tileSpace 0) x.2.1 x.2.2.1 x.2.2.2 = true) := by decide +kernel

/-- A product without elements ends at once; a weight gradient of a frozen group is skipped. -/
theorem witness_ProductsWriteTheirShare_ends :
    (∀ x ∈ [(1, 0), (2, 1), (2, 2)],
      let t := product x.1 x.2 3
      let ts := [tensor 0 0x09 [0, 1], tensor 64 0x09 [1, 1], tensor 128 0x09 [1, 1]]
      let r := running t ts
      (share t ts).runningOn 0 = some r ∧ (r.slot 3).isSome = true ∧ r.frozenSkip = false ∧
      r.task.product.atOnce r.productTensors = true) ∧
    (let t := product 2 2 3
     let secs := [(3, fields 16 [(0, 4, 1)] ++ fields 128 [(1, 1, 1)])]
     let r := running t operands secs
     (share t operands secs).runningOn 0 = some r ∧ (r.slot 3).isSome = true ∧ r.frozenSkip = true ∧ r.task.op = 2 ∧
     r.task.par 0 1 = 2) := by decide +kernel

theorem witness_VectorTasksWriteTheirShare :
    ∀ k ∈ [0x01, 0x0B],
      let t := task 0x0008 (fields 16 [(0, 1, k)]) [0, noTensor, noTensor, 0]
      let s := share t [cell]
      let r := running t [cell]
      s.power.off = false ∧ s.runningOn 0 = some r ∧ r.task.op = 0x0008 ∧ r.slot 0 = some ⟨0, cell⟩ ∧ r.slot 3 = some ⟨0, cell⟩ ∧
      r.usesEmpty = false ∧ r.task.kernel = k ∧ r.coreIndex 0 = 0 ∧ s.othersDone 0 r = true := by decide +kernel

theorem witness_VectorTasksWriteTheirShare_combining :
    let t := { task 0x0008 (fields 16 [(0, 1, 0x0B)]) [0, noTensor, noTensor, 0] with coreCount := 2 }
    let s := (share t [cell]).modCore 1 (fun k => { k with running := some (0, 0) })
    s.runningOn 0 = some (running t [cell]) ∧ s.othersDone 0 (running t [cell]) = false ∧
    s.runningOn 1 = some (running t [cell]) ∧ (running t [cell]).coreIndex 1 ≠ 0 := by decide +kernel

theorem witness_VectorTasksWriteTheirShare_index :
    ∀ m ∈ [1, 2, 3],
      let ts := [tensor 0 0x09 [1, 1], tensor 64 0x13 [1], tensor 128 0x09 [1, 1]]
      let t := task 0x0009 (fields 16 [(0, 1, m)]) [0, 1, noTensor, 2]
      let s := share t ts
      let r := running t ts
      s.power.off = false ∧ s.runningOn 0 = some r ∧ r.task.op = 0x0009 ∧ r.slot 0 = some ⟨0, tensor 0 0x09 [1, 1]⟩ ∧
      r.slot 1 = some ⟨1, tensor 64 0x13 [1]⟩ ∧ r.slot 3 = some ⟨2, tensor 128 0x09 [1, 1]⟩ ∧
      r.usesEmpty = false ∧
      r.task.par 0 1 = m := by decide +kernel

theorem witness_TilingsAreSearchedAndCached :
    let t := product 1 0 2
    let r := running t operands
    let s := (share t operands).modCore 0 (fun k => { k with asked := true })
    let key := s.shapeKey 0 r
    let tl := key.shape.referenceTiling
    let full := { s with shapes := [[⟨key, tl⟩], [], [], []] }
    s.power.off = false ∧ s.runningOn 0 = some r ∧ (s.core 0).asked = true ∧ r.needsRecord = true ∧
    s.cached (s.fitted.dieOf 0) (s.shapeKey 0 r) = none ∧
    full.runningOn 0 = some r ∧ full.cached (full.fitted.dieOf 0) (full.shapeKey 0 r) = some tl := by decide +kernel

/-- While core 0 runs a join, the record of the product after it may come early. -/
theorem witness_TilingsAreSearchedAndCached_early :
    let pl := plan [task 0x0012 [] [noTensor, noTensor, noTensor, noTensor], product 1 0 2] operands
    let n : Running := ⟨0, pl, ⟨0, pl.graphs.flatMap (·.tasks), operands⟩, 0, 1, product 1 0 2⟩
    let s := (runs pl).modCore 0 (fun k => { k with started := [taskKey 0 0] })
    let key := s.shapeKey 0 n
    let full := { s with shapes := [[⟨key, key.shape.referenceTiling⟩], [], [], []] }
    full.power.off = false ∧ full.tilingRequest 0 = some (n, some (taskKey 0 1, 2)) ∧
    full.cached (full.fitted.dieOf 0) (full.shapeKey 0 n) = some key.shape.referenceTiling := by decide +kernel

theorem witness_TilingsAreSearchedAndCached_ends :
    let t := product 1 0 2
    let s := share t operands
    let key := s.shapeKey 0 (running t operands)
    let tl := key.shape.referenceTiling
    let w := { s with searches := s.searches.set (s.controlOf 0) [key] }
    let other := { tl with mT := 0 }
    w.power.off = false ∧ 0 < w.fitted.ccc ∧ w.searches[w.controlOf 0]? = some (key :: []) ∧
    (∀ d, d < w.fitted.ccc → w.controlOf d = w.controlOf 0 → (w.core d).asked = false) ∧
    ({ tl with reference := true } : Tiling) = key.shape.referenceTiling ∧
    ({ other with reference := true } : Tiling) ≠ key.shape.referenceTiling ∧
    key.accepts w.fitted.coresPerDie (w.get (Reg.tickClockFloor_floor100mhz (w.corePart 0))) other = false := by decide +kernel

/-- With a clock floor of 0 nothing is moved past its bound: a tiling other than the reference one is accepted. -/
theorem witness_TilingsAreSearchedAndCached_accepts :
    let s := (share (product 1 0 2) operands).set (Reg.tickClockFloor_floor100mhz 0) 0
    let key := s.shapeKey 0 (running (product 1 0 2) operands)
    let other := { key.shape.referenceTiling with order := (key.shape.referenceTiling.order + 1) % 3 }
    ({ other with reference := true } : Tiling) ≠ key.shape.referenceTiling ∧
    key.accepts s.fitted.coresPerDie (s.get (Reg.tickClockFloor_floor100mhz (s.corePart 0))) other = true := by decide +kernel

/-- Every task of a table whose tensor has a zero extent only ends its share (R91). -/
theorem witness_EmptyTensors :
    (∀ x ∈ [(8, fields 16 [(0, 1, 1)]), (9, fields 16 [(0, 1, 1)]), (9, fields 16 [(0, 1, 2)]), (9, fields 16 [(0, 1, 3)]),
        (3, fields 64 [(40, 4, 0), (44, 4, 0), (48, 4, 0), (52, 4, 0)]), (4, fields 64 [(40, 4, 0), (44, 4, 0), (48, 4, 0), (52, 4, 0)]),
        (6, fields 32 []), (7, fields 32 []), (0x11, fields 32 []),
        (0xA, fields 32 [(0, 1, 1)]), (0xA, fields 32 [(0, 1, 2)]), (0xA, fields 32 [(0, 1, 0x81)]), (0xA, fields 32 [(0, 1, 0x82)]),
        (0xB, fields 32 [(0, 1, 1)]), (0xB, fields 32 [(0, 1, 2)]), (0xB, fields 32 [(0, 1, 0x81)]), (0xB, fields 32 [(0, 1, 0x82)])],
      let t := task x.1 x.2 [0, 0, 0, 0]
      let none_ := tensor 0 0x09 [0]
      let r := running t [none_]
      (share t [none_]).runningOn 0 = some r ∧ r.task.op = x.1 ∧ r.slot 0 = some ⟨0, none_⟩ ∧ r.slot 1 = some ⟨0, none_⟩ ∧
      r.slot 3 = some ⟨0, none_⟩ ∧ r.operand 0 = some ⟨0, none_⟩ ∧ r.usesEmpty = true) := by decide +kernel

/-- An attention task of one head, one query and one key. -/
def attention (op : Nat) : Machine.Task :=
  task op (fields 64 [(0, 2, 1), (2, 2, 1), (4, 2, 8), (6, 1, 1), (8, 4, 1), (12, 4, 1), (40, 4, 0), (44, 4, 0), (48, 4, 0),
    (52, 4, 0), (56, 4, 0)]) [0, 0, 0, 0]

theorem witness_AttentionWritesItsShare :
    ∀ op ∈ [3, 4],
      let t := attention op
      let s := share t [cell]
      let r := running t [cell]
      s.power.off = false ∧ s.runningOn 0 = some r ∧ r.task.op = op ∧ r.slot 0 = some ⟨0, cell⟩ ∧ r.slot 3 = some ⟨0, cell⟩ ∧
      r.operand r.task.attn.dK = some ⟨0, cell⟩ ∧ r.operand r.task.attn.dV = some ⟨0, cell⟩ ∧
      r.operand r.task.attn.scratch = some ⟨0, cell⟩ ∧ r.usesEmpty = false ∧
      r.task.attn.idle r.task.coreCount (r.coreIndex 0) = false := by decide +kernel

/-- Of two cores, the second has no cell of a task of one head. -/
theorem witness_AttentionWritesItsShare_idle :
    ∀ op ∈ [3, 4],
      let t := { attention op with coreCount := 2 }
      let s := (share t [cell]).modCore 1 (fun k => { k with running := some (0, 0) })
      let r := running t [cell]
      s.runningOn 1 = some r ∧ r.task.op = op ∧ (r.slot 0).isSome = true ∧ (r.slot 3).isSome = true ∧
      r.task.attn.idle r.task.coreCount (r.coreIndex 1) = true := by decide +kernel


/-- A convolution of one element in this direction, on the vector unit; slot 0, slot 1 and slot 3 in this order. -/
def convolution (dir : Nat) : Machine.Task :=
  task 0x0005 (fields 64 ([(0, 1, dir), (1, 1, 2), (3, 1, 4), (40, 4, 1), (44, 4, 0)] ++
    [5, 6, 7, 8, 9, 10].map (fun o => (o, 1, 1)) ++ [12, 16, 20].map (fun o => (o, 4, 1))))
    (if dir = 1 then [0, 1, noTensor, 2] else if dir = 2 then [2, 1, noTensor, 0] else [2, 0, noTensor, 1])

/-- Input, filter and output of that convolution. -/
def planes : List Tensor := [tensor 0 0x09 [1, 1, 1, 1], tensor 64 0x09 [1, 1, 1, 1, 1], tensor 128 0x09 [1, 1, 1, 1]]

theorem witness_ConvolutionsAndImagesWriteTheirShare :
    ∀ dir ∈ [1, 2, 3],
      let t := convolution dir
      let s := share t planes
      let r := running t planes
      let z : ConvTensors := ⟨tensor 0 0x09 [1, 1, 1, 1], tensor 64 0x09 [1, 1, 1, 1, 1], tensor 128 0x09 [1, 1, 1, 1]⟩
      let u := (s.takeFrames 0 r).2
      let in0 := (planes[(t.tensors[0]?).getD 0]?).getD z.x
      let x := r.convTiled 0 (r.convRun z (u.effRung r.task)) in0
      s.power.off = false ∧ s.runningOn 0 = some r ∧ r.task.op = 0x0005 ∧ r.task.conv.dir = dir ∧ r.convFrozen = false ∧
      (r.convReady).map (fun y => (y.x, y.f, y.y)) = some (z.x, z.f, z.y) ∧ (r.slot 0).map (·.t) = some in0 ∧
      (r.slot 3).isSome = true ∧ r.convShare 0 x.1 x.2 = some ⟨(0, 1), (0, 1)⟩ ∧
      (u.convTiles 0 r x.1 x.2 ⟨(0, 1), (0, 1)⟩ in0).2 = none := by decide +kernel

/-- Of two cores, the second has no part of a convolution of one element. -/
theorem witness_ConvolutionsAndImagesWriteTheirShare_none :
    ∀ dir ∈ [1, 2, 3],
      let t := { convolution dir with coreCount := 2, rung := 2 }
      let s := (share t planes).modCore 1 (fun k => { k with running := some (0, 0) })
      let r := running t planes
      let z : ConvTensors := ⟨tensor 0 0x09 [1, 1, 1, 1], tensor 64 0x09 [1, 1, 1, 1, 1], tensor 128 0x09 [1, 1, 1, 1]⟩
      let in0 := (planes[(t.tensors[0]?).getD 0]?).getD z.x
      let x := r.convTiled 1 (r.convRun z (((s.takeFrames 1 r).2).effRung r.task)) in0
      s.runningOn 1 = some r ∧ r.task.conv.dir = dir ∧ r.convReady.isSome = true ∧ r.convShare 1 x.1 x.2 = none := by
  decide +kernel

/-- The group section of one group, with these fields of its entry. -/
def oneGroup (fs : List (Nat × Nat × Nat)) : List Byte := fields 16 [(0, 4, 1)] ++ fields 128 fs

/-- A convolution of no element has nothing to run. -/
theorem witness_ConvolutionsAndImagesWriteTheirShare_empty :
    ∀ dir ∈ [1, 2, 3],
      let t := convolution dir
      let ts := [tensor 0 0x09 [0, 1, 1, 1], tensor 64 0x09 [1, 1, 1, 1, 1], tensor 128 0x09 [1, 1, 1, 1]]
      let r := running t ts
      (share t ts).runningOn 0 = some r ∧ r.task.conv.dir = dir ∧ r.convFrozen = false ∧ r.convReady.isNone = true := by
  decide +kernel

theorem witness_ConvolutionsAndImagesWriteTheirShare_frozen :
    let t := convolution 3
    let secs := [(3, oneGroup [(1, 1, 1)])]
    let r := running t planes secs
    (share t planes secs).runningOn 0 = some r ∧ r.task.conv.dir = 3 ∧
    r.convFrozen = true := by decide +kernel

theorem witness_ConvolutionsAndImagesWriteTheirShare_images :
    ∀ op ∈ [6, 7],
      let t := task op (fields 32 []) [0, 0, 0, 0]
      let s := share t [cell]
      let r := running t [cell]
      s.power.off = false ∧ s.runningOn 0 = some r ∧ r.task.op = op ∧ r.slot 0 = some ⟨0, cell⟩ ∧ r.slot 1 = some ⟨0, cell⟩ ∧
      r.slot 2 = some ⟨0, cell⟩ ∧ r.slot 3 = some ⟨0, cell⟩ ∧ r.usesEmpty = false := by decide +kernel

theorem witness_ExpertForwardRoutesRows :
    ∀ x ∈ [(0xA, 1), (0xA, 2), (0xB, 1), (0xB, 2)],
      let t := task x.1 (fields 32 [(0, 1, x.2), (12, 4, 0)]) [0, 0, 0, 0]
      let s := share t [cell]
      let r := running t [cell]
      s.power.off = false ∧ s.runningOn 0 = some r ∧ r.task.op = x.1 ∧ r.slot 0 = some ⟨0, cell⟩ ∧ r.slot 1 = some ⟨0, cell⟩ ∧
      r.slot 3 = some ⟨0, cell⟩ ∧ r.operand (r.task.par 12 4) = some ⟨0, cell⟩ ∧ r.usesEmpty = false ∧ r.task.mode = x.2 := by
  decide +kernel

theorem witness_ExpertBackwardRoutesGradients :
    ∀ x ∈ [(0xA, 0x81), (0xA, 0x82), (0xB, 0x81), (0xB, 0x82)],
      let t := task x.1 (fields 32 [(0, 1, x.2), (12, 4, 0)]) [0, 0, 0, 0]
      let s := share t [cell]
      let r := running t [cell]
      s.power.off = false ∧ s.runningOn 0 = some r ∧ r.task.op = x.1 ∧ r.slot 0 = some ⟨0, cell⟩ ∧
      r.slot 3 = some ⟨0, cell⟩ ∧ r.operand (r.task.par 12 4) = some ⟨0, cell⟩ ∧ r.usesEmpty = false ∧ r.task.mode = x.2 := by
  decide +kernel

theorem witness_LedgerMovesBlocksAndGenerations :
    ∀ m ∈ [1, 2, 3, 4, 5],
      let t := task 0x000C (fields 16 [(0, 1, m), (8, 4, 1)]) [0, noTensor, noTensor, 0]
      let s := share t [cell]
      let r := running t [cell]
      s.power.off = false ∧ s.runningOn 0 = some r ∧ r.task.op = 0x000C ∧ r.slot 0 = some ⟨0, cell⟩ ∧ r.slot 3 = some ⟨0, cell⟩ ∧
      r.usesEmpty = false ∧ r.task.par 0 1 = m := by decide +kernel

/-- The seven tables of a clear-table image, all empty. -/
def blank : List Byte := List.replicate 896 0

/-- The start of a clear-table image whose tables are empty. -/
def tables : List Byte :=
  fields 16 [(0, 4, 0x4E484354), (4, 2, 1), (8, 4, 4069014335)]

/-- Ring 0 has started the descriptor; slot 0 of pool 0 holds that image. -/
def clearing (bs : List Nat) : State :=
  let s := started bs
  { (s.set (Reg.winPool_use 0 0) 2) with
    pools := s.pools.set 0 ⟨[{ slotIn .filled with format := 0x12, length := 912 }], 0⟩ }.writeWin 0
      (({ s with pools := s.pools }).payloadOf 0 0 0) tables

/-- The descriptor of a load of generation 0 from that slot. -/
def loading : List Nat := 0x11 :: (List.replicate 15 0 ++ [1])

set_option maxRecDepth 8000 in
theorem clearing_image : (clearing loading).genImage 0 0 0 = tables ++ blank := by decide +kernel

theorem tables_drop : (tables ++ blank).drop 16 = blank := by
  exact List.drop_left' (by decide +kernel)

theorem tables_fit : tablesOk (blank) = true := by
  have z : ∀ v ∈ List.range 256, codeLen (List.replicate 128 0) v = 0 := by decide +kernel
  have h : ((List.range 256).map (fun v => let l := codeLen (List.replicate 128 0) v; if l = 0 then 0 else 2 ^ (15 - l))).sum ≤
      2 ^ 15 := by
    rw [List.map_congr_left (g := fun _ => 0) (fun v hv => by simp only [z v hv]; rfl)]
    decide +kernel
  have e : ∀ t ∈ List.range 7, slice blank (128 * t) 128 = List.replicate 128 0 := by
    intro t _
    refine List.eq_replicate_iff.2 ⟨by simp only [slice, List.length_map, List.length_range], fun b hb => ?_⟩
    obtain ⟨i, -, rfl⟩ := List.mem_map.1 hb
    rw [blank, List.getElem?_replicate]
    split <;> rfl
  simp only [tablesOk, List.all_eq_true, decide_eq_true_eq]
  intro t ht
  rw [e t ht]
  exact h

set_option maxRecDepth 8000 in
theorem tables_head : fieldAt (tables ++ blank) 0 4 = 0x4E484354 ∧ fieldAt (tables ++ blank) 4 2 = 1 ∧
    fieldAt (tables ++ blank) 8 4 = crc32c (blank) := by decide +kernel

theorem witness_LedgerMovesBlocksAndGenerations_load :
    (clearing loading).power.off = false ∧
    (clearing loading).findDesc 0 0x11 (fun d => d.opd 16 1 != 2 && d.opd 16 1 != 3) = some (desc loading) ∧
    (desc loading).clearStray = none ∧ (desc loading).opd 16 1 = 1 ∧ (clearing loading).ringPart 0 = 0 ∧
    (desc loading).opd 18 2 = 0 ∧ (desc loading).opd 20 4 = 0 ∧ (clearing loading).slotFilled 0 0 0 2 = true ∧
    ((clearing loading).gen 0 0).state = .free ∧ ((clearing loading).slot 0 0 0).format = 0x12 ∧
    ((clearing loading).slot 0 0 0).length = 912 := by decide +kernel

set_option maxRecDepth 8000 in
theorem witness_LedgerMovesBlocksAndGenerations_checks :
    failing ((clearing loading).clearChecks 0 (desc loading)) = [] := by
  have w := witness_LedgerMovesBlocksAndGenerations_load
  obtain ⟨-, -, -, h1, -, h2, h3, -, -, h5, h6⟩ := w
  simp only [State.clearChecks, State.genImageOk, h1, h2, h3, h5, h6, clearing_image, tables_head, tables_drop, tables_fit]
  decide +kernel

/-- Partition 0 has this request of ring 0 waiting for its moment. -/
def waiting (s : State) (k : RequestKind) (f : Part → Part := id) : State :=
  s.modPart 0 (fun q => f { q with requests := [⟨k, 0, 0, false⟩] })

theorem witness_LedgerMovesBlocksAndGenerations_boundary :
    ∀ a ∈ [2, 3],
      let bs := 0x11 :: (List.replicate 15 0 ++ [a])
      let s := started bs
      s.findDesc 0 0x11 (fun d => d.opd 16 1 == a) = some (desc bs) ∧ (desc bs).clearStray = none ∧
      (waiting (started bs true) .clear).nextRequest 0 .clear = some (⟨.clear, 0, 0, false⟩, desc bs true) ∧
      failing (((waiting (started bs true) .clear).dropRequest 0 ⟨.clear, 0, 0, false⟩).clearChecks 0 (desc bs true)) =
        [if a = 2 then 5 else 6] := by decide +kernel

theorem witness_LedgerMovesBlocksAndGenerations_current :
    let bs := 0x11 :: (List.replicate 15 0 ++ [2])
    let s := (waiting (started bs true) .clear).modGen 0 0 (fun x => { x with state := .loaded })
    s.nextRequest 0 .clear = some (⟨.clear, 0, 0, false⟩, desc bs true) ∧ (desc bs true).opd 16 1 = 2 ∧
    failing ((s.dropRequest 0 ⟨.clear, 0, 0, false⟩).clearChecks 0 (desc bs true)) = [] ∧
    (let cs := 0x11 :: (List.replicate 15 0 ++ [3])
     let t := (waiting (started cs true) .clear).modGen 0 0 (fun x => { x with state := .loaded })
     t.nextRequest 0 .clear = some (⟨.clear, 0, 0, false⟩, desc cs true) ∧ (desc cs true).opd 16 1 = 3 ∧
     failing ((t.dropRequest 0 ⟨.clear, 0, 0, false⟩).clearChecks 0 (desc cs true)) = []) ∧
    ((ready.modGen 0 1 (fun x => { x with state := .retiring })).gen 0 1).state = .retiring ∧
    (ready.modGen 0 1 (fun x => { x with state := .retiring })).genRefs 0 1 = 0 := by decide +kernel

/-- Core 0 runs the update of group 0, whose entry and state are given. -/
def updating (fs : List (Nat × Nat × Nat)) (x : GroupState) (f : Part → Part := id) : State :=
  share (task 0x000F (fields 16 []) []) [cell] [(3, oneGroup fs)] (fun q => f { q with groups := [x] })

/-- The update that core 0 then runs. -/
def update (fs : List (Nat × Nat × Nat)) : Running := running (task 0x000F (fields 16 []) []) [cell] [(3, oneGroup fs)]

/-- The state entry of an active group. -/
def active : GroupState := ⟨0, 0, 0, 0, false, false, none, false, false, false⟩

theorem witness_GroupsFreezeAndUpdate :
    (∀ x ∈ [(active, 0), ({ active with frozen := true }, 0), (active, 8)],
      let fs := [(1, 1, x.2)]
      let s := updating fs x.1
      let r := update fs
      s.power.off = false ∧ s.runningOn 0 = some r ∧ r.task.op = 0x000F ∧
      ((s.takeFrames 0 r).2.updateOf r 0).map (fun w => w.e.touchMode) = some (x.2 / 4) ∧
      ((s.takeFrames 0 r).2.group r.p 0).frozen = x.1.frozen ∧ ((s.takeFrames 0 r).2.group r.p 0).status ≠ 4) ∧
    ((updating [(1, 1, 8)] active).takeFrames 0 (update [(1, 1, 8)])).2.touchBit 0 (GroupEntry.ofBytes (fields 128 [(1, 1, 8)])) =
      false := by decide +kernel

theorem witness_GroupsFreezeAndUpdate_write :
    let s := fun (x : GroupState) => admitted (plan [] []) (fun q => { q with groups := [x] })
    (s active).takesWrite 0x800014 = true ∧ (s active).groupPart = some 0 ∧ bitAt (1 : Word).toNat 0 = 1 ∧
    bitAt (0 : Word).toNat 0 ≠ 1 ∧
    ((s { active with frozenAtAdmission := true }).group 0
      ((s { active with frozenAtAdmission := true }).get Reg.devGroupSelect_group)).frozenAtAdmission = true := by
  decide +kernel

/-- A context plan of one serving range of two contexts and one KV layer. -/
def contexts : List Byte :=
  fields 40 [(0, 2, 1), (2, 2, 1), (18, 2, 2), (20, 1, 2), (24, 4, 1024), (28, 2, 1), (32, 2, 1), (34, 2, 8), (36, 1, 9)]

theorem witness_ContextsOpenAtBoundaries :
    (∀ a ∈ [1, 2, 3],
      let bs := 0x10 :: (List.replicate 15 0 ++ [a, 0, 0, 0, 255, 255])
      (started bs).findDesc 0 0x10 (fun d => d.opd 16 1 == a) = some (desc bs) ∧ (desc bs).ctxStray = none ∧
      (a = 1 → (started bs).findDesc 0 0x10 (fun d => d.opd 16 1 != 2 && d.opd 16 1 != 3) = some (desc bs))) ∧
    (let bs := 0x10 :: (List.replicate 15 0 ++ [1, 0, 0, 0, 255, 255, 0, 0, 0, 1])
     let d := desc bs true
     let pl := plan [] [] [(9, contexts)]
     let s := ({ waiting (started bs true) .context (fun q => { q with phase := .admitted, plan := some 1 }) with
       plans := [pl] }).set (Reg.kvPoolPages 0) 4
     s.nextRequest 0 .context = some (⟨.context, 0, 0, false⟩, d) ∧
     failing ((s.dropRequest 0 ⟨.context, 0, 0, false⟩).ctxChecks 0 d) = [] ∧
     (s.dropRequest 0 ⟨.context, 0, 0, false⟩).planOf 0 = some pl ∧ (pl.rangeOf (d.opd 18 2)).map (fun x => (x.1.die, x.2)) = some (0, 0) ∧
     d.opd 16 1 = 1 ∧ failing ((waiting (started bs true) .context).ctxChecks 0 d) = [2, 4]) := by decide +kernel

/-- A fork of context 0 into context 1 with a prefix of one position, and the close of context 0, pass their checks. -/
theorem witness_ContextsOpenAtBoundaries_more :
    ∀ bs ∈ [0x10 :: (List.replicate 15 0 ++ [2, 0, 1, 0, 0, 0, 0, 0, 0, 1, 0, 0, 1]),
        0x10 :: (List.replicate 15 0 ++ [3])],
      let d := desc bs true
      let pl := plan [] [] [(9, contexts)]
      let x : Ctx := { Ctx.init with state := .opened, kind := 2, length := 5, maxLen := 256, kvLayers := 1 }
      let s := (({ waiting (started bs true) .context (fun q => { q with phase := .admitted, plan := some 1 }) with
        plans := [pl] }).set (Reg.kvPoolPages 0) 4).setCtx 0 x
      s.nextRequest 0 .context = some (⟨.context, 0, 0, false⟩, d) ∧
      failing ((s.dropRequest 0 ⟨.context, 0, 0, false⟩).ctxChecks 0 d) = [] ∧
      (s.dropRequest 0 ⟨.context, 0, 0, false⟩).planOf 0 = some pl ∧ (pl.rangeOf (d.opd 18 2)).isSome = true ∧
      (d.opd 16 1 = 2 ∨ d.opd 16 1 = 3) := by decide +kernel

/-! ### Plans -/

/-- Ring 0 has started the descriptor; slot 0 of pool 0 is FILLED for a command. -/
def commanded (bs : List Nat) : State :=
  let s := started bs
  { (s.set (Reg.winPool_use 0 0) 2) with pools := s.pools.set 0 ⟨[slotIn .filled], 0⟩ }

theorem witness_PlansAreLoadedAndAdmitted :
    (commanded [2]).power.off = false ∧ (commanded [2]).findOp 0 0x02 = some (desc [2]) ∧
    (desc [2]).strayOperand [(16, 2), (20, 4)] = none ∧ (desc [2]).badPool 16 = none ∧
    (commanded [2]).slotFilled ((commanded [2]).ringPart 0) ((desc [2]).opd 16 2) ((desc [2]).opd 20 4) 2 = true := by
  decide +kernel

/-- A descriptor of this operation whose first operand is plan 1. -/
def named (op : Nat) : List Nat := op :: (List.replicate 15 0 ++ [1])

theorem witness_PlansAreLoadedAndAdmitted_unload :
    let s := { started (named 4) with plans := [plan [] []] }
    let t := s.modPart 0 (fun q => { q with phase := .admitted, plan := some 1 })
    s.findOp 0 0x04 = some (desc (named 4)) ∧ (desc (named 4)).strayOperand [(16, 4)] = none ∧ (desc (named 4)).opd 16 4 = 1 ∧
    s.plans.any (fun pl => pl.planId == 1 && pl.partition == s.ringPart 0) = true ∧
    (s.part (s.ringPart 0)).phase = .idle ∧ t.findOp 0 0x04 = some (desc (named 4)) ∧
    t.plans.any (fun pl => pl.planId == 1 && pl.partition == t.ringPart 0) = true ∧
    (t.part (t.ringPart 0)).plan = some 1 ∧ (t.part (t.ringPart 0)).phase ≠ .idle := by decide +kernel

theorem witness_PlansAreLoadedAndAdmitted_admit :
    let s := { commanded (named 3) with plans := [plan [] []] }
    let t := s.modPart 0 (fun q => { q with phase := .admitted })
    s.findOp 0 0x03 = some (desc (named 3)) ∧ (desc (named 3)).strayOperand [(16, 4), (20, 2), (24, 4)] = none ∧
    (desc (named 3)).badPool 20 = none ∧ s.plans.any (fun pl => pl.planId == 1 && pl.partition == s.ringPart 0) = true ∧
    (s.parts[s.ringPart 0]?).map (·.phase) = some .idle ∧ (t.parts[t.ringPart 0]?).map (·.phase) = some .admitted ∧
    s.slotFilled (s.ringPart 0) ((desc (named 3)).opd 20 2) ((desc (named 3)).opd 24 4) 2 = true := by decide +kernel

theorem witness_PlansAreLoadedAndAdmitted_check :
    let s := { ready with plans := [plan [] []] }.modPart 0 (fun q => { q with phase := .checking, plan := some 1 })
    (s.parts[0]?).map (·.phase) = some .checking ∧ (s.parts[0]?).bind (fun q => q.plan.bind s.planById) = some (plan [] []) := by
  decide +kernel

/-! ### The fabric -/

/-- A packet to this position, with these header fields and these data. -/
def packet (fs : List (Nat × Nat × Nat)) (data : List Byte := []) : Packet := ⟨fields 32 fs, data, [], 0⟩

/-- A fabric section with one route, to position 5, and four slots of one peer: receive, send, receive, send; one
reduction stripe between that peer above and below. -/
def fabric : List Byte :=
  fields 288 ([(0, 2, 1), (4, 4, 1), (8, 4, 4), (16, 2, 1), (28, 4, 2), (40, 4, 64), (44, 4, 96), (52, 4, 224),
    (64, 4, 5), (69, 1, 1), (80, 8, 1), (99, 1, 2), (131, 1, 1), (148, 2, 1), (163, 1, 2), (180, 2, 2), (195, 1, 1), (212, 2, 3),
    (228, 1, 1), (248, 1, 1)])

/-- The module in a step of a plan with that section and these tasks, port 0 UP. -/
def joined (ts : List Machine.Task) (f : Part → Part := id) : State :=
  (runs (plan ts [cell] [(2, fabric)]) f).set (Reg.fabPort_state 0) 2

theorem witness_ArrivingPacketsAreActedOn :
    let s := joined []
    (∀ x ∈ [1, 2, 3, 4, 7, 8], pkKind (packet [(3, 1, x)]) = x) ∧
    (∀ x ∈ [1, 2, 3, 4, 5, 6],
      pkKind (packet [(3, 1, 9)] (fields 64 [(0, 1, x)])) = 9 ∧ bulkOp (packet [(3, 1, 9)] (fields 64 [(0, 1, x)])) = x) ∧
    s.power.off = false ∧ ready.portUp 0 = false ∧ s.portUp 0 = true ∧ pkDest (packet [(0, 4, 5)]) ≠ s.position ∧
    pkDest (packet []) = s.position ∧ s.fate 0 (packet [(6, 2, 1)]) = .wait ∧ s.fate 0 (packet []) = .take ∧
    (s.modPort 0 (fun q => { q with fence := [(0, 0)] })).fate 0 (packet [(6, 2, 4095)]) = .stale ∧
    (∀ x ∈ [0, 10], pkKind (packet [(3, 1, 9)] (fields 64 [(0, 1, x)])) = 9 ∧
      bulkUnknown (packet [(3, 1, 9)] (fields 64 [(0, 1, x)])) = true) := by decide +kernel

/-- A transfer of 64 bytes in this mode, from slot 0 on. -/
def moving (mode : Nat) (slot : Nat := 0) : Machine.Task :=
  task 0x000D (fields 64 [(0, 1, mode), (3, 1, 1), (24, 8, 64), (32, 2, slot), (36, 2, 0xFFFF)]) [0, noTensor, noTensor, 0]

/-- A reduction of one FP32 element over the group of that section. -/
def reducing : Machine.Task :=
  task 0x000E (fields 64 [(2, 1, 9), (3, 1, 9), (9, 1, 1), (16, 8, 1), (24, 2, 4)]) [0, noTensor, noTensor, 0]

theorem witness_MatchedPacketsLand :
    let s := joined [moving 2]
    s.planOf 0 = some (plan [moving 2] [cell] [(2, fabric)]) ∧ s.sectionFor 0 (packet []) = some fabric ∧
    (matchSlot fabric (packet [])).bind ((plan [moving 2] [cell] [(2, fabric)]).transferOf 2) = some (0, 0, moving 2) ∧
    (moving 2).transfer.gradient = false ∧ ready.planOf 0 = none := by decide +kernel

/-- While a plan is admitted, a packet of a slot that no task receives in matches no transfer, and no stripe. -/
theorem witness_MatchedPacketsLand_none :
    (∀ pl sec, (joined []).planOf 0 = some pl → (joined []).sectionFor 0 (packet []) = some sec →
      (matchSlot sec (packet [])).bind (pl.transferOf 2) = none) ∧
    (joined []).redOf 0 (packet []) .upIn = none ∧ (joined []).redOf 0 (packet []) .downIn = none := by
  refine ⟨fun pl sec h1 h2 => ?_, by decide +kernel, by decide +kernel⟩
  have e1 : (joined []).planOf 0 = some (plan [] [cell] [(2, fabric)]) := by decide +kernel
  have e2 : (joined []).sectionFor 0 (packet []) = some fabric := by decide +kernel
  rw [e1, Option.some.injEq] at h1
  rw [e2, Option.some.injEq] at h2
  rw [← h1, ← h2]
  decide +kernel

theorem witness_MatchedPacketsLand_stripes :
    let s := joined [reducing]
    (∀ k ∈ [(LegKind.upIn, 0), (LegKind.downIn, 2)],
      (s.redOf 0 (packet [(8, 2, k.2)]) k.1).map (fun x => (x.1.r.x.gradient, x.2.k)) = some (false, 0)) := by decide +kernel

theorem witness_TransfersAndReductionsUseTheirSlots :
    ∀ m ∈ [1, 2, 3],
      let s := joined [moving m 1]
      let r : Running := ⟨0, plan [moving m 1] [cell] [(2, fabric)], ⟨0, [moving m 1], [cell]⟩, 0, 0, moving m 1⟩
      s.power.off = false ∧ s.runningOn 0 = some r ∧ r.task.op = 0x000D ∧ r.task.transfer.mode = m ∧ r.task.transfer.length ≠ 0 ∧
      r.slot 0 = some ⟨0, cell⟩ ∧ r.slot 3 = some ⟨0, cell⟩ ∧ (s.run r.p r.g r.t).finished = [] := by decide +kernel

/-- A transfer of no bytes. -/
theorem witness_TransfersAndReductionsUseTheirSlots_none :
    ∀ m ∈ [1, 2, 3],
      let t := task 0x000D (fields 64 [(0, 1, m), (3, 1, 1)]) [0, noTensor, noTensor, 0]
      let r : Running := ⟨0, plan [t] [cell] [(2, fabric)], ⟨0, [t], [cell]⟩, 0, 0, t⟩
      (joined [t]).runningOn 0 = some r ∧ r.task.op = 0x000D ∧ r.task.transfer.mode = m ∧ r.task.transfer.length = 0 := by
  decide +kernel

theorem witness_TransfersAndReductionsUseTheirSlots_windows :
    let s := joined [moving 1 1]
    let late := joined [moving 1 1] (fun q => { q with outSlots := [(1, ⟨some [], true, false⟩)] })
    ((s.slotsNow 0)[1]?).map (fun e => (e.role, e.exposure)) = some (1, (s.part 0).index) ∧ (s.outSlot 0 1).sent = false ∧
    (s.outSlot 0 1).missed = false ∧ (s.part 0).phase = .running ∧ (late.outSlot 0 1).missed = true ∧
    (late.outSlot 0 1).packets.isSome = true ∧ (late.outSlot 0 1).sent = false := by decide +kernel

theorem witness_TransfersAndReductionsUseTheirSlots_reduction :
    let s := joined [reducing]
    let d := joined [reducing] (fun q => { q with stripes := [{ StripeRun.init 0 0 0 with ownAt := some 0 }] })
    let r : Running := ⟨0, plan [reducing] [cell] [(2, fabric)], ⟨0, [reducing], [cell]⟩, 0, 0, reducing⟩
    s.runningOn 0 = some r ∧ r.task.op = 0x000E ∧ s.fabSec r.p = some fabric ∧ r.slot 0 = some ⟨0, cell⟩ ∧ r.slot 3 = some ⟨0, cell⟩ ∧
    (r.redTask fabric).ss.length = 1 ∧ (s.stripe r.p r.g r.t 0).ownAt = none ∧ d.runningOn 0 = some r ∧
    (d.stripe r.p r.g r.t 0).ownAt ≠ none := by decide +kernel

/-- An item that waits at a port. -/
def item (cls : Nat) (late : Bool := false) : PortItem := ⟨cls, .packet (packet []), 0, none, late, none, none⟩

theorem witness_PacketsAreRouted :
    let s := joined []
    let q := s.modPort 0 (fun p => { p with queue := [item 2], credits := [128, 1024, 1024, 1024, 1024] })
    let w := joined [] (fun q => { q with switches := [(5, 3, 3)], exposure := 3 })
    s.isFor (s.portPart 0) (pkDest (packet [(0, 4, 5)])) = false ∧ s.fate 0 (packet [(0, 4, 5)]) = .take ∧
    ((s.fabSec (s.portPart 0)).bind (fun b => fabRoute b 5)).isSome = true ∧ pkDest (packet [(0, 4, 6)]) = 6 ∧
    (s.fabSec (s.portPart 0)).bind (fun b => fabRoute b 6) = none ∧ pkKind (packet [(3, 1, 6)]) = 6 ∧
    q.portUp 0 = true ∧ q.nextItem 0 = some (item 2, false) ∧
    (w.part 0).switches.find? (fun y => y.1 == 5 && decide (y.2.2 ≤ (w.part 0).exposure)) = some (5, 3, 3) ∧
    ((w.fabSec 0).bind (fun b => fabRoute b 5)).isSome = true ∧ s.nextItem 0 = none ∧
    (let v := joined [] (fun q => { q with switches := [(6, 3, 3)], exposure := 3 })
     (v.part 0).switches.find? (fun y => y.1 == 6 && decide (y.2.2 ≤ (v.part 0).exposure)) = some (6, 3, 3) ∧
     (v.fabSec 0).bind (fun b => fabRoute b 6) = none) := by decide +kernel

theorem witness_PortsTrainAndFail :
    let s := withField (Reg.fabPort_state 0) 1
    let u := withField (Reg.fabPort_state 0) 2
    s.power.off = false ∧ s.portState 0 = 1 ∧ laneCount 1 ≤ 1 ∧ u.portUp 0 = true ∧ u.portState 0 = 2 ∧
    bitAt (u.get (Reg.fabPort_failedLanes 0)) 3 = 0 ∧ (u.port 0).logical 3 = some 3 ∧ u.get (Reg.fabPort_spareUsed 0) = 0 ∧
    bitAt (u.get (Reg.fabPort_failedLanes 0)) 8 = 0 ∧ u.laneBad 1 1 = true ∧
    (∀ x ∈ [(0, false, true), (5, true, false), (0, true, true)],
      let f : Flit := ⟨BitVec.ofNat 32 x.1, x.2.1, x.2.2, 0⟩
      (f.crcOk = x.2.2) ∧ (bitsAt f.header.toNat 0 12 = (u.port 0).link.expected ↔ x.1 = 0)) ∧
    (u.port 0).link.naked ≠ some 3 ∧
    (let f : SentFlit := ⟨3, false, false, 0, 0, 0, 0, [], none, 0, 0⟩
     let v := u.modPort 0 (fun q => { q with link := { q.link with replay := [f], naked := some 3 } })
     (v.port 0).link.naked = some 3 ∧ (v.port 0).link.replayFrom 3 = [f] ∧ readOr 0 (v.port 0).attempts 3 < 8 ∧
     8 ≤ readOr 0 ((v.modPort 0 (fun q => { q with attempts := [(3, 8)] })).port 0).attempts 3) ∧
    u.get Reg.fabTimeConfig_parentPort ≠ 1 := by decide +kernel

/-- A RESHARD descriptor with this action. -/
def resharding (a : Nat) : List Nat := 0x13 :: (List.replicate 15 0 ++ [a])

theorem witness_ReshardingSwitchesSections :
    (commanded (resharding 1)).findReshard 0 (fun a => a != 2 && a != 3) = some (desc (resharding 1)) ∧
    (desc (resharding 1)).strayReshard = none ∧ (desc (resharding 1)).badPool 18 = none ∧ (desc (resharding 1)).action = 1 ∧
    (commanded (resharding 1)).slotFilled ((commanded (resharding 1)).ringPart 0) ((desc (resharding 1)).opd 18 2)
      ((desc (resharding 1)).opd 20 4) 2 = true ∧
    (commanded (resharding 2)).findReshard 0 (· == 2) = some (desc (resharding 2)) ∧ (desc (resharding 2)).strayReshard = none ∧
    (commanded (resharding 3)).findReshard 0 (· == 3) = some (desc (resharding 3)) ∧ (desc (resharding 3)).strayReshard = none := by
  decide +kernel

theorem witness_ReshardingSwitchesSections_boundary :
    let s := joined [] (fun q => { q with step := 4, reshard := ⟨some fabric, some 4, 1, 0, 0⟩ })
    s.inStep 0 = true ∧ (s.parts[0]?).map (fun q => (q.reshard.step, q.reshard.prepared, q.step, q.index)) =
      some (some 4, some fabric, 4, 0) ∧ s.ports.all (fun q => q.waiting.isEmpty && q.notices.isEmpty) = true ∧ s.portPart 0 = 0 ∧
    ({ s with time := { s.time with now := 2 ^ 60 } }.modPort 0 (fun q => { q with
      queue := [⟨1, .packet (packet [(3, 1, 6)]), 0, none, false, none, none⟩] })).fenceLate 0 0 = true := by decide +kernel

/-! ### Securing and failures -/

/-- A securing plan of one privileged group; the partner is position 3, the ward position 0. -/
def securing : List Byte := fields 72 [(0, 2, 1), (4, 4, 1), (8, 4, 3), (12, 4, 0), (16, 4, 4), (32, 4, 1), (68, 1, 2)]

/-- The plan with that securing plan and one group. -/
def sealsPlan : Plan := plan [] [cell] [(3, oneGroup []), (8, securing)]

/-- Partition 0 in a step of that plan. -/
def secured (f : Part → Part := id) : State := inStep sealsPlan f

/-- The Fixer of partition 0 changed. -/
def fixing (f : Fixer → Fixer) (q : Part) : Part := { q with fixer := f q.fixer }

/-- A due sweep of every item. -/
def due : DueSweep := ⟨2, true, 0, [], false⟩

theorem witness_TheFixerSeals :
    let asks := fun (bs : List Nat) => ({ secured with rings := (started bs).rings } : State)
    let sec := fun (n : Nat) => 0x14 :: (List.replicate 15 0 ++ [n])
    (started (sec 1)).findOp 0 0x14 = some (desc (sec 1)) ∧ (desc (sec 1)).strayOperand [(16, 1)] = none ∧
    (started (sec 1)).inStep ((started (sec 1)).ringPart 0) = false ∧
    (started (sec 1 ++ [1])).findOp 0 0x14 = some (desc (sec 1 ++ [1])) ∧
    (desc (sec 1 ++ [1])).strayOperand [(16, 1)] = some 17 ∧
    (∀ n ∈ [0, 1, 2], (asks (sec n)).findOp 0 0x14 = some (desc (sec n)) ∧ (desc (sec n)).opd 16 1 = n ∧
      (desc (sec n)).strayOperand [(16, 1)] = none ∧ (asks (sec n)).inStep ((asks (sec n)).ringPart 0) = true) := by
  decide +kernel

theorem witness_TheFixerSeals_sweeps :
    secured.planOf 0 = some sealsPlan ∧
    (let s := secured (fixing (fun f => { f with dues := [due] }))
     s.fixerMayStart 0 = true ∧ (s.part 0).restoreDue = [] ∧ s.dueNow 0 = some due) ∧
    (let s := secured (fixing (fun f => { f with sweep := some due }))
     (s.part 0).fixer.sweep = some due ∧ (s.part 0).fixer.left = []) ∧
    (secured (fun q => { q with groups := [{ active with status := 1 }] })).copyReady 0 0 sealsPlan = true ∧
    secured.inStep 0 = true ∧ secured.copyReady 0 0 sealsPlan = false ∧
    ((secured (fixing (fun f => { f with copying := [(0, 2)] }))).part 0).fixer.copying.find? (fun x => x.1 == 0) = some (0, 2) ∧
    (let s := secured (fixing (fun f => { f with sweep := some due, left := [0, recordItem] }))
     (s.part 0).fixer.copying.find? (fun x => x.1 == 0) = none ∧ (s.part 0).fixer.sweep.isSome = true ∧
     (s.part 0).fixer.left.head? = some 0) := by
  decide +kernel

/-- The first 48 bytes of a seal record of item `item`, VALID and without data. -/
def sealHead (item : Nat) : List Byte := fields 48 [(0, 4, item), (5, 1, 1)]

/-- That seal record with this digest. -/
def sealBytes (item : Nat) (digest : List Byte) : List Byte := sealHead item ++ digest ++ List.replicate 16 0

/-- The digest that such a record holds. -/
def sealDigest (item : Nat) : List Byte := sha512 (sealHead item)

/-- The bytes of a memory from an address on. -/
def cells (a : Nat) (bs : List Byte) : Memory := bs.zipIdx.map (fun x => (a + x.2, x.1))

/-- The place of the copies of item 0. -/
def place0 : ItemPlace := (secured.ownPlace sealsPlan 0).getD ⟨0, 0, 0⟩

/-- That record lies `k` bytes behind the place of the first seal of item 0; the item's mirror waits. -/
def mirroring (k : Nat) : State :=
  { secured (fixing (fun f => { f with mirrors := [0] })) with neg := cells (place0.dir + k) (sealBytes 0 (sealDigest 0)) }

/-- The same with the mirror taken from the list of those that wait. -/
def popped (k : Nat) : State := (mirroring k).modFixer 0 (fun f => { f with mirrors := f.mirrors.filter (· != 0) })

set_option maxRecDepth 8000 in
theorem mirroring_digest :
    ((popped 0).sealAt place0 0).digestOf ((popped 0).copyAt place0 0) = ((popped 0).sealAt place0 0).digest := rfl

theorem witness_TheFixerSeals_mirror :
    (∃ h, sealsPlan.securing = some h) ∧ (mirroring 0).planOf 0 = some sealsPlan ∧
    (mirroring 0).ownPlace sealsPlan 0 = some place0 ∧ (mirroring 0).mirrorNext 0 sealsPlan 0 = true ∧
    (popped 0).firstValid 0 0 0 place0 (fun _ => true) ((popped 0).validSlots place0 0) =
      (some ((popped 0).sealAt place0 0, (popped 0).copyAt place0 0), popped 0) := by
  refine ⟨⟨_, rfl⟩, by decide +kernel, by decide +kernel, by decide +kernel, ?_⟩
  have hv : (popped 0).validSlots place0 0 = [0] := by decide +kernel
  rw [hv, State.firstValid, if_neg (by simp), if_pos mirroring_digest]

theorem witness_TheFixerSeals_mirror_none :
    (mirroring 4096).ownPlace sealsPlan 0 = some place0 ∧ (mirroring 4096).mirrorNext 0 sealsPlan 0 = true ∧
    ((popped 4096).firstValid 0 0 0 place0 (fun _ => true) ((popped 4096).validSlots place0 0)).1 = none := by
  refine ⟨by decide +kernel, by decide +kernel, ?_⟩
  have hv : (popped 4096).validSlots place0 0 = [] := by decide +kernel
  rw [hv]
  rfl

theorem witness_DrainsResumeOrHandOver :
    (let s := secured (fun q => { q with phase := .faulted })
     s.planOf 0 = some sealsPlan ∧ (s.part 0).phase = .faulted ∧ (s.part 0).drainDone = false ∧ s.sharesRun 0 = false ∧
     (s.part 0).fixer.sweep = none ∧ (s.part 0).fixer.settled = false ∧ (s.part 0).fixer.asked = [] ∧
     (s.part 0).fixer.failed = false) ∧
    (secured (fun q => { q with phase := .faulted, drainDone := true, exposure := 2 ^ 40
                                barrier := { q.barrier with drained := some 0 } })).mayResume 0 = true ∧
    (let s := secured (fun q => fixing (fun f => { f with departing := true }) { q with drainDone := true })
     (s.part 0).fixer.departing = true ∧ (s.part 0).drainDone = true ∧ (s.part 0).fixer.handed = false ∧
     (s.part 0).fixer.mirrors = [] ∧ (s.part 0).fixer.inFlight = [] ∧ s.parts[0]?.isSome = true) ∧
    bitAt (3 : Word).toNat 1 = 1 ∧ bitAt (3 : Word).toNat 0 = 1 ∧ (withField Reg.survSpareControl_standby 1).standby = true ∧
    (let s := secured (fun q => fixing (fun f => { f with takeover := true, takeAt := 5 }) { q with phase := .admitted, exposure := 5 })
     (s.part 0).fixer.takeover = true ∧ s.standby = false ∧ (s.part 0).fixer.asked = [] ∧ (s.part 0).fixer.failed = false ∧
     (s.part 0).phase = .admitted ∧ (s.part 0).exposure = (s.part 0).fixer.takeAt) := by decide +kernel

/-- A packet of class 4 about item 9 whose data are these bytes. -/
def bulk (data : List Byte) : Packet :=
  packet [(4, 2, 64 + data.length), (8, 2, 0xFFFF), (12, 4, 7)] (fields 64 [(4, 4, 9), (16, 8, 4098)] ++ data)

theorem witness_BulkPacketsMoveItems :
    let pk := bulk [5]
    let flying := secured (fixing (fun f => { f with inFlight := [(7, leNat (slice pk.data 0 16))] }))
    let asks := secured (fixing (fun f => { f with asked := [9] }))
    (secured.wardPlan 0 pk).isSome = true ∧ fieldAt (fields 64 [(4, 4, 9), (8, 8, 4096), (16, 8, 4098)]) 8 8 =
      streamData (fieldAt (fields 64 [(4, 4, 9), (8, 8, 4096), (16, 8, 4098)]) 16 8) ∧
    fieldAt pk.data 8 8 + ((pkData pk).drop 64).length ≤ streamData (fieldAt pk.data 16 8) ∧ ready.planOf 0 = none ∧
    pkSlot pk = 0xFFFF ∧ ((flying.part 0).fixer.inFlight.contains (pkOffset pk, leNat (slice pk.data 0 16))) = true ∧
    (secured.part 0).fixer.inFlight.contains (pkOffset pk, leNat (slice pk.data 0 16)) = false ∧
    asks.planOf 0 = some sealsPlan ∧ (asks.part 0).fixer.asked.contains (bulkItem pk) = true ∧
    (asks.part 0).fixer.admission = false ∧ (secured.part 0).fixer.asked.contains (bulkItem pk) = false ∧
    secured.standby = false ∧ (SealRec.ofBytes ((pkData pk).drop 64)).state ≠ 1 ∧
    ((asks.noteInvalid 0 9 1).part 0).fixer.retried.contains 9 = false ∧
    ((secured (fixing (fun f => { f with asked := [9], retried := [9] }))).part 0).fixer.retried.contains 9 = true ∧
    (pkData (packet [(4, 2, 16)] (List.replicate 16 0))).length = 16 ∧
    (((secured.wardPlan 0 pk).map (fun h => secured.noteWard h 9 4096)).bind (fun s =>
      (s.wardPlan 0 pk).bind (fun h => s.wardPlace h 9))).isSome = true := by decide +kernel

theorem ward_none (pk : Packet) : ready.wardPlan 0 pk = none := rfl

theorem copy_none (s : State) (a : Nat) : s.storedCopy a 0 = ⟨[], []⟩ := rfl

set_option maxRecDepth 8000 in
/-- A seal record whose digest is that of its (empty) copy. -/
theorem witness_BulkPacketsMoveItems_good :
    let r := SealRec.ofBytes ((pkData (bulk (sealBytes 9 (sealDigest 9)))).drop 64)
    r.state = 1 ∧ r.item = 9 ∧ bulkItem (bulk (sealBytes 9 (sealDigest 9))) = 9 ∧ r.digestOf ⟨[], []⟩ = r.digest :=
  ⟨rfl, rfl, rfl, rfl⟩

set_option maxRecDepth 8000 in
/-- Of two seal records with different digests, one is not that of its copy. -/
theorem witness_BulkPacketsMoveItems_bad :
    ∃ b ∈ ([0, 1] : List Byte), (let r := SealRec.ofBytes ((pkData (bulk (sealBytes 9 (List.replicate 64 b)))).drop 64)
      r.state = 1 ∧ r.item = 9 ∧ r.digestOf ⟨[], []⟩ ≠ r.digest) := by
  by_cases h : sealDigest 9 = List.replicate 64 0
  · refine ⟨1, by simp, rfl, rfl, fun e => ?_⟩
    have e1 : sealDigest 9 = List.replicate 64 1 := e
    rw [h] at e1
    exact absurd e1 (by decide +kernel)
  · exact ⟨0, by simp, rfl, rfl, fun e => h e⟩

theorem witness_FailuresReachTheirPlans :
    3 < ready.fitted.ccc ∧ ready.coreFailed 3 = false ∧ (ready.setPair Reg.sysInvCoreFailed 8).coreFailed 3 = true ∧
    (ready.coreFailed 63 = false ∧ 63 < ready.fitted.ccc ∧ ready.fitted.ccc ≤ 64) ∧ ready.fitted.hasLink 9 0 1 = false ∧
    ({ ready with d2dDown := [linkName 2 0 1] } : State).d2dDown.contains (linkName 2 0 1) = true ∧ 7 < 8 ∧
    ready.fitted.hasLink 2 0 1 = true ∧ ready.d2dDown.contains (linkName 2 0 1) = false ∧ 2 < ready.fitted.ss ∧
    ready.rowsUsed[2]? = some 0 ∧ 0 < repairRows ∧
    ({ ready with rowsUsed := [repairRows] } : State).rowsUsed[0]? = some repairRows ∧
    ({ ready with retired := [(0, 5)] } : State).retired.contains (0, 5) = true ∧ ready.retired.contains (0, 5) = false ∧
    (plan [] [cell]).tensorAt 0 0 = some (0, 0, cell) ∧ (inStep (plan [] [cell])).planOf 0 = some (plan [] [cell]) ∧
    (plan [] [{ cell with flags := 1 }] [(3, oneGroup [])]).tensorAt 0 0 = some (0, 0, { cell with flags := 1 }) ∧
    (plan [] [{ cell with flags := 1 }] [(3, oneGroup [])]).groupOf 0 0 = some 0 ∧
    ({ cell with flags := 1 } : Tensor).persistent = true ∧ cell.persistent = false := by decide +kernel

/-! ### Intake, outputs and power -/

/-- The parameter block of a take of one row of text by unit 0, serving. -/
def takePar : List Byte := fields 64 [(0, 1, 2), (1, 1, 2), (3, 1, 0x12), (4, 2, 1), (16, 4, 4)]

/-- Unit 0 has adopted that take, has one buffer assembling, and is changed. -/
def taking (f : IntakeUnit → IntakeUnit) (s : State := ready) : State :=
  s.modIntake 0 (fun x => f { x with adopted := some ⟨0, takePar, 0⟩, buffers := [⟨.assembling, [.unassigned]⟩], active := some 0 })

/-- A sample that is in conversion for row 0 of that buffer. -/
def sample : IntakeSample := ⟨0, 0, 0, slotIn .consuming, [], takePar, .row 0 0, 0, 0⟩

theorem witness_IntakeSettlesRowsAndBanks :
    (let s := taking (fun x => { x with queue := [(0, 0, 0)] })
     s.power.off = false ∧ (s.intakeUnit 0).adopted = some ⟨0, takePar, 0⟩ ∧ (s.intakeUnit 0).active.isSome = true ∧
     (s.intakeUnit 0).idle (TakePar.ofBytes takePar) = true ∧
     (s.intakeUnit 0).nextTarget (TakePar.ofBytes takePar) = some (.row 0 0) ∧
     (s.intakeUnit 0).queue.find? (fun y => y.1 == 0) = some (0, 0, 0)) ∧
    (let s := taking (fun x => { x with samples := [sample] })
     s.converting 0 0 = some sample ∧ 0 ≤ s.slowBudget 0 sample ∧ s.targetOpen 0 sample = true) ∧
    (taking (fun x => { x with copies := [⟨0, 0, [], 1, 0, 0⟩] })).intake[0]?.bind (fun x => x.copies[0]?) =
      some ⟨0, 0, [], 1, 0, 0⟩ ∧
    (let s := taking id (share (task 0x0010 takePar []) [])
     s.runningOn 0 = some (running (task 0x0010 takePar []) []) ∧ (task 0x0010 takePar []).par 2 1 = 0 ∧
     (s.intakeUnit 0).adopted = some ⟨0, takePar, 0⟩) := by decide +kernel

/-- A DICTIONARY descriptor with this action. -/
def naming (a : Nat) : List Nat := 0x12 :: (List.replicate 15 0 ++ [a])

theorem witness_IntakeSettlesRowsAndBanks_dictionaries :
    (commanded (naming 1)).findDesc 0 0x12 (fun d => d.opd 16 1 != 2) = some (desc (naming 1)) ∧ (desc (naming 1)).dictStray = none ∧
    (desc (naming 1)).opd 16 1 = 1 ∧
    (commanded (naming 1)).slotFilled ((commanded (naming 1)).ringPart 0) ((desc (naming 1)).opd 20 2) ((desc (naming 1)).opd 24 4) 2 =
      true ∧
    (started (naming 2)).findDesc 0 0x12 (fun d => d.opd 16 1 == 2) = some (desc (naming 2)) ∧ (desc (naming 2)).dictStray = none ∧
    (waiting (started (naming 2) true) .dictionary).nextRequest 0 .dictionary =
      some (⟨.dictionary, 0, 0, false⟩, desc (naming 2) true) ∧
    ((taking (fun x => { x with loads := [⟨0, 0, 0, 0, 0, 1, ⟨7, 0, []⟩⟩] })).intake[0]?).bind (fun x =>
      x.loads.find? (fun l => l.bank == 1)) = some ⟨0, 0, 0, 0, 0, 1, ⟨7, 0, []⟩⟩ := by decide +kernel

theorem witness_OutputsAndRecordsLeave :
    (∀ op ∈ [0x11, 0x12],
      (share (task op (fields 32 []) [0]) [cell]).runningOn 0 = some (running (task op (fields 32 []) [0]) [cell]) ∧
      (running (task op (fields 32 []) [0]) [cell]).slot 0 = some ⟨0, cell⟩ ∧
      (running (task op (fields 32 []) [0]) [cell]).usesEmpty = false) ∧
    ready.events.path = [] ∧ ((ready.raise Ev.busLow UnitId.power {}).events.path).length = 1 := by decide +kernel

theorem witness_PowerIsWatchedAndManaged :
    ready.power.off = false ∧ ready.busState = 0 ∧ (withField Reg.pwrStatus_busState 1).busState = 1 ∧
    (withField Reg.pwrStatus_busState 2).busState = 2 ∧ ready.get Reg.pwrClock_now100mhz ≤ 63 ∧
    ready.power.once.contains (Ev.coolantLimit.code, UnitId.power.num) = false ∧
    (∀ x ∈ ready.fitted.margins [999], 0 < x.2) ∧ ready.power.heatLimit = clockCeiling ∧
    (0, 0) ∈ ready.fitted.margins [1000] ∧ ready.power.once.contains (Ev.thermalThrottle.code, 0) = false ∧
    ready.idleTime (.core 3) (10 ^ 6) = 10 ^ 6 ∧ ready.deepest (.core 3) (10 ^ 6) = some 3 ∧ ready.sleepOf (.core 3) < 3 ∧
    (withField Reg.pwrControl_noDeep 1).flag Reg.pwrControl_noDeep = true ∧
    (withField Reg.pwrControl_noDeep 1).deepest (.core 3) (10 ^ 6) = some 1 ∧ 2 ∈ ready.depths (.core 3) ∧
    (ready.setSleep (.core 3) 2).sleepOf (.core 3) ≠ 0 ∧ (ready.setSleep (.core 3) 2).exitDue (.core 3) = true := by
  decide +kernel

/-- A core asleep in C2 whose next task comes with the tick of the next exposure is not due to wake. -/
theorem witness_PowerIsWatchedAndManaged_asleep :
    let late := { task 0x0012 [] [noTensor, noTensor, noTensor, noTensor] with exposure := 1 }
    let s := (inStep (plan [late] []) (fun q => { q with nextTick := 1 })).setSleep (.core 0) 2
    s.sleepOf (.core 0) ≠ 0 ∧ s.exitDue (.core 0) = false := by decide +kernel

theorem witness_ShutDownsGoOff :
    ready.busState < 3 ∧ ready.fitted.tripLimit 0 = some 1100 ∧ ready.allIdle = true ∧
    (withPart (fun q => { q with phase := .checking })).allIdle = false ∧ ready.ringsBusy = false ∧
    (started [1]).allIdle = true ∧ (started [1]).ringsBusy = true ∧ (started [1]).ready = true ∧ ready.power.testing = false ∧
    ready.ready = true ∧ State.reset.ready = false ∧ ready.power.offDue = false ∧ ready.pending = [] ∧
    ({ (withField Reg.bistControl_atShutdown 0) with power := { ready.power with offDue := true } } : State).power.offDue = true ∧
    ready.testCause = none ∧ (withField Reg.pwrStatus_busState 1).testCause = some 1 ∧
    ({ (withField Reg.pwrClock_now100mhz testClock) with power := { ready.power with testing := true } } : State).testCause = none ∧
    (withField Reg.bistControl_atShutdown 0).flag Reg.bistControl_atShutdown = false ∧ ready.flag Reg.bistControl_atShutdown = true ∧
    ({ ready with power := { ready.power with testing := true } } : State).power.testing = true := by decide +kernel

theorem witness_ResetsKeepWhatTheyKeep :
    bitsAt (0xA501 : Word).toNat 8 8 = 0xA5 ∧ bitAt (0xA501 : Word).toNat 0 = 1 ∧
    (withField Reg.pwrStatus_busState 4).busState = 4 ∧ State.reset.trust.sessions = [] ∧ State.reset.power.off = false ∧
    (∀ l ∈ [0, 1, 2, 3, 4],
      let s := (State.reset.set Reg.secLifecycle_state l).modTrust (fun t => { t with image := none })
      s.power.off = false ∧ s.fitted.legal = true ∧ s.trust.boot = some 0 ∧ s.lifeState = l) ∧
    (ready.modTrust (fun t => { t with boot := none })).trust.boot = none := by
  decide +kernel

/-- An erased image slot fails R409 by its header. -/
theorem witness_ResetsKeepWhatTheyKeep_erased (s : State) : s.verdictOf [] = 1 := by
  have h : imageHeaderBad [] = true := by decide +kernel
  rw [State.verdictOf, imageVerdict, if_pos h]

/-! ### The root of trust -/

/-- The module with a mailbox command of this code and length waiting, and a delivery under way from this source. -/
def mailbox (cmd len source : Nat) : State :=
  (((ready.set Reg.secLifecycle_state 2).set Reg.secMbxStatus_busy 1).set Reg.secMbxControl_command cmd).set
    Reg.secMbxControl_length len |>.modTrust (fun t => { t with delivery := some ⟨source, 0, [], 0⟩ })

theorem witness_ImagesAreDelivered :
    (∀ c ∈ [1, 2, 3, 4, 5], (mailbox c 64 1).mbxWaits c = true ∧ (mailbox c 64 1).trust.delivery = some ⟨1, 0, [], 0⟩ ∧
      (mailbox c 64 1).imageGate = 0 ∧ (mailbox c 64 1).get Reg.secMbxControl_length = 64) ∧
    (∀ x ∈ [7, 8, 9], pkKind (packet [(3, 1, 9)] (fields 64 [(0, 1, x)])) = 9 ∧
      bulkOp (packet [(3, 1, 9)] (fields 64 [(0, 1, x)])) = x) ∧
    (let s := ((withField Reg.secLifecycle_state 3).set (Reg.fabPort_state 0) 2).modTrust (fun t =>
       { t with polled := [0], delivery := some ⟨3, 0, [], 0⟩ })
     let pk := packet [(3, 1, 9)] (fields 64 [(0, 1, 9)])
     s.portUp 0 = true ∧ s.isFor (s.portPart 0) (pkDest pk) = true ∧ s.takesImage 0 pk = true ∧
     s.trust.delivery = some ⟨3, 0, [], 0⟩ ∧
     ((s.passPacket 0 pk).stampReceipt (pkStamp pk)).trust.delivery = some ⟨3, 0, [], 0⟩) ∧
    (let s := (withField Reg.secLifecycle_state 3).modTrust (fun t => { t with boot := none })
     s.lifeState = 3 ∧ s.trust.boot = none ∧ s.trust.delivery = none ∧ s.trust.writing = none) ∧
    (∀ l ∈ [0, 2, 3],
      let s := (withField Reg.secLifecycle_state l).modTrust (fun t => { t with writing := some ([], 1) })
      s.lifeState = l ∧ s.pending = [] ∧ s.power.offDue = false ∧ s.trust.writing = some ([], 1)) := by decide +kernel

/-- The module with this session 1. -/
def session (x : Session) (life : Nat := 2) : State :=
  (withField Reg.secLifecycle_state life).modTrust (fun t => { t with sessions := [x], owner := some [1] })

/-- A session before and after its authentication. -/
def begun : Session := ⟨1, false, false, none, [], 0⟩

theorem witness_RequestsAndSessions :
    (session begun).power.off = false ∧ (session begun).lifeState ≠ 4 ∧ (session begun 4).lifeState = 4 ∧
    (session begun).session 1 = some begun ∧ begun.authed = false ∧ (session begun).trust.owner ≠ some [2] ∧
    (session begun).trust.owner = some [1] ∧ (∀ y ∈ (session begun).trust.sessions, y.authed = true → y.owner = false) ∧
    (session { begun with authed := true, owner := true }).openSession 1 = some { begun with authed := true, owner := true } := by
  decide +kernel

/-- An open session of a tenant bound to this partition, or of none. -/
def tenant (p : Option Nat) : Session := { begun with authed := true, bound := p, keyHash := [2] }

/-- The owner's open session. -/
def owner : Session := { begun with authed := true, owner := true, keyHash := [1] }

theorem witness_VendorCommandsNeedTheirSession :
    (session begun).openSession 1 = none ∧
    (let s := session (tenant none)
     s.openSession 1 = some (tenant none) ∧ (tenant none).owner = false ∧ (tenant none).bound = none ∧ s.partExists 0 = true ∧
     s.trust.sessions.any (fun y => y.bound == some 0) = false ∧ s.trust.holder = none) ∧
    (let s := (session (tenant (some 0))).modTrust (fun t => { t with sealKey := true, holder := some [2] })
     s.openSession 1 = some (tenant (some 0)) ∧ (s.part 0).phase = .idle ∧ [(⟨0, 0, 0⟩ : ProtRange)].all (s.rangeGood 0) = true ∧
     (List.replicate 32 (0 : Byte)).length = 32 ∧ s.trust.sealKey = true ∧ s.trust.holder = some (tenant (some 0)).keyHash) ∧
    (let s := session owner
     s.openSession 1 = some owner ∧ s.allIdle = true ∧ s.plans = [] ∧ mapValid 0 = true ∧ s.anyAdmitted = false ∧
     lifecycleLegal s.lifeState 3 = true) ∧
    (∀ l ∈ [0, 1, 3], (session owner l).lifeState = l) ∧ (session owner 4).lifeState = 4 := by decide +kernel

/-- Open sessions that may send none of the commands: a tenant of no partition, and the owner, each in SERVICE. -/
theorem witness_VendorCommandsNeedTheirSession_refused :
    (let s := session (tenant none)
     s.openSession 1 = some (tenant none) ∧ s.lifeState ≠ 4 ∧ s.lifeState ≠ 1 ∧ s.lifeState ≠ 3 ∧ s.lifeState ≠ 0 ∧
     (tenant none).owner = false ∧ (tenant none).bound = none) ∧
    (let s := session owner
     s.openSession 1 = some owner ∧ owner.owner = true ∧ owner.bound ≠ some 0) := by decide +kernel

/-! ### Until ready reads 1 -/

theorem witness_OtherBlocksWaitForReady :
    State.reset.power.off = false ∧ State.reset.get Reg.secBootStatus_ready = 0 ∧
    ¬ (0x100000 < 0x100000 ∨ (0xD00000 ≤ 0x100000 ∧ 0x100000 < 0xF00000)) ∧ 0xEFFFFC < 0xF00000 ∧
    ¬ (0xF00000 < 0x100000 ∨ (0xD00000 ≤ 0xF00000 ∧ 0xF00000 < 0xF00000)) ∧ 0xFFFFC < 0x100000 ∧
    0x200000 % 4 = 0 ∧ RegMap.isPairLo 0x200000 = true ∧ isReserved 0x400000 = true ∧
    (RegMap.locate 0xD00004).isSome = true ∧ RegMap.isPairHi 0xD00004 = false ∧ isReserved 0xD00004 = false ∧
    State.reset.noCore 0xD00004 = false := by decide +kernel

end Sys2Proof.Tests
end

/-! # The scope of the block (00_scope.md): soundness, register accesses, pairs and writes -/

section

set_option Elab.async false

open Sys2Proof Sys2Proof.Machine

namespace Sys2Proof.Machine

/-! ### Soundness is kept by every command -/

/-- A command that goes on from a sound state goes on to a sound one. -/
def KeepsSound (c : Instr) : Prop := ∀ s t, s.Sound → exec c s = .next t → t.Sound

theorem KeepsSound.of_next {c : Instr} {f : State → State} (he : ∀ s, exec c s = .next (f s))
    (hf : ∀ {s}, s.Sound → (f s).Sound) : KeepsSound c := fun s t hs h => by
  rw [he s] at h
  cases h
  exact hf hs

theorem KeepsSound.of_whenOn {c : Instr} {f : State → State} (he : ∀ s, exec c s = .next (s.whenOn f))
    (hf : ∀ {s}, s.Sound → (f s).Sound) : KeepsSound c :=
  .of_next he fun hs => State.whenOn_sound hs fun _ => hf

/-- Every command runs one operation, on a module whose rails are on (R396); only the return of the bus (R394) runs
whatever the rails. Each operation keeps a sound state sound by its own lemma. -/
theorem exec_keepsSound (c : Instr) : KeepsSound c := by
  cases c with
  | bar0BadSizeAccess => exact .of_whenOn (fun _ => rfl) doBar0BadSizeAccess_sound
  | reservedRangeAccess => exact .of_whenOn (fun _ => rfl) doReservedRangeAccess_sound
  | pairLowRead => exact .of_whenOn (fun _ => rfl) doPairLowRead_sound
  | pairLowWrite => exact .of_whenOn (fun _ => rfl) doPairLowWrite_sound
  | pairHighWrite => exact .of_whenOn (fun _ => rfl) doPairHighWrite_sound
  | registerWrite => exact .of_whenOn (fun _ => rfl) doRegisterWrite_sound
  | counterClear => exact .of_whenOn (fun _ => rfl) doCounterClear_sound
  | layerReplaysClear => exact .of_whenOn (fun _ => rfl) doLayerReplaysClear_sound
  | tickStartWrite => exact .of_whenOn (fun _ => rfl) doTickStartWrite_sound
  | withdraw => exact .of_whenOn (fun _ => rfl) doWithdraw_sound
  | planWithdrawal => exact .of_whenOn (fun _ => rfl) doPlanWithdrawal_sound
  | shutterTick => exact .of_whenOn (fun _ => rfl) doShutterTick_sound
  | stepZeroStart => exact .of_whenOn (fun _ => rfl) doStepZeroStart_sound
  | stepEnd => exact .of_whenOn (fun _ => rfl) doStepEnd_sound
  | stepHeld => exact .of_whenOn (fun _ => rfl) doStepHeld_sound
  | stepHoldLimit => exact .of_whenOn (fun _ => rfl) doStepHoldLimit_sound
  | promotionExpiry => exact .of_whenOn (fun _ => rfl) doPromotionExpiry_sound
  | completionNotice => exact .of_whenOn (fun _ => rfl) doCompletionNotice_sound
  | timeLockTimeout => exact .of_whenOn (fun _ => rfl) doTimeLockTimeout_sound
  | doorbellTail => exact .of_whenOn (fun _ => rfl) doDoorbellTail_sound
  | doorbellCompletionHead => exact .of_whenOn (fun _ => rfl) doDoorbellCompletionHead_sound
  | doorbellBad => exact .of_whenOn (fun _ => rfl) doDoorbellBad_sound
  | winAccessBad => exact .of_whenOn (fun _ => rfl) doWinAccessBad_sound
  | descriptorFetch => exact .of_whenOn (fun _ => rfl) doDescriptorFetch_sound
  | nop => exact .of_whenOn (fun _ => rfl) doNop_sound
  | loadPlan => exact .of_whenOn (fun _ => rfl) doLoadPlan_sound
  | admitPlan => exact .of_whenOn (fun _ => rfl) doAdmitPlan_sound
  | lightMeterDone => exact .of_whenOn (fun _ => rfl) doLightMeterDone_sound
  | unloadPlan => exact .of_whenOn (fun _ => rfl) doUnloadPlan_sound
  | copyIn => exact .of_whenOn (fun _ => rfl) doCopyIn_sound
  | copyOut => exact .of_whenOn (fun _ => rfl) doCopyOut_sound
  | copyDone => exact .of_whenOn (fun _ => rfl) doCopyDone_sound
  | fence => exact .of_whenOn (fun _ => rfl) doFence_sound
  | contextOpen => exact .of_whenOn (fun _ => rfl) doContextOpen_sound
  | contextFork => exact .of_whenOn (fun _ => rfl) doContextFork_sound
  | contextClose => exact .of_whenOn (fun _ => rfl) doContextClose_sound
  | contextApply => exact .of_whenOn (fun _ => rfl) doContextApply_sound
  | clearTableLoad => exact .of_whenOn (fun _ => rfl) doClearTableLoad_sound
  | clearTableMakeCurrent => exact .of_whenOn (fun _ => rfl) doClearTableMakeCurrent_sound
  | clearTableDiscard => exact .of_whenOn (fun _ => rfl) doClearTableDiscard_sound
  | clearTableApply => exact .of_whenOn (fun _ => rfl) doClearTableApply_sound
  | clearGenFreed => exact .of_whenOn (fun _ => rfl) doClearGenFreed_sound
  | dictionaryLoad => exact .of_whenOn (fun _ => rfl) doDictionaryLoad_sound
  | dictionaryLoadDone => exact .of_whenOn (fun _ => rfl) doDictionaryLoadDone_sound
  | dictionaryActivate => exact .of_whenOn (fun _ => rfl) doDictionaryActivate_sound
  | dictionaryActivateApply => exact .of_whenOn (fun _ => rfl) doDictionaryActivateApply_sound
  | reshardPrepare => exact .of_whenOn (fun _ => rfl) doReshardPrepare_sound
  | reshardCommit => exact .of_whenOn (fun _ => rfl) doReshardCommit_sound
  | reshardCancel => exact .of_whenOn (fun _ => rfl) doReshardCancel_sound
  | reshardBoundary => exact .of_whenOn (fun _ => rfl) doReshardBoundary_sound
  | epochDrainTimeout => exact .of_whenOn (fun _ => rfl) doEpochDrainTimeout_sound
  | secure => exact .of_whenOn (fun _ => rfl) doSecure_sound
  | completionWrite => exact .of_whenOn (fun _ => rfl) doCompletionWrite_sound
  | ringReset => exact .of_whenOn (fun _ => rfl) doRingReset_sound
  | ringResetDone => exact .of_whenOn (fun _ => rfl) doRingResetDone_sound
  | poolConfigWrite => exact .of_whenOn (fun _ => rfl) doPoolConfigWrite_sound
  | slotFlip => exact .of_whenOn (fun _ => rfl) doSlotFlip_sound
  | slotTimeout => exact .of_whenOn (fun _ => rfl) doSlotTimeout_sound
  | windowWrite => exact .of_whenOn (fun _ => rfl) doWindowWrite_sound
  | windowRead => exact .of_whenOn (fun _ => rfl) doWindowRead_sound
  | taskIssue => exact .of_whenOn (fun _ => rfl) doTaskIssue_sound
  | tokenReceived => exact .of_whenOn (fun _ => rfl) doTokenReceived_sound
  | creditReceived => exact .of_whenOn (fun _ => rfl) doCreditReceived_sound
  | taskCompletion => exact .of_whenOn (fun _ => rfl) doTaskCompletion_sound
  | tilingRecord => exact .of_whenOn (fun _ => rfl) doTilingRecord_sound
  | shapeSearchDone => exact .of_whenOn (fun _ => rfl) doShapeSearchDone_sound
  | matrixProduct => exact .of_whenOn (fun _ => rfl) doMatrixProduct_sound
  | dataGradientProduct => exact .of_whenOn (fun _ => rfl) doDataGradientProduct_sound
  | weightGradientProduct => exact .of_whenOn (fun _ => rfl) doWeightGradientProduct_sound
  | attentionForward => exact .of_whenOn (fun _ => rfl) doAttentionForward_sound
  | attentionBackward => exact .of_whenOn (fun _ => rfl) doAttentionBackward_sound
  | convForward => exact .of_whenOn (fun _ => rfl) doConvForward_sound
  | convDataGradient => exact .of_whenOn (fun _ => rfl) doConvDataGradient_sound
  | convWeightGradient => exact .of_whenOn (fun _ => rfl) doConvWeightGradient_sound
  | cropAndResize => exact .of_whenOn (fun _ => rfl) doCropAndResize_sound
  | channelArgmax => exact .of_whenOn (fun _ => rfl) doChannelArgmax_sound
  | vectorKernel => exact .of_whenOn (fun _ => rfl) doVectorKernel_sound
  | gather => exact .of_whenOn (fun _ => rfl) doGather_sound
  | scatter => exact .of_whenOn (fun _ => rfl) doScatter_sound
  | scatterAdd => exact .of_whenOn (fun _ => rfl) doScatterAdd_sound
  | expertDispatch => exact .of_whenOn (fun _ => rfl) doExpertDispatch_sound
  | variantDispatch => exact .of_whenOn (fun _ => rfl) doVariantDispatch_sound
  | expertDispatchBackward => exact .of_whenOn (fun _ => rfl) doExpertDispatchBackward_sound
  | variantDispatchBackward => exact .of_whenOn (fun _ => rfl) doVariantDispatchBackward_sound
  | expertCombine => exact .of_whenOn (fun _ => rfl) doExpertCombine_sound
  | variantCombine => exact .of_whenOn (fun _ => rfl) doVariantCombine_sound
  | expertCombineBackward => exact .of_whenOn (fun _ => rfl) doExpertCombineBackward_sound
  | variantCombineBackward => exact .of_whenOn (fun _ => rfl) doVariantCombineBackward_sound
  | offload => exact .of_whenOn (fun _ => rfl) doOffload_sound
  | fetch => exact .of_whenOn (fun _ => rfl) doFetch_sound
  | encode => exact .of_whenOn (fun _ => rfl) doEncode_sound
  | decode => exact .of_whenOn (fun _ => rfl) doDecode_sound
  | recode => exact .of_whenOn (fun _ => rfl) doRecode_sound
  | fabricSend => exact .of_whenOn (fun _ => rfl) doFabricSend_sound
  | fabricReceive => exact .of_whenOn (fun _ => rfl) doFabricReceive_sound
  | localCopy => exact .of_whenOn (fun _ => rfl) doLocalCopy_sound
  | reduction => exact .of_whenOn (fun _ => rfl) doReduction_sound
  | groupUpdate => exact .of_whenOn (fun _ => rfl) doGroupUpdate_sound
  | takeBatch => exact .of_whenOn (fun _ => rfl) doTakeBatch_sound
  | emitOutput => exact .of_whenOn (fun _ => rfl) doEmitOutput_sound
  | join => exact .of_whenOn (fun _ => rfl) doJoin_sound
  | queuePtrMismatch => exact .of_whenOn (fun _ => rfl) doQueuePtrMismatch_sound
  | coreFailed => exact .of_whenOn (fun _ => rfl) doCoreFailed_sound
  | d2dTransferFail => exact .of_whenOn (fun _ => rfl) doD2dTransferFail_sound
  | uncorrectableError => exact .of_whenOn (fun _ => rfl) doUncorrectableError_sound
  | hbmRowFailure => exact .of_whenOn (fun _ => rfl) doHbmRowFailure_sound
  | portTrained => exact .of_whenOn (fun _ => rfl) doPortTrained_sound
  | portTrainingTimeout => exact .of_whenOn (fun _ => rfl) doPortTrainingTimeout_sound
  | laneFailure => exact .of_whenOn (fun _ => rfl) doLaneFailure_sound
  | portTakeDown => exact .of_whenOn (fun _ => rfl) doPortTakeDown_sound
  | flitReceive => exact .of_whenOn (fun _ => rfl) doFlitReceive_sound
  | flitReplay => exact .of_whenOn (fun _ => rfl) doFlitReplay_sound
  | controlFlit => exact .of_whenOn (fun _ => rfl) doControlFlit_sound
  | outputArbitration => exact .of_whenOn (fun _ => rfl) doOutputArbitration_sound
  | packetRelay => exact .of_whenOn (fun _ => rfl) doPacketRelay_sound
  | dataPacket => exact .of_whenOn (fun _ => rfl) doDataPacket_sound
  | reductionPartial => exact .of_whenOn (fun _ => rfl) doReductionPartial_sound
  | reductionResult => exact .of_whenOn (fun _ => rfl) doReductionResult_sound
  | sideband => exact .of_whenOn (fun _ => rfl) doSideband_sound
  | fenceMarker => exact .of_whenOn (fun _ => rfl) doFenceMarker_sound
  | routeSwitch => exact .of_whenOn (fun _ => rfl) doRouteSwitch_sound
  | routeSwitchApply => exact .of_whenOn (fun _ => rfl) doRouteSwitchApply_sound
  | landingCredit => exact .of_whenOn (fun _ => rfl) doLandingCredit_sound
  | slotWindowStart => exact .of_whenOn (fun _ => rfl) doSlotWindowStart_sound
  | lateTransmit => exact .of_whenOn (fun _ => rfl) doLateTransmit_sound
  | bulkMirrorData => exact .of_whenOn (fun _ => rfl) doBulkMirrorData_sound
  | bulkMirrorSeal => exact .of_whenOn (fun _ => rfl) doBulkMirrorSeal_sound
  | takeoverRequest => exact .of_whenOn (fun _ => rfl) doTakeoverRequest_sound
  | takeoverWrite => exact .of_whenOn (fun _ => rfl) doTakeoverWrite_sound
  | itemRequest => exact .of_whenOn (fun _ => rfl) doItemRequest_sound
  | itemData => exact .of_whenOn (fun _ => rfl) doItemData_sound
  | itemSealRecord => exact .of_whenOn (fun _ => rfl) doItemSealRecord_sound
  | takeoverDone => exact .of_whenOn (fun _ => rfl) doTakeoverDone_sound
  | recoveryImageRequest => exact .of_whenOn (fun _ => rfl) doRecoveryImageRequest_sound
  | recoveryImageData => exact .of_whenOn (fun _ => rfl) doRecoveryImageData_sound
  | recoveryImageEnd => exact .of_whenOn (fun _ => rfl) doRecoveryImageEnd_sound
  | recoveryPoll => exact .of_whenOn (fun _ => rfl) doRecoveryPoll_sound
  | sampleStart => exact .of_whenOn (fun _ => rfl) doSampleStart_sound
  | sampleConverted => exact .of_whenOn (fun _ => rfl) doSampleConverted_sound
  | sampleSlow => exact .of_whenOn (fun _ => rfl) doSampleSlow_sound
  | reserveCopyDone => exact .of_whenOn (fun _ => rfl) doReserveCopyDone_sound
  | sweepStart => exact .of_whenOn (fun _ => rfl) doSweepStart_sound
  | sweepDone => exact .of_whenOn (fun _ => rfl) doSweepDone_sound
  | privilegedCopy => exact .of_whenOn (fun _ => rfl) doPrivilegedCopy_sound
  | sealWritten => exact .of_whenOn (fun _ => rfl) doSealWritten_sound
  | mirrorSend => exact .of_whenOn (fun _ => rfl) doMirrorSend_sound
  | drainComplete => exact .of_whenOn (fun _ => rfl) doDrainComplete_sound
  | planResume => exact .of_whenOn (fun _ => rfl) doPlanResume_sound
  | handoverSent => exact .of_whenOn (fun _ => rfl) doHandoverSent_sound
  | admissionRestoreDone => exact .of_whenOn (fun _ => rfl) doAdmissionRestoreDone_sound
  | negStoreWipeDone => exact .of_whenOn (fun _ => rfl) doNegStoreWipeDone_sound
  | sealedSizeWrite => exact .of_whenOn (fun _ => rfl) doSealedSizeWrite_sound
  | groupFreezeWrite => exact .of_whenOn (fun _ => rfl) doGroupFreezeWrite_sound
  | throttleEval => exact .of_whenOn (fun _ => rfl) doThrottleEval_sound
  | powerCapWrite => exact .of_whenOn (fun _ => rfl) doPowerCapWrite_sound
  | busDroop => exact .of_whenOn (fun _ => rfl) doBusDroop_sound
  | busNormal => exact .of_whenOn (fun _ => rfl) doBusNormal_sound
  | busLow => exact .of_whenOn (fun _ => rfl) doBusLow_sound
  | busLowRecover => exact .of_whenOn (fun _ => rfl) doBusLowRecover_sound
  | busFail => exact .of_whenOn (fun _ => rfl) doBusFail_sound
  | busSurge => exact .of_whenOn (fun _ => rfl) doBusSurge_sound
  | busReturn mv => exact .of_next (fun _ => rfl) doBusReturn_sound
  | thermalTrip => exact .of_whenOn (fun _ => rfl) doThermalTrip_sound
  | coolantCheck => exact .of_whenOn (fun _ => rfl) doCoolantCheck_sound
  | powerStateEntry => exact .of_whenOn (fun _ => rfl) doPowerStateEntry_sound
  | powerStateExit => exact .of_whenOn (fun _ => rfl) doPowerStateExit_sound
  | orderlyShutdown => exact .of_whenOn (fun _ => rfl) doOrderlyShutdown_sound
  | shutdownTestDeferred => exact .of_whenOn (fun _ => rfl) doShutdownTestDeferred_sound
  | warmReset => exact .of_whenOn (fun _ => rfl) doWarmReset_sound
  | watchdogReset => exact .of_whenOn (fun _ => rfl) doWatchdogReset_sound
  | startUp => exact .of_whenOn (fun _ => rfl) doStartUp_sound
  | hostPortReset => exact .of_whenOn (fun _ => rfl) doHostPortReset_sound
  | mbxStatus => exact .of_whenOn (fun _ => rfl) doMbxStatus_sound
  | mbxImageBegin => exact .of_whenOn (fun _ => rfl) doMbxImageBegin_sound
  | mbxImageData => exact .of_whenOn (fun _ => rfl) doMbxImageData_sound
  | mbxImageEnd => exact .of_whenOn (fun _ => rfl) doMbxImageEnd_sound
  | mbxAbort => exact .of_whenOn (fun _ => rfl) doMbxAbort_sound
  | pldmFirmwareUpdate => exact .of_whenOn (fun _ => rfl) doPldmFirmwareUpdate_sound
  | getVersion => exact .of_whenOn (fun _ => rfl) doGetVersion_sound
  | getCapabilities => exact .of_whenOn (fun _ => rfl) doGetCapabilities_sound
  | negotiateAlgorithms => exact .of_whenOn (fun _ => rfl) doNegotiateAlgorithms_sound
  | getDigests => exact .of_whenOn (fun _ => rfl) doGetDigests_sound
  | getCertificate => exact .of_whenOn (fun _ => rfl) doGetCertificate_sound
  | challenge => exact .of_whenOn (fun _ => rfl) doChallenge_sound
  | getMeasurements => exact .of_whenOn (fun _ => rfl) doGetMeasurements_sound
  | keyExchange => exact .of_whenOn (fun _ => rfl) doKeyExchange_sound
  | finish => exact .of_whenOn (fun _ => rfl) doFinish_sound
  | heartbeat => exact .of_whenOn (fun _ => rfl) doHeartbeat_sound
  | heartbeatTimeout => exact .of_whenOn (fun _ => rfl) doHeartbeatTimeout_sound
  | keyUpdate => exact .of_whenOn (fun _ => rfl) doKeyUpdate_sound
  | endSession => exact .of_whenOn (fun _ => rfl) doEndSession_sound
  | chunkSend => exact .of_whenOn (fun _ => rfl) doChunkSend_sound
  | chunkGet => exact .of_whenOn (fun _ => rfl) doChunkGet_sound
  | unsupportedRequest => exact .of_whenOn (fun _ => rfl) doUnsupportedRequest_sound
  | bindPartition => exact .of_whenOn (fun _ => rfl) doBindPartition_sound
  | setProtected => exact .of_whenOn (fun _ => rfl) doSetProtected_sound
  | setFabricKey => exact .of_whenOn (fun _ => rfl) doSetFabricKey_sound
  | sealBind => exact .of_whenOn (fun _ => rfl) doSealBind_sound
  | unsealRegion => exact .of_whenOn (fun _ => rfl) doUnsealRegion_sound
  | setView => exact .of_whenOn (fun _ => rfl) doSetView_sound
  | setPartitionMap => exact .of_whenOn (fun _ => rfl) doSetPartitionMap_sound
  | lifecycle => exact .of_whenOn (fun _ => rfl) doLifecycle_sound
  | takeOwnership => exact .of_whenOn (fun _ => rfl) doTakeOwnership_sound
  | vendorReset => exact .of_whenOn (fun _ => rfl) doVendorReset_sound
  | gradeRecord => exact .of_whenOn (fun _ => rfl) doGradeRecord_sound
  | scanEnable => exact .of_whenOn (fun _ => rfl) doScanEnable_sound
  | eventCollect => exact .of_whenOn (fun _ => rfl) doEventCollect_sound
  | interruptCoalesceDelay => exact .of_whenOn (fun _ => rfl) doInterruptCoalesceDelay_sound

/-- The queue of waiting commands is no part of what soundness says. -/
theorem State.Sound.withPending {s : State} (h : s.Sound) (q : List Instr) : State.Sound { s with pending := q } :=
  State.mk_sound h

theorem step_sound {s t : State} (hs : s.Sound) (h : step s = .next t) : t.Sound := by
  unfold step at h
  split at h
  next =>
    cases h
    exact State.idle_sound hs
  next c rest _ => exact exec_keepsSound c _ t (hs.withPending rest) h

/-- Settles O4: by the command at the front of the queue; with none waiting the block idles. -/
theorem everyStepKeepsSoundness : Obligations.EveryStepKeepsSoundness :=
  fun _ _ => step_sound

/-- Settles O5, by reading each field of the state after reset. -/
theorem resetStateIsSound : Obligations.ResetStateIsSound := by
  refine ⟨State.reset_sound, by decide, rfl, rfl, rfl, rfl, rfl, rfl, fun _ => rfl, fun a ha => ?_, rfl⟩
  have hl : lookup State.reset.regs a = none := ha
  rw [State.reg, hl, Option.getD_none]

/-! ### A command on a module that is powered -/

/-- With the rails on a command does what its operation does, and the queue stays the step's own. -/
theorem next_whenOn_of_eq {s t : State} {f : State → State} (hon : s.power.off = false) (h : f s = t) :
    (.next (s.whenOn f) : Host.Outcome State Fault Refusal) = .next { t with pending := s.pending } := by
  rw [State.whenOn, hon, h]
  rfl

/-- The queue is no field that two states may disagree on. -/
theorem State.same.withPending {L : List Field} {s t : State} (h : s.same L t) (q : List Instr) :
    s.same L { t with pending := q } :=
  ⟨fun k hk => by have hs := h.on k hk; cases k <;> exact hs⟩

/-! ### Accesses of the wrong size or place (R6, R411, R433) -/

theorem State.readWord_of_not_answers {s : State} {a : Nat} (h : s.answers a = false) : s.readWord a = 0xFFFFFFFF := by
  simp [State.readWord, h]

theorem State.readWord_of_reserved {s : State} {a : Nat} (h : s.answers a = true) (hr : isReserved a = true) :
    s.readWord a = 0 := by
  simp [State.readWord, h, hr]

theorem doBar0BadSizeAccess_eq {off size : Nat} (h : ¬(size = 4 ∧ off % 4 = 0)) (w : Bool) (s : State) :
    doBar0BadSizeAccess off size w s =
      if s.answers off then
        (if w then s else s.answer (List.replicate size 0xFF)).raise Ev.regAccessBad UnitId.module
          { value := off, cause := 1 }
      else if w then s else s.answer (List.replicate size 0xFF) := by
  rw [doBar0BadSizeAccess, if_neg h]

theorem doReservedRangeAccess_eq {off : Nat} (ha : off % 4 = 0) (hr : isReserved off = true) (w : Bool) (s : State) :
    doReservedRangeAccess off w s =
      if s.answers off then
        (if w then s else s.answer (leBytes 0 4)).raise Ev.regAccessBad UnitId.module { value := off, cause := 2 }
      else if w then s else s.answer (leBytes 0xFFFFFFFF 4) := by
  rw [doReservedRangeAccess, if_neg (by simp [ha, hr])]
  cases h : s.answers off with
  | true => simp [State.readWord_of_reserved h hr]
  | false => simp [State.readWord_of_not_answers h]

/-- Settles O10: each access by whether its block answers. -/
theorem badRegisterAccessesOnlyReport : Obligations.BadRegisterAccessesOnlyReport :=
  ⟨fun s _ _ w hon hsize ha => next_whenOn_of_eq hon ((doBar0BadSizeAccess_eq hsize w s).trans (if_pos ha)),
    fun s _ w hon hal hres ha => next_whenOn_of_eq hon ((doReservedRangeAccess_eq hal hres w s).trans (if_pos ha)),
    fun s _ _ w hon ha =>
      ⟨fun hsize => next_whenOn_of_eq hon ((doBar0BadSizeAccess_eq hsize w s).trans (if_neg (by simp [ha]))),
        fun hal hres => next_whenOn_of_eq hon ((doReservedRangeAccess_eq hal hres w s).trans (if_neg (by simp [ha])))⟩⟩

/-! ### Pairs (R7) -/

theorem RegMap.isPairHi_add_four (lo : Nat) : RegMap.isPairHi (lo + 4) = RegMap.isPairLo lo := by
  simp [RegMap.isPairHi]

/-- The upper register of a pair shows the pair's latch. -/
theorem State.readWord_pairHi {s : State} {lo : Nat} (hlo : RegMap.isPairLo lo = true)
    (h : s.takesWrite (lo + 4) = true) : s.readWord (lo + 4) = readOr 0 s.latch lo := by
  simp only [State.takesWrite, Bool.and_eq_true, Bool.not_eq_true'] at h
  obtain ⟨⟨⟨⟨-, hans⟩, hres⟩, hcore⟩, hloc⟩ := h
  simp [State.readWord, hans, hres, hcore, Option.isNone_eq_false_iff.mpr hloc, RegMap.isPairHi_add_four, hlo]

/-- Whether a register access reaches its block rests on the registers and on what is fitted. -/
theorem State.takesWrite_congr {L : List Field} {s t : State} (a : Nat) (h : s.same L t)
    (hr : L.contains .regs = false := by rfl) (hf : L.contains .fitted = false := by rfl) :
    t.takesWrite a = s.takesWrite a := by
  have hregs : t.regs = s.regs := h.on .regs hr
  have hfit : t.fitted = s.fitted := h.on .fitted hf
  simp only [State.takesWrite, State.answers, State.noCore, State.flag, State.get_congr _ hregs, hfit]

theorem State.formed_low {s : State} {lo hi : Nat} (h : (lookup s.held lo).getD (s.reg lo) < 2 ^ 32) :
    s.formed lo hi % 2 ^ 32 = (lookup s.held lo).getD (s.reg lo) := by
  rw [State.formed]
  omega

theorem State.formed_high {s : State} {lo hi : Nat} (h : (lookup s.held lo).getD (s.reg lo) < 2 ^ 32) :
    s.formed lo hi / 2 ^ 32 = hi := by
  rw [State.formed]
  omega

theorem State.reg_takePair (s : State) (lo v a : Nat) :
    (s.takePair lo v).reg a =
      if a = lo + 4 then v / 2 ^ 32 % 2 ^ 32 else if a = lo then v % 2 ^ 32 else s.reg a := by
  have h : (s.takePair lo v).reg a = (s.setPair lo v).reg a := State.reg_congr a rfl
  rw [h, State.setPair, State.reg_setReg, State.reg_setReg]

theorem State.held_takePair (s : State) (lo v : Nat) : lookup (s.takePair lo v).held lo = none :=
  (lookup_eraseKey _ _ _).trans (if_pos rfl)

/-- The pair carries an RWA field and the value `v` would change it, while a plan that rests on it is admitted (R9). -/
def State.pairBlocked (s : State) (lo v : Nat) : Bool :=
  (RegMap.fieldsAt lo).any (fun f => f.acc == .rwa) && v != s.pair lo && s.rwaBlocked lo

theorem State.pairBlocked_eq_true {s : State} {lo v : Nat} : s.pairBlocked lo v = true ↔
    (RegMap.fieldsAt lo).any (fun f => f.acc == .rwa) = true ∧ v ≠ s.pair lo ∧ s.rwaBlocked lo = true := by
  simp only [State.pairBlocked, Bool.and_eq_true, bne_iff_ne, and_assoc]

theorem State.pairBlocked_eq_false {s : State} {lo v : Nat} : s.pairBlocked lo v = false ↔
    (RegMap.fieldsAt lo).any (fun f => f.acc == .rwa) = false ∨ v = s.pair lo ∨ s.rwaBlocked lo = false := by
  simp only [State.pairBlocked, Bool.and_eq_false_iff, bne_eq_false_iff_eq, or_assoc]

theorem State.writePair_of_refused {s : State} {lo hi : Nat}
    (h : s.pairUnsound lo (s.formed lo hi) = true ∨ s.pairBlocked lo (s.formed lo hi) = true) :
    s.writePair lo hi = s.refuseWrite lo hi := by
  have hc : (s.pairBlocked lo (s.formed lo hi) || s.pairUnsound lo (s.formed lo hi)) = true := by
    rw [Bool.or_eq_true]
    exact h.symm
  exact if_pos hc

theorem State.reg_refuseWrite {s : State} (a w : Nat) {b : Nat} (h : isTickStatus b = false) :
    (s.refuseWrite a w).reg b = s.reg b :=
  State.reg_raise s Ev.regWriteRefused (s.regUnit a) { value := a, value2 := w } b h

theorem State.pathHas_refuseWrite (s : State) (a w : Nat) :
    (s.refuseWrite a w).pathHas Ev.regWriteRefused (s.regUnit a) { value := a, value2 := w } :=
  State.pathHas_raise s Ev.regWriteRefused (s.regUnit a) { value := a, value2 := w }

/-- Beyond storing the pair, a write that is taken changes at most partitions: a grid begins anew (R21), checks restart
(R9, R26). -/
theorem State.writePair_keeps_of_taken {s0 s : State} {L : List Field} {lo hi : Nat} (hL : covers [.parts] L = true)
    (hb : s.pairBlocked lo (s.formed lo hi) = false) (hu : s.pairUnsound lo (s.formed lo hi) = false)
    (h : s0.same L (s.takePair lo (s.formed lo hi))) : s0.same L (s.writePair lo hi) := by
  have hc : (s.pairBlocked lo (s.formed lo hi) || s.pairUnsound lo (s.formed lo hi)) = false := by
    rw [hb, hu]
    rfl
  unfold State.pairBlocked at hc
  unfold State.writePair
  dsimp only
  rw [if_neg (by rw [hc]; exact Bool.false_ne_true)]
  have hg : ∀ (c : Prop) [Decidable c] (p : Nat), s0.same L
      (if c then (s.takePair lo (s.formed lo hi)).regrid p else s.takePair lo (s.formed lo hi)) := fun c _ p => by
    split
    · exact State.regrid_keeps hL h
    · exact h
  split
  · exact State.restartChecks_keeps hL (hg ..)
  · exact hg ..

theorem doPairLowRead_eq {s : State} {lo : Nat} (hal : lo % 4 = 0) (hlo : RegMap.isPairLo lo = true)
    (ht : s.takesWrite lo = true) : doPairLowRead lo s =
      { s.answer (leBytes (s.readWord lo) 4) with latch := writeOr 0 s.latch lo (s.wordNow (lo + 4)) } := by
  rw [doPairLowRead, if_neg (by simp [hal, hlo])]
  exact if_pos ht

theorem doPairLowWrite_eq {s : State} {lo : Nat} (v : Word) (ht : s.takesWrite lo = true) (hp : pairWritten lo = true) :
    doPairLowWrite lo v s = { s with held := insertKey s.held lo v.toNat } :=
  if_pos (by rw [ht, hp]; rfl)

theorem doPairHighWrite_eq {s : State} {lo : Nat} (hi : Word) (ht : s.takesWrite (lo + 4) = true)
    (hp : pairWritten lo = true) (hs : (List.range 4).any (fun p => Reg.tickStart p == lo) = false) :
    doPairHighWrite (lo + 4) hi s = s.writePair lo hi.toNat := by
  rw [doPairHighWrite, Nat.add_sub_cancel, if_neg (by simp [ht, hp, hs])]

/-- A read of the lower half answers it and latches the upper half for the next read of the upper register. -/
theorem pairLowRead_latches {s : State} {lo : Nat} (hon : s.power.off = false) (hal : lo % 4 = 0)
    (hlo : RegMap.isPairLo lo = true) (ht : s.takesWrite lo = true) (hth : s.takesWrite (lo + 4) = true) :
    ∃ t, exec (.pairLowRead lo) s = .next t ∧ t.out.reply = leBytes (s.readWord lo) 4 ∧
      t.readWord (lo + 4) = s.wordNow (lo + 4) ∧ s.same [.latch, .out] t := by
  have hsame : s.same [.latch, .out] (doPairLowRead lo s) := doPairLowRead_keeps rfl (State.same_refl _ _)
  refine ⟨_, next_whenOn_of_eq hon rfl, ?_, ?_, hsame.withPending _⟩
  · rw [doPairLowRead_eq hal hlo ht]
    rfl
  · have hkeep := State.takesWrite_congr (lo + 4) (hsame.withPending s.pending)
    rw [State.readWord_pairHi hlo (hkeep.trans hth), doPairLowRead_eq hal hlo ht]
    exact (readOr_writeOr ..).trans (if_pos rfl)

/-- A write of the lower half is held. -/
theorem pairLowWrite_holds {s : State} {lo : Nat} (v : Word) (hon : s.power.off = false) (ht : s.takesWrite lo = true)
    (hp : pairWritten lo = true) :
    ∃ t, exec (.pairLowWrite lo v) s = .next t ∧ lookup t.held lo = some v.toNat ∧ s.same [.held] t := by
  have hsame : s.same [.held] (doPairLowWrite lo v s) := doPairLowWrite_keeps rfl (State.same_refl _ _)
  refine ⟨_, next_whenOn_of_eq hon rfl, ?_, hsame.withPending _⟩
  rw [doPairLowWrite_eq v ht hp]
  exact (lookup_insertKey ..).trans (if_pos rfl)

/-- A write of the upper half that is taken stores both halves and no other register. -/
theorem pairHighWrite_stores {s : State} {lo : Nat} (hi : Word) (hon : s.power.off = false)
    (ht : s.takesWrite (lo + 4) = true) (hp : pairWritten lo = true)
    (hs : (List.range 4).any (fun p => Reg.tickStart p == lo) = false)
    (hlow : (lookup s.held lo).getD (s.reg lo) < 2 ^ 32)
    (hb : s.pairBlocked lo (s.formed lo hi.toNat) = false) (hu : s.pairUnsound lo (s.formed lo hi.toNat) = false) :
    ∃ t, exec (.pairHighWrite (lo + 4) hi) s = .next t ∧
      t.reg (lo + 4) = hi.toNat ∧ t.reg lo = (lookup s.held lo).getD (s.reg lo) ∧ lookup t.held lo = none ∧
      s.keepsRegs t [lo, lo + 4] ∧ s.same [.regs, .held, .parts] t := by
  have hstored : (s.takePair lo (s.formed lo hi.toNat)).same [.parts] (s.writePair lo hi.toNat) :=
    State.writePair_keeps_of_taken rfl hb hu (State.same_refl _ _)
  have hsame : s.same [.regs, .held, .parts] (s.writePair lo hi.toNat) :=
    State.writePair_keeps_of_taken rfl hb hu (State.takePair_keeps rfl (State.same_refl _ _))
  have hregs : ∀ a, (s.writePair lo hi.toNat).reg a = (s.takePair lo (s.formed lo hi.toNat)).reg a := fun a =>
    State.reg_congr a (hstored.on .regs rfl)
  have hheld : (s.writePair lo hi.toNat).held = (s.takePair lo (s.formed lo hi.toNat)).held := hstored.on .held rfl
  refine ⟨_, next_whenOn_of_eq hon (doPairHighWrite_eq hi ht hp hs), ?_, ?_, ?_, ?_, hsame.withPending s.pending⟩
  · refine (hregs _).trans ?_
    rw [State.reg_takePair, if_pos rfl, State.formed_high hlow, Nat.mod_eq_of_lt hi.isLt]
  · refine (hregs _).trans ?_
    rw [State.reg_takePair, if_neg (by omega), if_pos rfl, State.formed_low hlow]
  · exact (congrArg (lookup · lo) hheld).trans (State.held_takePair ..)
  · intro a ha _
    refine (hregs a).trans ?_
    simp only [List.contains_cons, List.contains_nil, Bool.or_false, Bool.or_eq_false_iff, beq_eq_false_iff_ne] at ha
    rw [State.reg_takePair, if_neg ha.2, if_neg ha.1]

/-- A write of the upper half that is refused is reported and changes no register. -/
theorem pairHighWrite_refused {s : State} {lo : Nat} (hi : Word) (hon : s.power.off = false)
    (ht : s.takesWrite (lo + 4) = true) (hp : pairWritten lo = true)
    (hs : (List.range 4).any (fun p => Reg.tickStart p == lo) = false)
    (h : s.pairUnsound lo (s.formed lo hi.toNat) = true ∨ s.pairBlocked lo (s.formed lo hi.toNat) = true) :
    ∃ t, exec (.pairHighWrite (lo + 4) hi) s = .next t ∧
      t.pathHas Ev.regWriteRefused (s.regUnit lo) { value := lo, value2 := hi.toNat } ∧ s.keepsRegs t [] ∧
      s.same eventFields t := by
  have hsame : s.same eventFields (s.refuseWrite lo hi.toNat) := State.refuseWrite_keeps rfl (State.same_refl _ _)
  exact ⟨_, next_whenOn_of_eq hon ((doPairHighWrite_eq hi ht hp hs).trans (State.writePair_of_refused h)),
    State.pathHas_refuseWrite s lo hi.toNat, fun _ _ ha => State.reg_refuseWrite lo hi.toNat ha,
    hsame.withPending s.pending⟩

/-- Settles O12: a read of the lower half, a write of it, and a write of the upper half taken or refused. -/
theorem pairsActAsOne : Obligations.PairsActAsOne :=
  ⟨fun _ _ hon hal hlo ht hth => pairLowRead_latches hon hal hlo ht hth,
    fun _ _ v hon ht hp => pairLowWrite_holds v hon ht hp,
    fun _ _ hi hon ht hp hs hlow hb hu =>
      pairHighWrite_stores hi hon ht hp hs hlow (State.pairBlocked_eq_false.mpr hb) hu,
    fun _ _ hi hon ht hp hs h =>
      pairHighWrite_refused hi hon ht hp hs (h.imp_right State.pairBlocked_eq_true.mpr)⟩

/-! ### TICK_START (R27) -/

/-- A write of `v` to TICK_START of partition `p` is refused: outside ADMITTED, less than two exposures ahead of the
present one, on a module that stands by (R382), or with a restore pending (R387). -/
def State.tickStartRefused (s : State) (p v : Nat) : Prop :=
  (s.part p).phase ≠ .admitted ∨ v < (if (s.part p).started then (s.part p).exposure else 0) + 2 ∨
    s.standby = true ∨ (s.part p).fixer.admission = true

theorem doTickStartWrite_of_refused {s : State} {p : Nat} {hi : Word} (hp : p < 4)
    (ht : s.takesWrite (Reg.tickStart p) = true) (h : s.tickStartRefused p (s.formed (Reg.tickStart p) hi.toNat)) :
    doTickStartWrite p hi s = s.refuseWrite (Reg.tickStart p) hi.toNat := by
  rw [doTickStartWrite, if_neg (by simp [hp, ht])]
  refine if_pos ?_
  simpa [State.tickStartRefused, or_assoc] using h

theorem doTickStartWrite_of_taken {s : State} {p : Nat} {hi : Word} (hp : p < 4)
    (ht : s.takesWrite (Reg.tickStart p) = true) (h : ¬ s.tickStartRefused p (s.formed (Reg.tickStart p) hi.toNat)) :
    doTickStartWrite p hi s = s.takePair (Reg.tickStart p) (s.formed (Reg.tickStart p) hi.toNat) := by
  rw [doTickStartWrite, if_neg (by simp [hp, ht])]
  refine if_neg ?_
  simpa [State.tickStartRefused, or_assoc] using h

/-- Settles O15: the exposure written against the present one, with the two rules that refuse it whatever it is. -/
theorem tickStartNeedsTwoExposures : Obligations.TickStartNeedsTwoExposures := by
  refine ⟨fun s p hi hon hp ht hph hv hsb hfx => ?_, fun s p hi hon hp ht h =>
    next_whenOn_of_eq hon (doTickStartWrite_of_refused hp ht h)⟩
  have h : ¬ s.tickStartRefused p (s.formed (Reg.tickStart p) hi.toNat) := by
    rintro (h | h | h | h)
    · exact h hph
    · omega
    · simp [hsb] at h
    · simp [hfx] at h
  exact next_whenOn_of_eq hon (doTickStartWrite_of_taken hp ht h)

end Sys2Proof.Machine
end

section

set_option Elab.async false

open Sys2Proof Sys2Proof.Machine

namespace Sys2Proof.Machine

/-! ### The fields of a register share no bit (R8) -/

/-- Two fields share no bit of a register value. -/
abbrev FieldSpec.apart (f g : FieldSpec) : Prop := f.lo + f.width ≤ g.lo ∨ g.lo + g.width ≤ f.lo

theorem FieldSpec.apart.symm {f g : FieldSpec} (h : f.apart g) : g.apart f := Or.symm h

theorem RegMap.blocks_fields_apart :
    ∀ b ∈ RegMap.blocks, b.fields.Pairwise (fun f g => f.off = g.off → f.apart g) := by
  decide +kernel

theorem RegMap.mem_blocks_of_locate {a i : Nat} {b : BlockSpec} (h : RegMap.locate a = some (b, i)) :
    b ∈ RegMap.blocks := by
  obtain ⟨b', hb', h⟩ := List.exists_of_findSome?_eq_some h
  simp only [Option.ite_none_right_eq_some, Option.some.injEq, Prod.mk.injEq] at h
  obtain ⟨-, -, rfl, -⟩ := h
  exact hb'

theorem RegMap.fieldsAt_apart (a : Nat) : (RegMap.fieldsAt a).Pairwise FieldSpec.apart := by
  unfold RegMap.fieldsAt
  split
  next b i hloc =>
    refine ((RegMap.blocks_fields_apart b (RegMap.mem_blocks_of_locate hloc)).filter _).imp_of_mem fun hf hg h => ?_
    have hoff := of_decide_eq_true (List.mem_filter.mp hf).2
    exact h (hoff.trans (of_decide_eq_true (List.mem_filter.mp hg).2).symm)
  next => exact .nil

/-! ### What a write makes of one field (R8, R10) -/

theorem Attempt.field_of_readOnly (t : Attempt) (a old w : Nat) {f : FieldSpec} (h : f.acc = .ro ∨ f.acc = .wo) :
    t.field a old w f = t := by
  unfold Attempt.field
  rcases h with h | h <;> rw [h]

theorem Attempt.field_of_w1c (t : Attempt) (a old w : Nat) {f : FieldSpec} (h : f.acc = .w1c) : t.field a old w f =
    { t with value := (f.fld a).put t.value ((f.fld a).of old - ((f.fld a).of old &&& (f.fld a).of w)) } := by
  unfold Attempt.field
  rw [h]

theorem Attempt.field_of_stored (t : Attempt) (a old w : Nat) {f : FieldSpec} {x : Nat} (h : f.acc = .rw ∨ f.acc = .rwa)
    (hx : f.judge a ((f.fld a).of w) = .keep x ∨ f.judge a ((f.fld a).of w) = .clamp x) :
    (t.field a old w f).value = (f.fld a).put t.value x ∧ (t.field a old w f).refused = t.refused := by
  unfold Attempt.field
  rcases h with h | h <;> rcases hx with hx | hx <;> simp only [h, hx, and_self]

theorem Attempt.field_of_outOfRange (t : Attempt) (a old w : Nat) {f : FieldSpec} (h : f.acc = .rw ∨ f.acc = .rwa)
    (hj : f.judge a ((f.fld a).of w) = .refuse) : t.field a old w f = { t with refused := true } := by
  unfold Attempt.field
  rcases h with h | h <;> simp only [h, hj]

/-- From one attempt to the next a refusal stands, and of the value to store at most the bits of `g` change. -/
structure Attempt.Within (g : Fld) (t u : Attempt) : Prop where
  refused : t.refused = true → u.refused = true
  value : u.value = t.value ∨ ∃ x, u.value = g.put t.value x

theorem Attempt.within_field (t : Attempt) (a old w : Nat) (f : FieldSpec) :
    Attempt.Within (f.fld a) t (t.field a old w f) := by
  have hread : f.acc = .ro ∨ f.acc = .wo → Attempt.Within (f.fld a) t (t.field a old w f) := fun h => by
    rw [t.field_of_readOnly a old w h]
    exact ⟨id, .inl rfl⟩
  have hwrite : f.acc = .rw ∨ f.acc = .rwa → Attempt.Within (f.fld a) t (t.field a old w f) := fun h => by
    cases hj : f.judge a ((f.fld a).of w) with
    | keep x =>
      obtain ⟨hv, hr⟩ := t.field_of_stored a old w h (.inl hj)
      exact ⟨hr.trans, .inr ⟨x, hv⟩⟩
    | clamp x =>
      obtain ⟨hv, hr⟩ := t.field_of_stored a old w h (.inr hj)
      exact ⟨hr.trans, .inr ⟨x, hv⟩⟩
    | refuse =>
      rw [t.field_of_outOfRange a old w h hj]
      exact ⟨fun _ => rfl, .inl rfl⟩
  cases h : f.acc with
  | ro => exact hread (.inl h)
  | wo => exact hread (.inr h)
  | w1c =>
    rw [t.field_of_w1c a old w h]
    exact ⟨id, .inr ⟨_, rfl⟩⟩
  | rw => exact hwrite (.inl h)
  | rwa => exact hwrite (.inr h)

theorem Attempt.of_field_of_apart (t : Attempt) (a old w : Nat) {f g : FieldSpec} (h : f.apart g) :
    (f.fld a).of (t.field a old w g).value = (f.fld a).of t.value := by
  rcases (t.within_field a old w g).value with hv | ⟨x, hv⟩
  · rw [hv]
  · rw [hv]
    exact Fld.of_put_apart _ _ _ _ h

/-! ### What a write makes of all fields of a register -/

/-- The steps of a write for the fields listed. -/
def Attempt.fields (t : Attempt) (a old w : Nat) (l : List FieldSpec) : Attempt :=
  l.foldl (fun t f => t.field a old w f) t

theorem attempt_eq_fields (a old w : Nat) :
    attempt a old w = Attempt.fields ⟨old, false, false, []⟩ a old w (RegMap.fieldsAt a) := rfl

theorem Attempt.of_fields_of_apart (t : Attempt) (a old w : Nat) {f : FieldSpec} {l : List FieldSpec}
    (h : ∀ g ∈ l, f.apart g) : (f.fld a).of (t.fields a old w l).value = (f.fld a).of t.value := by
  induction l generalizing t with
  | nil => rfl
  | cons g l ih =>
    exact (ih _ fun k hk => h k (List.mem_cons_of_mem _ hk)).trans
      (t.of_field_of_apart a old w (h g List.mem_cons_self))

theorem Attempt.refused_fields (t : Attempt) (a old w : Nat) (l : List FieldSpec) (h : t.refused = true) :
    (t.fields a old w l).refused = true := by
  induction l generalizing t with
  | nil => exact h
  | cons g l ih => exact ih _ ((t.within_field a old w g).refused h)

/-- Of a register's fields only its own step touches the field `f`, and a step that refuses turns the write away. -/
theorem attempt_at_field {a : Nat} (old w : Nat) {f : FieldSpec} (hf : f ∈ RegMap.fieldsAt a) :
    ∃ t : Attempt, (f.fld a).of t.value = (f.fld a).of old ∧
      (f.fld a).of (attempt a old w).value = (f.fld a).of (t.field a old w f).value ∧
      ((t.field a old w f).refused = true → (attempt a old w).refused = true) := by
  obtain ⟨l, r, hl⟩ := List.append_of_mem hf
  have hap := RegMap.fieldsAt_apart a
  rw [hl, List.pairwise_append, List.pairwise_cons] at hap
  obtain ⟨-, ⟨hright, -⟩, hleft⟩ := hap
  have hsplit : attempt a old w =
      (((Attempt.fields ⟨old, false, false, []⟩ a old w l).field a old w f).fields a old w r) := by
    rw [attempt_eq_fields, hl, Attempt.fields, List.foldl_append, List.foldl_cons]
    rfl
  refine ⟨Attempt.fields ⟨old, false, false, []⟩ a old w l, ?_, ?_, ?_⟩
  · exact Attempt.of_fields_of_apart _ a old w fun g hg => (hleft g hg f List.mem_cons_self).symm
  · rw [hsplit, Attempt.of_fields_of_apart _ a old w hright]
  · rw [hsplit]
    exact Attempt.refused_fields _ a old w r

theorem Fld.of_lt (f : Fld) (w : Nat) : f.of w < 2 ^ f.width := Nat.mod_lt _ (Nat.two_pow_pos _)

/-- Settles O13: by the access code, from the step of the field itself. -/
theorem writesFollowAccessCodes : Obligations.WritesFollowAccessCodes := by
  intro a old w f hf
  obtain ⟨t, hold, hnew, href⟩ := attempt_at_field old w hf
  refine ⟨fun h => ?_, fun h => ?_, fun h => ⟨fun x hx => ?_, fun hx => href ?_⟩⟩
  · rw [hnew, t.field_of_readOnly a old w h, hold]
  · rw [hnew, t.field_of_w1c a old w h, Fld.of_put]
    exact Nat.mod_eq_of_lt (Nat.lt_of_le_of_lt (Nat.sub_le _ _) (Fld.of_lt _ _))
  · rw [hnew, (t.field_of_stored a old w h hx).1, Fld.of_put]
    rfl
  · rw [t.field_of_outOfRange a old w h hx]

/-! ### One register write (R8 to R12) -/

theorem State.writeReg_of_taken {s : State} {a w : Nat} (hr : (attempt a (s.reg a) w).refused = false)
    (hb : (attempt a (s.reg a) w).rwa = true → s.rwaBlocked a = false)
    (hu : s.unsound a (attempt a (s.reg a) w).value w = false) :
    s.writeReg a w =
      let t := attempt a (s.reg a) w
      let u := ((s.setReg a t.value).reportClamps a t.clamps).afterWrite a (s.reg a) w
      if t.rwa then u.restartChecks a else u := by
  refine if_neg ?_
  rw [hr, hu, Bool.false_or, Bool.or_false, Bool.and_eq_true]
  exact fun h => absurd (hb h.1) (by simp [h.2])

theorem State.writeReg_of_refused {s : State} {a w : Nat}
    (h : (attempt a (s.reg a) w).refused = true ∨ ((attempt a (s.reg a) w).rwa = true ∧ s.rwaBlocked a = true) ∨
      s.unsound a (attempt a (s.reg a) w).value w = true) :
    s.writeReg a w = s.refuseWrite a w := by
  refine if_pos ?_
  rw [Bool.or_eq_true, Bool.or_eq_true, Bool.and_eq_true, or_assoc]
  exact h

theorem exec_registerWrite {s : State} {a : Nat} (w : Word) (hon : s.power.off = false) (ht : s.takesWrite a = true)
    (hlo : RegMap.isPairLo a = false) (hhi : RegMap.isPairHi a = false) (hown : ownRow a = false) :
    exec (.registerWrite a w) s = .next { s.writeReg a w.toNat with pending := s.pending } :=
  next_whenOn_of_eq hon (if_pos (by rw [ht, hlo, hhi, hown]; rfl))

/-- Settles O14: every write that reaches its register is one `State.writeReg`, taken or refused. -/
theorem registerWriteStores : Obligations.RegisterWriteStores := by
  refine ⟨fun s a w hon ht hlo hhi hown hr hb hu => ?_, fun s a w hon ht hlo hhi hown h => ?_,
    fun s p q w hon hp hq ht => next_whenOn_of_eq hon (if_pos ⟨hp, hq, ht⟩),
    fun s w hon ht => next_whenOn_of_eq hon (if_pos ht), fun s w hon ht => next_whenOn_of_eq hon (if_pos ht)⟩
  · rw [exec_registerWrite w hon ht hlo hhi hown, State.writeReg_of_taken hr hb hu]
  · rw [exec_registerWrite w hon ht hlo hhi hown, State.writeReg_of_refused h]
    rfl

end Sys2Proof.Machine
end

/-! # Exposures (01_exposure.md): the idle block, the shutter tick, step faults and holds, barrier notices, and the packets
that arrive -/

section

set_option Elab.async false

open Sys2Proof Sys2Proof.Machine

namespace Sys2Proof.Machine

/-! ### The queue of the waiting commands while the block idles -/

theorem foldl_pending {α : Type} {f : State → α → State} (hf : ∀ s x, (f s x).pending = s.pending) (l : List α) (s : State) :
    (l.foldl f s).pending = s.pending := by
  induction l generalizing s with
  | nil => rfl
  | cons x l ih => exact (ih _).trans (hf s x)

theorem State.raiseClosed_pending (s : State) (x : Session) (cause : Nat) : (s.raiseClosed x cause).pending = s.pending := by
  have h : (s.sessionObject x).2.pending = s.pending := by
    unfold State.sessionObject
    split
    · rfl
    · split <;> rfl
  exact (State.raiseFor_pending ..).trans h

theorem State.resetModule_pending (s : State) (cause : Nat) : (s.resetModule cause).pending = s.pending := by
  unfold State.resetModule
  dsimp only
  rw [foldl_pending (fun s x => s.raiseClosed_pending x 3), State.set_pending]

theorem State.destroySeal_pending (s : State) : s.destroySeal.pending = s.pending := by
  unfold State.destroySeal
  dsimp only
  rw [State.set_pending, State.modTrust_pending]

theorem State.eraseFlash_pending (s : State) : s.eraseFlash.pending = s.pending := by
  unfold State.eraseFlash
  dsimp only
  rw [State.set_pending, State.set_pending, State.set_pending, State.set_pending, State.setPair_pending]

theorem State.transition_pending (s : State) (new : Nat) : (s.transition new).pending = s.pending := by
  have herase : ∀ t : State, (if new = 4 then t.eraseFlash else t).pending = t.pending := fun t => by
    split
    · exact t.eraseFlash_pending
    · rfl
  have hlast : ∀ t : State, (if new = 3 then t.raise Ev.recoveryEntered UnitId.root else t).pending = t.pending := fun t => by
    split
    · exact State.raise_pending ..
    · rfl
  unfold State.transition
  dsimp only
  rw [hlast, State.raise_pending, State.raise_pending, State.resetModule_pending, herase, State.set_pending,
    State.set_pending, State.modTrust_pending, State.destroySeal_pending]

theorem State.provision_pending (s : State) (b : List Byte) : (s.provision b).pending = s.pending := rfl

theorem State.installImage_pending (s : State) (b : List Byte) (source : Nat) :
    (s.installImage b source).pending = s.pending := by
  unfold State.installImage
  dsimp only
  rw [State.raise_pending]
  split
  · rw [State.transition_pending, State.modTrust_pending]
  · split
    · rw [State.transition_pending, State.provision_pending, State.modTrust_pending]
    · rw [State.resetModule_pending, State.modTrust_pending]

theorem State.finishWrite_pending (s : State) : s.finishWrite.pending = s.pending := by
  unfold State.finishWrite
  split
  · rfl
  · exact State.installImage_pending ..

theorem State.clearSecrets_pending (s : State) : s.clearSecrets.pending = s.pending := by
  unfold State.clearSecrets
  dsimp only
  rw [State.set_pending, State.set_pending, State.modTrust_pending,
    foldl_pending (fun _ _ => by rw [State.set_pending, State.modPart_pending])]
  refine foldl_pending (fun t x => ?_) _ _
  exact State.raiseClosed_pending ..

theorem State.putRecord_pending (s : State) (r : BistRecord) : (s.putRecord r).pending = s.pending := by
  unfold State.putRecord
  dsimp only
  rw [foldl_pending (fun _ _ => State.setReg_pending ..), State.set_pending, State.set_pending, State.set_pending,
    State.modTrust_pending]

theorem State.railsOff_pending (s : State) : s.railsOff.pending = s.pending := by
  unfold State.railsOff
  dsimp only
  rw [State.set_pending, State.modTrust_pending]

theorem State.lastRecord_pending (s : State) (cause : Nat) : (s.lastRecord cause).pending = s.pending := by
  unfold State.lastRecord State.toFlash
  dsimp only
  exact s.stampUsed_pending

theorem State.orderlyOff_pending (s : State) : s.orderlyOff.pending = s.pending := by
  rw [State.orderlyOff, State.railsOff_pending, State.lastRecord_pending]
  rfl

theorem State.saveForTest_pending (s : State) : s.saveForTest.pending = s.pending := by
  unfold State.saveForTest
  dsimp only
  rw [State.modPower_pending, State.set_pending, State.set_pending]
  rfl

theorem State.deferTest_pending (s : State) (cause : Nat) (done : List BistItem) :
    (s.deferTest cause done).pending = s.pending := by
  have hrestore : s.restoreTest.pending = s.pending := by
    unfold State.restoreTest
    split <;> rfl
  unfold State.deferTest
  dsimp only
  rw [State.orderlyOff_pending, State.raise_pending, State.count_pending, State.putRecord_pending, State.stampUsed_pending,
    hrestore]

/-- With no results given, an accepted orderly shut-down goes off, defers its test or begins it (R397, R427). -/
theorem State.goOff_nil_pending (s : State) : (s.goOff []).pending = s.pending := by
  have hclear : (s.modPower (fun w => { w with offDue := false })).saveLog.clearSecrets.pending = s.pending := by
    rw [State.clearSecrets_pending]
    rfl
  unfold State.goOff
  dsimp only
  split
  · rw [State.orderlyOff_pending, hclear]
  · split
    · rw [State.deferTest_pending, State.putRecord_pending, hclear]
    · rw [if_pos List.isEmpty_nil, State.saveForTest_pending, State.putRecord_pending, hclear]

theorem State.carryOff_nil_pending (s : State) : (s.carryOff []).pending = s.pending := by
  unfold State.carryOff
  split
  · rfl
  · exact s.goOff_nil_pending

theorem State.passTime_pending (s : State) : s.passTime.pending = s.pending := by
  unfold State.passTime
  split <;> rfl

theorem State.idle_pending (s : State) : s.idle.pending = s.pending := by
  rw [State.idle, State.finishWrite_pending, State.carryOff_nil_pending, State.passTime_pending]

theorem State.passTime_of_unlocked {s : State} (h : s.time.everLocked = false) : s.passTime = s := by
  rw [State.passTime, h]
  rfl

theorem State.passTime_of_locked {s : State} (h : s.time.everLocked = true) :
    s.passTime = { s with time := s.time.unit } := if_pos h

theorem TimeState.now_unit_of_slew_zero {t : TimeState} (h : t.slew = 0) : t.unit.now = t.now + 1 := by
  simp [TimeState.unit, h]

/-- With no shut-down due and no write of the image slot under way, only fabric time moves while the block idles. -/
theorem State.idle_eq_passTime {s : State} (hoff : s.power.offDue = false) (hw : s.trust.writing = none) :
    s.idle = s.passTime := by
  have hsame : s.same [.time] s.passTime := State.passTime_keeps rfl (State.same_refl _ _)
  have hpower : s.passTime.power = s.power := hsame.on .power rfl
  have htrust : s.passTime.trust = s.trust := hsame.on .trust rfl
  have hcarry : s.passTime.carryOff [] = s.passTime := if_pos (by simp [hpower, hoff])
  rw [State.idle, hcarry, State.finishWrite, htrust, hw]

theorem step_of_idle {s : State} (h : s.pending = []) : step s = .next s.idle := by
  rw [step, h]

theorem step_of_cons {s : State} {c : Instr} {rest : List Instr} (h : s.pending = c :: rest) :
    step s = exec c { s with pending := rest } := by
  rw [step, h]

/-- Settles O1: by whether a command waits; while none does, by what idling does. -/
theorem stepRunsTheFrontCommand : Obligations.StepRunsTheFrontCommand := by
  refine ⟨fun s c rest => step_of_cons, fun s h => ⟨s.idle, step_of_idle h, s.idle_pending.trans h⟩,
    fun s h hoff hw => ⟨s.passTime, ?_, State.passTime_keeps rfl (State.same_refl _ _), State.passTime_of_unlocked, ?_⟩⟩
  · rw [step_of_idle h, State.idle_eq_passTime hoff hw]
  · intro hl hslew
    rw [State.passTime_of_locked hl]
    exact TimeState.now_unit_of_slew_zero hslew

/-! ### Partitions after a change of one -/

theorem State.part_congr {s t : State} (p : Nat) (h : t.parts = s.parts) : t.part p = s.part p := by
  rw [State.part, State.part, h]

theorem State.part_of_getElem? {s : State} {p : Nat} {q : Part} (h : s.parts[p]? = some q) : s.part p = q := by
  rw [State.part, h, Option.getD_some]

theorem State.part_modPart_self {s : State} {p : Nat} {q : Part} (f : Part → Part) (h : s.parts[p]? = some q) :
    (s.modPart p f).part p = f q := by
  simp [State.part, State.modPart, h]

theorem State.part_modPart_other (s : State) {p r : Nat} (f : Part → Part) (h : r ≠ p) :
    (s.modPart p f).part r = s.part r := by
  simp [State.part, State.modPart, Ne.symm h]

/-- What a change of a partition leaves alone in it reads as before in every partition. -/
theorem State.part_modPart_congr {α : Type} (g : Part → α) {f : Part → Part} (h : ∀ q, g (f q) = g q) (s : State)
    (p r : Nat) : g ((s.modPart p f).part r) = g (s.part r) := by
  by_cases hr : r = p
  · subst hr
    cases hq : s.parts[r]? with
    | none => simp [State.part, State.modPart, hq]
    | some q => rw [State.part_modPart_self f hq, State.part_of_getElem? hq, h]
  · rw [State.part_modPart_other s f hr]

/-! ### The shutter tick (R14, R21) -/

/-- Where a partition stands on its grid: its exposure, its next tick, and whether an exposure has opened. -/
def Part.grid (q : Part) : Nat × Nat × Bool := (q.exposure, q.nextTick, q.started)

/-- In `t` fabric time, and the place of every partition on its grid, are as in `s`. -/
structure State.sameGrid (s t : State) : Prop where
  time : t.time = s.time
  part : ∀ r, (t.part r).grid = (s.part r).grid

section Grid

variable {s0 s : State} (h : s0.sameGrid s)
include h

theorem State.sameGrid.of_same {t : State} (L : List Field) (ht : s.same L t) (htime : L.contains .time = false := by rfl)
    (hparts : L.contains .parts = false := by rfl) : s0.sameGrid t :=
  ⟨(ht.on .time htime).trans h.time, fun r => by rw [State.part_congr r (ht.on .parts hparts), h.part r]⟩

theorem State.sameGrid.withTally (x : Tally) : s0.sameGrid { s with tally := x } := ⟨h.time, h.part⟩

theorem State.sameGrid.withPorts (x : List Port) : s0.sameGrid { s with ports := x } := ⟨h.time, h.part⟩

theorem State.set_sameGrid (f : Fld) (v : Nat) : s0.sameGrid (s.set f v) :=
  h.of_same [.regs] (State.set_keeps rfl (State.same_refl _ s))

theorem State.raise_sameGrid (e : EvKind) (u : UnitId) (d : Detail) : s0.sameGrid (s.raise e u d) :=
  h.of_same eventFields (State.raise_keeps rfl (State.same_refl _ s))

theorem State.modPart_sameGrid (p : Nat) {f : Part → Part} (hf : ∀ q, (f q).grid = q.grid) :
    s0.sameGrid (s.modPart p f) :=
  ⟨h.time, fun r => (State.part_modPart_congr Part.grid hf s p r).trans (h.part r)⟩

theorem foldl_sameGrid {α : Type} {f : State → α → State} (hf : ∀ s x, s0.sameGrid s → s0.sameGrid (f s x)) (l : List α) :
    s0.sameGrid (l.foldl f s) := by
  induction l generalizing s with
  | nil => exact h
  | cons x l ih => exact ih (hf s x h)

/-- A sweep that falls due is noted in the Fixer's state of its partition. -/
theorem State.sweepDue_sameGrid (p cause : Nat) (all : Bool) (secures : List (Nat × Nat)) (retire : Bool) :
    s0.sameGrid (s.sweepDue p cause all secures retire) := State.modPart_sameGrid h p fun _ => rfl

theorem State.secureRisk_sameGrid (before risk : Nat) : s0.sameGrid (s.secureRisk before risk) := by
  have hevent : s0.sameGrid (if before < s.get Reg.survThresholds_secureAt then
      s.raise Ev.riskSecure UnitId.module { value := risk } else s) := by
    split
    · exact State.raise_sameGrid h ..
    · exact h
  unfold State.secureRisk
  dsimp only
  generalize (if before < s.get Reg.survThresholds_secureAt then s.raise Ev.riskSecure UnitId.module { value := risk }
    else s) = u at hevent ⊢
  split
  · exact h
  · split
    · exact foldl_sameGrid (State.set_sameGrid (hevent.withTally _) ..)
        (fun _ p hs => State.sweepDue_sameGrid hs p 1 false [] false) _
    · exact hevent

theorem State.alarmRisk_sameGrid (before risk : Nat) : s0.sameGrid (s.alarmRisk before risk) := by
  unfold State.alarmRisk
  dsimp only
  split
  · exact h
  · exact foldl_sameGrid (State.set_sameGrid (State.raise_sameGrid h ..) ..)
      (fun _ p hs => State.sweepDue_sameGrid hs p 1 false [] _) _

/-- Safelight moves no partition on its grid: it notes sweeps. -/
theorem State.safelight_sameGrid (ecc : EccCounts) : s0.sameGrid (s.safelight ecc) := by
  have hinputs : s.same [.regs, .tally] ((List.range 12).foldl (fun s i => s.updateInput ecc i) s) :=
    foldl_keeps _ _ (fun _ _ hs => State.updateInput_keeps rfl hs) (State.same_refl _ s)
  unfold State.safelight
  dsimp only
  generalize (List.range 12).foldl (fun s i => s.updateInput ecc i) s = u at hinputs ⊢
  have hrisk := h.of_same _ (State.rearm_keeps (risk := u.riskNow) rfl
    (State.set_keeps (f := Reg.survRisk_risk) (v := u.riskNow) rfl hinputs))
  exact (State.alarmRisk_sameGrid (State.secureRisk_sameGrid hrisk _ _) _ _).withTally _

theorem State.tickZero_sameGrid (ecc : EccCounts) : s0.sameGrid (s.tickZero ecc) := by
  have hseq : s0.sameGrid { s with seq := 0, seqReported := false, stamped := 0 } := ⟨h.time, h.part⟩
  exact (State.safelight_sameGrid hseq ecc).withPorts _

theorem State.tickStep_sameGrid (p : Nat) : s0.sameGrid (s.tickStep p) := by
  have hindex : s0.sameGrid (s.modPart p (fun q => { q with index := q.index + 1 })) :=
    State.modPart_sameGrid h p fun _ => rfl
  unfold State.tickStep
  dsimp only
  generalize s.modPart p (fun q => { q with index := q.index + 1 }) = u at hindex ⊢
  split
  · exact h
  · exact hindex.of_same (countFields ++ [.cores]) (State.tickSpare_keeps rfl
      (foldl_keeps _ _ (fun _ _ hs => State.tickCore_keeps rfl hs) (State.same_refl _ u)))

theorem State.refreshCoarse_sameGrid (p : Nat) : s0.sameGrid (s.refreshCoarse p) := ⟨h.time, h.part⟩

end Grid

/-- The exposure of partition `p` opens: fabric time has come to its tick, the pools that starved report, and the partition
stands in its next exposure. -/
def State.openExposure (s : State) (p : Nat) : State :=
  ((s.advanceTo (s.tickTime p (s.part p).nextTick)).reportStarved p).modPart p (fun q =>
    { q with
      exposure := (s.part p).nextTick, nextTick := (s.part p).nextTick + 1, started := true
      queues := q.queues.map (fun x => { x with emptyRaised := false }) })

/-- What the tick of exposure `n` of partition `p` does once the exposure is open. -/
def State.atTick (s : State) (p n : Nat) (ecc : EccCounts) : State :=
  let s := if p = 0 then s.tickZero ecc else s
  let s := s.modPart p (fun q => { q with startDue := q.phase == .admitted && n == s.pair (Reg.tickStart p) })
  let s := if (s.part p).withdrawAsked && s.admitted p then s.modPart p (fun q => { q with withdrawDue := true }) else s
  (s.tickStep p).refreshCoarse p

theorem doShutterTick_eq {s : State} {p : Nat} (ecc : EccCounts) (hl : s.time.everLocked = true) (hp : p < 4) :
    doShutterTick p ecc s = (s.openExposure p).atTick p (s.part p).nextTick ecc :=
  if_neg (by simp [hl, hp])

theorem State.atTick_sameGrid {s0 s : State} (h : s0.sameGrid s) (p n : Nat) (ecc : EccCounts) :
    s0.sameGrid (s.atTick p n ecc) := by
  have hzero : s0.sameGrid (if p = 0 then s.tickZero ecc else s) := by
    split
    · exact State.tickZero_sameGrid h ecc
    · exact h
  unfold State.atTick
  dsimp only
  generalize (if p = 0 then s.tickZero ecc else s) = u at hzero ⊢
  have hstart := State.modPart_sameGrid hzero p
    (f := fun q => { q with startDue := q.phase == .admitted && n == u.pair (Reg.tickStart p) }) fun _ => rfl
  split
  · have hdue := State.modPart_sameGrid hstart p (f := fun q => { q with withdrawDue := true }) fun _ => rfl
    exact State.refreshCoarse_sameGrid (State.tickStep_sameGrid hdue p) p
  · exact State.refreshCoarse_sameGrid (State.tickStep_sameGrid hstart p) p

theorem State.reportStarved_same (s : State) (p : Nat) : s.same (eventFields ++ [.pools]) (s.reportStarved p) :=
  State.reportStarved_keeps rfl (State.same_refl _ s)

theorem State.time_openExposure (s : State) (p : Nat) :
    (s.openExposure p).time = (s.advanceTo (s.tickTime p (s.part p).nextTick)).time := by
  rw [State.openExposure, State.modPart_time]
  exact (State.reportStarved_same _ p).on .time rfl

theorem State.part_openExposure_self {s : State} {p : Nat} {q : Part} (h : s.parts[p]? = some q) :
    ((s.openExposure p).part p).grid = (q.nextTick, q.nextTick + 1, true) := by
  have hparts := (State.reportStarved_same (s.advanceTo (s.tickTime p (s.part p).nextTick)) p).on .parts rfl
  rw [State.openExposure, State.part_modPart_self _ ((congrArg (·[p]?) hparts).trans h), State.part_of_getElem? h]
  rfl

theorem State.part_openExposure_other (s : State) {p r : Nat} (h : r ≠ p) : (s.openExposure p).part r = s.part r :=
  (State.part_modPart_other _ _ h).trans (State.part_congr r ((State.reportStarved_same _ p).on .parts rfl))

/-- Settles O21: the exposure opens, and nothing that the tick does after that moves fabric time or a partition on its
grid. -/
theorem tickOpensTheNextExposure : Obligations.TickOpensTheNextExposure := by
  intro s p ecc q hon hl hp hq
  obtain ⟨htime, hpart⟩ : (s.openExposure p).sameGrid (doShutterTick p ecc s) := by
    rw [doShutterTick_eq ecc hl hp]
    exact State.atTick_sameGrid ⟨rfl, fun _ => rfl⟩ ..
  have hself := (hpart p).trans (State.part_openExposure_self hq)
  have hnow := congrArg TimeState.now (htime.trans (State.time_openExposure s p))
  rw [State.part_of_getElem? hq] at hnow
  refine ⟨_, next_whenOn_of_eq hon rfl, congrArg (·.1) hself, congrArg (·.2.1) hself, congrArg (·.2.2) hself, hnow,
    fun r hr => ?_⟩
  have hother : ((doShutterTick p ecc s).part r).grid = (s.part r).grid := by
    rw [hpart r, State.part_openExposure_other s hr]
  exact ⟨congrArg (·.1) hother, congrArg (·.2.1) hother⟩

/-! ### Step faults (R26, R376) -/

section Notices

variable {P : State → Prop} (hstamp : ∀ s, P s → P s.stampUsed) (hport : ∀ s n f, P s → P (s.modPort n f))
include hstamp hport

/-- A notice that is sent takes a stamp and a place at a port, and does nothing else. -/
theorem State.sendNotice_induct {s : State} (h : P s) (p dest : Nat) (n : Notice) : P (s.sendNotice p dest n) := by
  unfold State.sendNotice
  split
  · split
    · exact h
    · exact hport _ _ _ (hstamp s h)
  · exact h

theorem State.noticeDown_induct {s : State} (h : P s) (p : Nat) (n : Notice) : P (s.noticeDown p n) := by
  unfold State.noticeDown
  generalize s.barrierChildren p = l
  induction l generalizing s with
  | nil => exact h
  | cons c l ih => exact ih (State.sendNotice_induct hstamp hport h p c _)

theorem State.noticeUp_induct {s : State} (h : P s) (p : Nat) (n : Notice) : P (s.noticeUp p n) := by
  unfold State.noticeUp
  split
  · exact State.sendNotice_induct hstamp hport h p _ _
  · exact h

end Notices

/-- The partition in FAULTED with the event of its step fault raised, before the fault notice is sent. -/
def State.markFault (s : State) (p : Nat) (c : FaultCause) : State :=
  (s.raise Ev.stepFault (UnitId.partition p) { value := (s.part p).step % 2 ^ 32, cause := c.code }).modPart p
    (fun q => { q with phase := .faulted, faultCause := c.code, drainDone := false })

theorem State.stepFault_of_not_inStep {s : State} {p : Nat} (c : FaultCause) (h : s.inStep p = false) :
    s.stepFault p c = s := by
  rw [State.stepFault, h]
  rfl

/-- A step fault marks the fault and sends its notice, down the barrier tree from the root and up it from elsewhere. -/
theorem State.stepFault_of_inStep {s : State} {p : Nat} (c : FaultCause) (h : s.inStep p = true) :
    ∃ n, s.stepFault p c = (s.markFault p c).noticeDown p n ∨ s.stepFault p c = (s.markFault p c).noticeUp p n := by
  refine ⟨⟨.fault, (s.part p).startExposure, 1, (s.markFault p c).time.now, (s.markFault p c).position, false, c.code, 0, []⟩, ?_⟩
  rw [State.stepFault, h]
  by_cases hr : (s.markFault p c).isBarrierRoot p = true
  · exact .inl (if_pos hr)
  · exact .inr (if_neg hr)

/-- What the mark of a step fault has, and stamps and ports do not touch, the step fault has. -/
theorem State.stepFault_induct {P : State → Prop} (hstamp : ∀ s, P s → P s.stampUsed)
    (hport : ∀ s n f, P s → P (s.modPort n f)) {s : State} {p : Nat} {c : FaultCause} (hin : s.inStep p = true)
    (h : P (s.markFault p c)) : P (s.stepFault p c) := by
  obtain ⟨n, hd | hu⟩ := State.stepFault_of_inStep c hin
  · rw [hd]
    exact State.noticeDown_induct hstamp hport h p n
  · rw [hu]
    exact State.noticeUp_induct hstamp hport h p n

theorem State.pathHas_stampUsed_mono {s : State} {e : EvKind} {u : UnitId} {d : Detail} (h : s.pathHas e u d) :
    s.stampUsed.pathHas e u d := by
  obtain ⟨st, k, hk⟩ := h
  obtain ⟨l, hl⟩ := s.path_stampUsed
  exact ⟨st, k, hl ▸ List.mem_append_left _ hk⟩

theorem State.parts_stepFault {s : State} {p : Nat} {c : FaultCause} (h : s.inStep p = true) :
    (s.stepFault p c).parts = (s.markFault p c).parts :=
  State.stepFault_induct (P := fun t => t.parts = (s.markFault p c).parts) (fun t ht => t.stampUsed_parts.trans ht)
    (fun _ _ _ ht => ht) h rfl

theorem State.pathHas_stepFault {s : State} {p : Nat} {c : FaultCause} (h : s.inStep p = true) :
    (s.stepFault p c).pathHas Ev.stepFault (UnitId.partition p) { value := (s.part p).step % 2 ^ 32, cause := c.code } :=
  State.stepFault_induct (P := fun t => t.pathHas _ _ _) (fun _ ht => State.pathHas_stampUsed_mono ht) (fun _ _ _ ht => ht) h
    (State.pathHas_raise ..)

theorem State.keepsRegs_stepFault {s : State} {p : Nat} {c : FaultCause} (h : s.inStep p = true) :
    s.keepsRegs (s.stepFault p c) [] :=
  State.stepFault_induct (P := fun t => s.keepsRegs t [])
    (fun t ht a ha hs => (State.reg_stampUsed t a hs).trans (ht a ha hs)) (fun _ _ _ ht => ht) h
    (fun a _ hs => State.reg_stampUsed s a hs)

theorem State.part_markFault_self {s : State} {p : Nat} {q : Part} (c : FaultCause) (h : s.parts[p]? = some q) :
    (s.markFault p c).part p = { q with phase := .faulted, faultCause := c.code, drainDone := false } :=
  State.part_modPart_self _ ((congrArg (·[p]?) (State.raise_parts ..)).trans h)

theorem State.part_markFault_other (s : State) {p r : Nat} (c : FaultCause) (h : r ≠ p) :
    (s.markFault p c).part r = s.part r :=
  (State.part_modPart_other _ _ h).trans (State.part_congr r (State.raise_parts ..))

/-- Settles O24: from the mark of the fault, since its notice takes stamps and places at ports only. -/
theorem stepFaultsStopTheStep : Obligations.StepFaultsStopTheStep := by
  refine ⟨fun s p c => State.stepFault_of_not_inStep c, fun s p c q hq hin => ?_⟩
  have hpart : ∀ r, (s.stepFault p c).part r = (s.markFault p c).part r := fun r =>
    State.part_congr r (State.parts_stepFault hin)
  have hself := (hpart p).trans (State.part_markFault_self c hq)
  have hpath := State.pathHas_stepFault (c := c) hin
  rw [State.part_of_getElem? hq] at hpath
  exact ⟨by rw [hself], by rw [hself], hpath, fun r hr => (hpart r).trans (State.part_markFault_other s c hr),
    State.keepsRegs_stepFault hin, State.stepFault_keeps rfl (State.same_refl _ _)⟩

/-! ### Steps held, at their limit, and without a time lock (R16, R26, R41) -/

theorem State.barrierMet_eq_false {s : State} {p : Nat} :
    s.barrierMet p = false ↔ ∀ e, (s.part p).barrier.combined = some e → (s.part p).exposure < s.endExposure p e := by
  unfold State.barrierMet
  cases (s.part p).barrier.combined <;> simp

theorem State.plannedOf_of_planOf {s : State} {p : Nat} {pl : Plan} (h : s.planOf p = some pl) :
    s.plannedOf p = pl.planned := by
  rw [State.plannedOf, h, Option.map_some, Option.getD_some]

theorem State.sparesOf_of_planOf {s : State} {p : Nat} {pl : Plan} (h : s.planOf p = some pl) :
    s.sparesOf p = pl.spares := by
  rw [State.sparesOf, h, Option.map_some, Option.getD_some]

theorem doStepHeld_eq {s : State} {p : Nat} {pl : Plan} (hpl : s.planOf p = some pl) (hrun : (s.part p).phase = .running)
    (hi : pl.planned + pl.spares ≤ (s.part p).index) (hb : s.barrierMet p = false) :
    doStepHeld p s = (s.modPart p (fun q => { q with phase := .held })).raise Ev.stepHeld (UnitId.partition p)
      { value := (s.part p).step % 2 ^ 32 } := by
  refine if_neg ?_
  simp [hpl, hrun, hb, State.plannedOf_of_planOf hpl, State.sparesOf_of_planOf hpl, hi]

theorem doStepHoldLimit_eq {s : State} {p : Nat} (hheld : (s.part p).phase = .held)
    (hi : s.plannedOf p + s.sparesOf p + s.get (Reg.tickHoldLimit_limit p) ≤ (s.part p).index)
    (hb : s.barrierMet p = false) :
    doStepHoldLimit p s =
      (s.raise Ev.stepHoldLimit (UnitId.partition p) { value := s.get (Reg.tickHoldLimit_limit p) }).stepFault p .holdLimit := by
  refine if_neg ?_
  simp [hheld, hb, hi]

theorem doTimeLockTimeout_eq {s : State} {p l : Nat} (hl : s.time.lostAt = some l) (hlock : s.time.locked = false)
    (hp : s.time.overdue.contains p = false) (hnow : l + 64 * s.exposureUnits p ≤ s.time.now) :
    doTimeLockTimeout p s =
      ({ s with time := { s.time with overdue := s.time.overdue ++ [p] } } : State).stepFault p .timeLock := by
  rw [doTimeLockTimeout, hl]
  refine if_neg ?_
  simp only [hlock, hp, Bool.false_or, decide_eq_true_eq]
  omega

/-- Settles O23: each of the three commands finds its condition met. -/
theorem stepsAreHeldAndFault : Obligations.StepsAreHeldAndFault :=
  ⟨fun _ _ _ hon hpl hrun hi hb => next_whenOn_of_eq hon (doStepHeld_eq hpl hrun hi (State.barrierMet_eq_false.mpr hb)),
    fun _ _ hon hheld hi hb => next_whenOn_of_eq hon (doStepHoldLimit_eq hheld hi (State.barrierMet_eq_false.mpr hb)),
    fun _ _ _ hon hl hlock hp hnow => next_whenOn_of_eq hon (doTimeLockTimeout_eq hl hlock hp hnow)⟩

/-! ### Barrier notices (R22, R24, R334, R376, R446) -/

theorem doCompletionNotice_of_take {s : State} {p : Nat} {n : Notice} (h : s.fate n.port (noticePacket n) = .take) :
    doCompletionNotice p n s = ((s.passBuffer n.port 0 1).stampReceipt (pkStamp (noticePacket n))).takeNotice p n := by
  rw [doCompletionNotice, h]

theorem doCompletionNotice_of_stale {s : State} {p : Nat} {n : Notice} (h : s.fate n.port (noticePacket n) = .stale) :
    doCompletionNotice p n s = (s.passBuffer n.port 0 1).dropStale n.port := by
  rw [doCompletionNotice, h]

theorem State.part_stampReceipt_passBuffer (s : State) (n cls units : Nat) (st : Stamp) (p : Nat) :
    ((s.passBuffer n cls units).stampReceipt st).part p = s.part p :=
  State.part_congr p (State.stampUsed_parts _)

theorem State.standby_stampReceipt_passBuffer (s : State) (n cls units : Nat) (st : Stamp) :
    ((s.passBuffer n cls units).stampReceipt st).standby = s.standby :=
  congrArg (· != 0) (State.get_stampUsed _ Reg.survSpareControl_standby rfl)

section TakeNotice

variable {v : State} {p : Nat} {n : Notice}

theorem State.takeNotice_of_idle (h : (v.part p).phase = .idle) : v.takeNotice p n = v := by
  rw [State.takeNotice, h]

theorem State.takeNotice_of_admitted (h : (v.part p).phase = .admitted) (hs : v.standby = false) :
    v.takeNotice p n = v.modBarrier p (fun b => { b with kept := b.kept ++ [n] }) := by
  simp [State.takeNotice, h, hs]

theorem State.takeNotice_of_inStep (h : (v.part p).phase = .running ∨ (v.part p).phase = .held) :
    v.takeNotice p n = v.applyNotice p n := by
  obtain h | h := h <;> rw [State.takeNotice, h]

theorem State.takeNotice_of_faulted (h : (v.part p).phase = .faulted) (hk : n.kind = .completion) :
    v.takeNotice p n = v := by
  rw [State.takeNotice, h, State.applyNotice, hk, h]

theorem State.applyNotice_of_completion (h : (v.part p).phase = .running ∨ (v.part p).phase = .held)
    (hk : n.kind = .completion) : v.applyNotice p n = v.completionNotice p n := by
  obtain h | h := h <;> rw [State.applyNotice, hk, h]

theorem State.applyNotice_of_fault (hk : n.kind = .fault) : v.applyNotice p n = v.faultNotice p n := by
  rw [State.applyNotice, hk]

theorem State.completionNotice_of_mismatch (h : n.startExposure ≠ (v.part p).startExposure) :
    v.completionNotice p n = v.stepFault p .frameMismatch := if_pos h

variable (he : n.startExposure = (v.part p).startExposure) (hc : (v.part p).barrier.combined = none)
include he hc

theorem State.completionNotice_of_down (hd : n.down = true) :
    v.completionNotice p n =
      ((v.modBarrier p (fun b => { b with combined := some n.time })).noteLate p n.origin).noticeDown p n := by
  simp [State.completionNotice, he, hc, hd]

theorem State.completionNotice_of_child (hd : n.down = false) :
    v.completionNotice p n =
      ((v.modBarrier p (fun b => { b with children := b.children ++ [n] })).tryCombine p).noteLate p n.origin := by
  simp [State.completionNotice, he, hc, hd]

end TakeNotice

/-- Settles O29: a notice that is taken acts by the phase of its partition, by its kind and by where it comes from. -/
theorem noticesDriveTheBarrier : Obligations.NoticesDriveTheBarrier := by
  refine ⟨fun s p n hon hfate => ?_, fun s p n hon hfate => next_whenOn_of_eq hon (doCompletionNotice_of_stale hfate)⟩
  intro v inStep
  have hpart : v.part p = s.part p := State.part_stampReceipt_passBuffer ..
  have hstandby : v.standby = s.standby := State.standby_stampReceipt_passBuffer ..
  have htake : ∀ {t}, v.takeNotice p n = t →
      exec (.completionNotice p n) s = .next { t with pending := s.pending } := fun h =>
    next_whenOn_of_eq hon ((doCompletionNotice_of_take hfate).trans h)
  have hact : inStep → v.takeNotice p n = v.applyNotice p n := fun h => State.takeNotice_of_inStep (by rwa [hpart])
  have hcomp : inStep → n.kind = .completion → v.takeNotice p n = v.completionNotice p n := fun h hk =>
    (hact h).trans (State.applyNotice_of_completion (by rwa [hpart]) hk)
  refine ⟨fun h hk he => ?_, fun h hk he hc hd => ?_, fun h hk he hc hd => ?_, fun h hk => ?_, fun h hs => ?_, fun h hk => ?_,
    fun h => ?_⟩
  · exact htake ((hcomp h hk).trans (State.completionNotice_of_mismatch (by rwa [hpart])))
  · exact htake ((hcomp h hk).trans (State.completionNotice_of_down (by rwa [hpart]) (by rwa [hpart]) hd))
  · exact htake ((hcomp h hk).trans (State.completionNotice_of_child (by rwa [hpart]) (by rwa [hpart]) hd))
  · exact htake ((hact h).trans (State.applyNotice_of_fault hk))
  · exact htake (State.takeNotice_of_admitted (by rwa [hpart]) (by rwa [hstandby]))
  · exact htake (State.takeNotice_of_faulted (by rwa [hpart]) hk)
  · exact htake (State.takeNotice_of_idle (by rwa [hpart]))

/-! ### Arriving packets (R311, R317, R334, R420) -/

section Receive

variable {s : State} {n : Nat} {pk : Packet} (act : State → Nat → Packet → State)

theorem State.receive_of_absent (h : s.portUp n = false ∨ s.isFor (s.portPart n) (pkDest pk) = false) :
    s.receive n pk act = s := if_pos (by simpa using h)

variable (h : ¬(s.portUp n = false ∨ s.isFor (s.portPart n) (pkDest pk) = false))
include h

theorem State.receive_of_wait (hf : s.fate n pk = .wait) :
    s.receive n pk act = (s.bufferPacket n pk).modPort n (fun q => { q with waiting := q.waiting ++ [pk] }) := by
  rw [State.receive, if_neg (by simpa using h), hf]

theorem State.receive_of_stale (hf : s.fate n pk = .stale) :
    s.receive n pk act = (s.passPacket n pk).dropStale n := by
  rw [State.receive, if_neg (by simpa using h), hf]

theorem State.receive_of_refused (hf : s.fate n pk = .take)
    (hk : ((s.passPacket n pk).stampReceipt (pkStamp pk)).opened (s.portPart n) pk = none) :
    s.receive n pk act = ((s.passPacket n pk).stampReceipt (pkStamp pk)).tagFailed n (s.portPart n) pk := by
  rw [State.receive, if_neg (by simpa using h), hf]
  dsimp only
  rw [hk]

theorem State.receive_of_opened (hf : s.fate n pk = .take) {k : Packet}
    (hk : ((s.passPacket n pk).stampReceipt (pkStamp pk)).opened (s.portPart n) pk = some k) :
    s.receive n pk act = act ((s.passPacket n pk).stampReceipt (pkStamp pk)) (s.portPart n) k := by
  rw [State.receive, if_neg (by simpa using h), hf]
  dsimp only
  rw [hk]

end Receive

/-- A bulk packet of no operation of R309 is discarded where the mirror data arrive. -/
theorem doBulkMirrorData_of_unknown {n : Nat} {pk : Packet} (s : State) (hk : pkKind pk = 9) (hu : bulkUnknown pk = true) :
    doBulkMirrorData n pk s = s.receive n pk (fun s _ _ => s.dropUnmatched n) := by
  have hop : ¬(pkKind pk = 9 ∧ bulkOp pk = 1) := fun h => by simp [bulkUnknown, h.2] at hu
  rw [doBulkMirrorData, if_neg hop, if_pos ⟨hk, hu⟩]

/-- Settles O42: every command of an arriving packet is one `State.receive`, which goes by the packet's destination, its
epoch and its tag. -/
theorem arrivingPacketsAreActedOn : Obligations.ArrivingPacketsAreActedOn := by
  intro s n pk hon p v got
  have hgot : ∀ act, s.receive n pk act = got act := by
    intro act
    simp only [got]
    by_cases h : s.portUp n = false ∨ s.isFor p (pkDest pk) = false
    · rw [if_pos h, State.receive_of_absent act h]
    · rw [if_neg h]
      cases hf : s.fate n pk with
      | wait => rw [if_pos rfl, State.receive_of_wait act h hf]
      | stale => rw [if_neg (by decide), if_pos rfl, State.receive_of_stale act h hf]
      | take =>
        rw [if_neg (by decide), if_neg (by decide)]
        cases hk : v.opened p pk with
        | none => rw [State.receive_of_refused act h hf hk]
        | some k => rw [State.receive_of_opened act h hf hk]
  have hexec : ∀ (f : State → State) {act}, f s = s.receive n pk act →
      (.next (s.whenOn f) : Host.Outcome State Fault Refusal) = .next { got act with pending := s.pending } := fun f act hf =>
    next_whenOn_of_eq hon (hf.trans (hgot _))
  exact ⟨fun hk => hexec (doDataPacket n pk) (if_pos hk), fun hk => hexec (doReductionPartial n pk) (if_pos hk),
    fun hk => hexec (doReductionResult n pk) (if_pos hk), fun hk => hexec (doSideband n pk) (if_pos hk),
    fun hk => hexec (doRouteSwitch n pk) (if_pos hk), fun hk => hexec (doLandingCredit n pk) (if_pos hk),
    fun hk ho => hexec (doBulkMirrorData n pk) (if_pos ⟨hk, ho⟩),
    fun hk ho => hexec (doBulkMirrorSeal n pk) (if_pos ⟨hk, ho⟩),
    fun hk ho => hexec (doTakeoverRequest n pk) (if_pos ⟨hk, ho⟩),
    fun hk ho => hexec (doItemRequest n pk) (if_pos ⟨hk, ho⟩), fun hk ho => hexec (doItemData n pk) (if_pos ⟨hk, ho⟩),
    fun hk ho => hexec (doItemSealRecord n pk) (if_pos ⟨hk, ho⟩),
    fun hk hu => hexec (doBulkMirrorData n pk) (doBulkMirrorData_of_unknown s hk hu)⟩

end Sys2Proof.Machine
end

/-! # The package (02_package.md): failures of cores, links and rows, and errors in data -/

section

set_option Elab.async false

open Sys2Proof Sys2Proof.Machine

namespace Sys2Proof.Machine

/-! ### Cores and links that fail (R51, R55) -/

theorem doCoreFailed_of_working {s : State} {c : Nat} (hc : c < s.fitted.ccc) (hf : s.coreFailed c = false) :
    doCoreFailed c s =
      let u := (s.setPair Reg.sysInvCoreFailed (s.pair Reg.sysInvCoreFailed + 2 ^ c)).raise Ev.coreFailed (UnitId.core c) {}
      ((u.modCore c (fun k => { k with running := none, asked := false })).leaveDevelopers c).planInvalid (u.corePart c) 1 :=
  if_neg (by simp [hc, hf])

theorem doCoreFailed_of_failed_or_absent {s : State} {c : Nat} (h : s.coreFailed c = true ∨ s.fitted.ccc ≤ c) :
    doCoreFailed c s = s :=
  if_pos h.symm

/-- A link fails only where the package has one that is not down already. -/
theorem doD2dTransferFail_of_absent_or_down {s : State} {i d e : Nat} (retry : Nat)
    (h : s.fitted.hasLink i d e = false ∨ s.d2dDown.contains (linkName i d e) = true) :
    doD2dTransferFail i d e retry s = s :=
  if_pos (by rwa [Bool.or_eq_true, Bool.not_eq_true'])

theorem doD2dTransferFail_of_up {s : State} {i d e : Nat} (retry : Nat) (hlink : s.fitted.hasLink i d e = true)
    (hup : s.d2dDown.contains (linkName i d e) = false) : doD2dTransferFail i d e retry s =
    if retry < 8 then { s with tally := { s.tally with d2d := s.tally.d2d + 1 } }
    else
      let u := ({ s with d2dDown := s.d2dDown ++ [linkName i d e] } : State).raise Ev.d2dLinkDown UnitId.module
        { object := d, cause := i }
      (u.linkParts i d e).foldl (fun v p => v.planInvalid p 2) u :=
  if_neg (by rw [hlink, hup]; decide)

/-! ### What an invalid plan leaves (R380) -/

theorem State.pathHas_stepFault_mono {s : State} {e : EvKind} {u : UnitId} {d : Detail} (p : Nat) (c : FaultCause)
    (h : s.pathHas e u d) : (s.stepFault p c).pathHas e u d := by
  cases hin : s.inStep p with
  | false => rwa [State.stepFault_of_not_inStep c hin]
  | true =>
    have hmark : (s.markFault p c).pathHas e u d :=
      State.pathHas_congr (State.modPart_events ..) (State.pathHas_raise_mono s _ _ _ _ _ _ h)
    exact State.stepFault_induct (P := fun t => t.pathHas e u d) (fun _ ht => State.pathHas_stampUsed_mono ht)
      (fun _ _ _ ht => ht) hin hmark

theorem State.pathHas_planInvalid_mono {s : State} {e : EvKind} {u : UnitId} {d : Detail} (p cause : Nat)
    (h : s.pathHas e u d) : (s.planInvalid p cause).pathHas e u d := by
  unfold State.planInvalid
  split
  · exact h
  · refine State.pathHas_stepFault_mono p _ ?_
    exact State.pathHas_congr (State.modFixer_events ..)
      (State.pathHas_raise_mono s _ Ev.planInvalid _ _ _ _ h)

theorem State.retired_planInvalid (s : State) (p cause : Nat) : (s.planInvalid p cause).retired = s.retired :=
  (State.planInvalid_keeps (L := [.regs, .seq, .seqReported, .events, .parts, .ports]) rfl (State.same_refl _ s)).on .retired
    rfl

/-! ### Rows without a repair row (R381) -/

/-- The page `page` of stack `st` retired, before its plan is looked at. -/
def State.retirePage (s : State) (st page : Nat) : State :=
  let u : State := { s with retired := s.retired ++ [(st, page)] }
  (u.set Reg.survRepair_pagesRetired (u.get Reg.survRepair_pagesRetired + 1)).raise Ev.pageRetired (UnitId.stack st)
    { object := st, value := page }

theorem State.retired_retirePage (s : State) (st page : Nat) :
    (s.retirePage st page).retired = s.retired ++ [(st, page)] :=
  State.raise_retired ..

theorem State.pathHas_retirePage (s : State) (st page : Nat) :
    (s.retirePage st page).pathHas Ev.pageRetired (UnitId.stack st) { object := st, value := page } :=
  State.pathHas_raise ..

theorem State.same_repairRow (s : State) (rows : List Nat) (left : Nat) :
    s.same [.rowsUsed, .regs] (({ s with rowsUsed := rows } : State).set Reg.survRepair_rowsLeft left) := by
  refine State.set_keeps rfl ⟨fun k hk => ?_⟩
  cases k with
  | rowsUsed => cases hk
  | _ => rfl

section Row

variable {s : State} {st page used : Nat} (hst : st < s.fitted.ss) (hused : s.rowsUsed[st]? = some used)
include hst hused

theorem doHbmRowFailure_of_repair_row (h : used < repairRows) : doHbmRowFailure st page s =
    ({ s with rowsUsed := s.rowsUsed.modify st (· + 1) } : State).set Reg.survRepair_rowsLeft
      (repairRows - ((s.rowsUsed.modify st (· + 1)).take s.fitted.ss).foldl max 0) := by
  rw [doHbmRowFailure, hused, if_neg (Nat.not_le.mpr hst)]
  exact if_pos h

theorem doHbmRowFailure_of_retired (h : repairRows ≤ used) (hr : s.retired.contains (st, page) = true) :
    doHbmRowFailure st page s = s := by
  rw [doHbmRowFailure, hused, if_neg (Nat.not_le.mpr hst)]
  exact (if_neg (Nat.not_lt.mpr h)).trans (if_pos hr)

/-- A page that is retired anew makes at most the plan of its stack's partition invalid besides. -/
theorem doHbmRowFailure_of_new_page (h : repairRows ≤ used) (hr : s.retired.contains (st, page) = false) :
    doHbmRowFailure st page s = s.retirePage st page ∨
      ∃ p, doHbmRowFailure st page s = (s.retirePage st page).planInvalid p 4 := by
  have he : doHbmRowFailure st page s =
      let u := s.retirePage st page
      let p := u.stackPart st
      let a := st * stackUsable + page * 2 ^ 21
      if u.hbmBase p ≤ a && u.pageInPlan p (a - u.hbmBase p) then u.planInvalid p 4 else u := by
    rw [doHbmRowFailure, hused, if_neg (Nat.not_le.mpr hst)]
    exact (if_neg (Nat.not_lt.mpr h)).trans (if_neg (by rw [hr]; decide))
  rw [he]
  dsimp only
  split
  · exact .inr ⟨_, rfl⟩
  · exact .inl rfl

end Row

/-- A new page is on the list of retired pages and in an event, whatever its plan suffers. -/
theorem doHbmRowFailure_retires {s : State} {st page used : Nat} (hst : st < s.fitted.ss)
    (hused : s.rowsUsed[st]? = some used) (h : repairRows ≤ used) (hr : s.retired.contains (st, page) = false) :
    (doHbmRowFailure st page s).retired = s.retired ++ [(st, page)] ∧
      (doHbmRowFailure st page s).pathHas Ev.pageRetired (UnitId.stack st) { object := st, value := page } := by
  have hret := s.retired_retirePage st page
  have hev := s.pathHas_retirePage st page
  obtain he | ⟨p, he⟩ := doHbmRowFailure_of_new_page hst hused h hr
  · rw [he]
    exact ⟨hret, hev⟩
  · rw [he]
    exact ⟨(State.retired_planInvalid ..).trans hret, State.pathHas_planInvalid_mono p 4 hev⟩

/-! ### Uncorrectable errors (R266, R298, R378) -/

theorem State.persistentError_eq (s : State) (p g : Nat) (u : UnitId) (r : UeReader) :
    s.persistentError p g u r =
      let v := (s.raiseFor (some p) Ev.uePersistent u { object := g, cause := r.code }).count Ctr.survUePersistentCount
      if r = .task then (v.wantRestore p g).stepFault p .uncorrectable else v.wantRestore p g := by
  cases r <;> rfl

/-- The group that holds the bytes at an HBM address of a partition, if a persistent tensor of its plan lies there. -/
def State.groupAt (s : State) (p a : Nat) : Option Nat :=
  (s.planOf p).bind (fun pl => (pl.tensorAt 0 a).bind (fun x => if x.2.2.persistent then pl.groupOf x.1 x.2.1 else none))

theorem State.decoderError_of_group {s : State} {p a k : Nat} (h : s.groupAt p a = some k) :
    s.decoderError p a = s.persistentError p k (s.codecUnit p 0 a) .task := by
  rw [State.groupAt] at h
  rw [State.decoderError, h]

theorem State.decoderError_of_no_group {s : State} {p a : Nat} (h : s.groupAt p a = none) :
    s.decoderError p a = s.transientError p (s.codecUnit p 0 a) (a / 4096) 2 := by
  rw [State.groupAt] at h
  rw [State.decoderError, h]

/-- Tearing a group writes two registers of the Developer block (R299) and counts. -/
theorem State.reg_tear (s : State) (p g cause : Nat) {a : Nat} (ht : isTickStatus a = false)
    (hs : a ≠ Reg.devStatus_torn.addr) (hl : a ≠ Reg.devLastTorn_group.addr) :
    (s.tear p g cause).reg a = s.reg a := by
  unfold State.tear
  split
  · rfl
  · dsimp only
    have hcause : a ≠ Reg.devLastTorn_cause.addr := hl
    rw [State.reg_count _ _ _ _ ht, State.reg_set_other _ _ _ _ hcause, State.reg_set_other _ _ _ _ hl,
      State.reg_set_other _ _ _ _ hs, State.reg_raise _ _ _ _ _ ht]
    rfl

/-- A window's base lies in the first 8 bytes of its block, apart from the registers that a torn group writes. -/
theorem State.winBase_tear (s : State) (q g cause p : Nat) : (s.tear q g cause).winBase p = s.winBase p := by
  have hreg : ∀ k, k = 0 ∨ k = 4 →
      (s.tear q g cause).reg (Reg.winHbmBase p + k) = s.reg (Reg.winHbmBase p + k) := fun k hk => by
    refine s.reg_tear q g cause ?_ ?_ ?_
    · simp only [isTickStatus, Reg.winHbmBase, List.contains_cons, List.contains_nil, Bool.or_false, Bool.or_eq_false_iff,
        beq_eq_false_iff_ne]
      omega
    · simp only [Reg.devStatus_torn, Reg.winHbmBase]
      omega
    · simp only [Reg.devLastTorn_group, Reg.winHbmBase]
      omega
  have hlow := hreg 0 (.inl rfl)
  have hhigh := hreg 4 (.inr rfl)
  rw [Nat.add_zero] at hlow
  rw [State.winBase, State.pair, hlow, hhigh]
  rfl

/-- A failed word tears at most the group whose update read it. -/
theorem State.tearReader_cases (s : State) (p c space a : Nat) :
    s.tearReader p c space a = s ∨ ∃ g, s.tearReader p c space a = s.tear p g 1 := by
  unfold State.tearReader
  split
  · exact .inl rfl
  · dsimp only
    split
    · exact .inr ⟨_, rfl⟩
    · exact .inl rfl

theorem State.winBase_tearReader (s : State) (q c space a p : Nat) :
    (s.tearReader q c space a).winBase p = s.winBase p := by
  obtain h | ⟨g, h⟩ := s.tearReader_cases q c space a
  · rw [h]
  · rw [h, State.winBase_tear]

/-- What a reader of a failed word does before the error is reported: a core's update is torn. -/
def State.metWord (s : State) (p space a : Nat) : ErrorReader → State
  | .core c => s.tearReader p c space a
  | .fixer => s
  | .nobody => s

theorem State.winBase_metWord (s : State) (p space a : Nat) (r : ErrorReader) :
    (s.metWord p space a r).winBase p = s.winBase p := by
  cases r with
  | core c => exact s.winBase_tearReader p c space a p
  | fixer => rfl
  | nobody => rfl

section Word

variable {s : State} {p space a g i : Nat} {t : Tensor} {pl : Plan} (r : ErrorReader) (hpl : s.planOf p = some pl)
  (ht : pl.tensorAt space a = some (g, i, t))
include hpl ht

theorem State.memoryError_of_group {k : Nat} (hk : (if t.persistent then pl.groupOf g i else none) = some k) :
    s.memoryError p space a r =
      (if r = .fixer then (s.metWord p space a r).modFixer p (fun f => f.passes k) else s.metWord p space a r).persistentError p k
        (s.memoryUnit p space a) (metBy r) := by
  unfold State.memoryError
  simp only [hpl, ht, hk]
  cases r <;> rfl

theorem State.memoryError_of_no_group (hk : (if t.persistent then pl.groupOf g i else none) = none) :
    s.memoryError p space a r =
      (s.metWord p space a r).transientError p (s.memoryUnit p space a)
        ((if space = 3 then s.winBase p + a else a) / 4096) 4 := by
  rw [← s.winBase_metWord p space a r]
  unfold State.memoryError
  simp only [hpl, ht, hk]
  cases r <;> rfl

end Word

/-- Settles O51: each failure by whether its unit has failed before, each error by the tensor its bytes lie in. -/
theorem failuresReachTheirPlans : Obligations.FailuresReachTheirPlans := by
  refine ⟨fun s c hon hc hf => next_whenOn_of_eq hon (doCoreFailed_of_working hc hf),
    fun s c hon h => next_whenOn_of_eq hon (doCoreFailed_of_failed_or_absent h),
    fun s i d e retry hon hlink hup => ⟨fun hr => ?_, fun hr => ?_⟩,
    fun s i d e retry hon h => next_whenOn_of_eq hon (doD2dTransferFail_of_absent_or_down retry h),
    fun s st page used hon hst hused => ⟨_, next_whenOn_of_eq hon rfl, fun h => ?_, fun h hr => ?_,
      fun h hr => doHbmRowFailure_retires hst hused h hr⟩,
    fun s p a hon => ⟨fun k hk => next_whenOn_of_eq hon (State.decoderError_of_group hk),
      fun hk => next_whenOn_of_eq hon (State.decoderError_of_no_group hk)⟩,
    fun s p port a q hon => ⟨next_whenOn_of_eq hon rfl, next_whenOn_of_eq hon rfl⟩,
    fun s p space a g i t pl r hon hpl ht => ?_,
    fun s p g u r => s.persistentError_eq p g u r⟩
  · exact next_whenOn_of_eq hon ((doD2dTransferFail_of_up retry hlink hup).trans (if_pos hr))
  · exact next_whenOn_of_eq hon ((doD2dTransferFail_of_up retry hlink hup).trans (if_neg (Nat.not_lt.mpr hr)))
  · rw [doHbmRowFailure_of_repair_row hst hused h]
    exact ⟨rfl, rfl, s.same_repairRow ..⟩
  · rw [doHbmRowFailure_of_retired hst hused h hr]
  · refine next_whenOn_of_eq hon ?_
    cases hk : (if t.persistent then pl.groupOf g i else none) with
    | some k =>
      refine (State.memoryError_of_group r hpl ht hk).trans ?_
      cases r <;> rfl
    | none =>
      refine (State.memoryError_of_no_group r hpl ht hk).trans ?_
      cases r <;> rfl

end Sys2Proof.Machine
end

/-! # The core array (04_core_array.md): the issue of tasks, the end of a share, completion, and the shares of product and
vector tasks -/

section

set_option Elab.async false

open Sys2Proof Sys2Proof.Machine

namespace Sys2Proof.Machine

/-! ### Cores and runs after a change of one -/

theorem State.core_congr {s t : State} (c : Nat) (h : t.cores = s.cores) : t.core c = s.core c := by
  rw [State.core, State.core, h]

theorem State.core_of_getElem? {s : State} {c : Nat} {k : Core} (h : s.cores[c]? = some k) : s.core c = k := by
  rw [State.core, h, Option.getD_some]

theorem State.core_modCore_self {s : State} {c : Nat} {k : Core} (f : Core → Core) (h : s.cores[c]? = some k) :
    (s.modCore c f).core c = f k := by
  simp [State.core, State.modCore, h]

theorem State.core_modCore_other (s : State) {c d : Nat} (f : Core → Core) (h : d ≠ c) :
    (s.modCore c f).core d = s.core d := by
  simp [State.core, State.modCore, Ne.symm h]

theorem State.run_congr {s t : State} (p g i : Nat) (h : t.parts = s.parts) : t.run p g i = s.run p g i := by
  rw [State.run, State.run, State.part_congr p h]

theorem State.run_modRun_self {s : State} {p : Nat} {q : Part} (g i : Nat) (f : TaskRun → TaskRun)
    (h : s.parts[p]? = some q) : (s.modRun p g i f).run p g i = f (s.run p g i) := by
  rw [State.run, State.modRun, State.part_modPart_self _ h, State.run, State.part_of_getElem? h]
  dsimp only
  rw [lookup_insertKey, if_pos rfl, Option.getD_some]

theorem State.sameMem_of_same {L : List Field} {s t : State} (h : s.same L t)
    (hL : memFields.all (fun k => !L.contains k) = true) : s.sameMem t := by
  simp only [memFields, List.all_cons, List.all_nil, Bool.and_true, Bool.and_eq_true, Bool.not_eq_true'] at hL
  obtain ⟨hmem, hstaging, hneg, htags, hnegTags⟩ := hL
  exact ⟨h.on .mem hmem, h.on .staging hstaging, h.on .neg hneg, h.on .tags htags, h.on .negTags hnegTags⟩

/-! ### The end of a share (R114, R135, R136, R141, R143) -/

/-- The run of a task with one more share, which core `c` computed at this rung. -/
def TaskRun.addShare (r : TaskRun) (c rung hits : Nat) (bad : Bool) : TaskRun :=
  { r with
    finished := r.finished ++ [c], hits := r.hits + hits
    hitAtTop := r.hitAtTop || (decide (0 < hits) && rung == 3), badInput := r.badInput || bad }

/-- A core that runs no task and awaits no tiling record. -/
def Core.idled (k : Core) : Core := { k with running := none, asked := false }

/-- Core `c` is idle after its share, and the run of its task holds the share; no counter holds its hits yet. -/
def State.closeShare (s : State) (p c g t : Nat) (task : Task) (hits : Nat) (bad : Bool) : State :=
  let u := s.modRun p g t (fun r => r.addShare c (s.effRung task) hits bad)
  let u := ((u.modCore c Core.idled).count (Ctr.coreTasksDoneCount c)).leaveDevelopers c
  (u.set (Reg.coreStatus_state c) (if u.behind p c then 2 else 0)).set (Reg.coreStatus_longSum c) 0

/-- The hits of a share of task (g, t) of which `before` were found already, in the counters. -/
def State.countHits (s : State) (c g t : Nat) (task : Task) (hits before : Nat) : State :=
  let u := if hits = 0 then s else s.count Ctr.numHitElementCount hits
  if hits = 0 ∨ task.layered then u
  else if before = 0 then
    (u.count Ctr.numUnlayeredHitCount hits).raise Ev.numericHitUnlayered (UnitId.core c) { object := t, value := g }
  else u.count Ctr.numUnlayeredHitCount hits

theorem State.endShare_eq (s : State) (p c g t : Nat) (task : Task) (hits : Nat) (bad : Bool) :
    s.endShare p c g t task hits bad =
      (s.closeShare p c g t task hits bad).countHits c g t task hits (s.run p g t).hits := rfl

theorem State.writeFrames_of_noQueue {s : State} {r : Running} (h : r.task.queueOut = noQueue) : s.writeFrames r = s :=
  if_pos (.inl h)

theorem State.endTask_of_noQueue {s : State} {c : Nat} {r : Running} (hits : Nat) (bad : Bool)
    (h : r.task.queueOut = noQueue) :
    s.endTask c r hits bad =
      (s.closeShare r.p c r.g r.t r.task hits bad).countHits c r.g r.t r.task hits (s.run r.p r.g r.t).hits := by
  rw [State.endTask, State.writeFrames_of_noQueue h, State.endShare_eq]

section Close

variable (s : State) (p c g t : Nat) (task : Task) (hits : Nat) (bad : Bool)

theorem State.core_closeShare {k : Core} (h : s.cores[c]? = some k) :
    (s.closeShare p c g t task hits bad).core c = k.idled := by
  have hc := State.core_modCore_self (s := s.modRun p g t (fun r => r.addShare c (s.effRung task) hits bad)) Core.idled h
  exact (State.core_congr c (State.count_cores ..)).trans hc

theorem State.run_closeShare {q : Part} (h : s.parts[p]? = some q) :
    (s.closeShare p c g t task hits bad).run p g t = (s.run p g t).addShare c (s.effRung task) hits bad := by
  have hr := State.run_modRun_self g t (fun r => r.addShare c (s.effRung task) hits bad) h
  exact (State.run_congr p g t (State.count_parts ..)).trans hr

theorem State.counter_closeShare (x : Nat) :
    (s.closeShare p c g t task hits bad).counter x =
      if x = Ctr.coreTasksDoneCount c then min (s.counter (Ctr.coreTasksDoneCount c) + 1) counterMax else s.counter x :=
  State.counter_count ..

end Close

section Hits

variable (s : State) (c g t : Nat) (task : Task) (hits before : Nat)

theorem State.countHits_same : s.same countFields (s.countHits c g t task hits before) := by
  have hall : s.same countFields (if hits = 0 then s else s.count Ctr.numHitElementCount hits) := by
    split
    · exact State.same_refl _ _
    · exact State.count_keeps rfl (State.same_refl _ _)
  unfold State.countHits
  dsimp only
  split
  · exact hall
  · split
    · exact State.raise_keeps rfl (State.count_keeps rfl hall)
    · exact State.count_keeps rfl hall

/-- Every hit counts as a hit element; which of them count as unlayered is a counter of its own. -/
theorem State.counter_countHits (x : Nat) (hx : x ≠ Ctr.numUnlayeredHitCount) :
    (s.countHits c g t task hits before).counter x =
      if x = Ctr.numHitElementCount ∧ hits ≠ 0 then min (s.counter Ctr.numHitElementCount + hits) counterMax
      else s.counter x := by
  have hall : (if hits = 0 then s else s.count Ctr.numHitElementCount hits).counter x =
      if x = Ctr.numHitElementCount ∧ hits ≠ 0 then min (s.counter Ctr.numHitElementCount + hits) counterMax
      else s.counter x := by
    by_cases h : hits = 0
    · simp [h]
    · simp [h, State.counter_count]
  have hun : ∀ u : State, (u.count Ctr.numUnlayeredHitCount hits).counter x = u.counter x := fun u => by
    rw [State.counter_count, if_neg hx]
  rw [← hall]
  unfold State.countHits
  dsimp only
  split
  · rfl
  · split
    · rw [State.counter_congr x (State.raise_counters ..), hun]
    · exact hun _

theorem State.pathHas_countHits (hh : 0 < hits) (hl : task.layered = false) :
    (s.countHits c g t task hits 0).pathHas Ev.numericHitUnlayered (UnitId.core c) { object := t, value := g } := by
  unfold State.countHits
  dsimp only
  rw [if_neg (by simp [hl]; omega), if_pos rfl]
  exact State.pathHas_raise ..

end Hits

theorem Ctr.coreTasksDoneCount_ne (c x : Nat) (h : x < 0x1000000) : Ctr.coreTasksDoneCount c ≠ x := by
  unfold Ctr.coreTasksDoneCount
  omega

/-- Settles O30: a share without an output queue closes, and then its hits are counted. -/
theorem sharesEnd : Obligations.SharesEnd := by
  intro s c r hits bad k q hk hq hout t
  have ht : t = (s.closeShare r.p c r.g r.t r.task hits bad).countHits c r.g r.t r.task hits (s.run r.p r.g r.t).hits :=
    State.endTask_of_noQueue hits bad hout
  have hsame := (s.closeShare r.p c r.g r.t r.task hits bad).countHits_same c r.g r.t r.task hits (s.run r.p r.g r.t).hits
  have hcore : t.core c = k.idled := by
    rw [ht, State.core_congr c (hsame.on .cores rfl), State.core_closeShare _ _ _ _ _ _ _ _ hk]
  have hrun : t.run r.p r.g r.t = (s.run r.p r.g r.t).addShare c (s.effRung r.task) hits bad := by
    rw [ht, State.run_congr _ _ _ (hsame.on .parts rfl), State.run_closeShare _ _ _ _ _ _ _ _ hq]
  have hdone : Ctr.coreTasksDoneCount c ≠ Ctr.numUnlayeredHitCount := Ctr.coreTasksDoneCount_ne c _ (by decide)
  have hdone' : Ctr.coreTasksDoneCount c ≠ Ctr.numHitElementCount := Ctr.coreTasksDoneCount_ne c _ (by decide)
  refine ⟨congrArg Core.running hcore, congrArg TaskRun.finished hrun, congrArg TaskRun.hits hrun,
    congrArg TaskRun.badInput hrun, ?_, ?_, fun hh hl hb => ?_, ?_⟩
  · rw [ht, State.counter_countHits _ _ _ _ _ _ _ _ hdone, if_neg (fun h => hdone' h.1), State.counter_closeShare,
      if_pos rfl]
  · rw [ht, State.counter_countHits _ _ _ _ _ _ _ _ (by decide), State.counter_closeShare, if_neg hdone'.symm]
    by_cases h : hits = 0 <;> simp [h]
  · rw [ht, hb]
    exact State.pathHas_countHits _ _ _ _ _ _ hh hl
  · exact State.sameMem_of_same (L := countFields ++ [.parts, .cores, .devQueues, .freeCtr])
      (State.endTask_keeps rfl (State.same_refl _ s)) rfl

/-! ### The plan of a partition after a change of its queues -/

theorem State.planOf_congr {s t : State} {p : Nat} (hp : (t.part p).plan = (s.part p).plan) (h : t.plans = s.plans) :
    t.planOf p = s.planOf p := by
  have hid : t.planById = s.planById := by
    funext id
    rw [State.planById, State.planById, h]
  rw [State.planOf, State.planOf, hp, hid]

theorem State.planOf_of_same {L : List Field} {s t : State} (p : Nat) (h : s.same L t)
    (hparts : L.contains .parts = false := by rfl) (hplans : L.contains .plans = false := by rfl) :
    t.planOf p = s.planOf p :=
  State.planOf_congr (congrArg Part.plan (State.part_congr p (h.on .parts hparts))) (h.on .plans hplans)

theorem State.planOf_modQueue (s : State) (p q r : Nat) (f : QueueRun → QueueRun) :
    (s.modQueue p q f).planOf r = s.planOf r :=
  State.planOf_congr (State.part_modPart_congr Part.plan
    (f := fun x => { x with queues := x.queues.modify q f }) (fun _ => rfl) s p r) rfl

theorem State.planOf_raiseFor (s : State) (concern : Option Nat) (e : EvKind) (u : UnitId) (d : Detail) (p : Nat) :
    (s.raiseFor concern e u d).planOf p = s.planOf p :=
  State.planOf_of_same (L := eventFields) p (State.raiseFor_keeps rfl (State.same_refl _ s))

/-! ### Issue (R113, R116, R140, R372) -/

section Issue

variable (s : State) (p c : Nat) (pl : Plan)

/-- Core `c` must run the task again (R140). -/
def State.runsAgain (y : Nat × Nat × Machine.Task) : Bool := (s.core c).replay.contains (taskKey y.1 y.2.1)

/-- The queue whose credits the task lacks first. -/
def State.lackingQueue (y : Nat × Nat × Machine.Task) : Nat :=
  ((y.2.2.outQueues (s.runsAgain c y)).find? (fun q => decide ((s.queueRun p q).credits < s.writesOf p q))).getD noQueue

/-- Core `c` has noted a credit wait for each ready task that lacks its credits, and a Fixer wait for the group of each
update held back. -/
def State.waitsNoted : State :=
  ((s.readyTasks p c pl).filter (fun y => s.hasCredits p y.2.2 (s.runsAgain c y) && s.copyHolds p y.2.2)).foldl
    (fun u y => u.noteFixerWait p y.2.2.group)
    (((s.readyTasks p c pl).filter (fun y => !s.hasCredits p y.2.2 (s.runsAgain c y))).foldl
      (fun u y => u.noteWait c (taskKey y.1 y.2.1) (s.lackingQueue p c y)) s)

/-- The first ready task that has its credits and waits for no copy of the Fixer. -/
def State.nextTask : Option (Nat × Nat × Machine.Task) :=
  (s.readyTasks p c pl).find? (fun y => s.hasCredits p y.2.2 (s.runsAgain c y) && !s.copyHolds p y.2.2)

theorem State.startable_eq :
    s.startable p c pl = (s.readyTasks p c pl).filter (fun y => s.hasCredits p y.2.2 (s.runsAgain c y)) := rfl

theorem State.find?_startable :
    (s.startable p c pl).find? (fun y => !s.copyHolds p y.2.2) = s.nextTask p c pl := by
  simp only [State.startable_eq, List.find?_filter, State.nextTask, Bool.decide_and, Bool.decide_eq_true]

theorem State.filter_startable :
    (s.startable p c pl).filter (fun y => s.copyHolds p y.2.2) =
      (s.readyTasks p c pl).filter (fun y => s.hasCredits p y.2.2 (s.runsAgain c y) && s.copyHolds p y.2.2) := by
  rw [State.startable_eq, List.filter_filter]
  simp only [Bool.and_comm]

end Issue

/-- Core `c` may start a task of its plan: it works, runs nothing, and its partition is in a step and does not sweep. -/
structure State.MayIssue (s : State) (c : Nat) : Prop where
  fitted : c < s.fitted.ccc
  inStep : s.inStep (s.corePart c) = true
  idle : (s.core c).running = none
  works : s.coreFailed c = false
  noSweep : (s.part (s.corePart c)).fixer.sweep = none

theorem doTaskIssue_eq {s : State} {c : Nat} {pl : Plan} (h : s.MayIssue c) (hpl : s.planOf (s.corePart c) = some pl) :
    doTaskIssue c s =
      ((s.nextTask (s.corePart c) c pl).bind (fun x => pl.runningOf (s.corePart c) x)).elim
        (s.waitsNoted (s.corePart c) c pl) ((s.waitsNoted (s.corePart c) c pl).startTask c) := by
  obtain ⟨hc, hin, hidle, hworks, hsweep⟩ := h
  rw [doTaskIssue, if_neg (by simp [hc, hin, hidle, hworks, hsweep]), hpl]
  dsimp only
  rw [State.find?_startable, State.filter_startable, List.foldl_map]
  cases (s.nextTask (s.corePart c) c pl).bind (fun x => pl.runningOf (s.corePart c) x) <;> rfl

theorem doTaskIssue_of_barred {s : State} {c : Nat} (h : (s.core c).running ≠ none ∨ s.coreFailed c = true ∨
    s.inStep (s.corePart c) = false ∨ (s.part (s.corePart c)).fixer.sweep ≠ none) : doTaskIssue c s = s := by
  rw [doTaskIssue]
  refine if_pos ?_
  simp only [Bool.or_eq_true, Bool.not_eq_true']
  rcases h with h | h | h | h
  · exact .inl (.inl (.inr (Option.isSome_iff_ne_none.mpr h)))
  · exact .inl (.inr h)
  · exact .inl (.inl (.inl (.inr h)))
  · exact .inr (Option.isSome_iff_ne_none.mpr h)

/-! ### Tokens and credits on their way (R114 to R116) -/

theorem doTokenReceived_of_mem {s : State} {c g t : Nat} (h : (⟨c, g, t⟩ : Token) ∈ s.tokens) :
    doTokenReceived c g t s =
      ({ s with tokens := dropFirst ⟨c, g, t⟩ s.tokens } : State).modCore c (fun k =>
        { k with missing := insertKey k.missing (taskKey g t) (k.missingOf (taskKey g t) - 1) }) :=
  if_neg (by simpa using h)

theorem doTokenReceived_of_not_mem {s : State} {c g t : Nat} (h : (⟨c, g, t⟩ : Token) ∉ s.tokens) :
    doTokenReceived c g t s = s :=
  if_pos (by simpa using h)

theorem Core.missingOf_insertKey (k : Core) (key n : Nat) :
    Core.missingOf { k with missing := insertKey k.missing key n } key = n := by
  rw [Core.missingOf, lookup_insertKey, if_pos rfl, Option.getD_some]

theorem doCreditReceived_of_mem {s : State} {p q : Nat} {pl : Plan} {e : QueueEntry} (h : (⟨p, q⟩ : Credit) ∈ s.credits)
    (hpl : s.planOf p = some pl) (he : pl.queue q = some e) :
    doCreditReceived p q s =
      (({ s with credits := dropFirst ⟨p, q⟩ s.credits } : State).modQueue p q
        (fun x => { x with credits := x.credits + 1 })).endWaits p e.producer := by
  have hplan : ∀ f, (({ s with credits := dropFirst ⟨p, q⟩ s.credits } : State).modQueue p q f).planOf p = some pl :=
    fun f => (State.planOf_modQueue ..).trans hpl
  rw [doCreditReceived, if_neg (by simpa using h)]
  dsimp only
  rw [hplan, Option.bind_some, he]

theorem doCreditReceived_of_not_mem {s : State} {p q : Nat} (h : (⟨p, q⟩ : Credit) ∉ s.credits) :
    doCreditReceived p q s = s :=
  if_pos (by simpa using h)

/-! ### Queues that reset (R119) -/

theorem doQueuePtrMismatch_of_loss {s : State} {q : QueueRef} (cause : Nat) {n : Nat} (h : 0 < s.queueHolds q ∨ 0 < n) :
    doQueuePtrMismatch q cause n s =
      (((s.resetQueue q).raiseFor (some (s.queuePart q)) Ev.queuePtrMismatch (s.queueUnit q)
        { object := queueNumber q, value := s.queueHolds q, cause := cause }).noteReset q).queueLoss q :=
  if_neg (by omega)

theorem doQueuePtrMismatch_of_no_loss {s : State} {q : QueueRef} (cause : Nat) (h : s.queueHolds q = 0) :
    doQueuePtrMismatch q cause 0 s =
      ((s.resetQueue q).raiseFor (some (s.queuePart q)) Ev.queuePtrMismatch (s.queueUnit q)
        { object := queueNumber q, value := 0, cause := cause }).noteReset q := by
  rw [doQueuePtrMismatch, h]
  rfl

section PlanQueue

variable {s : State} {p i : Nat} {pl : Plan} {e : QueueEntry} (hpl : s.planOf p = some pl) (he : pl.queue i = some e)
include hpl he

theorem State.queueUnit_plan : s.queueUnit (.plan p i) = UnitId.core e.consumer := by
  rw [State.queueUnit, hpl, Option.bind_some, he]
  rfl

theorem State.resetPlanQueue_eq :
    s.resetPlanQueue p i =
      (({ s.modQueue p i (fun x => { x with items := [], credits := e.entries }) with
          credits := s.credits.filter (fun k => k != ⟨p, i⟩) } : State).modCore e.consumer (fun k =>
        { k with paid := k.paid ++ (k.window.map (fun w => (w.1, i))).filter (!k.paid.contains ·) })).endWaits p
          e.producer := by
  rw [State.resetPlanQueue, hpl, Option.bind_some, he]

theorem State.noteReset_plan :
    s.noteReset (.plan p i) =
      ((s.count (Ctr.coreQueueResetCount e.consumer)).set (Reg.coreQueueError_queue e.consumer) i).set
        (Reg.coreQueueError_valid e.consumer) 1 := by
  have hcore : s.queueCore (.plan p i) = some e.consumer := by
    simp [State.queueCore, hpl, he]
  simp only [State.noteReset, hcore]

theorem State.planOf_resetQueue : (s.resetQueue (.plan p i)).planOf p = some pl := by
  rw [State.resetQueue, State.resetPlanQueue_eq hpl he,
    State.planOf_of_same (L := [.cores]) p (State.endWaits_keeps rfl (State.modCore_keeps rfl (State.same_refl _ _)))]
  exact (State.planOf_modQueue ..).trans hpl

end PlanQueue

/-- Settles O26: a core that may issue takes its next task, a token or credit acts only while it is on its way, and a queue
resets with or without a loss. -/
theorem coresQueuesAndTokens : Obligations.CoresQueuesAndTokens := by
  refine ⟨⟨fun s c pl hon hc hin hidle hworks hpl hsweep => ?_, fun s c hon h =>
    next_whenOn_of_eq hon (doTaskIssue_of_barred h)⟩,
    ⟨fun s c g t hon h => ?_, fun s c g t hon h => next_whenOn_of_eq hon (doTokenReceived_of_not_mem h),
    fun s p q pl e hon h hpl he => next_whenOn_of_eq hon (doCreditReceived_of_mem h hpl he),
    fun s p q hon h => next_whenOn_of_eq hon (doCreditReceived_of_not_mem h)⟩,
    fun s p i cause pl e hon hpl he hitems => ?_,
    fun s q cause n hon h => next_whenOn_of_eq hon (doQueuePtrMismatch_of_loss cause h)⟩
  · have hissue := doTaskIssue_eq ⟨hc, hin, hidle, hworks, hsweep⟩ hpl
    refine ⟨fun x r hx hr => next_whenOn_of_eq hon (hissue.trans ?_), fun h => next_whenOn_of_eq hon (hissue.trans ?_)⟩
    · rw [List.head?_filter] at hx
      rw [show s.nextTask (s.corePart c) c pl = some x from hx, Option.bind_some, hr]
      rfl
    · have hnone : s.nextTask (s.corePart c) c pl = none := by
        refine List.find?_eq_none.mpr fun y hy hb => ?_
        obtain ⟨hcr, hcopy⟩ := Bool.and_eq_true_iff.mp hb
        rw [h y hy hcr] at hcopy
        cases hcopy
      rw [hnone]
      rfl
  · refine ⟨_, next_whenOn_of_eq hon (doTokenReceived_of_mem h), rfl, fun k hk => ?_, fun d hd => ?_,
      (State.modCore_keeps rfl ?_).withPending s.pending⟩
    · refine (congrArg (Core.missingOf · (taskKey g t)) (State.core_modCore_self (s := { s with
        tokens := dropFirst ⟨c, g, t⟩ s.tokens }) _ hk)).trans ?_
      exact Core.missingOf_insertKey ..
    · exact State.core_modCore_other { s with tokens := dropFirst ⟨c, g, t⟩ s.tokens } _ hd
    · exact ⟨fun k hk => by
        cases k with
        | tokens => cases hk
        | _ => rfl⟩
  · have hholds : s.queueHolds (.plan p i) = 0 := congrArg List.length hitems
    refine next_whenOn_of_eq hon ((doQueuePtrMismatch_of_no_loss cause hholds).trans ?_)
    rw [State.noteReset_plan ((State.planOf_raiseFor ..).trans (State.planOf_resetQueue hpl he)) he,
      State.queueUnit_plan hpl he, State.resetQueue, State.resetPlanQueue_eq hpl he]
    rfl

/-! ### Completion (R114, R138, R139, R141, R237) -/

section Completion

variable {s : State} {p g i : Nat} {pl : Plan} {t : Machine.Task} (hpl : s.planOf p = some pl) (ht : pl.task g i = some t)
  (hopen : (s.run p g i).completed = false) (hall : ∀ c ∈ t.cores, c ∈ (s.run p g i).finished)
include hpl ht hopen hall

/-- A task whose cores have all finished completes by whether it belongs to a layer, and whether it commits that layer. -/
theorem doTaskCompletion_eq :
    doTaskCompletion p g i s =
      let u := s.modRun p g i (fun r => { r with completed := true })
      let u := if t.layered then u.sendTokens pl g i (fun x => x.layer == t.layer)
        else (u.writeHalos p pl g i t).sendTokens pl g i (fun _ => true)
      let u := (u.payHalos p pl g i t).releaseLandings p pl g i
      (if t.layered && t.commits then u.judgeLayer p g t.layer pl else u).stepWorkDone p pl := by
  have hmet : ¬ ((s.run p g i).completed || !t.cores.all (fun c => (s.run p g i).finished.contains c)) = true := by
    simpa [hopen] using hall
  simp only [doTaskCompletion, hpl, ht]
  exact if_neg hmet

theorem doTaskCompletion_of_unlayered (hl : t.layered = false) :
    doTaskCompletion p g i s =
      ((((((s.modRun p g i (fun r => { r with completed := true })).writeHalos p pl g i t).sendTokens pl g i
        (fun _ => true)).payHalos p pl g i t).releaseLandings p pl g i).stepWorkDone p pl) := by
  rw [doTaskCompletion_eq hpl ht hopen hall, hl]
  rfl

theorem doTaskCompletion_of_commit (hl : t.layered = true) (hc : t.commits = true) :
    doTaskCompletion p g i s =
      (((((s.modRun p g i (fun r => { r with completed := true })).sendTokens pl g i (fun x => x.layer == t.layer)).payHalos
        p pl g i t).releaseLandings p pl g i).judgeLayer p g t.layer pl).stepWorkDone p pl := by
  rw [doTaskCompletion_eq hpl ht hopen hall, hl, hc]
  rfl

end Completion

section Judge

/-- The runs of the tasks of layer `l` in graph `g`. -/
def State.layerRuns (s : State) (p g l : Nat) (pl : Plan) : List TaskRun :=
  (pl.layerTasks g l).map (fun x => s.run p g x.1)

variable {s : State} {p g l : Nat} {pl : Plan} (hin : s.inStep p = true)
include hin

theorem State.judgeLayer_eq : s.judgeLayer p g l pl =
    if (s.layerRuns p g l pl).any (·.badInput) then s.numericFault p l 2
    else if (s.layerRuns p g l pl).any (·.hitAtTop) then s.numericFault p l 1
    else if (s.layerRuns p g l pl).any (fun r => decide (0 < r.hits)) then s.replayLayer p g l pl
    else s.commitLayer p pl g l :=
  if_neg (by simp [hin])

theorem State.judgeLayer_of_badInput (h : ∃ r ∈ s.layerRuns p g l pl, r.badInput = true) :
    s.judgeLayer p g l pl = s.numericFault p l 2 := by
  rw [State.judgeLayer_eq hin, if_pos (List.any_eq_true.mpr h)]

theorem State.judgeLayer_of_hitAtTop (hbad : ∀ r ∈ s.layerRuns p g l pl, r.badInput = false)
    (h : ∃ r ∈ s.layerRuns p g l pl, r.hitAtTop = true) : s.judgeLayer p g l pl = s.numericFault p l 1 := by
  rw [State.judgeLayer_eq hin, if_neg (by simpa using hbad), if_pos (List.any_eq_true.mpr h)]

theorem State.judgeLayer_of_hits (hbad : ∀ r ∈ s.layerRuns p g l pl, r.badInput = false)
    (htop : ∀ r ∈ s.layerRuns p g l pl, r.hitAtTop = false) (h : ∃ r ∈ s.layerRuns p g l pl, 0 < r.hits) :
    s.judgeLayer p g l pl = s.replayLayer p g l pl := by
  rw [State.judgeLayer_eq hin, if_neg (by simpa using hbad), if_neg (by simpa using htop), if_pos (by simpa using h)]

theorem State.judgeLayer_of_no_hits (hbad : ∀ r ∈ s.layerRuns p g l pl, r.badInput = false)
    (htop : ∀ r ∈ s.layerRuns p g l pl, r.hitAtTop = false) (h : ∀ r ∈ s.layerRuns p g l pl, r.hits = 0) :
    s.judgeLayer p g l pl = s.commitLayer p pl g l := by
  rw [State.judgeLayer_eq hin, if_neg (by simpa using hbad), if_neg (by simpa using htop), if_neg (by simpa using h)]

end Judge

/-- Settles O27: a task completes outside a layer or as its layer's commit task, which judges the runs of the layer. -/
theorem completionCommitsOrReplays : Obligations.CompletionCommitsOrReplays :=
  ⟨fun _ _ _ _ _ _ hon hpl ht hopen hall hl => next_whenOn_of_eq hon (doTaskCompletion_of_unlayered hpl ht hopen hall hl),
    fun _ _ _ _ _ _ hon hpl ht hopen hall hl hc =>
      next_whenOn_of_eq hon (doTaskCompletion_of_commit hpl ht hopen hall hl hc),
    fun _ _ _ _ _ hin => ⟨fun h => State.judgeLayer_of_badInput hin h, fun hb h => State.judgeLayer_of_hitAtTop hin hb h,
      fun hn h => State.judgeLayer_of_hits hin (fun r hr => (hn r hr).1) (fun r hr => (hn r hr).2) h,
      fun hn => State.judgeLayer_of_no_hits hin (fun r hr => (hn r hr).1) (fun r hr => (hn r hr).2.1)
        (fun r hr => (hn r hr).2.2)⟩⟩

/-! ### Product tasks (R104, R107, R128 to R130, R153, R162) -/

/-- What core `c` does with its share of product task `r`. -/
def State.productShare (s : State) (c : Nat) (r : Running) : State :=
  if r.frozenSkip then ((s.count (Ctr.coreFrozenSkipCount c)).keepCredits r).endEmpty c r
  else if r.task.product.atOnce r.productTensors then s.productAtOnce c r r.task.product
  else (s.core c).tiling.elim s (fun tl =>
    if s.effRung r.task = 3 then s.vectorProduct c r r.task.product else s.arrayProduct c r r.task.product tl)

theorem State.productTask_eq {s : State} {c : Nat} {r : Running} (hrun : s.runningOn c = some r) {ok : Machine.Task → Bool}
    (hok : ok r.task = true) : s.productTask c ok = s.productShare c r := by
  rw [State.productTask, hrun]
  dsimp only
  rw [hok, Bool.not_true, if_neg Bool.false_ne_true, State.productShare]
  cases (s.core c).tiling <;> rfl

theorem exec_product {s : State} {c : Nat} {r : Running} (hon : s.power.off = false) (hrun : s.runningOn c = some r) :
    (r.task.op = 0x0001 → exec (.matrixProduct c) s = .next { s.productShare c r with pending := s.pending }) ∧
    (r.task.op = 0x0002 → r.task.par 0 1 = 1 →
      exec (.dataGradientProduct c) s = .next { s.productShare c r with pending := s.pending }) ∧
    (r.task.op = 0x0002 → r.task.par 0 1 = 2 →
      exec (.weightGradientProduct c) s = .next { s.productShare c r with pending := s.pending }) :=
  ⟨fun h => next_whenOn_of_eq hon (State.productTask_eq hrun (by simp [h])),
    fun h hp => next_whenOn_of_eq hon (State.productTask_eq hrun (by simp [h, hp])),
    fun h hp => next_whenOn_of_eq hon (State.productTask_eq hrun (by simp [h, hp]))⟩

section Share

variable {s : State} {c : Nat} {r : Running}

theorem State.productShare_of_frozen (h : r.frozenSkip = true) :
    s.productShare c r = ((s.count (Ctr.coreFrozenSkipCount c)).keepCredits r).endEmpty c r :=
  if_pos h

theorem State.productShare_of_atOnce (h : r.frozenSkip = false) (ha : r.task.product.atOnce r.productTensors = true) :
    s.productShare c r = s.productAtOnce c r r.task.product := by
  rw [State.productShare, h, ha]
  rfl

variable (h : r.frozenSkip = false) (ha : r.task.product.atOnce r.productTensors = false)
include h ha

theorem State.productShare_of_no_record (ht : (s.core c).tiling = none) : s.productShare c r = s := by
  rw [State.productShare, h, ha, ht]
  rfl

theorem State.productShare_of_record {tl : Tiling} (ht : (s.core c).tiling = some tl) :
    s.productShare c r =
      if s.effRung r.task = 3 then s.vectorProduct c r r.task.product else s.arrayProduct c r r.task.product tl := by
  rw [State.productShare, h, ha, ht]
  rfl

end Share

/-- Only a matrix product writes its initial value at once; any other product that R107 ends writes nothing. -/
theorem State.productAtOnce_of_op {s : State} {c : Nat} {r : Running} {q : Product} (h : r.task.op ≠ 0x0001) :
    s.productAtOnce c r q = s.endTask c r 0 false :=
  if_neg (by simp [h])

theorem State.vectorProduct_eq {s : State} {c : Nat} {r : Running} {q : Product} {sh : Share}
    (hs : gridShare q.M q.N (vectorGrid r.task.coreCount q.M q.N).1 (vectorGrid r.task.coreCount q.M q.N).2
      (r.coreIndex c) false = some sh) (hr : sh.rows.2 ≠ 0) (hc : sh.cols.2 ≠ 0) :
    s.vectorProduct c r q = s.runShare c r ⟨q, 3, 1, fun u => u.k, sh⟩ := by
  rw [State.vectorProduct, hs]
  exact if_neg (by simp [hr, hc])

/-- What a product's share leaves beside its stored rows: the largest gradient in the runs that stand (R147), and the open
values and draws that its `n` elements took. -/
def State.bookShare (s : State) (c : Nat) (r : Running) (x : ProductRun) (out : Tensor) (runs : List Run)
    (n : Nat) : State :=
  let u := (if x.q.backward then s.recordGrad r out runs else s).useFree (n * (x.terms r + 1))
  if x.q.longSum && decide (x.rung < 3) then
    u.modCore c (fun k => { k with genCounter := k.genCounter + n * x.terms r })
  else u

theorem State.bookShare_same (s : State) (c : Nat) (r : Running) (x : ProductRun) (out : Tensor) (runs : List Run)
    (n : Nat) : s.same shareFields (s.bookShare c r x out runs n) := by
  have hgrad : s.same shareFields (if x.q.backward then s.recordGrad r out runs else s) := by
    split
    · exact State.recordGrad_keeps rfl (State.same_refl _ _)
    · exact State.same_refl _ _
  have hfree := State.useFree_keeps (n := n * (x.terms r + 1)) rfl hgrad
  unfold State.bookShare
  dsimp only
  split
  · exact State.modCore_keeps rfl hfree
  · exact hfree

theorem State.runShare_eq {s : State} {c : Nat} {r : Running} {out : Operand} (hout : r.slot 3 = some out)
    (x : ProductRun) :
    let fr := s.takeFrames c r
    let rows := fr.2.productRows c r x out.t (x.present fr.1)
    let ld := fr.2.loadAll r (r.productReads x (x.present fr.1))
    let m := ld.1.storeShare r out.t rows
    s.runShare c r x =
      (m.1.bookShare c r x out.t m.2.runs (rows.map (fun y => y.1.vals.length)).sum).endTask c r m.2.hits ld.2 := by
  rw [State.runShare, hout]
  rfl

/-! #### On the array, with a tiling record -/

theorem State.effRung_congr {s t : State} (x : Machine.Task) (h : t.layers = s.layers) : t.effRung x = s.effRung x := by
  unfold State.effRung State.promotion State.layer
  rw [h]

/-- The tiles of a core's share of a product, each with the use it belongs to. -/
def State.tilesOf (s : State) (c : Nat) (r : Running) (q : Product) (tl : Tiling) (sh : Share) :
    List (UseShape × Nat × Nat × Nat) :=
  (s.shapeKey c r).shape.turned.uses.flatMap (fun u =>
    (shareTiles (s.shapeKey c r).shape.turned tl sh (q.N == 1) u).map (fun t => (u, t)))

/-- What the array computes of a share with a tiling record. -/
def State.arrayRun (s : State) (c : Nat) (r : Running) (q : Product) (tl : Tiling) (sh : Share) : ProductRun :=
  ⟨q, s.effRung r.task, (formSize tl.form).1, fun u =>
    (((s.shapeKey c r).shape.turned.uses.zip q.uses).find? (fun y => y.2 == u)).elim u.k (fun y =>
      (s.shapeKey c r).shape.turned.kTileOf tl y.1), sh⟩

/-- Core `c` shows the form of its product, and counts `n` tiles and the cycles they keep its array busy. -/
def State.issueTiles (s : State) (c form n cycles : Nat) : State :=
  ((s.set (Reg.coreStatus_form c) form).count (Ctr.coreTilesIssuedCount c) n).count (Ctr.coreArrayBusyCount c) cycles

theorem State.issueTiles_same (s : State) (c form n cycles : Nat) : s.same countFields (s.issueTiles c form n cycles) :=
  State.count_keeps rfl (State.count_keeps rfl (State.set_keeps rfl (State.same_refl _ _)))

theorem State.form_issueTiles (s : State) (c form n cycles : Nat) :
    (s.issueTiles c form n cycles).get (Reg.coreStatus_form c) = form % 8 := by
  have hplain : isTickStatus (Reg.coreStatus_form c).addr = false := by
    simp [isTickStatus, Reg.coreStatus_form]
    omega
  rw [State.issueTiles, State.get_count _ _ _ _ hplain, State.get_count _ _ _ _ hplain, State.get_set_self]
  rfl

/-- With legal tiles the share runs as soon as its form is shown and its tiles are counted. -/
theorem State.arrayProduct_runs {s : State} {c : Nat} {r : Running} {q : Product} {tl : Tiling} {sh : Share}
    (hs : gridShare q.M q.N tl.gM tl.gN (r.coreIndex c) (q.N == 1) = some sh) (hr : sh.rows.2 ≠ 0) (hc : sh.cols.2 ≠ 0)
    (hlegal : ∀ x ∈ s.tilesOf c r q tl sh, x.1.legal (s.shapeKey c r).shape.turned.acc (r.plan.tileSpace c)
      x.2.1 x.2.2.1 x.2.2.2 = true) :
    ∃ n cycles, s.arrayProduct c r q tl = (s.issueTiles c tl.form n cycles).runShare c r (s.arrayRun c r q tl sh) := by
  have hfind : (s.tilesOf c r q tl sh).find? (fun x => !x.1.legal (s.shapeKey c r).shape.turned.acc (r.plan.tileSpace c)
      x.2.1 x.2.2.1 x.2.2.2) = none :=
    List.find?_eq_none.mpr fun x hx => by simp [hlegal x hx]
  have hrung : ∀ n cycles, (s.issueTiles c tl.form n cycles).effRung r.task = s.effRung r.task := fun n cycles =>
    State.effRung_congr _ ((s.issueTiles_same c tl.form n cycles).on .layers rfl)
  refine ⟨q.iterations * (s.tilesOf c r q tl sh).length, q.iterations *
    ((s.tilesOf c r q tl sh).map (fun x => tileCycles tl.form x.1 x.2.1 x.2.2.1 x.2.2.2)).sum, ?_⟩
  unfold State.tilesOf at hfind
  rw [State.arrayProduct, hs]
  dsimp only
  rw [if_neg (by simp [hr, hc]), hfind, State.arrayRun, ← hrung]
  rfl

/-- Settles O31: the three commands run one share, by whether its gradients are skipped, it ends at once, or its record has
come, and then by the rung. -/
theorem productsWriteTheirShare : Obligations.ProductsWriteTheirShare := by
  intro s c r out hon hrun hout q
  obtain ⟨hm, hd, hw⟩ := exec_product hon hrun
  refine ⟨fun hf ha h3 ht sh hs hr hc => ?_, fun hf ha h3 tl sh ht hs hr hc hlegal => ?_,
    fun hf ha => ⟨fun h => ?_, fun h hp => ?_, fun h hp => ?_⟩, fun hf h hp => ?_,
    fun hf ha ht => ⟨fun h => ?_, fun h hp => ?_, fun h hp => ?_⟩⟩
  · intro x fr rows ld m
    obtain ⟨tl, ht⟩ := Option.ne_none_iff_exists'.mp ht
    have hends : s.shareEnds c r m.2.hits ld.2 m.1 (.next { s.productShare c r with pending := s.pending }) := by
      rw [State.productShare_of_record hf ha ht, if_pos h3, State.vectorProduct_eq hs hr hc, State.runShare_eq hout]
      exact ⟨_, rfl, State.bookShare_same ..⟩
    exact ⟨fun h => (hm h).symm ▸ hends, fun h hp => (hd h hp).symm ▸ hends, fun h hp => (hw h hp).symm ▸ hends⟩
  · intro cell
    obtain ⟨n, cycles, hruns⟩ := State.arrayProduct_runs hs hr hc hlegal
    have hshare := (State.productShare_of_record hf ha ht).trans ((if_neg (by omega)).trans hruns)
    have hcell : cell (s.issueTiles c tl.form n cycles) (s.arrayRun c r q tl sh) :=
      ⟨rfl, rfl, rfl, rfl, s.form_issueTiles c tl.form n cycles, s.issueTiles_same c tl.form n cycles⟩
    rw [hshare] at hm hd hw
    exact ⟨fun h => ⟨_, _, hm h, hcell⟩, fun h hp => ⟨_, _, hd h hp, hcell⟩, fun h hp => ⟨_, _, hw h hp, hcell⟩⟩
  · rw [hm h, State.productShare_of_atOnce hf ha]
  · rw [hd h hp, State.productShare_of_atOnce hf ha, State.productAtOnce_of_op (by omega)]
  · rw [hw h hp, State.productShare_of_atOnce hf ha, State.productAtOnce_of_op (by omega)]
  · rw [hw h hp, State.productShare_of_frozen hf]
  · rw [hm h, State.productShare_of_no_record hf ha ht]
  · rw [hd h hp, State.productShare_of_no_record hf ha ht]
  · rw [hw h hp, State.productShare_of_no_record hf ha ht]

/-! ### Vector kernels (R110, R121, R444) -/

/-- A share that ends with its pieces stores them and takes open values besides. -/
theorem State.shareEnds_endVector {s : State} (v : State) (c : Nat) (r : Running) (reads : List (Operand × List Run))
    (out : Tensor) (ps : List Piece) (free : Nat) {o : Host.Outcome State Fault Refusal}
    (h : o = .next { v.endVector c r reads out ps free with pending := s.pending }) :
    s.shareEnds c r ((ps.map (fun x => out.pieceHits x [])).sum) (v.loadAll r reads).2
      ((v.loadAll r reads).1.store r.p out ps) o :=
  ⟨_, h, State.useFree_keeps rfl (State.same_refl _ _)⟩

/-- Core `c`'s slices of a kernel's `q` units, but for those whose frame was blank. -/
def Running.slicesOf (r : Running) (c q : Nat) (frames : List (Option QueueItem)) : List Nat :=
  let sh := shareOf q r.task.coreCount (r.coreIndex c)
  ((List.range sh.2).map (· + sh.1)).filter (fun k => !rowAbsent frames q k)

section Kernel

variable {s : State} {c : Nat} {r : Running} {a out : Operand} (hrun : s.runningOn c = some r) (hop : r.task.op = 0x0008)
  (ha : r.slot 0 = some a) (ho : r.slot 3 = some out)
include hrun hop ha ho

theorem doVectorKernel_eq : doVectorKernel c s =
    if r.usesEmpty then s.endTask c r 0 false
    else if r.task.kernel = 0x0B ∧ r.coreIndex c = 0 ∧ !s.othersDone c r then s
    else
      let q := if r.task.inputSlices then a.t.rows else out.t.rows
      let fr := s.takeFrames c r
      let ks := r.slicesOf c q fr.1
      if r.task.kernel = 0x0B then fr.2.absMaxShare c r a out.t ks fr.1
      else fr.2.endVector c r (r.kernelReads a ks) out.t (ks.map (fun k => fr.2.kernelPiece r a.t out.t k))
        (2 * q * (1 + out.t.dim 0)) := by
  rw [doVectorKernel, hrun]
  dsimp only
  rw [if_neg (by simp [hop]), ha, ho]
  rfl

theorem doVectorKernel_of_empty (he : r.usesEmpty = true) : doVectorKernel c s = s.endTask c r 0 false :=
  (doVectorKernel_eq hrun hop ha ho).trans (if_pos he)

theorem doVectorKernel_of_waiting (he : r.usesEmpty = false) (hk : r.task.kernel = 0x0B) (hc : r.coreIndex c = 0)
    (hd : s.othersDone c r = false) : doVectorKernel c s = s := by
  rw [doVectorKernel_eq hrun hop ha ho, he]
  exact if_pos (And.intro hk (And.intro hc (by rw [hd]; rfl)))

theorem doVectorKernel_of_absMax (he : r.usesEmpty = false) (hk : r.task.kernel = 0x0B)
    (hd : r.coreIndex c = 0 → s.othersDone c r = true) :
    doVectorKernel c s =
      let q := if r.task.inputSlices then a.t.rows else out.t.rows
      let fr := s.takeFrames c r
      fr.2.absMaxShare c r a out.t (r.slicesOf c q fr.1) fr.1 := by
  rw [doVectorKernel_eq hrun hop ha ho, he, if_neg Bool.false_ne_true, if_neg (fun h => by simp [hd h.2.1] at h)]
  exact if_pos hk

theorem doVectorKernel_of_slices (he : r.usesEmpty = false) (hk : r.task.kernel ≠ 0x0B) :
    doVectorKernel c s =
      let q := if r.task.inputSlices then a.t.rows else out.t.rows
      let fr := s.takeFrames c r
      let ks := r.slicesOf c q fr.1
      fr.2.endVector c r (r.kernelReads a ks) out.t (ks.map (fun k => fr.2.kernelPiece r a.t out.t k))
        (2 * q * (1 + out.t.dim 0)) := by
  rw [doVectorKernel_eq hrun hop ha ho, he, if_neg Bool.false_ne_true, if_neg (fun h => hk h.1)]
  exact if_neg hk

end Kernel

/-! ### Gathers and scatters (R111, R112, R444) -/

/-- The entries of the indices that no blank frame makes absent. -/
def entriesPresent (b : Tensor) (frames : List (Option QueueItem)) : List Nat :=
  (List.range (b.dim 0)).filter (fun j => !rowAbsent frames (b.dim 0) j)

/-- Core `c`'s part of the entries. -/
def Running.entryShare (r : Running) (c : Nat) (b : Tensor) : Nat × Nat :=
  shareOf (b.dim 0) r.task.coreCount (r.coreIndex c)

/-- The indices among these entries that select no row of a table with this number of rows. -/
def State.strayIndices (s : State) (r : Running) (b : Tensor) (table : Nat) (entries : List Nat) : List Int :=
  ((entries.map (fun j => s.indexOf r b j)).filter (fun x => (rowOf table x.2).isNone)).map (·.1)

section Index

variable {s : State} {c : Nat} {r : Running} {a b out : Operand} (hrun : s.runningOn c = some r) (hop : r.task.op = 0x0009)
  {mode : Nat} (hm : r.task.par 0 1 = mode) (ha : r.slot 0 = some a) (hb : r.slot 1 = some b) (ho : r.slot 3 = some out)
  (f : State → Running → Tensor → Tensor → Tensor → List Nat → List Nat → List Piece × List Run)
include hrun hop hm ha hb ho

theorem State.indexTask_eq : s.indexTask c mode f =
    if r.usesEmpty then s.endTask c r 0 false
    else
      let fr := s.takeFrames c r
      let mine := r.slicesOf c (b.t.dim 0) fr.1
      let x := f fr.2 r a.t b.t out.t mine (entriesPresent b.t fr.1)
      (fr.2.rangeErrors c r (fr.2.strayIndices r b.t (if mode = 1 then a.t.dim 1 else out.t.dim 1) mine)).endVector c r
        [(a, x.2), (b, [⟨(r.entryShare c b.t).1 * b.t.type.bits, (r.entryShare c b.t).2⟩])] out.t x.1 (b.t.dim 0) := by
  rw [State.indexTask, hrun]
  dsimp only
  rw [if_neg (by simp [hop, hm]), ha, hb, ho]
  rfl

theorem State.indexTask_of_empty (he : r.usesEmpty = true) : s.indexTask c mode f = s.endTask c r 0 false :=
  (State.indexTask_eq hrun hop hm ha hb ho f).trans (if_pos he)

/-- The command of an entry's mode ends core `c`'s share with the pieces that its mode gives, once the indices outside the
table are reported. -/
theorem State.shareEnds_indexTask (hon : s.power.off = false) (he : r.usesEmpty = false) {i : Instr}
    (hi : exec i s = .next (s.whenOn (fun t => t.indexTask c mode f))) :
    let fr := s.takeFrames c r
    let mine := r.slicesOf c (b.t.dim 0) fr.1
    let x := f fr.2 r a.t b.t out.t mine (entriesPresent b.t fr.1)
    let v := fr.2.rangeErrors c r (fr.2.strayIndices r b.t (if mode = 1 then a.t.dim 1 else out.t.dim 1) mine)
    let ld := v.loadAll r [(a, x.2), (b, [⟨(r.entryShare c b.t).1 * b.t.type.bits, (r.entryShare c b.t).2⟩])]
    s.shareEnds c r ((x.1.map (fun y => out.t.pieceHits y [])).sum) ld.2 (ld.1.store r.p out.t x.1) (exec i s) := by
  intro fr mine x v ld
  rw [hi]
  exact State.shareEnds_endVector v c r _ _ _ (b.t.dim 0)
    (next_whenOn_of_eq hon ((State.indexTask_eq hrun hop hm ha hb ho f).trans (if_neg (by simp [he]))))

end Index

/-- Settles O32: a kernel by its code and the core's place in the set, a gather or scatter by its mode, which says which
operand is the table. -/
theorem vectorTasksWriteTheirShare : Obligations.VectorTasksWriteTheirShare := by
  refine ⟨fun s c r a out hon hrun hop ha ho => ?_, fun s c r a b out hon hrun hop ha hb ho => ?_⟩
  · intro q sh fr ks
    refine ⟨fun he => next_whenOn_of_eq hon (doVectorKernel_of_empty hrun hop ha ho he), fun he hk => ?_,
      fun he hk hc hd => ?_, fun he hk hc hd => next_whenOn_of_eq hon (doVectorKernel_of_waiting hrun hop ha ho he hk hc hd),
      fun he hk hc => ?_⟩
    · exact State.shareEnds_endVector _ _ _ _ _ _ _ (next_whenOn_of_eq hon (doVectorKernel_of_slices hrun hop ha ho he hk))
    · have habs := doVectorKernel_of_absMax hrun hop ha ho he hk fun _ => hd
      exact State.shareEnds_endVector _ _ _ _ _ _ _ (next_whenOn_of_eq hon (habs.trans (if_pos hc)))
    · have habs := doVectorKernel_of_absMax hrun hop ha ho he hk fun h => absurd h hc
      exact ⟨_, next_whenOn_of_eq hon (habs.trans (if_neg hc)), State.same_refl _ _⟩
  · intro fr u n sh all mine table row bad v ld hits
    refine ⟨fun he i hi => ?_, fun he hm => ?_, fun he hm => ?_, fun he hm => ?_⟩
    · rcases hi with ⟨hm, rfl⟩ | ⟨hm, rfl⟩ | ⟨hm, rfl⟩ <;>
        exact next_whenOn_of_eq hon (State.indexTask_of_empty hrun hop hm ha hb ho _ he)
    · have htable : table = a.t.dim 1 := if_pos hm
      clear_value table
      subst htable
      have hends := State.shareEnds_indexTask hrun hop hm ha hb ho _ hon he (i := .gather c) rfl
      exact hends
    · have htable : table = out.t.dim 1 := if_neg (by omega)
      clear_value table
      subst htable
      have hends := State.shareEnds_indexTask hrun hop hm ha hb ho _ hon he (i := .scatter c) rfl
      exact hends
    · have htable : table = out.t.dim 1 := if_neg (by omega)
      clear_value table
      subst htable
      have hends := State.shareEnds_indexTask hrun hop hm ha hb ho _ hon he (i := .scatterAdd c) rfl
      exact hends

end Sys2Proof.Machine
end

/-! # The numerics (05_numerics.md): the limits of the formats, their thresholds, and stochastic rounding -/

section

set_option Elab.async false

open Sys2Proof Sys2Proof.Machine

namespace Sys2Proof.Machine

/-! ### The limits of the formats (R123)

A code of the positive half is `ex * 2 ^ manBits + man`: each field is read back, the sign is clear, and so its value
follows from the fields. -/

section Code

variable {f : Fmt} {ex man : Nat} (hex : ex < 2 ^ f.expBits) (hman : man < 2 ^ f.manBits)
include hman

theorem Fmt.mantissa_of_code : bitsAt (ex * 2 ^ f.manBits + man) 0 f.manBits = man := by
  rw [bitsAt_eq, Nat.pow_zero, Nat.div_one, Nat.mul_add_mod_self_right, Nat.mod_eq_of_lt hman]

include hex

theorem Fmt.exponent_of_code : bitsAt (ex * 2 ^ f.manBits + man) f.manBits f.expBits = ex := by
  rw [bitsAt_eq, Nat.mul_comm, Nat.mul_add_div (Nat.two_pow_pos _), Nat.div_eq_of_lt hman, Nat.add_zero, Nat.mod_eq_of_lt hex]

theorem Fmt.sign_of_code : bitAt (ex * 2 ^ f.manBits + man) (f.manBits + f.expBits) = 0 := by
  have hlt : ex * 2 ^ f.manBits + man < 2 ^ (f.manBits + f.expBits) :=
    calc ex * 2 ^ f.manBits + man < (ex + 1) * 2 ^ f.manBits := by rw [Nat.succ_mul]; omega
      _ ≤ 2 ^ f.expBits * 2 ^ f.manBits := Nat.mul_le_mul_right _ hex
      _ = 2 ^ (f.manBits + f.expBits) := by rw [Nat.pow_add, Nat.mul_comm]
  rw [bitAt, Nat.shiftRight_eq_div_pow, Nat.div_eq_of_lt hlt]

/-- A code below those that the format keeps for its specials holds a normal number. -/
theorem Fmt.decode_normal (h0 : ex ≠ 0) (htop : ex ≤ f.topField)
    (hnan : f.specials = .nanOnly → man ≠ 2 ^ f.manBits - 1) :
    f.decode (ex * 2 ^ f.manBits + man) = .fin false (2 ^ f.manBits + man) (ex - f.bias - f.manBits) := by
  rw [Fmt.decode, mantissa_of_code hman, exponent_of_code hex hman, sign_of_code hex hman]
  cases hs : f.specials with
  | ieee =>
    have hne : ex ≠ 2 ^ f.expBits - 1 := by
      simp only [Fmt.topField, hs] at htop
      omega
    simp [hne, h0]
  | nanOnly => simp [hnan hs, h0]
  | none => simp [h0]

end Code

/-- The largest finite code of a format, its top exponent field with its top mantissa, holds its largest finite value. -/
theorem Fmt.decode_largest {f : Fmt} {code m : Nat} {e : Int} (h : 1 < f.expBits ∧ 0 < f.manBits ∧
    f.topField * 2 ^ f.manBits + f.topMan = code ∧ f.maxM = m ∧ f.maxE = e) : f.decode code = .fin false m e := by
  obtain ⟨hexp, hbits, rfl, rfl, rfl⟩ := h
  have hx : 2 ^ 2 ≤ 2 ^ f.expBits := Nat.pow_le_pow_right (by decide) hexp
  have hm : 2 ^ 1 ≤ 2 ^ f.manBits := Nat.pow_le_pow_right (by decide) hbits
  have htop : f.topField < 2 ^ f.expBits ∧ f.topField ≠ 0 := by unfold Fmt.topField; split <;> omega
  have hman : f.topMan < 2 ^ f.manBits := by unfold Fmt.topMan; split <;> omega
  refine decode_normal htop.1 hman htop.2 (Nat.le_refl _) fun hs => ?_
  simp only [Fmt.topMan, hs]
  omega

/-- The code 1 of a format holds its smallest subnormal. -/
theorem Fmt.decode_one (f : Fmt) (hexp : 0 < f.expBits) (hbits : 0 < f.manBits) :
    f.decode 1 = .fin false 1 (1 - (f.bias : Int) - f.manBits) := by
  have hx : 2 ^ 1 ≤ 2 ^ f.expBits := Nat.pow_le_pow_right (by decide) hexp
  have hm : 1 < 2 ^ f.manBits := Nat.one_lt_two_pow (by omega)
  have hman : bitsAt 1 0 f.manBits = 1 := by simpa using mantissa_of_code (f := f) (ex := 0) hm
  have hex : bitsAt 1 f.manBits f.expBits = 0 := by simpa using exponent_of_code (ex := 0) (by omega) hm
  have hsign : bitAt 1 (f.manBits + f.expBits) = 0 := by simpa using sign_of_code (ex := 0) (by omega) hm
  have hne : 0 ≠ 2 ^ f.expBits - 1 := by omega
  rw [Fmt.decode, hman, hex, hsign]
  cases f.specials <;> simp [hne]

/-! ### Stochastic rounding (R132) -/

/-- The sum of a draw and the magnitude bits [30:0] of a finite value, cut to its bits [30:16], goes under the sign bit. -/
theorem srBf16_fin (n : Bool) (m : Nat) (e : Int) {r : Nat} (hr : r < 2 ^ 16) :
    srBf16 (.fin n m e) r = Fmt.bf16.decode ((Fp.fin n m e).bits32 / 2 ^ 31 * 2 ^ 15 +
      ((Fp.fin n m e).bits32 % 2 ^ 31 + r) / 2 ^ 16 % 2 ^ 15) := by
  simp only [srBf16, bitsAt_eq, Nat.mod_eq_of_lt hr]

/-- Settles O9: the table of R123 is the largest and the smallest code of each format, whose values hold for any format; a
draw of 16 bits is added as it is. -/
theorem formatsHaveTheirLimits : Obligations.FormatsHaveTheirLimits := by
  refine ⟨?largest, ?smallest, ?specials, ?thresholds, fun _ _ => ⟨rfl, rfl⟩, fun n m e _ => srBf16_fin n m e⟩
  case largest => and_intros <;> exact Fmt.decode_largest (by decide)
  case smallest => and_intros <;> exact Fmt.decode_one _ (by decide) (by decide)
  case specials => decide
  case thresholds => decide

end Sys2Proof.Machine
end

/-! # Backward passes and tiling (06_backward_tiling.md): tiling records, the shape cache and the tiling search -/

section

set_option Elab.async false

open Sys2Proof Sys2Proof.Machine

namespace Sys2Proof.Machine

/-! ### What a part of the state determines -/

theorem State.tiling_modCore (s : State) (c d : Nat) {f : Core → Core} (h : ∀ k, (f k).tiling = k.tiling) :
    ((s.modCore c f).core d).tiling = (s.core d).tiling := by
  rw [State.core, State.core, State.modCore, List.getElem?_modify]
  by_cases hcd : c = d
  · cases hk : s.cores[d]? <;> simp [hcd, h]
  · simp [hcd]

theorem State.core_count (s : State) (lo n c : Nat) : (s.count lo n).core c = s.core c :=
  State.core_congr c (State.count_cores ..)

theorem State.cached_congr {s t : State} (d : Nat) (k : ShapeKey) (h : t.shapes = s.shapes) :
    t.cached d k = s.cached d k := by
  rw [State.cached, State.cached, State.cache, State.cache, h]

theorem State.controlOf_congr {s t : State} (c : Nat) (h : t.fitted = s.fitted) : t.controlOf c = s.controlOf c := by
  rw [State.controlOf, State.controlOf, h]

/-! ### A late record (R171) -/

section Late

variable (s : State) (c task ns : Nat)

theorem State.same_lateRecord : s.same (countFields ++ [.cores]) (s.lateRecord c task ns) :=
  State.lateRecord_keeps rfl (State.same_refl _ s)

/-- A record on time changes no core; a late one marks its core as reported, and changes nothing else of any. -/
theorem State.cores_lateRecord : (s.lateRecord c task ns).cores =
    if ns ≤ 2000 then s.cores else (s.modCore c (fun k => { k with lateRaised := true })).cores := by
  unfold State.lateRecord
  by_cases hns : ns ≤ 2000
  · rw [if_pos hns, if_pos hns]
  · rw [if_neg hns, if_neg hns]
    by_cases hraised : (s.core c).lateRaised <;> simp [hraised]

theorem State.tiling_lateRecord : ((s.lateRecord c task ns).core c).tiling = (s.core c).tiling := by
  have hcores := s.cores_lateRecord c task ns
  split at hcores
  · rw [State.core_congr c hcores]
  · rw [State.core_congr c hcores]
    exact s.tiling_modCore c c (fun _ => rfl)

theorem State.exists_core_lateRecord {k : Core} (h : s.cores[c]? = some k) :
    ∃ k', (s.lateRecord c task ns).cores[c]? = some k' := by
  rw [State.cores_lateRecord]
  split
  · exact ⟨k, h⟩
  · simp [State.modCore, h]

end Late

/-! ### A record reaches its core (R163, R164, R172) -/

section Give

variable (s : State) (c : Nat) (tl : Tiling)

theorem State.same_showRecord : s.same [.regs] (s.showRecord c tl) :=
  State.showRecord_keeps rfl (State.same_refl _ s)

theorem State.same_giveRecord (early : Option (Nat × Nat)) :
    s.same (countFields ++ [.cores]) (s.giveRecord c early tl) :=
  State.giveRecord_keeps rfl (State.same_refl _ s)

/-- The record of the running task is the core's tiling from now on. -/
theorem State.core_giveRecord_running : (s.giveRecord c none tl).core c =
    (s.modCore c (fun k => { k with tiling := some tl, asked := false })).core c :=
  (State.core_count ..).trans (State.core_congr c ((State.same_showRecord _ c tl).on .cores rfl))

/-- The record of the next task is kept under its key and rung, in the place of an older one under its key. -/
theorem State.core_giveRecord_early (key rung : Nat) : (s.giveRecord c (some (key, rung)) tl).core c =
    (s.modCore c (fun k =>
      { k with early := k.early.filter (fun (x : Nat × Nat × Tiling) => x.1 != key) ++ [(key, rung, tl)] })).core c :=
  State.core_count ..

theorem State.tiling_giveRecord_running {k : Core} (h : s.cores[c]? = some k) :
    ((s.giveRecord c none tl).core c).tiling = some tl := by
  rw [State.core_giveRecord_running, State.core_modCore_self _ h]

theorem State.tiling_giveRecord_early (key rung : Nat) :
    ((s.giveRecord c (some (key, rung)) tl).core c).tiling = (s.core c).tiling := by
  rw [State.core_giveRecord_early]
  exact s.tiling_modCore c c (fun _ => rfl)

theorem State.mem_early_giveRecord (key rung : Nat) {k : Core} (h : s.cores[c]? = some k) :
    (key, rung, tl) ∈ ((s.giveRecord c (some (key, rung)) tl).core c).early := by
  rw [State.core_giveRecord_early, State.core_modCore_self _ h]
  exact List.mem_append_right _ (List.mem_singleton.mpr rfl)

theorem State.counter_giveRecord (early : Option (Nat × Nat)) {x : Nat} (hx : x ≠ Ctr.coreTilingsCount c) :
    (s.giveRecord c early tl).counter x = s.counter x := by
  unfold State.giveRecord
  rw [State.counter_count, if_neg hx]
  cases early with
  | none => exact State.counter_congr x ((State.same_showRecord _ c tl).on .counters rfl)
  | some _ => rfl

end Give

/-! ### A record from the shape cache, or the reference tiling (R163, R166, R167) -/

/-- A shape joins the searches of a control core, once. -/
def State.joinSearch (s : State) (cc : Nat) (k : ShapeKey) : State :=
  { s with searches := s.searches.modify cc (fun l => if l.contains k then l else l ++ [k]) }

theorem State.mem_searches_joinSearch {s : State} {cc : Nat} (k : ShapeKey) {l : List ShapeKey}
    (h : s.searches[cc]? = some l) : k ∈ ((s.joinSearch cc k).searches[cc]?).getD [] := by
  by_cases hk : k ∈ l <;> simp [State.joinSearch, h, hk]

theorem State.tilingRequest_of_asked {s : State} {c : Nat} {r : Running} (hrun : s.runningOn c = some r)
    (hask : (s.core c).asked = true) (hneeds : r.needsRecord = true) : s.tilingRequest c = some (r, none) := by
  rw [State.tilingRequest, hrun]
  simp [hask, hneeds]

theorem doTilingRecord_sameMem (s : State) (c ns : Nat) : s.sameMem (doTilingRecord c ns s) :=
  State.sameMem_of_same (L := countFields ++ [.cores, .shapes, .searches])
    (doTilingRecord_keeps rfl (State.same_refl _ s)) rfl

section Record

variable {s : State} {c : Nat} {r : Running} {early : Option (Nat × Nat)} (ns : Nat)
  (hreq : s.tilingRequest c = some (r, early))
include hreq

theorem doTilingRecord_of_cached {tl : Tiling} (hc : s.cached (s.fitted.dieOf c) (s.shapeKey c r) = some tl) :
    doTilingRecord c ns s = (((s.lateRecord c r.t ns).touchShape (s.fitted.dieOf c) (s.shapeKey c r)).giveRecord c early
      tl).count (Ctr.coreCacheHitCount c) := by
  have hlate := (State.cached_congr _ _ ((s.same_lateRecord c r.t ns).on .shapes rfl)).trans hc
  rw [doTilingRecord, hreq]
  dsimp only
  rw [hlate]

theorem doTilingRecord_of_not_cached (hc : s.cached (s.fitted.dieOf c) (s.shapeKey c r) = none) :
    doTilingRecord c ns s = (((s.lateRecord c r.t ns).joinSearch (s.controlOf c) (s.shapeKey c r)).giveRecord c early
      (s.shapeKey c r).shape.referenceTiling).count (Ctr.coreReferenceUsedCount c) := by
  have hsame := s.same_lateRecord c r.t ns
  have hlate := (State.cached_congr _ _ (hsame.on .shapes rfl)).trans hc
  rw [doTilingRecord, hreq]
  dsimp only
  rw [hlate, State.controlOf_congr c (hsame.on .fitted rfl)]
  rfl

end Record

theorem Ctr.coreCacheHitCount_ne (c : Nat) : Ctr.coreCacheHitCount c ≠ Ctr.coreTilingsCount c := by
  simp only [Ctr.coreCacheHitCount, Ctr.coreTilingsCount]
  omega

theorem Ctr.coreReferenceUsedCount_ne (c : Nat) : Ctr.coreReferenceUsedCount c ≠ Ctr.coreTilingsCount c := by
  simp only [Ctr.coreReferenceUsedCount, Ctr.coreTilingsCount]
  omega

/-- What a record for the running task does, where `u` is the state in which it is given: the state of the late record
with a change of the cache or of the searches. -/
theorem giveRecord_running_spec {s u v : State} {c x task ns : Nat} {tl : Tiling}
    (hv : v = (u.giveRecord c none tl).count x) (hx : x ≠ Ctr.coreTilingsCount c)
    (hcores : u.cores = (s.lateRecord c task ns).cores) (hcounters : u.counters = (s.lateRecord c task ns).counters) :
    (∀ k, s.cores[c]? = some k → (v.core c).tiling = some tl) ∧
    v.counter x = min ((s.lateRecord c task ns).counter x + 1) counterMax ∧
    v.searches = u.searches ∧ v.shapes = u.shapes := by
  subst hv
  have hgive := u.same_giveRecord c tl none
  refine ⟨fun k hk => ?_, ?_, ?_, ?_⟩
  · obtain ⟨k', hk'⟩ := s.exists_core_lateRecord c task ns hk
    rw [State.core_count]
    exact u.tiling_giveRecord_running c tl (by rw [hcores, hk'])
  · rw [State.counter_count, if_pos rfl, State.counter_giveRecord _ _ _ _ hx, State.counter_congr x hcounters]
  · exact (State.count_searches ..).trans (hgive.on .searches rfl)
  · exact (State.count_shapes ..).trans (hgive.on .shapes rfl)

/-! ### A search ends (R165, R167, R169) -/

/-- While no core of the control core waits for a record, its oldest search ends by the tiling found. -/
theorem doShapeSearchDone_eq {s : State} {c : Nat} {k : ShapeKey} {rest : List ShapeKey} (tl : Tiling)
    (hc : c < s.fitted.ccc) (hs : s.searches[s.controlOf c]? = some (k :: rest))
    (hidle : ∀ d, d < s.fitted.ccc → s.controlOf d = s.controlOf c → (s.core d).asked = false) :
    doShapeSearchDone c tl s =
      let u : State := { s with searches := s.searches.set (s.controlOf c) rest }
      if ({ tl with reference := true } : Tiling) = k.shape.referenceTiling then
        u.enterShape (s.fitted.dieOf c) ⟨k, k.shape.referenceTiling⟩
      else if k.accepts s.fitted.coresPerDie (s.get (Reg.tickClockFloor_floor100mhz (s.corePart c))) tl then
        u.enterShape (s.fitted.dieOf c) ⟨k, { tl with reference := false }⟩
      else u := by
  have hwaits : (List.range s.fitted.ccc).any (fun d => s.controlOf d == s.controlOf c && (s.core d).asked &&
      ((s.runningOn d).map Running.needsRecord).getD false) = false := by
    rw [List.any_eq_false]
    intro d hd
    by_cases hcc : s.controlOf d = s.controlOf c
    · simp [hidle d (List.mem_range.mp hd) hcc]
    · simp [hcc]
  have hgo : ¬(false || decide (s.fitted.ccc ≤ c)) = true := by simp [hc]
  rw [doShapeSearchDone, hs, hwaits, Option.getD_some]
  exact if_neg hgo

/-- Settles O33: a record comes from the cache or is the reference tiling, and goes to the task that asked or is kept for
the next; an ended search enters its shape by the tiling found. -/
theorem tilingsAreSearchedAndCached : Obligations.TilingsAreSearchedAndCached := by
  refine ⟨⟨fun s c ns r hon hrun hask hneeds => ⟨fun tl hc => ?cached, fun hc => ?searched⟩,
    fun s c ns key rung r tl hon hreq hc => ?early⟩, fun s c tl k rest hon hlt hs hidle => ?ended⟩
  case cached =>
    have heq := doTilingRecord_of_cached ns (State.tilingRequest_of_asked hrun hask hneeds) hc
    have hmem := doTilingRecord_sameMem s c ns
    generalize hv : doTilingRecord c ns s = v at heq hmem
    obtain ⟨htiling, hcounter, hsearches, -⟩ := giveRecord_running_spec heq (Ctr.coreCacheHitCount_ne c) rfl rfl
    exact ⟨_, next_whenOn_of_eq hon hv, htiling, hcounter,
      hsearches.trans ((s.same_lateRecord c r.t ns).on .searches rfl), hmem⟩
  case searched =>
    have heq := doTilingRecord_of_not_cached ns (State.tilingRequest_of_asked hrun hask hneeds) hc
    have hmem := doTilingRecord_sameMem s c ns
    have hlate := s.same_lateRecord c r.t ns
    generalize hv : doTilingRecord c ns s = v at heq hmem
    obtain ⟨htiling, hcounter, hsearches, hshapes⟩ :=
      giveRecord_running_spec heq (Ctr.coreReferenceUsedCount_ne c) rfl rfl
    have hjoins : ∀ l, s.searches[s.controlOf c]? = some l →
        s.shapeKey c r ∈ (v.searches[s.controlOf c]?).getD [] := by
      intro l hl
      rw [hsearches]
      exact State.mem_searches_joinSearch _ (by rw [hlate.on .searches rfl, hl])
    exact ⟨_, next_whenOn_of_eq hon hv, htiling, hcounter, hjoins, hshapes.trans (hlate.on .shapes rfl), hmem⟩
  case early =>
    have heq := doTilingRecord_of_cached ns hreq hc
    have hmem := doTilingRecord_sameMem s c ns
    generalize hv : doTilingRecord c ns s = v at heq hmem
    have hkept : ∀ k, s.cores[c]? = some k → (key, rung, tl) ∈ (v.core c).early := by
      intro k hk
      obtain ⟨k', hk'⟩ := s.exists_core_lateRecord c r.t ns hk
      rw [heq, State.core_count]
      exact State.mem_early_giveRecord _ c tl key rung hk'
    have htiling : (v.core c).tiling = (s.core c).tiling := by
      rw [heq, State.core_count, State.tiling_giveRecord_early]
      exact s.tiling_lateRecord c r.t ns
    exact ⟨_, next_whenOn_of_eq hon hv, hkept, htiling, hmem⟩
  case ended =>
    have heq := doShapeSearchDone_eq tl hlt hs hidle
    refine ⟨fun href => ?_, fun href hacc => ?_, fun href hacc => ?_⟩
    · exact next_whenOn_of_eq hon (heq.trans (if_pos href))
    · exact next_whenOn_of_eq hon (heq.trans ((if_neg href).trans (if_pos hacc)))
    · exact next_whenOn_of_eq hon (heq.trans ((if_neg href).trans (if_neg (Bool.eq_false_iff.mp hacc))))

end Sys2Proof.Machine
end

/-! # Attention (07_attention.md): the shares of attention tasks, and the context table -/

section

set_option Elab.async false

open Sys2Proof Sys2Proof.Machine

namespace Sys2Proof.Machine

/-! ### Attention forward (R175 to R185, R199) -/

/-- The log-sum-exp of each row, stored where the task asks for it (R181). -/
def State.storeLse (s : State) (r : Running) (rows : List AttnRow) : State :=
  match if r.task.attn.writeLse then r.operand r.task.attn.lse else none with
  | some o => s.store r.p o.t (rows.map (fun (x : AttnRow) => ⟨o.t.bitOffset [x.2.1, x.1.h, x.1.b], [x.2.2.2]⟩))
  | none => s

/-- What a share of attention forward leaves beside its stored rows: the counts of its blocks, errors and empty rows, and
the open values its sums took. -/
def State.bookForward (s : State) (c : Nat) (r : Running) (cells : List AttnCell) (rows : List AttnRow) : State :=
  ((s.attnCounts c r cells).count (Ctr.coreEmptyRowCount c)
    (rows.filter (fun (x : AttnRow) => (x.1.x.keysOf x.2.1).all List.isEmpty)).length).useFree
    (cells.length * 128 * r.task.attn.sumsMax cells)

theorem State.bookForward_same (s : State) (c : Nat) (r : Running) (cells : List AttnCell) (rows : List AttnRow) :
    s.same shareFields (s.bookForward c r cells rows) :=
  State.useFree_keeps rfl (State.count_keeps rfl (State.attnCounts_keeps rfl (State.same_refl _ s)))

section Forward

variable {s : State} {c : Nat} {r : Running} {q out : Operand} (hrun : s.runningOn c = some r) (hop : r.task.op = 0x0003)
  (hq : r.slot 0 = some q) (ho : r.slot 3 = some out)
include hrun hop hq ho

theorem doAttentionForward_of_idle (h : r.usesEmpty = true ∨ r.task.attn.idle r.task.coreCount (r.coreIndex c) = true) :
    doAttentionForward c s = (s.takeFrames c r).2.endTask c r 0 false := by
  rw [doAttentionForward, hrun]
  dsimp only
  rw [if_neg (by simp [hop]), hq, ho]
  exact if_pos (by simpa using h)

theorem doAttentionForward_of_cells (he : r.usesEmpty = false)
    (hidle : r.task.attn.idle r.task.coreCount (r.coreIndex c) = false) :
    let a := r.task.attn
    let fr := (s.takeFrames c r).2
    let ap := fr.loadAll r (r.appendReads a c)
    let u := ap.1.appendKv c r a
    let cells := u.attnCells r a (r.coreIndex c)
    let rows := u.forwardRows r a (s.effRung r.task) cells
    let ld := u.loadAll r (r.forwardReads a cells)
    let ps := rows.map (fun (x : AttnRow) => markedRow out.t a.d x.2.1 x.1.h x.1.b 0 x.2.2.1)
    doAttentionForward c s =
      (((ld.1.store r.p out.t (ps.map (·.1))).storeLse r rows).bookForward c r cells rows).endTask c r
        ((ps.map (fun (x : Marked) => out.t.pieceHits x.1 x.2)).sum) (ap.2 || ld.2 || u.badPages r a cells) := by
  rw [doAttentionForward, hrun]
  dsimp only
  rw [if_neg (by simp [hop]), hq, ho]
  exact if_neg (by simp [he, hidle])

end Forward

/-! ### Attention backward (R186 to R189) -/

/-- The groups of a share: each batch element and KV head that its cells name, once (R187). -/
def Attn.groupsOf (a : Attn) (cells : List AttnCell) : List (Nat × Nat) :=
  (cells.map (fun k => (k.b, k.h / a.group))).eraseDups

/-- The open values that one group of a share takes. -/
def Attn.groupSums (a : Attn) : Nat :=
  a.group * (2 * (a.nq + 1) * (a.nk + 1) + a.nq * (a.d + 2) * (ceilDiv a.nk 128 + 1)) + a.d

/-- What a share of attention backward leaves beside its stored rows: the counts of its blocks and errors, and the open
values its sums took. -/
def State.bookBackward (s : State) (c : Nat) (r : Running) (cells : List AttnCell) : State :=
  (s.attnCounts c r cells).useFree ((r.task.attn.groupsOf cells).length * r.task.attn.groupSums)

theorem State.bookBackward_same (s : State) (c : Nat) (r : Running) (cells : List AttnCell) :
    s.same shareFields (s.bookBackward c r cells) :=
  State.useFree_keeps rfl (State.attnCounts_keeps rfl (State.same_refl _ s))

section Backward

variable {s : State} {c : Nat} {r : Running} {q out dk dv scr : Operand} (hrun : s.runningOn c = some r)
  (hop : r.task.op = 0x0004) (hq : r.slot 0 = some q) (ho : r.slot 3 = some out)
  (hdk : r.operand r.task.attn.dK = some dk) (hdv : r.operand r.task.attn.dV = some dv)
  (hscr : r.operand r.task.attn.scratch = some scr)
include hrun hop hq ho hdk hdv hscr

theorem doAttentionBackward_of_idle (h : r.usesEmpty = true ∨ r.task.attn.idle r.task.coreCount (r.coreIndex c) = true) :
    doAttentionBackward c s = (s.takeFrames c r).2.endTask c r 0 false := by
  rw [doAttentionBackward, hrun]
  dsimp only
  rw [if_neg (by simp [hop]), hq, ho, hdk, hdv, hscr]
  exact if_pos (by simpa using h)

theorem doAttentionBackward_of_cells (he : r.usesEmpty = false)
    (hidle : r.task.attn.idle r.task.coreCount (r.coreIndex c) = false) :
    let a := r.task.attn
    let u := (s.takeFrames c r).2
    let cells := u.attnCells r a (r.coreIndex c)
    let outs := (a.groupsOf cells).zipIdx.map (fun x => u.backHead r a (s.effRung r.task) x.1.1 x.1.2
      (u.freeCtr + x.2 * a.groupSums) (u.gradShift r.task a.srcLayer) cells out.t dk.t dv.t scr.t)
    let ld := u.loadAll r (r.backwardReads a cells)
    let x1 := (ld.1.store r.p scr.t (outs.flatMap (·.scratch))).storeGrad r out.t (outs.flatMap (·.dQ))
    let x2 := x1.2.storeGrad r dk.t (outs.flatMap (·.dK))
    let x3 := x2.2.storeGrad r dv.t (outs.flatMap (·.dV))
    doAttentionBackward c s = (x3.2.bookBackward c r cells).endTask c r (x1.1 + x2.1 + x3.1) ld.2 := by
  rw [doAttentionBackward, hrun]
  dsimp only
  rw [if_neg (by simp [hop]), hq, ho, hdk, hdv, hscr]
  exact if_neg (by simp [he, hidle])

end Backward

/-- Settles O34: either task ends at once with no cell or an empty tensor, and otherwise stores its rows, whose
bookkeeping touches no tensor. -/
theorem attentionWritesItsShare : Obligations.AttentionWritesItsShare := by
  refine ⟨fun s c r q out hon hrun hop hq ho => ⟨fun h => ?_, fun he hidle => ?_⟩,
    fun s c r q out dk dv scr hon hrun hop hq ho hdk hdv hscr => ⟨fun h => ?_, fun he hidle => ?_⟩⟩
  · exact next_whenOn_of_eq hon (doAttentionForward_of_idle hrun hop hq ho h)
  · exact ⟨_, next_whenOn_of_eq hon (doAttentionForward_of_cells hrun hop hq ho he hidle), State.bookForward_same ..⟩
  · exact next_whenOn_of_eq hon (doAttentionBackward_of_idle hrun hop hq ho hdk hdv hscr h)
  · exact ⟨_, next_whenOn_of_eq hon (doAttentionBackward_of_cells hrun hop hq ho hdk hdv hscr he hidle),
      State.bookBackward_same ..⟩

/-! ### The context table and the page counts after a change (R191, R198) -/

theorem State.ctx_congr {s t : State} (k : Nat) (h : t.contexts = s.contexts) : t.ctx k = s.ctx k := by
  rw [State.ctx, State.ctx, h]

theorem State.ctx_setCtx (s : State) (c : Nat) (x : Ctx) (k : Nat) :
    (s.setCtx c x).ctx k = if k = c then x else s.ctx k := readOr_writeOr ..

theorem State.pageRefs_congr {s t : State} (page : Nat) (h : t.pages = s.pages) : t.pageRefs page = s.pageRefs page := by
  rw [State.pageRefs, State.pageRefs, h]

theorem State.pageRefs_setPageRefs (s : State) (n v page : Nat) :
    (s.setPageRefs n v).pageRefs page = if page = n then v else s.pageRefs page := readOr_writeOr ..

theorem State.pageRefs_dropPage (s : State) (n page : Nat) :
    (s.dropPage n).pageRefs page = s.pageRefs page - if page = n then 1 else 0 := by
  have hset : (s.setPageRefs n (s.pageRefs n - 1)).pageRefs page = s.pageRefs page - if page = n then 1 else 0 := by
    rw [State.pageRefs_setPageRefs]
    by_cases h : page = n <;> simp [h]
  unfold State.dropPage
  dsimp only
  split
  · rw [State.pageRefs_congr page (State.count_pages ..), hset]
  · exact hset

theorem State.reg_dropPage (s : State) (n a : Nat) (h : isTickStatus a = false) : (s.dropPage n).reg a = s.reg a := by
  unfold State.dropPage
  dsimp only
  split
  · exact State.reg_count _ _ _ _ h
  · rfl

/-- Page `n` gains a reference. -/
def State.sharePage (s : State) (n : Nat) : State := s.setPageRefs n (s.pageRefs n + 1)

theorem State.pageRefs_sharePage (s : State) (n page : Nat) :
    (s.sharePage n).pageRefs page = s.pageRefs page + if page = n then 1 else 0 := by
  rw [State.sharePage, State.pageRefs_setPageRefs]
  by_cases h : page = n <;> simp [h]

/-- The entries of a page directory that name this page. -/
def entriesOn (l : List (Nat × Nat)) (page : Nat) : List (Nat × Nat) := l.filter (fun e => e.2 == page)

theorem length_entriesOn_cons (e : Nat × Nat) (l : List (Nat × Nat)) (page : Nat) :
    (entriesOn (e :: l) page).length = (if page = e.2 then 1 else 0) + (entriesOn l page).length := by
  rw [entriesOn, List.filter_cons]
  by_cases h : page = e.2
  · simp [h, entriesOn, Nat.add_comm]
  · simp [h, Ne.symm h, entriesOn]

theorem State.pageRefs_foldl_sharePage (l : List (Nat × Nat)) (s : State) (page : Nat) :
    (l.foldl (fun s e => s.sharePage e.2) s).pageRefs page = s.pageRefs page + (entriesOn l page).length := by
  induction l generalizing s with
  | nil => rfl
  | cons e l ih =>
    rw [List.foldl_cons, ih, State.pageRefs_sharePage, length_entriesOn_cons]
    omega

theorem State.pageRefs_foldl_dropPage (l : List (Nat × Nat)) (s : State) (page : Nat) :
    (l.foldl (fun s e => s.dropPage e.2) s).pageRefs page = s.pageRefs page - (entriesOn l page).length := by
  induction l generalizing s with
  | nil => rfl
  | cons e l ih =>
    rw [List.foldl_cons, ih, State.pageRefs_dropPage, length_entriesOn_cons]
    omega

theorem State.contexts_foldl_sharePage (l : List (Nat × Nat)) (s : State) :
    (l.foldl (fun s e => s.sharePage e.2) s).contexts = s.contexts :=
  (foldl_keeps (L := [.pages]) _ l (fun _ _ h => State.setPageRefs_keeps rfl h) (State.same_refl _ s)).on .contexts rfl

theorem State.contexts_foldl_dropPage (l : List (Nat × Nat)) (s : State) :
    (l.foldl (fun s e => s.dropPage e.2) s).contexts = s.contexts :=
  (foldl_keeps (L := countFields ++ [.pages]) _ l (fun _ _ h => State.dropPage_keeps rfl h) (State.same_refl _ s)).on
    .contexts rfl

theorem State.reg_foldl_dropPage (l : List (Nat × Nat)) (s : State) (a : Nat) (h : isTickStatus a = false) :
    (l.foldl (fun s e => s.dropPage e.2) s).reg a = s.reg a := by
  induction l generalizing s with
  | nil => rfl
  | cons e l ih => rw [List.foldl_cons, ih, State.reg_dropPage _ _ _ h]

/-! ### The entries of a fork (R202) -/

theorem mem_insertBy {α : Type} (rank : α → Nat) (a x : α) (l : List α) : x ∈ insertBy rank a l ↔ x = a ∨ x ∈ l := by
  induction l with
  | nil => simp [insertBy]
  | cons b l ih =>
    rw [insertBy]
    split
    · simp
    · simp [ih, or_left_comm]

theorem mem_sortBy {α : Type} (rank : α → Nat) (l : List α) (x : α) : x ∈ sortBy rank l ↔ x ∈ l := by
  have h : ∀ acc : List α, x ∈ l.foldl (fun acc a => insertBy rank a acc) acc ↔ x ∈ acc ∨ x ∈ l := by
    induction l with
    | nil => simp
    | cons b l ih =>
      intro acc
      rw [List.foldl_cons, ih, mem_insertBy, List.mem_cons, or_comm (a := x = b), or_assoc]
  exact (h []).trans (or_iff_right List.not_mem_nil)

/-- An entry of a position that the fork keeps is copied, at the place of its layer and page in the new directory. -/
theorem mem_forkEntries {parent : Ctx} {maxLen kept layer k page : Nat} (hk : k < parent.maxLen / 256)
    (hkept : 256 * k < kept) (h : (layer * (parent.maxLen / 256) + k, page) ∈ parent.directory) :
    (layer * (maxLen / 256) + k, page) ∈ forkEntries parent maxLen kept := by
  have hper : max 1 (parent.maxLen / 256) = parent.maxLen / 256 := by omega
  have hdiv : (layer * (parent.maxLen / 256) + k) / (parent.maxLen / 256) = layer := by
    rw [Nat.add_comm, Nat.add_mul_div_right _ _ (by omega), Nat.div_eq_of_lt hk, Nat.zero_add]
  have hmod : (layer * (parent.maxLen / 256) + k) % (parent.maxLen / 256) = k := by
    rw [Nat.add_comm, Nat.add_mul_mod_self_right, Nat.mod_eq_of_lt hk]
  refine List.mem_filterMap.mpr ⟨_, h, ?_⟩
  simp [hper, hdiv, hmod, hkept]

/-! ### What a fork and a close leave (R192, R202) -/

section Fork

variable (s : State) (p c parent : Nat) (x : CtxRange) (i maxLen kept tag : Nat)

/-- The page directory of a context forked from `parent`. -/
def State.forkDirectory : List (Nat × Nat) := sortBy (·.1) (forkEntries (s.ctx parent) maxLen kept)

/-- The pages of a fork gain their references, before either context changes. -/
def State.sharePages : State :=
  (s.forkDirectory parent maxLen kept).foldl (fun s e => s.sharePage e.2) s.directoryPlace.2.stampUsed

/-- The reservation that the fork's parent is credited with. -/
def CtxRange.credit : Nat := x.kvLayers * partialPage kept

/-- The context that a fork opens. -/
def State.forked : Ctx :=
  ⟨.opened, 2, x.die, i, kept, maxLen, x.kvLayers, parent,
    reservation x.kvLayers maxLen kept true - x.credit kept, kept, s.stampNow 1, tag, p, s.directoryPlace.1,
    s.forkDirectory parent maxLen kept⟩

theorem State.forkCtx_eq :
    s.forkCtx p c parent x i maxLen kept tag =
      ((s.sharePages parent maxLen kept).setCtx parent
        { s.ctx parent with reserved := (s.ctx parent).reserved + x.credit kept }).setCtx c
        (s.forked p parent x i maxLen kept tag) := rfl

theorem State.ctx_sharePages (k : Nat) : (s.sharePages parent maxLen kept).ctx k = s.ctx k :=
  State.ctx_congr k ((State.contexts_foldl_sharePage ..).trans (State.stampUsed_contexts _))

theorem State.ctx_forkCtx (k : Nat) :
    (s.forkCtx p c parent x i maxLen kept tag).ctx k =
      if k = c then s.forked p parent x i maxLen kept tag
      else if k = parent then { s.ctx parent with reserved := (s.ctx parent).reserved + x.credit kept }
      else s.ctx k := by
  rw [State.forkCtx_eq, State.ctx_setCtx, State.ctx_setCtx, State.ctx_sharePages]

theorem State.pageRefs_forkCtx (page : Nat) :
    (s.forkCtx p c parent x i maxLen kept tag).pageRefs page =
      s.pageRefs page + (entriesOn (s.forkDirectory parent maxLen kept) page).length :=
  (State.pageRefs_foldl_sharePage ..).trans
    (congrArg (· + _) (State.pageRefs_congr page (State.stampUsed_pages s.directoryPlace.2)))

end Fork

section Close

variable (s : State) (c : Nat)

/-- The pages of a context lose its references. -/
def State.dropPages : State := (s.ctx c).directory.foldl (fun s e => s.dropPage e.2) s

theorem State.closeCtx_eq :
    s.closeCtx c = ((s.dropPages c).setCtx c Ctx.init).raise Ev.contextClosed ((s.dropPages c).control (s.ctx c).partition)
      { object := c, value := ((s.ctx c).directory.filter (fun e => s.pageRefs e.2 == 1)).length } := rfl

theorem State.ctx_closeCtx (k : Nat) : (s.closeCtx c).ctx k = if k = c then Ctx.init else s.ctx k := by
  have hdrop : (s.dropPages c).ctx k = s.ctx k := State.ctx_congr k (State.contexts_foldl_dropPage ..)
  rw [State.closeCtx_eq, State.ctx_congr k (State.raise_contexts ..), State.ctx_setCtx, hdrop]

theorem State.pageRefs_closeCtx (page : Nat) :
    (s.closeCtx c).pageRefs page = s.pageRefs page - (entriesOn (s.ctx c).directory page).length := by
  rw [State.closeCtx_eq, State.pageRefs_congr page (State.raise_pages ..)]
  exact State.pageRefs_foldl_dropPage ..

/-- The dies of a partition stand in a register that no drop of a page touches. -/
theorem State.control_dropPages (p : Nat) : (s.dropPages c).control p = s.control p := by
  have hdie : (s.dropPages c).diePart = s.diePart := by
    funext d
    rw [State.diePart, State.diePart, State.dropPages, State.reg_foldl_dropPage _ _ _ (by decide)]
  rw [State.control, State.control, State.firstDie, State.firstDie, State.diesOf, State.diesOf, hdie]

theorem State.pathHas_closeCtx :
    (s.closeCtx c).pathHas Ev.contextClosed (s.control (s.ctx c).partition)
      { object := c, value := ((s.ctx c).directory.filter (fun e => s.pageRefs e.2 == 1)).length } := by
  rw [State.closeCtx_eq, State.control_dropPages]
  exact State.pathHas_raise ..

end Close

/-! ### CONTEXT descriptors (R192, R195, R196) -/

theorem State.requestCtx_of_found {s : State} {ring : Nat} {f : Nat → Bool} {d : Started}
    (hd : s.findDesc ring 0x10 (fun d => f (d.opd 16 1)) = some d) (hstray : d.ctxStray = none) :
    s.requestCtx ring f = s.request (s.ringPart ring) .context ring d := by
  rw [State.requestCtx, hd]
  dsimp only
  rw [hstray]

section Action

variable {s : State} {p : Nat} {d : Started} {pl : Plan} {x : CtxRange} {i : Nat} (hpl : s.planOf p = some pl)
  (hx : pl.rangeOf (d.opd 18 2) = some (x, i))
include hpl hx

theorem State.applyCtx_eq :
    s.applyCtx p d =
      if d.opd 16 1 = 1 then s.openCtx p (d.opd 18 2) x i (d.opd 24 4) (d.opd 32 8)
      else if d.opd 16 1 = 2 then s.forkCtx p (d.opd 18 2) (d.opd 20 2) x i (d.opd 24 4) (d.opd 28 4) (d.opd 32 8)
      else s.closeCtx (d.opd 18 2) := by
  rw [State.applyCtx, hpl, Option.bind_some, hx]

theorem State.applyCtx_of_open (h : d.opd 16 1 = 1) :
    s.applyCtx p d = s.openCtx p (d.opd 18 2) x i (d.opd 24 4) (d.opd 32 8) :=
  (State.applyCtx_eq hpl hx).trans (if_pos h)

theorem State.applyCtx_of_fork (h : d.opd 16 1 = 2) :
    s.applyCtx p d = s.forkCtx p (d.opd 18 2) (d.opd 20 2) x i (d.opd 24 4) (d.opd 28 4) (d.opd 32 8) :=
  (State.applyCtx_eq hpl hx).trans ((if_neg (by omega)).trans (if_pos h))

theorem State.applyCtx_of_close (h : d.opd 16 1 = 3) : s.applyCtx p d = s.closeCtx (d.opd 18 2) :=
  (State.applyCtx_eq hpl hx).trans ((if_neg (by omega)).trans (if_neg (by omega)))

end Action

section Apply

variable {s : State} {p : Nat} {rq : Request} {d : Started} (hrq : s.nextRequest p .context = some (rq, d))
include hrq

theorem doContextApply_of_failing {f : Nat} {fs : List Nat} (hf : failing ((s.dropRequest p rq).ctxChecks p d) = f :: fs) :
    doContextApply p s =
      let u := s.dropRequest p rq
      ((u.finish rq.ring d .refused (refusedDetail (f :: fs))).raise Ev.contextRefused (u.control p)
        { object := d.opd 18 2, value := f }).count Ctr.memContextRefusedCount := by
  rw [doContextApply, hrq]
  dsimp only
  rw [hf]
  rfl

theorem doContextApply_of_passing (hf : failing ((s.dropRequest p rq).ctxChecks p d) = []) :
    doContextApply p s = ((s.dropRequest p rq).applyCtx p d).finish rq.ring d .done := by
  rw [doContextApply, hrq]
  dsimp only
  rw [hf]
  rfl

end Apply

/-- Settles O40: the three descriptors wait for their boundary; there the checks decide between a refusal and the action,
and a fork and a close change the two contexts and the counts of their pages as their lemmas say. -/
theorem contextsOpenAtBoundaries : Obligations.ContextsOpenAtBoundaries := by
  refine ⟨fun s ring d hon hd hs => ?_, fun s ring d hon hd hs => ?_, fun s ring d hon hd hs => ?_,
    fun s p rq d hon hrq => ⟨fun f fs hf => ?refused, fun pl x i hf hpl hx h1 => ?opened,
      fun pl x i hf hpl hx => ⟨fun h2 => ?forked, fun h3 => ?closed⟩⟩,
    fun s p c parent i maxLen kept tag x hne => ?fork, fun s c => ?close⟩
  case refused => exact next_whenOn_of_eq hon (doContextApply_of_failing hrq hf)
  case opened => exact next_whenOn_of_eq hon (by rw [doContextApply_of_passing hrq hf, State.applyCtx_of_open hpl hx h1]; rfl)
  case forked => exact next_whenOn_of_eq hon (by rw [doContextApply_of_passing hrq hf, State.applyCtx_of_fork hpl hx h2])
  case closed => exact next_whenOn_of_eq hon (by rw [doContextApply_of_passing hrq hf, State.applyCtx_of_close hpl hx h3])
  case fork =>
    intro t shared
    have hnew : t.ctx c = s.forked p parent x i maxLen kept tag := (State.ctx_forkCtx ..).trans (if_pos rfl)
    have hparent : t.ctx parent = { s.ctx parent with reserved := (s.ctx parent).reserved + x.kvLayers * shared } :=
      (State.ctx_forkCtx ..).trans ((if_neg hne.symm).trans (if_pos rfl))
    have hother : ∀ k, k ≠ c → k ≠ parent → t.ctx k = s.ctx k := fun k hc hp =>
      (State.ctx_forkCtx ..).trans ((if_neg hc).trans (if_neg hp))
    have hpages := s.pageRefs_forkCtx p c parent x i maxLen kept tag
    rw [hnew]
    exact ⟨rfl, rfl, rfl, rfl, rfl, rfl, rfl, rfl, hparent,
      fun layer k page hk hkept h => (mem_sortBy ..).mpr (mem_forkEntries hk hkept h), hpages, hother⟩
  case close =>
    exact ⟨(s.ctx_closeCtx c c).trans (if_pos rfl), fun k hk => (s.ctx_closeCtx c k).trans (if_neg hk),
      s.pageRefs_closeCtx c, s.pathHas_closeCtx c⟩
  all_goals exact next_whenOn_of_eq hon (State.requestCtx_of_found hd hs)

end Sys2Proof.Machine
end

/-! # Experts and variants (08_experts_variants.md): the shares of dispatch and combine tasks, forward and backward -/

section

set_option Elab.async false

open Sys2Proof Sys2Proof.Machine

namespace Sys2Proof.Machine

/-! ### The run of an exchange task (R91, R206) -/

section Exchange

variable {s : State} {c op mode : Nat} {r : Running} {rec : Operand} {f : State → Running → Exchange → Operand → State}
  (hrun : s.runningOn c = some r) (hop : r.task.op = op) (hmode : r.task.mode = mode)
  (hrec : r.operand (r.task.par 12 4) = some rec)
include hrun hop hmode hrec

theorem State.exchangeTask_eq : s.exchangeTask c op mode f =
    if r.usesEmpty then (s.takeFrames c r).2.endTask c r 0 false
    else f (s.takeFrames c r).2 r (r.exchange c) rec := by
  rw [State.exchangeTask, hrun]
  dsimp only
  rw [if_neg (by simp [hop, hmode]), hrec]

theorem State.exchangeTask_of_empty (he : r.usesEmpty = true) :
    s.exchangeTask c op mode f = (s.takeFrames c r).2.endTask c r 0 false :=
  (State.exchangeTask_eq hrun hop hmode hrec).trans (if_pos he)

/-- A share whose work ends in `u`, which is `m` but for the bookkeeping of a share. -/
theorem State.shareEnds_exchangeTask (hon : s.power.off = false) (he : r.usesEmpty = false) {u m : State} {hits : Nat}
    {bad : Bool} (hm : m.same shareFields u)
    (hf : f (s.takeFrames c r).2 r (r.exchange c) rec = u.endTask c r hits bad) :
    s.shareEnds c r hits bad m (.next (s.whenOn (fun v => v.exchangeTask c op mode f))) :=
  have hrest := (State.exchangeTask_eq hrun hop hmode hrec).trans ((if_neg (by simp [he])).trans hf)
  ⟨u, next_whenOn_of_eq hon hrest, hm⟩

end Exchange

/-! ### An empty tensor (R91) -/

section Empty

variable {s : State} {c mode : Nat} {r : Running} {rec : Operand} (hrun : s.runningOn c = some r)
  (hrec : r.operand (r.task.par 12 4) = some rec) (hmode : r.task.mode = mode) (he : r.usesEmpty = true)
include hrun hrec hmode he

theorem State.dispatchBack_of_empty (hop : r.task.op = 0x000A) :
    s.dispatchBack c mode = (s.takeFrames c r).2.endTask c r 0 false := by
  rw [State.dispatchBack, State.exchangeTask_of_empty hrun hop hmode hrec he]

theorem State.combine_of_empty (hop : r.task.op = 0x000B) :
    s.combine c mode = (s.takeFrames c r).2.endTask c r 0 false := by
  rw [State.combine, State.exchangeTask_of_empty hrun hop hmode hrec he]

theorem State.combineBack_of_empty (hop : r.task.op = 0x000B) :
    s.combineBack c mode = (s.takeFrames c r).2.endTask c r 0 false := by
  rw [State.combineBack, State.exchangeTask_of_empty hrun hop hmode hrec he]

end Empty

/-! ### What a share leaves beside its tensors (R210, R223, R146) -/

theorem State.noteOverflow_same (s : State) (c : Nat) (x : Exchange) (cs : List Choice) :
    s.same shareFields (s.noteOverflow c x cs) := by
  unfold State.noteOverflow
  dsimp only
  split
  · exact State.set_keeps rfl (State.set_keeps rfl (State.set_keeps rfl (State.raiseOnce_keeps rfl
      (State.count_keeps rfl (State.same_refl _ s)))))
  · exact State.same_refl _ s

/-- The tokens of a core none of whose choices was accepted (R210). -/
def Exchange.residualOnly (x : Exchange) (cs : List Choice) : List Nat :=
  x.mine.filter (fun t => !cs.any (fun k => k.t == t && k.accepted))

/-- The overflow of a core's choices, and the counts of its tokens (R210). -/
def State.bookRouting (s : State) (c : Nat) (x : Exchange) (cs : List Choice) : State :=
  ((s.noteOverflow c x cs).count (Ctr.coreTokensRoutedCount c) x.mine.length).count (Ctr.coreResidualOnlyCount c)
    (x.residualOnly cs).length

theorem State.bookRouting_same (s : State) (c : Nat) (x : Exchange) (cs : List Choice) :
    s.same shareFields (s.bookRouting c x cs) :=
  State.count_keeps rfl (State.count_keeps rfl (s.noteOverflow_same c x cs))

/-- A count with its report touches no tensor. -/
theorem State.raiseOnce_count_keeps {s0 s : State} (h : s0.same shareFields s) (c counter n : Nat) (e : EvKind)
    (d : Detail) : s0.same shareFields ((s.count counter n).raiseOnce c e d) :=
  State.raiseOnce_keeps rfl (State.count_keeps rfl h)

/-- The largest gradients among pieces stored in several tensors (R147). -/
def State.recordPieces (s : State) (r : Running) (ps : List (Tensor × Piece)) : State :=
  ps.foldl (fun u y => u.recordGrad r y.1 [y.2.run]) s

theorem State.recordPieces_same (s : State) (r : Running) (ps : List (Tensor × Piece)) :
    s.same shareFields (s.recordPieces r ps) :=
  foldl_keeps _ _ (fun _ _ h => State.recordGrad_keeps rfl h) (State.same_refl _ s)

theorem State.useFree_same (s : State) (n : Nat) : s.same shareFields (s.useFree n) :=
  State.useFree_keeps rfl (State.same_refl _ s)

/-! ### Forward -/

/-- The rows of a forward task are stored and tested, and no gradient is recorded of them. -/
theorem State.putRows_forward (s : State) (r : Running) (t : Tensor) (rows : List (Nat × List Fp)) :
    s.putRows r t false rows =
      let ps := rows.map (fun x => (⟨(tensorRow t x.1).2.off, x.2⟩ : Piece))
      ((ps.map (fun x => t.pieceHits x [])).sum, s.store r.p t ps) := rfl

/-- Settles O36: each task ends at once with an empty tensor, and otherwise writes its rows and records, whose bookkeeping
touches no tensor: a variant dispatch counts its rows, and reports the first above its set's capacity and the first that
no set serves, where there are such. -/
theorem expertForwardRoutesRows : Obligations.ExpertForwardRoutesRows := by
  refine ⟨⟨fun s c r rows out rec hon hrun hop ha ho hrec he => ⟨fun hmode => ?expert, fun vs hmode hv => ?variant⟩,
    fun s c r rec i hon hrun he hrec hi => ?empty⟩, fun s c r ret out rec hon hrun hop ha ho hrec he => ?combine⟩
  case expert =>
    exact State.shareEnds_exchangeTask hrun hop hmode hrec hon he (State.bookRouting_same _ c _ _)
      (by dsimp only; rw [ha, ho]; rfl)
  case variant =>
    intro vOf setAt scale cs mask z m
    refine State.shareEnds_exchangeTask (u := ?u) hrun hop hmode hrec hon he ?books ?ends
    case ends =>
      dsimp only
      rw [ha, hv, ho]
    case books =>
      have hrows (n : Nat) := State.count_keeps (lo := Ctr.coreVariantRowsCount c) (n := n) (L := shareFields) rfl
        (State.same_refl shareFields ((r.operand (r.task.par 16 4)).elim m fun o =>
          (r.exchange c).mine.foldl (fun m t => m.putBits r.p o.t (t * 8) [mask t]) m))
      refine State.modPart_keeps rfl ?_
      split <;> split
      · exact hrows _
      · exact State.raiseOnce_count_keeps (hrows _) ..
      · exact State.raiseOnce_count_keeps (hrows _) ..
      · exact State.raiseOnce_count_keeps (State.raiseOnce_count_keeps (hrows _) ..) ..
  case empty =>
    rcases hi with ⟨hop, hi⟩ | ⟨hop, hi⟩ <;> rcases hi with ⟨hmode, rfl⟩ | ⟨hmode, rfl⟩ | ⟨hmode, rfl⟩ | ⟨hmode, rfl⟩
    · exact next_whenOn_of_eq hon (State.exchangeTask_of_empty hrun hop hmode hrec he)
    · exact next_whenOn_of_eq hon (State.dispatchBack_of_empty hrun hrec hmode he hop)
    · exact next_whenOn_of_eq hon (State.exchangeTask_of_empty hrun hop hmode hrec he)
    · exact next_whenOn_of_eq hon (State.dispatchBack_of_empty hrun hrec hmode he hop)
    · exact next_whenOn_of_eq hon (State.combine_of_empty hrun hrec hmode he hop)
    · exact next_whenOn_of_eq hon (State.combineBack_of_empty hrun hrec hmode he hop)
    · exact next_whenOn_of_eq hon (State.combine_of_empty hrun hrec hmode he hop)
    · exact next_whenOn_of_eq hon (State.combineBack_of_empty hrun hrec hmode he hop)
  case combine =>
    intro u x acc ld rows ps hits m
    suffices h : ∀ mode, r.task.mode = mode →
        s.shareEnds c r hits ld.2 m (.next (s.whenOn (fun v => v.combine c mode))) from ⟨h 0x01, h 0x02⟩
    intro mode hmode
    unfold State.combine
    exact State.shareEnds_exchangeTask hrun hop hmode hrec hon he (State.useFree_same m (x.tokens * out.t.dim 0))
      (by dsimp only [State.putRows_forward]; rw [ha, ho] <;> rfl)

/-! ### Backward -/

/-- Settles O37: beside the rows, records and gates that a backward task stores, only the largest gradients of its layer
and its open values change. -/
theorem expertBackwardRoutesGradients : Obligations.ExpertBackwardRoutesGradients := by
  refine ⟨fun s c r ret out rec hon hrun hop ha ho hrec he => ?dispatch,
    fun s c r dy out rec hon hrun hop ha ho hrec he => ?combine⟩
  case dispatch =>
    intro u x k acc more ld dx w w2 hits m
    suffices h : ∀ mode, r.task.mode = mode →
        s.shareEnds c r hits ld.2 m (.next (s.whenOn (fun v => v.dispatchBack c mode))) from ⟨h 0x81, h 0x82⟩
    intro mode hmode
    unfold State.dispatchBack
    exact State.shareEnds_exchangeTask hrun hop hmode hrec hon he (State.useFree_same m (x.tokens * (x.layer.d + 4)))
      (by dsimp only; rw [ha, ho] <;> rfl)
  case combine =>
    intro u x k acc all fwd ld dgates rows dps sent hits m
    suffices h : ∀ mode, r.task.mode = mode →
        s.shareEnds c r hits ld.2 m (.next (s.whenOn (fun v => v.combineBack c mode))) from ⟨h 0x81, h 0x82⟩
    have hm : m.same shareFields ((m.recordPieces r (rows ++ dps)).useFree (x.tokens * x.k)) :=
      State.useFree_keeps rfl (m.recordPieces_same r (rows ++ dps))
    intro mode hmode
    unfold State.combineBack
    exact State.shareEnds_exchangeTask hrun hop hmode hrec hon he hm (by dsimp only; rw [ha, ho]; rfl)

end Sys2Proof.Machine
end

/-! # Convolution and images (09_convolution.md): the shares of convolutions, of crop and resize, and of channel argmax -/

section

set_option Elab.async false

open Sys2Proof Sys2Proof.Machine

namespace Sys2Proof.Machine

/-! ### The commands of a convolution (R227) -/

/-- The command that runs core `c`'s share of a convolution in this direction. -/
def ConvCommand (c dir : Nat) (i : Instr) : Prop :=
  dir = 1 ∧ i = .convForward c ∨ dir = 2 ∧ i = .convDataGradient c ∨ dir = 3 ∧ i = .convWeightGradient c

section Commands

variable {s t : State} {c dir : Nat}

theorem exec_conv {i : Instr} (hi : ConvCommand c dir i) (hon : s.power.off = false) (h : s.convTask c dir = t) :
    exec i s = .next { t with pending := s.pending } := by
  rcases hi with ⟨rfl, rfl⟩ | ⟨rfl, rfl⟩ | ⟨rfl, rfl⟩ <;> exact next_whenOn_of_eq hon h

/-- What holds of the outcome of a direction's command holds of each of the three commands in its own direction. -/
theorem conv_directions {P : Host.Outcome State Fault Refusal → Prop} (h : ∀ i, ConvCommand c dir i → P (exec i s)) :
    (dir = 1 → P (exec (.convForward c) s)) ∧ (dir = 2 → P (exec (.convDataGradient c) s)) ∧
    (dir = 3 → P (exec (.convWeightGradient c) s)) :=
  ⟨fun hd => h _ (.inl ⟨hd, rfl⟩), fun hd => h _ (.inr (.inl ⟨hd, rfl⟩)), fun hd => h _ (.inr (.inr ⟨hd, rfl⟩))⟩

end Commands

/-! ### What a convolution's share leaves beside its tensors (R131, R147, R150, R234) -/

/-- The largest gradient in the runs that stand (R147), the open values and draws that the share's elements took, and the
count of the shortcut (R234). -/
def State.bookConv (s : State) (c : Nat) (r : Running) (k : ConvRun) (out : Tensor) (els : List ConvElement)
    (runs : List Run) : State :=
  let sums := (els.map k.sumsOf).sum
  let u := ((if k.v.backward then s.recordGrad r out runs else s).useFree (1 + 2 * els.length + sums)).modCore c
    (fun x => if k.v.longSum then { x with genCounter := x.genCounter + sums } else x)
  if k.shortcut then u.count (Ctr.coreDilationShortcutCount c) else u

theorem State.bookConv_same (s : State) (c : Nat) (r : Running) (k : ConvRun) (out : Tensor) (els : List ConvElement)
    (runs : List Run) : s.same shareFields (s.bookConv c r k out els runs) := by
  have hgrad : s.same shareFields (if k.v.backward then s.recordGrad r out runs else s) := by
    split
    · exact State.recordGrad_keeps rfl (State.same_refl _ s)
    · exact State.same_refl _ s
  unfold State.bookConv
  dsimp only
  split
  · exact State.count_keeps rfl (State.modCore_keeps rfl (State.useFree_keeps rfl hgrad))
  · exact State.modCore_keeps rfl (State.useFree_keeps rfl hgrad)

theorem State.runConv_eq (s : State) (c : Nat) (r : Running) (k : ConvRun) (out : Tensor)
    (lines : List (List ConvElement)) :
    let ld := s.loadAll r (s.convReads c r k lines.flatten)
    let m := ld.1.storeShare r out (s.convPieces c r k out lines)
    s.runConv c r k out lines =
      (m.1.bookConv c r k out lines.flatten m.2.runs).endTask c r m.2.hits (ld.2 || s.badWindow c r k lines.flatten) := rfl

/-! ### The share of a convolution (R91, R162, R230, R231) -/

section Conv

variable {s : State} {c : Nat} {r : Running} (hrun : s.runningOn c = some r) (hop : r.task.op = 0x0005)
include hrun hop

theorem State.convTask_of_frozen (hf : r.convFrozen = true) :
    s.convTask c r.task.conv.dir =
      (((s.takeFrames c r).2.count (Ctr.coreFrozenSkipCount c)).keepCredits r).endEmpty c r := by
  rw [State.convTask, hrun]
  dsimp only
  rw [if_neg (by simp [hop]), if_pos hf]

variable (hf : r.convFrozen = false)
include hf

theorem State.convTask_of_not_ready (hz : r.convReady = none) :
    s.convTask c r.task.conv.dir = (s.takeFrames c r).2.endTask c r 0 false := by
  rw [State.convTask, hrun]
  dsimp only
  rw [if_neg (by simp [hop]), if_neg (by simp [hf]), hz]

variable {z : ConvTensors} {in0 out : Operand} (hz : r.convReady = some z) (h0 : r.slot 0 = some in0)
  (h3 : r.slot 3 = some out)
include hz h0 h3

theorem State.convTask_of_no_share :
    let u := (s.takeFrames c r).2
    let x := r.convTiled c (r.convRun z (u.effRung r.task)) in0.t
    r.convShare c x.1 x.2 = none → s.convTask c r.task.conv.dir = u.endTask c r 0 false := by
  intro u x hsh
  rw [State.convTask, hrun]
  dsimp only
  rw [if_neg (by simp [hop]), if_neg (by simp [hf]), hz, h0, h3]
  dsimp only
  rw [hsh]

/-- A share that is not empty and whose tiles are legal runs line by line, set after set of packed groups. -/
theorem State.convTask_of_share {sh : Share} :
    let u := (s.takeFrames c r).2
    let x := r.convTiled c (r.convRun z (u.effRung r.task)) in0.t
    let tiles := u.convTiles c r x.1 x.2 sh in0.t
    r.convShare c x.1 x.2 = some sh → sh.rows.2 ≠ 0 → sh.cols.2 ≠ 0 → tiles.2 = none →
      s.convTask c r.task.conv.dir = tiles.1.runConv c r x.1 out.t
        (((List.range (ceilDiv x.1.v.groups x.1.gp)).flatMap (fun j => x.1.lines j sh)).filter (fun l => !l.isEmpty)) := by
  intro u x tiles hsh hrows hcols hlegal
  have htiles : u.convTiles c r x.1 x.2 sh in0.t = (tiles.1, none) := Prod.ext rfl hlegal
  rw [State.convTask, hrun]
  dsimp only
  rw [if_neg (by simp [hop]), if_neg (by simp [hf]), hz, h0, h3]
  dsimp only
  rw [hsh]
  dsimp only
  rw [if_neg (by simp [hrows, hcols]), htiles]

end Conv

/-! ### Crop and resize (R239 to R242) -/

/-- Count the boxes of a share that an error befell, and report the first of them, once in a step. -/
def State.reportBoxes (s : State) (c counter : Nat) (e : EvKind) (hit : CropBox → Bool) (bs : List CropBox) : State :=
  match bs.find? hit with
  | none => s
  | some b => (s.count counter (bs.filter hit).length).raiseOnce c e { value := b.i }

theorem State.reportBoxes_keeps {s0 s : State} (h : s0.same shareFields s) (c counter : Nat) (e : EvKind)
    (hit : CropBox → Bool) (bs : List CropBox) : s0.same shareFields (s.reportBoxes c counter e hit bs) := by
  unfold State.reportBoxes
  split
  · exact h
  · exact State.raiseOnce_count_keeps h ..

/-- What a share of crop and resize leaves beside its stored lines: the counts of its boxes, and the reports of invalid and
of clamped ones. -/
def State.bookBoxes (s : State) (c : Nat) (bs : List CropBox) : State :=
  ((s.count (Ctr.coreBoxesCount c) bs.length).reportBoxes c (Ctr.coreBoxInvalidCount c) Ev.boxInvalid (fun b => b.invalid)
    bs).reportBoxes c (Ctr.coreBoxClampedCount c) Ev.boxClamped (fun b => b.wide) bs

theorem State.bookBoxes_same (s : State) (c : Nat) (bs : List CropBox) : s.same shareFields (s.bookBoxes c bs) :=
  State.reportBoxes_keeps (State.reportBoxes_keeps (State.count_keeps rfl (State.same_refl _ s)) ..) ..

section Crop

variable {s : State} {c : Nat} {r : Running} (hrun : s.runningOn c = some r) (hop : r.task.op = 0x0006)
include hrun hop

theorem doCropAndResize_of_empty (he : r.usesEmpty = true) :
    doCropAndResize c s = (s.takeFrames c r).2.endTask c r 0 false := by
  rw [doCropAndResize, hrun]
  dsimp only
  rw [if_neg (by simp [hop])]
  split
  · exact if_pos he
  · rfl

theorem doCropAndResize_of_boxes {img boxes idx out : Operand} (h0 : r.slot 0 = some img) (h1 : r.slot 1 = some boxes)
    (h2 : r.slot 2 = some idx) (h3 : r.slot 3 = some out) (he : r.usesEmpty = false) :
    let u := (s.takeFrames c r).2
    let v := r.task.crop
    let mine := (List.range v.boxes).filter (fun i => i * r.task.coreCount / v.boxes == r.coreIndex c)
    let bs := mine.map (fun i => u.cropBox r.p v img.t boxes.t idx.t i)
    let ps := bs.flatMap (u.cropLines r.p v img.t out.t)
    let ld := u.loadAll r (bs.flatMap (v.reads img) ++ [(idx, mine.map (fun i => ⟨i * 32, 1⟩))])
    doCropAndResize c s =
      (((ld.1.load r boxes (mine.map (fun i => ⟨boxes.t.bitOffset [0, i], 4⟩))).store r.p out.t ps).bookBoxes c bs).endTask
        c r ((ps.map (fun x => out.t.pieceHits x [])).sum) ld.2 := by
  rw [doCropAndResize, hrun]
  dsimp only
  rw [if_neg (by simp [hop]), h0, h1, h2, h3]
  exact if_neg (by simp [he])

end Crop

/-! ### Channel argmax (R243, R244) -/

/-- The largest value of each position of a share along the axis: the position, the value's index, and the value. -/
def State.argmaxes (s : State) (p : Nat) (a : Tensor) (cols : Nat → List (List Nat)) (mine : List Nat) :
    List (Nat × Nat × Fp) :=
  mine.map (fun i =>
    let xs := (cols i).map (fun k => s.elem p a k)
    (i, argmax xs, (xs[argmax xs]?).getD Fp.zero))

/-- A share of channel argmax counts the positions whose largest value is no number. -/
def State.bookArgmax (s : State) (c : Nat) (best : List (Nat × Nat × Fp)) : State :=
  let nan := (best.filter (fun b => b.2.2.isNan)).length
  if nan = 0 then s else s.count (Ctr.coreArgmaxNanCount c) nan

theorem State.bookArgmax_same (s : State) (c : Nat) (best : List (Nat × Nat × Fp)) :
    s.same shareFields (s.bookArgmax c best) := by
  unfold State.bookArgmax
  dsimp only
  split
  · exact State.same_refl _ s
  · exact State.count_keeps rfl (State.same_refl _ s)

/-- The largest values of a share, each as a piece of the tensor in slot 2, where the task asks for them (R243). -/
def Running.argmaxPieces (r : Running) (best : List (Nat × Nat × Fp)) : List (Tensor × Piece) :=
  match if bitAt (r.task.par 1 1) 0 = 1 then r.slot 2 else none with
  | none => []
  | some o => best.map (fun b => (o.t, ⟨o.t.bitOffset (o.t.coords b.1), [b.2.2]⟩))

section Argmax

variable {s : State} {c : Nat} {r : Running} (hrun : s.runningOn c = some r) (hop : r.task.op = 0x0007)
include hrun hop

theorem doChannelArgmax_of_empty (he : r.usesEmpty = true) :
    doChannelArgmax c s = (s.takeFrames c r).2.endTask c r 0 false := by
  rw [doChannelArgmax, hrun]
  dsimp only
  rw [if_neg (by simp [hop])]
  split
  · exact if_pos he
  · rfl

theorem doChannelArgmax_of_positions {a out : Operand} (h0 : r.slot 0 = some a) (h3 : r.slot 3 = some out)
    (he : r.usesEmpty = false) :
    let u := (s.takeFrames c r).2
    let axis := r.task.par 0 1
    let sh := shareOf out.t.count r.task.coreCount (r.coreIndex c)
    let mine := (List.range sh.2).map (· + sh.1)
    let cols := fun (i : Nat) => (List.range (a.t.dim axis)).map (fun k => axisCoords (out.t.coords i) axis k)
    let ld := u.loadAll r [(a, cellsAt a.t (mine.flatMap cols))]
    let best := u.argmaxes r.p a.t cols mine
    let ps := r.argmaxPieces best
    doChannelArgmax c s =
      ((ps.foldl (fun m x => m.store r.p x.1 [x.2])
        (best.foldl (fun m b => m.putBits r.p out.t (out.t.bitOffset (out.t.coords b.1)) [b.2.1]) ld.1)).bookArgmax c
          best).endTask c r ((ps.map (fun x => x.1.pieceHits x.2 [])).sum) ld.2 := by
  rw [doChannelArgmax, hrun]
  dsimp only
  rw [if_neg (by simp [hop]), h0, h3]
  exact if_neg (by simp [he])

end Argmax

/-! ### Convolutions and images -/

/-- Settles O35: a convolution's command ends its share at once where nothing is computed, and otherwise stores its lines;
beside what the image operators store, only counts and reports change. -/
theorem convolutionsAndImagesWriteTheirShare : Obligations.ConvolutionsAndImagesWriteTheirShare := by
  refine ⟨fun s c r hon hrun hop => ⟨fun hf hdir => ?frozen, fun hf hz i hi => ?notReady,
      fun z in0 out hf hz h0 h3 => ⟨fun hsh => ?noShare, fun sh hsh hrows hcols hlegal => ?share⟩⟩,
    fun s c r img boxes idx out hon hrun hop h0 h1 h2 h3 he => ?crop,
    fun s c r a out hon hrun hop h0 h3 he => ?argmax, fun s c r i hon hrun he hi => ?empty⟩
  case frozen => exact exec_conv (.inr (.inr ⟨hdir, rfl⟩)) hon (State.convTask_of_frozen hrun hop hf)
  case notReady => exact exec_conv hi hon (State.convTask_of_not_ready hrun hop hf hz)
  case noShare =>
    have hends := State.convTask_of_no_share hrun hop hf hz h0 h3 hsh
    exact conv_directions (P := (· = .next _)) fun i hi => exec_conv hi hon hends
  case share =>
    intro w lines ps ld bad m
    have hends := (State.convTask_of_share hrun hop hf hz h0 h3 hsh hrows hcols hlegal).trans (State.runConv_eq ..)
    exact conv_directions (P := s.shareEnds c r m.2.hits bad m.1) fun i hi =>
      ⟨_, exec_conv hi hon hends, State.bookConv_same ..⟩
  case crop =>
    exact ⟨_, next_whenOn_of_eq hon (doCropAndResize_of_boxes hrun hop h0 h1 h2 h3 he), State.bookBoxes_same ..⟩
  case argmax =>
    exact ⟨_, next_whenOn_of_eq hon (doChannelArgmax_of_positions hrun hop h0 h3 he), State.bookArgmax_same ..⟩
  case empty =>
    rcases hi with ⟨hop, rfl⟩ | ⟨hop, rfl⟩
    · exact next_whenOn_of_eq hon (doCropAndResize_of_empty hrun hop he)
    · exact next_whenOn_of_eq hon (doChannelArgmax_of_empty hrun hop he)

end Sys2Proof.Machine
end

/-! # The activation ledger (10_activation_ledger.md): codec transfers, and the generations of the clear tables -/

section

set_option Elab.async false

open Sys2Proof Sys2Proof.Machine

namespace Sys2Proof.Machine

/-! ### Codec transfers (R251) -/

section Codec

variable {s : State} {c mode : Nat} {move : State → Running → Operand → Operand → Nat → State} {r : Running}
  (hrun : s.runningOn c = some r) (hop : r.task.op = 0x000C) (hmode : r.task.par 0 1 = mode)
include hrun hop hmode

theorem State.codecTask_of_empty (he : r.usesEmpty = true) : s.codecTask c mode move = s.endTask c r 0 false := by
  rw [State.codecTask, hrun]
  dsimp only
  rw [if_neg (by simp [hop, hmode])]
  split
  · exact if_pos he
  · rfl

theorem State.codecTask_of_blocks {a d : Operand} (ha : r.slot 0 = some a) (hd : r.slot 3 = some d)
    (he : r.usesEmpty = false) :
    s.codecTask c mode move = ((r.blockRange c).foldl (fun s j => move s r a d j) s).endTask c r 0 false := by
  rw [State.codecTask, hrun]
  dsimp only
  rw [if_neg (by simp [hop, hmode]), ha, hd]
  exact if_neg (by simp [he])

end Codec

/-! ### CLEAR_TABLE descriptors (R264, R267) -/

theorem doClearTableLoad_of_good {s : State} {ring : Nat} {d : Started}
    (hd : s.findDesc ring 0x11 (fun d => d.opd 16 1 != 2 && d.opd 16 1 != 3) = some d) (hstray : d.clearStray = none)
    (hact : d.opd 16 1 = 1) (hslot : s.slotFilled (s.ringPart ring) (d.opd 18 2) (d.opd 20 4) 2 = true)
    (hgood : failing (s.clearChecks (s.ringPart ring) d) = []) :
    let u := s.consumeSlot (s.ringPart ring) (d.opd 18 2) (d.opd 20 4)
    doClearTableLoad ring s =
      (((u.modGen (s.ringPart ring) (d.opd 17 1)
          (fun _ => ⟨.loaded, (s.genImage (s.ringPart ring) (d.opd 18 2) (d.opd 20 4)).drop 16⟩)).raise Ev.clearTableLoaded
          (u.control (s.ringPart ring)) { object := d.opd 17 1 }).finish ring d .done).releaseSlot (s.ringPart ring)
          (d.opd 18 2) (d.opd 20 4) := by
  rw [doClearTableLoad, hd]
  dsimp only
  rw [hstray]
  dsimp only
  rw [if_neg (by simp [hslot]), if_neg (by simp [hact]), hgood]
  rfl

theorem State.requestClear_of_found {s : State} {ring act : Nat} {d : Started}
    (hd : s.findDesc ring 0x11 (fun d => d.opd 16 1 == act) = some d) (hstray : d.clearStray = none) :
    s.requestClear ring act = (s.request (s.ringPart ring) .clear ring d).noteCurrent (s.ringPart ring) := by
  rw [State.requestClear, hd]
  dsimp only
  rw [hstray]

section Apply

variable {s : State} {p : Nat} {rq : Request} {d : Started} (hrq : s.nextRequest p .clear = some (rq, d))
include hrq

theorem doClearTableApply_of_failing {f : Nat} {fs : List Nat}
    (hf : failing ((s.dropRequest p rq).clearChecks p d) = f :: fs) :
    doClearTableApply p s = ((s.dropRequest p rq).refuseClear rq.ring p d (f :: fs)).noteCurrent p := by
  rw [doClearTableApply, hrq]
  dsimp only
  rw [hf]
  rfl

theorem doClearTableApply_of_passing (hf : failing ((s.dropRequest p rq).clearChecks p d) = []) :
    doClearTableApply p s =
      (if d.opd 16 1 = 2 then ((s.dropRequest p rq).makeCurrent p (d.opd 17 1)).finish rq.ring d .done
        else ((s.dropRequest p rq).modGen p (d.opd 17 1) (fun _ => Gen.init)).finish rq.ring d .done).noteCurrent p := by
  rw [doClearTableApply, hrq]
  dsimp only
  rw [hf]
  rfl

end Apply

theorem State.freeGen_of_unused {s : State} {p g : Nat} (hret : (s.gen p g).state = .retiring)
    (hrefs : s.genRefs p g = 0) :
    s.freeGen p g =
      ((s.modGen p g (fun _ => Gen.init)).raise Ev.clearGenFreed (s.control p) { object := g }).noteCurrent p :=
  if_pos (by simp [hret, hrefs])

/-- Settles O38: a codec task moves the blocks of its share; a descriptor acts or waits as its action says, and at its
boundary the checks decide between the refusal and the action. -/
theorem ledgerMovesBlocksAndGenerations : Obligations.LedgerMovesBlocksAndGenerations := by
  refine ⟨⟨fun s c r i hon hrun hop he hi => ?empty, fun s c r a d hon hrun hop ha hd he => ?blocks⟩,
    fun s ring d hon hd hstray hact hslot hgood => ?load, fun s ring d hon hd hstray => ?makeCurrent,
    fun s ring d hon hd hstray => ?discard, fun s p rq d hon hrq => ⟨fun f fs hf => ?refused, fun hf h2 => ?current,
      fun hf h3 => ?discarded⟩, fun s p g hon hret hrefs => ?freed⟩
  case empty =>
    rcases hi with ⟨hm, rfl⟩ | ⟨hm, rfl⟩ | ⟨hm, rfl⟩ | ⟨hm, rfl⟩ | ⟨hm, rfl⟩ <;>
      exact next_whenOn_of_eq hon (State.codecTask_of_empty hrun hop hm he)
  case blocks =>
    refine ⟨fun hm => ?_, fun hm => ?_, fun hm => ?_, fun hm => ?_, fun hm => ?_⟩ <;>
      exact next_whenOn_of_eq hon (State.codecTask_of_blocks hrun hop hm ha hd he)
  case load => exact next_whenOn_of_eq hon (doClearTableLoad_of_good hd hstray hact hslot hgood)
  case makeCurrent => exact next_whenOn_of_eq hon (State.requestClear_of_found hd hstray)
  case discard => exact next_whenOn_of_eq hon (State.requestClear_of_found hd hstray)
  case refused => exact next_whenOn_of_eq hon (doClearTableApply_of_failing hrq hf)
  case current => exact next_whenOn_of_eq hon (by rw [doClearTableApply_of_passing hrq hf, if_pos h2])
  case discarded => exact next_whenOn_of_eq hon (by rw [doClearTableApply_of_passing hrq hf, if_neg (by omega)])
  case freed => exact next_whenOn_of_eq hon (State.freeGen_of_unused hret hrefs)

end Sys2Proof.Machine
end

/-! # Shut-downs (15_power.md): the emergency and the orderly shut-down, and the test of an orderly one -/

section

set_option Elab.async false

open Sys2Proof Sys2Proof.Machine

namespace Sys2Proof.Machine

/-! ### The registers that a shut-down leaves until the rails go off -/

theorem State.get_withPending (s : State) (q : List Instr) (f : Fld) : ({ s with pending := q } : State).get f = s.get f :=
  State.get_congr f rfl

/-- The registers of sessions: fabric keys of the partitions, and the view (R418, R423). -/
def sessionRegs : List Nat := [0xD00020, 0xD00024, 0xD00028, 0xD0002C, 0xD00030]

/-- A register below the self-test record (R425), none of a session, and no TICK_STATUS (R19). -/
def outlasts (a : Nat) : Bool := decide (a < 0xE00004) && !sessionRegs.contains a && !isTickStatus a

theorem outlasts_iff {a : Nat} :
    outlasts a = true ↔ a < 0xE00004 ∧ sessionRegs.contains a = false ∧ isTickStatus a = false := by
  simp [outlasts, and_assoc]

/-- The registers of which `outlasts` speaks read in `t` as in `s`. -/
structure State.sameLasting (s t : State) : Prop where
  reg : ∀ a, outlasts a = true → t.reg a = s.reg a

theorem State.sameLasting.trans {s t u : State} (h : s.sameLasting t) (h' : t.sameLasting u) : s.sameLasting u :=
  ⟨fun a ha => (h'.reg a ha).trans (h.reg a ha)⟩

theorem State.sameLasting.get {s t : State} (h : s.sameLasting t) (f : Fld) (hf : outlasts f.addr = true) :
    t.get f = s.get f := by
  rw [State.get, State.get, h.reg _ hf]

theorem State.sameLasting_of_regs {s t : State} (h : t.regs = s.regs) : s.sameLasting t :=
  ⟨fun a _ => State.reg_congr a h⟩

theorem State.sameLasting.withRegs {s t u : State} (h : s.sameLasting t) (hr : u.regs = t.regs) : s.sameLasting u :=
  h.trans (State.sameLasting_of_regs hr)

theorem State.sameLasting_stampUsed (s : State) : s.sameLasting s.stampUsed :=
  ⟨fun a ha => s.reg_stampUsed a (outlasts_iff.mp ha).2.2⟩

theorem State.sameLasting_raise (s : State) (e : EvKind) (u : UnitId) (d : Detail) : s.sameLasting (s.raise e u d) :=
  ⟨fun a ha => s.reg_raise e u d a (outlasts_iff.mp ha).2.2⟩

theorem State.sameLasting_set {s : State} (f : Fld) (v : Nat) (hf : outlasts f.addr = false) : s.sameLasting (s.set f v) :=
  ⟨fun a ha => State.reg_set_other s f v a fun he => by
    rw [he, hf] at ha
    exact Bool.false_ne_true ha⟩

theorem foldl_sameLasting {α : Type} {f : State → α → State} {l : List α}
    (hf : ∀ (s : State), ∀ x ∈ l, s.sameLasting (f s x)) (s : State) : s.sameLasting (l.foldl f s) :=
  List.foldlRecOn (motive := s.sameLasting) l f (State.sameLasting_of_regs rfl) fun t ht x hx => ht.trans (hf t x hx)

theorem State.sameLasting_raiseClosed (s : State) (x : Session) (cause : Nat) : s.sameLasting (s.raiseClosed x cause) := by
  have hobj : s.sameLasting (s.sessionObject x).2 := by
    unfold State.sessionObject
    split
    · exact State.sameLasting_of_regs rfl
    · split <;> exact State.sameLasting_of_regs rfl
  exact hobj.trans ⟨fun a ha => State.reg_raiseFor _ _ _ _ _ a (outlasts_iff.mp ha).2.2⟩

theorem State.regs_lastRecord (s : State) (cause : Nat) : (s.lastRecord cause).regs = s.stampUsed.regs := by
  unfold State.lastRecord State.toFlash
  rfl

theorem State.sameLasting_lastRecord (s : State) (cause : Nat) : s.sameLasting (s.lastRecord cause) :=
  s.sameLasting_stampUsed.trans (State.sameLasting_of_regs (s.regs_lastRecord cause))

theorem State.sameLasting_stepFault (s : State) (p : Nat) (c : FaultCause) : s.sameLasting (s.stepFault p c) := by
  cases h : s.inStep p with
  | false =>
    rw [State.stepFault_of_not_inStep c h]
    exact State.sameLasting_of_regs rfl
  | true => exact ⟨fun a ha => State.keepsRegs_stepFault h a rfl (outlasts_iff.mp ha).2.2⟩

/-! ### The self-test record (R425) -/

/-- The tested and failed counts of the items, each in its register behind the record's. -/
def State.putItems (s : State) (items : List BistItem) : State :=
  items.zipIdx.foldl (fun s (x : BistItem × Nat) =>
    s.setReg (0xE00010 + 4 * x.2) (x.1.tested % 2 ^ 16 + 2 ^ 16 * (x.1.failed % 2 ^ 16))) s

theorem State.putRecord_eq (s : State) (r : BistRecord) :
    s.putRecord r = ((((s.modTrust (fun t => { t with record := r.flash })).set Reg.bistRecord_state r.state).set
      Reg.bistRecord_deferCause r.defer_).set Reg.bistRecord_failedItems r.failed).putItems r.items := rfl

theorem State.reg_putItems (s : State) (items : List BistItem) {a : Nat} (h : a < 0xE00010) :
    (s.putItems items).reg a = s.reg a :=
  List.foldlRecOn (motive := fun t : State => t.reg a = s.reg a) _ _ rfl fun t ht x _ => by
    rw [State.reg_setReg, if_neg (by omega), ht]

theorem State.get_putRecord_state (s : State) (r : BistRecord) :
    (s.putRecord r).get Reg.bistRecord_state = r.state % 2 ^ 3 := by
  rw [State.putRecord_eq, State.get, State.reg_putItems _ _ (by decide), ← State.get,
    State.get_set_apart _ _ _ _ (by unfold Fld.apart; decide),
    State.get_set_apart _ _ _ _ (by unfold Fld.apart; decide), State.get_set_self]
  rfl

theorem State.get_putRecord_deferCause (s : State) (r : BistRecord) :
    (s.putRecord r).get Reg.bistRecord_deferCause = r.defer_ % 2 ^ 4 := by
  rw [State.putRecord_eq, State.get, State.reg_putItems _ _ (by decide), ← State.get,
    State.get_set_apart _ _ _ _ (by unfold Fld.apart; decide), State.get_set_self]
  rfl

theorem State.sameLasting_putRecord (s : State) (r : BistRecord) : s.sameLasting (s.putRecord r) := by
  have hflash : s.sameLasting (s.modTrust (fun t => { t with record := r.flash })) := State.sameLasting_of_regs rfl
  have hrecord := ((hflash.trans (State.sameLasting_set Reg.bistRecord_state r.state rfl)).trans
    (State.sameLasting_set Reg.bistRecord_deferCause r.defer_ rfl)).trans
    (State.sameLasting_set Reg.bistRecord_failedItems r.failed rfl)
  rw [State.putRecord_eq]
  exact hrecord.trans ⟨fun a ha => State.reg_putItems _ _ (by have := (outlasts_iff.mp ha).1; omega)⟩

/-! ### The rails go off (R396) -/

theorem State.sealedBase_congr {s t : State} (h : s.sameLasting t) : t.sealedBase = s.sealedBase := by
  rw [State.sealedBase, State.sealedBase, h.get _ (by decide), h.get _ (by decide)]

theorem State.sealedOnly_congr {s t : State} (hneg : t.neg = s.neg) (hbase : t.sealedBase = s.sealedBase) :
    t.sealedOnly.1 = s.sealedOnly.1 := by
  rw [State.sealedOnly, State.sealedOnly, hneg, hbase]

/-- In `t` the rails have gone off; of the memories, sessions and keys of `s` only the sealed region of the Negative store
is left. -/
structure State.leavesSealed (s t : State) : Prop where
  off : t.power.off = true
  mem : t.mem = []
  staging : t.staging = []
  neg : t.neg = s.sealedOnly.1
  sessions : t.trust.sessions = []
  memKeys : t.trust.memKeys = []

theorem State.leavesSealed.set {s t : State} (h : s.leavesSealed t) (f : Fld) (v : Nat) : s.leavesSealed (t.set f v) :=
  ⟨h.off, h.mem, h.staging, h.neg, h.sessions, h.memKeys⟩

theorem State.leavesSealed.withPending {s t : State} (h : s.leavesSealed t) (q : List Instr) :
    s.leavesSealed { t with pending := q } :=
  ⟨h.off, h.mem, h.staging, h.neg, h.sessions, h.memKeys⟩

theorem State.leavesSealed_railsOff {s t : State} (h : t.sealedOnly.1 = s.sealedOnly.1) : s.leavesSealed t.railsOff :=
  ⟨rfl, rfl, rfl, h, rfl, rfl⟩

theorem State.get_railsOff (s : State) {f : Fld} (h : Reg.secBootStatus_ready.addr ≠ f.addr) :
    s.railsOff.get f = s.get f :=
  (State.get_set_apart _ _ _ _ (.inl h)).trans (State.get_congr f rfl)

/-- Neither the last stamp nor the end of readiness touches the register of the self-test record. -/
theorem State.get_orderlyOff (s : State) {f : Fld} (hf : f.addr = 0xE00004) : s.orderlyOff.get f = s.get f := by
  have hlast : (s.savePath.lastRecord 1).get f = s.savePath.stampUsed.get f := State.get_congr f (State.regs_lastRecord ..)
  rw [State.orderlyOff, State.get_railsOff _ (by rw [hf]; decide), hlast, State.get_stampUsed _ f (by rw [hf]; decide)]
  exact State.get_congr f rfl

theorem State.sealedOnly_savePath_lastRecord (s : State) (cause : Nat) :
    (s.savePath.lastRecord cause).sealedOnly.1 = s.sealedOnly.1 := by
  have hsaved : s.same eventFields (s.savePath.lastRecord cause) :=
    State.lastRecord_keeps rfl (State.savePath_keeps rfl (State.same_refl _ s))
  have hpath : s.sameLasting s.savePath := State.sameLasting_of_regs rfl
  exact State.sealedOnly_congr (hsaved.on .neg rfl)
    (State.sealedBase_congr (hpath.trans (s.savePath.sameLasting_lastRecord cause)))

theorem State.leavesSealed_orderlyOff {s t : State} (h : t.sealedOnly.1 = s.sealedOnly.1) : s.leavesSealed t.orderlyOff :=
  State.leavesSealed_railsOff ((t.sealedOnly_savePath_lastRecord 1).trans h)

theorem State.writing_railsOff (s : State) : s.railsOff.trust.writing = none := rfl

theorem State.finishWrite_orderlyOff (s : State) : s.orderlyOff.finishWrite = s.orderlyOff := by
  rw [State.finishWrite, State.orderlyOff, State.writing_railsOff]

/-! ### The emergency shut-down (R394, R396) -/

/-- A port that is UP carries the fault notice of an emergency shut-down. -/
def State.noticeOut (s : State) (c : FaultCause) (n : Nat) : State :=
  if s.portState n = 2 then
    let n' : Notice := ⟨.fault, (s.part (s.portPart n)).startExposure, 1, s.time.now, s.position, false, c.code, 0, []⟩
    let o := FabOut.notice (s.sealNotice (s.get (Reg.fabPort_neighbour n)) n')
    { s with out := { s.out with fabric := s.out.fabric ++ [(n, o)] } }.stampUsed.sendWire n o
  else s

/-- The self-test record of an emergency shut-down: "not run", unless a test was under way (R427, R429). -/
def State.noteNotRun (s : State) : State :=
  if s.power.testing then s else s.putRecord { s.selfTest with state := 4, defer_ := 6 }

/-- What an emergency shut-down does before the rails go off. -/
def State.saveAll (s : State) (c : FaultCause) (cause : Nat) : State :=
  ((List.range 48).foldl (fun s n => s.noticeOut c n)
    ((List.range 4).foldl (fun s p => s.stepFault p c) s)).noteNotRun.closeAll.saveLog.lastRecord cause

theorem State.emergencyStop_eq (s : State) (c : FaultCause) (cause : Nat) :
    s.emergencyStop c cause = (s.saveAll c cause).railsOff := by
  unfold State.emergencyStop State.saveAll State.noticeOut State.noteNotRun
  rfl

/-- The fields that an emergency shut-down writes before the rails go off. -/
def saveFields : List Field := [.regs, .seq, .seqReported, .events, .parts, .ports, .trust, .out, .freeCtr]

theorem State.noticeOut_keeps {s0 s : State} (h : s0.same saveFields s) (c : FaultCause) (n : Nat) :
    s0.same saveFields (s.noticeOut c n) := by
  unfold State.noticeOut
  split
  · refine State.sendWire_keeps rfl (State.stampUsed_keeps rfl ⟨fun k hk => ?_⟩)
    have hs := h.on k hk
    cases k
    case out => exact absurd hk (by decide)
    all_goals exact hs
  · exact h

theorem State.sameLasting_noticeOut (s : State) (c : FaultCause) (n : Nat) : s.sameLasting (s.noticeOut c n) := by
  unfold State.noticeOut
  split
  · have hstamp : ∀ o, s.sameLasting ({ s with out := o } : State).stampUsed := fun o =>
      State.sameLasting.trans (State.sameLasting_of_regs (t := { s with out := o }) rfl) (State.sameLasting_stampUsed _)
    exact (hstamp _).trans
      (State.sameLasting_of_regs ((State.sendWire_keeps (L := [.ports, .out]) rfl (State.same_refl _ _)).on .regs rfl))
  · exact State.sameLasting_of_regs rfl

theorem State.noteNotRun_keeps {s0 s : State} (h : s0.same saveFields s) : s0.same saveFields s.noteNotRun := by
  unfold State.noteNotRun
  split
  · exact h
  · exact State.putRecord_keeps rfl h

theorem State.sameLasting_noteNotRun (s : State) : s.sameLasting s.noteNotRun := by
  unfold State.noteNotRun
  split
  · exact State.sameLasting_of_regs rfl
  · exact State.sameLasting_putRecord ..

theorem State.saveAll_same (s : State) (c : FaultCause) (cause : Nat) : s.same saveFields (s.saveAll c cause) := by
  have hfault : s.same saveFields ((List.range 4).foldl (fun s p => s.stepFault p c) s) :=
    foldl_keeps _ _ (fun _ _ h => State.stepFault_keeps rfl h) (State.same_refl _ s)
  have hnotice := foldl_keeps (fun s n => s.noticeOut c n) (List.range 48) (fun _ n h => State.noticeOut_keeps h c n) hfault
  exact State.lastRecord_keeps rfl (State.saveLog_keeps rfl (State.closeAll_keeps rfl (State.noteNotRun_keeps hnotice)))

theorem State.sameLasting_closeAll (s : State) : s.sameLasting s.closeAll :=
  foldl_sameLasting (fun s x _ => s.sameLasting_raiseClosed x 3) s

theorem State.sameLasting_saveLog (s : State) : s.sameLasting s.saveLog := State.sameLasting_of_regs rfl

theorem State.sameLasting_saveAll (s : State) (c : FaultCause) (cause : Nat) : s.sameLasting (s.saveAll c cause) :=
  (((((foldl_sameLasting (fun s p _ => s.sameLasting_stepFault p c) s).trans
    (foldl_sameLasting (fun s n _ => s.sameLasting_noticeOut c n) _)).trans (State.sameLasting_noteNotRun _)).trans
    (State.sameLasting_closeAll _)).trans (State.sameLasting_saveLog _)).trans (State.sameLasting_lastRecord _ cause)

theorem State.sealedOnly_saveAll (s : State) (c : FaultCause) (cause : Nat) :
    (s.saveAll c cause).sealedOnly.1 = s.sealedOnly.1 :=
  State.sealedOnly_congr ((s.saveAll_same c cause).on .neg rfl) (State.sealedBase_congr (s.sameLasting_saveAll c cause))

theorem State.sealedOnly_raise (s : State) (e : EvKind) (u : UnitId) (d : Detail) :
    (s.raise e u d).sealedOnly.1 = s.sealedOnly.1 :=
  State.sealedOnly_congr (State.raise_neg ..) (State.sealedBase_congr (s.sameLasting_raise e u d))

theorem State.sealedOnly_set_busState (s : State) (v : Nat) :
    (s.set Reg.pwrStatus_busState v).sealedOnly.1 = s.sealedOnly.1 := by
  refine State.sealedOnly_congr rfl ?_
  rw [State.sealedBase, State.sealedBase, State.get_set_apart _ _ _ _ (.inl (by decide)),
    State.get_set_apart _ _ _ _ (.inl (by decide))]

theorem doBusFail_of_failure {s : State} {mv cause : Nat} (hon : s.power.off = false) (hbus : s.busState < 3)
    (h : (cause = 1 ∧ mv < 40000) ∨ (cause = 2 ∧ 60000 < mv)) :
    doBusFail mv cause s = (((s.set Reg.pwrStatus_busState 3).raise Ev.busFail UnitId.power
      { value := mv, cause := cause }).saveAll .power 2).railsOff.set Reg.pwrStatus_busState 4 := by
  rw [doBusFail, if_neg (by simp only [hon, Bool.false_eq_true, false_or]; omega), State.emergencyStop_eq]

theorem doThermalTrip_of_below {s : State} {sensor tenths limit : Nat} (hlimit : s.fitted.tripLimit sensor = some limit)
    (h : tenths < limit) : doThermalTrip sensor tenths s = s := by
  rw [doThermalTrip, hlimit]
  exact if_pos (.inr h)

theorem doThermalTrip_of_reached {s : State} {sensor tenths limit : Nat} (hon : s.power.off = false)
    (hlimit : s.fitted.tripLimit sensor = some limit) (h : limit ≤ tenths) :
    doThermalTrip sensor tenths s =
      ((s.raise Ev.thermalTrip (UnitId.sensor sensor) { object := sensor }).saveAll .thermal 3).railsOff := by
  rw [doThermalTrip, hlimit]
  dsimp only
  rw [if_neg (by simp [hon, h]), State.emergencyStop_eq]

/-! ### An orderly shut-down clears the secrets (R397) -/

/-- The open sessions end, each for a cause that the manual leaves open. -/
def State.endSessions (s : State) : State :=
  (s.trust.sessions.filter (·.authed)).foldl (fun s x =>
    let c := s.takeFree 8
    c.2.raiseClosed x c.1) s

/-- The fabric key of a partition is destroyed. -/
def State.dropFabricKey (s : State) (p : Nat) : State :=
  (s.modPart p (fun q => { q with fabricKey := none, fabricSent := 0 })).set ⟨0xD00020 + 4 * p, 0, 4⟩ 0

/-- Every session is gone, with what it had begun. -/
def Trust.withoutSessions (t : Trust) : Trust :=
  { t with sessions := [], memKeys := [], unsealed := none, delivery := none, chunks := [], large := [] }

/-- The fabric keys of all four partitions are destroyed. -/
def State.dropFabricKeys (s : State) : State := (List.range 4).foldl (fun s p => s.dropFabricKey p) s

/-- Every SRAM in the cores, the base dies and the I/O dies is wiped. -/
def State.wipeSrams (s : State) : State :=
  { s with
    staging := [], cores := List.replicate 64 Core.init, intake := [IntakeUnit.init, IntakeUnit.init], devQueues := []
    ports := s.ports.map (fun x => { x with
      queue := [], waiting := [], notices := [], link := { x.link with stream := [], replay := [] } }) }

theorem State.clearSecrets_eq (s : State) :
    s.clearSecrets = (((s.endSessions.dropFabricKeys.modTrust Trust.withoutSessions).set Reg.secView_fullView 0).set
      Reg.secView_ownerSession 0).wipeSrams := by
  unfold State.clearSecrets State.dropFabricKeys State.endSessions State.dropFabricKey Trust.withoutSessions State.wipeSrams
  rfl

theorem State.wipeSrams_parts (s : State) : s.wipeSrams.parts = s.parts := rfl

theorem State.wipeSrams_trust (s : State) : s.wipeSrams.trust = s.trust := rfl

theorem State.wipeSrams_regs (s : State) : s.wipeSrams.regs = s.regs := rfl

theorem State.endSessions_same (s : State) : s.same (eventFields ++ [.freeCtr]) s.endSessions :=
  foldl_keeps _ _ (fun _ _ h => State.raiseClosed_keeps rfl (State.takeFree_keeps rfl h)) (State.same_refl _ s)

theorem State.sameLasting_endSessions (s : State) : s.sameLasting s.endSessions := by
  refine foldl_sameLasting (fun s x _ => ?_) s
  have hcause : s.sameLasting (s.takeFree 8).2 := State.sameLasting_of_regs rfl
  exact hcause.trans (State.sameLasting_raiseClosed _ x _)

theorem State.sameLasting_dropFabricKey (s : State) {p : Nat} (hp : p < 4) : s.sameLasting (s.dropFabricKey p) := by
  have hreg : ∀ p < 4, outlasts (0xD00020 + 4 * p) = false := by decide
  have hpart : s.sameLasting (s.modPart p (fun q => { q with fabricKey := none, fabricSent := 0 })) :=
    State.sameLasting_of_regs rfl
  exact hpart.trans (State.sameLasting_set ⟨0xD00020 + 4 * p, 0, 4⟩ 0 (hreg p hp))

theorem State.sameLasting_dropFabricKeys (s : State) : s.sameLasting s.dropFabricKeys :=
  foldl_sameLasting (fun t _ hp => t.sameLasting_dropFabricKey (List.mem_range.mp hp)) s

theorem State.dropFabricKeys_same (s : State) : s.same [.regs, .parts] s.dropFabricKeys :=
  foldl_keeps _ _ (fun _ _ h => State.set_keeps rfl (State.modPart_keeps rfl h)) (State.same_refl _ s)

theorem State.phase_dropFabricKey (s : State) (p r : Nat) : ((s.dropFabricKey p).part r).phase = (s.part r).phase :=
  State.part_modPart_congr Part.phase (f := fun q => { q with fabricKey := none, fabricSent := 0 }) (fun _ => rfl) s p r

theorem State.phase_dropFabricKeys (s : State) (r : Nat) : (s.dropFabricKeys.part r).phase = (s.part r).phase :=
  List.foldlRecOn (motive := fun t : State => (t.part r).phase = (s.part r).phase) _ _ rfl fun t ht p _ =>
    (t.phase_dropFabricKey p r).trans ht

theorem State.sameLasting_clearSecrets (s : State) : s.sameLasting s.clearSecrets := by
  have htrust := (s.sameLasting_endSessions.trans (State.sameLasting_dropFabricKeys _)).withRegs
    (State.modTrust_regs _ Trust.withoutSessions)
  have hview := (htrust.trans (State.sameLasting_set Reg.secView_fullView 0 rfl)).trans
    (State.sameLasting_set Reg.secView_ownerSession 0 rfl)
  rw [State.clearSecrets_eq]
  exact hview.withRegs (State.wipeSrams_regs _)

theorem State.admitted_clearSecrets (s : State) (p : Nat) : s.clearSecrets.admitted p = s.admitted p := by
  have hparts : s.clearSecrets.parts = s.endSessions.dropFabricKeys.parts := by
    rw [State.clearSecrets_eq, State.wipeSrams_parts, State.set_parts, State.set_parts, State.modTrust_parts]
  rw [State.admitted, State.admitted, State.part_congr p hparts, State.phase_dropFabricKeys,
    State.part_congr p (s.endSessions_same.on .parts rfl)]

theorem State.trust_clearSecrets (s : State) : s.clearSecrets.trust = s.trust.withoutSessions := by
  have hkeys : s.endSessions.dropFabricKeys.trust = s.trust :=
    (s.endSessions.dropFabricKeys_same.on .trust rfl).trans (s.endSessions_same.on .trust rfl)
  rw [State.clearSecrets_eq, State.wipeSrams_trust, State.set_trust, State.set_trust, State.modTrust, hkeys]

/-! ### The conditions of the shut-down test (R427) -/

section Conditions

variable {s t : State} (h : s.sameLasting t) (hadm : ∀ p, t.admitted p = s.admitted p)
include h

theorem State.clockFloor_congr {p : Nat} (hp : p < 4) : t.clockFloor p = s.clockFloor p := by
  have hreg : ∀ p < 4, outlasts (Reg.tickClockFloor_floor100mhz p).addr = true := by decide
  exact h.get _ (hreg p hp)

theorem State.clockFloors_congr (f : Nat → Bool) :
    ((List.range 4).filter f).map t.clockFloor = ((List.range 4).filter f).map s.clockFloor :=
  List.map_congr_left fun _ hp => State.clockFloor_congr h (List.mem_range.mp (List.mem_filter.mp hp).1)

theorem State.partExists_congr : t.partExists = s.partExists := by
  have hdie : t.diePart = s.diePart := by
    funext d
    rw [State.diePart, State.diePart, h.reg 0xD00018 (by decide)]
  funext p
  rw [State.partExists, State.partExists, State.diesOf, State.diesOf, hdie]

include hadm

theorem State.admittedFloor_congr : t.admittedFloor = s.admittedFloor := by
  have hfloors := State.clockFloors_congr h
  unfold State.admittedFloor
  simp only [hadm, hfloors]

theorem State.busFloor_congr : t.busFloor = s.busFloor := by
  have hfloors := State.clockFloors_congr h
  unfold State.busFloor
  simp only [State.admittedFloor_congr h hadm, State.partExists_congr h, hfloors]

theorem State.testCause_congr (hpower : t.power = s.power) (hfit : t.fitted = s.fitted) : t.testCause = s.testCause := by
  have hbus : t.busState = s.busState := h.get _ (by decide)
  have hmv : t.get Reg.pwrBus_voltMv = s.get Reg.pwrBus_voltMv := h.get _ (by decide)
  have hclock : t.get Reg.pwrClock_now100mhz = s.get Reg.pwrClock_now100mhz := h.get _ (by decide)
  have htarget : t.clockTarget = s.clockTarget := by
    unfold State.clockTarget
    rw [hpower, hbus, State.busFloor_congr h hadm, State.admittedFloor_congr h hadm]
  unfold State.testCause
  rw [hpower, hfit, hbus, hmv, hclock, htarget]

end Conditions

theorem State.testCause_lt {s : State} {c : Nat} (h : s.testCause = some c) : c < 2 ^ 3 := by
  unfold State.testCause at h
  dsimp only at h
  generalize (if s.power.testing then s.get Reg.pwrClock_now100mhz == testClock
    else decide (testClock ≤ s.clockTarget.1)) = clock at h
  split at h
  · cases h
    decide
  · split at h
    · cases h
      decide
    · split at h
      · cases h
        decide
      · cases h

/-! ### The test and its deferral (R427) -/

theorem State.off_orderlyOff (s : State) : s.orderlyOff.power.off = true := (State.leavesSealed_orderlyOff rfl).off

/-- A deferral turns the module off, and the record shows it with its cause. -/
theorem State.deferTest_shows_cause (s : State) {cause : Nat} (hc : cause < 16) (done : List BistItem) :
    (s.deferTest cause done).power.off = true ∧ (s.deferTest cause done).get Reg.bistRecord_state = 4 ∧
      (s.deferTest cause done).get Reg.bistRecord_deferCause = cause := by
  unfold State.deferTest
  dsimp only
  refine ⟨State.off_orderlyOff _, ?_, ?_⟩
  · rw [State.get_orderlyOff _ rfl, State.get_raise _ _ _ _ _ rfl, State.get_count _ _ _ _ rfl,
      State.get_putRecord_state]
    rfl
  · rw [State.get_orderlyOff _ rfl, State.get_raise _ _ _ _ _ rfl, State.get_count _ _ _ _ rfl,
      State.get_putRecord_deferCause]
    exact Nat.mod_eq_of_lt hc

theorem State.get_state_shutdownTest (s : State) (items : List BistItem) :
    (s.shutdownTest items).get Reg.bistRecord_state = if failedMap items = 0 then 2 else 3 := by
  unfold State.shutdownTest
  dsimp only
  split
  · rw [State.get_raise _ _ _ _ _ rfl, State.get_count _ _ _ _ rfl, State.get_putRecord_state]
    rfl
  · rw [State.get_raise _ _ _ _ _ rfl, State.get_count _ _ _ _ rfl, State.get_count _ _ _ _ rfl,
      State.get_putRecord_state]
    rfl

theorem State.endTest_of_held {s : State} (h : s.testCause = none) (items : List BistItem) :
    s.endTest items = (s.shutdownTest items).orderlyOff := by
  rw [State.endTest, h]

/-! ### The orderly shut-down goes on (R397) -/

/-- Note whether an accepted orderly shut-down waits for the rings. -/
def State.setOffDue (s : State) (b : Bool) : State := s.modPower (fun w => { w with offDue := b })

/-- An orderly shut-down has saved the log and cleared the secrets. -/
def State.cleared (s : State) : State := (s.setOffDue false).saveLog.clearSecrets

/-- The self-test record says that a shut-down test is under way (R427). -/
def State.testBegun (s : State) : State := s.putRecord { s.selfTest with state := 1, defer_ := 0 }

theorem State.cleared_same (s : State) : (s.setOffDue false).same
    [.regs, .seq, .seqReported, .events, .staging, .parts, .cores, .devQueues, .ports, .intake, .trust, .freeCtr]
    s.cleared :=
  State.clearSecrets_keeps rfl (State.saveLog_keeps rfl (State.same_refl _ _))

theorem State.power_cleared (s : State) : s.cleared.power = { s.power with offDue := false } := s.cleared_same.on .power rfl

theorem State.sameLasting_cleared (s : State) : s.sameLasting s.cleared := by
  have hlog : s.sameLasting (s.setOffDue false).saveLog := State.sameLasting_of_regs rfl
  exact hlog.trans (State.sameLasting_clearSecrets _)

theorem State.flag_cleared (s : State) : s.cleared.flag Reg.bistControl_atShutdown = s.flag Reg.bistControl_atShutdown := by
  rw [State.flag, State.flag, s.sameLasting_cleared.get _ (by decide)]

theorem State.testBegun_same (s : State) : s.same [.regs, .trust] s.testBegun :=
  State.putRecord_keeps rfl (State.same_refl _ s)

theorem State.testCause_testBegun (s : State) : s.cleared.testBegun.testCause = s.testCause := by
  have hbegun := s.cleared.testBegun_same
  have hdue : (s.setOffDue false).sameLasting s := State.sameLasting_of_regs rfl
  have hregs := (hdue.trans s.sameLasting_cleared).trans (State.sameLasting_putRecord s.cleared
    { s.cleared.selfTest with state := 1, defer_ := 0 })
  have hadm : ∀ p, s.cleared.testBegun.admitted p = s.admitted p := fun p =>
    (congrArg (fun q => q.phase.isAdmitted) (State.part_congr p (hbegun.on .parts rfl))).trans
      (State.admitted_clearSecrets _ p)
  exact State.testCause_congr (s := s.setOffDue false) hregs hadm ((hbegun.on .power rfl).trans s.power_cleared)
    ((hbegun.on .fitted rfl).trans (s.cleared_same.on .fitted rfl))

section Off

variable {s : State} (test : List BistItem)

theorem State.goOff_of_no_test (h : s.flag Reg.bistControl_atShutdown = false) : s.goOff test = s.cleared.orderlyOff := by
  have hflag := s.flag_cleared.trans h
  exact if_pos (by rw [State.cleared] at hflag; exact congrArg not hflag)

theorem State.goOff_of_test_asked (h : s.flag Reg.bistControl_atShutdown = true) :
    s.goOff test = s.testCause.elim
      (if test.isEmpty then s.cleared.testBegun.saveForTest else s.cleared.testBegun.saveForTest.endTest test)
      (fun c => s.cleared.testBegun.deferTest c []) := by
  have hflag := s.flag_cleared.trans h
  have hcause := s.testCause_testBegun
  unfold State.testBegun State.cleared State.setOffDue at *
  rw [State.goOff]
  dsimp only at *
  rw [hflag, hcause]
  cases s.testCause <;> rfl

theorem State.goOff_of_deferred (h : s.flag Reg.bistControl_atShutdown = true) {c : Nat} (hc : s.testCause = some c) :
    s.goOff test = s.cleared.testBegun.deferTest c [] := by
  rw [State.goOff_of_test_asked test h, hc, Option.elim_some]

theorem State.goOff_of_test (h : s.flag Reg.bistControl_atShutdown = true) (hc : s.testCause = none) :
    s.goOff [] = s.cleared.testBegun.saveForTest := by
  rw [State.goOff_of_test_asked [] h, hc, Option.elim_none, if_pos List.isEmpty_nil]

end Off

theorem State.goOff_setOffDue (s : State) (b : Bool) (test : List BistItem) : (s.setOffDue b).goOff test = s.goOff test := by
  have hdue : (s.setOffDue b).modPower (fun w => { w with offDue := false }) =
      s.modPower (fun w => { w with offDue := false }) := rfl
  rw [State.goOff, State.goOff, hdue]

theorem State.carryOff_of_free {s : State} (hdue : s.power.offDue = true) (hidle : s.allIdle = true)
    (hrings : s.ringsBusy = false) (test : List BistItem) : s.carryOff test = s.goOff test :=
  if_neg (by simp [hdue, hidle, hrings])

theorem State.carryOff_of_busy {s : State} (hrings : s.ringsBusy = true) (test : List BistItem) : s.carryOff test = s :=
  if_pos (by simp [hrings])

theorem State.leavesSealed_cleared_orderlyOff (s : State) : s.leavesSealed s.cleared.orderlyOff :=
  State.leavesSealed_orderlyOff
    (State.sealedOnly_congr (s.cleared_same.on .neg rfl) (State.sealedBase_congr s.sameLasting_cleared))

theorem State.trust_putRecord (s : State) (r : BistRecord) : (s.putRecord r).trust = { s.trust with record := r.flash } := by
  have hitems : ∀ t : State, t.same [.regs] (t.putItems r.items) := fun t =>
    foldl_keeps _ _ (fun _ _ h => State.setReg_keeps rfl h) (State.same_refl _ t)
  rw [State.putRecord_eq]
  exact (hitems _).on .trust rfl

theorem State.get_saveForTest (s : State) {f : Fld} (hf : Reg.pwrClock_now100mhz.addr ≠ f.addr) :
    s.saveForTest.get f = s.get f := by
  unfold State.saveForTest
  dsimp only
  rw [State.get_congr f (State.modPower_regs ..), State.get_set_apart _ Reg.pwrClock_target100mhz _ _ (.inl hf),
    State.get_set_apart _ _ _ _ (.inl hf)]
  exact State.get_congr f rfl

theorem State.power_saveForTest (s : State) : s.saveForTest.power = { s.power with testing := true } := by
  unfold State.saveForTest State.modPower
  dsimp only [State.set_power, State.useFree]
  rfl

theorem State.retained_saveForTest (s : State) : s.saveForTest.trust.retained = s.saveForTest.trust.calibration := rfl

theorem State.saved_saveForTest (s : State) : s.saveForTest.trust.saved = s.trust.testArea := rfl

/-- A test that begins leaves the module on, shows itself in the record, and has saved the calibration and the test area. -/
theorem State.saveForTest_begins_test (s : State) :
    let t := s.cleared.testBegun.saveForTest
    t.power.off = s.power.off ∧ t.power.testing = true ∧ t.get Reg.bistRecord_state = 1 ∧
      t.trust.retained = t.trust.calibration ∧ t.trust.saved = s.trust.testArea := by
  have hpower : s.cleared.testBegun.power = { s.power with offDue := false } :=
    (s.cleared.testBegun_same.on .power rfl).trans s.power_cleared
  have harea : s.cleared.testBegun.trust.testArea = s.trust.testArea := by
    rw [State.testBegun, State.trust_putRecord, State.cleared, State.trust_clearSecrets]
    rfl
  have hstate : s.cleared.testBegun.get Reg.bistRecord_state = 1 := State.get_putRecord_state ..
  dsimp only
  rw [State.power_saveForTest, hpower, State.get_saveForTest _ (by decide), hstate, State.saved_saveForTest, harea]
  exact ⟨rfl, rfl, rfl, State.retained_saveForTest _, rfl⟩

theorem State.finishWrite_carryOff {s : State} (hdue : s.power.offDue = true) (hidle : s.allIdle = true)
    (hrings : s.ringsBusy = false) (h : s.flag Reg.bistControl_atShutdown = false) :
    (s.carryOff []).finishWrite = s.cleared.orderlyOff := by
  rw [State.carryOff_of_free hdue hidle hrings, State.goOff_of_no_test [] h, State.finishWrite_orderlyOff]

/-- While the block idles, an accepted shut-down whose rings are free goes off. -/
theorem State.idle_of_offDue {s : State} (hdue : s.power.offDue = true) (hidle : s.allIdle = true)
    (hrings : s.ringsBusy = false) (h : s.flag Reg.bistControl_atShutdown = false) :
    s.idle = s.passTime.cleared.orderlyOff := by
  obtain ⟨x, hx⟩ : ∃ x, s.passTime = { s with time := x } := by
    unfold State.passTime
    split <;> exact ⟨_, rfl⟩
  rw [State.idle, hx]
  exact State.finishWrite_carryOff (s := { s with time := x }) hdue hidle hrings h

/-! ### The command of the orderly shut-down (R397) -/

section Command

variable {s : State} {pldm : Bool} (test : List BistItem) (hon : s.power.off = false) (hready : pldm = true ∨ s.ready = true)
include hon hready

theorem doOrderlyShutdown_of_testing (ht : s.power.testing = true) : doOrderlyShutdown pldm test s = s.endTest test := by
  rw [doOrderlyShutdown, if_neg (by rcases hready with h | h <;> simp [hon, h]), if_pos ht]

variable (ht : s.power.testing = false)
include ht

theorem doOrderlyShutdown_of_due (hdue : s.power.offDue = true) : doOrderlyShutdown pldm test s = s.carryOff test := by
  rw [doOrderlyShutdown, if_neg (by rcases hready with h | h <;> simp [hon, h]), if_neg (by simp [ht]), if_pos hdue]

theorem doOrderlyShutdown_of_idle (hdue : s.power.offDue = false) (hidle : s.allIdle = true) :
    doOrderlyShutdown pldm test s = (s.setOffDue true).carryOff test := by
  rw [doOrderlyShutdown, if_neg (by rcases hready with h | h <;> simp [hon, h]), if_neg (by simp [ht]),
    if_neg (by simp [hdue]), if_neg (by simp [hidle])]
  rfl

theorem doOrderlyShutdown_of_free (hidle : s.allIdle = true) (hrings : s.ringsBusy = false) :
    doOrderlyShutdown pldm test s = s.goOff test := by
  cases hdue : s.power.offDue with
  | false =>
    rw [doOrderlyShutdown_of_idle test hon hready ht hdue hidle]
    exact (State.carryOff_of_free (s := s.setOffDue true) rfl hidle hrings test).trans (s.goOff_setOffDue true test)
  | true =>
    rw [doOrderlyShutdown_of_due test hon hready ht hdue]
    exact State.carryOff_of_free hdue hidle hrings test

end Command

theorem doOrderlyShutdown_of_not_idle {s : State} (test : List BistItem) (hon : s.power.off = false) (hready : s.ready = true)
    (ht : s.power.testing = false) (hdue : s.power.offDue = false) (hidle : s.allIdle = false) :
    doOrderlyShutdown false test s = s.raise Ev.regWriteRefused UnitId.module { value := 0xC00008, value2 := 1 } := by
  rw [doOrderlyShutdown, if_neg (by simp [hon, hready]), if_neg (by simp [ht]), if_neg (by simp [hdue]),
    if_pos (by simp [hidle])]
  rfl

/-- Settles O55: either emergency shut-down writes nothing of the Negative store before the rails go off; an orderly one is
refused, waits, or goes on by what the partitions and the rings do, and its test by R427's conditions. -/
theorem shutDownsGoOff : Obligations.ShutDownsGoOff := by
  refine ⟨⟨fun s mv cause hon hbus hc => ?busFail, fun s sensor tenths limit hon htrip hle => ?trip,
      fun s sensor tenths limit hon htrip hlt => ?below, fun s cause hon => next_whenOn_of_eq hon rfl,
      fun s hon => next_whenOn_of_eq hon rfl⟩,
    fun s test hon hready ht hdue hidle => ?refused, fun s test hon hready => ?notReady,
    fun s pldm test hon hready ht hdue hidle hrings => ?waits, fun s hon hpend hdue hidle hrings hflag => ?idle,
    fun s pldm hon hready hidle hrings ht => ⟨fun hflag => ?off, fun hflag hcause => ?test,
      fun c hflag hcause => ?deferred⟩,
    fun s pldm test hon hready ht hcause => ?results, fun s cause done hon ht hc => ?ends⟩
  case busFail =>
    have hsealed := ((State.sealedOnly_saveAll _ .power 2).trans (State.sealedOnly_raise _ Ev.busFail UnitId.power
      { value := mv, cause := cause })).trans (State.sealedOnly_set_busState s 3)
    have hleft := ((State.leavesSealed_railsOff hsealed).set Reg.pwrStatus_busState 4).withPending s.pending
    exact ⟨_, next_whenOn_of_eq hon (doBusFail_of_failure hon hbus hc), hleft.off,
      (State.get_withPending ..).trans (State.get_set_self ..), hleft.mem, hleft.staging, hleft.neg, hleft.sessions,
      hleft.memKeys⟩
  case trip =>
    have hsealed := (State.sealedOnly_saveAll _ .thermal 3).trans (State.sealedOnly_raise s Ev.thermalTrip
      (UnitId.sensor sensor) { object := sensor })
    have hleft := (State.leavesSealed_railsOff hsealed).withPending s.pending
    exact ⟨_, next_whenOn_of_eq hon (doThermalTrip_of_reached hon htrip hle), hleft.off, hleft.mem, hleft.neg⟩
  case below => exact next_whenOn_of_eq hon (doThermalTrip_of_below htrip hlt)
  case refused => exact next_whenOn_of_eq hon (doOrderlyShutdown_of_not_idle test hon hready ht hdue hidle)
  case notReady => exact next_whenOn_of_eq hon (if_pos (by simp [hready]))
  case waits =>
    exact next_whenOn_of_eq hon ((doOrderlyShutdown_of_idle test hon hready ht hdue hidle).trans
      (State.carryOff_of_busy (s := s.setOffDue true) hrings test))
  case idle =>
    exact ⟨_, (step_of_idle hpend).trans (congrArg Host.Outcome.next (State.idle_of_offDue hdue hidle hrings hflag)),
      State.off_orderlyOff _⟩
  case off =>
    have hleft := s.leavesSealed_cleared_orderlyOff.withPending s.pending
    exact ⟨_, next_whenOn_of_eq hon ((doOrderlyShutdown_of_free [] hon hready ht hidle hrings).trans
      (State.goOff_of_no_test [] hflag)), hleft.off, hleft.mem, hleft.neg⟩
  case test =>
    obtain ⟨hoff, htest, hstate, hret, hsaved⟩ := s.saveForTest_begins_test
    exact ⟨_, next_whenOn_of_eq hon ((doOrderlyShutdown_of_free [] hon hready ht hidle hrings).trans
      (State.goOff_of_test hflag hcause)), hoff.trans hon, htest, (State.get_withPending ..).trans hstate, hret, hsaved⟩
  case deferred =>
    have hlt := State.testCause_lt hcause
    obtain ⟨hoff, hstate, hdefer⟩ := s.cleared.testBegun.deferTest_shows_cause (cause := c) (by omega) []
    exact ⟨_, next_whenOn_of_eq hon ((doOrderlyShutdown_of_free [] hon hready ht hidle hrings).trans
      (State.goOff_of_deferred [] hflag hcause)), hoff, (State.get_withPending ..).trans hstate,
      (State.get_withPending ..).trans hdefer⟩
  case results =>
    exact ⟨_, next_whenOn_of_eq hon ((doOrderlyShutdown_of_testing test hon hready ht).trans
      (State.endTest_of_held hcause test)), State.off_orderlyOff (s.shutdownTest test),
      ((State.get_withPending ..).trans (State.get_orderlyOff _ rfl)).trans (s.get_state_shutdownTest test)⟩
  case ends =>
    obtain ⟨hoff, hstate, hdefer⟩ := s.deferTest_shows_cause hc done
    exact ⟨_, next_whenOn_of_eq hon (if_neg (by simp [ht])), hoff, (State.get_withPending ..).trans hstate,
      (State.get_withPending ..).trans hdefer⟩

end Sys2Proof.Machine
end

/-! # Every command of the block: its outcome, its frame, and the rails (00_scope.md, R394, R396) -/

section

set_option Elab.async false

open Sys2Proof Sys2Proof.Machine

namespace Sys2Proof.Machine

/-- The command runs one operation, on a module whose rails are on (R396), and the operation touches no field but those that
`mayChange` lists for the command. -/
def RunsWhenOn (c : Instr) : Prop :=
  ∃ f : State → State, (∀ s, exec c s = .next (s.whenOn f)) ∧ ∀ s : State, s.same (mayChange c) (f s)

theorem RunsWhenOn.intro {c : Instr} {f : State → State} (he : ∀ s, exec c s = .next (s.whenOn f))
    (hf : ∀ {s s0 : State}, s0.same (mayChange c) s → s0.same (mayChange c) (f s)) : RunsWhenOn c :=
  ⟨f, he, fun s => hf (State.same_refl _ s)⟩

theorem runsWhenOn {c : Instr} (hc : ∀ mv, c ≠ .busReturn mv) : RunsWhenOn c := by
  cases c with
  | bar0BadSizeAccess => exact .intro (fun _ => rfl) (doBar0BadSizeAccess_keeps rfl)
  | reservedRangeAccess => exact .intro (fun _ => rfl) (doReservedRangeAccess_keeps rfl)
  | pairLowRead => exact .intro (fun _ => rfl) (doPairLowRead_keeps rfl)
  | pairLowWrite => exact .intro (fun _ => rfl) (doPairLowWrite_keeps rfl)
  | pairHighWrite => exact .intro (fun _ => rfl) (doPairHighWrite_keeps rfl)
  | registerWrite => exact .intro (fun _ => rfl) (doRegisterWrite_keeps rfl)
  | counterClear => exact .intro (fun _ => rfl) (doCounterClear_keeps rfl)
  | layerReplaysClear => exact .intro (fun _ => rfl) (doLayerReplaysClear_keeps rfl)
  | tickStartWrite => exact .intro (fun _ => rfl) (doTickStartWrite_keeps rfl)
  | withdraw => exact .intro (fun _ => rfl) (doWithdraw_keeps rfl)
  | planWithdrawal => exact .intro (fun _ => rfl) (doPlanWithdrawal_keeps rfl)
  | shutterTick => exact .intro (fun _ => rfl) (doShutterTick_keeps rfl)
  | stepZeroStart => exact .intro (fun _ => rfl) (doStepZeroStart_keeps rfl)
  | stepEnd => exact .intro (fun _ => rfl) (doStepEnd_keeps rfl)
  | stepHeld => exact .intro (fun _ => rfl) (doStepHeld_keeps rfl)
  | stepHoldLimit => exact .intro (fun _ => rfl) (doStepHoldLimit_keeps rfl)
  | promotionExpiry => exact .intro (fun _ => rfl) (doPromotionExpiry_keeps rfl)
  | completionNotice => exact .intro (fun _ => rfl) (doCompletionNotice_keeps rfl)
  | timeLockTimeout => exact .intro (fun _ => rfl) (doTimeLockTimeout_keeps rfl)
  | doorbellTail => exact .intro (fun _ => rfl) (doDoorbellTail_keeps rfl)
  | doorbellCompletionHead => exact .intro (fun _ => rfl) (doDoorbellCompletionHead_keeps rfl)
  | doorbellBad => exact .intro (fun _ => rfl) (doDoorbellBad_keeps rfl)
  | winAccessBad => exact .intro (fun _ => rfl) (doWinAccessBad_keeps rfl)
  | descriptorFetch => exact .intro (fun _ => rfl) (doDescriptorFetch_keeps rfl)
  | nop => exact .intro (fun _ => rfl) (doNop_keeps rfl)
  | loadPlan => exact .intro (fun _ => rfl) (doLoadPlan_keeps rfl)
  | admitPlan => exact .intro (fun _ => rfl) (doAdmitPlan_keeps rfl)
  | lightMeterDone => exact .intro (fun _ => rfl) (doLightMeterDone_keeps rfl)
  | unloadPlan => exact .intro (fun _ => rfl) (doUnloadPlan_keeps rfl)
  | copyIn => exact .intro (fun _ => rfl) (doCopyIn_keeps rfl)
  | copyOut => exact .intro (fun _ => rfl) (doCopyOut_keeps rfl)
  | copyDone => exact .intro (fun _ => rfl) (doCopyDone_keeps rfl)
  | fence => exact .intro (fun _ => rfl) (doFence_keeps rfl)
  | contextOpen => exact .intro (fun _ => rfl) (doContextOpen_keeps rfl)
  | contextFork => exact .intro (fun _ => rfl) (doContextFork_keeps rfl)
  | contextClose => exact .intro (fun _ => rfl) (doContextClose_keeps rfl)
  | contextApply => exact .intro (fun _ => rfl) (doContextApply_keeps rfl)
  | clearTableLoad => exact .intro (fun _ => rfl) (doClearTableLoad_keeps rfl)
  | clearTableMakeCurrent => exact .intro (fun _ => rfl) (doClearTableMakeCurrent_keeps rfl)
  | clearTableDiscard => exact .intro (fun _ => rfl) (doClearTableDiscard_keeps rfl)
  | clearTableApply => exact .intro (fun _ => rfl) (doClearTableApply_keeps rfl)
  | clearGenFreed => exact .intro (fun _ => rfl) (doClearGenFreed_keeps rfl)
  | dictionaryLoad => exact .intro (fun _ => rfl) (doDictionaryLoad_keeps rfl)
  | dictionaryLoadDone => exact .intro (fun _ => rfl) (doDictionaryLoadDone_keeps rfl)
  | dictionaryActivate => exact .intro (fun _ => rfl) (doDictionaryActivate_keeps rfl)
  | dictionaryActivateApply => exact .intro (fun _ => rfl) (doDictionaryActivateApply_keeps rfl)
  | reshardPrepare => exact .intro (fun _ => rfl) (doReshardPrepare_keeps rfl)
  | reshardCommit => exact .intro (fun _ => rfl) (doReshardCommit_keeps rfl)
  | reshardCancel => exact .intro (fun _ => rfl) (doReshardCancel_keeps rfl)
  | reshardBoundary => exact .intro (fun _ => rfl) (doReshardBoundary_keeps rfl)
  | epochDrainTimeout => exact .intro (fun _ => rfl) (doEpochDrainTimeout_keeps rfl)
  | secure => exact .intro (fun _ => rfl) (doSecure_keeps rfl)
  | completionWrite => exact .intro (fun _ => rfl) (doCompletionWrite_keeps rfl)
  | ringReset => exact .intro (fun _ => rfl) (doRingReset_keeps rfl)
  | ringResetDone => exact .intro (fun _ => rfl) (doRingResetDone_keeps rfl)
  | poolConfigWrite => exact .intro (fun _ => rfl) (doPoolConfigWrite_keeps rfl)
  | slotFlip => exact .intro (fun _ => rfl) (doSlotFlip_keeps rfl)
  | slotTimeout => exact .intro (fun _ => rfl) (doSlotTimeout_keeps rfl)
  | windowWrite => exact .intro (fun _ => rfl) (doWindowWrite_keeps rfl)
  | windowRead => exact .intro (fun _ => rfl) (doWindowRead_keeps rfl)
  | taskIssue => exact .intro (fun _ => rfl) (doTaskIssue_keeps rfl)
  | tokenReceived => exact .intro (fun _ => rfl) (doTokenReceived_keeps rfl)
  | creditReceived => exact .intro (fun _ => rfl) (doCreditReceived_keeps rfl)
  | taskCompletion => exact .intro (fun _ => rfl) (doTaskCompletion_keeps rfl)
  | tilingRecord => exact .intro (fun _ => rfl) (doTilingRecord_keeps rfl)
  | shapeSearchDone => exact .intro (fun _ => rfl) (doShapeSearchDone_keeps rfl)
  | matrixProduct => exact .intro (fun _ => rfl) (doMatrixProduct_keeps rfl)
  | dataGradientProduct => exact .intro (fun _ => rfl) (doDataGradientProduct_keeps rfl)
  | weightGradientProduct => exact .intro (fun _ => rfl) (doWeightGradientProduct_keeps rfl)
  | attentionForward => exact .intro (fun _ => rfl) (doAttentionForward_keeps rfl)
  | attentionBackward => exact .intro (fun _ => rfl) (doAttentionBackward_keeps rfl)
  | convForward => exact .intro (fun _ => rfl) (doConvForward_keeps rfl)
  | convDataGradient => exact .intro (fun _ => rfl) (doConvDataGradient_keeps rfl)
  | convWeightGradient => exact .intro (fun _ => rfl) (doConvWeightGradient_keeps rfl)
  | cropAndResize => exact .intro (fun _ => rfl) (doCropAndResize_keeps rfl)
  | channelArgmax => exact .intro (fun _ => rfl) (doChannelArgmax_keeps rfl)
  | vectorKernel => exact .intro (fun _ => rfl) (doVectorKernel_keeps rfl)
  | gather => exact .intro (fun _ => rfl) (doGather_keeps rfl)
  | scatter => exact .intro (fun _ => rfl) (doScatter_keeps rfl)
  | scatterAdd => exact .intro (fun _ => rfl) (doScatterAdd_keeps rfl)
  | expertDispatch => exact .intro (fun _ => rfl) (doExpertDispatch_keeps rfl)
  | variantDispatch => exact .intro (fun _ => rfl) (doVariantDispatch_keeps rfl)
  | expertDispatchBackward => exact .intro (fun _ => rfl) (doExpertDispatchBackward_keeps rfl)
  | variantDispatchBackward => exact .intro (fun _ => rfl) (doVariantDispatchBackward_keeps rfl)
  | expertCombine => exact .intro (fun _ => rfl) (doExpertCombine_keeps rfl)
  | variantCombine => exact .intro (fun _ => rfl) (doVariantCombine_keeps rfl)
  | expertCombineBackward => exact .intro (fun _ => rfl) (doExpertCombineBackward_keeps rfl)
  | variantCombineBackward => exact .intro (fun _ => rfl) (doVariantCombineBackward_keeps rfl)
  | offload => exact .intro (fun _ => rfl) (doOffload_keeps rfl)
  | fetch => exact .intro (fun _ => rfl) (doFetch_keeps rfl)
  | encode => exact .intro (fun _ => rfl) (doEncode_keeps rfl)
  | decode => exact .intro (fun _ => rfl) (doDecode_keeps rfl)
  | recode => exact .intro (fun _ => rfl) (doRecode_keeps rfl)
  | fabricSend => exact .intro (fun _ => rfl) (doFabricSend_keeps rfl)
  | fabricReceive => exact .intro (fun _ => rfl) (doFabricReceive_keeps rfl)
  | localCopy => exact .intro (fun _ => rfl) (doLocalCopy_keeps rfl)
  | reduction => exact .intro (fun _ => rfl) (doReduction_keeps rfl)
  | groupUpdate => exact .intro (fun _ => rfl) (doGroupUpdate_keeps rfl)
  | takeBatch => exact .intro (fun _ => rfl) (doTakeBatch_keeps rfl)
  | emitOutput => exact .intro (fun _ => rfl) (doEmitOutput_keeps rfl)
  | join => exact .intro (fun _ => rfl) (doJoin_keeps rfl)
  | queuePtrMismatch => exact .intro (fun _ => rfl) (doQueuePtrMismatch_keeps rfl)
  | coreFailed => exact .intro (fun _ => rfl) (doCoreFailed_keeps rfl)
  | d2dTransferFail => exact .intro (fun _ => rfl) (doD2dTransferFail_keeps rfl)
  | uncorrectableError => exact .intro (fun _ => rfl) (doUncorrectableError_keeps rfl)
  | hbmRowFailure => exact .intro (fun _ => rfl) (doHbmRowFailure_keeps rfl)
  | portTrained => exact .intro (fun _ => rfl) (doPortTrained_keeps rfl)
  | portTrainingTimeout => exact .intro (fun _ => rfl) (doPortTrainingTimeout_keeps rfl)
  | laneFailure => exact .intro (fun _ => rfl) (doLaneFailure_keeps rfl)
  | portTakeDown => exact .intro (fun _ => rfl) (doPortTakeDown_keeps rfl)
  | flitReceive => exact .intro (fun _ => rfl) (doFlitReceive_keeps rfl)
  | flitReplay => exact .intro (fun _ => rfl) (doFlitReplay_keeps rfl)
  | controlFlit => exact .intro (fun _ => rfl) (doControlFlit_keeps rfl)
  | outputArbitration => exact .intro (fun _ => rfl) (doOutputArbitration_keeps rfl)
  | packetRelay => exact .intro (fun _ => rfl) (doPacketRelay_keeps rfl)
  | dataPacket => exact .intro (fun _ => rfl) (doDataPacket_keeps rfl)
  | reductionPartial => exact .intro (fun _ => rfl) (doReductionPartial_keeps rfl)
  | reductionResult => exact .intro (fun _ => rfl) (doReductionResult_keeps rfl)
  | sideband => exact .intro (fun _ => rfl) (doSideband_keeps rfl)
  | fenceMarker => exact .intro (fun _ => rfl) (doFenceMarker_keeps rfl)
  | routeSwitch => exact .intro (fun _ => rfl) (doRouteSwitch_keeps rfl)
  | routeSwitchApply => exact .intro (fun _ => rfl) (doRouteSwitchApply_keeps rfl)
  | landingCredit => exact .intro (fun _ => rfl) (doLandingCredit_keeps rfl)
  | slotWindowStart => exact .intro (fun _ => rfl) (doSlotWindowStart_keeps rfl)
  | lateTransmit => exact .intro (fun _ => rfl) (doLateTransmit_keeps rfl)
  | bulkMirrorData => exact .intro (fun _ => rfl) (doBulkMirrorData_keeps rfl)
  | bulkMirrorSeal => exact .intro (fun _ => rfl) (doBulkMirrorSeal_keeps rfl)
  | takeoverRequest => exact .intro (fun _ => rfl) (doTakeoverRequest_keeps rfl)
  | takeoverWrite => exact .intro (fun _ => rfl) (doTakeoverWrite_keeps rfl)
  | itemRequest => exact .intro (fun _ => rfl) (doItemRequest_keeps rfl)
  | itemData => exact .intro (fun _ => rfl) (doItemData_keeps rfl)
  | itemSealRecord => exact .intro (fun _ => rfl) (doItemSealRecord_keeps rfl)
  | takeoverDone => exact .intro (fun _ => rfl) (doTakeoverDone_keeps rfl)
  | recoveryImageRequest => exact .intro (fun _ => rfl) (doRecoveryImageRequest_keeps rfl)
  | recoveryImageData => exact .intro (fun _ => rfl) (doRecoveryImageData_keeps rfl)
  | recoveryImageEnd => exact .intro (fun _ => rfl) (doRecoveryImageEnd_keeps rfl)
  | recoveryPoll => exact .intro (fun _ => rfl) (doRecoveryPoll_keeps rfl)
  | sampleStart => exact .intro (fun _ => rfl) (doSampleStart_keeps rfl)
  | sampleConverted => exact .intro (fun _ => rfl) (doSampleConverted_keeps rfl)
  | sampleSlow => exact .intro (fun _ => rfl) (doSampleSlow_keeps rfl)
  | reserveCopyDone => exact .intro (fun _ => rfl) (doReserveCopyDone_keeps rfl)
  | sweepStart => exact .intro (fun _ => rfl) (doSweepStart_keeps rfl)
  | sweepDone => exact .intro (fun _ => rfl) (doSweepDone_keeps rfl)
  | privilegedCopy => exact .intro (fun _ => rfl) (doPrivilegedCopy_keeps rfl)
  | sealWritten => exact .intro (fun _ => rfl) (doSealWritten_keeps rfl)
  | mirrorSend => exact .intro (fun _ => rfl) (doMirrorSend_keeps rfl)
  | drainComplete => exact .intro (fun _ => rfl) (doDrainComplete_keeps rfl)
  | planResume => exact .intro (fun _ => rfl) (doPlanResume_keeps rfl)
  | handoverSent => exact .intro (fun _ => rfl) (doHandoverSent_keeps rfl)
  | admissionRestoreDone => exact .intro (fun _ => rfl) (doAdmissionRestoreDone_keeps rfl)
  | negStoreWipeDone => exact .intro (fun _ => rfl) (doNegStoreWipeDone_keeps rfl)
  | sealedSizeWrite => exact .intro (fun _ => rfl) (doSealedSizeWrite_keeps rfl)
  | groupFreezeWrite => exact .intro (fun _ => rfl) (doGroupFreezeWrite_keeps rfl)
  | throttleEval => exact .intro (fun _ => rfl) (doThrottleEval_keeps rfl)
  | powerCapWrite => exact .intro (fun _ => rfl) (doPowerCapWrite_keeps rfl)
  | busDroop => exact .intro (fun _ => rfl) (doBusDroop_keeps rfl)
  | busNormal => exact .intro (fun _ => rfl) (doBusNormal_keeps rfl)
  | busLow => exact .intro (fun _ => rfl) (doBusLow_keeps rfl)
  | busLowRecover => exact .intro (fun _ => rfl) (doBusLowRecover_keeps rfl)
  | busFail => exact .intro (fun _ => rfl) (doBusFail_keeps rfl)
  | busSurge => exact .intro (fun _ => rfl) (doBusSurge_keeps rfl)
  | busReturn mv => exact absurd rfl (hc mv)
  | thermalTrip => exact .intro (fun _ => rfl) (doThermalTrip_keeps rfl)
  | coolantCheck => exact .intro (fun _ => rfl) (doCoolantCheck_keeps rfl)
  | powerStateEntry => exact .intro (fun _ => rfl) (doPowerStateEntry_keeps rfl)
  | powerStateExit => exact .intro (fun _ => rfl) (doPowerStateExit_keeps rfl)
  | orderlyShutdown => exact .intro (fun _ => rfl) (doOrderlyShutdown_keeps rfl)
  | shutdownTestDeferred => exact .intro (fun _ => rfl) (doShutdownTestDeferred_keeps rfl)
  | warmReset => exact .intro (fun _ => rfl) (doWarmReset_keeps rfl)
  | watchdogReset => exact .intro (fun _ => rfl) (doWatchdogReset_keeps rfl)
  | startUp => exact .intro (fun _ => rfl) (doStartUp_keeps rfl)
  | hostPortReset => exact .intro (fun _ => rfl) (doHostPortReset_keeps rfl)
  | mbxStatus => exact .intro (fun _ => rfl) (doMbxStatus_keeps rfl)
  | mbxImageBegin => exact .intro (fun _ => rfl) (doMbxImageBegin_keeps rfl)
  | mbxImageData => exact .intro (fun _ => rfl) (doMbxImageData_keeps rfl)
  | mbxImageEnd => exact .intro (fun _ => rfl) (doMbxImageEnd_keeps rfl)
  | mbxAbort => exact .intro (fun _ => rfl) (doMbxAbort_keeps rfl)
  | pldmFirmwareUpdate => exact .intro (fun _ => rfl) (doPldmFirmwareUpdate_keeps rfl)
  | getVersion => exact .intro (fun _ => rfl) (doGetVersion_keeps rfl)
  | getCapabilities => exact .intro (fun _ => rfl) (doGetCapabilities_keeps rfl)
  | negotiateAlgorithms => exact .intro (fun _ => rfl) (doNegotiateAlgorithms_keeps rfl)
  | getDigests => exact .intro (fun _ => rfl) (doGetDigests_keeps rfl)
  | getCertificate => exact .intro (fun _ => rfl) (doGetCertificate_keeps rfl)
  | challenge => exact .intro (fun _ => rfl) (doChallenge_keeps rfl)
  | getMeasurements => exact .intro (fun _ => rfl) (doGetMeasurements_keeps rfl)
  | keyExchange => exact .intro (fun _ => rfl) (doKeyExchange_keeps rfl)
  | finish => exact .intro (fun _ => rfl) (doFinish_keeps rfl)
  | heartbeat => exact .intro (fun _ => rfl) (doHeartbeat_keeps rfl)
  | heartbeatTimeout => exact .intro (fun _ => rfl) (doHeartbeatTimeout_keeps rfl)
  | keyUpdate => exact .intro (fun _ => rfl) (doKeyUpdate_keeps rfl)
  | endSession => exact .intro (fun _ => rfl) (doEndSession_keeps rfl)
  | chunkSend => exact .intro (fun _ => rfl) (doChunkSend_keeps rfl)
  | chunkGet => exact .intro (fun _ => rfl) (doChunkGet_keeps rfl)
  | unsupportedRequest => exact .intro (fun _ => rfl) (doUnsupportedRequest_keeps rfl)
  | bindPartition => exact .intro (fun _ => rfl) (doBindPartition_keeps rfl)
  | setProtected => exact .intro (fun _ => rfl) (doSetProtected_keeps rfl)
  | setFabricKey => exact .intro (fun _ => rfl) (doSetFabricKey_keeps rfl)
  | sealBind => exact .intro (fun _ => rfl) (doSealBind_keeps rfl)
  | unsealRegion => exact .intro (fun _ => rfl) (doUnsealRegion_keeps rfl)
  | setView => exact .intro (fun _ => rfl) (doSetView_keeps rfl)
  | setPartitionMap => exact .intro (fun _ => rfl) (doSetPartitionMap_keeps rfl)
  | lifecycle => exact .intro (fun _ => rfl) (doLifecycle_keeps rfl)
  | takeOwnership => exact .intro (fun _ => rfl) (doTakeOwnership_keeps rfl)
  | vendorReset => exact .intro (fun _ => rfl) (doVendorReset_keeps rfl)
  | gradeRecord => exact .intro (fun _ => rfl) (doGradeRecord_keeps rfl)
  | scanEnable => exact .intro (fun _ => rfl) (doScanEnable_keeps rfl)
  | eventCollect => exact .intro (fun _ => rfl) (doEventCollect_keeps rfl)
  | interruptCoalesceDelay => exact .intro (fun _ => rfl) (doInterruptCoalesceDelay_keeps rfl)

theorem exec_busReturn (mv : Nat) (s : State) : exec (.busReturn mv) s = .next (doBusReturn mv s) := rfl

theorem State.whenOn_pending (s : State) (f : State → State) : (s.whenOn f).pending = s.pending := by
  unfold State.whenOn
  split <;> rfl

theorem State.whenOn_same {s : State} {L : List Field} {f : State → State} (h : s.same L (f s)) : s.same L (s.whenOn f) := by
  unfold State.whenOn
  split
  · exact State.same_refl _ _
  · exact h.withPending _

theorem doBusReturn_pending (mv : Nat) (s : State) : (doBusReturn mv s).pending = s.pending := by
  unfold doBusReturn
  split
  · rfl
  · exact State.resetModule_pending s 0

/-- A command goes on to a state that agrees with the old one on every field it may not change, and on the queue. -/
theorem exec_frame (c : Instr) (s : State) : ∃ t, exec c s = .next t ∧ s.same (mayChange c) t ∧ t.pending = s.pending := by
  by_cases hc : ∀ mv, c ≠ .busReturn mv
  · obtain ⟨f, he, hf⟩ := runsWhenOn hc
    exact ⟨_, he s, State.whenOn_same (hf s), State.whenOn_pending s f⟩
  · obtain ⟨mv, hmv⟩ := Classical.not_forall.mp hc
    obtain rfl := Classical.not_not.mp hmv
    exact ⟨_, exec_busReturn mv s, doBusReturn_keeps rfl (State.same_refl _ s), doBusReturn_pending mv s⟩

theorem exec_of_off {c : Instr} {s : State} (hoff : s.power.off = true) (hc : ∀ mv, c ≠ .busReturn mv) :
    exec c s = .next s := by
  obtain ⟨f, he, -⟩ := runsWhenOn hc
  rw [he s, State.whenOn, if_pos hoff]

theorem doBusReturn_of_low {s : State} {mv : Nat} (h : mv < 46000) : doBusReturn mv s = s :=
  if_pos (.inr h)

/-- Settles O2: a command runs one operation and only while the rails are on, but for the return of the bus, which has its
own limit. -/
theorem everyCommandCompletes : Obligations.EveryCommandCompletes := by
  refine ⟨fun c s => ?_, fun c s hoff hc => exec_of_off hoff hc, fun s mv h => ?_⟩
  · obtain ⟨t, he, -, hq⟩ := exec_frame c s
    exact ⟨t, he, hq⟩
  · rw [exec_busReturn, doBusReturn_of_low h]

/-- Settles O3: the operation of each command keeps the fields that `mayChange` does not list, by its own lemma. -/
theorem everyCommandKeepsItsFrame : Obligations.EveryCommandKeepsItsFrame := by
  intro c s t h
  obtain ⟨u, he, hsame, hq⟩ := exec_frame c s
  obtain rfl : u = t := Host.Outcome.next.inj (he.symm.trans h)
  exact ⟨hsame.on, hq⟩

end Sys2Proof.Machine
end

/-! # Memory and statistic counters (R405, R441, R152) -/

section

set_option Elab.async false

open Sys2Proof Sys2Proof.Machine

namespace Sys2Proof.Machine

/-! ### Memory -/

theorem Memory.readN_writeN (bs : List Byte) (m : Memory) (a : Nat) : (m.writeN a bs).readN a bs.length = bs := by
  induction bs generalizing m a with
  | nil => rfl
  | cons b bs ih =>
    have hfirst : ((m.write a b).writeN (a + 1) bs).read a = b := by
      rw [Memory.read_writeN, if_neg (by omega), Memory.read_write, if_pos rfl]
    exact congr (congrArg List.cons hfirst) (ih (m.write a b) (a + 1))

theorem Memory.read_writeN_outside (bs : List Byte) (m : Memory) {a x : Nat} (h : x < a ∨ a + bs.length ≤ x) :
    (m.writeN a bs).read x = m.read x := by
  rw [Memory.read_writeN, if_neg (by omega)]

theorem lookup_filter_key {α : Type} (f : Nat → Bool) (l : List (Nat × α)) (k : Nat) :
    lookup (l.filter (fun e => f e.1)) k = if f k then lookup l k else none := by
  induction l with
  | nil => simp [lookup]
  | cons e l ih =>
    obtain ⟨j, v⟩ := e
    rw [List.filter_cons]
    by_cases hk : k = j
    · subst hk
      cases hf : f k <;> simp [lookup, ih, hf]
    · cases hf : f j <;> simp [lookup, ih, hk]

theorem Memory.read_wipe (m : Memory) (lo hi x : Nat) :
    (m.wipe lo hi).read x = if x < lo ∨ hi ≤ x then m.read x else Memory.default := by
  have h := lookup_filter_key (fun a => decide (a < lo ∨ hi ≤ a)) m x
  rw [Memory.read, Memory.read, readOr, readOr]
  refine (congrArg (Option.getD · Memory.default) h).trans ?_
  by_cases hx : x < lo ∨ hi ≤ x <;> simp [hx]

/-- Settles O6: what an address reads as after bytes are written, and after a range is wiped. -/
theorem memoryReadsWhatWasWritten : Obligations.MemoryReadsWhatWasWritten := by
  refine ⟨fun m a bs hm => ⟨Memory.wf_writeN bs m a hm, Memory.readN_writeN bs m a, fun x hx => ?_⟩,
    fun m lo hi hm => ⟨Memory.wf_wipe m lo hi hm, fun x hlo hhi => ?_, fun x hx => ?_⟩⟩
  · exact Memory.read_writeN_outside bs m hx
  · rw [Memory.read_wipe, if_neg (by omega)]
  · rw [Memory.read_wipe, if_pos hx]

/-! ### Statistic counters -/

theorem State.withCounters_same (s : State) (l : List (Nat × Nat)) : s.same [.counters] { s with counters := l } := by
  refine ⟨fun k hk => ?_⟩
  cases k
  case counters => exact absurd hk (by decide)
  all_goals exact rfl

theorem State.count_same_of_unsaturated {s : State} {c n : Nat} (h : ¬(s.counter c < counterMax ∧ counterMax ≤ s.counter c + n)) :
    s.same [.counters] (s.count c n) := by
  have heq : s.count c n = { s with counters := writeOr 0 s.counters c (min (s.counter c + n) counterMax) } := if_neg h
  rw [heq]
  exact State.withCounters_same s _

theorem State.pathHas_count_of_saturated {s : State} {c n : Nat} (h : s.counter c < counterMax ∧ counterMax ≤ s.counter c + n) :
    (s.count c n).pathHas Ev.counterSaturated (counterUnit c) { value := c } := by
  unfold State.count
  dsimp only
  rw [if_pos h]
  exact State.pathHas_raise _ _ _ _

/-- The counters among these whose bit in `w` is 1 are cleared. -/
def State.clearMarked (s : State) (w : Nat) (l : List (Nat × Nat)) : State :=
  l.foldl (fun s x => if bitAt w x.2 = 1 then s.clearCounter x.1 else s) s

theorem State.clearMarked_same (s : State) (w : Nat) (l : List (Nat × Nat)) : s.same [.counters] (s.clearMarked w l) := by
  refine foldl_keeps _ _ (fun t x h => ?_) (State.same_refl _ s)
  split
  · exact State.clearCounter_keeps rfl h
  · exact h

theorem State.counter_clearMarked (s : State) (w : Nat) (l : List (Nat × Nat)) (c : Nat) :
    (s.clearMarked w l).counter c = if ∃ x ∈ l, x.1 = c ∧ bitAt w x.2 = 1 then 0 else s.counter c := by
  induction l generalizing s with
  | nil => simp [State.clearMarked]
  | cons x l ih =>
    have hstep : (s.clearMarked w (x :: l)) =
        (if bitAt w x.2 = 1 then s.clearCounter x.1 else s).clearMarked w l := rfl
    rw [hstep, ih]
    by_cases hl : ∃ y ∈ l, y.1 = c ∧ bitAt w y.2 = 1
    · obtain ⟨y, hy, hc⟩ := hl
      rw [if_pos ⟨y, hy, hc⟩, if_pos ⟨y, List.mem_cons_of_mem _ hy, hc⟩]
    · rw [if_neg hl]
      by_cases hb : bitAt w x.2 = 1
      · rw [if_pos hb, State.counter_clearCounter]
        by_cases hx : c = x.1
        · rw [if_pos hx, if_pos ⟨x, List.mem_cons_self, hx.symm, hb⟩]
        · rw [if_neg hx, if_neg]
          rintro ⟨y, hy, hc⟩
          rcases List.mem_cons.mp hy with rfl | hy
          · exact hx hc.1.symm
          · exact hl ⟨y, hy, hc⟩
      · rw [if_neg hb, if_neg]
        rintro ⟨y, hy, hc⟩
        rcases List.mem_cons.mp hy with rfl | hy
        · exact hb hc.2
        · exact hl ⟨y, hy, hc⟩

theorem exists_mem_zipIdx_iff {l : List Nat} {w c : Nat} :
    (∃ x ∈ l.zipIdx, x.1 = c ∧ bitAt w x.2 = 1) ↔ ∃ i, l[i]? = some c ∧ bitAt w i = 1 := by
  constructor
  · rintro ⟨⟨v, i⟩, hx, rfl, hb⟩
    exact ⟨i, List.mem_zipIdx_iff_getElem?.mp hx, hb⟩
  · rintro ⟨i, hi, hb⟩
    exact ⟨(c, i), List.mem_zipIdx_iff_getElem?.mpr hi, rfl, hb⟩

theorem doCounterClear_eq {s : State} {a : Nat} {l : List Nat} (w : Word) (ht : s.takesWrite a = true)
    (hl : RegMap.clearedBy a = some l) : doCounterClear a w s = s.clearMarked w.toNat l.zipIdx := by
  rw [doCounterClear, if_neg (by simp [ht]), hl]
  rfl

/-- A clear register sets the counters of its 1 bits to 0 and changes nothing else. -/
theorem counterClear_clears {s : State} {a : Nat} (w : Word) {l : List Nat} (hon : s.power.off = false)
    (ht : s.takesWrite a = true) (hl : RegMap.clearedBy a = some l) :
    ∃ t, exec (.counterClear a w) s = .next t ∧ s.same [.counters] t ∧
      (∀ c, (∃ i, l[i]? = some c ∧ bitAt w.toNat i = 1) → t.counter c = 0) ∧
      (∀ c, (¬ ∃ i, l[i]? = some c ∧ bitAt w.toNat i = 1) → t.counter c = s.counter c) := by
  have hread : ∀ c, ({ s.clearMarked w.toNat l.zipIdx with pending := s.pending } : State).counter c =
      (s.clearMarked w.toNat l.zipIdx).counter c := fun _ => rfl
  refine ⟨_, next_whenOn_of_eq hon (doCounterClear_eq w ht hl), (State.clearMarked_same s _ _).withPending _,
    fun c hc => ?_, fun c hc => ?_⟩
  · rw [hread, State.counter_clearMarked, if_pos (exists_mem_zipIdx_iff.mpr hc)]
  · rw [hread, State.counter_clearMarked, if_neg (mt exists_mem_zipIdx_iff.mp hc)]

/-- Settles O8: what a counter reads as after a count and after a clear, with the event of the count that saturates it. -/
theorem countersSaturate : Obligations.CountersSaturate := by
  refine ⟨⟨fun s c n => ⟨?_, fun d hd => ?_⟩, fun s c n h => ?_, fun s c n hlt hle => ?_, fun s c n h => ?_,
      fun s c => ⟨?_, ?_⟩⟩, fun s a w l hon ht hl => counterClear_clears w hon ht hl, fun s w hon ht hb => ?_⟩
  · rw [State.counter_count, if_pos rfl]
  · rw [State.counter_count, if_neg hd]
  · exact State.count_same_of_unsaturated (by omega)
  · exact State.pathHas_count_of_saturated ⟨hlt, hle⟩
  · exact State.count_same_of_unsaturated (by omega)
  · rw [State.counter_clearCounter, if_pos rfl]
  · exact State.clearCounter_keeps rfl (State.same_refl _ s)
  · exact next_whenOn_of_eq hon (if_pos (by simp [ht, hb]))

end Sys2Proof.Machine
end

/-! # Accesses of a module that is not ready (R411) -/

section

set_option Elab.async false

open Sys2Proof Sys2Proof.Machine

namespace Sys2Proof.Machine

/-- The blocks of BAR0 that respond whatever the module's state: SYS, and SEC with BIST (R411). -/
abbrev respondsFirst (a : Nat) : Prop := a < 0x100000 ∨ (0xD00000 ≤ a ∧ a < 0xF00000)

section NotReady

variable {s : State} (hready : s.get Reg.secBootStatus_ready = 0)
include hready

theorem State.ready_of_get_zero : s.ready = false := by simp [State.ready, State.flag, hready]

theorem State.answers_of_not_ready (a : Nat) : s.answers a = decide (respondsFirst a) := by
  simp [State.answers, State.flag, hready, respondsFirst]

theorem State.answers_of_not_first {a : Nat} (h : ¬respondsFirst a) : s.answers a = false := by
  rw [State.answers_of_not_ready hready, decide_eq_false h]

theorem State.takesWrite_of_not_first {a : Nat} (h : ¬respondsFirst a) : s.takesWrite a = false := by
  simp [State.takesWrite, State.answers_of_not_first hready h]

theorem State.readWord_of_not_first {a : Nat} (h : ¬respondsFirst a) : s.readWord a = 0xFFFFFFFF :=
  State.readWord_of_not_answers (State.answers_of_not_first hready h)

theorem doPairLowRead_of_not_first {a : Nat} (h : ¬respondsFirst a) (hal : a % 4 = 0) (hlo : RegMap.isPairLo a = true) :
    doPairLowRead a s = s.answer (leBytes 0xFFFFFFFF 4) := by
  rw [doPairLowRead, if_neg (by simp [hal, hlo]), State.readWord_of_not_first hready h]
  exact if_neg (by simp [State.takesWrite_of_not_first hready h])

/-- No command that writes a register has an effect where its register does not respond. -/
theorem writes_of_not_first {a : Nat} (h : ¬respondsFirst a) (w : Word) :
    doRegisterWrite a w s = s ∧ doCounterClear a w s = s ∧ doPairLowWrite a w s = s ∧ doPairHighWrite a w s = s := by
  have ht := State.takesWrite_of_not_first hready h
  exact ⟨if_neg (by simp [ht]), if_pos (by simp [ht]), if_neg (by simp [ht]), if_pos (by simp [ht])⟩

theorem doPoolConfigWrite_of_not_ready (p q : Nat) (w : Word) : doPoolConfigWrite p q w s = s := by
  refine if_neg fun ⟨hp, hq, ht⟩ => ?_
  have hfirst : ¬respondsFirst (Reg.winPool_use p q).addr := by
    simp only [respondsFirst, Reg.winPool_use]
    omega
  rw [State.takesWrite_of_not_first hready hfirst] at ht
  exact Bool.false_ne_true ht

theorem doTickStartWrite_of_not_ready (p : Nat) (w : Word) : doTickStartWrite p w s = s := by
  refine if_pos (Classical.or_iff_not_imp_left.mpr fun hp => ?_)
  have hfirst : ¬respondsFirst (Reg.tickStart p) := by
    simp only [respondsFirst, Reg.tickStart]
    omega
  simp [State.takesWrite_of_not_first hready hfirst]

/-- The writes of a single register that have rows of their own. -/
theorem ownWrites_of_not_ready (w : Word) : doSealedSizeWrite w s = s ∧ doPowerCapWrite w s = s ∧
    doLayerReplaysClear w s = s ∧ doGroupFreezeWrite w s = s ∧ doTakeoverWrite w s = s := by
  have ht : ∀ a, ¬respondsFirst a → s.takesWrite a = false := fun _ => State.takesWrite_of_not_first hready
  have hneg := ht 0x600000 (by unfold respondsFirst; omega)
  have hcap := ht 0xC00000 (by unfold respondsFirst; omega)
  have hlayer := ht 0x500070 (by unfold respondsFirst; omega)
  have hgroup := ht 0x800014 (by unfold respondsFirst; omega)
  exact ⟨if_neg (by simp [hneg]), if_neg (by simp [hcap]), if_neg (by simp [hlayer]), if_pos (by simp [hgroup]),
    if_neg (by simp [State.ready_of_get_zero hready])⟩

/-- The writes that a command names by its unit. -/
theorem unitWrites_of_not_ready (n : Nat) : doRingReset n s = s ∧ doWithdraw n s = s ∧ doPortTakeDown n s = s := by
  have h := State.ready_of_get_zero hready
  exact ⟨if_neg (by simp [h]), if_neg (by simp [h]), if_neg (by simp [h])⟩

end NotReady

/-- Settles O60: whether a block answers decides each access, and of all blocks only the first ones answer. -/
theorem otherBlocksWaitForReady : Obligations.OtherBlocksWaitForReady := by
  intro s hon hready
  dsimp only
  have hown := ownWrites_of_not_ready hready
  have hunit := unitWrites_of_not_ready hready
  refine ⟨fun a ha => ?first, fun a ha => ?other,
    fun p q w => ⟨next_whenOn_of_eq hon (doPoolConfigWrite_of_not_ready hready p q w),
      next_whenOn_of_eq hon (doTickStartWrite_of_not_ready hready p w)⟩,
    fun w => ?own, fun n => ?unit, fun test => ?off⟩
  case first =>
    have hans : s.answers a = true := (State.answers_of_not_ready hready a).trans (decide_eq_true ha)
    refine ⟨hans, fun hal hhi hres hcore hloc => ⟨?_, ?_⟩⟩
    · simp [State.takesWrite, hal, hans, hres, hcore, hloc]
    · simp [State.readWord, hans, hres, hcore, hhi, Option.isNone_eq_false_iff.mpr hloc]
  case other =>
    have hans := State.answers_of_not_first hready ha
    refine ⟨State.readWord_of_not_first hready ha,
      fun hal hlo => next_whenOn_of_eq hon (doPairLowRead_of_not_first hready ha hal hlo),
      fun size hsize => ⟨?_, ?_⟩, fun hal hres => ⟨?_, ?_⟩, fun w => ?_⟩
    · exact next_whenOn_of_eq hon ((doBar0BadSizeAccess_eq hsize false s).trans (if_neg (by simp [hans])))
    · exact next_whenOn_of_eq hon ((doBar0BadSizeAccess_eq hsize true s).trans (if_neg (by simp [hans])))
    · exact next_whenOn_of_eq hon ((doReservedRangeAccess_eq hal hres false s).trans (if_neg (by simp [hans])))
    · exact next_whenOn_of_eq hon ((doReservedRangeAccess_eq hal hres true s).trans (if_neg (by simp [hans])))
    · obtain ⟨hreg, hclear, hlow, hhigh⟩ := writes_of_not_first hready ha w
      exact ⟨next_whenOn_of_eq hon hreg, next_whenOn_of_eq hon hclear, next_whenOn_of_eq hon hlow,
        next_whenOn_of_eq hon hhigh⟩
  case own =>
    obtain ⟨hsealed, hcap, hlayer, hgroup, htake⟩ := hown w
    exact ⟨next_whenOn_of_eq hon hsealed, next_whenOn_of_eq hon hcap, next_whenOn_of_eq hon hlayer,
      next_whenOn_of_eq hon hgroup, next_whenOn_of_eq hon htake⟩
  case unit =>
    obtain ⟨hring, hwith, hport⟩ := hunit n
    exact ⟨next_whenOn_of_eq hon hring, next_whenOn_of_eq hon hwith, next_whenOn_of_eq hon hport⟩
  case off => exact next_whenOn_of_eq hon (if_pos (by simp [State.ready_of_get_zero hready]))

end Sys2Proof.Machine
end

/-! # The Developers (11_developer.md): group updates and the freeze control -/

section

set_option Elab.async false

open Sys2Proof Sys2Proof.Machine

namespace Sys2Proof.Machine

/-! ### Group updates (R285 to R296) -/

/-- A group-update task that has run on core `c` is counted when its last share ends, and its share ends. -/
def State.endUpdate (s : State) (c : Nat) (r : Running) : State :=
  (if s.taskEnds r.p c r (r.g, r.t, r.task) then s.count Ctr.devUpdateTasksCount else s).endTask c r 0 false

theorem doGroupUpdate_eq {s : State} {c : Nat} {r : Running} (hrun : s.runningOn c = some r) (hop : r.task.op = 0x000F) :
    doGroupUpdate c s = ((s.takeFrames c r).2.runUpdate c r r.task.group).endUpdate c r := by
  rw [doGroupUpdate, hrun]
  exact if_neg (by simp [hop])

section Update

variable {s : State} {c g : Nat} {r : Running} {w : Update} (hw : s.updateOf r g = some w)
include hw

theorem State.runUpdate_of_frozen (hf : (s.group r.p g).frozen = true) : s.runUpdate c r g = s.discardUpdate c r g := by
  rw [State.runUpdate, hw]
  exact if_pos hf

variable (hf : (s.group r.p g).frozen = false) (ht : (s.group r.p g).status ≠ 4)
include hf ht

theorem State.runUpdate_of_open : s.runUpdate c r g =
    if decide (2 ≤ w.e.touchMode) && !s.touchBit r.p w.e then s.skipUpdate r.p g
    else (s.updateShare c r g w).groupUpdated c r g w := by
  rw [State.runUpdate, hw]
  dsimp only
  rw [if_neg (by simp [hf]), if_neg ht]

theorem State.runUpdate_of_dense (hm : w.e.touchMode < 2) :
    s.runUpdate c r g = (s.updateShare c r g w).groupUpdated c r g w := by
  rw [State.runUpdate_of_open hw hf ht, if_neg fun h =>
    absurd (of_decide_eq_true (Bool.and_eq_true_iff.mp h).1) (Nat.not_le.mpr hm)]

theorem State.runUpdate_of_untouched (hm : 2 ≤ w.e.touchMode) (hb : s.touchBit r.p w.e = false) :
    s.runUpdate c r g = s.skipUpdate r.p g := by
  rw [State.runUpdate_of_open hw hf ht, if_pos (by simp [hm, hb])]

end Update

theorem State.discardUpdate_same (s : State) (c : Nat) (r : Running) (g : Nat) :
    s.same (countFields ++ [.parts]) (s.discardUpdate c r g) :=
  State.discardUpdate_keeps rfl (State.same_refl _ s)

theorem State.skipUpdate_same (s : State) (p g : Nat) : s.same (countFields ++ [.parts]) (s.skipUpdate p g) :=
  State.skipUpdate_keeps rfl (State.same_refl _ s)

/-! ### The freeze control (R294) -/

section Freeze

variable {s : State} {p : Nat} (w : Word) (ht : s.takesWrite 0x800014 = true) (hp : s.groupPart = some p)
include ht hp

theorem doGroupFreezeWrite_eq : doGroupFreezeWrite w s =
    if !(bitAt w.toNat 0 == 1) && (s.group p (s.get Reg.devGroupSelect_group)).frozenAtAdmission then
      s.refuseWrite 0x800014 w.toNat
    else s.modGroup p (s.get Reg.devGroupSelect_group) (fun x =>
      { x with pending := if (bitAt w.toNat 0 == 1) = x.frozen then none else some (bitAt w.toNat 0 == 1) }) := by
  rw [doGroupFreezeWrite, if_neg (by simp [ht]), hp]
  simp only [beq_iff_eq]

end Freeze

/-- Settles O39: an update is discarded, runs or is skipped by its group, and a write of the freeze control is refused only
where it would thaw a group frozen at admission. -/
theorem groupsFreezeAndUpdate : Obligations.GroupsFreezeAndUpdate := by
  refine ⟨fun s c r w hon hrun hop => ?update, fun s p w hon ht hp h => ?freeze, fun s p w hon ht hp hb hadm => ?thaw⟩
  case update =>
    intro u g hw
    have hends : ∀ {v : State}, u.runUpdate c r g = v →
        exec (.groupUpdate c) s = .next { v.endUpdate c r with pending := s.pending } := by
      rintro v rfl
      exact next_whenOn_of_eq hon (doGroupUpdate_eq hrun hop)
    exact ⟨fun hf => ⟨hends (State.runUpdate_of_frozen hw hf), State.sameMem_of_same (u.discardUpdate_same c r g) rfl⟩,
      fun hf ht hm => hends (State.runUpdate_of_dense hw hf ht hm),
      fun hf ht hm hb => ⟨hends (State.runUpdate_of_untouched hw hf ht hm hb),
        State.sameMem_of_same (u.skipUpdate_same r.p g) rfl⟩⟩
  case freeze =>
    refine next_whenOn_of_eq hon ((doGroupFreezeWrite_eq w ht hp).trans (if_neg ?_))
    rcases h with h | h <;> simp [h]
  case thaw =>
    exact next_whenOn_of_eq hon ((doGroupFreezeWrite_eq w ht hp).trans (if_pos (by simp [hb, hadm])))

end Sys2Proof.Machine
end

/-! # The fabric's data (12_fabric.md): matched packets, transfers and reductions -/

section

set_option Elab.async false

open Sys2Proof Sys2Proof.Machine

namespace Sys2Proof.Machine

/-! ### Matched packets (R317, R320 to R323, R326 to R328) -/

section Matched

variable {s : State} (n : Nat) {p : Nat} {pk : Packet}

theorem State.dataIn_of_transfer {pl : Plan} {sec : List Byte} {g t : Nat} {task : Machine.Task} (hpl : s.planOf p = some pl)
    (hsec : s.sectionFor p pk = some sec) (hm : (matchSlot sec pk).bind (pl.transferOf 2) = some (g, t, task)) :
    let xs := s.landingPlace p pl sec g task
    let w := s.writeStretches p xs (64 * pkOffset pk) (pkData pk)
    let v := if task.transfer.gradient then w.setRemoteScale p task.transfer.gradLayer (pkScale pk) else w
    let units := v.unitsIn p g t + (pkData pk).length / 64
    let u := v.modPart p (fun q => { q with arrived := insertKey q.arrived (taskKey g t) units })
    s.dataIn n p pk = if units = task.transfer.units then u.touchChunk p task.transfer xs else u := by
  rw [State.dataIn, hpl, hsec]
  dsimp only
  rw [hm]

theorem State.dataIn_of_unmatched (h : ∀ pl sec, s.planOf p = some pl → s.sectionFor p pk = some sec →
    (matchSlot sec pk).bind (pl.transferOf 2) = none) : s.dataIn n p pk = s.dropUnmatched n := by
  unfold State.dataIn
  split
  next pl sec hpl hsec => rw [h pl sec hpl hsec]
  · rfl

variable {w : RedWork} {l : Leg}

theorem State.partialIn_of_leg (hleg : s.redOf p pk .upIn = some (w, l))
    (hscale : w.r.x.gradient = false ∨ pkOffset pk ≠ 0 ∨ pkScale pk = s.gradScale w.r.x.gradLayer) :
    s.partialIn n p pk = (s.stampPart.modStripe p w.r.g w.r.t l.k (fun x => { x with
      inputs := x.inputs ++ [⟨(pkStamp pk).origin, pkScale pk, pkOffset pk, pkData pk⟩] })).moveStripe w l.k := by
  have hsame : ¬(w.r.x.gradient && pkOffset pk == 0 && pkScale pk != s.gradScale w.r.x.gradLayer) = true := by
    rcases hscale with h | h | h <;> simp [h]
  rw [State.partialIn, hleg]
  dsimp only
  rw [if_neg hsame]

theorem State.resultIn_of_leg (hleg : s.redOf p pk .downIn = some (w, l)) :
    let d := w.r.x.outType
    let e := w.r.x.range w.r.ss.length l.k
    let first := 64 * 8 * pkOffset pk / d.bits
    let codes := (List.range (min (8 * (pkData pk).length / d.bits) (e.2 - e.1 - first))).map (fun i =>
      bitsAt (leNat (pkData pk)) (i * d.bits) d.bits)
    let u := if d.isMx then s else s.putResult p w.dst (e.1 + first) codes
    s.resultIn n p pk = (u.modStripe p w.r.g w.r.t l.k (fun x =>
      { x with
        result := x.result + ceilDiv (pkData pk).length 64
        inputs := if d.isMx then x.inputs ++ [⟨l.peer, pkScale pk, pkOffset pk, pkData pk⟩] else x.inputs })).moveStripe
          w l.k := by
  rw [State.resultIn, hleg]

theorem State.sideIn_of_leg (hleg : s.redOf p pk .upIn = some (w, l)) :
    s.sideIn n p pk = (s.modStripe p w.r.g w.r.t l.k (fun x =>
      { x with sides := x.sides ++ [(fieldAt pk.data 0 4, fieldAt pk.data 4 1 % 2)] })).moveStripe w l.k := by
  rw [State.sideIn, hleg]

theorem State.partialIn_of_unmatched (h : s.redOf p pk .upIn = none) : s.partialIn n p pk = s.dropUnmatched n := by
  rw [State.partialIn, h]

theorem State.resultIn_of_unmatched (h : s.redOf p pk .downIn = none) : s.resultIn n p pk = s.dropUnmatched n := by
  rw [State.resultIn, h]

theorem State.sideIn_of_unmatched (hup : s.redOf p pk .upIn = none) (hdown : s.redOf p pk .downIn = none) :
    s.sideIn n p pk = s.dropUnmatched n := by
  rw [State.sideIn, hup]
  dsimp only
  rw [hdown]

end Matched

/-- Settles O43: what a packet matches decides what it does. -/
theorem matchedPacketsLand : Obligations.MatchedPacketsLand :=
  ⟨fun _ n _ _ _ _ _ _ _ hpl hsec hm => State.dataIn_of_transfer n hpl hsec hm,
    fun _ n _ _ _ _ hleg hscale => State.partialIn_of_leg n hleg hscale,
    fun _ n _ _ _ _ hleg => State.resultIn_of_leg n hleg, fun _ n _ _ _ _ hleg => State.sideIn_of_leg n hleg,
    fun _ n _ _ => ⟨State.dataIn_of_unmatched n, State.partialIn_of_unmatched n, State.resultIn_of_unmatched n,
      State.sideIn_of_unmatched n⟩⟩

/-! ### Transfers (R319 to R323) -/

section Transfer

variable {s : State} {c : Nat} {r : Running} (hrun : s.runningOn c = some r) (hop : r.task.op = 0x000D)
include hrun hop

theorem State.transferTask_of_bytes {mode : Nat} (hmode : r.task.transfer.mode = mode) (hlen : r.task.transfer.length ≠ 0)
    (f : State → Running → Transfer → State) : s.transferTask c mode f = f s r r.task.transfer := by
  rw [State.transferTask, hrun]
  dsimp only
  rw [if_neg (by simp [hop, hmode]), if_neg hlen]

theorem State.transferTask_of_no_bytes {mode : Nat} (hmode : r.task.transfer.mode = mode) (hlen : r.task.transfer.length = 0)
    (f : State → Running → Transfer → State) : s.transferTask c mode f = s.endEmpty c r := by
  rw [State.transferTask, hrun]
  dsimp only
  rw [if_neg (by simp [hop, hmode]), if_pos hlen]

theorem doFabricSend_of_source {o : Operand} (hmode : r.task.transfer.mode = 1) (hlen : r.task.transfer.length ≠ 0)
    (ho : r.slot 0 = some o) :
    let x := r.task.transfer
    let u := if (s.outSlot r.p x.slotFirst).packets.isSome then s else s.prepareSend r x o
    doFabricSend c s = if s.landingWait r.p x then s.noteLanding c r x
      else if u.slotsSent r.p x.slotFirst x.ports then u.endTask c r 0 false else u := by
  rw [doFabricSend, State.transferTask_of_bytes hrun hop hmode hlen, ho]

theorem doFabricReceive_of_bytes (hmode : r.task.transfer.mode = 2) (hlen : r.task.transfer.length ≠ 0) :
    doFabricReceive c s =
      if r.task.transfer.units ≤ s.unitsIn r.p r.g r.t then s.endTask c r 0 false else s :=
  State.transferTask_of_bytes hrun hop hmode hlen _

theorem doLocalCopy_of_places {a b : Operand} (hmode : r.task.transfer.mode = 3) (hlen : r.task.transfer.length ≠ 0)
    (ha : r.slot 0 = some a) (hb : r.slot 3 = some b) :
    let x := r.task.transfer
    let from_ := x.source r.capTable s.position a.t
    let dst := x.dest r.capTable s.position b.t
    let u := s.readErrors r a (clearBlocks from_)
    doLocalCopy c s = (if (s.run r.p r.g r.t).finished = [] then
      (u.writeStretches r.p dst 0 (u.readStretches r.p from_)).touchChunk r.p x dst else s).endTask c r 0 false := by
  rw [doLocalCopy, State.transferTask_of_bytes hrun hop hmode hlen, ha, hb]
  dsimp only
  by_cases hfirst : (s.run r.p r.g r.t).finished = [] <;> simp [hfirst]

end Transfer

section Slot

variable {s : State} {p k : Nat}

theorem doSlotWindowStart_of_due {e : FabSlot} (he : (s.slotsNow p)[k]? = some e) (hrole : e.role = 1)
    (hexp : e.exposure = (s.part p).index) (hsent : (s.outSlot p k).sent = false) (hmissed : (s.outSlot p k).missed = false)
    (hrun : (s.part p).phase = .running) :
    let u := s.advanceTo (s.currentTick p + 4 * e.start)
    doSlotWindowStart p k s = if (s.outSlot p k).packets.isSome then u.transmitSlot p k false
      else ((u.modOutSlot p k (fun x => { x with missed := true })).count Ctr.fabSlotMissedCount).raisePort e.portOut
        Ev.slotMissed { value := k } := by
  have hstep : (s.advanceTo (s.currentTick p + 4 * e.start)).inStep p = true := by
    have hpart : (s.advanceTo (s.currentTick p + 4 * e.start)).part p = s.part p := rfl
    simp [State.inStep, hpart, hrun]
  rw [doSlotWindowStart, he]
  dsimp only
  rw [if_neg (by simp [hrole, hexp, hsent, hmissed, hrun, PlanState.isAdmitted]), if_pos hstep]

theorem doLateTransmit_of_ready (hmissed : (s.outSlot p k).missed = true) (hready : (s.outSlot p k).packets.isSome = true)
    (hsent : (s.outSlot p k).sent = false) : doLateTransmit p k s = s.transmitSlot p k true :=
  if_pos (by simp [hmissed, hready, hsent])

end Slot

/-! ### Reductions (R326, R327) -/

section Reduction

/-- The end of a share of a reduction: nothing before every stripe stands and every slot has been sent, and one count for the
task. -/
def State.endReduction (s : State) (c : Nat) (r : Running) (w : RedWork) : State :=
  if s.redDone w = false then s
  else (if s.othersDone c r then s.count Ctr.fabReductionsCount else s).endTask c r 0 false

/-- The own contribution joins stripe `k`, behind the inputs that have arrived. -/
def State.joinStripe (s : State) (r : Running) (w : RedWork) (k : Nat) : State :=
  (s.stampPart.modStripe r.p r.g r.t k (fun x => { x with ownAt := some x.inputs.length })).moveStripe w k

variable {s : State} {c : Nat} {r : Running} {sec : List Byte} {a b : Operand} (hrun : s.runningOn c = some r)
  (hop : r.task.op = 0x000E) (hsec : s.fabSec r.p = some sec) (ha : r.slot 0 = some a) (hb : r.slot 3 = some b)
include hrun hop hsec ha hb

theorem doReduction_eq :
    let w : RedWork := ⟨r.p, r.redTask sec, a.t, b.t, s.position⟩
    doReduction c s = State.endReduction
      (if w.r.ss.zipIdx.any (fun y => (s.stripe r.p r.g r.t y.2).ownAt.isNone) then
        (List.range w.r.ss.length).foldl (fun u k => u.joinStripe r w k) (s.load r a a.t.rowRuns) else s) c r w := by
  rw [doReduction, hrun]
  dsimp only
  rw [if_neg (by simp [hop]), hsec, ha, hb]
  exact ite_congr (by rw [Bool.not_eq_true']; rfl) (fun _ => rfl) fun _ => rfl

theorem doReduction_of_open {k : Nat} (hk : k < (r.redTask sec).ss.length)
    (hopen : (s.stripe r.p r.g r.t k).ownAt = none) :
    let w : RedWork := ⟨r.p, r.redTask sec, a.t, b.t, s.position⟩
    doReduction c s =
      ((List.range w.r.ss.length).foldl (fun u k => u.joinStripe r w k) (s.load r a a.t.rowRuns)).endReduction c r w := by
  refine (doReduction_eq hrun hop hsec ha hb).trans (congrArg (State.endReduction · c r _) (if_pos ?_))
  refine List.any_eq_true.mpr ⟨((r.redTask sec).ss[k], k), List.mk_mem_zipIdx_iff_getElem?.mpr (by simp [hk]), ?_⟩
  simp [hopen]

theorem doReduction_of_joined (hjoined : ∀ k, k < (r.redTask sec).ss.length → (s.stripe r.p r.g r.t k).ownAt ≠ none) :
    doReduction c s = s.endReduction c r ⟨r.p, r.redTask sec, a.t, b.t, s.position⟩ := by
  refine (doReduction_eq hrun hop hsec ha hb).trans (congrArg (State.endReduction · c r _) (if_neg ?_))
  rintro hany
  obtain ⟨⟨x, k⟩, hmem, hnone⟩ := List.any_eq_true.mp hany
  exact hjoined k (by simpa using List.snd_lt_of_mem_zipIdx hmem) (Option.isNone_iff_eq_none.mp hnone)

end Reduction

/-- Settles O44: each task by its mode, its slots and its credit, and each stripe by its own contribution. -/
theorem transfersAndReductionsUseTheirSlots : Obligations.TransfersAndReductionsUseTheirSlots := by
  refine ⟨⟨fun s c r o hon hrun hop hmode hlen ho => next_whenOn_of_eq hon (doFabricSend_of_source hrun hop hmode hlen ho),
    fun s c r hon hrun hop hmode hlen => next_whenOn_of_eq hon (doFabricReceive_of_bytes hrun hop hmode hlen),
    fun s c r a b hon hrun hop hmode hlen ha hb =>
      next_whenOn_of_eq hon (doLocalCopy_of_places hrun hop hmode hlen ha hb),
    fun s c r i hon hrun hop hlen hi => ?noBytes,
    fun s p k e hon he hrole hexp hsent hmissed hrun =>
      next_whenOn_of_eq hon (doSlotWindowStart_of_due he hrole hexp hsent hmissed hrun),
    fun s p k hon hmissed hready hsent => next_whenOn_of_eq hon (doLateTransmit_of_ready hmissed hready hsent)⟩,
    fun s c r sec a b hon hrun hop hsec ha hb =>
      ⟨fun ⟨k, hk, hopen⟩ => next_whenOn_of_eq hon (doReduction_of_open hrun hop hsec ha hb hk hopen),
        fun hjoined => next_whenOn_of_eq hon (doReduction_of_joined hrun hop hsec ha hb hjoined)⟩⟩
  case noBytes =>
    have hend : ∀ {mode : Nat} (f : State → Running → Transfer → State), r.task.transfer.mode = mode →
        s.transferTask c mode f = s.endEmpty c r :=
      fun f hmode => State.transferTask_of_no_bytes hrun hop hmode hlen f
    obtain ⟨hmode, rfl⟩ | ⟨hmode, rfl⟩ | ⟨hmode, rfl⟩ := hi
    · exact next_whenOn_of_eq (f := doFabricSend c) hon (hend _ hmode)
    · exact next_whenOn_of_eq (f := doFabricReceive c) hon (hend _ hmode)
    · exact next_whenOn_of_eq (f := doLocalCopy c) hon (hend _ hmode)

end Sys2Proof.Machine
end

/-! # Surviving faults (14_survival.md): seals, drains and the packets of class 4 -/

section

set_option Elab.async false

open Sys2Proof Sys2Proof.Machine

namespace Sys2Proof.Machine

/-! ### The Fixer's state -/

theorem State.parts_of_asked {s : State} {p item : Nat} (h : (s.part p).fixer.asked.contains item = true) :
    ∃ q, s.parts[p]? = some q := by
  cases hq : s.parts[p]? with
  | some q => exact ⟨q, rfl⟩
  | none =>
    rw [State.part, hq] at h
    exact absurd h Bool.false_ne_true

theorem State.modFixer_congr {s : State} {p : Nat} {q : Part} (hq : s.parts[p]? = some q) {f g : Fixer → Fixer}
    (h : f q.fixer = g q.fixer) : s.modFixer p f = s.modFixer p g := by
  have hparts : s.parts.modify p (fun q => { q with fixer := f q.fixer }) =
      s.parts.modify p (fun q => { q with fixer := g q.fixer }) := by
    apply List.ext_getElem?
    intro i
    rw [List.getElem?_modify, List.getElem?_modify]
    split
    next hi =>
      rw [← hi, hq]
      exact congrArg (fun x : Fixer => some { q with fixer := x }) h
    · rfl
  rw [State.modFixer, State.modFixer, State.modPart, State.modPart, hparts]

/-! ### SECURE, sweeps and copies (R369, R372, R373, R388) -/

section Secure

variable {s : State} {ring : Nat} {d : Started} (hd : s.findOp ring 0x14 = some d)
include hd

theorem doSecure_of_stray {off : Nat} (hoff : d.strayOperand [(16, 1)] = some off) :
    doSecure ring s = s.finish ring d .badAddress off := by
  rw [doSecure, hd]
  dsimp only
  rw [hoff]

variable (hoff : d.strayOperand [(16, 1)] = none)
include hoff

theorem doSecure_of_not_inStep (hstep : s.inStep (s.ringPart ring) = false) :
    doSecure ring s = s.finish ring d .state (s.part (s.ringPart ring)).phase.code := by
  rw [doSecure, hd]
  dsimp only
  rw [hoff]
  exact if_pos (by simp [hstep])

theorem doSecure_of_inStep (hstep : s.inStep (s.ringPart ring) = true) :
    doSecure ring s = if d.opd 16 1 ≠ 1 ∧ d.opd 16 1 ≠ 2 then s.finish ring d .refused 1
      else (s.beginDesc ring d).sweepDue (s.ringPart ring) 2 (d.opd 16 1 == 2) [(ring, d.seq)] false := by
  rw [doSecure, hd]
  dsimp only
  rw [hoff]
  exact if_neg (by simp [hstep])

end Secure

section Sweep

variable {s : State} {p : Nat} {pl : Plan} (hpl : s.planOf p = some pl)
include hpl

theorem doSweepStart_of_due {d : DueSweep} (hmay : s.fixerMayStart p = true)
    (hrest : s.inStep p = false ∨ (s.part p).restoreDue = []) (hdue : s.dueNow p = some d) :
    let items := pl.sweepItems d.all
    doSweepStart p s = (s.raise Ev.sweepStart UnitId.module { value := items.length, cause := d.cause }).modFixer p (fun f =>
      { f with dues := f.dues.filter (· != d), sweep := some d, since := s.time.now, size := items.length, left := items,
               unmirrored := [] }) := by
  rw [doSweepStart, hpl]
  dsimp only
  rw [if_neg (by simp [hmay]), if_neg (by rcases hrest with h | h <;> simp [h]), hdue]

theorem doSweepDone_of_none_left {d : DueSweep} (hd : (s.part p).fixer.sweep = some d) (hleft : (s.part p).fixer.left = []) :
    let u := (s.raise Ev.sweepDone UnitId.module { value := (s.time.now - (s.part p).fixer.since) / 4000 }).count
      Ctr.survSweepsCount
    let v := if d.cause = 1 then { u with tally := { u.tally with resecure := 0 } } else u
    let mirrored := (pl.securing.map (fun h => bitAt h.flags 0 == 1 && h.partner != noPosition)).getD false
    let w := ((v.modFixer p (fun f => { f with
      sweep := none, swept := if mirrored then f.swept ++ [(f.size, f.unmirrored)] else f.swept, unmirrored := [],
      departing := (s.part p).fixer.departing || d.retire })).noteMirrored p).completeSecures d
    doSweepDone p s =
      if w.inStep p then (if d.retire then w.stepFault p .spares else w.runRestores p pl) else w.endDrain p := by
  dsimp only
  obtain ⟨q, hq⟩ : ∃ q, s.parts[p]? = some q := by
    cases hq : s.parts[p]? with
    | some q => exact ⟨q, rfl⟩
    | none =>
      rw [State.part, hq] at hd
      exact absurd hd (by simp [Part.init, Fixer.init])
  generalize hu : (s.raise Ev.sweepDone UnitId.module { value := (s.time.now - (s.part p).fixer.since) / 4000 }).count
    Ctr.survSweepsCount = u
  have hparts : u.parts = s.parts := by rw [← hu, State.count_parts, State.raise_parts]
  have hqv : (if d.cause = 1 then { u with tally := { u.tally with resecure := 0 } } else u).parts[p]? = some q := by
    split <;> rw [← hq, ← hparts]
  rw [doSweepDone, hpl, hd]
  dsimp only
  rw [if_neg (by simp [hleft]), hu]
  rw [State.modFixer_congr hqv (g := fun f => { f with
      sweep := none,
      swept := if (pl.securing.map (fun h => bitAt h.flags 0 == 1 && h.partner != noPosition)).getD false then
        f.swept ++ [(f.size, f.unmirrored)] else f.swept, unmirrored := [],
      departing := (s.part p).fixer.departing || d.retire }) (by rw [State.part_of_getElem? hq])]
  generalize State.completeSecures _ d = w
  cases w.inStep p <;> cases d.retire <;> rfl

theorem doPrivilegedCopy_of_ready {g : Nat} (hstep : s.inStep p = true) (hready : s.copyReady p g pl = true) :
    doPrivilegedCopy p g s = s.beginCopy p g := by
  rw [doPrivilegedCopy, hpl]
  exact if_pos (by simp [hstep, hready])

theorem doPrivilegedCopy_of_not_ready {g : Nat} (h : s.inStep p = false ∨ s.copyReady p g pl = false) :
    doPrivilegedCopy p g s = s := by
  rw [doPrivilegedCopy, hpl]
  exact if_neg (by rcases h with h | h <;> simp [h])

theorem doSealWritten_of_copying {i n : Nat} (hi : (s.part p).fixer.copying.find? (fun x => x.1 == i) = some (i, n)) :
    doSealWritten p i s = (s.sealItem p i n pl (s.part p).fixer.recordCopy false).modFixer p (fun f => { f with
      copying := f.copying.erase (i, n) }) := by
  rw [doSealWritten, hpl]
  dsimp only
  rw [hi]

theorem doSealWritten_of_swept {i : Nat} (hi : (s.part p).fixer.copying.find? (fun x => x.1 == i) = none)
    (hsweep : (s.part p).fixer.sweep.isSome = true) (hleft : (s.part p).fixer.left.head? = some i) :
    doSealWritten p i s = (s.sealItem p i (s.part p).step pl (s.part p).fixer.snapshot true).modFixer p (fun f => { f with
      left := f.left.tail }) := by
  rw [doSealWritten, hpl]
  dsimp only
  rw [hi]
  exact if_pos (by simp [hsweep, hleft])

section Mirror

variable {h : SecPlan} {a : ItemPlace} {i : Nat} (hsec : pl.securing = some h) (ha : s.ownPlace pl i = some a)
  (hnext : s.mirrorNext p pl i = true)
include hsec ha hnext

theorem doMirrorSend_of_valid {r : SealRec} {c : Copy} {v : State} :
    let u := s.modFixer p (fun f => { f with mirrors := f.mirrors.filter (· != i) })
    u.firstValid p i 0 a (fun _ => true) (u.validSlots a i) = (some (r, c), v) →
    doMirrorSend p i s = (v.modFixer p (fun f => { f with inFlight := f.inFlight ++ [(i, leNat r.stamp)] })).sendMirror p i
      (itemPackets h.partner 1 i r.step c.stream r) := by
  intro u hfirst
  rw [doMirrorSend, hpl]
  dsimp only
  rw [hsec, ha]
  dsimp only
  rw [if_neg (by simp [hnext]), hfirst]

theorem doMirrorSend_of_invalid {v : State} :
    let u := s.modFixer p (fun f => { f with mirrors := f.mirrors.filter (· != i) })
    u.firstValid p i 0 a (fun _ => true) (u.validSlots a i) = (none, v) → doMirrorSend p i s = v := by
  intro u hfirst
  rw [doMirrorSend, hpl]
  dsimp only
  rw [hsec, ha]
  dsimp only
  rw [if_neg (by simp [hnext]), hfirst]

end Mirror

end Sweep

/-- Settles O48: SECURE by its operand, scope and phase; sweeps, copies and mirrors by the Fixer's state. -/
theorem theFixerSeals : Obligations.TheFixerSeals := by
  refine ⟨fun s ring d hon hd => ?secure, fun s p pl d hon hpl hmay hrest hdue =>
      next_whenOn_of_eq hon (doSweepStart_of_due hpl hmay hrest hdue),
    fun s p pl d hon hpl hd hleft => next_whenOn_of_eq hon (doSweepDone_of_none_left hpl hd hleft),
    fun s p g pl hon hpl => ⟨fun hstep hready => next_whenOn_of_eq hon (doPrivilegedCopy_of_ready hpl hstep hready),
      fun h => next_whenOn_of_eq hon (doPrivilegedCopy_of_not_ready hpl h)⟩,
    fun s p i pl hon hpl => ⟨fun n hi => next_whenOn_of_eq hon (doSealWritten_of_copying hpl hi),
      fun hi hsweep hleft => next_whenOn_of_eq hon (doSealWritten_of_swept hpl hi hsweep hleft)⟩,
    fun s p i pl h a hon hpl hsec ha hnext => ⟨fun r c v hv => next_whenOn_of_eq hon (doMirrorSend_of_valid hpl hsec ha hnext hv),
      fun v hv => next_whenOn_of_eq hon (doMirrorSend_of_invalid hpl hsec ha hnext hv)⟩⟩
  case secure =>
    exact ⟨fun off hoff => next_whenOn_of_eq hon (doSecure_of_stray hd hoff),
      fun hoff hstep => next_whenOn_of_eq hon (doSecure_of_not_inStep hd hoff hstep),
      fun hoff hstep h1 h2 => next_whenOn_of_eq hon ((doSecure_of_inStep hd hoff hstep).trans (if_pos ⟨h1, h2⟩)),
      fun hoff hstep h => next_whenOn_of_eq hon
        ((doSecure_of_inStep hd hoff hstep).trans (if_neg fun ⟨h1, h2⟩ => h.elim h1 h2))⟩

/-! ### Drains, resumption, hand-over and takeover (R298, R376, R377, R382 to R385) -/

/-- A packet sent by its route changes of the partitions at most the sender's count of sealed packets (R420). -/
theorem State.parts_sendRouted (s : State) (p : Nat) (x : PacketSpec) :
    ∃ f, (s.sendRouted p x).parts = s.parts.modify p f := by
  have hid : s.parts = s.parts.modify p id := by rw [List.modify_id]
  have hseal : ∃ f, (s.seal p x).2.parts = s.parts.modify p f := by
    unfold State.seal
    dsimp only
    split
    · exact ⟨id, s.stampUsed_parts.trans hid⟩
    · split
      · exact ⟨id, s.stampUsed_parts.trans hid⟩
      · exact ⟨_, congrArg (List.modify · p _) s.stampUsed_parts⟩
  unfold State.sendRouted
  split
  · split
    · obtain ⟨f, hf⟩ := hseal
      exact ⟨f, ((State.enqueue_keeps rfl (State.same_refl [.ports] _)).on .parts rfl).trans hf⟩
    · exact ⟨id, hid⟩
  · exact ⟨id, hid⟩

section Drain

variable {s : State} {p : Nat} {pl : Plan} (hpl : s.planOf p = some pl)
include hpl

theorem doDrainComplete_of_drained (hphase : (s.part p).phase = .faulted) (hdone : (s.part p).drainDone = false)
    (hrun : s.sharesRun p = false) (hsweep : (s.part p).fixer.sweep = none) (hsettled : (s.part p).fixer.settled = false)
    (hasked : (s.part p).fixer.asked = []) (hfailed : (s.part p).fixer.failed = false) :
    let u := (s.tearStarted p pl).modFixer p (fun f => { f with settled := true })
    let open_ := ((u.part p).groups.filter (fun g => g.status == 0 && !g.frozen)).length
    let v := if (u.part p).groups.any (fun g => (g.status == 0 && !g.frozen) || g.status == 4) then
        (u.raise Ev.stepPartial (UnitId.partition p) { value := open_ }).count Ctr.survPartialStepsCount else u
    doDrainComplete p s =
      ((v.modPart p (fun q => { q with restoreDue := [] })).restoreGroups p pl (v.groupsToRestore p pl)).endDrain p := by
  rw [doDrainComplete, hpl]
  dsimp only
  rw [if_neg (by simp [hphase, hdone, hrun, hsweep, hsettled, hasked, hfailed])]

theorem doPlanResume_of_may (h : s.mayResume p = true) :
    doPlanResume p s = s.stepBoundary p pl (s.resumeExposure p) := by
  rw [doPlanResume, hpl]
  exact if_pos h

theorem doHandoverSent_of_mirrored (hdep : (s.part p).fixer.departing = true) (hdone : (s.part p).drainDone = true)
    (hhanded : (s.part p).fixer.handed = false) (hmirrors : (s.part p).fixer.mirrors = [])
    (hflight : (s.part p).fixer.inFlight = []) :
    doHandoverSent p s = ((s.sendRouted p (bulkSpec pl.secondBody true (bulkHeader 3 true s.position 0 0 0) [])).raise
      Ev.handoverSent UnitId.module { value := pl.secondBody }).modFixer p (fun f => { f with handed := true }) := by
  rw [doHandoverSent, hpl]
  exact if_neg (by simp [hdep, hdone, hhanded, hmirrors, hflight])

theorem doTakeoverDone_of_due (htake : (s.part p).fixer.takeover = true) (hstandby : s.standby = false)
    (hasked : (s.part p).fixer.asked = []) (hfailed : (s.part p).fixer.failed = false) (hphase : (s.part p).phase = .admitted)
    (hexp : (s.part p).exposure = (s.part p).fixer.takeAt) :
    let n := fieldAt (s.part p).fixer.snapshot 0 8 + 1
    let u := ((s.modFixer p (fun f => { f with takeover := false })).rebaseHolds p (n - 1)).evalEta p pl
    doTakeoverDone p s = (((u.beginStep p n (u.part p).exposure).snapshotRecord p).raise
      Ev.takeoverDone UnitId.module { value := (s.part p).exposure % 2 ^ 32 }).count Ctr.survTakeoversCount := by
  rw [doTakeoverDone, hpl]
  exact if_neg (by simp [htake, hstandby, hasked, hfailed, hphase, hexp])

end Drain

/-- Settles O49: the drain, the resumption, the hand-over and the takeover, each by the conditions of its command. -/
theorem drainsResumeOrHandOver : Obligations.DrainsResumeOrHandOver := by
  refine ⟨fun s p pl hon hpl hphase hdone hrun hsweep hsettled hasked hfailed =>
      next_whenOn_of_eq hon (doDrainComplete_of_drained hpl hphase hdone hrun hsweep hsettled hasked hfailed),
    fun s p pl hon hpl h => next_whenOn_of_eq hon (doPlanResume_of_may hpl h),
    fun s p pl hon hpl hdep hdone hhanded hmirrors hflight ⟨q, hq⟩ => ?handover,
    fun s v hon => next_whenOn_of_eq hon rfl,
    fun s p pl hon hpl htake hstandby hasked hfailed hphase hexp =>
      next_whenOn_of_eq hon (doTakeoverDone_of_due hpl htake hstandby hasked hfailed hphase hexp)⟩
  case handover =>
    let x := bulkSpec pl.secondBody true (bulkHeader 3 true s.position 0 0 0) []
    refine ⟨_, next_whenOn_of_eq hon (doHandoverSent_of_mirrored hpl hdep hdone hhanded hmirrors hflight), ?_, ?_, ?_⟩
    · obtain ⟨f, hf⟩ := s.parts_sendRouted p x
      have hfq : ((s.sendRouted p x).raise Ev.handoverSent UnitId.module { value := pl.secondBody }).parts[p]? = some (f q) := by
        rw [State.raise_parts, hf]
        simp [hq]
      exact congrArg (fun r : Part => r.fixer.handed) (State.part_modPart_self _ hfq)
    · exact State.pathHas_congr rfl (State.pathHas_raise (s.sendRouted p x) ..)
    · have hsent : s.same [.regs, .seq, .seqReported, .events, .parts, .ports] (s.sendRouted p x) :=
        State.sendRouted_keeps rfl (State.same_refl _ s)
      exact State.sameMem_of_same ((State.modFixer_keeps rfl (State.raise_keeps rfl hsent)).withPending s.pending) rfl

/-! ### The packets of class 4 (R309, R369, R370, R379, R384) -/

theorem State.noteWard_contains (s : State) (h : SecPlan) (item bytes : Nat) :
    ((s.noteWard h item bytes).wardItems h).contains (item, bytes) = true := by
  unfold State.noteWard
  split
  · assumption
  · simp [State.wardItems]

theorem State.wardPlace_of_contains {s : State} {h : SecPlan} {item bytes : Nat}
    (hc : (s.wardItems h).contains (item, bytes) = true) : ∃ a, s.wardPlace h item = some a := by
  refine Option.isSome_iff_exists.mp ?_
  rw [State.wardPlace, Option.isSome_map, List.findIdx?_isSome]
  exact List.any_eq_true.mpr ⟨_, List.contains_iff_mem.mp hc, beq_self_eq_true item⟩

theorem State.readNegTags_putFrom (block : Nat) (tags : List Nat) (s : State) (k j : Nat) :
    readOr 0 ((tags.zipIdx k).foldl (fun (s : State) x => { s with negTags := writeOr 0 s.negTags (block + x.2) x.1 })
      s).negTags (block + j) = if k ≤ j ∧ j < k + tags.length then tags.getD (j - k) 0 else readOr 0 s.negTags (block + j) := by
  induction tags generalizing s k with
  | nil => exact (if_neg (by rw [List.length_nil]; omega)).symm
  | cons t ts ih =>
    rw [List.zipIdx_cons, List.foldl_cons, ih, readOr_writeOr]
    simp only [List.length_cons]
    rcases Nat.lt_trichotomy j k with hj | rfl | hj
    · rw [if_neg (by omega), if_neg (by omega), if_neg (by omega)]
    · rw [if_neg (by omega), if_pos rfl, if_pos (by omega), Nat.sub_self, List.getD_cons_zero]
    · obtain ⟨i, rfl⟩ : ∃ i, j = k + 1 + i := ⟨j - (k + 1), by omega⟩
      rw [show k + 1 + i - k = i + 1 by omega, show k + 1 + i - (k + 1) = i by omega, List.getD_cons_succ,
        if_neg (show ¬block + (k + 1 + i) = block + k by omega)]
      exact ite_congr (propext (by omega)) (fun _ => rfl) fun _ => rfl

/-- The tags of consecutive blocks read as they were put. -/
theorem State.readNegTags_putNegTags (s : State) (block : Nat) (f : Nat → Nat) {n i : Nat} (hi : i < n) :
    readOr 0 (s.putNegTags block ((List.range n).map f)).negTags (block + i) = f i := by
  refine (State.readNegTags_putFrom block _ s 0 i).trans ((if_pos (by simpa using hi)).trans ?_)
  simp [List.getD_eq_getElem?_getD, hi]

theorem State.putNegTags_neg (s : State) (block : Nat) (tags : List Nat) : (s.putNegTags block tags).neg = s.neg :=
  (State.putNegTags_keeps rfl (State.same_refl [.negTags] s)).on .neg rfl

section Ward

variable {s : State} {p : Nat} {pk : Packet} (n : Nat)

theorem State.mirrorIn_of_no_ward (hward : s.wardPlan p pk = none) : s.mirrorIn n p pk = s.dropUnmatched n := by
  rw [State.mirrorIn, hward]

theorem State.mirrorSealIn_of_no_ward (hward : s.wardPlan p pk = none) : s.mirrorSealIn n p pk = s.dropUnmatched n := by
  rw [State.mirrorSealIn, hward]
  rfl

theorem State.mirrorSealIn_of_place {a : ItemPlace} :
    let r := SealRec.ofBytes ((pkData pk).drop 64)
    (s.wardPlan p pk).bind (fun h => s.wardPlace h r.item) = some a →
    let slot := s.freeSlot a r.item
    let c := s.storedCopy (a.slot slot) (r.bytes / 4096)
    s.mirrorSealIn n p pk = if r.digestOf c ≠ r.digest then s.sealInvalid p r.item 1 a slot
      else (s.putSeal a { r with slot := slot, digest := ({ r with slot := slot } : SealRec).digestOf c }).sendRouted p
        ⟨8, 0, (pkStamp pk).origin, 0xFFFF, 0, true, r.item, slice r.stamp 0 16⟩ := by
  intro r ha
  rw [State.mirrorSealIn]
  dsimp only
  rw [ha]

section Mirror

variable {h : SecPlan} (hward : s.wardPlan p pk = some h) {off size : Nat} {data : List Byte} (hoff : fieldAt pk.data 8 8 = off)
  (hsize : streamData (fieldAt pk.data 16 8) = size) (hdata : (pkData pk).drop 64 = data) {v : State}
  (hv : s.noteWard h (bulkItem pk) size = v) {a : ItemPlace} (ha : v.wardPlace h (bulkItem pk) = some a)
include hward hoff hsize hdata hv ha

/-- The data of a mirror's packet lie at their offset, and what of them lies past the copy's bytes are tags. -/
theorem State.mirrorIn_eq :
    let place := a.slot (v.freeSlot a (bulkItem pk))
    let rest := data.drop (size - off)
    s.mirrorIn n p pk = (v.rawNeg (place + off) (data.take (size - off))).putNegTags
      (place / 4096 + (max off size - size) / 2) ((List.range (rest.length / 2)).map (fun i => fieldAt rest (2 * i) 2)) := by
  subst hoff hsize hdata hv
  rw [State.mirrorIn, hward]
  dsimp only
  rw [ha]
  rfl

theorem State.mirrorIn_of_bytes (hfit : off + data.length ≤ size) :
    s.mirrorIn n p pk = v.rawNeg (a.slot (v.freeSlot a (bulkItem pk)) + off) data := by
  rw [State.mirrorIn_eq n hward hoff hsize hdata hv ha, List.drop_eq_nil_of_le (by omega), List.take_of_length_le (by omega)]
  rfl

theorem State.mirrorIn_of_tags (hend : off = size) :
    s.mirrorIn n p pk = v.putNegTags (a.slot (v.freeSlot a (bulkItem pk)) / 4096)
      ((List.range (data.length / 2)).map (fun i => fieldAt data (2 * i) 2)) := by
  rw [State.mirrorIn_eq n hward hoff hsize hdata hv ha, hend, Nat.max_self, Nat.sub_self]
  rfl

end Mirror

theorem State.creditIn_of_mirror (hlen : (pkData pk).length = 16) :
    s.creditIn n p pk = s.mirrorStands p (pkOffset pk) (leNat (slice pk.data 0 16)) := if_pos hlen

end Ward

section Asked

variable {s : State} {p : Nat} {pk : Packet} (n : Nat)

theorem State.itemDataIn_of_not_asked (h : (s.part p).fixer.asked.contains (bulkItem pk) = false) :
    s.itemDataIn n p pk = s.dropUnmatched n := if_pos (by simp only [h, Bool.not_false])

theorem State.itemSealIn_of_not_asked (h : (s.part p).fixer.asked.contains (bulkItem pk) = false) :
    s.itemSealIn n p pk = s.dropUnmatched n := by
  unfold State.itemSealIn
  dsimp only
  split
  · rfl
  · exact if_pos (by simp only [h, Bool.not_false])

variable (hasked : (s.part p).fixer.asked.contains (bulkItem pk) = true)
include hasked

theorem State.itemDataIn_of_asked : s.itemDataIn n p pk =
    s.modFixer p (fun f => { f with stage := f.stage.filter (fun x => x.1 != bulkItem pk) ++
      [(bulkItem pk, Memory.writeN (s.staged p (bulkItem pk)) (fieldAt pk.data 8 8) ((pkData pk).drop 64))] }) :=
  if_neg (by simp only [hasked, Bool.not_true, Bool.false_eq_true, not_false_eq_true])

/-- What a seal record does to an item that was asked for, outside an admission. -/
theorem State.itemSealIn_of_asked {pl : Plan} (hpl : s.planOf p = some pl) (hadm : (s.part p).fixer.admission = false) :
    let item := bulkItem pk
    let r := SealRec.ofBytes ((pkData pk).drop 64)
    let c := Copy.ofStream ((s.staged p item).readN 0 (r.bytes / 4096 * 4098))
    let u := s.modFixer p (fun f => { f with
      asked := f.asked.filter (· != item), stage := f.stage.filter (fun x => x.1 != item) })
    s.itemSealIn n p pk = if r.state ≠ 1 ∨ r.item ≠ item then u.itemLost p item
      else if r.digestOf c = r.digest then (u.takeItem p item pl r c).itemRestored p pl
      else if ((u.noteInvalid p item 1).part p).fixer.retried.contains item then (u.noteInvalid p item 1).itemLost p item
      else ((u.noteInvalid p item 1).modFixer p (fun f => { f with retried := f.retried ++ [item] })).askPartner p item pl
        true := by
  intro item r c u
  have hadm' : (u.part p).fixer.admission = false := by
    refine Eq.trans (State.part_modPart_congr (fun q => q.fixer.admission) ?_ s p p) hadm
    exact fun _ => rfl
  rw [State.itemSealIn, hpl]
  dsimp only
  rw [if_neg (by simp only [hasked, Bool.not_true, Bool.false_eq_true, not_false_eq_true])]
  refine ite_congr rfl (fun _ => rfl) fun _ => ?_
  by_cases hdig : r.digestOf c = r.digest
  · exact Eq.trans (if_pos ⟨hdig, .inl (by rw [hadm']; rfl)⟩) (if_pos hdig).symm
  · rw [if_neg hdig]
    refine (if_neg fun h => hdig h.1).trans ?_
    rw [if_neg hdig]

end Asked

/-- Settles O50: each packet of class 4 by the plan that accounts for it. -/
theorem bulkPacketsMoveItems : Obligations.BulkPacketsMoveItems := by
  refine ⟨fun s n p pk h hward => ?mirror,
    fun s n p pk hward => ⟨State.mirrorIn_of_no_ward n hward, State.mirrorSealIn_of_no_ward n hward⟩,
    fun s n p pk a => ?wardSeal, fun s n p pk hlen => ?credit, fun s n p pk hasked => State.itemDataIn_of_asked n hasked,
    fun s n p pk pl hpl hasked hadm => ?itemSeal,
    fun s n p pk h => ⟨State.itemDataIn_of_not_asked n h, State.itemSealIn_of_not_asked n h⟩,
    fun s n p pk h => if_neg fun ⟨hstandby, hitem⟩ => ?takeover⟩
  case mirror =>
    intro off size data v
    have hnoted : (v.wardItems h).contains (bulkItem pk, size) = true := s.noteWard_contains h (bulkItem pk) size
    obtain ⟨a, ha⟩ := State.wardPlace_of_contains hnoted
    refine ⟨hnoted, a, ha, State.mirrorIn_of_bytes n hward rfl rfl rfl rfl ha, fun hend => ⟨_,
      State.mirrorIn_of_tags n hward rfl rfl rfl rfl ha hend, State.putNegTags_neg ..,
      fun i hi => State.readNegTags_putNegTags v _ _ hi⟩⟩
  case wardSeal =>
    intro r ha slot c
    have heq := State.mirrorSealIn_of_place n ha
    exact ⟨fun hdig => heq.trans (if_neg (not_not_intro hdig)), fun hdig => heq.trans (if_pos hdig)⟩
  case credit =>
    intro m
    have heq := State.creditIn_of_mirror (s := s) (p := p) n hlen
    exact ⟨fun h => heq.trans (if_neg (by simpa using h)), fun h => heq.trans (if_pos (by simpa using h))⟩
  case itemSeal =>
    intro item r c u
    have heq := State.itemSealIn_of_asked n hasked hpl hadm
    refine ⟨fun h => heq.trans (if_pos h), fun hst hit hdig => ?_, fun hst hit hdig => ?_⟩
    · exact heq.trans ((if_neg (not_or.mpr ⟨not_not_intro hst, not_not_intro hit⟩)).trans (if_pos hdig))
    · have hbad := heq.trans ((if_neg (not_or.mpr ⟨not_not_intro hst, not_not_intro hit⟩)).trans (if_neg hdig))
      exact ⟨fun h => hbad.trans (if_neg (by simpa using h)), fun h => hbad.trans (if_pos h)⟩
  case takeover => exact h.elim (fun hno => by simp [hstandby] at hno) (fun hno => hno hitem)

end Sys2Proof.Machine
end

/-! # The intake (13_intake.md): samples, reserve copies, takes and dictionaries -/

section

set_option Elab.async false

open Sys2Proof Sys2Proof.Machine

namespace Sys2Proof.Machine

/-! ### Samples and takes (R353, R355 to R358) -/

section Sample

variable {s : State} {u : Nat}

/-- A sample that goes to a row takes it. -/
def State.assignTarget (s : State) (u : Nat) : SampleTarget → State
  | .row b r => s.modIntake u (fun x =>
      { x with buffers := x.buffers.modify b (fun y => { y with rows := y.rows.set r .assigned }) })
  | _ => s

theorem doSampleStart_of_idle {p q i : Nat} {a : Adopted} {t : SampleTarget} (ha : (s.intakeUnit u).adopted = some a)
    (hdict : a.take.text = false ∨ (s.intakeUnit u).active.isSome = true) (hidle : (s.intakeUnit u).idle a.take = true)
    (ht : (s.intakeUnit u).nextTarget a.take = some t)
    (hslot : (s.intakeUnit u).queue.find? (fun y => y.1 == a.p) = some (p, q, i)) :
    let h := s.slot p q i
    let v := (s.consumeSlot p q i).modIntake u (fun x => { x with
      queue := x.queue.filter (fun y => !(y == (p, q, i)))
      samples := x.samples ++ [⟨p, q, i, h, s.readWin p (s.payloadOf p q i) (min h.length (s.slotBytes p q)), a.par, t,
        (s.intakeUnit u).active.getD 0, s.time.now⟩] })
    doSampleStart u s = v.assignTarget u t := by
  have htext : ¬(a.take.text = true ∧ (s.intakeUnit u).active.isNone = true) := by
    rcases hdict with h | h
    · simp [h]
    · simp [Option.isNone_eq_false_iff.mpr h]
  rw [doSampleStart]
  dsimp only
  rw [ha]
  dsimp only
  rw [if_neg htext, if_neg (by simp [hidle])]
  simp only [ht, hslot]
  rfl

section Converting

variable {i : Nat} {x : IntakeSample} (hx : s.converting u i = some x) (hopen : s.targetOpen u x = true)
include hx hopen

theorem doSampleConverted_in_time {ns : Nat} (hns : ns ≤ s.slowBudget u x) :
    let v := (if s.time.everLocked then s.advanceTo (x.since + 4 * ns) else s).endConversion u i x
    doSampleConverted u i ns s =
      if x.fault = 0 then ((v.countSample u x).updateMean u x.header.format ns).placeSample u x
      else v.badSample u x x.fault := by
  rw [doSampleConverted, hx]
  exact if_neg (by simp [hopen, hns])

theorem doSampleSlow_of_open : doSampleSlow u i s =
    ((if s.time.everLocked then s.advanceTo (x.since + 4 * s.slowBudget u x) else s).endConversion u i x).badSample u x 4 := by
  rw [doSampleSlow, hx]
  exact if_neg (by simp [hopen])

end Converting

theorem doReserveCopyDone_of_copy {i : Nat} {c : IntakeCopy} {a : Adopted} (hc : (s.intakeUnit u).copies[i]? = some c)
    (ha : (s.intakeUnit u).adopted = some a) :
    doReserveCopyDone u i s = (s.modIntake u (fun y => { y with copies := y.copies.eraseIdx i })).settle u a c.buffer c.row
      (entryData a.take c.entry c.row c.status c.cause c.replaced) := by
  rw [doReserveCopyDone, hc, ha]

theorem doTakeBatch_of_adopted {c : Nat} {r : Running} {a : Adopted} (hrun : s.runningOn c = some r)
    (hop : r.task.op = 0x0010) (ha : (s.intakeUnit (r.task.par 2 1)).adopted = some a) :
    let u := r.task.par 2 1
    let v := (if (s.run r.p r.g r.t).finished.isEmpty then s.openTake r u a else s).endTask c r 0 false
    doTakeBatch c s = if r.task.cores.all (fun k => (v.run r.p r.g r.t).finished.contains k) then v.closeTake r u a else v := by
  rw [doTakeBatch, hrun]
  dsimp only
  rw [if_neg (by simp [hop]), ha]

end Sample

/-! ### Dictionaries (R349) -/

theorem State.pathHas.withPending {s : State} {e : EvKind} {u : UnitId} {d : Detail} (h : s.pathHas e u d) (q : List Instr) :
    ({ s with pending := q } : State).pathHas e u d := State.pathHas_congr (s := s) rfl h

theorem doDictionaryLoad_of_filled {s : State} {ring : Nat} {d : Started}
    (hd : s.findDesc ring 0x12 (fun d => d.opd 16 1 != 2) = some d) (hstray : d.dictStray = none) (hload : d.opd 16 1 = 1) :
    let p := s.ringPart ring
    let q := d.opd 20 2
    let i := d.opd 24 4
    s.slotFilled p q i 2 = true →
    let img := s.readWin p (s.payloadOf p q i) (min (s.slot p q i).length (s.slotBytes p q))
    doDictionaryLoad ring s =
      if failing (s.dictChecks p d) = [] then ((s.consumeSlot p q i).beginDesc ring d).modIntake (d.opd 17 1) (fun x =>
        { x with loads := x.loads ++ [⟨ring, d.seq, p, q, i, d.opd 18 1, (DictHeader.ofBytes img).bank img⟩]
                 banks := x.banks.set (d.opd 18 1) none })
      else ((s.consumeSlot p q i).refuseDict ring d (failing (s.dictChecks p d))).releaseSlot p q i := by
  intro p q i hfilled img
  rw [doDictionaryLoad, hd]
  dsimp only
  rw [hstray]
  dsimp only
  rw [if_neg (by simp [hload]), if_neg (by simp only [p, q, i] at hfilled; simp [hfilled])]
  by_cases hchecks : failing (s.dictChecks (s.ringPart ring) d) = []
  · exact Eq.trans (if_neg (by simp [hchecks])) (if_pos hchecks).symm
  · exact Eq.trans (if_pos (by simpa using hchecks)) (if_neg hchecks).symm

theorem doDictionaryActivate_of_good {s : State} {ring : Nat} {d : Started}
    (hd : s.findDesc ring 0x12 (fun d => d.opd 16 1 == 2) = some d) (hstray : d.dictStray = none) :
    doDictionaryActivate ring s = s.request (s.ringPart ring) .dictionary ring d := by
  rw [doDictionaryActivate, hd]
  dsimp only
  rw [hstray]

theorem doDictionaryActivateApply_of_next {s : State} {p : Nat} {rq : Request} {d : Started}
    (h : s.nextRequest p .dictionary = some (rq, d)) :
    let v := s.dropRequest p rq
    let w := (v.modIntake (d.opd 17 1) (fun x => { x with active := some (d.opd 18 1) })).finish rq.ring d .done
    doDictionaryActivateApply p s = if failing (v.dictChecks p d) = [] then
        w.raise Ev.dictionaryActive (UnitId.intake (d.opd 17 1))
          { object := d.opd 18 1, value := w.get (Reg.intDictId (d.opd 17 1) (d.opd 18 1)) }
      else v.refuseDict rq.ring d (failing (v.dictChecks p d)) := by
  intro v w
  rw [doDictionaryActivateApply, h]
  dsimp only
  by_cases hchecks : failing (v.dictChecks p d) = []
  · exact Eq.trans (if_neg (by simpa [v] using hchecks)) (if_pos hchecks).symm
  · exact Eq.trans (if_pos (by simpa [v] using hchecks)) (if_neg hchecks).symm

section LoadDone

variable {s : State} {u b : Nat} {l : DictLoad}

/-- The end of a load, before its event: the bank holds the dictionary, its register says which, and the descriptor that
loaded it ends. -/
def State.endLoad (s : State) (u b : Nat) (l : DictLoad) : State :=
  let v := ((s.modIntake u (fun x =>
    { x with loads := x.loads.filter (fun y => !(y.ring == l.ring && y.seq == l.seq)), banks := x.banks.set b (some l.dict) })).set
      (Reg.intDictId u b) l.dict.dictId).releaseSlot l.p l.pool l.index
  match v.descOf l.ring l.seq with
  | some d => v.finish l.ring d .done
  | none => v

/-- From the write of the bank's register on, the end of a load touches only the slot's pool, what goes out and the ring. -/
theorem State.endLoad_same (s : State) (u b : Nat) (l : DictLoad) :
    ((s.modIntake u (fun x =>
      { x with loads := x.loads.filter (fun y => !(y.ring == l.ring && y.seq == l.seq)), banks := x.banks.set b (some l.dict) })).set
        (Reg.intDictId u b) l.dict.dictId).same [.pools, .out, .rings] (s.endLoad u b l) := by
  unfold State.endLoad
  dsimp only
  split
  · exact State.finish_keeps rfl (State.releaseSlot_keeps rfl (State.same_refl _ _))
  · exact State.releaseSlot_keeps rfl (State.same_refl _ _)

theorem State.banks_endLoad {x : IntakeUnit} (hx : s.intake[u]? = some x) (hb : b < x.banks.length) :
    ((s.endLoad u b l).intakeUnit u).banks[b]? = some (some l.dict) := by
  have hintake : (s.endLoad u b l).intake = _ := (s.endLoad_same u b l).on .intake rfl
  simp [State.intakeUnit, hintake, State.modIntake, hx, hb]

theorem State.get_intDictId_endLoad : (s.endLoad u b l).get (Reg.intDictId u b) = l.dict.dictId % 2 ^ 32 := by
  have hregs : (s.endLoad u b l).regs = _ := (s.endLoad_same u b l).on .regs rfl
  exact (State.get_congr _ hregs).trans (State.get_set_self ..)

theorem doDictionaryLoadDone_of_load (h : (s.intakeUnit u).loads.find? (fun l => l.bank == b) = some l) :
    doDictionaryLoadDone u b s = (s.endLoad u b l).raise Ev.dictionaryLoaded (UnitId.intake u)
      { object := b, value := l.dict.dictId } := by
  rw [doDictionaryLoadDone, h]
  rfl

end LoadDone

theorem isTickStatus_intDictId {u b : Nat} (hu : u < 2) (hb : b < 2) : isTickStatus (Reg.intDictId u b).addr = false := by
  obtain rfl | rfl : u = 0 ∨ u = 1 := by omega
  all_goals
    obtain rfl | rfl : b = 0 ∨ b = 1 := by omega
    · rfl
    · rfl

/-- Settles O52: samples by their target and their time, takes by their cores, and dictionaries by the checks of R349. -/
theorem intakeSettlesRowsAndBanks : Obligations.IntakeSettlesRowsAndBanks := by
  refine ⟨⟨fun s u p q i a t hon ha hdict hidle ht hslot =>
      next_whenOn_of_eq hon (doSampleStart_of_idle ha hdict hidle ht hslot),
    fun s u i ns x hon hx hns hopen => next_whenOn_of_eq hon (doSampleConverted_in_time hx hopen hns),
    fun s u i x hon hx hopen => next_whenOn_of_eq hon (doSampleSlow_of_open hx hopen),
    fun s u i c a hon hc ha => next_whenOn_of_eq hon (doReserveCopyDone_of_copy hc ha),
    fun s c r a hon hrun hop ha => next_whenOn_of_eq hon (doTakeBatch_of_adopted hrun hop ha)⟩,
    fun s ring d hon hd hstray hload hfilled => next_whenOn_of_eq hon (doDictionaryLoad_of_filled hd hstray hload hfilled),
    fun s u b l x hon hu hb hx hl hlen => ?loaded,
    fun s ring d hon hd hstray => next_whenOn_of_eq hon (doDictionaryActivate_of_good hd hstray),
    fun s p rq d hon h => next_whenOn_of_eq hon (doDictionaryActivateApply_of_next h)⟩
  case loaded =>
    have hunit : s.intakeUnit u = x := by rw [State.intakeUnit, hx, Option.getD_some]
    rw [← hunit] at hl
    have hraised := State.pathHas_raise (s.endLoad u b l) Ev.dictionaryLoaded (UnitId.intake u)
      { object := b, value := l.dict.dictId }
    refine ⟨_, next_whenOn_of_eq hon (doDictionaryLoadDone_of_load hl), ?_, ?_, hraised.withPending s.pending⟩
    · refine Eq.trans ?_ (State.banks_endLoad (s := s) (l := l) hx hlen)
      have hintake := State.raise_intake (s.endLoad u b l) Ev.dictionaryLoaded (UnitId.intake u)
        { object := b, value := l.dict.dictId }
      exact congrArg (fun i : List IntakeUnit => ((i[u]?).getD IntakeUnit.init).banks[b]?) hintake
    · exact (State.get_withPending ..).trans
        ((State.get_raise _ _ _ _ _ (isTickStatus_intDictId hu hb)).trans State.get_intDictId_endLoad)

end Sys2Proof.Machine
end

/-! # The vendor commands (16_trust_lifecycle.md, R418 to R424, R428) -/

section

set_option Elab.async false

open Sys2Proof Sys2Proof.Machine

namespace Sys2Proof.Machine

/-- A vendor command that the session may not send is refused, and the host hears of it. -/
def State.refuseVendor (s : State) (n code : Nat) : State :=
  (s.raiseFor (s.boundOf n) Ev.vendorCmdRefused UnitId.root { object := code }).reply (.vendorRefused code)

section Vendor

variable {s : State} {n : Nat} {code : Nat} {may : Session → Bool} {act : State → Session → State} (hlive : s.lifeState ≠ 4)
include hlive

theorem State.vendor_of_no_session (h : s.openSession n = none) : s.vendor n code may act = s.refuseVendor n code := by
  rw [State.vendor, if_neg hlive, h]
  rfl

variable {x : Session} (hx : s.openSession n = some x)
include hx

theorem State.vendor_of_refused (h : may x = false) : s.vendor n code may act = s.refuseVendor n code := by
  rw [State.vendor, if_neg hlive, hx, Option.filter_some, if_neg (by simp [h])]
  rfl

theorem State.vendor_of_allowed (h : may x = true) : s.vendor n code may act = act (s.reply (.vendorDone code)) x := by
  rw [State.vendor, if_neg hlive, hx, Option.filter_some, if_pos h]

end Vendor

/-- SCAN_ENABLE opens the scan once every key is destroyed and every memory wiped. -/
def State.openScan (s : State) : State :=
  (s.clearSecrets.wipeAll.set Reg.secLifecycle_scan 1).raise Ev.scanEnabled UnitId.root

theorem State.staging_clearSecrets (s : State) : s.clearSecrets.staging = [] := by
  rw [State.clearSecrets_eq]
  rfl

theorem State.openScan_wipes (s : State) :
    s.openScan.mem = [] ∧ s.openScan.staging = [] ∧ s.openScan.plans = [] ∧ s.openScan.contexts = [] ∧
      s.openScan.trust.sessions = [] := by
  have htrust : s.openScan.trust = s.trust.withoutSessions := (State.raise_trust ..).trans s.trust_clearSecrets
  exact ⟨State.raise_mem .., (State.raise_staging ..).trans s.staging_clearSecrets, State.raise_plans ..,
    State.raise_contexts .., congrArg Trust.sessions htrust⟩

theorem State.get_scan_openScan (s : State) : s.openScan.get Reg.secLifecycle_scan = 1 :=
  (State.get_raise _ _ _ _ _ rfl).trans (State.get_set_self ..)

theorem State.pathHas_openScan (s : State) : s.openScan.pathHas Ev.scanEnabled UnitId.root {} := State.pathHas_raise ..

/-- UNSEAL releases the sealed-region key to the Fixer of a partition. -/
def State.releaseSealKey (s : State) (p : Nat) : State :=
  ((s.modTrust (fun t => { t with unsealed := some p })).set ⟨0xD00020 + 4 * p, 3, 1⟩ 1).raiseFor (some p)
    Ev.sealKeyReleased UnitId.root { object := p }

theorem State.unsealed_releaseSealKey (s : State) (p : Nat) : (s.releaseSealKey p).trust.unsealed = some p :=
  congrArg Trust.unsealed (State.raiseFor_trust ..)

theorem State.pathHas_releaseSealKey (s : State) (p : Nat) :
    (s.releaseSealKey p).pathHas Ev.sealKeyReleased UnitId.root { object := p } := State.pathHas_raiseFor ..

/-- Settles O59: without an open session, or with one that may not send the command now, it is refused; otherwise it has its
effect. -/
theorem vendorCommandsNeedTheirSession : Obligations.VendorCommandsNeedTheirSession := by
  refine ⟨fun s n hon hlive h => ?none, fun s n x hon hlive hx => ?refused, fun s n x hon hlive hx => ?allowed⟩
  case none =>
    have hno := fun {code may act} => State.vendor_of_no_session (code := code) (may := may) (act := act) hlive h
    exact ⟨fun _ => next_whenOn_of_eq hon hno, fun _ _ => next_whenOn_of_eq hon hno, fun _ _ => next_whenOn_of_eq hon hno,
      next_whenOn_of_eq hon hno, next_whenOn_of_eq hon hno, fun _ => next_whenOn_of_eq hon hno,
      fun _ => next_whenOn_of_eq hon hno, fun _ _ => next_whenOn_of_eq hon hno, next_whenOn_of_eq hon hno,
      fun _ => next_whenOn_of_eq hon hno, fun _ => next_whenOn_of_eq hon hno, next_whenOn_of_eq hon hno⟩
  case refused =>
    have hno := fun {code may act} (h : may x = false) =>
      State.vendor_of_refused (code := code) (may := may) (act := act) hlive hx h
    refine ⟨fun p h => next_whenOn_of_eq hon (hno ?_), fun p rs h => next_whenOn_of_eq hon (hno ?_),
      fun p k h => next_whenOn_of_eq hon (hno ?_), fun h => next_whenOn_of_eq hon (hno ?_),
      fun h => next_whenOn_of_eq hon (hno ?_), fun f h => next_whenOn_of_eq hon (hno h),
      fun m h => next_whenOn_of_eq hon (hno ?_), fun l w h => next_whenOn_of_eq hon (hno ?_),
      fun h => next_whenOn_of_eq hon (hno ?_), fun w h => next_whenOn_of_eq hon (hno h),
      fun b h => next_whenOn_of_eq hon (hno ?_), fun h h' => next_whenOn_of_eq hon (hno ?_)⟩
    · rcases h with h | h | h | h <;> simp [h]
    · rcases h with h | h | h | h
      · simp [h]
      · simp [h]
      · simp [Nat.not_le.mpr h]
      · simp [h]
    · rcases h with h | h | h <;> simp [h]
    · rcases h with h | h <;> simp [h, Option.isSome_iff_ne_none]
    · rcases h with h | h | h | h <;> simp [h]
    · rcases h with h | h | h | h <;> simp [h]
    · rcases h with h | h | h <;> simp [h]
    · simp [h]
    · rcases h with h | h | h <;> simp [h]
    · rcases h with h | h <;> rcases h' with h' | h' <;> simp [h, h']
  case allowed =>
    have hyes := fun {code may act} (h : may x = true) =>
      State.vendor_of_allowed (code := code) (may := may) (act := act) hlive hx h
    refine ⟨fun p _ hown hbound hpart hfree => next_whenOn_of_eq hon (hyes (by simp [hown, hbound, hpart, hfree])),
      fun p rs hbound hphase hlen hgood => next_whenOn_of_eq hon (hyes (by simp [hbound, hphase, hlen, hgood])),
      fun p k hbound hphase hlen => next_whenOn_of_eq hon (hyes (by simp [hbound, hphase, hlen])),
      fun hown hholder => next_whenOn_of_eq hon (hyes (by simp [hown, hholder])),
      fun p hown hbound hkey hholder => ?released, fun full hown => next_whenOn_of_eq hon (hyes hown),
      fun m hown hidle hplans hmap => next_whenOn_of_eq hon (hyes (by simp [hown, hidle, hplans, hmap])),
      fun target w hown hadm hlegal => next_whenOn_of_eq hon (hyes (by simp [hown, hadm, hlegal])),
      fun hstate => next_whenOn_of_eq hon (hyes (by simp [hstate])), fun w hown => next_whenOn_of_eq hon (hyes hown),
      fun b hown hstate => next_whenOn_of_eq hon ?grade, fun h => ?scan⟩
    case released =>
      have heq : doUnsealRegion n s = (s.reply (.vendorDone 0x05)).releaseSealKey (x.bound.getD 0) :=
        hyes (by simp [hown, hbound, hkey, hholder])
      rw [hbound] at heq
      exact ⟨_, next_whenOn_of_eq hon heq, State.unsealed_releaseSealKey .., State.pathHas_releaseSealKey ..⟩
    case grade =>
      cases hgood : s.gradeGood b with
      | true => exact hyes (by simp [hown, hstate, hgood])
      | false => exact State.vendor_of_refused hlive hx (by simp [hgood])
    case scan =>
      have heq : doScanEnable n s = (s.reply (.vendorDone 0x0C)).openScan :=
        hyes (by rcases h with ⟨h, h'⟩ | ⟨h, h'⟩ <;> simp [h, h'])
      obtain ⟨hmem, hstaging, hplans, hctx, hsessions⟩ := (s.reply (.vendorDone 0x0C)).openScan_wipes
      exact ⟨_, next_whenOn_of_eq hon heq, hmem, hstaging, hplans, hctx, hsessions,
        (State.get_withPending ..).trans (State.get_scan_openScan _), State.pathHas_openScan _⟩

end Sys2Proof.Machine
end

/-! # Requests and sessions (16_trust_lifecycle.md, R416 to R418) -/

section

set_option Elab.async false

open Sys2Proof Sys2Proof.Machine

namespace Sys2Proof.Machine

/-! ### Requests outside sessions (R416, R417) -/

/-- In `t` the request has been answered with `r`, and of the state of the requests only the chunks and the large response may
have changed. -/
structure State.answersWith (s t : State) (r : SpdmReply) : Prop where
  spdm : t.out.spdm = s.out.spdm ++ [r]
  same : s.same [.out, .trust] t
  sessions : t.trust.sessions = s.trust.sessions
  delivery : t.trust.delivery = s.trust.delivery

theorem State.answersWith_reply (s : State) {f : Trust → Trust} (hsessions : (f s.trust).sessions = s.trust.sessions)
    (hdelivery : (f s.trust).delivery = s.trust.delivery) (r : SpdmReply) :
    s.answersWith { (s.modTrust f).reply r with pending := s.pending } r :=
  ⟨rfl, (State.reply_keeps rfl (State.modTrust_keeps rfl (State.same_refl _ s))).withPending _, hsessions, hdelivery⟩

/-- The outcome of a command whose operation answers a request. -/
theorem answers_whenOn {s : State} (hon : s.power.off = false) {f : State → State} {g : Trust → Trust} {r : SpdmReply}
    (hf : f s = (s.modTrust g).reply r) (hsessions : (g s.trust).sessions = s.trust.sessions)
    (hdelivery : (g s.trust).delivery = s.trust.delivery) :
    ∃ t, (.next (s.whenOn f) : Host.Outcome State Fault Refusal) = .next t ∧ s.answersWith t r :=
  ⟨_, next_whenOn_of_eq hon hf, s.answersWith_reply hsessions hdelivery r⟩

section Alive

variable {s : State} (hlive : s.lifeState ≠ 4)
include hlive

theorem State.replyAlive_of_alive (r : SpdmReply) : s.replyAlive r = s.reply r := if_neg hlive

theorem doGetCertificate_of_alive (n o l : Nat) :
    doGetCertificate n o l s = (s.modTrust (fun t => { t with large := (s.trust.chain.drop o).take l })).reply
      (.certificate ((s.trust.chain.drop o).take l)) := by
  rw [doGetCertificate, State.replyAlive_of_alive hlive]
  simp only [if_neg hlive]
  rfl

/-- The chunks of session `n` with `b` behind what has gathered, which chunk number 0 begins anew. -/
def Trust.gather (t : Trust) (n k : Nat) (b : List Byte) : Trust :=
  { t with chunks := t.chunks.filter (fun c => c.1 != n) ++
      [(n, (if k = 0 then [] else ((t.chunks.find? (fun c => c.1 == n)).map (·.2)).getD []) ++ b)] }

theorem doChunkSend_of_alive (n k : Nat) (l : Bool) (b : List Byte) :
    doChunkSend n k l b s = (s.modTrust (·.gather n k b)).reply (.chunkSendAck k) := if_neg hlive

end Alive

/-- The measurements that a request for index `i` is answered with. -/
def measuredIndices (i : Nat) : List Nat :=
  if i = 0xFF then [1, 2, 3, 4, 5, 6, 7, 8] else if 1 ≤ i ∧ i ≤ 8 then [i] else []

theorem measuredIndices_of_index {i : Nat} (hlo : 1 ≤ i) (hhi : i ≤ 8) : measuredIndices i = [i] := by
  rw [measuredIndices, if_neg (by omega), if_pos ⟨hlo, hhi⟩]

theorem measuredIndices_of_other {i : Nat} (h : i = 0 ∨ (8 < i ∧ i ≠ 0xFF)) : measuredIndices i = [] := by
  rw [measuredIndices, if_neg (by omega), if_neg (by omega)]

theorem doGetMeasurements_eq (n i : Nat) (b : List Byte) (s : State) : doGetMeasurements n i b s =
    if (measuredIndices i).isEmpty then s.reply .refused
    else s.reply (.measurements ((measuredIndices i).map (fun i => (i, s.measure n i)))
      (if s.lifeState = 4 then [] else s.sign (b ++ (measuredIndices i).flatMap (fun i => s.measure n i)))) := by
  rw [← List.flatMap_map (fun i => (i, s.measure n i)) (·.2)]
  rfl

theorem doGetMeasurements_of_index (n : Nat) {i : Nat} (b : List Byte) (s : State) (hlo : 1 ≤ i) (hhi : i ≤ 8) :
    doGetMeasurements n i b s = s.reply (.measurements [(i, s.measure n i)]
      (if s.lifeState = 4 then [] else s.sign (b ++ s.measure n i))) := by
  rw [doGetMeasurements_eq, measuredIndices_of_index hlo hhi, if_neg (by simp), List.map_singleton, List.flatMap_singleton]

theorem doGetMeasurements_of_no_index (n : Nat) {i : Nat} (b : List Byte) (s : State) (h : i = 0 ∨ (8 < i ∧ i ≠ 0xFF)) :
    doGetMeasurements n i b s = s.reply .refused := by
  rw [doGetMeasurements_eq, measuredIndices_of_other h, if_pos List.isEmpty_nil]

theorem Trust.find_gather (t : Trust) (n k : Nat) (b : List Byte) :
    ((t.gather n k b).chunks.find? (fun c => c.1 == n)).map (·.2) =
      some ((if k = 0 then [] else ((t.chunks.find? (fun c => c.1 == n)).map (·.2)).getD []) ++ b) := by
  have hrest : (t.chunks.filter (fun c => c.1 != n)).find? (fun c => c.1 == n) = none := by
    simp
  rw [Trust.gather, List.find?_append, hrest]
  simp

section Retired

variable {s : State} (hret : s.lifeState = 4)
include hret

theorem State.replyAlive_of_retired (r : SpdmReply) : s.replyAlive r = s := if_pos hret

end Retired

theorem State.reply_same (s : State) (r : SpdmReply) : s.same [.out] { s.reply r with pending := s.pending } :=
  (State.reply_keeps rfl (State.same_refl _ s)).withPending _

theorem State.counter_reply (s : State) (r : SpdmReply) (q : List Instr) (lo : Nat) :
    ({ s.reply r with pending := q } : State).counter lo = s.counter lo := State.counter_congr lo rfl

theorem State.get_reply (s : State) (r : SpdmReply) (q : List Instr) (f : Fld) :
    ({ s.reply r with pending := q } : State).get f = s.get f := State.get_congr f rfl

theorem State.pathHas.reply {s : State} {e : EvKind} {u : UnitId} {d : Detail} (h : s.pathHas e u d) (r : SpdmReply)
    (q : List Instr) : ({ s.reply r with pending := q } : State).pathHas e u d := State.pathHas_congr (s := s) rfl h

/-! ### Sessions (R418) -/

theorem doKeyExchange_of_alive {s : State} (hlive : s.lifeState ≠ 4) (n : Nat) (b : List Byte) :
    let m := s.trust.nextSession + 1
    doKeyExchange n b s = (((s.modTrust (fun t => { t with
      nextSession := m, sessions := t.sessions ++ [⟨m, false, false, none, [], 0⟩] })).reply (.keyExchangeRsp m)).reply
        (.encapsulated m .getDigests)).reply (.encapsulated m .getCertificate) := if_neg hlive

/-- A session is gone from the table. -/
def State.dropSession (s : State) (n : Nat) : State :=
  s.modTrust (fun t => { t with sessions := t.sessions.filter (fun y => y.id != n) })

/-- FINISH opens a session, as the owner's or a tenant's. -/
def State.authSession (s : State) (n : Nat) (owner : Bool) (keyHash : List Byte) : State :=
  let v := s.modSession n (fun x => { x with authed := true, owner := owner, keyHash := keyHash })
  if owner then v.set Reg.secView_ownerSession 1 else v

section Finish

variable {s : State} {n : Nat} {a : FinishAuth} {x : Session} (hx : s.session n = some x) (hauth : x.authed = false)
include hx hauth

theorem doFinish_of_failed (ha : a.verified = false) : doFinish n a s =
    (((s.dropSession n).count Ctr.secAuthFailCount).raise Ev.sessionAuthFail UnitId.root).reply .refused := by
  rw [doFinish, hx, Option.filter_some, if_pos (by simp [hauth])]
  exact if_pos (by simp [ha])

theorem doFinish_of_verified (ha : a.verified = true)
    (hfree : s.trust.owner ≠ some a.keyHash ∨ ∀ y ∈ s.trust.sessions, y.authed = true → y.owner = false) :
    doFinish n a s = ((s.authSession n (decide (s.trust.owner = some a.keyHash)) a.keyHash).count
      Ctr.secSessionsCount).reply (.finishRsp n) := by
  rw [doFinish, hx, Option.filter_some, if_pos (by simp [hauth])]
  dsimp only
  rw [if_neg (by simp [ha]), if_neg]
  · rfl
  rcases hfree with h | h
  · simp [h]
  · simpa using fun _ => h

end Finish

theorem State.trust_authSession (s : State) (n : Nat) (owner : Bool) (keyHash : List Byte) :
    (s.authSession n owner keyHash).trust.sessions = s.trust.sessions.map (fun y =>
      if y.id = n then { y with authed := true, owner := owner, keyHash := keyHash } else y) := by
  cases owner <;> rfl

theorem State.counters_authSession (s : State) (n : Nat) (owner : Bool) (keyHash : List Byte) :
    (s.authSession n owner keyHash).counters = s.counters := by
  cases owner <;> rfl

theorem State.out_authSession (s : State) (n : Nat) (owner : Bool) (keyHash : List Byte) :
    (s.authSession n owner keyHash).out = s.out := by
  cases owner <;> rfl

section Open

variable {s : State} {n : Nat} {x : Session} (hx : s.openSession n = some x)
include hx

theorem doHeartbeat_of_open : doHeartbeat n s = s.reply .heartbeatAck := if_pos (by rw [hx]; rfl)

theorem doKeyUpdate_of_open (op : Nat) :
    doKeyUpdate n op s = (s.modSession n (fun y => { y with keys := y.keys + 1 })).reply (.keyUpdateAck op) :=
  if_pos (by rw [hx]; rfl)

theorem doEndSession_of_open : doEndSession n s = (s.closeSession x 1).reply .endSessionAck := by rw [doEndSession, hx]

theorem doHeartbeatTimeout_of_open : doHeartbeatTimeout n s = s.closeSession x 2 := by rw [doHeartbeatTimeout, hx]

end Open

/-- The owner's session leaves the table, with its chunks, and its view ends. -/
def State.dropOwner (s : State) (x : Session) : State :=
  ((s.modTrust (fun t => { t with
    sessions := t.sessions.filter (fun y => y.id != x.id), chunks := t.chunks.filter (fun c => c.1 != x.id) })).set
      Reg.secView_fullView 0).set Reg.secView_ownerSession 0

theorem State.closeSession_of_owner {x : Session} (hown : x.owner = true) (s : State) (cause : Nat) :
    s.closeSession x cause = (s.dropOwner x).raiseFor x.bound Ev.sessionClosed UnitId.root
      { object := 0xFFFF, cause := cause } := by
  rw [State.closeSession, if_pos hown, State.raiseClosed, State.sessionObject, if_pos hown]
  rfl

/-- Settles O58: requests by the life-cycle state, and the life of a session from its key exchange to its end. -/
theorem requestsAndSessions : Obligations.RequestsAndSessions := by
  refine ⟨⟨fun s n hon hlive => ?alive, fun s n a hon hret => ?retired⟩, fun s n b hon hlive => ?exchange,
    fun s n a x hon hx hauth => ?finish, fun s n op x hon hx => ⟨next_whenOn_of_eq hon (doHeartbeat_of_open hx),
      next_whenOn_of_eq hon (doKeyUpdate_of_open hx op), next_whenOn_of_eq hon (doEndSession_of_open hx),
      next_whenOn_of_eq hon (doHeartbeatTimeout_of_open hx)⟩, fun s x cause hown => ?closed⟩
  case alive =>
    have hsign : ∀ m, (if s.lifeState = 4 then [] else s.sign m) = s.sign m := fun _ => if_neg hlive
    have hans : ∀ {f : State → State} {r : SpdmReply}, f s = s.reply r →
        ∃ t, (.next (s.whenOn f) : Host.Outcome State Fault Refusal) = .next t ∧ t.out.spdm = s.out.spdm ++ [r] ∧
          s.same [.out, .trust] t ∧ t.trust.sessions = s.trust.sessions ∧ t.trust.delivery = s.trust.delivery := by
      intro f r hf
      obtain ⟨t, ht, hspdm, hsame, hsessions, hdelivery⟩ := answers_whenOn (g := id) hon hf rfl rfl
      exact ⟨t, ht, hspdm, hsame, hsessions, hdelivery⟩
    refine ⟨hans rfl, hans (State.replyAlive_of_alive hlive _), fun a => hans (State.replyAlive_of_alive hlive _),
      hans (State.replyAlive_of_alive hlive _), fun o l => ?cert, fun b => hans (State.replyAlive_of_alive hlive _),
      fun i b hlo hhi => hans ?index, fun b => hans ?every, fun i b h => hans (doGetMeasurements_of_no_index n b s h),
      fun k l b => ?chunk, fun k => hans (State.replyAlive_of_alive hlive _),
      fun c => hans (State.replyAlive_of_alive hlive _)⟩
    case cert =>
      obtain ⟨t, ht, hspdm, hsame, hsessions, hdelivery⟩ :=
        answers_whenOn hon (doGetCertificate_of_alive hlive n o l) rfl rfl
      exact ⟨t, ht, hspdm, hsame, hsessions, hdelivery⟩
    case index => rw [doGetMeasurements_of_index n b s hlo hhi, hsign]
    case every =>
      have hall : measuredIndices 0xFF = [1, 2, 3, 4, 5, 6, 7, 8] := rfl
      rw [doGetMeasurements_eq, hsign, hall, if_neg (by decide)]
    case chunk =>
      obtain ⟨hspdm, hsame, hsessions, hdelivery⟩ := s.answersWith_reply (f := (·.gather n k b)) rfl rfl (.chunkSendAck k)
      exact ⟨_, next_whenOn_of_eq hon (doChunkSend_of_alive hlive n k l b), ⟨hspdm, hsame, hsessions, hdelivery⟩,
        s.trust.find_gather n k b⟩
  case retired =>
    refine ⟨next_whenOn_of_eq hon (State.replyAlive_of_retired hret _), next_whenOn_of_eq hon (State.replyAlive_of_retired hret _),
      next_whenOn_of_eq hon (State.replyAlive_of_retired hret _), fun i b hlo hhi => ?_, _,
      next_whenOn_of_eq hon rfl, rfl, s.reply_same _⟩
    have heq := doGetMeasurements_of_index n b s hlo hhi
    rw [if_pos hret] at heq
    exact ⟨_, next_whenOn_of_eq hon heq, rfl, s.reply_same _⟩
  case exchange => exact ⟨_, next_whenOn_of_eq hon (doKeyExchange_of_alive hlive n b), rfl, by simp [State.reply, State.modTrust],
      (State.reply_keeps rfl (State.reply_keeps rfl (State.reply_keeps rfl (State.modTrust_keeps rfl
        (State.same_refl _ s))))).withPending _⟩
  case finish =>
    refine ⟨fun ha => ?failed, fun ha hown => ?tenant, fun ha hown hnone => ?owner⟩
    case failed =>
      let v := (s.dropSession n).count Ctr.secAuthFailCount
      have htrust : (v.raise Ev.sessionAuthFail UnitId.root {}).trust = (s.dropSession n).trust :=
        (State.raise_trust v ..).trans (State.count_trust ..)
      have hcounter : (v.raise Ev.sessionAuthFail UnitId.root {}).counter Ctr.secAuthFailCount = _ :=
        (State.counter_congr _ (State.raise_counters v ..)).trans ((State.counter_count ..).trans (if_pos rfl))
      have hpath := State.pathHas_raise v Ev.sessionAuthFail UnitId.root {}
      exact ⟨_, next_whenOn_of_eq hon (doFinish_of_failed hx hauth ha), congrArg Trust.sessions htrust,
        (State.counter_reply ..).trans hcounter, hpath.reply _ _⟩
    case tenant =>
      have heq := doFinish_of_verified hx hauth ha (.inl hown)
      rw [decide_eq_false hown] at heq
      let v := s.authSession n false a.keyHash
      have hsessions := (congrArg Trust.sessions (State.count_trust v Ctr.secSessionsCount 1)).trans
        (State.trust_authSession s n false a.keyHash)
      have hcount := State.counter_count v Ctr.secSessionsCount 1 Ctr.secSessionsCount
      rw [if_pos rfl, State.counter_congr _ (State.counters_authSession s n false a.keyHash)] at hcount
      have hspdm : (v.count Ctr.secSessionsCount).out.spdm = s.out.spdm := by
        rw [State.count_out, State.out_authSession]
      exact ⟨_, next_whenOn_of_eq hon heq, hsessions,
        (State.counter_reply ..).trans hcount, congrArg (· ++ [SpdmReply.finishRsp n]) hspdm⟩
    case owner =>
      have heq := doFinish_of_verified hx hauth ha (.inr hnone)
      rw [decide_eq_true hown] at heq
      let v := s.authSession n true a.keyHash
      refine ⟨_, next_whenOn_of_eq hon heq, ?_, (congrArg Trust.sessions (State.count_trust v _ _)).trans (State.trust_authSession ..)⟩
      have hview : (v.count Ctr.secSessionsCount).get Reg.secView_ownerSession = 1 :=
        (State.get_count _ _ _ _ rfl).trans (State.get_set_self ..)
      exact (State.get_reply ..).trans hview
  case closed =>
    rw [State.closeSession_of_owner hown]
    refine ⟨?_, ?_, congrArg Trust.sessions (State.raiseFor_trust ..), State.pathHas_raiseFor ..⟩
    · rw [State.get_raiseFor _ _ _ _ _ _ rfl, State.dropOwner, State.get_set_apart _ _ _ _ (by unfold Fld.apart; decide),
        State.get_set_self]
      rfl
    · rw [State.get_raiseFor _ _ _ _ _ _ rfl, State.dropOwner, State.get_set_self]
      rfl

end Sys2Proof.Machine
end

/-! # Resets and start-up (16_trust_lifecycle.md, R404, R405, R410, R424, R429) -/

section

set_option Elab.async false

open Sys2Proof Sys2Proof.Machine

namespace Sys2Proof.Machine

/-! ### What a reset keeps (R405) -/

/-- A field keeps the value it has through writes of fields apart from it. -/
theorem State.get_foldl_set_apart (v : Fld → Nat) {f : Fld} (l : List Fld) (h : ∀ g ∈ l, g.apart f) (s : State) :
    (l.foldl (fun (t : State) g => t.set g (v g)) s).get f = s.get f :=
  List.foldlRecOn (motive := fun t : State => t.get f = s.get f) l _ rfl fun _ ht g hg =>
    (State.get_set_apart _ _ _ _ (h g hg)).trans ht

/-- A field among those that are written reads as its value, if the others are apart from it. -/
theorem State.get_foldl_set_of_mem (v : Fld → Nat) {f : Fld} (l : List Fld) (h : ∀ g ∈ l, g = f ∨ g.apart f) (s : State)
    (hf : f ∈ l ∨ s.get f = v f % 2 ^ f.width) :
    (l.foldl (fun (t : State) g => t.set g (v g)) s).get f = v f % 2 ^ f.width := by
  induction l generalizing s with
  | nil => exact hf.resolve_left (by simp)
  | cons g l ih =>
    refine ih (fun k hk => h k (List.mem_cons_of_mem _ hk)) _ ?_
    rcases h g List.mem_cons_self with rfl | happ
    · exact .inr (State.get_set_self ..)
    · rcases hf with hf | hf
      · rcases List.mem_cons.mp hf with rfl | hf
        · exact .inr (State.get_set_self ..)
        · exact .inl hf
      · exact .inr ((State.get_set_apart _ _ _ _ happ).trans hf)

/-- The state of a reset before the sessions that it cuts off end. -/
def State.resetBase (s : State) (cause : Nat) : State :=
  ({ State.reset with
    fitted := s.fitted, regs := s.resetRegs, counters := s.counters.filter (fun e => keptCounters.contains e.1)
    events := ⟨[], [], s.events.flash, newest s.events.flashNew s.events.flash, false, 0, [0, 0, 0, 0]⟩
    neg := s.sealedOnly.1, negTags := s.sealedOnly.2, rowsUsed := s.rowsUsed, retired := s.retired
    trust := s.trust.afterReset cause, wards := s.wards, out := s.out, freeCtr := s.freeCtr, pending := s.pending } : State).set
      Reg.secBootStatus_cause cause

theorem State.resetModule_eq (s : State) (cause : Nat) : s.resetModule cause =
    (s.trust.sessions.filter (·.authed)).foldl (fun t x => t.raiseClosed x 3) (s.resetBase cause) := rfl

theorem State.resetModule_same (s : State) (cause : Nat) :
    (s.resetBase cause).same [.regs, .seq, .seqReported, .events, .freeCtr] (s.resetModule cause) :=
  foldl_keeps _ _ (fun _ _ h => State.raiseClosed_keeps rfl h) (State.same_refl _ _)

theorem State.sameLasting_resetModule (s : State) (cause : Nat) : (s.resetBase cause).sameLasting (s.resetModule cause) :=
  foldl_sameLasting (fun t x _ => t.sameLasting_raiseClosed x 3) _

theorem State.fitted_resetModule (s : State) (cause : Nat) : (s.resetModule cause).fitted = s.fitted := by
  rw [show (s.resetModule cause).fitted = (s.resetBase cause).fitted from (s.resetModule_same cause).on .fitted rfl,
    State.resetBase, State.set_fitted]

theorem State.rowsUsed_resetModule (s : State) (cause : Nat) : (s.resetModule cause).rowsUsed = s.rowsUsed := by
  rw [show (s.resetModule cause).rowsUsed = (s.resetBase cause).rowsUsed from (s.resetModule_same cause).on .rowsUsed rfl,
    State.resetBase, State.set_rowsUsed]

theorem State.retired_resetModule (s : State) (cause : Nat) : (s.resetModule cause).retired = s.retired := by
  rw [show (s.resetModule cause).retired = (s.resetBase cause).retired from (s.resetModule_same cause).on .retired rfl,
    State.resetBase, State.set_retired]

theorem State.trust_resetModule (s : State) (cause : Nat) : (s.resetModule cause).trust = s.trust.afterReset cause :=
  (s.resetModule_same cause).on .trust rfl

theorem keptFields_apart_state : ∀ g ∈ keptFields, g = Reg.secLifecycle_state ∨ g.apart Reg.secLifecycle_state := by
  unfold Fld.apart
  decide

theorem fabPort_state_apart_state : ∀ n < 48, (Reg.fabPort_state n).apart Reg.secLifecycle_state := by
  unfold Fld.apart
  decide

/-- The life-cycle state is among the fields that a reset keeps. -/
theorem State.lifeState_resetRegs {s t : State} (h : t.regs = s.resetRegs) : t.lifeState = s.lifeState := by
  refine (State.get_congr _ h).trans ?_
  refine (List.foldlRecOn (motive := fun u : State => u.get Reg.secLifecycle_state = s.lifeState) (List.range 48) _ ?_
    fun u hu n hn => (State.get_set_apart _ _ _ _ (fabPort_state_apart_state n (List.mem_range.mp hn))).trans hu)
  refine (State.get_foldl_set_of_mem s.get keptFields keptFields_apart_state _ (.inl (by decide))).trans ?_
  exact Nat.mod_eq_of_lt (Fld.of_lt ..)

theorem State.lifeState_resetModule (s : State) (cause : Nat) : (s.resetModule cause).lifeState = s.lifeState :=
  ((s.sameLasting_resetModule cause).get _ (by decide)).trans
    ((State.get_set_apart _ _ _ _ (.inl (by decide))).trans (State.lifeState_resetRegs rfl))

/-! ### Transitions (R424) -/

/-- The provisioning data and fuses after a transition, which destroys the sealed-region key. -/
def Trust.moved (t : Trust) (new : Nat) : Trust :=
  let t := ({ t with sealKey := false, unsealed := none, holder := none } : Trust).entering new
  { t with fuses := t.fuses + 1, recorded := t.fuses + 1 }

/-- The fuses and the recorded state of a transition, before its reset. -/
def State.recordState (s : State) (new : Nat) : State :=
  let v := s.destroySeal.modTrust (fun t =>
    let t := t.entering new
    { t with fuses := t.fuses + 1, recorded := t.fuses + 1 })
  let w := (v.set Reg.secLifecycle_state new).set Reg.secLifecycle_owned (if v.trust.owner.isSome then 1 else 0)
  if new = 4 then w.eraseFlash else w

/-- The events of a transition, after its reset. -/
def State.noteTransition (s : State) (old new : Nat) : State :=
  let v := (s.raise Ev.sealKeyDestroyed UnitId.root).raise Ev.lifecycleChanged UnitId.root { object := new, value := old }
  if new = 3 then v.raise Ev.recoveryEntered UnitId.root else v

theorem State.transition_eq (s : State) (new : Nat) :
    s.transition new = ((s.recordState new).resetModule 3).noteTransition s.lifeState new := rfl

theorem Trust.fuses_entering (t : Trust) (new : Nat) : (t.entering new).fuses = t.fuses := by
  unfold Trust.entering
  split
  · rfl
  · split <;> rfl

theorem Trust.fuses_moved (t : Trust) (new : Nat) : (t.moved new).fuses = t.fuses + 1 :=
  congrArg (· + 1) (Trust.fuses_entering _ new)

theorem State.trust_recordState (s : State) {new : Nat} (h : new < 4) : (s.recordState new).trust = s.trust.moved new := by
  unfold State.recordState
  dsimp only
  rw [if_neg (by omega)]
  rfl

theorem State.lifeState_recordState (s : State) {new : Nat} (h : new < 4) : (s.recordState new).lifeState = new := by
  unfold State.recordState
  dsimp only
  rw [if_neg (by omega)]
  exact ((State.get_set_apart _ _ _ _ (by unfold Fld.apart; decide)).trans (State.get_set_self ..)).trans
    (Nat.mod_eq_of_lt (Nat.lt_trans h (by decide)))

theorem State.trust_noteTransition (s : State) (old new : Nat) : (s.noteTransition old new).trust = s.trust := by
  unfold State.noteTransition
  dsimp only
  split <;> simp only [State.raise_trust]

theorem State.lifeState_noteTransition (s : State) (old new : Nat) : (s.noteTransition old new).lifeState = s.lifeState := by
  have hraise : ∀ (v : State) (e : EvKind) (d : Detail), (v.raise e UnitId.root d).lifeState = v.lifeState :=
    fun v e d => State.get_raise v e _ d _ rfl
  unfold State.noteTransition
  dsimp only
  split <;> simp only [hraise]

theorem State.trust_transition (s : State) {new : Nat} (h : new < 4) :
    (s.transition new).trust = (s.trust.moved new).afterReset 3 := by
  rw [State.transition_eq, State.trust_noteTransition, State.trust_resetModule, State.trust_recordState s h]

theorem State.lifeState_transition (s : State) {new : Nat} (h : new < 4) : (s.transition new).lifeState = new := by
  rw [State.transition_eq, State.lifeState_noteTransition, State.lifeState_resetModule, State.lifeState_recordState s h]

theorem State.pathHas_transition_recovery (s : State) :
    (s.transition 3).pathHas Ev.recoveryEntered UnitId.root {} := State.pathHas_raise ..

/-! ### Start-up (R409, R410, R426) -/

/-- The fields of the life cycle and of the start that a start-up test does not write. -/
def startFields : List Fld := [Reg.secLifecycle_state, Reg.secBootStatus_ready, Reg.secBootStatus_verifyFail]

/-- The life-cycle state, readiness and the verdict on the image read in `t` as in `s`. -/
structure State.sameStart (s t : State) : Prop where
  get : ∀ f ∈ startFields, t.get f = s.get f

theorem State.sameStart.trans {s t u : State} (h : s.sameStart t) (h' : t.sameStart u) : s.sameStart u :=
  ⟨fun f hf => (h'.get f hf).trans (h.get f hf)⟩

theorem State.sameStart.life {s t : State} (h : s.sameStart t) : t.lifeState = s.lifeState := h.get _ (by decide)

theorem State.sameStart.ready {s t : State} (h : s.sameStart t) :
    t.get Reg.secBootStatus_ready = s.get Reg.secBootStatus_ready := h.get _ (by decide)

theorem State.sameStart.verifyFail {s t : State} (h : s.sameStart t) :
    t.get Reg.secBootStatus_verifyFail = s.get Reg.secBootStatus_verifyFail := h.get _ (by decide)

theorem State.sameStart_of_regs {s t : State} (h : t.regs = s.regs) : s.sameStart t := ⟨fun f _ => State.get_congr f h⟩

theorem State.sameStart_raise (s : State) (e : EvKind) (u : UnitId) (d : Detail) : s.sameStart (s.raise e u d) :=
  ⟨fun f hf => State.get_raise s e u d f ((by decide : ∀ f ∈ startFields, isTickStatus f.addr = false) f hf)⟩

theorem State.sameStart_set {s : State} {f : Fld} (v : Nat) (h : ∀ g ∈ startFields, f.apart g) : s.sameStart (s.set f v) :=
  ⟨fun g hg => State.get_set_apart s f g v (h g hg)⟩

theorem foldl_sameStart {α : Type} {f : State → α → State} {l : List α}
    (hf : ∀ (s : State), ∀ x ∈ l, s.sameStart (f s x)) (s : State) : s.sameStart (l.foldl f s) :=
  List.foldlRecOn (motive := s.sameStart) l f (State.sameStart_of_regs rfl) fun t ht x hx => ht.trans (hf t x hx)

theorem State.sameStart_reportRecord (s : State) : s.sameStart s.reportRecord := by
  unfold State.reportRecord
  split
  · exact State.sameStart_raise ..
  · split
    · exact State.sameStart_raise ..
    · exact State.sameStart_of_regs rfl

theorem State.sameStart_markCore (s : State) {c : Nat} (hc : c < 64) (failed : Bool) : s.sameStart (s.markCore c failed) := by
  have haddr : ∀ c < 64, ∀ g ∈ startFields, Reg.sysInvCoreFailed + 4 * (c / 32) ≠ g.addr := by decide
  exact State.sameStart_set _ fun g hg => .inl (haddr c hc g hg)

/-- What the start-up test does to one core (R426, R51). -/
def State.testCore (s : State) (x : StartFacts) (clears : Bool) (c : Nat) : State :=
  if x.failedCores.contains c then (s.markCore c true).raise Ev.coreFailed (UnitId.core c)
  else if clears then s.markCore c false else s

theorem State.sameStart_testCore (s : State) (x : StartFacts) (clears : Bool) {c : Nat} (hc : c < 64) :
    s.sameStart (s.testCore x clears c) := by
  unfold State.testCore
  split
  · exact (s.sameStart_markCore hc true).trans (State.sameStart_raise ..)
  · split
    · exact s.sameStart_markCore hc false
    · exact State.sameStart_of_regs rfl

/-- The fields that a start-up test shows itself in. -/
def testFields : List Fld :=
  [Reg.bistControl_fullNext, Reg.secBootStatus_fullTest, Reg.bistStartup_full, Reg.bistStartup_passed,
    Reg.bistStartup_durationMs]

theorem State.sameStart.thenSet {s t : State} (h : s.sameStart t) {f : Fld} (v : Nat) (hf : f ∈ testFields) :
    s.sameStart (t.set f v) :=
  h.trans (State.sameStart_set v ((by unfold Fld.apart; decide : ∀ f ∈ testFields, ∀ g ∈ startFields, f.apart g) f hf))

/-- The start-up test up to its calibration. -/
def State.testCores (s : State) (x : StartFacts) : State :=
  let full := s.wantsFull
  let s := s.reportRecord.set Reg.bistControl_fullNext 0
  let clears := full && (s.lifeState == 0 || s.lifeState == 3)
  let s := (List.range s.fitted.ccc).foldl (fun s c => s.testCore x clears c) s
  let s := (s.set Reg.secBootStatus_fullTest (if full then 1 else 0)).set Reg.bistStartup_full (if full then 1 else 0)
  let passed := x.testPassed && x.failedCores.isEmpty && (!full || failedMap x.items == 0)
  (s.set Reg.bistStartup_passed (if passed then 1 else 0)).set Reg.bistStartup_durationMs (if full then 2500 else 150)

theorem State.startTest_eq (s : State) (x : StartFacts) : s.startTest x = (s.testCores x).startCalibration s.wantsFull := rfl

theorem State.sameStart_testCores {s : State} (hlegal : s.fitted.legal = true) (x : StartFacts) :
    s.sameStart (s.testCores x) := by
  have hccc : s.fitted.ccc ≤ 64 := by
    simp only [Fitted.legal, Bool.and_eq_true, List.contains_iff_mem, List.mem_cons, List.not_mem_nil, or_false] at hlegal
    omega
  have hfit : (s.reportRecord.set Reg.bistControl_fullNext 0).fitted = s.fitted :=
    (State.reportRecord_keeps (L := eventFields) rfl (State.same_refl _ s)).on .fitted rfl
  have hcores : ∀ (t : State) (clears : Bool), t.fitted = s.fitted →
      t.sameStart ((List.range t.fitted.ccc).foldl (fun s c => s.testCore x clears c) t) := fun t clears ht =>
    foldl_sameStart (fun u c hc => u.sameStart_testCore x clears (by
      have := List.mem_range.mp hc
      rw [ht] at this
      omega)) t
  have hbegin : s.sameStart (s.reportRecord.set Reg.bistControl_fullNext 0) :=
    s.sameStart_reportRecord.thenSet 0 (by decide)
  unfold State.testCores
  exact ((((hbegin.trans (hcores _ _ hfit)).thenSet _ (by decide)).thenSet _ (by decide)).thenSet _ (by decide)).thenSet _
    (by decide)

theorem State.testCore_keeps {s0 s : State} (h : s0.same eventFields s) (x : StartFacts) (clears : Bool) (c : Nat) :
    s0.same eventFields (s.testCore x clears c) := by
  unfold State.testCore
  split
  · exact State.raise_keeps rfl (State.markCore_keeps rfl h)
  · split
    · exact State.markCore_keeps rfl h
    · exact h

theorem State.testCores_same (s : State) (x : StartFacts) : s.same eventFields (s.testCores x) := by
  have hbegin : s.same eventFields (s.reportRecord.set Reg.bistControl_fullNext 0) :=
    State.set_keeps rfl (State.reportRecord_keeps rfl (State.same_refl _ s))
  exact State.set_keeps rfl (State.set_keeps rfl (State.set_keeps rfl (State.set_keeps rfl
    (foldl_keeps _ _ (fun _ c h => State.testCore_keeps h x _ c) hbegin))))

theorem State.startCalibration_same (s : State) (full : Bool) : s.same [.trust, .freeCtr] (s.startCalibration full) :=
  State.startCalibration_keeps rfl (State.same_refl _ s)

/-- A start-up test leaves its calibration, and nothing else, with the root of trust. -/
theorem State.trust_startTest (s : State) (x : StartFacts) :
    ∃ c, (s.startTest x).trust = { s.trust with calibration := c } := by
  have htrust : (s.testCores x).trust = s.trust := (s.testCores_same x).on .trust rfl
  rw [State.startTest_eq, ← htrust, State.startCalibration]
  split <;> exact ⟨_, rfl⟩

theorem State.sameStart_startTest {s : State} (hlegal : s.fitted.legal = true) (x : StartFacts) :
    s.sameStart (s.startTest x) :=
  (State.sameStart_testCores hlegal x).trans (State.sameStart_of_regs ((State.startCalibration_same ..).on .regs rfl))

/-- The test and the inventory of a start-up, with what it found (R52, R426). -/
def State.started (s : State) (x : StartFacts) : State :=
  ((s.startTest x).startInventory x).modTrust (fun t => { t with found := some x })

theorem State.sameStart_started {s : State} (hlegal : s.fitted.legal = true) (x : StartFacts) : s.sameStart (s.started x) := by
  have hset : ∀ (t : State) (v : Nat), t.sameStart (t.set Reg.sysInvStatus_mismatch v) := fun t v =>
    State.sameStart_set v (by unfold Fld.apart; decide)
  have hinv : ∀ t : State, t.sameStart (t.startInventory x) := fun t => by
    unfold State.startInventory
    split
    · exact hset ..
    · exact (hset ..).trans (State.sameStart_raise ..)
  exact ((State.sameStart_startTest hlegal x).trans (hinv _)).trans (State.sameStart_of_regs rfl)

theorem State.trust_started (s : State) (x : StartFacts) :
    ∃ c, (s.started x).trust = { s.trust with calibration := c, found := some x } := by
  obtain ⟨c, hc⟩ := s.trust_startTest x
  have hinv : ((s.startTest x).startInventory x).trust = (s.startTest x).trust :=
    (State.startInventory_keeps (L := eventFields) rfl (State.same_refl _ _)).on .trust rfl
  refine ⟨c, ?_⟩
  rw [State.started, State.modTrust, hinv, hc]

theorem State.trust_bootDone (s : State) (cause : Nat) : (s.bootDone cause).trust = s.trust :=
  (State.bootDone_keeps (L := eventFields) rfl (State.same_refl _ _)).on .trust rfl

theorem State.sameStart_startImage (s : State) : s.sameStart s.startImage := by
  have hpair : ∀ v, s.sameStart (s.setPair Reg.secFwVersion v) := fun v => ⟨fun f hf => by
    have haddr := (by decide : ∀ f ∈ startFields, f.addr ≠ Reg.secFwVersion ∧ f.addr ≠ Reg.secFwVersion + 4) f hf
    rw [State.get, State.get, State.setPair, State.reg_setReg, if_neg haddr.2, State.reg_setReg, if_neg haddr.1]⟩
  have hset : ∀ (t : State) {f : Fld} (v : Nat), f ∈ [Reg.secFwSvn_imageSvn, Reg.secFwSvn_fuseSvn] → t.sameStart (t.set f v) :=
    fun t f v hf => State.sameStart_set v ((by unfold Fld.apart; decide : ∀ f ∈ [Reg.secFwSvn_imageSvn, Reg.secFwSvn_fuseSvn],
      ∀ g ∈ startFields, f.apart g) f hf)
  unfold State.startImage
  dsimp only
  split
  · exact ((hpair _).trans (hset _ _ (by decide))).trans (hset _ _ (by decide))
  · exact (hpair _).trans (hset _ _ (by decide))

theorem State.get_bootDone (s : State) (cause : Nat) :
    (s.bootDone cause).lifeState = s.lifeState ∧ (s.bootDone cause).get Reg.secBootStatus_ready = 1 ∧
      (s.bootDone cause).get Reg.secBootStatus_verifyFail = s.get Reg.secBootStatus_verifyFail := by
  have hraise := (s.startImage.set Reg.secBootStatus_ready 1).sameStart_raise Ev.bootDone UnitId.root
    { value := s.startImage.pair Reg.secFwVersion % 2 ^ 32, cause := cause }
  refine ⟨hraise.life.trans ?_, hraise.ready.trans (State.get_set_self ..), hraise.verifyFail.trans ?_⟩
  · exact (State.get_set_apart _ _ _ _ (by unfold Fld.apart; decide)).trans s.sameStart_startImage.life
  · exact (State.get_set_apart _ _ _ _ (by unfold Fld.apart; decide)).trans s.sameStart_startImage.verifyFail

/-- A start-up shows whether the image in the slot was accepted. -/
def State.showVerdict (s : State) : State :=
  (s.modTrust (fun t => { t with boot := none })).set Reg.secBootStatus_verifyFail
    (if s.verdictOf s.imageBytes = 0 then 0 else 1)

/-- A start-up has checked the image in the slot (R409; log entry 40). -/
def State.checkSlot (s : State) : State :=
  if s.verdictOf s.imageBytes = 0 then s.showVerdict
  else s.showVerdict.raise Ev.bootVerifyFail UnitId.root { cause := s.verdictOf s.imageBytes }

theorem State.fitted_checkSlot (s : State) : s.checkSlot.fitted = s.fitted := by
  unfold State.checkSlot
  split
  · rfl
  · exact State.raise_fitted ..

theorem State.trust_checkSlot (s : State) : s.checkSlot.trust = { s.trust with boot := none } := by
  unfold State.checkSlot
  split
  · rfl
  · exact State.raise_trust ..

theorem State.sameStart_checkSlot (s : State) : s.showVerdict.sameStart s.checkSlot := by
  unfold State.checkSlot
  split
  · exact State.sameStart_of_regs rfl
  · exact State.sameStart_raise ..

theorem State.lifeState_checkSlot (s : State) : s.checkSlot.lifeState = s.lifeState :=
  s.sameStart_checkSlot.life.trans (State.get_set_apart _ _ _ _ (by unfold Fld.apart; decide))

theorem State.ready_checkSlot (s : State) : s.checkSlot.get Reg.secBootStatus_ready = s.get Reg.secBootStatus_ready :=
  s.sameStart_checkSlot.ready.trans (State.get_set_apart _ _ _ _ (by unfold Fld.apart; decide))

theorem State.verifyFail_checkSlot (s : State) :
    s.checkSlot.get Reg.secBootStatus_verifyFail = if s.verdictOf s.imageBytes = 0 then 0 else 1 := by
  rw [s.sameStart_checkSlot.verifyFail, State.showVerdict, State.get_set_self]
  split <;> rfl

theorem State.pathHas_checkSlot {s : State} (h : s.verdictOf s.imageBytes ≠ 0) :
    s.checkSlot.pathHas Ev.bootVerifyFail UnitId.root { cause := s.verdictOf s.imageBytes } := by
  unfold State.checkSlot
  rw [if_neg h]
  exact State.pathHas_raise ..

theorem State.startUp_of_retired {s : State} {cause : Nat} (hboot : s.trust.boot = some cause) (h : s.lifeState = 4)
    (x : StartFacts) : s.startUp x = s.modTrust (fun t => { t with boot := none }) := by
  rw [State.startUp, hboot]
  exact if_pos h

section Start

variable {s : State} {cause : Nat} (hboot : s.trust.boot = some cause) (x : StartFacts)
include hboot

/-- A start-up of a module that is not RETIRED goes by the verdict on its image, its fuses and its life-cycle state. -/
theorem State.startUp_eq (h : s.lifeState ≠ 4) : s.startUp x =
    if (s.lifeState = 1 ∨ s.lifeState = 2) ∧ (s.verdictOf s.imageBytes ≠ 0 ∨ s.checkSlot.trust.fuses ≠ s.checkSlot.trust.recorded)
      then s.checkSlot.transition 3
    else if s.lifeState = 0 ∧ s.verdictOf s.imageBytes ≠ 0 then s.checkSlot
    else if s.lifeState = 3 then s.checkSlot.started x
    else (s.checkSlot.started x).bootDone cause := by
  rw [State.startUp, hboot]
  exact if_neg h

end Start

section Ends

variable {s : State} (x : StartFacts) (hlegal : s.fitted.legal = true)
include hlegal

/-- The test and the inventory after the check of the image. -/
theorem State.started_checkSlot :
    let t := s.checkSlot.started x
    t.lifeState = s.lifeState ∧ t.get Reg.secBootStatus_ready = s.get Reg.secBootStatus_ready ∧
      t.get Reg.secBootStatus_verifyFail = (if s.verdictOf s.imageBytes = 0 then 0 else 1) ∧ t.trust.boot = none ∧
      t.trust.found = some x := by
  have hfit : s.checkSlot.fitted.legal = true := by rw [State.fitted_checkSlot, hlegal]
  have hstart := State.sameStart_started hfit x
  obtain ⟨c, hc⟩ := s.checkSlot.trust_started x
  dsimp only
  rw [hc, State.trust_checkSlot, hstart.life, hstart.ready, hstart.verifyFail, State.lifeState_checkSlot,
    State.ready_checkSlot, State.verifyFail_checkSlot]
  exact ⟨rfl, rfl, rfl, rfl, rfl⟩

/-- A start-up that ends makes the module ready. -/
theorem State.bootDone_started (cause : Nat) :
    let t := (s.checkSlot.started x).bootDone cause
    t.lifeState = s.lifeState ∧ t.get Reg.secBootStatus_ready = 1 ∧
      t.get Reg.secBootStatus_verifyFail = (if s.verdictOf s.imageBytes = 0 then 0 else 1) ∧ t.trust.boot = none ∧
      t.trust.found = some x := by
  obtain ⟨hlife', _, hverify', hboot, hfound⟩ := State.started_checkSlot x hlegal
  obtain ⟨hlife, hready, hverify⟩ := (s.checkSlot.started x).get_bootDone cause
  dsimp only
  rw [State.trust_bootDone]
  exact ⟨hlife.trans hlife', hready, hverify.trans hverify', hboot, hfound⟩

end Ends

/-- A start-up that finds no good image, or fuses that disagree with the recorded state, enters RECOVERY. -/
theorem State.transition_checkSlot (s : State) :
    let t := s.checkSlot.transition 3
    t.lifeState = 3 ∧ t.trust.boot = some 3 ∧ t.trust.sealKey = false ∧ t.trust.fuses = s.trust.fuses + 1 ∧
      t.pathHas Ev.recoveryEntered UnitId.root {} := by
  refine ⟨State.lifeState_transition _ (by decide), ?_, ?_, ?_, State.pathHas_transition_recovery _⟩ <;>
    rw [State.trust_transition _ (by decide)]
  · rfl
  · rfl
  · exact (Trust.fuses_moved ..).trans (by rw [State.trust_checkSlot])

/-- Settles O56: every reset is `State.resetModule` under its cause, and a start-up goes by the life-cycle state, the verdict
on the image and the fuses. -/
theorem resetsKeepWhatTheyKeep : Obligations.ResetsKeepWhatTheyKeep := by
  refine ⟨fun s x hon => next_whenOn_of_eq hon (if_neg (by simp [hon])), fun s v x hon hkey hgo => ?warm,
    fun s mv hoff hmv => ?bus, fun s cause _ => ?kept, fun s x cause hon hlegal hboot => ?start,
    fun s x hon hboot => ?unpended⟩
  case warm =>
    refine next_whenOn_of_eq hon ((if_neg (by simp [hon])).trans ((if_neg Bool.false_ne_true).trans ?_))
    cases hidle : s.allIdle with
    | true => exact (if_neg (by simp [hkey])).trans (if_pos hgo)
    | false => exact if_pos (by simp)
  case bus =>
    refine (exec_busReturn mv s).trans (congrArg Host.Outcome.next (if_neg ?_))
    rcases hoff with h | h <;> simp [h, hmv]
  case kept =>
    have hsame := s.resetModule_same cause
    have htrust := s.trust_resetModule cause
    refine ⟨hsame.on .mem rfl, hsame.on .staging rfl, hsame.on .neg rfl, hsame.on .plans rfl, hsame.on .contexts rfl,
      congrArg Power.off (hsame.on .power rfl), ?_, ?_, ?_, s.fitted_resetModule cause,
      s.rowsUsed_resetModule cause, s.retired_resetModule cause, s.resetModule_pending cause⟩ <;> rw [htrust] <;> rfl
  case start =>
    intro v
    have hexec : ∀ {t : State}, s.startUp x = t → exec (.startUp x) s = .next { t with pending := s.pending } :=
      fun ht => next_whenOn_of_eq hon ((if_neg (by simp [hon])).trans ht)
    refine ⟨fun hlife => ?running, fun hlife => ?manufacture, fun hlife => ?recovery,
      fun hlife => hexec (State.startUp_of_retired hboot hlife x)⟩
    case running =>
      have heq := State.startUp_eq hboot x (by omega : s.lifeState ≠ 4)
      rw [State.trust_checkSlot] at heq
      by_cases hgood : v = 0 ∧ s.trust.fuses = s.trust.recorded
      · rw [if_neg (fun h => h.2.elim (absurd hgood.1) (absurd hgood.2)), if_neg (by omega), if_neg (by omega)] at heq
        obtain ⟨hlife', hready, hverify, hboot', hfound⟩ := State.bootDone_started x hlegal cause
        generalize (s.checkSlot.started x).bootDone cause = t at heq hlife' hready hverify hboot' hfound
        rw [if_pos hgood.1] at hverify
        refine ⟨_, hexec heq, ?_⟩
        rw [if_pos hgood]
        exact ⟨(State.get_withPending ..).trans hready, hboot', (State.get_withPending ..).trans hverify,
          (State.get_withPending ..).trans hlife', hfound⟩
      · rw [if_pos ⟨hlife, Classical.not_and_iff_not_or_not.mp hgood⟩] at heq
        obtain ⟨hlife', hboot', hkey, hfuses, hpath⟩ := s.transition_checkSlot
        generalize s.checkSlot.transition 3 = t at heq hlife' hboot' hkey hfuses hpath
        refine ⟨_, hexec heq, ?_⟩
        rw [if_neg hgood]
        exact ⟨(State.get_withPending ..).trans hlife', hboot', hkey, hfuses, hpath.withPending _⟩
    case manufacture =>
      have heq := State.startUp_eq hboot x (by omega : s.lifeState ≠ 4)
      rw [if_neg (by omega)] at heq
      by_cases hgood : v = 0
      · rw [if_neg (fun h => h.2 hgood), if_neg (by omega)] at heq
        obtain ⟨hlife', hready, hverify, hboot', hfound⟩ := State.bootDone_started x hlegal cause
        generalize (s.checkSlot.started x).bootDone cause = t at heq hlife' hready hverify hboot' hfound
        exact ⟨_, hexec heq, (State.get_withPending ..).trans (hlife'.trans hlife), hboot',
          (State.get_withPending ..).trans hverify, ((State.get_withPending ..).trans hready).trans (if_pos hgood).symm,
          fun h => absurd hgood h⟩
      · rw [if_pos ⟨hlife, hgood⟩] at heq
        exact ⟨_, hexec heq, (State.get_withPending ..).trans (s.lifeState_checkSlot.trans hlife),
          congrArg Trust.boot s.trust_checkSlot, (State.get_withPending ..).trans s.verifyFail_checkSlot,
          ((State.get_withPending ..).trans s.ready_checkSlot).trans (if_neg hgood).symm,
          fun h => (State.pathHas_checkSlot h).withPending _⟩
    case recovery =>
      have heq := State.startUp_eq hboot x (by omega : s.lifeState ≠ 4)
      rw [if_neg (by omega), if_neg (by omega), if_pos hlife] at heq
      obtain ⟨hlife', hready, hverify, _, hfound⟩ := State.started_checkSlot x hlegal
      generalize s.checkSlot.started x = t at heq hlife' hready hverify hfound
      exact ⟨_, hexec heq, (State.get_withPending ..).trans (hlife'.trans hlife), (State.get_withPending ..).trans hready,
        hfound, (State.get_withPending ..).trans hverify⟩
  case unpended =>
    refine next_whenOn_of_eq (f := doStartUp x) (t := s) hon ((if_neg (by simp [hon])).trans ?_)
    rw [State.startUp, hboot]

end Sys2Proof.Machine
end

/-! # The delivery of a firmware image (16_trust_lifecycle.md, R409, R412, R413, R430) -/

section

set_option Elab.async false

open Sys2Proof Sys2Proof.Machine

namespace Sys2Proof.Machine

/-! ### The verdict on a delivered image, and the end of its write (R409, R413) -/

theorem State.judgeImage_of_accepted {s : State} {b : List Byte} (src : Nat) (h : s.acceptVerdict b = 0) :
    s.judgeImage b src = s.modTrust (fun t => { t with image := none, writing := some (b, src), delivery := none }) :=
  if_pos h

theorem State.judgeImage_of_refused {s : State} {b : List Byte} (src : Nat) (h : s.acceptVerdict b ≠ 0) :
    s.judgeImage b src = (s.modTrust (fun t => { t with delivery := none })).raise Ev.bootVerifyFail UnitId.root
      { cause := s.acceptVerdict b } := if_neg h

theorem doPldmFirmwareUpdate_eq (b : List Byte) (s : State) : doPldmFirmwareUpdate b s =
    if s.imageGate = 0 ∧ s.deliveryBusy 2 0 = false then s.judgeImage b 2 else s := by
  rw [doPldmFirmwareUpdate]
  by_cases h : s.imageGate = 0 ∧ s.deliveryBusy 2 0 = false
  · rw [if_pos h, if_neg (by simp [h.1, h.2])]
  · rw [if_neg h, if_pos ((Classical.not_and_iff_not_or_not.mp h).imp_right fun h => by rwa [Bool.not_eq_false] at h)]

theorem Trust.image_moved (t : Trust) {new : Nat} (h : new < 4) : (t.moved new).image = t.image := by
  unfold Trust.moved Trust.entering
  dsimp only
  rw [if_neg (show new ≠ 4 by omega)]
  split <;> rfl

/-- The reset, with or without a transition, that the end of a write of the slot brings. -/
def State.restartWith (s : State) (b : List Byte) : State :=
  if s.lifeState = 3 then s.transition (if s.trust.owner.isSome then 2 else 1)
  else if s.lifeState = 0 then (s.provision b).transition 1
  else s.resetModule 4

theorem State.installImage_eq (s : State) (b : List Byte) (src : Nat) : s.installImage b src =
    ((s.modTrust (fun t => { t with image := some b, writing := none })).restartWith b).raise Ev.imageInstalled UnitId.root
      { value := imageBuild b % 2 ^ 32, cause := src } := rfl

theorem State.trust_restartWith (s : State) (b : List Byte) :
    (s.restartWith b).trust.image = s.trust.image ∧ (s.restartWith b).trust.writing = none := by
  have hmoved : ∀ (u : State) {new : Nat}, new < 4 → u.trust.image = s.trust.image →
      (u.transition new).trust.image = s.trust.image ∧ (u.transition new).trust.writing = none := fun u new h hu => by
    rw [State.trust_transition u h]
    exact ⟨(Trust.image_moved _ h).trans hu, rfl⟩
  unfold State.restartWith
  split
  · exact hmoved s (by split <;> decide) rfl
  · split
    · exact hmoved _ (by decide) rfl
    · rw [State.trust_resetModule]
      exact ⟨rfl, rfl⟩

theorem State.restartWith_of_recovery {s : State} (b : List Byte) (h : s.lifeState = 3) :
    (s.restartWith b).lifeState = if s.trust.owner.isSome then 2 else 1 := by
  rw [State.restartWith, if_pos h]
  exact State.lifeState_transition s (by split <;> decide)

theorem State.restartWith_of_manufacture {s : State} (b : List Byte) (h : s.lifeState = 0) :
    (s.restartWith b).lifeState = 1 := by
  rw [State.restartWith, if_neg (by omega), if_pos h]
  exact State.lifeState_transition _ (by decide)

theorem State.restartWith_of_service {s : State} (b : List Byte) (h : s.lifeState = 2) :
    (s.restartWith b).lifeState = 2 ∧ (s.restartWith b).trust.boot = some 4 := by
  rw [State.restartWith, if_neg (by omega), if_neg (by omega), State.lifeState_resetModule, State.trust_resetModule]
  exact ⟨h, rfl⟩

/-- While no shut-down is due, the block that idles ends the write of the slot that is under way. -/
theorem State.idle_of_writing {s : State} (hdue : s.power.offDue = false) {b : List Byte} {src : Nat}
    (hw : s.trust.writing = some (b, src)) : s.idle = s.passTime.installImage b src := by
  obtain ⟨x, hx⟩ : ∃ x, s.passTime = { s with time := x } := by
    unfold State.passTime
    split <;> exact ⟨_, rfl⟩
  have hoff : ({ s with time := x } : State).carryOff [] = { s with time := x } := if_pos (by simp [hdue])
  rw [State.idle, hx, hoff, State.finishWrite]
  dsimp only
  rw [hw]

theorem State.passTime_same (s : State) : s.same [.time] s.passTime := State.passTime_keeps rfl (State.same_refl _ s)

/-! ### Recovery over the fabric (R309, R412) -/

theorem State.takeRecovery_of_bulk {s : State} {n : Nat} {pk : Packet} {op : Nat} (hkind : pkKind pk = 9)
    (hup : s.portUp n = true) (hfor : s.isFor (s.portPart n) (pkDest pk) = true) (hop : bulkOp pk = op) (accepts : Bool)
    (act : State → State) : s.takeRecovery n pk op accepts act =
      if accepts then act ((s.passPacket n pk).stampReceipt (pkStamp pk))
      else ((s.passPacket n pk).stampReceipt (pkStamp pk)).dropUnmatched n := if_neg (by simp [hkind, hop, hup, hfor])

/-- Settles O57: a delivery by its source and its verdict, and the recovery packets by the state of the module. -/
theorem imagesAreDelivered : Obligations.ImagesAreDelivered := by
  refine ⟨fun s b hon => next_whenOn_of_eq hon (doPldmFirmwareUpdate_eq b s), fun s b src => ?verdict,
    fun s b src hpend hdue hw => ?written, fun s hon => ?mailbox, fun s n pk hon hkind hup hfor => ?recovery,
    fun s hon hlife hboot hdel hwrite => next_whenOn_of_eq hon (if_neg (by simp [hlife, hboot, hdel, hwrite]))⟩
  case verdict =>
    split
    next h =>
      rw [State.judgeImage_of_accepted src h]
      exact ⟨rfl, rfl, rfl, State.modTrust_keeps rfl (State.same_refl _ s)⟩
    next h =>
      rw [State.judgeImage_of_refused src h]
      exact ⟨State.raise_trust .., State.pathHas_raise ..⟩
  case written =>
    let u := s.passTime.modTrust (fun t => { t with image := some b, writing := none })
    have hlife : u.lifeState = s.lifeState := State.get_congr _ (s.passTime_same.on .regs rfl)
    have hpass : s.passTime.trust = s.trust := s.passTime_same.on .trust rfl
    have howner : u.trust.owner = s.trust.owner := by
      show s.passTime.trust.owner = _
      rw [hpass]
    have htrust : ∀ e x d, ((u.restartWith b).raise e x d).trust = (u.restartWith b).trust := fun _ _ _ => State.raise_trust ..
    have hraise : ∀ e x d, ((u.restartWith b).raise e x d).lifeState = (u.restartWith b).lifeState :=
      fun _ _ _ => State.get_raise _ _ _ _ _ rfl
    obtain ⟨himage, hwriting⟩ := u.trust_restartWith b
    refine ⟨_, (step_of_idle hpend).trans (congrArg Host.Outcome.next ((State.idle_of_writing hdue hw).trans
      (State.installImage_eq ..))), ?_, ?_, fun h => ?_, fun h => ?_, fun h => ?_, State.pathHas_raise ..⟩
    · exact (congrArg Trust.image (htrust ..)).trans himage
    · exact (congrArg Trust.writing (htrust ..)).trans hwriting
    · rw [← howner]
      exact (hraise ..).trans (State.restartWith_of_recovery b (hlife.trans h))
    · exact (hraise ..).trans (State.restartWith_of_manufacture b (hlife.trans h))
    · obtain ⟨hstate, hboot⟩ := State.restartWith_of_service b (hlife.trans h)
      exact ⟨(hraise ..).trans hstate, (congrArg Trust.boot (htrust ..)).trans hboot⟩
  case mailbox =>
    refine ⟨fun h => next_whenOn_of_eq hon (if_neg (by simp [h])), fun h => next_whenOn_of_eq hon (if_neg (by simp [h])),
      fun d h hd hsrc hlo hhi hfit => next_whenOn_of_eq hon ?data, fun d h hd hsrc hgate => next_whenOn_of_eq hon ?done,
      fun d h hd hsrc => next_whenOn_of_eq hon ?aborted⟩
    case data =>
      rw [doMbxImageData, if_neg (by simp [h]), hd]
      dsimp only
      rw [if_neg (by simp [hsrc]), if_neg (by omega)]
    case done =>
      rw [doMbxImageEnd, if_neg (by simp [h]), hd]
      dsimp only
      rw [if_neg (by simp [hsrc]), if_neg (by simp [hgate])]
    case aborted => exact (if_neg (by simp [h])).trans (if_pos (by simp [hd, hsrc]))
  case recovery =>
    intro v
    have htake := fun {op : Nat} (hop : bulkOp pk = op) => State.takeRecovery_of_bulk hkind hup hfor hop
    refine ⟨fun hop => next_whenOn_of_eq hon ((htake hop _ _).trans ?request),
      fun hop => next_whenOn_of_eq hon (htake hop _ _), fun d hop htakes hd hd' => next_whenOn_of_eq hon ((htake hop _ _).trans ?last)⟩
    case request => exact ite_congr (by simp) (fun _ => rfl) fun _ => rfl
    case last =>
      rw [if_pos (by simp [htakes, hd])]
      have hgathered : ((s.passPacket n pk).stampReceipt (pkStamp pk)).trust.delivery = some d := hd'
      rw [hgathered]

end Sys2Proof.Machine
end

/-! # The supply and the power manager (15_power.md, R392 to R394, R398 to R401) -/

section

set_option Elab.async false

open Sys2Proof Sys2Proof.Machine

namespace Sys2Proof.Machine

/-! ### The bus below failure (R394) -/

/-- A disturbance of the bus is counted, raises its event, and counts for Safelight. -/
def State.disturb (s : State) (ctr : Nat) (e : EvKind) (mv : Nat) : State :=
  ((s.count ctr).raise e UnitId.power { value := mv }).supplyEvent

theorem State.busState_disturb (s : State) (ctr : Nat) (e : EvKind) (mv : Nat) :
    (s.disturb ctr e mv).busState = s.busState :=
  (State.get_congr (s := (s.count ctr).raise e UnitId.power { value := mv }) _ rfl).trans
    ((State.get_raise _ _ _ _ _ rfl).trans (State.get_count _ _ _ _ rfl))

theorem State.supply_disturb (s : State) (ctr : Nat) (e : EvKind) (mv : Nat) :
    (s.disturb ctr e mv).tally.supply = s.tally.supply + 1 := by
  have htally : ((s.count ctr).raise e UnitId.power { value := mv }).tally = s.tally := by
    rw [State.raise_tally, State.count_tally]
  exact congrArg (fun t : Tally => t.supply + 1) htally

theorem State.counter_disturb (s : State) (ctr : Nat) (e : EvKind) (mv : Nat) :
    (s.disturb ctr e mv).counter ctr = min (s.counter ctr + 1) counterMax := by
  refine (State.counter_congr (s := s.count ctr)
    (t := (s.count ctr).raise e UnitId.power { value := mv }) _ (State.raise_counters ..)).trans ?_
  rw [State.counter_count, if_pos rfl]

theorem State.pathHas_disturb (s : State) (ctr : Nat) (e : EvKind) (mv : Nat) :
    (s.disturb ctr e mv).pathHas e UnitId.power { value := mv } :=
  State.pathHas_congr (s := (s.count ctr).raise e UnitId.power { value := mv }) rfl (State.pathHas_raise ..)

theorem State.disturb_keeps {s0 s : State} (h : s0.same (countFields ++ [.tally]) s) (ctr : Nat) (e : EvKind) (mv : Nat) :
    s0.same (countFields ++ [.tally]) (s.disturb ctr e mv) :=
  State.supplyEvent_keeps rfl (State.raise_keeps rfl (State.count_keeps rfl h))

theorem State.same.mono {L L' : List Field} {s t : State} (h : s.same L t) (hL : covers L L' = true) : s.same L' t :=
  ⟨fun k hk => h.on k (by
    rw [covers, List.all_eq_true] at hL
    cases hc : L.contains k with
    | false => rfl
    | true => exact absurd (hL k (List.contains_iff_mem.mp hc)) (by simp only [hk, Bool.false_eq_true, not_false_eq_true]))⟩

/-- What the outcome of a disturbance shows, with the bus in state `n` before it is counted. -/
theorem State.disturb_shows {s u : State} {n : Nat} (hu : s.same [.regs] u) (hbus : u.busState = n) (ctr : Nat) (e : EvKind)
    (mv : Nat) :
    let t : State := { u.disturb ctr e mv with pending := s.pending }
    t.busState = n ∧ t.tally.supply = s.tally.supply + 1 ∧ t.counter ctr = min (s.counter ctr + 1) counterMax ∧
      t.pathHas e UnitId.power { value := mv } ∧ s.same (countFields ++ [.tally]) t := by
  have hfields : s.same (countFields ++ [.tally]) u := hu.mono rfl
  have htally : u.tally = s.tally := hu.on .tally rfl
  refine ⟨(State.get_withPending ..).trans ((u.busState_disturb ..).trans hbus),
    (u.supply_disturb ..).trans (by rw [htally]), ?_, (u.pathHas_disturb ..).withPending _,
    (State.disturb_keeps hfields ctr e mv).withPending _⟩
  exact (State.counter_congr (s := u.disturb ctr e mv) _ rfl).trans
    ((u.counter_disturb ..).trans (by rw [State.counter_congr _ (hu.on .counters rfl)]))

theorem State.busState_set (s : State) {n : Nat} (h : n < 8) : (s.set Reg.pwrStatus_busState n).busState = n :=
  (State.get_set_self ..).trans (Nat.mod_eq_of_lt h)

theorem State.set_same (s : State) (f : Fld) (v : Nat) : s.same [.regs] (s.set f v) :=
  State.set_keeps rfl (State.same_refl _ s)

/-- A low bus recovers to DROOP, and the supply emergency ends. -/
def State.endEmergency (s : State) : State :=
  ((s.set Reg.pwrStatus_busState 1).modPower (fun w => { w with emergency := none })).set Reg.pwrStatus_emergency 0

theorem State.endEmergency_shows (s : State) :
    s.endEmergency.busState = 1 ∧ s.endEmergency.power.emergency = none ∧ s.endEmergency.get Reg.pwrStatus_emergency = 0 ∧
      s.same [.regs, .power] s.endEmergency :=
  ⟨(State.get_set_apart _ _ _ _ (by unfold Fld.apart; decide)).trans ((State.get_congr _ (State.modPower_regs ..)).trans
    (s.busState_set (by decide))), rfl, State.get_set_self ..,
    State.set_keeps rfl (State.modPower_keeps rfl (State.set_keeps rfl (State.same_refl _ s)))⟩

/-! ### The evaluations of the clock (R392, R400) -/

theorem limitStep_of_unbroken (lo above under : Nat) (room : Bool) :
    (limitStep lo clockCeiling above under false room).1 = clockCeiling ∧
      (limitStep lo clockCeiling above under false room).2.2.2 = false := by
  unfold limitStep
  rw [if_neg Bool.false_ne_true]
  split
  · split
    · exact ⟨rfl, rfl⟩
    · exact ⟨Nat.min_eq_left (Nat.le_succ _), rfl⟩
  · exact ⟨rfl, rfl⟩

theorem State.raiseThrottle_of_margins {l : List (Nat × Int)} (h : ∀ x ∈ l, 0 < x.2) (s : State) : s.raiseThrottle l = s :=
  List.foldlRecOn (motive := fun t : State => t = s) l _ rfl fun t ht x hx => by
    rw [ht]
    exact if_neg (by have := h x hx; omega)

/-- The limits of an evaluation, before the sensors raise their events. -/
def State.setLimits (s : State) (r : PowerReadings) : State :=
  let lo := (s.admittedFloor).getD clockLowest
  let cap := s.get Reg.pwrCap_capW
  let c := limitStep lo s.power.capLimit s.power.capOver s.power.capUnder (decide (cap < r.powerW))
    (decide (r.powerW * 100 ≤ cap * 95))
  let m := s.fitted.margins r.temps
  let h := limitStep lo s.power.heatLimit s.power.heatOver s.power.heatUnder (m.any (fun x => decide (x.2 ≤ 0)))
    (m.all (fun x => decide (20 ≤ x.2)))
  let s := s.modPower (fun w =>
    { w with
      capLimit := c.1, capOver := c.2.1, capUnder := c.2.2.1, heatLimit := h.1, heatOver := h.2.1, heatUnder := h.2.2.1 })
  if h.2.2.2 then s.count Ctr.pwrThermalThrottleCount else s

theorem State.stepLimits_eq (s : State) (r : PowerReadings) :
    s.stepLimits r = (s.setLimits r).raiseThrottle (s.fitted.margins r.temps) := rfl

theorem State.setLimits_of_cool {s : State} {r : PowerReadings} (hcool : ∀ x ∈ s.fitted.margins r.temps, 0 < x.2)
    (hlimit : s.power.heatLimit = clockCeiling) : (s.setLimits r).power.heatLimit = clockCeiling ∧
      s.same [.power] (s.setLimits r) := by
  have hbroken : (s.fitted.margins r.temps).any (fun x => decide (x.2 ≤ 0)) = false := by
    simpa using fun n x hx => hcool (n, x) hx
  obtain ⟨hstay, hfell⟩ := limitStep_of_unbroken ((s.admittedFloor).getD clockLowest) s.power.heatOver s.power.heatUnder
    ((s.fitted.margins r.temps).all (fun x => decide (20 ≤ x.2)))
  unfold State.setLimits
  dsimp only
  rw [hbroken, hlimit, hfell, if_neg Bool.false_ne_true]
  exact ⟨hstay, State.modPower_keeps rfl (State.same_refl _ s)⟩

theorem State.once_setLimits (s : State) (r : PowerReadings) : (s.setLimits r).power.once = s.power.once := by
  unfold State.setLimits
  dsimp only
  split
  · rw [State.count_power]
    rfl
  · rfl

/-! ### Events that a unit raises once in a step (R436) -/

theorem State.once_powerOnce (s : State) (e : EvKind) (u : UnitId) (d : Detail) :
    (s.powerOnce e u d).power.once.contains (e.code, u.num) = true := by
  unfold State.powerOnce
  split
  · assumption
  · rw [State.raise_power]
    simp [State.modPower]

theorem State.once_powerOnce_mono {s : State} {k : Nat × Nat} (h : s.power.once.contains k = true) (e : EvKind) (u : UnitId)
    (d : Detail) : (s.powerOnce e u d).power.once.contains k = true := by
  unfold State.powerOnce
  split
  · exact h
  · rw [State.raise_power]
    simp only [State.modPower, List.contains_iff_mem] at h ⊢
    exact List.mem_append_left _ h

theorem State.once_powerOnce_other {s : State} {k : Nat × Nat} {e : EvKind} {u : UnitId} (hk : k ≠ (e.code, u.num))
    (d : Detail) (h : (s.powerOnce e u d).power.once.contains k = true) : s.power.once.contains k = true := by
  unfold State.powerOnce at h
  split at h
  · exact h
  · rw [State.raise_power] at h
    simp only [State.modPower, List.contains_iff_mem, List.mem_append, List.mem_singleton] at h ⊢
    exact h.resolve_right hk

theorem State.pathHas_powerOnce {s : State} {e : EvKind} {u : UnitId} (h : s.power.once.contains (e.code, u.num) = false)
    (d : Detail) : (s.powerOnce e u d).pathHas e u d := by
  rw [State.powerOnce, if_neg (by simp only [h, Bool.false_eq_true, not_false_eq_true])]
  exact State.pathHas_raise ..

theorem State.pathHas_powerOnce_mono {s : State} {e' : EvKind} {u' : UnitId} {d' : Detail} (h : s.pathHas e' u' d')
    (e : EvKind) (u : UnitId) (d : Detail) : (s.powerOnce e u d).pathHas e' u' d' := by
  unfold State.powerOnce
  split
  · exact h
  · exact State.pathHas_raise_mono _ _ _ _ _ _ _ (State.pathHas_congr (s := s) rfl h)

/-- The event of a sensor with margin `x`. -/
def throttleDetail (n : Nat) (x : Int) : Detail := { object := n, value := unsigned 32 x }

/-- If the sensor has raised its event in this step, the event shows this margin. -/
def State.throttleSeen (s : State) (n : Nat) (x : Int) : Prop :=
  s.power.once.contains (Ev.thermalThrottle.code, n) = true →
    s.pathHas Ev.thermalThrottle (UnitId.sensor n) (throttleDetail n x)

/-- One sensor of an evaluation. -/
def State.throttle (s : State) (y : Nat × Int) : State :=
  if y.2 ≤ 0 then s.powerOnce Ev.thermalThrottle (UnitId.sensor y.1) (throttleDetail y.1 y.2) else s

theorem State.throttleSeen_throttle {s : State} {n : Nat} {x : Int} (h : s.throttleSeen n x) {y : Nat × Int}
    (hy : y.1 = n → y.2 = x) : (s.throttle y).throttleSeen n x := by
  unfold State.throttle
  split
  · intro hc
    by_cases hn : y.1 = n
    · cases hs : s.power.once.contains (Ev.thermalThrottle.code, n) with
      | true => exact State.pathHas_powerOnce_mono (h hs) ..
      | false =>
        obtain ⟨m, z⟩ := y
        obtain rfl : m = n := hn
        obtain rfl : z = x := hy rfl
        exact State.pathHas_powerOnce hs _
    · have hk : (Ev.thermalThrottle.code, n) ≠ (Ev.thermalThrottle.code, (UnitId.sensor y.1).num) := fun he =>
        hn (congrArg Prod.snd he).symm
      exact State.pathHas_powerOnce_mono (h (State.once_powerOnce_other hk _ hc)) ..
  · exact h

theorem State.once_throttle_mono {s : State} {k : Nat × Nat} (h : s.power.once.contains k = true) (y : Nat × Int) :
    (s.throttle y).power.once.contains k = true := by
  unfold State.throttle
  split
  · exact State.once_powerOnce_mono h ..
  · exact h

/-- A sensor at its limit has raised its event once the evaluation has gone over all of them. -/
theorem State.once_raiseThrottle {n : Nat} {x : Int} (hx : x ≤ 0) {l : List (Nat × Int)} (s : State)
    (h : (n, x) ∈ l ∨ s.power.once.contains (Ev.thermalThrottle.code, n) = true) :
    (s.raiseThrottle l).power.once.contains (Ev.thermalThrottle.code, n) = true := by
  induction l generalizing s with
  | nil => exact h.resolve_left (by simp)
  | cons y l ih =>
    refine ih (s.throttle y) ?_
    rcases h with h | h
    · rcases List.mem_cons.mp h with rfl | h
      · right
        rw [State.throttle, if_pos hx]
        exact State.once_powerOnce ..
      · exact .inl h
    · exact .inr (State.once_throttle_mono h y)

theorem State.throttleSeen_raiseThrottle {n : Nat} {x : Int} {l : List (Nat × Int)} (hl : ∀ y ∈ l, y.1 = n → y.2 = x)
    {s : State} (h : s.throttleSeen n x) : (s.raiseThrottle l).throttleSeen n x :=
  List.foldlRecOn (motive := fun t : State => t.throttleSeen n x) l _ h fun _ ht y hy =>
    State.throttleSeen_throttle ht (hl y hy)

/-- Each sensor stands once among the margins. -/
theorem Fitted.margins_unique (f : Fitted) (temps : List Int) {n : Nat} {x y : Int} (hx : (n, x) ∈ f.margins temps)
    (hy : (n, y) ∈ f.margins temps) : y = x := by
  simp only [Fitted.margins, List.mem_map, Prod.mk.injEq, Prod.exists] at hx hy
  obtain ⟨a, i, ha, rfl, rfl⟩ := hx
  obtain ⟨b, j, hb, rfl, rfl⟩ := hy
  rw [List.mem_zipIdx_iff_getElem?] at ha hb
  exact Option.some.inj (hb.symm.trans ha)

/-! ### The clock (R392, R393) -/

/-- The clock after one evaluation: at most 0.5 GHz nearer its target. -/
def nextClock (now target : Nat) : Nat := if now ≤ target then min target (now + 5) else max target (now - 5)

/-- The clock has fallen below the floor of the admitted plans (R393). -/
def State.breachFloor (s : State) (next : Nat) : State :=
  let v := s.raise Ev.floorBreach UnitId.power { object := next }
  (List.range 4).foldl (fun s p => if s.admitted p then s.count (Ctr.tickFloorBreachCount p) else s)
    { v with tally := { v.tally with floor := v.tally.floor + 1 } }

/-- The counts and the event of a step of the clock. -/
def State.noteStep (s : State) (now next : Nat) : State :=
  let v := if next < now then s.count Ctr.pwrThrottleStepCount (now - next) else s
  match v.admittedFloor with
  | none => v
  | some f => if next < f ∧ f ≤ now then v.breachFloor next else v

theorem State.moveClock_eq (s : State) (target : Nat) : s.moveClock target =
    (s.set Reg.pwrClock_now100mhz (nextClock (s.get Reg.pwrClock_now100mhz) target)).noteStep
      (s.get Reg.pwrClock_now100mhz) (nextClock (s.get Reg.pwrClock_now100mhz) target) := rfl

theorem State.get_now_breachFloor (s : State) (next : Nat) :
    (s.breachFloor next).get Reg.pwrClock_now100mhz = s.get Reg.pwrClock_now100mhz := by
  have hraise := State.get_raise s Ev.floorBreach UnitId.power { object := next } Reg.pwrClock_now100mhz rfl
  refine List.foldlRecOn (motive := fun t : State => t.get Reg.pwrClock_now100mhz = s.get Reg.pwrClock_now100mhz) _ _
    ((State.get_congr (s := s.raise Ev.floorBreach UnitId.power { object := next }) _ rfl).trans hraise) fun t ht p _ => ?_
  split
  · exact (State.get_count _ _ _ _ rfl).trans ht
  · exact ht

theorem State.get_now_noteStep (s : State) (now next : Nat) :
    (s.noteStep now next).get Reg.pwrClock_now100mhz = s.get Reg.pwrClock_now100mhz := by
  have hcount : ∀ v, v = (if next < now then s.count Ctr.pwrThrottleStepCount (now - next) else s) →
      v.get Reg.pwrClock_now100mhz = s.get Reg.pwrClock_now100mhz := by
    rintro v rfl
    split
    · exact State.get_count _ _ _ _ rfl
    · rfl
  unfold State.noteStep
  dsimp only
  generalize hv : (if next < now then s.count Ctr.pwrThrottleStepCount (now - next) else s) = v
  have hnow := hcount v hv.symm
  split
  · exact hnow
  · split
    · exact (v.get_now_breachFloor next).trans hnow
    · exact hnow

theorem State.get_now_moveClock (s : State) {target : Nat} (ht : target ≤ 63) (hn : s.get Reg.pwrClock_now100mhz ≤ 63) :
    (s.moveClock target).get Reg.pwrClock_now100mhz = nextClock (s.get Reg.pwrClock_now100mhz) target := by
  have hlt : nextClock (s.get Reg.pwrClock_now100mhz) target < 64 := by
    unfold nextClock
    split <;> omega
  rw [State.moveClock_eq, State.get_now_noteStep, State.get_set_self]
  exact Nat.mod_eq_of_lt hlt

/-! ### Coolant (R401) -/

/-- The readings of the coolant, and whether they break its limits. -/
def State.showCoolant (s : State) (flow : Nat) (inlet : Int) : State :=
  ((s.set Reg.pwrCoolant_flow flow).set Reg.pwrCoolant_inlet (unsigned 16 inlet)).set Reg.pwrStatus_coolantBad
    (if flow < 400 ∨ inlet < 150 ∨ 450 < inlet then 1 else 0)

theorem State.power_showCoolant (s : State) (flow : Nat) (inlet : Int) : (s.showCoolant flow inlet).power = s.power := by
  rw [State.showCoolant, State.set_power, State.set_power, State.set_power]

theorem unsigned_lt (w : Nat) (i : Int) : unsigned w i < 2 ^ w := by
  have hpos : (0 : Int) < 2 ^ w := Int.pow_pos (by decide)
  have hlt := Int.emod_lt_of_pos i hpos
  have hle := Int.emod_nonneg i (Int.ne_of_gt hpos)
  refine (Int.toNat_lt hle).mpr ?_
  rw [Int.natCast_pow]
  exact hlt

theorem State.get_showCoolant (s : State) {flow : Nat} (inlet : Int) (hflow : flow < 2 ^ 16) :
    (s.showCoolant flow inlet).get Reg.pwrCoolant_flow = flow ∧
      (s.showCoolant flow inlet).get Reg.pwrCoolant_inlet = unsigned 16 inlet ∧
      (s.showCoolant flow inlet).get Reg.pwrStatus_coolantBad = (if flow < 400 ∨ inlet < 150 ∨ 450 < inlet then 1 else 0) := by
  refine ⟨?_, ?_, ?_⟩
  · rw [State.showCoolant, State.get_set_apart _ _ _ _ (.inl (by decide)),
      State.get_set_apart _ _ _ _ (by unfold Fld.apart; decide), State.get_set_self]
    exact Nat.mod_eq_of_lt hflow
  · rw [State.showCoolant, State.get_set_apart _ _ _ _ (.inl (by decide)), State.get_set_self]
    exact Nat.mod_eq_of_lt (unsigned_lt 16 inlet)
  · rw [State.showCoolant, State.get_set_self]
    split <;> rfl

theorem doCoolantCheck_eq {s : State} (hon : s.power.off = false) (flow : Nat) (inlet : Int) : doCoolantCheck flow inlet s =
    if flow < 400 ∨ inlet < 150 ∨ 450 < inlet then (s.showCoolant flow inlet).powerOnce Ev.coolantLimit UnitId.power
      { value := flow, value2 := unsigned 32 inlet }
    else s.showCoolant flow inlet := by
  have hbad : ∀ {α : Type} (x y : α), (if (decide (flow < 400) || decide (inlet < 150) || decide (450 < inlet)) = true then x else y) =
      if flow < 400 ∨ inlet < 150 ∨ 450 < inlet then x else y := fun x y =>
    ite_congr (by simp [or_assoc]) (fun _ => rfl) fun _ => rfl
  rw [doCoolantCheck, if_neg (by simp [hon])]
  simp only [hbad]
  rfl

theorem State.get_powerOnce (s : State) (e : EvKind) (u : UnitId) (d : Detail) {f : Fld} (hf : isTickStatus f.addr = false) :
    (s.powerOnce e u d).get f = s.get f := by
  unfold State.powerOnce
  split
  · rfl
  · exact (State.get_raise _ _ _ _ _ hf).trans (State.get_congr f rfl)

/-! ### Power states (R398, R399) -/

theorem State.sleepOf_setSleep (s : State) (u : PowerUnit) {d : Nat} (hd : d ≠ 0) : (s.setSleep u d).sleepOf u = d := by
  have hrest : (s.power.asleep.filter (fun x => !(x.1 == u))).find? (fun x => x.1 == u) = none := by simp
  simp only [State.sleepOf, State.setSleep, if_neg hd, List.find?_append, hrest]
  simp

theorem State.sleepOf_wake (s : State) (u : PowerUnit) : (s.setSleep u 0).sleepOf u = 0 := by
  have hrest : (s.power.asleep.filter (fun x => !(x.1 == u))).find? (fun x => x.1 == u) = none := by simp
  simp only [State.sleepOf, State.setSleep, if_pos, hrest]
  rfl

theorem State.sleepOf_congr {s t : State} (u : PowerUnit) (h : t.power = s.power) : t.sleepOf u = s.sleepOf u := by
  rw [State.sleepOf, State.sleepOf, h]

/-- The unit has entered a state of this depth: a core in C3 loses its line buffer, and the counts follow (R398, R403). -/
def State.enterSleep (s : State) (u : PowerUnit) (depth : Nat) : State :=
  match u, depth with
  | .core c, 3 => ((s.setSleep u depth).modCore c (fun k => { k with window := s.keptWindow c })).count Ctr.pwrC3EntryCount
  | .port _, _ => (s.setSleep u depth).count Ctr.pwrLaneSleepCount
  | _, _ => s.setSleep u depth

theorem doPowerStateEntry_of_deepest {s : State} {u : PowerUnit} {idle depth : Nat}
    (h : s.deepest u (s.idleTime u idle) = some depth) (hlt : s.sleepOf u < depth) :
    doPowerStateEntry u idle s = s.enterSleep u depth := by
  rw [doPowerStateEntry, h]
  dsimp only
  rw [if_neg (by omega)]
  clear h hlt
  cases u with
  | core c => obtain _ | _ | _ | _ | n := depth <;> rfl
  | staging d => rfl
  | stack st => rfl
  | port n => rfl

theorem State.power_enterSleep (s : State) (u : PowerUnit) (depth : Nat) :
    (s.enterSleep u depth).power = (s.setSleep u depth).power := by
  unfold State.enterSleep
  split
  · exact (State.count_power ..).trans rfl
  · exact State.count_power ..
  · rfl

theorem State.enterSleep_same (s : State) (u : PowerUnit) (depth : Nat) :
    s.same (countFields ++ [.cores, .power]) (s.enterSleep u depth) := by
  have hsleep : s.same (countFields ++ [.cores, .power]) (s.setSleep u depth) :=
    State.setSleep_keeps rfl (State.same_refl _ s)
  unfold State.enterSleep
  split
  · exact State.count_keeps rfl (State.modCore_keeps rfl hsleep)
  · exact State.count_keeps rfl hsleep
  · exact hsleep

theorem State.counter_enterSleep_core (s : State) (c : Nat) :
    (s.enterSleep (.core c) 3).counter Ctr.pwrC3EntryCount = min (s.counter Ctr.pwrC3EntryCount + 1) counterMax :=
  (State.counter_count ..).trans (if_pos rfl)

theorem State.counter_enterSleep_port (s : State) (n depth : Nat) :
    (s.enterSleep (.port n) depth).counter Ctr.pwrLaneSleepCount = min (s.counter Ctr.pwrLaneSleepCount + 1) counterMax :=
  (State.counter_count ..).trans (if_pos rfl)

/-- The condition under which a unit may enter a state whose next event is `t` ns away (R399). -/
def State.fits (s : State) (u : PowerUnit) (t d : Nat) : Prop :=
  s.sleepsAt u d = true ∧ s.exitNs u d + s.get Reg.pwrStateMargin_marginNs ≤ t ∧ breakEven u d ≤ t

theorem State.fits_iff (s : State) (u : PowerUnit) (t d : Nat) :
    (s.sleepsAt u d && decide (s.exitNs u d + s.get Reg.pwrStateMargin_marginNs ≤ t ∧ breakEven u d ≤ t)) = true ↔
      s.fits u t d := by
  rw [Bool.and_eq_true, decide_eq_true_iff]
  rfl

theorem State.depths_of_noDeep {s : State} (u : PowerUnit) (h : s.flag Reg.pwrControl_noDeep = true) :
    s.depths u = [] ∨ s.depths u = [1] ∧ ∃ c, u = .core c := by
  unfold State.depths
  rw [h]
  cases u with
  | core c => exact .inr ⟨rfl, c, rfl⟩
  | staging d => exact .inl rfl
  | stack st => exact .inl rfl
  | port n => exact .inl rfl

/-- The depths of a unit stand deepest first. -/
theorem State.depths_descend (s : State) (u : PowerUnit) : (s.depths u).Pairwise (fun d e => e < d) := by
  unfold State.depths
  split
  · decide
  · exact List.pairwise_singleton ..
  · exact List.pairwise_singleton ..
  · exact List.Pairwise.nil

theorem State.deepest_spec {s : State} {u : PowerUnit} {t d : Nat} (h : s.deepest u t = some d) :
    d ∈ s.depths u ∧ s.fits u t d ∧ ∀ e ∈ s.depths u, d < e → ¬ s.fits u t e := by
  obtain ⟨hd, before, after, hsplit, hbefore⟩ := List.find?_eq_some_iff_append.mp h
  have hmem : d ∈ s.depths u := by simp [hsplit]
  refine ⟨hmem, (s.fits_iff u t d).mp hd, fun e he hlt hfits => ?_⟩
  have horder := s.depths_descend u
  rw [hsplit] at he horder
  rcases List.mem_append.mp he with he | he
  · have hno := hbefore e he
    rw [(s.fits_iff u t e).mpr hfits] at hno
    exact absurd hno (by decide)
  · rcases List.mem_cons.mp he with rfl | he
    · exact Nat.lt_irrefl _ hlt
    · exact Nat.lt_asymm hlt (List.rel_of_pairwise_cons (List.pairwise_append.mp horder).2.1 he)

theorem State.not_fits_iff (s : State) (u : PowerUnit) (t d : Nat) : ¬ s.fits u t d ↔
    s.sleepsAt u d = false ∨ t < s.exitNs u d + s.get Reg.pwrStateMargin_marginNs ∨ t < breakEven u d := by
  rw [State.fits, Classical.not_and_iff_not_or_not, Classical.not_and_iff_not_or_not, Bool.not_eq_true, Nat.not_le, Nat.not_le]

theorem doPowerStateExit_of_due {s : State} {u : PowerUnit} {unplanned : Bool} (hasleep : s.sleepOf u ≠ 0)
    (hdue : unplanned = true ∨ s.exitDue u = true) : doPowerStateExit u unplanned s = s.setSleep u 0 := by
  refine if_pos ?_
  rw [Bool.and_eq_true, Bool.or_eq_true]
  exact ⟨bne_iff_ne.mpr hasleep, hdue⟩

theorem doPowerStateExit_of_not_due {s : State} {u : PowerUnit} (hdue : s.exitDue u = false) :
    doPowerStateExit u false s = s := by
  refine if_neg ?_
  rw [hdue, Bool.or_false, Bool.and_false]
  exact Bool.false_ne_true

/-! ### The commands -/

theorem exec_busDroop {s : State} {mv : Nat} (hon : s.power.off = false) (hbus : s.busState = 0) (hmv : mv < 44000) :
    exec (.busDroop mv) s =
      .next { (s.set Reg.pwrStatus_busState 1).disturb Ctr.pwrDroopCount Ev.busDroop mv with pending := s.pending } :=
  next_whenOn_of_eq hon (if_neg (by omega))

theorem exec_busLow {s : State} {mv : Nat} (hon : s.power.off = false) (hbus : s.busState = 1) (hmv : mv < 42000) :
    exec (.busLow mv) s =
      .next { (s.set Reg.pwrStatus_busState 2).disturb Ctr.pwrBusLowCount Ev.busLow mv with pending := s.pending } :=
  next_whenOn_of_eq hon (if_neg (by omega))

theorem exec_busLowRecover {s : State} {mv : Nat} (hon : s.power.off = false) (hbus : s.busState = 2) (hmv : 43000 ≤ mv) :
    exec (.busLowRecover mv) s = .next { s.endEmergency with pending := s.pending } :=
  next_whenOn_of_eq hon (if_neg (by omega))

theorem exec_busSurge {s : State} {mv us : Nat} (hon : s.power.off = false) (hbus : s.busState < 3) (hlow : 60000 < mv)
    (hhigh : mv ≤ 80000) (hus : us ≤ 100) : exec (.busSurge mv us) s =
      .next { s.disturb Ctr.pwrSurgeCount Ev.busSurge mv with pending := s.pending } :=
  next_whenOn_of_eq hon (if_neg (by omega))

theorem stepLimits_of_cool {s : State} {r : PowerReadings} (hcool : ∀ x ∈ s.fitted.margins r.temps, 0 < x.2)
    (hlimit : s.power.heatLimit = clockCeiling) : (s.stepLimits r).power.heatLimit = clockCeiling ∧
      (s.stepLimits r).counter Ctr.pwrThermalThrottleCount = s.counter Ctr.pwrThermalThrottleCount ∧
      (s.stepLimits r).events.path = s.events.path := by
  rw [State.stepLimits_eq, State.raiseThrottle_of_margins hcool]
  obtain ⟨hheat, hsame⟩ := State.setLimits_of_cool hcool hlimit
  exact ⟨hheat, State.counter_congr _ (hsame.on .counters rfl), by rw [hsame.on .events rfl]⟩

theorem stepLimits_raises {s : State} {r : PowerReadings} {n : Nat} {x : Int} (hmem : (n, x) ∈ s.fitted.margins r.temps)
    (hx : x ≤ 0) (hfirst : s.power.once.contains (Ev.thermalThrottle.code, n) = false) :
    (s.stepLimits r).pathHas Ev.thermalThrottle (UnitId.sensor n) { object := n, value := unsigned 32 x } := by
  rw [State.stepLimits_eq]
  have hseen : (s.setLimits r).throttleSeen n x := fun hc => by
    rw [State.once_setLimits, hfirst] at hc
    exact absurd hc Bool.false_ne_true
  refine State.throttleSeen_raiseThrottle ?_ hseen (State.once_raiseThrottle hx _ (.inl hmem))
  rintro ⟨m, y⟩ hy rfl
  exact s.fitted.margins_unique r.temps hmem hy

/-- The coolant check, with the event that it may raise. -/
theorem coolantCheck_shows {s : State} {flow : Nat} (inlet : Int) (hon : s.power.off = false) (hflow : flow < 2 ^ 16) :
    (doCoolantCheck flow inlet s).get Reg.pwrCoolant_flow = flow ∧
      (doCoolantCheck flow inlet s).get Reg.pwrCoolant_inlet = unsigned 16 inlet ∧
      (doCoolantCheck flow inlet s).get Reg.pwrStatus_coolantBad =
        (if flow < 400 ∨ inlet < 150 ∨ 450 < inlet then 1 else 0) ∧
      (flow < 400 → s.power.once.contains (Ev.coolantLimit.code, UnitId.power.num) = false →
        (doCoolantCheck flow inlet s).pathHas Ev.coolantLimit UnitId.power { value := flow, value2 := unsigned 32 inlet }) ∧
      s.same (eventFields ++ [.power]) (doCoolantCheck flow inlet s) := by
  obtain ⟨hf, hi, hb⟩ := s.get_showCoolant inlet hflow
  have hsame : s.same (eventFields ++ [.power]) (s.showCoolant flow inlet) :=
    State.set_keeps rfl (State.set_keeps rfl (State.set_keeps rfl (State.same_refl _ s)))
  rw [doCoolantCheck_eq hon]
  split
  · next hbad =>
    refine ⟨(State.get_powerOnce _ _ _ _ rfl).trans hf, (State.get_powerOnce _ _ _ _ rfl).trans hi,
      (State.get_powerOnce _ _ _ _ rfl).trans (hb.trans (if_pos hbad)), fun _ hfirst => State.pathHas_powerOnce ?_ _,
      State.powerOnce_keeps rfl hsame⟩
    rw [State.power_showCoolant]
    exact hfirst
  · next hgood =>
    exact ⟨hf, hi, hb.trans (if_neg hgood), fun hlow => absurd (.inl hlow) hgood, hsame⟩

theorem State.enterSleep_shows (s : State) (u : PowerUnit) {depth : Nat} (hdepth : depth ≠ 0) :
    (s.enterSleep u depth).sleepOf u = depth ∧
      (∀ c, u = .core c → depth = 3 →
        (s.enterSleep u depth).counter Ctr.pwrC3EntryCount = min (s.counter Ctr.pwrC3EntryCount + 1) counterMax) ∧
      (∀ n, u = .port n →
        (s.enterSleep u depth).counter Ctr.pwrLaneSleepCount = min (s.counter Ctr.pwrLaneSleepCount + 1) counterMax) ∧
      s.same (countFields ++ [.cores, .power]) (s.enterSleep u depth) := by
  refine ⟨?_, ?_, ?_, s.enterSleep_same u depth⟩
  · rw [State.sleepOf_congr u (s.power_enterSleep u depth), s.sleepOf_setSleep u hdepth]
  · rintro c rfl rfl
    exact s.counter_enterSleep_core c
  · rintro n rfl
    exact s.counter_enterSleep_port n depth

/-- Settles O54, by what each disturbance of the bus and each evaluation leaves in the state. -/
theorem powerIsWatchedAndManaged : Obligations.PowerIsWatchedAndManaged := by
  unfold Obligations.PowerIsWatchedAndManaged
  refine ⟨⟨?droop, ?low, ?normal, ?outside, ?recover, ?surge⟩, ?eval, ?cool, ?hot, ?clock, ?coolant, ?entry, ?deepest, ?exit⟩
  case droop =>
    refine fun s mv hon => ⟨fun hbus hmv => ⟨_, exec_busDroop hon hbus hmv, ?_⟩, fun h => next_whenOn_of_eq hon (if_pos h)⟩
    exact State.disturb_shows (s.set_same ..) (s.busState_set (by decide)) ..
  case low =>
    refine fun s mv hon => ⟨fun hbus hmv => ⟨_, exec_busLow hon hbus hmv, ?_⟩, fun h => next_whenOn_of_eq hon (if_pos h)⟩
    obtain ⟨hbus', -, hrest⟩ := State.disturb_shows (s.set_same Reg.pwrStatus_busState 2) (s.busState_set (by decide))
      Ctr.pwrBusLowCount Ev.busLow mv
    exact ⟨hbus', hrest⟩
  case normal => exact fun s mv hon hbus hmv => next_whenOn_of_eq hon (if_neg (by omega))
  case outside =>
    exact fun s mv hon => ⟨fun h => next_whenOn_of_eq hon (if_pos h), fun h => next_whenOn_of_eq hon (if_pos h)⟩
  case recover =>
    intro s mv hon hbus hmv
    obtain ⟨hone, hnone, hzero, hsame⟩ := s.endEmergency_shows
    exact ⟨_, exec_busLowRecover hon hbus hmv, (State.get_withPending ..).trans hone, hnone,
      (State.get_withPending ..).trans hzero, hsame.withPending _⟩
  case surge =>
    refine fun s mv us hon => ⟨fun hbus hlow hhigh hus => ⟨_, exec_busSurge hon hbus hlow hhigh hus, ?_⟩,
      fun h => next_whenOn_of_eq hon (if_pos h)⟩
    obtain ⟨hbus', -, hrest⟩ := State.disturb_shows (s := s) (State.same_refl _ s) rfl Ctr.pwrSurgeCount Ev.busSurge mv
    exact ⟨hbus', hrest⟩
  case eval => exact fun s r hon => next_whenOn_of_eq hon (if_neg (by simp [hon]))
  case cool => exact fun s r => stepLimits_of_cool
  case hot => exact fun s r n x => stepLimits_raises
  case clock => exact fun s target => s.get_now_moveClock
  case coolant =>
    intro s flow inlet hon hflow
    obtain ⟨hf, hi, hb, hevent, hsame⟩ := coolantCheck_shows inlet hon hflow
    exact ⟨_, next_whenOn_of_eq hon rfl, (State.get_withPending ..).trans hf, (State.get_withPending ..).trans hi,
      (State.get_withPending ..).trans hb, fun hlow hfirst => (hevent hlow hfirst).withPending _, hsame.withPending _⟩
  case entry =>
    intro s u idle depth hon hdeep hlt
    obtain ⟨hsleep, hcore, hport, hsame⟩ := s.enterSleep_shows u (depth := depth) (by omega)
    exact ⟨_, next_whenOn_of_eq hon (doPowerStateEntry_of_deepest hdeep hlt), (State.sleepOf_congr u rfl).trans hsleep,
      fun c hu hd => (State.counter_congr _ rfl).trans (hcore c hu hd),
      fun n hu => (State.counter_congr _ rfl).trans (hport n hu), hsame.withPending _⟩
  case deepest =>
    intro s u t d h
    obtain ⟨hmem, ⟨hsleeps, hexit, heven⟩, hno⟩ := State.deepest_spec h
    refine ⟨hmem, hsleeps, hexit, heven, fun hdeep => ?_, fun e he hlt => (s.not_fits_iff u t e).mp (hno e he hlt)⟩
    rcases State.depths_of_noDeep u hdeep with hnil | ⟨hone, hcore⟩
    · rw [hnil] at hmem
      exact absurd hmem (List.not_mem_nil)
    · rw [hone] at hmem
      exact ⟨List.mem_singleton.mp hmem, hcore⟩
  case exit =>
    refine fun s u unplanned hon hasleep => ⟨fun hdue => ⟨_, next_whenOn_of_eq hon (doPowerStateExit_of_due hasleep hdue),
      (State.sleepOf_congr u rfl).trans (s.sleepOf_wake u), (State.setSleep_keeps rfl (State.same_refl _ s)).withPending _⟩,
      fun hplanned hdue => ?_⟩
    subst hplanned
    exact next_whenOn_of_eq hon (doPowerStateExit_of_not_due hdue)

end Sys2Proof.Machine
end

/-! # Re-sharding (12_fabric.md, R332 to R334) -/

section

set_option Elab.async false

open Sys2Proof Sys2Proof.Machine

namespace Sys2Proof.Machine

/-! ### Ports -/

theorem State.port_of_getElem? {s : State} {n : Nat} {q : Port} (h : s.ports[n]? = some q) : s.port n = q := by
  rw [State.port, h, Option.getD_some]

theorem State.port_modPort_self {s : State} {n : Nat} {q : Port} (f : Port → Port) (h : s.ports[n]? = some q) :
    (s.modPort n f).port n = f q := by
  simp [State.port, State.modPort, h]

theorem State.port_modPort_other (s : State) {n m : Nat} (f : Port → Port) (h : m ≠ n) : (s.modPort n f).port m = s.port m := by
  simp [State.port, State.modPort, Ne.symm h]

/-- What a change of a port leaves alone in it reads as before in every port. -/
theorem State.port_modPort_congr {α : Type} (g : Port → α) (s : State) {n : Nat} {f : Port → Port}
    (h : g (f (s.port n)) = g (s.port n)) (m : Nat) : g ((s.modPort n f).port m) = g (s.port m) := by
  by_cases hm : m = n
  · subst hm
    cases hq : s.ports[m]? with
    | none => simp [State.port, State.modPort, hq]
    | some q => rwa [State.port_modPort_self f hq, ← State.port_of_getElem? hq]
  · rw [State.port_modPort_other s f hm]

theorem State.port_congr {s t : State} (n : Nat) (h : t.ports = s.ports) : t.port n = s.port n := by
  rw [State.port, State.port, h]

/-! ### The three actions (R332, R333) -/

theorem doReshardPrepare_of_filled {s : State} {ring : Nat} {d : Started}
    (hfind : s.findReshard ring (fun a => a != 2 && a != 3) = some d) (hstray : d.strayReshard = none)
    (hpool : d.badPool 18 = none) (haction : d.action = 1)
    (hfilled : s.slotFilled (s.ringPart ring) (d.opd 18 2) (d.opd 20 4) 2 = true) :
    let p := s.ringPart ring
    let q := d.opd 18 2
    let i := d.opd 20 4
    let b := s.readWin p (s.payloadOf p q i) (min (s.slot p q i).length (s.slotBytes p q))
    let u := s.consumeSlot p q i
    let fails := failedChecks [(1, u.reshardTime p 1), (2, (s.slot p q i).format == 0x12 && u.prepareOk p b)]
    let v := u.modPart p (fun x => { x with reshard := { x.reshard with prepared := some b } })
    doReshardPrepare ring s =
      (if fails.isEmpty then (if (v.part p).reshard.step.isNone then v.set Reg.fabEpoch_reshard 1 else v).finish ring d .done
        else u.refuseReshard ring d fails).releaseSlot p q i := by
  intro p q i b u fails v
  rw [doReshardPrepare, hfind]
  dsimp only
  rw [hstray, hpool]
  dsimp only [Option.or]
  rw [if_neg (by simp [haction]), if_neg (by simp [hfilled])]
  subst fails
  rw [← haction]

theorem doReshardCommit_of_found {s : State} {ring : Nat} {d : Started} (hfind : s.findReshard ring (· == 2) = some d)
    (hstray : d.strayReshard = none) :
    let p := s.ringPart ring
    let q := s.part p
    let fails := failedChecks [(1, s.reshardTime p d.action),
      (3, q.reshard.isPrepared && decide (q.step + 2 ≤ d.opd 24 8) && d.opd 32 2 == (s.epoch + 1) % 4096), (4, s.commitFits p)]
    doReshardCommit ring s =
      if fails.isEmpty then
        ((((s.beginDesc ring d).modPart p (fun x => { x with
          reshard := { x.reshard with step := some (d.opd 24 8), epoch := d.opd 32 2, ring := ring, seq := d.seq } })).set
            Reg.fabEpoch_reshard 2).set Reg.fabEpoch_next (d.opd 32 2)).setPair Reg.fabReshardStep (d.opd 24 8)
      else s.refuseReshard ring d fails := by
  rw [doReshardCommit, hfind]
  dsimp only
  rw [hstray]

theorem doReshardCancel_of_found {s : State} {ring : Nat} {d : Started} (hfind : s.findReshard ring (· == 3) = some d)
    (hstray : d.strayReshard = none) :
    let p := s.ringPart ring
    let fails := failedChecks [(1, s.reshardTime p d.action), (5, (s.part p).reshard.isPrepared)]
    doReshardCancel ring s =
      if fails.isEmpty then
        ((s.modPart p (fun x => { x with reshard := { x.reshard with prepared := none } })).set Reg.fabEpoch_reshard 0).finish
          ring d .done
      else s.refuseReshard ring d fails := by
  rw [doReshardCancel, hfind]
  dsimp only
  rw [hstray]

/-! ### What the boundary does after the switch (R334) -/

/-- The section in force, its epoch, the events on their way and the packets that wait stay as they were. -/
structure State.staysSwitched (s t : State) (p : Nat) : Prop where
  sectionNow : (t.part p).sectionNow = (s.part p).sectionNow
  sectionOld : (t.part p).sectionOld = (s.part p).sectionOld
  reshard : (t.part p).reshard = (s.part p).reshard
  epoch : t.get Reg.fabEpoch_epoch = s.get Reg.fabEpoch_epoch
  path : ∀ e u d, s.pathHas e u d → t.pathHas e u d
  waiting : ∀ n, (t.port n).waiting = (s.port n).waiting
  notices : ∀ n, (t.port n).notices = (s.port n).notices

namespace State.staysSwitched

variable {s t u : State} {p : Nat}

theorem refl (s : State) (p : Nat) : s.staysSwitched s p :=
  ⟨rfl, rfl, rfl, rfl, fun _ _ _ h => h, fun _ => rfl, fun _ => rfl⟩

theorem trans (h : s.staysSwitched t p) (h' : t.staysSwitched u p) : s.staysSwitched u p where
  sectionNow := h'.sectionNow.trans h.sectionNow
  sectionOld := h'.sectionOld.trans h.sectionOld
  reshard := h'.reshard.trans h.reshard
  epoch := h'.epoch.trans h.epoch
  path e u d hs := h'.path e u d (h.path e u d hs)
  waiting n := (h'.waiting n).trans (h.waiting n)
  notices n := (h'.notices n).trans (h.notices n)

theorem foldl {α : Type} {f : State → α → State} (hf : ∀ v x, s.staysSwitched v p → s.staysSwitched (f v x) p) (l : List α)
    (h : s.staysSwitched t p) : s.staysSwitched (l.foldl f t) p :=
  List.foldlRecOn (motive := fun v => s.staysSwitched v p) l f h fun v hv x _ => hf v x hv

theorem of_fields (p : Nat) (hparts : t.parts = s.parts) (hports : t.ports = s.ports)
    (hepoch : t.get Reg.fabEpoch_epoch = s.get Reg.fabEpoch_epoch) (hpath : ∀ e u d, s.pathHas e u d → t.pathHas e u d) :
    s.staysSwitched t p := by
  have hpart : t.part p = s.part p := by rw [State.part, hparts, ← State.part]
  exact ⟨by rw [hpart], by rw [hpart], by rw [hpart], hepoch, hpath, fun n => by rw [State.port_congr n hports],
    fun n => by rw [State.port_congr n hports]⟩

theorem modPort {n : Nat} {f : Port → Port} (p : Nat) (hw : (f (s.port n)).waiting = (s.port n).waiting)
    (hn : (f (s.port n)).notices = (s.port n).notices) : s.staysSwitched (s.modPort n f) p :=
  ⟨rfl, rfl, rfl, rfl, fun _ _ _ h => h, State.port_modPort_congr Port.waiting s hw,
    State.port_modPort_congr Port.notices s hn⟩

theorem modPart (s : State) (p r : Nat) {f : Part → Part} (hnow : ∀ q, (f q).sectionNow = q.sectionNow)
    (hold : ∀ q, (f q).sectionOld = q.sectionOld) (hreshard : ∀ q, (f q).reshard = q.reshard) :
    s.staysSwitched (s.modPart r f) p :=
  ⟨State.part_modPart_congr Part.sectionNow hnow .., State.part_modPart_congr Part.sectionOld hold ..,
    State.part_modPart_congr Part.reshard hreshard .., rfl, fun _ _ _ h => h, fun _ => rfl, fun _ => rfl⟩

theorem stampUsed (s : State) (p : Nat) : s.staysSwitched s.stampUsed p :=
  of_fields p s.stampUsed_parts s.stampUsed_ports (State.get_stampUsed _ _ rfl) fun _ _ _ h => State.pathHas_stampUsed_mono h

theorem sealPacket (s : State) (p r : Nat) (x : PacketSpec) : s.staysSwitched (State.seal s r x).2 p := by
  unfold State.seal
  dsimp only
  split
  · exact stampUsed s p
  · split
    · exact stampUsed s p
    · exact (stampUsed s p).trans (modPart _ _ _ (fun _ => rfl) (fun _ => rfl) (fun _ => rfl))

theorem post (s : State) (p r port : Nat) (x : PacketSpec) (slot : Option (Nat × Nat)) (late : Bool) :
    s.staysSwitched (s.post r port x slot late) p :=
  (sealPacket s p r x).trans (modPort p rfl rfl)

theorem fencePort (s : State) (p r n : Nat) : s.staysSwitched (s.fencePort r n) p := by
  unfold State.fencePort
  split
  · exact refl s p
  · exact foldl (fun v c hv => hv.trans (post ..)) _ (refl s p)

theorem noteDrained (s : State) (p : Nat) : s.staysSwitched s.noteDrained p := by
  unfold State.noteDrained
  split
  · exact of_fields p (State.set_parts ..) (State.set_ports ..)
      (State.get_set_apart _ _ _ _ (by unfold Fld.apart; decide)) fun _ _ _ h => State.pathHas_congr (State.set_events ..) h
  · exact refl s p

theorem finish (s : State) (p ring : Nat) (d : Started) (st : Status) (detail : Nat) :
    s.staysSwitched (s.finish ring d st detail) p :=
  of_fields p rfl rfl (State.get_congr _ rfl) fun _ _ _ h => State.pathHas_congr (s := s) rfl h

/-- A port where nothing waits delivers nothing. -/
theorem deliverPort {n : Nat} (hw : (s.port n).waiting = []) (hn : (s.port n).notices = []) (p : Nat) :
    s.staysSwitched (s.deliverPort n) p := by
  unfold State.deliverPort
  rw [hw, hn]
  have hempty : s.staysSwitched (s.modPort n (fun x => { x with waiting := [], notices := [] })) p :=
    modPort p hw.symm hn.symm
  exact hempty.trans (modPort p rfl rfl)

end State.staysSwitched

/-- A partition whose section has been switched: a prepared section is in force, the old one stays at hand. -/
def Part.switchTo (q : Part) (b : List Byte) : Part :=
  { q with
    sectionOld := q.sectionNow, sectionNow := some b, switched := [], reshard := ⟨none, none, 0, 0, 0⟩, slotsLate := false }

/-- The section and the epoch of partition `p` change, with the event (R334). -/
def State.switchSection (s : State) (p step epoch : Nat) (b : List Byte) : State :=
  (((s.modPart p (fun q => q.switchTo b)).set Reg.fabEpoch_epoch epoch).set Reg.fabEpoch_reshard 3).raise Ev.epochChanged
    (UnitId.partition p) { object := epoch, value := step % 2 ^ 32 }

/-- The descriptor of the commit completes. -/
def State.endCommit (s : State) (ring seq : Nat) : State := match s.descOf ring seq with
  | some d => s.finish ring d .done
  | none => s

/-- The markers go out behind the old epoch, the commit completes, and the packets that waited are delivered (R334). -/
def State.openEpoch (s : State) (p ring seq : Nat) : State :=
  let v := (((s.portsOf p).foldl (fun u n => u.fencePort p n) s).noteDrained).endCommit ring seq
  (v.portsOf p).foldl (fun u n => u.deliverPort n) v

theorem State.part_switchSection {s : State} {p : Nat} {q : Part} (hq : s.parts[p]? = some q) (step epoch : Nat)
    (b : List Byte) : (s.switchSection p step epoch b).part p = q.switchTo b := by
  rw [State.switchSection, State.part, State.raise_parts, State.set_parts, State.set_parts]
  exact State.part_modPart_self _ hq

theorem State.epoch_switchSection (s : State) (p step epoch : Nat) (b : List Byte) :
    (s.switchSection p step epoch b).get Reg.fabEpoch_epoch = epoch % 4096 := by
  rw [State.switchSection, State.get_raise _ _ _ _ _ rfl, State.get_set_apart _ _ _ _ (by unfold Fld.apart; decide),
    State.get_set_self]
  rfl

theorem State.ports_switchSection (s : State) (p step epoch : Nat) (b : List Byte) :
    (s.switchSection p step epoch b).ports = s.ports := by
  rw [State.switchSection, State.raise_ports, State.set_ports, State.set_ports, State.modPart_ports]

theorem State.pathHas_switchSection (s : State) (p step epoch : Nat) (b : List Byte) :
    (s.switchSection p step epoch b).pathHas Ev.epochChanged (UnitId.partition p)
      { object := epoch, value := step % 2 ^ 32 } :=
  State.pathHas_raise ..

theorem State.openEpoch_stays {s : State} (hquiet : ∀ n, (s.port n).waiting = [] ∧ (s.port n).notices = [])
    (p ring seq : Nat) : s.staysSwitched (s.openEpoch p ring seq) p := by
  have hends : ∀ v : State, v.staysSwitched (v.endCommit ring seq) p := fun v => by
    unfold State.endCommit
    split
    · exact .finish ..
    · exact .refl v p
  have hfenced : s.staysSwitched ((s.portsOf p).foldl (fun u n => u.fencePort p n) s) p :=
    .foldl (fun v n hv => hv.trans (.fencePort ..)) _ (.refl s p)
  have hcommit := (hfenced.trans (.noteDrained _ p)).trans (hends _)
  exact .foldl (fun v n hv => hv.trans (.deliverPort ((hv.waiting n).trans (hquiet n).1) ((hv.notices n).trans (hquiet n).2) p))
    _ hcommit

theorem doReshardBoundary_of_step {s : State} {p step : Nat} {b : List Byte} {q : Part} (hq : s.parts[p]? = some q)
    (hin : s.inStep p = true) (hstep : q.reshard.step = some step) (hprepared : q.reshard.prepared = some b)
    (hnow : q.step = step) (hfirst : q.index = 0) :
    doReshardBoundary p s =
      (s.switchSection p step q.reshard.epoch b).openEpoch p q.reshard.ring q.reshard.seq := by
  rw [doReshardBoundary, State.part_of_getElem? hq]
  dsimp only
  rw [hstep, hprepared]
  dsimp only
  rw [if_neg (by simp [hin, hnow, hfirst])]
  rfl

/-- Settles O47: the actions by their equations, and the boundary by the switch and what stays of it. -/
theorem reshardingSwitchesSections : Obligations.ReshardingSwitchesSections := by
  unfold Obligations.ReshardingSwitchesSections
  refine ⟨?prepare, ?commit, ?cancel, ?boundary, ?timeout⟩
  case prepare =>
    exact fun s ring d hon hfind hstray hpool haction hfilled =>
      next_whenOn_of_eq hon (doReshardPrepare_of_filled hfind hstray hpool haction hfilled)
  case commit => exact fun s ring d hon hfind hstray => next_whenOn_of_eq hon (doReshardCommit_of_found hfind hstray)
  case cancel => exact fun s ring d hon hfind hstray => next_whenOn_of_eq hon (doReshardCancel_of_found hfind hstray)
  case boundary =>
    intro s p step b q hon hq hin hstep hprepared hnow hfirst hquiet
    have hpart := State.part_switchSection hq step q.reshard.epoch b
    have hepoch := s.epoch_switchSection p step q.reshard.epoch b
    have hpath := s.pathHas_switchSection p step q.reshard.epoch b
    have hstays := State.openEpoch_stays (s := s.switchSection p step q.reshard.epoch b)
      (fun n => by rw [State.port_congr n (s.ports_switchSection ..)]; exact hquiet n) p q.reshard.ring q.reshard.seq
    refine ⟨_, next_whenOn_of_eq hon (doReshardBoundary_of_step hq hin hstep hprepared hnow hfirst), ?_⟩
    generalize (s.switchSection p step q.reshard.epoch b).openEpoch p q.reshard.ring q.reshard.seq = t at hstays ⊢
    generalize s.switchSection p step q.reshard.epoch b = v at *
    exact ⟨hstays.sectionNow.trans (congrArg Part.sectionNow hpart), hstays.sectionOld.trans (congrArg Part.sectionOld hpart),
      congrArg Reshard.step (hstays.reshard.trans (congrArg Part.reshard hpart)),
      (State.get_withPending ..).trans (hstays.epoch.trans hepoch), (hstays.path _ _ _ hpath).withPending _⟩
  case timeout =>
    intro s p n hon hport hlate
    exact next_whenOn_of_eq hon (if_neg (by simp [hport, hlate]))

end Sys2Proof.Machine
end

/-! # Relays, fence markers, output arbitration and route switches (12_fabric.md, R310, R316, R334, R335) -/

section

set_option Elab.async false

open Sys2Proof Sys2Proof.Machine

namespace Sys2Proof.Machine

/-! ### A packet for another position (R316) -/

theorem doPacketRelay_of_take {s : State} {n : Nat} {pk : Packet} (hup : s.portUp n = true)
    (hother : s.isFor (s.portPart n) (pkDest pk) = false) (hfate : s.fate n pk = .take) :
    doPacketRelay n pk s = (s.stampReceipt (pkStamp pk)).relay n pk := by
  rw [doPacketRelay, if_neg (by simp [hup, hother]), hfate]

theorem State.relay_of_route {s : State} {n : Nat} {pk : Packet} {r : FabRoute}
    (h : (s.fabSec (s.portPart n)).bind (fun b => fabRoute b (pkDest pk)) = some r) :
    let p := s.portPart n
    let out := (s.portTo p (pkDest pk)).getD r.port
    s.relay n pk =
      if bitAt r.relayIn n = 0 then (s.passPacket n pk).unroutable n pk 2
      else if s.portUp out = false then (s.passPacket n pk).unroutable n pk 3
      else (s.bufferPacket n pk).enqueueVia out (pkClass pk) (.packet pk) ((s.relaySlot p pk).map (fun k => (p, k))) false
        (some n) := by
  rw [State.relay, h]
  dsimp only
  simp only [Bool.not_eq_true']

theorem State.relay_of_no_route {s : State} {n : Nat} {pk : Packet}
    (h : (s.fabSec (s.portPart n)).bind (fun b => fabRoute b (pkDest pk)) = none) :
    s.relay n pk = (s.passPacket n pk).unroutable n pk 1 := by
  rw [State.relay, h]

/-! ### What the sending of an item leaves alone (R310, R311) -/

/-- What waits at the ports, their credits, the items sent and the counters stay as they were. -/
structure State.staysSent (s t : State) : Prop where
  queue : ∀ m, (t.port m).queue = (s.port m).queue
  credits : ∀ m, (t.port m).credits = (s.port m).credits
  fabric : t.out.fabric = s.out.fabric
  counters : t.counters = s.counters

namespace State.staysSent

variable {s t u : State}

theorem refl (s : State) : s.staysSent s := ⟨fun _ => rfl, fun _ => rfl, rfl, rfl⟩

theorem trans (h : s.staysSent t) (h' : t.staysSent u) : s.staysSent u where
  queue m := (h'.queue m).trans (h.queue m)
  credits m := (h'.credits m).trans (h.credits m)
  fabric := h'.fabric.trans h.fabric
  counters := h'.counters.trans h.counters

theorem of_fields (hports : t.ports = s.ports) (hfabric : t.out.fabric = s.out.fabric) (hcounters : t.counters = s.counters) :
    s.staysSent t :=
  ⟨fun m => by rw [State.port_congr m hports], fun m => by rw [State.port_congr m hports], hfabric, hcounters⟩

theorem modLink (s : State) (n : Nat) (f : Link → Link) : s.staysSent (s.modLink n f) :=
  ⟨State.port_modPort_congr Port.queue s rfl, State.port_modPort_congr Port.credits s rfl, rfl, rfl⟩

theorem releaseVia (s : State) (x : PortItem) : s.staysSent (s.releaseVia x) := by
  unfold State.releaseVia
  split
  · exact modLink ..
  · exact refl s

theorem putFlit (s : State) (n : Nat) (g : SentFlit) : s.staysSent (s.putFlit n g) := by
  unfold State.putFlit
  exact trans (t := { s with out := { s.out with flits := s.out.flits ++ [(n, g.coded)] } }) (of_fields rfl rfl rfl) (modLink ..)

theorem sendFlit (s : State) (n kind : Nat) (payload : List Byte) : s.staysSent (s.sendFlit n kind payload) := by
  unfold State.sendFlit
  dsimp only
  split
  · exact (putFlit ..).trans (putFlit ..)
  · exact putFlit ..

theorem sendWire (s : State) (n : Nat) (o : FabOut) : s.staysSent (s.sendWire n o) :=
  List.foldlRecOn (motive := fun v => s.staysSent v) _ _ (modLink ..) fun _ hv _ _ => hv.trans (sendFlit ..)

theorem ite {c : Prop} [Decidable c] (h : s.staysSent t) : s.staysSent (if c then t else s) := by
  split
  · exact h
  · exact refl s

theorem noteSlotLate (s : State) (n : Nat) (x : PortItem) : s.staysSent (s.noteSlotLate n x) := by
  unfold State.noteSlotLate
  split
  · exact ite (of_fields rfl rfl rfl)
  · exact refl s

theorem noteDrained (s : State) : s.staysSent s.noteDrained := by
  unfold State.noteDrained
  split
  · exact of_fields (State.set_ports ..) (by rw [State.set_out]) (State.set_counters ..)
  · exact refl s

theorem wake (s : State) (f : PowerUnit → Bool) : s.staysSent (s.wake f) := of_fields rfl rfl rfl

end State.staysSent

/-! ### The arbiter's next item (R310) -/

/-- A port once the arbiter has taken an item from it. -/
def Port.takeItem (q : Port) (x : PortItem) (now : Nat) : Port :=
  { q with
    queue := dropFirst x q.queue, credits := q.credits.modify x.cls (fun c => c - x.out.units)
    lastCtrl := if x.cls = 0 then some now else q.lastCtrl }

/-- The arbiter takes an item: a grant of the starvation guard is counted. -/
def State.grantItem (s : State) (n : Nat) (x : PortItem) (granted : Bool) : State :=
  let v := if granted then s.count Ctr.fabStarveGrantCount else s
  v.modPort n (fun q => q.takeItem x v.time.now)

/-- The place of the item in its input buffer is free, and the lanes of the port are awake (R311, R399). -/
def State.readyPort (s : State) (n : Nat) (x : PortItem) : State :=
  if x.cls = 0 then s.releaseVia x else (s.releaseVia x).wake (fun u => u == .port n)

/-- An item goes out on a port. -/
def State.emitItem (s : State) (n : Nat) (x : PortItem) : State :=
  ((({ s with out := { s.out with fabric := s.out.fabric ++ [(n, x.out)] } } : State).sendWire n x.out).noteSlotLate n
    x).noteDrained

theorem doOutputArbitration_of_item {s : State} {n : Nat} {x : PortItem} {granted : Bool} (hup : s.portUp n = true)
    (hnext : s.nextItem n = some (x, granted)) :
    doOutputArbitration n s = ((s.grantItem n x granted).readyPort n x).emitItem n x := by
  rw [doOutputArbitration, if_neg (by simp [hup]), hnext]
  rfl

theorem State.staysSent.readyPort (s : State) (n : Nat) (x : PortItem) : s.staysSent (s.readyPort n x) := by
  unfold State.readyPort
  split
  · exact .releaseVia ..
  · exact (State.staysSent.releaseVia ..).trans (.wake ..)

theorem State.ports_grantItem (s : State) (n : Nat) (x : PortItem) (granted : Bool) :
    ∃ now, (s.grantItem n x granted).ports = (s.modPort n (fun q => q.takeItem x now)).ports := by
  cases granted with
  | false => exact ⟨s.time.now, rfl⟩
  | true =>
    refine ⟨(s.count Ctr.fabStarveGrantCount).time.now, ?_⟩
    exact congrArg (List.modify · n _) (State.count_ports ..)

theorem State.fabric_grantItem (s : State) (n : Nat) (x : PortItem) (granted : Bool) :
    (s.grantItem n x granted).out.fabric = s.out.fabric := by
  cases granted with
  | false => rfl
  | true => exact congrArg (·.fabric) (State.count_out s Ctr.fabStarveGrantCount 1)

theorem State.counter_grantItem (s : State) (n : Nat) (x : PortItem) (granted : Bool) :
    (s.grantItem n x granted).counter Ctr.fabStarveGrantCount =
      if granted then min (s.counter Ctr.fabStarveGrantCount + 1) counterMax else s.counter Ctr.fabStarveGrantCount := by
  cases granted with
  | false => exact State.counter_congr _ rfl
  | true => exact (State.counter_congr _ rfl).trans ((State.counter_count ..).trans (if_pos rfl))

/-- What the ports, the output and the count show once an item has gone out. -/
theorem State.emitItem_shows (s : State) (n : Nat) (x : PortItem) :
    (s.emitItem n x).out.fabric = s.out.fabric ++ [(n, x.out)] ∧
      (∀ m, ((s.emitItem n x).port m).queue = (s.port m).queue ∧ ((s.emitItem n x).port m).credits = (s.port m).credits) ∧
      (s.emitItem n x).counters = s.counters := by
  have hsent : State.staysSent ({ s with out := { s.out with fabric := s.out.fabric ++ [(n, x.out)] } } : State)
      (s.emitItem n x) := ((State.staysSent.sendWire ..).trans (.noteSlotLate ..)).trans (.noteDrained ..)
  exact ⟨hsent.fabric, fun m => ⟨hsent.queue m, hsent.credits m⟩, hsent.counters⟩

/-! ### Route switches (R335) -/

/-- A partition that no longer keeps a switch. -/
def Part.dropSwitch (q : Part) (y : Nat × Nat × Nat) : Part := { q with switches := dropFirst y q.switches }

/-- A partition whose route to a position has gone to the alternate port, and whose Fixer may resume. -/
def Part.takeRoute (q : Part) (pos : Nat) : Part :=
  { q with
    switched := if q.switched.contains pos then q.switched else q.switched ++ [pos]
    fixer := { q.fixer with resumeAt := some q.exposure } }

/-- The switch that falls due is no longer kept. -/
def State.takeSwitch (s : State) (p : Nat) (y : Nat × Nat × Nat) : State := s.modPart p (fun q => q.dropSwitch y)

/-- The event of a route switch (R335). -/
def State.raiseSwitch (s : State) (p pos x cause : Nat) : State :=
  s.raiseFor (some p) Ev.routeSwitched UnitId.module { value := pos, value2 := x % 2 ^ 32, cause := cause }

theorem State.fabSec_takeSwitch (s : State) (p : Nat) (y : Nat × Nat × Nat) : (s.takeSwitch p y).fabSec p = s.fabSec p := by
  have hnow : ((s.takeSwitch p y).part p).sectionNow = (s.part p).sectionNow :=
    State.part_modPart_congr Part.sectionNow (f := fun q => q.dropSwitch y) (fun _ => rfl) s p p
  have hplan : ((s.takeSwitch p y).part p).plan = (s.part p).plan :=
    State.part_modPart_congr Part.plan (f := fun q => q.dropSwitch y) (fun _ => rfl) s p p
  rw [State.fabSec, State.fabSec, hnow, State.planOf_congr hplan rfl]

theorem State.inStep_takeSwitch (s : State) (p : Nat) (y : Nat × Nat × Nat) : (s.takeSwitch p y).inStep p = s.inStep p := by
  have hphase : ((s.takeSwitch p y).part p).phase = (s.part p).phase :=
    State.part_modPart_congr Part.phase (f := fun q => q.dropSwitch y) (fun _ => rfl) s p p
  rw [State.inStep, State.inStep, hphase]

theorem State.getElem?_modPart {s : State} {p : Nat} {q : Part} (f : Part → Part) (h : s.parts[p]? = some q) :
    (s.modPart p f).parts[p]? = some (f q) := by
  simp [State.modPart, h]

section

variable {s : State} {p pos x tick : Nat}
  (hdue : (s.part p).switches.find? (fun y => y.1 == pos && decide (y.2.2 ≤ (s.part p).exposure)) = some (pos, x, tick))

include hdue

theorem doRouteSwitchApply_of_route {r : FabRoute} (hroute : (s.fabSec p).bind (fun b => fabRoute b pos) = some r) :
    let v := s.takeSwitch p (pos, x, tick)
    doRouteSwitchApply p pos s =
      if r.altPort = 0xFF then (v.raiseSwitch p pos x 2).stepFault p .route
      else ((v.modPart p (fun q => q.takeRoute pos)).count Ctr.fabRouteSwitchCount).raiseSwitch p pos x
        (if tick = x then 0 else 1) := by
  rw [← s.fabSec_takeSwitch p (pos, x, tick)] at hroute
  rw [doRouteSwitchApply, hdue]
  dsimp only
  rw [show (s.modPart p fun q => { q with switches := dropFirst (pos, x, tick) q.switches }) =
    s.takeSwitch p (pos, x, tick) from rfl, hroute]
  rfl

theorem doRouteSwitchApply_of_no_route (hroute : (s.fabSec p).bind (fun b => fabRoute b pos) = none) :
    doRouteSwitchApply p pos s = (s.takeSwitch p (pos, x, tick)).modPart p (fun q =>
      { q with fixer := { q.fixer with resumeAt := some q.exposure } }) := by
  rw [← s.fabSec_takeSwitch p (pos, x, tick)] at hroute
  rw [doRouteSwitchApply, hdue]
  dsimp only
  rw [show (s.modPart p fun q => { q with switches := dropFirst (pos, x, tick) q.switches }) =
    s.takeSwitch p (pos, x, tick) from rfl, hroute]

end

theorem State.getElem?_raiseSwitch {s : State} {p : Nat} {q : Part} (h : s.parts[p]? = some q) (pos x cause : Nat) :
    (s.raiseSwitch p pos x cause).parts[p]? = some q := by
  rwa [State.raiseSwitch, State.raiseFor_parts]

theorem State.inStep_raiseSwitch (s : State) (p pos x cause : Nat) :
    (s.raiseSwitch p pos x cause).inStep p = s.inStep p := by
  rw [State.inStep, State.inStep,
    State.part_congr (s := s) (t := s.raiseSwitch p pos x cause) p (State.raiseFor_parts ..)]

theorem State.getElem?_of_inStep {s : State} {p : Nat} (h : s.inStep p = true) : ∃ q, s.parts[p]? = some q := by
  cases hq : s.parts[p]? with
  | some q => exact ⟨q, rfl⟩
  | none =>
    rw [State.inStep, State.part, hq] at h
    exact absurd h (by decide)

/-- A switch without an alternate port raises its event and faults the step. -/
theorem State.switchFault_shows (s : State) (p pos x tick : Nat) :
    let t := ((s.takeSwitch p (pos, x, tick)).raiseSwitch p pos x 2).stepFault p .route
    t.pathHas Ev.routeSwitched UnitId.module { value := pos, value2 := x % 2 ^ 32, cause := 2 } ∧
      (s.inStep p = true → (t.part p).phase = .faulted ∧ (t.part p).faultCause = FaultCause.route.code ∧
        ∀ q, s.parts[p]? = some q →
          t.pathHas Ev.stepFault (UnitId.partition p) { value := q.step % 2 ^ 32, cause := FaultCause.route.code }) := by
  refine ⟨State.pathHas_stepFault_mono _ _ (State.pathHas_raiseFor ..), fun hin => ?_⟩
  obtain ⟨q, hq⟩ := State.getElem?_of_inStep hin
  have hq' : ((s.takeSwitch p (pos, x, tick)).raiseSwitch p pos x 2).parts[p]? = some (q.dropSwitch (pos, x, tick)) :=
    State.getElem?_raiseSwitch (State.getElem?_modPart _ hq) pos x 2
  have hin' : ((s.takeSwitch p (pos, x, tick)).raiseSwitch p pos x 2).inStep p = true := by
    rw [State.inStep_raiseSwitch, State.inStep_takeSwitch, hin]
  obtain ⟨hphase, hcause, hpath, -⟩ := stepFaultsStopTheStep.2 _ p .route _ hq' hin'
  refine ⟨hphase, hcause, fun r hr => ?_⟩
  obtain rfl : q = r := Option.some.inj (hq.symm.trans hr)
  exact hpath

/-- A switch to the alternate port is counted, noted and raises its event. -/
theorem State.switchRoute_shows (s : State) (p pos x tick cause : Nat) :
    let t := (((s.takeSwitch p (pos, x, tick)).modPart p (fun q => q.takeRoute pos)).count
      Ctr.fabRouteSwitchCount).raiseSwitch p pos x cause
    t.counter Ctr.fabRouteSwitchCount = min (s.counter Ctr.fabRouteSwitchCount + 1) counterMax ∧
      (∀ q, s.parts[p]? = some q → (t.part p).switched.contains pos = true) ∧
      t.pathHas Ev.routeSwitched UnitId.module { value := pos, value2 := x % 2 ^ 32, cause := cause } := by
  refine ⟨?_, fun q hq => ?_, State.pathHas_raiseFor ..⟩
  · refine (State.counter_congr _ (State.raiseFor_counters ..)).trans ((State.counter_count ..).trans ((if_pos rfl).trans ?_))
    exact congrArg (fun c => min (c + 1) counterMax) (State.counter_congr (s := s) _ rfl)
  · have hpart := State.part_modPart_self (fun q : Part => q.takeRoute pos)
      (State.getElem?_modPart (fun q : Part => q.dropSwitch (pos, x, tick)) hq)
    rw [State.raiseSwitch, State.part, State.raiseFor_parts, State.count_parts]
    refine (congrArg (fun r : Part => r.switched.contains pos) hpart).trans ?_
    unfold Part.takeRoute
    dsimp only
    split
    · assumption
    · simp

/-- Without a route the Fixer may resume, and nothing else changes. -/
theorem State.switchNone_shows (s : State) (p : Nat) (y : Nat × Nat × Nat) :
    let t := (s.takeSwitch p y).modPart p (fun q => { q with fixer := { q.fixer with resumeAt := some q.exposure } })
    s.same [.parts] t ∧ ∀ q, s.parts[p]? = some q → (t.part p).fixer.resumeAt = some q.exposure := by
  refine ⟨State.modPart_keeps rfl (State.modPart_keeps rfl (State.same_refl _ s)), fun q hq => ?_⟩
  have hpart := State.part_modPart_self (s := s.takeSwitch p y)
    (fun q : Part => { q with fixer := { q.fixer with resumeAt := some q.exposure } }) (State.getElem?_modPart _ hq)
  exact congrArg (fun r : Part => r.fixer.resumeAt) hpart

/-- Settles O45: each command by its equation, the arbiter by what the sending of an item leaves alone. -/
theorem packetsAreRouted : Obligations.PacketsAreRouted := by
  unfold Obligations.PacketsAreRouted
  refine ⟨?relay, ?fence, ?item, ?switch, ?noRoute, ?idle⟩
  case relay =>
    intro s n pk hon hup hother hfate v p
    have hrelay := doPacketRelay_of_take hup hother hfate
    exact ⟨fun r hr => next_whenOn_of_eq hon (hrelay.trans (State.relay_of_route hr)),
      fun hr => next_whenOn_of_eq hon (hrelay.trans (State.relay_of_no_route hr))⟩
  case fence => exact fun s n pk hon hup hkind => next_whenOn_of_eq hon (if_pos ⟨hkind, hup⟩)
  case item =>
    intro s n x granted hon hup hnext
    obtain ⟨now, hports⟩ := s.ports_grantItem n x granted
    have hfabric := s.fabric_grantItem n x granted
    have hcount := s.counter_grantItem n x granted
    have hready := State.staysSent.readyPort (s.grantItem n x granted) n x
    obtain ⟨hout, hqueues, hcounters⟩ := ((s.grantItem n x granted).readyPort n x).emitItem_shows n x
    refine ⟨_, next_whenOn_of_eq hon (doOutputArbitration_of_item hup hnext), ?_⟩
    generalize ((s.grantItem n x granted).readyPort n x).emitItem n x = t at *
    generalize (s.grantItem n x granted).readyPort n x = v at *
    generalize s.grantItem n x granted = u at *
    have hport : ∀ m, (t.port m).queue = ((s.modPort n (fun q => q.takeItem x now)).port m).queue ∧
        (t.port m).credits = ((s.modPort n (fun q => q.takeItem x now)).port m).credits := fun m => by
      rw [← State.port_congr m hports, (hqueues m).1, (hqueues m).2]
      exact ⟨hready.queue m, hready.credits m⟩
    refine ⟨?_, fun q hq => ?_, fun m hm => ?_, ?_⟩
    · exact hout.trans (by rw [hready.fabric, hfabric])
    · have h := hport n
      rwa [State.port_modPort_self _ hq] at h
    · have h := hport m
      rwa [State.port_modPort_other _ _ hm] at h
    · exact (State.counter_congr _ (hcounters.trans hready.counters)).trans hcount
  case switch =>
    intro s p pos x tick r hon hdue hroute
    refine ⟨_, next_whenOn_of_eq hon (doRouteSwitchApply_of_route hdue hroute), ?_⟩
    split
    · obtain ⟨hswitched, hfault⟩ := s.switchFault_shows p pos x tick
      refine ⟨hswitched.withPending _, fun hin => ?_⟩
      obtain ⟨hphase, hcause, hpath⟩ := hfault hin
      exact ⟨hphase, hcause, fun q hq => (hpath q hq).withPending _⟩
    · obtain ⟨hcount, hpart, hpath⟩ := s.switchRoute_shows p pos x tick (if tick = x then 0 else 1)
      exact ⟨(State.counter_congr _ rfl).trans hcount, hpart, hpath.withPending _⟩
  case noRoute =>
    intro s p pos x tick hon hdue hroute
    obtain ⟨hsame, hresume⟩ := s.switchNone_shows p (pos, x, tick)
    exact ⟨_, next_whenOn_of_eq hon (doRouteSwitchApply_of_no_route hdue hroute), hsame.withPending _, hresume⟩
  case idle =>
    intro s n hon hup hnext
    refine next_whenOn_of_eq hon ?_
    rw [doOutputArbitration, if_neg (by simp [hup]), hnext]

end Sys2Proof.Machine
end

/-! # Ports: training, lanes, FLITs and replay (12_fabric.md, R300 to R304, R311, R315) -/

section

set_option Elab.async false

open Sys2Proof Sys2Proof.Machine

namespace Sys2Proof.Machine

theorem State.getElem?_modPort {s : State} {n : Nat} {q : Port} (f : Port → Port) (h : s.ports[n]? = some q) :
    (s.modPort n f).ports[n]? = some (f q) := by
  simp [State.modPort, h]

/-! ### Registers of a port -/

theorem not_tickStatus_fabPort {n : Nat} (h : n < 48) : isTickStatus (0x900100 + 0x10 * n) = false := by
  simp [isTickStatus]
  omega

theorem fabPort_state_apart {f : Fld} (h : f.addr < 0x900100 ∨ 0x901000 ≤ f.addr) {n : Nat} (hn : n < 48) :
    f.apart (Reg.fabPort_state n) := by
  refine .inl ?_
  show f.addr ≠ 0x900100 + 0x10 * n
  omega

theorem fabPort_failedLanes_apart_state (n : Nat) : (Reg.fabPort_failedLanes n).apart (Reg.fabPort_state n) :=
  .inr (.inl (show 0 + 3 ≤ 4 by decide))

theorem fabPort_spareUsed_apart_state (n : Nat) : (Reg.fabPort_spareUsed n).apart (Reg.fabPort_state n) :=
  .inr (.inl (show 0 + 3 ≤ 3 by decide))

theorem fabPort_spareUsed_apart_failedLanes (n : Nat) : (Reg.fabPort_spareUsed n).apart (Reg.fabPort_failedLanes n) :=
  .inr (.inr (show 3 + 1 ≤ 4 by decide))

theorem fabPort_failedLanes_apart_spareUsed (n : Nat) : (Reg.fabPort_failedLanes n).apart (Reg.fabPort_spareUsed n) :=
  .inr (.inl (show 3 + 1 ≤ 4 by decide))

/-- The neighbour of a port stands in another register than its state. -/
theorem fabPort_neighbour_apart {f g : Fld} {n : Nat} (hf : f.addr = 0x900108 + 0x10 * n) (hg : g.addr = 0x900100 + 0x10 * n) :
    f.apart g :=
  .inl (by omega)

/-! ### What a port that goes down leaves alone (R302) -/

/-- The state of port `n`, its replays in the exposure and their count, the FLITs sent and the events on their way stay as
they were. -/
structure State.keepsPort (s t : State) (n : Nat) : Prop where
  state : t.portState n = s.portState n
  replays : (t.port n).exposureReplays = (s.port n).exposureReplays
  flits : t.out.flits = s.out.flits
  counter : t.counter (Ctr.portFlitReplay n) = s.counter (Ctr.portFlitReplay n)
  path : ∀ e u d, s.pathHas e u d → t.pathHas e u d

namespace State.keepsPort

variable {s t u : State} {n : Nat}

theorem refl (s : State) (n : Nat) : s.keepsPort s n := ⟨rfl, rfl, rfl, rfl, fun _ _ _ h => h⟩

theorem trans (h : s.keepsPort t n) (h' : t.keepsPort u n) : s.keepsPort u n where
  state := h'.state.trans h.state
  replays := h'.replays.trans h.replays
  flits := h'.flits.trans h.flits
  counter := h'.counter.trans h.counter
  path e u d hs := h'.path e u d (h.path e u d hs)

theorem foldl {α : Type} {f : State → α → State} (hf : ∀ v x, s.keepsPort v n → s.keepsPort (f v x) n) (l : List α)
    (h : s.keepsPort t n) : s.keepsPort (l.foldl f t) n :=
  List.foldlRecOn (motive := fun v => s.keepsPort v n) l f h fun v hv x _ => hf v x hv

theorem of_fields (hstate : t.get (Reg.fabPort_state n) = s.get (Reg.fabPort_state n)) (hports : t.ports = s.ports)
    (hout : t.out = s.out) (hcounters : t.counters = s.counters) (hpath : ∀ e u d, s.pathHas e u d → t.pathHas e u d) :
    s.keepsPort t n :=
  ⟨hstate, by rw [State.port_congr n hports], by rw [hout], State.counter_congr _ hcounters, hpath⟩

theorem modPort (s : State) (n m : Nat) {f : Port → Port} (h : (f (s.port m)).exposureReplays = (s.port m).exposureReplays) :
    s.keepsPort (s.modPort m f) n :=
  ⟨rfl, State.port_modPort_congr Port.exposureReplays s h n, rfl, rfl, fun _ _ _ h => h⟩

theorem modPart (s : State) (n p : Nat) (f : Part → Part) : s.keepsPort (s.modPart p f) n :=
  of_fields rfl rfl rfl rfl fun _ _ _ h => h

theorem releaseVia (s : State) (n : Nat) (x : PortItem) : s.keepsPort (s.releaseVia x) n := by
  unfold State.releaseVia
  split
  · exact modPort s n _ rfl
  · exact refl s n

theorem set (s : State) {n : Nat} (hn : n < 48) {f : Fld} (hf : f.addr < 0x900100 ∨ 0x901000 ≤ f.addr) (v : Nat) :
    s.keepsPort (s.set f v) n :=
  of_fields (State.get_set_apart _ _ _ _ (fabPort_state_apart hf hn)) (State.set_ports ..) (State.set_out ..)
    (State.set_counters ..) fun _ _ _ h => State.pathHas_congr (State.set_events ..) h

section

variable (hn : n < 48)
include hn

theorem stampUsed (s : State) : s.keepsPort s.stampUsed n :=
  of_fields (State.get_stampUsed _ _ (not_tickStatus_fabPort hn)) s.stampUsed_ports s.stampUsed_out s.stampUsed_counters
    fun _ _ _ h => State.pathHas_stampUsed_mono h

theorem raiseFor (s : State) (c : Option Nat) (e : EvKind) (u : UnitId) (d : Detail) : s.keepsPort (s.raiseFor c e u d) n :=
  of_fields ((State.get_congr (s := s.stampUsed) _ rfl).trans (State.get_stampUsed _ _ (not_tickStatus_fabPort hn)))
    (State.raiseFor_ports ..) (State.raiseFor_out ..) (State.raiseFor_counters ..)
    fun _ _ _ h => State.pathHas_raiseFor_mono _ _ _ _ _ _ _ _ h

theorem raise (s : State) (e : EvKind) (u : UnitId) (d : Detail) : s.keepsPort (s.raise e u d) n := raiseFor hn s _ e u d

theorem count (s : State) {c : Nat} (hc : Ctr.portFlitReplay n ≠ c) (k : Nat) : s.keepsPort (s.count c k) n :=
  ⟨State.get_count _ _ _ _ (not_tickStatus_fabPort hn), by rw [State.port_congr n (State.count_ports ..)],
    by rw [State.count_out], (State.counter_count ..).trans (if_neg hc), fun _ _ _ h => State.pathHas_count_mono _ _ _ _ _ _ h⟩

theorem sendNotice (s : State) (p dest : Nat) (x : Notice) : s.keepsPort (s.sendNotice p dest x) n := by
  unfold State.sendNotice
  split
  · split
    · exact refl s n
    · exact (stampUsed hn s).trans (modPort _ n _ rfl)
  · exact refl s n

theorem noticeDown (s : State) (p : Nat) (x : Notice) : s.keepsPort (s.noticeDown p x) n :=
  foldl (fun v _ hv => hv.trans (sendNotice hn v p _ _)) _ (refl s n)

theorem noticeUp (s : State) (p : Nat) (x : Notice) : s.keepsPort (s.noticeUp p x) n := by
  unfold State.noticeUp
  split
  · exact sendNotice hn s p _ _
  · exact refl s n

theorem stepFault (s : State) (p : Nat) (c : FaultCause) : s.keepsPort (s.stepFault p c) n := by
  cases hin : s.inStep p with
  | false =>
    rw [State.stepFault_of_not_inStep c hin]
    exact refl s n
  | true =>
    have hmark : s.keepsPort (s.markFault p c) n := (raise hn s _ _ _).trans (modPart ..)
    obtain ⟨x, hdown | hup⟩ := State.stepFault_of_inStep c hin
    · rw [hdown]
      exact hmark.trans (noticeDown hn _ p x)
    · rw [hup]
      exact hmark.trans (noticeUp hn _ p x)

theorem planInvalid (s : State) (p cause : Nat) : s.keepsPort (s.planInvalid p cause) n := by
  unfold State.planInvalid
  split
  · exact refl s n
  · exact ((((raise hn s _ _ _).trans (set _ hn (.inr (by decide)) _)).trans (set _ hn (.inr (by decide)) _)).trans
      (modPart ..)).trans (stepFault hn _ _ _)

theorem restoreFailed (s : State) (p item : Nat) : s.keepsPort (s.restoreFailed p item) n :=
  (((raise hn s _ _ _).trans (set _ hn (.inr (by decide)) _)).trans (modPart ..)).trans (stepFault hn _ _ _)

theorem partnerLost (s : State) (p m : Nat) : s.keepsPort (s.partnerLost p m) n := by
  unfold State.partnerLost
  dsimp only
  split
  · exact refl s n
  · exact (foldl (fun v i hv => hv.trans (restoreFailed hn v p i)) _ (refl s n)).trans (modPart ..)

theorem transientError (s : State) (p : Nat) (u : UnitId) (value cause : Nat) :
    s.keepsPort (s.transientError p u value cause) n :=
  ((raiseFor hn s _ _ _ _).trans (count hn _ (by show 0x901008 + 0x40 * n ≠ 0xb00230; omega) _)).trans (stepFault hn _ _ _)

end

end State.keepsPort

/-! ### A port that goes down (R302) -/

/-- The port is DOWN with its event raised, before the plan and the transfers under way are looked at. -/
def State.dropPort (s : State) (n cause : Nat) : State :=
  let v := (s.port n).queue.foldl (fun v x => v.releaseVia x) s
  ((v.set (Reg.fabPort_state n) 4).modPort n (fun x =>
    { x with queue := [], credits := [0, 0, 0, 0, 0], waiting := [], notices := [], link := Link.init })).raise Ev.portDown
      (UnitId.port n) { cause := cause }

theorem State.portDown_eq (s : State) (n cause : Nat) : s.portDown n cause =
    (s.slotsInFlight n).foldl (fun v k => v.transientError (s.portPart n) (UnitId.port n)
      (v.slotAddress (s.portPart n) k / 4096) 3) (((s.dropPort n cause).planInvalid (s.portPart n) 3).partnerLost (s.portPart n) n) :=
  rfl

theorem State.keepsPort_portDown (s : State) {n : Nat} (hn : n < 48) (cause : Nat) :
    (s.dropPort n cause).keepsPort (s.portDown n cause) n := by
  rw [State.portDown_eq]
  exact .foldl (fun v _ hv => hv.trans (.transientError hn v _ _ _ _)) _
    ((State.keepsPort.planInvalid hn _ _ _).trans (.partnerLost hn _ _ _))

/-- What the port shows that has gone down. -/
structure State.showsDown (s t : State) (n cause : Nat) : Prop where
  state : t.portState n = 4
  path : t.pathHas Ev.portDown (UnitId.port n) { cause := cause }
  replays : (t.port n).exposureReplays = (s.port n).exposureReplays
  flits : t.out.flits = s.out.flits
  counter : t.counter (Ctr.portFlitReplay n) = s.counter (Ctr.portFlitReplay n)

theorem State.showsDown_dropPort (s : State) {n : Nat} (hn : n < 48) (cause : Nat) :
    s.showsDown (s.dropPort n cause) n cause := by
  have hfreed : s.keepsPort ((s.port n).queue.foldl (fun v x => v.releaseVia x) s) n :=
    .foldl (fun v x hv => hv.trans (.releaseVia v n x)) _ (.refl s n)
  unfold State.dropPort
  dsimp only
  generalize (s.port n).queue.foldl (fun v x => v.releaseVia x) s = v at hfreed
  refine ⟨?_, State.pathHas_raise .., ?_, ?_, ?_⟩
  · refine (State.get_raise _ _ _ _ _ (not_tickStatus_fabPort hn)).trans ?_
    exact (State.get_congr _ rfl).trans (State.get_set_self v ..)
  · rw [State.port_congr n (State.raise_ports ..), State.port_modPort_congr Port.exposureReplays _ rfl,
      State.port_congr n (State.set_ports ..), hfreed.replays]
  · rw [State.raise_out, State.modPort_out, State.set_out, hfreed.flits]
  · rw [State.counter_congr _ (State.raise_counters ..), State.counter_congr _ (State.modPort_counters ..),
      State.counter_congr _ (State.set_counters ..), hfreed.counter]

theorem State.showsDown_portDown (s : State) {n : Nat} (hn : n < 48) (cause : Nat) :
    s.showsDown (s.portDown n cause) n cause := by
  have hdrop := s.showsDown_dropPort hn cause
  have hkeeps := s.keepsPort_portDown hn cause
  exact ⟨hkeeps.state.trans hdrop.state, hkeeps.path _ _ _ hdrop.path, hkeeps.replays.trans hdrop.replays,
    hkeeps.flits.trans hdrop.flits, hkeeps.counter.trans hdrop.counter⟩

/-! ### Training (R300, R302) -/

/-- The lane that failed to train. -/
def untrained (lanes : Nat) : Option Nat := (List.range 8).find? (fun i => bitAt lanes i == 1)

/-- The registers of a port that has trained. -/
def State.trainRegs (s : State) (n nb lanes : Nat) : State :=
  ((((s.set (Reg.fabPort_state n) 2).set (Reg.fabPort_failedLanes n) lanes).set (Reg.fabPort_spareUsed n)
    (if (untrained lanes).isSome then 1 else 0)).set (Reg.fabPort_neighbour n) nb).set (Reg.fabPort_neighbourValid n) 1

/-- The module's position goes out on a port, and its link begins (R311). -/
def State.openPort (s : State) (n : Nat) (spareFor : Option Nat) : State :=
  ({ s with out := { s.out with fabric := s.out.fabric ++ [(n, FabOut.position s.position)] } } : State).modPort n (fun q =>
    { q with spareFor := spareFor, credits := linkCredits, link := Link.init })

theorem doPortTrained_of_training {s : State} {n lanes : Nat} (hstate : s.portState n = 1) (hlanes : laneCount lanes ≤ 1)
    (nb : Nat) : doPortTrained n nb lanes s = (s.trainRegs n nb lanes).openPort n (untrained lanes) :=
  if_neg (by omega)

theorem State.get_trainRegs (s : State) {n nb lanes : Nat} (hlanes : lanes < 2 ^ 9) (hnb : nb < 2 ^ 20) :
    (s.trainRegs n nb lanes).get (Reg.fabPort_state n) = 2 ∧ (s.trainRegs n nb lanes).get (Reg.fabPort_failedLanes n) = lanes ∧
      (s.trainRegs n nb lanes).get (Reg.fabPort_neighbour n) = nb := by
  unfold State.trainRegs
  refine ⟨?_, ?_, ?_⟩
  · rw [State.get_set_apart _ _ _ _ (fabPort_neighbour_apart rfl rfl), State.get_set_apart _ _ _ _ (fabPort_neighbour_apart rfl rfl),
      State.get_set_apart _ _ _ _ (fabPort_spareUsed_apart_state n), State.get_set_apart _ _ _ _ (fabPort_failedLanes_apart_state n),
      State.get_set_self]
    rfl
  · rw [State.get_set_apart _ _ _ _ (fabPort_neighbour_apart rfl rfl), State.get_set_apart _ _ _ _ (fabPort_neighbour_apart rfl rfl),
      State.get_set_apart _ _ _ _ (fabPort_spareUsed_apart_failedLanes n), State.get_set_self]
    exact Nat.mod_eq_of_lt hlanes
  · rw [State.get_set_apart _ _ _ _ (.inr (.inl (show 0 + 20 ≤ 20 by decide))), State.get_set_self]
    exact Nat.mod_eq_of_lt hnb

theorem State.position_set {s : State} {f : Fld} (h : 0x900100 ≤ f.addr) (v : Nat) : (s.set f v).position = s.position :=
  State.get_set_apart _ _ _ _ (.inl (by show f.addr ≠ 0x900000; omega))

theorem State.position_trainRegs (s : State) (n nb lanes : Nat) : (s.trainRegs n nb lanes).position = s.position := by
  rw [State.trainRegs, State.position_set (Nat.le_add_right_of_le (by decide)), State.position_set (Nat.le_add_right_of_le (by decide)),
    State.position_set (Nat.le_add_right ..), State.position_set (Nat.le_add_right ..), State.position_set (Nat.le_add_right ..)]

theorem State.ports_trainRegs (s : State) (n nb lanes : Nat) : (s.trainRegs n nb lanes).ports = s.ports := by
  rw [State.trainRegs, State.set_ports, State.set_ports, State.set_ports, State.set_ports, State.set_ports]

theorem State.out_trainRegs (s : State) (n nb lanes : Nat) : (s.trainRegs n nb lanes).out = s.out := by
  rw [State.trainRegs, State.set_out, State.set_out, State.set_out, State.set_out, State.set_out]

theorem State.openPort_shows {s v : State} (hports : v.ports = s.ports) (hout : v.out = s.out) (hpos : v.position = s.position)
    (n : Nat) (spareFor : Option Nat) :
    (∀ f, (v.openPort n spareFor).get f = v.get f) ∧
      (∀ q, s.ports[n]? = some q → ((v.openPort n spareFor).port n).credits = linkCredits) ∧
      (v.openPort n spareFor).out.fabric = s.out.fabric ++ [(n, FabOut.position s.position)] := by
  refine ⟨fun f => State.get_congr f rfl, fun q hq => ?_, ?_⟩
  · rw [← hports] at hq
    exact congrArg Port.credits (State.port_modPort_self
      (s := { v with out := { v.out with fabric := v.out.fabric ++ [(n, FabOut.position v.position)] } }) _ hq)
  · rw [← hout, ← hpos]
    rfl

/-- The registers of a port that has trained are those of a state that differs from `s` in nothing else. -/
theorem doPortTrained_shows {s : State} {n nb lanes : Nat} (hstate : s.portState n = 1) (hlanes : laneCount lanes ≤ 1)
    (hmap : lanes < 2 ^ 9) (hnb : nb < 2 ^ 20) :
    ∃ v : State, doPortTrained n nb lanes s = v.openPort n (untrained lanes) ∧ v.get (Reg.fabPort_state n) = 2 ∧
      v.get (Reg.fabPort_failedLanes n) = lanes ∧ v.get (Reg.fabPort_neighbour n) = nb ∧ v.ports = s.ports ∧ v.out = s.out ∧
      v.position = s.position := by
  obtain ⟨hup, hfailed, hneighbour⟩ := s.get_trainRegs (n := n) hmap hnb
  exact ⟨s.trainRegs n nb lanes, doPortTrained_of_training hstate hlanes nb, hup, hfailed, hneighbour,
    s.ports_trainRegs n nb lanes, s.out_trainRegs n nb lanes, s.position_trainRegs n nb lanes⟩

/-! ### A lane that fails while the spare is free (R301) -/

/-- The spare lane steps in for lane `l`: counted, with its event. -/
def State.spareLane (s : State) (n lane l : Nat) : State :=
  let v := ((s.set (Reg.fabPort_failedLanes n) (s.get (Reg.fabPort_failedLanes n) + 2 ^ lane)).set (Reg.fabPort_spareUsed n) 1)
  ((((v.modPort n (fun q => { q with spareFor := some l })).count (Ctr.portLaneRetrain n)).modPort n (fun q =>
    { q with exposureRetrains := q.exposureRetrains + 1 })).raise Ev.laneSpared (UnitId.port n) { value := lane })

theorem doLaneFailure_of_spare {s : State} {n lane l errors symbols : Nat} (hstate : s.portState n = 2) (hlane : lane < 8)
    (hbad : s.laneBad errors symbols = true) (hfine : bitAt (s.get (Reg.fabPort_failedLanes n)) lane = 0)
    (hl : (s.port n).logical lane = some l) (hunused : s.get (Reg.fabPort_spareUsed n) = 0)
    (hfree : bitAt (s.get (Reg.fabPort_failedLanes n)) 8 = 0) :
    doLaneFailure n lane errors symbols s = s.spareLane n lane l := by
  have hup : s.portUp n = true := by rw [State.portUp, hstate]; rfl
  have hstate' : ∀ v, (s.set (Reg.fabPort_failedLanes n) v).portState n = 2 := fun v =>
    (State.get_set_apart _ _ _ _ (fabPort_failedLanes_apart_state n)).trans hstate
  have hunused' : ∀ v, (s.set (Reg.fabPort_failedLanes n) v).get (Reg.fabPort_spareUsed n) = 0 := fun v =>
    (State.get_set_apart _ _ _ _ (fabPort_failedLanes_apart_spareUsed n)).trans hunused
  rw [doLaneFailure, if_neg (by simp [hup, hbad, hfine]; omega)]
  dsimp only
  rw [hstate', hunused', hl, hfree]
  rfl

theorem State.spareLane_shows (s : State) {n lane l : Nat} (hn : n < 48) (hstate : s.portState n = 2) :
    (s.spareLane n lane l).portState n = 2 ∧ (s.spareLane n lane l).get (Reg.fabPort_spareUsed n) = 1 ∧
      (s.spareLane n lane l).counter (Ctr.portLaneRetrain n) = min (s.counter (Ctr.portLaneRetrain n) + 1) counterMax ∧
      (s.spareLane n lane l).pathHas Ev.laneSpared (UnitId.port n) { value := lane } := by
  have hget : ∀ f : Fld, isTickStatus f.addr = false → (s.spareLane n lane l).get f =
      ((s.set (Reg.fabPort_failedLanes n) (s.get (Reg.fabPort_failedLanes n) + 2 ^ lane)).set (Reg.fabPort_spareUsed n) 1).get f := by
    intro f hf
    refine (State.get_raise _ _ _ _ _ hf).trans ((State.get_congr _ (State.modPort_regs ..)).trans ?_)
    exact (State.get_count _ _ _ _ hf).trans (State.get_congr _ (State.modPort_regs ..))
  refine ⟨?_, ?_, ?_, State.pathHas_raise ..⟩
  · rw [State.portState, hget _ (not_tickStatus_fabPort hn), State.get_set_apart _ _ _ _ (fabPort_spareUsed_apart_state n),
      State.get_set_apart _ _ _ _ (fabPort_failedLanes_apart_state n)]
    exact hstate
  · rw [hget _ (not_tickStatus_fabPort hn), State.get_set_self]
    rfl
  · refine (State.counter_congr _ (State.raise_counters ..)).trans ((State.counter_congr _ (State.modPort_counters ..)).trans ?_)
    rw [State.counter_count, if_pos rfl, State.counter_congr _ (State.modPort_counters ..),
      State.counter_congr _ (State.set_counters ..), State.counter_congr _ (State.set_counters ..)]

/-! ### FLITs received and sent again (R303, R304) -/

/-- A FLIT whose FEC corrected it is counted. -/
def State.noteFec (s : State) (n : Nat) (corrected : Bool) : State :=
  if corrected then
    (s.count (Ctr.portFecCorrected n)).modPort n (fun q => { q with exposureFec := q.exposureFec + 1 }) else s

section

variable {s : State} {n : Nat} {flit : Flit} (hup : s.portUp n = true)
include hup

theorem doFlitReceive_of_bad_crc (hcrc : flit.crcOk = false) :
    let u := s.noteFec n flit.corrected
    doFlitReceive n flit s =
      ({ u with out := { u.out with fabric := u.out.fabric ++ [(n, FabOut.nak (s.port n).link.expected)] } } : State).modLink n
        (fun k => { k with refused := some (s.port n).link.expected }) := by
  rw [doFlitReceive, if_neg (by simp [hup])]
  dsimp only
  rw [if_pos (by simp [hcrc])]
  rfl

theorem doFlitReceive_of_other (hcrc : flit.crcOk = true) (hseq : bitsAt flit.header.toNat 0 12 ≠ (s.port n).link.expected) :
    doFlitReceive n flit s = s.noteFec n flit.corrected := by
  rw [doFlitReceive, if_neg (by simp [hup])]
  dsimp only
  rw [if_neg (by simp [hcrc]), if_pos hseq]
  rfl

theorem doFlitReceive_of_awaited (hcrc : flit.crcOk = true)
    (hseq : bitsAt flit.header.toNat 0 12 = (s.port n).link.expected) :
    let h := flit.header.toNat
    let u := s.noteFec n flit.corrected
    doFlitReceive n flit s =
      ((if bitAt h 12 = 1 then u.modPort n (fun q => { q with attempts := dropAcked (bitsAt h 14 12) q.attempts })
        else u).modLink n (fun k => { k.acknowledged h with received := some (s.port n).link.expected })).addCredits n
          (bitsAt h 26 3) flit.credits := by
  rw [doFlitReceive, if_neg (by simp [hup])]
  dsimp only
  rw [if_neg (by simp [hcrc]), if_neg (fun h => h hseq)]
  rfl

end

/-- A port whose FLITs go out again: the nak is answered, and each of them counts as an attempt. -/
def Port.noteAgain (q : Port) (again : List SentFlit) : Port :=
  { q with
    attempts := noteAttempts q.attempts again, exposureReplays := q.exposureReplays + again.length
    stepReplays := q.stepReplays + again.length }

/-- FLITs go out again, counted, with the event (R304). -/
def State.replayFlits (s : State) (n : Nat) (again : List SentFlit) : State :=
  let u : State := { s with out := { s.out with flits := s.out.flits ++ again.map (fun x => (n, x)) } }
  let v := ((u.modLink n (fun k => { k with naked := none })).modPort n (fun q => q.noteAgain again)).count
    (Ctr.portFlitReplay n) again.length
  v.raisePort n Ev.linkReplay { value := (v.port n).stepReplays }

theorem doFlitReplay_of_naked {s : State} {n seq : Nat} (hup : s.portUp n = true) (hnak : (s.port n).link.naked = some seq)
    (hagain : (s.port n).link.replayFrom seq ≠ []) : doFlitReplay n seq s =
    if 8 ≤ readOr 0 (s.port n).attempts seq then s.portDown n 2
    else
      let v := s.replayFlits n ((s.port n).link.replayFrom seq)
      if v.get Reg.fabLimits_replayLimit < (v.port n).exposureReplays then v.portDown n 3 else v := by
  rw [doFlitReplay]
  dsimp only
  rw [if_neg (by simp [hup, hnak, hagain])]
  rfl

theorem State.keepsPort.raisePort {n : Nat} (hn : n < 48) (s : State) (m : Nat) (e : EvKind) (d : Detail) :
    s.keepsPort (s.raisePort m e d) n := by
  unfold State.raisePort
  split
  · exact .refl s n
  · exact (State.keepsPort.modPort s n m rfl).trans (.raise hn _ _ _ _)

theorem State.get_raisePort (s : State) (n : Nat) (e : EvKind) (d : Detail) {f : Fld} (hf : isTickStatus f.addr = false) :
    (s.raisePort n e d).get f = s.get f := by
  unfold State.raisePort
  split
  · rfl
  · exact (State.get_raise _ _ _ _ _ hf).trans (State.get_congr f rfl)

/-- What FLITs that go out again show. -/
theorem State.replayFlits_shows (s : State) {n : Nat} (hn : n < 48) (again : List SentFlit) :
    let v := s.replayFlits n again
    v.out.flits = s.out.flits ++ again.map (fun x => (n, x)) ∧ v.portState n = s.portState n ∧
      v.counter (Ctr.portFlitReplay n) = min (s.counter (Ctr.portFlitReplay n) + again.length) counterMax ∧
      v.get Reg.fabLimits_replayLimit = s.get Reg.fabLimits_replayLimit ∧
      ∀ q, s.ports[n]? = some q → (v.port n).exposureReplays = q.exposureReplays + again.length := by
  unfold State.replayFlits
  dsimp only
  generalize hu : (({ s with out := { s.out with flits := s.out.flits ++ again.map (fun x => (n, x)) } } : State).modLink n
    (fun k => { k with naked := none })).modPort n (fun q => q.noteAgain again) = u
  have hraise := State.keepsPort.raisePort (s := u.count (Ctr.portFlitReplay n) again.length) hn n Ev.linkReplay
    { value := ((u.count (Ctr.portFlitReplay n) again.length).port n).stepReplays }
  have hregs : u.regs = s.regs := by rw [← hu]; rfl
  refine ⟨?_, ?_, ?_, ?_, fun q hq => ?_⟩
  · rw [hraise.flits, State.count_out, ← hu]
    rfl
  · rw [hraise.state, State.portState, State.get_count _ _ _ _ (not_tickStatus_fabPort hn), State.get_congr _ hregs,
      State.portState]
  · rw [hraise.counter, State.counter_count, if_pos rfl, State.counter_congr (s := s) _ (by rw [← hu]; rfl)]
  · rw [State.get_raisePort _ _ _ _ rfl, State.get_count _ _ _ _ rfl, State.get_congr _ hregs]
  · rw [hraise.replays, State.port_congr n (State.count_ports ..), ← hu]
    have hlink := State.getElem?_modPort
      (s := { s with out := { s.out with flits := s.out.flits ++ again.map (fun x => (n, x)) } })
      (fun x : Port => { x with link := { x.link with naked := none } }) hq
    exact congrArg Port.exposureReplays (State.port_modPort_self (fun x : Port => x.noteAgain again) hlink)

/-- FLITs sent again, with the port down where they exceed the limit of the exposure. -/
theorem doFlitReplay_shows {s : State} {n seq : Nat} (hn : n < 48) (hup : s.portUp n = true)
    (hnak : (s.port n).link.naked = some seq) (hagain : (s.port n).link.replayFrom seq ≠ [])
    (hroom : readOr 0 (s.port n).attempts seq < 8) :
    let again := (s.port n).link.replayFrom seq
    let t := doFlitReplay n seq s
    t.out.flits = s.out.flits ++ again.map (fun f => (n, f)) ∧
      t.counter (Ctr.portFlitReplay n) = min (s.counter (Ctr.portFlitReplay n) + again.length) counterMax ∧
      ∀ q, s.ports[n]? = some q → (t.port n).exposureReplays = q.exposureReplays + again.length ∧
        t.portState n = if q.exposureReplays + again.length ≤ s.get Reg.fabLimits_replayLimit then s.portState n else 4 := by
  intro again t
  have ht : t = _ := (doFlitReplay_of_naked hup hnak hagain).trans (if_neg (by omega))
  obtain ⟨hflits, hstate, hcount, hlimit, hreplays⟩ := s.replayFlits_shows hn again
  dsimp only at ht
  rw [ht, hlimit]
  generalize s.replayFlits n again = v at hflits hstate hcount hreplays ⊢
  split
  · next hover =>
    have hdown := v.showsDown_portDown hn 3
    refine ⟨hdown.flits.trans hflits, hdown.counter.trans hcount, fun q hq => ⟨hdown.replays.trans (hreplays q hq), ?_⟩⟩
    rw [hreplays q hq] at hover
    rw [hdown.state, if_neg (by omega)]
  · next hwithin =>
    refine ⟨hflits, hcount, fun q hq => ⟨hreplays q hq, ?_⟩⟩
    rw [hreplays q hq] at hwithin
    rw [hstate, if_pos (by omega)]

/-! ### Control FLITs (R303, R311, R315) -/

/-- The credits of a port's classes with those of a control FLIT. -/
def addAll (credits : List (Nat × Nat)) (l : List Nat) : List Nat := credits.foldl (fun l x => l.modify x.2 (· + x.1)) l

theorem State.modPort_modPort (s : State) (n : Nat) (f g : Port → Port) :
    (s.modPort n f).modPort n g = s.modPort n (fun q => g (f q)) := by
  simp only [State.modPort, List.modify_modify_eq]
  rfl

theorem State.foldl_addCredits (n : Nat) (credits : List (Nat × Nat)) (s : State) :
    credits.foldl (fun v (x : Nat × Nat) => v.addCredits n x.2 x.1) s =
      s.modPort n (fun q => { q with credits := addAll credits q.credits }) := by
  induction credits generalizing s with
  | nil =>
    simp only [List.foldl_nil, addAll, State.modPort]
    rw [show (fun q : Port => q) = id from rfl, List.modify_id]
  | cons x credits ih =>
    rw [List.foldl_cons, ih, State.addCredits, State.modPort_modPort]
    rfl

/-- The credits and the ranks of a control FLIT are taken. -/
def State.takeControl (s : State) (n : Nat) (ctl : ControlFlit) : State :=
  (s.modPort n (fun q => { q with credits := addAll ctl.credits.zipIdx q.credits })).modPort n (fun q =>
    { q with ranks := ctl.outRank, farLanes := ctl.lanes })

theorem doControlFlit_of_up {s : State} {n : Nat} (hup : s.portUp n = true) (ctl : ControlFlit) : doControlFlit n ctl s =
    if s.get Reg.fabTimeConfig_parentPort = n ∧ !s.flag Reg.fabTimeConfig_root then
      (s.takeControl n ctl).timeExchange (timeOffset ctl)
    else s.takeControl n ctl := by
  rw [doControlFlit, if_neg (by simp [hup])]
  dsimp only
  rw [State.foldl_addCredits]
  rfl

theorem State.ports_timeExchange (s : State) (off : Int) : (s.timeExchange off).ports = s.ports := by
  have hset : (s.set Reg.fabTimeOffset_offset (unsigned 16 off)).ports = s.ports := State.set_ports ..
  unfold State.timeExchange
  dsimp only
  split
  · exact hset
  · split
    · exact (State.raise_ports ..).trans hset
    · split
      · exact (State.raise_ports ..).trans hset
      · exact hset

/-- What a control FLIT leaves of the port, and of the module's time. -/
theorem doControlFlit_shows {s : State} {n : Nat} (hup : s.portUp n = true) (ctl : ControlFlit) :
    (∀ q, s.ports[n]? = some q → ((doControlFlit n ctl s).port n).ranks = ctl.outRank ∧
      ((doControlFlit n ctl s).port n).credits = addAll ctl.credits.zipIdx q.credits) ∧
      ((s.get Reg.fabTimeConfig_parentPort ≠ n ∨ s.flag Reg.fabTimeConfig_root = true) →
        (doControlFlit n ctl s).time = s.time) := by
  have hports : (doControlFlit n ctl s).ports = (s.takeControl n ctl).ports := by
    rw [doControlFlit_of_up hup]
    split
    · exact State.ports_timeExchange ..
    · rfl
  refine ⟨fun q hq => ?_, fun hother => ?_⟩
  · have hport := State.port_modPort_self (fun x : Port => { x with ranks := ctl.outRank, farLanes := ctl.lanes })
      (State.getElem?_modPort (fun x : Port => { x with credits := addAll ctl.credits.zipIdx x.credits }) hq)
    rw [State.port_congr n hports]
    exact ⟨congrArg Port.ranks hport, congrArg Port.credits hport⟩
  · rw [doControlFlit_of_up hup, if_neg (by rcases hother with h | h <;> simp [h])]
    rfl

/-- Settles O46: each command by its equation, and a port that goes down by what the rest of it leaves alone. -/
theorem portsTrainAndFail : Obligations.PortsTrainAndFail := by
  unfold Obligations.PortsTrainAndFail
  refine ⟨?trained, ?timeout, ?takeDown, ?down, ?lane, ?receive, ?replay, ?control⟩
  case trained =>
    intro s n nb lanes hon hstate hlanes hmap hnb
    have hsame : s.same [.regs, .ports, .out] (doPortTrained n nb lanes s) := doPortTrained_keeps rfl (State.same_refl _ s)
    obtain ⟨v, hdo, hup, hfailed, hneighbour, hports, hout, hpos⟩ := doPortTrained_shows hstate hlanes hmap hnb
    obtain ⟨hget, hcredits, hfabric⟩ := State.openPort_shows hports hout hpos n (untrained lanes)
    rw [hdo] at hsame
    exact ⟨_, next_whenOn_of_eq hon hdo, (State.get_withPending ..).trans ((hget _).trans hup),
      (State.get_withPending ..).trans ((hget _).trans hfailed), (State.get_withPending ..).trans ((hget _).trans hneighbour),
      hcredits, hfabric, hsame.withPending _⟩
  case timeout => exact fun s n hon hstate => next_whenOn_of_eq hon (if_pos hstate)
  case takeDown => exact fun s n hon => next_whenOn_of_eq hon rfl
  case down =>
    intro s n cause hn
    have hdown := s.showsDown_portDown hn cause
    exact ⟨hdown.state, hdown.path⟩
  case lane =>
    intro s n lane l errors symbols hon hn hstate hlane hbad hfine hl hunused hfree
    obtain ⟨hstays, hused, hcount, hpath⟩ := s.spareLane_shows (lane := lane) (l := l) hn hstate
    have hdo := doLaneFailure_of_spare hstate hlane hbad hfine hl hunused hfree
    generalize s.spareLane n lane l = t at *
    exact ⟨_, next_whenOn_of_eq hon hdo, (State.get_withPending ..).trans hstays, (State.get_withPending ..).trans hused,
      (State.counter_congr _ rfl).trans hcount, hpath.withPending _⟩
  case receive =>
    intro s n flit hon hup h next u
    exact ⟨fun hcrc => next_whenOn_of_eq hon (doFlitReceive_of_bad_crc hup hcrc),
      fun hcrc hseq => next_whenOn_of_eq hon (doFlitReceive_of_other hup hcrc hseq),
      fun hcrc hseq => next_whenOn_of_eq hon (doFlitReceive_of_awaited hup hcrc hseq)⟩
  case replay =>
    intro s n seq hon hn hup again
    refine ⟨fun hnone => next_whenOn_of_eq hon (if_pos (.inr hnone)), fun hnak hagain hfull => ?_, fun hnak hagain hroom => ?_⟩
    · exact next_whenOn_of_eq hon ((doFlitReplay_of_naked hup hnak hagain).trans (if_pos hfull))
    · obtain ⟨hflits, hcount, hport⟩ := doFlitReplay_shows hn hup hnak hagain hroom
      generalize hdo : doFlitReplay n seq s = t at *
      exact ⟨_, next_whenOn_of_eq hon hdo, hflits, (State.counter_congr _ rfl).trans hcount,
        fun q hq => ⟨(hport q hq).1, (State.get_withPending ..).trans (hport q hq).2⟩⟩
  case control =>
    intro s n ctl hon hup
    obtain ⟨hport, htime⟩ := doControlFlit_shows hup ctl
    exact ⟨_, next_whenOn_of_eq hon rfl, hport, htime⟩

end Sys2Proof.Machine
end

/-! # The submission path: window edges, doorbells, descriptors, copies and completions
(03_submission.md, R63 to R76, R96) -/

section

set_option Elab.async false

open Sys2Proof Sys2Proof.Machine

namespace Sys2Proof.Machine

/-! ### Accesses at the edges of the windows (R63) -/

theorem doWinAccessBad_of_reserved_page {off : Nat} (hlo : 2 ^ 18 ≤ off) (hhi : off < 2 ^ 20) (w : Bool) (s : State) :
    doWinAccessBad 4 off w s = (if w then s else s.answer (List.replicate 4 0xFF)).raise Ev.winAccessBad UnitId.module
      { value := off / 64, cause := 2 } := by
  simp only [doWinAccessBad, if_true, hlo, hhi, and_self, decide_true, Bool.not_true, Bool.false_eq_true, if_false]
  rfl

theorem doWinAccessBad_of_beyond_window {s : State} {p off : Nat} (hp : p < 4) (hoff : off < 2 ^ 36)
    (hbeyond : s.winBytes p ≤ off) (w : Bool) :
    doWinAccessBad 2 (p * 2 ^ 36 + off) w s = (if w then s else s.answer (List.replicate 4 0xFF)).winBad p off := by
  have hpart : (p * 2 ^ 36 + off) / 2 ^ 36 = p := by omega
  have hrest : (p * 2 ^ 36 + off) % 2 ^ 36 = off := by omega
  simp only [doWinAccessBad, hpart, hrest, hp, hbeyond, decide_true]
  rfl

/-- Settles O11: each edge by the range of its offset. -/
theorem windowEdgesAnswerAllOnes : Obligations.WindowEdgesAnswerAllOnes :=
  ⟨fun s _ w hon hlo hhi => next_whenOn_of_eq hon (doWinAccessBad_of_reserved_page hlo hhi w s),
    fun _ _ _ w hon hp hoff hbeyond => next_whenOn_of_eq hon (doWinAccessBad_of_beyond_window hp hoff hbeyond w)⟩

/-! ### Doorbells (R66, R67) -/

theorem doDoorbellTail_of_taken {s : State} {n : Nat} {v : Word} (hn : n < 64)
    (hen : s.flag (Reg.ringControl_enable n) = true)
    (hhead : countDiff v.toNat (s.get (Reg.ringHead n)) ≤ s.descSize n)
    (htail : countDiff v.toNat (s.get (Reg.ringTail n)) ≤ s.descSize n) :
    doDoorbellTail n v s = s.set (Reg.ringTail n) v.toNat := by
  rw [doDoorbellTail, if_neg (Nat.not_le_of_lt hn)]
  exact if_pos (by simp [hen, hhead, htail])

theorem doDoorbellTail_of_refused {s : State} {n : Nat} {v : Word} (hn : n < 64)
    (h : s.flag (Reg.ringControl_enable n) = false ∨ s.descSize n < countDiff v.toNat (s.get (Reg.ringHead n)) ∨
      s.descSize n < countDiff v.toNat (s.get (Reg.ringTail n))) :
    doDoorbellTail n v s = s.refuseDoorbell n v.toNat 1 := by
  rw [doDoorbellTail, if_neg (Nat.not_le_of_lt hn)]
  refine if_neg ?_
  rcases h with h | h | h <;> simp [h]

theorem doDoorbellCompletionHead_of_taken {s : State} {n : Nat} {v : Word} (hn : n < 64)
    (h : countDiff (s.get (Reg.ringCplTail n)) v.toNat ≤ s.cplSize n) :
    doDoorbellCompletionHead n v s = (s.set (Reg.ringCplHead n) v.toNat).noteFull n := by
  rw [doDoorbellCompletionHead, if_neg (Nat.not_le_of_lt hn)]
  exact if_neg (Nat.not_lt_of_le h)

theorem doDoorbellCompletionHead_of_refused {s : State} {n : Nat} {v : Word} (hn : n < 64)
    (h : s.cplSize n < countDiff (s.get (Reg.ringCplTail n)) v.toNat) :
    doDoorbellCompletionHead n v s = s.refuseDoorbell n v.toNat 2 := by
  rw [doDoorbellCompletionHead, if_neg (Nat.not_le_of_lt hn)]
  exact if_pos h

/-! ### Resets (R76) -/

theorem doRingReset_of_not_ready {s : State} (n : Nat) (h : s.ready = false) : doRingReset n s = s :=
  if_neg (by simp [h])

theorem doRingReset_of_ready {s : State} {n : Nat} (hn : n < 64) (h : s.ready = true) : doRingReset n s = s.resetRing n :=
  if_pos ⟨hn, h⟩

/-- What a ring's reset sets to 0 (R76). -/
def ringResetFields (n : Nat) : List Fld :=
  [Reg.ringHead n, Reg.ringTail n, Reg.ringCplTail n, Reg.ringCplHead n, Reg.ringControl_enable n, Reg.ringStatus_state n]

theorem ringResetFields_apart {n : Nat} {f g : Fld} (hf : f ∈ ringResetFields n) (hg : g ∈ ringResetFields n) :
    g = f ∨ g.apart f := by
  have hnodup : ((ringResetFields n).map Fld.addr).Nodup := by
    simp [ringResetFields, Reg.ringHead, Reg.ringTail, Reg.ringCplTail, Reg.ringCplHead, Reg.ringControl_enable,
      Reg.ringStatus_state]
  by_cases h : g.addr = f.addr
  · exact .inl (List.inj_on_of_nodup_map hnodup hg hf h)
  · exact .inr (.inl h)

theorem ringStatus_cplFull_apart {n : Nat} {f : Fld} (hf : f ∈ ringResetFields n) : (Reg.ringStatus_cplFull n).apart f := by
  simp only [ringResetFields, List.mem_cons, List.not_mem_nil, or_false] at hf
  rcases hf with rfl | rfl | rfl | rfl | rfl | rfl <;>
    simp [Fld.apart, Reg.ringStatus_cplFull, Reg.ringHead, Reg.ringTail, Reg.ringCplTail, Reg.ringCplHead,
      Reg.ringControl_enable, Reg.ringStatus_state]

theorem doRingResetDone_of_done {s : State} {n : Nat} (hstate : s.get (Reg.ringStatus_state n) = 3)
    (hdone : (s.ring n).allDone = true) :
    doRingResetDone n s = ((ringResetFields n).foldl (fun t f => t.set f 0) s).noteFull n :=
  if_pos ⟨hstate, hdone⟩

theorem get_doRingResetDone {s : State} {n : Nat} (hstate : s.get (Reg.ringStatus_state n) = 3)
    (hdone : (s.ring n).allDone = true) {f : Fld} (hf : f ∈ ringResetFields n) : (doRingResetDone n s).get f = 0 := by
  rw [doRingResetDone_of_done hstate hdone, State.noteFull, State.get_set_apart _ _ _ _ (ringStatus_cplFull_apart hf),
    State.get_foldl_set_of_mem (fun _ => 0) _ (fun g hg => ringResetFields_apart hf hg) s (.inl hf), Nat.zero_mod]

/-- Settles O16: each command of a ring by its equation. -/
theorem ringsFollowTheirDoorbells : Obligations.RingsFollowTheirDoorbells := by
  refine ⟨⟨?tail, ?tailBad, ?head, ?headBad, ?elsewhere⟩, ?early, ?reset, ?done, ?delay⟩
  case tail => exact fun s n v hon hn hen hhead htail => next_whenOn_of_eq hon (doDoorbellTail_of_taken hn hen hhead htail)
  case tailBad => exact fun s n v hon hn h => next_whenOn_of_eq hon (doDoorbellTail_of_refused hn h)
  case head => exact fun s n v hon hn h => next_whenOn_of_eq hon (doDoorbellCompletionHead_of_taken hn h)
  case headBad => exact fun s n v hon hn h => next_whenOn_of_eq hon (doDoorbellCompletionHead_of_refused hn h)
  case elsewhere => exact fun s n off size v hon hn h => next_whenOn_of_eq hon (if_pos ⟨hn, h⟩)
  case early => exact fun s n hon h => next_whenOn_of_eq hon (doRingReset_of_not_ready n h)
  case reset => exact fun s n hon hn h => next_whenOn_of_eq hon (doRingReset_of_ready hn h)
  case done =>
    intro s n hon hstate hdone
    have hzero := fun f hf => get_doRingResetDone hstate hdone (f := f) hf
    have hsame : s.same [.regs] (doRingResetDone n s) := doRingResetDone_keeps rfl (State.same_refl _ s)
    exact ⟨_, next_whenOn_of_eq hon rfl, hzero _ (by simp [ringResetFields]), hzero _ (by simp [ringResetFields]),
      hzero _ (by simp [ringResetFields]), hzero _ (by simp [ringResetFields]), hzero _ (by simp [ringResetFields]),
      hzero _ (by simp [ringResetFields]), hsame.withPending _⟩
  case delay => exact fun s n hon h => next_whenOn_of_eq hon (if_neg h)

/-! ### Descriptors fetched and started (R69, R72, R75) -/

/-- A descriptor was read over the host port, with the head and the ring's count of descriptors one further (R65, R72). -/
def State.headPast (s : State) (n : Nat) : State :=
  ((s.hostRead (s.descAddress n) 128).set (Reg.ringHead n) (s.get (Reg.ringHead n) + 1)).modRing n
    (fun r => { r with nextSeq := r.nextSeq + 1 })

theorem State.allDone_modRing (s : State) (n : Nat) {f : Ring → Ring} (h : ∀ r, (f r).allDone = r.allDone) :
    ((s.modRing n f).ring n).allDone = (s.ring n).allDone := by
  have hget : (s.modRing n f).rings[n]? = s.rings[n]?.map f := by simp [State.modRing]
  rw [State.ring, State.ring, hget]
  cases s.rings[n]? with
  | none => rfl
  | some r => exact h r

theorem State.ring_congr {s t : State} (n : Nat) (h : t.rings = s.rings) : t.ring n = s.ring n := by
  rw [State.ring, State.ring, h]

theorem State.allDone_headPast (s : State) (n : Nat) : ((s.headPast n).ring n).allDone = (s.ring n).allDone := by
  refine (State.allDone_modRing _ n (f := fun r => { r with nextSeq := r.nextSeq + 1 }) fun _ => rfl).trans
    (congrArg Ring.allDone (State.ring_congr n ?_))
  exact State.set_rings ..

theorem slice_full {bs : List Byte} {n : Nat} (h : bs.length = n) : slice bs 0 n = bs := by
  subst h
  refine List.ext_getElem (by simp [slice]) fun i hi hi' => ?_
  simp [slice, hi']

theorem doDescriptorFetch_of_status {s : State} {n st : Nat} (hn : n < 64) (hmay : s.mayFetch n = true) (hst : st ≠ 0)
    (bs : List Byte) : doDescriptorFetch n bs st s = (s.hostRead (s.descAddress n) 128).hostFail n st := by
  rw [doDescriptorFetch, if_neg (by simp [hn, hmay])]
  exact if_pos hst

/-- A fetched descriptor waits for its fence, or starts. -/
theorem doDescriptorFetch_of_bytes {s : State} {n : Nat} {bs : List Byte} (hn : n < 64) (hmay : s.mayFetch n = true)
    (hlen : bs.length = 128) :
    let d : Started := ⟨(s.ring n).nextSeq, bs, false⟩
    doDescriptorFetch n bs 0 s =
      if bitAt d.flags 1 = 1 ∧ !((s.headPast n).ring n).allDone then
        (s.headPast n).modRing n (fun r => { r with waiting := some d })
      else (s.headPast n).start n d := by
  rw [doDescriptorFetch, if_neg (by simp [hn, hmay])]
  dsimp only
  rw [if_neg (by simp), slice_full hlen]
  rfl

/-- How a descriptor starts, by its opcode and its header (R69, R72). -/
theorem State.start_eq (s : State) (n : Nat) (d : Started) :
    let v := s.modRing n (fun r => { r with started := r.started ++ [d] })
    (d.opcode ∈ opcodes → d.badHeader = none → s.start n d = v) ∧
    (∀ off, d.opcode ∈ opcodes → d.badHeader = some off → s.start n d = v.finish n d .badAddress off) ∧
    (d.opcode ∉ opcodes → s.start n d = v.finish n d .badOpcode d.opcode) := by
  unfold State.start
  refine ⟨fun hop hgood => ?_, fun off hop hbad => ?_, fun hop => ?_⟩
  · simp [hop, hgood]
  · simp [hop, hbad]
  · simp [hop]

/-! ### NOP and FENCE (R70) -/

theorem doNop_of_stray {s : State} {n off : Nat} {d : Started} (hfind : s.findOp n 0x01 = some d)
    (h : d.strayOperand [] = some off) : doNop n s = s.finish n d .badAddress off := by
  simp only [doNop, hfind, h]

theorem doNop_of_clean {s : State} {n : Nat} {d : Started} (hfind : s.findOp n 0x01 = some d)
    (h : d.strayOperand [] = none) : doNop n s = s.finish n d .done := by
  simp only [doNop, hfind, h]

theorem doFence_of_stray {s : State} {n off : Nat} {d : Started} (hfind : s.findOp n 0x07 = some d)
    (h : d.strayOperand [] = some off) : doFence n s = s.finish n d .badAddress off := by
  simp only [doFence, hfind, h]

/-- A descriptor of the ring that started before `d` has not completed. -/
def Ring.earlierOpen (r : Ring) (d : Started) : Prop := (∃ x ∈ r.started, x.seq < d.seq) ∨ ∃ c ∈ r.ready, c.seq < d.seq

theorem doFence_of_waiting {s : State} {n : Nat} {d : Started} (hfind : s.findOp n 0x07 = some d)
    (h : d.strayOperand [] = none) (hopen : (s.ring n).earlierOpen d) : doFence n s = s := by
  simp only [doFence, hfind, h]
  exact if_pos (by simpa [Ring.earlierOpen] using hopen)

theorem doFence_of_met {s : State} {n : Nat} {d : Started} (hfind : s.findOp n 0x07 = some d)
    (h : d.strayOperand [] = none) (hopen : ¬ (s.ring n).earlierOpen d) : doFence n s = s.finish n d .done := by
  simp only [doFence, hfind, h]
  exact if_neg (by simpa [Ring.earlierOpen] using hopen)

/-- Settles O17: a fetch by its host status, its fence and its header; NOP and FENCE by their operands and what is open. -/
theorem descriptorsAreFetchedAndStarted : Obligations.DescriptorsAreFetchedAndStarted := by
  refine ⟨⟨?starts, ?waits, ?fails⟩, ?nop, ?nopStray, ?fenceStray, ?fenceMet, ?fenceOpen⟩
  case starts =>
    intro s n bs hon hn hmay hlen hfence
    have hdo := (doDescriptorFetch_of_bytes hn hmay hlen).trans
      (if_neg fun ⟨hbit, hopen⟩ => hfence.elim (fun h => by simp [Started.flags, h] at hbit)
        (fun h => by simp [State.allDone_headPast, h] at hopen))
    refine ⟨_, next_whenOn_of_eq hon hdo, rfl, ?_⟩
    obtain ⟨hgood, hbad, hop⟩ := (s.headPast n).start_eq n ⟨(s.ring n).nextSeq, bs, false⟩
    exact ⟨fun hin hnone => congrArg (fun t : State => { t with pending := s.pending }) (hgood hin hnone),
      fun off hin hsome => congrArg (fun t : State => { t with pending := s.pending }) (hbad off hin hsome),
      fun hout => congrArg (fun t : State => { t with pending := s.pending }) (hop hout)⟩
  case waits =>
    intro s n bs hon hn hmay hlen hbit hopen
    exact next_whenOn_of_eq hon ((doDescriptorFetch_of_bytes hn hmay hlen).trans (if_pos ⟨hbit, by simp [State.allDone_headPast, hopen]⟩))
  case fails =>
    exact fun s n st bs hon hn hmay hst => next_whenOn_of_eq hon (doDescriptorFetch_of_status hn hmay hst bs)
  case nop => exact fun s n d hon hfind h => next_whenOn_of_eq hon (doNop_of_clean hfind h)
  case nopStray => exact fun s n off d hon hfind h => next_whenOn_of_eq hon (doNop_of_stray hfind h)
  case fenceStray => exact fun s n off d hon hfind h => next_whenOn_of_eq hon (doFence_of_stray hfind h)
  case fenceMet =>
    intro s n d hon hfind h hstarted hready
    refine next_whenOn_of_eq hon (doFence_of_met hfind h ?_)
    rintro (⟨x, hx, hlt⟩ | ⟨c, hc, hlt⟩)
    · exact absurd hlt (Nat.not_lt_of_le (hstarted x hx))
    · exact absurd hlt (Nat.not_lt_of_le (hready c hc))
  case fenceOpen =>
    exact fun s n d x hon hfind h hx hlt => next_whenOn_of_eq hon (doFence_of_waiting hfind h (.inl ⟨x, hx, hlt⟩))

/-! ### Copies (R71, R75) -/

theorem State.startCopy_of_bad {s : State} {n op off : Nat} {d : Started} (hfind : s.findOp n op = some d)
    (h : s.copyBad (s.ringPart n) d = some off) : s.startCopy n op = s.finish n d .badAddress off := by
  simp only [State.startCopy, hfind, h]

theorem State.startCopy_of_good {s : State} {n op : Nat} {d : Started} (hfind : s.findOp n op = some d)
    (h : s.copyBad (s.ringPart n) d = none) : s.startCopy n op =
      (if op = 0x05 then s.hostRead d.copyFields.bus d.copyFields.length else s).beginDesc n d := by
  simp only [State.startCopy, hfind, h]

theorem Started.length_copyFields (d : Started) : d.copyFields.length = d.opd 32 8 := by
  rw [Started.copyFields]
  split <;> rfl

theorem Started.copyFields_of_in {d : Started} (h : d.opcode = 0x05) :
    d.copyFields = ⟨24, 16, d.opd 24 8, d.opd 16 8, d.opd 32 8⟩ := if_pos h

theorem Started.copyFields_of_out {d : Started} (h : d.opcode = 0x06) :
    d.copyFields = ⟨16, 24, d.opd 16 8, d.opd 24 8, d.opd 32 8⟩ := if_neg (by omega)

/-- The state in which a copy's bytes move: the HBM stack it touches is awake (R399). -/
def State.wakeCopy (s : State) (n : Nat) (d : Started) : State :=
  s.wakeHbm (s.hbmBase (s.ringPart n) + d.copyFields.hbm) (d.opd 32 8)

section

variable {s : State} {n seq : Nat} {d : Started}

theorem doCopyDone_eq (hfind : (s.ring n).started.find?
      (fun d => d.seq == seq && d.begun && (d.opcode == 0x05 || d.opcode == 0x06)) = some d) (bs : List Byte) (st : Nat) :
    doCopyDone n seq bs st s =
      if st ≠ 0 then (s.wakeCopy n d).finish n d .hostError st
      else if d.opcode = 0x05 then
        ((s.wakeCopy n d).rawHbm (s.hbmBase (s.ringPart n) + d.copyFields.hbm) (slice bs 0 (d.opd 32 8))).finish n d .done
      else ((s.wakeCopy n d).hostWrite d.copyFields.bus
        (s.mem.readN (s.hbmBase (s.ringPart n) + d.copyFields.hbm) (d.opd 32 8))).finish n d .done := by
  simp only [doCopyDone, hfind, Started.length_copyFields]
  rfl

end

/-! ### Completions (R73, R74, R96) -/

theorem doCompletionWrite_of_full {s : State} {n : Nat} (st : Nat) (h : s.cplFull n = true) : doCompletionWrite n st s = s := by
  unfold doCompletionWrite
  split
  · rfl
  · exact if_pos h

theorem doCompletionWrite_of_status {s : State} {n st : Nat} {c : Completion} {l : List Completion}
    (hready : (s.ring n).ready = c :: l) (hroom : s.cplFull n = false) (hst : st ≠ 0) :
    doCompletionWrite n st s = s.hostFail n st := by
  simp [doCompletionWrite, hready, hroom, hst]

theorem doCompletionWrite_of_room {s : State} {n : Nat} {c : Completion} {l : List Completion}
    (hready : (s.ring n).ready = c :: l) (hroom : s.cplFull n = false) :
    doCompletionWrite n 0 s = ((s.modRing n (fun r => { r with ready := l })).putCompletion n c).startWaiting n := by
  simp [doCompletionWrite, hready, hroom]

/-- The registers, the counters and the bytes for the submitter are alike in two states. -/
structure State.showsAlike (s t : State) : Prop where
  regs : t.regs = s.regs
  counters : t.counters = s.counters
  host : t.out.host = s.out.host

theorem State.startWaiting_showsAlike (s : State) (n : Nat) : s.showsAlike (s.startWaiting n) := by
  have hsame : s.same [.rings] (s.startWaiting n) := State.startWaiting_keeps rfl (State.same_refl _ s)
  exact ⟨hsame.on .regs rfl, hsame.on .counters rfl, congrArg Outbox.host (hsame.on .out rfl)⟩

theorem State.gatherIrq_showsAlike (s : State) (n : Nat) (c : Completion) : s.showsAlike (s.gatherIrq n c) := by
  have hsame : s.same [.rings, .out] (s.gatherIrq n c) := State.gatherIrq_keeps rfl (State.same_refl _ s)
  refine ⟨hsame.on .regs rfl, hsame.on .counters rfl, ?_⟩
  unfold State.gatherIrq
  dsimp only
  split
  · rfl
  · split <;> split <;> rfl

/-- The bytes of a completion in the completion ring, with the tail past it (R73, R74). -/
def State.writeCompletion (s : State) (n : Nat) (c : Completion) : State :=
  ((s.stampUsed.hostWrite (s.pair (Reg.ringCplBase n) + 32 * (s.get (Reg.ringCplTail n) % s.cplSize n))
    (c.bytes (phaseBit (s.get (Reg.ringCplTail n)) (s.cplSize n)) (s.stampNow 9))).set (Reg.ringCplTail n)
      (s.get (Reg.ringCplTail n) + 1)).noteFull n

/-- A completion is counted, among the refused ones for a status above 1 (R96). -/
def State.countCompletion (s : State) (n : Nat) (c : Completion) : State :=
  if c.status ≤ 1 then s.count (Ctr.ringDoneCount n)
  else (s.count (Ctr.ringDoneCount n)).count (Ctr.ringRefusedCount n)

theorem State.putCompletion_eq (s : State) (n : Nat) (c : Completion) :
    s.putCompletion n c = ((s.writeCompletion n c).countCompletion n c).gatherIrq n c := rfl

theorem not_tickStatus_ringCplTail (n : Nat) : isTickStatus (Reg.ringCplTail n).addr = false := by
  simp [isTickStatus, Reg.ringCplTail]
  omega

theorem State.get_cplTail_writeCompletion (s : State) (n : Nat) (c : Completion) :
    (s.writeCompletion n c).get (Reg.ringCplTail n) = (s.get (Reg.ringCplTail n) + 1) % 2 ^ 32 := by
  rw [State.writeCompletion, State.noteFull, State.get_set_apart _ _ _ _ (.inl ?_), State.get_set_self]
  · rfl
  · simp [Reg.ringStatus_cplFull, Reg.ringCplTail]

theorem State.counters_writeCompletion (s : State) (n : Nat) (c : Completion) :
    (s.writeCompletion n c).counters = s.counters := by
  rw [State.writeCompletion, State.noteFull, State.set_counters, State.set_counters]
  exact s.stampUsed_counters

theorem State.host_writeCompletion (s : State) (n : Nat) (c : Completion) :
    (s.writeCompletion n c).out.host = s.out.host ++
      [⟨s.pair (Reg.ringCplBase n) + 32 * (s.get (Reg.ringCplTail n) % s.cplSize n),
        c.bytes (phaseBit (s.get (Reg.ringCplTail n)) (s.cplSize n)) (s.stampNow 9)⟩] := by
  rw [← s.stampUsed_out]
  rfl

theorem State.get_cplTail_countCompletion (s : State) (n : Nat) (c : Completion) :
    (s.countCompletion n c).get (Reg.ringCplTail n) = s.get (Reg.ringCplTail n) := by
  have h := not_tickStatus_ringCplTail n
  unfold State.countCompletion
  split
  · exact State.get_count _ _ _ _ h
  · exact (State.get_count _ _ _ _ h).trans (State.get_count _ _ _ _ h)

theorem State.counter_countCompletion (s : State) (n : Nat) (c : Completion) :
    (s.countCompletion n c).counter (Ctr.ringDoneCount n) = min (s.counter (Ctr.ringDoneCount n) + 1) counterMax ∧
      (s.countCompletion n c).counter (Ctr.ringRefusedCount n) = (if c.status ≤ 1 then s.counter (Ctr.ringRefusedCount n)
        else min (s.counter (Ctr.ringRefusedCount n) + 1) counterMax) ∧
      s.keepsCounters (s.countCompletion n c) [Ctr.ringDoneCount n, Ctr.ringRefusedCount n] := by
  have hne : Ctr.ringDoneCount n ≠ Ctr.ringRefusedCount n := by simp [Ctr.ringDoneCount, Ctr.ringRefusedCount]
  unfold State.countCompletion State.keepsCounters
  split
  · refine ⟨?_, ?_, fun x hx => ?_⟩ <;> rw [State.counter_count]
    · exact if_pos rfl
    · exact if_neg hne.symm
    · exact if_neg (by simp at hx; exact hx.1)
  · refine ⟨?_, ?_, fun x hx => ?_⟩ <;> rw [State.counter_count]
    · rw [if_neg hne, State.counter_count, if_pos rfl]
    · rw [if_pos rfl, State.counter_count, if_neg hne.symm]
    · simp at hx
      rw [if_neg hx.2, State.counter_count, if_neg hx.1]

theorem State.out_countCompletion (s : State) (n : Nat) (c : Completion) : (s.countCompletion n c).out = s.out := by
  unfold State.countCompletion
  split
  · exact State.count_out ..
  · exact (State.count_out ..).trans (State.count_out ..)

/-- What a completion that goes out shows. -/
theorem State.putCompletion_shows (s : State) (n : Nat) (c : Completion) :
    let t := (s.putCompletion n c).startWaiting n
    t.out.host = s.out.host ++ [⟨s.pair (Reg.ringCplBase n) + 32 * (s.get (Reg.ringCplTail n) % s.cplSize n),
        c.bytes (phaseBit (s.get (Reg.ringCplTail n)) (s.cplSize n)) (s.stampNow 9)⟩] ∧
      t.get (Reg.ringCplTail n) = (s.get (Reg.ringCplTail n) + 1) % 2 ^ 32 ∧
      t.counter (Ctr.ringDoneCount n) = min (s.counter (Ctr.ringDoneCount n) + 1) counterMax ∧
      t.counter (Ctr.ringRefusedCount n) = (if c.status ≤ 1 then s.counter (Ctr.ringRefusedCount n)
        else min (s.counter (Ctr.ringRefusedCount n) + 1) counterMax) ∧
      s.keepsCounters t [Ctr.ringDoneCount n, Ctr.ringRefusedCount n] := by
  have hwaiting := (s.putCompletion n c).startWaiting_showsAlike n
  have hirq := ((s.writeCompletion n c).countCompletion n c).gatherIrq_showsAlike n c
  rw [← State.putCompletion_eq] at hirq
  have hcounters := s.counters_writeCompletion n c
  obtain ⟨hdone, hrefused, hothers⟩ := (s.writeCompletion n c).counter_countCompletion n c
  simp only [State.counter_congr _ hcounters] at hdone hrefused
  have hcounter : ∀ x, ((s.putCompletion n c).startWaiting n).counter x =
      ((s.writeCompletion n c).countCompletion n c).counter x := fun x =>
    (State.counter_congr x hwaiting.counters).trans (State.counter_congr x hirq.counters)
  refine ⟨?_, ?_, (hcounter _).trans hdone, (hcounter _).trans hrefused, fun x hx => ?_⟩
  · rw [hwaiting.host, hirq.host, State.out_countCompletion, State.host_writeCompletion]
  · rw [State.get_congr _ hwaiting.regs, State.get_congr _ hirq.regs, State.get_cplTail_countCompletion,
      State.get_cplTail_writeCompletion]
  · exact (hcounter x).trans ((hothers x hx).trans (State.counter_congr x hcounters))

/-- Settles O18: a copy by its fields and by what the host port answers; a completion by the room in its ring. -/
theorem copiesAndCompletions : Obligations.CopiesAndCompletions := by
  refine ⟨⟨?copyIn, ?copyOut, ?copyDone⟩, ?written, ?full, ?fails⟩
  case copyIn =>
    intro s n d hon hfind
    cases h : s.copyBad (s.ringPart n) d with
    | some off => exact next_whenOn_of_eq hon (State.startCopy_of_bad hfind h)
    | none => exact next_whenOn_of_eq hon (State.startCopy_of_good hfind h)
  case copyOut =>
    intro s n d hon hfind
    cases h : s.copyBad (s.ringPart n) d with
    | some off => exact next_whenOn_of_eq hon (State.startCopy_of_bad hfind h)
    | none => exact next_whenOn_of_eq hon (State.startCopy_of_good hfind h)
  case copyDone =>
    intro s n seq st d bs hon hfind u
    refine ⟨fun hop hlen => next_whenOn_of_eq hon ?_, fun hop => next_whenOn_of_eq hon ?_, fun hst => next_whenOn_of_eq hon ?_⟩
    · rw [doCopyDone_eq hfind, if_neg (by simp), if_pos hop, slice_full hlen, Started.copyFields_of_in hop]
      rfl
    · rw [doCopyDone_eq hfind, if_neg (by simp), if_neg (by omega), Started.copyFields_of_out hop]
      rfl
    · exact (doCopyDone_eq hfind bs st).trans (if_pos hst)
  case written =>
    intro s n c l hon hready hroom
    obtain ⟨hhost, htail, hdone, hrefused, hothers⟩ := (s.modRing n (fun r => { r with ready := l })).putCompletion_shows n c
    exact ⟨_, next_whenOn_of_eq hon (doCompletionWrite_of_room hready hroom), hhost, htail, hdone, hrefused, hothers⟩
  case full => exact fun s n st hon hfull => next_whenOn_of_eq hon (doCompletionWrite_of_full st hfull)
  case fails =>
    exact fun s n st c l hon hready hroom hst => next_whenOn_of_eq hon (doCompletionWrite_of_status hready hroom hst)

end Sys2Proof.Machine
end

/-! # The slots of the exchange window: flips and time-outs (03_submission.md, R80, R82) -/

section

set_option Elab.async false

open Sys2Proof Sys2Proof.Machine

namespace Sys2Proof.Machine

/-! ### Flips (R80, R82) -/

/-- A flip reaches its slot with the slot's generation and before its deadline (R80). -/
def State.flipMeets (s : State) (p q i : Nat) (v : BitVec 64) : Prop :=
  bitsAt v.toNat 32 32 = (s.slot p q i).gen ∧ ((s.slot p q i).deadline = 0 ∨ s.time.now < (s.slot p q i).deadline)

section

variable {s : State} {p q i : Nat} {v : BitVec 64}

theorem State.flipMeets_iff : s.flipMeets p q i v ↔
    ¬((bitsAt v.toNat 32 32 != (s.slot p q i).gen || !s.flipInTime (s.slot p q i)) = true) := by
  simp only [State.flipMeets, State.flipInTime, Bool.or_eq_true, bne_iff_ne, Bool.not_eq_true', Bool.or_eq_false_iff,
    beq_eq_false_iff_ne, decide_eq_false_iff_not, not_or, not_and_or, not_not]

theorem State.flip_of_misses (hi : i < (s.pool p q).slots.length) (h : ¬ s.flipMeets p q i v) :
    s.flip p q i v = s.refuseFlip p q i (bitsAt v.toNat 32 32) := by
  rw [State.flip, if_neg (Nat.not_le_of_lt hi)]
  exact if_pos (Classical.not_not.mp fun hno => h (State.flipMeets_iff.mpr hno))

theorem State.flip_of_offered (hi : i < (s.pool p q).slots.length) (h : s.flipMeets p q i v)
    (hs : (s.slot p q i).state = .offered) (hc : bitsAt v.toNat 0 8 = 2) :
    s.flip p q i v =
      if s.poolUse p q = 1 then (s.modSlot p q i (fun x => { x with state := .filled, deadline := 0 })).joinIntake p q i
      else s.modSlot p q i (fun x => { x with state := .filled, deadline := 0 }) := by
  rw [State.flip, if_neg (Nat.not_le_of_lt hi), if_neg (State.flipMeets_iff.mp h)]
  simp only [hs, hc]

theorem State.flip_of_filled (hi : i < (s.pool p q).slots.length) (h : s.flipMeets p q i v)
    (hs : (s.slot p q i).state = .filled) (hc : bitsAt v.toNat 0 8 = 6) :
    s.flip p q i v =
      if s.poolUse p q = 2 then s.handOver p q i .offered else s.refuseFlip p q i (bitsAt v.toNat 32 32) := by
  rw [State.flip, if_neg (Nat.not_le_of_lt hi), if_neg (State.flipMeets_iff.mp h)]
  simp only [hs, hc]

theorem State.flip_of_result (hi : i < (s.pool p q).slots.length) (h : s.flipMeets p q i v)
    (hs : (s.slot p q i).state = .result) (hc : bitsAt v.toNat 0 8 = 6) :
    s.flip p q i v =
      if s.poolUse p q = 3 then s.modSlot p q i (fun x => { x with state := .free, deadline := 0 })
      else s.handOver p q i .offered := by
  rw [State.flip, if_neg (Nat.not_le_of_lt hi), if_neg (State.flipMeets_iff.mp h)]
  simp only [hs, hc]

/-- The flips that R80 and R82 take: of an OFFERED slot with code 2, of a FILLED slot of a command pool and of a RESULT slot
with code 6. -/
def State.flipTaken (s : State) (p q i code : Nat) : Prop :=
  ((s.slot p q i).state = .offered ∧ code = 2) ∨ ((s.slot p q i).state = .filled ∧ code = 6 ∧ s.poolUse p q = 2) ∨
    ((s.slot p q i).state = .result ∧ code = 6)

theorem State.flip_of_not_taken (hi : i < (s.pool p q).slots.length)
    (h : ¬(s.flipMeets p q i v ∧ s.flipTaken p q i (bitsAt v.toNat 0 8))) :
    s.flip p q i v = s.refuseFlip p q i (bitsAt v.toNat 32 32) := by
  by_cases hm : s.flipMeets p q i v
  · have hno : ¬ s.flipTaken p q i (bitsAt v.toNat 0 8) := fun ht => h ⟨hm, ht⟩
    rw [State.flip, if_neg (Nat.not_le_of_lt hi), if_neg (State.flipMeets_iff.mp hm)]
    split
    · next hs hc => exact absurd (.inl ⟨hs, hc⟩) hno
    · next hs hc => exact if_neg fun hu => hno (.inr (.inl ⟨hs, hc, hu⟩))
    · next hs hc => exact absurd (.inr (.inr ⟨hs, hc⟩)) hno
    · rfl
  · exact State.flip_of_misses hi hm

end

/-! ### Time-outs (R82) -/

theorem doSlotTimeout_of_offered {s : State} {p q i : Nat} (hd : (s.slot p q i).deadline ≠ 0)
    (hs : (s.slot p q i).state = .offered) : doSlotTimeout p q i s =
      ((s.advanceTo (s.slot p q i).deadline).handOver p q i .offered).count (Ctr.poolReclaim p q) := by
  simp only [doSlotTimeout, if_neg hd, hs]

theorem doSlotTimeout_of_result {s : State} {p q i : Nat} (hd : (s.slot p q i).deadline ≠ 0)
    (hs : (s.slot p q i).state = .result) : doSlotTimeout p q i s =
      ((let u := s.advanceTo (s.slot p q i).deadline
        if s.poolUse p q = 3 then u.modSlot p q i (fun x =>
          { x with state := .reclaimed, gen := (x.gen + 1) % 2 ^ 32, deadline := 0 })
        else u.handOver p q i .offered).count (Ctr.poolReclaim p q)).raise Ev.slotReclaimed (UnitId.pool p q)
        { value := i, value2 := ((s.slot p q i).gen + 1) % 2 ^ 32 } := by
  simp only [doSlotTimeout, if_neg hd, hs]
  rfl

/-- Settles O19: a flip by whether it meets its slot, and by the slot's state; a time-out by the slot's state. -/
theorem slotsAreFlippedAndReclaimed : Obligations.SlotsAreFlippedAndReclaimed := by
  refine ⟨?flips, ?offered, ?result, ?none⟩
  case flips =>
    intro s p q i v hon hi code ok
    exact ⟨fun hok hs hc hu => next_whenOn_of_eq hon ((State.flip_of_offered hi hok hs hc).trans (if_pos hu)),
      fun hok hs hc hu => next_whenOn_of_eq hon ((State.flip_of_offered hi hok hs hc).trans (if_neg hu)),
      fun hok hs hc hu => next_whenOn_of_eq hon ((State.flip_of_filled hi hok hs hc).trans (if_pos hu)),
      fun hok hs hc hu => next_whenOn_of_eq hon ((State.flip_of_result hi hok hs hc).trans (if_neg hu)),
      fun hok hs hc hu => next_whenOn_of_eq hon ((State.flip_of_result hi hok hs hc).trans (if_pos hu)),
      fun h => next_whenOn_of_eq hon (State.flip_of_not_taken hi h)⟩
  case offered => exact fun s p q i hon hd hs => next_whenOn_of_eq hon (doSlotTimeout_of_offered hd hs)
  case result => exact fun s p q i hon hd hs => next_whenOn_of_eq hon (doSlotTimeout_of_result hd hs)
  case none => exact fun s p q i hon hd => next_whenOn_of_eq hon (if_pos hd)

end Sys2Proof.Machine
end

/-! # Accesses of the submitter to the window (03_submission.md, R63, R78, R80, R81) -/

section

set_option Elab.async false

open Sys2Proof Sys2Proof.Machine

namespace Sys2Proof.Machine

/-! ### Little-endian bytes (R5) -/

theorem length_leBytes (n k : Nat) : (leBytes n k).length = k := by
  induction k generalizing n with
  | zero => rfl
  | succ k ih => rw [leBytes, List.length_cons, ih]

theorem leBytes_leNat (bs : List Byte) : leBytes (leNat bs) bs.length = bs := by
  induction bs with
  | nil => rfl
  | cons b bs ih =>
    have hlow : BitVec.ofNat 8 (b.toNat + 256 * leNat bs) = b := BitVec.eq_of_toNat_eq (by simp; omega)
    have hrest : (b.toNat + 256 * leNat bs) / 256 = leNat bs := by have := b.isLt; omega
    rw [leNat, List.length_cons, leBytes, hlow, hrest, ih]

theorem length_slice (bs : List Byte) (off n : Nat) : (slice bs off n).length = n := by simp [slice]

theorem leBytes_fieldAt (bs : List Byte) (off n : Nat) : leBytes (fieldAt bs off n) n = slice bs off n := by
  have h := leBytes_leNat (slice bs off n)
  rwa [length_slice] at h

theorem slice_append (bs : List Byte) (off m n : Nat) : slice bs off m ++ slice bs (off + m) n = slice bs off (m + n) := by
  simp [slice, List.range_add, Function.comp_def, Nat.add_assoc]

theorem slice_eq_take_drop {bs : List Byte} {off n : Nat} (h : off + n ≤ bs.length) :
    slice bs off n = (bs.drop off).take n := by
  refine List.ext_getElem (by simp [slice]; omega) fun i hi hi' => ?_
  have : off + i < bs.length := by simp [slice] at hi; omega
  simp [slice, this]

theorem patch_single {bs : List Byte} {k : Nat} (b : Byte) (h : k < bs.length) : patch bs k [b] = bs.set k b := by
  rw [patch, List.set_eq_take_append_cons_drop, if_pos h, List.take_of_length_le (l := [b]) (by simp; omega)]
  simp

/-! ### The bytes of a slot header (R78) -/

/-- The bytes of a header before the submitter's. -/
def Slot.front (sl : Slot) (q i : Nat) : List Byte :=
  leBytes sl.state.code 4 ++ leBytes sl.gen 4 ++ leBytes q 2 ++ leBytes 0 2 ++ leBytes i 4 ++ leBytes sl.deadline 8

/-- The bytes of a header that are the submitter's: tag to variant. -/
def Slot.ownBytes (sl : Slot) : List Byte :=
  leBytes sl.tag 8 ++ leBytes sl.length 4 ++ leBytes sl.crc 4 ++ leBytes sl.format 1 ++ leBytes sl.hflags 1 ++
    leBytes sl.variant 2

theorem Slot.length_front (sl : Slot) (q i : Nat) : (sl.front q i).length = 24 := by simp [Slot.front, length_leBytes]

theorem Slot.length_ownBytes (sl : Slot) : sl.ownBytes.length = 20 := by simp [Slot.ownBytes, length_leBytes]

theorem Slot.bytes_eq (sl : Slot) (q i : Nat) : sl.bytes q i = sl.front q i ++ (sl.ownBytes ++ leBytes 0 20) := by
  simp only [Slot.bytes, Slot.front, Slot.ownBytes, List.append_assoc]

theorem Slot.length_bytes (sl : Slot) (q i : Nat) : (sl.bytes q i).length = 64 := by
  simp [Slot.bytes_eq, Slot.length_front, Slot.length_ownBytes, length_leBytes]

theorem Slot.front_withHeader (sl : Slot) (bs : List Byte) (q i : Nat) : (sl.withHeader bs).front q i = sl.front q i := by
  simp only [Slot.front, Slot.withHeader]

theorem Slot.ownBytes_withHeader (sl : Slot) (bs : List Byte) : (sl.withHeader bs).ownBytes = slice bs 24 20 := by
  have hfields : slice bs 24 20 = slice bs 24 8 ++ slice bs 32 4 ++ slice bs 36 4 ++ slice bs 40 1 ++ slice bs 41 1 ++
      slice bs 42 2 := by
    rw [slice_append, slice_append, slice_append, slice_append, slice_append]
  rw [hfields]
  simp only [Slot.ownBytes, Slot.withHeader, leBytes_fieldAt]

/-- A header with one of the submitter's bytes changed holds that byte, and the others as before. -/
theorem Slot.bytes_withHeader_patch (sl : Slot) (q i : Nat) {k : Nat} (hlo : 24 ≤ k) (hhi : k < 44) (b : Byte) :
    (sl.withHeader (patch (sl.bytes q i) k [b])).bytes q i = (sl.bytes q i).set k b := by
  have hfront := sl.length_front q i
  have hown := sl.length_ownBytes
  have hset : (sl.bytes q i).set k b = sl.front q i ++ (sl.ownBytes.set (k - 24) b ++ leBytes 0 20) := by
    rw [Slot.bytes_eq, List.set_append_right _ _ (by omega), List.set_append_left _ _ (by omega), hfront]
  have hslice : slice ((sl.bytes q i).set k b) 24 20 = sl.ownBytes.set (k - 24) b := by
    rw [slice_eq_take_drop (by simp [Slot.length_bytes]), hset, List.drop_left' hfront, List.take_left' (by simp [hown])]
  rw [patch_single b (by rw [Slot.length_bytes]; omega), Slot.bytes_eq, Slot.ownBytes_withHeader, Slot.front_withHeader, hslice, hset]

/-! ### Slots and pools after a change of one -/

theorem State.getElem?_modPool (s : State) (p q p' q' : Nat) (f : Pool → Pool) :
    (s.modPool p q f).pools[16 * p' + q']? =
      if 16 * p + q = 16 * p' + q' then s.pools[16 * p' + q']?.map f else s.pools[16 * p' + q']? := by
  rw [State.modPool, List.getElem?_modify]
  split
  · rfl
  · simp

/-- What a change of a pool leaves alone in it reads as before in every pool. -/
theorem State.pool_modPool_congr {α : Type} (g : Pool → α) {f : Pool → Pool} (h : ∀ x, g (f x) = g x) (s : State)
    (p q p' q' : Nat) : g ((s.modPool p q f).pool p' q') = g (s.pool p' q') := by
  rw [State.pool, State.pool, State.getElem?_modPool]
  split
  · cases s.pools[16 * p' + q']? with
    | none => rfl
    | some x => exact h x
  · rfl

theorem State.pool_modPool_other (s : State) {p q q' : Nat} (f : Pool → Pool) (h : q' ≠ q) :
    (s.modPool p q f).pool p q' = s.pool p q' := by
  rw [State.pool, State.pool, State.getElem?_modPool, if_neg (by omega)]

theorem State.pool_modPool_self {s : State} {p q : Nat} {x : Pool} (f : Pool → Pool) (h : s.pools[16 * p + q]? = some x) :
    (s.modPool p q f).pool p q = f x := by
  rw [State.pool, State.getElem?_modPool, if_pos rfl, h]
  rfl

theorem State.slot_modSlot_self {s : State} {p q i : Nat} (f : Slot → Slot) (h : i < (s.pool p q).slots.length) :
    (s.modSlot p q i f).slot p q i = f (s.slot p q i) := by
  unfold State.modSlot
  cases hx : s.pools[16 * p + q]? with
  | none => simp [State.pool, hx, Pool.init] at h
  | some x =>
    have hpool : s.pool p q = x := by rw [State.pool, hx, Option.getD_some]
    rw [hpool] at h
    rw [State.slot, State.slot, State.pool_modPool_self _ hx, hpool]
    simp [h]

theorem State.slot_modSlot_other (s : State) {p q i q' i' : Nat} (f : Slot → Slot) (h : ¬(q' = q ∧ i' = i)) :
    (s.modSlot p q i f).slot p q' i' = s.slot p q' i' := by
  unfold State.modSlot
  by_cases hq : q' = q
  · subst hq
    have hi : i ≠ i' := fun e => h ⟨rfl, e.symm⟩
    refine State.pool_modPool_congr (fun x => (x.slots[i']?).getD ⟨.free, 0, 0, 0, 0, 0, 0, 0, 0⟩) (fun x => ?_) s p q' p q'
    simp [hi]
  · rw [State.slot, State.slot, State.pool_modPool_other _ _ hq]

/-! ### What a byte of the window is (R77) -/

theorem State.header_of_winByte {s : State} {p off q i b : Nat} (h : s.winByte p off = .header q i b) :
    i < (s.pool p q).slots.length ∧ off = s.poolBase p q + 64 * i + b := by
  unfold State.winByte at h
  cases hfound : (List.range 16).findSome? _ with
  | none =>
    rw [hfound] at h
    cases h
  | some w =>
    rw [hfound] at h
    obtain rfl : w = .header q i b := h
    obtain ⟨r, -, hr⟩ := List.exists_of_findSome?_eq_some hfound
    dsimp only at hr
    split at hr
    · cases hr
    · split at hr
      · next hin =>
        obtain ⟨hlo, hhi⟩ := hin
        simp only [Option.some.injEq, WinByte.header.injEq] at hr
        obtain ⟨rfl, rfl, rfl⟩ := hr
        constructor
        · omega
        · omega
      · split at hr <;> cases hr

/-! ### What the classification and the places of window bytes rest on -/

/-- The window of partition `p` lies alike in two states, with as many slots, each in the same state: the same register
values but for access_bad and seq_saturated. -/
structure State.keepsWindow (s t : State) (p : Nat) : Prop where
  fitted : t.fitted = s.fitted
  regs : s.keepsRegs t [(Reg.winStatus_accessBad p).addr]
  slots : ∀ q, (t.pool p q).slots.length = (s.pool p q).slots.length
  state : ∀ q i, (t.slot p q i).state = (s.slot p q i).state

namespace State.keepsWindow

variable {s t u : State} {p : Nat}

theorem refl (s : State) (p : Nat) : s.keepsWindow s p := ⟨rfl, fun _ _ _ => rfl, fun _ => rfl, fun _ _ => rfl⟩

theorem trans (h : s.keepsWindow t p) (h' : t.keepsWindow u p) : s.keepsWindow u p where
  fitted := h'.fitted.trans h.fitted
  regs a ha hn := (h'.regs a ha hn).trans (h.regs a ha hn)
  slots q := (h'.slots q).trans (h.slots q)
  state q i := (h'.state q i).trans (h.state q i)

theorem of_pools (hf : t.fitted = s.fitted) (hr : s.keepsRegs t [(Reg.winStatus_accessBad p).addr])
    (hp : t.pools = s.pools) : s.keepsWindow t p where
  fitted := hf
  regs := hr
  slots q := by rw [State.pool, State.pool, hp]
  state q i := by rw [State.slot, State.slot, State.pool, State.pool, hp]

/-- A register of the window, or the map of the dies, reads as before. -/
theorem reg (h : s.keepsWindow t p) {a : Nat} (ha : 0x300000 ≤ a) (hne : a ≠ (Reg.winStatus_accessBad p).addr) :
    t.reg a = s.reg a := by
  refine h.regs a (by simpa using hne) ?_
  simp only [isTickStatus, List.contains_cons, List.contains_nil, Bool.or_false, Bool.or_eq_false_iff, beq_eq_false_iff_ne]
  omega

theorem poolField (h : s.keepsWindow t p) {f : Fld} (hlo : 0x300100 + 0x1000 * p ≤ f.addr) : t.get f = s.get f := by
  rw [State.get, State.get, h.reg (by omega) (by simp [Reg.winStatus_accessBad]; omega)]

theorem winBytes (h : s.keepsWindow t p) : t.winBytes p = s.winBytes p := by
  rw [State.winBytes, State.winBytes, State.get, State.get,
    h.reg (by simp [Reg.winSize_size2mib]; omega) (by simp [Reg.winSize_size2mib, Reg.winStatus_accessBad])]

theorem winBase (h : s.keepsWindow t p) : t.winBase p = s.winBase p := by
  rw [State.winBase, State.winBase, State.pair, State.pair,
    h.reg (by simp [Reg.winHbmBase]) (by simp [Reg.winHbmBase, Reg.winStatus_accessBad]),
    h.reg (by simp [Reg.winHbmBase]; omega) (by simp [Reg.winHbmBase, Reg.winStatus_accessBad]; omega)]

theorem hbmBase (h : s.keepsWindow t p) : t.hbmBase p = s.hbmBase p := by
  have hmap : t.reg 0xD00018 = s.reg 0xD00018 := h.reg (by omega) (by simp [Reg.winStatus_accessBad]; omega)
  have hdies : t.diesOf p = s.diesOf p :=
    List.filter_congr fun d _ => decide_eq_decide.mpr (by rw [State.diePart, State.diePart, hmap])
  rw [State.hbmBase, State.hbmBase, State.firstDie, State.firstDie, hdies, h.fitted]

theorem winByte (h : s.keepsWindow t p) (off : Nat) : t.winByte p off = s.winByte p off := by
  have hbase : ∀ q, t.poolBase p q = s.poolBase p q := fun q => by
    rw [State.poolBase, State.poolBase, h.poolField (by simp [Reg.winPool_base])]
  have huse : ∀ q, t.poolUse p q = s.poolUse p q := fun q => h.poolField (by simp [Reg.winPool_use]; omega)
  have hbytes : ∀ q, t.slotBytes p q = s.slotBytes p q := fun q => by
    rw [State.slotBytes, State.slotBytes, h.poolField (by simp [Reg.winPool_slotLog2]; omega)]
  have hcount : ∀ q, t.poolCount p q = s.poolCount p q := fun q => h.poolField (by simp [Reg.winPool_slots]; omega)
  have hpayload : ∀ q, t.payloadBase p q = s.payloadBase p q := fun q => by
    rw [State.payloadBase, State.payloadBase, hbase, hcount]
  simp only [State.winByte, hbase, huse, hbytes, hpayload, h.slots]

theorem mayWrite (h : s.keepsWindow t p) (off : Nat) : t.mayWrite p off = s.mayWrite p off := by
  rw [State.mayWrite, State.mayWrite, h.winBytes, h.winByte]
  simp only [h.state]

/-- With the same slots and memory the submitter sees the same bytes. -/
theorem seen (h : s.keepsWindow t p) (hpools : t.pools = s.pools) (hmem : t.mem = s.mem) (off : Nat) :
    t.seenWinByte p off = s.seenWinByte p off := by
  have hslot : ∀ q i, t.slot p q i = s.slot p q i := fun q i => by rw [State.slot, State.slot, State.pool, State.pool, hpools]
  rw [State.seenWinByte, State.seenWinByte, h.winBytes, h.winByte, h.hbmBase, h.winBase, hmem]
  simp only [hslot]

end State.keepsWindow

/-! ### One byte stored (R78, R81) -/

/-- A byte of a window lies at this module address. -/
def State.winAddress (s : State) (p off : Nat) : Nat := s.hbmBase p + (s.winBase p + off)

theorem State.putWinByte_of_header {s : State} {p off q i k : Nat} (h : s.winByte p off = .header q i k) (b : Byte) :
    s.putWinByte p off b = s.modSlot p q i (fun sl => sl.withHeader (patch (sl.bytes q i) k [b])) := by
  simp only [State.putWinByte, h]

theorem State.putWinByte_of_memory {s : State} {p off : Nat} (h : ∀ q i k, s.winByte p off ≠ .header q i k) (b : Byte) :
    s.putWinByte p off b = s.rawHbm (s.winAddress p off) [b] := by
  unfold State.putWinByte
  split
  · next q i k hw => exact absurd hw (h q i k)
  · rfl

theorem State.keepsWindow.modSlot (s : State) (p q i : Nat) {f : Slot → Slot} (h : ∀ x, (f x).state = x.state) :
    s.keepsWindow (s.modSlot p q i f) p where
  fitted := rfl
  regs _ _ _ := rfl
  slots r := State.pool_modPool_congr (fun x => x.slots.length) (fun _ => List.length_modify ..) s p q p r
  state r j := by
    refine State.pool_modPool_congr (fun x => ((x.slots[j]?).getD ⟨.free, 0, 0, 0, 0, 0, 0, 0, 0⟩).state) (fun x => ?_) s p q p r
    rw [List.getElem?_modify]
    split
    · cases x.slots[j]? with
      | none => rfl
      | some y => exact h y
    · simp

theorem Slot.state_withHeader (sl : Slot) (bs : List Byte) : (sl.withHeader bs).state = sl.state := by
  simp only [Slot.withHeader]

theorem State.putWinByte_keepsWindow (s : State) (p off : Nat) (b : Byte) : s.keepsWindow (s.putWinByte p off b) p := by
  by_cases h : ∃ q i k, s.winByte p off = .header q i k
  · obtain ⟨q, i, k, hw⟩ := h
    rw [State.putWinByte_of_header hw]
    exact .modSlot s p q i fun _ => Slot.state_withHeader ..
  · rw [State.putWinByte_of_memory fun q i k hw => h ⟨q, i, k, hw⟩]
    exact .of_pools rfl (fun _ _ _ => rfl) rfl

/-- The submitter's bytes of a header are those at offsets 24 to 43, of an OFFERED slot. -/
theorem State.mayWrite_header {s : State} {p off q i k : Nat} (hw : s.winByte p off = .header q i k)
    (h : s.mayWrite p off = true) : 24 ≤ k ∧ k < 44 := by
  simp only [State.mayWrite, hw, Bool.and_eq_true, decide_eq_true_eq] at h
  exact h.2.1

theorem State.lt_winBytes_of_mayWrite {s : State} {p off : Nat} (h : s.mayWrite p off = true) : off < s.winBytes p := by
  simp only [State.mayWrite, Bool.and_eq_true, decide_eq_true_eq] at h
  exact h.1

theorem State.offered_of_mayWrite {s : State} {p off q i : Nat} (hw : s.winByte p off = .payload q i)
    (h : s.mayWrite p off = true) : (s.slot p q i).state = .offered := by
  simp only [State.mayWrite, hw, Bool.and_eq_true, beq_iff_eq] at h
  exact h.2

section

variable {s : State} {p a : Nat}

theorem State.seen_of_beyond (h : s.winBytes p ≤ a) : s.seenWinByte p a = 0xFF := if_pos h

theorem State.seen_of_header {q i k : Nat} (h : a < s.winBytes p) (hw : s.winByte p a = .header q i k) :
    s.seenWinByte p a = (((s.slot p q i).bytes q i)[k]?).getD 0 := by
  simp only [State.seenWinByte, if_neg (Nat.not_le_of_lt h), hw]

theorem State.seen_of_payload {q i : Nat} (h : a < s.winBytes p) (hw : s.winByte p a = .payload q i) :
    s.seenWinByte p a =
      if (s.slot p q i).state = .offered ∨ (s.slot p q i).state = .result then s.mem.read (s.winAddress p a) else 0xFF := by
  simp only [State.seenWinByte, if_neg (Nat.not_le_of_lt h), hw, State.winAddress, Nat.add_assoc, Bool.or_eq_true, beq_iff_eq]

theorem State.seen_of_other (h : a < s.winBytes p) (hw : s.winByte p a = .other) :
    s.seenWinByte p a = s.mem.read (s.winAddress p a) := by
  simp only [State.seenWinByte, if_neg (Nat.not_le_of_lt h), hw, State.winAddress, Nat.add_assoc]

end

theorem State.keepsWindow.winAddress {s t : State} {p : Nat} (h : s.keepsWindow t p) (off : Nat) :
    t.winAddress p off = s.winAddress p off := by
  rw [State.winAddress, State.winAddress, h.hbmBase, h.winBase]

/-- A header byte of an OFFERED slot that is stored is seen there, and no other byte changes. -/
theorem State.seen_putHeader {s : State} {p off q i k : Nat} (b : Byte) (hmay : s.mayWrite p off = true)
    (hw : s.winByte p off = .header q i k) (a : Nat) :
    (s.putWinByte p off b).seenWinByte p a = if a = off then b else s.seenWinByte p a := by
  have hkeeps := s.putWinByte_keepsWindow p off b
  have hin := State.lt_winBytes_of_mayWrite hmay
  obtain ⟨hlo, hhi⟩ := State.mayWrite_header hw hmay
  obtain ⟨hi, hoff⟩ := State.header_of_winByte hw
  have hput := State.putWinByte_of_header hw b
  have hmem : (s.putWinByte p off b).mem = s.mem := by rw [hput]; rfl
  by_cases hbeyond : s.winBytes p ≤ a
  · rw [State.seen_of_beyond (by rwa [hkeeps.winBytes]), State.seen_of_beyond hbeyond, if_neg (by omega)]
  · have ha := Nat.lt_of_not_le hbeyond
    have ha' : a < (s.putWinByte p off b).winBytes p := by rwa [hkeeps.winBytes]
    cases hwa : s.winByte p a with
    | header q' i' k' =>
      rw [State.seen_of_header ha' ((hkeeps.winByte a).trans hwa), State.seen_of_header ha hwa, hput]
      by_cases hslot : q' = q ∧ i' = i
      · obtain ⟨rfl, rfl⟩ := hslot
        obtain ⟨-, hat⟩ := State.header_of_winByte hwa
        rw [State.slot_modSlot_self _ hi, Slot.bytes_withHeader_patch _ _ _ hlo hhi, List.getElem?_set]
        by_cases hk : k = k'
        · rw [if_pos hk, if_pos (by rw [Slot.length_bytes]; omega), if_pos (by omega)]
          rfl
        · rw [if_neg hk, if_neg (by omega)]
      · have hne : a ≠ off := fun e => hslot (by
          rw [e, hw] at hwa
          obtain ⟨hq, hj, -⟩ := WinByte.header.inj hwa
          exact ⟨hq.symm, hj.symm⟩)
        rw [State.slot_modSlot_other _ _ hslot, if_neg hne]
    | payload q' i' =>
      have hne : a ≠ off := fun e => by simp [e, hw] at hwa
      rw [State.seen_of_payload ha' ((hkeeps.winByte a).trans hwa), State.seen_of_payload ha hwa, hkeeps.state, hmem,
        hkeeps.winAddress, if_neg hne]
    | other =>
      have hne : a ≠ off := fun e => by simp [e, hw] at hwa
      rw [State.seen_of_other ha' ((hkeeps.winByte a).trans hwa), State.seen_of_other ha hwa, hmem, hkeeps.winAddress,
        if_neg hne]

/-- A byte of memory that is stored is seen there, and no other byte changes. -/
theorem State.seen_putMemory {s : State} {p off : Nat} (b : Byte) (hmay : s.mayWrite p off = true)
    (hw : ∀ q i k, s.winByte p off ≠ .header q i k) (a : Nat) :
    (s.putWinByte p off b).seenWinByte p a = if a = off then b else s.seenWinByte p a := by
  have hkeeps := s.putWinByte_keepsWindow p off b
  have hin := State.lt_winBytes_of_mayWrite hmay
  have hput := State.putWinByte_of_memory hw b
  have hpools : (s.putWinByte p off b).pools = s.pools := by rw [hput]; rfl
  have hread : (s.putWinByte p off b).mem.read (s.winAddress p a) = if a = off then b else s.mem.read (s.winAddress p a) := by
    rw [hput]
    refine (Memory.read_write _ _ _ _).trans (if_congr ?_ rfl rfl)
    rw [State.winAddress, State.winAddress]
    omega
  by_cases hbeyond : s.winBytes p ≤ a
  · rw [State.seen_of_beyond (by rwa [hkeeps.winBytes]), State.seen_of_beyond hbeyond, if_neg (by omega)]
  · have ha := Nat.lt_of_not_le hbeyond
    have ha' : a < (s.putWinByte p off b).winBytes p := by rwa [hkeeps.winBytes]
    cases hwa : s.winByte p a with
    | header q' i' k' =>
      rw [State.seen_of_header ha' ((hkeeps.winByte a).trans hwa), State.seen_of_header ha hwa, State.slot, State.pool, hpools,
        if_neg]
      · rfl
      · rintro rfl
        exact hw _ _ _ hwa
    | payload q' i' =>
      rw [State.seen_of_payload ha' ((hkeeps.winByte a).trans hwa), State.seen_of_payload ha hwa, hkeeps.state,
        hkeeps.winAddress, hread]
      by_cases hat : a = off
      · subst hat
        rw [if_pos rfl, if_pos rfl, if_pos (.inl (State.offered_of_mayWrite hwa hmay))]
      · rw [if_neg hat, if_neg hat]
    | other =>
      rw [State.seen_of_other ha' ((hkeeps.winByte a).trans hwa), State.seen_of_other ha hwa, hkeeps.winAddress, hread]

theorem State.seen_putWinByte {s : State} {p off : Nat} (b : Byte) (hmay : s.mayWrite p off = true) (a : Nat) :
    (s.putWinByte p off b).seenWinByte p a = if a = off then b else s.seenWinByte p a := by
  by_cases h : ∃ q i k, s.winByte p off = .header q i k
  · obtain ⟨q, i, k, hw⟩ := h
    exact State.seen_putHeader b hmay hw a
  · exact State.seen_putMemory b hmay (fun q i k hw => h ⟨q, i, k, hw⟩) a

/-! ### All bytes of a write (R78, R81) -/

/-- One byte of a write: stored if the submitter may write it. -/
def State.putPermitted (s : State) (p off : Nat) (b : Byte) : State :=
  if s.mayWrite p off then s.putWinByte p off b else s

theorem State.putWin_cons (s : State) (p off : Nat) (b : Byte) (bs : List Byte) :
    s.putWin p off (b :: bs) = (s.putPermitted p off b).putWin p (off + 1) bs := rfl

theorem State.putPermitted_keepsWindow (s : State) (p off : Nat) (b : Byte) : s.keepsWindow (s.putPermitted p off b) p := by
  unfold State.putPermitted
  split
  · exact s.putWinByte_keepsWindow p off b
  · exact .refl s p

theorem State.seen_putPermitted (s : State) (p off : Nat) (b : Byte) (a : Nat) :
    (s.putPermitted p off b).seenWinByte p a = if a = off ∧ s.mayWrite p a = true then b else s.seenWinByte p a := by
  unfold State.putPermitted
  by_cases h : s.mayWrite p off = true
  · rw [if_pos h, State.seen_putWinByte b h]
    exact if_congr ⟨fun e => ⟨e, e ▸ h⟩, And.left⟩ rfl rfl
  · rw [if_neg h, if_neg fun e : a = off ∧ _ => h (e.1 ▸ e.2)]

theorem State.putWin_keepsWindow (bs : List Byte) (s : State) (p off : Nat) : s.keepsWindow (s.putWin p off bs) p := by
  induction bs generalizing s off with
  | nil => exact .refl s p
  | cons b bs ih => exact (s.putPermitted_keepsWindow p off b).trans (ih ..)

/-- What the submitter sees after a write: the permitted bytes as written, every other byte as before. -/
theorem State.seen_putWin (bs : List Byte) (s : State) (p off a : Nat) :
    (s.putWin p off bs).seenWinByte p a =
      if off ≤ a ∧ a < off + bs.length ∧ s.mayWrite p a = true then (bs[a - off]?).getD 0 else s.seenWinByte p a := by
  induction bs generalizing s off with
  | nil => exact (if_neg (by simp; omega)).symm
  | cons b bs ih =>
    rw [State.putWin_cons, ih, (s.putPermitted_keepsWindow p off b).mayWrite, State.seen_putPermitted, List.length_cons]
    by_cases hmay : s.mayWrite p a = true
    · by_cases hat : a = off
      · rw [if_neg (by omega), if_pos ⟨hat, hmay⟩, if_pos ⟨by omega, by omega, hmay⟩, hat, Nat.sub_self]
        rfl
      · by_cases hin : off + 1 ≤ a ∧ a < off + 1 + bs.length
        · obtain ⟨j, rfl⟩ : ∃ j, a = off + (j + 1) := ⟨a - off - 1, by omega⟩
          rw [if_pos ⟨hin.1, hin.2, hmay⟩, if_pos ⟨by omega, by omega, hmay⟩, Nat.add_sub_cancel_left,
            show off + (j + 1) - (off + 1) = j by omega]
          rfl
        · rw [if_neg (by omega), if_neg fun h => hat h.1, if_neg (by omega)]
    · simp [hmay]

/-- A write changes memory only where a permitted byte of it lies that is no header byte. -/
theorem State.mem_putWin (bs : List Byte) (s : State) (p off a : Nat)
    (h : ∀ k, k < bs.length → s.mayWrite p (off + k) = true → a = s.winAddress p (off + k) →
      ∃ q i b, s.winByte p (off + k) = .header q i b) : (s.putWin p off bs).mem.read a = s.mem.read a := by
  induction bs generalizing s off with
  | nil => rfl
  | cons b bs ih =>
    have hkeeps := s.putPermitted_keepsWindow p off b
    rw [State.putWin_cons, ih]
    · unfold State.putPermitted
      split
      · next hmay =>
        by_cases hw : ∃ q i k, s.winByte p off = .header q i k
        · obtain ⟨q, i, k, hw⟩ := hw
          rw [State.putWinByte_of_header hw]
          rfl
        · rw [State.putWinByte_of_memory fun q i k e => hw ⟨q, i, k, e⟩]
          refine (Memory.read_write _ _ _ _).trans (if_neg fun e => hw ?_)
          exact h 0 (by simp) hmay e
      · rfl
    · intro k hk
      rw [hkeeps.mayWrite, hkeeps.winAddress, hkeeps.winByte, Nat.add_assoc, Nat.add_comm 1 k]
      exact h (k + 1) (by simpa using hk)

/-! ### Flag fields touched, and the report of a discarded byte (R78, R80) -/

theorem State.refuseFlip_keepsRegs {s t : State} {l : List Nat} (h : s.keepsRegs t l) (p q i gen : Nat) :
    s.keepsRegs (t.refuseFlip p q i gen) l := fun a ha hn =>
  (State.reg_raise _ _ _ _ a hn).trans ((State.reg_count _ _ _ a hn).trans (h a ha hn))

theorem State.refuseFlip_pathHas_mono {s : State} {e : EvKind} {u : UnitId} {d : Detail} (h : s.pathHas e u d)
    (p q i gen : Nat) : (s.refuseFlip p q i gen).pathHas e u d :=
  State.pathHas_raise_mono _ _ _ _ _ _ _ (State.pathHas_count_mono _ _ _ _ _ _ h)

/-- The flips of these slots are refused, with the generations that the bytes carry (R80). -/
def State.refuseAll (s : State) (p off : Nat) (bs : List Byte) (l : List (Nat × Nat × Nat)) : State :=
  l.foldl (fun s x => s.refuseFlip p x.1 x.2.1 (genWritten x.2.2 off bs)) s

theorem State.refuseAll_keepsRegs (s : State) (p off : Nat) (bs : List Byte) (l : List (Nat × Nat × Nat)) :
    s.keepsRegs (s.refuseAll p off bs l) [] :=
  List.foldlRecOn (motive := fun t : State => s.keepsRegs t []) l _ (fun _ _ _ => rfl) fun _ h _ _ =>
    State.refuseFlip_keepsRegs h _ _ _ _

theorem State.refuseAll_pathHas_mono {s : State} {e : EvKind} {u : UnitId} {d : Detail} (h : s.pathHas e u d)
    (p off : Nat) (bs : List Byte) (l : List (Nat × Nat × Nat)) : (s.refuseAll p off bs l).pathHas e u d :=
  List.foldlRecOn (motive := fun t : State => t.pathHas e u d) l _ h fun _ h _ _ => State.refuseFlip_pathHas_mono h ..

theorem State.refuseAll_reports (s : State) (p off : Nat) (bs : List Byte) {l : List (Nat × Nat × Nat)} {q i flag : Nat}
    (h : (q, i, flag) ∈ l) : (s.refuseAll p off bs l).pathHas Ev.slotFlipRefused (UnitId.pool p q)
      { value := i, value2 := genWritten flag off bs } := by
  induction l generalizing s with
  | nil => cases h
  | cons x l ih =>
    rcases List.mem_cons.mp h with rfl | h
    · exact State.refuseAll_pathHas_mono (State.pathHas_raise _ _ _ _) ..
    · exact ih _ h

/-- The slots whose flag fields a write touches: in the order of its bytes, with the window offset of the flag (R80). -/
theorem State.refuseFlags_eq (s : State) (p off : Nat) (bs : List Byte) : ∃ l, s.refuseFlags p off bs = s.refuseAll p off bs l ∧
    (∀ k q i b, k < bs.length → s.winByte p (off + k) = .header q i b → b < 8 → (b = 0 ∨ k = 0) → (q, i, off + k - b) ∈ l) ∧
    ((∀ k q i b, k < bs.length → s.winByte p (off + k) = .header q i b → 8 ≤ b) → l = []) := by
  refine ⟨_, rfl, fun k q i b hk hw hb hfirst => ?_, fun h => ?_⟩
  · refine List.mem_filterMap.mpr ⟨k, List.mem_range.mpr hk, ?_⟩
    simp only [hw, hb, hfirst, and_self, if_true]
  · refine List.filterMap_eq_nil_iff.mpr fun k hk => ?_
    split
    · next q i b hw => exact if_neg fun hb => absurd (h k q i b (List.mem_range.mp hk) hw) (Nat.not_le_of_lt hb.1)
    · rfl

theorem State.winBad_keepsWindow (s : State) (p off : Nat) : s.keepsWindow (s.winBad p off) p := by
  refine .of_pools ((State.raise_fitted ..).trans (State.set_fitted ..)) (fun a ha hn => ?_)
    ((State.raise_pools ..).trans (State.set_pools ..))
  exact (State.reg_raise _ _ _ _ a hn).trans (State.reg_set_other _ _ _ _ (by simpa using ha))

theorem State.get_accessBad_winBad (s : State) (p off : Nat) : (s.winBad p off).get (Reg.winStatus_accessBad p) = 1 := by
  refine (State.get_raise _ _ _ _ _ ?_).trans (State.get_set_self ..)
  simp only [isTickStatus, Reg.winStatus_accessBad, List.contains_cons, List.contains_nil, Bool.or_false,
    Bool.or_eq_false_iff, beq_eq_false_iff_ne]
  omega

theorem State.winBad_pathHas_mono {s : State} {e : EvKind} {u : UnitId} {d : Detail} (h : s.pathHas e u d) (p off : Nat) :
    (s.winBad p off).pathHas e u d :=
  State.pathHas_raise_mono _ _ _ _ _ _ _ (State.pathHas_congr (State.set_events ..) h)

/-! ### The write as a whole (R63, R78, R80, R81) -/

/-- A byte of the write is discarded that is no byte of a flag field. -/
def State.discards (s : State) (p off : Nat) (bs : List Byte) : Bool :=
  (List.range bs.length).any (fun k => !s.mayWrite p (off + k) && !s.flagByte p (off + k))

/-- A write with its bytes stored and the flips it touches refused. -/
def State.storeWin (s : State) (p off : Nat) (bs : List Byte) : State :=
  ((s.wakeWin p off bs.length).putWin p off bs).refuseFlags p off bs

/-- A write that discards such a byte is reported (R78). -/
def State.reportDiscard (s : State) (p off : Nat) (bad : Bool) : State := if bad then s.winBad p off else s

theorem State.reportDiscard_keeps {s t : State} {l : List Field} (hl : covers eventFields l = true) (h : s.same l t)
    (p off : Nat) (bad : Bool) : s.same l (t.reportDiscard p off bad) := by
  cases bad with
  | false => exact h
  | true => exact State.winBad_keeps hl h

theorem State.reportDiscard_keepsWindow (s : State) (p off : Nat) (bad : Bool) :
    s.keepsWindow (s.reportDiscard p off bad) p := by
  cases bad with
  | false => exact .refl s p
  | true => exact s.winBad_keepsWindow p off

theorem State.reportDiscard_pathHas_mono {s : State} {e : EvKind} {u : UnitId} {d : Detail} (h : s.pathHas e u d)
    (p off : Nat) (bad : Bool) : (s.reportDiscard p off bad).pathHas e u d := by
  cases bad with
  | false => exact h
  | true => exact State.winBad_pathHas_mono h p off

theorem State.reportDiscard_of_bad (s : State) (p off : Nat) :
    (s.reportDiscard p off true).get (Reg.winStatus_accessBad p) = 1 ∧
      (s.reportDiscard p off true).pathHas Ev.winAccessBad (UnitId.partition p)
        { value := (p * 2 ^ 36 + off) / 64, cause := 1 } :=
  ⟨s.get_accessBad_winBad p off, State.pathHas_raise _ _ _ _⟩

theorem State.discards_of_discarded {s : State} {p off k : Nat} {bs : List Byte} (hk : k < bs.length)
    (hmay : s.mayWrite p (off + k) = false) (hflag : s.flagByte p (off + k) = false) : s.discards p off bs = true :=
  List.any_eq_true.mpr ⟨k, List.mem_range.mpr hk, by simp [hmay, hflag]⟩

theorem State.discards_of_permitted {s : State} {p off : Nat} {bs : List Byte}
    (h : ∀ k, k < bs.length → s.mayWrite p (off + k) = true) : s.discards p off bs = false :=
  List.any_eq_false.mpr fun k hk => by simp [h k (List.mem_range.mp hk)]

theorem doWindowWrite_of_flip {s : State} {p off q i : Nat} {bs : List Byte} (hw : s.winByte p off = .header q i 0)
    (hlen : bs.length = 8) : doWindowWrite p off bs s = doSlotFlip p q i (BitVec.ofNat 64 (fieldAt bs 0 8)) s := by
  simp only [doWindowWrite, hw, hlen, decide_true, doSlotFlip]

theorem doWindowWrite_of_bytes {s : State} {p off : Nat} {bs : List Byte}
    (h : ¬(bs.length = 8 ∧ ∃ q i, s.winByte p off = .header q i 0)) :
    doWindowWrite p off bs s =
      (s.storeWin p off bs).reportDiscard p off (s.discards p off bs) := by
  unfold doWindowWrite
  split
  · next q i hw hlen => exact absurd ⟨of_decide_eq_true hlen, q, i, hw⟩ h
  · rfl

theorem State.wakeWin_keepsWindow (s : State) (p off n : Nat) : s.keepsWindow (s.wakeWin p off n) p :=
  .of_pools rfl (fun _ _ _ => rfl) rfl

theorem State.refuseFlags_same (s : State) (p off : Nat) (bs : List Byte) : s.same countFields (s.refuseFlags p off bs) :=
  State.refuseFlags_keeps rfl (State.same_refl _ s)

theorem State.refuseFlags_keepsWindow (s : State) (p off : Nat) (bs : List Byte) : s.keepsWindow (s.refuseFlags p off bs) p := by
  have hsame := s.refuseFlags_same p off bs
  obtain ⟨l, hl, -, -⟩ := s.refuseFlags_eq p off bs
  refine .of_pools (hsame.on .fitted rfl) (fun a _ hn => ?_) (hsame.on .pools rfl)
  rw [hl]
  exact s.refuseAll_keepsRegs p off bs l a rfl hn

/-- What a write stores: the bytes the submitter sees, the memory, the flips it refuses. -/
theorem State.storeWin_shows (s : State) (p off : Nat) (bs : List Byte) :
    let t := s.storeWin p off bs
    (∀ a, t.seenWinByte p a =
      if off ≤ a ∧ a < off + bs.length ∧ s.mayWrite p a = true then (bs[a - off]?).getD 0 else s.seenWinByte p a) ∧
    (∀ a, (∀ k, k < bs.length → s.mayWrite p (off + k) = true → a = s.winAddress p (off + k) →
      ∃ q i b, s.winByte p (off + k) = .header q i b) → t.mem.read a = s.mem.read a) ∧
    (∀ k q i b, k < bs.length → s.winByte p (off + k) = .header q i b → b < 8 → (b = 0 ∨ k = 0) →
      t.pathHas Ev.slotFlipRefused (UnitId.pool p q) { value := i, value2 := genWritten (off + k - b) off bs }) := by
  have hwake := s.wakeWin_keepsWindow p off bs.length
  have hput := State.putWin_keepsWindow bs (s.wakeWin p off bs.length) p off
  have hflags := ((s.wakeWin p off bs.length).putWin p off bs).refuseFlags_keepsWindow p off bs
  have hsame := ((s.wakeWin p off bs.length).putWin p off bs).refuseFlags_same p off bs
  refine ⟨fun a => ?_, fun a ha => ?_, fun k q i b hk hw hb hfirst => ?_⟩
  · rw [State.storeWin, hflags.seen (hsame.on .pools rfl) (hsame.on .mem rfl), State.seen_putWin, hwake.mayWrite,
      hwake.seen rfl rfl]
  · refine (congrArg (Memory.read · a) (hsame.on .mem rfl)).trans (State.mem_putWin bs _ p off a fun k hk => ?_)
    rw [hwake.mayWrite, hwake.winAddress, hwake.winByte]
    exact ha k hk
  · obtain ⟨l, hl, hmem, -⟩ := ((s.wakeWin p off bs.length).putWin p off bs).refuseFlags_eq p off bs
    rw [State.storeWin, hl]
    refine State.refuseAll_reports _ p off bs (hmem k q i b hk ?_ hb hfirst)
    rw [hput.winByte, hwake.winByte, hw]

/-- A write of bytes that are all the submitter's touches no flag field. -/
theorem State.storeWin_of_permitted {s : State} {p off : Nat} {bs : List Byte}
    (h : ∀ k, k < bs.length → s.mayWrite p (off + k) = true) :
    s.storeWin p off bs = (s.wakeWin p off bs.length).putWin p off bs := by
  have hwake := s.wakeWin_keepsWindow p off bs.length
  have hput := State.putWin_keepsWindow bs (s.wakeWin p off bs.length) p off
  obtain ⟨l, hl, -, hnone⟩ := ((s.wakeWin p off bs.length).putWin p off bs).refuseFlags_eq p off bs
  rw [State.storeWin, hl, hnone]
  · rfl
  · intro k q i b hk hw
    rw [hput.winByte, hwake.winByte] at hw
    have := (State.mayWrite_header hw (h k hk)).1
    omega

theorem State.storeWin_same (s : State) (p off : Nat) (bs : List Byte) :
    s.same (countFields ++ [.mem, .tags, .pools, .power]) (s.storeWin p off bs) :=
  State.refuseFlags_keeps rfl (State.putWin_keeps rfl (State.wakeWin_keeps rfl (State.same_refl _ s)))

/-! ### The statement -/

theorem doWindowRead_eq (s : State) (p off n : Nat) :
    doWindowRead p off n s =
      let t := (s.wakeWin p off n).answer ((List.range n).map (fun k => s.seenWinByte p (off + k)))
      if s.winBytes p < off + n then t.winBad p off else t := by
  have hseen : ∀ k, (s.wakeWin p off n).seenWinByte p (off + k) = s.seenWinByte p (off + k) := fun k =>
    (s.wakeWin_keepsWindow p off n).seen rfl rfl _
  simp only [doWindowRead, hseen]
  rfl

/-- Settles O20: a read byte by byte; a write as a flip, or byte by byte with what it touches beside the submitter's. -/
theorem windowAccesses : Obligations.WindowAccesses := by
  refine ⟨?read, ?beyond, ?flip, ?bytes⟩
  case read => exact fun s p off n hon h => next_whenOn_of_eq hon ((doWindowRead_eq s p off n).trans (if_neg (by omega)))
  case beyond => exact fun s p off n hon h => next_whenOn_of_eq hon ((doWindowRead_eq s p off n).trans (if_pos h))
  case flip =>
    exact fun s p off q i bs hon hw hlen =>
      (next_whenOn_of_eq hon (doWindowWrite_of_flip hw hlen)).trans (next_whenOn_of_eq hon rfl).symm
  case bytes =>
    intro s p off bs hon hbytes
    have hdo := doWindowWrite_of_bytes hbytes
    obtain ⟨hseen, hmem, hflags⟩ := s.storeWin_shows p off bs
    have hsame := State.reportDiscard_keeps rfl (State.same_refl eventFields (s.storeWin p off bs)) p off (s.discards p off bs)
    have hkeeps := (s.storeWin p off bs).reportDiscard_keepsWindow p off (s.discards p off bs)
    have hbad : s.discards p off bs = true → _ := fun h => h ▸ (s.storeWin p off bs).reportDiscard_of_bad p off
    have hpath := fun e u d (h : (s.storeWin p off bs).pathHas e u d) =>
      State.reportDiscard_pathHas_mono h p off (s.discards p off bs)
    have hall : (∀ k, k < bs.length → s.mayWrite p (off + k) = true) → s.same [.mem, .tags, .pools, .power]
        ((s.storeWin p off bs).reportDiscard p off (s.discards p off bs)) := fun h => by
      rw [State.discards_of_permitted h, State.storeWin_of_permitted h]
      exact State.putWin_keeps rfl (State.wakeWin_keeps rfl (State.same_refl _ s))
    have hframe := State.reportDiscard_keeps rfl (s.storeWin_same p off bs) p off (s.discards p off bs)
    generalize (s.storeWin p off bs).reportDiscard p off (s.discards p off bs) = t at *
    have hsee : ∀ a, ({ t with pending := s.pending } : State).seenWinByte p a = _ := fun a =>
      (hkeeps.seen (hsame.on .pools rfl) (hsame.on .mem rfl) a).trans (hseen a)
    refine ⟨_, next_whenOn_of_eq hon hdo, fun k b hb hmay => ?_, fun a ha => ?_, fun a ha => ?_, fun k hk hmay hflag => ?_,
      fun k q i b hk hw hb hfirst => ?_, fun h => (hall h).withPending _, hframe.withPending _⟩
    · obtain ⟨hk, hget⟩ := List.getElem?_eq_some_iff.mp hb
      rw [hsee, if_pos ⟨by omega, by omega, hmay⟩, Nat.add_sub_cancel_left, hb]
      rfl
    · rw [hsee, if_neg]
      rintro ⟨hlo, hhi, hmay⟩
      rcases ha with ha | ha | ha
      · omega
      · omega
      · simp [hmay] at ha
    · exact (congrArg (Memory.read · a) (hsame.on .mem rfl)).trans (hmem a ha)
    · obtain ⟨hget, hreport⟩ := hbad (State.discards_of_discarded hk hmay hflag)
      exact ⟨(State.get_withPending ..).trans hget, hreport.withPending _⟩
    · exact (hpath _ _ _ (hflags k q i b hk hw hb hfirst)).withPending _

end Sys2Proof.Machine
end

/-! # Plans: loading, unloading and admission (03_submission.md, R70, R72, R74, R92; 01_exposure.md, R26, R30, R38) -/

section

set_option Elab.async false

open Sys2Proof Sys2Proof.Machine

namespace Sys2Proof.Machine

/-! ### LOAD_PLAN (R92) -/

/-- The image in a command slot (R84). -/
def State.imageIn (s : State) (p q i : Nat) : Image :=
  Image.ofSlot p (min (s.slot p q i).length (s.slotBytes p q))
    (s.readWin p (s.payloadOf p q i) (min (s.slot p q i).length (s.slotBytes p q)))

/-- A load is refused with the checks it fails (R74, R92). -/
def State.refuseLoad (s : State) (ring : Nat) (d : Started) (p : Nat) (m : Image) (fails : List Nat) : State :=
  (s.raise Ev.planLoadRefused (UnitId.partition p) { value := m.header.planId, value2 := fails.foldl min 255 }).finish
    ring d .refused (loadDetail fails)

theorem doLoadPlan_of_filled {s : State} {ring : Nat} {d : Started} (hfind : s.findOp ring 0x02 = some d)
    (hstray : d.strayOperand [(16, 2), (20, 4)] = none) (hpool : d.badPool 16 = none)
    (hfilled : s.slotFilled (s.ringPart ring) (d.opd 16 2) (d.opd 20 4) 2 = true) :
    doLoadPlan ring s =
      let p := s.ringPart ring
      let m := s.imageIn p (d.opd 16 2) (d.opd 20 4)
      let v := s.consumeSlot p (d.opd 16 2) (d.opd 20 4)
      (if s.loadFailures p m = [] then v.acceptPlan ring d p m
        else v.refuseLoad ring d p m (s.loadFailures p m)).releaseSlot p (d.opd 16 2) (d.opd 20 4) := by
  simp only [doLoadPlan, hfind, hstray, hpool, Option.or_none, hfilled, Bool.not_true, Bool.false_eq_true, if_false,
    List.isEmpty_iff]
  rfl

/-- The plan stands in the plan store, and the digest of its image is kept (R92, R417). -/
def State.storePlan (s : State) (p : Nat) (m : Image) : State :=
  { s with
    plans := s.plans ++ [m.clamped]
    trust := { s.trust with planDigests := insertKey s.trust.planDigests p (sha512 m.bytes) } }

theorem State.acceptPlan_same (s : State) (ring : Nat) (d : Started) (p : Nat) (m : Image) :
    (s.storePlan p m).same (countFields ++ [.mem, .tags, .parts, .rings]) (s.acceptPlan ring d p m) := by
  have hclamps := foldl_keeps (L := countFields ++ [.mem, .tags, .parts, .rings])
    (fun (v : State) c => v.reportClamp (UnitId.partition p) p ⟨c.1 + c.2.2.off, 2, 0, 32, ring, c.2.2.written, c.2.2.stored⟩)
    m.clamps (fun _ _ h => State.reportClamp_keeps rfl h) (State.same_refl _ (s.storePlan p m))
  unfold State.acceptPlan
  dsimp only
  split
  · exact State.finish_keeps rfl (State.raise_keeps rfl hclamps)
  · exact State.finish_keeps rfl (State.raise_keeps rfl hclamps)

theorem State.releaseSlot_same (s : State) (p q i : Nat) : s.same [.pools, .out] (s.releaseSlot p q i) :=
  State.releaseSlot_keeps rfl (State.same_refl _ s)

theorem State.consumeSlot_same (s : State) (p q i : Nat) : s.same (countFields ++ [.pools]) (s.consumeSlot p q i) :=
  State.consumeSlot_keeps rfl (State.same_refl _ s)

/-- A load that passes every check leaves its plan in the store. -/
theorem State.plans_of_accepted (s : State) (ring : Nat) (d : Started) (p q i : Nat) (m : Image) :
    (((s.consumeSlot p q i).acceptPlan ring d p m).releaseSlot p q i).plans = s.plans ++ [m.clamped] := by
  have hplans : (s.consumeSlot p q i).plans = s.plans := (s.consumeSlot_same p q i).on .plans rfl
  calc _ = ((s.consumeSlot p q i).acceptPlan ring d p m).plans := (State.releaseSlot_same _ p q i).on .plans rfl
    _ = ((s.consumeSlot p q i).storePlan p m).plans := (State.acceptPlan_same _ ring d p m).on .plans rfl
    _ = s.plans ++ [m.clamped] := by rw [State.storePlan, hplans]

/-- A load that fails a check leaves the store alone and is reported. -/
theorem State.refuseLoad_shows (s : State) (ring : Nat) (d : Started) (p q i : Nat) (m : Image) (fails : List Nat) :
    let t := ((s.consumeSlot p q i).refuseLoad ring d p m fails).releaseSlot p q i
    t.plans = s.plans ∧ t.pathHas Ev.planLoadRefused (UnitId.partition p)
      { value := m.header.planId, value2 := fails.foldl min 255 } := by
  have hrefused : s.same (countFields ++ [.pools, .rings]) ((s.consumeSlot p q i).refuseLoad ring d p m fails) :=
    State.finish_keeps rfl (State.raise_keeps rfl (State.consumeSlot_keeps rfl (State.same_refl _ s)))
  have hreleased := ((s.consumeSlot p q i).refuseLoad ring d p m fails).releaseSlot_same p q i
  refine ⟨(hreleased.on .plans rfl).trans (hrefused.on .plans rfl), State.pathHas_congr (hreleased.on .events rfl) ?_⟩
  exact State.pathHas_raise (s.consumeSlot p q i) _ _ _

/-! ### UNLOAD_PLAN (R70, R72) -/

section

variable {s : State} {ring : Nat} {d : Started}

theorem doUnloadPlan_of_loaded (hfind : s.findOp ring 0x04 = some d) (hstray : d.strayOperand [(16, 4)] = none)
    (hplan : s.plans.any (fun pl => pl.planId == d.opd 16 4 && pl.partition == s.ringPart ring) = true) :
    doUnloadPlan ring s =
      let q := s.part (s.ringPart ring)
      if q.plan = some (d.opd 16 4) ∧ q.phase ≠ .idle then s.finish ring d .state q.phase.code
      else (s.dropPlan (s.ringPart ring) (d.opd 16 4)).finish ring d .done := by
  simp only [doUnloadPlan, hfind, hstray, hplan, Bool.not_true, Bool.false_eq_true, if_false]

end

/-- The shares of a plan that leaves the store end where they stand (log entry 47). -/
def State.endShares (s : State) (p : Nat) (gone : List Nat) : State :=
  (s.coresOf p).foldl (fun s c => match (s.core c).running with
    | some (g, _) => if gone.contains g then
        ((s.modCore c (fun k => { k with running := none })).leaveDevelopers c).set (Reg.coreStatus_state c) 0 else s
    | none => s) s

theorem State.endShares_same (s : State) (p : Nat) (gone : List Nat) :
    s.same [.regs, .cores, .devQueues] (s.endShares p gone) := by
  refine foldl_keeps _ _ (fun v c h => ?_) (State.same_refl _ s)
  split
  · split
    · exact State.set_keeps rfl (State.leaveDevelopers_keeps rfl (State.modCore_keeps rfl h))
    · exact h
  · exact h

theorem State.plans_dropPlan (s : State) (p id : Nat) :
    (s.dropPlan p id).plans = s.plans.filter (fun pl => pl.planId != id) := by
  have hshares := (s.endShares_same p ((((s.planById id).map (·.graphs)).getD []).map (·.number))).on .plans rfl
  refine congrArg (List.filter fun pl : Plan => pl.planId != id) ?_
  split
  · exact hshares
  · exact hshares

/-! ### ADMIT (R26, R38) -/

section

variable {s : State} {ring : Nat} {d : Started}

/-- The check of a loaded plan starts, its report slot taken (R26, R38). -/
def State.startCheck (s : State) (ring : Nat) (d : Started) : State :=
  ((s.consumeSlot (s.ringPart ring) (d.opd 20 2) (d.opd 24 4)).beginDesc ring d).modPart (s.ringPart ring) (fun x =>
    { x with
      phase := .checking, plan := some (d.opd 16 4), restarted := false, admitRing := ring, admitSeq := d.seq
      reportPool := d.opd 20 2, reportSlot := d.opd 24 4 })

theorem doAdmitPlan_of_loaded (hfind : s.findOp ring 0x03 = some d)
    (hstray : d.strayOperand [(16, 4), (20, 2), (24, 4)] = none) (hpool : d.badPool 20 = none)
    (hplan : s.plans.any (fun pl => pl.planId == d.opd 16 4 && pl.partition == s.ringPart ring) = true) :
    doAdmitPlan ring s =
      let p := s.ringPart ring
      if (s.part p).phase ≠ .idle then s.finish ring d .state (s.part p).phase.code
      else if s.slotFilled p (d.opd 20 2) (d.opd 24 4) 2 = false then s.finish ring d .slotState 24
      else s.startCheck ring d := by
  simp only [doAdmitPlan, hfind, hstray, hpool, hplan, Option.or_none, Bool.not_true, Bool.false_eq_true, if_false,
    Bool.not_eq_true']
  rfl

theorem State.startCheck_shows {q : Part} (hq : s.parts[s.ringPart ring]? = some q) :
    ((s.startCheck ring d).part (s.ringPart ring)).phase = .checking ∧
      ((s.startCheck ring d).part (s.ringPart ring)).plan = some (d.opd 16 4) ∧
      (∀ r, r ≠ s.ringPart ring → (s.startCheck ring d).part r = s.part r) ∧ s.sameMem (s.startCheck ring d) := by
  have htaken : s.same (countFields ++ [.pools, .rings])
      ((s.consumeSlot (s.ringPart ring) (d.opd 20 2) (d.opd 24 4)).beginDesc ring d) :=
    State.beginDesc_keeps rfl (State.consumeSlot_keeps rfl (State.same_refl _ s))
  have hparts := htaken.on .parts rfl
  have hmem := State.sameMem_of_same htaken rfl
  unfold State.startCheck
  generalize (s.consumeSlot (s.ringPart ring) (d.opd 20 2) (d.opd 24 4)).beginDesc ring d = v at hparts hmem ⊢
  have hself := State.part_modPart_self (s := v) (p := s.ringPart ring) (q := q) (fun x =>
    { x with
      phase := .checking, plan := some (d.opd 16 4), restarted := false, admitRing := ring, admitSeq := d.seq
      reportPool := d.opd 20 2, reportSlot := d.opd 24 4 }) ((congrArg (·[s.ringPart ring]?) hparts).trans hq)
  exact ⟨congrArg Part.phase hself, congrArg Part.plan hself,
    fun r hr => (State.part_modPart_other v _ hr).trans (State.part_congr r hparts), hmem⟩

end

/-! ### The end of the light meter's check (R26, R30, R38) -/

/-- The state in which a check ends: its report is written, the peaks of the activation account stand in their registers
(R38, R250). -/
def State.reportCheck (s : State) (p : Nat) (pl : Plan) : State :=
  let x := s.part p
  let k := s.checkOf p pl
  (s.stampUsed.writeReport p x.reportPool x.reportSlot
    ((s.meter k).report k (s.get (Reg.tickReserve_reservePct p)) ((s.slotBytes p x.reportPool - 64) / 32) x.restarted
      (s.stampNow 1))).notePeaks k

/-- The ADMIT that began a check completes, if its descriptor is still there. -/
def State.endAdmit (s : State) (d : Option Started) (ring : Nat) (c : Status) (v : Nat) : State :=
  match d with
  | none => s
  | some d => s.finish ring d c v

theorem State.endAdmit_same (s : State) (d : Option Started) (ring : Nat) (c : Status) (v : Nat) :
    s.same [.rings] (s.endAdmit d ring c v) := by
  unfold State.endAdmit
  split
  · exact State.same_refl _ s
  · exact State.finish_keeps rfl (State.same_refl _ s)

/-- The partition returns to IDLE and the refusal is counted (R26). -/
def State.refusePlan (s : State) (p : Nat) : State :=
  (s.modPart p (fun x => { x with phase := .idle, plan := none })).count (Ctr.tickRefusalCount p)

theorem doLightMeterDone_of_checking {s : State} {p : Nat} {pl : Plan} {q : Part} (hq : s.parts[p]? = some q)
    (hphase : q.phase = .checking) (hplan : q.plan.bind s.planById = some pl) :
    doLightMeterDone p s =
      let r := s.meter (s.checkOf p pl)
      let v := s.reportCheck p pl
      let d := v.descOf q.admitRing q.admitSeq
      if r.entries = [] then ((v.admitPlan p pl r.worst.ns).raise Ev.planAdmitted (UnitId.partition p)
        { value := pl.planId, value2 := unsigned 32 r.worst.ns }).endAdmit d q.admitRing .done 0
      else ((v.refusePlan p).raise Ev.planRefused (UnitId.partition p)
        { value := pl.planId, value2 := min r.entries.length 65535 }).endAdmit d q.admitRing .planRefused
          (min r.entries.length 65535) := by
  have hpart := State.part_of_getElem? hq
  simp only [doLightMeterDone, hpart, hplan, hphase, ne_eq, not_true_eq_false, if_false, List.isEmpty_iff,
    State.reportCheck, State.endAdmit, State.refusePlan] <;> rfl

theorem State.reportCheck_same (s : State) (p : Nat) (pl : Plan) :
    s.same (eventFields ++ [.mem, .tags, .pools, .out]) (s.reportCheck p pl) :=
  State.notePeaks_keeps rfl (State.writeReport_keeps rfl (State.stampUsed_keeps rfl (State.same_refl _ s)))

/-- Where a partition stands: its phase and its step. -/
def Part.standing (q : Part) : PlanState × Nat := (q.phase, q.step)

theorem State.standing_of_same {L : List Field} {s t : State} (p : Nat) (h : s.same L t)
    (hL : L.contains .parts = false := by rfl) : (t.part p).standing = (s.part p).standing :=
  congrArg Part.standing (State.part_congr p (h.on .parts hL))

theorem State.standing_beginRestore (s : State) (p : Nat) (pl : Plan) :
    ((s.beginRestore p pl).part p).standing = (s.part p).standing := by
  unfold State.beginRestore
  dsimp only
  rw [State.standing_of_same p (State.noteFixers_keeps (L := [.regs]) rfl (State.same_refl _ _))]
  refine State.part_modPart_congr Part.standing (fun _ => ?_) s p p
  rfl

theorem State.standing_admitGroups (s : State) (p : Nat) (pl : Plan) :
    ((s.admitGroups p pl).part p).standing = (s.part p).standing := by
  unfold State.admitGroups
  refine State.part_modPart_congr Part.standing (fun _ => ?_) s p p
  rfl

/-- What an admission sets up beside the partition itself leaves the partition where it stands. -/
theorem State.standing_setUp (s : State) (p : Nat) (pl : Plan) :
    (((((((s.admitLayers pl).admitGroups p pl).openTraining p pl).adoptIntake p pl).showPlan p pl).beginRestore p pl).part
      p).standing = (s.part p).standing := by
  rw [State.standing_beginRestore, State.standing_of_same p (State.showPlan_keeps (L := [.regs]) rfl (State.same_refl _ _)),
    State.standing_of_same p (State.adoptIntake_keeps (L := [.regs, .intake]) rfl (State.same_refl _ _)),
    State.standing_of_same p (State.openTraining_keeps (L := eventFields ++ [.contexts]) rfl (State.same_refl _ _)),
    State.standing_admitGroups, State.standing_of_same p (State.admitLayers_keeps (L := [.layers]) rfl (State.same_refl _ _))]

theorem State.standing_admitPlan {s : State} {p : Nat} {q : Part} (hq : s.parts[p]? = some q) (pl : Plan) (margin : Int) :
    ((s.admitPlan p pl margin).part p).standing = (.admitted, 0) := by
  unfold State.admitPlan
  dsimp only
  rw [State.standing_of_same p (State.set_keeps (L := [.regs]) rfl (State.same_refl _ _))]
  have hepoch : ∀ (c : Prop) [Decidable c] (v : State) (f : Fld) (x : Nat),
      ((if c then v.set f x else v).part p).standing = (v.part p).standing := fun c _ v f x => by
    split
    · rfl
    · rfl
  rw [hepoch, State.standing_setUp]
  exact congrArg Part.standing (State.part_modPart_self _ hq)

theorem State.refusePlan_shows {s : State} {p : Nat} {q : Part} (hq : s.parts[p]? = some q) :
    ((s.refusePlan p).part p).phase = .idle ∧ ((s.refusePlan p).part p).plan = none ∧
      (s.refusePlan p).counter (Ctr.tickRefusalCount p) = min (s.counter (Ctr.tickRefusalCount p) + 1) counterMax := by
  have hpart : (s.refusePlan p).part p = { q with phase := .idle, plan := none } :=
    (State.part_congr p (State.count_parts ..)).trans (State.part_modPart_self _ hq)
  exact ⟨congrArg Part.phase hpart, congrArg Part.plan hpart, (State.counter_count ..).trans (if_pos rfl)⟩

/-- A plan without an entry is admitted, at step 0 and with the smallest margin. -/
theorem State.admits_shows {v : State} {p : Nat} {q : Part} (hq : v.parts[p]? = some q) (pl : Plan) (margin : Int)
    (d : Option Started) :
    let t := ((v.admitPlan p pl margin).raise Ev.planAdmitted (UnitId.partition p)
      { value := pl.planId, value2 := unsigned 32 margin }).endAdmit d q.admitRing .done 0
    (t.part p).phase = .admitted ∧ (t.part p).step = 0 ∧
      t.pathHas Ev.planAdmitted (UnitId.partition p) { value := pl.planId, value2 := unsigned 32 margin } := by
  intro t
  have hended : _ := State.endAdmit_same ((v.admitPlan p pl margin).raise Ev.planAdmitted (UnitId.partition p)
    { value := pl.planId, value2 := unsigned 32 margin }) d q.admitRing .done 0
  have hstanding : (t.part p).standing = (.admitted, 0) :=
    (State.standing_of_same p hended).trans ((congrArg Part.standing (State.part_congr p (State.raise_parts ..))).trans
      (State.standing_admitPlan hq pl margin))
  exact ⟨congrArg Prod.fst hstanding, congrArg Prod.snd hstanding,
    State.pathHas_congr (hended.on .events rfl) (State.pathHas_raise _ _ _ _)⟩

/-- A plan with entries is refused: the partition is IDLE again, with the refusal counted. -/
theorem State.refuses_shows {v : State} {p : Nat} {q : Part} (hq : v.parts[p]? = some q) (pl : Plan) (n : Nat)
    (d : Option Started) :
    let t := ((v.refusePlan p).raise Ev.planRefused (UnitId.partition p) { value := pl.planId, value2 := n }).endAdmit d
      q.admitRing .planRefused n
    (t.part p).phase = .idle ∧ (t.part p).plan = none ∧
      t.counter (Ctr.tickRefusalCount p) = min (v.counter (Ctr.tickRefusalCount p) + 1) counterMax ∧
      t.pathHas Ev.planRefused (UnitId.partition p) { value := pl.planId, value2 := n } := by
  intro t
  have hended := State.endAdmit_same ((v.refusePlan p).raise Ev.planRefused (UnitId.partition p)
    { value := pl.planId, value2 := n }) d q.admitRing .planRefused n
  have hpart : t.part p = (v.refusePlan p).part p := State.part_congr p ((hended.on .parts rfl).trans (State.raise_parts ..))
  have hcounters : t.counters = (v.refusePlan p).counters := (hended.on .counters rfl).trans (State.raise_counters ..)
  obtain ⟨hphase, hplan, hcount⟩ := State.refusePlan_shows hq
  exact ⟨(congrArg Part.phase hpart).trans hphase, (congrArg Part.plan hpart).trans hplan,
    (State.counter_congr _ hcounters).trans hcount,
    State.pathHas_congr (hended.on .events rfl) (State.pathHas_raise _ _ _ _)⟩

/-- Settles O41: a load by the checks it fails, an unload and an ADMIT by the partition's phase, the end of a check by its
entries. -/
theorem plansAreLoadedAndAdmitted : Obligations.PlansAreLoadedAndAdmitted := by
  refine ⟨⟨?load, ?unload⟩, ?starts, ?checked⟩
  case load =>
    intro s ring d hon hfind hstray hpool p q i hfilled len m
    have hdo : doLoadPlan ring s = (if s.loadFailures p m = [] then (s.consumeSlot p q i).acceptPlan ring d p m
        else (s.consumeSlot p q i).refuseLoad ring d p m (s.loadFailures p m)).releaseSlot p q i :=
      doLoadPlan_of_filled hfind hstray hpool hfilled
    clear_value len m
    by_cases hpass : s.loadFailures p m = []
    · rw [if_pos hpass] at hdo
      refine ⟨_, next_whenOn_of_eq hon hdo, ?_⟩
      rw [if_pos hpass]
      exact ⟨rfl, State.plans_of_accepted s ring d p q i m⟩
    · rw [if_neg hpass] at hdo
      refine ⟨_, next_whenOn_of_eq hon hdo, ?_⟩
      rw [if_neg hpass]
      obtain ⟨hplans, hpath⟩ := State.refuseLoad_shows s ring d p q i m (s.loadFailures p m)
      exact ⟨hplans, hpath.withPending _⟩
  case unload =>
    intro s ring d hon hfind hstray hplan
    have hdo := doUnloadPlan_of_loaded hfind hstray hplan
    have hsame : s.same [.regs, .rings, .plans, .parts, .cores, .devQueues]
        ((s.dropPlan (s.ringPart ring) (d.opd 16 4)).finish ring d .done) :=
      State.finish_keeps rfl (State.dropPlan_keeps rfl (State.same_refl _ s))
    refine ⟨fun hin => next_whenOn_of_eq hon (hdo.trans (if_pos hin)), fun hidle => ?_⟩
    exact ⟨_, next_whenOn_of_eq hon (hdo.trans (if_neg fun h => h.2 hidle)),
      s.plans_dropPlan (s.ringPart ring) (d.opd 16 4), State.sameMem_of_same (hsame.withPending _) rfl⟩
  case starts =>
    intro s ring d q hon hfind hstray hpool hq hplan
    have hpart := State.part_of_getElem? hq
    have hdo := doAdmitPlan_of_loaded hfind hstray hpool hplan
    dsimp only at hdo
    rw [hpart] at hdo
    refine ⟨fun hbusy => next_whenOn_of_eq hon (hdo.trans (if_pos hbusy)), fun hidle hfilled => ?_⟩
    have hstart := (hdo.trans (if_neg (· hidle))).trans (if_neg (by simp [hfilled]))
    obtain ⟨hphase, hplan, hothers, hmem⟩ := State.startCheck_shows (d := d) hq
    generalize s.startCheck ring d = t at *
    exact ⟨_, next_whenOn_of_eq hon hstart, hphase, hplan, hothers, hmem⟩
  case checked =>
    intro s p pl q hon hq hphase hplan r
    have hdo := doLightMeterDone_of_checking hq hphase hplan
    have hsame := s.reportCheck_same p pl
    have hq' := (congrArg (·[p]?) (hsame.on .parts rfl)).trans hq
    by_cases hnone : r.entries = []
    · obtain ⟨hphase, hstep, hpath⟩ := State.admits_shows hq' pl r.worst.ns ((s.reportCheck p pl).descOf q.admitRing q.admitSeq)
      rw [← hdo.trans (if_pos hnone)] at hphase hstep hpath
      generalize hend : doLightMeterDone p s = t at *
      refine ⟨_, next_whenOn_of_eq hon hend, ?_⟩
      rw [if_pos hnone]
      exact ⟨hphase, hstep, hpath.withPending _⟩
    · obtain ⟨hphase, hgone, hcount, hpath⟩ := State.refuses_shows hq' pl (min r.entries.length 65535)
        ((s.reportCheck p pl).descOf q.admitRing q.admitSeq)
      rw [State.counter_congr _ (hsame.on .counters rfl)] at hcount
      rw [← hdo.trans (if_neg hnone)] at hphase hgone hcount hpath
      generalize hend : doLightMeterDone p s = t at *
      refine ⟨_, next_whenOn_of_eq hon hend, ?_⟩
      rw [if_neg hnone]
      exact ⟨hphase, hgone, hcount, hpath.withPending _⟩

end Sys2Proof.Machine
end

/-! # Outputs, joins and the event collector (03_submission.md, R90; 17_events_index.md, R437; R443) -/

section

set_option Elab.async false

open Sys2Proof Sys2Proof.Machine

namespace Sys2Proof.Machine

/-! ### Outputs and joins (R90, R443) -/

/-- The slot header of an output (R443). -/
def State.outputHeader (s : State) (r : Running) (o : Operand) : OutputHeader :=
  let k := EmitPar.ofBytes r.task.params
  let tv := s.emitTag r k
  ⟨tv.1, k.length, if bitAt k.flags 0 = 1 then crc32c (s.emitPayload r.p o.t k) else 0, k.format,
    bitAt k.flags 0 + (if tv.2 ≤ 1023 then 2 else 0), if tv.2 ≤ 1023 then tv.2 else 0⟩

section

variable {s : State} {c : Nat} {r : Running}

theorem doEmitOutput_of_payload {o : Operand} (hr : s.runningOn c = some r) (hop : r.task.op = 0x0011) (ho : r.slot 0 = some o)
    (he : r.usesEmpty = false) : doEmitOutput c s =
      let k := EmitPar.ofBytes r.task.params
      ((s.readErrors r o (emitBlocks o.t k)).emit r.p k.pool (s.outputHeader r o) (s.emitPayload r.p o.t k)).endTask c r 0
        false := by
  simp [doEmitOutput, hr, hop, ho, he, State.outputHeader]

theorem doEmitOutput_of_empty (hr : s.runningOn c = some r) (hop : r.task.op = 0x0011)
    (he : r.usesEmpty = true ∨ r.slot 0 = none) : doEmitOutput c s = s.endEmpty c r := by
  simp only [doEmitOutput, hr, hop, ne_eq, not_true_eq_false, if_false]
  split
  · rfl
  · next o ho => exact if_pos (he.resolve_right (by simp [ho]))

theorem doJoin_of_join (hr : s.runningOn c = some r) (hop : r.task.op = 0x0012) : doJoin c s = s.endTask c r 0 false := by
  simp [doJoin, hr, hop]

end

/-! ### The collector (R437) -/

/-- The event path without its oldest record. -/
def State.dropOldest (s : State) (rest : List PathRec) : State := { s with events := { s.events with path := rest } }

theorem doEventCollect_of_cons {s : State} {r : PathRec} {rest : List PathRec} (h : s.events.path = r :: rest) (full : Bool) :
    doEventCollect full s = if full then (s.dropOldest rest).count (Ctr.evtEventsLostCount 0) else (s.dropOldest rest).accept r := by
  simp only [doEventCollect, h]
  rfl

theorem doEventCollect_of_nil {s : State} (h : s.events.path = []) (full : Bool) : doEventCollect full s = s := by
  simp only [doEventCollect, h]

theorem State.log_stampUsed (s : State) : s.stampUsed.events.log = s.events.log := by
  unfold State.stampUsed
  split
  · rfl
  · split <;> rfl

theorem State.log_count (s : State) (c n : Nat) : (s.count c n).events.log = s.events.log := by
  unfold State.count
  dsimp only
  split
  · exact State.log_stampUsed _
  · rfl

/-- Settles O53: a task by its op and its tensor, the collector by the path. -/
theorem outputsAndRecordsLeave : Obligations.OutputsAndRecordsLeave := by
  refine ⟨?output, ?empty, ?join, ?collect, ?nothing⟩
  case output => exact fun s c r o hon hr hop ho he => next_whenOn_of_eq hon (doEmitOutput_of_payload hr hop ho he)
  case empty => exact fun s c r hon hr hop he => next_whenOn_of_eq hon (doEmitOutput_of_empty hr hop he)
  case join => exact fun s c r hon hr hop => next_whenOn_of_eq hon (doJoin_of_join hr hop)
  case collect =>
    intro s r rest hon hpath
    refine ⟨next_whenOn_of_eq hon (doEventCollect_of_cons hpath false), _,
      next_whenOn_of_eq hon (doEventCollect_of_cons hpath true), ?_, ?_, ?_⟩
    · exact (State.counter_count (s.dropOldest rest) _ 1 _).trans (if_pos rfl)
    · exact State.count_out (s.dropOldest rest) _ 1
    · exact State.log_count (s.dropOldest rest) _ 1
  case nothing => exact fun s full hon hpath => next_whenOn_of_eq hon (doEventCollect_of_nil hpath full)

end Sys2Proof.Machine
end
